-- ==== Sys2Proof/Word.lean ====
section
/-! DEFINITION. The word types of the Onzar OZ4-384 (03 R49, 05 R103): 64-bit register words, bytes,
32-bit instruction words, 4-bit register numbers. -/

namespace Sys2Proof

/-- The value of a general register (05 R103). -/
abbrev Word := BitVec 64

/-- One byte of memory. -/
abbrev Byte := BitVec 8

/-- An instruction word (03 R49). -/
abbrev IWord := BitVec 32

/-- The number of a general register g0 to g15 (05 R103). -/
abbrev Reg := BitVec 4

/-- The word of all ones, which several instructions write as "none" (06 R164, 07 R201, 08 R236). -/
def allOnes : Word := BitVec.allOnes 64

end Sys2Proof
end

