-- ==== Sys2Proof/Config.lean ====
section
/-! DEFINITION. What the manual leaves open for the whole machine: the free values, and the external
algorithms that it names and does not define. None has a body, so nothing can be proved of its value. -/

namespace Sys2Proof.Config

/-- A value the manual does not state, indexed by the model's own counter `State.free` (log 6). -/
opaque freeWord : Nat → Word

/-- SHAKE256 with an output of the given number of bytes (13 R395, R396), which the manual names and does not
define (log 8). -/
opaque shake256 : List Byte → Nat → List Byte

/-- Whether an SLH-DSA signature verifies: public-key digest, message, signature (13 R395, R397; log 8). -/
opaque slhVerify : List Byte → List Byte → List Byte → Bool

/-- The SLH-DSA signature the device key of a package gives a message (13 R397; log 8). -/
opaque slhSign : Nat → List Byte → List Byte

/-- The shared secret that ML-KEM-1024 gives a package for a seed and a ciphertext (13 R398; log 8). -/
opaque mlkemKey : Nat → Word → List Byte → List Byte

/-- AES-256-GCM encryption: key, nonce, additional data, plain bytes; cipher bytes and tag (12 R365; log 8). -/
opaque gcmSeal : List Byte → List Byte → List Byte → List Byte → List Byte × List Byte

/-- AES-256-GCM decryption: key, nonce, additional data, cipher bytes, tag; none where the tag is wrong (log 8). -/
opaque gcmOpen : List Byte → List Byte → List Byte → List Byte → List Byte → Option (List Byte)

/-- The digest of the maker's public key in a package's fuses, the package's serial number, and the bytes with which an attestation report
begins: part number, serial and firmware version (13 R395, R397, R398), which the manual does not give (log 6). -/
opaque fuseDigest : Nat → List Byte
opaque serial : Nat → List Byte
opaque identity : Nat → List Byte → List Byte

/-- The firmware's configuration, which measurement register 1 takes (13 R396), and which the manual does not give (log 6). -/
opaque firmwareConfig : Nat → List Byte → List Byte

/-- Whether a package in CAP leaves the issue of a cycle idle (13 R399), which the manual does not fix (log 6). -/
opaque capIdle : Nat → Nat → Bool

/-- CODE, DETAIL and EXTRA of an event record for a kind of event and what the model notes of it (13 Table 13.6), which the manual does not
give (log 6). -/
opaque eventCode : Nat → BitVec 16
opaque eventDetail : Nat → Nat → BitVec 48
opaque eventExtra : Nat → Nat → Word

end Sys2Proof.Config
end

