-- ==== Sys2Proof/Machine/Assoc.lean ====
section
/-! DEFINITION. Sparse tables keyed by a number: lists of key and value with the keys rising. The registers,
records and tables of the installation's many cores are held in these. -/

namespace Sys2Proof.Machine

/-- A table from numbers to values, keys rising and without repeats. -/
abbrev Tab (α : Type) := List (Nat × α)

/-- The value at a key. -/
def tget {α : Type} : Tab α → Nat → Option α
  | [], _ => none
  | (k, v) :: t, i => if k = i then some v else tget t i

/-- The value at a key, or the given one where the table has none. -/
def tgetD {α : Type} (t : Tab α) (i : Nat) (d : α) : α := (tget t i).getD d

/-- The table with a value put at a key. -/
def tput {α : Type} : Tab α → Nat → α → Tab α
  | [], i, v => [(i, v)]
  | (k, w) :: t, i, v => if k < i then (k, w) :: tput t i v else if k = i then (i, v) :: t else (i, v) :: (k, w) :: t

/-- The table without a key. -/
def tdel {α : Type} (t : Tab α) (i : Nat) : Tab α := t.filter (fun e => e.1 != i)

/-- The values of a table, keys rising. -/
def tvals {α : Type} (t : Tab α) : List α := t.map Prod.snd

/-- A bit of a number. -/
def bitOf (b : Bool) : Nat := if b then 1 else 0

/-- The least number of at least `lo`, below `lo + fuel`, that is not in a list. -/
def leastFree (used : List Nat) : Nat → Nat → Option Nat
  | _, 0 => none
  | lo, fuel + 1 => if used.contains lo then leastFree used (lo + 1) fuel else some lo

/-- The first element of least measure. -/
def leastBy {α : Type} (f : α → Nat) : List α → Option α
  | [] => none
  | x :: xs => match leastBy f xs with
    | none => some x
    | some y => if f y < f x then some y else some x

/-- Inserts by rising measure, after those of equal measure. -/
def insertBy {α : Type} (f : α → Nat) (x : α) : List α → List α
  | [] => [x]
  | y :: ys => if f x < f y then x :: y :: ys else y :: insertBy f x ys

end Sys2Proof.Machine
end

