-- ==== Sys2Proof/Payload.lean ====
section
/-! DEFINITION. The plain data that the events of the Onzar OZ4-384's engines carry, and the events in flight
(file 95): `Ev` names the 139 indivisible steps as the agenda of a state holds them. -/

namespace Sys2Proof

/-- A g-register source field with its mode bits: [1] is T (trap when empty), [0] is K (consume) (03 R50). -/
structure Src where
  reg : Reg
  mode : BitVec 2
  deriving DecidableEq, Repr

/-- Where a channel end lies: the core, the entry in that core's endpoint table and the end's generation
(07 Table 7.1: PEERCORE, PEERIX, PEERGEN). -/
structure EndLoc where
  core : Nat
  ix : Nat
  gen : Nat
  deriving DecidableEq, Repr

/-- What a channel message carries (07 R198, R204): a word, a signal, an end in passage, the bytes of a
block or tile, or (a rendezvous offer) the place of those bytes at the sender: core, scratchpad offset of the
first row, rows, bytes per row and row step. -/
inductive Body where
  | word (v : Word)
  | signal
  | handle (e : EndLoc)
  | bytes (bs : List Byte)
  | place (core off rows rowBytes step : Nat)
  deriving DecidableEq, Repr

/-- A message or offer in flight (07 R198 to R206). `src` is the send end, `sender` the sending process's
name, `tid` a SENDA's transfer identifier, `reqId` the tile of a SENDT.ENT as core and number, `at0` the cycle in
which the sending instruction issued. -/
structure Msg where
  src : EndLoc
  sender : Nat
  tid : Option Nat
  tile : Option Nat
  body : Body
  at0 : Nat
  /-- The bytes of a block or tile that came from poisoned words, by offset (13 R401: poison travels). -/
  hurt : List Nat := []
  deriving DecidableEq, Repr

/-- A data transfer of a matched block or tile rendezvous (07 R204, R206): the message, the receive end, the
receiving process, where its bytes go, and the receiver's tile of a RECVT.ENT. -/
structure Xfer where
  msg : Msg
  dst : EndLoc
  receiver : Nat
  core : Nat
  off : Nat
  step : Nat
  rowBytes : Nat
  reg : Option Reg
  tile : Option Nat
  deriving DecidableEq, Repr

/-- An XWR on its way or waiting at its target (05 R107): the sender's name, the target core, slot and register, the
value, and the process that was resident when it arrived (0 before arrival). -/
structure Xwr where
  sender : Nat
  core : Nat
  slot : Nat
  reg : Reg
  val : Word
  target : Nat
  deriving DecidableEq, Repr

/-- A cached translation (04 R80, R81): address space, first virtual address, size, first physical address and
the rights. -/
structure Tlb where
  asid : Nat
  va : Nat
  size : Nat
  pa : Nat
  r : Bool
  w : Bool
  u : Bool
  g : Bool
  deriving DecidableEq, Repr

/-- A translation request at a fold translator (04 R81, R408): the core, the process, the virtual address, the
address space and its table, the level, the kind of access, and the store-buffer entry it serves, if a store. -/
structure Xlat where
  core : Nat
  name : Nat
  va : Nat
  asid : Nat
  root : Nat
  level : Nat
  needR : Bool
  needW : Bool
  store : Option Nat
  deriving DecidableEq, Repr

/-- What an access does at its target (04 R77, R97, R408): a load with its register, tag, size and sign; a store of
a store-buffer entry; an atomic; a walk read of a level; a BLD; a slice of a drover request; a spill line. -/
inductive AccKind where
  | load (reg : Reg) (tag : BitVec 2) (size : Nat) (signed : Bool)
  | store (id : Nat)
  | amo (op : BitVec 4) (dbl : Bool) (b cmp : Word) (reg : Reg) (tag : BitVec 2)
  | walk (x : Xlat) (lvl : Nat)
  | slice (drover req : Nat)
  deriving DecidableEq, Repr

/-- One access in flight: its kind, physical and virtual address, size in bytes, store data, and its source core,
process name, group and level (04 R77). -/
structure Access where
  kind : AccKind
  addr : Nat
  va : Nat
  size : Nat
  data : Word
  core : Nat
  name : Nat
  gid : Nat
  level : Nat
  deriving DecidableEq, Repr

/-- An invalidation posted by a TINV write (04 R82, Table 4.5). -/
structure Inval where
  id : Nat
  poster : Nat
  launch : Nat
  asid : Nat
  vpage : Nat
  size : Nat
  all : Bool
  deriving DecidableEq, Repr

/-- A future read awaiting the fold's answer (05 R123). -/
structure FrdReq where
  name : Nat
  core : Nat
  va : Nat
  addr : Nat
  t : Bool
  c : Bool
  reg : Reg
  deriving DecidableEq, Repr

/-- Who sent a launch record or a bothy request (01 R20, 13 R393): the host, or a process through a pair of bothy ends, by the pair's
number. -/
inductive Source where
  | host
  | process (name : Nat) (ep : Nat)
  deriving DecidableEq, Repr

/-- The destination of a fill (05 R104): the process, the register and the tag of its producer. -/
structure FillTo where
  name : Nat
  reg : Reg
  tag : BitVec 2
  deriving DecidableEq, Repr

/-- A START message (06 R154, R155): where the result goes, the issuer's core, the target core, the spawn word's
fields, the group, the level, the four arguments, the launch, the gang member, and whether the group is new. -/
structure StartMsg where
  dest : FillTo
  from0 : Nat
  core : Nat
  spawn : Word
  gid : Nat
  level : Nat
  args : List Word
  launch : Nat
  member : Option Nat
  newGroup : Bool
  deriving DecidableEq, Repr

/-- The instructions that look a process up by name (06 R158). -/
inductive LookOp where
  | pinfo | susp | resm | migr | chbind
  deriving DecidableEq, Repr

/-- A lookup by name (06 R158): the instruction, where its result goes, the issuer's core, group and level, the
name asked for, and a further operand (MIGR's target, CHBIND's moving end). -/
structure Look where
  op : LookOp
  dest : FillTo
  core : Nat
  gid : Nat
  level : Nat
  target : Nat
  arg : Nat
  deriving DecidableEq, Repr

/-- A migration in transit (06 R166). -/
structure Mig where
  dest : FillTo
  name : Nat
  from0 : Nat
  target : Nat
  deriving DecidableEq, Repr

/-- Why an end moves (07 R192, R194, R223). -/
inductive MoveWhy where
  | chbind (dest : FillTo)
  | sendh (dest : FillTo)
  | migr
  deriving DecidableEq, Repr

/-- The move of a channel end (07 R192): the entry it leaves, its new owner, the handle there and the core. -/
structure EndMove where
  key : Nat
  owner : Nat
  handle : Nat
  core : Nat
  why : MoveWhy
  deriving DecidableEq, Repr

/-- The engine work behind a transfer identifier (07 R200, R211, 09 R295, 12 R382). -/
inductive Job where
  | copy (desc : List Word) (asid root level gid : Nat)
  | senda (bytes : Nat)
  | drain (rows : List (List Byte)) (hurt : List Nat) (target off step : Nat) (wake : Bool) (gid level : Nat)
  | permx (id : Nat)
  deriving DecidableEq, Repr

/-- A transfer of an end: the owner, its end's entry key, the transfer identifier, the work. -/
structure Transfer where
  owner : Nat
  core : Nat
  key : Nat
  tid : Nat
  job : Job
  deriving DecidableEq, Repr

/-- A server open travelling to its server and back (08 R225). -/
structure SvReq where
  dest : FillTo
  core : Nat
  desig : Word
  config : List Word
  deriving DecidableEq, Repr

/-- A drover request (08 R229): the request end, the sender, its core, the four words of the message, the entry of the reply end, and
the message. -/
structure DrReq where
  key : Nat
  name : Nat
  core : Nat
  gid : Nat
  level : Nat
  asid : Nat
  root : Nat
  words : List Word
  reply : Nat
  msg : Msg
  deriving DecidableEq, Repr

/-- What happens at a dispenser (08 R239 to R241): a query or a WFW registration reaches it, or it serves the first of those that wait. -/
inductive DispAsk where
  | dqry (dest : FillTo) (core key off : Nat)
  | wfw (name key : Nat)
  | serve
  deriving DecidableEq, Repr

/-- Whose deadline a timer place holds (08 R242): a timer end (entry key), a TRECV, or an ALT. -/
inductive DlWho where
  | timerEnd (key : Nat)
  | trecv (name : Nat)
  | alt (name : Nat)
  deriving DecidableEq, Repr

/-- A deadline at a fold's timer server (08 R242). -/
structure Deadline where
  who : DlWho
  time : Nat
  deriving DecidableEq, Repr

/-- One member of a probe's path (08 R249): name, episode, handle waited on, kind (0 send, 1 receive, 2 ALT). -/
structure Member where
  name : Nat
  episode : Nat
  handle : Nat
  kind : Nat
  deriving DecidableEq, Repr

/-- The fields of a link flit's header (12 Table 12.1) and its encrypted payload and tag. -/
structure Flit where
  cnt : Nat
  seq : Nat
  ks : Bool
  mark : Bool
  plane : Bool
  used : Nat
  ack : Nat
  ackv : Bool
  nak : Bool
  payload : List Byte
  tag : List Byte
  deriving DecidableEq, Repr

/-- A remote region in flight (12 R378): the issuer, its core, group, level, address space, target address, its
registers, the RGO word, its ISTORE address, the body and GTC at departure. -/
structure Region where
  name : Nat
  core : Nat
  gid : Nat
  level : Nat
  asid : Nat
  root : Nat
  pa : Nat
  regs : List Word
  word : IWord
  pc : Nat
  body : List IWord
  sent : Nat
  deriving DecidableEq, Repr

/-- The end of a region (12 R380): success with the attempts used and the final registers, or failure with the
body word's index and the cause of Table 12.10. -/
inductive RegionEnd where
  | success (attempts : Nat) (regs : List Word)
  | failure (index cause : Nat)
  deriving DecidableEq, Repr

/-- A remote tile command (09 R299): the sender, the target core, the capability's tile and rights and check value,
the command word and the values of the registers it names. -/
structure TCommand where
  sender : Nat
  core : Nat
  tc : Nat
  canW : Bool
  canR : Bool
  check : Nat
  word : IWord
  va : Word
  vb : Word
  /-- Whether it comes from another core, with the group and the level of its sender (04 R77); and, once it is accepted, the process for which it
  runs. -/
  away : Bool := false
  gid : Nat := 0
  level : Nat := 0
  owner : Nat := 0
  deriving DecidableEq, Repr

/-- A BLD at its line's home (12 R389): where d and (with .R) the view go, the address and the view word. -/
structure BldReq where
  dest : FillTo
  core : Nat
  view : Word
  viewDest : Option FillTo
  pa : Nat
  line : Nat
  shadow : Nat
  deriving DecidableEq, Repr

/-- A packet between packages (12 R363): source die, plane, end-to-end sequence number and what it delivers. -/
structure GPacket where
  srcDie : Nat
  dstDie : Nat
  plane : Bool
  seq : Nat
  load : Option Access
  deriving DecidableEq, Repr

/-- A bothy request's origin (13 R393): the package, who sent it, and TAG; for the host also its frame's TAG, in bits 16 and up. -/
structure BReq where
  pkg : Nat
  from0 : Source
  tag : Nat
  deriving DecidableEq, Repr

/-- An event in flight: the rows of spec/opcode_table.json that are steps of engines, not words. -/
inductive Ev where
  /-- ROTATION_BOUNDARY (R147): Every 8 cycles the shepherd swaps out leaving processes and fills slots from the pens by credit. -/
  | rotationBoundary (core : Nat)
  /-- QUANTUM_EXPIRY (R147): A light resident reaches PENW.QUANT boundaries and becomes expired. -/
  | quantumExpiry (core slot : Nat)
  /-- BUDGET_EXHAUSTED (R149): URGB.BUDGET reaches 0 and urgent processes count as expired. -/
  | budgetExhausted (core : Nat)
  /-- URGENT_WINDOW_END (R149): The URGB window ends; BUDGET is reloaded and urgent marks cleared. -/
  | urgentWindowEnd (core : Nat)
  /-- FILL (R104): A long-latency producer's value arrives and is accepted or discarded by tag, readying a waiting process. -/
  | fill (dest : FillTo) (val : Word)
  /-- XWR_DELIVERY (R107): An XWR arrives at the target slot and is checked for slot and group. -/
  | xwrDelivery (x : Xwr)
  /-- XWR_WRITE (R107): A waiting XWR writes the target register once it is empty. -/
  | xwrWrite (x : Xwr)
  /-- STORE_TRANSLATE (R408): A store leaves the store buffer and looks up in the fold translator. -/
  | storeTranslate (core id : Nat)
  /-- TRANSLATOR_LOOKUP_DONE (R408): A 4-cycle fold-translator lookup completes, hitting or starting a walk. -/
  | translatorLookupDone (x : Xlat)
  /-- PAGE_WALK_READ (R81): A page-table entry read of a walk returns. -/
  | pageWalkRead (x : Xlat) (lvl : Nat) (entry : Word)
  /-- PAGE_WALK_END (R408): A walk ends, installing a translation or acting on its fault. -/
  | pageWalkEnd (x : Xlat) (r : Option Tlb)
  /-- STORE_ACK (R83): A store's target acknowledges it and the store is complete. -/
  | storeAck (core id : Nat)
  /-- STORE_NAK (R78): A refused or unbacked store's negative answer reaches the sender and writes an SFQ record. -/
  | storeNak (core id cause : Nat)
  /-- SFQ_COPY (R85): Once the stopped process's stores are settled, its SFQ records move to its extension and its notification is queued. -/
  | sfqCopy (name : Nat)
  /-- REMOTE_ACCESS_ARRIVAL (R77): An access reaches a core window and is checked against WIN0 to WIN3. -/
  | remoteAccessArrival (x : Access)
  /-- AMO_AT_HOME (R97): An atomic is performed as one step at the location's home. -/
  | amoAtHome (x : Access)
  /-- SLOT_REGISTER_WRITE (R76): A window write to a slot register sets it full and discards any pending fill. -/
  | slotRegisterWrite (core slot : Nat) (reg : Reg) (val : Word)
  /-- TINV_WRITE (R82): A write to TINV posts an invalidation down the launch's done tree. -/
  | tinvWrite (core name : Nat) (val : Word)
  /-- CSR_WINDOW_WRITE (R76): A write through the CSR row of a window to a register with no row of its own. -/
  | csrWindowWrite (core csr : Nat) (val : Word)
  /-- INVALIDATION_ARRIVAL (R82): An invalidation reaches a core, which drops matching translation entries. -/
  | invalidationArrival (core : Nat) (v : Inval)
  /-- INVALIDATION_COMPLETE (R82): No access using a dropped entry remains and the completion is combined up the tree. -/
  | invalidationComplete (core : Nat) (v : Inval)
  /-- FRD_ANSWER (R123): The fold answers a future read of a cell. -/
  | frdAnswer (f : FrdReq)
  /-- LAUNCH_RECORD (R20): A launch record arrives from the tether port or a bothy end and is checked or refused. -/
  | launchRecord (pkg : Nat) (src : Source) (words : List Word)
  /-- LAUNCH_TAKE_EFFECT (R22): After earlier stores of the source complete, the bothy assigns GIDs and sends the header. -/
  | launchTakeEffect (launch : Nat)
  /-- LAUNCH_HEADER (R22): A shepherd receives the launch header, derives the done tree and, at the root's core, writes the root record. -/
  | launchHeader (launch core : Nat)
  /-- START (R154): A START message reaches the target core and creates the process or answers a failure. -/
  | start (m : StartMsg)
  /-- NAME_LOOKUP (R158): A lookup by name reaches the birth core and is passed on or answered. -/
  | nameLookup (q : Look) (atHolder : Bool)
  /-- NAME_LOOKUP_ANSWER (R192): The answer to a lookup by name returns to the issuing core. -/
  | nameLookupAnswer (q : Look) (result : Word)
  /-- KILL_ARRIVAL (R162): A KILLG reaches a core and kills its processes of the group. -/
  | killArrival (gid core : Nat)
  /-- GROUP_RELEASE (R162): Every member is FREE; the home entry and GID are released and KILLG's d is filled. -/
  | groupRelease (gid : Nat)
  /-- MIGRATION_ARRIVAL (R166): A migrating context reaches the target shepherd, which accepts or refuses it. -/
  | migrationArrival (m : Mig)
  /-- MIGRATION_ANSWER (R166): The target's acceptance or refusal returns to the source. -/
  | migrationAnswer (m : Mig) (code : Nat)
  /-- LOCATION_UPDATE (R167): An endpoint's new location reaches its peer. -/
  | locationUpdate (key : Nat) (loc : EndLoc)
  /-- FORWARD_EXPIRY (R167): A forwarding entry is removed after its peer's acknowledgement and 1 ms. -/
  | forwardExpiry (key : Nat)
  /-- QUIESCE_STILL (R165): The stillness tree has read zero for 64 cycles and QUIESCE fills d. -/
  | quiesceStill (dest : FillTo)
  /-- BARRIER_ARRIVAL (R169): A member's arrival reaches the group home, which may complete the phase. -/
  | barrierArrival (gid name : Nat)
  /-- EXIT_DRAIN_COMPLETE (R160): All stores of an exiting process are complete and its resources are freed. -/
  | exitDrainComplete (name : Nat)
  /-- NOTIFICATION_DELIVERY (R164): A held trap notification enters the supervisor queue once it has room. -/
  | notificationDelivery (name : Nat)
  /-- SLEEP_EXPIRY (R157): GTC reaches a sleeping process's deadline. -/
  | sleepExpiry (name : Nat)
  /-- DETECTION_WAVE (R177): A done-tree detection wave reaches a node. -/
  | detectionWave (launch node : Nat)
  /-- DETECTION_ANSWER (R177): A node whose LIVE is 0 and whose children answered sends its sums up; at L[0] the launch may complete. -/
  | detectionAnswer (launch node : Nat)
  /-- OFFER_ARRIVAL (R204): A send's offer reaches the receive end and is held, matched or refused. -/
  | offerArrival (dst : EndLoc) (m : Msg)
  /-- OFFER_RESEND (R204): A refused offer is sent again 64 cycles later. -/
  | offerResend (dst : EndLoc) (m : Msg)
  /-- RECEIVE_ANNOUNCE (R209): A waiting receive announces itself at the send end. -/
  | receiveAnnounce (dst : EndLoc)
  /-- TRANSFER_DATA_WRITTEN (R206): A block or tile rendezvous finishes writing its data at the receiver. -/
  | transferDataWritten (x : Xfer)
  /-- SEND_ACK (R206): The match acknowledgement reaches the sender, which retires. -/
  | sendAck (m : Msg) (peer : EndLoc)
  /-- MESSAGE_ENQUEUE (R202): A buffered message's last packet is written into the ring queue. -/
  | messageEnqueue (dst : EndLoc) (m : Msg)
  /-- CREDIT_RETURN (R202): A credit reaches the buffered send end. -/
  | creditReturn (dst : EndLoc)
  /-- WAKEUP (R203): An engine wake-up adds one to a signal receive end's PEND. -/
  | wakeup (dst : EndLoc)
  /-- PEER_DELETED (R191): Notice of a deleted or killed end reaches its peer, which becomes DEAD. -/
  | peerDeleted (dst : EndLoc)
  /-- CHBIND_MOVE (R192): Once INFL is 0 the end and its held traffic are sent to the target core. -/
  | chbindMove (v : EndMove)
  /-- ENDPOINT_INSTALL (R192): A moved end reaches the target core and is installed or refused. -/
  | endpointInstall (v : EndMove)
  /-- CHBIND_ACK (R192): The target's answer returns and the CHBIND or SENDH fills d. -/
  | chbindAck (v : EndMove) (code : Nat)
  /-- TRECV_EXPIRY (R201): A TRECV deadline passes without a match. -/
  | trecvExpiry (name : Nat)
  /-- TRANSFER_COMPLETE (R212): A copy, SENDA, drain or PERMX transfer completes and DONE advances. -/
  | transferComplete (t : Transfer)
  /-- STREAM_ELEMENT (R215): A read-ahead stream element arrives at the port. -/
  | streamElement (name port : Nat)
  /-- JOIN_RECORDED (R216): A multicast join or leave has been recorded by every router and d is filled. -/
  | joinRecorded (dest : FillTo) (core tag key : Nat) (join : Bool)
  /-- MCAST_DELIVERY (R217): A multicast block reaches a subscribed end. -/
  | mcastDelivery (key : Nat) (m : Msg)
  /-- PACKET_STOMP (R369): A header CRC failure or port reset ends a packet with a stomped tail. -/
  | packetStomp (die : Nat) (dst : EndLoc) (m : Msg)
  /-- ACK_TIMEOUT (R369): A packet's acknowledgement timeout passes and it is resent or its channel ends. -/
  | ackTimeout (dst : EndLoc) (m : Msg)
  /-- SERVER_ANSWER (R225): A server's answer to SVOPEN returns and d is filled. -/
  | serverAnswer (r : SvReq)
  /-- DROVER_REQUEST (R231): A drover takes a request, translating and splitting it into slice accesses. -/
  | droverRequest (drover : Nat) (r : DrReq)
  /-- SLICE_PASS (R409): A slice passed over the drover ring reaches its owning drover. -/
  | slicePass (drover : Nat) (x : Access)
  /-- DROVER_ACCESS_END (R409): A slice access's transfer ends, performing the write or releasing the read data. -/
  | droverAccessEnd (drover : Nat) (x : Access)
  /-- DROVER_REPLY_RELEASE (R234): A reply waiting at the drover takes a returned credit and is sent. -/
  | droverReplyRelease (drover : Nat)
  /-- DISPENSER_QUERY (R241): A dispenser serves one query or WFW registration with the next item or the token. -/
  | dispenserQuery (disp : Nat) (q : DispAsk)
  /-- DQRY_ANSWER (R239): A dispenser answer writes the scratchpad word and fills d. -/
  | dqryAnswer (q : DispAsk) (item : Word)
  /-- WFW_SERVE (R240): A served WFW waiter receives item, ordinal, ARG and handle and is readied. -/
  | wfwServe (name : Nat) (item ordinal arg : Word)
  /-- DEADLINE_ARM (R242): A deadline waiting for a timer place is armed when one frees. -/
  | deadlineArm (fold : Nat)
  /-- DEADLINE_FIRE (R243): An armed timer deadline fires, adding a wake-up and disarming. -/
  | deadlineFire (fold : Nat) (d : Deadline)
  /-- PROBE_START (R247): A probed process has been BLOCKED for DELAY ns and its shepherd sends a probe. -/
  | probeStart (name episode : Nat)
  /-- PROBE_ARRIVAL (R249): A probe reaches a process and dies, is confirmed, or is forwarded along its edges. -/
  | probeArrival (name : Nat) (path : List Member)
  /-- CONFIRMATION_ARRIVAL (R250): A confirmation visits a member or returns to the initiator, which makes the report. -/
  | confirmationArrival (path : List Member) (index : Nat)
  /-- REPORT_ARRIVAL (R253): A deadlock report reaches the supervisor's core queue or is lost. -/
  | reportArrival (gid : Nat) (report : List Word)
  /-- TETHER_MESSAGE_FRAME (R392): A message frame from the host is delivered on a host end. -/
  | tetherMessageFrame (pkg : Nat) (words : List Word)
  /-- TETHER_STORE_FRAME (R392): A store frame writes its payload through the target window at level M. -/
  | tetherStoreFrame (pkg : Nat) (words : List Word)
  /-- TETHER_LOAD_FRAME (R392): A load frame reads memory and returns a load reply frame. -/
  | tetherLoadFrame (pkg : Nat) (words : List Word)
  /-- TETHER_REFUSED_FRAME (R392): A malformed frame is discarded and counted as an event. -/
  | tetherRefusedFrame (pkg : Nat) (words : List Word)
  /-- TETHER_RETRY (R392): A damaged frame is retried from the retry buffer; after 16 the port is down. -/
  | tetherRetry (pkg : Nat)
  /-- TETHER_TRAINING (R398): The tether port trains and a new session key is agreed by ML-KEM. -/
  | tetherTraining (pkg : Nat) (seed : Word) (ciphertext : List Byte)
  /-- ATTEST (R397): Returns a signed attestation report over the nonce. -/
  | attest (q : BReq) (nonce : List Word)
  /-- HEALTH (R393): Returns the health register and fenced-fold map. -/
  | health (q : BReq)
  /-- HEALTH_REPL_CLEAR (R400): A HEALTH request with word 1 bit 63 clears REPL. -/
  | healthReplClear (q : BReq)
  /-- EVENTS (R393): Returns and removes the oldest 127 event records. -/
  | events (q : BReq)
  /-- COUNTERS (R393): Returns the life counters. -/
  | counters (q : BReq)
  /-- SNAPSHOT (R403): Requests a snapshot trigger. -/
  | snapshot (q : BReq)
  /-- KEYPUT (R398): Installs an encrypted link key and salt in the key store. -/
  | keyput (q : BReq) (index count : Nat) (sealed : List Byte)
  /-- FEATURE (R393): Clears feature bits of the package's feature word before boot completes. -/
  | feature (q : BReq) (mask : Word)
  /-- FENCE_FOLD (R400): Fences a quiescent fold off from use. -/
  | fenceFold (q : BReq) (fold : Nat)
  /-- IMAGE (R395): Verifies, writes and measures a signed code image. -/
  | image (q : BReq) (cores : List Nat) (img : List Byte) (signature : List Byte)
  /-- POWER (R399): Sets the package power state. -/
  | power (q : BReq) (state : BitVec 2)
  /-- KILLGROUP (R393): Kills a group of a launch as KILLG does and returns the count. -/
  | killgroup (q : BReq) (gid : Nat) (launchId : Word)
  /-- IMAGEKEY (R398): Sets or changes the installation's image key. -/
  | imagekey (q : BReq) (key signature : List Byte)
  /-- POWER_ON (R395): The bothy ROM verifies and starts firmware, which tests folds and trains links. -/
  | powerOn (pkg : Nat) (firmware signature : List Byte) (failedFolds : List Nat)
  /-- BOOT_COMPLETE (R395): Firmware reports boot complete with a LAUNCHID 0 completion frame. -/
  | bootComplete (pkg : Nat)
  /-- PACKAGE_RESET (R405): An I3C package reset resets the package and its folds. -/
  | packageReset (pkg : Nat)
  /-- I3C_POWER_STATE (R405): An I3C write sets a power state. -/
  | i3cPowerState (pkg : Nat) (state : BitVec 2)
  /-- POWER_CAP (R399): Package power above 2,800 W for 1 ms enters CAP. -/
  | powerCap (pkg : Nat)
  /-- THROTTLE_ENTER (R399): A junction reaches 100 °C and throttling begins. -/
  | throttleEnter (die junction : Nat)
  /-- THROTTLE_EXIT (R399): Junctions fall below 95 °C and throttling ends. -/
  | throttleExit (die junction : Nat)
  /-- HARD_LIMIT (R399): A junction reaches 115 °C and the package goes OFF. -/
  | hardLimit (die junction : Nat)
  /-- PATROL_SCRUB (R401): The scrubber reads a word, correcting or poisoning it. -/
  | patrolScrub (addr : Nat) (corrected uncorrected : Bool)
  /-- SNAPSHOT_LATCH (R403): At time T every block latches its snapshot registers. -/
  | snapshotLatch (pkg : Nat)
  /-- LIFE_COUNTER_SAVE (R404): Every 10 minutes the life counters are written to non-volatile storage. -/
  | lifeCounterSave (pkg : Nat)
  /-- FLIT_ARRIVAL (R366): A link flit arrives and is accepted, discarded or NAKed, and its ACK or NAK is applied. -/
  | flitArrival (link : Nat) (f : Flit)
  /-- LINK_ACK_TIMEOUT (R366): No acknowledgement for 16 µs, or 16 replays, declares the link down and fails it over. -/
  | linkAckTimeout (link : Nat)
  /-- GATEWAY_PACKET_ARRIVAL (R363): A cross-package packet reaches the destination die's gateway and is delivered in sequence or held. -/
  | gatewayPacketArrival (p : GPacket)
  /-- LINK_LOST_TIMEOUT (R364): Traffic without an acknowledgement for 1 ms is declared link lost and its peer bit set. -/
  | linkLostTimeout (x : Access)
  /-- REGION_ARRIVAL (R379): A region reaches a landing unit and is queued, refused or receipted. -/
  | regionArrival (unit : Nat) (r : Region)
  /-- REGION_ATTEMPT (R379): A landing unit runs a region body attempt and commits or retries it. -/
  | regionAttempt (unit : Nat) (r : Region) (attempt : Nat)
  /-- REGION_RECEIPT (R380): A region's receipt reaches the issuer. -/
  | regionReceipt (name sent : Nat)
  /-- REGION_RETURN (R380): A region's return restores or updates the issuer's registers and PC. -/
  | regionReturn (name sent : Nat) (r : RegionEnd)
  /-- REGION_RETURN_TIMEOUT (R380): No return within 65,536 ns ends the region with RETLOST. -/
  | regionReturnTimeout (name sent : Nat)
  /-- PERMX_PAIR (R383): A PERMX pairs with its partner's and starts sending elements. -/
  | permxPair (id : Nat)
  /-- PERMX_ELEMENT (R383): An exchanged element arrives and is written after its outgoing read. -/
  | permxElement (id index : Nat) (val : List Byte)
  /-- BUNDLE_PREPARE (R387): Phase 1 stages a pending version of a bundle line at its home. -/
  | bundlePrepare (writer slot : Nat)
  /-- BUNDLE_PHASE2 (R387): Phase 2 makes the pending version current at a home and retains the previous. -/
  | bundlePhase2 (writer slot : Nat)
  /-- BUNDLE_ACK (R387): A home's phase answer returns; after all, word 0 is written and BCLOSE fills d. -/
  | bundleAck (writer slot phase : Nat) (ok : Bool)
  /-- BLD_AT_HOME (R389): A BLD's view is applied at the line's home and answered. -/
  | bldAtHome (r : BldReq)
  /-- TILE_TRANSFER_COMPLETE (R287): A TLOAD or TSTORE's last slice finishes and the tile becomes READY. -/
  | tileTransferComplete (core tile : Nat)
  /-- DRAIN_COMPLETE (R294): An ADRAIN's last bank read is made and the local tile becomes READY. -/
  | drainComplete (core bank : Nat)
  /-- TILE_OP_COMPLETE (R302): A synchronous tile instruction writes its last result and retires. -/
  | tileOpComplete (core : Nat)
  /-- K_GROUP_DONE (R290): A k-group of a product completes, possibly raising TILE_NAN. -/
  | kGroupDone (core : Nat)
  /-- GANG_PRODUCT_START (R293): Every live gang member has issued its GMMA and the product starts. -/
  | gangProductStart (gid ordinal : Nat)
  /-- TILE_COMMAND_ARRIVAL (R300): A remote tile command reaches the target, which accepts or refuses it. -/
  | tileCommandArrival (c : TCommand)
  /-- TILE_COMMAND_ANSWER (R300): The target's answer to a TCMD reaches the sender. -/
  | tileCommandAnswer (c : TCommand) (accepted : Bool)
  /-- REVERSE_RECORD (R328): REVERSE finishes one record boundary, applying its adjoint. -/
  | reverseRecord (name : Nat)
  /-- SPILL_ACK (R322): A tape spill write is acknowledged; after the last, TSPILL retires. -/
  | spillAck (name : Nat) (ok : Bool)
  /-- SPE_TREE_ENTRY (R356): An SPE instruction with its reads done enters a tree. -/
  | speTreeEntry (fold name : Nat)
  /-- SPE_RETIRE (R354): An SPE instruction completes its writes and returns the registers. -/
  | speRetire (fold name : Nat)
  /-- NOT_AN_INSTRUCTION (R59): A word with an unassigned major, function code beyond its list, or reserved bits set is issued and raises ILLEGAL. -/
  | notAnInstruction (w : IWord)
  /-- VECTOR_LOAD_COMPLETE (R268): The last enabled lane of a vector load arrives and vd is written in one step, or the lowest faulting lane traps. -/
  | vectorLoadComplete (name : Nat)
  /-- START_ANSWER (R154): The target's answer to a START reaches the issuer and fills the d of SPAWN or GANG. -/
  | startAnswer (m : StartMsg) (result : Word)
  /-- PEER_ANSWER (R374): The group home's answer to PEER returns and fills d with the old entry and UNNAMED bit. -/
  | peerAnswer (dest : FillTo) (val : Word)
  /-- KEY_INSTALLED (R375): The bothy finishes installing a key, or the switch's marker flit is sent, and LKEY's d is filled. -/
  | keyInstalled (dest : FillTo) (val : Word)
  /-- LINK_TRAINING (R376): An off-package link is trained and comes up, with its hop latency measured. -/
  | linkTraining (link peer hop : Nat)
  /-- LINK_DOWN_24_HOURS (R400): A link has been down for 24 hours while its peer was up, and REPL is set. -/
  | linkDown24Hours (link : Nat)
  /-- POWER_FAILURE (R404): The supply is lost without an orderly entry to OFF, and counts since the last save are lost. -/
  | powerFailure (pkg : Nat)
  /-- MEASUREMENT_REQUEST (R396): At the control node's request the firmware extends one of measurement registers 3 to 7. -/
  | measurementRequest (pkg register : Nat) (item : List Byte)
  deriving DecidableEq, Repr

end Sys2Proof
end

