-- ==== Sys2Proof/Syntax.lean ====
section
/-! DEFINITION. The operations of the Onzar OZ4-384: one constructor of `Instr` per row of
spec/opcode_table.json, the 262 instruction words first and then the 139 indivisible steps of the engines
(file 95). -/

namespace Sys2Proof

/-- One constructor per row of spec/opcode_table.json (file 95 names the indivisible steps). -/
inductive Instr where
  /-- ADD (R112): Writes a + b modulo 2^64 into d. -/
  | add (d : BitVec 4) (a : Src) (b : Src)
  /-- SUB (R112): Writes a - b modulo 2^64 into d. -/
  | sub (d : BitVec 4) (a : Src) (b : Src)
  /-- AND (R112): Writes the bitwise AND of a and b into d. -/
  | and (d : BitVec 4) (a : Src) (b : Src)
  /-- OR (R112): Writes the bitwise OR of a and b into d. -/
  | or (d : BitVec 4) (a : Src) (b : Src)
  /-- XOR (R112): Writes the bitwise XOR of a and b into d. -/
  | xor (d : BitVec 4) (a : Src) (b : Src)
  /-- ANDN (R112): Writes a AND NOT b into d. -/
  | andn (d : BitVec 4) (a : Src) (b : Src)
  /-- SHL (R112): Writes a shifted left by b[5:0] into d. -/
  | shl (d : BitVec 4) (a : Src) (b : Src)
  /-- SHR (R112): Writes a shifted logically right by b[5:0] into d. -/
  | shr (d : BitVec 4) (a : Src) (b : Src)
  /-- SRA (R112): Writes a shifted arithmetically right by b[5:0] into d. -/
  | sra (d : BitVec 4) (a : Src) (b : Src)
  /-- ROL (R112): Writes a rotated left by b[5:0] into d. -/
  | rol (d : BitVec 4) (a : Src) (b : Src)
  /-- MUL (R112): Writes the low 64 bits of a × b into d. -/
  | mul (d : BitVec 4) (a : Src) (b : Src)
  /-- MULH (R112): Writes the high 64 bits of the signed product into d. -/
  | mulh (d : BitVec 4) (a : Src) (b : Src)
  /-- MULHU (R112): Writes the high 64 bits of the unsigned product into d. -/
  | mulhu (d : BitVec 4) (a : Src) (b : Src)
  /-- DIV (R113): Writes the signed quotient truncated towards zero, with fixed results for division by zero and overflow. -/
  | div (d : BitVec 4) (a : Src) (b : Src)
  /-- DIVU (R113): Writes the unsigned quotient, all ones for division by zero. -/
  | divu (d : BitVec 4) (a : Src) (b : Src)
  /-- REM (R113): Writes the signed remainder with the sign of the dividend. -/
  | rem (d : BitVec 4) (a : Src) (b : Src)
  /-- REMU (R113): Writes the unsigned remainder. -/
  | remu (d : BitVec 4) (a : Src) (b : Src)
  /-- MIN (R112): Writes the signed smaller of a and b. -/
  | min (d : BitVec 4) (a : Src) (b : Src)
  /-- MAX (R112): Writes the signed larger of a and b. -/
  | max (d : BitVec 4) (a : Src) (b : Src)
  /-- MINU (R112): Writes the unsigned smaller of a and b. -/
  | minu (d : BitVec 4) (a : Src) (b : Src)
  /-- MAXU (R112): Writes the unsigned larger of a and b. -/
  | maxu (d : BitVec 4) (a : Src) (b : Src)
  /-- CLZ (R112): Writes the count of leading zeros of a, 64 for zero. -/
  | clz (d : BitVec 4) (a : Src)
  /-- CTZ (R112): Writes the count of trailing zeros of a, 64 for zero. -/
  | ctz (d : BitVec 4) (a : Src)
  /-- POPC (R112): Writes the number of one bits of a. -/
  | popc (d : BitVec 4) (a : Src)
  /-- BSWAP (R112): Writes a with its eight bytes reversed. -/
  | bswap (d : BitVec 4) (a : Src)
  /-- SEXT (R112): Sign-extends a from bit b[5:0]. -/
  | sext (d : BitVec 4) (a : Src) (b : Src)
  /-- ZEXT (R112): Zero-extends a from bit b[5:0]. -/
  | zext (d : BitVec 4) (a : Src) (b : Src)
  /-- SEQ (R112): Writes 1 if a equals b, else 0. -/
  | seq (d : BitVec 4) (a : Src) (b : Src)
  /-- SNE (R112): Writes 1 if a differs from b, else 0. -/
  | sne (d : BitVec 4) (a : Src) (b : Src)
  /-- SLT (R112): Writes 1 if a < b signed, else 0. -/
  | slt (d : BitVec 4) (a : Src) (b : Src)
  /-- SLTU (R112): Writes 1 if a < b unsigned, else 0. -/
  | sltu (d : BitVec 4) (a : Src) (b : Src)
  /-- SLE (R112): Writes 1 if a ≤ b signed, else 0. -/
  | sle (d : BitVec 4) (a : Src) (b : Src)
  /-- SLEU (R112): Writes 1 if a ≤ b unsigned, else 0. -/
  | sleu (d : BitVec 4) (a : Src) (b : Src)
  /-- ADDI (R114): Writes a plus the sign-extended, possibly prefixed immediate. -/
  | addi (d : BitVec 4) (a : Src) (i : BitVec 16)
  /-- ANDI (R114): Writes a AND the zero-extended immediate. -/
  | andi (d : BitVec 4) (a : Src) (i : BitVec 16)
  /-- ORI (R114): Writes a OR the zero-extended immediate. -/
  | ori (d : BitVec 4) (a : Src) (i : BitVec 16)
  /-- XORI (R114): Writes a XOR the zero-extended immediate. -/
  | xori (d : BitVec 4) (a : Src) (i : BitVec 16)
  /-- SHLI (R114): Writes a shifted left by the immediate amount. -/
  | shli (d : BitVec 4) (a : Src) (s : BitVec 6)
  /-- SHRI (R114): Writes a shifted logically right by the immediate amount. -/
  | shri (d : BitVec 4) (a : Src) (s : BitVec 6)
  /-- SRAI (R114): Writes a shifted arithmetically right by the immediate amount. -/
  | srai (d : BitVec 4) (a : Src) (s : BitVec 6)
  /-- ROLI (R114): Writes a rotated left by the immediate amount. -/
  | roli (d : BitVec 4) (a : Src) (s : BitVec 6)
  /-- LIH (R114): Writes a[15:0] with imm in bits [31:16] and imm[15] copied into [63:32]. -/
  | lih (d : BitVec 4) (a : Src) (i : BitVec 16)
  /-- SEQI (R114): Writes 1 if a equals the sign-extended 14-bit immediate. -/
  | seqi (d : BitVec 4) (a : Src) (i : BitVec 14)
  /-- SLTI (R114): Writes 1 if a is below the immediate, signed. -/
  | slti (d : BitVec 4) (a : Src) (i : BitVec 14)
  /-- SLTUI (R114): Writes 1 if a is below the sign-extended immediate, unsigned. -/
  | sltui (d : BitVec 4) (a : Src) (i : BitVec 14)
  /-- MULI (R114): Writes the low 64 bits of a times the sign-extended immediate. -/
  | muli (d : BitVec 4) (a : Src) (i : BitVec 16)
  /-- FADD (R116): Writes the correctly rounded floating-point sum a + b. -/
  | fadd (d : BitVec 4) (a : Src) (b : Src) (s : BitVec 1)
  /-- FSUB (R116): Writes the correctly rounded difference a - b. -/
  | fsub (d : BitVec 4) (a : Src) (b : Src) (s : BitVec 1)
  /-- FMUL (R116): Writes the correctly rounded product a × b. -/
  | fmul (d : BitVec 4) (a : Src) (b : Src) (s : BitVec 1)
  /-- FDIV (R116): Writes the correctly rounded quotient a ÷ b. -/
  | fdiv (d : BitVec 4) (a : Src) (b : Src) (s : BitVec 1)
  /-- FSQRT (R116): Writes the correctly rounded square root of a. -/
  | fsqrt (d : BitVec 4) (a : Src) (s : BitVec 1)
  /-- FMIN (R116): Writes the smaller of a and b with NaN and signed-zero rules. -/
  | fmin (d : BitVec 4) (a : Src) (b : Src) (s : BitVec 1)
  /-- FMAX (R116): Writes the larger of a and b with NaN and signed-zero rules. -/
  | fmax (d : BitVec 4) (a : Src) (b : Src) (s : BitVec 1)
  /-- FNEG (R116): Writes a with its sign bit inverted, no flag. -/
  | fneg (d : BitVec 4) (a : Src) (s : BitVec 1)
  /-- FABS (R116): Writes a with its sign bit cleared, no flag. -/
  | fabs (d : BitVec 4) (a : Src) (s : BitVec 1)
  /-- FEQ (R116): Writes 1 if a equals b as floating point, else 0. -/
  | feq (d : BitVec 4) (a : Src) (b : Src) (s : BitVec 1)
  /-- FLT (R116): Writes 1 if a < b, NV for any NaN. -/
  | flt (d : BitVec 4) (a : Src) (b : Src) (s : BitVec 1)
  /-- FLE (R116): Writes 1 if a ≤ b, NV for any NaN. -/
  | fle (d : BitVec 4) (a : Src) (b : Src) (s : BitVec 1)
  /-- FCLASS (R116): Writes the one-hot class of a. -/
  | fclass (d : BitVec 4) (a : Src) (s : BitVec 1)
  /-- FCVT (R116): Converts between FP64 and FP32. -/
  | fcvt (d : BitVec 4) (a : Src) (s : BitVec 1)
  /-- FTOI (R116): Converts the floating-point a to INT64 by R38. -/
  | ftoi (d : BitVec 4) (a : Src) (s : BitVec 1)
  /-- ITOF (R116): Converts INT64 a to floating point by RMODE. -/
  | itof (d : BitVec 4) (a : Src) (s : BitVec 1)
  /-- FMA (R117): Writes a × b + c with one rounding. -/
  | fma (d : BitVec 4) (a : Src) (b : Src) (c : Src) (s : BitVec 1)
  /-- FMS (R117): Writes a × b - c with one rounding. -/
  | fms (d : BitVec 4) (a : Src) (b : Src) (c : Src) (s : BitVec 1)
  /-- FNMA (R117): Writes -(a × b) + c with one rounding. -/
  | fnma (d : BitVec 4) (a : Src) (b : Src) (c : Src) (s : BitVec 1)
  /-- FNMS (R117): Writes -(a × b) - c with one rounding. -/
  | fnms (d : BitVec 4) (a : Src) (b : Src) (c : Src) (s : BitVec 1)
  /-- LD (R118): Loads 1 to 8 bytes at a + offset × size into d, extending by size. -/
  | ld (d : BitVec 4) (a : Src) (z : BitVec 3) (o : BitVec 13)
  /-- ST (R119): Checks alignment and posts the data register's low bytes to the store buffer. -/
  | st (d : BitVec 4) (a : Src) (z : BitVec 3) (o : BitVec 13)
  /-- LDM (R120): Loads registers first to last from consecutive 8-byte words, restartable. -/
  | ldm (f : BitVec 4) (a : Src) (l : BitVec 4) (o : BitVec 11)
  /-- STM (R120): Stores registers first to last to consecutive 8-byte words, restartable. -/
  | stm (f : BitVec 4) (a : Src) (l : BitVec 4) (o : BitVec 11)
  /-- AMO_ADD (R125): Atomically adds b to the location at its home, returning the old value. -/
  | amoAdd (d : BitVec 4) (a : Src) (b : Src) (w : BitVec 1) (x : BitVec 1) (y : BitVec 1)
  /-- AMO_AND (R125): Atomically ANDs b into the location, returning the old value. -/
  | amoAnd (d : BitVec 4) (a : Src) (b : Src) (w : BitVec 1) (x : BitVec 1) (y : BitVec 1)
  /-- AMO_OR (R125): Atomically ORs b into the location, returning the old value. -/
  | amoOr (d : BitVec 4) (a : Src) (b : Src) (w : BitVec 1) (x : BitVec 1) (y : BitVec 1)
  /-- AMO_XOR (R125): Atomically XORs b into the location, returning the old value. -/
  | amoXor (d : BitVec 4) (a : Src) (b : Src) (w : BitVec 1) (x : BitVec 1) (y : BitVec 1)
  /-- AMO_MIN (R125): Atomically stores the signed minimum, returning the old value. -/
  | amoMin (d : BitVec 4) (a : Src) (b : Src) (w : BitVec 1) (x : BitVec 1) (y : BitVec 1)
  /-- AMO_MAX (R125): Atomically stores the signed maximum, returning the old value. -/
  | amoMax (d : BitVec 4) (a : Src) (b : Src) (w : BitVec 1) (x : BitVec 1) (y : BitVec 1)
  /-- AMO_MINU (R125): Atomically stores the unsigned minimum, returning the old value. -/
  | amoMinu (d : BitVec 4) (a : Src) (b : Src) (w : BitVec 1) (x : BitVec 1) (y : BitVec 1)
  /-- AMO_MAXU (R125): Atomically stores the unsigned maximum, returning the old value. -/
  | amoMaxu (d : BitVec 4) (a : Src) (b : Src) (w : BitVec 1) (x : BitVec 1) (y : BitVec 1)
  /-- AMO_SWP (R125): Atomically swaps b into the location, returning the old value. -/
  | amoSwp (d : BitVec 4) (a : Src) (b : Src) (w : BitVec 1) (x : BitVec 1) (y : BitVec 1)
  /-- AMO_CAS (R125): Atomically stores b if the location equals d, returning the old value. -/
  | amoCas (d : BitVec 4) (a : Src) (b : Src) (w : BitVec 1) (x : BitVec 1) (y : BitVec 1)
  /-- AMO_FADD (R125): Atomically adds b as floating point with RNE and no flags. -/
  | amoFadd (d : BitVec 4) (a : Src) (b : Src) (w : BitVec 1) (x : BitVec 1) (y : BitVec 1)
  /-- FENCE (R96): Waits for earlier loads and/or stores at the scope, stops on a recorded store fault, and writes the peer-failure bitmap. -/
  | fence (d : BitVec 4) (s : BitVec 3) (k : BitVec 2)
  /-- DRAIN_S (R86): Waits until every earlier store completed or wrote an SFQ record, stopping the process if one did. -/
  | drainS
  /-- ISYNC (R89): Waits for earlier stores to the own ISTORE and refetches. -/
  | isync
  /-- FRD (R123): Reads a future cell, optionally clearing its tag, trapping or waiting when empty. -/
  | frd (d : BitVec 4) (a : Src) (t : BitVec 1) (c : BitVec 1)
  /-- FWR (R123): Writes a future cell, sets it full and wakes its waiters. -/
  | fwr (a : Src) (b : Src)
  /-- FCLR (R123): Sets a future cell's tag empty. -/
  | fclr (a : Src)
  /-- XWR (R107): Sends value b to register n of a process in a slot of the same fold. -/
  | xwr (d : BitVec 4) (a : Src) (b : Src)
  /-- SLB (R108): Borrows a free slot of the core and writes its number. -/
  | slb (d : BitVec 4)
  /-- SLR (R108): Returns the borrowed slot. -/
  | slr
  /-- MXF (R108): Copies a borrowed register into a local register. -/
  | mxf (d : BitVec 4) (b : BitVec 4)
  /-- MXT (R108): Copies a local register into a borrowed register. -/
  | mxt (d : BitVec 4) (a : Src)
  /-- BINDQ (R109): Binds g8 to g11 as a port to a word channel or ring queue. -/
  | bindq (d : BitVec 4) (b : Src)
  /-- UNBQ (R109): Unbinds a port, leaving the register full with 0. -/
  | unbq (d : BitVec 4)
  /-- EMPTY (R111): Marks a register empty and discards its pending fill. -/
  | empty (d : BitVec 4)
  /-- ISFULL (R111): Writes 1 if register a is full or a port has a head element. -/
  | isfull (d : BitVec 4) (a : BitVec 4)
  /-- BEQZ (R126): Branches if a is zero. -/
  | beqz (a : Src) (o : BitVec 17)
  /-- BNEZ (R126): Branches if a is not zero. -/
  | bnez (a : Src) (o : BitVec 17)
  /-- BLTZ (R126): Branches if a is negative. -/
  | bltz (a : Src) (o : BitVec 17)
  /-- BGEZ (R126): Branches if a is not negative. -/
  | bgez (a : Src) (o : BitVec 17)
  /-- BGTZ (R126): Branches if a is positive. -/
  | bgtz (a : Src) (o : BitVec 17)
  /-- BLEZ (R126): Branches if a is zero or negative. -/
  | blez (a : Src) (o : BitVec 17)
  /-- BEQ (R126): Branches if a equals b. -/
  | beq (a : Src) (b : Src) (o : BitVec 11)
  /-- BNE (R126): Branches if a differs from b. -/
  | bne (a : Src) (b : Src) (o : BitVec 11)
  /-- BLT (R126): Branches if a < b signed. -/
  | blt (a : Src) (b : Src) (o : BitVec 11)
  /-- BGE (R126): Branches if a ≥ b signed. -/
  | bge (a : Src) (b : Src) (o : BitVec 11)
  /-- BLTU (R126): Branches if a < b unsigned. -/
  | bltu (a : Src) (b : Src) (o : BitVec 11)
  /-- BGEU (R126): Branches if a ≥ b unsigned. -/
  | bgeu (a : Src) (b : Src) (o : BitVec 11)
  /-- J (R127): Jumps by a word offset. -/
  | j (o : BitVec 25)
  /-- JAL (R127): Jumps by a word offset and writes the return address into lr. -/
  | jal (o : BitVec 25)
  /-- JR (R127): Jumps to the address in a. -/
  | jr (a : Src)
  /-- JALR (R127): Writes PC + 4 into d and jumps to a. -/
  | jalr (d : BitVec 4) (a : Src)
  /-- LOOP (R128): Decrements a and branches if it is not zero. -/
  | loop (a : Src) (o : BitVec 17)
  /-- TRAP (R129): Raises TRAP_INSN at UTV with the code in EVAL. -/
  | trap (c : BitVec 12)
  /-- SYSC (R129): Raises SYSCALL to the supervisor with the code. -/
  | sysc (c : BitVec 12)
  /-- ERET (R129): Returns from an active user trap handler to EPC. -/
  | eret
  /-- BRK (R129): Raises BREAK to the supervisor with the code. -/
  | brk (c : BitVec 12)
  /-- NOP (R129): Does nothing. -/
  | nop
  /-- SNAP (R129): Pulses the package snapshot trigger without waiting. -/
  | snap
  /-- CSRR (R130): Reads a CSR into d. -/
  | csrr (d : BitVec 4) (n : BitVec 12)
  /-- CSRW (R130): Writes a into a CSR, returning the old value, with privilege and value checks. -/
  | csrw (d : BitVec 4) (a : Src) (n : BitVec 12)
  /-- CSRS (R130): Sets the bits of a in a CSR, returning the old value. -/
  | csrs (d : BitVec 4) (a : Src) (n : BitVec 12)
  /-- CSRC (R130): Clears the bits of a in a CSR, returning the old value. -/
  | csrc (d : BitVec 4) (a : Src) (n : BitVec 12)
  /-- SPAWN (R154): Creates one process on a target or placed core, optionally in a new group, filling d with the result. -/
  | spawn (d : BitVec 4) (a : Src) (b : Src) (n : BitVec 1) (l : BitVec 1) (v : BitVec 3)
  /-- GANG (R155): Creates a new group of 4 or 8 members on c0 to c3 of one or two folds. -/
  | gang (d : BitVec 4) (a : Src) (e : BitVec 1)
  /-- YIELD (R157): Gives up the slot until the next rotation boundary. -/
  | yield
  /-- PRIO (R157): Returns the old priority and sets a new pen. -/
  | prio (d : BitVec 4) (a : Src)
  /-- EXIT (R160): Waits for the process's stores, folds its status into the done accumulators and frees its resources. -/
  | exit (a : Src)
  /-- KILLG (R162): Kills every process of a supervised group. -/
  | killg (d : BitVec 4) (a : Src)
  /-- SUSP (R163): Suspends a named process at a later allowed rotation boundary. -/
  | susp (d : BitVec 4) (a : Src)
  /-- RESM (R163): Resumes a suspended or trapped process. -/
  | resm (d : BitVec 4) (a : Src)
  /-- MIGR (R166): Moves a named process to another core of the package. -/
  | migr (d : BitVec 4) (a : Src) (b : Src)
  /-- PSELF (R157): Writes the process's GID, gang membership and name. -/
  | pself (d : BitVec 4)
  /-- PINFO (R158): Asks for the state and location of a named process. -/
  | pinfo (d : BitVec 4) (a : Src)
  /-- WFW (R159): Blocks the process until a dispenser serves it work. -/
  | wfw (a : Src)
  /-- SLEEP (R157): Sleeps until GTC reaches a deadline. -/
  | sleep (a : Src)
  /-- TRAPW (R164): Returns the next trap notification of supervised groups, waiting unless .P. -/
  | trapw (d : BitVec 4) (w : BitVec 1)
  /-- QUIESCE (R165): Suspends every process of a fold rectangle and waits for the region to be still. -/
  | quiesce (d : BitVec 4) (a : Src) (b : Src)
  /-- QUIESCE_R (R165): Resumes the processes and held traffic of a quiesced region. -/
  | quiesceR (d : BitVec 4) (a : Src) (b : Src)
  /-- GBAR (R169): Arrives at the group's current phase and waits for it to complete. -/
  | gbar (d : BitVec 4)
  /-- GARR (R169): Arrives at the group's current phase and returns its number. -/
  | garr (d : BitVec 4)
  /-- GWAIT (R169): Waits until a phase has completed. -/
  | gwait (a : Src)
  /-- GEXP (R169): Posts an expectation of transfer completions at an endpoint for the current phase. -/
  | gexp (a : Src) (b : Src)
  /-- SVOPEN (R225): Opens ends to a drover, dispenser, timer, host, bothy or deadlock reporter. -/
  | svopen (d : BitVec 4) (a : Src) (b : Src)
  /-- TIMER (R242): Arms or disarms a deadline on a timer end, returning the previous deadline. -/
  | timer (d : BitVec 4) (a : Src) (b : Src)
  /-- DQRY (R239): Queries a dispenser for one work item. -/
  | dqry (d : BitVec 4) (a : Src) (b : Src)
  /-- DLKQ (R254): Takes the oldest queued deadlock report of a supervised group into the scratchpad. -/
  | dlkq (d : BitVec 4) (a : Src)
  /-- CHNEW (R190): Creates a channel and returns its two handles. -/
  | chnew (d : BitVec 4) (a : Src)
  /-- CHDEL (R191): Deletes an end after its in-flight transfers drain and tells the peer. -/
  | chdel (a : Src)
  /-- CHBIND (R192): Moves a channel end to another process under a chosen handle. -/
  | chbind (d : BitVec 4) (a : Src) (b : Src)
  /-- CHQRY (R195): Writes the state of an end without waiting. -/
  | chqry (d : BitVec 4) (a : Src)
  /-- CHPOLL (R195): Writes whether an operation on the end would complete now. -/
  | chpoll (d : BitVec 4) (a : Src)
  /-- SENDH (R194): Passes an end over a handle channel. -/
  | sendh (a : Src) (b : Src)
  /-- SEND (R198): Sends a word or signal on a channel, waiting for the match or a credit. -/
  | send (a : Src) (b : Src)
  /-- RECV (R198): Receives a word, signal or handle from a channel. -/
  | recv (d : BitVec 4) (a : Src)
  /-- SENDB (R198): Sends a block from the scratchpad on a block channel. -/
  | sendb (a : Src) (b : Src)
  /-- RECVB (R198): Receives a block into a scratchpad area and returns its length. -/
  | recvb (d : BitVec 4) (a : Src) (b : Src)
  /-- SENDT (R198): Sends a tile from the scratchpad or a tile-table entry. -/
  | sendt (a : Src) (b : Src) (t : BitVec 1)
  /-- RECVT (R198): Receives a tile into the scratchpad or a tile-table entry. -/
  | recvt (a : Src) (b : Src) (t : BitVec 1)
  /-- SENDA (R200): Sends a block without waiting, returning a transfer identifier. -/
  | senda (d : BitVec 4) (a : Src) (b : Src)
  /-- TRECV (R201): Receives with a GTC deadline armed at the timer server. -/
  | trecv (d : BitVec 4) (a : Src) (b : Src) (t : BitVec 1)
  /-- ALT (R208): Waits for one of up to 16 guards to be ready, reserves it and returns its index. -/
  | alt (d : BitVec 4) (a : Src) (b : Src) (f : BitVec 1)
  /-- COPY (R211): Starts a strided copy carried by the fold's streamers and returns its transfer identifier. -/
  | copy (d : BitVec 4) (a : Src) (b : Src)
  /-- CWAIT (R212): Waits until a transfer identifier has completed and reports FAIL. -/
  | cwait (d : BitVec 4) (a : Src) (b : Src)
  /-- STRM (R214): Binds a port in stream mode to a memory pattern. -/
  | strm (d : BitVec 4) (b : Src)
  /-- SUBS (R216): Subscribes a block receive end to a multicast tag on the die. -/
  | subs (d : BitVec 4) (a : Src) (b : Src)
  /-- UNSUB (R216): Removes a multicast subscription. -/
  | unsub (d : BitVec 4) (a : Src)
  /-- MCAST (R217): Stages a block for multicast to every subscriber of a tag on the die. -/
  | mcast (a : Src) (b : Src)
  /-- VADD (R260): Adds vector lanes. -/
  | vadd (d : BitVec 5) (a : BitVec 5) (b : BitVec 5) (k : BitVec 3) (e : BitVec 3)
  /-- VSUB (R260): Subtracts vector lanes. -/
  | vsub (d : BitVec 5) (a : BitVec 5) (b : BitVec 5) (k : BitVec 3) (e : BitVec 3)
  /-- VMUL (R260): Multiplies vector lanes. -/
  | vmul (d : BitVec 5) (a : BitVec 5) (b : BitVec 5) (k : BitVec 3) (e : BitVec 3)
  /-- VDIV (R260): Divides vector lanes. -/
  | vdiv (d : BitVec 5) (a : BitVec 5) (b : BitVec 5) (k : BitVec 3) (e : BitVec 3)
  /-- VMIN (R260): Takes the lane minima. -/
  | vmin (d : BitVec 5) (a : BitVec 5) (b : BitVec 5) (k : BitVec 3) (e : BitVec 3)
  /-- VMAX (R260): Takes the lane maxima. -/
  | vmax (d : BitVec 5) (a : BitVec 5) (b : BitVec 5) (k : BitVec 3) (e : BitVec 3)
  /-- VABS (R260): Takes lane absolute values. -/
  | vabs (d : BitVec 5) (a : BitVec 5) (k : BitVec 3) (e : BitVec 3)
  /-- VNEG (R260): Negates vector lanes. -/
  | vneg (d : BitVec 5) (a : BitVec 5) (k : BitVec 3) (e : BitVec 3)
  /-- VSQRT (R260): Takes lane square roots. -/
  | vsqrt (d : BitVec 5) (a : BitVec 5) (k : BitVec 3) (e : BitVec 3)
  /-- VRSQ (R260): Takes FP32 lane reciprocal square roots. -/
  | vrsq (d : BitVec 5) (a : BitVec 5) (k : BitVec 3)
  /-- VEXP2 (R260): Takes FP32 lane powers of two. -/
  | vexp2 (d : BitVec 5) (a : BitVec 5) (k : BitVec 3)
  /-- VLOG2 (R260): Takes FP32 lane base-2 logarithms. -/
  | vlog2 (d : BitVec 5) (a : BitVec 5) (k : BitVec 3)
  /-- VCMUL (R261): Multiplies CF32 lane pairs. -/
  | vcmul (d : BitVec 5) (a : BitVec 5) (b : BitVec 5) (k : BitVec 3)
  /-- VAND (R260): ANDs vector lanes. -/
  | vand (d : BitVec 5) (a : BitVec 5) (b : BitVec 5) (k : BitVec 3) (e : BitVec 3)
  /-- VOR (R260): ORs vector lanes. -/
  | vor (d : BitVec 5) (a : BitVec 5) (b : BitVec 5) (k : BitVec 3) (e : BitVec 3)
  /-- VXOR (R260): XORs vector lanes. -/
  | vxor (d : BitVec 5) (a : BitVec 5) (b : BitVec 5) (k : BitVec 3) (e : BitVec 3)
  /-- VSHL (R260): Shifts integer lanes left. -/
  | vshl (d : BitVec 5) (a : BitVec 5) (b : BitVec 5) (k : BitVec 3) (e : BitVec 3)
  /-- VSHR (R260): Shifts integer lanes logically right. -/
  | vshr (d : BitVec 5) (a : BitVec 5) (b : BitVec 5) (k : BitVec 3) (e : BitVec 3)
  /-- VSRA (R260): Shifts integer lanes arithmetically right. -/
  | vsra (d : BitVec 5) (a : BitVec 5) (b : BitVec 5) (k : BitVec 3) (e : BitVec 3)
  /-- VFMA (R262): Computes va × vb + vd per lane with one rounding. -/
  | vfma (d : BitVec 5) (a : BitVec 5) (b : BitVec 5) (k : BitVec 3) (e : BitVec 3)
  /-- VFMS (R262): Computes va × vb - vd per lane with one rounding. -/
  | vfms (d : BitVec 5) (a : BitVec 5) (b : BitVec 5) (k : BitVec 3) (e : BitVec 3)
  /-- VCMP (R263): Compares lanes into a mask. -/
  | vcmp (c : BitVec 2) (d : BitVec 3) (a : BitVec 5) (b : BitVec 5) (k : BitVec 3) (e : BitVec 3)
  /-- VSEL (R263): Selects lanes of va or vb by a mask. -/
  | vsel (d : BitVec 5) (a : BitVec 5) (b : BitVec 5) (k : BitVec 3) (e : BitVec 3)
  /-- MSET (R263): Writes a g register into a mask. -/
  | mset (d : BitVec 3) (a : BitVec 4)
  /-- MSET_R (R263): Writes a mask into a g register. -/
  | msetR (d : BitVec 4) (a : BitVec 3)
  /-- MAND (R263): ANDs two masks. -/
  | mand (d : BitVec 3) (a : BitVec 3) (b : BitVec 3)
  /-- MOR (R263): ORs two masks. -/
  | mor (d : BitVec 3) (a : BitVec 3) (b : BitVec 3)
  /-- MNOT (R263): Inverts a mask. -/
  | mnot (d : BitVec 3) (a : BitVec 3)
  /-- VCVT (R264): Converts lanes between formats, narrowing or widening by half. -/
  | vcvt (d : BitVec 5) (a : BitVec 5) (h : BitVec 1) (f : BitVec 4) (k : BitVec 3) (e : BitVec 3)
  /-- VQNT (R265): Quantises 32 values into a block-scaled packed form. -/
  | vqnt (d : BitVec 5) (a : BitVec 5) (n : BitVec 1) (f : BitVec 4) (e : BitVec 3)
  /-- VDQN (R265): Decodes a packed block-scaled block. -/
  | vdqn (d : BitVec 5) (a : BitVec 5) (f : BitVec 4) (e : BitVec 3)
  /-- VRED (R266): Reduces lanes by a fixed tree into a g register filled 8 cycles later. -/
  | vred (d : BitVec 4) (a : BitVec 5) (o : BitVec 2) (k : BitVec 3) (e : BitVec 3)
  /-- VSCAN (R267): Writes the running reduction of lanes. -/
  | vscan (d : BitVec 5) (a : BitVec 5) (o : BitVec 2) (k : BitVec 3) (e : BitVec 3)
  /-- VPERM (R267): Permutes lanes of va by indices in vb. -/
  | vperm (d : BitVec 5) (a : BitVec 5) (b : BitVec 5) (k : BitVec 3) (e : BitVec 3)
  /-- VBCAST (R267): Broadcasts a g register into enabled lanes. -/
  | vbcast (d : BitVec 5) (a : BitVec 4) (k : BitVec 3) (e : BitVec 3)
  /-- VMOVG (R267): Moves one lane into a g register. -/
  | vmovg (d : BitVec 4) (a : BitVec 5) (b : BitVec 4) (e : BitVec 3)
  /-- VMOVV (R267): Moves a g register into one lane. -/
  | vmovv (d : BitVec 5) (a : BitVec 4) (b : BitVec 4) (e : BitVec 3)
  /-- VLD (R268): Loads a vector from consecutive addresses. -/
  | vld (d : BitVec 5) (a : BitVec 4) (o : BitVec 5) (k : BitVec 3) (e : BitVec 3)
  /-- VST (R269): Posts a vector store to consecutive addresses. -/
  | vst (d : BitVec 5) (a : BitVec 4) (o : BitVec 5) (k : BitVec 3) (e : BitVec 3)
  /-- VLDS (R268): Loads a vector with a byte stride. -/
  | vlds (d : BitVec 5) (a : BitVec 4) (b : BitVec 4) (k : BitVec 3) (e : BitVec 3)
  /-- VSTS (R269): Stores a vector with a byte stride. -/
  | vsts (d : BitVec 5) (a : BitVec 4) (b : BitVec 4) (k : BitVec 3) (e : BitVec 3)
  /-- VGATH (R268): Gathers lanes from base plus per-lane offsets. -/
  | vgath (d : BitVec 5) (a : BitVec 4) (b : BitVec 5) (k : BitVec 3) (e : BitVec 3)
  /-- VSCAT (R269): Scatters lanes to base plus per-lane offsets. -/
  | vscat (d : BitVec 5) (a : BitVec 4) (b : BitVec 5) (k : BitVec 3) (e : BitVec 3)
  /-- VREP (R271): Captures following vector words and replays them with strided register fields. -/
  | vrep (w : BitVec 4) (r : BitVec 6) (d : BitVec 5) (a : BitVec 5) (b : BitVec 5)
  /-- TDEF (R275): Defines or releases a tile-table entry. -/
  | tdef (d : BitVec 5) (a : BitVec 4) (b : BitVec 4)
  /-- TSTAT (R277): Writes the state, error, generation and owner of a tile entry. -/
  | tstat (d : BitVec 4) (a : BitVec 5)
  /-- TLOAD (R285): Starts an asynchronous fill of a tile from memory. -/
  | tload (d : BitVec 5) (a : BitVec 4) (b : BitVec 4)
  /-- TSTORE (R286): Starts an asynchronous write of a tile to memory. -/
  | tstore (d : BitVec 5) (a : BitVec 4) (b : BitVec 4)
  /-- TCVT (R288): Converts one tile into another of equal shape. -/
  | tcvt (d : BitVec 5) (a : BitVec 5) (z : BitVec 1) (y : BitVec 1)
  /-- TCMD (R299): Sends a tile command to another core's tile side under a capability. -/
  | tcmd (a : BitVec 4) (b : BitVec 4)
  /-- MMA (R290): Accumulates A · B into a bank in the order of sums. -/
  | mma (k : BitVec 1) (a : BitVec 5) (b : BitVec 5) (z : BitVec 1) (y : BitVec 1)
  /-- MMAG (R291): Accumulates a product whose A rows are gathered by an index tile. -/
  | mmag (k : BitVec 1) (a : BitVec 5) (b : BitVec 5) (z : BitVec 1) (y : BitVec 1) (i : BitVec 5)
  /-- CMMA (R292): Accumulates a CF32 product with compensation. -/
  | cmma (k : BitVec 1) (a : BitVec 5) (b : BitVec 5) (z : BitVec 1) (y : BitVec 1)
  /-- GMMA (R293): Runs the gang's next product with A multicast from the source member. -/
  | gmma (k : BitVec 1) (a : BitVec 5) (b : BitVec 5) (z : BitVec 1) (y : BitVec 1)
  /-- AZERO (R281): Takes ownership of a bank and zeroes it. -/
  | azero (k : BitVec 1)
  /-- ADRAIN (R294): Drains a bank into a local tile, optionally releasing it. -/
  | adrain (d : BitVec 5) (k : BitVec 1) (z : BitVec 1) (x : BitVec 1)
  /-- ADRAIN_R (R295): Drains a bank to another core's scratchpad with a transfer identifier and optional wake-up. -/
  | adrainR (d : BitVec 5) (k : BitVec 1) (b : BitVec 4) (z : BitVec 1) (x : BitVec 1) (w : BitVec 1)
  /-- TADD (R296): Adds two tiles elementwise. -/
  | tadd (d : BitVec 5) (a : BitVec 5) (b : BitVec 5) (z : BitVec 1) (y : BitVec 1)
  /-- TMUL (R296): Multiplies two tiles elementwise. -/
  | tmul (d : BitVec 5) (a : BitVec 5) (b : BitVec 5) (z : BitVec 1) (y : BitVec 1)
  /-- TACT (R297): Applies an activation function elementwise. -/
  | tact (d : BitVec 5) (a : BitVec 5) (s : BitVec 5) (z : BitVec 1) (y : BitVec 1) (f : BitVec 3)
  /-- TSUM (R298): Writes row sums into column 0. -/
  | tsum (d : BitVec 5) (a : BitVec 5) (z : BitVec 1) (y : BitVec 1)
  /-- TTRN (R298): Transposes a tile. -/
  | ttrn (d : BitVec 5) (a : BitVec 5)
  /-- TAPON (R321): Opens a tape from a descriptor in fold SRAM. -/
  | tapon (d : BitVec 4) (a : Src)
  /-- TAPON_R (R321): Resumes recording on a paused tape. -/
  | taponR (d : BitVec 4) (a : Src)
  /-- TAPOFF (R321): Pauses a recording tape. -/
  | tapoff
  /-- TAPOFF_X (R321): Closes the open tape and frees its table entry. -/
  | tapoffX
  /-- TMARK (R321): Appends a mark record and returns its sequence number. -/
  | tmark (d : BitVec 4)
  /-- REVERSE (R328): Walks the tape backwards to a mark, applying adjoints. -/
  | reverse (d : BitVec 4) (a : Src)
  /-- TSPILL (R322): Writes unspilled tape bytes to the spill area in HBM. -/
  | tspill (d : BitVec 4) (a : Src)
  /-- TAPST (R321): Writes a tape status item selected by a. -/
  | tapst (d : BitVec 4) (a : Src)
  /-- SPLD (R348): Copies scratchpad words into scratch entries. -/
  | spld (a : Src) (b : Src)
  /-- SPLD_Z (R348): Writes zero into scratch entries. -/
  | spldZ (a : Src)
  /-- SPST (R348): Copies scratch entries into the scratchpad. -/
  | spst (a : Src) (b : Src)
  /-- SPW (R348): Copies scratchpad words into the weight store. -/
  | spw (a : Src) (b : Src)
  /-- SPU (R344): Evaluates a subtree and writes its root value. -/
  | spu (d : BitVec 4) (a : Src) (z : BitVec 1) (y : BitVec 1)
  /-- SPD (R345): Passes derivatives down a subtree and adds them into leaf derivative entries. -/
  | spd (d : BitVec 4) (a : Src) (z : BitVec 1) (y : BitVec 1)
  /-- SPMODE (R349): Sets bank modes between FP32 and LP48, returning the old modes. -/
  | spmode (d : BitVec 4) (a : Src) (b : Src)
  /-- SPCVT (R350): Converts entries between the modes of their banks. -/
  | spcvt (a : Src) (b : Src) (z : BitVec 1) (y : BitVec 1)
  /-- SPSTAT (R351): Reads the SPE status, optionally clearing its sticky bits. -/
  | spstat (d : BitVec 4) (c : BitVec 1)
  /-- RGO (R378): Checkpoints the process and sends a region body and registers to the landing unit of a target. -/
  | rgo (d : BitVec 4) (a : Src) (o : BitVec 11)
  /-- RDONE (R377): Ends a region body; at a core it raises ILLEGAL. -/
  | rdone
  /-- RABORT (R377): Aborts a region; at a core it raises ILLEGAL. -/
  | rabort
  /-- PERMX (R382): Starts a bit-permutation exchange with a partner package. -/
  | permx (d : BitVec 4) (a : Src) (b : Src)
  /-- PEER (R374): Reads, writes or clears a peer-table entry and the UNNAMED bit. -/
  | peer (d : BitVec 4) (a : Src) (b : Src)
  /-- LKEY (R375): Loads a link key slot or switches the active transmit slot. -/
  | lkey (d : BitVec 4) (a : Src) (b : Src)
  /-- LSTAT (R376): Writes a link or route statistic. -/
  | lstat (d : BitVec 4) (a : Src)
  /-- BOPEN (R386): Checks and locks a bundle descriptor, starting bundle stores. -/
  | bopen (d : BitVec 4) (a : Src) (b : Src)
  /-- BCLOSE (R387): Commits the open bundle in two phases. -/
  | bclose (d : BitVec 4)
  /-- BLD (R389): Loads a bundle line word under a view, trapping if stale. -/
  | bld (d : BitVec 4) (a : Src) (b : Src)
  /-- BLD_R (R389): Loads a bundle line word under a view, marking the view stale instead of trapping. -/
  | bldR (d : BitVec 4) (a : Src) (b : Src)
  /-- BVIEW (R388): Reads a bundle's word 0 with an acquire to form a view. -/
  | bview (d : BitVec 4) (a : Src)
  /-- BSTAT (R390): Writes the issuer's bundle writer state. -/
  | bstat (d : BitVec 4)
  /-- ONCE (R55): Makes the following instruction run at one elected gang member and posts its result to the others. -/
  | once
  /-- PFX (R54): Supplies upper immediate bits to the following immediate instruction. -/
  | pfx (p : BitVec 16)
  /-- ROTATION_BOUNDARY (R147): Every 8 cycles the shepherd swaps out leaving processes and fills slots from the pens by credit. -/
  | rotationBoundary (core : Nat)
  /-- QUANTUM_EXPIRY (R147): A light resident reaches PENW.QUANT boundaries and becomes expired. -/
  | quantumExpiry (core slot : Nat)
  /-- BUDGET_EXHAUSTED (R149): URGB.BUDGET reaches 0 and urgent processes count as expired. -/
  | budgetExhausted (core : Nat)
  /-- URGENT_WINDOW_END (R149): The URGB window ends; BUDGET is reloaded and urgent marks cleared. -/
  | urgentWindowEnd (core : Nat)
  /-- FILL (R104): A long-latency producer's value arrives and is accepted or discarded by tag, readying a waiting process. -/
  | fill (dest : FillTo) (val : Word)
  /-- XWR_DELIVERY (R107): An XWR arrives at the target slot and is checked for slot and group. -/
  | xwrDelivery (x : Xwr)
  /-- XWR_WRITE (R107): A waiting XWR writes the target register once it is empty. -/
  | xwrWrite (x : Xwr)
  /-- STORE_TRANSLATE (R408): A store leaves the store buffer and looks up in the fold translator. -/
  | storeTranslate (core id : Nat)
  /-- TRANSLATOR_LOOKUP_DONE (R408): A 4-cycle fold-translator lookup completes, hitting or starting a walk. -/
  | translatorLookupDone (x : Xlat)
  /-- PAGE_WALK_READ (R81): A page-table entry read of a walk returns. -/
  | pageWalkRead (x : Xlat) (lvl : Nat) (entry : Word)
  /-- PAGE_WALK_END (R408): A walk ends, installing a translation or acting on its fault. -/
  | pageWalkEnd (x : Xlat) (r : Option Tlb)
  /-- STORE_ACK (R83): A store's target acknowledges it and the store is complete. -/
  | storeAck (core id : Nat)
  /-- STORE_NAK (R78): A refused or unbacked store's negative answer reaches the sender and writes an SFQ record. -/
  | storeNak (core id cause : Nat)
  /-- SFQ_COPY (R85): Once the stopped process's stores are settled, its SFQ records move to its extension and its notification is queued. -/
  | sfqCopy (name : Nat)
  /-- REMOTE_ACCESS_ARRIVAL (R77): An access reaches a core window and is checked against WIN0 to WIN3. -/
  | remoteAccessArrival (x : Access)
  /-- AMO_AT_HOME (R97): An atomic is performed as one step at the location's home. -/
  | amoAtHome (x : Access)
  /-- SLOT_REGISTER_WRITE (R76): A window write to a slot register sets it full and discards any pending fill. -/
  | slotRegisterWrite (core slot : Nat) (reg : Reg) (val : Word)
  /-- TINV_WRITE (R82): A write to TINV posts an invalidation down the launch's done tree. -/
  | tinvWrite (core name : Nat) (val : Word)
  /-- CSR_WINDOW_WRITE (R76): A write through the CSR row of a window to a register with no row of its own. -/
  | csrWindowWrite (core csr : Nat) (val : Word)
  /-- INVALIDATION_ARRIVAL (R82): An invalidation reaches a core, which drops matching translation entries. -/
  | invalidationArrival (core : Nat) (v : Inval)
  /-- INVALIDATION_COMPLETE (R82): No access using a dropped entry remains and the completion is combined up the tree. -/
  | invalidationComplete (core : Nat) (v : Inval)
  /-- FRD_ANSWER (R123): The fold answers a future read of a cell. -/
  | frdAnswer (f : FrdReq)
  /-- LAUNCH_RECORD (R20): A launch record arrives from the tether port or a bothy end and is checked or refused. -/
  | launchRecord (pkg : Nat) (src : Source) (words : List Word)
  /-- LAUNCH_TAKE_EFFECT (R22): After earlier stores of the source complete, the bothy assigns GIDs and sends the header. -/
  | launchTakeEffect (launch : Nat)
  /-- LAUNCH_HEADER (R22): A shepherd receives the launch header, derives the done tree and, at the root's core, writes the root record. -/
  | launchHeader (launch core : Nat)
  /-- START (R154): A START message reaches the target core and creates the process or answers a failure. -/
  | start (m : StartMsg)
  /-- NAME_LOOKUP (R158): A lookup by name reaches the birth core and is passed on or answered. -/
  | nameLookup (q : Look) (atHolder : Bool)
  /-- NAME_LOOKUP_ANSWER (R192): The answer to a lookup by name returns to the issuing core. -/
  | nameLookupAnswer (q : Look) (result : Word)
  /-- KILL_ARRIVAL (R162): A KILLG reaches a core and kills its processes of the group. -/
  | killArrival (gid core : Nat)
  /-- GROUP_RELEASE (R162): Every member is FREE; the home entry and GID are released and KILLG's d is filled. -/
  | groupRelease (gid : Nat)
  /-- MIGRATION_ARRIVAL (R166): A migrating context reaches the target shepherd, which accepts or refuses it. -/
  | migrationArrival (m : Mig)
  /-- MIGRATION_ANSWER (R166): The target's acceptance or refusal returns to the source. -/
  | migrationAnswer (m : Mig) (code : Nat)
  /-- LOCATION_UPDATE (R167): An endpoint's new location reaches its peer. -/
  | locationUpdate (key : Nat) (loc : EndLoc)
  /-- FORWARD_EXPIRY (R167): A forwarding entry is removed after its peer's acknowledgement and 1 ms. -/
  | forwardExpiry (key : Nat)
  /-- QUIESCE_STILL (R165): The stillness tree has read zero for 64 cycles and QUIESCE fills d. -/
  | quiesceStill (dest : FillTo)
  /-- BARRIER_ARRIVAL (R169): A member's arrival reaches the group home, which may complete the phase. -/
  | barrierArrival (gid name : Nat)
  /-- EXIT_DRAIN_COMPLETE (R160): All stores of an exiting process are complete and its resources are freed. -/
  | exitDrainComplete (name : Nat)
  /-- NOTIFICATION_DELIVERY (R164): A held trap notification enters the supervisor queue once it has room. -/
  | notificationDelivery (name : Nat)
  /-- SLEEP_EXPIRY (R157): GTC reaches a sleeping process's deadline. -/
  | sleepExpiry (name : Nat)
  /-- DETECTION_WAVE (R177): A done-tree detection wave reaches a node. -/
  | detectionWave (launch node : Nat)
  /-- DETECTION_ANSWER (R177): A node whose LIVE is 0 and whose children answered sends its sums up; at L[0] the launch may complete. -/
  | detectionAnswer (launch node : Nat)
  /-- OFFER_ARRIVAL (R204): A send's offer reaches the receive end and is held, matched or refused. -/
  | offerArrival (dst : EndLoc) (m : Msg)
  /-- OFFER_RESEND (R204): A refused offer is sent again 64 cycles later. -/
  | offerResend (dst : EndLoc) (m : Msg)
  /-- RECEIVE_ANNOUNCE (R209): A waiting receive announces itself at the send end. -/
  | receiveAnnounce (dst : EndLoc)
  /-- TRANSFER_DATA_WRITTEN (R206): A block or tile rendezvous finishes writing its data at the receiver. -/
  | transferDataWritten (x : Xfer)
  /-- SEND_ACK (R206): The match acknowledgement reaches the sender, which retires. -/
  | sendAck (m : Msg) (peer : EndLoc)
  /-- MESSAGE_ENQUEUE (R202): A buffered message's last packet is written into the ring queue. -/
  | messageEnqueue (dst : EndLoc) (m : Msg)
  /-- CREDIT_RETURN (R202): A credit reaches the buffered send end. -/
  | creditReturn (dst : EndLoc)
  /-- WAKEUP (R203): An engine wake-up adds one to a signal receive end's PEND. -/
  | wakeup (dst : EndLoc)
  /-- PEER_DELETED (R191): Notice of a deleted or killed end reaches its peer, which becomes DEAD. -/
  | peerDeleted (dst : EndLoc)
  /-- CHBIND_MOVE (R192): Once INFL is 0 the end and its held traffic are sent to the target core. -/
  | chbindMove (v : EndMove)
  /-- ENDPOINT_INSTALL (R192): A moved end reaches the target core and is installed or refused. -/
  | endpointInstall (v : EndMove)
  /-- CHBIND_ACK (R192): The target's answer returns and the CHBIND or SENDH fills d. -/
  | chbindAck (v : EndMove) (code : Nat)
  /-- TRECV_EXPIRY (R201): A TRECV deadline passes without a match. -/
  | trecvExpiry (name : Nat)
  /-- TRANSFER_COMPLETE (R212): A copy, SENDA, drain or PERMX transfer completes and DONE advances. -/
  | transferComplete (t : Transfer)
  /-- STREAM_ELEMENT (R215): A read-ahead stream element arrives at the port. -/
  | streamElement (name port : Nat)
  /-- JOIN_RECORDED (R216): A multicast join or leave has been recorded by every router and d is filled. -/
  | joinRecorded (dest : FillTo) (core tag key : Nat) (join : Bool)
  /-- MCAST_DELIVERY (R217): A multicast block reaches a subscribed end. -/
  | mcastDelivery (key : Nat) (m : Msg)
  /-- PACKET_STOMP (R369): A header CRC failure or port reset ends a packet with a stomped tail. -/
  | packetStomp (die : Nat) (dst : EndLoc) (m : Msg)
  /-- ACK_TIMEOUT (R369): A packet's acknowledgement timeout passes and it is resent or its channel ends. -/
  | ackTimeout (dst : EndLoc) (m : Msg)
  /-- SERVER_ANSWER (R225): A server's answer to SVOPEN returns and d is filled. -/
  | serverAnswer (r : SvReq)
  /-- DROVER_REQUEST (R231): A drover takes a request, translating and splitting it into slice accesses. -/
  | droverRequest (drover : Nat) (r : DrReq)
  /-- SLICE_PASS (R409): A slice passed over the drover ring reaches its owning drover. -/
  | slicePass (drover : Nat) (x : Access)
  /-- DROVER_ACCESS_END (R409): A slice access's transfer ends, performing the write or releasing the read data. -/
  | droverAccessEnd (drover : Nat) (x : Access)
  /-- DROVER_REPLY_RELEASE (R234): A reply waiting at the drover takes a returned credit and is sent. -/
  | droverReplyRelease (drover : Nat)
  /-- DISPENSER_QUERY (R241): A dispenser serves one query or WFW registration with the next item or the token. -/
  | dispenserQuery (disp : Nat) (q : DispAsk)
  /-- DQRY_ANSWER (R239): A dispenser answer writes the scratchpad word and fills d. -/
  | dqryAnswer (q : DispAsk) (item : Word)
  /-- WFW_SERVE (R240): A served WFW waiter receives item, ordinal, ARG and handle and is readied. -/
  | wfwServe (name : Nat) (item ordinal arg : Word)
  /-- DEADLINE_ARM (R242): A deadline waiting for a timer place is armed when one frees. -/
  | deadlineArm (fold : Nat)
  /-- DEADLINE_FIRE (R243): An armed timer deadline fires, adding a wake-up and disarming. -/
  | deadlineFire (fold : Nat) (d : Deadline)
  /-- PROBE_START (R247): A probed process has been BLOCKED for DELAY ns and its shepherd sends a probe. -/
  | probeStart (name episode : Nat)
  /-- PROBE_ARRIVAL (R249): A probe reaches a process and dies, is confirmed, or is forwarded along its edges. -/
  | probeArrival (name : Nat) (path : List Member)
  /-- CONFIRMATION_ARRIVAL (R250): A confirmation visits a member or returns to the initiator, which makes the report. -/
  | confirmationArrival (path : List Member) (index : Nat)
  /-- REPORT_ARRIVAL (R253): A deadlock report reaches the supervisor's core queue or is lost. -/
  | reportArrival (gid : Nat) (report : List Word)
  /-- TETHER_MESSAGE_FRAME (R392): A message frame from the host is delivered on a host end. -/
  | tetherMessageFrame (pkg : Nat) (words : List Word)
  /-- TETHER_STORE_FRAME (R392): A store frame writes its payload through the target window at level M. -/
  | tetherStoreFrame (pkg : Nat) (words : List Word)
  /-- TETHER_LOAD_FRAME (R392): A load frame reads memory and returns a load reply frame. -/
  | tetherLoadFrame (pkg : Nat) (words : List Word)
  /-- TETHER_REFUSED_FRAME (R392): A malformed frame is discarded and counted as an event. -/
  | tetherRefusedFrame (pkg : Nat) (words : List Word)
  /-- TETHER_RETRY (R392): A damaged frame is retried from the retry buffer; after 16 the port is down. -/
  | tetherRetry (pkg : Nat)
  /-- TETHER_TRAINING (R398): The tether port trains and a new session key is agreed by ML-KEM. -/
  | tetherTraining (pkg : Nat) (seed : Word) (ciphertext : List Byte)
  /-- ATTEST (R397): Returns a signed attestation report over the nonce. -/
  | attest (q : BReq) (nonce : List Word)
  /-- HEALTH (R393): Returns the health register and fenced-fold map. -/
  | health (q : BReq)
  /-- HEALTH_REPL_CLEAR (R400): A HEALTH request with word 1 bit 63 clears REPL. -/
  | healthReplClear (q : BReq)
  /-- EVENTS (R393): Returns and removes the oldest 127 event records. -/
  | events (q : BReq)
  /-- COUNTERS (R393): Returns the life counters. -/
  | counters (q : BReq)
  /-- SNAPSHOT (R403): Requests a snapshot trigger. -/
  | snapshot (q : BReq)
  /-- KEYPUT (R398): Installs an encrypted link key and salt in the key store. -/
  | keyput (q : BReq) (index count : Nat) (sealed : List Byte)
  /-- FEATURE (R393): Clears feature bits of the package's feature word before boot completes. -/
  | feature (q : BReq) (mask : Word)
  /-- FENCE_FOLD (R400): Fences a quiescent fold off from use. -/
  | fenceFold (q : BReq) (fold : Nat)
  /-- IMAGE (R395): Verifies, writes and measures a signed code image. -/
  | image (q : BReq) (cores : List Nat) (img : List Byte) (signature : List Byte)
  /-- POWER (R399): Sets the package power state. -/
  | power (q : BReq) (state : BitVec 2)
  /-- KILLGROUP (R393): Kills a group of a launch as KILLG does and returns the count. -/
  | killgroup (q : BReq) (gid : Nat) (launchId : Word)
  /-- IMAGEKEY (R398): Sets or changes the installation's image key. -/
  | imagekey (q : BReq) (key signature : List Byte)
  /-- POWER_ON (R395): The bothy ROM verifies and starts firmware, which tests folds and trains links. -/
  | powerOn (pkg : Nat) (firmware signature : List Byte) (failedFolds : List Nat)
  /-- BOOT_COMPLETE (R395): Firmware reports boot complete with a LAUNCHID 0 completion frame. -/
  | bootComplete (pkg : Nat)
  /-- PACKAGE_RESET (R405): An I3C package reset resets the package and its folds. -/
  | packageReset (pkg : Nat)
  /-- I3C_POWER_STATE (R405): An I3C write sets a power state. -/
  | i3cPowerState (pkg : Nat) (state : BitVec 2)
  /-- POWER_CAP (R399): Package power above 2,800 W for 1 ms enters CAP. -/
  | powerCap (pkg : Nat)
  /-- THROTTLE_ENTER (R399): A junction reaches 100 °C and throttling begins. -/
  | throttleEnter (die junction : Nat)
  /-- THROTTLE_EXIT (R399): Junctions fall below 95 °C and throttling ends. -/
  | throttleExit (die junction : Nat)
  /-- HARD_LIMIT (R399): A junction reaches 115 °C and the package goes OFF. -/
  | hardLimit (die junction : Nat)
  /-- PATROL_SCRUB (R401): The scrubber reads a word, correcting or poisoning it. -/
  | patrolScrub (addr : Nat) (corrected uncorrected : Bool)
  /-- SNAPSHOT_LATCH (R403): At time T every block latches its snapshot registers. -/
  | snapshotLatch (pkg : Nat)
  /-- LIFE_COUNTER_SAVE (R404): Every 10 minutes the life counters are written to non-volatile storage. -/
  | lifeCounterSave (pkg : Nat)
  /-- FLIT_ARRIVAL (R366): A link flit arrives and is accepted, discarded or NAKed, and its ACK or NAK is applied. -/
  | flitArrival (link : Nat) (f : Flit)
  /-- LINK_ACK_TIMEOUT (R366): No acknowledgement for 16 µs, or 16 replays, declares the link down and fails it over. -/
  | linkAckTimeout (link : Nat)
  /-- GATEWAY_PACKET_ARRIVAL (R363): A cross-package packet reaches the destination die's gateway and is delivered in sequence or held. -/
  | gatewayPacketArrival (p : GPacket)
  /-- LINK_LOST_TIMEOUT (R364): Traffic without an acknowledgement for 1 ms is declared link lost and its peer bit set. -/
  | linkLostTimeout (x : Access)
  /-- REGION_ARRIVAL (R379): A region reaches a landing unit and is queued, refused or receipted. -/
  | regionArrival (unit : Nat) (r : Region)
  /-- REGION_ATTEMPT (R379): A landing unit runs a region body attempt and commits or retries it. -/
  | regionAttempt (unit : Nat) (r : Region) (attempt : Nat)
  /-- REGION_RECEIPT (R380): A region's receipt reaches the issuer. -/
  | regionReceipt (name sent : Nat)
  /-- REGION_RETURN (R380): A region's return restores or updates the issuer's registers and PC. -/
  | regionReturn (name sent : Nat) (r : RegionEnd)
  /-- REGION_RETURN_TIMEOUT (R380): No return within 65,536 ns ends the region with RETLOST. -/
  | regionReturnTimeout (name sent : Nat)
  /-- PERMX_PAIR (R383): A PERMX pairs with its partner's and starts sending elements. -/
  | permxPair (id : Nat)
  /-- PERMX_ELEMENT (R383): An exchanged element arrives and is written after its outgoing read. -/
  | permxElement (id index : Nat) (val : List Byte)
  /-- BUNDLE_PREPARE (R387): Phase 1 stages a pending version of a bundle line at its home. -/
  | bundlePrepare (writer slot : Nat)
  /-- BUNDLE_PHASE2 (R387): Phase 2 makes the pending version current at a home and retains the previous. -/
  | bundlePhase2 (writer slot : Nat)
  /-- BUNDLE_ACK (R387): A home's phase answer returns; after all, word 0 is written and BCLOSE fills d. -/
  | bundleAck (writer slot phase : Nat) (ok : Bool)
  /-- BLD_AT_HOME (R389): A BLD's view is applied at the line's home and answered. -/
  | bldAtHome (r : BldReq)
  /-- TILE_TRANSFER_COMPLETE (R287): A TLOAD or TSTORE's last slice finishes and the tile becomes READY. -/
  | tileTransferComplete (core tile : Nat)
  /-- DRAIN_COMPLETE (R294): An ADRAIN's last bank read is made and the local tile becomes READY. -/
  | drainComplete (core bank : Nat)
  /-- TILE_OP_COMPLETE (R302): A synchronous tile instruction writes its last result and retires. -/
  | tileOpComplete (core : Nat)
  /-- K_GROUP_DONE (R290): A k-group of a product completes, possibly raising TILE_NAN. -/
  | kGroupDone (core : Nat)
  /-- GANG_PRODUCT_START (R293): Every live gang member has issued its GMMA and the product starts. -/
  | gangProductStart (gid ordinal : Nat)
  /-- TILE_COMMAND_ARRIVAL (R300): A remote tile command reaches the target, which accepts or refuses it. -/
  | tileCommandArrival (c : TCommand)
  /-- TILE_COMMAND_ANSWER (R300): The target's answer to a TCMD reaches the sender. -/
  | tileCommandAnswer (c : TCommand) (accepted : Bool)
  /-- REVERSE_RECORD (R328): REVERSE finishes one record boundary, applying its adjoint. -/
  | reverseRecord (name : Nat)
  /-- SPILL_ACK (R322): A tape spill write is acknowledged; after the last, TSPILL retires. -/
  | spillAck (name : Nat) (ok : Bool)
  /-- SPE_TREE_ENTRY (R356): An SPE instruction with its reads done enters a tree. -/
  | speTreeEntry (fold name : Nat)
  /-- SPE_RETIRE (R354): An SPE instruction completes its writes and returns the registers. -/
  | speRetire (fold name : Nat)
  /-- NOT_AN_INSTRUCTION (R59): A word with an unassigned major, function code beyond its list, or reserved bits set is issued and raises ILLEGAL. -/
  | notAnInstruction (w : IWord)
  /-- VECTOR_LOAD_COMPLETE (R268): The last enabled lane of a vector load arrives and vd is written in one step, or the lowest faulting lane traps. -/
  | vectorLoadComplete (name : Nat)
  /-- START_ANSWER (R154): The target's answer to a START reaches the issuer and fills the d of SPAWN or GANG. -/
  | startAnswer (m : StartMsg) (result : Word)
  /-- PEER_ANSWER (R374): The group home's answer to PEER returns and fills d with the old entry and UNNAMED bit. -/
  | peerAnswer (dest : FillTo) (val : Word)
  /-- KEY_INSTALLED (R375): The bothy finishes installing a key, or the switch's marker flit is sent, and LKEY's d is filled. -/
  | keyInstalled (dest : FillTo) (val : Word)
  /-- LINK_TRAINING (R376): An off-package link is trained and comes up, with its hop latency measured. -/
  | linkTraining (link peer hop : Nat)
  /-- LINK_DOWN_24_HOURS (R400): A link has been down for 24 hours while its peer was up, and REPL is set. -/
  | linkDown24Hours (link : Nat)
  /-- POWER_FAILURE (R404): The supply is lost without an orderly entry to OFF, and counts since the last save are lost. -/
  | powerFailure (pkg : Nat)
  /-- MEASUREMENT_REQUEST (R396): At the control node's request the firmware extends one of measurement registers 3 to 7. -/
  | measurementRequest (pkg register : Nat) (item : List Byte)
  deriving DecidableEq, Repr

/-- The step that an event in flight stands for. -/
noncomputable def Ev.toInstr : Ev → Instr
  | .rotationBoundary core => .rotationBoundary core
  | .quantumExpiry core slot => .quantumExpiry core slot
  | .budgetExhausted core => .budgetExhausted core
  | .urgentWindowEnd core => .urgentWindowEnd core
  | .fill dest val => .fill dest val
  | .xwrDelivery x => .xwrDelivery x
  | .xwrWrite x => .xwrWrite x
  | .storeTranslate core id => .storeTranslate core id
  | .translatorLookupDone x => .translatorLookupDone x
  | .pageWalkRead x lvl entry => .pageWalkRead x lvl entry
  | .pageWalkEnd x r => .pageWalkEnd x r
  | .storeAck core id => .storeAck core id
  | .storeNak core id cause => .storeNak core id cause
  | .sfqCopy name => .sfqCopy name
  | .remoteAccessArrival x => .remoteAccessArrival x
  | .amoAtHome x => .amoAtHome x
  | .slotRegisterWrite core slot reg val => .slotRegisterWrite core slot reg val
  | .tinvWrite core name val => .tinvWrite core name val
  | .csrWindowWrite core csr val => .csrWindowWrite core csr val
  | .invalidationArrival core v => .invalidationArrival core v
  | .invalidationComplete core v => .invalidationComplete core v
  | .frdAnswer f => .frdAnswer f
  | .launchRecord pkg src words => .launchRecord pkg src words
  | .launchTakeEffect launch => .launchTakeEffect launch
  | .launchHeader launch core => .launchHeader launch core
  | .start m => .start m
  | .nameLookup q atHolder => .nameLookup q atHolder
  | .nameLookupAnswer q result => .nameLookupAnswer q result
  | .killArrival gid core => .killArrival gid core
  | .groupRelease gid => .groupRelease gid
  | .migrationArrival m => .migrationArrival m
  | .migrationAnswer m code => .migrationAnswer m code
  | .locationUpdate key loc => .locationUpdate key loc
  | .forwardExpiry key => .forwardExpiry key
  | .quiesceStill dest => .quiesceStill dest
  | .barrierArrival gid name => .barrierArrival gid name
  | .exitDrainComplete name => .exitDrainComplete name
  | .notificationDelivery name => .notificationDelivery name
  | .sleepExpiry name => .sleepExpiry name
  | .detectionWave launch node => .detectionWave launch node
  | .detectionAnswer launch node => .detectionAnswer launch node
  | .offerArrival dst m => .offerArrival dst m
  | .offerResend dst m => .offerResend dst m
  | .receiveAnnounce dst => .receiveAnnounce dst
  | .transferDataWritten x => .transferDataWritten x
  | .sendAck m peer => .sendAck m peer
  | .messageEnqueue dst m => .messageEnqueue dst m
  | .creditReturn dst => .creditReturn dst
  | .wakeup dst => .wakeup dst
  | .peerDeleted dst => .peerDeleted dst
  | .chbindMove v => .chbindMove v
  | .endpointInstall v => .endpointInstall v
  | .chbindAck v code => .chbindAck v code
  | .trecvExpiry name => .trecvExpiry name
  | .transferComplete t => .transferComplete t
  | .streamElement name port => .streamElement name port
  | .joinRecorded dest core tag key join => .joinRecorded dest core tag key join
  | .mcastDelivery key m => .mcastDelivery key m
  | .packetStomp die dst m => .packetStomp die dst m
  | .ackTimeout dst m => .ackTimeout dst m
  | .serverAnswer r => .serverAnswer r
  | .droverRequest drover r => .droverRequest drover r
  | .slicePass drover x => .slicePass drover x
  | .droverAccessEnd drover x => .droverAccessEnd drover x
  | .droverReplyRelease drover => .droverReplyRelease drover
  | .dispenserQuery disp q => .dispenserQuery disp q
  | .dqryAnswer q item => .dqryAnswer q item
  | .wfwServe name item ordinal arg => .wfwServe name item ordinal arg
  | .deadlineArm fold => .deadlineArm fold
  | .deadlineFire fold d => .deadlineFire fold d
  | .probeStart name episode => .probeStart name episode
  | .probeArrival name path => .probeArrival name path
  | .confirmationArrival path index => .confirmationArrival path index
  | .reportArrival gid report => .reportArrival gid report
  | .tetherMessageFrame pkg words => .tetherMessageFrame pkg words
  | .tetherStoreFrame pkg words => .tetherStoreFrame pkg words
  | .tetherLoadFrame pkg words => .tetherLoadFrame pkg words
  | .tetherRefusedFrame pkg words => .tetherRefusedFrame pkg words
  | .tetherRetry pkg => .tetherRetry pkg
  | .tetherTraining pkg seed ciphertext => .tetherTraining pkg seed ciphertext
  | .attest q nonce => .attest q nonce
  | .health q => .health q
  | .healthReplClear q => .healthReplClear q
  | .events q => .events q
  | .counters q => .counters q
  | .snapshot q => .snapshot q
  | .keyput q index count sealed => .keyput q index count sealed
  | .feature q mask => .feature q mask
  | .fenceFold q fold => .fenceFold q fold
  | .image q cores img signature => .image q cores img signature
  | .power q state => .power q state
  | .killgroup q gid launchId => .killgroup q gid launchId
  | .imagekey q key signature => .imagekey q key signature
  | .powerOn pkg firmware signature failedFolds => .powerOn pkg firmware signature failedFolds
  | .bootComplete pkg => .bootComplete pkg
  | .packageReset pkg => .packageReset pkg
  | .i3cPowerState pkg state => .i3cPowerState pkg state
  | .powerCap pkg => .powerCap pkg
  | .throttleEnter die junction => .throttleEnter die junction
  | .throttleExit die junction => .throttleExit die junction
  | .hardLimit die junction => .hardLimit die junction
  | .patrolScrub addr corrected uncorrected => .patrolScrub addr corrected uncorrected
  | .snapshotLatch pkg => .snapshotLatch pkg
  | .lifeCounterSave pkg => .lifeCounterSave pkg
  | .flitArrival link f => .flitArrival link f
  | .linkAckTimeout link => .linkAckTimeout link
  | .gatewayPacketArrival p => .gatewayPacketArrival p
  | .linkLostTimeout x => .linkLostTimeout x
  | .regionArrival unit r => .regionArrival unit r
  | .regionAttempt unit r attempt => .regionAttempt unit r attempt
  | .regionReceipt name sent => .regionReceipt name sent
  | .regionReturn name sent r => .regionReturn name sent r
  | .regionReturnTimeout name sent => .regionReturnTimeout name sent
  | .permxPair id => .permxPair id
  | .permxElement id index val => .permxElement id index val
  | .bundlePrepare writer slot => .bundlePrepare writer slot
  | .bundlePhase2 writer slot => .bundlePhase2 writer slot
  | .bundleAck writer slot phase ok => .bundleAck writer slot phase ok
  | .bldAtHome r => .bldAtHome r
  | .tileTransferComplete core tile => .tileTransferComplete core tile
  | .drainComplete core bank => .drainComplete core bank
  | .tileOpComplete core => .tileOpComplete core
  | .kGroupDone core => .kGroupDone core
  | .gangProductStart gid ordinal => .gangProductStart gid ordinal
  | .tileCommandArrival c => .tileCommandArrival c
  | .tileCommandAnswer c accepted => .tileCommandAnswer c accepted
  | .reverseRecord name => .reverseRecord name
  | .spillAck name ok => .spillAck name ok
  | .speTreeEntry fold name => .speTreeEntry fold name
  | .speRetire fold name => .speRetire fold name
  | .notAnInstruction w => .notAnInstruction w
  | .vectorLoadComplete name => .vectorLoadComplete name
  | .startAnswer m result => .startAnswer m result
  | .peerAnswer dest val => .peerAnswer dest val
  | .keyInstalled dest val => .keyInstalled dest val
  | .linkTraining link peer hop => .linkTraining link peer hop
  | .linkDown24Hours link => .linkDown24Hours link
  | .powerFailure pkg => .powerFailure pkg
  | .measurementRequest pkg register item => .measurementRequest pkg register item

end Sys2Proof
end

