-- ==== Sys2Proof/Machine/State.lean ====
section
/-! DEFINITION. The state of an installation of OZ4-384 packages, as plain data, and the state right after
reset. Numbers name things throughout: a core by its global core identifier (04 R71), a fold by that number
divided by 8, a die by it divided by 2,048, a package by it divided by 8,192; a process record by
core * 256 + record, a slot by core * 8 + slot, an endpoint entry by core * 512 + index, a tile by
core * 32 + tile, an accumulator bank by core * 2 + bank. -/

namespace Sys2Proof.Machine

/-- Why the model itself stops. -/
inductive Fault where
  /-- Raised when an instruction word is executed while no process is issuing, which `step` never does: `State.cur`
  names no live process. Safe: no run reaches it. -/
  | noProcess
  deriving DecidableEq, Repr

/-- Why the model gives an instruction no meaning. -/
inductive Refusal where
  /-- Raised by the arm of an instruction whose meaning is not written yet. Safe: nothing is claimed of it. -/
  | notModelled (mnemonic : String)
  deriving DecidableEq, Repr

/-- A register's value with its full/empty bit, the pending fill and its tag (05 R103, R104; 06 Table 6.1), and the
number of producers still outstanding for it (06 R139: at most three). -/
structure RegCell where
  val : Word := 0
  full : Bool := true
  pend : Bool := false
  tag : BitVec 2 := 0
  out : Nat := 0
  deriving DecidableEq, Repr

/-- The states of Table 6.3, but for FREE, which is the absence of a record. -/
inductive PState where
  | ready | resident | parked | blocked | sleeping | suspended | trapped | migrating
  deriving DecidableEq, Repr

/-- What a process that does not issue waits for (06 Table 6.1 KIND, with the waits that KIND does not record). -/
inductive Wait where
  | none
  | reg (n : Nat)
  | cell (addr : Nat)
  | chan (handle : Nat)
  | alt
  | barrier (phase : Nat)
  | wfw (handle : Nat)
  | trapw
  | sleep
  | exitDrain
  /-- A load or atomic whose translation is under way (04 R81). -/
  | xlat
  /-- A load, atomic or vector load whose target has not answered yet (05 R132, log 9). -/
  | access
  /-- A future read awaiting the fold's answer (05 R123). -/
  | frd
  /-- An XWR on its way or waiting at its target (05 R107). -/
  | xwr
  /-- FENCE, DRAIN.S, ISYNC, an AMO with .REL (04 R86, R89, R96, R97). -/
  | stores
  /-- A load whose value an AMO with .ACQ or a FENCE .acq waits for (04 R96, R97). -/
  | loads
  /-- A tile, tape, sum-product or gateway instruction that its engine has not ended. -/
  | engine
  /-- A wait that is tried again at the next rotation boundary of the core. -/
  | boundary
  deriving DecidableEq, Repr

/-- What the streamer has read ahead for a read stream (07 R215): an element, or the cause and address of its fault. -/
inductive StreamEl where
  | val (v : Word)
  | bad (cause : Nat) (va : Word)
  deriving DecidableEq, Repr

/-- How a stream port moves through its pattern (07 R214, Table 7.10): base, element size, direction, counts, strides; elements
asked for, taken, and read ahead. -/
structure Stream where
  base : Word := 0
  size : Nat := 8
  write : Bool := false
  c0 : Nat := 1
  c1 : Nat := 1
  c2 : Nat := 1
  s0 : Word := 0
  s1 : Word := 0
  s2 : Word := 0
  issued : Nat := 0
  taken : Nat := 0
  buffer : List StreamEl := []
  deriving DecidableEq, Repr

/-- A port alias q0 to q3 (05 R109, R110; 06 Table 6.1 PORTk; 07 R214): bound to a channel (kind 0) or ring queue
(kind 1, with the handles under which its process holds ends of the queue's channel, 07 R196), or in stream mode; `failed` marks a push that could not be delivered; `held` are pushes behind a
long-latency producer that names the port, each with its producer's tag, `none` until the value arrives. -/
structure Port where
  bound : Bool := false
  kind : Nat := 0
  num : Nat := 0
  ends : List Nat := []
  failed : Bool := false
  stream : Option Stream := none
  held : List (BitVec 2 × Option Word) := []
  deriving DecidableEq, Repr

/-- An instruction that has issued and not retired: what its retirement consumes (05 R51), the ports it pops, and
where its result goes. -/
structure Hold where
  consume : BitVec 16 := 0
  pops : List Nat := []
  dst : Option Reg := none
  issuedAt : Nat := 0
  arg : Nat := 0
  arg2 : Nat := 0
  words : List Word := []
  /-- The cell of `dst` before the instruction emptied it: a precise trap puts it back (05 R132). -/
  old : Option RegCell := none
  /-- The base of an LDM or STM, read once at issue (05 R120). -/
  base : Option Word := none
  deriving DecidableEq, Repr

/-- A record of the store fault queue (04 Table 4.6). -/
structure SfqRec where
  name : Nat
  va : Nat
  data : Word
  pc : BitVec 16
  cause : Nat
  size : Nat
  time : Nat
  deriving DecidableEq, Repr

/-- The region checkpoint in the extension (12 Table 12.9), with whether the receipt has arrived. -/
structure RegionCkpt where
  word : IWord
  pc : BitVec 16
  sent : Nat
  target : Nat
  regs : List Word
  receipt : Bool := false
  /-- The word after RDONE. -/
  next : BitVec 16 := 0
  deriving DecidableEq, Repr

/-- The macro-operation sequencer's state of an interrupted tile instruction (09 R303, Table 9.17a). -/
structure SeqState where
  word : IWord
  pc : BitVec 16
  step : Nat
  tfmt : Word
  tsca : Word
  tscb : Word
  genA : Nat
  genB : Nat
  genI : Nat
  /-- The element of an elementwise instruction that turned into a NaN first: row, column, k (09 R301); and, for a gang product, the
  rows of A that its source has sent (09 R293). -/
  nan : Option (Nat × Nat × Nat) := none
  rows : List (List Byte) := []
  rowScales : List (List Byte) := []
  rowCols : Nat := 0
  rowFmt : Nat := 0
  /-- Of a gang product (09 R293): its ordinal, its bank and what that held before it, the length of its tape record (10 R315); and whether the gang has
  lost a member since. -/
  ordinal : Option Nat := none
  bank : Nat := 0
  before : List Byte := []
  taped : Nat := 0
  failed : Bool := false
  deriving DecidableEq, Repr

/-- A register set borrowed with SLB, and the slot it holds while its process is resident (05 R108). -/
structure Borrow where
  slot : Option Nat
  regs : Vector Word 16
  deriving DecidableEq, Repr

/-- An enabled guard of an ALT (07 Table 7.8): its index, kind, handle and deadline. -/
structure Guard where
  ix : Nat
  kind : Nat
  handle : Nat
  time : Nat
  deriving DecidableEq, Repr

/-- An ALT that waits (07 R207, R208): its enabled guards, their number in the list, and the index last chosen, if fair. -/
structure AltState where
  guards : List Guard
  count : Nat
  last : Option Nat
  deriving DecidableEq, Repr

/-- A process (06 Table 6.1, Table 6.2d). A process that is resident keeps its registers in its slot; `image` is the
stale copy that its record shows meanwhile (06 R138). -/
structure Proc where
  name : Nat
  core : Nat
  idx : Nat
  st : PState := .ready
  prio : Nat := 0
  level : Nat := 0
  heavyBit : Bool := false
  slot : Nat := 0
  restart : Nat := 0
  vword : Nat := 0
  vrepn : Nat := 0
  vact : Bool := false
  /-- An open VREP frame is to be checked when the process next issues, since it trapped or left its slot (09 R272). -/
  vcheck : Bool := false
  persist : Bool := false
  pc : BitVec 16 := 0
  regs : Vector RegCell 16 := Vector.replicate 16 {}
  ports : Vector Port 4 := Vector.replicate 4 {}
  ecause : BitVec 8 := 0
  epc : BitVec 16 := 0
  eval : Word := 0
  utv : Word := 0
  rmode : Nat := 0
  fflags : BitVec 5 := 0
  srseed : BitVec 32 := 0
  onceCnt : Nat := 0
  launch : Nat := 0
  gang : Option Nat := none
  gid : Nat := 0
  wait : Wait := .none
  latch : Bool := false
  prev : PState := .ready
  /-- The state a process in transit had before its move (06 R166). -/
  mprev : PState := .ready
  deadline : Nat := 0
  town : BitVec 32 := 0
  extix : Nat := 0
  vcount : Nat := 0
  vbase : Nat := 0
  vheld : Bool := false
  tfmt : Word := 0
  tsca : Word := 0
  tscb : Word := 0
  tnanc : Word := 0
  taped : Word := 0
  masks : Vector Word 8 := Vector.replicate 8 0
  /-- The stale copy of +0x00, +0x08 and +0x10 to +0x88 of the record. -/
  image : List Word := []
  hold : Option Hold := none
  /-- The registers whose fills the instruction in progress has called for (03 R51). -/
  made : BitVec 16 := 0
  /-- The cycle in which the last instruction retires, the registers it writes then and those it empties (05 R101, Table 5.2). -/
  doneAt : Nat := 0
  wrote : BitVec 16 := 0
  emptied : BitVec 16 := 0
  /-- Prefix payloads of the group in progress, oldest first (03 R54), and whether a ONCE opened it (R55); `pc` stays at the
  group's first word (R53). -/
  pfx : List (BitVec 16) := []
  onceOn : Bool := false
  /-- ONCE instructions this member has issued and waits for: count, register, tag (03 R55). -/
  onceWait : List (Nat × Reg × BitVec 2) := []
  /-- Posts that wait for this member: count and value (03 R55). -/
  posts : List (Nat × Word) := []
  /-- Store fault records moved to the extension (04 R85), and whether the process stopped for a store fault. -/
  sfq : List SfqRec := []
  stopped : Bool := false
  /-- Loads and atomics whose values have not returned: register and tag (04 R96). -/
  loads : List (Reg × BitVec 2) := []
  suspend : List FillTo := []
  migrate : Option Mig := none
  borrow : Option Borrow := none
  region : Option RegionCkpt := none
  vrep : List IWord := []
  vrepWord : IWord := 0
  seq : Option SeqState := none
  gmma : Nat := 0
  /-- Tapes this process has open (10 R309), which make it heavy (06 R143). -/
  tapesOpen : Nat := 0
  alt : Option AltState := none
  episode : Nat := 0
  /-- The episode in which its shepherd has made a deadlock report (08 R250). -/
  reported : Option Nat := none
  /-- The cycle from which the delay of the next probe runs: that of the episode's start or of its last probe (08 R247). -/
  probeFrom : Nat := 0
  blockedAt : Nat := 0
  /-- The cycle since which the process has been RESIDENT without interruption, and whether it is expired or urgent (06 R147, R149). -/
  residence : Nat := 0
  expired : Bool := false
  urgent : Bool := false
  /-- The first and last fold of the rectangle of the QUIESCE that suspends it, which its QUIESCE.R resumes (06 R165). -/
  quiesced : Option (Nat × Nat) := none
  /-- The phase for which an arrival of this process is on its way to the group's home (06 R169). -/
  arriving : Option Nat := none
  /-- The owner waits for its stores at EXIT with this status (06 R160). -/
  exiting : Option Word := none
  deriving DecidableEq, Repr

/-- One slot of a core (05 R100): the record that holds it, the process whose borrowed set it holds (05 R108), the cycle
from which it may issue, and the cycle until which a swap into it runs (06 R147). -/
structure SlotS where
  occ : Option Nat := none
  lent : Option Nat := none
  next : Nat := 0
  busy : Nat := 0
  deriving DecidableEq, Repr

/-- A store in a core's store buffer (04 R83): posted by a process, with what its translation needs; `pa` once it is
translated, `full` while it waits for room in the SFQ (R84). -/
structure SbEntry where
  id : Nat
  name : Nat
  key : Nat
  va : Nat
  size : Nat
  data : Word
  pc : BitVec 16
  level : Nat
  gid : Nat
  asid : Nat
  root : Nat
  pa : Option Nat := none
  done : Bool := false
  stuck : Option Nat := none
  /-- Stores of one vector store share a number; 0 for any other (09 R269). -/
  batch : Nat := 0
  /-- A push of a write-stream port, which no bundle stages (12 R386). -/
  push : Bool := false
  deriving DecidableEq, Repr

/-- The instructions of majors 0x30 to 0x32 that the tile side runs (09 Table 9.13), with tiles and banks by number. -/
inductive TOp where
  | tload (t : Nat)
  | tstore (t : Nat)
  | tcvt (d a : Nat)
  /-- MMA, MMAG (with its index tile), CMMA, GMMA. -/
  | mma (k a b : Nat)
  | mmag (k a b i : Nat)
  | cmma (k a b : Nat)
  | gmma (k a b : Nat)
  | azero (k : Nat)
  /-- ADRAIN without .R, and whether it releases the bank. -/
  | adrain (d k : Nat) (rel : Bool)
  | tadd (d a b : Nat)
  | tmul (d a b : Nat)
  | tact (d a sh fn : Nat)
  | tsum (d a : Nat)
  | ttrn (d a : Nat)
  deriving DecidableEq, Repr

/-- The operand bytes that a product latches before its first k-group (09 R302): rows, and the scale bytes of each row. -/
structure Latch where
  fmt : Nat := 0
  cols : Nat := 0
  rows : List (List Byte) := []
  scales : List (List Byte) := []
  deriving DecidableEq, Repr

/-- The tile instruction that the tile side of a core runs (09 R284): its process, whether it came by TCMD, its word and place, its
options, the sampled registers, the next group and their number, the flags raised, the cycle in which its next group ends, what it
has latched, and its ordinal in its gang. -/
structure TRun where
  name : Nat
  remote : Bool := false
  op : TOp
  ftz : Bool := false
  daz : Bool := false
  word : Word := 0
  pc : BitVec 16 := 0
  began : Nat
  /-- The group with which this run began, after an interruption (09 R303). -/
  first : Nat := 0
  step : Nat := 0
  total : Nat := 1
  due : Nat := 0
  tfmt : Word := 0
  tsca : Word := 0
  tscb : Word := 0
  tnanc : Word := 0
  rmode : Nat := 0
  flags : BitVec 5 := 0
  a : Latch := {}
  b : Latch := {}
  ordinal : Option Nat := none
  /-- Gang product: every member has issued it and it runs (09 R293). -/
  started : Bool := true
  /-- The length of the tape record appended for it, removed if it ends with ENGINE (10 R315). -/
  taped : Nat := 0
  /-- The element that turned into a NaN first: row, column, k (09 R301). -/
  nan : Option (Nat × Nat × Nat) := none
  /-- What a gang product's bank held before it (09 R293). -/
  before : List Byte := []
  deriving DecidableEq, Repr

/-- The drain of a bank (09 R294, R295): its process, the tile and its layout, the options, the accumulator format, the cycle of its
last read, and, with .R, the end, the transfer identifier, the target and its offset. -/
structure Drain where
  name : Nat
  tile : Nat
  layout : Word
  ftz : Bool
  rel : Bool
  acc : Nat
  due : Nat
  gid : Nat := 0
  level : Nat := 0
  remote : Option (Nat × Nat × Nat × Nat × Bool) := none
  deriving DecidableEq, Repr

/-- An accumulator bank (09 R281): its owner's name, 0 for none, and the drain under way. -/
structure Bank where
  owner : Nat := 0
  drain : Option Drain := none
  deriving DecidableEq, Repr

/-- The state of a core that belongs to no one process (05, 06). Every register field has the reset value the manual
gives in its table. -/
structure CoreS where
  divBusy : Nat := 0
  fdivBusy : Nat := 0
  vdivBusy : Nat := 0
  /-- The four pens, records in order (06 R147), and their credits. -/
  pens : Vector (List Nat) 4 := Vector.replicate 4 []
  credits : Vector Nat 4 := Vector.replicate 4 0
  penw : Word := 0x1001020408
  urgb : Word := 0x400400
  budget : Nat := 1024
  windowOn : Bool := false
  wins : Vector Word 4 := Vector.replicate 4 0
  sb : List SbEntry := []
  sbNext : Nat := 1
  sfq : List SfqRec := []
  tlb : List Tlb := []
  /-- Translations a lookup is under way for: process and virtual page (04 R81). -/
  asking : List (Nat × Nat) := []
  invals : List Inval := []
  extSize : Nat := 0
  /-- Records and extensions reserved for members of gangs being formed (06 R155) and for roots of launches taken into effect (01 R22). -/
  reserved : Nat := 0
  /-- Multicast match table: tag and endpoint index (07 R216). -/
  matchTab : List (Nat × Nat) := []
  commands : List TCommand := []
  run : Option TRun := none
  banks : Vector Bank 2 := Vector.replicate 2 {}
  reports : List (List Word) := []
  drops : Nat := 0
  deriving DecidableEq, Repr

/-- One core's entry for a launch (06 R174, R177). -/
structure LaunchEntry where
  launch : Nat
  live : Nat := 0
  sent : Nat := 0
  taken : Nat := 0
  err : Word := 0
  count : Nat := 0
  node : Nat := 0
  deriving DecidableEq, Repr

/-- The sums a detection wave carries (06 R177). -/
structure Sums where
  sent : Nat := 0
  taken : Nat := 0
  count : Nat := 0
  err : Word := 0
  deriving DecidableEq, Repr

/-- A launch that the bothy has taken into effect (06 R171 to R177): its source, identifier, record words, placed
cores by node index, base and count of its GIDs, address space and table, rights, and the wave under way. -/
structure Launch where
  src : Source
  pkg : Nat
  launchId : Word
  words : List Word
  nodes : List Nat := []
  gbase : Nat := 0
  gcount : Nat := 0
  asid : Nat := 0
  root : Nat := 0
  rights : Bool := false
  started : Bool := false
  /-- Nodes the wave under way has reached, and the answers of nodes (06 R177). -/
  reached : List Nat := []
  answered : List (Nat × Sums) := []
  last : Option Sums := none
  deriving DecidableEq, Repr

/-- A group's home entry (06 R168, R169) with its peer table (12 R370, R371). -/
structure Group where
  home : Nat
  supervisor : Nat := 0
  launch : Nat := 0
  live : List Nat := []
  pending : Nat := 0
  phase : Nat := 0
  arrived : List Nat := []
  /-- Expectations of the current phase: owner, endpoint key, completions still needed. -/
  expects : List (Nat × Nat × Nat) := []
  peers : List Word := []
  failBits : Word := 0
  unnamed : Bool := false
  killed : Option (FillTo × Nat) := none
  hostKill : Option BReq := none
  /-- STARTs of a gang still to be answered, and whether one met a kill (06 R155). -/
  gang : Nat := 0
  /-- Members of the gang that the group is, 0 for another group (06 R155). -/
  gangSize : Nat := 0
  gangFailed : Bool := false
  /-- ONCE counts for which a member has been elected: count and member name (03 R55). -/
  elected : List (Nat × Nat) := []
  /-- GMMA arrivals: ordinal, members (09 R293). -/
  gmma : List (Nat × Nat) := []
  deriving DecidableEq, Repr

/-- A ring queue of a fold (07 R185): where its slots lie in the channel buffer pool, their size and number, the next slot
written, and the receive end it backs. -/
structure Ring where
  base : Nat
  slot : Nat
  cap : Nat
  next : Nat := 0
  key : Nat
  deriving DecidableEq, Repr

/-- A sum-product instruction that a process has handed to its fold's engine (11 R352): its issuer, the function with `zero` for SPLD.Z,
the operand words, FTZ and DAZ, the cycle in which its phase begins, the modes it sampled, its descriptor, the reads still to be granted (place in
its read order and entry) and those granted, the places whose data is poisoned, the words still to be written or added, and what it returns. -/
structure SpeJob where
  name : Nat
  core : Nat
  fn : Nat
  zero : Bool := false
  opA : Word := 0
  opB : Word := 0
  ftz : Bool := false
  daz : Bool := false
  /-- 0 begins, 1 reads entries, 2 enters a tree, 3 writes or adds, 4 writes the scratchpad, 5 retires. -/
  phase : Nat := 0
  begin_ : Nat
  modes : BitVec 16 := 0
  desc : List Word := []
  todo : List (Nat × Nat) := []
  got : List (Nat × Word) := []
  hurt : List Nat := []
  out : List (Nat × Word) := []
  result : Word := 0
  flags : BitVec 5 := 0
  bits : BitVec 3 := 0
  touched : Bool := false
  deriving DecidableEq, Repr

/-- The sum-product engine of a fold (11 R335, R351): bank modes, the status bits NVIN, UNF and OVF, and the instructions it holds,
oldest first. Entries and weights stand in memory. -/
structure SpeS where
  modes : BitVec 16 := 0
  bits : BitVec 3 := 0
  jobs : List SpeJob := []
  /-- The grant order started at c0 in this cycle (11 R335, R355). -/
  order0 : Nat := 0
  /-- Weights written in a cycle as they stood at its start, and how many instructions have entered trees in a cycle (11 R356). -/
  freshAt : Nat := 0
  fresh : List (Nat × Word × Bool) := []
  enteredAt : Nat := 0
  entered : Nat := 0
  /-- The ports of each bank in use in a cycle; the accesses through the engine block window that wait for one, in their order of arrival; and those
  that a bank has granted (11 R355). -/
  portsAt : Nat := 0
  ports : List (Nat × Nat) := []
  waits : List (Nat × Ev) := []
  granted : List Ev := []
  deriving DecidableEq, Repr

/-- The states of an open tape (10 Table 10.10). -/
inductive TapeSt where
  | recording | paused | reversing
  deriving DecidableEq, Repr

/-- An entry of the tape table (10 R309 to R311, R321 to R323): the descriptor's copy and offset, the three counters, the state, and
a walk's target, position and count. `producers` gives the records that wrote tiles or, at 32 + k, bank k, the newest first:
their sequence numbers and whether they can be rerun (10 R314). -/
structure TapeS where
  owner : Nat
  off : Nat
  desc : List Word
  ended : Nat := 0
  spilled : Nat := 0
  nextSeq : Nat := 1
  lastLen : Nat := 0
  st : TapeSt := .recording
  prev : TapeSt := .recording
  target : Nat := 0
  cur : Nat := 0
  count : Nat := 0
  /-- The log offset of record CUR. -/
  pos : Nat := 0
  failed : Word := 0
  flags : BitVec 5 := 0
  producers : List (Nat × Nat × Bool) := []
  /-- The marks on the tape: sequence number and END after it. -/
  marks : List (Nat × Nat) := []
  /-- The gang product at whose record a walk waits for the gang's other members (10 R331). -/
  atGang : Option Nat := none
  /-- The cycle of the walk's next event, and whether a record is under way until then (10 R329). -/
  due : Nat := 0
  under : Bool := false
  deriving DecidableEq, Repr

/-- A region in a slot of a landing unit (12 R379): the attempt under way; once its body has run, how it ended (index and cause, or
none), the registers, the buffered stores as address, size and value, oldest first, and the lines read; and whether a region has
committed a write to one of these since. -/
structure LandSlot where
  region : Region
  attempt : Nat := 1
  ran : Bool := false
  fault : Option (Nat × Nat) := none
  regs : List Word := []
  stores : List (Nat × Nat × Nat) := []
  lines : List Nat := []
  stale : Bool := false
  deriving DecidableEq, Repr

/-- A landing unit (12 R379): its four slots and its queue of eight. -/
structure Landing where
  slots : List LandSlot := []
  queue : List Region := []
  deriving DecidableEq, Repr

/-- A fold's shared state: its translator (04 R81), future wait table (05 R123), flag union (05 Table 5.16), timer
settings (08 Table 8.10), fence mark (13 R400). -/
structure FoldS where
  trans : Tab (List Tlb) := []
  walks : List Xlat := []
  cellWait : List (Nat × Nat) := []
  flagSticky : BitVec 5 := 0
  flagNow : BitVec 5 := 0
  dlkOff : Bool := false
  dlkDelay : Nat := 1000000
  fenced : Bool := false
  timers : List Deadline := []
  timerWait : List Deadline := []
  spe : SpeS := {}
  /-- The tape table: at most 16 open tapes (10 R309), and who uses the engine for REVERSE or TSPILL, in order of arrival (10
  R332). -/
  tapes : List TapeS := []
  tapeUse : List Nat := []
  /-- The ring queues in use (07 R185). -/
  rings : Tab Ring := []
  deriving DecidableEq, Repr

/-- The states of an endpoint (07 Table 7.2), but for FREE, which is the absence of an entry. -/
inductive EpSt where
  | opened | wait | rebind | forward | dead
  deriving DecidableEq, Repr

/-- The hardware peer of a server end (08 Table 8.1). -/
inductive Srv where
  | drover (n : Nat)
  | reply (n : Nat)
  | dispenser (n : Nat)
  | timer
  | host
  | bothy
  | reporter
  deriving DecidableEq, Repr

/-- A receiving instruction that waits on an end (07 R198, R201): the register it fills and the tag by which its completion is known,
its issue, where its bytes go, and the deadline of a TRECV with its .T. -/
structure Rx where
  reg : Reg := 0
  tag : BitVec 2 := 0
  at0 : Nat
  off : Nat := 0
  room : Nat := 0
  step : Nat := 0
  rowBytes : Nat := 0
  tile : Option Nat := none
  timed : Option (Nat × Bool) := none
  deriving DecidableEq, Repr

/-- An endpoint entry (07 Table 7.1), with the messages and offers it holds, the receive that waits, and where a moved end went. -/
structure Ep where
  owner : Nat
  handle : Nat
  launch : Nat := 0
  st : EpSt := .opened
  waitK : Nat := 0
  recv : Bool
  server : Option Srv := none
  deadline : Bool := false
  fail : Bool := false
  /-- PEND of a signal receive end, and the credits of a buffered send end. -/
  pend : Nat := 0
  typ : Word
  peer : EndLoc
  gen : Nat := 0
  rq : Option Nat := none
  issued : Nat := 0
  done : Nat := 0
  infl : Nat := 0
  /-- Rendezvous offers and signal sends held at a receive end, oldest first (07 R204). -/
  offers : List Msg := []
  /-- Buffered messages, oldest first (07 R202). -/
  queue : List Msg := []
  rx : Option Rx := none
  /-- Send end: a receive instruction of the peer has announced itself (07 R209). -/
  announced : Bool := false
  /-- Receive end: an ALT of the peer has reserved the receive that waits (07 R209). -/
  reserved : Bool := false
  /-- A moved end's new location (07 Table 7.2 FORWARD). -/
  fwd : Option EndLoc := none
  move : Option EndMove := none
  /-- A death held in REBIND, or until a buffered receive end is empty (07 Table 7.2). -/
  dying : Bool := false
  /-- Transfer identifiers not complete, oldest first (07 R212), and whether each is of a SENDA. -/
  ids : List (Nat × Bool) := []
  /-- The deadline armed on a timer end (08 R242), and the credits a server holds of this receive end (08 R234). -/
  armed : Option Nat := none
  hwCredits : Nat := 0
  /-- A host or bothy end: the number that it shares with the other end of its pair, and the messages that wait for a credit of it (08
  R244, R245). -/
  pair : Nat := 0
  outbox : List (List Byte) := []
  deriving DecidableEq, Repr

/-- A request that a drover holds (08 R228, R231): its slices still to be performed, and the reply it will make. -/
structure DrRec where
  id : Nat
  req : DrReq
  reply : Option Nat
  left : Nat
  code : Nat
  value : Nat
  /-- Its slices have begun: no earlier request of its end that meets its addresses is still held (08 R233). -/
  started : Bool := false
  deriving DecidableEq, Repr

/-- A drover (08 R228, R409): the requests it holds, those that wait for a place, those done whose replies wait for a credit, and the accesses that it
has or will have in progress: the cycles in which each reaches it, begins, and has its transfer end. -/
structure Drover where
  held : List DrRec := []
  waiting : List DrReq := []
  ready : List DrRec := []
  nextId : Nat := 1
  flow : List (Nat × Nat × Nat) := []
  deriving DecidableEq, Repr

/-- A work dispenser that is not FREE (08 R236 to R238): the launch that holds it, whether it is EXHAUSTED, the descriptor, the items
handed out, the next Morton index, and the cycle from which it may serve. -/
structure Disp where
  launch : Nat
  exhausted : Bool := false
  config : List Word
  n : Nat := 0
  z : Nat := 0
  next : Nat := 0
  queue : List (Nat × Nat × DispAsk) := []
  deriving DecidableEq, Repr

/-- The states of a tile (09 Table 9.9). -/
inductive TileSt where
  | empty | ready | filling | draining
  deriving DecidableEq, Repr

/-- An entry of a core's tile table (09 Table 9.7). -/
structure Tile where
  owner : Nat := 0
  layout : Word := 0
  check : Nat := 0
  adj : Nat := 0
  adjv : Bool := false
  base : Nat := 0
  scale : Nat := 0
  err : Bool := false
  errc : Nat := 0
  gen : Nat := 0
  st : TileSt := .empty
  /-- The transfer under way: the cycle in which it ends, whether it writes memory, and its pieces as physical address and length (09
  R285 to R287), with the process for which it runs: core, group, level. -/
  due : Nat := 0
  job : Option (Bool × List (Nat × Nat) × Nat × Nat × Nat) := none
  deriving DecidableEq, Repr

/-- A key slot of a link (12 R367): key and salt, the invocation counter, and for a receive slot the last CNT accepted. -/
structure KeySlot where
  key : List Byte
  salt : List Byte
  cnt : Nat := 0
  last : Option Nat := none
  deriving DecidableEq, Repr

/-- One off-package link of a package (12 R365 to R368, R376; Table 12.8). -/
structure Link where
  up : Bool := false
  peer : Nat := 0
  peerLink : Nat := 0
  hop : Nat := 0
  active : Nat := 0
  tx : Vector (Option KeySlot) 2 := Vector.replicate 2 none
  rx : Vector (Option KeySlot) 2 := Vector.replicate 2 none
  mark : Bool := false
  nextSeq : Nat := 0
  expected : Nat := 0
  /-- Flits sent and not acknowledged, oldest first, with the times each has been replayed and the payload before encryption; and
  payloads that wait, with plane and length. -/
  sent : List (Flit × Nat × List Byte) := []
  waiting : List (Bool × Nat × List Byte) := []
  replays : Nat := 0
  authFail : Nat := 0
  downs : Nat := 0
  lastAck : Nat := 0
  downAt : Nat := 0
  /-- An LKEY switch waits for its marker flit, or for its acknowledgement. -/
  switching : Option FillTo := none
  markSeq : Option Nat := none
  deriving DecidableEq, Repr

/-- A PERMX operation (12 R382, R383): its process, the end and identifier, the descriptor, the partner once paired, elements sent and
received, the outgoing values read, and whether it has failed. -/
structure Permx where
  owner : Nat
  core : Nat
  key : Nat
  tid : Nat
  gid : Nat
  level : Nat
  asid : Nat
  root : Nat
  launch : Nat
  desc : List Word
  partner : Option Nat := none
  left : Nat := 0
  failed : Bool := false
  done : Bool := false
  deriving DecidableEq, Repr

/-- A bundle that a process has open or is committing (12 R386, R387): its ID, the version read, the descriptor's address, the mask, the lines
as slot, address and shadow entry, the bytes staged; the commit: phase 0 open, 1 or 2, answers awaited, whether one failed; where BCLOSE's
answer goes; and the core whose die stages it, with the group of the writer. -/
structure Bundle where
  id : Nat
  version : Nat
  desc : Nat
  mask : Nat
  lines : List (Nat × Nat × Nat)
  staged : List (Nat × Byte) := []
  phase : Nat := 0
  left : Nat := 0
  failed : Bool := false
  prepared : List Nat := []
  dest : Option FillTo := none
  core : Nat
  gid : Nat
  deriving DecidableEq, Repr

/-- A record of the event log (13 Table 13.6). -/
structure EventRec where
  time : Nat
  pkg : Nat
  dropped : Nat := 0
  source : Nat
  code : Nat
  detail : Nat := 0
  extra : Nat := 0
  deriving DecidableEq, Repr

/-- The bothy of a package (13): power, boot, health, tether port, keys, measurements, event log, snapshots and life counters. -/
structure Pkg where
  power : Nat := 0
  /-- Firmware runs; boot is complete (13 R395). -/
  started : Bool := false
  booted : Bool := false
  /-- The feature word: every feature bit (12 R370), less those withheld. -/
  feature : Word := 0x3E00000000
  repl : Bool := false
  /-- A stack has shown more than one error in 2^20 reads in the present day of the scrubber: while it lasts, a cause of REPL remains (13 R400). -/
  replCause : Bool := false
  /-- Die and junction pairs at or above 100 degrees since their last fall below 95 (13 R399). -/
  hot : List (Nat × Nat) := []
  /-- The cycles in which CAP and throttling were last entered or counted (13 Table 13.5). -/
  capAt : Nat := 0
  throttleAt : Nat := 0
  stackErr : Nat := 0
  /-- Stomps found by the gateways of each die, by die of the package (12 Table 12.8). -/
  stomps : Tab Nat := []
  ue : Nat := 0
  portDown : Bool := false
  retries : Nat := 0
  /-- Frames that wait while the tether port is down, each with the send end whose credit it holds (08 R244, 13 R392). -/
  outbound : List (List Word × Option EndLoc) := []
  session : Option (List Byte) := none
  counts : List Nat := []
  keys : Tab (List Byte) := []
  imageKey : Option (List Byte) := none
  meas : List (List Byte) := List.replicate 8 (List.replicate 64 0)
  unmeasured : Nat := 0
  /-- What IMAGE last wrote into the ISTORE of a core (13 R395). -/
  images : Tab (List Byte) := []
  firmware : List Byte := []
  log : List EventRec := []
  dropped : Nat := 0
  snapAt : Option Nat := none
  latched : Nat := 0
  latchAt : Nat := 0
  ignored : Nat := 0
  /-- Life counters by number, and as they stand in non-volatile storage (13 R404). -/
  life : Tab Nat := []
  saved : Tab Nat := []
  onSince : Nat := 0
  /-- Launch records of which the first messages have arrived, by source (06 R173, 08 R245). -/
  parts : List (Source × List Byte) := []
  /-- Requests that wait in their channels, oldest first, as the bothy's location and the message (13 R393). -/
  asks : List (EndLoc × Msg) := []
  /-- Reads of the patrol scrubber and the uncorrected errors among them by HBM stack, since a cycle (13 R400, R401). -/
  scrubAt : Nat := 0
  scrubReads : Tab Nat := []
  scrubBad : Tab Nat := []
  /-- Launches that wait while the package is IDLE (13 Table 13.3). -/
  waits : List (Source × List Word) := []
  /-- What is to be answered from the oldest unanswered KILLGROUP on, in order, with the answer where there is one (13 R393). -/
  replies : List (BReq × Option (Nat × Nat × List Word)) := []
  deriving DecidableEq, Repr
/-- A state of the installation. -/
structure State where
  /-- The core clock cycle (00 R2); the global time counter GTC is five eighths of it. -/
  cycle : Nat := 0
  /-- Events in flight with the cycle in which each falls due, in order (log 4). -/
  agenda : List (Nat × Ev) := []
  /-- Cores whose selector has not acted yet in this cycle, in the order in which they will (log 4). -/
  turns : List Nat := []
  /-- The process whose instruction word is executing (log 4). -/
  cur : Option Nat := none
  /-- The process whose prefix group or captured word is to be continued before anything else happens (03 R53). -/
  group : Option Nat := none
  /-- The index of the next free value (log 6). -/
  free : Nat := 0
  /-- Memory: every byte that differs from what an unlisted byte reads as, addresses rising (log 1). -/
  mem : List Host.Cell := []
  /-- Future cells whose tag is full (05 R122), by address, rising. -/
  ftags : List Nat := []
  /-- Poisoned 64-bit words (13 R401), by address, rising. -/
  poison : List Nat := []
  /-- Packages of the installation. -/
  packages : List Nat := []
  /-- Live processes by core * 256 + record. -/
  procs : Tab Proc := []
  /-- The core where a process of a name lives, kept at its birth core (06 R158). -/
  dir : Tab Nat := []
  /-- Generations by core * 256 + record (06 R140). -/
  gens : Tab Nat := []
  cores : Tab CoreS := []
  slots : Tab SlotS := []
  folds : Tab FoldS := []
  /-- Launch tables by core * 16 + index (06 R174). -/
  ltab : Tab LaunchEntry := []
  launches : Tab Launch := []
  nextLaunch : Nat := 1
  groups : Tab Group := []
  /-- Supervisor queues by the supervisor's name: notifications, oldest first (06 R164). -/
  supq : Tab (List Word) := []
  /-- Notifications not yet in a queue, in the order of the traps: the supervisor's name, 0 for none, and the notification (06 R164). -/
  heldNotes : List (Nat × Word) := []
  /-- XWRs waiting at their targets (05 R107). -/
  xwrs : List Xwr := []
  /-- Long-latency results under ONCE whose posts are still to be made: name, register, tag, count (03 R55). -/
  onceDue : List (Nat × Reg × BitVec 2 × Nat) := []
  /-- Off-package links by package * 12 + link (12 R365 to R376). -/
  links : Tab Link := []
  /-- Frames sent to the host, oldest first: package, TYPE and words (13 R392). -/
  frames : List (Nat × Nat × List Word) := []
  /-- Regions under QUIESCE: the issuer's name, the folds, and the cycle since which they have been still (06 R165). -/
  quiet : List (Nat × List Nat × Nat) := []
  /-- Endpoint entries by core * 512 + index (07 Table 7.1). -/
  eps : Tab Ep := []
  /-- Drovers and dispensers by die * 64 + number and die * 16 + number (08). -/
  drovers : Tab Drover := []
  disps : Tab Disp := []
  /-- Tile tables by core * 32 + number (09 Table 9.7). -/
  tiles : Tab Tile := []
  /-- Landing units: 2 * fold, or 2 * (die * 64 + drover) + 1 (12 R378, R379). -/
  landings : Tab Landing := []
  /-- PERMX operations by number, oldest first, and the next number (12 R382). -/
  permxs : Tab Permx := []
  nextPermx : Nat := 1
  /-- Open bundles by their writer's name (12 R386). -/
  bundles : Tab Bundle := []
  /-- Retention buffers (12 R385, R387): pending data and previous data of lines by address, oldest first. -/
  pendLines : List (Nat × List Byte) := []
  prevLines : List (Nat × List Byte) := []
  /-- Where the shadow entries of the lines that retention buffers hold lie. -/
  shadows : List (Nat × Nat) := []
  /-- End-to-end sequence numbers of packets between dies (12 R363): next sent, and next expected with the packets held, by source die,
  destination die and plane. -/
  seqSent : List (Nat × Nat × Bool × Nat) := []
  seqHeld : List (Nat × Nat × Bool × Nat × List GPacket) := []
  /-- What was under way between packages at the last cycle, whose flits have been sent (12 R365). -/
  flying : List Ev := []
  /-- The bothies of the packages (13). -/
  pkgs : Tab Pkg := []
  deriving DecidableEq, Repr

/-- The machine right after reset: package 0 in its power-on state, with no process and nothing in memory (log 2). -/
def State.reset : State := { packages := [0] }

end Sys2Proof.Machine
end

