-- ==== Sys2Proof/Machine/Memory.lean ====
section
/-! DEFINITION. Memory as a canonical list of bytes (log 1), read and written little-endian (00 R3). -/

namespace Sys2Proof.Machine

/-- What a byte that the list does not hold reads as (log 1). -/
def blank : Byte := 0

/-- One byte of memory. -/
def readByte : List Host.Cell → Nat → Byte
  | [], _ => blank
  | (a, b) :: m, i => if a < i then readByte m i else if a = i then b else blank

/-- Memory without the byte at an address. -/
def dropByte : List Host.Cell → Nat → List Host.Cell
  | [], _ => []
  | (a, b) :: m, i => if a < i then (a, b) :: dropByte m i else if a = i then m else (a, b) :: m

/-- Memory with a byte, which is not blank, put at an address. -/
def insertByte : List Host.Cell → Nat → Byte → List Host.Cell
  | [], i, v => [(i, v)]
  | (a, b) :: m, i, v =>
    if a < i then (a, b) :: insertByte m i v else if a = i then (i, v) :: m else (i, v) :: (a, b) :: m

/-- Memory with one byte written, in canonical form. -/
def writeByte (m : List Host.Cell) (i : Nat) (v : Byte) : List Host.Cell :=
  if v = blank then dropByte m i else insertByte m i v

/-- The canonical form: addresses strictly rising, no entry blank. -/
def Memory.wf : List Host.Cell → Bool
  | [] => true
  | [(_, b)] => b != blank
  | (a, b) :: (a', b') :: m => b != blank && decide (a < a') && Memory.wf ((a', b') :: m)

/-- `n` bytes from an address up. -/
def readBytes (m : List Host.Cell) (a : Nat) : Nat → List Byte
  | 0 => []
  | n + 1 => readByte m a :: readBytes m (a + 1) n

/-- Memory with bytes written from an address up. -/
def writeBytes : List Host.Cell → Nat → List Byte → List Host.Cell
  | m, _, [] => m
  | m, a, b :: bs => writeBytes (writeByte m a b) (a + 1) bs

/-- The number that bytes in memory order denote (00 R3). -/
def leNat : List Byte → Nat
  | [] => 0
  | b :: bs => b.toNat + 256 * leNat bs

/-- The `n` low bytes of a number in memory order (00 R3). -/
def leBytes : Nat → Nat → List Byte
  | 0, _ => []
  | n + 1, v => BitVec.ofNat 8 v :: leBytes n (v / 256)

/-- A little-endian number of `n` bytes. -/
def readLe (m : List Host.Cell) (a n : Nat) : Nat := leNat (readBytes m a n)

/-- Memory with a little-endian number of `n` bytes written. -/
def writeLe (m : List Host.Cell) (a n v : Nat) : List Host.Cell := writeBytes m a (leBytes n v)

/-- Bytes cut into 8-byte words. -/
def leWords : Nat → List Byte → List Word
  | 0, _ => []
  | n + 1, bs => BitVec.ofNat 64 (leNat (bs.take 8)) :: leWords n (bs.drop 8)

/-- The bytes of 8-byte words in memory order. -/
def wordsLe (ws : List Word) : List Byte := ws.flatMap (fun w => leBytes 8 w.toNat)

end Sys2Proof.Machine
end

