-- ==== Sys2Proof/Machine/Topology.lean ====
section
/-! DEFINITION. Where things lie: global core identifiers (04 R71), the address map (04 R70 to R75), the mesh and
the one-way latency between cores (01 R6 to R9, 07 R206). -/

namespace Sys2Proof.Machine

/-- The fold, die and package of a core (04 R71). -/
def foldOf (core : Nat) : Nat := core / 8
def dieOf (core : Nat) : Nat := core / 2048
def pkgOf (core : Nat) : Nat := core / 8192

/-- Whether an identifier names a core: fold below 192 and core below 7 (04 R71). -/
def coreIdOk (c : Nat) : Bool := decide (c < 2 ^ 25) && decide (c / 8 % 256 < 192) && decide (c % 8 < 7)

/-- Cores c0 to c3 have a vector-and-tile unit (01 R10). -/
def hasVtu (core : Nat) : Bool := decide (core % 8 < 4)

/-- The physical address at which a core's window starts (04 R71). -/
def windowBase (core : Nat) : Nat :=
  dieOf core * 2 ^ 50 + 0x2000000000000 + core / 8 % 256 * 0x1000000 + core % 8 * 0x200000

/-- The physical address at which a fold's window starts (04 R72), given the fold's number in the installation. -/
def foldBase (fold : Nat) : Nat := fold / 256 * 2 ^ 50 + 0x2000000000000 + fold % 256 * 0x1000000

/-- The physical address of a fold's SRAM (04 R73). -/
def sramBase (fold : Nat) : Nat := foldBase fold + 0xE00000

/-- The physical address of a fold's engine block (04 R72). -/
def speBase (fold : Nat) : Nat := fold / 256 * 2 ^ 50 + 0x20000C0000000 + fold % 256 * 0x20000

/-- Bytes of scratchpad of a core (01 R11). -/
def scratchSize (core : Nat) : Nat := if hasVtu core then 0x60000 else 0x10000

/-- The rows of a core window (04 Table 4.2). -/
inductive Row where
  | scratch | acc | vfile | tile | istore | pen | ep | slot | csr | gap
  deriving DecidableEq, Repr

/-- The row that a core-window offset lies in, by the row's full extent (04 Table 4.2). -/
def rowOf (off : Nat) : Row :=
  if off < 0x60000 then .scratch
  else if off < 0x100000 then .gap
  else if off < 0x110000 then .acc
  else if off < 0x111000 then .vfile
  else if off < 0x118000 then .gap
  else if off < 0x118800 then .tile
  else if off < 0x120000 then .gap
  else if off < 0x130000 then .istore
  else if off < 0x140000 then .gap
  else if off < 0x150000 then .pen
  else if off < 0x160000 then .gap
  else if off < 0x164000 then .ep
  else if off < 0x170000 then .gap
  else if off < 0x170400 then .slot
  else if off < 0x180000 then .gap
  else if off < 0x188000 then .csr
  else .gap

/-- The Protected column of Table 4.2. -/
def Row.guarded : Row → Bool
  | .scratch => false
  | .acc => false
  | .gap => false
  | _ => true

/-- Whether a row is backed at an offset on a core (04 R75, Table 4.2). -/
def rowBacked (core off : Nat) : Bool :=
  match rowOf off with
  | .gap => false
  | .scratch => decide (off < scratchSize core)
  | .acc => hasVtu core
  | .vfile => hasVtu core
  | .tile => hasVtu core
  | _ => true

/-- Where a physical address lies. -/
inductive Place where
  /-- HBM of a die, served by a drover of it (04 R74). -/
  | hbm (die drover : Nat)
  | core (core off : Nat)
  | sram (fold off : Nat)
  | spe (fold off : Nat)
  | nowhere
  deriving DecidableEq, Repr

/-- The place of a physical address by the local map alone (04 R70 to R74). -/
def placeOf (a : Nat) : Place :=
  let die := a / 2 ^ 50
  let o := a % 2 ^ 50
  if 2 ^ 64 ≤ a then .nowhere
  else if o < 0x1800000000 then .hbm die (o / 2 ^ 11 % 64)
  else if 0x2000000000000 ≤ o ∧ o < 0x2000000000000 + 192 * 0x1000000 then
    let f := (o - 0x2000000000000) / 0x1000000
    let w := (o - 0x2000000000000) % 0x1000000
    if w < 0xE00000 then .core (die * 2048 + f * 8 + w / 0x200000) (w % 0x200000)
    else .sram (die * 256 + f) (w - 0xE00000)
  else if 0x20000C0000000 ≤ o ∧ o < 0x20000C0000000 + 192 * 0x20000 then
    let w := (o - 0x20000C0000000) % 0x20000
    .spe (die * 256 + (o - 0x20000C0000000) / 0x20000) w
  else .nowhere

/-- The package of a physical address (04 R70). -/
def pkgOfAddr (a : Nat) : Nat := a / 2 ^ 52

/-- The column and row of a fold on its die (01 R6). -/
def foldX (fold : Nat) : Nat := fold % 256 % 12
def foldY (fold : Nat) : Nat := fold % 256 / 12

/-- The distance of two numbers. -/
def gap (a b : Nat) : Nat := (a - b) + (b - a)

/-- A point of a package: die 0 to 3, column, row. -/
structure Point where
  die : Nat
  x : Nat
  y : Nat
  deriving DecidableEq, Repr

/-- The point of a fold in its package. -/
def pointOf (fold : Nat) : Point := { die := fold / 256 % 4, x := foldX fold, y := foldY fold }

/-- The mesh hops between two points of one die (01 R8). -/
def hops (p q : Point) : Nat := gap p.x q.x + gap p.y q.y

/-- Whether two dies are side by side in a package row (01 R6). -/
def sameRow (a b : Nat) : Bool := a / 2 == b / 2

/-- The next die on the way from die `a` to another die `b` (01 R8): the neighbour in the row first. -/
def nextDie (a b : Nat) : Nat :=
  if sameRow a b ∨ a % 2 = b % 2 then b else if a % 2 = 0 then a + 1 else a - 1

/-- The two gateways of die `a` towards its neighbour `b`, the lower row or column first (01 R8). -/
def gatePair (a b : Nat) : Point × Point :=
  if sameRow a b then
    let x := if a % 2 = 0 then 11 else 0
    (⟨a, x, 3⟩, ⟨a, x, 12⟩)
  else
    let y := if a < 2 then 15 else 0
    (⟨a, 3, y⟩, ⟨a, 8, y⟩)

/-- The point of the neighbouring die that a gateway faces (01 R8). -/
def facing (g : Point) (b : Nat) : Point :=
  if sameRow g.die b then ⟨b, 11 - g.x, g.y⟩ else ⟨b, g.x, 15 - g.y⟩

/-- One die-to-die crossing from a point (01 R8): the hops to the gateway, and where it comes out. -/
def crossDie (p : Point) (b : Nat) : Nat × Point :=
  let gs := gatePair p.die b
  let g := if hops p gs.2 < hops p gs.1 then gs.2 else gs.1
  (hops p g, facing g b)

/-- The latency between two points of one package, without the 6 of R206: hops, and 16 for each die-to-die crossing. -/
def pathCost (p q : Point) : Nat :=
  if p.die = q.die then hops p q
  else
    let b := nextDie p.die q.die
    let c := crossDie p b
    if b = q.die then c.1 + 16 + hops c.2 q
    else
      let e := crossDie c.2 q.die
      c.1 + 16 + (e.1 + 16 + hops e.2 q)

/-- The numbers from one to another, either way. -/
def between (a b : Nat) : List Nat := (List.range (gap a b + 1)).map (fun i => if a ≤ b then a + i else a - i)

/-- The points that a packet crosses on one die: along its row, then along its column (01 R8). -/
def hopPoints (p q : Point) : List Point :=
  (between p.x q.x).map (fun x => ⟨p.die, x, p.y⟩) ++ (between p.y q.y).map (fun y => ⟨p.die, q.x, y⟩)

/-- The gateway by which a packet leaves a die for its neighbour (01 R8). -/
def crossGate (p : Point) (b : Nat) : Point :=
  let gs := gatePair p.die b
  if hops p gs.2 < hops p gs.1 then gs.2 else gs.1

/-- The points that a packet crosses between two points of one package. -/
def pathPoints (p q : Point) : List Point :=
  if p.die = q.die then hopPoints p q
  else
    let b := nextDie p.die q.die
    let c := (crossDie p b).2
    if b = q.die then hopPoints p (crossGate p b) ++ hopPoints c q
    else hopPoints p (crossGate p b) ++ hopPoints c (crossGate c q.die) ++ hopPoints (crossDie c q.die).2 q

/-- A coordinate of a package in the 16 x 16 x 16 torus: dimension 0, 1 or 2 for x, y, z (01 R9). -/
def coord (pkg dim : Nat) : Nat := pkg / 16 ^ dim % 16

/-- The direction a route takes in a dimension: steps, and whether it goes in the + direction (12 R362). -/
def ringWay (a b : Nat) : Nat × Bool :=
  let up := (b + 16 - a) % 16
  if up ≤ 8 then (up, true) else (16 - up, false)

/-- The link, 0 to 11, of direction (dimension, sign) and number n of a package: dies 0 and 2 carry the + directions,
dies 1 and 3 the - directions, three links each (01 R8, R9). -/
def linkIndex (dim : Nat) (plus : Bool) (n : Nat) : Nat := (n * 2 + (if plus then 0 else 1)) * 3 + dim

/-- The link gateway's point for a link: die, outer vertical edge, row 4, 8 or 12 (01 R8). -/
def linkPoint (link : Nat) : Point :=
  let d := link / 3
  { die := d, x := if d % 2 = 0 then 0 else 11, y := 4 + 4 * (link % 3) }

/-- The neighbour of a package by one step in a dimension (01 R9). -/
def stepPkg (pkg dim : Nat) (plus : Bool) : Nat :=
  let c := coord pkg dim
  let c' := if plus then (c + 1) % 16 else (c + 15) % 16
  pkg - c * 16 ^ dim + c' * 16 ^ dim

/-- The links of a route in one dimension: for each step, the package it leaves, the dimension and the sign. -/
def routeDim (dim : Nat) (plus : Bool) : Nat → Nat → List (Nat × Nat × Bool)
  | 0, _ => []
  | n + 1, pkg => (pkg, dim, plus) :: routeDim dim plus n (stepPkg pkg dim plus)

/-- The steps of the one route between two packages (12 R362): x, then y, then z. -/
def routeOf (p q : Nat) : List (Nat × Nat × Bool) :=
  let wx := ringWay (coord p 0) (coord q 0)
  let p1 := p - coord p 0 + coord q 0
  let wy := ringWay (coord p1 1) (coord q 1)
  let p2 := p1 - coord p1 1 * 16 + coord q 1 * 16
  let wz := ringWay (coord p2 2) (coord q 2)
  routeDim 0 wx.2 wx.1 p ++ routeDim 1 wy.2 wy.1 p1 ++ routeDim 2 wz.2 wz.1 p2

/-- The number of the link that a route to a destination takes in each direction (12 R362). -/
def routeLink (q : Nat) : Nat := (coord q 0 + coord q 1 + coord q 2) % 2

/-- The fold that a drover attaches to (08 R409): die in the installation, drover 0 to 63. -/
def droverFold (die n : Nat) : Nat :=
  let x := 6 * (n / 32) + 3 * (n % 32) / 16
  let y := if die % 4 < 2 then 0 else 15
  die * 256 + 12 * y + x

/-- The fold of a die's bothy gateway (01 R8). -/
def bothyFold (die : Nat) : Nat :=
  die * 256 + (match die % 4 with | 0 => 191 | 1 => 180 | 2 => 11 | _ => 0)

/-- A drover's service time for an access of b bytes with no competitor (08 R409). -/
def droverTime (b : Nat) : Nat := 96 + (8 * b + 374) / 375

end Sys2Proof.Machine
end

