-- ==== Sys2Proof/Machine/Base.lean ====
section
/-! DEFINITION. The named operations over the state: looking up and replacing records,
scheduling events, latency, memory with its poison marks, registers with their full/empty bits, and waking a
process. -/

namespace Sys2Proof.Machine

/-! ### Looking up and replacing -/

/-- The nanoseconds since the installation's start: 1 GHz against the 1.6 GHz core clock (00 R2). -/
def State.nanos (s : State) : Nat := s.cycle * 5 / 8

/-- The global time counter, 64 bits of the nanoseconds (00 R2). DESIGN CHOICE (log 46): the spec lets the counters of two places differ by up
to 4 ns; here every core of the installation reads the same value. -/
def State.gtc (s : State) : Nat := s.nanos % 2 ^ 64

/-- The first cycle at which a number of nanoseconds has passed since the start. -/
def gtcCycle (t : Nat) : Nat := (8 * t + 4) / 5

/-- The first cycle, from the present turn of the counter on, at which GTC has reached a time. -/
def State.gtcDue (s : State) (t : Nat) : Nat := gtcCycle (s.nanos / 2 ^ 64 * 2 ^ 64 + t)

/-- The nanoseconds since a time that GTC showed. -/
def State.since (s : State) (t : Nat) : Nat := (s.gtc + 2 ^ 64 - t) % 2 ^ 64

def State.proc (s : State) (k : Nat) : Option Proc := tget s.procs k
def State.putProc (s : State) (k : Nat) (p : Proc) : State := { s with procs := tput s.procs k p }
def State.modProc (s : State) (k : Nat) (f : Proc → Proc) : State :=
  match s.proc k with
  | some p => s.putProc k (f p)
  | none => s
def State.core (s : State) (c : Nat) : CoreS := tgetD s.cores c {}
def State.putCore (s : State) (c : Nat) (x : CoreS) : State := { s with cores := tput s.cores c x }
def State.modCore (s : State) (c : Nat) (f : CoreS → CoreS) : State := s.putCore c (f (s.core c))
def State.slot (s : State) (i : Nat) : SlotS := tgetD s.slots i {}
def State.putSlot (s : State) (i : Nat) (x : SlotS) : State := { s with slots := tput s.slots i x }
def State.modSlot (s : State) (i : Nat) (f : SlotS → SlotS) : State := s.putSlot i (f (s.slot i))
def State.fold (s : State) (f : Nat) : FoldS := tgetD s.folds f {}
def State.putFold (s : State) (f : Nat) (x : FoldS) : State := { s with folds := tput s.folds f x }
def State.modFold (s : State) (f : Nat) (g : FoldS → FoldS) : State := s.putFold f (g (s.fold f))
def State.group? (s : State) (g : Nat) : Option Group := tget s.groups g
def State.putGroup (s : State) (g : Nat) (x : Group) : State := { s with groups := tput s.groups g x }
def State.modGroup (s : State) (g : Nat) (f : Group → Group) : State :=
  match s.group? g with
  | some x => s.putGroup g (f x)
  | none => s

/-- The key of the live process of a name (06 R158). -/
def State.keyOf (s : State) (name : Nat) : Option Nat := tget s.dir name

/-- The live process of a name, with its key. -/
def State.named (s : State) (name : Nat) : Option (Nat × Proc) :=
  match s.keyOf name with
  | some k => (s.proc k).map (fun p => (k, p))
  | none => none

/-- Changes the live process of a name, if there is one. -/
def State.modNamed (s : State) (name : Nat) (f : Nat → Proc → State → State) : State :=
  match s.named name with
  | some (k, p) => f k p s
  | none => s

/-- The core's slot in which a process sits. -/
def Proc.slotKey (p : Proc) : Nat := p.core * 8 + p.slot

/-- Whether a process sits in a slot. -/
def State.inSlot (s : State) (p : Proc) : Bool := (s.slot p.slotKey).occ == some p.idx

/-- The launch of a process. -/
def State.launchOf (s : State) (p : Proc) : Option Launch :=
  match tget s.ltab (p.core * 16 + p.launch) with
  | some e => tget s.launches e.launch
  | none => none

/-- The address space and first-level table of a process (04 R79). -/
def State.asidOf (s : State) (p : Proc) : Nat := ((s.launchOf p).map Launch.asid).getD 0
def State.rootOf (s : State) (p : Proc) : Nat := ((s.launchOf p).map Launch.root).getD 0

/-- Changes the entry of a process's launch in the launch table of its core (06 R174). -/
def State.modLtab (s : State) (p : Proc) (f : LaunchEntry → LaunchEntry) : State :=
  match tget s.ltab (p.core * 16 + p.launch) with
  | some e => { s with ltab := tput s.ltab (p.core * 16 + p.launch) (f e) }
  | none => s

/-! ### Events and time -/

/-- Puts an event among those in flight, after those that fall due no later (log 4). -/
def enqueue (due : Nat) (e : Ev) : List (Nat × Ev) → List (Nat × Ev)
  | [] => [(due, e)]
  | (d, x) :: t => if due < d then (due, e) :: (d, x) :: t else (d, x) :: enqueue due e t

/-- Schedules an event a number of cycles from now. -/
def State.after (s : State) (n : Nat) (e : Ev) : State := { s with agenda := enqueue (s.cycle + n) e s.agenda }

/-- Schedules an event at a cycle, or now if that has passed. -/
def State.atCycle (s : State) (c : Nat) (e : Ev) : State :=
  { s with agenda := enqueue (if c < s.cycle then s.cycle else c) e s.agenda }

/-- The first rotation boundary after now (05 R100). -/
def State.nextBoundary (s : State) : Nat := (s.cycle / 8 + 1) * 8

/-- The next free value (log 6). -/
def State.freeWord (s : State) : Word := Config.freeWord s.free
def State.useFree (s : State) : State := { s with free := s.free + 1 }

/-! ### Latency -/

/-- An off-package link by package and number; one that has never been trained is down (12 R376). -/
def State.link (s : State) (pkg n : Nat) : Link := tgetD s.links (pkg * 12 + n) {}
def State.modLink (s : State) (pkg n : Nat) (f : Link → Link) : State :=
  { s with links := tput s.links (pkg * 12 + n) (f (s.link pkg n)) }

/-- The latency of an off-package link (12 R376), a free value until training has measured it (log 6). -/
def State.hopTime (s : State) (pkg n : Nat) : Nat :=
  match tget s.links (pkg * 12 + n) with
  | some l => l.hop
  | none => (Config.freeWord (pkg * 12 + n)).toNat % 4096

/-- The link that carries the traffic of a direction towards a destination: the one that the route names, or its twin while that one is
down (12 R362). -/
def State.linkFor (s : State) (pkg dim : Nat) (plus : Bool) (q : Nat) : Nat :=
  let n := linkIndex dim plus (routeLink q)
  if (s.link pkg n).up then n
  else
    let t := linkIndex dim plus (1 - routeLink q)
    if (s.link pkg t).up then t else n

/-- The links of the route between two packages: package left, link, package entered, link it enters by (12 R362). -/
def State.routeLinks (s : State) (p q : Nat) : List (Nat × Nat × Nat × Nat) :=
  (routeOf p q).map (fun st =>
    let n := s.linkFor st.1 st.2.1 st.2.2 q
    (st.1, n, stepPkg st.1 st.2.1 st.2.2, linkIndex st.2.1 (!st.2.2) (n / 6)))

/-- Whether a route delivers: in each direction it takes, one of the two links is up (12 R362). -/
def State.reachable (s : State) (p q : Nat) : Bool := (s.routeLinks p q).all (fun l => (s.link l.1 l.2.1).up)

/-- T: the route's one-way link latency between two packages, with 40 cycles for each package between (07 R206, 12 R376). -/
def State.routeTime (s : State) (p q : Nat) : Nat :=
  ((s.routeLinks p q).map (fun l => s.hopTime l.1 l.2.1)).foldl (fun x y => x + y) 0 + 40 * ((routeOf p q).length - 1)

/-- The one-way latency between two folds that are not one (07 R206). -/
def State.foldWay (s : State) (f g : Nat) : Nat :=
  let p := f / 1024
  let q := g / 1024
  if p = q then 6 + pathCost (pointOf f) (pointOf g)
  else
    match s.routeLinks p q, (s.routeLinks p q).getLast? with
    | l :: _, some m => 6 + pathCost (pointOf f) (linkPoint l.2.1) + s.routeTime p q + pathCost (linkPoint m.2.2.2) (pointOf g)
    | _, _ => 6

/-- D of R206 between two cores: 1 within a core, 3 within a fold. -/
def State.oneway (s : State) (a b : Nat) : Nat :=
  if a = b then 1 else if foldOf a = foldOf b then 3 else s.foldWay (foldOf a) (foldOf b)

/-- The one-way latency from a fold to what holds a physical address: 3 within the fold (07 R206, 04 R408). -/
def State.wayFrom (s : State) (fold : Nat) (pa : Nat) : Nat :=
  let far (f : Nat) : Nat := if f = fold then 3 else s.foldWay fold f
  match placeOf pa with
  | .hbm die d => far (droverFold die d)
  | .core c _ => far (foldOf c)
  | .sram f _ => far f
  | .spe f _ => far f
  | .nowhere => 0

/-- D of R408 between a core and a physical address: 0 to its own scratchpad, 1 to the other rows of its window, else by R206. -/
def State.wayTo (s : State) (core : Nat) (pa : Nat) : Nat :=
  match placeOf pa with
  | .core c off => if c = core then (if rowOf off == .scratch then 0 else 1) else s.wayFrom (foldOf core) pa
  | _ => s.wayFrom (foldOf core) pa

/-! ### Drovers (08 R409) -/

def State.drover (s : State) (n : Nat) : Drover := tgetD s.drovers n {}
def State.putDrover (s : State) (n : Nat) (x : Drover) : State := { s with drovers := tput s.drovers n x }

/-- The cycles in which an access that reaches a drover in a cycle begins and has its transfer end (08 R409), behind the accesses that reach the drover
before it: one begins in a cycle, at most 64 are in progress, and they take the data path one at a time. DESIGN CHOICE (log 59): one that has its times is not
delayed by another that sets out later and yet reaches the drover before it. -/
def Drover.times (d : Drover) (at_ size : Nat) : Nat × Nat :=
  let before := d.flow.filter (fun x => decide (x.1 ≤ at_))
  let b0 := before.foldl (fun m x => max m (x.2.1 + 1)) at_
  let busy := before.filter (fun x => decide (b0 < x.2.2))
  let b := if busy.length < 64 then b0
    else ((busy.map (fun x => x.2.2)).filter (fun v => decide ((busy.filter (fun x => decide (v < x.2.2))).length < 64))).foldl min
      (busy.foldl (fun m x => max m x.2.2) 0)
  (b, before.foldl (fun m x => max m x.2.2) (b + 96) + (8 * size + 374) / 375)

/-- An access that reaches a drover in a cycle, entered with its times; those that are over are forgotten. -/
def State.enterDrover (s : State) (n at_ size : Nat) : State :=
  let d := s.drover n
  let t := d.times at_ size
  s.putDrover n { d with flow := d.flow.filter (fun x => decide (s.cycle < x.2.2)) ++ [(at_, t.1, t.2)] }

/-- What a target takes to answer an access that reaches it in a cycle: the time at its drover, or 2 cycles on chip (04 R408, 08 R409). -/
def State.serviceTime (s : State) (at_ pa size : Nat) : Nat :=
  match placeOf pa with
  | .hbm die n => ((s.drover (die * 64 + n)).times at_ size).2 - at_
  | _ => 2

/-- An access that reaches HBM in a cycle is one of its drover's. -/
def State.bookAt (s : State) (at_ pa size : Nat) : State :=
  match placeOf pa with
  | .hbm die n => s.enterDrover (die * 64 + n) at_ size
  | _ => s

/-- An access through an engine block window reaches its place: whether it may be made in this cycle, with the port of the bank that it takes; else it
waits for one (11 R355). Accesses to weights, and to anything else, wait for none. -/
def State.windowPort (s : State) (pa : Nat) (e : Ev) : State × Bool :=
  match placeOf pa with
  | .spe f o =>
    let x := (s.fold f).spe
    let b := o / 4096
    let used := if x.portsAt = s.cycle then x.ports else []
    if 16 ≤ b then (s, true)
    else if x.granted.contains e then (s.modFold f (fun y => { y with spe := { x with granted := x.granted.erase e } }), true)
    else if 2 ≤ tgetD used b 0 || x.waits.any (fun w => w.1 == b) then
      (s.modFold f (fun y => { y with spe := { x with waits := x.waits ++ [(b, e)] } }), false)
    else (s.modFold f (fun y => { y with spe := { x with portsAt := s.cycle, ports := tput used b (tgetD used b 0 + 1) } }), true)
  | _ => (s, true)

/-- The time to the value of a load or atomic that sets out in some cycles (04 R408). -/
def State.accessAfter (s : State) (n core pa size : Nat) : Nat :=
  n + 2 * s.wayTo core pa + s.serviceTime (s.cycle + n + s.wayTo core pa) pa size

/-- The time from issue to value of a load or atomic (04 R408). -/
def State.accessTime (s : State) (core : Nat) (pa size : Nat) : Nat := s.accessAfter 0 core pa size

/-- An access of a core that sets out in some cycles, or now, entered at its drover. -/
def State.bookAfter (s : State) (n core pa size : Nat) : State := s.bookAt (s.cycle + n + s.wayTo core pa) pa size
def State.book (s : State) (core pa size : Nat) : State := s.bookAfter 0 core pa size

/-- Accesses made one after the other: the state that they leave and the times that they take. -/
def State.trips {α : Type} (s : State) (f : State → α → State × Nat) (xs : List α) : State × List Nat :=
  xs.foldl (fun (acc : State × List Nat) x => ((f acc.1 x).1, acc.2 ++ [(f acc.1 x).2])) (s, [])

/-- The time of a walk read, which sets out from the fold translator (04 R408). -/
def State.walkTime (s : State) (fold : Nat) (pa : Nat) : Nat :=
  2 * s.wayFrom fold pa + s.serviceTime (s.cycle + s.wayFrom fold pa) pa 8

/-! ### Quiet regions (06 R165) -/

/-- Whether a QUIESCE holds a core's fold. -/
def State.isQuiet (s : State) (core : Nat) : Bool := s.quiet.any (fun q => q.2.1.contains (foldOf core))

/-- The folds of a package by their points. -/
def pointFolds (pkg : Nat) (l : List Point) : List Nat := l.map (fun p => pkg * 1024 + p.die * 256 + p.y * 12 + p.x)

/-- The folds whose routers a message between two cores crosses: those of the leaving and the entering package, if they are not one (01 R8, 07
R206). -/
def State.wayFolds (s : State) (a b : Nat) : List Nat :=
  let f := foldOf a
  let g := foldOf b
  let p := f / 1024
  let q := g / 1024
  if p = q then pointFolds p (pathPoints (pointOf f) (pointOf g))
  else
    match s.routeLinks p q, (s.routeLinks p q).getLast? with
    | l :: _, some m => pointFolds p (pathPoints (pointOf f) (linkPoint l.2.1)) ++ pointFolds q (pathPoints (linkPoint m.2.2.2) (pointOf g))
    | _, _ => [f, g]

/-! ### Memory -/

/-- Marks without the words that a range of bytes touches (13 R401: a write overwrites poison). -/
def unpoison (ps : List Nat) (a n : Nat) : List Nat :=
  ps.filter (fun w => decide (w + 8 ≤ a) || decide (a + n ≤ w))

/-- Bytes written to physical memory; their words' poison is gone (13 R401). -/
def State.writeMem (s : State) (a : Nat) (bs : List Byte) : State :=
  { s with mem := writeBytes s.mem a bs, poison := unpoison s.poison a bs.length }

/-- A little-endian number of `n` bytes written to physical memory. -/
def State.writeNum (s : State) (a n v : Nat) : State := s.writeMem a (leBytes n v)

/-- Whether a range of bytes touches a poisoned word (13 R401). -/
def State.poisoned (s : State) (a n : Nat) : Bool := s.poison.any (fun w => decide (w < a + n) && decide (a < w + 8))

/-- An address inserted in a rising list without repeats. -/
def insertAddr (a : Nat) : List Nat → List Nat
  | [] => [a]
  | b :: t => if a < b then a :: b :: t else if a = b then b :: t else b :: insertAddr a t

/-- The bytes of a range that lie in poisoned words, by their offsets in it (13 R401). -/
def State.hurtIn (s : State) (a n : Nat) : List Nat :=
  s.poison.flatMap (fun w => (List.range 8).filterMap (fun j => if a ≤ w + j ∧ w + j < a + n then some (w + j - a) else none))

/-- Poison that has travelled (13 R401): the words of these bytes, by address, are poisoned. -/
def State.poisonAt (s : State) (as : List Nat) : State := { s with poison := as.foldl (fun ps a => insertAddr (a / 8 * 8) ps) s.poison }

/-! ### Registers (05 R103, R104) -/

/-- The index of a register in the register file. -/
def rix (r : Reg) : Fin 16 := r.toFin

/-- A register's value; g0 is 0. -/
def Proc.reg (p : Proc) (r : Reg) : Word := if r = 0 then 0 else (p.regs.get (rix r)).val

/-- A register's cell. -/
def Proc.cell (p : Proc) (r : Reg) : RegCell := p.regs.get (rix r)

/-- Whether a register is full; g0 always is. -/
def Proc.full (p : Proc) (r : Reg) : Bool := r = 0 || (p.regs.get (rix r)).full

/-- The register file with a cell replaced; g0 never changes. -/
def Proc.putCell (p : Proc) (r : Reg) (c : RegCell) : Proc :=
  if r = 0 then p else { p with regs := p.regs.set (rix r) c }

/-- A write of a register: the value stands, the register is full, and no pending fill is accepted any more (05 R104). -/
def Proc.setReg (p : Proc) (r : Reg) (v : Word) : Proc :=
  p.putCell r { p.cell r with val := v, full := true, pend := false }

/-- EMPTY of a register (05 R111), and what consuming it does (03 R51). -/
def Proc.emptyReg (p : Proc) (r : Reg) : Proc :=
  p.putCell r { p.cell r with full := false, pend := false }

/-- A bit for a register. -/
def regBit (r : Reg) : BitVec 16 := BitVec.ofNat 16 (2 ^ r.toNat)

/-- A new long-latency producer of a register: it becomes empty and its tag rises by one modulo 4 (05 R104, 06 R139). The register counts as
written by the instruction in progress, whose consume marks come before its writes (03 R51). -/
def Proc.produce (p : Proc) (r : Reg) : Proc :=
  { p.putCell r { p.cell r with full := false, pend := true, tag := (p.cell r).tag + 1, out := (p.cell r).out + 1 } with
    made := p.made ||| regBit r }

/-- The tag a new producer of a register gets. -/
def Proc.nextTag (p : Proc) (r : Reg) : BitVec 2 := (p.cell r).tag + 1

/-- Whether a fill with a tag is accepted (05 R104). -/
def Proc.accepts (p : Proc) (r : Reg) (tag : BitVec 2) : Bool := (p.cell r).pend && (p.cell r).tag == tag

/-- The process with a port replaced. -/
def Proc.putPort (p : Proc) (q : Nat) (x : Port) : Proc := { p with ports := p.ports.set! q x }

/-- A hold whose instruction has emptied its destination, as a fill for that register passes: the cell to put back takes the value of the
producer that it waited for (05 R132: fills of older producers are accepted after a trap). -/
def Hold.filled (h : Hold) (r : Reg) (tag : BitVec 2) (v : Word) : Hold :=
  match h.old with
  | some c => if h.dst == some r && c.pend && c.tag == tag then { h with old := some { c with val := v, full := true, pend := false } } else h
  | none => h

/-- A fill arrives: one producer fewer is outstanding, and the value is accepted or discarded (05 R104). -/
def Proc.fill (p : Proc) (r : Reg) (tag : BitVec 2) (v : Word) : Proc :=
  let q := { p.putCell r { p.cell r with out := (p.cell r).out - 1 } with hold := p.hold.map (fun h => h.filled r tag v) }
  if p.accepts r tag then q.setReg r v else q

/-- The push that a port's register holds for the producer issued last is given up (05 R110). -/
def Proc.dropPush (p : Proc) (r : Reg) : Proc :=
  if 8 ≤ r.toNat ∧ r.toNat ≤ 11 then
    let x := p.ports.toList.getD (r.toNat - 8) {}
    p.putPort (r.toNat - 8) { x with held := x.held.dropLast }
  else p

/-- The fill that an instruction has called for will not come: its register stays empty, unless a write came meanwhile (07 R201). -/
def Proc.cancelFill (p : Proc) (r : Reg) : Proc :=
  (p.dropPush r).putCell r { p.cell r with out := (p.cell r).out - 1, pend := false }

/-- The register that an instruction emptied at issue, put back as it was before: one producer fewer is outstanding, and a write that came
meanwhile stands (05 R104, R132). -/
def Proc.putBack (p : Proc) (r : Reg) (c : RegCell) : Proc :=
  let now := p.cell r
  (p.dropPush r).putCell r (if now.pend && now.tag == c.tag + 1 then { c with out := now.out - 1 } else { now with out := now.out - 1 })

/-- An instruction that waits is given up: it has made no change (05 R132). -/
def Proc.dropHold (p : Proc) : Proc :=
  match p.hold with
  | some h =>
    match h.dst, h.old with
    | some r, some c => { p.putBack r c with hold := none, made := 0 }
    | _, _ => { p with hold := none, made := 0 }
  | none => { p with made := 0 }

/-- The registers a consume mark names become empty; g0, bound ports and registers whose fill the instruction has called for do not (03 R51, 05
R110). -/
def Proc.consumeRegs (p : Proc) (m : BitVec 16) : Proc :=
  (List.range 16).foldl (fun q n =>
    if m.getLsbD n && !p.made.getLsbD n && !(decide (8 ≤ n) && decide (n ≤ 11) && (p.ports.toList.getD (n - 8) {}).bound)
    then q.emptyReg (BitVec.ofNat 4 n) else q) p

/-- The port of a register g8 to g11, if it is bound (05 R109). -/
def Proc.portOf (p : Proc) (r : Reg) : Option Port :=
  if 8 ≤ r.toNat ∧ r.toNat ≤ 11 then
    let q := p.ports.toList.getD (r.toNat - 8) {}
    if q.bound then some q else none
  else none

/-- The process with flags raised (02 R39). -/
def Proc.raiseFlags (p : Proc) (f : BitVec 5) : Proc := { p with fflags := p.fflags ||| f }

/-- A process is heavy for its vector demand, its spawn word, a tile it owns, a borrowed slot or an open tape (06 R143). -/
def Proc.heavy (p : Proc) : Bool :=
  p.heavyBit || decide (p.vcount ≠ 0) || decide (p.town ≠ 0) || p.borrow.isSome || decide (p.tapesOpen ≠ 0)

/-! ### Readying a process (06 Table 6.4, R146) -/

/-- A record put at the tail of a pen of its core. -/
def State.toPen (s : State) (p : Proc) : State :=
  s.modCore p.core (fun c => { c with pens := c.pens.set! p.prio ((c.pens.toList.getD p.prio []) ++ [p.idx]) })

/-- A record taken out of every pen of its core. -/
def State.outOfPens (s : State) (p : Proc) : State :=
  s.modCore p.core (fun c => { c with pens := c.pens.map (fun l => l.filter (fun i => i != p.idx)) })

/-- A process whose wait has ended issues in the next cycle at the earliest (05 R101, as the trace of 07 has it; log 4). -/
def State.awake (s : State) (p : Proc) : State :=
  s.modSlot p.slotKey (fun x => { x with next := if x.next ≤ s.cycle then s.cycle + 1 else x.next })

/-- Whether a wait takes its process out of RESIDENT (06 Table 6.4). In the others an instruction is under way, or is held back before it issues (log
9, 14). -/
def Wait.leaves : Wait → Bool
  | .reg _ | .cell _ | .chan _ | .alt | .barrier _ | .wfw _ | .trapw | .sleep | .exitDrain | .xwr => true
  | _ => false

/-- A process that is RESIDENT again after a wait; one that was out of RESIDENT stays anew (06 R147). -/
def Proc.resumed (p : Proc) (now : Nat) : Proc :=
  { p with st := .resident, wait := .none, deadline := 0,
           residence := if p.wait.leaves then now else p.residence, expired := p.expired && !p.wait.leaves }

/-- The awaited event of a process (Table 6.4): one that is PARKED issues again; one that is BLOCKED or SLEEPING does if it
is heavy and else joins the tail of its pen; one that is SUSPENDED or MIGRATING out of such a wait has LATCH set (R146). -/
def State.ready (s : State) (k : Nat) : State :=
  match s.proc k with
  | none => s
  | some p =>
    match p.st with
    | .parked => (s.putProc k (p.resumed s.cycle)).awake p
    | .blocked | .sleeping =>
      if p.heavy && s.inSlot p then (s.putProc k (p.resumed s.cycle)).awake p
      else (s.putProc k { p with st := .ready, wait := .none, deadline := 0 }).toPen p
    | .suspended | .migrating =>
      let was := if p.st == .migrating && p.mprev != .suspended then p.mprev else p.prev
      if was == .blocked || was == .sleeping then s.putProc k { p with latch := true, wait := .none, deadline := 0 }
      else s.putProc k { p with wait := .none, deadline := 0 }
    | _ => s.putProc k { p with wait := .none, deadline := 0 }

/-- A process stops issuing for a wait that keeps it in its slot (Table 6.3 PARKED). -/
def State.park (s : State) (k : Nat) (w : Wait) : State :=
  s.modProc k (fun p => { p with st := .parked, wait := w, blockedAt := s.cycle })

/-- Whether the shepherd watches a wait: a process BLOCKED on a channel instruction or an ALT (08 R247). -/
def Proc.watched (p : Proc) : Bool :=
  p.st == .blocked && (match p.wait with
    | .chan _ => true
    | .alt => true
    | _ => false)

/-- The time at which a watched process is probed next, if its wait lasts (08 R246, R247). -/
def State.setProbe (s : State) (p : Proc) : State :=
  if p.watched then s.atCycle (p.probeFrom + gtcCycle (s.fold (foldOf p.core)).dlkDelay) (.probeStart p.name p.episode) else s

/-- The delay of a process's next probe runs from now (08 R247). -/
def State.armProbe (s : State) (k : Nat) : State :=
  match s.proc k with
  | some p => (s.putProc k { p with probeFrom := s.cycle }).setProbe { p with probeFrom := s.cycle }
  | none => s

/-- A fold's delay has changed: it holds for the waits that last already (08 R246). -/
def State.resetProbes (s : State) (fold : Nat) : State :=
  (s.procs.filter (fun e => foldOf e.2.core == fold)).foldl (fun t e => t.setProbe e.2) s

/-- A process becomes BLOCKED: a new episode of its record begins (08 R247). -/
def State.enterBlocked (s : State) (k : Nat) : State :=
  (s.modProc k (fun p => { p with st := .blocked, blockedAt := s.cycle, episode := (p.episode + 1) % 65536 })).armProbe k

/-- A process stops issuing for a wait that a light process leaves its slot for (Table 6.3 BLOCKED). -/
def State.block (s : State) (k : Nat) (w : Wait) : State :=
  (s.modProc k (fun p => { p with wait := w })).enterBlocked k

/-- A channel instruction or ALT must wait (06 Table 6.4, 07 R205): a heavy process is BLOCKED, a light one PARKED for a while. -/
def State.waitChan (s : State) (k : Nat) (w : Wait) : State :=
  match s.proc k with
  | some p => if p.heavy then s.block k w else s.park k w
  | none => s

/-- A source is empty with T = 0 (03 R50, 05 R105): a light process with a fill pending leaves its slot, any other parks. -/
def State.waitReg (s : State) (k : Nat) (r : Reg) : State :=
  match s.proc k with
  | some p => if !p.heavy && (p.cell r).pend then s.block k (.reg r.toNat) else s.park k (.reg r.toNat)
  | none => s

end Sys2Proof.Machine
end

