-- ==== Sys2Proof/Machine/Ends.lean ====
section
/-! DEFINITION. Endpoint entries and type words (07 R179 to R186), the times of a transfer (07 Table 7.7), and the elements
of a stream pattern (07 R214). -/

namespace Sys2Proof.Machine

/-! ### Entries -/

/-- The key of an endpoint entry. -/
def epKey (core ix : Nat) : Nat := core * 512 + ix

/-- The key of the entry that a location names. -/
def locKey (l : EndLoc) : Nat := epKey l.core l.ix

def State.ep (s : State) (k : Nat) : Option Ep := tget s.eps k
def State.putEp (s : State) (k : Nat) (e : Ep) : State := { s with eps := tput s.eps k e }
def State.modEp (s : State) (k : Nat) (f : Ep → Ep) : State :=
  match s.ep k with
  | some e => s.putEp k (f e)
  | none => s

/-- The location of the end in an entry. -/
def locOf (k : Nat) (e : Ep) : EndLoc := { core := k / 512, ix := k % 512, gen := e.gen }

/-- Whether its owner holds an end under its handle (07 R181, R192): neither moving away nor moved. -/
def epHeld (e : Ep) : Bool :=
  match e.st with
  | .opened => true
  | .wait => true
  | .dead => true
  | _ => false

/-- The entry of an end that a process holds under a handle, with its key (07 R179). -/
def State.handle (s : State) (name h : Nat) : Option (Nat × Ep) :=
  s.eps.find? (fun e => e.2.owner == name && e.2.handle == h && epHeld e.2)

/-- Whether an end is on the move with its owner (07 R223). -/
def isMigr (e : Ep) : Bool :=
  e.st == .rebind && (match e.move with | some v => v.why == .migr | none => false)

/-- The ends that a process holds or that are leaving it, with their keys. -/
def State.endsOf (s : State) (name : Nat) : List (Nat × Ep) := s.eps.filter (fun e => e.2.owner == name && e.2.st != .forward)

/-- The handle chosen for an end that is on its way to a process which received it over a handle channel (07 R194). -/
def comingHandle (name : Nat) (e : Ep) : Option Nat :=
  match e.move with
  | some v => (match v.why with | .sendh _ => if v.owner = name && e.fwd.isNone then some v.handle else none | _ => none)
  | none => none

/-- The lowest handle of a process that no end of it uses or keeps reserved (07 R190, R192), and none on its way to it will have (R194). -/
def State.freeHandle (s : State) (name lo : Nat) : Option Nat :=
  leastFree ((s.endsOf name).map (fun e => e.2.handle) ++ s.eps.filterMap (fun e => comingHandle name e.2)) lo (64 - lo)

/-- Free entries of a core's endpoint table, and the lowest free index. -/
def State.epsOf (s : State) (core : Nat) : List (Nat × Ep) := s.eps.filter (fun e => e.1 / 512 == core)
def State.freeEntry (s : State) (core lo : Nat) : Option Nat := leastFree ((s.epsOf core).map (fun e => e.1 % 512)) lo (512 - lo)

/-- Where the end of a location is now (07 R167). -/
def State.follow (s : State) : Nat → EndLoc → EndLoc
  | 0, l => l
  | fuel + 1, l =>
    match (s.ep (locKey l)).bind Ep.fwd with
    | some n => s.follow fuel n
    | none => l

/-- The entry in which the end of a location is now. -/
def State.endAt (s : State) (l : EndLoc) : Option (Nat × Ep) :=
  let m := s.follow 64 l
  (s.ep (locKey m)).map (fun e => (locKey m, e))

/-! ### Type words (07 Table 7.3) -/

def typKind (t : Word) : Nat := t.toNat / 2 ^ 60
def typRetry (t : Word) : Bool := t.getLsbD 59
def typCap (t : Word) : Nat := t.toNat / 2 ^ 48 % 256
def typShape (t : Word) : Nat := t.toNat / 2 ^ 32 % 65536
/-- MAXLEN of a block channel. -/
def typMaxLen (t : Word) : Nat := (typShape t % 4096 + 1) * 16
/-- Rows, bytes per row and format code of a tile channel. -/
def typRows (t : Word) : Nat := (typShape t / 2 ^ 13 + 1) * 8
def typRowBytes (t : Word) : Nat := (typShape t / 16 % 512 + 1) * 16
def typFormat (t : Word) : Nat := typShape t % 16

/-- Whether a format code is one of Table 2.1: 0 to 0xB (02 R24). -/
def formatOk (f : Nat) : Bool := decide (f ≤ 11)

/-- Whether a type word keeps R184; END is allowed in a launch record only. -/
def typOk (t : Word) (record : Bool) : Bool :=
  decide (typKind t ≤ 4) && !t.getLsbD 57 && !t.getLsbD 58 && (record || !t.getLsbD 56) && decide (t.toNat % 2 ^ 32 = 0) &&
  (match typKind t with
   | 1 => decide (typShape t < 4096)
   | 2 => decide (typRows t * typRowBytes t ≤ 65536) && formatOk (typFormat t)
   | _ => decide (typShape t = 0))

/-- Whether a channel holds messages in a ring queue (07 R185). -/
def typQueued (t : Word) : Bool := decide (typCap t ≠ 0) && decide (typKind t ≠ 3)

/-- A ring queue's slot for a message of a type (07 R185). -/
def typSlot (t : Word) : Nat :=
  match typKind t with
  | 0 => 8
  | 4 => 32
  | 1 => (typMaxLen t + 63) / 64 * 64
  | _ => typRows t * typRowBytes t

/-- Bytes of the channel buffer pool that a queue takes: 64-byte units (07 R185). -/
def ringBytes (r : Ring) : Nat := (r.slot * r.cap + 63) / 64 * 64

/-- A free ring queue of a fold and its place in the pool, first-fit (07 R185). -/
def State.allotRing (s : State) (fold : Nat) (t : Word) (key : Nat) : Option (Nat × State) :=
  let f := s.fold fold
  let r : Ring := { base := 0, slot := typSlot t, cap := typCap t, key := key }
  let n := ringBytes r
  match leastFree (f.rings.map Prod.fst) 0 64,
      ((List.range 8192).map (fun i => 0x180000 + 64 * i)).find? (fun b =>
        decide (b + n ≤ 0x200000) && f.rings.all (fun x => decide (b + n ≤ x.2.base) || decide (x.2.base + ringBytes x.2 ≤ b))) with
  | some q, some b => some (q, s.putFold fold { f with rings := tput f.rings q { r with base := b } })
  | _, _ => none

/-- A ring queue given back. -/
def State.freeRing (s : State) (fold q : Nat) : State := s.modFold fold (fun f => { f with rings := tdel f.rings q })

/-- The bytes that a message takes in a ring queue. -/
def bodyBytes (b : Body) : List Byte :=
  match b with
  | .word v => leBytes 8 v.toNat
  | .signal => []
  | .handle e => leBytes 8 (e.core * 2 ^ 39 + e.ix * 2 ^ 30 + e.gen * 2 ^ 22)
  | .bytes bs => bs
  | .place _ _ _ _ _ => []

/-- A message's last packet is written into its queue's next slot (07 R185, R220), with its poison (13 R401). -/
def State.writeRing (s : State) (fold q : Nat) (m : Msg) : State :=
  match tget (s.fold fold).rings q with
  | some r =>
    let a := sramBase fold + r.base + r.next * r.slot
    ((s.writeMem a (bodyBytes m.body)).poisonAt (m.hurt.map (fun i => a + i))).modFold fold (fun f =>
      { f with rings := tput f.rings q { r with next := (r.next + 1) % max r.cap 1 } })
  | none => s

/-! ### Times (07 Table 7.7) -/

/-- P and B of R206 for a length. -/
def lenP (n : Nat) : Nat := (n + 63) / 64
def lenB (n : Nat) : Nat := (n + 127) / 128

/-- From the match to the cycle in which a block or tile is written: sender's core, receiver's core, length. -/
def State.dataTime (s : State) (a b n : Nat) : Nat :=
  if foldOf a = foldOf b then 1 + lenP n else 2 * s.oneway a b + lenP n + lenB n

/-- From the data's writing to the receiver's retirement. -/
def rxTail (a b : Nat) : Nat := if a = b then 2 else if foldOf a = foldOf b then 4 else 3

/-- From the match to the sender's retirement. -/
def State.txTime (s : State) (a b n : Nat) : Nat :=
  if a = b then 3 + lenP n else if foldOf a = foldOf b then 5 + lenP n else 3 * s.oneway a b + lenP n + lenB n

/-- The length of what a body carries as a block or tile. -/
def bodyLen (b : Body) : Nat :=
  match b with
  | .bytes bs => bs.length
  | .place _ _ rows rowBytes _ => rows * rowBytes
  | _ => 0

/-- Whether a body is a block or tile. -/
def isBulk (b : Body) : Bool :=
  match b with
  | .bytes _ => true
  | .place _ _ _ _ _ => true
  | _ => false

/-- From the match to the sender's retirement for any message. -/
def State.ackTime (s : State) (a b : Nat) (m : Body) : Nat := if isBulk m then s.txTime a b (bodyLen m) else s.oneway a b

/-- Whether an end is a drover's request end. -/
def isDrover (v : Option Srv) : Bool :=
  match v with
  | some (.drover _) => true
  | _ => false

/-! ### Taking from a receive end -/

/-- Whether the peer end that an entry names still exists and is its peer (07 R191). -/
def State.hasPeer (s : State) (k : Nat) (e : Ep) : Bool :=
  match s.endAt e.peer with
  | some (_, x) => locKey (s.follow 64 x.peer) == locKey (s.follow 64 (locOf k e))
  | none => false

/-- The head message of a buffered end leaves the queue, and its credit sets out for a send end that is still there (07 R202). -/
def State.takeHead (s : State) (k : Nat) (e : Ep) : State :=
  -- a multicast that the full queue held back enters (07 R217)
  let s := match e.offers, e.rq with
    | m :: _, some q => s.writeRing (foldOf (k / 512)) q m
    | _, _ => s
  let t := s.putEp k { e with
    queue := e.queue.drop 1 ++ e.offers.take 1, offers := e.offers.drop 1, pend := e.pend - 1 + (e.offers.take 1).length }
  if (e.queue.take 1).any (fun m => decide (512 ≤ m.src.ix)) || !(e.server.isSome || s.hasPeer k e) then t else
  t.after (s.oneway (k / 512) e.peer.core) (.creditReturn (if e.server.isSome then locOf k e else e.peer))

/-- The first offer of a rendezvous end is matched: its sender's acknowledgement sets out (07 R206). -/
def State.takeOffer (s : State) (k : Nat) (e : Ep) (m : Msg) (matched : Nat) : State :=
  (s.putEp k { e with offers := e.offers.drop 1 }).atCycle (matched + s.ackTime m.src.core (k / 512) m.body) (.sendAck m (locOf k e))

/-! ### Streams (07 R214) -/

/-- The number of elements of a pattern. -/
def streamTotal (x : Stream) : Nat := x.c0 * x.c1 * x.c2

/-- The address of element n of a pattern. -/
def streamAddr (x : Stream) (n : Nat) : Word :=
  x.base + BitVec.ofNat 64 (n % x.c0) * x.s0 + BitVec.ofNat 64 (n / x.c0 % x.c1) * x.s1 + BitVec.ofNat 64 (n / (x.c0 * x.c1)) * x.s2

/-- A port register after its stream has ended or its port is unbound: unbound, full and holding 0 (05 R109, 07 R215). -/
def Proc.unbind (p : Proc) (q : Nat) : Proc :=
  let p1 := p.putPort q {}
  p1.putCell (BitVec.ofNat 4 (8 + q)) { p1.cell (BitVec.ofNat 4 (8 + q)) with val := 0, full := true, pend := false }

/-! ### Stores -/

/-- The mark in a hold of a vector store that posts its lines as entries become free (09 R269). -/
def postingMark : Nat := 8

/-- Entries of a core's store buffer that are taken (04 R83): a vector store takes one for each 64-byte line (09 R269). -/
def State.sbUsed (s : State) (core : Nat) : Nat :=
  let sb := (s.core core).sb
  (sb.filter (fun e => e.batch == 0)).length +
  ((sb.filter (fun e => e.batch != 0)).map (fun e => (e.batch, e.va / 64))).dedup.length

/-- Entries of a core's store buffer that a process may take (04 R83: 16 in all): none while another process of the core posts a
vector store line by line (09 R269). -/
def State.sbRoom (s : State) (core name : Nat) : Nat :=
  if s.procs.any (fun e => decide (e.1 / 256 = core) && e.2.name != name && (e.2.hold.map Hold.arg2) == some postingMark) then 0
  else 16 - s.sbUsed core

/-- Posts a store of a process (04 R83): it reaches the fold translator in the cycle after it is posted, and it is posted
when it retires, in the cycle after its issue (04 R408, 05 R101). -/
def State.postStore (s : State) (p : Proc) (va size : Nat) (data : Word) (batch : Nat) : State :=
  let c := s.core p.core
  let e : SbEntry :=
    { id := c.sbNext, name := p.name, key := p.core * 256 + p.idx, va := va, size := size, data := data,
      pc := p.pc, level := p.level, gid := p.gid, asid := s.asidOf p, root := s.rootOf p, batch := batch }
  (s.putCore p.core { c with sb := c.sb ++ [e], sbNext := c.sbNext + 1 }).after 2 (.storeTranslate p.core c.sbNext)

end Sys2Proof.Machine
end

