-- ==== Sys2Proof/Machine/Ports.lean ====
section
/-! DEFINITION. Bound ports q0 to q3 (05 R109, R110; 07 R196, R214, R215). -/

namespace Sys2Proof.Machine

/-- What reading or writing a bound port finds (05 R110, 07 R215). -/
inductive PortHead where
  /-- The head element, or, for a write, room for a push. -/
  | elem (v : Word)
  /-- Nothing yet: the instruction waits. -/
  | empty
  /-- A trap with its value. -/
  | trap (cause : Nat) (eval : Word)
  /-- The instruction is ILLEGAL. -/
  | illegal
  deriving DecidableEq, Repr

/-- The handles under which a process holds ends of the channel whose receive end a ring queue of its fold backs (07 R196). -/
def State.queueEnds (s : State) (p : Proc) (num : Nat) : List Nat :=
  ((s.endsOf p.name).filter (fun e => epHeld e.2 && typKind e.2.typ == 0 && typQueued e.2.typ &&
    (if e.2.recv then e.2.rq == some num && foldOf (e.1 / 512) == foldOf p.core
     else
      let m := s.follow 64 e.2.peer
      ((s.ep (locKey m)).bind Ep.rq) == some num && foldOf m.core == foldOf p.core))).map (fun e => e.2.handle)

/-- The end behind a channel port (05 R109): that of the handle, or of the handle by which the process held the ring queue's channel when it
bound the port (07 R196), where it held both ends the one of the direction wanted. -/
def State.portEnd (s : State) (p : Proc) (x : Port) (write : Bool) : Option (Nat × Ep) :=
  if x.kind = 0 then s.handle p.name x.num
  else
    let es := x.ends.filterMap (s.handle p.name)
    match es.find? (fun e => e.2.recv == !write) with
    | some e => some e
    | none => es.head?

/-- The trap of a channel port on a DEAD end, or on a ring queue that is no longer in the fold (05 R110, 07 R196): EVAL is the handle. -/
def deadPort (x : Port) : PortHead := .trap 0x0B (BitVec.ofNat 64 (x.ends.headD x.num))

/-- What a source read of a bound port finds (05 R110, 07 R215). -/
def State.portHead (s : State) (p : Proc) (q : Nat) : PortHead :=
  let x := p.ports.toList.getD q {}
  if x.failed then deadPort x
  else
    match x.stream with
    | some st =>
      if st.write then .illegal
      else
        match st.buffer with
        | .val v :: _ => .elem v
        | .bad c va :: _ => .trap c va
        | [] => .empty
    | none =>
      match s.portEnd p x false with
      | none => .empty
      | some (_, e) =>
        if !e.recv then .trap 0x0A (BitVec.ofNat 64 (x.ends.headD x.num))
        else
          match (if typQueued e.typ then e.queue else e.offers) with
          | m :: _ => (match m.body with | .word v => .elem v | _ => .empty)
          | [] => if e.st = .dead then deadPort x else .empty

/-- Whether a push to a bound port can enter (05 R110): a credit, no push on its way, or room for a store. -/
def State.portRoom (s : State) (p : Proc) (q : Nat) : PortHead :=
  let x := p.ports.toList.getD q {}
  if x.failed then deadPort x
  else
    match x.stream with
    | some st =>
      if !st.write then .illegal else if s.sbRoom p.core p.name = 0 then .empty else .elem 0
    | none =>
      match s.portEnd p x true with
      | none => .empty
      | some (_, e) =>
        if e.recv then .trap 0x0A (BitVec.ofNat 64 (x.ends.headD x.num))
        else if e.st = .dead then .elem 0
        else if typQueued e.typ then (if e.pend = 0 then .empty else .elem 0)
        else if e.infl = 0 then .elem 0 else .empty

/-- The streamer asks for the elements it may read ahead, at most 16 beyond the next (07 R215). -/
def State.readAhead (s : State) (k q : Nat) (lat : Nat) : State :=
  match s.proc k with
  | none => s
  | some p =>
    let x := p.ports.toList.getD q {}
    match x.stream with
    | some st =>
      let upto := min (st.taken + 16) (streamTotal st)
      if st.write || decide (upto ≤ st.issued) then s
      else
        (List.range (upto - st.issued)).foldl (fun t i => t.after (lat + i) (.streamElement p.name q))
          (s.putProc k (p.putPort q { x with stream := some { st with issued := upto } }))
    | none => s

/-- The head element of a bound port is removed (05 R110, 07 R215). -/
def State.popPort (s : State) (k q : Nat) : State :=
  match s.proc k with
  | none => s
  | some p =>
    let x := p.ports.toList.getD q {}
    match x.stream with
    | some st =>
      if st.taken + 1 = streamTotal st then s.putProc k (p.unbind q)
      else
        (s.putProc k (p.putPort q { x with stream := some { st with taken := st.taken + 1, buffer := st.buffer.drop 1 } })).readAhead k q 8
    | none =>
      match s.portEnd p x false with
      | none => s
      | some (ke, e) =>
        if typQueued e.typ then
          -- a buffered end whose death was held is DEAD once it is empty (07 R191)
          s.takeHead ke { e with st := if e.dying && decide (e.queue.length ≤ 1) then .dead else e.st }
        else
          match e.offers with
          | m :: _ => s.takeOffer ke e m (s.cycle + 1)
          | [] => s

/-- A push that no producer is ahead of (05 R110): a store of a write stream, or a message of the channel. A push that cannot be
delivered is discarded, and the port's next use traps. -/
def State.rawPush (s : State) (k q : Nat) (v : Word) : State :=
  match s.proc k with
  | none => s
  | some p =>
    let x := p.ports.toList.getD q {}
    match x.stream with
    | some st =>
      let t := (s.postStore p (streamAddr st st.taken).toNat st.size (BitVec.ofNat 64 (v.toNat % 2 ^ (8 * st.size))) 0).modCore p.core
        (fun c => { c with sb := c.sb.map (fun e => if e.id + 1 = c.sbNext then { e with push := true } else e) })
      if st.taken + 1 = streamTotal st then t.putProc k (p.unbind q)
      else t.putProc k (p.putPort q { x with stream := some { st with taken := st.taken + 1 } })
    | none =>
      match s.portEnd p x true with
      | some (ke, e) =>
        if e.st = .dead || e.recv then s.putProc k (p.putPort q { x with failed := true })
        else
          let m : Msg := { src := locOf ke e, sender := p.name, tid := none, tile := none, body := .word v, at0 := s.cycle }
          let way := s.oneway p.core e.peer.core
          if typQueued e.typ then
            (s.putEp ke { e with pend := e.pend - 1, infl := e.infl + 1 }).after way (.messageEnqueue e.peer m)
          else
            -- a rendezvous push is complete once it is matched: the process waits for it (05 R110)
            ((s.putEp ke { e with infl := e.infl + 1 }).park k (.reg (8 + q))).after way (.offerArrival e.peer m)
      | none => s.putProc k (p.putPort q { x with failed := true })

/-- A push behind those that a long-latency producer holds waits for them; any other enters (05 R110). -/
def State.pushPort (s : State) (k q : Nat) (v : Word) : State :=
  match s.proc k with
  | none => s
  | some p =>
    let x := p.ports.toList.getD q {}
    if x.held.isEmpty then s.rawPush k q v else s.putProc k (p.putPort q { x with held := x.held ++ [(0, some v)] })

end Sys2Proof.Machine
end

