-- ==== Sys2Proof/Machine/Ops.lean ====
section
/-! DEFINITION. The named operations that end an instruction: retirement, long-latency producers, the posts of ONCE,
taking an exception, returning from one, and running a meaning on the process that issues. -/

namespace Sys2Proof.Machine

/-! ### Retirement -/

/-- The prefix words of the group in progress (03 R53). -/
def Proc.prefixed (p : Proc) : Nat := p.pfx.length + bitOf p.onceOn

/-- The address of the word being executed: behind the prefix words of its group (03 R53). -/
def Proc.wordPc (p : Proc) : BitVec 16 := p.pc + BitVec.ofNat 16 (4 * p.prefixed)

/-- The address after a word within the ISTORE (03 R49), or the next captured word of an open VREP frame (09 R271). -/
def Proc.advance (p : Proc) : Proc :=
  if p.vact then
    let n := p.vrep.length
    let replays := p.vrepWord.toNat / 2 ^ 16 % 64 + 1
    if p.vword + 1 < n then { p with vword := p.vword + 1, pc := p.pc + 4 }
    else if p.vrepn + 1 < replays then
      { p with vword := 0, vrepn := p.vrepn + 1, pc := p.pc - BitVec.ofNat 16 (4 * (n - 1)) }
    else { p with vact := false, vrep := [], vword := 0, vrepn := 0, pc := p.pc + 4 }
  else { p with pc := p.wordPc + 4 }

/-- Closes the prefix group of a process (03 R53). -/
def Proc.endGroup (p : Proc) : Proc := { p with pfx := [], onceOn := false, hold := none, made := 0 }

/-- Retirement in a process (03 R51): the consume marks first, then the writes, then the program counter. A write of a
bound port leaves the register as it is: it is a push (05 R110). -/
def Proc.retire (p : Proc) (consume : BitVec 16) (ws : List (Reg × Word)) : Proc :=
  (ws.foldl (fun q w => if (p.portOf w.1).isSome then q else q.setReg w.1 w.2) (p.consumeRegs consume)).advance.endGroup

/-- The bound ports that a retiring instruction has read lose their head elements (05 R110). -/
def State.popAll (s : State) (k : Nat) (p : Proc) (consume : BitVec 16) : State :=
  (List.range 4).foldl (fun t q =>
    if consume.getLsbD (8 + q) && (p.portOf (BitVec.ofNat 4 (8 + q))).isSome then t.popPort k q else t) s

/-- The writes that name bound ports are pushed (05 R110). -/
def State.pushAll (s : State) (k : Nat) (p : Proc) (ws : List (Reg × Word)) : State :=
  ws.foldl (fun t w => if (p.portOf w.1).isSome then t.pushPort k (w.1.toNat - 8) w.2 else t) s

/-- The live processes of a group. -/
def State.members (s : State) (gid : Nat) : List (Nat × Proc) :=
  s.procs.filter (fun e => e.2.gid == gid)

/-- The live members of a gang: processes spawned into its group later are none (06 R155). -/
def State.gangMembers (s : State) (gid : Nat) : List (Nat × Proc) := (s.members gid).filter (fun e => e.2.gang.isSome)

/-- Posts the result of the elected member's n-th ONCE to every other live member (03 R55). A member that has issued its
own n-th ONCE takes it as a fill after the way between the cores; for any other it waits. -/
def State.post (s : State) (self : Proc) (n : Nat) (v : Word) : State :=
  (s.gangMembers self.gid).foldl (fun t e =>
    if e.2.name = self.name then t
    else
      match e.2.onceWait.find? (fun w => w.1 == n) with
      | some w =>
        (t.modProc e.1 (fun q => { q with onceWait := q.onceWait.filter (fun x => x.1 != n) })).after
          (s.oneway self.core e.2.core) (.fill ⟨e.2.name, w.2.1, w.2.2⟩ v)
      | none => t.modProc e.1 (fun q => { q with posts := q.posts ++ [(n, v)] })) s

/-- The ONCE of a retiring group is counted, and its result posted when it has one already (03 R55). -/
def State.onceDone (s : State) (k : Nat) (p : Proc) (ws : List (Reg × Word)) : State :=
  if p.onceOn && p.gang.isSome then
    let t := s.modProc k (fun q => { q with onceCnt := (q.onceCnt + 1) % 256 })
    match ws with
    | (_, v) :: _ => t.post p ((p.onceCnt + 1) % 256) v
    | [] => t
  else s

/-- An XWR that waits for a register of a process writes it in the cycle after the register's emptying retires (05 Table 5.2). -/
def State.offerXwr (s : State) (k : Nat) : State :=
  match s.proc k with
  | some p =>
    (s.xwrs.filter (fun x => x.core == p.core && x.slot == p.slot && x.target == p.name &&
      !p.full x.reg && !(p.cell x.reg).pend)).foldl (fun t x => t.atCycle (p.doneAt + 1) (.xwrWrite x)) s
  | none => s

/-- A process with the cycle in which its instruction retires: the one after its issue, or, if it has waited, the one in which its wait ends
(05 R101); and with the registers that the retirement writes and those it empties (05 Table 5.2). -/
def Proc.markRetired (p q : Proc) (now : Nat) (consume : BitVec 16) (ws : List (Reg × Word)) : Proc :=
  { q with doneAt := if p.hold.isSome then now else now + 1,
           wrote := ws.foldl (fun m w => m ||| regBit w.1) p.made, emptied := consume }

/-- Retirement of the instruction of a process: consume marks, writes, program counter, the posts of a ONCE, the heads of
the ports read and the pushes to ports written. -/
def State.retire (s : State) (k : Nat) (consume : BitVec 16) (ws : List (Reg × Word)) : State :=
  match s.proc k with
  | some p =>
    ((((s.putProc k (p.markRetired (p.retire consume ws) s.cycle consume ws)).onceDone k p ws).popAll k p consume).pushAll k p ws).offerXwr k
  | none => s

/-- A new long-latency producer of a register issues for a process, its value to come under a tag (05 R104); under ONCE that value is to be
posted, and an earlier attempt of the same ONCE no longer counts (03 R55). -/
def State.produceAs (s : State) (k : Nat) (r : Reg) (tag : BitVec 2) : State :=
  match s.proc k with
  | some p =>
    let t := s.putProc k
      (match p.portOf r with
       | some q => p.putPort (r.toNat - 8) { q with held := q.held ++ [(tag, none)] } |>.produce r
       | none => p.produce r)
    if p.onceOn && p.gang.isSome then
      let n := (p.onceCnt + 1) % 256
      { t with onceDue := t.onceDue.filter (fun o => !(o.1 == p.name && o.2.1 == r && o.2.2.2 == n)) ++ [(p.name, r, tag, n)] }
    else t
  | none => s

/-- A new long-latency producer of a register issues for a process (05 R104). -/
def State.produce (s : State) (k : Nat) (r : Reg) : State :=
  match s.proc k with
  | some p => s.produceAs k r (p.nextTag r)
  | none => s

/-- Where the value of a new producer is to be filled. -/
def Proc.dest (p : Proc) (r : Reg) : FillTo := ⟨p.name, r, p.nextTag r⟩

/-! ### Exceptions (05 R132 to R134) -/

/-- The trap causes of Table 3.16. -/
def causeIllegal : Nat := 0x01
def causePriv : Nat := 0x02
def causeMisalign : Nat := 0x03
def causeLoadFault : Nat := 0x04
def causeStoreFault : Nat := 0x05
def causeWindowNak : Nat := 0x06
def causeEmpty : Nat := 0x07
def causeFutureEmpty : Nat := 0x08
def causeChanType : Nat := 0x09
def causeChanRights : Nat := 0x0A
def causeChanDead : Nat := 0x0B
def causeNoUnit : Nat := 0x0C
def causeTileNan : Nat := 0x0D
def causeTapeFull : Nat := 0x0E
def causeTapeStale : Nat := 0x0F
def causeAllot : Nat := 0x10
def causePeerFail : Nat := 0x12
def causeUnsup : Nat := 0x13
def causeBundleStale : Nat := 0x14
def causeEngine : Nat := 0x15
def causeTrapInsn : Nat := 0x16
def causeSyscall : Nat := 0x17
def causeBreak : Nat := 0x18
def causeDeadline : Nat := 0x19

/-- The fields of UTV (05 Table 5.13). -/
def utvEn (u : Word) : Bool := u.getLsbD 0
def utvAct (u : Word) : Bool := u.getLsbD 1
def utvHandler (u : Word) : BitVec 16 := u.extractLsb' 0 16 &&& 0xFFFC
def utvNanu (u : Word) : Bool := u.getLsbD 16

/-- The causes delivered at UTV (05 R133). -/
def userCause (p : Proc) (cause : Nat) : Bool :=
  cause == causeEmpty || cause == causeFutureEmpty || cause == causeTrapInsn || (cause == causeTileNan && utvNanu p.utv)

/-- The address a trap of the current instruction reports: that of its first prefix word (03 R53, 05 R132). -/
def Proc.trapPc (p : Proc) : BitVec 16 := p.pc

/-- The supervisor of a group: a live process's name, or 0 (06 R168). -/
def State.supervisorOf (s : State) (gid : Nat) : Nat :=
  match s.group? gid with
  | some g => if (s.keyOf g.supervisor).isSome then g.supervisor else 0
  | none => 0

/-- The notification of a trapped process (06 R164). -/
def notification (p : Proc) : Word :=
  BitVec.ofNat 64 (p.gid * 2 ^ 48 + p.ecause.toNat * 2 ^ 40 + p.name)

/-- The notification of a trapped process sets out for its supervisor, behind those of earlier traps (06 R164). -/
def State.queueNote (s : State) (p : Proc) (way : Nat) : State :=
  { s with heldNotes := s.heldNotes ++ [(s.supervisorOf p.gid, notification p)] }.after way (.notificationDelivery p.name)

/-- Delivery to the supervisor (05 R134): the cause, the return address and the value are written, the process is TRAPPED,
and its notification sets out for the supervisor (06 R164). -/
def State.deliverToSupervisor (s : State) (k : Nat) (p : Proc) (cause : Nat) (eval : Word) (epc : BitVec 16) : State :=
  let q := { p.endGroup with
    st := .trapped, wait := .none, ecause := BitVec.ofNat 8 cause, epc := epc, pc := epc, eval := eval, deadline := 0,
    vcheck := p.vact }
  let way := match s.named (s.supervisorOf p.gid) with
    | some (_, r) => s.oneway p.core r.core
    | none => 1
  (s.putProc k q).queueNote q way

/-- Taking an exception (05 R133, R134): a user-level cause enters the handler of UTV if that is enabled and not active;
every other goes to the supervisor. -/
def State.raiseAt (s : State) (k : Nat) (cause : Nat) (eval : Word) (epc : BitVec 16) : State :=
  match s.proc k with
  | none => s
  | some p =>
    -- a store fault has stopped the process before its instruction ended (04 R85)
    if p.st = .trapped then s.putProc k { p.dropHold.endGroup with wait := .none, pc := epc, epc := epc }
    else if userCause p cause && utvEn p.utv && !utvAct p.utv then
      (s.putProc k { p.endGroup with
        epc := epc, ecause := BitVec.ofNat 8 cause, eval := eval, utv := p.utv ||| 2, pc := utvHandler p.utv,
        st := .resident, wait := .none, vact := false }).awake p
    else s.deliverToSupervisor k p cause eval epc

/-- Taking an exception at the current instruction (05 R132). -/
def State.raise (s : State) (k : Nat) (cause : Nat) (eval : Word) : State :=
  match s.proc k with
  | some p => s.raiseAt k cause eval p.trapPc
  | none => s

/-- The instruction word at the program counter of a process, as ILLEGAL and other causes report it (03 Table 3.16); within a VREP
frame the captured word as it stood (09 R272; log 13). -/
def State.word (s : State) (p : Proc) : Word :=
  if p.vact then (p.vrep.getD p.vword 0).zeroExtend 64 else BitVec.ofNat 64 (readLe s.mem (windowBase p.core + 0x120000 + p.wordPc.toNat) 4)

/-- A cause whose EVAL is the offending word (03 Table 3.16). -/
def State.raiseWord (s : State) (k : Nat) (cause : Nat) : State :=
  match s.proc k with
  | some p => s.raise k cause (s.word p)
  | none => s

/-- ILLEGAL at the current instruction (03 R59). -/
def State.illegal (s : State) (k : Nat) : State := s.raiseWord k causeIllegal

/-- Returning from a user trap (05 R129 ERET): the program counter comes from EPC, and the handler is no longer active. -/
def Proc.eret (p : Proc) : Proc := { p.endGroup with pc := p.epc &&& 0xFFFC, utv := p.utv &&& ~~~(2 : Word) }

/-- Whether an issuer may act on a group: it is at M, or it is the group's supervisor (06 R161). -/
def State.supervises (s : State) (p : Proc) (gid : Nat) : Bool :=
  match s.group? gid with
  | some g => g.supervisor == p.name
  | none => false

/-- The failure word of a code (06 R152). -/
def failWord (code : Nat) : Word := BitVec.ofNat 64 (2 ^ 63 + code)

/-! ### The executing process -/

/-- Runs a meaning on the process that is issuing. -/
def onCur (s : State) (f : Nat → Proc → State) : Host.Outcome State Fault Refusal :=
  match s.cur with
  | some k => match s.proc k with
    | some p => .next (f k p)
    | none => .fault .noProcess
  | none => .fault .noProcess

end Sys2Proof.Machine
end

