-- ==== Sys2Proof/Machine/Operands.lean ====
section
/-! DEFINITION. Operand forms: g-register sources with their T and K bits (03 R50, R51, R60), bound ports (05 R110),
immediates under PFX (03 R54), and branch targets (03 R49). -/

namespace Sys2Proof.Machine

/-- A source field: its register, T and K, and the number EMPTY reports for it: 0 a, 1 b, 2 c, 3 data (03 R60). -/
structure Field where
  reg : Reg
  t : Bool
  k : Bool
  ix : Nat
  deriving DecidableEq, Repr

/-- A mode-bearing source as a field (03 R50). -/
def srcField (x : Src) (ix : Nat) : Field := ⟨x.reg, x.mode.getLsbD 1, x.mode.getLsbD 0, ix⟩

/-- A source without mode bits, read as with mode 0b00. -/
def plainField (r : Reg) (ix : Nat) : Field := ⟨r, false, false, ix⟩

/-- What reading the sources of an instruction gives (03 R60 step 4). -/
inductive Reads where
  /-- Every source is there: the values in field order, and the registers that retirement consumes or, for ports, pops. -/
  | ok (vals : List Word) (consume : BitVec 16)
  /-- A field with T = 1 names an empty register: EMPTY with this value. -/
  | empty (eval : Word)
  /-- A source is empty and no field traps: the process waits for this register. -/
  | wait (r : Reg)
  /-- A port traps (05 R110, 07 R215): the cause and its value. -/
  | trap (cause : Nat) (eval : Word)
  /-- A port is read or written against its direction (07 R215). -/
  | illegal
  deriving DecidableEq, Repr

/-- Whether a source is there, and its value. -/
def State.source (s : State) (p : Proc) (r : Reg) : PortHead :=
  match p.portOf r with
  | some _ => s.portHead p (r.toNat - 8)
  | none => if p.full r then .elem (p.reg r) else .empty

/-- Whether a register can be written: a port needs room for the push. -/
def State.sink (s : State) (p : Proc) (r : Reg) : PortHead :=
  match p.portOf r with
  | some _ => s.portRoom p (r.toNat - 8)
  | none => .elem 0

/-- Whether a port traps. -/
def PortHead.traps : PortHead → Bool
  | .trap _ _ => true
  | _ => false

/-- The value of a port's head or of a full register. -/
def PortHead.value : PortHead → Word
  | .elem v => v
  | _ => 0

/-- The registers that fields consume, and the bound ports they pop (03 R51, 05 R110). -/
def consumeMask (p : Proc) (fs : List Field) : BitVec 16 :=
  fs.foldl (fun m f => if f.k || (p.portOf f.reg).isSome then m ||| regBit f.reg else m) 0

/-- Reads the sources of an instruction, and checks the ports among the registers it writes, in the order of R60: a port used against its
direction is ILLEGAL, then comes EMPTY, then the wait, and last the trap of a port (03 R50, R51, R60; 05 R110). -/
def State.readFields (s : State) (p : Proc) (fs : List Field) (dsts : List Reg) : Reads :=
  let heads := fs.map (fun f => (f, s.source p f.reg))
  let ports := (dsts.map (s.sink p)) ++ (heads.map Prod.snd)
  if ports.any (fun h => h == .illegal) then .illegal
  else
    match heads.find? (fun h => h.1.t && h.2 == .empty) with
    | some (f, _) => .empty (BitVec.ofNat 64 (f.ix * 16 + f.reg.toNat))
    | none =>
      match heads.find? (fun h => h.2 == .empty) with
      | some (f, _) => .wait f.reg
      | none =>
        match ports.find? PortHead.traps with
        | some (.trap c v) => .trap c v
        | _ => .ok (heads.map (fun h => h.2.value)) (consumeMask p fs)

/-- Registers whose port cannot take a push yet (05 R110). -/
def State.cannotWrite (s : State) (p : Proc) (dsts : List Reg) : Option Reg := dsts.find? (fun r => s.sink p r == .empty)

/-- Reads the sources of an instruction (03 R60 step 4) and, when every one is there, goes on with their values. The
process traps, or waits to try the instruction again, otherwise. -/
def State.issue (s : State) (k : Nat) (p : Proc) (fs : List Field) (dsts : List Reg)
    (go : List Word → BitVec 16 → State) : State :=
  match s.readFields p fs dsts with
  | .trap c v => s.raise k c v
  | .illegal => s.illegal k
  | .empty v => s.raise k causeEmpty v
  | .wait r => s.waitReg k r
  | .ok vals c =>
    match s.cannotWrite p dsts with
    | some r => s.park k (.reg r.toNat)
    | none => go vals c

/-- A destination of a long-latency producer: a fourth producer waits until one of three is done (06 R139). -/
def State.issueFill (s : State) (k : Nat) (p : Proc) (fs : List Field) (d : Reg)
    (go : List Word → BitVec 16 → State) : State :=
  s.issue k p fs (if d = 0 then [] else [d]) (fun vals c =>
    if d ≠ 0 ∧ 3 ≤ (p.cell d).out then s.park k (.reg d.toNat) else go vals c)

/-- An instruction that computes one result from two sources and retires (05 R112 and others). -/
def State.compute2 (s : State) (k : Nat) (p : Proc) (d : Reg) (a b : Src) (f : Word → Word → Word) : State :=
  s.issue k p [srcField a 0, srcField b 1] [d] (fun vals c => s.retire k c [(d, f (vals.getD 0 0) (vals.getD 1 0))])

/-- An instruction that computes one result from one source and retires. -/
def State.compute1 (s : State) (k : Nat) (p : Proc) (d : Reg) (a : Src) (f : Word → Word) : State :=
  s.issue k p [srcField a 0] [d] (fun vals c => s.retire k c [(d, f (vals.getD 0 0))])

/-! ### Immediates and targets -/

/-- An immediate sign-extended to 64 bits. -/
def sext {n : Nat} (x : BitVec n) : Word := x.signExtend 64

/-- An immediate zero-extended to 64 bits. -/
def zext {n : Nat} (x : BitVec n) : Word := x.zeroExtend 64

/-- The immediate that PFX payloads and imm16 assemble, and its width (03 R54): imm16 alone, one payload above it, or two. -/
def assembled (pfx : List (BitVec 16)) (i : BitVec 16) : Word × Nat :=
  match pfx with
  | [] => (zext i, 16)
  | [x] => (zext (x ++ i), 32)
  | x :: y :: _ => (zext (x ++ y ++ i), 48)

/-- The immediate of ADDI and MULI: sign-extended from its highest assembled bit (03 R54). -/
def signedImm (pfx : List (BitVec 16)) (i : BitVec 16) : Word :=
  match pfx with
  | [] => sext i
  | [x] => sext (x ++ i)
  | x :: y :: _ => sext (x ++ y ++ i)

/-- The immediate of ANDI, ORI and XORI: zero-extended (03 R54). -/
def unsignedImm (pfx : List (BitVec 16)) (i : BitVec 16) : Word := (assembled pfx i).1

/-- A branch target: an offset in words from the branch word, modulo the ISTORE (03 R49). -/
def target {n : Nat} (pc : BitVec 16) (o : BitVec n) : BitVec 16 := pc + (o.signExtend 16 <<< 2)

/-- A retiring instruction that goes to an address (05 R126, R127), which also writes registers. -/
def State.retireTo (s : State) (k : Nat) (consume : BitVec 16) (ws : List (Reg × Word)) (pc : BitVec 16) : State :=
  (s.retire k consume ws).modProc k (fun q => { q with pc := pc })

/-- A register-indirect target (03 R49): misaligned raises MISALIGN, beyond the ISTORE LOAD_FAULT. DESIGN CHOICE (log 47): one that is both raises
MISALIGN; the spec gives no order. -/
def State.jumpTo (s : State) (k : Nat) (consume : BitVec 16) (ws : List (Reg × Word)) (t : Word) : State :=
  if t.toNat % 4 ≠ 0 then s.raise k causeMisalign t
  else if 0x10000 ≤ t.toNat then s.raise k causeLoadFault t
  else s.retireTo k consume ws (BitVec.ofNat 16 t.toNat)

end Sys2Proof.Machine
end

