-- ==== Sys2Proof/Machine/Flags.lean ====
section
/-! DEFINITION. The IEEE exception flags of FFLAGS (02 Table 2.7) and the rounding modes (02 R35, Table 2.4). -/

namespace Sys2Proof.Machine

/-- Exception flags as FFLAGS holds them: NV, DZ, OF, UF, NX from bit 4 down (02 Table 2.7). -/
abbrev FlagSet := BitVec 5

def flagNV : FlagSet := 16
def flagDZ : FlagSet := 8
def flagOF : FlagSet := 4
def flagUF : FlagSet := 2
def flagNX : FlagSet := 1

/-- A flag when a condition holds. -/
def flagIf (c : Bool) (f : FlagSet) : FlagSet := if c then f else 0

/-- The rounding modes of 02 R35. Stochastic rounding carries the seed of the element it rounds (R36). -/
inductive Rnd where
  | rne | rtz | rdn | rup | rna
  | sr (seed : Nat)
  deriving DecidableEq, Repr

/-- The mode that RMODE names (02 Table 2.4); 5, SR, rounds by RNE wherever a result has no seed of its own (R35). -/
def rndOf (rmode : Nat) : Rnd :=
  match rmode with
  | 1 => .rtz
  | 2 => .rdn
  | 3 => .rup
  | 4 => .rna
  | _ => .rne

/-- One step of the stochastic-rounding seed (02 R36 StepSeed). -/
def stepSeed (z : BitVec 32) : BitVec 32 :=
  let z0 := if z = 0 then 0x9E3779B9 else z
  let z1 := z0 ^^^ (z0 <<< 13)
  let z2 := z1 ^^^ (z1 >>> 17)
  z2 ^^^ (z2 <<< 5)

end Sys2Proof.Machine
end

