-- ==== Sys2Proof/Machine/Float.lean ====
section
/-! DEFINITION. Number formats and rounding (file 02): decoding to exact values, exact arithmetic on numbers m * 2^e,
and one rounding into a format. -/

namespace Sys2Proof.Machine

/-- How a format departs from 02 R25 at its top exponent. -/
inductive FKind where
  | ieee
  /-- FP8 E4M3: finite up to 448, one NaN magnitude, no infinity (02 R27). -/
  | e4m3
  /-- FP4 E2M1: every code finite (02 R29). -/
  | e2m1
  deriving DecidableEq, Repr

/-- A binary floating-point format: exponent bits, fraction bits and kind (02 R25, Table 2.2). -/
structure Fmt where
  eb : Nat
  mb : Nat
  kind : FKind
  deriving DecidableEq, Repr

def fp64 : Fmt := ⟨11, 52, .ieee⟩
def fp32 : Fmt := ⟨8, 23, .ieee⟩
def fp16 : Fmt := ⟨5, 10, .ieee⟩
def bf16 : Fmt := ⟨8, 7, .ieee⟩
def fp8e5m2 : Fmt := ⟨5, 2, .ieee⟩
def fp8e4m3 : Fmt := ⟨4, 3, .e4m3⟩
def fp4e2m1 : Fmt := ⟨2, 1, .e2m1⟩

/-- The exponent of the smallest normal, 1 - B (02 R25). -/
def Fmt.emin (f : Fmt) : Int := 2 - 2 ^ (f.eb - 1)

/-- The bits of an element. -/
def Fmt.width (f : Fmt) : Nat := 1 + f.eb + f.mb

/-- The weight of the sign bit. -/
def Fmt.signBit (f : Fmt) : Nat := 2 ^ (f.eb + f.mb)

/-- The magnitude code of the largest finite value (02 Table 2.2). -/
def Fmt.maxMag (f : Fmt) : Nat :=
  match f.kind with
  | .ieee => (2 ^ f.eb - 1) * 2 ^ f.mb - 1
  | .e4m3 => 0x7E
  | .e2m1 => 7

/-- The magnitude code of infinity, for the formats that have one. -/
def Fmt.infMag (f : Fmt) : Nat := (2 ^ f.eb - 1) * 2 ^ f.mb

/-- The canonical NaN (02 Table 2.2); FP4 has none and takes +0 (R34). -/
def Fmt.nan (f : Fmt) : Nat :=
  match f.kind with
  | .ieee => f.infMag + 2 ^ (f.mb - 1)
  | .e4m3 => 0x7F
  | .e2m1 => 0

/-- A decoded value: a NaN (signalling or not), an infinity, or the finite number (-1)^neg * mant * 2^exp. -/
inductive FVal where
  | nan (sig : Bool)
  | inf (neg : Bool)
  | fin (neg : Bool) (mant : Nat) (exp : Int)
  deriving DecidableEq, Repr

/-- The value of an encoding (02 R25, R27, R29). -/
def Fmt.decode (f : Fmt) (c : Nat) : FVal :=
  let mag := c % f.signBit
  let neg := decide (c / f.signBit % 2 = 1)
  let ex := mag / 2 ^ f.mb
  let fr := mag % 2 ^ f.mb
  let finite : FVal :=
    if ex = 0 then .fin neg fr (f.emin - f.mb) else .fin neg (2 ^ f.mb + fr) (f.emin - f.mb + (ex - 1 : Nat))
  match f.kind with
  | .ieee =>
    if ex = 2 ^ f.eb - 1 then (if fr = 0 then .inf neg else .nan (decide (fr < 2 ^ (f.mb - 1)))) else finite
  | .e4m3 => if mag = 0x7F then .nan false else finite
  | .e2m1 => finite

/-- The code of a value given by sign and magnitude code. -/
def Fmt.code (f : Fmt) (neg : Bool) (mag : Nat) : Nat := (if neg then f.signBit else 0) + mag

def FVal.isNan : FVal → Bool
  | .nan _ => true
  | _ => false
def FVal.isSig : FVal → Bool
  | .nan x => x
  | _ => false
def FVal.isInf : FVal → Bool
  | .inf _ => true
  | _ => false
def FVal.isZero : FVal → Bool
  | .fin _ 0 _ => true
  | _ => false
def FVal.isFinite : FVal → Bool
  | .fin _ _ _ => true
  | _ => false
def FVal.isNeg : FVal → Bool
  | .nan _ => false
  | .inf n => n
  | .fin n _ _ => n
def FVal.negate : FVal → FVal
  | .nan x => .nan x
  | .inf n => .inf (!n)
  | .fin n m e => .fin (!n) m e

/-! ### Exact numbers m * 2^e -/

/-- An exact number m * 2^e. -/
structure Dy where
  m : Int
  e : Int
  deriving DecidableEq, Repr

def Dy.zero : Dy := ⟨0, 0⟩

def Dy.add (x y : Dy) : Dy :=
  if x.e ≤ y.e then ⟨x.m + y.m * 2 ^ (y.e - x.e).toNat, x.e⟩ else ⟨x.m * 2 ^ (x.e - y.e).toNat + y.m, y.e⟩

def Dy.mul (x y : Dy) : Dy := ⟨x.m * y.m, x.e + y.e⟩

def Dy.neg (x : Dy) : Dy := ⟨-x.m, x.e⟩

/-- The number times a power of two. -/
def Dy.scale (x : Dy) (k : Int) : Dy := ⟨x.m, x.e + k⟩

/-- The exact number of a finite value; 0 for the others. -/
def FVal.dy : FVal → Dy
  | .fin n m e => ⟨if n then -(m : Int) else m, e⟩
  | _ => Dy.zero

/-- Whether x is less than y. -/
def Dy.lt (x y : Dy) : Bool := decide ((x.add y.neg).m < 0)

/-- A sum of exact numbers. -/
def Dy.sum (xs : List Dy) : Dy := xs.foldl Dy.add Dy.zero

/-! ### Rounding -/

/-- Whether a kept integer goes up by one, given twice the remainder's place against the last kept bit: `rem` of `unit`,
with something more below it when `sticky` (02 R35, R36). -/
def roundUp (mode : Rnd) (neg : Bool) (kept rem unit : Nat) (sticky : Bool) : Bool :=
  let inexact := decide (rem ≠ 0) || sticky
  match mode with
  | .rtz => false
  | .rdn => neg && inexact
  | .rup => !neg && inexact
  | .rne => decide (unit < 2 * rem) || (decide (unit = 2 * rem) && (sticky || decide (kept % 2 = 1)))
  | .rna => decide (unit ≤ 2 * rem)
  | .sr seed => decide (seed < rem * 2 ^ 32 / unit)

/-- A magnitude m * 2^e rounded to a multiple of 2^q: the multiple, and whether it is inexact. -/
def roundAt (mode : Rnd) (neg : Bool) (m : Nat) (e q : Int) (sticky : Bool) : Nat × Bool :=
  if q ≤ e then (m * 2 ^ (e - q).toNat, sticky)
  else
    let unit := 2 ^ (q - e).toNat
    let kept := m / unit
    let rem := m % unit
    (kept + (if roundUp mode neg kept rem unit sticky then 1 else 0), decide (rem ≠ 0) || sticky)

/-- The result of an overflow (02 Table 2.6). -/
def Fmt.overflow (f : Fmt) (mode : Rnd) (neg : Bool) (nov : Bool) : Nat :=
  match f.kind with
  | .e4m3 => if nov then f.nan else f.code neg f.maxMag
  | .e2m1 => f.code neg f.maxMag
  | .ieee =>
    match mode with
    | .rtz => f.code neg f.maxMag
    | .rup => f.code neg (if neg then f.maxMag else f.infMag)
    | .rdn => f.code neg (if neg then f.infMag else f.maxMag)
    | _ => f.code neg f.infMag

/-- The magnitude code of r * 2^q, r at most 2^(mb+1), where q is the quantum of a normal or of the subnormals. -/
def Fmt.magOf (f : Fmt) (r : Nat) (q : Int) : Nat :=
  if r < 2 ^ f.mb then r else (q - (f.emin - f.mb)).toNat * 2 ^ f.mb + r

/-- A non-zero magnitude m * 2^e, with something more below it when `sticky`, rounded once into a format: its code and the
flags (02 R35 to R39). `ftz` writes a subnormal result as zero (R40), `nov` is the NaN-on-overflow modifier (R37). -/
def Fmt.roundMag (f : Fmt) (mode : Rnd) (ftz nov : Bool) (neg : Bool) (m0 : Nat) (e0 : Int) (sticky : Bool) : Nat × FlagSet :=
  let m := m0 * 2 ^ (f.mb + 4)
  let e := e0 - (f.mb + 4 : Nat)
  let top : Int := e + m.log2
  let qn := top - f.mb
  let qs := f.emin - f.mb
  let q := if qn < qs then qs else qn
  let r0 := roundAt mode neg m e q sticky
  -- under SR a magnitude beyond the largest finite value is rounded as for RNE (R36)
  let beyond := match mode with
    | .sr _ => decide (f.maxMag < f.magOf (roundAt .rtz neg m e q sticky).1 q) ||
        (decide (f.maxMag = f.magOf (roundAt .rtz neg m e q sticky).1 q) && r0.2)
    | _ => false
  let mode' := if beyond then .rne else mode
  let r := if beyond then roundAt .rne neg m e q sticky else r0
  let mag := f.magOf r.1 q
  if f.maxMag < mag then (f.overflow mode' neg nov, flagOF ||| flagNX)
  else
    let u := roundAt mode neg m e qn sticky
    let tiny := decide (top < f.emin) && !(decide (top = f.emin - 1) && decide (u.1 = 2 ^ (f.mb + 1)))
    if ftz && decide (mag < 2 ^ f.mb) && decide (mag ≠ 0) then (f.code neg 0, flagUF ||| flagNX)
    else if ftz && tiny && decide (mag = 0) then (f.code neg 0, flagUF ||| flagNX)
    else (f.code neg mag, flagIf r.2 flagNX ||| flagIf (tiny && r.2) flagUF)

/-- An exact number rounded into a format; a zero takes the sign given (02 R406). -/
def Fmt.round (f : Fmt) (mode : Rnd) (ftz nov zneg : Bool) (x : Dy) : Nat × FlagSet :=
  if x.m = 0 then (f.code zneg 0, 0) else f.roundMag mode ftz nov (decide (x.m < 0)) x.m.natAbs x.e false

/-- The sign of an exact zero sum (02 R406): that of the zeros if every term is a zero of one sign, else that of the mode. -/
def zeroSign (mode : Rnd) (terms : List FVal) : Bool :=
  if terms.all (fun t => t.isZero && t.isNeg) then true
  else if terms.all (fun t => t.isZero && !t.isNeg) then false
  else mode == .rdn

/-- A subnormal operand read as zero under DAZ (02 R40). -/
def Fmt.daz (f : Fmt) (on : Bool) (v : FVal) : FVal :=
  match v with
  | .fin n m e => if on && f.kind == .ieee && decide (8 < f.width) && decide (m < 2 ^ f.mb) then .fin n 0 e else .fin n m e
  | w => w

/-- NV when an operand is a signalling NaN (02 R34). -/
def sigFlags (vs : List FVal) : FlagSet := flagIf (vs.any FVal.isSig) flagNV

/-- The exact product of two values: a NaN where it has none (with NV for 0 times infinity), else its value (05 R115). -/
def FVal.mulExact (x y : FVal) : FVal × FlagSet :=
  match x, y with
  | .nan _, _ => (.nan false, 0)
  | _, .nan _ => (.nan false, 0)
  | .inf n, .inf k => (.inf (n != k), 0)
  | .inf n, .fin k m _ => if m = 0 then (.nan false, flagNV) else (.inf (n != k), 0)
  | .fin n m _, .inf k => if m = 0 then (.nan false, flagNV) else (.inf (n != k), 0)
  | .fin n m e, .fin k l d => (.fin (n != k) (m * l) (e + d), 0)

/-- A sum of two values rounded once (05 R115, 02 R406). -/
def Fmt.addVals (f : Fmt) (mode : Rnd) (ftz : Bool) (x y : FVal) : Nat × FlagSet :=
  if x.isNan || y.isNan then (f.nan, sigFlags [x, y])
  else
    match x, y with
    | .inf a, .inf b => if a = b then (f.code a f.infMag, 0) else (f.nan, flagNV)
    | .inf a, _ => (f.code a f.infMag, 0)
    | _, .inf b => (f.code b f.infMag, 0)
    | _, _ => f.round mode ftz false (zeroSign mode [x, y]) (x.dy.add y.dy)

/-- An exact value that is not a sum, rounded once into a format (02 R34, R37); `quiet` says a quiet NaN raises NV too. -/
def Fmt.ofVal (f : Fmt) (mode : Rnd) (ftz nov quiet : Bool) (v : FVal) : Nat × FlagSet :=
  match v with
  | .nan sig => (f.nan, flagIf (sig || quiet || f.kind == .e2m1) flagNV)
  | .inf n => (if f.kind == .ieee then f.code n f.infMag else f.overflow mode n nov, 0)
  | .fin n m e => f.round mode ftz nov n ⟨if n then -(m : Int) else m, e⟩

def Fmt.add (f : Fmt) (mode : Rnd) (a b : Nat) : Nat × FlagSet := f.addVals mode false (f.decode a) (f.decode b)
def Fmt.sub (f : Fmt) (mode : Rnd) (a b : Nat) : Nat × FlagSet := f.addVals mode false (f.decode a) (f.decode b).negate

/-- A product rounded once. -/
def Fmt.mulVals (f : Fmt) (mode : Rnd) (ftz : Bool) (x y : FVal) : Nat × FlagSet :=
  let p := x.mulExact y
  let r := f.ofVal mode ftz false false p.1
  (r.1, r.2 ||| p.2 ||| sigFlags [x, y])

def Fmt.mul (f : Fmt) (mode : Rnd) (a b : Nat) : Nat × FlagSet := f.mulVals mode false (f.decode a) (f.decode b)

/-- A quotient rounded once (05 R115, 02 R39 for DZ). -/
def Fmt.div (f : Fmt) (mode : Rnd) (a b : Nat) : Nat × FlagSet :=
  let x := f.decode a
  let y := f.decode b
  let n := x.isNeg != y.isNeg
  if x.isNan || y.isNan then (f.nan, sigFlags [x, y])
  else
    match x, y with
    | .inf _, .inf _ => (f.nan, flagNV)
    | .inf _, _ => (f.code n f.infMag, 0)
    | _, .inf _ => (f.code n 0, 0)
    | .fin _ m e, .fin _ l d =>
      if l = 0 then (if m = 0 then (f.nan, flagNV) else (f.code n f.infMag, flagDZ))
      else if m = 0 then (f.code n 0, 0)
      else
        let k := f.mb + 4 + l.log2
        f.roundMag mode false false n (m * 2 ^ k / l) (e - d - (k : Nat)) (decide (m * 2 ^ k % l ≠ 0))
    | _, _ => (f.nan, 0)

/-- The integer square root, bit by bit from bit n - 1 of the root down. -/
def isqrtFrom (x : Nat) : Nat → Nat → Nat
  | 0, r => r
  | n + 1, r => if (r + 2 ^ n) * (r + 2 ^ n) ≤ x then isqrtFrom x n (r + 2 ^ n) else isqrtFrom x n r

/-- The integer square root. -/
def isqrt (x : Nat) : Nat := isqrtFrom x (x.log2 / 2 + 1) 0

/-- A square root rounded once; that of -0 is -0 (05 R116). -/
def Fmt.sqrt (f : Fmt) (mode : Rnd) (a : Nat) : Nat × FlagSet :=
  match f.decode a with
  | .nan sig => (f.nan, flagIf sig flagNV)
  | .inf n => if n then (f.nan, flagNV) else (f.code false f.infMag, 0)
  | .fin n m e =>
    if m = 0 then (f.code n 0, 0)
    else if n then (f.nan, flagNV)
    else
      let k := 2 * (f.mb + 4) + (if e % 2 = 0 then 0 else 1)
      let x := m * 2 ^ k
      let r := isqrt x
      f.roundMag mode false false false r ((e - (k : Nat)) / 2) (decide (r * r ≠ x))

/-- One fused product and sum, rounded once (05 R117). -/
def Fmt.fmaVals (f : Fmt) (mode : Rnd) (x y z : FVal) : Nat × FlagSet :=
  let p := x.mulExact y
  let fl := p.2 ||| sigFlags [x, y, z]
  if p.1.isNan || z.isNan then (f.nan, fl)
  else
    match p.1, z with
    | .inf a, .inf b => if a = b then (f.code a f.infMag, fl) else (f.nan, fl ||| flagNV)
    | .inf a, _ => (f.code a f.infMag, fl)
    | _, .inf b => (f.code b f.infMag, fl)
    | v, w =>
      let r := f.round mode false false (zeroSign mode [v, w]) (v.dy.add w.dy)
      (r.1, r.2 ||| fl)

/-- a * b + c with the product or the addend negated (05 R117). -/
def Fmt.fma (f : Fmt) (mode : Rnd) (negP negC : Bool) (a b c : Nat) : Nat × FlagSet :=
  let x := f.decode a
  let z := f.decode c
  f.fmaVals mode (if negP then x.negate else x) (f.decode b) (if negC then z.negate else z)

/-- Whether x is below y, with -0 below +0 (05 R116, the order of FMIN and FMAX); neither is a NaN. -/
def FVal.below (x y : FVal) : Bool :=
  match x, y with
  | .inf n, .inf k => n && !k
  | .inf n, _ => n
  | _, .inf k => !k
  | .fin n m e, .fin k l d =>
    if m = 0 ∧ l = 0 then n && !k else Dy.lt (FVal.fin n m e).dy (FVal.fin k l d).dy
  | _, _ => false

/-- Whether x is less than y in value; neither is a NaN. -/
def FVal.less (x y : FVal) : Bool := x.below y && !(x.isZero && y.isZero)

/-- Whether x and y are equal in value; neither is a NaN. -/
def FVal.same (x y : FVal) : Bool := !x.less y && !y.less x

/-- FMIN and FMAX (05 Table 5.6). -/
def Fmt.minmax (f : Fmt) (wantMax : Bool) (a b : Nat) : Nat × FlagSet :=
  let x := f.decode a
  let y := f.decode b
  let fl := sigFlags [x, y]
  if x.isNan && y.isNan then (f.nan, fl)
  else if x.isNan then (b, fl)
  else if y.isNan then (a, fl)
  else (if (if wantMax then x.below y else y.below x) then b else a, fl)

def Fmt.feq (f : Fmt) (a b : Nat) : Bool × FlagSet :=
  let x := f.decode a
  let y := f.decode b
  if x.isNan || y.isNan then (false, sigFlags [x, y]) else (x.same y, 0)

/-- FLT, and FLE when `orEq`: any NaN gives false and NV (05 Table 5.6, 02 R34). -/
def Fmt.flt (f : Fmt) (orEq : Bool) (a b : Nat) : Bool × FlagSet :=
  let x := f.decode a
  let y := f.decode b
  if x.isNan || y.isNan then (false, flagNV) else (x.less y || (orEq && x.same y), 0)

/-- FCLASS: the bit of the class (05 Table 5.6). -/
def Fmt.fclass (f : Fmt) (a : Nat) : Nat :=
  match f.decode a with
  | .nan sig => if sig then 8 else 9
  | .inf n => if n then 0 else 7
  | .fin n m _ =>
    if m = 0 then (if n then 3 else 4)
    else if m < 2 ^ f.mb then (if n then 2 else 5)
    else (if n then 1 else 6)

/-- An exact number rounded to an integer. -/
def Dy.toInteger (mode : Rnd) (x : Dy) : Int × Bool :=
  let r := roundAt mode (decide (x.m < 0)) x.m.natAbs x.e 0 false
  (if x.m < 0 then -(r.1 : Int) else r.1, r.2)

/-- A conversion to a two's complement integer of n bits (02 R38): the integer and the flags. -/
def FVal.toInteger (n : Nat) (mode : Rnd) (v : FVal) : Int × FlagSet :=
  let lo : Int := -(2 ^ (n - 1) : Int)
  let hi : Int := 2 ^ (n - 1) - 1
  match v with
  | .nan _ => (0, flagNV)
  | .inf neg => (if neg then lo else hi, flagNV)
  | .fin _ _ _ =>
    let r := v.dy.toInteger (match mode with | .sr _ => .rne | m => m)
    if r.1 < lo then (lo, flagNV) else if hi < r.1 then (hi, flagNV) else (r.1, flagIf r.2 flagNX)

/-- A conversion from an integer (02 R38). -/
def Fmt.ofInteger (f : Fmt) (mode : Rnd) (x : Int) : Nat × FlagSet := f.round mode false false false ⟨x, 0⟩

/-! ### MK8 (02 R31, R407) -/

/-- The leading zeros of a six-bit code, at most 5 for a non-zero one. -/
def mk8Zeros (c : Nat) : Nat := 5 - c.log2

/-- The value of an MK8 byte (02 R31). -/
def mk8Decode (b : Nat) : FVal :=
  let neg := decide (b / 128 % 2 = 1)
  let d := decide (b / 64 % 2 = 1)
  let c := b % 64
  if c = 0 then
    if d then .fin neg 1 6 else if neg then .nan false else .fin false 0 0
  else
    let k := mk8Zeros c
    let w := 5 - k
    let e : Int := if d then (k : Int) else -((k : Int) + 1)
    .fin neg (2 ^ w + c % 2 ^ w) (e - w)

/-- The fraction bits that MK8 keeps for magnitudes in [2^e, 2^(e+1)), on the grid extended by R407. -/
def mk8Frac (e : Int) : Nat :=
  if 0 ≤ e ∧ e ≤ 5 then 5 - e.toNat else if -6 ≤ e ∧ e ≤ -1 then 5 - (-e - 1).toNat else 0

/-- The byte magnitude, bits [6:0], of a representable MK8 magnitude (2^w + f) * 2^(e - w). -/
def mk8Mag (e : Int) (f : Nat) : Nat :=
  if 6 ≤ e then 0x40
  else if 0 ≤ e then 64 + 2 ^ (5 - e.toNat) + f
  else 2 ^ (5 - (-e - 1).toNat) + f

/-- Rounding to the neighbours lo and hi of a magnitude on a grid: whether it goes up; `loOdd` says the byte of `lo` is
odd and `tieUp` overrides a tie under RNE (02 R407). -/
def gridUp (mode : Rnd) (neg : Bool) (rem unit : Nat) (loOdd : Bool) : Bool :=
  match mode with
  | .rtz => false
  | .rdn => neg && decide (rem ≠ 0)
  | .rup => !neg && decide (rem ≠ 0)
  | .rne => decide (unit < 2 * rem) || (decide (unit = 2 * rem) && loOdd)
  | .rna => decide (unit ≤ 2 * rem) && decide (rem ≠ 0)
  | .sr seed => decide (seed < rem * 2 ^ 32 / unit)

/-- A non-zero magnitude rounded to MK8 (02 R37, R407): the byte and the flags. -/
def mk8RoundMag (mode : Rnd) (nov : Bool) (neg : Bool) (m0 : Nat) (e0 : Int) : Nat × FlagSet :=
  let m := m0 * 2 ^ 12
  let e := e0 - 12
  let top : Int := e + m.log2
  let sgn := if neg then 128 else 0
  if top < -6 then
    -- below 2^-6: the neighbours are 0 and 2^-6
    let unit := 2 ^ ((-6 : Int) - e).toNat
    let up := gridUp mode neg m unit false
    -- the tininess test rounds on the grid of powers of two below 2^-6; the neighbours of m there are 2^top, 2^(top+1),
    -- and 2^-7 counts as even beside 2^-6 = 0x01 (log 10)
    let low := 2 ^ m.log2
    let upTiny := gridUp mode neg (m - low) low false
    let tiny := !(decide (top = -7) && upTiny)
    (if up then sgn + 1 else 0, flagNX ||| flagIf tiny flagUF)
  else
    let w := mk8Frac top
    let q := top - w
    let unit := 2 ^ (q - e).toNat
    let kept := m / unit
    let rem := m % unit
    -- the byte of the lower neighbour; above 64 the grid of powers of two counts 64 as even (R407)
    let loByte := if 6 < top then 1 else mk8Mag top (kept % 2 ^ w)
    let loOdd := if top = 6 then false else decide (loByte % 2 = 1)
    -- under SR a magnitude above 64 is rounded as for RNE (R36)
    let mode' := match mode with
      | .sr _ => if (6 < top ∨ (top = 6 ∧ rem ≠ 0)) then Rnd.rne else mode
      | o => o
    let up := gridUp mode' neg rem unit loOdd
    let r := kept + (if up then 1 else 0)
    -- r * 2^q is the rounded magnitude
    let e' := if r = 2 ^ (w + 1) then top + 1 else top
    if 6 < e' then ((if nov then 0x80 else sgn + 0x40), flagOF ||| flagNX)
    else
      let frac := if e' = top then r % 2 ^ w else 0
      (sgn + mk8Mag e' frac, flagIf (decide (rem ≠ 0)) flagNX)

/-- A value rounded to MK8: one zero, NaR for a NaN (02 R31, R34, R37). -/
def mk8OfVal (mode : Rnd) (nov quiet : Bool) (v : FVal) : Nat × FlagSet :=
  match v with
  | .nan sig => (0x80, flagIf (sig || quiet) flagNV)
  | .inf n => (if nov then 0x80 else (if n then 128 else 0) + 0x40, 0)
  | .fin n m e => if m = 0 then (0, 0) else mk8RoundMag mode nov n m e

end Sys2Proof.Machine
end

