-- ==== Sys2Proof/Machine/Record.lean ====
section
/-! DEFINITION. What a package's bothy knows and keeps: features (12 R370), the event log (13 R402) and the life counters (13 R404). -/

namespace Sys2Proof.Machine

/-- The bothy of a package. -/
def State.pkg (s : State) (n : Nat) : Pkg := tgetD s.pkgs n {}
def State.modPkg (s : State) (n : Nat) (f : Pkg → Pkg) : State := { s with pkgs := tput s.pkgs n (f (s.pkg n)) }

/-- The bits of a feature word (12 Table 12.2). -/
def featFaddw : Nat := 33
def featFaddd : Nat := 34
def featReg : Nat := 35
def featPerm : Nat := 36
def featBnd : Nat := 37

/-- Whether a package has a feature. -/
def State.hasFeature (s : State) (pkg bit : Nat) : Bool := (s.pkg pkg).feature.getLsbD bit

/-- A peer entry for a package: V, PACKAGE and the feature bits of that package's feature word (12 Table 12.2). -/
def State.peerEntry (s : State) (b : Word) : Word :=
  let pkg := (b.extractLsb' 48 12).toNat
  let feats := if s.packages.contains pkg then (s.pkg pkg).feature &&& 0x3E00000000 else 0
  (b &&& 0x8FFF000000000000) ||| feats

/-- The feature that an atomic FADD of a width needs (12 Table 12.2). -/
def featFadd (dbl : Bool) : Nat := if dbl then featFaddd else featFaddw

/-! ### Events (13 R402) -/

/-- The units of Table 13.6 that write records here. -/
def unitRouter : Nat := 6
def unitDrover : Nat := 8
def unitGateway : Nat := 9
def unitLink : Nat := 10
def unitBothy : Nat := 13
def unitPower : Nat := 14

/-- SOURCE of a unit in a block of a die, given the die in the installation and the block's number there (13 R402). -/
def dieSource (die block unit : Nat) : Nat := (die * 2048 + (192 + block) * 8 + 7) * 16 + unit

/-- SOURCE of a unit of a fold: core field 7 (13 R402). -/
def foldSource (fold unit : Nat) : Nat := (fold * 8 + 7) * 16 + unit

/-- SOURCE of a package's bothy: die 0, fold 255, core 7 (13 R402). -/
def bothySource (pkg unit : Nat) : Nat := (pkg * 8192 + 255 * 8 + 7) * 16 + unit

/-- SOURCE of an off-package link, 0 to 11 of its package (13 R402). -/
def linkSource (pkg n : Nat) : Nat := dieSource (pkg * 4 + n / 3) (n % 3) unitLink

/-- The kinds of event that R402 names. Their codes are not in the manual (log 6). -/
def evCorrected : Nat := 0
def evUncorrected : Nat := 1
def evReplay : Nat := 2
def evLinkDown : Nat := 3
def evStomp : Nat := 4
def evThermal : Nat := 5
def evFence : Nat := 6
def evCounter : Nat := 7
def evRefused : Nat := 8

/-- A record's place: by time, then by source, then by order of writing (13 R402). -/
def insertEvent (e : EventRec) : List EventRec → List EventRec
  | [] => [e]
  | x :: t => if e.time < x.time ∨ e.time = x.time ∧ e.source < x.source then e :: x :: t else x :: insertEvent e t

/-- A block of a package writes an event record; of more than 65,536 the oldest is dropped, and counted in the next written (13 R402). -/
def State.logEvent (s : State) (pkg source kind detail : Nat) : State :=
  s.modPkg pkg (fun b =>
    let e : EventRec := { time := s.gtc, pkg := pkg, source := source, code := kind, detail := detail, dropped := min b.dropped 65535 }
    if b.log.length < 65536 then { b with log := insertEvent e b.log, dropped := 0 }
    else { b with log := insertEvent { e with dropped := min (b.dropped + 1) 65535 } (b.log.drop 1), dropped := 0 })

/-! ### Life counters (13 R404, Table 13.5) -/

/-- The numbers of the life counters: power-on time, boots, peer bits, reports, time in CAP and in throttle (times in cycles); then by
link, by die, by stack, and by die and kind of block. -/
def lifeHours : Nat := 0
def lifeBoots : Nat := 1
def lifePeer : Nat := 2
def lifeReports : Nat := 3
def lifeCap : Nat := 4
def lifeThrottle : Nat := 5
def lifeReplay (n : Nat) : Nat := 16 + 4 * n
def lifeAuth (n : Nat) : Nat := 17 + 4 * n
def lifeDown (n : Nat) : Nat := 18 + 4 * n
def lifeStomp (die : Nat) : Nat := 64 + die
def lifeStack (n : Nat) : Nat := 68 + n
def lifeCorrected (die unit : Nat) : Nat := 128 + 32 * die + 2 * unit
def lifeUncorrected (die unit : Nat) : Nat := 129 + 32 * die + 2 * unit

/-- A life counter of a package rises; it saturates (13 R404). -/
def State.addLife (s : State) (pkg ctr n : Nat) : State :=
  s.modPkg pkg (fun b => { b with life := tput b.life ctr (min (tgetD b.life ctr 0 + n) (2 ^ 64 - 1)) })

/-- A 32-bit counter that saturates (12 R376). -/
def sat32 (n : Nat) : Nat := min n (2 ^ 32 - 1)

end Sys2Proof.Machine
end

