-- ==== Sys2Proof/Machine/Links.lean ====
section
/-! DEFINITION. Off-package links: flits, their retry buffers and keys (12 R365 to R368), failover (R362), and the packets of loads,
stores and atomics between packages (R363, R364). Which bytes of a packet stand where in a flit's payload is not in the manual: they are free
values (log 6). -/

namespace Sys2Proof.Machine

/-- The sign, dimension and number of a link of a package (01 R8, R9). -/
def linkDim (n : Nat) : Nat := n % 3
def linkPlus (n : Nat) : Bool := n / 3 % 2 == 0
def linkNo (n : Nat) : Nat := n / 6

/-- The twin of a link in its direction, and the link at the neighbour's end (01 R9). -/
def twinLink (n : Nat) : Nat := linkIndex (linkDim n) (linkPlus n) (1 - linkNo n)
def farLink (n : Nat) : Nat := linkIndex (linkDim n) (!linkPlus n) (linkNo n)

/-- The neighbour at the end of a link (01 R9). -/
def linkNeighbour (pkg n : Nat) : Nat := stepPkg pkg (linkDim n) (linkPlus n)

/-- The header of a flit, 16 bytes (12 Table 12.1). -/
def flitHeader (f : Flit) : List Byte :=
  leBytes 8 f.cnt ++
  leBytes 8 (f.seq * 2 ^ 48 + bitOf f.ks * 2 ^ 47 + bitOf f.mark * 2 ^ 46 + bitOf f.plane * 2 ^ 45 + f.used * 2 ^ 32 + f.ack * 2 ^ 16 +
    bitOf f.ackv * 2 ^ 15 + bitOf f.nak * 2 ^ 14)

/-- The IV of a flit: the salt of its key slot, then its counter (12 R365). -/
def flitIv (k : KeySlot) (cnt : Nat) : List Byte := k.salt ++ leBytes 8 cnt

/-- The active transmit slot of a link. -/
def Link.txSlot (l : Link) : Option KeySlot := l.tx.toList.getD l.active none

/-- Whether a link's transmitter stalls: its active slot holds no key, or its counter has reached 2^32 (12 R367). -/
def Link.stalled (l : Link) : Bool :=
  match l.txSlot with
  | some k => decide (2 ^ 32 ≤ k.cnt)
  | none => true

/-- Whether a link can send a flit now: up, its retry buffer of 64 not full, not stalled (12 R366, R367). -/
def Link.canSend (l : Link) : Bool := l.up && decide (l.sent.length < 64) && !l.stalled

/-- 16 microseconds of GTC, in cycles (12 R366). -/
def ackLimit : Nat := 25600

/-- A flit is encrypted, numbered, kept for replay and sent (12 R365 to R368). -/
def State.emitFlit (s : State) (pkg n : Nat) (plane : Bool) (used : Nat) (payload : List Byte) : State :=
  let l := s.link pkg n
  match l.txSlot with
  | none => s
  | some k =>
    let f0 : Flit :=
      { cnt := k.cnt, seq := l.nextSeq, ks := l.active == 1, mark := l.mark, plane := plane, used := used,
        ack := (l.expected + 65535) % 65536, ackv := l.rx.toList.any (fun r => (r.bind KeySlot.last).isSome), nak := false,
        payload := [], tag := [] }
    let c := Config.gcmSeal k.key (flitIv k k.cnt) (flitHeader f0) payload
    let f : Flit := { f0 with payload := c.1, tag := c.2 }
    let t := s.modLink pkg n (fun x => { x with
      tx := x.tx.set! x.active (some { k with cnt := k.cnt + 1 }), mark := false, nextSeq := (l.nextSeq + 1) % 65536,
      sent := x.sent ++ [(f, 0, payload)], lastAck := if x.sent.isEmpty then s.cycle else x.lastAck,
      markSeq := if l.mark then some l.nextSeq else x.markSeq, switching := if l.mark then none else x.switching })
    let u := (t.after l.hop (.flitArrival (l.peer * 12 + l.peerLink) f)).after ackLimit (.linkAckTimeout (pkg * 12 + n))
    let v := match l.mark, l.switching with
      | true, some d => u.after 1 (.keyInstalled d 0)
      | _, _ => u
    if k.cnt + 1 = 2 ^ 31 then v.logEvent pkg (linkSource pkg n) evCounter 0 else v

/-- Payloads that wait are sent while the link can send (12 R366, R367). -/
def State.drainLink (s : State) (pkg n : Nat) : Nat → State
  | 0 => s
  | fuel + 1 =>
    let l := s.link pkg n
    match l.waiting with
    | (pl, u, b) :: rest =>
      if l.canSend then ((s.modLink pkg n (fun x => { x with waiting := rest })).emitFlit pkg n pl u b).drainLink pkg n fuel else s
    | [] => s

/-- A payload is given to a link: it is sent in order, as soon as the link can send. -/
def State.sendFlit (s : State) (pkg n : Nat) (plane : Bool) (used : Nat) (payload : List Byte) : State :=
  (s.modLink pkg n (fun x => { x with waiting := x.waiting ++ [(plane, used, payload)] })).drainLink pkg n 65

/-- A flit that only carries ACK, or NAK, back (12 R366); it has no sequence number of its own (log 20). -/
def State.answerFlit (s : State) (pkg n : Nat) (nak : Bool) : State :=
  let l := s.link pkg n
  s.after l.hop (.flitArrival (l.peer * 12 + l.peerLink)
    { cnt := 0, seq := 0, ks := false, mark := false, plane := false, used := 0, ack := (l.expected + 65535) % 65536,
      ackv := l.rx.toList.any (fun r => (r.bind KeySlot.last).isSome), nak := nak, payload := [], tag := [] })

/-- 24 hours of GTC, in cycles (13 R400). -/
def dayCycles : Nat := 138240000000000

/-- A link is declared down (12 R366): both its ends are, and its twin carries its traffic, the flits not acknowledged first (R362). -/
def State.linkGoesDown (s : State) (pkg n : Nat) : State :=
  let l := s.link pkg n
  if !l.up then s
  else
    let one (t : State) (p m : Nat) : State :=
      let x := t.link p m
      let moved := x.sent.map (fun e => (e.1.plane, e.1.used, e.2.2)) ++ x.waiting
      let u := (t.modLink p m (fun y => { y with
        up := false, sent := [], waiting := [], downs := sat32 (y.downs + 1), downAt := s.cycle })).modLink p (twinLink m)
          (fun y => { y with waiting := moved ++ y.waiting })
      (((u.drainLink p (twinLink m) 129).logEvent p (linkSource p m) evLinkDown 0).addLife p (lifeDown m) 1).after dayCycles
        (.linkDown24Hours (p * 12 + m))
    one (one s pkg n) l.peer l.peerLink

/-- A flit's ACK and NAK at the sender (12 R366): what it acknowledges leaves the retry buffer; after a NAK the rest is sent again,
unchanged; while some remain, the 16 microseconds without an acknowledgement count anew. -/
def State.applyAck (s : State) (pkg n : Nat) (f : Flit) : State :=
  let l := s.link pkg n
  let kept := if f.ackv then
      (match l.sent.findIdx? (fun e => e.1.seq == f.ack) with
       | some i => l.sent.drop (i + 1)
       | none => l.sent)
    else l.sent
  let held := if f.nak then kept.map (fun e => (e.1, e.2.1 + 1, e.2.2)) else kept
  let again := f.nak && !kept.isEmpty
  let t := s.modLink pkg n (fun x => { x with
    sent := held, lastAck := if f.ackv then s.cycle else x.lastAck, replays := if again then sat32 (x.replays + 1) else x.replays,
    markSeq := if held.any (fun e => some e.1.seq == x.markSeq) then x.markSeq else if x.mark then x.markSeq else none })
  let w := if f.ackv && !held.isEmpty then t.after ackLimit (.linkAckTimeout (pkg * 12 + n)) else t
  let u := if again then
      (held.foldl (fun v e => v.after l.hop (.flitArrival (l.peer * 12 + l.peerLink) e.1)) w).logEvent pkg (linkSource pkg n) evReplay 0
        |>.addLife pkg (lifeReplay n) 1
    else w
  if held.any (fun e => decide (16 ≤ e.2.1)) then u.linkGoesDown pkg n else u.drainLink pkg n 65

/-- FLIT_ARRIVAL (12 R366). -/
def flitArrival (link : Nat) (f : Flit) (s : State) : State :=
  let pkg := link / 12
  let n := link % 12
  let l := s.link pkg n
  if !l.up then s
  else if f.used = 0 then s.applyAck pkg n f
  else if f.seq ≠ l.expected then s
  else
    let ix := bitOf f.ks
    let slot := l.rx.toList.getD ix none
    let opened := slot.bind (fun k =>
      if (match k.last with | some c => decide (f.cnt ≤ c) | none => false) then none
      else (Config.gcmOpen k.key (flitIv k f.cnt) (flitHeader f) f.payload f.tag).map (fun _ => k))
    match opened with
    | none => ((s.modLink pkg n (fun x => { x with authFail := sat32 (x.authFail + 1) })).addLife pkg (lifeAuth n) 1).answerFlit pkg n true
    | some k =>
      ((s.modLink pkg n (fun x => { x with
        rx := x.rx.set! ix (some { k with last := some f.cnt }), expected := (x.expected + 1) % 65536 })).applyAck pkg n f).answerFlit
          pkg n false

/-- LINK_ACK_TIMEOUT (12 R366): no acknowledgement for 16 microseconds declares the link down. -/
def linkAckTimeout (link : Nat) (s : State) : State :=
  let l := s.link (link / 12) (link % 12)
  if l.up && !l.sent.isEmpty && decide (l.lastAck + ackLimit ≤ s.cycle) then s.linkGoesDown (link / 12) (link % 12) else s

/-! ### Packets (12 R363, R364) -/

/-- A packet's flit on every link of its route: payload and length are free values (log 6). -/
def State.routeFlits (s : State) (p q : Nat) (plane : Bool) : State :=
  let words := (List.range 28).map (fun i => Config.freeWord (s.free + i))
  let used := (Config.freeWord (s.free + 28)).toNat % 28 + 1
  (s.routeLinks p q).foldl (fun t l => t.sendFlit l.1 l.2.1 plane used (wordsLe words)) { s with free := s.free + 29 }

/-- 1 ms of GTC, in cycles (12 R364). -/
def lostCycles : Nat := 1600000

/-- The next end-to-end sequence number from a die to a die on a plane (12 R363). -/
def State.nextPacket (s : State) (a b : Nat) (plane : Bool) : Nat × State :=
  let n := ((s.seqSent.find? (fun e => e.1 == a && e.2.1 == b && e.2.2.1 == plane)).map (fun e => e.2.2.2)).getD 0
  (n, { s with seqSent := (a, b, plane, n + 1) :: s.seqSent.filter (fun e => !(e.1 == a && e.2.1 == b && e.2.2.1 == plane)) })

/-- A load, store or atomic sets out for another package (12 R361, R363); it is link lost where no answer has come 1 ms later (R364). -/
def State.sendAcross (s : State) (x : Access) : State :=
  let a := dieOf x.core
  let b := x.addr / 2 ^ 50
  let r := s.nextPacket a b false
  ((r.2.routeFlits (pkgOf x.core) (pkgOfAddr x.addr) false).after (s.wayTo x.core x.addr)
    (.gatewayPacketArrival { srcDie := a, dstDie := b, plane := false, seq := r.1, load := some x })).after lostCycles (.linkLostTimeout x)

/-- What a packet delivers, once the destination has it in sequence: the access reaches its place; one lost on a failed route is gone. -/
def State.deliverPacket (s : State) (p : GPacket) : State :=
  match p.load with
  | none => s
  | some x =>
    if !s.reachable (p.srcDie / 4) (p.dstDie / 4) then s
    else
      let served := s.serviceTime s.cycle x.addr x.size
      let local_ := match x.kind with
        | .store _ => (match placeOf x.addr with | .hbm _ _ => served | _ => 0)
        | _ => s.wayTo x.core x.addr + served
      (s.bookAt s.cycle x.addr x.size).after local_ (.remoteAccessArrival x)

/-- Whether a link of a route cannot send for want of a key or a counter (12 R367). -/
def State.routeStalled (s : State) (p q : Nat) : Bool := (s.routeLinks p q).any (fun l => (s.link l.1 l.2.1).up && (s.link l.1 l.2.1).stalled)

/-- The packages between which what is in flight travels, and its plane (01 R12, 12 R361). -/
def State.crossing (s : State) (e : Ev) : Option (Nat × Nat × Bool) :=
  match e with
  | .offerArrival d m | .messageEnqueue d m => some (pkgOf m.src.core, pkgOf d.core, false)
  | .transferDataWritten x => some (pkgOf x.msg.src.core, pkgOf x.core, false)
  | .sendAck m peer => some (pkgOf peer.core, pkgOf m.src.core, true)
  | .start m => some (pkgOf m.from0, pkgOf m.core, false)
  | .startAnswer m _ => some (pkgOf m.core, pkgOf m.from0, true)
  | .migrationArrival m => some (pkgOf m.from0, pkgOf m.target, false)
  | .migrationAnswer m _ => some (pkgOf m.target, pkgOf m.from0, true)
  | .endpointInstall v => some (pkgOf (v.key / 512), pkgOf v.core, false)
  | .chbindAck v _ => some (pkgOf v.core, pkgOf (v.key / 512), true)
  | .droverRequest n r => some (pkgOf r.core, n / 256, false)
  | .regionArrival _ r => some (pkgOf r.core, pkgOfAddr r.pa, false)
  | .tileCommandArrival c => (s.named c.sender).map (fun x => (pkgOf x.2.core, pkgOf c.core, false))
  | .tileCommandAnswer c _ => (s.named c.sender).map (fun x => (pkgOf c.core, pkgOf x.2.core, true))
  | .gatewayPacketArrival p => some (p.srcDie / 4, p.dstDie / 4, p.plane)
  | _ => none

/-- Whether what is in flight waits for a stalled link on its route (12 R367). -/
def State.heldBack (s : State) (e : Ev) : Bool :=
  match s.crossing e with
  | some (p, q, _) => p != q && s.routeStalled p q
  | none => false

/-- The flits of the packets that have set out for another package in this cycle (12 R365); those of loads, stores and atomics are out already. -/
def State.sendPackets (s : State) : State :=
  let now := (s.agenda.map (fun e => e.2)).filter (fun e =>
    match e with
    | .gatewayPacketArrival _ => false
    | _ => (match s.crossing e with | some (p, q, _) => p != q | none => false))
  (s.flying.foldl (fun l e => l.erase e) now).foldl (fun t e => match s.crossing e with | some (p, q, plane) => t.routeFlits p q plane | none => t)
    { s with flying := now }

/-- The packets held at a destination that are next in sequence are delivered (12 R363). -/
def State.deliverHeld (s : State) (a b : Nat) (plane : Bool) (next : Nat) : Nat → List GPacket → State
  | 0, held => { s with seqHeld := (a, b, plane, next, held) :: s.seqHeld.filter (fun e => !(e.1 == a && e.2.1 == b && e.2.2.1 == plane)) }
  | fuel + 1, held =>
    match held.find? (fun p => p.seq == next) with
    | some p => (s.deliverPacket p).deliverHeld a b plane (next + 1) fuel (held.filter (fun q => q != p))
    | none => { s with seqHeld := (a, b, plane, next, held) :: s.seqHeld.filter (fun e => !(e.1 == a && e.2.1 == b && e.2.2.1 == plane)) }

/-- GATEWAY_PACKET_ARRIVAL (12 R363): duplicates are discarded, packets out of order held, at most 64, and the others delivered in
sequence. One whose route is stalled waits for it (R367). -/
def gatewayPacketArrival (p : GPacket) (s : State) : State :=
  if s.routeStalled (p.srcDie / 4) (p.dstDie / 4) then s.after 64 (.gatewayPacketArrival p)
  else
    let e := s.seqHeld.find? (fun e => e.1 == p.srcDie && e.2.1 == p.dstDie && e.2.2.1 == p.plane)
    let next := (e.map (fun e => e.2.2.2.1)).getD 0
    let held := (e.map (fun e => e.2.2.2.2)).getD []
    if p.seq < next || held.contains p then s
    else if next < p.seq && decide (64 ≤ held.length) then s.after 64 (.gatewayPacketArrival p)
    else s.deliverHeld p.srcDie p.dstDie p.plane next 66 (held ++ [p])

end Sys2Proof.Machine
end

