-- ==== Sys2Proof/Machine/Csr.lean ====
section
/-! DEFINITION. The control and status registers (05 R130, R131, Tables 5.9 to 5.16): levels, values, and what a write makes of
them. -/

namespace Sys2Proof.Machine

/-- The levels that reading and writing a CSR take: 0 U, 1 S; no write level for a read-only one; none for an unassigned number (05
Table 5.9). -/
def csrLevels (n : Nat) : Option (Nat × Option Nat) :=
  match n with
  | 0x000 | 0x001 | 0x002 | 0x100 | 0x7D0 => some (0, none)
  | 0x008 | 0x009 | 0x00A | 0x00B | 0x010 | 0x011 | 0x012 | 0x020 | 0x021 | 0x022 | 0x023 | 0x028 => some (0, some 0)
  | 0x7A0 | 0x7A1 | 0x7E1 => some (0, some 1)
  | 0x7C0 | 0x7C1 | 0x7C2 | 0x7C3 | 0x7C8 | 0x7E0 => some (1, some 1)
  | _ => none

/-- Whether a CSR is kept for a process (05 Table 5.9). -/
def csrOfProcess (n : Nat) : Bool := decide (n < 0x100)

/-- The NOW field of FLAGOR: the union of the flags of the processes of a fold (05 R137, Table 5.16). -/
def State.flagUnion (s : State) (f : Nat) : BitVec 5 :=
  s.procs.foldl (fun x e => if foldOf (e.1 / 256) = f then x ||| e.2.fflags else x) 0

/-- The CSRs of a process. -/
def Proc.csr (p : Proc) (n : Nat) : Word :=
  match n with
  | 0x000 => BitVec.ofNat 64 p.name
  | 0x001 => BitVec.ofNat 64 p.gid
  | 0x002 => BitVec.ofNat 64 p.prio
  | 0x008 => p.epc.zeroExtend 64
  | 0x009 => p.ecause.zeroExtend 64
  | 0x00A => p.eval
  | 0x00B => p.utv
  | 0x010 => BitVec.ofNat 64 p.rmode
  | 0x011 => p.fflags.zeroExtend 64
  | 0x012 => p.srseed.zeroExtend 64
  | 0x020 => p.tfmt
  | 0x021 => p.tsca
  | 0x022 => p.tscb
  | 0x023 => p.tnanc
  | 0x028 => p.taped
  | _ => 0

/-- The CSRs of a core, its fold and the system; CID without the slot of the reader. -/
def State.coreCsr (s : State) (core n : Nat) : Word :=
  match n with
  | 0x100 => BitVec.ofNat 64 s.gtc
  | 0x7A0 => (s.core core).penw
  | 0x7A1 => (s.core core).urgb
  | 0x7C0 | 0x7C1 | 0x7C2 | 0x7C3 => (s.core core).wins.toList.getD (n - 0x7C0) 0
  | 0x7D0 => BitVec.ofNat 64 core
  | 0x7E0 =>
    let f := s.fold (foldOf core)
    BitVec.ofNat 64 (f.flagSticky.toNat * 256 + f.flagNow.toNat)
  | 0x7E1 =>
    let f := s.fold (foldOf core)
    BitVec.ofNat 64 (bitOf f.dlkOff * 2 ^ 32 + f.dlkDelay)
  | _ => 0

/-- A CSR as a process of a core reads it (05 R130). -/
def State.csrRead (s : State) (p : Proc) (n : Nat) : Word :=
  if csrOfProcess n then p.csr n
  else if n = 0x7D0 then BitVec.ofNat 64 (p.core + p.slot * 2 ^ 32)
  else s.coreCsr p.core n

/-- The fields that a write of TFMT sets, and whether their values are defined (09 R278, Table 9.10). -/
def tfmtOk (v : Word) : Bool :=
  decide (v.toNat % 16 ≤ 11) && decide (v.toNat / 16 % 16 ≤ 11) &&
  (let c := v.toNat / 256 % 16; c == 0 || c == 8 || c == 9)

/-- The flags of TAPED are 0, 1 or 2 (10 Table 10.2). -/
def tapedOk (v : Word) : Bool :=
  let f (lo : Nat) : Bool := decide (v.toNat / 2 ^ lo % 4 ≠ 3)
  f 34 && f 36 && f 38

/-- A write of a process's CSR; none for a value that a field excludes (05 R130). -/
def Proc.csrWrite (p : Proc) (n : Nat) (v : Word) : Option Proc :=
  match n with
  | 0x008 => some { p with epc := v.truncate 16 &&& 0xFFFC }
  | 0x009 => some { p with ecause := v.truncate 8 }
  | 0x00A => some { p with eval := v }
  | 0x00B => some { p with utv := v &&& 0x1FFFF }
  | 0x010 => if v.toNat % 8 ≤ 5 then some { p with rmode := v.toNat % 8 } else none
  | 0x011 => some { p with fflags := v.truncate 5 }
  | 0x012 => some { p with srseed := v.truncate 32 }
  | 0x020 => if tfmtOk v then some { p with tfmt := v &&& 0x13FFF } else none
  | 0x021 => some { p with tsca := v &&& 0x1FFFFFF }
  | 0x022 => some { p with tscb := v &&& 0x1FFFFFF }
  | 0x023 => if v.toNat % 32 = 0 then some { p with tnanc := v &&& 0xFFFFFF } else none
  | 0x028 => if tapedOk v then some { p with taped := (p.taped &&& 0x1FFFFFFFF) ||| (v &&& 0xFC00000000) } else none
  | _ => some p

/-- Whether PENW's fields are all at least 1 (06 Table 6.5). -/
def penwOk (v : Word) : Bool := (List.range 5).all (fun i => decide (v.toNat / 2 ^ (8 * i) % 256 ≠ 0))

/-- Whether a value of TINV can be posted (04 Table 4.5): reserved bits 0, VPAGE aligned to SIZE. -/
def tinvOk (v : Word) : Bool :=
  let page := v.toNat / 2 ^ 11 % 2 ^ 37
  decide (v.toNat % 256 = 0) &&
  (match v.toNat / 2 ^ 9 % 4 with
   | 1 => decide (page % 64 = 0)
   | 2 => decide (page % 4096 = 0)
   | _ => true)

/-- A write of a CSR of a core or its fold; none for a value that a field excludes. TINV's posting is apart (05 R130, 04 R82). -/
def State.coreCsrWrite (s : State) (core n : Nat) (v : Word) : Option State :=
  match n with
  | 0x7A0 => if penwOk v then some (s.modCore core (fun c => { c with penw := v &&& 0xFFFFFFFFFF })) else none
  | 0x7A1 =>
    if v.toNat / 65536 % 65536 ≠ 0 then some (s.modCore core (fun c => { c with urgb := v &&& 0xFFFFFFFF })) else none
  | 0x7C0 | 0x7C1 | 0x7C2 | 0x7C3 =>
    some (s.modCore core (fun c => { c with wins := c.wins.set! (n - 0x7C0) (v &&& 0xFFFF8F003FFFFFFF) }))
  | 0x7C8 => if tinvOk v then some s else none
  | 0x7E0 => some (s.modFold (foldOf core) (fun f => { f with flagSticky := f.flagSticky &&& ~~~((v >>> 8).truncate 5) }))
  | 0x7E1 =>
    if 1000 ≤ v.toNat % 2 ^ 32 then
      some ((s.modFold (foldOf core) (fun f => { f with dlkOff := v.getLsbD 32, dlkDelay := v.toNat % 2 ^ 32 })).resetProbes (foldOf core))
    else none
  | _ => some s

/-! ### The CSR row of a core window (04 R76) -/

/-- What the CSR row shows of a number: the core's and the fold's registers, 0 for a process's and for unassigned numbers. The slot of
CID's reader is not of this core: it is a free value (log 6). -/
def State.csrRow (s : State) (core n : Nat) : Word :=
  if n = 0x7D0 then BitVec.ofNat 64 (core + (Config.freeWord (2 ^ 40 + core)).toNat % 8 * 2 ^ 32)
  else if csrOfProcess n then 0 else s.coreCsr core n

/-- CSR_WINDOW_WRITE (04 R76): a write through the CSR row. Read-only fields and process registers keep their values, and so does a
register for which the value is reserved. -/
def csrWindowWrite (core csr : Nat) (val : Word) (s : State) : State :=
  if csrOfProcess csr then s else (s.coreCsrWrite core csr val).getD s

end Sys2Proof.Machine
end

