-- ==== Sys2Proof/Machine/Views.lean ====
section
/-! DEFINITION. The rows of a core window whose contents the engines keep as records (04 Table 4.2): pen SRAM, endpoint table, tile
table, slot registers, CSRs, and the extension areas of live processes; reads and writes of physical memory through them. -/

namespace Sys2Proof.Machine

/-- A number placed at a bit of a word. -/
def at64 (v lo : Nat) : Nat := v * 2 ^ lo

/-- The field of a word. -/
def bitsOf (w : Word) (lo n : Nat) : Nat := w.toNat / 2 ^ lo % 2 ^ n

/-! ### Process records (06 Table 6.1) -/

/-- The codes of Table 6.3. -/
def PState.code : PState → Nat
  | .ready => 1
  | .resident => 2
  | .parked => 3
  | .blocked => 4
  | .sleeping => 5
  | .suspended => 6
  | .trapped => 7
  | .migrating => 8

/-- KIND and OBJECT of a wait (06 Table 6.1). -/
def Wait.code : Wait → Nat × Nat
  | .reg n => (1, n)
  | .cell a => (2, a % 0x1000000)
  | .chan h => (3, h)
  | .alt => (4, 0)
  | .barrier n => (5, n)
  | .wfw h => (6, h)
  | .trapw => (7, 0)
  | .sleep => (8, 0)
  | .exitDrain => (9, 0)
  | _ => (0, 0)

/-- The bits of a register file's full/empty state (06 Table 6.1 at +0x08). -/
def cellWord (p : Proc) : Nat :=
  ((List.range 16).map (fun n =>
    let c := p.cell (BitVec.ofNat 4 n)
    at64 (bitOf c.full) n + at64 (bitOf c.pend) (16 + n) + at64 c.tag.toNat (32 + 2 * n))).foldl (fun x y => x + y) 0

/-- A port in a record (06 Table 6.1 PORTk). -/
def portWord (q : Port) : Nat :=
  at64 (bitOf q.bound) 15 + at64 (bitOf q.stream.isSome) 14 + at64 q.kind 12 + q.num % 64

/-- Word +0x00 of a record. -/
def recHead (p : Proc) : Nat :=
  at64 p.st.code 60 + at64 p.prio 58 + at64 p.level 56 + at64 (bitOf p.heavy) 55 + at64 p.slot 52 + at64 p.restart 48 +
  at64 p.vword 44 + at64 p.vrepn 38 + at64 (bitOf p.vact) 37 + at64 (bitOf p.persist) 36 + p.pc.toNat

/-- The words of a record that the slot holds while the process is resident: +0x00, +0x08 and the registers. -/
def slotWords (p : Proc) : List Word :=
  BitVec.ofNat 64 (recHead p) :: BitVec.ofNat 64 (cellWord p) ::
    (List.range 16).map (fun n => if n = 0 then 0 else (p.cell (BitVec.ofNat 4 n)).val)

/-- Word `i` of a process's record (06 Table 6.1); `stale` shows the copy left while the process is resident (06 R138), but for the state of a
process that has trapped (04 R85). -/
def recordWord (p : Proc) (stale : Bool) (i : Nat) : Word :=
  if i < 18 then
    if stale then
      (if i = 0 && p.st == .trapped then BitVec.ofNat 64 (at64 p.st.code 60 + bitsOf (p.image.getD 0 0) 0 60) else p.image.getD i 0)
    else (slotWords p).getD i 0
  else
    match i with
    | 18 => BitVec.ofNat 64 (((List.range 4).map (fun q => at64 (portWord (p.ports.toList.getD q {})) (16 * q))).foldl (fun x y => x + y) 0)
    | 19 => BitVec.ofNat 64 (at64 p.ecause.toNat 32 + p.epc.toNat)
    | 20 => p.eval
    | 21 => p.utv
    | 22 => BitVec.ofNat 64 (at64 p.srseed.toNat 32 + at64 p.onceCnt 24 + at64 p.launch 20 + at64 (bitOf p.gang.isSome) 19 +
        at64 (p.gang.getD 0 % 8) 16 + at64 p.fflags.toNat 8 + p.rmode)
    | 23 => BitVec.ofNat 64 (at64 p.gid 48 + p.name)
    | 24 => BitVec.ofNat 64 (at64 p.wait.code.1 60 + at64 (bitOf p.latch) 59 +
        at64 (if p.st == .suspended || p.st == .migrating then p.prev.code else 0) 55 + p.wait.code.2)
    | 25 => BitVec.ofNat 64 p.deadline
    | 26 => BitVec.ofNat 64 (at64 p.town.toNat 32 + at64 p.extix 24 + at64 (bitOf p.region.isSome) 23 + at64 p.vcount 8 + p.vbase)
    | 27 => p.tfmt
    | 28 => p.tsca
    | 29 => p.tscb
    | 30 => p.tnanc
    | 31 => p.taped
    | _ => 0

/-- The state of a code of Table 6.3; none is FREE. DESIGN CHOICE (log 35): a code above 8 leaves the state as it is. -/
def PState.ofCode (old : PState) (n : Nat) : Option PState :=
  match n with
  | 0 => none
  | 1 => some .ready
  | 2 => some .resident
  | 3 => some .parked
  | 4 => some .blocked
  | 5 => some .sleeping
  | 6 => some .suspended
  | 7 => some .trapped
  | 8 => some .migrating
  | _ => some old

/-- The wait of a KIND and OBJECT (06 Table 6.1). KIND 0 is also what a record shows of waits that it does not name; a KIND above 9 is never written
(log 35). -/
def Wait.ofCode (old : Wait) (fold kind obj : Nat) : Wait :=
  match kind with
  | 0 => if old.code.1 = 0 then old else .none
  | 1 => .reg (obj % 16)
  | 2 => .cell (foldBase fold + obj % 0x1000000)
  | 3 => .chan (obj % 64)
  | 4 => .alt
  | 5 => .barrier obj
  | 6 => .wfw (obj % 64)
  | 7 => .trapw
  | 8 => .sleep
  | 9 => .exitDrain
  | _ => old

/-- A port after a raw write of its PORTk (06 Table 6.1). -/
def portWrite (q : Port) (v : Nat) : Port :=
  { q with bound := decide (v / 2 ^ 15 % 2 = 1), kind := v / 2 ^ 12 % 4, num := v % 64,
           stream := if v / 2 ^ 14 % 2 = 1 then some (q.stream.getD {}) else none }

/-- A record of a live process after a raw write of word `i` (04 R76, caution): the shepherd acts on the bytes that it finds; none where STATE has
become FREE. DESIGN CHOICE (log 35): RMODE 6 and 7, which Table 2.4 does not name, count modulo 6. -/
def recordWrite (p : Proc) (resident : Bool) (i : Nat) (w : Word) : Option Proc :=
  if i < 18 then
    if resident then some { p with image := (if p.image.length < 18 then slotWords p else p.image).set i w }
    else if i = 0 then
      (PState.ofCode p.st (bitsOf w 60 4)).map (fun st => { p with
        st := st, prio := bitsOf w 58 2, level := bitsOf w 56 2, heavyBit := w.getLsbD 55, slot := bitsOf w 52 3, restart := bitsOf w 48 4,
        vword := bitsOf w 44 4, vrepn := bitsOf w 38 6, vact := w.getLsbD 37, persist := w.getLsbD 36, pc := w.truncate 16 &&& 0xFFFC })
    else if i = 1 then
      some { p with regs := Vector.ofFn (fun n : Fin 16 =>
        { p.regs.get n with full := w.getLsbD n.val, pend := w.getLsbD (16 + n.val), tag := w.extractLsb' (32 + 2 * n.val) 2 }) }
    else some (p.putCell (BitVec.ofNat 4 (i - 2)) { p.cell (BitVec.ofNat 4 (i - 2)) with val := w })
  else
    some (match i with
    | 18 => { p with ports := Vector.ofFn (fun q : Fin 4 => portWrite (p.ports.get q) (bitsOf w (16 * q.val) 16)) }
    | 19 => { p with ecause := w.extractLsb' 32 8, epc := w.truncate 16 &&& 0xFFFC }
    | 20 => { p with eval := w }
    | 21 => { p with utv := w &&& 0x1FFFF }
    | 22 => { p with srseed := w.extractLsb' 32 32, onceCnt := bitsOf w 24 8, launch := bitsOf w 20 4,
                     gang := if w.getLsbD 19 then some (bitsOf w 16 3) else none, fflags := w.extractLsb' 8 5, rmode := bitsOf w 0 3 % 6 }
    | 23 => { p with gid := bitsOf w 48 16, name := bitsOf w 0 40 }
    | 24 => { p with wait := Wait.ofCode p.wait (foldOf p.core) (bitsOf w 60 4) (bitsOf w 0 55), latch := w.getLsbD 59,
                     prev := (PState.ofCode p.prev (bitsOf w 55 4)).getD p.prev }
    | 25 => { p with deadline := w.toNat }
    | 26 => { p with town := w.extractLsb' 32 32, extix := bitsOf w 24 8, region := if w.getLsbD 23 then p.region else none,
                     vcount := bitsOf w 8 6, vbase := bitsOf w 0 6 }
    | 27 => { p with tfmt := w }
    | 28 => { p with tsca := w }
    | 29 => { p with tscb := w }
    | 30 => { p with tnanc := w }
    | 31 => { p with taped := w }
    | _ => p)

/-! ### Endpoint entries (07 Table 7.1) -/

/-- The codes of Table 7.2. -/
def EpSt.code : EpSt → Nat
  | .opened => 1
  | .wait => 2
  | .rebind => 3
  | .forward => 4
  | .dead => 5

/-- Whether a server is the host or the bothy. -/
def isExternal (x : Option Srv) : Bool := x == some .host || x == some .bothy

/-- DONE: the newest identifier at and below which every transfer is complete (07 R212). -/
def epDone (e : Ep) : Nat := e.done

/-- Word `i` of an entry. -/
def State.epWord (s : State) (e : Ep) (i : Nat) : Word :=
  let rec_ := ((s.named e.owner).map (fun x => x.2.idx)).getD 0
  BitVec.ofNat 64 (match i with
    | 0 => at64 e.owner 24 + at64 e.handle 18 + at64 (if e.reserved then 3 else e.waitK % 4) 16 + at64 e.st.code 13 + at64 (bitOf e.recv) 12 +
        at64 (bitOf e.server.isSome) 11 + at64 (bitOf (isExternal e.server)) 10 + at64 (bitOf e.deadline) 9 + at64 (bitOf e.fail) 8 + min e.pend 255
    | 1 => e.typ.toNat / 4096 * 4096 + at64 rec_ 4 + at64 (bitOf (e.recv && !typQueued e.typ && !e.offers.isEmpty)) 3
    | 2 => at64 e.peer.core 39 + at64 (e.peer.ix % 512) 30 + at64 (e.peer.gen % 256) 22 + at64 (e.gen % 256) 14 + at64 (e.rq.getD 0) 8 +
        at64 (bitOf e.rq.isSome) 7
    | _ => at64 (e.issued % 2 ^ 24) 40 + at64 (epDone e % 2 ^ 24) 16 + e.infl % 65536)

/-- The state of a code of Table 7.2; none is FREE. DESIGN CHOICE (log 35): a code above 5 leaves the state as it is. -/
def EpSt.ofCode (old : EpSt) (n : Nat) : Option EpSt :=
  match n with
  | 0 => none
  | 1 => some .opened
  | 2 => some .wait
  | 3 => some .rebind
  | 4 => some .forward
  | 5 => some .dead
  | _ => some old

/-- An entry of an end after a raw write of word `i` (04 R76, caution; 07 R182): the engine acts on what it finds; none where STATE has become
FREE. RECIX follows OWNER, and which server the other side is cannot be written (log 35). -/
def epWrite (e : Ep) (i : Nat) (w : Word) : Option Ep :=
  match i with
  | 0 => (EpSt.ofCode e.st (bitsOf w 13 3)).map (fun st => { e with
      owner := bitsOf w 24 40, handle := bitsOf w 18 6, waitK := if bitsOf w 16 2 = 3 then e.waitK else bitsOf w 16 2,
      reserved := decide (bitsOf w 16 2 = 3), st := st, recv := w.getLsbD 12, server := if w.getLsbD 11 then e.server else none,
      deadline := w.getLsbD 9, fail := w.getLsbD 8, pend := bitsOf w 0 8 })
  | 1 => some { e with typ := w &&& 0xFFFFFFFFFFFFF000, offers := if w.getLsbD 3 then e.offers else [] }
  | 2 => some { e with peer := { core := bitsOf w 39 25, ix := bitsOf w 30 9, gen := bitsOf w 22 8 }, gen := bitsOf w 14 8,
                       rq := if w.getLsbD 7 then some (bitsOf w 8 6) else none }
  | _ => some { e with issued := bitsOf w 40 24, done := bitsOf w 16 24, infl := bitsOf w 0 16 }

/-! ### Tile-table entries (09 Table 9.7) -/

def TileSt.code : TileSt → Nat
  | .empty => 0
  | .filling => 1
  | .ready => 2
  | .draining => 3

/-- Word `i` of a tile-table entry. -/
def tileWord (t : Tile) (i : Nat) : Word :=
  match i with
  | 0 => BitVec.ofNat 64 (at64 t.owner 24 + at64 (t.gen % 256) 16 + at64 t.st.code 14 + at64 (bitOf t.err) 13 + at64 (t.errc % 32) 8)
  | 1 => t.layout
  | 2 => BitVec.ofNat 64 (at64 t.check 32 + at64 t.adj 25 + at64 (bitOf t.adjv) 24 + t.base)
  | 3 => BitVec.ofNat 64 t.scale
  | _ => 0

/-! ### Extension areas (06 Table 6.2d) -/

/-- Word `i` of a store fault record (04 Table 4.6). -/
def sfqWord (r : SfqRec) (i : Nat) : Word :=
  match i with
  | 0 => BitVec.ofNat 64 r.va
  | 1 => r.data
  | 2 => BitVec.ofNat 64 (at64 (r.name % 2 ^ 28) 32 + at64 r.pc.toNat 16 + at64 r.cause 8 + r.size.log2)
  | _ => BitVec.ofNat 64 r.time

/-- Word `i` of a region checkpoint (12 Table 12.9). -/
def ckptWord (r : RegionCkpt) (i : Nat) : Word :=
  match i with
  | 0 => BitVec.ofNat 64 (at64 r.word.toNat 32 + r.pc.toNat)
  | 1 => BitVec.ofNat 64 r.sent
  | 2 => BitVec.ofNat 64 r.target
  | 3 => 0
  | _ => if i < 20 then r.regs.getD (i - 4) 0 else 0

/-- Word `i` of a sequencer state (09 Table 9.17a). -/
def seqWord (q : SeqState) (i : Nat) : Word :=
  match i with
  | 0 => BitVec.ofNat 64 (at64 q.word.toNat 32 + q.pc.toNat)
  | 1 => BitVec.ofNat 64 (at64 q.step 32)
  | 2 => q.tfmt
  | 3 => q.tsca
  | 4 => q.tscb
  | 5 => BitVec.ofNat 64 (at64 q.genA 56 + at64 q.genB 48 + at64 q.genI 40)
  | _ => 0

/-- Word `i` of a live process's extension, where it is valid; `out` says that the process is out of its slot. -/
def extWord (p : Proc) (out : Bool) (i : Nat) : Option Word :=
  if i < 32 then (p.sfq[i / 4]?).map (fun r => sfqWord r (i % 4))
  else if i < 64 then p.region.map (fun r => ckptWord r (i - 32))
  else if i < 80 then
    (if out then p.borrow.map (fun b => b.regs.toList.getD (i - 64) 0) else none)
  else if i < 88 then
    (if out && p.vact then
      some (BitVec.ofNat 64 ((p.vrep.getD (2 * (i - 80)) 0).toNat + at64 (p.vrep.getD (2 * (i - 80) + 1) 0).toNat 32)) else none)
  else if i < 96 then p.seq.map (fun q => seqWord q (i - 88))
  else if i = 255 then
    some (BitVec.ofNat 64 (min p.sfq.length 8 + at64 (bitOf (out && p.borrow.isSome)) 4 + at64 (bitOf p.seq.isSome) 5))
  else none

/-- The live process whose extension area holds a scratchpad offset of a core, and the offset in the area (06 R142). -/
def State.extAt (s : State) (core off : Nat) : Option (Proc × Nat) :=
  let fromTop := scratchSize core - 1 - off
  if fromTop / 2048 < (s.core core).extSize then
    (s.procs.find? (fun e => e.1 / 256 == core && e.2.extix == fromTop / 2048)).map (fun e => (e.2, 2047 - fromTop % 2048))
  else none

/-! ### Reading and writing -/

/-- The word at an aligned offset of a core window, where a record holds it; none where memory does. -/
def State.viewWord (s : State) (c off : Nat) : Option Word :=
  match rowOf off with
  | .scratch =>
    match s.extAt c off with
    | some (p, o) => extWord p (!s.inSlot p) (o / 8)
    | none => none
  | .tile => some (tileWord (tgetD s.tiles (c * 32 + (off - 0x118000) / 64) {}) ((off - 0x118000) / 8 % 8))
  | .pen => (s.proc (c * 256 + (off - 0x140000) / 256)).map (fun p => recordWord p (s.inSlot p) ((off - 0x140000) / 8 % 32))
  | .ep =>
    match s.ep (epKey c ((off - 0x160000) / 32)) with
    | some e => some (s.epWord e ((off - 0x160000) / 8 % 4))
    | none => none
  | .slot =>
    let sl := s.slot (c * 8 + (off - 0x170000) / 128)
    some (match sl.occ.bind (fun r => s.proc (c * 256 + r)) with
      | some p => p.reg (BitVec.ofNat 4 ((off - 0x170000) / 8 % 16))
      | none => 0)
  | .csr => some (s.csrRow c ((off - 0x180000) / 8))
  | _ => none

/-- Whether an offset of a core window can lie in a record's row. -/
def State.viewed (s : State) (c off : Nat) : Bool :=
  match rowOf off with
  | .scratch => (s.extAt c off).isSome
  | .tile | .pen | .ep | .slot | .csr => true
  | _ => false

/-- The word at an aligned physical address as the rows of Table 4.2 show it. -/
def State.physWord (s : State) (pa : Nat) : Word :=
  match placeOf pa with
  | .core c off => (s.viewWord c off).getD (BitVec.ofNat 64 (readLe s.mem pa 8))
  | _ => BitVec.ofNat 64 (readLe s.mem pa 8)

/-- Whether a physical address lies in a record's row. -/
def State.physViewed (s : State) (pa : Nat) : Bool :=
  match placeOf pa with
  | .core c off => s.viewed c off
  | _ => false

/-- A little-endian number of at most 8 bytes read from physical memory through the rows of Table 4.2. -/
def State.loadPhys (s : State) (pa size : Nat) : Nat :=
  if s.physViewed pa then
    ((s.physWord (pa / 8 * 8)).toNat + (s.physWord (pa / 8 * 8 + 8)).toNat * 2 ^ 64) / 2 ^ (8 * (pa % 8)) % 2 ^ (8 * size)
  else readLe s.mem pa size

/-- The record and the extension of a process that leaves a core, as its pen SRAM and scratchpad keep them: STATE is FREE (06 Table 6.3), the rest as
it stood (log 23). -/
def State.leaveRecord (s : State) (p : Proc) : State :=
  let stale := s.inSlot p
  let recBase := windowBase p.core + 0x140000 + p.idx * 256
  let extBase := windowBase p.core + scratchSize p.core - (p.extix + 1) * 2048
  let t := (List.range 32).foldl (fun u i =>
    let w := (recordWord p stale i).toNat
    u.writeNum (recBase + 8 * i) 8 (if i = 0 then w % 2 ^ 60 else w)) s
  (List.range 96 ++ [255]).foldl (fun u i =>
    match extWord p (!stale) i with
    | some w => u.writeNum (extBase + 8 * i) 8 w.toNat
    | none => u) t

/-- SLOT_REGISTER_WRITE (04 R76): the register takes the value and is full, a pending fill is discarded when it arrives, and a process that
waits for the register goes on. Writes of g0 and of a slot without a resident process do nothing, nor does one in the cycle of a retirement
that writes the register (05 Table 5.2). -/
def slotRegisterWrite (core slot : Nat) (reg : Reg) (val : Word) (s : State) : State :=
  match (s.slot (core * 8 + slot)).occ with
  | none => s
  | some r =>
    match s.proc (core * 256 + r) with
    | none => s
    | some p =>
      if reg = 0 || (decide (s.cycle ≤ p.doneAt) && p.wrote.getLsbD reg.toNat) then s
      else
        let t := s.putProc (core * 256 + r) (p.setReg reg val)
        if p.wait = .reg reg.toNat then t.ready (core * 256 + r) else t

/-- An aligned word written through a record's row, by a process of a name. The tile side alone writes the tile table (09 R273). -/
def State.putView (s : State) (name c off : Nat) (w : Word) : State :=
  match rowOf off with
  | .tile => s
  | .pen =>
    let k := c * 256 + (off - 0x140000) / 256
    match s.proc k with
    | some p =>
      (match recordWrite p (s.inSlot p) ((off - 0x140000) / 8 % 32) w with
       | some q => s.putProc k q
       | none => let t := (s.leaveRecord p).outOfPens p
                 { t with procs := tdel t.procs k }.writeNum (windowBase c + off) 8 w.toNat)
    | none => s
  | .ep =>
    let k := epKey c ((off - 0x160000) / 32)
    match s.ep k with
    | some e =>
      (match epWrite e ((off - 0x160000) / 8 % 4) w with
       | some x => s.putEp k x
       | none => { s with eps := tdel s.eps k })
    | none => s
  | .slot => s.after 0 (.slotRegisterWrite c ((off - 0x170000) / 128) (BitVec.ofNat 4 ((off - 0x170000) / 8 % 16)) w)
  | .csr =>
    let n := (off - 0x180000) / 8
    if n = 0x7C8 then
      (if tinvOk w && ((s.named name).map (fun e => decide (e.2.level ≠ 0))).getD false then s.after 0 (.tinvWrite c name w) else s)
    else s.after 0 (.csrWindowWrite c n w)
  | _ => s

/-- A number of at most 8 bytes that lies in one aligned word, written to physical memory through the rows of Table 4.2. -/
def State.storePhys (s : State) (_core name : Nat) (pa size v : Nat) : State :=
  match placeOf pa with
  | .core c off =>
    if (s.viewWord c (off / 8 * 8)).isSome then
      let sh := 8 * (off % 8)
      let old := (s.physWord (pa / 8 * 8)).toNat
      let keep := old - old / 2 ^ sh % 2 ^ (8 * size) * 2 ^ sh
      s.putView name c (off / 8 * 8) (BitVec.ofNat 64 (keep + v % 2 ^ (8 * size) * 2 ^ sh))
    else s.writeNum pa size v
  | _ => s.writeNum pa size v

end Sys2Proof.Machine
end

