-- ==== Sys2Proof/Machine/Translate.lean ====
section
/-! DEFINITION. Virtual addresses and their translation (04 R79 to R82, R408), and the windows (04 R75 to R78). -/

namespace Sys2Proof.Machine

/-! ### Windows -/

/-- One window register grants an access (04 R77, Table 4.3). -/
def winGrants (w : Word) (off size gid : Nat) (rd wr guarded : Bool) : Bool :=
  w.getLsbD 40 &&
  decide ((w.extractLsb' 0 15).toNat ≤ off / 64) && decide ((off + size - 1) / 64 ≤ (w.extractLsb' 15 15).toNat) &&
  (!rd || w.getLsbD 41) && (!wr || w.getLsbD 42) && (!guarded || w.getLsbD 43) &&
  (w.getLsbD 47 || decide ((w.extractLsb' 48 16).toNat = gid))

/-- Whether R77 subjects an access to the check: a process at U, towards another core's window or a protected row; or 11 R336 does: towards the engine
block of another fold. -/
def windowChecked (core level pa : Nat) : Bool :=
  match placeOf pa with
  | .core c off => decide (level = 0) && (decide (c ≠ core) || (rowOf off).guarded)
  | .spe f _ => decide (level = 0) && decide (f ≠ foldOf core)
  | _ => false

/-- Whether the windows accept an access that is checked; none does for an engine block (11 R336). -/
def State.windowAccepts (s : State) (pa size gid : Nat) (rd wr : Bool) : Bool :=
  match placeOf pa with
  | .core c off => (s.core c).wins.toList.any (fun w => winGrants w off size gid rd wr (rowOf off).guarded)
  | .spe _ _ => false
  | _ => true

/-- Whether an access passes R77: it needs no check, or a window accepts it. -/
def State.passes (s : State) (core gid level pa size : Nat) (rd wr : Bool) : Bool :=
  !windowChecked core level pa || s.windowAccepts pa size gid rd wr

/-- Whether every byte of an access is backed (04 R75): its package is of the installation, its fold not fenced off
(13 R400), its row present. -/
def State.backed (s : State) (pa size : Nat) : Bool :=
  s.packages.contains (pkgOfAddr pa) &&
  (match placeOf pa, placeOf (pa + size - 1) with
   | .hbm d _, .hbm e _ => d == e
   | .core c o, .core d e => c == d && rowBacked c o && rowBacked c e && rowOf o == rowOf e && !(s.fold (foldOf c)).fenced
   | .sram f _, .sram g _ => f == g && !(s.fold f).fenced
   | .spe f o, .spe g e => f == g && decide (o < 0x18000) && decide (e < 0x18000) && !(s.fold f).fenced
   | _, _ => false)

/-- Whether an address lies in a slot-register or CSR row, which take only aligned 8-byte accesses (04 R76). -/
def wordRow (pa : Nat) : Bool :=
  match placeOf pa with
  | .core _ off => rowOf off == .slot || rowOf off == .csr
  | _ => false

/-! ### Aliases and page tables -/

/-- The aliases of R79: an address with bit 55 set, as seen from a core. -/
def aliasPa (core va : Nat) : Option Nat :=
  if 0xC0000000000000 ≤ va ∧ va < 0xC0000000000000 + 0x200000 then some (windowBase core + (va - 0xC0000000000000))
  else if 0x80000000000000 ≤ va ∧ va < 0x80000000000000 + 0x1000000 then
    some (foldBase (foldOf core) + (va - 0x80000000000000))
  else none

/-- The fields of a page-table entry (04 Table 4.4). -/
def pteAddr (e : Word) : Nat := e.toNat / 2 ^ 12 * 2 ^ 12
def pteReserved (e : Word) : Bool := e.getLsbD 4 || e.getLsbD 6 || e.getLsbD 9 || e.getLsbD 10 || e.getLsbD 11
def pteValid (e : Word) : Bool := e.getLsbD 0
def pteLeaf (e : Word) : Bool := e.getLsbD 1
def pteSz32 (e : Word) : Bool := e.getLsbD 8

/-- The size of the page that a leaf of level 2 or 3 maps (04 R80). -/
def leafSize (lvl : Nat) (e : Word) : Nat :=
  if lvl = 2 then 2 ^ 31 else if pteSz32 e then 2 ^ 25 else 2 ^ 19

/-- The index of a virtual address at a level (04 R80). -/
def pteIndex (va lvl : Nat) : Nat :=
  match lvl with
  | 1 => va / 2 ^ 43 % 4096
  | 2 => va / 2 ^ 31 % 4096
  | _ => va / 2 ^ 19 % 4096

/-- What a walk makes of an entry (04 R80): a fault, the next table, or a page. -/
inductive WalkStep where
  | fault
  | table (pa : Nat)
  | page (t : Tlb)
  deriving DecidableEq, Repr

/-- One level of a walk (04 R80). -/
def walkStep (asid va lvl : Nat) (e : Word) : WalkStep :=
  if !pteValid e || pteReserved e then .fault
  else if !pteLeaf e then
    if lvl = 3 || pteSz32 e || decide (pteAddr e % 2 ^ 15 ≠ 0) then .fault else .table (pteAddr e)
  else if lvl = 1 || (lvl = 2 && pteSz32 e) then .fault
  else
    let sz := leafSize lvl e
    if pteAddr e % sz ≠ 0 then .fault
    else .page { asid := asid, va := va / sz * sz, size := sz, pa := pteAddr e,
                 r := e.getLsbD 2, w := e.getLsbD 3, u := e.getLsbD 5, g := e.getLsbD 7 }

/-- A whole walk of the tables as memory stands (04 R80): `fuel` levels from `lvl`. -/
def State.walkFrom (s : State) (asid va : Nat) : Nat → Nat → Nat → Option Tlb
  | 0, _, _ => none
  | fuel + 1, lvl, table =>
    let a := table + pteIndex va lvl * 8
    if !s.backed a 8 || s.poisoned a 8 then none
    else
      match walkStep asid va lvl (BitVec.ofNat 64 (s.loadPhys a 8)) with
      | .fault => none
      | .table t => s.walkFrom asid va fuel (lvl + 1) t
      | .page t => some t

/-- The page of a virtual address, by the tables of an address space. -/
def State.walk (s : State) (asid root va : Nat) : Option Tlb := s.walkFrom asid va 3 1 root

/-- A translation that covers an address of an address space (04 R80: a global entry matches every ASID). -/
def tlbCovers (t : Tlb) (asid va : Nat) : Bool :=
  (t.g || t.asid == asid) && decide (t.va ≤ va) && decide (va < t.va + t.size)

/-- Whether a page grants what an access needs (04 R80). -/
def tlbGrants (t : Tlb) (level : Nat) (needR needW : Bool) : Bool :=
  (!needR || t.r) && (!needW || t.w) && (decide (level ≠ 0) || t.u)

/-- The physical address of a virtual one in its page. -/
def tlbPhysical (t : Tlb) (va : Nat) : Nat := t.pa + (va - t.va)

/-- Whether a 64-bit value is a virtual address that is not an alias (04 R79). -/
def isPaged (va : Nat) : Bool := decide (va < 2 ^ 55)

/-- The translation an engine makes for a process (04 R79, R80): the aliases of the core, else the page tables. -/
def State.translateNow (s : State) (core asid root level va : Nat) (needR needW : Bool) : Option Nat :=
  if isPaged va then
    match s.walk asid root va with
    | some t => if tlbGrants t level needR needW then some (tlbPhysical t va) else none
    | none => none
  else aliasPa core va

/-! ### The caches (04 R81) -/

/-- The set of the fold translator that an entry lies in. -/
def transSet (t : Tlb) : Nat := t.va / t.size % 128

/-- An entry put at the front of a set, the least recently used beyond the ways given up. -/
def useEntry (t : Tlb) (ways : Nat) (l : List Tlb) : List Tlb := (t :: l.filter (fun x => x != t)).take ways

/-- A lookup in the fold translator: the sets of all three page sizes are probed at once (04 R81). -/
def FoldS.lookup (f : FoldS) (asid va : Nat) : Option Tlb :=
  [2 ^ 19, 2 ^ 25, 2 ^ 31].findSome? (fun sz =>
    (tgetD f.trans (va / sz % 128) []).find? (fun t => decide (t.size = sz) && tlbCovers t asid va))

/-- The fold translator with an entry placed or used. -/
def FoldS.touch (f : FoldS) (t : Tlb) : FoldS :=
  { f with trans := tput f.trans (transSet t) (useEntry t 16 (tgetD f.trans (transSet t) [])) }

/-- The micro translation cache of a core with an entry placed or used (04 R81). -/
def CoreS.touch (c : CoreS) (t : Tlb) : CoreS := { c with tlb := useEntry t 32 c.tlb }

/-- What a load, store or atomic finds when it translates at a core (04 R79 to R81). -/
inductive Xres where
  | pa (a : Nat) (t : Option Tlb)
  | fault
  | miss
  deriving DecidableEq, Repr

/-- The translation of a process's address at its core's micro cache (04 R79, R81). -/
def State.translate (s : State) (p : Proc) (va : Nat) (needR needW : Bool) : Xres :=
  if isPaged va then
    match (s.core p.core).tlb.find? (fun t => tlbCovers t (s.asidOf p) va) with
    | some t => if tlbGrants t p.level needR needW then .pa (tlbPhysical t va) (some t) else .fault
    | none => .miss
  else
    match aliasPa p.core va with
    | some a => .pa a none
    | none => .fault

/-- A load or atomic misses the micro cache: its lookup in the fold translator takes 4 cycles, and the process waits in
its slot and then tries again (04 R81, R408). -/
def State.lookup (s : State) (k : Nat) (p : Proc) (va : Nat) (needR needW : Bool) : State :=
  (s.after 4 (.translatorLookupDone
    { core := p.core, name := p.name, va := va, asid := s.asidOf p, root := s.rootOf p, level := p.level,
      needR := needR, needW := needW, store := none })).park k .xlat

/-- The translator's read of the entry at a level of a walk (04 R81, R408). -/
def State.walkRead (s : State) (x : Xlat) (lvl table : Nat) : State :=
  let a := table + pteIndex x.va lvl * 8
  if !s.backed a 8 || s.poisoned a 8 then s.after 1 (.pageWalkEnd x none)
  else (s.bookAt (s.cycle + s.wayFrom (foldOf x.core) a) a 8).after (s.walkTime (foldOf x.core) a) (.pageWalkRead x lvl (BitVec.ofNat 64 (s.loadPhys a 8)))

/-- Whether two requests ask for the same page (04 R81: misses to one page are one walk). -/
def samePage (x y : Xlat) : Bool := x.asid == y.asid && x.root == y.root && x.va / 2 ^ 19 == y.va / 2 ^ 19

end Sys2Proof.Machine
end

