-- ==== Sys2Proof/Machine/StorePath.lean ====
section
/-! DEFINITION. The store path (04 R83 to R87): the store buffer, translation of stores, the store fault queue, the
imprecise stop, and the events of this path. -/

namespace Sys2Proof.Machine

/-- A store of a core's buffer by its number. -/
def State.sbEntry (s : State) (core id : Nat) : Option SbEntry := (s.core core).sb.find? (fun e => e.id == id)

/-- A store of a core's buffer changed. -/
def State.modSb (s : State) (core id : Nat) (f : SbEntry → SbEntry) : State :=
  s.modCore core (fun c => { c with sb := c.sb.map (fun e => if e.id = id then f e else e) })

/-- A store taken out of a core's buffer. -/
def State.dropSb (s : State) (core id : Nat) : State :=
  s.modCore core (fun c => { c with sb := c.sb.filter (fun e => e.id != id) })

/-- Whether a process has a store in its core's buffer. -/
def State.hasStores (s : State) (p : Proc) : Bool := (s.core p.core).sb.any (fun e => e.name == p.name)

/-- The physical address of a store in a core's buffer, as its own translation found it or as the tables stand. -/
def State.sbPa (s : State) (core : Nat) (e : SbEntry) : Option Nat :=
  match e.pa with
  | some pa => some pa
  | none => s.translateNow core e.asid e.root e.level e.va false true

/-- Whether two ranges of bytes meet. -/
def meet (a n b m : Nat) : Bool := decide (a < b + m) && decide (b < a + n)

/-- Whether a process has a store in the buffer that overlaps bytes, under their virtual or their physical address, and is not performed
yet (04 R83, R94). -/
def State.overlapping (s : State) (p : Proc) (va pa size : Nat) : Bool :=
  (s.core p.core).sb.any (fun e => e.name == p.name && !e.done &&
    (meet e.va e.size va size || ((s.sbPa p.core e).map (fun a => meet a e.size pa size)).getD false))

/-! ### Atomics at their home (04 R97, 05 R125) -/

/-- The new value of a location under an atomic: function code, width, old value, operand b, comparand (05 R125). The values are
numbers below 2^32 at .W and below 2^64 at .D. -/
def amoNew (op : Nat) (dbl : Bool) (old b cmp : Nat) : Nat :=
  let n := if dbl then 64 else 32
  let sg (x : Nat) : Int := if 2 ^ (n - 1) ≤ x then (x : Int) - 2 ^ n else x
  match op with
  | 0 => (old + b) % 2 ^ n
  | 1 => old &&& b
  | 2 => old ||| b
  | 3 => old ^^^ b
  | 4 => if sg b < sg old then b else old
  | 5 => if sg old < sg b then b else old
  | 6 => if b < old then b else old
  | 7 => if old < b then b else old
  | 8 => b
  | 9 => if old = cmp then b else old
  | _ => if dbl then (fp64.add .rne old b).1 else (fp32.add .rne old b).1

/-- An atomic's width in bytes. -/
def amoSize (dbl : Bool) : Nat := if dbl then 8 else 4

/-- An atomic performed at its location as one step (04 R97): the old value and the state after. -/
def State.atomic (s : State) (x : Access) (op : Nat) (dbl : Bool) (b cmp : Word) : Nat × State :=
  let n := amoSize dbl
  let old := s.loadPhys x.addr n
  (old, s.storePhys x.core x.name x.addr n (amoNew op dbl old (b.toNat % 2 ^ (8 * n)) (cmp.toNat % 2 ^ (8 * n))))

/-- An atomic that has no refusal to fear is performed at its home (04 R97); its old value travels back from a cycle on. -/
def State.amoPerform (s : State) (x : Access) (at_ : Nat) : State :=
  match x.kind with
  | .amo op dbl b cmp reg tag =>
    let r := s.atomic x op.toNat dbl b cmp
    r.2.atCycle (at_ + s.wayTo x.core x.addr + 1) (.fill ⟨x.name, reg, tag⟩ (BitVec.ofNat 64 r.1))
  | _ => s

/-- Whether an event is an atomic of a process on its way to its home, of a kind. -/
def isAmo (name : Nat) (which : Access → Bool) (e : Ev) : Bool :=
  match e with
  | .amoAtHome x => x.name == name && which x
  | _ => false

/-- Atomics of a process that are on their way are performed at once, where a later access of the process to the same bytes or a release needs
it; their values come back when they would (04 R94 to R98, log 5). -/
def State.pullAmos (s : State) (name : Nat) (which : Access → Bool) : State :=
  (s.agenda.filter (fun e => isAmo name which e.2)).foldl (fun t e =>
    match e.2 with
    | .amoAtHome x => t.amoPerform x e.1
    | _ => t) { s with agenda := s.agenda.filter (fun e => !isAmo name which e.2) }

/-! ### Faults of stores -/

/-- Whether a process with a stop or records has all its posted stores settled, so that its records can be copied (04
R85). -/
def State.settle (s : State) (name : Nat) : State :=
  s.modNamed name (fun _ p t =>
    if p.stopped && !t.hasStores p then t.after 4 (.sfqCopy name) else t)

/-- The process of a settled store goes on, if it waited for its stores (04 R86, R96, R97; 06 R160). -/
def State.storesChanged (s : State) (name : Nat) : State :=
  s.modNamed name (fun k p t =>
    match p.wait with
    | .stores => t.ready k
    | .exitDrain => if t.hasStores p then t else t.after 0 (.exitDrainComplete name)
    | _ => t)

/-- A process stops for a store fault (04 R85): it is TRAPPED from this cycle on, with EPC at the first instruction not
issued. A precise trap that came first keeps its cause (05 R134). An instruction that an engine has in hand has issued: it ends, and EPC is set
then (log 14). -/
def State.stopStore (s : State) (k : Nat) (p : Proc) (va : Nat) : State :=
  if p.st = .trapped then s.putProc k { p with stopped := true }
  else
    let q := if p.wait = .engine then p else { p.dropHold.endGroup with wait := .none, pc := p.trapPc, exiting := none }
    (if p.st = .ready then s.outOfPens p else s).putProc k { q with
      st := .trapped, stopped := true, ecause := 0x05, eval := BitVec.ofNat 64 va, epc := p.trapPc, deadline := 0, vcheck := p.vact }

/-- An instruction of an engine has retired or trapped: EPC of a process that a store fault has stopped meanwhile is where it goes on (04 R85; log
14). -/
def State.endEngine (s : State) (k : Nat) : State :=
  match s.proc k with
  | some p => if p.stopped && p.wait != .engine && p.st == .trapped then s.putProc k { p with epc := p.pc, vcheck := p.vact } else s
  | none => s

/-- A faulting store writes its record (04 R84): into the core's SFQ if it has room, else the store stays in the buffer until
it has. Stores of a killed process that fault are discarded (06 R162). -/
def State.sfqWrite (s : State) (core : Nat) (e : SbEntry) (cause : Nat) : State :=
  match s.named e.name with
  | none => s.dropSb core e.id
  | some (k, p) =>
    if 8 ≤ (s.core core).sfq.length then s.modSb core e.id (fun x => { x with stuck := some cause })
    else
      let r : SfqRec :=
        { name := e.name, va := e.va, data := e.data, pc := e.pc, cause := cause, size := e.size, time := s.gtc }
      let t := (s.dropSb core e.id).modCore core (fun c => { c with sfq := c.sfq ++ [r] })
      let first := !((s.core core).sfq.any (fun x => x.name == e.name)) && !p.stopped
      ((if first then t.stopStore k p e.va else t).settle e.name)

/-- Whether a vector store has lines still to post (09 R269). -/
def State.posting (s : State) (core batch : Nat) : Bool :=
  s.procs.any (fun e => decide (e.1 / 256 = core) &&
    (match e.2.hold with
     | some h => decide (h.arg2 = postingMark) && decide ((h.words.headD 0).toNat = batch)
     | none => false))

/-- The elements of a vector store that fault (09 R269): of them the lowest is kept and the others are discarded, and once no other
element of the store is on its way or to be posted, it writes the record. -/
def State.settleBatch (s : State) (core batch : Nat) : State :=
  let es := (s.core core).sb.filter (fun e => e.batch == batch)
  match (if batch = 0 then [] else es.filter (fun e => e.stuck.isSome)) with
  | e :: rest =>
    let t := rest.foldl (fun t x => t.dropSb core x.id) s
    if es.all (fun x => x.stuck.isSome) && !s.posting core batch then
      t.sfqWrite core { e with stuck := none } (e.stuck.getD causeStoreFault)
    else t
  | [] => s

/-- A store faults (04 R84, 09 R269): it writes its record, but an element of a vector store waits for the others. -/
def State.sfqRecord (s : State) (core : Nat) (e : SbEntry) (cause : Nat) : State :=
  if e.batch = 0 then s.sfqWrite core e cause
  else (s.modSb core e.id (fun x => { x with stuck := some cause })).settleBatch core e.batch

/-- A store into a listed line of the bundle that its process has open is held by the bundle stager, not performed (12 R386). -/
def State.stage (s : State) (e : SbEntry) (pa : Nat) : Option State :=
  match tget s.bundles e.name with
  | some b =>
    if b.phase = 0 && !e.push && b.lines.any (fun l => l.2.1 == pa / 64 * 64) then
      let bs := (leBytes e.size e.data.toNat).mapIdx (fun i x => (pa + i, x))
      let c := { b with staged := b.staged.filter (fun x => decide (x.1 < pa) || decide (pa + e.size ≤ x.1)) ++ bs }
      some { s with bundles := tput s.bundles e.name c }
    else none
  | none => none

/-- A store's bytes reach memory (04 R83), or the bundle stager (12 R386). -/
def State.performBytes (s : State) (core : Nat) (e : SbEntry) (pa : Nat) : State :=
  ((s.stage e pa).getD (s.storePhys core e.name pa e.size e.data.toNat)).modSb core e.id (fun x => { x with done := true })

/-- A store is performed before its own path does it (04 Table 4.7, log 5). One that would fault is left to that path. -/
def State.performEarly (s : State) (core : Nat) (e : SbEntry) : State :=
  match s.translateNow core e.asid e.root e.level e.va false true with
  | some pa =>
    if s.backed pa e.size && s.passes core e.gid e.level pa e.size false true &&
        (!wordRow pa || decide (e.size = 8)) && s.reachable (pkgOf core) (pkgOfAddr pa)
    then s.performBytes core e pa else s
  | none => s

/-- A store is performed (04 R83). The writes of one location by one process keep program order (R94): where an older store of the process to
the same bytes is not performed, its older stores are performed first, and so are its atomics there that are on their way. -/
def State.performStore (s : State) (core : Nat) (e : SbEntry) (pa : Nat) : State :=
  if e.done then s
  else
    let older := (s.core core).sb.filter (fun x => x.name == e.name && !x.done && x.stuck.isNone && decide (x.id < e.id))
    let t := s.pullAmos e.name (fun x => meet x.addr x.size pa e.size)
    let u := if older.any (fun x => ((s.sbPa core x).map (fun a => meet a x.size pa e.size)).getD false)
      then older.foldl (fun v x => v.performEarly core x) t else t
    u.performBytes core e pa

/-- Whether a peer entry is valid and names a package (12 Table 12.2). -/
def peerNames (w : Word) (pkg : Nat) : Bool := w.getLsbD 63 && decide ((w.extractLsb' 48 12).toNat = pkg)

/-- Sets a group's peer bit for a package that traffic could not reach (12 R371); the bits set are counted (13 R404). -/
def State.peerFail (s : State) (gid pkg : Nat) : State :=
  match s.group? gid with
  | none => s
  | some g =>
    match g.peers.findIdx? (fun w => peerNames w pkg) with
    | some i =>
      let t := s.putGroup gid { g with failBits := g.failBits ||| BitVec.ofNat 64 (2 ^ i) }
      if g.failBits.getLsbD i then t else t.addLife (pkgOf g.home) lifePeer 1
    | none => s.putGroup gid { g with unnamed := true }

/-- A translated store sets out for its target (04 R83, R408): another package, a core window or an engine block is reached first, any other target
acknowledges it or answers it as unbacked (R75). Towards a package that cannot be reached it is lost, the peer bit is
set, and it counts as complete (12 R371). -/
def State.sendStore (s : State) (core : Nat) (e : SbEntry) (pa : Nat) : State :=
  let t := s.modSb core e.id (fun x => { x with pa := some pa })
  if !s.reachable (pkgOf core) (pkgOfAddr pa) && s.packages.contains (pkgOfAddr pa) then
    ((t.modSb core e.id (fun x => { x with done := true })).peerFail e.gid (pkgOfAddr pa)).after 1 (.storeAck core e.id)
  else
    let x : Access :=
      { kind := .store e.id, addr := pa, va := e.va, size := e.size, data := e.data, core := core, name := e.name,
        gid := e.gid, level := e.level }
    if (s.stage e pa).isSome then (t.performStore core e pa).after 1 (.storeAck core e.id)
    else if pkgOf core ≠ pkgOfAddr pa && s.packages.contains (pkgOfAddr pa) then t.sendAcross x
    else
      match placeOf pa with
      | .core _ _ => t.after (s.wayTo core pa) (.remoteAccessArrival x)
      | .spe _ _ => t.after (s.wayTo core pa) (.remoteAccessArrival x)
      | _ =>
        if s.backed pa e.size then (t.book core pa e.size).after (s.accessTime core pa e.size) (.storeAck core e.id)
        else t.after (s.accessTime core pa e.size) (.storeNak core e.id causeStoreFault)

/-- A store has its page (04 R80): the right to write is checked, and it sets out or faults. -/
def State.storeMapped (s : State) (core : Nat) (e : SbEntry) (t : Tlb) : State :=
  if tlbGrants t e.level false true then s.sendStore core e (tlbPhysical t e.va) else s.sfqRecord core e causeStoreFault

/-- The atomics of a process that are on their way and its stores that are still in the buffer are performed at once, oldest first, where a
release needs them visible and waits for nothing (04 Table 4.7, log 5). A store that would fault is left to its own path. -/
def State.releaseStores (s : State) (k : Nat) : State :=
  match s.proc k with
  | none => s
  | some p =>
    ((s.core p.core).sb.filter (fun e => e.name == p.name && !e.done && e.stuck.isNone)).foldl (fun t e => t.performEarly p.core e)
      (s.pullAmos p.name (fun _ => true))

/-! ### Events -/

/-- STORE_TRANSLATE (04 R79, R408): an alias resolves at once; any other address looks up in the fold translator. -/
def storeTranslate (core id : Nat) (s : State) : State :=
  match s.sbEntry core id with
  | none => s
  | some e =>
    if isPaged e.va then
      s.after 4 (.translatorLookupDone
        { core := core, name := e.name, va := e.va, asid := e.asid, root := e.root, level := e.level,
          needR := false, needW := true, store := some id })
    else
      match aliasPa core e.va with
      | some pa => s.sendStore core e pa
      | none => s.sfqRecord core e causeStoreFault

/-- The mark in a hold of a vector access whose pages are being translated, and the word that stands for a lane without a page
(09 R268). -/
def pagesMark : Nat := 7
def noPage : Word := BitVec.allOnes 64

/-- A hold of a vector access with the next lane found to have no page. -/
def noPageHold (h : Hold) : Hold := { h with words := h.words ++ [noPage] }

/-- A load or atomic that waits for its translation has none, or lacks the right to the page: LOAD_FAULT in this cycle (04 R80, R408), of an LDM or
STM with its register (05 R121). A lane of a vector access is noted. -/
def State.xlatFault (s : State) (x : Xlat) : State :=
  s.modNamed x.name (fun k p t =>
    if p.wait = .xlat then
      (if (p.hold.map Hold.arg2) == some pagesMark then (t.putProc k { p with hold := p.hold.map noPageHold }).ready k
       else if p.restart = 0 then t.raise k causeLoadFault (BitVec.ofNat 64 x.va)
       else t.raise k causeLoadFault (BitVec.ofNat 64 (x.va % 2 ^ 56 + p.restart * 2 ^ 56)))
    else t)

/-- A load or atomic, or the store of the buffer, for which a translation was asked goes on with the page found, if that grants what it needs
(04 R80, R408). -/
def State.mapped (s : State) (x : Xlat) (t : Tlb) : State :=
  match x.store with
  | some id =>
    match s.sbEntry x.core id with
    | some e => s.storeMapped x.core e t
    | none => s
  | none =>
    let u := s.modCore x.core (fun c => c.touch t)
    if tlbGrants t x.level x.needR x.needW then u.modNamed x.name (fun k p v => if p.wait = .xlat then v.ready k else v)
    else u.xlatFault x

/-- TRANSLATOR_LOOKUP_DONE (04 R81, R408): a hit is used; a miss joins the walk for its page or starts one. -/
def translatorLookupDone (x : Xlat) (s : State) : State :=
  let f := foldOf x.core
  match (s.fold f).lookup x.asid x.va with
  | some t => (s.modFold f (fun y => y.touch t)).mapped x t
  | none =>
    let u := s.modFold f (fun y => { y with walks := y.walks ++ [x] })
    if (s.fold f).walks.any (samePage x) then u else u.walkRead x 1 x.root

/-- PAGE_WALK_READ (04 R80, R81): the entry read leads to the next table, to a page, or to a fault; a walk ends in the cycle
after its last read. -/
def pageWalkRead (x : Xlat) (lvl : Nat) (entry : Word) (s : State) : State :=
  match walkStep x.asid x.va lvl entry with
  | .fault => s.after 1 (.pageWalkEnd x none)
  | .table a => s.walkRead x (lvl + 1) a
  | .page t => s.after 1 (.pageWalkEnd x (some t))

/-- PAGE_WALK_END (04 R408): the page is installed and every request for it goes on, or each of them faults in this
cycle: a store by its record (04 R84), a load or atomic by LOAD_FAULT (04 R80). -/
def pageWalkEnd (x : Xlat) (r : Option Tlb) (s : State) : State :=
  let f := foldOf x.core
  let ws := (s.fold f).walks.filter (samePage x)
  let u := s.modFold f (fun y => { y with walks := y.walks.filter (fun w => !samePage x w) })
  match r with
  | some t => ws.foldl (fun v w => v.mapped w t) (u.modFold f (fun y => y.touch t))
  | none =>
    ws.foldl (fun v w =>
      match w.store with
      | some id =>
        match v.sbEntry w.core id with
        | some e => v.sfqRecord w.core e causeStoreFault
        | none => v
      | none => v.xlatFault w) u

/-- STORE_ACK (04 R83): the store is complete; the target's bytes hold it, unless a release performed it before. -/
def storeAck (core id : Nat) (s : State) : State :=
  match s.sbEntry core id with
  | none => s
  | some e =>
    let t := ((match e.pa with | some pa => s.performStore core e pa | none => s).dropSb core id).settleBatch core e.batch
    (t.settle e.name).storesChanged e.name

/-- STORE_NAK (04 R78, R84): the refused or unbacked store writes its record. -/
def storeNak (core id cause : Nat) (s : State) : State :=
  match s.sbEntry core id with
  | none => s
  | some e => (s.sfqRecord core e cause).storesChanged e.name

/-- SFQ_COPY (04 R85): the records of a stopped process move to its extension, its notification is queued, and stores that
waited for room in the SFQ write their records. -/
def sfqCopy (name : Nat) (s : State) : State :=
  s.modNamed name (fun k p t =>
    if !p.stopped || t.hasStores p then t
    else if p.wait = .engine then t.after 4 (.sfqCopy name)
    else
      let mine := (t.core p.core).sfq.filter (fun r => r.name == name)
      let u := (t.putProc k { p with sfq := p.sfq ++ mine, stopped := false }).modCore p.core
        (fun c => { c with sfq := c.sfq.filter (fun r => r.name != name) })
      let v := if p.ecause = 0x05 then u.queueNote p 0 else u
      ((v.core p.core).sb.filter (fun e => e.stuck.isSome)).foldl
        (fun w e =>
          if e.batch = 0 then w.sfqWrite p.core { e with stuck := none } (e.stuck.getD causeStoreFault)
          else w.settleBatch p.core e.batch) v)

end Sys2Proof.Machine
end

