-- ==== Sys2Proof/Machine/LoadStore.lean ====
section
/-! DEFINITION. Scalar loads and stores, majors 0x10 to 0x12 (05 R118 to R121), the arrival of values (05 R104) and of
accesses at core windows (04 R77, R78). -/

namespace Sys2Proof.Machine

/-! ### Values -/

/-- A loaded value of `size` bytes, sign- or zero-extended (05 R118). -/
def extend (size : Nat) (signed : Bool) (v : Nat) : Word :=
  let w := v % 2 ^ (8 * size)
  if signed && decide (2 ^ (8 * size - 1) ≤ w) then BitVec.ofInt 64 ((w : Int) - 2 ^ (8 * size)) else BitVec.ofNat 64 w

/-- A byte of a store's data. -/
def storeByte (e : SbEntry) (i : Nat) : Byte := BitVec.ofNat 8 (e.data.toNat / 2 ^ (8 * i))

/-- The byte at an address as a process sees it: that of its youngest buffered store that holds it, under its virtual or its physical
address, else the one given (04 R83, R95). -/
def State.forwarded (s : State) (p : Proc) (va pa : Nat) (b : Byte) : Byte :=
  (s.core p.core).sb.foldl (fun x e =>
    if e.name != p.name || e.done then x
    else if e.va ≤ va && decide (va < e.va + e.size) then storeByte e (va - e.va)
    else
      match s.sbPa p.core e with
      | some a => if a ≤ pa && decide (pa < a + e.size) then storeByte e (pa - a) else x
      | none => x) b

/-- The byte at a physical address as a writer sees it: that staged for its bundle, else the one given (12 R386). -/
def State.stagedByte (s : State) (name pa : Nat) (b : Byte) : Byte :=
  match tget s.bundles name with
  | some x => ((x.staged.find? (fun e => e.1 == pa)).map Prod.snd).getD b
  | none => b

/-- The bytes of a load with the process's staged and buffered stores over memory (04 R83, 05 R118, 12 R386). -/
def State.readThrough (s : State) (p : Proc) (va pa size : Nat) : Nat :=
  leNat ((leBytes size (s.loadPhys pa size)).mapIdx (fun i b => s.forwarded p (va + i) (pa + i) (s.stagedByte p.name (pa + i) b)))

/-- The atomics of a process to bytes that it reads now are performed first (04 R95). -/
def State.beforeRead (s : State) (p : Proc) (pa size : Nat) : State := s.pullAmos p.name (fun x => meet x.addr x.size pa size)

/-- Completes an instruction that has issued and waits: it retires with these writes, and its process goes on (06 Table
6.4). -/
def State.complete (s : State) (k : Nat) (ws : List (Reg × Word)) : State :=
  match s.proc k with
  | some p =>
    match p.hold with
    | some h => (s.retire k h.consume ws).ready k
    | none => s
  | none => s

/-- A value is on its way to a register of a process, as a load's: FENCE .acq waits for it (04 R96). -/
def State.sendLoad (s : State) (k : Nat) (p : Proc) (d : Reg) (v : Word) (n : Nat) : State :=
  ((s.produce k d).modProc k (fun q => { q with loads := q.loads ++ [(d, p.nextTag d)] })).after n (.fill (p.dest d) v)

/-- A process stays at its instruction until a value has come for its destination, which is emptied now (05 R104; log 9). -/
def State.awaitAnswer (s : State) (k : Nat) (p : Proc) (d : Reg) (c : BitVec 16) : State :=
  (s.produce k d).modProc k (fun q => { q with
    st := .parked, wait := .access, blockedAt := s.cycle,
    hold := some { consume := c, dst := some d, issuedAt := s.cycle, arg := (p.nextTag d).toNat, old := some (p.cell d) } })

/-- A bound port whose long-latency producers have delivered pushes the values that no producer is ahead of, while there is room
(05 R110). -/
def State.flushPort (s : State) (k q : Nat) : Nat → State
  | 0 => s
  | fuel + 1 =>
    match s.proc k with
    | none => s
    | some p =>
      let x := p.ports.toList.getD q {}
      match x.held, s.portRoom p q with
      | (_, some v) :: rest, .elem _ => (((s.putProc k (p.putPort q { x with held := rest })).releaseStores k).rawPush k q v).flushPort k q fuel
      | _, _ => s

/-- The mark by which the end of a channel instruction's wait is known: a tag that no producer of the register has (07 R198). -/
def Proc.mark (p : Proc) (r : Reg) : BitVec 2 := if r = 0 then 3 else p.nextTag r

/-- Whether a value ends the wait of a matched channel instruction (07 R198, R212). -/
def Proc.awaits (p : Proc) (f : FillTo) : Bool :=
  match p.wait, p.hold with
  | .chan _, some h => h.dst == some f.reg && decide (h.arg = f.tag.toNat) && decide (h.arg2 = 1)
  | _, _ => false

/-- A value reaches the register of a process for which it was called for (05 R104, R110; 03 R55): it is accepted or discarded, the port that the
register names gets its push, and the post of a ONCE sets out. -/
def State.fillReg (s : State) (k : Nat) (p : Proc) (f : FillTo) (v : Word) : State :=
  let due := s.onceDue.find? (fun o => o.1 == f.name && o.2.1 == f.reg && o.2.2.1 == f.tag)
  let t1 := match due with
    | some o => { s with onceDue := s.onceDue.erase o }
    | none => s
  let p1 := { p.fill f.reg f.tag v with loads := p.loads.erase (f.reg, f.tag) }
  let t2 := match p.portOf f.reg with
    | some q =>
      let q' := { q with held := q.held.map (fun h => if h.1 == f.tag && h.2.isNone then (h.1, some v) else h) }
      (t1.putProc k (p1.putPort (f.reg.toNat - 8) q')).flushPort k (f.reg.toNat - 8) 4
    | none => t1.putProc k p1
  match due with
  | some o => t2.post p o.2.2.2 v
  | none => t2

/-- The value of a long-latency producer reaches the process (05 R104, 06 R139): accepted or discarded by its tag; a port
that the register names gets a push; a process that waits for the register tries again; the posts of a ONCE follow. -/
def fill (f : FillTo) (v : Word) (s : State) : State :=
  s.modNamed f.name (fun k p t =>
    -- a RECV of an end retires with d still to be filled (07 R194)
    if p.awaits f && (p.hold.map Hold.words) == some [1] then t.complete k []
    else
    let u := t.fillReg k p f v
    if p.awaits f then u.complete k []
    else
    match p.wait with
    | .reg n => if n = f.reg.toNat then u.ready k else u
    | .loads => if (p.loads.erase (f.reg, f.tag)).isEmpty then u.ready k else u
    | .access =>
      match p.hold with
      | some h => if h.dst == some f.reg && decide (h.arg = f.tag.toNat) then u.complete k [] else u
      | none => u
    | _ => u)

/-- The wait of an instruction that has emptied its destination is over: the value fills it by the rule of fills, and it retires (05
R104). -/
def State.completeFill (s : State) (k : Nat) (v : Word) : State :=
  match s.proc k with
  | some p =>
    match p.hold.bind Hold.dst with
    | some d => (s.fillReg k p ⟨p.name, d, if d = 0 then 3 else (p.cell d).tag⟩ v).complete k []
    | none => s.complete k []
  | none => s

/-! ### Accesses that can be refused -/

/-- A load or atomic towards a core window that R77 checks, or an atomic: the access as its target sees it. -/
def accessOf (p : Proc) (kind : AccKind) (pa va size : Nat) (data : Word) : Access :=
  { kind := kind, addr := pa, va := va, size := size, data := data, core := p.core, name := p.name, gid := p.gid, level := p.level }

/-- The fault of an access that no check refuses, at its target (04 R75, R76; 13 R401; 12 R371): cause and value. -/
def State.accessFault (s : State) (p : Proc) (pa va size : Nat) (reads : Bool) : Option (Nat × Word) :=
  if !s.packages.contains (pkgOfAddr pa) then some (causeLoadFault, BitVec.ofNat 64 va)
  else if !s.reachable (pkgOf p.core) (pkgOfAddr pa) then
    let ix := (s.group? p.gid).bind (fun g =>
      g.peers.findIdx? (fun w => peerNames w (pkgOfAddr pa)))
    some (causePeerFail, BitVec.ofNat 64 (ix.getD 64))
  else if !s.backed pa size then some (causeLoadFault, BitVec.ofNat 64 va)
  else if wordRow pa && decide (size ≠ 8) then some (causeMisalign, BitVec.ofNat 64 va)
  else if reads && s.poisoned pa size then some (causeLoadFault, BitVec.ofNat 64 va)
  else none

/-- Raises the fault of an access; one towards an unreachable package also sets the group's peer bit (12 R371). -/
def State.raiseAccess (s : State) (k : Nat) (p : Proc) (pa : Nat) (f : Nat × Word) : State :=
  (if f.1 = causePeerFail then s.peerFail p.gid (pkgOfAddr pa) else s).raise k f.1 f.2

/-- Whether an access of a process goes to another package of the installation that can be reached (12 R361, R364). -/
def State.crosses (s : State) (p : Proc) (pa : Nat) : Bool :=
  pkgOf p.core != pkgOfAddr pa && s.packages.contains (pkgOfAddr pa) && s.reachable (pkgOf p.core) (pkgOfAddr pa)

/-- Whether a process stays at a load or atomic until its target has answered: one that a window may refuse, or in another package (log
9). -/
def State.held (s : State) (p : Proc) (pa : Nat) : Bool :=
  s.crosses p pa || (windowChecked p.core p.level pa && decide (pkgOf p.core = pkgOfAddr pa))

/-- An access for whose answer its process stays at the instruction sets out (log 9). -/
def State.sendHeld (s : State) (p : Proc) (x : Access) : State :=
  if s.crosses p x.addr then s.sendAcross x else s.after (s.accessTime x.core x.addr x.size) (.remoteAccessArrival x)

/-- Whether an address lies in the engine block of a core's own fold (04 R73). -/
def speWindow (core pa : Nat) : Bool :=
  match placeOf pa with
  | .spe f _ => f == foldOf core
  | _ => false

/-- A load that has its translation (05 R118, 04 R75 to R81). The value of a local hit is written at retirement; every other
load empties its destination and its value arrives later. One that a window may refuse, or that goes to another package, keeps its
process at the instruction until the target has answered (log 9). -/
def State.loadAt (s : State) (k : Nat) (p : Proc) (d : Reg) (c : BitVec 16) (pa va size : Nat) (signed : Bool) : State :=
  if s.held p pa then
    (s.awaitAnswer k p d c).sendHeld p (accessOf p (.load d (p.nextTag d) size signed) pa va size 0)
  else
    let s := s.beforeRead p pa size
    match s.accessFault p pa va size true with
    | some f => s.raiseAccess k p pa f
    | none =>
      let v := extend size signed (s.readThrough p va pa size)
      match placeOf pa with
      | .core cr off =>
        if cr = p.core ∧ rowOf off = .scratch then s.retire k c [(d, v)]
        else (s.sendLoad k p d v (s.accessTime p.core pa size)).retire k c []
      | _ =>
        if speWindow p.core pa && !s.overlapping p va pa size then
          -- it is made at the bank when that grants it a port (11 R355)
          (((s.produce k d).modProc k (fun q => { q with loads := q.loads ++ [(d, p.nextTag d)] })).after (s.wayTo p.core pa)
            (.remoteAccessArrival (accessOf p (.load d (p.nextTag d) size signed) pa va size 0))).retire k c []
        else ((s.book p.core pa size).sendLoad k p d v (s.accessTime p.core pa size)).retire k c []

/-- The access size of LD and ST: 1, 2, 4 or 8 bytes (03 Table 3.13). -/
def sizeOf (z : BitVec 3) : Nat := 2 ^ (z.toNat % 4)

/-- LD sign-extends for sizes 0 to 3 and zero-extends for 4 to 6 (05 R118). -/
def signedLoad (z : BitVec 3) : Bool := decide (z.toNat < 4)

/-- The effective address of format M: base plus offset times size (05 R118). -/
def effective {n : Nat} (base : Word) (o : BitVec n) (size : Nat) : Word := base + sext o * BitVec.ofNat 64 size

/-- Translates an access of a process and goes on with its physical address; a miss waits for the translator, a fault is
LOAD_FAULT with the virtual address (04 R79 to R81). -/
def State.withPage (s : State) (k : Nat) (p : Proc) (va : Nat) (needR needW : Bool) (go : State → Nat → State) : State :=
  match s.translate p va needR needW with
  | .miss => s.lookup k p va needR needW
  | .fault => s.raise k causeLoadFault (BitVec.ofNat 64 va)
  | .pa a t => go (match t with | some e => s.modCore p.core (fun c => c.touch e) | none => s) a

/-- LD (05 R118). -/
def execLd (d : Reg) (a : Src) (z : BitVec 3) (o : BitVec 13) (s : State) :=
  onCur s (fun k p => s.issueFill k p [srcField a 0] d (fun vals c =>
    let va := effective (vals.getD 0 0) o (sizeOf z)
    if va.toNat % sizeOf z ≠ 0 then s.raise k causeMisalign va
    else s.withPage k p va.toNat true false (fun t pa => t.loadAt k p d c pa va.toNat (sizeOf z) (signedLoad z))))

/-- ST (05 R119): the base is read as with mode 0b00 and the mode applies to the data register (03 R52). -/
def execSt (d : Reg) (a : Src) (z : BitVec 3) (o : BitVec 13) (s : State) :=
  onCur s (fun k p => s.issue k p [plainField a.reg 0, ⟨d, a.mode.getLsbD 1, a.mode.getLsbD 0, 3⟩] [] (fun vals c =>
    let va := effective (vals.getD 0 0) o (sizeOf z)
    if va.toNat % sizeOf z ≠ 0 then s.raise k causeMisalign va
    else if s.sbRoom p.core p.name = 0 then s
    else (s.postStore p va.toNat (sizeOf z) (BitVec.ofNat 64 ((vals.getD 1 0).toNat % 2 ^ (8 * sizeOf z))) 0).retire k c []))

/-- The registers from number f to number l, ascending. -/
def regRange (f l : Nat) : List Nat := (List.range (l + 1 - f)).map (fun i => f + i)

/-- EVAL of a fault at a word of an LDM or STM: the address, and the register in [59:56] (05 R121). -/
def manyEval (va n : Nat) : Word := BitVec.ofNat 64 (va % 2 ^ 56 + n * 2 ^ 56)

/-- The words of an LDM from register n on (05 R120, R121): each is translated and checked as it is reached; a fault leaves the
restart field at its register, and EVAL holds the address and the register. A word of the own scratchpad is written at once, or pushed where the
register is a bound port (R110). -/
def State.loadMany (s : State) (k : Nat) (ea f i : Nat) : List Nat → State × Bool
  | [] => (s, true)
  | n :: ns =>
    match s.proc k with
    | none => (s, false)
    | some p =>
      let va := ea + (n - f) * 8
      let mark (t : State) : State := t.modProc k (fun q => { q with restart := n })
      let ev : Word := manyEval va n
      let r : Reg := BitVec.ofNat 4 n
      match s.translate p va true false with
      | .miss => ((mark s).lookup k { p with restart := n } va true false, false)
      | .fault => ((mark s).raise k causeLoadFault ev, false)
      | .pa pa t =>
        let s1 := match t with | some e => s.modCore p.core (fun c => c.touch e) | none => s
        if !s1.passes p.core p.gid p.level pa 8 true false then ((mark s1).raise k causeWindowNak ev, false)
        else
          let s1 := s1.beforeRead p pa 8
          match s1.accessFault p pa va 8 true with
          | some fl => ((mark s1).raiseAccess k p pa (fl.1, if fl.1 = causePeerFail then fl.2 else ev), false)
          | none =>
            let v := extend 8 false (s1.readThrough p va pa 8)
            let own : Bool := match placeOf pa with
              | .core cr off => decide (cr = p.core) && rowOf off == .scratch
              | _ => false
            let s2 := if own then
                (if (p.portOf r).isSome then s1.pushPort k (n - 8) v else s1.modProc k (fun q => q.setReg r v))
              else (s1.bookAfter (2 * i) p.core pa 8).sendLoad k p r v (s1.accessAfter (2 * i) p.core pa 8)
            s2.loadMany k ea f (i + 1) ns

/-- The words of an STM from register n on (05 R120, R121): each is translated as it is reached and posted; one that cannot be translated stops the
instruction there, precisely. DEDUCED (log 49): its cause is LOAD_FAULT, since STORE_FAULT is the one cause that is not precise (R132). -/
def State.storeMany (s : State) (k : Nat) (ea f : Nat) : List (Nat × Word) → State × Bool
  | [] => (s, true)
  | (n, v) :: ns =>
    match s.proc k with
    | none => (s, false)
    | some p =>
      let va := ea + (n - f) * 8
      let mark (t : State) : State := t.modProc k (fun q => { q with restart := n })
      match s.translate p va false true with
      | .miss => ((mark s).lookup k { p with restart := n } va false true, false)
      | .fault => ((mark s).raise k causeLoadFault (manyEval va n), false)
      | .pa _ t =>
        let s1 := match t with | some e => s.modCore p.core (fun c => c.touch e) | none => s
        (s1.postStore p va 8 v 0).storeMany k ea f ns

/-- An LDM or STM (05 R120, R121): the base is read once, at issue, and kept while a word waits for its translation; once all words have passed, the
instruction retires. -/
def State.moveMany (s : State) (k : Nat) (p : Proc) (a : Src) (o : BitVec 11) (all fs : List Field) (dsts : List Reg)
    (stop : Option State) (run : Nat → List Word → State × Bool) : State :=
  let base := p.hold.bind Hold.base
  s.issue k p (if base.isSome then fs else srcField a 0 :: fs) dsts (fun vals _ =>
    let b := base.getD (vals.getD 0 0)
    let words := if base.isSome then vals else vals.drop 1
    let ea := effective b o 8
    if ea.toNat % 8 ≠ 0 then s.raise k causeMisalign ea
    else
      match stop with
      | some t => t
      | none =>
        let r := run ea.toNat words
        if r.2 then
          (r.1.modProc k (fun q => { q with restart := 0, hold := none })).retire k (consumeMask p (srcField a 0 :: all)) []
        else r.1.modProc k (fun q => if q.wait = .xlat then { q with hold := some { base := some b, issuedAt := s.cycle } } else q))

/-- The first register of an LDM or STM that is still to be moved (05 R121). -/
def Proc.manyFrom (p : Proc) (f : Reg) : Nat := if p.restart = 0 then f.toNat else p.restart

/-- LDM (05 R120, R121). -/
def execLdm (f : Reg) (a : Src) (l : Reg) (o : BitVec 11) (s : State) :=
  onCur s (fun k p =>
    let regs := regRange (p.manyFrom f) l.toNat
    s.moveMany k p a o [] [] (regs.map (BitVec.ofNat 4))
      ((regs.find? (fun n => decide (n ≠ 0) && decide (3 ≤ (p.cell (BitVec.ofNat 4 n)).out))).map (fun n => s.park k (.reg n)))
      (fun ea _ => s.loadMany k ea f.toNat 0 regs))

/-- STM (05 R120, R121): registers f to l at mode 0b00, 0 stored for g0. -/
def execStm (f : Reg) (a : Src) (l : Reg) (o : BitVec 11) (s : State) :=
  onCur s (fun k p =>
    let regs := regRange (p.manyFrom f) l.toNat
    let field (n : Nat) : Field := plainField (BitVec.ofNat 4 n) 3
    s.moveMany k p a o ((regRange f.toNat l.toNat).map field) (regs.map field) []
      (if s.sbRoom p.core p.name < regs.length then some s else none)
      (fun ea ws => s.storeMany k ea f.toNat (regs.zip ws)))

end Sys2Proof.Machine
end

