-- ==== Sys2Proof/Machine/Phases.lean ====
section
/-! DEFINITION. Barrier phases of a group: when one is complete, and what it releases (06 R169, R170, 07 R213). -/

namespace Sys2Proof.Machine

/-- Whether the current phase of a group is complete (06 R169): every live member, a joining one included, has arrived, and
every expectation is met. -/
def phaseDone (g : Group) : Bool :=
  !g.live.isEmpty && decide (g.pending = 0) && g.live.all (fun n => g.arrived.contains n) && g.expects.isEmpty

/-- The waiters of completed phases go on (06 R169): a GBAR retires with its phase, a GWAIT, GARR or GEXP is tried again. -/
def State.releaseWaiters (s : State) (gid phase : Nat) : State :=
  (s.members gid).foldl (fun t e =>
    match e.2.wait with
    | .barrier n =>
      if n < phase then
        match e.2.hold with
        | some h => t.complete e.1 (match h.dst with | some d => [(d, BitVec.ofNat 64 n)] | none => [])
        | none => t.ready e.1
      else t
    | _ => t) s

/-- A phase that is complete ends (06 R169, R170). -/
def State.checkPhase (s : State) (gid : Nat) : State :=
  match s.group? gid with
  | none => s
  | some g =>
    if phaseDone g then
      (s.putGroup gid { g with phase := g.phase + 1, arrived := [], expects := [] }).releaseWaiters gid (g.phase + 1)
    else s

/-- An event that an expectation counts happens at an end (07 R213). -/
def State.countExpect (s : State) (key : Nat) : State :=
  match s.ep key with
  | none => s
  | some e =>
    match (s.named e.owner).map (fun x => x.2.gid) with
    | none => s
    | some gid =>
      match s.group? gid with
      | none => s
      | some g =>
        if g.expects.any (fun x => x.2.1 == key) then
          let left := (g.expects.map (fun x => if x.2.1 = key then (x.1, x.2.1, x.2.2 - 1) else x)).filter (fun x => x.2.2 != 0)
          (s.putGroup gid { g with expects := left }).checkPhase gid
        else s

end Sys2Proof.Machine
end

