-- ==== Sys2Proof/Machine/Channels.lean ====
section
/-! DEFINITION. Sending and receiving on channels (07 R180, R181, R187, R188, R197 to R209): the waits of both parties, matches
and their timing, credits, signals, ALT's readiness, and the timer places that deadlines take (08 R242). -/

namespace Sys2Proof.Machine

/-! ### Deadlines at a fold's timer server (08 R242, R243) -/

/-- A deadline is armed, or waits for one of 256 places. One that has passed fires at once. -/
def State.armDeadline (s : State) (fold : Nat) (d : Deadline) : State :=
  let f := s.fold fold
  if f.timers.length < 256 then (s.putFold fold { f with timers := f.timers ++ [d] }).atCycle (s.gtcDue d.time) (.deadlineFire fold d)
  else s.putFold fold { f with timerWait := f.timerWait ++ [d] }

/-- A deadline is disarmed; its place goes to one that waits. -/
def State.disarm (s : State) (fold : Nat) (who : DlWho) : State :=
  let f := s.fold fold
  let t := s.putFold fold { f with
    timers := f.timers.filter (fun d => d.who != who), timerWait := f.timerWait.filter (fun d => d.who != who) }
  if (t.fold fold).timerWait.isEmpty then t else t.after 0 (.deadlineArm fold)

/-- DEADLINE_ARM (08 R242): the deadline that has waited longest takes a free place. -/
def deadlineArm (fold : Nat) (s : State) : State :=
  match (s.fold fold).timerWait with
  | d :: rest =>
    if (s.fold fold).timers.length < 256 then (s.modFold fold (fun f => { f with timerWait := rest })).armDeadline fold d else s
  | [] => s

/-! ### ALT (07 R208, R209) -/

/-- Whether a signal channel's receive end can take one more signal (07 R203). -/
def signalRoom (e : Ep) : Bool := decide (e.pend < typCap e.typ)

/-- Whether an operation of an end's own direction would complete without waiting (07 R195, R209). -/
def State.endReady (s : State) (e : Ep) : Bool :=
  if e.st = .dead then true
  else if e.recv then !e.queue.isEmpty || !e.offers.isEmpty || (typKind e.typ == 3 && decide (e.pend ≠ 0))
  else if e.server.isSome || typQueued e.typ then decide (e.pend ≠ 0) && e.queue.isEmpty
  else if typKind e.typ == 3 && decide (typCap e.typ ≠ 0) then
    ((s.endAt e.peer).map (fun x => signalRoom x.2)).getD false
  else e.announced && ((s.endAt e.peer).map (fun x => x.2.rx.isSome)).getD false

/-- Whether a guard is ready (07 R209). -/
def State.guardReady (s : State) (p : Proc) (g : Guard) : Bool :=
  match g.kind with
  | 2 => decide (g.time ≤ s.gtc)
  | 3 => true
  | n =>
    match s.handle p.name g.handle with
    | some (_, e) => e.recv == decide (n = 0) && s.endReady e
    | none => false

/-- The guard that ALT chooses of those that are ready (07 R208). -/
def chooseGuard (ready : List Guard) (count : Nat) (last : Option Nat) : Option Guard :=
  match last with
  | some l => leastBy (fun g => (g.ix + count - (l + 1) % max count 1) % max count 1) ready
  | none => leastBy Guard.ix ready

/-- The ends that an ALT watches are released from it (07 Table 7.2). -/
def State.unwatch (s : State) (p : Proc) (gs : List Guard) : State :=
  gs.foldl (fun t g =>
    match t.handle p.name g.handle with
    | some (ke, e) => if g.kind < 2 && e.waitK = 2 then t.putEp ke { e with
        waitK := 0, st := if e.st = .wait then .opened else e.st, deadline := e.armed.isSome } else t
    | none => t) s

/-- The commit of a guard: its resource is reserved for the process's next channel instruction on the handle (07 R209). -/
def State.reserve (s : State) (p : Proc) (g : Guard) : State :=
  if 2 ≤ g.kind then s
  else
    match s.handle p.name g.handle with
    | some (ke, e) =>
      let t := s.putEp ke { e with waitK := 3 }
      if e.recv || e.server.isSome || typQueued e.typ then t
      else
        match t.endAt e.peer with
        | some (kp, x) => if x.rx.isSome then t.putEp kp { x with reserved := true } else t
        | none => t
    | none => s

/-- An ALT that waits looks at its guards again (07 R208): it retires with the index chosen. -/
def State.altCheck (s : State) (k : Nat) : State :=
  match s.proc k with
  | none => s
  | some p =>
    match p.wait, p.alt, p.hold with
    | .alt, some a, some h =>
      match chooseGuard (a.guards.filter (s.guardReady p)) a.count a.last with
      | some g =>
        let t := ((s.unwatch p a.guards).reserve p g).disarm (foldOf p.core) (.alt p.name)
        (t.modProc k (fun q => { q with alt := none })).complete k
          (match h.dst with | some d => [(d, BitVec.ofNat 64 g.ix)] | none => [])
      | none => s
    | _, _, _ => s

/-! ### Who waits on an end -/

/-- Whether a process that waits at a bound port may go on for a change of an end: the end is behind the port, and no push to it as a rendezvous
is still to be matched (05 R110). -/
def State.portWaits (s : State) (p : Proc) (n ke : Nat) (e : Ep) : Bool :=
  match p.portOf (BitVec.ofNat 4 n) with
  | some x =>
    x.stream.isNone && ((s.portEnd p x false).map Prod.fst == some ke || (s.portEnd p x true).map Prod.fst == some ke) &&
      (e.recv || typQueued e.typ || decide (e.infl = 0))
  | none => false

/-- Something of an end has changed: an owner's instruction that waited for it is tried again, held pushes of a port enter, a
process that waits on a port tries again, and an ALT looks again. -/
def State.wakeEnd (s : State) (ke : Nat) : State :=
  match s.ep ke with
  | none => s
  | some e =>
    s.modNamed e.owner (fun k p t =>
      let t := (List.range 4).foldl (fun u q => if (p.ports.toList.getD q {}).held.isEmpty then u else u.flushPort k q 4) t
      match p.wait with
      | .chan h => if h = e.handle && p.hold.isNone then t.ready k else t
      | .reg n => if 8 ≤ n && n ≤ 11 && t.portWaits p n ke e then t.ready k else t
      | .alt => t.altCheck k
      | _ => t)

/-- An instruction that waits on an end whose channel has died takes CHAN_DEAD (07 R198); one that is suspended or moving tries
again when it goes on. -/
def State.failWait (s : State) (ke : Nat) : State :=
  match s.ep ke with
  | none => s
  | some e =>
    s.modNamed e.owner (fun k p t =>
      match p.wait with
      | .chan h =>
        if h ≠ e.handle || (p.hold.map Hold.arg2) == some 1 || (p.hold.map Hold.arg2) == some 2 then t
        else if p.st == .suspended || p.st == .migrating || p.hold.isNone then t.ready k
        else ((t.disarm (foldOf p.core) (.trecv p.name)).putProc k p.dropHold).raise k causeChanDead (BitVec.ofNat 64 h)
      | _ => t.wakeEnd ke)

/-- The end of a transfer identifier (07 R212): DONE advances to the newest identifier at and below which all are complete. -/
def nextDone (issued : Nat) (ids : List (Nat × Bool)) : Nat :=
  match ids with
  | [] => issued
  | i :: _ => (i.1 + 2 ^ 24 - 1) % 2 ^ 24

/-- Identifiers compared modulo 2^24 (07 R212). -/
def idAtOrBelow (x y : Nat) : Bool := decide ((y + 2 ^ 24 - x) % 2 ^ 24 < 2 ^ 23)

/-- A CWAIT that waits on an end and may go on fills d with the status, and FAIL is cleared (07 R212). -/
def State.checkCwait (s : State) (ke : Nat) : State :=
  match s.ep ke with
  | none => s
  | some e =>
    s.modNamed e.owner (fun k p t =>
      match p.wait, p.hold with
      | .chan h, some hd =>
        if h = e.handle && hd.arg2 = 2 && idAtOrBelow hd.arg e.done then
          (t.putEp ke { e with fail := false, waitK := 0, st := if e.st = .wait then .opened else e.st }).completeFill k
            (BitVec.ofNat 64 (bitOf e.fail * 2 ^ 63 + e.done))
        else t
      | _, _ => t)

/-- A transfer of an end is complete (07 R212, R213). -/
def State.transferDone (s : State) (ke id : Nat) (failed : Bool) : State :=
  match s.ep ke with
  | none => s
  | some e =>
    if !(e.ids.any (fun i => i.1 == id)) then s else
    let ids := e.ids.filter (fun i => i.1 != id)
    -- a drover request counts in INFL until its reply is sent (08 R233)
    let e1 := { e with ids := ids, done := nextDone e.issued ids, infl := if isDrover e.server then e.infl else e.infl - 1, fail := e.fail || failed }
    let t := ((s.putEp ke e1).countExpect ke).checkCwait ke
    let u := t.wakeEnd ke
    match e1.move with
    | some v => if e1.infl = 0 && e1.st = .rebind then u.after 0 (.chbindMove v) else u
    | none => u

/-- INFL of an end falls by one (07 Table 7.1): a move or CHDEL that waited for 0 goes on. -/
def State.acked (s : State) (ke : Nat) : State :=
  match s.ep ke with
  | none => s
  | some e =>
    let e1 := { e with infl := e.infl - 1 }
    let t := (s.putEp ke e1).wakeEnd ke
    match e1.move with
    | some v => if e1.infl = 0 && e1.st = .rebind then t.after 0 (.chbindMove v) else t
    | none => t

/-! ### Matching (07 R204, R206) -/

/-- The wait of a receive is over: the end is OPEN, the deadline of a TRECV is disarmed, and the instruction counts as matched. -/
def State.endWait (s : State) (ke : Nat) (e : Ep) : State :=
  let t := s.putEp ke { e with rx := none, reserved := false, waitK := 0, st := if e.st = .wait then .opened else e.st, deadline := false }
  let u := t.modNamed e.owner (fun k p v =>
    let w := match e.rx.bind Rx.timed with
      | some _ => v.disarm (foldOf p.core) (.trecv p.name)
      | none => v
    w.putProc k { p with hold := p.hold.map (fun h => { h with arg2 := 1 }) })
  match u.endAt e.peer with
  | some (kp, x) => u.putEp kp { x with announced := false }
  | none => u

/-- A tile entry changed. -/
def State.tile (s : State) (i : Nat) : Tile := tgetD s.tiles i {}
def State.modTile (s : State) (i : Nat) (f : Tile → Tile) : State := { s with tiles := tput s.tiles i (f (s.tile i)) }

/-- The tile that a SENDT.ENT sends is DRAINING from the match on (09 Table 9.9). -/
def State.drainTile (s : State) (m : Msg) : State :=
  match m.tile with
  | some n => s.modTile n (fun y => { y with st := if y.st = .ready then .draining else y.st })
  | none => s

/-- A receive takes a message (07 R198, R202, R206): `at_` is the match, or for a queued message the cycle from which R202 counts. -/
def State.take (s : State) (ke : Nat) (owner : Nat) (x : Rx) (m : Msg) (at_ : Nat) (queued : Bool) : State :=
  let core := ke / 512
  let dest : FillTo := ⟨owner, x.reg, x.tag⟩
  let word (v : Word) : State := s.atCycle (at_ + (if queued then 2 else 1)) (.fill dest v)
  let bulk : State :=
    let xf : Xfer := { msg := m, dst := { core := core, ix := ke % 512, gen := 0 }, receiver := owner, core := core, off := x.off,
                       step := x.step, rowBytes := x.rowBytes, reg := some x.reg, tile := x.tile }
    let t := match x.tile with
      | some n => s.modTile (core * 32 + n) (fun y => { y with st := .filling })
      | none => s
    (if queued then t else t.drainTile m).atCycle (at_ + (if queued then lenP (bodyLen m.body) else s.dataTime m.src.core core (bodyLen m.body))) (.transferDataWritten xf)
  match m.body with
  | .word v => word v
  | .signal => word 1
  | .handle l =>
    -- the passed end sets out for the receiver (R194)
    match s.endAt l with
    | some (kp, e) =>
      let v : EndMove := { key := kp, owner := owner, handle := (s.freeHandle owner 0).getD 0, core := core, why := .sendh dest }
      let t := s.modNamed owner (fun k p u => u.putProc k { p with hold := p.hold.map (fun h => { h with words := [1] }) })
      ((t.putEp kp { e with move := some v }).atCycle (at_ + (if queued then 2 else 1)) (.fill dest 0)).atCycle
        (at_ + s.oneway core (kp / 512)) (.chbindMove v)
    | none => word (BitVec.ofNat 64 (2 ^ 63 + 0x2B))
  | .bytes _ => bulk
  | .place _ _ _ _ _ => bulk

/-- Whether a receive's area holds a message (07 R198). -/
def rxFits (x : Rx) (m : Msg) : Bool := decide (bodyLen m.body ≤ x.room)

/-- Why a receive may not take a message, which stays queued: CHAN_TYPE where it does not fit (07 R198), CHAN_RIGHTS where an end is passed to a
process without a free handle (07 R194). -/
def State.rxRefusal (s : State) (e : Ep) (x : Rx) (m : Msg) : Option Nat :=
  match m.body with
  | .handle _ => if (s.freeHandle e.owner 0).isNone then some causeChanRights else none
  | b => if isBulk b && !rxFits x m then some causeChanType else none

/-- A receive that waits meets a message that it may not take, and traps. -/
def State.refuseRx (s : State) (ke : Nat) (e : Ep) (cause : Nat) : State :=
  let t := s.endWait ke e
  t.modNamed e.owner (fun k p u =>
    if p.st == .suspended || p.st == .migrating then u.ready k
    else (u.putProc k p.dropHold).raise k cause (BitVec.ofNat 64 e.handle))

/-- A buffered end whose death was held is DEAD once it is empty (07 R191). -/
def State.checkDying (s : State) (ke : Nat) : State :=
  match s.ep ke with
  | some e => if e.dying && e.queue.isEmpty && e.pend = 0 && epHeld e then (s.putEp ke { e with st := .dead }).failWait ke else s
  | none => s

/-- Signals that wait at a signal end enter its PEND while there is room (07 R203). -/
def State.admitSignals (s : State) (ke : Nat) : Nat → State
  | 0 => s
  | fuel + 1 =>
    match s.ep ke with
    | some e =>
      match e.offers with
      | m :: _ =>
        if signalRoom e then
          (((s.takeOffer ke e m s.cycle).modEp ke (fun x => { x with pend := x.pend + 1 })).countExpect ke).admitSignals ke fuel
        else s
      | [] => s
    | none => s

/-- A receive that waits on an end takes what has come (07 R202 to R204), and an ALT or a port looks at it. -/
def State.deliver (s : State) (ke : Nat) : State :=
  match s.ep ke with
  | none => s
  | some e =>
    if !epHeld e then s
    else
      match e.rx with
      | none => s.wakeEnd ke
      | some x =>
        if typKind e.typ = 3 then
          if e.pend ≠ 0 then
            let t := s.endWait ke e
            (((t.modEp ke (fun y => { y with pend := y.pend - 1 })).after 2 (.fill ⟨e.owner, x.reg, x.tag⟩ 1)).admitSignals ke 256).checkDying ke
          else
            match e.offers with
            | m :: _ =>
              let at_ := max s.cycle (x.at0 + 1)
              let t := s.endWait ke e
              match t.ep ke with
              | some e1 => (t.takeOffer ke e1 m at_).take ke e.owner x m at_ false
              | none => t
            | [] => s
        else if typQueued e.typ then
          match e.queue with
          | m :: _ =>
            match s.rxRefusal e x m with
            | some cause => s.refuseRx ke e cause
            | none =>
              let t := s.endWait ke e
              match t.ep ke with
              | some e1 => ((t.takeHead ke e1).take ke e.owner x m s.cycle true).checkDying ke
              | none => t
          | [] => s
        else
          match e.offers with
          | m :: _ =>
            let at_ := max s.cycle (x.at0 + 1)
            match s.rxRefusal e x m with
            | some cause => s.refuseRx ke e cause
            | none =>
              let t := s.endWait ke e
              match t.ep ke with
              | some e1 => (t.takeOffer ke e1 m at_).take ke e.owner x m at_ false
              | none => t
          | [] => s

/-- DEADLINE_FIRE (08 R243): the place is freed; a timer end gets a wake-up, a TRECV expires, an ALT looks at its guards. -/
def deadlineFire (fold : Nat) (d : Deadline) (s : State) : State :=
  if !(s.fold fold).timers.contains d then s
  else
    let t := s.modFold fold (fun f => { f with timers := f.timers.erase d })
    let u := if (t.fold fold).timerWait.isEmpty then t else t.after 0 (.deadlineArm fold)
    match d.who with
    | .timerEnd ke =>
      ((u.modEp ke (fun e => { e with pend := min 255 (e.pend + 1), deadline := false, armed := none })).countExpect ke).deliver ke
    | .trecv name => u.after 0 (.trecvExpiry name)
    | .alt name => u.modNamed name (fun k _ v => v.altCheck k)

/-- TRECV_EXPIRY (07 R201): without .T all ones are received; with .T the instruction counts as retired, its register is empty, and
DEADLINE is raised at the next word. One whose receive is reserved does not expire. -/
def trecvExpiry (name : Nat) (s : State) : State :=
  s.modNamed name (fun k p t =>
    match p.wait, p.hold with
    | .chan h, some hd =>
      match t.handle name h with
      | some (ke, e) =>
        match e.rx.bind Rx.timed with
        | some (due, trap) =>
          if hd.arg2 = 1 || e.reserved || decide (t.gtc < due) then t
          else
            let u := t.putEp ke { e with rx := none, waitK := 0, st := if e.st = .wait then .opened else e.st, deadline := false }
            if p.st == .suspended || p.st == .migrating then u.ready k
            else if trap then
              let v := (u.modProc k (fun q => match hd.dst with | some d => q.cancelFill d | none => q)).complete k []
              match v.proc k with
              | some q => v.raiseAt k causeDeadline (BitVec.ofNat 64 h) q.pc
              | none => v
            else u.completeFill k allOnes
        | none => t
      | none => t
    | _, _ => t)

/-! ### Events of messages -/

/-- From a buffered message's arrival to its sender's retirement (07 R202). -/
def State.ackBack (s : State) (m : Msg) (core : Nat) : Nat :=
  s.ackTime m.src.core core m.body - (if isBulk m.body then s.dataTime m.src.core core (bodyLen m.body) else 0)

/-- Whether the end in an entry is the peer of the end that a message came from. -/
def State.fromPeer (s : State) (e : Ep) (src : EndLoc) : Bool := locKey (s.follow 64 e.peer) == locKey (s.follow 64 src)

/-- The acknowledgement timeout between two packages (12 R369). -/
def State.ackWait (s : State) (p q : Nat) : Nat := 2048 + (if p = q then 0 else 4 * s.routeTime p q)

/-- A message that no route delivers is lost (12 R364, Table 12.3): that of a SENDA fails its transfer and sets the peer bit; the sender of any
other notices that no acknowledgement comes (07 R221). -/
def State.lostMessage (s : State) (dst : EndLoc) (m : Msg) : State :=
  match m.tid, s.endAt m.src with
  | some id, some (ke, _) =>
    let t := match s.named m.sender with
      | some (_, p) => s.peerFail p.gid (pkgOf dst.core)
      | none => s
    t.transferDone ke id true
  | _, _ => s.after (s.ackWait (pkgOf m.src.core) (pkgOf dst.core)) (.ackTimeout dst m)

/-- The message that an event in flight carries to the end of a channel, or will send there again. -/
def carriedMsg (e : Ev) : Option Msg :=
  match e with
  | .offerArrival _ m => some m
  | .offerResend _ m => some m
  | .messageEnqueue _ m => some m
  | .droverRequest _ r => some r.msg
  | .ackTimeout _ m => some m
  | _ => none

/-- The cycle in which an older message of the same process from the same end arrives, if one is still under way: messages of one process on one
channel arrive in program order (07 R219). -/
def State.olderDue (s : State) (m : Msg) : Option Nat :=
  (s.agenda.find? (fun e =>
    match carriedMsg e.2 with
    | some x => x.src == m.src && x.sender == m.sender && decide (x.at0 < m.at0)
    | none => false)).map Prod.fst

/-- A message that arrives before an older one of its process on its channel waits for that one (07 R219). -/
def State.inOrder (s : State) (m : Msg) (e : Ev) (go : State) : State :=
  match s.olderDue m with
  | some due => s.atCycle due e
  | none => go

/-- OFFER_ARRIVAL (07 R203, R204, Table 7.2): passed on by a moved end, held by one that moves, refused by a full offer table, and
else matched, counted or held. -/
def offerArrival (dst : EndLoc) (m : Msg) (s : State) : State :=
  match s.ep (locKey dst) with
  | none => s
  | some e =>
    match e.fwd with
    | some n => s.after (s.oneway dst.core n.core) (.offerArrival n m)
    | none =>
      if !s.fromPeer e m.src || e.st = .dead || e.dying || (s.endAt m.src).isNone then s
      else if !s.reachable (pkgOf m.src.core) (pkgOf dst.core) then s.lostMessage dst m
      else s.inOrder m (.offerArrival dst m) (
        if e.rx.isNone && !(typKind e.typ == 3 && signalRoom e) &&
            decide (64 ≤ ((s.epsOf dst.core).map (fun x => x.2.offers.length)).foldl (fun a b => a + b) 0) then
          s.after 64 (.offerResend dst m)
        else
          let t := s.putEp (locKey dst) { e with offers := e.offers ++ [m] }
          if !epHeld e then t
          else if typKind e.typ = 3 && decide (typCap e.typ ≠ 0) then (t.admitSignals (locKey dst) 256).deliver (locKey dst)
          else t.deliver (locKey dst))

/-- OFFER_RESEND (07 R204). -/
def offerResend (dst : EndLoc) (m : Msg) (s : State) : State :=
  if (s.endAt m.src).isNone || (s.endAt dst).isNone then s else s.after (s.oneway m.src.core dst.core) (.offerArrival dst m)

/-- RECEIVE_ANNOUNCE (07 R209): a waiting receive announces itself at the send end. -/
def receiveAnnounce (dst : EndLoc) (s : State) : State :=
  match s.endAt dst with
  | some (ke, e) =>
    if e.recv || e.st = .dead then s
    else if ((s.endAt e.peer).map (fun x => x.2.rx.isSome)).getD false then (s.putEp ke { e with announced := true }).wakeEnd ke
    else s
  | none => s

/-- A buffered message's last packet is in the ring queue (07 R202, R220); the sender's acknowledgement sets out. -/
def State.enqueueMsg (s : State) (dst : EndLoc) (m : Msg) : State :=
  match s.ep (locKey dst) with
  | none => s
  | some e =>
    match e.fwd with
    | some n => s.after (s.oneway dst.core n.core) (.messageEnqueue n m)
    | none =>
      if !s.fromPeer e m.src || e.st = .dead || e.dying then s
      else if e.server.isNone && !s.reachable (pkgOf m.src.core) (pkgOf dst.core) then s.lostMessage dst m
      else s.inOrder m (.messageEnqueue dst m) (
        let ke := locKey dst
        let w := if e.server.isSome then s else (s.drainTile m).after (s.ackBack m dst.core) (.sendAck m { dst with gen := e.gen })
        -- a multicast may have filled the queue (07 R217)
        if typCap e.typ ≤ e.queue.length then w.putEp ke { e with offers := e.offers ++ [m] }
        else
          let t := match e.rq with
            | some q => w.writeRing (foldOf dst.core) q m
            | none => w
          ((t.putEp ke { e with queue := e.queue ++ [m], pend := min 255 (e.pend + 1) }).countExpect ke).deliver ke)

/-- The fields of a drover request (08 Table 8.6). -/
def drField (ws : List Word) (lo n : Nat) : Nat := (ws.getD 0 0).toNat / 2 ^ lo % 2 ^ n
def drOp (ws : List Word) : Nat := drField ws 56 8
def drLen (ws : List Word) : Nat := drField ws 32 16 + 1
def drReply (ws : List Word) : Nat := drField ws 24 6

/-- A buffered message sets out: to its peer end, or as a request to its drover (07 R202, 08 R231). -/
def State.sendOut (s : State) (e : Ep) (m : Msg) : State :=
  let n := s.oneway m.src.core e.peer.core + (if isBulk m.body then s.dataTime m.src.core e.peer.core (bodyLen m.body) else 0)
  match e.server with
  | some (.drover d) =>
    let ws := leWords 4 (match m.body with | .bytes bs => bs | _ => [])
    let who := s.named m.sender
    let reply := ((s.handle m.sender (drReply ws)).map Prod.fst).getD 0
    let gid := (who.map (fun x => x.2.gid)).getD 0
    let level := (who.map (fun x => x.2.level)).getD 0
    let asid := (who.map (fun x => s.asidOf x.2)).getD 0
    let root := (who.map (fun x => s.rootOf x.2)).getD 0
    s.after n (.droverRequest d ⟨locKey m.src, m.sender, m.src.core, gid, level, asid, root, ws, reply, m⟩)
  | _ => s.after n (.messageEnqueue e.peer m)

/-- A message waiting at a send end for a credit sets out (07 R194, R200), also while the end waits for it to be acknowledged before a move (R192). -/
def State.sendQueued (s : State) (ke : Nat) : State :=
  match s.ep ke with
  | none => s
  | some e =>
    if e.recv || e.pend = 0 then s
    else
      match e.queue with
      | m :: rest =>
        (s.putEp ke { e with queue := rest, pend := e.pend - 1 }).sendOut e m
      | [] => s

/-- A message of the host or the bothy for a receive end of its kind sets out when the end has a credit for it, and else waits (07 R202, 08
R244). -/
def State.sendIn (s : State) (ke : Nat) (bs : List Byte) : State :=
  match s.ep ke with
  | none => s
  | some e =>
    if e.hwCredits = 0 || !e.outbox.isEmpty then s.putEp ke { e with outbox := e.outbox ++ [bs] }
    else
      let m : Msg := { src := e.peer, sender := 0, tid := none, tile := none, body := .bytes bs, at0 := s.cycle }
      (s.putEp ke { e with hwCredits := e.hwCredits - 1 }).after
        (s.oneway e.peer.core (ke / 512) + s.dataTime e.peer.core (ke / 512) bs.length) (.messageEnqueue (locOf ke e) m)

/-- CREDIT_RETURN (07 R202, 08 R234, R244): a credit reaches the send end, or the server that sends to a server end. -/
def creditReturn (dst : EndLoc) (s : State) : State :=
  match s.endAt dst with
  | none => s
  | some (ke, e) =>
    if e.recv then
      match e.server with
      | some (.reply n) =>
        -- a reply may wait at any drover (08 R234); DESIGN CHOICE (log 60): the lowest-numbered of them has the credit
        let mine (r : DrRec) : Bool := (r.reply.map (fun key => locKey (s.follow 64 ⟨key / 512, key % 512, 0⟩))) == some ke
        let at_ := (s.drovers.find? (fun d => d.2.ready.any mine)).map Prod.fst
        (s.putEp ke { e with hwCredits := e.hwCredits + 1 }).after 0 (.droverReplyRelease (at_.getD n))
      | _ =>
        let t := s.putEp ke { e with hwCredits := e.hwCredits + 1, outbox := e.outbox.drop 1 }
        match e.outbox with
        | bs :: rest => ((t.modEp ke (fun x => { x with outbox := [] })).sendIn ke bs).modEp ke (fun x => { x with outbox := rest })
        | [] => t
    else ((s.putEp ke { e with pend := e.pend + 1 }).sendQueued ke).wakeEnd ke

/-- WAKEUP (07 R193, R203): a wake-up adds one to PEND, which saturates, and never waits; at an end that moves it is latched. -/
def wakeup (dst : EndLoc) (s : State) : State :=
  match s.endAt dst with
  | none => s
  | some (ke, e) => ((s.putEp ke { e with pend := min 255 (e.pend + 1) }).countExpect ke).deliver ke

/-- SEND_ACK (07 R198, R206): the acknowledgement brings the peer's location; INFL falls; a SENDA's transfer completes; the sender's
instruction retires. -/
def sendAck (m : Msg) (peer : EndLoc) (s : State) : State :=
  let t := match s.endAt m.src with
    | some (ke, e) =>
      let u := s.putEp ke { e with peer := if e.peer.core = peer.core && e.peer.ix = peer.ix && peer.gen ≤ e.peer.gen then e.peer else peer }
      match m.tid with
      | some id => u.transferDone ke id false
      | none => if isDrover e.server then u else u.acked ke
    | none => s
  let t1 := match m.tile with
    | some n => t.modTile n (fun y => { y with st := if y.st = .draining then .ready else y.st })
    | none => t
  match m.tid with
  | some _ => t1
  | none => t1.modNamed m.sender (fun k p v =>
      match p.wait, p.hold with
      | .chan _, some h =>
        if h.issuedAt = m.at0 then
          let w : State := match v.endAt m.src with
            | some (ke, e) => v.putEp ke { e with waitK := 0, st := if e.st = EpSt.wait then EpSt.opened else e.st }
            | none => v
          w.complete k []
        else v
      | .reg n, none => if 8 ≤ n && n ≤ 11 && p.blockedAt = m.at0 then v.ready k else v
      | _, _ => v)

/-- The bytes that a body stands for, read at the sender's scratchpad for a place (07 R204). -/
def State.bodyRead (s : State) (b : Body) : List Byte :=
  match b with
  | .bytes bs => bs
  | .place core off rows rowBytes step =>
    (List.range rows).flatMap (fun r => readBytes s.mem (windowBase core + off + r * step) rowBytes)
  | _ => []

/-- The bytes of a message that come from poisoned words, by offset (13 R401). -/
def State.bodyHurt (s : State) (m : Msg) : List Nat :=
  match m.body with
  | .place core off rows rowBytes step =>
    (List.range rows).flatMap (fun r => (s.hurtIn (windowBase core + off + r * step) rowBytes).map (fun i => r * rowBytes + i))
  | _ => m.hurt

/-- Bytes laid out in rows from an address up. -/
def State.writeRows (s : State) (a step rowBytes : Nat) : Nat → List Byte → State
  | 0, _ => s
  | n + 1, bs => (s.writeMem a (bs.take rowBytes)).writeRows (a + step) step rowBytes n (bs.drop rowBytes)

/-- TRANSFER_DATA_WRITTEN (07 R206, 09 Table 9.9): the data of a block or tile stands at the receiver, which retires a little later.
Poison travels with its words (13 R401). -/
def transferDataWritten (x : Xfer) (s : State) : State :=
  let bs := s.bodyRead x.msg.body
  let base := windowBase x.core + x.off
  let t := (if x.rowBytes = 0 then s.writeMem base bs
    else s.writeRows base x.step x.rowBytes ((bs.length + x.rowBytes - 1) / x.rowBytes) bs).poisonAt
      ((s.bodyHurt x.msg).map (fun i => base + (if x.rowBytes = 0 then i else i / x.rowBytes * x.step + i % x.rowBytes)))
  let u := match x.tile with
    | some n => t.modTile (x.core * 32 + n) (fun y => { y with st := .ready, gen := (y.gen + 1) % 256 })
    | none => t
  let tail := match x.msg.body with
    | .bytes _ => 2
    | _ => rxTail x.msg.src.core x.core
  u.modNamed x.receiver (fun _ p v =>
    match p.hold, x.reg with
    | some h, some r => v.after tail (.fill ⟨x.receiver, r, BitVec.ofNat 2 h.arg⟩ (BitVec.ofNat 64 bs.length))
    | _, _ => v)

/-! ### Instructions -/

/-- An ALT reservation on an end is over (07 R209): with the process's next channel instruction on the handle, but the peer's receive stays reserved
for a send until that is matched. -/
def State.endReserve (s : State) (ke : Nat) (e : Ep) : State :=
  if e.waitK ≠ 3 then s
  else
    let t := s.putEp ke { e with waitK := 0 }
    match t.endAt e.peer with
    | some (kp, x) =>
      if x.reserved then
        let u := t.putEp kp { x with reserved := false }
        if (x.rx.bind Rx.timed).isSome then u.after 0 (.trecvExpiry x.owner) else u
      else t
    | none => t

/-- The checks of a sending or receiving instruction on its handle (07 R180, R181, R187, R188, R198; 08 R224): an absent handle
waits. -/
def State.withEnd (s : State) (k : Nat) (p : Proc) (h : Word) (recv : Bool) (kinds : List Nat)
    (go : State → Nat → Ep → State) : State :=
  if 64 ≤ h.toNat then s.illegal k
  else
    match s.handle p.name h.toNat with
    | none => s.waitChan k (.chan h.toNat)
    | some (ke, e) =>
      let disp := match e.server with
        | some (.dispenser _) => true
        | _ => false
      if disp then s.raise k causeChanType h
      else if e.recv ≠ recv then s.raise k causeChanRights h
      else if !kinds.contains (typKind e.typ) then s.raise k causeChanType h
      else if e.st = .dead then s.raise k causeChanDead h
      else go s ke e

/-- A sending or receiving instruction waits for its message to pass (07 R198, R205). -/
def State.holdOn (s : State) (k ke : Nat) (e : Ep) (h : Hold) : State :=
  ((s.modEp ke (fun x => { x with waitK := 1, st := if x.st = .opened then .wait else x.st })).modProc k (fun q => { q with
    hold := some { h with issuedAt := s.cycle } })).waitChan k (.chan e.handle)

/-- One whose destination is a fill waits with that register empty (07 R188, 05 R104): its value will come under a tag. -/
def State.holdFill (s : State) (k : Nat) (p : Proc) (ke : Nat) (e : Ep) (c : BitVec 16) (d : Reg) (arg arg2 : Nat) : State :=
  (s.produceAs k d (p.mark d)).holdOn k ke e { consume := c, dst := some d, arg := arg, arg2 := arg2, old := some (p.cell d) }

/-- A message leaves a send end (07 R202 to R204): as an offer, or with a credit as a buffered message; at a server end as a request or
message to its hardware peer. None where it must wait for a credit. -/
def State.sendBody (s : State) (p : Proc) (ke : Nat) (e : Ep) (body : Body) (tid tile : Option Nat) (hurt : List Nat := []) :
    Option State :=
  let m : Msg := { src := locOf ke e, sender := p.name, tid := tid, tile := tile, body := body, at0 := s.cycle, hurt := hurt }
  let way := s.oneway p.core e.peer.core
  if e.server.isSome || typQueued e.typ then
    if e.pend = 0 || !e.queue.isEmpty then none
    else
      some ((s.putEp ke { e with pend := e.pend - 1, infl := e.infl + 1 }).sendOut e m)
  else some ((s.putEp ke { e with infl := e.infl + 1 }).after way (.offerArrival e.peer m))

/-- A send that waits for its message to pass, or for a credit (07 R198, R202). -/
def State.sendWait (s : State) (k : Nat) (p : Proc) (ke : Nat) (e : Ep) (c : BitVec 16) (body : Body) (tile : Option Nat)
    (hurt : List Nat := []) : State :=
  match (s.releaseStores k).sendBody p ke e body none tile hurt with
  | some t => t.holdOn k ke e { consume := c }
  | none => (s.modEp ke (fun x => { x with waitK := 1, st := if x.st = .opened then .wait else x.st })).waitChan k (.chan e.handle)

/-- SEND (07 R198). -/
def execSend (a b : Src) (s : State) :=
  onCur s (fun k p => s.issue k p [srcField a 0, srcField b 1] [] (fun vals c =>
    s.withEnd k p (vals.getD 0 0) false [0, 3] (fun t ke e =>
      if typKind e.typ = 3 then
        if b.reg ≠ 0 then t.illegal k else t.sendWait k p ke e c .signal none
      else t.sendWait k p ke e c (.word (vals.getD 1 0)) none)))

/-- A receive that finds its message takes it, and one that does not waits and announces itself (07 R198, R202, R204, R209). It is two-way: the
process's earlier stores are released (R93, R218). Where its d is a fill, it is empty from now on. -/
def State.receive (s : State) (k : Nat) (p : Proc) (ke : Nat) (e : Ep) (c : BitVec 16) (x : Rx) (fills : Bool) : State :=
  let s := s.releaseStores k
  -- a message that passes an end needs a free handle at the receiver (R194)
  if typKind e.typ = 4 && (s.freeHandle p.name 0).isNone && !(e.queue.isEmpty && e.offers.isEmpty) then
    s.raise k causeChanRights (BitVec.ofNat 64 e.handle)
  else
    let t := s.putEp ke { e with rx := some x }
    let t := if fills then t.holdFill k p ke e c x.reg x.tag.toNat 0
      else t.holdOn k ke e { consume := c, dst := some x.reg, arg := x.tag.toNat }
    let u := t.deliver ke
    match u.ep ke with
    | some e1 =>
      if e1.rx.isSome && !typQueued e.typ && typKind e.typ ≠ 3 || (typKind e.typ = 3 && typCap e.typ = 0 && e1.rx.isSome) then
        u.after (u.oneway p.core e.peer.core) (.receiveAnnounce e.peer)
      else u
    | none => u

/-- RECV (07 R198). -/
def execRecv (d : Reg) (a : Src) (s : State) :=
  onCur s (fun k p => s.issueFill k p [srcField a 0] d (fun vals c =>
    s.withEnd k p (vals.getD 0 0) true [0, 3, 4] (fun t ke e =>
      t.receive k p ke e c { reg := d, tag := p.mark d, at0 := s.cycle, room := 65536 } true)))

/-- TRECV (07 R201): the match comes in the next cycle at the earliest, so a deadline that GTC has reached by now has passed. -/
def execTrecv (d : Reg) (a b : Src) (tb : BitVec 1) (s : State) :=
  onCur s (fun k p => s.issueFill k p [srcField a 0, srcField b 1] d (fun vals c =>
    s.withEnd k p (vals.getD 0 0) true [0, 3, 4] (fun t ke e =>
      let due := (vals.getD 1 0).toNat
      let x : Rx := { reg := d, tag := p.mark d, at0 := s.cycle, room := 65536, timed := some (due, tb = 1) }
      if due ≤ s.gtc then
        trecvExpiry p.name (((t.releaseStores k).putEp ke { e with rx := some x }).holdFill k p ke e c d x.tag.toNat 0)
      else
        let u := t.receive k p ke e c x true
        match u.ep ke with
        | some e1 =>
          if e1.rx.isSome then
            ((u.putEp ke { e1 with deadline := true }).modProc k (fun q => { q with deadline := due })).armDeadline
              (foldOf p.core) ⟨.trecv p.name, due⟩
          else u
        | none => u)))

/-! ### Blocks and tiles (07 R197) -/

/-- A block word's length and offset. -/
def blockLen (w : Word) : Nat := w.toNat / 2 ^ 48 + 1
def blockOff (w : Word) : Nat := w.toNat % 2 ^ 24

/-- The checks of a block word: reserved bits ILLEGAL, an area that leaves the scratchpad LOAD_FAULT. -/
def State.withBlock (s : State) (k : Nat) (p : Proc) (w : Word) (go : State) : State :=
  if w.toNat / 2 ^ 24 % 2 ^ 24 ≠ 0 then s.illegal k
  else if scratchSize p.core < blockOff w + blockLen w then s.raise k causeLoadFault w
  else go

/-- The rows of a tile area: offset, rows, bytes per row, step, and the tile number of .ENT. -/
structure TileArea where
  off : Nat
  rows : Nat
  rowBytes : Nat
  step : Nat
  tile : Option Nat
  deriving DecidableEq, Repr

/-- Bits per element of a format, by code (02 Table 2.1). -/
def formatBits (f : Nat) : Nat :=
  match f with
  | 0 => 32
  | 1 => 16
  | 2 => 16
  | 3 => 8
  | 4 => 8
  | 5 => 4
  | 6 => 8
  | 7 => 8
  | 8 => 32
  | _ => 64

/-- The fields of a layout word (09 Table 9.8). -/
def layRows (w : Word) : Nat := (w.toNat / 2 ^ 61 + 1) * 8
def layCols (w : Word) : Nat := w.toNat / 2 ^ 50 % 2048 + 1
def layFormat (w : Word) : Nat := w.toNat / 2 ^ 46 % 16
def layRowBytes (w : Word) : Nat := layCols w * formatBits (layFormat w) / 8
def layStep (w : Word) : Nat := if w.toNat / 2 ^ 32 % 2 ^ 14 = 0 then layRowBytes w else w.toNat / 2 ^ 32 % 2 ^ 14 * 16

/-- The tile area of a SENDT or RECVT: a tile word against the channel's shape, or with .ENT a tile-table entry, which must match it
(07 R187, R197). An entry that is FILLING or DRAINING makes the instruction wait for it. -/
def State.withTileArea (s : State) (k : Nat) (p : Proc) (e : Ep) (ent : Bool) (w : Word) (go : TileArea → State) : State :=
  if ent then
    if !hasVtu p.core || 32 ≤ w.toNat then s.illegal k
    else
      let y := s.tile (p.core * 32 + w.toNat)
      if y.owner ≠ p.name || y.st = .empty then s.illegal k
      else if layRows y.layout ≠ typRows e.typ || layRowBytes y.layout ≠ typRowBytes e.typ || layFormat y.layout ≠ typFormat e.typ then
        s.raise k causeChanType (BitVec.ofNat 64 e.handle)
      else if y.st ≠ .ready then s
      else go ⟨y.base, layRows y.layout, layRowBytes y.layout, layStep y.layout, some w.toNat⟩
  else
    let off := w.toNat % 2 ^ 24
    let st := w.toNat / 2 ^ 32 % 2 ^ 16
    let rb := typRowBytes e.typ
    let step := if st = 0 then rb else st
    if w.toNat / 2 ^ 48 ≠ 0 || w.toNat / 2 ^ 24 % 256 ≠ 0 || (decide (st ≠ 0) && (decide (st % 16 ≠ 0) || decide (st < rb))) then s.illegal k
    else if off % 16 ≠ 0 then s.raise k causeMisalign w
    else if scratchSize p.core < off + (typRows e.typ - 1) * step + rb then s.raise k causeLoadFault w
    else go ⟨off, typRows e.typ, rb, step, none⟩

/-- The checks of R230 on a drover request, but for its length. -/
def State.droverOk (s : State) (p : Proc) (ws : List Word) : Bool :=
  let op := drOp ws
  let addr := (ws.getD 1 0).toNat
  let arg := (ws.getD 2 0).toNat
  let aligned := decide (drLen ws % 8 = 0) && decide (addr % 8 = 0)
  let reply := match s.handle p.name (drReply ws) with
    | some (_, e) => (match e.server with | some (.reply _) => true | _ => false)
    | none => false
  decide (1 ≤ op) && decide (op ≤ 4) && decide (drField ws 48 3 = 0) && decide (drField ws 30 2 = 0) && reply &&
  (if op = 3 then decide (drField ws 52 4 ≤ 10) && decide (drField ws 32 16 = 0) && decide (addr % (if drField ws 51 1 = 1 then 8 else 4) = 0)
   else decide (drField ws 51 5 = 0) && aligned && (op == 4 || decide (arg % 8 = 0))) &&
  ((ws.getD 3 0) == 0 || (op == 3 && drField ws 52 4 == 9))

/-- The checks of a block that a SENDB or SENDA is to send (07 R198, 08 R230), and its bytes as a body: of its place for a rendezvous,
read now, with their poison (13 R401), for a buffered channel. -/
def State.withSend (s : State) (k : Nat) (p : Proc) (ke : Nat) (e : Ep) (w : Word) (go : State → Body → List Nat → State) : State :=
  s.withBlock k p w (
    let h : Word := BitVec.ofNat 64 e.handle
    let s := s.releaseStores k
    let bs := readBytes s.mem (windowBase p.core + blockOff w) (blockLen w)
    let drover := isDrover e.server
    if drover && decide (blockLen w ≠ 32) then s.raise k causeChanType h
    else if typMaxLen e.typ < blockLen w || (isExternal e.server && decide (blockLen w < 16)) then s.raise k causeChanType h
    else if drover && !s.droverOk p (leWords 4 bs) then s.illegal k
    else if e.server.isSome || typQueued e.typ then
      go s (.bytes bs) (s.hurtIn (windowBase p.core + blockOff w) (blockLen w))
    else go s (.place (ke / 512) (blockOff w) 1 (blockLen w) 0) [])

/-- SENDB (07 R198). -/
def execSendb (a b : Src) (s : State) :=
  onCur s (fun k p => s.issue k p [srcField a 0, srcField b 1] [] (fun vals c =>
    s.withEnd k p (vals.getD 0 0) false [1] (fun t ke e =>
      t.withSend k p ke e (vals.getD 1 0) (fun u body hurt => u.sendWait k p ke e c body none hurt))))

/-- RECVB (07 R198). -/
def execRecvb (d : Reg) (a b : Src) (s : State) :=
  onCur s (fun k p => s.issueFill k p [srcField a 0, srcField b 1] d (fun vals c =>
    s.withEnd k p (vals.getD 0 0) true [1] (fun t ke e =>
      let w := vals.getD 1 0
      t.withBlock k p w (t.receive k p ke e c
        { reg := d, tag := p.mark d, at0 := s.cycle, off := blockOff w, room := blockLen w } true))))

/-- SENDT (07 R198). -/
def execSendt (a b : Src) (ent : BitVec 1) (s : State) :=
  onCur s (fun k p => s.issue k p [srcField a 0, srcField b 1] [] (fun vals c =>
    s.withEnd k p (vals.getD 0 0) false [2] (fun t ke e =>
      t.withTileArea k p e (ent = 1) (vals.getD 1 0) (fun y =>
        let u := t.releaseStores k
        let place : Body := .place p.core y.off y.rows y.rowBytes y.step
        let m : Msg := { src := locOf ke e, sender := p.name, tid := none, tile := none, body := place, at0 := s.cycle }
        let body := if typQueued e.typ then .bytes (u.bodyRead place) else place
        u.sendWait k p ke e c body (y.tile.map (fun n => p.core * 32 + n)) (if typQueued e.typ then u.bodyHurt m else [])))))

/-- RECVT (07 R198). -/
def execRecvt (a b : Src) (ent : BitVec 1) (s : State) :=
  onCur s (fun k p => s.issue k p [srcField a 0, srcField b 1] [] (fun vals c =>
    s.withEnd k p (vals.getD 0 0) true [2] (fun t ke e =>
      t.withTileArea k p e (ent = 1) (vals.getD 1 0) (fun y =>
        t.receive k p ke e c
          { reg := 0, tag := p.mark 0, at0 := s.cycle, off := y.off, room := y.rows * y.rowBytes, step := y.step,
            rowBytes := y.rowBytes, tile := y.tile } false))))

/-- SENDA (07 R200): the sender does not wait for the match; an end may have 16 outstanding. -/
def execSenda (d : Reg) (a b : Src) (s : State) :=
  onCur s (fun k p => s.issue k p [srcField a 0, srcField b 1] [d] (fun vals c =>
    s.withEnd k p (vals.getD 0 0) false [1] (fun t ke e =>
      t.withSend k p ke e (vals.getD 1 0) (fun u body hurt =>
        if 16 ≤ (e.ids.filter Prod.snd).length then u.waitChan k (.chan e.handle)
        else
          let id := (e.issued + 1) % 2 ^ 24
          let e1 := { e with issued := id, ids := e.ids ++ [(id, true)], waitK := if e.waitK = 3 then 0 else e.waitK }
          let m : Msg := { src := locOf ke e, sender := p.name, tid := some id, tile := none, body := body, at0 := s.cycle, hurt := hurt }
          let v := match u.sendBody p ke e1 body (some id) none hurt with
            | some v => v
            | none => u.putEp ke { e1 with infl := e1.infl + 1, queue := e1.queue ++ [m] }
          v.retire k c [(d, BitVec.ofNat 64 id)]))))

end Sys2Proof.Machine
end

