-- ==== Sys2Proof/Machine/Moves.lean ====
section
/-! DEFINITION. Making, moving and deleting channels (07 R189 to R195, R222, R223; 06 R166, R167). -/

namespace Sys2Proof.Machine

/-- The failure word of a channel or server code (07 R189, 08 R226). -/
def chanFail (code : Nat) : Word := BitVec.ofNat 64 (2 ^ 63 + code)

/-- The launch that a process belongs to, by its number. -/
def State.launchNo (s : State) (p : Proc) : Nat := ((tget s.ltab (p.core * 16 + p.launch)).map LaunchEntry.launch).getD 0

/-! ### Making -/

/-- CHNEW (07 R190). -/
def execChnew (d : Reg) (a : Src) (s : State) :=
  onCur s (fun k p => s.issue k p [srcField a 0] [d] (fun vals c =>
    let t := vals.getD 0 0
    let fail (code : Nat) : State := s.retire k c [(d, chanFail code)]
    if !typOk t false then s.illegal k
    else
      match s.freeHandle p.name 0 with
      | none => fail 0x21
      | some sh =>
        match s.freeHandle p.name (sh + 1), s.freeEntry p.core 0 with
        | none, _ => fail 0x21
        | _, none => fail 0x22
        | some rh, some si =>
          match s.freeEntry p.core (si + 1) with
          | none => fail 0x22
          | some ri =>
            let launch := s.launchNo p
            let ks := epKey p.core si
            let kr := epKey p.core ri
            let queue := if typQueued t then s.allotRing (foldOf p.core) t kr else some (0, s)
            match queue with
            | none => fail 0x23
            | some (q, u) =>
              let send : Ep := { owner := p.name, handle := sh, launch := launch, recv := false, typ := t,
                                 peer := ⟨p.core, ri, 0⟩, pend := if typQueued t then typCap t else 0 }
              let recv : Ep := { owner := p.name, handle := rh, launch := launch, recv := true, typ := t,
                                 peer := ⟨p.core, si, 0⟩, rq := if typQueued t then some q else none }
              ((u.putEp ks send).putEp kr recv).retire k c [(d, BitVec.ofNat 64 (rh * 256 + sh))]))

/-! ### Deleting -/

/-- A server end is gone (08 Table 8.9, R234, R243): a dispenser without ends is FREE, the entries that moved ends have left not counted; an armed
deadline is disarmed; the replies that wait at drovers for an end are discarded. -/
def State.closeServer (s : State) (ke : Nat) (e : Ep) : State :=
  match e.server with
  | some (.dispenser n) =>
    if s.eps.any (fun x => x.2.server == some (.dispenser n) && x.2.st != .forward && x.2.fwd.isNone) then s
    else { s with disps := tdel s.disps n }
  | some (.reply _) =>
    let mine (r : DrRec) : Bool := (r.reply.map (fun key => locKey (s.follow 64 ⟨key / 512, key % 512, 0⟩))) == some ke
    s.drovers.foldl (fun t d => (d.2.ready.filter mine).foldl (fun u _ => u.after 0 (.droverReplyRelease d.1)) t) s
  | some .timer => s.disarm (foldOf (ke / 512)) (.timerEnd ke)
  | _ => s

/-- The ends that messages held at an end pass on (07 R194). -/
def passedEnds (e : Ep) : List EndLoc :=
  (e.queue ++ e.offers).filterMap (fun m => match m.body with | .handle l => some l | _ => none)

/-- The end to which an event in flight goes. -/
def eventEnd (e : Ev) : Option EndLoc :=
  match e with
  | .offerArrival d _ => some d
  | .offerResend d _ => some d
  | .messageEnqueue d _ => some d
  | .creditReturn d => some d
  | .receiveAnnounce d => some d
  | .wakeup d => some d
  | .peerDeleted d => some d
  | .sendAck m _ => some m.src
  | _ => none

/-- Whether an event in flight goes with a deleted end: it is for that end, or it carries a SENDA of it that no receiver has taken (07 R191,
R222). -/
def State.goesWith (s : State) (ke : Nat) (e : Ev) : Bool :=
  let here (l : EndLoc) : Bool := locKey (s.follow 64 l) == ke
  ((eventEnd e).map here).getD false ||
  (match e with
   | .offerArrival _ m => m.tid.isSome && here m.src
   | .offerResend _ m => m.tid.isSome && here m.src
   | .messageEnqueue _ m => m.tid.isSome && here m.src
   | _ => false)

/-- The ends that messages pass on which were under way to an end (07 R194). -/
def State.passedTo (s : State) (ke : Nat) : List EndLoc :=
  s.agenda.filterMap (fun e =>
    match eventEnd e.2, carriedMsg e.2 with
    | some d, some m => if locKey (s.follow 64 d) = ke then (match m.body with | .handle l => some l | _ => none) else none
    | _, _ => none)

/-- A location that names no end. -/
def nowhereLoc : EndLoc := ⟨2 ^ 25, 0, 0⟩

/-- An end is deleted (07 R191, R194): its entry, its ring queue with its messages, its subscription and its reservation go, the ends that
undelivered messages were passing go with it, and its peer is told. What is under way to it is lost, and entries that forwarded to it lead nowhere. -/
def State.deleteEnd (s : State) (ke : Nat) : Nat → State
  | 0 => s
  | fuel + 1 =>
    match s.ep ke with
    | none => s
    | some e =>
      let t := s.endReserve ke e
      let t1 := { t with
        agenda := t.agenda.filter (fun x => !s.goesWith ke x.2),
        eps := (tdel t.eps ke).map (fun (x : Nat × Ep) => (x.1, if (x.2.fwd.map locKey) == some ke then { x.2 with fwd := some nowhereLoc } else x.2)) }
      let t2 := match e.rq with
        | some q => t1.freeRing (foldOf (ke / 512)) q
        | none => t1
      let t3 := (t2.modCore (ke / 512) (fun c => { c with matchTab := c.matchTab.filter (fun x => x.2 != ke % 512) })).closeServer ke e
      let t4 := if e.server.isSome || !s.hasPeer ke e then t3 else t3.after (s.oneway (ke / 512) e.peer.core) (.peerDeleted e.peer)
      (passedEnds e ++ s.passedTo ke).foldl (fun u l =>
        match u.endAt l with
        | some (kp, x) => if x.st = .rebind && x.move.isNone then u.deleteEnd kp fuel else u
        | none => u) t4

/-- CHDEL (07 R191): it first waits until INFL is 0. -/
def execChdel (a : Src) (s : State) :=
  onCur s (fun k p => s.issue k p [srcField a 0] [] (fun vals c =>
    let h := vals.getD 0 0
    if 64 ≤ h.toNat then s.illegal k
    else
      match s.handle p.name h.toNat with
      | none => s.raise k causeChanRights h
      | some (ke, e) =>
        if e.infl ≠ 0 then s.waitChan k (.chan h.toNat)
        else (s.deleteEnd ke 64).retire k c []))

/-- Whether a SENDA's acknowledgement is on its way: its data has been matched (07 R191). -/
def State.ackComing (s : State) (ke id : Nat) : Bool :=
  s.agenda.any (fun e => match e.2 with
    | .sendAck m _ => m.tid == some id && locKey (s.follow 64 m.src) == ke
    | _ => false)

/-- The transfers of SENDAs that no receiver has taken end when their channel dies, and count as failed (07 R191, R198). -/
def State.failSendas (s : State) (ke : Nat) : State :=
  match s.ep ke with
  | some e => ((e.ids.filter Prod.snd).filter (fun i => !s.ackComing ke i.1)).foldl (fun t i => t.transferDone ke i.1 true)
      (s.putEp ke { e with queue := if e.recv then e.queue else [] })
  | none => s

/-- Acknowledgements on their way to a send end, but for those of SENDAs. -/
def State.acksComing (s : State) (ke : Nat) : Nat :=
  (s.agenda.filter (fun e => match e.2 with
    | .sendAck m _ => m.tid.isNone && locKey (s.follow 64 m.src) == ke
    | _ => false)).length

/-- A send end learns that its channel is dead (07 R191, R194; 05 R110): messages that will not be acknowledged any more leave INFL, its SENDAs that
no receiver has taken fail, ends that messages waiting for a credit were to pass are deleted, and a push that is lost is reported at the port's
next use. -/
def State.loseSends (s : State) (ke : Nat) : State :=
  match s.ep ke with
  | none => s
  | some e =>
    let acks := s.acksComing ke
    let lost := e.infl - acks - e.ids.length
    let waiting := match s.named e.owner with
      | some (_, p) => bitOf (p.wait == .chan e.handle && (p.hold.map Hold.arg2) == some 0 && e.waitK == 1)
      | none => 0
    let t := (s.putEp ke { e with infl := e.infl - lost }).failSendas ke
    let u := (passedEnds { e with offers := [] }).foldl (fun v l =>
      match v.endAt l with
      | some (kp, x) => if x.st = .rebind && x.move.isNone then v.deleteEnd kp 64 else v
      | none => v) t
    if lost ≤ waiting then u
    else u.modNamed e.owner (fun k p v => v.putProc k ((List.range 4).foldl (fun q i =>
      let x := q.ports.toList.getD i {}
      if x.bound && x.stream.isNone && (s.portEnd p x true).map Prod.fst == some ke then q.putPort i { x with failed := true } else q) p))

/-- The death of an end's channel takes effect (07 Table 7.2, R191, R222): offers that a receive end holds are discarded, and the end is DEAD unless
the death is held while the end moves, or while a receive end has messages. -/
def State.killEnd (s : State) (ke : Nat) : State :=
  match s.ep ke with
  | none => s
  | some e0 =>
    if e0.st = .forward then s
    else
      let s1 := if e0.recv then s.putEp ke { e0 with offers := [] } else s.loseSends ke
      match s1.ep ke with
      | none => s1
      | some e =>
        if e.st = .rebind then
          let t := s1.putEp ke { e with dying := true }
          match e.move with
          | some v => if e.infl = 0 then t.after 0 (.chbindMove v) else t
          | none => t
        else if e.recv && (!e.queue.isEmpty || e.pend ≠ 0) then s1.putEp ke { e with dying := true }
        else (s1.putEp ke { e with st := .dead, rx := none, announced := false, waitK := 0 }).failWait ke

/-- PEER_DELETED (07 R191). -/
def peerDeleted (dst : EndLoc) (s : State) : State :=
  match s.endAt dst with
  | some (ke, _) => s.killEnd ke
  | none => s

/-! ### Moving -/

/-- Bytes that a receive end's ring queue holds (07 R192). -/
def queueBytes (e : Ep) : Nat := ((e.queue.map (fun m => (bodyBytes m.body).length))).foldl (fun a b => a + b) 0

/-- Whether a moving end needs a ring queue in another fold. -/
def needsRing (e : Ep) (fromCore toCore : Nat) : Bool := e.recv && typQueued e.typ && decide (foldOf fromCore ≠ foldOf toCore)

/-- Whether an end has set out for its new place (07 R192). -/
def State.hasLeft (s : State) (key : Nat) : Bool :=
  ((s.ep key).bind Ep.fwd).isSome ||
  s.agenda.any (fun e => match e.2 with
    | .endpointInstall v => v.key == key
    | .chbindAck v _ => v.key == key
    | _ => false)

/-- Whether CHBIND's lookup of its destination is under way (07 R192). -/
def State.lookingFor (s : State) (key : Nat) : Bool :=
  s.agenda.any (fun e => match e.2 with
    | .nameLookup q _ => q.op == .chbind && q.arg == key
    | .nameLookupAnswer q _ => q.op == .chbind && q.arg == key
    | _ => false)

/-- CHBIND_MOVE (07 R192): with INFL at 0 the entry and what it holds set out for the new owner's core. Where no process has the owner's name, its
lookup's answer is awaited. The ends of a process that MIGR moves go with it (R223). -/
def chbindMove (v : EndMove) (s : State) : State :=
  match s.ep v.key with
  | none => s
  | some e =>
    if e.st ≠ .rebind || e.move ≠ some v || e.infl ≠ 0 || v.why == .migr || s.hasLeft v.key then s
    else if (s.named v.owner).isNone && s.lookingFor v.key then s
    else
      let core := ((s.named v.owner).map (fun x => x.2.core)).getD v.core
      let v1 := { v with core := core }
      let extra := if needsRing e (v.key / 512) core then (queueBytes e + 127) / 128 else 0
      (s.putEp v.key { e with move := some v1 }).after (s.oneway (v.key / 512) core + 4 + extra) (.endpointInstall v1)

/-- An expectation on a moved end counts at its new place (07 R213). -/
def State.moveExpects (s : State) (a b : Nat) : State :=
  { s with groups := s.groups.map (fun g => (g.1, { g.2 with
      expects := g.2.expects.map (fun x => if x.2.1 = a then (x.1, b, x.2.2) else x) })) }

/-- A subscription follows its end (07 R216). -/
def State.moveSubs (s : State) (a b : Nat) : State :=
  let tags := (s.core (a / 512)).matchTab.filter (fun x => x.2 == a % 512)
  if tags.isEmpty then s
  else
    let t := s.modCore (a / 512) (fun c => { c with matchTab := c.matchTab.filter (fun x => x.2 != a % 512) })
    t.modCore (b / 512) (fun c => { c with matchTab := (c.matchTab ++ tags.map (fun x => (x.1, b % 512))).take 16 })

/-- A ring queue leaves its fold: the ports that its channel's owners have bound to it fail at their next use (07 R196). -/
def State.failQueuePorts (s : State) (e : Ep) : State :=
  let fail (t : State) (name h : Nat) : State := t.modNamed name (fun k p u => u.putProc k ((List.range 4).foldl (fun q i =>
    let x := q.ports.toList.getD i {}
    if x.bound && x.kind = 1 && x.ends.contains h then q.putPort i { x with failed := true } else q) p))
  let t := fail s e.owner e.handle
  match t.endAt e.peer with
  | some (_, x) => fail t x.owner x.handle
  | none => t

/-- The end in entry `a` is written into entry `b` for an owner and handle (07 R192): its generation rises, its old entry passes on what
still arrives, its queue, deadline, subscription and expectations follow, and its peer is told. -/
def State.placeEnd (s : State) (a b owner handle : Nat) (q : Option Nat) : State :=
  match s.ep a with
  | none => s
  | some e =>
    let loc : EndLoc := ⟨b / 512, b % 512, (e.gen + 1) % 256⟩
    let dead := e.dying && !(e.recv && (!e.queue.isEmpty || e.pend ≠ 0)) || e.st = .dead
    let e1 := { e with
      owner := owner, handle := handle, gen := loc.gen, st := if dead then .dead else .opened, waitK := 0, rx := none,
      reserved := false, announced := false, move := none, fwd := none, rq := q, deadline := e.armed.isSome }
    let t := s.endReserve a e
    -- a queue that changes fold is written anew
    let t1 := if needsRing e (a / 512) (b / 512) then
        let f := t.failQueuePorts e
        let u := match e.rq with
          | some r => f.freeRing (foldOf (a / 512)) r
          | none => f
        match q with
        | some r => e.queue.foldl (fun v m => v.writeRing (foldOf (b / 512)) r m) u
        | none => u
      else t
    let t2 := (t1.putEp a { e with fwd := some loc, queue := [], offers := [], rx := none, rq := none, ids := [], armed := none }).putEp b e1
    let t3 := match e.armed with
      | some due => (t2.disarm (foldOf (a / 512)) (.timerEnd a)).armDeadline (foldOf (b / 512)) ⟨.timerEnd b, due⟩
      | none => t2
    let t4 := (t3.moveExpects a b).moveSubs a b
    let t5 := t4.after (s.oneway (b / 512) e.peer.core) (.locationUpdate (locKey e.peer) loc)
    t5.atCycle (s.cycle + 1600000) (.forwardExpiry a)

/-- The code with which the target refuses an end, 0 if it takes it (07 R192): the new owner, the entry, the ring queue. -/
def State.installCode (s : State) (v : EndMove) (e : Ep) (h : Option Nat) : Nat :=
  match s.named v.owner with
  | none => 0x24
  | some (_, p) =>
    match h with
    | none => 0x21
    | some n =>
      if s.launchNo p ≠ e.launch || (s.endsOf v.owner).any (fun x => x.2.handle == n && x.1 != v.key) then 0x24
      else if (s.freeEntry p.core 0).isNone then 0x22
      else if needsRing e (v.key / 512) p.core && (s.allotRing (foldOf p.core) e.typ 0).isNone then 0x23
      else 0

/-- ENDPOINT_INSTALL (07 R192, R194): the target takes the end, and an instruction of the new owner that waits for its handle is tried
again, or refuses it. -/
def endpointInstall (v : EndMove) (s : State) : State :=
  match s.ep v.key with
  | none => s
  | some e =>
    if e.st ≠ .rebind || e.move ≠ some v then s
    else
      match (s.named v.owner).map (fun x => x.2.core) with
      | some core =>
        if core ≠ v.core then
          -- the new owner has moved on meanwhile
          let v1 := { v with core := core }
          (s.putEp v.key { e with move := some v1 }).after (s.oneway v.core core) (.endpointInstall v1)
        else
          -- the handle chosen when the message was taken (R194), unless it has been given to another end since
          let h := match v.why with
            | .sendh _ => if (s.endsOf v.owner).any (fun x => x.2.handle == v.handle) then s.freeHandle v.owner 0 else some v.handle
            | _ => some v.handle
          let code := s.installCode v e h
          let back := s.oneway core (v.key / 512)
          if code ≠ 0 then s.after back (.chbindAck v code)
          else
            match s.freeEntry core 0 with
            | none => s.after back (.chbindAck v 0x22)
            | some ix =>
              let b := epKey core ix
              let ring := if needsRing e (v.key / 512) core then (s.allotRing (foldOf core) e.typ b).map (fun r => (some r.1, r.2))
                else some (e.rq, s)
              match ring with
              | none => s.after back (.chbindAck v 0x23)
              | some (q, t) =>
                let u := ((t.placeEnd v.key b v.owner (h.getD 0) q).after back (.chbindAck v 0)).deliver b
                let w := match v.why with
                  | .sendh d => fill d (BitVec.ofNat 64 (h.getD 0)) u
                  | _ => u
                if e.recv then (w.admitSignals b 64).checkDying b else (w.sendQueued b).wakeEnd b
      | none => s.after (s.oneway v.core (v.key / 512)) (.chbindAck v 0x24)

/-- Where the result of a move is filled. -/
def moveDest (w : MoveWhy) : Option FillTo :=
  match w with
  | .chbind d => some d
  | .sendh d => some d
  | .migr => none

/-- An end whose move is off is back with its owner under its old handle (07 Table 7.2): OPEN, or DEAD if a death is held, and what it holds is
delivered. -/
def State.reopenEnd (s : State) (ke : Nat) : State :=
  match s.ep ke with
  | none => s
  | some e =>
    let dead := e.dying && !(e.recv && (!e.queue.isEmpty || e.pend ≠ 0))
    let u := s.putEp ke { e with st := if dead then .dead else .opened, move := none }
    if e.recv then ((u.admitSignals ke 64).deliver ke).checkDying ke else (u.sendQueued ke).wakeEnd ke

/-- CHBIND_ACK (07 R192): the old entry becomes FORWARD and d is 0, or the end is back under its old handle number and d reports the
refusal. An end whose old owner is gone is deleted. -/
def chbindAck (v : EndMove) (code : Nat) (s : State) : State :=
  match s.ep v.key with
  | none => s
  | some e =>
    if e.st ≠ .rebind || e.move ≠ some v then s
    else if code = 0 then
      let t := s.putEp v.key { e with st := .forward, move := none }
      match v.why with
      | .chbind d => fill d 0 t
      | _ => t
    else
      let u := match moveDest v.why with
        | some d => fill d (chanFail code) s
        | none => s
      if (u.named e.owner).isNone then u.deleteEnd v.key 64 else u.reopenEnd v.key

/-- A drover learns where a request or reply end is now (08 R224): its requests and replies name the new entry. -/
def State.droversLearn (s : State) (loc : EndLoc) : State :=
  let now (key : Nat) : Nat :=
    let k := locKey (s.follow 64 ⟨key / 512, key % 512, 0⟩)
    if k = locKey (s.follow 64 loc) then k else key
  let req (r : DrReq) : DrReq := { r with key := now r.key, reply := now r.reply }
  let rcd (r : DrRec) : DrRec := { r with req := req r.req, reply := r.reply.map now }
  { s with drovers := s.drovers.map (fun d => (d.1, { d.2 with
      held := d.2.held.map rcd, ready := d.2.ready.map rcd, waiting := d.2.waiting.map req })) }

/-- Whether a drover still names an entry. -/
def State.droversName (s : State) (key : Nat) : Bool :=
  s.drovers.any (fun d => d.2.held.any (fun r => r.req.key == key || r.reply == some key) ||
    d.2.ready.any (fun r => r.req.key == key || r.reply == some key) || d.2.waiting.any (fun r => r.key == key || r.reply == key))

/-- LOCATION_UPDATE (06 R167, 08 R224): the peer, or the server at the other side, learns an end's new location. -/
def locationUpdate (key : Nat) (loc : EndLoc) (s : State) : State :=
  if key / 512 % 8 = 7 then s.droversLearn loc
  else
  match s.endAt ⟨key / 512, key % 512, 0⟩ with
  | some (ke, e) => if locKey (s.follow 64 e.peer) = locKey (s.follow 64 loc) then s.putEp ke { e with peer := s.follow 64 loc } else s
  | none => s

/-- FORWARD_EXPIRY (06 R167): the entry is removed once 1 ms has passed and its peer knows the new location. -/
def forwardExpiry (key : Nat) (s : State) : State :=
  match s.ep key with
  | some e =>
    if e.fwd.isNone then s
    else if e.st = .rebind || s.eps.any (fun x => locKey x.2.peer = key && x.2.fwd.isNone && x.2.server.isNone) || s.droversName key then
      s.after 1600 (.forwardExpiry key)
    else { s with eps := tdel s.eps key }
  | none => s

/-! ### CHBIND (07 R192, R193) -/

/-- Whether an end is busy for CHBIND (07 R192). -/
def endBusy (e : Ep) : Bool := e.waitK ≠ 0 || e.st ≠ .opened || (typKind e.typ == 3 && e.recv && decide (e.pend ≠ 0))

/-- The move of an end begins (07 R192): it is REBIND; in the cycle after issue the lookup of the new owner sets out, and so does the end if INFL
is 0 and the owner lives. -/
def State.startMove (s : State) (p : Proc) (ke : Nat) (e : Ep) (dest : FillTo) (owner handle : Nat) : State :=
  let core := ((s.named owner).map (fun x => x.2.core)).getD p.core
  let v : EndMove := { key := ke, owner := owner, handle := handle, core := core, why := .chbind dest }
  let q : Look := { op := .chbind, dest := dest, core := p.core, gid := p.gid, level := p.level, target := owner, arg := ke }
  let birth := owner / 2 ^ 28 % 4096 * 8192 + owner / 2 ^ 15 % 8192
  let t := s.putEp ke { e with st := .rebind, move := some v }
  (if coreIdOk birth && s.packages.contains (pkgOf birth) && s.reachable (pkgOf p.core) (pkgOf birth) then
    t.after (s.oneway p.core birth + 1) (.nameLookup q false)
  else t.after 2 (.nameLookupAnswer q (chanFail 0x24))).after 1 (.chbindMove v)

/-- Whether a lookup is that of the move under way of an end. -/
def lookFor (q : Look) (v : EndMove) : Bool :=
  match v.why with
  | .chbind d => d == q.dest
  | _ => false

/-- The lookup of CHBIND finds its destination alive: the move goes on, if it has not begun (07 R192). -/
def State.lookBind (s : State) (q : Look) (p : Proc) : State × Option Word :=
  match s.ep q.arg with
  | some e =>
    match e.move with
    | some v =>
      if lookFor q v && !s.hasLeft q.arg then
        (chbindMove { v with core := p.core } (s.putEp q.arg { e with move := some { v with core := p.core } }), none)
      else (s, none)
    | none => (s, none)
  | none => (s, none)

/-- The lookup of CHBIND finds no live process: d gets code 0x24 four cycles after the answer's return, and the end is back (07 R192), unless it has
set out since. -/
def State.bindAnswer (s : State) (q : Look) (_w : Word) : State :=
  match (s.ep q.arg).bind Ep.move with
  | some v => if lookFor q v && !s.hasLeft q.arg then s.after 4 (.chbindAck v 0x24) else s
  | none => s

/-- The end that a designator of CHBIND names (07 R192): one that its owner holds, or one on the move with its owner (R223). -/
def State.boundEnd (s : State) (name h : Nat) : Option (Nat × Ep) :=
  s.eps.find? (fun e => e.2.owner == name && e.2.handle == h && (epHeld e.2 || isMigr e.2))

/-- CHBIND (07 R192). -/
def execChbind (d : Reg) (a b : Src) (s : State) :=
  onCur s (fun k p => s.issueFill k p [srcField a 0, srcField b 1] d (fun vals c =>
    let x := vals.getD 0 0
    let y := vals.getD 1 0
    let bad (w : Word) : Bool := decide (w.toNat / 64 % 4 ≠ 0) || decide (2 ^ 48 ≤ w.toNat)
    let who := x.toNat / 256
    let foreign := decide (who ≠ 0) && decide (who ≠ p.name)
    let owner := if foreign then who else p.name
    let out (w : Word) : State := ((s.produce k d).after 1 (.fill (p.dest d) w)).retire k c []
    if bad x || bad y then s.illegal k
    else if foreign && p.level = 0 then s.raiseWord k causePriv
    else
      match s.boundEnd owner (x.toNat % 64) with
      | none => if foreign then out (chanFail 0x2B) else s.raise k causeChanRights (BitVec.ofNat 64 (x.toNat % 64))
      | some (ke, e0) =>
        -- the process's own reservation ends (R209)
        let s := if foreign then s else s.endReserve ke e0
        let out (w : Word) : State := ((s.produce k d).after 1 (.fill (p.dest d) w)).retire k c []
        let e := (s.ep ke).getD e0
        let permitted := match s.named owner with
          | some (_, o) => p.level == 2 || s.supervises p o.gid
          | none => false
        if foreign && !permitted then out (chanFail 0x26)
        else if endBusy e then out (chanFail 0x25)
        else ((s.produce k d).startMove p ke e (p.dest d) (y.toNat / 256) (y.toNat % 64)).retire k c []))

/-- SENDH (07 R194): the end that b names is REBIND from now on, and its location travels as a message. -/
def execSendh (a b : Src) (s : State) :=
  onCur s (fun k p => s.issue k p [srcField a 0, srcField b 1] [] (fun vals c =>
    let x := vals.getD 1 0
    if 64 ≤ x.toNat then s.illegal k
    else
      s.withEnd k p (vals.getD 0 0) false [4] (fun t ke e =>
        let moving := (t.endsOf p.name).any (fun z => z.2.handle == x.toNat && z.2.st == .rebind)
        if x = vals.getD 0 0 || moving then t.raise k causeChanRights x
        else
          match t.handle p.name x.toNat with
          | none => t.waitChan k (.chan x.toNat)
          | some (kp, y) =>
            let u := (t.endReserve kp y).releaseStores k
            let y1 := (u.ep kp).getD y
            let v := u.putEp kp { y1 with st := .rebind, dying := y1.dying || y1.st = .dead, waitK := 0 }
            let body : Body := .handle (locOf kp y)
            -- without a credit the message waits at its send end, the end already in passage
            ((v.sendBody p ke e body none none).getD (v.putEp ke { e with
              infl := e.infl + 1,
              queue := e.queue ++ [{ src := locOf ke e, sender := p.name, tid := none, tile := none, body := body, at0 := s.cycle }] })).holdOn
                k ke e { consume := c })))

/-! ### Queries (07 R195) -/

/-- The code of an endpoint state (07 Table 7.2). -/
def epCode (st : EpSt) : Nat :=
  match st with
  | .opened => 1
  | .wait => 2
  | .rebind => 3
  | .forward => 4
  | .dead => 5

/-- The information word of CHQRY. -/
def endWord (e : Ep) : Word :=
  BitVec.ofNat 64 (epCode e.st * 2 ^ 60 + typKind e.typ * 2 ^ 56 + bitOf e.recv * 2 ^ 55 + typCap e.typ * 2 ^ 47 + min e.pend 255 * 2 ^ 39 +
    e.rq.getD 0 * 2 ^ 33 + bitOf e.rq.isSome * 2 ^ 32 + e.done * 2 ^ 8)

/-- A channel instruction on a handle ends the reservation that an ALT of its process holds there (07 R209). -/
def State.endOwn (s : State) (p : Proc) (h : Nat) : State :=
  match s.handle p.name h with
  | some (ke, e) => s.endReserve ke e
  | none => s

/-- CHQRY. -/
def execChqry (d : Reg) (a : Src) (s : State) :=
  onCur s (fun k p => s.issue k p [srcField a 0] [d] (fun vals c =>
    let h := vals.getD 0 0
    if 64 ≤ h.toNat then s.illegal k
    else (s.endOwn p h.toNat).retire k c
      [(d, match s.handle p.name h.toNat with | some (_, e) => endWord e | none => BitVec.ofNat 64 (2 ^ 63))]))

/-- CHPOLL. -/
def execChpoll (d : Reg) (a : Src) (s : State) :=
  onCur s (fun k p => s.issue k p [srcField a 0] [d] (fun vals c =>
    let h := vals.getD 0 0
    if 64 ≤ h.toNat then s.illegal k
    else (s.endOwn p h.toNat).retire k c
      [(d, match s.handle p.name h.toNat with | some (_, e) => (if s.endReady e then 1 else 0) | none => allOnes)]))

/-! ### A process that moves or stops waiting (07 R223, 06 R146) -/

/-- An end on which no instruction waits any more (07 Table 7.2). -/
def reopened (e : Ep) : Ep :=
  { e with rx := none, reserved := false, waitK := 0, st := if e.st = .wait then .opened else e.st }

/-- The receive of the peer that an ALT's send was to meet is not reserved any more (07 R209, R223). -/
def State.unreserve (s : State) (e : Ep) : State :=
  match s.endAt e.peer with
  | some (kp, x) =>
    if !e.recv && x.reserved then
      let u := s.putEp kp { x with reserved := false }
      if (x.rx.bind Rx.timed).isSome then u.after 0 (.trecvExpiry x.owner) else u
    else s
  | none => s

/-- The operation of a waiting instruction is withdrawn: its message, its receive, its watch and its deadline (07 R223). -/
def State.withdrawWait (s : State) (p : Proc) : State :=
  let mine (m : Msg) : Bool := m.sender == p.name && m.tid.isNone && decide (m.at0 = (p.hold.map Hold.issuedAt).getD 0)
  let stop (e : Nat × Ev) : Bool :=
    match e.2 with
    | .offerArrival _ m => mine m
    | .offerResend _ m => mine m
    | _ => false
  match p.wait with
  | .chan h =>
    let bodies := s.agenda.filterMap (fun e => if stop e then (carriedMsg e.2).map Msg.body else none) ++
      s.eps.flatMap (fun e => ((e.2.offers ++ (if e.2.recv then [] else e.2.queue)).filter mine).map Msg.body)
    let left : List (Nat × Ep) := s.eps.map (fun e => (e.1, { e.2 with
      offers := e.2.offers.filter (fun m => !mine m), queue := if e.2.recv then e.2.queue else e.2.queue.filter (fun m => !mine m) }))
    let t : State := { s with agenda := s.agenda.filter (fun e => !stop e), eps := left }
    let u := match t.handle p.name h with
      | some (ke, e) =>
        (t.putEp ke { reopened e with infl := e.infl - bodies.length, deadline := e.armed.isSome }).unreserve e
      | none => t
    -- an end that the message was to pass is back with its owner
    let u := bodies.foldl (fun v b =>
      match b with
      | .handle l => (match v.endAt l with | some (kp, _) => v.reopenEnd kp | none => v)
      | _ => v) u
    u.disarm (foldOf p.core) (.trecv p.name)
  | .alt =>
    match p.alt with
    | some a => (s.unwatch p a.guards).disarm (foldOf p.core) (.alt p.name)
    | none => s
  | _ => s

/-- Whether a message of a process's waiting instruction has been matched or queued, so that its end comes by itself (07 R206). -/
def State.opInFlight (s : State) (p : Proc) : Bool :=
  match p.wait with
  | .chan _ =>
    (match p.hold with | some h => decide (h.arg2 = 1) | none => false) ||
    s.agenda.any (fun e => match e.2 with
      | .messageEnqueue _ m => m.sender == p.name && m.tid.isNone
      | .droverRequest _ r => r.msg.sender == p.name && r.msg.tid.isNone
      | .ackTimeout _ m => m.sender == p.name && m.tid.isNone
      | .sendAck m _ => m.sender == p.name && m.tid.isNone
      | _ => false)
  | _ => false

/-- The ends that a process holds are REBIND while MIGR moves it (07 R223, Table 7.2). -/
def State.rebindEnds (s : State) (p : Proc) : State :=
  ((s.endsOf p.name).filter (fun e => epHeld e.2)).foldl (fun t e =>
    (t.endReserve e.1 e.2).modEp e.1 (fun x => { x with
      st := .rebind, dying := x.dying || x.st = .dead, waitK := 0,
      move := some { key := e.1, owner := p.name, handle := x.handle, core := p.core, why := .migr } })) s

/-- Whether a process on the move waits for messages of its ends to be acknowledged (07 R192, R223); its copies go on (R211). -/
def State.endsDrain (s : State) (p : Proc) : Bool :=
  (s.endsOf p.name).any (fun e => isMigr e.2 && decide ((e.2.ids.filter (fun i => !i.2)).length < e.2.infl))

/-- The ends of a process whose move has ended are open again: with what they hold delivered (07 R192, R223). -/
def State.reopenEnds (s : State) (p : Proc) : State :=
  ((s.endsOf p.name).filter (fun e => isMigr e.2)).foldl (fun t e => t.reopenEnd e.1) s

/-- Every end of a process goes to another core under the same owner and handle (07 R223): none where that core has no room. An end that is
already on its way to a new owner stays. -/
def State.moveEnds (s : State) (p : Proc) (core : Nat) : Option State :=
  ((s.endsOf p.name).filter (fun e => e.2.move.isNone || isMigr e.2)).foldl (fun (acc : Option State) (e : Nat × Ep) =>
    match acc with
    | none => none
    | some t =>
      match t.freeEntry core 0 with
      | none => none
      | some ix =>
        let b := epKey core ix
        let ring := if needsRing e.2 (e.1 / 512) core then (t.allotRing (foldOf core) e.2.typ b).map (fun r => (some r.1, r.2))
          else some (e.2.rq, t)
        match ring with
        | none => none
        | some (q, u) =>
          -- an end in passage stays in passage (07 R194); one that moves with its owner is open once that has landed
          let v := u.placeEnd e.1 b p.name e.2.handle q
          let w := if e.2.st == .rebind then
              v.modEp b (fun x => { x with st := .rebind, dying := e.2.dying, move := e.2.move.map (fun m => { m with key := b, core := core }) })
            else v
          some (w.modEp e.1 (fun x => { x with st := .forward }))) (some s)

/-- The ends of a process that ends are deleted, but for those already on their way to a new owner (07 R192, R222). -/
def State.deleteEnds (s : State) (p : Proc) : State :=
  ((s.endsOf p.name).filter (fun e => e.2.move.isNone || isMigr e.2)).foldl (fun t e => t.deleteEnd e.1 64) (s.withdrawWait p)

/-- Whether a process still waits for a CHBIND or SENDH that it issued (07 R192): one that is under way, or an end in passage whose
message a ring queue holds. -/
def State.bindsOut (s : State) (p : Proc) : Bool :=
  s.eps.any (fun e => e.2.st == .rebind &&
    ((match e.2.move with
      | some v => (match v.why with | .chbind d => d.name == p.name | .sendh _ => e.2.owner == p.name | .migr => false)
      | none => e.2.owner == p.name && s.eps.any (fun x => x.2.queue.any (fun m =>
          match m.body with | .handle l => locKey (s.follow 64 l) == e.1 | _ => false)))))

end Sys2Proof.Machine
end

