-- ==== Sys2Proof/Machine/Alt.lean ====
section
/-! DEFINITION. ALT (07 R207 to R209). -/

namespace Sys2Proof.Machine

/-- A guard's two words keep Table 7.8. -/
def guardOk (w v : Word) : Bool :=
  let kind := w.toNat / 256 % 4
  decide (w.toNat < 2 ^ 17) && decide (w.toNat / 64 % 4 = 0) && decide (w.toNat / 1024 % 64 = 0) &&
  (decide (kind < 2) || decide (w.toNat % 64 = 0)) && (kind == 2 || v == 0)

/-- The enabled guards of a list of words, two a guard. -/
def enabledGuards (ws : List Word) (count : Nat) : List Guard :=
  (List.range count).filterMap (fun i =>
    let w := ws.getD (2 * i) 0
    if w.getLsbD 16 then some { ix := i, kind := w.toNat / 256 % 4, handle := w.toNat % 64, time := (ws.getD (2 * i + 1) 0).toNat } else none)

/-- A guard whose kind does not suit its end (07 R180). -/
def State.badGuard (s : State) (p : Proc) (g : Guard) : Bool :=
  decide (g.kind < 2) &&
  (match s.handle p.name g.handle with
   | some (_, e) => e.recv != decide (g.kind = 0)
   | none => false)

/-- An earlier reservation on the ends that guards name is over (07 R209). -/
def State.endReserves (s : State) (p : Proc) (gs : List Guard) : State :=
  gs.foldl (fun t g =>
    if 2 ≤ g.kind then t
    else
      match t.handle p.name g.handle with
      | some (ke, e) => t.endReserve ke e
      | none => t) s

/-- The ends that an ALT's guards name are watched (07 Table 7.2). -/
def State.watch (s : State) (p : Proc) (gs : List Guard) : State :=
  gs.foldl (fun t g =>
    if 2 ≤ g.kind then t
    else
      match t.handle p.name g.handle with
      | some (ke, e) => t.putEp ke { e with
          waitK := 2, st := if e.st = .opened then .wait else e.st, deadline := e.deadline || gs.any (fun x => x.kind == 2) }
      | none => t) s

/-- ALT (07 R208): a guard that is ready is chosen at once; else the process waits until one is. -/
def execAlt (d : Reg) (a b : Src) (f : BitVec 1) (s : State) :=
  onCur s (fun k p => s.issue k p [srcField a 0, srcField b 1] [d] (fun vals c =>
    let x := vals.getD 0 0
    let y := (vals.getD 1 0).toNat
    let count := y % 32
    let off := x.toNat
    if 2 ^ 24 ≤ off || 4096 ≤ y || decide (y / 32 % 8 ≠ 0) || count = 0 || 16 < count then s.illegal k
    else if off % 16 ≠ 0 then s.raise k causeMisalign x
    else if scratchSize p.core < off + 16 * count then s.raise k causeLoadFault x
    else
      let t := s.releaseStores k
      let ws := leWords (2 * count) (readBytes t.mem (windowBase p.core + off) (16 * count))
      if (List.range count).any (fun i => !guardOk (ws.getD (2 * i) 0) (ws.getD (2 * i + 1) 0)) then s.illegal k
      else
        let gs := enabledGuards ws count
        let last := if f = 1 then some (y / 256 % 16) else none
        match gs.find? (t.badGuard p) with
        | some g => s.raise k causeChanRights (BitVec.ofNat 64 g.handle)
        | none =>
          if gs.isEmpty then t.retire k c [(d, allOnes)]
          else
            let u := t.endReserves p gs
            match chooseGuard (gs.filter (u.guardReady p)) count last with
            | some g => (u.reserve p g).retire k c [(d, BitVec.ofNat 64 g.ix)]
            | none =>
              let v := (u.watch p gs).modProc k (fun q => { q with
                deadline := ((gs.filter (fun g => g.kind == 2)).map Guard.time).min?.getD 0
                alt := some { guards := gs, count := count, last := last }
                hold := some { consume := c, dst := some d, issuedAt := s.cycle } })
              (gs.filter (fun g => g.kind == 2)).foldl (fun w g => w.armDeadline (foldOf p.core) ⟨.alt p.name, g.time⟩) (v.waitChan k .alt)))

end Sys2Proof.Machine
end

