-- ==== Sys2Proof/Machine/Atomics.lean ====
section
/-! DEFINITION. Atomics (05 R125, 04 R97), fences (04 R96), DRAIN.S and ISYNC (04 R86, R89), and accesses at their
targets. -/

namespace Sys2Proof.Machine

/-- AMO_AT_HOME (04 R97): the atomic is performed at the location's home, and its old value travels back. -/
def amoAtHome (x : Access) (s : State) : State :=
  let w := s.windowPort x.addr (.amoAtHome x)
  if w.2 then w.1.amoPerform x s.cycle else w.1

/-- The instruction that waits for a target's answer takes the fault the target answered with (04 R75, R78). -/
def State.answerFault (s : State) (x : Access) (f : Nat × Word) : State :=
  s.modNamed x.name (fun k p t =>
    if p.wait = .access then
      (t.putProc k { p.dropHold with st := .resident, wait := .none }).raiseAccess k p x.addr f
    else t)

/-- The answer of the target for which an instruction waits fills its destination, and it retires (05 R104, log 9). -/
def State.answerValue (s : State) (x : Access) (reg : Reg) (tag : BitVec 2) (v : Word) : State :=
  s.modNamed x.name (fun _ p t =>
    if speWindow x.core x.addr then t.after (t.accessTime x.core x.addr x.size - t.wayTo x.core x.addr) (.fill ⟨x.name, reg, tag⟩ v)
    else if p.wait = .access then fill ⟨x.name, reg, tag⟩ v t
    else t)

/-- REMOTE_ACCESS_ARRIVAL (04 R75 to R78): the windows are checked first; a refused load or atomic takes WINDOW_NAK and a refused
store gets a negative answer; an accepted one is performed or answered as unbacked. -/
def remoteAccessArrival (x : Access) (s : State) : State :=
  let bad (reads : Bool) : Option (Nat × Word) :=
    match s.named x.name with
    | some (_, p) => s.accessFault p x.addr x.va x.size reads
    | none => none
  match x.kind with
  | .load reg tag size signed =>
    if !s.passes x.core x.gid x.level x.addr x.size true false then s.answerFault x (causeWindowNak, BitVec.ofNat 64 x.addr)
    else
      match bad true with
      | some f => s.answerFault x f
      | none =>
        let w := s.windowPort x.addr (.remoteAccessArrival x)
        match (if w.2 then w.1.named x.name else none) with
        | some (_, p) => w.1.answerValue x reg tag (extend size signed (w.1.readThrough p x.va x.addr size))
        | none => w.1
  | .amo op dbl b cmp reg tag =>
    if !s.passes x.core x.gid x.level x.addr x.size true true then s.answerFault x (causeWindowNak, BitVec.ofNat 64 x.addr)
    else
      match bad true with
      | some f => s.answerFault x f
      | none =>
        let w := s.windowPort x.addr (.remoteAccessArrival x)
        if w.2 then
          let r := w.1.atomic x op.toNat dbl b cmp
          r.2.answerValue x reg tag (BitVec.ofNat 64 r.1)
        else w.1
  | .store id =>
    match s.sbEntry x.core id with
    | none => s
    | some e =>
      let back := s.wayTo x.core x.addr + 2
      if !s.passes x.core x.gid x.level x.addr x.size false true then s.after back (.storeNak x.core id causeWindowNak)
      else if !s.backed x.addr x.size || (wordRow x.addr && decide (x.size ≠ 8)) then
        s.after back (.storeNak x.core id causeStoreFault)
      else
        let w := s.windowPort x.addr (.remoteAccessArrival x)
        if w.2 then (w.1.performStore x.core e x.addr).after back (.storeAck x.core id) else w.1
  | _ => s

/-- LINK_LOST_TIMEOUT (12 R364, R371): a load or atomic that still waits takes PEER_FAIL; a store that has not been performed never is,
and counts as complete. -/
def linkLostTimeout (x : Access) (s : State) : State :=
  match x.kind with
  | .store id =>
    (match s.sbEntry x.core id with
     | some e =>
       if e.done then s
       else ((s.modSb x.core id (fun y => { y with done := true })).peerFail x.gid (pkgOfAddr x.addr)).after 0 (.storeAck x.core id)
     | none => s)
  | _ =>
    s.modNamed x.name (fun _ p t =>
      if p.wait = .access && (p.hold.map (fun h => h.issuedAt + lostCycles)) == some s.cycle then
        let ix := (t.group? p.gid).bind (fun g => g.peers.findIdx? (fun w => peerNames w (pkgOfAddr x.addr)))
        t.answerFault x (causePeerFail, BitVec.ofNat 64 (ix.getD 64))
      else t)

/-- An AMO of function code `op` (05 R125). -/
def State.amo (s : State) (k : Nat) (p : Proc) (op : Nat) (d : Reg) (a b : Src) (w acq rel : BitVec 1) : State :=
  let fs := [srcField a 0, srcField b 1] ++ (if op = 9 then [plainField d 3] else [])
  let n := amoSize (w = 1)
  s.issueFill k p fs d (fun vals c =>
    let va := (vals.getD 0 0).toNat
    if va % n ≠ 0 then s.raise k causeMisalign (vals.getD 0 0)
    else if rel = 1 && s.hasStores p then s.park k .stores
    else s.withPage k p va true true (fun t pa =>
      if t.overlapping p va pa n then t.park k .stores
      else
      let cmp := if op = 9 then vals.getD 2 0 else 0
      let checked := t.held p pa
      match (if checked then none else t.accessFault p pa va n true) with
      | some f => t.raiseAccess k p pa f
      | none =>
        if op = 10 && t.crosses p pa && !t.hasFeature (pkgOfAddr pa) (featFadd (w = 1)) then
          -- 12 R371: the target's package does not have the feature
          (t.peerFail p.gid (pkgOfAddr pa)).raiseWord k causeUnsup
        else
        let tag := p.nextTag d
        let x := accessOf p (.amo (BitVec.ofNat 4 op) (w = 1) (vals.getD 1 0) cmp d tag) pa va n 0
        if checked then (t.awaitAnswer k p d c).sendHeld p x
        else
          let t1 := (t.pullAmos p.name (fun y => meet y.addr y.size pa n)).book p.core pa n
          let after := t.accessTime p.core pa n - t.wayTo p.core pa - 1
          if acq = 1 then (t1.awaitAnswer k p d c).after after (.amoAtHome x)
          else (((t1.produce k d).modProc k (fun q => { q with loads := q.loads ++ [(d, tag)] })).after after (.amoAtHome x)).retire k c []))

def execAmoAdd (d : Reg) (a b : Src) (w x y : BitVec 1) (s : State) := onCur s (fun k p => s.amo k p 0 d a b w x y)
def execAmoAnd (d : Reg) (a b : Src) (w x y : BitVec 1) (s : State) := onCur s (fun k p => s.amo k p 1 d a b w x y)
def execAmoOr (d : Reg) (a b : Src) (w x y : BitVec 1) (s : State) := onCur s (fun k p => s.amo k p 2 d a b w x y)
def execAmoXor (d : Reg) (a b : Src) (w x y : BitVec 1) (s : State) := onCur s (fun k p => s.amo k p 3 d a b w x y)
def execAmoMin (d : Reg) (a b : Src) (w x y : BitVec 1) (s : State) := onCur s (fun k p => s.amo k p 4 d a b w x y)
def execAmoMax (d : Reg) (a b : Src) (w x y : BitVec 1) (s : State) := onCur s (fun k p => s.amo k p 5 d a b w x y)
def execAmoMinu (d : Reg) (a b : Src) (w x y : BitVec 1) (s : State) := onCur s (fun k p => s.amo k p 6 d a b w x y)
def execAmoMaxu (d : Reg) (a b : Src) (w x y : BitVec 1) (s : State) := onCur s (fun k p => s.amo k p 7 d a b w x y)
def execAmoSwp (d : Reg) (a b : Src) (w x y : BitVec 1) (s : State) := onCur s (fun k p => s.amo k p 8 d a b w x y)
def execAmoCas (d : Reg) (a b : Src) (w x y : BitVec 1) (s : State) := onCur s (fun k p => s.amo k p 9 d a b w x y)
def execAmoFadd (d : Reg) (a b : Src) (w x y : BitVec 1) (s : State) := onCur s (fun k p => s.amo k p 10 d a b w x y)

/-! ### Fences and drains -/

/-- Whether an invalidation that a process posted is not complete (04 R82). -/
def State.invalPending (s : State) (name : Nat) : Bool :=
  s.cores.any (fun e => e.2.invals.any (fun v => v.poster == name))

/-- FENCE (04 R96): scope s, kind k. -/
def execFence (d : Reg) (sc : BitVec 3) (kd : BitVec 2) (s : State) :=
  onCur s (fun k p => s.issue k p [] [d] (fun _ c =>
    if (kd = 0 || kd = 2) && !p.loads.isEmpty then s.park k .loads
    else if (kd = 1 || kd = 2) && s.hasStores p then s.park k .stores
    else if sc = 5 && decide (p.level ≠ 0) && s.invalPending p.name then s.park k .stores
    else s.retire k c [(d, ((s.group? p.gid).map Group.failBits).getD 0)]))

/-- DRAIN.S (04 R86): a store that writes a record stops the process here (R85). -/
def execDrainS (s : State) :=
  onCur s (fun k p => if s.hasStores p then s.park k .stores else s.retire k 0 [])

/-- Whether a buffered store of a process goes to the ISTORE of its own core and is not performed (04 R89). -/
def State.codePending (s : State) (p : Proc) : Bool :=
  (s.core p.core).sb.any (fun e => e.name == p.name && !e.done &&
    (match s.translateNow p.core e.asid e.root e.level e.va false true with
     | some pa => decide (windowBase p.core + 0x120000 ≤ pa) && decide (pa < windowBase p.core + 0x130000)
     | none => false))

/-- ISYNC (04 R89): the model fetches every word anew, so nothing fetched is left to discard. -/
def execIsync (s : State) :=
  onCur s (fun k p => if s.codePending p then s.park k .stores else s.retire k 0 [])

end Sys2Proof.Machine
end

