-- ==== Sys2Proof/Machine/Branch.lean ====
section
/-! DEFINITION. Branches and jumps, majors 0x18 to 0x1C (05 R126 to R128). -/

namespace Sys2Proof.Machine

/-- A branch on one register (05 Table 5.7). -/
def State.branch1 (s : State) (k : Nat) (p : Proc) (a : Src) (o : BitVec 17) (cond : Word → Bool) : State :=
  s.issue k p [srcField a 0] [] (fun vals c =>
    if cond (vals.getD 0 0) then s.retireTo k c [] (target p.pc o) else s.retire k c [])

/-- A branch on two registers (05 Table 5.7). -/
def State.branch2 (s : State) (k : Nat) (p : Proc) (a b : Src) (o : BitVec 11) (cond : Word → Word → Bool) : State :=
  s.issue k p [srcField a 0, srcField b 1] [] (fun vals c =>
    if cond (vals.getD 0 0) (vals.getD 1 0) then s.retireTo k c [] (target p.pc o) else s.retire k c [])

def execBeqz (a : Src) (o : BitVec 17) (s : State) := onCur s (fun k p => s.branch1 k p a o (fun x => x == 0))
def execBnez (a : Src) (o : BitVec 17) (s : State) := onCur s (fun k p => s.branch1 k p a o (fun x => x != 0))
def execBltz (a : Src) (o : BitVec 17) (s : State) := onCur s (fun k p => s.branch1 k p a o (fun x => x.slt 0))
def execBgez (a : Src) (o : BitVec 17) (s : State) := onCur s (fun k p => s.branch1 k p a o (fun x => !x.slt 0))
def execBgtz (a : Src) (o : BitVec 17) (s : State) := onCur s (fun k p => s.branch1 k p a o (fun x => BitVec.slt 0 x))
def execBlez (a : Src) (o : BitVec 17) (s : State) := onCur s (fun k p => s.branch1 k p a o (fun x => !BitVec.slt 0 x))
def execBeq (a b : Src) (o : BitVec 11) (s : State) := onCur s (fun k p => s.branch2 k p a b o (fun x y => x == y))
def execBne (a b : Src) (o : BitVec 11) (s : State) := onCur s (fun k p => s.branch2 k p a b o (fun x y => x != y))
def execBlt (a b : Src) (o : BitVec 11) (s : State) := onCur s (fun k p => s.branch2 k p a b o (fun x y => x.slt y))
def execBge (a b : Src) (o : BitVec 11) (s : State) := onCur s (fun k p => s.branch2 k p a b o (fun x y => !x.slt y))
def execBltu (a b : Src) (o : BitVec 11) (s : State) := onCur s (fun k p => s.branch2 k p a b o (fun x y => x.ult y))
def execBgeu (a b : Src) (o : BitVec 11) (s : State) := onCur s (fun k p => s.branch2 k p a b o (fun x y => !x.ult y))

/-- The address of the word after the one at a program counter, as a link (05 R127). -/
def linkOf (pc : BitVec 16) : Word := zext (pc + 4)

/-- J (05 R127). -/
def execJ (o : BitVec 25) (s : State) := onCur s (fun k p => s.retireTo k 0 [] (target p.pc o))

/-- JAL (05 R127): the link goes into g15. -/
def execJal (o : BitVec 25) (s : State) := onCur s (fun k p => s.retireTo k 0 [(15, linkOf p.pc)] (target p.pc o))

/-- JR (05 R127, 03 R49). -/
def execJr (a : Src) (s : State) :=
  onCur s (fun k p => s.issue k p [srcField a 0] [] (fun vals c => s.jumpTo k c [] (vals.getD 0 0)))

/-- JALR (05 R127): a is read before d is written. -/
def execJalr (d : Reg) (a : Src) (s : State) :=
  onCur s (fun k p => s.issue k p [srcField a 0] [d] (fun vals c => s.jumpTo k c [(d, linkOf p.pc)] (vals.getD 0 0)))

/-- LOOP (05 R128): a := a - 1, and a branch if the new a is not 0. -/
def execLoop (a : Src) (o : BitVec 17) (s : State) :=
  onCur s (fun k p => s.issue k p [srcField a 0] [a.reg] (fun vals c =>
    let v := vals.getD 0 0 - 1
    if v ≠ 0 then s.retireTo k c [(a.reg, v)] (target p.pc o) else s.retire k c [(a.reg, v)]))

end Sys2Proof.Machine
end

