-- ==== Sys2Proof/Machine/Copies.lean ====
section
/-! DEFINITION. Copies and transfer identifiers (07 R210 to R213), streams and bound ports (07 R214, R215, 05 R109), and multicast
(07 R216, R217). -/

namespace Sys2Proof.Machine

/-! ### Reaching memory as an engine does -/

/-- Whom an engine acts for: the core and its fold's streamers, the address space and its table, the group and the level. -/
structure Agent where
  core : Nat
  gid : Nat
  level : Nat
  asid : Nat
  root : Nat
  deriving DecidableEq, Repr

/-- A process as the agent of its engines' accesses (07 R211). -/
def State.agentOf (s : State) (p : Proc) : Agent := ⟨p.core, p.gid, p.level, s.asidOf p, s.rootOf p⟩

/-- The physical address of `n` bytes of a page or alias that an engine may reach: none for a translation fault, a window refusal, a
link that is down, an unbacked address (07 R211), or poisoned data (13 R401), but for an engine that takes the poison along (`any`). -/
def State.engineReach (s : State) (a : Agent) (va n : Nat) (wr : Bool) (any : Bool := false) : Option Nat :=
  match s.translateNow a.core a.asid a.root a.level va (!wr) wr with
  | some pa =>
    if s.backed pa n && s.passes a.core a.gid a.level pa n (!wr) wr && s.reachable (pkgOf a.core) (pkgOfAddr pa) &&
        (!wordRow pa || (n == 8 && decide (pa % 8 = 0))) && (wr || any || !s.poisoned pa n)
    then some pa else none
  | none => none

/-- A range of addresses cut at multiples of 8: an aligned word, or a part of one, a piece. -/
def pieces (va : Nat) : Nat → Nat → List (Nat × Nat)
  | 0, _ => []
  | fuel + 1, n =>
    if n = 0 then []
    else
      let m := min n (8 - va % 8)
      (va, m) :: pieces (va + m) fuel (n - m)

/-- Bytes at a virtual address as an engine reads them: none where a byte cannot be reached. -/
def State.engineRead (s : State) (a : Agent) (va n : Nat) (any : Bool := false) : Option (List Byte) :=
  (pieces va n n).foldl (fun acc x =>
    match acc, s.engineReach a x.1 x.2 false any with
    | some bs, some pa => some (bs ++ leBytes x.2 (s.loadPhys pa x.2))
    | _, _ => none) (some [])

/-- Bytes written at a virtual address as an engine writes them: none, and nothing written, where a byte cannot be reached. -/
def State.engineWrite (s : State) (a : Agent) (name va : Nat) (bs : List Byte) : Option State :=
  let ps := pieces va bs.length bs.length
  if ps.all (fun x => (s.engineReach a x.1 x.2 true).isSome) then
    some (ps.foldl (fun t x =>
      match s.engineReach a x.1 x.2 true with
      | some pa => t.storePhys a.core name pa x.2 (leNat ((bs.drop (x.1 - va)).take x.2))
      | none => t) s)
  else none

/-! ### COPY (07 R210, R211) -/

/-- A field of a descriptor by byte offset, low bit and width. -/
def descField (ws : List Word) (off lo n : Nat) : Nat := (ws.getD (off / 8) 0).toNat / 2 ^ lo % 2 ^ n

/-- A 32-bit stride, sign-extended to an address. -/
def stride32 (n : Nat) : Word := sext (BitVec.ofNat 32 n)

/-- The counts of a copy descriptor's source and destination (07 Table 7.9). -/
def copySrcCounts (ws : List Word) : Nat × Nat × Nat := (descField ws 0x10 16 16, descField ws 0x10 0 16, descField ws 0x18 48 16)
def copyDstCounts (ws : List Word) : Nat × Nat × Nat := (descField ws 0x18 32 16, descField ws 0x18 16 16, descField ws 0x18 0 16)
def copyElem (ws : List Word) : Nat := descField ws 0x10 32 32
def copySignal (ws : List Word) : Bool := (ws.getD 7 0).getLsbD 0
def copyTotal (c : Nat × Nat × Nat) : Nat := c.1 * c.2.1 * c.2.2

/-- The source and destination patterns of a copy, as streams. -/
def copySrc (ws : List Word) : Stream :=
  let c := copySrcCounts ws
  { base := ws.getD 0 0, c0 := c.1, c1 := c.2.1, c2 := c.2.2, s0 := stride32 (descField ws 0x20 32 32),
    s1 := stride32 (descField ws 0x20 0 32), s2 := stride32 (descField ws 0x28 32 32) }
def copyDst (ws : List Word) : Stream :=
  let c := copyDstCounts ws
  { base := ws.getD 1 0, c0 := c.1, c1 := c.2.1, c2 := c.2.2, s0 := stride32 (descField ws 0x28 0 32),
    s1 := stride32 (descField ws 0x30 32 32), s2 := stride32 (descField ws 0x30 0 32) }

/-- Whether a descriptor keeps R210, but for SIGNAL. -/
def copyOk (ws : List Word) : Bool :=
  let c := copySrcCounts ws
  let e := copyDstCounts ws
  c.1 != 0 && c.2.1 != 0 && c.2.2 != 0 && e.1 != 0 && e.2.1 != 0 && e.2.2 != 0 &&
  decide (1 ≤ copyElem ws) && decide (copyElem ws ≤ 65536) && copyTotal c == copyTotal e && decide ((ws.getD 7 0).toNat < 2)

/-- The bytes of a range that an engine reads from poisoned words, by offset (13 R401). -/
def State.engineHurt (s : State) (a : Agent) (va n : Nat) : List Nat :=
  (pieces va n n).flatMap (fun x =>
    match s.engineReach a x.1 x.2 false true with
    | some pa => (s.hurtIn pa x.2).map (fun i => x.1 - va + i)
    | none => [])

/-- Where an engine has written bytes that came from poisoned words, by address (13 R401). -/
def State.engineTaint (s : State) (a : Agent) (va : Nat) (hurt : List Nat) : State :=
  s.poisonAt (hurt.filterMap (fun i => s.engineReach a (va + i) 1 true))

/-- Element n of a copy, one element: none where it cannot be read or written. Poison travels with its words (13 R401). -/
def State.copyElement (s : State) (a : Agent) (name : Nat) (ws : List Word) (n : Nat) : Option State :=
  let src := (streamAddr (copySrc ws) n).toNat
  let dst := (streamAddr (copyDst ws) n).toNat
  match s.engineRead a src (copyElem ws) true with
  | some bs => (s.engineWrite a name dst bs).map (fun t => t.engineTaint a dst (s.engineHurt a src (copyElem ws)))
  | none => none

/-- The elements of a copy from number n on, in order: the element at which it fails, if it does. -/
def State.copyFrom (s : State) (a : Agent) (name : Nat) (ws : List Word) : Nat → Nat → State × Option Nat
  | 0, _ => (s, none)
  | fuel + 1, n =>
    match s.copyElement a name ws n with
    | some t => t.copyFrom a name ws fuel (n + 1)
    | none => (s, some n)

/-- A byte that a broken transfer leaves: old or new, or, where `any`, unspecified (07 R211, 06 R162; log 7). -/
def brokenByte (f : Word) (any : Bool) (old new : Byte) : Byte :=
  if any && f.getLsbD 1 then f.extractLsb' 8 8 else if f.getLsbD 0 then new else old

/-- What a broken copy leaves of an element: a free mixture, byte by byte, of what stood there and what would have been written (log 7). -/
def State.brokenElement (s : State) (a : Agent) (name : Nat) (ws : List Word) (any : Bool) (n : Nat) : State :=
  let dst := (streamAddr (copyDst ws) n).toNat
  let new := (s.engineRead a (streamAddr (copySrc ws) n).toNat (copyElem ws) true).getD []
  (pieces dst (copyElem ws) (copyElem ws)).foldl (fun t x =>
    match t.engineReach a x.1 x.2 true with
    | some pa =>
      let bs := (leBytes x.2 (t.loadPhys pa x.2)).mapIdx (fun i old => brokenByte (Config.freeWord (t.free + i)) any old (new.getD (x.1 - dst + i) old))
      { t.storePhys a.core name pa x.2 (leNat bs) with free := t.free + bs.length }
    | none => t) s

/-- A copy is made (07 R210, R211): all of it; or, if it fails, the packets before the failure, and a free mixture from the packet in
progress on. The answer says whether it failed. -/
def State.runCopy (s : State) (a : Agent) (name : Nat) (ws : List Word) : State × Bool :=
  let total := copyTotal (copySrcCounts ws)
  match s.copyFrom a name ws total 0 with
  | (t, none) => (t, false)
  | (_, some n) =>
    let first := n * copyElem ws / 4096 * 4096 / copyElem ws
    let t := (s.copyFrom a name ws first 0).1
    ((List.range (total - first)).foldl (fun u i => u.brokenElement a name ws false (first + i)) t, true)

/-- A copy cancelled by a kill (06 R162): its destination bytes are unspecified within the pattern. -/
def State.cancelCopy (s : State) (a : Agent) (name : Nat) (ws : List Word) : State :=
  (List.range (copyTotal (copySrcCounts ws))).foldl (fun u i => u.brokenElement a name ws true i) s

/-- The time a copy takes (log 4): its fold's streamer reads and writes 128 bytes a cycle. -/
def State.copyTime (s : State) (core : Nat) (ws : List Word) (a : Agent) : Nat :=
  let bytes := copyTotal (copySrcCounts ws) * copyElem ws
  let far (w : Word) : Nat := ((s.translateNow a.core a.asid a.root a.level w.toNat false false).map (fun pa => s.accessTime core pa 8)).getD 4
  far (ws.getD 0 0) + far (ws.getD 1 0) + lenB bytes

/-- The slices of HBM that one side of a copy touches go to their drovers (08 R409), one a cycle from its first access on. -/
def State.bookStream (s : State) (core : Nat) (a : Agent) (st : Stream) (size : Nat) : State :=
  let at_ (n : Nat) : Option Nat := s.translateNow a.core a.asid a.root a.level (streamAddr st n).toNat false false
  match (at_ 0).map placeOf with
  | some (.hbm _ _) =>
    let sl := (List.range (streamTotal st)).foldl (fun (l : Tab Nat) n => match at_ n with
      | some pa => tput l (pa / 2048) (tgetD l (pa / 2048) 0 + size)
      | none => l) []
    (sl.mapIdx (fun i x => (i, x))).foldl (fun u x => u.bookAfter x.1 core (x.2.1 * 2048) (min 2048 x.2.2)) s
  | _ => s

/-- Both sides of a copy. -/
def State.bookCopy (s : State) (core : Nat) (ws : List Word) (a : Agent) : State :=
  (s.bookStream core a (copySrc ws) (copyElem ws)).bookStream core a (copyDst ws) (copyElem ws)

/-- The next transfer identifier of an end (07 R211). -/
def nextId (e : Ep) : Nat := (e.issued + 1) % 2 ^ 24

/-- A transfer of an end begins (07 R211): its identifier is issued, and its work is to complete later. -/
def State.beginTransfer (s : State) (p : Proc) (ke : Nat) (e : Ep) (job : Job) (n : Nat) : State :=
  (s.putEp ke { e with issued := nextId e, infl := e.infl + 1, ids := e.ids ++ [(nextId e, false)] }).after n
    (.transferComplete { owner := p.name, core := p.core, key := ke, tid := nextId e, job := job })

/-- The end whose handle an instruction of transfers names: any end held; an absent one waits (07 R181), a dispenser's is CHAN_TYPE
(08 R224). -/
def State.withHeld (s : State) (k : Nat) (p : Proc) (h : Word) (go : Nat → Ep → State) : State :=
  if 64 ≤ h.toNat then s.illegal k
  else
    match s.handle p.name h.toNat with
    | none => s.waitChan k (.chan h.toNat)
    | some (ke, e) => go ke e

/-- Whether an end is a dispenser end. -/
def isDispenser (e : Ep) : Bool :=
  match e.server with
  | some (.dispenser _) => true
  | _ => false

/-- COPY (07 R210, R211). -/
def execCopy (d : Reg) (a b : Src) (s : State) :=
  onCur s (fun k p => s.issue k p [srcField a 0, srcField b 1] [d] (fun vals c =>
    s.withHeld k p (vals.getD 0 0) (fun ke e =>
      let off := (vals.getD 1 0).toNat % 2 ^ 24
      if isDispenser e then s.raise k causeChanType (vals.getD 0 0)
      else if off % 8 ≠ 0 then s.raise k causeMisalign (vals.getD 1 0)
      else if scratchSize p.core < off + 64 then s.raise k causeLoadFault (vals.getD 1 0)
      else
        let t := s.releaseStores k
        let ws := leWords 8 (readBytes t.mem (windowBase p.core + off) 64)
        if !copyOk ws || (copySignal ws && (e.recv || typKind e.typ ≠ 3)) then s.illegal k
        else if 65535 ≤ e.infl then s.waitChan k (.chan e.handle)
        else
          let g := s.agentOf p
          let u := t.endReserve ke e
          let e1 := (u.ep ke).getD e
          ((u.bookCopy p.core ws g).beginTransfer p ke e1 (.copy ws g.asid g.root g.level g.gid) (t.copyTime p.core ws g)).retire k c
            [(d, BitVec.ofNat 64 (nextId e1))])))

/-- The package, if there is one, that an address an engine may not reach lies in because no route leads there (12 R364). -/
def State.lostAt (s : State) (a : Agent) (va : Nat) : Option Nat :=
  match s.translateNow a.core a.asid a.root a.level va false false with
  | some pa => if s.packages.contains (pkgOfAddr pa) && !s.reachable (pkgOf a.core) (pkgOfAddr pa) then some (pkgOfAddr pa) else none
  | none => none

/-- A copy that failed for a link that is lost sets the peer bit (12 Table 12.3). -/
def State.copyLost (s : State) (a : Agent) (name : Nat) (ws : List Word) : State :=
  match (s.copyFrom a name ws (copyTotal (copySrcCounts ws)) 0).2 with
  | some n =>
    (match s.lostAt a (streamAddr (copySrc ws) n).toNat, s.lostAt a (streamAddr (copyDst ws) n).toNat with
     | some q, _ => s.peerFail a.gid q
     | none, some q => s.peerFail a.gid q
     | none, none => s)
  | none => s

/-- A copy completes (07 R211, R212): the end's DONE advances where the end is now, and a SIGNAL wakes the peer. -/
def State.completeCopy (s : State) (x : Transfer) (ws : List Word) (asid root level gid : Nat) : State :=
  let (t, failed) := (s.copyLost ⟨x.core, gid, level, asid, root⟩ x.owner ws).runCopy ⟨x.core, gid, level, asid, root⟩ x.owner ws
  match t.endAt ⟨x.key / 512, x.key % 512, 0⟩ with
  | some (ke, e) =>
    let u := t.transferDone ke x.tid failed
    if copySignal ws then u.after (u.oneway (ke / 512) e.peer.core) (.wakeup e.peer) else u
  | none => t

/-- CWAIT (07 R212). -/
def execCwait (d : Reg) (a b : Src) (s : State) :=
  onCur s (fun k p => s.issueFill k p [srcField a 0, srcField b 1] d (fun vals c =>
    let id := (vals.getD 1 0).toNat
    if 2 ^ 24 ≤ id then s.illegal k
    else
      s.withHeld k p (vals.getD 0 0) (fun ke e =>
        let t := s.endReserve ke e
        let status (bit : Nat) : Word := BitVec.ofNat 64 (bitOf e.fail * 2 ^ 63 + bit * 2 ^ 62 + e.done)
        if !idAtOrBelow id e.issued then t.retire k c [(d, status 1)]
        else if idAtOrBelow id e.done then (t.modEp ke (fun x => { x with fail := false })).retire k c [(d, status 0)]
        else t.holdFill k p ke e c d id 2)))

/-- GEXP (06 R169): the endpoint is that of a[5:0], b = 0 has no effect, and a seventeenth expectation waits for the phase to complete. -/
def execGexp (a b : Src) (s : State) :=
  onCur s (fun k p => s.issue k p [srcField a 0, srcField b 1] [] (fun vals c =>
    let h := (vals.getD 0 0).toNat % 64
    if vals.getD 1 0 = 0 then s.retire k c []
    else
      match s.handle p.name h, s.group? p.gid with
      | none, _ => s.raise k causeChanRights (BitVec.ofNat 64 h)
      | some _, none => s.retire k c []
      | some (ke, _), some g =>
        if 16 ≤ g.expects.length then s.block k (.barrier g.phase)
        else (s.putGroup p.gid { g with expects := g.expects ++ [(p.name, ke, (vals.getD 1 0).toNat)] }).retire k c []))

/-! ### Ports (05 R109) and streams (07 R214, R215) -/

/-- Instructions that bind or unbind a port: its register is one of g8 to g11, and a push that failed is reported first (05 R109,
R110). -/
def State.withPort (s : State) (k : Nat) (p : Proc) (d : Reg) (go : Nat → State) : State :=
  if d.toNat < 8 || 11 < d.toNat then s.illegal k
  else
    let x := p.ports.toList.getD (d.toNat - 8) {}
    if x.failed then s.raise k causeChanDead (BitVec.ofNat 64 (x.ends.headD x.num)) else go (d.toNat - 8)

/-- A port bound anew: its register's value is lost, and a producer of it is no longer awaited (05 R109). -/
def Proc.bindPort (p : Proc) (q : Nat) (x : Port) : Proc := (p.unbind q).putPort q x

/-- BINDQ (05 R109, 07 R196). -/
def execBindq (d : Reg) (b : Src) (s : State) :=
  onCur s (fun k p => s.issue k p [srcField b 1] [] (fun vals c =>
    s.withPort k p d (fun q =>
      let w := vals.getD 0 0
      let kind := w.toNat / 2 ^ 62
      let num := w.toNat % 64
      if 2 ≤ kind || decide (w.toNat / 64 % 2 ^ 56 ≠ 0) then s.raise k causeChanType w
      else
        let x : Port := { bound := true, kind := kind, num := num, ends := if kind = 0 then [] else s.queueEnds p num }
        let go : State := (s.modProc k (fun r => r.bindPort q x)).retire k c []
        if kind = 0 then
          match s.handle p.name num with
          | some (_, e) => if typKind e.typ = 0 && !isDispenser e then go else s.raise k causeChanType w
          | none => s.raise k causeChanType w
        else if x.ends.isEmpty then s.raise k causeChanRights w
        else go)))

/-- UNBQ (05 R109). -/
def execUnbq (d : Reg) (s : State) :=
  onCur s (fun k p => s.withPort k p d (fun q =>
    if (p.ports.toList.getD q {}).bound then (s.modProc k (fun r => r.unbind q)).retire k 0 [] else s.retire k 0 []))

/-- The pattern of a stream (07 Table 7.10); none where it does not keep R214. -/
def streamOf (ws : List Word) : Option Stream :=
  let w := (ws.getD 1 0).toNat
  let c0 := w / 2 ^ 48
  let c1 := w / 2 ^ 32 % 2 ^ 16
  let c2 := w / 2 ^ 16 % 2 ^ 16
  if c0 = 0 || c1 = 0 || c2 = 0 || 4 ≤ w % 8 || decide (w / 16 % 4096 ≠ 0) || decide ((ws.getD 3 0).toNat % 2 ^ 32 ≠ 0) then none
  else some
    { base := ws.getD 0 0, size := 2 ^ (w % 8), write := (ws.getD 1 0).getLsbD 3, c0 := c0, c1 := c1, c2 := c2,
      s0 := stride32 ((ws.getD 2 0).toNat / 2 ^ 32), s1 := stride32 ((ws.getD 2 0).toNat % 2 ^ 32),
      s2 := stride32 ((ws.getD 3 0).toNat / 2 ^ 32) }

/-- STRM (07 R214). -/
def execStrm (d : Reg) (b : Src) (s : State) :=
  onCur s (fun k p => s.issue k p [srcField b 1] [] (fun vals c =>
    s.withPort k p d (fun q =>
      let off := (vals.getD 0 0).toNat % 2 ^ 24
      if off % 8 ≠ 0 then s.raise k causeMisalign (vals.getD 0 0)
      else if scratchSize p.core < off + 32 then s.raise k causeLoadFault (vals.getD 0 0)
      else
        let t := s.releaseStores k
        match streamOf (leWords 4 (readBytes t.mem (windowBase p.core + off) 32)) with
        | none => s.illegal k
        | some x =>
          let u := { t with agenda := t.agenda.filter (fun e => match e.2 with | .streamElement n m => !(n == p.name && m == q) | _ => true) }
          ((u.modProc k (fun r => r.bindPort q { bound := true, stream := some x })).readAhead k q 8).retire k c [])))

/-- STREAM_ELEMENT (07 R215): the next element read ahead stands at the port: its value, or the fault it met. -/
def streamElement (name port : Nat) (s : State) : State :=
  s.modNamed name (fun k p t =>
    let x := p.ports.toList.getD port {}
    match x.stream with
    | some st =>
      let va := streamAddr st (st.taken + st.buffer.length)
      let el : StreamEl :=
        if va.toNat % st.size ≠ 0 then .bad causeMisalign va
        else
          match t.engineRead (t.agentOf p) va.toNat st.size with
          | some bs => .val (BitVec.ofNat 64 (leNat bs))
          | none => .bad causeLoadFault va
      let u := t.putProc k (p.putPort port { x with stream := some { st with buffer := st.buffer ++ [el] } })
      match p.wait with
      | .reg n => if n = 8 + port then u.ready k else u
      | _ => u
    | none => t)

/-- The streams of a process that has moved are read again from their positions by the new fold's streamer (07 R215). -/
def State.restartStreams (s : State) (k : Nat) : State :=
  match s.proc k with
  | none => s
  | some p =>
    let t := { s with agenda := s.agenda.filter (fun e => match e.2 with | .streamElement n _ => n != p.name | _ => true) }
    (List.range 4).foldl (fun u q =>
      match u.proc k with
      | some r =>
        let x := r.ports.toList.getD q {}
        match x.stream with
        | some st => if st.write then u
            else (u.putProc k (r.putPort q { x with stream := some { st with issued := st.taken, buffer := [] } })).readAhead k q 8
        | none => u
      | none => u) t

/-! ### Multicast (07 R216, R217) -/

/-- The time in which every router of a die has recorded a join or leave of a fold: that to the farthest fold (07 R216, log 4). -/
def State.joinTime (s : State) (core : Nat) : Nat :=
  ((List.range 192).map (fun i => let f := foldOf core / 256 * 256 + i; if f = foldOf core then 3 else s.foldWay (foldOf core) f)).foldl max 1

/-- SUBS (07 R216). -/
def execSubs (d : Reg) (a b : Src) (s : State) :=
  onCur s (fun k p => s.issueFill k p [srcField a 0, srcField b 1] d (fun vals c =>
    let tag := (vals.getD 0 0).toNat
    let h := vals.getD 1 0
    if 4096 ≤ tag || 64 ≤ h.toNat then s.illegal k
    else
      match s.handle p.name h.toNat with
      | none => s.raise k causeChanRights h
      | some (ke, e) =>
        if !e.recv then s.raise k causeChanRights h
        else if typKind e.typ ≠ 1 || !typQueued e.typ then s.raise k causeChanType h
        else
          let tab := (s.core p.core).matchTab
          let t := (s.endReserve ke e).produce k d
          if 16 ≤ tab.length || tab.contains (tag, ke % 512) then (t.after 1 (.fill (p.dest d) (chanFail 0x27))).retire k c []
          else
            ((t.modCore p.core (fun x => { x with matchTab := x.matchTab ++ [(tag, ke % 512)] })).after (s.joinTime p.core)
              (.joinRecorded (p.dest d) p.core tag ke true)).retire k c []))

/-- UNSUB (07 R216). -/
def execUnsub (d : Reg) (a : Src) (s : State) :=
  onCur s (fun k p => s.issueFill k p [srcField a 0] d (fun vals c =>
    let tag := (vals.getD 0 0).toNat
    if 4096 ≤ tag then s.illegal k
    else
      let t := s.produce k d
      match (s.core p.core).matchTab.find? (fun x => x.1 == tag && (s.endsOf p.name).any (fun e => e.1 == epKey p.core x.2)) with
      | none => (t.after 1 (.fill (p.dest d) (chanFail 0x27))).retire k c []
      | some x => (t.after (s.joinTime p.core) (.joinRecorded (p.dest d) p.core tag (epKey p.core x.2) false)).retire k c []))

/-- JOIN_RECORDED (07 R216): every router has recorded the join or leave. After a leave no message for the tag arrives any more. -/
def joinRecorded (dest : FillTo) (core tag key : Nat) (join : Bool) (s : State) : State :=
  fill dest 0 (if join then s else s.modCore core (fun x => { x with matchTab := x.matchTab.filter (fun y => !(y == (tag, key % 512))) }))

/-- The entries of a die that subscribe to a tag. -/
def State.subscribers (s : State) (die tag : Nat) : List Nat :=
  s.cores.flatMap (fun c => if dieOf c.1 = die then (c.2.matchTab.filter (fun x => x.1 == tag)).map (fun x => epKey c.1 x.2) else [])

/-- MCAST (07 R217): it retires once its packet is staged; the message reaches each subscriber by the way between their cores. -/
def execMcast (a b : Src) (s : State) :=
  onCur s (fun k p => s.issue k p [srcField a 0, srcField b 1] [] (fun vals c =>
    let tag := (vals.getD 0 0).toNat
    let w := vals.getD 1 0
    if 4096 ≤ tag || 4096 < blockLen w then s.illegal k
    else
      s.withBlock k p w (
        let t := s.releaseStores k
        let bs := readBytes t.mem (windowBase p.core + blockOff w) (blockLen w)
        let m : Msg := { src := ⟨p.core, 512 + tag, 0⟩, sender := p.name, tid := none, tile := none, body := .bytes bs, at0 := s.cycle,
                         hurt := t.hurtIn (windowBase p.core + blockOff w) (blockLen w) }
        ((t.subscribers (dieOf p.core) tag).foldl (fun u key =>
          u.after (t.oneway p.core (key / 512) + lenP bs.length + lenB bs.length) (.mcastDelivery key m)) t).retire k c [])))

/-- The cycle in which an older multicast of the same issuer on the same tag reaches a subscriber, if one is still under way (07 R217). -/
def State.olderMcast (s : State) (key : Nat) (m : Msg) : Option Nat :=
  (s.agenda.find? (fun e =>
    match e.2 with
    | .mcastDelivery q x => q == key && x.src == m.src && x.sender == m.sender && decide (x.at0 < m.at0)
    | _ => false)).map Prod.fst

/-- MCAST_DELIVERY (07 R217): into the subscriber's ring queue, or held back while that is full; one that is too long is dropped there and
sets FAIL. -/
def mcastDelivery (key : Nat) (m : Msg) (s : State) : State :=
  match s.endAt ⟨key / 512, key % 512, 0⟩, s.olderMcast key m with
  | none, _ => s
  | some _, some due => s.atCycle due (.mcastDelivery key m)
  | some (ke, e), none =>
    if !e.recv || typKind e.typ ≠ 1 || e.st = .dead then s
    else if typMaxLen e.typ < bodyLen m.body then s.putEp ke { e with fail := true }
    else if typCap e.typ ≤ e.queue.length then s.putEp ke { e with offers := e.offers ++ [m] }
    else
      let t := match e.rq with
        | some q => s.writeRing (foldOf (ke / 512)) q m
        | none => s
      ((t.putEp ke { e with queue := e.queue ++ [m], pend := min 255 (e.pend + 1) }).countExpect ke).deliver ke

end Sys2Proof.Machine
end

