-- ==== Sys2Proof/Machine/Bundles.lean ====
section
/-! DEFINITION. Bundles (12 R384 to R390): BOPEN, BCLOSE and its two phases, BVIEW, BLD, BSTAT. -/

namespace Sys2Proof.Machine

/-! ### Descriptors, lines and shadow entries (12 R384, R385) -/

/-- The lines that a descriptor lists: slot and virtual address. -/
def bdLines (ws : List Word) : List (Nat × Nat) :=
  ((List.range 32).filter (fun k => (ws.getD 1 0).getLsbD k)).map (fun k => (k, (ws.getD (8 + k) 0).toNat))

/-- ID, VERSION and LOCK of word 0. -/
def bdId (w : Word) : Nat := w.toNat / 2 ^ 24 % 2 ^ 24
def bdVersion (w : Word) : Nat := w.toNat % 2 ^ 16
def bdLock (w : Word) : Bool := w.getLsbD 63

/-- The bits of a descriptor's word 0, and of a view word, that are reserved. -/
def bdReserved : Word := 0x7FFF000000FF0000

/-- The view word of a bundle and version (12 R386, R388). -/
def bundleView (id v : Nat) : Word := BitVec.ofNat 64 (id * 2 ^ 24 + v % 2 ^ 16)

/-- Whether a descriptor is well formed and of the bundle named (12 R384, R386). -/
def bdOk (ws : List Word) (id : Nat) : Bool :=
  ws.getD 0 0 &&& bdReserved == 0 && bdId (ws.getD 0 0) == id && decide ((ws.getD 1 0).toNat < 2 ^ 32) &&
  ((List.range 6).all (fun i => ws.getD (2 + i) 0 == 0)) &&
  ((List.range 32).all (fun k =>
    if (ws.getD 1 0).getLsbD k then decide ((ws.getD (8 + k) 0).toNat % 64 = 0) else ws.getD (8 + k) 0 == 0))

/-- The line of a virtual address and its shadow entry, where R385 lets it be a bundle line for a process: its page must be writable
to a writer; a reader's own mapping need not be. -/
def State.bundleLine (s : State) (p : Proc) (va : Nat) (wr : Bool) : Option (Nat × Nat) :=
  if isPaged va then
    match s.walk (s.asidOf p) (s.rootOf p) va with
    | some t =>
      let o := (va - t.va) / 64 * 64
      let pa := t.pa + o
      let hbm := match placeOf pa with
        | .hbm _ _ => true
        | _ => false
      if hbm && decide (4 * o < 3 * t.size) && tlbGrants t p.level (!wr) wr && s.backed pa 64 && s.hasFeature (pkgOfAddr pa) featBnd
      then some (pa, t.pa + 3 * t.size / 4 + o / 4) else none
    | none => none
  else none

/-- Fields of a shadow entry's two words (12 Table 12.13). -/
def shId (w : Word) : Nat := w.toNat / 2 ^ 40
def shCur (w : Word) : Nat := w.toNat / 2 ^ 24 % 2 ^ 16
def shPrev (w : Word) : Bool := w.getLsbD 7
def shPend (w : Word) : Bool := w.getLsbD 6
def shWord (id cur : Nat) (prev pend : Bool) (index : Nat) : Word :=
  BitVec.ofNat 64 (id * 2 ^ 40 + cur % 2 ^ 16 * 2 ^ 24 + bitOf prev * 2 ^ 7 + bitOf pend * 2 ^ 6 + index)

/-- A 64-bit word of physical memory. -/
def State.memWord (s : State) (pa : Nat) : Word := BitVec.ofNat 64 (readLe s.mem pa 8)
def State.putWord (s : State) (pa : Nat) (w : Word) : State := s.writeMem pa (leBytes 8 w.toNat)

/-- Word 0 of a descriptor, wherever it lies. -/
def State.descWord (s : State) (pa : Nat) : Word := BitVec.ofNat 64 (s.loadPhys pa 8)

/-- The drover of a line, whose retention buffer holds its versions (12 R385). -/
def lineDrover (pa : Nat) : Nat := landingDrover (placeOf pa)
where
  landingDrover : Place → Nat
    | .hbm die d => die * 64 + d
    | _ => 0

/-- The lines that a drover's retention buffer holds. -/
def State.retained (s : State) (d : Nat) : Nat :=
  (s.pendLines.filter (fun l => lineDrover l.1 == d)).length + (s.prevLines.filter (fun l => lineDrover l.1 == d)).length

/-- The bundle of a writer. -/
def State.bundle (s : State) (name : Nat) : Option Bundle := tget s.bundles name
def State.putBundle (s : State) (name : Nat) (b : Bundle) : State := { s with bundles := tput s.bundles name b }
def State.dropBundle (s : State) (name : Nat) : State := { s with bundles := tdel s.bundles name }

/-! ### BOPEN, BSTAT, BVIEW -/

/-- An access of a process to a descriptor: the fault it meets, with a window's refusal among them (04 R77, 12 R371). -/
def State.descFault (s : State) (p : Proc) (pa va : Nat) (wr : Bool) : Option (Nat × Word) :=
  if pkgOf p.core = pkgOfAddr pa && !s.passes p.core p.gid p.level pa 8 true wr then some (causeWindowNak, BitVec.ofNat 64 pa)
  else
    match s.accessFault p pa va 8 true with
    | some f => some f
    | none => if !s.passes p.core p.gid p.level pa 8 true wr then some (causeWindowNak, BitVec.ofNat 64 pa) else none

/-- BOPEN once its descriptor has been read: a failure code, or the bundle (12 R386, Table 12.7). -/
def State.openBundle (s : State) (p : Proc) (id pa : Nat) (ws : List Word) : Nat ⊕ Bundle :=
  if !bdOk ws id then .inl 0x51
  else
    let ls := (bdLines ws).map (fun l => (l.1, s.bundleLine p l.2 true))
    if ls.any (fun l => l.2.isNone) then .inl 0x52
    else if bdLock (ws.getD 0 0) then .inl 0x50
    else if 64 ≤ (s.bundles.filter (fun b => dieOf b.2.core == dieOf p.core)).length then .inl 0x53
    else .inr
      { id := id, version := bdVersion (ws.getD 0 0), desc := pa, mask := (ws.getD 1 0).toNat,
        lines := ls.filterMap (fun l => l.2.map (fun x => (l.1, x.1, x.2))), core := p.core, gid := p.gid }

/-- BOPEN (12 R386). One that meets a commit of its process under way waits for it. -/
def execBopen (d : Reg) (a b : Src) (s : State) :=
  onCur s (fun k p => s.issueFill k p [srcField a 0, srcField b 1] d (fun vals c =>
    let id := (vals.getD 0 0).toNat
    let va := (vals.getD 1 0).toNat
    if 2 ^ 24 ≤ id || id = 0 then s.illegal k
    else if va % 64 ≠ 0 then s.raise k causeMisalign (vals.getD 1 0)
    else
      match s.bundle p.name with
      | some x => if x.phase = 0 then s.illegal k else s
      | none =>
        s.withPage k p va true true (fun t pa =>
          match t.descFault p pa va true with
          | some f => t.raiseAccess k p pa f
          | none =>
            let u := t.releaseStores k
            match u.engineRead (u.agentOf p) va 320 with
            | none => u.raise k causeLoadFault (vals.getD 1 0)
            | some bs =>
              let way := u.accessTime p.core pa 8
              let fills (v : State) (w : Word) : State := ((v.produce k d).after way (.fill (p.dest d) w)).retire k c []
              let u := u.book p.core pa 8
              match u.openBundle p id pa (leWords 40 bs) with
              | .inl code => fills u (failWord code)
              | .inr x =>
                fills ((u.storePhys p.core p.name pa 8 ((bundleView id x.version).toNat + 2 ^ 63)).putBundle p.name x)
                  (bundleView id x.version))))

/-- Lines of a bundle with staged bytes. -/
def stagedLines (b : Bundle) : List Nat := (b.staged.map (fun x => x.1 / 64)).dedup

/-- BSTAT (12 R390). -/
def execBstat (d : Reg) (s : State) :=
  onCur s (fun k p => s.issue k p [] [d] (fun _ c =>
    s.retire k c [(d,
      match s.bundle p.name with
      | some b => BitVec.ofNat 64
          ((if b.phase = 0 then 1 else 2) * 2 ^ 62 + (stagedLines b).length * 2 ^ 48 + b.id * 2 ^ 24 + b.version)
      | none => 0)]))

/-- BVIEW (12 R388). -/
def execBview (d : Reg) (a : Src) (s : State) :=
  onCur s (fun k p => s.issueFill k p [srcField a 0] d (fun vals c =>
    let va := (vals.getD 0 0).toNat
    if va % 64 ≠ 0 then s.raise k causeMisalign (vals.getD 0 0)
    else s.withPage k p va true false (fun t pa =>
      match t.descFault p pa va false with
      | some f => t.raiseAccess k p pa f
      | none =>
        let w := BitVec.ofNat 64 (t.readThrough p va pa 8) &&& ~~~(BitVec.ofNat 64 (2 ^ 63))
        ((t.book p.core pa 8).sendLoad k p d w (t.accessTime p.core pa 8)).retire k c [])))

/-! ### BCLOSE (12 R387) -/

/-- The time from a bundle's stager to a line's home. -/
def State.homeTime (s : State) (b : Bundle) (pa : Nat) : Nat := s.wayTo b.core pa + 1

/-- A line of a bundle by its slot: address and shadow entry. -/
def Bundle.line (b : Bundle) (slot : Nat) : Option (Nat × Nat) := (b.lines.find? (fun l => l.1 == slot)).map Prod.snd

/-- BCLOSE (12 R387): it waits until the process's stores are staged or performed; a store that wrote a record stops the process here (04 R85). -/
def execBclose (d : Reg) (s : State) :=
  onCur s (fun k p => s.issueFill k p [] d (fun _ c =>
    match s.bundle p.name with
    | none => s.illegal k
    | some b =>
      if b.phase ≠ 0 then s.illegal k
      else if s.hasStores p then s.park k .stores
      else
        let t := s.produce k d
        let v := bundleView b.id b.version
        if b.staged.isEmpty then
          ((((t.storePhys p.core p.name b.desc 8 v.toNat).dropBundle p.name).book p.core b.desc 8 |>.after (s.accessTime p.core b.desc 8) (.fill (p.dest d) v))).retire k c []
        else
          let u := t.putBundle p.name { b with phase := 1, left := b.lines.length, dest := some (p.dest d) }
          (b.lines.foldl (fun w l => w.after (s.homeTime b l.2.1) (.bundlePrepare p.name l.1)) u).retire k c []))

/-- The answer of a line's home sets out; one from a package that cannot be reached is a failure, and the peer bit is set (12 Table 12.3). -/
def State.answerHome (s : State) (writer slot phase : Nat) (b : Bundle) (pa : Nat) (ok : Bool) : State :=
  s.after (s.homeTime b pa) (.bundleAck writer slot phase ok)

/-- Whether a line's home can be reached from a bundle's stager. -/
def State.homeReached (s : State) (b : Bundle) (pa : Nat) : Bool := s.reachable (pkgOf b.core) (pkgOfAddr pa)

/-- A line as a commit leaves it: the staged bytes over its current data (12 R387). -/
def State.mergedLine (s : State) (b : Bundle) (pa : Nat) : List Byte :=
  (readBytes s.mem pa 64).mapIdx (fun i x => ((b.staged.find? (fun e => e.1 == pa + i)).map Prod.snd).getD x)

/-- A drover's retention buffer of 4,096 lines makes room: its oldest previous line is evicted, and that line's PREVV cleared; none where every
entry is pending (12 R387). -/
def State.evictLine (s : State) (d : Nat) (shadowOf : Nat → Option Nat) : Option State :=
  if s.retained d < 4096 then some s
  else
    match s.prevLines.find? (fun l => lineDrover l.1 == d) with
    | some l =>
      let t := { s with prevLines := s.prevLines.erase l }
      some (match shadowOf l.1 with
        | some sh => t.putWord sh (t.memWord sh &&& ~~~(0x80 : Word))
        | none => t)
    | none => none

/-- BUNDLE_PREPARE (12 R387, phase 1). A line with a pending version of another commit refuses. -/
def bundlePrepare (writer slot : Nat) (s : State) : State :=
  match s.bundle writer with
  | none => s
  | some b =>
    match b.line slot with
    | none => s
    | some (pa, sh) =>
      if !s.homeReached b pa then (s.peerFail b.gid (pkgOfAddr pa)).answerHome writer slot 1 b pa false
      else if shPend (s.memWord sh) then s.answerHome writer slot 1 b pa false
      else
        match s.evictLine (lineDrover pa) (fun l => (s.shadows.find? (fun e => e.1 == l)).map Prod.snd) with
        | none => s.answerHome writer slot 1 b pa false
        | some t =>
          let w := t.memWord sh
          let u := (t.putWord sh (w ||| 0x40)).putWord (sh + 8)
            ((t.memWord (sh + 8) &&& 0xFFFFFFFF0000FFFF) ||| BitVec.ofNat 64 ((b.version + 1) % 2 ^ 16 * 2 ^ 16))
          let v := { u with
            pendLines := u.pendLines ++ [(pa, t.mergedLine b pa)], shadows := (pa, sh) :: u.shadows.filter (fun e => e.1 != pa) }
          (v.putBundle writer { b with prepared := b.prepared ++ [slot] }).answerHome writer slot 1 b pa true

/-- The pending version of a line is dropped (12 R387: abort). -/
def State.abortLine (s : State) (l : Nat × Nat) : State :=
  let t := s.putWord l.2 (s.memWord l.2 &&& ~~~(0x40 : Word))
  { t.putWord (l.2 + 8) (t.memWord (l.2 + 8) &&& 0xFFFFFFFF0000FFFF) with pendLines := t.pendLines.filter (fun x => x.1 != l.1) }

/-- BUNDLE_PHASE2 (12 R387): previous becomes what was current, current what was pending. -/
def bundlePhase2 (writer slot : Nat) (s : State) : State :=
  match s.bundle writer with
  | none => s
  | some b =>
    match b.line slot with
    | none => s
    | some (pa, sh) =>
      if !s.homeReached b pa then (s.peerFail b.gid (pkgOfAddr pa)).answerHome writer slot 2 b pa false
      else
        match s.pendLines.find? (fun l => l.1 == pa) with
        | none => s.answerHome writer slot 2 b pa false
        | some (_, new) =>
          let old := readBytes s.mem pa 64
          let t := (s.writeMem pa new).putWord sh (shWord b.id (b.version + 1) true false slot)
          let u := t.putWord (sh + 8) (BitVec.ofNat 64 (b.mask * 2 ^ 32))
          let v : State := { u with pendLines := u.pendLines.filter (fun l => l.1 != pa),
                                    prevLines := u.prevLines.filter (fun l => l.1 != pa) ++ [(pa, old)] }
          v.answerHome writer slot 2 b pa true

/-- The bundle of a writer is over, and BCLOSE's d is filled. -/
def State.endBundle (s : State) (writer : Nat) (b : Bundle) (w : Word) : State :=
  match b.dest with
  | some f => (s.dropBundle writer).after (s.wayTo b.core b.desc + 1) (.fill f w)
  | none => s.dropBundle writer

/-- Every home has answered a phase (12 R387). -/
def State.phaseOver (s : State) (writer : Nat) (b : Bundle) : State :=
  let free (v : Nat) (t : State) : State := t.storePhys b.core writer b.desc 8 (bundleView b.id v).toNat
  if b.phase = 1 then
    if b.failed then
      let t := b.prepared.foldl (fun u k => match b.line k with | some l => u.abortLine l | none => u) s
      (free b.version t).endBundle writer b (failWord 0x54)
    else
      b.lines.foldl (fun u l => u.after (s.homeTime b l.2.1) (.bundlePhase2 writer l.1))
        (s.putBundle writer { b with phase := 2, left := b.lines.length })
  else if b.failed then s.endBundle writer b (failWord 0x55)
  else (free (b.version + 1) s).endBundle writer b (bundleView b.id (b.version + 1))

/-- BUNDLE_ACK (12 R387). -/
def bundleAck (writer slot phase : Nat) (ok : Bool) (s : State) : State :=
  match s.bundle writer with
  | none => s
  | some b =>
    if b.phase ≠ phase || (b.line slot).isNone then s
    else
      let b1 := { b with left := b.left - 1, failed := b.failed || !ok }
      let t := s.putBundle writer b1
      if b1.left = 0 then t.phaseOver writer b1 else t

/-- A writer is gone (12 R387, 06 R162): a bundle whose BCLOSE has not issued is discarded and its LOCK released. -/
def State.discardBundle (s : State) (name : Nat) : State :=
  match s.bundle name with
  | some b => if b.phase = 0 then (s.storePhys b.core name b.desc 8 (bundleView b.id b.version).toNat).dropBundle name else s
  | none => s

/-! ### BLD (12 R389) -/

/-- Where a BLD's answers go, and whether its process stays at the instruction for the answer (log 9). -/
def State.bld (s : State) (k : Nat) (p : Proc) (d : Reg) (a b : Src) (r : Bool) : State :=
  s.issue k p [srcField a 0, srcField b 1] (if r then [d, b.reg] else [d]) (fun vals c =>
    let va := (vals.getD 0 0).toNat
    let view := vals.getD 1 0
    let busy (x : Reg) : Bool := x != 0 && decide (3 ≤ (p.cell x).out)
    if busy d then s.park k (.reg d.toNat)
    else if r && busy b.reg then s.park k (.reg b.reg.toNat)
    else if view.getLsbD 63 || bdId view = 0 || view &&& bdReserved ≠ 0 then s.illegal k
    else if va % 8 ≠ 0 then s.raise k causeMisalign (vals.getD 0 0)
    else s.withPage k p va true false (fun t pa =>
      let t := t.releaseStores k
      match t.bundleLine p va false, t.accessFault p pa va 8 true with
      | none, _ => t.raise k causeLoadFault (vals.getD 0 0)
      | _, some f => t.raiseAccess k p pa f
      | some (line, sh), none =>
        let way := t.accessTime p.core pa 8
        let t := t.book p.core pa 8
        let q (f : FillTo) (v : Option FillTo) : BldReq :=
          { dest := f, core := p.core, view := view, viewDest := v, pa := pa, line := line, shadow := sh }
        if r then
          let u := (t.produce k d).modProc k (fun y => { y with loads := y.loads ++ [(d, p.nextTag d)] })
          let f := p.dest d
          match u.proc k with
          | some p1 =>
            let x := u.produce k b.reg
            (x.after way (.bldAtHome (q f (some (p1.dest b.reg))))).retire k c []
          | none => u
        else
          (t.awaitAnswer k p d c).after way (.bldAtHome (q (p.dest d) none))))

def execBld (d : Reg) (a b : Src) (s : State) := onCur s (fun k p => s.bld k p d a b false)
def execBldR (d : Reg) (a b : Src) (s : State) := onCur s (fun k p => s.bld k p d a b true)

/-- What a line's home finds for a view: the 64 bytes to answer from, or nothing where the view is stale (12 R389). -/
def State.viewLine (s : State) (r : BldReq) : Option (List Byte) :=
  let sh := s.memWord r.shadow
  let v := bdVersion r.view
  if shId sh ≠ 0 && shId sh ≠ bdId r.view then none
  else
    let cur := if shId sh = 0 then 0 else shCur sh
    if cur = v then some (readBytes s.mem r.line 64)
    else if cur = (v + 1) % 2 ^ 16 && shPrev sh then (s.prevLines.find? (fun l => l.1 == r.line)).map Prod.snd
    else none

/-- The word that a BLD takes from a line: its writer's staged bytes stand over it (12 R386). -/
def State.viewedWord (s : State) (r : BldReq) (line : List Byte) : Word :=
  BitVec.ofNat 64 (leNat (((line.drop (r.pa - r.line)).take 8).mapIdx (fun i x => s.stagedByte r.dest.name (r.pa + i) x)))

/-- BLD_AT_HOME (12 R389): the answers fill the registers, or a plain BLD of a stale view traps. -/
def bldAtHome (r : BldReq) (s : State) : State :=
  match r.viewDest, s.viewLine r with
  | some f, some l => fill f r.view (fill r.dest (s.viewedWord r l) s)
  | some f, none => fill f (r.view ||| BitVec.ofNat 64 (2 ^ 63)) (fill r.dest 0 s)
  | none, x =>
    s.modNamed r.dest.name (fun k p t =>
      if p.wait = .access then
        (match x with
         | some l => fill r.dest (t.viewedWord r l) t
         | none => (t.putProc k { p.dropHold with st := .resident, wait := .none }).raise k causeBundleStale (BitVec.ofNat 64 (bdId r.view)))
      else t)

end Sys2Proof.Machine
end

