-- ==== Sys2Proof/Machine/Mailbox.lean ====
section
/-! DEFINITION. Mailboxes and borrowed slots of major 0x16 (05 R107, R108, R111). -/

namespace Sys2Proof.Machine

/-- The physical address of a slot register (04 Table 4.2). -/
def slotRegAddr (core slot : Nat) (r : Reg) : Nat := windowBase core + 0x170000 + slot * 128 + r.toNat * 8

/-- The process resident in a slot of a core, with its key. -/
def State.resident (s : State) (core slot : Nat) : Option (Nat × Proc) :=
  match (s.slot (core * 8 + slot)).occ with
  | some i => (s.proc (core * 256 + i)).map (fun p => (core * 256 + i, p))
  | none => none

/-- XWR (05 R107): the delivery reaches the target 3 cycles after issue, and the sender waits at the XWR. -/
def execXwr (d : Reg) (a b : Src) (s : State) :=
  onCur s (fun k p => s.issue k p [srcField a 0, srcField b 1] [] (fun vals c =>
    let t := (vals.getD 0 0).toNat
    if 64 ≤ t ∨ t % 8 = 7 then s.raise k causeLoadFault (vals.getD 0 0)
    else
      (s.modProc k (fun q => { q with
        st := .parked, wait := .xwr, blockedAt := s.cycle, hold := some { consume := c, issuedAt := s.cycle } })).after 3
        (.xwrDelivery { sender := p.name, core := foldOf p.core * 8 + t % 8, slot := t / 8, reg := d,
                        val := vals.getD 1 0, target := 0 })))

/-- A refused XWR raises WINDOW_NAK at its sender with the register's physical address (05 R107). -/
def State.refuseXwr (s : State) (x : Xwr) : State :=
  s.modNamed x.sender (fun k p t =>
    if p.wait = .xwr then
      (t.putProc k { p with st := .resident, wait := .none, hold := none }).raise k causeWindowNak
        (BitVec.ofNat 64 (slotRegAddr x.core x.slot x.reg))
    else t)

/-- The register is written, the sender's XWR retires in this cycle, and a process that waited for the register goes on. -/
def State.landXwr (s : State) (x : Xwr) (k : Nat) (p : Proc) : State :=
  let t := s.putProc k (p.setReg x.reg x.val)
  let u := if p.wait = .reg x.reg.toNat then t.ready k else t
  u.modNamed x.sender (fun k' q v => if q.wait = .xwr then v.complete k' [] else v)

/-- XWR_DELIVERY (05 R107): the slot and the group are checked, g0 accepts at once, an empty register without a pending
producer is written, in the next cycle if its emptying retires in this one, and any other makes the XWR wait, behind those that arrived first
(05 Table 5.2). -/
def xwrDelivery (x : Xwr) (s : State) : State :=
  match s.resident x.core x.slot, s.named x.sender with
  | some (k, p), some (ks, q) =>
    if q.wait ≠ .xwr then s
    else if q.gid ≠ p.gid then s.refuseXwr x
    else if x.reg = 0 then s.complete ks []
    else if !p.full x.reg && !(p.cell x.reg).pend && !s.xwrs.any (fun y => y.core == x.core && y.slot == x.slot && y.reg == x.reg)
    then
      if s.cycle ≤ p.doneAt && p.emptied.getLsbD x.reg.toNat then
        ({ s with xwrs := s.xwrs ++ [{ x with target := p.name }] }).atCycle (p.doneAt + 1) (.xwrWrite { x with target := p.name })
      else s.landXwr x k p
    else { s with xwrs := s.xwrs ++ [{ x with target := p.name }] }
  | _, _ => s.refuseXwr x

/-- XWR_WRITE (05 R106, R107): an XWR that waits writes its register once that is empty; a resident that has changed refuses
it. Two that arrived in one cycle go by sender core and slot. -/
def xwrWrite (x : Xwr) (s : State) : State :=
  if !s.xwrs.contains x || !((s.named x.sender).map (fun e => e.2.wait == .xwr)).getD false then
    { s with xwrs := s.xwrs.erase x }
  else
    match s.resident x.core x.slot with
    | some (k, p) =>
      if p.name ≠ x.target then ({ s with xwrs := s.xwrs.erase x }).refuseXwr x
      else if p.full x.reg || (p.cell x.reg).pend then s
      else ({ s with xwrs := s.xwrs.erase x }).landXwr x k p
    | none => ({ s with xwrs := s.xwrs.erase x }).refuseXwr x

/-- Every XWR that waits at a slot is refused: its resident leaves (05 R107). -/
def State.refuseWaiting (s : State) (core slot : Nat) : State :=
  (s.xwrs.filter (fun x => x.core == core && x.slot == slot)).foldl (fun t x => t.refuseXwr x)
    { s with xwrs := s.xwrs.filter (fun x => !(x.core == core && x.slot == slot)) }

/-- The lowest slot of a core that holds no process and no borrowed set. DESIGN CHOICE (log 48): of several free slots SLB borrows, and a swap
takes, the lowest; the spec names none. -/
def State.freeSlot (s : State) (core : Nat) : Option Nat :=
  (List.range 8).find? (fun i => (s.slot (core * 8 + i)).occ.isNone && (s.slot (core * 8 + i)).lent.isNone)

/-- SLB (05 R108): a free slot's number, or all ones if the process has one already or none is free. -/
def execSlb (d : Reg) (s : State) :=
  onCur s (fun k p => s.issue k p [] [d] (fun _ c =>
    match p.borrow, s.freeSlot p.core with
    | none, some i =>
      (((s.modSlot (p.core * 8 + i) (fun x => { x with lent := some p.idx })).modProc k
        (fun q => { q with borrow := some { slot := some i, regs := Vector.replicate 16 0 } }))).retire k c
          [(d, BitVec.ofNat 64 i)]
    | _, _ => s.retire k c [(d, allOnes)]))

/-- A borrowed slot given back (05 R108). -/
def State.returnSlot (s : State) (k : Nat) : State :=
  match s.proc k with
  | some p =>
    match p.borrow with
    | some b =>
      (match b.slot with
       | some i => s.modSlot (p.core * 8 + i) (fun x => { x with lent := none })
       | none => s).modProc k (fun q => { q with borrow := none })
    | none => s
  | none => s

/-- SLR (05 R108). -/
def execSlr (s : State) := onCur s (fun k _ => (s.returnSlot k).retire k 0 [])

/-- MXF (05 R108): a borrowed register into a local one. -/
def execMxf (d n : Reg) (s : State) :=
  onCur s (fun k p =>
    s.issue k p [] [d] (fun _ c =>
      match p.borrow with
      | none => s.illegal k
      | some b => s.retire k c [(d, b.regs.get (rix n))]))

/-- MXT (05 R108): a local register into a borrowed one; register 0 of the set stays 0, as R103 has it for every g0 (log 22). -/
def execMxt (n : Reg) (a : Src) (s : State) :=
  onCur s (fun k p =>
    s.issue k p [srcField a 0] [] (fun vals c =>
      match p.borrow with
      | none => s.illegal k
      | some b =>
        (s.modProc k (fun q => { q with borrow := some { b with regs := if n = 0 then b.regs else b.regs.set (rix n) (vals.getD 0 0) } })).retire k c []))

/-- EMPTY (05 R111): ILLEGAL on a bound port. -/
def execEmpty (d : Reg) (s : State) :=
  onCur s (fun k p =>
    if (p.portOf d).isSome then s.illegal k
    else s.retire k (regBit d) [])

/-- ISFULL (05 R111): whether a register is full, or a bound port has an element at its head. -/
def execIsfull (d a : Reg) (s : State) :=
  onCur s (fun k p => s.issue k p [] [d] (fun _ c =>
    let full := match s.source p a with
      | .elem _ => true
      | _ => false
    s.retire k c [(d, if full then 1 else 0)]))

end Sys2Proof.Machine
end

