-- ==== Sys2Proof/Machine/Permx.lean ====
section
/-! DEFINITION. PERMX, the bit-permutation exchange between packages (12 R382, R383). Two paired operations exchange their elements one by one
in step, so that each element is read before the partner's value takes its place. -/

namespace Sys2Proof.Machine

/-! ### The descriptor (12 Table 12.11) -/

def pxTag (ws : List Word) : Nat := descField ws 8 48 16
def pxSize (ws : List Word) : Nat := 4 * 2 ^ descField ws 8 24 2
def pxBits (ws : List Word) : Nat := descField ws 8 18 6
def pxBit (ws : List Word) : Nat := descField ws 8 12 6
def pxDim (ws : List Word) : Nat := descField ws 8 0 4

/-- Whether a descriptor keeps R382. -/
def pxOk (ws : List Word) : Bool :=
  descField ws 8 26 22 == 0 && descField ws 8 4 8 == 0 && ws.getD 2 0 == 0 && ws.getD 3 0 == 0 &&
  decide (1 ≤ pxBits ws) && decide (pxBits ws ≤ 36) && decide (pxBit ws < pxBits ws) && decide (pxDim ws ≤ 11) &&
  decide ((ws.getD 0 0).toNat % pxSize ws = 0)

/-- Whether two descriptors agree in ESZ, NL, L and G (12 R383). -/
def pxAgree (v w : List Word) : Bool := pxSize v == pxSize w && pxBits v == pxBits w && pxBit v == pxBit w && pxDim v == pxDim w

/-- The package that a package exchanges with (12 R383). -/
def pxPeer (pkg : Nat) (ws : List Word) : Nat := pkg ^^^ 2 ^ pxDim ws

/-- The local index of the exchanged element of a rank: its bits but for bit L, which differs from the package's bit G (12 R383). -/
def pxIndex (pkg : Nat) (ws : List Word) (rank : Nat) : Nat :=
  let l := pxBit ws
  rank / 2 ^ l * 2 ^ (l + 1) + (1 - pkg / 2 ^ pxDim ws % 2) * 2 ^ l + rank % 2 ^ l

/-- The rank of an exchanged element. -/
def pxRank (ws : List Word) (i : Nat) : Nat := i / 2 ^ (pxBit ws + 1) * 2 ^ pxBit ws + i % 2 ^ pxBit ws

/-- The virtual address of a local element. -/
def pxAddr (ws : List Word) (i : Nat) : Nat := (ws.getD 0 0 + BitVec.ofNat 64 (i * pxSize ws)).toNat

/-! ### The operations that the gateways hold -/

def State.permx (s : State) (id : Nat) : Option Permx := tget s.permxs id
def State.putPermx (s : State) (id : Nat) (x : Permx) : State := { s with permxs := tput s.permxs id x }

/-- For whom an operation's accesses are made. -/
def Permx.agent (x : Permx) : Agent := ⟨x.core, x.gid, x.level, x.asid, x.root⟩

/-- An operation is over: its transfer completes (12 R383). -/
def State.closePermx (s : State) (id : Nat) : State :=
  match s.permx id with
  | some x => (s.putPermx id { x with done := true }).after 0
      (.transferComplete { owner := x.owner, core := x.core, key := x.key, tid := x.tid, job := .permx id })
  | none => s

/-- An operation fails: FAIL is to be set at its end, and the peer bit is set (12 R383, R371). -/
def State.failPermx (s : State) (id : Nat) : State :=
  match s.permx id with
  | some x =>
    if x.failed then s
    else ((s.putPermx id { x with failed := true }).peerFail x.gid (pxPeer (pkgOf x.core) x.desc)).closePermx id
  | none => s

/-- A failure of either side ends both operations (12 R383). -/
def State.failBoth (s : State) (id : Nat) : State :=
  match (s.permx id).bind Permx.partner with
  | some j => (s.failPermx id).failPermx j
  | none => s.failPermx id

/-- The element of a rank is read and sent to the partner, for its index i XOR 2^L (12 R383). -/
def State.sendElement (s : State) (id rank : Nat) : State :=
  match s.permx id with
  | some x =>
    (match x.partner with
     | some j =>
       let p := pkgOf x.core
       let i := pxIndex p x.desc rank
       (match s.engineRead x.agent (pxAddr x.desc i) (pxSize x.desc) with
        | some bs => s.after (s.routeTime p (pxPeer p x.desc) + 1) (.permxElement j (i ^^^ 2 ^ pxBit x.desc) bs)
        | none => s.failBoth id)
     | none => s)
  | none => s

/-- PERMX (12 R382): the push releases the issuer's earlier stores (R391). -/
def execPermx (d : Reg) (a b : Src) (s : State) :=
  onCur s (fun k p => s.issue k p [srcField a 0, srcField b 1] [d] (fun vals c =>
    s.withHeld k p (vals.getD 0 0) (fun ke e =>
      let off := (vals.getD 1 0).toNat % 2 ^ 24
      if isDispenser e then s.raise k causeChanType (vals.getD 0 0)
      else if off % 8 ≠ 0 then s.raise k causeMisalign (vals.getD 1 0)
      else if scratchSize p.core < off + 32 then s.raise k causeLoadFault (vals.getD 1 0)
      else
        let t := s.releaseStores k
        let ws := leWords 4 (readBytes t.mem (windowBase p.core + off) 32)
        if !pxOk ws then s.illegal k
        else if 65535 ≤ e.infl then s.waitChan k (.chan e.handle)
        -- a package's gateways hold eight: a ninth is tried again
        else if 8 ≤ (s.permxs.filter (fun x => pkgOf x.2.core == pkgOf p.core)).length then s
        else
          let u := t.endReserve ke e
          let e1 := (u.ep ke).getD e
          let id := u.nextPermx
          let q := pxPeer (pkgOf p.core) ws
          let x : Permx :=
            { owner := p.name, core := p.core, key := ke, tid := nextId e1, gid := p.gid, level := p.level, asid := s.asidOf p,
              root := s.rootOf p, launch := s.launchNo p, desc := ws }
          let v := { u.putEp ke { e1 with issued := nextId e1, infl := e1.infl + 1, ids := e1.ids ++ [(nextId e1, false)] } with
            permxs := tput u.permxs id x, nextPermx := id + 1 }
          let placed := ((s.launchOf p).map (fun l => l.nodes.any (fun n => pkgOf n == q))).getD false
          let w :=
            if s.packages.contains q && placed && s.hasFeature q featPerm && s.reachable (pkgOf p.core) q then
              v.after (s.routeTime (pkgOf p.core) q + 1) (.permxPair id)
            else v.failPermx id
          w.retire k c [(d, BitVec.ofNat 64 (nextId e1))])))

/-- The operation that another pairs with: the oldest unpaired one of the package that it names, with its TAG (12 R383). -/
def State.permxPartner (s : State) (x : Permx) : Option (Nat × Permx) :=
  s.permxs.find? (fun y =>
    pkgOf y.2.core == pxPeer (pkgOf x.core) x.desc && pxTag y.2.desc == pxTag x.desc && y.2.partner.isNone && !y.2.failed && !y.2.done)

/-- PERMX_PAIR (12 R383). -/
def permxPair (id : Nat) (s : State) : State :=
  match s.permx id with
  | none => s
  | some x =>
    if x.partner.isSome || x.failed || x.done then s
    else
      match s.permxPartner x with
      | none => s
      | some (j, y) =>
        let n := 2 ^ (pxBits x.desc - 1)
        let t := (s.putPermx id { x with partner := some j, left := n }).putPermx j { y with partner := some id, left := n }
        if pxAgree x.desc y.desc then (t.sendElement id 0).sendElement j 0 else t.failBoth id

/-- PERMX_ELEMENT (12 R383): an element of the partner takes the place of the local one, which has been read; the next is sent, or, after
the last of both, the operations complete. -/
def permxElement (id index : Nat) (val : List Byte) (s : State) : State :=
  match s.permx id with
  | none => s
  | some x =>
    if x.failed || x.done then s
    else if !s.reachable (pxPeer (pkgOf x.core) x.desc) (pkgOf x.core) then s.failBoth id
    else
      match s.engineWrite x.agent x.owner (pxAddr x.desc index) val with
      | none => s.failBoth id
      | some t =>
        let u := t.putPermx id { x with left := x.left - 1 }
        if 1 < x.left then u.sendElement id (pxRank x.desc index + 1)
        else
          match x.partner with
          | some j => if ((u.permx j).map Permx.left) == some 0 then (u.closePermx id).closePermx j else u
          | none => u

/-- An operation's transfer completes at its end, with FAIL if it failed (07 R212, 12 R383). -/
def State.completePermx (s : State) (x : Transfer) (id : Nat) : State :=
  let failed := ((s.permx id).map Permx.failed).getD true
  let t := { s with permxs := tdel s.permxs id }
  match t.endAt ⟨x.key / 512, x.key % 512, 0⟩ with
  | some (ke, _) => t.transferDone ke x.tid failed
  | none => t

/-- The operations of a process that is gone fail, with their partners' (06 R162, 12 R383). -/
def State.cancelPermx (s : State) (name : Nat) : State :=
  (s.permxs.filter (fun x => x.2.owner == name && !x.2.done)).foldl (fun t x => t.failBoth x.1) s

end Sys2Proof.Machine
end

