-- ==== Sys2Proof/Machine/Prefixes.lean ====
section
/-! DEFINITION. The prefix words ONCE and PFX, major 0x3D (03 R53 to R55). -/

namespace Sys2Proof.Machine

/-- A word of a core's ISTORE (03 R49). -/
def State.istoreWord (s : State) (core : Nat) (pc : BitVec 16) : Nat := readLe s.mem (windowBase core + 0x120000 + pc.toNat) 4

/-- A word that PFX may precede: ADDI, ANDI, ORI, XORI, MULI (03 R54). -/
def pfxAllows (w : Nat) : Bool :=
  let m := w / 2 ^ 26
  m == 0x02 || m == 0x03 || m == 0x04 || m == 0x05 || m == 0x09

/-- A PFX word: function 1, nothing in the reserved bits (03 Table 3.14). -/
def isPfx (w : Nat) : Bool := w / 2 ^ 16 == 0xF440

/-- A word that ONCE may precede: majors 0x01 to 0x0B, 0x10, 0x13 and 0x23, FRD, CSRR (03 R55). -/
def onceAllows (w : Nat) : Bool :=
  let m := w / 2 ^ 26
  (decide (1 ≤ m) && decide (m ≤ 0x0B)) || m == 0x10 || m == 0x13 || m == 0x23 ||
  (m == 0x15 && w / 2 ^ 5 % 32 == 0) || (m == 0x1E && w / 2 ^ 12 % 16 == 0)

/-- PFX (03 R53, R54): its payload joins the group, whose next word is executed with it; any other arrangement is ILLEGAL with the
following word. -/
def execPfx (x : BitVec 16) (s : State) :=
  onCur s (fun k p =>
    let next := s.istoreWord p.core (p.wordPc + 4)
    if pfxAllows next || (isPfx next && decide (p.pfx.length = 0)) then
      { s.putProc k { p with pfx := p.pfx ++ [x] } with group := some k }
    else s.raise k causeIllegal (BitVec.ofNat 64 next))

/-- The destination field of a word, bits [25:22] (03 Tables 3.1 to 3.3). -/
def wordDst (w : Nat) : Reg := BitVec.ofNat 4 (w / 2 ^ 22)

/-- The PFX words and the instruction behind a ONCE: how many words, and the last one (03 R53). -/
def State.onceTail (s : State) (core : Nat) (pc : BitVec 16) : Nat → Nat → Nat × Nat
  | 0, n => (n + 1, s.istoreWord core pc)
  | fuel + 1, n =>
    if isPfx (s.istoreWord core pc) then s.onceTail core (pc + 4) fuel (n + 1) else (n + 1, s.istoreWord core pc)

/-- The lowest-numbered live member of a gang (03 R55). -/
def State.electable (s : State) (gid : Nat) : Option Proc :=
  leastBy (fun q => q.gang.getD 0) ((s.gangMembers gid).map Prod.snd)

/-- The member elected for the n-th ONCE of a gang, and the group with it fixed (03 R55). -/
def State.elect (s : State) (gid n : Nat) : Nat × State :=
  match s.group? gid with
  | none => (0, s)
  | some g =>
    match g.elected.find? (fun e => e.1 == n) with
    | some e => (e.2, s)
    | none =>
      let m := ((s.electable gid).map Proc.name).getD 0
      -- counts are modulo 256: an older election of the same count is replaced
      (m, s.putGroup gid { g with elected := (n, m) :: g.elected.filter (fun e => e.1 != (n + 128) % 256) })

/-- The ONCE of a member that is not elected (03 R55): d is emptied as by a long-latency producer, the group is passed over, and a
post that already waits is taken. -/
def State.onceWaitFor (s : State) (k : Nat) (p : Proc) (n words : Nat) (d : Reg) : State :=
  let t := (s.produce k d).modProc k (fun q => { q.endGroup with pc := p.pc + BitVec.ofNat 16 (4 * (words + 1)), onceCnt := n })
  match p.posts.find? (fun x => x.1 == n) with
  | some x => (t.modProc k (fun q => { q with posts := q.posts.erase x })).after 1 (.fill (p.dest d) x.2)
  | none => t.modProc k (fun q => { q with onceWait := q.onceWait ++ [(n, d, p.nextTag d)] })

/-- The posts that a member of a gang would hold undelivered once every result that is still to come has been posted (03 R55). -/
def State.postsHeld (s : State) (gid : Nat) (m : Proc) : Nat :=
  m.posts.length + (s.onceDue.filter (fun o => o.1 != m.name && (s.gangMembers gid).any (fun e => e.2.name == o.1) &&
    !m.onceWait.any (fun w => w.1 == o.2.2.2))).length

/-- A word ONCE or PFX. -/
def isLead (w : Nat) : Bool := w == 0xF4000000 || isPfx w

/-- How many words ONCE and PFX stand at an address, at most three (03 R53). -/
def State.leads (s : State) (core : Nat) (pc : BitVec 16) : Nat → Nat
  | 0 => 0
  | fuel + 1 => if isLead (s.istoreWord core pc) then s.leads core (pc + 4) fuel + 1 else 0

/-- Whether the next instruction of a process is one that it passes over, as a member of a gang that is not elected for it (03 R55). -/
def State.passesOver (s : State) (p : Proc) : Bool :=
  p.gang.isSome && s.istoreWord p.core p.pc == 0xF4000000 && (s.elect p.gid ((p.onceCnt + 1) % 256)).1 != p.name

/-- ONCE (03 R53, R55): the arrangement of the words is checked for every member, the instruction behind them for the elected one. -/
def execOnce (s : State) :=
  onCur s (fun k p =>
    let next := s.istoreWord p.core (p.wordPc + 4)
    if !(onceAllows next || isPfx next) then s.raise k causeIllegal (BitVec.ofNat 64 next)
    else if p.gang.isNone then { s.putProc k { p with onceOn := true } with group := some k }
    else
      let n := (p.onceCnt + 1) % 256
      let e := s.elect p.gid n
      if e.1 = p.name then
        if (e.2.gangMembers p.gid).any (fun m => m.2.name != p.name && decide (4 ≤ e.2.postsHeld p.gid m.2))
        then e.2.park k .boundary
        else { e.2.putProc k { p with onceOn := true } with group := some k }
      else
        let tail := s.onceTail p.core (p.pc + 4) 2 0
        let d := wordDst tail.2
        if tail.2 / 2 ^ 26 = 0x3D then s.raise k causeIllegal (BitVec.ofNat 64 tail.2)
        else if d ≠ 0 ∧ 3 ≤ (p.cell d).out then s.park k (.reg d.toNat)
        else e.2.onceWaitFor k p n tail.1 d)

end Sys2Proof.Machine
end

