-- ==== Sys2Proof/Machine/ScalarFloat.lean ====
section
/-! DEFINITION. The scalar floating-point instructions, majors 0x0A and 0x0B (05 R115 to R117). -/

namespace Sys2Proof.Machine

/-- The format of a precision bit: 0 .S is FP32, 1 .D is FP64 (05 R115). -/
def precision (z : BitVec 1) : Fmt := if z = 0 then fp32 else fp64

/-- The operand of a precision: at .S bits [31:0] of the register (05 R115). -/
def operand (z : BitVec 1) (x : Word) : Nat := if z = 0 then x.toNat % 2 ^ 32 else x.toNat

/-- Retirement of an instruction that also raises flags (02 R39). -/
def State.retireFlags (s : State) (k : Nat) (c : BitVec 16) (ws : List (Reg × Word)) (fl : FlagSet) : State :=
  (s.modProc k (fun p => p.raiseFlags fl)).retire k c ws

/-- One floating-point result of two sources, in the low bits of d with the rest cleared (05 R115). -/
def State.float2 (s : State) (k : Nat) (p : Proc) (d : Reg) (a b : Src) (z : BitVec 1)
    (f : Fmt → Rnd → Nat → Nat → Nat × FlagSet) : State :=
  s.issue k p [srcField a 0, srcField b 1] [d] (fun vals c =>
    let r := f (precision z) (rndOf p.rmode) (operand z (vals.getD 0 0)) (operand z (vals.getD 1 0))
    s.retireFlags k c [(d, BitVec.ofNat 64 r.1)] r.2)

/-- One result of one source, with its flags. -/
def State.float1 (s : State) (k : Nat) (p : Proc) (d : Reg) (a : Src) (f : Rnd → Word → Word × FlagSet) : State :=
  s.issue k p [srcField a 0] [d] (fun vals c =>
    let r := f (rndOf p.rmode) (vals.getD 0 0)
    s.retireFlags k c [(d, r.1)] r.2)

/-- A truth value with flags, as a result. -/
def boolRes (r : Bool × FlagSet) : Nat × FlagSet := (if r.1 then 1 else 0, r.2)

def execFadd (d : Reg) (a b : Src) (z : BitVec 1) (s : State) :=
  onCur s (fun k p => s.float2 k p d a b z (fun f m x y => f.add m x y))
def execFsub (d : Reg) (a b : Src) (z : BitVec 1) (s : State) :=
  onCur s (fun k p => s.float2 k p d a b z (fun f m x y => f.sub m x y))
def execFmul (d : Reg) (a b : Src) (z : BitVec 1) (s : State) :=
  onCur s (fun k p => s.float2 k p d a b z (fun f m x y => f.mul m x y))
def execFdiv (d : Reg) (a b : Src) (z : BitVec 1) (s : State) :=
  onCur s (fun k p => s.float2 k p d a b z (fun f m x y => f.div m x y))
def execFsqrt (d : Reg) (a : Src) (z : BitVec 1) (s : State) :=
  onCur s (fun k p => s.float1 k p d a (fun m x =>
    let r := (precision z).sqrt m (operand z x)
    (BitVec.ofNat 64 r.1, r.2)))
def execFmin (d : Reg) (a b : Src) (z : BitVec 1) (s : State) :=
  onCur s (fun k p => s.float2 k p d a b z (fun f _ x y => f.minmax false x y))
def execFmax (d : Reg) (a b : Src) (z : BitVec 1) (s : State) :=
  onCur s (fun k p => s.float2 k p d a b z (fun f _ x y => f.minmax true x y))

/-- FNEG inverts and FABS clears the sign bit; no flag, NaNs kept (02 R34). -/
def execFneg (d : Reg) (a : Src) (z : BitVec 1) (s : State) :=
  onCur s (fun k p => s.float1 k p d a (fun _ x =>
    (BitVec.ofNat 64 (operand z x) ^^^ BitVec.ofNat 64 (precision z).signBit, 0)))
def execFabs (d : Reg) (a : Src) (z : BitVec 1) (s : State) :=
  onCur s (fun k p => s.float1 k p d a (fun _ x => (BitVec.ofNat 64 (operand z x % (precision z).signBit), 0)))
def execFeq (d : Reg) (a b : Src) (z : BitVec 1) (s : State) :=
  onCur s (fun k p => s.float2 k p d a b z (fun f _ x y => boolRes (f.feq x y)))
def execFlt (d : Reg) (a b : Src) (z : BitVec 1) (s : State) :=
  onCur s (fun k p => s.float2 k p d a b z (fun f _ x y => boolRes (f.flt false x y)))
def execFle (d : Reg) (a b : Src) (z : BitVec 1) (s : State) :=
  onCur s (fun k p => s.float2 k p d a b z (fun f _ x y => boolRes (f.flt true x y)))
def execFclass (d : Reg) (a : Src) (z : BitVec 1) (s : State) :=
  onCur s (fun k p => s.float1 k p d a (fun _ x => (BitVec.ofNat 64 (2 ^ (precision z).fclass (operand z x)), 0)))

/-- FCVT.S converts FP64 to FP32 and FCVT.D converts FP32 to FP64 (05 Table 5.6). -/
def execFcvt (d : Reg) (a : Src) (z : BitVec 1) (s : State) :=
  onCur s (fun k p => s.float1 k p d a (fun m x =>
    let r := if z = 0 then fp32.ofVal m false false false (fp64.decode x.toNat)
      else fp64.ofVal m false false false (fp32.decode (operand 0 x))
    (BitVec.ofNat 64 r.1, r.2)))

/-- FTOI converts the precision's value to INT64 (02 R38). -/
def execFtoi (d : Reg) (a : Src) (z : BitVec 1) (s : State) :=
  onCur s (fun k p => s.float1 k p d a (fun m x =>
    let r := ((precision z).decode (operand z x)).toInteger 64 m
    (BitVec.ofInt 64 r.1, r.2)))

/-- ITOF converts INT64 to the precision, rounded by RMODE (02 R38). -/
def execItof (d : Reg) (a : Src) (z : BitVec 1) (s : State) :=
  onCur s (fun k p => s.float1 k p d a (fun m x =>
    let r := (precision z).ofInteger m x.toInt
    (BitVec.ofNat 64 r.1, r.2)))

/-- One fused result of three sources (05 R117). -/
def State.fused (s : State) (k : Nat) (p : Proc) (d : Reg) (a b c : Src) (z : BitVec 1) (negP negC : Bool) : State :=
  s.issue k p [srcField a 0, srcField b 1, srcField c 2] [d] (fun vals m =>
    let r := (precision z).fma (rndOf p.rmode) negP negC (operand z (vals.getD 0 0)) (operand z (vals.getD 1 0))
      (operand z (vals.getD 2 0))
    s.retireFlags k m [(d, BitVec.ofNat 64 r.1)] r.2)

def execFma (d : Reg) (a b c : Src) (z : BitVec 1) (s : State) := onCur s (fun k p => s.fused k p d a b c z false false)
def execFms (d : Reg) (a b c : Src) (z : BitVec 1) (s : State) := onCur s (fun k p => s.fused k p d a b c z false true)
def execFnma (d : Reg) (a b c : Src) (z : BitVec 1) (s : State) := onCur s (fun k p => s.fused k p d a b c z true false)
def execFnms (d : Reg) (a b c : Src) (z : BitVec 1) (s : State) := onCur s (fun k p => s.fused k p d a b c z true true)

end Sys2Proof.Machine
end

