-- ==== Sys2Proof/Machine/Trans.lean ====
section
/-! DEFINITION. The functions 2^x, log2 x, 1/√x, the sigmoid and tanh, correctly rounded (09 R260, R297; 10 R325). The values are
worked out in fixed point with 320 fraction bits, of which the low ones are dropped; none of these functions has a rational value that such
a precision could take for a boundary of rounding, but for the exact cases that are named apart (log 12). -/

namespace Sys2Proof.Machine

/-- Fraction bits of the fixed-point numbers of this file. -/
def fixBits : Nat := 320

/-- ln 2 and 1 / ln 2 in fixed point, rounded down. -/
def fixLn2 : Nat := 1480553391661173448385607439722553250922680800745876974795605978609098082859138712941075737848984
def fixInvLn2 : Nat := 3081577904126213121686167198097690134163479766071396094403848907535455306605342191083616308484524

/-- A product in fixed point. -/
def fixMul (x y : Nat) : Nat := x * y / 2 ^ fixBits

/-- The exponential series: terms from the n-th on, given the n-th term and the sum so far. -/
def expSeries (y : Nat) : Nat → Nat → Nat → Nat → Nat
  | 0, _, _, acc => acc
  | fuel + 1, n, term, acc => expSeries y fuel (n + 1) (fixMul term y / (n + 1)) (acc + term)

/-- 2^f for a fixed-point f in [0, 1]. -/
def fixExp2 (f : Nat) : Nat := expSeries (fixMul f fixLn2) 90 0 (2 ^ fixBits) 0

/-- The series of artanh: terms from the n-th on, given z^(2n+1). -/
def artanhSeries (z2 : Nat) : Nat → Nat → Nat → Nat → Nat
  | 0, _, _, acc => acc
  | fuel + 1, n, pow, acc => artanhSeries z2 fuel (n + 1) (fixMul pow z2) (acc + pow / (2 * n + 1))

/-- log2 y for a fixed-point y in [1, 2). -/
def fixLog2 (y : Nat) : Nat :=
  let z := (y - 2 ^ fixBits) * 2 ^ fixBits / (y + 2 ^ fixBits)
  fixMul (2 * artanhSeries (fixMul z z) 110 0 z 0) fixInvLn2

/-- A magnitude a little above m * 2^e, where the low bits of m are not known, rounded into a format. -/
def Fmt.roundOpen (f : Fmt) (mode : Rnd) (ftz neg : Bool) (m : Nat) (e : Int) : Nat × FlagSet :=
  f.roundMag mode ftz false neg (m / 2 ^ 24) (e + 24) true

/-- 2^x (09 R260): exact where x is an integer. -/
def Fmt.exp2 (f : Fmt) (mode : Rnd) (x : FVal) : Nat × FlagSet :=
  match x with
  | .nan sig => (f.nan, flagIf sig flagNV)
  | .inf n => (if n then f.code false 0 else f.code false f.infMag, 0)
  | .fin neg m e =>
    if 12 < e + m.log2 then f.roundMag mode false false false 1 (if neg then -5000 else 5000) true
    else
      let v : Int := (if neg then -(m : Int) else m) * 2 ^ (e + fixBits).toNat
      let n := v.fdiv (2 ^ fixBits)
      let fr := (v.fmod (2 ^ fixBits)).toNat
      if fr = 0 then f.roundMag mode false false false 1 n false
      else f.roundOpen mode false false (fixExp2 fr) (n - fixBits)

/-- log2 x (09 R260): exact where x is a power of two. -/
def Fmt.log2 (f : Fmt) (mode : Rnd) (x : FVal) : Nat × FlagSet :=
  match x with
  | .nan sig => (f.nan, flagIf sig flagNV)
  | .inf n => if n then (f.nan, flagNV) else (f.code false f.infMag, 0)
  | .fin neg m e =>
    if m = 0 then (f.code true f.infMag, flagDZ)
    else if neg then (f.nan, flagNV)
    else
      let k : Int := e + m.log2
      if m = 2 ^ m.log2 then f.round mode false false false ⟨k, 0⟩
      else
        let v : Int := k * 2 ^ fixBits + fixLog2 (m * 2 ^ fixBits / 2 ^ m.log2)
        f.roundOpen mode false (decide (v < 0)) v.natAbs (-(fixBits : Int))

/-- 1/√x (09 R260). -/
def Fmt.rsqrt (f : Fmt) (mode : Rnd) (x : FVal) : Nat × FlagSet :=
  match x with
  | .nan sig => (f.nan, flagIf sig flagNV)
  | .inf n => if n then (f.nan, flagNV) else (f.code false 0, 0)
  | .fin neg m e =>
    if m = 0 then (f.code neg f.infMag, flagDZ)
    else if neg then (f.nan, flagNV)
    else
      -- x = m' * 2^e' with e' even; 1/√x = 2^(-e'/2) / √m'
      let m1 := if e % 2 = 0 then m else 2 * m
      let e1 := if e % 2 = 0 then e else e - 1
      let k := 64 + m1.log2
      let r := isqrt (2 ^ (2 * k) / m1)
      f.roundMag mode false false false r (-e1 / 2 - (k : Nat)) (decide (r * r * m1 ≠ 2 ^ (2 * k)))

/-! ### Sigmoid and tanh (09 Table 9.15) -/

/-- e^(-t) for an exact t that is not negative, as a number of about 320 bits. -/
def expNeg (t : Dy) : Dy :=
  if 2048 * 2 ^ fixBits ≤ t.m * 2 ^ (t.e + fixBits).toNat then ⟨1, -3000⟩
  else
    let u := fixMul (t.m * 2 ^ (t.e + fixBits).toNat).toNat fixInvLn2
    let n := u / 2 ^ fixBits
    let fr := u % 2 ^ fixBits
    if fr = 0 then ⟨1, -(n : Int)⟩ else ⟨fixExp2 (2 ^ fixBits - fr), -(n : Int) - 1 - fixBits⟩

/-- A quotient of positive numbers, which are known to about 300 bits, rounded into a format. -/
def Fmt.roundRatio (f : Fmt) (mode : Rnd) (ftz neg : Bool) (a b : Dy) : Nat × FlagSet :=
  let k := 300 + b.m.natAbs.log2 - a.m.natAbs.log2
  f.roundOpen mode ftz neg (a.m.natAbs * 2 ^ k / b.m.natAbs) (a.e - b.e - (k : Nat))

def dyOne : Dy := ⟨1, 0⟩

/-- 1 / (1 + e^(-x)). -/
def Fmt.sigmoid (f : Fmt) (ftz : Bool) (x : FVal) : Nat × FlagSet :=
  match x with
  | .nan sig => (f.nan, flagIf sig flagNV)
  | .inf n => if n then (f.code false 0, 0) else f.round .rne ftz false false dyOne
  | .fin neg m e =>
    if m = 0 then f.round .rne ftz false false ⟨1, -1⟩
    else
      let t := expNeg ⟨m, e⟩
      f.roundRatio .rne ftz false (if neg then t else dyOne) (dyOne.add t)

/-- tanh x; near 0 it lies just below x in magnitude. -/
def Fmt.tanh (f : Fmt) (ftz : Bool) (x : FVal) : Nat × FlagSet :=
  match x with
  | .nan sig => (f.nan, flagIf sig flagNV)
  | .inf n => f.round .rne ftz false n ⟨if n then -1 else 1, 0⟩
  | .fin neg m e =>
    if m = 0 then (f.code neg 0, 0)
    else if e + m.log2 < -30 then f.roundMag .rne ftz false neg (m * 2 ^ 80 - 1) (e - 80) true
    else
      let t := expNeg ⟨m, e + 1⟩
      f.roundRatio .rne ftz neg (dyOne.add t.neg) (dyOne.add t)

/-- The derivative of the sigmoid (10 R325). -/
def Fmt.sigmoidSlope (f : Fmt) (ftz : Bool) (x : FVal) : Nat × FlagSet :=
  match x with
  | .nan sig => (f.nan, flagIf sig flagNV)
  | .inf _ => (f.code false 0, 0)
  | .fin _ m e =>
    if m = 0 then f.round .rne ftz false false ⟨1, -2⟩
    else
      let t := expNeg ⟨m, e⟩
      let d := dyOne.add t
      f.roundRatio .rne ftz false t (d.mul d)

/-- The derivative of tanh (10 R325). -/
def Fmt.tanhSlope (f : Fmt) (ftz : Bool) (x : FVal) : Nat × FlagSet :=
  match x with
  | .nan sig => (f.nan, flagIf sig flagNV)
  | .inf _ => (f.code false 0, 0)
  | .fin _ m e =>
    if m = 0 then f.round .rne ftz false false dyOne
    else
      let t := expNeg ⟨m, e + 1⟩
      let d := dyOne.add t
      f.roundRatio .rne ftz false (t.scale 2) (d.mul d)

end Sys2Proof.Machine
end

