-- ==== Sys2Proof/WellFormed.lean ====
section
/-! DEFINITION. Which instructions are well formed: the encodings that R59 calls no instruction because a
field holds a value the spec does not define. Events are always well formed. -/

namespace Sys2Proof

/-- Element codes 4 to 7 of a vector word, the floating-point types (09 Table 9.2). -/
def Sub.isFloat (e : BitVec 3) : Bool := decide (4 ≤ e.toNat)

/-- Element codes 0 to 3 of a vector word, the integer types (09 Table 9.2). -/
def Sub.isInt (e : BitVec 3) : Bool := decide (e.toNat ≤ 3)

/-- Element codes 2 to 5, which gathers and scatters accept (09 R268, R269). -/
def Sub.gatherOk (e : BitVec 3) : Bool := decide (2 ≤ e.toNat) && decide (e.toNat ≤ 5)

/-- A destination register g8 to g11, which can be a port (05 R109, 07 R214). -/
def Sub.isPort (d : Reg) : Bool := decide (8 ≤ d.toNat) && decide (d.toNat ≤ 11)

/-- A pair of vector registers vn, vn+1 starts at an even number (09 R264, R265). -/
def Sub.isEven (v : BitVec 5) : Bool := decide (v.toNat % 2 = 0)

/-- Bits of a lane of an element code (09 Table 9.1). -/
def Sub.laneBits (e : BitVec 3) : Nat :=
  match e.toNat with
  | 0 => 8
  | 1 => 16
  | 2 => 32
  | 3 => 64
  | 4 => 32
  | 5 => 64
  | _ => 16

/-- Bits of an element of the destination formats of VCVT, 0 for any other code (09 R264, 02 Table 2.1). -/
def Sub.formatBits (f : BitVec 4) : Nat :=
  match f.toNat with
  | 0x0 => 32
  | 0x1 => 16
  | 0x2 => 16
  | 0x7 => 8
  | 0x8 => 32
  | 0xA => 64
  | 0xB => 64
  | _ => 0

/-- The conversions VCVT has: as many lanes, with H = 0, twice as many, or half as many (09 R264). -/
def Sub.vcvtOk (_d _a : BitVec 5) (h : BitVec 1) (f : BitVec 4) (e : BitVec 3) : Bool :=
  let x := Sub.laneBits e
  let y := Sub.formatBits f
  (decide (x = y) && h == 0) || decide (x = 2 * y) || decide (2 * x = y)

/-- The conversions VQNT and VDQN have: element type FP32, whose register pair starts at an even number, or BF16; block format E4M3
to MK8 (09 R265). -/
def Sub.vqntOk (_packed pair : BitVec 5) (f : BitVec 4) (e : BitVec 3) : Bool :=
  ((e == 4 && Sub.isEven pair) || e == 6) && decide (3 ≤ f.toNat) && decide (f.toNat ≤ 6)

/-- The checks of R59 on the fields of one instruction word (03 Table 3.13 and the engine chapters). -/
def Instr.wf : Instr → Bool
  | .add _ _ _ => true
  | .sub _ _ _ => true
  | .and _ _ _ => true
  | .or _ _ _ => true
  | .xor _ _ _ => true
  | .andn _ _ _ => true
  | .shl _ _ _ => true
  | .shr _ _ _ => true
  | .sra _ _ _ => true
  | .rol _ _ _ => true
  | .mul _ _ _ => true
  | .mulh _ _ _ => true
  | .mulhu _ _ _ => true
  | .div _ _ _ => true
  | .divu _ _ _ => true
  | .rem _ _ _ => true
  | .remu _ _ _ => true
  | .min _ _ _ => true
  | .max _ _ _ => true
  | .minu _ _ _ => true
  | .maxu _ _ _ => true
  | .clz _ _ => true
  | .ctz _ _ => true
  | .popc _ _ => true
  | .bswap _ _ => true
  | .sext _ _ _ => true
  | .zext _ _ _ => true
  | .seq _ _ _ => true
  | .sne _ _ _ => true
  | .slt _ _ _ => true
  | .sltu _ _ _ => true
  | .sle _ _ _ => true
  | .sleu _ _ _ => true
  | .addi _ _ _ => true
  | .andi _ _ _ => true
  | .ori _ _ _ => true
  | .xori _ _ _ => true
  | .shli _ _ _ => true
  | .shri _ _ _ => true
  | .srai _ _ _ => true
  | .roli _ _ _ => true
  | .lih _ _ _ => true
  | .seqi _ _ _ => true
  | .slti _ _ _ => true
  | .sltui _ _ _ => true
  | .muli _ _ _ => true
  | .fadd _ _ _ _ => true
  | .fsub _ _ _ _ => true
  | .fmul _ _ _ _ => true
  | .fdiv _ _ _ _ => true
  | .fsqrt _ _ _ => true
  | .fmin _ _ _ _ => true
  | .fmax _ _ _ _ => true
  | .fneg _ _ _ => true
  | .fabs _ _ _ => true
  | .feq _ _ _ _ => true
  | .flt _ _ _ _ => true
  | .fle _ _ _ _ => true
  | .fclass _ _ _ => true
  | .fcvt _ _ _ => true
  | .ftoi _ _ _ => true
  | .itof _ _ _ => true
  | .fma _ _ _ _ _ => true
  | .fms _ _ _ _ _ => true
  | .fnma _ _ _ _ _ => true
  | .fnms _ _ _ _ _ => true
  | .ld _ _ z _ => z != 7
  | .st _ _ z _ => decide (z.toNat ≤ 3)
  | .ldm f a l _ => decide (f.toNat ≤ l.toNat) && !(decide (f.toNat ≤ a.reg.toNat) && decide (a.reg.toNat ≤ l.toNat))
  | .stm f _ l _ => decide (f.toNat ≤ l.toNat)
  | .amoAdd _ _ _ _ _ _ => true
  | .amoAnd _ _ _ _ _ _ => true
  | .amoOr _ _ _ _ _ _ => true
  | .amoXor _ _ _ _ _ _ => true
  | .amoMin _ _ _ _ _ _ => true
  | .amoMax _ _ _ _ _ _ => true
  | .amoMinu _ _ _ _ _ _ => true
  | .amoMaxu _ _ _ _ _ _ => true
  | .amoSwp _ _ _ _ _ _ => true
  | .amoCas _ _ _ _ _ _ => true
  | .amoFadd _ _ _ _ _ _ => true
  | .fence _ s k => decide (s.toNat ≤ 5) && decide (k.toNat ≤ 2)
  | .drainS => true
  | .isync => true
  | .frd _ _ _ _ => true
  | .fwr _ _ => true
  | .fclr _ => true
  | .xwr _ _ _ => true
  | .slb _ => true
  | .slr => true
  | .mxf _ _ => true
  | .mxt _ _ => true
  | .bindq d _ => Sub.isPort d
  | .unbq d => Sub.isPort d
  | .empty _ => true
  | .isfull _ _ => true
  | .beqz _ _ => true
  | .bnez _ _ => true
  | .bltz _ _ => true
  | .bgez _ _ => true
  | .bgtz _ _ => true
  | .blez _ _ => true
  | .beq _ _ _ => true
  | .bne _ _ _ => true
  | .blt _ _ _ => true
  | .bge _ _ _ => true
  | .bltu _ _ _ => true
  | .bgeu _ _ _ => true
  | .j _ => true
  | .jal _ => true
  | .jr _ => true
  | .jalr _ _ => true
  | .loop a _ => a.reg != 0
  | .trap _ => true
  | .sysc _ => true
  | .eret => true
  | .brk _ => true
  | .nop => true
  | .snap => true
  | .csrr _ _ => true
  | .csrw _ _ _ => true
  | .csrs _ _ _ => true
  | .csrc _ _ _ => true
  | .spawn _ _ _ _ l v => l == 1 || v == 0
  | .gang _ _ _ => true
  | .yield => true
  | .prio _ _ => true
  | .exit _ => true
  | .killg _ _ => true
  | .susp _ _ => true
  | .resm _ _ => true
  | .migr _ _ _ => true
  | .pself _ => true
  | .pinfo _ _ => true
  | .wfw _ => true
  | .sleep _ => true
  | .trapw _ _ => true
  | .quiesce _ _ _ => true
  | .quiesceR _ _ _ => true
  | .gbar _ => true
  | .garr _ => true
  | .gwait _ => true
  | .gexp _ _ => true
  | .svopen _ _ _ => true
  | .timer _ _ _ => true
  | .dqry _ _ _ => true
  | .dlkq _ _ => true
  | .chnew _ _ => true
  | .chdel _ => true
  | .chbind _ _ _ => true
  | .chqry _ _ => true
  | .chpoll _ _ => true
  | .sendh _ _ => true
  | .send _ _ => true
  | .recv _ _ => true
  | .sendb _ _ => true
  | .recvb _ _ _ => true
  | .sendt _ _ _ => true
  | .recvt _ _ _ => true
  | .senda _ _ _ => true
  | .trecv _ _ _ _ => true
  | .alt _ _ _ _ => true
  | .copy _ _ _ => true
  | .cwait _ _ _ => true
  | .strm d _ => Sub.isPort d
  | .subs _ _ _ => true
  | .unsub _ _ => true
  | .mcast _ _ => true
  | .vadd _ _ _ _ _ => true
  | .vsub _ _ _ _ _ => true
  | .vmul _ _ _ _ _ => true
  | .vdiv _ _ _ _ _ => true
  | .vmin _ _ _ _ _ => true
  | .vmax _ _ _ _ _ => true
  | .vabs _ _ _ _ => true
  | .vneg _ _ _ _ => true
  | .vsqrt _ _ _ e => Sub.isFloat e
  | .vrsq _ _ _ => true
  | .vexp2 _ _ _ => true
  | .vlog2 _ _ _ => true
  | .vcmul _ _ _ _ => true
  | .vand _ _ _ _ _ => true
  | .vor _ _ _ _ _ => true
  | .vxor _ _ _ _ _ => true
  | .vshl _ _ _ _ e => Sub.isInt e
  | .vshr _ _ _ _ e => Sub.isInt e
  | .vsra _ _ _ _ e => Sub.isInt e
  | .vfma _ _ _ _ _ => true
  | .vfms _ _ _ _ _ => true
  | .vcmp _ d _ _ _ _ => d != 0
  | .vsel _ _ _ _ _ => true
  | .mset d _ => d != 0
  | .msetR _ _ => true
  | .mand d _ _ => d != 0
  | .mor d _ _ => d != 0
  | .mnot d _ => d != 0
  | .vcvt d a h f _ e => Sub.vcvtOk d a h f e
  | .vqnt d a _ f e => Sub.vqntOk d a f e
  | .vdqn d a f e => Sub.vqntOk a d f e
  | .vred _ _ o _ _ => o != 3
  | .vscan _ _ o _ _ => o != 3
  | .vperm _ _ _ _ _ => true
  | .vbcast _ _ _ _ => true
  | .vmovg _ _ _ _ => true
  | .vmovv _ _ _ _ => true
  | .vld _ _ _ _ _ => true
  | .vst _ _ _ _ _ => true
  | .vlds _ _ _ _ _ => true
  | .vsts _ _ _ _ _ => true
  | .vgath _ _ _ _ e => Sub.gatherOk e
  | .vscat _ _ _ _ e => Sub.gatherOk e
  | .vrep _ _ _ _ _ => true
  | .tdef _ _ _ => true
  | .tstat _ _ => true
  | .tload _ _ _ => true
  | .tstore _ _ _ => true
  | .tcvt _ _ _ _ => true
  | .tcmd _ _ => true
  | .mma _ _ _ _ _ => true
  | .mmag _ _ _ _ _ _ => true
  | .cmma _ _ _ _ _ => true
  | .gmma _ _ _ _ _ => true
  | .azero _ => true
  | .adrain _ _ _ _ => true
  | .adrainR _ _ _ _ _ _ => true
  | .tadd _ _ _ _ _ => true
  | .tmul _ _ _ _ _ => true
  | .tact _ _ s _ _ f => decide (f.toNat ≤ 4) && (f == 1 || s == 0)
  | .tsum _ _ _ _ => true
  | .ttrn _ _ => true
  | .tapon _ _ => true
  | .taponR _ a => a == Src.mk 0 0
  | .tapoff => true
  | .tapoffX => true
  | .tmark _ => true
  | .reverse _ _ => true
  | .tspill _ _ => true
  | .tapst _ _ => true
  | .spld _ _ => true
  | .spldZ _ => true
  | .spst _ _ => true
  | .spw _ _ => true
  | .spu _ _ _ _ => true
  | .spd _ _ _ _ => true
  | .spmode _ _ _ => true
  | .spcvt _ _ _ _ => true
  | .spstat _ _ => true
  | .rgo _ _ _ => true
  | .rdone => true
  | .rabort => true
  | .permx _ _ _ => true
  | .peer _ _ _ => true
  | .lkey _ _ _ => true
  | .lstat _ _ => true
  | .bopen _ _ _ => true
  | .bclose _ => true
  | .bld _ _ _ => true
  | .bldR _ _ _ => true
  | .bview _ _ => true
  | .bstat _ => true
  | .once => true
  | .pfx _ => true
  | .rotationBoundary _ => true
  | .quantumExpiry _ _ => true
  | .budgetExhausted _ => true
  | .urgentWindowEnd _ => true
  | .fill _ _ => true
  | .xwrDelivery _ => true
  | .xwrWrite _ => true
  | .storeTranslate _ _ => true
  | .translatorLookupDone _ => true
  | .pageWalkRead _ _ _ => true
  | .pageWalkEnd _ _ => true
  | .storeAck _ _ => true
  | .storeNak _ _ _ => true
  | .sfqCopy _ => true
  | .remoteAccessArrival _ => true
  | .amoAtHome _ => true
  | .slotRegisterWrite _ _ _ _ => true
  | .tinvWrite _ _ _ => true
  | .csrWindowWrite _ _ _ => true
  | .invalidationArrival _ _ => true
  | .invalidationComplete _ _ => true
  | .frdAnswer _ => true
  | .launchRecord _ _ _ => true
  | .launchTakeEffect _ => true
  | .launchHeader _ _ => true
  | .start _ => true
  | .nameLookup _ _ => true
  | .nameLookupAnswer _ _ => true
  | .killArrival _ _ => true
  | .groupRelease _ => true
  | .migrationArrival _ => true
  | .migrationAnswer _ _ => true
  | .locationUpdate _ _ => true
  | .forwardExpiry _ => true
  | .quiesceStill _ => true
  | .barrierArrival _ _ => true
  | .exitDrainComplete _ => true
  | .notificationDelivery _ => true
  | .sleepExpiry _ => true
  | .detectionWave _ _ => true
  | .detectionAnswer _ _ => true
  | .offerArrival _ _ => true
  | .offerResend _ _ => true
  | .receiveAnnounce _ => true
  | .transferDataWritten _ => true
  | .sendAck _ _ => true
  | .messageEnqueue _ _ => true
  | .creditReturn _ => true
  | .wakeup _ => true
  | .peerDeleted _ => true
  | .chbindMove _ => true
  | .endpointInstall _ => true
  | .chbindAck _ _ => true
  | .trecvExpiry _ => true
  | .transferComplete _ => true
  | .streamElement _ _ => true
  | .joinRecorded _ _ _ _ _ => true
  | .mcastDelivery _ _ => true
  | .packetStomp _ _ _ => true
  | .ackTimeout _ _ => true
  | .serverAnswer _ => true
  | .droverRequest _ _ => true
  | .slicePass _ _ => true
  | .droverAccessEnd _ _ => true
  | .droverReplyRelease _ => true
  | .dispenserQuery _ _ => true
  | .dqryAnswer _ _ => true
  | .wfwServe _ _ _ _ => true
  | .deadlineArm _ => true
  | .deadlineFire _ _ => true
  | .probeStart _ _ => true
  | .probeArrival _ _ => true
  | .confirmationArrival _ _ => true
  | .reportArrival _ _ => true
  | .tetherMessageFrame _ _ => true
  | .tetherStoreFrame _ _ => true
  | .tetherLoadFrame _ _ => true
  | .tetherRefusedFrame _ _ => true
  | .tetherRetry _ => true
  | .tetherTraining _ _ _ => true
  | .attest _ _ => true
  | .health _ => true
  | .healthReplClear _ => true
  | .events _ => true
  | .counters _ => true
  | .snapshot _ => true
  | .keyput _ _ _ _ => true
  | .feature _ _ => true
  | .fenceFold _ _ => true
  | .image _ _ _ _ => true
  | .power _ _ => true
  | .killgroup _ _ _ => true
  | .imagekey _ _ _ => true
  | .powerOn _ _ _ _ => true
  | .bootComplete _ => true
  | .packageReset _ => true
  | .i3cPowerState _ _ => true
  | .powerCap _ => true
  | .throttleEnter _ _ => true
  | .throttleExit _ _ => true
  | .hardLimit _ _ => true
  | .patrolScrub _ _ _ => true
  | .snapshotLatch _ => true
  | .lifeCounterSave _ => true
  | .flitArrival _ _ => true
  | .linkAckTimeout _ => true
  | .gatewayPacketArrival _ => true
  | .linkLostTimeout _ => true
  | .regionArrival _ _ => true
  | .regionAttempt _ _ _ => true
  | .regionReceipt _ _ => true
  | .regionReturn _ _ _ => true
  | .regionReturnTimeout _ _ => true
  | .permxPair _ => true
  | .permxElement _ _ _ => true
  | .bundlePrepare _ _ => true
  | .bundlePhase2 _ _ => true
  | .bundleAck _ _ _ _ => true
  | .bldAtHome _ => true
  | .tileTransferComplete _ _ => true
  | .drainComplete _ _ => true
  | .tileOpComplete _ => true
  | .kGroupDone _ => true
  | .gangProductStart _ _ => true
  | .tileCommandArrival _ => true
  | .tileCommandAnswer _ _ => true
  | .reverseRecord _ => true
  | .spillAck _ _ => true
  | .speTreeEntry _ _ => true
  | .speRetire _ _ => true
  | .notAnInstruction _ => true
  | .vectorLoadComplete _ => true
  | .startAnswer _ _ => true
  | .peerAnswer _ _ => true
  | .keyInstalled _ _ => true
  | .linkTraining _ _ _ => true
  | .linkDown24Hours _ => true
  | .powerFailure _ => true
  | .measurementRequest _ _ _ => true

/-- An instruction is well formed. -/
abbrev Instr.WellFormed (i : Instr) : Prop := i.wf = true

end Sys2Proof
end

