-- ==== Sys2Proof/Machine/Vector.lean ====
section
/-! DEFINITION. Vector registers, masks and the vector instructions of majors 0x28 to 0x2C (09 R256 to R267). -/

namespace Sys2Proof.Machine

/-! ### Registers, lanes and masks -/

/-- Bits and number of the lanes of an element code (09 Table 9.1). -/
def laneWidth (e : BitVec 3) : Nat := Sub.laneBits e
def laneCount (e : BitVec 3) : Nat := 512 / laneWidth e

/-- The floating-point format of an element code from 4 up. -/
def laneFmt (e : BitVec 3) : Fmt :=
  match e.toNat with
  | 5 => fp64
  | 6 => bf16
  | 7 => fp16
  | _ => fp32

/-- The physical address of a vector register of a process (09 R256, R257). -/
def vregAddr (p : Proc) (v : Nat) : Nat := windowBase p.core + 0x110000 + (p.vbase + v) * 64

/-- The bytes of a vector register. -/
def State.vreg (s : State) (p : Proc) (v : Nat) : List Byte := readBytes s.mem (vregAddr p v) 64

/-- Bytes cut into little-endian numbers of n bytes. -/
def cut (n : Nat) : Nat → List Byte → List Nat
  | 0, _ => []
  | k + 1, bs => leNat (bs.take n) :: cut n k (bs.drop n)

/-- The lanes of a vector register, lane 0 first (09 R257). -/
def State.lanes (s : State) (p : Proc) (v : Nat) (e : BitVec 3) : List Nat :=
  cut (laneWidth e / 8) (laneCount e) (s.vreg p v)

/-- A vector register written from its lanes. -/
def State.putLanes (s : State) (p : Proc) (v w : Nat) (ls : List Nat) : State :=
  s.writeMem (vregAddr p v) (ls.flatMap (fun x => leBytes (w / 8) x))

/-- A mask register; m0 reads as all ones (09 R256). -/
def Proc.mask (p : Proc) (k : BitVec 3) : Word := if k = 0 then BitVec.allOnes 64 else p.masks.toList.getD k.toNat 0

/-- A mask register with a value: bits at and above n are 0 (09 R263). -/
def Proc.putMask (p : Proc) (k : BitVec 3) (n : Nat) (v : Word) : Proc :=
  { p with masks := p.masks.set! k.toNat (BitVec.ofNat 64 (v.toNat % 2 ^ n)) }

/-- Whether a mask enables a lane. -/
def enabled (m : Word) (i : Nat) : Bool := m.getLsbD i

/-- A lane as a two's complement number. -/
def laneInt (w x : Nat) : Int := if x < 2 ^ (w - 1) then (x : Int) else (x : Int) - 2 ^ w

/-- A number wrapped into a lane (09 R259). -/
def wrap (w : Nat) (x : Int) : Nat := (x % (2 ^ w : Int)).toNat

/-! ### Issue -/

/-- What precedes a vector instruction (03 R59, R60; 09 R256): the unit of c0 to c3, an allotment that holds every register named, and its
g-register sources, read with mode 0b00. -/
def State.vectorIssue (s : State) (k : Nat) (p : Proc) (vs : List Nat) (fs : List Field) (dsts : List Reg)
    (go : List Word → BitVec 16 → State) : State :=
  if !hasVtu p.core then s.illegal k
  else if p.vcount = 0 ∨ vs.any (fun v => decide (p.vcount ≤ v)) then s.raiseWord k causeAllot
  else s.issue k p fs dsts go

/-- Lanes computed where the mask enables them, with their flags; disabled lanes keep their values (09 R259). -/
def maskLanes (m : Word) (old : List Nat) (f : Nat → Nat × FlagSet) : List Nat × FlagSet :=
  let rs := old.mapIdx (fun i x => if enabled m i then f i else (x, 0))
  (rs.map Prod.fst, (rs.map Prod.snd).foldl (fun x y => x ||| y) 0)

/-- A vector instruction that computes vd lane by lane and retires (09 R259, R260). -/
def State.vectorLanes (s : State) (k : Nat) (p : Proc) (d : BitVec 5) (vs : List (BitVec 5)) (mk e : BitVec 3)
    (f : List (List Nat) → Nat → Nat → Nat × FlagSet) : State :=
  s.vectorIssue k p (d.toNat :: vs.map BitVec.toNat) [] [] (fun _ c =>
    let srcs := vs.map (fun v => s.lanes p v.toNat e)
    let old := s.lanes p d.toNat e
    let r := maskLanes (p.mask mk) old (fun i => f srcs i (old.getD i 0))
    (s.putLanes p d.toNat (laneWidth e) r.1).retireFlags k c [] r.2)

/-- Lane i of the n-th source. -/
def lane (srcs : List (List Nat)) (n i : Nat) : Nat := (srcs.getD n []).getD i 0

/-- A two-source instruction by lane: `g` for integers, `h` for floating point. -/
def State.vector2 (s : State) (k : Nat) (p : Proc) (d a b : BitVec 5) (mk e : BitVec 3)
    (g : Nat → Nat → Nat → Nat) (h : Fmt → Nat → Nat → Nat × FlagSet) : State :=
  s.vectorLanes k p d [a, b] mk e (fun srcs i _ =>
    if Sub.isInt e then (g (laneWidth e) (lane srcs 0 i) (lane srcs 1 i), 0) else h (laneFmt e) (lane srcs 0 i) (lane srcs 1 i))

/-- A one-source instruction by lane. -/
def State.vector1 (s : State) (k : Nat) (p : Proc) (d a : BitVec 5) (mk e : BitVec 3)
    (g : Nat → Nat → Nat) (h : Fmt → Nat → Nat × FlagSet) : State :=
  s.vectorLanes k p d [a] mk e (fun srcs i _ =>
    if Sub.isInt e then (g (laneWidth e) (lane srcs 0 i), 0) else h (laneFmt e) (lane srcs 0 i))

/-! ### Major 0x28 (09 Table 9.2) -/

def execVadd (d a b : BitVec 5) (mk e : BitVec 3) (s : State) :=
  onCur s (fun k p => s.vector2 k p d a b mk e (fun w x y => (x + y) % 2 ^ w) (fun f x y => f.add (rndOf p.rmode) x y))
def execVsub (d a b : BitVec 5) (mk e : BitVec 3) (s : State) :=
  onCur s (fun k p => s.vector2 k p d a b mk e (fun w x y => wrap w ((x : Int) - y)) (fun f x y => f.sub (rndOf p.rmode) x y))
def execVmul (d a b : BitVec 5) (mk e : BitVec 3) (s : State) :=
  onCur s (fun k p => s.vector2 k p d a b mk e (fun w x y => x * y % 2 ^ w) (fun f x y => f.mul (rndOf p.rmode) x y))

/-- Integers divide as DIV does (05 R113, 09 Table 9.2). -/
def laneDiv (w x y : Nat) : Nat := if y = 0 then 2 ^ w - 1 else wrap w (Int.tdiv (laneInt w x) (laneInt w y))

def execVdiv (d a b : BitVec 5) (mk e : BitVec 3) (s : State) :=
  onCur s (fun k p => s.vector2 k p d a b mk e laneDiv (fun f x y => f.div (rndOf p.rmode) x y))

/-- The lesser or greater of two signed lanes. -/
def laneMinmax (wantMax : Bool) (w x y : Nat) : Nat :=
  if (if wantMax then decide (laneInt w x < laneInt w y) else decide (laneInt w y < laneInt w x)) then y else x

def execVmin (d a b : BitVec 5) (mk e : BitVec 3) (s : State) :=
  onCur s (fun k p => s.vector2 k p d a b mk e (laneMinmax false) (fun f x y => f.minmax false x y))
def execVmax (d a b : BitVec 5) (mk e : BitVec 3) (s : State) :=
  onCur s (fun k p => s.vector2 k p d a b mk e (laneMinmax true) (fun f x y => f.minmax true x y))

/-- VABS and VNEG: integers wrap; floating point changes the sign bit only (02 R34). -/
def execVabs (d a : BitVec 5) (mk e : BitVec 3) (s : State) :=
  onCur s (fun k p => s.vector1 k p d a mk e (fun w x => wrap w (laneInt w x).natAbs) (fun f x => (x % f.signBit, 0)))
def execVneg (d a : BitVec 5) (mk e : BitVec 3) (s : State) :=
  onCur s (fun k p => s.vector1 k p d a mk e (fun w x => wrap w (-(x : Int))) (fun f x => ((x + f.signBit) % (2 * f.signBit), 0)))

def execVsqrt (d a : BitVec 5) (mk e : BitVec 3) (s : State) :=
  onCur s (fun k p => s.vector1 k p d a mk e (fun _ x => x) (fun f x => f.sqrt (rndOf p.rmode) x))
def execVrsq (d a : BitVec 5) (mk : BitVec 3) (s : State) :=
  onCur s (fun k p => s.vector1 k p d a mk 4 (fun _ x => x) (fun f x => f.rsqrt (rndOf p.rmode) (f.decode x)))
def execVexp2 (d a : BitVec 5) (mk : BitVec 3) (s : State) :=
  onCur s (fun k p => s.vector1 k p d a mk 4 (fun _ x => x) (fun f x => f.exp2 (rndOf p.rmode) (f.decode x)))
def execVlog2 (d a : BitVec 5) (mk : BitVec 3) (s : State) :=
  onCur s (fun k p => s.vector1 k p d a mk 4 (fun _ x => x) (fun f x => f.log2 (rndOf p.rmode) (f.decode x)))

/-- A sum of two exact products, rounded once (09 R261, 02 R46): x * y + u * v. -/
def Fmt.dot2 (f : Fmt) (mode : Rnd) (ftz : Bool) (x y u v : FVal) : Nat × FlagSet :=
  let p := x.mulExact y
  let q := u.mulExact v
  let r := f.addVals mode ftz p.1 q.1
  (r.1, r.2 ||| p.2 ||| q.2 ||| sigFlags [x, y, u, v])

/-- The real and imaginary parts of a complex product (09 R261). -/
def complexMul (mode : Rnd) (ftz : Bool) (ar ai br bi : FVal) : (Nat × FlagSet) × (Nat × FlagSet) :=
  (fp32.dot2 mode ftz ar br ai.negate bi, fp32.dot2 mode ftz ar bi ai br)

/-- VCMUL (09 R261): the mask bit of the even lane enables the pair. -/
def execVcmul (d a b : BitVec 5) (mk : BitVec 3) (s : State) :=
  onCur s (fun k p =>
    let m := p.mask mk
    let pairMask : Word := BitVec.ofNat 64 (((List.range 16).map (fun i => if m.getLsbD (i / 2 * 2) then 2 ^ i else 0)).foldl (fun x y => x + y) 0)
    s.vectorIssue k p [d.toNat, a.toNat, b.toNat] [] [] (fun _ c =>
      let x := s.lanes p a.toNat 4
      let y := s.lanes p b.toNat 4
      let v (l : List Nat) (i : Nat) : FVal := fp32.decode (l.getD i 0)
      let r := maskLanes pairMask (s.lanes p d.toNat 4) (fun i =>
        let j := i / 2 * 2
        let z := complexMul (rndOf p.rmode) false (v x j) (v x (j + 1)) (v y j) (v y (j + 1))
        if i % 2 = 0 then z.1 else z.2)
      (s.putLanes p d.toNat 32 r.1).retireFlags k c [] r.2))

/-- A bitwise instruction on lanes of any type. -/
def State.vectorBits (s : State) (k : Nat) (p : Proc) (d a b : BitVec 5) (mk e : BitVec 3) (g : Nat → Nat → Nat) : State :=
  s.vectorLanes k p d [a, b] mk e (fun srcs i _ => (g (lane srcs 0 i) (lane srcs 1 i), 0))

def execVand (d a b : BitVec 5) (mk e : BitVec 3) (s : State) := onCur s (fun k p => s.vectorBits k p d a b mk e (fun x y => x &&& y))
def execVor (d a b : BitVec 5) (mk e : BitVec 3) (s : State) := onCur s (fun k p => s.vectorBits k p d a b mk e (fun x y => x ||| y))
def execVxor (d a b : BitVec 5) (mk e : BitVec 3) (s : State) := onCur s (fun k p => s.vectorBits k p d a b mk e (fun x y => x ^^^ y))
def execVshl (d a b : BitVec 5) (mk e : BitVec 3) (s : State) :=
  onCur s (fun k p => s.vectorBits k p d a b mk e (fun x y => x * 2 ^ (y % laneWidth e) % 2 ^ laneWidth e))
def execVshr (d a b : BitVec 5) (mk e : BitVec 3) (s : State) :=
  onCur s (fun k p => s.vectorBits k p d a b mk e (fun x y => x / 2 ^ (y % laneWidth e)))
def execVsra (d a b : BitVec 5) (mk e : BitVec 3) (s : State) :=
  onCur s (fun k p => s.vectorBits k p d a b mk e (fun x y => wrap (laneWidth e) ((laneInt (laneWidth e) x).fdiv (2 ^ (y % laneWidth e)))))

/-! ### Major 0x29 (09 R262) -/

/-- va * vb + vd, or minus vd: one rounding, or the low bits. -/
def State.vectorFused (s : State) (k : Nat) (p : Proc) (d a b : BitVec 5) (mk e : BitVec 3) (negC : Bool) : State :=
  s.vectorLanes k p d [a, b] mk e (fun srcs i z =>
    let x := lane srcs 0 i
    let y := lane srcs 1 i
    if Sub.isInt e then (wrap (laneWidth e) ((x : Int) * y + (if negC then -(z : Int) else z)), 0)
    else (laneFmt e).fma (rndOf p.rmode) false negC x y z)

def execVfma (d a b : BitVec 5) (mk e : BitVec 3) (s : State) := onCur s (fun k p => s.vectorFused k p d a b mk e false)
def execVfms (d a b : BitVec 5) (mk e : BitVec 3) (s : State) := onCur s (fun k p => s.vectorFused k p d a b mk e true)

/-! ### Major 0x2A (09 Table 9.3) -/

/-- A comparison: 0 eq, 1 lt, 2 le, 3 ne (09 Table 9.3). -/
def laneCompare (c : BitVec 2) (e : BitVec 3) (x y : Nat) : Bool × FlagSet :=
  if Sub.isInt e then
    let i := laneInt (laneWidth e) x
    let j := laneInt (laneWidth e) y
    (match c.toNat with
     | 0 => decide (i = j)
     | 1 => decide (i < j)
     | 2 => decide (i ≤ j)
     | _ => decide (i ≠ j), 0)
  else
    let f := laneFmt e
    match c.toNat with
    | 0 => f.feq x y
    | 1 => f.flt false x y
    | 2 => f.flt true x y
    | _ => let r := f.feq x y; (!r.1, r.2)

/-- VCMP: disabled lanes keep their bits of md; bits beyond the lanes are 0 (09 R263). -/
def execVcmp (cc : BitVec 2) (md : BitVec 3) (a b : BitVec 5) (mk e : BitVec 3) (s : State) :=
  onCur s (fun k p => s.vectorIssue k p [a.toNat, b.toNat] [] [] (fun _ c =>
    let n := laneCount e
    let x := s.lanes p a.toNat e
    let y := s.lanes p b.toNat e
    let rs := (List.range n).map (fun i =>
      if enabled (p.mask mk) i then laneCompare cc e (x.getD i 0) (y.getD i 0) else ((p.mask md).getLsbD i, 0))
    let v := ((rs.mapIdx (fun i r => if r.1 then 2 ^ i else 0)).foldl (fun x y => x + y) 0)
    let fl := (rs.map Prod.snd).foldl (fun x y => x ||| y) 0
    (s.putProc k (p.putMask md n (BitVec.ofNat 64 v))).retireFlags k c [] fl))

/-- VSEL: the mask selects between va and vb in every lane. -/
def execVsel (d a b : BitVec 5) (mk e : BitVec 3) (s : State) :=
  onCur s (fun k p => s.vectorLanes k p d [a, b] 0 e (fun srcs i _ =>
    (if enabled (p.mask mk) i then lane srcs 0 i else lane srcs 1 i, 0)))

/-- MSET (09 Table 9.3). -/
def execMset (md : BitVec 3) (a : Reg) (s : State) :=
  onCur s (fun k p => s.vectorIssue k p [] [plainField a 0] [] (fun vals c =>
    (s.putProc k (p.putMask md 64 (vals.getD 0 0))).retire k c []))

/-- MSET.R: m0 gives all ones. -/
def execMsetR (d : Reg) (ma : BitVec 3) (s : State) :=
  onCur s (fun k p => s.vectorIssue k p [] [] [d] (fun _ c => s.retire k c [(d, p.mask ma)]))

/-- A mask computed from masks. -/
def State.maskOp (s : State) (k : Nat) (p : Proc) (md : BitVec 3) (v : Word) : State :=
  s.vectorIssue k p [] [] [] (fun _ c => (s.putProc k (p.putMask md 64 v)).retire k c [])

def execMand (md a b : BitVec 3) (s : State) := onCur s (fun k p => s.maskOp k p md (p.mask a &&& p.mask b))
def execMor (md a b : BitVec 3) (s : State) := onCur s (fun k p => s.maskOp k p md (p.mask a ||| p.mask b))
def execMnot (md a : BitVec 3) (s : State) := onCur s (fun k p => s.maskOp k p md (~~~(p.mask a)))

/-! ### Conversions (09 R264, R265) -/

/-- The floating-point format of a code of Table 2.1; FP32 for the codes that are not floating point. -/
def codeFmt (c : Nat) : Fmt :=
  match c with
  | 0x1 => bf16
  | 0x2 => fp16
  | 0x3 => fp8e4m3
  | 0x4 => fp8e5m2
  | 0x5 => fp4e2m1
  | 0xA => fp64
  | _ => fp32

/-- Whether a format code is an integer's, and its bits (02 Table 2.1). -/
def codeInt (c : Nat) : Option Nat :=
  match c with
  | 0x7 => some 8
  | 0x8 => some 32
  | 0xB => some 64
  | _ => none

/-- The rounding of one element of a conversion under RMODE, given the seed after its step; stochastic rounding applies to the
destinations BF16, E4M3, E5M2, E2M1 and MK8 (02 R35, R36). -/
def srDest (c : Nat) : Bool := c == 1 || (decide (3 ≤ c) && decide (c ≤ 6))
def elemRnd (rmode c : Nat) (seed : BitVec 32) : Rnd := if rmode = 5 ∧ srDest c then .sr seed.toNat else rndOf rmode

/-- A value rounded to an element of a format code, FP8 to MK8 included (02 R34, R37, R38). -/
def codeRound (c : Nat) (mode : Rnd) (ftz nov : Bool) (v : FVal) : Nat × FlagSet :=
  match codeInt c with
  | some n => let r := v.toInteger n mode; (wrap n r.1, r.2)
  | none => if c = 6 then mk8OfVal mode nov false v else (codeFmt c).ofVal mode ftz nov false v

/-- One converted lane: from an element code to a format code (09 R264). -/
def laneConvert (e : BitVec 3) (c : Nat) (mode : Rnd) (x : Nat) : Nat × FlagSet :=
  if Sub.isInt e then
    let v := laneInt (laneWidth e) x
    match codeInt c with
    | some n =>
      if v < -(2 ^ (n - 1) : Int) then (wrap n (-(2 ^ (n - 1) : Int)), flagNV)
      else if (2 ^ (n - 1) : Int) ≤ v then (wrap n (2 ^ (n - 1) - 1 : Int), flagNV)
      else (wrap n v, 0)
    | none => (codeFmt c).ofInteger mode v
  else codeRound c mode false false ((laneFmt e).decode x)

/-- Elements converted in ascending order, each after a step of the seed where stochastic rounding applies (02 R36): for each, whether it is
converted, and its old value and conversion. -/
def convertAll (rmode c : Nat) : BitVec 32 → List (Option (Rnd → Nat × FlagSet) × Nat) → List Nat × FlagSet × BitVec 32
  | seed, [] => ([], 0, seed)
  | seed, (none, old) :: xs =>
    let r := convertAll rmode c seed xs
    (old :: r.1, r.2.1, r.2.2)
  | seed, (some f, _) :: xs =>
    let z := if rmode = 5 ∧ srDest c then stepSeed seed else seed
    let y := f (elemRnd rmode c z)
    let r := convertAll rmode c z xs
    (y.1 :: r.1, r.2.1 ||| y.2, r.2.2)

/-- VCVT (09 R264). -/
def execVcvt (d a : BitVec 5) (h : BitVec 1) (f : BitVec 4) (mk e : BitVec 3) (s : State) :=
  onCur s (fun k p => s.vectorIssue k p [d.toNat, a.toNat] [] [] (fun _ c =>
    let ns := laneCount e
    let w := Sub.formatBits f
    let nd := 512 / w
    let src := s.lanes p a.toNat e
    let old := cut (w / 8) nd (s.vreg p d.toNat)
    -- the source lane of a destination lane
    let from_ (i : Nat) : Option Nat :=
      if nd = ns then some i
      else if ns < nd then (if h.toNat * ns ≤ i ∧ i < h.toNat * ns + ns then some (i - h.toNat * ns) else none)
      else some (h.toNat * nd + i)
    let r := convertAll p.rmode f.toNat p.srseed (old.mapIdx (fun i x =>
      match (if enabled (p.mask mk) i then from_ i else none) with
      | some j => (some (fun m => laneConvert e f.toNat m (src.getD j 0)), x)
      | none => (none, x)))
    ((s.putLanes p d.toNat w r.1).modProc k (fun q => { q with srseed := r.2.2 })).retireFlags k c [] r.2.1))

/-! ### Block quantisation (02 R41, R42) -/

/-- The largest finite value of a block format: 448, 57,344, 6 or 64. -/
def blockMax (c : Nat) : Nat :=
  match c with
  | 3 => 448
  | 4 => 57344
  | 5 => 6
  | _ => 64

/-- The canonical NaN of a block format. -/
def blockNan (c : Nat) : Nat := if c = 6 then 0x80 else (codeFmt c).nan

/-- Whether a magnitude is at most M * 2^s. -/
def fitsScale (x : Dy) (m : Nat) (sc : Int) : Bool := !(Dy.lt ⟨m, sc⟩ ⟨x.m.natAbs, x.e⟩)

/-- The scale of a block (02 R41 BlockScale), with its flags. -/
def blockScale (c : Nat) (xs : List FVal) : Nat × FlagSet :=
  if xs.any (fun x => x.isNan || x.isInf) then (0xFF, flagNV)
  else
    match ((List.range 255).map (fun (i : Nat) => (i : Int) - 127)).find? (fun sc => xs.all (fun x => fitsScale x.dy (blockMax c) sc)) with
    | some sc => ((sc + 127).toNat, 0)
    | none => (254, 0)

/-- A value times a power of two. -/
def FVal.scaleBy (v : FVal) (k : Int) : FVal :=
  match v with
  | .fin n m e => .fin n m (e + k)
  | w => w

/-- The conversion of one element of a block (02 R41 Quantise). -/
def blockElem (c scale : Nat) (nov : Bool) (v : FVal) (mode : Rnd) : Nat × FlagSet :=
  if scale = 0xFF then (blockNan c, 0) else codeRound c mode false nov (v.scaleBy (127 - (scale : Int)))

/-- A decoded element of a block format times its scale (02 R42): no NaN that it gives is signalling, whatever its code. -/
def blockDecode (c scale x : Nat) : FVal :=
  if scale = 0xFF then .nan false
  else
    match if c = 6 then mk8Decode x else (codeFmt c).decode x with
    | .nan _ => .nan false
    | v => v.scaleBy ((scale : Int) - 127)

/-- The codes of a packed block of 32 elements (02 R33). -/
def unpackBlock (c : Nat) (bs : List Byte) : List Nat :=
  if c = 5 then (List.range 32).map (fun i => (bs.getD (i / 2) 0).toNat / 16 ^ (i % 2) % 16)
  else (bs.take 32).map BitVec.toNat

/-- The bytes of 32 element codes (02 R33). -/
def packBlock (c : Nat) (qs : List Nat) : List Byte :=
  if c = 5 then (List.range (qs.length / 2)).map (fun i => BitVec.ofNat 8 (qs.getD (2 * i) 0 + 16 * qs.getD (2 * i + 1) 0))
  else qs.map (BitVec.ofNat 8)

/-- The registers that 32 values of an element code take: a pair for FP32, one for BF16 (09 R265). -/
def blockRegs (e : BitVec 3) (v : BitVec 5) : List Nat := if e = 4 then [v.toNat, v.toNat + 1] else [v.toNat]

/-- VQNT (09 R265). -/
def execVqnt (d a : BitVec 5) (nov : BitVec 1) (f : BitVec 4) (e : BitVec 3) (s : State) :=
  onCur s (fun k p => s.vectorIssue k p (d.toNat :: blockRegs e a) [] [] (fun _ c =>
    let xs := (blockRegs e a).flatMap (fun v => (s.lanes p v e).map (laneFmt e).decode)
    let sc := blockScale f.toNat xs
    let r := convertAll p.rmode f.toNat p.srseed (xs.map (fun v => (some (blockElem f.toNat sc.1 (nov = 1) v), 0)))
    let bs := packBlock f.toNat r.1
    let out := bs ++ List.replicate (32 - bs.length) 0 ++ [BitVec.ofNat 8 sc.1] ++ List.replicate 31 0
    ((s.writeMem (vregAddr p d.toNat) out).modProc k (fun q => { q with srseed := r.2.2 })).retireFlags k c [] (r.2.1 ||| sc.2)))

/-- VDQN (09 R265): under SR it rounds by RNE and leaves the seed (R259). -/
def execVdqn (d a : BitVec 5) (f : BitVec 4) (e : BitVec 3) (s : State) :=
  onCur s (fun k p => s.vectorIssue k p (a.toNat :: blockRegs e d) [] [] (fun _ c =>
    let bs := s.vreg p a.toNat
    let scale := (bs.getD 32 0).toNat
    let code := if e = 4 then 0 else 1
    let r := (unpackBlock f.toNat bs).map (fun q => codeRound code (rndOf p.rmode) false false (blockDecode f.toNat scale q))
    let n := laneCount e
    let t := (blockRegs e d).foldl (fun t v => t.putLanes p v (laneWidth e) (((r.map Prod.fst).drop ((v - d.toNat) * n)).take n)) s
    t.retireFlags k c [] ((r.map Prod.snd).foldl (fun x y => x ||| y) 0)))

/-! ### Major 0x2C (09 R266, R267) -/

/-- The operation of VRED and VSCAN: 0 sum, 1 min, 2 max. -/
def reduceOp (o : BitVec 2) (e : BitVec 3) (mode : Rnd) (x y : Nat) : Nat × FlagSet :=
  if Sub.isInt e then
    (match o.toNat with
     | 0 => (x + y) % 2 ^ laneWidth e
     | 1 => laneMinmax false (laneWidth e) x y
     | _ => laneMinmax true (laneWidth e) x y, 0)
  else
    match o.toNat with
    | 0 => (laneFmt e).add mode x y
    | 1 => (laneFmt e).minmax false x y
    | _ => (laneFmt e).minmax true x y

/-- The identity of an operation (02 R47). -/
def reduceUnit (o : BitVec 2) (e : BitVec 3) : Nat :=
  let w := laneWidth e
  if Sub.isInt e then
    match o.toNat with
    | 0 => 0
    | 1 => 2 ^ (w - 1) - 1
    | _ => 2 ^ (w - 1)
  else
    match o.toNat with
    | 0 => (laneFmt e).signBit
    | 1 => (laneFmt e).infMag
    | _ => (laneFmt e).code true (laneFmt e).infMag

/-- One level of the tree: adjacent pairs (02 R47). -/
def reduceLevel (op : Nat → Nat → Nat × FlagSet) : List Nat → List Nat × FlagSet
  | x :: y :: r =>
    let z := op x y
    let t := reduceLevel op r
    (z.1 :: t.1, z.2 ||| t.2)
  | l => (l, 0)

/-- The tree of R47 over 2^n lanes. -/
def reduceTree (op : Nat → Nat → Nat × FlagSet) : Nat → List Nat → FlagSet → Nat × FlagSet
  | 0, l, fl => (l.headD 0, fl)
  | n + 1, l, fl =>
    let r := reduceLevel op l
    reduceTree op n r.1 (fl ||| r.2)

/-- A lane as a g register receives it (09 R266): integers sign-extended, floating point in the low bits. -/
def laneWord (e : BitVec 3) (x : Nat) : Word :=
  if Sub.isInt e then BitVec.ofInt 64 (laneInt (laneWidth e) x) else BitVec.ofNat 64 x

/-- VRED (09 R266): gd is empty from issue and filled 8 cycles after. -/
def execVred (d : Reg) (a : BitVec 5) (o : BitVec 2) (mk e : BitVec 3) (s : State) :=
  onCur s (fun k p =>
    s.vectorIssue k p [a.toNat] [] (if d = 0 then [] else [d]) (fun _ c =>
      if d ≠ 0 ∧ 3 ≤ (p.cell d).out then s.park k (.reg d.toNat)
      else
        let xs := (s.lanes p a.toNat e).mapIdx (fun i x => if enabled (p.mask mk) i then x else reduceUnit o e)
        let r := reduceTree (reduceOp o e (rndOf p.rmode)) (laneCount e).log2 xs 0
        if d = 0 then s.retireFlags k c [] r.2
        else ((s.produce k d).after 8 (.fill (p.dest d) (laneWord e r.1))).retireFlags k c [] r.2))

/-- The steps of VSCAN (09 Table 9.4). -/
def scanLanes (op : Nat → Nat → Nat × FlagSet) (m : Word) : Nat → Nat → List (Nat × Nat) → List Nat × FlagSet
  | _, _, [] => ([], 0)
  | i, acc, (x, old) :: r =>
    if enabled m i then
      let z := op acc x
      let t := scanLanes op m (i + 1) z.1 r
      (z.1 :: t.1, z.2 ||| t.2)
    else
      let t := scanLanes op m (i + 1) acc r
      (old :: t.1, t.2)

def execVscan (d a : BitVec 5) (o : BitVec 2) (mk e : BitVec 3) (s : State) :=
  onCur s (fun k p => s.vectorIssue k p [d.toNat, a.toNat] [] [] (fun _ c =>
    let r := scanLanes (reduceOp o e (rndOf p.rmode)) (p.mask mk) 0 (reduceUnit o e) ((s.lanes p a.toNat e).zip (s.lanes p d.toNat e))
    (s.putLanes p d.toNat (laneWidth e) r.1).retireFlags k c [] r.2))

/-- VPERM: the index is read as unsigned, modulo the lanes. -/
def execVperm (d a b : BitVec 5) (mk e : BitVec 3) (s : State) :=
  onCur s (fun k p => s.vectorLanes k p d [a, b] mk e (fun srcs i _ => (lane srcs 0 (lane srcs 1 i % laneCount e), 0)))

/-- VBCAST. -/
def execVbcast (d : BitVec 5) (a : Reg) (mk e : BitVec 3) (s : State) :=
  onCur s (fun k p => s.vectorIssue k p [d.toNat] [plainField a 0] [] (fun vals c =>
    let r := maskLanes (p.mask mk) (s.lanes p d.toNat e) (fun _ => ((vals.getD 0 0).toNat % 2 ^ laneWidth e, 0))
    (s.putLanes p d.toNat (laneWidth e) r.1).retire k c []))

/-- VMOVG. -/
def execVmovg (d : Reg) (a : BitVec 5) (b : Reg) (e : BitVec 3) (s : State) :=
  onCur s (fun k p => s.vectorIssue k p [a.toNat] [plainField b 1] [d] (fun vals c =>
    s.retire k c [(d, laneWord e ((s.lanes p a.toNat e).getD ((vals.getD 0 0).toNat % laneCount e) 0))]))

/-- VMOVV. -/
def execVmovv (d : BitVec 5) (a b : Reg) (e : BitVec 3) (s : State) :=
  onCur s (fun k p => s.vectorIssue k p [d.toNat] [plainField a 0, plainField b 1] [] (fun vals c =>
    let i := (vals.getD 1 0).toNat % laneCount e
    (s.putLanes p d.toNat (laneWidth e) ((s.lanes p d.toNat e).set i ((vals.getD 0 0).toNat % 2 ^ laneWidth e))).retire k c []))

end Sys2Proof.Machine
end

