-- ==== Sys2Proof/Machine/Frame.lean ====
section
/-! DEFINITION. The repeat frame VREP, major 0x2E (03 R56; 09 R271, R272). -/

namespace Sys2Proof.Machine

/-- A field of five bits of a word. -/
def field5 (w lo : Nat) : Nat := w / 2 ^ lo % 32

/-- Which of vd, va and vb name vector registers in a word that VREP may capture (09 R271, Tables 9.2 and 9.3): not the reserved vb of
the unary functions, nor masks, g registers or format codes. -/
def strided (w : Nat) : Bool × Bool × Bool :=
  let fn := w / 2 ^ 3 % 32
  match w / 2 ^ 26 with
  | 0x28 => (true, true, !(decide (6 ≤ fn) && decide (fn ≤ 11)))
  | 0x29 => (true, true, true)
  | 0x2A => if fn = 0 then (false, true, true) else if fn = 1 then (true, true, true) else (false, false, false)
  | 0x2B => (true, true, false)
  | _ => (false, false, false)

/-- The vd, va and vb of a captured word in a replay (09 R271). -/
def replayFields (frame : IWord) (w j : Nat) : Nat × Nat × Nat :=
  let u := strided w
  let f (on : Bool) (lo st : Nat) : Nat := field5 w lo + (if on then j * field5 frame.toNat st else 0)
  (f u.1 21 11, f u.2.1 16 6, f u.2.2 11 1)

/-- A captured word with its fields moved on, each modulo 32. -/
def replayWord (frame : IWord) (w j : Nat) : Nat :=
  let f := replayFields frame w j
  w / 2 ^ 26 * 2 ^ 26 + f.1 % 32 * 2 ^ 21 + f.2.1 % 32 * 2 ^ 16 + f.2.2 % 32 * 2 ^ 11 + w % 2 ^ 11

/-- The captured word a process is at. -/
def Proc.capturedWord (p : Proc) : Nat := (p.vrep.getD p.vword 0).toNat

/-- Whether a stride has taken a field of the captured word above 31 (09 R271). -/
def Proc.strideOver (p : Proc) : Bool :=
  let f := replayFields p.vrepWord p.capturedWord p.vrepn
  p.vact && (decide (32 ≤ f.1) || decide (32 ≤ f.2.1) || decide (32 ≤ f.2.2))

/-- The captured words of a VREP word. -/
def frameWords (w : IWord) : Nat := w.toNat / 2 ^ 22 % 16 + 1

/-- Where the VREP word of an open frame stands: PC - 4 * (VWORD + 1) (09 R272). -/
def Proc.framePc (p : Proc) : BitVec 16 := p.pc - BitVec.ofNat 16 (4 * (p.vword + 1))

/-- Whether a word is a VREP word (03 Table 3.15). -/
def isVrep (w : Nat) : Bool := w / 2 ^ 26 == 0x2E && w % 2 == 0

/-- A frame that is taken up again (09 R272): the word before the captured ones gives the replays and strides, the captured copy the words. -/
def Proc.resumeFrame (p : Proc) (w : Nat) : Proc :=
  { p with vcheck := false, vrepWord := BitVec.ofNat 32 w,
           vrep := (p.vrep ++ List.replicate 16 0).take (frameWords (BitVec.ofNat 32 w)) }

/-- VREP (03 R56, 09 R271): the words that follow are captured, and the first of them is executed next. -/
def execVrep (w : BitVec 4) (r : BitVec 6) (sd sa sb : BitVec 5) (s : State) :=
  onCur s (fun k p =>
    let ws := (List.range (w.toNat + 1)).map (fun i => s.istoreWord p.core (p.pc + BitVec.ofNat 16 (4 * (i + 1))))
    if p.prefixed ≠ 0 then s.illegal k
    else
      match (if hasVtu p.core then ws.find? (fun x => !(decide (0x28 ≤ x / 2 ^ 26) && decide (x / 2 ^ 26 ≤ 0x2B))) else none) with
      | some x => s.raise k causeIllegal (BitVec.ofNat 64 x)
      | none =>
        s.vectorIssue k p [] [] [] (fun _ _ =>
          match (List.range (w.toNat + 1)).find? (fun i =>
              s.poisoned (windowBase p.core + 0x120000 + (p.pc + BitVec.ofNat 16 (4 * (i + 1))).toNat) 4) with
          | some i => s.raise k causeLoadFault (zext (p.pc + BitVec.ofNat 16 (4 * (i + 1))))
          | none =>
            s.putProc k { p.endGroup with
              vact := true, vcheck := false, vword := 0, vrepn := 0, pc := p.pc + 4,
              vrep := ws.map (BitVec.ofNat 32),
              vrepWord := BitVec.ofNat 32 (0x2E * 2 ^ 26 + w.toNat * 2 ^ 22 + r.toNat * 2 ^ 16 + sd.toNat * 2 ^ 11 +
                sa.toNat * 2 ^ 6 + sb.toNat * 2) }))

end Sys2Proof.Machine
end

