-- ==== Sys2Proof/Machine/TileArith.lean ====
section
/-! DEFINITION. The arithmetic of the tile side: layouts, elements, the sums of products, draining and the elementwise functions (02
R40 to R46; 09 R274, R288 to R298). -/

namespace Sys2Proof.Machine

/-! ### Layouts (09 R274) -/

/-- Whether a format is block-scaled (02 Table 2.1). -/
def isScaled (f : Nat) : Bool := decide (3 ≤ f) && decide (f ≤ 6)

/-- The bytes of the rows from the first byte of row 0 to the last of the last row. -/
def laySpan (w : Word) : Nat := (layRows w - 1) * layStep w + layRowBytes w

/-- The bytes of a tile's scale array: one for each block of 32 elements (09 R275). -/
def layScales (w : Word) : Nat := if isScaled (layFormat w) then layRows w * (layCols w / 32) else 0

/-- The bytes of a tile's rows. -/
def layBytes (w : Word) : Nat := layRows w * layRowBytes w

/-- A valid layout word (09 R274). -/
def layoutOk (w : Word) : Bool :=
  let bits := layCols w * formatBits (layFormat w)
  let st := w.toNat / 2 ^ 32 % 2 ^ 14 * 16
  decide (layCols w ≤ 1024) && decide (layFormat w ≤ 9) && decide (bits % 128 = 0) && decide (bits / 8 ≤ 4096) &&
  (!isScaled (layFormat w) || decide (layCols w % 32 = 0)) &&
  (decide (st = 0) || decide (layRowBytes w ≤ st)) && decide (w.toNat % 2 ^ 32 = 0)

/-! ### Elements -/

/-- The value of an element of a format code, but for CF32 (02 R24 to R33). -/
def decodeElem (f x : Nat) : FVal :=
  match codeInt f with
  | some n => let v := laneInt n x; .fin (decide (v < 0)) v.natAbs 0
  | none => if f = 6 then mk8Decode x else (codeFmt f).decode x

/-- The value of an operand under DAZ (02 R40). -/
def operandElem (f : Nat) (daz : Bool) (x : Nat) : FVal :=
  match codeInt f with
  | some _ => decodeElem f x
  | none => if f = 6 then decodeElem f x else (codeFmt f).daz daz (decodeElem f x)

/-- The n element codes of a row; two codes of E2M1 share a byte, the even one low (02 R33). -/
def rowElems (f n : Nat) (bs : List Byte) : List Nat :=
  if f = 5 then (List.range n).map (fun i => (bs.getD (i / 2) 0).toNat / 16 ^ (i % 2) % 16) else cut (formatBits f / 8) n bs

/-- The bytes of a row of element codes. -/
def rowBytes (f : Nat) (xs : List Nat) : List Byte :=
  if f = 5 then packBlock 5 xs else xs.flatMap (fun x => leBytes (formatBits f / 8) x)

/-- A block-scaled element with its scale (02 R42). -/
def scaledElem (f scale x : Nat) : FVal := blockDecode f scale x

/-- The elements of a row as exact values, with scales where the format has them (02 R42, 09 R279). -/
def rowValues (f n : Nat) (daz : Bool) (bs scales : List Byte) : List FVal :=
  (rowElems f n bs).mapIdx (fun i x => if isScaled f then scaledElem f (scales.getD (i / 32) 0).toNat x else operandElem f daz x)

/-- Whether a code of a tile or bank element is a NaN; a CF32 code is one if either part is. -/
def codeIsNan (f x : Nat) : Bool :=
  if f = 9 then (fp32.decode (x % 2 ^ 32)).isNan || (fp32.decode (x / 2 ^ 32)).isNan else (decodeElem f x).isNan

/-! ### Sums of products (02 R43 to R45) -/

/-- A sum of exact values that has no rounding yet (02 R44, R406): NaN and NV as R44 gives them for products `ps`. -/
def exactSum (ps : List FVal) : FVal × FlagSet :=
  let pos := ps.any (fun p => p == .inf false)
  let neg := ps.any (fun p => p == .inf true)
  if pos && neg then (.nan false, flagNV)
  else if ps.any FVal.isNan then (.nan false, 0)
  else if pos || neg then (.inf neg, 0)
  else
    let t := Dy.sum (ps.map FVal.dy)
    (.fin (if t.m = 0 then zeroSign .rne ps else decide (t.m < 0)) t.m.natAbs t.e, 0)

/-- One k-group of products (02 R43, R44): the exact sum times 2^k, NaN where a scale is 0xFF. -/
def groupSum (xs ys : List FVal) (k : Int) (bad : Bool) : FVal × FlagSet :=
  let ms := List.zipWith FVal.mulExact xs ys
  let fl := (ms.map Prod.snd).foldl (fun x y => x ||| y) (sigFlags xs ||| sigFlags ys)
  let r := exactSum (ms.map Prod.fst)
  if bad then (.nan false, fl ||| r.2) else (r.1.scaleBy k, fl ||| r.2)

/-- An accumulator value with a k-group sum added (02 R43, R40). -/
def accumulate (ftz daz : Bool) (c : Nat) (sum : FVal) : Nat × FlagSet :=
  let p := fp32.ofVal .rne ftz false false sum
  let r := fp32.addVals .rne ftz (fp32.daz daz (fp32.decode c)) (fp32.decode p.1)
  (r.1, p.2 ||| r.2)

/-- An INT32 accumulator with an INT8 group's sum added: saturating, with OF (02 R45). -/
def accumulateInt (c : Nat) (sum : Int) : Nat × FlagSet :=
  let v := laneInt 32 c + sum
  if v < -(2 ^ 31 : Int) then (2 ^ 31, flagOF) else if (2 ^ 31 : Int) ≤ v then (2 ^ 31 - 1, flagOF) else (wrap 32 v, 0)

/-- The lowest k of a group at which the sum became a NaN (09 Table 9.16): a NaN operand or 0 times infinity; the group's first k for a
0xFF scale and for any other cause. -/
def nanIndex (xs ys : List FVal) (bad : Bool) (base : Nat) : Nat :=
  if bad then base
  else base + ((List.zip xs ys).findIdx? (fun p => (p.1.mulExact p.2).1.isNan)).getD 0

/-! ### CF32 (02 R46) -/

/-- One FP32 addition or subtraction of Comp under FTZ and DAZ. -/
def compAdd (ftz daz : Bool) (x y : Nat) : Nat × FlagSet :=
  fp32.addVals .rne ftz (fp32.daz daz (fp32.decode x)) (fp32.daz daz (fp32.decode y))
def compSub (ftz daz : Bool) (x y : Nat) : Nat × FlagSet := compAdd ftz daz x ((y + 2 ^ 31) % 2 ^ 32)

/-- Whether |x| is at least |y|, neither a NaN. -/
def absGe (x y : FVal) : Bool :=
  match x, y with
  | .inf _, _ => true
  | _, .inf _ => false
  | .fin _ m e, .fin _ l d => !(Dy.lt ⟨m, e⟩ ⟨l, d⟩)
  | _, _ => false

/-- Comp of R46: S and C after x is added, and the flags. -/
def comp (ftz daz : Bool) (sv cv x : Nat) : (Nat × Nat) × FlagSet :=
  let t := compAdd ftz daz sv x
  if !(fp32.decode t.1).isFinite then ((t.1, 0), t.2)
  else
    let d (v : Nat) : FVal := fp32.daz daz (fp32.decode v)
    let big := absGe (d sv) (d x)
    let u := if big then compSub ftz daz sv t.1 else compSub ftz daz x t.1
    let w := compAdd ftz daz u.1 (if big then x else sv)
    let c := compAdd ftz daz cv w.1
    ((t.1, c.1), t.2 ||| u.2 ||| w.2 ||| c.2)

/-- The parts of a CF32 code: the real part low (02 R30). -/
def cfRe (x : Nat) : Nat := x % 2 ^ 32
def cfIm (x : Nat) : Nat := x / 2 ^ 32 % 2 ^ 32

/-- One step of CMMA (02 R46) on the four words S.re, C.re, S.im, C.im. -/
def cmmaStep (ftz daz : Bool) (acc : List Nat) (a b : Nat) : List Nat × FlagSet :=
  let d (v : Nat) : FVal := fp32.daz daz (fp32.decode v)
  let z := complexMul .rne ftz (d (cfRe a)) (d (cfIm a)) (d (cfRe b)) (d (cfIm b))
  let r := comp ftz daz (acc.getD 0 0) (acc.getD 1 0) z.1.1
  let i := comp ftz daz (acc.getD 2 0) (acc.getD 3 0) z.2.1
  ([r.1.1, r.1.2, i.1.1, i.1.2], z.1.2 ||| z.2.2 ||| r.2 ||| i.2)

/-! ### Draining (09 R294) -/

/-- A bank element drained to a format: FP32 and INT32 by one rounding, RNE with FTZ; `xs` are the words of the element. -/
def drainElem (acc f : Nat) (ftz : Bool) (xs : List Nat) : Nat × FlagSet :=
  match acc with
  | 9 =>
    let r := compAdd ftz false (xs.getD 0 0) (xs.getD 1 0)
    let i := compAdd ftz false (xs.getD 2 0) (xs.getD 3 0)
    (r.1 + i.1 * 2 ^ 32, r.2 ||| i.2)
  | 8 =>
    if f = 7 then
      let r := (decodeElem 8 (xs.headD 0)).toInteger 8 .rne
      (wrap 8 r.1, r.2)
    else (xs.headD 0, 0)
  | _ => codeRound f .rne ftz false (fp32.decode (xs.headD 0))

/-! ### Elementwise instructions (09 R288, R296 to R298) -/

/-- TADD (09 R296). -/
def taddElem (f : Nat) (ftz : Bool) (x y : FVal) : Nat × FlagSet := (codeFmt f).addVals .rne ftz x y
/-- TMUL. -/
def tmulElem (f : Nat) (ftz : Bool) (x y : FVal) : Nat × FlagSet := (codeFmt f).mulVals .rne ftz x y

/-- TACT (09 Table 9.15). -/
def tactElem (f fn sh : Nat) (ftz : Bool) (x : FVal) : Nat × FlagSet :=
  let g := codeFmt f
  match fn with
  | 0 => if x.isNan || (!x.isNeg && !x.isZero) then g.ofVal .rne ftz false false x else (0, 0)
  | 1 => if x.isNan || !x.isNeg || x.isZero then g.ofVal .rne ftz false false x else g.ofVal .rne ftz false false (x.scaleBy (-(sh : Int)))
  | 2 => g.mulVals .rne ftz x x
  | 3 => g.sigmoid ftz x
  | _ => g.tanh ftz x

/-- TSUM (09 R298): the exact sum of a row, rounded once. -/
def tsumRow (f : Nat) (ftz : Bool) (xs : List FVal) : Nat × FlagSet :=
  let r := exactSum xs
  let y := (codeFmt f).ofVal .rne ftz false false r.1
  (y.1, y.2 ||| r.2 ||| sigFlags xs)

/-- TCVT of one element to a format that is not block-scaled (09 R288). -/
def tcvtElem (f : Nat) (ftz nov : Bool) (x : FVal) (mode : Rnd) : Nat × FlagSet := codeRound f mode ftz nov x

/-- TCVT of a row (09 R288): its codes and scales, the flags and the seed after it. -/
def tcvtRow (rmode f : Nat) (ftz nov : Bool) (seed : BitVec 32) (xs : List FVal) : List Nat × List Byte × FlagSet × BitVec 32 :=
  if isScaled f then
    (List.range (xs.length / 32)).foldl (fun acc g =>
      let b := (xs.drop (32 * g)).take 32
      let sc := blockScale f b
      let r := convertAll rmode f acc.2.2.2 (b.map (fun v => (some (blockElem f sc.1 nov v), 0)))
      (acc.1 ++ r.1, acc.2.1 ++ [BitVec.ofNat 8 sc.1], acc.2.2.1 ||| sc.2 ||| r.2.1, r.2.2)) ([], [], 0, seed)
  else
    let r := convertAll rmode f seed (xs.map (fun v => (some (tcvtElem f ftz nov v), 0)))
    (r.1, [], r.2.1, r.2.2)

end Sys2Proof.Machine
end

