-- ==== Sys2Proof/Machine/TapeLog.lean ====
section
/-! DEFINITION. The log of a tape and the records appended to it (10 R310 to R318). -/

namespace Sys2Proof.Machine

/-! ### The tape and its log (10 R310, R311) -/

/-- The tape that a process has open in the fold of its core (10 R309). -/
def State.tapeOf (s : State) (p : Proc) : Option TapeS := (s.fold (foldOf p.core)).tapes.find? (fun t => t.owner == p.name)

/-- A tape of a fold changed. -/
def State.modTape (s : State) (fold name : Nat) (f : TapeS → TapeS) : State :=
  s.modFold fold (fun x => { x with tapes := x.tapes.map (fun t => if t.owner = name then f t else t) })

/-- The fields of a tape descriptor (10 Table 10.1). -/
def TapeS.cap (t : TapeS) : Nat := descField t.desc 0 32 16 * 64
def TapeS.base (t : TapeS) : Nat := descField t.desc 0 0 24
def TapeS.spill (t : TapeS) : Nat := descField t.desc 8 0 64
def TapeS.spillCap (t : TapeS) : Nat := descField t.desc 0x10 0 40 * 64
def TapeS.gsOff (t : TapeS) : Nat := descField t.desc 0x18 24 24
def TapeS.gOff (t : TapeS) : Word := t.desc.getD 4 0
def TapeS.rbuf (t : TapeS) : Nat := descField t.desc 0x28 0 24
def TapeS.rsize (t : TapeS) : Nat := descField t.desc 0x28 24 24
/-- The gradient tile of a bank, if it is valid. -/
def TapeS.bankGrad (t : TapeS) (k : Nat) : Option Nat :=
  if descField t.desc 0x18 (if k = 0 then 5 else 13) 1 = 1 then some (descField t.desc 0x18 (if k = 0 then 0 else 8) 5) else none

/-- Free bytes of the region (10 R311). -/
def TapeS.room (t : TapeS) : Nat := t.cap - (t.ended - t.spilled)

/-- The physical address of a log byte that the region holds. -/
def regionAddr (fold : Nat) (t : TapeS) (o : Nat) : Nat := sramBase fold + t.base + o % t.cap

/-- Bytes written to the log from a byte on: they may wrap in the region. -/
def State.logWrite (s : State) (fold : Nat) (t : TapeS) (o : Nat) (bs : List Byte) : State :=
  let n := t.cap - o % t.cap
  (s.writeMem (regionAddr fold t o) (bs.take n)).writeMem (sramBase fold + t.base) (bs.drop n)

/-! ### Records (10 R313 to R318) -/

/-- An operand as a record describes it: tile or bank, format, the flag that applies and, for a snapshot, the layout word, the rows and
the scales; `wide` marks the B of a product with TFMT.NW = 1. -/
structure TapeOp where
  ix : Nat
  bank : Bool := false
  fmt : Nat := 0
  flag : Option Nat := none
  layout : Word := 0
  rows : List Byte := []
  scales : List Byte := []
  wide : Bool := false
  deriving DecidableEq, Repr

/-- The producing record of an operand on a tape: its sequence number, and whether it can be rerun (10 R314). -/
def TapeS.producer (t : TapeS) (o : TapeOp) : Option (Nat × Bool) :=
  (t.producers.find? (fun x => x.1 == (if o.bank then 32 + o.ix else o.ix))).map Prod.snd

/-- The flag of an operand as resolved by R314: 0 SAVE, 1 REF, 2 RECOMP. -/
def TapeS.resolve (t : TapeS) (o : TapeOp) : Nat :=
  match o.flag with
  | some 2 =>
    let ok := ((t.producer o).map Prod.snd).getD false && !o.wide && decide (layBytes o.layout + layScales o.layout ≤ t.rsize)
    if ok then 2 else 0
  | some f => f
  | none => 0

/-- Whether a record saves an operand. -/
def TapeS.saves (t : TapeS) (o : TapeOp) : Bool := o.flag.isSome && t.resolve o == 0

/-- The operand word (10 Table 10.5). -/
def State.operandWord (s : State) (core : Nat) (t : TapeS) (x : Option TapeOp) : Word :=
  match x with
  | none => 0
  | some o =>
    let y : Tile := if o.bank then {} else s.tile (core * 32 + o.ix)
    BitVec.ofNat 64 (y.gen * 2 ^ 56 + o.ix * 2 ^ 51 + y.adj * 2 ^ 46 + bitOf y.adjv * 2 ^ 45 +
      o.fmt * 2 ^ 41 + bitOf o.bank * 2 ^ 40 + 2 ^ 39 + ((t.producer o).map Prod.fst).getD 0)

/-- Bytes padded with zeros to a multiple of 64. -/
def pad64 (bs : List Byte) : List Byte := bs ++ List.replicate ((64 - bs.length % 64) % 64) 0

/-- A snapshot: its header and data (10 R316, Table 10.5). -/
def snapshotBytes (o : TapeOp) : List Byte :=
  wordsLe [o.layout, BitVec.ofNat 64 (o.rows.length * 2 ^ 32 + o.scales.length), 0, 0, 0, 0, 0, 0] ++ pad64 (o.rows ++ o.scales)

/-- A recorded instruction: word, operands (destination, A, B, index tile), extra words, and the tile it writes with whether a record of
its kind can be rerun (10 Table 10.3, R314). -/
structure TapeRec where
  word : Nat
  d : Option TapeOp := none
  a : Option TapeOp := none
  b : Option TapeOp := none
  i : Option TapeOp := none
  extra0 : Word := 0
  extra1 : Word := 0
  kind : Nat := 0
  writes : Option Nat := none
  rerun : Bool := false
  deriving DecidableEq, Repr

/-- The snapshots of a record, in the order A, B, index (10 R316). -/
def TapeS.snapshots (t : TapeS) (r : TapeRec) : List Byte :=
  [r.a, r.b, r.i].flatMap (fun x => match x with
    | some o => if t.saves o then snapshotBytes o else []
    | none => [])

/-- The bytes of a record (10 R316, Table 10.4). -/
def State.recordBytes (s : State) (core : Nat) (t : TapeS) (r : TapeRec) : List Byte :=
  let snaps := t.snapshots r
  let fl (x : Option TapeOp) : Nat := (x.map t.resolve).getD 0
  wordsLe
    [BitVec.ofNat 64 (r.word * 2 ^ 32 + t.nextSeq),
     BitVec.ofNat 64 (r.kind * 2 ^ 60 + fl r.a * 2 ^ 58 + fl r.b * 2 ^ 56 + fl r.i * 2 ^ 54 + t.lastLen / 64 * 2 ^ 32 + (64 + snaps.length)),
     s.operandWord core t r.d, s.operandWord core t r.a, s.operandWord core t r.b, s.operandWord core t r.i, r.extra0, r.extra1] ++ snaps

/-- What appending a record comes to: nothing is recorded, it is appended with the bytes of its snapshots and its length, or TAPE_FULL with
its value (10 R318). -/
inductive Appended where
  | none
  | done (s : State) (snaps len : Nat)
  | full (eval : Word)

/-- Appends a record to a tape, if it fits (10 R311, R318). -/
def State.append (s : State) (core : Nat) (t : TapeS) (r : TapeRec) : Appended :=
  let bs := s.recordBytes core t r
  if t.nextSeq = 2 ^ 32 - 1 then .full (BitVec.allOnes 64)
  else if t.room < bs.length then .full (BitVec.ofNat 64 bs.length)
  else
    let kept := [r.a, r.b, r.i].any (fun x => (x.map t.resolve) == some 2)
    .done ((s.logWrite (foldOf core) t t.ended bs).modTape (foldOf core) t.owner (fun y => { y with
      ended := y.ended + bs.length, nextSeq := y.nextSeq + 1, lastLen := bs.length,
      producers := match r.writes with
        | some n => (n, y.nextSeq, r.rerun && !kept) :: y.producers
        | Option.none => y.producers })) (t.snapshots r).length bs.length

/-- Records an instruction of a process whose tape is RECORDING (10 R315). -/
def State.record (s : State) (p : Proc) (r : TapeRec) : Appended :=
  match s.tapeOf p with
  | some t => if t.st = .recording then s.append p.core t r else .none
  | none => .none

/-- Removes the newest record of a tape, of a length: END, NEXTSEQ and the producer of what it wrote return to what they were (10
R315). -/
def State.unrecord (s : State) (p : Proc) (len : Nat) : State :=
  match s.tapeOf p with
  | none => s
  | some t =>
    let fold := foldOf p.core
    let at_ (i : Nat) : Nat := leNat ((List.range 8).map (fun j => readByte s.mem (regionAddr fold t (t.ended - len + 8 * i + j))))
    s.modTape fold p.name (fun y => { y with
      ended := y.ended - len, nextSeq := y.nextSeq - 1, lastLen := at_ 1 / 2 ^ 32 % 2 ^ 22 * 64,
      producers := y.producers.filter (fun x => decide (x.2.1 < y.nextSeq - 1)) })

end Sys2Proof.Machine
end

