-- ==== Sys2Proof/Machine/Tile.lean ====
section
/-! DEFINITION. The tile table, the checks of tile instructions, and TDEF and TSTAT (09 R273 to R284). -/

namespace Sys2Proof.Machine

/-! ### Names and samples -/

/-- The tiles that an instruction names, in the order destination, A, B, index; `src` says that a gang product reads its own tA, `nw` that
tB + 1 takes part (09 R289, R293). -/
def TOp.tiles (op : TOp) (src nw : Bool) : List Nat :=
  match op with
  | .tload t | .tstore t => [t]
  | .tcvt d a | .tsum d a | .ttrn d a | .tact d a _ _ => [d, a]
  | .mma _ a b => a :: b :: (if nw then [b + 1] else [])
  | .mmag _ a b i => a :: b :: (if nw then [b + 1] else []) ++ [i]
  | .cmma _ a b => [a, b]
  | .gmma _ a b => (if src then [a] else []) ++ b :: (if nw then [b + 1] else [])
  | .azero _ => []
  | .adrain d _ _ => [d]
  | .tadd d a b | .tmul d a b => [d, a, b]

/-- The bank that an instruction names. -/
def TOp.bank : TOp → Option Nat
  | .mma k _ _ | .mmag k _ _ _ | .cmma k _ _ | .gmma k _ _ | .azero k | .adrain _ k _ => some k
  | _ => none

/-- The tile that an instruction writes, and thereby takes through FILLING (09 R284). -/
def TOp.writes : TOp → Option Nat
  | .tload t => some t
  | .tcvt d _ | .tsum d _ | .ttrn d _ | .tact d _ _ _ | .tadd d _ _ | .tmul d _ _ | .adrain d _ _ => some d
  | _ => none

/-- Whether an instruction is asynchronous (09 R284). -/
def TOp.async : TOp → Bool
  | .tload _ | .tstore _ | .adrain _ _ _ => true
  | _ => false

/-- The instruction of majors 0x30 to 0x32 that a constructor stands for, with FTZ and DAZ; the drain with .R is apart (09 Table
9.13). -/
def tileOp (i : Instr) : Option (TOp × Bool × Bool) :=
  match i with
  | .tload d _ _ => some (.tload d.toNat, false, false)
  | .tstore d _ _ => some (.tstore d.toNat, false, false)
  | .tcvt d a z y => some (.tcvt d.toNat a.toNat, z = 1, y = 1)
  | .mma k a b z y => some (.mma k.toNat a.toNat b.toNat, z = 1, y = 1)
  | .mmag k a b z y x => some (.mmag k.toNat a.toNat b.toNat x.toNat, z = 1, y = 1)
  | .cmma k a b z y => some (.cmma k.toNat a.toNat b.toNat, z = 1, y = 1)
  | .gmma k a b z y => some (.gmma k.toNat a.toNat b.toNat, z = 1, y = 1)
  | .azero k => some (.azero k.toNat, false, false)
  | .adrain d k z x => some (.adrain d.toNat k.toNat (x = 1), z = 1, false)
  | .adrainR d k _ z x _ => some (.adrain d.toNat k.toNat (x = 1), z = 1, false)
  | .tadd d a b z y => some (.tadd d.toNat a.toNat b.toNat, z = 1, y = 1)
  | .tmul d a b z y => some (.tmul d.toNat a.toNat b.toNat, z = 1, y = 1)
  | .tact d a x z y f => some (.tact d.toNat a.toNat x.toNat f.toNat, z = 1, y = 1)
  | .tsum d a z y => some (.tsum d.toNat a.toNat, z = 1, y = 1)
  | .ttrn d a => some (.ttrn d.toNat a.toNat, false, false)
  | _ => none

/-- The fields of TFMT (09 Table 9.10). -/
def tfmtA (w : Word) : Nat := w.toNat % 16
def tfmtB (w : Word) : Nat := w.toNat / 16 % 16
def tfmtAcc (w : Word) : Nat := w.toNat / 256 % 16
def tfmtNov (w : Word) : Bool := w.getLsbD 12
def tfmtNw (w : Word) : Bool := w.getLsbD 13
def tfmtNant (w : Word) : Bool := w.getLsbD 16

/-- Whether a member of a gang is a source of A (09 R293): member 0, and in a gang of eight member 4. -/
def isSource (member size : Nat) : Bool := member == 0 || (decide (size = 8) && member == 4)

/-- The source of a member's A. -/
def sourceOf (member : Nat) : Nat := member / 4 * 4

/-- The tile entry n of a core. -/
def State.tileAt (s : State) (core n : Nat) : Tile := s.tile (core * 32 + n)
def State.modTileAt (s : State) (core n : Nat) (f : Tile → Tile) : State := s.modTile (core * 32 + n) f
def State.layAt (s : State) (core n : Nat) : Word := (s.tileAt core n).layout

/-- A bank of a core. -/
def State.bankAt (s : State) (core k : Nat) : Bank := (s.core core).banks.toList.getD k {}
def State.modBank (s : State) (core k : Nat) (f : Bank → Bank) : State :=
  s.modCore core (fun c => { c with banks := c.banks.set! k (f (c.banks.toList.getD k {})) })

/-- Whether a process owns a tile that is not EMPTY (09 R276). -/
def State.owns (s : State) (core name n : Nat) : Bool :=
  decide (n < 32) && (s.tileAt core n).owner == name && (s.tileAt core n).st != .empty

/-! ### Which instructions are legal (09 R288 to R298) -/

/-- The step and the largest K of an operand format, and the size G of its k-groups (09 Table 9.14, 02 R43). -/
def kStep (f : Nat) : Nat :=
  match f with
  | 0 => 4
  | 1 => 16
  | 2 => 16
  | 9 => 4
  | _ => 32
def kMax (f : Nat) : Nat :=
  match f with
  | 0 => 64
  | 1 => 256
  | 2 => 256
  | 5 => 1024
  | 9 => 64
  | _ => 512
def kGroup (f : Nat) : Nat := if f = 9 then 1 else kStep f

/-- A K of Table 9.14. -/
def kOk (f k : Nat) : Bool := decide (k % kStep f = 0) && decide (kStep f ≤ k) && decide (k ≤ kMax f)

/-- Operand formats that a product accepts together (09 R289). -/
def pairOk (a b : Nat) : Bool := a == b || (a == 3 && b == 4) || (a == 4 && b == 3)

/-- N of a product (09 R289). -/
def State.productN (s : State) (core : Nat) (tfmt : Word) (b : Nat) : Nat :=
  layRows (s.layAt core b) + (if tfmtNw tfmt then layRows (s.layAt core (b + 1)) else 0)

/-- The conditions of R289 on B and the registers. -/
def State.sideBOk (s : State) (core : Nat) (tfmt tnanc : Word) (cplx : Bool) (b : Nat) : Bool :=
  let lb := s.layAt core b
  let fb := layFormat lb
  let n := s.productN core tfmt b
  tfmtB tfmt == fb &&
  (if cplx then fb == 9 else decide (fb ≤ 7)) &&
  tfmtAcc tfmt == (if cplx then 9 else if fb = 7 then 8 else 0) &&
  kOk fb (layCols lb) && decide (n % 16 = 0) && decide (16 ≤ n) && decide (n ≤ (if cplx then 64 else 128)) &&
  (!tfmtNw tfmt ||
    (!cplx && decide (b < 31) && decide (layRows lb = 64) && layFormat (s.layAt core (b + 1)) == fb &&
      layCols (s.layAt core (b + 1)) == layCols lb)) &&
  (!tfmtNant tfmt || (decide (tnanc.toNat % 32 = 0) && decide (tnanc.toNat % 2 ^ 24 + 32 ≤ scratchSize core)))

/-- The conditions of R289 on A, with M rows. -/
def State.sideAOk (s : State) (core : Nat) (tfmt : Word) (a b m : Nat) (cplx : Bool) : Bool :=
  let la := s.layAt core a
  tfmtA tfmt == layFormat la && pairOk (layFormat la) (layFormat (s.layAt core b)) && layCols la == layCols (s.layAt core b) &&
  decide (m ≤ (if cplx then 32 else 64))

/-- Formats of the elementwise instructions (09 R296). -/
def plainFormat (f : Nat) : Bool := decide (f ≤ 2)

/-- Whether two tiles have equal shapes. -/
def sameShape (x y : Word) : Bool := layRows x == layRows y && layCols x == layCols y

/-- Whether an instruction is legal for the layouts of its tiles and the sampled registers (09 R288 to R298). -/
def State.shapeOk (s : State) (core : Nat) (tfmt tnanc : Word) (src : Bool) (op : TOp) : Bool :=
  let l (n : Nat) : Word := s.layAt core n
  match op with
  | .tload _ | .tstore _ | .azero _ => true
  | .tcvt d a => sameShape (l d) (l a) && (layFormat (l d) == 9) == (layFormat (l a) == 9)
  | .mma _ a b => s.sideBOk core tfmt tnanc false b && s.sideAOk core tfmt a b (layRows (l a)) false
  | .mmag _ a b i =>
    s.sideBOk core tfmt tnanc false b && s.sideAOk core tfmt a b (layRows (l i)) false && layFormat (l i) == 8
  | .cmma _ a b => s.sideBOk core tfmt tnanc true b && s.sideAOk core tfmt a b (layRows (l a)) true
  | .gmma _ a b => s.sideBOk core tfmt tnanc false b && (!src || s.sideAOk core tfmt a b (layRows (l a)) false)
  | .adrain d _ _ =>
    let f := layFormat (l d)
    match tfmtAcc tfmt with
    | 9 => f == 9 && decide (layRows (l d) ≤ 32) && decide (layCols (l d) ≤ 64)
    | 8 => (f == 8 || f == 7) && decide (layCols (l d) ≤ 128)
    | 0 => plainFormat f && decide (layCols (l d) ≤ 128)
    | _ => false
  | .tadd d a b | .tmul d a b =>
    sameShape (l d) (l a) && sameShape (l d) (l b) && plainFormat (layFormat (l d)) && plainFormat (layFormat (l a)) &&
    plainFormat (layFormat (l b))
  | .tact d a sh fn =>
    sameShape (l d) (l a) && plainFormat (layFormat (l d)) && plainFormat (layFormat (l a)) && decide (fn ≤ 4) &&
    (fn == 1 || sh == 0)
  | .tsum d a => layRows (l d) == layRows (l a) && plainFormat (layFormat (l d)) && plainFormat (layFormat (l a))
  | .ttrn d a =>
    layRows (l d) == layCols (l a) && layCols (l d) == layRows (l a) && layFormat (l d) == layFormat (l a) && !isScaled (layFormat (l d))

/-- Whether a gang member reads its own tA in a gang product; true of any other instruction. -/
def State.readsA (s : State) (p : Proc) (op : TOp) : Bool :=
  match op with
  | .gmma _ _ _ => isSource (p.gang.getD 0) (((s.group? p.gid).map Group.gangSize).getD 0)
  | _ => true

/-- Whether an instruction uses tB + 1 (09 R289). -/
def TOp.wide (op : TOp) (tfmt : Word) : Bool :=
  match op with
  | .mma _ _ _ | .mmag _ _ _ _ | .gmma _ _ _ => tfmtNw tfmt
  | _ => false

/-- The tiles that an instruction of a process names. -/
def State.namedTiles (s : State) (p : Proc) (op : TOp) : List Nat := op.tiles (s.readsA p op) (op.wide p.tfmt)

/-- Whether what an instruction names is its process's (09 R276, R281): its tiles, none EMPTY, and its bank but for AZERO; on a core with a VTU. -/
def State.tileOwned (s : State) (core : Nat) (p : Proc) (op : TOp) : Bool :=
  hasVtu core && (s.namedTiles p op).all (s.owns core p.name) &&
  (match op with
   | .azero _ => true
   | _ => (match op.bank with | some k => (s.bankAt core k).owner == p.name | none => true))

/-- Whether an instruction is not ILLEGAL (09 R276, R281, R283, R293): what it names is the process's, its shapes are right, a gang product's issuer is
a member. -/
def State.tileLegal (s : State) (core : Nat) (p : Proc) (op : TOp) : Bool :=
  s.tileOwned core p op && (match op with | .gmma _ _ _ => p.gang.isSome | _ => true) &&
  s.shapeOk core p.tfmt p.tnanc (s.readsA p op) op

/-- Whether an instruction whose tiles and bank are the process's cannot start yet (09 R276, R281): a tile is not READY, its bank is being drained, or, for AZERO, another
process owns it. -/
def State.tileWaits (s : State) (core : Nat) (p : Proc) (op : TOp) : Bool :=
  (s.namedTiles p op).any (fun n => (s.tileAt core n).st != .ready) ||
  (match op.bank with
   | some k =>
     let b := s.bankAt core k
     b.drain.isSome || (match op with | .azero _ => b.owner != 0 && b.owner != p.name | _ => false)
   | none => false)

/-- Whether the tile side of a core is busy, or commands that came before wait for it (09 R284, R300). -/
def State.sideBusy (s : State) (core : Nat) : Bool := (s.core core).run.isSome || !(s.core core).commands.isEmpty

/-- Whether an instruction may not issue yet (09 R276, R284): the tile side is busy, or what it names is the process's but not ready for it. -/
def State.tileHeld (s : State) (core : Nat) (p : Proc) (op : TOp) : Bool :=
  s.sideBusy core || (s.tileOwned core p op && s.tileWaits core p op)

/-- Whether a tile instruction keeps its slot from being eligible (09 R276, R284). -/
def State.tileHolds (s : State) (p : Proc) (i : Instr) : Bool :=
  match i with
  | .tcmd _ _ => s.sideBusy p.core
  | _ =>
    match tileOp i with
    | some (op, _, _) =>
      let q := match p.seq with
        | some x => if x.pc = p.pc then { p with tfmt := x.tfmt, tsca := x.tsca, tscb := x.tscb } else p
        | none => p
      s.tileHeld p.core q op
    | none => false

/-- The status word of ENGINE from the VTU (09 Table 9.17). -/
def tileEngine (reason tile bank detail : Nat) : Word :=
  BitVec.ofNat 64 (9 * 2 ^ 56 + reason * 2 ^ 48 + tile * 2 ^ 43 + bank * 2 ^ 42 + detail)

/-- The first tile named that has ERR = 1, as its ENGINE word (09 R276). -/
def State.errTile (s : State) (core : Nat) (ns : List Nat) : Option Word :=
  (ns.find? (fun n => (s.tileAt core n).err)).map (fun n => tileEngine 2 n 0 (s.tileAt core n).errc)

/-! ### TDEF and TSTAT (09 R275, R277) -/

/-- The next multiple of 16. -/
def round16 (n : Nat) : Nat := (n + 15) / 16 * 16

/-- The scale array of a tile with its rows at BASE (09 R275). -/
def scaleBase (lay : Word) (base : Nat) : Nat := if isScaled (layFormat lay) then round16 (base + layRows lay * layStep lay) else 0

/-- TDEF (09 R275). -/
def execTdef (d : BitVec 5) (a b : Reg) (s : State) :=
  onCur s (fun k p =>
    if !hasVtu p.core then s.illegal k
    else s.issue k p [plainField a 0, plainField b 1] [] (fun vals c =>
      let lay := vals.getD 0 0
      let w := vals.getD 1 0
      let n := d.toNat
      let y := s.tileAt p.core n
      let mine := y.owner == p.name && y.st != .empty
      let busy := y.st == .filling || y.st == .draining
      let bit : BitVec 32 := BitVec.ofNat 32 (2 ^ n)
      if lay = 0 then
        if !mine then s.retire k c []
        else if busy then s
        else ((s.modTileAt p.core n (fun z => { z with st := .empty, owner := 0 })).modProc k
          (fun q => { q with town := q.town &&& ~~~bit })).retire k c []
      else if !layoutOk lay || w.extractLsb' 30 2 ≠ 0 then s.illegal k
      else if y.st ≠ .empty ∧ !mine then s.illegal k
      else if busy then s
      else
        let base := w.toNat % 2 ^ 24
        let scale := scaleBase lay base
        if base % 16 ≠ 0 then s.raise k causeMisalign w
        else if scratchSize p.core < base + laySpan lay ∨ (isScaled (layFormat lay) ∧ scratchSize p.core < scale + layScales lay) then
          s.raise k causeLoadFault w
        else
          ((s.modTileAt p.core n (fun z => {
            owner := p.name, layout := lay, check := (w.extractLsb' 32 32).toNat, adj := (w.extractLsb' 25 5).toNat,
            adjv := w.getLsbD 24, base := base, scale := scale, err := false, errc := 0, gen := (z.gen + 1) % 256,
            st := .ready })).modProc k (fun q => { q with town := q.town ||| bit })).retire k c []))

/-- TSTAT (09 R277). -/
def execTstat (d : Reg) (a : BitVec 5) (s : State) :=
  onCur s (fun k p =>
    if !hasVtu p.core then s.illegal k
    else s.issue k p [] [d] (fun _ c =>
      let y := s.tileAt p.core a.toNat
      s.retire k c [(d, BitVec.ofNat 64 (y.st.code * 2 ^ 62 + bitOf y.err * 2 ^ 61 + y.errc * 2 ^ 56 + y.gen * 2 ^ 48 + y.owner))]))

end Sys2Proof.Machine
end

