-- ==== Sys2Proof/Machine/TileRun.lean ====
section
/-! DEFINITION. The synchronous tile instructions: latching, groups, completion, NaN trap and interruption (09 R281 to R304). -/

namespace Sys2Proof.Machine

/-! ### Reading tiles and banks -/

/-- Bytes of a core's scratchpad; beyond its end, for a scale array that leaves it, free values (09 R279; log 6). -/
def State.scratchBytes (s : State) (core off n : Nat) : List Byte :=
  (List.range n).map (fun i =>
    if off + i < scratchSize core then readByte s.mem (windowBase core + off + i)
    else (Config.freeWord (s.free + off + i)).extractLsb' 0 8)

/-- The rows of a tile, those of an index list where one is given (09 R291). -/
def State.tileRows (s : State) (core n : Nat) (ix : Option (List Nat)) : List (List Byte) :=
  let y := s.tileAt core n
  (ix.getD (List.range (layRows y.layout))).map (fun r =>
    readBytes s.mem (windowBase core + y.base + r * layStep y.layout) (layRowBytes y.layout))

/-- The scale bytes of the rows of a tile, from its own array or that of TSCA or TSCB (09 R279). -/
def State.tileScales (s : State) (core n : Nat) (alt : Word) (ix : Option (List Nat)) : List (List Byte) :=
  let y := s.tileAt core n
  let g := layCols y.layout / 32
  let base := if alt.getLsbD 24 then alt.toNat % 2 ^ 24 else y.scale
  if isScaled (layFormat y.layout) then
    (ix.getD (List.range (layRows y.layout))).map (fun r => s.scratchBytes core (base + r * g) g)
  else []

/-- What an instruction latches of a tile. -/
def State.latchTile (s : State) (core n : Nat) (alt : Word) (ix : Option (List Nat)) : Latch :=
  { fmt := layFormat (s.layAt core n), cols := layCols (s.layAt core n), rows := s.tileRows core n ix, scales := s.tileScales core n alt ix }

/-- Two latches as one, the rows of the second after those of the first (09 R289). -/
def Latch.join (x y : Latch) : Latch := { x with rows := x.rows ++ y.rows, scales := x.scales ++ y.scales }

/-- The row numbers that an index tile holds: its elements (i, 0), unsigned (09 R291). -/
def State.indexRows (s : State) (core i : Nat) : List Nat := (s.tileRows core i none).map (fun bs => leNat (bs.take 4))

/-- A row of a gather that leaves the scratchpad: its offset (09 R291). -/
def State.gatherFault (s : State) (core a : Nat) (ix : List Nat) : Option Nat :=
  let y := s.tileAt core a
  (ix.map (fun r => y.base + r * layStep y.layout)).find? (fun o => decide (scratchSize core < o + layRowBytes y.layout))

/-- The address of the words of a bank's element (09 R282). -/
def bankAddr (core k : Nat) (acc i j : Nat) : Nat :=
  windowBase core + 0x100000 + k * 0x8000 + (if acc = 9 then (i * 64 + j) * 16 else (i * 128 + j) * 4)

/-- The words of a bank's element in a format (09 R282). -/
def State.bankElem (s : State) (core k acc i j : Nat) : List Nat :=
  cut 4 (if acc = 9 then 4 else 1) (readBytes s.mem (bankAddr core k acc i j) (if acc = 9 then 16 else 4))

/-- Whether the words of a bank's element hold a NaN. -/
def bankNan (acc : Nat) (xs : List Nat) : Bool :=
  match acc with
  | 8 => false
  | 9 => (fp32.decode (xs.getD 0 0)).isNan || (fp32.decode (xs.getD 2 0)).isNan
  | _ => (fp32.decode (xs.headD 0)).isNan

/-! ### The groups -/

/-- What one group of a run gives: the state, its flags, and the first element it turned into a NaN: row, column, k (09 R301). -/
structure GroupEnd where
  s : State
  flags : FlagSet := 0
  nan : Option (Nat × Nat × Nat) := none

/-- The exact values of a k-group of a latched row, and whether its scale is 0xFF, with the scale's exponent (02 R43). -/
def Latch.part (l : Latch) (daz : Bool) (g size i : Nat) : List FVal × Bool × Int :=
  let row := l.rows.getD i []
  let xs := ((rowElems l.fmt l.cols row).drop (g * size)).take size
  let vs := xs.map (operandElem l.fmt daz)
  if isScaled l.fmt then
    let e := ((l.scales.getD i []).getD g 0).toNat
    (vs, decide (e = 255), (e : Int) - 127)
  else (vs, false, 0)

/-- The codes of a latched row. -/
def Latch.codes (l : Latch) (i : Nat) : List Nat := rowElems l.fmt l.cols (l.rows.getD i [])

/-- The exact values of a latched row, with its own scales (02 R42). -/
def Latch.values (l : Latch) (daz : Bool) (i : Nat) : List FVal := rowValues l.fmt l.cols daz (l.rows.getD i []) (l.scales.getD i [])

/-- Writes the words of a bank's element. -/
def State.putBank (s : State) (core k acc i j : Nat) (xs : List Nat) : State :=
  s.writeMem (bankAddr core k acc i j) (xs.flatMap (leBytes 4))

/-- A k-group of a product into one element (02 R43 to R45). -/
def TRun.element (r : TRun) (x y : List FVal × Bool × Int) (c : Nat) : Nat × FlagSet :=
  if r.a.fmt = 7 then
    accumulateInt c ((List.zipWith FVal.mulExact x.1 y.1).map (fun p => p.1.dy.m * 2 ^ p.1.dy.e.toNat)).sum
  else
    let sum := groupSum x.1 y.1 (x.2.2 + y.2.2) (x.2.1 || y.2.1)
    let z := accumulate r.ftz r.daz c sum.1
    (z.1, z.2 ||| sum.2)

/-- A k-group of MMA, MMAG or GMMA in every element, in row-major order (02 R43, 09 R290). -/
def State.productGroup (s : State) (core k : Nat) (r : TRun) : GroupEnd :=
  let size := kGroup r.a.fmt
  let acc := tfmtAcc r.tfmt
  let as := (List.range r.a.rows.length).map (r.a.part r.daz r.step size)
  let bs := (List.range r.b.rows.length).map (r.b.part r.daz r.step size)
  (List.range as.length).foldl (fun g i =>
    (List.range bs.length).foldl (fun g j =>
      let x := as.getD i ([], false, 0)
      let y := bs.getD j ([], false, 0)
      let old := s.bankElem core k acc i j
      let z := r.element x y (old.headD 0)
      let new := !bankNan acc old && bankNan acc [z.1]
      { s := g.s.putBank core k acc i j [z.1], flags := g.flags ||| z.2,
        nan := if g.nan.isNone && new then some (i, j, nanIndex x.1 y.1 (x.2.1 || y.2.1) (r.step * size)) else g.nan }) g) { s := s }

/-- A k of CMMA in every element (02 R46, 09 R292). -/
def State.cmmaGroup (s : State) (core k : Nat) (r : TRun) : GroupEnd :=
  let as := (List.range r.a.rows.length).map (fun i => (r.a.codes i).getD r.step 0)
  let bs := (List.range r.b.rows.length).map (fun j => (r.b.codes j).getD r.step 0)
  (List.range as.length).foldl (fun g i =>
    (List.range bs.length).foldl (fun g j =>
      let old := s.bankElem core k 9 i j
      let z := cmmaStep r.ftz r.daz old (as.getD i 0) (bs.getD j 0)
      { s := g.s.putBank core k 9 i j z.1, flags := g.flags ||| z.2,
        nan := if g.nan.isNone && !bankNan 9 old && bankNan 9 z.1 then some (i, j, r.step) else g.nan }) g) { s := s }

/-- Writes a row of a tile by its codes, and its scales where there are some; the first element that turned into a NaN. -/
def State.putRow (s : State) (core n row : Nat) (codes : List Nat) (scales : List Byte) : State × Option Nat :=
  let y := s.tileAt core n
  let f := layFormat y.layout
  let at_ := windowBase core + y.base + row * layStep y.layout
  let old := rowElems f (layCols y.layout) (readBytes s.mem at_ (layRowBytes y.layout))
  let t := s.writeMem at_ (rowBytes f codes)
  ((if scales.isEmpty then t else t.writeMem (windowBase core + y.scale + row * (layCols y.layout / 32)) scales),
   (List.range codes.length).find? (fun j => !codeIsNan f (old.getD j 0) && codeIsNan f (codes.getD j 0)))

/-- The codes of row i that an elementwise instruction writes, its scales, flags and the seed after it (09 R288, R296 to R298). -/
def State.rowResult (s : State) (core : Nat) (r : TRun) (seed : BitVec 32) (i : Nat) : List Nat × List Byte × FlagSet × BitVec 32 :=
  let f (d : Nat) : Nat := layFormat (s.layAt core d)
  let pure (xs : List (Nat × FlagSet)) : List Nat × List Byte × FlagSet × BitVec 32 :=
    (xs.map Prod.fst, [], (xs.map Prod.snd).foldl (fun x y => x ||| y) 0, seed)
  match r.op with
  | .tadd d _ _ => pure (List.zipWith (taddElem (f d) r.ftz) (r.a.values r.daz i) (r.b.values r.daz i))
  | .tmul d _ _ => pure (List.zipWith (tmulElem (f d) r.ftz) (r.a.values r.daz i) (r.b.values r.daz i))
  | .tact d _ sh fn => pure ((r.a.values r.daz i).map (tactElem (f d) fn sh r.ftz))
  | .tsum d _ =>
    let y := s.tileAt core d
    let old := rowElems (f d) (layCols y.layout) (readBytes s.mem (windowBase core + y.base + i * layStep y.layout) (layRowBytes y.layout))
    let z := tsumRow (f d) r.ftz (r.a.values r.daz i)
    (z.1 :: old.drop 1, [], z.2, seed)
  | .ttrn _ _ => pure ((List.range r.a.rows.length).map (fun j => ((r.a.codes j).getD i 0, 0)))
  | .tcvt d _ => if f d = 9 then pure ((r.a.codes i).map (fun x => (x, 0))) else
      tcvtRow r.rmode (f d) r.ftz (tfmtNov r.tfmt) seed (r.a.values r.daz i)
  | _ => ([], [], 0, seed)

/-- Eight rows of an elementwise instruction (09 R303). -/
def State.rowGroup (s : State) (core d : Nat) (r : TRun) : GroupEnd :=
  (List.range 8).foldl (fun g x =>
    let i := r.step * 8 + x
    let seed := ((g.s.named r.name).map (fun e => e.2.srseed)).getD 0
    let z := g.s.rowResult core r seed i
    let w := g.s.putRow core d i z.1 z.2.1
    { s := w.1.modNamed r.name (fun k p t => t.putProc k { p with srseed := z.2.2.2 }), flags := g.flags ||| z.2.2.1,
      nan := match g.nan, w.2 with
        | none, some j => some (i, j, 0)
        | n, _ => n }) { s := s }

/-- Memory without the bytes of a range. -/
def clearBytes (m : List Host.Cell) (a n : Nat) : List Host.Cell := m.filter (fun c => decide (c.1 < a) || decide (a + n ≤ c.1))

/-- Every word of a bank set to +0 (09 R281). -/
def State.zeroBank (s : State) (core k : Nat) : State :=
  let a := windowBase core + 0x100000 + k * 0x8000
  { s with mem := clearBytes s.mem a 0x8000, poison := unpoison s.poison a 0x8000 }

/-- The next group of a run. -/
def State.runGroup (s : State) (core : Nat) (r : TRun) : GroupEnd :=
  match r.op with
  | .mma k _ _ | .mmag k _ _ _ | .gmma k _ _ => s.productGroup core k r
  | .cmma k _ _ => s.cmmaGroup core k r
  | .azero k => { s := s.zeroBank core k }
  | .tadd d _ _ | .tmul d _ _ | .tact d _ _ _ | .tsum d _ | .ttrn d _ | .tcvt d _ => s.rowGroup core d r
  | _ => { s := s }

/-! ### Timing (09 R302) -/

/-- The cycles of one k-group. -/
def TRun.cycles (r : TRun) : Nat := max 1 (r.a.rows.length * r.b.rows.length / (if r.a.fmt = 5 then 128 else 64))

/-- The bytes of a row that counts for the time of an elementwise instruction: of tn, or of tA for TSUM. -/
def State.timedRow (s : State) (core : Nat) (op : TOp) : Nat :=
  match op with
  | .tsum _ a => layRowBytes (s.layAt core a)
  | .tadd d _ _ | .tmul d _ _ | .tact d _ _ _ | .ttrn d _ | .tcvt d _ => layRowBytes (s.layAt core d)
  | _ => 0

/-- The cycle in which a group ends: the groups of this run so far, after the operands are latched and, for MMAG and GMMA, gathered or
multicast (09 R302). -/
def State.groupDue (s : State) (core : Nat) (r : TRun) : Nat :=
  let n := r.step + 1 - r.first
  match r.op with
  | .azero _ => r.began + 2
  | .mma _ _ _ | .cmma _ _ _ => r.began + 16 + r.cycles * n
  | .mmag _ _ _ _ => r.began + 16 + 2 * r.a.rows.length + r.cycles * n
  | .gmma _ _ _ => r.began + 24 + r.cycles * n
  | op => r.began + 4 + (8 * n * s.timedRow core op + 63) / 64

/-- The groups of an instruction: of k for a product, of eight rows for an elementwise one. -/
def State.groupsOf (s : State) (core : Nat) (op : TOp) (a : Latch) : Nat :=
  match op with
  | .azero _ => 1
  | .mma _ _ _ | .mmag _ _ _ _ | .gmma _ _ _ | .cmma _ _ _ => a.cols / kGroup a.fmt
  | .tsum _ x => layRows (s.layAt core x) / 8
  | .tadd d _ _ | .tmul d _ _ | .tact d _ _ _ | .ttrn d _ | .tcvt d _ => layRows (s.layAt core d) / 8
  | _ => 1

/-- The event that ends the next group of a run falls due; a run that has no group left completes in the next cycle. -/
def State.scheduleRun (s : State) (core : Nat) (r : TRun) : State :=
  let due := if r.total ≤ r.step then s.cycle + 1 else s.groupDue core r
  (s.modCore core (fun c => { c with run := some { r with due := due } })).atCycle due
    (if r.total ≤ r.step + 1 then .tileOpComplete core else .kGroupDone core)

/-! ### Poison (09 Table 9.17) -/

/-- Whether the rows or the scales of a tile are poisoned. -/
def State.tilePoisoned (s : State) (core n : Nat) (alt : Word) (ix : Option (List Nat)) : Bool :=
  let y := s.tileAt core n
  let g := layCols y.layout / 32
  let base := if alt.getLsbD 24 then alt.toNat % 2 ^ 24 else y.scale
  (ix.getD (List.range (layRows y.layout))).any (fun r =>
    s.poisoned (windowBase core + y.base + r * layStep y.layout) (layRowBytes y.layout) ||
    (isScaled (layFormat y.layout) && s.poisoned (windowBase core + base + r * g) g))

/-- TSCB as it holds for tB + 1 (09 R279, R289): the scales that it names run on from the 64 rows of tB. -/
def State.secondScales (s : State) (core : Nat) (p : Proc) (b : Nat) : Word :=
  if p.tscb.getLsbD 24 then BitVec.ofNat 64 (2 ^ 24 + (p.tscb.toNat + 64 * (layCols (s.layAt core b) / 32)) % 2 ^ 24) else 0

/-- The first operand of an instruction whose data is poisoned, as its ENGINE word. -/
def State.poisonTile (s : State) (core : Nat) (p : Proc) (op : TOp) : Option Word :=
  let bad (n : Nat) (alt : Word) (ix : Option (List Nat)) : Option Word :=
    if s.tilePoisoned core n alt ix then some (tileEngine 3 n 0 0) else none
  let side (b : Nat) : Option Word := (bad b p.tscb none).or (if op.wide p.tfmt then bad (b + 1) (s.secondScales core p b) none else none)
  let bank (k m n : Nat) : Option Word :=
    let acc := tfmtAcc p.tfmt
    if (List.range m).any (fun i => s.poisoned (bankAddr core k acc i 0) (n * (if acc = 9 then 16 else 4))) then some (tileEngine 3 0 k 0)
    else none
  match op with
  | .mma k a b | .cmma k a b =>
    ((bad a p.tsca none).or (side b)).or (bank k (layRows (s.layAt core a)) (s.productN core p.tfmt b))
  | .gmma k a b => ((if s.readsA p op then bad a p.tsca none else none).or (side b)).or (bank k 64 (s.productN core p.tfmt b))
  | .mmag k a b i =>
    ((bad i 0 none).or ((bad a p.tsca (some (s.indexRows core i))).or (side b))).or (bank k (layRows (s.layAt core i)) (s.productN core p.tfmt b))
  | .tadd _ a b | .tmul _ a b => (bad a 0 none).or (bad b 0 none)
  | .tcvt _ a | .tact _ a _ _ | .tsum _ a | .ttrn _ a => bad a 0 none
  | _ => none

/-! ### Starting -/

/-- What an instruction latches for B: with TFMT.NW, the rows of tB + 1 after those of tB (09 R289). -/
def State.latchB (s : State) (core : Nat) (p : Proc) (op : TOp) (b : Nat) : Latch :=
  let x := s.latchTile core b p.tscb none
  if op.wide p.tfmt then x.join (s.latchTile core (b + 1) (s.secondScales core p b) none) else x

/-- What an instruction latches for A and B (09 R288 to R298, R302). -/
def State.latches (s : State) (core : Nat) (p : Proc) (op : TOp) : Latch × Latch :=
  let side (b : Nat) : Latch := s.latchB core p op b
  match op with
  | .mma _ a b | .cmma _ a b => (s.latchTile core a p.tsca none, side b)
  | .gmma _ a b => (if s.readsA p op then s.latchTile core a p.tsca none else {}, side b)
  | .mmag _ a b i => (s.latchTile core a p.tsca (some (s.indexRows core i)), side b)
  | .tadd _ a b | .tmul _ a b => (s.latchTile core a 0 none, s.latchTile core b 0 none)
  | .tcvt _ a | .tact _ a _ _ | .tsum _ a | .ttrn _ a => (s.latchTile core a 0 none, {})
  | _ => ({}, {})

/-- The generations that the sequencer saves: of tA, tB, tI, or tn for an elementwise instruction (09 Table 9.17a). -/
def State.gens3 (s : State) (core : Nat) (p : Proc) (op : TOp) : Nat × Nat × Nat :=
  let g (n : Nat) : Nat := (s.tileAt core n).gen
  match op with
  | .mma _ a b | .cmma _ a b => (g a, g b, 0)
  | .gmma _ a b => (if s.readsA p op then g a else 0, g b, 0)
  | .mmag _ a b i => (g a, g b, g i)
  | .tadd d a b | .tmul d a b => (g a, g b, g d)
  | .tcvt d a | .tact d a _ _ | .tsum d a | .ttrn d a => (g a, 0, g d)
  | _ => (0, 0, 0)

/-- The operand of a record from a latch, with its flag; for a gathered A the rows are those gathered (10 R316). -/
def tapeTile (s : State) (core n : Nat) (flag : Option Nat) (l : Latch) (wide : Bool) : TapeOp :=
  { ix := n, fmt := layFormat (s.layAt core n), flag := flag, layout := s.layAt core n, rows := l.rows.flatten,
    scales := l.scales.flatten, wide := wide }

/-- What the tape records of an instruction (10 Table 10.3). -/
def State.tapeRec (s : State) (core : Nat) (p : Proc) (op : TOp) (word : Nat) (l : Latch × Latch) : TapeRec :=
  let fa := p.taped.toNat / 2 ^ 34 % 4
  let fb := p.taped.toNat / 2 ^ 36 % 4
  let fi := p.taped.toNat / 2 ^ 38 % 4
  let acc := tfmtAcc p.tfmt
  let bank (k : Nat) : TapeOp := { ix := k, bank := true, fmt := acc }
  let tile (n : Nat) : TapeOp := tapeTile s core n none {} false
  let scales : Word := BitVec.ofNat 64 (p.tsca.toNat % 2 ^ 25 * 2 ^ 32 + p.tscb.toNat % 2 ^ 25)
  let second (b : Nat) : Nat :=
    let y := s.tileAt core (b + 1)
    if op.wide p.tfmt then y.gen * 2 ^ 23 + y.adj * 2 ^ 18 + bitOf y.adjv * 2 ^ 17 else 0
  let extra (b hi : Nat) : Word := BitVec.ofNat 64 (hi * 2 ^ 32 + second b + p.tfmt.toNat % 2 ^ 17)
  let opB (b : Nat) : TapeOp := tapeTile s core b (some fb) l.2 (op.wide p.tfmt)
  let r : TapeRec := { word := word }
  match op with
  | .azero k => { r with d := some (bank k), writes := some (32 + k) }
  | .mma k a b | .cmma k a b =>
    { r with d := some (bank k), a := some (tapeTile s core a (some fa) l.1 false), b := some (opB b), extra0 := scales, extra1 := extra b 0,
             writes := some (32 + k) }
  | .mmag k a b i =>
    { r with d := some (bank k), a := some (tapeTile s core a (some fa) l.1 false), b := some (opB b),
             i := some (tapeTile s core i (some fi) (s.latchTile core i 0 none) false), extra0 := scales, extra1 := extra b 0,
             writes := some (32 + k) }
  | .gmma k a b =>
    { r with d := some (bank k), a := if s.readsA p op then some (tapeTile s core a (some fa) l.1 false) else none, b := some (opB b),
             extra0 := scales, extra1 := extra b (p.gmma + 1), writes := some (32 + k) }
  | .tmul d a b =>
    { r with d := some (tile d), a := some (tapeTile s core a (some fa) l.1 false), b := some (tapeTile s core b (some fb) l.2 false),
             extra0 := s.layAt core d, extra1 := s.layAt core a, writes := some d, rerun := true }
  | .tact d a _ _ =>
    { r with d := some (tile d), a := some (tapeTile s core a (some fa) l.1 false), extra0 := s.layAt core d, extra1 := s.layAt core a,
             writes := some d, rerun := true }
  | .tadd d a b =>
    { r with d := some (tile d), a := some (tile a), b := some (tile b), extra0 := s.layAt core d, extra1 := s.layAt core a, writes := some d }
  | .tsum d a | .ttrn d a | .tcvt d a =>
    { r with d := some (tile d), a := some (tile a), extra0 := s.layAt core d, extra1 := s.layAt core a, writes := some d }
  | .tload t => { r with d := some (tile t), writes := some t, rerun := true }
  | .tstore t => { r with d := some (tile t) }
  | .adrain d k _ => { r with d := some (tile d), a := some (bank k), writes := some d }

/-- The run of an instruction begins (09 R284): its registers are sampled and its operands latched, the tile it writes is FILLING, and its
groups follow after a delay. -/
def State.startRun (s : State) (core : Nat) (p : Proc) (remote : Bool) (op : TOp) (ftz daz : Bool) (word : Nat) (delay taped : Nat)
    (resume : Option SeqState) : State :=
  let l := s.latches core p op
  let step := (resume.map SeqState.step).getD 0
  let l := match resume with
    | some q => if q.rows.isEmpty then l else ({ fmt := q.rowFmt, cols := q.rowCols, rows := q.rows, scales := q.rowScales }, l.2)
    | none => l
  let gang := match op with | .gmma _ _ _ => resume.isNone | _ => false
  let r : TRun :=
    { name := p.name, remote := remote, op := op, ftz := ftz, daz := daz, word := BitVec.ofNat 64 word, pc := p.pc,
      began := s.cycle + delay, first := step, step := step, total := s.groupsOf core op l.1, tfmt := p.tfmt, tsca := p.tsca, tscb := p.tscb,
      tnanc := p.tnanc, rmode := p.rmode, a := l.1, b := l.2, started := !gang, taped := (resume.map SeqState.taped).getD taped,
      nan := resume.bind SeqState.nan, before := (resume.map SeqState.before).getD [],
      ordinal := match op with | .gmma _ _ _ => some (p.gmma + 1) | _ => none }
  let t := match op.writes with
    | some n => s.modTileAt core n (fun y => { y with st := .filling })
    | none => s
  let u := match op with
    | .azero k => t.modBank core k (fun b => { b with owner := p.name })
    | _ => t
  if gang then u.modCore core (fun c => { c with run := some r }) else u.scheduleRun core r

/-! ### Gang products (09 R293) -/

/-- The runs of a gang's product of an ordinal: core, process key and run. -/
def State.gangRuns (s : State) (gid ordinal : Nat) : List (Nat × Nat × Proc × TRun) :=
  (s.members gid).filterMap (fun e =>
    match (s.core e.2.core).run with
    | some r => if r.name = e.2.name ∧ !r.remote ∧ r.ordinal = some ordinal then some (e.2.core, e.1, e.2, r) else none
    | none => none)

/-- A gang product ends for a member with ENGINE (09 R293; 10 R315): its bank is as before, its record is removed. -/
def State.gangAbort (s : State) (x : Nat × Nat × Proc × TRun) (reason : Nat) : State :=
  let (core, k, p, r) := x
  let bank := r.op.bank.getD 0
  let t := if r.before.isEmpty then s else s.writeMem (windowBase core + 0x100000 + bank * 0x8000) r.before
  let u := if r.taped = 0 then t else t.unrecord p r.taped
  ((u.modCore core (fun c => { c with run := none })).modProc k (fun q => { q with wait := .none })).raise k causeEngine
    (tileEngine reason 0 bank 0)

/-- A gang product ends for a member that is interrupted in it (09 R293, R303): its bank is as before, its record is removed, and it raises ENGINE when it
resumes the product. -/
def State.gangLose (s : State) (k : Nat) (p : Proc) (q : SeqState) : State :=
  let t := if q.before.isEmpty then s else s.writeMem (windowBase p.core + 0x100000 + q.bank * 0x8000) q.before
  let u := if q.taped = 0 then t else t.unrecord p q.taped
  u.modProc k (fun x => { x with seq := some { q with failed := true, before := [], taped := 0 } })

/-- The products that a gang's members are in, running or interrupted, by their ordinals; a process that leaves is not counted (09 R293). -/
def State.gangOrdinals (s : State) (gid name : Nat) : List Nat :=
  ((s.members gid).flatMap (fun e =>
    if e.2.name = name then []
    else (((s.core e.2.core).run.bind TRun.ordinal).toList ++ (e.2.seq.bind SeqState.ordinal).toList))).dedup

/-- Ends a gang's product for every member that is in it (09 R293). -/
def State.gangFail (s : State) (gid ordinal reason : Nat) : State :=
  (s.members gid).foldl (fun t e =>
    match e.2.seq with
    | some q => if q.ordinal = some ordinal ∧ !q.failed then t.gangLose e.1 e.2 q else t
    | none => t) ((s.gangRuns gid ordinal).foldl (fun t x => t.gangAbort x reason) s)

/-- GANG_PRODUCT_START (09 R293): every member has issued the product. If they agree in K and formats, each takes its source's A, and
runs. -/
def gangProductStart (gid ordinal : Nat) (s : State) : State :=
  let rs := s.gangRuns gid ordinal
  let size := ((s.group? gid).map Group.gangSize).getD 0
  if rs.length < size then s
  else
    let srcs := rs.filter (fun x => isSource (x.2.2.1.gang.getD 0) size)
    let f0 := (srcs.head?.map (fun x => (x.2.2.2.a.cols, x.2.2.2.a.fmt))).getD (0, 0)
    let b0 := (rs.head?.map (fun x => x.2.2.2.b.fmt)).getD 0
    let agree := srcs.all (fun x => (x.2.2.2.a.cols, x.2.2.2.a.fmt) == f0) && rs.all (fun x => x.2.2.2.b.cols == f0.1 && x.2.2.2.b.fmt == b0) &&
      pairOk f0.2 b0
    if !agree then s.gangFail gid ordinal 5
    else
      rs.foldl (fun t x =>
        let r := x.2.2.2
        let a := ((srcs.find? (fun y => y.2.2.1.gang == some (sourceOf (x.2.2.1.gang.getD 0)))).map (fun y => y.2.2.2.a)).getD {}
        let bank := r.op.bank.getD 0
        let q := { r with
          a := a, started := true, began := s.cycle, total := a.cols / kGroup a.fmt,
          before := readBytes s.mem (windowBase x.1 + 0x100000 + bank * 0x8000) (a.rows.length * 512) }
        t.scheduleRun x.1 q) s

/-- The product starts once the last member has issued it and each has fetched its snapshots (09 R293, 10 R317). -/
def State.gangJoin (s : State) (p : Proc) (ordinal : Nat) : State :=
  let rs := s.gangRuns p.gid ordinal
  if (((s.group? p.gid).map Group.gangSize).getD 0) ≤ rs.length then
    s.atCycle ((rs.map (fun x => x.2.2.2.began)).foldl max s.cycle) (.gangProductStart p.gid ordinal)
  else s

/-- Whether a gang has lost a member (09 R293). -/
def State.gangBroken (s : State) (p : Proc) : Bool :=
  decide (((s.members p.gid).filter (fun e => e.2.gang.isSome)).length < ((s.group? p.gid).map Group.gangSize).getD 0)

/-! ### Issuing -/

/-- The interruption that an issue continues: the sequencer's state for this word at this address (09 R303). -/
def Proc.interrupted (p : Proc) (word : Nat) : Option SeqState :=
  match p.seq with
  | some q => if q.pc = p.pc ∧ q.word.toNat = word then some q else none
  | none => none

/-- A process with the registers that an interrupted instruction sampled. -/
def Proc.sampled (p : Proc) (q : Option SeqState) : Proc :=
  match q with
  | some x => { p with tfmt := x.tfmt, tsca := x.tsca, tscb := x.tscb }
  | none => p

/-- What stops an instruction that is legal and whose tiles are READY: a tile with ERR, a stale operand of an interrupted instruction, a gang
that has lost a member before the product or during it, a gather that leaves the scratchpad, poisoned data (09 R276, R291, R293, R303, R305). -/
def State.tileFault (s : State) (core : Nat) (p : Proc) (op : TOp) (resume : Option SeqState) : Option (Nat × Word) :=
  match s.errTile core (s.namedTiles p op) with
  | some w => some (causeEngine, w)
  | none =>
    if resume.any (fun q => decide ((q.genA, q.genB, q.genI) ≠ s.gens3 core p op)) then some (causeEngine, tileEngine 4 0 0 0)
    else if (match op with | .gmma _ _ _ => (resume.isNone && s.gangBroken p) || resume.any SeqState.failed | _ => false) then
      some (causeEngine, tileEngine 1 0 (op.bank.getD 0) 0)
    else
      match (match op with | .mmag _ a _ i => s.gatherFault core a (s.indexRows core i) | _ => none) with
      | some o => some (causeLoadFault, BitVec.ofNat 64 o)
      | none => (s.poisonTile core p op).map (fun w => (causeEngine, w))

/-- The record of an interrupted instruction that ends with ENGINE when it is taken up again is removed (10 R315). -/
def State.dropRecord (s : State) (p : Proc) (resume : Option SeqState) : State :=
  match resume with
  | some q => if q.taped = 0 then s else s.unrecord p q.taped
  | none => s

/-- A synchronous tile instruction issues (09 R276, R284, R303; 10 R315 to R318), after every earlier store of its process: its checks, its record, and the start of its run, during
which the process keeps its slot. -/
def State.runTile (s : State) (k : Nat) (p : Proc) (op : TOp) (ftz daz : Bool) : State :=
  let word := (s.word p).toNat
  let resume := p.interrupted word
  let q := p.sampled resume
  let s1 := s.releaseStores k
  if s.tileHeld p.core q op then s
  else if !s.tileLegal p.core q op then s.illegal k
  else
    match s1.tileFault p.core q op resume with
    | some f =>
      let ends := resume.isSome && (f.2 == tileEngine 4 0 0 0 || f.2 == tileEngine 1 0 (op.bank.getD 0) 0)
      let cut := if ends then s1.dropRecord p resume else s1
      (if ends then cut.modProc k (fun x => { x with seq := none }) else cut).raise k f.1 f.2
    | none =>
      let go (t : State) (delay taped : Nat) : State :=
        let u := (t.startRun p.core q false op ftz daz word delay taped resume).modProc k (fun x => { x with wait := .engine })
        match op with
        | .gmma _ _ _ => if resume.isNone then u.gangJoin q (q.gmma + 1) else u
        | _ => u
      if resume.isSome then go s1 0 0
      else
        match s1.record p (s1.tapeRec p.core p op word (s1.latches p.core p op)) with
        | .none => go s1 0 0
        | .done t n len => go t (if n = 0 then 0 else 2 + n / 64) len
        | .full v => s.raise k causeTapeFull v

/-! ### Ends of groups -/

/-- The NaN record (09 Table 9.16). -/
def nanRecord (r : TRun) (n : Nat × Nat × Nat) (time : Nat) : List Byte :=
  wordsLe [BitVec.ofNat 64 (r.word.toNat % 2 ^ 32 * 2 ^ 32 + r.pc.toNat / 4 * 4),
    BitVec.ofNat 64 (n.1 % 64 * 2 ^ 58 + n.2.1 % 1024 * 2 ^ 48 + n.2.2 % 65536 * 2 ^ 32 + r.a.fmt % 16 * 2 ^ 28 + r.b.fmt % 16 * 2 ^ 24),
    BitVec.ofNat 64 time, 0]

/-- Whether an instruction can take TILE_NAN: those of majors 0x31 and 0x32 (09 R301). -/
def TOp.trapsNan : TOp → Bool
  | .mma _ _ _ | .mmag _ _ _ _ | .cmma _ _ _ | .gmma _ _ _ | .tadd _ _ _ | .tmul _ _ _ | .tact _ _ _ _ | .tsum _ _ | .ttrn _ _ => true
  | _ => false

/-- Whether an instruction is elementwise (09 R301, R303). -/
def TOp.rowwise : TOp → Bool
  | .tadd _ _ _ | .tmul _ _ _ | .tact _ _ _ _ | .tsum _ _ | .ttrn _ _ | .tcvt _ _ => true
  | _ => false

/-- The sequencer's state is saved (09 R303): the flags so far are raised, the tile that was being written is READY again, and the tile side is
free. -/
def State.saveRun (s : State) (core k : Nat) (p : Proc) (r : TRun) : State :=
  let t := match r.op.writes with
    | some n => s.modTileAt core n (fun y => { y with
        st := .ready, gen := if r.total ≤ r.step then (y.gen + 1) % 256 else y.gen })
    | none => s
  let g := t.gens3 core p r.op
  let gang := match r.op with | .gmma _ _ _ => true | _ => false
  -- the rows that a resumed run could not read again: those sent by a source, and those that a transpose in place has overwritten
  let kept := match r.op with | .gmma _ _ _ => true | .ttrn d a => d == a | _ => false
  (t.modCore core (fun c => { c with run := none })).modProc k (fun x => { x.raiseFlags r.flags with
    wait := if x.wait = .engine then .none else x.wait,
    gmma := if gang ∧ r.total ≤ r.step then x.gmma else x.gmma,
    seq := some { word := BitVec.ofNat 32 r.word.toNat, pc := r.pc, step := r.step, tfmt := r.tfmt, tsca := r.tsca, tscb := r.tscb,
                  genA := g.1, genB := g.2.1, genI := g.2.2, nan := r.nan,
                  rows := if kept then r.a.rows else [], rowScales := if kept then r.a.scales else [],
                  rowCols := if kept then r.a.cols else 0, rowFmt := if kept then r.a.fmt else 0,
                  ordinal := if gang then r.ordinal else none, bank := r.op.bank.getD 0, before := r.before, taped := r.taped } })

/-- TILE_NAN (09 R301): the record is written where it lies in the scratchpad, the sequencer's state is saved, and the process traps. -/
def State.trapNan (s : State) (core k : Nat) (p : Proc) (r : TRun) (n : Nat × Nat × Nat) : State :=
  let off := r.tnanc.toNat % 2 ^ 24
  let t := if off + 32 ≤ scratchSize core then s.writeMem (windowBase core + off) (nanRecord r n s.gtc) else s
  (t.saveRun core k p { r with nan := none }).raise k causeTileNan (BitVec.ofNat 64 (0xC0000000000000 + off))

/-- A run that ends (09 R284, R302): the tile it wrote is READY with a new generation, its flags are raised, and the instruction of its process
retires in this cycle; the slot may issue in the next. -/
def State.finishRun (s : State) (core : Nat) (r : TRun) : State :=
  let t := (match r.op.writes with
    | some n => s.modTileAt core n (fun y => { y with
        st := .ready, gen := if r.total = r.first then y.gen else (y.gen + 1) % 256 })
    | none => s).modCore core (fun c => { c with run := none })
  t.modNamed r.name (fun k p u =>
    let v := u.putProc k (p.raiseFlags r.flags)
    if r.remote then v
    else
      let n := match r.op with | .gmma _ _ _ => 1 | _ => 0
      (((v.modProc k (fun q => { q with wait := .none, seq := none, gmma := q.gmma + n })).retire k 0 []).modSlot p.slotKey
        (fun x => { x with next := max x.next (s.cycle + 1) })).endEngine k)

/-- One group of a run has ended: its effects, and the run with the step, flags and NaN after it. -/
def State.stepRun (s : State) (core : Nat) (r : TRun) : State × TRun × Option (Nat × Nat × Nat) :=
  if r.total ≤ r.step then (s, r, none)
  else
    let g := s.runGroup core r
    let fresh := if tfmtNant r.tfmt && r.op.trapsNan && !r.remote then g.nan else none
    (g.s, { r with step := r.step + 1, flags := r.flags ||| g.flags,
                   nan := if r.op.rowwise then r.nan.or fresh else none }, if r.op.rowwise then none else fresh)

/-- A group that is not the last has ended (09 R290, R301, R303). The NaN trap falls here, and a suspension is taken. -/
def State.passGroup (s : State) (core : Nat) : State :=
  match (s.core core).run with
  | some r =>
    if r.due ≠ s.cycle || !r.started then s
    else
      let (t, q, nan) := s.stepRun core r
      match (if r.remote then none else t.named r.name), nan with
      | some (k, p), some n => if p.wait = .engine then t.trapNan core k p q n else t.saveRun core k p q
      | some (k, p), none =>
        -- a process that a store fault has stopped, or that is to be suspended, is interrupted
        if p.wait ≠ .engine then t.saveRun core k p q
        else if !p.suspend.isEmpty && p.st != .trapped then (t.saveRun core k p q).park k .boundary
        else t.scheduleRun core q
      | none, _ => t.scheduleRun core q
  | none => s

/-- The last group of a run ends (09 R301, R302). -/
def State.endRun (s : State) (core : Nat) : State :=
  match (s.core core).run with
  | some r =>
    if r.due ≠ s.cycle || !r.started then s
    else
      let (t, q, nan) := s.stepRun core r
      match (if r.remote then none else t.named r.name) with
      | some (k, p) =>
        if p.wait ≠ .engine then t.saveRun core k p q
        else
          match nan.or q.nan with
          | some n => t.trapNan core k p q n
          | none => t.finishRun core q
      | none => t.finishRun core q
  | none => s

/-! ### Meanings -/

def execTcvt (d a : BitVec 5) (z y : BitVec 1) (s : State) := onCur s (fun k p => s.runTile k p (.tcvt d.toNat a.toNat) (z = 1) (y = 1))
def execMma (b : BitVec 1) (x y : BitVec 5) (z w : BitVec 1) (s : State) :=
  onCur s (fun k p => s.runTile k p (.mma b.toNat x.toNat y.toNat) (z = 1) (w = 1))
def execMmag (b : BitVec 1) (x y : BitVec 5) (z w : BitVec 1) (t : BitVec 5) (s : State) :=
  onCur s (fun k p => s.runTile k p (.mmag b.toNat x.toNat y.toNat t.toNat) (z = 1) (w = 1))
def execCmma (b : BitVec 1) (x y : BitVec 5) (z w : BitVec 1) (s : State) :=
  onCur s (fun k p => s.runTile k p (.cmma b.toNat x.toNat y.toNat) (z = 1) (w = 1))
def execGmma (b : BitVec 1) (x y : BitVec 5) (z w : BitVec 1) (s : State) :=
  onCur s (fun k p => s.runTile k p (.gmma b.toNat x.toNat y.toNat) (z = 1) (w = 1))
def execAzero (b : BitVec 1) (s : State) := onCur s (fun k p => s.runTile k p (.azero b.toNat) false false)
def execTadd (d a b : BitVec 5) (z y : BitVec 1) (s : State) :=
  onCur s (fun k p => s.runTile k p (.tadd d.toNat a.toNat b.toNat) (z = 1) (y = 1))
def execTmul (d a b : BitVec 5) (z y : BitVec 1) (s : State) :=
  onCur s (fun k p => s.runTile k p (.tmul d.toNat a.toNat b.toNat) (z = 1) (y = 1))
def execTact (d a x : BitVec 5) (z y : BitVec 1) (f : BitVec 3) (s : State) :=
  onCur s (fun k p => s.runTile k p (.tact d.toNat a.toNat x.toNat f.toNat) (z = 1) (y = 1))
def execTsum (d a : BitVec 5) (z y : BitVec 1) (s : State) := onCur s (fun k p => s.runTile k p (.tsum d.toNat a.toNat) (z = 1) (y = 1))
def execTtrn (d a : BitVec 5) (s : State) := onCur s (fun k p => s.runTile k p (.ttrn d.toNat a.toNat) false false)

end Sys2Proof.Machine
end

