-- ==== Sys2Proof/Machine/TileMove.lean ====
section
/-! DEFINITION. The asynchronous tile instructions: loads, stores, drains and remote commands, and the ends of runs (09 R285 to R287,
R294, R295, R299, R300, R302). -/

namespace Sys2Proof.Machine

/-! ### Transfers between tiles and memory (09 R285 to R287) -/

/-- A range of virtual addresses in pieces of one page each: the pieces as physical address and length, or the address that faults. -/
def State.pageParts (s : State) (a : Agent) (needR needW : Bool) (va : Nat) : Nat → Nat → Except Nat (List (Nat × Nat))
  | 0, _ => .ok []
  | fuel + 1, n =>
    if n = 0 then .ok []
    else
      let m := min n (4096 - va % 4096)
      match s.translateNow a.core a.asid a.root a.level va needR needW with
      | none => .error va
      | some pa =>
        match s.pageParts a needR needW (va + m) fuel (n - m) with
        | .ok ps => .ok ((pa, m) :: ps)
        | .error e => .error e

/-- The pieces of a tile's rows and scale array at a virtual address with a row step (09 R285). -/
def State.tileParts (s : State) (a : Agent) (lay : Word) (load : Bool) (va : Word) (step : Word) : Except Nat (List (Nat × Nat)) :=
  let row (r : Nat) : Nat := (va + BitVec.ofNat 64 r * step).toNat
  let scales := round16 (row (layRows lay))
  ((List.range (layRows lay)).map (fun r => (row r, layRowBytes lay)) ++ [(scales, layScales lay)]).foldl (fun acc x =>
    match acc with
    | .error e => .error e
    | .ok ps =>
      match s.pageParts a load (!load) x.1 (x.2 + 1) x.2 with
      | .ok qs => .ok (ps ++ qs)
      | .error e => .error e) (.ok [])

/-- D of R206 for a streamer of a core's fold and a place of memory (09 R287). -/
def State.streamWay (s : State) (core pa : Nat) : Nat :=
  match placeOf pa with
  | .core c _ => s.oneway core c
  | _ => s.wayTo core pa

/-- Whether a place is in HBM. -/
def inHbm (pa : Nat) : Bool :=
  match placeOf pa with
  | .hbm _ _ => true
  | _ => false

/-- The 2 KiB slices that pieces touch, in ascending address order, with the bytes in each (09 R287). -/
def slicesOf (ps : List (Nat × Nat)) : List (Nat × Nat) :=
  let cutAt (x : Nat × Nat) : List (Nat × Nat) :=
    let n := 2048 - x.1 % 2048
    if x.2 ≤ n then [(x.1 / 2048, x.2)]
    else (x.1 / 2048, n) :: (List.range ((x.2 - n + 2047) / 2048)).map (fun i => (x.1 / 2048 + 1 + i, min 2048 (x.2 - n - 2048 * i)))
  (ps.flatMap cutAt).foldl (fun (l : Tab Nat) x => tput l x.1 (tgetD l x.1 0 + x.2)) []

/-- The accesses of a streamer to the slices that pieces touch, one a cycle (09 R287): the state that they leave, and the time and bytes of each. -/
def State.sliceTrips (s : State) (core : Nat) (ps : List (Nat × Nat)) : State × List (Nat × Nat) :=
  let sl := slicesOf ps
  let r := s.trips (fun u x =>
    let way := u.streamWay core (x.2.1 * 2048)
    let at_ := u.cycle + x.1 + way
    (u.bookAt at_ (x.2.1 * 2048) x.2.2, x.1 + 2 * way + u.serviceTime at_ (x.2.1 * 2048) x.2.2)) (sl.mapIdx (fun i x => (i, x)))
  (r.1, r.2.zip (sl.map Prod.snd))

/-- The cycles from issue to READY of a TLOAD or TSTORE (09 R287). -/
def State.tileTime (s : State) (core : Nat) (ps : List (Nat × Nat)) (load : Bool) : Nat :=
  let bytes := (ps.map Prod.snd).sum
  if ps.any (fun x => inHbm x.1) then
    let sl := (s.sliceTrips core ps).2
    if load then (sl.foldl (fun w x => max w x.1 + lenP x.2) 0) + 2 else ((sl.map Prod.fst).foldl max 0) + 2
  else 2 * s.streamWay core ((ps.headD (0, 0)).1) + lenP bytes + 2

/-- The drovers with the accesses of a streamer for pieces entered (08 R409). -/
def State.bookSlices (s : State) (core : Nat) (ps : List (Nat × Nat)) : State :=
  if ps.any (fun x => inHbm x.1) then (s.sliceTrips core ps).1 else s

/-- Pieces cut into parts of aligned words. -/
def wordParts (ps : List (Nat × Nat)) : List (Nat × Nat) := ps.flatMap (fun x => pieces x.1 x.2 x.2)

/-- Why a part of a transfer fails: the code of Table 8.7, and no part of a transfer fails where there is none (09 R287, 08 Table 8.7). -/
def State.partFault (s : State) (core gid level pa n : Nat) (wr : Bool) : Option Nat :=
  if !s.reachable (pkgOf core) (pkgOfAddr pa) && s.packages.contains (pkgOfAddr pa) then some 6
  else if !s.backed pa n then some 5
  else if !s.passes core gid level pa n (!wr) wr then some 2
  else if wordRow pa && !(n == 8 && decide (pa % 8 = 0)) then some 5
  else if !wr && s.poisoned pa n then some 4
  else none

/-- The stream of bytes of a tile: its rows and then its scales. -/
def State.tileStream (s : State) (core n : Nat) : List Byte :=
  let y := s.tileAt core n
  (s.tileRows core n none).flatten ++ readBytes s.mem (windowBase core + y.scale) (layScales y.layout)

/-- A stream of bytes written into a tile's rows and scales. -/
def State.putStream (s : State) (core n : Nat) (bs : List Byte) : State :=
  let y := s.tileAt core n
  let rb := layRowBytes y.layout
  let t := (List.range (layRows y.layout)).foldl (fun t r =>
    t.writeMem (windowBase core + y.base + r * layStep y.layout) ((bs.drop (r * rb)).take rb)) s
  if layScales y.layout = 0 then t
  else t.writeMem (windowBase core + y.scale) ((bs.drop (layBytes y.layout)).take (layScales y.layout))

/-- The bytes that parts of memory hold. -/
def State.partBytes (s : State) (ps : List (Nat × Nat)) : List Byte := ps.flatMap (fun x => leBytes x.2 (s.loadPhys x.1 x.2))

/-- A stream of bytes written to parts of memory that may be written. -/
def State.putParts (s : State) (core name gid level : Nat) (ps : List (Nat × Nat)) (bs : List Byte) : State :=
  (ps.foldl (fun (acc : State × List Byte) x =>
    (if (acc.1.partFault core gid level x.1 x.2 true).isSome then acc.1
     else acc.1.storePhys core name x.1 x.2 (leNat (acc.2.take x.2)), acc.2.drop x.2)) (s, bs)).1

/-- A free mixture of old and new bytes, which a broken transfer leaves (09 R287; log 7). -/
def State.mixture (s : State) (old new : List Byte) : List Byte :=
  old.mapIdx (fun i b => brokenByte (Config.freeWord (s.free + i)) false b (new.getD i b))

/-- What a transfer that fails or is cancelled leaves in its target: a free mixture of old and new (09 R287, R308; log 7). -/
def State.breakTransfer (s : State) (core n : Nat) : State :=
  let y := s.tileAt core n
  match y.job with
  | some (wr, ps, c, gid, level) =>
    let parts := wordParts ps
    if wr then
      let new := s.tileStream core n
      { s.putParts c y.owner gid level parts (s.mixture (s.partBytes parts) new) with free := s.free + new.length }
    else
      let old := s.tileStream core n
      { s.putStream core n (s.mixture old (s.partBytes parts)) with free := s.free + old.length }
  | none => s

/-- The transfer of a tile ends (09 R287, Table 9.9); poisoned data of either side ends it with POISON. -/
def State.endTransfer (s : State) (core n : Nat) : State :=
  let y := s.tileAt core n
  let next := (y.gen + 1) % 256
  match y.job with
  | some (wr, ps, c, gid, level) =>
    let parts := wordParts ps
    let gen := if wr then y.gen else next
    let own := if wr && s.tilePoisoned core n 0 none then some (4, windowBase core + y.base) else none
    match (parts.findSome? (fun x => (s.partFault c gid level x.1 x.2 wr).map (fun e => (e, x.1)))).or own with
    | some (e, pa) =>
      let t := (s.breakTransfer core n).modTileAt core n (fun z => { z with
        st := .ready, err := true, errc := e, gen := gen, job := none, due := 0 })
      if e = 6 then t.peerFail gid (pkgOfAddr pa) else t
    | none =>
      (if wr then s.putParts c y.owner gid level parts (s.tileStream core n) else s.putStream core n (s.partBytes parts)).modTileAt core n
        (fun z => { z with st := .ready, gen := gen, job := none, due := 0 })
  | none => s.modTileAt core n (fun z => { z with st := .ready, gen := next, due := 0 })

/-- A transfer of a tile begins (09 R285 to R287). -/
def State.beginTileTransfer (s : State) (core n : Nat) (a : Agent) (load : Bool) (ps : List (Nat × Nat)) : State :=
  let due := s.cycle + s.tileTime core ps load
  ((s.bookSlices core ps).modTileAt core n (fun y => { y with
    st := if load then .filling else .draining, due := due, job := some (!load, ps, a.core, a.gid, a.level) })).atCycle due
      (.tileTransferComplete core n)

/-- A TLOAD or TSTORE of a process (09 R285, R286). -/
def State.moveTile (s : State) (k : Nat) (p : Proc) (t : Nat) (ga gb : Reg) (load : Bool) : State :=
  let op : TOp := if load then .tload t else .tstore t
  if !hasVtu p.core then s.illegal k
  else if s.tileHeld p.core p op then s
  else s.issue k p [plainField ga 0, plainField gb 1] [] (fun vals c =>
    if !s.tileLegal p.core p op then s.illegal k
    else
      match s.errTile p.core [t] with
      | some w => s.raise k causeEngine w
      | none =>
        let lay := s.layAt p.core t
        let step := if vals.getD 1 0 = 0 then BitVec.ofNat 64 (layRowBytes lay) else vals.getD 1 0
        match s.tileParts (s.agentOf p) lay load (vals.getD 0 0) step with
        | .error va => s.raise k causeLoadFault (BitVec.ofNat 64 va)
        | .ok ps =>
          let go (u : State) : State := ((u.releaseStores k).beginTileTransfer p.core t (s.agentOf p) load ps).retire k c []
          let r := s.tapeRec p.core p op (s.word p).toNat ({}, {})
          match s.record p { r with extra0 := vals.getD 0 0, extra1 := step } with
          | .none => go s
          | .done u _ _ => go u
          | .full v => s.raise k causeTapeFull v)

def execTload (d : BitVec 5) (a b : Reg) (s : State) := onCur s (fun k p => s.moveTile k p d.toNat a b true)
def execTstore (d : BitVec 5) (a b : Reg) (s : State) := onCur s (fun k p => s.moveTile k p d.toNat a b false)

/-! ### Drains (09 R294, R295) -/

/-- The bank bytes that a drain of a layout reads, and the cycles in which it reads them (09 R294). -/
def drainBytes (lay : Word) (acc : Nat) : Nat := layRows lay * layCols lay * (if acc = 9 then 16 else 4)

/-- A drain begins (09 R294): the bank is being drained until its last read. -/
def State.beginDrain (s : State) (core : Nat) (p : Proc) (d k : Nat) (ftz rel : Bool) (remote : Option (Nat × Nat × Nat × Nat × Bool)) : State :=
  let lay := s.layAt core d
  let acc := tfmtAcc p.tfmt
  let due := s.cycle + 2 + lenB (drainBytes lay acc)
  let x : Drain :=
    { name := p.name, tile := d, layout := lay, ftz := ftz, rel := rel, acc := acc, due := due, gid := p.gid, level := p.level, remote := remote }
  let t := s.modBank core k (fun b => { b with drain := some x })
  (if remote.isNone then t.modTileAt core d (fun y => { y with st := .filling }) else t).atCycle due (.drainComplete core k)

/-- The rows that a drain delivers, as element codes, and the flags (09 R294). -/
def State.drained (s : State) (core k : Nat) (x : Drain) : List (List Nat) × FlagSet :=
  let f := layFormat x.layout
  let rows := (List.range (layRows x.layout)).map (fun i =>
    (List.range (layCols x.layout)).map (fun j => drainElem x.acc f x.ftz (s.bankElem core k x.acc i j)))
  (rows.map (fun r => r.map Prod.fst), (rows.flatten.map Prod.snd).foldl (fun x y => x ||| y) 0)

/-- Whether a drain meets poisoned words of its bank (13 R401). -/
def State.drainPoisoned (s : State) (core k : Nat) (x : Drain) : Bool :=
  (List.range (layRows x.layout)).any (fun i =>
    s.poisoned (bankAddr core k x.acc i 0) (layCols x.layout * (if x.acc = 9 then 16 else 4)))

/-- The first byte, in the drained rows, of each element that comes from a poisoned word of the bank (13 R401): poison travels with it. -/
def State.drainHurt (s : State) (core k : Nat) (x : Drain) : List (Nat × Nat) :=
  if !s.drainPoisoned core k x then []
  else
    let f := layFormat x.layout
    (List.range (layRows x.layout)).flatMap (fun i => (List.range (layCols x.layout)).filterMap (fun j =>
      if s.poisoned (bankAddr core k x.acc i j) (if x.acc = 9 then 16 else 4) then some (i, j * formatBits f / 8) else none))

/-- The last read of a drain (09 R294, R295): a local tile gets its rows and is READY 2 cycles later; with .R they set out as remote
stores. DEDUCED (log 57): the flags, which the elements read raise, are ORed here, though the instruction has retired (R284). -/
def State.endDrain (s : State) (core k : Nat) : State :=
  match (s.bankAt core k).drain with
  | none => s
  | some x =>
    if x.due ≠ s.cycle then s
    else
      let hurt := s.drainHurt core k x
      let r := s.drained core k x
      let t := (s.modBank core k (fun b => { b with drain := none, owner := if x.rel then 0 else b.owner })).modNamed x.name
        (fun kp p u => u.putProc kp (p.raiseFlags r.2))
      let f := layFormat x.layout
      match x.remote with
      | none =>
        let u := ((List.range r.1.length).foldl (fun u i => (u.putRow core x.tile i (r.1.getD i []) []).1) t).poisonAt
          (hurt.map (fun y => windowBase core + (t.tileAt core x.tile).base + y.1 * layStep x.layout + y.2))
        (u.modTileAt core x.tile (fun y => { y with due := s.cycle + 2 })).after 2 (.tileTransferComplete core x.tile)
      | some (key, tid, target, off, wake) =>
        let n := layBytes x.layout
        t.after (2 * s.oneway core target + lenP n + 2) (.transferComplete
          { owner := x.name, core := core, key := key, tid := tid,
            job := .drain (r.1.map (rowBytes f)) (hurt.map (fun y => y.1 * layRowBytes x.layout + y.2)) target off (layStep x.layout) wake
              x.gid x.level })

/-- The writes of a remote drain (09 R295): each 8-byte word through the target's window; one refused or failed ends it with a free mixture
in the target range. Poison travels with its words (13 R401). -/
def State.completeDrain (s : State) (x : Transfer) (rows : List (List Byte)) (hurt : List Nat) (target off step : Nat) (wake : Bool) (gid level : Nat) : State :=
  let parts (i n : Nat) : List (Nat × Nat) := pieces (windowBase target + off + i * step) n n
  let all := (List.range rows.length).flatMap (fun i => parts i (rows.getD i []).length)
  let fault := all.findSome? (fun y => (s.partFault x.core gid level y.1 y.2 true).map (fun e => (e, y.1)))
  let failed := fault.isSome
  let width := (rows.getD 0 []).length
  let bytes := rows.flatten
  let t := if fault.isSome then
      { s.putParts x.core x.owner gid level all (s.mixture (s.partBytes all) bytes) with free := s.free + bytes.length }
    else (s.putParts x.core x.owner gid level all bytes).poisonAt
      (hurt.map (fun i => windowBase target + off + i / width * step + i % width))
  let t1 := match fault with
    | some (6, pa) => t.peerFail gid (pkgOfAddr pa)
    | _ => t
  match t1.endAt ⟨x.key / 512, x.key % 512, 0⟩ with
  | some (ke, e) =>
    let u := t1.transferDone ke x.tid failed
    if wake && !failed then u.after (u.oneway (ke / 512) e.peer.core) (.wakeup e.peer) else u
  | none => t1

/-- The checks of a drain's bank and tile: it goes on if there is nothing against it. -/
def State.drainIssue (s : State) (k : Nat) (p : Proc) (op : TOp) (d : Nat) (go : State) : State :=
  if s.tileHeld p.core p op then s
  else if !s.tileLegal p.core p op then s.illegal k
  else
    match s.errTile p.core [d] with
    | some w => s.raise k causeEngine w
    | none => go

/-- ADRAIN into a local tile (09 R294). -/
def execAdrain (d : BitVec 5) (b : BitVec 1) (z x : BitVec 1) (s : State) :=
  onCur s (fun k p =>
    let op : TOp := .adrain d.toNat b.toNat (x = 1)
    s.drainIssue k p op d.toNat (
      let go (u : State) : State := ((u.releaseStores k).beginDrain p.core p d.toNat b.toNat (z = 1) (x = 1) none).retire k 0 []
      match s.record p (s.tapeRec p.core p op (s.word p).toNat ({}, {})) with
      | .none => go s
      | .done u _ _ => go u
      | .full v => s.raise k causeTapeFull v))

/-- ADRAIN.R (09 R295): the drain takes the next transfer identifier of a signal send end. A target that names no core is LOAD_FAULT (04 R71). -/
def execAdrainR (d : BitVec 5) (b : BitVec 1) (g : Reg) (z x w : BitVec 1) (s : State) :=
  onCur s (fun k p =>
    let op : TOp := .adrain d.toNat b.toNat (x = 1)
    if !hasVtu p.core then s.illegal k
    else if s.tileHeld p.core p op then s
    else s.issue k p [plainField g 1] [] (fun vals c =>
      let v := vals.getD 0 0
      let target := (v.extractLsb' 39 25).toNat
      let h := (v.extractLsb' 32 6).toNat
      let off := v.toNat % 2 ^ 24
      if v.getLsbD 38 || v.extractLsb' 24 8 ≠ 0 then s.illegal k
      else s.drainIssue k p op d.toNat (
        if !coreIdOk target then s.raise k causeLoadFault (BitVec.ofNat 64 target)
        else match s.handle p.name h with
        | none => s.raise k causeChanRights (BitVec.ofNat 64 h)
        | some (ke, e) =>
          if e.recv then s.raise k causeChanRights (BitVec.ofNat 64 h)
          else if typKind e.typ ≠ 3 || e.server.isSome then s.raise k causeChanType (BitVec.ofNat 64 h)
          else if off % 16 ≠ 0 then s.raise k causeMisalign v
          else if 65535 ≤ e.infl then s
          else
            let go (v : State) : State :=
              let u := v.releaseStores k
              let t := u.endReserve ke e
              let e1 := (t.ep ke).getD e
              ((t.putEp ke { e1 with issued := nextId e1, infl := e1.infl + 1, ids := e1.ids ++ [(nextId e1, false)] }).beginDrain p.core p
                d.toNat b.toNat (z = 1) (x = 1) (some (ke, nextId e1, target, off, w = 1))).retire k c []
            let r := s.tapeRec p.core p op (s.word p).toNat ({}, {})
            match s.record p { r with extra0 := v, writes := none } with
            | .none => go s
            | .done u _ _ => go u
            | .full f => s.raise k causeTapeFull f)))

/-! ### Remote commands (09 R299, R300) -/

/-- The command that a word stands for (09 R299): a TLOAD, TSTORE, TCVT, MMA, MMAG, CMMA, AZERO, local ADRAIN or a word of major 0x32 that
keeps R59, with FTZ, DAZ and the two fields that can name g registers. -/
def commandOf (w : Nat) : Option (TOp × Bool × Bool × Nat × Nat) :=
  let d := field5 w 21
  let a := field5 w 16
  let b := field5 w 11
  let fn := w / 2 ^ 7 % 16
  let z := w / 2 ^ 6 % 2 == 1
  let y := w / 2 ^ 5 % 2 == 1
  let m := w % 32
  let plain := !z && !y && m == 0
  let ok (c : Bool) (op : TOp) : Option (TOp × Bool × Bool × Nat × Nat) := if c then some (op, z, y, a, b) else none
  if 2 ^ 32 ≤ w then none
  else
    match w / 2 ^ 26, fn with
    | 0x30, 2 => ok (plain && decide (a < 16) && decide (b < 16)) (.tload d)
    | 0x30, 3 => ok (plain && decide (a < 16) && decide (b < 16)) (.tstore d)
    | 0x30, 4 => ok (b == 0 && m == 0) (.tcvt d a)
    | 0x31, 0 => ok (decide (d < 2) && m == 0) (.mma d a b)
    | 0x31, 1 => ok (decide (d < 2)) (.mmag d a b m)
    | 0x31, 2 => ok (decide (d < 2) && m == 0) (.cmma d a b)
    | 0x31, 4 => ok (decide (d < 2) && a == 0 && b == 0 && plain) (.azero d)
    | 0x31, 5 => ok (decide (a < 2) && b == 0 && !y && (m == 0 || m == 4)) (.adrain d a (m == 4))
    | 0x32, 0 => ok (m == 0) (.tadd d a b)
    | 0x32, 1 => ok (m == 0) (.tmul d a b)
    | 0x32, 2 => ok (decide (m ≤ 4) && (b == 0 || m == 1)) (.tact d a b m)
    | 0x32, 3 => ok (b == 0 && m == 0) (.tsum d a)
    | 0x32, 4 => ok (b == 0 && plain) (.ttrn d a)
    | _, _ => none

/-- The tiles a command reads and writes, and whether it reads and writes its bank (09 R300). -/
def TOp.readTiles (op : TOp) : List Nat :=
  match op with
  | .tload _ | .adrain _ _ _ => []
  | .tstore t => [t]
  | .tcvt _ a | .tsum _ a | .ttrn _ a | .tact _ a _ _ | .tadd _ a _ | .tmul _ a _ => a :: (match op with | .tadd _ _ b | .tmul _ _ b => [b] | _ => [])
  | op => op.tiles true false
def TOp.needsR (op : TOp) : Bool :=
  !op.readTiles.isEmpty || (match op with | .adrain _ _ _ | .mma _ _ _ | .mmag _ _ _ _ | .cmma _ _ _ => true | _ => false)
def TOp.needsW (op : TOp) : Bool :=
  op.writes.isSome || (match op with | .azero _ | .mma _ _ _ | .mmag _ _ _ _ | .cmma _ _ _ => true | _ => false)

/-- The mark in a hold of a TCMD that waits for its answer. -/
def commandMark : Nat := 10

/-- TCMD (09 R299, R300): the sender waits in its slot for the target's answer. -/
def execTcmd (a b : Reg) (s : State) :=
  onCur s (fun k p =>
    if !hasVtu p.core then s.illegal k
    else s.issue k p [plainField a 0, plainField b 1] [] (fun vals c =>
      let cap := vals.getD 0 0
      let w := vals.getD 1 0
      match commandOf w.toNat with
      | none => s.raise k causeIllegal w
      | some (op, _, _, fa, fb) =>
        let regs := match op with | .tload _ | .tstore _ => true | _ => false
        let names := if regs then [plainField (BitVec.ofNat 4 fa) 0, plainField (BitVec.ofNat 4 fb) 1] else []
        s.issue k p names [] (fun rs c2 =>
          let core := (cap.extractLsb' 39 25).toNat
          let m : TCommand :=
            { sender := p.name, core := core, tc := (cap.extractLsb' 34 5).toNat, canW := cap.getLsbD 33, canR := cap.getLsbD 32,
              check := cap.toNat % 2 ^ 32, word := BitVec.ofNat 32 w.toNat, va := rs.getD 0 0, vb := rs.getD 1 0,
              away := core != p.core, gid := p.gid, level := p.level }
          let pkg := pkgOf core
          if s.sideBusy p.core then s
          else if !coreIdOk core then s.raise k causeLoadFault (BitVec.ofNat 64 core)
          else if s.packages.contains pkg && !s.reachable (pkgOf p.core) pkg then
            let ix := (s.group? p.gid).bind (fun g => g.peers.findIdx? (fun x => peerNames x pkg))
            (s.peerFail p.gid pkg).raise k causePeerFail (BitVec.ofNat 64 (ix.getD 64))
          else if 8 ≤ (s.core core).commands.length then s
          else
            let way := if s.packages.contains pkg then s.oneway p.core core else 1
            ((s.releaseStores k).modProc k (fun q => { q with
              wait := .engine, hold := some { consume := c ||| c2, issuedAt := s.cycle, arg2 := commandMark } })).after (way + 1)
                (.tileCommandArrival m))))

/-- The physical address of the tile-table entry that a command names (04 Table 4.2). -/
def commandEntry (m : TCommand) : Nat := windowBase m.core + 0x118000 + m.tc * 64

/-- Whether the target of a command takes it (09 R300). DEDUCED (log 58): the windows of the target, by which a command from another core is checked too (04
R77), are asked for the entry tc, with the rights that the command needs. -/
def State.commandOk (s : State) (m : TCommand) (op : TOp) : Bool :=
  let y := s.tileAt m.core m.tc
  hasVtu m.core && s.packages.contains (pkgOf m.core) && !(s.fold (foldOf m.core)).fenced &&
  y.st != .empty && (s.named y.owner).isSome && y.check == m.check && m.check != 0 &&
  (op.tiles true false).all (s.owns m.core y.owner) &&
  (match op.bank with | some k => (s.bankAt m.core k).owner == y.owner | none => true) &&
  (!op.needsR || m.canR) && (!op.needsW || m.canW) &&
  (!m.away || decide (m.level ≠ 0) || s.windowAccepts (commandEntry m) 64 m.gid op.needsR op.needsW)

/-- The gradient tiles of a process's tape: those its tiles and banks point to (10 R324). -/
def State.gradTiles (s : State) (p : Proc) : List Nat :=
  ((List.range 32).filterMap (fun n =>
    let y := s.tileAt p.core n
    if y.owner = p.name ∧ y.adjv then some y.adj else none)) ++
  (match s.tapeOf p with
   | some t => [t.bankGrad 0, t.bankGrad 1].filterMap id
   | none => [])

/-- Whether a command waits for a REVERSE of its owner (10 Table 10.13). -/
def State.reverseHolds (s : State) (p : Proc) (op : TOp) : Bool :=
  (match s.tapeOf p with | some t => t.st == .reversing && p.wait == .engine | none => false) &&
  (op.tiles true (op.wide p.tfmt)).any (s.gradTiles p).contains

/-- A command whose execution would trap (09 R300): ERR on its first named destination tile, and nothing else. -/
def State.refuseCommand (s : State) (core name : Nat) (op : TOp) : State :=
  match (match op with | .tstore t => some t | o => o.writes) with
  | some n => if s.owns core name n then s.modTileAt core n (fun y => { y with err := true, errc := 2 }) else s
  | none => s

/-- The tile side of a core takes the commands that wait (09 R300), in order, until one has to wait or runs. Each runs for the process that owned tc when it
was accepted. -/
def State.runCommands (s : State) (core : Nat) : Nat → State
  | 0 => s
  | fuel + 1 =>
    if (s.core core).run.isSome then s
    else
      match (s.core core).commands with
      | [] => s
      | m :: rest =>
        let pop (t : State) : State := t.modCore core (fun c => { c with commands := rest })
        match s.named m.owner, commandOf m.word.toNat with
        | some (_, p), some (op, ftz, daz, _, _) =>
          if p.core ≠ core || !s.tileLegal core p op || (s.errTile core (s.namedTiles p op)).isSome then
            ((pop s).refuseCommand core p.name op).runCommands core fuel
          else if s.tileWaits core p op || s.reverseHolds p op then s
          else
            match op with
            | .tload t | .tstore t =>
              let load := match op with | .tload _ => true | _ => false
              let lay := s.layAt core t
              let step := if m.vb = 0 then BitVec.ofNat 64 (layRowBytes lay) else m.vb
              match s.tileParts (s.agentOf p) lay load m.va step with
              | .error _ => ((pop s).refuseCommand core p.name op).runCommands core fuel
              | .ok ps => ((pop s).beginTileTransfer core t (s.agentOf p) load ps).runCommands core fuel
            | .adrain d k rel => ((pop s).beginDrain core p d k ftz rel none).runCommands core fuel
            | _ =>
              if (s.tileFault core p op none).isSome then ((pop s).refuseCommand core p.name op).runCommands core fuel
              else (pop s).startRun core p true op ftz daz m.word.toNat 0 0 none
        | _, _ => (pop s).runCommands core fuel

/-- TILE_COMMAND_ARRIVAL (09 R300): the command is refused or joins the queue; the answer travels back. -/
def tileCommandArrival (m : TCommand) (s : State) : State :=
  let way := match s.named m.sender with
    | some (_, p) => if s.packages.contains (pkgOf m.core) then s.oneway p.core m.core else 1
    | none => 1
  match commandOf m.word.toNat, s.named m.sender with
  | some (op, _, _, _, _), some _ =>
    if !s.commandOk m op then s.after (way + 1) (.tileCommandAnswer m false)
    else if 8 ≤ (s.core m.core).commands.length then s.after 1 (.tileCommandArrival m)
    else
      ((s.modCore m.core (fun c => { c with commands := c.commands ++ [{ m with owner := (s.tileAt m.core m.tc).owner }] })).after (way + 1) (.tileCommandAnswer m true)).runCommands m.core 8
  | _, _ => s

/-- TILE_COMMAND_ANSWER (09 R300): an accepted command lets the sender go on; a refused one is WINDOW_NAK with the address of entry tc. -/
def tileCommandAnswer (m : TCommand) (accepted : Bool) (s : State) : State :=
  s.modNamed m.sender (fun k p t =>
    match p.wait, p.hold with
    | .engine, some h =>
      if h.arg2 ≠ commandMark then t
      else
        let u := t.modProc k (fun q => { q with wait := .none })
        if accepted then (u.retire k h.consume []).endEngine k
        else (u.raise k causeWindowNak (BitVec.ofNat 64 (commandEntry m))).endEngine k
    | _, _ => t)

/-! ### Events that free the tile side -/

/-- TILE_TRANSFER_COMPLETE (09 R287, R294). -/
def tileTransferComplete (core tile : Nat) (s : State) : State :=
  let y := s.tileAt core tile
  if y.due ≠ s.cycle || y.owner = 0 then s else (s.endTransfer core tile).runCommands core 8

/-- DRAIN_COMPLETE (09 R294). -/
def drainComplete (core bank : Nat) (s : State) : State := (s.endDrain core bank).runCommands core 8

/-- K_GROUP_DONE (09 R290, R301, R303): an interruption frees the tile side for the commands that wait (R300). -/
def kGroupDone (core : Nat) (s : State) : State := (s.passGroup core).runCommands core 8

/-- TILE_OP_COMPLETE (09 R302). -/
def tileOpComplete (core : Nat) (s : State) : State := (s.endRun core).runCommands core 8

end Sys2Proof.Machine
end

