-- ==== Sys2Proof/Machine/Servers.lean ====
section
/-! DEFINITION. Server ends (08 R224 to R227), drovers (R228 to R234, R409), work dispensers (R236 to R241, 06 R159) and timers
(R242, R243). -/

namespace Sys2Proof.Machine

/-! ### SVOPEN -/

/-- The fields of a server designator (08 Table 8.2). -/
def svKind (w : Word) : Nat := w.toNat / 2 ^ 60
def svPkg (w : Word) : Nat := w.toNat / 2 ^ 36 % 4096
def svDie (w : Word) : Nat := svPkg w * 4 + w.toNat / 2 ^ 34 % 4
def svCap (w : Word) : Nat := w.toNat / 2 ^ 24 % 256
def svIndex (w : Word) : Nat := w.toNat / 2 ^ 16 % 64

/-- Whether a designator keeps R225. -/
def svOk (w : Word) : Bool :=
  let n := w.toNat
  decide (svKind w ≤ 5) && decide (n / 2 ^ 48 % 4096 = 0) && decide (n / 2 ^ 32 % 4 = 0) && decide (n / 2 ^ 22 % 4 = 0) && decide (n % 2 ^ 16 = 0) &&
  (match svKind w with
   | 0 => decide (1 ≤ svCap w) && decide (svCap w ≤ 64)
   | 3 => decide (1 ≤ svCap w) && decide (svCap w ≤ 16)
   | 4 => decide (1 ≤ svCap w) && decide (svCap w ≤ 16)
   | _ => decide (svCap w = 0)) &&
  (match svKind w with
   | 0 => true
   | 1 => decide (svIndex w ≤ 15)
   | _ => decide (svIndex w = 0) && decide (n / 2 ^ 34 % 2 ^ 14 = 0))

/-- The number of a drover or dispenser in the installation. -/
def svNumber (w : Word) : Nat := if svKind w = 0 then svDie w * 64 + svIndex w else svDie w * 16 + svIndex w

/-- The fold at which a designated server attaches (08 R236, R409, R225). -/
def svFold (w : Word) (core : Nat) : Nat :=
  match svKind w with
  | 0 => droverFold (svDie w) (svIndex w)
  | 1 => bothyFold (svDie w)
  | 2 => foldOf core
  | 5 => foldOf core
  | _ => bothyFold (dieOf core)

/-- The core identifier by which a fold's servers are known as peers (13 R402: core field 7). -/
def serverCore (fold : Nat) : Nat := fold * 8 + 7

/-- The location of a server's end: entry 1 the host, 2 the bothy, 0 any other. -/
def svLoc (w : Word) (core : Nat) : EndLoc :=
  ⟨serverCore (svFold w core), if svKind w = 3 then 1 else if svKind w = 4 then 2 else 0, 0⟩

/-- Whether a dispenser configuration keeps R236. -/
def configOk (ws : List Word) : Bool :=
  let w := (ws.getD 0 0).toNat
  decide (w < 2 ^ 63) && decide (w % 2 ^ 21 ≠ 0) && decide (w / 2 ^ 21 % 2 ^ 21 ≠ 0) && decide (w / 2 ^ 42 ≠ 0) && decide ((ws.getD 1 0).toNat < 3) &&
  ws.getD 3 0 == 0

/-- SVOPEN (08 R225): the request sets out for the server. -/
def execSvopen (d : Reg) (a b : Src) (s : State) :=
  onCur s (fun k p => s.issueFill k p [srcField a 0, srcField b 1] d (fun vals c =>
    let w := vals.getD 0 0
    let y := vals.getD 1 0
    if !svOk w || (svKind w ≠ 1 && y ≠ 0) || 2 ^ 24 ≤ y.toNat then s.illegal k
    else if y.toNat % 8 ≠ 0 then s.raise k causeMisalign y
    else if scratchSize p.core < y.toNat + 32 then s.raise k causeLoadFault y
    else
      let t := if y = 0 then s else s.releaseStores k
      let ws := if y = 0 then [] else leWords 4 (readBytes t.mem (windowBase p.core + y.toNat) 32)
      if y ≠ 0 && !configOk ws then s.illegal k
      else
        let way := if s.packages.contains (svPkg w) then s.oneway p.core (serverCore (svFold w p.core)) else 1
        let n := match svKind w with
          | 2 => 10
          | 5 => 4
          | 3 => 2 * s.oneway p.core (serverCore (bothyFold (dieOf p.core))) + 16
          | 4 => 2 * s.oneway p.core (serverCore (bothyFold (dieOf p.core))) + 16
          | _ => 2 * way + 4 + (if y = 0 then 0 else 2)
        ((t.produce k d).after n (.serverAnswer { dest := p.dest d, core := p.core, desig := w, config := ws })).retire k c []))

/-- The type of a block channel of a server (08 Table 8.1). -/
def blockType (maxlen cap : Nat) : Word := BitVec.ofNat 64 (2 ^ 60 + cap * 2 ^ 48 + (maxlen / 16 - 1) * 2 ^ 32)

/-- The ends that a server gives: the server's name for it, its direction, and its type (08 Table 8.1). -/
def svEnds (w : Word) : List (Srv × Bool × Word) :=
  let cap := svCap w
  match svKind w with
  | 0 => [(.drover (svNumber w), false, blockType 32 cap), (.reply (svNumber w), true, blockType 16 cap)]
  | 1 => [(.dispenser (svNumber w), false, 0)]
  | 2 => [(.timer, true, BitVec.ofNat 64 (3 * 2 ^ 60 + 255 * 2 ^ 48))]
  | 3 => [(.host, false, blockType 4096 cap), (.host, true, blockType 4096 cap)]
  | 4 => [(.bothy, false, blockType 4096 cap), (.bothy, true, blockType 4096 cap)]
  | _ => [(.reporter, true, BitVec.ofNat 64 (3 * 2 ^ 60 + 255 * 2 ^ 48))]

/-- One end of a server given to a process under a handle (08 R224, 07 R185): none where the core or fold has no room. -/
def State.giveEnd (s : State) (p : Proc) (h : Nat) (x : Srv × Bool × Word) (loc : EndLoc) : Nat ⊕ State :=
  match s.freeEntry p.core 0 with
  | none => .inl 0x22
  | some ix =>
    let key := epKey p.core ix
    let queued := x.2.1 && typQueued x.2.2
    match (if queued then (s.allotRing (foldOf p.core) x.2.2 key).map (fun r => (some r.1, r.2)) else some (none, s)) with
    | none => .inl 0x23
    | some (q, t) =>
      let e : Ep := { owner := p.name, handle := h, launch := s.launchNo p, recv := x.2.1, server := some x.1, typ := x.2.2, peer := loc,
                      pend := if x.2.1 || !typQueued x.2.2 then 0 else typCap x.2.2, rq := q, hwCredits := if queued then typCap x.2.2 else 0,
                      pair := if isExternal (some x.1) then s.cycle * 2 ^ 40 + p.name else 0 }
      .inr (t.putEp key e)

/-- The code with which a server refuses to be opened, 0 if it does not (08 R226, Table 8.9). -/
def State.svRefusal (s : State) (p : Proc) (r : SvReq) : Nat :=
  let w := r.desig
  if (svKind w ≤ 1 && !s.packages.contains (svPkg w)) || (s.fold (svFold w p.core)).fenced then 0x29
  else if svKind w ≠ 1 then 0
  else
    match tget s.disps (svNumber w) with
    | none => if r.config.isEmpty then 0x2A else 0
    | some x =>
      if x.launch ≠ s.launchNo p then 0x28
      else if !x.exhausted && !r.config.isEmpty then 0x25 else 0

/-- A dispenser configured anew; what waits at it keeps its turn (08 R241). -/
def configured (old : Option Disp) (launch : Nat) (config : List Word) : Disp :=
  { launch := launch, config := config, next := (old.map Disp.next).getD 0, queue := (old.map Disp.queue).getD [] }

/-- SERVER_ANSWER (08 R225, R226): the ends are given under the lowest free handles, a dispenser is configured, and d is filled. -/
def serverAnswer (r : SvReq) (s : State) : State :=
  s.modNamed r.dest.name (fun _ p t =>
    let bad (code : Nat) : State := fill r.dest (chanFail code) t
    let code := t.svRefusal p r
    if code ≠ 0 then bad code
    else
      let ends := svEnds r.desig
      let loc := svLoc r.desig p.core
      match t.freeHandle p.name 0 with
      | none => bad 0x21
      | some h =>
        match ends with
        | [x] =>
          match t.giveEnd p h x loc with
          | .inl c => bad c
          | .inr u =>
            let v := if r.config.isEmpty then u
              else { u with disps := tput u.disps (svNumber r.desig) (configured (tget u.disps (svNumber r.desig)) (t.launchNo p) r.config) }
            fill r.dest (BitVec.ofNat 64 h) v
        | [x, y] =>
          match t.freeHandle p.name (h + 1) with
          | none => bad 0x21
          | some h2 =>
            match t.giveEnd p h x loc with
            | .inl c => bad c
            | .inr u =>
              match u.giveEnd p h2 y loc with
              | .inl c => bad c
              | .inr v => fill r.dest (BitVec.ofNat 64 (h2 * 256 + h)) v
        | _ => bad 0x29)

/-! ### Drovers -/

/-- The places of a drover (08 R228). -/
def droverPlaces : Nat := 64


/-- The agent of a drover request's accesses: the sender. -/
def drAgent (r : DrReq) : Agent := ⟨r.core, r.gid, r.level, r.asid, r.root⟩

/-- The bytes that a request moves or changes at ADDR. -/
def drBytes (r : DrReq) : Nat := if drOp r.words = 3 then (if drField r.words 51 1 = 1 then 8 else 4) else drLen r.words

def drAddr (r : DrReq) : Nat := (r.words.getD 1 0).toNat
def drArg (r : DrReq) : Nat := (r.words.getD 2 0).toNat

/-- Whether a request uses ARG as an address. -/
def drHasArg (r : DrReq) : Bool := drOp r.words == 1 || drOp r.words == 2

/-- The least address of a range at which the sender has no right to read and write (08 R231). -/
def State.firstFault (s : State) (a : Agent) (va n : Nat) : Option Nat :=
  ((pieces va n n).find? (fun x => (s.translateNow a.core a.asid a.root a.level x.1 true true).isNone)).map Prod.fst

/-- The least address of a range that is not backed. -/
def State.firstUnbacked (s : State) (a : Agent) (va n : Nat) : Option Nat :=
  ((pieces va n n).find? (fun x =>
    match s.translateNow a.core a.asid a.root a.level x.1 true true with
    | some pa => !s.backed pa x.2
    | none => true)).map Prod.fst

/-- The die of HBM that an address lies in. -/
def hbmDie (pa : Nat) : Option Nat :=
  match placeOf pa with
  | .hbm d _ => some d
  | _ => none

/-- The lower of two addresses, where there are any. -/
def lower (x y : Option Nat) : Option Nat :=
  match x, y with
  | some v, some w => some (min v w)
  | none, w => w
  | v, none => v

/-- The code and value with which a drover answers a request that it does not perform (08 R231): FAULT, OTHERDIE, UNBACKED, LINKLOST in this
order. -/
def State.drRefusal (s : State) (n : Nat) (r : DrReq) : Option (Nat × Nat) :=
  let a := drAgent r
  let len := drBytes r
  let addrs := (pieces (drAddr r) len len).filterMap (fun x => s.translateNow a.core a.asid a.root a.level x.1 true true)
  let f := lower (s.firstFault a (drAddr r) len) (if drHasArg r then s.firstFault a (drArg r) len else none)
  match f with
  | some v => some (1, v)
  | none =>
    if addrs.any (fun pa => decide (pa / 2 ^ 50 ≠ n / 64)) then some (3, drAddr r)
    else if addrs.any (fun pa => (hbmDie pa).isNone) then some (5, drAddr r)
    else
      match (if drHasArg r then s.firstUnbacked a (drArg r) len else none) with
      | some v => some (5, v)
      | none => if s.reachable (pkgOf r.core) (n / 256) then none else some (6, drAddr r)

/-- The slices of a range of HBM (04 R74, 08 R228): virtual address, physical address and length of each part that lies in one 2 KiB
slice. -/
def State.slices (s : State) (a : Agent) (va : Nat) : Nat → Nat → List (Nat × Nat × Nat)
  | 0, _ => []
  | fuel + 1, n =>
    if n = 0 then []
    else
      let pa := (s.translateNow a.core a.asid a.root a.level va true true).getD 0
      let m := min n (2048 - pa % 2048)
      (va, pa, m) :: s.slices a (va + m) fuel (n - m)

/-- The way round the drover ring between two drovers of a die, in cycles (08 R409). -/
def ringTime (a b : Nat) : Nat := 2 * min ((a + 64 - b) % 64) ((b + 64 - a) % 64)

/-- A slice reaches the drover that owns it (08 R409): it begins and ends when the drover has done with what came before. -/
def State.beginAccess (s : State) (o : Nat) (x : Access) : State :=
  (s.enterDrover o s.cycle x.size).atCycle ((s.drover o).times s.cycle x.size).2 (.droverAccessEnd o x)

/-- SLICE_PASS (08 R409): a slice has come round the ring to the drover that owns it. -/
def slicePass (drover : Nat) (x : Access) (s : State) : State := s.beginAccess drover x

/-- A record of a drover changed. -/
def State.modRec (s : State) (n id : Nat) (f : DrRec → DrRec) : State :=
  let d := s.drover n
  s.putDrover n { d with held := d.held.map (fun r => if r.id = id then f r else r) }

/-- The pages that a request touches, at ADDR and at ARG. -/
def State.drPages (s : State) (r : DrReq) : List Nat :=
  let a := drAgent r
  let len := drBytes r
  let page (va : Nat) : Nat := ((s.translateNow a.core a.asid a.root a.level va true true).getD (2 ^ 64 + va)) / 2 ^ 12
  ((pieces (drAddr r) len len).map (fun x => page x.1) ++ (if drHasArg r then (pieces (drArg r) len len).map (fun x => page x.1) else [])).dedup

/-- Whether a reply says that the route to the drover is lost; it does not wait at the drover (08 R231). -/
def DrRec.lost (r : DrRec) : Bool := decide (r.code = 6)

/-- The places of a drover that are taken (08 R228, R234). -/
def Drover.places (d : Drover) : Nat := d.held.length + (d.ready.filter (fun r => !r.lost)).length

/-- What a reply says now: LINKLOST where its drover has no route to the sender's package (08 R231). -/
def State.replyNow (s : State) (n : Nat) (r : DrRec) : DrRec :=
  if s.reachable (pkgOf r.req.core) (n / 256) then r else { r with code := 6, value := drAddr r.req }

/-- A reply is made (08 R232, R234): it takes a credit of its end and is sent, or waits for one; one whose end is gone is discarded. A LINKLOST comes
from the sender's fold, and sets the peer bit of its group (08 R231). -/
def State.sendReply (s : State) (n : Nat) (r : DrRec) : State :=
  let r := s.replyNow n r
  let s := if r.lost then s.peerFail r.req.gid (n / 256) else s
  let d := s.drover n
  let gone := { d with held := d.held.filter (fun x => x.id != r.id), ready := d.ready.filter (fun x => x.id != r.id) }
  let finish (t : State) : State :=
    match t.endAt ⟨r.req.key / 512, r.req.key % 512, 0⟩ with
    | some (kr, _) => t.acked kr
    | none => t
  match r.reply.bind (fun key => s.endAt ⟨key / 512, key % 512, 0⟩) with
  | none => finish (s.putDrover n gone)
  | some (ke, e) =>
    if e.hwCredits = 0 then
      s.putDrover n { gone with ready := d.ready.filter (fun x => x.id != r.id) ++ [r] }
    else
      let w0 := BitVec.ofNat 64 (r.code * 2 ^ 56 + drOp r.req.words * 2 ^ 48 + drField r.req.words 0 24)
      let body := leBytes 8 w0.toNat ++ leBytes 8 (r.value % 2 ^ 64)
      let m : Msg := { src := e.peer, sender := 0, tid := none, tile := none, body := .bytes body, at0 := s.cycle }
      let home := if r.lost then r.req.core else serverCore (droverFold (n / 64) (n % 64))
      let t := (s.putDrover n gone).putEp ke { e with hwCredits := e.hwCredits - 1 }
      finish (t.after (s.oneway home (ke / 512) + s.dataTime home (ke / 512) 16) (.messageEnqueue (locOf ke e) m))

/-- Whether a request may begin: no earlier request of its end that touches a page of its own is still held (08 R233). -/
def State.mayBegin (s : State) (n : Nat) (r : DrRec) : Bool :=
  let mine := s.drPages r.req
  ((s.drover n).held.takeWhile (fun x => x.id != r.id)).all (fun x =>
    decide (x.req.key ≠ r.req.key) || !((s.drPages x.req).any (fun g => mine.contains g)))

/-- A request begins (08 R231): what is not performed is answered at once, and anything else goes slice by slice to the drovers that own
the slices. -/
def State.beginRequest (s : State) (n : Nat) (r : DrRec) : State :=
  match s.drRefusal n r.req with
  | some (code, v) =>
    (s.modRec n r.id (fun x => { x with started := true })).sendReply n { r with code := code, value := v }
  | none =>
    let q := r.req
    let sl := s.slices (drAgent q) (drAddr q) (drBytes q) (drBytes q)
    let t := s.modRec n r.id (fun x => { x with
      started := true, left := sl.length, code := 0, value := drLen q.words })
    sl.foldl (fun u z =>
      let x : Access := { kind := .slice n r.id, addr := z.2.1, va := z.1, size := z.2.2, data := 0, core := q.core, name := q.name,
                          gid := q.gid, level := q.level }
      let o := n / 64 * 64 + z.2.1 / 2048 % 64
      if o = n then u.beginAccess n x else u.after (ringTime (n % 64) (o % 64)) (.slicePass o x)) t

/-- Requests that wait for an earlier one of their end begin (08 R233). -/
def State.beginReady (s : State) (n : Nat) : State :=
  ((s.drover n).held.filter (fun r => !r.started)).foldl (fun t r =>
    if t.mayBegin n r && (t.drover n).held.any (fun x => x.id == r.id && !x.started) then t.beginRequest n r else t) s

/-- A drover takes a request (08 R228): its credit sets out for the sender. -/
def State.acceptRequest (s : State) (n : Nat) (r : DrReq) : State :=
  let d := s.drover n
  let rec_ : DrRec := { id := d.nextId, req := r, reply := some r.reply, left := 0, code := 0, value := 0 }
  let t := s.putDrover n { d with held := d.held ++ [rec_], nextId := d.nextId + 1 }
  (t.after (s.oneway (serverCore (droverFold (n / 64) (n % 64))) r.core) (.creditReturn r.msg.src)).beginReady n

/-- A request that no route can bring to its drover (08 R231): the channel engine of its sender's fold answers it with LINKLOST, and its credit is
back. -/
def State.answerLost (s : State) (n : Nat) (r : DrReq) : State :=
  let rec_ : DrRec := { id := 0, req := r, reply := some r.reply, left := 0, code := 0, value := 0 }
  (s.after 1 (.creditReturn r.msg.src)).sendReply n rec_

/-- DROVER_REQUEST (08 R228, R231): a request reaches a drover, which takes it while it has a place; the sender's instruction retires. -/
def droverRequest (drover : Nat) (r : DrReq) (s : State) : State :=
  let home := serverCore (droverFold (drover / 64) (drover % 64))
  let t := s.after (s.ackBack r.msg home) (.sendAck r.msg ⟨home, 0, 0⟩)
  let d := t.drover drover
  let q := { r with reply := locKey (s.follow 64 ⟨r.reply / 512, r.reply % 512, 0⟩), key := locKey (s.follow 64 ⟨r.key / 512, r.key % 512, 0⟩) }
  if !s.reachable (pkgOf r.core) (drover / 256) then t.answerLost drover q
  else if d.places < droverPlaces && d.waiting.isEmpty then t.acceptRequest drover q
  else t.putDrover drover { d with waiting := d.waiting ++ [q] }

/-- The requests that wait are taken in their order while places are free: one that is answered at once leaves its place to the next. -/
def State.takeRequests (s : State) (n : Nat) : List DrReq → State
  | [] => s
  | r :: rest =>
    let d := s.drover n
    if d.places < droverPlaces then ((s.putDrover n { d with waiting := rest }).acceptRequest n r).takeRequests n rest else s

/-- A place of a drover is free. -/
def State.nextRequest (s : State) (n : Nat) : State := s.takeRequests n (s.drover n).waiting

/-- A failure of a slice (08 R231): the code, with the lowest failing address. -/
def noteFail (code va : Nat) (r : DrRec) : DrRec :=
  if r.code = 0 || va < r.value then { r with code := code, value := va } else r

/-- What a failed slice leaves of the request's destination at an address: any mixture of old and new bytes (08 R231, log 7). -/
def State.mixWrite (s : State) (a : Agent) (name va : Nat) (bs : List Byte) : State :=
  (pieces va bs.length bs.length).foldl (fun t x =>
    match t.engineReach a x.1 x.2 true with
    | some pa =>
      let old := leBytes x.2 (t.loadPhys pa x.2)
      let mixed := old.mapIdx (fun i b => brokenByte (Config.freeWord (t.free + i)) false b (bs.getD (x.1 - va + i) b))
      { t.storePhys a.core name pa x.2 (leNat mixed) with free := t.free + old.length }
    | none => t) s

/-- Why a piece of a range of the sender's addresses cannot be read or written: the code of Table 8.7. -/
def State.pieceFault (s : State) (a : Agent) (va n : Nat) (wr : Bool) : Option Nat :=
  match s.translateNow a.core a.asid a.root a.level va (!wr) wr with
  | some pa => s.partFault a.core a.gid a.level pa n wr
  | none => some 1

/-- The first piece of a range that fails: code and address. -/
def State.rangeFault (s : State) (a : Agent) (va n : Nat) (wr : Bool) : Option (Nat × Nat) :=
  (pieces va n n).findSome? (fun z => (s.pieceFault a z.1 z.2 wr).map (fun c => (c, z.1)))

/-- The lowest poisoned word of a slice: its virtual address. -/
def State.slicePoison (s : State) (x : Access) : Option Nat :=
  ((pieces x.va x.size x.size).find? (fun z => s.poisoned (x.addr + (z.1 - x.va)) z.2)).map Prod.fst

/-- The failure with the lower address. -/
def lowerFault (x y : Option (Nat × Nat)) : Option (Nat × Nat) :=
  match x, y with
  | some v, some w => if v.2 ≤ w.2 then some v else some w
  | none, w => w
  | v, none => v

/-- The bytes of a range as memory holds them, whether or not they may be read. -/
def State.rawBytes (s : State) (a : Agent) (va n : Nat) : List Byte :=
  (pieces va n n).flatMap (fun z =>
    match s.translateNow a.core a.asid a.root a.level z.1 false false with
    | some pa => leBytes z.2 (s.loadPhys pa z.2)
    | none => List.replicate z.2 0)

/-- A slice is performed (08 R231): the state after, the failure's code and address, and the old value of an AMO. -/
def State.doSlice (s : State) (r : DrRec) (x : Access) : State × Option (Nat × Nat) × Option Nat :=
  let q := r.req
  let a := drAgent q
  let arg := drArg q + (x.va - drAddr q)
  let bytes := readBytes s.mem x.addr x.size
  let poison := (s.slicePoison x).map (fun v => (4, v))
  match drOp q.words with
  | 1 =>
    match lowerFault poison (s.rangeFault a arg x.size true) with
    | some f => (s.mixWrite a q.name arg bytes, some f, none)
    | none => ((s.engineWrite a q.name arg bytes).getD s, none, none)
  | 2 =>
    match s.rangeFault a arg x.size false with
    | some f =>
      let old := bytes
      let new := s.rawBytes a arg x.size
      ({ s.writeMem x.addr (old.mapIdx (fun i b => brokenByte (Config.freeWord (s.free + i)) false b (new.getD i b))) with
          free := s.free + old.length }, some f, none)
    | none => (s.writeMem x.addr ((s.engineRead a arg x.size).getD []), none, none)
  | 3 =>
    match poison with
    | some f => (s, some f, none)
    | none =>
      let y := s.atomic x (drField q.words 52 4) (drField q.words 51 1 = 1) (q.words.getD 2 0) (q.words.getD 3 0)
      (y.2, none, some y.1)
  | _ =>
    let pat := leBytes 8 (drArg q)
    (s.writeMem x.addr ((List.range x.size).map (fun i => pat.getD ((x.va - drAddr q + i) % 8) 0)), none, none)

/-- DROVER_ACCESS_END (08 R409, R231): a slice's transfer ends, and after the last the request is answered. -/
def droverAccessEnd (drover : Nat) (x : Access) (s : State) : State :=
  match x.kind with
  | .slice n id =>
    match (s.drover n).held.find? (fun r => r.id == id) with
    | none => s
    | some r =>
      let z := s.doSlice r x
      let t := z.1.modRec n id (fun y =>
        let y1 := match z.2.1 with
          | some (code, va) => noteFail code va y
          | none => y
        { y1 with left := y1.left - 1, value := (z.2.2).getD y1.value })
      match (t.drover n).held.find? (fun y => y.id == id) with
      | some y => if y.left = 0 then ((t.sendReply n y).beginReady n).nextRequest n else t
      | none => t
  | _ => s

/-- DROVER_REPLY_RELEASE (08 R234): a reply that waited for a credit is sent. -/
def droverReplyRelease (drover : Nat) (s : State) : State :=
  match (s.drover drover).ready.find? (fun r =>
      match r.reply.bind (fun key => s.endAt ⟨key / 512, key % 512, 0⟩) with
      | some (_, e) => decide (e.hwCredits ≠ 0)
      | none => true) with
  | some r => (s.sendReply drover r).nextRequest drover
  | none => s

/-! ### Work dispensers -/

/-- The counts and the order of a configuration (08 Table 8.8). -/
def dpCount (x : Disp) (n : Nat) : Nat := (x.config.getD 0 0).toNat / 2 ^ (21 * n) % 2 ^ 21
def dpOrder (x : Disp) : Nat := (x.config.getD 1 0).toNat % 4

/-- Every third bit of a number from a bit on, 21 of them (08 R237). -/
def thirdBits (z n : Nat) : Nat := ((List.range 21).map (fun j => z / 2 ^ (3 * j + n) % 2 * 2 ^ j)).foldl (fun a b => a + b) 0

/-- The first number from z on whose three indices lie within the counts (08 R237). -/
def mortonFrom (c0 c1 c2 : Nat) : Nat → Nat → Nat
  | 0, z => z
  | fuel + 1, z =>
    if thirdBits z 0 < c0 && thirdBits z 1 < c1 && thirdBits z 2 < c2 then z else mortonFrom c0 c1 c2 fuel (z + 1)

/-- NextItem (08 R237): the item word, and the dispenser after it. -/
def nextItem (x : Disp) : Word × Disp :=
  let c0 := dpCount x 0
  let c1 := dpCount x 1
  let c2 := dpCount x 2
  let word (i0 i1 i2 : Nat) : Word := BitVec.ofNat 64 (i2 * 2 ^ 42 + i1 * 2 ^ 21 + i0)
  let n := x.n
  let out : Word × Nat := match dpOrder x with
    | 0 => (word (n % c0) (n / c0 % c1) (n / (c0 * c1)), x.z)
    | 1 => (word (n / (c2 * c1)) (n / c2 % c1) (n % c2), x.z)
    | _ =>
      let z := mortonFrom c0 c1 c2 (2 ^ 63) x.z
      (word (thirdBits z 0) (thirdBits z 1) (thirdBits z 2), z + 1)
  (out.1, { x with n := n + 1, z := out.2, exhausted := decide (c0 * c1 * c2 ≤ n + 1) })

/-- What a dispenser hands out now (08 R237, Table 8.9): the item or token, the ordinal, ARG, and the state after. -/
def State.handOut (s : State) (n : Nat) : Word × Nat × Word × State :=
  match tget s.disps n with
  | none => (allOnes, 0, 0, s)
  | some x =>
    if x.exhausted then (allOnes, x.n, x.config.getD 2 0, s)
    else
      let r := nextItem x
      (r.1, x.n, x.config.getD 2 0, { s with disps := tput s.disps n r.2 })

/-- The core whose process asks a dispenser. -/
def askCore : DispAsk → Nat
  | .dqry _ core _ _ => core
  | .wfw _ key => key / 512
  | .serve => 0

/-- A dispenser's queue with one more that has reached it: by cycle of arrival, then by the sender's core (08 R241). -/
def queueAsk (x : Nat × Nat × DispAsk) : List (Nat × Nat × DispAsk) → List (Nat × Nat × DispAsk)
  | [] => [x]
  | y :: t => if x.1 = y.1 && decide (x.2.1 < y.2.1) then x :: y :: t else y :: queueAsk x t

/-- Whether a registration has been withdrawn: its process has been killed or moved, or waits no more (08 R240). -/
def State.withdrawn (s : State) : DispAsk → Bool
  | .wfw name key =>
    match s.named name with
    | some (_, p) => (match p.wait with | .wfw _ => key / 512 != p.core | _ => true)
    | none => true
  | _ => false

/-- What a dispenser hands out travels to the process that asked (08 R239, R240). -/
def State.answerAsk (s : State) (disp : Nat) (q : DispAsk) (item : Word) (ordinal : Nat) (arg : Word) : State :=
  let way := s.oneway (serverCore (bothyFold (disp / 16))) (askCore q)
  match q with
  | .dqry .. => s.after way (.dqryAnswer q item)
  | .wfw name _ => s.after way (.wfwServe name item (BitVec.ofNat 64 ordinal) arg)
  | .serve => s

/-- A dispenser serves the first of its queue that has not been withdrawn, and the next one a cycle later (08 R240, R241). -/
def State.serveAsk (s : State) (disp : Nat) (x : Disp) : State :=
  match x.queue.dropWhile (fun y => s.withdrawn y.2.2) with
  | [] => { s with disps := tput s.disps disp { x with queue := [] } }
  | y :: rest =>
    let t := { s with disps := tput s.disps disp { x with queue := rest, next := s.cycle + 1 } }
    let r := t.handOut disp
    let u := r.2.2.2.answerAsk disp y.2.2 r.1 r.2.1 r.2.2.1
    if rest.isEmpty then u else u.after 1 (.dispenserQuery disp .serve)

/-- DISPENSER_QUERY (08 R239 to R241): a query or registration reaches a dispenser and waits its turn, or the dispenser serves one. A dispenser
that is FREE has nothing to hand out. -/
def dispenserQuery (disp : Nat) (q : DispAsk) (s : State) : State :=
  match tget s.disps disp with
  | none => s.answerAsk disp q allOnes 0 0
  | some x =>
    match q with
    | .serve => s.serveAsk disp x
    | _ =>
      let t := { s with disps := tput s.disps disp { x with queue := queueAsk (s.cycle, askCore q, q) x.queue } }
      if x.queue.isEmpty then t.atCycle (max s.cycle x.next) (.dispenserQuery disp .serve) else t

/-- The dispenser behind an end that a process holds (08 R224, R239). -/
def State.dispenserOf (s : State) (name h : Nat) : Option (Nat × Ep × Nat) :=
  match s.handle name h with
  | some (ke, e) =>
    (match e.server with
     | some (.dispenser n) => some (ke, e, n)
     | _ => none)
  | none => none

/-- DQRY (08 R239). -/
def execDqry (d : Reg) (a b : Src) (s : State) :=
  onCur s (fun k p => s.issueFill k p [srcField a 0, srcField b 1] d (fun vals c =>
    let x := vals.getD 0 0
    let y := vals.getD 1 0
    match s.dispenserOf p.name (x.toNat % 64) with
    | none => s.raise k causeChanType x
    | some (ke, e, n) =>
      if 64 ≤ x.toNat || 2 ^ 24 ≤ y.toNat then s.illegal k
      else if y.toNat % 8 ≠ 0 then s.raise k causeMisalign y
      else if scratchSize p.core < y.toNat + 8 then s.raise k causeLoadFault y
      else if 4 ≤ e.infl then s.waitChan k (.chan e.handle)
      else
        (((s.putEp ke { e with infl := e.infl + 1 }).produce k d).after (s.oneway p.core (serverCore (bothyFold (n / 16))))
          (.dispenserQuery n (.dqry (p.dest d) p.core ke y.toNat))).retire k c []))

/-- DQRY_ANSWER (08 R239): the scratchpad word is written and then d filled; an answer for a process that is gone is discarded. -/
def dqryAnswer (q : DispAsk) (item : Word) (s : State) : State :=
  match q with
  | .dqry dest core key off =>
    let t := match s.endAt ⟨key / 512, key % 512, 0⟩ with
      | some (ke, _) => s.acked ke
      | none => s
    if (s.named dest.name).isNone then t
    else fill dest item (t.writeNum (windowBase core + off) 8 item.toNat)
  | _ => s

/-- WFW (06 R159, 08 R240): the waiter registers at the dispenser. -/
def execWfw (a : Src) (s : State) :=
  onCur s (fun k p => s.issue k p [srcField a 0] [] (fun vals c =>
    let x := vals.getD 0 0
    if 64 ≤ x.toNat then s.illegal k
    else
      match s.dispenserOf p.name x.toNat with
      | none => s.raise k causeChanType x
      | some (ke, _, n) =>
        ((s.block k (.wfw x.toNat)).modProc k (fun q => { q with
          persist := true, hold := some { consume := c, issuedAt := s.cycle } })).after
            (s.oneway p.core (serverCore (bothyFold (n / 16)))) (.dispenserQuery n (.wfw p.name ke))))

/-- WFW_SERVE (08 R240): g1 to g4 are written and full, and the WFW retires. -/
def wfwServe (name : Nat) (item ordinal arg : Word) (s : State) : State :=
  s.modNamed name (fun k p t =>
    match p.wait with
    | .wfw h => (t.complete k []).modProc k (fun q =>
        (((q.setReg 1 item).setReg 2 ordinal).setReg 3 arg).setReg 4 (BitVec.ofNat 64 h))
    | _ => t)

/-! ### Timers -/

/-- TIMER (08 R242): it waits in its slot while the timer server has no place. -/
def execTimer (d : Reg) (a b : Src) (s : State) :=
  onCur s (fun k p => s.issue k p [srcField a 0, srcField b 1] [d] (fun vals c =>
    let x := vals.getD 0 0
    let y := vals.getD 1 0
    match (s.handle p.name (x.toNat % 64)).filter (fun e => e.2.server == some .timer) with
    | none => s.raise k causeChanType x
    | some (ke, e) =>
      if 64 ≤ x.toNat then s.illegal k
      else
        let fold := foldOf p.core
        let old : Word := BitVec.ofNat 64 (e.armed.getD 0)
        if y = 0 then ((s.putEp ke { e with armed := none, deadline := false }).disarm fold (.timerEnd ke)).retire k c [(d, old)]
        else if e.armed.isNone && decide (256 ≤ (s.fold fold).timers.length) then s.park k .boundary
        else
          (((s.disarm fold (.timerEnd ke)).putEp ke { e with armed := some y.toNat, deadline := true }).armDeadline fold
            ⟨.timerEnd ke, y.toNat⟩).retire k c [(d, old)]))

end Sys2Proof.Machine
end

