-- ==== Sys2Proof/Machine/Reports.lean ====
section
/-! DEFINITION. What goes out to the control node and to a launch's source (13 R392 to R394, 08 R244, R245): frames of the tether port,
completion messages, fault reports, the bothy's replies, and a root's initial channels (06 Table 6.12). -/

namespace Sys2Proof.Machine

/-! ### Frames (13 Table 13.1) -/

/-- A frame: TYPE, TAG, ADDR and payload. -/
def tetherFrame (type tag addr : Nat) (payload : List Word) : List Word :=
  BitVec.ofNat 64 (type * 2 ^ 56 + (payload.length - 1) % 4096 * 2 ^ 32 + tag % 2 ^ 32) :: BitVec.ofNat 64 addr :: payload

/-- TYPE of a frame's words. -/
def frameType (ws : List Word) : Nat := (ws.getD 0 0).toNat / 2 ^ 56

/-- A frame goes to the host; while the port is down it waits, and so does the credit that it holds (13 R392, 08 R244). -/
def State.putFrame (s : State) (pkg : Nat) (ws : List Word) (credit : Option EndLoc) : State :=
  if (s.pkg pkg).portDown then s.modPkg pkg (fun b => { b with outbound := b.outbound ++ [(ws, credit)] })
  else
    let t := { s with frames := s.frames ++ [(pkg, frameType ws, ws)] }
    match credit with
    | some l => t.after (t.oneway (serverCore (bothyFold (pkg * 4))) l.core) (.creditReturn l)
    | none => t

/-- A frame of the bothy's own. -/
def State.sendFrame (s : State) (pkg type tag addr : Nat) (payload : List Word) : State := s.putFrame pkg (tetherFrame type tag addr payload) none

/-- The frames that waited go out when the port is up again (13 R392). -/
def State.flushFrames (s : State) (pkg : Nat) : State :=
  (s.pkg pkg).outbound.foldl (fun t x => t.putFrame pkg x.1 x.2) (s.modPkg pkg (fun b => { b with outbound := [] }))

/-! ### Messages of the bothy to a process -/

/-- The bytes of some words; a message has at least 16 (08 R244). -/
def messageBytes (ws : List Word) : List Byte :=
  let bs := ws.flatMap (fun w => leBytes 8 w.toNat)
  bs ++ List.replicate (16 - bs.length) 0

/-- The bothy receive end of a pair (08 R245). -/
def State.pairEnd (s : State) (pair : Nat) : Option Nat :=
  (s.eps.find? (fun e => e.2.recv && e.2.server == some .bothy && e.2.pair == pair && e.2.st != .forward)).map Prod.fst

/-- A message goes to a source that is a process, on its matching bothy receive end (08 R245). -/
def State.toProcess (s : State) (src : Source) (bs : List Byte) : State :=
  match src with
  | .host => s
  | .process _ pair =>
    match s.pairEnd pair with
    | some ke => s.sendIn ke bs
    | none => s

/-- Words go to a source (08 R245, 13 R394): a frame to the host, a message to a process. -/
def State.toSource (s : State) (pkg : Nat) (src : Source) (type tag : Nat) (ws : List Word) : State :=
  match src with
  | .host => s.sendFrame pkg type tag 0 ws
  | .process _ _ => s.toProcess src (messageBytes ws)

/-- The completion message of a launch, or its refusal (06 R173, R177). -/
def State.sendCompletion (s : State) (l : Launch) (done : Word) : State := s.toSource l.pkg l.src 6 0 [l.launchId, done]

/-- A fault report to a launch's source (13 R394, Table 13.7). -/
def State.faultReport (s : State) (l : Launch) (kind : Nat) (note : Word) (body : List Word) : State :=
  s.toSource l.pkg l.src 7 0 ([BitVec.ofNat 64 (kind * 2 ^ 56), l.launchId, note, BitVec.ofNat 64 s.gtc] ++ body)

/-- The body of a fault report for a trap (13 Table 13.7): the process record as it stood at the trap and, when the process has store fault
records, the area of the extension that holds them. -/
def faultBody (p : Proc) : List Word :=
  (List.range 32).map (recordWord p false) ++
  (if p.sfq.isEmpty then [] else (List.range 32).map (fun i => (extWord p true i).getD 0))

/-- A reply of the bothy sets out (13 R393): TAG, OP and the status, and what follows. -/
def State.sendReplyTo (s : State) (q : BReq) (op status : Nat) (ws : List Word) : State :=
  s.toSource q.pkg q.from0 5 (q.tag / 2 ^ 16) (BitVec.ofNat 64 (q.tag % 2 ^ 16 * 2 ^ 48 + op * 2 ^ 32 + status) :: ws)

/-- A reply of the bothy (13 R393). The requests of one source are answered in the order in which they came: behind a KILLGROUP whose group is not
released yet the reply waits. -/
def State.bothyReply (s : State) (q : BReq) (op status : Nat) (ws : List Word) : State :=
  if (s.pkg q.pkg).replies.any (fun x => x.1.from0 == q.from0) then
    s.modPkg q.pkg (fun b => { b with replies := b.replies ++ [(q, some (op, status, ws))] })
  else s.sendReplyTo q op status ws

/-- The replies set out that no KILLGROUP is ahead of. -/
def State.flushReplies (s : State) (pkg : Nat) : Nat → State
  | 0 => s
  | fuel + 1 =>
    match (s.pkg pkg).replies with
    | (q, some (op, status, ws)) :: rest =>
      ((s.modPkg pkg (fun b => { b with replies := rest })).sendReplyTo q op status ws).flushReplies pkg fuel
    | _ => s

/-- A KILLGROUP will be answered when its group is released (13 R393). -/
def State.askKill (s : State) (q : BReq) : State := s.modPkg q.pkg (fun b => { b with replies := b.replies ++ [(q, none)] })

/-- The answer to a KILLGROUP once its group is released (13 R393), and to what came after it. -/
def State.answerKill (s : State) (q : BReq) (n : Nat) : State :=
  let done (l : List (BReq × Option (Nat × Nat × List Word))) : List (BReq × Option (Nat × Nat × List Word)) :=
    l.set (l.findIdx (fun x => x.1 == q && x.2.isNone)) (q, some (0x0B, 0, [BitVec.ofNat 64 n]))
  let t := s.modPkg q.pkg (fun b => { b with replies := done b.replies })
  t.flushReplies q.pkg (t.pkg q.pkg).replies.length

/-- The groups of a package are gone: what waited behind their KILLGROUPs is answered (13 R405). -/
def State.dropKills (s : State) (pkg : Nat) : State :=
  let t := s.modPkg pkg (fun b => { b with replies := b.replies.filter (fun x => x.2.isSome) })
  t.flushReplies pkg (t.pkg pkg).replies.length

/-! ### Initial channels (06 Table 6.12, 08 R244) -/

/-- The fields of an initial channel: the type word, the root's direction, PEERKIND and HANDLE. -/
def chanType (w : Word) : Word := w &&& 0xFEFFFFFFFFFFF000
def chanRecv (w : Word) : Bool := w.getLsbD 56
def chanKind (w : Word) : Nat := (w.extractLsb' 8 4).toNat
def chanHandle (w : Word) : Nat := (w.extractLsb' 0 6).toNat

/-- One initial channel is bound: an end towards the launch's source or the bothy. The n-th send end and the n-th receive end of a kind are a
pair. Where the core or the fold has no room, or the handle is in use, the end is not made. -/
def State.bindOne (s : State) (l : Launch) (p : Proc) (w : Word) (nth : Nat) : State :=
  let t := chanType w
  let srv := if chanKind w = 0 then Srv.host else Srv.bothy
  let ix := if chanKind w ≠ 0 then 2 else match l.src with
    | .host => 1
    | .process _ _ => 3
  match s.freeEntry p.core 0 with
  | none => s
  | some n =>
    let queued := chanRecv w && typQueued t
    match (if queued then (s.allotRing (foldOf p.core) t (epKey p.core n)).map (fun r => (some r.1, r.2)) else some (none, s)) with
    | none => s
    | some (q, u) =>
      if (s.endsOf p.name).any (fun e => e.2.handle == chanHandle w) then s
      else
        u.putEp (epKey p.core n)
          { owner := p.name, handle := chanHandle w, launch := s.launchNo p, recv := chanRecv w, server := some srv, typ := t,
            peer := ⟨serverCore (bothyFold (dieOf p.core)), ix, 0⟩, pend := if chanRecv w then 0 else typCap t, rq := q,
            hwCredits := if queued then typCap t else 0, pair := s.cycle * 2 ^ 40 + p.name + nth * 2 ^ 100 }

/-- The initial channels of a root are bound (01 R22). -/
def State.bindInitial (s : State) (l : Launch) (k : Nat) (chans : List Word) : State :=
  (chans.zipIdx).foldl (fun t x =>
    match t.proc k with
    | some p =>
      let nth := ((chans.take x.2).filter (fun y => chanKind y == chanKind x.1 && chanRecv y == chanRecv x.1)).length
      t.bindOne l p x.1 nth
    | none => t) s

end Sys2Proof.Machine
end

