-- ==== Sys2Proof/Machine/Adjoint.lean ====
section
/-! DEFINITION. Reading a tape back, the operands that its records keep, and the arithmetic of the adjoints (10 R313, R316, R324 to
R327). -/

namespace Sys2Proof.Machine

/-! ### Records read back (10 Tables 10.4 and 10.5) -/

/-- A record as it is read back, with the log offset at which it starts. -/
structure RevRec where
  pos : Nat
  word : Nat
  seq : Nat
  kind : Nat
  fa : Nat
  fb : Nat
  fi : Nat
  plen : Nat
  len : Nat
  opd : Word
  opa : Word
  opb : Word
  opi : Word
  extra0 : Word
  extra1 : Word
  deriving DecidableEq, Repr

/-- The fields of an operand word. -/
def owGen (w : Word) : Nat := w.toNat / 2 ^ 56
def owIx (w : Word) : Nat := w.toNat / 2 ^ 51 % 32
def owAdj (w : Word) : Nat := w.toNat / 2 ^ 46 % 32
def owAdjv (w : Word) : Bool := w.getLsbD 45
def owFmt (w : Word) : Nat := w.toNat / 2 ^ 41 % 16
def owBank (w : Word) : Bool := w.getLsbD 40
def owValid (w : Word) : Bool := w.getLsbD 39
def owPseq (w : Word) : Nat := w.toNat % 2 ^ 32

/-- tB + 1 of a record as EXTRA keeps it: its GEN and, if valid, its gradient tile (10 Table 10.3). -/
def RevRec.gen2 (r : RevRec) : Nat := r.extra1.toNat / 2 ^ 23 % 256
def RevRec.adj2 (r : RevRec) : Option Nat := if r.extra1.getLsbD 17 then some (r.extra1.toNat / 2 ^ 18 % 32) else none

/-- What a record's bytes say. -/
def RevRec.parse (bs : List Byte) (pos : Nat) : RevRec :=
  let w (i : Nat) : Word := BitVec.ofNat 64 (leNat ((bs.drop (8 * i)).take 8))
  let f (i lo n : Nat) : Nat := (w i).toNat / 2 ^ lo % 2 ^ n
  { pos := pos, word := f 0 32 32, seq := f 0 0 32, kind := f 1 60 4, fa := f 1 58 2, fb := f 1 56 2, fi := f 1 54 2,
    plen := f 1 32 22 * 64, len := f 1 0 32, opd := w 2, opa := w 3, opb := w 4, opi := w 5, extra0 := w 6, extra1 := w 7 }

/-- A word that an engine reads at a virtual address for a process: none for a translation fault, a refusal, a link that is down, poison, or
an address that nothing backs. -/
def State.tapeRead (s : State) (a : Agent) (va n : Nat) : Option (List Byte) :=
  match s.translateNow a.core a.asid a.root a.level va true false with
  | some pa => if (s.partFault a.core a.gid a.level pa n false).isSome then none else some (leBytes n (s.loadPhys pa n))
  | none => none

/-- The bytes of a range of virtual addresses, or the address at which reading them fails. -/
def State.fetchRange (s : State) (a : Agent) (va n : Nat) : Except (Option Nat) (List Byte) :=
  (pieces va n n).foldl (fun acc x =>
    match acc with
    | .error e => .error e
    | .ok bs =>
      match s.tapeRead a x.1 x.2 with
      | some ys => .ok (bs ++ ys)
      | none => .error (some x.1)) (.ok [])

/-- Bytes of a log: those before SPILLED from the spill area, the others from the region (10 R311). -/
def State.logBytes (s : State) (a : Agent) (t : TapeS) (o n : Nat) : Except (Option Nat) (List Byte) :=
  if o < t.spilled then s.fetchRange a (t.spill + o) n
  else
    let at_ := (List.range n).map (fun i => regionAddr (foldOf a.core) t (o + i))
    if at_.any (fun x => s.poisoned x 1) then .error none else .ok (at_.map (readByte s.mem))

/-- The record at a log offset. -/
def State.readRecord (s : State) (a : Agent) (t : TapeS) (o : Nat) : Except (Option Nat) RevRec :=
  match s.logBytes a t o 64 with
  | .ok bs => .ok (RevRec.parse bs o)
  | .error e => .error e

/-- The record of a sequence number, from a log offset back. -/
def State.findRecord (s : State) (a : Agent) (t : TapeS) (seq : Nat) : Nat → Nat → Except (Option Nat) RevRec
  | 0, _ => .error none
  | fuel + 1, o =>
    match s.readRecord a t o with
    | .ok r => if r.seq = seq then .ok r else if o < r.plen ∨ r.plen = 0 then .error none else s.findRecord a t seq fuel (o - r.plen)
    | .error e => .error e

/-- The instruction of a record: those of Table 10.3, with FTZ and DAZ. -/
def recordOp (w : Nat) : Option (TOp × Bool × Bool) :=
  let a := field5 w 16
  let d := field5 w 21
  let z := w / 2 ^ 6 % 2 == 1
  match w / 2 ^ 26, w / 2 ^ 7 % 16 with
  | 0x31, 3 => if d < 2 ∧ w % 32 = 0 then some (.gmma d a (field5 w 11), z, w / 2 ^ 5 % 2 == 1) else none
  | 0x31, 5 => if a < 2 ∧ w / 2 ^ 3 % 8 % 7 = 0 then some (.adrain d a (w / 4 % 2 == 1), z, false) else none
  | _, _ => (commandOf w).map (fun c => (c.1, c.2.1, c.2.2.1))

/-- Whether a record is of an ADRAIN.R. -/
def RevRec.remote (r : RevRec) : Bool := r.word % 2 == 1

/-! ### Operands (10 R313, R314) -/

/-- Why a record cannot be reversed yet, or at all. -/
inductive RevStop where
  /-- A tile is not READY. -/
  | wait
  /-- TAPE_STALE (10 R313). -/
  | stale
  /-- ENGINE with a reason, a tile, a bank bit and the address of a failed access (10 R330). -/
  | engine (reason tile bank : Nat) (va : Option Nat)
  deriving DecidableEq, Repr

/-- An operand that a record keeps: the layout that fixes its rows and columns, its bytes, and, for one that was rerun, what goes into the
recompute buffer and the time that it takes. -/
structure RevOperand where
  layout : Word
  latch : Latch
  buffer : List Byte := []
  time : Nat := 0
  deriving DecidableEq, Repr

/-- An operand of a record to be found: 0 A, 1 B, 2 the index tile; its word, its flag, and the log offset of its snapshot. -/
structure RevSide where
  side : Nat
  op : Word
  flag : Nat
  off : Nat
  deriving DecidableEq, Repr

/-- Rows cut from bytes. -/
def cutRows (n : Nat) : Nat → List Byte → List (List Byte)
  | 0, _ => []
  | fuel + 1, bs => if bs.isEmpty then [] else bs.take n :: cutRows n fuel (bs.drop n)

/-- A latch from packed rows and scales in a layout. -/
def latchOf (lay : Word) (data scales : List Byte) : Latch :=
  { fmt := layFormat lay, cols := layCols lay, rows := cutRows (layRowBytes lay) data.length data,
    scales := if isScaled (layFormat lay) then cutRows (layCols lay / 32) scales.length scales else [] }

/-- The length of the snapshot at a log offset. -/
def State.snapshotLength (s : State) (a : Agent) (t : TapeS) (o : Nat) : Except (Option Nat) Nat :=
  match s.logBytes a t o 64 with
  | .ok bs => .ok (64 + (pad64 (List.replicate (leNat ((bs.drop 12).take 4) + leNat ((bs.drop 8).take 4)) (0 : Byte))).length)
  | .error e => .error e

/-- The operands whose flags apply to a record (10 Table 10.3). -/
def RevRec.flagged (r : RevRec) (op : TOp) : List (Nat × Word × Nat) :=
  let ab := [(0, r.opa, r.fa), (1, r.opb, r.fb)]
  (match op with
   | .mma _ _ _ | .cmma _ _ _ | .gmma _ _ _ | .tmul _ _ _ => ab
   | .mmag _ _ _ _ => ab ++ [(2, r.opi, r.fi)]
   | .tact _ _ _ _ => [(0, r.opa, r.fa)]
   | _ => []).filter (fun x => owValid x.2.1)

/-- The operands of a record with the places of their snapshots. -/
def State.sidesOf (s : State) (a : Agent) (t : TapeS) (r : RevRec) (op : TOp) : Except (Option Nat) (List RevSide) :=
  ((r.flagged op).foldl (fun acc x =>
    match acc with
    | .error e => .error e
    | .ok (off, ys) =>
      if x.2.2 = 0 then
        match s.snapshotLength a t off with
        | .ok n => .ok (off + n, ys ++ [⟨x.1, x.2.1, 0, off⟩])
        | .error e => .error e
      else .ok (off, ys ++ [⟨x.1, x.2.1, x.2.2, 0⟩])) (Except.ok (r.pos + 64, []))).map Prod.snd

/-- A kept copy (SAVE). -/
def State.savedOperand (s : State) (a : Agent) (t : TapeS) (o : Nat) : Except RevStop RevOperand :=
  match s.logBytes a t o 64 with
  | .error e => .error (.engine 2 0 0 e)
  | .ok h =>
    let data := leNat ((h.drop 12).take 4)
    let scales := leNat ((h.drop 8).take 4)
    match s.logBytes a t (o + 64) (data + scales) with
    | .error e => .error (.engine 2 0 0 e)
    | .ok bs =>
      let lay := BitVec.ofNat 64 (leNat (h.take 8))
      .ok { layout := lay, latch := latchOf lay (bs.take data) (bs.drop data) }

/-- A process with the registers that a record samples (10 Table 10.3). -/
def RevRec.sampled (r : RevRec) (p : Proc) : Proc :=
  { p with tfmt := BitVec.ofNat 64 (r.extra1.toNat % 2 ^ 17), tsca := BitVec.ofNat 64 (r.extra0.toNat / 2 ^ 32 % 2 ^ 25),
           tscb := BitVec.ofNat 64 (r.extra0.toNat % 2 ^ 25) }

/-- Whether an instruction is a product. -/
def TOp.product : TOp → Bool
  | .mma _ _ _ | .mmag _ _ _ _ | .cmma _ _ _ | .gmma _ _ _ => true
  | _ => false

/-- Whether a record's B runs on into tB + 1. -/
def RevRec.wide (r : RevRec) (op : TOp) : Bool := op.wide (BitVec.ofNat 64 (r.extra1.toNat % 2 ^ 17))

/-- A tile that a record keeps by REF: its GEN must be the one recorded (10 R313). -/
def State.refTile (s : State) (p : Proc) (r : RevRec) (op : TOp) (x : RevSide) (ix : Option (List Nat)) : Except RevStop RevOperand :=
  let n := owIx x.op
  let wide := x.side == 1 && r.wide op
  if (s.tileAt p.core n).gen ≠ owGen x.op ∨ (wide ∧ (s.tileAt p.core (n + 1)).gen ≠ r.gen2) then .error .stale
  else
    let q := if op.product then r.sampled p else { p with tsca := 0, tscb := 0 }
    let alt := if x.side = 0 ∧ op.product then q.tsca else if x.side = 1 ∧ op.product then q.tscb else 0
    if s.tilePoisoned p.core n alt (if x.side = 0 then ix else none) || (wide && s.tilePoisoned p.core (n + 1) (s.secondScales p.core q n) none) then
      .error (.engine 2 n 0 none)
    else
      .ok { layout := s.layAt p.core n,
            latch := if x.side = 1 ∧ op.product then s.latchB p.core q op n else s.latchTile p.core n alt (if x.side = 0 then ix else none) }

/-- The first address at which the memory that a TLOAD reads cannot be read (10 Table 10.9). -/
def State.loadFailure (s : State) (a : Agent) (lay va step : Word) : Option Nat :=
  let row (r : Nat) : Nat := (va + BitVec.ofNat 64 r * step).toNat
  ((List.range (layRows lay)).flatMap (fun r => pieces (row r) (layRowBytes lay) (layRowBytes lay)) ++
    pieces (round16 (row (layRows lay))) (layScales lay) (layScales lay)).findSome? (fun x =>
      if (s.tapeRead a x.1 x.2).isNone then some x.1 else none)

/-- A TLOAD rerun (10 R314): the source memory is read again, in the layout of the operand tile as it stands. -/
def State.rerunLoad (s : State) (p : Proc) (n : Nat) (r : RevRec) : Except RevStop RevOperand :=
  let lay := s.layAt p.core n
  let a := s.agentOf p
  match s.tileParts a lay true r.extra0 r.extra1 with
  | .error va => .error (.engine 2 n 0 (some va))
  | .ok ps =>
    match s.loadFailure a lay r.extra0 r.extra1 with
    | some va => .error (.engine 2 n 0 (some va))
    | none =>
      let bs := s.partBytes (wordParts ps)
      .ok { layout := lay, latch := latchOf lay (bs.take (layBytes lay)) (bs.drop (layBytes lay)), buffer := bs,
            time := s.tileTime p.core ps true }

/-- The rows of a TACT or TMUL rerun, as codes of its destination's format (10 R314). -/
def rerunRow (op : TOp) (f : Nat) (ftz daz : Bool) (a b : Latch) (i : Nat) : List Nat :=
  match op with
  | .tact _ _ sh fn => ((a.values daz i).map (tactElem f fn sh ftz)).map Prod.fst
  | _ => (List.zipWith (tmulElem f ftz) (a.values daz i) (b.values daz i)).map Prod.fst

/-- A TACT or TMUL rerun from its own kept operands (10 R314). -/
def State.rerunRows (s : State) (p : Proc) (t : TapeS) (r : RevRec) (op : TOp) (ftz daz : Bool) : Except RevStop RevOperand :=
  let a := s.agentOf p
  match s.sidesOf a t r op with
  | .error e => .error (.engine 2 0 0 e)
  | .ok xs =>
    let get (side : Nat) : Except RevStop RevOperand :=
      match xs.find? (fun x => x.side == side) with
      | none => .ok { layout := 0, latch := {} }
      | some x =>
        if x.flag = 0 then s.savedOperand a t x.off
        else
          let y := s.tileAt p.core (owIx x.op)
          if y.st = .empty ∨ y.owner ≠ p.name then .error .stale
          else if y.st ≠ .ready then .error .wait
          else s.refTile p r op x none
    match get 0, get 1 with
    | .ok x, .ok y =>
      let lay := r.extra0
      let rows := (List.range (layRows lay)).map (fun i => rowBytes (layFormat lay) (rerunRow op (layFormat lay) ftz daz x.latch y.latch i))
      .ok { layout := lay, latch := { fmt := layFormat lay, cols := layCols lay, rows := rows }, buffer := rows.flatten,
            time := 4 + (layBytes lay + 63) / 64 }
    | .error e, _ => .error e
    | _, .error e => .error e

/-- An operand kept by RECOMP: its producing record is rerun (10 R313). -/
def State.rerunOperand (s : State) (p : Proc) (t : TapeS) (r : RevRec) (x : RevSide) : Except RevStop RevOperand :=
  match s.findRecord (s.agentOf p) t (owPseq x.op) (r.seq + 1) r.pos with
  | .error e => .error (.engine 2 0 0 e)
  | .ok q =>
    match recordOp q.word with
    | some (.tload _, _, _) => s.rerunLoad p (owIx x.op) q
    | some (op, ftz, daz) => s.rerunRows p t q op ftz daz
    | none => .error (.engine 2 0 0 none)

/-- A rebuilt operand as its record takes it: for a gathered A the rows of the index list, and for a product with TSCA or TSCB the scales that
these name (10 R313; 09 R279, R291). -/
def State.rebuilt (s : State) (p : Proc) (r : RevRec) (op : TOp) (side : Nat) (l : Latch) (ix : Option (List Nat)) : Latch :=
  let q := r.sampled p
  let alt := if !op.product then 0 else if side = 0 then q.tsca else if side = 1 then q.tscb else 0
  let g := l.cols / 32
  let l1 := if alt.getLsbD 24 && isScaled l.fmt then
      { l with scales := (List.range l.rows.length).map (fun i => s.scratchBytes p.core (alt.toNat % 2 ^ 24 + i * g) g) }
    else l
  match side, ix with
  | 0, some xs => { l1 with rows := xs.map (fun i => l1.rows.getD i []),
                            scales := if l1.scales.isEmpty then [] else xs.map (fun i => l1.scales.getD i []) }
  | _, _ => l1

/-- An operand of a record, by its flag. -/
def State.keptOperand (s : State) (p : Proc) (t : TapeS) (r : RevRec) (op : TOp) (x : RevSide) (ix : Option (List Nat)) :
    Except RevStop RevOperand :=
  match x.flag with
  | 0 => s.savedOperand (s.agentOf p) t x.off
  | 1 => s.refTile p r op x ix
  | _ => (s.rerunOperand p t r x).map (fun o => { o with latch := s.rebuilt p r op x.side o.latch ix })

/-- The kept operands of a record: A, B, the index tile and its row numbers. -/
structure RevOps where
  a : Option RevOperand := none
  b : Option RevOperand := none
  i : Option RevOperand := none
  ix : List Nat := []
  /-- The bytes of the snapshots (10 R329). -/
  snaps : Nat := 0
  deriving DecidableEq, Repr

/-- The kept operands of a record (10 R313). -/
def State.keptOps (s : State) (p : Proc) (t : TapeS) (r : RevRec) (op : TOp) : Except RevStop RevOps :=
  match s.sidesOf (s.agentOf p) t r op with
  | .error e => .error (.engine 2 0 0 e)
  | .ok xs =>
    let get (side : Nat) (ix : Option (List Nat)) : Except RevStop (Option RevOperand) :=
      match xs.find? (fun x => x.side == side) with
      | some x => (s.keptOperand p t r op x ix).map some
      | none => .ok none
    match get 2 none with
    | .error e => .error e
    | .ok i =>
      let rows := (i.map (fun o => o.latch.rows.map (fun bs => leNat (bs.take 4)))).getD []
      match get 0 (if i.isSome then some rows else none), get 1 none with
      | .ok a, .ok b => .ok { a := a, b := b, i := i, ix := rows, snaps := r.len - 64 }
      | .error e, _ => .error e
      | _, .error e => .error e

/-! ### Gradients (10 R324 to R326) -/

/-- Whether operands of a format have gradients. -/
def hasGrad (f : Nat) : Bool := !(f == 7 || f == 8)

/-- The gradient tile of a tile operand. -/
def gradOf (w : Word) : Option Nat := if owValid w && !owBank w && owAdjv w && hasGrad (owFmt w) then some (owAdj w) else none

/-- The gradient tile of a bank operand. -/
def TapeS.gradOfBank (t : TapeS) (w : Word) : Option Nat := if hasGrad (owFmt w) then t.bankGrad (owIx w) else none

/-- A gradient tile that a record uses: its number, whether its operand is CF32, the rows and columns its operand has, where the record
fixes them, whether it may have more rows, more columns; and whether it is a bank's. -/
structure GradUse where
  tile : Nat
  cplx : Bool := false
  shape : Option (Nat × Nat) := none
  moreRows : Bool := false
  moreCols : Bool := false
  bank : Bool := false
  deriving DecidableEq, Repr

/-- Whether a gradient tile has the format and the shape that R326 asks for. -/
def State.gradFits (s : State) (core : Nat) (g : GradUse) : Bool :=
  let lay := s.layAt core g.tile
  (if g.cplx then layFormat lay == 9 else plainFormat (layFormat lay)) &&
  (match g.shape with
   | some (r, c) =>
     (layRows lay == r || (g.moreRows && decide (r ≤ layRows lay))) && (layCols lay == c || (g.moreCols && decide (c ≤ layCols lay)))
   | none => true)

/-- Gradient tiles being accumulated: format and codes of each, those written, and the flags. -/
structure Grads where
  tab : Tab (Nat × List (List Nat)) := []
  dirty : List Nat := []
  flags : FlagSet := 0
  deriving DecidableEq, Repr

/-- A gradient tile with each element replaced by a function of its format, row, column and code. -/
def Grads.upd (g : Grads) (tile : Option Nat) (f : Nat → Nat → Nat → Nat → Nat × FlagSet) : Grads :=
  match tile with
  | none => g
  | some n =>
    match tget g.tab n with
    | none => g
    | some (fmt, grid) =>
      let out := grid.mapIdx (fun i row => row.mapIdx (fun j c => f fmt i j c))
      { tab := tput g.tab n (fmt, out.map (fun row => row.map Prod.fst)),
        dirty := if g.dirty.contains n then g.dirty else g.dirty ++ [n],
        flags := out.foldl (fun x row => row.foldl (fun y e => y ||| e.2) x) g.flags }

/-- The format and codes of a gradient tile. -/
def Grads.codes (g : Grads) (tile : Option Nat) : Nat × List (List Nat) := (tile.bind (tget g.tab)).getD (0, [])

/-- The values of a gradient tile under DAZ (02 R40). -/
def Grads.values (g : Grads) (tile : Option Nat) (daz : Bool) : List (List FVal) :=
  let x := g.codes tile
  x.2.map (fun row => row.map (operandElem x.1 daz))

/-- AddElem (10 R325). -/
def addElem (f : Nat) (ftz daz : Bool) (g : Nat) (x : FVal) : Nat × FlagSet :=
  let y := codeFmt f
  y.addVals .rne ftz (y.daz daz (y.decode g)) x

/-- AddElem of a code of a format, part by part for CF32. -/
def addCode (f : Nat) (ftz daz : Bool) (g : Nat) (xf x : Nat) : Nat × FlagSet :=
  if f = 9 then
    let re := addElem 0 ftz daz (cfRe g) (operandElem 0 daz (cfRe x))
    let im := addElem 0 ftz daz (cfIm g) (operandElem 0 daz (cfIm x))
    (re.1 + im.1 * 2 ^ 32, re.2 ||| im.2)
  else addElem f ftz daz g (operandElem xf daz x)

/-- AddContract (10 R325). -/
def addContract (f : Nat) (ftz daz : Bool) (G : Nat) : Nat → Nat → List FVal → List FVal → Nat × FlagSet
  | 0, g, _, _ => (g, 0)
  | fuel + 1, g, xs, ys =>
    if xs.isEmpty || ys.isEmpty then (g, 0)
    else
      let sum := groupSum (xs.take G) (ys.take G) 0 false
      let p := fp32.ofVal .rne ftz false false sum.1
      let z := addElem f ftz daz g (fp32.decode p.1)
      let r := addContract f ftz daz G fuel z.1 (xs.drop G) (ys.drop G)
      (r.1, sum.2 ||| p.2 ||| z.2 ||| r.2)

/-- The terms of CMMA's adjoint added one at a time: x times conj y, with the parts rounded as R46 rounds them. -/
def addComplex (ftz daz : Bool) (g : Nat) (ts : List (Nat × Nat)) : Nat × FlagSet :=
  let v (c : Nat) : FVal := operandElem 0 daz c
  ts.foldl (fun acc t =>
    let z := complexMul .rne ftz (v (cfRe t.1)) (v (cfIm t.1)) (v (cfRe t.2)) (v (cfIm t.2)).negate
    let r := addCode 9 ftz daz acc.1 9 (z.1.1 + z.2.1 * 2 ^ 32)
    (r.1, acc.2 ||| z.1.2 ||| z.2.2 ||| r.2)) (g, 0)

/-- A column of rows. -/
def column {α : Type} (d : α) (rows : List (List α)) (k : Nat) : List α := rows.map (fun r => r.getD k d)

/-- The rows of a latch as values. -/
def Latch.grid (l : Latch) (daz : Bool) : List (List FVal) := (List.range l.rows.length).map (l.values daz)

/-- The rows of a latch as codes. -/
def Latch.codeGrid (l : Latch) : List (List Nat) := (List.range l.rows.length).map l.codes

/-- f′ of Table 9.15's functions (10 R325): exact, or rounded to FP32. -/
def tactSlope (fn sh : Nat) (ftz : Bool) (x : FVal) : FVal × FlagSet :=
  let one : FVal := .fin false 1 0
  if x.isNan then (.nan false, sigFlags [x])
  else
    match fn with
    | 0 => (if !x.isNeg && !x.isZero then one else .fin false 0 0, 0)
    | 1 => (if !x.isNeg || x.isZero then one else one.scaleBy (-(sh : Int)), 0)
    | 2 => (x.scaleBy 1, 0)
    | 3 => let r := fp32.sigmoidSlope ftz x; (fp32.decode r.1, r.2)
    | _ => let r := fp32.tanhSlope ftz x; (fp32.decode r.1, r.2)

/-- An exact product added to a gradient element. -/
def addProduct (f : Nat) (ftz daz : Bool) (g : Nat) (x y : FVal) (fl : FlagSet) : Nat × FlagSet :=
  let m := x.mulExact y
  let r := addElem f ftz daz g m.1
  (r.1, r.2 ||| m.2 ||| fl ||| sigFlags [x, y])

/-- The gradient of A of a product (10 Table 10.11): for MMAG, row i goes to row x_i. -/
def Grads.addA (g : Grads) (tile : Option Nat) (cplx ftz daz : Bool) (dc : Nat × List (List Nat)) (b : Latch) (m : Nat) (ix : List Nat) : Grads :=
  let n := b.rows.length
  let bs := b.grid daz
  let cs := b.codeGrid
  (List.range m).foldl (fun h i =>
    let row := (dc.2.getD i []).take n
    let vals := row.map (operandElem dc.1 daz)
    let at_ := if ix.isEmpty then i else ix.getD i 0
    h.upd tile (fun f r k c =>
      if r ≠ at_ then (c, 0)
      else if cplx then addComplex ftz daz c (row.zip (column 0 cs k))
      else addContract f ftz daz (kGroup b.fmt) n c vals (column (.fin false 0 0) bs k))) g

/-- The gradient of rows lo to lo + count - 1 of the transposed B of a product (10 Table 10.11). -/
def Grads.addB (g : Grads) (tile : Option Nat) (cplx ftz daz : Bool) (dc : Nat × List (List Nat)) (a : Latch) (lo count : Nat) : Grads :=
  let m := a.rows.length
  let as := a.grid daz
  let cs := a.codeGrid
  let vs := dc.2.map (fun row => row.map (operandElem dc.1 daz))
  g.upd tile (fun f j k c =>
    if count ≤ j then (c, 0)
    else if cplx then addComplex ftz daz c (((column 0 dc.2 (lo + j)).take m).zip (column 0 cs k))
    else addContract f ftz daz (kGroup a.fmt) m c ((column (.fin false 0 0) vs (lo + j)).take m) (column (.fin false 0 0) as k))

/-- The contribution of a code of dC at a place, or none outside it. -/
def addAt (dc : Nat × List (List Nat)) (ftz daz : Bool) (f c i j : Nat) : Nat × FlagSet :=
  match (dc.2[i]?).bind (fun row => row[j]?) with
  | some x => addCode f ftz daz c dc.1 x
  | none => (c, 0)

/-- The gradients of B, and of the rows that tB + 1 held (10 R324). -/
def Grads.addBs (g : Grads) (r : RevRec) (op : TOp) (cplx ftz daz : Bool) (dc : Nat × List (List Nat)) (a b : Latch) : Grads :=
  let rows := if r.wide op then 64 else b.rows.length
  let h := g.addB (gradOf r.opb) cplx ftz daz dc a 0 rows
  if r.wide op && hasGrad (owFmt r.opb) then h.addB r.adj2 cplx ftz daz dc a 64 (b.rows.length - 64) else h

/-- The adjoint of an instruction that has no product with a gang and no memory gradient (10 Table 10.11): `dc` is the gradient of the
destination as it stood before. -/
def Grads.adjoint (g : Grads) (t : TapeS) (r : RevRec) (op : TOp) (ftz daz : Bool) (o : RevOps) : Grads :=
  let bankG := t.gradOfBank r.opd
  let dc := g.codes (if owBank r.opd then bankG else gradOf r.opd)
  let live := if owBank r.opd then bankG.isSome else (gradOf r.opd).isSome
  let la := (o.a.map RevOperand.latch).getD {}
  let lb := (o.b.map RevOperand.latch).getD {}
  let both (cplx : Bool) (ix : List Nat) : Grads :=
    if !live then g
    else
      (g.addA (gradOf r.opa) cplx ftz daz dc lb la.rows.length ix).addBs r op cplx ftz daz dc la lb
  let each (tile : Option Nat) (f : Nat → Nat → Nat → Nat → Nat × FlagSet) (h : Grads) : Grads := if live then h.upd tile f else h
  let vc := dc.2.map (fun row => row.map (operandElem dc.1 daz))
  let at2 (x : List (List FVal)) (i j : Nat) : Option FVal := (x[i]?).bind (fun row => row[j]?)
  let times (x : List (List FVal)) (f i j c : Nat) : Nat × FlagSet :=
    match at2 vc i j, at2 x i j with
    | some u, some v => addProduct f ftz daz c u v 0
    | _, _ => (c, 0)
  match op with
  | .azero _ => g.upd bankG (fun _ _ _ _ => (0, 0))
  | .mma _ _ _ => both false []
  | .cmma _ _ _ => both true []
  | .mmag _ _ _ _ => both false o.ix
  | .tadd _ _ _ => each (gradOf r.opb) (fun f i j c => addAt dc ftz daz f c i j) (each (gradOf r.opa) (fun f i j c => addAt dc ftz daz f c i j) g)
  | .tmul _ _ _ => each (gradOf r.opb) (fun f i j c => times (la.grid daz) f i j c) (each (gradOf r.opa) (fun f i j c => times (lb.grid daz) f i j c) g)
  | .tact _ _ sh fn =>
    each (gradOf r.opa) (fun f i j c =>
      match at2 vc i j, at2 (la.grid daz) i j with
      | some u, some v => let sl := tactSlope fn sh ftz v; addProduct f ftz daz c u sl.1 sl.2
      | _, _ => (c, 0)) g
  | .tsum _ _ => each (gradOf r.opa) (fun f i _ c => addAt dc ftz daz f c i 0) g
  | .ttrn _ _ => each (gradOf r.opa) (fun f i j c => addAt dc ftz daz f c j i) g
  | .tcvt _ _ =>
    let m := owFmt r.opa
    each (gradOf r.opa) (fun f i j c =>
      if plainFormat m then
        match at2 vc i j with
        | some u => let x := codeRound m .rne ftz false u; let y := addElem f ftz daz c ((codeFmt m).decode x.1); (y.1, x.2 ||| y.2)
        | none => (c, 0)
      else addAt dc ftz daz f c i j) g
  | .adrain _ _ _ =>
    let dt := g.codes (gradOf r.opd)
    if (gradOf r.opd).isSome then g.upd (t.gradOfBank r.opa) (fun f i j c => addAt dt ftz daz f c i j) else g
  | _ => g

/-- The gradient tiles that a record uses, with what R326 asks of them. -/
def State.gradUses (s : State) (core : Nat) (t : TapeS) (r : RevRec) (op : TOp) (o : RevOps) : List GradUse :=
  let shapeOf (lay : Word) : Option (Nat × Nat) := some (layRows lay, layCols lay)
  let a (lay : Option Word) : Option (Nat × Nat) := lay.bind shapeOf
  let la := o.a.map RevOperand.layout
  let lb := o.b.map RevOperand.layout
  let m := (o.a.map (fun x => x.latch.rows.length)).getD 8
  let n := (o.b.map (fun x => x.latch.rows.length)).getD 8
  let cplx (w : Word) : Bool := owFmt w == 9
  let tile (w : Word) (sh : Option (Nat × Nat)) : List GradUse := ((gradOf w).map (fun x => { tile := x, cplx := cplx w, shape := sh })).toList
  let bank (w : Word) (sh : Option (Nat × Nat)) : List GradUse :=
    ((t.gradOfBank w).map (fun x => { tile := x, cplx := cplx w, shape := sh, moreRows := true, moreCols := true, bank := true })).toList
  let second : List GradUse :=
    if r.wide op && hasGrad (owFmt r.opb) then
      (r.adj2.map (fun x => { tile := x, shape := some (n - 64, (lb.map layCols).getD 0) })).toList
    else []
  match op with
  | .azero _ => bank r.opd none
  | .mma _ _ _ | .cmma _ _ _ | .gmma _ _ _ => bank r.opd (some (m, n)) ++ tile r.opa (a la) ++ tile r.opb (a lb) ++ second
  | .mmag _ _ _ _ =>
    bank r.opd (some (m, n)) ++
    (tile r.opa (some (o.ix.foldl max 0 + 1, (la.map layCols).getD 0))).map (fun g => { g with moreRows := true }) ++
    tile r.opb (a lb) ++ second
  | .tadd _ _ _ | .tmul _ _ _ => tile r.opd (shapeOf r.extra0) ++ tile r.opa (shapeOf r.extra1) ++ tile r.opb (shapeOf r.extra1)
  | .tact _ _ _ _ | .tsum _ _ | .ttrn _ _ | .tcvt _ _ => tile r.opd (shapeOf r.extra0) ++ tile r.opa (shapeOf r.extra1)
  | .tload _ | .tstore _ => tile r.opd none
  | .adrain d _ _ =>
    if r.remote then bank r.opa (shapeOf (s.layAt core d))
    else
      match gradOf r.opd with
      | some x => tile r.opd none ++ bank r.opa (shapeOf (s.layAt core x))
      | none => bank r.opa none

end Sys2Proof.Machine
end

