-- ==== Sys2Proof/Machine/Tape.lean ====
section
/-! DEFINITION. The tape instructions but REVERSE (10 R309, R310, R319 to R323). -/

namespace Sys2Proof.Machine

/-! ### The engine's users (10 Table 10.13) -/

/-- The marks in the hold of a process that uses the tape engine of its fold for REVERSE or TSPILL, or waits for it. -/
def walkMark : Nat := 11
def spillMark : Nat := 12

/-- The next event of a walk. -/
def State.walkAt (s : State) (fold name n : Nat) : State :=
  (s.modTape fold name (fun t => { t with due := s.cycle + n })).after n (.reverseRecord name)

/-- The tape of a name in a fold. -/
def State.tapeNamed (s : State) (fold name : Nat) : Option TapeS := (s.fold fold).tapes.find? (fun t => t.owner == name)

/-- The lines that a spill writes: their addresses at the drovers, in ascending order, none for one whose page does not let the owner
write (10 R322). -/
def State.spillLines (s : State) (fold owner upto : Nat) : List (Nat × Option Nat) :=
  match s.tapeNamed fold owner, s.named owner with
  | some t, some (_, q) =>
    let a := s.agentOf q
    (List.range ((upto - t.spilled) / 64)).map (fun i =>
      let va := t.spill + t.spilled + 64 * i
      (va, s.translateNow a.core a.asid a.root a.level va false true))
  | _, _ => []

/-- A spill sets out (10 R322): one line a cycle, each acknowledged after its way and its service. -/
def State.beginSpill (s : State) (fold name : Nat) : State :=
  match s.named name with
  | some (_, p) =>
    match p.hold with
    | some h =>
      let upto := (h.words.headD 0).toNat
      let ls := s.spillLines fold h.arg upto
      let r := s.trips (fun u x => match x.2.2 with
        | some pa => (u.bookAfter x.1 (fold * 8) pa 64, u.accessAfter x.1 (fold * 8) pa 64)
        | none => (u, x.1)) (ls.mapIdx (fun i x => (i, x)))
      r.1.after (r.2.foldl max 0 + 1) (.spillAck name (ls.all (fun x => x.2.isSome)))
    | none => s
  | none => s

/-- The engine serves the next of the processes that wait for it. -/
def State.serveTape (s : State) (fold name : Nat) : State :=
  match s.named name with
  | some (_, p) =>
    if (p.hold.map Hold.arg2) == some walkMark then s.walkAt fold name 0
    else if (p.hold.map Hold.arg2) == some spillMark then s.beginSpill fold name
    else s
  | none => s

/-- A process has done with the tape engine, or waits for it no more. -/
def State.leaveTape (s : State) (fold name : Nat) : State :=
  let q := (s.fold fold).tapeUse
  let rest := q.filter (fun n => n != name)
  let t := s.modFold fold (fun x => { x with tapeUse := rest })
  if q.head? = some name then
    match rest with
    | n :: _ => t.serveTape fold n
    | [] => t
  else t

/-- A process takes the engine or waits for it, in its slot. -/
def State.enterTape (s : State) (k : Nat) (p : Proc) (h : Hold) : State :=
  let fold := foldOf p.core
  let t := (s.modProc k (fun q => { q with wait := .engine, hold := some h })).modFold fold (fun x =>
    { x with tapeUse := x.tapeUse ++ [p.name] })
  if (s.fold fold).tapeUse.isEmpty then (if h.arg2 = walkMark then t.walkAt fold p.name 1 else t.beginSpill fold p.name) else t

/-! ### Opening and closing (10 R321) -/

/-- Whether a descriptor is well formed (10 Table 10.1, code 0x31). -/
def tapeDescOk (core : Nat) (t : TapeS) : Bool :=
  let z (off lo n : Nat) : Bool := descField t.desc off lo n == 0
  let capu := descField t.desc 0 32 16
  z 0 48 16 && z 0 24 8 && z 0x10 40 24 && z 0x18 48 16 && z 0x18 14 10 && z 0x18 6 2 && z 0x28 48 16 && z 0x30 0 64 && z 0x38 0 64 &&
  decide (1 ≤ capu) && decide (capu ≤ 16384) && decide (t.base % 64 = 0) && decide (t.spill % 64 = 0) &&
  decide (t.rbuf % 16 = 0) && decide (t.rsize % 16 = 0) && decide (t.rbuf + t.rsize ≤ scratchSize core) &&
  decide (t.base + t.cap ≤ 0x180000)

/-- Whether the regions of two tapes overlap. -/
def regionsMeet (x y : TapeS) : Bool := decide (x.base < y.base + y.cap) && decide (y.base < x.base + x.cap)

/-- The failure code of opening a tape, if it has one (10 Table 10.8): the descriptor is looked at first, then the regions, then the table. -/
def State.taponFailure (s : State) (core : Nat) (t : TapeS) : Option Nat :=
  let open_ := (s.fold (foldOf core)).tapes
  if !tapeDescOk core t then some 0x31
  else if open_.any (regionsMeet t) then some 0x32
  else if 16 ≤ open_.length then some 0x30
  else none

/-- TAPON (10 R310, R321). -/
def execTapon (d : Reg) (a : Src) (s : State) :=
  onCur s (fun k p =>
    if !hasVtu p.core then s.illegal k
    else s.issue k p [srcField a 0] [d] (fun vals c =>
      let v := vals.getD 0 0
      let at_ := sramBase (foldOf p.core) + v.toNat
      let s1 := s.releaseStores k
      if (s.tapeOf p).isSome || v.extractLsb' 21 43 ≠ 0 then s.illegal k
      else if v.toNat % 64 ≠ 0 then s.raise k causeMisalign v
      else if 0x17FFFF < v.toNat + 63 ∨ s1.poisoned at_ 64 then s1.raise k causeLoadFault v
      else
        let t : TapeS :=
          { owner := p.name, off := v.toNat, desc := (List.range 8).map (fun i => BitVec.ofNat 64 (readLe s1.mem (at_ + 8 * i) 8)) }
        match s1.taponFailure p.core t with
        | some e => s1.retire k c [(d, failWord e)]
        | none =>
          ((s1.modFold (foldOf p.core) (fun x => { x with tapes := x.tapes ++ [t] })).modProc k (fun q => { q with
            tapesOpen := 1,
            taped := (q.taped &&& 0xFC00000000) ||| BitVec.ofNat 64 (2 ^ 32 + v.toNat) })).retire k c [(d, 0)]))

/-- TAPON.R (10 R321): a is read and has no effect. -/
def execTaponR (d : Reg) (a : Src) (s : State) :=
  onCur s (fun k p =>
    if !hasVtu p.core then s.illegal k
    else s.issue k p [srcField a 0] [d] (fun _ c =>
      if ((s.tapeOf p).map TapeS.st) == some TapeSt.paused then
        (s.modTape (foldOf p.core) p.name (fun x => { x with st := .recording })).retire k c [(d, 0)]
      else s.illegal k))

/-- TAPOFF (10 R321). -/
def execTapoff (s : State) :=
  onCur s (fun k p =>
    match s.tapeOf p with
    | some t =>
      if !hasVtu p.core || t.st ≠ .recording then s.illegal k
      else (s.modTape (foldOf p.core) p.name (fun x => { x with st := .paused })).retire k 0 []
    | none => s.illegal k)

/-- The tape of a process is closed: its entry is free (10 R321, Table 10.10). -/
def State.closeTape (s : State) (fold name : Nat) : State :=
  (s.modFold fold (fun x => { x with tapes := x.tapes.filter (fun t => t.owner != name) })).modNamed name (fun k q t =>
    t.putProc k { q with tapesOpen := 0, taped := q.taped &&& 0xFC00000000 })

/-- TAPOFF.X (10 R321). -/
def execTapoffX (s : State) :=
  onCur s (fun k p =>
    if !hasVtu p.core || (s.tapeOf p).isNone then s.illegal k
    else (s.closeTape (foldOf p.core) p.name).retire k 0 [])

/-- TMARK (10 R321). -/
def execTmark (d : Reg) (s : State) :=
  onCur s (fun k p =>
    match s.tapeOf p with
    | some t =>
      if !hasVtu p.core || t.st == .reversing then s.illegal k
      else s.issue k p [] [d] (fun _ c =>
        match s.append p.core t { word := 0, kind := 1 } with
        | .done u _ len =>
          (u.modTape (foldOf p.core) p.name (fun x => { x with marks := x.marks ++ [(t.nextSeq, t.ended + len)] })).retire k c
            [(d, BitVec.ofNat 64 t.nextSeq)]
        | .full v => s.raise k causeTapeFull v
        | .none => s)
    | none => s.illegal k)

/-- The code of a tape state (10 Table 10.9). -/
def TapeSt.code : TapeSt → Nat
  | .recording => 1
  | .paused => 2
  | .reversing => 3

/-- TAPST (10 Table 10.9). -/
def execTapst (d : Reg) (a : Src) (s : State) :=
  onCur s (fun k p =>
    if !hasVtu p.core then s.illegal k
    else s.issue k p [srcField a 0] [d] (fun vals c =>
      let v := vals.getD 0 0
      if 5 < v.toNat then s.illegal k
      else
        let r : Word :=
          match s.tapeOf p with
          | none => 0
          | some t =>
            match v.toNat with
            | 0 => BitVec.ofNat 64 (t.st.code * 2 ^ 60 + t.nextSeq)
            | 1 => BitVec.ofNat 64 t.ended
            | 2 => BitVec.ofNat 64 t.spilled
            | 3 => BitVec.ofNat 64 t.room
            | 4 => if t.st == .reversing then BitVec.ofNat 64 t.cur else 0
            | _ => t.failed
        s.retire k c [(d, r)]))

/-! ### Spilling (10 R322) -/

/-- Whether a process may spill the tape of another (10 Table 10.8, code 0x34). -/
def State.maySpill (s : State) (p q : Proc) : Bool :=
  (p.level == 2 || s.supervises p q.gid) && (q.st == .trapped || q.st == .suspended) && foldOf q.core == foldOf p.core &&
  (s.tapeOf q).isSome

/-- TSPILL sets out for a tape, unless there is nowhere to spill it. -/
def State.spillTape (s : State) (k : Nat) (p : Proc) (d : Reg) (c : BitVec 16) (owner : Nat) (t : TapeS) : State :=
  if t.st == .reversing then s.illegal k
  else if t.spill = 0 ∨ t.spillCap < t.ended then s.retire k c [(d, failWord 0x33)]
  else (s.releaseStores k).enterTape k p
    { consume := c, dst := some d, issuedAt := s.cycle, arg := owner, arg2 := spillMark, words := [BitVec.ofNat 64 t.ended] }

/-- TSPILL (10 R322). -/
def execTspill (d : Reg) (a : Src) (s : State) :=
  onCur s (fun k p =>
    s.issue k p [srcField a 0] [d] (fun vals c =>
      let v := vals.getD 0 0
      if v = 0 then
        match s.tapeOf p with
        | some t => s.spillTape k p d c p.name t
        | none => s.illegal k
      else if v.extractLsb' 40 24 ≠ 0 then s.illegal k
      else
        match s.named v.toNat with
        | some (_, q) =>
          match s.tapeOf q with
          | some t => if s.maySpill p q then s.spillTape k p d c q.name t else s.retire k c [(d, failWord 0x34)]
          | none => s.retire k c [(d, failWord 0x34)]
        | none => s.retire k c [(d, failWord 0x34)]))

/-- The instruction of a process that the tape engine served has ended. -/
def State.endTapeUse (s : State) (k : Nat) (p : Proc) (h : Hold) (v : Word) : State :=
  (((((s.modProc k (fun q => { q with wait := .none })).retire k h.consume (match h.dst with | some d => [(d, v)] | none => [])).modSlot
    p.slotKey (fun x => { x with next := max x.next (s.cycle + 1) })).leaveTape (foldOf p.core) p.name)).endEngine k

/-- SPILL_ACK (10 R322): every write has been acknowledged. One that failed leaves SPILLED, and in the range the bytes of the spill are old or
new (log 7). -/
def spillAck (name : Nat) (ok : Bool) (s : State) : State :=
  s.modNamed name (fun k p s =>
    match p.wait, p.hold with
    | .engine, some h =>
      if h.arg2 ≠ spillMark then s
      else
        let fold := foldOf p.core
        let upto := (h.words.headD 0).toNat
        match s.tapeNamed fold h.arg, s.named h.arg with
        | some t, some (_, q) =>
          let ls := s.spillLines fold h.arg upto
          let bad := ls.filter (fun x => match x.2 with
            | some pa => (s.partFault q.core q.gid q.level pa 64 true).isSome
            | none => true)
          let bytes := (List.range (upto - t.spilled)).map (fun i => readByte s.mem (regionAddr fold t (t.spilled + i)))
          let put (new : List Byte) : State :=
            ls.foldl (fun u x => match x.2 with
              | some pa => u.putParts q.core q.name q.gid q.level (wordParts [(pa, 64)]) ((new.drop (x.1 - t.spill - t.spilled)).take 64)
              | none => u) s
          match bad, ok with
          | [], true =>
            -- poison travels with its words (13 R401)
            let hurt := ls.flatMap (fun x => match x.2 with
              | some pa => (List.range 64).filterMap (fun i =>
                  if s.poisoned (regionAddr fold t (x.1 - t.spill + i)) 1 then some (pa + i) else none)
              | none => [])
            (((put bytes).poisonAt hurt).modTape fold h.arg (fun x => { x with spilled := upto })).endTapeUse k p h 0
          | _, _ =>
            let old := ls.flatMap (fun x => match x.2 with | some pa => readBytes s.mem pa 64 | none => List.replicate 64 0)
            let u := { put (s.mixture old bytes) with free := s.free + bytes.length }
            let u1 := bad.foldl (fun v x => match x.2 with
              | some pa => if s.partFault q.core q.gid q.level pa 64 true = some 6 then v.peerFail q.gid (pkgOfAddr pa) else v
              | none => v) u
            (u1.modTape fold h.arg (fun x => { x with failed := ((bad.getLast?).map (fun y => BitVec.ofNat 64 y.1)).getD x.failed })).endTapeUse k p h
              (failWord 0x35)
        | _, _ => s.endTapeUse k p h (failWord 0x35)
    | _, _ => s)

end Sys2Proof.Machine
end

