-- ==== Sys2Proof/Machine/Reverse.lean ====
section
/-! DEFINITION. REVERSE: the walk back over a tape, record by record (10 R324 to R332). -/

namespace Sys2Proof.Machine

/-- The status word of ENGINE from the tape engine (10 Table 10.12). -/
def tapeEngine (reason tile bank seq : Nat) : Word :=
  BitVec.ofNat 64 (0xA * 2 ^ 56 + reason * 2 ^ 48 + tile * 2 ^ 43 + bank * 2 ^ 42 + seq)

/-- A record that can be reversed: what it says, its kept operands, and the gradient tiles that it uses. -/
structure RevWork where
  rec_ : RevRec
  op : TOp
  ftz : Bool
  daz : Bool
  ops : RevOps
  uses : List GradUse
  deriving DecidableEq, Repr

/-- The tiles that a record names. -/
def RevRec.tiles (r : RevRec) (op : TOp) : List Nat :=
  ([r.opd, r.opa, r.opb, r.opi].filter (fun w => owValid w && !owBank w)).map owIx ++ (if r.wide op then [owIx r.opb + 1] else [])

/-- The tiles that a record keeps by REF. -/
def RevRec.refs (r : RevRec) (op : TOp) : List Nat :=
  ((r.flagged op).filter (fun x => x.2.2 == 1)).flatMap (fun x =>
    owIx x.2.1 :: (if x.1 = 1 ∧ r.wide op then [owIx x.2.1 + 1] else []))

/-- The checks of a record (10 R326, R328): what stops it, or the work that it is. -/
def State.tryRecord (s : State) (p : Proc) (t : TapeS) (r : RevRec) : Except RevStop RevWork :=
  match recordOp r.word with
  | none => .error (.engine 2 0 0 none)
  | some (op, ftz, daz) =>
    let uses := s.gradUses p.core t r op {}
    if (r.refs op).any (fun n => !s.owns p.core p.name n) then .error .stale
    else
      match uses.find? (fun g => !s.owns p.core p.name g.tile) with
      | some g => .error (.engine 1 g.tile (bitOf g.bank) none)
      | none =>
        if (r.tiles op ++ uses.map GradUse.tile).any (fun n => s.owns p.core p.name n && (s.tileAt p.core n).st != .ready) then .error .wait
        else
          match s.keptOps p t r op with
          | .error e => .error e
          | .ok o =>
            let uses := s.gradUses p.core t r op o
            match uses.find? (fun g => !s.gradFits p.core g) with
            | some g => .error (.engine 1 g.tile (bitOf g.bank) none)
            | none => .ok { rec_ := r, op := op, ftz := ftz, daz := daz, ops := o, uses := uses }

/-! ### Memory gradients (10 R327) -/

/-- The addresses of the memory gradients of a TLOAD or TSTORE, row by row, for a gradient tile of a layout. -/
def gradAddrs (t : TapeS) (r : RevRec) (lay : Word) : List (List Nat) :=
  let eb := formatBits (owFmt r.opd)
  let gb := formatBits (layFormat lay) / 8
  (List.range (layRows lay)).map (fun (i : Nat) =>
    (List.range (layCols lay)).map (fun (j : Nat) =>
      let o : Int := ((i : Int) * r.extra1.toInt * 8 + (j : Int) * eb) * gb
      (r.extra0 + t.gOff + BitVec.ofInt 64 (o.fdiv eb)).toNat))

/-- A write by the tape engine for a process: none where a byte cannot be written. -/
def State.tapeWrite (s : State) (a : Agent) (name va : Nat) (bs : List Byte) : Option State :=
  (pieces va bs.length bs.length).foldl (fun acc x =>
    match acc with
    | none => none
    | some t =>
      match t.translateNow a.core a.asid a.root a.level x.1 false true with
      | some pa =>
        if (t.partFault a.core a.gid a.level pa x.2 true).isSome then none
        else some (t.storePhys a.core name pa x.2 (leNat ((bs.drop (x.1 - va)).take x.2)))
      | none => none) (some s)

/-- The tape engine meets a place that a link no longer reaches (12 R370). -/
def State.tapeLost (s : State) (a : Agent) (va : Nat) : State :=
  match s.translateNow a.core a.asid a.root a.level va true false with
  | some pa => if s.partFault a.core a.gid a.level pa 1 false = some 6 then s.peerFail a.gid (pkgOfAddr pa) else s
  | none => s

/-- What reversing a record comes to: the state after it, its flags, and the address of an access that failed. -/
structure RevDone where
  s : State
  flags : FlagSet := 0
  failed : Option Nat := none

/-- TLOAD's adjoint: each memory gradient takes its element of dt. The words of a record whose access fails hold their old or their new values
(10 R328; log 7). -/
def State.reverseLoad (s : State) (p : Proc) (t : TapeS) (w : RevWork) : RevDone :=
  match gradOf w.rec_.opd with
  | none => { s := s }
  | some g =>
    let a := s.agentOf p
    let lay := s.layAt p.core g
    let f := layFormat lay
    let es := (gradAddrs t w.rec_ lay).flatten.zip ((s.tileRows p.core g none).flatMap (rowElems f (layCols lay)))
    let n := formatBits f / 8
    let r := es.foldl (fun (acc : RevDone × Nat) e =>
      let d := acc.1
      if d.failed.isSome ∧ (Config.freeWord (s.free + acc.2)).getLsbD 0 then (d, acc.2 + 1)
      else
        match d.s.tapeRead a e.1 n with
        | none => ({ d with failed := d.failed.or (some e.1) }, acc.2 + 1)
        | some bs =>
          let z := addCode f w.ftz w.daz (leNat bs) f e.2
          match d.s.tapeWrite a p.name e.1 (leBytes n z.1) with
          | some u => ({ d with s := u, flags := d.flags ||| z.2 }, acc.2 + 1)
          | none => ({ d with failed := d.failed.or (some e.1) }, acc.2 + 1)) ({ s := s }, 0)
    if r.1.failed.isSome then { r.1 with s := { r.1.s with free := s.free + es.length } } else r.1

/-- The rows of a gradient that memory holds, or the address at which reading them fails. -/
def State.memoryGrid (s : State) (a : Agent) (n : Nat) (addrs : List (List Nat)) : Except Nat (List (List Nat)) :=
  addrs.foldl (fun acc row =>
    match acc with
    | .error e => .error e
    | .ok rows =>
      let cs := row.map (fun va => (va, s.tapeRead a va n))
      match cs.find? (fun c => c.2.isNone) with
      | some c => .error c.1
      | none => .ok (rows ++ [cs.map (fun c => leNat (c.2.getD []))])) (.ok [])

/-- dt of an ADRAIN.R, read in the scratchpad of its target (10 R327). -/
def State.remoteGrid (s : State) (p : Proc) (t : TapeS) (w : RevWork) : Except Nat (List (List Nat)) :=
  let lay := s.layAt p.core (owIx w.rec_.opd)
  let v := w.rec_.extra0
  let base := windowBase (v.extractLsb' 39 25).toNat + v.toNat % 2 ^ 24 + t.gsOff
  let rows := (List.range (layRows lay)).map (fun i => pieces (base + i * layStep lay) (layRowBytes lay) (layRowBytes lay))
  match rows.flatten.find? (fun x => (s.partFault p.core p.gid p.level x.1 x.2 false).isSome) with
  | some x => .error x.1
  | none => .ok (rows.map (fun ps => rowElems (layFormat lay) (layCols lay) (s.partBytes ps)))

/-! ### Applying a record -/

/-- The gradient tiles that a record uses, as they stand. -/
def State.loadGrads (s : State) (core : Nat) (us : List GradUse) : Grads :=
  { tab := us.foldl (fun x g =>
      let lay := s.layAt core g.tile
      tput x g.tile (layFormat lay, (s.tileRows core g.tile none).map (rowElems (layFormat lay) (layCols lay)))) [] }

/-- The gradient tiles that a record has written; the GEN of each rises (10 Table 10.13). -/
def State.storeGrads (s : State) (core : Nat) (g : Grads) : State :=
  g.dirty.foldl (fun t n =>
    let x := g.codes (some n)
    ((List.range x.2.length).foldl (fun u i => (u.putRow core n i (x.2.getD i []) []).1) t).modTileAt core n
      (fun y => { y with gen := (y.gen + 1) % 256 })) s

/-- Operands that were rerun are written into the recompute buffer, the index tile before A and A before B (10 R313). -/
def State.fillBuffer (s : State) (core : Nat) (t : TapeS) (o : RevOps) : State :=
  [o.i, o.a, o.b].foldl (fun u x => match x with
    | some y => if y.buffer.isEmpty then u else u.writeMem (windowBase core + t.rbuf) y.buffer
    | none => u) s

/-- The adjoint of a record but a GMMA's (10 Table 10.11). An error leaves the record unreversed. -/
def State.applyRecord (s : State) (p : Proc) (t : TapeS) (w : RevWork) : Except Nat RevDone :=
  let s1 := s.fillBuffer p.core t w.ops
  let g := s1.loadGrads p.core w.uses
  let done (h : Grads) : Except Nat RevDone := .ok { s := s1.storeGrads p.core h, flags := h.flags }
  match w.op with
  | .tload _ => .ok (s1.reverseLoad p t w)
  | .tstore _ =>
    match gradOf w.rec_.opd with
    | none => done g
    | some n =>
      let lay := s1.layAt p.core n
      match s1.memoryGrid (s1.agentOf p) (formatBits (layFormat lay) / 8) (gradAddrs t w.rec_ lay) with
      | .error va => .error va
      | .ok rows => done (g.upd (some n) (fun f i j c => addAt (layFormat lay, rows) w.ftz w.daz f c i j))
  | .adrain _ _ _ =>
    if w.rec_.remote then
      let f := owFmt w.rec_.opd
      match t.gradOfBank w.rec_.opa with
      | none => done g
      | some n =>
        if !hasGrad f then done g
        else
          match s1.remoteGrid p t w with
          | .error va => .error va
          | .ok rows => done (g.upd (some n) (fun gf i j c => addAt (f, rows) w.ftz w.daz gf c i j))
    else done (g.adjoint t w.rec_ w.op w.ftz w.daz w.ops)
  | op => done (g.adjoint t w.rec_ op w.ftz w.daz w.ops)

/-! ### Time (10 R329) -/

/-- The time of a contribution of a product: rows, columns and the length of the sum. -/
def productTime (op : TOp) (f rows cols n : Nat) : Nat :=
  (match op with | .gmma _ _ _ => 24 | .mmag _ _ _ _ => 16 + 2 * rows | _ => 16) +
  (n + kGroup f - 1) / kGroup f * max 1 (rows * cols / (if f = 5 then 128 else 64))

/-- The round trips of the lines that addresses touch, in cycles. -/
def State.lineTrips (s : State) (a : Agent) (vas : List Nat) : Nat :=
  ((vas.map (fun va => va / 64)).foldl (fun (l : List Nat) x => insertAddr x l) []).foldl (fun n l =>
    match s.translateNow a.core a.asid a.root a.level (l * 64) true false with
    | some pa => n + s.accessTime a.core pa 64
    | none => n) 0

/-- The round trip of a range of addresses: the longest of those of the slices that it touches (10 R329; 04 R408, 08 R409). -/
def State.sliceTrip (s : State) (a : Agent) (va n : Nat) : Nat :=
  ((List.range ((va % 2048 + n + 2047) / 2048)).map (fun i =>
    let lo := if i = 0 then va else (va / 2048 + i) * 2048
    let hi := min (va + n) ((va / 2048 + i + 1) * 2048)
    match s.translateNow a.core a.asid a.root a.level lo true false with
    | some pa => s.accessTime a.core pa (hi - lo)
    | none => 0)).foldl max 0

/-- The time of a record's contributions (10 R329): one without a gradient of the destination has none. DEDUCED (log 38): each counts as an instruction
that computes it, of its own rows, columns and length of sums. -/
def State.adjointTime (s : State) (p : Proc) (t : TapeS) (w : RevWork) : Nat :=
  let r := w.rec_
  let a := (w.ops.a.map RevOperand.latch).getD {}
  let b := (w.ops.b.map RevOperand.latch).getD {}
  let live := if owBank r.opd then (t.gradOfBank r.opd).isSome else (gradOf r.opd).isSome
  let if_ (x : Option Nat) (n : Nat) : Nat := if x.isSome && live then n else 0
  let each (x : Option Nat) : Nat := if_ x (4 + (layBytes (s.layAt p.core (x.getD 0)) + 63) / 64)
  let bytes (x : Option Nat) : Nat := 4 + (layBytes (s.layAt p.core (x.getD 0)) + 63) / 64
  match w.op with
  | .azero _ => if live then 2 else 0
  | .mma _ _ _ | .mmag _ _ _ _ | .cmma _ _ _ | .gmma _ _ _ =>
    if_ (gradOf r.opa) (productTime w.op a.fmt a.rows.length a.cols b.rows.length) +
    if_ (gradOf r.opb) (productTime w.op a.fmt b.rows.length b.cols a.rows.length)
  | .tadd _ _ _ | .tmul _ _ _ => each (gradOf r.opa) + each (gradOf r.opb)
  | .tact _ _ _ _ | .tsum _ _ | .ttrn _ _ | .tcvt _ _ => each (gradOf r.opa)
  | .tload _ | .tstore _ =>
    match gradOf r.opd with
    | some g =>
      let trips := s.lineTrips (s.agentOf p) (gradAddrs t r (s.layAt p.core g)).flatten
      bytes (some g) + (match w.op with | .tload _ => 2 * trips | _ => trips)
    | none => 4
  | .adrain _ _ _ =>
    if r.remote then
      let lay := s.layAt p.core (owIx r.opd)
      4 + (layBytes lay + 63) / 64 + s.accessTime p.core (windowBase (r.extra0.extractLsb' 39 25).toNat) (layBytes lay)
    else if (gradOf r.opd).isSome then bytes (gradOf r.opd) else 4

/-- The cycles that reversing a record takes. -/
def State.recordTime (s : State) (p : Proc) (t : TapeS) (w : RevWork) : Nat :=
  let spilled :=
    if w.rec_.pos < t.spilled then s.sliceTrip (s.agentOf p) (t.spill + w.rec_.pos) w.rec_.len else 0
  4 + (w.ops.snaps + 63) / 64 + s.adjointTime p t w + spilled +
    ([w.ops.i, w.ops.a, w.ops.b].map (fun o => (o.map RevOperand.time).getD 0)).sum

/-! ### The walk -/

/-- A walk that a trap or a suspension interrupts lets the engine go (10 Table 10.10). -/
def State.pauseWalk (s : State) (k : Nat) (p : Proc) : State :=
  let fold := foldOf p.core
  (((s.modTape fold p.name (fun x => { x with due := 0, under := false, atGang := none })).modProc k (fun q => { q with
    wait := .none, hold := none })).leaveTape fold p.name)

/-- A walk ends in a trap (10 R328, R330). -/
def State.trapWalk (s : State) (k : Nat) (p : Proc) (cause : Nat) (eval : Word) (va : Option Nat) : State :=
  let fold := foldOf p.core
  let t := match va with
    | some v => (s.modTape fold p.name (fun x => { x with failed := BitVec.ofNat 64 v })).tapeLost (s.agentOf p) v
    | none => s
  ((((t.pauseWalk k p).raise k cause eval).endEngine k)).runCommands p.core 8

/-- What stops a record stops the walk at it, or makes it wait. -/
def State.stopWalk (s : State) (k : Nat) (p : Proc) (t : TapeS) (e : RevStop) : State :=
  match e with
  | .wait => s.walkAt (foldOf p.core) p.name 1
  | .stale => s.trapWalk k p causeTapeStale (BitVec.ofNat 64 t.cur) none
  | .engine r n b va => s.trapWalk k p causeEngine (tapeEngine r n b t.cur) va

/-- The walk has passed every record above its target (10 R328): the log is cut, and the instruction retires. -/
def State.finishWalk (s : State) (k : Nat) (p : Proc) (t : TapeS) : State :=
  let fold := foldOf p.core
  let e := ((t.marks.find? (fun m => m.1 == t.target)).map Prod.snd).getD 0
  let u := (s.modTape fold p.name (fun x => { x with
    ended := e, spilled := min x.spilled e, nextSeq := t.target + 1, lastLen := if t.target = 0 then 0 else 64, st := x.prev, due := 0,
    under := false, flags := 0, marks := x.marks.filter (fun m => decide (m.1 ≤ t.target)),
    producers := x.producers.filter (fun y => decide (y.2.1 ≤ t.target)) })).modProc k (fun q => q.raiseFlags t.flags)
  match p.hold with
  | some h => (u.endTapeUse k p h (BitVec.ofNat 64 t.count)).runCommands p.core 8
  | none => u

/-- The walk goes on at a record boundary (10 R328): marks are passed over, a GMMA record waits for the gang, any other begins. -/
def State.nextRecord (s : State) (k : Nat) (p : Proc) : Nat → TapeS → State
  | 0, _ => s
  | fuel + 1, t =>
    let fold := foldOf p.core
    if t.cur ≤ t.target then s.finishWalk k p t
    else
      match s.readRecord (s.agentOf p) t t.pos with
      | .error va => s.stopWalk k p t (.engine 2 0 0 va)
      | .ok r =>
        if r.kind = 1 then
          let back (x : TapeS) : TapeS := { x with cur := x.cur - 1, pos := x.pos - r.plen }
          (s.modTape fold p.name back).nextRecord k p fuel (back t)
        else
          match s.tryRecord p t r with
          | .error e => s.stopWalk k p t e
          | .ok w =>
            match w.op with
            | .gmma _ _ _ =>
              ((s.modTape fold p.name (fun x => { x with atGang := some (r.extra1.toNat / 2 ^ 32) })).leaveTape fold p.name).walkAt fold p.name 1
            | _ => (s.modTape fold p.name (fun x => { x with under := true })).walkAt fold p.name (s.recordTime p t w)

/-- A record boundary (10 R328, Table 10.13): a suspension, or a store fault that came meanwhile, is taken here. -/
def State.walkOn (s : State) (k : Nat) (p : Proc) (t : TapeS) : State :=
  if p.stopped then (s.pauseWalk k p).endEngine k
  else if !p.suspend.isEmpty then (s.pauseWalk k p).park k .boundary
  else s.nextRecord k p (t.cur + 1) t

/-- A record has been reversed. -/
def State.passRecord (s : State) (fold name : Nat) (plen : Nat) (fl : FlagSet) : State :=
  s.modTape fold name (fun x => { x with
    cur := x.cur - 1, pos := x.pos - plen, count := x.count + 1, flags := x.flags ||| fl, under := false, atGang := none, due := 0 })

/-- The gradient tile that a failed access of a record concerns: that of dt, or 0 for an ADRAIN.R (10 Table 10.12). -/
def gradTile (r : RevRec) : Nat := if r.remote then 0 else (gradOf r.opd).getD 0

/-- The record under way is finished: its adjoint is applied in one step (10 R328). -/
def State.endRecord (s : State) (k : Nat) (p : Proc) (t : TapeS) : State :=
  let fold := foldOf p.core
  let s0 := s.modTape fold p.name (fun x => { x with under := false, due := 0 })
  match s.readRecord (s.agentOf p) t t.pos with
  | .error va => s0.stopWalk k p t (.engine 2 0 0 va)
  | .ok r =>
    match s.tryRecord p t r with
    | .error e => s0.stopWalk k p t e
    | .ok w =>
      match s.applyRecord p t w with
      | .error va => s0.trapWalk k p causeEngine (tapeEngine 3 (gradTile r) 0 t.cur) (some va)
      | .ok d =>
        let u := d.s.passRecord fold p.name r.plen d.flags
        match d.failed with
        | some va => u.trapWalk k p causeEngine (tapeEngine 3 (gradTile r) 0 t.cur) (some va)
        | none =>
          match u.tapeNamed fold p.name with
          | some x => u.walkOn k p x
          | none => u

/-! ### Gang products (10 R331) -/

/-- A member of a gang whose walk stands at a GMMA record: its key, process, tape and work. -/
structure GangRev where
  key : Nat
  p : Proc
  t : TapeS
  w : RevWork
  deriving DecidableEq, Repr

/-- The members of a gang whose walks stand at the record of the gang's product of an ordinal, with nothing to wait for, in ascending
order. -/
def State.gangAt (s : State) (gid ordinal : Nat) : List GangRev :=
  ((s.members gid).filterMap (fun e =>
    match s.tapeOf e.2 with
    | some t =>
      if t.atGang = some ordinal ∧ t.st = .reversing ∧ e.2.wait = .engine ∧ e.2.gang.isSome then
        match s.readRecord (s.agentOf e.2) t t.pos with
        | .ok r =>
          match s.tryRecord e.2 t r with
          | .ok w => some { key := e.1, p := e.2, t := t, w := w }
          | .error _ => none
        | .error _ => none
      else none
    | none => none)).foldl (fun l x => insertBy (fun (y : GangRev) => y.p.gang.getD 0) x l) []

/-- A member whose bank's gradient tile has fewer rows than the A that its source sent: its name and that tile (10 R326). -/
def State.gangShort (s : State) (ms : List GangRev) (m : GangRev) : Option (Nat × Nat) :=
  match m.t.gradOfBank m.w.rec_.opd, ms.find? (fun x => x.p.gang.getD 0 == sourceOf (m.p.gang.getD 0)) with
  | some g, some x =>
    if layRows (s.layAt m.p.core g) < ((x.w.ops.a.map (fun o => o.latch.rows.length)).getD 0) then some (m.p.name, g) else none
  | _, _ => none

/-- A member waits at its GMMA record until every live member has reached its own; then they all take the same time. -/
def State.pollGang (s : State) (k : Nat) (p : Proc) (t : TapeS) (ordinal : Nat) : State :=
  let size := ((s.group? p.gid).map Group.gangSize).getD 0
  if s.gangBroken p then s.trapWalk k p causeEngine (tapeEngine 4 0 0 t.cur) none
  else if p.stopped || !p.suspend.isEmpty then s.walkOn k p t
  else
    match s.readRecord (s.agentOf p) t t.pos with
    | .error va => s.stopWalk k p t (.engine 2 0 0 va)
    | .ok r =>
      match s.tryRecord p t r with
      | .error e => s.stopWalk k p t e
      | .ok _ =>
        let ms := s.gangAt p.gid ordinal
        if ms.length < size then s.walkAt (foldOf p.core) p.name 1
        else if (ms.filterMap (s.gangShort ms)).any (fun x => x.1 == p.name) then
          s.trapWalk k p causeEngine (tapeEngine 1 (((ms.filterMap (s.gangShort ms)).find? (fun x => x.1 == p.name)).map Prod.snd |>.getD 0) 1 t.cur) none
        else if !(ms.filterMap (s.gangShort ms)).isEmpty then s.walkAt (foldOf p.core) p.name 1
        else
          let n := (ms.map (fun m => s.recordTime m.p m.t m.w)).foldl max 1
          ms.foldl (fun u m =>
            (u.modTape (foldOf m.p.core) m.p.name (fun x => { x with under := true })).walkAt (foldOf m.p.core) m.p.name n) s

/-- The contributions of a gang's members to the gradients of A at its sources and of their own B (10 Table 10.11): `gs` holds the gradients
of each member by number. -/
def gangAdjoint (ms : List GangRev) (gs : Tab Grads) : Tab Grads :=
  ms.foldl (fun acc m =>
    let me := m.p.gang.getD 0
    let bank := m.t.gradOfBank m.w.rec_.opd
    let dc := (tgetD gs me {}).codes bank
    let lb := (m.w.ops.b.map RevOperand.latch).getD {}
    match ms.find? (fun x => x.p.gang.getD 0 == sourceOf me) with
    | none => acc
    | some src =>
      let la := (src.w.ops.a.map RevOperand.latch).getD {}
      if bank.isNone then acc
      else
        let at_ := sourceOf me
        let g := tgetD acc at_ {}
        let h := { g with flags := 0 }.addA (gradOf src.w.rec_.opa) false m.w.ftz m.w.daz dc lb la.rows.length []
        let acc1 := tput acc at_ { h with flags := g.flags }
        let own := tgetD acc1 me {}
        tput acc1 me (({ own with flags := own.flags ||| h.flags }).addBs m.w.rec_ m.w.op false m.w.ftz m.w.daz dc la lb)) gs

/-- The members of a gang reverse their GMMA records together (10 R331). -/
def State.endGang (s : State) (p : Proc) (ordinal : Nat) : State :=
  let ms := s.gangAt p.gid ordinal
  let size := ((s.group? p.gid).map Group.gangSize).getD 0
  if ms.length < size then
    -- something came between: each walk tries again
    ((s.members p.gid).filter (fun e => (s.tapeOf e.2).any (fun t => t.atGang == some ordinal && t.under))).foldl (fun u e =>
      (u.modTape (foldOf e.2.core) e.2.name (fun x => { x with under := false })).walkAt (foldOf e.2.core) e.2.name 1) s
  else
    let s1 := ms.foldl (fun u m => u.fillBuffer m.p.core m.t m.w.ops) s
    let gs : Tab Grads := ms.foldl (fun l m => tput l (m.p.gang.getD 0) (s1.loadGrads m.p.core m.w.uses)) []
    let out := gangAdjoint ms gs
    ms.foldl (fun u m =>
      let fold := foldOf m.p.core
      let g := tgetD out (m.p.gang.getD 0) {}
      (((u.storeGrads m.p.core g).passRecord fold m.p.name m.w.rec_.plen g.flags).modFold fold (fun x =>
        { x with tapeUse := x.tapeUse ++ [m.p.name] })).walkAt fold m.p.name 1) s1

/-- REVERSE_RECORD (10 R328): a record boundary of a walk, or the end of the record under way. -/
def reverseRecord (name : Nat) (s : State) : State :=
  s.modNamed name (fun k p s =>
    match p.hold, s.tapeOf p with
    | some h, some t =>
      if p.wait ≠ .engine ∨ h.arg2 ≠ walkMark ∨ t.st ≠ .reversing ∨ t.due ≠ s.cycle then s
      else
        match t.atGang with
        | some n => if t.under then s.endGang p n else s.pollGang k p t n
        | none =>
          if t.under then s.endRecord k p t
          else if (s.fold (foldOf p.core)).tapeUse.head? ≠ some name then s
          else s.walkOn k p t
    | _, _ => s)

/-- REVERSE (10 R328): a walk begins, or goes on where it was interrupted. -/
def execReverse (d : Reg) (a : Src) (s : State) :=
  onCur s (fun k p =>
    if !hasVtu p.core then s.illegal k
    else s.issue k p [srcField a 0] [d] (fun vals c =>
      match s.tapeOf p with
      | none => s.illegal k
      | some t =>
        let v := (vals.getD 0 0).toNat
        let h : Hold := { consume := c, dst := some d, issuedAt := s.cycle, arg2 := walkMark }
        if t.st = .reversing then (if v ≠ t.target then s.illegal k else (s.releaseStores k).enterTape k p h)
        else if v ≠ 0 ∧ !t.marks.any (fun m => m.1 == v) then s.illegal k
        else
          let s1 := s.modTape (foldOf p.core) p.name (fun x => { x with
            st := .reversing, prev := x.st, target := v, cur := x.nextSeq - 1, count := 0, pos := x.ended - x.lastLen, flags := 0,
            atGang := none, under := false, due := 0 })
          (s1.releaseStores k).enterTape k p h))

end Sys2Proof.Machine
end

