-- ==== Sys2Proof/Machine/SumProduct.lean ====
section
/-! DEFINITION. The arithmetic of the sum-product engine: LP48, and the values and derivatives of a subtree (11 R337 to R345). -/

namespace Sys2Proof.Machine

/-! ### LP48 (11 R337, R338) -/

/-- What an LP48 word stands for. -/
inductive L48 where
  | bad
  | nv
  | zero
  | fin (f : Nat) (e : Int)
  deriving DecidableEq, Repr

/-- Decode48 (11 R337): a finite value is f * 2^(e - 24). -/
def decode48 (w : Word) : L48 :=
  let e : Int := (w.extractLsb' 24 24).toInt
  let f := w.toNat % 2 ^ 24
  if w.toNat / 2 ^ 48 ≠ 0 then .bad
  else if e = -(2 ^ 23) then .nv
  else if e = 0 ∧ f = 0 then .zero
  else if 2 ^ 23 ≤ f then .fin f e
  else .bad

/-- NV as the device writes it. -/
def nv48 : Word := 0x0000800000000000

/-- STATUS bits as the engine collects them: OVF, UNF, NVIN from bit 0 up (11 Table 11.5). -/
abbrev SpeBits := BitVec 3

/-- Round48 of m * 2^e (11 R338). -/
def round48 (m : Nat) (e : Int) : Word × SpeBits :=
  if m = 0 then (0, 0)
  else
    let l := m.log2
    let top : Int := e + l + 1
    let q := l - 23
    let f0 := if l ≤ 23 then m * 2 ^ (23 - l) else
      let k := m / 2 ^ q
      let r := m % 2 ^ q
      if 2 ^ q < 2 * r ∨ (2 * r = 2 ^ q ∧ k % 2 = 1) then k + 1 else k
    let f := if f0 = 2 ^ 24 then 2 ^ 23 else f0
    let x : Int := if f0 = 2 ^ 24 then top + 1 else top
    if 2 ^ 23 - 1 < x then (nv48, 1)
    else if x < -(2 ^ 23) + 1 then (0, 2)
    else (BitVec.ofNat 64 ((BitVec.ofInt 24 x).toNat * 2 ^ 24 + f), 0)

/-- Mul48 and Add48 (11 R338); a malformed word is read as NV where it gets this far (11 R345). -/
def mul48 (a b : Word) : Word × SpeBits :=
  match decode48 a, decode48 b with
  | .fin f e, .fin g d => round48 (f * g) (e + d - 48)
  | .zero, .zero | .zero, .fin _ _ | .fin _ _, .zero => (0, 0)
  | _, _ => (nv48, 4)
def add48 (a b : Word) : Word × SpeBits :=
  match decode48 a, decode48 b with
  | .fin f e, .fin g d => let s := (Dy.mk f (e - 24)).add ⟨g, d - 24⟩; round48 s.m.natAbs s.e
  | .zero, .zero => (0, 0)
  | .zero, .fin f e | .fin f e, .zero => round48 f (e - 24)
  | _, _ => (nv48, 4)

/-! ### Arithmetic by mode (11 R339) -/

/-- A word with the flags and status bits that making it has raised. -/
structure SpeVal where
  w : Word
  flags : FlagSet := 0
  bits : SpeBits := 0
  deriving DecidableEq, Repr

/-- The mode and the options of an instruction. -/
structure SpeMode where
  lp : Bool
  ftz : Bool
  daz : Bool
  deriving DecidableEq, Repr

/-- An FP32 word as an operand is read, under DAZ (02 R40). -/
def SpeMode.operand (m : SpeMode) (w : Word) : Word :=
  if !m.lp && m.daz && w.toNat / 2 ^ 23 % 256 == 0 then w &&& 0x80000000 else w

/-- Mul and Add. -/
def SpeMode.mul (m : SpeMode) (a b : SpeVal) : SpeVal :=
  if m.lp then let r := mul48 a.w b.w; ⟨r.1, 0, r.2 ||| a.bits ||| b.bits⟩
  else let r := fp32.mulVals .rne m.ftz (fp32.decode a.w.toNat) (fp32.decode b.w.toNat); ⟨BitVec.ofNat 64 r.1, r.2 ||| a.flags ||| b.flags, 0⟩
def SpeMode.add (m : SpeMode) (a b : SpeVal) : SpeVal :=
  if m.lp then let r := add48 a.w b.w; ⟨r.1, 0, r.2 ||| a.bits ||| b.bits⟩
  else let r := fp32.addVals .rne m.ftz (fp32.decode a.w.toNat) (fp32.decode b.w.toNat); ⟨BitVec.ofNat 64 r.1, r.2 ||| a.flags ||| b.flags, 0⟩

/-- One(mode). -/
def SpeMode.one (m : SpeMode) : Word := if m.lp then 0x01800000 else 0x3F800000

/-- Whether a word read as an operand is malformed (11 R337, R339). -/
def SpeMode.malformed (m : SpeMode) (w : Word) : Bool := if m.lp then decode48 w == .bad else decide (w.toNat / 2 ^ 32 ≠ 0)

/-- The value that an add finds in a derivative entry (11 R345). -/
def SpeMode.entry (m : SpeMode) (w : Word) : Word :=
  if m.lp then w else if w.toNat / 2 ^ 32 ≠ 0 then 0x7FC00000 else m.operand w

/-! ### Descriptors (11 Table 11.2, R342) -/

/-- The fields of a descriptor of eight words. -/
def spWbase (d : List Word) : Nat := (d.headD 0).toNat / 2 ^ 52
def spRoot (d : List Word) : Nat := (d.headD 0).toNat / 2 ^ 34 % 2 ^ 13
def spDoff (d : List Word) : Nat := (d.getD 1 0).toNat % 2 ^ 13
/-- Node n is active, a product node. -/
def spActive (d : List Word) (n : Nat) : Bool := (d.headD 0).getLsbD (n - 1)
def spProduct (d : List Word) (n : Nat) : Bool := (d.headD 0).getLsbD (n + 14)
/-- The halfword of leaf port k, and its fields. -/
def spLeaf (d : List Word) (k : Nat) : Nat := (d.getD (4 + k / 4) 0).toNat / 2 ^ (16 * (k % 4)) % 2 ^ 16
def spLeafEntry (d : List Word) (k : Nat) : Nat := spLeaf d k / 8
def spSkipd (d : List Word) (k : Nat) : Bool := spLeaf d k / 4 % 2 == 1
def spOne (d : List Word) (k : Nat) : Bool := spLeaf d k / 2 % 2 == 1
def spUsed (d : List Word) (k : Nat) : Bool := spLeaf d k % 2 == 1

/-- The derivative entry of an entry (11 R341). -/
def spDeriv (d : List Word) (n : Nat) : Nat := (n + spDoff d) % 8192

/-- The active sum nodes numbered below p (11 R343). -/
def spSums (d : List Word) (p : Nat) : Nat := ((List.range 16).filter (fun n => decide (1 ≤ n) && decide (n < p) && spActive d n && !spProduct d n)).length

/-- The reached positions from heap position p on (11 R343). -/
def spReached (d : List Word) : Nat → Nat → List Nat
  | 0, _ => []
  | fuel + 1, p =>
    if 16 ≤ p then [p]
    else if !spActive d p then p :: spReached d fuel (2 * p)
    else p :: (spReached d fuel (2 * p) ++ spReached d fuel (2 * p + 1))

/-- The needed leaf ports, ascending. -/
def spLeaves (d : List Word) : List Nat := (List.range 16).filter (fun k => (spReached d 5 1).contains (16 + k))

/-- The weight numbers that an evaluation reads, ascending. -/
def spWeights (d : List Word) : List Nat :=
  ((List.range 16).filter (fun p => decide (1 ≤ p) && (spReached d 5 1).contains p && spActive d p && !spProduct d p)).flatMap (fun p =>
    [spWbase d + 2 * spSums d p, spWbase d + 2 * spSums d p + 1])

/-- A malformed descriptor (11 R342). -/
def spMalformed (d : List Word) : Bool :=
  let w := d.headD 0
  w.extractLsb' 47 5 != 0 || w.extractLsb' 30 4 != 0 || decide ((d.getD 1 0).toNat / 2 ^ 13 ≠ 0) || d.getD 2 0 != 0 || d.getD 3 0 != 0 ||
  (List.range 16).any (fun n => decide (1 ≤ n) && !spActive d n && spProduct d n) ||
  (List.range 16).any (fun k => (!spUsed d k && spLeaf d k != 0) || (spOne d k && spLeafEntry d k != 0)) ||
  (spLeaves d).any (fun k => !spUsed d k) ||
  decide (4096 < spWbase d + 2 * spSums d 16)

/-! ### Evaluation (11 R343 to R345) -/

/-- Val of a heap position (11 R343); `leaf` gives the leaf words and `wt` the weights. -/
def spVal (m : SpeMode) (d : List Word) (leaf wt : Nat → Word) : Nat → Nat → SpeVal
  | 0, _ => ⟨0, 0, 0⟩
  | fuel + 1, p =>
    if 16 ≤ p then ⟨if spOne d (p - 16) then m.one else m.operand (leaf (p - 16)), 0, 0⟩
    else if !spActive d p then spVal m d leaf wt fuel (2 * p)
    else
      let l := spVal m d leaf wt fuel (2 * p)
      let r := spVal m d leaf wt fuel (2 * p + 1)
      if spProduct d p then m.mul l r
      else
        let j := spWbase d + 2 * spSums d p
        m.add (m.mul ⟨m.operand (wt j), 0, 0⟩ l) (m.mul ⟨m.operand (wt (j + 1)), 0, 0⟩ r)

/-- The derivatives that pass down from heap position p to the leaf ports under it, in ascending order (11 R345). -/
def spDown (m : SpeMode) (d : List Word) (leaf wt : Nat → Word) : Nat → Nat → SpeVal → List (Nat × SpeVal)
  | 0, _, _ => []
  | fuel + 1, p, g =>
    if 16 ≤ p then [(p - 16, g)]
    else if !spActive d p then spDown m d leaf wt fuel (2 * p) g
    else
      let v (q : Nat) : SpeVal := spVal m d leaf wt fuel q
      let j := spWbase d + 2 * spSums d p
      let gl := if spProduct d p then m.mul g (v (2 * p + 1)) else m.mul g ⟨m.operand (wt j), 0, 0⟩
      let gr := if spProduct d p then m.mul g (v (2 * p)) else m.mul g ⟨m.operand (wt (j + 1)), 0, 0⟩
      spDown m d leaf wt fuel (2 * p) gl ++ spDown m d leaf wt fuel (2 * p + 1) gr

/-! ### SPCVT (11 R350) -/

/-- Conv of a word from the mode of one bank to that of another. -/
def spConv (ftz daz : Bool) (src dst : Bool) (w : Word) : SpeVal :=
  match src, dst with
  | false, true =>
    match fp32.daz daz (fp32.decode w.toNat) with
    | .fin neg m e => if m = 0 then ⟨0, 0, 0⟩ else if neg then ⟨nv48, flagNV, 0⟩ else let r := round48 m e; ⟨r.1, 0, r.2⟩
    | _ => ⟨nv48, flagNV, 0⟩
  | true, false =>
    match decode48 w with
    | .fin f e => let r := fp32.round .rne ftz false false ⟨f, e - 24⟩; ⟨BitVec.ofNat 64 r.1, r.2, 0⟩
    | .zero => ⟨0, 0, 0⟩
    | _ => ⟨0x7FC00000, 0, 4⟩
  | _, _ => ⟨w, 0, 0⟩

end Sys2Proof.Machine
end

