-- ==== Sys2Proof/Machine/Spe.lean ====
section
/-! DEFINITION. The sum-product engine of a fold and the instructions of major 0x36 (11). -/

namespace Sys2Proof.Machine

/-! ### Entries, weights and jobs -/

def State.spe (s : State) (fold : Nat) : SpeS := (s.fold fold).spe
def State.modSpe (s : State) (fold : Nat) (f : SpeS → SpeS) : State := s.modFold fold (fun x => { x with spe := f x.spe })
def State.modJob (s : State) (fold name : Nat) (f : SpeJob → SpeJob) : State :=
  s.modSpe fold (fun x => { x with jobs := x.jobs.map (fun j => if j.name = name then f j else j) })
def State.dropJob (s : State) (fold name : Nat) : State :=
  s.modSpe fold (fun x => { x with jobs := x.jobs.filter (fun j => j.name != name) })
def State.speJob (s : State) (fold name : Nat) : Option SpeJob := (s.spe fold).jobs.find? (fun j => j.name == name)

/-- The addresses of an entry and of a weight (04 R73). -/
def entryAddr (fold n : Nat) : Nat := speBase fold + 8 * n
def weightAddr (fold n : Nat) : Nat := speBase fold + 0x10000 + 8 * n

/-- A 64-bit word of memory. -/
def State.word64 (s : State) (a : Nat) : Word := BitVec.ofNat 64 (readLe s.mem a 8)

/-- The instructions of a fold in the grant order of a cycle (11 R355): by core from one that advances each cycle, the older first. -/
def State.speOrder (s : State) (fold cycle : Nat) : List SpeJob :=
  let x := s.spe fold
  (List.range 7).flatMap (fun j => x.jobs.filter (fun b => b.core % 8 == (cycle - x.order0 + j) % 7))

/-- The mark in the hold of a process whose registers the engine has. -/
def speMark : Nat := 13

/-- The fields of operand words (11 R347). -/
def SpeJob.first (j : SpeJob) : Nat := if j.fn = 2 then j.opA.toNat % 2 ^ 12 else j.opA.toNat % 2 ^ 13
def SpeJob.count (j : SpeJob) : Nat := if j.fn = 2 then j.opA.toNat / 2 ^ 32 % 2 ^ 12 + 1 else j.opA.toNat / 2 ^ 32 % 2 ^ 9 + 1

/-- The mode of a bank among sampled modes. -/
def modeOf (modes : BitVec 16) (entry : Nat) : Bool := modes.getLsbD (entry / 512)

/-- The status word of ENGINE from the engine (11 Table 11.7). -/
def speEngine (reason entry desc : Nat) : Word := BitVec.ofNat 64 (0xB * 2 ^ 56 + reason * 2 ^ 48 + entry * 2 ^ 35 + desc)

/-- The offset that the status word gives for an evaluation. -/
def SpeJob.descOff (j : SpeJob) : Nat := if j.fn = 3 ∨ j.fn = 4 then j.opA.toNat % 2 ^ 24 else 0

/-- An instruction ends in ENGINE, with no effect (11 R357). -/
def State.speFail (s : State) (fold : Nat) (j : SpeJob) (eval : Word) : State :=
  (s.dropJob fold j.name).modNamed j.name (fun k _ t =>
    ((t.modProc k (fun q => { q with wait := .none })).raise k causeEngine eval).endEngine k)

/-- An instruction's last access is made: it retires in the next cycle (11 Table 11.6). -/
def State.speDone (s : State) (fold : Nat) (j : SpeJob) : State :=
  (s.modJob fold j.name (fun _ => { j with phase := 5, begin_ := s.cycle + 1 })).after 1 (.speRetire fold j.name)

/-! ### Ports (11 R355) -/

/-- The accesses of an instruction that find ports free in a cycle, those that wait, and the ports used: two for each bank; an access that
finds none keeps back every later one to its bank. -/
def grants {α : Type} (bank : α → Nat) : Tab Nat → List Nat → List α → List α × List α × Tab Nat
  | ports, _, [] => ([], [], ports)
  | ports, shut, x :: xs =>
    let b := bank x
    if shut.contains b || decide (2 ≤ tgetD ports b 0) then
      let r := grants bank ports (b :: shut) xs
      (r.1, x :: r.2.1, r.2.2)
    else
      let r := grants bank (tput ports b (tgetD ports b 0 + 1)) shut xs
      (x :: r.1, r.2.1, r.2.2)

/-- A write of an entry or weight, or an add into an entry (11 R345). -/
def State.speWrite (s : State) (fold : Nat) (j : SpeJob) (x : Nat × Word) : State :=
  if j.fn = 2 then
    let a := weightAddr fold x.1
    (s.writeNum a 8 x.2.toNat).modSpe fold (fun e => { e with
      freshAt := s.cycle, fresh := (if e.freshAt = s.cycle then e.fresh else []) ++ [(x.1, s.word64 a, s.poisoned a 8)] })
  else
    let a := entryAddr fold x.1
    if j.fn = 4 then
      let m : SpeMode := ⟨modeOf j.modes x.1, j.ftz, j.daz⟩
      let v := m.add ⟨m.entry (s.word64 a), 0, 0⟩ ⟨x.2, 0, 0⟩
      ((s.writeNum a 8 v.w.toNat).modSpe fold (fun e => { e with bits := e.bits ||| v.bits })).modJob fold j.name
        (fun b => { b with flags := b.flags ||| v.flags })
    else s.writeNum a 8 x.2.toNat

/-- The writes and adds of an instruction in a cycle. -/
def State.speWrites (fold : Nat) (acc : State × Tab Nat) (name : Nat) : State × Tab Nat :=
  let (s, ports) := acc
  match s.speJob fold name with
  | none => acc
  | some j =>
    if j.phase ≠ 3 ∨ s.cycle < j.begin_ then acc
    else
      let g := grants (fun (x : Nat × Word) => if j.fn = 2 then 16 else x.1 / 512) ports [] j.out
      let s1 := (s.modSpe fold (fun e => { e with bits := e.bits ||| j.bits })).modJob fold name
        (fun b => { b with bits := 0, out := g.2.1, touched := true })
      let s2 := g.1.foldl (fun t x => t.speWrite fold j x) s1
      (match s2.speJob fold name with
       | some b => if b.out.isEmpty then s2.speDone fold b else s2
       | none => s2, g.2.2)

/-! ### What follows a read phase -/

/-- The words of an instruction in the order in which it reads them. -/
def SpeJob.words (j : SpeJob) : List (Nat × Word) := (List.range 512).filterMap (fun i => (tget j.got i).map (fun w => (i, w)))

/-- SPCVT once its sources are read (11 R350, R357): the first poisoned or malformed source ends it. -/
def State.speConvert (s : State) (fold : Nat) (j : SpeJob) : State :=
  let src (i : Nat) : Nat := j.first + i
  let dst (i : Nat) : Nat := j.opB.toNat % 2 ^ 13 + i
  match j.words.find? (fun x => j.hurt.contains x.1 ||
      ({ lp := modeOf j.modes (src x.1), ftz := j.ftz, daz := j.daz : SpeMode }).malformed x.2) with
  | some x => s.speFail fold j (speEngine (if j.hurt.contains x.1 then 4 else 2) (src x.1) 0)
  | none =>
    let vs := j.words.map (fun x => (dst x.1, spConv j.ftz j.daz (modeOf j.modes (src x.1)) (modeOf j.modes (dst x.1)) x.2))
    s.modJob fold j.name (fun _ => { j with
      phase := 3, begin_ := s.cycle + 3, out := vs.map (fun v => (v.1, v.2.w)),
      flags := vs.foldl (fun x v => x ||| v.2.flags) 0, bits := vs.foldl (fun x v => x ||| v.2.bits) 0 })

/-- SPST once its entries are read. -/
def State.speStore (s : State) (fold : Nat) (j : SpeJob) : State :=
  match j.words.find? (fun x => j.hurt.contains x.1) with
  | some x => s.speFail fold j (speEngine 4 (j.first + x.1) 0)
  | none => s.modJob fold j.name (fun _ => { j with
      phase := 4, begin_ := s.cycle + 2, out := j.words.map (fun x => (j.opB.toNat % 2 ^ 24 + 8 * x.1, x.2)) })

/-- The reads of an instruction in a cycle. -/
def State.speReads (fold : Nat) (acc : State × Tab Nat) (name : Nat) : State × Tab Nat :=
  let (s, ports) := acc
  match s.speJob fold name with
  | none => acc
  | some j =>
    if j.phase ≠ 1 ∨ s.cycle < j.begin_ then acc
    else
      let g := grants (fun (x : Nat × Nat) => x.2 / 512) ports [] j.todo
      let b := { j with
        todo := g.2.1, touched := j.touched || !g.1.isEmpty,
        got := g.1.foldl (fun t x => tput t x.1 (s.word64 (entryAddr fold x.2))) j.got,
        hurt := j.hurt ++ (g.1.filter (fun x => s.poisoned (entryAddr fold x.2) 8)).map Prod.fst }
      let s1 := s.modJob fold name (fun _ => b)
      (if !b.todo.isEmpty then s1
       else if b.fn = 1 then s1.speStore fold b
       else if b.fn = 6 then s1.speConvert fold b
       else s1.modJob fold name (fun _ => { b with phase := 2, begin_ := s.cycle + 1 }), g.2.2)

/-! ### The first cycle of an instruction, and its scratchpad accesses -/

/-- The entries that an evaluation reads (11 R343, R345, R354): the needed leaves, then for SPD the upstream entry. -/
def evalReads (fn : Nat) (d : List Word) : List (Nat × Nat) :=
  ((spLeaves d).filter (fun k => !spOne d k)).map (fun k => (k, spLeafEntry d k)) ++ (if fn = 4 then [(16, spDeriv d (spRoot d))] else [])

/-- The status word that SPSTAT reads (11 Table 11.5). -/
def SpeS.status (x : SpeS) : Word := BitVec.ofNat 64 (x.modes.toNat * 2 ^ 48 + x.jobs.length % 64 * 2 ^ 32 + x.bits.toNat)

/-- An instruction in phase 0: SPMODE and SPSTAT act, SPLD and SPW read the scratchpad eight words a cycle, the others begin to read. -/
def State.speBegin (s : State) (fold name : Nat) : State :=
  match s.speJob fold name with
  | none => s
  | some j =>
    if j.phase ≠ 0 ∨ s.cycle < j.begin_ then s
    else
      match j.fn with
      | 5 =>
        let old := (s.spe fold).modes
        let a : BitVec 16 := j.opA.extractLsb' 0 16
        let b : BitVec 16 := j.opB.extractLsb' 0 16
        (s.modSpe fold (fun x => { x with modes := (old &&& ~~~a) ||| (b &&& a) })).speDone fold { j with result := old.zeroExtend 64, touched := true }
      | 7 =>
        let st := (s.spe fold).status
        (if j.zero then s.modSpe fold (fun x => { x with bits := 0 }) else s).speDone fold { j with result := st, touched := true }
      | 3 | 4 =>
        let at_ := sramBase fold + j.descOff
        let d := (List.range 8).map (fun i => s.word64 (at_ + 8 * i))
        if s.poisoned at_ 64 then s.speFail fold j (speEngine 4 0 j.descOff)
        else if spMalformed d then s.speFail fold j (speEngine 1 0 j.descOff)
        else s.modJob fold name (fun _ => { j with phase := 1, desc := d, todo := evalReads j.fn d })
      | 1 => s.modJob fold name (fun _ => { j with phase := 1, todo := (List.range j.count).map (fun i => (i, j.first + i)) })
      | 6 => s.modJob fold name (fun _ => { j with
          phase := 1, modes := (s.spe fold).modes, todo := (List.range j.count).map (fun i => (i, j.first + i)) })
      | _ =>
        let base := windowBase j.core + j.opB.toNat % 2 ^ 24
        let n := if j.zero then 0 else min 8 (j.count - j.got.length)
        let ix := (List.range n).map (fun i => j.got.length + i)
        match ix.find? (fun i => s.poisoned (base + 8 * i) 8) with
        | some i => s.speFail fold j (speEngine 4 0 (j.opB.toNat % 2 ^ 24 + 8 * i))
        | none =>
          let got := j.got ++ ix.map (fun i => (i, s.word64 (base + 8 * i)))
          let b := { j with got := got, touched := j.touched || !j.zero }
          if j.zero then s.modJob fold name (fun _ => { b with
            phase := 3, begin_ := s.cycle + 1, out := (List.range j.count).map (fun i => (j.first + i, 0)) })
          else if got.length = j.count then s.modJob fold name (fun _ => { b with
            phase := 3, begin_ := s.cycle + 2, out := got.map (fun x => (j.first + x.1, x.2)) })
          else s.modJob fold name (fun _ => b)

/-- SPST's writes of the scratchpad, eight words a cycle. -/
def State.speScratch (s : State) (fold name : Nat) : State :=
  match s.speJob fold name with
  | none => s
  | some j =>
    if j.phase ≠ 4 ∨ s.cycle < j.begin_ then s
    else
      let t := (j.out.take 8).foldl (fun u x => u.writeNum (windowBase j.core + x.1) 8 x.2.toNat) s
      let b := { j with out := j.out.drop 8 }
      if b.out.isEmpty then t.speDone fold b else t.modJob fold name (fun _ => b)

/-- The accesses through the window that wait are granted the ports that are left, in their order of arrival (11 R355). -/
def grantWaits (ports : Tab Nat) (waits : List (Nat × Ev)) : Tab Nat × List (Nat × Ev) × List Ev :=
  waits.foldl (fun acc w =>
    if 2 ≤ tgetD acc.1 w.1 0 then (acc.1, acc.2.1 ++ [w], acc.2.2)
    else (tput acc.1 w.1 (tgetD acc.1 w.1 0 + 1), acc.2.1, acc.2.2 ++ [w.2])) (ports, [], [])

/-- A cycle of a fold's engine (11 R355): what begins; writes and adds, then reads, each class in the grant order; then the accesses through the
window that have waited. Those whose reads were complete before enter the trees in this cycle, in its order (11 R356). -/
def State.speCycle (s : State) (fold : Nat) : State :=
  let enter := ((s.speOrder fold s.cycle).filter (fun j => j.phase == 2 && decide (j.begin_ ≤ s.cycle))).map (fun j => Ev.speTreeEntry fold j.name)
  let order := (s.speOrder fold s.cycle).map SpeJob.name
  -- new modes apply to all that samples modes in this cycle (11 R349, R350)
  let modes := ((s.speOrder fold s.cycle).filter (fun j => j.fn == 5)).map SpeJob.name
  let s1 := (modes ++ order).foldl (fun t n => t.speBegin fold n) s
  let s2 := order.foldl (fun t n => t.speScratch fold n) s1
  let w := order.foldl (State.speWrites fold) (s2, [])
  let r := order.foldl (State.speReads fold) w
  let g := grantWaits r.2 (r.1.spe fold).waits
  let t := r.1.modSpe fold (fun x => { x with portsAt := s.cycle, ports := g.1, waits := g.2.1, granted := x.granted ++ g.2.2 })
  { t with agenda := (enter ++ g.2.2).map (fun e => (s.cycle, e)) ++ t.agenda }

/-- A cycle of every engine that holds an instruction, or for which an access through its window waits. -/
def State.speCycles (s : State) : State :=
  ((s.folds.filter (fun e => !(e.2.spe.jobs.isEmpty && e.2.spe.waits.isEmpty))).map Prod.fst).foldl (fun t f => t.speCycle f) s

/-! ### Trees (11 R343 to R345, R356) -/

/-- A weight as it stood at the start of the cycle, and whether it is poisoned. -/
def State.speWeight (s : State) (fold n : Nat) : Word × Bool :=
  let x := s.spe fold
  match (if x.freshAt = s.cycle then x.fresh.find? (fun e => e.1 == n) else none) with
  | some e => e.2
  | none => (s.word64 (weightAddr fold n), s.poisoned (weightAddr fold n) 8)

/-- The first operand of an evaluation, in its read order, that it cannot take: a disagreement of modes, poison, a malformed word. Leaves come
first, then the upstream entry, the weights and the banks of the adds (11 R340, R357; log 15). -/
def State.speFault (s : State) (fold : Nat) (j : SpeJob) : Option Word :=
  let d := j.desc
  let m : SpeMode := ⟨modeOf j.modes (spRoot d), j.ftz, j.daz⟩
  let bad (n : Nat) (hurt : Bool) (w : Word) : Option Word :=
    if hurt then some (speEngine 4 n j.descOff) else if m.malformed w then some (speEngine 2 n j.descOff) else none
  let entry (x : Nat × Nat) : Option Word :=
    if modeOf j.modes x.2 ≠ m.lp then some (speEngine 3 x.2 j.descOff) else bad x.2 (j.hurt.contains x.1) (tgetD j.got x.1 0)
  let weight (n : Nat) : Option Word := let w := s.speWeight fold n; bad n w.2 w.1
  let add (k : Nat) : Option Word :=
    let n := spDeriv d (spLeafEntry d k)
    if j.fn = 4 ∧ !spOne d k ∧ !spSkipd d k ∧ modeOf j.modes n ≠ m.lp then some (speEngine 3 n j.descOff) else none
  (((evalReads j.fn d).findSome? entry).or ((spWeights d).findSome? weight)).or ((spLeaves d).findSome? add)

/-- SPE_TREE_ENTRY (11 R356): an instruction whose reads are done enters a tree, of which eight each take one in a cycle; its modes are sampled, its
operands checked, and its values worked out. -/
def speTreeEntry (fold name : Nat) (s : State) : State :=
  match s.speJob fold name with
  | none => s
  | some j0 =>
    if j0.phase ≠ 2 ∨ s.cycle < j0.begin_ then s
    else
      let x := s.spe fold
      let used := if x.enteredAt = s.cycle then x.entered else 0
      let before := ((s.speOrder fold s.cycle).filter (fun j => j.phase == 2 && decide (j.begin_ ≤ s.cycle))).takeWhile (fun j => j.name != name)
      if 8 ≤ used + before.length then s
      else
        let j := { j0 with modes := x.modes }
        let s1 := s.modSpe fold (fun e => { e with enteredAt := s.cycle, entered := used + 1 })
        match s1.speFault fold j with
        | some v => s1.speFail fold j v
        | none =>
          let d := j.desc
          let m : SpeMode := ⟨modeOf j.modes (spRoot d), j.ftz, j.daz⟩
          let leaf (k : Nat) : Word := tgetD j.got k 0
          let wt (n : Nat) : Word := (s1.speWeight fold n).1
          let v := spVal m d leaf wt 5 1
          if j.fn = 3 then s1.modJob fold name (fun _ => { j with
            phase := 3, begin_ := s.cycle + 9, out := [(spRoot d, v.w)], result := v.w, flags := v.flags, bits := v.bits })
          else
            let gs := spDown m d leaf wt 5 1 ⟨m.operand (leaf 16), 0, 0⟩
            let adds := gs.filter (fun g => !spOne d g.1 && !spSkipd d g.1)
            s1.modJob fold name (fun _ => { j with
              phase := 3, begin_ := s.cycle + 14, out := adds.map (fun g => (spDeriv d (spLeafEntry d g.1), g.2.w)), result := v.w,
              flags := gs.foldl (fun x g => x ||| g.2.flags) v.flags, bits := gs.foldl (fun x g => x ||| g.2.bits) v.bits })

/-- SPE_RETIRE (11 R352, R354): the registers return to the process, and the instruction retires. -/
def speRetire (fold name : Nat) (s : State) : State :=
  match s.speJob fold name with
  | none => s
  | some j =>
    if j.phase ≠ 5 ∨ s.cycle < j.begin_ then s
    else
      (s.dropJob fold name).modNamed name (fun k p t =>
        match p.hold with
        | some h =>
          ((t.putProc k ({ p with wait := .none }.raiseFlags j.flags)).retire k h.consume
            (match h.dst with | some d => [(d, j.result)] | none => [])).endEngine k
        | none => t)

/-- Whether an instruction of a killed process has made an access and completes its writes (11 R353). -/
def State.speHeld (s : State) (p : Proc) : Bool := ((s.speJob (foldOf p.core) p.name).map SpeJob.touched).getD false

/-! ### Issue (11 R346, R347, R357) -/

/-- The registers of a process are handed to the engine (11 R352): its earlier stores are performed first (11 R348). -/
def State.handOver (s : State) (k : Nat) (p : Proc) (c : BitVec 16) (dst : Option Reg) (j : SpeJob) : State :=
  ((s.releaseStores k).modProc k (fun q => { q with
    wait := .engine, hold := some { consume := c, dst := dst, issuedAt := s.cycle, arg2 := speMark } })).modSpe (foldOf p.core)
      (fun x => { x with jobs := x.jobs ++ [{ j with name := p.name, core := p.core, begin_ := s.cycle + 1 }] })

/-- An instruction of major 0x36 reads its operands, unless its fold's engine is fenced off. -/
def State.speIssue (s : State) (k : Nat) (p : Proc) (fs : List Field) (dst : List Reg) (go : List Word → BitVec 16 → State) : State :=
  if (s.fold (foldOf p.core)).fenced then s.raiseWord k causeNoUnit else s.issue k p fs dst go

/-- An entry word, its range within the scratch (11 R347). -/
def entryWordOk (w : Word) : Bool :=
  w.extractLsb' 41 23 == 0 && w.extractLsb' 13 19 == 0 && decide (w.toNat % 2 ^ 13 + w.toNat / 2 ^ 32 % 2 ^ 9 ≤ 8191)
def weightWordOk (w : Word) : Bool :=
  w.extractLsb' 44 20 == 0 && w.extractLsb' 12 20 == 0 && decide (w.toNat % 2 ^ 12 + w.toNat / 2 ^ 32 % 2 ^ 12 ≤ 4095)

/-- The checks of a scratchpad offset for a count of words (11 R347). -/
def State.scratchCheck (s : State) (k : Nat) (p : Proc) (v : Word) (count : Nat) (go : State) : State :=
  if v.extractLsb' 24 40 ≠ 0 then s.illegal k
  else if v.toNat % 8 ≠ 0 then s.raise k causeMisalign v
  else if scratchSize p.core < v.toNat + 8 * count then s.raise k causeLoadFault v
  else go

/-- A move between the scratchpad and entries or weights. -/
def State.speMove (s : State) (k : Nat) (p : Proc) (fn : Nat) (a b : Src) : State :=
  s.speIssue k p [srcField a 0, srcField b 1] [] (fun vals c =>
    let w := vals.getD 0 0
    let v := vals.getD 1 0
    let j : SpeJob := { name := 0, core := 0, fn := fn, begin_ := 0, opA := w, opB := v }
    if !(if fn = 2 then weightWordOk w else entryWordOk w) then s.illegal k
    else s.scratchCheck k p v j.count (s.handOver k p c none j))

def execSpld (a b : Src) (s : State) := onCur s (fun k p => s.speMove k p 0 a b)
def execSpst (a b : Src) (s : State) := onCur s (fun k p => s.speMove k p 1 a b)
def execSpw (a b : Src) (s : State) := onCur s (fun k p => s.speMove k p 2 a b)

/-- SPLD.Z (11 R348). -/
def execSpldZ (a : Src) (s : State) :=
  onCur s (fun k p => s.speIssue k p [srcField a 0] [] (fun vals c =>
    let w := vals.getD 0 0
    if !entryWordOk w then s.illegal k
    else s.handOver k p c none { name := 0, core := 0, fn := 0, zero := true, begin_ := 0, opA := w }))

/-- SPU and SPD (11 R344, R345). -/
def State.speEval (s : State) (k : Nat) (p : Proc) (fn : Nat) (d : Reg) (a : Src) (ftz daz : Bool) : State :=
  s.speIssue k p [srcField a 0] [d] (fun vals c =>
    let v := vals.getD 0 0
    if v.extractLsb' 24 40 ≠ 0 then s.illegal k
    else if v.toNat % 64 ≠ 0 then s.raise k causeMisalign v
    else if 0x1FFFFF < v.toNat + 63 then s.raise k causeLoadFault v
    else s.handOver k p c (some d) { name := 0, core := 0, fn := fn, begin_ := 0, opA := v, ftz := ftz, daz := daz })

def execSpu (d : Reg) (a : Src) (z y : BitVec 1) (s : State) := onCur s (fun k p => s.speEval k p 3 d a (z = 1) (y = 1))
def execSpd (d : Reg) (a : Src) (z y : BitVec 1) (s : State) := onCur s (fun k p => s.speEval k p 4 d a (z = 1) (y = 1))

/-- SPMODE (11 R349). -/
def execSpmode (d : Reg) (a b : Src) (s : State) :=
  onCur s (fun k p => s.speIssue k p [srcField a 0, srcField b 1] [d] (fun vals c =>
    let v := vals.getD 0 0
    let w := vals.getD 1 0
    if v.extractLsb' 16 48 ≠ 0 ∨ w.extractLsb' 16 48 ≠ 0 then s.illegal k
    else s.handOver k p c (some d) { name := 0, core := 0, fn := 5, begin_ := 0, opA := v, opB := w }))

/-- SPCVT (11 R350). -/
def execSpcvt (a b : Src) (z y : BitVec 1) (s : State) :=
  onCur s (fun k p => s.speIssue k p [srcField a 0, srcField b 1] [] (fun vals c =>
    let v := vals.getD 0 0
    let w := vals.getD 1 0
    if !entryWordOk v || w.extractLsb' 13 51 != 0 || decide (8191 < w.toNat + v.toNat / 2 ^ 32 % 2 ^ 9) then s.illegal k
    else s.handOver k p c none { name := 0, core := 0, fn := 6, begin_ := 0, opA := v, opB := w, ftz := z = 1, daz := y = 1 }))

/-- SPSTAT (11 R351). -/
def execSpstat (d : Reg) (c : BitVec 1) (s : State) :=
  onCur s (fun k p => s.speIssue k p [] [d] (fun _ m =>
    s.handOver k p m (some d) { name := 0, core := 0, fn := 7, zero := c = 1, begin_ := 0 }))

end Sys2Proof.Machine
end

