-- ==== Sys2Proof/Machine/Release.lean ====
section
/-! DEFINITION. What becomes of a process's engine work and resources when it ends, is killed or moves (06 R160, R162, R166; 07 R222, R223;
09 R304, R308; 10 R323, R332; 11 R353; 12 R383, R387). -/

namespace Sys2Proof.Machine

/-! ### Work outstanding -/

/-- Whether an event in flight is a store that an engine makes for a process: a copy, a remote drain, a drover request (06 R160). -/
def engineEvent (name : Nat) (e : Ev) : Bool :=
  match e with
  | .transferComplete x => x.owner == name && (match x.job with | .copy _ _ _ _ _ => true | .drain _ _ _ _ _ _ _ _ => true | _ => false)
  | .droverRequest _ r => r.name == name
  | _ => false

/-- Whether an engine still has stores to make for a process, or a move of an end that it began is under way (06 R160; 07 R192; 12 R383, R387). -/
def State.engineBusy (s : State) (p : Proc) : Bool :=
  s.agenda.any (fun e => engineEvent p.name e.2) ||
  s.drovers.any (fun d => d.2.held.any (fun r => r.req.name == p.name) || d.2.waiting.any (fun r => r.name == p.name)) ||
  (List.range 32).any (fun n => let y := s.tileAt p.core n
    y.owner == p.name && (match y.job with | some (wr, _, _, _, _) => wr | none => false)) ||
  (List.range 2).any (fun k => ((s.bankAt p.core k).drain.map Drain.name) == some p.name) ||
  s.permxs.any (fun x => x.2.owner == p.name && !x.2.done) || ((s.bundle p.name).map (fun b => decide (b.phase ≠ 0))).getD false ||
  s.bindsOut p || s.speHeld p

/-- Whether a killed process must wait before it is freed: for the writes of an SPE instruction that has begun (11 R353), and for moves of ends
that it began (07 R192). -/
def State.killWaits (s : State) (p : Proc) : Bool := s.bindsOut p || s.speHeld p

/-- Whether a move of a process waits for its tile transfers and drains (09 R304). -/
def State.tilesBusy (s : State) (p : Proc) : Bool :=
  (List.range 32).any (fun n => let y := s.tileAt p.core n
    y.owner == p.name && (y.st == .filling || y.st == .draining)) ||
  (List.range 2).any (fun k => ((s.bankAt p.core k).drain.map Drain.name) == some p.name) ||
  s.agenda.any (fun e => match e.2 with
    | .transferComplete x => x.owner == p.name && (match x.job with | .drain _ _ _ _ _ _ _ _ => true | _ => false)
    | _ => false)

/-! ### Freeing -/

/-- The transfers of a process that is gone are cancelled (06 R162, 09 R304): what they leave within their targets is open (log 7). -/
def State.cancelTransfers (s : State) (p : Proc) : State :=
  let mine (e : Nat × Ev) : Bool := match e.2 with | .transferComplete x => x.owner == p.name | _ => false
  let t := { s with agenda := s.agenda.filter (fun e => !mine e) }
  let u := (s.agenda.filter mine).foldl (fun v e =>
    match e.2 with
    | .transferComplete x =>
      (match x.job with
       | .copy ws asid root level gid => v.cancelCopy ⟨x.core, gid, level, asid, root⟩ x.owner ws
       | .drain rows _ target off step _ gid level =>
         let all := (List.range rows.length).flatMap (fun i =>
           pieces (windowBase target + off + i * step) (rows.getD i []).length (rows.getD i []).length)
         let bytes := rows.flatten
         { v.putParts x.core x.owner gid level all (v.mixture (v.partBytes all) bytes) with free := v.free + bytes.length }
       | _ => v)
    | _ => v) t
  u.cancelPermx p.name

/-- The tiles of a process become EMPTY, and a transfer under way is broken off (06 R160; 09 R304, R308). -/
def State.freeTiles (s : State) (p : Proc) : State :=
  (List.range 32).foldl (fun t n =>
    let y := t.tileAt p.core n
    if y.owner = p.name then
      (if y.job.isSome then t.breakTransfer p.core n else t).modTileAt p.core n (fun _ => { gen := y.gen })
    else t) s

/-- The banks of a process are released, with the drains under way cancelled (09 R281, R304): a drain's tile is left a mixture. -/
def State.freeBanks (s : State) (p : Proc) : State :=
  (List.range 2).foldl (fun t k =>
    let b := t.bankAt p.core k
    let u := match b.drain with
      | some x =>
        if x.name = p.name && x.remote.isNone then
          let old := t.tileStream p.core x.tile
          let new := (t.drained p.core k x).1.flatMap (rowBytes (layFormat x.layout))
          { t.putStream p.core x.tile (t.mixture old new) with free := t.free + old.length }
        else t
      | none => t
    u.modBank p.core k (fun c => { c with
      owner := if c.owner = p.name then 0 else c.owner,
      drain := if (c.drain.map Drain.name) == some p.name then none else c.drain })) s

/-- The tile side stops for a process, its commands at other cores and those that wait to run for it are discarded (09 R300, R304), and a gang's product ends for the members that are left
(09 R293, R304). -/
def State.freeRuns (s : State) (p : Proc) : State :=
  let stop (c : CoreS) : CoreS := { c with
    run := match c.run with | some r => if r.name = p.name then none else some r | none => none,
    commands := c.commands.filter (fun m => m.sender != p.name && m.owner != p.name) }
  let t := { s with cores := s.cores.map (fun e => (e.1, stop e.2)) }
  if p.gang.isNone then t
  else
    (t.gangOrdinals p.gid p.name).foldl (fun u o => u.gangFail p.gid o 1) t

/-- The tape of a process is closed (10 R323, R332): a record under way is finished first. -/
def State.freeTape (s : State) (k : Nat) (p : Proc) : State :=
  let fold := foldOf p.core
  let t := match s.tapeOf p with
    | some x => if x.st == TapeSt.reversing && x.under && x.atGang.isNone && p.wait == Wait.engine then s.endRecord k p x else s
    | none => s
  (t.closeTape fold p.name).leaveTape fold p.name

/-- An SPE instruction of a process that has made no access is discarded (11 R353). -/
def State.freeSpe (s : State) (p : Proc) : State :=
  match s.speJob (foldOf p.core) p.name with
  | some j => if j.touched then s else s.dropJob (foldOf p.core) p.name
  | none => s

/-- The engines forget a process that ends (06 R160, R162). -/
def State.freeEngines (s : State) (k : Nat) (p : Proc) : State :=
  let t := ((((((s.freeTape k p).cancelTransfers p).freeRuns p).freeBanks p).freeTiles p).freeSpe p).discardBundle p.name
  let u := t.deleteEnds p
  ((u.cores.filter (fun e => !e.2.commands.isEmpty)).map Prod.fst).foldl (fun v c => v.runCommands c 8) u

/-! ### Moving -/

/-- Whether the numbers of a process's tiles are free at a core (06 R166). -/
def State.tilesFit (s : State) (p : Proc) (core : Nat) : Bool :=
  (List.range 32).all (fun n => (s.tileAt p.core n).owner != p.name || (s.tileAt core n).owner == 0)

/-- Whether a core can take the ends and tiles of a process (06 R166), and its tape, which stays in its fold (10 R332). -/
def State.canAdopt (s : State) (p : Proc) (core : Nat) : Bool :=
  (p.town == 0 || hasVtu core) && s.tilesFit p core && (s.moveEnds p core).isSome &&
  (decide (p.tapesOpen = 0) || decide (foldOf p.core = foldOf core))

/-- The tile-table entries of a process go to another core under the same numbers; its banks are released (06 R166, 09 R281). -/
def State.moveTiles (s : State) (p : Proc) (core : Nat) : State :=
  ((List.range 32).foldl (fun t n =>
    let y := t.tileAt p.core n
    if y.owner = p.name then (t.modTileAt core n (fun _ => y)).modTileAt p.core n (fun _ => { gen := y.gen }) else t) s).freeBanks p

/-- Reports queued for a supervisor that moves are forwarded to its new core (08 R253). -/
def State.moveReports (s : State) (p : Proc) (core : Nat) : State :=
  let gidOf (r : List Word) : Nat := (r.getD 0 0).toNat / 2 ^ 48
  let mine (r : List Word) : Bool := ((s.group? (gidOf r)).map Group.supervisor) == some p.name
  let rs := (s.core p.core).reports.filter mine
  let t := s.modCore p.core (fun c => { c with reports := c.reports.filter (fun r => !mine r) })
  t.modCore core (fun c => { c with
    reports := (c.reports ++ rs).take 8, drops := min (c.drops + (c.reports.length + rs.length - 8)) 65535 })

/-- The ends and tiles of a process move with it (06 R166, 07 R223). -/
def State.adopt (s : State) (p : Proc) (core : Nat) : State :=
  ((((s.moveEnds p core).getD s).moveTiles p core).moveReports p core)

/-! ### Stillness (06 R165) -/

/-- The core that holds a live process of a name. -/
def State.coreOf (s : State) (name : Nat) : List Nat := ((s.named name).map (fun x => x.2.core)).toList

/-- The ways, as core left and core reached, of what an event in flight carries through routers, streamers and ring queues (06 R165). What is held at
its sender towards a quiet region is on no way. -/
def State.eventWays (s : State) (e : Ev) : List (Nat × Nat) :=
  let from1 (d : EndLoc) : List (Nat × Nat) := [(((s.endAt d).map (fun x => x.2.peer.core)).getD d.core, d.core)]
  let target (a : Nat) : Nat := match placeOf a with
    | .hbm die n => 8 * droverFold die n
    | .core c _ => c
    | .sram f _ => 8 * f
    | .spe f _ => 8 * f
    | .nowhere => 0
  let way (a b : List Nat) : List (Nat × Nat) := a.flatMap (fun x => b.map (fun y => (x, y)))
  match e with
  | .offerArrival d m | .messageEnqueue d m => [(m.src.core, d.core)]
  | .sendAck m d => [(d.core, m.src.core)]
  | .creditReturn d | .wakeup d | .peerDeleted d | .receiveAnnounce d => from1 d
  | .transferDataWritten x => [(x.msg.src.core, x.core)]
  | .transferComplete x => [(x.core, x.core)]
  | .mcastDelivery k m => [(m.src.core, k / 512)]
  | .locationUpdate k d => [(d.core, k / 512)]
  | .endpointInstall v => [(v.key / 512, v.core)]
  | .chbindAck v _ => [(v.core, v.key / 512)]
  | .droverRequest n r => [(r.core, 8 * droverFold (n / 64) (n % 64))]
  | .remoteAccessArrival x | .amoAtHome x => [(x.core, target x.addr)]
  | .storeAck c _ | .storeNak c _ _ => [(c, c)]
  | .bldAtHome r => [(r.core, target r.pa)]
  | .xwrDelivery x => way (s.coreOf x.sender) [x.core]
  | .fill d _ => (s.coreOf d.name).map (fun c => (c, c))
  | .barrierArrival g n => way (s.coreOf n) (((s.group? g).map Group.home).toList)
  | .start m => if s.isQuiet m.core then [] else [(m.from0, m.core)]
  | .startAnswer m _ => [(m.core, m.from0)]
  | .migrationArrival m => if s.isQuiet m.target then [] else [(m.from0, m.target)]
  | .migrationAnswer m _ => [(m.target, m.from0)]
  | .tileTransferComplete c _ => [(c, c)]
  | .tileCommandArrival c => way (s.coreOf c.sender) [c.core]
  | .tileCommandAnswer c _ => way [c.core] (s.coreOf c.sender)
  | _ => []

/-- Whether messages of some folds are under way, or cross their routers (06 R165). -/
def State.trafficIn (s : State) (fs : List Nat) : Bool :=
  s.agenda.any (fun e => (s.eventWays e.2).any (fun w => (s.wayFolds w.1 w.2).any fs.contains))

end Sys2Proof.Machine
end

