-- ==== Sys2Proof/Machine/Pens.lean ====
section
/-! DEFINITION. Pens and the filling of slots (06 R143 to R150, R163, R166; 05 R135, R137). -/

namespace Sys2Proof.Machine

/-- The fields of PENW (06 Table 6.5): weight of a pen and QUANT. -/
def penWeight (w : Word) (n : Nat) : Nat := (w.extractLsb' (8 * n) 8).toNat
def penQuant (w : Word) : Nat := (w.extractLsb' 32 8).toNat

/-- The fields of URGB (06 Table 6.6): the window in cycles and the budget. -/
def urgWindow (w : Word) : Nat := (w.extractLsb' 16 16).toNat * 64
def urgBudget (w : Word) : Nat := (w.extractLsb' 0 16).toNat

/-- The processes that live on a core. -/
def State.onCore (s : State) (core : Nat) : List (Nat × Proc) := s.procs.filter (fun e => e.1 / 256 == core)

/-- The first of `n` free physical vector registers in a row, first-fit among 64 (06 R144). -/
def State.vectorRun (s : State) (core n : Nat) : Option Nat :=
  let held := (s.onCore core).filterMap (fun e => if e.2.vheld && decide (e.2.vcount ≠ 0) then some (e.2.vbase, e.2.vcount) else none)
  (List.range (65 - n)).find? (fun b => held.all (fun h => decide (b + n ≤ h.1) || decide (h.1 + h.2 ≤ b)))

/-- Whether the head of a pen fits (06 R143, R144): it is out of its slot, has a vector run, and a free slot for a borrowed set. -/
def State.fits (s : State) (core : Nat) (p : Proc) : Bool :=
  !s.inSlot p &&
  (p.vheld || decide (p.vcount = 0) || (s.vectorRun core p.vcount).isSome) &&
  (p.borrow.isNone || (s.freeSlot core).isSome)

/-- The free slot that the head of a pen takes (06 R147): behind the one that its borrowed set takes first (R143; log 48). -/
def State.slotFor (s : State) (core : Nat) (p : Proc) : Option Nat :=
  ((List.range 8).filter (fun i => (s.slot (core * 8 + i)).occ.isNone && (s.slot (core * 8 + i)).lent.isNone))[bitOf p.borrow.isSome]?

/-- A process leaves its slot (06 R147): its registers are written back, XWRs that waited there are refused (05 R107), a
borrowed set goes to the extension (06 R143), and the slot is busy for 4 cycles. -/
def State.swapOut (s : State) (k : Nat) : State :=
  match s.proc k with
  | none => s
  | some p =>
    if !s.inSlot p then s
    else
      let t := (s.modSlot p.slotKey (fun x => { x with occ := none, busy := s.cycle + 4 })).putProc k
        { p with image := [], vcheck := p.vact, expired := false, urgent := false,
                 borrow := p.borrow.map (fun b => { b with slot := none }) }
      let u := match p.borrow.bind Borrow.slot with
        | some i => t.modSlot (p.core * 8 + i) (fun x => { x with lent := none })
        | none => t
      u.refuseWaiting p.core p.slot

/-- A READY process takes a slot (06 R147): it leaves its pen, is RESIDENT after 4 cycles and issues 2 later, gets its vector run the
first time (R144), and the slot for its borrowed set (R143). -/
def State.swapIn (s : State) (k i : Nat) : State :=
  match s.proc k with
  | none => s
  | some p =>
    let t := s.outOfPens p
    let sl := t.slot (p.core * 8 + i)
    let start := if sl.busy < s.cycle then s.cycle else sl.busy
    let t1 := t.putSlot (p.core * 8 + i) { sl with occ := some p.idx, next := start + 6, busy := start + 4 }
    let fresh := !p.vheld && decide (p.vcount ≠ 0)
    let q := { p with
      st := .resident, slot := i, residence := start + 4, expired := false, image := slotWords p,
      vheld := p.vheld || fresh,
      vbase := if fresh then (s.vectorRun p.core p.vcount).getD 0 else p.vbase,
      masks := if fresh then Vector.replicate 8 0 else p.masks }
    match p.borrow with
    | some b =>
      match t1.freeSlot p.core with
      | some j => (t1.modSlot (p.core * 8 + j) (fun x => { x with lent := some p.idx })).putProc k
          { q with borrow := some { b with slot := some j } }
      | none => t1.putProc k q
    | none => t1.putProc k q

/-- The head of a pen, with its key. -/
def State.penHead (s : State) (core n : Nat) : Option (Nat × Proc) :=
  match (s.core core).pens.toList.getD n [] with
  | i :: _ => (s.proc (core * 256 + i)).map (fun p => (core * 256 + i, p))
  | [] => none

/-- The light residents of a core that issue, with key and slot. -/
def State.lightResidents (s : State) (core : Nat) : List (Nat × Proc) :=
  (s.onCore core).filter (fun e => s.inSlot e.2 && !e.2.heavy && e.2.st == .resident && e.2.wait == .none)

/-- Whether a light resident counts as expired: its quantum is over, or it is urgent and the budget is spent (06 R147, R149). -/
def State.isExpired (s : State) (p : Proc) : Bool :=
  p.expired || (p.urgent && decide ((s.core p.core).budget = 0))

/-- Of some residents the one of lowest priority, and of those the longest resident (06 R147). DESIGN CHOICE (log 52): of several that are equal in
both, the one with the lowest record number. -/
def evictee (l : List (Nat × Proc)) : Option (Nat × Proc) :=
  leastBy (fun e => e.2.residence) (l.filter (fun e => l.all (fun f => decide (f.2.prio ≤ e.2.prio))))

/-- A light resident is evicted: READY at the tail of its pen, and out of its slot (06 R147). -/
def State.evict (s : State) (e : Nat × Proc) : State :=
  (((s.modProc e.1 (fun p => { p with st := .ready })).toPen e.2)).swapOut e.1

/-- Fills slots from a pen while it has credit (06 R147): a free slot, else that of an expired light resident of a priority not above
the pen's. -/
def State.fillPen (s : State) (core n : Nat) : Nat → State
  | 0 => s
  | fuel + 1 =>
    match s.penHead core n with
    | none => s
    | some (k, p) =>
      if (s.core core).credits.toList.getD n 0 = 0 || !s.fits core p then s
      else
        let spend (t : State) : State :=
          t.modCore core (fun c => { c with credits := c.credits.set! n (c.credits.toList.getD n 0 - 1) })
        match s.slotFor core p with
        | some i => ((spend s).swapIn k i).fillPen core n fuel
        | none =>
          match evictee ((s.lightResidents core).filter (fun e => s.isExpired e.2 && decide (n ≤ e.2.prio))) with
          | some e => ((spend (s.evict e)).swapIn k e.2.slot).fillPen core n fuel
          | none => s

/-- UrgentFill (06 R149): pen 0 beyond its credit, into free slots or those of light residents at priority 1 to 3. -/
def State.urgentFill (s : State) (core : Nat) : Nat → State
  | 0 => s
  | fuel + 1 =>
    match s.penHead core 0 with
    | none => s
    | some (k, p) =>
      if (s.core core).budget = 0 || !s.fits core p then s
      else
        let place (t : State) (i : Nat) : State := (t.swapIn k i).modProc k (fun q => { q with urgent := true })
        match s.slotFor core p with
        | some i => (place s i).urgentFill core fuel
        | none =>
          match evictee ((s.lightResidents core).filter (fun e => decide (1 ≤ e.2.prio))) with
          | some e => (place (s.evict e) e.2.slot).urgentFill core fuel
          | none => s

/-- The credits at a boundary (06 R147): new ones in proportion to the weights when every waiting pen has none, and none for a pen
that does not wait. -/
def newCredits (c : CoreS) : Vector Nat 4 :=
  let waits := (List.range 4).filter (fun n => !(c.pens.toList.getD n []).isEmpty)
  let total := (waits.map (penWeight c.penw)).foldl (fun x y => x + y) 0
  let fresh := waits.all (fun n => decide (c.credits.toList.getD n 0 = 0))
  Vector.ofFn (fun n : Fin 4 =>
    if waits.contains n.val then
      (if fresh then (8 * penWeight c.penw n.val + total - 1) / total else c.credits.get n)
    else 0)

/-- The slots of a core are filled by credit and then by UrgentFill (06 R147, R149). -/
def State.fillSlots (s : State) (core : Nat) : State :=
  let t := s.modCore core (fun c => { c with credits := newCredits c })
  ((List.range 4).foldl (fun u n => u.fillPen core n 8) t).urgentFill core 8

/-- Whether a pending fill is that of the channel instruction that a process waits in, not matched yet: it goes or stays with the wait (06 R146, 07
R223; log 51). -/
def Proc.awaitsHere (p : Proc) (n : Nat) : Bool :=
  match p.wait, p.hold with
  | .chan _, some h => (h.dst.map BitVec.toNat) == some n && h.arg2 != 1 && ((h.old.map RegCell.pend) == some false)
  | _, _ => false

/-- Whether the shepherd may move a process's context (04 R87, 05 R135): no store in the buffer, no fill pending, no future read,
load or engine instruction that awaits its answer. -/
def State.movable (s : State) (p : Proc) : Bool :=
  !s.hasStores p && (List.range 16).all (fun n => !(p.cell (BitVec.ofNat 4 n)).pend || p.awaitsHere n) && !p.stopped &&
  (match p.wait with
   | .frd => false
   | .access => false
   | .engine => false
   | .xlat => false
   | _ => true)

/-- The state to which RESM returns a process that is suspended now (06 R146). -/
def keptState (p : Proc) : PState :=
  match p.st with
  | .blocked => .blocked
  | .sleeping => .sleeping
  | .parked => (match p.wait with
    | .chan _ => if p.heavy then .ready else .blocked
    | .alt => if p.heavy then .ready else .blocked
    | _ => .ready)
  | _ => .ready

/-- Whether the shepherd may move a process to another core (06 R166, 07 R223, 08 R240, 09 R304): besides, no message of its waiting instruction is
on its way to its end, no item on its way to its WFW, and no tile of it is in transfer. -/
def State.movableTo (s : State) (p : Proc) : Bool :=
  s.movable p && !s.opInFlight p && !s.tilesBusy p &&
  !(s.agenda.any (fun e => match e.2 with | .wfwServe n _ _ _ => n == p.name | _ => false))

/-- The registration of a WFW that waits is withdrawn (08 R240). -/
def State.withdrawWfw (s : State) (p : Proc) : State :=
  { s with
    agenda := s.agenda.filter (fun e => match e.2 with | .dispenserQuery _ (.wfw n _) => n != p.name | _ => true)
    disps := s.disps.map (fun d => (d.1, { d.2 with
      queue := d.2.queue.filter (fun y => match y.2.2 with | .wfw n _ => n != p.name | _ => true) })) }

/-- A process stops for SUSP or QUIESCE (06 R146, R163): a wait that RESM restores is kept, any other is tried again. -/
def State.takeSuspend (s : State) (k : Nat) (p : Proc) : State :=
  let prev := keptState p
  let keep := prev == .blocked || prev == .sleeping
  let t := if p.st == .ready then s.outOfPens p else s
  let t := if keep then t else t.withdrawWait p
  p.suspend.foldl (fun u d => u.after 1 (.fill d 0)) ((t.putProc k
    { (if keep then p else { p.dropHold with wait := .none }) with
      st := .suspended, prev := prev, latch := false, suspend := [] }).swapOut k)

/-- A suspension or migration that can no longer be taken, since the process is trapped: code 0x08 (06 R163, R166; 04 R87). -/
def State.dropRequests (s : State) (k : Nat) (p : Proc) : State :=
  let f (t : State) (d : FillTo) : State := t.after 1 (.fill d (failWord 8))
  let t := p.suspend.foldl f (s.modProc k (fun q => { q with suspend := [], migrate := none, quiesced := none }))
  match p.migrate with
  | some m => f t m.dest
  | none => t

/-- A process sets out for another core (06 R166): MIGRATING, out of its slot, its context on the way. -/
def State.takeMigrate (s : State) (k : Nat) (p : Proc) (m : Mig) : State :=
  let mprev := if p.st == .suspended then PState.suspended else keptState p
  let keep := mprev == .blocked || mprev == .sleeping || mprev == .suspended
  let t := if p.st == .ready then s.outOfPens p else s
  let t := ((t.withdrawWait p).withdrawWfw p).rebindEnds p
  let q := if keep then (match p.wait with | .chan _ => p.dropHold | _ => p) else { p.dropHold with wait := .none }
  (((t.putProc k { q with
    st := .migrating, mprev := mprev, migrate := none, latch := p.latch && p.st == .suspended }).swapOut k).modLtab p
      (fun e => { e with sent := e.sent + 1 })).after (s.oneway p.core m.target) (.migrationArrival m)

/-- Whether a resident process has stayed through a number of rotation boundaries and is not marked expired yet (06 R147). -/
def Proc.staysFor (p : Proc) (now quant : Nat) : Bool :=
  (p.st == .resident || !p.wait.leaves) && !p.expired && decide (p.residence / 8 + quant ≤ now / 8)

/-- What becomes of one process of a core when its boundary comes (06 R147, R163, R166, R205). -/
def State.boundaryStep (s : State) (core : Nat) (e : Nat × Proc) : State :=
  match s.proc e.1 with
  | none => s
  | some p =>
    let s0 := (List.range 4).foldl (fun t q => if (p.ports.toList.getD q {}).held.isEmpty then t else t.flushPort e.1 q 4) s
    let s1 := if p.wait == .boundary then s0.ready e.1 else s0
    match s1.proc e.1 with
    | none => s1
    | some p1 =>
      if p1.st == .trapped then (s1.dropRequests e.1 p1).swapOut e.1
      else if !p1.suspend.isEmpty && s1.movable p1 && p1.st != .suspended && p1.st != .migrating then s1.takeSuspend e.1 p1
      else
        match (if p1.st == .migrating || !s1.movableTo p1 then none else p1.migrate) with
        | some m => if s1.isQuiet m.target then s1 else s1.takeMigrate e.1 p1 m
        | none =>
          if !s1.inSlot p1 then s1
          else if p1.st == .suspended || p1.st == .ready then s1.swapOut e.1
          else if p1.heavy then s1
          else
          match p1.st, p1.wait with
          | .blocked, _ | .sleeping, _ => s1.swapOut e.1
          | .parked, .chan _ | .parked, .alt =>
            if p1.blockedAt + 16 ≤ s1.cycle then (s1.enterBlocked e.1).swapOut e.1 else s1
          | _, _ => if p1.staysFor s1.cycle (penQuant (s1.core core).penw) then s1.after 0 (.quantumExpiry core p1.slot) else s1

/-- Whether an expiry of a core is still to come in this cycle. -/
def State.expiryDue (s : State) (core : Nat) : Bool :=
  s.agenda.any (fun e => decide (e.1 ≤ s.cycle) && (match e.2 with | .quantumExpiry c _ => c == core | _ => false))

/-- ROTATION_BOUNDARY (06 R147): suspensions and migrations that may be taken are taken, leaving processes are swapped out, and
slots are filled from the pens, after the last of the expiries of this boundary; the fold's flag union is taken (05 R137). -/
def rotationBoundary (core : Nat) (s : State) : State :=
  let c := s.core core
  let s1 := if c.windowOn then s
    else (s.putCore core { c with windowOn := true }).atCycle
      ((s.cycle / urgWindow c.urgb + 1) * urgWindow c.urgb) (.urgentWindowEnd core)
  let s2 := (s1.onCore core).foldl (fun t e => t.boundaryStep core e) s1
  let now := s2.flagUnion (foldOf core)
  let s3 := s2.modFold (foldOf core) (fun f => { f with flagNow := now, flagSticky := f.flagSticky ||| now })
  if s3.expiryDue core then s3 else s3.fillSlots core

/-- QUANTUM_EXPIRY (06 R147): the light resident counts as expired; with the last one of a boundary the core's slots are filled. -/
def quantumExpiry (core slot : Nat) (s : State) : State :=
  let t := match s.resident core slot with
    | some (k, p) => if p.heavy then s else s.putProc k { p with expired := true }
    | none => s
  if t.expiryDue core then t else t.fillSlots core

/-- BUDGET_EXHAUSTED (06 R149): the window's budget is spent, and urgent processes count as expired. -/
def budgetExhausted (core : Nat) (s : State) : State := s.modCore core (fun c => { c with budget := 0 })

/-- URGENT_WINDOW_END (06 R149): BUDGET is reloaded, urgent marks are cleared, and the next window begins. -/
def urgentWindowEnd (core : Nat) (s : State) : State :=
  let c := s.core core
  let t := s.putCore core { c with budget := urgBudget c.urgb }
  let u := (t.onCore core).foldl (fun v e => v.modProc e.1 (fun p => { p with urgent := false })) t
  u.after (urgWindow c.urgb) (.urgentWindowEnd core)

end Sys2Proof.Machine
end

