-- ==== Sys2Proof/Machine/Groups.lean ====
section
/-! DEFINITION. Groups: membership, barrier phases (06 R168 to R170), notifications (R164), the end of a process (R160,
R162), and what follows it. -/

namespace Sys2Proof.Machine

/-- Checks for level U first (00 R1): PRIV with the instruction word. -/
def State.needS (s : State) (k : Nat) (p : Proc) (go : State) : State :=
  if p.level = 0 then s.raiseWord k causePriv else go

/-! ### Barriers -/

/-- BARRIER_ARRIVAL (06 R169): the home records a member's arrival, which may complete the phase. -/
def barrierArrival (gid name : Nat) (s : State) : State :=
  match s.group? gid with
  | none => s
  | some g =>
    if g.live.contains name && !g.arrived.contains name then
      ((s.putGroup gid { g with arrived := g.arrived ++ [name] }).modNamed name
        (fun k p t => t.putProc k { p with arriving := none })).checkPhase gid
    else s

/-- A member has arrived in the current phase, or its arrival is on its way (06 R169). -/
def hasArrived (g : Group) (p : Proc) : Bool := g.arrived.contains p.name || p.arriving == some g.phase

/-- The arrival of a member sets out for the home; it is a release (04 Table 4.7). -/
def State.arrive (s : State) (k : Nat) (p : Proc) (g : Group) : State :=
  ((s.releaseStores k).modProc k (fun q => { q with arriving := some g.phase })).after
    (s.oneway p.core g.home) (.barrierArrival p.gid p.name)

/-- GARR (06 R169): a member that has arrived already waits for the phase to complete. -/
def execGarr (d : Reg) (s : State) :=
  onCur s (fun k p => s.issue k p [] [d] (fun _ c =>
    match s.group? p.gid with
    | none => s.retire k c [(d, 0)]
    | some g =>
      if hasArrived g p then s.block k (.barrier g.phase)
      else (s.arrive k p g).retire k c [(d, BitVec.ofNat 64 g.phase)]))

/-- GWAIT (06 R169): returns once phase a has completed. -/
def execGwait (a : Src) (s : State) :=
  onCur s (fun k p => s.issue k p [srcField a 0] [] (fun vals c =>
    match s.group? p.gid with
    | none => s.retire k c []
    | some g => if (vals.getD 0 0).toNat < g.phase then s.retire k c [] else s.block k (.barrier (vals.getD 0 0).toNat)))

/-- GBAR (06 R169): GARR, then GWAIT for its phase. -/
def execGbar (d : Reg) (s : State) :=
  onCur s (fun k p => s.issue k p [] [d] (fun _ c =>
    match s.group? p.gid with
    | none => s.retire k c [(d, 0)]
    | some g =>
      if hasArrived g p then s.block k (.barrier g.phase)
      else
        let t := (s.arrive k p g).block k (.barrier g.phase)
        t.modProc k (fun q => { q with hold := some { consume := c, dst := some d, issuedAt := s.cycle } })))

/-! ### Notifications -/

/-- The name that a notification holds. -/
def noteName (w : Word) : Nat := w.toNat % 2 ^ 40

/-- The bits of a core's done accumulator for a launch (06 R177) with some set. -/
def State.setErr (s : State) (p : Proc) (bits : Word) : State := s.modLtab p (fun e => { e with err := e.err ||| bits })

/-- HOSTTRAP and KILLED of the done word (06 R177). -/
def bitHostTrap : Word := BitVec.ofNat 64 (2 ^ 61)
def bitRefused : Word := BitVec.ofNat 64 (2 ^ 62)
def bitKilled : Word := BitVec.ofNat 64 (2 ^ 63)

/-- A notification goes to the launch's source (01 R18, 06 R164). -/
def State.noteToSource (s : State) (p : Proc) (note : Word) : State :=
  match s.launchOf p with
  | some l => (s.setErr p bitHostTrap).faultReport l 1 note (faultBody p)
  | none => s

/-- The oldest notification that awaits a place in a supervisor's queue is delivered, if it is not on its way (06 R164). -/
def State.nextNote (s : State) (sup way : Nat) : State :=
  match s.heldNotes.find? (fun h => h.1 == sup) with
  | none => s
  | some h =>
    if s.agenda.any (fun e => match e.2 with | .notificationDelivery n => n == noteName h.2 | _ => false) then s
    else s.after way (.notificationDelivery (noteName h.2))

/-- NOTIFICATION_DELIVERY (06 R164): the notification of a trapped process enters its supervisor's queue of 16, behind those of earlier traps; it is
held at its own core while that is full, and goes to the launch's source where no supervisor lives. A TRAPW that waits takes it. -/
def notificationDelivery (name : Nat) (s : State) : State :=
  match s.heldNotes.find? (fun h => noteName h.2 == name) with
  | none => s
  | some (sup, note) =>
    let u := { s with heldNotes := s.heldNotes.erase (sup, note) }
    match s.named sup with
    | none => u.modNamed name (fun _ p t => t.noteToSource p note)
    | some (ks, q) =>
      if s.heldNotes.find? (fun h => h.1 == sup) != some (sup, note) then s
      else
        match q.wait, q.hold with
        | .trapw, some h => (u.complete ks (match h.dst with | some d => [(d, note)] | none => [])).nextNote sup 0
        | _, _ =>
          let l := tgetD u.supq sup []
          if l.length < 16 then { u with supq := tput u.supq sup (l ++ [note]) }.nextNote sup 0 else s

/-- Whether a supervisor has a group with a live member (06 R164). -/
def State.supervisesLive (s : State) (name : Nat) : Bool :=
  s.groups.any (fun e => e.2.supervisor == name && !(e.2.live.isEmpty && e.2.pending == 0))

/-- TRAPW (06 R164): the oldest notification; a held one follows into the freed place. -/
def execTrapw (d : Reg) (w : BitVec 1) (s : State) :=
  onCur s (fun k p => s.needS k p (s.issue k p [] [d] (fun _ c =>
    match tgetD s.supq p.name [] with
    | n :: rest =>
      let t := { s with supq := tput s.supq p.name rest }
      let way := match (s.heldNotes.find? (fun h => h.1 == p.name)).bind (fun h => s.named (noteName h.2)) with
        | some (_, q) => s.oneway q.core p.core
        | none => 1
      (t.nextNote p.name way).retire k c [(d, n)]
    | [] =>
      if w = 1 || !s.supervisesLive p.name then s.retire k c [(d, allOnes)]
      else (s.block k .trapw).modProc k (fun q => { q with hold := some { consume := c, dst := some d, issuedAt := s.cycle } }))))

/-- The TRAPW of a supervisor whose groups have all died returns all ones (06 R164). -/
def State.checkTrapw (s : State) (sup : Nat) : State :=
  s.modNamed sup (fun k p t =>
    match p.wait, p.hold with
    | .trapw, some h =>
      if t.supervisesLive sup then t
      else t.complete k (match h.dst with | some d => [(d, allOnes)] | none => [])
    | _, _ => t)

/-! ### The end of a process -/

/-- A member leaves its group (06 R160, R168, R170): a phase that waited only for it completes; a group without members is
released, unless a KILLG still has to answer. -/
def State.leaveGroup (s : State) (gid name : Nat) : State :=
  match s.group? gid with
  | none => s
  | some g =>
    let g1 := { g with live := g.live.erase name, arrived := g.arrived.erase name }
    let t := s.putGroup gid g1
    if g1.live.isEmpty && decide (g1.pending = 0) then
      match g1.killed, g1.hostKill with
      | none, none => ({ t with groups := tdel t.groups gid }).checkTrapw g1.supervisor
      | _, _ => t.checkTrapw g1.supervisor
    else t.checkPhase gid

/-- The notifications queued for a supervisor that ends go to the source of each trapped process's launch (06 R164). -/
def State.dropSupervisor (s : State) (name : Nat) : State :=
  let notes := tgetD s.supq name [] ++ ((s.heldNotes.filter (fun h => h.1 == name)).map Prod.snd)
  notes.foldl (fun t n => t.modNamed (noteName n) (fun _ q u => u.noteToSource q n))
    { s with supq := tdel s.supq name, heldNotes := s.heldNotes.filter (fun h => h.1 != name) }

/-- Every notification of a process removed (06 R162); what waited for its place is delivered. -/
def State.dropNotes (s : State) (name : Nat) : State :=
  let sups := ((s.supq.filter (fun e => e.2.any (fun w => noteName w == name))).map Prod.fst ++
    (s.heldNotes.filter (fun h => noteName h.2 == name)).map Prod.fst).dedup
  sups.foldl (fun t x => t.nextNote x 1)
    { s with supq := s.supq.map (fun e => (e.1, e.2.filter (fun w => noteName w != name))),
             heldNotes := s.heldNotes.filter (fun h => noteName h.2 != name) }

/-- The place of a node in the done tree: its parent's index (06 R176). -/
def parentNode (i : Nat) : Nat := (i - 1) / 4

/-- A node's children that exist (06 R176). -/
def childNodes (n i : Nat) : List Nat := ((List.range 4).map (fun j => 4 * i + 1 + j)).filter (fun c => c < n)

/-- A core's entry for a launch. -/
def State.ltabOf (s : State) (core l : Nat) : Option LaunchEntry :=
  ((List.range 16).filterMap (fun i => tget s.ltab (core * 16 + i))).find? (fun e => e.launch == l)

/-- The index of a core's entry for a launch. -/
def State.ltabIndex (s : State) (core l : Nat) : Option Nat :=
  (List.range 16).find? (fun i => ((tget s.ltab (core * 16 + i)).map LaunchEntry.launch) == some l)

/-- A core's entry for a launch changed. -/
def State.modLtabOf (s : State) (core l : Nat) (f : LaunchEntry → LaunchEntry) : State :=
  match s.ltabIndex core l, s.ltabOf core l with
  | some i, some e => { s with ltab := tput s.ltab (core * 16 + i) (f e) }
  | _, _ => s

/-- Whether a node may answer the wave that has reached it (06 R177). -/
def State.waveReady (s : State) (l node : Nat) : Bool :=
  match tget s.launches l with
  | none => false
  | some x =>
    x.reached.contains node && !(x.answered.any (fun a => a.1 == node)) &&
    (childNodes x.nodes.length node).all (fun c => x.answered.any (fun a => a.1 == c)) &&
    decide (((s.ltabOf (x.nodes.getD node 0) l).map LaunchEntry.live).getD 0 = 0)

/-- A node whose last process of a launch has gone may answer the wave (06 R177). -/
def State.checkWave (s : State) (p : Proc) : State :=
  match tget s.ltab (p.core * 16 + p.launch) with
  | some e => if s.waveReady e.launch e.node then s.after 1 (.detectionAnswer e.launch e.node) else s
  | none => s

/-- A process is gone (06 R160 step 3, R162, R166): its record is FREE, its slot and its store faults are released, its waits are
forgotten, and its flags stand in FLAGOR (05 R137). -/
def State.removeRecord (s : State) (k : Nat) (p : Proc) : State :=
  let t := (((s.leaveRecord p).outOfPens p).returnSlot k)
  let t1 := if t.inSlot p then (t.modSlot p.slotKey (fun x => { x with occ := none })).refuseWaiting p.core p.slot else t
  let t2 := t1.modCore p.core (fun c => { c with
    sfq := c.sfq.filter (fun r => r.name != p.name),
    sb := c.sb.filter (fun e => !(e.name == p.name && e.stuck.isSome)) })
  let last := s.procs.all (fun e => e.1 == k || foldOf e.2.core != foldOf p.core)
  let t3 := t2.modFold (foldOf p.core) (fun f => { f with
    flagNow := if last then 0 else f.flagNow, flagSticky := f.flagSticky ||| p.fflags, cellWait := f.cellWait.filter (fun w => w.1 != p.name) })
  let t4 := { t3 with procs := tdel t3.procs k, onceDue := t3.onceDue.filter (fun o => o.1 != p.name) }
  ((t4.core p.core).sb.filter (fun e => e.stuck.isSome)).foldl
    (fun w e => w.sfqRecord p.core { e with stuck := none } (e.stuck.getD causeStoreFault)) t4

/-- A process ends (06 R160, R162): requests upon it are answered, its engines' resources are freed, its group and its launch lose
it, and what it supervised goes to the launch's source. -/
def State.freeProc (s : State) (k : Nat) (p : Proc) (fold : LaunchEntry → LaunchEntry) : State :=
  let t := (((s.dropRequests k p).freeEngines k p).removeRecord k p).modLtab p (fun e => { fold e with live := e.live - 1 })
  let t1 := { t with dir := tdel t.dir p.name }
  (((t1.dropNotes p.name).dropSupervisor p.name).leaveGroup p.gid p.name).checkWave p

/-- The least number of a count field (06 R177): saturating at 2^48 - 1. -/
def satCount (n : Nat) : Nat := if n < 2 ^ 48 then n else 2 ^ 48 - 1

/-- What EXIT folds into the done accumulators (06 R160, R177). -/
def foldStatus (a : Word) (e : LaunchEntry) : LaunchEntry :=
  { e with err := e.err ||| (a &&& 0x1FFF000000000000), count := satCount (e.count + a.toNat % 2 ^ 48) }

/-- EXIT (06 R160): the process waits for every store made for it, and then ends. -/
def execExit (a : Src) (s : State) :=
  onCur s (fun k p => s.issue k p [srcField a 0] [] (fun vals c =>
    ((s.block k .exitDrain).modProc k (fun q => { q with
      exiting := some (vals.getD 0 0), hold := some { consume := c, issuedAt := s.cycle } })).after 1 (.exitDrainComplete p.name)))

/-- EXIT_DRAIN_COMPLETE (06 R160): once all stores are complete the status is folded and the resources are freed. A process that was
suspended meanwhile has LATCH set and tries its EXIT again (R146). -/
def exitDrainComplete (name : Nat) (s : State) : State :=
  s.modNamed name (fun k p t =>
    match p.wait, p.exiting with
    | .exitDrain, some a =>
      if t.hasStores p then t
      else if t.engineBusy p then t.after 1 (.exitDrainComplete name)
      else if p.st == .suspended || p.st == .migrating then t.ready k
      else t.freeProc k p (foldStatus a)
    | _, _ => t)

/-- A process of a killed group ends, but for one whose move is under way (06 R162). One that must wait for an engine issues nothing more. -/
def State.killProc (s : State) (k : Nat) (p : Proc) : State :=
  if p.st == .migrating then s
  else if s.killWaits p then
    if p.wait == .engine then s
    else (s.outOfPens p).putProc k { p.dropHold with st := .parked, wait := .engine, suspend := [], migrate := none }
  else
    let t := s.freeProc k p (fun e => { e with err := e.err ||| bitKilled })
    t.modGroup p.gid (fun g => { g with killed := g.killed.map (fun x => (x.1, x.2 + 1)) })

/-- A killed group whose last member is gone is released (06 R162). -/
def State.checkKilled (s : State) (gid core : Nat) : State :=
  match s.group? gid with
  | some g =>
    if g.live.isEmpty && decide (g.pending = 0) && (g.killed.isSome || g.hostKill.isSome)
    then s.after (s.oneway core g.home) (.groupRelease gid) else s
  | none => s

/-- KILL_ARRIVAL (06 R162): a core kills its processes of the group. -/
def killArrival (gid core : Nat) (s : State) : State :=
  let t := (s.onCore core).foldl (fun t e => if e.2.gid = gid then
    (match t.proc e.1 with | some p => t.killProc e.1 p | none => t) else t) s
  let u := if (t.onCore core).any (fun e => e.2.gid == gid && e.2.st != .migrating) then t.after 1 (.killArrival gid core) else t
  u.checkKilled gid core

/-- GROUP_RELEASE (06 R162): the home entry and the GID are released, and KILLG's d or the bothy's answer gets the number of
processes killed. -/
def groupRelease (gid : Nat) (s : State) : State :=
  match s.group? gid with
  | none => s
  | some g =>
    let t := { s with groups := tdel s.groups gid }.checkTrapw g.supervisor
    match (if g.live.isEmpty && decide (g.pending = 0) then g.killed else none) with
    | some (d, n) =>
      let u := match g.hostKill with
        | some q => t.answerKill q n
        | none => t
      let back := match s.named d.name with
        | some (_, p) => s.oneway g.home p.core
        | none => 1
      u.after back (.fill d (BitVec.ofNat 64 n))
    | none => s

/-- A group is to be killed (06 R162): the kill travels from the issuer's core to the home and from there to every core that
holds a member, all of which it reaches in one cycle (log 4). -/
def State.startKill (s : State) (gid : Nat) (g : Group) (first : Nat) (d : FillTo) (q : Option BReq) : State :=
  let t := s.putGroup gid { g with killed := some (d, 0), hostKill := q }
  let cores := ((s.members gid).map (fun e => e.2.core)).dedup
  let far := (cores.map (fun c => s.oneway g.home c)).foldl max 1
  if cores.isEmpty then (if g.pending = 0 then t.after (first + 2 + far) (.groupRelease gid) else t)
  else cores.foldl (fun u c => u.after (first + 2 + far) (.killArrival gid c)) t

/-- KILLG (06 R161, R162). -/
def execKillg (d : Reg) (a : Src) (s : State) :=
  onCur s (fun k p => s.needS k p (s.issueFill k p [srcField a 0] d (fun vals c =>
    let gid := (vals.getD 0 0).toNat
    let t := s.produce k d
    let u := match s.group? gid with
      | none => t.after (2 * s.oneway p.core p.core) (.fill (p.dest d) (failWord 8))
      | some g =>
        let way := s.oneway p.core g.home
        if g.killed.isSome then t.after (2 * way) (.fill (p.dest d) (failWord 8))
        else if p.level ≠ 2 && g.supervisor ≠ p.name then t.after (2 * way) (.fill (p.dest d) (failWord 7))
        else t.startKill gid g way (p.dest d) none
    u.retire k c [])))

end Sys2Proof.Machine
end

