-- ==== Sys2Proof/Machine/Deadlock.lean ====
section
/-! DEFINITION. The deadlock reporter (08 R247 to R254): probes along waits, confirmations, reports, and DLKQ. -/

namespace Sys2Proof.Machine

/-! ### Waits (08 R247, R248) -/

/-- The ends on which a process that is BLOCKED on a channel instruction or an ALT waits: handles, with the kind of wait of Table 8.11. -/
def waitedEnds (p : Proc) (recvOf : Nat → Bool) : List (Nat × Nat) :=
  match p.wait with
  | .chan h => [(h, bitOf (recvOf h))]
  | .alt => (p.alt.map (fun a => a.guards.map (fun g => (g.handle, 2)))).getD []
  | _ => []

/-- Whether an end is a receive end of a process. -/
def State.isRecv (s : State) (p : Proc) (h : Nat) : Bool := ((s.handle p.name h).map (fun e => e.2.recv)).getD false

/-- The waits of a process (08 R247): handles and kinds. -/
def State.waitsOf (s : State) (p : Proc) : List (Nat × Nat) := waitedEnds p (s.isRecv p)

/-- The owner of the peer of an end, if a process holds it (08 R248). -/
def State.peerOwner (s : State) (p : Proc) (h : Nat) : Option Nat :=
  match s.handle p.name h with
  | some (_, e) =>
    if e.server.isSome then none
    else
      match s.endAt e.peer with
      | some (_, x) => if (s.named x.owner).isSome && !(x.st == .dead) then some x.owner else none
      | none => none
  | none => none

/-- Whether the wait of a process carries a deadline (08 R247). -/
def State.timedWait (s : State) (p : Proc) : Bool :=
  match p.wait with
  | .chan h => ((s.handle p.name h).bind (fun e => e.2.rx.bind Rx.timed)).isSome
  | .alt => (p.alt.map (fun a => a.guards.any (fun g => decide (2 ≤ g.kind)))).getD false
  | _ => false

/-- Whether a channel instruction that neither sends nor receives waits for transfers of its own that engines will complete (07 R192, R212): no
peer holds it up. -/
def State.ownTransfer (s : State) (p : Proc) : Bool :=
  match p.wait with
  | .chan h => ((s.handle p.name h).map (fun e =>
      ((p.hold.map Hold.arg2) == some 2 || e.2.waitK == 0) && e.2.ids.any (fun i => !i.2))).getD false
  | _ => false

/-- Whether a process is probed (08 R247): it is BLOCKED on a channel instruction or an ALT without a deadline, on ends that it holds and whose
peers processes hold. One whose message has been matched waits for no process any more (08 R251). -/
def State.isProbed (s : State) (p : Proc) : Bool :=
  p.st == .blocked && !(s.waitsOf p).isEmpty && !s.timedWait p && !s.opInFlight p && !s.ownTransfer p &&
  (s.waitsOf p).all (fun w => (s.peerOwner p w.1).isSome)

/-- Whether a transfer in flight will end a wait to receive: a SENDA, or a COPY with SIGNAL, of the peer end (08 R249). -/
def State.aidComing (s : State) (p : Proc) : Bool :=
  (s.waitsOf p).any (fun w =>
    match s.handle p.name w.1 with
    | some (_, e) =>
      e.recv && (match s.endAt e.peer with
        | some (kp, x) => x.ids.any Prod.snd || s.agenda.any (fun a => match a.2 with
            | .transferComplete t => (match t.job with
                | .copy ws _ _ _ _ => copySignal ws && locKey (s.follow 64 ⟨t.key / 512, t.key % 512, 0⟩) == kp
                | _ => false)
            | _ => false)
        | none => false)
    | none => false)

/-- The edges of a process (08 R248): the member that it is on each, and the name that the edge leads to. -/
def State.edges (s : State) (p : Proc) : List (Member × Nat) :=
  (s.waitsOf p).filterMap (fun w => (s.peerOwner p w.1).map (fun o => (⟨p.name, p.episode, w.1, w.2⟩, o)))

/-- A probe goes along each edge of a process (08 R249). -/
def State.sendProbes (s : State) (p : Proc) (path : List Member) : State :=
  (s.edges p).foldl (fun t x =>
    match t.named x.2 with
    | some (_, q) => t.after (t.oneway p.core q.core) (.probeArrival x.2 (path ++ [x.1]))
    | none => t) s

/-! ### Probes and confirmations -/

/-- PROBE_START (08 R247): a probe for a process that has been BLOCKED for the delay in one episode; another follows a delay later while the
episode lasts and no report has been made in it. While OFF is set, or the delay has been made longer, none starts (R246). -/
def probeStart (name episode : Nat) (s : State) : State :=
  s.modNamed name (fun k p t =>
    let f := t.fold (foldOf p.core)
    if p.episode ≠ episode || p.st ≠ .blocked || p.reported = some episode || f.dlkOff || decide (t.cycle < p.probeFrom + gtcCycle f.dlkDelay) then t
    else (if t.isProbed p then t.sendProbes p [] else t).armProbe k)

/-- Whether a member of a path still stands as it did (08 R250): BLOCKED in the recorded episode, probed, its receive not about to end, its edge
leading to the next member, and every guard of its ALT to some member. -/
def State.memberStands (s : State) (path : List Member) (index : Nat) : Bool :=
  match path[index]?, path[(index + 1) % path.length]? with
  | some m, some n =>
    match s.named m.name with
    | some (_, p) =>
      p.episode == m.episode && s.isProbed p && !s.aidComing p && (s.peerOwner p m.handle == some n.name) &&
      (s.edges p).all (fun x => path.any (fun y => y.name == x.2))
    | none => false
  | _, _ => false

/-- A confirmation goes on to a member of the path, or back to the initiator (08 R250). -/
def State.sendConfirm (s : State) (path : List Member) (core index : Nat) : State :=
  match path[index % path.length]? with
  | some m =>
    match s.named m.name with
    | some (_, q) => s.after (s.oneway core q.core) (.confirmationArrival path index)
    | none => s
  | none => s

/-- PROBE_ARRIVAL (08 R249, R250): back at its initiator a probe is kept if that has the lowest name of the path; at any other process it dies or
goes on along the process's edges. -/
def probeArrival (name : Nat) (path : List Member) (s : State) : State :=
  s.modNamed name (fun _ p t =>
    if (path.head?.map Member.name) == some name then
      (if path.all (fun m => decide (name ≤ m.name)) then t.sendConfirm path p.core 1 else t)
    else if !t.isProbed p || path.any (fun m => m.name == name) || decide (16 ≤ path.length) || t.aidComing p then t
    else t.sendProbes p path)

/-- A deadlock report (08 R252, Table 8.11), with DROPS 0. -/
def deadlockReport (gid time : Nat) (path : List Member) : List Word :=
  let first := (path.head?.map Member.name).getD 0
  let members := path.flatMap (fun m => leBytes 6 (m.name * 256 + m.handle % 64 * 4 + m.kind % 4))
  [BitVec.ofNat 64 (gid * 2 ^ 48 + path.length * 2 ^ 40 + first), BitVec.ofNat 64 time, 0, 0] ++
    leWords 12 (members ++ List.replicate (96 - members.length) 0)

/-- The members a visit checks: at its end the initiator as well (08 R250). -/
def visited (path : List Member) (index : Nat) : Nat := index % path.length

/-- CONFIRMATION_ARRIVAL (08 R250, R252): the member is checked; back at the initiator, which is checked too, the report is made, and no more
probes are sent in this episode. -/
def confirmationArrival (path : List Member) (index : Nat) (s : State) : State :=
  if !s.memberStands path (visited path index) then s
  else
    match path[visited path index]? with
    | none => s
    | some m =>
      s.modNamed m.name (fun k p t =>
        if index < path.length then t.sendConfirm path p.core (index + 1)
        else if p.reported = some p.episode then t
        else
          let u := (t.putProc k { p with reported := some p.episode }).addLife (pkgOf p.core) lifeReports 1
          let way := match u.named (u.supervisorOf p.gid) with
            | some (_, q) => u.oneway p.core q.core
            | none => 1
          u.after way (.reportArrival p.gid (deadlockReport p.gid u.gtc path)))

/-! ### The report queue (08 R253) -/

/-- The initiator's name in a report. -/
def reportInitiator (r : List Word) : Nat := (r.getD 0 0).toNat % 2 ^ 40

/-- REPORT_ARRIVAL (08 R253): the report joins the queue of eight at the supervisor's core, with the losses since the last, and each reporter end of
the supervisor gets a wake-up; a full queue loses it. Without a live supervisor it goes to the launch's source. -/
def reportArrival (gid : Nat) (report : List Word) (s : State) : State :=
  match s.named (s.supervisorOf gid) with
  | some (_, q) =>
    let c := s.core q.core
    if 8 ≤ c.reports.length then s.putCore q.core { c with drops := min (c.drops + 1) 65535 }
    else
      let r := report.set 2 (BitVec.ofNat 64 (c.drops * 2 ^ 48))
      (s.eps.filter (fun e => e.2.owner == q.name && e.2.server == some .reporter && epHeld e.2)).foldl
        (fun t e => t.after 0 (.wakeup (locOf e.1 e.2))) (s.putCore q.core { c with reports := c.reports ++ [r], drops := 0 })
  | none =>
    s.modNamed (reportInitiator report) (fun _ p t =>
      match t.launchOf p with
      | some l => (t.setErr p bitHostTrap).faultReport l 2 0 report
      | none => t)

/-- Whether a process may take a report (08 R254). -/
def State.takesReport (s : State) (p : Proc) (r : List Word) : Bool := p.level == 2 || s.supervises p ((r.getD 0 0).toNat / 2 ^ 48)

/-- DLKQ (08 R254). -/
def execDlkq (d : Reg) (a : Src) (s : State) :=
  onCur s (fun k p => s.issue k p [srcField a 0] [d] (fun vals c =>
    let v := vals.getD 0 0
    if v.toNat / 2 ^ 24 ≠ 0 then s.illegal k
    else if v.toNat % 8 ≠ 0 then s.raise k causeMisalign v
    else if scratchSize p.core < v.toNat + 128 then s.raise k causeLoadFault v
    else
      let rs := (s.core p.core).reports
      match rs.find? (s.takesReport p) with
      | none => s.retire k c [(d, allOnes)]
      | some r =>
        let left := rs.erase r
        let t := (s.writeMem (windowBase p.core + v.toNat) (r.flatMap (fun w => leBytes 8 w.toNat))).modCore p.core (fun x =>
          { x with reports := left })
        t.retire k c [(d, BitVec.ofNat 64 (left.filter (s.takesReport p)).length)]))

end Sys2Proof.Machine
end

