-- ==== Sys2Proof/Machine/Processes.lean ====
section
/-! DEFINITION. The simple process instructions (06 R157), lookups by name (R158), SUSP, RESM and MIGR (R161, R163, R166) and
QUIESCE (R165). -/

namespace Sys2Proof.Machine

/-- YIELD (06 R157): a light process is READY at the tail of its pen, a heavy one pauses until the next boundary. -/
def execYield (s : State) :=
  onCur s (fun k p =>
    let t := s.retire k 0 []
    if p.heavy then t.modSlot p.slotKey (fun x => { x with next := s.nextBoundary })
    else (t.modProc k (fun q => { q with st := .ready })).toPen p)

/-- PRIO (06 R157). -/
def execPrio (d : Reg) (a : Src) (s : State) :=
  onCur s (fun k p => s.issue k p [srcField a 0] [d] (fun vals c =>
    if 4 ≤ (vals.getD 0 0).toNat then s.illegal k
    else (s.modProc k (fun q => { q with prio := (vals.getD 0 0).toNat })).retire k c [(d, BitVec.ofNat 64 p.prio)]))

/-- SLEEP (06 R157): until the first rotation boundary at which GTC has reached a. -/
def execSleep (a : Src) (s : State) :=
  onCur s (fun k p => s.issue k p [srcField a 0] [] (fun vals c =>
    let t := s.retire k c []
    let due := (vals.getD 0 0).toNat
    if due ≤ s.gtc then t
    else (t.modProc k (fun q => { q with st := .sleeping, wait := .sleep, deadline := due })).atCycle
      ((s.gtcDue due + 7) / 8 * 8) (.sleepExpiry p.name)))

/-- SLEEP_EXPIRY (06 R157, R146). -/
def sleepExpiry (name : Nat) (s : State) : State :=
  s.modNamed name (fun k p t => if p.wait = .sleep ∧ p.deadline ≤ t.gtc then t.ready k else t)

/-- The self word (06 R157): GID, INGANG, MEMBER and name. -/
def selfWord (p : Proc) : Word :=
  BitVec.ofNat 64 (p.gid * 2 ^ 48 + bitOf p.gang.isSome * 2 ^ 47 + p.gang.getD 0 % 8 * 2 ^ 44 + p.name)

/-- PSELF (06 R157). -/
def execPself (d : Reg) (s : State) :=
  onCur s (fun k p => s.issue k p [] [d] (fun _ c => s.retire k c [(d, selfWord p)]))

/-! ### Lookups by name (06 R158) -/

/-- The birth core that a process name holds (06 R140). -/
def birthCore (name : Nat) : Nat := name / 2 ^ 28 % 4096 * 8192 + name / 2 ^ 15 % 8192

/-- Whether messages reach a core: it is a core of a package of the installation that can be reached. -/
def State.reachesCore (s : State) (src dst : Nat) : Bool :=
  coreIdOk dst && s.packages.contains (pkgOf dst) && s.reachable (pkgOf src) (pkgOf dst)

/-- The answer to a lookup whose name names no live process (06 R158, R161). -/
def lookMissing (op : LookOp) : Word :=
  match op with
  | .pinfo => allOnes
  | _ => failWord 8

/-- The information word (06 R158). -/
def infoWord (p : Proc) : Word :=
  let st := match p.st with
    | .ready => 1 | .resident => 2 | .parked => 3 | .blocked => 4 | .sleeping => 5 | .suspended => 6 | .trapped => 7 | .migrating => 8
  BitVec.ofNat 64 (st * 2 ^ 60 + p.prio * 2 ^ 58 + bitOf p.heavy * 2 ^ 57 + p.core * 2 ^ 32 + p.ecause.toNat * 2 ^ 24 +
    p.idx * 2 ^ 16 + p.pc.toNat / 4 * 4)

/-- Whether a looking process may act on another (06 R161). -/
def State.mayActOn (s : State) (q : Look) (p : Proc) : Bool :=
  q.level == 2 || ((s.group? p.gid).map Group.supervisor) == some q.dest.name

/-- What RESM makes of a process (06 R146, R163): none where its state does not accept it. -/
def State.resume (s : State) (k : Nat) (p : Proc) : Option State :=
  match p.st with
  | .suspended =>
    let q := { p with latch := false, quiesced := none }
    if p.prev == .blocked && !p.latch then some ((s.putProc k q).enterBlocked k)
    else if p.prev == .sleeping && !p.latch then some (s.putProc k { q with st := p.prev })
    else some ((s.putProc k { q.dropHold with st := .ready, wait := .none }).toPen p)
  | .trapped => some ((s.putProc k { p with st := .ready, pc := p.epc, wait := .none, sfq := [] }).toPen p)
  | _ => none

/-- The lookup is acted on at the core that holds the process (06 R158, R163, R166): an answer now, or a request that is answered
when it has been taken. DESIGN CHOICE (log 62): a MIGR of a process whose earlier MIGR still waits is refused with 0x08. -/
def State.lookAct (s : State) (q : Look) (k : Nat) (p : Proc) : State × Option Word :=
  match q.op with
  | .pinfo =>
    if q.level == 2 || p.gid == q.gid || ((s.group? p.gid).map Group.supervisor) == some q.dest.name
    then (s, some (infoWord p)) else (s, some allOnes)
  | .susp =>
    if !s.mayActOn q p then (s, some (failWord 7))
    else if p.st == .trapped || p.st == .suspended || p.st == .migrating then (s, some (failWord 8))
    else (s.putProc k { p with suspend := p.suspend ++ [q.dest] }, none)
  | .resm =>
    if !s.mayActOn q p then (s, some (failWord 7))
    else
      match s.resume k p with
      | some t => (t, some 0)
      | none => (s, some (failWord 8))
  | .migr =>
    if !s.mayActOn q p then (s, some (failWord 7))
    else if p.st == .trapped || p.st == .migrating || p.migrate.isSome then (s, some (failWord 8))
    else if pkgOf q.arg ≠ pkgOf p.core then (s, some (failWord 10))
    else if !(((s.launchOf p).map (fun l => l.nodes.contains q.arg)).getD false) || (s.fold (foldOf q.arg)).fenced then (s, some (failWord 4))
    else (s.putProc k { p with migrate := some { dest := q.dest, name := p.name, from0 := p.core, target := q.arg } }, none)
  | .chbind => s.lookBind q p

/-- NAME_LOOKUP (06 R158): at the birth core the lookup is passed on to the core that holds the process, or answered that there is none;
at the holder it is acted on. -/
def nameLookup (q : Look) (atHolder : Bool) (s : State) : State :=
  let here := birthCore q.target
  match s.named q.target with
  | none => s.after (s.oneway here q.core) (.nameLookupAnswer q (lookMissing q.op))
  | some (k, p) =>
    if !atHolder && decide (p.core ≠ here) then s.after (s.oneway here p.core) (.nameLookup q true)
    else
      match s.lookAct q k p with
      | (t, some w) => t.after (s.oneway p.core q.core) (.nameLookupAnswer q w)
      | (t, none) => t

/-- NAME_LOOKUP_ANSWER (06 R158, R192): the result fills d, or the holder's core tells CHBIND where its end goes. -/
def nameLookupAnswer (q : Look) (result : Word) (s : State) : State :=
  match q.op with
  | .chbind => s.bindAnswer q result
  | _ => fill q.dest result s

/-- A lookup sets out for the birth core; a name of no core of the installation is answered at once (06 R158). -/
def State.lookOut (s : State) (p : Proc) (q : Look) : State :=
  if s.reachesCore p.core (birthCore q.target) then s.after (s.oneway p.core (birthCore q.target)) (.nameLookup q false)
  else s.after 1 (.nameLookupAnswer q (lookMissing q.op))

/-- An instruction that looks a process up by name; a name with bits above 39 is ILLEGAL (06 R158, R161). -/
def State.lookInsn (s : State) (k : Nat) (p : Proc) (op : LookOp) (d : Reg) (name : Word) (arg : Nat) (c : BitVec 16) : State :=
  if 2 ^ 40 ≤ name.toNat then s.illegal k
  else ((s.produce k d).lookOut p
    { op := op, dest := p.dest d, core := p.core, gid := p.gid, level := p.level, target := name.toNat, arg := arg }).retire k c []

/-- PINFO (06 R158). -/
def execPinfo (d : Reg) (a : Src) (s : State) :=
  onCur s (fun k p => s.issueFill k p [srcField a 0] d (fun vals c => s.lookInsn k p .pinfo d (vals.getD 0 0) 0 c))

/-- SUSP (06 R161, R163). -/
def execSusp (d : Reg) (a : Src) (s : State) :=
  onCur s (fun k p => s.needS k p (s.issueFill k p [srcField a 0] d (fun vals c => s.lookInsn k p .susp d (vals.getD 0 0) 0 c)))

/-- RESM (06 R161, R163). -/
def execResm (d : Reg) (a : Src) (s : State) :=
  onCur s (fun k p => s.needS k p (s.issueFill k p [srcField a 0] d (fun vals c => s.lookInsn k p .resm d (vals.getD 0 0) 0 c)))

/-- MIGR (06 R161, R166); a target that names no core is LOAD_FAULT (04 R71). -/
def execMigr (d : Reg) (a b : Src) (s : State) :=
  onCur s (fun k p => s.needS k p (s.issueFill k p [srcField a 0, srcField b 1] d (fun vals c =>
    if 2 ^ 40 ≤ (vals.getD 0 0).toNat then s.illegal k
    else if !coreIdOk (vals.getD 1 0).toNat then s.raise k causeLoadFault (vals.getD 1 0)
    else s.lookInsn k p .migr d (vals.getD 0 0) (vals.getD 1 0).toNat c)))

/-! ### Migration (06 R166, R167) -/

/-- The free record of lowest number on a core. -/
def State.freeRecord (s : State) (core : Nat) : Option Nat := leastFree ((s.onCore core).map (fun e => e.2.idx)) 0 256

/-- The free extension area of lowest number on a core (06 R142). -/
def State.freeExtension (s : State) (core : Nat) : Option Nat :=
  leastFree ((s.onCore core).map (fun e => e.2.extix)) 0 (s.core core).extSize

/-- Whether the wait of a process that has moved, or has come back, is tried again (07 R223, 08 R240). -/
def retriesMove (p : Proc) : Bool :=
  match p.wait with
  | .cell _ => true
  | .boundary => true
  | .chan _ => true
  | .alt => true
  | .wfw _ => true
  | _ => false

/-- A process as it stands after a move or its refusal (06 R166): its state before the move, or READY to try its instruction again. -/
def settled (p : Proc) : Proc :=
  let again := retriesMove p
  let was := if (p.mprev == .blocked || p.mprev == .sleeping) && (p.latch || again) then PState.ready else p.mprev
  let idle := was == .ready || again
  { (if idle then { p.dropHold with wait := .none } else p) with
    st := was, prev := if was == PState.suspended && again then PState.ready else p.prev, latch := p.latch && was == .suspended }

/-- The process at its new core (06 R166): its record, its vector registers, and the state it had before. -/
def State.land (s : State) (k : Nat) (p : Proc) (core rec ext vbase : Nat) : State :=
  let ix := match tget s.ltab (p.core * 16 + p.launch) with
    | some e => (s.ltabIndex core e.launch).getD 0
    | none => 0
  let vec := readBytes s.mem (windowBase p.core + 0x110000 + p.vbase * 64) (p.vcount * 64)
  let t := if p.vheld then s.writeMem (windowBase core + 0x110000 + vbase * 64) vec else s
  let q := { settled p with
    core := core, idx := rec, launch := ix, extix := ext, episode := (p.episode + 1) % 65536, vbase := if p.vheld then vbase else p.vbase }
  let u := (t.adopt p core).removeRecord k p
  let v := { u.putProc (core * 256 + rec) q with dir := tput u.dir p.name (core * 256 + rec) }
  let w := (v.modLtab p (fun e => { e with live := e.live - 1 })).modLtab q (fun e => { e with live := e.live + 1, taken := e.taken + 1 })
  (((if q.st == .ready then w.toPen q else w).reopenEnds q).restartStreams (core * 256 + rec)).checkWave p

/-- Whether a killed group waits for a process in transit, and its end (06 R162). -/
def State.killLanded (s : State) (name : Nat) : State :=
  s.modNamed name (fun k p t =>
    match t.group? p.gid with
    | some g => if g.killed.isSome then (t.killProc k p).checkKilled p.gid p.core else t
    | none => t)

/-- MIGRATION_ARRIVAL (06 R166): the target's shepherd needs a free record and extension that no gang or root has reserved, a vector run and the
entries that the process brings; else it refuses. Into a region under QUIESCE none comes (R165). -/
def migrationArrival (m : Mig) (s : State) : State :=
  s.modNamed m.name (fun k p t =>
    match t.launchOf p, tget t.ltab (p.core * 16 + p.launch) with
    | some _, some e =>
      -- the messages of its ends are acknowledged first (07 R192, R223)
      if t.endsDrain p || (t.ltabIndex m.target e.launch).isNone then t.after 1 (.migrationArrival m)
      else if t.isQuiet m.target then t.after 8 (.migrationArrival m)
      else
        let run := if p.vheld && decide (p.vcount ≠ 0) then t.vectorRun m.target p.vcount else some 0
        let c := t.core m.target
        let held := (t.onCore m.target).length + c.reserved
        let full := decide (256 ≤ held) || decide (c.extSize ≤ held)
        let back := t.oneway m.target m.from0
        let refuse (code : Nat) : State :=
          (t.modLtabOf m.target e.launch (fun y => { y with taken := y.taken + 1 })).after back (.migrationAnswer m code)
        match t.freeRecord m.target, t.freeExtension m.target, run with
        | some r, some x, some v =>
          if (t.fold (foldOf m.target)).fenced then refuse 4
          else if full || !t.canAdopt p m.target || (decide (p.vcount ≠ 0) && !hasVtu m.target) then refuse 9
          else ((t.land k p m.target r x v).after back (.migrationAnswer m 0)).killLanded m.name
        | _, _, _ => refuse (if (t.fold (foldOf m.target)).fenced then 4 else 9)
    | _, _ => t)

/-- MIGRATION_ANSWER (06 R166): on a refusal the process is again what it was at the source; d is filled. -/
def migrationAnswer (m : Mig) (code : Nat) (s : State) : State :=
  let way := match s.named m.dest.name with
    | some (_, q) => s.oneway m.from0 q.core
    | none => 1
  let t := s.after way (.fill m.dest (if code = 0 then 0 else failWord code))
  if code = 0 then t
  else
    (t.modNamed m.name (fun k p u =>
      if p.st ≠ .migrating then u
      else
        let q := settled p
        let v := u.putProc k q
        (if q.st == .ready then v.toPen p else v).reopenEnds q)).killLanded m.name

/-! ### QUIESCE (06 R165) -/

/-- The folds of the rectangle whose corners are two folds of one die. -/
def rectangle (f g : Nat) : List Nat :=
  let xl := min (foldX f) (foldX g)
  let xh := max (foldX f) (foldX g)
  let yl := min (foldY f) (foldY g)
  let yh := max (foldY f) (foldY g)
  ((List.range 192).filter (fun i =>
    decide (xl ≤ i % 12) && decide (i % 12 ≤ xh) && decide (yl ≤ i / 12) && decide (i / 12 ≤ yh))).map
      (fun i => f / 256 * 256 + i)

/-- The processes on the cores of some folds. -/
def State.inFolds (s : State) (fs : List Nat) : List (Nat × Proc) := s.procs.filter (fun e => fs.contains (foldOf (e.1 / 256)))

/-- The checks of QUIESCE on its corners (06 R165, 04 R71) before an action on the rectangle's folds, which answers the result's delay
or none while it is to come. -/
def State.quiesceInsn (s : State) (k : Nat) (p : Proc) (d : Reg) (vals : List Word) (c : BitVec 16)
    (act : State → List Nat → State) : State :=
  let a := (vals.getD 0 0).toNat
  let b := (vals.getD 1 0).toNat
  if !coreIdOk a then s.raise k causeLoadFault (vals.getD 0 0)
  else if !coreIdOk b then s.raise k causeLoadFault (vals.getD 1 0)
  else
    let t := s.produce k d
    let u :=
      if dieOf a ≠ dieOf b then t.after 1 (.fill (p.dest d) (failWord 10))
      else
        let fs := rectangle (foldOf a) (foldOf b)
        if p.level ≠ 2 && (s.inFolds fs).any (fun e => !(s.supervises p e.2.gid)) then t.after 1 (.fill (p.dest d) (failWord 7))
        else act t fs
    u.retire k c []

/-- A rectangle by its first and last fold. -/
def rectangleId (fs : List Nat) : Nat × Nat := (fs.headD 0, fs.getLastD 0)

/-- The place of a suspension that a QUIESCE asks for, among the requests of a process: it fills nothing. -/
def noFill : FillTo := ⟨0, 0, 0⟩

/-- QUIESCE (06 R165): every process there is to be suspended, and d is filled once the region has been still. -/
def execQuiesce (d : Reg) (a b : Src) (s : State) :=
  onCur s (fun k p => s.needS k p (s.issueFill k p [srcField a 0, srcField b 1] d (fun vals c =>
    s.quiesceInsn k p d vals c (fun t fs =>
      let u := (t.inFolds fs).foldl (fun v e =>
        if e.2.st == .trapped || e.2.st == .suspended || e.2.st == .migrating || e.2.quiesced.isSome then v
        else v.modProc e.1 (fun q => { q with suspend := q.suspend ++ [noFill], quiesced := some (rectangleId fs) })) t
      ({ u with quiet := u.quiet ++ [(p.name, fs, s.cycle)] }).after 64 (.quiesceStill (p.dest d))))))

/-- Whether anything in some folds still moves (06 R165): a process that is not at rest, a store or a message under way. -/
def State.stirs (s : State) (fs : List Nat) : Bool :=
  (s.inFolds fs).any (fun e => !(e.2.st == .suspended || e.2.st == .trapped || e.2.st == .migrating)) ||
  s.cores.any (fun e => fs.contains (foldOf e.1) && !e.2.sb.isEmpty) || s.trafficIn fs

/-- QUIESCE_STILL (06 R165): after 64 still cycles d is filled; until then the tree is read again in each cycle. -/
def quiesceStill (dest : FillTo) (s : State) : State :=
  match s.quiet.find? (fun q => q.1 == dest.name) with
  | none => s
  | some _ =>
    -- the issuer's regions are watched together
    let t := { s with quiet := s.quiet.map (fun q => if q.1 == dest.name && s.stirs q.2.1 then (q.1, q.2.1, s.cycle) else q) }
    if t.quiet.all (fun q => q.1 != dest.name || decide (q.2.2 + 64 ≤ t.cycle)) then fill dest 0 t
    else t.after 1 (.quiesceStill dest)

/-- QUIESCE.R (06 R165): the processes that the matching QUIESCE, that of the same rectangle (DEDUCED, log 53), suspended resume, and what was held
into the region is released. A process that it has not suspended yet goes on. -/
def execQuiesceR (d : Reg) (a b : Src) (s : State) :=
  onCur s (fun k p => s.needS k p (s.issueFill k p [srcField a 0, srcField b 1] d (fun vals c =>
    s.quiesceInsn k p d vals c (fun t fs =>
      let u := (t.inFolds fs).foldl (fun v e =>
        match v.proc e.1 with
        | some q =>
          if q.quiesced != some (rectangleId fs) then v
          else if q.st == .suspended then (v.resume e.1 q).getD v
          else v.putProc e.1 { q with quiesced := none, suspend := q.suspend.erase noFill }
        | none => v) t
      ({ u with quiet := u.quiet.filter (fun x => x.2.1 != fs) }).after 1 (.fill (p.dest d) 0)))))

end Sys2Proof.Machine
end

