-- ==== Sys2Proof/Machine/Launch.lean ====
section
/-! DEFINITION. Creating processes: SPAWN and GANG (06 R153 to R156), START and its answer, and launches: records (R171 to
R173), headers (01 R22), the done tree (06 R176, R177). -/

namespace Sys2Proof.Machine

/-! ### The spawn word (06 R153) -/

def spawnEntry (w : Word) : Nat := (w.extractLsb' 32 16).toNat
def spawnTarget (w : Word) : Nat := (w.extractLsb' 7 25).toNat
def spawnPrio (w : Word) : Nat := (w.extractLsb' 5 2).toNat
def spawnVec (w : Word) : Nat := (w.extractLsb' 2 3).toNat
def spawnHeavy (w : Word) : Bool := w.getLsbD 1
def spawnSup (w : Word) : Bool := w.getLsbD 0

/-- Whether a spawn word keeps R153. -/
def spawnOk (w : Word) : Bool :=
  decide (w.toNat < 2 ^ 48) && decide (spawnEntry w % 4 = 0) && decide (spawnVec w ≤ 4)

/-- The vector registers of a demand code (06 Table 6.10). -/
def vecCount (code : Nat) : Nat := if code = 0 then 0 else 2 ^ (code + 1)

/-! ### What a launch says of itself -/

/-- A word of a launch record by its offset (06 Table 6.11). -/
def recWord (ws : List Word) (off : Nat) : Word := ws.getD (off / 8) 0

/-- A field of a word. -/
def fieldOf (w : Word) (lo n : Nat) : Nat := w.toNat / 2 ^ lo % 2 ^ n

/-- The entry of a level in a launch record (06 Table 6.12). -/
def levelWord (ws : List Word) (n : Nat) : Word := recWord ws (0x80 + 8 * n)
def levelValid (w : Word) : Bool := w.getLsbD 0
def levelDomain (w : Word) : Nat := fieldOf w 1 3
def levelScope (w : Word) : Nat := fieldOf w 4 3

/-- Whether two cores lie in one domain: 0 core, 1 fold, 2 die, 3 package, 4 pod, 5 system (06 Table 6.12, 04 R92). -/
def sameDomain (dom a b : Nat) : Bool :=
  match dom with
  | 0 => a == b
  | 1 => foldOf a == foldOf b
  | 2 => dieOf a == dieOf b
  | 3 => pkgOf a == pkgOf b
  | 4 => pkgOf a / 64 == pkgOf b / 64
  | _ => true

/-- Free records of a core. -/
def State.freeRecords (s : State) (core : Nat) : Nat := 256 - (s.onCore core).length - (s.core core).reserved

/-- Extension areas that a record gives a core (06 R142). -/
def recExts (ws : List Word) (core : Nat) : Nat :=
  if hasVtu core then fieldOf (recWord ws 0x50) 0 8 else fieldOf (recWord ws 0x50) 8 8

/-- Free extension areas of a core for a launch: its pool holds at least the areas that the launch's record gives (06 R142; log 22). -/
def State.freeExts (s : State) (l : Launch) (core : Nat) : Nat :=
  max (s.core core).extSize (recExts l.words core) - (s.onCore core).length - (s.core core).reserved

/-- Whether a core can take a process of a launch (06 R154): the code of the first check that fails, 0 if none. -/
def State.startCheck (s : State) (l : Launch) (core vec : Nat) : Nat :=
  if s.freeRecords core = 0 then 1
  else if s.freeExts l core = 0 then 2
  else if vec ≠ 0 ∧ !hasVtu core then 3
  else if !l.nodes.contains core || (s.fold (foldOf core)).fenced then 4
  else 0

/-- Whether the START that is to make a group is on its way: the group has no home entry yet (06 R154). -/
def State.makesGroup (s : State) (gid : Nat) : Bool :=
  s.agenda.any (fun e => match e.2 with | .start m => m.newGroup && m.member.isNone && m.gid == gid | _ => false)

/-- The entries of a core's group home table that are taken (06 R168: at most 32), those kept for roots on their way among them (01 R22). -/
def State.homes (s : State) (core : Nat) : Nat :=
  (s.groups.filter (fun e => e.2.home == core && !s.makesGroup e.1)).length +
  (s.launches.filter (fun e => e.2.nodes.head? == some core && (s.ltabIndex core e.1).isNone)).length

/-- The lowest free GID of a node (06 R168): GBASE + i + k n with k at least 1. -/
def State.freeGid (s : State) (l : Launch) (node : Nat) : Option Nat :=
  ((List.range (l.gcount / max l.nodes.length 1 + 1)).map (fun k => l.gbase + node + (k + 1) * l.nodes.length)).find? (fun g =>
    decide (g < l.gbase + l.gcount) && (s.group? g).isNone)

/-- The supervisor that a new group gets (06 R154): the issuer at S or M, else the supervisor of its group. -/
def State.supervisorFor (s : State) (p : Proc) : Nat :=
  if p.level ≠ 0 then p.name else ((s.group? p.gid).map Group.supervisor).getD 0

/-- A new group (06 R168), with the peer table of its creator's (12 R370). -/
def State.newGroup (s : State) (p : Proc) (home lch pending gang : Nat) : Group :=
  { home := home, supervisor := s.supervisorFor p, launch := lch, pending := pending, gang := gang, gangSize := gang,
    peers := ((s.group? p.gid).map Group.peers).getD [] }

/-- A START leaves the issuer's core (06 R154, R177; 04 R88): the stores before it are performed first. One towards a core outside the
placement has no accumulator there to be counted in, and is not counted as sent. -/
def State.sendStart (s : State) (p : Proc) (l : Launch) (m : StartMsg) (wait : Nat) : State :=
  (if l.nodes.contains m.core then s.modLtab p (fun e => { e with sent := e.sent + 1 }) else s).after wait (.start m)

/-- The spawned process of a START (06 R154): registers 0 and full but for g1 to g4. -/
def startProc (m : StartMsg) (rec gen ext ix : Nat) : Proc :=
  let args := m.args
  { name := pkgOf m.core * 2 ^ 28 + m.core % 8192 * 2 ^ 15 + gen * 2 ^ 8 + rec, core := m.core, idx := rec,
    prio := spawnPrio m.spawn, level := m.level, heavyBit := spawnHeavy m.spawn, pc := BitVec.ofNat 16 (spawnEntry m.spawn),
    regs := Vector.ofFn (fun i : Fin 16 => if 1 ≤ i.val ∧ i.val ≤ 4 then { val := args.getD (i.val - 1) 0 } else {}),
    launch := ix, gang := m.member, gid := m.gid, extix := ext, vcount := vecCount (spawnVec m.spawn) }

/-- A process is created on a core (06 R154, Table 6.4): READY at the tail of its pen, a member of its group, counted in its launch's
LIVE. -/
def State.create (s : State) (m : StartMsg) : State × Word :=
  match s.freeRecord m.core, s.freeExtension m.core, s.ltabIndex m.core m.launch with
  | some r, some x, some ix =>
    let gen := (tgetD s.gens (m.core * 256 + r) 0 + 1) % 128
    let p := startProc m r gen x ix
    let t := { s.putProc (m.core * 256 + r) p with
      gens := tput s.gens (m.core * 256 + r) gen, dir := tput s.dir p.name (m.core * 256 + r) }
    (((t.toPen p).modLtab p (fun e => { e with live := e.live + 1 })).modGroup m.gid (fun g => { g with live := g.live ++ [p.name] }),
      BitVec.ofNat 64 (m.gid * 2 ^ 48 + p.name))
  | _, _, _ => (s, failWord 1)

/-- Where the answer to a START goes, and when it arrives (06 R154). -/
def State.answerStart (s : State) (m : StartMsg) (w : Word) : State := s.after (s.oneway m.core m.from0) (.startAnswer m w)

/-- A START's member is withdrawn from its group (06 R154): a kill counts it, a group with nothing left is released. -/
def State.withdraw (s : State) (m : StartMsg) : State :=
  match s.group? m.gid with
  | none => s
  | some g =>
    let g1 := { g with pending := g.pending - 1, killed := g.killed.map (fun x => (x.1, x.2 + 1)) }
    let t := s.putGroup m.gid g1
    if g1.live.isEmpty && decide (g1.pending = 0) then
      (if g1.killed.isSome then t.checkKilled m.gid m.core else { t with groups := tdel t.groups m.gid }.checkTrapw g1.supervisor)
    else t.checkPhase m.gid

/-- The answer of one START of a gang (06 R155): GANG's result is sent with the last. -/
def State.answerGang (s : State) (m : StartMsg) (ok : Bool) : State :=
  match s.group? m.gid with
  | none => s
  | some g =>
    let g1 := { g with gang := g.gang - 1, gangFailed := g.gangFailed || !ok }
    let t := s.putGroup m.gid g1
    if g1.gang = 0 then t.answerStart m (if g1.gangFailed then failWord 8 else BitVec.ofNat 64 m.gid) else t

/-- START (06 R154, R155, 01 R22): held until the launch's header is there and while the region is quiesced; refused if its group is
gone or being killed, or a check fails; else the process is created. -/
def start (m : StartMsg) (s : State) : State :=
  let placed := ((tget s.launches m.launch).map (fun l => l.nodes.contains m.core)).getD false
  if placed && (s.ltabIndex m.core m.launch).isNone then s.after 1 (.start m)
  else if s.isQuiet m.core then s.after 8 (.start m)
  else
    let t := s.modLtabOf m.core m.launch (fun e => { e with taken := e.taken + 1 })
    match tget t.launches m.launch, t.group? m.gid with
    | some l, some g =>
      if m.member.isSome then
        let u := t.modCore m.core (fun c => { c with reserved := c.reserved - 1 })
        if g.killed.isSome then (u.answerGang m false).withdraw m
        else
          let r := (u.modGroup m.gid (fun y => { y with pending := y.pending - 1 })).create m
          r.1.answerGang m (decide (r.2.toNat < 2 ^ 63))
      else if g.killed.isSome then (t.answerStart m (failWord 8)).withdraw m
      else
        let code := t.startCheck l m.core (spawnVec m.spawn)
        let code := if code = 0 ∧ m.newGroup ∧ 32 < t.homes m.core then 5 else code
        if code ≠ 0 then (t.answerStart m (failWord code)).withdraw m
        else
          let r := (t.modGroup m.gid (fun y => { y with pending := y.pending - 1 })).create m
          r.1.answerStart m r.2
    | some l, none =>
      -- a START without a group: no GID was left (0x05, after the other checks), or the group has been released
      let code := t.startCheck l m.core (spawnVec m.spawn)
      t.answerStart m (failWord (if !m.newGroup then 8 else if code = 0 then 5 else code))
    | none, _ => t.answerStart m (failWord 8)

/-- START_ANSWER (06 R154, R155): d is filled. -/
def startAnswer (m : StartMsg) (result : Word) (s : State) : State := fill m.dest result s

/-- The core that SPAWN.PLACE picks (06 R156): of the placed cores in the domain, but for those of a fenced fold (13 R400), the one with the
most free records, the lowest among equals. -/
def State.choosePlace (s : State) (l : Launch) (core dom vec : Nat) : Option Nat :=
  leastBy (fun c => (256 - s.freeRecords c) * 2 ^ 25 + c)
    (l.nodes.filter (fun c => sameDomain dom core c && (vec == 0 || hasVtu c) && !(s.fold (foldOf c)).fenced))

/-- SPAWN (06 R153, R154, R156). -/
def execSpawn (d : Reg) (a b : Src) (n pl : BitVec 1) (v : BitVec 3) (s : State) :=
  onCur s (fun k p =>
    s.issueFill k p ([srcField a 0, srcField b 1] ++ [1, 2, 3, 4].map (fun r => plainField (BitVec.ofNat 4 r) 3)) d (fun vals c =>
      let w := vals.getD 0 0
      match s.launchOf p, tget s.ltab (p.core * 16 + p.launch) with
      | some l, some e =>
        let lv := levelWord l.words v.toNat
        if !spawnOk w then s.illegal k
        else if pl = 1 && !levelValid lv then s.illegal k
        else if pl = 0 && !coreIdOk (spawnTarget w) then s.raise k causeLoadFault (BitVec.ofNat 64 (spawnTarget w))
        else
          let t := s.produce k d
          let gid := if n = 1 ∨ vals.getD 1 0 = 0 then p.gid else (vals.getD 1 0).toNat
          let deny (code : Nat) : State := (t.after 1 (.fill (p.dest d) (failWord code))).retire k c []
          if spawnSup w && decide (p.level = 0) then deny 7
          else if n = 0 && decide (gid ≠ p.gid) && !s.supervises p gid then deny 7
          else
            match (if pl = 1 then s.choosePlace l p.core (levelDomain lv) (spawnVec w) else some (spawnTarget w)) with
            | none => deny 4
            | some core =>
              if !s.reachesCore p.core core then deny 4
              else
                let u := t.releaseStores k
                let m : StartMsg :=
                  { dest := p.dest d, from0 := p.core, core := core, spawn := w, gid := gid, level := bitOf (spawnSup w),
                    args := vals.drop 2, launch := e.launch, member := none, newGroup := n = 1 }
                let way := s.oneway p.core core
                if n = 1 then
                  match s.freeGid l e.node with
                  | some g => ((u.putGroup g (s.newGroup p core e.launch 1 0)).sendStart p l { m with gid := g } way).retire k c []
                  | none => (u.sendStart p l { m with gid := 0 } way).retire k c []
                else ((u.modGroup gid (fun g => { g with pending := g.pending + 1 })).sendStart p l m way).retire k c []
      | _, _ => s.illegal k))

/-- The cores of a gang (06 R155): c0 to c3 of a fold, and with .8 of the fold east of it; none if there is no such fold. -/
def gangCores (target : Nat) (eight : Bool) : Option (List Nat) :=
  let f := foldOf target
  let four (g : Nat) : List Nat := [8 * g, 8 * g + 1, 8 * g + 2, 8 * g + 3]
  if target % 8 ≠ 0 then none
  else if !eight then some (four f)
  else if foldX f = 11 then none
  else some (four f ++ four (f + 1))

/-- GANG (06 R153, R155): a record and an extension are reserved on every core first; the members' STARTs set out together. -/
def execGang (d : Reg) (a : Src) (e8 : BitVec 1) (s : State) :=
  onCur s (fun k p =>
    s.issueFill k p ([srcField a 0] ++ [1, 2, 3, 4].map (fun r => plainField (BitVec.ofNat 4 r) 3)) d (fun vals c =>
      let w := vals.getD 0 0
      match s.launchOf p, tget s.ltab (p.core * 16 + p.launch) with
      | some l, some e =>
        if !spawnOk w then s.illegal k
        else if !coreIdOk (spawnTarget w) then s.raise k causeLoadFault (BitVec.ofNat 64 (spawnTarget w))
        else
          let t := s.produce k d
          let deny (code : Nat) : State := (t.after 1 (.fill (p.dest d) (failWord code))).retire k c []
          if spawnSup w && decide (p.level = 0) then deny 7
          else
            match gangCores (spawnTarget w) (e8 = 1) with
            | none => deny 6
            | some cores =>
              let home := cores.headD 0
              if !s.reachesCore p.core home then deny 4
              else if cores.any (fun x => l.nodes.contains x && (s.ltabIndex x e.launch).isNone) then s.park k .boundary
              else
                let first := s.startCheck l home (spawnVec w)
                let first := if first = 0 ∧ (32 ≤ s.homes home ∨ (s.freeGid l e.node).isNone) then 5 else first
                if first ≠ 0 then deny first
                else if cores.any (fun x => s.startCheck l x (spawnVec w) != 0) then deny 6
                else
                  let g := (s.freeGid l e.node).getD 0
                  let n := cores.length
                  let u := (t.releaseStores k).putGroup g (s.newGroup p home e.launch n n)
                  let far := (cores.map (fun x => s.oneway p.core x)).foldl max 1
                  let v := (cores.zipIdx).foldl (fun y cm =>
                    (y.modCore cm.1 (fun q => { q with reserved := q.reserved + 1 })).sendStart p l
                      { dest := p.dest d, from0 := p.core, core := cm.1, spawn := w, gid := g, level := bitOf (spawnSup w),
                        args := vals.drop 1, launch := e.launch, member := some cm.2, newGroup := true }
                      (2 * far + s.oneway p.core cm.1)) u
                  v.retire k c []
      | _, _ => s.illegal k))

/-! ### Launch records (06 R171 to R173) -/

/-- The counts of a launch record: placements, images, initial channels, peers. -/
def recPlace (ws : List Word) : Nat := fieldOf (recWord ws 0x48) 0 8
def recImages (ws : List Word) : Nat := fieldOf (recWord ws 0x48) 8 8
def recChans (ws : List Word) : Nat := fieldOf (recWord ws 0x48) 16 8
def recPeers (ws : List Word) : Nat := fieldOf (recWord ws 0x48) 24 7

/-- The parts of a launch record behind the level table. -/
def placeWords (ws : List Word) : List Word := (ws.drop 24).take (recPlace ws)
def imageWords (ws : List Word) : List Word := (ws.drop (24 + recPlace ws)).take (recImages ws)
def chanWords (ws : List Word) : List Word := (ws.drop (24 + recPlace ws + recImages ws)).take (2 * recChans ws)
def peerWords (ws : List Word) : List Word := (ws.drop (24 + recPlace ws + recImages ws + 2 * recChans ws)).take (recPeers ws)

/-- The even positions of a list. -/
def evens : List Word → List Word
  | [] => []
  | [x] => [x]
  | x :: _ :: t => x :: evens t

/-- The odd positions of a list. -/
def odds : List Word → List Word
  | [] => []
  | [_] => []
  | _ :: y :: t => y :: odds t

/-- R173 code 0x01: magic, version, length, counts, reserved fields. DESIGN CHOICE (log 54): an initial channel whose TYPE is none is refused by it
too. -/
def recShape (ws : List Word) : Bool :=
  let w := recWord ws
  let n := 24 + recPlace ws + recImages ws + 2 * recChans ws + recPeers ws
  decide (24 ≤ ws.length) && decide (fieldOf (w 0) 0 32 = 0x4C414E43) && decide (fieldOf (w 0) 32 8 = 1) &&
  decide (fieldOf (w 0) 40 24 = 8 * n) && decide (ws.length = n) &&
  decide (fieldOf (w 0x10) 48 15 = 0) && decide (fieldOf (w 0x48) 31 33 = 0) && decide (fieldOf (w 0x50) 16 48 = 0) &&
  decide (recPeers ws ≤ 64) && decide (recChans ws ≤ 64) && decide (1 ≤ recImages ws) && decide (1 ≤ recPlace ws) &&
  decide (1 ≤ fieldOf (w 0x50) 0 8) && decide (fieldOf (w 0x50) 0 8 ≤ 64) &&
  decide (1 ≤ fieldOf (w 0x50) 8 8) && decide (fieldOf (w 0x50) 8 8 ≤ 16) &&
  w 0x60 == 0 && w 0x68 == 0 && w 0x70 == 0 && w 0x78 == 0 &&
  (List.range 8).all (fun i => decide (fieldOf (levelWord ws i) 7 57 = 0)) &&
  (placeWords ws).all (fun x => decide (fieldOf x 0 6 = 0)) &&
  (imageWords ws).all (fun x => decide (1 ≤ x.toNat) && decide (x.toNat ≤ 16384)) &&
  (evens (chanWords ws)).all (fun x => decide (fieldOf x 6 2 = 0) && decide (fieldOf x 8 4 ≤ 1) && typOk (x &&& 0xFFFFFFFFFFFFF000) true) &&
  (odds (chanWords ws)).all (fun x => x == 0) &&
  (peerWords ws).all (fun x => x &&& ~~~(0x8FFF000000000000 : Word) == 0)

/-- The fields of a placement entry (06 Table 6.12): image, core, fold, die and package ranges. -/
def placeImage (w : Word) : Nat := fieldOf w 56 8
def placeOkRange (w : Word) : Bool :=
  decide (fieldOf w 53 3 ≤ fieldOf w 50 3) && decide (fieldOf w 50 3 ≤ 6) &&
  decide (fieldOf w 42 8 ≤ fieldOf w 34 8) && decide (fieldOf w 34 8 ≤ 191) &&
  decide (fieldOf w 32 2 ≤ fieldOf w 30 2) && decide (fieldOf w 18 12 ≤ fieldOf w 6 12)

/-- The numbers from a to b. -/
def rangeOf (a b : Nat) : List Nat := (List.range (b + 1 - a)).map (fun i => a + i)

/-- The cores that a placement entry names, in rising order. -/
def placeCores (w : Word) : List Nat :=
  (rangeOf (fieldOf w 18 12) (fieldOf w 6 12)).flatMap (fun pk =>
    (rangeOf (fieldOf w 32 2) (fieldOf w 30 2)).flatMap (fun d =>
      (rangeOf (fieldOf w 42 8) (fieldOf w 34 8)).flatMap (fun f =>
        (rangeOf (fieldOf w 53 3) (fieldOf w 50 3)).map (fun c => ((pk * 4 + d) * 256 + f) * 8 + c))))

/-- Whether two placement entries name a core in common. -/
def placeMeet (v w : Word) : Bool :=
  let meets (lo nl hi : Nat) : Bool := decide (fieldOf v lo nl ≤ fieldOf w hi nl) && decide (fieldOf w lo nl ≤ fieldOf v hi nl)
  meets 53 3 50 && meets 42 8 34 && meets 32 2 30 && meets 18 12 6

/-- R173 code 0x02: the placement. -/
def State.placeFine (s : State) (ws : List Word) : Bool :=
  (placeWords ws).all (fun w => placeOkRange w && decide (placeImage w < recImages ws) &&
    (rangeOf (fieldOf w 18 12) (fieldOf w 6 12)).all (fun pk => s.packages.contains pk)) &&
  (placeWords ws).all (fun v => (placeWords ws).all (fun w => !placeMeet v w || placeImage v == placeImage w)) &&
  (placeWords ws).all (fun w => !s.folds.any (fun f => f.2.fenced &&
    decide (fieldOf w 18 12 ≤ f.1 / 1024) && decide (f.1 / 1024 ≤ fieldOf w 6 12) &&
    decide (fieldOf w 32 2 ≤ f.1 / 256 % 4) && decide (f.1 / 256 % 4 ≤ fieldOf w 30 2) &&
    decide (fieldOf w 42 8 ≤ f.1 % 256) && decide (f.1 % 256 ≤ fieldOf w 34 8)))

/-- Whether a placement entry names a core. -/
def placeNames (w : Word) (core : Nat) : Bool :=
  decide (fieldOf w 53 3 ≤ core % 8) && decide (core % 8 ≤ fieldOf w 50 3) &&
  decide (fieldOf w 42 8 ≤ core / 8 % 256) && decide (core / 8 % 256 ≤ fieldOf w 34 8) &&
  decide (fieldOf w 32 2 ≤ core / 2048 % 4) && decide (core / 2048 % 4 ≤ fieldOf w 30 2) &&
  decide (fieldOf w 18 12 ≤ core / 8192) && decide (core / 8192 ≤ fieldOf w 6 12)

/-- R173 code 0x03: the root. What other launches and gangs have reserved on its core is not free (01 R22, 06 R155). -/
def State.rootFine (s : State) (ws : List Word) : Bool :=
  let w := recWord ws 0x20
  let c := spawnTarget w
  spawnOk w && (placeWords ws).any (fun x => placeNames x c) && (decide (spawnVec w = 0) || hasVtu c) &&
  decide (s.freeRecords c ≠ 0) && decide ((s.onCore c).length + (s.core c).reserved < max (recExts ws c) (s.core c).extSize)

/-- R173 code 0x04: the level table (R172). -/
def levelsFine (ws : List Word) : Bool :=
  let l := (List.range 8).map (levelWord ws)
  let n := (l.takeWhile levelValid).length
  (l.drop n).all (fun w => !levelValid w) &&
  (l.take n).all (fun w => decide (levelDomain w ≤ 5) && decide (levelScope w ≤ 5) && decide (levelDomain w ≤ levelScope w)) &&
  (List.range (n - 1)).all (fun i => decide (levelDomain (l.getD i 0) ≤ levelDomain (l.getD (i + 1) 0)))

/-- DESIGN CHOICE (log 11): how many GIDs the bothy gives a launch of n nodes, in steps of 0x400 so that each node has at least one for a group of
its own (06 R168), and the lowest base whose range meets no other launch's. -/
def gidShare (n : Nat) : Nat := (2 * n + 0x3FF) / 0x400 * 0x400
def State.freeBase (s : State) (n : Nat) : Option Nat :=
  ((List.range 63).map (fun i => 0x40 + i * 0x400)).find? (fun b =>
    decide (b + gidShare n ≤ 2 ^ 16) && s.launches.all (fun e => decide (e.2.gbase + e.2.gcount ≤ b) || decide (b + gidShare n ≤ e.2.gbase)))

/-- The placed cores of a record, sorted and rotated so that the root's core is first (06 R176). -/
def recNodes (ws : List Word) : List Nat :=
  let cs := ((placeWords ws).flatMap placeCores).foldl (fun l c => insertAddr c l) []
  let r := spawnTarget (recWord ws 0x20)
  cs.filter (fun c => r ≤ c) ++ cs.filter (fun c => c < r)

/-- Whether a source may send launch records (06 R175): the host may, a process at S or M whose launch has LR set may. -/
def State.mayLaunch (s : State) (src : Source) : Bool :=
  match src with
  | .host => true
  | .process name _ =>
    match s.named name with
    | some (_, p) => decide (p.level ≠ 0) && ((s.launchOf p).map Launch.rights).getD false
    | none => false

/-- The launches that a core serves (06 R174: at most 16), those whose headers are on their way among them (01 R22). -/
def State.serves (s : State) (core : Nat) : Nat :=
  ((List.range 16).filter (fun i => (tget s.ltab (core * 16 + i)).isSome)).length +
  (s.launches.filter (fun e => (placeWords e.2.words).any (fun w => placeNames w core) && (s.ltabIndex core e.1).isNone)).length

/-- The code with which the bothy refuses a record (06 R173), 0 if it does not. DESIGN CHOICE (log 54): where several conditions hold, the first of 6,
1, 2, 3, 4, 5; and a full group home table at the root's core is 5. -/
def State.recordCode (s : State) (src : Source) (ws : List Word) : Nat :=
  if !s.mayLaunch src then 6
  else if !recShape ws then 1
  else if !s.placeFine ws then 2
  else if !s.rootFine ws then 3
  else if !levelsFine ws then 4
  else if (recNodes ws).any (fun c => decide (16 ≤ s.serves c)) || (s.freeBase (recNodes ws).length).isNone ||
      decide (32 ≤ s.homes (spawnTarget (recWord ws 0x20))) || decide ((recWord ws 0x18).toNat % 2 ^ 15 ≠ 0) then 5
  else 0

/-- Whether every image of a launch stands in its cores as IMAGE wrote it (13 R395): for one that does not, the attestation report counts the
launch as unmeasured. -/
def State.measured (s : State) (pkg : Nat) (ws : List Word) : Bool :=
  (placeWords ws).all (fun w =>
    let n := 4 * ((imageWords ws).getD (placeImage w) 0).toNat
    (placeCores w).all (fun c =>
      match tget (s.pkg pkg).images c with
      | some bs => decide (n ≤ bs.length) && readBytes s.mem (windowBase c + 0x120000) n == bs.take n
      | none => false))

/-- LAUNCH_RECORD (01 R20, 06 R173): the record is refused with a completion message, or its launch is set up to take effect. It waits until boot
is complete (13 R395) and while the package is IDLE (13 Table 13.3). -/
def launchRecord (pkg : Nat) (src : Source) (words : List Word) (s : State) : State :=
  if !(s.pkg pkg).booted || (s.pkg pkg).power = 2 then s.modPkg pkg (fun b => { b with waits := b.waits ++ [(src, words)] }) else
  let code := s.recordCode src words
  let l : Launch :=
    { src := src, pkg := pkg, launchId := recWord words 8, words := words,
      asid := fieldOf (recWord words 0x10) 0 16, root := (recWord words 0x18).toNat, rights := (recWord words 0x10).getLsbD 63 }
  if code ≠ 0 then s.sendCompletion l (bitRefused ||| BitVec.ofNat 64 code)
  else
    let u := { s with
      nextLaunch := s.nextLaunch + 1
      launches := tput s.launches s.nextLaunch
        { l with nodes := recNodes words, gbase := (s.freeBase (recNodes words).length).getD 0, gcount := gidShare (recNodes words).length } }
    -- the root's record, extension and home entry are kept for it (01 R22)
    (u.modCore (spawnTarget (recWord words 0x20)) (fun c => { c with reserved := c.reserved + 1 })).after 10 (.launchTakeEffect s.nextLaunch)

/-- The time from a launch's taking effect to its header's taking effect at a core (01 R22, Table 1.5): 13 cycles to the die's bothy gateway, one for
each hop, and one in which the shepherd writes. DESIGN CHOICE (log 56): to the cores of another package it goes from die 0's bothy gateway by the mesh
and the links of the route. -/
def State.headerTime (s : State) (pkg core : Nat) : Nat :=
  if pkgOf core = pkg then 14 + hops (pointOf (bothyFold (dieOf core))) (pointOf (foldOf core))
  else 14 + s.foldWay (bothyFold (pkg * 4)) (foldOf core)

/-- LAUNCH_TAKE_EFFECT (01 R21, R22): once the source's earlier stores are complete the header sets out for every placed core. -/
def launchTakeEffect (launch : Nat) (s : State) : State :=
  match tget s.launches launch with
  | none => s
  | some l =>
    let busy := match l.src with
      | .process name _ => match s.named name with
        | some (_, p) => s.hasStores p
        | none => false
      | .host => false
    if busy then s.after 1 (.launchTakeEffect launch)
    else
      let t := { s with launches := tput s.launches launch { l with started := true } }
      let u := if s.measured l.pkg l.words then t else t.modPkg l.pkg (fun b => { b with unmeasured := b.unmeasured + 1 })
      l.nodes.foldl (fun v c => v.after (s.headerTime l.pkg c) (.launchHeader launch c)) u

/-- The START by which the root of a launch comes to be (01 R22, 06 R171): at S, in the group GBASE. -/
def rootStart (l : Launch) (launch core : Nat) : StartMsg :=
  { dest := ⟨0, 0, 0⟩, from0 := core, core := core, spawn := recWord l.words 0x20, gid := l.gbase, level := 1,
    args := [recWord l.words 0x28, recWord l.words 0x30, recWord l.words 0x38, recWord l.words 0x40], launch := launch,
    member := none, newGroup := true }

/-- LAUNCH_HEADER (01 R22, 06 R174, R176, R177): the core enters the launch in its table with its node index, and WIN0, and its extension pool grows to
the areas of the record (DESIGN CHOICE, log 55: with several launches it has the most that one of them gives); the root's core makes the root, counts it once as sent and taken, and starts the first wave. -/
def launchHeader (launch core : Nat) (s : State) : State :=
  match tget s.launches launch, (List.range 16).find? (fun i => (tget s.ltab (core * 16 + i)).isNone) with
  | some l, some ix =>
    let node := (l.nodes.findIdx? (fun c => c == core)).getD 0
    let t := { s with ltab := tput s.ltab (core * 16 + ix) { launch := launch, node := node } }
    let u := t.modCore core (fun c => { c with
      extSize := max c.extSize (recExts l.words core), wins := c.wins.set! 0 (recWord l.words 0x58) })
    if node ≠ 0 then u
    else
      let u := u.modCore core (fun c => { c with reserved := c.reserved - 1 })
      let g : Group := { home := core, launch := launch, pending := 0, peers := (peerWords l.words).map u.peerEntry }
      let v := (u.putGroup l.gbase g).modLtabOf core launch (fun e => { e with sent := 1, taken := 1 })
      let r := v.create (rootStart l launch core)
      (match r.1.keyOf (r.2.toNat % 2 ^ 40) with
       | some k => r.1.bindInitial l k (evens (chanWords l.words))
       | none => r.1).after 1 (.detectionWave launch 0)
  | _, _ => s

/-! ### The done tree (06 R176, R177) -/

/-- DETECTION_WAVE (06 R177): the wave goes on to the node's children, and the node answers when it may. -/
def detectionWave (launch node : Nat) (s : State) : State :=
  match tget s.launches launch with
  | none => s
  | some l =>
    if (s.ltabOf (l.nodes.getD node 0) launch).isNone then s.after 1 (.detectionWave launch node)
    else
      let t := { s with launches := tput s.launches launch { l with reached := node :: l.reached } }
      let u := (childNodes l.nodes.length node).foldl (fun v c =>
        v.after (s.oneway (l.nodes.getD node 0) (l.nodes.getD c 0)) (.detectionWave launch c)) t
      if u.waveReady launch node then u.after 1 (.detectionAnswer launch node) else u

/-- The sums of two subtrees (06 R177). -/
def addSums (x y : Sums) : Sums :=
  { sent := x.sent + y.sent, taken := x.taken + y.taken, count := satCount (x.count + y.count), err := x.err ||| y.err }

/-- A launch is over (06 R177): its cores drop it, its groups' identifiers are free, and its source gets the completion message. -/
def State.endLaunch (s : State) (launch : Nat) (l : Launch) (r : Sums) : State :=
  let t := { s with
    ltab := s.ltab.filter (fun e => e.2.launch != launch)
    launches := tdel s.launches launch }
  t.sendCompletion l (r.err ||| BitVec.ofNat 64 r.count)

/-- Whether stores or atomics of a launch's processes are still to be performed from a core, or a bundle that one of them began to close is still to be
committed (06 R162, R177, 04 Table 4.7). -/
def State.writesLeft (s : State) (l : Launch) (core : Nat) : Bool :=
  let mine (gid : Nat) : Bool := decide (l.gbase ≤ gid) && decide (gid < l.gbase + l.gcount)
  (s.core core).sb.any (fun e => mine e.gid) ||
  s.bundles.any (fun b => b.2.core == core && mine b.2.gid) ||
  s.agenda.any (fun e => match e.2 with
    | .amoAtHome x => x.core == core && mine x.gid
    | .droverRequest _ r => r.core == core && mine r.gid
    | _ => false) ||
  s.drovers.any (fun d => d.2.held.any (fun r => r.req.core == core && mine r.req.gid) || d.2.waiting.any (fun r => r.core == core && mine r.gid))

/-- DETECTION_ANSWER (06 R177): a node whose LIVE is 0 and whose children have answered sends its sums up; at L[0] the launch completes
if the previous wave returned the same sums with SENT = TAKEN, and else the next wave starts. What the processes that it counted have written is performed first. -/
def detectionAnswer (launch node : Nat) (s : State) : State :=
  match tget s.launches launch with
  | none => s
  | some l =>
    if !s.waveReady launch node then s
    else if s.writesLeft l (l.nodes.getD node 0) then s.after 1 (.detectionAnswer launch node)
    else
      let core := l.nodes.getD node 0
      let own := match s.ltabOf core launch with
        | some e => { sent := e.sent, taken := e.taken, count := e.count, err := e.err : Sums }
        | none => {}
      let all := (l.answered.filter (fun a => (childNodes l.nodes.length node).contains a.1)).foldl (fun x a => addSums x a.2) own
      if node = 0 then
        if l.last = some all ∧ all.sent = all.taken then s.endLaunch launch l all
        else
          ({ s with launches := tput s.launches launch { l with reached := [], answered := [], last := some all } }).after 1
            (.detectionWave launch 0)
      else
        ({ s with launches := tput s.launches launch { l with answered := (node, all) :: l.answered } }).after
          (s.oneway core (l.nodes.getD (parentNode node) 0)) (.detectionAnswer launch (parentNode node))

end Sys2Proof.Machine
end

