-- ==== Sys2Proof/Machine/System.lean ====
section
/-! DEFINITION. The system instructions and the CSR instructions, majors 0x1D and 0x1E (05 R129 to R131), words that are no instruction
(03 R59), and the invalidation of translations (04 R82). -/

namespace Sys2Proof.Machine

/-! ### System instructions (05 Table 5.8) -/

/-- TRAP: TRAP_INSN with the address of the next word (05 R129, R132). -/
def execTrap (c : BitVec 12) (s : State) := onCur s (fun k p => s.raiseAt k causeTrapInsn (zext c) (p.wordPc + 4))

/-- SYSC: SYSCALL to the supervisor with the address of the next word (05 R129, R132). -/
def execSysc (c : BitVec 12) (s : State) := onCur s (fun k p => s.raiseAt k causeSyscall (zext c) (p.wordPc + 4))

/-- ERET (05 R129). -/
def execEret (s : State) := onCur s (fun k p => if utvAct p.utv then s.putProc k p.eret else s.illegal k)

/-- BRK: BREAK to the supervisor with the address of the BRK (05 R129). -/
def execBrk (c : BitVec 12) (s : State) := onCur s (fun k _ => s.raise k causeBreak (zext c))

/-- NOP (05 R129). -/
def execNop (s : State) := onCur s (fun k _ => s.retire k 0 [])

/-- A request for a snapshot trigger (13 R403): it takes T = now + 256 ns, joins a trigger that is pending, or, within 1 microsecond after T, is
counted and ignored. -/
def State.askSnapshot (s : State) (pkg : Nat) : State :=
  match (s.pkg pkg).snapAt with
  | some t =>
    if s.nanos ≤ t then s
    else if s.nanos ≤ t + 1000 then s.modPkg pkg (fun b => { b with ignored := b.ignored + 1 })
    else (s.modPkg pkg (fun b => { b with snapAt := some (s.nanos + 256) })).atCycle (gtcCycle (s.nanos + 256)) (.snapshotLatch pkg)
  | none => (s.modPkg pkg (fun b => { b with snapAt := some (s.nanos + 256) })).atCycle (gtcCycle (s.nanos + 256)) (.snapshotLatch pkg)

/-- SNAP (05 R129, 13 R403). -/
def execSnap (s : State) := onCur s (fun k p => (s.askSnapshot (pkgOf p.core)).retire k 0 [])

/-- SNAPSHOT_LATCH (13 R403): every block latches its snapshot registers at T; what they hold is read over IEEE 1149.1 only. -/
def snapshotLatch (pkg : Nat) (s : State) : State :=
  s.modPkg pkg (fun b => { b with latched := b.latched + 1, latchAt := s.gtc })

/-- NOT_AN_INSTRUCTION (03 R59): ILLEGAL with the word, from the address of the group's first word. -/
def execNotAnInstruction (w : IWord) (s : State) : Host.Outcome State Fault Refusal :=
  onCur s (fun k _ => s.raise k causeIllegal (BitVec.ofNat 64 w.toNat))

/-! ### Invalidations (04 R82) -/

/-- The way of a message from node i of a launch's tree to the root, hop by hop, at most eight levels (06 R177). -/
def State.treeTime (s : State) (nodes : List Nat) : Nat → Nat → Nat
  | 0, _ => 0
  | fuel + 1, i =>
    if i = 0 then 0
    else s.oneway (nodes.getD i 0) (nodes.getD (parentNode i) 0) + s.treeTime nodes fuel (parentNode i)

/-- The invalidations of a process that are not complete. -/
def State.invalsOf (s : State) (name : Nat) : List Nat :=
  ((s.cores.flatMap (fun e => e.2.invals)).filter (fun v => v.poster == name)).map Inval.id |>.dedup

/-- A number for a new invalidation. -/
def State.invalId (s : State) : Nat :=
  (leastFree ((s.cores.flatMap (fun e => e.2.invals)).map Inval.id) 1 65536).getD 0

/-- The invalidation that a TINV value asks for (04 Table 4.5). -/
def tinvOf (id name launch : Nat) (v : Word) : Inval :=
  { id := id, poster := name, launch := launch, asid := bitsOf v 48 16, vpage := bitsOf v 11 37, size := bitsOf v 9 2,
    all := v.getLsbD 8 }

/-- TINV_WRITE (04 R82): one invalidation sets out down the done tree of the writer's launch; a seventeenth waits. -/
def tinvWrite (core name : Nat) (val : Word) (s : State) : State :=
  match s.named name with
  | none => s
  | some (_, p) =>
    if 16 ≤ (s.invalsOf name).length then s.after 8 (.tinvWrite core name val)
    else
      match tget s.ltab (p.core * 16 + p.launch) with
      | none => s
      | some e =>
        let nodes := ((tget s.launches e.launch).map Launch.nodes).getD []
        let v := tinvOf s.invalId name e.launch val
        let up := s.oneway core (nodes.getD 0 core)
        (List.range nodes.length).foldl (fun t i =>
          let c := nodes.getD i 0
          (t.modCore c (fun x => { x with invals := x.invals ++ [v] })).after (up + s.treeTime nodes 64 i)
            (.invalidationArrival c v)) s

/-- Whether an invalidation names a cached translation (04 R82, Table 4.5). -/
def invalHits (v : Inval) (t : Tlb) : Bool :=
  (v.all || t.asid == v.asid) &&
  (v.size == 3 ||
    (let lo := v.vpage * 2 ^ 19
     let n := if v.size = 2 then 2 ^ 31 else if v.size = 1 then 2 ^ 25 else 2 ^ 19
     decide (t.va < lo + n) && decide (lo < t.va + t.size)))

/-- Whether an invalidation covers an address of an address space (04 R82, Table 4.5). -/
def invalCovers (v : Inval) (asid va : Nat) : Bool :=
  isPaged va && (v.all || asid == v.asid) &&
  (v.size == 3 ||
    (let lo := v.vpage * 2 ^ 19
     let n := if v.size = 2 then 2 ^ 31 else if v.size = 1 then 2 ^ 25 else 2 ^ 19
     decide (lo ≤ va) && decide (va < lo + n)))

/-- The loads and atomics of a core on their way to their targets. -/
def State.accessesOut (s : State) (core : Nat) : List Access :=
  ((s.agenda.filterMap (fun e =>
    match e.2 with
    | .amoAtHome x => some x
    | .remoteAccessArrival x => some x
    | .gatewayPacketArrival g => g.load
    | _ => none)) ++ s.seqHeld.flatMap (fun e => e.2.2.2.2.filterMap GPacket.load)).filter (fun x => x.core == core)

/-- Whether an access of a core that a dropped translation made is not performed yet (04 R82). -/
def State.usesDropped (s : State) (core : Nat) (v : Inval) : Bool :=
  (s.core core).sb.any (fun e => e.pa.isSome && !e.done && invalCovers v e.asid e.va) ||
  (s.accessesOut core).any (fun x => invalCovers v (((s.named x.name).map (fun e => s.asidOf e.2)).getD 0) x.va &&
    (match x.kind with | .store _ => false | _ => true))

/-- Whether an event belongs to a walk that an invalidation covers. -/
def walkHit (v : Inval) (fold : Nat) (e : Ev) : Option Xlat :=
  match e with
  | .pageWalkRead x _ _ => if foldOf x.core = fold && invalCovers v x.asid x.va then some x else none
  | .pageWalkEnd x _ => if foldOf x.core = fold && invalCovers v x.asid x.va then some x else none
  | _ => none

/-- The walks of a fold under way that an invalidation covers start anew: what they have read is dropped too (04 R82). -/
def State.restartWalks (s : State) (fold : Nat) (v : Inval) : State :=
  (s.agenda.filterMap (fun e => walkHit v fold e.2)).foldl (fun t x => t.walkRead x 1 x.root)
    { s with agenda := s.agenda.filter (fun e => (walkHit v fold e.2).isNone) }

/-- INVALIDATION_ARRIVAL (04 R82): the core drops the matching entries of its micro cache and of its fold translator. -/
def invalidationArrival (core : Nat) (v : Inval) (s : State) : State :=
  let t := s.modCore core (fun c => { c with tlb := c.tlb.filter (fun x => !invalHits v x) })
  let u := t.modFold (foldOf core) (fun f =>
    { f with trans := f.trans.map (fun e => (e.1, e.2.filter (fun x => !invalHits v x))) })
  (u.restartWalks (foldOf core) v).after 0 (.invalidationComplete core v)

/-- INVALIDATION_COMPLETE (04 R82): once no access by a dropped entry remains, the completion goes up the tree; after the last core's the
poster's fence may go on. -/
def invalidationComplete (core : Nat) (v : Inval) (s : State) : State :=
  if !(s.core core).invals.contains v then s
  else if s.usesDropped core v then s.after 1 (.invalidationComplete core v)
  else
    let t := s.modCore core (fun c => { c with invals := c.invals.filter (fun x => x != v) })
    if t.cores.any (fun e => e.2.invals.contains v) then t else t.storesChanged v.poster

/-! ### CSR instructions (05 R130) -/

/-- What checks precede an access of a CSR (05 R130, 03 R60): the number, then the level for reading and for writing. -/
def State.csrGate (s : State) (k : Nat) (p : Proc) (n : Nat) (writes : Bool) (go : State) : State :=
  match csrLevels n with
  | none => s.illegal k
  | some (rd, wr) =>
    if p.level < rd then s.raiseWord k causePriv
    else if writes then
      match wr with
      | some l => if p.level < l then s.raiseWord k causePriv else go
      | none => go
    else go

/-- A write of a CSR by an instruction that also puts the old value into d; none for an excluded value (05 R130). A write of a read-only register
changes nothing. -/
def State.csrPut (s : State) (k : Nat) (p : Proc) (n : Nat) (v : Word) : Option State :=
  if csrOfProcess n then (p.csrWrite n v).map (fun q => s.putProc k q) else s.coreCsrWrite p.core n v

/-- A CSR instruction that writes (05 R130): `f` makes the new value of the old one and the source. CSRS and CSRC (`bits`) of the value 0 change
no field, not even one that is cleared by writing ones. -/
def State.csrChange (s : State) (k : Nat) (p : Proc) (d : Reg) (a : Src) (n : Nat) (bits : Bool) (f : Word → Word → Word) : State :=
  s.csrGate k p n true (s.issue k p [srcField a 0] [d] (fun vals c =>
    let old := s.csrRead p n
    let v := f old (vals.getD 0 0)
    match (if bits && decide (vals.getD 0 0 = 0) then some s else s.csrPut k p n v) with
    | none => s.illegal k
    | some t =>
      if n = 0x7C8 then
        (if 16 ≤ (s.invalsOf p.name).length then s.park k .boundary else tinvWrite p.core p.name v (t.retire k c [(d, old)]))
      else t.retire k c [(d, old)]))

/-- CSRR. -/
def execCsrr (d : Reg) (n : BitVec 12) (s : State) :=
  onCur s (fun k p => s.csrGate k p n.toNat false (s.issue k p [] [d] (fun _ c => s.retire k c [(d, s.csrRead p n.toNat)])))

/-- CSRW. -/
def execCsrw (d : Reg) (a : Src) (n : BitVec 12) (s : State) :=
  onCur s (fun k p => s.csrChange k p d a n.toNat false (fun _ x => x))

/-- CSRS: with g0 it only reads. -/
def execCsrs (d : Reg) (a : Src) (n : BitVec 12) (s : State) :=
  onCur s (fun k p =>
    if a.reg = 0 then s.csrGate k p n.toNat false (s.issue k p [srcField a 0] [d] (fun _ c => s.retire k c [(d, s.csrRead p n.toNat)]))
    else s.csrChange k p d a n.toNat true (fun old x => old ||| x))

/-- CSRC: with g0 it only reads. -/
def execCsrc (d : Reg) (a : Src) (n : BitVec 12) (s : State) :=
  onCur s (fun k p =>
    if a.reg = 0 then s.csrGate k p n.toNat false (s.issue k p [srcField a 0] [d] (fun _ c => s.retire k c [(d, s.csrRead p n.toNat)]))
    else s.csrChange k p d a n.toNat true (fun old x => old &&& ~~~x))

end Sys2Proof.Machine
end

