-- ==== Sys2Proof/Machine/Bothy.lean ====
section
/-! DEFINITION. The bothy (13): messages of host and bothy ends (08 R244, R245), requests (R393), the health register (R400), the event log (R402),
life counters (R404), attestation (R396, R397) and keys (R398). -/

namespace Sys2Proof.Machine

/-! ### Words of replies -/

/-- A list cut or filled with zeros to a length. -/
def fitBytes (n : Nat) (bs : List Byte) : List Byte := (bs ++ List.replicate (n - bs.length) 0).take n

/-- The words that some bytes make, the last filled with zeros. -/
def byteWords (bs : List Byte) : List Word := leWords ((bs.length + 7) / 8) bs

/-- The fold, in the installation, of a fold's number 0 to 767 in its package (13 Table 13.2, R397). -/
def mapFold (pkg n : Nat) : Nat := pkg * 1024 + n / 192 * 256 + n % 192

/-- The fenced folds of a package, by number (13 R400). -/
def State.fencedFolds (s : State) (pkg : Nat) : List Nat := (List.range 768).filter (fun n => (s.fold (mapFold pkg n)).fenced)

/-- The 768-bit map of fenced folds. -/
def State.fencedMap (s : State) (pkg : Nat) : List Word :=
  let l := s.fencedFolds pkg
  (List.range 12).map (fun w => BitVec.ofNat 64 ((l.filter (fun n => n / 64 == w)).foldl (fun x n => x + 2 ^ (n % 64)) 0))

/-- The off-package links of a package that are not up. DESIGN CHOICE (log 61): those held down for want of a peer count too. -/
def State.linksDown (s : State) (pkg : Nat) : Nat := ((List.range 12).filter (fun n => !(s.link pkg n).up)).length

/-- The health register (13 Table 13.4); TMAX is a sensor's and open (log 6). It is 0 until firmware has started (R395). -/
def State.healthWord (s : State) (pkg : Nat) : Word :=
  let b := s.pkg pkg
  if !b.started then 0
  else BitVec.ofNat 64 (bitOf b.repl * 2 ^ 63 + bitOf (!b.hot.isEmpty) * 2 ^ 62 + bitOf (b.power == 1) * 2 ^ 61 + (s.fencedFolds pkg).length * 2 ^ 48 +
    s.freeWord.toNat % 256 * 2 ^ 40 + s.linksDown pkg * 2 ^ 36 + b.stackErr % 256 * 2 ^ 28 + min b.ue (2 ^ 24 - 1))

/-- An event record (13 Table 13.6). The address of a poisoned word is its DETAIL; the codes and what else an event says are open (log 6). -/
def eventWords (e : EventRec) : List Word :=
  let detail := if e.code = evUncorrected then e.detail % 2 ^ 48 else (Config.eventDetail e.code e.detail).toNat
  [BitVec.ofNat 64 e.time, BitVec.ofNat 64 (e.pkg % 4096 * 2 ^ 48 + e.dropped % 65536 * 2 ^ 32 + e.source % 2 ^ 29),
   BitVec.ofNat 64 ((Config.eventCode e.code).toNat * 2 ^ 48 + detail), Config.eventExtra e.code e.detail]

/-- Cycles in an hour of the core clock (00 R2). -/
def hourCycles : Nat := 1600000000 * 3600

/-- Life counters that count time are kept up to date when they are read or saved (13 R404). -/
def State.countTime (s : State) (pkg : Nat) : State :=
  let b := s.pkg pkg
  let t := s.addLife pkg lifeHours (s.cycle - b.onSince)
  let t := if b.power = 1 then t.addLife pkg lifeCap (s.cycle - b.capAt) else t
  let t := if b.hot.isEmpty then t else t.addLife pkg lifeThrottle (s.cycle - b.throttleAt)
  t.modPkg pkg (fun c => { c with onSince := s.cycle, capAt := s.cycle, throttleAt := s.cycle })

/-- The life counters as a reply gives them (13 Table 13.5), in the model's order of them; the temperature histograms are sensors' and open (log
6). -/
def State.lifeWords (s : State) (pkg : Nat) : List Word :=
  let v (n : Nat) : Nat := tgetD (s.pkg pkg).life n 0
  let count (ns : List Nat) : List Word := ns.map (fun n => BitVec.ofNat 64 (v n))
  [BitVec.ofNat 64 (v lifeHours / hourCycles)] ++ count [lifeBoots, lifePeer, lifeReports] ++
  [BitVec.ofNat 64 (v lifeCap / hourCycles), BitVec.ofNat 64 (v lifeThrottle / hourCycles)] ++
  (List.range 64).map (fun i => Config.freeWord (s.free + i)) ++
  count ((List.range 12).flatMap (fun n => [lifeReplay n, lifeAuth n, lifeDown n])) ++ count ((List.range 4).map lifeStomp) ++
  count ((List.range 8).map lifeStack) ++
  count ((List.range 4).flatMap (fun d => (List.range 15).flatMap (fun u => [lifeCorrected d u, lifeUncorrected d u])))

/-! ### Measurements (13 R396) -/

/-- A measurement register is extended by an item: SHAKE256 of the register and of the item's SHAKE256, 64 bytes each. -/
def extendReg (m item : List Byte) : List Byte := Config.shake256 (m ++ Config.shake256 item 64) 64

def State.extendMeas (s : State) (pkg reg : Nat) (item : List Byte) : State :=
  s.modPkg pkg (fun b => { b with meas := b.meas.set reg (extendReg (b.meas.getD reg []) item) })

/-- The attestation report but for its signature (13 R397). -/
def State.attestBody (s : State) (pkg : Nat) (nonce : List Word) : List Byte :=
  let b := s.pkg pkg
  fitBytes 120 (Config.identity pkg b.firmware) ++ b.meas.flatMap (fitBytes 64) ++ wordsLe [b.feature] ++ wordsLe (s.fencedMap pkg) ++
    wordsLe [BitVec.ofNat 64 b.unmeasured, BitVec.ofNat 64 s.gtc] ++ wordsLe ((List.range 4).map (fun i => nonce.getD i 0))

/-- The attestation report: 30,576 bytes (13 R397). -/
def State.attestReport (s : State) (pkg : Nat) (nonce : List Word) : List Byte :=
  let body := s.attestBody pkg nonce
  fitBytes 30576 (body ++ fitBytes 29792 (Config.slhSign pkg body))

/-! ### Messages that leave the mesh (08 R244, R245) -/

/-- Who sent a message to the bothy: the process and the pair of the end. -/
def State.senderOf (s : State) (m : Msg) : Source := .process m.sender (((s.endAt m.src).map (fun e => e.2.pair)).getD 0)

/-- The credit of a message that the bothy has taken goes back (07 R202). -/
def State.returnCredit (s : State) (dst : EndLoc) (m : Msg) : State := s.after (s.oneway dst.core m.src.core) (.creditReturn m.src)

/-- The words of a message. -/
def msgWords (m : Msg) : List Word := byteWords (bodyBytes m.body)

/-- A message of a host end becomes a frame, or, where the launch's source is a process, a message to it (08 R244, 13 Table 13.1). -/
def State.outMessage (s : State) (dst : EndLoc) (m : Msg) : State :=
  let e := s.endAt m.src
  if dst.ix = 3 then
    match (e.bind (fun x => tget s.launches x.2.launch)) with
    | some l => (s.toProcess l.src (bodyBytes m.body)).returnCredit dst m
    | none => s
  else
    s.putFrame (pkgOf dst.core) (tetherFrame 1 0 (m.sender % 2 ^ 40 + (e.map (fun x => x.2.handle)).getD 0 * 2 ^ 40) (msgWords m)) (some m.src)

/-- The request that an event of the bothy answers, if it does. -/
def requestOf (e : Ev) : Option BReq :=
  match e with
  | .attest q _ => some q
  | .health q => some q
  | .healthReplClear q => some q
  | .events q => some q
  | .counters q => some q
  | .snapshot q => some q
  | .keyput q _ _ _ => some q
  | .feature q _ => some q
  | .fenceFold q _ => some q
  | .image q _ _ _ => some q
  | .power q _ => some q
  | .killgroup q _ _ => some q
  | .imagekey q _ _ => some q
  | _ => none

/-- The requests of a source that the bothy has not answered (13 R393). -/
def State.unanswered (s : State) (src : Source) : Nat :=
  (s.agenda.filter (fun e => ((requestOf e.2).map BReq.from0) == some src)).length

/-- The step of the bothy that a request of a process asks for; none where it is malformed (13 R393, Table 13.2). What a request that only the
host may make carries is not read. -/
def requestEvent (q : BReq) (ws : List Word) : Option Ev :=
  let w0 := (ws.getD 0 0).toNat
  let w1 := ws.getD 1 0
  if w0 % 2 ^ 32 ≠ 0x52514F42 ∨ w0 / 2 ^ 40 % 2 ^ 8 ≠ 0 then none
  else
    match w0 / 2 ^ 32 % 2 ^ 8 with
    | 0x01 => if ws.length < 5 then none else some (.attest q ((ws.drop 1).take 4))
    | 0x02 => some (if w1.getLsbD 63 then .healthReplClear q else .health q)
    | 0x03 => some (.events q)
    | 0x04 => some (.counters q)
    | 0x05 => some (.snapshot q)
    | 0x06 => some (.keyput q 0 0 [])
    | 0x07 => some (.feature q w1)
    | 0x08 => some (.fenceFold q 0)
    | 0x09 => some (.image q [] [] [])
    | 0x0A => some (.power q 0)
    | 0x0B => some (.killgroup q 0 0)
    | 0x0C => some (.imagekey q [] [])
    | _ => none

/-- A launch record of a process as far as it has come (08 R245): the consecutive messages of its end are joined until LENGTH bytes have arrived. -/
def State.joinRecord (s : State) (pkg : Nat) (src : Source) (bs : List Byte) : State :=
  let old := ((s.pkg pkg).parts.find? (fun x => x.1 == src)).map Prod.snd
  let all := old.getD [] ++ bs
  let rest := (s.pkg pkg).parts.filter (fun x => x.1 != src)
  if ((byteWords all).getD 0 0).toNat / 2 ^ 40 ≤ all.length then
    (s.modPkg pkg (fun b => { b with parts := rest })).after 0 (.launchRecord pkg src (byteWords all))
  else s.modPkg pkg (fun b => { b with parts := rest ++ [(src, all)] })

/-- The bothy takes a message of a process (08 R245, 13 R393): a part of a launch record, or a request, which it answers a little later (log 4). -/
def State.takeRequest (s : State) (pkg : Nat) (src : Source) (bs : List Byte) : State :=
  let ws := byteWords bs
  let w0 := (ws.getD 0 0).toNat
  if (s.pkg pkg).parts.any (fun x => x.1 == src) || decide (w0 % 2 ^ 32 = 0x4C414E43) then s.joinRecord pkg src bs
  else
    let q : BReq := { pkg := pkg, from0 := src, tag := w0 / 2 ^ 48 }
    match requestEvent q ws with
    | some e => s.after 16 e
    | none => s.bothyReply q (w0 / 2 ^ 32 % 256) (match src with
        | .process name _ => if ((s.named name).map (fun x => x.2.level)) == some 0 then 1 else 2
        | .host => 2) []

/-- The bothy takes the messages that wait in their channels, but for those of a source with eight requests unanswered (13 R393). -/
def State.takeAsks (s : State) (pkg : Nat) : State :=
  let asks := (s.pkg pkg).asks
  (asks.foldl (fun (acc : State × List Source) x =>
    let src := acc.1.senderOf x.2
    if acc.2.contains src || decide (8 ≤ acc.1.unanswered src) then
      (acc.1.modPkg pkg (fun b => { b with asks := b.asks ++ [x] }), src :: acc.2)
    else ((acc.1.takeRequest pkg src (bodyBytes x.2.body)).returnCredit x.1 x.2, acc.2)) (s.modPkg pkg (fun b => { b with asks := [] }), [])).1

/-- MESSAGE_ENQUEUE (07 R202, R220; 08 R244, R245): a buffered message is in the ring queue of its receive end, or has reached the host's port or
the bothy. -/
def messageEnqueue (dst : EndLoc) (m : Msg) (s : State) : State :=
  if dst.core % 8 ≠ 7 then s.enqueueMsg dst m
  else if !s.reachable (pkgOf m.src.core) (pkgOf dst.core) then s.lostMessage dst m
  else
    let t := s.after (s.ackBack m dst.core) (.sendAck m dst)
    if dst.ix = 2 then (t.modPkg (pkgOf dst.core) (fun b => { b with asks := b.asks ++ [(dst, m)] })).takeAsks (pkgOf dst.core)
    else t.outMessage dst m

/-- TRANSFER_COMPLETE (07 R211, R212; 09 R295; 12 R383): a copy, a SENDA, a remote drain or a PERMX is complete. -/
def transferComplete (t : Transfer) (s : State) : State :=
  match t.job with
  | .copy ws asid root level gid => s.completeCopy t ws asid root level gid
  | .senda _ =>
    match s.endAt ⟨t.key / 512, t.key % 512, 0⟩ with
    | some (ke, _) => s.transferDone ke t.tid false
    | none => s
  | .drain rows hurt target off step wake gid level => s.completeDrain t rows hurt target off step wake gid level
  | .permx id => s.completePermx t id

/-! ### Requests (13 R393, Table 13.2) -/

/-- Whether a source may make a request: the host any, a process at S or above one that is not the host's alone. -/
def State.mayAsk (s : State) (q : BReq) (hostOnly : Bool) : Bool :=
  match q.from0 with
  | .host => true
  | .process name _ => !hostOnly && ((s.named name).map (fun x => decide (x.2.level ≠ 0))).getD false

/-- A request is answered: with status 1 where its source may not make it. Requests that waited behind it are taken. -/
def State.answering (s : State) (q : BReq) (op : Nat) (hostOnly : Bool) (go : State → State) : State :=
  (if s.mayAsk q hostOnly then go s else s.bothyReply q op 1 []).takeAsks q.pkg

/-- ATTEST (13 R397): the report in eight messages. -/
def attest (q : BReq) (nonce : List Word) (s : State) : State :=
  s.answering q 0x01 false (fun t =>
    (List.range 8).foldl (fun u i => u.bothyReply q 0x01 0 (byteWords (((t.attestReport q.pkg nonce).drop (4080 * i)).take 4080))) t)

/-- HEALTH (13 R393, Table 13.4). -/
def health (q : BReq) (s : State) : State :=
  s.answering q 0x02 false (fun t => (t.useFree).bothyReply q 0x02 0 (t.healthWord q.pkg :: t.fencedMap q.pkg))

/-- Whether a cause of REPL remains (13 R400): a stack's errors, eight fenced folds, a link that has been down for 24 hours while its peer is up. -/
def State.replaced (s : State) (pkg : Nat) : Bool :=
  (s.pkg pkg).replCause || decide (8 ≤ (s.fencedFolds pkg).length) ||
  (List.range 12).any (fun n =>
    let l := s.link pkg n
    !l.up && decide (l.downs ≠ 0) && decide (l.downAt + dayCycles ≤ s.cycle) && s.packages.contains l.peer && (s.pkg l.peer).power != 3)

/-- HEALTH_REPL_CLEAR (13 Table 13.4): REPL is cleared, and set again at once if its cause remains. -/
def healthReplClear (q : BReq) (s : State) : State :=
  s.answering q 0x02 true (fun t =>
    let u := t.modPkg q.pkg (fun b => { b with repl := t.replaced q.pkg })
    (u.useFree).bothyReply q 0x02 0 (u.healthWord q.pkg :: u.fencedMap q.pkg))

/-- EVENTS (13 R393, R402): the oldest 127 records, which leave the log. -/
def events (q : BReq) (s : State) : State :=
  s.answering q 0x03 false (fun t =>
    (t.modPkg q.pkg (fun b => { b with log := b.log.drop 127 })).bothyReply q 0x03 0 (((t.pkg q.pkg).log.take 127).flatMap eventWords))

/-- COUNTERS (13 R393, R404). -/
def counters (q : BReq) (s : State) : State :=
  s.answering q 0x04 false (fun t =>
    let u := t.countTime q.pkg
    { u with free := u.free + 64 }.bothyReply q 0x04 0 (u.lifeWords q.pkg))

/-- SNAPSHOT (13 R403). -/
def snapshot (q : BReq) (s : State) : State := s.answering q 0x05 false (fun t => (t.askSnapshot q.pkg).bothyReply q 0x05 0 [])

/-- The nonce of a KEYPUT: 32 zero bits and the 64-bit count (13 R398). -/
def keyputNonce (count : Nat) : List Byte := List.replicate 4 0 ++ leBytes 8 count

/-- KEYPUT (13 R396, R398): the key and salt sealed under the session key are installed; a wrong tag or a count used before is status 2. -/
def keyput (q : BReq) (index count : Nat) (sealed : List Byte) (s : State) : State :=
  s.answering q 0x06 true (fun t =>
    let b := t.pkg q.pkg
    let n := sealed.length - 16
    match (if index < 1024 ∧ !b.counts.contains count then b.session.bind (fun k =>
        Config.gcmOpen k (keyputNonce count) [] (sealed.take n) (sealed.drop n)) else none) with
    | some ks => (t.modPkg q.pkg (fun c => { c with keys := tput c.keys index (fitBytes 36 ks), counts := c.counts ++ [count] })).bothyReply q 0x06 0 []
    | none => t.bothyReply q 0x06 2 [])

/-- FEATURE (13 R393, 12 R370): bits of the feature word are cleared, before boot completes. -/
def feature (q : BReq) (mask : Word) (s : State) : State :=
  s.answering q 0x07 true (fun t =>
    if (t.pkg q.pkg).booted then t.bothyReply q 0x07 1 []
    else (t.modPkg q.pkg (fun b => { b with feature := b.feature &&& ~~~(mask &&& 0x3E00000000) })).bothyReply q 0x07 0 [])

/-- Whether a fold is quiescent (13 R400): no process lives on its cores, and its engines hold no work. -/
def State.foldQuiet (s : State) (fold : Nat) : Bool :=
  (s.inFolds [fold]).isEmpty && !s.cores.any (fun e => foldOf e.1 == fold && (!e.2.sb.isEmpty || e.2.run.isSome || decide (e.2.reserved ≠ 0))) &&
  (s.fold fold).spe.jobs.isEmpty && (s.fold fold).tapes.isEmpty && !s.trafficIn [fold]

/-- A fold is fenced off, or not (13 R400): with eight of a package REPL is set. -/
def State.fence (s : State) (pkg fold : Nat) (on : Bool) : State :=
  let t := s.modFold fold (fun f => { f with fenced := on })
  let u := if on then t.logEvent pkg (foldSource fold unitBothy) evFence fold else t
  if 8 ≤ (u.fencedFolds pkg).length then u.modPkg pkg (fun b => { b with repl := true }) else u

/-- FENCE_FOLD (13 R393, R400): status 3 while the fold is not quiescent. -/
def fenceFold (q : BReq) (fold : Nat) (s : State) : State :=
  s.answering q 0x08 true (fun t =>
    if 768 ≤ fold then t.bothyReply q 0x08 2 []
    else if !t.foldQuiet (mapFold q.pkg fold) then t.bothyReply q 0x08 3 []
    else (t.fence q.pkg (mapFold q.pkg fold) true).bothyReply q 0x08 0 [])

/-- IMAGE (13 R395, R396, R398): an image that verifies with the installation's image key is written into the ISTOREs of its cores and measured; any
other is status 2 and not written. -/
def image (q : BReq) (cores : List Nat) (img : List Byte) (signature : List Byte) (s : State) : State :=
  s.answering q 0x09 true (fun t =>
    let good := match (t.pkg q.pkg).imageKey with
      | some d => Config.slhVerify d img signature
      | none => false
    if !good || decide (65536 < img.length) || !cores.all (fun c => coreIdOk c && t.packages.contains (pkgOf c)) then t.bothyReply q 0x09 2 []
    else
      let u := cores.foldl (fun v c => (v.writeMem (windowBase c + 0x120000) img).modPkg q.pkg (fun b => { b with images := tput b.images c img })) t
      (u.extendMeas q.pkg 2 img).bothyReply q 0x09 0 [])

/-- KILLGROUP (13 R393, R394): a group of the launch of that LAUNCHID is killed as by KILLG; the answer comes when it is released. -/
def killgroup (q : BReq) (gid : Nat) (launchId : Word) (s : State) : State :=
  if !s.mayAsk q true then s.answering q 0x0B true (fun t => t)
  else
    match s.group? gid with
    | none => s.bothyReply q 0x0B 2 []
    | some g =>
      if (tget s.launches g.launch).map Launch.launchId ≠ some launchId then s.bothyReply q 0x0B 2 []
      else if g.killed.isSome then s.bothyReply q 0x0B 3 []
      else (s.askKill q).startKill gid g (s.headerTime q.pkg g.home) ⟨0, 0, 0⟩ (some q)

/-- IMAGEKEY (13 R398): a first key, or one that the current key has signed, becomes the installation's image key. -/
def imagekey (q : BReq) (key signature : List Byte) (s : State) : State :=
  s.answering q 0x0C true (fun t =>
    let good := match (t.pkg q.pkg).imageKey with
      | some d => Config.slhVerify d key signature
      | none => true
    if good then ((t.modPkg q.pkg (fun b => { b with imageKey := some (Config.shake256 key 64) })).extendMeas q.pkg 1 key).bothyReply q 0x0C 0 []
    else t.bothyReply q 0x0C 1 [])

/-- MEASUREMENT_REQUEST (13 R396): the firmware extends one of registers 3 to 7. -/
def measurementRequest (pkg register : Nat) (item : List Byte) (s : State) : State :=
  if 3 ≤ register ∧ register ≤ 7 then s.extendMeas pkg register item else s

end Sys2Proof.Machine
end

