-- ==== Sys2Proof/Machine/Futures.lean ====
section
/-! DEFINITION. Futures, major 0x15 (05 R122, R123). -/

namespace Sys2Proof.Machine

/-- Whether an address is a future cell for a core: a word of a scratchpad or of the SRAM of its own fold (05 R122). -/
def isCell (core pa : Nat) : Bool :=
  match placeOf pa with
  | .core c off => foldOf c == foldOf core && rowOf off == .scratch && rowBacked c off
  | .sram f _ => f == foldOf core
  | _ => false

/-- A future instruction's cell: aligned, translated, of the own fold, and open to a process at U (05 R122, 04 R77). -/
def State.withCell (s : State) (k : Nat) (p : Proc) (a : Word) (needR needW : Bool) (go : State → Nat → State) : State :=
  if a.toNat % 8 ≠ 0 then s.raise k causeMisalign a
  else s.withPage k p a.toNat needR needW (fun t pa =>
    if t.overlapping p a.toNat pa 8 then t.park k .stores
    else
    let t := t.beforeRead p pa 8
    if !isCell p.core pa then t.raise k causeLoadFault a
    else if !t.passes p.core p.gid p.level pa 8 needR needW then t.raise k causeWindowNak (BitVec.ofNat 64 pa)
    else if needR && t.poisoned pa 8 then t.raise k causeLoadFault a
    else go t pa)

/-- FRD (05 R123): the process waits in its slot for the fold's answer. -/
def execFrd (d : Reg) (a : Src) (tb cb : BitVec 1) (s : State) :=
  onCur s (fun k p => s.issue k p [srcField a 0] [d] (fun vals c =>
    s.withCell k p (vals.getD 0 0) true (cb = 1) (fun t pa =>
      (t.modProc k (fun q => { q with
        st := .parked, wait := .frd, blockedAt := s.cycle, hold := some { consume := c, issuedAt := s.cycle } })).after
        (2 * t.wayTo p.core pa + 2)
        (.frdAnswer { name := p.name, core := p.core, va := (vals.getD 0 0).toNat, addr := pa, t := tb = 1, c := cb = 1, reg := d }))))

/-- FRD_ANSWER (05 R123): the value with its tag, or FUTURE_EMPTY, or the wait for the cell, which is registered if the fold's table
of 64 has room and is else tried again at the next rotation boundary. -/
def frdAnswer (f : FrdReq) (s : State) : State :=
  s.modNamed f.name (fun k p t =>
    if p.wait ≠ .frd then t
    else if t.ftags.contains f.addr then
      let v := BitVec.ofNat 64 (t.loadPhys f.addr 8)
      (if f.c then { t with ftags := t.ftags.filter (fun a => a != f.addr) } else t).complete k [(f.reg, v)]
    else if f.t then
      (t.putProc k { p with st := .resident, wait := .none, hold := none }).raise k causeFutureEmpty (BitVec.ofNat 64 f.va)
    else
      let fo := foldOf p.core
      let u := t.putProc k { p with hold := none }
      let w : Wait := if (t.fold fo).cellWait.length < 64 then .cell f.addr else .boundary
      let u1 := if (t.fold fo).cellWait.length < 64
        then u.modFold fo (fun y => { y with cellWait := y.cellWait ++ [(p.name, f.addr)] }) else u
      if p.heavy then u1.park k w else u1.block k w)

/-- Every process that waits for a cell tries again (05 R123). -/
def State.wakeCell (s : State) (fo pa : Nat) : State :=
  let ws := (s.fold fo).cellWait.filter (fun w => w.2 == pa)
  ws.foldl (fun t w => t.modNamed w.1 (fun k p u => if p.wait = .cell pa then u.ready k else u))
    (s.modFold fo (fun y => { y with cellWait := y.cellWait.filter (fun w => w.2 != pa) }))

/-- FWR (05 R123): value and tag in one step, and the waiters wake. -/
def execFwr (a b : Src) (s : State) :=
  onCur s (fun k p => s.issue k p [srcField a 0, srcField b 1] [] (fun vals c =>
    s.withCell k p (vals.getD 0 0) false true (fun t pa =>
      let u := t.writeNum pa 8 (vals.getD 1 0).toNat
      (({ u with ftags := insertAddr pa u.ftags }).wakeCell (foldOf p.core) pa).retire k c [])))

/-- FCLR (05 R123). -/
def execFclr (a : Src) (s : State) :=
  onCur s (fun k p => s.issue k p [srcField a 0] [] (fun vals c =>
    s.withCell k p (vals.getD 0 0) false true (fun t pa =>
      ({ t with ftags := t.ftags.filter (fun x => x != pa) }).retire k c [])))

end Sys2Proof.Machine
end

