-- ==== Sys2Proof/Machine/Gateways.lean ====
section
/-! DEFINITION. PEER, LKEY and LSTAT (12 R374 to R376), link training (R376) and its consequences (13 R400), and stomped packets of
channels (12 R369, 07 R221). -/

namespace Sys2Proof.Machine

/-! ### PEER (12 R370, R374) -/

/-- The bits of a that PEER defines: the group, CLEARU, WRITE, CLEAR, the index (12 R374). -/
def peerFields : Word := 0xFFFF00000000073F

/-- What PEER does to a group, if it may, and what it fills d with (12 R374). -/
def State.peerAct (s : State) (gid : Nat) (g : Group) (a b : Word) : Word × State :=
  let i := a.toNat % 64
  let old := g.peers.getD i 0
  let ans := (old &&& ~~~(3 : Word)) ||| (if g.failBits.getLsbD i then 1 else 0) ||| (if g.unnamed then 2 else 0)
  let bit : Word := BitVec.ofNat 64 (2 ^ i)
  let ps := g.peers ++ List.replicate (64 - g.peers.length) 0
  let g1 := if a.getLsbD 9 then { g with peers := ps.set i (s.peerEntry b), failBits := g.failBits &&& ~~~bit } else g
  let g2 := if a.getLsbD 8 then { g1 with failBits := g1.failBits &&& ~~~bit } else g1
  let g3 := if a.getLsbD 10 then { g2 with unnamed := false } else g2
  (ans, s.putGroup gid g3)

/-- PEER (12 R374): a package outside the installation, or the issuer's own, cannot be written. -/
def execPeer (d : Reg) (a b : Src) (s : State) :=
  onCur s (fun k p => s.needS k p (s.issueFill k p [srcField a 0, srcField b 1] d (fun vals c =>
    let x := vals.getD 0 0
    let y := vals.getD 1 0
    let gid := if x.toNat / 2 ^ 48 = 0 then p.gid else x.toNat / 2 ^ 48
    let pkg := (y.extractLsb' 48 12).toNat
    if x &&& ~~~peerFields ≠ 0 || y &&& ~~~(0x8FFF000000000000 : Word) ≠ 0 then s.illegal k
    else
      let t := s.produce k d
      let fail (n : Nat) : State := (t.after 1 (.peerAnswer (p.dest d) (failWord n))).retire k c []
      match s.group? gid with
      | none => fail 0x07
      | some g =>
        if p.level ≠ 2 && !s.supervises p gid then fail 0x07
        else if x.getLsbD 9 && y.getLsbD 63 && (!s.packages.contains pkg || pkg == pkgOf p.core) then fail 0x48
        else
          let r := t.peerAct gid g x y
          (r.2.after (2 * s.oneway p.core g.home) (.peerAnswer (p.dest d) r.1)).retire k c [])))

/-- PEER_ANSWER (12 R374). -/
def peerAnswer (dest : FillTo) (val : Word) (s : State) : State := fill dest val s

/-! ### LKEY (12 R367, R368, R375) -/

/-- A key-store entry as a key slot: 32 bytes of key, 4 of salt (12 R367). -/
def keySlotOf (bs : List Byte) : KeySlot := { key := bs.take 32, salt := (bs.drop 32).take 4 }

/-- Whether a switch of a link's transmit slot is not yet acknowledged (12 Table 12.7). -/
def Link.switchPending (l : Link) : Bool := l.mark || l.markSeq.isSome

/-- LKEY once its operands are good: the failure code, or the state with the link changed, and whether d waits for the marker flit. -/
def State.keyAct (s : State) (pkg n slot : Nat) (rx switch_ : Bool) (entry : Nat) (dest : FillTo) : Nat ⊕ (State × Bool) :=
  let l := s.link pkg n
  if !l.up && l.downs = 0 then .inl 0x43
  else if switch_ then
    if l.switchPending || l.active = slot then .inl 0x41
    else if (l.tx.toList.getD slot none).isNone then .inl 0x42
    else .inr ((s.modLink pkg n (fun x => { x with active := slot, mark := true, switching := some dest })).drainLink pkg n 65, true)
  else
    match tget (s.pkg pkg).keys entry with
    | none => .inl 0x40
    | some bs =>
      if rx then .inr (s.modLink pkg n (fun x => { x with rx := x.rx.set! slot (some (keySlotOf bs)) }), false)
      else if l.switchPending || l.active = slot then .inl 0x41
      else .inr (s.modLink pkg n (fun x => { x with tx := x.tx.set! slot (some (keySlotOf bs)) }), false)

/-- LKEY (12 R375), at M. -/
def execLkey (d : Reg) (a b : Src) (s : State) :=
  onCur s (fun k p =>
    if p.level ≠ 2 then s.raiseWord k causePriv
    else s.issueFill k p [srcField a 0, srcField b 1] d (fun vals c =>
      let x := vals.getD 0 0
      let y := vals.getD 1 0
      let n := x.toNat % 16
      let rx := x.getLsbD 5
      let sw := x.getLsbD 6
      let ld := x.getLsbD 7
      if 256 ≤ x.toNat || 12 ≤ n || sw == ld || (sw && (rx || y ≠ 0)) || (ld && decide (2 ^ 16 ≤ y.toNat)) then s.illegal k
      else
        let t := s.produce k d
        let way := 2 * (if foldOf p.core = bothyFold (dieOf p.core) then 3 else s.foldWay (foldOf p.core) (bothyFold (dieOf p.core)))
        match t.keyAct (pkgOf p.core) n (bitOf (x.getLsbD 4)) rx sw y.toNat (p.dest d) with
        | .inl code => (t.after way (.keyInstalled (p.dest d) (failWord code))).retire k c []
        | .inr (u, waits) => (if waits then u else u.after way (.keyInstalled (p.dest d) 0)).retire k c []))

/-- KEY_INSTALLED (12 R375). -/
def keyInstalled (dest : FillTo) (val : Word) (s : State) : State := fill dest val s

/-! ### LSTAT (12 R376) -/

/-- Two slots as bits: bit k is set where slot k holds a key. -/
def slotBits (v : Vector (Option KeySlot) 2) : Nat := bitOf (v.toList.getD 0 none).isSome + 2 * bitOf (v.toList.getD 1 none).isSome

/-- The value of an item (12 Table 12.8). -/
def State.linkItem (s : State) (core item pkg n : Nat) : Word :=
  let me := pkgOf core
  let l := s.link me n
  match item with
  | 0 => BitVec.ofNat 64
      (bitOf l.up * 2 ^ 63 + l.active * 2 ^ 62 + slotBits l.tx * 2 ^ 60 + slotBits l.rx * 2 ^ 58 + l.peer % 4096 * 2 ^ 36 +
        l.peerLink % 16 * 2 ^ 32 + s.hopTime me n % 65536)
  | 1 => BitVec.ofNat 64 l.replays
  | 2 => BitVec.ofNat 64 l.authFail
  | 3 => BitVec.ofNat 64 (tgetD (s.pkg me).stomps (dieOf core % 4) 0)
  | 4 => BitVec.ofNat 64 ((l.txSlot.map KeySlot.cnt).getD 0)
  | 5 => if s.packages.contains pkg && s.reachable me pkg then BitVec.ofNat 64 (s.routeTime me pkg) else allOnes
  | _ => if l.up then (s.pkg l.peer).feature &&& 0x3E00000000 else 0

/-- LSTAT (12 R376). -/
def execLstat (d : Reg) (a : Src) (s : State) :=
  onCur s (fun k p => s.issue k p [srcField a 0] [d] (fun vals c =>
    let x := vals.getD 0 0
    let item := x.toNat / 2 ^ 60
    let n := x.toNat % 16
    if 7 ≤ item || 12 ≤ n || x &&& 0x0000FFFFFFFFFFF0 ≠ 0 then s.illegal k
    else s.retire k c [(d, s.linkItem p.core item (x.toNat / 2 ^ 48 % 4096) n)]))

/-! ### Training (12 R376, 13 R400) -/

/-- One end of a link that comes up. -/
def State.linkUp (s : State) (pkg n peer hop : Nat) : State :=
  s.modLink pkg n (fun l => { l with
    up := true, peer := peer, peerLink := farLink n, hop := hop, nextSeq := 0, expected := 0, sent := [], markSeq := none, lastAck := s.cycle })

/-- LINK_TRAINING (12 R376): both ends come up with the latency measured, where the peer is the package at the link's end; any other link is
held down, with no peer. -/
def linkTraining (link peer hop : Nat) (s : State) : State :=
  let pkg := link / 12
  let n := link % 12
  if s.packages.contains pkg && s.packages.contains peer && peer == linkNeighbour pkg n && peer != pkg then
    (((s.linkUp pkg n peer hop).linkUp peer (farLink n) pkg hop).drainLink pkg n 65).drainLink peer (farLink n) 65
  else s

/-- LINK_DOWN_24_HOURS (13 R400): REPL is set if the link has been down since, with its peer up. -/
def linkDown24Hours (link : Nat) (s : State) : State :=
  let l := s.link (link / 12) (link % 12)
  if !l.up && decide (l.downAt + dayCycles = s.cycle) && s.packages.contains l.peer && (s.pkg l.peer).power != 3 then
    s.modPkg (link / 12) (fun b => { b with repl := true })
  else s

/-! ### Stomped packets (12 R369, 07 R221) -/

/-- Whether an event in flight carries a message to an end: as an offer, into a ring queue, as the data of a matched block or tile, or as a
drover's request. -/
def carries (dst : EndLoc) (m : Msg) (e : Ev) : Bool :=
  match e with
  | .offerArrival d x => d == dst && x == m
  | .messageEnqueue d x => d == dst && x == m
  | .transferDataWritten x => epKey x.core x.dst.ix == locKey dst && x.msg == m &&
      (match m.body with | .place _ _ _ _ _ => true | _ => false)
  | .droverRequest _ r => r.msg == m
  | _ => false

/-- A matched block or tile whose data is discarded is not received yet (07 R221): its acknowledgement does not set out, and the receive waits for
it as before. -/
def State.unmatch (s : State) (x : Xfer) : State :=
  let t := { s with agenda := s.agenda.filter (fun e => match e.2 with | .sendAck m _ => m != x.msg | _ => true) }
  let u := match x.tile with
    | some n => t.modTile (x.core * 32 + n) (fun y => { y with st := .ready })
    | none => t
  let v := match x.msg.tile with
    | some n => u.modTile n (fun y => { y with st := if y.st = TileSt.draining then TileSt.ready else y.st })
    | none => u
  v.modNamed x.receiver (fun k p w =>
    match p.hold, x.reg with
    | some h, some r =>
      let rx : Rx := { reg := r, tag := BitVec.ofNat 2 h.arg, at0 := h.issuedAt, off := x.off, room := bodyLen x.msg.body, step := x.step,
                       rowBytes := x.rowBytes, tile := x.tile }
      (w.putProc k { p with hold := some { h with arg2 := 0 } }).modEp (epKey x.core x.dst.ix) (fun e => { e with
        rx := some rx, waitK := 1, st := if e.st = EpSt.opened then EpSt.wait else e.st })
    | _, _ => w)

/-- PACKET_STOMP (12 R369): the receiver discards the whole packet, the gateway that found the error counts it, and the sender will notice
that no acknowledgement comes. -/
def packetStomp (die : Nat) (dst : EndLoc) (m : Msg) (s : State) : State :=
  if s.agenda.any (fun e => carries dst m e.2) then
    let t := (s.agenda.filter (fun e => carries dst m e.2)).foldl (fun t e => match e.2 with | .transferDataWritten x => t.unmatch x | _ => t)
      { s with agenda := s.agenda.filter (fun e => !carries dst m e.2) }
    let pkg := die / 4
    let u := t.modPkg pkg (fun b => { b with stomps := tput b.stomps (die % 4) (sat32 (tgetD b.stomps (die % 4) 0 + 1)) })
    ((u.logEvent pkg (dieSource die 0 unitGateway) evStomp 0).addLife pkg (lifeStomp (die % 4)) 1).after
      (s.ackWait (pkgOf m.src.core) (pkgOf dst.core)) (.ackTimeout dst m)
  else s

/-- ACK_TIMEOUT (12 R369, 07 R221): on a channel with RETRY the message is sent again; on any other both ends become DEAD. -/
def ackTimeout (dst : EndLoc) (m : Msg) (s : State) : State :=
  match s.endAt m.src with
  | none => s
  | some (ke, e) =>
    if e.st = .dead then s
    else if typRetry e.typ && e.server.isSome then s.sendOut e m
    else if typRetry e.typ then
      let way := s.oneway m.src.core dst.core + (if isBulk m.body && typQueued e.typ then s.dataTime m.src.core dst.core (bodyLen m.body) else 0)
      s.after way (if typQueued e.typ then .messageEnqueue dst m else .offerArrival dst m)
    else
      let t := match s.endAt dst with
        | some (kd, _) => s.killEnd kd
        | none => s
      t.killEnd ke

end Sys2Proof.Machine
end

