-- ==== Sys2Proof/Machine/Power.lean ====
section
/-! DEFINITION. Power-on, boot and reset (13 R395, R396, R405; 11 R335), power states and thermal limits (R399), the patrol scrubber (R401), life
counters (R404), and the frames and training of the tether port (R392, R398). -/

namespace Sys2Proof.Machine

/-! ### A package that loses its state -/

/-- The core, or a core of the fold or die, at which an event in flight happens, where that is fixed. -/
def eventHome (e : Ev) : Option Nat :=
  match e with
  | .rotationBoundary c => some c
  | .quantumExpiry c _ => some c
  | .budgetExhausted c => some c
  | .urgentWindowEnd c => some c
  | .xwrDelivery x => some x.core
  | .xwrWrite x => some x.core
  | .storeTranslate c _ => some c
  | .translatorLookupDone x => some x.core
  | .pageWalkRead x _ _ => some x.core
  | .pageWalkEnd x _ => some x.core
  | .storeAck c _ => some c
  | .storeNak c _ _ => some c
  | .remoteAccessArrival x => some x.core
  | .amoAtHome x => some x.core
  | .slotRegisterWrite c _ _ _ => some c
  | .tinvWrite c _ _ => some c
  | .csrWindowWrite c _ _ => some c
  | .invalidationArrival c _ => some c
  | .invalidationComplete c _ => some c
  | .launchHeader _ c => some c
  | .start m => some m.core
  | .killArrival _ c => some c
  | .migrationArrival m => some m.target
  | .offerArrival d _ => some d.core
  | .offerResend d _ => some d.core
  | .receiveAnnounce d => some d.core
  | .transferDataWritten x => some x.core
  | .sendAck m _ => some m.src.core
  | .messageEnqueue d _ => some d.core
  | .creditReturn d => some d.core
  | .wakeup d => some d.core
  | .peerDeleted d => some d.core
  | .endpointInstall v => some v.core
  | .transferComplete t => some t.core
  | .joinRecorded _ c _ _ _ => some c
  | .mcastDelivery k _ => some (k / 512)
  | .packetStomp _ d _ => some d.core
  | .ackTimeout d _ => some d.core
  | .serverAnswer r => some r.core
  | .droverRequest n _ => some (n / 64 * 2048)
  | .slicePass n _ => some (n / 64 * 2048)
  | .droverAccessEnd n _ => some (n / 64 * 2048)
  | .droverReplyRelease n => some (n / 64 * 2048)
  | .dispenserQuery n _ => some (n / 16 * 2048)
  | .deadlineArm f => some (f * 8)
  | .deadlineFire f _ => some (f * 8)
  | .linkLostTimeout x => some x.core
  | .tileTransferComplete c _ => some c
  | .drainComplete c _ => some c
  | .tileOpComplete c => some c
  | .kGroupDone c => some c
  | .tileCommandArrival c => some c.core
  | .speTreeEntry f _ => some (f * 8)
  | .speRetire f _ => some (f * 8)
  | .bldAtHome r => some r.core
  | .regionArrival u _ => some (if u % 2 = 0 then u / 2 * 8 else u / 128 * 2048)
  | _ => none

/-- A package loses the state of its compute dies: every process, core, fold, end, tile and engine, what is in flight there, and its links; folds
stay fenced (13 R400), and every fold's sum-product engine starts anew (11 R335). -/
def State.dropPackage (s : State) (pkg : Nat) : State :=
  let out (core : Nat) : Bool := pkgOf core != pkg
  let folds := (List.range 768).foldl (fun (t : Tab FoldS) n =>
    tput t (mapFold pkg n) { fenced := (s.fold (mapFold pkg n)).fenced, spe := { order0 := s.cycle } }) s.folds
  State.dropKills (pkg := pkg) { s with
    agenda := s.agenda.filter (fun e => ((eventHome e.2).map out).getD true)
    turns := s.turns.filter out
    group := none
    procs := s.procs.filter (fun e => out (e.1 / 256))
    dir := s.dir.filter (fun e => out (e.2 / 256))
    cores := s.cores.filter (fun e => out e.1)
    slots := s.slots.filter (fun e => out (e.1 / 8))
    folds := folds
    ltab := s.ltab.filter (fun e => out (e.1 / 16))
    launches := s.launches.filter (fun e => e.2.pkg != pkg)
    groups := s.groups.filter (fun e => out e.2.home)
    supq := s.supq.filter (fun e => e.1 / 2 ^ 28 != pkg)
    heldNotes := s.heldNotes.filter (fun e => e.1 / 2 ^ 28 != pkg)
    xwrs := s.xwrs.filter (fun x => out x.core)
    links := s.links.map (fun e => if e.1 / 12 = pkg then (e.1, { e.2 with up := false, downAt := s.cycle }) else e)
    quiet := s.quiet.filter (fun q => q.2.1.all (fun f => out (f * 8)))
    eps := s.eps.filter (fun e => out (e.1 / 512))
    drovers := s.drovers.filter (fun e => e.1 / 256 != pkg)
    disps := s.disps.filter (fun e => e.1 / 64 != pkg)
    tiles := s.tiles.filter (fun e => out (e.1 / 32))
    landings := s.landings.filter (fun e => if e.1 % 2 = 0 then out (e.1 / 2 * 8) else e.1 / 2 / 256 != pkg)
    permxs := s.permxs.filter (fun e => out e.2.core)
    bundles := s.bundles.filter (fun e => out e.2.core)
    pendLines := s.pendLines.filter (fun e => pkgOfAddr e.1 != pkg)
    prevLines := s.prevLines.filter (fun e => pkgOfAddr e.1 != pkg)
    shadows := s.shadows.filter (fun e => pkgOfAddr e.1 != pkg) }

/-- Whether an address lies in a fold engine block (04 R73). -/
def inSpe (a : Nat) : Bool :=
  match placeOf a with
  | .spe _ _ => true
  | _ => false

/-- The memory of a package as a fold reset leaves it (11 R335): entries and weights are 0; with `all`, nothing of it is left. -/
def State.wipe (s : State) (pkg : Nat) (all : Bool) : State :=
  let gone (a : Nat) : Bool := pkgOfAddr a == pkg && (all || inSpe a)
  { s with mem := s.mem.filter (fun c => !gone c.1), poison := s.poison.filter (fun a => !gone a),
           ftags := s.ftags.filter (fun a => !(pkgOfAddr a == pkg && all)) }

/-! ### Power-on, boot, reset -/

/-- POWER_ON (13 R395, R396, R400; 11 R335): the package starts from nothing. Its ROM verifies the firmware and, if that holds, starts it: the folds
are tested, those that fail are fenced off, and boot goes on. -/
def powerOn (pkg : Nat) (firmware signature : List Byte) (failedFolds : List Nat) (s : State) : State :=
  let old := s.pkg pkg
  let s0 := (s.dropPackage pkg).wipe pkg true
  let fresh : Pkg := { life := old.saved, saved := old.saved, imageKey := old.imageKey, onSince := s.cycle }
  let s1 := { s0 with pkgs := tput s0.pkgs pkg fresh, packages := insertAddr pkg s0.packages }
  if !Config.slhVerify (Config.fuseDigest pkg) firmware signature then s1
  else
    let s2 := ((s1.addLife pkg lifeBoots 1).modPkg pkg (fun b => { b with started := true, firmware := firmware })).extendMeas pkg 0 firmware
    let s3 := (List.range 768).foldl (fun t n => t.modFold (mapFold pkg n) (fun f => { f with fenced := false })) s2
    let s4 := failedFolds.foldl (fun t n => if n < 768 then t.fence pkg (mapFold pkg n) true else t) s3
    (s4.after 1600 (.bootComplete pkg)).after 960000000000 (.lifeCounterSave pkg)

/-- Launch records that waited are handled (13 R395, Table 13.3). -/
def State.releaseWaits (s : State) (pkg : Nat) : State :=
  (s.pkg pkg).waits.foldl (fun t x => t.after 0 (.launchRecord pkg x.1 x.2)) (s.modPkg pkg (fun b => { b with waits := [] }))

/-- BOOT_COMPLETE (13 R395, R396): the feature word stands and is measured with the configuration, and the completion frame of LAUNCHID 0 goes out;
from now on launch records are accepted. -/
def bootComplete (pkg : Nat) (s : State) : State :=
  let b := s.pkg pkg
  if !b.started || b.booted then s
  else
    (((s.extendMeas pkg 1 (Config.firmwareConfig pkg b.firmware ++ wordsLe [b.feature])).modPkg pkg (fun c => { c with booted := true })).sendFrame
      pkg 6 0 0 [0, 0]).releaseWaits pkg

/-- PACKAGE_RESET (13 R405, 11 R335): the package and its folds are reset; the bothy's own state stands. -/
def packageReset (pkg : Nat) (s : State) : State := (s.dropPackage pkg).wipe pkg false

/-! ### Power states (13 R399, Table 13.3) -/

/-- A package leaves its power state for another (13 Table 13.3, R404): OFF unpowers the dies and HBM and saves the life counters; RUN lets
launches that waited go on. -/
def State.setPower (s : State) (pkg st : Nat) : State :=
  let t := (s.countTime pkg).modPkg pkg (fun b => { b with power := st })
  if st = 3 then ((t.modPkg pkg (fun b => { b with saved := b.life })).dropPackage pkg).wipe pkg true
  else if st ≤ 1 then t.releaseWaits pkg
  else t

/-- Whether a package may enter a power state: IDLE needs that no launch is live (13 Table 13.3). -/
def State.mayPower (s : State) (pkg st : Nat) : Bool :=
  st != 2 || !s.launches.any (fun l => l.2.pkg == pkg || l.2.nodes.any (fun c => pkgOf c == pkg))

/-- POWER (13 R393, R399). -/
def power (q : BReq) (state : BitVec 2) (s : State) : State :=
  s.answering q 0x0A true (fun t =>
    if t.mayPower q.pkg state.toNat then (t.setPower q.pkg state.toNat).bothyReply q 0x0A 0 [] else t.bothyReply q 0x0A 3 [])

/-- I3C_POWER_STATE (13 R405). -/
def i3cPowerState (pkg : Nat) (state : BitVec 2) (s : State) : State :=
  if s.mayPower pkg state.toNat then s.setPower pkg state.toNat else s

/-- POWER_CAP (13 Table 13.3). -/
def powerCap (pkg : Nat) (s : State) : State := if (s.pkg pkg).power = 0 then s.setPower pkg 1 else s

/-- A junction's place in event records (13 R402). -/
def junctionSource (die junction : Nat) : Nat := dieSource die (junction % 64) unitPower

/-- THROTTLE_ENTER (13 Table 13.3): a junction is at 100 degrees or above. -/
def throttleEnter (die junction : Nat) (s : State) : State :=
  let pkg := die / 4
  let t := (s.countTime pkg).logEvent pkg (junctionSource die junction) evThermal junction
  t.modPkg pkg (fun b => { b with hot := if b.hot.contains (die, junction) then b.hot else b.hot ++ [(die, junction)] })

/-- THROTTLE_EXIT (13 Table 13.3): the junction is below 95 degrees. -/
def throttleExit (die junction : Nat) (s : State) : State :=
  let pkg := die / 4
  let t := (s.countTime pkg).logEvent pkg (junctionSource die junction) evThermal junction
  t.modPkg pkg (fun b => { b with hot := b.hot.filter (fun j => j != (die, junction)) })

/-- HARD_LIMIT (13 Table 13.3): a junction at 115 degrees turns the package OFF; an event is written, and the bothy keeps the health register. -/
def hardLimit (die junction : Nat) (s : State) : State :=
  (s.logEvent (die / 4) (junctionSource die junction) evThermal junction).setPower (die / 4) 3

/-- POWER_FAILURE (13 R404): the package is without power; what is left is what non-volatile storage holds. -/
def powerFailure (pkg : Nat) (s : State) : State :=
  let old := s.pkg pkg
  let fresh : Pkg := { power := 3, life := old.saved, saved := old.saved, imageKey := old.imageKey }
  let t := (s.dropPackage pkg).wipe pkg true
  { t with pkgs := tput t.pkgs pkg fresh }

/-- LIFE_COUNTER_SAVE (13 R404): the counters are written every 10 minutes. -/
def lifeCounterSave (pkg : Nat) (s : State) : State :=
  ((s.countTime pkg).modPkg pkg (fun b => { b with saved := b.life })).after 960000000000 (.lifeCounterSave pkg)

/-! ### Soft errors (13 R401) -/

/-- The block that a word belongs to (13 R402): its die, its SOURCE, the kind of block, and the HBM stack, if it lies in one. -/
def blockOf (a : Nat) : Option (Nat × Nat × Nat × Option Nat) :=
  match placeOf a with
  | .hbm die d => some (die, dieSource die d unitDrover, unitDrover, some (die % 4 * 2 + d / 32))
  | .core c off =>
    let unit := match rowOf off with
      | .acc => 3
      | .vfile => 3
      | .tile => 3
      | .pen => 1
      | .ep => 2
      | _ => 0
    some (dieOf c, c * 16 + unit, unit, none)
  | .sram f _ => some (f / 256, foldSource f 2, 2, none)
  | .spe f _ => some (f / 256, foldSource f 5, 5, none)
  | .nowhere => none

/-- The process whose record or extension a word lies in (13 R401). -/
def State.recordAt (s : State) (a : Nat) : Option Proc :=
  match placeOf a with
  | .core c off =>
    (match rowOf off with
     | .pen => s.proc (c * 256 + (off - 0x140000) / 256)
     | .scratch => (s.extAt c off).map Prod.fst
     | _ => none)
  | _ => none

/-- A group is killed because a record or extension of a member is poisoned (13 R401). -/
def State.poisonKill (s : State) (a : Nat) : State :=
  match s.recordAt a with
  | some p =>
    match s.group? p.gid with
    | some g => if g.killed.isSome then s else s.startKill p.gid g (s.oneway p.core g.home) ⟨0, 0, 0⟩ none
    | none => s
  | none => s

/-- A read of an HBM stack by the scrubber, of which more than one in 2^20 over a day fail sets REPL (13 R400). -/
def State.countStack (s : State) (pkg stack : Nat) (bad : Bool) : State :=
  let t := s.modPkg pkg (fun b =>
    let c := if b.scrubAt + 24 * hourCycles ≤ s.cycle then { b with scrubAt := s.cycle, scrubReads := [], scrubBad := [], replCause := false } else b
    { c with scrubReads := tput c.scrubReads stack (tgetD c.scrubReads stack 0 + 1),
             scrubBad := tput c.scrubBad stack (tgetD c.scrubBad stack 0 + bitOf bad),
             stackErr := if bad then c.stackErr ||| 2 ^ stack else c.stackErr })
  let b := t.pkg pkg
  if decide (tgetD b.scrubReads stack 0 < tgetD b.scrubBad stack 0 * 2 ^ 20) && decide (2 ^ 20 ≤ tgetD b.scrubReads stack 0) then
    t.modPkg pkg (fun c => { c with repl := true, replCause := true })
  else t

/-- PATROL_SCRUB (13 R401, R402): a word is read; a corrected error is corrected in place and counted, an uncorrected one poisons the word. -/
def patrolScrub (addr : Nat) (corrected uncorrected : Bool) (s : State) : State :=
  match blockOf addr with
  | none => s
  | some (die, source, unit, stack) =>
    let pkg := die / 4
    let word := addr / 8 * 8
    let t := match stack with
      | some n => s.countStack pkg n uncorrected
      | none => s
    let t1 := if corrected then
        ((t.addLife pkg (lifeCorrected (die % 4) unit) 1).logEvent pkg source evCorrected word)
      else t
    if !uncorrected then t1
    else
      let t2 := ((t1.addLife pkg (lifeUncorrected (die % 4) unit) 1).logEvent pkg source evUncorrected word).modPkg pkg (fun b =>
        { b with ue := b.ue + 1 })
      let t3 := match stack with
        | some n => t2.addLife pkg (lifeStack n) 1
        | none => t2
      ({ t3 with poison := insertAddr word t3.poison }).poisonKill word

/-! ### The tether port (13 R392, R398) -/

/-- Whether a frame of a TYPE is well formed (13 R392): of 24 to 4,112 bytes, its reserved field 0 and its LEN its length. -/
def frameOk (ws : List Word) (type : Nat) : Bool :=
  let w := (ws.getD 0 0).toNat
  decide (3 ≤ ws.length) && decide (ws.length ≤ 514) && decide (w / 2 ^ 56 = type) && decide (w / 2 ^ 44 % 2 ^ 12 = 0) && decide (w / 2 ^ 32 % 2 ^ 12 + 3 = ws.length)

/-- TETHER_REFUSED_FRAME (13 R392, R402): the frame is discarded, and counted as an event. -/
def tetherRefusedFrame (pkg : Nat) (words : List Word) (s : State) : State :=
  s.logEvent pkg (bothySource pkg unitBothy) evRefused (words.getD 0 0).toNat

/-- A frame that has come whole: the retries of it are over (13 R392). -/
def State.goodFrame (s : State) (pkg : Nat) : State := s.modPkg pkg (fun b => { b with retries := 0 })

/-- TETHER_MESSAGE_FRAME (13 R392, 08 R244): a message for the host receive end that ADDR names; without such an end it is discarded. -/
def tetherMessageFrame (pkg : Nat) (words : List Word) (s : State) : State :=
  let addr := (words.getD 1 0).toNat
  if !frameOk words 1 || decide (2 ^ 46 ≤ addr) || decide (words.length < 4) then tetherRefusedFrame pkg words s
  else
    let t := s.goodFrame pkg
    match t.handle (addr % 2 ^ 40) (addr / 2 ^ 40) with
    | some (ke, e) => if e.recv && e.server == some .host then t.sendIn ke (wordsLe (words.drop 2)) else t
    | none => t

/-- The core identifier as which the bothy of a package makes accesses. -/
def bothyCore (pkg : Nat) : Nat := serverCore (bothyFold (pkg * 4))

/-- TETHER_STORE_FRAME (13 R392, 04 R77): the payload is written at ADDR at level M; a part that cannot be written is counted as an event. -/
def tetherStoreFrame (pkg : Nat) (words : List Word) (s : State) : State :=
  if !frameOk words 2 then tetherRefusedFrame pkg words s
  else
    let addr := (words.getD 1 0).toNat
    let bs := wordsLe (words.drop 2)
    let parts := pieces addr bs.length bs.length
    let t := (s.goodFrame pkg).putParts (bothyCore pkg) 0 0 2 parts bs
    if parts.any (fun x => (s.partFault (bothyCore pkg) 0 2 x.1 x.2 true).isSome) then tetherRefusedFrame pkg words t else t

/-- TETHER_LOAD_FRAME (13 R392): memory from ADDR on, as many bytes as LEN says, goes back in a load reply. What a part that cannot be read gives is
open (log 6). -/
def tetherLoadFrame (pkg : Nat) (words : List Word) (s : State) : State :=
  if !frameOk words 3 then tetherRefusedFrame pkg words s
  else
    let addr := (words.getD 1 0).toNat
    let n := 8 * (words.length - 2)
    let t := s.goodFrame pkg
    let bs := (pieces addr n n).flatMap (fun x =>
      if (t.partFault (bothyCore pkg) 0 2 x.1 x.2 false).isSome then leBytes x.2 (Config.freeWord (t.free + x.1 - addr)).toNat
      else leBytes x.2 (t.loadPhys x.1 x.2))
    ({ t with free := t.free + n }).sendFrame pkg 4 ((words.getD 0 0).toNat % 2 ^ 32) addr (byteWords bs)

/-- TETHER_RETRY (13 R392): a damaged frame is sent again; after 16 failed retries of one frame the port is down. -/
def tetherRetry (pkg : Nat) (s : State) : State :=
  s.modPkg pkg (fun b => if b.retries < 15 then { b with retries := b.retries + 1 } else { b with retries := 16, portDown := true })

/-- TETHER_TRAINING (13 R398, R392): the port is up; a fresh session key takes the place of the last, and frames that waited go out. -/
def tetherTraining (pkg : Nat) (seed : Word) (ciphertext : List Byte) (s : State) : State :=
  let tether : List Byte := [0x74, 0x65, 0x74, 0x68, 0x65, 0x72]
  let key := Config.shake256 (Config.mlkemKey pkg seed ciphertext ++ Config.serial pkg ++ tether) 32
  (s.modPkg pkg (fun b => { b with session := some key, counts := [], portDown := false, retries := 0 })).flushFrames pkg

end Sys2Proof.Machine
end

