-- ==== Sys2Proof/Decode.lean ====
section
/-! DEFINITION. The decoder, total on every word and every byte string, and the encoder. Both are written
from the formats of 03 Tables 3.1 to 3.15 and the opcode map (03 Table 3.12). -/

namespace Sys2Proof

/-- The number in the `w` bits of `n` from bit `lo` up. -/
def fld (n lo w : Nat) : Nat := n / 2 ^ lo % 2 ^ w

/-- The same as a bit vector. -/
def bits (n lo w : Nat) : BitVec w := BitVec.ofNat w (fld n lo w)

/-- The words of major 0x01. -/
def decodeMajor01 (n : Nat) : Option Instr :=
  if fld n 0 10 = 0 then some (.add (bits n 22 4) ⟨bits n 18 4, bits n 16 2⟩ ⟨bits n 12 4, bits n 10 2⟩) else
  if fld n 0 10 = 1 then some (.sub (bits n 22 4) ⟨bits n 18 4, bits n 16 2⟩ ⟨bits n 12 4, bits n 10 2⟩) else
  if fld n 0 10 = 2 then some (.and (bits n 22 4) ⟨bits n 18 4, bits n 16 2⟩ ⟨bits n 12 4, bits n 10 2⟩) else
  if fld n 0 10 = 3 then some (.or (bits n 22 4) ⟨bits n 18 4, bits n 16 2⟩ ⟨bits n 12 4, bits n 10 2⟩) else
  if fld n 0 10 = 4 then some (.xor (bits n 22 4) ⟨bits n 18 4, bits n 16 2⟩ ⟨bits n 12 4, bits n 10 2⟩) else
  if fld n 0 10 = 5 then some (.andn (bits n 22 4) ⟨bits n 18 4, bits n 16 2⟩ ⟨bits n 12 4, bits n 10 2⟩) else
  if fld n 0 10 = 6 then some (.shl (bits n 22 4) ⟨bits n 18 4, bits n 16 2⟩ ⟨bits n 12 4, bits n 10 2⟩) else
  if fld n 0 10 = 7 then some (.shr (bits n 22 4) ⟨bits n 18 4, bits n 16 2⟩ ⟨bits n 12 4, bits n 10 2⟩) else
  if fld n 0 10 = 8 then some (.sra (bits n 22 4) ⟨bits n 18 4, bits n 16 2⟩ ⟨bits n 12 4, bits n 10 2⟩) else
  if fld n 0 10 = 9 then some (.rol (bits n 22 4) ⟨bits n 18 4, bits n 16 2⟩ ⟨bits n 12 4, bits n 10 2⟩) else
  if fld n 0 10 = 10 then some (.mul (bits n 22 4) ⟨bits n 18 4, bits n 16 2⟩ ⟨bits n 12 4, bits n 10 2⟩) else
  if fld n 0 10 = 11 then some (.mulh (bits n 22 4) ⟨bits n 18 4, bits n 16 2⟩ ⟨bits n 12 4, bits n 10 2⟩) else
  if fld n 0 10 = 12 then some (.mulhu (bits n 22 4) ⟨bits n 18 4, bits n 16 2⟩ ⟨bits n 12 4, bits n 10 2⟩) else
  if fld n 0 10 = 13 then some (.div (bits n 22 4) ⟨bits n 18 4, bits n 16 2⟩ ⟨bits n 12 4, bits n 10 2⟩) else
  if fld n 0 10 = 14 then some (.divu (bits n 22 4) ⟨bits n 18 4, bits n 16 2⟩ ⟨bits n 12 4, bits n 10 2⟩) else
  if fld n 0 10 = 15 then some (.rem (bits n 22 4) ⟨bits n 18 4, bits n 16 2⟩ ⟨bits n 12 4, bits n 10 2⟩) else
  if fld n 0 10 = 16 then some (.remu (bits n 22 4) ⟨bits n 18 4, bits n 16 2⟩ ⟨bits n 12 4, bits n 10 2⟩) else
  if fld n 0 10 = 17 then some (.min (bits n 22 4) ⟨bits n 18 4, bits n 16 2⟩ ⟨bits n 12 4, bits n 10 2⟩) else
  if fld n 0 10 = 18 then some (.max (bits n 22 4) ⟨bits n 18 4, bits n 16 2⟩ ⟨bits n 12 4, bits n 10 2⟩) else
  if fld n 0 10 = 19 then some (.minu (bits n 22 4) ⟨bits n 18 4, bits n 16 2⟩ ⟨bits n 12 4, bits n 10 2⟩) else
  if fld n 0 10 = 20 then some (.maxu (bits n 22 4) ⟨bits n 18 4, bits n 16 2⟩ ⟨bits n 12 4, bits n 10 2⟩) else
  if fld n 0 16 = 21 then some (.clz (bits n 22 4) ⟨bits n 18 4, bits n 16 2⟩) else
  if fld n 0 16 = 22 then some (.ctz (bits n 22 4) ⟨bits n 18 4, bits n 16 2⟩) else
  if fld n 0 16 = 23 then some (.popc (bits n 22 4) ⟨bits n 18 4, bits n 16 2⟩) else
  if fld n 0 16 = 24 then some (.bswap (bits n 22 4) ⟨bits n 18 4, bits n 16 2⟩) else
  if fld n 0 10 = 25 then some (.sext (bits n 22 4) ⟨bits n 18 4, bits n 16 2⟩ ⟨bits n 12 4, bits n 10 2⟩) else
  if fld n 0 10 = 26 then some (.zext (bits n 22 4) ⟨bits n 18 4, bits n 16 2⟩ ⟨bits n 12 4, bits n 10 2⟩) else
  if fld n 0 10 = 27 then some (.seq (bits n 22 4) ⟨bits n 18 4, bits n 16 2⟩ ⟨bits n 12 4, bits n 10 2⟩) else
  if fld n 0 10 = 28 then some (.sne (bits n 22 4) ⟨bits n 18 4, bits n 16 2⟩ ⟨bits n 12 4, bits n 10 2⟩) else
  if fld n 0 10 = 29 then some (.slt (bits n 22 4) ⟨bits n 18 4, bits n 16 2⟩ ⟨bits n 12 4, bits n 10 2⟩) else
  if fld n 0 10 = 30 then some (.sltu (bits n 22 4) ⟨bits n 18 4, bits n 16 2⟩ ⟨bits n 12 4, bits n 10 2⟩) else
  if fld n 0 10 = 31 then some (.sle (bits n 22 4) ⟨bits n 18 4, bits n 16 2⟩ ⟨bits n 12 4, bits n 10 2⟩) else
  if fld n 0 10 = 32 then some (.sleu (bits n 22 4) ⟨bits n 18 4, bits n 16 2⟩ ⟨bits n 12 4, bits n 10 2⟩) else
  none

/-- The words of major 0x02. -/
def decodeMajor02 (n : Nat) : Option Instr :=
  some (.addi (bits n 22 4) ⟨bits n 18 4, bits n 16 2⟩ (bits n 0 16))

/-- The words of major 0x03. -/
def decodeMajor03 (n : Nat) : Option Instr :=
  some (.andi (bits n 22 4) ⟨bits n 18 4, bits n 16 2⟩ (bits n 0 16))

/-- The words of major 0x04. -/
def decodeMajor04 (n : Nat) : Option Instr :=
  some (.ori (bits n 22 4) ⟨bits n 18 4, bits n 16 2⟩ (bits n 0 16))

/-- The words of major 0x05. -/
def decodeMajor05 (n : Nat) : Option Instr :=
  some (.xori (bits n 22 4) ⟨bits n 18 4, bits n 16 2⟩ (bits n 0 16))

/-- The words of major 0x06. -/
def decodeMajor06 (n : Nat) : Option Instr :=
  if fld n 6 10 = 0 then some (.shli (bits n 22 4) ⟨bits n 18 4, bits n 16 2⟩ (bits n 0 6)) else
  if fld n 6 10 = 256 then some (.shri (bits n 22 4) ⟨bits n 18 4, bits n 16 2⟩ (bits n 0 6)) else
  if fld n 6 10 = 512 then some (.srai (bits n 22 4) ⟨bits n 18 4, bits n 16 2⟩ (bits n 0 6)) else
  if fld n 6 10 = 768 then some (.roli (bits n 22 4) ⟨bits n 18 4, bits n 16 2⟩ (bits n 0 6)) else
  none

/-- The words of major 0x07. -/
def decodeMajor07 (n : Nat) : Option Instr :=
  some (.lih (bits n 22 4) ⟨bits n 18 4, bits n 16 2⟩ (bits n 0 16))

/-- The words of major 0x08. -/
def decodeMajor08 (n : Nat) : Option Instr :=
  if fld n 14 2 = 0 then some (.seqi (bits n 22 4) ⟨bits n 18 4, bits n 16 2⟩ (bits n 0 14)) else
  if fld n 14 2 = 1 then some (.slti (bits n 22 4) ⟨bits n 18 4, bits n 16 2⟩ (bits n 0 14)) else
  if fld n 14 2 = 2 then some (.sltui (bits n 22 4) ⟨bits n 18 4, bits n 16 2⟩ (bits n 0 14)) else
  none

/-- The words of major 0x09. -/
def decodeMajor09 (n : Nat) : Option Instr :=
  some (.muli (bits n 22 4) ⟨bits n 18 4, bits n 16 2⟩ (bits n 0 16))

/-- The words of major 0x0A. -/
def decodeMajor0A (n : Nat) : Option Instr :=
  if fld n 0 4 = 0 ∧ fld n 5 5 = 0 then some (.fadd (bits n 22 4) ⟨bits n 18 4, bits n 16 2⟩ ⟨bits n 12 4, bits n 10 2⟩ (bits n 4 1)) else
  if fld n 0 4 = 0 ∧ fld n 5 5 = 1 then some (.fsub (bits n 22 4) ⟨bits n 18 4, bits n 16 2⟩ ⟨bits n 12 4, bits n 10 2⟩ (bits n 4 1)) else
  if fld n 0 4 = 0 ∧ fld n 5 5 = 2 then some (.fmul (bits n 22 4) ⟨bits n 18 4, bits n 16 2⟩ ⟨bits n 12 4, bits n 10 2⟩ (bits n 4 1)) else
  if fld n 0 4 = 0 ∧ fld n 5 5 = 3 then some (.fdiv (bits n 22 4) ⟨bits n 18 4, bits n 16 2⟩ ⟨bits n 12 4, bits n 10 2⟩ (bits n 4 1)) else
  if fld n 0 4 = 0 ∧ fld n 5 11 = 4 then some (.fsqrt (bits n 22 4) ⟨bits n 18 4, bits n 16 2⟩ (bits n 4 1)) else
  if fld n 0 4 = 0 ∧ fld n 5 5 = 5 then some (.fmin (bits n 22 4) ⟨bits n 18 4, bits n 16 2⟩ ⟨bits n 12 4, bits n 10 2⟩ (bits n 4 1)) else
  if fld n 0 4 = 0 ∧ fld n 5 5 = 6 then some (.fmax (bits n 22 4) ⟨bits n 18 4, bits n 16 2⟩ ⟨bits n 12 4, bits n 10 2⟩ (bits n 4 1)) else
  if fld n 0 4 = 0 ∧ fld n 5 11 = 7 then some (.fneg (bits n 22 4) ⟨bits n 18 4, bits n 16 2⟩ (bits n 4 1)) else
  if fld n 0 4 = 0 ∧ fld n 5 11 = 8 then some (.fabs (bits n 22 4) ⟨bits n 18 4, bits n 16 2⟩ (bits n 4 1)) else
  if fld n 0 4 = 0 ∧ fld n 5 5 = 9 then some (.feq (bits n 22 4) ⟨bits n 18 4, bits n 16 2⟩ ⟨bits n 12 4, bits n 10 2⟩ (bits n 4 1)) else
  if fld n 0 4 = 0 ∧ fld n 5 5 = 10 then some (.flt (bits n 22 4) ⟨bits n 18 4, bits n 16 2⟩ ⟨bits n 12 4, bits n 10 2⟩ (bits n 4 1)) else
  if fld n 0 4 = 0 ∧ fld n 5 5 = 11 then some (.fle (bits n 22 4) ⟨bits n 18 4, bits n 16 2⟩ ⟨bits n 12 4, bits n 10 2⟩ (bits n 4 1)) else
  if fld n 0 4 = 0 ∧ fld n 5 11 = 12 then some (.fclass (bits n 22 4) ⟨bits n 18 4, bits n 16 2⟩ (bits n 4 1)) else
  if fld n 0 4 = 0 ∧ fld n 5 11 = 13 then some (.fcvt (bits n 22 4) ⟨bits n 18 4, bits n 16 2⟩ (bits n 4 1)) else
  if fld n 0 4 = 0 ∧ fld n 5 11 = 14 then some (.ftoi (bits n 22 4) ⟨bits n 18 4, bits n 16 2⟩ (bits n 4 1)) else
  if fld n 0 4 = 0 ∧ fld n 5 11 = 15 then some (.itof (bits n 22 4) ⟨bits n 18 4, bits n 16 2⟩ (bits n 4 1)) else
  none

/-- The words of major 0x0B. -/
def decodeMajor0B (n : Nat) : Option Instr :=
  if fld n 0 3 = 0 then some (.fma (bits n 22 4) ⟨bits n 18 4, bits n 16 2⟩ ⟨bits n 12 4, bits n 10 2⟩ ⟨bits n 6 4, bits n 4 2⟩ (bits n 3 1)) else
  if fld n 0 3 = 1 then some (.fms (bits n 22 4) ⟨bits n 18 4, bits n 16 2⟩ ⟨bits n 12 4, bits n 10 2⟩ ⟨bits n 6 4, bits n 4 2⟩ (bits n 3 1)) else
  if fld n 0 3 = 2 then some (.fnma (bits n 22 4) ⟨bits n 18 4, bits n 16 2⟩ ⟨bits n 12 4, bits n 10 2⟩ ⟨bits n 6 4, bits n 4 2⟩ (bits n 3 1)) else
  if fld n 0 3 = 3 then some (.fnms (bits n 22 4) ⟨bits n 18 4, bits n 16 2⟩ ⟨bits n 12 4, bits n 10 2⟩ ⟨bits n 6 4, bits n 4 2⟩ (bits n 3 1)) else
  none

/-- The words of major 0x10. -/
def decodeMajor10 (n : Nat) : Option Instr :=
  some (.ld (bits n 22 4) ⟨bits n 18 4, bits n 16 2⟩ (bits n 13 3) (bits n 0 13))

/-- The words of major 0x11. -/
def decodeMajor11 (n : Nat) : Option Instr :=
  some (.st (bits n 22 4) ⟨bits n 18 4, bits n 16 2⟩ (bits n 13 3) (bits n 0 13))

/-- The words of major 0x12. -/
def decodeMajor12 (n : Nat) : Option Instr :=
  if fld n 11 1 = 0 then some (.ldm (bits n 22 4) ⟨bits n 18 4, bits n 16 2⟩ (bits n 12 4) (bits n 0 11)) else
  if fld n 11 1 = 1 then some (.stm (bits n 22 4) ⟨bits n 18 4, bits n 16 2⟩ (bits n 12 4) (bits n 0 11)) else
  none

/-- The words of major 0x13. -/
def decodeMajor13 (n : Nat) : Option Instr :=
  if fld n 0 2 = 0 ∧ fld n 5 5 = 0 then some (.amoAdd (bits n 22 4) ⟨bits n 18 4, bits n 16 2⟩ ⟨bits n 12 4, bits n 10 2⟩ (bits n 4 1) (bits n 3 1) (bits n 2 1)) else
  if fld n 0 2 = 0 ∧ fld n 5 5 = 1 then some (.amoAnd (bits n 22 4) ⟨bits n 18 4, bits n 16 2⟩ ⟨bits n 12 4, bits n 10 2⟩ (bits n 4 1) (bits n 3 1) (bits n 2 1)) else
  if fld n 0 2 = 0 ∧ fld n 5 5 = 2 then some (.amoOr (bits n 22 4) ⟨bits n 18 4, bits n 16 2⟩ ⟨bits n 12 4, bits n 10 2⟩ (bits n 4 1) (bits n 3 1) (bits n 2 1)) else
  if fld n 0 2 = 0 ∧ fld n 5 5 = 3 then some (.amoXor (bits n 22 4) ⟨bits n 18 4, bits n 16 2⟩ ⟨bits n 12 4, bits n 10 2⟩ (bits n 4 1) (bits n 3 1) (bits n 2 1)) else
  if fld n 0 2 = 0 ∧ fld n 5 5 = 4 then some (.amoMin (bits n 22 4) ⟨bits n 18 4, bits n 16 2⟩ ⟨bits n 12 4, bits n 10 2⟩ (bits n 4 1) (bits n 3 1) (bits n 2 1)) else
  if fld n 0 2 = 0 ∧ fld n 5 5 = 5 then some (.amoMax (bits n 22 4) ⟨bits n 18 4, bits n 16 2⟩ ⟨bits n 12 4, bits n 10 2⟩ (bits n 4 1) (bits n 3 1) (bits n 2 1)) else
  if fld n 0 2 = 0 ∧ fld n 5 5 = 6 then some (.amoMinu (bits n 22 4) ⟨bits n 18 4, bits n 16 2⟩ ⟨bits n 12 4, bits n 10 2⟩ (bits n 4 1) (bits n 3 1) (bits n 2 1)) else
  if fld n 0 2 = 0 ∧ fld n 5 5 = 7 then some (.amoMaxu (bits n 22 4) ⟨bits n 18 4, bits n 16 2⟩ ⟨bits n 12 4, bits n 10 2⟩ (bits n 4 1) (bits n 3 1) (bits n 2 1)) else
  if fld n 0 2 = 0 ∧ fld n 5 5 = 8 then some (.amoSwp (bits n 22 4) ⟨bits n 18 4, bits n 16 2⟩ ⟨bits n 12 4, bits n 10 2⟩ (bits n 4 1) (bits n 3 1) (bits n 2 1)) else
  if fld n 0 2 = 0 ∧ fld n 5 5 = 9 then some (.amoCas (bits n 22 4) ⟨bits n 18 4, bits n 16 2⟩ ⟨bits n 12 4, bits n 10 2⟩ (bits n 4 1) (bits n 3 1) (bits n 2 1)) else
  if fld n 0 2 = 0 ∧ fld n 5 5 = 10 then some (.amoFadd (bits n 22 4) ⟨bits n 18 4, bits n 16 2⟩ ⟨bits n 12 4, bits n 10 2⟩ (bits n 4 1) (bits n 3 1) (bits n 2 1)) else
  none

/-- The words of major 0x14. -/
def decodeMajor14 (n : Nat) : Option Instr :=
  if fld n 5 17 = 0 then some (.fence (bits n 22 4) (bits n 2 3) (bits n 0 2)) else
  if fld n 0 32 = 1342177312 then some .drainS else
  if fld n 0 32 = 1342177344 then some .isync else
  none

/-- The words of major 0x15. -/
def decodeMajor15 (n : Nat) : Option Instr :=
  if fld n 0 3 = 0 ∧ fld n 5 11 = 0 then some (.frd (bits n 22 4) ⟨bits n 18 4, bits n 16 2⟩ (bits n 4 1) (bits n 3 1)) else
  if fld n 0 10 = 32 ∧ fld n 22 10 = 336 then some (.fwr ⟨bits n 18 4, bits n 16 2⟩ ⟨bits n 12 4, bits n 10 2⟩) else
  if fld n 0 16 = 64 ∧ fld n 22 10 = 336 then some (.fclr ⟨bits n 18 4, bits n 16 2⟩) else
  none

/-- The words of major 0x16. -/
def decodeMajor16 (n : Nat) : Option Instr :=
  if fld n 0 10 = 0 then some (.xwr (bits n 22 4) ⟨bits n 18 4, bits n 16 2⟩ ⟨bits n 12 4, bits n 10 2⟩) else
  if fld n 0 22 = 32 then some (.slb (bits n 22 4)) else
  if fld n 0 32 = 1476395072 then some .slr else
  if fld n 0 12 = 96 ∧ fld n 16 6 = 0 then some (.mxf (bits n 22 4) (bits n 12 4)) else
  if fld n 0 16 = 128 then some (.mxt (bits n 22 4) ⟨bits n 18 4, bits n 16 2⟩) else
  if fld n 0 10 = 160 ∧ fld n 16 6 = 0 then some (.bindq (bits n 22 4) ⟨bits n 12 4, bits n 10 2⟩) else
  if fld n 0 22 = 192 then some (.unbq (bits n 22 4)) else
  if fld n 0 22 = 224 then some (.empty (bits n 22 4)) else
  if fld n 0 18 = 256 then some (.isfull (bits n 22 4) (bits n 18 4)) else
  none

/-- The words of major 0x18. -/
def decodeMajor18 (n : Nat) : Option Instr :=
  if fld n 17 3 = 0 then some (.beqz ⟨bits n 22 4, bits n 20 2⟩ (bits n 0 17)) else
  if fld n 17 3 = 1 then some (.bnez ⟨bits n 22 4, bits n 20 2⟩ (bits n 0 17)) else
  if fld n 17 3 = 2 then some (.bltz ⟨bits n 22 4, bits n 20 2⟩ (bits n 0 17)) else
  if fld n 17 3 = 3 then some (.bgez ⟨bits n 22 4, bits n 20 2⟩ (bits n 0 17)) else
  if fld n 17 3 = 4 then some (.bgtz ⟨bits n 22 4, bits n 20 2⟩ (bits n 0 17)) else
  if fld n 17 3 = 5 then some (.blez ⟨bits n 22 4, bits n 20 2⟩ (bits n 0 17)) else
  none

/-- The words of major 0x19. -/
def decodeMajor19 (n : Nat) : Option Instr :=
  if fld n 11 3 = 0 then some (.beq ⟨bits n 22 4, bits n 16 2⟩ ⟨bits n 18 4, bits n 14 2⟩ (bits n 0 11)) else
  if fld n 11 3 = 1 then some (.bne ⟨bits n 22 4, bits n 16 2⟩ ⟨bits n 18 4, bits n 14 2⟩ (bits n 0 11)) else
  if fld n 11 3 = 2 then some (.blt ⟨bits n 22 4, bits n 16 2⟩ ⟨bits n 18 4, bits n 14 2⟩ (bits n 0 11)) else
  if fld n 11 3 = 3 then some (.bge ⟨bits n 22 4, bits n 16 2⟩ ⟨bits n 18 4, bits n 14 2⟩ (bits n 0 11)) else
  if fld n 11 3 = 4 then some (.bltu ⟨bits n 22 4, bits n 16 2⟩ ⟨bits n 18 4, bits n 14 2⟩ (bits n 0 11)) else
  if fld n 11 3 = 5 then some (.bgeu ⟨bits n 22 4, bits n 16 2⟩ ⟨bits n 18 4, bits n 14 2⟩ (bits n 0 11)) else
  none

/-- The words of major 0x1A. -/
def decodeMajor1A (n : Nat) : Option Instr :=
  if fld n 25 7 = 52 then some (.j (bits n 0 25)) else
  if fld n 25 7 = 53 then some (.jal (bits n 0 25)) else
  none

/-- The words of major 0x1B. -/
def decodeMajor1B (n : Nat) : Option Instr :=
  if fld n 0 16 = 0 ∧ fld n 22 10 = 432 then some (.jr ⟨bits n 18 4, bits n 16 2⟩) else
  if fld n 0 16 = 32 then some (.jalr (bits n 22 4) ⟨bits n 18 4, bits n 16 2⟩) else
  none

/-- The words of major 0x1C. -/
def decodeMajor1C (n : Nat) : Option Instr :=
  if fld n 17 3 = 0 then some (.loop ⟨bits n 22 4, bits n 20 2⟩ (bits n 0 17)) else
  none

/-- The words of major 0x1D. -/
def decodeMajor1D (n : Nat) : Option Instr :=
  if fld n 12 20 = 475136 then some (.trap (bits n 0 12)) else
  if fld n 12 20 = 475137 then some (.sysc (bits n 0 12)) else
  if fld n 0 32 = 1946165248 then some .eret else
  if fld n 12 20 = 475139 then some (.brk (bits n 0 12)) else
  if fld n 0 32 = 1946173440 then some .nop else
  if fld n 0 32 = 1946177536 then some .snap else
  none

/-- The words of major 0x1E. -/
def decodeMajor1E (n : Nat) : Option Instr :=
  if fld n 12 10 = 0 then some (.csrr (bits n 22 4) (bits n 0 12)) else
  if fld n 12 4 = 1 then some (.csrw (bits n 22 4) ⟨bits n 18 4, bits n 16 2⟩ (bits n 0 12)) else
  if fld n 12 4 = 2 then some (.csrs (bits n 22 4) ⟨bits n 18 4, bits n 16 2⟩ (bits n 0 12)) else
  if fld n 12 4 = 3 then some (.csrc (bits n 22 4) ⟨bits n 18 4, bits n 16 2⟩ (bits n 0 12)) else
  none

/-- The words of major 0x20. -/
def decodeMajor20 (n : Nat) : Option Instr :=
  if fld n 5 5 = 0 then some (.spawn (bits n 22 4) ⟨bits n 18 4, bits n 16 2⟩ ⟨bits n 12 4, bits n 10 2⟩ (bits n 4 1) (bits n 3 1) (bits n 0 3)) else
  if fld n 0 4 = 0 ∧ fld n 5 11 = 1 then some (.gang (bits n 22 4) ⟨bits n 18 4, bits n 16 2⟩ (bits n 4 1)) else
  if fld n 0 32 = 2147483712 then some .yield else
  if fld n 0 16 = 96 then some (.prio (bits n 22 4) ⟨bits n 18 4, bits n 16 2⟩) else
  if fld n 0 16 = 128 ∧ fld n 22 10 = 512 then some (.exit ⟨bits n 18 4, bits n 16 2⟩) else
  if fld n 0 16 = 160 then some (.killg (bits n 22 4) ⟨bits n 18 4, bits n 16 2⟩) else
  if fld n 0 16 = 192 then some (.susp (bits n 22 4) ⟨bits n 18 4, bits n 16 2⟩) else
  if fld n 0 16 = 224 then some (.resm (bits n 22 4) ⟨bits n 18 4, bits n 16 2⟩) else
  if fld n 0 10 = 256 then some (.migr (bits n 22 4) ⟨bits n 18 4, bits n 16 2⟩ ⟨bits n 12 4, bits n 10 2⟩) else
  if fld n 0 22 = 288 then some (.pself (bits n 22 4)) else
  if fld n 0 16 = 320 then some (.pinfo (bits n 22 4) ⟨bits n 18 4, bits n 16 2⟩) else
  if fld n 0 16 = 352 ∧ fld n 22 10 = 512 then some (.wfw ⟨bits n 18 4, bits n 16 2⟩) else
  if fld n 0 16 = 384 ∧ fld n 22 10 = 512 then some (.sleep ⟨bits n 18 4, bits n 16 2⟩) else
  if fld n 0 4 = 0 ∧ fld n 5 17 = 13 then some (.trapw (bits n 22 4) (bits n 4 1)) else
  if fld n 0 10 = 448 then some (.quiesce (bits n 22 4) ⟨bits n 18 4, bits n 16 2⟩ ⟨bits n 12 4, bits n 10 2⟩) else
  if fld n 0 10 = 464 then some (.quiesceR (bits n 22 4) ⟨bits n 18 4, bits n 16 2⟩ ⟨bits n 12 4, bits n 10 2⟩) else
  none

/-- The words of major 0x21. -/
def decodeMajor21 (n : Nat) : Option Instr :=
  if fld n 0 22 = 0 then some (.gbar (bits n 22 4)) else
  if fld n 0 22 = 32 then some (.garr (bits n 22 4)) else
  if fld n 0 16 = 64 ∧ fld n 22 10 = 528 then some (.gwait ⟨bits n 18 4, bits n 16 2⟩) else
  if fld n 0 10 = 96 ∧ fld n 22 10 = 528 then some (.gexp ⟨bits n 18 4, bits n 16 2⟩ ⟨bits n 12 4, bits n 10 2⟩) else
  none

/-- The words of major 0x23. -/
def decodeMajor23 (n : Nat) : Option Instr :=
  if fld n 0 10 = 0 then some (.svopen (bits n 22 4) ⟨bits n 18 4, bits n 16 2⟩ ⟨bits n 12 4, bits n 10 2⟩) else
  if fld n 0 10 = 32 then some (.timer (bits n 22 4) ⟨bits n 18 4, bits n 16 2⟩ ⟨bits n 12 4, bits n 10 2⟩) else
  if fld n 0 10 = 64 then some (.dqry (bits n 22 4) ⟨bits n 18 4, bits n 16 2⟩ ⟨bits n 12 4, bits n 10 2⟩) else
  if fld n 0 16 = 96 then some (.dlkq (bits n 22 4) ⟨bits n 18 4, bits n 16 2⟩) else
  none

/-- The words of major 0x24. -/
def decodeMajor24 (n : Nat) : Option Instr :=
  if fld n 0 16 = 0 then some (.chnew (bits n 22 4) ⟨bits n 18 4, bits n 16 2⟩) else
  if fld n 0 16 = 32 ∧ fld n 22 10 = 576 then some (.chdel ⟨bits n 18 4, bits n 16 2⟩) else
  if fld n 0 10 = 64 then some (.chbind (bits n 22 4) ⟨bits n 18 4, bits n 16 2⟩ ⟨bits n 12 4, bits n 10 2⟩) else
  if fld n 0 16 = 96 then some (.chqry (bits n 22 4) ⟨bits n 18 4, bits n 16 2⟩) else
  if fld n 0 16 = 128 then some (.chpoll (bits n 22 4) ⟨bits n 18 4, bits n 16 2⟩) else
  if fld n 0 10 = 160 ∧ fld n 22 10 = 576 then some (.sendh ⟨bits n 18 4, bits n 16 2⟩ ⟨bits n 12 4, bits n 10 2⟩) else
  none

/-- The words of major 0x25. -/
def decodeMajor25 (n : Nat) : Option Instr :=
  if fld n 0 10 = 0 ∧ fld n 22 10 = 592 then some (.send ⟨bits n 18 4, bits n 16 2⟩ ⟨bits n 12 4, bits n 10 2⟩) else
  if fld n 0 16 = 32 then some (.recv (bits n 22 4) ⟨bits n 18 4, bits n 16 2⟩) else
  if fld n 0 10 = 64 ∧ fld n 22 10 = 592 then some (.sendb ⟨bits n 18 4, bits n 16 2⟩ ⟨bits n 12 4, bits n 10 2⟩) else
  if fld n 0 10 = 96 then some (.recvb (bits n 22 4) ⟨bits n 18 4, bits n 16 2⟩ ⟨bits n 12 4, bits n 10 2⟩) else
  if fld n 0 4 = 0 ∧ fld n 5 5 = 4 ∧ fld n 22 10 = 592 then some (.sendt ⟨bits n 18 4, bits n 16 2⟩ ⟨bits n 12 4, bits n 10 2⟩ (bits n 4 1)) else
  if fld n 0 4 = 0 ∧ fld n 5 5 = 5 ∧ fld n 22 10 = 592 then some (.recvt ⟨bits n 18 4, bits n 16 2⟩ ⟨bits n 12 4, bits n 10 2⟩ (bits n 4 1)) else
  if fld n 0 10 = 192 then some (.senda (bits n 22 4) ⟨bits n 18 4, bits n 16 2⟩ ⟨bits n 12 4, bits n 10 2⟩) else
  if fld n 0 4 = 0 ∧ fld n 5 5 = 7 then some (.trecv (bits n 22 4) ⟨bits n 18 4, bits n 16 2⟩ ⟨bits n 12 4, bits n 10 2⟩ (bits n 4 1)) else
  none

/-- The words of major 0x26. -/
def decodeMajor26 (n : Nat) : Option Instr :=
  if fld n 0 4 = 0 ∧ fld n 5 5 = 0 then some (.alt (bits n 22 4) ⟨bits n 18 4, bits n 16 2⟩ ⟨bits n 12 4, bits n 10 2⟩ (bits n 4 1)) else
  none

/-- The words of major 0x27. -/
def decodeMajor27 (n : Nat) : Option Instr :=
  if fld n 0 10 = 0 then some (.copy (bits n 22 4) ⟨bits n 18 4, bits n 16 2⟩ ⟨bits n 12 4, bits n 10 2⟩) else
  if fld n 0 10 = 32 then some (.cwait (bits n 22 4) ⟨bits n 18 4, bits n 16 2⟩ ⟨bits n 12 4, bits n 10 2⟩) else
  if fld n 0 10 = 64 ∧ fld n 16 6 = 0 then some (.strm (bits n 22 4) ⟨bits n 12 4, bits n 10 2⟩) else
  if fld n 0 10 = 96 then some (.subs (bits n 22 4) ⟨bits n 18 4, bits n 16 2⟩ ⟨bits n 12 4, bits n 10 2⟩) else
  if fld n 0 16 = 128 then some (.unsub (bits n 22 4) ⟨bits n 18 4, bits n 16 2⟩) else
  if fld n 0 10 = 160 ∧ fld n 22 10 = 624 then some (.mcast ⟨bits n 18 4, bits n 16 2⟩ ⟨bits n 12 4, bits n 10 2⟩) else
  none

/-- The words of major 0x28. -/
def decodeMajor28 (n : Nat) : Option Instr :=
  if fld n 3 5 = 0 then some (.vadd (bits n 21 5) (bits n 16 5) (bits n 11 5) (bits n 8 3) (bits n 0 3)) else
  if fld n 3 5 = 1 then some (.vsub (bits n 21 5) (bits n 16 5) (bits n 11 5) (bits n 8 3) (bits n 0 3)) else
  if fld n 3 5 = 2 then some (.vmul (bits n 21 5) (bits n 16 5) (bits n 11 5) (bits n 8 3) (bits n 0 3)) else
  if fld n 3 5 = 3 then some (.vdiv (bits n 21 5) (bits n 16 5) (bits n 11 5) (bits n 8 3) (bits n 0 3)) else
  if fld n 3 5 = 4 then some (.vmin (bits n 21 5) (bits n 16 5) (bits n 11 5) (bits n 8 3) (bits n 0 3)) else
  if fld n 3 5 = 5 then some (.vmax (bits n 21 5) (bits n 16 5) (bits n 11 5) (bits n 8 3) (bits n 0 3)) else
  if fld n 3 5 = 6 ∧ fld n 11 5 = 0 then some (.vabs (bits n 21 5) (bits n 16 5) (bits n 8 3) (bits n 0 3)) else
  if fld n 3 5 = 7 ∧ fld n 11 5 = 0 then some (.vneg (bits n 21 5) (bits n 16 5) (bits n 8 3) (bits n 0 3)) else
  if fld n 3 5 = 8 ∧ fld n 11 5 = 0 then some (.vsqrt (bits n 21 5) (bits n 16 5) (bits n 8 3) (bits n 0 3)) else
  if fld n 0 8 = 76 ∧ fld n 11 5 = 0 then some (.vrsq (bits n 21 5) (bits n 16 5) (bits n 8 3)) else
  if fld n 0 8 = 84 ∧ fld n 11 5 = 0 then some (.vexp2 (bits n 21 5) (bits n 16 5) (bits n 8 3)) else
  if fld n 0 8 = 92 ∧ fld n 11 5 = 0 then some (.vlog2 (bits n 21 5) (bits n 16 5) (bits n 8 3)) else
  if fld n 0 8 = 100 then some (.vcmul (bits n 21 5) (bits n 16 5) (bits n 11 5) (bits n 8 3)) else
  if fld n 3 5 = 13 then some (.vand (bits n 21 5) (bits n 16 5) (bits n 11 5) (bits n 8 3) (bits n 0 3)) else
  if fld n 3 5 = 14 then some (.vor (bits n 21 5) (bits n 16 5) (bits n 11 5) (bits n 8 3) (bits n 0 3)) else
  if fld n 3 5 = 15 then some (.vxor (bits n 21 5) (bits n 16 5) (bits n 11 5) (bits n 8 3) (bits n 0 3)) else
  if fld n 3 5 = 16 then some (.vshl (bits n 21 5) (bits n 16 5) (bits n 11 5) (bits n 8 3) (bits n 0 3)) else
  if fld n 3 5 = 17 then some (.vshr (bits n 21 5) (bits n 16 5) (bits n 11 5) (bits n 8 3) (bits n 0 3)) else
  if fld n 3 5 = 18 then some (.vsra (bits n 21 5) (bits n 16 5) (bits n 11 5) (bits n 8 3) (bits n 0 3)) else
  none

/-- The words of major 0x29. -/
def decodeMajor29 (n : Nat) : Option Instr :=
  if fld n 3 5 = 0 then some (.vfma (bits n 21 5) (bits n 16 5) (bits n 11 5) (bits n 8 3) (bits n 0 3)) else
  if fld n 3 5 = 1 then some (.vfms (bits n 21 5) (bits n 16 5) (bits n 11 5) (bits n 8 3) (bits n 0 3)) else
  none

/-- The words of major 0x2A. -/
def decodeMajor2A (n : Nat) : Option Instr :=
  if fld n 3 5 = 0 then some (.vcmp (bits n 24 2) (bits n 21 3) (bits n 16 5) (bits n 11 5) (bits n 8 3) (bits n 0 3)) else
  if fld n 3 5 = 1 then some (.vsel (bits n 21 5) (bits n 16 5) (bits n 11 5) (bits n 8 3) (bits n 0 3)) else
  if fld n 0 16 = 16 ∧ fld n 20 1 = 0 ∧ fld n 24 8 = 168 then some (.mset (bits n 21 3) (bits n 16 4)) else
  if fld n 0 16 = 2064 ∧ fld n 19 2 = 0 ∧ fld n 25 7 = 84 then some (.msetR (bits n 21 4) (bits n 16 3)) else
  if fld n 0 11 = 24 ∧ fld n 14 2 = 0 ∧ fld n 19 2 = 0 ∧ fld n 24 8 = 168 then some (.mand (bits n 21 3) (bits n 16 3) (bits n 11 3)) else
  if fld n 0 11 = 32 ∧ fld n 14 2 = 0 ∧ fld n 19 2 = 0 ∧ fld n 24 8 = 168 then some (.mor (bits n 21 3) (bits n 16 3) (bits n 11 3)) else
  if fld n 0 16 = 40 ∧ fld n 19 2 = 0 ∧ fld n 24 8 = 168 then some (.mnot (bits n 21 3) (bits n 16 3)) else
  none

/-- The words of major 0x2B. -/
def decodeMajor2B (n : Nat) : Option Instr :=
  if fld n 3 5 = 0 then some (.vcvt (bits n 21 5) (bits n 16 5) (bits n 15 1) (bits n 11 4) (bits n 8 3) (bits n 0 3)) else
  if fld n 3 8 = 1 then some (.vqnt (bits n 21 5) (bits n 16 5) (bits n 15 1) (bits n 11 4) (bits n 0 3)) else
  if fld n 3 8 = 2 ∧ fld n 15 1 = 0 then some (.vdqn (bits n 21 5) (bits n 16 5) (bits n 11 4) (bits n 0 3)) else
  none

/-- The words of major 0x2C. -/
def decodeMajor2C (n : Nat) : Option Instr :=
  if fld n 3 5 = 0 ∧ fld n 13 3 = 0 ∧ fld n 25 7 = 88 then some (.vred (bits n 21 4) (bits n 16 5) (bits n 11 2) (bits n 8 3) (bits n 0 3)) else
  if fld n 3 5 = 1 ∧ fld n 13 3 = 0 then some (.vscan (bits n 21 5) (bits n 16 5) (bits n 11 2) (bits n 8 3) (bits n 0 3)) else
  if fld n 3 5 = 2 then some (.vperm (bits n 21 5) (bits n 16 5) (bits n 11 5) (bits n 8 3) (bits n 0 3)) else
  if fld n 3 5 = 3 ∧ fld n 11 5 = 0 ∧ fld n 20 1 = 0 then some (.vbcast (bits n 21 5) (bits n 16 4) (bits n 8 3) (bits n 0 3)) else
  if fld n 3 8 = 4 ∧ fld n 15 1 = 0 ∧ fld n 25 7 = 88 then some (.vmovg (bits n 21 4) (bits n 16 5) (bits n 11 4) (bits n 0 3)) else
  if fld n 3 8 = 5 ∧ fld n 15 1 = 0 ∧ fld n 20 1 = 0 then some (.vmovv (bits n 21 5) (bits n 16 4) (bits n 11 4) (bits n 0 3)) else
  none

/-- The words of major 0x2D. -/
def decodeMajor2D (n : Nat) : Option Instr :=
  if fld n 3 5 = 0 ∧ fld n 20 1 = 0 then some (.vld (bits n 21 5) (bits n 16 4) (bits n 11 5) (bits n 8 3) (bits n 0 3)) else
  if fld n 3 5 = 1 ∧ fld n 20 1 = 0 then some (.vst (bits n 21 5) (bits n 16 4) (bits n 11 5) (bits n 8 3) (bits n 0 3)) else
  if fld n 3 5 = 2 ∧ fld n 15 1 = 0 ∧ fld n 20 1 = 0 then some (.vlds (bits n 21 5) (bits n 16 4) (bits n 11 4) (bits n 8 3) (bits n 0 3)) else
  if fld n 3 5 = 3 ∧ fld n 15 1 = 0 ∧ fld n 20 1 = 0 then some (.vsts (bits n 21 5) (bits n 16 4) (bits n 11 4) (bits n 8 3) (bits n 0 3)) else
  if fld n 3 5 = 4 ∧ fld n 20 1 = 0 then some (.vgath (bits n 21 5) (bits n 16 4) (bits n 11 5) (bits n 8 3) (bits n 0 3)) else
  if fld n 3 5 = 5 ∧ fld n 20 1 = 0 then some (.vscat (bits n 21 5) (bits n 16 4) (bits n 11 5) (bits n 8 3) (bits n 0 3)) else
  none

/-- The words of major 0x2E. -/
def decodeMajor2E (n : Nat) : Option Instr :=
  if fld n 0 1 = 0 then some (.vrep (bits n 22 4) (bits n 16 6) (bits n 11 5) (bits n 6 5) (bits n 1 5)) else
  none

/-- The words of major 0x30. -/
def decodeMajor30 (n : Nat) : Option Instr :=
  if fld n 0 11 = 0 ∧ fld n 15 1 = 0 ∧ fld n 20 1 = 0 then some (.tdef (bits n 21 5) (bits n 16 4) (bits n 11 4)) else
  if fld n 0 16 = 128 ∧ fld n 25 7 = 96 then some (.tstat (bits n 21 4) (bits n 16 5)) else
  if fld n 0 11 = 256 ∧ fld n 15 1 = 0 ∧ fld n 20 1 = 0 then some (.tload (bits n 21 5) (bits n 16 4) (bits n 11 4)) else
  if fld n 0 11 = 384 ∧ fld n 15 1 = 0 ∧ fld n 20 1 = 0 then some (.tstore (bits n 21 5) (bits n 16 4) (bits n 11 4)) else
  if fld n 0 5 = 0 ∧ fld n 7 9 = 4 then some (.tcvt (bits n 21 5) (bits n 16 5) (bits n 6 1) (bits n 5 1)) else
  if fld n 0 11 = 640 ∧ fld n 15 1 = 0 ∧ fld n 20 12 = 3072 then some (.tcmd (bits n 16 4) (bits n 11 4)) else
  none

/-- The words of major 0x31. -/
def decodeMajor31 (n : Nat) : Option Instr :=
  if fld n 0 5 = 0 ∧ fld n 7 4 = 0 ∧ fld n 22 10 = 784 then some (.mma (bits n 21 1) (bits n 16 5) (bits n 11 5) (bits n 6 1) (bits n 5 1)) else
  if fld n 7 4 = 1 ∧ fld n 22 10 = 784 then some (.mmag (bits n 21 1) (bits n 16 5) (bits n 11 5) (bits n 6 1) (bits n 5 1) (bits n 0 5)) else
  if fld n 0 5 = 0 ∧ fld n 7 4 = 2 ∧ fld n 22 10 = 784 then some (.cmma (bits n 21 1) (bits n 16 5) (bits n 11 5) (bits n 6 1) (bits n 5 1)) else
  if fld n 0 5 = 0 ∧ fld n 7 4 = 3 ∧ fld n 22 10 = 784 then some (.gmma (bits n 21 1) (bits n 16 5) (bits n 11 5) (bits n 6 1) (bits n 5 1)) else
  if fld n 0 21 = 512 ∧ fld n 22 10 = 784 then some (.azero (bits n 21 1)) else
  if fld n 0 2 = 0 ∧ fld n 3 3 = 0 ∧ fld n 7 9 = 5 ∧ fld n 17 4 = 0 then some (.adrain (bits n 21 5) (bits n 16 1) (bits n 6 1) (bits n 2 1)) else
  if fld n 0 1 = 1 ∧ fld n 3 3 = 0 ∧ fld n 7 4 = 5 ∧ fld n 15 1 = 0 ∧ fld n 17 4 = 0 then some (.adrainR (bits n 21 5) (bits n 16 1) (bits n 11 4) (bits n 6 1) (bits n 2 1) (bits n 1 1)) else
  none

/-- The words of major 0x32. -/
def decodeMajor32 (n : Nat) : Option Instr :=
  if fld n 0 5 = 0 ∧ fld n 7 4 = 0 then some (.tadd (bits n 21 5) (bits n 16 5) (bits n 11 5) (bits n 6 1) (bits n 5 1)) else
  if fld n 0 5 = 0 ∧ fld n 7 4 = 1 then some (.tmul (bits n 21 5) (bits n 16 5) (bits n 11 5) (bits n 6 1) (bits n 5 1)) else
  if fld n 3 2 = 0 ∧ fld n 7 4 = 2 then some (.tact (bits n 21 5) (bits n 16 5) (bits n 11 5) (bits n 6 1) (bits n 5 1) (bits n 0 3)) else
  if fld n 0 5 = 0 ∧ fld n 7 9 = 3 then some (.tsum (bits n 21 5) (bits n 16 5) (bits n 6 1) (bits n 5 1)) else
  if fld n 0 16 = 512 then some (.ttrn (bits n 21 5) (bits n 16 5)) else
  none

/-- The words of major 0x34. -/
def decodeMajor34 (n : Nat) : Option Instr :=
  if fld n 0 16 = 0 then some (.tapon (bits n 22 4) ⟨bits n 18 4, bits n 16 2⟩) else
  if fld n 0 16 = 16 then some (.taponR (bits n 22 4) ⟨bits n 18 4, bits n 16 2⟩) else
  if fld n 0 32 = 3489660960 then some .tapoff else
  if fld n 0 32 = 3489660976 then some .tapoffX else
  if fld n 0 22 = 64 then some (.tmark (bits n 22 4)) else
  if fld n 0 16 = 96 then some (.reverse (bits n 22 4) ⟨bits n 18 4, bits n 16 2⟩) else
  if fld n 0 16 = 128 then some (.tspill (bits n 22 4) ⟨bits n 18 4, bits n 16 2⟩) else
  if fld n 0 16 = 160 then some (.tapst (bits n 22 4) ⟨bits n 18 4, bits n 16 2⟩) else
  none

/-- The words of major 0x36. -/
noncomputable def decodeMajor36 (n : Nat) : Option Instr :=
  if fld n 0 10 = 0 ∧ fld n 22 10 = 864 then some (.spld ⟨bits n 18 4, bits n 16 2⟩ ⟨bits n 12 4, bits n 10 2⟩) else
  if fld n 0 16 = 1 ∧ fld n 22 10 = 864 then some (.spldZ ⟨bits n 18 4, bits n 16 2⟩) else
  if fld n 0 10 = 128 ∧ fld n 22 10 = 864 then some (.spst ⟨bits n 18 4, bits n 16 2⟩ ⟨bits n 12 4, bits n 10 2⟩) else
  if fld n 0 10 = 256 ∧ fld n 22 10 = 864 then some (.spw ⟨bits n 18 4, bits n 16 2⟩ ⟨bits n 12 4, bits n 10 2⟩) else
  if fld n 0 5 = 0 ∧ fld n 7 9 = 3 then some (.spu (bits n 22 4) ⟨bits n 18 4, bits n 16 2⟩ (bits n 6 1) (bits n 5 1)) else
  if fld n 0 5 = 0 ∧ fld n 7 9 = 4 then some (.spd (bits n 22 4) ⟨bits n 18 4, bits n 16 2⟩ (bits n 6 1) (bits n 5 1)) else
  if fld n 0 10 = 640 then some (.spmode (bits n 22 4) ⟨bits n 18 4, bits n 16 2⟩ ⟨bits n 12 4, bits n 10 2⟩) else
  if fld n 0 5 = 0 ∧ fld n 7 3 = 6 ∧ fld n 22 10 = 864 then some (.spcvt ⟨bits n 18 4, bits n 16 2⟩ ⟨bits n 12 4, bits n 10 2⟩ (bits n 6 1) (bits n 5 1)) else
  if fld n 1 21 = 448 then some (.spstat (bits n 22 4) (bits n 0 1)) else
  none

/-- The words of major 0x38. -/
noncomputable def decodeMajor38 (n : Nat) : Option Instr :=
  if fld n 5 5 = 0 then some (.rgo (bits n 22 4) ⟨bits n 18 4, bits n 16 2⟩ (BitVec.ofNat 11 (fld n 10 6 * 2 ^ 5 + fld n 0 5))) else
  if fld n 0 32 = 3758096416 then some .rdone else
  if fld n 0 32 = 3758096448 then some .rabort else
  if fld n 0 10 = 96 then some (.permx (bits n 22 4) ⟨bits n 18 4, bits n 16 2⟩ ⟨bits n 12 4, bits n 10 2⟩) else
  if fld n 0 10 = 128 then some (.peer (bits n 22 4) ⟨bits n 18 4, bits n 16 2⟩ ⟨bits n 12 4, bits n 10 2⟩) else
  if fld n 0 10 = 160 then some (.lkey (bits n 22 4) ⟨bits n 18 4, bits n 16 2⟩ ⟨bits n 12 4, bits n 10 2⟩) else
  if fld n 0 16 = 192 then some (.lstat (bits n 22 4) ⟨bits n 18 4, bits n 16 2⟩) else
  none

/-- The words of major 0x39. -/
noncomputable def decodeMajor39 (n : Nat) : Option Instr :=
  if fld n 0 10 = 0 then some (.bopen (bits n 22 4) ⟨bits n 18 4, bits n 16 2⟩ ⟨bits n 12 4, bits n 10 2⟩) else
  if fld n 0 22 = 32 then some (.bclose (bits n 22 4)) else
  if fld n 0 10 = 64 then some (.bld (bits n 22 4) ⟨bits n 18 4, bits n 16 2⟩ ⟨bits n 12 4, bits n 10 2⟩) else
  if fld n 0 10 = 65 then some (.bldR (bits n 22 4) ⟨bits n 18 4, bits n 16 2⟩ ⟨bits n 12 4, bits n 10 2⟩) else
  if fld n 0 16 = 96 then some (.bview (bits n 22 4) ⟨bits n 18 4, bits n 16 2⟩) else
  if fld n 0 22 = 128 then some (.bstat (bits n 22 4)) else
  none

/-- The words of major 0x3D. -/
noncomputable def decodeMajor3D (n : Nat) : Option Instr :=
  if fld n 0 32 = 4093640704 then some .once else
  if fld n 16 16 = 62528 then some (.pfx (bits n 0 16)) else
  none

/-- The fields of a word, before the checks of `Instr.wf`: none where no row of the opcode map fits (R57, R59). -/
noncomputable def decodeRaw (n : Nat) : Option Instr :=
  match n / 2 ^ 26 with
  | 0x01 => decodeMajor01 n
  | 0x02 => decodeMajor02 n
  | 0x03 => decodeMajor03 n
  | 0x04 => decodeMajor04 n
  | 0x05 => decodeMajor05 n
  | 0x06 => decodeMajor06 n
  | 0x07 => decodeMajor07 n
  | 0x08 => decodeMajor08 n
  | 0x09 => decodeMajor09 n
  | 0x0A => decodeMajor0A n
  | 0x0B => decodeMajor0B n
  | 0x10 => decodeMajor10 n
  | 0x11 => decodeMajor11 n
  | 0x12 => decodeMajor12 n
  | 0x13 => decodeMajor13 n
  | 0x14 => decodeMajor14 n
  | 0x15 => decodeMajor15 n
  | 0x16 => decodeMajor16 n
  | 0x18 => decodeMajor18 n
  | 0x19 => decodeMajor19 n
  | 0x1A => decodeMajor1A n
  | 0x1B => decodeMajor1B n
  | 0x1C => decodeMajor1C n
  | 0x1D => decodeMajor1D n
  | 0x1E => decodeMajor1E n
  | 0x20 => decodeMajor20 n
  | 0x21 => decodeMajor21 n
  | 0x23 => decodeMajor23 n
  | 0x24 => decodeMajor24 n
  | 0x25 => decodeMajor25 n
  | 0x26 => decodeMajor26 n
  | 0x27 => decodeMajor27 n
  | 0x28 => decodeMajor28 n
  | 0x29 => decodeMajor29 n
  | 0x2A => decodeMajor2A n
  | 0x2B => decodeMajor2B n
  | 0x2C => decodeMajor2C n
  | 0x2D => decodeMajor2D n
  | 0x2E => decodeMajor2E n
  | 0x30 => decodeMajor30 n
  | 0x31 => decodeMajor31 n
  | 0x32 => decodeMajor32 n
  | 0x34 => decodeMajor34 n
  | 0x36 => decodeMajor36 n
  | 0x38 => decodeMajor38 n
  | 0x39 => decodeMajor39 n
  | 0x3D => decodeMajor3D n
  | _ => none

/-- The instruction of a 32-bit word, or none where R59 says the word is no instruction. -/
noncomputable def decodeNat (n : Nat) : Option Instr :=
  if n < 2 ^ 32 then
    match decodeRaw n with
    | some i => if i.wf then some i else none
    | none => none
  else none

/-- The instruction of an instruction word (R49). -/
noncomputable def decode (w : IWord) : Option Instr := decodeNat w.toNat

/-- Reads one instruction from bytes in memory order (R49: little-endian words) and returns the bytes after it. -/
noncomputable def decodeBytes : List Byte → Option (Instr × List Byte)
  | b0 :: b1 :: b2 :: b3 :: rest =>
    match decodeNat (b0.toNat + b1.toNat * 2 ^ 8 + b2.toNat * 2 ^ 16 + b3.toNat * 2 ^ 24) with
    | some i => some (i, rest)
    | none => none
  | _ => none

/-- The bytes of a word of `nbits` bits, least significant first. -/
def wordBytes (n : Nat) : List Byte :=
  [BitVec.ofNat 8 n, BitVec.ofNat 8 (n / 2 ^ 8), BitVec.ofNat 8 (n / 2 ^ 16), BitVec.ofNat 8 (n / 2 ^ 24)]

/-- What the decoder reads from an instruction whose bits are `w`, numbered as the opcode table numbers them. Every
instruction is one word; a word with bits above bit 31 is none. -/
noncomputable def decodeTableWord (_nbits w : Nat) : Option Instr :=
  if w < 2 ^ 32 then (decodeBytes (wordBytes w)).map (fun r => r.1) else none

/-- The number a mode-bearing source field contributes: register at bit `l`, mode at bit `m`. -/
def encSrc (s : Src) (l m : Nat) : Nat := s.reg.toNat * 2 ^ l + s.mode.toNat * 2 ^ m

/-- The number a field contributes at bit `l`. -/
def encFld {w : Nat} (x : BitVec w) (l : Nat) : Nat := x.toNat * 2 ^ l

/-- The number a field in two pieces contributes: its low `k` bits at bit `l0` and the rest at bit `l1`. -/
def encSplit {w : Nat} (x : BitVec w) (k l1 l0 : Nat) : Nat := x.toNat / 2 ^ k * 2 ^ l1 + x.toNat % 2 ^ k * 2 ^ l0

/-- A word's fixed bits with its fields. -/
def pack (fixed : Nat) (fs : List Nat) : Nat := fs.foldl (fun x y => x + y) fixed

/-- The word of an instruction, as a number; 0, which is no instruction (R59), for an event. -/
def encodeNat : Instr → Nat
  | .add d a b => pack 0x04000000 [encFld d 22, encSrc a 18 16, encSrc b 12 10]
  | .sub d a b => pack 0x04000001 [encFld d 22, encSrc a 18 16, encSrc b 12 10]
  | .and d a b => pack 0x04000002 [encFld d 22, encSrc a 18 16, encSrc b 12 10]
  | .or d a b => pack 0x04000003 [encFld d 22, encSrc a 18 16, encSrc b 12 10]
  | .xor d a b => pack 0x04000004 [encFld d 22, encSrc a 18 16, encSrc b 12 10]
  | .andn d a b => pack 0x04000005 [encFld d 22, encSrc a 18 16, encSrc b 12 10]
  | .shl d a b => pack 0x04000006 [encFld d 22, encSrc a 18 16, encSrc b 12 10]
  | .shr d a b => pack 0x04000007 [encFld d 22, encSrc a 18 16, encSrc b 12 10]
  | .sra d a b => pack 0x04000008 [encFld d 22, encSrc a 18 16, encSrc b 12 10]
  | .rol d a b => pack 0x04000009 [encFld d 22, encSrc a 18 16, encSrc b 12 10]
  | .mul d a b => pack 0x0400000A [encFld d 22, encSrc a 18 16, encSrc b 12 10]
  | .mulh d a b => pack 0x0400000B [encFld d 22, encSrc a 18 16, encSrc b 12 10]
  | .mulhu d a b => pack 0x0400000C [encFld d 22, encSrc a 18 16, encSrc b 12 10]
  | .div d a b => pack 0x0400000D [encFld d 22, encSrc a 18 16, encSrc b 12 10]
  | .divu d a b => pack 0x0400000E [encFld d 22, encSrc a 18 16, encSrc b 12 10]
  | .rem d a b => pack 0x0400000F [encFld d 22, encSrc a 18 16, encSrc b 12 10]
  | .remu d a b => pack 0x04000010 [encFld d 22, encSrc a 18 16, encSrc b 12 10]
  | .min d a b => pack 0x04000011 [encFld d 22, encSrc a 18 16, encSrc b 12 10]
  | .max d a b => pack 0x04000012 [encFld d 22, encSrc a 18 16, encSrc b 12 10]
  | .minu d a b => pack 0x04000013 [encFld d 22, encSrc a 18 16, encSrc b 12 10]
  | .maxu d a b => pack 0x04000014 [encFld d 22, encSrc a 18 16, encSrc b 12 10]
  | .clz d a => pack 0x04000015 [encFld d 22, encSrc a 18 16]
  | .ctz d a => pack 0x04000016 [encFld d 22, encSrc a 18 16]
  | .popc d a => pack 0x04000017 [encFld d 22, encSrc a 18 16]
  | .bswap d a => pack 0x04000018 [encFld d 22, encSrc a 18 16]
  | .sext d a b => pack 0x04000019 [encFld d 22, encSrc a 18 16, encSrc b 12 10]
  | .zext d a b => pack 0x0400001A [encFld d 22, encSrc a 18 16, encSrc b 12 10]
  | .seq d a b => pack 0x0400001B [encFld d 22, encSrc a 18 16, encSrc b 12 10]
  | .sne d a b => pack 0x0400001C [encFld d 22, encSrc a 18 16, encSrc b 12 10]
  | .slt d a b => pack 0x0400001D [encFld d 22, encSrc a 18 16, encSrc b 12 10]
  | .sltu d a b => pack 0x0400001E [encFld d 22, encSrc a 18 16, encSrc b 12 10]
  | .sle d a b => pack 0x0400001F [encFld d 22, encSrc a 18 16, encSrc b 12 10]
  | .sleu d a b => pack 0x04000020 [encFld d 22, encSrc a 18 16, encSrc b 12 10]
  | .addi d a i => pack 0x08000000 [encFld d 22, encSrc a 18 16, encFld i 0]
  | .andi d a i => pack 0x0C000000 [encFld d 22, encSrc a 18 16, encFld i 0]
  | .ori d a i => pack 0x10000000 [encFld d 22, encSrc a 18 16, encFld i 0]
  | .xori d a i => pack 0x14000000 [encFld d 22, encSrc a 18 16, encFld i 0]
  | .shli d a s => pack 0x18000000 [encFld d 22, encSrc a 18 16, encFld s 0]
  | .shri d a s => pack 0x18004000 [encFld d 22, encSrc a 18 16, encFld s 0]
  | .srai d a s => pack 0x18008000 [encFld d 22, encSrc a 18 16, encFld s 0]
  | .roli d a s => pack 0x1800C000 [encFld d 22, encSrc a 18 16, encFld s 0]
  | .lih d a i => pack 0x1C000000 [encFld d 22, encSrc a 18 16, encFld i 0]
  | .seqi d a i => pack 0x20000000 [encFld d 22, encSrc a 18 16, encFld i 0]
  | .slti d a i => pack 0x20004000 [encFld d 22, encSrc a 18 16, encFld i 0]
  | .sltui d a i => pack 0x20008000 [encFld d 22, encSrc a 18 16, encFld i 0]
  | .muli d a i => pack 0x24000000 [encFld d 22, encSrc a 18 16, encFld i 0]
  | .fadd d a b s => pack 0x28000000 [encFld d 22, encSrc a 18 16, encSrc b 12 10, encFld s 4]
  | .fsub d a b s => pack 0x28000020 [encFld d 22, encSrc a 18 16, encSrc b 12 10, encFld s 4]
  | .fmul d a b s => pack 0x28000040 [encFld d 22, encSrc a 18 16, encSrc b 12 10, encFld s 4]
  | .fdiv d a b s => pack 0x28000060 [encFld d 22, encSrc a 18 16, encSrc b 12 10, encFld s 4]
  | .fsqrt d a s => pack 0x28000080 [encFld d 22, encSrc a 18 16, encFld s 4]
  | .fmin d a b s => pack 0x280000A0 [encFld d 22, encSrc a 18 16, encSrc b 12 10, encFld s 4]
  | .fmax d a b s => pack 0x280000C0 [encFld d 22, encSrc a 18 16, encSrc b 12 10, encFld s 4]
  | .fneg d a s => pack 0x280000E0 [encFld d 22, encSrc a 18 16, encFld s 4]
  | .fabs d a s => pack 0x28000100 [encFld d 22, encSrc a 18 16, encFld s 4]
  | .feq d a b s => pack 0x28000120 [encFld d 22, encSrc a 18 16, encSrc b 12 10, encFld s 4]
  | .flt d a b s => pack 0x28000140 [encFld d 22, encSrc a 18 16, encSrc b 12 10, encFld s 4]
  | .fle d a b s => pack 0x28000160 [encFld d 22, encSrc a 18 16, encSrc b 12 10, encFld s 4]
  | .fclass d a s => pack 0x28000180 [encFld d 22, encSrc a 18 16, encFld s 4]
  | .fcvt d a s => pack 0x280001A0 [encFld d 22, encSrc a 18 16, encFld s 4]
  | .ftoi d a s => pack 0x280001C0 [encFld d 22, encSrc a 18 16, encFld s 4]
  | .itof d a s => pack 0x280001E0 [encFld d 22, encSrc a 18 16, encFld s 4]
  | .fma d a b c s => pack 0x2C000000 [encFld d 22, encSrc a 18 16, encSrc b 12 10, encSrc c 6 4, encFld s 3]
  | .fms d a b c s => pack 0x2C000001 [encFld d 22, encSrc a 18 16, encSrc b 12 10, encSrc c 6 4, encFld s 3]
  | .fnma d a b c s => pack 0x2C000002 [encFld d 22, encSrc a 18 16, encSrc b 12 10, encSrc c 6 4, encFld s 3]
  | .fnms d a b c s => pack 0x2C000003 [encFld d 22, encSrc a 18 16, encSrc b 12 10, encSrc c 6 4, encFld s 3]
  | .ld d a z o => pack 0x40000000 [encFld d 22, encSrc a 18 16, encFld z 13, encFld o 0]
  | .st d a z o => pack 0x44000000 [encFld d 22, encSrc a 18 16, encFld z 13, encFld o 0]
  | .ldm f a l o => pack 0x48000000 [encFld f 22, encSrc a 18 16, encFld l 12, encFld o 0]
  | .stm f a l o => pack 0x48000800 [encFld f 22, encSrc a 18 16, encFld l 12, encFld o 0]
  | .amoAdd d a b w x y => pack 0x4C000000 [encFld d 22, encSrc a 18 16, encSrc b 12 10, encFld w 4, encFld x 3, encFld y 2]
  | .amoAnd d a b w x y => pack 0x4C000020 [encFld d 22, encSrc a 18 16, encSrc b 12 10, encFld w 4, encFld x 3, encFld y 2]
  | .amoOr d a b w x y => pack 0x4C000040 [encFld d 22, encSrc a 18 16, encSrc b 12 10, encFld w 4, encFld x 3, encFld y 2]
  | .amoXor d a b w x y => pack 0x4C000060 [encFld d 22, encSrc a 18 16, encSrc b 12 10, encFld w 4, encFld x 3, encFld y 2]
  | .amoMin d a b w x y => pack 0x4C000080 [encFld d 22, encSrc a 18 16, encSrc b 12 10, encFld w 4, encFld x 3, encFld y 2]
  | .amoMax d a b w x y => pack 0x4C0000A0 [encFld d 22, encSrc a 18 16, encSrc b 12 10, encFld w 4, encFld x 3, encFld y 2]
  | .amoMinu d a b w x y => pack 0x4C0000C0 [encFld d 22, encSrc a 18 16, encSrc b 12 10, encFld w 4, encFld x 3, encFld y 2]
  | .amoMaxu d a b w x y => pack 0x4C0000E0 [encFld d 22, encSrc a 18 16, encSrc b 12 10, encFld w 4, encFld x 3, encFld y 2]
  | .amoSwp d a b w x y => pack 0x4C000100 [encFld d 22, encSrc a 18 16, encSrc b 12 10, encFld w 4, encFld x 3, encFld y 2]
  | .amoCas d a b w x y => pack 0x4C000120 [encFld d 22, encSrc a 18 16, encSrc b 12 10, encFld w 4, encFld x 3, encFld y 2]
  | .amoFadd d a b w x y => pack 0x4C000140 [encFld d 22, encSrc a 18 16, encSrc b 12 10, encFld w 4, encFld x 3, encFld y 2]
  | .fence d s k => pack 0x50000000 [encFld d 22, encFld s 2, encFld k 0]
  | .drainS => 0x50000020
  | .isync => 0x50000040
  | .frd d a t c => pack 0x54000000 [encFld d 22, encSrc a 18 16, encFld t 4, encFld c 3]
  | .fwr a b => pack 0x54000020 [encSrc a 18 16, encSrc b 12 10]
  | .fclr a => pack 0x54000040 [encSrc a 18 16]
  | .xwr d a b => pack 0x58000000 [encFld d 22, encSrc a 18 16, encSrc b 12 10]
  | .slb d => pack 0x58000020 [encFld d 22]
  | .slr => 0x58000040
  | .mxf d b => pack 0x58000060 [encFld d 22, encFld b 12]
  | .mxt d a => pack 0x58000080 [encFld d 22, encSrc a 18 16]
  | .bindq d b => pack 0x580000A0 [encFld d 22, encSrc b 12 10]
  | .unbq d => pack 0x580000C0 [encFld d 22]
  | .empty d => pack 0x580000E0 [encFld d 22]
  | .isfull d a => pack 0x58000100 [encFld d 22, encFld a 18]
  | .beqz a o => pack 0x60000000 [encSrc a 22 20, encFld o 0]
  | .bnez a o => pack 0x60020000 [encSrc a 22 20, encFld o 0]
  | .bltz a o => pack 0x60040000 [encSrc a 22 20, encFld o 0]
  | .bgez a o => pack 0x60060000 [encSrc a 22 20, encFld o 0]
  | .bgtz a o => pack 0x60080000 [encSrc a 22 20, encFld o 0]
  | .blez a o => pack 0x600A0000 [encSrc a 22 20, encFld o 0]
  | .beq a b o => pack 0x64000000 [encSrc a 22 16, encSrc b 18 14, encFld o 0]
  | .bne a b o => pack 0x64000800 [encSrc a 22 16, encSrc b 18 14, encFld o 0]
  | .blt a b o => pack 0x64001000 [encSrc a 22 16, encSrc b 18 14, encFld o 0]
  | .bge a b o => pack 0x64001800 [encSrc a 22 16, encSrc b 18 14, encFld o 0]
  | .bltu a b o => pack 0x64002000 [encSrc a 22 16, encSrc b 18 14, encFld o 0]
  | .bgeu a b o => pack 0x64002800 [encSrc a 22 16, encSrc b 18 14, encFld o 0]
  | .j o => pack 0x68000000 [encFld o 0]
  | .jal o => pack 0x6A000000 [encFld o 0]
  | .jr a => pack 0x6C000000 [encSrc a 18 16]
  | .jalr d a => pack 0x6C000020 [encFld d 22, encSrc a 18 16]
  | .loop a o => pack 0x70000000 [encSrc a 22 20, encFld o 0]
  | .trap c => pack 0x74000000 [encFld c 0]
  | .sysc c => pack 0x74001000 [encFld c 0]
  | .eret => 0x74002000
  | .brk c => pack 0x74003000 [encFld c 0]
  | .nop => 0x74004000
  | .snap => 0x74005000
  | .csrr d n => pack 0x78000000 [encFld d 22, encFld n 0]
  | .csrw d a n => pack 0x78001000 [encFld d 22, encSrc a 18 16, encFld n 0]
  | .csrs d a n => pack 0x78002000 [encFld d 22, encSrc a 18 16, encFld n 0]
  | .csrc d a n => pack 0x78003000 [encFld d 22, encSrc a 18 16, encFld n 0]
  | .spawn d a b n l v => pack 0x80000000 [encFld d 22, encSrc a 18 16, encSrc b 12 10, encFld n 4, encFld l 3, encFld v 0]
  | .gang d a e => pack 0x80000020 [encFld d 22, encSrc a 18 16, encFld e 4]
  | .yield => 0x80000040
  | .prio d a => pack 0x80000060 [encFld d 22, encSrc a 18 16]
  | .exit a => pack 0x80000080 [encSrc a 18 16]
  | .killg d a => pack 0x800000A0 [encFld d 22, encSrc a 18 16]
  | .susp d a => pack 0x800000C0 [encFld d 22, encSrc a 18 16]
  | .resm d a => pack 0x800000E0 [encFld d 22, encSrc a 18 16]
  | .migr d a b => pack 0x80000100 [encFld d 22, encSrc a 18 16, encSrc b 12 10]
  | .pself d => pack 0x80000120 [encFld d 22]
  | .pinfo d a => pack 0x80000140 [encFld d 22, encSrc a 18 16]
  | .wfw a => pack 0x80000160 [encSrc a 18 16]
  | .sleep a => pack 0x80000180 [encSrc a 18 16]
  | .trapw d w => pack 0x800001A0 [encFld d 22, encFld w 4]
  | .quiesce d a b => pack 0x800001C0 [encFld d 22, encSrc a 18 16, encSrc b 12 10]
  | .quiesceR d a b => pack 0x800001D0 [encFld d 22, encSrc a 18 16, encSrc b 12 10]
  | .gbar d => pack 0x84000000 [encFld d 22]
  | .garr d => pack 0x84000020 [encFld d 22]
  | .gwait a => pack 0x84000040 [encSrc a 18 16]
  | .gexp a b => pack 0x84000060 [encSrc a 18 16, encSrc b 12 10]
  | .svopen d a b => pack 0x8C000000 [encFld d 22, encSrc a 18 16, encSrc b 12 10]
  | .timer d a b => pack 0x8C000020 [encFld d 22, encSrc a 18 16, encSrc b 12 10]
  | .dqry d a b => pack 0x8C000040 [encFld d 22, encSrc a 18 16, encSrc b 12 10]
  | .dlkq d a => pack 0x8C000060 [encFld d 22, encSrc a 18 16]
  | .chnew d a => pack 0x90000000 [encFld d 22, encSrc a 18 16]
  | .chdel a => pack 0x90000020 [encSrc a 18 16]
  | .chbind d a b => pack 0x90000040 [encFld d 22, encSrc a 18 16, encSrc b 12 10]
  | .chqry d a => pack 0x90000060 [encFld d 22, encSrc a 18 16]
  | .chpoll d a => pack 0x90000080 [encFld d 22, encSrc a 18 16]
  | .sendh a b => pack 0x900000A0 [encSrc a 18 16, encSrc b 12 10]
  | .send a b => pack 0x94000000 [encSrc a 18 16, encSrc b 12 10]
  | .recv d a => pack 0x94000020 [encFld d 22, encSrc a 18 16]
  | .sendb a b => pack 0x94000040 [encSrc a 18 16, encSrc b 12 10]
  | .recvb d a b => pack 0x94000060 [encFld d 22, encSrc a 18 16, encSrc b 12 10]
  | .sendt a b t => pack 0x94000080 [encSrc a 18 16, encSrc b 12 10, encFld t 4]
  | .recvt a b t => pack 0x940000A0 [encSrc a 18 16, encSrc b 12 10, encFld t 4]
  | .senda d a b => pack 0x940000C0 [encFld d 22, encSrc a 18 16, encSrc b 12 10]
  | .trecv d a b t => pack 0x940000E0 [encFld d 22, encSrc a 18 16, encSrc b 12 10, encFld t 4]
  | .alt d a b f => pack 0x98000000 [encFld d 22, encSrc a 18 16, encSrc b 12 10, encFld f 4]
  | .copy d a b => pack 0x9C000000 [encFld d 22, encSrc a 18 16, encSrc b 12 10]
  | .cwait d a b => pack 0x9C000020 [encFld d 22, encSrc a 18 16, encSrc b 12 10]
  | .strm d b => pack 0x9C000040 [encFld d 22, encSrc b 12 10]
  | .subs d a b => pack 0x9C000060 [encFld d 22, encSrc a 18 16, encSrc b 12 10]
  | .unsub d a => pack 0x9C000080 [encFld d 22, encSrc a 18 16]
  | .mcast a b => pack 0x9C0000A0 [encSrc a 18 16, encSrc b 12 10]
  | .vadd d a b k e => pack 0xA0000000 [encFld d 21, encFld a 16, encFld b 11, encFld k 8, encFld e 0]
  | .vsub d a b k e => pack 0xA0000008 [encFld d 21, encFld a 16, encFld b 11, encFld k 8, encFld e 0]
  | .vmul d a b k e => pack 0xA0000010 [encFld d 21, encFld a 16, encFld b 11, encFld k 8, encFld e 0]
  | .vdiv d a b k e => pack 0xA0000018 [encFld d 21, encFld a 16, encFld b 11, encFld k 8, encFld e 0]
  | .vmin d a b k e => pack 0xA0000020 [encFld d 21, encFld a 16, encFld b 11, encFld k 8, encFld e 0]
  | .vmax d a b k e => pack 0xA0000028 [encFld d 21, encFld a 16, encFld b 11, encFld k 8, encFld e 0]
  | .vabs d a k e => pack 0xA0000030 [encFld d 21, encFld a 16, encFld k 8, encFld e 0]
  | .vneg d a k e => pack 0xA0000038 [encFld d 21, encFld a 16, encFld k 8, encFld e 0]
  | .vsqrt d a k e => pack 0xA0000040 [encFld d 21, encFld a 16, encFld k 8, encFld e 0]
  | .vrsq d a k => pack 0xA000004C [encFld d 21, encFld a 16, encFld k 8]
  | .vexp2 d a k => pack 0xA0000054 [encFld d 21, encFld a 16, encFld k 8]
  | .vlog2 d a k => pack 0xA000005C [encFld d 21, encFld a 16, encFld k 8]
  | .vcmul d a b k => pack 0xA0000064 [encFld d 21, encFld a 16, encFld b 11, encFld k 8]
  | .vand d a b k e => pack 0xA0000068 [encFld d 21, encFld a 16, encFld b 11, encFld k 8, encFld e 0]
  | .vor d a b k e => pack 0xA0000070 [encFld d 21, encFld a 16, encFld b 11, encFld k 8, encFld e 0]
  | .vxor d a b k e => pack 0xA0000078 [encFld d 21, encFld a 16, encFld b 11, encFld k 8, encFld e 0]
  | .vshl d a b k e => pack 0xA0000080 [encFld d 21, encFld a 16, encFld b 11, encFld k 8, encFld e 0]
  | .vshr d a b k e => pack 0xA0000088 [encFld d 21, encFld a 16, encFld b 11, encFld k 8, encFld e 0]
  | .vsra d a b k e => pack 0xA0000090 [encFld d 21, encFld a 16, encFld b 11, encFld k 8, encFld e 0]
  | .vfma d a b k e => pack 0xA4000000 [encFld d 21, encFld a 16, encFld b 11, encFld k 8, encFld e 0]
  | .vfms d a b k e => pack 0xA4000008 [encFld d 21, encFld a 16, encFld b 11, encFld k 8, encFld e 0]
  | .vcmp c d a b k e => pack 0xA8000000 [encFld c 24, encFld d 21, encFld a 16, encFld b 11, encFld k 8, encFld e 0]
  | .vsel d a b k e => pack 0xA8000008 [encFld d 21, encFld a 16, encFld b 11, encFld k 8, encFld e 0]
  | .mset d a => pack 0xA8000010 [encFld d 21, encFld a 16]
  | .msetR d a => pack 0xA8000810 [encFld d 21, encFld a 16]
  | .mand d a b => pack 0xA8000018 [encFld d 21, encFld a 16, encFld b 11]
  | .mor d a b => pack 0xA8000020 [encFld d 21, encFld a 16, encFld b 11]
  | .mnot d a => pack 0xA8000028 [encFld d 21, encFld a 16]
  | .vcvt d a h f k e => pack 0xAC000000 [encFld d 21, encFld a 16, encFld h 15, encFld f 11, encFld k 8, encFld e 0]
  | .vqnt d a n f e => pack 0xAC000008 [encFld d 21, encFld a 16, encFld n 15, encFld f 11, encFld e 0]
  | .vdqn d a f e => pack 0xAC000010 [encFld d 21, encFld a 16, encFld f 11, encFld e 0]
  | .vred d a o k e => pack 0xB0000000 [encFld d 21, encFld a 16, encFld o 11, encFld k 8, encFld e 0]
  | .vscan d a o k e => pack 0xB0000008 [encFld d 21, encFld a 16, encFld o 11, encFld k 8, encFld e 0]
  | .vperm d a b k e => pack 0xB0000010 [encFld d 21, encFld a 16, encFld b 11, encFld k 8, encFld e 0]
  | .vbcast d a k e => pack 0xB0000018 [encFld d 21, encFld a 16, encFld k 8, encFld e 0]
  | .vmovg d a b e => pack 0xB0000020 [encFld d 21, encFld a 16, encFld b 11, encFld e 0]
  | .vmovv d a b e => pack 0xB0000028 [encFld d 21, encFld a 16, encFld b 11, encFld e 0]
  | .vld d a o k e => pack 0xB4000000 [encFld d 21, encFld a 16, encFld o 11, encFld k 8, encFld e 0]
  | .vst d a o k e => pack 0xB4000008 [encFld d 21, encFld a 16, encFld o 11, encFld k 8, encFld e 0]
  | .vlds d a b k e => pack 0xB4000010 [encFld d 21, encFld a 16, encFld b 11, encFld k 8, encFld e 0]
  | .vsts d a b k e => pack 0xB4000018 [encFld d 21, encFld a 16, encFld b 11, encFld k 8, encFld e 0]
  | .vgath d a b k e => pack 0xB4000020 [encFld d 21, encFld a 16, encFld b 11, encFld k 8, encFld e 0]
  | .vscat d a b k e => pack 0xB4000028 [encFld d 21, encFld a 16, encFld b 11, encFld k 8, encFld e 0]
  | .vrep w r d a b => pack 0xB8000000 [encFld w 22, encFld r 16, encFld d 11, encFld a 6, encFld b 1]
  | .tdef d a b => pack 0xC0000000 [encFld d 21, encFld a 16, encFld b 11]
  | .tstat d a => pack 0xC0000080 [encFld d 21, encFld a 16]
  | .tload d a b => pack 0xC0000100 [encFld d 21, encFld a 16, encFld b 11]
  | .tstore d a b => pack 0xC0000180 [encFld d 21, encFld a 16, encFld b 11]
  | .tcvt d a z y => pack 0xC0000200 [encFld d 21, encFld a 16, encFld z 6, encFld y 5]
  | .tcmd a b => pack 0xC0000280 [encFld a 16, encFld b 11]
  | .mma k a b z y => pack 0xC4000000 [encFld k 21, encFld a 16, encFld b 11, encFld z 6, encFld y 5]
  | .mmag k a b z y i => pack 0xC4000080 [encFld k 21, encFld a 16, encFld b 11, encFld z 6, encFld y 5, encFld i 0]
  | .cmma k a b z y => pack 0xC4000100 [encFld k 21, encFld a 16, encFld b 11, encFld z 6, encFld y 5]
  | .gmma k a b z y => pack 0xC4000180 [encFld k 21, encFld a 16, encFld b 11, encFld z 6, encFld y 5]
  | .azero k => pack 0xC4000200 [encFld k 21]
  | .adrain d k z x => pack 0xC4000280 [encFld d 21, encFld k 16, encFld z 6, encFld x 2]
  | .adrainR d k b z x w => pack 0xC4000281 [encFld d 21, encFld k 16, encFld b 11, encFld z 6, encFld x 2, encFld w 1]
  | .tadd d a b z y => pack 0xC8000000 [encFld d 21, encFld a 16, encFld b 11, encFld z 6, encFld y 5]
  | .tmul d a b z y => pack 0xC8000080 [encFld d 21, encFld a 16, encFld b 11, encFld z 6, encFld y 5]
  | .tact d a s z y f => pack 0xC8000100 [encFld d 21, encFld a 16, encFld s 11, encFld z 6, encFld y 5, encFld f 0]
  | .tsum d a z y => pack 0xC8000180 [encFld d 21, encFld a 16, encFld z 6, encFld y 5]
  | .ttrn d a => pack 0xC8000200 [encFld d 21, encFld a 16]
  | .tapon d a => pack 0xD0000000 [encFld d 22, encSrc a 18 16]
  | .taponR d a => pack 0xD0000010 [encFld d 22, encSrc a 18 16]
  | .tapoff => 0xD0000020
  | .tapoffX => 0xD0000030
  | .tmark d => pack 0xD0000040 [encFld d 22]
  | .reverse d a => pack 0xD0000060 [encFld d 22, encSrc a 18 16]
  | .tspill d a => pack 0xD0000080 [encFld d 22, encSrc a 18 16]
  | .tapst d a => pack 0xD00000A0 [encFld d 22, encSrc a 18 16]
  | .spld a b => pack 0xD8000000 [encSrc a 18 16, encSrc b 12 10]
  | .spldZ a => pack 0xD8000001 [encSrc a 18 16]
  | .spst a b => pack 0xD8000080 [encSrc a 18 16, encSrc b 12 10]
  | .spw a b => pack 0xD8000100 [encSrc a 18 16, encSrc b 12 10]
  | .spu d a z y => pack 0xD8000180 [encFld d 22, encSrc a 18 16, encFld z 6, encFld y 5]
  | .spd d a z y => pack 0xD8000200 [encFld d 22, encSrc a 18 16, encFld z 6, encFld y 5]
  | .spmode d a b => pack 0xD8000280 [encFld d 22, encSrc a 18 16, encSrc b 12 10]
  | .spcvt a b z y => pack 0xD8000300 [encSrc a 18 16, encSrc b 12 10, encFld z 6, encFld y 5]
  | .spstat d c => pack 0xD8000380 [encFld d 22, encFld c 0]
  | .rgo d a o => pack 0xE0000000 [encFld d 22, encSrc a 18 16, encSplit o 5 10 0]
  | .rdone => 0xE0000020
  | .rabort => 0xE0000040
  | .permx d a b => pack 0xE0000060 [encFld d 22, encSrc a 18 16, encSrc b 12 10]
  | .peer d a b => pack 0xE0000080 [encFld d 22, encSrc a 18 16, encSrc b 12 10]
  | .lkey d a b => pack 0xE00000A0 [encFld d 22, encSrc a 18 16, encSrc b 12 10]
  | .lstat d a => pack 0xE00000C0 [encFld d 22, encSrc a 18 16]
  | .bopen d a b => pack 0xE4000000 [encFld d 22, encSrc a 18 16, encSrc b 12 10]
  | .bclose d => pack 0xE4000020 [encFld d 22]
  | .bld d a b => pack 0xE4000040 [encFld d 22, encSrc a 18 16, encSrc b 12 10]
  | .bldR d a b => pack 0xE4000041 [encFld d 22, encSrc a 18 16, encSrc b 12 10]
  | .bview d a => pack 0xE4000060 [encFld d 22, encSrc a 18 16]
  | .bstat d => pack 0xE4000080 [encFld d 22]
  | .once => 0xF4000000
  | .pfx p => pack 0xF4400000 [encFld p 0]
  | .rotationBoundary _ => 0
  | .quantumExpiry _ _ => 0
  | .budgetExhausted _ => 0
  | .urgentWindowEnd _ => 0
  | .fill _ _ => 0
  | .xwrDelivery _ => 0
  | .xwrWrite _ => 0
  | .storeTranslate _ _ => 0
  | .translatorLookupDone _ => 0
  | .pageWalkRead _ _ _ => 0
  | .pageWalkEnd _ _ => 0
  | .storeAck _ _ => 0
  | .storeNak _ _ _ => 0
  | .sfqCopy _ => 0
  | .remoteAccessArrival _ => 0
  | .amoAtHome _ => 0
  | .slotRegisterWrite _ _ _ _ => 0
  | .tinvWrite _ _ _ => 0
  | .csrWindowWrite _ _ _ => 0
  | .invalidationArrival _ _ => 0
  | .invalidationComplete _ _ => 0
  | .frdAnswer _ => 0
  | .launchRecord _ _ _ => 0
  | .launchTakeEffect _ => 0
  | .launchHeader _ _ => 0
  | .start _ => 0
  | .nameLookup _ _ => 0
  | .nameLookupAnswer _ _ => 0
  | .killArrival _ _ => 0
  | .groupRelease _ => 0
  | .migrationArrival _ => 0
  | .migrationAnswer _ _ => 0
  | .locationUpdate _ _ => 0
  | .forwardExpiry _ => 0
  | .quiesceStill _ => 0
  | .barrierArrival _ _ => 0
  | .exitDrainComplete _ => 0
  | .notificationDelivery _ => 0
  | .sleepExpiry _ => 0
  | .detectionWave _ _ => 0
  | .detectionAnswer _ _ => 0
  | .offerArrival _ _ => 0
  | .offerResend _ _ => 0
  | .receiveAnnounce _ => 0
  | .transferDataWritten _ => 0
  | .sendAck _ _ => 0
  | .messageEnqueue _ _ => 0
  | .creditReturn _ => 0
  | .wakeup _ => 0
  | .peerDeleted _ => 0
  | .chbindMove _ => 0
  | .endpointInstall _ => 0
  | .chbindAck _ _ => 0
  | .trecvExpiry _ => 0
  | .transferComplete _ => 0
  | .streamElement _ _ => 0
  | .joinRecorded _ _ _ _ _ => 0
  | .mcastDelivery _ _ => 0
  | .packetStomp _ _ _ => 0
  | .ackTimeout _ _ => 0
  | .serverAnswer _ => 0
  | .droverRequest _ _ => 0
  | .slicePass _ _ => 0
  | .droverAccessEnd _ _ => 0
  | .droverReplyRelease _ => 0
  | .dispenserQuery _ _ => 0
  | .dqryAnswer _ _ => 0
  | .wfwServe _ _ _ _ => 0
  | .deadlineArm _ => 0
  | .deadlineFire _ _ => 0
  | .probeStart _ _ => 0
  | .probeArrival _ _ => 0
  | .confirmationArrival _ _ => 0
  | .reportArrival _ _ => 0
  | .tetherMessageFrame _ _ => 0
  | .tetherStoreFrame _ _ => 0
  | .tetherLoadFrame _ _ => 0
  | .tetherRefusedFrame _ _ => 0
  | .tetherRetry _ => 0
  | .tetherTraining _ _ _ => 0
  | .attest _ _ => 0
  | .health _ => 0
  | .healthReplClear _ => 0
  | .events _ => 0
  | .counters _ => 0
  | .snapshot _ => 0
  | .keyput _ _ _ _ => 0
  | .feature _ _ => 0
  | .fenceFold _ _ => 0
  | .image _ _ _ _ => 0
  | .power _ _ => 0
  | .killgroup _ _ _ => 0
  | .imagekey _ _ _ => 0
  | .powerOn _ _ _ _ => 0
  | .bootComplete _ => 0
  | .packageReset _ => 0
  | .i3cPowerState _ _ => 0
  | .powerCap _ => 0
  | .throttleEnter _ _ => 0
  | .throttleExit _ _ => 0
  | .hardLimit _ _ => 0
  | .patrolScrub _ _ _ => 0
  | .snapshotLatch _ => 0
  | .lifeCounterSave _ => 0
  | .flitArrival _ _ => 0
  | .linkAckTimeout _ => 0
  | .gatewayPacketArrival _ => 0
  | .linkLostTimeout _ => 0
  | .regionArrival _ _ => 0
  | .regionAttempt _ _ _ => 0
  | .regionReceipt _ _ => 0
  | .regionReturn _ _ _ => 0
  | .regionReturnTimeout _ _ => 0
  | .permxPair _ => 0
  | .permxElement _ _ _ => 0
  | .bundlePrepare _ _ => 0
  | .bundlePhase2 _ _ => 0
  | .bundleAck _ _ _ _ => 0
  | .bldAtHome _ => 0
  | .tileTransferComplete _ _ => 0
  | .drainComplete _ _ => 0
  | .tileOpComplete _ => 0
  | .kGroupDone _ => 0
  | .gangProductStart _ _ => 0
  | .tileCommandArrival _ => 0
  | .tileCommandAnswer _ _ => 0
  | .reverseRecord _ => 0
  | .spillAck _ _ => 0
  | .speTreeEntry _ _ => 0
  | .speRetire _ _ => 0
  | .notAnInstruction _ => 0
  | .vectorLoadComplete _ => 0
  | .startAnswer _ _ => 0
  | .peerAnswer _ _ => 0
  | .keyInstalled _ _ => 0
  | .linkTraining _ _ _ => 0
  | .linkDown24Hours _ => 0
  | .powerFailure _ => 0
  | .measurementRequest _ _ _ => 0

/-- Whether an instruction is an instruction word (and not an event of an engine). -/
def Instr.isWord (i : Instr) : Bool := decide (encodeNat i ≠ 0)

/-- The words of an instruction: one word, and none for an event. -/
def encode (i : Instr) : List IWord :=
  if encodeNat i = 0 then [] else [BitVec.ofNat 32 (encodeNat i)]

end Sys2Proof
end

