-- ==== Sys2Proof/Machine/Integer.lean ====
section
/-! DEFINITION. The integer instructions, majors 0x01 to 0x09 (05 R112 to R114). None of them sets a flag or traps on
its values. -/

namespace Sys2Proof.Machine

/-- 1 for true and 0 for false. -/
def truth (b : Bool) : Word := if b then 1 else 0

/-- The amount of a shift or rotate, b[5:0] (05 R112). -/
def amount (b : Word) : Nat := b.toNat % 64

/-- The signed 128-bit product's high 64 bits (05 Table 5.4). -/
def mulHigh (a b : Word) : Word := (a.signExtend 128 * b.signExtend 128).extractLsb' 64 64

/-- The unsigned 128-bit product's high 64 bits (05 Table 5.4). -/
def mulHighU (a b : Word) : Word := (a.zeroExtend 128 * b.zeroExtend 128).extractLsb' 64 64

/-- DIV (05 R113): towards zero; all ones for a zero divisor; -2^63 divided by -1 is -2^63. -/
def divSigned (a b : Word) : Word := if b = 0 then allOnes else BitVec.ofInt 64 (Int.tdiv a.toInt b.toInt)

/-- REM (05 R113): the remainder has the sign of the dividend; the dividend itself for a zero divisor. -/
def remSigned (a b : Word) : Word := if b = 0 then a else BitVec.ofInt 64 (Int.tmod a.toInt b.toInt)

/-- DIVU (05 R113). -/
def divUnsigned (a b : Word) : Word := if b = 0 then allOnes else BitVec.ofNat 64 (a.toNat / b.toNat)

/-- REMU (05 R113). -/
def remUnsigned (a b : Word) : Word := if b = 0 then a else BitVec.ofNat 64 (a.toNat % b.toNat)

/-- Leading zeros, counting down from bit n - 1 (05 Table 5.4). -/
def leadZeros (a : Word) : Nat → Nat
  | 0 => 0
  | n + 1 => if a.getLsbD n then 0 else leadZeros a n + 1

/-- Trailing zeros of the bits from i up, n of them (05 Table 5.4). -/
def trailZeros (a : Word) : Nat → Nat → Nat
  | _, 0 => 0
  | i, n + 1 => if a.getLsbD i then 0 else trailZeros a (i + 1) n + 1

/-- One bits below bit n (05 Table 5.4). -/
def onesBelow (a : Word) : Nat → Nat
  | 0 => 0
  | n + 1 => onesBelow a n + (if a.getLsbD n then 1 else 0)

/-- The eight bytes in reverse order (05 Table 5.4). -/
def byteSwap (a : Word) : Word :=
  a.extractLsb' 0 8 ++ a.extractLsb' 8 8 ++ a.extractLsb' 16 8 ++ a.extractLsb' 24 8 ++
  a.extractLsb' 32 8 ++ a.extractLsb' 40 8 ++ a.extractLsb' 48 8 ++ a.extractLsb' 56 8

/-- Bits above n cleared, n = b[5:0] (05 Table 5.4). -/
def zeroFrom (a b : Word) : Word := BitVec.ofNat 64 (a.toNat % 2 ^ (amount b + 1))

/-- Bits above n set to bit n, n = b[5:0] (05 Table 5.4). -/
def signFrom (a b : Word) : Word :=
  if a.getLsbD (amount b) then zeroFrom a b ||| (allOnes <<< (amount b + 1)) else zeroFrom a b

/-- LIH (05 Table 5.5): bits [15:0] kept, bits [31:16] from the immediate, bits [63:32] copies of its bit 15. -/
def loadHigh (a : Word) (i : BitVec 16) : Word := sext (i ++ a.extractLsb' 0 16)

def minSigned (a b : Word) : Word := if a.slt b then a else b
def maxSigned (a b : Word) : Word := if a.slt b then b else a
def minUnsigned (a b : Word) : Word := if a.ult b then a else b
def maxUnsigned (a b : Word) : Word := if a.ult b then b else a

/-! ### Major 0x01 -/

def execAdd (d : Reg) (a b : Src) (s : State) := onCur s (fun k p => s.compute2 k p d a b (fun x y => x + y))
def execSub (d : Reg) (a b : Src) (s : State) := onCur s (fun k p => s.compute2 k p d a b (fun x y => x - y))
def execAnd (d : Reg) (a b : Src) (s : State) := onCur s (fun k p => s.compute2 k p d a b (fun x y => x &&& y))
def execOr (d : Reg) (a b : Src) (s : State) := onCur s (fun k p => s.compute2 k p d a b (fun x y => x ||| y))
def execXor (d : Reg) (a b : Src) (s : State) := onCur s (fun k p => s.compute2 k p d a b (fun x y => x ^^^ y))
def execAndn (d : Reg) (a b : Src) (s : State) := onCur s (fun k p => s.compute2 k p d a b (fun x y => x &&& ~~~y))
def execShl (d : Reg) (a b : Src) (s : State) := onCur s (fun k p => s.compute2 k p d a b (fun x y => x <<< amount y))
def execShr (d : Reg) (a b : Src) (s : State) := onCur s (fun k p => s.compute2 k p d a b (fun x y => x >>> amount y))
def execSra (d : Reg) (a b : Src) (s : State) := onCur s (fun k p => s.compute2 k p d a b (fun x y => x.sshiftRight (amount y)))
def execRol (d : Reg) (a b : Src) (s : State) := onCur s (fun k p => s.compute2 k p d a b (fun x y => x.rotateLeft (amount y)))
def execMul (d : Reg) (a b : Src) (s : State) := onCur s (fun k p => s.compute2 k p d a b (fun x y => x * y))
def execMulh (d : Reg) (a b : Src) (s : State) := onCur s (fun k p => s.compute2 k p d a b mulHigh)
def execMulhu (d : Reg) (a b : Src) (s : State) := onCur s (fun k p => s.compute2 k p d a b mulHighU)
def execDiv (d : Reg) (a b : Src) (s : State) := onCur s (fun k p => s.compute2 k p d a b divSigned)
def execDivu (d : Reg) (a b : Src) (s : State) := onCur s (fun k p => s.compute2 k p d a b divUnsigned)
def execRem (d : Reg) (a b : Src) (s : State) := onCur s (fun k p => s.compute2 k p d a b remSigned)
def execRemu (d : Reg) (a b : Src) (s : State) := onCur s (fun k p => s.compute2 k p d a b remUnsigned)
def execMin (d : Reg) (a b : Src) (s : State) := onCur s (fun k p => s.compute2 k p d a b minSigned)
def execMax (d : Reg) (a b : Src) (s : State) := onCur s (fun k p => s.compute2 k p d a b maxSigned)
def execMinu (d : Reg) (a b : Src) (s : State) := onCur s (fun k p => s.compute2 k p d a b minUnsigned)
def execMaxu (d : Reg) (a b : Src) (s : State) := onCur s (fun k p => s.compute2 k p d a b maxUnsigned)
def execClz (d : Reg) (a : Src) (s : State) :=
  onCur s (fun k p => s.compute1 k p d a (fun x => BitVec.ofNat 64 (leadZeros x 64)))
def execCtz (d : Reg) (a : Src) (s : State) :=
  onCur s (fun k p => s.compute1 k p d a (fun x => BitVec.ofNat 64 (trailZeros x 0 64)))
def execPopc (d : Reg) (a : Src) (s : State) :=
  onCur s (fun k p => s.compute1 k p d a (fun x => BitVec.ofNat 64 (onesBelow x 64)))
def execBswap (d : Reg) (a : Src) (s : State) := onCur s (fun k p => s.compute1 k p d a byteSwap)
def execSext (d : Reg) (a b : Src) (s : State) := onCur s (fun k p => s.compute2 k p d a b signFrom)
def execZext (d : Reg) (a b : Src) (s : State) := onCur s (fun k p => s.compute2 k p d a b zeroFrom)
def execSeq (d : Reg) (a b : Src) (s : State) := onCur s (fun k p => s.compute2 k p d a b (fun x y => truth (x == y)))
def execSne (d : Reg) (a b : Src) (s : State) := onCur s (fun k p => s.compute2 k p d a b (fun x y => truth (x != y)))
def execSlt (d : Reg) (a b : Src) (s : State) := onCur s (fun k p => s.compute2 k p d a b (fun x y => truth (x.slt y)))
def execSltu (d : Reg) (a b : Src) (s : State) := onCur s (fun k p => s.compute2 k p d a b (fun x y => truth (x.ult y)))
def execSle (d : Reg) (a b : Src) (s : State) := onCur s (fun k p => s.compute2 k p d a b (fun x y => truth (x.sle y)))
def execSleu (d : Reg) (a b : Src) (s : State) := onCur s (fun k p => s.compute2 k p d a b (fun x y => truth (x.ule y)))

/-! ### Majors 0x02 to 0x09 -/

def execAddi (d : Reg) (a : Src) (i : BitVec 16) (s : State) :=
  onCur s (fun k p => s.compute1 k p d a (fun x => x + signedImm p.pfx i))
def execAndi (d : Reg) (a : Src) (i : BitVec 16) (s : State) :=
  onCur s (fun k p => s.compute1 k p d a (fun x => x &&& unsignedImm p.pfx i))
def execOri (d : Reg) (a : Src) (i : BitVec 16) (s : State) :=
  onCur s (fun k p => s.compute1 k p d a (fun x => x ||| unsignedImm p.pfx i))
def execXori (d : Reg) (a : Src) (i : BitVec 16) (s : State) :=
  onCur s (fun k p => s.compute1 k p d a (fun x => x ^^^ unsignedImm p.pfx i))
def execMuli (d : Reg) (a : Src) (i : BitVec 16) (s : State) :=
  onCur s (fun k p => s.compute1 k p d a (fun x => x * signedImm p.pfx i))
def execShli (d : Reg) (a : Src) (n : BitVec 6) (s : State) := onCur s (fun k p => s.compute1 k p d a (fun x => x <<< n.toNat))
def execShri (d : Reg) (a : Src) (n : BitVec 6) (s : State) := onCur s (fun k p => s.compute1 k p d a (fun x => x >>> n.toNat))
def execSrai (d : Reg) (a : Src) (n : BitVec 6) (s : State) :=
  onCur s (fun k p => s.compute1 k p d a (fun x => x.sshiftRight n.toNat))
def execRoli (d : Reg) (a : Src) (n : BitVec 6) (s : State) :=
  onCur s (fun k p => s.compute1 k p d a (fun x => x.rotateLeft n.toNat))
def execLih (d : Reg) (a : Src) (i : BitVec 16) (s : State) := onCur s (fun k p => s.compute1 k p d a (fun x => loadHigh x i))
def execSeqi (d : Reg) (a : Src) (i : BitVec 14) (s : State) :=
  onCur s (fun k p => s.compute1 k p d a (fun x => truth (x == sext i)))
def execSlti (d : Reg) (a : Src) (i : BitVec 14) (s : State) :=
  onCur s (fun k p => s.compute1 k p d a (fun x => truth (x.slt (sext i))))
def execSltui (d : Reg) (a : Src) (i : BitVec 14) (s : State) :=
  onCur s (fun k p => s.compute1 k p d a (fun x => truth (x.ult (sext i))))

end Sys2Proof.Machine
end

