-- ==== Sys2Proof/Machine/Region.lean ====
section
/-! DEFINITION. Remote regions (12 R377 to R381): RGO, RDONE, RABORT, the landing units, and the return. -/

namespace Sys2Proof.Machine

/-! ### The words of a body (12 R377) -/

/-- What a body word does: an instruction on registers with its mode-bearing sources, a branch with its offset in words, a load, a store, an
atomic, NOP, RABORT, RDONE. -/
inductive BodyOp where
  | alu (srcs : List Src) (run : State → Host.Outcome State Fault Refusal)
  | branch (srcs : List Src) (offset : Int) (run : State → Host.Outcome State Fault Refusal)
  | load (d : Reg) (a : Src) (z : BitVec 3) (o : BitVec 13)
  | store (d : Reg) (a : Src) (z : BitVec 3) (o : BitVec 13)
  | amo (op : Nat) (d : Reg) (a b : Src) (dbl : Bool)
  | nop
  | abort
  | done

/-- The instructions that R377 admits, but for RDONE and RABORT. -/
def bodyOp (i : Instr) : Option BodyOp :=
  match i with
  | .add d a b => some (.alu [a, b] (execAdd d a b))
  | .sub d a b => some (.alu [a, b] (execSub d a b))
  | .and d a b => some (.alu [a, b] (execAnd d a b))
  | .or d a b => some (.alu [a, b] (execOr d a b))
  | .xor d a b => some (.alu [a, b] (execXor d a b))
  | .andn d a b => some (.alu [a, b] (execAndn d a b))
  | .shl d a b => some (.alu [a, b] (execShl d a b))
  | .shr d a b => some (.alu [a, b] (execShr d a b))
  | .sra d a b => some (.alu [a, b] (execSra d a b))
  | .rol d a b => some (.alu [a, b] (execRol d a b))
  | .mul d a b => some (.alu [a, b] (execMul d a b))
  | .mulh d a b => some (.alu [a, b] (execMulh d a b))
  | .mulhu d a b => some (.alu [a, b] (execMulhu d a b))
  | .div d a b => some (.alu [a, b] (execDiv d a b))
  | .divu d a b => some (.alu [a, b] (execDivu d a b))
  | .rem d a b => some (.alu [a, b] (execRem d a b))
  | .remu d a b => some (.alu [a, b] (execRemu d a b))
  | .min d a b => some (.alu [a, b] (execMin d a b))
  | .max d a b => some (.alu [a, b] (execMax d a b))
  | .minu d a b => some (.alu [a, b] (execMinu d a b))
  | .maxu d a b => some (.alu [a, b] (execMaxu d a b))
  | .sext d a b => some (.alu [a, b] (execSext d a b))
  | .zext d a b => some (.alu [a, b] (execZext d a b))
  | .seq d a b => some (.alu [a, b] (execSeq d a b))
  | .sne d a b => some (.alu [a, b] (execSne d a b))
  | .slt d a b => some (.alu [a, b] (execSlt d a b))
  | .sltu d a b => some (.alu [a, b] (execSltu d a b))
  | .sle d a b => some (.alu [a, b] (execSle d a b))
  | .sleu d a b => some (.alu [a, b] (execSleu d a b))
  | .clz d a => some (.alu [a] (execClz d a))
  | .ctz d a => some (.alu [a] (execCtz d a))
  | .popc d a => some (.alu [a] (execPopc d a))
  | .bswap d a => some (.alu [a] (execBswap d a))
  | .addi d a x => some (.alu [a] (execAddi d a x))
  | .andi d a x => some (.alu [a] (execAndi d a x))
  | .ori d a x => some (.alu [a] (execOri d a x))
  | .xori d a x => some (.alu [a] (execXori d a x))
  | .muli d a x => some (.alu [a] (execMuli d a x))
  | .shli d a x => some (.alu [a] (execShli d a x))
  | .shri d a x => some (.alu [a] (execShri d a x))
  | .srai d a x => some (.alu [a] (execSrai d a x))
  | .roli d a x => some (.alu [a] (execRoli d a x))
  | .lih d a x => some (.alu [a] (execLih d a x))
  | .seqi d a x => some (.alu [a] (execSeqi d a x))
  | .slti d a x => some (.alu [a] (execSlti d a x))
  | .sltui d a x => some (.alu [a] (execSltui d a x))
  | .beqz a x => some (.branch [a] x.toInt (execBeqz a x))
  | .bnez a x => some (.branch [a] x.toInt (execBnez a x))
  | .bltz a x => some (.branch [a] x.toInt (execBltz a x))
  | .bgez a x => some (.branch [a] x.toInt (execBgez a x))
  | .bgtz a x => some (.branch [a] x.toInt (execBgtz a x))
  | .blez a x => some (.branch [a] x.toInt (execBlez a x))
  | .beq a b x => some (.branch [a, b] x.toInt (execBeq a b x))
  | .bne a b x => some (.branch [a, b] x.toInt (execBne a b x))
  | .blt a b x => some (.branch [a, b] x.toInt (execBlt a b x))
  | .bge a b x => some (.branch [a, b] x.toInt (execBge a b x))
  | .bltu a b x => some (.branch [a, b] x.toInt (execBltu a b x))
  | .bgeu a b x => some (.branch [a, b] x.toInt (execBgeu a b x))
  | .ld d a z x => some (.load d a z x)
  | .st d a z x => some (.store d a z x)
  | .amoAdd d a b w x y => if x = 0 && y = 0 then some (.amo 0 d a b (w == 1)) else none
  | .amoAnd d a b w x y => if x = 0 && y = 0 then some (.amo 1 d a b (w == 1)) else none
  | .amoOr d a b w x y => if x = 0 && y = 0 then some (.amo 2 d a b (w == 1)) else none
  | .amoXor d a b w x y => if x = 0 && y = 0 then some (.amo 3 d a b (w == 1)) else none
  | .amoMin d a b w x y => if x = 0 && y = 0 then some (.amo 4 d a b (w == 1)) else none
  | .amoMax d a b w x y => if x = 0 && y = 0 then some (.amo 5 d a b (w == 1)) else none
  | .amoMinu d a b w x y => if x = 0 && y = 0 then some (.amo 6 d a b (w == 1)) else none
  | .amoMaxu d a b w x y => if x = 0 && y = 0 then some (.amo 7 d a b (w == 1)) else none
  | .amoSwp d a b w x y => if x = 0 && y = 0 then some (.amo 8 d a b (w == 1)) else none
  | .amoCas d a b w x y => if x = 0 && y = 0 then some (.amo 9 d a b (w == 1)) else none
  | .amoFadd d a b w x y => if x = 0 && y = 0 then some (.amo 10 d a b (w == 1)) else none
  | .nop => some .nop
  | _ => none

/-- The decoders of the majors that a body may hold (12 R377). -/
def bodyDecode (n : Nat) : Option Instr :=
  match n / 2 ^ 26 with
  | 0x01 => decodeMajor01 n
  | 0x02 => decodeMajor02 n
  | 0x03 => decodeMajor03 n
  | 0x04 => decodeMajor04 n
  | 0x05 => decodeMajor05 n
  | 0x06 => decodeMajor06 n
  | 0x07 => decodeMajor07 n
  | 0x08 => decodeMajor08 n
  | 0x09 => decodeMajor09 n
  | 0x10 => decodeMajor10 n
  | 0x11 => decodeMajor11 n
  | 0x13 => decodeMajor13 n
  | 0x18 => decodeMajor18 n
  | 0x19 => decodeMajor19 n
  | 0x1D => decodeMajor1D n
  | _ => none

/-- RDONE and RABORT as words (12 Table 12.6). -/
def rdoneWord : IWord := 0xE0000020
def rabortWord : IWord := 0xE0000040

/-- A body word, or none where R377 does not admit it. -/
def bodyWord (w : IWord) : Option BodyOp :=
  if w = rdoneWord then some .done
  else if w = rabortWord then some .abort
  else
    match bodyDecode w.toNat with
    | some i => if i.wf then bodyOp i else none
    | none => none

/-- Whether every mode field of a body word is 0 (12 R377). -/
def BodyOp.plain (b : BodyOp) : Bool :=
  let zero (l : List Src) : Bool := l.all (fun x => x.mode == 0)
  match b with
  | .alu l _ => zero l
  | .branch l _ _ => zero l
  | .load _ a _ _ => a.mode == 0
  | .store _ a _ _ => a.mode == 0
  | .amo _ _ a b _ => a.mode == 0 && b.mode == 0
  | _ => true

/-- Whether a word may stand at index i of a body whose RDONE has index `last` (12 R377). -/
def bodyWordOk (w : IWord) (i last : Nat) : Bool :=
  match bodyWord w with
  | none => false
  | some b =>
    b.plain &&
    (match b with
     | .branch _ o _ => decide (0 < o) && decide ((i : Int) + o ≤ last)
     | _ => true)

/-- The n words after a word of an ISTORE. -/
def State.bodyWords (s : State) (core : Nat) (pc : BitVec 16) (n : Nat) : List IWord :=
  (List.range n).map (fun i =>
    BitVec.ofNat 32 (readLe s.mem (windowBase core + 0x120000 + (pc + BitVec.ofNat 16 (4 * (i + 1))).toNat) 4))

/-- The body behind an RGO (12 R377), or the word that RGO reports: the first that may not stand there, or the RGO word itself. -/
def State.regionBody (s : State) (core : Nat) (pc : BitVec 16) (rgo : Word) : Word ⊕ List IWord :=
  let ws := s.bodyWords core pc 33
  match ws.findIdx? (fun w => w == rdoneWord) with
  | none => .inl rgo
  | some last =>
    match (List.range last).find? (fun i => !bodyWordOk (ws.getD i 0) i last) with
    | some i => .inl ((ws.getD i 0).zeroExtend 64)
    | none => .inr (ws.take (last + 1))

/-! ### Running a body (12 R379) -/

/-- A region body as it runs: the registers, the stores in the buffer, oldest first, the lines read, and the words done. -/
structure BodyRun where
  regs : List Word
  stores : List (Nat × Nat × Nat) := []
  lines : List Nat := []
  words : Nat := 0

/-- A machine with one process that holds these registers: instructions on registers run in it as their own rules give. -/
def scratchState (regs : List Word) (pc : BitVec 16) : State :=
  let cells : Vector RegCell 16 := Vector.ofFn (fun n => { val := regs.getD n.val 0 })
  { procs := [(0, { name := 0, core := 0, idx := 0, pc := pc, regs := cells })], cur := some 0 }

/-- The registers and the program counter after an instruction on registers. -/
def runRegs (regs : List Word) (pc : BitVec 16) (f : State → Host.Outcome State Fault Refusal) : List Word × BitVec 16 :=
  match f (scratchState regs pc) with
  | .next t =>
    (match t.proc 0 with
     | some p => ((List.range 16).map (fun n => p.reg (BitVec.ofNat 4 n)), p.pc)
     | none => (regs, pc))
  | _ => (regs, pc)

/-- The causes of Table 12.10. -/
def regConflict : Nat := 1
def regNak : Nat := 2
def regLinkLost : Nat := 3
def regUnsup : Nat := 4
def regRetLost : Nat := 5
def regAbort : Nat := 6
def regFault : Nat := 7

/-- The physical address of a region's access, or the cause that ends the region (12 R379): FAULT for a misaligned, untranslated, unbacked or
poisoned access and for one off the landing die, NAK for a window refusal. -/
def State.regionReach (s : State) (r : Region) (va n : Nat) (rd wr : Bool) : Nat ⊕ Nat :=
  if va % n ≠ 0 then .inl regFault
  else
    match s.translateNow r.core r.asid r.root r.level va rd wr with
    | none => .inl regFault
    | some pa =>
      if pa / 2 ^ 50 ≠ r.pa / 2 ^ 50 then .inl regFault
      else if !s.passes r.core r.gid r.level pa n rd wr then .inl regNak
      else if !s.backed pa n || (wordRow pa && decide (n ≠ 8)) || s.poisoned pa n then .inl regFault
      else .inr pa

/-- The bytes of a location as a region sees them: those of its newest buffered store that holds them, else memory's (12 R379). -/
def State.regionRead (s : State) (b : BodyRun) (pa n : Nat) : Nat :=
  leNat ((leBytes n (s.loadPhys pa n)).mapIdx (fun i old =>
    b.stores.foldl (fun x e =>
      if e.1 ≤ pa + i ∧ pa + i < e.1 + e.2.1 then BitVec.ofNat 8 (e.2.2 / 2 ^ (8 * (pa + i - e.1))) else x) old))

/-- A register written. -/
def setAt (regs : List Word) (d : Reg) (v : Word) : List Word := if d = 0 then regs else regs.set d.toNat v

/-- A store enters the buffer: a seventeenth ends the region (12 R379). -/
def BodyRun.store (b : BodyRun) (pa n v : Nat) : Option BodyRun :=
  if 16 ≤ b.stores.length then none else some { b with stores := b.stores ++ [(pa, n, v)] }

/-- The words of a body from index i on: how the region ends, if it fails, and what it has done. `fuel` bounds the words left. -/
def State.runBody (s : State) (r : Region) : Nat → Nat → BodyRun → Option (Nat × Nat) × BodyRun
  | 0, _, b => (none, b)
  | fuel + 1, i, b0 =>
    let b := { b0 with words := b0.words + 1 }
    let pc : BitVec 16 := BitVec.ofNat 16 (r.pc + 4 * (i + 1))
    let v (x : Reg) : Word := b.regs.getD x.toNat 0
    match bodyWord (r.body.getD i 0) with
    | none => (some (i, regFault), b)
    | some .done => (none, b)
    | some .abort => (some (i, regAbort), b)
    | some .nop => s.runBody r fuel (i + 1) b
    | some (.alu _ f) => s.runBody r fuel (i + 1) { b with regs := (runRegs b.regs pc f).1 }
    | some (.branch _ _ f) =>
      let jump := ((runRegs b.regs pc f).2 - pc).toNat / 4
      s.runBody r fuel (i + jump) b
    | some (.load d a z o) =>
      let n := sizeOf z
      match s.regionReach r (effective (v a.reg) o n).toNat n true false with
      | .inl c => (some (i, c), b)
      | .inr pa =>
        s.runBody r fuel (i + 1)
          { b with regs := setAt b.regs d (extend n (signedLoad z) (s.regionRead b pa n)), lines := b.lines ++ [pa / 64] }
    | some (.store d a z o) =>
      let n := sizeOf z
      match s.regionReach r (effective (v a.reg) o n).toNat n false true with
      | .inl c => (some (i, c), b)
      | .inr pa =>
        match b.store pa n ((v d).toNat % 2 ^ (8 * n)) with
        | some b1 => s.runBody r fuel (i + 1) b1
        | none => (some (i, regFault), b)
    | some (.amo op d a x dbl) =>
      let n := amoSize dbl
      if op = 10 && !s.hasFeature (pkgOfAddr r.pa) (featFadd dbl) then (some (i, regUnsup), b)
      else
        match s.regionReach r (v a.reg).toNat n true true with
        | .inl c => (some (i, c), b)
        | .inr pa =>
          let old := s.regionRead b pa n
          let new := amoNew op dbl old ((v x.reg).toNat % 2 ^ (8 * n)) ((v d).toNat % 2 ^ (8 * n))
          match b.store pa n new with
          | some b1 => s.runBody r fuel (i + 1) { b1 with regs := setAt b.regs d (BitVec.ofNat 64 old), lines := b.lines ++ [pa / 64] }
          | none => (some (i, regFault), b)

/-! ### Landing units (12 R378, R379) -/

/-- The landing unit of an address: that of the fold of a fold window or engine block, or of the drover that owns the slice. -/
def landingOf (pa : Nat) : Nat :=
  match placeOf pa with
  | .hbm die d => 2 * (die * 64 + d) + 1
  | .core c _ => 2 * foldOf c
  | .sram f _ => 2 * f
  | .spe f _ => 2 * f
  | .nowhere => 0

def State.landing (s : State) (u : Nat) : Landing := tgetD s.landings u {}
def State.putLanding (s : State) (u : Nat) (x : Landing) : State := { s with landings := tput s.landings u x }

/-- A region goes into a slot, which takes 8 cycles (12 R380). -/
def State.installRegion (s : State) (u : Nat) (r : Region) : State :=
  let l := s.landing u
  (s.putLanding u { l with slots := l.slots ++ [{ region := r }] }).after 8 (.regionAttempt u r 1)

/-- The outcome of a region sets out for its issuer, whose registers are available two cycles after it arrives (12 R380). -/
def State.returnRegion (s : State) (r : Region) (e : RegionEnd) : State :=
  s.after (s.wayTo r.core r.pa + 2) (.regionReturn r.name r.sent e)

/-- REGION_ARRIVAL (12 R379): lost on a route that has failed; refused where the queue is full; else it takes a slot or waits, and its
receipt sets out. -/
def regionArrival (unit : Nat) (r : Region) (s : State) : State :=
  let l := s.landing unit
  if !s.reachable (pkgOf r.core) (pkgOfAddr r.pa) then s
  else if l.slots.length < 4 then (s.after (s.wayTo r.core r.pa) (.regionReceipt r.name r.sent)).installRegion unit r
  else if l.queue.length < 8 then
    (s.putLanding unit { l with queue := l.queue ++ [r] }).after (s.wayTo r.core r.pa) (.regionReceipt r.name r.sent)
  else s.returnRegion r (.failure 0 regNak)

/-- A region leaves its slot, which the oldest region of the queue takes. -/
def State.endRegion (s : State) (u : Nat) (r : Region) (e : RegionEnd) : State :=
  let l := s.landing u
  let t := (s.putLanding u { l with slots := l.slots.filter (fun x => x.region != r), queue := l.queue.drop 1 }).returnRegion r e
  match l.queue with
  | q :: _ => t.installRegion u q
  | [] => t

/-- The regions that have read one of these lines in the attempt they are at will not validate (12 R379). -/
def State.markStale (s : State) (lines : List Nat) : State :=
  { s with landings := s.landings.map (fun u => (u.1, { u.2 with
      slots := u.2.slots.map (fun x => if x.lines.any (fun l => lines.contains l) then { x with stale := true } else x) })) }

/-- The buffered stores of a region are applied as one step (12 R379). -/
def State.applyRegion (s : State) (r : Region) (ws : List (Nat × Nat × Nat)) : State :=
  (ws.foldl (fun t w => t.storePhys r.core r.name w.1 w.2.1 w.2.2) s).markStale (ws.map (fun w => w.1 / 64))

/-- An attempt begins: the body runs on memory as it stands, a word a cycle in turn with the other slots (12 R379), and its end is to be
judged 4 cycles later (R380). -/
def State.beginAttempt (s : State) (u : Nat) (x : LandSlot) (attempt : Nat) : State :=
  let l := s.landing u
  let o := s.runBody x.region x.region.body.length 0 { regs := x.region.regs }
  let y : LandSlot :=
    { x with attempt := attempt, ran := true, fault := o.1, regs := o.2.regs, stores := o.2.stores, lines := o.2.lines, stale := false }
  (s.putLanding u { l with slots := l.slots.map (fun z => if z.region == x.region then y else z) }).after
    (o.2.words * l.slots.length + 4) (.regionAttempt u x.region attempt)

/-- REGION_ATTEMPT (12 R379): the attempt begins; or it has run, and the region fails, commits, or is tried again, at most four times. -/
def regionAttempt (unit : Nat) (r : Region) (attempt : Nat) (s : State) : State :=
  match (s.landing unit).slots.find? (fun x => x.region == r) with
  | none => s
  | some x =>
    if !s.hasFeature (pkgOfAddr r.pa) featReg then s.endRegion unit r (.failure 0 regUnsup)
    else if !x.ran || x.attempt != attempt then s.beginAttempt unit x attempt
    else
      match x.fault with
      | some (i, c) => s.endRegion unit r (.failure i c)
      | none =>
        if !x.stale then (s.applyRegion r x.stores).endRegion unit r (.success attempt x.regs)
        else if attempt < 4 then s.beginAttempt unit x (attempt + 1)
        else s.endRegion unit r (.failure 0 regConflict)

/-! ### The issuer (12 R378, R380) -/

/-- GTC from a region's departure to RETLOST, and from a packet's sending to link lost, in ns (12 Table 12.10, R364). -/
def returnTime : Nat := 65536
def lostTime : Nat := 1000000

/-- The word in gd of a region that failed (12 R380). -/
def regionFail (index cause : Nat) : Word := BitVec.ofNat 64 (2 ^ 63 + index * 2 ^ 16 + 0x11 * 2 ^ 8 + cause)

/-- RGO (12 R377, R378): the process waits as on an empty gd. -/
def execRgo (d : Reg) (a : Src) (o : BitVec 11) (s : State) :=
  onCur s (fun k p =>
    if p.region.isSome then s.park k (.reg d.toNat)
    else
      match s.regionBody p.core p.pc (s.word p) with
      | .inl w => s.raise k causeIllegal w
      | .inr body =>
        s.issue k p [srcField a 0] [] (fun vals c =>
          match (List.range 16).find? (fun n => !p.full (BitVec.ofNat 4 n)) with
          | some n => s.waitReg k (BitVec.ofNat 4 n)
          | none =>
            let va := (vals.getD 0 0).toNat
            s.withPage k p va true false (fun t pa =>
              if !t.backed pa 1 then t.raise k causeLoadFault (vals.getD 0 0)
              else
                let u := (t.releaseStores k).popAll k p c
                let regs := (List.range 16).map (fun n => p.reg (BitVec.ofNat 4 n))
                let w : IWord := (s.word p).truncate 32
                let ck : RegionCkpt :=
                  { word := w, pc := p.pc, sent := s.gtc, target := pa, regs := regs, next := p.pc + BitVec.ofNat 16 (4 * (body.length + 1)) }
                let r : Region :=
                  { name := p.name, core := p.core, gid := p.gid, level := p.level, asid := s.asidOf p, root := s.rootOf p, pa := pa,
                    regs := regs, word := w, pc := p.pc.toNat, body := body, sent := s.gtc }
                let v := u.modProc k (fun q => { (List.range 16).foldl (fun x n => x.produce (BitVec.ofNat 4 n)) q with region := some ck })
                let x := (if u.reachable (pkgOf p.core) (pkgOfAddr pa) then
                    (v.after (u.wayTo p.core pa + 1) (.regionArrival (landingOf pa) r)).atCycle (gtcCycle (s.nanos + returnTime))
                      (.regionReturnTimeout p.name s.gtc)
                  else v.after 2 (.regionReturn p.name s.gtc (.failure 0 regLinkLost)))
                x.waitReg k d)))

/-- RDONE and RABORT at a core (12 R377). -/
def execRdone (s : State) := onCur s (fun k _ => s.illegal k)
def execRabort (s : State) := onCur s (fun k _ => s.illegal k)

/-- The offset of an RGO word (12 Table 12.5). -/
def rgoOffset (w : IWord) : BitVec 11 := w.extractLsb' 10 6 ++ w.extractLsb' 0 5

/-- The pending fills of g1 to g15 arrive together (12 R378, R380). -/
def Proc.fillAll (p : Proc) (vs : List Word) : Proc :=
  (List.range 16).foldl (fun q n => if n = 0 then q else q.fill (BitVec.ofNat 4 n) (q.cell (BitVec.ofNat 4 n)).tag (vs.getD n 0)) p

/-- A region has ended for its issuer (12 R380): the registers, gd, and where the process goes on. -/
def State.finishRegion (s : State) (k : Nat) (p : Proc) (c : RegionCkpt) (e : RegionEnd) : State :=
  let d : Reg := c.word.extractLsb' 22 4
  let vs := match e with
    | .success n regs => setAt regs d (BitVec.ofNat 64 n)
    | .failure i w => setAt c.regs d (regionFail i w)
  let pc := match e with
    | .success _ _ => c.next
    | .failure _ _ => target c.pc (rgoOffset c.word)
  (s.putProc k { (p.fillAll vs).endGroup with region := none, pc := pc }).ready k

/-- REGION_RECEIPT (12 R380). One that arrives when the time for the return is over ends the region with RETLOST. -/
def regionReceipt (name sent : Nat) (s : State) : State :=
  s.modNamed name (fun k p t =>
    match p.region with
    | some c =>
      if c.sent ≠ sent || !t.reachable (pkgOfAddr c.target) (pkgOf p.core) then t
      else if returnTime ≤ t.since sent then t.finishRegion k p c (.failure 0 regRetLost)
      else t.putProc k { p with region := some { c with receipt := true } }
    | none => t)

/-- REGION_RETURN (12 R380): a return that is lost on its way, comes too late, or finds its issuer gone is discarded (R364, R381). -/
def regionReturn (name sent : Nat) (r : RegionEnd) (s : State) : State :=
  s.modNamed name (fun k p t =>
    match p.region with
    | some c =>
      let lost := r == .failure 0 regLinkLost
      if c.sent ≠ sent || (!lost && !t.reachable (pkgOfAddr c.target) (pkgOf p.core)) then t else t.finishRegion k p c r
    | none => t)

/-- REGION_RETURN_TIMEOUT (12 R380): RETLOST once the receipt has arrived; without one, the region is link lost 1 ms after it was sent
(R364). -/
def regionReturnTimeout (name sent : Nat) (s : State) : State :=
  s.modNamed name (fun k p t =>
    match p.region with
    | some c =>
      if c.sent ≠ sent then t
      else if c.receipt then t.finishRegion k p c (.failure 0 regRetLost)
      else t.atCycle (gtcCycle (t.nanos - t.since sent + lostTime)) (.regionReturn name sent (.failure 0 regLinkLost))
    | none => t)

end Sys2Proof.Machine
end

