-- ==== Sys2Proof/Machine/VectorMem.lean ====
section
/-! DEFINITION. Vector loads and stores, major 0x2D (09 R268, R269, R306). -/

namespace Sys2Proof.Machine

/-! ### Addresses -/

/-- The enabled lanes of a vector access with their addresses, lane 0 first (09 R268). -/
def laneAddrs (m : Word) (n : Nat) (f : Nat → Word) : List (Nat × Nat) :=
  ((List.range n).filter (enabled m)).map (fun i => (i, (f i).toNat))

/-- Lane i of VLD and VST: a + offset + i * bytes, the offset in units of 64 bytes. -/
def unitAddr (a : Word) (o : BitVec 5) (size i : Nat) : Word := a + sext o * 64 + BitVec.ofNat 64 (i * size)

/-- Lane i of VLDS and VSTS: a + i * b. -/
def strideAddr (a b : Word) (i : Nat) : Word := a + BitVec.ofNat 64 i * b

/-- Lane i of VGATH and VSCAT: a + vb[i], unsigned. -/
def indexAddr (a : Word) (xs : List Nat) (i : Nat) : Word := a + BitVec.ofNat 64 (xs.getD i 0)

/-- The first lane whose address is not a multiple of the element size (09 R268). -/
def misaligned (ls : List (Nat × Nat)) (size : Nat) : Option Nat := (ls.find? (fun l => decide (l.2 % size ≠ 0))).map Prod.snd

/-! ### Loads -/

/-- The mark in a hold of a vector load whose lanes are on their way (09 R268). -/
def arrivingMark : Nat := 9

/-- The pages of the lanes of a vector load (04 R81, 09 R268): every lane is translated before the load issues. A lane that misses
waits for the translator and the others keep what they found; none as the result says that the process waits. Lanes behind one without a page
decide nothing and are not looked up. -/
def State.lanePages (s : State) (k : Nat) (p : Proc) : List Nat → List Word → State × Option (List Word)
  | [], found => (s, some found)
  | va :: rest, found =>
    if found.getLast? = some noPage then (s, some found)
    else match s.translate p va true false with
    | .pa a t =>
      (match t with | some e => s.modCore p.core (fun c => c.touch e) | none => s).lanePages k p rest (found ++ [BitVec.ofNat 64 a])
    | .fault => (s, some (found ++ [noPage]))
    | .miss =>
      ((s.lookup k p va true false).modProc k (fun q => { q with
        hold := some { arg := p.wordPc.toNat, arg2 := pagesMark, words := found } }), none)

/-- What the translation of an interrupted try has found so far. -/
def Proc.pagesFound (p : Proc) : List Word :=
  match p.hold with
  | some h => if h.arg2 = pagesMark ∧ h.arg = p.wordPc.toNat then h.words else []
  | none => []

/-- The fault of one lane of a vector load (09 R268): no page, a window refusal, whose EVAL is the physical address refused (03 Table 3.16, 04 R78),
an unbacked address, poisoned data. -/
def State.laneFault (s : State) (p : Proc) (va size : Nat) (page : Word) : Option (Nat × Word) :=
  if page = noPage then some (causeLoadFault, BitVec.ofNat 64 va)
  else if !s.passes p.core p.gid p.level page.toNat size true false then some (causeWindowNak, page)
  else s.accessFault p page.toNat va size true

/-- The lanes of a vector load have arrived (09 R268): the lowest faulting lane traps and vd is unchanged, or vd is written in one step. The
atomics of the process to the lanes' bytes come first (04 R95). -/
def State.endVectorLoad (s : State) (k : Nat) (p : Proc) (c : BitVec 16) (d size : Nat) (ls : List (Nat × Nat × Word)) : State :=
  match ls.findSome? (fun l => (s.laneFault p l.2.1 size l.2.2).map (fun f => (f, l.2.2))) with
  | some (f, page) => s.raiseAccess k p page.toNat f
  | none =>
    let s := ls.foldl (fun t l => t.beforeRead p l.2.2.toNat size) s
    let old := cut size (64 / size) (s.vreg p d)
    let new := ls.foldl (fun v l => v.set l.1 (s.readThrough p l.2.1 l.2.2.toNat size)) old
    (s.putLanes p d (8 * size) new).retire k c []

/-- Whether an address lies in a core's own scratchpad. -/
def ownScratch (core : Nat) (page : Word) : Bool :=
  match placeOf page.toNat with
  | .core c off => decide (c = core) && rowOf off == .scratch
  | _ => false

/-- The addresses of triples of lane, virtual address and page, as a hold keeps them. -/
def laneTriples : List Word → List (Nat × Nat × Word)
  | i :: va :: pa :: rest => (i.toNat, va.toNat, pa) :: laneTriples rest
  | _ => []

/-- A vector load with its addresses (09 R268): lanes all in the own scratchpad complete at once; any other load keeps its process in
the slot until the last lane has arrived, and at least 4 cycles (09 Table 9.6). -/
def State.vectorLoad (s : State) (k : Nat) (p : Proc) (d : BitVec 5) (c : BitVec 16) (size : Nat) (ls : List (Nat × Nat)) : State :=
  match misaligned ls size with
  | some va => s.raise k causeMisalign (BitVec.ofNat 64 va)
  | none =>
    let found := p.pagesFound
    let r := s.lanePages k p ((ls.map Prod.snd).drop found.length) found
    match r.2 with
    | none => r.1
    | some pages =>
      let ts := (ls.zip pages).map (fun x => (x.1.1, x.1.2, x.2))
      if pages.all (ownScratch p.core) then r.1.endVectorLoad k p c d.toNat size ts
      else
        let trips := r.1.trips (fun u a => if a = noPage then (u, 2) else (u.book p.core a.toNat size, u.accessTime p.core a.toNat size)) pages
        let last := trips.2.foldl max 2
        ((trips.1.modSlot p.slotKey (fun x => { x with next := s.cycle + 4 })).modProc k (fun q => { q with
          st := .parked, wait := .access, blockedAt := s.cycle,
          hold := some { consume := c, issuedAt := s.cycle + last, arg := d.toNat * 64 + size, arg2 := arrivingMark,
                         words := ts.flatMap (fun t => [BitVec.ofNat 64 t.1, BitVec.ofNat 64 t.2.1, t.2.2]) } })).after
          last (.vectorLoadComplete p.name)

/-- VECTOR_LOAD_COMPLETE (09 R268). -/
def vectorLoadComplete (name : Nat) (s : State) : State :=
  s.modNamed name (fun k p t =>
    match p.wait, p.hold with
    | .access, some h =>
      if h.arg2 = arrivingMark ∧ h.issuedAt = s.cycle then
        ((t.modProc k (fun q => { q with st := .resident, wait := .none, hold := none })).awake p).endVectorLoad k p h.consume
          (h.arg / 64) (h.arg % 64) (laneTriples h.words)
      else t
    | _, _ => t)

/-! ### Stores -/

/-- The 64-byte lines of a vector store in ascending order of their lowest enabled lane (09 R269). -/
def storeLines (es : List (Nat × Word)) : List Nat :=
  es.foldl (fun l e => if l.contains (e.1 / 64) then l else l ++ [e.1 / 64]) []

/-- Posts the elements of some lines as one vector store (09 R269). -/
def State.postLines (s : State) (p : Proc) (size batch : Nat) (es : List (Nat × Word)) (lines : List Nat) : State :=
  lines.foldl (fun t l => (es.filter (fun e => decide (e.1 / 64 = l))).foldl (fun u e => u.postStore p e.1 size e.2 batch) t) s

/-- Address and datum of each element of a vector store as a hold keeps them. -/
def elemPairs : List Word → List (Nat × Word)
  | va :: x :: rest => (va.toNat, x) :: elemPairs rest
  | _ => []

/-- Posts as many lines of a vector store as there is room for (09 R269): with the last one it retires, until then it waits for
entries to become free. -/
def State.postVector (s : State) (k : Nat) (p : Proc) (c : BitVec 16) (size batch : Nat) (es : List (Nat × Word)) : State :=
  let lines := storeLines es
  let n := min lines.length (s.sbRoom p.core p.name)
  let t := s.postLines p size batch es (lines.take n)
  if lines.length ≤ n then t.retire k c []
  else
    let rest := es.filter (fun e => !(lines.take n).contains (e.1 / 64))
    (t.modProc k (fun q => { q with
      hold := some { arg := p.wordPc.toNat, arg2 := postingMark,
                     words := BitVec.ofNat 64 batch :: rest.flatMap (fun e => [BitVec.ofNat 64 e.1, e.2]) } })).park k .stores

/-- A vector store with its addresses and data (09 R269): it begins once the buffer has entries for all its lines, or is empty if they
are more than 16, and goes on where it has posted some. -/
def State.vectorStore (s : State) (k : Nat) (p : Proc) (c : BitVec 16) (size : Nat) (ls : List (Nat × Nat)) (data : List Nat) : State :=
  let fresh :=
    match misaligned ls size with
    | some va => s.raise k causeMisalign (BitVec.ofNat 64 va)
    | none =>
      let es := ls.map (fun l => (l.2, BitVec.ofNat 64 (data.getD l.1 0)))
      if s.sbRoom p.core p.name < min 16 (storeLines es).length then s
      else s.postVector k p c size (s.core p.core).sbNext es
  match p.hold with
  | some h =>
    if h.arg2 = postingMark ∧ h.arg = p.wordPc.toNat then
      s.postVector k p c size (h.words.headD 0).toNat (elemPairs (h.words.drop 1))
    else fresh
  | none => fresh

/-! ### Meanings -/

/-- Bytes of an element. -/
def laneBytes (e : BitVec 3) : Nat := laneWidth e / 8

def execVld (d : BitVec 5) (a : Reg) (o : BitVec 5) (mk e : BitVec 3) (s : State) :=
  onCur s (fun k p => s.vectorIssue k p [d.toNat] [plainField a 0] [] (fun vals c =>
    s.vectorLoad k p d c (laneBytes e) (laneAddrs (p.mask mk) (laneCount e) (unitAddr (vals.getD 0 0) o (laneBytes e)))))
def execVlds (d : BitVec 5) (a b : Reg) (mk e : BitVec 3) (s : State) :=
  onCur s (fun k p => s.vectorIssue k p [d.toNat] [plainField a 0, plainField b 1] [] (fun vals c =>
    s.vectorLoad k p d c (laneBytes e) (laneAddrs (p.mask mk) (laneCount e) (strideAddr (vals.getD 0 0) (vals.getD 1 0)))))
def execVgath (d : BitVec 5) (a : Reg) (b : BitVec 5) (mk e : BitVec 3) (s : State) :=
  onCur s (fun k p => s.vectorIssue k p [d.toNat, b.toNat] [plainField a 0] [] (fun vals c =>
    s.vectorLoad k p d c (laneBytes e) (laneAddrs (p.mask mk) (laneCount e) (indexAddr (vals.getD 0 0) (s.lanes p b.toNat e)))))

def execVst (d : BitVec 5) (a : Reg) (o : BitVec 5) (mk e : BitVec 3) (s : State) :=
  onCur s (fun k p => s.vectorIssue k p [d.toNat] [plainField a 0] [] (fun vals c =>
    s.vectorStore k p c (laneBytes e) (laneAddrs (p.mask mk) (laneCount e) (unitAddr (vals.getD 0 0) o (laneBytes e))) (s.lanes p d.toNat e)))
def execVsts (d : BitVec 5) (a b : Reg) (mk e : BitVec 3) (s : State) :=
  onCur s (fun k p => s.vectorIssue k p [d.toNat] [plainField a 0, plainField b 1] [] (fun vals c =>
    s.vectorStore k p c (laneBytes e) (laneAddrs (p.mask mk) (laneCount e) (strideAddr (vals.getD 0 0) (vals.getD 1 0)))
      (s.lanes p d.toNat e)))
def execVscat (d : BitVec 5) (a : Reg) (b : BitVec 5) (mk e : BitVec 3) (s : State) :=
  onCur s (fun k p => s.vectorIssue k p [d.toNat, b.toNat] [plainField a 0] [] (fun vals c =>
    s.vectorStore k p c (laneBytes e) (laneAddrs (p.mask mk) (laneCount e) (indexAddr (vals.getD 0 0) (s.lanes p b.toNat e)))
      (s.lanes p d.toNat e)))

/-! ### Eligibility (09 R269) -/

/-- The store-buffer entries that a vector store of these elements needs before its slot is eligible. -/
def vectorNeeds (p : Proc) (mk e : BitVec 3) (f : Nat → Word) : Nat :=
  min 16 (storeLines ((laneAddrs (p.mask mk) (laneCount e) f).map (fun l => (l.2, (0 : Word))))).length

/-- The store-buffer entries that a vector store needs: one to go on, else those of all its lines. -/
def State.vectorEntries (s : State) (p : Proc) (i : Instr) : Nat :=
  if (p.hold.map Hold.arg2) == some postingMark then 1
  else
    match i with
    | .vst _ a o m e => vectorNeeds p m e (unitAddr (p.reg a) o (laneBytes e))
    | .vsts _ a b m e => vectorNeeds p m e (strideAddr (p.reg a) (p.reg b))
    | .vscat _ a b m e => vectorNeeds p m e (indexAddr (p.reg a) (s.lanes p b.toNat e))
    | _ => 0

end Sys2Proof.Machine
end

