-- ==== Sys2Proof/Machine/Events.lean ====
section
/-! DEFINITION. The events of the engines as rows of the opcode table: each answers the next state that its step
gives. -/

namespace Sys2Proof.Machine

/-- ROTATION_BOUNDARY (R147): Every 8 cycles the shepherd swaps out leaving processes and fills slots from the pens by credit. -/
def execRotationBoundary (core : Nat) (s : State) : Host.Outcome State Fault Refusal :=
  .next (rotationBoundary core s)

/-- QUANTUM_EXPIRY (R147): A light resident reaches PENW.QUANT boundaries and becomes expired. -/
def execQuantumExpiry (core : Nat) (slot : Nat) (s : State) : Host.Outcome State Fault Refusal :=
  .next (quantumExpiry core slot s)

/-- BUDGET_EXHAUSTED (R149): URGB.BUDGET reaches 0 and urgent processes count as expired. -/
def execBudgetExhausted (core : Nat) (s : State) : Host.Outcome State Fault Refusal :=
  .next (budgetExhausted core s)

/-- URGENT_WINDOW_END (R149): The URGB window ends; BUDGET is reloaded and urgent marks cleared. -/
def execUrgentWindowEnd (core : Nat) (s : State) : Host.Outcome State Fault Refusal :=
  .next (urgentWindowEnd core s)

/-- FILL (R104): A long-latency producer's value arrives and is accepted or discarded by tag, readying a waiting process. -/
def execFill (dest : FillTo) (val : Word) (s : State) : Host.Outcome State Fault Refusal :=
  .next (fill dest val s)

/-- XWR_DELIVERY (R107): An XWR arrives at the target slot and is checked for slot and group. -/
def execXwrDelivery (x : Xwr) (s : State) : Host.Outcome State Fault Refusal :=
  .next (xwrDelivery x s)

/-- XWR_WRITE (R107): A waiting XWR writes the target register once it is empty. -/
def execXwrWrite (x : Xwr) (s : State) : Host.Outcome State Fault Refusal :=
  .next (xwrWrite x s)

/-- STORE_TRANSLATE (R408): A store leaves the store buffer and looks up in the fold translator. -/
def execStoreTranslate (core : Nat) (id : Nat) (s : State) : Host.Outcome State Fault Refusal :=
  .next (storeTranslate core id s)

/-- TRANSLATOR_LOOKUP_DONE (R408): A 4-cycle fold-translator lookup completes, hitting or starting a walk. -/
def execTranslatorLookupDone (x : Xlat) (s : State) : Host.Outcome State Fault Refusal :=
  .next (translatorLookupDone x s)

/-- PAGE_WALK_READ (R81): A page-table entry read of a walk returns. -/
def execPageWalkRead (x : Xlat) (lvl : Nat) (entry : Word) (s : State) : Host.Outcome State Fault Refusal :=
  .next (pageWalkRead x lvl entry s)

/-- PAGE_WALK_END (R408): A walk ends, installing a translation or acting on its fault. -/
def execPageWalkEnd (x : Xlat) (r : Option Tlb) (s : State) : Host.Outcome State Fault Refusal :=
  .next (pageWalkEnd x r s)

/-- STORE_ACK (R83): A store's target acknowledges it and the store is complete. -/
def execStoreAck (core : Nat) (id : Nat) (s : State) : Host.Outcome State Fault Refusal :=
  .next (storeAck core id s)

/-- STORE_NAK (R78): A refused or unbacked store's negative answer reaches the sender and writes an SFQ record. -/
def execStoreNak (core : Nat) (id : Nat) (cause : Nat) (s : State) : Host.Outcome State Fault Refusal :=
  .next (storeNak core id cause s)

/-- SFQ_COPY (R85): Once the stopped process's stores are settled, its SFQ records move to its extension and its notification is queued. -/
def execSfqCopy (name : Nat) (s : State) : Host.Outcome State Fault Refusal :=
  .next (sfqCopy name s)

/-- REMOTE_ACCESS_ARRIVAL (R77): An access reaches a core window and is checked against WIN0 to WIN3. -/
def execRemoteAccessArrival (x : Access) (s : State) : Host.Outcome State Fault Refusal :=
  .next (remoteAccessArrival x s)

/-- AMO_AT_HOME (R97): An atomic is performed as one step at the location's home. -/
def execAmoAtHome (x : Access) (s : State) : Host.Outcome State Fault Refusal :=
  .next (amoAtHome x s)

/-- SLOT_REGISTER_WRITE (R76): A window write to a slot register sets it full and discards any pending fill. -/
def execSlotRegisterWrite (core : Nat) (slot : Nat) (reg : Reg) (val : Word) (s : State) : Host.Outcome State Fault Refusal :=
  .next (slotRegisterWrite core slot reg val s)

/-- TINV_WRITE (R82): A write to TINV posts an invalidation down the launch's done tree. -/
def execTinvWrite (core : Nat) (name : Nat) (val : Word) (s : State) : Host.Outcome State Fault Refusal :=
  .next (tinvWrite core name val s)

/-- CSR_WINDOW_WRITE (R76): A write through the CSR row of a window to a register with no row of its own. -/
def execCsrWindowWrite (core : Nat) (csr : Nat) (val : Word) (s : State) : Host.Outcome State Fault Refusal :=
  .next (csrWindowWrite core csr val s)

/-- INVALIDATION_ARRIVAL (R82): An invalidation reaches a core, which drops matching translation entries. -/
def execInvalidationArrival (core : Nat) (v : Inval) (s : State) : Host.Outcome State Fault Refusal :=
  .next (invalidationArrival core v s)

/-- INVALIDATION_COMPLETE (R82): No access using a dropped entry remains and the completion is combined up the tree. -/
def execInvalidationComplete (core : Nat) (v : Inval) (s : State) : Host.Outcome State Fault Refusal :=
  .next (invalidationComplete core v s)

/-- FRD_ANSWER (R123): The fold answers a future read of a cell. -/
def execFrdAnswer (f : FrdReq) (s : State) : Host.Outcome State Fault Refusal :=
  .next (frdAnswer f s)

/-- LAUNCH_RECORD (R20): A launch record arrives from the tether port or a bothy end and is checked or refused. -/
def execLaunchRecord (pkg : Nat) (src : Source) (words : List Word) (s : State) : Host.Outcome State Fault Refusal :=
  .next (launchRecord pkg src words s)

/-- LAUNCH_TAKE_EFFECT (R22): After earlier stores of the source complete, the bothy assigns GIDs and sends the header. -/
def execLaunchTakeEffect (launch : Nat) (s : State) : Host.Outcome State Fault Refusal :=
  .next (launchTakeEffect launch s)

/-- LAUNCH_HEADER (R22): A shepherd receives the launch header, derives the done tree and, at the root's core, writes the root record. -/
def execLaunchHeader (launch : Nat) (core : Nat) (s : State) : Host.Outcome State Fault Refusal :=
  .next (launchHeader launch core s)

/-- START (R154): A START message reaches the target core and creates the process or answers a failure. -/
def execStart (m : StartMsg) (s : State) : Host.Outcome State Fault Refusal :=
  .next (start m s)

/-- NAME_LOOKUP (R158): A lookup by name reaches the birth core and is passed on or answered. -/
def execNameLookup (q : Look) (atHolder : Bool) (s : State) : Host.Outcome State Fault Refusal :=
  .next (nameLookup q atHolder s)

/-- NAME_LOOKUP_ANSWER (R192): The answer to a lookup by name returns to the issuing core. -/
def execNameLookupAnswer (q : Look) (result : Word) (s : State) : Host.Outcome State Fault Refusal :=
  .next (nameLookupAnswer q result s)

/-- KILL_ARRIVAL (R162): A KILLG reaches a core and kills its processes of the group. -/
def execKillArrival (gid : Nat) (core : Nat) (s : State) : Host.Outcome State Fault Refusal :=
  .next (killArrival gid core s)

/-- GROUP_RELEASE (R162): Every member is FREE; the home entry and GID are released and KILLG's d is filled. -/
def execGroupRelease (gid : Nat) (s : State) : Host.Outcome State Fault Refusal :=
  .next (groupRelease gid s)

/-- MIGRATION_ARRIVAL (R166): A migrating context reaches the target shepherd, which accepts or refuses it. -/
def execMigrationArrival (m : Mig) (s : State) : Host.Outcome State Fault Refusal :=
  .next (migrationArrival m s)

/-- MIGRATION_ANSWER (R166): The target's acceptance or refusal returns to the source. -/
def execMigrationAnswer (m : Mig) (code : Nat) (s : State) : Host.Outcome State Fault Refusal :=
  .next (migrationAnswer m code s)

/-- LOCATION_UPDATE (R167): An endpoint's new location reaches its peer. -/
def execLocationUpdate (key : Nat) (loc : EndLoc) (s : State) : Host.Outcome State Fault Refusal :=
  .next (locationUpdate key loc s)

/-- FORWARD_EXPIRY (R167): A forwarding entry is removed after its peer's acknowledgement and 1 ms. -/
def execForwardExpiry (key : Nat) (s : State) : Host.Outcome State Fault Refusal :=
  .next (forwardExpiry key s)

/-- QUIESCE_STILL (R165): The stillness tree has read zero for 64 cycles and QUIESCE fills d. -/
def execQuiesceStill (dest : FillTo) (s : State) : Host.Outcome State Fault Refusal :=
  .next (quiesceStill dest s)

/-- BARRIER_ARRIVAL (R169): A member's arrival reaches the group home, which may complete the phase. -/
def execBarrierArrival (gid : Nat) (name : Nat) (s : State) : Host.Outcome State Fault Refusal :=
  .next (barrierArrival gid name s)

/-- EXIT_DRAIN_COMPLETE (R160): All stores of an exiting process are complete and its resources are freed. -/
def execExitDrainComplete (name : Nat) (s : State) : Host.Outcome State Fault Refusal :=
  .next (exitDrainComplete name s)

/-- NOTIFICATION_DELIVERY (R164): A held trap notification enters the supervisor queue once it has room. -/
def execNotificationDelivery (name : Nat) (s : State) : Host.Outcome State Fault Refusal :=
  .next (notificationDelivery name s)

/-- SLEEP_EXPIRY (R157): GTC reaches a sleeping process's deadline. -/
def execSleepExpiry (name : Nat) (s : State) : Host.Outcome State Fault Refusal :=
  .next (sleepExpiry name s)

/-- DETECTION_WAVE (R177): A done-tree detection wave reaches a node. -/
def execDetectionWave (launch : Nat) (node : Nat) (s : State) : Host.Outcome State Fault Refusal :=
  .next (detectionWave launch node s)

/-- DETECTION_ANSWER (R177): A node whose LIVE is 0 and whose children answered sends its sums up; at L[0] the launch may complete. -/
def execDetectionAnswer (launch : Nat) (node : Nat) (s : State) : Host.Outcome State Fault Refusal :=
  .next (detectionAnswer launch node s)

/-- OFFER_ARRIVAL (R204): A send's offer reaches the receive end and is held, matched or refused. -/
def execOfferArrival (dst : EndLoc) (m : Msg) (s : State) : Host.Outcome State Fault Refusal :=
  .next (offerArrival dst m s)

/-- OFFER_RESEND (R204): A refused offer is sent again 64 cycles later. -/
def execOfferResend (dst : EndLoc) (m : Msg) (s : State) : Host.Outcome State Fault Refusal :=
  .next (offerResend dst m s)

/-- RECEIVE_ANNOUNCE (R209): A waiting receive announces itself at the send end. -/
def execReceiveAnnounce (dst : EndLoc) (s : State) : Host.Outcome State Fault Refusal :=
  .next (receiveAnnounce dst s)

/-- TRANSFER_DATA_WRITTEN (R206): A block or tile rendezvous finishes writing its data at the receiver. -/
def execTransferDataWritten (x : Xfer) (s : State) : Host.Outcome State Fault Refusal :=
  .next (transferDataWritten x s)

/-- SEND_ACK (R206): The match acknowledgement reaches the sender, which retires. -/
def execSendAck (m : Msg) (peer : EndLoc) (s : State) : Host.Outcome State Fault Refusal :=
  .next (sendAck m peer s)

/-- MESSAGE_ENQUEUE (R202): A buffered message's last packet is written into the ring queue. -/
def execMessageEnqueue (dst : EndLoc) (m : Msg) (s : State) : Host.Outcome State Fault Refusal :=
  .next (messageEnqueue dst m s)

/-- CREDIT_RETURN (R202): A credit reaches the buffered send end. -/
def execCreditReturn (dst : EndLoc) (s : State) : Host.Outcome State Fault Refusal :=
  .next (creditReturn dst s)

/-- WAKEUP (R203): An engine wake-up adds one to a signal receive end's PEND. -/
def execWakeup (dst : EndLoc) (s : State) : Host.Outcome State Fault Refusal :=
  .next (wakeup dst s)

/-- PEER_DELETED (R191): Notice of a deleted or killed end reaches its peer, which becomes DEAD. -/
def execPeerDeleted (dst : EndLoc) (s : State) : Host.Outcome State Fault Refusal :=
  .next (peerDeleted dst s)

/-- CHBIND_MOVE (R192): Once INFL is 0 the end and its held traffic are sent to the target core. -/
def execChbindMove (v : EndMove) (s : State) : Host.Outcome State Fault Refusal :=
  .next (chbindMove v s)

/-- ENDPOINT_INSTALL (R192): A moved end reaches the target core and is installed or refused. -/
def execEndpointInstall (v : EndMove) (s : State) : Host.Outcome State Fault Refusal :=
  .next (endpointInstall v s)

/-- CHBIND_ACK (R192): The target's answer returns and the CHBIND or SENDH fills d. -/
def execChbindAck (v : EndMove) (code : Nat) (s : State) : Host.Outcome State Fault Refusal :=
  .next (chbindAck v code s)

/-- TRECV_EXPIRY (R201): A TRECV deadline passes without a match. -/
def execTrecvExpiry (name : Nat) (s : State) : Host.Outcome State Fault Refusal :=
  .next (trecvExpiry name s)

/-- TRANSFER_COMPLETE (R212): A copy, SENDA, drain or PERMX transfer completes and DONE advances. -/
def execTransferComplete (t : Transfer) (s : State) : Host.Outcome State Fault Refusal :=
  .next (transferComplete t s)

/-- STREAM_ELEMENT (R215): A read-ahead stream element arrives at the port. -/
def execStreamElement (name : Nat) (port : Nat) (s : State) : Host.Outcome State Fault Refusal :=
  .next (streamElement name port s)

/-- JOIN_RECORDED (R216): A multicast join or leave has been recorded by every router and d is filled. -/
def execJoinRecorded (dest : FillTo) (core : Nat) (tag : Nat) (key : Nat) (join : Bool) (s : State) : Host.Outcome State Fault Refusal :=
  .next (joinRecorded dest core tag key join s)

/-- MCAST_DELIVERY (R217): A multicast block reaches a subscribed end. -/
def execMcastDelivery (key : Nat) (m : Msg) (s : State) : Host.Outcome State Fault Refusal :=
  .next (mcastDelivery key m s)

/-- PACKET_STOMP (R369): A header CRC failure or port reset ends a packet with a stomped tail. -/
def execPacketStomp (die : Nat) (dst : EndLoc) (m : Msg) (s : State) : Host.Outcome State Fault Refusal :=
  .next (packetStomp die dst m s)

/-- ACK_TIMEOUT (R369): A packet's acknowledgement timeout passes and it is resent or its channel ends. -/
def execAckTimeout (dst : EndLoc) (m : Msg) (s : State) : Host.Outcome State Fault Refusal :=
  .next (ackTimeout dst m s)

/-- SERVER_ANSWER (R225): A server's answer to SVOPEN returns and d is filled. -/
def execServerAnswer (r : SvReq) (s : State) : Host.Outcome State Fault Refusal :=
  .next (serverAnswer r s)

/-- DROVER_REQUEST (R231): A drover takes a request, translating and splitting it into slice accesses. -/
def execDroverRequest (drover : Nat) (r : DrReq) (s : State) : Host.Outcome State Fault Refusal :=
  .next (droverRequest drover r s)

/-- SLICE_PASS (R409): A slice passed over the drover ring reaches its owning drover. -/
def execSlicePass (drover : Nat) (x : Access) (s : State) : Host.Outcome State Fault Refusal :=
  .next (slicePass drover x s)

/-- DROVER_ACCESS_END (R409): A slice access's transfer ends, performing the write or releasing the read data. -/
def execDroverAccessEnd (drover : Nat) (x : Access) (s : State) : Host.Outcome State Fault Refusal :=
  .next (droverAccessEnd drover x s)

/-- DROVER_REPLY_RELEASE (R234): A reply waiting at the drover takes a returned credit and is sent. -/
def execDroverReplyRelease (drover : Nat) (s : State) : Host.Outcome State Fault Refusal :=
  .next (droverReplyRelease drover s)

/-- DISPENSER_QUERY (R241): A dispenser serves one query or WFW registration with the next item or the token. -/
def execDispenserQuery (disp : Nat) (q : DispAsk) (s : State) : Host.Outcome State Fault Refusal :=
  .next (dispenserQuery disp q s)

/-- DQRY_ANSWER (R239): A dispenser answer writes the scratchpad word and fills d. -/
def execDqryAnswer (q : DispAsk) (item : Word) (s : State) : Host.Outcome State Fault Refusal :=
  .next (dqryAnswer q item s)

/-- WFW_SERVE (R240): A served WFW waiter receives item, ordinal, ARG and handle and is readied. -/
def execWfwServe (name : Nat) (item : Word) (ordinal : Word) (arg : Word) (s : State) : Host.Outcome State Fault Refusal :=
  .next (wfwServe name item ordinal arg s)

/-- DEADLINE_ARM (R242): A deadline waiting for a timer place is armed when one frees. -/
def execDeadlineArm (fold : Nat) (s : State) : Host.Outcome State Fault Refusal :=
  .next (deadlineArm fold s)

/-- DEADLINE_FIRE (R243): An armed timer deadline fires, adding a wake-up and disarming. -/
def execDeadlineFire (fold : Nat) (d : Deadline) (s : State) : Host.Outcome State Fault Refusal :=
  .next (deadlineFire fold d s)

/-- PROBE_START (R247): A probed process has been BLOCKED for DELAY ns and its shepherd sends a probe. -/
def execProbeStart (name : Nat) (episode : Nat) (s : State) : Host.Outcome State Fault Refusal :=
  .next (probeStart name episode s)

/-- PROBE_ARRIVAL (R249): A probe reaches a process and dies, is confirmed, or is forwarded along its edges. -/
def execProbeArrival (name : Nat) (path : List Member) (s : State) : Host.Outcome State Fault Refusal :=
  .next (probeArrival name path s)

/-- CONFIRMATION_ARRIVAL (R250): A confirmation visits a member or returns to the initiator, which makes the report. -/
def execConfirmationArrival (path : List Member) (index : Nat) (s : State) : Host.Outcome State Fault Refusal :=
  .next (confirmationArrival path index s)

/-- REPORT_ARRIVAL (R253): A deadlock report reaches the supervisor's core queue or is lost. -/
def execReportArrival (gid : Nat) (report : List Word) (s : State) : Host.Outcome State Fault Refusal :=
  .next (reportArrival gid report s)

/-- TETHER_MESSAGE_FRAME (R392): A message frame from the host is delivered on a host end. -/
def execTetherMessageFrame (pkg : Nat) (words : List Word) (s : State) : Host.Outcome State Fault Refusal :=
  .next (tetherMessageFrame pkg words s)

/-- TETHER_STORE_FRAME (R392): A store frame writes its payload through the target window at level M. -/
def execTetherStoreFrame (pkg : Nat) (words : List Word) (s : State) : Host.Outcome State Fault Refusal :=
  .next (tetherStoreFrame pkg words s)

/-- TETHER_LOAD_FRAME (R392): A load frame reads memory and returns a load reply frame. -/
def execTetherLoadFrame (pkg : Nat) (words : List Word) (s : State) : Host.Outcome State Fault Refusal :=
  .next (tetherLoadFrame pkg words s)

/-- TETHER_REFUSED_FRAME (R392): A malformed frame is discarded and counted as an event. -/
def execTetherRefusedFrame (pkg : Nat) (words : List Word) (s : State) : Host.Outcome State Fault Refusal :=
  .next (tetherRefusedFrame pkg words s)

/-- TETHER_RETRY (R392): A damaged frame is retried from the retry buffer; after 16 the port is down. -/
def execTetherRetry (pkg : Nat) (s : State) : Host.Outcome State Fault Refusal :=
  .next (tetherRetry pkg s)

/-- TETHER_TRAINING (R398): The tether port trains and a new session key is agreed by ML-KEM. -/
def execTetherTraining (pkg : Nat) (seed : Word) (ciphertext : List Byte) (s : State) : Host.Outcome State Fault Refusal :=
  .next (tetherTraining pkg seed ciphertext s)

/-- ATTEST (R397): Returns a signed attestation report over the nonce. -/
def execAttest (q : BReq) (nonce : List Word) (s : State) : Host.Outcome State Fault Refusal :=
  .next (attest q nonce s)

/-- HEALTH (R393): Returns the health register and fenced-fold map. -/
def execHealth (q : BReq) (s : State) : Host.Outcome State Fault Refusal :=
  .next (health q s)

/-- HEALTH_REPL_CLEAR (R400): A HEALTH request with word 1 bit 63 clears REPL. -/
def execHealthReplClear (q : BReq) (s : State) : Host.Outcome State Fault Refusal :=
  .next (healthReplClear q s)

/-- EVENTS (R393): Returns and removes the oldest 127 event records. -/
def execEvents (q : BReq) (s : State) : Host.Outcome State Fault Refusal :=
  .next (events q s)

/-- COUNTERS (R393): Returns the life counters. -/
def execCounters (q : BReq) (s : State) : Host.Outcome State Fault Refusal :=
  .next (counters q s)

/-- SNAPSHOT (R403): Requests a snapshot trigger. -/
def execSnapshot (q : BReq) (s : State) : Host.Outcome State Fault Refusal :=
  .next (snapshot q s)

/-- KEYPUT (R398): Installs an encrypted link key and salt in the key store. -/
def execKeyput (q : BReq) (index : Nat) (count : Nat) (sealed : List Byte) (s : State) : Host.Outcome State Fault Refusal :=
  .next (keyput q index count sealed s)

/-- FEATURE (R393): Clears feature bits of the package's feature word before boot completes. -/
def execFeature (q : BReq) (mask : Word) (s : State) : Host.Outcome State Fault Refusal :=
  .next (feature q mask s)

/-- FENCE_FOLD (R400): Fences a quiescent fold off from use. -/
def execFenceFold (q : BReq) (fold : Nat) (s : State) : Host.Outcome State Fault Refusal :=
  .next (fenceFold q fold s)

/-- IMAGE (R395): Verifies, writes and measures a signed code image. -/
def execImage (q : BReq) (cores : List Nat) (img : List Byte) (signature : List Byte) (s : State) : Host.Outcome State Fault Refusal :=
  .next (image q cores img signature s)

/-- POWER (R399): Sets the package power state. -/
def execPower (q : BReq) (state : BitVec 2) (s : State) : Host.Outcome State Fault Refusal :=
  .next (power q state s)

/-- KILLGROUP (R393): Kills a group of a launch as KILLG does and returns the count. -/
def execKillgroup (q : BReq) (gid : Nat) (launchId : Word) (s : State) : Host.Outcome State Fault Refusal :=
  .next (killgroup q gid launchId s)

/-- IMAGEKEY (R398): Sets or changes the installation's image key. -/
def execImagekey (q : BReq) (key : List Byte) (signature : List Byte) (s : State) : Host.Outcome State Fault Refusal :=
  .next (imagekey q key signature s)

/-- POWER_ON (R395): The bothy ROM verifies and starts firmware, which tests folds and trains links. -/
def execPowerOn (pkg : Nat) (firmware : List Byte) (signature : List Byte) (failedFolds : List Nat) (s : State) : Host.Outcome State Fault Refusal :=
  .next (powerOn pkg firmware signature failedFolds s)

/-- BOOT_COMPLETE (R395): Firmware reports boot complete with a LAUNCHID 0 completion frame. -/
def execBootComplete (pkg : Nat) (s : State) : Host.Outcome State Fault Refusal :=
  .next (bootComplete pkg s)

/-- PACKAGE_RESET (R405): An I3C package reset resets the package and its folds. -/
def execPackageReset (pkg : Nat) (s : State) : Host.Outcome State Fault Refusal :=
  .next (packageReset pkg s)

/-- I3C_POWER_STATE (R405): An I3C write sets a power state. -/
def execI3cPowerState (pkg : Nat) (state : BitVec 2) (s : State) : Host.Outcome State Fault Refusal :=
  .next (i3cPowerState pkg state s)

/-- POWER_CAP (R399): Package power above 2,800 W for 1 ms enters CAP. -/
def execPowerCap (pkg : Nat) (s : State) : Host.Outcome State Fault Refusal :=
  .next (powerCap pkg s)

/-- THROTTLE_ENTER (R399): A junction reaches 100 °C and throttling begins. -/
def execThrottleEnter (die : Nat) (junction : Nat) (s : State) : Host.Outcome State Fault Refusal :=
  .next (throttleEnter die junction s)

/-- THROTTLE_EXIT (R399): Junctions fall below 95 °C and throttling ends. -/
def execThrottleExit (die : Nat) (junction : Nat) (s : State) : Host.Outcome State Fault Refusal :=
  .next (throttleExit die junction s)

/-- HARD_LIMIT (R399): A junction reaches 115 °C and the package goes OFF. -/
def execHardLimit (die : Nat) (junction : Nat) (s : State) : Host.Outcome State Fault Refusal :=
  .next (hardLimit die junction s)

/-- PATROL_SCRUB (R401): The scrubber reads a word, correcting or poisoning it. -/
def execPatrolScrub (addr : Nat) (corrected : Bool) (uncorrected : Bool) (s : State) : Host.Outcome State Fault Refusal :=
  .next (patrolScrub addr corrected uncorrected s)

/-- SNAPSHOT_LATCH (R403): At time T every block latches its snapshot registers. -/
def execSnapshotLatch (pkg : Nat) (s : State) : Host.Outcome State Fault Refusal :=
  .next (snapshotLatch pkg s)

/-- LIFE_COUNTER_SAVE (R404): Every 10 minutes the life counters are written to non-volatile storage. -/
def execLifeCounterSave (pkg : Nat) (s : State) : Host.Outcome State Fault Refusal :=
  .next (lifeCounterSave pkg s)

/-- FLIT_ARRIVAL (R366): A link flit arrives and is accepted, discarded or NAKed, and its ACK or NAK is applied. -/
def execFlitArrival (link : Nat) (f : Flit) (s : State) : Host.Outcome State Fault Refusal :=
  .next (flitArrival link f s)

/-- LINK_ACK_TIMEOUT (R366): No acknowledgement for 16 µs, or 16 replays, declares the link down and fails it over. -/
def execLinkAckTimeout (link : Nat) (s : State) : Host.Outcome State Fault Refusal :=
  .next (linkAckTimeout link s)

/-- GATEWAY_PACKET_ARRIVAL (R363): A cross-package packet reaches the destination die's gateway and is delivered in sequence or held. -/
def execGatewayPacketArrival (p : GPacket) (s : State) : Host.Outcome State Fault Refusal :=
  .next (gatewayPacketArrival p s)

/-- LINK_LOST_TIMEOUT (R364): Traffic without an acknowledgement for 1 ms is declared link lost and its peer bit set. -/
def execLinkLostTimeout (x : Access) (s : State) : Host.Outcome State Fault Refusal :=
  .next (linkLostTimeout x s)

/-- REGION_ARRIVAL (R379): A region reaches a landing unit and is queued, refused or receipted. -/
def execRegionArrival (unit : Nat) (r : Region) (s : State) : Host.Outcome State Fault Refusal :=
  .next (regionArrival unit r s)

/-- REGION_ATTEMPT (R379): A landing unit runs a region body attempt and commits or retries it. -/
def execRegionAttempt (unit : Nat) (r : Region) (attempt : Nat) (s : State) : Host.Outcome State Fault Refusal :=
  .next (regionAttempt unit r attempt s)

/-- REGION_RECEIPT (R380): A region's receipt reaches the issuer. -/
def execRegionReceipt (name : Nat) (sent : Nat) (s : State) : Host.Outcome State Fault Refusal :=
  .next (regionReceipt name sent s)

/-- REGION_RETURN (R380): A region's return restores or updates the issuer's registers and PC. -/
def execRegionReturn (name : Nat) (sent : Nat) (r : RegionEnd) (s : State) : Host.Outcome State Fault Refusal :=
  .next (regionReturn name sent r s)

/-- REGION_RETURN_TIMEOUT (R380): No return within 65,536 ns ends the region with RETLOST. -/
def execRegionReturnTimeout (name : Nat) (sent : Nat) (s : State) : Host.Outcome State Fault Refusal :=
  .next (regionReturnTimeout name sent s)

/-- PERMX_PAIR (R383): A PERMX pairs with its partner's and starts sending elements. -/
def execPermxPair (id : Nat) (s : State) : Host.Outcome State Fault Refusal :=
  .next (permxPair id s)

/-- PERMX_ELEMENT (R383): An exchanged element arrives and is written after its outgoing read. -/
def execPermxElement (id : Nat) (index : Nat) (val : List Byte) (s : State) : Host.Outcome State Fault Refusal :=
  .next (permxElement id index val s)

/-- BUNDLE_PREPARE (R387): Phase 1 stages a pending version of a bundle line at its home. -/
def execBundlePrepare (writer : Nat) (slot : Nat) (s : State) : Host.Outcome State Fault Refusal :=
  .next (bundlePrepare writer slot s)

/-- BUNDLE_PHASE2 (R387): Phase 2 makes the pending version current at a home and retains the previous. -/
def execBundlePhase2 (writer : Nat) (slot : Nat) (s : State) : Host.Outcome State Fault Refusal :=
  .next (bundlePhase2 writer slot s)

/-- BUNDLE_ACK (R387): A home's phase answer returns; after all, word 0 is written and BCLOSE fills d. -/
def execBundleAck (writer : Nat) (slot : Nat) (phase : Nat) (ok : Bool) (s : State) : Host.Outcome State Fault Refusal :=
  .next (bundleAck writer slot phase ok s)

/-- BLD_AT_HOME (R389): A BLD's view is applied at the line's home and answered. -/
def execBldAtHome (r : BldReq) (s : State) : Host.Outcome State Fault Refusal :=
  .next (bldAtHome r s)

/-- TILE_TRANSFER_COMPLETE (R287): A TLOAD or TSTORE's last slice finishes and the tile becomes READY. -/
def execTileTransferComplete (core : Nat) (tile : Nat) (s : State) : Host.Outcome State Fault Refusal :=
  .next (tileTransferComplete core tile s)

/-- DRAIN_COMPLETE (R294): An ADRAIN's last bank read is made and the local tile becomes READY. -/
def execDrainComplete (core : Nat) (bank : Nat) (s : State) : Host.Outcome State Fault Refusal :=
  .next (drainComplete core bank s)

/-- TILE_OP_COMPLETE (R302): A synchronous tile instruction writes its last result and retires. -/
def execTileOpComplete (core : Nat) (s : State) : Host.Outcome State Fault Refusal :=
  .next (tileOpComplete core s)

/-- K_GROUP_DONE (R290): A k-group of a product completes, possibly raising TILE_NAN. -/
def execKGroupDone (core : Nat) (s : State) : Host.Outcome State Fault Refusal :=
  .next (kGroupDone core s)

/-- GANG_PRODUCT_START (R293): Every live gang member has issued its GMMA and the product starts. -/
def execGangProductStart (gid : Nat) (ordinal : Nat) (s : State) : Host.Outcome State Fault Refusal :=
  .next (gangProductStart gid ordinal s)

/-- TILE_COMMAND_ARRIVAL (R300): A remote tile command reaches the target, which accepts or refuses it. -/
def execTileCommandArrival (c : TCommand) (s : State) : Host.Outcome State Fault Refusal :=
  .next (tileCommandArrival c s)

/-- TILE_COMMAND_ANSWER (R300): The target's answer to a TCMD reaches the sender. -/
def execTileCommandAnswer (c : TCommand) (accepted : Bool) (s : State) : Host.Outcome State Fault Refusal :=
  .next (tileCommandAnswer c accepted s)

/-- REVERSE_RECORD (R328): REVERSE finishes one record boundary, applying its adjoint. -/
def execReverseRecord (name : Nat) (s : State) : Host.Outcome State Fault Refusal :=
  .next (reverseRecord name s)

/-- SPILL_ACK (R322): A tape spill write is acknowledged; after the last, TSPILL retires. -/
def execSpillAck (name : Nat) (ok : Bool) (s : State) : Host.Outcome State Fault Refusal :=
  .next (spillAck name ok s)

/-- SPE_TREE_ENTRY (R356): An SPE instruction with its reads done enters a tree. -/
def execSpeTreeEntry (fold : Nat) (name : Nat) (s : State) : Host.Outcome State Fault Refusal :=
  .next (speTreeEntry fold name s)

/-- SPE_RETIRE (R354): An SPE instruction completes its writes and returns the registers. -/
def execSpeRetire (fold : Nat) (name : Nat) (s : State) : Host.Outcome State Fault Refusal :=
  .next (speRetire fold name s)

/-- VECTOR_LOAD_COMPLETE (R268): The last enabled lane of a vector load arrives and vd is written in one step, or the lowest faulting lane traps. -/
def execVectorLoadComplete (name : Nat) (s : State) : Host.Outcome State Fault Refusal :=
  .next (vectorLoadComplete name s)

/-- START_ANSWER (R154): The target's answer to a START reaches the issuer and fills the d of SPAWN or GANG. -/
def execStartAnswer (m : StartMsg) (result : Word) (s : State) : Host.Outcome State Fault Refusal :=
  .next (startAnswer m result s)

/-- PEER_ANSWER (R374): The group home's answer to PEER returns and fills d with the old entry and UNNAMED bit. -/
def execPeerAnswer (dest : FillTo) (val : Word) (s : State) : Host.Outcome State Fault Refusal :=
  .next (peerAnswer dest val s)

/-- KEY_INSTALLED (R375): The bothy finishes installing a key, or the switch's marker flit is sent, and LKEY's d is filled. -/
def execKeyInstalled (dest : FillTo) (val : Word) (s : State) : Host.Outcome State Fault Refusal :=
  .next (keyInstalled dest val s)

/-- LINK_TRAINING (R376): An off-package link is trained and comes up, with its hop latency measured. -/
def execLinkTraining (link : Nat) (peer : Nat) (hop : Nat) (s : State) : Host.Outcome State Fault Refusal :=
  .next (linkTraining link peer hop s)

/-- LINK_DOWN_24_HOURS (R400): A link has been down for 24 hours while its peer was up, and REPL is set. -/
def execLinkDown24Hours (link : Nat) (s : State) : Host.Outcome State Fault Refusal :=
  .next (linkDown24Hours link s)

/-- POWER_FAILURE (R404): The supply is lost without an orderly entry to OFF, and counts since the last save are lost. -/
def execPowerFailure (pkg : Nat) (s : State) : Host.Outcome State Fault Refusal :=
  .next (powerFailure pkg s)

/-- MEASUREMENT_REQUEST (R396): At the control node's request the firmware extends one of measurement registers 3 to 7. -/
def execMeasurementRequest (pkg : Nat) (register : Nat) (item : List Byte) (s : State) : Host.Outcome State Fault Refusal :=
  .next (measurementRequest pkg register item s)

end Sys2Proof.Machine
end

