-- ==== Sys2Proof/Machine/Dispatch.lean ====
section
/-! DEFINITION. The meaning of each instruction: one arm per constructor of `Instr`. -/

namespace Sys2Proof.Machine

/-- Executes one row of the opcode table. -/
def exec (i : Instr) (s : State) : Host.Outcome State Fault Refusal :=
  match i with
  | .add d a b => Sys2Proof.Machine.execAdd d a b s
  | .sub d a b => Sys2Proof.Machine.execSub d a b s
  | .and d a b => Sys2Proof.Machine.execAnd d a b s
  | .or d a b => Sys2Proof.Machine.execOr d a b s
  | .xor d a b => Sys2Proof.Machine.execXor d a b s
  | .andn d a b => Sys2Proof.Machine.execAndn d a b s
  | .shl d a b => Sys2Proof.Machine.execShl d a b s
  | .shr d a b => Sys2Proof.Machine.execShr d a b s
  | .sra d a b => Sys2Proof.Machine.execSra d a b s
  | .rol d a b => Sys2Proof.Machine.execRol d a b s
  | .mul d a b => Sys2Proof.Machine.execMul d a b s
  | .mulh d a b => Sys2Proof.Machine.execMulh d a b s
  | .mulhu d a b => Sys2Proof.Machine.execMulhu d a b s
  | .div d a b => Sys2Proof.Machine.execDiv d a b s
  | .divu d a b => Sys2Proof.Machine.execDivu d a b s
  | .rem d a b => Sys2Proof.Machine.execRem d a b s
  | .remu d a b => Sys2Proof.Machine.execRemu d a b s
  | .min d a b => Sys2Proof.Machine.execMin d a b s
  | .max d a b => Sys2Proof.Machine.execMax d a b s
  | .minu d a b => Sys2Proof.Machine.execMinu d a b s
  | .maxu d a b => Sys2Proof.Machine.execMaxu d a b s
  | .clz d a => Sys2Proof.Machine.execClz d a s
  | .ctz d a => Sys2Proof.Machine.execCtz d a s
  | .popc d a => Sys2Proof.Machine.execPopc d a s
  | .bswap d a => Sys2Proof.Machine.execBswap d a s
  | .sext d a b => Sys2Proof.Machine.execSext d a b s
  | .zext d a b => Sys2Proof.Machine.execZext d a b s
  | .seq d a b => Sys2Proof.Machine.execSeq d a b s
  | .sne d a b => Sys2Proof.Machine.execSne d a b s
  | .slt d a b => Sys2Proof.Machine.execSlt d a b s
  | .sltu d a b => Sys2Proof.Machine.execSltu d a b s
  | .sle d a b => Sys2Proof.Machine.execSle d a b s
  | .sleu d a b => Sys2Proof.Machine.execSleu d a b s
  | .addi d a x0 => Sys2Proof.Machine.execAddi d a x0 s
  | .andi d a x0 => Sys2Proof.Machine.execAndi d a x0 s
  | .ori d a x0 => Sys2Proof.Machine.execOri d a x0 s
  | .xori d a x0 => Sys2Proof.Machine.execXori d a x0 s
  | .shli d a x0 => Sys2Proof.Machine.execShli d a x0 s
  | .shri d a x0 => Sys2Proof.Machine.execShri d a x0 s
  | .srai d a x0 => Sys2Proof.Machine.execSrai d a x0 s
  | .roli d a x0 => Sys2Proof.Machine.execRoli d a x0 s
  | .lih d a x0 => Sys2Proof.Machine.execLih d a x0 s
  | .seqi d a x0 => Sys2Proof.Machine.execSeqi d a x0 s
  | .slti d a x0 => Sys2Proof.Machine.execSlti d a x0 s
  | .sltui d a x0 => Sys2Proof.Machine.execSltui d a x0 s
  | .muli d a x0 => Sys2Proof.Machine.execMuli d a x0 s
  | .fadd d a b x0 => Sys2Proof.Machine.execFadd d a b x0 s
  | .fsub d a b x0 => Sys2Proof.Machine.execFsub d a b x0 s
  | .fmul d a b x0 => Sys2Proof.Machine.execFmul d a b x0 s
  | .fdiv d a b x0 => Sys2Proof.Machine.execFdiv d a b x0 s
  | .fsqrt d a x0 => Sys2Proof.Machine.execFsqrt d a x0 s
  | .fmin d a b x0 => Sys2Proof.Machine.execFmin d a b x0 s
  | .fmax d a b x0 => Sys2Proof.Machine.execFmax d a b x0 s
  | .fneg d a x0 => Sys2Proof.Machine.execFneg d a x0 s
  | .fabs d a x0 => Sys2Proof.Machine.execFabs d a x0 s
  | .feq d a b x0 => Sys2Proof.Machine.execFeq d a b x0 s
  | .flt d a b x0 => Sys2Proof.Machine.execFlt d a b x0 s
  | .fle d a b x0 => Sys2Proof.Machine.execFle d a b x0 s
  | .fclass d a x0 => Sys2Proof.Machine.execFclass d a x0 s
  | .fcvt d a x0 => Sys2Proof.Machine.execFcvt d a x0 s
  | .ftoi d a x0 => Sys2Proof.Machine.execFtoi d a x0 s
  | .itof d a x0 => Sys2Proof.Machine.execItof d a x0 s
  | .fma d a b c x0 => Sys2Proof.Machine.execFma d a b c x0 s
  | .fms d a b c x0 => Sys2Proof.Machine.execFms d a b c x0 s
  | .fnma d a b c x0 => Sys2Proof.Machine.execFnma d a b c x0 s
  | .fnms d a b c x0 => Sys2Proof.Machine.execFnms d a b c x0 s
  | .ld d a z o => Sys2Proof.Machine.execLd d a z o s
  | .st d a z o => Sys2Proof.Machine.execSt d a z o s
  | .ldm f a l o => Sys2Proof.Machine.execLdm f a l o s
  | .stm f a l o => Sys2Proof.Machine.execStm f a l o s
  | .amoAdd d a b w x y => Sys2Proof.Machine.execAmoAdd d a b w x y s
  | .amoAnd d a b w x y => Sys2Proof.Machine.execAmoAnd d a b w x y s
  | .amoOr d a b w x y => Sys2Proof.Machine.execAmoOr d a b w x y s
  | .amoXor d a b w x y => Sys2Proof.Machine.execAmoXor d a b w x y s
  | .amoMin d a b w x y => Sys2Proof.Machine.execAmoMin d a b w x y s
  | .amoMax d a b w x y => Sys2Proof.Machine.execAmoMax d a b w x y s
  | .amoMinu d a b w x y => Sys2Proof.Machine.execAmoMinu d a b w x y s
  | .amoMaxu d a b w x y => Sys2Proof.Machine.execAmoMaxu d a b w x y s
  | .amoSwp d a b w x y => Sys2Proof.Machine.execAmoSwp d a b w x y s
  | .amoCas d a b w x y => Sys2Proof.Machine.execAmoCas d a b w x y s
  | .amoFadd d a b w x y => Sys2Proof.Machine.execAmoFadd d a b w x y s
  | .fence d x0 k => Sys2Proof.Machine.execFence d x0 k s
  | .drainS => Sys2Proof.Machine.execDrainS s
  | .isync => Sys2Proof.Machine.execIsync s
  | .frd d a t c => Sys2Proof.Machine.execFrd d a t c s
  | .fwr a b => Sys2Proof.Machine.execFwr a b s
  | .fclr a => Sys2Proof.Machine.execFclr a s
  | .xwr d a b => Sys2Proof.Machine.execXwr d a b s
  | .slb d => Sys2Proof.Machine.execSlb d s
  | .slr => Sys2Proof.Machine.execSlr s
  | .mxf d b => Sys2Proof.Machine.execMxf d b s
  | .mxt d a => Sys2Proof.Machine.execMxt d a s
  | .bindq d b => Sys2Proof.Machine.execBindq d b s
  | .unbq d => Sys2Proof.Machine.execUnbq d s
  | .empty d => Sys2Proof.Machine.execEmpty d s
  | .isfull d a => Sys2Proof.Machine.execIsfull d a s
  | .beqz a o => Sys2Proof.Machine.execBeqz a o s
  | .bnez a o => Sys2Proof.Machine.execBnez a o s
  | .bltz a o => Sys2Proof.Machine.execBltz a o s
  | .bgez a o => Sys2Proof.Machine.execBgez a o s
  | .bgtz a o => Sys2Proof.Machine.execBgtz a o s
  | .blez a o => Sys2Proof.Machine.execBlez a o s
  | .beq a b o => Sys2Proof.Machine.execBeq a b o s
  | .bne a b o => Sys2Proof.Machine.execBne a b o s
  | .blt a b o => Sys2Proof.Machine.execBlt a b o s
  | .bge a b o => Sys2Proof.Machine.execBge a b o s
  | .bltu a b o => Sys2Proof.Machine.execBltu a b o s
  | .bgeu a b o => Sys2Proof.Machine.execBgeu a b o s
  | .j o => Sys2Proof.Machine.execJ o s
  | .jal o => Sys2Proof.Machine.execJal o s
  | .jr a => Sys2Proof.Machine.execJr a s
  | .jalr d a => Sys2Proof.Machine.execJalr d a s
  | .loop a o => Sys2Proof.Machine.execLoop a o s
  | .trap c => Sys2Proof.Machine.execTrap c s
  | .sysc c => Sys2Proof.Machine.execSysc c s
  | .eret => Sys2Proof.Machine.execEret s
  | .brk c => Sys2Proof.Machine.execBrk c s
  | .nop => Sys2Proof.Machine.execNop s
  | .snap => Sys2Proof.Machine.execSnap s
  | .csrr d n => Sys2Proof.Machine.execCsrr d n s
  | .csrw d a n => Sys2Proof.Machine.execCsrw d a n s
  | .csrs d a n => Sys2Proof.Machine.execCsrs d a n s
  | .csrc d a n => Sys2Proof.Machine.execCsrc d a n s
  | .spawn d a b n l v => Sys2Proof.Machine.execSpawn d a b n l v s
  | .gang d a e => Sys2Proof.Machine.execGang d a e s
  | .yield => Sys2Proof.Machine.execYield s
  | .prio d a => Sys2Proof.Machine.execPrio d a s
  | .exit a => Sys2Proof.Machine.execExit a s
  | .killg d a => Sys2Proof.Machine.execKillg d a s
  | .susp d a => Sys2Proof.Machine.execSusp d a s
  | .resm d a => Sys2Proof.Machine.execResm d a s
  | .migr d a b => Sys2Proof.Machine.execMigr d a b s
  | .pself d => Sys2Proof.Machine.execPself d s
  | .pinfo d a => Sys2Proof.Machine.execPinfo d a s
  | .wfw a => Sys2Proof.Machine.execWfw a s
  | .sleep a => Sys2Proof.Machine.execSleep a s
  | .trapw d w => Sys2Proof.Machine.execTrapw d w s
  | .quiesce d a b => Sys2Proof.Machine.execQuiesce d a b s
  | .quiesceR d a b => Sys2Proof.Machine.execQuiesceR d a b s
  | .gbar d => Sys2Proof.Machine.execGbar d s
  | .garr d => Sys2Proof.Machine.execGarr d s
  | .gwait a => Sys2Proof.Machine.execGwait a s
  | .gexp a b => Sys2Proof.Machine.execGexp a b s
  | .svopen d a b => Sys2Proof.Machine.execSvopen d a b s
  | .timer d a b => Sys2Proof.Machine.execTimer d a b s
  | .dqry d a b => Sys2Proof.Machine.execDqry d a b s
  | .dlkq d a => Sys2Proof.Machine.execDlkq d a s
  | .chnew d a => Sys2Proof.Machine.execChnew d a s
  | .chdel a => Sys2Proof.Machine.execChdel a s
  | .chbind d a b => Sys2Proof.Machine.execChbind d a b s
  | .chqry d a => Sys2Proof.Machine.execChqry d a s
  | .chpoll d a => Sys2Proof.Machine.execChpoll d a s
  | .sendh a b => Sys2Proof.Machine.execSendh a b s
  | .send a b => Sys2Proof.Machine.execSend a b s
  | .recv d a => Sys2Proof.Machine.execRecv d a s
  | .sendb a b => Sys2Proof.Machine.execSendb a b s
  | .recvb d a b => Sys2Proof.Machine.execRecvb d a b s
  | .sendt a b t => Sys2Proof.Machine.execSendt a b t s
  | .recvt a b t => Sys2Proof.Machine.execRecvt a b t s
  | .senda d a b => Sys2Proof.Machine.execSenda d a b s
  | .trecv d a b t => Sys2Proof.Machine.execTrecv d a b t s
  | .alt d a b f => Sys2Proof.Machine.execAlt d a b f s
  | .copy d a b => Sys2Proof.Machine.execCopy d a b s
  | .cwait d a b => Sys2Proof.Machine.execCwait d a b s
  | .strm d b => Sys2Proof.Machine.execStrm d b s
  | .subs d a b => Sys2Proof.Machine.execSubs d a b s
  | .unsub d a => Sys2Proof.Machine.execUnsub d a s
  | .mcast a b => Sys2Proof.Machine.execMcast a b s
  | .vadd d a b k e => Sys2Proof.Machine.execVadd d a b k e s
  | .vsub d a b k e => Sys2Proof.Machine.execVsub d a b k e s
  | .vmul d a b k e => Sys2Proof.Machine.execVmul d a b k e s
  | .vdiv d a b k e => Sys2Proof.Machine.execVdiv d a b k e s
  | .vmin d a b k e => Sys2Proof.Machine.execVmin d a b k e s
  | .vmax d a b k e => Sys2Proof.Machine.execVmax d a b k e s
  | .vabs d a k e => Sys2Proof.Machine.execVabs d a k e s
  | .vneg d a k e => Sys2Proof.Machine.execVneg d a k e s
  | .vsqrt d a k e => Sys2Proof.Machine.execVsqrt d a k e s
  | .vrsq d a k => Sys2Proof.Machine.execVrsq d a k s
  | .vexp2 d a k => Sys2Proof.Machine.execVexp2 d a k s
  | .vlog2 d a k => Sys2Proof.Machine.execVlog2 d a k s
  | .vcmul d a b k => Sys2Proof.Machine.execVcmul d a b k s
  | .vand d a b k e => Sys2Proof.Machine.execVand d a b k e s
  | .vor d a b k e => Sys2Proof.Machine.execVor d a b k e s
  | .vxor d a b k e => Sys2Proof.Machine.execVxor d a b k e s
  | .vshl d a b k e => Sys2Proof.Machine.execVshl d a b k e s
  | .vshr d a b k e => Sys2Proof.Machine.execVshr d a b k e s
  | .vsra d a b k e => Sys2Proof.Machine.execVsra d a b k e s
  | .vfma d a b k e => Sys2Proof.Machine.execVfma d a b k e s
  | .vfms d a b k e => Sys2Proof.Machine.execVfms d a b k e s
  | .vcmp c d a b k e => Sys2Proof.Machine.execVcmp c d a b k e s
  | .vsel d a b k e => Sys2Proof.Machine.execVsel d a b k e s
  | .mset d a => Sys2Proof.Machine.execMset d a s
  | .msetR d a => Sys2Proof.Machine.execMsetR d a s
  | .mand d a b => Sys2Proof.Machine.execMand d a b s
  | .mor d a b => Sys2Proof.Machine.execMor d a b s
  | .mnot d a => Sys2Proof.Machine.execMnot d a s
  | .vcvt d a h f k e => Sys2Proof.Machine.execVcvt d a h f k e s
  | .vqnt d a n f e => Sys2Proof.Machine.execVqnt d a n f e s
  | .vdqn d a f e => Sys2Proof.Machine.execVdqn d a f e s
  | .vred d a o k e => Sys2Proof.Machine.execVred d a o k e s
  | .vscan d a o k e => Sys2Proof.Machine.execVscan d a o k e s
  | .vperm d a b k e => Sys2Proof.Machine.execVperm d a b k e s
  | .vbcast d a k e => Sys2Proof.Machine.execVbcast d a k e s
  | .vmovg d a b e => Sys2Proof.Machine.execVmovg d a b e s
  | .vmovv d a b e => Sys2Proof.Machine.execVmovv d a b e s
  | .vld d a o k e => Sys2Proof.Machine.execVld d a o k e s
  | .vst d a o k e => Sys2Proof.Machine.execVst d a o k e s
  | .vlds d a b k e => Sys2Proof.Machine.execVlds d a b k e s
  | .vsts d a b k e => Sys2Proof.Machine.execVsts d a b k e s
  | .vgath d a b k e => Sys2Proof.Machine.execVgath d a b k e s
  | .vscat d a b k e => Sys2Proof.Machine.execVscat d a b k e s
  | .vrep w r d a b => Sys2Proof.Machine.execVrep w r d a b s
  | .tdef d a b => Sys2Proof.Machine.execTdef d a b s
  | .tstat d a => Sys2Proof.Machine.execTstat d a s
  | .tload d a b => Sys2Proof.Machine.execTload d a b s
  | .tstore d a b => Sys2Proof.Machine.execTstore d a b s
  | .tcvt d a z y => Sys2Proof.Machine.execTcvt d a z y s
  | .tcmd a b => Sys2Proof.Machine.execTcmd a b s
  | .mma k a b z y => Sys2Proof.Machine.execMma k a b z y s
  | .mmag k a b z y x0 => Sys2Proof.Machine.execMmag k a b z y x0 s
  | .cmma k a b z y => Sys2Proof.Machine.execCmma k a b z y s
  | .gmma k a b z y => Sys2Proof.Machine.execGmma k a b z y s
  | .azero k => Sys2Proof.Machine.execAzero k s
  | .adrain d k z x => Sys2Proof.Machine.execAdrain d k z x s
  | .adrainR d k b z x w => Sys2Proof.Machine.execAdrainR d k b z x w s
  | .tadd d a b z y => Sys2Proof.Machine.execTadd d a b z y s
  | .tmul d a b z y => Sys2Proof.Machine.execTmul d a b z y s
  | .tact d a x0 z y f => Sys2Proof.Machine.execTact d a x0 z y f s
  | .tsum d a z y => Sys2Proof.Machine.execTsum d a z y s
  | .ttrn d a => Sys2Proof.Machine.execTtrn d a s
  | .tapon d a => Sys2Proof.Machine.execTapon d a s
  | .taponR d a => Sys2Proof.Machine.execTaponR d a s
  | .tapoff => Sys2Proof.Machine.execTapoff s
  | .tapoffX => Sys2Proof.Machine.execTapoffX s
  | .tmark d => Sys2Proof.Machine.execTmark d s
  | .reverse d a => Sys2Proof.Machine.execReverse d a s
  | .tspill d a => Sys2Proof.Machine.execTspill d a s
  | .tapst d a => Sys2Proof.Machine.execTapst d a s
  | .spld a b => Sys2Proof.Machine.execSpld a b s
  | .spldZ a => Sys2Proof.Machine.execSpldZ a s
  | .spst a b => Sys2Proof.Machine.execSpst a b s
  | .spw a b => Sys2Proof.Machine.execSpw a b s
  | .spu d a z y => Sys2Proof.Machine.execSpu d a z y s
  | .spd d a z y => Sys2Proof.Machine.execSpd d a z y s
  | .spmode d a b => Sys2Proof.Machine.execSpmode d a b s
  | .spcvt a b z y => Sys2Proof.Machine.execSpcvt a b z y s
  | .spstat d c => Sys2Proof.Machine.execSpstat d c s
  | .rgo d a o => Sys2Proof.Machine.execRgo d a o s
  | .rdone => Sys2Proof.Machine.execRdone s
  | .rabort => Sys2Proof.Machine.execRabort s
  | .permx d a b => Sys2Proof.Machine.execPermx d a b s
  | .peer d a b => Sys2Proof.Machine.execPeer d a b s
  | .lkey d a b => Sys2Proof.Machine.execLkey d a b s
  | .lstat d a => Sys2Proof.Machine.execLstat d a s
  | .bopen d a b => Sys2Proof.Machine.execBopen d a b s
  | .bclose d => Sys2Proof.Machine.execBclose d s
  | .bld d a b => Sys2Proof.Machine.execBld d a b s
  | .bldR d a b => Sys2Proof.Machine.execBldR d a b s
  | .bview d a => Sys2Proof.Machine.execBview d a s
  | .bstat d => Sys2Proof.Machine.execBstat d s
  | .once => Sys2Proof.Machine.execOnce s
  | .pfx p => Sys2Proof.Machine.execPfx p s
  | .rotationBoundary core => Sys2Proof.Machine.execRotationBoundary core s
  | .quantumExpiry core slot => Sys2Proof.Machine.execQuantumExpiry core slot s
  | .budgetExhausted core => Sys2Proof.Machine.execBudgetExhausted core s
  | .urgentWindowEnd core => Sys2Proof.Machine.execUrgentWindowEnd core s
  | .fill dest val => Sys2Proof.Machine.execFill dest val s
  | .xwrDelivery x => Sys2Proof.Machine.execXwrDelivery x s
  | .xwrWrite x => Sys2Proof.Machine.execXwrWrite x s
  | .storeTranslate core id => Sys2Proof.Machine.execStoreTranslate core id s
  | .translatorLookupDone x => Sys2Proof.Machine.execTranslatorLookupDone x s
  | .pageWalkRead x lvl entry => Sys2Proof.Machine.execPageWalkRead x lvl entry s
  | .pageWalkEnd x r => Sys2Proof.Machine.execPageWalkEnd x r s
  | .storeAck core id => Sys2Proof.Machine.execStoreAck core id s
  | .storeNak core id cause => Sys2Proof.Machine.execStoreNak core id cause s
  | .sfqCopy name => Sys2Proof.Machine.execSfqCopy name s
  | .remoteAccessArrival x => Sys2Proof.Machine.execRemoteAccessArrival x s
  | .amoAtHome x => Sys2Proof.Machine.execAmoAtHome x s
  | .slotRegisterWrite core slot reg val => Sys2Proof.Machine.execSlotRegisterWrite core slot reg val s
  | .tinvWrite core name val => Sys2Proof.Machine.execTinvWrite core name val s
  | .csrWindowWrite core csr val => Sys2Proof.Machine.execCsrWindowWrite core csr val s
  | .invalidationArrival core v => Sys2Proof.Machine.execInvalidationArrival core v s
  | .invalidationComplete core v => Sys2Proof.Machine.execInvalidationComplete core v s
  | .frdAnswer f => Sys2Proof.Machine.execFrdAnswer f s
  | .launchRecord pkg src words => Sys2Proof.Machine.execLaunchRecord pkg src words s
  | .launchTakeEffect launch => Sys2Proof.Machine.execLaunchTakeEffect launch s
  | .launchHeader launch core => Sys2Proof.Machine.execLaunchHeader launch core s
  | .start m => Sys2Proof.Machine.execStart m s
  | .nameLookup q atHolder => Sys2Proof.Machine.execNameLookup q atHolder s
  | .nameLookupAnswer q result => Sys2Proof.Machine.execNameLookupAnswer q result s
  | .killArrival gid core => Sys2Proof.Machine.execKillArrival gid core s
  | .groupRelease gid => Sys2Proof.Machine.execGroupRelease gid s
  | .migrationArrival m => Sys2Proof.Machine.execMigrationArrival m s
  | .migrationAnswer m code => Sys2Proof.Machine.execMigrationAnswer m code s
  | .locationUpdate key loc => Sys2Proof.Machine.execLocationUpdate key loc s
  | .forwardExpiry key => Sys2Proof.Machine.execForwardExpiry key s
  | .quiesceStill dest => Sys2Proof.Machine.execQuiesceStill dest s
  | .barrierArrival gid name => Sys2Proof.Machine.execBarrierArrival gid name s
  | .exitDrainComplete name => Sys2Proof.Machine.execExitDrainComplete name s
  | .notificationDelivery name => Sys2Proof.Machine.execNotificationDelivery name s
  | .sleepExpiry name => Sys2Proof.Machine.execSleepExpiry name s
  | .detectionWave launch node => Sys2Proof.Machine.execDetectionWave launch node s
  | .detectionAnswer launch node => Sys2Proof.Machine.execDetectionAnswer launch node s
  | .offerArrival dst m => Sys2Proof.Machine.execOfferArrival dst m s
  | .offerResend dst m => Sys2Proof.Machine.execOfferResend dst m s
  | .receiveAnnounce dst => Sys2Proof.Machine.execReceiveAnnounce dst s
  | .transferDataWritten x => Sys2Proof.Machine.execTransferDataWritten x s
  | .sendAck m peer => Sys2Proof.Machine.execSendAck m peer s
  | .messageEnqueue dst m => Sys2Proof.Machine.execMessageEnqueue dst m s
  | .creditReturn dst => Sys2Proof.Machine.execCreditReturn dst s
  | .wakeup dst => Sys2Proof.Machine.execWakeup dst s
  | .peerDeleted dst => Sys2Proof.Machine.execPeerDeleted dst s
  | .chbindMove v => Sys2Proof.Machine.execChbindMove v s
  | .endpointInstall v => Sys2Proof.Machine.execEndpointInstall v s
  | .chbindAck v code => Sys2Proof.Machine.execChbindAck v code s
  | .trecvExpiry name => Sys2Proof.Machine.execTrecvExpiry name s
  | .transferComplete t => Sys2Proof.Machine.execTransferComplete t s
  | .streamElement name port => Sys2Proof.Machine.execStreamElement name port s
  | .joinRecorded dest core tag key join => Sys2Proof.Machine.execJoinRecorded dest core tag key join s
  | .mcastDelivery key m => Sys2Proof.Machine.execMcastDelivery key m s
  | .packetStomp die dst m => Sys2Proof.Machine.execPacketStomp die dst m s
  | .ackTimeout dst m => Sys2Proof.Machine.execAckTimeout dst m s
  | .serverAnswer r => Sys2Proof.Machine.execServerAnswer r s
  | .droverRequest drover r => Sys2Proof.Machine.execDroverRequest drover r s
  | .slicePass drover x => Sys2Proof.Machine.execSlicePass drover x s
  | .droverAccessEnd drover x => Sys2Proof.Machine.execDroverAccessEnd drover x s
  | .droverReplyRelease drover => Sys2Proof.Machine.execDroverReplyRelease drover s
  | .dispenserQuery disp q => Sys2Proof.Machine.execDispenserQuery disp q s
  | .dqryAnswer q item => Sys2Proof.Machine.execDqryAnswer q item s
  | .wfwServe name item ordinal arg => Sys2Proof.Machine.execWfwServe name item ordinal arg s
  | .deadlineArm fold => Sys2Proof.Machine.execDeadlineArm fold s
  | .deadlineFire fold d => Sys2Proof.Machine.execDeadlineFire fold d s
  | .probeStart name episode => Sys2Proof.Machine.execProbeStart name episode s
  | .probeArrival name path => Sys2Proof.Machine.execProbeArrival name path s
  | .confirmationArrival path index => Sys2Proof.Machine.execConfirmationArrival path index s
  | .reportArrival gid report => Sys2Proof.Machine.execReportArrival gid report s
  | .tetherMessageFrame pkg words => Sys2Proof.Machine.execTetherMessageFrame pkg words s
  | .tetherStoreFrame pkg words => Sys2Proof.Machine.execTetherStoreFrame pkg words s
  | .tetherLoadFrame pkg words => Sys2Proof.Machine.execTetherLoadFrame pkg words s
  | .tetherRefusedFrame pkg words => Sys2Proof.Machine.execTetherRefusedFrame pkg words s
  | .tetherRetry pkg => Sys2Proof.Machine.execTetherRetry pkg s
  | .tetherTraining pkg seed ciphertext => Sys2Proof.Machine.execTetherTraining pkg seed ciphertext s
  | .attest q nonce => Sys2Proof.Machine.execAttest q nonce s
  | .health q => Sys2Proof.Machine.execHealth q s
  | .healthReplClear q => Sys2Proof.Machine.execHealthReplClear q s
  | .events q => Sys2Proof.Machine.execEvents q s
  | .counters q => Sys2Proof.Machine.execCounters q s
  | .snapshot q => Sys2Proof.Machine.execSnapshot q s
  | .keyput q index count sealed => Sys2Proof.Machine.execKeyput q index count sealed s
  | .feature q mask => Sys2Proof.Machine.execFeature q mask s
  | .fenceFold q fold => Sys2Proof.Machine.execFenceFold q fold s
  | .image q cores img signature => Sys2Proof.Machine.execImage q cores img signature s
  | .power q state => Sys2Proof.Machine.execPower q state s
  | .killgroup q gid launchId => Sys2Proof.Machine.execKillgroup q gid launchId s
  | .imagekey q key signature => Sys2Proof.Machine.execImagekey q key signature s
  | .powerOn pkg firmware signature failedFolds => Sys2Proof.Machine.execPowerOn pkg firmware signature failedFolds s
  | .bootComplete pkg => Sys2Proof.Machine.execBootComplete pkg s
  | .packageReset pkg => Sys2Proof.Machine.execPackageReset pkg s
  | .i3cPowerState pkg state => Sys2Proof.Machine.execI3cPowerState pkg state s
  | .powerCap pkg => Sys2Proof.Machine.execPowerCap pkg s
  | .throttleEnter die junction => Sys2Proof.Machine.execThrottleEnter die junction s
  | .throttleExit die junction => Sys2Proof.Machine.execThrottleExit die junction s
  | .hardLimit die junction => Sys2Proof.Machine.execHardLimit die junction s
  | .patrolScrub addr corrected uncorrected => Sys2Proof.Machine.execPatrolScrub addr corrected uncorrected s
  | .snapshotLatch pkg => Sys2Proof.Machine.execSnapshotLatch pkg s
  | .lifeCounterSave pkg => Sys2Proof.Machine.execLifeCounterSave pkg s
  | .flitArrival link f => Sys2Proof.Machine.execFlitArrival link f s
  | .linkAckTimeout link => Sys2Proof.Machine.execLinkAckTimeout link s
  | .gatewayPacketArrival p => Sys2Proof.Machine.execGatewayPacketArrival p s
  | .linkLostTimeout x => Sys2Proof.Machine.execLinkLostTimeout x s
  | .regionArrival unit r => Sys2Proof.Machine.execRegionArrival unit r s
  | .regionAttempt unit r attempt => Sys2Proof.Machine.execRegionAttempt unit r attempt s
  | .regionReceipt name sent => Sys2Proof.Machine.execRegionReceipt name sent s
  | .regionReturn name sent r => Sys2Proof.Machine.execRegionReturn name sent r s
  | .regionReturnTimeout name sent => Sys2Proof.Machine.execRegionReturnTimeout name sent s
  | .permxPair id => Sys2Proof.Machine.execPermxPair id s
  | .permxElement id index val => Sys2Proof.Machine.execPermxElement id index val s
  | .bundlePrepare writer slot => Sys2Proof.Machine.execBundlePrepare writer slot s
  | .bundlePhase2 writer slot => Sys2Proof.Machine.execBundlePhase2 writer slot s
  | .bundleAck writer slot phase ok => Sys2Proof.Machine.execBundleAck writer slot phase ok s
  | .bldAtHome r => Sys2Proof.Machine.execBldAtHome r s
  | .tileTransferComplete core tile => Sys2Proof.Machine.execTileTransferComplete core tile s
  | .drainComplete core bank => Sys2Proof.Machine.execDrainComplete core bank s
  | .tileOpComplete core => Sys2Proof.Machine.execTileOpComplete core s
  | .kGroupDone core => Sys2Proof.Machine.execKGroupDone core s
  | .gangProductStart gid ordinal => Sys2Proof.Machine.execGangProductStart gid ordinal s
  | .tileCommandArrival c => Sys2Proof.Machine.execTileCommandArrival c s
  | .tileCommandAnswer c accepted => Sys2Proof.Machine.execTileCommandAnswer c accepted s
  | .reverseRecord name => Sys2Proof.Machine.execReverseRecord name s
  | .spillAck name ok => Sys2Proof.Machine.execSpillAck name ok s
  | .speTreeEntry fold name => Sys2Proof.Machine.execSpeTreeEntry fold name s
  | .speRetire fold name => Sys2Proof.Machine.execSpeRetire fold name s
  | .notAnInstruction w => Sys2Proof.Machine.execNotAnInstruction w s
  | .vectorLoadComplete name => Sys2Proof.Machine.execVectorLoadComplete name s
  | .startAnswer m result => Sys2Proof.Machine.execStartAnswer m result s
  | .peerAnswer dest val => Sys2Proof.Machine.execPeerAnswer dest val s
  | .keyInstalled dest val => Sys2Proof.Machine.execKeyInstalled dest val s
  | .linkTraining link peer hop => Sys2Proof.Machine.execLinkTraining link peer hop s
  | .linkDown24Hours link => Sys2Proof.Machine.execLinkDown24Hours link s
  | .powerFailure pkg => Sys2Proof.Machine.execPowerFailure pkg s
  | .measurementRequest pkg register item => Sys2Proof.Machine.execMeasurementRequest pkg register item s

end Sys2Proof.Machine
end

