-- ==== Sys2Proof/Machine/Install.lean ====
section
/-! DEFINITION. A process placed by hand so that a given word is executed next (log 3). -/

namespace Sys2Proof.Machine

/-- The first event in flight that is due and waits for no stalled link (12 R367), and the state without it. -/
def State.dueEvent (s : State) : Option (Ev × State) :=
  let now (x : Nat × Ev) : Bool := decide (x.1 ≤ s.cycle) && !s.heldBack x.2
  match s.agenda.find? now with
  | some x => some (x.2, { s with agenda := s.agenda.eraseP now, cur := none })
  | none => none

/-- The process that `install` makes: the root of a launch at S with 32 vector registers, resident in slot 0 of core 0
(06 R154, R171; log 3). -/
def probeProc : Proc :=
  { name := 0x100, core := 0, idx := 0, st := .resident, prio := 1, level := 1, slot := 0, gid := 0x40,
    vcount := 32, vbase := 0, vheld := true }

/-- The launch of that process. -/
def probeLaunch : Launch :=
  { src := .host, pkg := 0, launchId := 1, words := [], nodes := [0], gbase := 0x40, gcount := 0x400, started := true }

/-- A state in which that process is resident in slot 0 of core 0, the word stands in the ISTORE at its program counter, and the next step
issues it: no event is due and core 0 selects next. -/
def State.install (s : State) (w : Nat) : State :=
  { s.writeNum (windowBase 0 + 0x120000) 4 w with
    packages := insertAddr 0 s.packages
    agenda := s.agenda.filter (fun e => decide (s.cycle < e.1))
    turns := [0]
    cur := none
    group := none
    procs := tput s.procs 0 probeProc
    dir := tput s.dir 0x100 0
    slots := tput ((List.range 8).foldl (fun t i => tput t i {}) s.slots) 0 { occ := some 0 }
    ltab := tput s.ltab 0 { launch := 0, live := 1, sent := 1, taken := 1 }
    launches := tput s.launches 0 probeLaunch
    groups := tput s.groups 0x40 { home := 0, launch := 0, live := [0x100] }
    cores := tput s.cores 0 { s.core 0 with sb := [], divBusy := 0, fdivBusy := 0, vdivBusy := 0 } }

end Sys2Proof.Machine
end

