-- ==== Sys2Proof/Machine/Timing.lean ====
section
/-! DEFINITION. Issue timing: reissue intervals and the units an instruction needs (05 R100, R102). -/

namespace Sys2Proof.Machine

/-- The number of registers of an LDM or STM, from its word's fields. -/
def manyCount (f l : Reg) : Nat := l.toNat + 1 - f.toNat

/-- The reissue interval of an instruction (05 Table 5.1; 09 Table 9.6 and the engine chapters for the others). -/
def reissue (i : Instr) : Nat :=
  match i with
  | .div _ _ _ | .divu _ _ _ | .rem _ _ _ | .remu _ _ _ => 24
  | .fdiv _ _ _ z | .fsqrt _ _ z => if z = 0 then 16 else 32
  | .fadd _ _ _ z | .fsub _ _ _ z | .fmul _ _ _ z | .fmin _ _ _ z | .fmax _ _ _ z | .feq _ _ _ z | .flt _ _ _ z
  | .fle _ _ _ z => if z = 0 then 4 else 8
  | .fneg _ _ z | .fabs _ _ z | .fclass _ _ z | .fcvt _ _ z | .ftoi _ _ z | .itof _ _ z => if z = 0 then 4 else 8
  | .fma _ _ _ _ z | .fms _ _ _ _ z | .fnma _ _ _ _ z | .fnms _ _ _ _ z => if z = 0 then 4 else 8
  | .vdiv _ _ _ _ e | .vsqrt _ _ _ e => if laneWidth e = 64 then 32 else 16
  | .vrsq _ _ _ | .vexp2 _ _ _ | .vlog2 _ _ _ | .vgath _ _ _ _ _ | .vscat _ _ _ _ _ => 8
  | .ldm f _ l _ | .stm f _ l _ => if 4 ≤ 2 * manyCount f l then 2 * manyCount f l else 4
  | _ => 4

/-- Whether an instruction uses the integer divider of its core (05 R102). -/
def usesDivider : Instr → Bool
  | .div _ _ _ | .divu _ _ _ | .rem _ _ _ | .remu _ _ _ => true
  | _ => false

/-- Whether an instruction uses the floating-point divide and square-root unit of its core (05 R102). -/
def usesFloatDivider : Instr → Bool
  | .fdiv _ _ _ _ | .fsqrt _ _ _ => true
  | _ => false

/-- Store-buffer entries a scalar store needs before its slot is eligible (05 R102). -/
def needsStores : Instr → Nat
  | .st _ _ _ _ => 1
  | .stm f _ l _ => manyCount f l
  | _ => 0

/-- Whether an instruction uses the divide and square-root pipeline of its core's VTU (09 R270). -/
def usesVectorDivider : Instr → Bool
  | .vdiv _ _ _ _ _ | .vsqrt _ _ _ _ => true
  | _ => false

/-- The instructions before which every store of their process must have been posted: those that wait for stores (04 R86, R89, R96, R97), and
those that push to an engine, send, spawn, arrive at a barrier or end the process, all of them releases (04 R88, R93, R98). -/
def needsPosted : Instr → Bool
  | .fence .. | .drainS | .isync | .spawn .. | .gang .. | .exit .. | .gbar .. | .garr .. | .gexp .. | .svopen .. | .timer .. | .dqry ..
  | .wfw .. | .sendh .. | .send .. | .recv .. | .sendb .. | .recvb .. | .sendt .. | .recvt .. | .senda .. | .trecv .. | .copy .. | .strm ..
  | .mcast .. | .chbind .. | .amoAdd .. | .amoAnd .. | .amoOr .. | .amoXor .. | .amoMin .. | .amoMax .. | .amoMinu .. | .amoMaxu ..
  | .amoSwp .. | .amoCas .. | .amoFadd .. | .tload .. | .tstore .. | .tcvt .. | .tcmd .. | .mma .. | .mmag .. | .cmma .. | .gmma ..
  | .azero .. | .adrain .. | .adrainR .. | .tadd .. | .tmul .. | .tact .. | .tsum .. | .ttrn .. | .tapon .. | .taponR .. | .tapoff
  | .tapoffX | .tmark .. | .reverse .. | .tspill .. | .spld .. | .spldZ .. | .spst .. | .spw .. | .spu .. | .spd .. | .rgo .. | .permx ..
  | .bopen .. | .bclose .. | .bld .. | .bldR .. => true
  | _ => false

/-- Whether a process has stores of a write stream that a long-latency producer holds back (05 R110, 07 R215). -/
def Proc.holdsStores (p : Proc) : Bool :=
  p.ports.toList.any (fun x => !x.held.isEmpty && ((x.stream.map Stream.write).getD false))

/-- Whether what an instruction of a process needs is free (05 R100, R102; 09 R269, R270, R276, R284). DEDUCED (log 50): one that needs every
store posted is not eligible while a long-latency producer holds back stores of a write stream. -/
def State.unitFree (s : State) (p : Proc) (i : Instr) : Bool :=
  !(needsPosted i && p.holdsStores) &&
  (!usesDivider i || decide ((s.core p.core).divBusy ≤ s.cycle)) &&
  (!usesFloatDivider i || decide ((s.core p.core).fdivBusy ≤ s.cycle)) &&
  (!usesVectorDivider i || decide ((s.core p.core).vdivBusy ≤ s.cycle)) &&
  (let n := needsStores i + s.vectorEntries p i
   decide (n = 0) || decide (n ≤ s.sbRoom p.core p.name)) &&
  !s.tileHolds p i

/-- The units an issuing instruction keeps busy (05 R102, 09 R270). -/
def State.occupy (s : State) (core : Nat) (i : Instr) : State :=
  if usesDivider i then s.modCore core (fun c => { c with divBusy := s.cycle + reissue i })
  else if usesFloatDivider i then s.modCore core (fun c => { c with fdivBusy := s.cycle + reissue i })
  else if usesVectorDivider i then s.modCore core (fun c => { c with vdivBusy := s.cycle + reissue i })
  else s

end Sys2Proof.Machine
end

