-- ==== Sys2Proof/Machine/Select.lean ====
section
/-! DEFINITION. Selection, fetch and the passing of time: what a step does around the instruction it executes (05 R100,
03 R49, R53; log 4). -/

namespace Sys2Proof.Machine

/-- The word a process executes next: from the ISTORE of its core (03 R49), or the captured word of its VREP frame with its
vector fields moved on by the strides (09 R271). -/
def State.fetchNat (s : State) (p : Proc) : Nat :=
  if p.vact then replayWord p.vrepWord p.capturedWord p.vrepn else s.istoreWord p.core p.wordPc

/-- The bytes of the word a process executes next, in memory order. -/
def State.fetchBytes (s : State) (p : Proc) : List Byte := wordBytes (s.fetchNat p)

/-- The instruction a process executes next; a word that is none is the row NOT_AN_INSTRUCTION (03 R59). -/
noncomputable def State.fetch (s : State) (p : Proc) : Instr :=
  match decodeBytes (s.fetchBytes p) with
  | some (i, _) => i
  | none => .notAnInstruction (BitVec.ofNat 32 (s.fetchNat p))

/-- Whether the word a process fetches is poisoned (13 R401). -/
def State.fetchPoisoned (s : State) (p : Proc) : Bool :=
  !p.vact && s.poisoned (windowBase p.core + 0x120000 + p.wordPc.toNat) 4

/-- Whether a port of a process is bound to a channel. -/
def Proc.channelPort (p : Proc) : Bool := p.ports.toList.any (fun x => x.bound && x.stream.isNone)

/-- The state in which a process's instruction executes: it is the issuing process, its slot's interval starts, and the units the
instruction needs are busy (05 R100, R102). The issue of an urgent process uses its core's budget (06 R149). A process with a channel port may send
or receive by any instruction, so its earlier stores are performed (04 R93, 05 R110). -/
def State.issueFrom (s : State) (k : Nat) (i : Instr) : State :=
  match s.proc k with
  | none => { s with cur := some k }
  | some p =>
    let t := (s.modSlot p.slotKey (fun x => { x with next := s.cycle + reissue i })).occupy p.core i
    let t := if p.channelPort then t.releaseStores k else t
    let u := if p.urgent then
        let c := t.core p.core
        let v := t.putCore p.core { c with budget := c.budget - 1 }
        if c.budget = 1 then v.after 0 (.budgetExhausted p.core) else v
      else t
    { u with cur := some k, group := none }

/-- A process about to issue: it starts at the first word of its group (03 R53), and takes up an interrupted VREP frame whose VREP word still
stands (09 R272). -/
def State.openGroup (s : State) (k : Nat) : State :=
  s.modProc k (fun p =>
    let q := { p with pfx := [], onceOn := false, made := 0 }
    let w := s.istoreWord p.core p.framePc
    if p.vact && p.vcheck && isVrep w then q.resumeFrame w else q)

/-- What happens instead of the instruction of a process that is about to issue, if something does: a frame whose VREP word is gone (09 R272), a
poisoned word (13 R401), a stride that has left the vector registers (09 R271). -/
noncomputable def State.beforeIssue (s : State) (k : Nat) (p : Proc) : Option State :=
  let t := s.issueFrom k .nop
  if p.vact && p.vcheck then
    some ((t.modProc k (fun q => { q with vact := false, vcheck := false })).raise k causeIllegal
      (BitVec.ofNat 64 (s.istoreWord p.core p.framePc)))
  else if s.fetchPoisoned p then some (t.raise k causeLoadFault (BitVec.ofNat 64 p.wordPc.toNat))
  else if p.strideOver then
    match s.fetch p with
    | .notAnInstruction _ => none
    | _ => some (t.raiseWord k causeAllot)
  else none

/-- What a process that is about to issue does (03 R49, 05 R100): its instruction, executed in the state in which it issues, or what comes
before it. -/
noncomputable def State.issueWord (s : State) (k : Nat) (p : Proc) (run : Instr → State → Host.Outcome State Fault Refusal) :
    Host.Outcome State Fault Refusal :=
  match s.beforeIssue k p with
  | some t => .next t
  | none => run (s.fetch p) (s.issueFrom k (s.fetch p))

/-- Whether the unit that the next instruction of a process needs is free (05 R100, R102): of a group the last word counts (03 R53), and one that the
process passes over needs none. -/
noncomputable def State.groupFree (s : State) (p : Proc) : Bool :=
  let n := if p.vact then 0 else s.leads p.core p.pc 3
  let q := { p with pc := p.pc + BitVec.ofNat 16 (4 * n) }
  (!p.vact && s.passesOver p) || s.unitFree q (s.fetch q)

/-- Whether the process in a slot may issue (05 R100): resident, its interval over, the unit its next instruction needs free. -/
noncomputable def State.eligible (s : State) (core i : Nat) : Option Nat :=
  let sl := s.slot (core * 8 + i)
  match sl.occ with
  | none => none
  | some r =>
    match s.proc (core * 256 + r) with
    | none => none
    | some p =>
      if p.st == .resident && p.wait == .none && decide (sl.next ≤ s.cycle) &&
          s.groupFree { p with pfx := [], onceOn := false }
      then some (core * 256 + r) else none

/-- The first eligible slot from the selection pointer on (05 R100): slot and process. -/
noncomputable def State.pick (s : State) (core : Nat) : Option (Nat × Nat) :=
  (List.range 8).findSome? (fun j =>
    let i := (s.cycle + j) % 8
    (s.eligible core i).map (fun k => (i, k)))

/-- Whether the cores of a package leave this cycle's issue idle (13 R399, Table 13.3): in IDLE and OFF, every fourth cycle of a package that is
throttled, and in CAP the cycles that the power limit takes (log 6). -/
def State.idles (s : State) (pkg : Nat) : Bool :=
  let b := s.pkg pkg
  decide (2 ≤ b.power) || (!b.hot.isEmpty && decide (s.cycle % 4 = 3)) || (decide (b.power = 1) && Config.capIdle pkg s.cycle)

/-- The cores that hold a resident process, in the order of their identifiers: they act in each cycle (log 4). -/
def State.issuers (s : State) : List Nat :=
  (((s.slots.filter (fun e => e.2.occ.isSome)).map (fun e => e.1 / 8)).dedup).filter (fun c => !s.idles (pkgOf c))

/-- The cores whose shepherd has work at a rotation boundary: those with a process. -/
def State.busyCores (s : State) : List Nat := (s.procs.map (fun e => e.1 / 256)).dedup

/-- The next cycle (00 R2, 05 R100): packets to other packages take flits on the links of their routes (12 R365), the sum-product engines make their accesses of it (11 R355); at every eighth the shepherds come to their rotation boundary, and then each core selects. -/
def State.tick (s : State) : State :=
  let t := { s.sendPackets with cycle := s.cycle + 1, cur := none }.speCycles
  let u := { t with turns := t.issuers }
  if u.cycle % 8 = 0 then
    u.busyCores.foldl (fun v c => v.after 0 (.rotationBoundary c)) u
  else u

end Sys2Proof.Machine
end

