-- ==== Sys2Proof/Machine/Step.lean ====
section
/-! DEFINITION. One step of the machine (log 4): an instruction of an open prefix group or VREP frame; else the first event in
flight that is due; else the issue of the next core that has not acted in this cycle; else the next cycle. -/

namespace Sys2Proof.Machine

/-- Executes the word of a process. -/
noncomputable def runWord (k : Nat) (s : State) : Host.Outcome State Fault Refusal :=
  match s.proc k with
  | none => .next { s with group := none }
  | some p => s.issueWord k p exec

/-- One step. -/
noncomputable def step (s : State) : Host.Outcome State Fault Refusal :=
  match s.group with
  | some k => runWord k s
  | none =>
    match s.dueEvent with
    | some (e, t) => exec e.toInstr t
    | none =>
      match s.turns with
      | c :: cs =>
        match s.pick c with
        | some (_, k) => runWord k (({ s with turns := cs }).openGroup k)
        | none => .next { s with turns := cs }
      | [] => .next s.tick

/-- The state with an instruction stored where the next step fetches (log 3): a process made resident for it in slot 0 of
core 0, its word at the process's program counter, and nothing due before it. -/
def State.withFetchWord (s : State) (_nbits w : Nat) : State := s.install w

end Sys2Proof.Machine
end

