-- ==== Sys2Proof/Safety.lean ====
section
/-! DEFINITION. What the claims about the machine are stated in: the process whose word executes, what its sources and
destinations hold, how an instruction ends, and the invariant of a state's own data. -/

namespace Sys2Proof.Machine

/-! ### The invariant -/

/-- The memory of a state is in its canonical form (log 1). -/
def State.MemOk (s : State) : Prop := Memory.wf s.mem = true

/-! ### Issue -/

/-- Process k, of record p, is the one whose word executes. -/
def State.Issues (s : State) (k : Nat) (p : Proc) : Prop := s.cur = some k ∧ s.proc k = some p

/-- The sources of an instruction are there (03 R50, 05 R110), with these values: full registers, or ports with an element. -/
def State.Gives (s : State) (p : Proc) (fs : List Field) (vals : List Word) : Prop :=
  fs.map (fun f => s.source p f.reg) = vals.map PortHead.elem

/-- The destinations of an instruction can be written (05 R110): registers, or ports with room. -/
def State.Takes (s : State) (p : Proc) (dsts : List Reg) : Prop := ∀ d ∈ dsts, s.sink p d = .elem 0

/-- A process issues an instruction whose sources are there and whose destinations can be written. -/
def State.Runs (s : State) (k : Nat) (p : Proc) (fs : List Field) (vals : List Word) (dsts : List Reg) : Prop :=
  s.Issues k p ∧ s.Gives p fs vals ∧ s.Takes p dsts

/-- An event is in flight. -/
def State.Due (s : State) (e : Ev) : Prop := ∃ c, (c, e) ∈ s.agenda

/-- An event is in flight that falls due in a number of cycles. -/
def State.DueIn (s : State) (n : Nat) (e : Ev) : Prop := (s.cycle + n, e) ∈ s.agenda

/-- No atomic of a process is on its way to its location. -/
def State.NoAtomics (s : State) (name : Nat) : Prop := ∀ x, s.Due (.amoAtHome x) → x.name ≠ name

/-- Nothing of a process waits to be performed by a release (04 R83, Table 4.7): no store in the buffer, no atomic on its way. -/
def State.Settled (s : State) (p : Proc) : Prop := (∀ y ∈ (s.core p.core).sb, y.name ≠ p.name) ∧ s.NoAtomics p.name

/-- A register can have one more long-latency producer (06 R139). -/
def Proc.HasTag (p : Proc) (d : Reg) : Prop := d ≠ 0 → (p.cell d).out < 3

/-- An address of a process has its translation at its core: an alias, or a page of the micro cache, every entry of which that covers it grants what is
needed (04 R79 to R81). -/
def State.Translated (s : State) (p : Proc) (va : Nat) (needR needW : Bool) : Prop :=
  if va < 2 ^ 55 then
    (∃ e ∈ (s.core p.core).tlb, tlbCovers e (s.asidOf p) va) ∧
    ∀ e ∈ (s.core p.core).tlb, tlbCovers e (s.asidOf p) va → tlbGrants e p.level needR needW
  else (aliasPa p.core va).isSome

/-- No port of a process is bound (05 R109). -/
def Proc.Unbound (p : Proc) : Prop := ∀ q ∈ p.ports.toList, q.bound = false

/-- No instruction or held push of the owner of an end waits. -/
def State.OwnerIdle (s : State) (e : Ep) : Prop :=
  ∀ k p, s.named e.owner = some (k, p) → p.wait = .none ∧ ∀ q ∈ p.ports.toList, q.held = []

/-- No expectation of a barrier phase counts at an end (07 R213). -/
def State.Uncounted (s : State) (ke : Nat) : Prop := ∀ g ∈ s.groups, ∀ x ∈ g.2.expects, x.2.1 ≠ ke

/-- A process waits in a channel instruction on a handle, with its registers and program counter as they were (07 R198, R205). -/
def State.WaitsOn (t : State) (k : Nat) (p : Proc) (h : Nat) : Prop :=
  ∃ q, t.proc k = some q ∧ q.wait = .chan h ∧ q.pc = p.pc ∧ q.regs = p.regs ∧ q.st = (if p.heavy then .blocked else .parked)

/-- The same of an instruction whose destination is a fill: that register is empty until its value comes (07 R188, 05 R104). -/
def State.AwaitsOn (t : State) (k : Nat) (p : Proc) (h : Nat) (d : Reg) : Prop :=
  ∃ q, t.proc k = some q ∧ q.wait = .chan h ∧ q.pc = p.pc ∧ q.regs = (p.produce d).regs ∧ q.st = (if p.heavy then .blocked else .parked)

/-! ### Frames -/

/-- From s to t an instruction of process k has changed, of its process, no value of a register but those of `ds`, the full bit of none but those
and the registers its sources consume, no port, mask, accumulator, mode or special register but EPC, ECAUSE, EVAL and UTV.ACT of a trap and,
where `flags`, the floating-point flags; nothing of another process; no byte, tag or poison mark of memory; and of the rest of the machine
only what is scheduled, the notifications under way and the time from which a slot issues. -/
def State.KeepsAllBut (s t : State) (k : Nat) (p : Proc) (ds : List Reg) (fs : List Field) (flags : Bool) : Prop :=
  ∃ q, t.proc k = some q ∧ (∀ r, r ∉ ds → q.reg r = p.reg r) ∧
    (∀ r, r ∉ ds → (∀ f ∈ fs, f.reg = r → f.k = false) → q.full r = p.full r) ∧ (flags = false → q.fflags = p.fflags) ∧
    { q with regs := p.regs, pc := p.pc, pfx := p.pfx, hold := p.hold, st := p.st, wait := p.wait, fflags := p.fflags,
             ecause := p.ecause, epc := p.epc, eval := p.eval, utv := p.utv, deadline := p.deadline, vcheck := p.vcheck,
             blockedAt := p.blockedAt, episode := p.episode, probeFrom := p.probeFrom, made := p.made, doneAt := p.doneAt,
             wrote := p.wrote, emptied := p.emptied } = p ∧
    (∀ j, j ≠ k → t.proc j = s.proc j) ∧
    { t with procs := s.procs, agenda := s.agenda, slots := s.slots, heldNotes := s.heldNotes } = s

end Sys2Proof.Machine
end

