-- ==== Sys2Proof/Results.lean ====
section
/-! DEFINITION. The results that the tables of the spec give, written from its words over whole numbers: what the claims compare the
meanings with. -/

namespace Sys2Proof.Machine

/-! ### Integers (05 R112 to R114) -/

/-- The bits of a word that satisfy a test, by number. -/
def bitNumbers (f : Nat → Bool) : List Nat := (List.range 64).filter f

/-- Table 5.4: the instructions of major 0x01 with two sources. -/
def intTwo : List ((Reg → Src → Src → Instr) × (Word → Word → Word)) :=
  [(.add, fun a b => BitVec.ofNat 64 (a.toNat + b.toNat)),
   (.sub, fun a b => BitVec.ofInt 64 (a.toInt - b.toInt)),
   (.and, fun a b => BitVec.ofNat 64 (a.toNat &&& b.toNat)),
   (.or, fun a b => BitVec.ofNat 64 (a.toNat ||| b.toNat)),
   (.xor, fun a b => BitVec.ofNat 64 (a.toNat ^^^ b.toNat)),
   (.andn, fun a b => BitVec.ofNat 64 (a.toNat - (a.toNat &&& b.toNat))),
   (.shl, fun a b => BitVec.ofNat 64 (a.toNat * 2 ^ (b.toNat % 64))),
   (.shr, fun a b => BitVec.ofNat 64 (a.toNat / 2 ^ (b.toNat % 64))),
   (.sra, fun a b => BitVec.ofInt 64 (a.toInt / 2 ^ (b.toNat % 64))),
   (.rol, fun a b => BitVec.ofNat 64 (a.toNat * 2 ^ (b.toNat % 64) + a.toNat / 2 ^ (64 - b.toNat % 64))),
   (.mul, fun a b => BitVec.ofNat 64 (a.toNat * b.toNat)),
   (.mulh, fun a b => BitVec.ofInt 64 (a.toInt * b.toInt / 2 ^ 64)),
   (.mulhu, fun a b => BitVec.ofNat 64 (a.toNat * b.toNat / 2 ^ 64)),
   (.div, fun a b =>
     if b.toNat = 0 then 0xFFFFFFFFFFFFFFFF
     else if a.toInt = -2 ^ 63 ∧ b.toInt = -1 then BitVec.ofInt 64 (-2 ^ 63)
     else BitVec.ofInt 64 (a.toInt.tdiv b.toInt)),
   (.divu, fun a b => if b.toNat = 0 then 0xFFFFFFFFFFFFFFFF else BitVec.ofNat 64 (a.toNat / b.toNat)),
   (.rem, fun a b =>
     if b.toNat = 0 then a
     else if a.toInt = -2 ^ 63 ∧ b.toInt = -1 then 0
     else BitVec.ofInt 64 (a.toInt - a.toInt.tdiv b.toInt * b.toInt)),
   (.remu, fun a b => if b.toNat = 0 then a else BitVec.ofNat 64 (a.toNat - a.toNat / b.toNat * b.toNat)),
   (.min, fun a b => BitVec.ofInt 64 (Min.min a.toInt b.toInt)),
   (.max, fun a b => BitVec.ofInt 64 (Max.max a.toInt b.toInt)),
   (.minu, fun a b => BitVec.ofNat 64 (Min.min a.toNat b.toNat)),
   (.maxu, fun a b => BitVec.ofNat 64 (Max.max a.toNat b.toNat)),
   (.sext, fun a b =>
     let n := b.toNat % 64 + 1
     let low := a.toNat % 2 ^ n
     if 2 ^ (n - 1) ≤ low then BitVec.ofInt 64 (low - 2 ^ n) else BitVec.ofNat 64 low),
   (.zext, fun a b => BitVec.ofNat 64 (a.toNat % 2 ^ (b.toNat % 64 + 1))),
   (.seq, fun a b => if a.toNat = b.toNat then 1 else 0),
   (.sne, fun a b => if a.toNat = b.toNat then 0 else 1),
   (.slt, fun a b => if a.toInt < b.toInt then 1 else 0),
   (.sltu, fun a b => if a.toNat < b.toNat then 1 else 0),
   (.sle, fun a b => if a.toInt ≤ b.toInt then 1 else 0),
   (.sleu, fun a b => if a.toNat ≤ b.toNat then 1 else 0)]

/-- Table 5.4: the instructions of major 0x01 with one source. -/
def intOne : List ((Reg → Src → Instr) × (Word → Word)) :=
  [(.clz, fun a => BitVec.ofNat 64 (63 - ((bitNumbers (fun i => a.getLsbD i)).getLast?.getD 0) + (if a.toNat = 0 then 1 else 0))),
   (.ctz, fun a => BitVec.ofNat 64 ((bitNumbers (fun i => a.getLsbD i)).head?.getD 64)),
   (.popc, fun a => BitVec.ofNat 64 (bitNumbers (fun i => a.getLsbD i)).length),
   (.bswap, fun a => BitVec.ofNat 64 (leNat (leBytes 8 a.toNat).reverse))]

/-- 03 R54: the immediate that one imm16 and the payloads of up to two PFX words make, with its width. -/
def assembledImm (pfx : List (BitVec 16)) (i : BitVec 16) : Nat × Nat :=
  match pfx with
  | [] => (i.toNat, 16)
  | [x] => (x.toNat * 2 ^ 16 + i.toNat, 32)
  | x :: y :: _ => (x.toNat * 2 ^ 32 + y.toNat * 2 ^ 16 + i.toNat, 48)

/-- The assembled immediate as an unsigned and as a signed number. -/
def prefixedImm (pfx : List (BitVec 16)) (i : BitVec 16) : Nat × Int :=
  let x := assembledImm pfx i
  (x.1, if 2 ^ (x.2 - 1) ≤ x.1 then (x.1 : Int) - 2 ^ x.2 else x.1)

/-- Table 5.5: the instructions whose immediate PFX words extend; the immediate is given unsigned and signed. -/
def intPrefixed : List ((Reg → Src → BitVec 16 → Instr) × (Word → Nat × Int → Word)) :=
  [(.addi, fun a i => BitVec.ofInt 64 (a.toInt + i.2)),
   (.andi, fun a i => BitVec.ofNat 64 (a.toNat &&& i.1)),
   (.ori, fun a i => BitVec.ofNat 64 (a.toNat ||| i.1)),
   (.xori, fun a i => BitVec.ofNat 64 (a.toNat ^^^ i.1)),
   (.muli, fun a i => BitVec.ofInt 64 (a.toInt * i.2))]

/-- Table 5.5, major 0x06: shifts and rotates by an immediate. -/
def intShift : List ((Reg → Src → BitVec 6 → Instr) × (Word → Nat → Word)) :=
  [(.shli, fun a n => BitVec.ofNat 64 (a.toNat * 2 ^ n)),
   (.shri, fun a n => BitVec.ofNat 64 (a.toNat / 2 ^ n)),
   (.srai, fun a n => BitVec.ofInt 64 (a.toInt / 2 ^ n)),
   (.roli, fun a n => BitVec.ofNat 64 (a.toNat * 2 ^ n + a.toNat / 2 ^ (64 - n)))]

/-- Table 5.5, major 0x08: comparisons with a signed immediate; SLTUI compares with the sign-extended immediate as an unsigned number. -/
def intCompare : List ((Reg → Src → BitVec 14 → Instr) × (Word → Int → Bool)) :=
  [(.seqi, fun a i => decide (a.toInt = i)),
   (.slti, fun a i => decide (a.toInt < i)),
   (.sltui, fun a i => decide ((a.toNat : Int) < i % 2 ^ 64))]

/-! ### Scalar floating point (05 R115 to R117) -/

/-- The exact value of a finite number; 0 for any other. -/
def ratOf : FVal → ℚ
  | .fin n m e => (if n then -1 else 1) * (m : ℚ) * (2 : ℚ) ^ e
  | _ => 0

/-- Table 5.6: the instructions with two sources. The truth value of a comparison is 0 or 1. -/
def floatTwo : List ((Reg → Src → Src → BitVec 1 → Instr) × (Fmt → Rnd → Nat → Nat → Nat × FlagSet)) :=
  [(.fadd, fun f m x y => f.add m x y), (.fsub, fun f m x y => f.sub m x y), (.fmul, fun f m x y => f.mul m x y),
   (.fdiv, fun f m x y => f.div m x y), (.fmin, fun f _ x y => f.minmax false x y), (.fmax, fun f _ x y => f.minmax true x y),
   (.feq, fun f _ x y => ((f.feq x y).1.toNat, (f.feq x y).2)), (.flt, fun f _ x y => ((f.flt false x y).1.toNat, (f.flt false x y).2)),
   (.fle, fun f _ x y => ((f.flt true x y).1.toNat, (f.flt true x y).2))]

/-- Table 5.6: the instructions with one source; FCVT takes its operand in the other precision. -/
def floatOne : List ((Reg → Src → BitVec 1 → Instr) × (BitVec 1 → Rnd → Word → Word × FlagSet)) :=
  [(.fsqrt, fun z m x => (BitVec.ofNat 64 ((precision z).sqrt m (operand z x)).1, ((precision z).sqrt m (operand z x)).2)),
   (.fneg, fun z _ x =>
     (if z = 0 then BitVec.ofNat 64 (x.toNat % 2 ^ 32 ^^^ 2 ^ 31) else BitVec.ofNat 64 (x.toNat ^^^ 2 ^ 63), 0)),
   (.fabs, fun z _ x => (if z = 0 then BitVec.ofNat 64 (x.toNat % 2 ^ 31) else BitVec.ofNat 64 (x.toNat % 2 ^ 63), 0)),
   (.fclass, fun z _ x => (BitVec.ofNat 64 (2 ^ (precision z).fclass (operand z x)), 0)),
   (.fcvt, fun z m x =>
     if z = 0 then (BitVec.ofNat 64 (fp32.ofVal m false false false (fp64.decode x.toNat)).1,
       (fp32.ofVal m false false false (fp64.decode x.toNat)).2)
     else (BitVec.ofNat 64 (fp64.ofVal m false false false (fp32.decode (x.toNat % 2 ^ 32))).1,
       (fp64.ofVal m false false false (fp32.decode (x.toNat % 2 ^ 32))).2)),
   (.ftoi, fun z m x => (BitVec.ofInt 64 (((precision z).decode (operand z x)).toInteger 64 m).1,
     (((precision z).decode (operand z x)).toInteger 64 m).2)),
   (.itof, fun z m x => (BitVec.ofNat 64 ((precision z).ofInteger m x.toInt).1, ((precision z).ofInteger m x.toInt).2))]

/-- R117: the variants, with whether the product and the addend are negated. -/
def floatFused : List ((Reg → Src → Src → Src → BitVec 1 → Instr) × Bool × Bool) :=
  [(.fma, false, false), (.fms, false, true), (.fnma, true, false), (.fnms, true, true)]

/-! ### Branches and jumps (05 R126 to R128) -/

/-- The address a number of words from a branch word, within the ISTORE (03 R49). -/
def wordsFrom (pc : BitVec 16) (words : Int) : BitVec 16 := BitVec.ofInt 16 (pc.toNat + 4 * words)

/-- Table 5.7, major 0x18: when each branch is taken. -/
def branchOne : List ((Src → BitVec 17 → Instr) × (Int → Bool)) :=
  [(.beqz, fun a => decide (a = 0)), (.bnez, fun a => decide (a ≠ 0)), (.bltz, fun a => decide (a < 0)),
   (.bgez, fun a => decide (0 ≤ a)), (.bgtz, fun a => decide (0 < a)), (.blez, fun a => decide (a ≤ 0))]

/-- Table 5.7, major 0x19: when each branch is taken. -/
def branchTwo : List ((Src → Src → BitVec 11 → Instr) × (Word → Word → Bool)) :=
  [(.beq, fun a b => decide (a.toNat = b.toNat)), (.bne, fun a b => decide (a.toNat ≠ b.toNat)),
   (.blt, fun a b => decide (a.toInt < b.toInt)), (.bge, fun a b => decide (b.toInt ≤ a.toInt)),
   (.bltu, fun a b => decide (a.toNat < b.toNat)), (.bgeu, fun a b => decide (b.toNat ≤ a.toNat))]

/-! ### Control and status registers (05 R130, R131) -/

/-- The CSRs of Table 5.9 with the levels of reading and writing, none for a read-only one, and the value that a process reads. -/
def csrTable (s : State) (p : Proc) : List (Nat × Nat × Option Nat × Word) :=
  [(0x000, 0, none, BitVec.ofNat 64 p.name), (0x001, 0, none, BitVec.ofNat 64 p.gid), (0x002, 0, none, BitVec.ofNat 64 p.prio),
   (0x008, 0, some 0, BitVec.ofNat 64 p.epc.toNat), (0x009, 0, some 0, BitVec.ofNat 64 p.ecause.toNat), (0x00A, 0, some 0, p.eval),
   (0x00B, 0, some 0, p.utv), (0x010, 0, some 0, BitVec.ofNat 64 p.rmode), (0x011, 0, some 0, BitVec.ofNat 64 p.fflags.toNat),
   (0x012, 0, some 0, BitVec.ofNat 64 p.srseed.toNat), (0x020, 0, some 0, p.tfmt), (0x021, 0, some 0, p.tsca),
   (0x022, 0, some 0, p.tscb), (0x023, 0, some 0, p.tnanc), (0x028, 0, some 0, p.taped),
   (0x100, 0, none, BitVec.ofNat 64 (s.cycle * 5 / 8)), (0x7A0, 0, some 1, (s.core p.core).penw), (0x7A1, 0, some 1, (s.core p.core).urgb),
   (0x7C0, 1, some 1, (s.core p.core).wins[0]), (0x7C1, 1, some 1, (s.core p.core).wins[1]),
   (0x7C2, 1, some 1, (s.core p.core).wins[2]), (0x7C3, 1, some 1, (s.core p.core).wins[3]),
   (0x7C8, 1, some 1, 0), (0x7D0, 0, none, BitVec.ofNat 64 (p.core + p.slot * 2 ^ 32)),
   (0x7E0, 1, some 1, BitVec.ofNat 64 ((s.fold (foldOf p.core)).flagSticky.toNat * 2 ^ 8 + (s.fold (foldOf p.core)).flagNow.toNat)),
   (0x7E1, 0, some 1, BitVec.ofNat 64
     ((if (s.fold (foldOf p.core)).dlkOff then 2 ^ 32 else 0) + (s.fold (foldOf p.core)).dlkDelay))]

/-- The CSRs of a process: the values that no field excludes, and the process after a write, which a read-only register ignores (05 Tables
5.9 to 5.13, 02 Tables 2.4, 2.5 and 2.7, 09 Tables 9.10 to 9.12, 10 Table 10.2). -/
def csrWrites (p : Proc) (v : Word) : List (Nat × Prop × Proc) :=
  [(0x000, True, p), (0x001, True, p), (0x002, True, p), (0x008, True, { p with epc := BitVec.ofNat 16 (v.toNat / 4 * 4) }), (0x009, True, { p with ecause := BitVec.ofNat 8 v.toNat }),
   (0x00A, True, { p with eval := v }), (0x00B, True, { p with utv := BitVec.ofNat 64 (v.toNat % 2 ^ 17) }),
   (0x010, v.toNat % 8 ≤ 5, { p with rmode := v.toNat % 8 }), (0x011, True, { p with fflags := BitVec.ofNat 5 v.toNat }),
   (0x012, True, { p with srseed := BitVec.ofNat 32 v.toNat }),
   (0x020, v.toNat % 16 ≤ 11 ∧ v.toNat / 16 % 16 ≤ 11 ∧ v.toNat / 256 % 16 ∈ [0, 8, 9],
     { p with tfmt := BitVec.ofNat 64 (v.toNat % 2 ^ 14 + v.toNat / 2 ^ 16 % 2 * 2 ^ 16) }),
   (0x021, True, { p with tsca := BitVec.ofNat 64 (v.toNat % 2 ^ 25) }), (0x022, True, { p with tscb := BitVec.ofNat 64 (v.toNat % 2 ^ 25) }),
   (0x023, v.toNat % 32 = 0, { p with tnanc := BitVec.ofNat 64 (v.toNat % 2 ^ 24) }),
   (0x028, v.toNat / 2 ^ 34 % 4 ≠ 3 ∧ v.toNat / 2 ^ 36 % 4 ≠ 3 ∧ v.toNat / 2 ^ 38 % 4 ≠ 3,
     { p with taped := BitVec.ofNat 64 (p.taped.toNat % 2 ^ 33 + v.toNat / 2 ^ 34 % 2 ^ 6 * 2 ^ 34) })]

/-- The CSRs of a core, its fold and the system but TINV: the values that no field excludes, and the state after a write, which a read-only
register ignores (06 Tables 6.5 and 6.6, 04 Table 4.3, 05 Tables 5.14 to 5.16, 08 Table 8.10). A new delay of the deadlock probes holds for the waits that last (08 R246). -/
def csrWritesOfCore (s : State) (p : Proc) (v : Word) : List (Nat × Prop × State) :=
  [(0x100, True, s), (0x7D0, True, s),
   (0x7A0, ∀ i < 5, v.toNat / 2 ^ (8 * i) % 256 ≠ 0, s.modCore p.core (fun y => { y with penw := BitVec.ofNat 64 (v.toNat % 2 ^ 40) })),
   (0x7A1, v.toNat / 2 ^ 16 % 2 ^ 16 ≠ 0, s.modCore p.core (fun y => { y with urgb := BitVec.ofNat 64 (v.toNat % 2 ^ 32) })),
   (0x7E0, True, s.modFold (foldOf p.core) (fun f => { f with flagSticky := f.flagSticky &&& ~~~ BitVec.ofNat 5 (v.toNat / 2 ^ 8) })),
   (0x7E1, 1000 ≤ v.toNat % 2 ^ 32,
     (s.modFold (foldOf p.core) (fun f => { f with dlkOff := v.getLsbD 32, dlkDelay := v.toNat % 2 ^ 32 })).resetProbes (foldOf p.core))] ++
  (List.finRange 4).map (fun (i : Fin 4) =>
    (0x7C0 + i.val, True, s.modCore p.core (fun y => { y with wins := y.wins.set i (v &&& 0xFFFF8F003FFFFFFF) })))

/-! ### Memory (05 R118 to R125) -/

/-- The effective address of LD, ST, LDM and STM (05 R118): base plus offset times size, modulo 2^64. -/
def addressOf (base : Word) (offset : Int) (size : Nat) : Nat := ((base.toNat + offset * size) % 2 ^ 64).toNat

/-- The bytes that the size code of LD and ST names (03 Table 3.13). -/
def accessBytes (z : BitVec 3) : Nat := 2 ^ (z.toNat % 4)

/-- The value that bytes in memory order load (05 R118): size codes 0 to 3 extend the sign. -/
def loadedValue (z : BitVec 3) (bs : List Byte) : Word :=
  if z.toNat < 4 ∧ 2 ^ (8 * bs.length - 1) ≤ leNat bs then BitVec.ofInt 64 (leNat bs - 2 ^ (8 * bs.length)) else BitVec.ofNat 64 (leNat bs)

/-- A number below 2^n as a signed one. -/
def asSigned (n x : Nat) : Int := if 2 ^ (n - 1) ≤ x then x - 2 ^ n else x

/-- 05 R125: the atomics by function code, with what each leaves at its location: width in bits, old value, b, comparand. -/
def amoTable : List (Nat × (Reg → Src → Src → BitVec 1 → BitVec 1 → BitVec 1 → Instr) × (Nat → Nat → Nat → Nat → Nat)) :=
  [(0, .amoAdd, fun n old b _ => (old + b) % 2 ^ n), (1, .amoAnd, fun _ old b _ => old &&& b), (2, .amoOr, fun _ old b _ => old ||| b),
   (3, .amoXor, fun _ old b _ => old ^^^ b), (4, .amoMin, fun n old b _ => if asSigned n old ≤ asSigned n b then old else b),
   (5, .amoMax, fun n old b _ => if asSigned n b ≤ asSigned n old then old else b), (6, .amoMinu, fun _ old b _ => Min.min old b),
   (7, .amoMaxu, fun _ old b _ => Max.max old b), (8, .amoSwp, fun _ _ b _ => b),
   (9, .amoCas, fun _ old b c => if old = c then b else old),
   (10, .amoFadd, fun n old b _ => if n = 64 then (fp64.add .rne old b).1 else (fp32.add .rne old b).1)]

/-! ### Vectors (09 R256 to R267) -/

/-- Lane i of a vector register of a process, lanes of w bits (09 R257). -/
def State.laneAt (s : State) (p : Proc) (v w i : Nat) : Nat :=
  readLe s.mem (windowBase p.core + 0x110000 + (p.vbase + v) * 64 + i * (w / 8)) (w / 8)

/-- A process of a core with a vector unit whose allotment holds these registers (09 R256). -/
def Proc.HasVectors (p : Proc) (vs : List (BitVec 5)) : Prop :=
  hasVtu p.core = true ∧ p.vcount ≠ 0 ∧ ∀ v ∈ vs, v.toNat < p.vcount

/-- The lanes of a vector register hold these values, and no other byte of memory has changed. -/
def State.HoldsLanes (s u : State) (p : Proc) (d w : Nat) (f : Nat → Nat) : Prop :=
  (∀ i < 512 / w, u.laneAt p d w i = f i % 2 ^ w) ∧
  (∀ b, b < windowBase p.core + 0x110000 + (p.vbase + d) * 64 ∨ windowBase p.core + 0x110000 + (p.vbase + d) * 64 + 64 ≤ b →
    readByte u.mem b = readByte s.mem b)

/-- The lanes of a vector register hold these values, and nothing else has changed but poison marks of the bytes written. -/
def State.WritesLanes (s u : State) (p : Proc) (d w : Nat) (f : Nat → Nat) : Prop :=
  s.HoldsLanes u p d w f ∧ { u with mem := s.mem, poison := s.poison } = s

/-- An instruction that computes lanes retires: the lanes that are on hold their results, the others are as they were, and the flags of the lanes that are on are raised. -/
def State.ComputesLanes (s : State) (k : Nat) (p : Proc) (i : Instr) (d : BitVec 5) (w : Nat) (on : Nat → Bool) (g : Nat → Nat × FlagSet) : Prop :=
  ∃ u : State, exec i s = .next (u.retireFlags k 0 []
      (((List.range (512 / w)).map (fun j => if on j then (g j).2 else 0)).foldl (fun x y => x ||| y) 0)) ∧
    s.WritesLanes u p d.toNat w (fun j => if on j then (g j).1 else s.laneAt p d.toNat w j)

/-- A lane computed from integers or, by element code, from floating-point codes. -/
def laneOp (g : Nat → Nat → Nat → Int) (h : Fmt → Rnd → Nat → Nat → Nat × FlagSet) (m : Rnd) (e : BitVec 3) (x y : Nat) : Nat × FlagSet :=
  if e.toNat ≤ 3 then ((g (laneWidth e) x y % 2 ^ laneWidth e).toNat, 0) else h (laneFmt e) m x y

/-- Table 9.2: the instructions with two sources. -/
def vecTwo : List ((BitVec 5 → BitVec 5 → BitVec 5 → BitVec 3 → BitVec 3 → Instr) × (Rnd → BitVec 3 → Nat → Nat → Nat × FlagSet)) :=
  [(.vadd, laneOp (fun _ x y => x + y) (fun f m x y => f.add m x y)), (.vsub, laneOp (fun _ x y => x - y) (fun f m x y => f.sub m x y)),
   (.vmul, laneOp (fun _ x y => x * y) (fun f m x y => f.mul m x y)),
   (.vdiv, laneOp (fun w x y => if y = 0 then -1 else (asSigned w x).tdiv (asSigned w y)) (fun f m x y => f.div m x y)),
   (.vmin, laneOp (fun w x y => Min.min (asSigned w x) (asSigned w y)) (fun f _ x y => f.minmax false x y)),
   (.vmax, laneOp (fun w x y => Max.max (asSigned w x) (asSigned w y)) (fun f _ x y => f.minmax true x y)),
   (.vand, fun _ _ x y => (x &&& y, 0)), (.vor, fun _ _ x y => (x ||| y, 0)), (.vxor, fun _ _ x y => (x ^^^ y, 0)),
   (.vshl, fun _ e x y => (x * 2 ^ (y % laneWidth e) % 2 ^ laneWidth e, 0)), (.vshr, fun _ e x y => (x / 2 ^ (y % laneWidth e), 0)),
   (.vsra, fun _ e x y => ((asSigned (laneWidth e) x / 2 ^ (y % laneWidth e) % 2 ^ laneWidth e).toNat, 0))]

/-- Table 9.2: the instructions with one source and an element code. -/
def vecOne : List ((BitVec 5 → BitVec 5 → BitVec 3 → BitVec 3 → Instr) × (Rnd → BitVec 3 → Nat → Nat → Nat × FlagSet)) :=
  [(.vabs, laneOp (fun w x _ => (asSigned w x).natAbs) (fun f _ x _ => (x % f.signBit, 0))),
   (.vneg, laneOp (fun _ x _ => -(x : Int)) (fun f _ x _ => ((x + f.signBit) % (2 * f.signBit), 0))),
   (.vsqrt, laneOp (fun _ x _ => x) (fun f m x _ => f.sqrt m x))]

/-- Table 9.2: the functions of FP32 lanes. -/
def vecFp32 : List ((BitVec 5 → BitVec 5 → BitVec 3 → Instr) × (Rnd → Nat → Nat × FlagSet)) :=
  [(.vrsq, fun m x => fp32.rsqrt m (fp32.decode x)), (.vexp2, fun m x => fp32.exp2 m (fp32.decode x)), (.vlog2, fun m x => fp32.log2 m (fp32.decode x))]

/-- 09 R262: the fused instructions, with vd as the addend. -/
def vecFused : List ((BitVec 5 → BitVec 5 → BitVec 5 → BitVec 3 → BitVec 3 → Instr) × (Rnd → BitVec 3 → Nat → Nat → Nat → Nat × FlagSet)) :=
  [(.vfma, fun m e x y z => if e.toNat ≤ 3 then (((x * y + z : Int) % 2 ^ laneWidth e).toNat, 0) else (laneFmt e).fma m false false x y z),
   (.vfms, fun m e x y z => if e.toNat ≤ 3 then (((x * y - z : Int) % 2 ^ laneWidth e).toNat, 0) else (laneFmt e).fma m false true x y z)]

end Sys2Proof.Machine
end

