-- ==== Sys2Proof/Certificates/Slice0/Obligations.lean ====
section
/-! DEFINITION. The statements for the provers. Each formalises rules of spec/ over the model; a statement of several parts is the conjunction of the
definitions `Claims.<part>` before it. -/

section

open Sys2Proof Sys2Proof.Machine

/-- Words written out from the tables of 03 decode to the instructions they stand for: `addi g1, g2, -1`, `ldm g4, g7, [g2+16]` (05 R121), `add g7, g7, g5!`, `nop`, and the all-zero word, which is none (03 R59). -/
def Obligations.WordsDecode : Prop :=
  decode 0x0848FFFF = some (.addi 1 ⟨2, 0⟩ 0xFFFF) ∧
  decode 0x49087002 = some (.ldm 4 ⟨2, 0⟩ 7 2) ∧
  decode 0x05DC5400 = some (.add 7 ⟨7, 0⟩ ⟨5, 1⟩) ∧
  decode 0x00000000 = none

/-- Every well-formed instruction word decodes back to the instruction, whatever bytes follow it. -/
def Obligations.EncodedWordDecodes : Prop :=
  ∀ (i : Instr) (rest : List Byte), i.isWord = true → i.WellFormed →
    decodeBytes (wordBytes (encodeNat i) ++ rest) = some (i, rest)

/-- A word that decodes is the encoding of what it decodes to, and that is well formed: no bit of a word is dropped. -/
def Obligations.DecodedWordIsEncoding : Prop :=
  ∀ (w : IWord) (i : Instr), decode w = some i → i.WellFormed ∧ encode i = [w]

/-- 03 R49, R53, R59, 05 R100: a step executes, for the process whose group goes on or for the one that the next core selects, the instruction that the bytes at its program counter decode to, and for a word that is none the row NOT_AN_INSTRUCTION; else the first event in flight that is due. The instruction executes in the state `State.issueFrom` gives: that of before, with its process as the issuing one, its slot's interval started, its unit busy and, for an urgent process, a unit of the budget spent; the stores of a process with a channel port are performed first (04 R93). -/
def Obligations.StepRunsDecodedWord : Prop :=
  (∀ (s : State) (k : Nat) (p : Proc), s.group = some k → s.proc k = some p → s.beforeIssue k p = none →
    (∀ i rest, decodeBytes (s.fetchBytes p) = some (i, rest) → step s = exec i (s.issueFrom k i)) ∧
    (decodeBytes (s.fetchBytes p) = none → step s = exec (.notAnInstruction (BitVec.ofNat 32 (s.fetchNat p)))
      (s.issueFrom k (.notAnInstruction (BitVec.ofNat 32 (s.fetchNat p)))))) ∧
  (∀ (s : State) (c : Nat) (cs : List Nat) (slot k : Nat) (p : Proc), s.group = none → s.dueEvent = none → s.turns = c :: cs → s.pick c = some (slot, k) →
    let t := ({ s with turns := cs }).openGroup k
    t.proc k = some p → t.beforeIssue k p = none →
    (∀ i rest, decodeBytes (t.fetchBytes p) = some (i, rest) → step s = exec i (t.issueFrom k i)) ∧
    (decodeBytes (t.fetchBytes p) = none → step s = exec (.notAnInstruction (BitVec.ofNat 32 (t.fetchNat p)))
      (t.issueFrom k (.notAnInstruction (BitVec.ofNat 32 (t.fetchNat p)))))) ∧
  (∀ (s : State) (k : Nat) (p : Proc) (i : Instr), s.proc k = some p → p.vact = false →
    (∀ n, n < 4 → ((s.fetchBytes p).getD n 0).toNat = readLe s.mem (windowBase p.core + 0x120000 + (p.pc + BitVec.ofNat 16 (4 * p.prefixed)).toNat) 4 / 2 ^ (8 * n) % 256) ∧
    (s.beforeIssue k p = none ↔ s.poisoned (windowBase p.core + 0x120000 + (p.pc + BitVec.ofNat 16 (4 * p.prefixed)).toNat) 4 = false) ∧
    ((p.channelPort = true → s.Settled p) →
    (s.issueFrom k i).Issues k p ∧ { s.issueFrom k i with cur := s.cur, group := s.group, slots := s.slots, cores := s.cores, agenda := s.agenda } = s ∧
    ((s.issueFrom k i).slot p.slotKey).next = s.cycle + reissue i)) ∧
  (∀ (s : State) (n : Nat) (e : Ev) (rest : List (Nat × Ev)), s.group = none → s.agenda = (n, e) :: rest → n ≤ s.cycle → s.heldBack e = false →
    step s = exec e.toInstr { s with agenda := rest, cur := none })

/-- 05 R100: the selector takes the first eligible slot from the pointer on, which goes round with the cycles; a process is eligible that is resident, waits for nothing, whose slot's interval is over, and whose instruction finds its unit free. A cycle ends when every core has selected; in every eighth the shepherds of the cores with processes come to their rotation boundary. -/
def Obligations.SlotsTakeTurns : Prop :=
  (∀ (s : State) (c i k : Nat), s.pick c = some (i, k) →
    ∃ j < 8, i = (s.cycle + j) % 8 ∧ s.eligible c i = some k ∧ ∀ m < j, s.eligible c ((s.cycle + m) % 8) = none) ∧
  (∀ (s : State) (c : Nat), s.pick c = none → ∀ i < 8, s.eligible c i = none) ∧
  (∀ (s : State) (c i k : Nat) (p : Proc) (r : Nat), (s.slot (c * 8 + i)).occ = some r → s.proc (c * 256 + r) = some p →
    (s.eligible c i = some k ↔ k = c * 256 + r ∧ p.st = .resident ∧ p.wait = .none ∧ (s.slot (c * 8 + i)).next ≤ s.cycle ∧
      s.groupFree { p with pfx := [], onceOn := false } = true)) ∧
  (∀ i : Instr, 4 ≤ reissue i) ∧
  (∀ (s : State), s.group = none → s.dueEvent = none →
    (∀ c cs, s.turns = c :: cs → s.pick c = none → step s = .next { s with turns := cs }) ∧
    (s.turns = [] → (∀ f ∈ s.folds, f.2.spe.jobs = [] ∧ f.2.spe.waits = []) → s.flying = [] → (∀ e ∈ s.agenda, ∀ x, s.crossing e.2 = some x → x.1 = x.2.1) → ∃ t : State, step s = .next t ∧ t.cycle = s.cycle + 1 ∧ t.gtc = (s.cycle + 1) * 5 / 8 % 2 ^ 64 ∧
      { t with cycle := s.cycle, cur := s.cur, turns := s.turns, agenda := s.agenda } = s ∧
      ((s.cycle + 1) % 8 = 0 → ∀ e ∈ s.procs, t.DueIn 0 (.rotationBoundary (e.1 / 256))) ∧ ((s.cycle + 1) % 8 ≠ 0 → t.agenda = s.agenda)))

/-- 06 Tables 6.5 and 6.6, 08 Table 8.10, 12 R365 and R370, 13 R395: what reset leaves where the spec gives a value: no process, no launch, no boot; the shepherds' weights, quantum and budget; the deadlock reporter's delay; links down; the feature word whole. That no byte of memory is listed is the model's choice (log 1). -/
def Obligations.ResetState : Prop :=
  State.reset.procs = [] ∧ State.reset.launches = [] ∧ State.reset.groups = [] ∧ State.reset.eps = [] ∧ State.reset.gtc = 0 ∧ State.reset.mem = [] ∧
  (∀ c, (State.reset.core c).penw.toNat = 8 + 4 * 2 ^ 8 + 2 * 2 ^ 16 + 1 * 2 ^ 24 + 16 * 2 ^ 32 ∧ (State.reset.core c).urgb.toNat = 1024 + 64 * 2 ^ 16 ∧
    (∀ i : Fin 4, (State.reset.core c).wins[i] = 0) ∧ (State.reset.core c).reports = []) ∧
  (∀ f, (State.reset.fold f).dlkDelay = 1000000 ∧ (State.reset.fold f).dlkOff = false ∧ (State.reset.fold f).flagSticky = 0 ∧ (State.reset.fold f).flagNow = 0) ∧
  (∀ g n, (State.reset.link g n).up = false) ∧
  (∀ g, (State.reset.pkg g).booted = false ∧ (State.reset.pkg g).feature.toNat = 31 * 2 ^ 33)

/-- The memory of the reset state is in its canonical form. -/
def Obligations.ResetInvariant : Prop := State.reset.MemOk

/-- Every step keeps the memory in its canonical form (log 1): addresses rise and no listed byte is 0. -/
def Obligations.StepKeepsMemory : Prop := ∀ s t : State, s.MemOk → step s = .next t → t.MemOk

/-- The frame of the instructions whose results are in registers (05 R103, R112 to R117): of its process nothing changes but the destination, the full bits of consumed registers, the floating-point flags of a floating-point instruction, and the program counter; nothing of another process, no memory, no special register. -/
def Obligations.RegisterInstructionsFrame : Prop :=
  ∀ (s : State) (k : Nat) (p : Proc) (d : Reg), p.onceOn = false → p.vact = false → p.Unbound →
    let keeps (i : Instr) (fs : List Field) (flags : Bool) : Prop := ∃ t, exec i s = .next t ∧ s.KeepsAllBut t k p [d] fs flags
    (∀ (a b : Src) (x y : Word), s.Runs k p [srcField a 0, srcField b 1] [x, y] [d] →
      (∀ e ∈ intTwo, keeps (e.1 d a b) [srcField a 0, srcField b 1] false) ∧
      (∀ e ∈ floatTwo, ∀ z, keeps (e.1 d a b z) [srcField a 0, srcField b 1] true)) ∧
    (∀ (a : Src) (x : Word), s.Runs k p [srcField a 0] [x] [d] →
      (∀ e ∈ intOne, keeps (e.1 d a) [srcField a 0] false) ∧ (∀ e ∈ intPrefixed, ∀ i, keeps (e.1 d a i) [srcField a 0] false) ∧
      (∀ e ∈ intShift, ∀ i, keeps (e.1 d a i) [srcField a 0] false) ∧ (∀ e ∈ intCompare, ∀ i, keeps (e.1 d a i) [srcField a 0] false) ∧
      (∀ i, keeps (.lih d a i) [srcField a 0] false) ∧ (∀ e ∈ floatOne, ∀ z, keeps (e.1 d a z) [srcField a 0] true)) ∧
    (∀ (a b c : Src) (x y w : Word), s.Runs k p [srcField a 0, srcField b 1, srcField c 2] [x, y, w] [d] →
      ∀ e ∈ floatFused, ∀ z, keeps (e.1 d a b c z) [srcField a 0, srcField b 1, srcField c 2] true)

/-- 05 R112 and R113, Table 5.4: with sources that are there and a destination that can be written, every instruction of major 0x01 retires with its result, computed here from the table's words over whole numbers; it neither traps nor sets a flag. -/
def Claims.IntegerInstructionsRetire : Prop :=
  (∀ e ∈ intTwo, ∀ (s : State) (k : Nat) (p : Proc) (d : Reg) (a b : Src) (x y : Word),
    s.Runs k p [srcField a 0, srcField b 1] [x, y] [d] →
    exec (e.1 d a b) s = .next (s.retire k (consumeMask p [srcField a 0, srcField b 1]) [(d, e.2 x y)])) ∧
  (∀ e ∈ intOne, ∀ (s : State) (k : Nat) (p : Proc) (d : Reg) (a : Src) (x : Word),
    s.Runs k p [srcField a 0] [x] [d] →
    exec (e.1 d a) s = .next (s.retire k (consumeMask p [srcField a 0]) [(d, e.2 x)]))

/-- Table 5.5 of 05 and 03 R54: the immediate instructions retire with their results, the immediate assembled from the PFX words before. -/
def Claims.ImmediateInstructionsRetire : Prop :=
  ∀ (s : State) (k : Nat) (p : Proc) (d : Reg) (a : Src) (x : Word), s.Runs k p [srcField a 0] [x] [d] →
    (∀ e ∈ intPrefixed, ∀ i : BitVec 16,
      exec (e.1 d a i) s = .next (s.retire k (consumeMask p [srcField a 0]) [(d, e.2 x (prefixedImm p.pfx i))])) ∧
    (∀ e ∈ intShift, ∀ n : BitVec 6,
      exec (e.1 d a n) s = .next (s.retire k (consumeMask p [srcField a 0]) [(d, e.2 x n.toNat)])) ∧
    (∀ e ∈ intCompare, ∀ i : BitVec 14,
      exec (e.1 d a i) s = .next (s.retire k (consumeMask p [srcField a 0]) [(d, if e.2 x i.toInt then 1 else 0)])) ∧
    (∀ i : BitVec 16, exec (.lih d a i) s =
      .next (s.retire k (consumeMask p [srcField a 0]) [(d, BitVec.ofInt 64 (i.toInt * 2 ^ 16 + x.toNat % 2 ^ 16))]))

/-- Integer instructions retire with the results of Tables 5.4 and 5.5. -/
def Obligations.IntegerResults : Prop :=
  Claims.IntegerInstructionsRetire ∧ Claims.ImmediateInstructionsRetire

/-- 05 R115 to R117: every scalar floating-point instruction retires with its result and raises its flags. At .S an operand is the low 32 bits of its register. -/
def Obligations.FloatInstructionsRetire : Prop :=
  ∀ (s : State) (k : Nat) (p : Proc) (d : Reg) (z : BitVec 1),
    (∀ e ∈ floatTwo, ∀ (a b : Src) (x y : Word), s.Runs k p [srcField a 0, srcField b 1] [x, y] [d] →
      exec (e.1 d a b z) s = .next (s.retireFlags k (consumeMask p [srcField a 0, srcField b 1])
        [(d, BitVec.ofNat 64 (e.2 (precision z) (rndOf p.rmode) (operand z x) (operand z y)).1)]
        (e.2 (precision z) (rndOf p.rmode) (operand z x) (operand z y)).2)) ∧
    (∀ e ∈ floatOne, ∀ (a : Src) (x : Word), s.Runs k p [srcField a 0] [x] [d] →
      exec (e.1 d a z) s = .next (s.retireFlags k (consumeMask p [srcField a 0])
        [(d, (e.2 z (rndOf p.rmode) x).1)] (e.2 z (rndOf p.rmode) x).2)) ∧
    (∀ e ∈ floatFused, ∀ (a b c : Src) (x y w : Word), s.Runs k p [srcField a 0, srcField b 1, srcField c 2] [x, y, w] [d] →
      exec (e.1 d a b c z) s = .next (s.retireFlags k (consumeMask p [srcField a 0, srcField b 1, srcField c 2])
        [(d, BitVec.ofNat 64 ((precision z).fma (rndOf p.rmode) e.2.1 e.2.2 (operand z x) (operand z y) (operand z w)).1)]
        ((precision z).fma (rndOf p.rmode) e.2.1 e.2.2 (operand z x) (operand z y) (operand z w)).2))

/-- 02 R35: rounding to nearest gives a value no further from the exact one than any other finite value of the format is, for a result that does not overflow. -/
def Claims.RoundingIsNearest : Prop :=
  ∀ f ∈ [fp64, fp32, fp16, bf16], ∀ (neg : Bool) (m : Nat) (e : Int) (c : Nat), 0 < m →
    (f.roundMag .rne false false neg m e false).1 % f.signBit ≤ f.maxMag → c % f.signBit ≤ f.maxMag →
    |ratOf (f.decode (f.roundMag .rne false false neg m e false).1) - ratOf (.fin neg m e)| ≤ |ratOf (f.decode c) - ratOf (.fin neg m e)|

/-- 02 R35: a value of a format is rounded to itself in every mode, and raises no flag. -/
def Claims.ExactResultsStay : Prop :=
  ∀ f ∈ [fp64, fp32, fp16, bf16], ∀ mode ∈ [Rnd.rne, Rnd.rtz, Rnd.rdn, Rnd.rup, Rnd.rna], ∀ (c : Nat) (neg : Bool) (m : Nat) (e : Int),
    c < 2 ^ f.width → f.decode c = .fin neg m e → 0 < m → f.roundMag mode false false neg m e false = (c, 0)

/-- Rounding gives a nearest value, and an exact value is kept. -/
def Obligations.RoundingIsCorrect : Prop :=
  Claims.RoundingIsNearest ∧ Claims.ExactResultsStay

/-- 03 R51, 05 R103, R110, R116: what retirement leaves. The consume marks act first and the writes second, the last of two writes of one register stands, g0 never changes, the program counter goes to the next word or to the target of a jump, a floating-point instruction adds its flags, and nothing else of the process or of the machine changes, but the process's note of the cycle and the registers of the retirement (05 R101, R106), and that an XWR which waits for a register that became empty sets out. It covers every instruction that ends by `State.retire`, `State.retireFlags` or `State.retireTo`, for a process that no ONCE or VREP governs and that has no bound port. -/
def Claims.RetirementWrites : Prop :=
  ∀ (s : State) (k : Nat) (p : Proc) (c : BitVec 16) (ws : List (Reg × Word)), s.proc k = some p → p.onceOn = false → p.vact = false → p.Unbound →
    ∃ q, (s.retire k c ws).proc k = some q ∧ q.pc = p.wordPc + 4 ∧
      (∀ r, q.reg r = if r = 0 then 0 else (ws.reverse.lookup r).getD (p.reg r)) ∧
      (∀ r, q.full r = ((ws.lookup r).isSome || (p.full r && (decide (r = 0) || !(c.getLsbD r.toNat && !p.made.getLsbD r.toNat))))) ∧
      { q with regs := p.regs, pc := p.pc, pfx := p.pfx, hold := p.hold, made := p.made, doneAt := p.doneAt, wrote := p.wrote,
               emptied := p.emptied } = p ∧
      q.doneAt = (if p.hold.isSome then s.cycle else s.cycle + 1) ∧
      (∀ j, j ≠ k → (s.retire k c ws).proc j = s.proc j) ∧
      { s.retire k c ws with procs := s.procs, agenda := s.agenda } = s ∧
      (∀ fl, (s.retireFlags k c ws fl).proc k = some { q with fflags := p.fflags ||| fl } ∧
        { s.retireFlags k c ws fl with procs := s.procs, agenda := s.agenda } = s) ∧
      (∀ a, (s.retireTo k c ws a).proc k = some { q with pc := a })

/-- 03 R50, R60: an instruction with a source field of T = 1 that names an empty register raises EMPTY with the field and the register, for the lowest such field; with T = 0 everywhere it waits for the first empty source. -/
def Claims.EmptySources : Prop :=
  ∀ e ∈ intTwo, ∀ (s : State) (k : Nat) (p : Proc) (d : Reg) (a b : Src), s.Issues k p →
    (∀ q ∈ p.ports.toList, q.bound = false) →
    (a.mode.getLsbD 1 = true → p.full a.reg = false →
      exec (e.1 d a b) s = .next (s.raise k causeEmpty (BitVec.ofNat 64 a.reg.toNat))) ∧
    (p.full a.reg = true → b.mode.getLsbD 1 = true → p.full b.reg = false →
      exec (e.1 d a b) s = .next (s.raise k causeEmpty (BitVec.ofNat 64 (16 + b.reg.toNat)))) ∧
    (a.mode.getLsbD 1 = false → b.mode.getLsbD 1 = false → p.full a.reg = false →
      exec (e.1 d a b) s = .next (s.waitReg k a.reg))

/-- What retirement leaves, and what an empty source does. -/
def Obligations.RetirementAndSources : Prop :=
  Claims.RetirementWrites ∧ Claims.EmptySources

/-- 05 R126 to R128, 03 R49: branches, jumps and LOOP. A taken one goes the given number of words from the branch word, modulo the ISTORE; J, JAL, JR and JALR go to their targets, and LOOP counts its register down and goes on while it is not 0; a word of LOOP that names g0 is no instruction. -/
def Claims.BranchesAndJumpsRetire : Prop :=
  (∀ e ∈ branchOne, ∀ (s : State) (k : Nat) (p : Proc) (a : Src) (x : Word) (o : BitVec 17), s.Runs k p [srcField a 0] [x] [] →
    exec (e.1 a o) s = .next (if e.2 x.toInt then
        (s.retire k (consumeMask p [srcField a 0]) []).modProc k (fun q => { q with pc := wordsFrom p.pc o.toInt })
      else s.retire k (consumeMask p [srcField a 0]) [])) ∧
  (∀ e ∈ branchTwo, ∀ (s : State) (k : Nat) (p : Proc) (a b : Src) (x y : Word) (o : BitVec 11),
    s.Runs k p [srcField a 0, srcField b 1] [x, y] [] →
    exec (e.1 a b o) s = .next (if e.2 x y then
        (s.retire k (consumeMask p [srcField a 0, srcField b 1]) []).modProc k (fun q => { q with pc := wordsFrom p.pc o.toInt })
      else s.retire k (consumeMask p [srcField a 0, srcField b 1]) [])) ∧
  (∀ (s : State) (k : Nat) (p : Proc) (o : BitVec 25), s.Issues k p →
    exec (.j o) s = .next ((s.retire k 0 []).modProc k (fun q => { q with pc := wordsFrom p.pc o.toInt })) ∧
    exec (.jal o) s = .next ((s.retire k 0 [(15, BitVec.ofNat 64 ((p.pc.toNat + 4) % 2 ^ 16))]).modProc k
      (fun q => { q with pc := wordsFrom p.pc o.toInt }))) ∧
  (∀ (s : State) (k : Nat) (p : Proc) (d : Reg) (a : Src) (x : Word), x.toNat % 4 = 0 → x.toNat < 2 ^ 16 →
    (s.Runs k p [srcField a 0] [x] [] →
      exec (.jr a) s = .next ((s.retire k (consumeMask p [srcField a 0]) []).modProc k
        (fun q => { q with pc := BitVec.ofNat 16 x.toNat }))) ∧
    (s.Runs k p [srcField a 0] [x] [d] →
      exec (.jalr d a) s = .next ((s.retire k (consumeMask p [srcField a 0])
        [(d, BitVec.ofNat 64 ((p.pc.toNat + 4) % 2 ^ 16))]).modProc k (fun q => { q with pc := BitVec.ofNat 16 x.toNat })))) ∧
  (∀ (s : State) (k : Nat) (p : Proc) (a : Src) (x : Word) (o : BitVec 17), s.Runs k p [srcField a 0] [x] [a.reg] →
    exec (.loop a o) s = .next (
      let t := s.retire k (consumeMask p [srcField a 0]) [(a.reg, BitVec.ofInt 64 (x.toNat - 1))]
      if x.toNat = 1 then t else t.modProc k (fun q => { q with pc := wordsFrom p.pc o.toInt }))) ∧
  (∀ (m : BitVec 2) (o : BitVec 17), decode (BitVec.ofNat 32 (0x1C * 2 ^ 26 + m.toNat * 2 ^ 20 + o.toNat)) = none)

/-- 03 R49: a register-indirect target that is misaligned raises MISALIGN, one beyond the ISTORE LOAD_FAULT, with the target as the value; nothing retires. -/
def Claims.IndirectTargetsTrap : Prop :=
  ∀ (s : State) (k : Nat) (p : Proc) (d : Reg) (a : Src) (x : Word),
    (s.Runs k p [srcField a 0] [x] [] → x.toNat % 4 ≠ 0 → exec (.jr a) s = .next (s.raise k 0x03 x)) ∧
    (s.Runs k p [srcField a 0] [x] [] → x.toNat % 4 = 0 → 2 ^ 16 ≤ x.toNat → exec (.jr a) s = .next (s.raise k 0x04 x)) ∧
    (s.Runs k p [srcField a 0] [x] [d] → x.toNat % 4 ≠ 0 → exec (.jalr d a) s = .next (s.raise k 0x03 x)) ∧
    (s.Runs k p [srcField a 0] [x] [d] → x.toNat % 4 = 0 → 2 ^ 16 ≤ x.toNat → exec (.jalr d a) s = .next (s.raise k 0x04 x))

/-- Branches, jumps and LOOP go to their targets; bad indirect targets trap. -/
def Obligations.ControlFlow : Prop :=
  Claims.BranchesAndJumpsRetire ∧ Claims.IndirectTargetsTrap

/-- 05 R129 and 03 R59: TRAP and SYSC trap with the address of the next word, BRK with its own; a word that is no instruction raises ILLEGAL with the word; ERET, with the handler active, goes to EPC and ends it, and is ILLEGAL otherwise; NOP only retires. -/
def Claims.SystemInstructions : Prop :=
  ∀ (s : State) (k : Nat) (p : Proc), s.Issues k p →
    (∀ c : BitVec 12,
      exec (.trap c) s = .next (s.raiseAt k 0x16 (BitVec.ofNat 64 c.toNat) (p.wordPc + 4)) ∧
      exec (.sysc c) s = .next (s.raiseAt k 0x17 (BitVec.ofNat 64 c.toNat) (p.wordPc + 4)) ∧
      exec (.brk c) s = .next (s.raiseAt k 0x18 (BitVec.ofNat 64 c.toNat) p.pc)) ∧
    (∀ w : IWord, exec (.notAnInstruction w) s = .next (s.raiseAt k 0x01 (BitVec.ofNat 64 w.toNat) p.pc)) ∧
    (p.utv.getLsbD 1 = true → ∃ q, exec .eret s = .next (s.putProc k q) ∧ q.pc = BitVec.ofNat 16 (p.epc.toNat / 4 * 4) ∧
      (∀ n, q.utv.getLsbD n = (p.utv.getLsbD n && decide (n ≠ 1))) ∧
      { q with pc := p.pc, utv := p.utv, pfx := p.pfx, onceOn := p.onceOn, hold := p.hold, made := p.made } = p) ∧
    (p.utv.getLsbD 1 = false → exec .eret s = .next (s.raiseWord k 0x01)) ∧
    exec .nop s = .next (s.retire k 0 [])

/-- 05 R133 and R134: taking an exception. With UTV.EN set and no handler active, EMPTY, FUTURE_EMPTY, TRAP_INSN and, with NANU, TILE_NAN go to the handler; every other goes to the supervisor: EPC, ECAUSE and EVAL are written, the process is TRAPPED, UTV stays, and a notification sets out. No register, port, flag or special register else changes, nor any other process, nor memory. A process that a store fault has stopped before its instruction ended (04 R85) keeps that cause and value, and its instruction is given up. -/
def Claims.TrapEntry : Prop :=
  ∀ (s : State) (k : Nat) (p : Proc) (cause : Nat) (v : Word) (pc : BitVec 16), s.proc k = some p → cause < 256 →
    (p.st = .trapped → ∃ q, (s.raiseAt k cause v pc).proc k = some q ∧ q.st = .trapped ∧ q.ecause = p.ecause ∧ q.eval = p.eval ∧ q.epc = pc ∧ q.pc = pc) ∧
    (p.st ≠ .trapped → ∃ q, (s.raiseAt k cause v pc).proc k = some q ∧ q.epc = pc ∧ q.ecause.toNat = cause ∧ q.eval = v ∧
      (∀ j, j ≠ k → (s.raiseAt k cause v pc).proc j = s.proc j) ∧
      ((s.raiseAt k cause v pc).mem = s.mem ∧ (s.raiseAt k cause v pc).ftags = s.ftags) ∧
      if (cause = 0x07 ∨ cause = 0x08 ∨ cause = 0x16 ∨ cause = 0x0D ∧ p.utv.getLsbD 16 = true) ∧
          p.utv.getLsbD 0 = true ∧ p.utv.getLsbD 1 = false then
        q.st = .resident ∧ q.pc = BitVec.ofNat 16 (p.utv.toNat % 2 ^ 16 / 4 * 4) ∧
        (∀ n, q.utv.getLsbD n = (p.utv.getLsbD n || decide (n = 1))) ∧
        { q with epc := p.epc, ecause := p.ecause, eval := p.eval, utv := p.utv, pc := p.pc, st := p.st, wait := p.wait, vact := p.vact,
                 pfx := p.pfx, onceOn := p.onceOn, hold := p.hold, made := p.made } = p
      else
        q.st = .trapped ∧ q.pc = pc ∧ (∃ c, (c, Ev.notificationDelivery p.name) ∈ (s.raiseAt k cause v pc).agenda) ∧
        (s.raiseAt k cause v pc).heldNotes =
          s.heldNotes ++ [(s.supervisorOf p.gid, BitVec.ofNat 64 (p.gid * 2 ^ 48 + cause * 2 ^ 40 + p.name))] ∧
        { q with epc := p.epc, ecause := p.ecause, eval := p.eval, pc := p.pc, st := p.st, wait := p.wait, vcheck := p.vcheck,
                 deadline := p.deadline, pfx := p.pfx, onceOn := p.onceOn, hold := p.hold, made := p.made } = p)

/-- 05 R129, 13 R403: SNAP asks for a snapshot 256 ns later, joins one that is pending, and within 1 microsecond after one it is counted and ignored; at its time every block latches. -/
def Claims.SnapshotsAreTaken : Prop :=
  (∀ (s : State) (k : Nat) (p : Proc), s.Issues k p →
    let b := s.pkg (pkgOf p.core)
    ((b.snapAt = none ∨ ∃ t, b.snapAt = some t ∧ t + 1000 < s.nanos) → ∃ u : State, exec .snap s = .next (u.retire k 0 []) ∧
      (u.pkg (pkgOf p.core)).snapAt = some (s.nanos + 256) ∧ u.Due (.snapshotLatch (pkgOf p.core)) ∧ { u with pkgs := s.pkgs, agenda := s.agenda } = s) ∧
    (∀ t, b.snapAt = some t → s.nanos ≤ t → exec .snap s = .next (s.retire k 0 [])) ∧
    (∀ t, b.snapAt = some t → t < s.nanos → s.nanos ≤ t + 1000 → ∃ u : State, exec .snap s = .next (u.retire k 0 []) ∧
      (u.pkg (pkgOf p.core)).ignored = b.ignored + 1 ∧ (u.pkg (pkgOf p.core)).snapAt = some t ∧ { u with pkgs := s.pkgs } = s)) ∧
  (∀ (s : State) (pkg : Nat), ∃ t : State, exec (.snapshotLatch pkg) s = .next t ∧ (t.pkg pkg).latched = (s.pkg pkg).latched + 1 ∧ (t.pkg pkg).latchAt = s.gtc ∧
    { t with pkgs := s.pkgs } = s)

/-- System instructions, taking an exception, ERET, and snapshots. -/
def Obligations.SystemAndTraps : Prop :=
  Claims.SystemInstructions ∧ Claims.TrapEntry ∧ Claims.SnapshotsAreTaken

/-- 05 R130 and R131: CSRR, and CSRS and CSRC with g0, put the value of any CSR of Table 5.9 into d for a process whose level reads it. Below that level each raises PRIV, and for an unassigned number ILLEGAL. -/
def Claims.CsrReads : Prop :=
  ∀ (s : State) (k : Nat) (p : Proc) (d : Reg) (n : BitVec 12) (m : BitVec 2), s.Issues k p →
    (∀ e ∈ csrTable s p, e.1 = n.toNat → e.2.1 ≤ p.level → s.Takes p [d] →
      exec (.csrr d n) s = .next (s.retire k 0 [(d, e.2.2.2)]) ∧
      exec (.csrs d ⟨0, m⟩ n) s = .next (s.retire k (consumeMask p [srcField ⟨0, m⟩ 0]) [(d, e.2.2.2)]) ∧
      exec (.csrc d ⟨0, m⟩ n) s = .next (s.retire k (consumeMask p [srcField ⟨0, m⟩ 0]) [(d, e.2.2.2)])) ∧
    (∀ e ∈ csrTable s p, e.1 = n.toNat → p.level < e.2.1 →
      exec (.csrr d n) s = .next (s.raiseWord k 0x02) ∧ exec (.csrs d ⟨0, m⟩ n) s = .next (s.raiseWord k 0x02) ∧
      exec (.csrc d ⟨0, m⟩ n) s = .next (s.raiseWord k 0x02)) ∧
    ((∀ e ∈ csrTable s p, e.1 ≠ n.toNat) →
      exec (.csrr d n) s = .next (s.raiseWord k 0x01) ∧ exec (.csrs d ⟨0, m⟩ n) s = .next (s.raiseWord k 0x01) ∧
      exec (.csrc d ⟨0, m⟩ n) s = .next (s.raiseWord k 0x01) ∧ ∀ a, exec (.csrw d a n) s = .next (s.raiseWord k 0x01) ∧
        exec (.csrs d a n) s = .next (s.raiseWord k 0x01) ∧ exec (.csrc d a n) s = .next (s.raiseWord k 0x01))

/-- 05 R130: CSRW, CSRS and CSRC write a CSR of their process: a, old or a, old and not a, as far as fields are writable, and its old value goes into d. A value that a field excludes raises ILLEGAL and changes nothing; CSRS and CSRC of a register that holds 0 change no field. -/
def Claims.CsrWritesOfTheProcess : Prop :=
  ∀ (s : State) (k : Nat) (p : Proc) (d : Reg) (a : Src) (x : Word) (n : BitVec 12), s.Runs k p [srcField a 0] [x] [d] →
    (∀ e ∈ csrWrites p x, e.1 = n.toNat →
      (e.2.1 → exec (.csrw d a n) s = .next ((s.putProc k e.2.2).retire k (consumeMask p [srcField a 0]) [(d, s.csrRead p e.1)])) ∧
      (¬ e.2.1 → exec (.csrw d a n) s = .next (s.raiseWord k 0x01))) ∧
    (a.reg ≠ 0 → x = 0 → ∀ e ∈ csrWrites p x, e.1 = n.toNat →
      exec (.csrs d a n) s = .next (s.retire k (consumeMask p [srcField a 0]) [(d, s.csrRead p e.1)]) ∧
      exec (.csrc d a n) s = .next (s.retire k (consumeMask p [srcField a 0]) [(d, s.csrRead p e.1)])) ∧
    (a.reg ≠ 0 → x ≠ 0 → ∀ e ∈ csrWrites p (s.csrRead p n.toNat ||| x), e.1 = n.toNat →
      (e.2.1 → exec (.csrs d a n) s = .next ((s.putProc k e.2.2).retire k (consumeMask p [srcField a 0]) [(d, s.csrRead p e.1)])) ∧
      (¬ e.2.1 → exec (.csrs d a n) s = .next (s.raiseWord k 0x01))) ∧
    (a.reg ≠ 0 → x ≠ 0 → ∀ e ∈ csrWrites p (s.csrRead p n.toNat &&& ~~~x), e.1 = n.toNat →
      (e.2.1 → exec (.csrc d a n) s = .next ((s.putProc k e.2.2).retire k (consumeMask p [srcField a 0]) [(d, s.csrRead p e.1)])) ∧
      (¬ e.2.1 → exec (.csrc d a n) s = .next (s.raiseWord k 0x01)))

/-- 05 R130, R131, 06 Tables 6.5 and 6.6, 08 Table 8.10: the CSRs of a core and its fold are written at level S and above; below it a write raises PRIV before its source is read, and changes nothing. A weight or quantum of 0 in PENW, a URGB window of 0, a DLKDLY below 1,000 and a malformed TINV are ILLEGAL. A write of TINV posts an invalidation; CSRS and CSRC of a register that holds 0 change no field. -/
def Claims.CsrWritesOfTheCore : Prop :=
  ∀ (s : State) (k : Nat) (p : Proc) (d : Reg) (a : Src) (x : Word) (n : BitVec 12), s.Issues k p →
    (∀ e ∈ csrTable s p, e.1 = n.toNat → ∀ l, e.2.2.1 = some l → p.level < l →
      exec (.csrw d a n) s = .next (s.raiseWord k 0x02) ∧
      (a.reg ≠ 0 → exec (.csrs d a n) s = .next (s.raiseWord k 0x02) ∧ exec (.csrc d a n) s = .next (s.raiseWord k 0x02))) ∧
    (s.Runs k p [srcField a 0] [x] [d] → 1 ≤ p.level →
      let c := consumeMask p [srcField a 0]
      let old := s.csrRead p n.toNat
      (∀ e ∈ csrWritesOfCore s p x, e.1 = n.toNat →
        (e.2.1 → exec (.csrw d a n) s = .next (e.2.2.retire k c [(d, old)])) ∧ (¬ e.2.1 → exec (.csrw d a n) s = .next (s.raiseWord k 0x01))) ∧
      (a.reg ≠ 0 → x = 0 → ∀ e ∈ csrWritesOfCore s p x, e.1 = n.toNat →
        exec (.csrs d a n) s = .next (s.retire k c [(d, old)]) ∧ exec (.csrc d a n) s = .next (s.retire k c [(d, old)])) ∧
      (a.reg ≠ 0 → x ≠ 0 → ∀ e ∈ csrWritesOfCore s p (old ||| x), e.1 = n.toNat →
        (e.2.1 → exec (.csrs d a n) s = .next (e.2.2.retire k c [(d, old)])) ∧ (¬ e.2.1 → exec (.csrs d a n) s = .next (s.raiseWord k 0x01))) ∧
      (a.reg ≠ 0 → x ≠ 0 → ∀ e ∈ csrWritesOfCore s p (old &&& ~~~x), e.1 = n.toNat →
        (e.2.1 → exec (.csrc d a n) s = .next (e.2.2.retire k c [(d, old)])) ∧ (¬ e.2.1 → exec (.csrc d a n) s = .next (s.raiseWord k 0x01))) ∧
      (let page := x.toNat / 2 ^ 11 % 2 ^ 37
       let ok := x.toNat % 256 = 0 ∧ (x.toNat / 2 ^ 9 % 4 = 1 → page % 64 = 0) ∧ (x.toNat / 2 ^ 9 % 4 = 2 → page % 4096 = 0)
       (ok → (s.invalsOf p.name).length < 16 →
         exec (.csrw d a 0x7C8) s = .next (tinvWrite p.core p.name x (s.retire k c [(d, 0)])) ∧
         (a.reg ≠ 0 → exec (.csrs d a 0x7C8) s = .next (tinvWrite p.core p.name x (s.retire k c [(d, 0)])))) ∧
       (¬ ok → exec (.csrw d a 0x7C8) s = .next (s.raiseWord k 0x01) ∧ (a.reg ≠ 0 → exec (.csrs d a 0x7C8) s = .next (s.raiseWord k 0x01)))))

/-- Reads and writes of every CSR, with their levels. -/
def Obligations.ControlRegisters : Prop :=
  Claims.CsrReads ∧ Claims.CsrWritesOfTheProcess ∧ Claims.CsrWritesOfTheCore

/-- 03 R53 to R55: PFX before an instruction that takes it, or before one more PFX, opens a group and keeps its payload; before anything else it is ILLEGAL with that word. ONCE of a lone process opens a group. The elected member of a gang opens one too, unless some other member is to hold four undelivered posts already. A member that is not elected empties the destination and passes the group over, and waits for the post of that count. -/
def Obligations.PrefixWords : Prop :=
  ∀ (s : State) (k : Nat) (p : Proc), s.Issues k p →
    (∀ x : BitVec 16,
      let w := readLe s.mem (windowBase p.core + 0x120000 + (p.wordPc + 4).toNat) 4
      if w / 2 ^ 26 ∈ [0x02, 0x03, 0x04, 0x05, 0x09] ∨ w / 2 ^ 16 = 0xF440 ∧ p.pfx = [] then
        exec (.pfx x) s = .next { s.putProc k { p with pfx := p.pfx ++ [x] } with group := some k }
      else exec (.pfx x) s = .next (s.raiseAt k 0x01 (BitVec.ofNat 64 w) p.pc)) ∧
    (let w := readLe s.mem (windowBase p.core + 0x120000 + (p.wordPc + 4).toNat) 4
     let ok := 0x01 ≤ w / 2 ^ 26 ∧ w / 2 ^ 26 ≤ 0x0B ∨ w / 2 ^ 26 ∈ [0x10, 0x13, 0x23] ∨ w / 2 ^ 26 = 0x15 ∧ w / 2 ^ 5 % 32 = 0 ∨
       w / 2 ^ 26 = 0x1E ∧ w / 2 ^ 12 % 16 = 0 ∨ w / 2 ^ 16 = 0xF440
     (ok → p.gang = none → exec .once s = .next { s.putProc k { p with onceOn := true } with group := some k }) ∧
     (¬ ok → exec .once s = .next (s.raiseAt k 0x01 (BitVec.ofNat 64 w) p.pc)) ∧
     (∀ (m n : Nat) (g : Group), ok → p.gang = some m → s.group? p.gid = some g → (p.onceCnt + 1) % 256 = n →
       g.elected.find? (fun e => e.1 == n) = some (n, p.name) → (∀ e ∈ s.gangMembers p.gid, e.2.name ≠ p.name → s.postsHeld p.gid e.2 < 4) →
       exec .once s = .next { s.putProc k { p with onceOn := true } with group := some k }) ∧
     (∀ (m n j : Nat) (g : Group), ok → w / 2 ^ 26 ≤ 0x0B → p.gang = some m → s.group? p.gid = some g → (p.onceCnt + 1) % 256 = n →
       p.wordPc = p.pc → g.elected.find? (fun e => e.1 == n) = some (n, j) → j ≠ p.name → (∀ x ∈ p.posts, x.1 ≠ n) →
       p.onceOn = false → p.Unbound → (BitVec.ofNat 4 (w / 2 ^ 22) ≠ (0 : Reg) → (p.cell (BitVec.ofNat 4 (w / 2 ^ 22))).out < 3) →
       ∃ q, exec .once s = .next (s.putProc k q) ∧ q.pc = p.pc + 8 ∧ q.onceCnt = n ∧
         q.regs = (p.produce (BitVec.ofNat 4 (w / 2 ^ 22))).regs ∧
         q.onceWait = p.onceWait ++ [(n, BitVec.ofNat 4 (w / 2 ^ 22), p.nextTag (BitVec.ofNat 4 (w / 2 ^ 22)))] ∧
         { q with regs := p.regs, pc := p.pc, onceCnt := p.onceCnt, onceWait := p.onceWait, pfx := p.pfx, onceOn := p.onceOn,
                  hold := p.hold, made := p.made } = p))

/-- 05 R118 and 04 R79: a load from the process's own scratchpad, with nothing of the process in the store buffer, staged or on its way as an atomic, retires with the bytes at the address, extended as its size says. -/
def Claims.ScratchpadLoadRetires : Prop :=
  ∀ (s : State) (k : Nat) (p : Proc) (d : Reg) (a : Src) (z : BitVec 3) (o : BitVec 13) (x : Word) (off : Nat),
    s.Runs k p [srcField a 0] [x] [d] → (d ≠ 0 → (p.cell d).out < 3) →
    addressOf x o.toInt (accessBytes z) = 0xC0000000000000 + off → off % accessBytes z = 0 → off + accessBytes z ≤ scratchSize p.core - 2048 * (s.core p.core).extSize →
    coreIdOk p.core → pkgOf p.core ∈ s.packages → (s.fold (foldOf p.core)).fenced = false →
    s.poisoned (windowBase p.core + off) (accessBytes z) = false →
    (∀ e ∈ (s.core p.core).sb, e.name ≠ p.name) → tget s.bundles p.name = none → s.NoAtomics p.name →
    exec (.ld d a z o) s =
      .next (s.retire k (consumeMask p [srcField a 0]) [(d, loadedValue z (readBytes s.mem (windowBase p.core + off) (accessBytes z)))])

/-- 05 R118, R104, 04 R81 and R408: a load from any other place that needs no window and has no fault empties d and retires, and its value arrives after the time of the access; one through the window of its fold's engine block is on its way to the bank, which grants it a port (11 R355). The translation used is the youngest of the micro cache. -/
def Claims.OtherLoadsRetire : Prop :=
  ∀ (s t : State) (k : Nat) (p : Proc) (d : Reg) (a : Src) (z : BitVec 3) (o : BitVec 13) (x : Word) (pa : Nat) (y : Option Tlb),
    let va := addressOf x o.toInt (accessBytes z)
    s.Runs k p [srcField a 0] [x] [d] → (d ≠ 0 → (p.cell d).out < 3) → va % accessBytes z = 0 →
    s.translate p va true false = .pa pa y → t = (y.elim s (fun e => s.modCore p.core (fun c => c.touch e))) →
    t.held p pa = false → t.accessFault p pa va (accessBytes z) true = none →
    (∀ off, placeOf pa = .core p.core off → rowOf off ≠ .scratch) → p.portOf d = none → p.onceOn = false →
    s.NoAtomics p.name →
    ∃ (u : State) (q : Proc), exec (.ld d a z o) s = .next (u.retire k (consumeMask p [srcField a 0]) []) ∧ u.proc k = some q ∧
      q.regs = (p.produce d).regs ∧ q.loads = p.loads ++ [(d, (p.cell d).tag + 1)] ∧
      (if speWindow p.core pa && !t.overlapping p va pa (accessBytes z) then
        ∃ x : Access, u.DueIn (t.wayTo p.core pa) (.remoteAccessArrival x) ∧ x.addr = pa ∧ x.size = accessBytes z ∧ x.name = p.name ∧
          x.kind = .load d ((p.cell d).tag + 1) (accessBytes z) (decide (z.toNat < 4))
       else u.DueIn (t.accessTime p.core pa (accessBytes z)) (.fill ⟨p.name, d, (p.cell d).tag + 1⟩
         (loadedValue z (leBytes (accessBytes z) (t.readThrough p va pa (accessBytes z)))))) ∧
      { u with procs := s.procs, agenda := s.agenda, cores := s.cores, drovers := s.drovers } = s

/-- 04 R91, R79, R81: a misaligned load or store raises MISALIGN; a load by an address with no translation that grants it raises LOAD_FAULT with the address; a miss of the micro cache asks the fold translator, 4 cycles away, while the process waits in its slot. -/
def Claims.LoadsTranslate : Prop :=
  ∀ (s : State) (k : Nat) (p : Proc) (d : Reg) (a : Src) (z : BitVec 3) (o : BitVec 13) (x : Word),
    s.Runs k p [srcField a 0] [x] [d] → (d ≠ 0 → (p.cell d).out < 3) →
    (addressOf x o.toInt (accessBytes z) % accessBytes z ≠ 0 →
      exec (.ld d a z o) s = .next (s.raise k 0x03 (BitVec.ofNat 64 (addressOf x o.toInt (accessBytes z))))) ∧
    (addressOf x o.toInt (accessBytes z) % accessBytes z = 0 →
      (s.translate p (addressOf x o.toInt (accessBytes z)) true false = .fault →
        exec (.ld d a z o) s = .next (s.raise k 0x04 (BitVec.ofNat 64 (addressOf x o.toInt (accessBytes z))))) ∧
      (s.translate p (addressOf x o.toInt (accessBytes z)) true false = .miss →
        ∃ (q : Proc) (t : State), exec (.ld d a z o) s = .next t ∧ t.proc k = some q ∧ q.st = .parked ∧ q.wait = .xlat ∧ q.regs = p.regs ∧ q.pc = p.pc ∧
          ∃ w : Xlat, w.va = addressOf x o.toInt (accessBytes z) ∧ w.core = p.core ∧ w.store = none ∧ t.DueIn 4 (.translatorLookupDone w)))

/-- Loads retire, wait for their translation, or trap. -/
def Obligations.LoadsAndTranslation : Prop :=
  Claims.ScratchpadLoadRetires ∧ Claims.OtherLoadsRetire ∧ Claims.LoadsTranslate

/-- 05 R119 and 04 R83: a store whose sources are there and for which the buffer has room puts one entry behind the stores of its core, with its address, size and low bytes, sets out for translation, and retires; memory is as it was, at every address. -/
def Claims.StorePosts : Prop :=
  ∀ (s : State) (k : Nat) (p : Proc) (d : Reg) (a : Src) (z : BitVec 3) (o : BitVec 13) (x v : Word),
    s.Runs k p [plainField a.reg 0, ⟨d, a.mode.getLsbD 1, a.mode.getLsbD 0, 3⟩] [x, v] [] →
    (addressOf x o.toInt (accessBytes z) % accessBytes z ≠ 0 →
      exec (.st d a z o) s = .next (s.raise k 0x03 (BitVec.ofNat 64 (addressOf x o.toInt (accessBytes z))))) ∧
    (addressOf x o.toInt (accessBytes z) % accessBytes z = 0 → s.sbRoom p.core p.name ≠ 0 →
      ∃ (u : State) (e : SbEntry), exec (.st d a z o) s =
          .next (u.retire k (consumeMask p [plainField a.reg 0, ⟨d, a.mode.getLsbD 1, a.mode.getLsbD 0, 3⟩]) []) ∧
        (u.core p.core).sb = (s.core p.core).sb ++ [e] ∧ e.name = p.name ∧ e.va = addressOf x o.toInt (accessBytes z) ∧
        e.size = accessBytes z ∧ e.data.toNat = v.toNat % 2 ^ (8 * accessBytes z) ∧ e.pa = none ∧ e.done = false ∧
        u.Due (.storeTranslate p.core e.id) ∧ { u with cores := s.cores, agenda := s.agenda } = s ∧
        ∀ b, readByte u.mem b = readByte s.mem b)

/-- 04 R79, R83 and R408: a posted store goes through its alias at once, or to the fold translator; when its target acknowledges it, memory holds its bytes at the address it was translated to and at no other, and it leaves the buffer. The address is that of the alias of the process's own scratchpad, and the store the oldest of its process. -/
def Claims.StoreBytes : Prop :=
  ∀ (s : State) (core id : Nat) (e : SbEntry), s.sbEntry core id = some e → e.id = id → e.done = false → s.MemOk → coreIdOk core →
    (e.va < 2 ^ 55 → ∃ (w : Xlat) (t : State), exec (.storeTranslate core id) s = .next t ∧ w.va = e.va ∧ w.store = some id ∧
      t.DueIn 4 (.translatorLookupDone w) ∧ t.mem = s.mem) ∧
    (∀ off, e.va = 0xC0000000000000 + off → off + e.size ≤ scratchSize core → 1 ≤ e.size → pkgOf core ∈ s.packages →
      tget s.bundles e.name = none →
      ∃ (t : State) (x : Access), exec (.storeTranslate core id) s = .next t ∧ x.addr = windowBase core + off ∧ x.size = e.size ∧ x.kind = .store id ∧
        t.DueIn 0 (.remoteAccessArrival x) ∧ t.mem = s.mem ∧
        ((t.core core).sb.find? (fun y => y.id == id)).bind SbEntry.pa = some (windowBase core + off)) ∧
    (∀ off, e.pa = some (windowBase core + off) → off + e.size ≤ scratchSize core - 2048 * (s.core core).extSize → 1 ≤ e.size → e.size ≤ 8 → e.batch = 0 →
      tget s.bundles e.name = none → s.NoAtomics e.name → (∀ x ∈ (s.core core).sb, x.name = e.name → id ≤ x.id) →
      ∃ t : State, exec (.storeAck core id) s = .next t ∧
        (∀ b, readByte t.mem b = if windowBase core + off ≤ b ∧ b < windowBase core + off + e.size then
          BitVec.ofNat 8 (e.data.toNat / 2 ^ (8 * (b - (windowBase core + off)))) else readByte s.mem b) ∧
        (∀ y ∈ (t.core core).sb, y.id ≠ id))

/-- 05 R120: LDM from the process's own scratchpad loads registers f to l from consecutive words and retires; STM posts them as consecutive stores and retires, when each of its words has its translation. The base is not among the registers of an LDM. -/
def Claims.ManyRegistersMove : Prop :=
  (∀ (s : State) (k : Nat) (p : Proc) (f l : Reg) (a : Src) (o : BitVec 11) (x : Word) (off : Nat),
    s.Runs k p [srcField a 0] [x] ((List.range (l.toNat + 1 - f.toNat)).map (fun i => BitVec.ofNat 4 (f.toNat + i))) →
    p.Unbound → p.restart = 0 → p.hold = none → s.NoAtomics p.name → f.toNat ≤ l.toNat → (a.reg.toNat < f.toNat ∨ l.toNat < a.reg.toNat) → (∀ r, (p.cell r).out < 3) →
    addressOf x o.toInt 8 = 0xC0000000000000 + off → off % 8 = 0 → off + 8 * (l.toNat + 1 - f.toNat) ≤ scratchSize p.core - 2048 * (s.core p.core).extSize →
    coreIdOk p.core → pkgOf p.core ∈ s.packages → (s.fold (foldOf p.core)).fenced = false → s.poison = [] →
    (∀ e ∈ (s.core p.core).sb, e.name ≠ p.name) → tget s.bundles p.name = none →
    ∃ (u : State) (q : Proc), exec (.ldm f a l o) s = .next (u.retire k (consumeMask p [srcField a 0]) []) ∧ u.proc k = some q ∧
      (∀ r : Reg, q.reg r = if f.toNat ≤ r.toNat ∧ r.toNat ≤ l.toNat ∧ r ≠ 0 then
        BitVec.ofNat 64 (readLe s.mem (windowBase p.core + off + 8 * (r.toNat - f.toNat)) 8) else p.reg r) ∧
      (∀ r : Reg, q.full r = (decide (f.toNat ≤ r.toNat ∧ r.toNat ≤ l.toNat) || p.full r)) ∧
      { u with procs := s.procs } = s) ∧
  (∀ (s : State) (k : Nat) (p : Proc) (f l : Reg) (a : Src) (o : BitVec 11) (x : Word) (vs : List Word),
    let fs := srcField a 0 :: (List.range (l.toNat + 1 - f.toNat)).map (fun i => plainField (BitVec.ofNat 4 (f.toNat + i)) 3)
    s.Runs k p fs (x :: vs) [] → p.restart = 0 → p.hold = none → f.toNat ≤ l.toNat → addressOf x o.toInt 8 % 8 = 0 →
    (∀ i < l.toNat + 1 - f.toNat, s.Translated p (addressOf x o.toInt 8 + 8 * i) false true) → (s.core p.core).tlb.length ≤ 32 →
    l.toNat + 1 - f.toNat ≤ s.sbRoom p.core p.name →
    ∃ (u : State) (es : List SbEntry), exec (.stm f a l o) s = .next (u.retire k (consumeMask p fs) []) ∧ (u.core p.core).sb = (s.core p.core).sb ++ es ∧
      es.map (fun e => (e.name, e.va, e.size, e.data)) =
        (List.range (l.toNat + 1 - f.toNat)).map (fun i => (p.name, addressOf x o.toInt 8 + 8 * i, 8, vs.getD i 0)) ∧
      (∀ e ∈ es, u.Due (.storeTranslate p.core e.id)) ∧ u.mem = s.mem)

/-- Stores post, and their bytes reach memory and nothing else. -/
def Obligations.StoresReachMemory : Prop :=
  Claims.StorePosts ∧ Claims.StoreBytes ∧ Claims.ManyRegistersMove

/-- 05 R125 and 04 R97: every AMO whose location needs no window and has no fault sets out for its location with d emptied and, without .ACQ, retires at once; with .ACQ its process stays at it for the value; with .REL it waits for the process's stores. With d = g0 no register changes. A misaligned address raises MISALIGN. -/
def Claims.AtomicsSetOut : Prop :=
  ∀ e ∈ amoTable, ∀ (s t : State) (k : Nat) (p : Proc) (d : Reg) (a b : Src) (w acq rel : BitVec 1) (vals : List Word) (pa : Nat) (y : Option Tlb),
    let fs := [srcField a 0, srcField b 1] ++ (if e.1 = 9 then [plainField d 3] else [])
    let n := if w = 1 then 8 else 4
    let va := (vals.getD 0 0).toNat
    s.Runs k p fs vals [d] → (d ≠ 0 → (p.cell d).out < 3) → p.portOf d = none → p.onceOn = false →
    (va % n ≠ 0 → exec (e.2.1 d a b w acq rel) s = .next (s.raise k 0x03 (vals.getD 0 0))) ∧
    (va % n = 0 → rel = 1 → (∃ y ∈ (s.core p.core).sb, y.name = p.name) → exec (e.2.1 d a b w acq rel) s = .next (s.park k .stores)) ∧
    (va % n = 0 → (∀ y ∈ (s.core p.core).sb, y.name ≠ p.name) → s.NoAtomics p.name → s.translate p va true true = .pa pa y →
      t = (y.elim s (fun e => s.modCore p.core (fun c => c.touch e))) → t.held p pa = false → t.accessFault p pa va n true = none →
      ∃ (u : State) (q : Proc) (x : Access),
        exec (e.2.1 d a b w acq rel) s = .next (if acq = 1 then u else u.retire k (consumeMask p fs) []) ∧ u.proc k = some q ∧
        (acq = 1 → q.st = .parked ∧ q.wait = .access ∧ q.pc = p.pc ∧ (q.hold.map Hold.consume) = some (consumeMask p fs)) ∧
        x.addr = pa ∧ x.size = n ∧ x.core = p.core ∧ x.name = p.name ∧
        x.kind = .amo (BitVec.ofNat 4 e.1) (w = 1) (vals.getD 1 0) (if e.1 = 9 then vals.getD 2 0 else 0) d
          ((p.cell d).tag + 1) ∧
        u.Due (.amoAtHome x) ∧ q.regs = (p.produce d).regs ∧
        { u with procs := s.procs, agenda := s.agenda, cores := s.cores, drovers := s.drovers } = s)

/-- 05 R125 and 04 R97: at its location an AMO leaves, as one step, the new value of its operation there, and sends the old value, zero-extended, to its destination; no other byte of memory changes. Locations in HBM and fold SRAM. -/
def Claims.AtomicsAtHome : Prop :=
  ∀ e ∈ amoTable, ∀ (s : State) (x : Access) (w : BitVec 1) (b c : Word) (r : Reg) (g : BitVec 2) (f n : Nat),
    let z := if w = 1 then 8 else 4
    x.kind = .amo (BitVec.ofNat 4 e.1) (w = 1) b c r g → x.addr % z = 0 → (placeOf x.addr = .sram f n ∨ placeOf x.addr = .hbm f n) →
    s.MemOk →
    ∃ t : State, exec (.amoAtHome x) s = .next t ∧
      t.Due (.fill ⟨x.name, r, g⟩ (BitVec.ofNat 64 (readLe s.mem x.addr z))) ∧
      readLe t.mem x.addr z = e.2.2 (8 * z) (readLe s.mem x.addr z) (b.toNat % 2 ^ (8 * z)) (c.toNat % 2 ^ (8 * z)) % 2 ^ (8 * z) ∧
      (∀ y, y < x.addr ∨ x.addr + z ≤ y → readByte t.mem y = readByte s.mem y) ∧
      { t with mem := s.mem, poison := s.poison, agenda := s.agenda } = s

/-- Atomics set out, and act at their location as one step. -/
def Obligations.Atomics : Prop :=
  Claims.AtomicsSetOut ∧ Claims.AtomicsAtHome

/-- 05 R104 and 06 R139: a value that arrives for a register is accepted if the register awaits it with its tag, and discarded otherwise. One producer fewer is outstanding, and no other register of the process changes. -/
def Claims.FillsByTag : Prop :=
  ∀ (s : State) (k : Nat) (p : Proc) (f : FillTo) (v : Word), s.named f.name = some (k, p) → p.Unbound → p.wait = .none → s.onceDue = [] →
    f.reg ≠ 0 →
    ∃ (t : State) (q : Proc), exec (.fill f v) s = .next t ∧ t.proc k = some q ∧
      (q.cell f.reg).out = (p.cell f.reg).out - 1 ∧
      (if (p.cell f.reg).pend = true ∧ (p.cell f.reg).tag = f.tag then q.reg f.reg = v ∧ q.full f.reg = true ∧ (q.cell f.reg).pend = false
       else q.reg f.reg = p.reg f.reg ∧ q.full f.reg = p.full f.reg ∧ (q.cell f.reg).pend = (p.cell f.reg).pend) ∧
      (∀ r, r ≠ f.reg → q.cell r = p.cell r) ∧ (∀ j, j ≠ k → t.proc j = s.proc j) ∧ t.mem = s.mem

/-- 04 R96, R86 and R89: FENCE retires with the group's peer-failure bitmap when what its kind waits for is done, and parks its process otherwise; DRAIN.S waits for the process's stores, ISYNC for those into its own core's ISTORE. -/
def Claims.FencesWait : Prop :=
  ∀ (s : State) (k : Nat) (p : Proc), s.Issues k p →
    (∀ (d : Reg) (sc : BitVec 3) (kd : BitVec 2), s.Takes p [d] →
      ((kd = 0 ∨ kd = 2) ∧ p.loads ≠ [] → exec (.fence d sc kd) s = .next (s.park k .loads)) ∧
      ((kd = 1 ∨ kd = 2 ∧ p.loads = []) ∧ (∃ e ∈ (s.core p.core).sb, e.name = p.name) →
        exec (.fence d sc kd) s = .next (s.park k .stores)) ∧
      ((kd = 0 ∨ kd = 2 → p.loads = []) → (kd = 1 ∨ kd = 2 → ∀ e ∈ (s.core p.core).sb, e.name ≠ p.name) →
        (sc = 5 → p.level ≠ 0 → ∀ c ∈ s.cores, ∀ v ∈ c.2.invals, v.poster ≠ p.name) →
        exec (.fence d sc kd) s = .next (s.retire k 0 [(d, ((s.group? p.gid).map Group.failBits).getD 0)]))) ∧
    ((∃ e ∈ (s.core p.core).sb, e.name = p.name) → exec .drainS s = .next (s.park k .stores)) ∧
    ((∀ e ∈ (s.core p.core).sb, e.name ≠ p.name) →
      exec .drainS s = .next (s.retire k 0 []) ∧ exec .isync s = .next (s.retire k 0 []))

/-- Fills are accepted by tag; fences wait for what they name. -/
def Obligations.FillsAndFences : Prop :=
  Claims.FillsByTag ∧ Claims.FencesWait

/-- 05 R122 and R123: FRD waits in its slot for the answer of the cell's fold, which comes 2 cycles and twice the way later; FWR writes the cell and fills its tag and retires; FCLR empties the tag and retires. Only the cell's bytes and tag change. -/
def Claims.FutureCells : Prop :=
  ∀ (s t : State) (k : Nat) (p : Proc) (a b : Src) (x v : Word) (pa : Nat) (y : Option Tlb),
    t = y.elim s (fun e => s.modCore p.core (fun c => c.touch e)) → x.toNat % 8 = 0 → (∀ e ∈ (s.core p.core).sb, e.name ≠ p.name) →
    isCell p.core pa = true → s.MemOk → s.NoAtomics p.name →
    (∀ (d : Reg) (tb cb : BitVec 1), s.Runs k p [srcField a 0] [x] [d] → s.translate p x.toNat true (cb = 1) = .pa pa y →
      t.passes p.core p.gid p.level pa 8 true (cb = 1) = true → t.poisoned pa 8 = false →
      ∃ (u : State) (q : Proc), exec (.frd d a tb cb) s = .next u ∧ u.proc k = some q ∧ q.st = .parked ∧ q.wait = .frd ∧
        q.regs = p.regs ∧ q.pc = p.pc ∧ u.DueIn (2 * t.wayTo p.core pa + 2)
          (.frdAnswer { name := p.name, core := p.core, va := x.toNat, addr := pa, t := tb = 1, c := cb = 1, reg := d }) ∧
        { u with procs := s.procs, agenda := s.agenda, cores := s.cores } = s) ∧
    (s.Runs k p [srcField a 0, srcField b 1] [x, v] [] → s.translate p x.toNat false true = .pa pa y →
      t.passes p.core p.gid p.level pa 8 false true = true →
      ∃ u : State, exec (.fwr a b) s = .next (u.retire k (consumeMask p [srcField a 0, srcField b 1]) []) ∧
        readLe u.mem pa 8 = v.toNat ∧ (∀ c, c < pa ∨ pa + 8 ≤ c → readByte u.mem c = readByte s.mem c) ∧
        (∀ c, c ∈ u.ftags ↔ c = pa ∨ c ∈ s.ftags) ∧
        (∀ w ∈ (s.fold (foldOf p.core)).cellWait, w.2 = pa → ∀ j r, u.named w.1 = some (j, r) → r.wait ≠ .cell pa)) ∧
    (s.Runs k p [srcField a 0] [x] [] → s.translate p x.toNat false true = .pa pa y → t.passes p.core p.gid p.level pa 8 false true = true →
      ∃ u : State, exec (.fclr a) s = .next (u.retire k (consumeMask p [srcField a 0]) []) ∧
        (∀ c, c ∈ u.ftags ↔ c ∈ s.ftags ∧ c ≠ pa) ∧ { u with ftags := s.ftags, cores := s.cores } = s)

/-- 05 R123: the answer to an FRD. A full cell gives its value, and with .C its tag is emptied in the same step; an empty one raises FUTURE_EMPTY with the address if .T is set, and the process waits for the cell otherwise, registered with its fold while the table of 64 has room. -/
def Claims.FutureAnswers : Prop :=
  ∀ (s : State) (k : Nat) (p : Proc) (h : Hold) (f : FrdReq), s.named f.name = some (k, p) → p.wait = .frd → p.hold = some h →
    (f.addr ∈ s.ftags →
      ∃ u : State, exec (.frdAnswer f) s = .next ((u.retire k h.consume [(f.reg, BitVec.ofNat 64 (s.loadPhys f.addr 8))]).ready k) ∧
        (∀ c, c ∈ u.ftags ↔ c ∈ s.ftags ∧ (f.c = true → c ≠ f.addr)) ∧ { u with ftags := s.ftags } = s) ∧
    (f.addr ∉ s.ftags → f.t = true →
      exec (.frdAnswer f) s = .next ((s.putProc k { p with st := .resident, wait := .none, hold := none }).raise k 0x08
        (BitVec.ofNat 64 f.va))) ∧
    (f.addr ∉ s.ftags → f.t = false → (s.fold (foldOf p.core)).cellWait.length < 64 →
      ∃ (u : State) (q : Proc), exec (.frdAnswer f) s = .next u ∧ u.proc k = some q ∧ q.wait = .cell f.addr ∧
        q.st = (if p.heavy then .parked else .blocked) ∧ q.pc = p.pc ∧ q.regs = p.regs ∧
        (u.fold (foldOf p.core)).cellWait = (s.fold (foldOf p.core)).cellWait ++ [(p.name, f.addr)] ∧ u.ftags = s.ftags ∧ u.mem = s.mem)

/-- Future cells: FRD, FWR, FCLR and the answer of the fold. -/
def Obligations.Futures : Prop :=
  Claims.FutureCells ∧ Claims.FutureAnswers

/-- 05 R107: XWR sets out for a slot of its fold and its process waits at it; any other target is LOAD_FAULT. -/
def Claims.MailboxWritesSetOut : Prop :=
  ∀ (s : State) (k : Nat) (p : Proc) (n : Reg) (a b : Src) (x v : Word), s.Runs k p [srcField a 0, srcField b 1] [x, v] [] →
    (64 ≤ x.toNat ∨ x.toNat % 8 = 7 → exec (.xwr n a b) s = .next (s.raise k 0x04 x)) ∧
    (x.toNat < 64 → x.toNat % 8 < 7 →
      ∃ (u : State) (q : Proc) (z : Xwr), exec (.xwr n a b) s = .next u ∧ u.proc k = some q ∧ q.st = .parked ∧ q.wait = .xwr ∧ q.pc = p.pc ∧
        q.regs = p.regs ∧ u.DueIn 3 (.xwrDelivery z) ∧ z.sender = p.name ∧ z.core = p.core / 8 * 8 + x.toNat % 8 ∧ z.slot = x.toNat / 8 ∧
        z.reg = n ∧ z.val = v ∧ { u with procs := s.procs, agenda := s.agenda } = s)

/-- 05 R107 and R106: the delivery of an XWR to another process. A resident of another group, or none, refuses it and its sender takes WINDOW_NAK with the register's address; g0 accepts; an empty register that awaits no fill is written, and the sender's XWR retires in that cycle; one whose emptying retires in this cycle is written in the next; at any other the XWR waits, and XWR_WRITE writes the register once it is empty. -/
def Claims.MailboxWritesArrive : Prop :=
  ∀ (s : State) (x : Xwr) (ks : Nat) (q : Proc) (h : Hold), s.named x.sender = some (ks, q) → q.wait = .xwr → q.hold = some h → q.name = x.sender →
    (s.resident x.core x.slot = none →
      exec (.xwrDelivery x) s = .next ((s.putProc ks { q with st := .resident, wait := .none, hold := none }).raise ks 0x06
        (BitVec.ofNat 64 (windowBase x.core + 0x170000 + x.slot * 128 + x.reg.toNat * 8)))) ∧
    (∀ (k : Nat) (p : Proc), s.resident x.core x.slot = some (k, p) → k ≠ ks → s.proc k = some p →
      (q.gid ≠ p.gid →
        exec (.xwrDelivery x) s = .next ((s.putProc ks { q with st := .resident, wait := .none, hold := none }).raise ks 0x06
          (BitVec.ofNat 64 (windowBase x.core + 0x170000 + x.slot * 128 + x.reg.toNat * 8)))) ∧
      (q.gid = p.gid → x.reg = 0 → exec (.xwrDelivery x) s = .next ((s.retire ks h.consume []).ready ks)) ∧
      (q.gid = p.gid → x.reg ≠ 0 → p.full x.reg = false → (p.cell x.reg).pend = false → s.xwrs = [] →
        (p.doneAt < s.cycle ∨ p.emptied.getLsbD x.reg.toNat = false) →
        ∃ (u : State) (r : Proc), exec (.xwrDelivery x) s = .next ((u.retire ks h.consume []).ready ks) ∧ u.proc k = some r ∧
          r.reg x.reg = x.val ∧ r.full x.reg = true ∧ (∀ n, n ≠ x.reg → r.cell n = p.cell n) ∧ (∀ j, j ≠ k → u.proc j = s.proc j)) ∧
      (q.gid = p.gid → x.reg ≠ 0 → p.full x.reg = false → (p.cell x.reg).pend = false → s.xwrs = [] → s.cycle ≤ p.doneAt →
        p.emptied.getLsbD x.reg.toNat = true →
        ∃ u : State, exec (.xwrDelivery x) s = .next u ∧ u.xwrs = [{ x with target := p.name }] ∧
          (p.doneAt + 1, Ev.xwrWrite { x with target := p.name }) ∈ u.agenda ∧ u.procs = s.procs) ∧
      (q.gid = p.gid → x.reg ≠ 0 → (p.full x.reg = true ∨ (p.cell x.reg).pend = true) →
        exec (.xwrDelivery x) s = .next { s with xwrs := s.xwrs ++ [{ x with target := p.name }] }) ∧
      (x ∈ s.xwrs → p.name = x.target → x.reg ≠ 0 → p.full x.reg = false → (p.cell x.reg).pend = false →
        ∃ (u : State) (r : Proc), exec (.xwrWrite x) s = .next ((u.retire ks h.consume []).ready ks) ∧ u.proc k = some r ∧
          r.reg x.reg = x.val ∧ r.full x.reg = true ∧ u.xwrs = s.xwrs.erase x) ∧
      (x ∈ s.xwrs → p.name ≠ x.target →
        ∃ u : State, exec (.xwrWrite x) s = .next (u.raise ks 0x06
            (BitVec.ofNat 64 (windowBase x.core + 0x170000 + x.slot * 128 + x.reg.toNat * 8))) ∧ u.xwrs = s.xwrs.erase x ∧ u.proc k = some p))

/-- XWR sets out, is refused, waits or writes. -/
def Obligations.Mailboxes : Prop :=
  Claims.MailboxWritesSetOut ∧ Claims.MailboxWritesArrive

/-- 05 R108: SLB lends a slot that holds no process and no borrowed set, with every borrowed register 0, or answers all ones; MXF and MXT move between the local and the borrowed registers, and are ILLEGAL without a borrowed slot; SLR gives the slot back. -/
def Claims.BorrowedSlots : Prop :=
  ∀ (s : State) (k : Nat) (p : Proc), s.Issues k p →
    (∀ d, s.Takes p [d] →
      (p.borrow = none → (∃ i < 8, (s.slot (p.core * 8 + i)).occ = none ∧ (s.slot (p.core * 8 + i)).lent = none) →
        ∃ (i : Nat) (u : State) (q : Proc), exec (.slb d) s = .next (u.retire k 0 [(d, BitVec.ofNat 64 i)]) ∧ i < 8 ∧
          (s.slot (p.core * 8 + i)).occ = none ∧ (s.slot (p.core * 8 + i)).lent = none ∧ (u.slot (p.core * 8 + i)).lent = some p.idx ∧
          u.proc k = some q ∧ (∀ n, (q.borrow.map (fun b => b.regs.get n)) = some 0) ∧ q.heavy = true ∧
          { u with procs := s.procs, slots := s.slots } = s) ∧
      ((p.borrow ≠ none ∨ ∀ i < 8, (s.slot (p.core * 8 + i)).occ ≠ none ∨ (s.slot (p.core * 8 + i)).lent ≠ none) →
        exec (.slb d) s = .next (s.retire k 0 [(d, BitVec.allOnes 64)]))) ∧
    (p.borrow = none → exec .slr s = .next (s.retire k 0 []) ∧
      (∀ d n, s.Takes p [d] → exec (.mxf d n) s = .next (s.raiseWord k 0x01)) ∧
      (∀ n a x, s.Gives p [srcField a 0] [x] → exec (.mxt n a) s = .next (s.raiseWord k 0x01))) ∧
    (∀ b, p.borrow = some b →
      (∀ d n, s.Takes p [d] → exec (.mxf d n) s = .next (s.retire k 0 [(d, b.regs.get (rix n))])) ∧
      (∀ n a x, s.Gives p [srcField a 0] [x] → n ≠ 0 → exec (.mxt n a) s =
        .next ((s.putProc k { p with borrow := some { b with regs := b.regs.set (rix n) x } }).retire k (consumeMask p [srcField a 0]) [])) ∧
      (∀ i, b.slot = some i → ∃ (u : State) (q : Proc), exec .slr s = .next (u.retire k 0 []) ∧ (u.slot (p.core * 8 + i)).lent = none ∧
        u.proc k = some q ∧ q.borrow = none ∧ { q with borrow := p.borrow } = p))

/-- 05 R109 to R111: EMPTY empties a register and discards a pending fill, ISFULL tells whether one is full; BINDQ binds a port to a word channel and loses the register's value, UNBQ leaves the register full and 0. A register that is no port, or a binding word that names no word channel, traps. -/
def Claims.PortsAndBits : Prop :=
  ∀ (s : State) (k : Nat) (p : Proc), s.Issues k p →
    (∀ d, p.portOf d = none → exec (.empty d) s = .next (s.retire k (BitVec.ofNat 16 (2 ^ d.toNat)) []) ∧
      (p.Unbound → p.made = 0 → p.onceOn = false → p.vact = false →
        ∃ q, (s.retire k (BitVec.ofNat 16 (2 ^ d.toNat)) []).proc k = some q ∧ (d ≠ 0 → q.full d = false ∧ (q.cell d).pend = false) ∧
          (∀ r, q.reg r = p.reg r) ∧ (∀ r, r ≠ d → q.cell r = p.cell r))) ∧
    (∀ d x, p.portOf d = some x → exec (.empty d) s = .next (s.raiseWord k 0x01)) ∧
    (∀ d a, s.Takes p [d] → p.portOf a = none → exec (.isfull d a) s = .next (s.retire k 0 [(d, if p.full a then 1 else 0)])) ∧
    (∀ (d : Reg) (b : Src) (x : Word), 8 ≤ d.toNat → d.toNat ≤ 11 → (p.ports.toList.getD (d.toNat - 8) {}).failed = false →
      (s.Gives p [srcField b 1] [x] → x.toNat < 64 → ∀ e, s.handle p.name x.toNat = some e → typKind e.2.typ = 0 → isDispenser e.2 = false →
        ∃ q, exec (.bindq d b) s = .next ((s.putProc k q).retire k (consumeMask p [srcField b 1]) []) ∧
          q.ports.toList.getD (d.toNat - 8) {} = { bound := true, kind := 0, num := x.toNat } ∧ q.reg d = 0 ∧ (q.cell d).pend = false) ∧
      (s.Gives p [srcField b 1] [x] → (x.toNat / 2 ^ 63 = 1 ∨ x.toNat / 2 ^ 6 % 2 ^ 56 ≠ 0 ∨ x.toNat < 64 ∧ s.handle p.name x.toNat = none) →
        exec (.bindq d b) s = .next (s.raise k 0x09 x)) ∧
      ((p.ports.toList.getD (d.toNat - 8) {}).bound = true →
        ∃ q, exec (.unbq d) s = .next ((s.putProc k q).retire k 0 []) ∧ q.ports.toList.getD (d.toNat - 8) {} = {} ∧
          q.reg d = 0 ∧ q.full d = true) ∧
      ((p.ports.toList.getD (d.toNat - 8) {}).bound = false → exec (.unbq d) s = .next (s.retire k 0 []))) ∧
    (∀ d, (d.toNat < 8 ∨ 11 < d.toNat) → exec (.unbq d) s = .next (s.raiseWord k 0x01))

/-- Borrowed slots, full bits and bound ports. -/
def Obligations.SlotsAndPorts : Prop :=
  Claims.BorrowedSlots ∧ Claims.PortsAndBits

/-- 06 R157 and R146: YIELD makes a light process READY at the tail of its pen and lets a heavy one pause to the next rotation boundary; PRIO changes the priority and gives the old one; SLEEP waits for the first rotation boundary at which GTC has reached its operand, and SLEEP_EXPIRY readies the process; PSELF gives the self word. -/
def Obligations.SimpleProcessInstructions : Prop :=
  ∀ (s : State) (k : Nat) (p : Proc), s.Issues k p → p.prio < 4 →
    (p.heavy = false → ∃ (t : State) (q : Proc), exec .yield s = .next t ∧ t.proc k = some q ∧ q.st = .ready ∧
      (t.core p.core).pens[p.prio]! = (s.core p.core).pens[p.prio]! ++ [p.idx]) ∧
    (p.heavy = true → ∃ t : State, exec .yield s = .next t ∧ (t.slot p.slotKey).next = (s.cycle / 8 + 1) * 8 ∧
      t.procs = (s.retire k 0 []).procs ∧ t.cores = s.cores) ∧
    (∀ (d : Reg) (a : Src) (x : Word), s.Runs k p [srcField a 0] [x] [d] →
      (x.toNat < 4 → exec (.prio d a) s =
        .next ((s.putProc k { p with prio := x.toNat }).retire k (consumeMask p [srcField a 0]) [(d, BitVec.ofNat 64 p.prio)])) ∧
      (4 ≤ x.toNat → exec (.prio d a) s = .next (s.raiseWord k 0x01))) ∧
    (∀ (a : Src) (x : Word), s.Runs k p [srcField a 0] [x] [] →
      let turn := s.cycle * 5 / 8 / 2 ^ 64 * 2 ^ 64
      (x.toNat ≤ s.cycle * 5 / 8 % 2 ^ 64 → exec (.sleep a) s = .next (s.retire k (consumeMask p [srcField a 0]) [])) ∧
      (s.cycle * 5 / 8 % 2 ^ 64 < x.toNat → ∃ (t : State) (q : Proc) (c : Nat), exec (.sleep a) s = .next t ∧ t.proc k = some q ∧ q.st = .sleeping ∧
        q.wait = .sleep ∧ q.deadline = x.toNat ∧ (c, Ev.sleepExpiry p.name) ∈ t.agenda ∧ c % 8 = 0 ∧ turn + x.toNat ≤ c * 5 / 8 ∧
        ∀ b, b % 8 = 0 → turn + x.toNat ≤ b * 5 / 8 → c ≤ b)) ∧
    (∀ d, s.Takes p [d] → exec (.pself d) s = .next (s.retire k 0 [(d, BitVec.ofNat 64
      (p.gid * 2 ^ 48 + (if p.gang.isSome then 2 ^ 47 else 0) + p.gang.getD 0 % 8 * 2 ^ 44 + p.name))])) ∧
    (∀ (n j : Nat) (q : Proc), s.named n = some (j, q) → q.wait = .sleep → q.deadline ≤ s.cycle * 5 / 8 % 2 ^ 64 →
      exec (.sleepExpiry n) s = .next (s.ready j))

/-- 06 R158, R161, R163 and R166: PINFO, SUSP, RESM and MIGR empty d, send a lookup for the birth core of the name, and retire. At U the last three raise PRIV, and a name with a bit above 39 is ILLEGAL. -/
def Claims.LookupsSetOut : Prop :=
  ∀ (s : State) (k : Nat) (p : Proc) (d : Reg) (a : Src) (x : Word), s.Runs k p [srcField a 0] [x] [d] → (d ≠ 0 → (p.cell d).out < 3) →
    p.portOf d = none → p.onceOn = false →
    (∀ e ∈ [(Instr.pinfo d a, LookOp.pinfo, 0), (Instr.susp d a, LookOp.susp, 1), (Instr.resm d a, LookOp.resm, 1)],
      (p.level < e.2.2 → exec e.1 s = .next (s.raiseWord k 0x02)) ∧
      (e.2.2 ≤ p.level → 2 ^ 40 ≤ x.toNat → exec e.1 s = .next (s.raiseWord k 0x01)) ∧
      (e.2.2 ≤ p.level → x.toNat < 2 ^ 40 → s.reachesCore p.core (birthCore x.toNat) = true →
        ∃ (u : State) (q : Proc), exec e.1 s = .next (u.retire k (consumeMask p [srcField a 0]) []) ∧ u.proc k = some q ∧
          q.regs = (p.produce d).regs ∧ u.DueIn (s.oneway p.core (birthCore x.toNat))
            (.nameLookup { op := e.2.1, dest := p.dest d, core := p.core, gid := p.gid, level := p.level, target := x.toNat, arg := 0 } false) ∧
          { u with procs := s.procs, agenda := s.agenda } = s)) ∧
    (∀ (b : Src) (y : Word), s.Runs k p [srcField a 0, srcField b 1] [x, y] [d] → 1 ≤ p.level → x.toNat < 2 ^ 40 →
      (coreIdOk y.toNat = false → exec (.migr d a b) s = .next (s.raise k 0x04 y)) ∧
      (coreIdOk y.toNat = true → s.reachesCore p.core (birthCore x.toNat) = true →
        ∃ u : State, exec (.migr d a b) s = .next (u.retire k (consumeMask p [srcField a 0, srcField b 1]) []) ∧
          u.DueIn (s.oneway p.core (birthCore x.toNat)) (.nameLookup
            { op := .migr, dest := p.dest d, core := p.core, gid := p.gid, level := p.level, target := x.toNat, arg := y.toNat } false)))

/-- 06 R158, R161, R163: what a lookup does at the core that holds the process. PINFO answers its information word, SUSP leaves a request that is taken at a rotation boundary, RESM makes a TRAPPED process READY at its EPC and answers 0; a name that names no live process answers all ones or code 0x08; an answer fills d. -/
def Claims.LookupsAct : Prop :=
  ∀ (s : State) (q : Look),
    (s.named q.target = none → ∃ t : State, exec (.nameLookup q false) s = .next t ∧
      t.Due (.nameLookupAnswer q (if q.op = .pinfo then BitVec.allOnes 64 else BitVec.ofNat 64 (2 ^ 63 + 8))) ∧ t.procs = s.procs) ∧
    (∀ (k : Nat) (p : Proc), s.named q.target = some (k, p) → q.level = 2 →
      (q.op = .pinfo → ∃ t : State, exec (.nameLookup q true) s = .next t ∧ t.procs = s.procs ∧
        t.DueIn (s.oneway p.core q.core) (.nameLookupAnswer q (BitVec.ofNat 64 (p.st.code * 2 ^ 60 + p.prio * 2 ^ 58 +
          (if p.heavy then 2 ^ 57 else 0) + p.core * 2 ^ 32 + p.ecause.toNat * 2 ^ 24 + p.idx * 2 ^ 16 + p.pc.toNat / 4 * 4)))) ∧
      (q.op = .susp → p.st ∈ [.ready, .resident, .parked, .blocked, .sleeping] →
        exec (.nameLookup q true) s = .next (s.putProc k { p with suspend := p.suspend ++ [q.dest] })) ∧
      (q.op = .resm → p.st = .trapped → p.prio < 4 → ∃ (t : State) (r : Proc), exec (.nameLookup q true) s = .next t ∧ t.proc k = some r ∧
        r.st = .ready ∧ r.pc = p.epc ∧ r.regs = p.regs ∧ t.DueIn (s.oneway p.core q.core) (.nameLookupAnswer q 0) ∧
        (t.core p.core).pens[p.prio]! = (s.core p.core).pens[p.prio]! ++ [p.idx]) ∧
      (q.op = .migr → p.st ∈ [.trapped, .migrating] → ∃ t : State, exec (.nameLookup q true) s = .next t ∧ t.procs = s.procs ∧
        t.Due (.nameLookupAnswer q (BitVec.ofNat 64 (2 ^ 63 + 8))))) ∧
    (∀ w, q.op ≠ .chbind → exec (.nameLookupAnswer q w) s = exec (.fill q.dest w) s)

/-- PINFO, SUSP, RESM and MIGR send lookups, which act at the process. -/
def Obligations.Lookups : Prop :=
  Claims.LookupsSetOut ∧ Claims.LookupsAct

/-- 06 R153, R154, R156: SPAWN, in every form, for a core that can be reached empties d, sends START with the spawn word and g1 to g4 and retires. The core is the target of the spawn word or, with .PLACE, the one that the level's domain gives; the group is the issuer's or the one that b names, in which a place is reserved, or with .N a new one with a free identifier of the issuer's node. A malformed spawn word is ILLEGAL; SUP at U, and a group that the issuer does not supervise, give code 0x07; a domain without a core gives 0x04. -/
def Claims.SpawnSendsStart : Prop :=
  ∀ (s : State) (k : Nat) (p : Proc) (d : Reg) (a b : Src) (n pl : BitVec 1) (v : BitVec 3) (w y a1 a2 a3 a4 : Word) (l : Launch) (e : LaunchEntry),
    let fs := [srcField a 0, srcField b 1] ++ [1, 2, 3, 4].map (fun r => plainField (BitVec.ofNat 4 r) 3)
    let level := l.words.getD (16 + v.toNat) 0
    let gid := if n = 1 ∨ y = 0 then p.gid else y.toNat
    let denied (code : Nat) : State := ((s.produce k d).after 1 (.fill (p.dest d) (BitVec.ofNat 64 (2 ^ 63 + code)))).retire k (consumeMask p fs) []
    s.Runs k p fs [w, y, a1, a2, a3, a4] [d] → (d ≠ 0 → (p.cell d).out < 3) →
    s.launchOf p = some l → tget s.ltab (p.core * 16 + p.launch) = some e →
    (2 ^ 48 ≤ w.toNat ∨ w.toNat / 2 ^ 32 % 4 ≠ 0 ∨ 4 < w.toNat / 4 % 8 → exec (.spawn d a b n pl v) s = .next (s.raiseWord k 0x01)) ∧
    (w.toNat < 2 ^ 48 → w.toNat / 2 ^ 32 % 4 = 0 → w.toNat / 4 % 8 ≤ 4 →
      (pl = 1 → level.getLsbD 0 = false → exec (.spawn d a b n pl v) s = .next (s.raiseWord k 0x01)) ∧
      ((pl = 1 → level.getLsbD 0 = true) → (pl = 0 → coreIdOk (w.toNat / 2 ^ 7 % 2 ^ 25) = true) →
        (w.toNat % 2 = 1 ∧ p.level = 0 → exec (.spawn d a b n pl v) s = .next (denied 7)) ∧
        ((w.toNat % 2 = 1 → 1 ≤ p.level) → n = 0 → gid ≠ p.gid → s.supervises p gid = false → exec (.spawn d a b n pl v) s = .next (denied 7)) ∧
        ((w.toNat % 2 = 1 → 1 ≤ p.level) → (n = 0 → gid ≠ p.gid → s.supervises p gid = true) →
          (pl = 1 → s.choosePlace l p.core (level.toNat / 2 % 8) (w.toNat / 4 % 8) = none → exec (.spawn d a b n pl v) s = .next (denied 4)) ∧
          (∀ core, (pl = 0 → core = w.toNat / 2 ^ 7 % 2 ^ 25) →
            (pl = 1 → s.choosePlace l p.core (level.toNat / 2 % 8) (w.toNat / 4 % 8) = some core) →
            (s.reachesCore p.core core = false → exec (.spawn d a b n pl v) s = .next (denied 4)) ∧
            (s.reachesCore p.core core = true → (∀ z ∈ (s.core p.core).sb, z.name ≠ p.name) → s.NoAtomics p.name →
              ∃ (u : State) (m : StartMsg), exec (.spawn d a b n pl v) s = .next (u.retire k (consumeMask p fs) []) ∧ m.core = core ∧
                m.spawn = w ∧ m.level = w.toNat % 2 ∧ m.args = [a1, a2, a3, a4] ∧ m.launch = e.launch ∧ m.dest = p.dest d ∧
                m.newGroup = decide (n = 1) ∧ m.member = none ∧ u.DueIn (s.oneway p.core core) (.start m) ∧
                (n = 0 → m.gid = gid ∧ ∀ g, s.group? gid = some g → (u.group? gid).map Group.pending = some (g.pending + 1)) ∧
                (n = 1 → ∀ g, s.freeGid l e.node = some g →
                  m.gid = g ∧ (u.group? g).map (fun x => (x.home, x.pending, x.supervisor)) = some (core, 1, s.supervisorFor p)))))))

/-- 06 R154, R155 and Table 6.4: START at a core with a free record, an extension, and no check failing makes a process: READY at the tail of its pen, its pc at the entry, g1 to g4 its arguments, every other register 0 and all full, at the level and in the group that START names, with a name whose generation is one higher; the answer sets out with GID and name. -/
def Claims.StartCreates : Prop :=
  ∀ (s : State) (m : StartMsg) (l : Launch) (g : Group) (e : LaunchEntry) (i r x : Nat),
    tget s.launches m.launch = some l → m.core ∈ l.nodes → s.ltabIndex m.core m.launch = some i → tget s.ltab (m.core * 16 + i) = some e →
    s.isQuiet m.core = false → s.group? m.gid = some g → g.killed = none → m.member = none → m.newGroup = false →
    s.startCheck l m.core (spawnVec m.spawn) = 0 → s.freeRecord m.core = some r → s.freeExtension m.core = some x →
    ∃ (t : State) (q : Proc), exec (.start m) s = .next t ∧ t.proc (m.core * 256 + r) = some q ∧ q.st = .ready ∧
      q.pc = BitVec.ofNat 16 (m.spawn.toNat / 2 ^ 32 % 2 ^ 16) ∧ q.prio = m.spawn.toNat / 2 ^ 5 % 4 ∧ q.level = m.level ∧ q.gid = m.gid ∧
      (∀ n : Reg, q.full n = true ∧ q.reg n = if 1 ≤ n.toNat ∧ n.toNat ≤ 4 then m.args.getD (n.toNat - 1) 0 else 0) ∧
      q.name = m.core / 8192 * 2 ^ 28 + m.core % 8192 * 2 ^ 15 + (tgetD s.gens (m.core * 256 + r) 0 + 1) % 128 * 2 ^ 8 + r ∧
      (t.core m.core).pens[q.prio]! = (s.core m.core).pens[q.prio]! ++ [r] ∧
      (t.group? m.gid).map Group.live = some (g.live ++ [q.name]) ∧
      t.DueIn (s.oneway m.core m.from0) (.startAnswer m (BitVec.ofNat 64 (m.gid * 2 ^ 48 + q.name))) ∧
      (∀ w, exec (.startAnswer m w) t = exec (.fill m.dest w) t)

/-- 06 R155: GANG on the four compute cores of a fold or, with .8, of that and the fold to the east, each of which can take a member, makes a new group, reserves on every core and sends the members' STARTs so that they arrive by their distances from one instant; .8 is refused with 0x06 at the die's edge. -/
def Claims.GangStartsMembers : Prop :=
  ∀ (s : State) (k : Nat) (p : Proc) (d : Reg) (a : Src) (e8 : BitVec 1) (w a1 a2 a3 a4 : Word) (l : Launch) (e : LaunchEntry) (f : Nat),
    let fs := [srcField a 0] ++ [1, 2, 3, 4].map (fun r => plainField (BitVec.ofNat 4 r) 3)
    let size := if e8 = 1 then 8 else 4
    let core (i : Nat) : Nat := 8 * (f + i / 4) + i % 4
    s.Runs k p fs [w, a1, a2, a3, a4] [d] → (d ≠ 0 → (p.cell d).out < 3) → s.launchOf p = some l → tget s.ltab (p.core * 16 + p.launch) = some e →
    w.toNat < 2 ^ 48 → w.toNat / 2 ^ 32 % 4 = 0 → w.toNat / 4 % 8 ≤ 4 → w.toNat / 2 ^ 7 % 2 ^ 25 = 8 * f → coreIdOk (8 * f) = true →
    (w.toNat % 2 = 1 → 1 ≤ p.level) → (∀ z ∈ (s.core p.core).sb, z.name ≠ p.name) → s.NoAtomics p.name →
    (f % 256 % 12 = 11 → exec (.gang d a 1) s = .next (((s.produce k d).after 1
      (.fill (p.dest d) (BitVec.ofNat 64 (2 ^ 63 + 6)))).retire k (consumeMask p fs) [])) ∧
    (∀ g : Nat, (e8 = 1 → f % 256 % 12 ≠ 11) → s.reachesCore p.core (8 * f) = true →
      (∀ i < size, core i ∈ l.nodes ∧ (s.ltabIndex (core i) e.launch).isSome ∧ s.startCheck l (core i) (w.toNat / 4 % 8) = 0) →
      s.homes (8 * f) < 32 → s.freeGid l e.node = some g →
      ∃ (u : State) (y : Group) (n : Nat), exec (.gang d a e8) s = .next (u.retire k (consumeMask p fs) []) ∧ u.group? g = some y ∧ y.pending = size ∧
        y.home = 8 * f ∧ y.gang = size ∧ ∀ i < size, ∃ m : StartMsg, m.core = core i ∧ m.member = some i ∧ m.gid = g ∧ m.spawn = w ∧
          m.args = [a1, a2, a3, a4] ∧ u.DueIn (n + s.oneway p.core (core i)) (.start m))

/-- SPAWN, GANG and START create processes. -/
def Obligations.ProcessesStart : Prop :=
  Claims.SpawnSendsStart ∧ Claims.StartCreates ∧ Claims.GangStartsMembers

/-- 06 R169 and R170, 07 R213: GARR sends the arrival in the current phase to the home and gives the phase; GBAR does so and waits; GWAIT goes on once its phase has completed, and waits before; GEXP adds an expectation, none for a count of 0; the last arrival completes the phase and its waiters go on. -/
def Claims.BarrierPhases : Prop :=
  ∀ (s : State) (k : Nat) (p : Proc) (g : Group), s.Issues k p → s.group? p.gid = some g → (∀ z ∈ (s.core p.core).sb, z.name ≠ p.name) → s.NoAtomics p.name →
    (∀ d, s.Takes p [d] → p.name ∉ g.arrived → p.arriving ≠ some g.phase →
      (∃ (u : State) (q : Proc), exec (.garr d) s = .next (u.retire k 0 [(d, BitVec.ofNat 64 g.phase)]) ∧
        u.DueIn (s.oneway p.core g.home) (.barrierArrival p.gid p.name) ∧ u.proc k = some q ∧ q.arriving = some g.phase) ∧
      (∃ (t : State) (q : Proc), exec (.gbar d) s = .next t ∧ t.DueIn (s.oneway p.core g.home) (.barrierArrival p.gid p.name) ∧
        t.proc k = some q ∧ q.st = .blocked ∧ q.wait = .barrier g.phase ∧ q.hold.bind Hold.dst = some d ∧ q.pc = p.pc)) ∧
    (∀ (a : Src) (x : Word), s.Runs k p [srcField a 0] [x] [] →
      (x.toNat < g.phase → exec (.gwait a) s = .next (s.retire k (consumeMask p [srcField a 0]) [])) ∧
      (g.phase ≤ x.toNat → exec (.gwait a) s = .next (s.block k (.barrier x.toNat)))) ∧
    (∀ (a b : Src) (x : Word), s.Runs k p [srcField a 0, srcField b 1] [x, 0] [] →
      exec (.gexp a b) s = .next (s.retire k (consumeMask p [srcField a 0, srcField b 1]) [])) ∧
    (∀ (a b : Src) (x y : Word) (ke : Nat) (z : Ep), s.Runs k p [srcField a 0, srcField b 1] [x, y] [] → y ≠ 0 →
      s.handle p.name (x.toNat % 64) = some (ke, z) → g.expects.length < 16 →
      exec (.gexp a b) s = .next ((s.putGroup p.gid { g with expects := g.expects ++ [(p.name, ke, y.toNat)] }).retire k
        (consumeMask p [srcField a 0, srcField b 1]) [])) ∧
    (∀ j r n, s.named n = some (j, r) → r.gid = p.gid → n ∈ g.live → n ∉ g.arrived → g.pending = 0 →
      ∃ t : State, exec (.barrierArrival p.gid n) s = .next t ∧
        (g.expects = [] → (∀ y ∈ g.live, y ∈ g.arrived ∨ y = n) →
          ((t.group? p.gid).map (fun y => (y.phase, y.arrived))) = some (g.phase + 1, [])) ∧
        ((∃ y ∈ g.live, y ∉ g.arrived ∧ y ≠ n) →
          ((t.group? p.gid).map (fun y => (y.phase, y.arrived))) = some (g.phase, g.arrived ++ [n])))

/-- 06 R160 and R177: EXIT blocks its process until its stores are complete; then its status is folded into the done accumulators of its launch, LIVE falls by one, and its name names no process any more. While a store is in the buffer nothing happens; while an engine still writes for it, it is tried again. -/
def Claims.ExitEnds : Prop :=
  ∀ (s : State) (k : Nat) (p : Proc),
    (∀ (a : Src) (x : Word), s.Runs k p [srcField a 0] [x] [] →
      ∃ (t : State) (q : Proc), exec (.exit a) s = .next t ∧ t.proc k = some q ∧ q.st = .blocked ∧ q.wait = .exitDrain ∧ q.exiting = some x ∧
        q.pc = p.pc ∧ q.regs = p.regs ∧ t.DueIn 1 (.exitDrainComplete p.name) ∧ t.mem = s.mem) ∧
    (∀ x e, s.named p.name = some (k, p) → p.wait = .exitDrain → p.exiting = some x → tget s.ltab (p.core * 16 + p.launch) = some e →
      ((∃ y ∈ (s.core p.core).sb, y.name = p.name) → exec (.exitDrainComplete p.name) s = .next s) ∧
      ((∀ y ∈ (s.core p.core).sb, y.name ≠ p.name) → s.engineBusy p = true →
        exec (.exitDrainComplete p.name) s = .next (s.after 1 (.exitDrainComplete p.name))) ∧
      ((∀ y ∈ (s.core p.core).sb, y.name ≠ p.name) → s.engineBusy p = false → p.st = .blocked →
        ∃ t : State, exec (.exitDrainComplete p.name) s = .next t ∧ t.keyOf p.name = none ∧
          (tget t.ltab (p.core * 16 + p.launch)).map (fun y => (y.launch, y.live, y.count)) =
            some (e.launch, e.live - 1, min (e.count + x.toNat % 2 ^ 48) (2 ^ 48 - 1))))

/-- 06 R161 and R162: KILLG of a group that does not exist gives code 0x08, of one that its issuer does not supervise 0x07; else the kill reaches every core that holds a member in one cycle, where the members end and are counted, and GROUP_RELEASE gives back the GID and the number killed. -/
def Claims.KillsGroups : Prop :=
  (∀ (s : State) (k : Nat) (p : Proc) (d : Reg) (a : Src) (x : Word), s.Runs k p [srcField a 0] [x] [d] → (d ≠ 0 → (p.cell d).out < 3) →
    (p.level = 0 → exec (.killg d a) s = .next (s.raiseWord k 0x02)) ∧
    (1 ≤ p.level → s.group? x.toNat = none →
      exec (.killg d a) s = .next (((s.produce k d).after 2 (.fill (p.dest d) (BitVec.ofNat 64 (2 ^ 63 + 8)))).retire k
        (consumeMask p [srcField a 0]) [])) ∧
    (∀ g, 1 ≤ p.level → s.group? x.toNat = some g → g.killed = none →
      (p.level ≠ 2 → g.supervisor ≠ p.name → exec (.killg d a) s = .next (((s.produce k d).after (2 * s.oneway p.core g.home)
        (.fill (p.dest d) (BitVec.ofNat 64 (2 ^ 63 + 7)))).retire k (consumeMask p [srcField a 0]) [])) ∧
      (p.level = 2 ∨ g.supervisor = p.name → ∃ (u : State) (n : Nat), exec (.killg d a) s = .next (u.retire k (consumeMask p [srcField a 0]) []) ∧
        (u.group? x.toNat).map Group.killed = some (some (p.dest d, 0)) ∧
        ∀ e ∈ s.procs, e.2.gid = x.toNat → u.DueIn n (.killArrival x.toNat e.2.core)))) ∧
  (∀ (s : State) (gid core k : Nat) (p : Proc) (g : Group) (d : FillTo) (n : Nat),
    (s.onCore core).filter (fun e => e.2.gid == gid) = [(k, p)] → s.proc k = some p → p.st ≠ .migrating → s.killWaits p = false →
    s.group? gid = some g → g.killed = some (d, n) →
    ∃ t : State, exec (.killArrival gid core) s = .next t ∧ t.keyOf p.name = none ∧ (t.group? gid).map Group.killed = some (some (d, n + 1))) ∧
  (∀ (s : State) (gid : Nat) (g : Group) (d : FillTo) (n : Nat), s.group? gid = some g → g.killed = some (d, n) → g.live = [] → g.pending = 0 →
    g.hostKill = none →
    (∀ j q, s.named g.supervisor = some (j, q) → q.wait ≠ .trapw) →
    ∃ t : State, exec (.groupRelease gid) s = .next t ∧ t.group? gid = none ∧ t.Due (.fill d (BitVec.ofNat 64 n)) ∧
      { t with groups := s.groups, agenda := s.agenda } = s)

/-- Barriers, EXIT and KILLG. -/
def Obligations.GroupsEnd : Prop :=
  Claims.BarrierPhases ∧ Claims.ExitEnds ∧ Claims.KillsGroups

/-- 06 R164: TRAPW takes the oldest notification of its process's queue; with an empty queue it waits, or gives all ones with .P or if no group it supervises lives. The notification of a TRAPPED process goes into the queue of 16 of its supervisor, waits while that is full, or ends the supervisor's TRAPW. -/
def Claims.Notifications : Prop :=
  (∀ (s : State) (k : Nat) (p : Proc) (d : Reg) (w : BitVec 1), s.Issues k p → s.Takes p [d] →
    (p.level = 0 → exec (.trapw d w) s = .next (s.raiseWord k 0x02)) ∧
    (∀ n rest, 1 ≤ p.level → tgetD s.supq p.name [] = n :: rest → ∃ u : State, exec (.trapw d w) s = .next (u.retire k 0 [(d, n)]) ∧
      tgetD u.supq p.name [] = rest ∧ u.procs = s.procs) ∧
    (1 ≤ p.level → tgetD s.supq p.name [] = [] → w = 1 ∨ (∀ e ∈ s.groups, e.2.supervisor = p.name → e.2.live = [] ∧ e.2.pending = 0) →
      exec (.trapw d w) s = .next (s.retire k 0 [(d, BitVec.allOnes 64)])) ∧
    (1 ≤ p.level → tgetD s.supq p.name [] = [] → w = 0 → (∃ e ∈ s.groups, e.2.supervisor = p.name ∧ e.2.live ≠ []) →
      ∃ (t : State) (q : Proc), exec (.trapw d w) s = .next t ∧ t.proc k = some q ∧ q.st = .blocked ∧ q.wait = .trapw ∧ q.pc = p.pc)) ∧
  (∀ (s : State) (name sup ks : Nat) (q : Proc) (note : Word), s.heldNotes = [(sup, note)] → note.toNat % 2 ^ 40 = name →
    s.named sup = some (ks, q) →
    (q.wait ≠ .trapw → (tgetD s.supq sup []).length < 16 →
      ∃ t : State, exec (.notificationDelivery name) s = .next t ∧ tgetD t.supq sup [] = tgetD s.supq sup [] ++ [note] ∧
        t.heldNotes = [] ∧ t.procs = s.procs) ∧
    (q.wait ≠ .trapw → 16 ≤ (tgetD s.supq sup []).length → exec (.notificationDelivery name) s = .next s) ∧
    (∀ h d, q.wait = .trapw → q.hold = some h → h.dst = some d → ∃ u : State, exec (.notificationDelivery name) s =
      .next ((u.retire ks h.consume [(d, note)]).ready ks) ∧ u.procs = s.procs ∧ u.heldNotes = []))

/-- 06 R165: QUIESCE asks every process of the folds of a rectangle to stop and watches the folds; QUIESCE_STILL fills d with 0 once they have been still for 64 cycles and looks again in the next cycle otherwise; QUIESCE.R ends the watch of the rectangle, lets the processes that it suspended go on, and fills d with 0. Corners on two dies give code 0x0A. -/
def Claims.Quiescence : Prop :=
  (∀ (s : State) (k : Nat) (p : Proc) (d : Reg) (a b : Src) (x y : Word), s.Runs k p [srcField a 0, srcField b 1] [x, y] [d] →
    (d ≠ 0 → (p.cell d).out < 3) → 1 ≤ p.level → coreIdOk x.toNat = true → coreIdOk y.toNat = true → (s.procs.map Prod.fst).Nodup →
    (dieOf x.toNat ≠ dieOf y.toNat → ∀ i ∈ [Instr.quiesce d a b, Instr.quiesceR d a b],
      exec i s = .next (((s.produce k d).after 1 (.fill (p.dest d) (BitVec.ofNat 64 (2 ^ 63 + 10)))).retire k
        (consumeMask p [srcField a 0, srcField b 1]) [])) ∧
    (dieOf x.toNat = dieOf y.toNat → p.level = 2 →
      (∃ u : State, exec (.quiesce d a b) s = .next (u.retire k (consumeMask p [srcField a 0, srcField b 1]) []) ∧
        u.DueIn 64 (.quiesceStill (p.dest d)) ∧ u.quiet = s.quiet ++ [(p.name, rectangle (foldOf x.toNat) (foldOf y.toNat), s.cycle)] ∧
        ∀ j q, j ≠ k → s.proc j = some q → foldOf (j / 256) ∈ rectangle (foldOf x.toNat) (foldOf y.toNat) →
          q.st ∈ [.ready, .resident, .parked, .blocked, .sleeping] → q.quiesced = none → ∃ r, u.proc j = some r ∧ r.suspend = q.suspend ++ [⟨0, 0, 0⟩] ∧ r.quiesced.isSome) ∧
      (∃ u : State, exec (.quiesceR d a b) s = .next (u.retire k (consumeMask p [srcField a 0, srcField b 1]) []) ∧
        u.DueIn 1 (.fill (p.dest d) 0) ∧
        (∀ q, q ∈ u.quiet ↔ q ∈ s.quiet ∧ q.2.1 ≠ rectangle (foldOf x.toNat) (foldOf y.toNat)) ∧
        ∀ j q, j ≠ k → s.proc j = some q → foldOf (j / 256) ∈ rectangle (foldOf x.toNat) (foldOf y.toNat) →
          q.quiesced = some (rectangleId (rectangle (foldOf x.toNat) (foldOf y.toNat))) → q.st = .suspended → q.prev = .ready →
          ∃ r, u.proc j = some r ∧ r.st = .ready ∧ r.quiesced = none))) ∧
  (∀ (s : State) (d : FillTo) (fs : List Nat) (c : Nat), s.quiet = [(d.name, fs, c)] →
    (s.stirs fs = false → c + 64 ≤ s.cycle → exec (.quiesceStill d) s = exec (.fill d 0) s) ∧
    (s.stirs fs = true → ∃ t : State, exec (.quiesceStill d) s = .next t ∧ t.DueIn 1 (.quiesceStill d) ∧ t.quiet = [(d.name, fs, s.cycle)]))

/-- Notifications, TRAPW and QUIESCE. -/
def Obligations.Supervision : Prop :=
  Claims.Notifications ∧ Claims.Quiescence

/-- 06 R166 and R167: a process in transit lands at a core with room under the same name, with the same registers, and the answer 0 sets out; without a free record it is refused with 0x09, at a fenced fold with 0x04, and its process is again as it was. An end learns its peer's new place, and a moved end's entry goes once nothing points to it. -/
def Obligations.Migrations : Prop :=
  (∀ (s : State) (m : Mig) (k : Nat) (p : Proc) (l : Launch) (e : LaunchEntry), s.named m.name = some (k, p) → s.launchOf p = some l →
    tget s.ltab (p.core * 16 + p.launch) = some e → (s.ltabIndex m.target e.launch).isSome → p.name = m.name →
    s.endsOf p.name = [] → s.isQuiet m.target = false → p.hold = none →
    (s.freeRecord m.target = none → (s.fold (foldOf m.target)).fenced = false → ∃ t : State, exec (.migrationArrival m) s = .next t ∧ t.procs = s.procs ∧
      t.DueIn (s.oneway m.target m.from0) (.migrationAnswer m 9)) ∧
    ((s.fold (foldOf m.target)).fenced = true → ∃ t : State, exec (.migrationArrival m) s = .next t ∧ t.procs = s.procs ∧
      t.DueIn (s.oneway m.target m.from0) (.migrationAnswer m 4)) ∧
    (∀ r x, s.freeRecord m.target = some r → s.freeExtension m.target = some x → p.vcount = 0 → s.canAdopt p m.target = true →
      (s.onCore m.target).length + (s.core m.target).reserved < 256 →
      (s.onCore m.target).length + (s.core m.target).reserved < (s.core m.target).extSize → (s.fold (foldOf m.target)).fenced = false →
      (∀ g, s.group? p.gid = some g → g.killed = none) → k ≠ m.target * 256 + r →
      ∃ (t : State) (q : Proc), exec (.migrationArrival m) s = .next t ∧ t.proc (m.target * 256 + r) = some q ∧ t.keyOf m.name = some (m.target * 256 + r) ∧
        q.name = p.name ∧ q.core = m.target ∧ q.idx = r ∧ q.regs = p.regs ∧ q.pc = p.pc ∧ t.Due (.migrationAnswer m 0))) ∧
  (∀ (s : State) (m : Mig), ∃ t : State, exec (.migrationAnswer m 0) s = .next t ∧ t.Due (.fill m.dest 0) ∧ t.procs = s.procs) ∧
  (∀ (s : State) (m : Mig) (k : Nat) (p : Proc) (code : Nat), code ≠ 0 → s.named m.name = some (k, p) → p.st = .migrating → p.mprev = .ready → p.hold = none → s.endsOf p.name = [] →
    (∀ g, s.group? p.gid = some g → g.killed = none) →
    ∃ (t : State) (q : Proc), exec (.migrationAnswer m code) s = .next t ∧ t.Due (.fill m.dest (BitVec.ofNat 64 (2 ^ 63 + code))) ∧
      t.proc k = some q ∧ q.st = .ready ∧ q.regs = p.regs ∧ q.pc = p.pc ∧ q.core = p.core) ∧
  (∀ (s : State) (key ke : Nat) (loc : EndLoc) (e : Ep), key / 512 % 8 ≠ 7 → s.endAt ⟨key / 512, key % 512, 0⟩ = some (ke, e) →
    locKey (s.follow 64 e.peer) = locKey (s.follow 64 loc) →
    ∃ t : State, exec (.locationUpdate key loc) s = .next t ∧ (t.ep ke).map Ep.peer = some (s.follow 64 loc) ∧ { t with eps := s.eps } = s) ∧
  (∀ (s : State) (key : Nat) (e : Ep), s.ep key = some e → e.fwd.isSome → e.st = .forward → s.droversName key = false →
    (∀ x ∈ s.eps, locKey x.2.peer ≠ key) → ∃ t : State, exec (.forwardExpiry key) s = .next t ∧ t.ep key = none ∧ { t with eps := s.eps } = s)

/-- 06 R171 to R174, 01 R20 to R22: a launch record that breaks a rule is answered with REFUSED and its code and has no other effect; any other becomes a launch with its placed cores, in the order of the done tree; the header then sets out for every placed core, which enters the launch with its node index and WIN0. -/
def Claims.LaunchesTakeEffect : Prop :=
  (∀ (s : State) (pkg : Nat) (src : Source) (ws : List Word), (s.pkg pkg).booted = true → (s.pkg pkg).power ≠ 2 →
    (s.recordCode src ws ≠ 0 → exec (.launchRecord pkg src ws) s =
      .next (s.toSource pkg src 6 0 [ws.getD 1 0, BitVec.ofNat 64 (2 ^ 62) ||| BitVec.ofNat 64 (s.recordCode src ws)])) ∧
    (s.recordCode src ws = 0 → ∃ (t : State) (l : Launch), exec (.launchRecord pkg src ws) s = .next t ∧ tget t.launches s.nextLaunch = some l ∧
      l.nodes = recNodes ws ∧ l.asid = (ws.getD 2 0).toNat % 2 ^ 16 ∧ l.root = (ws.getD 3 0).toNat ∧ l.launchId = ws.getD 1 0 ∧
      t.Due (.launchTakeEffect s.nextLaunch) ∧ t.procs = s.procs ∧ t.mem = s.mem)) ∧
  (∀ (s : State) (n : Nat) (l : Launch), tget s.launches n = some l → l.src = .host →
    ∃ t : State, exec (.launchTakeEffect n) s = .next t ∧ (tget t.launches n).map Launch.started = some true ∧
      (∀ c ∈ l.nodes, t.DueIn (s.headerTime l.pkg c) (.launchHeader n c)) ∧ t.procs = s.procs ∧ t.mem = s.mem) ∧
  (∀ (s : State) (n c i j : Nat) (l : Launch), tget s.launches n = some l → l.nodes[j]? = some c → l.nodes.Nodup →
    (List.range 16).find? (fun x => (tget s.ltab (c * 16 + x)).isNone) = some i →
    (j ≠ 0 → ∃ t : State, exec (.launchHeader n c) s = .next t ∧ tget t.ltab (c * 16 + i) = some { launch := n, node := j } ∧
      (t.core c).wins[0] = l.words.getD 11 0 ∧ t.procs = s.procs) ∧
    (j = 0 → ∀ r x, s.ltabIndex c n = none → s.freeRecord c = some r →
      leastFree ((s.onCore c).map (fun e => e.2.extix)) 0 (max (s.core c).extSize (recExts l.words c)) = some x →
      l.words.length = 24 + recPlace l.words + recImages l.words →
      ∃ (t : State) (q : Proc), exec (.launchHeader n c) s = .next t ∧ t.proc (c * 256 + r) = some q ∧ q.st = .ready ∧ q.level = 1 ∧ q.gid = l.gbase ∧
        q.reg 1 = l.words.getD 5 0 ∧ q.reg 2 = l.words.getD 6 0 ∧ q.reg 3 = l.words.getD 7 0 ∧ q.reg 4 = l.words.getD 8 0 ∧
        q.pc = BitVec.ofNat 16 ((l.words.getD 4 0).toNat / 2 ^ 32 % 2 ^ 16) ∧ t.DueIn 1 (.detectionWave n 0)))

/-- 06 R176 and R177: a wave goes on from a node to its children; a node with no live process, no write of theirs outstanding and whose children have all answered sends the sums of its subtree to its parent; at the root, sums equal to those of the wave before with SENT = TAKEN complete the launch, and any other starts the next wave. -/
def Claims.DoneTree : Prop :=
  ∀ (s : State) (n i : Nat) (l : Launch) (e : LaunchEntry), tget s.launches n = some l → s.ltabOf (l.nodes.getD i 0) n = some e →
    (∃ t : State, exec (.detectionWave n i) s = .next t ∧ (tget t.launches n).map Launch.reached = some (i :: l.reached) ∧
      ∀ c, 4 * i + 1 ≤ c → c ≤ 4 * i + 4 → c < l.nodes.length →
        t.DueIn (s.oneway (l.nodes.getD i 0) (l.nodes.getD c 0)) (.detectionWave n c)) ∧
    (4 * i + 1 ≥ l.nodes.length → s.writesLeft l (l.nodes.getD i 0) = false → i ∈ l.reached → (∀ a ∈ l.answered, a.1 ≠ i) → e.live = 0 →
      let own : Sums := { sent := e.sent, taken := e.taken, count := e.count, err := e.err }
      (i ≠ 0 → ∃ t : State, exec (.detectionAnswer n i) s = .next t ∧ (tget t.launches n).map Launch.answered = some ((i, own) :: l.answered) ∧
        t.DueIn (s.oneway (l.nodes.getD i 0) (l.nodes.getD ((i - 1) / 4) 0)) (.detectionAnswer n ((i - 1) / 4))) ∧
      (i = 0 → l.last = some own → own.sent = own.taken → exec (.detectionAnswer n i) s =
        .next ({ s with ltab := s.ltab.filter (fun y => y.2.launch != n), launches := tdel s.launches n }.toSource l.pkg l.src 6 0
          [l.launchId, own.err ||| BitVec.ofNat 64 own.count])) ∧
      (i = 0 → ¬ (l.last = some own ∧ own.sent = own.taken) → ∃ t : State, exec (.detectionAnswer n i) s = .next t ∧
        (tget t.launches n).map Launch.last = some (some own) ∧ t.DueIn 1 (.detectionWave n 0)))

/-- Launches take effect, and the done tree completes them. -/
def Obligations.Launches : Prop :=
  Claims.LaunchesTakeEffect ∧ Claims.DoneTree

/-- 06 R147 and R149: at a rotation boundary a READY process at the head of its pen takes the lowest free slot, is RESIDENT, and may issue 6 cycles later; a light resident whose quantum ends counts as expired; a spent budget is 0, and the end of the urgent window loads it again and clears urgent marks. -/
def Obligations.PensFillSlots : Prop :=
  (∀ (s : State) (c : Nat) (p : Proc), s.onCore c = [(c * 256 + p.idx, p)] → s.proc (c * 256 + p.idx) = some p → p.core = c → p.prio < 4 → p.slot < 8 → p.st = .ready →
    p.wait = .none → p.suspend = [] → p.migrate = none → p.vcount = 0 → p.borrow = none → penWeight (s.core c).penw p.prio ≠ 0 →
    (∀ q ∈ p.ports.toList, q.held = []) → (∀ x ∈ s.agenda, ∀ i, x.2 ≠ .quantumExpiry c i) →
    (s.core c).pens = (Vector.replicate 4 []).set! p.prio [p.idx] →
    (∀ i < 8, (s.slot (c * 8 + i)).occ = none ∧ (s.slot (c * 8 + i)).lent = none ∧ (s.slot (c * 8 + i)).busy ≤ s.cycle) →
    ∃ (t : State) (q : Proc), exec (.rotationBoundary c) s = .next t ∧ t.proc (c * 256 + p.idx) = some q ∧ q.st = .resident ∧ q.slot = 0 ∧
      q.regs = p.regs ∧ q.pc = p.pc ∧ (t.slot (c * 8)).occ = some p.idx ∧ (t.slot (c * 8)).next = s.cycle + 6 ∧
      (t.core c).pens[p.prio]! = [] ∧ t.mem = s.mem) ∧
  (∀ (s : State) (c i k : Nat) (p : Proc), s.resident c i = some (k, p) → s.proc k = some p → (s.core c).pens = Vector.replicate 4 [] →
    (p.heavy = true → ∃ t : State, exec (.quantumExpiry c i) s = .next t ∧ t.procs = s.procs) ∧
    (p.heavy = false → ∃ (t : State) (q : Proc), exec (.quantumExpiry c i) s = .next t ∧ t.proc k = some q ∧ q.expired = true ∧
      { q with expired := p.expired } = p)) ∧
  (∀ (s : State) (c : Nat),
    (∃ t : State, exec (.budgetExhausted c) s = .next t ∧ (t.core c).budget = 0 ∧ { t with cores := s.cores } = s) ∧
    (∃ t : State, exec (.urgentWindowEnd c) s = .next t ∧ (t.core c).budget = (s.core c).urgb.toNat % 2 ^ 16 ∧
      t.DueIn ((s.core c).urgb.toNat / 2 ^ 16 % 2 ^ 16 * 64) (.urgentWindowEnd c) ∧
      ∀ e ∈ s.procs, e.1 / 256 = c → ∀ q, t.proc e.1 = some q → q.urgent = false))

/-- 04 R80, R81 and R408: the fold translator uses an entry that it holds, and else starts a walk at the table of the address space or joins one for the page; each entry read gives a fault, the next table, or a page; at the end of a walk a load or atomic that waits is tried again, or takes LOAD_FAULT where there is no page or no right to it, and a store faults. -/
def Claims.PageWalks : Prop :=
  (∀ (s : State) (x : Xlat), (s.fold (foldOf x.core)).lookup x.asid x.va = none → (∀ y ∈ (s.fold (foldOf x.core)).walks, samePage x y = false) →
    ∃ t : State, exec (.translatorLookupDone x) s = .next t ∧ (t.fold (foldOf x.core)).walks = (s.fold (foldOf x.core)).walks ++ [x] ∧
      (let a := x.root + x.va / 2 ^ 43 % 2 ^ 12 * 8
       if s.backed a 8 = true ∧ s.poisoned a 8 = false then
         t.DueIn (s.walkTime (foldOf x.core) a) (.pageWalkRead x 1 (BitVec.ofNat 64 (s.loadPhys a 8)))
       else t.DueIn 1 (.pageWalkEnd x none)) ∧
      { t with folds := s.folds, agenda := s.agenda, drovers := s.drovers } = s) ∧
  (∀ (s : State) (x : Xlat) (e : Word) (lvl : Nat), 1 ≤ lvl → lvl ≤ 3 →
    (e.getLsbD 0 = false → exec (.pageWalkRead x lvl e) s = .next (s.after 1 (.pageWalkEnd x none))) ∧
    (e.getLsbD 0 = true → e.getLsbD 1 = false → lvl < 3 → (∀ i ∈ [4, 6, 8, 9, 10, 11], e.getLsbD i = false) → e.toNat / 2 ^ 12 * 2 ^ 12 % 2 ^ 15 = 0 →
      exec (.pageWalkRead x lvl e) s = .next (s.walkRead x (lvl + 1) (e.toNat / 2 ^ 12 * 2 ^ 12))) ∧
    (e.getLsbD 0 = true → e.getLsbD 1 = true → lvl = 3 → (∀ i ∈ [4, 6, 8, 9, 10, 11], e.getLsbD i = false) → e.toNat / 2 ^ 12 * 2 ^ 12 % 2 ^ 19 = 0 →
      exec (.pageWalkRead x lvl e) s = .next (s.after 1 (.pageWalkEnd x (some
        { asid := x.asid, va := x.va / 2 ^ 19 * 2 ^ 19, size := 2 ^ 19, pa := e.toNat / 2 ^ 12 * 2 ^ 12,
          r := e.getLsbD 2, w := e.getLsbD 3, u := e.getLsbD 5, g := e.getLsbD 7 })))) ∧
    (e.getLsbD 0 = true → (∃ i ∈ [4, 6, 9, 10, 11], e.getLsbD i = true) → exec (.pageWalkRead x lvl e) s = .next (s.after 1 (.pageWalkEnd x none)))) ∧
  (∀ (s : State) (x : Xlat) (k : Nat) (p : Proc), (s.fold (foldOf x.core)).walks = [x] → x.store = none → s.named x.name = some (k, p) → p.wait = .xlat → p.st = .parked →
    (∀ y : Tlb, tlbGrants y x.level x.needR x.needW = true → ∃ (t : State) (q : Proc), exec (.pageWalkEnd x (some y)) s = .next t ∧ t.proc k = some q ∧ q.st = .resident ∧ q.wait = .none ∧ q.pc = p.pc ∧
      (t.core x.core).tlb.head? = some y ∧ (t.fold (foldOf x.core)).walks = []) ∧
    (∀ y : Tlb, tlbGrants y x.level x.needR x.needW = false → p.restart = 0 → p.hold = none →
      ∃ u : State, exec (.pageWalkEnd x (some y)) s = .next (u.raise k 0x04 (BitVec.ofNat 64 x.va)) ∧ u.procs = s.procs) ∧
    (p.restart = 0 → p.hold = none → ∃ u : State, exec (.pageWalkEnd x none) s = .next (u.raise k 0x04 (BitVec.ofNat 64 x.va)) ∧
      (u.fold (foldOf x.core)).walks = [] ∧ u.procs = s.procs))

/-- 04 R84 and R85: a store that is refused or unbacked leaves the buffer and writes a record with its address, data and cause into the queue of eight; its process stops, TRAPPED with STORE_FAULT, that address, and the first instruction not issued. When its stores are settled its records go to its extension, oldest first, and its notification sets out. With a full queue the store stays in the buffer. -/
def Claims.StoreFaults : Prop :=
  (∀ (s : State) (core id k cause : Nat) (e : SbEntry) (p : Proc), s.sbEntry core id = some e → e.id = id → e.batch = 0 → s.named e.name = some (k, p) → p.core = core →
    (s.core core).sfq.length < 8 → (∀ r ∈ (s.core core).sfq, r.name ≠ e.name) → p.stopped = false → p.wait = .none → p.hold = none → p.st = .resident →
    ∃ (t : State) (q : Proc), exec (.storeNak core id cause) s = .next t ∧ t.proc k = some q ∧ q.st = .trapped ∧ q.ecause = 0x05 ∧ q.eval = BitVec.ofNat 64 e.va ∧
      q.epc = p.pc ∧ q.regs = p.regs ∧ (∀ y ∈ (t.core core).sb, y.id ≠ id) ∧
      (t.core core).sfq = (s.core core).sfq ++ [{ name := e.name, va := e.va, data := e.data, pc := e.pc, cause := cause, size := e.size, time := s.gtc }] ∧
      t.mem = s.mem) ∧
  (∀ (s : State) (core id k cause : Nat) (e : SbEntry) (p : Proc), s.sbEntry core id = some e → e.batch = 0 → s.named e.name = some (k, p) → p.wait = .none →
    8 ≤ (s.core core).sfq.length → exec (.storeNak core id cause) s = .next (s.modSb core e.id (fun x => { x with stuck := some cause }))) ∧
  (∀ (s : State) (name k : Nat) (p : Proc), s.named name = some (k, p) → p.name = name → p.stopped = true → p.wait = .none → p.ecause = 0x05 →
    (∀ y ∈ (s.core p.core).sb, y.name ≠ p.name ∧ y.stuck = none) →
    ∃ (t : State) (q : Proc), exec (.sfqCopy name) s = .next t ∧ t.proc k = some q ∧ q.sfq = p.sfq ++ (s.core p.core).sfq.filter (fun r => r.name == name) ∧
      q.stopped = false ∧ (∀ r ∈ (t.core p.core).sfq, r.name ≠ name) ∧ t.DueIn 0 (.notificationDelivery name))

/-- Page walks, and stores that fault. -/
def Obligations.PagesAndStoreFaults : Prop :=
  Claims.PageWalks ∧ Claims.StoreFaults

/-- 04 R75 to R78: an access from U towards a window that no window register grants is refused at its target: a load takes WINDOW_NAK with the physical address, a store gets a negative answer. One that is granted and backed is performed: the value fills the load's destination and the load retires, the store's bytes are in memory and its acknowledgement sets out. -/
def Claims.WindowsCheck : Prop :=
  ∀ (s : State) (x : Access) (k c off : Nat) (p : Proc), s.named x.name = some (k, p) → placeOf x.addr = .core c off → c ≠ x.core → x.level = 0 →
    (∀ (r : Reg) (tag : BitVec 2) (sz : Nat) (sg : Bool) (h : Hold), x.kind = .load r tag sz sg → p.wait = .access → p.hold = some h →
      ((s.core c).wins.toList.all (fun w => !winGrants w off x.size x.gid true false (rowOf off).guarded) = true →
        exec (.remoteAccessArrival x) s = .next ((s.putProc k { p.dropHold with st := .resident, wait := .none }).raise k 0x06
          (BitVec.ofNat 64 x.addr))) ∧
      ((s.core c).wins.toList.any (fun w => winGrants w off x.size x.gid true false (rowOf off).guarded) = true →
        s.accessFault p x.addr x.va x.size true = none →
        exec (.remoteAccessArrival x) s = exec (.fill ⟨x.name, r, tag⟩ (extend sz sg (s.readThrough p x.va x.addr sz))) s) ∧
      (h.dst = some r → h.arg = tag.toNat → p.portOf r = none → s.onceDue = [] → ∀ v,
        exec (.fill ⟨x.name, r, tag⟩ v) s =
          .next (((s.putProc k { p.fill r tag v with loads := p.loads.erase (r, tag) }).retire k h.consume []).ready k))) ∧
    (∀ (id : Nat) (e : SbEntry), x.kind = .store id → s.sbEntry x.core id = some e →
      ((s.core c).wins.toList.all (fun w => !winGrants w off x.size x.gid false true (rowOf off).guarded) = true →
        ∃ n, exec (.remoteAccessArrival x) s = .next (s.after n (.storeNak x.core id 0x06))) ∧
      ((s.core c).wins.toList.any (fun w => winGrants w off x.size x.gid false true (rowOf off).guarded) = true → s.backed x.addr x.size = true →
        wordRow x.addr = false → ∃ n, exec (.remoteAccessArrival x) s = .next ((s.performStore x.core e x.addr).after n (.storeAck x.core id))))

/-- 04 Table 4.3: a window register grants an access that lies within its bounds, with its rights, for its group or any. -/
def Claims.WindowRegisterGrants : Prop :=
  ∀ (w : Word) (off size gid : Nat) (rd wr guarded : Bool),
    winGrants w off size gid rd wr guarded = true ↔
      w.getLsbD 40 = true ∧ w.toNat % 2 ^ 15 ≤ off / 64 ∧ (off + size - 1) / 64 ≤ w.toNat / 2 ^ 15 % 2 ^ 15 ∧ (rd = true → w.getLsbD 41 = true) ∧
      (wr = true → w.getLsbD 42 = true) ∧ (guarded = true → w.getLsbD 43 = true) ∧ (w.getLsbD 47 = true ∨ w.toNat / 2 ^ 48 = gid)

/-- 04 R76: a write of a slot register through a window fills the register of the resident process and discards a fill it awaits, but for one in the cycle of a retirement that writes the register (05 Table 5.2); one of a core's CSR row changes the core's register as a CSR write does, and nothing of a process. -/
def Claims.RowsOfTheWindow : Prop :=
  (∀ (s : State) (c i k : Nat) (p : Proc) (r : Reg) (v : Word), s.resident c i = some (k, p) → s.proc k = some p → r ≠ 0 → p.wait = .none →
    (p.doneAt < s.cycle ∨ p.wrote.getLsbD r.toNat = false) →
    ∃ (t : State) (q : Proc), exec (.slotRegisterWrite c i r v) s = .next t ∧ t.proc k = some q ∧ q.reg r = v ∧ q.full r = true ∧ (q.cell r).pend = false ∧
      (∀ n, n ≠ r → q.cell n = p.cell n) ∧ { q with regs := p.regs } = p ∧ (∀ j, j ≠ k → t.proc j = s.proc j)) ∧
  (∀ (s : State) (c i k : Nat) (p : Proc) (r : Reg) (v : Word), s.resident c i = some (k, p) → s.proc k = some p → s.cycle ≤ p.doneAt →
    p.wrote.getLsbD r.toNat = true → exec (.slotRegisterWrite c i r v) s = .next s) ∧
  (∀ (s : State) (c i : Nat) (v : Word), s.resident c i = none → ∀ r, exec (.slotRegisterWrite c i r v) s = .next s) ∧
  (∀ (s : State) (c : Nat) (v : Word), (∀ n, n < 0x100 → exec (.csrWindowWrite c n v) s = .next s) ∧
    exec (.csrWindowWrite c 0x7C0 v) s = .next (s.modCore c (fun y => { y with wins := y.wins.set 0 (v &&& 0xFFFF8F003FFFFFFF) })) ∧
    exec (.csrWindowWrite c 0x7D0 v) s = .next s)

/-- 04 R82: a write of TINV posts an invalidation that goes down the tree of the writer's launch; at each core the entries that it names go from the micro cache and the fold translator; once no access through a dropped entry is open, the completion returns, and the last one lets the poster's fences go on. CSRW of TINV posts what TINV_WRITE posts. -/
def Claims.Invalidations : Prop :=
  (∀ (s : State) (c name k : Nat) (p : Proc) (v : Word) (e : LaunchEntry) (l : Launch), s.named name = some (k, p) → (s.invalsOf name).length < 16 →
    tget s.ltab (p.core * 16 + p.launch) = some e → tget s.launches e.launch = some l → l.nodes.Nodup →
    ∃ (t : State) (i : Inval), exec (.tinvWrite c name v) s = .next t ∧ i.poster = name ∧ i.asid = v.toNat / 2 ^ 48 ∧ i.vpage = v.toNat / 2 ^ 11 % 2 ^ 37 ∧
      i.size = v.toNat / 2 ^ 9 % 4 ∧ i.all = v.getLsbD 8 ∧ ∀ n ∈ l.nodes, t.Due (.invalidationArrival n i) ∧ i ∈ (t.core n).invals) ∧
  (∀ (s : State) (c : Nat) (i : Inval), ∃ t : State, exec (.invalidationArrival c i) s = .next t ∧
    (∀ y, y ∈ (t.core c).tlb ↔ y ∈ (s.core c).tlb ∧ invalHits i y = false) ∧
    (∀ z ∈ (t.fold (foldOf c)).trans, ∀ y ∈ z.2, invalHits i y = false) ∧ t.DueIn 0 (.invalidationComplete c i) ∧ t.mem = s.mem ∧ t.procs = s.procs) ∧
  (∀ (s : State) (c : Nat) (i : Inval), i ∈ (s.core c).invals →
    (s.usesDropped c i = true → exec (.invalidationComplete c i) s = .next (s.after 1 (.invalidationComplete c i))) ∧
    (s.usesDropped c i = false → s.named i.poster = none → ∃ t : State, exec (.invalidationComplete c i) s = .next t ∧ i ∉ (t.core c).invals ∧
      { t with cores := s.cores } = s)) ∧
  (∀ (s : State) (k : Nat) (p : Proc) (d : Reg) (a : Src) (x : Word), s.Runs k p [srcField a 0] [x] [d] → 1 ≤ p.level → tinvOk x = true →
    (s.invalsOf p.name).length < 16 →
    exec (.csrw d a 0x7C8) s = exec (.tinvWrite p.core p.name x) (s.retire k (consumeMask p [srcField a 0]) [(d, 0)]))

/-- Windows check accesses, grant rows, and pass invalidations. -/
def Obligations.Windows : Prop :=
  Claims.WindowsCheck ∧ Claims.WindowRegisterGrants ∧ Claims.RowsOfTheWindow ∧ Claims.Invalidations

/-- 05 Table 5.2, 12 R364 and R371: a load or atomic that waits for another package for the whole time of 12 R364 takes PEER_FAIL with its peer's index, and the group's bit is set; a store that was not performed never is, and counts as complete. -/
def Obligations.LostLinks : Prop :=
  ∀ (s : State) (x : Access) (k : Nat) (p : Proc) (g : Group) (h : Hold) (i : Nat), s.named x.name = some (k, p) → s.group? p.gid = some g → x.gid = p.gid →
    g.peers.findIdx? (fun w => peerNames w (pkgOfAddr x.addr)) = some i → i < 64 →
    (∀ r tag sz sg, x.kind = .load r tag sz sg → p.wait = .access → p.hold = some h → h.issuedAt + lostCycles = s.cycle →
      ∃ u : State, exec (.linkLostTimeout x) s = .next (u.raise k 0x12 (BitVec.ofNat 64 i)) ∧
        u.proc k = some { p.dropHold with st := .resident, wait := .none } ∧ (u.group? p.gid).map (fun y => y.failBits.getLsbD i) = some true) ∧
    (∀ id e, x.kind = .store id → s.sbEntry x.core id = some e → e.done = false → e.id = id →
      ∃ t : State, exec (.linkLostTimeout x) s = .next t ∧ t.DueIn 0 (.storeAck x.core id) ∧
        ((t.core x.core).sb.find? (fun y => y.id == id)).map SbEntry.done = some true ∧
        (t.group? p.gid).map (fun y => y.failBits.getLsbD i) = some true ∧ t.mem = s.mem)

/-- 07 R180, R181, R188, R198: a channel instruction on a handle that names no end waits for it; on an end of the other direction it raises CHAN_RIGHTS, of another kind CHAN_TYPE, on a dead one CHAN_DEAD, each with the handle; a number of 64 or more is ILLEGAL. -/
def Claims.HandlesAreChecked : Prop :=
  ∀ (s : State) (k : Nat) (p : Proc) (d : Reg) (a b : Src) (x v : Word),
    s.Issues k p → s.Gives p [srcField a 0] [x] → p.HasTag d →
    ∀ i ∈ [(Instr.recv d a, [d], true, [0, 3, 4], []), (Instr.send a b, [], false, [0, 3], [b]), (.sendb a b, [], false, [1], [b]), (.sendt a b 0, [], false, [2], [b]), (.sendt a b 1, [], false, [2], [b]),
           (.senda d a b, [d], false, [1], [b]), (.recvb d a b, [d], true, [1], [b]), (.recvt a b 0, [], true, [2], [b]), (.recvt a b 1, [], true, [2], [b]),
           (.trecv d a b 0, [d], true, [0, 3, 4], [b]), (.trecv d a b 1, [d], true, [0, 3, 4], [b]), (.sendh a b, [], false, [4], [b])],
      v.toNat < 64 → s.Takes p i.2.1 → (i.2.2.2.2 = [b] → s.Gives p [srcField b 1] [v]) →
      (64 ≤ x.toNat → exec i.1 s = .next (s.raiseWord k 0x01)) ∧
      (x.toNat < 64 → s.handle p.name x.toNat = none → exec i.1 s = .next (s.waitChan k (.chan x.toNat))) ∧
      (∀ ke e n, x.toNat < 64 → s.handle p.name x.toNat = some (ke, e) → e.server = some (.dispenser n) → exec i.1 s = .next (s.raise k 0x09 x)) ∧
      (∀ ke e, x.toNat < 64 → s.handle p.name x.toNat = some (ke, e) → (∀ n, e.server ≠ some (.dispenser n)) →
        (e.recv ≠ i.2.2.1 → exec i.1 s = .next (s.raise k 0x0A x)) ∧
        (e.recv = i.2.2.1 → typKind e.typ ∉ i.2.2.2.1 → exec i.1 s = .next (s.raise k 0x09 x)) ∧
        (e.recv = i.2.2.1 → typKind e.typ ∈ i.2.2.2.1 → e.st = .dead → exec i.1 s = .next (s.raise k 0x0B x)))

/-- 07 R197, R198, R200, R202 to R204: a send on a rendezvous end offers its message to the peer end after the way between the cores, and its process waits; on a buffered end with a credit the message itself sets out, and without one the process waits; SENDA retires with its transfer identifier. -/
def Claims.SendsLeave : Prop :=
  ∀ (s : State) (k : Nat) (p : Proc) (a b : Src) (x v : Word) (ke : Nat) (e : Ep),
    s.Runs k p [srcField a 0, srcField b 1] [x, v] [] → x.toNat < 64 → s.handle p.name x.toNat = some (ke, e) → s.ep ke = some e → ke / 512 = p.core →
    e.recv = false → e.server = none → e.st = .opened → e.waitK = 0 → e.queue = [] → s.Settled p →
    let m (body : Body) (tid : Option Nat) : Msg := { src := locOf ke e, sender := p.name, tid := tid, tile := none, body := body, at0 := s.cycle }
    let len := v.toNat / 2 ^ 48 + 1
    let off := v.toNat % 2 ^ 24
    let way := s.oneway p.core e.peer.core
    (typKind e.typ = 0 → typCap e.typ = 0 → ∃ t : State, exec (.send a b) s = .next t ∧ t.WaitsOn k p x.toNat ∧
      t.DueIn way (.offerArrival e.peer (m (.word v) none)) ∧ (t.ep ke).map Ep.infl = some (e.infl + 1)) ∧
    (typKind e.typ = 3 → (b.reg = 0 → ∃ t : State, exec (.send a b) s = .next t ∧ t.WaitsOn k p x.toNat ∧
        t.DueIn way (.offerArrival e.peer (m .signal none))) ∧
      (b.reg ≠ 0 → exec (.send a b) s = .next (s.raiseWord k 0x01))) ∧
    (typKind e.typ = 0 → typCap e.typ ≠ 0 →
      (e.pend ≠ 0 → ∃ t : State, exec (.send a b) s = .next t ∧ t.WaitsOn k p x.toNat ∧ t.DueIn way (.messageEnqueue e.peer (m (.word v) none)) ∧
        (t.ep ke).map Ep.pend = some (e.pend - 1)) ∧
      (e.pend = 0 → ∃ t : State, exec (.send a b) s = .next t ∧ t.WaitsOn k p x.toNat ∧ (t.ep ke).map Ep.pend = some 0)) ∧
    (typKind e.typ = 1 → v.toNat / 2 ^ 24 % 2 ^ 24 = 0 → off + len ≤ scratchSize p.core → len ≤ typMaxLen e.typ →
      (typCap e.typ = 0 → (∃ t : State, exec (.sendb a b) s = .next t ∧ t.WaitsOn k p x.toNat ∧
          t.DueIn way (.offerArrival e.peer (m (.place p.core off 1 len 0) none))) ∧
        (∀ d, s.Takes p [d] → (e.ids.filter Prod.snd).length < 16 →
          ∃ u : State, exec (.senda d a b) s = .next (u.retire k (consumeMask p [srcField a 0, srcField b 1])
              [(d, BitVec.ofNat 64 ((e.issued + 1) % 2 ^ 24))]) ∧
            u.DueIn way (.offerArrival e.peer (m (.place p.core off 1 len 0) (some ((e.issued + 1) % 2 ^ 24)))) ∧
            (u.ep ke).map (fun y => (y.issued, y.infl, y.ids)) =
              some ((e.issued + 1) % 2 ^ 24, e.infl + 1, e.ids ++ [((e.issued + 1) % 2 ^ 24, true)]))) ∧
      (typCap e.typ ≠ 0 → e.pend ≠ 0 → ∃ t : State, exec (.sendb a b) s = .next t ∧ t.WaitsOn k p x.toNat ∧
        t.DueIn (way + s.dataTime p.core e.peer.core len)
          (.messageEnqueue e.peer { m (.bytes (readBytes s.mem (windowBase p.core + off) len)) none with hurt := s.hurtIn (windowBase p.core + off) len }))) ∧
    (typKind e.typ = 2 → typCap e.typ = 0 → v.toNat < 2 ^ 24 → off % 16 = 0 → off + typRows e.typ * typRowBytes e.typ ≤ scratchSize p.core →
      ∃ t : State, exec (.sendt a b 0) s = .next t ∧ t.WaitsOn k p x.toNat ∧
        t.DueIn way (.offerArrival e.peer (m (.place p.core off (typRows e.typ) (typRowBytes e.typ) (typRowBytes e.typ)) none))) ∧
    (∀ (kp : Nat) (y : Ep), typKind e.typ = 4 → typCap e.typ = 0 → v.toNat < 64 → v ≠ x → s.handle p.name v.toNat = some (kp, y) → s.ep kp = some y → kp ≠ ke →
      y.waitK = 0 → (∀ z ∈ s.endsOf p.name, z.2.handle = v.toNat → z.2.st ≠ .rebind) →
      ∃ t : State, exec (.sendh a b) s = .next t ∧ t.WaitsOn k p x.toNat ∧ t.DueIn way (.offerArrival e.peer (m (.handle (locOf kp y)) none)) ∧
        (t.ep kp).map Ep.st = some .rebind)

/-- Handles are checked, and sends set out. -/
def Obligations.SendsSetOut : Prop :=
  Claims.HandlesAreChecked ∧ Claims.SendsLeave

/-- 07 R198, R201 to R206: a receive takes the oldest message of its end: a word reaches its register 2 cycles later and ends the wait, a block or tile sets out; the sender's acknowledgement, or the credit of a buffered message, sets out. With none it waits, and at a rendezvous end announces itself. A TRECV whose deadline has passed receives all ones. -/
def Obligations.ReceivesTake : Prop :=
  ∀ (s : State) (k : Nat) (p : Proc) (d : Reg) (x : Word) (ke : Nat) (e : Ep),
    s.named p.name = some (k, p) → x.toNat < 64 → s.handle p.name x.toNat = some (ke, e) → s.ep ke = some e → ke / 512 = p.core →
    e.recv = true → e.server = none → e.st = .opened → e.waitK = 0 → e.rx = none → e.dying = false → s.Settled p → p.HasTag d →
    (∀ (a : Src) (c : BitVec 16), s.Runs k p [srcField a 0] [x] [d] → c = consumeMask p [srcField a 0] →
      (∀ m rest v, typKind e.typ = 0 → typCap e.typ = 0 → e.offers = m :: rest → m.body = .word v →
        ∃ (t : State) (q : Proc) (h : Hold), exec (.recv d a) s = .next t ∧ t.AwaitsOn k p x.toNat d ∧ t.DueIn 2 (.fill ⟨p.name, d, p.mark d⟩ v) ∧
          t.DueIn (1 + s.oneway m.src.core p.core) (.sendAck m (locOf ke e)) ∧ (t.ep ke).map Ep.offers = some rest ∧
          t.proc k = some q ∧ q.hold = some h ∧ h.consume = c ∧ q.awaits ⟨p.name, d, p.mark d⟩ = true) ∧
      (∀ m rest v, typKind e.typ = 0 → typCap e.typ ≠ 0 → e.queue = m :: rest → e.offers = [] → m.body = .word v → m.src.ix < 512 → s.hasPeer ke e = true →
        ∃ t : State, exec (.recv d a) s = .next t ∧ t.AwaitsOn k p x.toNat d ∧ t.DueIn 2 (.fill ⟨p.name, d, p.mark d⟩ v) ∧
          t.DueIn (s.oneway p.core e.peer.core) (.creditReturn e.peer) ∧ (t.ep ke).map Ep.queue = some rest) ∧
      (typKind e.typ = 3 → e.pend ≠ 0 → e.offers = [] → ∃ t : State, exec (.recv d a) s = .next t ∧ t.AwaitsOn k p x.toNat d ∧
        t.DueIn 2 (.fill ⟨p.name, d, p.mark d⟩ 1) ∧ (t.ep ke).map Ep.pend = some (e.pend - 1)) ∧
      (typKind e.typ = 0 → e.offers = [] → e.queue = [] → ∃ t : State, exec (.recv d a) s = .next t ∧ t.AwaitsOn k p x.toNat d ∧
        (t.ep ke).map (fun y => y.rx.isSome) = some true ∧ (typCap e.typ = 0 → t.DueIn (s.oneway p.core e.peer.core) (.receiveAnnounce e.peer)))) ∧
    (∀ (a b : Src) (w : Word) (m : Msg) (rest : List Msg), s.Runs k p [srcField a 0, srcField b 1] [x, w] [d] → typCap e.typ = 0 → e.offers = m :: rest →
      (typKind e.typ = 1 → w.toNat / 2 ^ 24 % 2 ^ 24 = 0 → w.toNat % 2 ^ 24 + w.toNat / 2 ^ 48 + 1 ≤ scratchSize p.core →
        (isBulk m.body = true → bodyLen m.body ≤ w.toNat / 2 ^ 48 + 1 → ∃ (t : State) (z : Xfer), exec (.recvb d a b) s = .next t ∧ t.AwaitsOn k p x.toNat d ∧
          z.msg = m ∧ z.core = p.core ∧ z.off = w.toNat % 2 ^ 24 ∧ z.receiver = p.name ∧ z.reg = some d ∧ z.rowBytes = 0 ∧
          t.DueIn (1 + s.dataTime m.src.core p.core (bodyLen m.body)) (.transferDataWritten z)) ∧
        (isBulk m.body = true → w.toNat / 2 ^ 48 + 1 < bodyLen m.body → ∃ u : State, exec (.recvb d a b) s =
          .next (u.raise k 0x09 (BitVec.ofNat 64 x.toNat)) ∧ (u.ep ke).map Ep.offers = some e.offers ∧ u.mem = s.mem)) ∧
      (typKind e.typ = 2 → w.toNat < 2 ^ 24 → w.toNat % 16 = 0 → w.toNat + typRows e.typ * typRowBytes e.typ ≤ scratchSize p.core → isBulk m.body = true →
        bodyLen m.body = typRows e.typ * typRowBytes e.typ → ∃ (t : State) (z : Xfer), exec (.recvt a b 0) s = .next t ∧ t.WaitsOn k p x.toNat ∧ z.msg = m ∧
          z.core = p.core ∧ z.off = w.toNat ∧ z.rowBytes = typRowBytes e.typ ∧ z.step = typRowBytes e.typ ∧
          t.DueIn (1 + s.dataTime m.src.core p.core (bodyLen m.body)) (.transferDataWritten z))) ∧
    (∀ (a b : Src) (w : Word), s.Runs k p [srcField a 0, srcField b 1] [x, w] [d] → typKind e.typ = 0 → e.offers = [] → e.queue = [] → e.reserved = false →
      (w.toNat ≤ s.gtc → ∃ u : State, exec (.trecv d a b 0) s = .next ((u.completeFill k (BitVec.allOnes 64))) ∧ (u.ep ke).map Ep.rx = some none ∧
        ∃ q, u.proc k = some q ∧ q.pc = p.pc ∧ q.regs = (p.produce d).regs ∧ q.made = p.made ||| regBit d ∧
          q.hold = some { consume := consumeMask p [srcField a 0, srcField b 1], dst := some d, arg := (p.mark d).toNat, issuedAt := s.cycle, old := some (p.cell d) }) ∧
      (s.gtc < w.toNat → (s.fold (foldOf p.core)).timers.length < 256 → ∃ t : State, exec (.trecv d a b 0) s = .next t ∧ t.AwaitsOn k p x.toNat d ∧
        (s.gtcDue w.toNat, Ev.deadlineFire (foldOf p.core) ⟨.trecv p.name, w.toNat⟩) ∈ t.agenda))

/-- 07 R198 to R206, R209, R212, R221, 12 R369: what arrives at an end. An offer meets the receive that waits, is held, or is sent again where 64 are; a buffered message joins the queue and its acknowledgement sets out; a credit, a wake-up and an announcement change their end; an acknowledgement lets the sender's instruction retire or a SENDA's transfer complete; data stands at the receiver; the value ends the wait; a TRECV expires; a stomped packet is gone, and its sender sends it again or the channel dies. -/
def Claims.MessagesArrive : Prop :=
  (∀ (s : State) (f : FillTo) (v : Word) (k : Nat) (p : Proc) (h : Nat) (hd : Hold), s.named f.name = some (k, p) → p.wait = .chan h → p.hold = some hd →
    hd.dst = some f.reg → hd.arg = f.tag.toNat → hd.arg2 = 1 → hd.words = [] →
    exec (.fill f v) s = .next ((s.fillReg k p f v).complete k []) ∧
    (p.portOf f.reg = none → (∀ o ∈ s.onceDue, o.1 ≠ f.name) → exec (.fill f v) s =
      .next (((s.putProc k { p.fill f.reg f.tag v with loads := p.loads.erase (f.reg, f.tag) }).retire k hd.consume []).ready k))) ∧
  (∀ (s : State) (dst : EndLoc) (m : Msg) (e : Ep), s.ep (locKey dst) = some e → e.fwd = none → s.fromPeer e m.src = true → e.st ∈ [.opened, .wait] →
    e.dying = false → (s.endAt m.src).isSome → s.reachable (pkgOf m.src.core) (pkgOf dst.core) = true → typKind e.typ ≠ 3 →
    (∀ due, s.olderDue m = some due → exec (.offerArrival dst m) s = .next (s.atCycle due (.offerArrival dst m))) ∧
    (s.olderDue m = none →
    let held := ((s.epsOf dst.core).map (fun x => x.2.offers.length)).sum
    (e.rx = none → held < 64 → s.OwnerIdle e →
      exec (.offerArrival dst m) s = .next (s.putEp (locKey dst) { e with offers := e.offers ++ [m] })) ∧
    (e.rx = none → 64 ≤ held → exec (.offerArrival dst m) s = .next (s.after 64 (.offerResend dst m)) ∧
      exec (.offerResend dst m) s = .next (s.after (s.oneway m.src.core dst.core) (.offerArrival dst m))) ∧
    (∀ x v, e.rx = some x → e.offers = [] → m.body = .word v → typKind e.typ = 0 → typCap e.typ = 0 → x.at0 < s.cycle →
      ∃ t : State, exec (.offerArrival dst m) s = .next t ∧ t.DueIn 1 (.fill ⟨e.owner, x.reg, x.tag⟩ v) ∧
        t.DueIn (s.oneway m.src.core (locKey dst / 512)) (.sendAck m (locOf (locKey dst) e))))) ∧
  (∀ (s : State) (dst : EndLoc) (m : Msg) (e : Ep), s.ep (locKey dst) = some e → dst.core % 8 ≠ 7 → e.fwd = none → s.fromPeer e m.src = true → e.st = .opened →
    e.dying = false → s.olderDue m = none →
    s.reachable (pkgOf m.src.core) (pkgOf dst.core) = true → e.server = none → e.queue.length < typCap e.typ → e.rx = none → s.OwnerIdle e →
    s.Uncounted (locKey dst) →
    ∃ t : State, exec (.messageEnqueue dst m) s = .next t ∧ (t.ep (locKey dst)).map (fun y => (y.queue, y.pend)) = some (e.queue ++ [m], min 255 (e.pend + 1)) ∧
      t.DueIn (s.ackBack m dst.core) (.sendAck m { dst with gen := e.gen })) ∧
  (∀ (s : State) (dst : EndLoc) (ke : Nat) (e : Ep), s.endAt dst = some (ke, e) → s.OwnerIdle e →
    (e.recv = false → e.st = .opened → (s.endAt e.peer).any (fun x => x.2.rx.isSome) = true →
      exec (.receiveAnnounce dst) s = .next (s.putEp ke { e with announced := true })) ∧
    (e.recv = false → e.queue = [] → exec (.creditReturn dst) s = .next (s.putEp ke { e with pend := e.pend + 1 })) ∧
    (∀ m rest, e.recv = false → e.st = .opened → e.server = none → e.pend = 0 → e.queue = m :: rest → isBulk m.body = false → ∃ t : State,
      exec (.creditReturn dst) s = .next t ∧ t.DueIn (s.oneway m.src.core e.peer.core) (.messageEnqueue e.peer m) ∧
        (t.ep ke).map (fun y => (y.queue, y.pend)) = some (rest, 0)) ∧
    (e.st = .opened → e.rx = none → s.Uncounted ke → exec (.wakeup dst) s = .next (s.putEp ke { e with pend := min 255 (e.pend + 1) })) ∧
    (e.recv = false → e.st = .opened → e.ids = [] → ∃ t : State, exec (.peerDeleted dst) s = .next t ∧ (t.ep ke).map Ep.st = some .dead) ∧
    (e.recv = true → e.st = .opened → e.queue ≠ [] → exec (.peerDeleted dst) s = .next (s.putEp ke { e with dying := true, offers := [] }))) ∧
  (∀ (s : State) (m : Msg) (peer : EndLoc) (ke k h : Nat) (e : Ep) (p : Proc) (hd : Hold), s.endAt m.src = some (ke, e) → e.move = none → m.tile = none → isDrover e.server = false →
    s.named m.sender = some (k, p) → e.owner = m.sender → (∀ q ∈ p.ports.toList, q.held = []) →
    (m.tid = none → p.wait = .chan h → p.hold = some hd → hd.issuedAt = m.at0 → ∃ u : State,
      exec (.sendAck m peer) s = .next ((u.retire k hd.consume []).ready k) ∧ (u.ep ke).map Ep.infl = some (e.infl - 1) ∧ u.procs = s.procs) ∧
    (∀ id, m.tid = some id → (id, true) ∈ e.ids → p.wait = .none → s.Uncounted ke → ∃ t : State, exec (.sendAck m peer) s = .next t ∧
      (t.ep ke).map (fun y => (y.infl, y.ids, y.fail)) = some (e.infl - 1, e.ids.filter (fun i => i.1 != id), e.fail) ∧ t.procs = s.procs)) ∧
  (∀ (s : State) (x : Xfer) (bs : List Byte) (k : Nat) (p : Proc) (h : Hold) (r : Reg), x.msg.body = .bytes bs → x.rowBytes = 0 → x.tile = none → s.MemOk →
    s.named x.receiver = some (k, p) → p.hold = some h → x.reg = some r → ∃ t : State, exec (.transferDataWritten x) s = .next t ∧
      t.DueIn 2 (.fill ⟨x.receiver, r, BitVec.ofNat 2 h.arg⟩ (BitVec.ofNat 64 bs.length)) ∧ t.procs = s.procs ∧
      ∀ n, readByte t.mem n = if windowBase x.core + x.off ≤ n ∧ n < windowBase x.core + x.off + bs.length then
        bs.getD (n - (windowBase x.core + x.off)) 0 else readByte s.mem n) ∧
  (∀ (s : State) (name k h ke due : Nat) (p : Proc) (hd : Hold) (e : Ep) (x : Rx) (d : Reg), s.named name = some (k, p) → p.wait = .chan h → p.hold = some hd →
    p.name = name → hd.arg2 = 0 → hd.dst = some d → s.handle name h = some (ke, e) → e.rx = some x → x.timed = some (due, false) → e.reserved = false →
    due ≤ s.gtc → p.st ∈ [.parked, .blocked] →
    ∃ u : State, exec (.trecvExpiry name) s = .next (u.completeFill k (BitVec.allOnes 64)) ∧ (u.ep ke).map Ep.rx = some none ∧
      u.procs = s.procs) ∧
  (∀ (s : State) (die : Nat) (dst : EndLoc) (m : Msg), s.Due (.offerArrival dst m) → ∃ t : State, exec (.packetStomp die dst m) s = .next t ∧
    ¬ t.Due (.offerArrival dst m) ∧ t.DueIn (s.ackWait (pkgOf m.src.core) (pkgOf dst.core)) (.ackTimeout dst m)) ∧
  (∀ (s : State) (dst : EndLoc) (m : Msg) (ke kd : Nat) (e y : Ep), s.endAt m.src = some (ke, e) → e.st = .opened → e.server = none → typQueued e.typ = false → isBulk m.body = false →
    (typRetry e.typ = true → exec (.ackTimeout dst m) s = .next (s.after (s.oneway m.src.core dst.core) (.offerArrival dst m))) ∧
    (typRetry e.typ = false → s.endAt dst = some (kd, y) → kd ≠ ke → y.st = .opened → y.queue = [] → y.pend = 0 → y.recv = true → e.recv = false →
      e.ids = [] → y.ids = [] → s.OwnerIdle e → s.OwnerIdle y →
      ∃ t : State, exec (.ackTimeout dst m) s = .next t ∧ (t.ep ke).map Ep.st = some .dead ∧ (t.ep kd).map Ep.st = some .dead))

/-- 07 R189 to R195: CHNEW makes two ends under the lowest free handles; CHDEL removes an end once nothing of it is in flight, and tells its peer; CHBIND moves an end: it is REBIND, its entry goes to the new owner's core, is written there with its generation one higher, and the old entry passes on; CHQRY and CHPOLL tell about an end. -/
def Claims.EndsMove : Prop :=
  (∀ (s : State) (k : Nat) (p : Proc) (d : Reg) (a : Src) (x : Word), s.Runs k p [srcField a 0] [x] [d] →
    let c := consumeMask p [srcField a 0]
    (typOk x false = false → exec (.chnew d a) s = .next (s.raiseWord k 0x01)) ∧
    (typOk x false = true → s.freeHandle p.name 0 = none → exec (.chnew d a) s = .next (s.retire k c [(d, BitVec.ofNat 64 (2 ^ 63 + 0x21))])) ∧
    (∀ i j m n, typOk x false = true → typQueued x = false → s.freeHandle p.name 0 = some i → s.freeHandle p.name (i + 1) = some j →
      s.freeEntry p.core 0 = some m → s.freeEntry p.core (m + 1) = some n →
      ∃ (u : State) (e f : Ep), exec (.chnew d a) s = .next (u.retire k c [(d, BitVec.ofNat 64 (j * 2 ^ 8 + i))]) ∧
        u.ep (p.core * 512 + m) = some e ∧ u.ep (p.core * 512 + n) = some f ∧ e.recv = false ∧ f.recv = true ∧ e.handle = i ∧ f.handle = j ∧
        e.owner = p.name ∧ f.owner = p.name ∧ e.typ = x ∧ f.typ = x ∧ e.peer = ⟨p.core, n, 0⟩ ∧ f.peer = ⟨p.core, m, 0⟩ ∧ { u with eps := s.eps } = s) ∧
    (s.handle p.name x.toNat = none → x.toNat < 64 → exec (.chqry d a) s = .next (s.retire k c [(d, BitVec.ofNat 64 (2 ^ 63))]) ∧
      exec (.chpoll d a) s = .next (s.retire k c [(d, BitVec.allOnes 64)])) ∧
    (∀ ke e, s.handle p.name x.toNat = some (ke, e) → x.toNat < 64 → exec (.chqry d a) s = .next ((s.endReserve ke e).retire k c [(d, BitVec.ofNat 64
        ((match e.st with | .opened => 1 | .wait => 2 | .rebind => 3 | .forward => 4 | .dead => 5) * 2 ^ 60 + typKind e.typ * 2 ^ 56 +
          (if e.recv then 2 ^ 55 else 0) + typCap e.typ * 2 ^ 47 + min e.pend 255 * 2 ^ 39 + e.rq.getD 0 * 2 ^ 33 +
          (if e.rq.isSome then 2 ^ 32 else 0) + e.done * 2 ^ 8))]) ∧
      (e.waitK ≠ 3 → s.endReserve ke e = s) ∧
      (e.recv = true → e.st ≠ .dead → typKind e.typ ≠ 3 → exec (.chpoll d a) s =
        .next ((s.endReserve ke e).retire k c [(d, if e.queue = [] ∧ e.offers = [] then 0 else 1)])))) ∧
  (∀ (s : State) (k : Nat) (p : Proc) (a : Src) (x : Word), s.Runs k p [srcField a 0] [x] [] → x.toNat < 64 →
    (s.handle p.name x.toNat = none → exec (.chdel a) s = .next (s.raise k 0x0A x)) ∧
    (∀ ke e, s.handle p.name x.toNat = some (ke, e) → s.ep ke = some e →
      (e.infl ≠ 0 → exec (.chdel a) s = .next (s.waitChan k (.chan x.toNat))) ∧
      (e.infl = 0 → e.server = none → e.waitK = 0 → e.queue = [] → e.offers = [] → s.passedTo ke = [] → s.hasPeer ke e = true → ∃ u : State,
        exec (.chdel a) s = .next (u.retire k (consumeMask p [srcField a 0]) []) ∧ u.ep ke = none ∧
          u.DueIn (s.oneway (ke / 512) e.peer.core) (.peerDeleted e.peer) ∧ u.procs = s.procs))) ∧
  (∀ (s : State) (k : Nat) (p : Proc) (d : Reg) (a b : Src) (x y : Word) (ke kn : Nat) (e : Ep) (n : Proc), s.Runs k p [srcField a 0, srcField b 1] [x, y] [d] →
    p.HasTag d → x.toNat < 64 → y.toNat < 2 ^ 48 → y.toNat / 64 % 4 = 0 → s.boundEnd p.name x.toNat = some (ke, e) → s.ep ke = some e →
    s.named (y.toNat / 2 ^ 8) = some (kn, n) →
    (e.st = .opened → e.waitK = 0 → typKind e.typ ≠ 3 → ∃ (u : State) (v : EndMove),
      exec (.chbind d a b) s = .next (u.retire k (consumeMask p [srcField a 0, srcField b 1]) []) ∧ u.DueIn 1 (.chbindMove v) ∧
      v = { key := ke, owner := y.toNat / 2 ^ 8, handle := y.toNat % 64, core := n.core, why := .chbind (p.dest d) } ∧
      (u.ep ke).map (fun z => (z.st, z.move)) = some (.rebind, some v)) ∧
    ((e.waitK ≠ 0 ∧ e.waitK ≠ 3) ∨ (e.waitK = 0 ∧ e.st ≠ .opened) → exec (.chbind d a b) s = .next (((s.produce k d).after 1 (.fill (p.dest d) (BitVec.ofNat 64 (2 ^ 63 + 0x25)))).retire k
      (consumeMask p [srcField a 0, srcField b 1]) []))) ∧
  (∀ (s : State) (v : EndMove) (e : Ep) (k ix : Nat) (p : Proc) (d : FillTo), s.ep v.key = some e → e.st = .rebind → e.move = some v → v.why = .chbind d →
    s.named v.owner = some (k, p) → p.core = v.core → needsRing e (v.key / 512) v.core = false →
    (e.infl = 0 → s.hasLeft v.key = false → ∃ t : State, exec (.chbindMove v) s = .next t ∧ t.DueIn (s.oneway (v.key / 512) v.core + 4) (.endpointInstall v) ∧ (t.ep v.key).map Ep.move = some (some v)) ∧
    (s.installCode v e (some v.handle) = 0 → s.freeEntry v.core 0 = some ix → e.recv = false → e.queue = [] → e.server = none → e.armed = none →
      e.dying = false → e.waitK = 0 → p.wait = .none → (∀ q ∈ p.ports.toList, q.held = []) →
      ∃ t : State, exec (.endpointInstall v) s = .next t ∧ t.DueIn (s.oneway v.core (v.key / 512)) (.chbindAck v 0) ∧
        (t.ep (v.core * 512 + ix)).map (fun z => (z.owner, z.handle, z.gen, z.typ, z.peer, z.st)) =
          some (v.owner, v.handle, (e.gen + 1) % 256, e.typ, e.peer, .opened) ∧
        (t.ep v.key).map Ep.fwd = some (some ⟨v.core, ix, (e.gen + 1) % 256⟩)) ∧
    exec (.chbindAck v 0) s = exec (.fill d 0) (s.putEp v.key { e with st := .forward, move := none }) ∧
    (s.installCode v e (some v.handle) ≠ 0 → exec (.endpointInstall v) s =
      .next (s.after (s.oneway v.core (v.key / 512)) (.chbindAck v (s.installCode v e (some v.handle))))))

/-- Messages arrive, and ends are made, move and go. -/
def Obligations.ChannelEvents : Prop :=
  Claims.MessagesArrive ∧ Claims.EndsMove

/-- 07 R207 to R209: ALT without an enabled guard gives all ones; it retires with the index of a guard that is ready: the lowest, or with .F the first behind the last one chosen; with none ready its process waits. Guards whose bits are not defined are ILLEGAL. -/
def Obligations.AltChooses : Prop :=
  ∀ (s : State) (k : Nat) (p : Proc) (d : Reg) (a b : Src) (f : BitVec 1) (x y : Word) (n : Nat),
    s.Runs k p [srcField a 0, srcField b 1] [x, y] [d] → s.Settled p → x.toNat % 16 = 0 → 1 ≤ n → n ≤ 16 → y.toNat < 2 ^ 12 →
    y.toNat % 2 ^ 8 = n → x.toNat + 16 * n ≤ scratchSize p.core →
    let w (i : Nat) : Nat := readLe s.mem (windowBase p.core + x.toNat + 16 * i) 8
    let v (i : Nat) : Nat := readLe s.mem (windowBase p.core + x.toNat + 16 * i + 8) 8
    let on (i : Nat) : Prop := i < n ∧ w i = 2 ^ 16 + 3 * 2 ^ 8
    let off (i : Nat) : Prop := w i = 0 ∧ v i = 0
    let c := consumeMask p [srcField a 0, srcField b 1]
    ((∃ i < n, 2 ^ 17 ≤ w i) → exec (.alt d a b f) s = .next (s.raiseWord k 0x01)) ∧
    ((∀ i < n, off i) → exec (.alt d a b f) s = .next (s.retire k c [(d, BitVec.allOnes 64)])) ∧
    (∀ i, (∀ j < n, (on j ∧ v j = 0) ∨ off j) → on i →
      (f = 0 → (∀ j < i, off j) → exec (.alt d a b f) s = .next (s.retire k c [(d, BitVec.ofNat 64 i)])) ∧
      (f = 1 → y.toNat / 2 ^ 8 < n → (∀ j, on j → (i + n - (y.toNat / 2 ^ 8 + 1) % n) % n ≤ (j + n - (y.toNat / 2 ^ 8 + 1) % n) % n) →
        exec (.alt d a b f) s = .next (s.retire k c [(d, BitVec.ofNat 64 i)]))) ∧
    (∀ ke e, n = 1 → w 0 < 2 ^ 16 + 64 → 2 ^ 16 ≤ w 0 → v 0 = 0 → s.handle p.name (w 0 % 64) = some (ke, e) → e.recv = true → e.waitK = 0 →
      (e.queue ≠ [] → exec (.alt d a b 0) s = .next ((s.putEp ke { e with waitK := 3 }).retire k c [(d, 0)])) ∧
      (e.queue = [] → e.offers = [] → e.pend = 0 → e.st = .opened → ∃ (t : State) (q : Proc), exec (.alt d a b 0) s = .next t ∧ t.proc k = some q ∧
        q.wait = .alt ∧ q.pc = p.pc ∧ q.regs = p.regs ∧ (t.ep ke).map (fun z => (z.waitK, z.st)) = some (2, .wait)))

/-- 07 R210 to R212: COPY retires with a new transfer identifier; when it completes, every element of the destination holds the bytes that stood at the source, in the order of the patterns, and DONE has advanced; CWAIT gives DONE and clears FAIL once it has reached an identifier, and bit 62 for one that was never issued. -/
def Claims.CopiesComplete : Prop :=
  (∀ (s : State) (k : Nat) (p : Proc) (d : Reg) (a b : Src) (x y : Word) (ke : Nat) (e : Ep), s.Runs k p [srcField a 0, srcField b 1] [x, y] [d] → x.toNat < 64 →
    s.handle p.name x.toNat = some (ke, e) → s.ep ke = some e →
    let c := consumeMask p [srcField a 0, srcField b 1]
    let ws := leWords 8 (readBytes s.mem (windowBase p.core + y.toNat) 64)
    let id := (e.issued + 1) % 2 ^ 24
    (e.server = none → y.toNat % 8 = 0 → y.toNat + 64 ≤ scratchSize p.core → y.toNat < 2 ^ 24 → s.Settled p → e.waitK = 0 → e.infl < 65535 →
      (copyOk ws = false → exec (.copy d a b) s = .next (s.raiseWord k 0x01)) ∧
      (copyOk ws = true → (ws.getD 7 0) = 0 → ∃ (u : State) (n : Nat), exec (.copy d a b) s = .next (u.retire k c [(d, BitVec.ofNat 64 id)]) ∧
        u.DueIn n (.transferComplete { owner := p.name, core := p.core, key := ke, tid := id, job := .copy ws (s.asidOf p) (s.rootOf p) p.level p.gid }) ∧
        (u.ep ke).map (fun z => (z.issued, z.infl, z.ids)) = some (id, e.infl + 1, e.ids ++ [(id, false)]) ∧ u.mem = s.mem)) ∧
    (y.toNat < 2 ^ 24 → p.HasTag d →
      (idAtOrBelow y.toNat e.issued = false → exec (.cwait d a b) s = .next ((s.endReserve ke e).retire k c [(d, BitVec.ofNat 64 ((if e.fail then 2 ^ 63 else 0) + 2 ^ 62 + e.done))])) ∧
      (idAtOrBelow y.toNat e.issued = true → idAtOrBelow y.toNat e.done = true → exec (.cwait d a b) s =
        .next (((s.endReserve ke e).modEp ke (fun z => { z with fail := false })).retire k c [(d, BitVec.ofNat 64 ((if e.fail then 2 ^ 63 else 0) + e.done))])) ∧
      (idAtOrBelow y.toNat e.issued = true → idAtOrBelow y.toNat e.done = false → ∃ t : State, exec (.cwait d a b) s = .next t ∧ t.AwaitsOn k p x.toNat d))) ∧
  (∀ (s : State) (ws : List Word) (owner core ke id asid root level gid n : Nat) (src dst : Nat) (e : Ep), copyOk ws = true → ws.getD 7 0 = 0 →
    copySrcCounts ws = (n, 1, 1) → copyDstCounts ws = (n, 1, 1) → copyElem ws = 8 → (copySrc ws).s0 = 8 → (copyDst ws).s0 = 8 → ke < 512 * 2 ^ 25 →
    (copySrc ws).base.toNat = 0xC0000000000000 + src → (copyDst ws).base.toNat = 0xC0000000000000 + dst → src % 8 = 0 → dst % 8 = 0 →
    src + 8 * n ≤ scratchSize core - 2048 * (s.core core).extSize → dst + 8 * n ≤ scratchSize core - 2048 * (s.core core).extSize →
    coreIdOk core = true → pkgOf core ∈ s.packages → (s.fold (foldOf core)).fenced = false → s.poison = [] → s.MemOk → src + 8 * n ≤ dst ∨ dst + 8 * n ≤ src →
    s.ep ke = some e → e.fwd = none → e.move = none → isDrover e.server = false → s.OwnerIdle e → s.Uncounted ke → e.ids = [(id, false)] →
    ∃ t : State, exec (.transferComplete { owner := owner, core := core, key := ke, tid := id, job := .copy ws asid root level gid }) s = .next t ∧
      (∀ b, readByte t.mem b = if windowBase core + dst ≤ b ∧ b < windowBase core + dst + 8 * n then readByte s.mem (b - dst + src) else readByte s.mem b) ∧
      (t.ep ke).map (fun z => (z.done, z.infl, z.ids, z.fail)) = some (e.issued, e.infl - 1, [], e.fail))

/-- 07 R214 and R215: STRM binds a port to a stream whose first 16 elements are asked for; an element read stands behind those at the port, with the value at its place. -/
def Claims.StreamsRead : Prop :=
  (∀ (s : State) (k : Nat) (p : Proc) (d : Reg) (b : Src) (x : Word) (st : Stream), s.Runs k p [srcField b 1] [x] [] → 8 ≤ d.toNat → d.toNat ≤ 11 →
    (p.ports.toList.getD (d.toNat - 8) {}).failed = false → x.toNat % 8 = 0 → x.toNat < 2 ^ 24 → x.toNat + 32 ≤ scratchSize p.core →
    s.Settled p → streamOf (leWords 4 (readBytes s.mem (windowBase p.core + x.toNat) 32)) = some st → st.write = false →
    ∃ (u : State) (q : Proc), exec (.strm d b) s = .next (u.retire k (consumeMask p [srcField b 1]) []) ∧ u.proc k = some q ∧
      q.ports.toList.getD (d.toNat - 8) {} = { bound := true, stream := some { st with issued := min 16 (streamTotal st) } } ∧ q.reg d = 0 ∧
      ∀ i < min 16 (streamTotal st), u.DueIn (8 + i) (.streamElement p.name (d.toNat - 8))) ∧
  (∀ (s : State) (name k port off : Nat) (p : Proc) (st : Stream), s.named name = some (k, p) → port < 4 → p.wait = .none →
    (p.ports.toList.getD port {}).stream = some st → st.size ∈ [1, 2, 4, 8] →
    (streamAddr st (st.taken + st.buffer.length)).toNat = 0xC0000000000000 + off → off + st.size ≤ scratchSize p.core - 2048 * (s.core p.core).extSize →
    coreIdOk p.core = true → pkgOf p.core ∈ s.packages → (s.fold (foldOf p.core)).fenced = false → s.poison = [] →
    (off % st.size = 0 → ∃ (t : State) (q : Proc), exec (.streamElement name port) s = .next t ∧ t.proc k = some q ∧ (q.ports.toList.getD port {}).stream =
        some { st with buffer := st.buffer ++ [.val (BitVec.ofNat 64 (readLe s.mem (windowBase p.core + off) st.size))] } ∧ q.regs = p.regs) ∧
    (off % st.size ≠ 0 → ∃ (t : State) (q : Proc), exec (.streamElement name port) s = .next t ∧ t.proc k = some q ∧ (q.ports.toList.getD port {}).stream =
        some { st with buffer := st.buffer ++ [.bad 0x03 (BitVec.ofNat 64 (0xC0000000000000 + off))] }))

/-- COPY moves its elements, CWAIT reports, STRM streams. -/
def Obligations.CopiesAndStreams : Prop :=
  Claims.CopiesComplete ∧ Claims.StreamsRead

/-- 07 R216 and R217: SUBS adds an entry to its core's match table and fills d with 0 once the routers have recorded it; UNSUB removes it at the record; MCAST sends its block to every subscriber of the tag on its die, where it joins the queue, waits while that is full, or sets FAIL if it is too long. -/
def Claims.MulticastDelivers : Prop :=
  (∀ (s : State) (k : Nat) (p : Proc) (d : Reg) (a b : Src) (x y : Word) (ke : Nat) (e : Ep), s.Runs k p [srcField a 0, srcField b 1] [x, y] [d] → (d ≠ 0 → (p.cell d).out < 3) →
    x.toNat < 4096 → y.toNat < 64 → s.handle p.name y.toNat = some (ke, e) → e.recv = true → typKind e.typ = 1 → typCap e.typ ≠ 0 →
    let c := consumeMask p [srcField a 0, srcField b 1]
    let tab := (s.core p.core).matchTab
    (16 ≤ tab.length ∨ (x.toNat, ke % 512) ∈ tab → exec (.subs d a b) s =
      .next ((((s.endReserve ke e).produce k d).after 1 (.fill (p.dest d) (BitVec.ofNat 64 (2 ^ 63 + 0x27)))).retire k c [])) ∧
    (tab.length < 16 → (x.toNat, ke % 512) ∉ tab → ∃ (u : State) (n : Nat), exec (.subs d a b) s = .next (u.retire k c []) ∧
      (u.core p.core).matchTab = tab ++ [(x.toNat, ke % 512)] ∧ u.DueIn n (.joinRecorded (p.dest d) p.core x.toNat ke true))) ∧
  (∀ (s : State) (k : Nat) (p : Proc) (d : Reg) (a : Src) (x : Word), s.Runs k p [srcField a 0] [x] [d] → (d ≠ 0 → (p.cell d).out < 3) → x.toNat < 4096 →
    ((∀ z ∈ (s.core p.core).matchTab, z.1 ≠ x.toNat) → exec (.unsub d a) s = .next (((s.produce k d).after 1 (.fill (p.dest d)
      (BitVec.ofNat 64 (2 ^ 63 + 0x27)))).retire k (consumeMask p [srcField a 0]) [])) ∧
    (∀ ix e, (s.core p.core).matchTab = [(x.toNat, ix)] → (p.core * 512 + ix, e) ∈ s.eps → e.owner = p.name → e.st = .opened → ∃ (u : State) (n : Nat),
      exec (.unsub d a) s = .next (u.retire k (consumeMask p [srcField a 0]) []) ∧ u.DueIn n (.joinRecorded (p.dest d) p.core x.toNat (p.core * 512 + ix) false))) ∧
  (∀ (s : State) (d : FillTo) (core tag key : Nat), exec (.joinRecorded d core tag key true) s = exec (.fill d 0) s ∧
    exec (.joinRecorded d core tag key false) s =
      exec (.fill d 0) (s.modCore core (fun c => { c with matchTab := c.matchTab.filter (fun y => y != (tag, key % 512)) }))) ∧
  (∀ (s : State) (k : Nat) (p : Proc) (a b : Src) (x w : Word), s.Runs k p [srcField a 0, srcField b 1] [x, w] [] → x.toNat < 4096 → w.toNat / 2 ^ 48 < 4096 →
    w.toNat / 2 ^ 24 % 2 ^ 24 = 0 → w.toNat % 2 ^ 24 + w.toNat / 2 ^ 48 + 1 ≤ scratchSize p.core → s.Settled p →
    ∃ (u : State) (m : Msg), exec (.mcast a b) s = .next (u.retire k (consumeMask p [srcField a 0, srcField b 1]) []) ∧
      m.body = .bytes (readBytes s.mem (windowBase p.core + w.toNat % 2 ^ 24) (w.toNat / 2 ^ 48 + 1)) ∧
      ∀ c ∈ s.cores, dieOf c.1 = dieOf p.core → ∀ z ∈ c.2.matchTab, z.1 = x.toNat → u.Due (.mcastDelivery (c.1 * 512 + z.2) m)) ∧
  (∀ (s : State) (key : Nat) (m : Msg) (e : Ep), key < 512 * 2 ^ 25 → s.ep key = some e → e.fwd = none → e.recv = true → typKind e.typ = 1 → e.st = .opened → e.rx = none →
    s.OwnerIdle e → s.Uncounted key →
    (∀ due, s.olderMcast key m = some due → exec (.mcastDelivery key m) s = .next (s.atCycle due (.mcastDelivery key m))) ∧
    (s.olderMcast key m = none →
    (typMaxLen e.typ < bodyLen m.body → exec (.mcastDelivery key m) s = .next (s.putEp key { e with fail := true })) ∧
    (bodyLen m.body ≤ typMaxLen e.typ → typCap e.typ ≤ e.queue.length → exec (.mcastDelivery key m) s = .next (s.putEp key { e with offers := e.offers ++ [m] })) ∧
    (bodyLen m.body ≤ typMaxLen e.typ → e.queue.length < typCap e.typ → ∃ t : State, exec (.mcastDelivery key m) s = .next t ∧
      (t.ep key).map (fun y => (y.queue, y.pend)) = some (e.queue ++ [m], min 255 (e.pend + 1)))))

/-- 08 R224 to R226, R236: SVOPEN with a good designator sends its request and retires; the answer gives the ends of the server under the lowest free handles with their rights and types, configures a dispenser, and fills d, or gives the code with which the server refuses. -/
def Claims.ServersOpen : Prop :=
  (∀ (s : State) (k : Nat) (p : Proc) (d : Reg) (a b : Src) (w y : Word), s.Runs k p [srcField a 0, srcField b 1] [w, y] [d] → (d ≠ 0 → (p.cell d).out < 3) →
    (svOk w = false → exec (.svopen d a b) s = .next (s.raiseWord k 0x01)) ∧
    (svOk w = true → y = 0 → ∃ (u : State) (n : Nat), exec (.svopen d a b) s = .next (u.retire k (consumeMask p [srcField a 0, srcField b 1]) []) ∧
      u.DueIn n (.serverAnswer { dest := p.dest d, core := p.core, desig := w, config := [] }) ∧
      (w.toNat / 2 ^ 60 = 2 → n = 10) ∧ (w.toNat / 2 ^ 60 = 5 → n = 4) ∧ { u with procs := s.procs, agenda := s.agenda, onceDue := s.onceDue } = s)) ∧
  (∀ (s : State) (r : SvReq) (k : Nat) (p : Proc), s.named r.dest.name = some (k, p) → p.name = r.dest.name →
    (s.svRefusal p r ≠ 0 → exec (.serverAnswer r) s = exec (.fill r.dest (BitVec.ofNat 64 (2 ^ 63 + s.svRefusal p r))) s) ∧
    (s.svRefusal p r = 0 → s.freeHandle p.name 0 = none → exec (.serverAnswer r) s = exec (.fill r.dest (BitVec.ofNat 64 (2 ^ 63 + 0x21))) s) ∧
    (∀ h ix, s.svRefusal p r = 0 → svKind r.desig = 2 → s.freeHandle p.name 0 = some h → s.freeEntry p.core 0 = some ix →
      ∃ (u : State) (e : Ep), exec (.serverAnswer r) s = exec (.fill r.dest (BitVec.ofNat 64 h)) u ∧ u.ep (p.core * 512 + ix) = some e ∧ e.server = some .timer ∧
        e.recv = true ∧ e.handle = h ∧ e.owner = p.name ∧ typKind e.typ = 3 ∧ typCap e.typ = 255) ∧
    (∀ h ix, s.svRefusal p r = 0 → svKind r.desig = 1 → r.config ≠ [] → s.freeHandle p.name 0 = some h → s.freeEntry p.core 0 = some ix →
      ∃ u : State, exec (.serverAnswer r) s = exec (.fill r.dest (BitVec.ofNat 64 h)) u ∧
        (u.ep (p.core * 512 + ix)).bind Ep.server = some (.dispenser (svNumber r.desig)) ∧
        (tget u.disps (svNumber r.desig)).map (fun x => (x.n, x.exhausted, x.config)) = some (0, false, r.config)))

/-- Multicast delivers, and servers open their ends. -/
def Obligations.MulticastAndServers : Prop :=
  Claims.MulticastDelivers ∧ Claims.ServersOpen

/-- 08 R228 to R234 and R409: a request that reaches a drover is acknowledged and held while it has a place; a FILL writes its pattern to a slice as the transfer ends, and its reply sets out with the credit it takes; a slice from the ring begins its access, which ends after latency and transfer; a reply that waited is sent when a credit comes. -/
def Obligations.DroversServe : Prop :=
  (∀ (s : State) (n pa : Nat) (r : DrReq), (s.drover n).held = [] → (s.drover n).ready = [] → (s.drover n).waiting = [] → s.drRefusal n r = none →
    s.reachable (pkgOf r.core) (n / 256) = true →
    s.slices (drAgent r) (drAddr r) (drBytes r) (drBytes r) = [(drAddr r, pa, drBytes r)] → pa / 2 ^ 11 % 64 = n % 64 →
    let home := droverFold (n / 64) (n % 64) * 8 + 7
    let q := { r with reply := locKey (s.follow 64 ⟨r.reply / 512, r.reply % 512, 0⟩), key := locKey (s.follow 64 ⟨r.key / 512, r.key % 512, 0⟩) }
    ∃ (t : State) (x : Access), exec (.droverRequest n r) s = .next t ∧ t.DueIn (s.ackBack r.msg home) (.sendAck r.msg ⟨home, 0, 0⟩) ∧
      t.DueIn (s.oneway home r.core) (.creditReturn r.msg.src) ∧ (t.drover n).held.map (fun z => (z.req, z.started, z.left)) = [(q, true, 1)] ∧
      x.kind = .slice n (s.drover n).nextId ∧ x.addr = pa ∧ x.size = drBytes r ∧
      (((s.drover n).times s.cycle (drBytes r)).2, Ev.droverAccessEnd n x) ∈ t.agenda ∧ t.mem = s.mem) ∧
  (∀ (s : State) (n : Nat) (r : DrReq), 64 ≤ (s.drover n).held.length → s.reachable (pkgOf r.core) (n / 256) = true →
    ∃ (t : State) (q : DrReq), exec (.droverRequest n r) s = .next t ∧ q.words = r.words ∧ q.name = r.name ∧ q.msg = r.msg ∧
    (t.drover n).waiting = (s.drover n).waiting ++ [q] ∧ (t.drover n).held = (s.drover n).held) ∧
  (∀ (s : State) (n : Nat) (x : Access),
    let z := (s.drover n).times s.cycle x.size
    ∃ t : State, exec (.slicePass n x) s = .next t ∧ (z.2, Ev.droverAccessEnd n x) ∈ t.agenda ∧ (s.cycle, z.1, z.2) ∈ (t.drover n).flow ∧ t.mem = s.mem ∧
    ((∀ y ∈ (s.drover n).flow, s.cycle < y.1) → z = (s.cycle, s.cycle + 96 + (8 * x.size + 374) / 375)) ∧
    (∀ y ∈ (s.drover n).flow, y.1 ≤ s.cycle → y.2.1 < z.1 ∧ y.2.2 + (8 * x.size + 374) / 375 ≤ z.2)) ∧
  (∀ (s : State) (n : Nat) (r : DrRec) (x : Access) (key : Nat) (e : Ep), (s.drover n).held = [r] → (s.drover n).waiting = [] → (s.drover n).ready = [] → r.started = true →
    r.left = 1 → x.kind = .slice n r.id → drOp r.req.words = 4 → s.MemOk → r.code = 0 → s.reachable (pkgOf r.req.core) (n / 256) = true →
    (r.reply = some key ∧ key < 512 * 2 ^ 25 ∧ s.ep key = some e ∧ e.fwd = none ∧ e.hwCredits ≠ 0 ∧ s.ep r.req.key = none ∧ r.req.key < 512 * 2 ^ 25) →
    ∃ t : State, exec (.droverAccessEnd n x) s = .next t ∧
      (∀ b, readByte t.mem b = if x.addr ≤ b ∧ b < x.addr + x.size then
        BitVec.ofNat 8 (drArg r.req % 2 ^ 64 / 2 ^ (8 * ((x.va - drAddr r.req + (b - x.addr)) % 8))) else readByte s.mem b) ∧
      (t.drover n).held = [] ∧ (t.ep key).map Ep.hwCredits = some (e.hwCredits - 1) ∧
      ∃ m : Msg, t.Due (.messageEnqueue (locOf key e) m) ∧
        m.body = .bytes (leBytes 8 ((4 * 2 ^ 48 + drField r.req.words 0 24) % 2 ^ 64) ++ leBytes 8 (r.value % 2 ^ 64))) ∧
  (∀ (s : State) (n : Nat) (r : DrRec) (key : Nat) (e : Ep), (s.drover n).ready = [r] → (s.drover n).waiting = [] → r.reply = some key → key < 512 * 2 ^ 25 → s.ep key = some e →
    e.fwd = none → e.hwCredits ≠ 0 → s.ep r.req.key = none → ∃ (t : State) (m : Msg), exec (.droverReplyRelease n) s = .next t ∧ (t.drover n).ready = [] ∧ t.Due (.messageEnqueue (locOf key e) m)) ∧
  (∀ (s : State) (n : Nat), (s.drover n).ready = [] → exec (.droverReplyRelease n) s = .next s)

/-- 08 R236 to R241 and 06 R159: DQRY and WFW send their query or registration to the dispenser, which serves it with the next item, in row-major or column-major order, or with all ones once it is exhausted; DQRY's item is written to the scratchpad and fills d; WFW waits and gets item, ordinal, ARG and handle in g1 to g4. -/
def Claims.DispensersHandOut : Prop :=
  (∀ (s : State) (k : Nat) (p : Proc) (d : Reg) (a b : Src) (x y : Word) (ke n : Nat) (e : Ep), x.toNat < 64 → s.handle p.name x.toNat = some (ke, e) →
    e.server = some (.dispenser n) →
    let way := s.oneway p.core (bothyFold (n / 16) * 8 + 7)
    (s.Runs k p [srcField a 0, srcField b 1] [x, y] [d] → (d ≠ 0 → (p.cell d).out < 3) → y.toNat % 8 = 0 → y.toNat < 2 ^ 24 → y.toNat + 8 ≤ scratchSize p.core → e.infl < 4 →
      ∃ u : State, exec (.dqry d a b) s = .next (u.retire k (consumeMask p [srcField a 0, srcField b 1]) []) ∧
        u.DueIn way (.dispenserQuery n (.dqry (p.dest d) p.core ke y.toNat)) ∧ (u.ep ke).map Ep.infl = some (e.infl + 1)) ∧
    (s.Runs k p [srcField a 0] [x] [] → ∃ (t : State) (q : Proc), exec (.wfw a) s = .next t ∧ t.proc k = some q ∧ q.st = .blocked ∧ q.wait = .wfw x.toNat ∧ q.pc = p.pc ∧
      q.regs = p.regs ∧ q.persist = true ∧ t.DueIn way (.dispenserQuery n (.wfw p.name ke)))) ∧
  (∀ (s : State) (n : Nat) (q : DispAsk), q ≠ .serve →
    (tget s.disps n = none → exec (.dispenserQuery n q) s = .next (s.answerAsk n q (BitVec.allOnes 64) 0 0)) ∧
    (∀ x, tget s.disps n = some x → ∃ t : State, exec (.dispenserQuery n q) s = .next t ∧
      (tget t.disps n).map Disp.queue = some (queueAsk (s.cycle, askCore q, q) x.queue) ∧
      (x.queue = [] → (max s.cycle x.next, Ev.dispenserQuery n .serve) ∈ t.agenda))) ∧
  (∀ (c o o' : Nat) (q q' : DispAsk), queueAsk (c, o, q) [(c, o', q')] = if o < o' then [(c, o, q), (c, o', q')] else [(c, o', q'), (c, o, q)]) ∧
  (∀ (s : State) (n at_ : Nat) (d : FillTo) (core key off : Nat) (x : Disp) (rest : List (Nat × Nat × DispAsk)), tget s.disps n = some x →
    let q : DispAsk := .dqry d core key off
    x.queue = (at_, core, q) :: rest →
    let way := s.oneway (bothyFold (n / 16) * 8 + 7) core
    let c (i : Nat) : Nat := (x.config.getD 0 0).toNat / 2 ^ (21 * i) % 2 ^ 21
    (rest ≠ [] → ∃ t : State, exec (.dispenserQuery n .serve) s = .next t ∧ t.DueIn 1 (.dispenserQuery n .serve)) ∧
    (x.exhausted = true → ∃ t : State, exec (.dispenserQuery n .serve) s = .next t ∧ t.DueIn way (.dqryAnswer q (BitVec.allOnes 64))) ∧
    (x.exhausted = false → ∃ t : State, exec (.dispenserQuery n .serve) s = .next t ∧
      (tget t.disps n).map (fun z => (z.n, z.exhausted, z.queue)) = some (x.n + 1, decide (c 0 * c 1 * c 2 ≤ x.n + 1), rest) ∧
      ((x.config.getD 1 0).toNat % 4 = 0 → t.DueIn way (.dqryAnswer q (BitVec.ofNat 64 (x.n / (c 0 * c 1) * 2 ^ 42 + x.n / c 0 % c 1 * 2 ^ 21 + x.n % c 0)))) ∧
      ((x.config.getD 1 0).toNat % 4 = 1 → t.DueIn way (.dqryAnswer q (BitVec.ofNat 64 (x.n % c 2 * 2 ^ 42 + x.n / c 2 % c 1 * 2 ^ 21 + x.n / (c 2 * c 1))))))) ∧
  (∀ (s : State) (n at_ o name key : Nat) (x : Disp), tget s.disps n = some x → x.queue = [(at_, o, .wfw name key)] → s.named name = none →
    exec (.dispenserQuery n .serve) s = .next { s with disps := tput s.disps n { x with queue := [] } }) ∧
  (∀ (s : State) (d : FillTo) (core key off k : Nat) (p : Proc) (item : Word), s.named d.name = some (k, p) → s.ep key = none → key < 512 * 2 ^ 25 →
    exec (.dqryAnswer (.dqry d core key off) item) s = exec (.fill d item) (s.writeMem (windowBase core + off) (leBytes 8 item.toNat))) ∧
  (∀ (s : State) (name k h : Nat) (p : Proc) (hd : Hold) (item ordinal arg : Word), s.named name = some (k, p) → p.wait = .wfw h → p.hold = some hd → p.st = .blocked → p.Unbound →
    p.onceOn = false → p.vact = false →
    ∃ (t : State) (q : Proc), exec (.wfwServe name item ordinal arg) s = .next t ∧ t.proc k = some q ∧ q.wait = .none ∧ q.pc = p.wordPc + 4 ∧
      (∀ r, q.reg r = if r = 1 then item else if r = 2 then ordinal else if r = 3 then arg else if r = 4 then BitVec.ofNat 64 h else
        p.reg r) ∧ (∀ r, 1 ≤ r.toNat → r.toNat ≤ 4 → q.full r = true))

/-- 08 R242 and R243, 07 R201: TIMER arms or disarms the deadline of its timer end and gives the one before; a deadline that comes frees its place, and its end gets a wake-up, or the waiting TRECV expires; a deadline that waits takes the place. -/
def Claims.TimersFire : Prop :=
  (∀ (s : State) (k : Nat) (p : Proc) (d : Reg) (a b : Src) (x y : Word) (ke : Nat) (e : Ep), s.Runs k p [srcField a 0, srcField b 1] [x, y] [d] → x.toNat < 64 →
    s.handle p.name x.toNat = some (ke, e) → s.ep ke = some e →
    let c := consumeMask p [srcField a 0, srcField b 1]
    (e.server ≠ some .timer → exec (.timer d a b) s = .next (s.raise k 0x09 x)) ∧
    (e.server = some .timer → (s.fold (foldOf p.core)).timerWait = [] →
      (y = 0 → ∃ u : State, exec (.timer d a b) s = .next (u.retire k c [(d, BitVec.ofNat 64 (e.armed.getD 0))]) ∧ (u.ep ke).map Ep.armed = some none ∧
        ∀ z ∈ (u.fold (foldOf p.core)).timers, z.who ≠ .timerEnd ke) ∧
      (y ≠ 0 → (s.fold (foldOf p.core)).timers.length < 256 → s.cycle ≤ s.gtcDue y.toNat → ∃ u : State,
        exec (.timer d a b) s = .next (u.retire k c [(d, BitVec.ofNat 64 (e.armed.getD 0))]) ∧ (u.ep ke).map Ep.armed = some (some y.toNat) ∧
        (s.gtcDue y.toNat, Ev.deadlineFire (foldOf p.core) ⟨.timerEnd ke, y.toNat⟩) ∈ u.agenda ∧
        ⟨.timerEnd ke, y.toNat⟩ ∈ (u.fold (foldOf p.core)).timers))) ∧
  (∀ (s : State) (f : Nat) (d : Deadline), (d ∉ (s.fold f).timers → exec (.deadlineFire f d) s = .next s) ∧
    (d ∈ (s.fold f).timers → (s.fold f).timerWait = [] →
      (∀ name, d.who = .trecv name → ∃ t : State, exec (.deadlineFire f d) s = .next t ∧ (t.fold f).timers = (s.fold f).timers.erase d ∧ t.DueIn 0 (.trecvExpiry name)) ∧
      (∀ ke e, d.who = .timerEnd ke → s.ep ke = some e → e.st = .opened → e.rx = none → s.OwnerIdle e → s.Uncounted ke → ∃ t : State, exec (.deadlineFire f d) s = .next t ∧
        (t.fold f).timers = (s.fold f).timers.erase d ∧ (t.ep ke).map (fun z => (z.pend, z.armed)) = some (min 255 (e.pend + 1), none)))) ∧
  (∀ (s : State) (f : Nat) (d : Deadline) (rest : List Deadline), (s.fold f).timerWait = d :: rest →
    (256 ≤ (s.fold f).timers.length → exec (.deadlineArm f) s = .next s) ∧
    ((s.fold f).timers.length < 256 → ∃ t : State, exec (.deadlineArm f) s = .next t ∧ (t.fold f).timers = (s.fold f).timers ++ [d] ∧ (t.fold f).timerWait = rest ∧
      t.Due (.deadlineFire f d)))

/-- Dispensers hand out items, timers fire. -/
def Obligations.DispensersAndTimers : Prop :=
  Claims.DispensersHandOut ∧ Claims.TimersFire

/-- 09 R256 to R263, Tables 9.2 to 9.4: the vector instructions that compute lane by lane retire with their results where the mask is set and with the old lanes elsewhere, and raise the flags of the lanes computed. A register beyond the allotment raises ALLOT, and a core without the unit ILLEGAL. -/
def Obligations.VectorLanesRetire : Prop :=
  ∀ (s : State) (k : Nat) (p : Proc) (d a b : BitVec 5) (mk e : BitVec 3), s.Issues k p →
    let on (i : Nat) : Bool := mk == 0 || (p.masks.toList.getD mk.toNat 0).getLsbD i
    let w := laneWidth e
    let x (i : Nat) : Nat := s.laneAt p a.toNat w i
    let y (i : Nat) : Nat := s.laneAt p b.toNat w i
    let m := rndOf p.rmode
    (∀ t ∈ vecTwo, (hasVtu p.core = false → exec (t.1 d a b mk e) s = .next (s.raiseWord k 0x01)) ∧
      (hasVtu p.core = true → (p.vcount = 0 ∨ ∃ v ∈ [d, a, b], p.vcount ≤ v.toNat) → exec (t.1 d a b mk e) s = .next (s.raiseWord k 0x10))) ∧
    (p.HasVectors [d, a, b] → s.MemOk →
      (∀ t ∈ vecTwo, s.ComputesLanes k p (t.1 d a b mk e) d w on (fun i => t.2 m e (x i) (y i))) ∧
      (∀ t ∈ vecFused, s.ComputesLanes k p (t.1 d a b mk e) d w on (fun i => t.2 m e (x i) (y i) (s.laneAt p d.toNat w i))) ∧
      (∀ t ∈ vecOne, s.ComputesLanes k p (t.1 d a mk e) d w on (fun i => t.2 m e (x i) 0)) ∧
      (∀ t ∈ vecFp32, s.ComputesLanes k p (t.1 d a mk) d 32 on (fun i => t.2 m (s.laneAt p a.toNat 32 i))) ∧
      s.ComputesLanes k p (.vsel d a b mk e) d w (fun _ => true) (fun i => (if on i then x i else y i, 0)) ∧
      s.ComputesLanes k p (.vperm d a b mk e) d w on (fun i => (x (y i % (512 / w)), 0)) ∧
      s.ComputesLanes k p (.vcmul d a b mk) d 32 (fun i => on (i / 2 * 2)) (fun i =>
        let u (r : BitVec 5) (j : Nat) : FVal := fp32.decode (s.laneAt p r.toNat 32 (i / 2 * 2 + j))
        if i % 2 = 0 then fp32.dot2 m false (u a 0) (u b 0) (u a 1).negate (u b 1) else fp32.dot2 m false (u a 0) (u b 1) (u a 1) (u b 0)))

/-- 09 R263, R266, R267 and Tables 9.3 and 9.4: comparisons and the mask instructions write masks; VMOVG, MSET.R and VRED give g registers a lane, a mask, a reduction; VBCAST, VMOVV and VSCAN write lanes. -/
def Claims.VectorMasksAndScalars : Prop :=
  ∀ (s : State) (k : Nat) (p : Proc) (d a : BitVec 5) (mk e : BitVec 3), s.Issues k p → p.HasVectors [d, a] → s.MemOk →
    let on (i : Nat) : Bool := mk == 0 || (p.masks.toList.getD mk.toNat 0).getLsbD i
    let mask (j : BitVec 3) : Word := if j = 0 then BitVec.allOnes 64 else p.masks.toList.getD j.toNat 0
    let w := laneWidth e
    let n := 512 / w
    let x (i : Nat) : Nat := s.laneAt p a.toNat w i
    let word (v : Nat) : Word := if e.toNat ≤ 3 then BitVec.ofInt 64 (asSigned w v) else BitVec.ofNat 64 v
    (∀ (cc : BitVec 2) (md : BitVec 3), md ≠ 0 → ∃ (q : Proc) (fl : FlagSet), exec (.vcmp cc md d a mk e) s = .next ((s.putProc k q).retireFlags k 0 [] fl) ∧
      { q with masks := p.masks } = p ∧ (∀ j : BitVec 3, j ≠ md → q.masks.toList.getD j.toNat 0 = p.masks.toList.getD j.toNat 0) ∧
      (∀ i, n ≤ i → (q.masks.toList.getD md.toNat 0).getLsbD i = false) ∧
      (∀ i < n, on i = false → (q.masks.toList.getD md.toNat 0).getLsbD i = (p.masks.toList.getD md.toNat 0).getLsbD i) ∧
      (∀ i < n, on i = true → e.toNat ≤ 3 → (q.masks.toList.getD md.toNat 0).getLsbD i =
        (let u := asSigned w (s.laneAt p d.toNat w i); let v := asSigned w (x i)
         if cc = 0 then decide (u = v) else if cc = 1 then decide (u < v) else if cc = 2 then decide (u ≤ v) else decide (u ≠ v))) ∧
      (∀ i < n, on i = true → 4 ≤ e.toNat → (q.masks.toList.getD md.toNat 0).getLsbD i =
        (let f := laneFmt e; let u := s.laneAt p d.toNat w i
         if cc = 0 then (f.feq u (x i)).1 else if cc = 1 then (f.flt false u (x i)).1 else if cc = 2 then (f.flt true u (x i)).1 else !(f.feq u (x i)).1))) ∧
    (∀ (md m1 m2 : BitVec 3) (r : Reg), md ≠ 0 →
      let put (v : Word) : Proc := { p with masks := p.masks.set! md.toNat v }
      (∀ v, s.Gives p [plainField r 0] [v] → exec (.mset md r) s = .next ((s.putProc k (put v)).retire k (consumeMask p [plainField r 0]) [])) ∧
      (s.Takes p [r] → exec (.msetR r m1) s = .next (s.retire k 0 [(r, mask m1)])) ∧
      exec (.mand md m1 m2) s = .next ((s.putProc k (put (mask m1 &&& mask m2))).retire k 0 []) ∧
      exec (.mor md m1 m2) s = .next ((s.putProc k (put (mask m1 ||| mask m2))).retire k 0 []) ∧
      exec (.mnot md m1) s = .next ((s.putProc k (put (~~~(mask m1)))).retire k 0 [])) ∧
    (∀ (r z : Reg) (v y : Word),
      (s.Gives p [plainField r 0] [v] → ∃ u : State, exec (.vbcast d r mk e) s = .next (u.retire k (consumeMask p [plainField r 0]) []) ∧
        s.WritesLanes u p d.toNat w (fun i => if on i then v.toNat else s.laneAt p d.toNat w i)) ∧
      (s.Gives p [plainField z 1] [y] → s.Takes p [r] → exec (.vmovg r a z e) s =
        .next (s.retire k (consumeMask p [plainField z 1]) [(r, word (x (y.toNat % n)))])) ∧
      (s.Gives p [plainField r 0, plainField z 1] [v, y] → ∃ u : State, exec (.vmovv d r z e) s =
        .next (u.retire k (consumeMask p [plainField r 0, plainField z 1]) []) ∧
        s.WritesLanes u p d.toNat w (fun i => if i = y.toNat % n then v.toNat else s.laneAt p d.toNat w i))) ∧
    (∀ (r : Reg) (o : BitVec 2), s.Takes p [r] → (r ≠ 0 → (p.cell r).out < 3) → ∃ (u : State) (v : Nat) (fl : FlagSet),
      exec (.vred r a o mk e) s = .next (u.retireFlags k 0 [] fl) ∧ (r ≠ 0 → u.DueIn 8 (.fill (p.dest r) (word v)) ∧ (∃ q, u.proc k = some q ∧ q.regs = (p.produce r).regs ∧ (p.portOf r = none → q = p.produce r))) ∧
      (o = 0 → e.toNat ≤ 3 → v = ((List.range n).map (fun i => if on i then x i else 0)).sum % 2 ^ w) ∧
      (o = 1 → e.toNat ≤ 3 → v < 2 ^ w ∧ (∀ i < n, on i = true → asSigned w v ≤ asSigned w (x i)) ∧
        ((∃ i < n, on i = true) → ∃ i < n, on i = true ∧ v = x i))) ∧
    (∀ o : BitVec 2, ∃ (u : State) (ls : Nat → Nat) (fl : FlagSet), exec (.vscan d a o mk e) s = .next (u.retireFlags k 0 [] fl) ∧
      s.WritesLanes u p d.toNat w (fun i => if on i then ls i else s.laneAt p d.toNat w i) ∧
      (o = 0 → e.toNat ≤ 3 → ∀ i, ls i = ((List.range (i + 1)).map (fun j => if on j then x j else 0)).sum))

/-- 09 R264, R265 and 02 R34, R41, R42: VCVT converts lanes; VQNT stores 32 elements and their scale in one register, the scale the least by which every element fits; VDQN gives them back. -/
def Claims.VectorConversions : Prop :=
  ∀ (s : State) (k : Nat) (p : Proc) (d a : BitVec 5) (mk e : BitVec 3) (f : BitVec 4), s.Issues k p → s.MemOk → p.rmode < 5 →
    (∀ h : BitVec 1, (Instr.vcvt d a h f mk e).wf = true → p.HasVectors [d, a] → ∃ (u : State) (fl : FlagSet),
      exec (.vcvt d a h f mk e) s = .next (u.retireFlags k 0 [] fl) ∧ u.proc k = some p ∧ { u with mem := s.mem, poison := s.poison, procs := s.procs } = s ∧
      (let w := Sub.formatBits f
       let n := 512 / w
       let m := laneCount e
       let on (i : Nat) : Bool := mk == 0 || (p.masks.toList.getD mk.toNat 0).getLsbD i
       s.HoldsLanes u p d.toNat w (fun i =>
         if on i = true ∧ (m < n → h.toNat * m ≤ i ∧ i < h.toNat * m + m) then
           (laneConvert e f.toNat (rndOf p.rmode)
             (s.laneAt p a.toNat (laneWidth e) (if m < n then i - h.toNat * m else if n < m then h.toNat * n + i else i))).1
         else s.laneAt p d.toNat w i))) ∧
    (∀ z : BitVec 1, (Instr.vqnt d a z f e).wf = true → p.HasVectors ([d, a] ++ (if e = 4 then [a + 1] else [])) → ∃ (u : State) (fl : FlagSet),
      exec (.vqnt d a z f e) s = .next (u.retireFlags k 0 [] fl) ∧ u.proc k = some p ∧ { u with mem := s.mem, poison := s.poison, procs := s.procs } = s ∧
      (let v (i : Nat) : FVal := (laneFmt e).decode (s.laneAt p a.toNat (laneWidth e) i)
       let big : ℚ := if f = 3 then 448 else if f = 4 then 57344 else if f = 5 then 6 else 64
       let scale := u.laneAt p d.toNat 8 32
       (∀ i, 33 ≤ i → i < 64 → u.laneAt p d.toNat 8 i = 0) ∧
       ((∃ i < 32, (v i).isNan = true ∨ (v i).isInf = true) → e = 6 → scale = 0xFF) ∧
       ((∀ i < 32, (v i).isNan = false ∧ (v i).isInf = false) → e = 6 →
         scale ≤ 254 ∧ (scale < 254 → ∀ i < 32, |ratOf (v i)| ≤ big * 2 ^ ((scale : Int) - 127)) ∧
         (0 < scale → ∃ i < 32, big * 2 ^ ((scale : Int) - 128) < |ratOf (v i)|) ∧
         (f ≠ 5 → ∀ i < 32, u.laneAt p d.toNat 8 i = (blockElem f.toNat scale (z = 1) (v i) (rndOf p.rmode)).1 % 2 ^ 8)))) ∧
    ((Instr.vdqn d a f e).wf = true → p.HasVectors ([a, d] ++ (if e = 4 then [d + 1] else [])) → ∃ (u : State) (fl : FlagSet),
      exec (.vdqn d a f e) s = .next (u.retireFlags k 0 [] fl) ∧ u.proc k = some p ∧ { u with mem := s.mem, poison := s.poison, procs := s.procs } = s ∧
      (e = 6 → f ≠ 5 → s.HoldsLanes u p d.toNat 16 (fun i =>
        (codeRound 1 (rndOf p.rmode) false false (blockDecode f.toNat (s.laneAt p a.toNat 8 32) (s.laneAt p a.toNat 8 i))).1)))

/-- 03 R56 and 09 R271: VREP captures the words that follow and goes on with the first of them; a word among them of another major is ILLEGAL with that word. -/
def Claims.FramesCapture : Prop :=
  ∀ (s : State) (k : Nat) (p : Proc) (w : BitVec 4) (r : BitVec 6) (sd sa sb : BitVec 5), s.Issues k p → p.HasVectors [] → p.pfx = [] → p.onceOn = false → s.poison = [] →
    let word (i : Nat) : Nat := readLe s.mem (windowBase p.core + 0x120000 + (p.pc + BitVec.ofNat 16 (4 * (i + 1))).toNat) 4
    ((∀ i ≤ w.toNat, 0x28 ≤ word i / 2 ^ 26 ∧ word i / 2 ^ 26 ≤ 0x2B) → ∃ q, exec (.vrep w r sd sa sb) s = .next (s.putProc k q) ∧ q.vact = true ∧ q.pc = p.pc + 4 ∧
      q.vrep = (List.range (w.toNat + 1)).map (fun i => BitVec.ofNat 32 (word i)) ∧ q.vword = 0 ∧ q.vrepn = 0 ∧ q.regs = p.regs) ∧
    (∀ i ≤ w.toNat, (∀ j < i, 0x28 ≤ word j / 2 ^ 26 ∧ word j / 2 ^ 26 ≤ 0x2B) → (word i / 2 ^ 26 < 0x28 ∨ 0x2B < word i / 2 ^ 26) →
      exec (.vrep w r sd sa sb) s = .next (s.raise k 0x01 (BitVec.ofNat 64 (word i))))

/-- Masks, scalars, conversions and frames of the vector unit. -/
def Obligations.VectorOthers : Prop :=
  Claims.VectorMasksAndScalars ∧ Claims.VectorConversions ∧ Claims.FramesCapture

/-- 09 R268 and R269: vector loads from the process's own scratchpad retire with the elements at the lanes' addresses, of unit stride, of the stride in b, or of the indices in vb; vector stores post one store for every lane that is on; a misaligned lane raises MISALIGN with its address; a load of other lanes retires when the last of them has arrived. -/
def Obligations.VectorMemory : Prop :=
  (∀ (s : State) (k : Nat) (p : Proc) (d b : BitVec 5) (a g : Reg) (o : BitVec 5) (mk e : BitVec 3) (x y : Word), s.Issues k p → p.HasVectors [d, b] → s.MemOk → p.hold = none →
    let on (i : Nat) : Bool := mk == 0 || (p.masks.toList.getD mk.toNat 0).getLsbD i
    let w := laneWidth e
    let z := w / 8
    ∀ t ∈ [(Instr.vld d a o mk e, Instr.vst d a o mk e, [plainField a 0], [x], fun i : Nat => ((x.toNat + o.toInt * 64 + (i * z : Nat)) % 2 ^ 64).toNat),
           (.vlds d a g mk e, .vsts d a g mk e, [plainField a 0, plainField g 1], [x, y], fun i => (x.toNat + i * y.toNat) % 2 ^ 64),
           (.vgath d a b mk e, .vscat d a b mk e, [plainField a 0], [x], fun i => (x.toNat + s.laneAt p b.toNat w i) % 2 ^ 64)],
      s.Gives p t.2.2.1 t.2.2.2.1 →
      let at_ := t.2.2.2.2
      (∀ i < 512 / w, on i = true → at_ i % z ≠ 0 → (∀ j < i, on j = true → at_ j % z = 0) →
        exec t.1 s = .next (s.raise k 0x03 (BitVec.ofNat 64 (at_ i))) ∧ exec t.2.1 s = .next (s.raise k 0x03 (BitVec.ofNat 64 (at_ i)))) ∧
      ((∀ i < 512 / w, on i = true → at_ i % z = 0 ∧ 0xC0000000000000 ≤ at_ i ∧ at_ i + z ≤ 0xC0000000000000 + scratchSize p.core - 2048 * (s.core p.core).extSize) →
        coreIdOk p.core = true → pkgOf p.core ∈ s.packages → (s.fold (foldOf p.core)).fenced = false → s.poison = [] →
        s.Settled p → tget s.bundles p.name = none →
        ∃ u : State, exec t.1 s = .next (u.retire k (consumeMask p t.2.2.1) []) ∧ s.WritesLanes u p d.toNat w (fun i =>
          if on i then readLe s.mem (windowBase p.core + at_ i - 0xC0000000000000) z else s.laneAt p d.toNat w i)) ∧
      ((∀ i < 512 / w, on i = true → at_ i % z = 0) →
        ((((List.range (512 / w)).filter on).map (fun i => at_ i / 64)).dedup).length ≤ s.sbRoom p.core p.name →
        ∃ (u : State) (es : List SbEntry), exec t.2.1 s = .next (u.retire k (consumeMask p t.2.2.1) []) ∧ (u.core p.core).sb = (s.core p.core).sb ++ es ∧
          es.length = ((List.range (512 / w)).filter on).length ∧ u.mem = s.mem ∧
          (∀ i < 512 / w, on i = true → ∃ q ∈ es, q.va = at_ i ∧ q.size = z ∧ q.name = p.name ∧ q.data.toNat = s.laneAt p d.toNat w i ∧
            u.Due (.storeTranslate p.core q.id)))) ∧
  (∀ (s : State) (name k d z : Nat) (p : Proc) (h : Hold) (ls : List (Nat × Nat × Nat)), s.named name = some (k, p) → p.wait = .access → p.st = .parked → p.hold = some h →
    h.arg2 = 9 → h.issuedAt = s.cycle → z ∈ [1, 2, 4, 8] → h.arg = d * 64 + z → s.MemOk → s.Settled p → tget s.bundles p.name = none →
    h.words = ls.flatMap (fun l => [BitVec.ofNat 64 l.1, BitVec.ofNat 64 l.2.1, BitVec.ofNat 64 l.2.2]) → (ls.map Prod.fst).Nodup →
    (∀ l ∈ ls, l.1 < 64 / z ∧ l.2.1 < 2 ^ 64 ∧ l.2.2 < 2 ^ 64 ∧ (∃ f n, placeOf l.2.2 = .hbm f n) ∧ s.laneFault p l.2.1 z (BitVec.ofNat 64 l.2.2) = none) →
    ∃ u : State, exec (.vectorLoadComplete name) s = .next (u.retire k h.consume []) ∧
      (∀ l ∈ ls, u.laneAt p d (8 * z) l.1 = readLe s.mem l.2.2 z) ∧
      (∀ i < 64 / z, (∀ l ∈ ls, l.1 ≠ i) → u.laneAt p d (8 * z) i = s.laneAt p d (8 * z) i))

/-- 09 R273 to R277: TDEF defines a tile of its process in an EMPTY entry or one it owns, READY with a new generation; a word of zeros empties it; an invalid layout is ILLEGAL, an address that is no multiple of 16 MISALIGN, rows outside the scratchpad LOAD_FAULT. TSTAT reads an entry's state, error, generation and owner. On a core without a vector and tile unit both are ILLEGAL. -/
def Claims.TileEntries : Prop :=
  ∀ (s : State) (k : Nat) (p : Proc),
    (∀ (d : BitVec 5) (a b : Reg) (lay w : Word), s.Runs k p [plainField a 0, plainField b 1] [lay, w] [] →
      let y := s.tileAt p.core d.toNat
      let base := w.toNat % 2 ^ 24
      (hasVtu p.core = false → exec (.tdef d a b) s = .next (s.raiseWord k 0x01)) ∧
      (hasVtu p.core = true → y.st = .empty ∨ (y.owner = p.name ∧ y.st = .ready) →
        (lay ≠ 0 → layoutOk lay = false ∨ w.toNat / 2 ^ 30 % 4 ≠ 0 → exec (.tdef d a b) s = .next (s.raiseWord k 0x01)) ∧
        (lay ≠ 0 → layoutOk lay = true → w.toNat / 2 ^ 30 % 4 = 0 → base % 16 ≠ 0 → exec (.tdef d a b) s = .next (s.raise k 0x03 w)) ∧
        (lay ≠ 0 → layoutOk lay = true → w.toNat / 2 ^ 30 % 4 = 0 → base % 16 = 0 → scratchSize p.core < base + (layRows lay - 1) * layStep lay + layRowBytes lay →
          exec (.tdef d a b) s = .next (s.raise k 0x04 w)) ∧
        (lay ≠ 0 → layoutOk lay = true → w.toNat / 2 ^ 30 % 4 = 0 → base % 16 = 0 → layFormat lay ∉ [3, 4, 5, 6] →
          base + (layRows lay - 1) * layStep lay + layRowBytes lay ≤ scratchSize p.core →
          ∃ u : State, exec (.tdef d a b) s = .next (u.retire k (consumeMask p [plainField a 0, plainField b 1]) []) ∧
            u.tileAt p.core d.toNat = Tile.mk p.name lay (w.toNat / 2 ^ 32) (w.toNat / 2 ^ 25 % 32) (w.getLsbD 24) base 0 false 0
              ((y.gen + 1) % 256) .ready 0 none ∧
            (u.proc k).map (fun q => (q.heavy, q.regs)) = some (true, p.regs) ∧ { u with tiles := s.tiles, procs := s.procs } = s) ∧
        (lay = 0 → y.st = .ready → ∃ u : State, exec (.tdef d a b) s = .next (u.retire k (consumeMask p [plainField a 0, plainField b 1]) []) ∧
          (u.tileAt p.core d.toNat).st = .empty ∧ (u.tileAt p.core d.toNat).owner = 0 ∧ { u with tiles := s.tiles, procs := s.procs } = s))) ∧
    (∀ (d : Reg) (a : BitVec 5), s.Issues k p → s.Takes p [d] →
      let y := s.tileAt p.core a.toNat
      (hasVtu p.core = false → exec (.tstat d a) s = .next (s.raiseWord k 0x01)) ∧
      (hasVtu p.core = true → exec (.tstat d a) s = .next (s.retire k 0 [(d, BitVec.ofNat 64
        ((match y.st with | .empty => 0 | .filling => 1 | .ready => 2 | .draining => 3) * 2 ^ 62 + (if y.err then 2 ^ 61 else 0) +
          y.errc * 2 ^ 56 + y.gen * 2 ^ 48 + y.owner))])))

/-- 09 R276, R281, R284, R289 to R298: a tile instruction that names a tile or bank of another process, or shapes that its rule forbids, is ILLEGAL; a named tile with an error raises ENGINE with reason 2. Otherwise its operands are latched, its tile is FILLING, and its process waits in its slot for the event that ends the first of its groups. -/
def Claims.TileInstructionsRun : Prop :=
  ∀ (s : State) (k : Nat) (p : Proc) (c : BitVec 1) (d a b x : BitVec 5) (fn : BitVec 3) (z y : BitVec 1),
    s.Issues k p → p.seq = none →
    ∀ i ∈ [(Instr.tcvt d a z y, TOp.tcvt d.toNat a.toNat), (.mma c a b z y, .mma c.toNat a.toNat b.toNat),
           (.mmag c a b z y x, .mmag c.toNat a.toNat b.toNat x.toNat), (.cmma c a b z y, .cmma c.toNat a.toNat b.toNat),
           (.gmma c a b z y, .gmma c.toNat a.toNat b.toNat), (.azero c, .azero c.toNat), (.tadd d a b z y, .tadd d.toNat a.toNat b.toNat),
           (.tmul d a b z y, .tmul d.toNat a.toNat b.toNat), (.tact d a x z y fn, .tact d.toNat a.toNat x.toNat fn.toNat),
           (.tsum d a z y, .tsum d.toNat a.toNat), (.ttrn d a, .ttrn d.toNat a.toNat)],
      (s.tileHeld p.core p i.2 = true → exec i.1 s = .next s) ∧
      (s.tileHeld p.core p i.2 = false → s.tileLegal p.core p i.2 = false → exec i.1 s = .next (s.raiseWord k 0x01)) ∧
      (s.tileLegal p.core p i.2 = true → s.sideBusy p.core = false → s.tileWaits p.core p i.2 = false → s.Settled p →
        (∀ n, (s.namedTiles p i.2).find? (fun m => (s.tileAt p.core m).err) = some n → (s.tileAt p.core n).errc < 32 → exec i.1 s =
          .next (s.raise k 0x15 (BitVec.ofNat 64 (9 * 2 ^ 56 + 2 * 2 ^ 48 + n * 2 ^ 43 + (s.tileAt p.core n).errc)))) ∧
        (s.tileFault p.core p i.2 none = none → s.tapeOf p = none →
          ∃ (t : State) (q : Proc) (r : TRun), exec i.1 s = .next t ∧ t.proc k = some q ∧ q.wait = .engine ∧ q.pc = p.pc ∧ q.regs = p.regs ∧
            (t.core p.core).run = some r ∧ r.name = p.name ∧ r.op = i.2 ∧ r.step = 0 ∧ r.remote = false ∧ (r.a, r.b) = s.latches p.core p i.2 ∧
            r.tfmt = p.tfmt ∧ t.mem = s.mem ∧
            (∀ n, i.2.writes = some n → (t.tileAt p.core n).st = .filling) ∧
            ((∀ n m l, i.2 ≠ .gmma n m l) → s.cycle < r.due ∧
              (r.due, if r.total ≤ 1 then Ev.tileOpComplete p.core else Ev.kGroupDone p.core) ∈ t.agenda) ∧
            (∀ n m l, i.2 = .gmma n m l → r.started = false ∧ r.ordinal = some (p.gmma + 1) ∧
              (((s.group? p.gid).map Group.gangSize).getD 0 ≤ (t.gangRuns p.gid (p.gmma + 1)).length →
                t.Due (.gangProductStart p.gid (p.gmma + 1))))))

/-- 02 R43 to R45, 09 R290, R296, R301 to R303: a group of a product adds to every element of its bank the exact sum of its products, rounded as FP32; a group of an elementwise instruction writes eight rows; AZERO writes +0. The last group ends the instruction: its tile is READY with a new generation, and its process goes on. -/
def Claims.TileGroupsEnd : Prop :=
  ∀ (s : State) (core k : Nat) (p : Proc) (r : TRun),
    (s.core core).run = some r → s.named r.name = some (k, p) → p.wait = .engine → p.suspend = [] → p.stopped = false → s.MemOk → r.first ≤ r.step →
    r.due = s.cycle → r.started = true → r.remote = false → r.tfmt.getLsbD 16 = false → r.nan = none → r.step < r.total → (s.core core).commands = [] →
    let row (d i : Nat) : Nat := windowBase core + (s.tileAt core d).base + i * layStep (s.layAt core d)
    let e := if r.step + 1 < r.total then exec (.kGroupDone core) s else exec (.tileOpComplete core) s
    ∃ t : State, e = .next t ∧
      (∀ b x y, b < 2 → r.op = .mma b x y → r.a.fmt ≠ 7 → tfmtAcc r.tfmt = 0 → r.a.rows.length ≤ 64 → r.b.rows.length ≤ 128 →
        ∀ i < r.a.rows.length, ∀ j < r.b.rows.length,
          let xs := r.a.part r.daz r.step (kGroup r.a.fmt) i
          let ys := r.b.part r.daz r.step (kGroup r.a.fmt) j
          t.bankElem core b 0 i j = [(accumulate r.ftz r.daz ((s.bankElem core b 0 i j).headD 0)
            (groupSum xs.1 ys.1 (xs.2.2 + ys.2.2) (xs.2.1 || ys.2.1)).1).1 % 2 ^ 32]) ∧
      (∀ d x y, (r.op = .tadd d x y ∨ r.op = .tmul d x y) → layoutOk (s.layAt core d) = true → layFormat (s.layAt core d) ≤ 2 →
        r.a.cols = layCols (s.layAt core d) → r.b.cols = layCols (s.layAt core d) → ∀ i, 8 * r.step ≤ i → i < 8 * r.step + 8 →
        readBytes t.mem (row d i) (layRowBytes (s.layAt core d)) = rowBytes (layFormat (s.layAt core d))
          (List.zipWith (fun v w => (if r.op = .tadd d x y then (codeFmt (layFormat (s.layAt core d))).addVals .rne r.ftz v w
            else (codeFmt (layFormat (s.layAt core d))).mulVals .rne r.ftz v w).1) (r.a.values r.daz i) (r.b.values r.daz i))) ∧
      (∀ b, b < 2 → r.op = .azero b → ∀ o < 0x8000, readByte t.mem (windowBase core + 0x100000 + b * 0x8000 + o) = 0) ∧
      (r.step + 1 < r.total → ∃ q : TRun, (t.core core).run = some q ∧ q.step = r.step + 1 ∧ q.op = r.op ∧ (t.proc k).map Proc.wait = some .engine) ∧
      (r.step + 1 = r.total → (t.core core).run = none ∧
        (∀ n, r.op.writes = some n → (t.tileAt core n).st = .ready ∧ (t.tileAt core n).gen = ((s.tileAt core n).gen + 1) % 256) ∧
        (p.vact = false → p.pfx = [] → p.onceOn = false → (t.proc k).map (fun q => (q.wait, q.pc, q.regs)) = some (.none, p.pc + 4, p.regs)))

/-- Tiles are defined, tile instructions run, groups end. -/
def Obligations.TilesCompute : Prop :=
  Claims.TileEntries ∧ Claims.TileInstructionsRun ∧ Claims.TileGroupsEnd

/-- 09 R293: a gang's product starts once every member has issued it; each then runs with the A of its source. -/
def Claims.GangProductsStart : Prop :=
  ∀ (s : State) (gid n : Nat) (g : Group), s.group? gid = some g →
    ((s.gangRuns gid n).length < g.gangSize → exec (.gangProductStart gid n) s = .next s) ∧
    (∀ (c1 c2 k1 k2 : Nat) (p1 p2 : Proc) (r1 r2 : TRun), g.gangSize = 2 → s.gangRuns gid n = [(c1, k1, p1, r1), (c2, k2, p2, r2)] → c1 ≠ c2 →
      (s.core c1).run = some r1 → (s.core c2).run = some r2 → p1.gang = some 0 → p2.gang = some 1 →
      r1.b.cols = r1.a.cols → r2.b.cols = r1.a.cols → r2.b.fmt = r1.b.fmt → r1.a.fmt = r1.b.fmt →
      ∃ (t : State) (q1 q2 : TRun), exec (.gangProductStart gid n) s = .next t ∧ (t.core c1).run = some q1 ∧ (t.core c2).run = some q2 ∧
        q1.started = true ∧ q2.started = true ∧ q1.a = r1.a ∧ q2.a = r1.a ∧ q1.total = r1.a.cols / kGroup r1.a.fmt ∧ q2.total = q1.total ∧
        t.mem = s.mem ∧ t.procs = s.procs)

/-- 09 R285 to R287, R294, R295: TLOAD, TSTORE and ADRAIN retire with their transfer under way, and a TLOAD or TSTORE whose pages cannot be read or written raises LOAD_FAULT with the address; the end of the transfer gives the tile its rows, READY with a new generation, and the last read of a drain gives its rows. -/
def Claims.TilesMove : Prop :=
  (∀ (s : State) (k : Nat) (p : Proc) (d : BitVec 5) (a b : Reg) (v w : Word) (load : Bool),
    s.Runs k p [plainField a 0, plainField b 1] [v, w] [] →
    let op : TOp := if load then .tload d.toNat else .tstore d.toNat
    let i : Instr := if load then .tload d a b else .tstore d a b
    let step := if w = 0 then BitVec.ofNat 64 (layRowBytes (s.layAt p.core d.toNat)) else w
    (hasVtu p.core = true → s.tileHeld p.core p op = true → exec i s = .next s) ∧
    (s.tileHeld p.core p op = false → s.tileLegal p.core p op = false → exec i s = .next (s.raiseWord k 0x01)) ∧
    (s.tileLegal p.core p op = true → s.sideBusy p.core = false → s.tileWaits p.core p op = false → (s.tileAt p.core d.toNat).err = false →
      (∀ va, s.tileParts (s.agentOf p) (s.layAt p.core d.toNat) load v step = .error va → exec i s = .next (s.raise k 0x04 (BitVec.ofNat 64 va))) ∧
      (∀ ps, s.tileParts (s.agentOf p) (s.layAt p.core d.toNat) load v step = .ok ps → s.Settled p → s.tapeOf p = none →
        ∃ u : State, exec i s = .next (u.retire k (consumeMask p [plainField a 0, plainField b 1]) []) ∧
          (u.tileAt p.core d.toNat).st = (if load then .filling else .draining) ∧
          (u.tileAt p.core d.toNat).job = some (!load, ps, p.core, p.gid, p.level) ∧
          u.DueIn (s.tileTime p.core ps load) (.tileTransferComplete p.core d.toNat) ∧ { u with tiles := s.tiles, agenda := s.agenda, drovers := s.drovers } = s))) ∧
  (∀ (s : State) (core n : Nat), n < 32 → (s.tileAt core n).due = s.cycle → (s.tileAt core n).owner ≠ 0 → (s.core core).commands = [] →
    let y := s.tileAt core n
    (y.job = none → ∃ t : State, exec (.tileTransferComplete core n) s = .next t ∧ (t.tileAt core n).st = .ready ∧
      (t.tileAt core n).gen = (y.gen + 1) % 256 ∧ { t with tiles := s.tiles } = s) ∧
    (∀ wr ps c gid level, y.job = some (wr, ps, c, gid, level) → s.MemOk →
      (∀ x ∈ wordParts ps, s.partFault c gid level x.1 x.2 wr = none) →
      (wr = true → s.tilePoisoned core n 0 none = false → ∃ t : State, exec (.tileTransferComplete core n) s = .next t ∧ (t.tileAt core n).st = .ready ∧ (t.tileAt core n).gen = y.gen) ∧
      (wr = false → layoutOk y.layout = true → layFormat y.layout ∉ [3, 4, 5, 6] → (s.partBytes (wordParts ps)).length = layRows y.layout * layRowBytes y.layout →
        ∃ t : State, exec (.tileTransferComplete core n) s = .next t ∧ (t.tileAt core n).st = .ready ∧ (t.tileAt core n).gen = (y.gen + 1) % 256 ∧
          ∀ r < layRows y.layout, readBytes t.mem (windowBase core + y.base + r * layStep y.layout) (layRowBytes y.layout) =
            ((s.partBytes (wordParts ps)).drop (r * layRowBytes y.layout)).take (layRowBytes y.layout)))) ∧
  (∀ (s : State) (k : Nat) (p : Proc) (d : BitVec 5) (b z x : BitVec 1), s.Issues k p →
    s.tileLegal p.core p (.adrain d.toNat b.toNat (x = 1)) = true → s.sideBusy p.core = false →
    s.tileWaits p.core p (.adrain d.toNat b.toNat (x = 1)) = false → (s.tileAt p.core d.toNat).err = false → s.tapeOf p = none → s.Settled p →
    let time := 2 + lenB (drainBytes (s.layAt p.core d.toNat) (tfmtAcc p.tfmt))
    (∃ u : State, exec (.adrain d b z x) s = .next (u.retire k 0 []) ∧ (u.tileAt p.core d.toNat).st = .filling ∧
      (u.bankAt p.core b.toNat).drain.isSome ∧ u.DueIn time (.drainComplete p.core b.toNat) ∧ u.mem = s.mem) ∧
    (∀ (g : Reg) (w : BitVec 1) (v : Word) (ke : Nat) (e : Ep), s.Gives p [plainField g 1] [v] → v.getLsbD 38 = false → v.toNat / 2 ^ 24 % 2 ^ 8 = 0 → coreIdOk (v.toNat / 2 ^ 39) = true →
      v.toNat % 16 = 0 → s.handle p.name (v.toNat / 2 ^ 32 % 64) = some (ke, e) → s.ep ke = some e → e.recv = false → typKind e.typ = 3 → e.server = none → e.waitK = 0 →
      e.infl < 65535 → ∃ u : State, exec (.adrainR d b g z x w) s = .next (u.retire k (consumeMask p [plainField g 1]) []) ∧
        (u.bankAt p.core b.toNat).drain.isSome ∧ u.DueIn time (.drainComplete p.core b.toNat) ∧ u.mem = s.mem ∧
        (u.ep ke).map Ep.infl = some (e.infl + 1))) ∧
  (∀ (s : State) (core b : Nat) (x : Drain), b < 2 → (s.bankAt core b).drain = some x → x.due = s.cycle → x.remote = none → s.drainPoisoned core b x = false → s.MemOk →
    (s.core core).commands = [] → x.layout = s.layAt core x.tile → layoutOk x.layout = true → layFormat x.layout ≤ 2 → x.acc = 0 →
    ∃ t : State, exec (.drainComplete core b) s = .next t ∧ (t.bankAt core b).drain = none ∧ (x.rel = true → (t.bankAt core b).owner = 0) ∧
      t.DueIn 2 (.tileTransferComplete core x.tile) ∧ (t.tileAt core x.tile).due = s.cycle + 2 ∧
      ∀ i < layRows x.layout, readBytes t.mem (windowBase core + (s.tileAt core x.tile).base + i * layStep x.layout) (layRowBytes x.layout) =
        rowBytes (layFormat x.layout) ((List.range (layCols x.layout)).map (fun j =>
          (codeRound (layFormat x.layout) .rne x.ftz false (fp32.decode ((s.bankElem core b 0 i j).headD 0))).1)))

/-- 09 R299 and R300: a command sets out for its core, and its sender waits; a core takes one whose capability and check value its tile entry holds, queues it and answers that it has; the answer lets the sender go on, or raises WINDOW_NAK with the address of the entry. -/
def Claims.TileCommandsTravel : Prop :=
  (∀ (s : State) (k : Nat) (p : Proc) (a b : Reg) (cap w : Word) (op : TOp) (z y : Bool) (fa fb : Nat),
    s.Runs k p [plainField a 0, plainField b 1] [cap, w] [] →
    (hasVtu p.core = false → exec (.tcmd a b) s = .next (s.raiseWord k 0x01)) ∧
    (hasVtu p.core = true → commandOf w.toNat = none → exec (.tcmd a b) s = .next (s.raise k 0x01 w)) ∧
    (hasVtu p.core = true → commandOf w.toNat = some (op, z, y, fa, fb) → (∀ t, op ≠ .tload t ∧ op ≠ .tstore t) → s.sideBusy p.core = false →
      let core := cap.toNat / 2 ^ 39
      (coreIdOk core = false → exec (.tcmd a b) s = .next (s.raise k 0x04 (BitVec.ofNat 64 core))) ∧
      (coreIdOk core = true → s.packages.contains (pkgOf core) = true → s.reachable (pkgOf p.core) (pkgOf core) = true →
      (s.core core).commands.length < 8 → s.Settled p →
      ∃ (t : State) (q : Proc), exec (.tcmd a b) s = .next t ∧ t.proc k = some q ∧ q.wait = .engine ∧ q.pc = p.pc ∧ q.regs = p.regs ∧
        t.DueIn (s.oneway p.core core + 1) (.tileCommandArrival
          { sender := p.name, core := core, tc := cap.toNat / 2 ^ 34 % 32, canW := cap.getLsbD 33, canR := cap.getLsbD 32,
            check := cap.toNat % 2 ^ 32, word := BitVec.ofNat 32 w.toNat, va := 0, vb := 0,
            away := core != p.core, gid := p.gid, level := p.level })))) ∧
  (∀ (s : State) (m : TCommand) (k : Nat) (p : Proc) (op : TOp) (z y : Bool) (fa fb : Nat), s.named m.sender = some (k, p) →
    commandOf m.word.toNat = some (op, z, y, fa, fb) → coreIdOk m.core = true → s.packages.contains (pkgOf m.core) = true →
    (m.check = 0 ∨ (s.tileAt m.core m.tc).check ≠ m.check → ∃ t : State, exec (.tileCommandArrival m) s = .next t ∧
      t.DueIn (s.oneway p.core m.core + 1) (.tileCommandAnswer m false) ∧ { t with agenda := s.agenda } = s) ∧
    (s.commandOk m op = true → (s.core m.core).commands.length < 8 → (s.core m.core).run.isSome → ∃ t : State, exec (.tileCommandArrival m) s = .next t ∧
      t.DueIn (s.oneway p.core m.core + 1) (.tileCommandAnswer m true) ∧ (t.core m.core).commands = (s.core m.core).commands ++ [{ m with owner := (s.tileAt m.core m.tc).owner }] ∧
      t.procs = s.procs ∧ t.mem = s.mem)) ∧
  (∀ (s : State) (m : TCommand) (k : Nat) (p : Proc) (h : Hold), s.named m.sender = some (k, p) → p.wait = .engine → p.hold = some h → h.arg2 = commandMark →
    p.stopped = false →
    (∃ u : State, exec (.tileCommandAnswer m true) s = .next (u.retire k h.consume []) ∧ (u.proc k).map (fun q => (q.wait, q.regs, q.pc)) = some (.none, p.regs, p.pc) ∧
      { u with procs := s.procs } = s) ∧
    (∃ u : State, exec (.tileCommandAnswer m false) s =
        .next (u.raise k 0x06 (BitVec.ofNat 64 (windowBase m.core + 0x118000 + m.tc * 64))) ∧ { u with procs := s.procs } = s))

/-- Gang products, tile transfers and tile commands. -/
def Obligations.TilesTravel : Prop :=
  Claims.GangProductsStart ∧ Claims.TilesMove ∧ Claims.TileCommandsTravel

/-- 10 R309, R310, R321: TAPON opens a RECORDING tape from the descriptor in the fold's memory, or gives the code of what forbids it; TAPON.R and TAPOFF go between PAUSED and RECORDING; TAPOFF.X closes the tape; TMARK appends a mark of 64 bytes and gives its sequence number; TAPST reads. Without a vector and tile unit, or in another state, they are ILLEGAL. -/
def Claims.TapesOpenAndClose : Prop :=
  ∀ (s : State) (k : Nat) (p : Proc), s.Issues k p →
    (hasVtu p.core = false ∨ s.tapeOf p = none → ∀ (d : Reg), ∀ i ∈ [Instr.tapoff, .tapoffX, .tmark d], exec i s = .next (s.raiseWord k 0x01)) ∧
    (hasVtu p.core = false → ∀ (d : Reg) (a : Src), ∀ i ∈ [Instr.tapon d a, .taponR d a, .reverse d a, .tapst d a], exec i s = .next (s.raiseWord k 0x01)) ∧
    (hasVtu p.core = true → s.tapeOf p = none → ∀ d a x, s.Runs k p [srcField a 0] [x] [d] →
      ∀ i ∈ [Instr.taponR d a, .reverse d a], exec i s = .next (s.raiseWord k 0x01)) ∧
    (∀ t, hasVtu p.core = true → s.tapeOf p = some t →
      (∀ d a x, s.Runs k p [srcField a 0] [x] [d] → exec (.tapon d a) s = .next (s.raiseWord k 0x01)) ∧
      (t.st ≠ .paused → ∀ d a x, s.Runs k p [srcField a 0] [x] [d] → exec (.taponR d a) s = .next (s.raiseWord k 0x01)) ∧
      (t.st = .paused → ∀ d a x, s.Runs k p [srcField a 0] [x] [d] → ∃ u : State,
        exec (.taponR d a) s = .next (u.retire k (consumeMask p [srcField a 0]) [(d, 0)]) ∧ u.tapeOf p = some { t with st := .recording } ∧
        { u with folds := s.folds } = s) ∧
      (t.st ≠ .recording → exec .tapoff s = .next (s.raiseWord k 0x01)) ∧
      (t.st = .recording → ∃ u : State, exec .tapoff s = .next (u.retire k 0 []) ∧ u.tapeOf p = some { t with st := .paused } ∧ { u with folds := s.folds } = s) ∧
      (∃ u : State, exec .tapoffX s = .next (u.retire k 0 []) ∧ u.tapeOf p = none ∧ u.mem = s.mem) ∧
      (∀ d, s.Takes p [d] → t.st ≠ .reversing →
        (t.nextSeq < 2 ^ 32 - 1 → t.room < 64 → exec (.tmark d) s = .next (s.raise k 0x0E 64)) ∧
        (t.nextSeq < 2 ^ 32 - 1 → 64 ≤ t.room → ∃ (u : State) (y : TapeS), exec (.tmark d) s = .next (u.retire k 0 [(d, BitVec.ofNat 64 t.nextSeq)]) ∧
          u.tapeOf p = some y ∧ y.nextSeq = t.nextSeq + 1 ∧ y.ended = t.ended + 64 ∧ y.lastLen = 64 ∧ y.marks = t.marks ++ [(t.nextSeq, t.ended + 64)]) ∧
        (t.nextSeq = 2 ^ 32 - 1 → exec (.tmark d) s = .next (s.raise k 0x0E (BitVec.allOnes 64))))) ∧
    (∀ (d : Reg) (a : Src) (v : Word), hasVtu p.core = true → s.Runs k p [srcField a 0] [v] [d] →
      (5 < v.toNat → exec (.tapst d a) s = .next (s.raiseWord k 0x01)) ∧
      (v.toNat ≤ 5 → s.tapeOf p = none → exec (.tapst d a) s = .next (s.retire k (consumeMask p [srcField a 0]) [(d, 0)])) ∧
      (∀ t, s.tapeOf p = some t → v.toNat ≤ 5 → exec (.tapst d a) s = .next (s.retire k (consumeMask p [srcField a 0]) [(d,
        [BitVec.ofNat 64 ((match t.st with | .recording => 1 | .paused => 2 | .reversing => 3) * 2 ^ 60 + t.nextSeq), BitVec.ofNat 64 t.ended,
         BitVec.ofNat 64 t.spilled, BitVec.ofNat 64 (t.cap - (t.ended - t.spilled)), if t.st = .reversing then BitVec.ofNat 64 t.cur else 0,
         t.failed].getD v.toNat 0)]))) ∧
    (∀ (d : Reg) (a : Src) (v : Word), hasVtu p.core = true → s.tapeOf p = none → s.Runs k p [srcField a 0] [v] [d] →
      let at_ := sramBase (foldOf p.core) + v.toNat
      let t : TapeS := { owner := p.name, off := v.toNat, desc := (List.range 8).map (fun i => BitVec.ofNat 64 (readLe s.mem (at_ + 8 * i) 8)) }
      (2 ^ 21 ≤ v.toNat → exec (.tapon d a) s = .next (s.raiseWord k 0x01)) ∧
      (v.toNat < 2 ^ 21 → v.toNat % 64 ≠ 0 → exec (.tapon d a) s = .next (s.raise k 0x03 v)) ∧
      (0x180000 ≤ v.toNat → s.Settled p → v.toNat < 2 ^ 21 → v.toNat % 64 = 0 → exec (.tapon d a) s = .next (s.raise k 0x04 v)) ∧
      (v.toNat < 0x180000 → v.toNat % 64 = 0 → s.poisoned at_ 64 = false → s.Settled p →
        (∀ e, s.taponFailure p.core t = some e → exec (.tapon d a) s =
          .next (s.retire k (consumeMask p [srcField a 0]) [(d, BitVec.ofNat 64 (2 ^ 63 + e))])) ∧
        (s.taponFailure p.core t = none → ∃ (u : State) (q : Proc), exec (.tapon d a) s = .next (u.retire k (consumeMask p [srcField a 0]) [(d, 0)]) ∧
          u.tapeOf p = some t ∧ t.st = .recording ∧ t.nextSeq = 1 ∧ u.proc k = some q ∧ q.heavy = true ∧ q.regs = p.regs ∧
          { u with folds := s.folds, procs := s.procs } = s)))

/-- 10 R322: TSPILL of a REVERSING tape is ILLEGAL, and without a spill area that holds the log it gives code 0x33; else its process waits in its slot while the lines that hold the log from SPILLED on are written, and at the last acknowledgement SPILLED is what END was, and d receives 0. -/
def Claims.TapesSpill : Prop :=
  (∀ (s : State) (k : Nat) (p : Proc) (d : Reg) (a : Src) (t : TapeS), s.Runs k p [srcField a 0] [0] [d] →
    (s.tapeOf p = none → exec (.tspill d a) s = .next (s.raiseWord k 0x01)) ∧
    (s.tapeOf p = some t →
      (t.st = .reversing → exec (.tspill d a) s = .next (s.raiseWord k 0x01)) ∧
      (t.st ≠ .reversing → t.spill = 0 ∨ t.spillCap < t.ended → exec (.tspill d a) s =
        .next (s.retire k (consumeMask p [srcField a 0]) [(d, BitVec.ofNat 64 (2 ^ 63 + 0x33))])) ∧
      (t.st ≠ .reversing → t.spill ≠ 0 → t.ended ≤ t.spillCap → s.Settled p → s.named p.name = some (k, p) →
        (s.fold (foldOf p.core)).tapeUse = [] →
        ∃ (u : State) (q : Proc) (ok : Bool), exec (.tspill d a) s = .next u ∧ u.proc k = some q ∧ q.wait = .engine ∧ q.pc = p.pc ∧ q.regs = p.regs ∧
          u.Due (.spillAck p.name ok) ∧ u.mem = s.mem))) ∧
  (∀ (s : State) (k pa : Nat) (p : Proc) (d : Reg) (h : Hold) (t : TapeS), s.named p.name = some (k, p) → p.wait = .engine → p.stopped = false →
    p.hold = some h → h.arg2 = spillMark → h.arg = p.name → h.dst = some d → p.Unbound → p.vact = false → p.pfx = [] → p.onceOn = false →
    s.tapeNamed (foldOf p.core) p.name = some t → s.spillLines (foldOf p.core) p.name (h.words.headD 0).toNat = [(t.spill + t.spilled, some pa)] →
    (h.words.headD 0).toNat = t.spilled + 64 → inHbm pa = true → pa % 64 = 0 → s.MemOk →
    s.partFault p.core p.gid p.level pa 64 true = none → (∀ x ∈ wordParts [(pa, 64)], s.partFault p.core p.gid p.level x.1 x.2 true = none) →
    (s.fold (foldOf p.core)).tapeUse = [p.name] →
    ∃ (u : State) (q : Proc), exec (.spillAck p.name true) s = .next u ∧ (u.tapeNamed (foldOf p.core) p.name).map TapeS.spilled = some (t.spilled + 64) ∧
      u.proc k = some q ∧ q.wait = .none ∧ q.pc = p.pc + 4 ∧ q.reg d = 0 ∧
      (∀ i < 64, readByte u.mem (pa + i) = readByte s.mem (regionAddr (foldOf p.core) t (t.spilled + i))) ∧
      (∀ b, b < pa ∨ pa + 64 ≤ b → readByte u.mem b = readByte s.mem b))

/-- 10 R323, R328: REVERSE to a number that is no mark is ILLEGAL; else the tape is REVERSING from its newest record, and the process waits in its slot. A record whose checks pass is under way for its time; its adjoint is applied in one step, and with the last record above the target the log is cut there, and d receives the number of records reversed. -/
def Claims.TapesReverse : Prop :=
  (∀ (s : State) (k : Nat) (p : Proc) (d : Reg) (a : Src) (v : Word) (t : TapeS), hasVtu p.core = true → s.tapeOf p = some t → s.Runs k p [srcField a 0] [v] [d] →
    (t.st ≠ .reversing → v ≠ 0 → (∀ m ∈ t.marks, m.1 ≠ v.toNat) → exec (.reverse d a) s = .next (s.raiseWord k 0x01)) ∧
    (t.st = .reversing → v.toNat ≠ t.target → exec (.reverse d a) s = .next (s.raiseWord k 0x01)) ∧
    (t.st ≠ .reversing → v = 0 ∨ (∃ m ∈ t.marks, m.1 = v.toNat) → s.Settled p → (s.fold (foldOf p.core)).tapeUse = [] →
      ∃ (u : State) (q : Proc) (y : TapeS), exec (.reverse d a) s = .next u ∧ u.proc k = some q ∧ q.wait = .engine ∧ q.pc = p.pc ∧ q.regs = p.regs ∧
        u.tapeOf p = some y ∧ y.st = .reversing ∧ y.target = v.toNat ∧ y.cur = t.nextSeq - 1 ∧ y.count = 0 ∧ y.ended = t.ended ∧
        u.DueIn 1 (.reverseRecord p.name) ∧ u.mem = s.mem)) ∧
  (∀ (s : State) (k : Nat) (p : Proc) (d : Reg) (h : Hold) (t : TapeS), s.named p.name = some (k, p) → p.wait = .engine → p.stopped = false → p.suspend = [] →
    p.hold = some h → h.arg2 = walkMark → h.dst = some d → p.Unbound → p.vact = false → p.pfx = [] → p.onceOn = false →
    s.tapeOf p = some t → t.st = .reversing → t.due = s.cycle → t.atGang = none → (s.fold (foldOf p.core)).tapeUse = [p.name] → (s.core p.core).commands = [] →
    let cut (u : State) (n : Nat) : Prop := ∃ (q : Proc) (y : TapeS), u.proc k = some q ∧ q.wait = .none ∧ q.pc = p.pc + 4 ∧
      q.reg d = (if d = 0 then 0 else BitVec.ofNat 64 n) ∧ u.tapeOf p = some y ∧ y.st = t.prev ∧ y.nextSeq = t.target + 1 ∧
      y.ended = ((t.marks.find? (fun m => m.1 == t.target)).map Prod.snd).getD 0
    (t.under = false → t.cur ≤ t.target → ∃ u : State, exec (.reverseRecord p.name) s = .next u ∧ cut u t.count ∧ u.mem = s.mem) ∧
    (∀ r w, t.cur > t.target → s.readRecord (s.agentOf p) t t.pos = .ok r → s.tryRecord p t r = .ok w → (∀ n x y, w.op ≠ .gmma n x y) →
      (t.under = false → r.kind ≠ 1 → ∃ u : State, exec (.reverseRecord p.name) s = .next u ∧ (u.tapeOf p).map TapeS.under = some true ∧
        u.DueIn (s.recordTime p t w) (.reverseRecord p.name) ∧ u.mem = s.mem ∧ u.procs = s.procs) ∧
      (∀ y, t.under = true → t.cur = t.target + 1 → (∀ n, w.op ≠ .tload n) → s.applyRecord p t w = .ok y →
        ∃ u : State, exec (.reverseRecord p.name) s = .next u ∧ cut u (t.count + 1) ∧ u.mem = y.s.mem)))

/-- Tapes open, close, spill and reverse. -/
def Obligations.Tapes : Prop :=
  Claims.TapesOpenAndClose ∧ Claims.TapesSpill ∧ Claims.TapesReverse

/-- 11 R346 to R352, R357: an instruction of the sum-product engine with an operand word outside its range is ILLEGAL, with a misaligned scratchpad offset MISALIGN, beyond the scratchpad LOAD_FAULT, and in a fenced fold NOUNIT; any other is handed to the engine with its operands, as its fold's youngest, and its process waits in its slot. -/
def Claims.EngineTakesInstructions : Prop :=
  ∀ (s : State) (k : Nat) (p : Proc) (d : Reg) (a b : Src) (v w : Word) (z y c : BitVec 1),
    let goes (i : Instr) (m : BitVec 16) (dst : Option Reg) (j : SpeJob) : Prop :=
      s.Settled p → ∃ (u : State) (q : Proc) (h : Hold), exec i s = .next u ∧ u.proc k = some q ∧ q.wait = .engine ∧ q.pc = p.pc ∧ q.regs = p.regs ∧
        q.hold = some h ∧ h.consume = m ∧ h.dst = dst ∧ (u.spe (foldOf p.core)).jobs = (s.spe (foldOf p.core)).jobs ++
          [{ j with name := p.name, core := p.core, begin_ := s.cycle + 1 }] ∧ { u with procs := s.procs, folds := s.folds } = s
    let one := consumeMask p [srcField a 0]
    let two := consumeMask p [srcField a 0, srcField b 1]
    let entries (x : Word) : Prop := x.toNat / 2 ^ 41 = 0 ∧ x.toNat / 2 ^ 13 % 2 ^ 19 = 0 ∧ x.toNat % 2 ^ 13 + x.toNat / 2 ^ 32 % 2 ^ 9 ≤ 8191
    (s.Issues k p → (s.fold (foldOf p.core)).fenced = true → ∀ i ∈ [Instr.spld a b, .spldZ a, .spst a b, .spw a b, .spu d a z y, .spd d a z y, .spmode d a b,
      .spcvt a b z y, .spstat d c], exec i s = .next (s.raiseWord k 0x0C)) ∧
    ((s.fold (foldOf p.core)).fenced = false → s.Runs k p [srcField a 0, srcField b 1] [v, w] [] →
      (∀ i ∈ [(Instr.spld a b, 0), (.spst a b, 1)], entries v →
        (2 ^ 24 ≤ w.toNat → exec i.1 s = .next (s.raiseWord k 0x01)) ∧
        (w.toNat < 2 ^ 24 → w.toNat % 8 ≠ 0 → exec i.1 s = .next (s.raise k 0x03 w)) ∧
        (w.toNat < 2 ^ 24 → w.toNat % 8 = 0 → scratchSize p.core < w.toNat + 8 * (v.toNat / 2 ^ 32 + 1) → exec i.1 s = .next (s.raise k 0x04 w)) ∧
        (w.toNat < 2 ^ 24 → w.toNat % 8 = 0 → w.toNat + 8 * (v.toNat / 2 ^ 32 + 1) ≤ scratchSize p.core →
          goes i.1 two none { name := 0, core := 0, fn := i.2, begin_ := 0, opA := v, opB := w })) ∧
      (∀ i ∈ [Instr.spld a b, .spst a b, .spcvt a b z y], ¬ entries v → exec i s = .next (s.raiseWord k 0x01)) ∧
      (v.toNat / 2 ^ 44 = 0 → v.toNat / 2 ^ 12 % 2 ^ 20 = 0 → v.toNat % 2 ^ 12 + v.toNat / 2 ^ 32 % 2 ^ 12 ≤ 4095 → w.toNat % 8 = 0 →
        w.toNat + 8 * (v.toNat / 2 ^ 32 + 1) ≤ scratchSize p.core →
        goes (.spw a b) two none { name := 0, core := 0, fn := 2, begin_ := 0, opA := v, opB := w }) ∧
      (entries v → w.toNat < 2 ^ 13 → w.toNat + v.toNat / 2 ^ 32 ≤ 8191 →
        goes (.spcvt a b z y) two none { name := 0, core := 0, fn := 6, begin_ := 0, opA := v, opB := w, ftz := z = 1, daz := y = 1 }) ∧
      (s.Takes p [d] →
        (2 ^ 16 ≤ v.toNat ∨ 2 ^ 16 ≤ w.toNat → exec (.spmode d a b) s = .next (s.raiseWord k 0x01)) ∧
        (v.toNat < 2 ^ 16 → w.toNat < 2 ^ 16 →
          goes (.spmode d a b) two (some d) { name := 0, core := 0, fn := 5, begin_ := 0, opA := v, opB := w }))) ∧
    ((s.fold (foldOf p.core)).fenced = false → s.Runs k p [srcField a 0] [v] [] →
      (entries v → goes (.spldZ a) one none { name := 0, core := 0, fn := 0, zero := true, begin_ := 0, opA := v }) ∧
      (s.Takes p [d] → ∀ i ∈ [(Instr.spu d a z y, 3), (.spd d a z y, 4)],
        (2 ^ 24 ≤ v.toNat → exec i.1 s = .next (s.raiseWord k 0x01)) ∧
        (v.toNat < 2 ^ 24 → v.toNat % 64 ≠ 0 → exec i.1 s = .next (s.raise k 0x03 v)) ∧
        (v.toNat < 2 ^ 24 → v.toNat % 64 = 0 → 2 ^ 21 ≤ v.toNat → exec i.1 s = .next (s.raise k 0x04 v)) ∧
        (v.toNat % 64 = 0 → v.toNat < 2 ^ 21 →
          goes i.1 one (some d) { name := 0, core := 0, fn := i.2, begin_ := 0, opA := v, ftz := z = 1, daz := y = 1 }))) ∧
    ((s.fold (foldOf p.core)).fenced = false → s.Issues k p → s.Takes p [d] →
      goes (.spstat d c) 0 (some d) { name := 0, core := 0, fn := 7, zero := c = 1, begin_ := 0 })

/-- 11 R343 to R345, R354, R356: an evaluation that enters a tree has the value of its subtree as its result 9 cycles later for SPU, with the derivatives of its leaves to add 14 cycles later for SPD; an instruction that retires writes its result and raises its flags. -/
def Claims.EngineEvaluates : Prop :=
  (∀ (s : State) (fold name : Nat) (j : SpeJob), s.speJob fold name = some j → (s.spe fold).jobs = [j] → j.phase = 2 → j.begin_ ≤ s.cycle →
    ((s.spe fold).enteredAt ≠ s.cycle ∨ (s.spe fold).entered < 8) → j.fn = 3 ∨ j.fn = 4 →
    let m : SpeMode := ⟨(s.spe fold).modes.getLsbD (spRoot j.desc / 512), j.ftz, j.daz⟩
    let leaf (k : Nat) : Word := tgetD j.got k 0
    let v := spVal m j.desc leaf (fun n => (s.speWeight fold n).1) 5 1
    s.speFault fold { j with modes := (s.spe fold).modes } = none →
    ∃ (t : State) (x : SpeJob), exec (.speTreeEntry fold name) s = .next t ∧ t.speJob fold name = some x ∧ x.phase = 3 ∧ x.result = v.w ∧ t.mem = s.mem ∧ t.procs = s.procs ∧
      (j.fn = 3 → x.begin_ = s.cycle + 9 ∧ x.out = [(spRoot j.desc, v.w)] ∧ x.flags = v.flags) ∧
      (j.fn = 4 → x.begin_ = s.cycle + 14 ∧
        x.out = ((spDown m j.desc leaf (fun n => (s.speWeight fold n).1) 5 1 ⟨m.operand (leaf 16), 0, 0⟩).filter
          (fun g => !spOne j.desc g.1 && !spSkipd j.desc g.1)).map (fun g => (spDeriv j.desc (spLeafEntry j.desc g.1), g.2.w)))) ∧
  (∀ (s : State) (fold name k : Nat) (p : Proc) (j : SpeJob) (h : Hold), s.speJob fold name = some j → j.phase = 5 → j.begin_ ≤ s.cycle → s.named name = some (k, p) →
    p.wait = .engine → p.stopped = false → p.hold = some h →
    ∃ (u : State) (q : Proc), exec (.speRetire fold name) s = .next (u.retire k h.consume (match h.dst with | some d => [(d, j.result)] | none => [])) ∧
      u.speJob fold name = none ∧ u.proc k = some q ∧ q.wait = .none ∧ q.fflags = p.fflags ||| j.flags ∧ q.regs = p.regs ∧ q.pc = p.pc ∧
      { u with procs := s.procs, folds := s.folds } = s)

/-- The sum-product engine takes and evaluates instructions. -/
def Obligations.SumProductEngine : Prop :=
  Claims.EngineTakesInstructions ∧ Claims.EngineEvaluates

/-- 12 R384, R386, R387, R390: BOPEN sets LOCK in its descriptor and answers with the view word, or with a code; BCLOSE without staged bytes clears LOCK, and with some begins phase 1 at the home of every line; it waits for its process's stores; BSTAT reads. -/
def Claims.BundlesOpenAndClose : Prop :=
  (∀ (s : State) (k : Nat) (p : Proc) (d : Reg) (a b : Src) (x v : Word), s.Runs k p [srcField a 0, srcField b 1] [x, v] [d] → (d ≠ 0 → (p.cell d).out < 3) →
    (x = 0 ∨ 2 ^ 24 ≤ x.toNat → exec (.bopen d a b) s = .next (s.raiseWord k 0x01)) ∧
    (x ≠ 0 → x.toNat < 2 ^ 24 → v.toNat % 64 ≠ 0 → exec (.bopen d a b) s = .next (s.raise k 0x03 v)) ∧
    (x ≠ 0 → x.toNat < 2 ^ 24 → v.toNat % 64 = 0 →
      (∀ y, s.bundle p.name = some y → y.phase = 0 → exec (.bopen d a b) s = .next (s.raiseWord k 0x01)) ∧
      (∀ pa y bs, s.bundle p.name = none → s.translate p v.toNat true true = .pa pa y → s.descFault p pa v.toNat true = none → s.Settled p →
        s.engineRead (s.agentOf p) v.toNat 320 = some bs →
        (∀ code, s.openBundle p x.toNat pa (leWords 40 bs) = .inl code → ∃ u : State,
          exec (.bopen d a b) s = .next (u.retire k (consumeMask p [srcField a 0, srcField b 1]) []) ∧
          u.DueIn (s.accessTime p.core pa 8) (.fill (p.dest d) (BitVec.ofNat 64 (2 ^ 63 + code))) ∧ u.bundle p.name = none ∧ u.mem = s.mem) ∧
        (∀ z, s.openBundle p x.toNat pa (leWords 40 bs) = .inr z → inHbm pa = true → s.MemOk → ∃ u : State,
          exec (.bopen d a b) s = .next (u.retire k (consumeMask p [srcField a 0, srcField b 1]) []) ∧
          u.DueIn (s.accessTime p.core pa 8) (.fill (p.dest d) (BitVec.ofNat 64 (x.toNat * 2 ^ 24 + z.version % 2 ^ 16))) ∧ u.bundle p.name = some z ∧
          z.id = x.toNat ∧ z.phase = 0 ∧ z.staged = [] ∧ readLe u.mem pa 8 = 2 ^ 63 + x.toNat * 2 ^ 24 + z.version % 2 ^ 16 ∧
          ∀ i, i < pa ∨ pa + 8 ≤ i → readByte u.mem i = readByte s.mem i)))) ∧
  (∀ (s : State) (k : Nat) (p : Proc) (d : Reg), s.Issues k p → s.Takes p [d] → (d ≠ 0 → (p.cell d).out < 3) →
    (s.bundle p.name = none → exec (.bclose d) s = .next (s.raiseWord k 0x01) ∧ exec (.bstat d) s = .next (s.retire k 0 [(d, 0)])) ∧
    (∀ y, s.bundle p.name = some y →
      exec (.bstat d) s = .next (s.retire k 0 [(d, BitVec.ofNat 64
        ((if y.phase = 0 then 1 else 2) * 2 ^ 62 + ((y.staged.map (fun z => z.1 / 64)).dedup).length * 2 ^ 48 + y.id * 2 ^ 24 + y.version))]) ∧
      (y.phase ≠ 0 → exec (.bclose d) s = .next (s.raiseWord k 0x01)) ∧
      (y.phase = 0 → (∃ e ∈ (s.core p.core).sb, e.name = p.name) → ∃ (t : State) (q : Proc), exec (.bclose d) s = .next t ∧ t.proc k = some q ∧
        q.st = .parked ∧ q.wait = .stores ∧ q.pc = p.pc ∧ q.regs = p.regs) ∧
      (y.phase = 0 → (∀ e ∈ (s.core p.core).sb, e.name ≠ p.name) → y.staged = [] → inHbm y.desc = true → s.MemOk → ∃ u : State,
        exec (.bclose d) s = .next (u.retire k 0 []) ∧ u.bundle p.name = none ∧ readLe u.mem y.desc 8 = (y.id * 2 ^ 24 + y.version % 2 ^ 16) % 2 ^ 64 ∧
        u.DueIn (s.accessTime p.core y.desc 8) (.fill (p.dest d) (BitVec.ofNat 64 (y.id * 2 ^ 24 + y.version % 2 ^ 16)))) ∧
      (y.phase = 0 → (∀ e ∈ (s.core p.core).sb, e.name ≠ p.name) → y.staged ≠ [] → ∃ (u : State) (z : Bundle),
        exec (.bclose d) s = .next (u.retire k 0 []) ∧ u.bundle p.name = some z ∧ z.phase = 1 ∧ z.left = y.lines.length ∧ z.dest = some (p.dest d) ∧
        z.staged = y.staged ∧ u.mem = s.mem ∧ ∀ l ∈ y.lines, u.DueIn (s.homeTime y l.2.1) (.bundlePrepare p.name l.1))))

/-- 12 R387: in phase 1 a home keeps the line with the staged bytes as a pending version and answers, and refuses where one is pending; in phase 2 it becomes the current version, and what was current the previous one. When every home has answered phase 1, phase 2 sets out; when every home has answered phase 2, d receives the view word of the new version; a failure gives code 0x54, or 0x55 in phase 2. -/
def Claims.BundlesCommit : Prop :=
  (∀ (s : State) (w slot pa sh : Nat) (b : Bundle), s.bundle w = some b → b.line slot = some (pa, sh) → s.reachable (pkgOf b.core) (pkgOfAddr pa) = true →
    s.MemOk → sh + 16 ≤ pa ∨ pa + 64 ≤ sh →
    (shPend (s.memWord sh) = true → ∃ t : State, exec (.bundlePrepare w slot) s = .next t ∧ t.DueIn (s.homeTime b pa) (.bundleAck w slot 1 false) ∧
      { t with agenda := s.agenda } = s) ∧
    (shPend (s.memWord sh) = false → s.retained (lineDrover pa) < 4096 → ∃ t : State, exec (.bundlePrepare w slot) s = .next t ∧
      t.DueIn (s.homeTime b pa) (.bundleAck w slot 1 true) ∧
      (pa, (readBytes s.mem pa 64).mapIdx (fun i x => ((b.staged.find? (fun e => e.1 == pa + i)).map Prod.snd).getD x)) ∈ t.pendLines ∧
      readBytes t.mem pa 64 = readBytes s.mem pa 64 ∧ shPend (t.memWord sh) = true ∧ shCur (t.memWord sh) = shCur (s.memWord sh)) ∧
    (∀ new, s.pendLines.find? (fun l => l.1 == pa) = some (pa, new) → new.length = 64 → b.id < 2 ^ 24 → slot < 32 → ∃ t : State,
      exec (.bundlePhase2 w slot) s = .next t ∧ t.DueIn (s.homeTime b pa) (.bundleAck w slot 2 true) ∧ readBytes t.mem pa 64 = new ∧
      (pa, readBytes s.mem pa 64) ∈ t.prevLines ∧ (∀ l ∈ t.pendLines, l.1 ≠ pa) ∧
      shId (t.memWord sh) = b.id ∧ shCur (t.memWord sh) = (b.version + 1) % 2 ^ 16 ∧ shPrev (t.memWord sh) = true)) ∧
  (∀ (s : State) (w slot : Nat) (b : Bundle) (l : Nat × Nat) (f : FillTo) (ok : Bool), s.bundle w = some b → b.line slot = some l → b.dest = some f →
    let time := s.wayTo b.core b.desc + 1
    (1 < b.left → b.phase = 1 ∨ b.phase = 2 → ∃ (t : State) (z : Bundle), exec (.bundleAck w slot b.phase ok) s = .next t ∧ t.bundle w = some z ∧ z.left = b.left - 1 ∧
      z.failed = (b.failed || !ok) ∧ { t with bundles := s.bundles } = s) ∧
    (b.left = 1 → b.failed = false →
      (b.phase = 1 → ok = true → ∃ (t : State) (z : Bundle), exec (.bundleAck w slot 1 true) s = .next t ∧ t.bundle w = some z ∧ z.phase = 2 ∧ z.left = b.lines.length ∧
        t.mem = s.mem ∧ ∀ y ∈ b.lines, t.DueIn (s.homeTime b y.2.1) (.bundlePhase2 w y.1)) ∧
      (b.phase = 1 → ok = false → ∃ t : State, exec (.bundleAck w slot 1 false) s = .next t ∧ t.bundle w = none ∧ t.DueIn time (.fill f (BitVec.ofNat 64 (2 ^ 63 + 0x54)))) ∧
      (b.phase = 2 → ok = true → ∃ t : State, exec (.bundleAck w slot 2 true) s = .next t ∧ t.bundle w = none ∧
        t.DueIn time (.fill f (BitVec.ofNat 64 (b.id * 2 ^ 24 + (b.version + 1) % 2 ^ 16)))) ∧
      (b.phase = 2 → ok = false → ∃ t : State, exec (.bundleAck w slot 2 false) s = .next t ∧ t.bundle w = none ∧
        t.DueIn time (.fill f (BitVec.ofNat 64 (2 ^ 63 + 0x55))))))

/-- 12 R388 and R389: BVIEW loads word 0 of a descriptor without LOCK; a BLD goes with its view to its line's home, which answers from the current line if that has the view's version, from the previous one if that has, and otherwise a BLD.R gets the view with bit 63 set and a BLD raises BUNDLE_STALE. -/
def Claims.BundlesAreRead : Prop :=
  (∀ (s : State) (k pa : Nat) (p : Proc) (d : Reg) (a : Src) (x : Word) (y : Option Tlb), s.Runs k p [srcField a 0] [x] [d] → (d ≠ 0 → (p.cell d).out < 3) →
    (x.toNat % 64 ≠ 0 → exec (.bview d a) s = .next (s.raise k 0x03 x)) ∧
    (x.toNat % 64 = 0 → s.translate p x.toNat true false = .pa pa y → s.descFault p pa x.toNat false = none →
      ∃ u : State, exec (.bview d a) s = .next (u.retire k (consumeMask p [srcField a 0]) []) ∧ u.mem = s.mem ∧
        (d ≠ 0 → u.DueIn (s.accessTime p.core pa 8) (.fill (p.dest d) (BitVec.ofNat 64 (s.readThrough p x.toNat pa 8 % 2 ^ 63)))))) ∧
  (∀ (s : State) (k pa line sh : Nat) (p : Proc) (d : Reg) (a b : Src) (x v : Word) (y : Option Tlb), s.Runs k p [srcField a 0, srcField b 1] [x, v] [d, b.reg] →
    (d ≠ 0 → (p.cell d).out < 3) → (b.reg ≠ 0 → (p.cell b.reg).out < 3) → d ≠ b.reg →
    let two := consumeMask p [srcField a 0, srcField b 1]
    let viewOk := v.toNat / 2 ^ 48 = 0 ∧ v.toNat / 2 ^ 24 ≠ 0 ∧ v.toNat / 2 ^ 16 % 2 ^ 8 = 0
    (¬ viewOk → ∀ i ∈ [Instr.bld d a b, .bldR d a b], exec i s = .next (s.raiseWord k 0x01)) ∧
    (viewOk → x.toNat % 8 ≠ 0 → ∀ i ∈ [Instr.bld d a b, .bldR d a b], exec i s = .next (s.raise k 0x03 x)) ∧
    (viewOk → x.toNat % 8 = 0 → s.Settled p → s.translate p x.toNat true false = .pa pa y → s.bundleLine p x.toNat false = some (line, sh) → s.accessFault p pa x.toNat 8 true = none →
      (∃ (t : State) (q : Proc) (h : Hold), exec (.bld d a b) s = .next t ∧ t.proc k = some q ∧ q.st = .parked ∧ q.wait = .access ∧ q.pc = p.pc ∧
        q.regs = (p.produce d).regs ∧ q.hold = some h ∧ h.consume = two ∧ h.dst = some d ∧ t.mem = s.mem ∧
        t.DueIn (s.accessTime p.core pa 8) (.bldAtHome { dest := p.dest d, core := p.core, view := v, viewDest := none, pa := pa, line := line, shadow := sh })) ∧
      (∃ u : State, exec (.bldR d a b) s = .next (u.retire k two []) ∧ u.mem = s.mem ∧
        u.DueIn (s.accessTime p.core pa 8) (.bldAtHome
          { dest := p.dest d, core := p.core, view := v, viewDest := some (p.dest b.reg), pa := pa, line := line, shadow := sh })))) ∧
  (∀ (s : State) (r : BldReq) (f : FillTo), s.bundle r.dest.name = none → r.line ≤ r.pa → r.pa + 8 ≤ r.line + 64 →
    let sh := s.memWord r.shadow
    let ver := r.view.toNat % 2 ^ 16
    let now := shId sh = 0 ∧ ver = 0 ∨ shId sh ≠ 0 ∧ shId sh = bdId r.view ∧ shCur sh = ver
    let fresh (w : Word) : Prop :=
      (r.viewDest = some f → exec (.bldAtHome r) s = .next (Sys2Proof.Machine.fill f r.view (Sys2Proof.Machine.fill r.dest w s))) ∧
      (∀ k p, r.viewDest = none → s.named r.dest.name = some (k, p) → p.wait = .access →
        exec (.bldAtHome r) s = .next (Sys2Proof.Machine.fill r.dest w s))
    (now → fresh (BitVec.ofNat 64 (readLe s.mem r.pa 8))) ∧
    (∀ old, ¬ now → shId sh = bdId r.view → shId sh ≠ 0 → shCur sh = (ver + 1) % 2 ^ 16 → shPrev sh = true →
      s.prevLines.find? (fun l => l.1 == r.line) = some (r.line, old) → old.length = 64 →
      fresh (BitVec.ofNat 64 (leNat ((old.drop (r.pa - r.line)).take 8)))) ∧
    (shId sh ≠ 0 → shId sh ≠ bdId r.view →
      (r.viewDest = some f → exec (.bldAtHome r) s =
        .next (Sys2Proof.Machine.fill f (r.view ||| BitVec.ofNat 64 (2 ^ 63)) (Sys2Proof.Machine.fill r.dest 0 s))) ∧
      (∀ k p, r.viewDest = none → s.named r.dest.name = some (k, p) → p.wait = .access → ∃ u : State,
        exec (.bldAtHome r) s = .next (u.raise k 0x14 (BitVec.ofNat 64 (bdId r.view))) ∧ { u with procs := s.procs } = s)))

/-- Bundles open, commit in two phases, and are read. -/
def Obligations.Bundles : Prop :=
  Claims.BundlesOpenAndClose ∧ Claims.BundlesCommit ∧ Claims.BundlesAreRead

/-- 12 R377, R378, R380: RDONE and RABORT at a core, and an RGO whose body holds a word that may not stand there, are ILLEGAL; any other RGO sends its registers and body to the landing unit of its address, and its process waits; the return gives every register its final value and goes on behind RDONE, a failure gives d the index and cause, the other registers their old values, and goes to the failure target. -/
def Claims.RegionsSetOutAndReturn : Prop :=
  (∀ (s : State) (k : Nat) (p : Proc), s.Issues k p →
    exec .rdone s = .next (s.raiseWord k 0x01) ∧ exec .rabort s = .next (s.raiseWord k 0x01) ∧
    ∀ (d : Reg) (a : Src) (o : BitVec 11), p.region = none →
      (∀ w, s.regionBody p.core p.pc (s.word p) = .inl w → exec (.rgo d a o) s = .next (s.raise k 0x01 w)) ∧
      (∀ body x pa y, s.regionBody p.core p.pc (s.word p) = .inr body → s.Gives p [srcField a 0] [x] → (∀ r, p.full r = true) →
        s.translate p x.toNat true false = .pa pa y → s.backed pa 1 = true → s.Settled p →
        ∃ (t : State) (q : Proc) (c : RegionCkpt), exec (.rgo d a o) s = .next t ∧ t.proc k = some q ∧ q.wait = .reg d.toNat ∧ q.pc = p.pc ∧ q.region = some c ∧
          c.regs = (List.range 16).map (fun n => p.reg (BitVec.ofNat 4 n)) ∧ c.target = pa ∧ c.sent = s.cycle * 5 / 8 % 2 ^ 64 ∧
          c.next = p.pc + BitVec.ofNat 16 (4 * (body.length + 1)) ∧ (p.Unbound → t.mem = s.mem) ∧
          (s.reachable (pkgOf p.core) (pkgOfAddr pa) = false → t.DueIn 2 (.regionReturn p.name c.sent (.failure 0 3))) ∧
          (s.reachable (pkgOf p.core) (pkgOfAddr pa) = true → ∃ r : Region, t.DueIn (s.wayTo p.core pa + 1) (.regionArrival (landingOf pa) r) ∧ r.name = p.name ∧
            r.regs = c.regs ∧ r.body = body ∧ r.pa = pa ∧ r.sent = c.sent ∧ t.Due (.regionReturnTimeout p.name c.sent)))) ∧
  (∀ (s : State) (name k : Nat) (p : Proc) (c : RegionCkpt), s.named name = some (k, p) → p.region = some c → (∀ r ≠ 0, (p.cell r).pend = true) → c.regs.length = 16 →
    s.reachable (pkgOfAddr c.target) (pkgOf p.core) = true →
    let d : Reg := c.word.extractLsb' 22 4
    let fails (t : State) (i w : Nat) : Prop := ∃ q, t.proc k = some q ∧ q.region = none ∧
      q.pc = wordsFrom c.pc (c.word.extractLsb' 10 6 ++ c.word.extractLsb' 0 5 : BitVec 11).toInt ∧
      ∀ r ≠ 0, q.full r = true ∧ q.reg r = (if r = d then BitVec.ofNat 64 (2 ^ 63 + i * 2 ^ 16 + 0x1100 + w) else c.regs.getD r.toNat 0)
    (∀ n regs, regs.length = 16 → ∃ (t : State) (q : Proc), exec (.regionReturn name c.sent (.success n regs)) s = .next t ∧ t.proc k = some q ∧ q.region = none ∧
      q.pc = c.next ∧ ∀ r ≠ 0, q.full r = true ∧ q.reg r = (if r = d then BitVec.ofNat 64 n else regs.getD r.toNat 0)) ∧
    (∀ i w, ∃ t : State, exec (.regionReturn name c.sent (.failure i w)) s = .next t ∧ fails t i w) ∧
    (s.since c.sent < 65536 → ∃ (t : State) (q : Proc), exec (.regionReceipt name c.sent) s = .next t ∧ t.proc k = some q ∧ q.region = some { c with receipt := true } ∧
      q.regs = p.regs ∧ q.pc = p.pc) ∧
    (65536 ≤ s.since c.sent → ∃ t : State, exec (.regionReceipt name c.sent) s = .next t ∧ fails t 0 5) ∧
    (c.receipt = true → ∃ t : State, exec (.regionReturnTimeout name c.sent) s = .next t ∧ fails t 0 5) ∧
    (c.receipt = false → ∃ t : State, exec (.regionReturnTimeout name c.sent) s = .next t ∧ t.Due (.regionReturn name c.sent (.failure 0 3)) ∧
      { t with agenda := s.agenda } = s) ∧
    (∀ n e, n ≠ c.sent → exec (.regionReturn name n e) s = .next s))

/-- 12 R379 and R380: a region takes one of the four slots of its landing unit and sends its receipt, waits in the queue of eight, or is refused with NAK; an attempt runs its body; one that has read only lines that no region wrote since applies its stores at once and returns its registers, another is tried again, and after four CONFLICT is returned. -/
def Claims.RegionsLand : Prop :=
  (∀ (s : State) (u : Nat) (r : Region), s.reachable (pkgOf r.core) (pkgOfAddr r.pa) = true →
    ((s.landing u).slots.length < 4 → ∃ t : State, exec (.regionArrival u r) s = .next t ∧ t.DueIn (s.wayTo r.core r.pa) (.regionReceipt r.name r.sent) ∧
      t.DueIn 8 (.regionAttempt u r 1) ∧ ((t.landing u).slots.map LandSlot.region) = (s.landing u).slots.map LandSlot.region ++ [r] ∧ t.mem = s.mem) ∧
    ((s.landing u).slots.length = 4 → (s.landing u).queue.length < 8 → ∃ t : State, exec (.regionArrival u r) s = .next t ∧
      t.DueIn (s.wayTo r.core r.pa) (.regionReceipt r.name r.sent) ∧ (t.landing u).queue = (s.landing u).queue ++ [r] ∧ (t.landing u).slots = (s.landing u).slots) ∧
    ((s.landing u).slots.length = 4 → (s.landing u).queue.length = 8 → ∃ t : State, exec (.regionArrival u r) s = .next t ∧
      t.DueIn (s.wayTo r.core r.pa + 2) (.regionReturn r.name r.sent (.failure 0 2)) ∧ { t with agenda := s.agenda } = s)) ∧
  (∀ (s : State) (u n : Nat) (r : Region) (x : LandSlot), (s.landing u).slots = [x] → x.region = r → (s.landing u).queue = [] →
    let run := s.runBody r r.body.length 0 { regs := r.regs }
    let ends (t : State) (e : RegionEnd) : Prop := t.DueIn (s.wayTo r.core r.pa + 2) (.regionReturn r.name r.sent e) ∧ (t.landing u).slots = []
    let begins (t : State) (m : Nat) : Prop := t.DueIn (run.2.words + 4) (.regionAttempt u r m) ∧
      (t.landing u).slots = [{ x with attempt := m, ran := true, fault := run.1, regs := run.2.regs, stores := run.2.stores, lines := run.2.lines, stale := false }] ∧
      t.mem = s.mem
    (s.hasFeature (pkgOfAddr r.pa) featReg = false → ∃ t : State, exec (.regionAttempt u r n) s = .next t ∧ ends t (.failure 0 4) ∧ t.mem = s.mem) ∧
    (s.hasFeature (pkgOfAddr r.pa) featReg = true →
      (x.ran = false → ∃ t : State, exec (.regionAttempt u r n) s = .next t ∧ begins t n) ∧
      (x.ran = true → x.attempt = n →
        (∀ i c, x.fault = some (i, c) → ∃ t : State, exec (.regionAttempt u r n) s = .next t ∧ ends t (.failure i c) ∧ t.mem = s.mem) ∧
        (x.fault = none → x.stale = true → n < 4 → ∃ t : State, exec (.regionAttempt u r n) s = .next t ∧ begins t (n + 1)) ∧
        (x.fault = none → x.stale = true → 4 ≤ n → ∃ t : State, exec (.regionAttempt u r n) s = .next t ∧ ends t (.failure 0 1) ∧ t.mem = s.mem) ∧
        (∀ a m v, x.fault = none → x.stale = false → x.stores = [(a, m, v)] → inHbm a = true → s.MemOk → ∃ t : State, exec (.regionAttempt u r n) s = .next t ∧
          ends t (.success n x.regs) ∧ readLe t.mem a m = v % 2 ^ (8 * m) ∧ ∀ i, i < a ∨ a + m ≤ i → readByte t.mem i = readByte s.mem i))))

/-- Remote regions set out, land and return. -/
def Obligations.Regions : Prop :=
  Claims.RegionsSetOutAndReturn ∧ Claims.RegionsLand

/-- 12 R382 and R383: PERMX takes the next transfer identifier of its end, and its operation goes to be paired; paired operations with equal shapes exchange their elements one by one in rank order, each written where the partner's bit L differs, and both transfers complete after the last. -/
def Obligations.ExchangesRun : Prop :=
  (∀ (s : State) (k : Nat) (p : Proc) (d : Reg) (a b : Src) (h w : Word) (ke : Nat) (e : Ep), s.Runs k p [srcField a 0, srcField b 1] [h, w] [d] → h.toNat < 64 →
    s.handle p.name h.toNat = some (ke, e) → s.ep ke = some e → e.server = none → e.waitK = 0 → e.infl < 65535 → s.Settled p →
    let off := w.toNat % 2 ^ 24
    let ws := leWords 4 (readBytes s.mem (windowBase p.core + off) 32)
    (off % 8 ≠ 0 → exec (.permx d a b) s = .next (s.raise k 0x03 w)) ∧
    (off % 8 = 0 → scratchSize p.core < off + 32 → exec (.permx d a b) s = .next (s.raise k 0x04 w)) ∧
    (off % 8 = 0 → off + 32 ≤ scratchSize p.core → pxOk ws = false → exec (.permx d a b) s = .next (s.raiseWord k 0x01)) ∧
    (off % 8 = 0 → off + 32 ≤ scratchSize p.core → pxOk ws = true → (s.permxs.filter (fun x => pkgOf x.2.core == pkgOf p.core)).length < 8 →
      ∃ (u : State) (x : Permx), exec (.permx d a b) s = .next (u.retire k (consumeMask p [srcField a 0, srcField b 1]) [(d, BitVec.ofNat 64 ((e.issued + 1) % 2 ^ 24))]) ∧
        (u.ep ke).map (fun y => (y.issued, y.infl)) = some ((e.issued + 1) % 2 ^ 24, e.infl + 1) ∧
        u.permx s.nextPermx = some x ∧ x.desc = ws ∧ x.owner = p.name ∧ x.partner = none ∧ u.mem = s.mem ∧
        (∀ l, s.packages.contains (pxPeer (pkgOf p.core) ws) = true → s.launchOf p = some l → (∃ n ∈ l.nodes, pkgOf n = pxPeer (pkgOf p.core) ws) →
          s.hasFeature (pxPeer (pkgOf p.core) ws) featPerm = true → s.reachable (pkgOf p.core) (pxPeer (pkgOf p.core) ws) = true →
          x.failed = false ∧ u.DueIn (s.routeTime (pkgOf p.core) (pxPeer (pkgOf p.core) ws) + 1) (.permxPair s.nextPermx)) ∧
        (s.packages.contains (pxPeer (pkgOf p.core) ws) = false → x.failed = true ∧
          u.DueIn 0 (.transferComplete { owner := p.name, core := p.core, key := ke, tid := (e.issued + 1) % 2 ^ 24, job := .permx s.nextPermx })))) ∧
  (∀ (s : State) (i j : Nat) (x y : Permx) (vs ws : List Byte), s.permx i = some x → s.permx j = some y → i ≠ j → x.partner = none → x.failed = false → x.done = false →
    (s.permxPartner x = none → exec (.permxPair i) s = .next s) ∧
    (s.permxPartner x = some (j, y) → pxAgree x.desc y.desc = true →
      s.engineRead x.agent (pxAddr x.desc (pxIndex (pkgOf x.core) x.desc 0)) (pxSize x.desc) = some vs →
      s.engineRead y.agent (pxAddr y.desc (pxIndex (pkgOf y.core) y.desc 0)) (pxSize y.desc) = some ws →
      ∃ t : State, exec (.permxPair i) s = .next t ∧ (t.permx i).map (fun z => (z.partner, z.left)) = some (some j, 2 ^ (pxBits x.desc - 1)) ∧
        (t.permx j).map (fun z => (z.partner, z.left)) = some (some i, 2 ^ (pxBits x.desc - 1)) ∧
        t.DueIn (s.routeTime (pkgOf x.core) (pxPeer (pkgOf x.core) x.desc) + 1)
          (.permxElement j (pxIndex (pkgOf x.core) x.desc 0 ^^^ 2 ^ pxBit x.desc) vs) ∧
        t.DueIn (s.routeTime (pkgOf y.core) (pxPeer (pkgOf y.core) y.desc) + 1)
          (.permxElement i (pxIndex (pkgOf y.core) y.desc 0 ^^^ 2 ^ pxBit y.desc) ws) ∧ { t with permxs := s.permxs, agenda := s.agenda } = s)) ∧
  (∀ (s w : State) (i j ix : Nat) (x y : Permx) (val : List Byte), s.permx i = some x → s.permx j = some y → i ≠ j → x.partner = some j → x.failed = false → x.done = false →
    s.reachable (pxPeer (pkgOf x.core) x.desc) (pkgOf x.core) = true → s.engineWrite x.agent x.owner (pxAddr x.desc ix) val = some w →
    (∀ vs, 1 < x.left → w.engineRead x.agent (pxAddr x.desc (pxIndex (pkgOf x.core) x.desc (pxRank x.desc ix + 1))) (pxSize x.desc) = some vs →
      ∃ t : State, exec (.permxElement i ix val) s = .next t ∧ t.mem = w.mem ∧ (t.permx i).map Permx.left = some (x.left - 1) ∧
        t.DueIn (s.routeTime (pkgOf x.core) (pxPeer (pkgOf x.core) x.desc) + 1)
          (.permxElement j (pxIndex (pkgOf x.core) x.desc (pxRank x.desc ix + 1) ^^^ 2 ^ pxBit x.desc) vs)) ∧
    (x.left = 1 → y.left = 0 → ∃ t : State, exec (.permxElement i ix val) s = .next t ∧ t.mem = w.mem ∧
      t.DueIn 0 (.transferComplete { owner := x.owner, core := x.core, key := x.key, tid := x.tid, job := .permx i }) ∧
      t.DueIn 0 (.transferComplete { owner := y.owner, core := y.core, key := y.key, tid := y.tid, job := .permx j })))

/-- 12 R365, R366, R376, 13 R400: a flit that is not the next expected is discarded; one that fails authentication is counted and answered with NAK; a good one is answered with ACK, which takes what it acknowledges out of the sender's retry buffer. A link without an acknowledgement for 16 microseconds is down at both ends; training brings both ends up with the latency measured; 24 hours down set REPL. -/
def Claims.LinksCarryFlits : Prop :=
  (∀ (s : State) (pkg n : Nat) (f : Flit), n < 12 →
    let l := s.link pkg n
    let k := l.rx.toList.getD (if f.ks then 1 else 0) none
    let answered (t : State) (nak : Bool) (ack : Nat) : Prop := ∃ g : Flit, t.DueIn l.hop (.flitArrival (l.peer * 12 + l.peerLink) g) ∧ g.used = 0 ∧ g.nak = nak ∧ g.ack = ack
    (l.up = false → exec (.flitArrival (pkg * 12 + n) f) s = .next s) ∧
    (l.up = true → f.used ≠ 0 → f.seq ≠ l.expected → exec (.flitArrival (pkg * 12 + n) f) s = .next s) ∧
    (l.up = true → f.used ≠ 0 → f.seq = l.expected → l.expected < 65536 →
      (k = none ∨ (∃ x c, k = some x ∧ x.last = some c ∧ f.cnt ≤ c) → ∃ t : State, exec (.flitArrival (pkg * 12 + n) f) s = .next t ∧
        (t.link pkg n).authFail = min (l.authFail + 1) (2 ^ 32 - 1) ∧ (t.link pkg n).expected = l.expected ∧ answered t true ((l.expected + 65535) % 65536)) ∧
      (∀ x bs, k = some x → (∀ c, x.last = some c → c < f.cnt) → Config.gcmOpen x.key (x.salt ++ leBytes 8 f.cnt) (flitHeader f) f.payload f.tag = some bs →
        f.ackv = false → f.nak = false → l.waiting = [] → (∀ y ∈ l.sent, y.2.1 < 16) → ∃ t : State, exec (.flitArrival (pkg * 12 + n) f) s = .next t ∧
          (t.link pkg n).expected = (l.expected + 1) % 65536 ∧ (t.link pkg n).authFail = l.authFail ∧ answered t false l.expected)) ∧
    (∀ g b, l.up = true → f.used = 0 → f.ackv = true → f.nak = false → l.waiting = [] → l.sent = [(g, 0, b)] → g.seq = f.ack →
      ∃ t : State, exec (.flitArrival (pkg * 12 + n) f) s = .next t ∧ (t.link pkg n).sent = [] ∧ (t.link pkg n).lastAck = s.cycle) ∧
    (l.up = true → l.peerLink < 12 → l.sent ≠ [] → l.lastAck + 25600 ≤ s.cycle → ∃ t : State, exec (.linkAckTimeout (pkg * 12 + n)) s = .next t ∧
      (t.link pkg n).up = false ∧ (t.link l.peer l.peerLink).up = false) ∧
    (l.up = false ∨ l.sent = [] ∨ s.cycle < l.lastAck + 25600 → exec (.linkAckTimeout (pkg * 12 + n)) s = .next s) ∧
    (l.up = false → l.downAt + dayCycles = s.cycle → s.packages.contains l.peer = true → (s.pkg l.peer).power ≠ 3 →
      ∃ t : State, exec (.linkDown24Hours (pkg * 12 + n)) s = .next t ∧ (t.pkg pkg).repl = true ∧ { t with pkgs := s.pkgs } = s) ∧
    (l.up = true → exec (.linkDown24Hours (pkg * 12 + n)) s = .next s)) ∧
  (∀ (s : State) (pkg n peer hop : Nat), n < 12 →
    (s.packages.contains pkg = true → s.packages.contains peer = true → peer = linkNeighbour pkg n → peer ≠ pkg →
      ∃ t : State, exec (.linkTraining (pkg * 12 + n) peer hop) s = .next t ∧ (t.link pkg n).up = true ∧ (t.link pkg n).peer = peer ∧ (t.link pkg n).hop = hop ∧
        (t.link peer (farLink n)).up = true ∧ (t.link peer (farLink n)).peer = pkg ∧ (t.link peer (farLink n)).hop = hop) ∧
    (peer ≠ linkNeighbour pkg n → exec (.linkTraining (pkg * 12 + n) peer hop) s = .next s))

/-- 12 R363: a packet that has been delivered is discarded; one that is next in sequence is delivered; one ahead of its turn is held. -/
def Claims.PacketsArriveInOrder : Prop :=
  ∀ (s : State) (p : GPacket) (next : Nat) (held : List GPacket),
    s.seqHeld.find? (fun e => e.1 == p.srcDie && e.2.1 == p.dstDie && e.2.2.1 == p.plane) = some (p.srcDie, p.dstDie, p.plane, next, held) →
    s.routeStalled (p.srcDie / 4) (p.dstDie / 4) = false →
    (p.seq < next ∨ p ∈ held → exec (.gatewayPacketArrival p) s = .next s) ∧
    (∀ x, p.seq = next → held = [] → p.load = some x → s.reachable (p.srcDie / 4) (p.dstDie / 4) = true →
      ∃ t : State, exec (.gatewayPacketArrival p) s = .next t ∧ t.Due (.remoteAccessArrival x) ∧
        (p.srcDie, p.dstDie, p.plane, next + 1, []) ∈ t.seqHeld ∧ { t with seqHeld := s.seqHeld, agenda := s.agenda, drovers := s.drovers } = s) ∧
    (next < p.seq → held.length < 64 → p ∉ held → (∀ q ∈ held, q.seq ≠ next) → ∃ t : State, exec (.gatewayPacketArrival p) s = .next t ∧
      (p.srcDie, p.dstDie, p.plane, next, held ++ [p]) ∈ t.seqHeld ∧ { t with seqHeld := s.seqHeld } = s)

/-- 12 R370, R374: PEER reads an entry of a group's peer table with the group's FAIL bit of it and the mark of unnamed packages, and may write it; code 0x07 where there is no such group or its issuer does not supervise it, 0x48 for a package outside the installation or the issuer's own. -/
def Claims.PeersAreKept : Prop :=
  (∀ (s : State) (k : Nat) (p : Proc) (d : Reg) (a b : Src) (x y : Word), s.Runs k p [srcField a 0, srcField b 1] [x, y] [d] → (d ≠ 0 → (p.cell d).out < 3) →
    let gid := if x.toNat / 2 ^ 48 = 0 then p.gid else x.toNat / 2 ^ 48
    let i := x.toNat % 64
    let fails (n : Nat) : Prop := ∃ u : State, exec (.peer d a b) s = .next (u.retire k (consumeMask p [srcField a 0, srcField b 1]) []) ∧
      u.DueIn 1 (.peerAnswer (p.dest d) (BitVec.ofNat 64 (2 ^ 63 + n))) ∧ u.groups = s.groups
    (p.level = 0 → exec (.peer d a b) s = .next (s.raiseWord k 0x02)) ∧
    (1 ≤ p.level → x.toNat / 2 ^ 11 % 2 ^ 37 ≠ 0 ∨ x.toNat / 2 ^ 6 % 4 ≠ 0 → exec (.peer d a b) s = .next (s.raiseWord k 0x01)) ∧
    (1 ≤ p.level → x.toNat / 2 ^ 11 % 2 ^ 37 = 0 → x.toNat / 2 ^ 6 % 4 = 0 → y.toNat % 2 ^ 48 = 0 → y.toNat / 2 ^ 60 % 8 = 0 →
      (s.group? gid = none → fails 7) ∧
      (∀ g, s.group? gid = some g →
        (p.level ≠ 2 → g.supervisor ≠ p.name → fails 7) ∧
        (p.level = 2 ∨ g.supervisor = p.name →
          (x.getLsbD 9 = true → y.getLsbD 63 = true → s.packages.contains (y.toNat / 2 ^ 48 % 2 ^ 12) = false ∨ y.toNat / 2 ^ 48 % 2 ^ 12 = pkgOf p.core → fails 0x48) ∧
          (x.getLsbD 9 = false ∨ y.getLsbD 63 = false ∨
              (s.packages.contains (y.toNat / 2 ^ 48 % 2 ^ 12) = true ∧ y.toNat / 2 ^ 48 % 2 ^ 12 ≠ pkgOf p.core) →
            ∃ (u : State) (z : Group), exec (.peer d a b) s = .next (u.retire k (consumeMask p [srcField a 0, srcField b 1]) []) ∧ u.group? gid = some z ∧
              u.DueIn (2 * s.oneway p.core g.home) (.peerAnswer (p.dest d) ((g.peers.getD i 0 &&& ~~~(3 : Word)) |||
                (if g.failBits.getLsbD i then 1 else 0) ||| (if g.unnamed then 2 else 0))) ∧
              z.peers.getD i 0 = (if x.getLsbD 9 then s.peerEntry y else g.peers.getD i 0) ∧
              z.failBits.getLsbD i = (g.failBits.getLsbD i && !x.getLsbD 8 && !x.getLsbD 9) ∧ z.unnamed = (g.unnamed && !x.getLsbD 10) ∧ z.supervisor = g.supervisor))))) ∧
  (∀ (s : State) (d : FillTo) (v : Word), exec (.peerAnswer d v) s = exec (.fill d v) s)

/-- 12 R367, R368, R375, R376: LKEY, at M, loads a key slot from the key store, with code 0x40 where it holds no key, 0x41 for the transmit slot in use or while a switch is under way, 0x42 for a switch to an empty slot and 0x43 for a link never trained; a switch answers once its marker flit is sent. LSTAT reads. -/
def Claims.LinkKeysAreLoaded : Prop :=
  (∀ (s : State) (k n slot : Nat) (p : Proc) (d : Reg) (a b : Src) (x y : Word), s.Runs k p [srcField a 0, srcField b 1] [x, y] [d] → (d ≠ 0 → (p.cell d).out < 3) →
    (p.level ≠ 2 → exec (.lkey d a b) s = .next (s.raiseWord k 0x02)) ∧
    (p.level = 2 → 256 ≤ x.toNat ∨ 12 ≤ x.toNat % 16 → exec (.lkey d a b) s = .next (s.raiseWord k 0x01)) ∧
    (p.level = 2 → n < 12 → slot < 2 →
      let l := s.link (pkgOf p.core) n
      let ends (w : Word) (f : Link → Prop) : Prop := ∃ (u : State) (m : Nat), exec (.lkey d a b) s =
        .next (u.retire k (consumeMask p [srcField a 0, srcField b 1]) []) ∧ u.DueIn m (.keyInstalled (p.dest d) w) ∧ f (u.link (pkgOf p.core) n)
      (x.toNat = 2 ^ 7 + 2 ^ 5 + slot * 2 ^ 4 + n → y.toNat < 2 ^ 16 → l.up = true →
        (tget (s.pkg (pkgOf p.core)).keys y.toNat = none → ends (BitVec.ofNat 64 (2 ^ 63 + 0x40)) (fun z => z = l)) ∧
        (∀ bs, tget (s.pkg (pkgOf p.core)).keys y.toNat = some bs →
          ends 0 (fun z => z.rx.toList.getD slot none = some { key := bs.take 32, salt := (bs.drop 32).take 4 } ∧ z.tx = l.tx ∧ z.active = l.active))) ∧
      (x.toNat = 2 ^ 7 + slot * 2 ^ 4 + n → y.toNat < 2 ^ 16 → l.up = true → ∀ bs, tget (s.pkg (pkgOf p.core)).keys y.toNat = some bs →
        (l.active = slot → ends (BitVec.ofNat 64 (2 ^ 63 + 0x41)) (fun z => z = l)) ∧
        (l.active ≠ slot → l.mark = false → l.markSeq = none →
          ends 0 (fun z => z.tx.toList.getD slot none = some { key := bs.take 32, salt := (bs.drop 32).take 4 } ∧ z.rx = l.rx ∧ z.active = l.active))) ∧
      (x.toNat = 2 ^ 6 + slot * 2 ^ 4 + n → y = 0 → l.up = true →
        (l.active = slot → ends (BitVec.ofNat 64 (2 ^ 63 + 0x41)) (fun z => z = l)) ∧
        (l.active ≠ slot → l.mark = false → l.markSeq = none → l.tx.toList.getD slot none = none → ends (BitVec.ofNat 64 (2 ^ 63 + 0x42)) (fun z => z = l)) ∧
        (∀ key, l.active ≠ slot → l.mark = false → l.markSeq = none → l.tx.toList.getD slot none = some key → l.waiting = [] →
          ∃ u : State, exec (.lkey d a b) s = .next (u.retire k (consumeMask p [srcField a 0, srcField b 1]) []) ∧
            (u.link (pkgOf p.core) n).active = slot ∧ (u.link (pkgOf p.core) n).mark = true ∧ (u.link (pkgOf p.core) n).switching = some (p.dest d))) ∧
      (x.toNat = 2 ^ 6 + slot * 2 ^ 4 + n → y = 0 → l.up = false → l.downs = 0 → ends (BitVec.ofNat 64 (2 ^ 63 + 0x43)) (fun z => z = l)))) ∧
  (∀ (s : State) (d : FillTo) (v : Word), exec (.keyInstalled d v) s = exec (.fill d v) s) ∧
  (∀ (s : State) (k : Nat) (p : Proc) (d : Reg) (a : Src) (x : Word), s.Runs k p [srcField a 0] [x] [d] →
    let me := pkgOf p.core
    let n := x.toNat % 16
    let l := s.link me n
    let pkg := x.toNat / 2 ^ 48 % 4096
    let slots (v : Vector (Option KeySlot) 2) : Nat := (if (v.toList.getD 0 none).isSome then 1 else 0) + (if (v.toList.getD 1 none).isSome then 2 else 0)
    (7 ≤ x.toNat / 2 ^ 60 ∨ 12 ≤ n ∨ x.toNat / 2 ^ 4 % 2 ^ 44 ≠ 0 → exec (.lstat d a) s = .next (s.raiseWord k 0x01)) ∧
    (x.toNat / 2 ^ 60 < 7 → n < 12 → x.toNat / 2 ^ 4 % 2 ^ 44 = 0 → exec (.lstat d a) s = .next (s.retire k (consumeMask p [srcField a 0]) [(d,
      [BitVec.ofNat 64 ((if l.up then 2 ^ 63 else 0) + l.active * 2 ^ 62 + slots l.tx * 2 ^ 60 + slots l.rx * 2 ^ 58 + l.peer % 4096 * 2 ^ 36 +
          l.peerLink % 16 * 2 ^ 32 + s.hopTime me n % 65536),
       BitVec.ofNat 64 l.replays, BitVec.ofNat 64 l.authFail, BitVec.ofNat 64 (tgetD (s.pkg me).stomps (dieOf p.core % 4) 0),
       BitVec.ofNat 64 (((l.tx.toList.getD l.active none).map KeySlot.cnt).getD 0),
       if s.packages.contains pkg ∧ s.reachable me pkg then BitVec.ofNat 64 (s.routeTime me pkg) else BitVec.allOnes 64,
       if l.up then (s.pkg l.peer).feature &&& 0x3E00000000 else 0].getD (x.toNat / 2 ^ 60) 0)])))

/-- Links carry flits, packets arrive in order; peer tables, link keys and link state. -/
def Obligations.LinksAndPeers : Prop :=
  Claims.LinksCarryFlits ∧ Claims.PacketsArriveInOrder ∧ Claims.PeersAreKept ∧ Claims.LinkKeysAreLoaded

/-- 08 R247 to R254: a probe sets out along the waits of a process BLOCKED for the delay, and goes on along the waits of every process it reaches; back at an initiator with the lowest name of its path it becomes a confirmation, which visits the members in order; if all of them still stand, the report sets out for the supervisor, whose core queues eight. DLKQ takes the oldest that its issuer may take into its scratchpad. -/
def Obligations.DeadlocksAreReported : Prop :=
  (∀ (s : State) (name n k : Nat) (p : Proc), s.named name = some (k, p) →
    let f := s.fold (foldOf p.core)
    (p.episode ≠ n ∨ p.st ≠ .blocked ∨ p.reported = some n ∨ f.dlkOff = true ∨ s.cycle < p.probeFrom + gtcCycle f.dlkDelay →
      exec (.probeStart name n) s = .next s) ∧
    (p.episode = n → p.st = .blocked → p.reported ≠ some n → f.dlkOff = false → p.probeFrom + gtcCycle f.dlkDelay ≤ s.cycle →
      ∃ (t : State) (q : Proc), exec (.probeStart name n) s = .next t ∧ t.proc k = some q ∧ q.probeFrom = s.cycle ∧ { q with probeFrom := p.probeFrom } = p ∧
        { t with agenda := s.agenda, procs := s.procs } = s ∧
        ((∃ h, p.wait = .chan h) ∨ p.wait = .alt → t.DueIn (gtcCycle f.dlkDelay) (.probeStart p.name n)) ∧
        (s.isProbed p = true → ∀ x ∈ s.edges p, ∀ j q, s.named x.2 = some (j, q) → t.DueIn (s.oneway p.core q.core) (.probeArrival x.2 [x.1])))) ∧
  (∀ (s : State) (name k : Nat) (p : Proc) (m : Member) (rest : List Member), s.named name = some (k, p) →
    (m.name = name → (∃ x ∈ m :: rest, x.name < name) → exec (.probeArrival name (m :: rest)) s = .next s) ∧
    (∀ n j q, m.name = name → (∀ x ∈ m :: rest, name ≤ x.name) → rest.head? = some n → s.named n.name = some (j, q) →
      ∃ t : State, exec (.probeArrival name (m :: rest)) s = .next t ∧ t.DueIn (s.oneway p.core q.core) (.confirmationArrival (m :: rest) 1) ∧
        { t with agenda := s.agenda } = s) ∧
    (m.name ≠ name → (s.isProbed p = false ∨ 16 ≤ (m :: rest).length ∨ (∃ x ∈ rest, x.name = name) → exec (.probeArrival name (m :: rest)) s = .next s) ∧
      (s.isProbed p = true → s.aidComing p = false → (m :: rest).length < 16 → (∀ x ∈ rest, x.name ≠ name) →
        ∃ t : State, exec (.probeArrival name (m :: rest)) s = .next t ∧ { t with agenda := s.agenda } = s ∧
          ∀ x ∈ s.edges p, ∀ j q, s.named x.2 = some (j, q) → t.DueIn (s.oneway p.core q.core) (.probeArrival x.2 (m :: rest ++ [x.1]))))) ∧
  (∀ (s : State) (path : List Member) (i k : Nat) (m : Member) (p : Proc), path[i % path.length]? = some m → s.named m.name = some (k, p) →
    (s.memberStands path (i % path.length) = false → exec (.confirmationArrival path i) s = .next s) ∧
    (s.memberStands path (i % path.length) = true →
      (∀ n j q, i < path.length → path[(i + 1) % path.length]? = some n → s.named n.name = some (j, q) → ∃ t : State,
        exec (.confirmationArrival path i) s = .next t ∧ t.DueIn (s.oneway p.core q.core) (.confirmationArrival path (i + 1)) ∧ { t with agenda := s.agenda } = s) ∧
      (i = path.length → p.reported ≠ some p.episode → ∃ (t : State) (q : Proc) (n : Nat), exec (.confirmationArrival path i) s = .next t ∧ t.proc k = some q ∧
        q.reported = some p.episode ∧ q.regs = p.regs ∧ q.pc = p.pc ∧ t.DueIn n (.reportArrival p.gid (deadlockReport p.gid s.gtc path))))) ∧
  (∀ (s : State) (gid j : Nat) (q : Proc) (r : List Word), s.named (s.supervisorOf gid) = some (j, q) → r.length = 16 →
    ((s.core q.core).reports.length < 8 → ∃ t : State, exec (.reportArrival gid r) s = .next t ∧
      (t.core q.core).reports = (s.core q.core).reports ++ [r.set 2 (BitVec.ofNat 64 ((s.core q.core).drops * 2 ^ 48))] ∧ (t.core q.core).drops = 0 ∧ t.procs = s.procs) ∧
    (8 ≤ (s.core q.core).reports.length → ∃ t : State, exec (.reportArrival gid r) s = .next t ∧ (t.core q.core).reports = (s.core q.core).reports ∧
      (t.core q.core).drops = min ((s.core q.core).drops + 1) 65535 ∧ { t with cores := s.cores } = s)) ∧
  (∀ (s : State) (k : Nat) (p : Proc) (d : Reg) (a : Src) (v : Word), s.Runs k p [srcField a 0] [v] [d] →
    (2 ^ 24 ≤ v.toNat → exec (.dlkq d a) s = .next (s.raiseWord k 0x01)) ∧
    (v.toNat < 2 ^ 24 → v.toNat % 8 ≠ 0 → exec (.dlkq d a) s = .next (s.raise k 0x03 v)) ∧
    (v.toNat < 2 ^ 24 → v.toNat % 8 = 0 → scratchSize p.core < v.toNat + 128 → exec (.dlkq d a) s = .next (s.raise k 0x04 v)) ∧
    (v.toNat % 8 = 0 → v.toNat + 128 ≤ scratchSize p.core →
      ((∀ r ∈ (s.core p.core).reports, s.takesReport p r = false) → exec (.dlkq d a) s =
        .next (s.retire k (consumeMask p [srcField a 0]) [(d, BitVec.allOnes 64)])) ∧
      (∀ r rest, (s.core p.core).reports = r :: rest → s.takesReport p r = true → r.length = 16 → s.MemOk → ∃ u : State, exec (.dlkq d a) s =
          .next (u.retire k (consumeMask p [srcField a 0]) [(d, BitVec.ofNat 64 (rest.filter (s.takesReport p)).length)]) ∧ (u.core p.core).reports = rest ∧
        (∀ i < 16, readLe u.mem (windowBase p.core + v.toNat + 8 * i) 8 = (r.getD i 0).toNat) ∧
        (∀ b, b < windowBase p.core + v.toNat ∨ windowBase p.core + v.toNat + 128 ≤ b → readByte u.mem b = readByte s.mem b))))

/-- 13 R392, R393, R396 to R398, R400, R403, Table 13.2: the bothy answers a request of the host with a frame of type 5 that gives its TAG, OP and status, and does what the request asks. -/
def Claims.RequestsAreAnswered : Prop :=
  ∀ (s : State) (q : BReq), q.from0 = .host → (s.pkg q.pkg).portDown = false → (s.pkg q.pkg).asks = [] → (s.pkg q.pkg).replies = [] →
    let b := s.pkg q.pkg
    let frame (op status : Nat) (ws : List Word) : Nat × Nat × List Word :=
      (q.pkg, 5, BitVec.ofNat 64 (5 * 2 ^ 56 + ws.length % 4096 * 2 ^ 32 + q.tag / 2 ^ 16 % 2 ^ 32) :: 0 ::
        BitVec.ofNat 64 (q.tag % 2 ^ 16 * 2 ^ 48 + op * 2 ^ 32 + status) :: ws)
    let replies (i : Instr) (op status : Nat) (ws : List Word) (f : State → Prop) : Prop :=
      ∃ t : State, exec i s = .next t ∧ t.frames = s.frames ++ [frame op status ws] ∧ f t
    let healthy (repl : Bool) (w : Word) : Prop := b.started = true → w.getLsbD 63 = repl ∧ w.getLsbD 62 = !b.hot.isEmpty ∧ w.getLsbD 61 = decide (b.power = 1) ∧
      w.toNat / 2 ^ 48 % 2 ^ 13 = (s.fencedFolds q.pkg).length ∧ w.toNat % 2 ^ 24 = min b.ue (2 ^ 24 - 1)
    (∀ nonce, ∃ t : State, exec (.attest q nonce) s = .next t ∧ t.frames = s.frames ++ (List.range 8).map (fun i =>
      frame 0x01 0 (byteWords (((s.attestReport q.pkg nonce).drop (4080 * i)).take 4080))) ∧ t.procs = s.procs) ∧
    (∃ w, healthy b.repl w ∧ replies (.health q) 0x02 0 (w :: s.fencedMap q.pkg) (fun t => t.procs = s.procs)) ∧
    (let repl := s.replaced q.pkg
     ∃ w, healthy repl w ∧ replies (.healthReplClear q) 0x02 0 (w :: s.fencedMap q.pkg) (fun t => (t.pkg q.pkg).repl = repl)) ∧
    (replies (.events q) 0x03 0 ((b.log.take 127).flatMap eventWords) (fun t => (t.pkg q.pkg).log = b.log.drop 127)) ∧
    (∃ ws, replies (.counters q) 0x04 0 ws (fun t => t.procs = s.procs)) ∧
    (b.snapAt = none → replies (.snapshot q) 0x05 0 [] (fun t => (t.pkg q.pkg).snapAt = some (s.nanos + 256))) ∧
    (∀ index count sealed,
      (1024 ≤ index ∨ count ∈ b.counts → replies (.keyput q index count sealed) 0x06 2 [] (fun t => (t.pkg q.pkg).keys = b.keys)) ∧
      (∀ key ks, index < 1024 → count ∉ b.counts → b.session = some key →
        Config.gcmOpen key (keyputNonce count) [] (sealed.take (sealed.length - 16)) (sealed.drop (sealed.length - 16)) = some ks → ks.length = 36 →
        replies (.keyput q index count sealed) 0x06 0 [] (fun t => tget (t.pkg q.pkg).keys index = some ks ∧ (t.pkg q.pkg).counts = b.counts ++ [count]))) ∧
    (∀ m, (b.booted = true → replies (.feature q m) 0x07 1 [] (fun t => (t.pkg q.pkg).feature = b.feature)) ∧
      (b.booted = false → replies (.feature q m) 0x07 0 [] (fun t => (t.pkg q.pkg).feature = b.feature &&& ~~~(m &&& 0x3E00000000)))) ∧
    (∀ n, (768 ≤ n → replies (.fenceFold q n) 0x08 2 [] (fun t => t.folds = s.folds)) ∧
      (n < 768 → s.foldQuiet (mapFold q.pkg n) = false → replies (.fenceFold q n) 0x08 3 [] (fun t => t.folds = s.folds)) ∧
      (n < 768 → s.foldQuiet (mapFold q.pkg n) = true → replies (.fenceFold q n) 0x08 0 [] (fun t => (t.fold (mapFold q.pkg n)).fenced = true))) ∧
    (∀ c img sig key, b.imageKey = some key → s.MemOk →
      (Config.slhVerify key img sig = false → replies (.image q [c] img sig) 0x09 2 [] (fun t => t.mem = s.mem)) ∧
      (Config.slhVerify key img sig = true → img.length ≤ 65536 → coreIdOk c = true → s.packages.contains (pkgOf c) = true →
        replies (.image q [c] img sig) 0x09 0 [] (fun t => readBytes t.mem (windowBase c + 0x120000) img.length = img))) ∧
    ((∃ l ∈ s.launches, l.2.pkg = q.pkg) → replies (.power q 2) 0x0A 3 [] (fun t => (t.pkg q.pkg).power = b.power)) ∧
    (replies (.power q 1) 0x0A 0 [] (fun t => (t.pkg q.pkg).power = 1)) ∧
    (∀ gid id, (s.group? gid = none → replies (.killgroup q gid id) 0x0B 2 [] (fun t => t.groups = s.groups)) ∧
      (∀ g l, s.group? gid = some g → tget s.launches g.launch = some l → l.launchId = id →
        (g.killed.isSome = true → replies (.killgroup q gid id) 0x0B 3 [] (fun t => t.groups = s.groups)) ∧
        (g.killed = none → ∃ t : State, exec (.killgroup q gid id) s = .next t ∧ (t.group? gid).map Group.hostKill = some (some q) ∧
          ((t.group? gid).bind Group.killed).isSome ∧ t.frames = s.frames ∧ ∀ e ∈ s.procs, e.2.gid = gid → t.Due (.killArrival gid e.2.core)))) ∧
    (∀ key sig, (b.imageKey = none → replies (.imagekey q key sig) 0x0C 0 [] (fun t => (t.pkg q.pkg).imageKey = some (Config.shake256 key 64))) ∧
      (∀ d, b.imageKey = some d → Config.slhVerify d key sig = false → replies (.imagekey q key sig) 0x0C 1 [] (fun t => (t.pkg q.pkg).imageKey = some d)))

/-- 13 R393: a request that its source may not make is answered with status 1, whatever it asks. -/
def Claims.RequestsAreChecked : Prop :=
  ∀ (s : State) (q : BReq), s.mayAsk q true = false →
    (∀ i ∈ [(Instr.healthReplClear q, 0x02), (.keyput q 0 0 [], 0x06), (.feature q 0, 0x07), (.fenceFold q 0, 0x08), (.image q [] [] [], 0x09), (.power q 0, 0x0A),
        (.killgroup q 0 0, 0x0B), (.imagekey q [] [], 0x0C)], exec i.1 s = .next ((s.bothyReply q i.2 1 []).takeAsks q.pkg)) ∧
    (s.mayAsk q false = false → ∀ i ∈ [(Instr.attest q [], 0x01), (.health q, 0x02), (.events q, 0x03), (.counters q, 0x04), (.snapshot q, 0x05)],
      exec i.1 s = .next ((s.bothyReply q i.2 1 []).takeAsks q.pkg))

/-- 13 R392, R398, 04 R77: frames of the host write and read memory at level M and carry messages to host ends; one that is malformed is counted as an event; after 16 failed retries the port is down, and training brings it up again with a fresh session key. -/
def Claims.FramesOfTheHost : Prop :=
  ∀ (s : State) (pkg : Nat) (ws : List Word),
    let b := s.pkg pkg
    let logs (t : State) : Prop := (t.pkg pkg).log.length = min (b.log.length + 1) 65536 ∧ { t with pkgs := s.pkgs } = s
    (b.log.length ≤ 65536 → (∃ t : State, exec (.tetherRefusedFrame pkg ws) s = .next t ∧ logs t) ∧
      ∀ i ∈ [(Instr.tetherMessageFrame pkg ws, 1), (.tetherStoreFrame pkg ws, 2), (.tetherLoadFrame pkg ws, 3)], frameOk ws i.2 = false →
        ∃ t : State, exec i.1 s = .next t ∧ logs t) ∧
    (∀ w0 a v, ws = [w0, a, v] → a.toNat % 8 = 0 → inHbm a.toNat = true →
      (frameOk ws 2 = true → s.partFault (bothyCore pkg) 0 2 a.toNat 8 true = none → s.MemOk → ∃ t : State, exec (.tetherStoreFrame pkg ws) s = .next t ∧
        readLe t.mem a.toNat 8 = v.toNat ∧ ∀ i, i < a.toNat ∨ a.toNat + 8 ≤ i → readByte t.mem i = readByte s.mem i) ∧
      (frameOk ws 3 = true → s.partFault (bothyCore pkg) 0 2 a.toNat 8 false = none → b.portDown = false → ∃ t : State, exec (.tetherLoadFrame pkg ws) s = .next t ∧
        t.frames = s.frames ++ [(pkg, 4, [BitVec.ofNat 64 (4 * 2 ^ 56 + w0.toNat % 2 ^ 32), a, BitVec.ofNat 64 (readLe s.mem a.toNat 8)])] ∧ t.mem = s.mem)) ∧
    (∀ ke e, frameOk ws 1 = true → 4 ≤ ws.length → (ws.getD 1 0).toNat < 2 ^ 46 →
      s.handle ((ws.getD 1 0).toNat % 2 ^ 40) ((ws.getD 1 0).toNat / 2 ^ 40) = some (ke, e) → s.ep ke = some e → e.recv = true → e.server = some .host → e.outbox = [] →
      (e.hwCredits ≠ 0 → ∃ t : State, exec (.tetherMessageFrame pkg ws) s = .next t ∧ (t.ep ke).map Ep.hwCredits = some (e.hwCredits - 1) ∧
        t.DueIn (s.oneway e.peer.core (ke / 512) + s.dataTime e.peer.core (ke / 512) (8 * (ws.length - 2)))
          (.messageEnqueue (locOf ke e) { src := e.peer, sender := 0, tid := none, tile := none, body := .bytes (wordsLe (ws.drop 2)), at0 := s.cycle })) ∧
      (e.hwCredits = 0 → ∃ t : State, exec (.tetherMessageFrame pkg ws) s = .next t ∧ (t.ep ke).map Ep.outbox = some [wordsLe (ws.drop 2)])) ∧
    (∃ t : State, exec (.tetherRetry pkg) s = .next t ∧ { t with pkgs := s.pkgs } = s ∧
      (b.retries < 15 → (t.pkg pkg).retries = b.retries + 1 ∧ (t.pkg pkg).portDown = b.portDown) ∧ (15 ≤ b.retries → (t.pkg pkg).portDown = true)) ∧
    (∀ seed ct, b.outbound = [] → ∃ t : State, exec (.tetherTraining pkg seed ct) s = .next t ∧ (t.pkg pkg).portDown = false ∧ (t.pkg pkg).counts = [] ∧
      (t.pkg pkg).session = some (Config.shake256 (Config.mlkemKey pkg seed ct ++ Config.serial pkg ++ [0x74, 0x65, 0x74, 0x68, 0x65, 0x72]) 32) ∧
      { t with pkgs := s.pkgs } = s)

/-- The bothy answers requests, and refuses those not allowed; frames of the host act at once, or are counted as refused. -/
def Obligations.RequestsAndFrames : Prop :=
  Claims.RequestsAreAnswered ∧ Claims.RequestsAreChecked ∧ Claims.FramesOfTheHost

/-- 13 R395, R396, R404, R405, 11 R335: at power-on firmware that verifies is started and measured; at the end of boot the completion frame of LAUNCHID 0 goes out; a reset leaves no process of the package; the life counters survive a loss of power. -/
def Claims.PackagesStart : Prop :=
  ∀ (s : State) (pkg : Nat),
    let b := s.pkg pkg
    let empty (t : State) : Prop := (∀ e ∈ t.procs, pkgOf (e.1 / 256) ≠ pkg) ∧ (∀ e ∈ s.procs, pkgOf (e.1 / 256) ≠ pkg → e ∈ t.procs)
    (∀ fw sig, (Config.slhVerify (Config.fuseDigest pkg) fw sig = false → ∃ t : State, exec (.powerOn pkg fw sig []) s = .next t ∧ (t.pkg pkg).started = false ∧ empty t) ∧
      (Config.slhVerify (Config.fuseDigest pkg) fw sig = true → ∃ t : State, exec (.powerOn pkg fw sig []) s = .next t ∧ (t.pkg pkg).started = true ∧
        (t.pkg pkg).booted = false ∧ (t.pkg pkg).firmware = fw ∧ t.DueIn 1600 (.bootComplete pkg) ∧ empty t ∧
        (t.pkg pkg).meas.head? = some (Config.shake256 (List.replicate 64 0 ++ Config.shake256 fw 64) 64))) ∧
    (b.started = true → b.booted = false → b.portDown = false → ∃ t : State, exec (.bootComplete pkg) s = .next t ∧ (t.pkg pkg).booted = true ∧
      t.frames = s.frames ++ [(pkg, 6, [BitVec.ofNat 64 (6 * 2 ^ 56 + 2 ^ 32), 0, 0, 0])] ∧ t.procs = s.procs) ∧
    (b.started = false ∨ b.booted = true → exec (.bootComplete pkg) s = .next s) ∧
    (∃ t : State, exec (.packageReset pkg) s = .next t ∧ empty t ∧ (b.replies = [] → ∀ g, t.pkg g = s.pkg g) ∧ ∀ a, inSpe a = true → pkgOfAddr a = pkg → readByte t.mem a = 0) ∧
    (∃ t : State, exec (.powerFailure pkg) s = .next t ∧ empty t ∧ (t.pkg pkg).power = 3 ∧ (t.pkg pkg).life = b.saved ∧ (t.pkg pkg).imageKey = b.imageKey ∧
      (t.pkg pkg).keys = [] ∧ (t.pkg pkg).log = [] ∧ (t.pkg pkg).started = false ∧ ∀ a, pkgOfAddr a = pkg → readByte t.mem a = 0) ∧
    (∃ t : State, exec (.lifeCounterSave pkg) s = .next t ∧ (t.pkg pkg).saved = (t.pkg pkg).life ∧ t.DueIn 960000000000 (.lifeCounterSave pkg) ∧ t.procs = s.procs) ∧
    (∀ n item, (n < 3 ∨ 7 < n → exec (.measurementRequest pkg n item) s = .next s) ∧
      (3 ≤ n → n ≤ 7 → b.meas.length = 8 → ∃ t : State, exec (.measurementRequest pkg n item) s = .next t ∧
        (t.pkg pkg).meas[n]? = some (Config.shake256 (b.meas.getD n [] ++ Config.shake256 item 64) 64) ∧ { t with pkgs := s.pkgs } = s))

/-- 13 R399 to R402, Table 13.3: power states and thermal limits; a corrected error is counted, an uncorrected one poisons its word and counts in UE. -/
def Claims.PackagesAreGuarded : Prop :=
  (∀ (s : State) (pkg : Nat),
    let b := s.pkg pkg
    (∀ st : BitVec 2, (s.mayPower pkg st.toNat = false → exec (.i3cPowerState pkg st) s = .next s) ∧
      (s.mayPower pkg st.toNat = true → ∃ t : State, exec (.i3cPowerState pkg st) s = .next t ∧ (t.pkg pkg).power = st.toNat ∧
        (st = 3 → ∀ e ∈ t.procs, pkgOf (e.1 / 256) ≠ pkg) ∧ (st ≠ 3 → t.procs = s.procs ∧ t.mem = s.mem))) ∧
    (b.power = 0 → ∃ t : State, exec (.powerCap pkg) s = .next t ∧ (t.pkg pkg).power = 1 ∧ t.procs = s.procs) ∧
    (b.power ≠ 0 → exec (.powerCap pkg) s = .next s)) ∧
  (∀ (s : State) (die j : Nat),
    let b := s.pkg (die / 4)
    (∃ t : State, exec (.throttleEnter die j) s = .next t ∧ (∀ x, x ∈ (t.pkg (die / 4)).hot ↔ x ∈ b.hot ∨ x = (die, j)) ∧ { t with pkgs := s.pkgs } = s) ∧
    (∃ t : State, exec (.throttleExit die j) s = .next t ∧ (∀ x, x ∈ (t.pkg (die / 4)).hot ↔ x ∈ b.hot ∧ x ≠ (die, j)) ∧ { t with pkgs := s.pkgs } = s) ∧
    (∃ t : State, exec (.hardLimit die j) s = .next t ∧ (t.pkg (die / 4)).power = 3 ∧ ∀ e ∈ t.procs, pkgOf (e.1 / 256) ≠ die / 4)) ∧
  (∀ (s : State) (a die source unit : Nat) (stack : Option Nat), blockOf a = some (die, source, unit, stack) →
    (∃ t : State, exec (.patrolScrub a true false) s = .next t ∧
      tgetD (t.pkg (die / 4)).life (lifeCorrected (die % 4) unit) 0 = min (tgetD (s.pkg (die / 4)).life (lifeCorrected (die % 4) unit) 0 + 1) (2 ^ 64 - 1) ∧
      { t with pkgs := s.pkgs } = s) ∧
    (s.recordAt (a / 8 * 8) = none → ∃ t : State, exec (.patrolScrub a false true) s = .next t ∧ t.poisoned a 1 = true ∧ (t.pkg (die / 4)).ue = (s.pkg (die / 4)).ue + 1 ∧
      { t with pkgs := s.pkgs, poison := s.poison } = s))

/-- Packages start, boot, reset and lose power; power states, thermal limits and soft errors. -/
def Obligations.PackagesRun : Prop :=
  Claims.PackagesStart ∧ Claims.PackagesAreGuarded

/-- 05 R100 and 95_what_each_step_holds: no instruction stops the machine. A word that a process issues answers a next state in every state and for all operands, be it its effect, a wait, or the exception that its rule names; and every event answers a next state in every state. -/
def Obligations.NothingStops : Prop :=
  (∀ (i : Instr) (s : State) (k : Nat) (p : Proc), s.Issues k p → ∃ t : State, exec i s = .next t) ∧
  (∀ (i : Instr) (s : State), i.isWord = false → (∀ w, i ≠ .notAnInstruction w) → ∃ t : State, exec i s = .next t)

/-- 04 R86, R89, R96, 05 R130: with no load, store or invalidation of its process outstanding, FENCE of every scope and kind, DRAIN.S and ISYNC retire; CSRR, CSRW, CSRS and CSRC of a CSR that their process's level may access, with a value that no field excludes, retire with the CSR's old value in d. 06 R153 to R170, 08 R240: with their operands there, SPAWN, GANG, KILLG, PINFO, SUSP, RESM, MIGR, QUIESCE, QUIESCE.R, GARR, GWAIT, GEXP and TRAPW with a notification retire; EXIT, GBAR and WFW have set out and wait for their events. -/
def Obligations.SystemAndProcessWordsComplete : Prop :=
  ∀ (s : State) (k : Nat) (p : Proc) (d : Reg), s.Issues k p → p.st = .resident → s.Takes p [d] → p.HasTag d →
    let retires (i : Instr) (fs : List Field) (ws : List (Reg × Word)) : Prop :=
      ∃ u : State, exec i s = .next (u.retire k (consumeMask p fs) ws) ∧ (u.proc k).map Proc.pc = some p.pc
    let waits (i : Instr) (w : Wait) : Prop := ∃ (t : State) (q : Proc), exec i s = .next t ∧ t.proc k = some q ∧ q.st = .blocked ∧ q.wait = w ∧ q.pc = p.pc
    let g1to4 := [1, 2, 3, 4].map (fun r => plainField (BitVec.ofNat 4 r) 3)
    (p.loads = [] → (∀ e ∈ (s.core p.core).sb, e.name ≠ p.name) → (∀ c ∈ s.cores, ∀ v ∈ c.2.invals, v.poster ≠ p.name) →
      (∀ sc kd, ∃ v, retires (.fence d sc kd) [] [(d, v)]) ∧ retires .drainS [] [] ∧ retires .isync [] []) ∧
    (∀ (n : BitVec 12) (m : BitVec 2), ∀ e ∈ csrTable s p, e.1 = n.toNat → e.2.1 ≤ p.level →
      retires (.csrr d n) [] [(d, e.2.2.2)] ∧ retires (.csrs d ⟨0, m⟩ n) [srcField ⟨0, m⟩ 0] [(d, e.2.2.2)] ∧
      retires (.csrc d ⟨0, m⟩ n) [srcField ⟨0, m⟩ 0] [(d, e.2.2.2)]) ∧
    (∀ (a : Src) (x : Word) (n : BitVec 12), s.Gives p [srcField a 0] [x] →
      let old := [(d, s.csrRead p n.toNat)]
      (∀ e ∈ csrWrites p x, e.1 = n.toNat → e.2.1 → retires (.csrw d a n) [srcField a 0] old) ∧
      (a.reg ≠ 0 →
        (∀ e ∈ csrWrites p (s.csrRead p n.toNat ||| x), e.1 = n.toNat → e.2.1 → retires (.csrs d a n) [srcField a 0] old) ∧
        (∀ e ∈ csrWrites p (s.csrRead p n.toNat &&& ~~~x), e.1 = n.toNat → e.2.1 → retires (.csrc d a n) [srcField a 0] old))) ∧
    (∀ (a : Src) (x : Word), s.Gives p [srcField a 0] [x] →
      waits (.exit a) .exitDrain ∧
      (1 ≤ p.level → retires (.killg d a) [srcField a 0] []) ∧
      (x.toNat < 2 ^ 40 → s.reachesCore p.core (birthCore x.toNat) = true →
        retires (.pinfo d a) [srcField a 0] [] ∧ (1 ≤ p.level → retires (.susp d a) [srcField a 0] [] ∧ retires (.resm d a) [srcField a 0] [])) ∧
      (∀ g, s.group? p.gid = some g → x.toNat < g.phase → retires (.gwait a) [srcField a 0] []) ∧
      (∀ ke e n, x.toNat < 64 → s.handle p.name x.toNat = some (ke, e) → e.server = some (.dispenser n) → waits (.wfw a) (.wfw x.toNat))) ∧
    (∀ (a b : Src) (x y : Word), s.Gives p [srcField a 0, srcField b 1] [x, y] →
      let two := [srcField a 0, srcField b 1]
      (1 ≤ p.level → x.toNat < 2 ^ 40 → coreIdOk y.toNat = true → s.reachesCore p.core (birthCore x.toNat) = true → retires (.migr d a b) two []) ∧
      (p.level = 2 → coreIdOk x.toNat = true → coreIdOk y.toNat = true → dieOf x.toNat = dieOf y.toNat →
        retires (.quiesce d a b) two [] ∧ retires (.quiesceR d a b) two []) ∧
      (∀ g ke z, s.group? p.gid = some g → s.handle p.name (x.toNat % 64) = some (ke, z) → g.expects.length < 16 → retires (.gexp a b) two [])) ∧
    (∀ g, s.group? p.gid = some g → p.name ∉ g.arrived → p.arriving ≠ some g.phase → s.Settled p →
      retires (.garr d) [] [(d, BitVec.ofNat 64 g.phase)] ∧ waits (.gbar d) (.barrier g.phase)) ∧
    (∀ w n rest, 1 ≤ p.level → tgetD s.supq p.name [] = n :: rest → retires (.trapw d w) [] [(d, n)]) ∧
    (∀ (a b : Src) (n pl : BitVec 1) (v : BitVec 3) (w y a1 a2 a3 a4 : Word) (l : Launch) (e : LaunchEntry),
      s.launchOf p = some l → tget s.ltab (p.core * 16 + p.launch) = some e → s.Settled p →
      w.toNat < 2 ^ 48 → w.toNat / 2 ^ 32 % 4 = 0 → w.toNat / 4 % 8 ≤ 4 → (pl = 0 → coreIdOk (w.toNat / 2 ^ 7 % 2 ^ 25) = true) →
      (s.Gives p ([srcField a 0, srcField b 1] ++ g1to4) [w, y, a1, a2, a3, a4] → (pl = 1 → (l.words.getD (16 + v.toNat) 0).getLsbD 0 = true) →
        retires (.spawn d a b n pl v) ([srcField a 0, srcField b 1] ++ g1to4) []) ∧
      (∀ f e8, s.Gives p ([srcField a 0] ++ g1to4) [w, a1, a2, a3, a4] → w.toNat / 2 ^ 7 % 2 ^ 25 = 8 * f → coreIdOk (8 * f) = true →
        (∀ c ∈ l.nodes, (s.ltabIndex c e.launch).isSome) → retires (.gang d a e8) ([srcField a 0] ++ g1to4) []))

end
end

