-- ==== Sys2Proof/Laws/Integer.lean ====
section
/-! SUPPORT. The integer operations as sums, products and quotients of whole numbers (05 Table 5.4). -/

namespace Sys2Proof.Machine

variable (x y : Word)

theorem sub_as_int : x - y = BitVec.ofInt 64 (x.toInt - y.toInt) := by
  apply BitVec.eq_of_toInt_eq; simp [BitVec.toInt_sub]

theorem andn_as_difference : x &&& ~~~y = BitVec.ofNat 64 (x.toNat - (x.toNat &&& y.toNat)) := by
  apply BitVec.eq_of_toNat_eq
  have h1 : (x &&& ~~~y).toNat + (x &&& y).toNat = x.toNat := by
    rw [← BitVec.toNat_add_of_and_eq_zero]
    · congr 1
      apply BitVec.eq_of_getLsbD_eq
      intro i hi
      simp only [BitVec.add_eq_or_of_and_eq_zero _ _ (show (x &&& ~~~y) &&& (x &&& y) = 0 from by
        apply BitVec.eq_of_getLsbD_eq; intro j hj; simp; cases x.getLsbD j <;> cases y.getLsbD j <;> simp)]
      simp
      cases x.getLsbD i <;> cases y.getLsbD i <;> simp [hi]
    · apply BitVec.eq_of_getLsbD_eq
      intro i hi; simp; cases x.getLsbD i <;> cases y.getLsbD i <;> simp
  have h2 := (x &&& ~~~y).isLt
  simp only [BitVec.toNat_ofNat]
  rw [← BitVec.toNat_and]
  rw [Nat.mod_eq_of_lt] <;> omega

theorem shiftLeft_as_product : x <<< amount y = BitVec.ofNat 64 (x.toNat * 2 ^ (y.toNat % 64)) := by
  apply BitVec.eq_of_toNat_eq; simp [amount, BitVec.toNat_shiftLeft, Nat.shiftLeft_eq]

theorem shiftRight_as_quotient : x >>> amount y = BitVec.ofNat 64 (x.toNat / 2 ^ (y.toNat % 64)) := by
  apply BitVec.eq_of_toNat_eq; simp [amount, BitVec.toNat_ushiftRight, Nat.shiftRight_eq_div_pow]
  symm; apply Nat.mod_eq_of_lt; exact lt_of_le_of_lt (Nat.div_le_self _ _) x.isLt

theorem sshiftRight_as_quotient : x.sshiftRight (amount y) = BitVec.ofInt 64 (x.toInt / 2 ^ (y.toNat % 64)) := by
  simp [BitVec.sshiftRight, amount, Int.shiftRight_eq_div_pow]

theorem mulHighU_as_quotient : mulHighU x y = BitVec.ofNat 64 (x.toNat * y.toNat / 2 ^ 64) := by
  apply BitVec.eq_of_toNat_eq
  have hx := x.isLt; have hy := y.isLt
  have : x.toNat * y.toNat < 2^128 := by nlinarith
  simp [mulHighU, BitVec.extractLsb'_toNat, Nat.shiftRight_eq_div_pow]
  omega

theorem divSigned_as_cases : divSigned x y = (if y.toNat = 0 then 0xFFFFFFFFFFFFFFFF
     else if x.toInt = -2 ^ 63 ∧ y.toInt = -1 then BitVec.ofInt 64 (-2 ^ 63)
     else BitVec.ofInt 64 (x.toInt.tdiv y.toInt)) := by
  unfold divSigned
  have h0 : y = 0 ↔ y.toNat = 0 := ⟨fun h => by simp [h], fun h => BitVec.eq_of_toNat_eq (by simpa using h)⟩
  by_cases h : y.toNat = 0
  · rw [if_pos (h0.2 h), if_pos h]; rfl
  · rw [if_neg (fun k => h (h0.1 k)), if_neg h]
    split
    · rename_i k; rw [k.1, k.2]; rfl
    · rfl

theorem divUnsigned_as_quotient : divUnsigned x y = (if y.toNat = 0 then 0xFFFFFFFFFFFFFFFF else BitVec.ofNat 64 (x.toNat / y.toNat)) := by
  unfold divUnsigned
  have h0 : y = 0 ↔ y.toNat = 0 := ⟨fun h => by simp [h], fun h => BitVec.eq_of_toNat_eq (by simpa using h)⟩
  simp only [h0]; rfl

theorem remSigned_as_cases : remSigned x y = (if y.toNat = 0 then x
     else if x.toInt = -2 ^ 63 ∧ y.toInt = -1 then 0
     else BitVec.ofInt 64 (x.toInt - x.toInt.tdiv y.toInt * y.toInt)) := by
  unfold remSigned
  have h0 : y = 0 ↔ y.toNat = 0 := ⟨fun h => by simp [h], fun h => BitVec.eq_of_toNat_eq (by simpa using h)⟩
  by_cases h : y.toNat = 0
  · rw [if_pos (h0.2 h), if_pos h]
  · rw [if_neg (fun k => h (h0.1 k)), if_neg h]
    split
    · rename_i k; rw [k.1, k.2]; rfl
    · rw [Int.tmod_def, mul_comm]

theorem remUnsigned_as_difference : remUnsigned x y = (if y.toNat = 0 then x else BitVec.ofNat 64 (x.toNat - x.toNat / y.toNat * y.toNat)) := by
  unfold remUnsigned
  have h0 : y = 0 ↔ y.toNat = 0 := ⟨fun h => by simp [h], fun h => BitVec.eq_of_toNat_eq (by simpa using h)⟩
  have : x.toNat % y.toNat = x.toNat - x.toNat / y.toNat * y.toNat := by
    have := Nat.div_add_mod x.toNat y.toNat; rw [mul_comm] at this; omega
  simp only [h0, this]

theorem minSigned_as_min : minSigned x y = BitVec.ofInt 64 (min x.toInt y.toInt) := by
  unfold minSigned; simp only [BitVec.slt, decide_eq_true_eq]; split
  · rw [min_eq_left (by omega)]; simp
  · rw [min_eq_right (by omega)]; simp

theorem maxSigned_as_max : maxSigned x y = BitVec.ofInt 64 (max x.toInt y.toInt) := by
  unfold maxSigned; simp only [BitVec.slt, decide_eq_true_eq]; split
  · rw [max_eq_right (by omega)]; simp
  · rw [max_eq_left (by omega)]; simp

theorem minUnsigned_as_min : minUnsigned x y = BitVec.ofNat 64 (min x.toNat y.toNat) := by
  unfold minUnsigned; simp only [BitVec.ult, decide_eq_true_eq]; split
  · rw [min_eq_left (by omega)]; simp
  · rw [min_eq_right (by omega)]; simp

theorem maxUnsigned_as_max : maxUnsigned x y = BitVec.ofNat 64 (max x.toNat y.toNat) := by
  unfold maxUnsigned; simp only [BitVec.ult, decide_eq_true_eq]; split
  · rw [max_eq_right (by omega)]; simp
  · rw [max_eq_left (by omega)]; simp

theorem truth_eq : truth (x == y) = if x.toNat = y.toNat then 1 else 0 := by
  simp [truth, BitVec.toNat_inj]

theorem truth_ne : truth (x != y) = if x.toNat = y.toNat then 0 else 1 := by
  by_cases h : x = y <;> simp [truth, BitVec.toNat_inj, h]

theorem truth_slt : truth (x.slt y) = if x.toInt < y.toInt then 1 else 0 := by simp [truth, BitVec.slt]
theorem truth_ult : truth (x.ult y) = if x.toNat < y.toNat then 1 else 0 := by simp [truth, BitVec.ult]
theorem truth_sle : truth (x.sle y) = if x.toInt ≤ y.toInt then 1 else 0 := by simp [truth, BitVec.sle]
theorem truth_ule : truth (x.ule y) = if x.toNat ≤ y.toNat then 1 else 0 := by simp [truth, BitVec.ule]

theorem rotateLeft_as_sum : x.rotateLeft (amount y) = BitVec.ofNat 64 (x.toNat * 2 ^ (y.toNat % 64) + x.toNat / 2 ^ (64 - y.toNat % 64)) := by
  apply BitVec.eq_of_toNat_eq
  rw [BitVec.toNat_rotateLeft]
  have hr : amount y % 64 = y.toNat % 64 := by simp [amount]
  rw [hr]
  generalize hn : y.toNat % 64 = n
  have hn' : n < 64 := hn ▸ Nat.mod_lt _ (by omega)
  simp only [BitVec.toNat_ofNat]
  have e : 2 ^ 64 = 2 ^ (64 - n) * 2 ^ n := by rw [← pow_add]; congr 1; omega
  have hx := x.isLt
  have hlt : x.toNat / 2 ^ (64 - n) < 2 ^ n := by rw [Nat.div_lt_iff_lt_mul (by positivity)]; rw [mul_comm, ← e]; exact hx
  have h1 : x.toNat <<< n % 2 ^ 64 = (x.toNat % 2 ^ (64 - n)) <<< n := by
    rw [Nat.shiftLeft_eq, Nat.shiftLeft_eq, e, Nat.mul_mod_mul_right]
  rw [h1, Nat.shiftRight_eq_div_pow, ← Nat.shiftLeft_add_eq_or_of_lt hlt, Nat.shiftLeft_eq]
  have h2 : x.toNat % 2 ^ (64 - n) < 2 ^ (64 - n) := Nat.mod_lt _ (by positivity)
  have h3 : x.toNat % 2 ^ (64 - n) * 2 ^ n + 2 ^ n ≤ 2 ^ 64 := by
    rw [e]
    calc _ = (x.toNat % 2 ^ (64 - n) + 1) * 2 ^ n := by ring
      _ ≤ _ := Nat.mul_le_mul_right _ h2
  have := Nat.mod_eq_of_lt (a := x.toNat % 2 ^ (64 - n) * 2 ^ n + x.toNat / 2 ^ (64 - n)) (b := 2^64) (by omega)
  rw [← this]
  conv_rhs => rw [Nat.add_mod, ← Nat.shiftLeft_eq x.toNat, h1, Nat.shiftLeft_eq]
  rw [Nat.add_mod_mod]

theorem mulHigh_as_quotient : mulHigh x y = BitVec.ofInt 64 (x.toInt * y.toInt / 2 ^ 64) := by
  unfold mulHigh
  apply BitVec.eq_of_toNat_eq
  rw [BitVec.extractLsb'_toNat, BitVec.toNat_ofInt]
  have hz : (BitVec.signExtend 128 x * BitVec.signExtend 128 y).toInt = x.toInt * y.toInt := by
    rw [BitVec.toInt_mul, BitVec.toInt_signExtend, BitVec.toInt_signExtend]
    have hx := x.le_toInt; have hy := y.le_toInt; have hx2 := x.toInt_lt; have hy2 := y.toInt_lt
    simp only [Nat.reduceSub] at *
    have e1 : x.toInt.bmod (2 ^ min 128 64) = x.toInt := by apply Int.bmod_eq_of_le <;> norm_num <;> omega
    have e2 : y.toInt.bmod (2 ^ min 128 64) = y.toInt := by apply Int.bmod_eq_of_le <;> norm_num <;> omega
    rw [e1, e2]
    apply Int.bmod_eq_of_le <;> norm_num <;> nlinarith
  have := BitVec.toInt_eq_toNat_bmod (BitVec.signExtend 128 x * BitVec.signExtend 128 y)
  rw [hz] at this
  generalize (BitVec.signExtend 128 x * BitVec.signExtend 128 y).toNat = n at *
  rw [this]
  simp only [Int.bmod_def, Nat.shiftRight_eq_div_pow]
  split <;> push_cast <;> omega

theorem signFrom_as_cases : signFrom x y = 
     (let n := y.toNat % 64 + 1
     let low := x.toNat % 2 ^ n
     if 2 ^ (n - 1) ≤ low then BitVec.ofInt 64 (low - 2 ^ n) else BitVec.ofNat 64 low) := by
  unfold signFrom zeroFrom
  have ha : amount y = y.toNat % 64 := rfl
  rw [ha]
  generalize hn : y.toNat % 64 = n
  have hn' : n < 64 := hn ▸ Nat.mod_lt _ (by omega)
  have hb : x.getLsbD n = true ↔ 2 ^ n ≤ x.toNat % 2 ^ (n+1) := by
    rw [BitVec.getLsbD, Nat.testBit_eq_decide_div_mod_eq, decide_eq_true_eq, Nat.pow_succ, Nat.mod_mul]
    have := Nat.mod_lt x.toNat (y := 2^n) (by positivity)
    rcases Nat.mod_two_eq_zero_or_one (x.toNat / 2^n) with h | h <;> rw [h] <;> simp <;> omega
  simp only [Nat.add_sub_cancel]
  by_cases h : x.getLsbD n = true
  · have h2 := hb.1 h
    rw [if_pos h, if_pos h2]
    have hl := Nat.mod_lt x.toNat (y := 2^(n+1)) (by positivity)
    apply BitVec.eq_of_toNat_eq
    rw [BitVec.toNat_ofInt]
    have e : 2 ^ 64 = 2 ^ (63 - n) * 2 ^ (n+1) := by rw [← pow_add]; congr 1; omega
    have h3 : x.toNat % 2^(n+1) < 2^64 := lt_of_le_of_lt (Nat.mod_le _ _) x.isLt
    rw [BitVec.toNat_or, BitVec.toNat_shiftLeft]
    have h4 : (allOnes.toNat <<< (n+1)) % 2^64 = (2^(63-n) - 1) <<< (n+1) := by
      rw [Nat.shiftLeft_eq, Nat.shiftLeft_eq, e, Nat.mul_mod_mul_right]
      congr 1
      have : allOnes.toNat = 2^64 - 1 := by decide
      rw [this]
      have e2 : 2 ^ 64 = 2 ^ (n + 1) * 2 ^ (63 - n)  := by rw [e, mul_comm]
      have hp : 0 < 2 ^ (63 - n) := by positivity
      have hq : 0 < 2 ^ (n + 1) := by positivity
      have : 2^64 - 1 = (2^(n+1) - 1) * 2^(63-n) + (2^(63-n) - 1) := by
        rw [e2, Nat.sub_mul, one_mul]
        have : 2^(63-n) ≤ 2^(n+1) * 2^(63-n) := Nat.le_mul_of_pos_left _ hq
        omega
      rw [this, Nat.mul_add_mod_of_lt]; omega
    rw [h4]
    simp only [BitVec.toNat_ofNat]
    rw [Nat.mod_eq_of_lt h3, Nat.or_comm, ← Nat.shiftLeft_add_eq_or_of_lt hl, Nat.shiftLeft_eq, Nat.sub_mul, one_mul, ← e]
    have h5 : 2^(n+1) ≤ 2^64 := Nat.pow_le_pow_right (by omega) (by omega)
    have h6 : (2:Nat)^(n+1) = 2 * 2^n := by ring
    have h7 : (↑(x.toNat % 2 ^ (n + 1)) - 2 ^ (n + 1) : Int) = ((x.toNat % 2 ^ (n + 1) : Nat) : Int) - ((2 ^ (n + 1) : Nat) : Int) := by push_cast; rfl
    rw [h7]
    generalize x.toNat % 2^(n+1) = low at *
    generalize (2:Nat)^(n+1) = P at *
    push_cast
    omega
  · rw [if_neg h, if_neg (fun k => h (hb.2 k))]

end Sys2Proof.Machine
end

