-- ==== Sys2Proof/Laws/Memory.lean ====
section
/-! SUPPORT. Memory: reading after writing, and that every memory operation keeps the canonical form (log 1). -/

namespace Sys2Proof.Machine

/-- Every address of a list is above a bound. -/
def Above (a : Nat) (m : List Host.Cell) : Prop := ∀ c ∈ m, a < c.1

theorem wf_cons (a : Nat) (b : Byte) (m : List Host.Cell) :
    Memory.wf ((a, b) :: m) = true ↔ b ≠ blank ∧ Above a m ∧ Memory.wf m = true := by
  induction m generalizing a b with
  | nil => simp [Memory.wf, Above]
  | cons c m ih =>
    obtain ⟨a', b'⟩ := c
    constructor
    · intro h
      simp only [Memory.wf, Bool.and_eq_true, bne_iff_ne, decide_eq_true_eq] at h
      refine ⟨h.1.1, ?_, h.2⟩
      intro c hc
      rcases List.mem_cons.1 hc with rfl | hc
      · exact h.1.2
      · exact lt_trans h.1.2 (((ih a' b').1 h.2).2.1 c hc)
    · rintro ⟨h1, h2, h3⟩
      simp only [Memory.wf, Bool.and_eq_true, bne_iff_ne, decide_eq_true_eq]
      exact ⟨⟨h1, h2 (a', b') (by simp)⟩, h3⟩

theorem mem_insertByte {m : List Host.Cell} {i : Nat} {v : Byte} {c : Host.Cell} (h : c ∈ insertByte m i v) : c = (i, v) ∨ c ∈ m := by
  induction m with
  | nil => simp [insertByte] at h; simp [h]
  | cons e m ih =>
    obtain ⟨a, b⟩ := e
    unfold insertByte at h
    split at h
    · rcases List.mem_cons.1 h with h | h
      · simp [h]
      · rcases ih h with h | h <;> simp [h]
    · split at h <;> rcases List.mem_cons.1 h with h | h <;> simp [h]

theorem mem_dropByte {m : List Host.Cell} {i : Nat} {c : Host.Cell} (h : c ∈ dropByte m i) : c ∈ m := by
  induction m with
  | nil => simpa [dropByte] using h
  | cons e m ih =>
    obtain ⟨a, b⟩ := e
    unfold dropByte at h
    split at h
    · rcases List.mem_cons.1 h with h | h
      · simp [h]
      · simp [ih h]
    · split at h
      · simp [h]
      · exact h

theorem wf_insertByte {m : List Host.Cell} (h : Memory.wf m = true) (i : Nat) {v : Byte} (hv : v ≠ blank) :
    Memory.wf (insertByte m i v) = true := by
  induction m with
  | nil => simpa [insertByte, Memory.wf] using hv
  | cons e m ih =>
    obtain ⟨a, b⟩ := e
    obtain ⟨h1, h2, h3⟩ := (wf_cons a b m).1 h
    unfold insertByte
    split
    · rename_i hlt
      refine (wf_cons _ _ _).2 ⟨h1, ?_, ih h3⟩
      intro c hc
      rcases mem_insertByte hc with rfl | hc
      · exact hlt
      · exact h2 c hc
    · split
      · rename_i hge heq
        subst heq
        exact (wf_cons _ _ _).2 ⟨hv, h2, h3⟩
      · rename_i hge hne
        refine (wf_cons _ _ _).2 ⟨hv, ?_, h⟩
        intro c hc
        rcases List.mem_cons.1 hc with rfl | hc
        · show i < a; omega
        · have := h2 c hc; show i < c.1; omega

theorem wf_dropByte {m : List Host.Cell} (h : Memory.wf m = true) (i : Nat) : Memory.wf (dropByte m i) = true := by
  induction m with
  | nil => rfl
  | cons e m ih =>
    obtain ⟨a, b⟩ := e
    obtain ⟨h1, h2, h3⟩ := (wf_cons a b m).1 h
    unfold dropByte
    split
    · exact (wf_cons _ _ _).2 ⟨h1, fun c hc => h2 c (mem_dropByte hc), ih h3⟩
    · split
      · exact h3
      · exact h

theorem wf_writeByte {m : List Host.Cell} (h : Memory.wf m = true) (i : Nat) (v : Byte) : Memory.wf (writeByte m i v) = true := by
  unfold writeByte
  split
  · exact wf_dropByte h i
  · rename_i hv; exact wf_insertByte h i hv

@[simp] theorem wf_writeBytes {m : List Host.Cell} (h : Memory.wf m = true) (a : Nat) (bs : List Byte) :
    Memory.wf (writeBytes m a bs) = true := by
  induction bs generalizing m a with
  | nil => simpa [writeBytes] using h
  | cons b bs ih => exact ih (wf_writeByte h a b) (a + 1)

@[simp] theorem wf_writeLe {m : List Host.Cell} (h : Memory.wf m = true) (a n v : Nat) : Memory.wf (writeLe m a n v) = true :=
  wf_writeBytes h a _

@[simp] theorem wf_filter {m : List Host.Cell} (h : Memory.wf m = true) (f : Host.Cell → Bool) : Memory.wf (m.filter f) = true := by
  induction m with
  | nil => rfl
  | cons e m ih =>
    obtain ⟨a, b⟩ := e
    obtain ⟨h1, h2, h3⟩ := (wf_cons a b m).1 h
    by_cases hf : f (a, b) = true
    · rw [List.filter_cons_of_pos hf]
      exact (wf_cons _ _ _).2 ⟨h1, fun c hc => h2 c (List.mem_of_mem_filter hc), ih h3⟩
    · rw [List.filter_cons_of_neg hf]; exact ih h3

/-! ### Reading after writing -/

theorem readByte_below {m : List Host.Cell} {i : Nat} (h : Above i m) : readByte m i = blank := by
  cases m with
  | nil => rfl
  | cons e m =>
    obtain ⟨a, b⟩ := e
    have : i < a := h (a, b) (by simp)
    simp [readByte, Nat.not_lt.2 (Nat.le_of_lt this), Nat.ne_of_gt this]

theorem readByte_insert (m : List Host.Cell) (i j : Nat) (v : Byte) :
    readByte (insertByte m i v) j = if j = i then v else readByte m j := by
  induction m with
  | nil =>
    simp only [insertByte, readByte]
    grind
  | cons e m ih =>
    obtain ⟨a, b⟩ := e
    unfold insertByte
    split
    · simp only [readByte, ih]; grind
    · split
      · simp only [readByte]; grind
      · simp only [readByte]; grind

theorem readByte_drop {m : List Host.Cell} (h : Memory.wf m = true) (i j : Nat) :
    readByte (dropByte m i) j = if j = i then blank else readByte m j := by
  induction m with
  | nil => simp [dropByte, readByte]
  | cons e m ih =>
    obtain ⟨a, b⟩ := e
    obtain ⟨h1, h2, h3⟩ := (wf_cons a b m).1 h
    unfold dropByte
    split
    · simp only [readByte, ih h3]; grind
    · split
      · rename_i hge heq
        subst heq
        by_cases hj : j = a
        · subst hj; simp [readByte_below h2]
        · simp only [readByte, hj, if_false]
          by_cases hlt : a < j
          · simp [hlt]
          · have : Above j m := fun c hc => by have := h2 c hc; omega
            simp [hlt, readByte_below this, Ne.symm hj]
      · simp only [readByte]; grind

/-- One byte read after one byte is written. -/
theorem readByte_writeByte {m : List Host.Cell} (h : Memory.wf m = true) (i j : Nat) (v : Byte) :
    readByte (writeByte m i v) j = if j = i then v else readByte m j := by
  unfold writeByte
  split
  · rename_i hv; subst hv; exact readByte_drop h i j
  · exact readByte_insert m i j v

/-- One byte read after bytes are written: one of them, or the byte that was there. -/
theorem readByte_writeBytes {m : List Host.Cell} (h : Memory.wf m = true) (a j : Nat) (bs : List Byte) :
    readByte (writeBytes m a bs) j = if a ≤ j ∧ j < a + bs.length then bs.getD (j - a) 0 else readByte m j := by
  induction bs generalizing m a with
  | nil => simp only [writeBytes, List.length_nil]; grind
  | cons b bs ih =>
    simp only [writeBytes, ih (wf_writeByte h a b), readByte_writeByte h, List.length_cons]
    by_cases h1 : j = a
    · subst h1; simp
    · by_cases h2 : a + 1 ≤ j ∧ j < a + 1 + bs.length
      · have : j - a = (j - (a + 1)) + 1 := by omega
        simp only [h2, this]; grind
      · grind

end Sys2Proof.Machine
end

