-- ==== Sys2Proof/Laws/Operands.lean ====
section
/-! SUPPORT. What the shared operations of issue answer when the sources are there and the destinations free. -/

namespace Sys2Proof.Machine

@[simp] theorem PortHead.value_elem (v : Word) : (PortHead.elem v).value = v := rfl

theorem onCur_next {s : State} {k : Nat} {p : Proc} (h : s.Issues k p) (f : Nat → Proc → State) : onCur s f = .next (f k p) := by
  simp [onCur, h.1, h.2]

theorem heads_of_gives (s : State) (p : Proc) : ∀ (fs : List Field) (vals : List Word), s.Gives p fs vals →
    (∀ q : PortHead → Bool, (∀ v, q (.elem v) = false) → fs.find? (fun f => q (s.source p f.reg)) = none) ∧
    fs.map (fun f => (s.source p f.reg).value) = vals := by
  intro fs
  induction fs with
  | nil => intro vals h; cases vals <;> simp_all [State.Gives]
  | cons f fs ih =>
    intro vals h
    cases vals with
    | nil => simp [State.Gives] at h
    | cons v vals =>
      simp only [State.Gives, List.map_cons, List.cons.injEq] at h
      have := ih vals h.2
      constructor
      · intro q hq
        simp [List.find?, h.1, hq, this.1 q hq]
      · simp [h.1, this.2]

theorem readFields_ok {s : State} {p : Proc} {fs : List Field} {vals : List Word} {dsts : List Reg}
    (hg : s.Gives p fs vals) (ht : s.Takes p dsts) : s.readFields p fs dsts = .ok vals (consumeMask p fs) := by
  have H := heads_of_gives s p fs vals hg
  have h1 : ((dsts.map (s.sink p)) ++ ((fs.map (fun f => (f, s.source p f.reg))).map Prod.snd)).find? PortHead.traps = none := by
    rw [List.find?_eq_none]
    intro x hx
    rw [List.mem_append] at hx
    rcases hx with hx | hx
    · obtain ⟨d, hd, rfl⟩ := List.mem_map.1 hx
      rw [ht d hd]; simp [PortHead.traps]
    · have := H.1 PortHead.traps (by simp [PortHead.traps])
      simp only [List.map_map, List.mem_map, Function.comp] at hx
      obtain ⟨f, hf, rfl⟩ := hx
      exact (List.find?_eq_none.1 this) f hf
  have h0 : ((dsts.map (s.sink p)) ++ ((fs.map (fun f => (f, s.source p f.reg))).map Prod.snd)).any (fun h => h == .illegal) = false := by
    rw [List.any_eq_false]
    intro x hx
    rw [List.mem_append] at hx
    rcases hx with hx | hx
    · obtain ⟨d, hd, rfl⟩ := List.mem_map.1 hx
      rw [ht d hd]; decide
    · have := H.1 (fun h => h == .illegal) (by intro v; rfl)
      simp only [List.map_map, List.mem_map, Function.comp] at hx
      obtain ⟨f, hf, rfl⟩ := hx
      exact (List.find?_eq_none.1 this) f hf
  have h2 : ∀ q : PortHead → Bool, (∀ v, q (.elem v) = false) → ∀ f ∈ fs, ¬ q (s.source p f.reg) = true := by
    intro q hq; exact List.find?_eq_none.1 (H.1 q hq)
  have h3 : (fs.map (fun f => (f, s.source p f.reg))).find? (fun h => h.1.t && h.2 == .empty) = none := by
    rw [List.find?_eq_none]
    intro x hx
    obtain ⟨f, hf, rfl⟩ := List.mem_map.1 hx
    have := h2 (fun y => y == .empty) (by intro v; rfl) f hf
    simp at this; simp [this]
  have h4 : (fs.map (fun f => (f, s.source p f.reg))).find? (fun h => h.2 == .empty) = none := by
    rw [List.find?_eq_none]
    intro x hx
    obtain ⟨f, hf, rfl⟩ := List.mem_map.1 hx
    have := h2 (fun y => y == .empty) (by intro v; rfl) f hf
    simp at this; simp [this]
  unfold State.readFields
  simp only [h0, h1, h3, h4, Bool.false_eq_true, if_false]
  have := H.2
  simp only [List.map_map, Function.comp_def, this]

theorem issue_ok {s : State} {k : Nat} {p : Proc} {fs : List Field} {vals : List Word} {dsts : List Reg}
    (hg : s.Gives p fs vals) (ht : s.Takes p dsts) (go : List Word → BitVec 16 → State) :
    s.issue k p fs dsts go = go vals (consumeMask p fs) := by
  have : s.cannotWrite p dsts = none := by
    unfold State.cannotWrite
    rw [List.find?_eq_none]
    intro d hd
    rw [ht d hd]; simp
  simp [State.issue, readFields_ok hg ht, this]
end Sys2Proof.Machine
end

