-- ==== Sys2Proof/Laws/Table.lean ====
section
/-! SUPPORT. Lookup after a change of a table. -/

namespace Sys2Proof.Machine

@[simp] theorem tget_tput_self {α : Type} (t : Tab α) (i : Nat) (v : α) : tget (tput t i v) i = some v := by
  induction t with
  | nil => simp [tput, tget]
  | cons e t ih =>
    obtain ⟨k, w⟩ := e
    by_cases h : k < i
    · simp [tput, tget, h, Nat.ne_of_lt h, ih]
    · by_cases h' : k = i <;> simp [tput, tget, h, h']

theorem tget_tput_ne {α : Type} (t : Tab α) {i j : Nat} (v : α) (h : j ≠ i) : tget (tput t i v) j = tget t j := by
  induction t with
  | nil => simp [tput, tget, h.symm]
  | cons e t ih =>
    obtain ⟨k, w⟩ := e
    by_cases h1 : k < i
    · simp [tput, tget, h1, ih]
    · by_cases h2 : k = i
      · subst h2; simp [tput, tget, h.symm]
      · simp [tput, tget, h1, h2, h.symm]

theorem tget_tput {α : Type} (t : Tab α) (i j : Nat) (v : α) : tget (tput t i v) j = if j = i then some v else tget t j := by
  by_cases h : j = i
  · subst h; simp
  · simp [h, tget_tput_ne t v h]

@[simp] theorem tgetD_tput_self {α : Type} (t : Tab α) (i : Nat) (v d : α) : tgetD (tput t i v) i d = v := by simp [tgetD]

theorem tgetD_tput_ne {α : Type} (t : Tab α) {i j : Nat} (v d : α) (h : j ≠ i) : tgetD (tput t i v) j d = tgetD t j d := by
  simp [tgetD, tget_tput_ne t v h]

theorem tget_tdel_ne {α : Type} (t : Tab α) {i j : Nat} (h : j ≠ i) : tget (tdel t i) j = tget t j := by
  induction t with
  | nil => rfl
  | cons e t ih =>
    obtain ⟨k, w⟩ := e
    simp only [tdel] at ih
    by_cases h1 : k = i
    · subst h1; simp [tdel, tget, h.symm, ih]
    · simp [tdel, tget, h1, ih]

@[simp] theorem tget_tdel_self {α : Type} (t : Tab α) (i : Nat) : tget (tdel t i) i = none := by
  induction t with
  | nil => rfl
  | cons e t ih =>
    obtain ⟨k, w⟩ := e
    simp only [tdel] at ih
    by_cases h1 : k = i
    · subst h1; simp [tdel, ih]
    · simp [tdel, tget, h1, ih]

theorem leastFree_not_mem {used : List Nat} {lo n r : Nat} (h : leastFree used lo n = some r) : r ∉ used ∧ lo ≤ r := by
  induction n generalizing lo with
  | zero => simp [leastFree] at h
  | succ n ih =>
    unfold leastFree at h
    split at h
    · obtain ⟨h1, h2⟩ := ih h
      exact ⟨h1, by omega⟩
    · simp_all

end Sys2Proof.Machine
end

