-- ==== Sys2Proof/Laws/State.lean ====
section
/-! SUPPORT. What each update of the state leaves as it is, field by field, and what it changes. -/

namespace Sys2Proof.Machine

@[simp] theorem State.putProc_cycle (s : State) (k : Nat) (p : Proc) : (s.putProc k p).cycle = s.cycle := rfl
@[simp] theorem State.putProc_agenda (s : State) (k : Nat) (p : Proc) : (s.putProc k p).agenda = s.agenda := rfl
@[simp] theorem State.putProc_turns (s : State) (k : Nat) (p : Proc) : (s.putProc k p).turns = s.turns := rfl
@[simp] theorem State.putProc_cur (s : State) (k : Nat) (p : Proc) : (s.putProc k p).cur = s.cur := rfl
@[simp] theorem State.putProc_group (s : State) (k : Nat) (p : Proc) : (s.putProc k p).group = s.group := rfl
@[simp] theorem State.putProc_free (s : State) (k : Nat) (p : Proc) : (s.putProc k p).free = s.free := rfl
@[simp] theorem State.putProc_mem (s : State) (k : Nat) (p : Proc) : (s.putProc k p).mem = s.mem := rfl
@[simp] theorem State.putProc_ftags (s : State) (k : Nat) (p : Proc) : (s.putProc k p).ftags = s.ftags := rfl
@[simp] theorem State.putProc_poison (s : State) (k : Nat) (p : Proc) : (s.putProc k p).poison = s.poison := rfl
@[simp] theorem State.putProc_packages (s : State) (k : Nat) (p : Proc) : (s.putProc k p).packages = s.packages := rfl
@[simp] theorem State.putProc_dir (s : State) (k : Nat) (p : Proc) : (s.putProc k p).dir = s.dir := rfl
@[simp] theorem State.putProc_gens (s : State) (k : Nat) (p : Proc) : (s.putProc k p).gens = s.gens := rfl
@[simp] theorem State.putProc_cores (s : State) (k : Nat) (p : Proc) : (s.putProc k p).cores = s.cores := rfl
@[simp] theorem State.putProc_slots (s : State) (k : Nat) (p : Proc) : (s.putProc k p).slots = s.slots := rfl
@[simp] theorem State.putProc_folds (s : State) (k : Nat) (p : Proc) : (s.putProc k p).folds = s.folds := rfl
@[simp] theorem State.putProc_ltab (s : State) (k : Nat) (p : Proc) : (s.putProc k p).ltab = s.ltab := rfl
@[simp] theorem State.putProc_launches (s : State) (k : Nat) (p : Proc) : (s.putProc k p).launches = s.launches := rfl
@[simp] theorem State.putProc_nextLaunch (s : State) (k : Nat) (p : Proc) : (s.putProc k p).nextLaunch = s.nextLaunch := rfl
@[simp] theorem State.putProc_groups (s : State) (k : Nat) (p : Proc) : (s.putProc k p).groups = s.groups := rfl
@[simp] theorem State.putProc_supq (s : State) (k : Nat) (p : Proc) : (s.putProc k p).supq = s.supq := rfl
@[simp] theorem State.putProc_heldNotes (s : State) (k : Nat) (p : Proc) : (s.putProc k p).heldNotes = s.heldNotes := rfl
@[simp] theorem State.putProc_xwrs (s : State) (k : Nat) (p : Proc) : (s.putProc k p).xwrs = s.xwrs := rfl
@[simp] theorem State.putProc_onceDue (s : State) (k : Nat) (p : Proc) : (s.putProc k p).onceDue = s.onceDue := rfl
@[simp] theorem State.putProc_links (s : State) (k : Nat) (p : Proc) : (s.putProc k p).links = s.links := rfl
@[simp] theorem State.putProc_frames (s : State) (k : Nat) (p : Proc) : (s.putProc k p).frames = s.frames := rfl
@[simp] theorem State.putProc_quiet (s : State) (k : Nat) (p : Proc) : (s.putProc k p).quiet = s.quiet := rfl
@[simp] theorem State.putProc_eps (s : State) (k : Nat) (p : Proc) : (s.putProc k p).eps = s.eps := rfl
@[simp] theorem State.putProc_drovers (s : State) (k : Nat) (p : Proc) : (s.putProc k p).drovers = s.drovers := rfl
@[simp] theorem State.putProc_disps (s : State) (k : Nat) (p : Proc) : (s.putProc k p).disps = s.disps := rfl
@[simp] theorem State.putProc_tiles (s : State) (k : Nat) (p : Proc) : (s.putProc k p).tiles = s.tiles := rfl
@[simp] theorem State.putProc_landings (s : State) (k : Nat) (p : Proc) : (s.putProc k p).landings = s.landings := rfl
@[simp] theorem State.putProc_permxs (s : State) (k : Nat) (p : Proc) : (s.putProc k p).permxs = s.permxs := rfl
@[simp] theorem State.putProc_nextPermx (s : State) (k : Nat) (p : Proc) : (s.putProc k p).nextPermx = s.nextPermx := rfl
@[simp] theorem State.putProc_bundles (s : State) (k : Nat) (p : Proc) : (s.putProc k p).bundles = s.bundles := rfl
@[simp] theorem State.putProc_pendLines (s : State) (k : Nat) (p : Proc) : (s.putProc k p).pendLines = s.pendLines := rfl
@[simp] theorem State.putProc_prevLines (s : State) (k : Nat) (p : Proc) : (s.putProc k p).prevLines = s.prevLines := rfl
@[simp] theorem State.putProc_shadows (s : State) (k : Nat) (p : Proc) : (s.putProc k p).shadows = s.shadows := rfl
@[simp] theorem State.putProc_seqSent (s : State) (k : Nat) (p : Proc) : (s.putProc k p).seqSent = s.seqSent := rfl
@[simp] theorem State.putProc_seqHeld (s : State) (k : Nat) (p : Proc) : (s.putProc k p).seqHeld = s.seqHeld := rfl
@[simp] theorem State.putProc_flying (s : State) (k : Nat) (p : Proc) : (s.putProc k p).flying = s.flying := rfl
@[simp] theorem State.putProc_pkgs (s : State) (k : Nat) (p : Proc) : (s.putProc k p).pkgs = s.pkgs := rfl

@[simp] theorem State.putCore_cycle (s : State) (c : Nat) (x : CoreS) : (s.putCore c x).cycle = s.cycle := rfl
@[simp] theorem State.putCore_agenda (s : State) (c : Nat) (x : CoreS) : (s.putCore c x).agenda = s.agenda := rfl
@[simp] theorem State.putCore_turns (s : State) (c : Nat) (x : CoreS) : (s.putCore c x).turns = s.turns := rfl
@[simp] theorem State.putCore_cur (s : State) (c : Nat) (x : CoreS) : (s.putCore c x).cur = s.cur := rfl
@[simp] theorem State.putCore_group (s : State) (c : Nat) (x : CoreS) : (s.putCore c x).group = s.group := rfl
@[simp] theorem State.putCore_free (s : State) (c : Nat) (x : CoreS) : (s.putCore c x).free = s.free := rfl
@[simp] theorem State.putCore_mem (s : State) (c : Nat) (x : CoreS) : (s.putCore c x).mem = s.mem := rfl
@[simp] theorem State.putCore_ftags (s : State) (c : Nat) (x : CoreS) : (s.putCore c x).ftags = s.ftags := rfl
@[simp] theorem State.putCore_poison (s : State) (c : Nat) (x : CoreS) : (s.putCore c x).poison = s.poison := rfl
@[simp] theorem State.putCore_packages (s : State) (c : Nat) (x : CoreS) : (s.putCore c x).packages = s.packages := rfl
@[simp] theorem State.putCore_procs (s : State) (c : Nat) (x : CoreS) : (s.putCore c x).procs = s.procs := rfl
@[simp] theorem State.putCore_dir (s : State) (c : Nat) (x : CoreS) : (s.putCore c x).dir = s.dir := rfl
@[simp] theorem State.putCore_gens (s : State) (c : Nat) (x : CoreS) : (s.putCore c x).gens = s.gens := rfl
@[simp] theorem State.putCore_slots (s : State) (c : Nat) (x : CoreS) : (s.putCore c x).slots = s.slots := rfl
@[simp] theorem State.putCore_folds (s : State) (c : Nat) (x : CoreS) : (s.putCore c x).folds = s.folds := rfl
@[simp] theorem State.putCore_ltab (s : State) (c : Nat) (x : CoreS) : (s.putCore c x).ltab = s.ltab := rfl
@[simp] theorem State.putCore_launches (s : State) (c : Nat) (x : CoreS) : (s.putCore c x).launches = s.launches := rfl
@[simp] theorem State.putCore_nextLaunch (s : State) (c : Nat) (x : CoreS) : (s.putCore c x).nextLaunch = s.nextLaunch := rfl
@[simp] theorem State.putCore_groups (s : State) (c : Nat) (x : CoreS) : (s.putCore c x).groups = s.groups := rfl
@[simp] theorem State.putCore_supq (s : State) (c : Nat) (x : CoreS) : (s.putCore c x).supq = s.supq := rfl
@[simp] theorem State.putCore_heldNotes (s : State) (c : Nat) (x : CoreS) : (s.putCore c x).heldNotes = s.heldNotes := rfl
@[simp] theorem State.putCore_xwrs (s : State) (c : Nat) (x : CoreS) : (s.putCore c x).xwrs = s.xwrs := rfl
@[simp] theorem State.putCore_onceDue (s : State) (c : Nat) (x : CoreS) : (s.putCore c x).onceDue = s.onceDue := rfl
@[simp] theorem State.putCore_links (s : State) (c : Nat) (x : CoreS) : (s.putCore c x).links = s.links := rfl
@[simp] theorem State.putCore_frames (s : State) (c : Nat) (x : CoreS) : (s.putCore c x).frames = s.frames := rfl
@[simp] theorem State.putCore_quiet (s : State) (c : Nat) (x : CoreS) : (s.putCore c x).quiet = s.quiet := rfl
@[simp] theorem State.putCore_eps (s : State) (c : Nat) (x : CoreS) : (s.putCore c x).eps = s.eps := rfl
@[simp] theorem State.putCore_drovers (s : State) (c : Nat) (x : CoreS) : (s.putCore c x).drovers = s.drovers := rfl
@[simp] theorem State.putCore_disps (s : State) (c : Nat) (x : CoreS) : (s.putCore c x).disps = s.disps := rfl
@[simp] theorem State.putCore_tiles (s : State) (c : Nat) (x : CoreS) : (s.putCore c x).tiles = s.tiles := rfl
@[simp] theorem State.putCore_landings (s : State) (c : Nat) (x : CoreS) : (s.putCore c x).landings = s.landings := rfl
@[simp] theorem State.putCore_permxs (s : State) (c : Nat) (x : CoreS) : (s.putCore c x).permxs = s.permxs := rfl
@[simp] theorem State.putCore_nextPermx (s : State) (c : Nat) (x : CoreS) : (s.putCore c x).nextPermx = s.nextPermx := rfl
@[simp] theorem State.putCore_bundles (s : State) (c : Nat) (x : CoreS) : (s.putCore c x).bundles = s.bundles := rfl
@[simp] theorem State.putCore_pendLines (s : State) (c : Nat) (x : CoreS) : (s.putCore c x).pendLines = s.pendLines := rfl
@[simp] theorem State.putCore_prevLines (s : State) (c : Nat) (x : CoreS) : (s.putCore c x).prevLines = s.prevLines := rfl
@[simp] theorem State.putCore_shadows (s : State) (c : Nat) (x : CoreS) : (s.putCore c x).shadows = s.shadows := rfl
@[simp] theorem State.putCore_seqSent (s : State) (c : Nat) (x : CoreS) : (s.putCore c x).seqSent = s.seqSent := rfl
@[simp] theorem State.putCore_seqHeld (s : State) (c : Nat) (x : CoreS) : (s.putCore c x).seqHeld = s.seqHeld := rfl
@[simp] theorem State.putCore_flying (s : State) (c : Nat) (x : CoreS) : (s.putCore c x).flying = s.flying := rfl
@[simp] theorem State.putCore_pkgs (s : State) (c : Nat) (x : CoreS) : (s.putCore c x).pkgs = s.pkgs := rfl

@[simp] theorem State.modCore_cycle (s : State) (c : Nat) (f : CoreS → CoreS) : (s.modCore c f).cycle = s.cycle := rfl
@[simp] theorem State.modCore_agenda (s : State) (c : Nat) (f : CoreS → CoreS) : (s.modCore c f).agenda = s.agenda := rfl
@[simp] theorem State.modCore_turns (s : State) (c : Nat) (f : CoreS → CoreS) : (s.modCore c f).turns = s.turns := rfl
@[simp] theorem State.modCore_cur (s : State) (c : Nat) (f : CoreS → CoreS) : (s.modCore c f).cur = s.cur := rfl
@[simp] theorem State.modCore_group (s : State) (c : Nat) (f : CoreS → CoreS) : (s.modCore c f).group = s.group := rfl
@[simp] theorem State.modCore_free (s : State) (c : Nat) (f : CoreS → CoreS) : (s.modCore c f).free = s.free := rfl
@[simp] theorem State.modCore_mem (s : State) (c : Nat) (f : CoreS → CoreS) : (s.modCore c f).mem = s.mem := rfl
@[simp] theorem State.modCore_ftags (s : State) (c : Nat) (f : CoreS → CoreS) : (s.modCore c f).ftags = s.ftags := rfl
@[simp] theorem State.modCore_poison (s : State) (c : Nat) (f : CoreS → CoreS) : (s.modCore c f).poison = s.poison := rfl
@[simp] theorem State.modCore_packages (s : State) (c : Nat) (f : CoreS → CoreS) : (s.modCore c f).packages = s.packages := rfl
@[simp] theorem State.modCore_procs (s : State) (c : Nat) (f : CoreS → CoreS) : (s.modCore c f).procs = s.procs := rfl
@[simp] theorem State.modCore_dir (s : State) (c : Nat) (f : CoreS → CoreS) : (s.modCore c f).dir = s.dir := rfl
@[simp] theorem State.modCore_gens (s : State) (c : Nat) (f : CoreS → CoreS) : (s.modCore c f).gens = s.gens := rfl
@[simp] theorem State.modCore_slots (s : State) (c : Nat) (f : CoreS → CoreS) : (s.modCore c f).slots = s.slots := rfl
@[simp] theorem State.modCore_folds (s : State) (c : Nat) (f : CoreS → CoreS) : (s.modCore c f).folds = s.folds := rfl
@[simp] theorem State.modCore_ltab (s : State) (c : Nat) (f : CoreS → CoreS) : (s.modCore c f).ltab = s.ltab := rfl
@[simp] theorem State.modCore_launches (s : State) (c : Nat) (f : CoreS → CoreS) : (s.modCore c f).launches = s.launches := rfl
@[simp] theorem State.modCore_nextLaunch (s : State) (c : Nat) (f : CoreS → CoreS) : (s.modCore c f).nextLaunch = s.nextLaunch := rfl
@[simp] theorem State.modCore_groups (s : State) (c : Nat) (f : CoreS → CoreS) : (s.modCore c f).groups = s.groups := rfl
@[simp] theorem State.modCore_supq (s : State) (c : Nat) (f : CoreS → CoreS) : (s.modCore c f).supq = s.supq := rfl
@[simp] theorem State.modCore_heldNotes (s : State) (c : Nat) (f : CoreS → CoreS) : (s.modCore c f).heldNotes = s.heldNotes := rfl
@[simp] theorem State.modCore_xwrs (s : State) (c : Nat) (f : CoreS → CoreS) : (s.modCore c f).xwrs = s.xwrs := rfl
@[simp] theorem State.modCore_onceDue (s : State) (c : Nat) (f : CoreS → CoreS) : (s.modCore c f).onceDue = s.onceDue := rfl
@[simp] theorem State.modCore_links (s : State) (c : Nat) (f : CoreS → CoreS) : (s.modCore c f).links = s.links := rfl
@[simp] theorem State.modCore_frames (s : State) (c : Nat) (f : CoreS → CoreS) : (s.modCore c f).frames = s.frames := rfl
@[simp] theorem State.modCore_quiet (s : State) (c : Nat) (f : CoreS → CoreS) : (s.modCore c f).quiet = s.quiet := rfl
@[simp] theorem State.modCore_eps (s : State) (c : Nat) (f : CoreS → CoreS) : (s.modCore c f).eps = s.eps := rfl
@[simp] theorem State.modCore_drovers (s : State) (c : Nat) (f : CoreS → CoreS) : (s.modCore c f).drovers = s.drovers := rfl
@[simp] theorem State.modCore_disps (s : State) (c : Nat) (f : CoreS → CoreS) : (s.modCore c f).disps = s.disps := rfl
@[simp] theorem State.modCore_tiles (s : State) (c : Nat) (f : CoreS → CoreS) : (s.modCore c f).tiles = s.tiles := rfl
@[simp] theorem State.modCore_landings (s : State) (c : Nat) (f : CoreS → CoreS) : (s.modCore c f).landings = s.landings := rfl
@[simp] theorem State.modCore_permxs (s : State) (c : Nat) (f : CoreS → CoreS) : (s.modCore c f).permxs = s.permxs := rfl
@[simp] theorem State.modCore_nextPermx (s : State) (c : Nat) (f : CoreS → CoreS) : (s.modCore c f).nextPermx = s.nextPermx := rfl
@[simp] theorem State.modCore_bundles (s : State) (c : Nat) (f : CoreS → CoreS) : (s.modCore c f).bundles = s.bundles := rfl
@[simp] theorem State.modCore_pendLines (s : State) (c : Nat) (f : CoreS → CoreS) : (s.modCore c f).pendLines = s.pendLines := rfl
@[simp] theorem State.modCore_prevLines (s : State) (c : Nat) (f : CoreS → CoreS) : (s.modCore c f).prevLines = s.prevLines := rfl
@[simp] theorem State.modCore_shadows (s : State) (c : Nat) (f : CoreS → CoreS) : (s.modCore c f).shadows = s.shadows := rfl
@[simp] theorem State.modCore_seqSent (s : State) (c : Nat) (f : CoreS → CoreS) : (s.modCore c f).seqSent = s.seqSent := rfl
@[simp] theorem State.modCore_seqHeld (s : State) (c : Nat) (f : CoreS → CoreS) : (s.modCore c f).seqHeld = s.seqHeld := rfl
@[simp] theorem State.modCore_flying (s : State) (c : Nat) (f : CoreS → CoreS) : (s.modCore c f).flying = s.flying := rfl
@[simp] theorem State.modCore_pkgs (s : State) (c : Nat) (f : CoreS → CoreS) : (s.modCore c f).pkgs = s.pkgs := rfl

@[simp] theorem State.putSlot_cycle (s : State) (i : Nat) (x : SlotS) : (s.putSlot i x).cycle = s.cycle := rfl
@[simp] theorem State.putSlot_agenda (s : State) (i : Nat) (x : SlotS) : (s.putSlot i x).agenda = s.agenda := rfl
@[simp] theorem State.putSlot_turns (s : State) (i : Nat) (x : SlotS) : (s.putSlot i x).turns = s.turns := rfl
@[simp] theorem State.putSlot_cur (s : State) (i : Nat) (x : SlotS) : (s.putSlot i x).cur = s.cur := rfl
@[simp] theorem State.putSlot_group (s : State) (i : Nat) (x : SlotS) : (s.putSlot i x).group = s.group := rfl
@[simp] theorem State.putSlot_free (s : State) (i : Nat) (x : SlotS) : (s.putSlot i x).free = s.free := rfl
@[simp] theorem State.putSlot_mem (s : State) (i : Nat) (x : SlotS) : (s.putSlot i x).mem = s.mem := rfl
@[simp] theorem State.putSlot_ftags (s : State) (i : Nat) (x : SlotS) : (s.putSlot i x).ftags = s.ftags := rfl
@[simp] theorem State.putSlot_poison (s : State) (i : Nat) (x : SlotS) : (s.putSlot i x).poison = s.poison := rfl
@[simp] theorem State.putSlot_packages (s : State) (i : Nat) (x : SlotS) : (s.putSlot i x).packages = s.packages := rfl
@[simp] theorem State.putSlot_procs (s : State) (i : Nat) (x : SlotS) : (s.putSlot i x).procs = s.procs := rfl
@[simp] theorem State.putSlot_dir (s : State) (i : Nat) (x : SlotS) : (s.putSlot i x).dir = s.dir := rfl
@[simp] theorem State.putSlot_gens (s : State) (i : Nat) (x : SlotS) : (s.putSlot i x).gens = s.gens := rfl
@[simp] theorem State.putSlot_cores (s : State) (i : Nat) (x : SlotS) : (s.putSlot i x).cores = s.cores := rfl
@[simp] theorem State.putSlot_folds (s : State) (i : Nat) (x : SlotS) : (s.putSlot i x).folds = s.folds := rfl
@[simp] theorem State.putSlot_ltab (s : State) (i : Nat) (x : SlotS) : (s.putSlot i x).ltab = s.ltab := rfl
@[simp] theorem State.putSlot_launches (s : State) (i : Nat) (x : SlotS) : (s.putSlot i x).launches = s.launches := rfl
@[simp] theorem State.putSlot_nextLaunch (s : State) (i : Nat) (x : SlotS) : (s.putSlot i x).nextLaunch = s.nextLaunch := rfl
@[simp] theorem State.putSlot_groups (s : State) (i : Nat) (x : SlotS) : (s.putSlot i x).groups = s.groups := rfl
@[simp] theorem State.putSlot_supq (s : State) (i : Nat) (x : SlotS) : (s.putSlot i x).supq = s.supq := rfl
@[simp] theorem State.putSlot_heldNotes (s : State) (i : Nat) (x : SlotS) : (s.putSlot i x).heldNotes = s.heldNotes := rfl
@[simp] theorem State.putSlot_xwrs (s : State) (i : Nat) (x : SlotS) : (s.putSlot i x).xwrs = s.xwrs := rfl
@[simp] theorem State.putSlot_onceDue (s : State) (i : Nat) (x : SlotS) : (s.putSlot i x).onceDue = s.onceDue := rfl
@[simp] theorem State.putSlot_links (s : State) (i : Nat) (x : SlotS) : (s.putSlot i x).links = s.links := rfl
@[simp] theorem State.putSlot_frames (s : State) (i : Nat) (x : SlotS) : (s.putSlot i x).frames = s.frames := rfl
@[simp] theorem State.putSlot_quiet (s : State) (i : Nat) (x : SlotS) : (s.putSlot i x).quiet = s.quiet := rfl
@[simp] theorem State.putSlot_eps (s : State) (i : Nat) (x : SlotS) : (s.putSlot i x).eps = s.eps := rfl
@[simp] theorem State.putSlot_drovers (s : State) (i : Nat) (x : SlotS) : (s.putSlot i x).drovers = s.drovers := rfl
@[simp] theorem State.putSlot_disps (s : State) (i : Nat) (x : SlotS) : (s.putSlot i x).disps = s.disps := rfl
@[simp] theorem State.putSlot_tiles (s : State) (i : Nat) (x : SlotS) : (s.putSlot i x).tiles = s.tiles := rfl
@[simp] theorem State.putSlot_landings (s : State) (i : Nat) (x : SlotS) : (s.putSlot i x).landings = s.landings := rfl
@[simp] theorem State.putSlot_permxs (s : State) (i : Nat) (x : SlotS) : (s.putSlot i x).permxs = s.permxs := rfl
@[simp] theorem State.putSlot_nextPermx (s : State) (i : Nat) (x : SlotS) : (s.putSlot i x).nextPermx = s.nextPermx := rfl
@[simp] theorem State.putSlot_bundles (s : State) (i : Nat) (x : SlotS) : (s.putSlot i x).bundles = s.bundles := rfl
@[simp] theorem State.putSlot_pendLines (s : State) (i : Nat) (x : SlotS) : (s.putSlot i x).pendLines = s.pendLines := rfl
@[simp] theorem State.putSlot_prevLines (s : State) (i : Nat) (x : SlotS) : (s.putSlot i x).prevLines = s.prevLines := rfl
@[simp] theorem State.putSlot_shadows (s : State) (i : Nat) (x : SlotS) : (s.putSlot i x).shadows = s.shadows := rfl
@[simp] theorem State.putSlot_seqSent (s : State) (i : Nat) (x : SlotS) : (s.putSlot i x).seqSent = s.seqSent := rfl
@[simp] theorem State.putSlot_seqHeld (s : State) (i : Nat) (x : SlotS) : (s.putSlot i x).seqHeld = s.seqHeld := rfl
@[simp] theorem State.putSlot_flying (s : State) (i : Nat) (x : SlotS) : (s.putSlot i x).flying = s.flying := rfl
@[simp] theorem State.putSlot_pkgs (s : State) (i : Nat) (x : SlotS) : (s.putSlot i x).pkgs = s.pkgs := rfl

@[simp] theorem State.modSlot_cycle (s : State) (i : Nat) (f : SlotS → SlotS) : (s.modSlot i f).cycle = s.cycle := rfl
@[simp] theorem State.modSlot_agenda (s : State) (i : Nat) (f : SlotS → SlotS) : (s.modSlot i f).agenda = s.agenda := rfl
@[simp] theorem State.modSlot_turns (s : State) (i : Nat) (f : SlotS → SlotS) : (s.modSlot i f).turns = s.turns := rfl
@[simp] theorem State.modSlot_cur (s : State) (i : Nat) (f : SlotS → SlotS) : (s.modSlot i f).cur = s.cur := rfl
@[simp] theorem State.modSlot_group (s : State) (i : Nat) (f : SlotS → SlotS) : (s.modSlot i f).group = s.group := rfl
@[simp] theorem State.modSlot_free (s : State) (i : Nat) (f : SlotS → SlotS) : (s.modSlot i f).free = s.free := rfl
@[simp] theorem State.modSlot_mem (s : State) (i : Nat) (f : SlotS → SlotS) : (s.modSlot i f).mem = s.mem := rfl
@[simp] theorem State.modSlot_ftags (s : State) (i : Nat) (f : SlotS → SlotS) : (s.modSlot i f).ftags = s.ftags := rfl
@[simp] theorem State.modSlot_poison (s : State) (i : Nat) (f : SlotS → SlotS) : (s.modSlot i f).poison = s.poison := rfl
@[simp] theorem State.modSlot_packages (s : State) (i : Nat) (f : SlotS → SlotS) : (s.modSlot i f).packages = s.packages := rfl
@[simp] theorem State.modSlot_procs (s : State) (i : Nat) (f : SlotS → SlotS) : (s.modSlot i f).procs = s.procs := rfl
@[simp] theorem State.modSlot_dir (s : State) (i : Nat) (f : SlotS → SlotS) : (s.modSlot i f).dir = s.dir := rfl
@[simp] theorem State.modSlot_gens (s : State) (i : Nat) (f : SlotS → SlotS) : (s.modSlot i f).gens = s.gens := rfl
@[simp] theorem State.modSlot_cores (s : State) (i : Nat) (f : SlotS → SlotS) : (s.modSlot i f).cores = s.cores := rfl
@[simp] theorem State.modSlot_folds (s : State) (i : Nat) (f : SlotS → SlotS) : (s.modSlot i f).folds = s.folds := rfl
@[simp] theorem State.modSlot_ltab (s : State) (i : Nat) (f : SlotS → SlotS) : (s.modSlot i f).ltab = s.ltab := rfl
@[simp] theorem State.modSlot_launches (s : State) (i : Nat) (f : SlotS → SlotS) : (s.modSlot i f).launches = s.launches := rfl
@[simp] theorem State.modSlot_nextLaunch (s : State) (i : Nat) (f : SlotS → SlotS) : (s.modSlot i f).nextLaunch = s.nextLaunch := rfl
@[simp] theorem State.modSlot_groups (s : State) (i : Nat) (f : SlotS → SlotS) : (s.modSlot i f).groups = s.groups := rfl
@[simp] theorem State.modSlot_supq (s : State) (i : Nat) (f : SlotS → SlotS) : (s.modSlot i f).supq = s.supq := rfl
@[simp] theorem State.modSlot_heldNotes (s : State) (i : Nat) (f : SlotS → SlotS) : (s.modSlot i f).heldNotes = s.heldNotes := rfl
@[simp] theorem State.modSlot_xwrs (s : State) (i : Nat) (f : SlotS → SlotS) : (s.modSlot i f).xwrs = s.xwrs := rfl
@[simp] theorem State.modSlot_onceDue (s : State) (i : Nat) (f : SlotS → SlotS) : (s.modSlot i f).onceDue = s.onceDue := rfl
@[simp] theorem State.modSlot_links (s : State) (i : Nat) (f : SlotS → SlotS) : (s.modSlot i f).links = s.links := rfl
@[simp] theorem State.modSlot_frames (s : State) (i : Nat) (f : SlotS → SlotS) : (s.modSlot i f).frames = s.frames := rfl
@[simp] theorem State.modSlot_quiet (s : State) (i : Nat) (f : SlotS → SlotS) : (s.modSlot i f).quiet = s.quiet := rfl
@[simp] theorem State.modSlot_eps (s : State) (i : Nat) (f : SlotS → SlotS) : (s.modSlot i f).eps = s.eps := rfl
@[simp] theorem State.modSlot_drovers (s : State) (i : Nat) (f : SlotS → SlotS) : (s.modSlot i f).drovers = s.drovers := rfl
@[simp] theorem State.modSlot_disps (s : State) (i : Nat) (f : SlotS → SlotS) : (s.modSlot i f).disps = s.disps := rfl
@[simp] theorem State.modSlot_tiles (s : State) (i : Nat) (f : SlotS → SlotS) : (s.modSlot i f).tiles = s.tiles := rfl
@[simp] theorem State.modSlot_landings (s : State) (i : Nat) (f : SlotS → SlotS) : (s.modSlot i f).landings = s.landings := rfl
@[simp] theorem State.modSlot_permxs (s : State) (i : Nat) (f : SlotS → SlotS) : (s.modSlot i f).permxs = s.permxs := rfl
@[simp] theorem State.modSlot_nextPermx (s : State) (i : Nat) (f : SlotS → SlotS) : (s.modSlot i f).nextPermx = s.nextPermx := rfl
@[simp] theorem State.modSlot_bundles (s : State) (i : Nat) (f : SlotS → SlotS) : (s.modSlot i f).bundles = s.bundles := rfl
@[simp] theorem State.modSlot_pendLines (s : State) (i : Nat) (f : SlotS → SlotS) : (s.modSlot i f).pendLines = s.pendLines := rfl
@[simp] theorem State.modSlot_prevLines (s : State) (i : Nat) (f : SlotS → SlotS) : (s.modSlot i f).prevLines = s.prevLines := rfl
@[simp] theorem State.modSlot_shadows (s : State) (i : Nat) (f : SlotS → SlotS) : (s.modSlot i f).shadows = s.shadows := rfl
@[simp] theorem State.modSlot_seqSent (s : State) (i : Nat) (f : SlotS → SlotS) : (s.modSlot i f).seqSent = s.seqSent := rfl
@[simp] theorem State.modSlot_seqHeld (s : State) (i : Nat) (f : SlotS → SlotS) : (s.modSlot i f).seqHeld = s.seqHeld := rfl
@[simp] theorem State.modSlot_flying (s : State) (i : Nat) (f : SlotS → SlotS) : (s.modSlot i f).flying = s.flying := rfl
@[simp] theorem State.modSlot_pkgs (s : State) (i : Nat) (f : SlotS → SlotS) : (s.modSlot i f).pkgs = s.pkgs := rfl

@[simp] theorem State.putFold_cycle (s : State) (n : Nat) (x : FoldS) : (s.putFold n x).cycle = s.cycle := rfl
@[simp] theorem State.putFold_agenda (s : State) (n : Nat) (x : FoldS) : (s.putFold n x).agenda = s.agenda := rfl
@[simp] theorem State.putFold_turns (s : State) (n : Nat) (x : FoldS) : (s.putFold n x).turns = s.turns := rfl
@[simp] theorem State.putFold_cur (s : State) (n : Nat) (x : FoldS) : (s.putFold n x).cur = s.cur := rfl
@[simp] theorem State.putFold_group (s : State) (n : Nat) (x : FoldS) : (s.putFold n x).group = s.group := rfl
@[simp] theorem State.putFold_free (s : State) (n : Nat) (x : FoldS) : (s.putFold n x).free = s.free := rfl
@[simp] theorem State.putFold_mem (s : State) (n : Nat) (x : FoldS) : (s.putFold n x).mem = s.mem := rfl
@[simp] theorem State.putFold_ftags (s : State) (n : Nat) (x : FoldS) : (s.putFold n x).ftags = s.ftags := rfl
@[simp] theorem State.putFold_poison (s : State) (n : Nat) (x : FoldS) : (s.putFold n x).poison = s.poison := rfl
@[simp] theorem State.putFold_packages (s : State) (n : Nat) (x : FoldS) : (s.putFold n x).packages = s.packages := rfl
@[simp] theorem State.putFold_procs (s : State) (n : Nat) (x : FoldS) : (s.putFold n x).procs = s.procs := rfl
@[simp] theorem State.putFold_dir (s : State) (n : Nat) (x : FoldS) : (s.putFold n x).dir = s.dir := rfl
@[simp] theorem State.putFold_gens (s : State) (n : Nat) (x : FoldS) : (s.putFold n x).gens = s.gens := rfl
@[simp] theorem State.putFold_cores (s : State) (n : Nat) (x : FoldS) : (s.putFold n x).cores = s.cores := rfl
@[simp] theorem State.putFold_slots (s : State) (n : Nat) (x : FoldS) : (s.putFold n x).slots = s.slots := rfl
@[simp] theorem State.putFold_ltab (s : State) (n : Nat) (x : FoldS) : (s.putFold n x).ltab = s.ltab := rfl
@[simp] theorem State.putFold_launches (s : State) (n : Nat) (x : FoldS) : (s.putFold n x).launches = s.launches := rfl
@[simp] theorem State.putFold_nextLaunch (s : State) (n : Nat) (x : FoldS) : (s.putFold n x).nextLaunch = s.nextLaunch := rfl
@[simp] theorem State.putFold_groups (s : State) (n : Nat) (x : FoldS) : (s.putFold n x).groups = s.groups := rfl
@[simp] theorem State.putFold_supq (s : State) (n : Nat) (x : FoldS) : (s.putFold n x).supq = s.supq := rfl
@[simp] theorem State.putFold_heldNotes (s : State) (n : Nat) (x : FoldS) : (s.putFold n x).heldNotes = s.heldNotes := rfl
@[simp] theorem State.putFold_xwrs (s : State) (n : Nat) (x : FoldS) : (s.putFold n x).xwrs = s.xwrs := rfl
@[simp] theorem State.putFold_onceDue (s : State) (n : Nat) (x : FoldS) : (s.putFold n x).onceDue = s.onceDue := rfl
@[simp] theorem State.putFold_links (s : State) (n : Nat) (x : FoldS) : (s.putFold n x).links = s.links := rfl
@[simp] theorem State.putFold_frames (s : State) (n : Nat) (x : FoldS) : (s.putFold n x).frames = s.frames := rfl
@[simp] theorem State.putFold_quiet (s : State) (n : Nat) (x : FoldS) : (s.putFold n x).quiet = s.quiet := rfl
@[simp] theorem State.putFold_eps (s : State) (n : Nat) (x : FoldS) : (s.putFold n x).eps = s.eps := rfl
@[simp] theorem State.putFold_drovers (s : State) (n : Nat) (x : FoldS) : (s.putFold n x).drovers = s.drovers := rfl
@[simp] theorem State.putFold_disps (s : State) (n : Nat) (x : FoldS) : (s.putFold n x).disps = s.disps := rfl
@[simp] theorem State.putFold_tiles (s : State) (n : Nat) (x : FoldS) : (s.putFold n x).tiles = s.tiles := rfl
@[simp] theorem State.putFold_landings (s : State) (n : Nat) (x : FoldS) : (s.putFold n x).landings = s.landings := rfl
@[simp] theorem State.putFold_permxs (s : State) (n : Nat) (x : FoldS) : (s.putFold n x).permxs = s.permxs := rfl
@[simp] theorem State.putFold_nextPermx (s : State) (n : Nat) (x : FoldS) : (s.putFold n x).nextPermx = s.nextPermx := rfl
@[simp] theorem State.putFold_bundles (s : State) (n : Nat) (x : FoldS) : (s.putFold n x).bundles = s.bundles := rfl
@[simp] theorem State.putFold_pendLines (s : State) (n : Nat) (x : FoldS) : (s.putFold n x).pendLines = s.pendLines := rfl
@[simp] theorem State.putFold_prevLines (s : State) (n : Nat) (x : FoldS) : (s.putFold n x).prevLines = s.prevLines := rfl
@[simp] theorem State.putFold_shadows (s : State) (n : Nat) (x : FoldS) : (s.putFold n x).shadows = s.shadows := rfl
@[simp] theorem State.putFold_seqSent (s : State) (n : Nat) (x : FoldS) : (s.putFold n x).seqSent = s.seqSent := rfl
@[simp] theorem State.putFold_seqHeld (s : State) (n : Nat) (x : FoldS) : (s.putFold n x).seqHeld = s.seqHeld := rfl
@[simp] theorem State.putFold_flying (s : State) (n : Nat) (x : FoldS) : (s.putFold n x).flying = s.flying := rfl
@[simp] theorem State.putFold_pkgs (s : State) (n : Nat) (x : FoldS) : (s.putFold n x).pkgs = s.pkgs := rfl

@[simp] theorem State.modFold_cycle (s : State) (n : Nat) (g : FoldS → FoldS) : (s.modFold n g).cycle = s.cycle := rfl
@[simp] theorem State.modFold_agenda (s : State) (n : Nat) (g : FoldS → FoldS) : (s.modFold n g).agenda = s.agenda := rfl
@[simp] theorem State.modFold_turns (s : State) (n : Nat) (g : FoldS → FoldS) : (s.modFold n g).turns = s.turns := rfl
@[simp] theorem State.modFold_cur (s : State) (n : Nat) (g : FoldS → FoldS) : (s.modFold n g).cur = s.cur := rfl
@[simp] theorem State.modFold_group (s : State) (n : Nat) (g : FoldS → FoldS) : (s.modFold n g).group = s.group := rfl
@[simp] theorem State.modFold_free (s : State) (n : Nat) (g : FoldS → FoldS) : (s.modFold n g).free = s.free := rfl
@[simp] theorem State.modFold_mem (s : State) (n : Nat) (g : FoldS → FoldS) : (s.modFold n g).mem = s.mem := rfl
@[simp] theorem State.modFold_ftags (s : State) (n : Nat) (g : FoldS → FoldS) : (s.modFold n g).ftags = s.ftags := rfl
@[simp] theorem State.modFold_poison (s : State) (n : Nat) (g : FoldS → FoldS) : (s.modFold n g).poison = s.poison := rfl
@[simp] theorem State.modFold_packages (s : State) (n : Nat) (g : FoldS → FoldS) : (s.modFold n g).packages = s.packages := rfl
@[simp] theorem State.modFold_procs (s : State) (n : Nat) (g : FoldS → FoldS) : (s.modFold n g).procs = s.procs := rfl
@[simp] theorem State.modFold_dir (s : State) (n : Nat) (g : FoldS → FoldS) : (s.modFold n g).dir = s.dir := rfl
@[simp] theorem State.modFold_gens (s : State) (n : Nat) (g : FoldS → FoldS) : (s.modFold n g).gens = s.gens := rfl
@[simp] theorem State.modFold_cores (s : State) (n : Nat) (g : FoldS → FoldS) : (s.modFold n g).cores = s.cores := rfl
@[simp] theorem State.modFold_slots (s : State) (n : Nat) (g : FoldS → FoldS) : (s.modFold n g).slots = s.slots := rfl
@[simp] theorem State.modFold_ltab (s : State) (n : Nat) (g : FoldS → FoldS) : (s.modFold n g).ltab = s.ltab := rfl
@[simp] theorem State.modFold_launches (s : State) (n : Nat) (g : FoldS → FoldS) : (s.modFold n g).launches = s.launches := rfl
@[simp] theorem State.modFold_nextLaunch (s : State) (n : Nat) (g : FoldS → FoldS) : (s.modFold n g).nextLaunch = s.nextLaunch := rfl
@[simp] theorem State.modFold_groups (s : State) (n : Nat) (g : FoldS → FoldS) : (s.modFold n g).groups = s.groups := rfl
@[simp] theorem State.modFold_supq (s : State) (n : Nat) (g : FoldS → FoldS) : (s.modFold n g).supq = s.supq := rfl
@[simp] theorem State.modFold_heldNotes (s : State) (n : Nat) (g : FoldS → FoldS) : (s.modFold n g).heldNotes = s.heldNotes := rfl
@[simp] theorem State.modFold_xwrs (s : State) (n : Nat) (g : FoldS → FoldS) : (s.modFold n g).xwrs = s.xwrs := rfl
@[simp] theorem State.modFold_onceDue (s : State) (n : Nat) (g : FoldS → FoldS) : (s.modFold n g).onceDue = s.onceDue := rfl
@[simp] theorem State.modFold_links (s : State) (n : Nat) (g : FoldS → FoldS) : (s.modFold n g).links = s.links := rfl
@[simp] theorem State.modFold_frames (s : State) (n : Nat) (g : FoldS → FoldS) : (s.modFold n g).frames = s.frames := rfl
@[simp] theorem State.modFold_quiet (s : State) (n : Nat) (g : FoldS → FoldS) : (s.modFold n g).quiet = s.quiet := rfl
@[simp] theorem State.modFold_eps (s : State) (n : Nat) (g : FoldS → FoldS) : (s.modFold n g).eps = s.eps := rfl
@[simp] theorem State.modFold_drovers (s : State) (n : Nat) (g : FoldS → FoldS) : (s.modFold n g).drovers = s.drovers := rfl
@[simp] theorem State.modFold_disps (s : State) (n : Nat) (g : FoldS → FoldS) : (s.modFold n g).disps = s.disps := rfl
@[simp] theorem State.modFold_tiles (s : State) (n : Nat) (g : FoldS → FoldS) : (s.modFold n g).tiles = s.tiles := rfl
@[simp] theorem State.modFold_landings (s : State) (n : Nat) (g : FoldS → FoldS) : (s.modFold n g).landings = s.landings := rfl
@[simp] theorem State.modFold_permxs (s : State) (n : Nat) (g : FoldS → FoldS) : (s.modFold n g).permxs = s.permxs := rfl
@[simp] theorem State.modFold_nextPermx (s : State) (n : Nat) (g : FoldS → FoldS) : (s.modFold n g).nextPermx = s.nextPermx := rfl
@[simp] theorem State.modFold_bundles (s : State) (n : Nat) (g : FoldS → FoldS) : (s.modFold n g).bundles = s.bundles := rfl
@[simp] theorem State.modFold_pendLines (s : State) (n : Nat) (g : FoldS → FoldS) : (s.modFold n g).pendLines = s.pendLines := rfl
@[simp] theorem State.modFold_prevLines (s : State) (n : Nat) (g : FoldS → FoldS) : (s.modFold n g).prevLines = s.prevLines := rfl
@[simp] theorem State.modFold_shadows (s : State) (n : Nat) (g : FoldS → FoldS) : (s.modFold n g).shadows = s.shadows := rfl
@[simp] theorem State.modFold_seqSent (s : State) (n : Nat) (g : FoldS → FoldS) : (s.modFold n g).seqSent = s.seqSent := rfl
@[simp] theorem State.modFold_seqHeld (s : State) (n : Nat) (g : FoldS → FoldS) : (s.modFold n g).seqHeld = s.seqHeld := rfl
@[simp] theorem State.modFold_flying (s : State) (n : Nat) (g : FoldS → FoldS) : (s.modFold n g).flying = s.flying := rfl
@[simp] theorem State.modFold_pkgs (s : State) (n : Nat) (g : FoldS → FoldS) : (s.modFold n g).pkgs = s.pkgs := rfl

@[simp] theorem State.putGroup_cycle (s : State) (g : Nat) (x : Group) : (s.putGroup g x).cycle = s.cycle := rfl
@[simp] theorem State.putGroup_agenda (s : State) (g : Nat) (x : Group) : (s.putGroup g x).agenda = s.agenda := rfl
@[simp] theorem State.putGroup_turns (s : State) (g : Nat) (x : Group) : (s.putGroup g x).turns = s.turns := rfl
@[simp] theorem State.putGroup_cur (s : State) (g : Nat) (x : Group) : (s.putGroup g x).cur = s.cur := rfl
@[simp] theorem State.putGroup_group (s : State) (g : Nat) (x : Group) : (s.putGroup g x).group = s.group := rfl
@[simp] theorem State.putGroup_free (s : State) (g : Nat) (x : Group) : (s.putGroup g x).free = s.free := rfl
@[simp] theorem State.putGroup_mem (s : State) (g : Nat) (x : Group) : (s.putGroup g x).mem = s.mem := rfl
@[simp] theorem State.putGroup_ftags (s : State) (g : Nat) (x : Group) : (s.putGroup g x).ftags = s.ftags := rfl
@[simp] theorem State.putGroup_poison (s : State) (g : Nat) (x : Group) : (s.putGroup g x).poison = s.poison := rfl
@[simp] theorem State.putGroup_packages (s : State) (g : Nat) (x : Group) : (s.putGroup g x).packages = s.packages := rfl
@[simp] theorem State.putGroup_procs (s : State) (g : Nat) (x : Group) : (s.putGroup g x).procs = s.procs := rfl
@[simp] theorem State.putGroup_dir (s : State) (g : Nat) (x : Group) : (s.putGroup g x).dir = s.dir := rfl
@[simp] theorem State.putGroup_gens (s : State) (g : Nat) (x : Group) : (s.putGroup g x).gens = s.gens := rfl
@[simp] theorem State.putGroup_cores (s : State) (g : Nat) (x : Group) : (s.putGroup g x).cores = s.cores := rfl
@[simp] theorem State.putGroup_slots (s : State) (g : Nat) (x : Group) : (s.putGroup g x).slots = s.slots := rfl
@[simp] theorem State.putGroup_folds (s : State) (g : Nat) (x : Group) : (s.putGroup g x).folds = s.folds := rfl
@[simp] theorem State.putGroup_ltab (s : State) (g : Nat) (x : Group) : (s.putGroup g x).ltab = s.ltab := rfl
@[simp] theorem State.putGroup_launches (s : State) (g : Nat) (x : Group) : (s.putGroup g x).launches = s.launches := rfl
@[simp] theorem State.putGroup_nextLaunch (s : State) (g : Nat) (x : Group) : (s.putGroup g x).nextLaunch = s.nextLaunch := rfl
@[simp] theorem State.putGroup_supq (s : State) (g : Nat) (x : Group) : (s.putGroup g x).supq = s.supq := rfl
@[simp] theorem State.putGroup_heldNotes (s : State) (g : Nat) (x : Group) : (s.putGroup g x).heldNotes = s.heldNotes := rfl
@[simp] theorem State.putGroup_xwrs (s : State) (g : Nat) (x : Group) : (s.putGroup g x).xwrs = s.xwrs := rfl
@[simp] theorem State.putGroup_onceDue (s : State) (g : Nat) (x : Group) : (s.putGroup g x).onceDue = s.onceDue := rfl
@[simp] theorem State.putGroup_links (s : State) (g : Nat) (x : Group) : (s.putGroup g x).links = s.links := rfl
@[simp] theorem State.putGroup_frames (s : State) (g : Nat) (x : Group) : (s.putGroup g x).frames = s.frames := rfl
@[simp] theorem State.putGroup_quiet (s : State) (g : Nat) (x : Group) : (s.putGroup g x).quiet = s.quiet := rfl
@[simp] theorem State.putGroup_eps (s : State) (g : Nat) (x : Group) : (s.putGroup g x).eps = s.eps := rfl
@[simp] theorem State.putGroup_drovers (s : State) (g : Nat) (x : Group) : (s.putGroup g x).drovers = s.drovers := rfl
@[simp] theorem State.putGroup_disps (s : State) (g : Nat) (x : Group) : (s.putGroup g x).disps = s.disps := rfl
@[simp] theorem State.putGroup_tiles (s : State) (g : Nat) (x : Group) : (s.putGroup g x).tiles = s.tiles := rfl
@[simp] theorem State.putGroup_landings (s : State) (g : Nat) (x : Group) : (s.putGroup g x).landings = s.landings := rfl
@[simp] theorem State.putGroup_permxs (s : State) (g : Nat) (x : Group) : (s.putGroup g x).permxs = s.permxs := rfl
@[simp] theorem State.putGroup_nextPermx (s : State) (g : Nat) (x : Group) : (s.putGroup g x).nextPermx = s.nextPermx := rfl
@[simp] theorem State.putGroup_bundles (s : State) (g : Nat) (x : Group) : (s.putGroup g x).bundles = s.bundles := rfl
@[simp] theorem State.putGroup_pendLines (s : State) (g : Nat) (x : Group) : (s.putGroup g x).pendLines = s.pendLines := rfl
@[simp] theorem State.putGroup_prevLines (s : State) (g : Nat) (x : Group) : (s.putGroup g x).prevLines = s.prevLines := rfl
@[simp] theorem State.putGroup_shadows (s : State) (g : Nat) (x : Group) : (s.putGroup g x).shadows = s.shadows := rfl
@[simp] theorem State.putGroup_seqSent (s : State) (g : Nat) (x : Group) : (s.putGroup g x).seqSent = s.seqSent := rfl
@[simp] theorem State.putGroup_seqHeld (s : State) (g : Nat) (x : Group) : (s.putGroup g x).seqHeld = s.seqHeld := rfl
@[simp] theorem State.putGroup_flying (s : State) (g : Nat) (x : Group) : (s.putGroup g x).flying = s.flying := rfl
@[simp] theorem State.putGroup_pkgs (s : State) (g : Nat) (x : Group) : (s.putGroup g x).pkgs = s.pkgs := rfl

@[simp] theorem State.after_cycle (s : State) (n : Nat) (e : Ev) : (s.after n e).cycle = s.cycle := rfl
@[simp] theorem State.after_turns (s : State) (n : Nat) (e : Ev) : (s.after n e).turns = s.turns := rfl
@[simp] theorem State.after_cur (s : State) (n : Nat) (e : Ev) : (s.after n e).cur = s.cur := rfl
@[simp] theorem State.after_group (s : State) (n : Nat) (e : Ev) : (s.after n e).group = s.group := rfl
@[simp] theorem State.after_free (s : State) (n : Nat) (e : Ev) : (s.after n e).free = s.free := rfl
@[simp] theorem State.after_mem (s : State) (n : Nat) (e : Ev) : (s.after n e).mem = s.mem := rfl
@[simp] theorem State.after_ftags (s : State) (n : Nat) (e : Ev) : (s.after n e).ftags = s.ftags := rfl
@[simp] theorem State.after_poison (s : State) (n : Nat) (e : Ev) : (s.after n e).poison = s.poison := rfl
@[simp] theorem State.after_packages (s : State) (n : Nat) (e : Ev) : (s.after n e).packages = s.packages := rfl
@[simp] theorem State.after_procs (s : State) (n : Nat) (e : Ev) : (s.after n e).procs = s.procs := rfl
@[simp] theorem State.after_dir (s : State) (n : Nat) (e : Ev) : (s.after n e).dir = s.dir := rfl
@[simp] theorem State.after_gens (s : State) (n : Nat) (e : Ev) : (s.after n e).gens = s.gens := rfl
@[simp] theorem State.after_cores (s : State) (n : Nat) (e : Ev) : (s.after n e).cores = s.cores := rfl
@[simp] theorem State.after_slots (s : State) (n : Nat) (e : Ev) : (s.after n e).slots = s.slots := rfl
@[simp] theorem State.after_folds (s : State) (n : Nat) (e : Ev) : (s.after n e).folds = s.folds := rfl
@[simp] theorem State.after_ltab (s : State) (n : Nat) (e : Ev) : (s.after n e).ltab = s.ltab := rfl
@[simp] theorem State.after_launches (s : State) (n : Nat) (e : Ev) : (s.after n e).launches = s.launches := rfl
@[simp] theorem State.after_nextLaunch (s : State) (n : Nat) (e : Ev) : (s.after n e).nextLaunch = s.nextLaunch := rfl
@[simp] theorem State.after_groups (s : State) (n : Nat) (e : Ev) : (s.after n e).groups = s.groups := rfl
@[simp] theorem State.after_supq (s : State) (n : Nat) (e : Ev) : (s.after n e).supq = s.supq := rfl
@[simp] theorem State.after_heldNotes (s : State) (n : Nat) (e : Ev) : (s.after n e).heldNotes = s.heldNotes := rfl
@[simp] theorem State.after_xwrs (s : State) (n : Nat) (e : Ev) : (s.after n e).xwrs = s.xwrs := rfl
@[simp] theorem State.after_onceDue (s : State) (n : Nat) (e : Ev) : (s.after n e).onceDue = s.onceDue := rfl
@[simp] theorem State.after_links (s : State) (n : Nat) (e : Ev) : (s.after n e).links = s.links := rfl
@[simp] theorem State.after_frames (s : State) (n : Nat) (e : Ev) : (s.after n e).frames = s.frames := rfl
@[simp] theorem State.after_quiet (s : State) (n : Nat) (e : Ev) : (s.after n e).quiet = s.quiet := rfl
@[simp] theorem State.after_eps (s : State) (n : Nat) (e : Ev) : (s.after n e).eps = s.eps := rfl
@[simp] theorem State.after_drovers (s : State) (n : Nat) (e : Ev) : (s.after n e).drovers = s.drovers := rfl
@[simp] theorem State.after_disps (s : State) (n : Nat) (e : Ev) : (s.after n e).disps = s.disps := rfl
@[simp] theorem State.after_tiles (s : State) (n : Nat) (e : Ev) : (s.after n e).tiles = s.tiles := rfl
@[simp] theorem State.after_landings (s : State) (n : Nat) (e : Ev) : (s.after n e).landings = s.landings := rfl
@[simp] theorem State.after_permxs (s : State) (n : Nat) (e : Ev) : (s.after n e).permxs = s.permxs := rfl
@[simp] theorem State.after_nextPermx (s : State) (n : Nat) (e : Ev) : (s.after n e).nextPermx = s.nextPermx := rfl
@[simp] theorem State.after_bundles (s : State) (n : Nat) (e : Ev) : (s.after n e).bundles = s.bundles := rfl
@[simp] theorem State.after_pendLines (s : State) (n : Nat) (e : Ev) : (s.after n e).pendLines = s.pendLines := rfl
@[simp] theorem State.after_prevLines (s : State) (n : Nat) (e : Ev) : (s.after n e).prevLines = s.prevLines := rfl
@[simp] theorem State.after_shadows (s : State) (n : Nat) (e : Ev) : (s.after n e).shadows = s.shadows := rfl
@[simp] theorem State.after_seqSent (s : State) (n : Nat) (e : Ev) : (s.after n e).seqSent = s.seqSent := rfl
@[simp] theorem State.after_seqHeld (s : State) (n : Nat) (e : Ev) : (s.after n e).seqHeld = s.seqHeld := rfl
@[simp] theorem State.after_flying (s : State) (n : Nat) (e : Ev) : (s.after n e).flying = s.flying := rfl
@[simp] theorem State.after_pkgs (s : State) (n : Nat) (e : Ev) : (s.after n e).pkgs = s.pkgs := rfl

@[simp] theorem State.atCycle_cycle (s : State) (c : Nat) (e : Ev) : (s.atCycle c e).cycle = s.cycle := rfl
@[simp] theorem State.atCycle_turns (s : State) (c : Nat) (e : Ev) : (s.atCycle c e).turns = s.turns := rfl
@[simp] theorem State.atCycle_cur (s : State) (c : Nat) (e : Ev) : (s.atCycle c e).cur = s.cur := rfl
@[simp] theorem State.atCycle_group (s : State) (c : Nat) (e : Ev) : (s.atCycle c e).group = s.group := rfl
@[simp] theorem State.atCycle_free (s : State) (c : Nat) (e : Ev) : (s.atCycle c e).free = s.free := rfl
@[simp] theorem State.atCycle_mem (s : State) (c : Nat) (e : Ev) : (s.atCycle c e).mem = s.mem := rfl
@[simp] theorem State.atCycle_ftags (s : State) (c : Nat) (e : Ev) : (s.atCycle c e).ftags = s.ftags := rfl
@[simp] theorem State.atCycle_poison (s : State) (c : Nat) (e : Ev) : (s.atCycle c e).poison = s.poison := rfl
@[simp] theorem State.atCycle_packages (s : State) (c : Nat) (e : Ev) : (s.atCycle c e).packages = s.packages := rfl
@[simp] theorem State.atCycle_procs (s : State) (c : Nat) (e : Ev) : (s.atCycle c e).procs = s.procs := rfl
@[simp] theorem State.atCycle_dir (s : State) (c : Nat) (e : Ev) : (s.atCycle c e).dir = s.dir := rfl
@[simp] theorem State.atCycle_gens (s : State) (c : Nat) (e : Ev) : (s.atCycle c e).gens = s.gens := rfl
@[simp] theorem State.atCycle_cores (s : State) (c : Nat) (e : Ev) : (s.atCycle c e).cores = s.cores := rfl
@[simp] theorem State.atCycle_slots (s : State) (c : Nat) (e : Ev) : (s.atCycle c e).slots = s.slots := rfl
@[simp] theorem State.atCycle_folds (s : State) (c : Nat) (e : Ev) : (s.atCycle c e).folds = s.folds := rfl
@[simp] theorem State.atCycle_ltab (s : State) (c : Nat) (e : Ev) : (s.atCycle c e).ltab = s.ltab := rfl
@[simp] theorem State.atCycle_launches (s : State) (c : Nat) (e : Ev) : (s.atCycle c e).launches = s.launches := rfl
@[simp] theorem State.atCycle_nextLaunch (s : State) (c : Nat) (e : Ev) : (s.atCycle c e).nextLaunch = s.nextLaunch := rfl
@[simp] theorem State.atCycle_groups (s : State) (c : Nat) (e : Ev) : (s.atCycle c e).groups = s.groups := rfl
@[simp] theorem State.atCycle_supq (s : State) (c : Nat) (e : Ev) : (s.atCycle c e).supq = s.supq := rfl
@[simp] theorem State.atCycle_heldNotes (s : State) (c : Nat) (e : Ev) : (s.atCycle c e).heldNotes = s.heldNotes := rfl
@[simp] theorem State.atCycle_xwrs (s : State) (c : Nat) (e : Ev) : (s.atCycle c e).xwrs = s.xwrs := rfl
@[simp] theorem State.atCycle_onceDue (s : State) (c : Nat) (e : Ev) : (s.atCycle c e).onceDue = s.onceDue := rfl
@[simp] theorem State.atCycle_links (s : State) (c : Nat) (e : Ev) : (s.atCycle c e).links = s.links := rfl
@[simp] theorem State.atCycle_frames (s : State) (c : Nat) (e : Ev) : (s.atCycle c e).frames = s.frames := rfl
@[simp] theorem State.atCycle_quiet (s : State) (c : Nat) (e : Ev) : (s.atCycle c e).quiet = s.quiet := rfl
@[simp] theorem State.atCycle_eps (s : State) (c : Nat) (e : Ev) : (s.atCycle c e).eps = s.eps := rfl
@[simp] theorem State.atCycle_drovers (s : State) (c : Nat) (e : Ev) : (s.atCycle c e).drovers = s.drovers := rfl
@[simp] theorem State.atCycle_disps (s : State) (c : Nat) (e : Ev) : (s.atCycle c e).disps = s.disps := rfl
@[simp] theorem State.atCycle_tiles (s : State) (c : Nat) (e : Ev) : (s.atCycle c e).tiles = s.tiles := rfl
@[simp] theorem State.atCycle_landings (s : State) (c : Nat) (e : Ev) : (s.atCycle c e).landings = s.landings := rfl
@[simp] theorem State.atCycle_permxs (s : State) (c : Nat) (e : Ev) : (s.atCycle c e).permxs = s.permxs := rfl
@[simp] theorem State.atCycle_nextPermx (s : State) (c : Nat) (e : Ev) : (s.atCycle c e).nextPermx = s.nextPermx := rfl
@[simp] theorem State.atCycle_bundles (s : State) (c : Nat) (e : Ev) : (s.atCycle c e).bundles = s.bundles := rfl
@[simp] theorem State.atCycle_pendLines (s : State) (c : Nat) (e : Ev) : (s.atCycle c e).pendLines = s.pendLines := rfl
@[simp] theorem State.atCycle_prevLines (s : State) (c : Nat) (e : Ev) : (s.atCycle c e).prevLines = s.prevLines := rfl
@[simp] theorem State.atCycle_shadows (s : State) (c : Nat) (e : Ev) : (s.atCycle c e).shadows = s.shadows := rfl
@[simp] theorem State.atCycle_seqSent (s : State) (c : Nat) (e : Ev) : (s.atCycle c e).seqSent = s.seqSent := rfl
@[simp] theorem State.atCycle_seqHeld (s : State) (c : Nat) (e : Ev) : (s.atCycle c e).seqHeld = s.seqHeld := rfl
@[simp] theorem State.atCycle_flying (s : State) (c : Nat) (e : Ev) : (s.atCycle c e).flying = s.flying := rfl
@[simp] theorem State.atCycle_pkgs (s : State) (c : Nat) (e : Ev) : (s.atCycle c e).pkgs = s.pkgs := rfl

@[simp] theorem State.useFree_cycle (s : State) : (s.useFree).cycle = s.cycle := rfl
@[simp] theorem State.useFree_agenda (s : State) : (s.useFree).agenda = s.agenda := rfl
@[simp] theorem State.useFree_turns (s : State) : (s.useFree).turns = s.turns := rfl
@[simp] theorem State.useFree_cur (s : State) : (s.useFree).cur = s.cur := rfl
@[simp] theorem State.useFree_group (s : State) : (s.useFree).group = s.group := rfl
@[simp] theorem State.useFree_mem (s : State) : (s.useFree).mem = s.mem := rfl
@[simp] theorem State.useFree_ftags (s : State) : (s.useFree).ftags = s.ftags := rfl
@[simp] theorem State.useFree_poison (s : State) : (s.useFree).poison = s.poison := rfl
@[simp] theorem State.useFree_packages (s : State) : (s.useFree).packages = s.packages := rfl
@[simp] theorem State.useFree_procs (s : State) : (s.useFree).procs = s.procs := rfl
@[simp] theorem State.useFree_dir (s : State) : (s.useFree).dir = s.dir := rfl
@[simp] theorem State.useFree_gens (s : State) : (s.useFree).gens = s.gens := rfl
@[simp] theorem State.useFree_cores (s : State) : (s.useFree).cores = s.cores := rfl
@[simp] theorem State.useFree_slots (s : State) : (s.useFree).slots = s.slots := rfl
@[simp] theorem State.useFree_folds (s : State) : (s.useFree).folds = s.folds := rfl
@[simp] theorem State.useFree_ltab (s : State) : (s.useFree).ltab = s.ltab := rfl
@[simp] theorem State.useFree_launches (s : State) : (s.useFree).launches = s.launches := rfl
@[simp] theorem State.useFree_nextLaunch (s : State) : (s.useFree).nextLaunch = s.nextLaunch := rfl
@[simp] theorem State.useFree_groups (s : State) : (s.useFree).groups = s.groups := rfl
@[simp] theorem State.useFree_supq (s : State) : (s.useFree).supq = s.supq := rfl
@[simp] theorem State.useFree_heldNotes (s : State) : (s.useFree).heldNotes = s.heldNotes := rfl
@[simp] theorem State.useFree_xwrs (s : State) : (s.useFree).xwrs = s.xwrs := rfl
@[simp] theorem State.useFree_onceDue (s : State) : (s.useFree).onceDue = s.onceDue := rfl
@[simp] theorem State.useFree_links (s : State) : (s.useFree).links = s.links := rfl
@[simp] theorem State.useFree_frames (s : State) : (s.useFree).frames = s.frames := rfl
@[simp] theorem State.useFree_quiet (s : State) : (s.useFree).quiet = s.quiet := rfl
@[simp] theorem State.useFree_eps (s : State) : (s.useFree).eps = s.eps := rfl
@[simp] theorem State.useFree_drovers (s : State) : (s.useFree).drovers = s.drovers := rfl
@[simp] theorem State.useFree_disps (s : State) : (s.useFree).disps = s.disps := rfl
@[simp] theorem State.useFree_tiles (s : State) : (s.useFree).tiles = s.tiles := rfl
@[simp] theorem State.useFree_landings (s : State) : (s.useFree).landings = s.landings := rfl
@[simp] theorem State.useFree_permxs (s : State) : (s.useFree).permxs = s.permxs := rfl
@[simp] theorem State.useFree_nextPermx (s : State) : (s.useFree).nextPermx = s.nextPermx := rfl
@[simp] theorem State.useFree_bundles (s : State) : (s.useFree).bundles = s.bundles := rfl
@[simp] theorem State.useFree_pendLines (s : State) : (s.useFree).pendLines = s.pendLines := rfl
@[simp] theorem State.useFree_prevLines (s : State) : (s.useFree).prevLines = s.prevLines := rfl
@[simp] theorem State.useFree_shadows (s : State) : (s.useFree).shadows = s.shadows := rfl
@[simp] theorem State.useFree_seqSent (s : State) : (s.useFree).seqSent = s.seqSent := rfl
@[simp] theorem State.useFree_seqHeld (s : State) : (s.useFree).seqHeld = s.seqHeld := rfl
@[simp] theorem State.useFree_flying (s : State) : (s.useFree).flying = s.flying := rfl
@[simp] theorem State.useFree_pkgs (s : State) : (s.useFree).pkgs = s.pkgs := rfl

@[simp] theorem State.putEp_cycle (s : State) (k : Nat) (e : Ep) : (s.putEp k e).cycle = s.cycle := rfl
@[simp] theorem State.putEp_agenda (s : State) (k : Nat) (e : Ep) : (s.putEp k e).agenda = s.agenda := rfl
@[simp] theorem State.putEp_turns (s : State) (k : Nat) (e : Ep) : (s.putEp k e).turns = s.turns := rfl
@[simp] theorem State.putEp_cur (s : State) (k : Nat) (e : Ep) : (s.putEp k e).cur = s.cur := rfl
@[simp] theorem State.putEp_group (s : State) (k : Nat) (e : Ep) : (s.putEp k e).group = s.group := rfl
@[simp] theorem State.putEp_free (s : State) (k : Nat) (e : Ep) : (s.putEp k e).free = s.free := rfl
@[simp] theorem State.putEp_mem (s : State) (k : Nat) (e : Ep) : (s.putEp k e).mem = s.mem := rfl
@[simp] theorem State.putEp_ftags (s : State) (k : Nat) (e : Ep) : (s.putEp k e).ftags = s.ftags := rfl
@[simp] theorem State.putEp_poison (s : State) (k : Nat) (e : Ep) : (s.putEp k e).poison = s.poison := rfl
@[simp] theorem State.putEp_packages (s : State) (k : Nat) (e : Ep) : (s.putEp k e).packages = s.packages := rfl
@[simp] theorem State.putEp_procs (s : State) (k : Nat) (e : Ep) : (s.putEp k e).procs = s.procs := rfl
@[simp] theorem State.putEp_dir (s : State) (k : Nat) (e : Ep) : (s.putEp k e).dir = s.dir := rfl
@[simp] theorem State.putEp_gens (s : State) (k : Nat) (e : Ep) : (s.putEp k e).gens = s.gens := rfl
@[simp] theorem State.putEp_cores (s : State) (k : Nat) (e : Ep) : (s.putEp k e).cores = s.cores := rfl
@[simp] theorem State.putEp_slots (s : State) (k : Nat) (e : Ep) : (s.putEp k e).slots = s.slots := rfl
@[simp] theorem State.putEp_folds (s : State) (k : Nat) (e : Ep) : (s.putEp k e).folds = s.folds := rfl
@[simp] theorem State.putEp_ltab (s : State) (k : Nat) (e : Ep) : (s.putEp k e).ltab = s.ltab := rfl
@[simp] theorem State.putEp_launches (s : State) (k : Nat) (e : Ep) : (s.putEp k e).launches = s.launches := rfl
@[simp] theorem State.putEp_nextLaunch (s : State) (k : Nat) (e : Ep) : (s.putEp k e).nextLaunch = s.nextLaunch := rfl
@[simp] theorem State.putEp_groups (s : State) (k : Nat) (e : Ep) : (s.putEp k e).groups = s.groups := rfl
@[simp] theorem State.putEp_supq (s : State) (k : Nat) (e : Ep) : (s.putEp k e).supq = s.supq := rfl
@[simp] theorem State.putEp_heldNotes (s : State) (k : Nat) (e : Ep) : (s.putEp k e).heldNotes = s.heldNotes := rfl
@[simp] theorem State.putEp_xwrs (s : State) (k : Nat) (e : Ep) : (s.putEp k e).xwrs = s.xwrs := rfl
@[simp] theorem State.putEp_onceDue (s : State) (k : Nat) (e : Ep) : (s.putEp k e).onceDue = s.onceDue := rfl
@[simp] theorem State.putEp_links (s : State) (k : Nat) (e : Ep) : (s.putEp k e).links = s.links := rfl
@[simp] theorem State.putEp_frames (s : State) (k : Nat) (e : Ep) : (s.putEp k e).frames = s.frames := rfl
@[simp] theorem State.putEp_quiet (s : State) (k : Nat) (e : Ep) : (s.putEp k e).quiet = s.quiet := rfl
@[simp] theorem State.putEp_drovers (s : State) (k : Nat) (e : Ep) : (s.putEp k e).drovers = s.drovers := rfl
@[simp] theorem State.putEp_disps (s : State) (k : Nat) (e : Ep) : (s.putEp k e).disps = s.disps := rfl
@[simp] theorem State.putEp_tiles (s : State) (k : Nat) (e : Ep) : (s.putEp k e).tiles = s.tiles := rfl
@[simp] theorem State.putEp_landings (s : State) (k : Nat) (e : Ep) : (s.putEp k e).landings = s.landings := rfl
@[simp] theorem State.putEp_permxs (s : State) (k : Nat) (e : Ep) : (s.putEp k e).permxs = s.permxs := rfl
@[simp] theorem State.putEp_nextPermx (s : State) (k : Nat) (e : Ep) : (s.putEp k e).nextPermx = s.nextPermx := rfl
@[simp] theorem State.putEp_bundles (s : State) (k : Nat) (e : Ep) : (s.putEp k e).bundles = s.bundles := rfl
@[simp] theorem State.putEp_pendLines (s : State) (k : Nat) (e : Ep) : (s.putEp k e).pendLines = s.pendLines := rfl
@[simp] theorem State.putEp_prevLines (s : State) (k : Nat) (e : Ep) : (s.putEp k e).prevLines = s.prevLines := rfl
@[simp] theorem State.putEp_shadows (s : State) (k : Nat) (e : Ep) : (s.putEp k e).shadows = s.shadows := rfl
@[simp] theorem State.putEp_seqSent (s : State) (k : Nat) (e : Ep) : (s.putEp k e).seqSent = s.seqSent := rfl
@[simp] theorem State.putEp_seqHeld (s : State) (k : Nat) (e : Ep) : (s.putEp k e).seqHeld = s.seqHeld := rfl
@[simp] theorem State.putEp_flying (s : State) (k : Nat) (e : Ep) : (s.putEp k e).flying = s.flying := rfl
@[simp] theorem State.putEp_pkgs (s : State) (k : Nat) (e : Ep) : (s.putEp k e).pkgs = s.pkgs := rfl

@[simp] theorem State.modLink_cycle (s : State) (pkg n : Nat) (f : Link → Link) : (s.modLink pkg n f).cycle = s.cycle := rfl
@[simp] theorem State.modLink_agenda (s : State) (pkg n : Nat) (f : Link → Link) : (s.modLink pkg n f).agenda = s.agenda := rfl
@[simp] theorem State.modLink_turns (s : State) (pkg n : Nat) (f : Link → Link) : (s.modLink pkg n f).turns = s.turns := rfl
@[simp] theorem State.modLink_cur (s : State) (pkg n : Nat) (f : Link → Link) : (s.modLink pkg n f).cur = s.cur := rfl
@[simp] theorem State.modLink_group (s : State) (pkg n : Nat) (f : Link → Link) : (s.modLink pkg n f).group = s.group := rfl
@[simp] theorem State.modLink_free (s : State) (pkg n : Nat) (f : Link → Link) : (s.modLink pkg n f).free = s.free := rfl
@[simp] theorem State.modLink_mem (s : State) (pkg n : Nat) (f : Link → Link) : (s.modLink pkg n f).mem = s.mem := rfl
@[simp] theorem State.modLink_ftags (s : State) (pkg n : Nat) (f : Link → Link) : (s.modLink pkg n f).ftags = s.ftags := rfl
@[simp] theorem State.modLink_poison (s : State) (pkg n : Nat) (f : Link → Link) : (s.modLink pkg n f).poison = s.poison := rfl
@[simp] theorem State.modLink_packages (s : State) (pkg n : Nat) (f : Link → Link) : (s.modLink pkg n f).packages = s.packages := rfl
@[simp] theorem State.modLink_procs (s : State) (pkg n : Nat) (f : Link → Link) : (s.modLink pkg n f).procs = s.procs := rfl
@[simp] theorem State.modLink_dir (s : State) (pkg n : Nat) (f : Link → Link) : (s.modLink pkg n f).dir = s.dir := rfl
@[simp] theorem State.modLink_gens (s : State) (pkg n : Nat) (f : Link → Link) : (s.modLink pkg n f).gens = s.gens := rfl
@[simp] theorem State.modLink_cores (s : State) (pkg n : Nat) (f : Link → Link) : (s.modLink pkg n f).cores = s.cores := rfl
@[simp] theorem State.modLink_slots (s : State) (pkg n : Nat) (f : Link → Link) : (s.modLink pkg n f).slots = s.slots := rfl
@[simp] theorem State.modLink_folds (s : State) (pkg n : Nat) (f : Link → Link) : (s.modLink pkg n f).folds = s.folds := rfl
@[simp] theorem State.modLink_ltab (s : State) (pkg n : Nat) (f : Link → Link) : (s.modLink pkg n f).ltab = s.ltab := rfl
@[simp] theorem State.modLink_launches (s : State) (pkg n : Nat) (f : Link → Link) : (s.modLink pkg n f).launches = s.launches := rfl
@[simp] theorem State.modLink_nextLaunch (s : State) (pkg n : Nat) (f : Link → Link) : (s.modLink pkg n f).nextLaunch = s.nextLaunch := rfl
@[simp] theorem State.modLink_groups (s : State) (pkg n : Nat) (f : Link → Link) : (s.modLink pkg n f).groups = s.groups := rfl
@[simp] theorem State.modLink_supq (s : State) (pkg n : Nat) (f : Link → Link) : (s.modLink pkg n f).supq = s.supq := rfl
@[simp] theorem State.modLink_heldNotes (s : State) (pkg n : Nat) (f : Link → Link) : (s.modLink pkg n f).heldNotes = s.heldNotes := rfl
@[simp] theorem State.modLink_xwrs (s : State) (pkg n : Nat) (f : Link → Link) : (s.modLink pkg n f).xwrs = s.xwrs := rfl
@[simp] theorem State.modLink_onceDue (s : State) (pkg n : Nat) (f : Link → Link) : (s.modLink pkg n f).onceDue = s.onceDue := rfl
@[simp] theorem State.modLink_frames (s : State) (pkg n : Nat) (f : Link → Link) : (s.modLink pkg n f).frames = s.frames := rfl
@[simp] theorem State.modLink_quiet (s : State) (pkg n : Nat) (f : Link → Link) : (s.modLink pkg n f).quiet = s.quiet := rfl
@[simp] theorem State.modLink_eps (s : State) (pkg n : Nat) (f : Link → Link) : (s.modLink pkg n f).eps = s.eps := rfl
@[simp] theorem State.modLink_drovers (s : State) (pkg n : Nat) (f : Link → Link) : (s.modLink pkg n f).drovers = s.drovers := rfl
@[simp] theorem State.modLink_disps (s : State) (pkg n : Nat) (f : Link → Link) : (s.modLink pkg n f).disps = s.disps := rfl
@[simp] theorem State.modLink_tiles (s : State) (pkg n : Nat) (f : Link → Link) : (s.modLink pkg n f).tiles = s.tiles := rfl
@[simp] theorem State.modLink_landings (s : State) (pkg n : Nat) (f : Link → Link) : (s.modLink pkg n f).landings = s.landings := rfl
@[simp] theorem State.modLink_permxs (s : State) (pkg n : Nat) (f : Link → Link) : (s.modLink pkg n f).permxs = s.permxs := rfl
@[simp] theorem State.modLink_nextPermx (s : State) (pkg n : Nat) (f : Link → Link) : (s.modLink pkg n f).nextPermx = s.nextPermx := rfl
@[simp] theorem State.modLink_bundles (s : State) (pkg n : Nat) (f : Link → Link) : (s.modLink pkg n f).bundles = s.bundles := rfl
@[simp] theorem State.modLink_pendLines (s : State) (pkg n : Nat) (f : Link → Link) : (s.modLink pkg n f).pendLines = s.pendLines := rfl
@[simp] theorem State.modLink_prevLines (s : State) (pkg n : Nat) (f : Link → Link) : (s.modLink pkg n f).prevLines = s.prevLines := rfl
@[simp] theorem State.modLink_shadows (s : State) (pkg n : Nat) (f : Link → Link) : (s.modLink pkg n f).shadows = s.shadows := rfl
@[simp] theorem State.modLink_seqSent (s : State) (pkg n : Nat) (f : Link → Link) : (s.modLink pkg n f).seqSent = s.seqSent := rfl
@[simp] theorem State.modLink_seqHeld (s : State) (pkg n : Nat) (f : Link → Link) : (s.modLink pkg n f).seqHeld = s.seqHeld := rfl
@[simp] theorem State.modLink_flying (s : State) (pkg n : Nat) (f : Link → Link) : (s.modLink pkg n f).flying = s.flying := rfl
@[simp] theorem State.modLink_pkgs (s : State) (pkg n : Nat) (f : Link → Link) : (s.modLink pkg n f).pkgs = s.pkgs := rfl

@[simp] theorem State.modPkg_cycle (s : State) (pkg : Nat) (f : Pkg → Pkg) : (s.modPkg pkg f).cycle = s.cycle := rfl
@[simp] theorem State.modPkg_agenda (s : State) (pkg : Nat) (f : Pkg → Pkg) : (s.modPkg pkg f).agenda = s.agenda := rfl
@[simp] theorem State.modPkg_turns (s : State) (pkg : Nat) (f : Pkg → Pkg) : (s.modPkg pkg f).turns = s.turns := rfl
@[simp] theorem State.modPkg_cur (s : State) (pkg : Nat) (f : Pkg → Pkg) : (s.modPkg pkg f).cur = s.cur := rfl
@[simp] theorem State.modPkg_group (s : State) (pkg : Nat) (f : Pkg → Pkg) : (s.modPkg pkg f).group = s.group := rfl
@[simp] theorem State.modPkg_free (s : State) (pkg : Nat) (f : Pkg → Pkg) : (s.modPkg pkg f).free = s.free := rfl
@[simp] theorem State.modPkg_mem (s : State) (pkg : Nat) (f : Pkg → Pkg) : (s.modPkg pkg f).mem = s.mem := rfl
@[simp] theorem State.modPkg_ftags (s : State) (pkg : Nat) (f : Pkg → Pkg) : (s.modPkg pkg f).ftags = s.ftags := rfl
@[simp] theorem State.modPkg_poison (s : State) (pkg : Nat) (f : Pkg → Pkg) : (s.modPkg pkg f).poison = s.poison := rfl
@[simp] theorem State.modPkg_packages (s : State) (pkg : Nat) (f : Pkg → Pkg) : (s.modPkg pkg f).packages = s.packages := rfl
@[simp] theorem State.modPkg_procs (s : State) (pkg : Nat) (f : Pkg → Pkg) : (s.modPkg pkg f).procs = s.procs := rfl
@[simp] theorem State.modPkg_dir (s : State) (pkg : Nat) (f : Pkg → Pkg) : (s.modPkg pkg f).dir = s.dir := rfl
@[simp] theorem State.modPkg_gens (s : State) (pkg : Nat) (f : Pkg → Pkg) : (s.modPkg pkg f).gens = s.gens := rfl
@[simp] theorem State.modPkg_cores (s : State) (pkg : Nat) (f : Pkg → Pkg) : (s.modPkg pkg f).cores = s.cores := rfl
@[simp] theorem State.modPkg_slots (s : State) (pkg : Nat) (f : Pkg → Pkg) : (s.modPkg pkg f).slots = s.slots := rfl
@[simp] theorem State.modPkg_folds (s : State) (pkg : Nat) (f : Pkg → Pkg) : (s.modPkg pkg f).folds = s.folds := rfl
@[simp] theorem State.modPkg_ltab (s : State) (pkg : Nat) (f : Pkg → Pkg) : (s.modPkg pkg f).ltab = s.ltab := rfl
@[simp] theorem State.modPkg_launches (s : State) (pkg : Nat) (f : Pkg → Pkg) : (s.modPkg pkg f).launches = s.launches := rfl
@[simp] theorem State.modPkg_nextLaunch (s : State) (pkg : Nat) (f : Pkg → Pkg) : (s.modPkg pkg f).nextLaunch = s.nextLaunch := rfl
@[simp] theorem State.modPkg_groups (s : State) (pkg : Nat) (f : Pkg → Pkg) : (s.modPkg pkg f).groups = s.groups := rfl
@[simp] theorem State.modPkg_supq (s : State) (pkg : Nat) (f : Pkg → Pkg) : (s.modPkg pkg f).supq = s.supq := rfl
@[simp] theorem State.modPkg_heldNotes (s : State) (pkg : Nat) (f : Pkg → Pkg) : (s.modPkg pkg f).heldNotes = s.heldNotes := rfl
@[simp] theorem State.modPkg_xwrs (s : State) (pkg : Nat) (f : Pkg → Pkg) : (s.modPkg pkg f).xwrs = s.xwrs := rfl
@[simp] theorem State.modPkg_onceDue (s : State) (pkg : Nat) (f : Pkg → Pkg) : (s.modPkg pkg f).onceDue = s.onceDue := rfl
@[simp] theorem State.modPkg_links (s : State) (pkg : Nat) (f : Pkg → Pkg) : (s.modPkg pkg f).links = s.links := rfl
@[simp] theorem State.modPkg_frames (s : State) (pkg : Nat) (f : Pkg → Pkg) : (s.modPkg pkg f).frames = s.frames := rfl
@[simp] theorem State.modPkg_quiet (s : State) (pkg : Nat) (f : Pkg → Pkg) : (s.modPkg pkg f).quiet = s.quiet := rfl
@[simp] theorem State.modPkg_eps (s : State) (pkg : Nat) (f : Pkg → Pkg) : (s.modPkg pkg f).eps = s.eps := rfl
@[simp] theorem State.modPkg_drovers (s : State) (pkg : Nat) (f : Pkg → Pkg) : (s.modPkg pkg f).drovers = s.drovers := rfl
@[simp] theorem State.modPkg_disps (s : State) (pkg : Nat) (f : Pkg → Pkg) : (s.modPkg pkg f).disps = s.disps := rfl
@[simp] theorem State.modPkg_tiles (s : State) (pkg : Nat) (f : Pkg → Pkg) : (s.modPkg pkg f).tiles = s.tiles := rfl
@[simp] theorem State.modPkg_landings (s : State) (pkg : Nat) (f : Pkg → Pkg) : (s.modPkg pkg f).landings = s.landings := rfl
@[simp] theorem State.modPkg_permxs (s : State) (pkg : Nat) (f : Pkg → Pkg) : (s.modPkg pkg f).permxs = s.permxs := rfl
@[simp] theorem State.modPkg_nextPermx (s : State) (pkg : Nat) (f : Pkg → Pkg) : (s.modPkg pkg f).nextPermx = s.nextPermx := rfl
@[simp] theorem State.modPkg_bundles (s : State) (pkg : Nat) (f : Pkg → Pkg) : (s.modPkg pkg f).bundles = s.bundles := rfl
@[simp] theorem State.modPkg_pendLines (s : State) (pkg : Nat) (f : Pkg → Pkg) : (s.modPkg pkg f).pendLines = s.pendLines := rfl
@[simp] theorem State.modPkg_prevLines (s : State) (pkg : Nat) (f : Pkg → Pkg) : (s.modPkg pkg f).prevLines = s.prevLines := rfl
@[simp] theorem State.modPkg_shadows (s : State) (pkg : Nat) (f : Pkg → Pkg) : (s.modPkg pkg f).shadows = s.shadows := rfl
@[simp] theorem State.modPkg_seqSent (s : State) (pkg : Nat) (f : Pkg → Pkg) : (s.modPkg pkg f).seqSent = s.seqSent := rfl
@[simp] theorem State.modPkg_seqHeld (s : State) (pkg : Nat) (f : Pkg → Pkg) : (s.modPkg pkg f).seqHeld = s.seqHeld := rfl
@[simp] theorem State.modPkg_flying (s : State) (pkg : Nat) (f : Pkg → Pkg) : (s.modPkg pkg f).flying = s.flying := rfl

@[simp] theorem State.writeMem_cycle (s : State) (a : Nat) (bs : List Byte) : (s.writeMem a bs).cycle = s.cycle := rfl
@[simp] theorem State.writeMem_agenda (s : State) (a : Nat) (bs : List Byte) : (s.writeMem a bs).agenda = s.agenda := rfl
@[simp] theorem State.writeMem_turns (s : State) (a : Nat) (bs : List Byte) : (s.writeMem a bs).turns = s.turns := rfl
@[simp] theorem State.writeMem_cur (s : State) (a : Nat) (bs : List Byte) : (s.writeMem a bs).cur = s.cur := rfl
@[simp] theorem State.writeMem_group (s : State) (a : Nat) (bs : List Byte) : (s.writeMem a bs).group = s.group := rfl
@[simp] theorem State.writeMem_free (s : State) (a : Nat) (bs : List Byte) : (s.writeMem a bs).free = s.free := rfl
@[simp] theorem State.writeMem_ftags (s : State) (a : Nat) (bs : List Byte) : (s.writeMem a bs).ftags = s.ftags := rfl
@[simp] theorem State.writeMem_packages (s : State) (a : Nat) (bs : List Byte) : (s.writeMem a bs).packages = s.packages := rfl
@[simp] theorem State.writeMem_procs (s : State) (a : Nat) (bs : List Byte) : (s.writeMem a bs).procs = s.procs := rfl
@[simp] theorem State.writeMem_dir (s : State) (a : Nat) (bs : List Byte) : (s.writeMem a bs).dir = s.dir := rfl
@[simp] theorem State.writeMem_gens (s : State) (a : Nat) (bs : List Byte) : (s.writeMem a bs).gens = s.gens := rfl
@[simp] theorem State.writeMem_cores (s : State) (a : Nat) (bs : List Byte) : (s.writeMem a bs).cores = s.cores := rfl
@[simp] theorem State.writeMem_slots (s : State) (a : Nat) (bs : List Byte) : (s.writeMem a bs).slots = s.slots := rfl
@[simp] theorem State.writeMem_folds (s : State) (a : Nat) (bs : List Byte) : (s.writeMem a bs).folds = s.folds := rfl
@[simp] theorem State.writeMem_ltab (s : State) (a : Nat) (bs : List Byte) : (s.writeMem a bs).ltab = s.ltab := rfl
@[simp] theorem State.writeMem_launches (s : State) (a : Nat) (bs : List Byte) : (s.writeMem a bs).launches = s.launches := rfl
@[simp] theorem State.writeMem_nextLaunch (s : State) (a : Nat) (bs : List Byte) : (s.writeMem a bs).nextLaunch = s.nextLaunch := rfl
@[simp] theorem State.writeMem_groups (s : State) (a : Nat) (bs : List Byte) : (s.writeMem a bs).groups = s.groups := rfl
@[simp] theorem State.writeMem_supq (s : State) (a : Nat) (bs : List Byte) : (s.writeMem a bs).supq = s.supq := rfl
@[simp] theorem State.writeMem_heldNotes (s : State) (a : Nat) (bs : List Byte) : (s.writeMem a bs).heldNotes = s.heldNotes := rfl
@[simp] theorem State.writeMem_xwrs (s : State) (a : Nat) (bs : List Byte) : (s.writeMem a bs).xwrs = s.xwrs := rfl
@[simp] theorem State.writeMem_onceDue (s : State) (a : Nat) (bs : List Byte) : (s.writeMem a bs).onceDue = s.onceDue := rfl
@[simp] theorem State.writeMem_links (s : State) (a : Nat) (bs : List Byte) : (s.writeMem a bs).links = s.links := rfl
@[simp] theorem State.writeMem_frames (s : State) (a : Nat) (bs : List Byte) : (s.writeMem a bs).frames = s.frames := rfl
@[simp] theorem State.writeMem_quiet (s : State) (a : Nat) (bs : List Byte) : (s.writeMem a bs).quiet = s.quiet := rfl
@[simp] theorem State.writeMem_eps (s : State) (a : Nat) (bs : List Byte) : (s.writeMem a bs).eps = s.eps := rfl
@[simp] theorem State.writeMem_drovers (s : State) (a : Nat) (bs : List Byte) : (s.writeMem a bs).drovers = s.drovers := rfl
@[simp] theorem State.writeMem_disps (s : State) (a : Nat) (bs : List Byte) : (s.writeMem a bs).disps = s.disps := rfl
@[simp] theorem State.writeMem_tiles (s : State) (a : Nat) (bs : List Byte) : (s.writeMem a bs).tiles = s.tiles := rfl
@[simp] theorem State.writeMem_landings (s : State) (a : Nat) (bs : List Byte) : (s.writeMem a bs).landings = s.landings := rfl
@[simp] theorem State.writeMem_permxs (s : State) (a : Nat) (bs : List Byte) : (s.writeMem a bs).permxs = s.permxs := rfl
@[simp] theorem State.writeMem_nextPermx (s : State) (a : Nat) (bs : List Byte) : (s.writeMem a bs).nextPermx = s.nextPermx := rfl
@[simp] theorem State.writeMem_bundles (s : State) (a : Nat) (bs : List Byte) : (s.writeMem a bs).bundles = s.bundles := rfl
@[simp] theorem State.writeMem_pendLines (s : State) (a : Nat) (bs : List Byte) : (s.writeMem a bs).pendLines = s.pendLines := rfl
@[simp] theorem State.writeMem_prevLines (s : State) (a : Nat) (bs : List Byte) : (s.writeMem a bs).prevLines = s.prevLines := rfl
@[simp] theorem State.writeMem_shadows (s : State) (a : Nat) (bs : List Byte) : (s.writeMem a bs).shadows = s.shadows := rfl
@[simp] theorem State.writeMem_seqSent (s : State) (a : Nat) (bs : List Byte) : (s.writeMem a bs).seqSent = s.seqSent := rfl
@[simp] theorem State.writeMem_seqHeld (s : State) (a : Nat) (bs : List Byte) : (s.writeMem a bs).seqHeld = s.seqHeld := rfl
@[simp] theorem State.writeMem_flying (s : State) (a : Nat) (bs : List Byte) : (s.writeMem a bs).flying = s.flying := rfl
@[simp] theorem State.writeMem_pkgs (s : State) (a : Nat) (bs : List Byte) : (s.writeMem a bs).pkgs = s.pkgs := rfl

@[simp] theorem State.writeNum_cycle (s : State) (a n v : Nat) : (s.writeNum a n v).cycle = s.cycle := rfl
@[simp] theorem State.writeNum_agenda (s : State) (a n v : Nat) : (s.writeNum a n v).agenda = s.agenda := rfl
@[simp] theorem State.writeNum_turns (s : State) (a n v : Nat) : (s.writeNum a n v).turns = s.turns := rfl
@[simp] theorem State.writeNum_cur (s : State) (a n v : Nat) : (s.writeNum a n v).cur = s.cur := rfl
@[simp] theorem State.writeNum_group (s : State) (a n v : Nat) : (s.writeNum a n v).group = s.group := rfl
@[simp] theorem State.writeNum_free (s : State) (a n v : Nat) : (s.writeNum a n v).free = s.free := rfl
@[simp] theorem State.writeNum_ftags (s : State) (a n v : Nat) : (s.writeNum a n v).ftags = s.ftags := rfl
@[simp] theorem State.writeNum_packages (s : State) (a n v : Nat) : (s.writeNum a n v).packages = s.packages := rfl
@[simp] theorem State.writeNum_procs (s : State) (a n v : Nat) : (s.writeNum a n v).procs = s.procs := rfl
@[simp] theorem State.writeNum_dir (s : State) (a n v : Nat) : (s.writeNum a n v).dir = s.dir := rfl
@[simp] theorem State.writeNum_gens (s : State) (a n v : Nat) : (s.writeNum a n v).gens = s.gens := rfl
@[simp] theorem State.writeNum_cores (s : State) (a n v : Nat) : (s.writeNum a n v).cores = s.cores := rfl
@[simp] theorem State.writeNum_slots (s : State) (a n v : Nat) : (s.writeNum a n v).slots = s.slots := rfl
@[simp] theorem State.writeNum_folds (s : State) (a n v : Nat) : (s.writeNum a n v).folds = s.folds := rfl
@[simp] theorem State.writeNum_ltab (s : State) (a n v : Nat) : (s.writeNum a n v).ltab = s.ltab := rfl
@[simp] theorem State.writeNum_launches (s : State) (a n v : Nat) : (s.writeNum a n v).launches = s.launches := rfl
@[simp] theorem State.writeNum_nextLaunch (s : State) (a n v : Nat) : (s.writeNum a n v).nextLaunch = s.nextLaunch := rfl
@[simp] theorem State.writeNum_groups (s : State) (a n v : Nat) : (s.writeNum a n v).groups = s.groups := rfl
@[simp] theorem State.writeNum_supq (s : State) (a n v : Nat) : (s.writeNum a n v).supq = s.supq := rfl
@[simp] theorem State.writeNum_heldNotes (s : State) (a n v : Nat) : (s.writeNum a n v).heldNotes = s.heldNotes := rfl
@[simp] theorem State.writeNum_xwrs (s : State) (a n v : Nat) : (s.writeNum a n v).xwrs = s.xwrs := rfl
@[simp] theorem State.writeNum_onceDue (s : State) (a n v : Nat) : (s.writeNum a n v).onceDue = s.onceDue := rfl
@[simp] theorem State.writeNum_links (s : State) (a n v : Nat) : (s.writeNum a n v).links = s.links := rfl
@[simp] theorem State.writeNum_frames (s : State) (a n v : Nat) : (s.writeNum a n v).frames = s.frames := rfl
@[simp] theorem State.writeNum_quiet (s : State) (a n v : Nat) : (s.writeNum a n v).quiet = s.quiet := rfl
@[simp] theorem State.writeNum_eps (s : State) (a n v : Nat) : (s.writeNum a n v).eps = s.eps := rfl
@[simp] theorem State.writeNum_drovers (s : State) (a n v : Nat) : (s.writeNum a n v).drovers = s.drovers := rfl
@[simp] theorem State.writeNum_disps (s : State) (a n v : Nat) : (s.writeNum a n v).disps = s.disps := rfl
@[simp] theorem State.writeNum_tiles (s : State) (a n v : Nat) : (s.writeNum a n v).tiles = s.tiles := rfl
@[simp] theorem State.writeNum_landings (s : State) (a n v : Nat) : (s.writeNum a n v).landings = s.landings := rfl
@[simp] theorem State.writeNum_permxs (s : State) (a n v : Nat) : (s.writeNum a n v).permxs = s.permxs := rfl
@[simp] theorem State.writeNum_nextPermx (s : State) (a n v : Nat) : (s.writeNum a n v).nextPermx = s.nextPermx := rfl
@[simp] theorem State.writeNum_bundles (s : State) (a n v : Nat) : (s.writeNum a n v).bundles = s.bundles := rfl
@[simp] theorem State.writeNum_pendLines (s : State) (a n v : Nat) : (s.writeNum a n v).pendLines = s.pendLines := rfl
@[simp] theorem State.writeNum_prevLines (s : State) (a n v : Nat) : (s.writeNum a n v).prevLines = s.prevLines := rfl
@[simp] theorem State.writeNum_shadows (s : State) (a n v : Nat) : (s.writeNum a n v).shadows = s.shadows := rfl
@[simp] theorem State.writeNum_seqSent (s : State) (a n v : Nat) : (s.writeNum a n v).seqSent = s.seqSent := rfl
@[simp] theorem State.writeNum_seqHeld (s : State) (a n v : Nat) : (s.writeNum a n v).seqHeld = s.seqHeld := rfl
@[simp] theorem State.writeNum_flying (s : State) (a n v : Nat) : (s.writeNum a n v).flying = s.flying := rfl
@[simp] theorem State.writeNum_pkgs (s : State) (a n v : Nat) : (s.writeNum a n v).pkgs = s.pkgs := rfl

@[simp] theorem State.writeMem_mem (s : State) (a : Nat) (bs : List Byte) : (s.writeMem a bs).mem = writeBytes s.mem a bs := rfl
@[simp] theorem State.putProc_proc_self (s : State) (k : Nat) (p : Proc) : (s.putProc k p).proc k = some p := by
  simp [State.proc, State.putProc]
theorem State.putProc_proc_ne (s : State) {k j : Nat} (p : Proc) (h : j ≠ k) : (s.putProc k p).proc j = s.proc j :=
  tget_tput_ne _ _ h
@[simp] theorem State.after_proc (s : State) (n : Nat) (e : Ev) (k : Nat) : (s.after n e).proc k = s.proc k := rfl
@[simp] theorem State.atCycle_proc (s : State) (n : Nat) (e : Ev) (k : Nat) : (s.atCycle n e).proc k = s.proc k := rfl
@[simp] theorem State.modSlot_proc (s : State) (n : Nat) (f : SlotS → SlotS) (k : Nat) : (s.modSlot n f).proc k = s.proc k := rfl
@[simp] theorem State.modCore_proc (s : State) (n : Nat) (f : CoreS → CoreS) (k : Nat) : (s.modCore n f).proc k = s.proc k := rfl
@[simp] theorem State.modFold_proc (s : State) (n : Nat) (f : FoldS → FoldS) (k : Nat) : (s.modFold n f).proc k = s.proc k := rfl
@[simp] theorem State.putGroup_proc (s : State) (n : Nat) (g : Group) (k : Nat) : (s.putGroup n g).proc k = s.proc k := rfl
@[simp] theorem State.putEp_proc (s : State) (n : Nat) (e : Ep) (k : Nat) : (s.putEp n e).proc k = s.proc k := rfl
@[simp] theorem State.writeMem_proc (s : State) (a : Nat) (bs : List Byte) (k : Nat) : (s.writeMem a bs).proc k = s.proc k := rfl
theorem State.modProc_eq {s : State} {k : Nat} {p : Proc} (h : s.proc k = some p) (f : Proc → Proc) :
    s.modProc k f = s.putProc k (f p) := by simp [State.modProc, h]
theorem State.modProc_proc_self {s : State} {k : Nat} {p : Proc} (h : s.proc k = some p) (f : Proc → Proc) :
    (s.modProc k f).proc k = some (f p) := by rw [State.modProc_eq h]; simp
theorem State.named_eq {s : State} {n k : Nat} {p : Proc} (h : s.keyOf n = some k) (hp : s.proc k = some p) :
    s.named n = some (k, p) := by simp [State.named, h, hp]
@[simp] theorem State.modCore_core_self (s : State) (c : Nat) (f : CoreS → CoreS) : (s.modCore c f).core c = f (s.core c) := by
  simp [State.core, State.modCore, State.putCore]
@[simp] theorem State.modSlot_slot_self (s : State) (c : Nat) (f : SlotS → SlotS) : (s.modSlot c f).slot c = f (s.slot c) := by
  simp [State.slot, State.modSlot, State.putSlot]
@[simp] theorem State.modFold_fold_self (s : State) (c : Nat) (f : FoldS → FoldS) : (s.modFold c f).fold c = f (s.fold c) := by
  simp [State.fold, State.modFold, State.putFold]
@[simp] theorem State.putGroup_group_self (s : State) (c : Nat) (g : Group) : (s.putGroup c g).group? c = some g := by
  simp [State.group?, State.putGroup]
@[simp] theorem State.modProc_cycle (s : State) (k : Nat) (f : Proc → Proc) : (s.modProc k f).cycle = s.cycle := by
  unfold State.modProc; split <;> rfl
@[simp] theorem State.modProc_agenda (s : State) (k : Nat) (f : Proc → Proc) : (s.modProc k f).agenda = s.agenda := by
  unfold State.modProc; split <;> rfl
@[simp] theorem State.modProc_turns (s : State) (k : Nat) (f : Proc → Proc) : (s.modProc k f).turns = s.turns := by
  unfold State.modProc; split <;> rfl
@[simp] theorem State.modProc_cur (s : State) (k : Nat) (f : Proc → Proc) : (s.modProc k f).cur = s.cur := by
  unfold State.modProc; split <;> rfl
@[simp] theorem State.modProc_group (s : State) (k : Nat) (f : Proc → Proc) : (s.modProc k f).group = s.group := by
  unfold State.modProc; split <;> rfl
@[simp] theorem State.modProc_free (s : State) (k : Nat) (f : Proc → Proc) : (s.modProc k f).free = s.free := by
  unfold State.modProc; split <;> rfl
@[simp] theorem State.modProc_mem (s : State) (k : Nat) (f : Proc → Proc) : (s.modProc k f).mem = s.mem := by
  unfold State.modProc; split <;> rfl
@[simp] theorem State.modProc_ftags (s : State) (k : Nat) (f : Proc → Proc) : (s.modProc k f).ftags = s.ftags := by
  unfold State.modProc; split <;> rfl
@[simp] theorem State.modProc_poison (s : State) (k : Nat) (f : Proc → Proc) : (s.modProc k f).poison = s.poison := by
  unfold State.modProc; split <;> rfl
@[simp] theorem State.modProc_packages (s : State) (k : Nat) (f : Proc → Proc) : (s.modProc k f).packages = s.packages := by
  unfold State.modProc; split <;> rfl
@[simp] theorem State.modProc_dir (s : State) (k : Nat) (f : Proc → Proc) : (s.modProc k f).dir = s.dir := by
  unfold State.modProc; split <;> rfl
@[simp] theorem State.modProc_gens (s : State) (k : Nat) (f : Proc → Proc) : (s.modProc k f).gens = s.gens := by
  unfold State.modProc; split <;> rfl
@[simp] theorem State.modProc_cores (s : State) (k : Nat) (f : Proc → Proc) : (s.modProc k f).cores = s.cores := by
  unfold State.modProc; split <;> rfl
@[simp] theorem State.modProc_slots (s : State) (k : Nat) (f : Proc → Proc) : (s.modProc k f).slots = s.slots := by
  unfold State.modProc; split <;> rfl
@[simp] theorem State.modProc_folds (s : State) (k : Nat) (f : Proc → Proc) : (s.modProc k f).folds = s.folds := by
  unfold State.modProc; split <;> rfl
@[simp] theorem State.modProc_ltab (s : State) (k : Nat) (f : Proc → Proc) : (s.modProc k f).ltab = s.ltab := by
  unfold State.modProc; split <;> rfl
@[simp] theorem State.modProc_launches (s : State) (k : Nat) (f : Proc → Proc) : (s.modProc k f).launches = s.launches := by
  unfold State.modProc; split <;> rfl
@[simp] theorem State.modProc_nextLaunch (s : State) (k : Nat) (f : Proc → Proc) : (s.modProc k f).nextLaunch = s.nextLaunch := by
  unfold State.modProc; split <;> rfl
@[simp] theorem State.modProc_groups (s : State) (k : Nat) (f : Proc → Proc) : (s.modProc k f).groups = s.groups := by
  unfold State.modProc; split <;> rfl
@[simp] theorem State.modProc_supq (s : State) (k : Nat) (f : Proc → Proc) : (s.modProc k f).supq = s.supq := by
  unfold State.modProc; split <;> rfl
@[simp] theorem State.modProc_heldNotes (s : State) (k : Nat) (f : Proc → Proc) : (s.modProc k f).heldNotes = s.heldNotes := by
  unfold State.modProc; split <;> rfl
@[simp] theorem State.modProc_xwrs (s : State) (k : Nat) (f : Proc → Proc) : (s.modProc k f).xwrs = s.xwrs := by
  unfold State.modProc; split <;> rfl
@[simp] theorem State.modProc_onceDue (s : State) (k : Nat) (f : Proc → Proc) : (s.modProc k f).onceDue = s.onceDue := by
  unfold State.modProc; split <;> rfl
@[simp] theorem State.modProc_links (s : State) (k : Nat) (f : Proc → Proc) : (s.modProc k f).links = s.links := by
  unfold State.modProc; split <;> rfl
@[simp] theorem State.modProc_frames (s : State) (k : Nat) (f : Proc → Proc) : (s.modProc k f).frames = s.frames := by
  unfold State.modProc; split <;> rfl
@[simp] theorem State.modProc_quiet (s : State) (k : Nat) (f : Proc → Proc) : (s.modProc k f).quiet = s.quiet := by
  unfold State.modProc; split <;> rfl
@[simp] theorem State.modProc_eps (s : State) (k : Nat) (f : Proc → Proc) : (s.modProc k f).eps = s.eps := by
  unfold State.modProc; split <;> rfl
@[simp] theorem State.modProc_drovers (s : State) (k : Nat) (f : Proc → Proc) : (s.modProc k f).drovers = s.drovers := by
  unfold State.modProc; split <;> rfl
@[simp] theorem State.modProc_disps (s : State) (k : Nat) (f : Proc → Proc) : (s.modProc k f).disps = s.disps := by
  unfold State.modProc; split <;> rfl
@[simp] theorem State.modProc_tiles (s : State) (k : Nat) (f : Proc → Proc) : (s.modProc k f).tiles = s.tiles := by
  unfold State.modProc; split <;> rfl
@[simp] theorem State.modProc_landings (s : State) (k : Nat) (f : Proc → Proc) : (s.modProc k f).landings = s.landings := by
  unfold State.modProc; split <;> rfl
@[simp] theorem State.modProc_permxs (s : State) (k : Nat) (f : Proc → Proc) : (s.modProc k f).permxs = s.permxs := by
  unfold State.modProc; split <;> rfl
@[simp] theorem State.modProc_nextPermx (s : State) (k : Nat) (f : Proc → Proc) : (s.modProc k f).nextPermx = s.nextPermx := by
  unfold State.modProc; split <;> rfl
@[simp] theorem State.modProc_bundles (s : State) (k : Nat) (f : Proc → Proc) : (s.modProc k f).bundles = s.bundles := by
  unfold State.modProc; split <;> rfl
@[simp] theorem State.modProc_pendLines (s : State) (k : Nat) (f : Proc → Proc) : (s.modProc k f).pendLines = s.pendLines := by
  unfold State.modProc; split <;> rfl
@[simp] theorem State.modProc_prevLines (s : State) (k : Nat) (f : Proc → Proc) : (s.modProc k f).prevLines = s.prevLines := by
  unfold State.modProc; split <;> rfl
@[simp] theorem State.modProc_shadows (s : State) (k : Nat) (f : Proc → Proc) : (s.modProc k f).shadows = s.shadows := by
  unfold State.modProc; split <;> rfl
@[simp] theorem State.modProc_seqSent (s : State) (k : Nat) (f : Proc → Proc) : (s.modProc k f).seqSent = s.seqSent := by
  unfold State.modProc; split <;> rfl
@[simp] theorem State.modProc_seqHeld (s : State) (k : Nat) (f : Proc → Proc) : (s.modProc k f).seqHeld = s.seqHeld := by
  unfold State.modProc; split <;> rfl
@[simp] theorem State.modProc_flying (s : State) (k : Nat) (f : Proc → Proc) : (s.modProc k f).flying = s.flying := by
  unfold State.modProc; split <;> rfl
@[simp] theorem State.modProc_pkgs (s : State) (k : Nat) (f : Proc → Proc) : (s.modProc k f).pkgs = s.pkgs := by
  unfold State.modProc; split <;> rfl

end Sys2Proof.Machine
end

