-- ==== Sys2Proof/Laws/Registers.lean ====
section
/-! SUPPORT. Registers: what a write, an emptying, a consume mark and retirement leave (05 R103, R104; 03 R51). -/

namespace Sys2Proof.Machine

theorem cell_putCell (p : Proc) (r r' : Reg) (c : RegCell) :
    (p.putCell r c).cell r' = if r' = r ∧ r ≠ 0 then c else p.cell r' := by
  unfold Proc.putCell Proc.cell
  by_cases h0 : r = 0
  · simp [h0]
  · rw [if_neg h0]
    have e : ∀ x : Reg, (p.regs.set (rix r) c).get (rix x) = if x = r then c else p.regs.get (rix x) := by
      intro x
      have hx : (p.regs.set (rix r) c).get (rix x) = (p.regs.set (rix r) c)[(rix x).1]'(rix x).2 := rfl
      have hy : p.regs.get (rix x) = p.regs[(rix x).1]'(rix x).2 := rfl
      rw [hx, hy, Vector.getElem_set]
      have : ((rix r : Fin 16).1 = (rix x : Fin 16).1) ↔ x = r := by
        constructor
        · intro h; apply BitVec.eq_of_toNat_eq; simpa [rix] using h.symm
        · rintro rfl; rfl
      simp only [this]
    rw [e]
    by_cases h : r' = r
    · rw [if_pos h, if_pos ⟨h, h0⟩]
    · rw [if_neg h, if_neg (fun x => h x.1)]

@[simp] theorem ports_putCell (p : Proc) (r : Reg) (c : RegCell) : (p.putCell r c).ports = p.ports := by
  unfold Proc.putCell; split <;> rfl

/-- Replacing a cell changes the register file alone. -/
theorem putCell_rest (p : Proc) (r : Reg) (c : RegCell) : { p.putCell r c with regs := p.regs } = p := by
  unfold Proc.putCell; split <;> rfl

theorem reg_eq (p : Proc) (r : Reg) : p.reg r = if r = 0 then 0 else (p.cell r).val := rfl
theorem full_eq (p : Proc) (r : Reg) : p.full r = (decide (r = 0) || (p.cell r).full) := rfl

theorem cell_setReg (p : Proc) (r r' : Reg) (v : Word) :
    (p.setReg r v).cell r' = if r' = r ∧ r ≠ 0 then { p.cell r with val := v, full := true, pend := false } else p.cell r' :=
  cell_putCell ..

theorem cell_emptyReg (p : Proc) (r r' : Reg) :
    (p.emptyReg r).cell r' = if r' = r ∧ r ≠ 0 then { p.cell r with full := false, pend := false } else p.cell r' :=
  cell_putCell ..

theorem reg_setReg (p : Proc) (r r' : Reg) (v : Word) : (p.setReg r v).reg r' = if r' = r ∧ r' ≠ 0 then v else p.reg r' := by
  rw [reg_eq, cell_setReg, reg_eq]
  by_cases h0 : r' = 0
  · rw [if_pos h0, if_pos h0, if_neg (fun x => x.2 h0)]
  · by_cases h : r' = r
    · rw [if_neg h0, if_pos ⟨h, h ▸ h0⟩, if_pos ⟨h, h0⟩]
    · rw [if_neg h0, if_neg h0, if_neg (fun x => h x.1), if_neg (fun x => h x.1)]

theorem full_setReg (p : Proc) (r r' : Reg) (v : Word) : (p.setReg r v).full r' = (decide (r' = r) || p.full r') := by
  rw [full_eq, cell_setReg, full_eq]
  by_cases h0 : r' = 0
  · rw [decide_eq_true h0]; cases decide (r' = r) <;> rfl
  · by_cases h : r' = r
    · rw [if_pos ⟨h, h ▸ h0⟩, decide_eq_true h]; simp
    · rw [if_neg (fun x => h x.1), decide_eq_false h, Bool.false_or]

theorem reg_emptyReg (p : Proc) (r r' : Reg) : (p.emptyReg r).reg r' = p.reg r' := by
  rw [reg_eq, cell_emptyReg, reg_eq]
  by_cases h0 : r' = 0
  · rw [if_pos h0, if_pos h0]
  · by_cases h : r' = r
    · rw [if_neg h0, if_pos ⟨h, h ▸ h0⟩, if_neg h0, h]
    · rw [if_neg h0, if_neg h0, if_neg (fun x => h x.1)]

theorem full_emptyReg (p : Proc) (r r' : Reg) :
    (p.emptyReg r).full r' = (p.full r' && (decide (r' ≠ r) || decide (r' = 0))) := by
  rw [full_eq, cell_emptyReg, full_eq]
  by_cases h0 : r' = 0
  · rw [decide_eq_true h0]; simp
  · by_cases h : r' = r
    · rw [if_pos ⟨h, h ▸ h0⟩, decide_eq_false h0]; simp [h]
    · rw [if_neg (fun x => h x.1)]; simp [h]

/-! ### Ports -/

theorem ports_getD {p : Proc} (h : ∀ q ∈ p.ports.toList, q.bound = false) (n : Nat) : (p.ports.toList.getD n {}).bound = false := by
  rw [List.getD_eq_getElem?_getD]
  cases hx : p.ports.toList[n]? with
  | none => rfl
  | some x => exact h x (List.mem_of_getElem? hx)

theorem portOf_none {p : Proc} (h : ∀ q ∈ p.ports.toList, q.bound = false) (r : Reg) : p.portOf r = none := by
  unfold Proc.portOf
  split
  · simp [ports_getD h, -List.getD_eq_getElem?_getD]
  · rfl

theorem source_unbound {s : State} {p : Proc} (h : ∀ q ∈ p.ports.toList, q.bound = false) (r : Reg) :
    s.source p r = if p.full r then .elem (p.reg r) else .empty := by
  simp [State.source, portOf_none h]

theorem sink_unbound {s : State} {p : Proc} (h : ∀ q ∈ p.ports.toList, q.bound = false) (r : Reg) : s.sink p r = .elem 0 := by
  simp [State.sink, portOf_none h]

/-! ### Consume marks and retirement -/

/-- What consume marks leave, with no bound port. -/
theorem consumeRegs_spec (p : Proc) (h : ∀ q ∈ p.ports.toList, q.bound = false) (m : BitVec 16) :
    (∀ r, (p.consumeRegs m).reg r = p.reg r) ∧
    (∀ r, (p.consumeRegs m).full r = (p.full r && (decide (r = 0) || !(m.getLsbD r.toNat && !p.made.getLsbD r.toNat)))) ∧
    { p.consumeRegs m with regs := p.regs } = p := by
  have key : ∀ (m : Nat → Bool), ∀ n ≤ 16, let q := (List.range n).foldl (fun q n =>
      if m n && !(decide (8 ≤ n) && decide (n ≤ 11) && (p.ports.toList.getD (n - 8) {}).bound)
      then q.emptyReg (BitVec.ofNat 4 n) else q) p
      (∀ r, q.reg r = p.reg r) ∧
      (∀ r, q.full r = (p.full r && (decide (r = 0) || !(m r.toNat && decide (r.toNat < n))))) ∧
      { q with regs := p.regs } = p := by
    intro m n hn
    induction n with
    | zero => simp
    | succ n ih =>
      obtain ⟨i1, i2, i3⟩ := ih (by omega)
      simp only [List.range_succ, List.foldl_append, List.foldl_cons, List.foldl_nil, ports_getD h, Bool.and_false,
        Bool.not_false, Bool.and_true] at i1 i2 i3 ⊢
      generalize (List.range n).foldl (fun q n => if m n = true then q.emptyReg (BitVec.ofNat 4 n) else q) p = q at *
      have hr : ∀ r : Reg, r = BitVec.ofNat 4 n ↔ r.toNat = n := by
        intro r
        rw [← BitVec.toNat_inj, BitVec.toNat_ofNat, Nat.mod_eq_of_lt (by omega)]
      by_cases hm : m n = true
      · simp only [hm, if_true]
        refine ⟨fun r => by rw [reg_emptyReg, i1], fun r => ?_, ?_⟩
        · rw [full_emptyReg, i2]
          by_cases h1 : r.toNat = n
          · rw [(hr r).2 h1]
            cases p.full (BitVec.ofNat 4 n) <;> simp [← (hr r).2 h1, h1, hm]
          · have hx : r ≠ BitVec.ofNat 4 n := fun x => h1 ((hr r).1 x)
            have e : decide (r.toNat < n + 1) = decide (r.toNat < n) := decide_eq_decide.2 (by omega)
            rw [e, decide_eq_true hx, Bool.true_or, Bool.and_true]
        · rw [← i3]
          have := putCell_rest q (BitVec.ofNat 4 n) { q.cell (BitVec.ofNat 4 n) with full := false, pend := false }
          unfold Proc.emptyReg
          conv_rhs => rw [← this]
      · simp only [hm, Bool.false_eq_true, if_false]
        refine ⟨i1, fun r => ?_, i3⟩
        rw [i2]
        by_cases h1 : r.toNat = n
        · simp [h1, hm]
        · have e : decide (r.toNat < n + 1) = decide (r.toNat < n) := decide_eq_decide.2 (by omega)
          rw [e]
  have := key (fun n => m.getLsbD n && !p.made.getLsbD n) 16 (le_refl _)
  refine ⟨this.1, fun r => ?_, this.2.2⟩
  have h2 := this.2.1 r
  have e : decide (r.toNat < 16) = true := by simpa using r.isLt
  rw [e, Bool.and_true] at h2
  exact h2

end Sys2Proof.Machine
end

