-- ==== Sys2Proof/Laws/Retire.lean ====
section
/-! SUPPORT. Retirement, parking and exceptions: everything the operations that end an instruction change (03 R51, R53; 05 R132 to
R134). -/

namespace Sys2Proof.Machine

theorem proc_putProc (s : State) (k j : Nat) (p : Proc) : (s.putProc k p).proc j = if j = k then some p else s.proc j := by
  unfold State.proc State.putProc
  simp only [tget_tput]

theorem proc_modProc {s : State} {k : Nat} {p : Proc} (h : s.proc k = some p) (f : Proc → Proc) (j : Nat) :
    (s.modProc k f).proc j = if j = k then some (f p) else s.proc j := by
  unfold State.modProc
  rw [h]
  exact proc_putProc ..

theorem modProc_eq {s : State} {k : Nat} {p : Proc} (h : s.proc k = some p) (f : Proc → Proc) :
    s.modProc k f = s.putProc k (f p) := by unfold State.modProc; rw [h]

@[simp] theorem proc_after (s : State) (n : Nat) (e : Ev) (j : Nat) : (s.after n e).proc j = s.proc j := rfl

/-- Scheduling events changes the agenda alone. -/
theorem foldl_atCycle_rest {α : Type} (n : Nat) (g : α → Ev) (l : List α) (s : State) :
    { l.foldl (fun t x => t.atCycle n (g x)) s with agenda := s.agenda } = s := by
  induction l generalizing s with
  | nil => rfl
  | cons x l ih =>
    simp only [List.foldl_cons]
    have := ih (s.atCycle n (g x))
    generalize l.foldl (fun t x => t.atCycle n (g x)) (s.atCycle n (g x)) = t at *
    have h2 : { s.atCycle n (g x) with agenda := s.agenda } = s := rfl
    rw [← h2, ← this]

theorem foldl_atCycle_proc {α : Type} (n : Nat) (g : α → Ev) (l : List α) (s : State) (j : Nat) :
    (l.foldl (fun t x => t.atCycle n (g x)) s).proc j = s.proc j := by
  induction l generalizing s with
  | nil => rfl
  | cons x l ih => simp only [List.foldl_cons]; rw [ih]; rfl

theorem offerXwr_rest (s : State) (k : Nat) : { s.offerXwr k with agenda := s.agenda } = s := by
  unfold State.offerXwr
  split
  · exact foldl_atCycle_rest ..
  · rfl

theorem offerXwr_proc (s : State) (k j : Nat) : (s.offerXwr k).proc j = s.proc j := by
  unfold State.offerXwr
  split
  · exact foldl_atCycle_proc ..
  · rfl

theorem popAll_unbound (s : State) (k : Nat) {p : Proc} (h : ∀ q ∈ p.ports.toList, q.bound = false) (c : BitVec 16) :
    s.popAll k p c = s := by
  unfold State.popAll
  simp only [portOf_none h, Option.isSome_none, Bool.and_false, Bool.false_eq_true, if_false]
  rfl

theorem pushAll_unbound (s : State) (k : Nat) {p : Proc} (h : ∀ q ∈ p.ports.toList, q.bound = false) (ws : List (Reg × Word)) :
    s.pushAll k p ws = s := by
  unfold State.pushAll
  simp only [portOf_none h, Option.isSome_none, Bool.false_eq_true, if_false]
  induction ws with
  | nil => rfl
  | cons w ws ih => simpa using ih

/-- Retirement of an instruction that no ONCE governs, with no bound port: the process is retired, and an XWR that waits for a register
of it may set out. -/
theorem retire_plain {s : State} {k : Nat} {p : Proc} (hp : s.proc k = some p) (ho : p.onceOn = false)
    (h : ∀ q ∈ p.ports.toList, q.bound = false) (c : BitVec 16) (ws : List (Reg × Word)) :
    s.retire k c ws = (s.putProc k (p.markRetired (p.retire c ws) s.cycle c ws)).offerXwr k := by
  unfold State.retire State.onceDone
  simp only [hp, ho, Bool.false_and, Bool.false_eq_true, if_false, popAll_unbound _ _ h, pushAll_unbound _ _ h]

end Sys2Proof.Machine
end

