-- ==== Sys2Proof/Laws/Operations.lean ====
section
/-! SUPPORT. What the shared operations do, said once each: events in flight, memory, waiting, exceptions, producers and fills. -/

namespace Sys2Proof.Machine

/-! ### Events in flight -/

/-- The events in flight after one is put among them: it, and those there were. -/
theorem mem_enqueue (due : Nat) (e : Ev) (l : List (Nat × Ev)) (x : Nat × Ev) : x ∈ enqueue due e l ↔ x = (due, e) ∨ x ∈ l := by
  induction l with
  | nil => simp [enqueue]
  | cons y l ih =>
    obtain ⟨d, z⟩ := y
    simp only [enqueue]
    split
    · simp
    · simp only [List.mem_cons, ih]; tauto

theorem mem_agenda_after (s : State) (n : Nat) (e : Ev) (x : Nat × Ev) : x ∈ (s.after n e).agenda ↔ x = (s.cycle + n, e) ∨ x ∈ s.agenda :=
  mem_enqueue ..

theorem after_rest (s : State) (n : Nat) (e : Ev) : { s.after n e with agenda := s.agenda } = s := rfl
theorem after_proc (s : State) (n : Nat) (e : Ev) (k : Nat) : (s.after n e).proc k = s.proc k := rfl
theorem dueIn_after (s : State) (n : Nat) (e : Ev) : (s.after n e).DueIn n e := (mem_agenda_after s n e _).2 (.inl rfl)
theorem dueIn_after_of {s : State} {m : Nat} {x : Ev} (h : s.DueIn m x) (n : Nat) (e : Ev) : (s.after n e).DueIn m x :=
  (mem_agenda_after s n e _).2 (.inr h)
theorem due_of_dueIn {s : State} {n : Nat} {e : Ev} (h : s.DueIn n e) : s.Due e := ⟨_, h⟩
theorem due_after_iff (s : State) (n : Nat) (e x : Ev) : (s.after n e).Due x ↔ x = e ∨ s.Due x := by
  unfold State.Due
  simp only [mem_agenda_after, Prod.mk.injEq]
  constructor
  · rintro ⟨c, ⟨-, h⟩ | h⟩
    · exact .inl h
    · exact .inr ⟨c, h⟩
  · rintro (rfl | ⟨c, h⟩)
    · exact ⟨_, .inl ⟨rfl, rfl⟩⟩
    · exact ⟨c, .inr h⟩

/-! ### Memory -/

/-- A write keeps the memory in its canonical form. -/
theorem memOk_writeMem {s : State} (h : s.MemOk) (a : Nat) (bs : List Byte) : (s.writeMem a bs).MemOk := wf_writeBytes h a bs
theorem memOk_writeNum {s : State} (h : s.MemOk) (a n v : Nat) : (s.writeNum a n v).MemOk := memOk_writeMem h a _
theorem memOk_of_mem {s t : State} (h : s.MemOk) (e : t.mem = s.mem) : t.MemOk := by unfold State.MemOk; rw [e]; exact h
theorem memOk_after {s : State} (h : s.MemOk) (n : Nat) (e : Ev) : (s.after n e).MemOk := h

/-- A byte after a write: one that is written, or the one that was there. -/
theorem readByte_writeMem {s : State} (h : s.MemOk) (a j : Nat) (bs : List Byte) :
    readByte (s.writeMem a bs).mem j = if a ≤ j ∧ j < a + bs.length then bs.getD (j - a) 0 else readByte s.mem j :=
  readByte_writeBytes h a j bs

theorem writeMem_rest (s : State) (a : Nat) (bs : List Byte) : { s.writeMem a bs with mem := s.mem, poison := s.poison } = s := rfl

/-- The words that are poisoned after a write are those that were and that it does not touch (13 R401). -/
theorem mem_poison_writeMem (s : State) (a : Nat) (bs : List Byte) (w : Nat) :
    w ∈ (s.writeMem a bs).poison ↔ w ∈ s.poison ∧ (w + 8 ≤ a ∨ a + bs.length ≤ w) := by
  simp [State.writeMem, unpoison]

/-! ### Waiting -/

theorem park_proc {s : State} {k : Nat} {p : Proc} (h : s.proc k = some p) (w : Wait) (j : Nat) :
    (s.park k w).proc j = if j = k then some { p with st := .parked, wait := w, blockedAt := s.cycle } else s.proc j := proc_modProc h _ j

theorem park_rest {s : State} {k : Nat} {p : Proc} (h : s.proc k = some p) (w : Wait) : { s.park k w with procs := s.procs } = s := by
  unfold State.park; rw [modProc_eq h]; rfl

theorem awake_rest (s : State) (p : Proc) : { s.awake p with slots := s.slots } = s := rfl
theorem awake_proc (s : State) (p : Proc) (k : Nat) : (s.awake p).proc k = s.proc k := rfl

/-- A process that is PARKED goes on in its slot. -/
theorem ready_parked {s : State} {k : Nat} {p : Proc} (h : s.proc k = some p) (hp : p.st = .parked) :
    s.ready k = (s.putProc k (p.resumed s.cycle)).awake p := by
  simp [State.ready, h, hp]

/-- A heavy process that is BLOCKED in its slot goes on there. -/
theorem ready_blocked_heavy {s : State} {k : Nat} {p : Proc} (h : s.proc k = some p) (hp : p.st = .blocked) (hh : p.heavy = true) (hs : s.inSlot p = true) :
    s.ready k = (s.putProc k (p.resumed s.cycle)).awake p := by
  simp [State.ready, h, hp, hh, hs]

/-- A light process that is BLOCKED joins the tail of its pen. -/
theorem ready_blocked_light {s : State} {k : Nat} {p : Proc} (h : s.proc k = some p) (hp : p.st = .blocked) (hh : p.heavy = false) :
    s.ready k = (s.putProc k { p with st := .ready, wait := .none, deadline := 0 }).toPen p := by
  simp [State.ready, h, hp, hh]

/-! ### Exceptions (05 R132 to R134) -/

/-- A cause that the user's handler takes. -/
theorem raiseAt_handler {s : State} {k : Nat} {p : Proc} (h : s.proc k = some p) (ht : p.st ≠ .trapped) {cause : Nat} (v : Word) (epc : BitVec 16)
    (hc : userCause p cause = true) (he : utvEn p.utv = true) (ha : utvAct p.utv = false) :
    s.raiseAt k cause v epc = (s.putProc k { p.endGroup with
      epc := epc, ecause := BitVec.ofNat 8 cause, eval := v, utv := p.utv ||| 2, pc := utvHandler p.utv, st := .resident, wait := .none, vact := false }).awake p := by
  simp [State.raiseAt, h, ht, hc, he, ha]

/-- A cause that goes to the supervisor. -/
theorem raiseAt_supervisor {s : State} {k : Nat} {p : Proc} (h : s.proc k = some p) (ht : p.st ≠ .trapped) {cause : Nat} (v : Word) (epc : BitVec 16)
    (hc : (userCause p cause && utvEn p.utv && !utvAct p.utv) = false) : s.raiseAt k cause v epc = s.deliverToSupervisor k p cause v epc := by
  simp only [State.raiseAt, h, ht, hc, Bool.false_eq_true, if_false]

theorem raise_eq {s : State} {k : Nat} {p : Proc} (h : s.proc k = some p) (cause : Nat) (v : Word) : s.raise k cause v = s.raiseAt k cause v p.pc := by
  simp [State.raise, h, Proc.trapPc]

theorem raiseWord_eq {s : State} {k : Nat} {p : Proc} (h : s.proc k = some p) (cause : Nat) : s.raiseWord k cause = s.raise k cause (s.word p) := by
  simp [State.raiseWord, h]

/-- What delivery to the supervisor leaves of the process. -/
theorem deliverToSupervisor_proc (s : State) (k : Nat) (p : Proc) (cause : Nat) (v : Word) (epc : BitVec 16) (j : Nat) :
    (s.deliverToSupervisor k p cause v epc).proc j = if j = k then some { p.endGroup with
      st := .trapped, wait := .none, ecause := BitVec.ofNat 8 cause, epc := epc, pc := epc, eval := v, deadline := 0, vcheck := p.vact } else s.proc j := by
  unfold State.deliverToSupervisor State.queueNote
  simp only
  rw [after_proc]
  exact proc_putProc ..

theorem deliverToSupervisor_rest (s : State) (k : Nat) (p : Proc) (cause : Nat) (v : Word) (epc : BitVec 16) :
    { s.deliverToSupervisor k p cause v epc with procs := s.procs, agenda := s.agenda, heldNotes := s.heldNotes } = s := rfl

/-- An exception changes its process, its slot, the events in flight and the notifications under way. -/
theorem raise_rest (s : State) (k cause : Nat) (v : Word) :
    { s.raise k cause v with procs := s.procs, slots := s.slots, agenda := s.agenda, heldNotes := s.heldNotes } = s := by
  unfold State.raise State.raiseAt
  split
  · split
    · rfl
    · split
      · rfl
      · split <;> rfl
  · rfl

theorem memOk_raise {s : State} (h : s.MemOk) (k cause : Nat) (v : Word) : (s.raise k cause v).MemOk :=
  memOk_of_mem h (congrArg State.mem (raise_rest s k cause v) : _)

/-! ### Sources that are not there (03 R50) -/

/-- The first field whose register is empty and that traps: EMPTY with its number and register. -/
theorem issue_empty {s : State} {k : Nat} {p : Proc} {fs : List Field} {dsts : List Reg} {v : Word} (h : s.readFields p fs dsts = .empty v)
    (go : List Word → BitVec 16 → State) : s.issue k p fs dsts go = s.raise k causeEmpty v := by
  simp [State.issue, h]

/-- An instruction whose result comes later issues while fewer than three producers of its register are outstanding (05 R104). -/
theorem issueFill_ok {s : State} {k : Nat} {p : Proc} {fs : List Field} {vals : List Word} {d : Reg} (hg : s.Gives p fs vals)
    (ht : s.Takes p [d]) (ho : d ≠ 0 → (p.cell d).out < 3) (go : List Word → BitVec 16 → State) :
    s.issueFill k p fs d go = go vals (consumeMask p fs) := by
  unfold State.issueFill
  rw [issue_ok hg (by intro r hr; split at hr; exact absurd hr (by simp); exact ht r hr)]
  by_cases hd : d = 0
  · simp [hd]
  · have := ho hd
    simp only [hd, ne_eq, not_false_eq_true, true_and, Nat.not_le.2 this, if_false]

/-! ### Producers and fills (05 R104) -/

/-- A producer of a register that is no bound port, without ONCE. -/
theorem produce_plain {s : State} {k : Nat} {p : Proc} {r : Reg} (h : s.proc k = some p) (hr : p.portOf r = none) (ho : p.onceOn = false) :
    s.produce k r = s.putProc k (p.produce r) := by
  simp [State.produce, State.produceAs, h, hr, ho]

theorem produce_cell (p : Proc) (r q : Reg) : (p.produce r).cell q =
    if q = r ∧ r ≠ 0 then { p.cell r with full := false, pend := true, tag := (p.cell r).tag + 1, out := (p.cell r).out + 1 } else p.cell q :=
  cell_putCell ..

/-- A fill for a process that waits for nothing writes its register if it still has the fill's tag pending; nothing else of the process changes but its
outstanding loads. -/
theorem fill_plain {s : State} {f : FillTo} {k : Nat} {p : Proc} (h : s.named f.name = some (k, p)) (hw : p.awaits f = false) (hn : p.wait = .none)
    (hr : p.portOf f.reg = none) (ho : s.onceDue = []) (v : Word) :
    fill f v s = s.putProc k { p.fill f.reg f.tag v with loads := p.loads.erase (f.reg, f.tag) } := by
  simp only [fill, State.fillReg, State.modNamed, h, hw, hr, ho, hn, List.find?_nil, Bool.false_and, Bool.false_eq_true, if_false]

end Sys2Proof.Machine
end

