-- ==== Sys2Proof/Laws/PerInstr.lean ====
section
/-! SUPPORT. The statements made of every instruction as syntax, with a lemma for each constructor: the encoded word of a well-formed
instruction decodes to it. -/

namespace Sys2Proof.Laws.RoundTrip

/-- The word of a well-formed instruction decodes to the instruction. -/
def Statement (i : Instr) : Prop := i.isWord = true → i.WellFormed → decodeNat (encodeNat i) = some i

/-! ### Words as lists of fields -/

/-- The number that fields make, lowest first, each with its width. -/
def cat : List (Nat × Nat) → Nat
  | [] => 0
  | (w, v) :: ps => v + 2 ^ w * cat ps

/-- Every field is below its width's bound. -/
def Fits : List (Nat × Nat) → Prop
  | [] => True
  | (w, v) :: ps => v < 2 ^ w ∧ Fits ps

/-- Where the i-th field starts, its width, and its value. -/
def off : List (Nat × Nat) → Nat → Nat
  | (w, _) :: ps, i + 1 => w + off ps i
  | _, _ => 0
def wid (ps : List (Nat × Nat)) (i : Nat) : Nat := (ps.getD i (0, 0)).1
def val (ps : List (Nat × Nat)) (i : Nat) : Nat := (ps.getD i (0, 0)).2

theorem fld_cat (ps : List (Nat × Nat)) (h : Fits ps) (i : Nat) : fld (cat ps) (off ps i) (wid ps i) = val ps i := by
  induction ps generalizing i with
  | nil => simp [cat, off, wid, val, fld, Nat.mod_one]
  | cons p ps ih =>
    obtain ⟨w, v⟩ := p
    cases i with
    | zero => simp [cat, off, wid, val, fld, Nat.mod_eq_of_lt h.1]
    | succ i =>
      have := ih h.2 i
      simp only [wid, val, List.getD_cons_succ, cat, off, fld] at *
      rw [pow_add, ← Nat.div_div_eq_div_mul, Nat.add_mul_div_left _ _ (by positivity), Nat.div_eq_of_lt h.1, Nat.zero_add]
      exact this

theorem cat_lt (ps : List (Nat × Nat)) (h : Fits ps) : cat ps < 2 ^ off (ps ++ [(0, 0)]) ps.length := by
  induction ps with
  | nil => simp [cat, off]
  | cons p ps ih =>
    obtain ⟨w, v⟩ := p
    have := ih h.2
    have hv : v < 2 ^ w := h.1
    simp only [cat, List.length_cons, List.cons_append, off, pow_add]
    calc v + 2 ^ w * cat ps < 2 ^ w + 2 ^ w * cat ps := by omega
      _ = 2 ^ w * (cat ps + 1) := by ring
      _ ≤ _ := Nat.mul_le_mul_left _ this

/-- A part of a field. -/
theorem fld_part {n lo w v : Nat} (i j : Nat) (h : fld n lo w = v) (k : i + j ≤ w) : fld n (lo + i) j = v / 2 ^ i % 2 ^ j := by
  subst h
  apply Nat.eq_of_testBit_eq
  intro b
  simp only [fld, Nat.testBit_mod_two_pow, Nat.testBit_div_two_pow]
  by_cases hb : b < j
  · simp [hb, show b + i < w by omega, show b + (lo + i) = b + i + lo by omega]
  · simp [hb]

theorem cat_nil : cat [] = 0 := rfl
theorem cat_cons (w v : Nat) (ps : List (Nat × Nat)) : cat ((w, v) :: ps) = v + 2 ^ w * cat ps := rfl
theorem pack_cons (c x : Nat) (xs : List Nat) : pack c (x :: xs) = pack (c + x) xs := rfl
theorem pack_nil (c : Nat) : pack c [] = c := rfl
theorem encFld_eq {w : Nat} (x : BitVec w) (l : Nat) : encFld x l = x.toNat * 2 ^ l := rfl
theorem encSrc_eq (x : Src) (l m : Nat) : encSrc x l m = x.reg.toNat * 2 ^ l + x.mode.toNat * 2 ^ m := rfl
theorem encSplit_eq {w : Nat} (x : BitVec w) (k l1 l0 : Nat) :
    encSplit x k l1 l0 = x.toNat / 2 ^ k * 2 ^ l1 + x.toNat % 2 ^ k * 2 ^ l0 := rfl

/-- A row that is not the word's is passed over. -/
theorem skip {α : Type} {n lo w v u : Nat} {a b x : α} (h : fld n lo w = v) (d : v ≠ u) (k : b = x) :
    (if fld n lo w = u then a else b) = x := by rw [if_neg (by rw [h]; exact d)]; exact k

theorem bits_eq {n lo w : Nat} {x : BitVec w} (h : fld n lo w = x.toNat) : bits n lo w = x := by
  apply BitVec.eq_of_toNat_eq
  simp [bits, h]

theorem src_eq {n l m : Nat} {x : Src} (h : fld n l 4 = x.reg.toNat) (k : fld n m 2 = x.mode.toNat) :
    (⟨bits n l 4, bits n m 2⟩ : Src) = x := by
  rw [bits_eq h, bits_eq k]

theorem major_of {n m : Nat} (lt : n < 2 ^ 32) (h : fld n 26 6 = m) : n / 2 ^ 26 = m := by
  unfold fld at h; omega

/-- An 11-bit field in two pieces. -/
theorem split_eq {n : Nat} {x : BitVec 11} (h : fld n 10 6 = x.toNat / 2 ^ 5) (k : fld n 0 5 = x.toNat % 2 ^ 5) :
    BitVec.ofNat 11 (fld n 10 6 * 2 ^ 5 + fld n 0 5) = x := by
  apply BitVec.eq_of_toNat_eq
  have := x.isLt
  rw [h, k, BitVec.toNat_ofNat]; omega

/-- An instruction decodes from the fields of its word. -/
theorem of_cat {i : Instr} {w : Nat} {ps : List (Nat × Nat)} (ok : Fits ps) (e : encodeNat i = w) (c : w = cat ps)
    (k : ∀ N, (∀ j, fld N (off ps j) (wid ps j) = val ps j) → N < 2 ^ off (ps ++ [(0, 0)]) ps.length → decodeRaw N = some i)
    (l : off (ps ++ [(0, 0)]) ps.length = 32) : Statement i := by
  intro _ h
  rw [e, c]
  have lt := cat_lt ps ok
  have r := k (cat ps) (fld_cat ps ok) lt
  rw [l] at lt
  unfold decodeNat; rw [if_pos lt, r]; simp only [h, if_true]

/-- An event has no word. -/
theorem of_event {i : Instr} (h : encodeNat i = 0) : Statement i := by
  intro w; simp [Instr.isWord, h] at w

theorem raw01 {n : Nat} (m : n / 2 ^ 26 = 0x01) : decodeRaw n = decodeMajor01 n := by
  delta decodeRaw; rw [m]; rfl

theorem raw02 {n : Nat} (m : n / 2 ^ 26 = 0x02) : decodeRaw n = decodeMajor02 n := by
  delta decodeRaw; rw [m]; rfl

theorem raw03 {n : Nat} (m : n / 2 ^ 26 = 0x03) : decodeRaw n = decodeMajor03 n := by
  delta decodeRaw; rw [m]; rfl

theorem raw04 {n : Nat} (m : n / 2 ^ 26 = 0x04) : decodeRaw n = decodeMajor04 n := by
  delta decodeRaw; rw [m]; rfl

theorem raw05 {n : Nat} (m : n / 2 ^ 26 = 0x05) : decodeRaw n = decodeMajor05 n := by
  delta decodeRaw; rw [m]; rfl

theorem raw06 {n : Nat} (m : n / 2 ^ 26 = 0x06) : decodeRaw n = decodeMajor06 n := by
  delta decodeRaw; rw [m]; rfl

theorem raw07 {n : Nat} (m : n / 2 ^ 26 = 0x07) : decodeRaw n = decodeMajor07 n := by
  delta decodeRaw; rw [m]; rfl

theorem raw08 {n : Nat} (m : n / 2 ^ 26 = 0x08) : decodeRaw n = decodeMajor08 n := by
  delta decodeRaw; rw [m]; rfl

theorem raw09 {n : Nat} (m : n / 2 ^ 26 = 0x09) : decodeRaw n = decodeMajor09 n := by
  delta decodeRaw; rw [m]; rfl

theorem raw0A {n : Nat} (m : n / 2 ^ 26 = 0x0A) : decodeRaw n = decodeMajor0A n := by
  delta decodeRaw; rw [m]; rfl

theorem raw0B {n : Nat} (m : n / 2 ^ 26 = 0x0B) : decodeRaw n = decodeMajor0B n := by
  delta decodeRaw; rw [m]; rfl

theorem raw10 {n : Nat} (m : n / 2 ^ 26 = 0x10) : decodeRaw n = decodeMajor10 n := by
  delta decodeRaw; rw [m]; rfl

theorem raw11 {n : Nat} (m : n / 2 ^ 26 = 0x11) : decodeRaw n = decodeMajor11 n := by
  delta decodeRaw; rw [m]; rfl

theorem raw12 {n : Nat} (m : n / 2 ^ 26 = 0x12) : decodeRaw n = decodeMajor12 n := by
  delta decodeRaw; rw [m]; rfl

theorem raw13 {n : Nat} (m : n / 2 ^ 26 = 0x13) : decodeRaw n = decodeMajor13 n := by
  delta decodeRaw; rw [m]; rfl

theorem raw14 {n : Nat} (m : n / 2 ^ 26 = 0x14) : decodeRaw n = decodeMajor14 n := by
  delta decodeRaw; rw [m]; rfl

theorem raw15 {n : Nat} (m : n / 2 ^ 26 = 0x15) : decodeRaw n = decodeMajor15 n := by
  delta decodeRaw; rw [m]; rfl

theorem raw16 {n : Nat} (m : n / 2 ^ 26 = 0x16) : decodeRaw n = decodeMajor16 n := by
  delta decodeRaw; rw [m]; rfl

theorem raw18 {n : Nat} (m : n / 2 ^ 26 = 0x18) : decodeRaw n = decodeMajor18 n := by
  delta decodeRaw; rw [m]; rfl

theorem raw19 {n : Nat} (m : n / 2 ^ 26 = 0x19) : decodeRaw n = decodeMajor19 n := by
  delta decodeRaw; rw [m]; rfl

theorem raw1A {n : Nat} (m : n / 2 ^ 26 = 0x1A) : decodeRaw n = decodeMajor1A n := by
  delta decodeRaw; rw [m]; rfl

theorem raw1B {n : Nat} (m : n / 2 ^ 26 = 0x1B) : decodeRaw n = decodeMajor1B n := by
  delta decodeRaw; rw [m]; rfl

theorem raw1C {n : Nat} (m : n / 2 ^ 26 = 0x1C) : decodeRaw n = decodeMajor1C n := by
  delta decodeRaw; rw [m]; rfl

theorem raw1D {n : Nat} (m : n / 2 ^ 26 = 0x1D) : decodeRaw n = decodeMajor1D n := by
  delta decodeRaw; rw [m]; rfl

theorem raw1E {n : Nat} (m : n / 2 ^ 26 = 0x1E) : decodeRaw n = decodeMajor1E n := by
  delta decodeRaw; rw [m]; rfl

theorem raw20 {n : Nat} (m : n / 2 ^ 26 = 0x20) : decodeRaw n = decodeMajor20 n := by
  delta decodeRaw; rw [m]; rfl

theorem raw21 {n : Nat} (m : n / 2 ^ 26 = 0x21) : decodeRaw n = decodeMajor21 n := by
  delta decodeRaw; rw [m]; rfl

theorem raw23 {n : Nat} (m : n / 2 ^ 26 = 0x23) : decodeRaw n = decodeMajor23 n := by
  delta decodeRaw; rw [m]; rfl

theorem raw24 {n : Nat} (m : n / 2 ^ 26 = 0x24) : decodeRaw n = decodeMajor24 n := by
  delta decodeRaw; rw [m]; rfl

theorem raw25 {n : Nat} (m : n / 2 ^ 26 = 0x25) : decodeRaw n = decodeMajor25 n := by
  delta decodeRaw; rw [m]; rfl

theorem raw26 {n : Nat} (m : n / 2 ^ 26 = 0x26) : decodeRaw n = decodeMajor26 n := by
  delta decodeRaw; rw [m]; rfl

theorem raw27 {n : Nat} (m : n / 2 ^ 26 = 0x27) : decodeRaw n = decodeMajor27 n := by
  delta decodeRaw; rw [m]; rfl

theorem raw28 {n : Nat} (m : n / 2 ^ 26 = 0x28) : decodeRaw n = decodeMajor28 n := by
  delta decodeRaw; rw [m]; rfl

theorem raw29 {n : Nat} (m : n / 2 ^ 26 = 0x29) : decodeRaw n = decodeMajor29 n := by
  delta decodeRaw; rw [m]; rfl

theorem raw2A {n : Nat} (m : n / 2 ^ 26 = 0x2A) : decodeRaw n = decodeMajor2A n := by
  delta decodeRaw; rw [m]; rfl

theorem raw2B {n : Nat} (m : n / 2 ^ 26 = 0x2B) : decodeRaw n = decodeMajor2B n := by
  delta decodeRaw; rw [m]; rfl

theorem raw2C {n : Nat} (m : n / 2 ^ 26 = 0x2C) : decodeRaw n = decodeMajor2C n := by
  delta decodeRaw; rw [m]; rfl

theorem raw2D {n : Nat} (m : n / 2 ^ 26 = 0x2D) : decodeRaw n = decodeMajor2D n := by
  delta decodeRaw; rw [m]; rfl

theorem raw2E {n : Nat} (m : n / 2 ^ 26 = 0x2E) : decodeRaw n = decodeMajor2E n := by
  delta decodeRaw; rw [m]; rfl

theorem raw30 {n : Nat} (m : n / 2 ^ 26 = 0x30) : decodeRaw n = decodeMajor30 n := by
  delta decodeRaw; rw [m]; rfl

theorem raw31 {n : Nat} (m : n / 2 ^ 26 = 0x31) : decodeRaw n = decodeMajor31 n := by
  delta decodeRaw; rw [m]; rfl

theorem raw32 {n : Nat} (m : n / 2 ^ 26 = 0x32) : decodeRaw n = decodeMajor32 n := by
  delta decodeRaw; rw [m]; rfl

theorem raw34 {n : Nat} (m : n / 2 ^ 26 = 0x34) : decodeRaw n = decodeMajor34 n := by
  delta decodeRaw; rw [m]; rfl

theorem raw36 {n : Nat} (m : n / 2 ^ 26 = 0x36) : decodeRaw n = decodeMajor36 n := by
  delta decodeRaw; rw [m]; rfl

theorem raw38 {n : Nat} (m : n / 2 ^ 26 = 0x38) : decodeRaw n = decodeMajor38 n := by
  delta decodeRaw; rw [m]; rfl

theorem raw39 {n : Nat} (m : n / 2 ^ 26 = 0x39) : decodeRaw n = decodeMajor39 n := by
  delta decodeRaw; rw [m]; rfl

theorem raw3D {n : Nat} (m : n / 2 ^ 26 = 0x3D) : decodeRaw n = decodeMajor3D n := by
  delta decodeRaw; rw [m]; rfl

theorem add (d : BitVec 4) (a : Src) (b : Src) : Statement (.add d a b) := by
  refine of_cat (w := pack 0x04000000 [encFld d 22, encSrc a 18 16, encSrc b 12 10]) (ps := [(10, 0x0), (2, b.mode.toNat), (4, b.reg.toNat), (2, a.mode.toNat), (4, a.reg.toNat), (4, d.toNat), (6, 0x1)])
    ⟨by decide, b.mode.isLt, b.reg.isLt, a.mode.isLt, a.reg.isLt, d.isLt, by decide, trivial⟩ rfl ?_ (fun N F lt => ?_) rfl
  · rw [pack_cons, pack_cons, pack_cons, pack_nil, encFld_eq, encSrc_eq, encSrc_eq]; simp only [cat_cons, cat_nil]; omega
  rw [raw01 (major_of lt (F 6))]
  delta decodeMajor01
  have f0_10 : fld N 0 10 = 0x0 := F 0
  refine (if_pos f0_10).trans ?_
  rw [show bits N 22 4 = d from bits_eq (F 5)]
  rw [show (⟨bits N 18 4, bits N 16 2⟩ : Src) = a from src_eq (F 4) (F 3)]
  rw [show (⟨bits N 12 4, bits N 10 2⟩ : Src) = b from src_eq (F 2) (F 1)]

theorem sub (d : BitVec 4) (a : Src) (b : Src) : Statement (.sub d a b) := by
  refine of_cat (w := pack 0x04000001 [encFld d 22, encSrc a 18 16, encSrc b 12 10]) (ps := [(10, 0x1), (2, b.mode.toNat), (4, b.reg.toNat), (2, a.mode.toNat), (4, a.reg.toNat), (4, d.toNat), (6, 0x1)])
    ⟨by decide, b.mode.isLt, b.reg.isLt, a.mode.isLt, a.reg.isLt, d.isLt, by decide, trivial⟩ rfl ?_ (fun N F lt => ?_) rfl
  · rw [pack_cons, pack_cons, pack_cons, pack_nil, encFld_eq, encSrc_eq, encSrc_eq]; simp only [cat_cons, cat_nil]; omega
  rw [raw01 (major_of lt (F 6))]
  delta decodeMajor01
  have f0_10 : fld N 0 10 = 0x1 := F 0
  refine skip f0_10 (by decide) ?_
  refine (if_pos f0_10).trans ?_
  rw [show bits N 22 4 = d from bits_eq (F 5)]
  rw [show (⟨bits N 18 4, bits N 16 2⟩ : Src) = a from src_eq (F 4) (F 3)]
  rw [show (⟨bits N 12 4, bits N 10 2⟩ : Src) = b from src_eq (F 2) (F 1)]

theorem and (d : BitVec 4) (a : Src) (b : Src) : Statement (.and d a b) := by
  refine of_cat (w := pack 0x04000002 [encFld d 22, encSrc a 18 16, encSrc b 12 10]) (ps := [(10, 0x2), (2, b.mode.toNat), (4, b.reg.toNat), (2, a.mode.toNat), (4, a.reg.toNat), (4, d.toNat), (6, 0x1)])
    ⟨by decide, b.mode.isLt, b.reg.isLt, a.mode.isLt, a.reg.isLt, d.isLt, by decide, trivial⟩ rfl ?_ (fun N F lt => ?_) rfl
  · rw [pack_cons, pack_cons, pack_cons, pack_nil, encFld_eq, encSrc_eq, encSrc_eq]; simp only [cat_cons, cat_nil]; omega
  rw [raw01 (major_of lt (F 6))]
  delta decodeMajor01
  have f0_10 : fld N 0 10 = 0x2 := F 0
  refine skip f0_10 (by decide) ?_
  refine skip f0_10 (by decide) ?_
  refine (if_pos f0_10).trans ?_
  rw [show bits N 22 4 = d from bits_eq (F 5)]
  rw [show (⟨bits N 18 4, bits N 16 2⟩ : Src) = a from src_eq (F 4) (F 3)]
  rw [show (⟨bits N 12 4, bits N 10 2⟩ : Src) = b from src_eq (F 2) (F 1)]

theorem or (d : BitVec 4) (a : Src) (b : Src) : Statement (.or d a b) := by
  refine of_cat (w := pack 0x04000003 [encFld d 22, encSrc a 18 16, encSrc b 12 10]) (ps := [(10, 0x3), (2, b.mode.toNat), (4, b.reg.toNat), (2, a.mode.toNat), (4, a.reg.toNat), (4, d.toNat), (6, 0x1)])
    ⟨by decide, b.mode.isLt, b.reg.isLt, a.mode.isLt, a.reg.isLt, d.isLt, by decide, trivial⟩ rfl ?_ (fun N F lt => ?_) rfl
  · rw [pack_cons, pack_cons, pack_cons, pack_nil, encFld_eq, encSrc_eq, encSrc_eq]; simp only [cat_cons, cat_nil]; omega
  rw [raw01 (major_of lt (F 6))]
  delta decodeMajor01
  have f0_10 : fld N 0 10 = 0x3 := F 0
  refine skip f0_10 (by decide) ?_
  refine skip f0_10 (by decide) ?_
  refine skip f0_10 (by decide) ?_
  refine (if_pos f0_10).trans ?_
  rw [show bits N 22 4 = d from bits_eq (F 5)]
  rw [show (⟨bits N 18 4, bits N 16 2⟩ : Src) = a from src_eq (F 4) (F 3)]
  rw [show (⟨bits N 12 4, bits N 10 2⟩ : Src) = b from src_eq (F 2) (F 1)]

theorem xor (d : BitVec 4) (a : Src) (b : Src) : Statement (.xor d a b) := by
  refine of_cat (w := pack 0x04000004 [encFld d 22, encSrc a 18 16, encSrc b 12 10]) (ps := [(10, 0x4), (2, b.mode.toNat), (4, b.reg.toNat), (2, a.mode.toNat), (4, a.reg.toNat), (4, d.toNat), (6, 0x1)])
    ⟨by decide, b.mode.isLt, b.reg.isLt, a.mode.isLt, a.reg.isLt, d.isLt, by decide, trivial⟩ rfl ?_ (fun N F lt => ?_) rfl
  · rw [pack_cons, pack_cons, pack_cons, pack_nil, encFld_eq, encSrc_eq, encSrc_eq]; simp only [cat_cons, cat_nil]; omega
  rw [raw01 (major_of lt (F 6))]
  delta decodeMajor01
  have f0_10 : fld N 0 10 = 0x4 := F 0
  refine skip f0_10 (by decide) ?_
  refine skip f0_10 (by decide) ?_
  refine skip f0_10 (by decide) ?_
  refine skip f0_10 (by decide) ?_
  refine (if_pos f0_10).trans ?_
  rw [show bits N 22 4 = d from bits_eq (F 5)]
  rw [show (⟨bits N 18 4, bits N 16 2⟩ : Src) = a from src_eq (F 4) (F 3)]
  rw [show (⟨bits N 12 4, bits N 10 2⟩ : Src) = b from src_eq (F 2) (F 1)]

theorem andn (d : BitVec 4) (a : Src) (b : Src) : Statement (.andn d a b) := by
  refine of_cat (w := pack 0x04000005 [encFld d 22, encSrc a 18 16, encSrc b 12 10]) (ps := [(10, 0x5), (2, b.mode.toNat), (4, b.reg.toNat), (2, a.mode.toNat), (4, a.reg.toNat), (4, d.toNat), (6, 0x1)])
    ⟨by decide, b.mode.isLt, b.reg.isLt, a.mode.isLt, a.reg.isLt, d.isLt, by decide, trivial⟩ rfl ?_ (fun N F lt => ?_) rfl
  · rw [pack_cons, pack_cons, pack_cons, pack_nil, encFld_eq, encSrc_eq, encSrc_eq]; simp only [cat_cons, cat_nil]; omega
  rw [raw01 (major_of lt (F 6))]
  delta decodeMajor01
  have f0_10 : fld N 0 10 = 0x5 := F 0
  refine skip f0_10 (by decide) ?_
  refine skip f0_10 (by decide) ?_
  refine skip f0_10 (by decide) ?_
  refine skip f0_10 (by decide) ?_
  refine skip f0_10 (by decide) ?_
  refine (if_pos f0_10).trans ?_
  rw [show bits N 22 4 = d from bits_eq (F 5)]
  rw [show (⟨bits N 18 4, bits N 16 2⟩ : Src) = a from src_eq (F 4) (F 3)]
  rw [show (⟨bits N 12 4, bits N 10 2⟩ : Src) = b from src_eq (F 2) (F 1)]

theorem shl (d : BitVec 4) (a : Src) (b : Src) : Statement (.shl d a b) := by
  refine of_cat (w := pack 0x04000006 [encFld d 22, encSrc a 18 16, encSrc b 12 10]) (ps := [(10, 0x6), (2, b.mode.toNat), (4, b.reg.toNat), (2, a.mode.toNat), (4, a.reg.toNat), (4, d.toNat), (6, 0x1)])
    ⟨by decide, b.mode.isLt, b.reg.isLt, a.mode.isLt, a.reg.isLt, d.isLt, by decide, trivial⟩ rfl ?_ (fun N F lt => ?_) rfl
  · rw [pack_cons, pack_cons, pack_cons, pack_nil, encFld_eq, encSrc_eq, encSrc_eq]; simp only [cat_cons, cat_nil]; omega
  rw [raw01 (major_of lt (F 6))]
  delta decodeMajor01
  have f0_10 : fld N 0 10 = 0x6 := F 0
  refine skip f0_10 (by decide) ?_
  refine skip f0_10 (by decide) ?_
  refine skip f0_10 (by decide) ?_
  refine skip f0_10 (by decide) ?_
  refine skip f0_10 (by decide) ?_
  refine skip f0_10 (by decide) ?_
  refine (if_pos f0_10).trans ?_
  rw [show bits N 22 4 = d from bits_eq (F 5)]
  rw [show (⟨bits N 18 4, bits N 16 2⟩ : Src) = a from src_eq (F 4) (F 3)]
  rw [show (⟨bits N 12 4, bits N 10 2⟩ : Src) = b from src_eq (F 2) (F 1)]

theorem shr (d : BitVec 4) (a : Src) (b : Src) : Statement (.shr d a b) := by
  refine of_cat (w := pack 0x04000007 [encFld d 22, encSrc a 18 16, encSrc b 12 10]) (ps := [(10, 0x7), (2, b.mode.toNat), (4, b.reg.toNat), (2, a.mode.toNat), (4, a.reg.toNat), (4, d.toNat), (6, 0x1)])
    ⟨by decide, b.mode.isLt, b.reg.isLt, a.mode.isLt, a.reg.isLt, d.isLt, by decide, trivial⟩ rfl ?_ (fun N F lt => ?_) rfl
  · rw [pack_cons, pack_cons, pack_cons, pack_nil, encFld_eq, encSrc_eq, encSrc_eq]; simp only [cat_cons, cat_nil]; omega
  rw [raw01 (major_of lt (F 6))]
  delta decodeMajor01
  have f0_10 : fld N 0 10 = 0x7 := F 0
  refine skip f0_10 (by decide) ?_
  refine skip f0_10 (by decide) ?_
  refine skip f0_10 (by decide) ?_
  refine skip f0_10 (by decide) ?_
  refine skip f0_10 (by decide) ?_
  refine skip f0_10 (by decide) ?_
  refine skip f0_10 (by decide) ?_
  refine (if_pos f0_10).trans ?_
  rw [show bits N 22 4 = d from bits_eq (F 5)]
  rw [show (⟨bits N 18 4, bits N 16 2⟩ : Src) = a from src_eq (F 4) (F 3)]
  rw [show (⟨bits N 12 4, bits N 10 2⟩ : Src) = b from src_eq (F 2) (F 1)]

theorem sra (d : BitVec 4) (a : Src) (b : Src) : Statement (.sra d a b) := by
  refine of_cat (w := pack 0x04000008 [encFld d 22, encSrc a 18 16, encSrc b 12 10]) (ps := [(10, 0x8), (2, b.mode.toNat), (4, b.reg.toNat), (2, a.mode.toNat), (4, a.reg.toNat), (4, d.toNat), (6, 0x1)])
    ⟨by decide, b.mode.isLt, b.reg.isLt, a.mode.isLt, a.reg.isLt, d.isLt, by decide, trivial⟩ rfl ?_ (fun N F lt => ?_) rfl
  · rw [pack_cons, pack_cons, pack_cons, pack_nil, encFld_eq, encSrc_eq, encSrc_eq]; simp only [cat_cons, cat_nil]; omega
  rw [raw01 (major_of lt (F 6))]
  delta decodeMajor01
  have f0_10 : fld N 0 10 = 0x8 := F 0
  refine skip f0_10 (by decide) ?_
  refine skip f0_10 (by decide) ?_
  refine skip f0_10 (by decide) ?_
  refine skip f0_10 (by decide) ?_
  refine skip f0_10 (by decide) ?_
  refine skip f0_10 (by decide) ?_
  refine skip f0_10 (by decide) ?_
  refine skip f0_10 (by decide) ?_
  refine (if_pos f0_10).trans ?_
  rw [show bits N 22 4 = d from bits_eq (F 5)]
  rw [show (⟨bits N 18 4, bits N 16 2⟩ : Src) = a from src_eq (F 4) (F 3)]
  rw [show (⟨bits N 12 4, bits N 10 2⟩ : Src) = b from src_eq (F 2) (F 1)]

theorem rol (d : BitVec 4) (a : Src) (b : Src) : Statement (.rol d a b) := by
  refine of_cat (w := pack 0x04000009 [encFld d 22, encSrc a 18 16, encSrc b 12 10]) (ps := [(10, 0x9), (2, b.mode.toNat), (4, b.reg.toNat), (2, a.mode.toNat), (4, a.reg.toNat), (4, d.toNat), (6, 0x1)])
    ⟨by decide, b.mode.isLt, b.reg.isLt, a.mode.isLt, a.reg.isLt, d.isLt, by decide, trivial⟩ rfl ?_ (fun N F lt => ?_) rfl
  · rw [pack_cons, pack_cons, pack_cons, pack_nil, encFld_eq, encSrc_eq, encSrc_eq]; simp only [cat_cons, cat_nil]; omega
  rw [raw01 (major_of lt (F 6))]
  delta decodeMajor01
  have f0_10 : fld N 0 10 = 0x9 := F 0
  refine skip f0_10 (by decide) ?_
  refine skip f0_10 (by decide) ?_
  refine skip f0_10 (by decide) ?_
  refine skip f0_10 (by decide) ?_
  refine skip f0_10 (by decide) ?_
  refine skip f0_10 (by decide) ?_
  refine skip f0_10 (by decide) ?_
  refine skip f0_10 (by decide) ?_
  refine skip f0_10 (by decide) ?_
  refine (if_pos f0_10).trans ?_
  rw [show bits N 22 4 = d from bits_eq (F 5)]
  rw [show (⟨bits N 18 4, bits N 16 2⟩ : Src) = a from src_eq (F 4) (F 3)]
  rw [show (⟨bits N 12 4, bits N 10 2⟩ : Src) = b from src_eq (F 2) (F 1)]

theorem mul (d : BitVec 4) (a : Src) (b : Src) : Statement (.mul d a b) := by
  refine of_cat (w := pack 0x0400000A [encFld d 22, encSrc a 18 16, encSrc b 12 10]) (ps := [(10, 0xA), (2, b.mode.toNat), (4, b.reg.toNat), (2, a.mode.toNat), (4, a.reg.toNat), (4, d.toNat), (6, 0x1)])
    ⟨by decide, b.mode.isLt, b.reg.isLt, a.mode.isLt, a.reg.isLt, d.isLt, by decide, trivial⟩ rfl ?_ (fun N F lt => ?_) rfl
  · rw [pack_cons, pack_cons, pack_cons, pack_nil, encFld_eq, encSrc_eq, encSrc_eq]; simp only [cat_cons, cat_nil]; omega
  rw [raw01 (major_of lt (F 6))]
  delta decodeMajor01
  have f0_10 : fld N 0 10 = 0xA := F 0
  refine skip f0_10 (by decide) ?_
  refine skip f0_10 (by decide) ?_
  refine skip f0_10 (by decide) ?_
  refine skip f0_10 (by decide) ?_
  refine skip f0_10 (by decide) ?_
  refine skip f0_10 (by decide) ?_
  refine skip f0_10 (by decide) ?_
  refine skip f0_10 (by decide) ?_
  refine skip f0_10 (by decide) ?_
  refine skip f0_10 (by decide) ?_
  refine (if_pos f0_10).trans ?_
  rw [show bits N 22 4 = d from bits_eq (F 5)]
  rw [show (⟨bits N 18 4, bits N 16 2⟩ : Src) = a from src_eq (F 4) (F 3)]
  rw [show (⟨bits N 12 4, bits N 10 2⟩ : Src) = b from src_eq (F 2) (F 1)]

theorem mulh (d : BitVec 4) (a : Src) (b : Src) : Statement (.mulh d a b) := by
  refine of_cat (w := pack 0x0400000B [encFld d 22, encSrc a 18 16, encSrc b 12 10]) (ps := [(10, 0xB), (2, b.mode.toNat), (4, b.reg.toNat), (2, a.mode.toNat), (4, a.reg.toNat), (4, d.toNat), (6, 0x1)])
    ⟨by decide, b.mode.isLt, b.reg.isLt, a.mode.isLt, a.reg.isLt, d.isLt, by decide, trivial⟩ rfl ?_ (fun N F lt => ?_) rfl
  · rw [pack_cons, pack_cons, pack_cons, pack_nil, encFld_eq, encSrc_eq, encSrc_eq]; simp only [cat_cons, cat_nil]; omega
  rw [raw01 (major_of lt (F 6))]
  delta decodeMajor01
  have f0_10 : fld N 0 10 = 0xB := F 0
  refine skip f0_10 (by decide) ?_
  refine skip f0_10 (by decide) ?_
  refine skip f0_10 (by decide) ?_
  refine skip f0_10 (by decide) ?_
  refine skip f0_10 (by decide) ?_
  refine skip f0_10 (by decide) ?_
  refine skip f0_10 (by decide) ?_
  refine skip f0_10 (by decide) ?_
  refine skip f0_10 (by decide) ?_
  refine skip f0_10 (by decide) ?_
  refine skip f0_10 (by decide) ?_
  refine (if_pos f0_10).trans ?_
  rw [show bits N 22 4 = d from bits_eq (F 5)]
  rw [show (⟨bits N 18 4, bits N 16 2⟩ : Src) = a from src_eq (F 4) (F 3)]
  rw [show (⟨bits N 12 4, bits N 10 2⟩ : Src) = b from src_eq (F 2) (F 1)]

theorem mulhu (d : BitVec 4) (a : Src) (b : Src) : Statement (.mulhu d a b) := by
  refine of_cat (w := pack 0x0400000C [encFld d 22, encSrc a 18 16, encSrc b 12 10]) (ps := [(10, 0xC), (2, b.mode.toNat), (4, b.reg.toNat), (2, a.mode.toNat), (4, a.reg.toNat), (4, d.toNat), (6, 0x1)])
    ⟨by decide, b.mode.isLt, b.reg.isLt, a.mode.isLt, a.reg.isLt, d.isLt, by decide, trivial⟩ rfl ?_ (fun N F lt => ?_) rfl
  · rw [pack_cons, pack_cons, pack_cons, pack_nil, encFld_eq, encSrc_eq, encSrc_eq]; simp only [cat_cons, cat_nil]; omega
  rw [raw01 (major_of lt (F 6))]
  delta decodeMajor01
  have f0_10 : fld N 0 10 = 0xC := F 0
  refine skip f0_10 (by decide) ?_
  refine skip f0_10 (by decide) ?_
  refine skip f0_10 (by decide) ?_
  refine skip f0_10 (by decide) ?_
  refine skip f0_10 (by decide) ?_
  refine skip f0_10 (by decide) ?_
  refine skip f0_10 (by decide) ?_
  refine skip f0_10 (by decide) ?_
  refine skip f0_10 (by decide) ?_
  refine skip f0_10 (by decide) ?_
  refine skip f0_10 (by decide) ?_
  refine skip f0_10 (by decide) ?_
  refine (if_pos f0_10).trans ?_
  rw [show bits N 22 4 = d from bits_eq (F 5)]
  rw [show (⟨bits N 18 4, bits N 16 2⟩ : Src) = a from src_eq (F 4) (F 3)]
  rw [show (⟨bits N 12 4, bits N 10 2⟩ : Src) = b from src_eq (F 2) (F 1)]

theorem div (d : BitVec 4) (a : Src) (b : Src) : Statement (.div d a b) := by
  refine of_cat (w := pack 0x0400000D [encFld d 22, encSrc a 18 16, encSrc b 12 10]) (ps := [(10, 0xD), (2, b.mode.toNat), (4, b.reg.toNat), (2, a.mode.toNat), (4, a.reg.toNat), (4, d.toNat), (6, 0x1)])
    ⟨by decide, b.mode.isLt, b.reg.isLt, a.mode.isLt, a.reg.isLt, d.isLt, by decide, trivial⟩ rfl ?_ (fun N F lt => ?_) rfl
  · rw [pack_cons, pack_cons, pack_cons, pack_nil, encFld_eq, encSrc_eq, encSrc_eq]; simp only [cat_cons, cat_nil]; omega
  rw [raw01 (major_of lt (F 6))]
  delta decodeMajor01
  have f0_10 : fld N 0 10 = 0xD := F 0
  refine skip f0_10 (by decide) ?_
  refine skip f0_10 (by decide) ?_
  refine skip f0_10 (by decide) ?_
  refine skip f0_10 (by decide) ?_
  refine skip f0_10 (by decide) ?_
  refine skip f0_10 (by decide) ?_
  refine skip f0_10 (by decide) ?_
  refine skip f0_10 (by decide) ?_
  refine skip f0_10 (by decide) ?_
  refine skip f0_10 (by decide) ?_
  refine skip f0_10 (by decide) ?_
  refine skip f0_10 (by decide) ?_
  refine skip f0_10 (by decide) ?_
  refine (if_pos f0_10).trans ?_
  rw [show bits N 22 4 = d from bits_eq (F 5)]
  rw [show (⟨bits N 18 4, bits N 16 2⟩ : Src) = a from src_eq (F 4) (F 3)]
  rw [show (⟨bits N 12 4, bits N 10 2⟩ : Src) = b from src_eq (F 2) (F 1)]

theorem divu (d : BitVec 4) (a : Src) (b : Src) : Statement (.divu d a b) := by
  refine of_cat (w := pack 0x0400000E [encFld d 22, encSrc a 18 16, encSrc b 12 10]) (ps := [(10, 0xE), (2, b.mode.toNat), (4, b.reg.toNat), (2, a.mode.toNat), (4, a.reg.toNat), (4, d.toNat), (6, 0x1)])
    ⟨by decide, b.mode.isLt, b.reg.isLt, a.mode.isLt, a.reg.isLt, d.isLt, by decide, trivial⟩ rfl ?_ (fun N F lt => ?_) rfl
  · rw [pack_cons, pack_cons, pack_cons, pack_nil, encFld_eq, encSrc_eq, encSrc_eq]; simp only [cat_cons, cat_nil]; omega
  rw [raw01 (major_of lt (F 6))]
  delta decodeMajor01
  have f0_10 : fld N 0 10 = 0xE := F 0
  refine skip f0_10 (by decide) ?_
  refine skip f0_10 (by decide) ?_
  refine skip f0_10 (by decide) ?_
  refine skip f0_10 (by decide) ?_
  refine skip f0_10 (by decide) ?_
  refine skip f0_10 (by decide) ?_
  refine skip f0_10 (by decide) ?_
  refine skip f0_10 (by decide) ?_
  refine skip f0_10 (by decide) ?_
  refine skip f0_10 (by decide) ?_
  refine skip f0_10 (by decide) ?_
  refine skip f0_10 (by decide) ?_
  refine skip f0_10 (by decide) ?_
  refine skip f0_10 (by decide) ?_
  refine (if_pos f0_10).trans ?_
  rw [show bits N 22 4 = d from bits_eq (F 5)]
  rw [show (⟨bits N 18 4, bits N 16 2⟩ : Src) = a from src_eq (F 4) (F 3)]
  rw [show (⟨bits N 12 4, bits N 10 2⟩ : Src) = b from src_eq (F 2) (F 1)]

theorem rem (d : BitVec 4) (a : Src) (b : Src) : Statement (.rem d a b) := by
  refine of_cat (w := pack 0x0400000F [encFld d 22, encSrc a 18 16, encSrc b 12 10]) (ps := [(10, 0xF), (2, b.mode.toNat), (4, b.reg.toNat), (2, a.mode.toNat), (4, a.reg.toNat), (4, d.toNat), (6, 0x1)])
    ⟨by decide, b.mode.isLt, b.reg.isLt, a.mode.isLt, a.reg.isLt, d.isLt, by decide, trivial⟩ rfl ?_ (fun N F lt => ?_) rfl
  · rw [pack_cons, pack_cons, pack_cons, pack_nil, encFld_eq, encSrc_eq, encSrc_eq]; simp only [cat_cons, cat_nil]; omega
  rw [raw01 (major_of lt (F 6))]
  delta decodeMajor01
  have f0_10 : fld N 0 10 = 0xF := F 0
  refine skip f0_10 (by decide) ?_
  refine skip f0_10 (by decide) ?_
  refine skip f0_10 (by decide) ?_
  refine skip f0_10 (by decide) ?_
  refine skip f0_10 (by decide) ?_
  refine skip f0_10 (by decide) ?_
  refine skip f0_10 (by decide) ?_
  refine skip f0_10 (by decide) ?_
  refine skip f0_10 (by decide) ?_
  refine skip f0_10 (by decide) ?_
  refine skip f0_10 (by decide) ?_
  refine skip f0_10 (by decide) ?_
  refine skip f0_10 (by decide) ?_
  refine skip f0_10 (by decide) ?_
  refine skip f0_10 (by decide) ?_
  refine (if_pos f0_10).trans ?_
  rw [show bits N 22 4 = d from bits_eq (F 5)]
  rw [show (⟨bits N 18 4, bits N 16 2⟩ : Src) = a from src_eq (F 4) (F 3)]
  rw [show (⟨bits N 12 4, bits N 10 2⟩ : Src) = b from src_eq (F 2) (F 1)]

theorem remu (d : BitVec 4) (a : Src) (b : Src) : Statement (.remu d a b) := by
  refine of_cat (w := pack 0x04000010 [encFld d 22, encSrc a 18 16, encSrc b 12 10]) (ps := [(10, 0x10), (2, b.mode.toNat), (4, b.reg.toNat), (2, a.mode.toNat), (4, a.reg.toNat), (4, d.toNat), (6, 0x1)])
    ⟨by decide, b.mode.isLt, b.reg.isLt, a.mode.isLt, a.reg.isLt, d.isLt, by decide, trivial⟩ rfl ?_ (fun N F lt => ?_) rfl
  · rw [pack_cons, pack_cons, pack_cons, pack_nil, encFld_eq, encSrc_eq, encSrc_eq]; simp only [cat_cons, cat_nil]; omega
  rw [raw01 (major_of lt (F 6))]
  delta decodeMajor01
  have f0_10 : fld N 0 10 = 0x10 := F 0
  refine skip f0_10 (by decide) ?_
  refine skip f0_10 (by decide) ?_
  refine skip f0_10 (by decide) ?_
  refine skip f0_10 (by decide) ?_
  refine skip f0_10 (by decide) ?_
  refine skip f0_10 (by decide) ?_
  refine skip f0_10 (by decide) ?_
  refine skip f0_10 (by decide) ?_
  refine skip f0_10 (by decide) ?_
  refine skip f0_10 (by decide) ?_
  refine skip f0_10 (by decide) ?_
  refine skip f0_10 (by decide) ?_
  refine skip f0_10 (by decide) ?_
  refine skip f0_10 (by decide) ?_
  refine skip f0_10 (by decide) ?_
  refine skip f0_10 (by decide) ?_
  refine (if_pos f0_10).trans ?_
  rw [show bits N 22 4 = d from bits_eq (F 5)]
  rw [show (⟨bits N 18 4, bits N 16 2⟩ : Src) = a from src_eq (F 4) (F 3)]
  rw [show (⟨bits N 12 4, bits N 10 2⟩ : Src) = b from src_eq (F 2) (F 1)]

theorem min (d : BitVec 4) (a : Src) (b : Src) : Statement (.min d a b) := by
  refine of_cat (w := pack 0x04000011 [encFld d 22, encSrc a 18 16, encSrc b 12 10]) (ps := [(10, 0x11), (2, b.mode.toNat), (4, b.reg.toNat), (2, a.mode.toNat), (4, a.reg.toNat), (4, d.toNat), (6, 0x1)])
    ⟨by decide, b.mode.isLt, b.reg.isLt, a.mode.isLt, a.reg.isLt, d.isLt, by decide, trivial⟩ rfl ?_ (fun N F lt => ?_) rfl
  · rw [pack_cons, pack_cons, pack_cons, pack_nil, encFld_eq, encSrc_eq, encSrc_eq]; simp only [cat_cons, cat_nil]; omega
  rw [raw01 (major_of lt (F 6))]
  delta decodeMajor01
  have f0_10 : fld N 0 10 = 0x11 := F 0
  refine skip f0_10 (by decide) ?_
  refine skip f0_10 (by decide) ?_
  refine skip f0_10 (by decide) ?_
  refine skip f0_10 (by decide) ?_
  refine skip f0_10 (by decide) ?_
  refine skip f0_10 (by decide) ?_
  refine skip f0_10 (by decide) ?_
  refine skip f0_10 (by decide) ?_
  refine skip f0_10 (by decide) ?_
  refine skip f0_10 (by decide) ?_
  refine skip f0_10 (by decide) ?_
  refine skip f0_10 (by decide) ?_
  refine skip f0_10 (by decide) ?_
  refine skip f0_10 (by decide) ?_
  refine skip f0_10 (by decide) ?_
  refine skip f0_10 (by decide) ?_
  refine skip f0_10 (by decide) ?_
  refine (if_pos f0_10).trans ?_
  rw [show bits N 22 4 = d from bits_eq (F 5)]
  rw [show (⟨bits N 18 4, bits N 16 2⟩ : Src) = a from src_eq (F 4) (F 3)]
  rw [show (⟨bits N 12 4, bits N 10 2⟩ : Src) = b from src_eq (F 2) (F 1)]

theorem max (d : BitVec 4) (a : Src) (b : Src) : Statement (.max d a b) := by
  refine of_cat (w := pack 0x04000012 [encFld d 22, encSrc a 18 16, encSrc b 12 10]) (ps := [(10, 0x12), (2, b.mode.toNat), (4, b.reg.toNat), (2, a.mode.toNat), (4, a.reg.toNat), (4, d.toNat), (6, 0x1)])
    ⟨by decide, b.mode.isLt, b.reg.isLt, a.mode.isLt, a.reg.isLt, d.isLt, by decide, trivial⟩ rfl ?_ (fun N F lt => ?_) rfl
  · rw [pack_cons, pack_cons, pack_cons, pack_nil, encFld_eq, encSrc_eq, encSrc_eq]; simp only [cat_cons, cat_nil]; omega
  rw [raw01 (major_of lt (F 6))]
  delta decodeMajor01
  have f0_10 : fld N 0 10 = 0x12 := F 0
  refine skip f0_10 (by decide) ?_
  refine skip f0_10 (by decide) ?_
  refine skip f0_10 (by decide) ?_
  refine skip f0_10 (by decide) ?_
  refine skip f0_10 (by decide) ?_
  refine skip f0_10 (by decide) ?_
  refine skip f0_10 (by decide) ?_
  refine skip f0_10 (by decide) ?_
  refine skip f0_10 (by decide) ?_
  refine skip f0_10 (by decide) ?_
  refine skip f0_10 (by decide) ?_
  refine skip f0_10 (by decide) ?_
  refine skip f0_10 (by decide) ?_
  refine skip f0_10 (by decide) ?_
  refine skip f0_10 (by decide) ?_
  refine skip f0_10 (by decide) ?_
  refine skip f0_10 (by decide) ?_
  refine skip f0_10 (by decide) ?_
  refine (if_pos f0_10).trans ?_
  rw [show bits N 22 4 = d from bits_eq (F 5)]
  rw [show (⟨bits N 18 4, bits N 16 2⟩ : Src) = a from src_eq (F 4) (F 3)]
  rw [show (⟨bits N 12 4, bits N 10 2⟩ : Src) = b from src_eq (F 2) (F 1)]

theorem minu (d : BitVec 4) (a : Src) (b : Src) : Statement (.minu d a b) := by
  refine of_cat (w := pack 0x04000013 [encFld d 22, encSrc a 18 16, encSrc b 12 10]) (ps := [(10, 0x13), (2, b.mode.toNat), (4, b.reg.toNat), (2, a.mode.toNat), (4, a.reg.toNat), (4, d.toNat), (6, 0x1)])
    ⟨by decide, b.mode.isLt, b.reg.isLt, a.mode.isLt, a.reg.isLt, d.isLt, by decide, trivial⟩ rfl ?_ (fun N F lt => ?_) rfl
  · rw [pack_cons, pack_cons, pack_cons, pack_nil, encFld_eq, encSrc_eq, encSrc_eq]; simp only [cat_cons, cat_nil]; omega
  rw [raw01 (major_of lt (F 6))]
  delta decodeMajor01
  have f0_10 : fld N 0 10 = 0x13 := F 0
  refine skip f0_10 (by decide) ?_
  refine skip f0_10 (by decide) ?_
  refine skip f0_10 (by decide) ?_
  refine skip f0_10 (by decide) ?_
  refine skip f0_10 (by decide) ?_
  refine skip f0_10 (by decide) ?_
  refine skip f0_10 (by decide) ?_
  refine skip f0_10 (by decide) ?_
  refine skip f0_10 (by decide) ?_
  refine skip f0_10 (by decide) ?_
  refine skip f0_10 (by decide) ?_
  refine skip f0_10 (by decide) ?_
  refine skip f0_10 (by decide) ?_
  refine skip f0_10 (by decide) ?_
  refine skip f0_10 (by decide) ?_
  refine skip f0_10 (by decide) ?_
  refine skip f0_10 (by decide) ?_
  refine skip f0_10 (by decide) ?_
  refine skip f0_10 (by decide) ?_
  refine (if_pos f0_10).trans ?_
  rw [show bits N 22 4 = d from bits_eq (F 5)]
  rw [show (⟨bits N 18 4, bits N 16 2⟩ : Src) = a from src_eq (F 4) (F 3)]
  rw [show (⟨bits N 12 4, bits N 10 2⟩ : Src) = b from src_eq (F 2) (F 1)]

theorem maxu (d : BitVec 4) (a : Src) (b : Src) : Statement (.maxu d a b) := by
  refine of_cat (w := pack 0x04000014 [encFld d 22, encSrc a 18 16, encSrc b 12 10]) (ps := [(10, 0x14), (2, b.mode.toNat), (4, b.reg.toNat), (2, a.mode.toNat), (4, a.reg.toNat), (4, d.toNat), (6, 0x1)])
    ⟨by decide, b.mode.isLt, b.reg.isLt, a.mode.isLt, a.reg.isLt, d.isLt, by decide, trivial⟩ rfl ?_ (fun N F lt => ?_) rfl
  · rw [pack_cons, pack_cons, pack_cons, pack_nil, encFld_eq, encSrc_eq, encSrc_eq]; simp only [cat_cons, cat_nil]; omega
  rw [raw01 (major_of lt (F 6))]
  delta decodeMajor01
  have f0_10 : fld N 0 10 = 0x14 := F 0
  refine skip f0_10 (by decide) ?_
  refine skip f0_10 (by decide) ?_
  refine skip f0_10 (by decide) ?_
  refine skip f0_10 (by decide) ?_
  refine skip f0_10 (by decide) ?_
  refine skip f0_10 (by decide) ?_
  refine skip f0_10 (by decide) ?_
  refine skip f0_10 (by decide) ?_
  refine skip f0_10 (by decide) ?_
  refine skip f0_10 (by decide) ?_
  refine skip f0_10 (by decide) ?_
  refine skip f0_10 (by decide) ?_
  refine skip f0_10 (by decide) ?_
  refine skip f0_10 (by decide) ?_
  refine skip f0_10 (by decide) ?_
  refine skip f0_10 (by decide) ?_
  refine skip f0_10 (by decide) ?_
  refine skip f0_10 (by decide) ?_
  refine skip f0_10 (by decide) ?_
  refine skip f0_10 (by decide) ?_
  refine (if_pos f0_10).trans ?_
  rw [show bits N 22 4 = d from bits_eq (F 5)]
  rw [show (⟨bits N 18 4, bits N 16 2⟩ : Src) = a from src_eq (F 4) (F 3)]
  rw [show (⟨bits N 12 4, bits N 10 2⟩ : Src) = b from src_eq (F 2) (F 1)]

theorem clz (d : BitVec 4) (a : Src) : Statement (.clz d a) := by
  refine of_cat (w := pack 0x04000015 [encFld d 22, encSrc a 18 16]) (ps := [(16, 0x15), (2, a.mode.toNat), (4, a.reg.toNat), (4, d.toNat), (6, 0x1)])
    ⟨by decide, a.mode.isLt, a.reg.isLt, d.isLt, by decide, trivial⟩ rfl ?_ (fun N F lt => ?_) rfl
  · rw [pack_cons, pack_cons, pack_nil, encFld_eq, encSrc_eq]; simp only [cat_cons, cat_nil]; omega
  rw [raw01 (major_of lt (F 4))]
  delta decodeMajor01
  have f0_16 : fld N 0 16 = 0x15 := F 0
  refine skip (fld_part 0 10 f0_16 (by decide)) (by decide) ?_
  refine skip (fld_part 0 10 f0_16 (by decide)) (by decide) ?_
  refine skip (fld_part 0 10 f0_16 (by decide)) (by decide) ?_
  refine skip (fld_part 0 10 f0_16 (by decide)) (by decide) ?_
  refine skip (fld_part 0 10 f0_16 (by decide)) (by decide) ?_
  refine skip (fld_part 0 10 f0_16 (by decide)) (by decide) ?_
  refine skip (fld_part 0 10 f0_16 (by decide)) (by decide) ?_
  refine skip (fld_part 0 10 f0_16 (by decide)) (by decide) ?_
  refine skip (fld_part 0 10 f0_16 (by decide)) (by decide) ?_
  refine skip (fld_part 0 10 f0_16 (by decide)) (by decide) ?_
  refine skip (fld_part 0 10 f0_16 (by decide)) (by decide) ?_
  refine skip (fld_part 0 10 f0_16 (by decide)) (by decide) ?_
  refine skip (fld_part 0 10 f0_16 (by decide)) (by decide) ?_
  refine skip (fld_part 0 10 f0_16 (by decide)) (by decide) ?_
  refine skip (fld_part 0 10 f0_16 (by decide)) (by decide) ?_
  refine skip (fld_part 0 10 f0_16 (by decide)) (by decide) ?_
  refine skip (fld_part 0 10 f0_16 (by decide)) (by decide) ?_
  refine skip (fld_part 0 10 f0_16 (by decide)) (by decide) ?_
  refine skip (fld_part 0 10 f0_16 (by decide)) (by decide) ?_
  refine skip (fld_part 0 10 f0_16 (by decide)) (by decide) ?_
  refine skip (fld_part 0 10 f0_16 (by decide)) (by decide) ?_
  refine (if_pos f0_16).trans ?_
  rw [show bits N 22 4 = d from bits_eq (F 3)]
  rw [show (⟨bits N 18 4, bits N 16 2⟩ : Src) = a from src_eq (F 2) (F 1)]

theorem ctz (d : BitVec 4) (a : Src) : Statement (.ctz d a) := by
  refine of_cat (w := pack 0x04000016 [encFld d 22, encSrc a 18 16]) (ps := [(16, 0x16), (2, a.mode.toNat), (4, a.reg.toNat), (4, d.toNat), (6, 0x1)])
    ⟨by decide, a.mode.isLt, a.reg.isLt, d.isLt, by decide, trivial⟩ rfl ?_ (fun N F lt => ?_) rfl
  · rw [pack_cons, pack_cons, pack_nil, encFld_eq, encSrc_eq]; simp only [cat_cons, cat_nil]; omega
  rw [raw01 (major_of lt (F 4))]
  delta decodeMajor01
  have f0_16 : fld N 0 16 = 0x16 := F 0
  refine skip (fld_part 0 10 f0_16 (by decide)) (by decide) ?_
  refine skip (fld_part 0 10 f0_16 (by decide)) (by decide) ?_
  refine skip (fld_part 0 10 f0_16 (by decide)) (by decide) ?_
  refine skip (fld_part 0 10 f0_16 (by decide)) (by decide) ?_
  refine skip (fld_part 0 10 f0_16 (by decide)) (by decide) ?_
  refine skip (fld_part 0 10 f0_16 (by decide)) (by decide) ?_
  refine skip (fld_part 0 10 f0_16 (by decide)) (by decide) ?_
  refine skip (fld_part 0 10 f0_16 (by decide)) (by decide) ?_
  refine skip (fld_part 0 10 f0_16 (by decide)) (by decide) ?_
  refine skip (fld_part 0 10 f0_16 (by decide)) (by decide) ?_
  refine skip (fld_part 0 10 f0_16 (by decide)) (by decide) ?_
  refine skip (fld_part 0 10 f0_16 (by decide)) (by decide) ?_
  refine skip (fld_part 0 10 f0_16 (by decide)) (by decide) ?_
  refine skip (fld_part 0 10 f0_16 (by decide)) (by decide) ?_
  refine skip (fld_part 0 10 f0_16 (by decide)) (by decide) ?_
  refine skip (fld_part 0 10 f0_16 (by decide)) (by decide) ?_
  refine skip (fld_part 0 10 f0_16 (by decide)) (by decide) ?_
  refine skip (fld_part 0 10 f0_16 (by decide)) (by decide) ?_
  refine skip (fld_part 0 10 f0_16 (by decide)) (by decide) ?_
  refine skip (fld_part 0 10 f0_16 (by decide)) (by decide) ?_
  refine skip (fld_part 0 10 f0_16 (by decide)) (by decide) ?_
  refine skip f0_16 (by decide) ?_
  refine (if_pos f0_16).trans ?_
  rw [show bits N 22 4 = d from bits_eq (F 3)]
  rw [show (⟨bits N 18 4, bits N 16 2⟩ : Src) = a from src_eq (F 2) (F 1)]

theorem popc (d : BitVec 4) (a : Src) : Statement (.popc d a) := by
  refine of_cat (w := pack 0x04000017 [encFld d 22, encSrc a 18 16]) (ps := [(16, 0x17), (2, a.mode.toNat), (4, a.reg.toNat), (4, d.toNat), (6, 0x1)])
    ⟨by decide, a.mode.isLt, a.reg.isLt, d.isLt, by decide, trivial⟩ rfl ?_ (fun N F lt => ?_) rfl
  · rw [pack_cons, pack_cons, pack_nil, encFld_eq, encSrc_eq]; simp only [cat_cons, cat_nil]; omega
  rw [raw01 (major_of lt (F 4))]
  delta decodeMajor01
  have f0_16 : fld N 0 16 = 0x17 := F 0
  refine skip (fld_part 0 10 f0_16 (by decide)) (by decide) ?_
  refine skip (fld_part 0 10 f0_16 (by decide)) (by decide) ?_
  refine skip (fld_part 0 10 f0_16 (by decide)) (by decide) ?_
  refine skip (fld_part 0 10 f0_16 (by decide)) (by decide) ?_
  refine skip (fld_part 0 10 f0_16 (by decide)) (by decide) ?_
  refine skip (fld_part 0 10 f0_16 (by decide)) (by decide) ?_
  refine skip (fld_part 0 10 f0_16 (by decide)) (by decide) ?_
  refine skip (fld_part 0 10 f0_16 (by decide)) (by decide) ?_
  refine skip (fld_part 0 10 f0_16 (by decide)) (by decide) ?_
  refine skip (fld_part 0 10 f0_16 (by decide)) (by decide) ?_
  refine skip (fld_part 0 10 f0_16 (by decide)) (by decide) ?_
  refine skip (fld_part 0 10 f0_16 (by decide)) (by decide) ?_
  refine skip (fld_part 0 10 f0_16 (by decide)) (by decide) ?_
  refine skip (fld_part 0 10 f0_16 (by decide)) (by decide) ?_
  refine skip (fld_part 0 10 f0_16 (by decide)) (by decide) ?_
  refine skip (fld_part 0 10 f0_16 (by decide)) (by decide) ?_
  refine skip (fld_part 0 10 f0_16 (by decide)) (by decide) ?_
  refine skip (fld_part 0 10 f0_16 (by decide)) (by decide) ?_
  refine skip (fld_part 0 10 f0_16 (by decide)) (by decide) ?_
  refine skip (fld_part 0 10 f0_16 (by decide)) (by decide) ?_
  refine skip (fld_part 0 10 f0_16 (by decide)) (by decide) ?_
  refine skip f0_16 (by decide) ?_
  refine skip f0_16 (by decide) ?_
  refine (if_pos f0_16).trans ?_
  rw [show bits N 22 4 = d from bits_eq (F 3)]
  rw [show (⟨bits N 18 4, bits N 16 2⟩ : Src) = a from src_eq (F 2) (F 1)]

theorem bswap (d : BitVec 4) (a : Src) : Statement (.bswap d a) := by
  refine of_cat (w := pack 0x04000018 [encFld d 22, encSrc a 18 16]) (ps := [(16, 0x18), (2, a.mode.toNat), (4, a.reg.toNat), (4, d.toNat), (6, 0x1)])
    ⟨by decide, a.mode.isLt, a.reg.isLt, d.isLt, by decide, trivial⟩ rfl ?_ (fun N F lt => ?_) rfl
  · rw [pack_cons, pack_cons, pack_nil, encFld_eq, encSrc_eq]; simp only [cat_cons, cat_nil]; omega
  rw [raw01 (major_of lt (F 4))]
  delta decodeMajor01
  have f0_16 : fld N 0 16 = 0x18 := F 0
  refine skip (fld_part 0 10 f0_16 (by decide)) (by decide) ?_
  refine skip (fld_part 0 10 f0_16 (by decide)) (by decide) ?_
  refine skip (fld_part 0 10 f0_16 (by decide)) (by decide) ?_
  refine skip (fld_part 0 10 f0_16 (by decide)) (by decide) ?_
  refine skip (fld_part 0 10 f0_16 (by decide)) (by decide) ?_
  refine skip (fld_part 0 10 f0_16 (by decide)) (by decide) ?_
  refine skip (fld_part 0 10 f0_16 (by decide)) (by decide) ?_
  refine skip (fld_part 0 10 f0_16 (by decide)) (by decide) ?_
  refine skip (fld_part 0 10 f0_16 (by decide)) (by decide) ?_
  refine skip (fld_part 0 10 f0_16 (by decide)) (by decide) ?_
  refine skip (fld_part 0 10 f0_16 (by decide)) (by decide) ?_
  refine skip (fld_part 0 10 f0_16 (by decide)) (by decide) ?_
  refine skip (fld_part 0 10 f0_16 (by decide)) (by decide) ?_
  refine skip (fld_part 0 10 f0_16 (by decide)) (by decide) ?_
  refine skip (fld_part 0 10 f0_16 (by decide)) (by decide) ?_
  refine skip (fld_part 0 10 f0_16 (by decide)) (by decide) ?_
  refine skip (fld_part 0 10 f0_16 (by decide)) (by decide) ?_
  refine skip (fld_part 0 10 f0_16 (by decide)) (by decide) ?_
  refine skip (fld_part 0 10 f0_16 (by decide)) (by decide) ?_
  refine skip (fld_part 0 10 f0_16 (by decide)) (by decide) ?_
  refine skip (fld_part 0 10 f0_16 (by decide)) (by decide) ?_
  refine skip f0_16 (by decide) ?_
  refine skip f0_16 (by decide) ?_
  refine skip f0_16 (by decide) ?_
  refine (if_pos f0_16).trans ?_
  rw [show bits N 22 4 = d from bits_eq (F 3)]
  rw [show (⟨bits N 18 4, bits N 16 2⟩ : Src) = a from src_eq (F 2) (F 1)]

theorem sext (d : BitVec 4) (a : Src) (b : Src) : Statement (.sext d a b) := by
  refine of_cat (w := pack 0x04000019 [encFld d 22, encSrc a 18 16, encSrc b 12 10]) (ps := [(10, 0x19), (2, b.mode.toNat), (4, b.reg.toNat), (2, a.mode.toNat), (4, a.reg.toNat), (4, d.toNat), (6, 0x1)])
    ⟨by decide, b.mode.isLt, b.reg.isLt, a.mode.isLt, a.reg.isLt, d.isLt, by decide, trivial⟩ rfl ?_ (fun N F lt => ?_) rfl
  · rw [pack_cons, pack_cons, pack_cons, pack_nil, encFld_eq, encSrc_eq, encSrc_eq]; simp only [cat_cons, cat_nil]; omega
  rw [raw01 (major_of lt (F 6))]
  delta decodeMajor01
  have f0_10 : fld N 0 10 = 0x19 := F 0
  refine skip f0_10 (by decide) ?_
  refine skip f0_10 (by decide) ?_
  refine skip f0_10 (by decide) ?_
  refine skip f0_10 (by decide) ?_
  refine skip f0_10 (by decide) ?_
  refine skip f0_10 (by decide) ?_
  refine skip f0_10 (by decide) ?_
  refine skip f0_10 (by decide) ?_
  refine skip f0_10 (by decide) ?_
  refine skip f0_10 (by decide) ?_
  refine skip f0_10 (by decide) ?_
  refine skip f0_10 (by decide) ?_
  refine skip f0_10 (by decide) ?_
  refine skip f0_10 (by decide) ?_
  refine skip f0_10 (by decide) ?_
  refine skip f0_10 (by decide) ?_
  refine skip f0_10 (by decide) ?_
  refine skip f0_10 (by decide) ?_
  refine skip f0_10 (by decide) ?_
  refine skip f0_10 (by decide) ?_
  refine skip f0_10 (by decide) ?_
  refine (if_neg (fun h => absurd (f0_10.symm.trans (fld_part 0 10 h (by decide))) (by decide))).trans ?_
  refine (if_neg (fun h => absurd (f0_10.symm.trans (fld_part 0 10 h (by decide))) (by decide))).trans ?_
  refine (if_neg (fun h => absurd (f0_10.symm.trans (fld_part 0 10 h (by decide))) (by decide))).trans ?_
  refine (if_neg (fun h => absurd (f0_10.symm.trans (fld_part 0 10 h (by decide))) (by decide))).trans ?_
  refine (if_pos f0_10).trans ?_
  rw [show bits N 22 4 = d from bits_eq (F 5)]
  rw [show (⟨bits N 18 4, bits N 16 2⟩ : Src) = a from src_eq (F 4) (F 3)]
  rw [show (⟨bits N 12 4, bits N 10 2⟩ : Src) = b from src_eq (F 2) (F 1)]

theorem zext (d : BitVec 4) (a : Src) (b : Src) : Statement (.zext d a b) := by
  refine of_cat (w := pack 0x0400001A [encFld d 22, encSrc a 18 16, encSrc b 12 10]) (ps := [(10, 0x1A), (2, b.mode.toNat), (4, b.reg.toNat), (2, a.mode.toNat), (4, a.reg.toNat), (4, d.toNat), (6, 0x1)])
    ⟨by decide, b.mode.isLt, b.reg.isLt, a.mode.isLt, a.reg.isLt, d.isLt, by decide, trivial⟩ rfl ?_ (fun N F lt => ?_) rfl
  · rw [pack_cons, pack_cons, pack_cons, pack_nil, encFld_eq, encSrc_eq, encSrc_eq]; simp only [cat_cons, cat_nil]; omega
  rw [raw01 (major_of lt (F 6))]
  delta decodeMajor01
  have f0_10 : fld N 0 10 = 0x1A := F 0
  refine skip f0_10 (by decide) ?_
  refine skip f0_10 (by decide) ?_
  refine skip f0_10 (by decide) ?_
  refine skip f0_10 (by decide) ?_
  refine skip f0_10 (by decide) ?_
  refine skip f0_10 (by decide) ?_
  refine skip f0_10 (by decide) ?_
  refine skip f0_10 (by decide) ?_
  refine skip f0_10 (by decide) ?_
  refine skip f0_10 (by decide) ?_
  refine skip f0_10 (by decide) ?_
  refine skip f0_10 (by decide) ?_
  refine skip f0_10 (by decide) ?_
  refine skip f0_10 (by decide) ?_
  refine skip f0_10 (by decide) ?_
  refine skip f0_10 (by decide) ?_
  refine skip f0_10 (by decide) ?_
  refine skip f0_10 (by decide) ?_
  refine skip f0_10 (by decide) ?_
  refine skip f0_10 (by decide) ?_
  refine skip f0_10 (by decide) ?_
  refine (if_neg (fun h => absurd (f0_10.symm.trans (fld_part 0 10 h (by decide))) (by decide))).trans ?_
  refine (if_neg (fun h => absurd (f0_10.symm.trans (fld_part 0 10 h (by decide))) (by decide))).trans ?_
  refine (if_neg (fun h => absurd (f0_10.symm.trans (fld_part 0 10 h (by decide))) (by decide))).trans ?_
  refine (if_neg (fun h => absurd (f0_10.symm.trans (fld_part 0 10 h (by decide))) (by decide))).trans ?_
  refine skip f0_10 (by decide) ?_
  refine (if_pos f0_10).trans ?_
  rw [show bits N 22 4 = d from bits_eq (F 5)]
  rw [show (⟨bits N 18 4, bits N 16 2⟩ : Src) = a from src_eq (F 4) (F 3)]
  rw [show (⟨bits N 12 4, bits N 10 2⟩ : Src) = b from src_eq (F 2) (F 1)]

theorem seq (d : BitVec 4) (a : Src) (b : Src) : Statement (.seq d a b) := by
  refine of_cat (w := pack 0x0400001B [encFld d 22, encSrc a 18 16, encSrc b 12 10]) (ps := [(10, 0x1B), (2, b.mode.toNat), (4, b.reg.toNat), (2, a.mode.toNat), (4, a.reg.toNat), (4, d.toNat), (6, 0x1)])
    ⟨by decide, b.mode.isLt, b.reg.isLt, a.mode.isLt, a.reg.isLt, d.isLt, by decide, trivial⟩ rfl ?_ (fun N F lt => ?_) rfl
  · rw [pack_cons, pack_cons, pack_cons, pack_nil, encFld_eq, encSrc_eq, encSrc_eq]; simp only [cat_cons, cat_nil]; omega
  rw [raw01 (major_of lt (F 6))]
  delta decodeMajor01
  have f0_10 : fld N 0 10 = 0x1B := F 0
  refine skip f0_10 (by decide) ?_
  refine skip f0_10 (by decide) ?_
  refine skip f0_10 (by decide) ?_
  refine skip f0_10 (by decide) ?_
  refine skip f0_10 (by decide) ?_
  refine skip f0_10 (by decide) ?_
  refine skip f0_10 (by decide) ?_
  refine skip f0_10 (by decide) ?_
  refine skip f0_10 (by decide) ?_
  refine skip f0_10 (by decide) ?_
  refine skip f0_10 (by decide) ?_
  refine skip f0_10 (by decide) ?_
  refine skip f0_10 (by decide) ?_
  refine skip f0_10 (by decide) ?_
  refine skip f0_10 (by decide) ?_
  refine skip f0_10 (by decide) ?_
  refine skip f0_10 (by decide) ?_
  refine skip f0_10 (by decide) ?_
  refine skip f0_10 (by decide) ?_
  refine skip f0_10 (by decide) ?_
  refine skip f0_10 (by decide) ?_
  refine (if_neg (fun h => absurd (f0_10.symm.trans (fld_part 0 10 h (by decide))) (by decide))).trans ?_
  refine (if_neg (fun h => absurd (f0_10.symm.trans (fld_part 0 10 h (by decide))) (by decide))).trans ?_
  refine (if_neg (fun h => absurd (f0_10.symm.trans (fld_part 0 10 h (by decide))) (by decide))).trans ?_
  refine (if_neg (fun h => absurd (f0_10.symm.trans (fld_part 0 10 h (by decide))) (by decide))).trans ?_
  refine skip f0_10 (by decide) ?_
  refine skip f0_10 (by decide) ?_
  refine (if_pos f0_10).trans ?_
  rw [show bits N 22 4 = d from bits_eq (F 5)]
  rw [show (⟨bits N 18 4, bits N 16 2⟩ : Src) = a from src_eq (F 4) (F 3)]
  rw [show (⟨bits N 12 4, bits N 10 2⟩ : Src) = b from src_eq (F 2) (F 1)]

theorem sne (d : BitVec 4) (a : Src) (b : Src) : Statement (.sne d a b) := by
  refine of_cat (w := pack 0x0400001C [encFld d 22, encSrc a 18 16, encSrc b 12 10]) (ps := [(10, 0x1C), (2, b.mode.toNat), (4, b.reg.toNat), (2, a.mode.toNat), (4, a.reg.toNat), (4, d.toNat), (6, 0x1)])
    ⟨by decide, b.mode.isLt, b.reg.isLt, a.mode.isLt, a.reg.isLt, d.isLt, by decide, trivial⟩ rfl ?_ (fun N F lt => ?_) rfl
  · rw [pack_cons, pack_cons, pack_cons, pack_nil, encFld_eq, encSrc_eq, encSrc_eq]; simp only [cat_cons, cat_nil]; omega
  rw [raw01 (major_of lt (F 6))]
  delta decodeMajor01
  have f0_10 : fld N 0 10 = 0x1C := F 0
  refine skip f0_10 (by decide) ?_
  refine skip f0_10 (by decide) ?_
  refine skip f0_10 (by decide) ?_
  refine skip f0_10 (by decide) ?_
  refine skip f0_10 (by decide) ?_
  refine skip f0_10 (by decide) ?_
  refine skip f0_10 (by decide) ?_
  refine skip f0_10 (by decide) ?_
  refine skip f0_10 (by decide) ?_
  refine skip f0_10 (by decide) ?_
  refine skip f0_10 (by decide) ?_
  refine skip f0_10 (by decide) ?_
  refine skip f0_10 (by decide) ?_
  refine skip f0_10 (by decide) ?_
  refine skip f0_10 (by decide) ?_
  refine skip f0_10 (by decide) ?_
  refine skip f0_10 (by decide) ?_
  refine skip f0_10 (by decide) ?_
  refine skip f0_10 (by decide) ?_
  refine skip f0_10 (by decide) ?_
  refine skip f0_10 (by decide) ?_
  refine (if_neg (fun h => absurd (f0_10.symm.trans (fld_part 0 10 h (by decide))) (by decide))).trans ?_
  refine (if_neg (fun h => absurd (f0_10.symm.trans (fld_part 0 10 h (by decide))) (by decide))).trans ?_
  refine (if_neg (fun h => absurd (f0_10.symm.trans (fld_part 0 10 h (by decide))) (by decide))).trans ?_
  refine (if_neg (fun h => absurd (f0_10.symm.trans (fld_part 0 10 h (by decide))) (by decide))).trans ?_
  refine skip f0_10 (by decide) ?_
  refine skip f0_10 (by decide) ?_
  refine skip f0_10 (by decide) ?_
  refine (if_pos f0_10).trans ?_
  rw [show bits N 22 4 = d from bits_eq (F 5)]
  rw [show (⟨bits N 18 4, bits N 16 2⟩ : Src) = a from src_eq (F 4) (F 3)]
  rw [show (⟨bits N 12 4, bits N 10 2⟩ : Src) = b from src_eq (F 2) (F 1)]

theorem slt (d : BitVec 4) (a : Src) (b : Src) : Statement (.slt d a b) := by
  refine of_cat (w := pack 0x0400001D [encFld d 22, encSrc a 18 16, encSrc b 12 10]) (ps := [(10, 0x1D), (2, b.mode.toNat), (4, b.reg.toNat), (2, a.mode.toNat), (4, a.reg.toNat), (4, d.toNat), (6, 0x1)])
    ⟨by decide, b.mode.isLt, b.reg.isLt, a.mode.isLt, a.reg.isLt, d.isLt, by decide, trivial⟩ rfl ?_ (fun N F lt => ?_) rfl
  · rw [pack_cons, pack_cons, pack_cons, pack_nil, encFld_eq, encSrc_eq, encSrc_eq]; simp only [cat_cons, cat_nil]; omega
  rw [raw01 (major_of lt (F 6))]
  delta decodeMajor01
  have f0_10 : fld N 0 10 = 0x1D := F 0
  refine skip f0_10 (by decide) ?_
  refine skip f0_10 (by decide) ?_
  refine skip f0_10 (by decide) ?_
  refine skip f0_10 (by decide) ?_
  refine skip f0_10 (by decide) ?_
  refine skip f0_10 (by decide) ?_
  refine skip f0_10 (by decide) ?_
  refine skip f0_10 (by decide) ?_
  refine skip f0_10 (by decide) ?_
  refine skip f0_10 (by decide) ?_
  refine skip f0_10 (by decide) ?_
  refine skip f0_10 (by decide) ?_
  refine skip f0_10 (by decide) ?_
  refine skip f0_10 (by decide) ?_
  refine skip f0_10 (by decide) ?_
  refine skip f0_10 (by decide) ?_
  refine skip f0_10 (by decide) ?_
  refine skip f0_10 (by decide) ?_
  refine skip f0_10 (by decide) ?_
  refine skip f0_10 (by decide) ?_
  refine skip f0_10 (by decide) ?_
  refine (if_neg (fun h => absurd (f0_10.symm.trans (fld_part 0 10 h (by decide))) (by decide))).trans ?_
  refine (if_neg (fun h => absurd (f0_10.symm.trans (fld_part 0 10 h (by decide))) (by decide))).trans ?_
  refine (if_neg (fun h => absurd (f0_10.symm.trans (fld_part 0 10 h (by decide))) (by decide))).trans ?_
  refine (if_neg (fun h => absurd (f0_10.symm.trans (fld_part 0 10 h (by decide))) (by decide))).trans ?_
  refine skip f0_10 (by decide) ?_
  refine skip f0_10 (by decide) ?_
  refine skip f0_10 (by decide) ?_
  refine skip f0_10 (by decide) ?_
  refine (if_pos f0_10).trans ?_
  rw [show bits N 22 4 = d from bits_eq (F 5)]
  rw [show (⟨bits N 18 4, bits N 16 2⟩ : Src) = a from src_eq (F 4) (F 3)]
  rw [show (⟨bits N 12 4, bits N 10 2⟩ : Src) = b from src_eq (F 2) (F 1)]

theorem sltu (d : BitVec 4) (a : Src) (b : Src) : Statement (.sltu d a b) := by
  refine of_cat (w := pack 0x0400001E [encFld d 22, encSrc a 18 16, encSrc b 12 10]) (ps := [(10, 0x1E), (2, b.mode.toNat), (4, b.reg.toNat), (2, a.mode.toNat), (4, a.reg.toNat), (4, d.toNat), (6, 0x1)])
    ⟨by decide, b.mode.isLt, b.reg.isLt, a.mode.isLt, a.reg.isLt, d.isLt, by decide, trivial⟩ rfl ?_ (fun N F lt => ?_) rfl
  · rw [pack_cons, pack_cons, pack_cons, pack_nil, encFld_eq, encSrc_eq, encSrc_eq]; simp only [cat_cons, cat_nil]; omega
  rw [raw01 (major_of lt (F 6))]
  delta decodeMajor01
  have f0_10 : fld N 0 10 = 0x1E := F 0
  refine skip f0_10 (by decide) ?_
  refine skip f0_10 (by decide) ?_
  refine skip f0_10 (by decide) ?_
  refine skip f0_10 (by decide) ?_
  refine skip f0_10 (by decide) ?_
  refine skip f0_10 (by decide) ?_
  refine skip f0_10 (by decide) ?_
  refine skip f0_10 (by decide) ?_
  refine skip f0_10 (by decide) ?_
  refine skip f0_10 (by decide) ?_
  refine skip f0_10 (by decide) ?_
  refine skip f0_10 (by decide) ?_
  refine skip f0_10 (by decide) ?_
  refine skip f0_10 (by decide) ?_
  refine skip f0_10 (by decide) ?_
  refine skip f0_10 (by decide) ?_
  refine skip f0_10 (by decide) ?_
  refine skip f0_10 (by decide) ?_
  refine skip f0_10 (by decide) ?_
  refine skip f0_10 (by decide) ?_
  refine skip f0_10 (by decide) ?_
  refine (if_neg (fun h => absurd (f0_10.symm.trans (fld_part 0 10 h (by decide))) (by decide))).trans ?_
  refine (if_neg (fun h => absurd (f0_10.symm.trans (fld_part 0 10 h (by decide))) (by decide))).trans ?_
  refine (if_neg (fun h => absurd (f0_10.symm.trans (fld_part 0 10 h (by decide))) (by decide))).trans ?_
  refine (if_neg (fun h => absurd (f0_10.symm.trans (fld_part 0 10 h (by decide))) (by decide))).trans ?_
  refine skip f0_10 (by decide) ?_
  refine skip f0_10 (by decide) ?_
  refine skip f0_10 (by decide) ?_
  refine skip f0_10 (by decide) ?_
  refine skip f0_10 (by decide) ?_
  refine (if_pos f0_10).trans ?_
  rw [show bits N 22 4 = d from bits_eq (F 5)]
  rw [show (⟨bits N 18 4, bits N 16 2⟩ : Src) = a from src_eq (F 4) (F 3)]
  rw [show (⟨bits N 12 4, bits N 10 2⟩ : Src) = b from src_eq (F 2) (F 1)]

theorem sle (d : BitVec 4) (a : Src) (b : Src) : Statement (.sle d a b) := by
  refine of_cat (w := pack 0x0400001F [encFld d 22, encSrc a 18 16, encSrc b 12 10]) (ps := [(10, 0x1F), (2, b.mode.toNat), (4, b.reg.toNat), (2, a.mode.toNat), (4, a.reg.toNat), (4, d.toNat), (6, 0x1)])
    ⟨by decide, b.mode.isLt, b.reg.isLt, a.mode.isLt, a.reg.isLt, d.isLt, by decide, trivial⟩ rfl ?_ (fun N F lt => ?_) rfl
  · rw [pack_cons, pack_cons, pack_cons, pack_nil, encFld_eq, encSrc_eq, encSrc_eq]; simp only [cat_cons, cat_nil]; omega
  rw [raw01 (major_of lt (F 6))]
  delta decodeMajor01
  have f0_10 : fld N 0 10 = 0x1F := F 0
  refine skip f0_10 (by decide) ?_
  refine skip f0_10 (by decide) ?_
  refine skip f0_10 (by decide) ?_
  refine skip f0_10 (by decide) ?_
  refine skip f0_10 (by decide) ?_
  refine skip f0_10 (by decide) ?_
  refine skip f0_10 (by decide) ?_
  refine skip f0_10 (by decide) ?_
  refine skip f0_10 (by decide) ?_
  refine skip f0_10 (by decide) ?_
  refine skip f0_10 (by decide) ?_
  refine skip f0_10 (by decide) ?_
  refine skip f0_10 (by decide) ?_
  refine skip f0_10 (by decide) ?_
  refine skip f0_10 (by decide) ?_
  refine skip f0_10 (by decide) ?_
  refine skip f0_10 (by decide) ?_
  refine skip f0_10 (by decide) ?_
  refine skip f0_10 (by decide) ?_
  refine skip f0_10 (by decide) ?_
  refine skip f0_10 (by decide) ?_
  refine (if_neg (fun h => absurd (f0_10.symm.trans (fld_part 0 10 h (by decide))) (by decide))).trans ?_
  refine (if_neg (fun h => absurd (f0_10.symm.trans (fld_part 0 10 h (by decide))) (by decide))).trans ?_
  refine (if_neg (fun h => absurd (f0_10.symm.trans (fld_part 0 10 h (by decide))) (by decide))).trans ?_
  refine (if_neg (fun h => absurd (f0_10.symm.trans (fld_part 0 10 h (by decide))) (by decide))).trans ?_
  refine skip f0_10 (by decide) ?_
  refine skip f0_10 (by decide) ?_
  refine skip f0_10 (by decide) ?_
  refine skip f0_10 (by decide) ?_
  refine skip f0_10 (by decide) ?_
  refine skip f0_10 (by decide) ?_
  refine (if_pos f0_10).trans ?_
  rw [show bits N 22 4 = d from bits_eq (F 5)]
  rw [show (⟨bits N 18 4, bits N 16 2⟩ : Src) = a from src_eq (F 4) (F 3)]
  rw [show (⟨bits N 12 4, bits N 10 2⟩ : Src) = b from src_eq (F 2) (F 1)]

theorem sleu (d : BitVec 4) (a : Src) (b : Src) : Statement (.sleu d a b) := by
  refine of_cat (w := pack 0x04000020 [encFld d 22, encSrc a 18 16, encSrc b 12 10]) (ps := [(10, 0x20), (2, b.mode.toNat), (4, b.reg.toNat), (2, a.mode.toNat), (4, a.reg.toNat), (4, d.toNat), (6, 0x1)])
    ⟨by decide, b.mode.isLt, b.reg.isLt, a.mode.isLt, a.reg.isLt, d.isLt, by decide, trivial⟩ rfl ?_ (fun N F lt => ?_) rfl
  · rw [pack_cons, pack_cons, pack_cons, pack_nil, encFld_eq, encSrc_eq, encSrc_eq]; simp only [cat_cons, cat_nil]; omega
  rw [raw01 (major_of lt (F 6))]
  delta decodeMajor01
  have f0_10 : fld N 0 10 = 0x20 := F 0
  refine skip f0_10 (by decide) ?_
  refine skip f0_10 (by decide) ?_
  refine skip f0_10 (by decide) ?_
  refine skip f0_10 (by decide) ?_
  refine skip f0_10 (by decide) ?_
  refine skip f0_10 (by decide) ?_
  refine skip f0_10 (by decide) ?_
  refine skip f0_10 (by decide) ?_
  refine skip f0_10 (by decide) ?_
  refine skip f0_10 (by decide) ?_
  refine skip f0_10 (by decide) ?_
  refine skip f0_10 (by decide) ?_
  refine skip f0_10 (by decide) ?_
  refine skip f0_10 (by decide) ?_
  refine skip f0_10 (by decide) ?_
  refine skip f0_10 (by decide) ?_
  refine skip f0_10 (by decide) ?_
  refine skip f0_10 (by decide) ?_
  refine skip f0_10 (by decide) ?_
  refine skip f0_10 (by decide) ?_
  refine skip f0_10 (by decide) ?_
  refine (if_neg (fun h => absurd (f0_10.symm.trans (fld_part 0 10 h (by decide))) (by decide))).trans ?_
  refine (if_neg (fun h => absurd (f0_10.symm.trans (fld_part 0 10 h (by decide))) (by decide))).trans ?_
  refine (if_neg (fun h => absurd (f0_10.symm.trans (fld_part 0 10 h (by decide))) (by decide))).trans ?_
  refine (if_neg (fun h => absurd (f0_10.symm.trans (fld_part 0 10 h (by decide))) (by decide))).trans ?_
  refine skip f0_10 (by decide) ?_
  refine skip f0_10 (by decide) ?_
  refine skip f0_10 (by decide) ?_
  refine skip f0_10 (by decide) ?_
  refine skip f0_10 (by decide) ?_
  refine skip f0_10 (by decide) ?_
  refine skip f0_10 (by decide) ?_
  refine (if_pos f0_10).trans ?_
  rw [show bits N 22 4 = d from bits_eq (F 5)]
  rw [show (⟨bits N 18 4, bits N 16 2⟩ : Src) = a from src_eq (F 4) (F 3)]
  rw [show (⟨bits N 12 4, bits N 10 2⟩ : Src) = b from src_eq (F 2) (F 1)]

theorem addi (d : BitVec 4) (a : Src) (i : BitVec 16) : Statement (.addi d a i) := by
  refine of_cat (w := pack 0x08000000 [encFld d 22, encSrc a 18 16, encFld i 0]) (ps := [(16, i.toNat), (2, a.mode.toNat), (4, a.reg.toNat), (4, d.toNat), (6, 0x2)])
    ⟨i.isLt, a.mode.isLt, a.reg.isLt, d.isLt, by decide, trivial⟩ rfl ?_ (fun N F lt => ?_) rfl
  · rw [pack_cons, pack_cons, pack_cons, pack_nil, encFld_eq, encSrc_eq, encFld_eq]; simp only [cat_cons, cat_nil]; omega
  rw [raw02 (major_of lt (F 4))]
  delta decodeMajor02
  rw [show bits N 22 4 = d from bits_eq (F 3)]
  rw [show (⟨bits N 18 4, bits N 16 2⟩ : Src) = a from src_eq (F 2) (F 1)]
  rw [show bits N 0 16 = i from bits_eq (F 0)]

theorem andi (d : BitVec 4) (a : Src) (i : BitVec 16) : Statement (.andi d a i) := by
  refine of_cat (w := pack 0x0C000000 [encFld d 22, encSrc a 18 16, encFld i 0]) (ps := [(16, i.toNat), (2, a.mode.toNat), (4, a.reg.toNat), (4, d.toNat), (6, 0x3)])
    ⟨i.isLt, a.mode.isLt, a.reg.isLt, d.isLt, by decide, trivial⟩ rfl ?_ (fun N F lt => ?_) rfl
  · rw [pack_cons, pack_cons, pack_cons, pack_nil, encFld_eq, encSrc_eq, encFld_eq]; simp only [cat_cons, cat_nil]; omega
  rw [raw03 (major_of lt (F 4))]
  delta decodeMajor03
  rw [show bits N 22 4 = d from bits_eq (F 3)]
  rw [show (⟨bits N 18 4, bits N 16 2⟩ : Src) = a from src_eq (F 2) (F 1)]
  rw [show bits N 0 16 = i from bits_eq (F 0)]

theorem ori (d : BitVec 4) (a : Src) (i : BitVec 16) : Statement (.ori d a i) := by
  refine of_cat (w := pack 0x10000000 [encFld d 22, encSrc a 18 16, encFld i 0]) (ps := [(16, i.toNat), (2, a.mode.toNat), (4, a.reg.toNat), (4, d.toNat), (6, 0x4)])
    ⟨i.isLt, a.mode.isLt, a.reg.isLt, d.isLt, by decide, trivial⟩ rfl ?_ (fun N F lt => ?_) rfl
  · rw [pack_cons, pack_cons, pack_cons, pack_nil, encFld_eq, encSrc_eq, encFld_eq]; simp only [cat_cons, cat_nil]; omega
  rw [raw04 (major_of lt (F 4))]
  delta decodeMajor04
  rw [show bits N 22 4 = d from bits_eq (F 3)]
  rw [show (⟨bits N 18 4, bits N 16 2⟩ : Src) = a from src_eq (F 2) (F 1)]
  rw [show bits N 0 16 = i from bits_eq (F 0)]

theorem xori (d : BitVec 4) (a : Src) (i : BitVec 16) : Statement (.xori d a i) := by
  refine of_cat (w := pack 0x14000000 [encFld d 22, encSrc a 18 16, encFld i 0]) (ps := [(16, i.toNat), (2, a.mode.toNat), (4, a.reg.toNat), (4, d.toNat), (6, 0x5)])
    ⟨i.isLt, a.mode.isLt, a.reg.isLt, d.isLt, by decide, trivial⟩ rfl ?_ (fun N F lt => ?_) rfl
  · rw [pack_cons, pack_cons, pack_cons, pack_nil, encFld_eq, encSrc_eq, encFld_eq]; simp only [cat_cons, cat_nil]; omega
  rw [raw05 (major_of lt (F 4))]
  delta decodeMajor05
  rw [show bits N 22 4 = d from bits_eq (F 3)]
  rw [show (⟨bits N 18 4, bits N 16 2⟩ : Src) = a from src_eq (F 2) (F 1)]
  rw [show bits N 0 16 = i from bits_eq (F 0)]

theorem shli (d : BitVec 4) (a : Src) (s : BitVec 6) : Statement (.shli d a s) := by
  refine of_cat (w := pack 0x18000000 [encFld d 22, encSrc a 18 16, encFld s 0]) (ps := [(6, s.toNat), (10, 0x0), (2, a.mode.toNat), (4, a.reg.toNat), (4, d.toNat), (6, 0x6)])
    ⟨s.isLt, by decide, a.mode.isLt, a.reg.isLt, d.isLt, by decide, trivial⟩ rfl ?_ (fun N F lt => ?_) rfl
  · rw [pack_cons, pack_cons, pack_cons, pack_nil, encFld_eq, encSrc_eq, encFld_eq]; simp only [cat_cons, cat_nil]; omega
  rw [raw06 (major_of lt (F 5))]
  delta decodeMajor06
  have f6_10 : fld N 6 10 = 0x0 := F 1
  refine (if_pos f6_10).trans ?_
  rw [show bits N 22 4 = d from bits_eq (F 4)]
  rw [show (⟨bits N 18 4, bits N 16 2⟩ : Src) = a from src_eq (F 3) (F 2)]
  rw [show bits N 0 6 = s from bits_eq (F 0)]

theorem shri (d : BitVec 4) (a : Src) (s : BitVec 6) : Statement (.shri d a s) := by
  refine of_cat (w := pack 0x18004000 [encFld d 22, encSrc a 18 16, encFld s 0]) (ps := [(6, s.toNat), (10, 0x100), (2, a.mode.toNat), (4, a.reg.toNat), (4, d.toNat), (6, 0x6)])
    ⟨s.isLt, by decide, a.mode.isLt, a.reg.isLt, d.isLt, by decide, trivial⟩ rfl ?_ (fun N F lt => ?_) rfl
  · rw [pack_cons, pack_cons, pack_cons, pack_nil, encFld_eq, encSrc_eq, encFld_eq]; simp only [cat_cons, cat_nil]; omega
  rw [raw06 (major_of lt (F 5))]
  delta decodeMajor06
  have f6_10 : fld N 6 10 = 0x100 := F 1
  refine skip f6_10 (by decide) ?_
  refine (if_pos f6_10).trans ?_
  rw [show bits N 22 4 = d from bits_eq (F 4)]
  rw [show (⟨bits N 18 4, bits N 16 2⟩ : Src) = a from src_eq (F 3) (F 2)]
  rw [show bits N 0 6 = s from bits_eq (F 0)]

theorem srai (d : BitVec 4) (a : Src) (s : BitVec 6) : Statement (.srai d a s) := by
  refine of_cat (w := pack 0x18008000 [encFld d 22, encSrc a 18 16, encFld s 0]) (ps := [(6, s.toNat), (10, 0x200), (2, a.mode.toNat), (4, a.reg.toNat), (4, d.toNat), (6, 0x6)])
    ⟨s.isLt, by decide, a.mode.isLt, a.reg.isLt, d.isLt, by decide, trivial⟩ rfl ?_ (fun N F lt => ?_) rfl
  · rw [pack_cons, pack_cons, pack_cons, pack_nil, encFld_eq, encSrc_eq, encFld_eq]; simp only [cat_cons, cat_nil]; omega
  rw [raw06 (major_of lt (F 5))]
  delta decodeMajor06
  have f6_10 : fld N 6 10 = 0x200 := F 1
  refine skip f6_10 (by decide) ?_
  refine skip f6_10 (by decide) ?_
  refine (if_pos f6_10).trans ?_
  rw [show bits N 22 4 = d from bits_eq (F 4)]
  rw [show (⟨bits N 18 4, bits N 16 2⟩ : Src) = a from src_eq (F 3) (F 2)]
  rw [show bits N 0 6 = s from bits_eq (F 0)]

theorem roli (d : BitVec 4) (a : Src) (s : BitVec 6) : Statement (.roli d a s) := by
  refine of_cat (w := pack 0x1800C000 [encFld d 22, encSrc a 18 16, encFld s 0]) (ps := [(6, s.toNat), (10, 0x300), (2, a.mode.toNat), (4, a.reg.toNat), (4, d.toNat), (6, 0x6)])
    ⟨s.isLt, by decide, a.mode.isLt, a.reg.isLt, d.isLt, by decide, trivial⟩ rfl ?_ (fun N F lt => ?_) rfl
  · rw [pack_cons, pack_cons, pack_cons, pack_nil, encFld_eq, encSrc_eq, encFld_eq]; simp only [cat_cons, cat_nil]; omega
  rw [raw06 (major_of lt (F 5))]
  delta decodeMajor06
  have f6_10 : fld N 6 10 = 0x300 := F 1
  refine skip f6_10 (by decide) ?_
  refine skip f6_10 (by decide) ?_
  refine skip f6_10 (by decide) ?_
  refine (if_pos f6_10).trans ?_
  rw [show bits N 22 4 = d from bits_eq (F 4)]
  rw [show (⟨bits N 18 4, bits N 16 2⟩ : Src) = a from src_eq (F 3) (F 2)]
  rw [show bits N 0 6 = s from bits_eq (F 0)]

theorem lih (d : BitVec 4) (a : Src) (i : BitVec 16) : Statement (.lih d a i) := by
  refine of_cat (w := pack 0x1C000000 [encFld d 22, encSrc a 18 16, encFld i 0]) (ps := [(16, i.toNat), (2, a.mode.toNat), (4, a.reg.toNat), (4, d.toNat), (6, 0x7)])
    ⟨i.isLt, a.mode.isLt, a.reg.isLt, d.isLt, by decide, trivial⟩ rfl ?_ (fun N F lt => ?_) rfl
  · rw [pack_cons, pack_cons, pack_cons, pack_nil, encFld_eq, encSrc_eq, encFld_eq]; simp only [cat_cons, cat_nil]; omega
  rw [raw07 (major_of lt (F 4))]
  delta decodeMajor07
  rw [show bits N 22 4 = d from bits_eq (F 3)]
  rw [show (⟨bits N 18 4, bits N 16 2⟩ : Src) = a from src_eq (F 2) (F 1)]
  rw [show bits N 0 16 = i from bits_eq (F 0)]

theorem seqi (d : BitVec 4) (a : Src) (i : BitVec 14) : Statement (.seqi d a i) := by
  refine of_cat (w := pack 0x20000000 [encFld d 22, encSrc a 18 16, encFld i 0]) (ps := [(14, i.toNat), (2, 0x0), (2, a.mode.toNat), (4, a.reg.toNat), (4, d.toNat), (6, 0x8)])
    ⟨i.isLt, by decide, a.mode.isLt, a.reg.isLt, d.isLt, by decide, trivial⟩ rfl ?_ (fun N F lt => ?_) rfl
  · rw [pack_cons, pack_cons, pack_cons, pack_nil, encFld_eq, encSrc_eq, encFld_eq]; simp only [cat_cons, cat_nil]; omega
  rw [raw08 (major_of lt (F 5))]
  delta decodeMajor08
  have f14_2 : fld N 14 2 = 0x0 := F 1
  refine (if_pos f14_2).trans ?_
  rw [show bits N 22 4 = d from bits_eq (F 4)]
  rw [show (⟨bits N 18 4, bits N 16 2⟩ : Src) = a from src_eq (F 3) (F 2)]
  rw [show bits N 0 14 = i from bits_eq (F 0)]

theorem slti (d : BitVec 4) (a : Src) (i : BitVec 14) : Statement (.slti d a i) := by
  refine of_cat (w := pack 0x20004000 [encFld d 22, encSrc a 18 16, encFld i 0]) (ps := [(14, i.toNat), (2, 0x1), (2, a.mode.toNat), (4, a.reg.toNat), (4, d.toNat), (6, 0x8)])
    ⟨i.isLt, by decide, a.mode.isLt, a.reg.isLt, d.isLt, by decide, trivial⟩ rfl ?_ (fun N F lt => ?_) rfl
  · rw [pack_cons, pack_cons, pack_cons, pack_nil, encFld_eq, encSrc_eq, encFld_eq]; simp only [cat_cons, cat_nil]; omega
  rw [raw08 (major_of lt (F 5))]
  delta decodeMajor08
  have f14_2 : fld N 14 2 = 0x1 := F 1
  refine skip f14_2 (by decide) ?_
  refine (if_pos f14_2).trans ?_
  rw [show bits N 22 4 = d from bits_eq (F 4)]
  rw [show (⟨bits N 18 4, bits N 16 2⟩ : Src) = a from src_eq (F 3) (F 2)]
  rw [show bits N 0 14 = i from bits_eq (F 0)]

theorem sltui (d : BitVec 4) (a : Src) (i : BitVec 14) : Statement (.sltui d a i) := by
  refine of_cat (w := pack 0x20008000 [encFld d 22, encSrc a 18 16, encFld i 0]) (ps := [(14, i.toNat), (2, 0x2), (2, a.mode.toNat), (4, a.reg.toNat), (4, d.toNat), (6, 0x8)])
    ⟨i.isLt, by decide, a.mode.isLt, a.reg.isLt, d.isLt, by decide, trivial⟩ rfl ?_ (fun N F lt => ?_) rfl
  · rw [pack_cons, pack_cons, pack_cons, pack_nil, encFld_eq, encSrc_eq, encFld_eq]; simp only [cat_cons, cat_nil]; omega
  rw [raw08 (major_of lt (F 5))]
  delta decodeMajor08
  have f14_2 : fld N 14 2 = 0x2 := F 1
  refine skip f14_2 (by decide) ?_
  refine skip f14_2 (by decide) ?_
  refine (if_pos f14_2).trans ?_
  rw [show bits N 22 4 = d from bits_eq (F 4)]
  rw [show (⟨bits N 18 4, bits N 16 2⟩ : Src) = a from src_eq (F 3) (F 2)]
  rw [show bits N 0 14 = i from bits_eq (F 0)]

theorem muli (d : BitVec 4) (a : Src) (i : BitVec 16) : Statement (.muli d a i) := by
  refine of_cat (w := pack 0x24000000 [encFld d 22, encSrc a 18 16, encFld i 0]) (ps := [(16, i.toNat), (2, a.mode.toNat), (4, a.reg.toNat), (4, d.toNat), (6, 0x9)])
    ⟨i.isLt, a.mode.isLt, a.reg.isLt, d.isLt, by decide, trivial⟩ rfl ?_ (fun N F lt => ?_) rfl
  · rw [pack_cons, pack_cons, pack_cons, pack_nil, encFld_eq, encSrc_eq, encFld_eq]; simp only [cat_cons, cat_nil]; omega
  rw [raw09 (major_of lt (F 4))]
  delta decodeMajor09
  rw [show bits N 22 4 = d from bits_eq (F 3)]
  rw [show (⟨bits N 18 4, bits N 16 2⟩ : Src) = a from src_eq (F 2) (F 1)]
  rw [show bits N 0 16 = i from bits_eq (F 0)]

theorem fadd (d : BitVec 4) (a : Src) (b : Src) (s : BitVec 1) : Statement (.fadd d a b s) := by
  refine of_cat (w := pack 0x28000000 [encFld d 22, encSrc a 18 16, encSrc b 12 10, encFld s 4]) (ps := [(4, 0x0), (1, s.toNat), (5, 0x0), (2, b.mode.toNat), (4, b.reg.toNat), (2, a.mode.toNat), (4, a.reg.toNat), (4, d.toNat), (6, 0xA)])
    ⟨by decide, s.isLt, by decide, b.mode.isLt, b.reg.isLt, a.mode.isLt, a.reg.isLt, d.isLt, by decide, trivial⟩ rfl ?_ (fun N F lt => ?_) rfl
  · rw [pack_cons, pack_cons, pack_cons, pack_cons, pack_nil, encFld_eq, encSrc_eq, encSrc_eq, encFld_eq]; simp only [cat_cons, cat_nil]; omega
  rw [raw0A (major_of lt (F 8))]
  delta decodeMajor0A
  have f0_4 : fld N 0 4 = 0x0 := F 0
  have f5_5 : fld N 5 5 = 0x0 := F 2
  refine (if_pos ⟨f0_4, f5_5⟩).trans ?_
  rw [show bits N 22 4 = d from bits_eq (F 7)]
  rw [show (⟨bits N 18 4, bits N 16 2⟩ : Src) = a from src_eq (F 6) (F 5)]
  rw [show (⟨bits N 12 4, bits N 10 2⟩ : Src) = b from src_eq (F 4) (F 3)]
  rw [show bits N 4 1 = s from bits_eq (F 1)]

theorem fsub (d : BitVec 4) (a : Src) (b : Src) (s : BitVec 1) : Statement (.fsub d a b s) := by
  refine of_cat (w := pack 0x28000020 [encFld d 22, encSrc a 18 16, encSrc b 12 10, encFld s 4]) (ps := [(4, 0x0), (1, s.toNat), (5, 0x1), (2, b.mode.toNat), (4, b.reg.toNat), (2, a.mode.toNat), (4, a.reg.toNat), (4, d.toNat), (6, 0xA)])
    ⟨by decide, s.isLt, by decide, b.mode.isLt, b.reg.isLt, a.mode.isLt, a.reg.isLt, d.isLt, by decide, trivial⟩ rfl ?_ (fun N F lt => ?_) rfl
  · rw [pack_cons, pack_cons, pack_cons, pack_cons, pack_nil, encFld_eq, encSrc_eq, encSrc_eq, encFld_eq]; simp only [cat_cons, cat_nil]; omega
  rw [raw0A (major_of lt (F 8))]
  delta decodeMajor0A
  have f5_5 : fld N 5 5 = 0x1 := F 2
  have f0_4 : fld N 0 4 = 0x0 := F 0
  refine (if_neg (fun h => absurd (f5_5.symm.trans h.2) (by decide))).trans ?_
  refine (if_pos ⟨f0_4, f5_5⟩).trans ?_
  rw [show bits N 22 4 = d from bits_eq (F 7)]
  rw [show (⟨bits N 18 4, bits N 16 2⟩ : Src) = a from src_eq (F 6) (F 5)]
  rw [show (⟨bits N 12 4, bits N 10 2⟩ : Src) = b from src_eq (F 4) (F 3)]
  rw [show bits N 4 1 = s from bits_eq (F 1)]

theorem fmul (d : BitVec 4) (a : Src) (b : Src) (s : BitVec 1) : Statement (.fmul d a b s) := by
  refine of_cat (w := pack 0x28000040 [encFld d 22, encSrc a 18 16, encSrc b 12 10, encFld s 4]) (ps := [(4, 0x0), (1, s.toNat), (5, 0x2), (2, b.mode.toNat), (4, b.reg.toNat), (2, a.mode.toNat), (4, a.reg.toNat), (4, d.toNat), (6, 0xA)])
    ⟨by decide, s.isLt, by decide, b.mode.isLt, b.reg.isLt, a.mode.isLt, a.reg.isLt, d.isLt, by decide, trivial⟩ rfl ?_ (fun N F lt => ?_) rfl
  · rw [pack_cons, pack_cons, pack_cons, pack_cons, pack_nil, encFld_eq, encSrc_eq, encSrc_eq, encFld_eq]; simp only [cat_cons, cat_nil]; omega
  rw [raw0A (major_of lt (F 8))]
  delta decodeMajor0A
  have f5_5 : fld N 5 5 = 0x2 := F 2
  have f0_4 : fld N 0 4 = 0x0 := F 0
  refine (if_neg (fun h => absurd (f5_5.symm.trans h.2) (by decide))).trans ?_
  refine (if_neg (fun h => absurd (f5_5.symm.trans h.2) (by decide))).trans ?_
  refine (if_pos ⟨f0_4, f5_5⟩).trans ?_
  rw [show bits N 22 4 = d from bits_eq (F 7)]
  rw [show (⟨bits N 18 4, bits N 16 2⟩ : Src) = a from src_eq (F 6) (F 5)]
  rw [show (⟨bits N 12 4, bits N 10 2⟩ : Src) = b from src_eq (F 4) (F 3)]
  rw [show bits N 4 1 = s from bits_eq (F 1)]

theorem fdiv (d : BitVec 4) (a : Src) (b : Src) (s : BitVec 1) : Statement (.fdiv d a b s) := by
  refine of_cat (w := pack 0x28000060 [encFld d 22, encSrc a 18 16, encSrc b 12 10, encFld s 4]) (ps := [(4, 0x0), (1, s.toNat), (5, 0x3), (2, b.mode.toNat), (4, b.reg.toNat), (2, a.mode.toNat), (4, a.reg.toNat), (4, d.toNat), (6, 0xA)])
    ⟨by decide, s.isLt, by decide, b.mode.isLt, b.reg.isLt, a.mode.isLt, a.reg.isLt, d.isLt, by decide, trivial⟩ rfl ?_ (fun N F lt => ?_) rfl
  · rw [pack_cons, pack_cons, pack_cons, pack_cons, pack_nil, encFld_eq, encSrc_eq, encSrc_eq, encFld_eq]; simp only [cat_cons, cat_nil]; omega
  rw [raw0A (major_of lt (F 8))]
  delta decodeMajor0A
  have f5_5 : fld N 5 5 = 0x3 := F 2
  have f0_4 : fld N 0 4 = 0x0 := F 0
  refine (if_neg (fun h => absurd (f5_5.symm.trans h.2) (by decide))).trans ?_
  refine (if_neg (fun h => absurd (f5_5.symm.trans h.2) (by decide))).trans ?_
  refine (if_neg (fun h => absurd (f5_5.symm.trans h.2) (by decide))).trans ?_
  refine (if_pos ⟨f0_4, f5_5⟩).trans ?_
  rw [show bits N 22 4 = d from bits_eq (F 7)]
  rw [show (⟨bits N 18 4, bits N 16 2⟩ : Src) = a from src_eq (F 6) (F 5)]
  rw [show (⟨bits N 12 4, bits N 10 2⟩ : Src) = b from src_eq (F 4) (F 3)]
  rw [show bits N 4 1 = s from bits_eq (F 1)]

theorem fsqrt (d : BitVec 4) (a : Src) (s : BitVec 1) : Statement (.fsqrt d a s) := by
  refine of_cat (w := pack 0x28000080 [encFld d 22, encSrc a 18 16, encFld s 4]) (ps := [(4, 0x0), (1, s.toNat), (11, 0x4), (2, a.mode.toNat), (4, a.reg.toNat), (4, d.toNat), (6, 0xA)])
    ⟨by decide, s.isLt, by decide, a.mode.isLt, a.reg.isLt, d.isLt, by decide, trivial⟩ rfl ?_ (fun N F lt => ?_) rfl
  · rw [pack_cons, pack_cons, pack_cons, pack_nil, encFld_eq, encSrc_eq, encFld_eq]; simp only [cat_cons, cat_nil]; omega
  rw [raw0A (major_of lt (F 6))]
  delta decodeMajor0A
  have f5_11 : fld N 5 11 = 0x4 := F 2
  have f0_4 : fld N 0 4 = 0x0 := F 0
  refine (if_neg (fun h => absurd ((fld_part 0 5 f5_11 (by decide)).symm.trans h.2) (by decide))).trans ?_
  refine (if_neg (fun h => absurd ((fld_part 0 5 f5_11 (by decide)).symm.trans h.2) (by decide))).trans ?_
  refine (if_neg (fun h => absurd ((fld_part 0 5 f5_11 (by decide)).symm.trans h.2) (by decide))).trans ?_
  refine (if_neg (fun h => absurd ((fld_part 0 5 f5_11 (by decide)).symm.trans h.2) (by decide))).trans ?_
  refine (if_pos ⟨f0_4, f5_11⟩).trans ?_
  rw [show bits N 22 4 = d from bits_eq (F 5)]
  rw [show (⟨bits N 18 4, bits N 16 2⟩ : Src) = a from src_eq (F 4) (F 3)]
  rw [show bits N 4 1 = s from bits_eq (F 1)]

theorem fmin (d : BitVec 4) (a : Src) (b : Src) (s : BitVec 1) : Statement (.fmin d a b s) := by
  refine of_cat (w := pack 0x280000A0 [encFld d 22, encSrc a 18 16, encSrc b 12 10, encFld s 4]) (ps := [(4, 0x0), (1, s.toNat), (5, 0x5), (2, b.mode.toNat), (4, b.reg.toNat), (2, a.mode.toNat), (4, a.reg.toNat), (4, d.toNat), (6, 0xA)])
    ⟨by decide, s.isLt, by decide, b.mode.isLt, b.reg.isLt, a.mode.isLt, a.reg.isLt, d.isLt, by decide, trivial⟩ rfl ?_ (fun N F lt => ?_) rfl
  · rw [pack_cons, pack_cons, pack_cons, pack_cons, pack_nil, encFld_eq, encSrc_eq, encSrc_eq, encFld_eq]; simp only [cat_cons, cat_nil]; omega
  rw [raw0A (major_of lt (F 8))]
  delta decodeMajor0A
  have f5_5 : fld N 5 5 = 0x5 := F 2
  have f0_4 : fld N 0 4 = 0x0 := F 0
  refine (if_neg (fun h => absurd (f5_5.symm.trans h.2) (by decide))).trans ?_
  refine (if_neg (fun h => absurd (f5_5.symm.trans h.2) (by decide))).trans ?_
  refine (if_neg (fun h => absurd (f5_5.symm.trans h.2) (by decide))).trans ?_
  refine (if_neg (fun h => absurd (f5_5.symm.trans h.2) (by decide))).trans ?_
  refine (if_neg (fun h => absurd (f5_5.symm.trans (fld_part 0 5 h.2 (by decide))) (by decide))).trans ?_
  refine (if_pos ⟨f0_4, f5_5⟩).trans ?_
  rw [show bits N 22 4 = d from bits_eq (F 7)]
  rw [show (⟨bits N 18 4, bits N 16 2⟩ : Src) = a from src_eq (F 6) (F 5)]
  rw [show (⟨bits N 12 4, bits N 10 2⟩ : Src) = b from src_eq (F 4) (F 3)]
  rw [show bits N 4 1 = s from bits_eq (F 1)]

theorem fmax (d : BitVec 4) (a : Src) (b : Src) (s : BitVec 1) : Statement (.fmax d a b s) := by
  refine of_cat (w := pack 0x280000C0 [encFld d 22, encSrc a 18 16, encSrc b 12 10, encFld s 4]) (ps := [(4, 0x0), (1, s.toNat), (5, 0x6), (2, b.mode.toNat), (4, b.reg.toNat), (2, a.mode.toNat), (4, a.reg.toNat), (4, d.toNat), (6, 0xA)])
    ⟨by decide, s.isLt, by decide, b.mode.isLt, b.reg.isLt, a.mode.isLt, a.reg.isLt, d.isLt, by decide, trivial⟩ rfl ?_ (fun N F lt => ?_) rfl
  · rw [pack_cons, pack_cons, pack_cons, pack_cons, pack_nil, encFld_eq, encSrc_eq, encSrc_eq, encFld_eq]; simp only [cat_cons, cat_nil]; omega
  rw [raw0A (major_of lt (F 8))]
  delta decodeMajor0A
  have f5_5 : fld N 5 5 = 0x6 := F 2
  have f0_4 : fld N 0 4 = 0x0 := F 0
  refine (if_neg (fun h => absurd (f5_5.symm.trans h.2) (by decide))).trans ?_
  refine (if_neg (fun h => absurd (f5_5.symm.trans h.2) (by decide))).trans ?_
  refine (if_neg (fun h => absurd (f5_5.symm.trans h.2) (by decide))).trans ?_
  refine (if_neg (fun h => absurd (f5_5.symm.trans h.2) (by decide))).trans ?_
  refine (if_neg (fun h => absurd (f5_5.symm.trans (fld_part 0 5 h.2 (by decide))) (by decide))).trans ?_
  refine (if_neg (fun h => absurd (f5_5.symm.trans h.2) (by decide))).trans ?_
  refine (if_pos ⟨f0_4, f5_5⟩).trans ?_
  rw [show bits N 22 4 = d from bits_eq (F 7)]
  rw [show (⟨bits N 18 4, bits N 16 2⟩ : Src) = a from src_eq (F 6) (F 5)]
  rw [show (⟨bits N 12 4, bits N 10 2⟩ : Src) = b from src_eq (F 4) (F 3)]
  rw [show bits N 4 1 = s from bits_eq (F 1)]

theorem fneg (d : BitVec 4) (a : Src) (s : BitVec 1) : Statement (.fneg d a s) := by
  refine of_cat (w := pack 0x280000E0 [encFld d 22, encSrc a 18 16, encFld s 4]) (ps := [(4, 0x0), (1, s.toNat), (11, 0x7), (2, a.mode.toNat), (4, a.reg.toNat), (4, d.toNat), (6, 0xA)])
    ⟨by decide, s.isLt, by decide, a.mode.isLt, a.reg.isLt, d.isLt, by decide, trivial⟩ rfl ?_ (fun N F lt => ?_) rfl
  · rw [pack_cons, pack_cons, pack_cons, pack_nil, encFld_eq, encSrc_eq, encFld_eq]; simp only [cat_cons, cat_nil]; omega
  rw [raw0A (major_of lt (F 6))]
  delta decodeMajor0A
  have f5_11 : fld N 5 11 = 0x7 := F 2
  have f0_4 : fld N 0 4 = 0x0 := F 0
  refine (if_neg (fun h => absurd ((fld_part 0 5 f5_11 (by decide)).symm.trans h.2) (by decide))).trans ?_
  refine (if_neg (fun h => absurd ((fld_part 0 5 f5_11 (by decide)).symm.trans h.2) (by decide))).trans ?_
  refine (if_neg (fun h => absurd ((fld_part 0 5 f5_11 (by decide)).symm.trans h.2) (by decide))).trans ?_
  refine (if_neg (fun h => absurd ((fld_part 0 5 f5_11 (by decide)).symm.trans h.2) (by decide))).trans ?_
  refine (if_neg (fun h => absurd (f5_11.symm.trans h.2) (by decide))).trans ?_
  refine (if_neg (fun h => absurd ((fld_part 0 5 f5_11 (by decide)).symm.trans h.2) (by decide))).trans ?_
  refine (if_neg (fun h => absurd ((fld_part 0 5 f5_11 (by decide)).symm.trans h.2) (by decide))).trans ?_
  refine (if_pos ⟨f0_4, f5_11⟩).trans ?_
  rw [show bits N 22 4 = d from bits_eq (F 5)]
  rw [show (⟨bits N 18 4, bits N 16 2⟩ : Src) = a from src_eq (F 4) (F 3)]
  rw [show bits N 4 1 = s from bits_eq (F 1)]

theorem fabs (d : BitVec 4) (a : Src) (s : BitVec 1) : Statement (.fabs d a s) := by
  refine of_cat (w := pack 0x28000100 [encFld d 22, encSrc a 18 16, encFld s 4]) (ps := [(4, 0x0), (1, s.toNat), (11, 0x8), (2, a.mode.toNat), (4, a.reg.toNat), (4, d.toNat), (6, 0xA)])
    ⟨by decide, s.isLt, by decide, a.mode.isLt, a.reg.isLt, d.isLt, by decide, trivial⟩ rfl ?_ (fun N F lt => ?_) rfl
  · rw [pack_cons, pack_cons, pack_cons, pack_nil, encFld_eq, encSrc_eq, encFld_eq]; simp only [cat_cons, cat_nil]; omega
  rw [raw0A (major_of lt (F 6))]
  delta decodeMajor0A
  have f5_11 : fld N 5 11 = 0x8 := F 2
  have f0_4 : fld N 0 4 = 0x0 := F 0
  refine (if_neg (fun h => absurd ((fld_part 0 5 f5_11 (by decide)).symm.trans h.2) (by decide))).trans ?_
  refine (if_neg (fun h => absurd ((fld_part 0 5 f5_11 (by decide)).symm.trans h.2) (by decide))).trans ?_
  refine (if_neg (fun h => absurd ((fld_part 0 5 f5_11 (by decide)).symm.trans h.2) (by decide))).trans ?_
  refine (if_neg (fun h => absurd ((fld_part 0 5 f5_11 (by decide)).symm.trans h.2) (by decide))).trans ?_
  refine (if_neg (fun h => absurd (f5_11.symm.trans h.2) (by decide))).trans ?_
  refine (if_neg (fun h => absurd ((fld_part 0 5 f5_11 (by decide)).symm.trans h.2) (by decide))).trans ?_
  refine (if_neg (fun h => absurd ((fld_part 0 5 f5_11 (by decide)).symm.trans h.2) (by decide))).trans ?_
  refine (if_neg (fun h => absurd (f5_11.symm.trans h.2) (by decide))).trans ?_
  refine (if_pos ⟨f0_4, f5_11⟩).trans ?_
  rw [show bits N 22 4 = d from bits_eq (F 5)]
  rw [show (⟨bits N 18 4, bits N 16 2⟩ : Src) = a from src_eq (F 4) (F 3)]
  rw [show bits N 4 1 = s from bits_eq (F 1)]

theorem feq (d : BitVec 4) (a : Src) (b : Src) (s : BitVec 1) : Statement (.feq d a b s) := by
  refine of_cat (w := pack 0x28000120 [encFld d 22, encSrc a 18 16, encSrc b 12 10, encFld s 4]) (ps := [(4, 0x0), (1, s.toNat), (5, 0x9), (2, b.mode.toNat), (4, b.reg.toNat), (2, a.mode.toNat), (4, a.reg.toNat), (4, d.toNat), (6, 0xA)])
    ⟨by decide, s.isLt, by decide, b.mode.isLt, b.reg.isLt, a.mode.isLt, a.reg.isLt, d.isLt, by decide, trivial⟩ rfl ?_ (fun N F lt => ?_) rfl
  · rw [pack_cons, pack_cons, pack_cons, pack_cons, pack_nil, encFld_eq, encSrc_eq, encSrc_eq, encFld_eq]; simp only [cat_cons, cat_nil]; omega
  rw [raw0A (major_of lt (F 8))]
  delta decodeMajor0A
  have f5_5 : fld N 5 5 = 0x9 := F 2
  have f0_4 : fld N 0 4 = 0x0 := F 0
  refine (if_neg (fun h => absurd (f5_5.symm.trans h.2) (by decide))).trans ?_
  refine (if_neg (fun h => absurd (f5_5.symm.trans h.2) (by decide))).trans ?_
  refine (if_neg (fun h => absurd (f5_5.symm.trans h.2) (by decide))).trans ?_
  refine (if_neg (fun h => absurd (f5_5.symm.trans h.2) (by decide))).trans ?_
  refine (if_neg (fun h => absurd (f5_5.symm.trans (fld_part 0 5 h.2 (by decide))) (by decide))).trans ?_
  refine (if_neg (fun h => absurd (f5_5.symm.trans h.2) (by decide))).trans ?_
  refine (if_neg (fun h => absurd (f5_5.symm.trans h.2) (by decide))).trans ?_
  refine (if_neg (fun h => absurd (f5_5.symm.trans (fld_part 0 5 h.2 (by decide))) (by decide))).trans ?_
  refine (if_neg (fun h => absurd (f5_5.symm.trans (fld_part 0 5 h.2 (by decide))) (by decide))).trans ?_
  refine (if_pos ⟨f0_4, f5_5⟩).trans ?_
  rw [show bits N 22 4 = d from bits_eq (F 7)]
  rw [show (⟨bits N 18 4, bits N 16 2⟩ : Src) = a from src_eq (F 6) (F 5)]
  rw [show (⟨bits N 12 4, bits N 10 2⟩ : Src) = b from src_eq (F 4) (F 3)]
  rw [show bits N 4 1 = s from bits_eq (F 1)]

theorem flt (d : BitVec 4) (a : Src) (b : Src) (s : BitVec 1) : Statement (.flt d a b s) := by
  refine of_cat (w := pack 0x28000140 [encFld d 22, encSrc a 18 16, encSrc b 12 10, encFld s 4]) (ps := [(4, 0x0), (1, s.toNat), (5, 0xA), (2, b.mode.toNat), (4, b.reg.toNat), (2, a.mode.toNat), (4, a.reg.toNat), (4, d.toNat), (6, 0xA)])
    ⟨by decide, s.isLt, by decide, b.mode.isLt, b.reg.isLt, a.mode.isLt, a.reg.isLt, d.isLt, by decide, trivial⟩ rfl ?_ (fun N F lt => ?_) rfl
  · rw [pack_cons, pack_cons, pack_cons, pack_cons, pack_nil, encFld_eq, encSrc_eq, encSrc_eq, encFld_eq]; simp only [cat_cons, cat_nil]; omega
  rw [raw0A (major_of lt (F 8))]
  delta decodeMajor0A
  have f5_5 : fld N 5 5 = 0xA := F 2
  have f0_4 : fld N 0 4 = 0x0 := F 0
  refine (if_neg (fun h => absurd (f5_5.symm.trans h.2) (by decide))).trans ?_
  refine (if_neg (fun h => absurd (f5_5.symm.trans h.2) (by decide))).trans ?_
  refine (if_neg (fun h => absurd (f5_5.symm.trans h.2) (by decide))).trans ?_
  refine (if_neg (fun h => absurd (f5_5.symm.trans h.2) (by decide))).trans ?_
  refine (if_neg (fun h => absurd (f5_5.symm.trans (fld_part 0 5 h.2 (by decide))) (by decide))).trans ?_
  refine (if_neg (fun h => absurd (f5_5.symm.trans h.2) (by decide))).trans ?_
  refine (if_neg (fun h => absurd (f5_5.symm.trans h.2) (by decide))).trans ?_
  refine (if_neg (fun h => absurd (f5_5.symm.trans (fld_part 0 5 h.2 (by decide))) (by decide))).trans ?_
  refine (if_neg (fun h => absurd (f5_5.symm.trans (fld_part 0 5 h.2 (by decide))) (by decide))).trans ?_
  refine (if_neg (fun h => absurd (f5_5.symm.trans h.2) (by decide))).trans ?_
  refine (if_pos ⟨f0_4, f5_5⟩).trans ?_
  rw [show bits N 22 4 = d from bits_eq (F 7)]
  rw [show (⟨bits N 18 4, bits N 16 2⟩ : Src) = a from src_eq (F 6) (F 5)]
  rw [show (⟨bits N 12 4, bits N 10 2⟩ : Src) = b from src_eq (F 4) (F 3)]
  rw [show bits N 4 1 = s from bits_eq (F 1)]

theorem fle (d : BitVec 4) (a : Src) (b : Src) (s : BitVec 1) : Statement (.fle d a b s) := by
  refine of_cat (w := pack 0x28000160 [encFld d 22, encSrc a 18 16, encSrc b 12 10, encFld s 4]) (ps := [(4, 0x0), (1, s.toNat), (5, 0xB), (2, b.mode.toNat), (4, b.reg.toNat), (2, a.mode.toNat), (4, a.reg.toNat), (4, d.toNat), (6, 0xA)])
    ⟨by decide, s.isLt, by decide, b.mode.isLt, b.reg.isLt, a.mode.isLt, a.reg.isLt, d.isLt, by decide, trivial⟩ rfl ?_ (fun N F lt => ?_) rfl
  · rw [pack_cons, pack_cons, pack_cons, pack_cons, pack_nil, encFld_eq, encSrc_eq, encSrc_eq, encFld_eq]; simp only [cat_cons, cat_nil]; omega
  rw [raw0A (major_of lt (F 8))]
  delta decodeMajor0A
  have f5_5 : fld N 5 5 = 0xB := F 2
  have f0_4 : fld N 0 4 = 0x0 := F 0
  refine (if_neg (fun h => absurd (f5_5.symm.trans h.2) (by decide))).trans ?_
  refine (if_neg (fun h => absurd (f5_5.symm.trans h.2) (by decide))).trans ?_
  refine (if_neg (fun h => absurd (f5_5.symm.trans h.2) (by decide))).trans ?_
  refine (if_neg (fun h => absurd (f5_5.symm.trans h.2) (by decide))).trans ?_
  refine (if_neg (fun h => absurd (f5_5.symm.trans (fld_part 0 5 h.2 (by decide))) (by decide))).trans ?_
  refine (if_neg (fun h => absurd (f5_5.symm.trans h.2) (by decide))).trans ?_
  refine (if_neg (fun h => absurd (f5_5.symm.trans h.2) (by decide))).trans ?_
  refine (if_neg (fun h => absurd (f5_5.symm.trans (fld_part 0 5 h.2 (by decide))) (by decide))).trans ?_
  refine (if_neg (fun h => absurd (f5_5.symm.trans (fld_part 0 5 h.2 (by decide))) (by decide))).trans ?_
  refine (if_neg (fun h => absurd (f5_5.symm.trans h.2) (by decide))).trans ?_
  refine (if_neg (fun h => absurd (f5_5.symm.trans h.2) (by decide))).trans ?_
  refine (if_pos ⟨f0_4, f5_5⟩).trans ?_
  rw [show bits N 22 4 = d from bits_eq (F 7)]
  rw [show (⟨bits N 18 4, bits N 16 2⟩ : Src) = a from src_eq (F 6) (F 5)]
  rw [show (⟨bits N 12 4, bits N 10 2⟩ : Src) = b from src_eq (F 4) (F 3)]
  rw [show bits N 4 1 = s from bits_eq (F 1)]

theorem fclass (d : BitVec 4) (a : Src) (s : BitVec 1) : Statement (.fclass d a s) := by
  refine of_cat (w := pack 0x28000180 [encFld d 22, encSrc a 18 16, encFld s 4]) (ps := [(4, 0x0), (1, s.toNat), (11, 0xC), (2, a.mode.toNat), (4, a.reg.toNat), (4, d.toNat), (6, 0xA)])
    ⟨by decide, s.isLt, by decide, a.mode.isLt, a.reg.isLt, d.isLt, by decide, trivial⟩ rfl ?_ (fun N F lt => ?_) rfl
  · rw [pack_cons, pack_cons, pack_cons, pack_nil, encFld_eq, encSrc_eq, encFld_eq]; simp only [cat_cons, cat_nil]; omega
  rw [raw0A (major_of lt (F 6))]
  delta decodeMajor0A
  have f5_11 : fld N 5 11 = 0xC := F 2
  have f0_4 : fld N 0 4 = 0x0 := F 0
  refine (if_neg (fun h => absurd ((fld_part 0 5 f5_11 (by decide)).symm.trans h.2) (by decide))).trans ?_
  refine (if_neg (fun h => absurd ((fld_part 0 5 f5_11 (by decide)).symm.trans h.2) (by decide))).trans ?_
  refine (if_neg (fun h => absurd ((fld_part 0 5 f5_11 (by decide)).symm.trans h.2) (by decide))).trans ?_
  refine (if_neg (fun h => absurd ((fld_part 0 5 f5_11 (by decide)).symm.trans h.2) (by decide))).trans ?_
  refine (if_neg (fun h => absurd (f5_11.symm.trans h.2) (by decide))).trans ?_
  refine (if_neg (fun h => absurd ((fld_part 0 5 f5_11 (by decide)).symm.trans h.2) (by decide))).trans ?_
  refine (if_neg (fun h => absurd ((fld_part 0 5 f5_11 (by decide)).symm.trans h.2) (by decide))).trans ?_
  refine (if_neg (fun h => absurd (f5_11.symm.trans h.2) (by decide))).trans ?_
  refine (if_neg (fun h => absurd (f5_11.symm.trans h.2) (by decide))).trans ?_
  refine (if_neg (fun h => absurd ((fld_part 0 5 f5_11 (by decide)).symm.trans h.2) (by decide))).trans ?_
  refine (if_neg (fun h => absurd ((fld_part 0 5 f5_11 (by decide)).symm.trans h.2) (by decide))).trans ?_
  refine (if_neg (fun h => absurd ((fld_part 0 5 f5_11 (by decide)).symm.trans h.2) (by decide))).trans ?_
  refine (if_pos ⟨f0_4, f5_11⟩).trans ?_
  rw [show bits N 22 4 = d from bits_eq (F 5)]
  rw [show (⟨bits N 18 4, bits N 16 2⟩ : Src) = a from src_eq (F 4) (F 3)]
  rw [show bits N 4 1 = s from bits_eq (F 1)]

theorem fcvt (d : BitVec 4) (a : Src) (s : BitVec 1) : Statement (.fcvt d a s) := by
  refine of_cat (w := pack 0x280001A0 [encFld d 22, encSrc a 18 16, encFld s 4]) (ps := [(4, 0x0), (1, s.toNat), (11, 0xD), (2, a.mode.toNat), (4, a.reg.toNat), (4, d.toNat), (6, 0xA)])
    ⟨by decide, s.isLt, by decide, a.mode.isLt, a.reg.isLt, d.isLt, by decide, trivial⟩ rfl ?_ (fun N F lt => ?_) rfl
  · rw [pack_cons, pack_cons, pack_cons, pack_nil, encFld_eq, encSrc_eq, encFld_eq]; simp only [cat_cons, cat_nil]; omega
  rw [raw0A (major_of lt (F 6))]
  delta decodeMajor0A
  have f5_11 : fld N 5 11 = 0xD := F 2
  have f0_4 : fld N 0 4 = 0x0 := F 0
  refine (if_neg (fun h => absurd ((fld_part 0 5 f5_11 (by decide)).symm.trans h.2) (by decide))).trans ?_
  refine (if_neg (fun h => absurd ((fld_part 0 5 f5_11 (by decide)).symm.trans h.2) (by decide))).trans ?_
  refine (if_neg (fun h => absurd ((fld_part 0 5 f5_11 (by decide)).symm.trans h.2) (by decide))).trans ?_
  refine (if_neg (fun h => absurd ((fld_part 0 5 f5_11 (by decide)).symm.trans h.2) (by decide))).trans ?_
  refine (if_neg (fun h => absurd (f5_11.symm.trans h.2) (by decide))).trans ?_
  refine (if_neg (fun h => absurd ((fld_part 0 5 f5_11 (by decide)).symm.trans h.2) (by decide))).trans ?_
  refine (if_neg (fun h => absurd ((fld_part 0 5 f5_11 (by decide)).symm.trans h.2) (by decide))).trans ?_
  refine (if_neg (fun h => absurd (f5_11.symm.trans h.2) (by decide))).trans ?_
  refine (if_neg (fun h => absurd (f5_11.symm.trans h.2) (by decide))).trans ?_
  refine (if_neg (fun h => absurd ((fld_part 0 5 f5_11 (by decide)).symm.trans h.2) (by decide))).trans ?_
  refine (if_neg (fun h => absurd ((fld_part 0 5 f5_11 (by decide)).symm.trans h.2) (by decide))).trans ?_
  refine (if_neg (fun h => absurd ((fld_part 0 5 f5_11 (by decide)).symm.trans h.2) (by decide))).trans ?_
  refine (if_neg (fun h => absurd (f5_11.symm.trans h.2) (by decide))).trans ?_
  refine (if_pos ⟨f0_4, f5_11⟩).trans ?_
  rw [show bits N 22 4 = d from bits_eq (F 5)]
  rw [show (⟨bits N 18 4, bits N 16 2⟩ : Src) = a from src_eq (F 4) (F 3)]
  rw [show bits N 4 1 = s from bits_eq (F 1)]

theorem ftoi (d : BitVec 4) (a : Src) (s : BitVec 1) : Statement (.ftoi d a s) := by
  refine of_cat (w := pack 0x280001C0 [encFld d 22, encSrc a 18 16, encFld s 4]) (ps := [(4, 0x0), (1, s.toNat), (11, 0xE), (2, a.mode.toNat), (4, a.reg.toNat), (4, d.toNat), (6, 0xA)])
    ⟨by decide, s.isLt, by decide, a.mode.isLt, a.reg.isLt, d.isLt, by decide, trivial⟩ rfl ?_ (fun N F lt => ?_) rfl
  · rw [pack_cons, pack_cons, pack_cons, pack_nil, encFld_eq, encSrc_eq, encFld_eq]; simp only [cat_cons, cat_nil]; omega
  rw [raw0A (major_of lt (F 6))]
  delta decodeMajor0A
  have f5_11 : fld N 5 11 = 0xE := F 2
  have f0_4 : fld N 0 4 = 0x0 := F 0
  refine (if_neg (fun h => absurd ((fld_part 0 5 f5_11 (by decide)).symm.trans h.2) (by decide))).trans ?_
  refine (if_neg (fun h => absurd ((fld_part 0 5 f5_11 (by decide)).symm.trans h.2) (by decide))).trans ?_
  refine (if_neg (fun h => absurd ((fld_part 0 5 f5_11 (by decide)).symm.trans h.2) (by decide))).trans ?_
  refine (if_neg (fun h => absurd ((fld_part 0 5 f5_11 (by decide)).symm.trans h.2) (by decide))).trans ?_
  refine (if_neg (fun h => absurd (f5_11.symm.trans h.2) (by decide))).trans ?_
  refine (if_neg (fun h => absurd ((fld_part 0 5 f5_11 (by decide)).symm.trans h.2) (by decide))).trans ?_
  refine (if_neg (fun h => absurd ((fld_part 0 5 f5_11 (by decide)).symm.trans h.2) (by decide))).trans ?_
  refine (if_neg (fun h => absurd (f5_11.symm.trans h.2) (by decide))).trans ?_
  refine (if_neg (fun h => absurd (f5_11.symm.trans h.2) (by decide))).trans ?_
  refine (if_neg (fun h => absurd ((fld_part 0 5 f5_11 (by decide)).symm.trans h.2) (by decide))).trans ?_
  refine (if_neg (fun h => absurd ((fld_part 0 5 f5_11 (by decide)).symm.trans h.2) (by decide))).trans ?_
  refine (if_neg (fun h => absurd ((fld_part 0 5 f5_11 (by decide)).symm.trans h.2) (by decide))).trans ?_
  refine (if_neg (fun h => absurd (f5_11.symm.trans h.2) (by decide))).trans ?_
  refine (if_neg (fun h => absurd (f5_11.symm.trans h.2) (by decide))).trans ?_
  refine (if_pos ⟨f0_4, f5_11⟩).trans ?_
  rw [show bits N 22 4 = d from bits_eq (F 5)]
  rw [show (⟨bits N 18 4, bits N 16 2⟩ : Src) = a from src_eq (F 4) (F 3)]
  rw [show bits N 4 1 = s from bits_eq (F 1)]

theorem itof (d : BitVec 4) (a : Src) (s : BitVec 1) : Statement (.itof d a s) := by
  refine of_cat (w := pack 0x280001E0 [encFld d 22, encSrc a 18 16, encFld s 4]) (ps := [(4, 0x0), (1, s.toNat), (11, 0xF), (2, a.mode.toNat), (4, a.reg.toNat), (4, d.toNat), (6, 0xA)])
    ⟨by decide, s.isLt, by decide, a.mode.isLt, a.reg.isLt, d.isLt, by decide, trivial⟩ rfl ?_ (fun N F lt => ?_) rfl
  · rw [pack_cons, pack_cons, pack_cons, pack_nil, encFld_eq, encSrc_eq, encFld_eq]; simp only [cat_cons, cat_nil]; omega
  rw [raw0A (major_of lt (F 6))]
  delta decodeMajor0A
  have f5_11 : fld N 5 11 = 0xF := F 2
  have f0_4 : fld N 0 4 = 0x0 := F 0
  refine (if_neg (fun h => absurd ((fld_part 0 5 f5_11 (by decide)).symm.trans h.2) (by decide))).trans ?_
  refine (if_neg (fun h => absurd ((fld_part 0 5 f5_11 (by decide)).symm.trans h.2) (by decide))).trans ?_
  refine (if_neg (fun h => absurd ((fld_part 0 5 f5_11 (by decide)).symm.trans h.2) (by decide))).trans ?_
  refine (if_neg (fun h => absurd ((fld_part 0 5 f5_11 (by decide)).symm.trans h.2) (by decide))).trans ?_
  refine (if_neg (fun h => absurd (f5_11.symm.trans h.2) (by decide))).trans ?_
  refine (if_neg (fun h => absurd ((fld_part 0 5 f5_11 (by decide)).symm.trans h.2) (by decide))).trans ?_
  refine (if_neg (fun h => absurd ((fld_part 0 5 f5_11 (by decide)).symm.trans h.2) (by decide))).trans ?_
  refine (if_neg (fun h => absurd (f5_11.symm.trans h.2) (by decide))).trans ?_
  refine (if_neg (fun h => absurd (f5_11.symm.trans h.2) (by decide))).trans ?_
  refine (if_neg (fun h => absurd ((fld_part 0 5 f5_11 (by decide)).symm.trans h.2) (by decide))).trans ?_
  refine (if_neg (fun h => absurd ((fld_part 0 5 f5_11 (by decide)).symm.trans h.2) (by decide))).trans ?_
  refine (if_neg (fun h => absurd ((fld_part 0 5 f5_11 (by decide)).symm.trans h.2) (by decide))).trans ?_
  refine (if_neg (fun h => absurd (f5_11.symm.trans h.2) (by decide))).trans ?_
  refine (if_neg (fun h => absurd (f5_11.symm.trans h.2) (by decide))).trans ?_
  refine (if_neg (fun h => absurd (f5_11.symm.trans h.2) (by decide))).trans ?_
  refine (if_pos ⟨f0_4, f5_11⟩).trans ?_
  rw [show bits N 22 4 = d from bits_eq (F 5)]
  rw [show (⟨bits N 18 4, bits N 16 2⟩ : Src) = a from src_eq (F 4) (F 3)]
  rw [show bits N 4 1 = s from bits_eq (F 1)]

theorem fma (d : BitVec 4) (a : Src) (b : Src) (c : Src) (s : BitVec 1) : Statement (.fma d a b c s) := by
  refine of_cat (w := pack 0x2C000000 [encFld d 22, encSrc a 18 16, encSrc b 12 10, encSrc c 6 4, encFld s 3]) (ps := [(3, 0x0), (1, s.toNat), (2, c.mode.toNat), (4, c.reg.toNat), (2, b.mode.toNat), (4, b.reg.toNat), (2, a.mode.toNat), (4, a.reg.toNat), (4, d.toNat), (6, 0xB)])
    ⟨by decide, s.isLt, c.mode.isLt, c.reg.isLt, b.mode.isLt, b.reg.isLt, a.mode.isLt, a.reg.isLt, d.isLt, by decide, trivial⟩ rfl ?_ (fun N F lt => ?_) rfl
  · rw [pack_cons, pack_cons, pack_cons, pack_cons, pack_cons, pack_nil, encFld_eq, encSrc_eq, encSrc_eq, encSrc_eq, encFld_eq]; simp only [cat_cons, cat_nil]; omega
  rw [raw0B (major_of lt (F 9))]
  delta decodeMajor0B
  have f0_3 : fld N 0 3 = 0x0 := F 0
  refine (if_pos f0_3).trans ?_
  rw [show bits N 22 4 = d from bits_eq (F 8)]
  rw [show (⟨bits N 18 4, bits N 16 2⟩ : Src) = a from src_eq (F 7) (F 6)]
  rw [show (⟨bits N 12 4, bits N 10 2⟩ : Src) = b from src_eq (F 5) (F 4)]
  rw [show (⟨bits N 6 4, bits N 4 2⟩ : Src) = c from src_eq (F 3) (F 2)]
  rw [show bits N 3 1 = s from bits_eq (F 1)]

theorem fms (d : BitVec 4) (a : Src) (b : Src) (c : Src) (s : BitVec 1) : Statement (.fms d a b c s) := by
  refine of_cat (w := pack 0x2C000001 [encFld d 22, encSrc a 18 16, encSrc b 12 10, encSrc c 6 4, encFld s 3]) (ps := [(3, 0x1), (1, s.toNat), (2, c.mode.toNat), (4, c.reg.toNat), (2, b.mode.toNat), (4, b.reg.toNat), (2, a.mode.toNat), (4, a.reg.toNat), (4, d.toNat), (6, 0xB)])
    ⟨by decide, s.isLt, c.mode.isLt, c.reg.isLt, b.mode.isLt, b.reg.isLt, a.mode.isLt, a.reg.isLt, d.isLt, by decide, trivial⟩ rfl ?_ (fun N F lt => ?_) rfl
  · rw [pack_cons, pack_cons, pack_cons, pack_cons, pack_cons, pack_nil, encFld_eq, encSrc_eq, encSrc_eq, encSrc_eq, encFld_eq]; simp only [cat_cons, cat_nil]; omega
  rw [raw0B (major_of lt (F 9))]
  delta decodeMajor0B
  have f0_3 : fld N 0 3 = 0x1 := F 0
  refine skip f0_3 (by decide) ?_
  refine (if_pos f0_3).trans ?_
  rw [show bits N 22 4 = d from bits_eq (F 8)]
  rw [show (⟨bits N 18 4, bits N 16 2⟩ : Src) = a from src_eq (F 7) (F 6)]
  rw [show (⟨bits N 12 4, bits N 10 2⟩ : Src) = b from src_eq (F 5) (F 4)]
  rw [show (⟨bits N 6 4, bits N 4 2⟩ : Src) = c from src_eq (F 3) (F 2)]
  rw [show bits N 3 1 = s from bits_eq (F 1)]

theorem fnma (d : BitVec 4) (a : Src) (b : Src) (c : Src) (s : BitVec 1) : Statement (.fnma d a b c s) := by
  refine of_cat (w := pack 0x2C000002 [encFld d 22, encSrc a 18 16, encSrc b 12 10, encSrc c 6 4, encFld s 3]) (ps := [(3, 0x2), (1, s.toNat), (2, c.mode.toNat), (4, c.reg.toNat), (2, b.mode.toNat), (4, b.reg.toNat), (2, a.mode.toNat), (4, a.reg.toNat), (4, d.toNat), (6, 0xB)])
    ⟨by decide, s.isLt, c.mode.isLt, c.reg.isLt, b.mode.isLt, b.reg.isLt, a.mode.isLt, a.reg.isLt, d.isLt, by decide, trivial⟩ rfl ?_ (fun N F lt => ?_) rfl
  · rw [pack_cons, pack_cons, pack_cons, pack_cons, pack_cons, pack_nil, encFld_eq, encSrc_eq, encSrc_eq, encSrc_eq, encFld_eq]; simp only [cat_cons, cat_nil]; omega
  rw [raw0B (major_of lt (F 9))]
  delta decodeMajor0B
  have f0_3 : fld N 0 3 = 0x2 := F 0
  refine skip f0_3 (by decide) ?_
  refine skip f0_3 (by decide) ?_
  refine (if_pos f0_3).trans ?_
  rw [show bits N 22 4 = d from bits_eq (F 8)]
  rw [show (⟨bits N 18 4, bits N 16 2⟩ : Src) = a from src_eq (F 7) (F 6)]
  rw [show (⟨bits N 12 4, bits N 10 2⟩ : Src) = b from src_eq (F 5) (F 4)]
  rw [show (⟨bits N 6 4, bits N 4 2⟩ : Src) = c from src_eq (F 3) (F 2)]
  rw [show bits N 3 1 = s from bits_eq (F 1)]

theorem fnms (d : BitVec 4) (a : Src) (b : Src) (c : Src) (s : BitVec 1) : Statement (.fnms d a b c s) := by
  refine of_cat (w := pack 0x2C000003 [encFld d 22, encSrc a 18 16, encSrc b 12 10, encSrc c 6 4, encFld s 3]) (ps := [(3, 0x3), (1, s.toNat), (2, c.mode.toNat), (4, c.reg.toNat), (2, b.mode.toNat), (4, b.reg.toNat), (2, a.mode.toNat), (4, a.reg.toNat), (4, d.toNat), (6, 0xB)])
    ⟨by decide, s.isLt, c.mode.isLt, c.reg.isLt, b.mode.isLt, b.reg.isLt, a.mode.isLt, a.reg.isLt, d.isLt, by decide, trivial⟩ rfl ?_ (fun N F lt => ?_) rfl
  · rw [pack_cons, pack_cons, pack_cons, pack_cons, pack_cons, pack_nil, encFld_eq, encSrc_eq, encSrc_eq, encSrc_eq, encFld_eq]; simp only [cat_cons, cat_nil]; omega
  rw [raw0B (major_of lt (F 9))]
  delta decodeMajor0B
  have f0_3 : fld N 0 3 = 0x3 := F 0
  refine skip f0_3 (by decide) ?_
  refine skip f0_3 (by decide) ?_
  refine skip f0_3 (by decide) ?_
  refine (if_pos f0_3).trans ?_
  rw [show bits N 22 4 = d from bits_eq (F 8)]
  rw [show (⟨bits N 18 4, bits N 16 2⟩ : Src) = a from src_eq (F 7) (F 6)]
  rw [show (⟨bits N 12 4, bits N 10 2⟩ : Src) = b from src_eq (F 5) (F 4)]
  rw [show (⟨bits N 6 4, bits N 4 2⟩ : Src) = c from src_eq (F 3) (F 2)]
  rw [show bits N 3 1 = s from bits_eq (F 1)]

theorem ld (d : BitVec 4) (a : Src) (z : BitVec 3) (o : BitVec 13) : Statement (.ld d a z o) := by
  refine of_cat (w := pack 0x40000000 [encFld d 22, encSrc a 18 16, encFld z 13, encFld o 0]) (ps := [(13, o.toNat), (3, z.toNat), (2, a.mode.toNat), (4, a.reg.toNat), (4, d.toNat), (6, 0x10)])
    ⟨o.isLt, z.isLt, a.mode.isLt, a.reg.isLt, d.isLt, by decide, trivial⟩ rfl ?_ (fun N F lt => ?_) rfl
  · rw [pack_cons, pack_cons, pack_cons, pack_cons, pack_nil, encFld_eq, encSrc_eq, encFld_eq, encFld_eq]; simp only [cat_cons, cat_nil]; omega
  rw [raw10 (major_of lt (F 5))]
  delta decodeMajor10
  rw [show bits N 22 4 = d from bits_eq (F 4)]
  rw [show (⟨bits N 18 4, bits N 16 2⟩ : Src) = a from src_eq (F 3) (F 2)]
  rw [show bits N 13 3 = z from bits_eq (F 1)]
  rw [show bits N 0 13 = o from bits_eq (F 0)]

theorem st (d : BitVec 4) (a : Src) (z : BitVec 3) (o : BitVec 13) : Statement (.st d a z o) := by
  refine of_cat (w := pack 0x44000000 [encFld d 22, encSrc a 18 16, encFld z 13, encFld o 0]) (ps := [(13, o.toNat), (3, z.toNat), (2, a.mode.toNat), (4, a.reg.toNat), (4, d.toNat), (6, 0x11)])
    ⟨o.isLt, z.isLt, a.mode.isLt, a.reg.isLt, d.isLt, by decide, trivial⟩ rfl ?_ (fun N F lt => ?_) rfl
  · rw [pack_cons, pack_cons, pack_cons, pack_cons, pack_nil, encFld_eq, encSrc_eq, encFld_eq, encFld_eq]; simp only [cat_cons, cat_nil]; omega
  rw [raw11 (major_of lt (F 5))]
  delta decodeMajor11
  rw [show bits N 22 4 = d from bits_eq (F 4)]
  rw [show (⟨bits N 18 4, bits N 16 2⟩ : Src) = a from src_eq (F 3) (F 2)]
  rw [show bits N 13 3 = z from bits_eq (F 1)]
  rw [show bits N 0 13 = o from bits_eq (F 0)]

theorem ldm (f : BitVec 4) (a : Src) (l : BitVec 4) (o : BitVec 11) : Statement (.ldm f a l o) := by
  refine of_cat (w := pack 0x48000000 [encFld f 22, encSrc a 18 16, encFld l 12, encFld o 0]) (ps := [(11, o.toNat), (1, 0x0), (4, l.toNat), (2, a.mode.toNat), (4, a.reg.toNat), (4, f.toNat), (6, 0x12)])
    ⟨o.isLt, by decide, l.isLt, a.mode.isLt, a.reg.isLt, f.isLt, by decide, trivial⟩ rfl ?_ (fun N F lt => ?_) rfl
  · rw [pack_cons, pack_cons, pack_cons, pack_cons, pack_nil, encFld_eq, encSrc_eq, encFld_eq, encFld_eq]; simp only [cat_cons, cat_nil]; omega
  rw [raw12 (major_of lt (F 6))]
  delta decodeMajor12
  have f11_1 : fld N 11 1 = 0x0 := F 1
  refine (if_pos f11_1).trans ?_
  rw [show bits N 22 4 = f from bits_eq (F 5)]
  rw [show (⟨bits N 18 4, bits N 16 2⟩ : Src) = a from src_eq (F 4) (F 3)]
  rw [show bits N 12 4 = l from bits_eq (F 2)]
  rw [show bits N 0 11 = o from bits_eq (F 0)]

theorem stm (f : BitVec 4) (a : Src) (l : BitVec 4) (o : BitVec 11) : Statement (.stm f a l o) := by
  refine of_cat (w := pack 0x48000800 [encFld f 22, encSrc a 18 16, encFld l 12, encFld o 0]) (ps := [(11, o.toNat), (1, 0x1), (4, l.toNat), (2, a.mode.toNat), (4, a.reg.toNat), (4, f.toNat), (6, 0x12)])
    ⟨o.isLt, by decide, l.isLt, a.mode.isLt, a.reg.isLt, f.isLt, by decide, trivial⟩ rfl ?_ (fun N F lt => ?_) rfl
  · rw [pack_cons, pack_cons, pack_cons, pack_cons, pack_nil, encFld_eq, encSrc_eq, encFld_eq, encFld_eq]; simp only [cat_cons, cat_nil]; omega
  rw [raw12 (major_of lt (F 6))]
  delta decodeMajor12
  have f11_1 : fld N 11 1 = 0x1 := F 1
  refine skip f11_1 (by decide) ?_
  refine (if_pos f11_1).trans ?_
  rw [show bits N 22 4 = f from bits_eq (F 5)]
  rw [show (⟨bits N 18 4, bits N 16 2⟩ : Src) = a from src_eq (F 4) (F 3)]
  rw [show bits N 12 4 = l from bits_eq (F 2)]
  rw [show bits N 0 11 = o from bits_eq (F 0)]

theorem amoAdd (d : BitVec 4) (a : Src) (b : Src) (w : BitVec 1) (x : BitVec 1) (y : BitVec 1) : Statement (.amoAdd d a b w x y) := by
  refine of_cat (w := pack 0x4C000000 [encFld d 22, encSrc a 18 16, encSrc b 12 10, encFld w 4, encFld x 3, encFld y 2]) (ps := [(2, 0x0), (1, y.toNat), (1, x.toNat), (1, w.toNat), (5, 0x0), (2, b.mode.toNat), (4, b.reg.toNat), (2, a.mode.toNat), (4, a.reg.toNat), (4, d.toNat), (6, 0x13)])
    ⟨by decide, y.isLt, x.isLt, w.isLt, by decide, b.mode.isLt, b.reg.isLt, a.mode.isLt, a.reg.isLt, d.isLt, by decide, trivial⟩ rfl ?_ (fun N F lt => ?_) rfl
  · rw [pack_cons, pack_cons, pack_cons, pack_cons, pack_cons, pack_cons, pack_nil, encFld_eq, encSrc_eq, encSrc_eq, encFld_eq, encFld_eq, encFld_eq]; simp only [cat_cons, cat_nil]; omega
  rw [raw13 (major_of lt (F 10))]
  delta decodeMajor13
  have f0_2 : fld N 0 2 = 0x0 := F 0
  have f5_5 : fld N 5 5 = 0x0 := F 4
  refine (if_pos ⟨f0_2, f5_5⟩).trans ?_
  rw [show bits N 22 4 = d from bits_eq (F 9)]
  rw [show (⟨bits N 18 4, bits N 16 2⟩ : Src) = a from src_eq (F 8) (F 7)]
  rw [show (⟨bits N 12 4, bits N 10 2⟩ : Src) = b from src_eq (F 6) (F 5)]
  rw [show bits N 4 1 = w from bits_eq (F 3)]
  rw [show bits N 3 1 = x from bits_eq (F 2)]
  rw [show bits N 2 1 = y from bits_eq (F 1)]

theorem amoAnd (d : BitVec 4) (a : Src) (b : Src) (w : BitVec 1) (x : BitVec 1) (y : BitVec 1) : Statement (.amoAnd d a b w x y) := by
  refine of_cat (w := pack 0x4C000020 [encFld d 22, encSrc a 18 16, encSrc b 12 10, encFld w 4, encFld x 3, encFld y 2]) (ps := [(2, 0x0), (1, y.toNat), (1, x.toNat), (1, w.toNat), (5, 0x1), (2, b.mode.toNat), (4, b.reg.toNat), (2, a.mode.toNat), (4, a.reg.toNat), (4, d.toNat), (6, 0x13)])
    ⟨by decide, y.isLt, x.isLt, w.isLt, by decide, b.mode.isLt, b.reg.isLt, a.mode.isLt, a.reg.isLt, d.isLt, by decide, trivial⟩ rfl ?_ (fun N F lt => ?_) rfl
  · rw [pack_cons, pack_cons, pack_cons, pack_cons, pack_cons, pack_cons, pack_nil, encFld_eq, encSrc_eq, encSrc_eq, encFld_eq, encFld_eq, encFld_eq]; simp only [cat_cons, cat_nil]; omega
  rw [raw13 (major_of lt (F 10))]
  delta decodeMajor13
  have f5_5 : fld N 5 5 = 0x1 := F 4
  have f0_2 : fld N 0 2 = 0x0 := F 0
  refine (if_neg (fun h => absurd (f5_5.symm.trans h.2) (by decide))).trans ?_
  refine (if_pos ⟨f0_2, f5_5⟩).trans ?_
  rw [show bits N 22 4 = d from bits_eq (F 9)]
  rw [show (⟨bits N 18 4, bits N 16 2⟩ : Src) = a from src_eq (F 8) (F 7)]
  rw [show (⟨bits N 12 4, bits N 10 2⟩ : Src) = b from src_eq (F 6) (F 5)]
  rw [show bits N 4 1 = w from bits_eq (F 3)]
  rw [show bits N 3 1 = x from bits_eq (F 2)]
  rw [show bits N 2 1 = y from bits_eq (F 1)]

theorem amoOr (d : BitVec 4) (a : Src) (b : Src) (w : BitVec 1) (x : BitVec 1) (y : BitVec 1) : Statement (.amoOr d a b w x y) := by
  refine of_cat (w := pack 0x4C000040 [encFld d 22, encSrc a 18 16, encSrc b 12 10, encFld w 4, encFld x 3, encFld y 2]) (ps := [(2, 0x0), (1, y.toNat), (1, x.toNat), (1, w.toNat), (5, 0x2), (2, b.mode.toNat), (4, b.reg.toNat), (2, a.mode.toNat), (4, a.reg.toNat), (4, d.toNat), (6, 0x13)])
    ⟨by decide, y.isLt, x.isLt, w.isLt, by decide, b.mode.isLt, b.reg.isLt, a.mode.isLt, a.reg.isLt, d.isLt, by decide, trivial⟩ rfl ?_ (fun N F lt => ?_) rfl
  · rw [pack_cons, pack_cons, pack_cons, pack_cons, pack_cons, pack_cons, pack_nil, encFld_eq, encSrc_eq, encSrc_eq, encFld_eq, encFld_eq, encFld_eq]; simp only [cat_cons, cat_nil]; omega
  rw [raw13 (major_of lt (F 10))]
  delta decodeMajor13
  have f5_5 : fld N 5 5 = 0x2 := F 4
  have f0_2 : fld N 0 2 = 0x0 := F 0
  refine (if_neg (fun h => absurd (f5_5.symm.trans h.2) (by decide))).trans ?_
  refine (if_neg (fun h => absurd (f5_5.symm.trans h.2) (by decide))).trans ?_
  refine (if_pos ⟨f0_2, f5_5⟩).trans ?_
  rw [show bits N 22 4 = d from bits_eq (F 9)]
  rw [show (⟨bits N 18 4, bits N 16 2⟩ : Src) = a from src_eq (F 8) (F 7)]
  rw [show (⟨bits N 12 4, bits N 10 2⟩ : Src) = b from src_eq (F 6) (F 5)]
  rw [show bits N 4 1 = w from bits_eq (F 3)]
  rw [show bits N 3 1 = x from bits_eq (F 2)]
  rw [show bits N 2 1 = y from bits_eq (F 1)]

theorem amoXor (d : BitVec 4) (a : Src) (b : Src) (w : BitVec 1) (x : BitVec 1) (y : BitVec 1) : Statement (.amoXor d a b w x y) := by
  refine of_cat (w := pack 0x4C000060 [encFld d 22, encSrc a 18 16, encSrc b 12 10, encFld w 4, encFld x 3, encFld y 2]) (ps := [(2, 0x0), (1, y.toNat), (1, x.toNat), (1, w.toNat), (5, 0x3), (2, b.mode.toNat), (4, b.reg.toNat), (2, a.mode.toNat), (4, a.reg.toNat), (4, d.toNat), (6, 0x13)])
    ⟨by decide, y.isLt, x.isLt, w.isLt, by decide, b.mode.isLt, b.reg.isLt, a.mode.isLt, a.reg.isLt, d.isLt, by decide, trivial⟩ rfl ?_ (fun N F lt => ?_) rfl
  · rw [pack_cons, pack_cons, pack_cons, pack_cons, pack_cons, pack_cons, pack_nil, encFld_eq, encSrc_eq, encSrc_eq, encFld_eq, encFld_eq, encFld_eq]; simp only [cat_cons, cat_nil]; omega
  rw [raw13 (major_of lt (F 10))]
  delta decodeMajor13
  have f5_5 : fld N 5 5 = 0x3 := F 4
  have f0_2 : fld N 0 2 = 0x0 := F 0
  refine (if_neg (fun h => absurd (f5_5.symm.trans h.2) (by decide))).trans ?_
  refine (if_neg (fun h => absurd (f5_5.symm.trans h.2) (by decide))).trans ?_
  refine (if_neg (fun h => absurd (f5_5.symm.trans h.2) (by decide))).trans ?_
  refine (if_pos ⟨f0_2, f5_5⟩).trans ?_
  rw [show bits N 22 4 = d from bits_eq (F 9)]
  rw [show (⟨bits N 18 4, bits N 16 2⟩ : Src) = a from src_eq (F 8) (F 7)]
  rw [show (⟨bits N 12 4, bits N 10 2⟩ : Src) = b from src_eq (F 6) (F 5)]
  rw [show bits N 4 1 = w from bits_eq (F 3)]
  rw [show bits N 3 1 = x from bits_eq (F 2)]
  rw [show bits N 2 1 = y from bits_eq (F 1)]

theorem amoMin (d : BitVec 4) (a : Src) (b : Src) (w : BitVec 1) (x : BitVec 1) (y : BitVec 1) : Statement (.amoMin d a b w x y) := by
  refine of_cat (w := pack 0x4C000080 [encFld d 22, encSrc a 18 16, encSrc b 12 10, encFld w 4, encFld x 3, encFld y 2]) (ps := [(2, 0x0), (1, y.toNat), (1, x.toNat), (1, w.toNat), (5, 0x4), (2, b.mode.toNat), (4, b.reg.toNat), (2, a.mode.toNat), (4, a.reg.toNat), (4, d.toNat), (6, 0x13)])
    ⟨by decide, y.isLt, x.isLt, w.isLt, by decide, b.mode.isLt, b.reg.isLt, a.mode.isLt, a.reg.isLt, d.isLt, by decide, trivial⟩ rfl ?_ (fun N F lt => ?_) rfl
  · rw [pack_cons, pack_cons, pack_cons, pack_cons, pack_cons, pack_cons, pack_nil, encFld_eq, encSrc_eq, encSrc_eq, encFld_eq, encFld_eq, encFld_eq]; simp only [cat_cons, cat_nil]; omega
  rw [raw13 (major_of lt (F 10))]
  delta decodeMajor13
  have f5_5 : fld N 5 5 = 0x4 := F 4
  have f0_2 : fld N 0 2 = 0x0 := F 0
  refine (if_neg (fun h => absurd (f5_5.symm.trans h.2) (by decide))).trans ?_
  refine (if_neg (fun h => absurd (f5_5.symm.trans h.2) (by decide))).trans ?_
  refine (if_neg (fun h => absurd (f5_5.symm.trans h.2) (by decide))).trans ?_
  refine (if_neg (fun h => absurd (f5_5.symm.trans h.2) (by decide))).trans ?_
  refine (if_pos ⟨f0_2, f5_5⟩).trans ?_
  rw [show bits N 22 4 = d from bits_eq (F 9)]
  rw [show (⟨bits N 18 4, bits N 16 2⟩ : Src) = a from src_eq (F 8) (F 7)]
  rw [show (⟨bits N 12 4, bits N 10 2⟩ : Src) = b from src_eq (F 6) (F 5)]
  rw [show bits N 4 1 = w from bits_eq (F 3)]
  rw [show bits N 3 1 = x from bits_eq (F 2)]
  rw [show bits N 2 1 = y from bits_eq (F 1)]

theorem amoMax (d : BitVec 4) (a : Src) (b : Src) (w : BitVec 1) (x : BitVec 1) (y : BitVec 1) : Statement (.amoMax d a b w x y) := by
  refine of_cat (w := pack 0x4C0000A0 [encFld d 22, encSrc a 18 16, encSrc b 12 10, encFld w 4, encFld x 3, encFld y 2]) (ps := [(2, 0x0), (1, y.toNat), (1, x.toNat), (1, w.toNat), (5, 0x5), (2, b.mode.toNat), (4, b.reg.toNat), (2, a.mode.toNat), (4, a.reg.toNat), (4, d.toNat), (6, 0x13)])
    ⟨by decide, y.isLt, x.isLt, w.isLt, by decide, b.mode.isLt, b.reg.isLt, a.mode.isLt, a.reg.isLt, d.isLt, by decide, trivial⟩ rfl ?_ (fun N F lt => ?_) rfl
  · rw [pack_cons, pack_cons, pack_cons, pack_cons, pack_cons, pack_cons, pack_nil, encFld_eq, encSrc_eq, encSrc_eq, encFld_eq, encFld_eq, encFld_eq]; simp only [cat_cons, cat_nil]; omega
  rw [raw13 (major_of lt (F 10))]
  delta decodeMajor13
  have f5_5 : fld N 5 5 = 0x5 := F 4
  have f0_2 : fld N 0 2 = 0x0 := F 0
  refine (if_neg (fun h => absurd (f5_5.symm.trans h.2) (by decide))).trans ?_
  refine (if_neg (fun h => absurd (f5_5.symm.trans h.2) (by decide))).trans ?_
  refine (if_neg (fun h => absurd (f5_5.symm.trans h.2) (by decide))).trans ?_
  refine (if_neg (fun h => absurd (f5_5.symm.trans h.2) (by decide))).trans ?_
  refine (if_neg (fun h => absurd (f5_5.symm.trans h.2) (by decide))).trans ?_
  refine (if_pos ⟨f0_2, f5_5⟩).trans ?_
  rw [show bits N 22 4 = d from bits_eq (F 9)]
  rw [show (⟨bits N 18 4, bits N 16 2⟩ : Src) = a from src_eq (F 8) (F 7)]
  rw [show (⟨bits N 12 4, bits N 10 2⟩ : Src) = b from src_eq (F 6) (F 5)]
  rw [show bits N 4 1 = w from bits_eq (F 3)]
  rw [show bits N 3 1 = x from bits_eq (F 2)]
  rw [show bits N 2 1 = y from bits_eq (F 1)]

theorem amoMinu (d : BitVec 4) (a : Src) (b : Src) (w : BitVec 1) (x : BitVec 1) (y : BitVec 1) : Statement (.amoMinu d a b w x y) := by
  refine of_cat (w := pack 0x4C0000C0 [encFld d 22, encSrc a 18 16, encSrc b 12 10, encFld w 4, encFld x 3, encFld y 2]) (ps := [(2, 0x0), (1, y.toNat), (1, x.toNat), (1, w.toNat), (5, 0x6), (2, b.mode.toNat), (4, b.reg.toNat), (2, a.mode.toNat), (4, a.reg.toNat), (4, d.toNat), (6, 0x13)])
    ⟨by decide, y.isLt, x.isLt, w.isLt, by decide, b.mode.isLt, b.reg.isLt, a.mode.isLt, a.reg.isLt, d.isLt, by decide, trivial⟩ rfl ?_ (fun N F lt => ?_) rfl
  · rw [pack_cons, pack_cons, pack_cons, pack_cons, pack_cons, pack_cons, pack_nil, encFld_eq, encSrc_eq, encSrc_eq, encFld_eq, encFld_eq, encFld_eq]; simp only [cat_cons, cat_nil]; omega
  rw [raw13 (major_of lt (F 10))]
  delta decodeMajor13
  have f5_5 : fld N 5 5 = 0x6 := F 4
  have f0_2 : fld N 0 2 = 0x0 := F 0
  refine (if_neg (fun h => absurd (f5_5.symm.trans h.2) (by decide))).trans ?_
  refine (if_neg (fun h => absurd (f5_5.symm.trans h.2) (by decide))).trans ?_
  refine (if_neg (fun h => absurd (f5_5.symm.trans h.2) (by decide))).trans ?_
  refine (if_neg (fun h => absurd (f5_5.symm.trans h.2) (by decide))).trans ?_
  refine (if_neg (fun h => absurd (f5_5.symm.trans h.2) (by decide))).trans ?_
  refine (if_neg (fun h => absurd (f5_5.symm.trans h.2) (by decide))).trans ?_
  refine (if_pos ⟨f0_2, f5_5⟩).trans ?_
  rw [show bits N 22 4 = d from bits_eq (F 9)]
  rw [show (⟨bits N 18 4, bits N 16 2⟩ : Src) = a from src_eq (F 8) (F 7)]
  rw [show (⟨bits N 12 4, bits N 10 2⟩ : Src) = b from src_eq (F 6) (F 5)]
  rw [show bits N 4 1 = w from bits_eq (F 3)]
  rw [show bits N 3 1 = x from bits_eq (F 2)]
  rw [show bits N 2 1 = y from bits_eq (F 1)]

theorem amoMaxu (d : BitVec 4) (a : Src) (b : Src) (w : BitVec 1) (x : BitVec 1) (y : BitVec 1) : Statement (.amoMaxu d a b w x y) := by
  refine of_cat (w := pack 0x4C0000E0 [encFld d 22, encSrc a 18 16, encSrc b 12 10, encFld w 4, encFld x 3, encFld y 2]) (ps := [(2, 0x0), (1, y.toNat), (1, x.toNat), (1, w.toNat), (5, 0x7), (2, b.mode.toNat), (4, b.reg.toNat), (2, a.mode.toNat), (4, a.reg.toNat), (4, d.toNat), (6, 0x13)])
    ⟨by decide, y.isLt, x.isLt, w.isLt, by decide, b.mode.isLt, b.reg.isLt, a.mode.isLt, a.reg.isLt, d.isLt, by decide, trivial⟩ rfl ?_ (fun N F lt => ?_) rfl
  · rw [pack_cons, pack_cons, pack_cons, pack_cons, pack_cons, pack_cons, pack_nil, encFld_eq, encSrc_eq, encSrc_eq, encFld_eq, encFld_eq, encFld_eq]; simp only [cat_cons, cat_nil]; omega
  rw [raw13 (major_of lt (F 10))]
  delta decodeMajor13
  have f5_5 : fld N 5 5 = 0x7 := F 4
  have f0_2 : fld N 0 2 = 0x0 := F 0
  refine (if_neg (fun h => absurd (f5_5.symm.trans h.2) (by decide))).trans ?_
  refine (if_neg (fun h => absurd (f5_5.symm.trans h.2) (by decide))).trans ?_
  refine (if_neg (fun h => absurd (f5_5.symm.trans h.2) (by decide))).trans ?_
  refine (if_neg (fun h => absurd (f5_5.symm.trans h.2) (by decide))).trans ?_
  refine (if_neg (fun h => absurd (f5_5.symm.trans h.2) (by decide))).trans ?_
  refine (if_neg (fun h => absurd (f5_5.symm.trans h.2) (by decide))).trans ?_
  refine (if_neg (fun h => absurd (f5_5.symm.trans h.2) (by decide))).trans ?_
  refine (if_pos ⟨f0_2, f5_5⟩).trans ?_
  rw [show bits N 22 4 = d from bits_eq (F 9)]
  rw [show (⟨bits N 18 4, bits N 16 2⟩ : Src) = a from src_eq (F 8) (F 7)]
  rw [show (⟨bits N 12 4, bits N 10 2⟩ : Src) = b from src_eq (F 6) (F 5)]
  rw [show bits N 4 1 = w from bits_eq (F 3)]
  rw [show bits N 3 1 = x from bits_eq (F 2)]
  rw [show bits N 2 1 = y from bits_eq (F 1)]

theorem amoSwp (d : BitVec 4) (a : Src) (b : Src) (w : BitVec 1) (x : BitVec 1) (y : BitVec 1) : Statement (.amoSwp d a b w x y) := by
  refine of_cat (w := pack 0x4C000100 [encFld d 22, encSrc a 18 16, encSrc b 12 10, encFld w 4, encFld x 3, encFld y 2]) (ps := [(2, 0x0), (1, y.toNat), (1, x.toNat), (1, w.toNat), (5, 0x8), (2, b.mode.toNat), (4, b.reg.toNat), (2, a.mode.toNat), (4, a.reg.toNat), (4, d.toNat), (6, 0x13)])
    ⟨by decide, y.isLt, x.isLt, w.isLt, by decide, b.mode.isLt, b.reg.isLt, a.mode.isLt, a.reg.isLt, d.isLt, by decide, trivial⟩ rfl ?_ (fun N F lt => ?_) rfl
  · rw [pack_cons, pack_cons, pack_cons, pack_cons, pack_cons, pack_cons, pack_nil, encFld_eq, encSrc_eq, encSrc_eq, encFld_eq, encFld_eq, encFld_eq]; simp only [cat_cons, cat_nil]; omega
  rw [raw13 (major_of lt (F 10))]
  delta decodeMajor13
  have f5_5 : fld N 5 5 = 0x8 := F 4
  have f0_2 : fld N 0 2 = 0x0 := F 0
  refine (if_neg (fun h => absurd (f5_5.symm.trans h.2) (by decide))).trans ?_
  refine (if_neg (fun h => absurd (f5_5.symm.trans h.2) (by decide))).trans ?_
  refine (if_neg (fun h => absurd (f5_5.symm.trans h.2) (by decide))).trans ?_
  refine (if_neg (fun h => absurd (f5_5.symm.trans h.2) (by decide))).trans ?_
  refine (if_neg (fun h => absurd (f5_5.symm.trans h.2) (by decide))).trans ?_
  refine (if_neg (fun h => absurd (f5_5.symm.trans h.2) (by decide))).trans ?_
  refine (if_neg (fun h => absurd (f5_5.symm.trans h.2) (by decide))).trans ?_
  refine (if_neg (fun h => absurd (f5_5.symm.trans h.2) (by decide))).trans ?_
  refine (if_pos ⟨f0_2, f5_5⟩).trans ?_
  rw [show bits N 22 4 = d from bits_eq (F 9)]
  rw [show (⟨bits N 18 4, bits N 16 2⟩ : Src) = a from src_eq (F 8) (F 7)]
  rw [show (⟨bits N 12 4, bits N 10 2⟩ : Src) = b from src_eq (F 6) (F 5)]
  rw [show bits N 4 1 = w from bits_eq (F 3)]
  rw [show bits N 3 1 = x from bits_eq (F 2)]
  rw [show bits N 2 1 = y from bits_eq (F 1)]

theorem amoCas (d : BitVec 4) (a : Src) (b : Src) (w : BitVec 1) (x : BitVec 1) (y : BitVec 1) : Statement (.amoCas d a b w x y) := by
  refine of_cat (w := pack 0x4C000120 [encFld d 22, encSrc a 18 16, encSrc b 12 10, encFld w 4, encFld x 3, encFld y 2]) (ps := [(2, 0x0), (1, y.toNat), (1, x.toNat), (1, w.toNat), (5, 0x9), (2, b.mode.toNat), (4, b.reg.toNat), (2, a.mode.toNat), (4, a.reg.toNat), (4, d.toNat), (6, 0x13)])
    ⟨by decide, y.isLt, x.isLt, w.isLt, by decide, b.mode.isLt, b.reg.isLt, a.mode.isLt, a.reg.isLt, d.isLt, by decide, trivial⟩ rfl ?_ (fun N F lt => ?_) rfl
  · rw [pack_cons, pack_cons, pack_cons, pack_cons, pack_cons, pack_cons, pack_nil, encFld_eq, encSrc_eq, encSrc_eq, encFld_eq, encFld_eq, encFld_eq]; simp only [cat_cons, cat_nil]; omega
  rw [raw13 (major_of lt (F 10))]
  delta decodeMajor13
  have f5_5 : fld N 5 5 = 0x9 := F 4
  have f0_2 : fld N 0 2 = 0x0 := F 0
  refine (if_neg (fun h => absurd (f5_5.symm.trans h.2) (by decide))).trans ?_
  refine (if_neg (fun h => absurd (f5_5.symm.trans h.2) (by decide))).trans ?_
  refine (if_neg (fun h => absurd (f5_5.symm.trans h.2) (by decide))).trans ?_
  refine (if_neg (fun h => absurd (f5_5.symm.trans h.2) (by decide))).trans ?_
  refine (if_neg (fun h => absurd (f5_5.symm.trans h.2) (by decide))).trans ?_
  refine (if_neg (fun h => absurd (f5_5.symm.trans h.2) (by decide))).trans ?_
  refine (if_neg (fun h => absurd (f5_5.symm.trans h.2) (by decide))).trans ?_
  refine (if_neg (fun h => absurd (f5_5.symm.trans h.2) (by decide))).trans ?_
  refine (if_neg (fun h => absurd (f5_5.symm.trans h.2) (by decide))).trans ?_
  refine (if_pos ⟨f0_2, f5_5⟩).trans ?_
  rw [show bits N 22 4 = d from bits_eq (F 9)]
  rw [show (⟨bits N 18 4, bits N 16 2⟩ : Src) = a from src_eq (F 8) (F 7)]
  rw [show (⟨bits N 12 4, bits N 10 2⟩ : Src) = b from src_eq (F 6) (F 5)]
  rw [show bits N 4 1 = w from bits_eq (F 3)]
  rw [show bits N 3 1 = x from bits_eq (F 2)]
  rw [show bits N 2 1 = y from bits_eq (F 1)]

theorem amoFadd (d : BitVec 4) (a : Src) (b : Src) (w : BitVec 1) (x : BitVec 1) (y : BitVec 1) : Statement (.amoFadd d a b w x y) := by
  refine of_cat (w := pack 0x4C000140 [encFld d 22, encSrc a 18 16, encSrc b 12 10, encFld w 4, encFld x 3, encFld y 2]) (ps := [(2, 0x0), (1, y.toNat), (1, x.toNat), (1, w.toNat), (5, 0xA), (2, b.mode.toNat), (4, b.reg.toNat), (2, a.mode.toNat), (4, a.reg.toNat), (4, d.toNat), (6, 0x13)])
    ⟨by decide, y.isLt, x.isLt, w.isLt, by decide, b.mode.isLt, b.reg.isLt, a.mode.isLt, a.reg.isLt, d.isLt, by decide, trivial⟩ rfl ?_ (fun N F lt => ?_) rfl
  · rw [pack_cons, pack_cons, pack_cons, pack_cons, pack_cons, pack_cons, pack_nil, encFld_eq, encSrc_eq, encSrc_eq, encFld_eq, encFld_eq, encFld_eq]; simp only [cat_cons, cat_nil]; omega
  rw [raw13 (major_of lt (F 10))]
  delta decodeMajor13
  have f5_5 : fld N 5 5 = 0xA := F 4
  have f0_2 : fld N 0 2 = 0x0 := F 0
  refine (if_neg (fun h => absurd (f5_5.symm.trans h.2) (by decide))).trans ?_
  refine (if_neg (fun h => absurd (f5_5.symm.trans h.2) (by decide))).trans ?_
  refine (if_neg (fun h => absurd (f5_5.symm.trans h.2) (by decide))).trans ?_
  refine (if_neg (fun h => absurd (f5_5.symm.trans h.2) (by decide))).trans ?_
  refine (if_neg (fun h => absurd (f5_5.symm.trans h.2) (by decide))).trans ?_
  refine (if_neg (fun h => absurd (f5_5.symm.trans h.2) (by decide))).trans ?_
  refine (if_neg (fun h => absurd (f5_5.symm.trans h.2) (by decide))).trans ?_
  refine (if_neg (fun h => absurd (f5_5.symm.trans h.2) (by decide))).trans ?_
  refine (if_neg (fun h => absurd (f5_5.symm.trans h.2) (by decide))).trans ?_
  refine (if_neg (fun h => absurd (f5_5.symm.trans h.2) (by decide))).trans ?_
  refine (if_pos ⟨f0_2, f5_5⟩).trans ?_
  rw [show bits N 22 4 = d from bits_eq (F 9)]
  rw [show (⟨bits N 18 4, bits N 16 2⟩ : Src) = a from src_eq (F 8) (F 7)]
  rw [show (⟨bits N 12 4, bits N 10 2⟩ : Src) = b from src_eq (F 6) (F 5)]
  rw [show bits N 4 1 = w from bits_eq (F 3)]
  rw [show bits N 3 1 = x from bits_eq (F 2)]
  rw [show bits N 2 1 = y from bits_eq (F 1)]

theorem fence (d : BitVec 4) (s : BitVec 3) (k : BitVec 2) : Statement (.fence d s k) := by
  refine of_cat (w := pack 0x50000000 [encFld d 22, encFld s 2, encFld k 0]) (ps := [(2, k.toNat), (3, s.toNat), (17, 0x0), (4, d.toNat), (6, 0x14)])
    ⟨k.isLt, s.isLt, by decide, d.isLt, by decide, trivial⟩ rfl ?_ (fun N F lt => ?_) rfl
  · rw [pack_cons, pack_cons, pack_cons, pack_nil, encFld_eq, encFld_eq, encFld_eq]; simp only [cat_cons, cat_nil]; omega
  rw [raw14 (major_of lt (F 4))]
  delta decodeMajor14
  have f5_17 : fld N 5 17 = 0x0 := F 2
  refine (if_pos f5_17).trans ?_
  rw [show bits N 22 4 = d from bits_eq (F 3)]
  rw [show bits N 2 3 = s from bits_eq (F 1)]
  rw [show bits N 0 2 = k from bits_eq (F 0)]

theorem drainS : Statement (.drainS) := by
  refine of_cat (w := 0x50000020) (ps := [(32, 0x50000020)])
    ⟨by decide, trivial⟩ rfl ?_ (fun N F lt => ?_) rfl
  · decide
  rw [raw14 (major_of lt (fld_part (n := N) (lo := 0) (w := 32) (v := 0x50000020) 26 6 (F 0) (by decide)))]
  delta decodeMajor14
  have f0_32 : fld N 0 32 = 0x50000020 := F 0
  refine skip (fld_part 5 17 f0_32 (by decide)) (by decide) ?_
  refine (if_pos f0_32).trans ?_
  rfl

theorem isync : Statement (.isync) := by
  refine of_cat (w := 0x50000040) (ps := [(32, 0x50000040)])
    ⟨by decide, trivial⟩ rfl ?_ (fun N F lt => ?_) rfl
  · decide
  rw [raw14 (major_of lt (fld_part (n := N) (lo := 0) (w := 32) (v := 0x50000040) 26 6 (F 0) (by decide)))]
  delta decodeMajor14
  have f0_32 : fld N 0 32 = 0x50000040 := F 0
  refine skip (fld_part 5 17 f0_32 (by decide)) (by decide) ?_
  refine skip f0_32 (by decide) ?_
  refine (if_pos f0_32).trans ?_
  rfl

theorem frd (d : BitVec 4) (a : Src) (t : BitVec 1) (c : BitVec 1) : Statement (.frd d a t c) := by
  refine of_cat (w := pack 0x54000000 [encFld d 22, encSrc a 18 16, encFld t 4, encFld c 3]) (ps := [(3, 0x0), (1, c.toNat), (1, t.toNat), (11, 0x0), (2, a.mode.toNat), (4, a.reg.toNat), (4, d.toNat), (6, 0x15)])
    ⟨by decide, c.isLt, t.isLt, by decide, a.mode.isLt, a.reg.isLt, d.isLt, by decide, trivial⟩ rfl ?_ (fun N F lt => ?_) rfl
  · rw [pack_cons, pack_cons, pack_cons, pack_cons, pack_nil, encFld_eq, encSrc_eq, encFld_eq, encFld_eq]; simp only [cat_cons, cat_nil]; omega
  rw [raw15 (major_of lt (F 7))]
  delta decodeMajor15
  have f0_3 : fld N 0 3 = 0x0 := F 0
  have f5_11 : fld N 5 11 = 0x0 := F 3
  refine (if_pos ⟨f0_3, f5_11⟩).trans ?_
  rw [show bits N 22 4 = d from bits_eq (F 6)]
  rw [show (⟨bits N 18 4, bits N 16 2⟩ : Src) = a from src_eq (F 5) (F 4)]
  rw [show bits N 4 1 = t from bits_eq (F 2)]
  rw [show bits N 3 1 = c from bits_eq (F 1)]

theorem fwr (a : Src) (b : Src) : Statement (.fwr a b) := by
  refine of_cat (w := pack 0x54000020 [encSrc a 18 16, encSrc b 12 10]) (ps := [(10, 0x20), (2, b.mode.toNat), (4, b.reg.toNat), (2, a.mode.toNat), (4, a.reg.toNat), (10, 0x150)])
    ⟨by decide, b.mode.isLt, b.reg.isLt, a.mode.isLt, a.reg.isLt, by decide, trivial⟩ rfl ?_ (fun N F lt => ?_) rfl
  · rw [pack_cons, pack_cons, pack_nil, encSrc_eq, encSrc_eq]; simp only [cat_cons, cat_nil]; omega
  rw [raw15 (major_of lt (fld_part (n := N) (lo := 22) (w := 10) (v := 0x150) 4 6 (F 5) (by decide)))]
  delta decodeMajor15
  have f0_10 : fld N 0 10 = 0x20 := F 0
  have f22_10 : fld N 22 10 = 0x150 := F 5
  refine (if_neg (fun h => absurd ((fld_part 5 5 f0_10 (by decide)).symm.trans (fld_part 0 5 h.2 (by decide))) (by decide))).trans ?_
  refine (if_pos ⟨f0_10, f22_10⟩).trans ?_
  rw [show (⟨bits N 18 4, bits N 16 2⟩ : Src) = a from src_eq (F 4) (F 3)]
  rw [show (⟨bits N 12 4, bits N 10 2⟩ : Src) = b from src_eq (F 2) (F 1)]

theorem fclr (a : Src) : Statement (.fclr a) := by
  refine of_cat (w := pack 0x54000040 [encSrc a 18 16]) (ps := [(16, 0x40), (2, a.mode.toNat), (4, a.reg.toNat), (10, 0x150)])
    ⟨by decide, a.mode.isLt, a.reg.isLt, by decide, trivial⟩ rfl ?_ (fun N F lt => ?_) rfl
  · rw [pack_cons, pack_nil, encSrc_eq]; simp only [cat_cons, cat_nil]; omega
  rw [raw15 (major_of lt (fld_part (n := N) (lo := 22) (w := 10) (v := 0x150) 4 6 (F 3) (by decide)))]
  delta decodeMajor15
  have f0_16 : fld N 0 16 = 0x40 := F 0
  have f22_10 : fld N 22 10 = 0x150 := F 3
  refine (if_neg (fun h => absurd ((fld_part 5 11 f0_16 (by decide)).symm.trans h.2) (by decide))).trans ?_
  refine (if_neg (fun h => absurd ((fld_part 0 10 f0_16 (by decide)).symm.trans h.1) (by decide))).trans ?_
  refine (if_pos ⟨f0_16, f22_10⟩).trans ?_
  rw [show (⟨bits N 18 4, bits N 16 2⟩ : Src) = a from src_eq (F 2) (F 1)]

theorem xwr (d : BitVec 4) (a : Src) (b : Src) : Statement (.xwr d a b) := by
  refine of_cat (w := pack 0x58000000 [encFld d 22, encSrc a 18 16, encSrc b 12 10]) (ps := [(10, 0x0), (2, b.mode.toNat), (4, b.reg.toNat), (2, a.mode.toNat), (4, a.reg.toNat), (4, d.toNat), (6, 0x16)])
    ⟨by decide, b.mode.isLt, b.reg.isLt, a.mode.isLt, a.reg.isLt, d.isLt, by decide, trivial⟩ rfl ?_ (fun N F lt => ?_) rfl
  · rw [pack_cons, pack_cons, pack_cons, pack_nil, encFld_eq, encSrc_eq, encSrc_eq]; simp only [cat_cons, cat_nil]; omega
  rw [raw16 (major_of lt (F 6))]
  delta decodeMajor16
  have f0_10 : fld N 0 10 = 0x0 := F 0
  refine (if_pos f0_10).trans ?_
  rw [show bits N 22 4 = d from bits_eq (F 5)]
  rw [show (⟨bits N 18 4, bits N 16 2⟩ : Src) = a from src_eq (F 4) (F 3)]
  rw [show (⟨bits N 12 4, bits N 10 2⟩ : Src) = b from src_eq (F 2) (F 1)]

theorem slb (d : BitVec 4) : Statement (.slb d) := by
  refine of_cat (w := pack 0x58000020 [encFld d 22]) (ps := [(22, 0x20), (4, d.toNat), (6, 0x16)])
    ⟨by decide, d.isLt, by decide, trivial⟩ rfl ?_ (fun N F lt => ?_) rfl
  · rw [pack_cons, pack_nil, encFld_eq]; simp only [cat_cons, cat_nil]; omega
  rw [raw16 (major_of lt (F 2))]
  delta decodeMajor16
  have f0_22 : fld N 0 22 = 0x20 := F 0
  refine skip (fld_part 0 10 f0_22 (by decide)) (by decide) ?_
  refine (if_pos f0_22).trans ?_
  rw [show bits N 22 4 = d from bits_eq (F 1)]

theorem slr : Statement (.slr) := by
  refine of_cat (w := 0x58000040) (ps := [(32, 0x58000040)])
    ⟨by decide, trivial⟩ rfl ?_ (fun N F lt => ?_) rfl
  · decide
  rw [raw16 (major_of lt (fld_part (n := N) (lo := 0) (w := 32) (v := 0x58000040) 26 6 (F 0) (by decide)))]
  delta decodeMajor16
  have f0_32 : fld N 0 32 = 0x58000040 := F 0
  refine skip (fld_part 0 10 f0_32 (by decide)) (by decide) ?_
  refine skip (fld_part 0 22 f0_32 (by decide)) (by decide) ?_
  refine (if_pos f0_32).trans ?_
  rfl

theorem mxf (d : BitVec 4) (b : BitVec 4) : Statement (.mxf d b) := by
  refine of_cat (w := pack 0x58000060 [encFld d 22, encFld b 12]) (ps := [(12, 0x60), (4, b.toNat), (6, 0x0), (4, d.toNat), (6, 0x16)])
    ⟨by decide, b.isLt, by decide, d.isLt, by decide, trivial⟩ rfl ?_ (fun N F lt => ?_) rfl
  · rw [pack_cons, pack_cons, pack_nil, encFld_eq, encFld_eq]; simp only [cat_cons, cat_nil]; omega
  rw [raw16 (major_of lt (F 4))]
  delta decodeMajor16
  have f0_12 : fld N 0 12 = 0x60 := F 0
  have f16_6 : fld N 16 6 = 0x0 := F 2
  refine skip (fld_part 0 10 f0_12 (by decide)) (by decide) ?_
  refine (if_neg (fun h => absurd (f0_12.symm.trans (fld_part 0 12 h (by decide))) (by decide))).trans ?_
  refine (if_neg (fun h => absurd (f0_12.symm.trans (fld_part 0 12 h (by decide))) (by decide))).trans ?_
  refine (if_pos ⟨f0_12, f16_6⟩).trans ?_
  rw [show bits N 22 4 = d from bits_eq (F 3)]
  rw [show bits N 12 4 = b from bits_eq (F 1)]

theorem mxt (d : BitVec 4) (a : Src) : Statement (.mxt d a) := by
  refine of_cat (w := pack 0x58000080 [encFld d 22, encSrc a 18 16]) (ps := [(16, 0x80), (2, a.mode.toNat), (4, a.reg.toNat), (4, d.toNat), (6, 0x16)])
    ⟨by decide, a.mode.isLt, a.reg.isLt, d.isLt, by decide, trivial⟩ rfl ?_ (fun N F lt => ?_) rfl
  · rw [pack_cons, pack_cons, pack_nil, encFld_eq, encSrc_eq]; simp only [cat_cons, cat_nil]; omega
  rw [raw16 (major_of lt (F 4))]
  delta decodeMajor16
  have f0_16 : fld N 0 16 = 0x80 := F 0
  refine skip (fld_part 0 10 f0_16 (by decide)) (by decide) ?_
  refine (if_neg (fun h => absurd (f0_16.symm.trans (fld_part 0 16 h (by decide))) (by decide))).trans ?_
  refine (if_neg (fun h => absurd (f0_16.symm.trans (fld_part 0 16 h (by decide))) (by decide))).trans ?_
  refine (if_neg (fun h => absurd ((fld_part 0 12 f0_16 (by decide)).symm.trans h.1) (by decide))).trans ?_
  refine (if_pos f0_16).trans ?_
  rw [show bits N 22 4 = d from bits_eq (F 3)]
  rw [show (⟨bits N 18 4, bits N 16 2⟩ : Src) = a from src_eq (F 2) (F 1)]

theorem bindq (d : BitVec 4) (b : Src) : Statement (.bindq d b) := by
  refine of_cat (w := pack 0x580000A0 [encFld d 22, encSrc b 12 10]) (ps := [(10, 0xA0), (2, b.mode.toNat), (4, b.reg.toNat), (6, 0x0), (4, d.toNat), (6, 0x16)])
    ⟨by decide, b.mode.isLt, b.reg.isLt, by decide, d.isLt, by decide, trivial⟩ rfl ?_ (fun N F lt => ?_) rfl
  · rw [pack_cons, pack_cons, pack_nil, encFld_eq, encSrc_eq]; simp only [cat_cons, cat_nil]; omega
  rw [raw16 (major_of lt (F 5))]
  delta decodeMajor16
  have f0_10 : fld N 0 10 = 0xA0 := F 0
  have f16_6 : fld N 16 6 = 0x0 := F 3
  refine skip f0_10 (by decide) ?_
  refine (if_neg (fun h => absurd (f0_10.symm.trans (fld_part 0 10 h (by decide))) (by decide))).trans ?_
  refine (if_neg (fun h => absurd (f0_10.symm.trans (fld_part 0 10 h (by decide))) (by decide))).trans ?_
  refine (if_neg (fun h => absurd (f0_10.symm.trans (fld_part 0 10 h.1 (by decide))) (by decide))).trans ?_
  refine (if_neg (fun h => absurd (f0_10.symm.trans (fld_part 0 10 h (by decide))) (by decide))).trans ?_
  refine (if_pos ⟨f0_10, f16_6⟩).trans ?_
  rw [show bits N 22 4 = d from bits_eq (F 4)]
  rw [show (⟨bits N 12 4, bits N 10 2⟩ : Src) = b from src_eq (F 2) (F 1)]

theorem unbq (d : BitVec 4) : Statement (.unbq d) := by
  refine of_cat (w := pack 0x580000C0 [encFld d 22]) (ps := [(22, 0xC0), (4, d.toNat), (6, 0x16)])
    ⟨by decide, d.isLt, by decide, trivial⟩ rfl ?_ (fun N F lt => ?_) rfl
  · rw [pack_cons, pack_nil, encFld_eq]; simp only [cat_cons, cat_nil]; omega
  rw [raw16 (major_of lt (F 2))]
  delta decodeMajor16
  have f0_22 : fld N 0 22 = 0xC0 := F 0
  refine skip (fld_part 0 10 f0_22 (by decide)) (by decide) ?_
  refine skip f0_22 (by decide) ?_
  refine (if_neg (fun h => absurd (f0_22.symm.trans (fld_part 0 22 h (by decide))) (by decide))).trans ?_
  refine (if_neg (fun h => absurd ((fld_part 0 12 f0_22 (by decide)).symm.trans h.1) (by decide))).trans ?_
  refine skip (fld_part 0 16 f0_22 (by decide)) (by decide) ?_
  refine (if_neg (fun h => absurd ((fld_part 0 10 f0_22 (by decide)).symm.trans h.1) (by decide))).trans ?_
  refine (if_pos f0_22).trans ?_
  rw [show bits N 22 4 = d from bits_eq (F 1)]

theorem empty (d : BitVec 4) : Statement (.empty d) := by
  refine of_cat (w := pack 0x580000E0 [encFld d 22]) (ps := [(22, 0xE0), (4, d.toNat), (6, 0x16)])
    ⟨by decide, d.isLt, by decide, trivial⟩ rfl ?_ (fun N F lt => ?_) rfl
  · rw [pack_cons, pack_nil, encFld_eq]; simp only [cat_cons, cat_nil]; omega
  rw [raw16 (major_of lt (F 2))]
  delta decodeMajor16
  have f0_22 : fld N 0 22 = 0xE0 := F 0
  refine skip (fld_part 0 10 f0_22 (by decide)) (by decide) ?_
  refine skip f0_22 (by decide) ?_
  refine (if_neg (fun h => absurd (f0_22.symm.trans (fld_part 0 22 h (by decide))) (by decide))).trans ?_
  refine (if_neg (fun h => absurd ((fld_part 0 12 f0_22 (by decide)).symm.trans h.1) (by decide))).trans ?_
  refine skip (fld_part 0 16 f0_22 (by decide)) (by decide) ?_
  refine (if_neg (fun h => absurd ((fld_part 0 10 f0_22 (by decide)).symm.trans h.1) (by decide))).trans ?_
  refine skip f0_22 (by decide) ?_
  refine (if_pos f0_22).trans ?_
  rw [show bits N 22 4 = d from bits_eq (F 1)]

theorem isfull (d : BitVec 4) (a : BitVec 4) : Statement (.isfull d a) := by
  refine of_cat (w := pack 0x58000100 [encFld d 22, encFld a 18]) (ps := [(18, 0x100), (4, a.toNat), (4, d.toNat), (6, 0x16)])
    ⟨by decide, a.isLt, d.isLt, by decide, trivial⟩ rfl ?_ (fun N F lt => ?_) rfl
  · rw [pack_cons, pack_cons, pack_nil, encFld_eq, encFld_eq]; simp only [cat_cons, cat_nil]; omega
  rw [raw16 (major_of lt (F 3))]
  delta decodeMajor16
  have f0_18 : fld N 0 18 = 0x100 := F 0
  refine skip (fld_part 0 10 f0_18 (by decide)) (by decide) ?_
  refine (if_neg (fun h => absurd (f0_18.symm.trans (fld_part 0 18 h (by decide))) (by decide))).trans ?_
  refine (if_neg (fun h => absurd (f0_18.symm.trans (fld_part 0 18 h (by decide))) (by decide))).trans ?_
  refine (if_neg (fun h => absurd ((fld_part 0 12 f0_18 (by decide)).symm.trans h.1) (by decide))).trans ?_
  refine skip (fld_part 0 16 f0_18 (by decide)) (by decide) ?_
  refine (if_neg (fun h => absurd ((fld_part 0 10 f0_18 (by decide)).symm.trans h.1) (by decide))).trans ?_
  refine (if_neg (fun h => absurd (f0_18.symm.trans (fld_part 0 18 h (by decide))) (by decide))).trans ?_
  refine (if_neg (fun h => absurd (f0_18.symm.trans (fld_part 0 18 h (by decide))) (by decide))).trans ?_
  refine (if_pos f0_18).trans ?_
  rw [show bits N 22 4 = d from bits_eq (F 2)]
  rw [show bits N 18 4 = a from bits_eq (F 1)]

theorem beqz (a : Src) (o : BitVec 17) : Statement (.beqz a o) := by
  refine of_cat (w := pack 0x60000000 [encSrc a 22 20, encFld o 0]) (ps := [(17, o.toNat), (3, 0x0), (2, a.mode.toNat), (4, a.reg.toNat), (6, 0x18)])
    ⟨o.isLt, by decide, a.mode.isLt, a.reg.isLt, by decide, trivial⟩ rfl ?_ (fun N F lt => ?_) rfl
  · rw [pack_cons, pack_cons, pack_nil, encSrc_eq, encFld_eq]; simp only [cat_cons, cat_nil]; omega
  rw [raw18 (major_of lt (F 4))]
  delta decodeMajor18
  have f17_3 : fld N 17 3 = 0x0 := F 1
  refine (if_pos f17_3).trans ?_
  rw [show (⟨bits N 22 4, bits N 20 2⟩ : Src) = a from src_eq (F 3) (F 2)]
  rw [show bits N 0 17 = o from bits_eq (F 0)]

theorem bnez (a : Src) (o : BitVec 17) : Statement (.bnez a o) := by
  refine of_cat (w := pack 0x60020000 [encSrc a 22 20, encFld o 0]) (ps := [(17, o.toNat), (3, 0x1), (2, a.mode.toNat), (4, a.reg.toNat), (6, 0x18)])
    ⟨o.isLt, by decide, a.mode.isLt, a.reg.isLt, by decide, trivial⟩ rfl ?_ (fun N F lt => ?_) rfl
  · rw [pack_cons, pack_cons, pack_nil, encSrc_eq, encFld_eq]; simp only [cat_cons, cat_nil]; omega
  rw [raw18 (major_of lt (F 4))]
  delta decodeMajor18
  have f17_3 : fld N 17 3 = 0x1 := F 1
  refine skip f17_3 (by decide) ?_
  refine (if_pos f17_3).trans ?_
  rw [show (⟨bits N 22 4, bits N 20 2⟩ : Src) = a from src_eq (F 3) (F 2)]
  rw [show bits N 0 17 = o from bits_eq (F 0)]

theorem bltz (a : Src) (o : BitVec 17) : Statement (.bltz a o) := by
  refine of_cat (w := pack 0x60040000 [encSrc a 22 20, encFld o 0]) (ps := [(17, o.toNat), (3, 0x2), (2, a.mode.toNat), (4, a.reg.toNat), (6, 0x18)])
    ⟨o.isLt, by decide, a.mode.isLt, a.reg.isLt, by decide, trivial⟩ rfl ?_ (fun N F lt => ?_) rfl
  · rw [pack_cons, pack_cons, pack_nil, encSrc_eq, encFld_eq]; simp only [cat_cons, cat_nil]; omega
  rw [raw18 (major_of lt (F 4))]
  delta decodeMajor18
  have f17_3 : fld N 17 3 = 0x2 := F 1
  refine skip f17_3 (by decide) ?_
  refine skip f17_3 (by decide) ?_
  refine (if_pos f17_3).trans ?_
  rw [show (⟨bits N 22 4, bits N 20 2⟩ : Src) = a from src_eq (F 3) (F 2)]
  rw [show bits N 0 17 = o from bits_eq (F 0)]

theorem bgez (a : Src) (o : BitVec 17) : Statement (.bgez a o) := by
  refine of_cat (w := pack 0x60060000 [encSrc a 22 20, encFld o 0]) (ps := [(17, o.toNat), (3, 0x3), (2, a.mode.toNat), (4, a.reg.toNat), (6, 0x18)])
    ⟨o.isLt, by decide, a.mode.isLt, a.reg.isLt, by decide, trivial⟩ rfl ?_ (fun N F lt => ?_) rfl
  · rw [pack_cons, pack_cons, pack_nil, encSrc_eq, encFld_eq]; simp only [cat_cons, cat_nil]; omega
  rw [raw18 (major_of lt (F 4))]
  delta decodeMajor18
  have f17_3 : fld N 17 3 = 0x3 := F 1
  refine skip f17_3 (by decide) ?_
  refine skip f17_3 (by decide) ?_
  refine skip f17_3 (by decide) ?_
  refine (if_pos f17_3).trans ?_
  rw [show (⟨bits N 22 4, bits N 20 2⟩ : Src) = a from src_eq (F 3) (F 2)]
  rw [show bits N 0 17 = o from bits_eq (F 0)]

theorem bgtz (a : Src) (o : BitVec 17) : Statement (.bgtz a o) := by
  refine of_cat (w := pack 0x60080000 [encSrc a 22 20, encFld o 0]) (ps := [(17, o.toNat), (3, 0x4), (2, a.mode.toNat), (4, a.reg.toNat), (6, 0x18)])
    ⟨o.isLt, by decide, a.mode.isLt, a.reg.isLt, by decide, trivial⟩ rfl ?_ (fun N F lt => ?_) rfl
  · rw [pack_cons, pack_cons, pack_nil, encSrc_eq, encFld_eq]; simp only [cat_cons, cat_nil]; omega
  rw [raw18 (major_of lt (F 4))]
  delta decodeMajor18
  have f17_3 : fld N 17 3 = 0x4 := F 1
  refine skip f17_3 (by decide) ?_
  refine skip f17_3 (by decide) ?_
  refine skip f17_3 (by decide) ?_
  refine skip f17_3 (by decide) ?_
  refine (if_pos f17_3).trans ?_
  rw [show (⟨bits N 22 4, bits N 20 2⟩ : Src) = a from src_eq (F 3) (F 2)]
  rw [show bits N 0 17 = o from bits_eq (F 0)]

theorem blez (a : Src) (o : BitVec 17) : Statement (.blez a o) := by
  refine of_cat (w := pack 0x600A0000 [encSrc a 22 20, encFld o 0]) (ps := [(17, o.toNat), (3, 0x5), (2, a.mode.toNat), (4, a.reg.toNat), (6, 0x18)])
    ⟨o.isLt, by decide, a.mode.isLt, a.reg.isLt, by decide, trivial⟩ rfl ?_ (fun N F lt => ?_) rfl
  · rw [pack_cons, pack_cons, pack_nil, encSrc_eq, encFld_eq]; simp only [cat_cons, cat_nil]; omega
  rw [raw18 (major_of lt (F 4))]
  delta decodeMajor18
  have f17_3 : fld N 17 3 = 0x5 := F 1
  refine skip f17_3 (by decide) ?_
  refine skip f17_3 (by decide) ?_
  refine skip f17_3 (by decide) ?_
  refine skip f17_3 (by decide) ?_
  refine skip f17_3 (by decide) ?_
  refine (if_pos f17_3).trans ?_
  rw [show (⟨bits N 22 4, bits N 20 2⟩ : Src) = a from src_eq (F 3) (F 2)]
  rw [show bits N 0 17 = o from bits_eq (F 0)]

theorem beq (a : Src) (b : Src) (o : BitVec 11) : Statement (.beq a b o) := by
  refine of_cat (w := pack 0x64000000 [encSrc a 22 16, encSrc b 18 14, encFld o 0]) (ps := [(11, o.toNat), (3, 0x0), (2, b.mode.toNat), (2, a.mode.toNat), (4, b.reg.toNat), (4, a.reg.toNat), (6, 0x19)])
    ⟨o.isLt, by decide, b.mode.isLt, a.mode.isLt, b.reg.isLt, a.reg.isLt, by decide, trivial⟩ rfl ?_ (fun N F lt => ?_) rfl
  · rw [pack_cons, pack_cons, pack_cons, pack_nil, encSrc_eq, encSrc_eq, encFld_eq]; simp only [cat_cons, cat_nil]; omega
  rw [raw19 (major_of lt (F 6))]
  delta decodeMajor19
  have f11_3 : fld N 11 3 = 0x0 := F 1
  refine (if_pos f11_3).trans ?_
  rw [show (⟨bits N 22 4, bits N 16 2⟩ : Src) = a from src_eq (F 5) (F 3)]
  rw [show (⟨bits N 18 4, bits N 14 2⟩ : Src) = b from src_eq (F 4) (F 2)]
  rw [show bits N 0 11 = o from bits_eq (F 0)]

theorem bne (a : Src) (b : Src) (o : BitVec 11) : Statement (.bne a b o) := by
  refine of_cat (w := pack 0x64000800 [encSrc a 22 16, encSrc b 18 14, encFld o 0]) (ps := [(11, o.toNat), (3, 0x1), (2, b.mode.toNat), (2, a.mode.toNat), (4, b.reg.toNat), (4, a.reg.toNat), (6, 0x19)])
    ⟨o.isLt, by decide, b.mode.isLt, a.mode.isLt, b.reg.isLt, a.reg.isLt, by decide, trivial⟩ rfl ?_ (fun N F lt => ?_) rfl
  · rw [pack_cons, pack_cons, pack_cons, pack_nil, encSrc_eq, encSrc_eq, encFld_eq]; simp only [cat_cons, cat_nil]; omega
  rw [raw19 (major_of lt (F 6))]
  delta decodeMajor19
  have f11_3 : fld N 11 3 = 0x1 := F 1
  refine skip f11_3 (by decide) ?_
  refine (if_pos f11_3).trans ?_
  rw [show (⟨bits N 22 4, bits N 16 2⟩ : Src) = a from src_eq (F 5) (F 3)]
  rw [show (⟨bits N 18 4, bits N 14 2⟩ : Src) = b from src_eq (F 4) (F 2)]
  rw [show bits N 0 11 = o from bits_eq (F 0)]

theorem blt (a : Src) (b : Src) (o : BitVec 11) : Statement (.blt a b o) := by
  refine of_cat (w := pack 0x64001000 [encSrc a 22 16, encSrc b 18 14, encFld o 0]) (ps := [(11, o.toNat), (3, 0x2), (2, b.mode.toNat), (2, a.mode.toNat), (4, b.reg.toNat), (4, a.reg.toNat), (6, 0x19)])
    ⟨o.isLt, by decide, b.mode.isLt, a.mode.isLt, b.reg.isLt, a.reg.isLt, by decide, trivial⟩ rfl ?_ (fun N F lt => ?_) rfl
  · rw [pack_cons, pack_cons, pack_cons, pack_nil, encSrc_eq, encSrc_eq, encFld_eq]; simp only [cat_cons, cat_nil]; omega
  rw [raw19 (major_of lt (F 6))]
  delta decodeMajor19
  have f11_3 : fld N 11 3 = 0x2 := F 1
  refine skip f11_3 (by decide) ?_
  refine skip f11_3 (by decide) ?_
  refine (if_pos f11_3).trans ?_
  rw [show (⟨bits N 22 4, bits N 16 2⟩ : Src) = a from src_eq (F 5) (F 3)]
  rw [show (⟨bits N 18 4, bits N 14 2⟩ : Src) = b from src_eq (F 4) (F 2)]
  rw [show bits N 0 11 = o from bits_eq (F 0)]

theorem bge (a : Src) (b : Src) (o : BitVec 11) : Statement (.bge a b o) := by
  refine of_cat (w := pack 0x64001800 [encSrc a 22 16, encSrc b 18 14, encFld o 0]) (ps := [(11, o.toNat), (3, 0x3), (2, b.mode.toNat), (2, a.mode.toNat), (4, b.reg.toNat), (4, a.reg.toNat), (6, 0x19)])
    ⟨o.isLt, by decide, b.mode.isLt, a.mode.isLt, b.reg.isLt, a.reg.isLt, by decide, trivial⟩ rfl ?_ (fun N F lt => ?_) rfl
  · rw [pack_cons, pack_cons, pack_cons, pack_nil, encSrc_eq, encSrc_eq, encFld_eq]; simp only [cat_cons, cat_nil]; omega
  rw [raw19 (major_of lt (F 6))]
  delta decodeMajor19
  have f11_3 : fld N 11 3 = 0x3 := F 1
  refine skip f11_3 (by decide) ?_
  refine skip f11_3 (by decide) ?_
  refine skip f11_3 (by decide) ?_
  refine (if_pos f11_3).trans ?_
  rw [show (⟨bits N 22 4, bits N 16 2⟩ : Src) = a from src_eq (F 5) (F 3)]
  rw [show (⟨bits N 18 4, bits N 14 2⟩ : Src) = b from src_eq (F 4) (F 2)]
  rw [show bits N 0 11 = o from bits_eq (F 0)]

theorem bltu (a : Src) (b : Src) (o : BitVec 11) : Statement (.bltu a b o) := by
  refine of_cat (w := pack 0x64002000 [encSrc a 22 16, encSrc b 18 14, encFld o 0]) (ps := [(11, o.toNat), (3, 0x4), (2, b.mode.toNat), (2, a.mode.toNat), (4, b.reg.toNat), (4, a.reg.toNat), (6, 0x19)])
    ⟨o.isLt, by decide, b.mode.isLt, a.mode.isLt, b.reg.isLt, a.reg.isLt, by decide, trivial⟩ rfl ?_ (fun N F lt => ?_) rfl
  · rw [pack_cons, pack_cons, pack_cons, pack_nil, encSrc_eq, encSrc_eq, encFld_eq]; simp only [cat_cons, cat_nil]; omega
  rw [raw19 (major_of lt (F 6))]
  delta decodeMajor19
  have f11_3 : fld N 11 3 = 0x4 := F 1
  refine skip f11_3 (by decide) ?_
  refine skip f11_3 (by decide) ?_
  refine skip f11_3 (by decide) ?_
  refine skip f11_3 (by decide) ?_
  refine (if_pos f11_3).trans ?_
  rw [show (⟨bits N 22 4, bits N 16 2⟩ : Src) = a from src_eq (F 5) (F 3)]
  rw [show (⟨bits N 18 4, bits N 14 2⟩ : Src) = b from src_eq (F 4) (F 2)]
  rw [show bits N 0 11 = o from bits_eq (F 0)]

theorem bgeu (a : Src) (b : Src) (o : BitVec 11) : Statement (.bgeu a b o) := by
  refine of_cat (w := pack 0x64002800 [encSrc a 22 16, encSrc b 18 14, encFld o 0]) (ps := [(11, o.toNat), (3, 0x5), (2, b.mode.toNat), (2, a.mode.toNat), (4, b.reg.toNat), (4, a.reg.toNat), (6, 0x19)])
    ⟨o.isLt, by decide, b.mode.isLt, a.mode.isLt, b.reg.isLt, a.reg.isLt, by decide, trivial⟩ rfl ?_ (fun N F lt => ?_) rfl
  · rw [pack_cons, pack_cons, pack_cons, pack_nil, encSrc_eq, encSrc_eq, encFld_eq]; simp only [cat_cons, cat_nil]; omega
  rw [raw19 (major_of lt (F 6))]
  delta decodeMajor19
  have f11_3 : fld N 11 3 = 0x5 := F 1
  refine skip f11_3 (by decide) ?_
  refine skip f11_3 (by decide) ?_
  refine skip f11_3 (by decide) ?_
  refine skip f11_3 (by decide) ?_
  refine skip f11_3 (by decide) ?_
  refine (if_pos f11_3).trans ?_
  rw [show (⟨bits N 22 4, bits N 16 2⟩ : Src) = a from src_eq (F 5) (F 3)]
  rw [show (⟨bits N 18 4, bits N 14 2⟩ : Src) = b from src_eq (F 4) (F 2)]
  rw [show bits N 0 11 = o from bits_eq (F 0)]

theorem j (o : BitVec 25) : Statement (.j o) := by
  refine of_cat (w := pack 0x68000000 [encFld o 0]) (ps := [(25, o.toNat), (7, 0x34)])
    ⟨o.isLt, by decide, trivial⟩ rfl ?_ (fun N F lt => ?_) rfl
  · rw [pack_cons, pack_nil, encFld_eq]; simp only [cat_cons, cat_nil]; omega
  rw [raw1A (major_of lt (fld_part (n := N) (lo := 25) (w := 7) (v := 0x34) 1 6 (F 1) (by decide)))]
  delta decodeMajor1A
  have f25_7 : fld N 25 7 = 0x34 := F 1
  refine (if_pos f25_7).trans ?_
  rw [show bits N 0 25 = o from bits_eq (F 0)]

theorem jal (o : BitVec 25) : Statement (.jal o) := by
  refine of_cat (w := pack 0x6A000000 [encFld o 0]) (ps := [(25, o.toNat), (7, 0x35)])
    ⟨o.isLt, by decide, trivial⟩ rfl ?_ (fun N F lt => ?_) rfl
  · rw [pack_cons, pack_nil, encFld_eq]; simp only [cat_cons, cat_nil]; omega
  rw [raw1A (major_of lt (fld_part (n := N) (lo := 25) (w := 7) (v := 0x35) 1 6 (F 1) (by decide)))]
  delta decodeMajor1A
  have f25_7 : fld N 25 7 = 0x35 := F 1
  refine skip f25_7 (by decide) ?_
  refine (if_pos f25_7).trans ?_
  rw [show bits N 0 25 = o from bits_eq (F 0)]

theorem jr (a : Src) : Statement (.jr a) := by
  refine of_cat (w := pack 0x6C000000 [encSrc a 18 16]) (ps := [(16, 0x0), (2, a.mode.toNat), (4, a.reg.toNat), (10, 0x1B0)])
    ⟨by decide, a.mode.isLt, a.reg.isLt, by decide, trivial⟩ rfl ?_ (fun N F lt => ?_) rfl
  · rw [pack_cons, pack_nil, encSrc_eq]; simp only [cat_cons, cat_nil]; omega
  rw [raw1B (major_of lt (fld_part (n := N) (lo := 22) (w := 10) (v := 0x1B0) 4 6 (F 3) (by decide)))]
  delta decodeMajor1B
  have f0_16 : fld N 0 16 = 0x0 := F 0
  have f22_10 : fld N 22 10 = 0x1B0 := F 3
  refine (if_pos ⟨f0_16, f22_10⟩).trans ?_
  rw [show (⟨bits N 18 4, bits N 16 2⟩ : Src) = a from src_eq (F 2) (F 1)]

theorem jalr (d : BitVec 4) (a : Src) : Statement (.jalr d a) := by
  refine of_cat (w := pack 0x6C000020 [encFld d 22, encSrc a 18 16]) (ps := [(16, 0x20), (2, a.mode.toNat), (4, a.reg.toNat), (4, d.toNat), (6, 0x1B)])
    ⟨by decide, a.mode.isLt, a.reg.isLt, d.isLt, by decide, trivial⟩ rfl ?_ (fun N F lt => ?_) rfl
  · rw [pack_cons, pack_cons, pack_nil, encFld_eq, encSrc_eq]; simp only [cat_cons, cat_nil]; omega
  rw [raw1B (major_of lt (F 4))]
  delta decodeMajor1B
  have f0_16 : fld N 0 16 = 0x20 := F 0
  refine (if_neg (fun h => absurd (f0_16.symm.trans h.1) (by decide))).trans ?_
  refine (if_pos f0_16).trans ?_
  rw [show bits N 22 4 = d from bits_eq (F 3)]
  rw [show (⟨bits N 18 4, bits N 16 2⟩ : Src) = a from src_eq (F 2) (F 1)]

theorem loop (a : Src) (o : BitVec 17) : Statement (.loop a o) := by
  refine of_cat (w := pack 0x70000000 [encSrc a 22 20, encFld o 0]) (ps := [(17, o.toNat), (3, 0x0), (2, a.mode.toNat), (4, a.reg.toNat), (6, 0x1C)])
    ⟨o.isLt, by decide, a.mode.isLt, a.reg.isLt, by decide, trivial⟩ rfl ?_ (fun N F lt => ?_) rfl
  · rw [pack_cons, pack_cons, pack_nil, encSrc_eq, encFld_eq]; simp only [cat_cons, cat_nil]; omega
  rw [raw1C (major_of lt (F 4))]
  delta decodeMajor1C
  have f17_3 : fld N 17 3 = 0x0 := F 1
  refine (if_pos f17_3).trans ?_
  rw [show (⟨bits N 22 4, bits N 20 2⟩ : Src) = a from src_eq (F 3) (F 2)]
  rw [show bits N 0 17 = o from bits_eq (F 0)]

theorem trap (c : BitVec 12) : Statement (.trap c) := by
  refine of_cat (w := pack 0x74000000 [encFld c 0]) (ps := [(12, c.toNat), (20, 0x74000)])
    ⟨c.isLt, by decide, trivial⟩ rfl ?_ (fun N F lt => ?_) rfl
  · rw [pack_cons, pack_nil, encFld_eq]; simp only [cat_cons, cat_nil]; omega
  rw [raw1D (major_of lt (fld_part (n := N) (lo := 12) (w := 20) (v := 0x74000) 14 6 (F 1) (by decide)))]
  delta decodeMajor1D
  have f12_20 : fld N 12 20 = 0x74000 := F 1
  refine (if_pos f12_20).trans ?_
  rw [show bits N 0 12 = c from bits_eq (F 0)]

theorem sysc (c : BitVec 12) : Statement (.sysc c) := by
  refine of_cat (w := pack 0x74001000 [encFld c 0]) (ps := [(12, c.toNat), (20, 0x74001)])
    ⟨c.isLt, by decide, trivial⟩ rfl ?_ (fun N F lt => ?_) rfl
  · rw [pack_cons, pack_nil, encFld_eq]; simp only [cat_cons, cat_nil]; omega
  rw [raw1D (major_of lt (fld_part (n := N) (lo := 12) (w := 20) (v := 0x74001) 14 6 (F 1) (by decide)))]
  delta decodeMajor1D
  have f12_20 : fld N 12 20 = 0x74001 := F 1
  refine skip f12_20 (by decide) ?_
  refine (if_pos f12_20).trans ?_
  rw [show bits N 0 12 = c from bits_eq (F 0)]

theorem eret : Statement (.eret) := by
  refine of_cat (w := 0x74002000) (ps := [(32, 0x74002000)])
    ⟨by decide, trivial⟩ rfl ?_ (fun N F lt => ?_) rfl
  · decide
  rw [raw1D (major_of lt (fld_part (n := N) (lo := 0) (w := 32) (v := 0x74002000) 26 6 (F 0) (by decide)))]
  delta decodeMajor1D
  have f0_32 : fld N 0 32 = 0x74002000 := F 0
  refine skip (fld_part 12 20 f0_32 (by decide)) (by decide) ?_
  refine skip (fld_part 12 20 f0_32 (by decide)) (by decide) ?_
  refine (if_pos f0_32).trans ?_
  rfl

theorem brk (c : BitVec 12) : Statement (.brk c) := by
  refine of_cat (w := pack 0x74003000 [encFld c 0]) (ps := [(12, c.toNat), (20, 0x74003)])
    ⟨c.isLt, by decide, trivial⟩ rfl ?_ (fun N F lt => ?_) rfl
  · rw [pack_cons, pack_nil, encFld_eq]; simp only [cat_cons, cat_nil]; omega
  rw [raw1D (major_of lt (fld_part (n := N) (lo := 12) (w := 20) (v := 0x74003) 14 6 (F 1) (by decide)))]
  delta decodeMajor1D
  have f12_20 : fld N 12 20 = 0x74003 := F 1
  refine skip f12_20 (by decide) ?_
  refine skip f12_20 (by decide) ?_
  refine (if_neg (fun h => absurd (f12_20.symm.trans (fld_part 12 20 h (by decide))) (by decide))).trans ?_
  refine (if_pos f12_20).trans ?_
  rw [show bits N 0 12 = c from bits_eq (F 0)]

theorem nop : Statement (.nop) := by
  refine of_cat (w := 0x74004000) (ps := [(32, 0x74004000)])
    ⟨by decide, trivial⟩ rfl ?_ (fun N F lt => ?_) rfl
  · decide
  rw [raw1D (major_of lt (fld_part (n := N) (lo := 0) (w := 32) (v := 0x74004000) 26 6 (F 0) (by decide)))]
  delta decodeMajor1D
  have f0_32 : fld N 0 32 = 0x74004000 := F 0
  refine skip (fld_part 12 20 f0_32 (by decide)) (by decide) ?_
  refine skip (fld_part 12 20 f0_32 (by decide)) (by decide) ?_
  refine skip f0_32 (by decide) ?_
  refine skip (fld_part 12 20 f0_32 (by decide)) (by decide) ?_
  refine (if_pos f0_32).trans ?_
  rfl

theorem snap : Statement (.snap) := by
  refine of_cat (w := 0x74005000) (ps := [(32, 0x74005000)])
    ⟨by decide, trivial⟩ rfl ?_ (fun N F lt => ?_) rfl
  · decide
  rw [raw1D (major_of lt (fld_part (n := N) (lo := 0) (w := 32) (v := 0x74005000) 26 6 (F 0) (by decide)))]
  delta decodeMajor1D
  have f0_32 : fld N 0 32 = 0x74005000 := F 0
  refine skip (fld_part 12 20 f0_32 (by decide)) (by decide) ?_
  refine skip (fld_part 12 20 f0_32 (by decide)) (by decide) ?_
  refine skip f0_32 (by decide) ?_
  refine skip (fld_part 12 20 f0_32 (by decide)) (by decide) ?_
  refine skip f0_32 (by decide) ?_
  refine (if_pos f0_32).trans ?_
  rfl

theorem csrr (d : BitVec 4) (n : BitVec 12) : Statement (.csrr d n) := by
  refine of_cat (w := pack 0x78000000 [encFld d 22, encFld n 0]) (ps := [(12, n.toNat), (10, 0x0), (4, d.toNat), (6, 0x1E)])
    ⟨n.isLt, by decide, d.isLt, by decide, trivial⟩ rfl ?_ (fun N F lt => ?_) rfl
  · rw [pack_cons, pack_cons, pack_nil, encFld_eq, encFld_eq]; simp only [cat_cons, cat_nil]; omega
  rw [raw1E (major_of lt (F 3))]
  delta decodeMajor1E
  have f12_10 : fld N 12 10 = 0x0 := F 1
  refine (if_pos f12_10).trans ?_
  rw [show bits N 22 4 = d from bits_eq (F 2)]
  rw [show bits N 0 12 = n from bits_eq (F 0)]

theorem csrw (d : BitVec 4) (a : Src) (n : BitVec 12) : Statement (.csrw d a n) := by
  refine of_cat (w := pack 0x78001000 [encFld d 22, encSrc a 18 16, encFld n 0]) (ps := [(12, n.toNat), (4, 0x1), (2, a.mode.toNat), (4, a.reg.toNat), (4, d.toNat), (6, 0x1E)])
    ⟨n.isLt, by decide, a.mode.isLt, a.reg.isLt, d.isLt, by decide, trivial⟩ rfl ?_ (fun N F lt => ?_) rfl
  · rw [pack_cons, pack_cons, pack_cons, pack_nil, encFld_eq, encSrc_eq, encFld_eq]; simp only [cat_cons, cat_nil]; omega
  rw [raw1E (major_of lt (F 5))]
  delta decodeMajor1E
  have f12_4 : fld N 12 4 = 0x1 := F 1
  refine (if_neg (fun h => absurd (f12_4.symm.trans (fld_part 0 4 h (by decide))) (by decide))).trans ?_
  refine (if_pos f12_4).trans ?_
  rw [show bits N 22 4 = d from bits_eq (F 4)]
  rw [show (⟨bits N 18 4, bits N 16 2⟩ : Src) = a from src_eq (F 3) (F 2)]
  rw [show bits N 0 12 = n from bits_eq (F 0)]

theorem csrs (d : BitVec 4) (a : Src) (n : BitVec 12) : Statement (.csrs d a n) := by
  refine of_cat (w := pack 0x78002000 [encFld d 22, encSrc a 18 16, encFld n 0]) (ps := [(12, n.toNat), (4, 0x2), (2, a.mode.toNat), (4, a.reg.toNat), (4, d.toNat), (6, 0x1E)])
    ⟨n.isLt, by decide, a.mode.isLt, a.reg.isLt, d.isLt, by decide, trivial⟩ rfl ?_ (fun N F lt => ?_) rfl
  · rw [pack_cons, pack_cons, pack_cons, pack_nil, encFld_eq, encSrc_eq, encFld_eq]; simp only [cat_cons, cat_nil]; omega
  rw [raw1E (major_of lt (F 5))]
  delta decodeMajor1E
  have f12_4 : fld N 12 4 = 0x2 := F 1
  refine (if_neg (fun h => absurd (f12_4.symm.trans (fld_part 0 4 h (by decide))) (by decide))).trans ?_
  refine skip f12_4 (by decide) ?_
  refine (if_pos f12_4).trans ?_
  rw [show bits N 22 4 = d from bits_eq (F 4)]
  rw [show (⟨bits N 18 4, bits N 16 2⟩ : Src) = a from src_eq (F 3) (F 2)]
  rw [show bits N 0 12 = n from bits_eq (F 0)]

theorem csrc (d : BitVec 4) (a : Src) (n : BitVec 12) : Statement (.csrc d a n) := by
  refine of_cat (w := pack 0x78003000 [encFld d 22, encSrc a 18 16, encFld n 0]) (ps := [(12, n.toNat), (4, 0x3), (2, a.mode.toNat), (4, a.reg.toNat), (4, d.toNat), (6, 0x1E)])
    ⟨n.isLt, by decide, a.mode.isLt, a.reg.isLt, d.isLt, by decide, trivial⟩ rfl ?_ (fun N F lt => ?_) rfl
  · rw [pack_cons, pack_cons, pack_cons, pack_nil, encFld_eq, encSrc_eq, encFld_eq]; simp only [cat_cons, cat_nil]; omega
  rw [raw1E (major_of lt (F 5))]
  delta decodeMajor1E
  have f12_4 : fld N 12 4 = 0x3 := F 1
  refine (if_neg (fun h => absurd (f12_4.symm.trans (fld_part 0 4 h (by decide))) (by decide))).trans ?_
  refine skip f12_4 (by decide) ?_
  refine skip f12_4 (by decide) ?_
  refine (if_pos f12_4).trans ?_
  rw [show bits N 22 4 = d from bits_eq (F 4)]
  rw [show (⟨bits N 18 4, bits N 16 2⟩ : Src) = a from src_eq (F 3) (F 2)]
  rw [show bits N 0 12 = n from bits_eq (F 0)]

theorem spawn (d : BitVec 4) (a : Src) (b : Src) (n : BitVec 1) (l : BitVec 1) (v : BitVec 3) : Statement (.spawn d a b n l v) := by
  refine of_cat (w := pack 0x80000000 [encFld d 22, encSrc a 18 16, encSrc b 12 10, encFld n 4, encFld l 3, encFld v 0]) (ps := [(3, v.toNat), (1, l.toNat), (1, n.toNat), (5, 0x0), (2, b.mode.toNat), (4, b.reg.toNat), (2, a.mode.toNat), (4, a.reg.toNat), (4, d.toNat), (6, 0x20)])
    ⟨v.isLt, l.isLt, n.isLt, by decide, b.mode.isLt, b.reg.isLt, a.mode.isLt, a.reg.isLt, d.isLt, by decide, trivial⟩ rfl ?_ (fun N F lt => ?_) rfl
  · rw [pack_cons, pack_cons, pack_cons, pack_cons, pack_cons, pack_cons, pack_nil, encFld_eq, encSrc_eq, encSrc_eq, encFld_eq, encFld_eq, encFld_eq]; simp only [cat_cons, cat_nil]; omega
  rw [raw20 (major_of lt (F 9))]
  delta decodeMajor20
  have f5_5 : fld N 5 5 = 0x0 := F 3
  refine (if_pos f5_5).trans ?_
  rw [show bits N 22 4 = d from bits_eq (F 8)]
  rw [show (⟨bits N 18 4, bits N 16 2⟩ : Src) = a from src_eq (F 7) (F 6)]
  rw [show (⟨bits N 12 4, bits N 10 2⟩ : Src) = b from src_eq (F 5) (F 4)]
  rw [show bits N 4 1 = n from bits_eq (F 2)]
  rw [show bits N 3 1 = l from bits_eq (F 1)]
  rw [show bits N 0 3 = v from bits_eq (F 0)]

theorem gang (d : BitVec 4) (a : Src) (e : BitVec 1) : Statement (.gang d a e) := by
  refine of_cat (w := pack 0x80000020 [encFld d 22, encSrc a 18 16, encFld e 4]) (ps := [(4, 0x0), (1, e.toNat), (11, 0x1), (2, a.mode.toNat), (4, a.reg.toNat), (4, d.toNat), (6, 0x20)])
    ⟨by decide, e.isLt, by decide, a.mode.isLt, a.reg.isLt, d.isLt, by decide, trivial⟩ rfl ?_ (fun N F lt => ?_) rfl
  · rw [pack_cons, pack_cons, pack_cons, pack_nil, encFld_eq, encSrc_eq, encFld_eq]; simp only [cat_cons, cat_nil]; omega
  rw [raw20 (major_of lt (F 6))]
  delta decodeMajor20
  have f5_11 : fld N 5 11 = 0x1 := F 2
  have f0_4 : fld N 0 4 = 0x0 := F 0
  refine skip (fld_part 0 5 f5_11 (by decide)) (by decide) ?_
  refine (if_pos ⟨f0_4, f5_11⟩).trans ?_
  rw [show bits N 22 4 = d from bits_eq (F 5)]
  rw [show (⟨bits N 18 4, bits N 16 2⟩ : Src) = a from src_eq (F 4) (F 3)]
  rw [show bits N 4 1 = e from bits_eq (F 1)]

theorem yield : Statement (.yield) := by
  refine of_cat (w := 0x80000040) (ps := [(32, 0x80000040)])
    ⟨by decide, trivial⟩ rfl ?_ (fun N F lt => ?_) rfl
  · decide
  rw [raw20 (major_of lt (fld_part (n := N) (lo := 0) (w := 32) (v := 0x80000040) 26 6 (F 0) (by decide)))]
  delta decodeMajor20
  have f0_32 : fld N 0 32 = 0x80000040 := F 0
  refine skip (fld_part 5 5 f0_32 (by decide)) (by decide) ?_
  refine (if_neg (fun h => absurd ((fld_part 5 11 f0_32 (by decide)).symm.trans h.2) (by decide))).trans ?_
  refine (if_pos f0_32).trans ?_
  rfl

theorem prio (d : BitVec 4) (a : Src) : Statement (.prio d a) := by
  refine of_cat (w := pack 0x80000060 [encFld d 22, encSrc a 18 16]) (ps := [(16, 0x60), (2, a.mode.toNat), (4, a.reg.toNat), (4, d.toNat), (6, 0x20)])
    ⟨by decide, a.mode.isLt, a.reg.isLt, d.isLt, by decide, trivial⟩ rfl ?_ (fun N F lt => ?_) rfl
  · rw [pack_cons, pack_cons, pack_nil, encFld_eq, encSrc_eq]; simp only [cat_cons, cat_nil]; omega
  rw [raw20 (major_of lt (F 4))]
  delta decodeMajor20
  have f0_16 : fld N 0 16 = 0x60 := F 0
  refine skip (fld_part 5 5 f0_16 (by decide)) (by decide) ?_
  refine (if_neg (fun h => absurd ((fld_part 5 11 f0_16 (by decide)).symm.trans h.2) (by decide))).trans ?_
  refine (if_neg (fun h => absurd (f0_16.symm.trans (fld_part 0 16 h (by decide))) (by decide))).trans ?_
  refine (if_pos f0_16).trans ?_
  rw [show bits N 22 4 = d from bits_eq (F 3)]
  rw [show (⟨bits N 18 4, bits N 16 2⟩ : Src) = a from src_eq (F 2) (F 1)]

theorem exit (a : Src) : Statement (.exit a) := by
  refine of_cat (w := pack 0x80000080 [encSrc a 18 16]) (ps := [(16, 0x80), (2, a.mode.toNat), (4, a.reg.toNat), (10, 0x200)])
    ⟨by decide, a.mode.isLt, a.reg.isLt, by decide, trivial⟩ rfl ?_ (fun N F lt => ?_) rfl
  · rw [pack_cons, pack_nil, encSrc_eq]; simp only [cat_cons, cat_nil]; omega
  rw [raw20 (major_of lt (fld_part (n := N) (lo := 22) (w := 10) (v := 0x200) 4 6 (F 3) (by decide)))]
  delta decodeMajor20
  have f0_16 : fld N 0 16 = 0x80 := F 0
  have f22_10 : fld N 22 10 = 0x200 := F 3
  refine skip (fld_part 5 5 f0_16 (by decide)) (by decide) ?_
  refine (if_neg (fun h => absurd ((fld_part 5 11 f0_16 (by decide)).symm.trans h.2) (by decide))).trans ?_
  refine (if_neg (fun h => absurd (f0_16.symm.trans (fld_part 0 16 h (by decide))) (by decide))).trans ?_
  refine skip f0_16 (by decide) ?_
  refine (if_pos ⟨f0_16, f22_10⟩).trans ?_
  rw [show (⟨bits N 18 4, bits N 16 2⟩ : Src) = a from src_eq (F 2) (F 1)]

theorem killg (d : BitVec 4) (a : Src) : Statement (.killg d a) := by
  refine of_cat (w := pack 0x800000A0 [encFld d 22, encSrc a 18 16]) (ps := [(16, 0xA0), (2, a.mode.toNat), (4, a.reg.toNat), (4, d.toNat), (6, 0x20)])
    ⟨by decide, a.mode.isLt, a.reg.isLt, d.isLt, by decide, trivial⟩ rfl ?_ (fun N F lt => ?_) rfl
  · rw [pack_cons, pack_cons, pack_nil, encFld_eq, encSrc_eq]; simp only [cat_cons, cat_nil]; omega
  rw [raw20 (major_of lt (F 4))]
  delta decodeMajor20
  have f0_16 : fld N 0 16 = 0xA0 := F 0
  refine skip (fld_part 5 5 f0_16 (by decide)) (by decide) ?_
  refine (if_neg (fun h => absurd ((fld_part 5 11 f0_16 (by decide)).symm.trans h.2) (by decide))).trans ?_
  refine (if_neg (fun h => absurd (f0_16.symm.trans (fld_part 0 16 h (by decide))) (by decide))).trans ?_
  refine skip f0_16 (by decide) ?_
  refine (if_neg (fun h => absurd (f0_16.symm.trans h.1) (by decide))).trans ?_
  refine (if_pos f0_16).trans ?_
  rw [show bits N 22 4 = d from bits_eq (F 3)]
  rw [show (⟨bits N 18 4, bits N 16 2⟩ : Src) = a from src_eq (F 2) (F 1)]

theorem susp (d : BitVec 4) (a : Src) : Statement (.susp d a) := by
  refine of_cat (w := pack 0x800000C0 [encFld d 22, encSrc a 18 16]) (ps := [(16, 0xC0), (2, a.mode.toNat), (4, a.reg.toNat), (4, d.toNat), (6, 0x20)])
    ⟨by decide, a.mode.isLt, a.reg.isLt, d.isLt, by decide, trivial⟩ rfl ?_ (fun N F lt => ?_) rfl
  · rw [pack_cons, pack_cons, pack_nil, encFld_eq, encSrc_eq]; simp only [cat_cons, cat_nil]; omega
  rw [raw20 (major_of lt (F 4))]
  delta decodeMajor20
  have f0_16 : fld N 0 16 = 0xC0 := F 0
  refine skip (fld_part 5 5 f0_16 (by decide)) (by decide) ?_
  refine (if_neg (fun h => absurd ((fld_part 5 11 f0_16 (by decide)).symm.trans h.2) (by decide))).trans ?_
  refine (if_neg (fun h => absurd (f0_16.symm.trans (fld_part 0 16 h (by decide))) (by decide))).trans ?_
  refine skip f0_16 (by decide) ?_
  refine (if_neg (fun h => absurd (f0_16.symm.trans h.1) (by decide))).trans ?_
  refine skip f0_16 (by decide) ?_
  refine (if_pos f0_16).trans ?_
  rw [show bits N 22 4 = d from bits_eq (F 3)]
  rw [show (⟨bits N 18 4, bits N 16 2⟩ : Src) = a from src_eq (F 2) (F 1)]

theorem resm (d : BitVec 4) (a : Src) : Statement (.resm d a) := by
  refine of_cat (w := pack 0x800000E0 [encFld d 22, encSrc a 18 16]) (ps := [(16, 0xE0), (2, a.mode.toNat), (4, a.reg.toNat), (4, d.toNat), (6, 0x20)])
    ⟨by decide, a.mode.isLt, a.reg.isLt, d.isLt, by decide, trivial⟩ rfl ?_ (fun N F lt => ?_) rfl
  · rw [pack_cons, pack_cons, pack_nil, encFld_eq, encSrc_eq]; simp only [cat_cons, cat_nil]; omega
  rw [raw20 (major_of lt (F 4))]
  delta decodeMajor20
  have f0_16 : fld N 0 16 = 0xE0 := F 0
  refine skip (fld_part 5 5 f0_16 (by decide)) (by decide) ?_
  refine (if_neg (fun h => absurd ((fld_part 5 11 f0_16 (by decide)).symm.trans h.2) (by decide))).trans ?_
  refine (if_neg (fun h => absurd (f0_16.symm.trans (fld_part 0 16 h (by decide))) (by decide))).trans ?_
  refine skip f0_16 (by decide) ?_
  refine (if_neg (fun h => absurd (f0_16.symm.trans h.1) (by decide))).trans ?_
  refine skip f0_16 (by decide) ?_
  refine skip f0_16 (by decide) ?_
  refine (if_pos f0_16).trans ?_
  rw [show bits N 22 4 = d from bits_eq (F 3)]
  rw [show (⟨bits N 18 4, bits N 16 2⟩ : Src) = a from src_eq (F 2) (F 1)]

theorem migr (d : BitVec 4) (a : Src) (b : Src) : Statement (.migr d a b) := by
  refine of_cat (w := pack 0x80000100 [encFld d 22, encSrc a 18 16, encSrc b 12 10]) (ps := [(10, 0x100), (2, b.mode.toNat), (4, b.reg.toNat), (2, a.mode.toNat), (4, a.reg.toNat), (4, d.toNat), (6, 0x20)])
    ⟨by decide, b.mode.isLt, b.reg.isLt, a.mode.isLt, a.reg.isLt, d.isLt, by decide, trivial⟩ rfl ?_ (fun N F lt => ?_) rfl
  · rw [pack_cons, pack_cons, pack_cons, pack_nil, encFld_eq, encSrc_eq, encSrc_eq]; simp only [cat_cons, cat_nil]; omega
  rw [raw20 (major_of lt (F 6))]
  delta decodeMajor20
  have f0_10 : fld N 0 10 = 0x100 := F 0
  refine skip (fld_part 5 5 f0_10 (by decide)) (by decide) ?_
  refine (if_neg (fun h => absurd ((fld_part 5 5 f0_10 (by decide)).symm.trans (fld_part 0 5 h.2 (by decide))) (by decide))).trans ?_
  refine (if_neg (fun h => absurd (f0_10.symm.trans (fld_part 0 10 h (by decide))) (by decide))).trans ?_
  refine (if_neg (fun h => absurd (f0_10.symm.trans (fld_part 0 10 h (by decide))) (by decide))).trans ?_
  refine (if_neg (fun h => absurd (f0_10.symm.trans (fld_part 0 10 h.1 (by decide))) (by decide))).trans ?_
  refine (if_neg (fun h => absurd (f0_10.symm.trans (fld_part 0 10 h (by decide))) (by decide))).trans ?_
  refine (if_neg (fun h => absurd (f0_10.symm.trans (fld_part 0 10 h (by decide))) (by decide))).trans ?_
  refine (if_neg (fun h => absurd (f0_10.symm.trans (fld_part 0 10 h (by decide))) (by decide))).trans ?_
  refine (if_pos f0_10).trans ?_
  rw [show bits N 22 4 = d from bits_eq (F 5)]
  rw [show (⟨bits N 18 4, bits N 16 2⟩ : Src) = a from src_eq (F 4) (F 3)]
  rw [show (⟨bits N 12 4, bits N 10 2⟩ : Src) = b from src_eq (F 2) (F 1)]

theorem pself (d : BitVec 4) : Statement (.pself d) := by
  refine of_cat (w := pack 0x80000120 [encFld d 22]) (ps := [(22, 0x120), (4, d.toNat), (6, 0x20)])
    ⟨by decide, d.isLt, by decide, trivial⟩ rfl ?_ (fun N F lt => ?_) rfl
  · rw [pack_cons, pack_nil, encFld_eq]; simp only [cat_cons, cat_nil]; omega
  rw [raw20 (major_of lt (F 2))]
  delta decodeMajor20
  have f0_22 : fld N 0 22 = 0x120 := F 0
  refine skip (fld_part 5 5 f0_22 (by decide)) (by decide) ?_
  refine (if_neg (fun h => absurd ((fld_part 5 11 f0_22 (by decide)).symm.trans h.2) (by decide))).trans ?_
  refine (if_neg (fun h => absurd (f0_22.symm.trans (fld_part 0 22 h (by decide))) (by decide))).trans ?_
  refine skip (fld_part 0 16 f0_22 (by decide)) (by decide) ?_
  refine (if_neg (fun h => absurd ((fld_part 0 16 f0_22 (by decide)).symm.trans h.1) (by decide))).trans ?_
  refine skip (fld_part 0 16 f0_22 (by decide)) (by decide) ?_
  refine skip (fld_part 0 16 f0_22 (by decide)) (by decide) ?_
  refine skip (fld_part 0 16 f0_22 (by decide)) (by decide) ?_
  refine skip (fld_part 0 10 f0_22 (by decide)) (by decide) ?_
  refine (if_pos f0_22).trans ?_
  rw [show bits N 22 4 = d from bits_eq (F 1)]

theorem pinfo (d : BitVec 4) (a : Src) : Statement (.pinfo d a) := by
  refine of_cat (w := pack 0x80000140 [encFld d 22, encSrc a 18 16]) (ps := [(16, 0x140), (2, a.mode.toNat), (4, a.reg.toNat), (4, d.toNat), (6, 0x20)])
    ⟨by decide, a.mode.isLt, a.reg.isLt, d.isLt, by decide, trivial⟩ rfl ?_ (fun N F lt => ?_) rfl
  · rw [pack_cons, pack_cons, pack_nil, encFld_eq, encSrc_eq]; simp only [cat_cons, cat_nil]; omega
  rw [raw20 (major_of lt (F 4))]
  delta decodeMajor20
  have f0_16 : fld N 0 16 = 0x140 := F 0
  refine skip (fld_part 5 5 f0_16 (by decide)) (by decide) ?_
  refine (if_neg (fun h => absurd ((fld_part 5 11 f0_16 (by decide)).symm.trans h.2) (by decide))).trans ?_
  refine (if_neg (fun h => absurd (f0_16.symm.trans (fld_part 0 16 h (by decide))) (by decide))).trans ?_
  refine skip f0_16 (by decide) ?_
  refine (if_neg (fun h => absurd (f0_16.symm.trans h.1) (by decide))).trans ?_
  refine skip f0_16 (by decide) ?_
  refine skip f0_16 (by decide) ?_
  refine skip f0_16 (by decide) ?_
  refine skip (fld_part 0 10 f0_16 (by decide)) (by decide) ?_
  refine (if_neg (fun h => absurd (f0_16.symm.trans (fld_part 0 16 h (by decide))) (by decide))).trans ?_
  refine (if_pos f0_16).trans ?_
  rw [show bits N 22 4 = d from bits_eq (F 3)]
  rw [show (⟨bits N 18 4, bits N 16 2⟩ : Src) = a from src_eq (F 2) (F 1)]

theorem wfw (a : Src) : Statement (.wfw a) := by
  refine of_cat (w := pack 0x80000160 [encSrc a 18 16]) (ps := [(16, 0x160), (2, a.mode.toNat), (4, a.reg.toNat), (10, 0x200)])
    ⟨by decide, a.mode.isLt, a.reg.isLt, by decide, trivial⟩ rfl ?_ (fun N F lt => ?_) rfl
  · rw [pack_cons, pack_nil, encSrc_eq]; simp only [cat_cons, cat_nil]; omega
  rw [raw20 (major_of lt (fld_part (n := N) (lo := 22) (w := 10) (v := 0x200) 4 6 (F 3) (by decide)))]
  delta decodeMajor20
  have f0_16 : fld N 0 16 = 0x160 := F 0
  have f22_10 : fld N 22 10 = 0x200 := F 3
  refine skip (fld_part 5 5 f0_16 (by decide)) (by decide) ?_
  refine (if_neg (fun h => absurd ((fld_part 5 11 f0_16 (by decide)).symm.trans h.2) (by decide))).trans ?_
  refine (if_neg (fun h => absurd (f0_16.symm.trans (fld_part 0 16 h (by decide))) (by decide))).trans ?_
  refine skip f0_16 (by decide) ?_
  refine (if_neg (fun h => absurd (f0_16.symm.trans h.1) (by decide))).trans ?_
  refine skip f0_16 (by decide) ?_
  refine skip f0_16 (by decide) ?_
  refine skip f0_16 (by decide) ?_
  refine skip (fld_part 0 10 f0_16 (by decide)) (by decide) ?_
  refine (if_neg (fun h => absurd (f0_16.symm.trans (fld_part 0 16 h (by decide))) (by decide))).trans ?_
  refine skip f0_16 (by decide) ?_
  refine (if_pos ⟨f0_16, f22_10⟩).trans ?_
  rw [show (⟨bits N 18 4, bits N 16 2⟩ : Src) = a from src_eq (F 2) (F 1)]

theorem sleep (a : Src) : Statement (.sleep a) := by
  refine of_cat (w := pack 0x80000180 [encSrc a 18 16]) (ps := [(16, 0x180), (2, a.mode.toNat), (4, a.reg.toNat), (10, 0x200)])
    ⟨by decide, a.mode.isLt, a.reg.isLt, by decide, trivial⟩ rfl ?_ (fun N F lt => ?_) rfl
  · rw [pack_cons, pack_nil, encSrc_eq]; simp only [cat_cons, cat_nil]; omega
  rw [raw20 (major_of lt (fld_part (n := N) (lo := 22) (w := 10) (v := 0x200) 4 6 (F 3) (by decide)))]
  delta decodeMajor20
  have f0_16 : fld N 0 16 = 0x180 := F 0
  have f22_10 : fld N 22 10 = 0x200 := F 3
  refine skip (fld_part 5 5 f0_16 (by decide)) (by decide) ?_
  refine (if_neg (fun h => absurd ((fld_part 5 11 f0_16 (by decide)).symm.trans h.2) (by decide))).trans ?_
  refine (if_neg (fun h => absurd (f0_16.symm.trans (fld_part 0 16 h (by decide))) (by decide))).trans ?_
  refine skip f0_16 (by decide) ?_
  refine (if_neg (fun h => absurd (f0_16.symm.trans h.1) (by decide))).trans ?_
  refine skip f0_16 (by decide) ?_
  refine skip f0_16 (by decide) ?_
  refine skip f0_16 (by decide) ?_
  refine skip (fld_part 0 10 f0_16 (by decide)) (by decide) ?_
  refine (if_neg (fun h => absurd (f0_16.symm.trans (fld_part 0 16 h (by decide))) (by decide))).trans ?_
  refine skip f0_16 (by decide) ?_
  refine (if_neg (fun h => absurd (f0_16.symm.trans h.1) (by decide))).trans ?_
  refine (if_pos ⟨f0_16, f22_10⟩).trans ?_
  rw [show (⟨bits N 18 4, bits N 16 2⟩ : Src) = a from src_eq (F 2) (F 1)]

theorem trapw (d : BitVec 4) (w : BitVec 1) : Statement (.trapw d w) := by
  refine of_cat (w := pack 0x800001A0 [encFld d 22, encFld w 4]) (ps := [(4, 0x0), (1, w.toNat), (17, 0xD), (4, d.toNat), (6, 0x20)])
    ⟨by decide, w.isLt, by decide, d.isLt, by decide, trivial⟩ rfl ?_ (fun N F lt => ?_) rfl
  · rw [pack_cons, pack_cons, pack_nil, encFld_eq, encFld_eq]; simp only [cat_cons, cat_nil]; omega
  rw [raw20 (major_of lt (F 4))]
  delta decodeMajor20
  have f5_17 : fld N 5 17 = 0xD := F 2
  have f0_4 : fld N 0 4 = 0x0 := F 0
  refine skip (fld_part 0 5 f5_17 (by decide)) (by decide) ?_
  refine (if_neg (fun h => absurd ((fld_part 0 11 f5_17 (by decide)).symm.trans h.2) (by decide))).trans ?_
  refine (if_neg (fun h => absurd (f5_17.symm.trans (fld_part 5 17 h (by decide))) (by decide))).trans ?_
  refine (if_neg (fun h => absurd ((fld_part 0 11 f5_17 (by decide)).symm.trans (fld_part 5 11 h (by decide))) (by decide))).trans ?_
  refine (if_neg (fun h => absurd ((fld_part 0 11 f5_17 (by decide)).symm.trans (fld_part 5 11 h.1 (by decide))) (by decide))).trans ?_
  refine (if_neg (fun h => absurd ((fld_part 0 11 f5_17 (by decide)).symm.trans (fld_part 5 11 h (by decide))) (by decide))).trans ?_
  refine (if_neg (fun h => absurd ((fld_part 0 11 f5_17 (by decide)).symm.trans (fld_part 5 11 h (by decide))) (by decide))).trans ?_
  refine (if_neg (fun h => absurd ((fld_part 0 11 f5_17 (by decide)).symm.trans (fld_part 5 11 h (by decide))) (by decide))).trans ?_
  refine (if_neg (fun h => absurd ((fld_part 0 5 f5_17 (by decide)).symm.trans (fld_part 5 5 h (by decide))) (by decide))).trans ?_
  refine (if_neg (fun h => absurd (f5_17.symm.trans (fld_part 5 17 h (by decide))) (by decide))).trans ?_
  refine (if_neg (fun h => absurd ((fld_part 0 11 f5_17 (by decide)).symm.trans (fld_part 5 11 h (by decide))) (by decide))).trans ?_
  refine (if_neg (fun h => absurd ((fld_part 0 11 f5_17 (by decide)).symm.trans (fld_part 5 11 h.1 (by decide))) (by decide))).trans ?_
  refine (if_neg (fun h => absurd ((fld_part 0 11 f5_17 (by decide)).symm.trans (fld_part 5 11 h.1 (by decide))) (by decide))).trans ?_
  refine (if_pos ⟨f0_4, f5_17⟩).trans ?_
  rw [show bits N 22 4 = d from bits_eq (F 3)]
  rw [show bits N 4 1 = w from bits_eq (F 1)]

theorem quiesce (d : BitVec 4) (a : Src) (b : Src) : Statement (.quiesce d a b) := by
  refine of_cat (w := pack 0x800001C0 [encFld d 22, encSrc a 18 16, encSrc b 12 10]) (ps := [(10, 0x1C0), (2, b.mode.toNat), (4, b.reg.toNat), (2, a.mode.toNat), (4, a.reg.toNat), (4, d.toNat), (6, 0x20)])
    ⟨by decide, b.mode.isLt, b.reg.isLt, a.mode.isLt, a.reg.isLt, d.isLt, by decide, trivial⟩ rfl ?_ (fun N F lt => ?_) rfl
  · rw [pack_cons, pack_cons, pack_cons, pack_nil, encFld_eq, encSrc_eq, encSrc_eq]; simp only [cat_cons, cat_nil]; omega
  rw [raw20 (major_of lt (F 6))]
  delta decodeMajor20
  have f0_10 : fld N 0 10 = 0x1C0 := F 0
  refine skip (fld_part 5 5 f0_10 (by decide)) (by decide) ?_
  refine (if_neg (fun h => absurd ((fld_part 5 5 f0_10 (by decide)).symm.trans (fld_part 0 5 h.2 (by decide))) (by decide))).trans ?_
  refine (if_neg (fun h => absurd (f0_10.symm.trans (fld_part 0 10 h (by decide))) (by decide))).trans ?_
  refine (if_neg (fun h => absurd (f0_10.symm.trans (fld_part 0 10 h (by decide))) (by decide))).trans ?_
  refine (if_neg (fun h => absurd (f0_10.symm.trans (fld_part 0 10 h.1 (by decide))) (by decide))).trans ?_
  refine (if_neg (fun h => absurd (f0_10.symm.trans (fld_part 0 10 h (by decide))) (by decide))).trans ?_
  refine (if_neg (fun h => absurd (f0_10.symm.trans (fld_part 0 10 h (by decide))) (by decide))).trans ?_
  refine (if_neg (fun h => absurd (f0_10.symm.trans (fld_part 0 10 h (by decide))) (by decide))).trans ?_
  refine skip f0_10 (by decide) ?_
  refine (if_neg (fun h => absurd (f0_10.symm.trans (fld_part 0 10 h (by decide))) (by decide))).trans ?_
  refine (if_neg (fun h => absurd (f0_10.symm.trans (fld_part 0 10 h (by decide))) (by decide))).trans ?_
  refine (if_neg (fun h => absurd (f0_10.symm.trans (fld_part 0 10 h.1 (by decide))) (by decide))).trans ?_
  refine (if_neg (fun h => absurd (f0_10.symm.trans (fld_part 0 10 h.1 (by decide))) (by decide))).trans ?_
  refine (if_neg (fun h => absurd ((fld_part 5 5 f0_10 (by decide)).symm.trans (fld_part 0 5 h.2 (by decide))) (by decide))).trans ?_
  refine (if_pos f0_10).trans ?_
  rw [show bits N 22 4 = d from bits_eq (F 5)]
  rw [show (⟨bits N 18 4, bits N 16 2⟩ : Src) = a from src_eq (F 4) (F 3)]
  rw [show (⟨bits N 12 4, bits N 10 2⟩ : Src) = b from src_eq (F 2) (F 1)]

theorem quiesceR (d : BitVec 4) (a : Src) (b : Src) : Statement (.quiesceR d a b) := by
  refine of_cat (w := pack 0x800001D0 [encFld d 22, encSrc a 18 16, encSrc b 12 10]) (ps := [(10, 0x1D0), (2, b.mode.toNat), (4, b.reg.toNat), (2, a.mode.toNat), (4, a.reg.toNat), (4, d.toNat), (6, 0x20)])
    ⟨by decide, b.mode.isLt, b.reg.isLt, a.mode.isLt, a.reg.isLt, d.isLt, by decide, trivial⟩ rfl ?_ (fun N F lt => ?_) rfl
  · rw [pack_cons, pack_cons, pack_cons, pack_nil, encFld_eq, encSrc_eq, encSrc_eq]; simp only [cat_cons, cat_nil]; omega
  rw [raw20 (major_of lt (F 6))]
  delta decodeMajor20
  have f0_10 : fld N 0 10 = 0x1D0 := F 0
  refine skip (fld_part 5 5 f0_10 (by decide)) (by decide) ?_
  refine (if_neg (fun h => absurd ((fld_part 5 5 f0_10 (by decide)).symm.trans (fld_part 0 5 h.2 (by decide))) (by decide))).trans ?_
  refine (if_neg (fun h => absurd (f0_10.symm.trans (fld_part 0 10 h (by decide))) (by decide))).trans ?_
  refine (if_neg (fun h => absurd (f0_10.symm.trans (fld_part 0 10 h (by decide))) (by decide))).trans ?_
  refine (if_neg (fun h => absurd (f0_10.symm.trans (fld_part 0 10 h.1 (by decide))) (by decide))).trans ?_
  refine (if_neg (fun h => absurd (f0_10.symm.trans (fld_part 0 10 h (by decide))) (by decide))).trans ?_
  refine (if_neg (fun h => absurd (f0_10.symm.trans (fld_part 0 10 h (by decide))) (by decide))).trans ?_
  refine (if_neg (fun h => absurd (f0_10.symm.trans (fld_part 0 10 h (by decide))) (by decide))).trans ?_
  refine skip f0_10 (by decide) ?_
  refine (if_neg (fun h => absurd (f0_10.symm.trans (fld_part 0 10 h (by decide))) (by decide))).trans ?_
  refine (if_neg (fun h => absurd (f0_10.symm.trans (fld_part 0 10 h (by decide))) (by decide))).trans ?_
  refine (if_neg (fun h => absurd (f0_10.symm.trans (fld_part 0 10 h.1 (by decide))) (by decide))).trans ?_
  refine (if_neg (fun h => absurd (f0_10.symm.trans (fld_part 0 10 h.1 (by decide))) (by decide))).trans ?_
  refine (if_neg (fun h => absurd ((fld_part 5 5 f0_10 (by decide)).symm.trans (fld_part 0 5 h.2 (by decide))) (by decide))).trans ?_
  refine skip f0_10 (by decide) ?_
  refine (if_pos f0_10).trans ?_
  rw [show bits N 22 4 = d from bits_eq (F 5)]
  rw [show (⟨bits N 18 4, bits N 16 2⟩ : Src) = a from src_eq (F 4) (F 3)]
  rw [show (⟨bits N 12 4, bits N 10 2⟩ : Src) = b from src_eq (F 2) (F 1)]

theorem gbar (d : BitVec 4) : Statement (.gbar d) := by
  refine of_cat (w := pack 0x84000000 [encFld d 22]) (ps := [(22, 0x0), (4, d.toNat), (6, 0x21)])
    ⟨by decide, d.isLt, by decide, trivial⟩ rfl ?_ (fun N F lt => ?_) rfl
  · rw [pack_cons, pack_nil, encFld_eq]; simp only [cat_cons, cat_nil]; omega
  rw [raw21 (major_of lt (F 2))]
  delta decodeMajor21
  have f0_22 : fld N 0 22 = 0x0 := F 0
  refine (if_pos f0_22).trans ?_
  rw [show bits N 22 4 = d from bits_eq (F 1)]

theorem garr (d : BitVec 4) : Statement (.garr d) := by
  refine of_cat (w := pack 0x84000020 [encFld d 22]) (ps := [(22, 0x20), (4, d.toNat), (6, 0x21)])
    ⟨by decide, d.isLt, by decide, trivial⟩ rfl ?_ (fun N F lt => ?_) rfl
  · rw [pack_cons, pack_nil, encFld_eq]; simp only [cat_cons, cat_nil]; omega
  rw [raw21 (major_of lt (F 2))]
  delta decodeMajor21
  have f0_22 : fld N 0 22 = 0x20 := F 0
  refine skip f0_22 (by decide) ?_
  refine (if_pos f0_22).trans ?_
  rw [show bits N 22 4 = d from bits_eq (F 1)]

theorem gwait (a : Src) : Statement (.gwait a) := by
  refine of_cat (w := pack 0x84000040 [encSrc a 18 16]) (ps := [(16, 0x40), (2, a.mode.toNat), (4, a.reg.toNat), (10, 0x210)])
    ⟨by decide, a.mode.isLt, a.reg.isLt, by decide, trivial⟩ rfl ?_ (fun N F lt => ?_) rfl
  · rw [pack_cons, pack_nil, encSrc_eq]; simp only [cat_cons, cat_nil]; omega
  rw [raw21 (major_of lt (fld_part (n := N) (lo := 22) (w := 10) (v := 0x210) 4 6 (F 3) (by decide)))]
  delta decodeMajor21
  have f0_16 : fld N 0 16 = 0x40 := F 0
  have f22_10 : fld N 22 10 = 0x210 := F 3
  refine (if_neg (fun h => absurd (f0_16.symm.trans (fld_part 0 16 h (by decide))) (by decide))).trans ?_
  refine (if_neg (fun h => absurd (f0_16.symm.trans (fld_part 0 16 h (by decide))) (by decide))).trans ?_
  refine (if_pos ⟨f0_16, f22_10⟩).trans ?_
  rw [show (⟨bits N 18 4, bits N 16 2⟩ : Src) = a from src_eq (F 2) (F 1)]

theorem gexp (a : Src) (b : Src) : Statement (.gexp a b) := by
  refine of_cat (w := pack 0x84000060 [encSrc a 18 16, encSrc b 12 10]) (ps := [(10, 0x60), (2, b.mode.toNat), (4, b.reg.toNat), (2, a.mode.toNat), (4, a.reg.toNat), (10, 0x210)])
    ⟨by decide, b.mode.isLt, b.reg.isLt, a.mode.isLt, a.reg.isLt, by decide, trivial⟩ rfl ?_ (fun N F lt => ?_) rfl
  · rw [pack_cons, pack_cons, pack_nil, encSrc_eq, encSrc_eq]; simp only [cat_cons, cat_nil]; omega
  rw [raw21 (major_of lt (fld_part (n := N) (lo := 22) (w := 10) (v := 0x210) 4 6 (F 5) (by decide)))]
  delta decodeMajor21
  have f0_10 : fld N 0 10 = 0x60 := F 0
  have f22_10 : fld N 22 10 = 0x210 := F 5
  refine (if_neg (fun h => absurd (f0_10.symm.trans (fld_part 0 10 h (by decide))) (by decide))).trans ?_
  refine (if_neg (fun h => absurd (f0_10.symm.trans (fld_part 0 10 h (by decide))) (by decide))).trans ?_
  refine (if_neg (fun h => absurd (f0_10.symm.trans (fld_part 0 10 h.1 (by decide))) (by decide))).trans ?_
  refine (if_pos ⟨f0_10, f22_10⟩).trans ?_
  rw [show (⟨bits N 18 4, bits N 16 2⟩ : Src) = a from src_eq (F 4) (F 3)]
  rw [show (⟨bits N 12 4, bits N 10 2⟩ : Src) = b from src_eq (F 2) (F 1)]

theorem svopen (d : BitVec 4) (a : Src) (b : Src) : Statement (.svopen d a b) := by
  refine of_cat (w := pack 0x8C000000 [encFld d 22, encSrc a 18 16, encSrc b 12 10]) (ps := [(10, 0x0), (2, b.mode.toNat), (4, b.reg.toNat), (2, a.mode.toNat), (4, a.reg.toNat), (4, d.toNat), (6, 0x23)])
    ⟨by decide, b.mode.isLt, b.reg.isLt, a.mode.isLt, a.reg.isLt, d.isLt, by decide, trivial⟩ rfl ?_ (fun N F lt => ?_) rfl
  · rw [pack_cons, pack_cons, pack_cons, pack_nil, encFld_eq, encSrc_eq, encSrc_eq]; simp only [cat_cons, cat_nil]; omega
  rw [raw23 (major_of lt (F 6))]
  delta decodeMajor23
  have f0_10 : fld N 0 10 = 0x0 := F 0
  refine (if_pos f0_10).trans ?_
  rw [show bits N 22 4 = d from bits_eq (F 5)]
  rw [show (⟨bits N 18 4, bits N 16 2⟩ : Src) = a from src_eq (F 4) (F 3)]
  rw [show (⟨bits N 12 4, bits N 10 2⟩ : Src) = b from src_eq (F 2) (F 1)]

theorem timer (d : BitVec 4) (a : Src) (b : Src) : Statement (.timer d a b) := by
  refine of_cat (w := pack 0x8C000020 [encFld d 22, encSrc a 18 16, encSrc b 12 10]) (ps := [(10, 0x20), (2, b.mode.toNat), (4, b.reg.toNat), (2, a.mode.toNat), (4, a.reg.toNat), (4, d.toNat), (6, 0x23)])
    ⟨by decide, b.mode.isLt, b.reg.isLt, a.mode.isLt, a.reg.isLt, d.isLt, by decide, trivial⟩ rfl ?_ (fun N F lt => ?_) rfl
  · rw [pack_cons, pack_cons, pack_cons, pack_nil, encFld_eq, encSrc_eq, encSrc_eq]; simp only [cat_cons, cat_nil]; omega
  rw [raw23 (major_of lt (F 6))]
  delta decodeMajor23
  have f0_10 : fld N 0 10 = 0x20 := F 0
  refine skip f0_10 (by decide) ?_
  refine (if_pos f0_10).trans ?_
  rw [show bits N 22 4 = d from bits_eq (F 5)]
  rw [show (⟨bits N 18 4, bits N 16 2⟩ : Src) = a from src_eq (F 4) (F 3)]
  rw [show (⟨bits N 12 4, bits N 10 2⟩ : Src) = b from src_eq (F 2) (F 1)]

theorem dqry (d : BitVec 4) (a : Src) (b : Src) : Statement (.dqry d a b) := by
  refine of_cat (w := pack 0x8C000040 [encFld d 22, encSrc a 18 16, encSrc b 12 10]) (ps := [(10, 0x40), (2, b.mode.toNat), (4, b.reg.toNat), (2, a.mode.toNat), (4, a.reg.toNat), (4, d.toNat), (6, 0x23)])
    ⟨by decide, b.mode.isLt, b.reg.isLt, a.mode.isLt, a.reg.isLt, d.isLt, by decide, trivial⟩ rfl ?_ (fun N F lt => ?_) rfl
  · rw [pack_cons, pack_cons, pack_cons, pack_nil, encFld_eq, encSrc_eq, encSrc_eq]; simp only [cat_cons, cat_nil]; omega
  rw [raw23 (major_of lt (F 6))]
  delta decodeMajor23
  have f0_10 : fld N 0 10 = 0x40 := F 0
  refine skip f0_10 (by decide) ?_
  refine skip f0_10 (by decide) ?_
  refine (if_pos f0_10).trans ?_
  rw [show bits N 22 4 = d from bits_eq (F 5)]
  rw [show (⟨bits N 18 4, bits N 16 2⟩ : Src) = a from src_eq (F 4) (F 3)]
  rw [show (⟨bits N 12 4, bits N 10 2⟩ : Src) = b from src_eq (F 2) (F 1)]

theorem dlkq (d : BitVec 4) (a : Src) : Statement (.dlkq d a) := by
  refine of_cat (w := pack 0x8C000060 [encFld d 22, encSrc a 18 16]) (ps := [(16, 0x60), (2, a.mode.toNat), (4, a.reg.toNat), (4, d.toNat), (6, 0x23)])
    ⟨by decide, a.mode.isLt, a.reg.isLt, d.isLt, by decide, trivial⟩ rfl ?_ (fun N F lt => ?_) rfl
  · rw [pack_cons, pack_cons, pack_nil, encFld_eq, encSrc_eq]; simp only [cat_cons, cat_nil]; omega
  rw [raw23 (major_of lt (F 4))]
  delta decodeMajor23
  have f0_16 : fld N 0 16 = 0x60 := F 0
  refine skip (fld_part 0 10 f0_16 (by decide)) (by decide) ?_
  refine skip (fld_part 0 10 f0_16 (by decide)) (by decide) ?_
  refine skip (fld_part 0 10 f0_16 (by decide)) (by decide) ?_
  refine (if_pos f0_16).trans ?_
  rw [show bits N 22 4 = d from bits_eq (F 3)]
  rw [show (⟨bits N 18 4, bits N 16 2⟩ : Src) = a from src_eq (F 2) (F 1)]

theorem chnew (d : BitVec 4) (a : Src) : Statement (.chnew d a) := by
  refine of_cat (w := pack 0x90000000 [encFld d 22, encSrc a 18 16]) (ps := [(16, 0x0), (2, a.mode.toNat), (4, a.reg.toNat), (4, d.toNat), (6, 0x24)])
    ⟨by decide, a.mode.isLt, a.reg.isLt, d.isLt, by decide, trivial⟩ rfl ?_ (fun N F lt => ?_) rfl
  · rw [pack_cons, pack_cons, pack_nil, encFld_eq, encSrc_eq]; simp only [cat_cons, cat_nil]; omega
  rw [raw24 (major_of lt (F 4))]
  delta decodeMajor24
  have f0_16 : fld N 0 16 = 0x0 := F 0
  refine (if_pos f0_16).trans ?_
  rw [show bits N 22 4 = d from bits_eq (F 3)]
  rw [show (⟨bits N 18 4, bits N 16 2⟩ : Src) = a from src_eq (F 2) (F 1)]

theorem chdel (a : Src) : Statement (.chdel a) := by
  refine of_cat (w := pack 0x90000020 [encSrc a 18 16]) (ps := [(16, 0x20), (2, a.mode.toNat), (4, a.reg.toNat), (10, 0x240)])
    ⟨by decide, a.mode.isLt, a.reg.isLt, by decide, trivial⟩ rfl ?_ (fun N F lt => ?_) rfl
  · rw [pack_cons, pack_nil, encSrc_eq]; simp only [cat_cons, cat_nil]; omega
  rw [raw24 (major_of lt (fld_part (n := N) (lo := 22) (w := 10) (v := 0x240) 4 6 (F 3) (by decide)))]
  delta decodeMajor24
  have f0_16 : fld N 0 16 = 0x20 := F 0
  have f22_10 : fld N 22 10 = 0x240 := F 3
  refine skip f0_16 (by decide) ?_
  refine (if_pos ⟨f0_16, f22_10⟩).trans ?_
  rw [show (⟨bits N 18 4, bits N 16 2⟩ : Src) = a from src_eq (F 2) (F 1)]

theorem chbind (d : BitVec 4) (a : Src) (b : Src) : Statement (.chbind d a b) := by
  refine of_cat (w := pack 0x90000040 [encFld d 22, encSrc a 18 16, encSrc b 12 10]) (ps := [(10, 0x40), (2, b.mode.toNat), (4, b.reg.toNat), (2, a.mode.toNat), (4, a.reg.toNat), (4, d.toNat), (6, 0x24)])
    ⟨by decide, b.mode.isLt, b.reg.isLt, a.mode.isLt, a.reg.isLt, d.isLt, by decide, trivial⟩ rfl ?_ (fun N F lt => ?_) rfl
  · rw [pack_cons, pack_cons, pack_cons, pack_nil, encFld_eq, encSrc_eq, encSrc_eq]; simp only [cat_cons, cat_nil]; omega
  rw [raw24 (major_of lt (F 6))]
  delta decodeMajor24
  have f0_10 : fld N 0 10 = 0x40 := F 0
  refine (if_neg (fun h => absurd (f0_10.symm.trans (fld_part 0 10 h (by decide))) (by decide))).trans ?_
  refine (if_neg (fun h => absurd (f0_10.symm.trans (fld_part 0 10 h.1 (by decide))) (by decide))).trans ?_
  refine (if_pos f0_10).trans ?_
  rw [show bits N 22 4 = d from bits_eq (F 5)]
  rw [show (⟨bits N 18 4, bits N 16 2⟩ : Src) = a from src_eq (F 4) (F 3)]
  rw [show (⟨bits N 12 4, bits N 10 2⟩ : Src) = b from src_eq (F 2) (F 1)]

theorem chqry (d : BitVec 4) (a : Src) : Statement (.chqry d a) := by
  refine of_cat (w := pack 0x90000060 [encFld d 22, encSrc a 18 16]) (ps := [(16, 0x60), (2, a.mode.toNat), (4, a.reg.toNat), (4, d.toNat), (6, 0x24)])
    ⟨by decide, a.mode.isLt, a.reg.isLt, d.isLt, by decide, trivial⟩ rfl ?_ (fun N F lt => ?_) rfl
  · rw [pack_cons, pack_cons, pack_nil, encFld_eq, encSrc_eq]; simp only [cat_cons, cat_nil]; omega
  rw [raw24 (major_of lt (F 4))]
  delta decodeMajor24
  have f0_16 : fld N 0 16 = 0x60 := F 0
  refine skip f0_16 (by decide) ?_
  refine (if_neg (fun h => absurd (f0_16.symm.trans h.1) (by decide))).trans ?_
  refine skip (fld_part 0 10 f0_16 (by decide)) (by decide) ?_
  refine (if_pos f0_16).trans ?_
  rw [show bits N 22 4 = d from bits_eq (F 3)]
  rw [show (⟨bits N 18 4, bits N 16 2⟩ : Src) = a from src_eq (F 2) (F 1)]

theorem chpoll (d : BitVec 4) (a : Src) : Statement (.chpoll d a) := by
  refine of_cat (w := pack 0x90000080 [encFld d 22, encSrc a 18 16]) (ps := [(16, 0x80), (2, a.mode.toNat), (4, a.reg.toNat), (4, d.toNat), (6, 0x24)])
    ⟨by decide, a.mode.isLt, a.reg.isLt, d.isLt, by decide, trivial⟩ rfl ?_ (fun N F lt => ?_) rfl
  · rw [pack_cons, pack_cons, pack_nil, encFld_eq, encSrc_eq]; simp only [cat_cons, cat_nil]; omega
  rw [raw24 (major_of lt (F 4))]
  delta decodeMajor24
  have f0_16 : fld N 0 16 = 0x80 := F 0
  refine skip f0_16 (by decide) ?_
  refine (if_neg (fun h => absurd (f0_16.symm.trans h.1) (by decide))).trans ?_
  refine skip (fld_part 0 10 f0_16 (by decide)) (by decide) ?_
  refine skip f0_16 (by decide) ?_
  refine (if_pos f0_16).trans ?_
  rw [show bits N 22 4 = d from bits_eq (F 3)]
  rw [show (⟨bits N 18 4, bits N 16 2⟩ : Src) = a from src_eq (F 2) (F 1)]

theorem sendh (a : Src) (b : Src) : Statement (.sendh a b) := by
  refine of_cat (w := pack 0x900000A0 [encSrc a 18 16, encSrc b 12 10]) (ps := [(10, 0xA0), (2, b.mode.toNat), (4, b.reg.toNat), (2, a.mode.toNat), (4, a.reg.toNat), (10, 0x240)])
    ⟨by decide, b.mode.isLt, b.reg.isLt, a.mode.isLt, a.reg.isLt, by decide, trivial⟩ rfl ?_ (fun N F lt => ?_) rfl
  · rw [pack_cons, pack_cons, pack_nil, encSrc_eq, encSrc_eq]; simp only [cat_cons, cat_nil]; omega
  rw [raw24 (major_of lt (fld_part (n := N) (lo := 22) (w := 10) (v := 0x240) 4 6 (F 5) (by decide)))]
  delta decodeMajor24
  have f0_10 : fld N 0 10 = 0xA0 := F 0
  have f22_10 : fld N 22 10 = 0x240 := F 5
  refine (if_neg (fun h => absurd (f0_10.symm.trans (fld_part 0 10 h (by decide))) (by decide))).trans ?_
  refine (if_neg (fun h => absurd (f0_10.symm.trans (fld_part 0 10 h.1 (by decide))) (by decide))).trans ?_
  refine skip f0_10 (by decide) ?_
  refine (if_neg (fun h => absurd (f0_10.symm.trans (fld_part 0 10 h (by decide))) (by decide))).trans ?_
  refine (if_neg (fun h => absurd (f0_10.symm.trans (fld_part 0 10 h (by decide))) (by decide))).trans ?_
  refine (if_pos ⟨f0_10, f22_10⟩).trans ?_
  rw [show (⟨bits N 18 4, bits N 16 2⟩ : Src) = a from src_eq (F 4) (F 3)]
  rw [show (⟨bits N 12 4, bits N 10 2⟩ : Src) = b from src_eq (F 2) (F 1)]

theorem send (a : Src) (b : Src) : Statement (.send a b) := by
  refine of_cat (w := pack 0x94000000 [encSrc a 18 16, encSrc b 12 10]) (ps := [(10, 0x0), (2, b.mode.toNat), (4, b.reg.toNat), (2, a.mode.toNat), (4, a.reg.toNat), (10, 0x250)])
    ⟨by decide, b.mode.isLt, b.reg.isLt, a.mode.isLt, a.reg.isLt, by decide, trivial⟩ rfl ?_ (fun N F lt => ?_) rfl
  · rw [pack_cons, pack_cons, pack_nil, encSrc_eq, encSrc_eq]; simp only [cat_cons, cat_nil]; omega
  rw [raw25 (major_of lt (fld_part (n := N) (lo := 22) (w := 10) (v := 0x250) 4 6 (F 5) (by decide)))]
  delta decodeMajor25
  have f0_10 : fld N 0 10 = 0x0 := F 0
  have f22_10 : fld N 22 10 = 0x250 := F 5
  refine (if_pos ⟨f0_10, f22_10⟩).trans ?_
  rw [show (⟨bits N 18 4, bits N 16 2⟩ : Src) = a from src_eq (F 4) (F 3)]
  rw [show (⟨bits N 12 4, bits N 10 2⟩ : Src) = b from src_eq (F 2) (F 1)]

theorem recv (d : BitVec 4) (a : Src) : Statement (.recv d a) := by
  refine of_cat (w := pack 0x94000020 [encFld d 22, encSrc a 18 16]) (ps := [(16, 0x20), (2, a.mode.toNat), (4, a.reg.toNat), (4, d.toNat), (6, 0x25)])
    ⟨by decide, a.mode.isLt, a.reg.isLt, d.isLt, by decide, trivial⟩ rfl ?_ (fun N F lt => ?_) rfl
  · rw [pack_cons, pack_cons, pack_nil, encFld_eq, encSrc_eq]; simp only [cat_cons, cat_nil]; omega
  rw [raw25 (major_of lt (F 4))]
  delta decodeMajor25
  have f0_16 : fld N 0 16 = 0x20 := F 0
  refine (if_neg (fun h => absurd ((fld_part 0 10 f0_16 (by decide)).symm.trans h.1) (by decide))).trans ?_
  refine (if_pos f0_16).trans ?_
  rw [show bits N 22 4 = d from bits_eq (F 3)]
  rw [show (⟨bits N 18 4, bits N 16 2⟩ : Src) = a from src_eq (F 2) (F 1)]

theorem sendb (a : Src) (b : Src) : Statement (.sendb a b) := by
  refine of_cat (w := pack 0x94000040 [encSrc a 18 16, encSrc b 12 10]) (ps := [(10, 0x40), (2, b.mode.toNat), (4, b.reg.toNat), (2, a.mode.toNat), (4, a.reg.toNat), (10, 0x250)])
    ⟨by decide, b.mode.isLt, b.reg.isLt, a.mode.isLt, a.reg.isLt, by decide, trivial⟩ rfl ?_ (fun N F lt => ?_) rfl
  · rw [pack_cons, pack_cons, pack_nil, encSrc_eq, encSrc_eq]; simp only [cat_cons, cat_nil]; omega
  rw [raw25 (major_of lt (fld_part (n := N) (lo := 22) (w := 10) (v := 0x250) 4 6 (F 5) (by decide)))]
  delta decodeMajor25
  have f0_10 : fld N 0 10 = 0x40 := F 0
  have f22_10 : fld N 22 10 = 0x250 := F 5
  refine (if_neg (fun h => absurd (f0_10.symm.trans h.1) (by decide))).trans ?_
  refine (if_neg (fun h => absurd (f0_10.symm.trans (fld_part 0 10 h (by decide))) (by decide))).trans ?_
  refine (if_pos ⟨f0_10, f22_10⟩).trans ?_
  rw [show (⟨bits N 18 4, bits N 16 2⟩ : Src) = a from src_eq (F 4) (F 3)]
  rw [show (⟨bits N 12 4, bits N 10 2⟩ : Src) = b from src_eq (F 2) (F 1)]

theorem recvb (d : BitVec 4) (a : Src) (b : Src) : Statement (.recvb d a b) := by
  refine of_cat (w := pack 0x94000060 [encFld d 22, encSrc a 18 16, encSrc b 12 10]) (ps := [(10, 0x60), (2, b.mode.toNat), (4, b.reg.toNat), (2, a.mode.toNat), (4, a.reg.toNat), (4, d.toNat), (6, 0x25)])
    ⟨by decide, b.mode.isLt, b.reg.isLt, a.mode.isLt, a.reg.isLt, d.isLt, by decide, trivial⟩ rfl ?_ (fun N F lt => ?_) rfl
  · rw [pack_cons, pack_cons, pack_cons, pack_nil, encFld_eq, encSrc_eq, encSrc_eq]; simp only [cat_cons, cat_nil]; omega
  rw [raw25 (major_of lt (F 6))]
  delta decodeMajor25
  have f0_10 : fld N 0 10 = 0x60 := F 0
  refine (if_neg (fun h => absurd (f0_10.symm.trans h.1) (by decide))).trans ?_
  refine (if_neg (fun h => absurd (f0_10.symm.trans (fld_part 0 10 h (by decide))) (by decide))).trans ?_
  refine (if_neg (fun h => absurd (f0_10.symm.trans h.1) (by decide))).trans ?_
  refine (if_pos f0_10).trans ?_
  rw [show bits N 22 4 = d from bits_eq (F 5)]
  rw [show (⟨bits N 18 4, bits N 16 2⟩ : Src) = a from src_eq (F 4) (F 3)]
  rw [show (⟨bits N 12 4, bits N 10 2⟩ : Src) = b from src_eq (F 2) (F 1)]

theorem sendt (a : Src) (b : Src) (t : BitVec 1) : Statement (.sendt a b t) := by
  refine of_cat (w := pack 0x94000080 [encSrc a 18 16, encSrc b 12 10, encFld t 4]) (ps := [(4, 0x0), (1, t.toNat), (5, 0x4), (2, b.mode.toNat), (4, b.reg.toNat), (2, a.mode.toNat), (4, a.reg.toNat), (10, 0x250)])
    ⟨by decide, t.isLt, by decide, b.mode.isLt, b.reg.isLt, a.mode.isLt, a.reg.isLt, by decide, trivial⟩ rfl ?_ (fun N F lt => ?_) rfl
  · rw [pack_cons, pack_cons, pack_cons, pack_nil, encSrc_eq, encSrc_eq, encFld_eq]; simp only [cat_cons, cat_nil]; omega
  rw [raw25 (major_of lt (fld_part (n := N) (lo := 22) (w := 10) (v := 0x250) 4 6 (F 7) (by decide)))]
  delta decodeMajor25
  have f5_5 : fld N 5 5 = 0x4 := F 2
  have f0_4 : fld N 0 4 = 0x0 := F 0
  have f22_10 : fld N 22 10 = 0x250 := F 7
  refine (if_neg (fun h => absurd (f5_5.symm.trans (fld_part 5 5 h.1 (by decide))) (by decide))).trans ?_
  refine (if_neg (fun h => absurd (f5_5.symm.trans (fld_part 5 5 h (by decide))) (by decide))).trans ?_
  refine (if_neg (fun h => absurd (f5_5.symm.trans (fld_part 5 5 h.1 (by decide))) (by decide))).trans ?_
  refine (if_neg (fun h => absurd (f5_5.symm.trans (fld_part 5 5 h (by decide))) (by decide))).trans ?_
  refine (if_pos ⟨f0_4, f5_5, f22_10⟩).trans ?_
  rw [show (⟨bits N 18 4, bits N 16 2⟩ : Src) = a from src_eq (F 6) (F 5)]
  rw [show (⟨bits N 12 4, bits N 10 2⟩ : Src) = b from src_eq (F 4) (F 3)]
  rw [show bits N 4 1 = t from bits_eq (F 1)]

theorem recvt (a : Src) (b : Src) (t : BitVec 1) : Statement (.recvt a b t) := by
  refine of_cat (w := pack 0x940000A0 [encSrc a 18 16, encSrc b 12 10, encFld t 4]) (ps := [(4, 0x0), (1, t.toNat), (5, 0x5), (2, b.mode.toNat), (4, b.reg.toNat), (2, a.mode.toNat), (4, a.reg.toNat), (10, 0x250)])
    ⟨by decide, t.isLt, by decide, b.mode.isLt, b.reg.isLt, a.mode.isLt, a.reg.isLt, by decide, trivial⟩ rfl ?_ (fun N F lt => ?_) rfl
  · rw [pack_cons, pack_cons, pack_cons, pack_nil, encSrc_eq, encSrc_eq, encFld_eq]; simp only [cat_cons, cat_nil]; omega
  rw [raw25 (major_of lt (fld_part (n := N) (lo := 22) (w := 10) (v := 0x250) 4 6 (F 7) (by decide)))]
  delta decodeMajor25
  have f5_5 : fld N 5 5 = 0x5 := F 2
  have f0_4 : fld N 0 4 = 0x0 := F 0
  have f22_10 : fld N 22 10 = 0x250 := F 7
  refine (if_neg (fun h => absurd (f5_5.symm.trans (fld_part 5 5 h.1 (by decide))) (by decide))).trans ?_
  refine (if_neg (fun h => absurd (f5_5.symm.trans (fld_part 5 5 h (by decide))) (by decide))).trans ?_
  refine (if_neg (fun h => absurd (f5_5.symm.trans (fld_part 5 5 h.1 (by decide))) (by decide))).trans ?_
  refine (if_neg (fun h => absurd (f5_5.symm.trans (fld_part 5 5 h (by decide))) (by decide))).trans ?_
  refine (if_neg (fun h => absurd (f5_5.symm.trans h.2.1) (by decide))).trans ?_
  refine (if_pos ⟨f0_4, f5_5, f22_10⟩).trans ?_
  rw [show (⟨bits N 18 4, bits N 16 2⟩ : Src) = a from src_eq (F 6) (F 5)]
  rw [show (⟨bits N 12 4, bits N 10 2⟩ : Src) = b from src_eq (F 4) (F 3)]
  rw [show bits N 4 1 = t from bits_eq (F 1)]

theorem senda (d : BitVec 4) (a : Src) (b : Src) : Statement (.senda d a b) := by
  refine of_cat (w := pack 0x940000C0 [encFld d 22, encSrc a 18 16, encSrc b 12 10]) (ps := [(10, 0xC0), (2, b.mode.toNat), (4, b.reg.toNat), (2, a.mode.toNat), (4, a.reg.toNat), (4, d.toNat), (6, 0x25)])
    ⟨by decide, b.mode.isLt, b.reg.isLt, a.mode.isLt, a.reg.isLt, d.isLt, by decide, trivial⟩ rfl ?_ (fun N F lt => ?_) rfl
  · rw [pack_cons, pack_cons, pack_cons, pack_nil, encFld_eq, encSrc_eq, encSrc_eq]; simp only [cat_cons, cat_nil]; omega
  rw [raw25 (major_of lt (F 6))]
  delta decodeMajor25
  have f0_10 : fld N 0 10 = 0xC0 := F 0
  refine (if_neg (fun h => absurd (f0_10.symm.trans h.1) (by decide))).trans ?_
  refine (if_neg (fun h => absurd (f0_10.symm.trans (fld_part 0 10 h (by decide))) (by decide))).trans ?_
  refine (if_neg (fun h => absurd (f0_10.symm.trans h.1) (by decide))).trans ?_
  refine skip f0_10 (by decide) ?_
  refine (if_neg (fun h => absurd ((fld_part 5 5 f0_10 (by decide)).symm.trans h.2.1) (by decide))).trans ?_
  refine (if_neg (fun h => absurd ((fld_part 5 5 f0_10 (by decide)).symm.trans h.2.1) (by decide))).trans ?_
  refine (if_pos f0_10).trans ?_
  rw [show bits N 22 4 = d from bits_eq (F 5)]
  rw [show (⟨bits N 18 4, bits N 16 2⟩ : Src) = a from src_eq (F 4) (F 3)]
  rw [show (⟨bits N 12 4, bits N 10 2⟩ : Src) = b from src_eq (F 2) (F 1)]

theorem trecv (d : BitVec 4) (a : Src) (b : Src) (t : BitVec 1) : Statement (.trecv d a b t) := by
  refine of_cat (w := pack 0x940000E0 [encFld d 22, encSrc a 18 16, encSrc b 12 10, encFld t 4]) (ps := [(4, 0x0), (1, t.toNat), (5, 0x7), (2, b.mode.toNat), (4, b.reg.toNat), (2, a.mode.toNat), (4, a.reg.toNat), (4, d.toNat), (6, 0x25)])
    ⟨by decide, t.isLt, by decide, b.mode.isLt, b.reg.isLt, a.mode.isLt, a.reg.isLt, d.isLt, by decide, trivial⟩ rfl ?_ (fun N F lt => ?_) rfl
  · rw [pack_cons, pack_cons, pack_cons, pack_cons, pack_nil, encFld_eq, encSrc_eq, encSrc_eq, encFld_eq]; simp only [cat_cons, cat_nil]; omega
  rw [raw25 (major_of lt (F 8))]
  delta decodeMajor25
  have f5_5 : fld N 5 5 = 0x7 := F 2
  have f0_4 : fld N 0 4 = 0x0 := F 0
  refine (if_neg (fun h => absurd (f5_5.symm.trans (fld_part 5 5 h.1 (by decide))) (by decide))).trans ?_
  refine (if_neg (fun h => absurd (f5_5.symm.trans (fld_part 5 5 h (by decide))) (by decide))).trans ?_
  refine (if_neg (fun h => absurd (f5_5.symm.trans (fld_part 5 5 h.1 (by decide))) (by decide))).trans ?_
  refine (if_neg (fun h => absurd (f5_5.symm.trans (fld_part 5 5 h (by decide))) (by decide))).trans ?_
  refine (if_neg (fun h => absurd (f5_5.symm.trans h.2.1) (by decide))).trans ?_
  refine (if_neg (fun h => absurd (f5_5.symm.trans h.2.1) (by decide))).trans ?_
  refine (if_neg (fun h => absurd (f5_5.symm.trans (fld_part 5 5 h (by decide))) (by decide))).trans ?_
  refine (if_pos ⟨f0_4, f5_5⟩).trans ?_
  rw [show bits N 22 4 = d from bits_eq (F 7)]
  rw [show (⟨bits N 18 4, bits N 16 2⟩ : Src) = a from src_eq (F 6) (F 5)]
  rw [show (⟨bits N 12 4, bits N 10 2⟩ : Src) = b from src_eq (F 4) (F 3)]
  rw [show bits N 4 1 = t from bits_eq (F 1)]

theorem alt (d : BitVec 4) (a : Src) (b : Src) (f : BitVec 1) : Statement (.alt d a b f) := by
  refine of_cat (w := pack 0x98000000 [encFld d 22, encSrc a 18 16, encSrc b 12 10, encFld f 4]) (ps := [(4, 0x0), (1, f.toNat), (5, 0x0), (2, b.mode.toNat), (4, b.reg.toNat), (2, a.mode.toNat), (4, a.reg.toNat), (4, d.toNat), (6, 0x26)])
    ⟨by decide, f.isLt, by decide, b.mode.isLt, b.reg.isLt, a.mode.isLt, a.reg.isLt, d.isLt, by decide, trivial⟩ rfl ?_ (fun N F lt => ?_) rfl
  · rw [pack_cons, pack_cons, pack_cons, pack_cons, pack_nil, encFld_eq, encSrc_eq, encSrc_eq, encFld_eq]; simp only [cat_cons, cat_nil]; omega
  rw [raw26 (major_of lt (F 8))]
  delta decodeMajor26
  have f0_4 : fld N 0 4 = 0x0 := F 0
  have f5_5 : fld N 5 5 = 0x0 := F 2
  refine (if_pos ⟨f0_4, f5_5⟩).trans ?_
  rw [show bits N 22 4 = d from bits_eq (F 7)]
  rw [show (⟨bits N 18 4, bits N 16 2⟩ : Src) = a from src_eq (F 6) (F 5)]
  rw [show (⟨bits N 12 4, bits N 10 2⟩ : Src) = b from src_eq (F 4) (F 3)]
  rw [show bits N 4 1 = f from bits_eq (F 1)]

theorem copy (d : BitVec 4) (a : Src) (b : Src) : Statement (.copy d a b) := by
  refine of_cat (w := pack 0x9C000000 [encFld d 22, encSrc a 18 16, encSrc b 12 10]) (ps := [(10, 0x0), (2, b.mode.toNat), (4, b.reg.toNat), (2, a.mode.toNat), (4, a.reg.toNat), (4, d.toNat), (6, 0x27)])
    ⟨by decide, b.mode.isLt, b.reg.isLt, a.mode.isLt, a.reg.isLt, d.isLt, by decide, trivial⟩ rfl ?_ (fun N F lt => ?_) rfl
  · rw [pack_cons, pack_cons, pack_cons, pack_nil, encFld_eq, encSrc_eq, encSrc_eq]; simp only [cat_cons, cat_nil]; omega
  rw [raw27 (major_of lt (F 6))]
  delta decodeMajor27
  have f0_10 : fld N 0 10 = 0x0 := F 0
  refine (if_pos f0_10).trans ?_
  rw [show bits N 22 4 = d from bits_eq (F 5)]
  rw [show (⟨bits N 18 4, bits N 16 2⟩ : Src) = a from src_eq (F 4) (F 3)]
  rw [show (⟨bits N 12 4, bits N 10 2⟩ : Src) = b from src_eq (F 2) (F 1)]

theorem cwait (d : BitVec 4) (a : Src) (b : Src) : Statement (.cwait d a b) := by
  refine of_cat (w := pack 0x9C000020 [encFld d 22, encSrc a 18 16, encSrc b 12 10]) (ps := [(10, 0x20), (2, b.mode.toNat), (4, b.reg.toNat), (2, a.mode.toNat), (4, a.reg.toNat), (4, d.toNat), (6, 0x27)])
    ⟨by decide, b.mode.isLt, b.reg.isLt, a.mode.isLt, a.reg.isLt, d.isLt, by decide, trivial⟩ rfl ?_ (fun N F lt => ?_) rfl
  · rw [pack_cons, pack_cons, pack_cons, pack_nil, encFld_eq, encSrc_eq, encSrc_eq]; simp only [cat_cons, cat_nil]; omega
  rw [raw27 (major_of lt (F 6))]
  delta decodeMajor27
  have f0_10 : fld N 0 10 = 0x20 := F 0
  refine skip f0_10 (by decide) ?_
  refine (if_pos f0_10).trans ?_
  rw [show bits N 22 4 = d from bits_eq (F 5)]
  rw [show (⟨bits N 18 4, bits N 16 2⟩ : Src) = a from src_eq (F 4) (F 3)]
  rw [show (⟨bits N 12 4, bits N 10 2⟩ : Src) = b from src_eq (F 2) (F 1)]

theorem strm (d : BitVec 4) (b : Src) : Statement (.strm d b) := by
  refine of_cat (w := pack 0x9C000040 [encFld d 22, encSrc b 12 10]) (ps := [(10, 0x40), (2, b.mode.toNat), (4, b.reg.toNat), (6, 0x0), (4, d.toNat), (6, 0x27)])
    ⟨by decide, b.mode.isLt, b.reg.isLt, by decide, d.isLt, by decide, trivial⟩ rfl ?_ (fun N F lt => ?_) rfl
  · rw [pack_cons, pack_cons, pack_nil, encFld_eq, encSrc_eq]; simp only [cat_cons, cat_nil]; omega
  rw [raw27 (major_of lt (F 5))]
  delta decodeMajor27
  have f0_10 : fld N 0 10 = 0x40 := F 0
  have f16_6 : fld N 16 6 = 0x0 := F 3
  refine skip f0_10 (by decide) ?_
  refine skip f0_10 (by decide) ?_
  refine (if_pos ⟨f0_10, f16_6⟩).trans ?_
  rw [show bits N 22 4 = d from bits_eq (F 4)]
  rw [show (⟨bits N 12 4, bits N 10 2⟩ : Src) = b from src_eq (F 2) (F 1)]

theorem subs (d : BitVec 4) (a : Src) (b : Src) : Statement (.subs d a b) := by
  refine of_cat (w := pack 0x9C000060 [encFld d 22, encSrc a 18 16, encSrc b 12 10]) (ps := [(10, 0x60), (2, b.mode.toNat), (4, b.reg.toNat), (2, a.mode.toNat), (4, a.reg.toNat), (4, d.toNat), (6, 0x27)])
    ⟨by decide, b.mode.isLt, b.reg.isLt, a.mode.isLt, a.reg.isLt, d.isLt, by decide, trivial⟩ rfl ?_ (fun N F lt => ?_) rfl
  · rw [pack_cons, pack_cons, pack_cons, pack_nil, encFld_eq, encSrc_eq, encSrc_eq]; simp only [cat_cons, cat_nil]; omega
  rw [raw27 (major_of lt (F 6))]
  delta decodeMajor27
  have f0_10 : fld N 0 10 = 0x60 := F 0
  refine skip f0_10 (by decide) ?_
  refine skip f0_10 (by decide) ?_
  refine (if_neg (fun h => absurd (f0_10.symm.trans h.1) (by decide))).trans ?_
  refine (if_pos f0_10).trans ?_
  rw [show bits N 22 4 = d from bits_eq (F 5)]
  rw [show (⟨bits N 18 4, bits N 16 2⟩ : Src) = a from src_eq (F 4) (F 3)]
  rw [show (⟨bits N 12 4, bits N 10 2⟩ : Src) = b from src_eq (F 2) (F 1)]

theorem unsub (d : BitVec 4) (a : Src) : Statement (.unsub d a) := by
  refine of_cat (w := pack 0x9C000080 [encFld d 22, encSrc a 18 16]) (ps := [(16, 0x80), (2, a.mode.toNat), (4, a.reg.toNat), (4, d.toNat), (6, 0x27)])
    ⟨by decide, a.mode.isLt, a.reg.isLt, d.isLt, by decide, trivial⟩ rfl ?_ (fun N F lt => ?_) rfl
  · rw [pack_cons, pack_cons, pack_nil, encFld_eq, encSrc_eq]; simp only [cat_cons, cat_nil]; omega
  rw [raw27 (major_of lt (F 4))]
  delta decodeMajor27
  have f0_16 : fld N 0 16 = 0x80 := F 0
  refine skip (fld_part 0 10 f0_16 (by decide)) (by decide) ?_
  refine skip (fld_part 0 10 f0_16 (by decide)) (by decide) ?_
  refine (if_neg (fun h => absurd ((fld_part 0 10 f0_16 (by decide)).symm.trans h.1) (by decide))).trans ?_
  refine skip (fld_part 0 10 f0_16 (by decide)) (by decide) ?_
  refine (if_pos f0_16).trans ?_
  rw [show bits N 22 4 = d from bits_eq (F 3)]
  rw [show (⟨bits N 18 4, bits N 16 2⟩ : Src) = a from src_eq (F 2) (F 1)]

theorem mcast (a : Src) (b : Src) : Statement (.mcast a b) := by
  refine of_cat (w := pack 0x9C0000A0 [encSrc a 18 16, encSrc b 12 10]) (ps := [(10, 0xA0), (2, b.mode.toNat), (4, b.reg.toNat), (2, a.mode.toNat), (4, a.reg.toNat), (10, 0x270)])
    ⟨by decide, b.mode.isLt, b.reg.isLt, a.mode.isLt, a.reg.isLt, by decide, trivial⟩ rfl ?_ (fun N F lt => ?_) rfl
  · rw [pack_cons, pack_cons, pack_nil, encSrc_eq, encSrc_eq]; simp only [cat_cons, cat_nil]; omega
  rw [raw27 (major_of lt (fld_part (n := N) (lo := 22) (w := 10) (v := 0x270) 4 6 (F 5) (by decide)))]
  delta decodeMajor27
  have f0_10 : fld N 0 10 = 0xA0 := F 0
  have f22_10 : fld N 22 10 = 0x270 := F 5
  refine skip f0_10 (by decide) ?_
  refine skip f0_10 (by decide) ?_
  refine (if_neg (fun h => absurd (f0_10.symm.trans h.1) (by decide))).trans ?_
  refine skip f0_10 (by decide) ?_
  refine (if_neg (fun h => absurd (f0_10.symm.trans (fld_part 0 10 h (by decide))) (by decide))).trans ?_
  refine (if_pos ⟨f0_10, f22_10⟩).trans ?_
  rw [show (⟨bits N 18 4, bits N 16 2⟩ : Src) = a from src_eq (F 4) (F 3)]
  rw [show (⟨bits N 12 4, bits N 10 2⟩ : Src) = b from src_eq (F 2) (F 1)]

theorem vadd (d : BitVec 5) (a : BitVec 5) (b : BitVec 5) (k : BitVec 3) (e : BitVec 3) : Statement (.vadd d a b k e) := by
  refine of_cat (w := pack 0xA0000000 [encFld d 21, encFld a 16, encFld b 11, encFld k 8, encFld e 0]) (ps := [(3, e.toNat), (5, 0x0), (3, k.toNat), (5, b.toNat), (5, a.toNat), (5, d.toNat), (6, 0x28)])
    ⟨e.isLt, by decide, k.isLt, b.isLt, a.isLt, d.isLt, by decide, trivial⟩ rfl ?_ (fun N F lt => ?_) rfl
  · rw [pack_cons, pack_cons, pack_cons, pack_cons, pack_cons, pack_nil, encFld_eq, encFld_eq, encFld_eq, encFld_eq, encFld_eq]; simp only [cat_cons, cat_nil]; omega
  rw [raw28 (major_of lt (F 6))]
  delta decodeMajor28
  have f3_5 : fld N 3 5 = 0x0 := F 1
  refine (if_pos f3_5).trans ?_
  rw [show bits N 21 5 = d from bits_eq (F 5)]
  rw [show bits N 16 5 = a from bits_eq (F 4)]
  rw [show bits N 11 5 = b from bits_eq (F 3)]
  rw [show bits N 8 3 = k from bits_eq (F 2)]
  rw [show bits N 0 3 = e from bits_eq (F 0)]

theorem vsub (d : BitVec 5) (a : BitVec 5) (b : BitVec 5) (k : BitVec 3) (e : BitVec 3) : Statement (.vsub d a b k e) := by
  refine of_cat (w := pack 0xA0000008 [encFld d 21, encFld a 16, encFld b 11, encFld k 8, encFld e 0]) (ps := [(3, e.toNat), (5, 0x1), (3, k.toNat), (5, b.toNat), (5, a.toNat), (5, d.toNat), (6, 0x28)])
    ⟨e.isLt, by decide, k.isLt, b.isLt, a.isLt, d.isLt, by decide, trivial⟩ rfl ?_ (fun N F lt => ?_) rfl
  · rw [pack_cons, pack_cons, pack_cons, pack_cons, pack_cons, pack_nil, encFld_eq, encFld_eq, encFld_eq, encFld_eq, encFld_eq]; simp only [cat_cons, cat_nil]; omega
  rw [raw28 (major_of lt (F 6))]
  delta decodeMajor28
  have f3_5 : fld N 3 5 = 0x1 := F 1
  refine skip f3_5 (by decide) ?_
  refine (if_pos f3_5).trans ?_
  rw [show bits N 21 5 = d from bits_eq (F 5)]
  rw [show bits N 16 5 = a from bits_eq (F 4)]
  rw [show bits N 11 5 = b from bits_eq (F 3)]
  rw [show bits N 8 3 = k from bits_eq (F 2)]
  rw [show bits N 0 3 = e from bits_eq (F 0)]

theorem vmul (d : BitVec 5) (a : BitVec 5) (b : BitVec 5) (k : BitVec 3) (e : BitVec 3) : Statement (.vmul d a b k e) := by
  refine of_cat (w := pack 0xA0000010 [encFld d 21, encFld a 16, encFld b 11, encFld k 8, encFld e 0]) (ps := [(3, e.toNat), (5, 0x2), (3, k.toNat), (5, b.toNat), (5, a.toNat), (5, d.toNat), (6, 0x28)])
    ⟨e.isLt, by decide, k.isLt, b.isLt, a.isLt, d.isLt, by decide, trivial⟩ rfl ?_ (fun N F lt => ?_) rfl
  · rw [pack_cons, pack_cons, pack_cons, pack_cons, pack_cons, pack_nil, encFld_eq, encFld_eq, encFld_eq, encFld_eq, encFld_eq]; simp only [cat_cons, cat_nil]; omega
  rw [raw28 (major_of lt (F 6))]
  delta decodeMajor28
  have f3_5 : fld N 3 5 = 0x2 := F 1
  refine skip f3_5 (by decide) ?_
  refine skip f3_5 (by decide) ?_
  refine (if_pos f3_5).trans ?_
  rw [show bits N 21 5 = d from bits_eq (F 5)]
  rw [show bits N 16 5 = a from bits_eq (F 4)]
  rw [show bits N 11 5 = b from bits_eq (F 3)]
  rw [show bits N 8 3 = k from bits_eq (F 2)]
  rw [show bits N 0 3 = e from bits_eq (F 0)]

theorem vdiv (d : BitVec 5) (a : BitVec 5) (b : BitVec 5) (k : BitVec 3) (e : BitVec 3) : Statement (.vdiv d a b k e) := by
  refine of_cat (w := pack 0xA0000018 [encFld d 21, encFld a 16, encFld b 11, encFld k 8, encFld e 0]) (ps := [(3, e.toNat), (5, 0x3), (3, k.toNat), (5, b.toNat), (5, a.toNat), (5, d.toNat), (6, 0x28)])
    ⟨e.isLt, by decide, k.isLt, b.isLt, a.isLt, d.isLt, by decide, trivial⟩ rfl ?_ (fun N F lt => ?_) rfl
  · rw [pack_cons, pack_cons, pack_cons, pack_cons, pack_cons, pack_nil, encFld_eq, encFld_eq, encFld_eq, encFld_eq, encFld_eq]; simp only [cat_cons, cat_nil]; omega
  rw [raw28 (major_of lt (F 6))]
  delta decodeMajor28
  have f3_5 : fld N 3 5 = 0x3 := F 1
  refine skip f3_5 (by decide) ?_
  refine skip f3_5 (by decide) ?_
  refine skip f3_5 (by decide) ?_
  refine (if_pos f3_5).trans ?_
  rw [show bits N 21 5 = d from bits_eq (F 5)]
  rw [show bits N 16 5 = a from bits_eq (F 4)]
  rw [show bits N 11 5 = b from bits_eq (F 3)]
  rw [show bits N 8 3 = k from bits_eq (F 2)]
  rw [show bits N 0 3 = e from bits_eq (F 0)]

theorem vmin (d : BitVec 5) (a : BitVec 5) (b : BitVec 5) (k : BitVec 3) (e : BitVec 3) : Statement (.vmin d a b k e) := by
  refine of_cat (w := pack 0xA0000020 [encFld d 21, encFld a 16, encFld b 11, encFld k 8, encFld e 0]) (ps := [(3, e.toNat), (5, 0x4), (3, k.toNat), (5, b.toNat), (5, a.toNat), (5, d.toNat), (6, 0x28)])
    ⟨e.isLt, by decide, k.isLt, b.isLt, a.isLt, d.isLt, by decide, trivial⟩ rfl ?_ (fun N F lt => ?_) rfl
  · rw [pack_cons, pack_cons, pack_cons, pack_cons, pack_cons, pack_nil, encFld_eq, encFld_eq, encFld_eq, encFld_eq, encFld_eq]; simp only [cat_cons, cat_nil]; omega
  rw [raw28 (major_of lt (F 6))]
  delta decodeMajor28
  have f3_5 : fld N 3 5 = 0x4 := F 1
  refine skip f3_5 (by decide) ?_
  refine skip f3_5 (by decide) ?_
  refine skip f3_5 (by decide) ?_
  refine skip f3_5 (by decide) ?_
  refine (if_pos f3_5).trans ?_
  rw [show bits N 21 5 = d from bits_eq (F 5)]
  rw [show bits N 16 5 = a from bits_eq (F 4)]
  rw [show bits N 11 5 = b from bits_eq (F 3)]
  rw [show bits N 8 3 = k from bits_eq (F 2)]
  rw [show bits N 0 3 = e from bits_eq (F 0)]

theorem vmax (d : BitVec 5) (a : BitVec 5) (b : BitVec 5) (k : BitVec 3) (e : BitVec 3) : Statement (.vmax d a b k e) := by
  refine of_cat (w := pack 0xA0000028 [encFld d 21, encFld a 16, encFld b 11, encFld k 8, encFld e 0]) (ps := [(3, e.toNat), (5, 0x5), (3, k.toNat), (5, b.toNat), (5, a.toNat), (5, d.toNat), (6, 0x28)])
    ⟨e.isLt, by decide, k.isLt, b.isLt, a.isLt, d.isLt, by decide, trivial⟩ rfl ?_ (fun N F lt => ?_) rfl
  · rw [pack_cons, pack_cons, pack_cons, pack_cons, pack_cons, pack_nil, encFld_eq, encFld_eq, encFld_eq, encFld_eq, encFld_eq]; simp only [cat_cons, cat_nil]; omega
  rw [raw28 (major_of lt (F 6))]
  delta decodeMajor28
  have f3_5 : fld N 3 5 = 0x5 := F 1
  refine skip f3_5 (by decide) ?_
  refine skip f3_5 (by decide) ?_
  refine skip f3_5 (by decide) ?_
  refine skip f3_5 (by decide) ?_
  refine skip f3_5 (by decide) ?_
  refine (if_pos f3_5).trans ?_
  rw [show bits N 21 5 = d from bits_eq (F 5)]
  rw [show bits N 16 5 = a from bits_eq (F 4)]
  rw [show bits N 11 5 = b from bits_eq (F 3)]
  rw [show bits N 8 3 = k from bits_eq (F 2)]
  rw [show bits N 0 3 = e from bits_eq (F 0)]

theorem vabs (d : BitVec 5) (a : BitVec 5) (k : BitVec 3) (e : BitVec 3) : Statement (.vabs d a k e) := by
  refine of_cat (w := pack 0xA0000030 [encFld d 21, encFld a 16, encFld k 8, encFld e 0]) (ps := [(3, e.toNat), (5, 0x6), (3, k.toNat), (5, 0x0), (5, a.toNat), (5, d.toNat), (6, 0x28)])
    ⟨e.isLt, by decide, k.isLt, by decide, a.isLt, d.isLt, by decide, trivial⟩ rfl ?_ (fun N F lt => ?_) rfl
  · rw [pack_cons, pack_cons, pack_cons, pack_cons, pack_nil, encFld_eq, encFld_eq, encFld_eq, encFld_eq]; simp only [cat_cons, cat_nil]; omega
  rw [raw28 (major_of lt (F 6))]
  delta decodeMajor28
  have f3_5 : fld N 3 5 = 0x6 := F 1
  have f11_5 : fld N 11 5 = 0x0 := F 3
  refine skip f3_5 (by decide) ?_
  refine skip f3_5 (by decide) ?_
  refine skip f3_5 (by decide) ?_
  refine skip f3_5 (by decide) ?_
  refine skip f3_5 (by decide) ?_
  refine skip f3_5 (by decide) ?_
  refine (if_pos ⟨f3_5, f11_5⟩).trans ?_
  rw [show bits N 21 5 = d from bits_eq (F 5)]
  rw [show bits N 16 5 = a from bits_eq (F 4)]
  rw [show bits N 8 3 = k from bits_eq (F 2)]
  rw [show bits N 0 3 = e from bits_eq (F 0)]

theorem vneg (d : BitVec 5) (a : BitVec 5) (k : BitVec 3) (e : BitVec 3) : Statement (.vneg d a k e) := by
  refine of_cat (w := pack 0xA0000038 [encFld d 21, encFld a 16, encFld k 8, encFld e 0]) (ps := [(3, e.toNat), (5, 0x7), (3, k.toNat), (5, 0x0), (5, a.toNat), (5, d.toNat), (6, 0x28)])
    ⟨e.isLt, by decide, k.isLt, by decide, a.isLt, d.isLt, by decide, trivial⟩ rfl ?_ (fun N F lt => ?_) rfl
  · rw [pack_cons, pack_cons, pack_cons, pack_cons, pack_nil, encFld_eq, encFld_eq, encFld_eq, encFld_eq]; simp only [cat_cons, cat_nil]; omega
  rw [raw28 (major_of lt (F 6))]
  delta decodeMajor28
  have f3_5 : fld N 3 5 = 0x7 := F 1
  have f11_5 : fld N 11 5 = 0x0 := F 3
  refine skip f3_5 (by decide) ?_
  refine skip f3_5 (by decide) ?_
  refine skip f3_5 (by decide) ?_
  refine skip f3_5 (by decide) ?_
  refine skip f3_5 (by decide) ?_
  refine skip f3_5 (by decide) ?_
  refine (if_neg (fun h => absurd (f3_5.symm.trans h.1) (by decide))).trans ?_
  refine (if_pos ⟨f3_5, f11_5⟩).trans ?_
  rw [show bits N 21 5 = d from bits_eq (F 5)]
  rw [show bits N 16 5 = a from bits_eq (F 4)]
  rw [show bits N 8 3 = k from bits_eq (F 2)]
  rw [show bits N 0 3 = e from bits_eq (F 0)]

theorem vsqrt (d : BitVec 5) (a : BitVec 5) (k : BitVec 3) (e : BitVec 3) : Statement (.vsqrt d a k e) := by
  refine of_cat (w := pack 0xA0000040 [encFld d 21, encFld a 16, encFld k 8, encFld e 0]) (ps := [(3, e.toNat), (5, 0x8), (3, k.toNat), (5, 0x0), (5, a.toNat), (5, d.toNat), (6, 0x28)])
    ⟨e.isLt, by decide, k.isLt, by decide, a.isLt, d.isLt, by decide, trivial⟩ rfl ?_ (fun N F lt => ?_) rfl
  · rw [pack_cons, pack_cons, pack_cons, pack_cons, pack_nil, encFld_eq, encFld_eq, encFld_eq, encFld_eq]; simp only [cat_cons, cat_nil]; omega
  rw [raw28 (major_of lt (F 6))]
  delta decodeMajor28
  have f3_5 : fld N 3 5 = 0x8 := F 1
  have f11_5 : fld N 11 5 = 0x0 := F 3
  refine skip f3_5 (by decide) ?_
  refine skip f3_5 (by decide) ?_
  refine skip f3_5 (by decide) ?_
  refine skip f3_5 (by decide) ?_
  refine skip f3_5 (by decide) ?_
  refine skip f3_5 (by decide) ?_
  refine (if_neg (fun h => absurd (f3_5.symm.trans h.1) (by decide))).trans ?_
  refine (if_neg (fun h => absurd (f3_5.symm.trans h.1) (by decide))).trans ?_
  refine (if_pos ⟨f3_5, f11_5⟩).trans ?_
  rw [show bits N 21 5 = d from bits_eq (F 5)]
  rw [show bits N 16 5 = a from bits_eq (F 4)]
  rw [show bits N 8 3 = k from bits_eq (F 2)]
  rw [show bits N 0 3 = e from bits_eq (F 0)]

theorem vrsq (d : BitVec 5) (a : BitVec 5) (k : BitVec 3) : Statement (.vrsq d a k) := by
  refine of_cat (w := pack 0xA000004C [encFld d 21, encFld a 16, encFld k 8]) (ps := [(8, 0x4C), (3, k.toNat), (5, 0x0), (5, a.toNat), (5, d.toNat), (6, 0x28)])
    ⟨by decide, k.isLt, by decide, a.isLt, d.isLt, by decide, trivial⟩ rfl ?_ (fun N F lt => ?_) rfl
  · rw [pack_cons, pack_cons, pack_cons, pack_nil, encFld_eq, encFld_eq, encFld_eq]; simp only [cat_cons, cat_nil]; omega
  rw [raw28 (major_of lt (F 5))]
  delta decodeMajor28
  have f0_8 : fld N 0 8 = 0x4C := F 0
  have f11_5 : fld N 11 5 = 0x0 := F 2
  refine skip (fld_part 3 5 f0_8 (by decide)) (by decide) ?_
  refine skip (fld_part 3 5 f0_8 (by decide)) (by decide) ?_
  refine skip (fld_part 3 5 f0_8 (by decide)) (by decide) ?_
  refine skip (fld_part 3 5 f0_8 (by decide)) (by decide) ?_
  refine skip (fld_part 3 5 f0_8 (by decide)) (by decide) ?_
  refine skip (fld_part 3 5 f0_8 (by decide)) (by decide) ?_
  refine (if_neg (fun h => absurd ((fld_part 3 5 f0_8 (by decide)).symm.trans h.1) (by decide))).trans ?_
  refine (if_neg (fun h => absurd ((fld_part 3 5 f0_8 (by decide)).symm.trans h.1) (by decide))).trans ?_
  refine (if_neg (fun h => absurd ((fld_part 3 5 f0_8 (by decide)).symm.trans h.1) (by decide))).trans ?_
  refine (if_pos ⟨f0_8, f11_5⟩).trans ?_
  rw [show bits N 21 5 = d from bits_eq (F 4)]
  rw [show bits N 16 5 = a from bits_eq (F 3)]
  rw [show bits N 8 3 = k from bits_eq (F 1)]

theorem vexp2 (d : BitVec 5) (a : BitVec 5) (k : BitVec 3) : Statement (.vexp2 d a k) := by
  refine of_cat (w := pack 0xA0000054 [encFld d 21, encFld a 16, encFld k 8]) (ps := [(8, 0x54), (3, k.toNat), (5, 0x0), (5, a.toNat), (5, d.toNat), (6, 0x28)])
    ⟨by decide, k.isLt, by decide, a.isLt, d.isLt, by decide, trivial⟩ rfl ?_ (fun N F lt => ?_) rfl
  · rw [pack_cons, pack_cons, pack_cons, pack_nil, encFld_eq, encFld_eq, encFld_eq]; simp only [cat_cons, cat_nil]; omega
  rw [raw28 (major_of lt (F 5))]
  delta decodeMajor28
  have f0_8 : fld N 0 8 = 0x54 := F 0
  have f11_5 : fld N 11 5 = 0x0 := F 2
  refine skip (fld_part 3 5 f0_8 (by decide)) (by decide) ?_
  refine skip (fld_part 3 5 f0_8 (by decide)) (by decide) ?_
  refine skip (fld_part 3 5 f0_8 (by decide)) (by decide) ?_
  refine skip (fld_part 3 5 f0_8 (by decide)) (by decide) ?_
  refine skip (fld_part 3 5 f0_8 (by decide)) (by decide) ?_
  refine skip (fld_part 3 5 f0_8 (by decide)) (by decide) ?_
  refine (if_neg (fun h => absurd ((fld_part 3 5 f0_8 (by decide)).symm.trans h.1) (by decide))).trans ?_
  refine (if_neg (fun h => absurd ((fld_part 3 5 f0_8 (by decide)).symm.trans h.1) (by decide))).trans ?_
  refine (if_neg (fun h => absurd ((fld_part 3 5 f0_8 (by decide)).symm.trans h.1) (by decide))).trans ?_
  refine (if_neg (fun h => absurd (f0_8.symm.trans h.1) (by decide))).trans ?_
  refine (if_pos ⟨f0_8, f11_5⟩).trans ?_
  rw [show bits N 21 5 = d from bits_eq (F 4)]
  rw [show bits N 16 5 = a from bits_eq (F 3)]
  rw [show bits N 8 3 = k from bits_eq (F 1)]

theorem vlog2 (d : BitVec 5) (a : BitVec 5) (k : BitVec 3) : Statement (.vlog2 d a k) := by
  refine of_cat (w := pack 0xA000005C [encFld d 21, encFld a 16, encFld k 8]) (ps := [(8, 0x5C), (3, k.toNat), (5, 0x0), (5, a.toNat), (5, d.toNat), (6, 0x28)])
    ⟨by decide, k.isLt, by decide, a.isLt, d.isLt, by decide, trivial⟩ rfl ?_ (fun N F lt => ?_) rfl
  · rw [pack_cons, pack_cons, pack_cons, pack_nil, encFld_eq, encFld_eq, encFld_eq]; simp only [cat_cons, cat_nil]; omega
  rw [raw28 (major_of lt (F 5))]
  delta decodeMajor28
  have f0_8 : fld N 0 8 = 0x5C := F 0
  have f11_5 : fld N 11 5 = 0x0 := F 2
  refine skip (fld_part 3 5 f0_8 (by decide)) (by decide) ?_
  refine skip (fld_part 3 5 f0_8 (by decide)) (by decide) ?_
  refine skip (fld_part 3 5 f0_8 (by decide)) (by decide) ?_
  refine skip (fld_part 3 5 f0_8 (by decide)) (by decide) ?_
  refine skip (fld_part 3 5 f0_8 (by decide)) (by decide) ?_
  refine skip (fld_part 3 5 f0_8 (by decide)) (by decide) ?_
  refine (if_neg (fun h => absurd ((fld_part 3 5 f0_8 (by decide)).symm.trans h.1) (by decide))).trans ?_
  refine (if_neg (fun h => absurd ((fld_part 3 5 f0_8 (by decide)).symm.trans h.1) (by decide))).trans ?_
  refine (if_neg (fun h => absurd ((fld_part 3 5 f0_8 (by decide)).symm.trans h.1) (by decide))).trans ?_
  refine (if_neg (fun h => absurd (f0_8.symm.trans h.1) (by decide))).trans ?_
  refine (if_neg (fun h => absurd (f0_8.symm.trans h.1) (by decide))).trans ?_
  refine (if_pos ⟨f0_8, f11_5⟩).trans ?_
  rw [show bits N 21 5 = d from bits_eq (F 4)]
  rw [show bits N 16 5 = a from bits_eq (F 3)]
  rw [show bits N 8 3 = k from bits_eq (F 1)]

theorem vcmul (d : BitVec 5) (a : BitVec 5) (b : BitVec 5) (k : BitVec 3) : Statement (.vcmul d a b k) := by
  refine of_cat (w := pack 0xA0000064 [encFld d 21, encFld a 16, encFld b 11, encFld k 8]) (ps := [(8, 0x64), (3, k.toNat), (5, b.toNat), (5, a.toNat), (5, d.toNat), (6, 0x28)])
    ⟨by decide, k.isLt, b.isLt, a.isLt, d.isLt, by decide, trivial⟩ rfl ?_ (fun N F lt => ?_) rfl
  · rw [pack_cons, pack_cons, pack_cons, pack_cons, pack_nil, encFld_eq, encFld_eq, encFld_eq, encFld_eq]; simp only [cat_cons, cat_nil]; omega
  rw [raw28 (major_of lt (F 5))]
  delta decodeMajor28
  have f0_8 : fld N 0 8 = 0x64 := F 0
  refine skip (fld_part 3 5 f0_8 (by decide)) (by decide) ?_
  refine skip (fld_part 3 5 f0_8 (by decide)) (by decide) ?_
  refine skip (fld_part 3 5 f0_8 (by decide)) (by decide) ?_
  refine skip (fld_part 3 5 f0_8 (by decide)) (by decide) ?_
  refine skip (fld_part 3 5 f0_8 (by decide)) (by decide) ?_
  refine skip (fld_part 3 5 f0_8 (by decide)) (by decide) ?_
  refine (if_neg (fun h => absurd ((fld_part 3 5 f0_8 (by decide)).symm.trans h.1) (by decide))).trans ?_
  refine (if_neg (fun h => absurd ((fld_part 3 5 f0_8 (by decide)).symm.trans h.1) (by decide))).trans ?_
  refine (if_neg (fun h => absurd ((fld_part 3 5 f0_8 (by decide)).symm.trans h.1) (by decide))).trans ?_
  refine (if_neg (fun h => absurd (f0_8.symm.trans h.1) (by decide))).trans ?_
  refine (if_neg (fun h => absurd (f0_8.symm.trans h.1) (by decide))).trans ?_
  refine (if_neg (fun h => absurd (f0_8.symm.trans h.1) (by decide))).trans ?_
  refine (if_pos f0_8).trans ?_
  rw [show bits N 21 5 = d from bits_eq (F 4)]
  rw [show bits N 16 5 = a from bits_eq (F 3)]
  rw [show bits N 11 5 = b from bits_eq (F 2)]
  rw [show bits N 8 3 = k from bits_eq (F 1)]

theorem vand (d : BitVec 5) (a : BitVec 5) (b : BitVec 5) (k : BitVec 3) (e : BitVec 3) : Statement (.vand d a b k e) := by
  refine of_cat (w := pack 0xA0000068 [encFld d 21, encFld a 16, encFld b 11, encFld k 8, encFld e 0]) (ps := [(3, e.toNat), (5, 0xD), (3, k.toNat), (5, b.toNat), (5, a.toNat), (5, d.toNat), (6, 0x28)])
    ⟨e.isLt, by decide, k.isLt, b.isLt, a.isLt, d.isLt, by decide, trivial⟩ rfl ?_ (fun N F lt => ?_) rfl
  · rw [pack_cons, pack_cons, pack_cons, pack_cons, pack_cons, pack_nil, encFld_eq, encFld_eq, encFld_eq, encFld_eq, encFld_eq]; simp only [cat_cons, cat_nil]; omega
  rw [raw28 (major_of lt (F 6))]
  delta decodeMajor28
  have f3_5 : fld N 3 5 = 0xD := F 1
  refine skip f3_5 (by decide) ?_
  refine skip f3_5 (by decide) ?_
  refine skip f3_5 (by decide) ?_
  refine skip f3_5 (by decide) ?_
  refine skip f3_5 (by decide) ?_
  refine skip f3_5 (by decide) ?_
  refine (if_neg (fun h => absurd (f3_5.symm.trans h.1) (by decide))).trans ?_
  refine (if_neg (fun h => absurd (f3_5.symm.trans h.1) (by decide))).trans ?_
  refine (if_neg (fun h => absurd (f3_5.symm.trans h.1) (by decide))).trans ?_
  refine (if_neg (fun h => absurd (f3_5.symm.trans (fld_part 3 5 h.1 (by decide))) (by decide))).trans ?_
  refine (if_neg (fun h => absurd (f3_5.symm.trans (fld_part 3 5 h.1 (by decide))) (by decide))).trans ?_
  refine (if_neg (fun h => absurd (f3_5.symm.trans (fld_part 3 5 h.1 (by decide))) (by decide))).trans ?_
  refine (if_neg (fun h => absurd (f3_5.symm.trans (fld_part 3 5 h (by decide))) (by decide))).trans ?_
  refine (if_pos f3_5).trans ?_
  rw [show bits N 21 5 = d from bits_eq (F 5)]
  rw [show bits N 16 5 = a from bits_eq (F 4)]
  rw [show bits N 11 5 = b from bits_eq (F 3)]
  rw [show bits N 8 3 = k from bits_eq (F 2)]
  rw [show bits N 0 3 = e from bits_eq (F 0)]

theorem vor (d : BitVec 5) (a : BitVec 5) (b : BitVec 5) (k : BitVec 3) (e : BitVec 3) : Statement (.vor d a b k e) := by
  refine of_cat (w := pack 0xA0000070 [encFld d 21, encFld a 16, encFld b 11, encFld k 8, encFld e 0]) (ps := [(3, e.toNat), (5, 0xE), (3, k.toNat), (5, b.toNat), (5, a.toNat), (5, d.toNat), (6, 0x28)])
    ⟨e.isLt, by decide, k.isLt, b.isLt, a.isLt, d.isLt, by decide, trivial⟩ rfl ?_ (fun N F lt => ?_) rfl
  · rw [pack_cons, pack_cons, pack_cons, pack_cons, pack_cons, pack_nil, encFld_eq, encFld_eq, encFld_eq, encFld_eq, encFld_eq]; simp only [cat_cons, cat_nil]; omega
  rw [raw28 (major_of lt (F 6))]
  delta decodeMajor28
  have f3_5 : fld N 3 5 = 0xE := F 1
  refine skip f3_5 (by decide) ?_
  refine skip f3_5 (by decide) ?_
  refine skip f3_5 (by decide) ?_
  refine skip f3_5 (by decide) ?_
  refine skip f3_5 (by decide) ?_
  refine skip f3_5 (by decide) ?_
  refine (if_neg (fun h => absurd (f3_5.symm.trans h.1) (by decide))).trans ?_
  refine (if_neg (fun h => absurd (f3_5.symm.trans h.1) (by decide))).trans ?_
  refine (if_neg (fun h => absurd (f3_5.symm.trans h.1) (by decide))).trans ?_
  refine (if_neg (fun h => absurd (f3_5.symm.trans (fld_part 3 5 h.1 (by decide))) (by decide))).trans ?_
  refine (if_neg (fun h => absurd (f3_5.symm.trans (fld_part 3 5 h.1 (by decide))) (by decide))).trans ?_
  refine (if_neg (fun h => absurd (f3_5.symm.trans (fld_part 3 5 h.1 (by decide))) (by decide))).trans ?_
  refine (if_neg (fun h => absurd (f3_5.symm.trans (fld_part 3 5 h (by decide))) (by decide))).trans ?_
  refine skip f3_5 (by decide) ?_
  refine (if_pos f3_5).trans ?_
  rw [show bits N 21 5 = d from bits_eq (F 5)]
  rw [show bits N 16 5 = a from bits_eq (F 4)]
  rw [show bits N 11 5 = b from bits_eq (F 3)]
  rw [show bits N 8 3 = k from bits_eq (F 2)]
  rw [show bits N 0 3 = e from bits_eq (F 0)]

theorem vxor (d : BitVec 5) (a : BitVec 5) (b : BitVec 5) (k : BitVec 3) (e : BitVec 3) : Statement (.vxor d a b k e) := by
  refine of_cat (w := pack 0xA0000078 [encFld d 21, encFld a 16, encFld b 11, encFld k 8, encFld e 0]) (ps := [(3, e.toNat), (5, 0xF), (3, k.toNat), (5, b.toNat), (5, a.toNat), (5, d.toNat), (6, 0x28)])
    ⟨e.isLt, by decide, k.isLt, b.isLt, a.isLt, d.isLt, by decide, trivial⟩ rfl ?_ (fun N F lt => ?_) rfl
  · rw [pack_cons, pack_cons, pack_cons, pack_cons, pack_cons, pack_nil, encFld_eq, encFld_eq, encFld_eq, encFld_eq, encFld_eq]; simp only [cat_cons, cat_nil]; omega
  rw [raw28 (major_of lt (F 6))]
  delta decodeMajor28
  have f3_5 : fld N 3 5 = 0xF := F 1
  refine skip f3_5 (by decide) ?_
  refine skip f3_5 (by decide) ?_
  refine skip f3_5 (by decide) ?_
  refine skip f3_5 (by decide) ?_
  refine skip f3_5 (by decide) ?_
  refine skip f3_5 (by decide) ?_
  refine (if_neg (fun h => absurd (f3_5.symm.trans h.1) (by decide))).trans ?_
  refine (if_neg (fun h => absurd (f3_5.symm.trans h.1) (by decide))).trans ?_
  refine (if_neg (fun h => absurd (f3_5.symm.trans h.1) (by decide))).trans ?_
  refine (if_neg (fun h => absurd (f3_5.symm.trans (fld_part 3 5 h.1 (by decide))) (by decide))).trans ?_
  refine (if_neg (fun h => absurd (f3_5.symm.trans (fld_part 3 5 h.1 (by decide))) (by decide))).trans ?_
  refine (if_neg (fun h => absurd (f3_5.symm.trans (fld_part 3 5 h.1 (by decide))) (by decide))).trans ?_
  refine (if_neg (fun h => absurd (f3_5.symm.trans (fld_part 3 5 h (by decide))) (by decide))).trans ?_
  refine skip f3_5 (by decide) ?_
  refine skip f3_5 (by decide) ?_
  refine (if_pos f3_5).trans ?_
  rw [show bits N 21 5 = d from bits_eq (F 5)]
  rw [show bits N 16 5 = a from bits_eq (F 4)]
  rw [show bits N 11 5 = b from bits_eq (F 3)]
  rw [show bits N 8 3 = k from bits_eq (F 2)]
  rw [show bits N 0 3 = e from bits_eq (F 0)]

theorem vshl (d : BitVec 5) (a : BitVec 5) (b : BitVec 5) (k : BitVec 3) (e : BitVec 3) : Statement (.vshl d a b k e) := by
  refine of_cat (w := pack 0xA0000080 [encFld d 21, encFld a 16, encFld b 11, encFld k 8, encFld e 0]) (ps := [(3, e.toNat), (5, 0x10), (3, k.toNat), (5, b.toNat), (5, a.toNat), (5, d.toNat), (6, 0x28)])
    ⟨e.isLt, by decide, k.isLt, b.isLt, a.isLt, d.isLt, by decide, trivial⟩ rfl ?_ (fun N F lt => ?_) rfl
  · rw [pack_cons, pack_cons, pack_cons, pack_cons, pack_cons, pack_nil, encFld_eq, encFld_eq, encFld_eq, encFld_eq, encFld_eq]; simp only [cat_cons, cat_nil]; omega
  rw [raw28 (major_of lt (F 6))]
  delta decodeMajor28
  have f3_5 : fld N 3 5 = 0x10 := F 1
  refine skip f3_5 (by decide) ?_
  refine skip f3_5 (by decide) ?_
  refine skip f3_5 (by decide) ?_
  refine skip f3_5 (by decide) ?_
  refine skip f3_5 (by decide) ?_
  refine skip f3_5 (by decide) ?_
  refine (if_neg (fun h => absurd (f3_5.symm.trans h.1) (by decide))).trans ?_
  refine (if_neg (fun h => absurd (f3_5.symm.trans h.1) (by decide))).trans ?_
  refine (if_neg (fun h => absurd (f3_5.symm.trans h.1) (by decide))).trans ?_
  refine (if_neg (fun h => absurd (f3_5.symm.trans (fld_part 3 5 h.1 (by decide))) (by decide))).trans ?_
  refine (if_neg (fun h => absurd (f3_5.symm.trans (fld_part 3 5 h.1 (by decide))) (by decide))).trans ?_
  refine (if_neg (fun h => absurd (f3_5.symm.trans (fld_part 3 5 h.1 (by decide))) (by decide))).trans ?_
  refine (if_neg (fun h => absurd (f3_5.symm.trans (fld_part 3 5 h (by decide))) (by decide))).trans ?_
  refine skip f3_5 (by decide) ?_
  refine skip f3_5 (by decide) ?_
  refine skip f3_5 (by decide) ?_
  refine (if_pos f3_5).trans ?_
  rw [show bits N 21 5 = d from bits_eq (F 5)]
  rw [show bits N 16 5 = a from bits_eq (F 4)]
  rw [show bits N 11 5 = b from bits_eq (F 3)]
  rw [show bits N 8 3 = k from bits_eq (F 2)]
  rw [show bits N 0 3 = e from bits_eq (F 0)]

theorem vshr (d : BitVec 5) (a : BitVec 5) (b : BitVec 5) (k : BitVec 3) (e : BitVec 3) : Statement (.vshr d a b k e) := by
  refine of_cat (w := pack 0xA0000088 [encFld d 21, encFld a 16, encFld b 11, encFld k 8, encFld e 0]) (ps := [(3, e.toNat), (5, 0x11), (3, k.toNat), (5, b.toNat), (5, a.toNat), (5, d.toNat), (6, 0x28)])
    ⟨e.isLt, by decide, k.isLt, b.isLt, a.isLt, d.isLt, by decide, trivial⟩ rfl ?_ (fun N F lt => ?_) rfl
  · rw [pack_cons, pack_cons, pack_cons, pack_cons, pack_cons, pack_nil, encFld_eq, encFld_eq, encFld_eq, encFld_eq, encFld_eq]; simp only [cat_cons, cat_nil]; omega
  rw [raw28 (major_of lt (F 6))]
  delta decodeMajor28
  have f3_5 : fld N 3 5 = 0x11 := F 1
  refine skip f3_5 (by decide) ?_
  refine skip f3_5 (by decide) ?_
  refine skip f3_5 (by decide) ?_
  refine skip f3_5 (by decide) ?_
  refine skip f3_5 (by decide) ?_
  refine skip f3_5 (by decide) ?_
  refine (if_neg (fun h => absurd (f3_5.symm.trans h.1) (by decide))).trans ?_
  refine (if_neg (fun h => absurd (f3_5.symm.trans h.1) (by decide))).trans ?_
  refine (if_neg (fun h => absurd (f3_5.symm.trans h.1) (by decide))).trans ?_
  refine (if_neg (fun h => absurd (f3_5.symm.trans (fld_part 3 5 h.1 (by decide))) (by decide))).trans ?_
  refine (if_neg (fun h => absurd (f3_5.symm.trans (fld_part 3 5 h.1 (by decide))) (by decide))).trans ?_
  refine (if_neg (fun h => absurd (f3_5.symm.trans (fld_part 3 5 h.1 (by decide))) (by decide))).trans ?_
  refine (if_neg (fun h => absurd (f3_5.symm.trans (fld_part 3 5 h (by decide))) (by decide))).trans ?_
  refine skip f3_5 (by decide) ?_
  refine skip f3_5 (by decide) ?_
  refine skip f3_5 (by decide) ?_
  refine skip f3_5 (by decide) ?_
  refine (if_pos f3_5).trans ?_
  rw [show bits N 21 5 = d from bits_eq (F 5)]
  rw [show bits N 16 5 = a from bits_eq (F 4)]
  rw [show bits N 11 5 = b from bits_eq (F 3)]
  rw [show bits N 8 3 = k from bits_eq (F 2)]
  rw [show bits N 0 3 = e from bits_eq (F 0)]

theorem vsra (d : BitVec 5) (a : BitVec 5) (b : BitVec 5) (k : BitVec 3) (e : BitVec 3) : Statement (.vsra d a b k e) := by
  refine of_cat (w := pack 0xA0000090 [encFld d 21, encFld a 16, encFld b 11, encFld k 8, encFld e 0]) (ps := [(3, e.toNat), (5, 0x12), (3, k.toNat), (5, b.toNat), (5, a.toNat), (5, d.toNat), (6, 0x28)])
    ⟨e.isLt, by decide, k.isLt, b.isLt, a.isLt, d.isLt, by decide, trivial⟩ rfl ?_ (fun N F lt => ?_) rfl
  · rw [pack_cons, pack_cons, pack_cons, pack_cons, pack_cons, pack_nil, encFld_eq, encFld_eq, encFld_eq, encFld_eq, encFld_eq]; simp only [cat_cons, cat_nil]; omega
  rw [raw28 (major_of lt (F 6))]
  delta decodeMajor28
  have f3_5 : fld N 3 5 = 0x12 := F 1
  refine skip f3_5 (by decide) ?_
  refine skip f3_5 (by decide) ?_
  refine skip f3_5 (by decide) ?_
  refine skip f3_5 (by decide) ?_
  refine skip f3_5 (by decide) ?_
  refine skip f3_5 (by decide) ?_
  refine (if_neg (fun h => absurd (f3_5.symm.trans h.1) (by decide))).trans ?_
  refine (if_neg (fun h => absurd (f3_5.symm.trans h.1) (by decide))).trans ?_
  refine (if_neg (fun h => absurd (f3_5.symm.trans h.1) (by decide))).trans ?_
  refine (if_neg (fun h => absurd (f3_5.symm.trans (fld_part 3 5 h.1 (by decide))) (by decide))).trans ?_
  refine (if_neg (fun h => absurd (f3_5.symm.trans (fld_part 3 5 h.1 (by decide))) (by decide))).trans ?_
  refine (if_neg (fun h => absurd (f3_5.symm.trans (fld_part 3 5 h.1 (by decide))) (by decide))).trans ?_
  refine (if_neg (fun h => absurd (f3_5.symm.trans (fld_part 3 5 h (by decide))) (by decide))).trans ?_
  refine skip f3_5 (by decide) ?_
  refine skip f3_5 (by decide) ?_
  refine skip f3_5 (by decide) ?_
  refine skip f3_5 (by decide) ?_
  refine skip f3_5 (by decide) ?_
  refine (if_pos f3_5).trans ?_
  rw [show bits N 21 5 = d from bits_eq (F 5)]
  rw [show bits N 16 5 = a from bits_eq (F 4)]
  rw [show bits N 11 5 = b from bits_eq (F 3)]
  rw [show bits N 8 3 = k from bits_eq (F 2)]
  rw [show bits N 0 3 = e from bits_eq (F 0)]

theorem vfma (d : BitVec 5) (a : BitVec 5) (b : BitVec 5) (k : BitVec 3) (e : BitVec 3) : Statement (.vfma d a b k e) := by
  refine of_cat (w := pack 0xA4000000 [encFld d 21, encFld a 16, encFld b 11, encFld k 8, encFld e 0]) (ps := [(3, e.toNat), (5, 0x0), (3, k.toNat), (5, b.toNat), (5, a.toNat), (5, d.toNat), (6, 0x29)])
    ⟨e.isLt, by decide, k.isLt, b.isLt, a.isLt, d.isLt, by decide, trivial⟩ rfl ?_ (fun N F lt => ?_) rfl
  · rw [pack_cons, pack_cons, pack_cons, pack_cons, pack_cons, pack_nil, encFld_eq, encFld_eq, encFld_eq, encFld_eq, encFld_eq]; simp only [cat_cons, cat_nil]; omega
  rw [raw29 (major_of lt (F 6))]
  delta decodeMajor29
  have f3_5 : fld N 3 5 = 0x0 := F 1
  refine (if_pos f3_5).trans ?_
  rw [show bits N 21 5 = d from bits_eq (F 5)]
  rw [show bits N 16 5 = a from bits_eq (F 4)]
  rw [show bits N 11 5 = b from bits_eq (F 3)]
  rw [show bits N 8 3 = k from bits_eq (F 2)]
  rw [show bits N 0 3 = e from bits_eq (F 0)]

theorem vfms (d : BitVec 5) (a : BitVec 5) (b : BitVec 5) (k : BitVec 3) (e : BitVec 3) : Statement (.vfms d a b k e) := by
  refine of_cat (w := pack 0xA4000008 [encFld d 21, encFld a 16, encFld b 11, encFld k 8, encFld e 0]) (ps := [(3, e.toNat), (5, 0x1), (3, k.toNat), (5, b.toNat), (5, a.toNat), (5, d.toNat), (6, 0x29)])
    ⟨e.isLt, by decide, k.isLt, b.isLt, a.isLt, d.isLt, by decide, trivial⟩ rfl ?_ (fun N F lt => ?_) rfl
  · rw [pack_cons, pack_cons, pack_cons, pack_cons, pack_cons, pack_nil, encFld_eq, encFld_eq, encFld_eq, encFld_eq, encFld_eq]; simp only [cat_cons, cat_nil]; omega
  rw [raw29 (major_of lt (F 6))]
  delta decodeMajor29
  have f3_5 : fld N 3 5 = 0x1 := F 1
  refine skip f3_5 (by decide) ?_
  refine (if_pos f3_5).trans ?_
  rw [show bits N 21 5 = d from bits_eq (F 5)]
  rw [show bits N 16 5 = a from bits_eq (F 4)]
  rw [show bits N 11 5 = b from bits_eq (F 3)]
  rw [show bits N 8 3 = k from bits_eq (F 2)]
  rw [show bits N 0 3 = e from bits_eq (F 0)]

theorem vcmp (c : BitVec 2) (d : BitVec 3) (a : BitVec 5) (b : BitVec 5) (k : BitVec 3) (e : BitVec 3) : Statement (.vcmp c d a b k e) := by
  refine of_cat (w := pack 0xA8000000 [encFld c 24, encFld d 21, encFld a 16, encFld b 11, encFld k 8, encFld e 0]) (ps := [(3, e.toNat), (5, 0x0), (3, k.toNat), (5, b.toNat), (5, a.toNat), (3, d.toNat), (2, c.toNat), (6, 0x2A)])
    ⟨e.isLt, by decide, k.isLt, b.isLt, a.isLt, d.isLt, c.isLt, by decide, trivial⟩ rfl ?_ (fun N F lt => ?_) rfl
  · rw [pack_cons, pack_cons, pack_cons, pack_cons, pack_cons, pack_cons, pack_nil, encFld_eq, encFld_eq, encFld_eq, encFld_eq, encFld_eq, encFld_eq]; simp only [cat_cons, cat_nil]; omega
  rw [raw2A (major_of lt (F 7))]
  delta decodeMajor2A
  have f3_5 : fld N 3 5 = 0x0 := F 1
  refine (if_pos f3_5).trans ?_
  rw [show bits N 24 2 = c from bits_eq (F 6)]
  rw [show bits N 21 3 = d from bits_eq (F 5)]
  rw [show bits N 16 5 = a from bits_eq (F 4)]
  rw [show bits N 11 5 = b from bits_eq (F 3)]
  rw [show bits N 8 3 = k from bits_eq (F 2)]
  rw [show bits N 0 3 = e from bits_eq (F 0)]

theorem vsel (d : BitVec 5) (a : BitVec 5) (b : BitVec 5) (k : BitVec 3) (e : BitVec 3) : Statement (.vsel d a b k e) := by
  refine of_cat (w := pack 0xA8000008 [encFld d 21, encFld a 16, encFld b 11, encFld k 8, encFld e 0]) (ps := [(3, e.toNat), (5, 0x1), (3, k.toNat), (5, b.toNat), (5, a.toNat), (5, d.toNat), (6, 0x2A)])
    ⟨e.isLt, by decide, k.isLt, b.isLt, a.isLt, d.isLt, by decide, trivial⟩ rfl ?_ (fun N F lt => ?_) rfl
  · rw [pack_cons, pack_cons, pack_cons, pack_cons, pack_cons, pack_nil, encFld_eq, encFld_eq, encFld_eq, encFld_eq, encFld_eq]; simp only [cat_cons, cat_nil]; omega
  rw [raw2A (major_of lt (F 6))]
  delta decodeMajor2A
  have f3_5 : fld N 3 5 = 0x1 := F 1
  refine skip f3_5 (by decide) ?_
  refine (if_pos f3_5).trans ?_
  rw [show bits N 21 5 = d from bits_eq (F 5)]
  rw [show bits N 16 5 = a from bits_eq (F 4)]
  rw [show bits N 11 5 = b from bits_eq (F 3)]
  rw [show bits N 8 3 = k from bits_eq (F 2)]
  rw [show bits N 0 3 = e from bits_eq (F 0)]

theorem mset (d : BitVec 3) (a : BitVec 4) : Statement (.mset d a) := by
  refine of_cat (w := pack 0xA8000010 [encFld d 21, encFld a 16]) (ps := [(16, 0x10), (4, a.toNat), (1, 0x0), (3, d.toNat), (8, 0xA8)])
    ⟨by decide, a.isLt, by decide, d.isLt, by decide, trivial⟩ rfl ?_ (fun N F lt => ?_) rfl
  · rw [pack_cons, pack_cons, pack_nil, encFld_eq, encFld_eq]; simp only [cat_cons, cat_nil]; omega
  rw [raw2A (major_of lt (fld_part (n := N) (lo := 24) (w := 8) (v := 0xA8) 2 6 (F 4) (by decide)))]
  delta decodeMajor2A
  have f0_16 : fld N 0 16 = 0x10 := F 0
  have f20_1 : fld N 20 1 = 0x0 := F 2
  have f24_8 : fld N 24 8 = 0xA8 := F 4
  refine skip (fld_part 3 5 f0_16 (by decide)) (by decide) ?_
  refine skip (fld_part 3 5 f0_16 (by decide)) (by decide) ?_
  refine (if_pos ⟨f0_16, f20_1, f24_8⟩).trans ?_
  rw [show bits N 21 3 = d from bits_eq (F 3)]
  rw [show bits N 16 4 = a from bits_eq (F 1)]

theorem msetR (d : BitVec 4) (a : BitVec 3) : Statement (.msetR d a) := by
  refine of_cat (w := pack 0xA8000810 [encFld d 21, encFld a 16]) (ps := [(16, 0x810), (3, a.toNat), (2, 0x0), (4, d.toNat), (7, 0x54)])
    ⟨by decide, a.isLt, by decide, d.isLt, by decide, trivial⟩ rfl ?_ (fun N F lt => ?_) rfl
  · rw [pack_cons, pack_cons, pack_nil, encFld_eq, encFld_eq]; simp only [cat_cons, cat_nil]; omega
  rw [raw2A (major_of lt (fld_part (n := N) (lo := 25) (w := 7) (v := 0x54) 1 6 (F 4) (by decide)))]
  delta decodeMajor2A
  have f0_16 : fld N 0 16 = 0x810 := F 0
  have f19_2 : fld N 19 2 = 0x0 := F 2
  have f25_7 : fld N 25 7 = 0x54 := F 4
  refine skip (fld_part 3 5 f0_16 (by decide)) (by decide) ?_
  refine skip (fld_part 3 5 f0_16 (by decide)) (by decide) ?_
  refine (if_neg (fun h => absurd (f0_16.symm.trans h.1) (by decide))).trans ?_
  refine (if_pos ⟨f0_16, f19_2, f25_7⟩).trans ?_
  rw [show bits N 21 4 = d from bits_eq (F 3)]
  rw [show bits N 16 3 = a from bits_eq (F 1)]

theorem mand (d : BitVec 3) (a : BitVec 3) (b : BitVec 3) : Statement (.mand d a b) := by
  refine of_cat (w := pack 0xA8000018 [encFld d 21, encFld a 16, encFld b 11]) (ps := [(11, 0x18), (3, b.toNat), (2, 0x0), (3, a.toNat), (2, 0x0), (3, d.toNat), (8, 0xA8)])
    ⟨by decide, b.isLt, by decide, a.isLt, by decide, d.isLt, by decide, trivial⟩ rfl ?_ (fun N F lt => ?_) rfl
  · rw [pack_cons, pack_cons, pack_cons, pack_nil, encFld_eq, encFld_eq, encFld_eq]; simp only [cat_cons, cat_nil]; omega
  rw [raw2A (major_of lt (fld_part (n := N) (lo := 24) (w := 8) (v := 0xA8) 2 6 (F 6) (by decide)))]
  delta decodeMajor2A
  have f0_11 : fld N 0 11 = 0x18 := F 0
  have f14_2 : fld N 14 2 = 0x0 := F 2
  have f19_2 : fld N 19 2 = 0x0 := F 4
  have f24_8 : fld N 24 8 = 0xA8 := F 6
  refine skip (fld_part 3 5 f0_11 (by decide)) (by decide) ?_
  refine skip (fld_part 3 5 f0_11 (by decide)) (by decide) ?_
  refine (if_neg (fun h => absurd (f0_11.symm.trans (fld_part 0 11 h.1 (by decide))) (by decide))).trans ?_
  refine (if_neg (fun h => absurd (f0_11.symm.trans (fld_part 0 11 h.1 (by decide))) (by decide))).trans ?_
  refine (if_pos ⟨f0_11, f14_2, f19_2, f24_8⟩).trans ?_
  rw [show bits N 21 3 = d from bits_eq (F 5)]
  rw [show bits N 16 3 = a from bits_eq (F 3)]
  rw [show bits N 11 3 = b from bits_eq (F 1)]

theorem mor (d : BitVec 3) (a : BitVec 3) (b : BitVec 3) : Statement (.mor d a b) := by
  refine of_cat (w := pack 0xA8000020 [encFld d 21, encFld a 16, encFld b 11]) (ps := [(11, 0x20), (3, b.toNat), (2, 0x0), (3, a.toNat), (2, 0x0), (3, d.toNat), (8, 0xA8)])
    ⟨by decide, b.isLt, by decide, a.isLt, by decide, d.isLt, by decide, trivial⟩ rfl ?_ (fun N F lt => ?_) rfl
  · rw [pack_cons, pack_cons, pack_cons, pack_nil, encFld_eq, encFld_eq, encFld_eq]; simp only [cat_cons, cat_nil]; omega
  rw [raw2A (major_of lt (fld_part (n := N) (lo := 24) (w := 8) (v := 0xA8) 2 6 (F 6) (by decide)))]
  delta decodeMajor2A
  have f0_11 : fld N 0 11 = 0x20 := F 0
  have f14_2 : fld N 14 2 = 0x0 := F 2
  have f19_2 : fld N 19 2 = 0x0 := F 4
  have f24_8 : fld N 24 8 = 0xA8 := F 6
  refine skip (fld_part 3 5 f0_11 (by decide)) (by decide) ?_
  refine skip (fld_part 3 5 f0_11 (by decide)) (by decide) ?_
  refine (if_neg (fun h => absurd (f0_11.symm.trans (fld_part 0 11 h.1 (by decide))) (by decide))).trans ?_
  refine (if_neg (fun h => absurd (f0_11.symm.trans (fld_part 0 11 h.1 (by decide))) (by decide))).trans ?_
  refine (if_neg (fun h => absurd (f0_11.symm.trans h.1) (by decide))).trans ?_
  refine (if_pos ⟨f0_11, f14_2, f19_2, f24_8⟩).trans ?_
  rw [show bits N 21 3 = d from bits_eq (F 5)]
  rw [show bits N 16 3 = a from bits_eq (F 3)]
  rw [show bits N 11 3 = b from bits_eq (F 1)]

theorem mnot (d : BitVec 3) (a : BitVec 3) : Statement (.mnot d a) := by
  refine of_cat (w := pack 0xA8000028 [encFld d 21, encFld a 16]) (ps := [(16, 0x28), (3, a.toNat), (2, 0x0), (3, d.toNat), (8, 0xA8)])
    ⟨by decide, a.isLt, by decide, d.isLt, by decide, trivial⟩ rfl ?_ (fun N F lt => ?_) rfl
  · rw [pack_cons, pack_cons, pack_nil, encFld_eq, encFld_eq]; simp only [cat_cons, cat_nil]; omega
  rw [raw2A (major_of lt (fld_part (n := N) (lo := 24) (w := 8) (v := 0xA8) 2 6 (F 4) (by decide)))]
  delta decodeMajor2A
  have f0_16 : fld N 0 16 = 0x28 := F 0
  have f19_2 : fld N 19 2 = 0x0 := F 2
  have f24_8 : fld N 24 8 = 0xA8 := F 4
  refine skip (fld_part 3 5 f0_16 (by decide)) (by decide) ?_
  refine skip (fld_part 3 5 f0_16 (by decide)) (by decide) ?_
  refine (if_neg (fun h => absurd (f0_16.symm.trans h.1) (by decide))).trans ?_
  refine (if_neg (fun h => absurd (f0_16.symm.trans h.1) (by decide))).trans ?_
  refine (if_neg (fun h => absurd ((fld_part 0 11 f0_16 (by decide)).symm.trans h.1) (by decide))).trans ?_
  refine (if_neg (fun h => absurd ((fld_part 0 11 f0_16 (by decide)).symm.trans h.1) (by decide))).trans ?_
  refine (if_pos ⟨f0_16, f19_2, f24_8⟩).trans ?_
  rw [show bits N 21 3 = d from bits_eq (F 3)]
  rw [show bits N 16 3 = a from bits_eq (F 1)]

theorem vcvt (d : BitVec 5) (a : BitVec 5) (h : BitVec 1) (f : BitVec 4) (k : BitVec 3) (e : BitVec 3) : Statement (.vcvt d a h f k e) := by
  refine of_cat (w := pack 0xAC000000 [encFld d 21, encFld a 16, encFld h 15, encFld f 11, encFld k 8, encFld e 0]) (ps := [(3, e.toNat), (5, 0x0), (3, k.toNat), (4, f.toNat), (1, h.toNat), (5, a.toNat), (5, d.toNat), (6, 0x2B)])
    ⟨e.isLt, by decide, k.isLt, f.isLt, h.isLt, a.isLt, d.isLt, by decide, trivial⟩ rfl ?_ (fun N F lt => ?_) rfl
  · rw [pack_cons, pack_cons, pack_cons, pack_cons, pack_cons, pack_cons, pack_nil, encFld_eq, encFld_eq, encFld_eq, encFld_eq, encFld_eq, encFld_eq]; simp only [cat_cons, cat_nil]; omega
  rw [raw2B (major_of lt (F 7))]
  delta decodeMajor2B
  have f3_5 : fld N 3 5 = 0x0 := F 1
  refine (if_pos f3_5).trans ?_
  rw [show bits N 21 5 = d from bits_eq (F 6)]
  rw [show bits N 16 5 = a from bits_eq (F 5)]
  rw [show bits N 15 1 = h from bits_eq (F 4)]
  rw [show bits N 11 4 = f from bits_eq (F 3)]
  rw [show bits N 8 3 = k from bits_eq (F 2)]
  rw [show bits N 0 3 = e from bits_eq (F 0)]

theorem vqnt (d : BitVec 5) (a : BitVec 5) (n : BitVec 1) (f : BitVec 4) (e : BitVec 3) : Statement (.vqnt d a n f e) := by
  refine of_cat (w := pack 0xAC000008 [encFld d 21, encFld a 16, encFld n 15, encFld f 11, encFld e 0]) (ps := [(3, e.toNat), (8, 0x1), (4, f.toNat), (1, n.toNat), (5, a.toNat), (5, d.toNat), (6, 0x2B)])
    ⟨e.isLt, by decide, f.isLt, n.isLt, a.isLt, d.isLt, by decide, trivial⟩ rfl ?_ (fun N F lt => ?_) rfl
  · rw [pack_cons, pack_cons, pack_cons, pack_cons, pack_cons, pack_nil, encFld_eq, encFld_eq, encFld_eq, encFld_eq, encFld_eq]; simp only [cat_cons, cat_nil]; omega
  rw [raw2B (major_of lt (F 6))]
  delta decodeMajor2B
  have f3_8 : fld N 3 8 = 0x1 := F 1
  refine skip (fld_part 0 5 f3_8 (by decide)) (by decide) ?_
  refine (if_pos f3_8).trans ?_
  rw [show bits N 21 5 = d from bits_eq (F 5)]
  rw [show bits N 16 5 = a from bits_eq (F 4)]
  rw [show bits N 15 1 = n from bits_eq (F 3)]
  rw [show bits N 11 4 = f from bits_eq (F 2)]
  rw [show bits N 0 3 = e from bits_eq (F 0)]

theorem vdqn (d : BitVec 5) (a : BitVec 5) (f : BitVec 4) (e : BitVec 3) : Statement (.vdqn d a f e) := by
  refine of_cat (w := pack 0xAC000010 [encFld d 21, encFld a 16, encFld f 11, encFld e 0]) (ps := [(3, e.toNat), (8, 0x2), (4, f.toNat), (1, 0x0), (5, a.toNat), (5, d.toNat), (6, 0x2B)])
    ⟨e.isLt, by decide, f.isLt, by decide, a.isLt, d.isLt, by decide, trivial⟩ rfl ?_ (fun N F lt => ?_) rfl
  · rw [pack_cons, pack_cons, pack_cons, pack_cons, pack_nil, encFld_eq, encFld_eq, encFld_eq, encFld_eq]; simp only [cat_cons, cat_nil]; omega
  rw [raw2B (major_of lt (F 6))]
  delta decodeMajor2B
  have f3_8 : fld N 3 8 = 0x2 := F 1
  have f15_1 : fld N 15 1 = 0x0 := F 3
  refine skip (fld_part 0 5 f3_8 (by decide)) (by decide) ?_
  refine skip f3_8 (by decide) ?_
  refine (if_pos ⟨f3_8, f15_1⟩).trans ?_
  rw [show bits N 21 5 = d from bits_eq (F 5)]
  rw [show bits N 16 5 = a from bits_eq (F 4)]
  rw [show bits N 11 4 = f from bits_eq (F 2)]
  rw [show bits N 0 3 = e from bits_eq (F 0)]

theorem vred (d : BitVec 4) (a : BitVec 5) (o : BitVec 2) (k : BitVec 3) (e : BitVec 3) : Statement (.vred d a o k e) := by
  refine of_cat (w := pack 0xB0000000 [encFld d 21, encFld a 16, encFld o 11, encFld k 8, encFld e 0]) (ps := [(3, e.toNat), (5, 0x0), (3, k.toNat), (2, o.toNat), (3, 0x0), (5, a.toNat), (4, d.toNat), (7, 0x58)])
    ⟨e.isLt, by decide, k.isLt, o.isLt, by decide, a.isLt, d.isLt, by decide, trivial⟩ rfl ?_ (fun N F lt => ?_) rfl
  · rw [pack_cons, pack_cons, pack_cons, pack_cons, pack_cons, pack_nil, encFld_eq, encFld_eq, encFld_eq, encFld_eq, encFld_eq]; simp only [cat_cons, cat_nil]; omega
  rw [raw2C (major_of lt (fld_part (n := N) (lo := 25) (w := 7) (v := 0x58) 1 6 (F 7) (by decide)))]
  delta decodeMajor2C
  have f3_5 : fld N 3 5 = 0x0 := F 1
  have f13_3 : fld N 13 3 = 0x0 := F 4
  have f25_7 : fld N 25 7 = 0x58 := F 7
  refine (if_pos ⟨f3_5, f13_3, f25_7⟩).trans ?_
  rw [show bits N 21 4 = d from bits_eq (F 6)]
  rw [show bits N 16 5 = a from bits_eq (F 5)]
  rw [show bits N 11 2 = o from bits_eq (F 3)]
  rw [show bits N 8 3 = k from bits_eq (F 2)]
  rw [show bits N 0 3 = e from bits_eq (F 0)]

theorem vscan (d : BitVec 5) (a : BitVec 5) (o : BitVec 2) (k : BitVec 3) (e : BitVec 3) : Statement (.vscan d a o k e) := by
  refine of_cat (w := pack 0xB0000008 [encFld d 21, encFld a 16, encFld o 11, encFld k 8, encFld e 0]) (ps := [(3, e.toNat), (5, 0x1), (3, k.toNat), (2, o.toNat), (3, 0x0), (5, a.toNat), (5, d.toNat), (6, 0x2C)])
    ⟨e.isLt, by decide, k.isLt, o.isLt, by decide, a.isLt, d.isLt, by decide, trivial⟩ rfl ?_ (fun N F lt => ?_) rfl
  · rw [pack_cons, pack_cons, pack_cons, pack_cons, pack_cons, pack_nil, encFld_eq, encFld_eq, encFld_eq, encFld_eq, encFld_eq]; simp only [cat_cons, cat_nil]; omega
  rw [raw2C (major_of lt (F 7))]
  delta decodeMajor2C
  have f3_5 : fld N 3 5 = 0x1 := F 1
  have f13_3 : fld N 13 3 = 0x0 := F 4
  refine (if_neg (fun h => absurd (f3_5.symm.trans h.1) (by decide))).trans ?_
  refine (if_pos ⟨f3_5, f13_3⟩).trans ?_
  rw [show bits N 21 5 = d from bits_eq (F 6)]
  rw [show bits N 16 5 = a from bits_eq (F 5)]
  rw [show bits N 11 2 = o from bits_eq (F 3)]
  rw [show bits N 8 3 = k from bits_eq (F 2)]
  rw [show bits N 0 3 = e from bits_eq (F 0)]

theorem vperm (d : BitVec 5) (a : BitVec 5) (b : BitVec 5) (k : BitVec 3) (e : BitVec 3) : Statement (.vperm d a b k e) := by
  refine of_cat (w := pack 0xB0000010 [encFld d 21, encFld a 16, encFld b 11, encFld k 8, encFld e 0]) (ps := [(3, e.toNat), (5, 0x2), (3, k.toNat), (5, b.toNat), (5, a.toNat), (5, d.toNat), (6, 0x2C)])
    ⟨e.isLt, by decide, k.isLt, b.isLt, a.isLt, d.isLt, by decide, trivial⟩ rfl ?_ (fun N F lt => ?_) rfl
  · rw [pack_cons, pack_cons, pack_cons, pack_cons, pack_cons, pack_nil, encFld_eq, encFld_eq, encFld_eq, encFld_eq, encFld_eq]; simp only [cat_cons, cat_nil]; omega
  rw [raw2C (major_of lt (F 6))]
  delta decodeMajor2C
  have f3_5 : fld N 3 5 = 0x2 := F 1
  refine (if_neg (fun h => absurd (f3_5.symm.trans h.1) (by decide))).trans ?_
  refine (if_neg (fun h => absurd (f3_5.symm.trans h.1) (by decide))).trans ?_
  refine (if_pos f3_5).trans ?_
  rw [show bits N 21 5 = d from bits_eq (F 5)]
  rw [show bits N 16 5 = a from bits_eq (F 4)]
  rw [show bits N 11 5 = b from bits_eq (F 3)]
  rw [show bits N 8 3 = k from bits_eq (F 2)]
  rw [show bits N 0 3 = e from bits_eq (F 0)]

theorem vbcast (d : BitVec 5) (a : BitVec 4) (k : BitVec 3) (e : BitVec 3) : Statement (.vbcast d a k e) := by
  refine of_cat (w := pack 0xB0000018 [encFld d 21, encFld a 16, encFld k 8, encFld e 0]) (ps := [(3, e.toNat), (5, 0x3), (3, k.toNat), (5, 0x0), (4, a.toNat), (1, 0x0), (5, d.toNat), (6, 0x2C)])
    ⟨e.isLt, by decide, k.isLt, by decide, a.isLt, by decide, d.isLt, by decide, trivial⟩ rfl ?_ (fun N F lt => ?_) rfl
  · rw [pack_cons, pack_cons, pack_cons, pack_cons, pack_nil, encFld_eq, encFld_eq, encFld_eq, encFld_eq]; simp only [cat_cons, cat_nil]; omega
  rw [raw2C (major_of lt (F 7))]
  delta decodeMajor2C
  have f3_5 : fld N 3 5 = 0x3 := F 1
  have f11_5 : fld N 11 5 = 0x0 := F 3
  have f20_1 : fld N 20 1 = 0x0 := F 5
  refine (if_neg (fun h => absurd (f3_5.symm.trans h.1) (by decide))).trans ?_
  refine (if_neg (fun h => absurd (f3_5.symm.trans h.1) (by decide))).trans ?_
  refine skip f3_5 (by decide) ?_
  refine (if_pos ⟨f3_5, f11_5, f20_1⟩).trans ?_
  rw [show bits N 21 5 = d from bits_eq (F 6)]
  rw [show bits N 16 4 = a from bits_eq (F 4)]
  rw [show bits N 8 3 = k from bits_eq (F 2)]
  rw [show bits N 0 3 = e from bits_eq (F 0)]

theorem vmovg (d : BitVec 4) (a : BitVec 5) (b : BitVec 4) (e : BitVec 3) : Statement (.vmovg d a b e) := by
  refine of_cat (w := pack 0xB0000020 [encFld d 21, encFld a 16, encFld b 11, encFld e 0]) (ps := [(3, e.toNat), (8, 0x4), (4, b.toNat), (1, 0x0), (5, a.toNat), (4, d.toNat), (7, 0x58)])
    ⟨e.isLt, by decide, b.isLt, by decide, a.isLt, d.isLt, by decide, trivial⟩ rfl ?_ (fun N F lt => ?_) rfl
  · rw [pack_cons, pack_cons, pack_cons, pack_cons, pack_nil, encFld_eq, encFld_eq, encFld_eq, encFld_eq]; simp only [cat_cons, cat_nil]; omega
  rw [raw2C (major_of lt (fld_part (n := N) (lo := 25) (w := 7) (v := 0x58) 1 6 (F 6) (by decide)))]
  delta decodeMajor2C
  have f3_8 : fld N 3 8 = 0x4 := F 1
  have f15_1 : fld N 15 1 = 0x0 := F 3
  have f25_7 : fld N 25 7 = 0x58 := F 6
  refine (if_neg (fun h => absurd ((fld_part 0 5 f3_8 (by decide)).symm.trans h.1) (by decide))).trans ?_
  refine (if_neg (fun h => absurd ((fld_part 0 5 f3_8 (by decide)).symm.trans h.1) (by decide))).trans ?_
  refine skip (fld_part 0 5 f3_8 (by decide)) (by decide) ?_
  refine (if_neg (fun h => absurd ((fld_part 0 5 f3_8 (by decide)).symm.trans h.1) (by decide))).trans ?_
  refine (if_pos ⟨f3_8, f15_1, f25_7⟩).trans ?_
  rw [show bits N 21 4 = d from bits_eq (F 5)]
  rw [show bits N 16 5 = a from bits_eq (F 4)]
  rw [show bits N 11 4 = b from bits_eq (F 2)]
  rw [show bits N 0 3 = e from bits_eq (F 0)]

theorem vmovv (d : BitVec 5) (a : BitVec 4) (b : BitVec 4) (e : BitVec 3) : Statement (.vmovv d a b e) := by
  refine of_cat (w := pack 0xB0000028 [encFld d 21, encFld a 16, encFld b 11, encFld e 0]) (ps := [(3, e.toNat), (8, 0x5), (4, b.toNat), (1, 0x0), (4, a.toNat), (1, 0x0), (5, d.toNat), (6, 0x2C)])
    ⟨e.isLt, by decide, b.isLt, by decide, a.isLt, by decide, d.isLt, by decide, trivial⟩ rfl ?_ (fun N F lt => ?_) rfl
  · rw [pack_cons, pack_cons, pack_cons, pack_cons, pack_nil, encFld_eq, encFld_eq, encFld_eq, encFld_eq]; simp only [cat_cons, cat_nil]; omega
  rw [raw2C (major_of lt (F 7))]
  delta decodeMajor2C
  have f3_8 : fld N 3 8 = 0x5 := F 1
  have f15_1 : fld N 15 1 = 0x0 := F 3
  have f20_1 : fld N 20 1 = 0x0 := F 5
  refine (if_neg (fun h => absurd ((fld_part 0 5 f3_8 (by decide)).symm.trans h.1) (by decide))).trans ?_
  refine (if_neg (fun h => absurd ((fld_part 0 5 f3_8 (by decide)).symm.trans h.1) (by decide))).trans ?_
  refine skip (fld_part 0 5 f3_8 (by decide)) (by decide) ?_
  refine (if_neg (fun h => absurd ((fld_part 0 5 f3_8 (by decide)).symm.trans h.1) (by decide))).trans ?_
  refine (if_neg (fun h => absurd (f3_8.symm.trans h.1) (by decide))).trans ?_
  refine (if_pos ⟨f3_8, f15_1, f20_1⟩).trans ?_
  rw [show bits N 21 5 = d from bits_eq (F 6)]
  rw [show bits N 16 4 = a from bits_eq (F 4)]
  rw [show bits N 11 4 = b from bits_eq (F 2)]
  rw [show bits N 0 3 = e from bits_eq (F 0)]

theorem vld (d : BitVec 5) (a : BitVec 4) (o : BitVec 5) (k : BitVec 3) (e : BitVec 3) : Statement (.vld d a o k e) := by
  refine of_cat (w := pack 0xB4000000 [encFld d 21, encFld a 16, encFld o 11, encFld k 8, encFld e 0]) (ps := [(3, e.toNat), (5, 0x0), (3, k.toNat), (5, o.toNat), (4, a.toNat), (1, 0x0), (5, d.toNat), (6, 0x2D)])
    ⟨e.isLt, by decide, k.isLt, o.isLt, a.isLt, by decide, d.isLt, by decide, trivial⟩ rfl ?_ (fun N F lt => ?_) rfl
  · rw [pack_cons, pack_cons, pack_cons, pack_cons, pack_cons, pack_nil, encFld_eq, encFld_eq, encFld_eq, encFld_eq, encFld_eq]; simp only [cat_cons, cat_nil]; omega
  rw [raw2D (major_of lt (F 7))]
  delta decodeMajor2D
  have f3_5 : fld N 3 5 = 0x0 := F 1
  have f20_1 : fld N 20 1 = 0x0 := F 5
  refine (if_pos ⟨f3_5, f20_1⟩).trans ?_
  rw [show bits N 21 5 = d from bits_eq (F 6)]
  rw [show bits N 16 4 = a from bits_eq (F 4)]
  rw [show bits N 11 5 = o from bits_eq (F 3)]
  rw [show bits N 8 3 = k from bits_eq (F 2)]
  rw [show bits N 0 3 = e from bits_eq (F 0)]

theorem vst (d : BitVec 5) (a : BitVec 4) (o : BitVec 5) (k : BitVec 3) (e : BitVec 3) : Statement (.vst d a o k e) := by
  refine of_cat (w := pack 0xB4000008 [encFld d 21, encFld a 16, encFld o 11, encFld k 8, encFld e 0]) (ps := [(3, e.toNat), (5, 0x1), (3, k.toNat), (5, o.toNat), (4, a.toNat), (1, 0x0), (5, d.toNat), (6, 0x2D)])
    ⟨e.isLt, by decide, k.isLt, o.isLt, a.isLt, by decide, d.isLt, by decide, trivial⟩ rfl ?_ (fun N F lt => ?_) rfl
  · rw [pack_cons, pack_cons, pack_cons, pack_cons, pack_cons, pack_nil, encFld_eq, encFld_eq, encFld_eq, encFld_eq, encFld_eq]; simp only [cat_cons, cat_nil]; omega
  rw [raw2D (major_of lt (F 7))]
  delta decodeMajor2D
  have f3_5 : fld N 3 5 = 0x1 := F 1
  have f20_1 : fld N 20 1 = 0x0 := F 5
  refine (if_neg (fun h => absurd (f3_5.symm.trans h.1) (by decide))).trans ?_
  refine (if_pos ⟨f3_5, f20_1⟩).trans ?_
  rw [show bits N 21 5 = d from bits_eq (F 6)]
  rw [show bits N 16 4 = a from bits_eq (F 4)]
  rw [show bits N 11 5 = o from bits_eq (F 3)]
  rw [show bits N 8 3 = k from bits_eq (F 2)]
  rw [show bits N 0 3 = e from bits_eq (F 0)]

theorem vlds (d : BitVec 5) (a : BitVec 4) (b : BitVec 4) (k : BitVec 3) (e : BitVec 3) : Statement (.vlds d a b k e) := by
  refine of_cat (w := pack 0xB4000010 [encFld d 21, encFld a 16, encFld b 11, encFld k 8, encFld e 0]) (ps := [(3, e.toNat), (5, 0x2), (3, k.toNat), (4, b.toNat), (1, 0x0), (4, a.toNat), (1, 0x0), (5, d.toNat), (6, 0x2D)])
    ⟨e.isLt, by decide, k.isLt, b.isLt, by decide, a.isLt, by decide, d.isLt, by decide, trivial⟩ rfl ?_ (fun N F lt => ?_) rfl
  · rw [pack_cons, pack_cons, pack_cons, pack_cons, pack_cons, pack_nil, encFld_eq, encFld_eq, encFld_eq, encFld_eq, encFld_eq]; simp only [cat_cons, cat_nil]; omega
  rw [raw2D (major_of lt (F 8))]
  delta decodeMajor2D
  have f3_5 : fld N 3 5 = 0x2 := F 1
  have f15_1 : fld N 15 1 = 0x0 := F 4
  have f20_1 : fld N 20 1 = 0x0 := F 6
  refine (if_neg (fun h => absurd (f3_5.symm.trans h.1) (by decide))).trans ?_
  refine (if_neg (fun h => absurd (f3_5.symm.trans h.1) (by decide))).trans ?_
  refine (if_pos ⟨f3_5, f15_1, f20_1⟩).trans ?_
  rw [show bits N 21 5 = d from bits_eq (F 7)]
  rw [show bits N 16 4 = a from bits_eq (F 5)]
  rw [show bits N 11 4 = b from bits_eq (F 3)]
  rw [show bits N 8 3 = k from bits_eq (F 2)]
  rw [show bits N 0 3 = e from bits_eq (F 0)]

theorem vsts (d : BitVec 5) (a : BitVec 4) (b : BitVec 4) (k : BitVec 3) (e : BitVec 3) : Statement (.vsts d a b k e) := by
  refine of_cat (w := pack 0xB4000018 [encFld d 21, encFld a 16, encFld b 11, encFld k 8, encFld e 0]) (ps := [(3, e.toNat), (5, 0x3), (3, k.toNat), (4, b.toNat), (1, 0x0), (4, a.toNat), (1, 0x0), (5, d.toNat), (6, 0x2D)])
    ⟨e.isLt, by decide, k.isLt, b.isLt, by decide, a.isLt, by decide, d.isLt, by decide, trivial⟩ rfl ?_ (fun N F lt => ?_) rfl
  · rw [pack_cons, pack_cons, pack_cons, pack_cons, pack_cons, pack_nil, encFld_eq, encFld_eq, encFld_eq, encFld_eq, encFld_eq]; simp only [cat_cons, cat_nil]; omega
  rw [raw2D (major_of lt (F 8))]
  delta decodeMajor2D
  have f3_5 : fld N 3 5 = 0x3 := F 1
  have f15_1 : fld N 15 1 = 0x0 := F 4
  have f20_1 : fld N 20 1 = 0x0 := F 6
  refine (if_neg (fun h => absurd (f3_5.symm.trans h.1) (by decide))).trans ?_
  refine (if_neg (fun h => absurd (f3_5.symm.trans h.1) (by decide))).trans ?_
  refine (if_neg (fun h => absurd (f3_5.symm.trans h.1) (by decide))).trans ?_
  refine (if_pos ⟨f3_5, f15_1, f20_1⟩).trans ?_
  rw [show bits N 21 5 = d from bits_eq (F 7)]
  rw [show bits N 16 4 = a from bits_eq (F 5)]
  rw [show bits N 11 4 = b from bits_eq (F 3)]
  rw [show bits N 8 3 = k from bits_eq (F 2)]
  rw [show bits N 0 3 = e from bits_eq (F 0)]

theorem vgath (d : BitVec 5) (a : BitVec 4) (b : BitVec 5) (k : BitVec 3) (e : BitVec 3) : Statement (.vgath d a b k e) := by
  refine of_cat (w := pack 0xB4000020 [encFld d 21, encFld a 16, encFld b 11, encFld k 8, encFld e 0]) (ps := [(3, e.toNat), (5, 0x4), (3, k.toNat), (5, b.toNat), (4, a.toNat), (1, 0x0), (5, d.toNat), (6, 0x2D)])
    ⟨e.isLt, by decide, k.isLt, b.isLt, a.isLt, by decide, d.isLt, by decide, trivial⟩ rfl ?_ (fun N F lt => ?_) rfl
  · rw [pack_cons, pack_cons, pack_cons, pack_cons, pack_cons, pack_nil, encFld_eq, encFld_eq, encFld_eq, encFld_eq, encFld_eq]; simp only [cat_cons, cat_nil]; omega
  rw [raw2D (major_of lt (F 7))]
  delta decodeMajor2D
  have f3_5 : fld N 3 5 = 0x4 := F 1
  have f20_1 : fld N 20 1 = 0x0 := F 5
  refine (if_neg (fun h => absurd (f3_5.symm.trans h.1) (by decide))).trans ?_
  refine (if_neg (fun h => absurd (f3_5.symm.trans h.1) (by decide))).trans ?_
  refine (if_neg (fun h => absurd (f3_5.symm.trans h.1) (by decide))).trans ?_
  refine (if_neg (fun h => absurd (f3_5.symm.trans h.1) (by decide))).trans ?_
  refine (if_pos ⟨f3_5, f20_1⟩).trans ?_
  rw [show bits N 21 5 = d from bits_eq (F 6)]
  rw [show bits N 16 4 = a from bits_eq (F 4)]
  rw [show bits N 11 5 = b from bits_eq (F 3)]
  rw [show bits N 8 3 = k from bits_eq (F 2)]
  rw [show bits N 0 3 = e from bits_eq (F 0)]

theorem vscat (d : BitVec 5) (a : BitVec 4) (b : BitVec 5) (k : BitVec 3) (e : BitVec 3) : Statement (.vscat d a b k e) := by
  refine of_cat (w := pack 0xB4000028 [encFld d 21, encFld a 16, encFld b 11, encFld k 8, encFld e 0]) (ps := [(3, e.toNat), (5, 0x5), (3, k.toNat), (5, b.toNat), (4, a.toNat), (1, 0x0), (5, d.toNat), (6, 0x2D)])
    ⟨e.isLt, by decide, k.isLt, b.isLt, a.isLt, by decide, d.isLt, by decide, trivial⟩ rfl ?_ (fun N F lt => ?_) rfl
  · rw [pack_cons, pack_cons, pack_cons, pack_cons, pack_cons, pack_nil, encFld_eq, encFld_eq, encFld_eq, encFld_eq, encFld_eq]; simp only [cat_cons, cat_nil]; omega
  rw [raw2D (major_of lt (F 7))]
  delta decodeMajor2D
  have f3_5 : fld N 3 5 = 0x5 := F 1
  have f20_1 : fld N 20 1 = 0x0 := F 5
  refine (if_neg (fun h => absurd (f3_5.symm.trans h.1) (by decide))).trans ?_
  refine (if_neg (fun h => absurd (f3_5.symm.trans h.1) (by decide))).trans ?_
  refine (if_neg (fun h => absurd (f3_5.symm.trans h.1) (by decide))).trans ?_
  refine (if_neg (fun h => absurd (f3_5.symm.trans h.1) (by decide))).trans ?_
  refine (if_neg (fun h => absurd (f3_5.symm.trans h.1) (by decide))).trans ?_
  refine (if_pos ⟨f3_5, f20_1⟩).trans ?_
  rw [show bits N 21 5 = d from bits_eq (F 6)]
  rw [show bits N 16 4 = a from bits_eq (F 4)]
  rw [show bits N 11 5 = b from bits_eq (F 3)]
  rw [show bits N 8 3 = k from bits_eq (F 2)]
  rw [show bits N 0 3 = e from bits_eq (F 0)]

theorem vrep (w : BitVec 4) (r : BitVec 6) (d : BitVec 5) (a : BitVec 5) (b : BitVec 5) : Statement (.vrep w r d a b) := by
  refine of_cat (w := pack 0xB8000000 [encFld w 22, encFld r 16, encFld d 11, encFld a 6, encFld b 1]) (ps := [(1, 0x0), (5, b.toNat), (5, a.toNat), (5, d.toNat), (6, r.toNat), (4, w.toNat), (6, 0x2E)])
    ⟨by decide, b.isLt, a.isLt, d.isLt, r.isLt, w.isLt, by decide, trivial⟩ rfl ?_ (fun N F lt => ?_) rfl
  · rw [pack_cons, pack_cons, pack_cons, pack_cons, pack_cons, pack_nil, encFld_eq, encFld_eq, encFld_eq, encFld_eq, encFld_eq]; simp only [cat_cons, cat_nil]; omega
  rw [raw2E (major_of lt (F 6))]
  delta decodeMajor2E
  have f0_1 : fld N 0 1 = 0x0 := F 0
  refine (if_pos f0_1).trans ?_
  rw [show bits N 22 4 = w from bits_eq (F 5)]
  rw [show bits N 16 6 = r from bits_eq (F 4)]
  rw [show bits N 11 5 = d from bits_eq (F 3)]
  rw [show bits N 6 5 = a from bits_eq (F 2)]
  rw [show bits N 1 5 = b from bits_eq (F 1)]

theorem tdef (d : BitVec 5) (a : BitVec 4) (b : BitVec 4) : Statement (.tdef d a b) := by
  refine of_cat (w := pack 0xC0000000 [encFld d 21, encFld a 16, encFld b 11]) (ps := [(11, 0x0), (4, b.toNat), (1, 0x0), (4, a.toNat), (1, 0x0), (5, d.toNat), (6, 0x30)])
    ⟨by decide, b.isLt, by decide, a.isLt, by decide, d.isLt, by decide, trivial⟩ rfl ?_ (fun N F lt => ?_) rfl
  · rw [pack_cons, pack_cons, pack_cons, pack_nil, encFld_eq, encFld_eq, encFld_eq]; simp only [cat_cons, cat_nil]; omega
  rw [raw30 (major_of lt (F 6))]
  delta decodeMajor30
  have f0_11 : fld N 0 11 = 0x0 := F 0
  have f15_1 : fld N 15 1 = 0x0 := F 2
  have f20_1 : fld N 20 1 = 0x0 := F 4
  refine (if_pos ⟨f0_11, f15_1, f20_1⟩).trans ?_
  rw [show bits N 21 5 = d from bits_eq (F 5)]
  rw [show bits N 16 4 = a from bits_eq (F 3)]
  rw [show bits N 11 4 = b from bits_eq (F 1)]

theorem tstat (d : BitVec 4) (a : BitVec 5) : Statement (.tstat d a) := by
  refine of_cat (w := pack 0xC0000080 [encFld d 21, encFld a 16]) (ps := [(16, 0x80), (5, a.toNat), (4, d.toNat), (7, 0x60)])
    ⟨by decide, a.isLt, d.isLt, by decide, trivial⟩ rfl ?_ (fun N F lt => ?_) rfl
  · rw [pack_cons, pack_cons, pack_nil, encFld_eq, encFld_eq]; simp only [cat_cons, cat_nil]; omega
  rw [raw30 (major_of lt (fld_part (n := N) (lo := 25) (w := 7) (v := 0x60) 1 6 (F 3) (by decide)))]
  delta decodeMajor30
  have f0_16 : fld N 0 16 = 0x80 := F 0
  have f25_7 : fld N 25 7 = 0x60 := F 3
  refine (if_neg (fun h => absurd ((fld_part 0 11 f0_16 (by decide)).symm.trans h.1) (by decide))).trans ?_
  refine (if_pos ⟨f0_16, f25_7⟩).trans ?_
  rw [show bits N 21 4 = d from bits_eq (F 2)]
  rw [show bits N 16 5 = a from bits_eq (F 1)]

theorem tload (d : BitVec 5) (a : BitVec 4) (b : BitVec 4) : Statement (.tload d a b) := by
  refine of_cat (w := pack 0xC0000100 [encFld d 21, encFld a 16, encFld b 11]) (ps := [(11, 0x100), (4, b.toNat), (1, 0x0), (4, a.toNat), (1, 0x0), (5, d.toNat), (6, 0x30)])
    ⟨by decide, b.isLt, by decide, a.isLt, by decide, d.isLt, by decide, trivial⟩ rfl ?_ (fun N F lt => ?_) rfl
  · rw [pack_cons, pack_cons, pack_cons, pack_nil, encFld_eq, encFld_eq, encFld_eq]; simp only [cat_cons, cat_nil]; omega
  rw [raw30 (major_of lt (F 6))]
  delta decodeMajor30
  have f0_11 : fld N 0 11 = 0x100 := F 0
  have f15_1 : fld N 15 1 = 0x0 := F 2
  have f20_1 : fld N 20 1 = 0x0 := F 4
  refine (if_neg (fun h => absurd (f0_11.symm.trans h.1) (by decide))).trans ?_
  refine (if_neg (fun h => absurd (f0_11.symm.trans (fld_part 0 11 h.1 (by decide))) (by decide))).trans ?_
  refine (if_pos ⟨f0_11, f15_1, f20_1⟩).trans ?_
  rw [show bits N 21 5 = d from bits_eq (F 5)]
  rw [show bits N 16 4 = a from bits_eq (F 3)]
  rw [show bits N 11 4 = b from bits_eq (F 1)]

theorem tstore (d : BitVec 5) (a : BitVec 4) (b : BitVec 4) : Statement (.tstore d a b) := by
  refine of_cat (w := pack 0xC0000180 [encFld d 21, encFld a 16, encFld b 11]) (ps := [(11, 0x180), (4, b.toNat), (1, 0x0), (4, a.toNat), (1, 0x0), (5, d.toNat), (6, 0x30)])
    ⟨by decide, b.isLt, by decide, a.isLt, by decide, d.isLt, by decide, trivial⟩ rfl ?_ (fun N F lt => ?_) rfl
  · rw [pack_cons, pack_cons, pack_cons, pack_nil, encFld_eq, encFld_eq, encFld_eq]; simp only [cat_cons, cat_nil]; omega
  rw [raw30 (major_of lt (F 6))]
  delta decodeMajor30
  have f0_11 : fld N 0 11 = 0x180 := F 0
  have f15_1 : fld N 15 1 = 0x0 := F 2
  have f20_1 : fld N 20 1 = 0x0 := F 4
  refine (if_neg (fun h => absurd (f0_11.symm.trans h.1) (by decide))).trans ?_
  refine (if_neg (fun h => absurd (f0_11.symm.trans (fld_part 0 11 h.1 (by decide))) (by decide))).trans ?_
  refine (if_neg (fun h => absurd (f0_11.symm.trans h.1) (by decide))).trans ?_
  refine (if_pos ⟨f0_11, f15_1, f20_1⟩).trans ?_
  rw [show bits N 21 5 = d from bits_eq (F 5)]
  rw [show bits N 16 4 = a from bits_eq (F 3)]
  rw [show bits N 11 4 = b from bits_eq (F 1)]

theorem tcvt (d : BitVec 5) (a : BitVec 5) (z : BitVec 1) (y : BitVec 1) : Statement (.tcvt d a z y) := by
  refine of_cat (w := pack 0xC0000200 [encFld d 21, encFld a 16, encFld z 6, encFld y 5]) (ps := [(5, 0x0), (1, y.toNat), (1, z.toNat), (9, 0x4), (5, a.toNat), (5, d.toNat), (6, 0x30)])
    ⟨by decide, y.isLt, z.isLt, by decide, a.isLt, d.isLt, by decide, trivial⟩ rfl ?_ (fun N F lt => ?_) rfl
  · rw [pack_cons, pack_cons, pack_cons, pack_cons, pack_nil, encFld_eq, encFld_eq, encFld_eq, encFld_eq]; simp only [cat_cons, cat_nil]; omega
  rw [raw30 (major_of lt (F 6))]
  delta decodeMajor30
  have f7_9 : fld N 7 9 = 0x4 := F 3
  have f0_5 : fld N 0 5 = 0x0 := F 0
  refine (if_neg (fun h => absurd ((fld_part 0 4 f7_9 (by decide)).symm.trans (fld_part 7 4 h.1 (by decide))) (by decide))).trans ?_
  refine (if_neg (fun h => absurd (f7_9.symm.trans (fld_part 7 9 h.1 (by decide))) (by decide))).trans ?_
  refine (if_neg (fun h => absurd ((fld_part 0 4 f7_9 (by decide)).symm.trans (fld_part 7 4 h.1 (by decide))) (by decide))).trans ?_
  refine (if_neg (fun h => absurd ((fld_part 0 4 f7_9 (by decide)).symm.trans (fld_part 7 4 h.1 (by decide))) (by decide))).trans ?_
  refine (if_pos ⟨f0_5, f7_9⟩).trans ?_
  rw [show bits N 21 5 = d from bits_eq (F 5)]
  rw [show bits N 16 5 = a from bits_eq (F 4)]
  rw [show bits N 6 1 = z from bits_eq (F 2)]
  rw [show bits N 5 1 = y from bits_eq (F 1)]

theorem tcmd (a : BitVec 4) (b : BitVec 4) : Statement (.tcmd a b) := by
  refine of_cat (w := pack 0xC0000280 [encFld a 16, encFld b 11]) (ps := [(11, 0x280), (4, b.toNat), (1, 0x0), (4, a.toNat), (12, 0xC00)])
    ⟨by decide, b.isLt, by decide, a.isLt, by decide, trivial⟩ rfl ?_ (fun N F lt => ?_) rfl
  · rw [pack_cons, pack_cons, pack_nil, encFld_eq, encFld_eq]; simp only [cat_cons, cat_nil]; omega
  rw [raw30 (major_of lt (fld_part (n := N) (lo := 20) (w := 12) (v := 0xC00) 6 6 (F 4) (by decide)))]
  delta decodeMajor30
  have f0_11 : fld N 0 11 = 0x280 := F 0
  have f15_1 : fld N 15 1 = 0x0 := F 2
  have f20_12 : fld N 20 12 = 0xC00 := F 4
  refine (if_neg (fun h => absurd (f0_11.symm.trans h.1) (by decide))).trans ?_
  refine (if_neg (fun h => absurd (f0_11.symm.trans (fld_part 0 11 h.1 (by decide))) (by decide))).trans ?_
  refine (if_neg (fun h => absurd (f0_11.symm.trans h.1) (by decide))).trans ?_
  refine (if_neg (fun h => absurd (f0_11.symm.trans h.1) (by decide))).trans ?_
  refine (if_neg (fun h => absurd ((fld_part 7 4 f0_11 (by decide)).symm.trans (fld_part 0 4 h.2 (by decide))) (by decide))).trans ?_
  refine (if_pos ⟨f0_11, f15_1, f20_12⟩).trans ?_
  rw [show bits N 16 4 = a from bits_eq (F 3)]
  rw [show bits N 11 4 = b from bits_eq (F 1)]

theorem mma (k : BitVec 1) (a : BitVec 5) (b : BitVec 5) (z : BitVec 1) (y : BitVec 1) : Statement (.mma k a b z y) := by
  refine of_cat (w := pack 0xC4000000 [encFld k 21, encFld a 16, encFld b 11, encFld z 6, encFld y 5]) (ps := [(5, 0x0), (1, y.toNat), (1, z.toNat), (4, 0x0), (5, b.toNat), (5, a.toNat), (1, k.toNat), (10, 0x310)])
    ⟨by decide, y.isLt, z.isLt, by decide, b.isLt, a.isLt, k.isLt, by decide, trivial⟩ rfl ?_ (fun N F lt => ?_) rfl
  · rw [pack_cons, pack_cons, pack_cons, pack_cons, pack_cons, pack_nil, encFld_eq, encFld_eq, encFld_eq, encFld_eq, encFld_eq]; simp only [cat_cons, cat_nil]; omega
  rw [raw31 (major_of lt (fld_part (n := N) (lo := 22) (w := 10) (v := 0x310) 4 6 (F 7) (by decide)))]
  delta decodeMajor31
  have f0_5 : fld N 0 5 = 0x0 := F 0
  have f7_4 : fld N 7 4 = 0x0 := F 3
  have f22_10 : fld N 22 10 = 0x310 := F 7
  refine (if_pos ⟨f0_5, f7_4, f22_10⟩).trans ?_
  rw [show bits N 21 1 = k from bits_eq (F 6)]
  rw [show bits N 16 5 = a from bits_eq (F 5)]
  rw [show bits N 11 5 = b from bits_eq (F 4)]
  rw [show bits N 6 1 = z from bits_eq (F 2)]
  rw [show bits N 5 1 = y from bits_eq (F 1)]

theorem mmag (k : BitVec 1) (a : BitVec 5) (b : BitVec 5) (z : BitVec 1) (y : BitVec 1) (i : BitVec 5) : Statement (.mmag k a b z y i) := by
  refine of_cat (w := pack 0xC4000080 [encFld k 21, encFld a 16, encFld b 11, encFld z 6, encFld y 5, encFld i 0]) (ps := [(5, i.toNat), (1, y.toNat), (1, z.toNat), (4, 0x1), (5, b.toNat), (5, a.toNat), (1, k.toNat), (10, 0x310)])
    ⟨i.isLt, y.isLt, z.isLt, by decide, b.isLt, a.isLt, k.isLt, by decide, trivial⟩ rfl ?_ (fun N F lt => ?_) rfl
  · rw [pack_cons, pack_cons, pack_cons, pack_cons, pack_cons, pack_cons, pack_nil, encFld_eq, encFld_eq, encFld_eq, encFld_eq, encFld_eq, encFld_eq]; simp only [cat_cons, cat_nil]; omega
  rw [raw31 (major_of lt (fld_part (n := N) (lo := 22) (w := 10) (v := 0x310) 4 6 (F 7) (by decide)))]
  delta decodeMajor31
  have f7_4 : fld N 7 4 = 0x1 := F 3
  have f22_10 : fld N 22 10 = 0x310 := F 7
  refine (if_neg (fun h => absurd (f7_4.symm.trans h.2.1) (by decide))).trans ?_
  refine (if_pos ⟨f7_4, f22_10⟩).trans ?_
  rw [show bits N 21 1 = k from bits_eq (F 6)]
  rw [show bits N 16 5 = a from bits_eq (F 5)]
  rw [show bits N 11 5 = b from bits_eq (F 4)]
  rw [show bits N 6 1 = z from bits_eq (F 2)]
  rw [show bits N 5 1 = y from bits_eq (F 1)]
  rw [show bits N 0 5 = i from bits_eq (F 0)]

theorem cmma (k : BitVec 1) (a : BitVec 5) (b : BitVec 5) (z : BitVec 1) (y : BitVec 1) : Statement (.cmma k a b z y) := by
  refine of_cat (w := pack 0xC4000100 [encFld k 21, encFld a 16, encFld b 11, encFld z 6, encFld y 5]) (ps := [(5, 0x0), (1, y.toNat), (1, z.toNat), (4, 0x2), (5, b.toNat), (5, a.toNat), (1, k.toNat), (10, 0x310)])
    ⟨by decide, y.isLt, z.isLt, by decide, b.isLt, a.isLt, k.isLt, by decide, trivial⟩ rfl ?_ (fun N F lt => ?_) rfl
  · rw [pack_cons, pack_cons, pack_cons, pack_cons, pack_cons, pack_nil, encFld_eq, encFld_eq, encFld_eq, encFld_eq, encFld_eq]; simp only [cat_cons, cat_nil]; omega
  rw [raw31 (major_of lt (fld_part (n := N) (lo := 22) (w := 10) (v := 0x310) 4 6 (F 7) (by decide)))]
  delta decodeMajor31
  have f7_4 : fld N 7 4 = 0x2 := F 3
  have f0_5 : fld N 0 5 = 0x0 := F 0
  have f22_10 : fld N 22 10 = 0x310 := F 7
  refine (if_neg (fun h => absurd (f7_4.symm.trans h.2.1) (by decide))).trans ?_
  refine (if_neg (fun h => absurd (f7_4.symm.trans h.1) (by decide))).trans ?_
  refine (if_pos ⟨f0_5, f7_4, f22_10⟩).trans ?_
  rw [show bits N 21 1 = k from bits_eq (F 6)]
  rw [show bits N 16 5 = a from bits_eq (F 5)]
  rw [show bits N 11 5 = b from bits_eq (F 4)]
  rw [show bits N 6 1 = z from bits_eq (F 2)]
  rw [show bits N 5 1 = y from bits_eq (F 1)]

theorem gmma (k : BitVec 1) (a : BitVec 5) (b : BitVec 5) (z : BitVec 1) (y : BitVec 1) : Statement (.gmma k a b z y) := by
  refine of_cat (w := pack 0xC4000180 [encFld k 21, encFld a 16, encFld b 11, encFld z 6, encFld y 5]) (ps := [(5, 0x0), (1, y.toNat), (1, z.toNat), (4, 0x3), (5, b.toNat), (5, a.toNat), (1, k.toNat), (10, 0x310)])
    ⟨by decide, y.isLt, z.isLt, by decide, b.isLt, a.isLt, k.isLt, by decide, trivial⟩ rfl ?_ (fun N F lt => ?_) rfl
  · rw [pack_cons, pack_cons, pack_cons, pack_cons, pack_cons, pack_nil, encFld_eq, encFld_eq, encFld_eq, encFld_eq, encFld_eq]; simp only [cat_cons, cat_nil]; omega
  rw [raw31 (major_of lt (fld_part (n := N) (lo := 22) (w := 10) (v := 0x310) 4 6 (F 7) (by decide)))]
  delta decodeMajor31
  have f7_4 : fld N 7 4 = 0x3 := F 3
  have f0_5 : fld N 0 5 = 0x0 := F 0
  have f22_10 : fld N 22 10 = 0x310 := F 7
  refine (if_neg (fun h => absurd (f7_4.symm.trans h.2.1) (by decide))).trans ?_
  refine (if_neg (fun h => absurd (f7_4.symm.trans h.1) (by decide))).trans ?_
  refine (if_neg (fun h => absurd (f7_4.symm.trans h.2.1) (by decide))).trans ?_
  refine (if_pos ⟨f0_5, f7_4, f22_10⟩).trans ?_
  rw [show bits N 21 1 = k from bits_eq (F 6)]
  rw [show bits N 16 5 = a from bits_eq (F 5)]
  rw [show bits N 11 5 = b from bits_eq (F 4)]
  rw [show bits N 6 1 = z from bits_eq (F 2)]
  rw [show bits N 5 1 = y from bits_eq (F 1)]

theorem azero (k : BitVec 1) : Statement (.azero k) := by
  refine of_cat (w := pack 0xC4000200 [encFld k 21]) (ps := [(21, 0x200), (1, k.toNat), (10, 0x310)])
    ⟨by decide, k.isLt, by decide, trivial⟩ rfl ?_ (fun N F lt => ?_) rfl
  · rw [pack_cons, pack_nil, encFld_eq]; simp only [cat_cons, cat_nil]; omega
  rw [raw31 (major_of lt (fld_part (n := N) (lo := 22) (w := 10) (v := 0x310) 4 6 (F 2) (by decide)))]
  delta decodeMajor31
  have f0_21 : fld N 0 21 = 0x200 := F 0
  have f22_10 : fld N 22 10 = 0x310 := F 2
  refine (if_neg (fun h => absurd ((fld_part 7 4 f0_21 (by decide)).symm.trans h.2.1) (by decide))).trans ?_
  refine (if_neg (fun h => absurd ((fld_part 7 4 f0_21 (by decide)).symm.trans h.1) (by decide))).trans ?_
  refine (if_neg (fun h => absurd ((fld_part 7 4 f0_21 (by decide)).symm.trans h.2.1) (by decide))).trans ?_
  refine (if_neg (fun h => absurd ((fld_part 7 4 f0_21 (by decide)).symm.trans h.2.1) (by decide))).trans ?_
  refine (if_pos ⟨f0_21, f22_10⟩).trans ?_
  rw [show bits N 21 1 = k from bits_eq (F 1)]

theorem adrain (d : BitVec 5) (k : BitVec 1) (z : BitVec 1) (x : BitVec 1) : Statement (.adrain d k z x) := by
  refine of_cat (w := pack 0xC4000280 [encFld d 21, encFld k 16, encFld z 6, encFld x 2]) (ps := [(2, 0x0), (1, x.toNat), (3, 0x0), (1, z.toNat), (9, 0x5), (1, k.toNat), (4, 0x0), (5, d.toNat), (6, 0x31)])
    ⟨by decide, x.isLt, by decide, z.isLt, by decide, k.isLt, by decide, d.isLt, by decide, trivial⟩ rfl ?_ (fun N F lt => ?_) rfl
  · rw [pack_cons, pack_cons, pack_cons, pack_cons, pack_nil, encFld_eq, encFld_eq, encFld_eq, encFld_eq]; simp only [cat_cons, cat_nil]; omega
  rw [raw31 (major_of lt (F 8))]
  delta decodeMajor31
  have f7_9 : fld N 7 9 = 0x5 := F 4
  have f0_2 : fld N 0 2 = 0x0 := F 0
  have f3_3 : fld N 3 3 = 0x0 := F 2
  have f17_4 : fld N 17 4 = 0x0 := F 6
  refine (if_neg (fun h => absurd ((fld_part 0 4 f7_9 (by decide)).symm.trans h.2.1) (by decide))).trans ?_
  refine (if_neg (fun h => absurd ((fld_part 0 4 f7_9 (by decide)).symm.trans h.1) (by decide))).trans ?_
  refine (if_neg (fun h => absurd ((fld_part 0 4 f7_9 (by decide)).symm.trans h.2.1) (by decide))).trans ?_
  refine (if_neg (fun h => absurd ((fld_part 0 4 f7_9 (by decide)).symm.trans h.2.1) (by decide))).trans ?_
  refine (if_neg (fun h => absurd (f7_9.symm.trans (fld_part 7 9 h.1 (by decide))) (by decide))).trans ?_
  refine (if_pos ⟨f0_2, f3_3, f7_9, f17_4⟩).trans ?_
  rw [show bits N 21 5 = d from bits_eq (F 7)]
  rw [show bits N 16 1 = k from bits_eq (F 5)]
  rw [show bits N 6 1 = z from bits_eq (F 3)]
  rw [show bits N 2 1 = x from bits_eq (F 1)]

theorem adrainR (d : BitVec 5) (k : BitVec 1) (b : BitVec 4) (z : BitVec 1) (x : BitVec 1) (w : BitVec 1) : Statement (.adrainR d k b z x w) := by
  refine of_cat (w := pack 0xC4000281 [encFld d 21, encFld k 16, encFld b 11, encFld z 6, encFld x 2, encFld w 1]) (ps := [(1, 0x1), (1, w.toNat), (1, x.toNat), (3, 0x0), (1, z.toNat), (4, 0x5), (4, b.toNat), (1, 0x0), (1, k.toNat), (4, 0x0), (5, d.toNat), (6, 0x31)])
    ⟨by decide, w.isLt, x.isLt, by decide, z.isLt, by decide, b.isLt, by decide, k.isLt, by decide, d.isLt, by decide, trivial⟩ rfl ?_ (fun N F lt => ?_) rfl
  · rw [pack_cons, pack_cons, pack_cons, pack_cons, pack_cons, pack_cons, pack_nil, encFld_eq, encFld_eq, encFld_eq, encFld_eq, encFld_eq, encFld_eq]; simp only [cat_cons, cat_nil]; omega
  rw [raw31 (major_of lt (F 11))]
  delta decodeMajor31
  have f0_1 : fld N 0 1 = 0x1 := F 0
  have f7_4 : fld N 7 4 = 0x5 := F 5
  have f3_3 : fld N 3 3 = 0x0 := F 3
  have f15_1 : fld N 15 1 = 0x0 := F 7
  have f17_4 : fld N 17 4 = 0x0 := F 9
  refine (if_neg (fun h => absurd (f0_1.symm.trans (fld_part 0 1 h.1 (by decide))) (by decide))).trans ?_
  refine (if_neg (fun h => absurd (f7_4.symm.trans h.1) (by decide))).trans ?_
  refine (if_neg (fun h => absurd (f0_1.symm.trans (fld_part 0 1 h.1 (by decide))) (by decide))).trans ?_
  refine (if_neg (fun h => absurd (f0_1.symm.trans (fld_part 0 1 h.1 (by decide))) (by decide))).trans ?_
  refine (if_neg (fun h => absurd (f0_1.symm.trans (fld_part 0 1 h.1 (by decide))) (by decide))).trans ?_
  refine (if_neg (fun h => absurd (f0_1.symm.trans (fld_part 0 1 h.1 (by decide))) (by decide))).trans ?_
  refine (if_pos ⟨f0_1, f3_3, f7_4, f15_1, f17_4⟩).trans ?_
  rw [show bits N 21 5 = d from bits_eq (F 10)]
  rw [show bits N 16 1 = k from bits_eq (F 8)]
  rw [show bits N 11 4 = b from bits_eq (F 6)]
  rw [show bits N 6 1 = z from bits_eq (F 4)]
  rw [show bits N 2 1 = x from bits_eq (F 2)]
  rw [show bits N 1 1 = w from bits_eq (F 1)]

theorem tadd (d : BitVec 5) (a : BitVec 5) (b : BitVec 5) (z : BitVec 1) (y : BitVec 1) : Statement (.tadd d a b z y) := by
  refine of_cat (w := pack 0xC8000000 [encFld d 21, encFld a 16, encFld b 11, encFld z 6, encFld y 5]) (ps := [(5, 0x0), (1, y.toNat), (1, z.toNat), (4, 0x0), (5, b.toNat), (5, a.toNat), (5, d.toNat), (6, 0x32)])
    ⟨by decide, y.isLt, z.isLt, by decide, b.isLt, a.isLt, d.isLt, by decide, trivial⟩ rfl ?_ (fun N F lt => ?_) rfl
  · rw [pack_cons, pack_cons, pack_cons, pack_cons, pack_cons, pack_nil, encFld_eq, encFld_eq, encFld_eq, encFld_eq, encFld_eq]; simp only [cat_cons, cat_nil]; omega
  rw [raw32 (major_of lt (F 7))]
  delta decodeMajor32
  have f0_5 : fld N 0 5 = 0x0 := F 0
  have f7_4 : fld N 7 4 = 0x0 := F 3
  refine (if_pos ⟨f0_5, f7_4⟩).trans ?_
  rw [show bits N 21 5 = d from bits_eq (F 6)]
  rw [show bits N 16 5 = a from bits_eq (F 5)]
  rw [show bits N 11 5 = b from bits_eq (F 4)]
  rw [show bits N 6 1 = z from bits_eq (F 2)]
  rw [show bits N 5 1 = y from bits_eq (F 1)]

theorem tmul (d : BitVec 5) (a : BitVec 5) (b : BitVec 5) (z : BitVec 1) (y : BitVec 1) : Statement (.tmul d a b z y) := by
  refine of_cat (w := pack 0xC8000080 [encFld d 21, encFld a 16, encFld b 11, encFld z 6, encFld y 5]) (ps := [(5, 0x0), (1, y.toNat), (1, z.toNat), (4, 0x1), (5, b.toNat), (5, a.toNat), (5, d.toNat), (6, 0x32)])
    ⟨by decide, y.isLt, z.isLt, by decide, b.isLt, a.isLt, d.isLt, by decide, trivial⟩ rfl ?_ (fun N F lt => ?_) rfl
  · rw [pack_cons, pack_cons, pack_cons, pack_cons, pack_cons, pack_nil, encFld_eq, encFld_eq, encFld_eq, encFld_eq, encFld_eq]; simp only [cat_cons, cat_nil]; omega
  rw [raw32 (major_of lt (F 7))]
  delta decodeMajor32
  have f7_4 : fld N 7 4 = 0x1 := F 3
  have f0_5 : fld N 0 5 = 0x0 := F 0
  refine (if_neg (fun h => absurd (f7_4.symm.trans h.2) (by decide))).trans ?_
  refine (if_pos ⟨f0_5, f7_4⟩).trans ?_
  rw [show bits N 21 5 = d from bits_eq (F 6)]
  rw [show bits N 16 5 = a from bits_eq (F 5)]
  rw [show bits N 11 5 = b from bits_eq (F 4)]
  rw [show bits N 6 1 = z from bits_eq (F 2)]
  rw [show bits N 5 1 = y from bits_eq (F 1)]

theorem tact (d : BitVec 5) (a : BitVec 5) (s : BitVec 5) (z : BitVec 1) (y : BitVec 1) (f : BitVec 3) : Statement (.tact d a s z y f) := by
  refine of_cat (w := pack 0xC8000100 [encFld d 21, encFld a 16, encFld s 11, encFld z 6, encFld y 5, encFld f 0]) (ps := [(3, f.toNat), (2, 0x0), (1, y.toNat), (1, z.toNat), (4, 0x2), (5, s.toNat), (5, a.toNat), (5, d.toNat), (6, 0x32)])
    ⟨f.isLt, by decide, y.isLt, z.isLt, by decide, s.isLt, a.isLt, d.isLt, by decide, trivial⟩ rfl ?_ (fun N F lt => ?_) rfl
  · rw [pack_cons, pack_cons, pack_cons, pack_cons, pack_cons, pack_cons, pack_nil, encFld_eq, encFld_eq, encFld_eq, encFld_eq, encFld_eq, encFld_eq]; simp only [cat_cons, cat_nil]; omega
  rw [raw32 (major_of lt (F 8))]
  delta decodeMajor32
  have f7_4 : fld N 7 4 = 0x2 := F 4
  have f3_2 : fld N 3 2 = 0x0 := F 1
  refine (if_neg (fun h => absurd (f7_4.symm.trans h.2) (by decide))).trans ?_
  refine (if_neg (fun h => absurd (f7_4.symm.trans h.2) (by decide))).trans ?_
  refine (if_pos ⟨f3_2, f7_4⟩).trans ?_
  rw [show bits N 21 5 = d from bits_eq (F 7)]
  rw [show bits N 16 5 = a from bits_eq (F 6)]
  rw [show bits N 11 5 = s from bits_eq (F 5)]
  rw [show bits N 6 1 = z from bits_eq (F 3)]
  rw [show bits N 5 1 = y from bits_eq (F 2)]
  rw [show bits N 0 3 = f from bits_eq (F 0)]

theorem tsum (d : BitVec 5) (a : BitVec 5) (z : BitVec 1) (y : BitVec 1) : Statement (.tsum d a z y) := by
  refine of_cat (w := pack 0xC8000180 [encFld d 21, encFld a 16, encFld z 6, encFld y 5]) (ps := [(5, 0x0), (1, y.toNat), (1, z.toNat), (9, 0x3), (5, a.toNat), (5, d.toNat), (6, 0x32)])
    ⟨by decide, y.isLt, z.isLt, by decide, a.isLt, d.isLt, by decide, trivial⟩ rfl ?_ (fun N F lt => ?_) rfl
  · rw [pack_cons, pack_cons, pack_cons, pack_cons, pack_nil, encFld_eq, encFld_eq, encFld_eq, encFld_eq]; simp only [cat_cons, cat_nil]; omega
  rw [raw32 (major_of lt (F 6))]
  delta decodeMajor32
  have f7_9 : fld N 7 9 = 0x3 := F 3
  have f0_5 : fld N 0 5 = 0x0 := F 0
  refine (if_neg (fun h => absurd ((fld_part 0 4 f7_9 (by decide)).symm.trans h.2) (by decide))).trans ?_
  refine (if_neg (fun h => absurd ((fld_part 0 4 f7_9 (by decide)).symm.trans h.2) (by decide))).trans ?_
  refine (if_neg (fun h => absurd ((fld_part 0 4 f7_9 (by decide)).symm.trans h.2) (by decide))).trans ?_
  refine (if_pos ⟨f0_5, f7_9⟩).trans ?_
  rw [show bits N 21 5 = d from bits_eq (F 5)]
  rw [show bits N 16 5 = a from bits_eq (F 4)]
  rw [show bits N 6 1 = z from bits_eq (F 2)]
  rw [show bits N 5 1 = y from bits_eq (F 1)]

theorem ttrn (d : BitVec 5) (a : BitVec 5) : Statement (.ttrn d a) := by
  refine of_cat (w := pack 0xC8000200 [encFld d 21, encFld a 16]) (ps := [(16, 0x200), (5, a.toNat), (5, d.toNat), (6, 0x32)])
    ⟨by decide, a.isLt, d.isLt, by decide, trivial⟩ rfl ?_ (fun N F lt => ?_) rfl
  · rw [pack_cons, pack_cons, pack_nil, encFld_eq, encFld_eq]; simp only [cat_cons, cat_nil]; omega
  rw [raw32 (major_of lt (F 3))]
  delta decodeMajor32
  have f0_16 : fld N 0 16 = 0x200 := F 0
  refine (if_neg (fun h => absurd ((fld_part 7 4 f0_16 (by decide)).symm.trans h.2) (by decide))).trans ?_
  refine (if_neg (fun h => absurd ((fld_part 7 4 f0_16 (by decide)).symm.trans h.2) (by decide))).trans ?_
  refine (if_neg (fun h => absurd ((fld_part 7 4 f0_16 (by decide)).symm.trans h.2) (by decide))).trans ?_
  refine (if_neg (fun h => absurd ((fld_part 7 9 f0_16 (by decide)).symm.trans h.2) (by decide))).trans ?_
  refine (if_pos f0_16).trans ?_
  rw [show bits N 21 5 = d from bits_eq (F 2)]
  rw [show bits N 16 5 = a from bits_eq (F 1)]

theorem tapon (d : BitVec 4) (a : Src) : Statement (.tapon d a) := by
  refine of_cat (w := pack 0xD0000000 [encFld d 22, encSrc a 18 16]) (ps := [(16, 0x0), (2, a.mode.toNat), (4, a.reg.toNat), (4, d.toNat), (6, 0x34)])
    ⟨by decide, a.mode.isLt, a.reg.isLt, d.isLt, by decide, trivial⟩ rfl ?_ (fun N F lt => ?_) rfl
  · rw [pack_cons, pack_cons, pack_nil, encFld_eq, encSrc_eq]; simp only [cat_cons, cat_nil]; omega
  rw [raw34 (major_of lt (F 4))]
  delta decodeMajor34
  have f0_16 : fld N 0 16 = 0x0 := F 0
  refine (if_pos f0_16).trans ?_
  rw [show bits N 22 4 = d from bits_eq (F 3)]
  rw [show (⟨bits N 18 4, bits N 16 2⟩ : Src) = a from src_eq (F 2) (F 1)]

theorem taponR (d : BitVec 4) (a : Src) : Statement (.taponR d a) := by
  refine of_cat (w := pack 0xD0000010 [encFld d 22, encSrc a 18 16]) (ps := [(16, 0x10), (2, a.mode.toNat), (4, a.reg.toNat), (4, d.toNat), (6, 0x34)])
    ⟨by decide, a.mode.isLt, a.reg.isLt, d.isLt, by decide, trivial⟩ rfl ?_ (fun N F lt => ?_) rfl
  · rw [pack_cons, pack_cons, pack_nil, encFld_eq, encSrc_eq]; simp only [cat_cons, cat_nil]; omega
  rw [raw34 (major_of lt (F 4))]
  delta decodeMajor34
  have f0_16 : fld N 0 16 = 0x10 := F 0
  refine skip f0_16 (by decide) ?_
  refine (if_pos f0_16).trans ?_
  rw [show bits N 22 4 = d from bits_eq (F 3)]
  rw [show (⟨bits N 18 4, bits N 16 2⟩ : Src) = a from src_eq (F 2) (F 1)]

theorem tapoff : Statement (.tapoff) := by
  refine of_cat (w := 0xD0000020) (ps := [(32, 0xD0000020)])
    ⟨by decide, trivial⟩ rfl ?_ (fun N F lt => ?_) rfl
  · decide
  rw [raw34 (major_of lt (fld_part (n := N) (lo := 0) (w := 32) (v := 0xD0000020) 26 6 (F 0) (by decide)))]
  delta decodeMajor34
  have f0_32 : fld N 0 32 = 0xD0000020 := F 0
  refine skip (fld_part 0 16 f0_32 (by decide)) (by decide) ?_
  refine skip (fld_part 0 16 f0_32 (by decide)) (by decide) ?_
  refine (if_pos f0_32).trans ?_
  rfl

theorem tapoffX : Statement (.tapoffX) := by
  refine of_cat (w := 0xD0000030) (ps := [(32, 0xD0000030)])
    ⟨by decide, trivial⟩ rfl ?_ (fun N F lt => ?_) rfl
  · decide
  rw [raw34 (major_of lt (fld_part (n := N) (lo := 0) (w := 32) (v := 0xD0000030) 26 6 (F 0) (by decide)))]
  delta decodeMajor34
  have f0_32 : fld N 0 32 = 0xD0000030 := F 0
  refine skip (fld_part 0 16 f0_32 (by decide)) (by decide) ?_
  refine skip (fld_part 0 16 f0_32 (by decide)) (by decide) ?_
  refine skip f0_32 (by decide) ?_
  refine (if_pos f0_32).trans ?_
  rfl

theorem tmark (d : BitVec 4) : Statement (.tmark d) := by
  refine of_cat (w := pack 0xD0000040 [encFld d 22]) (ps := [(22, 0x40), (4, d.toNat), (6, 0x34)])
    ⟨by decide, d.isLt, by decide, trivial⟩ rfl ?_ (fun N F lt => ?_) rfl
  · rw [pack_cons, pack_nil, encFld_eq]; simp only [cat_cons, cat_nil]; omega
  rw [raw34 (major_of lt (F 2))]
  delta decodeMajor34
  have f0_22 : fld N 0 22 = 0x40 := F 0
  refine skip (fld_part 0 16 f0_22 (by decide)) (by decide) ?_
  refine skip (fld_part 0 16 f0_22 (by decide)) (by decide) ?_
  refine (if_neg (fun h => absurd (f0_22.symm.trans (fld_part 0 22 h (by decide))) (by decide))).trans ?_
  refine (if_neg (fun h => absurd (f0_22.symm.trans (fld_part 0 22 h (by decide))) (by decide))).trans ?_
  refine (if_pos f0_22).trans ?_
  rw [show bits N 22 4 = d from bits_eq (F 1)]

theorem reverse (d : BitVec 4) (a : Src) : Statement (.reverse d a) := by
  refine of_cat (w := pack 0xD0000060 [encFld d 22, encSrc a 18 16]) (ps := [(16, 0x60), (2, a.mode.toNat), (4, a.reg.toNat), (4, d.toNat), (6, 0x34)])
    ⟨by decide, a.mode.isLt, a.reg.isLt, d.isLt, by decide, trivial⟩ rfl ?_ (fun N F lt => ?_) rfl
  · rw [pack_cons, pack_cons, pack_nil, encFld_eq, encSrc_eq]; simp only [cat_cons, cat_nil]; omega
  rw [raw34 (major_of lt (F 4))]
  delta decodeMajor34
  have f0_16 : fld N 0 16 = 0x60 := F 0
  refine skip f0_16 (by decide) ?_
  refine skip f0_16 (by decide) ?_
  refine (if_neg (fun h => absurd (f0_16.symm.trans (fld_part 0 16 h (by decide))) (by decide))).trans ?_
  refine (if_neg (fun h => absurd (f0_16.symm.trans (fld_part 0 16 h (by decide))) (by decide))).trans ?_
  refine (if_neg (fun h => absurd (f0_16.symm.trans (fld_part 0 16 h (by decide))) (by decide))).trans ?_
  refine (if_pos f0_16).trans ?_
  rw [show bits N 22 4 = d from bits_eq (F 3)]
  rw [show (⟨bits N 18 4, bits N 16 2⟩ : Src) = a from src_eq (F 2) (F 1)]

theorem tspill (d : BitVec 4) (a : Src) : Statement (.tspill d a) := by
  refine of_cat (w := pack 0xD0000080 [encFld d 22, encSrc a 18 16]) (ps := [(16, 0x80), (2, a.mode.toNat), (4, a.reg.toNat), (4, d.toNat), (6, 0x34)])
    ⟨by decide, a.mode.isLt, a.reg.isLt, d.isLt, by decide, trivial⟩ rfl ?_ (fun N F lt => ?_) rfl
  · rw [pack_cons, pack_cons, pack_nil, encFld_eq, encSrc_eq]; simp only [cat_cons, cat_nil]; omega
  rw [raw34 (major_of lt (F 4))]
  delta decodeMajor34
  have f0_16 : fld N 0 16 = 0x80 := F 0
  refine skip f0_16 (by decide) ?_
  refine skip f0_16 (by decide) ?_
  refine (if_neg (fun h => absurd (f0_16.symm.trans (fld_part 0 16 h (by decide))) (by decide))).trans ?_
  refine (if_neg (fun h => absurd (f0_16.symm.trans (fld_part 0 16 h (by decide))) (by decide))).trans ?_
  refine (if_neg (fun h => absurd (f0_16.symm.trans (fld_part 0 16 h (by decide))) (by decide))).trans ?_
  refine skip f0_16 (by decide) ?_
  refine (if_pos f0_16).trans ?_
  rw [show bits N 22 4 = d from bits_eq (F 3)]
  rw [show (⟨bits N 18 4, bits N 16 2⟩ : Src) = a from src_eq (F 2) (F 1)]

theorem tapst (d : BitVec 4) (a : Src) : Statement (.tapst d a) := by
  refine of_cat (w := pack 0xD00000A0 [encFld d 22, encSrc a 18 16]) (ps := [(16, 0xA0), (2, a.mode.toNat), (4, a.reg.toNat), (4, d.toNat), (6, 0x34)])
    ⟨by decide, a.mode.isLt, a.reg.isLt, d.isLt, by decide, trivial⟩ rfl ?_ (fun N F lt => ?_) rfl
  · rw [pack_cons, pack_cons, pack_nil, encFld_eq, encSrc_eq]; simp only [cat_cons, cat_nil]; omega
  rw [raw34 (major_of lt (F 4))]
  delta decodeMajor34
  have f0_16 : fld N 0 16 = 0xA0 := F 0
  refine skip f0_16 (by decide) ?_
  refine skip f0_16 (by decide) ?_
  refine (if_neg (fun h => absurd (f0_16.symm.trans (fld_part 0 16 h (by decide))) (by decide))).trans ?_
  refine (if_neg (fun h => absurd (f0_16.symm.trans (fld_part 0 16 h (by decide))) (by decide))).trans ?_
  refine (if_neg (fun h => absurd (f0_16.symm.trans (fld_part 0 16 h (by decide))) (by decide))).trans ?_
  refine skip f0_16 (by decide) ?_
  refine skip f0_16 (by decide) ?_
  refine (if_pos f0_16).trans ?_
  rw [show bits N 22 4 = d from bits_eq (F 3)]
  rw [show (⟨bits N 18 4, bits N 16 2⟩ : Src) = a from src_eq (F 2) (F 1)]

theorem spld (a : Src) (b : Src) : Statement (.spld a b) := by
  refine of_cat (w := pack 0xD8000000 [encSrc a 18 16, encSrc b 12 10]) (ps := [(10, 0x0), (2, b.mode.toNat), (4, b.reg.toNat), (2, a.mode.toNat), (4, a.reg.toNat), (10, 0x360)])
    ⟨by decide, b.mode.isLt, b.reg.isLt, a.mode.isLt, a.reg.isLt, by decide, trivial⟩ rfl ?_ (fun N F lt => ?_) rfl
  · rw [pack_cons, pack_cons, pack_nil, encSrc_eq, encSrc_eq]; simp only [cat_cons, cat_nil]; omega
  rw [raw36 (major_of lt (fld_part (n := N) (lo := 22) (w := 10) (v := 0x360) 4 6 (F 5) (by decide)))]
  delta decodeMajor36
  have f0_10 : fld N 0 10 = 0x0 := F 0
  have f22_10 : fld N 22 10 = 0x360 := F 5
  refine (if_pos ⟨f0_10, f22_10⟩).trans ?_
  rw [show (⟨bits N 18 4, bits N 16 2⟩ : Src) = a from src_eq (F 4) (F 3)]
  rw [show (⟨bits N 12 4, bits N 10 2⟩ : Src) = b from src_eq (F 2) (F 1)]

theorem spldZ (a : Src) : Statement (.spldZ a) := by
  refine of_cat (w := pack 0xD8000001 [encSrc a 18 16]) (ps := [(16, 0x1), (2, a.mode.toNat), (4, a.reg.toNat), (10, 0x360)])
    ⟨by decide, a.mode.isLt, a.reg.isLt, by decide, trivial⟩ rfl ?_ (fun N F lt => ?_) rfl
  · rw [pack_cons, pack_nil, encSrc_eq]; simp only [cat_cons, cat_nil]; omega
  rw [raw36 (major_of lt (fld_part (n := N) (lo := 22) (w := 10) (v := 0x360) 4 6 (F 3) (by decide)))]
  delta decodeMajor36
  have f0_16 : fld N 0 16 = 0x1 := F 0
  have f22_10 : fld N 22 10 = 0x360 := F 3
  refine (if_neg (fun h => absurd ((fld_part 0 10 f0_16 (by decide)).symm.trans h.1) (by decide))).trans ?_
  refine (if_pos ⟨f0_16, f22_10⟩).trans ?_
  rw [show (⟨bits N 18 4, bits N 16 2⟩ : Src) = a from src_eq (F 2) (F 1)]

theorem spst (a : Src) (b : Src) : Statement (.spst a b) := by
  refine of_cat (w := pack 0xD8000080 [encSrc a 18 16, encSrc b 12 10]) (ps := [(10, 0x80), (2, b.mode.toNat), (4, b.reg.toNat), (2, a.mode.toNat), (4, a.reg.toNat), (10, 0x360)])
    ⟨by decide, b.mode.isLt, b.reg.isLt, a.mode.isLt, a.reg.isLt, by decide, trivial⟩ rfl ?_ (fun N F lt => ?_) rfl
  · rw [pack_cons, pack_cons, pack_nil, encSrc_eq, encSrc_eq]; simp only [cat_cons, cat_nil]; omega
  rw [raw36 (major_of lt (fld_part (n := N) (lo := 22) (w := 10) (v := 0x360) 4 6 (F 5) (by decide)))]
  delta decodeMajor36
  have f0_10 : fld N 0 10 = 0x80 := F 0
  have f22_10 : fld N 22 10 = 0x360 := F 5
  refine (if_neg (fun h => absurd (f0_10.symm.trans h.1) (by decide))).trans ?_
  refine (if_neg (fun h => absurd (f0_10.symm.trans (fld_part 0 10 h.1 (by decide))) (by decide))).trans ?_
  refine (if_pos ⟨f0_10, f22_10⟩).trans ?_
  rw [show (⟨bits N 18 4, bits N 16 2⟩ : Src) = a from src_eq (F 4) (F 3)]
  rw [show (⟨bits N 12 4, bits N 10 2⟩ : Src) = b from src_eq (F 2) (F 1)]

theorem spw (a : Src) (b : Src) : Statement (.spw a b) := by
  refine of_cat (w := pack 0xD8000100 [encSrc a 18 16, encSrc b 12 10]) (ps := [(10, 0x100), (2, b.mode.toNat), (4, b.reg.toNat), (2, a.mode.toNat), (4, a.reg.toNat), (10, 0x360)])
    ⟨by decide, b.mode.isLt, b.reg.isLt, a.mode.isLt, a.reg.isLt, by decide, trivial⟩ rfl ?_ (fun N F lt => ?_) rfl
  · rw [pack_cons, pack_cons, pack_nil, encSrc_eq, encSrc_eq]; simp only [cat_cons, cat_nil]; omega
  rw [raw36 (major_of lt (fld_part (n := N) (lo := 22) (w := 10) (v := 0x360) 4 6 (F 5) (by decide)))]
  delta decodeMajor36
  have f0_10 : fld N 0 10 = 0x100 := F 0
  have f22_10 : fld N 22 10 = 0x360 := F 5
  refine (if_neg (fun h => absurd (f0_10.symm.trans h.1) (by decide))).trans ?_
  refine (if_neg (fun h => absurd (f0_10.symm.trans (fld_part 0 10 h.1 (by decide))) (by decide))).trans ?_
  refine (if_neg (fun h => absurd (f0_10.symm.trans h.1) (by decide))).trans ?_
  refine (if_pos ⟨f0_10, f22_10⟩).trans ?_
  rw [show (⟨bits N 18 4, bits N 16 2⟩ : Src) = a from src_eq (F 4) (F 3)]
  rw [show (⟨bits N 12 4, bits N 10 2⟩ : Src) = b from src_eq (F 2) (F 1)]

theorem spu (d : BitVec 4) (a : Src) (z : BitVec 1) (y : BitVec 1) : Statement (.spu d a z y) := by
  refine of_cat (w := pack 0xD8000180 [encFld d 22, encSrc a 18 16, encFld z 6, encFld y 5]) (ps := [(5, 0x0), (1, y.toNat), (1, z.toNat), (9, 0x3), (2, a.mode.toNat), (4, a.reg.toNat), (4, d.toNat), (6, 0x36)])
    ⟨by decide, y.isLt, z.isLt, by decide, a.mode.isLt, a.reg.isLt, d.isLt, by decide, trivial⟩ rfl ?_ (fun N F lt => ?_) rfl
  · rw [pack_cons, pack_cons, pack_cons, pack_cons, pack_nil, encFld_eq, encSrc_eq, encFld_eq, encFld_eq]; simp only [cat_cons, cat_nil]; omega
  rw [raw36 (major_of lt (F 7))]
  delta decodeMajor36
  have f7_9 : fld N 7 9 = 0x3 := F 3
  have f0_5 : fld N 0 5 = 0x0 := F 0
  refine (if_neg (fun h => absurd ((fld_part 0 3 f7_9 (by decide)).symm.trans (fld_part 7 3 h.1 (by decide))) (by decide))).trans ?_
  refine (if_neg (fun h => absurd (f0_5.symm.trans (fld_part 0 5 h.1 (by decide))) (by decide))).trans ?_
  refine (if_neg (fun h => absurd ((fld_part 0 3 f7_9 (by decide)).symm.trans (fld_part 7 3 h.1 (by decide))) (by decide))).trans ?_
  refine (if_neg (fun h => absurd ((fld_part 0 3 f7_9 (by decide)).symm.trans (fld_part 7 3 h.1 (by decide))) (by decide))).trans ?_
  refine (if_pos ⟨f0_5, f7_9⟩).trans ?_
  rw [show bits N 22 4 = d from bits_eq (F 6)]
  rw [show (⟨bits N 18 4, bits N 16 2⟩ : Src) = a from src_eq (F 5) (F 4)]
  rw [show bits N 6 1 = z from bits_eq (F 2)]
  rw [show bits N 5 1 = y from bits_eq (F 1)]

theorem spd (d : BitVec 4) (a : Src) (z : BitVec 1) (y : BitVec 1) : Statement (.spd d a z y) := by
  refine of_cat (w := pack 0xD8000200 [encFld d 22, encSrc a 18 16, encFld z 6, encFld y 5]) (ps := [(5, 0x0), (1, y.toNat), (1, z.toNat), (9, 0x4), (2, a.mode.toNat), (4, a.reg.toNat), (4, d.toNat), (6, 0x36)])
    ⟨by decide, y.isLt, z.isLt, by decide, a.mode.isLt, a.reg.isLt, d.isLt, by decide, trivial⟩ rfl ?_ (fun N F lt => ?_) rfl
  · rw [pack_cons, pack_cons, pack_cons, pack_cons, pack_nil, encFld_eq, encSrc_eq, encFld_eq, encFld_eq]; simp only [cat_cons, cat_nil]; omega
  rw [raw36 (major_of lt (F 7))]
  delta decodeMajor36
  have f7_9 : fld N 7 9 = 0x4 := F 3
  have f0_5 : fld N 0 5 = 0x0 := F 0
  refine (if_neg (fun h => absurd ((fld_part 0 3 f7_9 (by decide)).symm.trans (fld_part 7 3 h.1 (by decide))) (by decide))).trans ?_
  refine (if_neg (fun h => absurd (f0_5.symm.trans (fld_part 0 5 h.1 (by decide))) (by decide))).trans ?_
  refine (if_neg (fun h => absurd ((fld_part 0 3 f7_9 (by decide)).symm.trans (fld_part 7 3 h.1 (by decide))) (by decide))).trans ?_
  refine (if_neg (fun h => absurd ((fld_part 0 3 f7_9 (by decide)).symm.trans (fld_part 7 3 h.1 (by decide))) (by decide))).trans ?_
  refine (if_neg (fun h => absurd (f7_9.symm.trans h.2) (by decide))).trans ?_
  refine (if_pos ⟨f0_5, f7_9⟩).trans ?_
  rw [show bits N 22 4 = d from bits_eq (F 6)]
  rw [show (⟨bits N 18 4, bits N 16 2⟩ : Src) = a from src_eq (F 5) (F 4)]
  rw [show bits N 6 1 = z from bits_eq (F 2)]
  rw [show bits N 5 1 = y from bits_eq (F 1)]

theorem spmode (d : BitVec 4) (a : Src) (b : Src) : Statement (.spmode d a b) := by
  refine of_cat (w := pack 0xD8000280 [encFld d 22, encSrc a 18 16, encSrc b 12 10]) (ps := [(10, 0x280), (2, b.mode.toNat), (4, b.reg.toNat), (2, a.mode.toNat), (4, a.reg.toNat), (4, d.toNat), (6, 0x36)])
    ⟨by decide, b.mode.isLt, b.reg.isLt, a.mode.isLt, a.reg.isLt, d.isLt, by decide, trivial⟩ rfl ?_ (fun N F lt => ?_) rfl
  · rw [pack_cons, pack_cons, pack_cons, pack_nil, encFld_eq, encSrc_eq, encSrc_eq]; simp only [cat_cons, cat_nil]; omega
  rw [raw36 (major_of lt (F 6))]
  delta decodeMajor36
  have f0_10 : fld N 0 10 = 0x280 := F 0
  refine (if_neg (fun h => absurd (f0_10.symm.trans h.1) (by decide))).trans ?_
  refine (if_neg (fun h => absurd (f0_10.symm.trans (fld_part 0 10 h.1 (by decide))) (by decide))).trans ?_
  refine (if_neg (fun h => absurd (f0_10.symm.trans h.1) (by decide))).trans ?_
  refine (if_neg (fun h => absurd (f0_10.symm.trans h.1) (by decide))).trans ?_
  refine (if_neg (fun h => absurd ((fld_part 7 3 f0_10 (by decide)).symm.trans (fld_part 0 3 h.2 (by decide))) (by decide))).trans ?_
  refine (if_neg (fun h => absurd ((fld_part 7 3 f0_10 (by decide)).symm.trans (fld_part 0 3 h.2 (by decide))) (by decide))).trans ?_
  refine (if_pos f0_10).trans ?_
  rw [show bits N 22 4 = d from bits_eq (F 5)]
  rw [show (⟨bits N 18 4, bits N 16 2⟩ : Src) = a from src_eq (F 4) (F 3)]
  rw [show (⟨bits N 12 4, bits N 10 2⟩ : Src) = b from src_eq (F 2) (F 1)]

theorem spcvt (a : Src) (b : Src) (z : BitVec 1) (y : BitVec 1) : Statement (.spcvt a b z y) := by
  refine of_cat (w := pack 0xD8000300 [encSrc a 18 16, encSrc b 12 10, encFld z 6, encFld y 5]) (ps := [(5, 0x0), (1, y.toNat), (1, z.toNat), (3, 0x6), (2, b.mode.toNat), (4, b.reg.toNat), (2, a.mode.toNat), (4, a.reg.toNat), (10, 0x360)])
    ⟨by decide, y.isLt, z.isLt, by decide, b.mode.isLt, b.reg.isLt, a.mode.isLt, a.reg.isLt, by decide, trivial⟩ rfl ?_ (fun N F lt => ?_) rfl
  · rw [pack_cons, pack_cons, pack_cons, pack_cons, pack_nil, encSrc_eq, encSrc_eq, encFld_eq, encFld_eq]; simp only [cat_cons, cat_nil]; omega
  rw [raw36 (major_of lt (fld_part (n := N) (lo := 22) (w := 10) (v := 0x360) 4 6 (F 8) (by decide)))]
  delta decodeMajor36
  have f7_3 : fld N 7 3 = 0x6 := F 3
  have f0_5 : fld N 0 5 = 0x0 := F 0
  have f22_10 : fld N 22 10 = 0x360 := F 8
  refine (if_neg (fun h => absurd (f7_3.symm.trans (fld_part 7 3 h.1 (by decide))) (by decide))).trans ?_
  refine (if_neg (fun h => absurd (f0_5.symm.trans (fld_part 0 5 h.1 (by decide))) (by decide))).trans ?_
  refine (if_neg (fun h => absurd (f7_3.symm.trans (fld_part 7 3 h.1 (by decide))) (by decide))).trans ?_
  refine (if_neg (fun h => absurd (f7_3.symm.trans (fld_part 7 3 h.1 (by decide))) (by decide))).trans ?_
  refine (if_neg (fun h => absurd (f7_3.symm.trans (fld_part 0 3 h.2 (by decide))) (by decide))).trans ?_
  refine (if_neg (fun h => absurd (f7_3.symm.trans (fld_part 0 3 h.2 (by decide))) (by decide))).trans ?_
  refine (if_neg (fun h => absurd (f7_3.symm.trans (fld_part 7 3 h (by decide))) (by decide))).trans ?_
  refine (if_pos ⟨f0_5, f7_3, f22_10⟩).trans ?_
  rw [show (⟨bits N 18 4, bits N 16 2⟩ : Src) = a from src_eq (F 7) (F 6)]
  rw [show (⟨bits N 12 4, bits N 10 2⟩ : Src) = b from src_eq (F 5) (F 4)]
  rw [show bits N 6 1 = z from bits_eq (F 2)]
  rw [show bits N 5 1 = y from bits_eq (F 1)]

theorem spstat (d : BitVec 4) (c : BitVec 1) : Statement (.spstat d c) := by
  refine of_cat (w := pack 0xD8000380 [encFld d 22, encFld c 0]) (ps := [(1, c.toNat), (21, 0x1C0), (4, d.toNat), (6, 0x36)])
    ⟨c.isLt, by decide, d.isLt, by decide, trivial⟩ rfl ?_ (fun N F lt => ?_) rfl
  · rw [pack_cons, pack_cons, pack_nil, encFld_eq, encFld_eq]; simp only [cat_cons, cat_nil]; omega
  rw [raw36 (major_of lt (F 3))]
  delta decodeMajor36
  have f1_21 : fld N 1 21 = 0x1C0 := F 1
  refine (if_neg (fun h => absurd ((fld_part 0 9 f1_21 (by decide)).symm.trans (fld_part 1 9 h.1 (by decide))) (by decide))).trans ?_
  refine (if_neg (fun h => absurd ((fld_part 0 15 f1_21 (by decide)).symm.trans (fld_part 1 15 h.1 (by decide))) (by decide))).trans ?_
  refine (if_neg (fun h => absurd ((fld_part 0 9 f1_21 (by decide)).symm.trans (fld_part 1 9 h.1 (by decide))) (by decide))).trans ?_
  refine (if_neg (fun h => absurd ((fld_part 0 9 f1_21 (by decide)).symm.trans (fld_part 1 9 h.1 (by decide))) (by decide))).trans ?_
  refine (if_neg (fun h => absurd ((fld_part 6 9 f1_21 (by decide)).symm.trans h.2) (by decide))).trans ?_
  refine (if_neg (fun h => absurd ((fld_part 6 9 f1_21 (by decide)).symm.trans h.2) (by decide))).trans ?_
  refine (if_neg (fun h => absurd ((fld_part 0 9 f1_21 (by decide)).symm.trans (fld_part 1 9 h (by decide))) (by decide))).trans ?_
  refine (if_neg (fun h => absurd ((fld_part 6 3 f1_21 (by decide)).symm.trans h.2.1) (by decide))).trans ?_
  refine (if_pos f1_21).trans ?_
  rw [show bits N 22 4 = d from bits_eq (F 2)]
  rw [show bits N 0 1 = c from bits_eq (F 0)]

theorem rgo (d : BitVec 4) (a : Src) (o : BitVec 11) : Statement (.rgo d a o) := by
  refine of_cat (w := pack 0xE0000000 [encFld d 22, encSrc a 18 16, encSplit o 5 10 0]) (ps := [(5, o.toNat % 2 ^ 5), (5, 0x0), (6, o.toNat / 2 ^ 5), (2, a.mode.toNat), (4, a.reg.toNat), (4, d.toNat), (6, 0x38)])
    ⟨Nat.mod_lt _ (by decide), by decide, Nat.div_lt_of_lt_mul o.isLt, a.mode.isLt, a.reg.isLt, d.isLt, by decide, trivial⟩ rfl ?_ (fun N F lt => ?_) rfl
  · rw [pack_cons, pack_cons, pack_cons, pack_nil, encFld_eq, encSrc_eq, encSplit_eq]; simp only [cat_cons, cat_nil]; omega
  rw [raw38 (major_of lt (F 6))]
  delta decodeMajor38
  have f5_5 : fld N 5 5 = 0x0 := F 1
  refine (if_pos f5_5).trans ?_
  rw [show bits N 22 4 = d from bits_eq (F 5)]
  rw [show (⟨bits N 18 4, bits N 16 2⟩ : Src) = a from src_eq (F 4) (F 3)]
  rw [show BitVec.ofNat 11 (fld N 10 6 * 2 ^ 5 + fld N 0 5) = o from split_eq (F 2) (F 0)]

theorem rdone : Statement (.rdone) := by
  refine of_cat (w := 0xE0000020) (ps := [(32, 0xE0000020)])
    ⟨by decide, trivial⟩ rfl ?_ (fun N F lt => ?_) rfl
  · decide
  rw [raw38 (major_of lt (fld_part (n := N) (lo := 0) (w := 32) (v := 0xE0000020) 26 6 (F 0) (by decide)))]
  delta decodeMajor38
  have f0_32 : fld N 0 32 = 0xE0000020 := F 0
  refine skip (fld_part 5 5 f0_32 (by decide)) (by decide) ?_
  refine (if_pos f0_32).trans ?_
  rfl

theorem rabort : Statement (.rabort) := by
  refine of_cat (w := 0xE0000040) (ps := [(32, 0xE0000040)])
    ⟨by decide, trivial⟩ rfl ?_ (fun N F lt => ?_) rfl
  · decide
  rw [raw38 (major_of lt (fld_part (n := N) (lo := 0) (w := 32) (v := 0xE0000040) 26 6 (F 0) (by decide)))]
  delta decodeMajor38
  have f0_32 : fld N 0 32 = 0xE0000040 := F 0
  refine skip (fld_part 5 5 f0_32 (by decide)) (by decide) ?_
  refine skip f0_32 (by decide) ?_
  refine (if_pos f0_32).trans ?_
  rfl

theorem permx (d : BitVec 4) (a : Src) (b : Src) : Statement (.permx d a b) := by
  refine of_cat (w := pack 0xE0000060 [encFld d 22, encSrc a 18 16, encSrc b 12 10]) (ps := [(10, 0x60), (2, b.mode.toNat), (4, b.reg.toNat), (2, a.mode.toNat), (4, a.reg.toNat), (4, d.toNat), (6, 0x38)])
    ⟨by decide, b.mode.isLt, b.reg.isLt, a.mode.isLt, a.reg.isLt, d.isLt, by decide, trivial⟩ rfl ?_ (fun N F lt => ?_) rfl
  · rw [pack_cons, pack_cons, pack_cons, pack_nil, encFld_eq, encSrc_eq, encSrc_eq]; simp only [cat_cons, cat_nil]; omega
  rw [raw38 (major_of lt (F 6))]
  delta decodeMajor38
  have f0_10 : fld N 0 10 = 0x60 := F 0
  refine skip (fld_part 5 5 f0_10 (by decide)) (by decide) ?_
  refine (if_neg (fun h => absurd (f0_10.symm.trans (fld_part 0 10 h (by decide))) (by decide))).trans ?_
  refine (if_neg (fun h => absurd (f0_10.symm.trans (fld_part 0 10 h (by decide))) (by decide))).trans ?_
  refine (if_pos f0_10).trans ?_
  rw [show bits N 22 4 = d from bits_eq (F 5)]
  rw [show (⟨bits N 18 4, bits N 16 2⟩ : Src) = a from src_eq (F 4) (F 3)]
  rw [show (⟨bits N 12 4, bits N 10 2⟩ : Src) = b from src_eq (F 2) (F 1)]

theorem peer (d : BitVec 4) (a : Src) (b : Src) : Statement (.peer d a b) := by
  refine of_cat (w := pack 0xE0000080 [encFld d 22, encSrc a 18 16, encSrc b 12 10]) (ps := [(10, 0x80), (2, b.mode.toNat), (4, b.reg.toNat), (2, a.mode.toNat), (4, a.reg.toNat), (4, d.toNat), (6, 0x38)])
    ⟨by decide, b.mode.isLt, b.reg.isLt, a.mode.isLt, a.reg.isLt, d.isLt, by decide, trivial⟩ rfl ?_ (fun N F lt => ?_) rfl
  · rw [pack_cons, pack_cons, pack_cons, pack_nil, encFld_eq, encSrc_eq, encSrc_eq]; simp only [cat_cons, cat_nil]; omega
  rw [raw38 (major_of lt (F 6))]
  delta decodeMajor38
  have f0_10 : fld N 0 10 = 0x80 := F 0
  refine skip (fld_part 5 5 f0_10 (by decide)) (by decide) ?_
  refine (if_neg (fun h => absurd (f0_10.symm.trans (fld_part 0 10 h (by decide))) (by decide))).trans ?_
  refine (if_neg (fun h => absurd (f0_10.symm.trans (fld_part 0 10 h (by decide))) (by decide))).trans ?_
  refine skip f0_10 (by decide) ?_
  refine (if_pos f0_10).trans ?_
  rw [show bits N 22 4 = d from bits_eq (F 5)]
  rw [show (⟨bits N 18 4, bits N 16 2⟩ : Src) = a from src_eq (F 4) (F 3)]
  rw [show (⟨bits N 12 4, bits N 10 2⟩ : Src) = b from src_eq (F 2) (F 1)]

theorem lkey (d : BitVec 4) (a : Src) (b : Src) : Statement (.lkey d a b) := by
  refine of_cat (w := pack 0xE00000A0 [encFld d 22, encSrc a 18 16, encSrc b 12 10]) (ps := [(10, 0xA0), (2, b.mode.toNat), (4, b.reg.toNat), (2, a.mode.toNat), (4, a.reg.toNat), (4, d.toNat), (6, 0x38)])
    ⟨by decide, b.mode.isLt, b.reg.isLt, a.mode.isLt, a.reg.isLt, d.isLt, by decide, trivial⟩ rfl ?_ (fun N F lt => ?_) rfl
  · rw [pack_cons, pack_cons, pack_cons, pack_nil, encFld_eq, encSrc_eq, encSrc_eq]; simp only [cat_cons, cat_nil]; omega
  rw [raw38 (major_of lt (F 6))]
  delta decodeMajor38
  have f0_10 : fld N 0 10 = 0xA0 := F 0
  refine skip (fld_part 5 5 f0_10 (by decide)) (by decide) ?_
  refine (if_neg (fun h => absurd (f0_10.symm.trans (fld_part 0 10 h (by decide))) (by decide))).trans ?_
  refine (if_neg (fun h => absurd (f0_10.symm.trans (fld_part 0 10 h (by decide))) (by decide))).trans ?_
  refine skip f0_10 (by decide) ?_
  refine skip f0_10 (by decide) ?_
  refine (if_pos f0_10).trans ?_
  rw [show bits N 22 4 = d from bits_eq (F 5)]
  rw [show (⟨bits N 18 4, bits N 16 2⟩ : Src) = a from src_eq (F 4) (F 3)]
  rw [show (⟨bits N 12 4, bits N 10 2⟩ : Src) = b from src_eq (F 2) (F 1)]

theorem lstat (d : BitVec 4) (a : Src) : Statement (.lstat d a) := by
  refine of_cat (w := pack 0xE00000C0 [encFld d 22, encSrc a 18 16]) (ps := [(16, 0xC0), (2, a.mode.toNat), (4, a.reg.toNat), (4, d.toNat), (6, 0x38)])
    ⟨by decide, a.mode.isLt, a.reg.isLt, d.isLt, by decide, trivial⟩ rfl ?_ (fun N F lt => ?_) rfl
  · rw [pack_cons, pack_cons, pack_nil, encFld_eq, encSrc_eq]; simp only [cat_cons, cat_nil]; omega
  rw [raw38 (major_of lt (F 4))]
  delta decodeMajor38
  have f0_16 : fld N 0 16 = 0xC0 := F 0
  refine skip (fld_part 5 5 f0_16 (by decide)) (by decide) ?_
  refine (if_neg (fun h => absurd (f0_16.symm.trans (fld_part 0 16 h (by decide))) (by decide))).trans ?_
  refine (if_neg (fun h => absurd (f0_16.symm.trans (fld_part 0 16 h (by decide))) (by decide))).trans ?_
  refine skip (fld_part 0 10 f0_16 (by decide)) (by decide) ?_
  refine skip (fld_part 0 10 f0_16 (by decide)) (by decide) ?_
  refine skip (fld_part 0 10 f0_16 (by decide)) (by decide) ?_
  refine (if_pos f0_16).trans ?_
  rw [show bits N 22 4 = d from bits_eq (F 3)]
  rw [show (⟨bits N 18 4, bits N 16 2⟩ : Src) = a from src_eq (F 2) (F 1)]

theorem bopen (d : BitVec 4) (a : Src) (b : Src) : Statement (.bopen d a b) := by
  refine of_cat (w := pack 0xE4000000 [encFld d 22, encSrc a 18 16, encSrc b 12 10]) (ps := [(10, 0x0), (2, b.mode.toNat), (4, b.reg.toNat), (2, a.mode.toNat), (4, a.reg.toNat), (4, d.toNat), (6, 0x39)])
    ⟨by decide, b.mode.isLt, b.reg.isLt, a.mode.isLt, a.reg.isLt, d.isLt, by decide, trivial⟩ rfl ?_ (fun N F lt => ?_) rfl
  · rw [pack_cons, pack_cons, pack_cons, pack_nil, encFld_eq, encSrc_eq, encSrc_eq]; simp only [cat_cons, cat_nil]; omega
  rw [raw39 (major_of lt (F 6))]
  delta decodeMajor39
  have f0_10 : fld N 0 10 = 0x0 := F 0
  refine (if_pos f0_10).trans ?_
  rw [show bits N 22 4 = d from bits_eq (F 5)]
  rw [show (⟨bits N 18 4, bits N 16 2⟩ : Src) = a from src_eq (F 4) (F 3)]
  rw [show (⟨bits N 12 4, bits N 10 2⟩ : Src) = b from src_eq (F 2) (F 1)]

theorem bclose (d : BitVec 4) : Statement (.bclose d) := by
  refine of_cat (w := pack 0xE4000020 [encFld d 22]) (ps := [(22, 0x20), (4, d.toNat), (6, 0x39)])
    ⟨by decide, d.isLt, by decide, trivial⟩ rfl ?_ (fun N F lt => ?_) rfl
  · rw [pack_cons, pack_nil, encFld_eq]; simp only [cat_cons, cat_nil]; omega
  rw [raw39 (major_of lt (F 2))]
  delta decodeMajor39
  have f0_22 : fld N 0 22 = 0x20 := F 0
  refine skip (fld_part 0 10 f0_22 (by decide)) (by decide) ?_
  refine (if_pos f0_22).trans ?_
  rw [show bits N 22 4 = d from bits_eq (F 1)]

theorem bld (d : BitVec 4) (a : Src) (b : Src) : Statement (.bld d a b) := by
  refine of_cat (w := pack 0xE4000040 [encFld d 22, encSrc a 18 16, encSrc b 12 10]) (ps := [(10, 0x40), (2, b.mode.toNat), (4, b.reg.toNat), (2, a.mode.toNat), (4, a.reg.toNat), (4, d.toNat), (6, 0x39)])
    ⟨by decide, b.mode.isLt, b.reg.isLt, a.mode.isLt, a.reg.isLt, d.isLt, by decide, trivial⟩ rfl ?_ (fun N F lt => ?_) rfl
  · rw [pack_cons, pack_cons, pack_cons, pack_nil, encFld_eq, encSrc_eq, encSrc_eq]; simp only [cat_cons, cat_nil]; omega
  rw [raw39 (major_of lt (F 6))]
  delta decodeMajor39
  have f0_10 : fld N 0 10 = 0x40 := F 0
  refine skip f0_10 (by decide) ?_
  refine (if_neg (fun h => absurd (f0_10.symm.trans (fld_part 0 10 h (by decide))) (by decide))).trans ?_
  refine (if_pos f0_10).trans ?_
  rw [show bits N 22 4 = d from bits_eq (F 5)]
  rw [show (⟨bits N 18 4, bits N 16 2⟩ : Src) = a from src_eq (F 4) (F 3)]
  rw [show (⟨bits N 12 4, bits N 10 2⟩ : Src) = b from src_eq (F 2) (F 1)]

theorem bldR (d : BitVec 4) (a : Src) (b : Src) : Statement (.bldR d a b) := by
  refine of_cat (w := pack 0xE4000041 [encFld d 22, encSrc a 18 16, encSrc b 12 10]) (ps := [(10, 0x41), (2, b.mode.toNat), (4, b.reg.toNat), (2, a.mode.toNat), (4, a.reg.toNat), (4, d.toNat), (6, 0x39)])
    ⟨by decide, b.mode.isLt, b.reg.isLt, a.mode.isLt, a.reg.isLt, d.isLt, by decide, trivial⟩ rfl ?_ (fun N F lt => ?_) rfl
  · rw [pack_cons, pack_cons, pack_cons, pack_nil, encFld_eq, encSrc_eq, encSrc_eq]; simp only [cat_cons, cat_nil]; omega
  rw [raw39 (major_of lt (F 6))]
  delta decodeMajor39
  have f0_10 : fld N 0 10 = 0x41 := F 0
  refine skip f0_10 (by decide) ?_
  refine (if_neg (fun h => absurd (f0_10.symm.trans (fld_part 0 10 h (by decide))) (by decide))).trans ?_
  refine skip f0_10 (by decide) ?_
  refine (if_pos f0_10).trans ?_
  rw [show bits N 22 4 = d from bits_eq (F 5)]
  rw [show (⟨bits N 18 4, bits N 16 2⟩ : Src) = a from src_eq (F 4) (F 3)]
  rw [show (⟨bits N 12 4, bits N 10 2⟩ : Src) = b from src_eq (F 2) (F 1)]

theorem bview (d : BitVec 4) (a : Src) : Statement (.bview d a) := by
  refine of_cat (w := pack 0xE4000060 [encFld d 22, encSrc a 18 16]) (ps := [(16, 0x60), (2, a.mode.toNat), (4, a.reg.toNat), (4, d.toNat), (6, 0x39)])
    ⟨by decide, a.mode.isLt, a.reg.isLt, d.isLt, by decide, trivial⟩ rfl ?_ (fun N F lt => ?_) rfl
  · rw [pack_cons, pack_cons, pack_nil, encFld_eq, encSrc_eq]; simp only [cat_cons, cat_nil]; omega
  rw [raw39 (major_of lt (F 4))]
  delta decodeMajor39
  have f0_16 : fld N 0 16 = 0x60 := F 0
  refine skip (fld_part 0 10 f0_16 (by decide)) (by decide) ?_
  refine (if_neg (fun h => absurd (f0_16.symm.trans (fld_part 0 16 h (by decide))) (by decide))).trans ?_
  refine skip (fld_part 0 10 f0_16 (by decide)) (by decide) ?_
  refine skip (fld_part 0 10 f0_16 (by decide)) (by decide) ?_
  refine (if_pos f0_16).trans ?_
  rw [show bits N 22 4 = d from bits_eq (F 3)]
  rw [show (⟨bits N 18 4, bits N 16 2⟩ : Src) = a from src_eq (F 2) (F 1)]

theorem bstat (d : BitVec 4) : Statement (.bstat d) := by
  refine of_cat (w := pack 0xE4000080 [encFld d 22]) (ps := [(22, 0x80), (4, d.toNat), (6, 0x39)])
    ⟨by decide, d.isLt, by decide, trivial⟩ rfl ?_ (fun N F lt => ?_) rfl
  · rw [pack_cons, pack_nil, encFld_eq]; simp only [cat_cons, cat_nil]; omega
  rw [raw39 (major_of lt (F 2))]
  delta decodeMajor39
  have f0_22 : fld N 0 22 = 0x80 := F 0
  refine skip (fld_part 0 10 f0_22 (by decide)) (by decide) ?_
  refine skip f0_22 (by decide) ?_
  refine skip (fld_part 0 10 f0_22 (by decide)) (by decide) ?_
  refine skip (fld_part 0 10 f0_22 (by decide)) (by decide) ?_
  refine skip (fld_part 0 16 f0_22 (by decide)) (by decide) ?_
  refine (if_pos f0_22).trans ?_
  rw [show bits N 22 4 = d from bits_eq (F 1)]

theorem once : Statement (.once) := by
  refine of_cat (w := 0xF4000000) (ps := [(32, 0xF4000000)])
    ⟨by decide, trivial⟩ rfl ?_ (fun N F lt => ?_) rfl
  · decide
  rw [raw3D (major_of lt (fld_part (n := N) (lo := 0) (w := 32) (v := 0xF4000000) 26 6 (F 0) (by decide)))]
  delta decodeMajor3D
  have f0_32 : fld N 0 32 = 0xF4000000 := F 0
  refine (if_pos f0_32).trans ?_
  rfl

theorem pfx (p : BitVec 16) : Statement (.pfx p) := by
  refine of_cat (w := pack 0xF4400000 [encFld p 0]) (ps := [(16, p.toNat), (16, 0xF440)])
    ⟨p.isLt, by decide, trivial⟩ rfl ?_ (fun N F lt => ?_) rfl
  · rw [pack_cons, pack_nil, encFld_eq]; simp only [cat_cons, cat_nil]; omega
  rw [raw3D (major_of lt (fld_part (n := N) (lo := 16) (w := 16) (v := 0xF440) 10 6 (F 1) (by decide)))]
  delta decodeMajor3D
  have f16_16 : fld N 16 16 = 0xF440 := F 1
  refine (if_neg (fun h => absurd (f16_16.symm.trans (fld_part 16 16 h (by decide))) (by decide))).trans ?_
  refine (if_pos f16_16).trans ?_
  rw [show bits N 0 16 = p from bits_eq (F 0)]

theorem rotationBoundary (core : Nat) : Statement (.rotationBoundary core) := of_event rfl
theorem quantumExpiry (core slot : Nat) : Statement (.quantumExpiry core slot) := of_event rfl
theorem budgetExhausted (core : Nat) : Statement (.budgetExhausted core) := of_event rfl
theorem urgentWindowEnd (core : Nat) : Statement (.urgentWindowEnd core) := of_event rfl
theorem fill (dest : FillTo) (val : Word) : Statement (.fill dest val) := of_event rfl
theorem xwrDelivery (x : Xwr) : Statement (.xwrDelivery x) := of_event rfl
theorem xwrWrite (x : Xwr) : Statement (.xwrWrite x) := of_event rfl
theorem storeTranslate (core id : Nat) : Statement (.storeTranslate core id) := of_event rfl
theorem translatorLookupDone (x : Xlat) : Statement (.translatorLookupDone x) := of_event rfl
theorem pageWalkRead (x : Xlat) (lvl : Nat) (entry : Word) : Statement (.pageWalkRead x lvl entry) := of_event rfl
theorem pageWalkEnd (x : Xlat) (r : Option Tlb) : Statement (.pageWalkEnd x r) := of_event rfl
theorem storeAck (core id : Nat) : Statement (.storeAck core id) := of_event rfl
theorem storeNak (core id cause : Nat) : Statement (.storeNak core id cause) := of_event rfl
theorem sfqCopy (name : Nat) : Statement (.sfqCopy name) := of_event rfl
theorem remoteAccessArrival (x : Access) : Statement (.remoteAccessArrival x) := of_event rfl
theorem amoAtHome (x : Access) : Statement (.amoAtHome x) := of_event rfl
theorem slotRegisterWrite (core slot : Nat) (reg : Reg) (val : Word) : Statement (.slotRegisterWrite core slot reg val) := of_event rfl
theorem tinvWrite (core name : Nat) (val : Word) : Statement (.tinvWrite core name val) := of_event rfl
theorem csrWindowWrite (core csr : Nat) (val : Word) : Statement (.csrWindowWrite core csr val) := of_event rfl
theorem invalidationArrival (core : Nat) (v : Inval) : Statement (.invalidationArrival core v) := of_event rfl
theorem invalidationComplete (core : Nat) (v : Inval) : Statement (.invalidationComplete core v) := of_event rfl
theorem frdAnswer (f : FrdReq) : Statement (.frdAnswer f) := of_event rfl
theorem launchRecord (pkg : Nat) (src : Source) (words : List Word) : Statement (.launchRecord pkg src words) := of_event rfl
theorem launchTakeEffect (launch : Nat) : Statement (.launchTakeEffect launch) := of_event rfl
theorem launchHeader (launch core : Nat) : Statement (.launchHeader launch core) := of_event rfl
theorem start (m : StartMsg) : Statement (.start m) := of_event rfl
theorem nameLookup (q : Look) (atHolder : Bool) : Statement (.nameLookup q atHolder) := of_event rfl
theorem nameLookupAnswer (q : Look) (result : Word) : Statement (.nameLookupAnswer q result) := of_event rfl
theorem killArrival (gid core : Nat) : Statement (.killArrival gid core) := of_event rfl
theorem groupRelease (gid : Nat) : Statement (.groupRelease gid) := of_event rfl
theorem migrationArrival (m : Mig) : Statement (.migrationArrival m) := of_event rfl
theorem migrationAnswer (m : Mig) (code : Nat) : Statement (.migrationAnswer m code) := of_event rfl
theorem locationUpdate (key : Nat) (loc : EndLoc) : Statement (.locationUpdate key loc) := of_event rfl
theorem forwardExpiry (key : Nat) : Statement (.forwardExpiry key) := of_event rfl
theorem quiesceStill (dest : FillTo) : Statement (.quiesceStill dest) := of_event rfl
theorem barrierArrival (gid name : Nat) : Statement (.barrierArrival gid name) := of_event rfl
theorem exitDrainComplete (name : Nat) : Statement (.exitDrainComplete name) := of_event rfl
theorem notificationDelivery (name : Nat) : Statement (.notificationDelivery name) := of_event rfl
theorem sleepExpiry (name : Nat) : Statement (.sleepExpiry name) := of_event rfl
theorem detectionWave (launch node : Nat) : Statement (.detectionWave launch node) := of_event rfl
theorem detectionAnswer (launch node : Nat) : Statement (.detectionAnswer launch node) := of_event rfl
theorem offerArrival (dst : EndLoc) (m : Msg) : Statement (.offerArrival dst m) := of_event rfl
theorem offerResend (dst : EndLoc) (m : Msg) : Statement (.offerResend dst m) := of_event rfl
theorem receiveAnnounce (dst : EndLoc) : Statement (.receiveAnnounce dst) := of_event rfl
theorem transferDataWritten (x : Xfer) : Statement (.transferDataWritten x) := of_event rfl
theorem sendAck (m : Msg) (peer : EndLoc) : Statement (.sendAck m peer) := of_event rfl
theorem messageEnqueue (dst : EndLoc) (m : Msg) : Statement (.messageEnqueue dst m) := of_event rfl
theorem creditReturn (dst : EndLoc) : Statement (.creditReturn dst) := of_event rfl
theorem wakeup (dst : EndLoc) : Statement (.wakeup dst) := of_event rfl
theorem peerDeleted (dst : EndLoc) : Statement (.peerDeleted dst) := of_event rfl
theorem chbindMove (v : EndMove) : Statement (.chbindMove v) := of_event rfl
theorem endpointInstall (v : EndMove) : Statement (.endpointInstall v) := of_event rfl
theorem chbindAck (v : EndMove) (code : Nat) : Statement (.chbindAck v code) := of_event rfl
theorem trecvExpiry (name : Nat) : Statement (.trecvExpiry name) := of_event rfl
theorem transferComplete (t : Transfer) : Statement (.transferComplete t) := of_event rfl
theorem streamElement (name port : Nat) : Statement (.streamElement name port) := of_event rfl
theorem joinRecorded (dest : FillTo) (core tag key : Nat) (join : Bool) : Statement (.joinRecorded dest core tag key join) := of_event rfl
theorem mcastDelivery (key : Nat) (m : Msg) : Statement (.mcastDelivery key m) := of_event rfl
theorem packetStomp (die : Nat) (dst : EndLoc) (m : Msg) : Statement (.packetStomp die dst m) := of_event rfl
theorem ackTimeout (dst : EndLoc) (m : Msg) : Statement (.ackTimeout dst m) := of_event rfl
theorem serverAnswer (r : SvReq) : Statement (.serverAnswer r) := of_event rfl
theorem droverRequest (drover : Nat) (r : DrReq) : Statement (.droverRequest drover r) := of_event rfl
theorem slicePass (drover : Nat) (x : Access) : Statement (.slicePass drover x) := of_event rfl
theorem droverAccessEnd (drover : Nat) (x : Access) : Statement (.droverAccessEnd drover x) := of_event rfl
theorem droverReplyRelease (drover : Nat) : Statement (.droverReplyRelease drover) := of_event rfl
theorem dispenserQuery (disp : Nat) (q : DispAsk) : Statement (.dispenserQuery disp q) := of_event rfl
theorem dqryAnswer (q : DispAsk) (item : Word) : Statement (.dqryAnswer q item) := of_event rfl
theorem wfwServe (name : Nat) (item ordinal arg : Word) : Statement (.wfwServe name item ordinal arg) := of_event rfl
theorem deadlineArm (fold : Nat) : Statement (.deadlineArm fold) := of_event rfl
theorem deadlineFire (fold : Nat) (d : Deadline) : Statement (.deadlineFire fold d) := of_event rfl
theorem probeStart (name episode : Nat) : Statement (.probeStart name episode) := of_event rfl
theorem probeArrival (name : Nat) (path : List Member) : Statement (.probeArrival name path) := of_event rfl
theorem confirmationArrival (path : List Member) (index : Nat) : Statement (.confirmationArrival path index) := of_event rfl
theorem reportArrival (gid : Nat) (report : List Word) : Statement (.reportArrival gid report) := of_event rfl
theorem tetherMessageFrame (pkg : Nat) (words : List Word) : Statement (.tetherMessageFrame pkg words) := of_event rfl
theorem tetherStoreFrame (pkg : Nat) (words : List Word) : Statement (.tetherStoreFrame pkg words) := of_event rfl
theorem tetherLoadFrame (pkg : Nat) (words : List Word) : Statement (.tetherLoadFrame pkg words) := of_event rfl
theorem tetherRefusedFrame (pkg : Nat) (words : List Word) : Statement (.tetherRefusedFrame pkg words) := of_event rfl
theorem tetherRetry (pkg : Nat) : Statement (.tetherRetry pkg) := of_event rfl
theorem tetherTraining (pkg : Nat) (seed : Word) (ciphertext : List Byte) : Statement (.tetherTraining pkg seed ciphertext) := of_event rfl
theorem attest (q : BReq) (nonce : List Word) : Statement (.attest q nonce) := of_event rfl
theorem health (q : BReq) : Statement (.health q) := of_event rfl
theorem healthReplClear (q : BReq) : Statement (.healthReplClear q) := of_event rfl
theorem events (q : BReq) : Statement (.events q) := of_event rfl
theorem counters (q : BReq) : Statement (.counters q) := of_event rfl
theorem snapshot (q : BReq) : Statement (.snapshot q) := of_event rfl
theorem keyput (q : BReq) (index count : Nat) (sealed : List Byte) : Statement (.keyput q index count sealed) := of_event rfl
theorem feature (q : BReq) (mask : Word) : Statement (.feature q mask) := of_event rfl
theorem fenceFold (q : BReq) (fold : Nat) : Statement (.fenceFold q fold) := of_event rfl
theorem image (q : BReq) (cores : List Nat) (img : List Byte) (signature : List Byte) : Statement (.image q cores img signature) := of_event rfl
theorem power (q : BReq) (state : BitVec 2) : Statement (.power q state) := of_event rfl
theorem killgroup (q : BReq) (gid : Nat) (launchId : Word) : Statement (.killgroup q gid launchId) := of_event rfl
theorem imagekey (q : BReq) (key signature : List Byte) : Statement (.imagekey q key signature) := of_event rfl
theorem powerOn (pkg : Nat) (firmware signature : List Byte) (failedFolds : List Nat) : Statement (.powerOn pkg firmware signature failedFolds) := of_event rfl
theorem bootComplete (pkg : Nat) : Statement (.bootComplete pkg) := of_event rfl
theorem packageReset (pkg : Nat) : Statement (.packageReset pkg) := of_event rfl
theorem i3cPowerState (pkg : Nat) (state : BitVec 2) : Statement (.i3cPowerState pkg state) := of_event rfl
theorem powerCap (pkg : Nat) : Statement (.powerCap pkg) := of_event rfl
theorem throttleEnter (die junction : Nat) : Statement (.throttleEnter die junction) := of_event rfl
theorem throttleExit (die junction : Nat) : Statement (.throttleExit die junction) := of_event rfl
theorem hardLimit (die junction : Nat) : Statement (.hardLimit die junction) := of_event rfl
theorem patrolScrub (addr : Nat) (corrected uncorrected : Bool) : Statement (.patrolScrub addr corrected uncorrected) := of_event rfl
theorem snapshotLatch (pkg : Nat) : Statement (.snapshotLatch pkg) := of_event rfl
theorem lifeCounterSave (pkg : Nat) : Statement (.lifeCounterSave pkg) := of_event rfl
theorem flitArrival (link : Nat) (f : Flit) : Statement (.flitArrival link f) := of_event rfl
theorem linkAckTimeout (link : Nat) : Statement (.linkAckTimeout link) := of_event rfl
theorem gatewayPacketArrival (p : GPacket) : Statement (.gatewayPacketArrival p) := of_event rfl
theorem linkLostTimeout (x : Access) : Statement (.linkLostTimeout x) := of_event rfl
theorem regionArrival (unit : Nat) (r : Region) : Statement (.regionArrival unit r) := of_event rfl
theorem regionAttempt (unit : Nat) (r : Region) (attempt : Nat) : Statement (.regionAttempt unit r attempt) := of_event rfl
theorem regionReceipt (name sent : Nat) : Statement (.regionReceipt name sent) := of_event rfl
theorem regionReturn (name sent : Nat) (r : RegionEnd) : Statement (.regionReturn name sent r) := of_event rfl
theorem regionReturnTimeout (name sent : Nat) : Statement (.regionReturnTimeout name sent) := of_event rfl
theorem permxPair (id : Nat) : Statement (.permxPair id) := of_event rfl
theorem permxElement (id index : Nat) (val : List Byte) : Statement (.permxElement id index val) := of_event rfl
theorem bundlePrepare (writer slot : Nat) : Statement (.bundlePrepare writer slot) := of_event rfl
theorem bundlePhase2 (writer slot : Nat) : Statement (.bundlePhase2 writer slot) := of_event rfl
theorem bundleAck (writer slot phase : Nat) (ok : Bool) : Statement (.bundleAck writer slot phase ok) := of_event rfl
theorem bldAtHome (r : BldReq) : Statement (.bldAtHome r) := of_event rfl
theorem tileTransferComplete (core tile : Nat) : Statement (.tileTransferComplete core tile) := of_event rfl
theorem drainComplete (core bank : Nat) : Statement (.drainComplete core bank) := of_event rfl
theorem tileOpComplete (core : Nat) : Statement (.tileOpComplete core) := of_event rfl
theorem kGroupDone (core : Nat) : Statement (.kGroupDone core) := of_event rfl
theorem gangProductStart (gid ordinal : Nat) : Statement (.gangProductStart gid ordinal) := of_event rfl
theorem tileCommandArrival (c : TCommand) : Statement (.tileCommandArrival c) := of_event rfl
theorem tileCommandAnswer (c : TCommand) (accepted : Bool) : Statement (.tileCommandAnswer c accepted) := of_event rfl
theorem reverseRecord (name : Nat) : Statement (.reverseRecord name) := of_event rfl
theorem spillAck (name : Nat) (ok : Bool) : Statement (.spillAck name ok) := of_event rfl
theorem speTreeEntry (fold name : Nat) : Statement (.speTreeEntry fold name) := of_event rfl
theorem speRetire (fold name : Nat) : Statement (.speRetire fold name) := of_event rfl
theorem notAnInstruction (w : IWord) : Statement (.notAnInstruction w) := of_event rfl
theorem vectorLoadComplete (name : Nat) : Statement (.vectorLoadComplete name) := of_event rfl
theorem startAnswer (m : StartMsg) (result : Word) : Statement (.startAnswer m result) := of_event rfl
theorem peerAnswer (dest : FillTo) (val : Word) : Statement (.peerAnswer dest val) := of_event rfl
theorem keyInstalled (dest : FillTo) (val : Word) : Statement (.keyInstalled dest val) := of_event rfl
theorem linkTraining (link peer hop : Nat) : Statement (.linkTraining link peer hop) := of_event rfl
theorem linkDown24Hours (link : Nat) : Statement (.linkDown24Hours link) := of_event rfl
theorem powerFailure (pkg : Nat) : Statement (.powerFailure pkg) := of_event rfl
theorem measurementRequest (pkg register : Nat) (item : List Byte) : Statement (.measurementRequest pkg register item) := of_event rfl

end Sys2Proof.Laws.RoundTrip
end

