-- ==== Sys2Proof/Tests/Slice0.lean ====
section
/-! SUPPORT. The model's own tests: words written out from the encodings of 03 to 12 decode to their instructions; ill-formed terms are refused;
results worked out by hand from the tables; and, for every statement of Certificates/Slice0/Obligations.lean that has hypotheses, states and operands that meet
them (`test_hyp_…`). -/

namespace Sys2Proof.Tests

open Sys2Proof.Machine

set_option maxRecDepth 20000

/-! ### Small states -/

/-- A process with registers. -/
def withRegs (l : List (Reg × Word)) : Proc := l.foldl (fun p x => p.setReg x.1 x.2) probeProc

/-- A process with an empty register. -/
def emptied (l : List (Reg × Word)) (r : Reg) : Proc := (withRegs l).emptyReg r

/-- A state in which a process issues, alone on core 0. -/
def one (p : Proc) : State := { State.reset.install 0 with cur := some 0, turns := [], procs := [(0, p)] }

/-- What a register holds after an instruction. -/
def regOf (o : Host.Outcome State Fault Refusal) (k : Nat) (r : Reg) : Option Word :=
  match o with
  | .next t => (t.proc k).map (fun p => p.reg r)
  | _ => none

/-- Something of the state after an instruction. -/
def after {α : Type} (o : Host.Outcome State Fault Refusal) (f : State → α) : Option α :=
  match o with
  | .next t => some (f t)
  | _ => none

theorem runsOf {s : State} {k : Nat} {p : Proc} {fs : List Field} {vals : List Word} {dsts : List Reg}
    (h : s.cur = some k ∧ s.proc k = some p ∧ fs.map (fun f => s.source p f.reg) = vals.map PortHead.elem ∧ ∀ d ∈ dsts, s.sink p d = .elem 0) :
    s.Runs k p fs vals dsts := ⟨⟨h.1, h.2.1⟩, h.2.2.1, h.2.2.2⟩

theorem issuesOf {s : State} {k : Nat} {p : Proc} (h : s.cur = some k ∧ s.proc k = some p) : s.Issues k p := h

theorem takesOf {s : State} {p : Proc} {dsts : List Reg} (h : ∀ d ∈ dsts, s.sink p d = .elem 0) : s.Takes p dsts := h

theorem unboundOf {p : Proc} (h : ∀ q ∈ p.ports.toList, q.bound = false) : p.Unbound := h

/-- No access of a process waits where the buffer is empty and nothing is in flight. -/
theorem calmOf {s : State} {n : Nat} (h : s.agenda = []) : s.NoAtomics n := by
  intro x hx
  obtain ⟨c, hc⟩ := hx
  rw [h] at hc
  cases hc

theorem settledOf {s : State} {p : Proc} (h : (s.core p.core).sb = []) (g : s.agenda = []) : s.Settled p :=
  ⟨(by rw [h]; intro y hy; cases hy), calmOf g⟩

/-! ### Integers and floating point -/

/-- Hypotheses of IntegerResults: two sources, one source, an immediate behind two PFX words. -/
theorem test_hyp_integer : (one (withRegs [(1, 5), (2, 7)])).Runs 0 (withRegs [(1, 5), (2, 7)]) [srcField ⟨1, 0⟩ 0, srcField ⟨2, 1⟩ 1] [5, 7] [3] ∧
    (one (withRegs [(1, 5)])).Runs 0 (withRegs [(1, 5)]) [srcField ⟨1, 2⟩ 0] [5] [1] ∧
    (one { withRegs [(1, 5)] with pfx := [1, 2] }).Runs 0 { withRegs [(1, 5)] with pfx := [1, 2] } [srcField ⟨1, 0⟩ 0] [5] [0] :=
  ⟨runsOf (by decide), runsOf (by decide), runsOf (by decide)⟩

/-- Hypotheses of FloatInstructionsRetire. -/
theorem test_hyp_float : (one (withRegs [(1, 0x3F800000), (2, 0x40000000), (3, 0)])).Runs 0 (withRegs [(1, 0x3F800000), (2, 0x40000000), (3, 0)])
    [srcField ⟨1, 0⟩ 0, srcField ⟨2, 0⟩ 1, srcField ⟨3, 1⟩ 2] [0x3F800000, 0x40000000, 0] [3] := runsOf (by decide)

/-- Hypotheses of RoundingIsCorrect: the largest FP32 number, and the smallest. -/
theorem test_hyp_rounding : 0 < 2 ^ 24 - 1 ∧ (fp32.roundMag .rne false false true (2 ^ 24 - 1) 104 false).1 % fp32.signBit ≤ fp32.maxMag ∧
    fp32.maxMag % fp32.signBit ≤ fp32.maxMag ∧ fp32.decode 1 = .fin false 1 (-149) ∧ 1 < 2 ^ fp32.width := by decide

/-- Hypotheses of RetirementAndSources. -/
theorem test_hyp_retirement : (one (emptied [] 2)).proc 0 = some (emptied [] 2) ∧ (emptied [] 2).onceOn = false ∧ (emptied [] 2).vact = false ∧ (emptied [] 2).Unbound ∧
    (one (emptied [] 2)).Issues 0 (emptied [] 2) ∧ (emptied [] 2).full 2 = false ∧ (emptied [] 2).full 1 = true ∧ (⟨2, 2⟩ : Src).mode.getLsbD 1 = true ∧
    (⟨2, 1⟩ : Src).mode.getLsbD 1 = false ∧
    (emptied [] 2).hold = none := ⟨by decide, by decide, by decide, unboundOf (by decide), issuesOf (by decide), by and_intros <;> decide⟩

/-- 05 Table 5.4: 2^64 - 1 and 1 add to 0. -/
theorem test_add_wraps : regOf (exec (.add 3 ⟨1, 0⟩ ⟨2, 0⟩) (one (withRegs [(1, 0xFFFFFFFFFFFFFFFF), (2, 1)]))) 0 3 = some 0 := by decide
/-- 05 Table 5.4: the destination is also a consumed source, and is left full (03 R51). -/
theorem test_sub_consumes : after (exec (.sub 1 ⟨1, 1⟩ ⟨2, 1⟩) (one (withRegs [(1, 3), (2, 5)]))) (fun t => (t.proc 0).map (fun p => (p.reg 1, p.full 1, p.full 2))) =
    some (some (0xFFFFFFFFFFFFFFFE, true, false)) := by decide
/-- 05 R113: -7 / 2 = -3, and the remainder is -1. -/
theorem test_div_truncates : regOf (exec (.div 3 ⟨1, 0⟩ ⟨2, 0⟩) (one (withRegs [(1, 0xFFFFFFFFFFFFFFF9), (2, 2)]))) 0 3 = some 0xFFFFFFFFFFFFFFFD := by decide
theorem test_rem_sign : regOf (exec (.rem 3 ⟨1, 0⟩ ⟨2, 0⟩) (one (withRegs [(1, 0xFFFFFFFFFFFFFFF9), (2, 2)]))) 0 3 = some 0xFFFFFFFFFFFFFFFF := by decide
/-- 05 R113: a division by 0 gives all ones, and a remainder the dividend. -/
theorem test_divu_zero : regOf (exec (.divu 3 ⟨1, 0⟩ ⟨0, 0⟩) (one (withRegs [(1, 9)]))) 0 3 = some 0xFFFFFFFFFFFFFFFF := by decide
theorem test_remu_zero : regOf (exec (.remu 3 ⟨1, 0⟩ ⟨0, 0⟩) (one (withRegs [(1, 9)]))) 0 3 = some 9 := by decide
/-- 05 Table 5.4: -1 × -1 has the high word 0 signed, and 2^64 - 2 unsigned. -/
theorem test_mulh : regOf (exec (.mulh 3 ⟨1, 0⟩ ⟨1, 0⟩) (one (withRegs [(1, 0xFFFFFFFFFFFFFFFF)]))) 0 3 = some 0 := by decide
theorem test_mulhu : regOf (exec (.mulhu 3 ⟨1, 0⟩ ⟨1, 0⟩) (one (withRegs [(1, 0xFFFFFFFFFFFFFFFF)]))) 0 3 = some 0xFFFFFFFFFFFFFFFE := by decide
/-- 05 Table 5.4: the arithmetic shift by 63 of a negative number is -1; an amount of 64 shifts by 0. -/
theorem test_sra_negative : regOf (exec (.sra 3 ⟨1, 0⟩ ⟨2, 0⟩) (one (withRegs [(1, 0x8000000000000000), (2, 63)]))) 0 3 = some 0xFFFFFFFFFFFFFFFF := by decide
theorem test_shl_full_width : regOf (exec (.shl 3 ⟨1, 0⟩ ⟨2, 0⟩) (one (withRegs [(1, 3), (2, 64)]))) 0 3 = some 3 := by decide
theorem test_rol : regOf (exec (.rol 3 ⟨1, 0⟩ ⟨2, 0⟩) (one (withRegs [(1, 0x8000000000000001), (2, 1)]))) 0 3 = some 3 := by decide
theorem test_clz_zero : regOf (exec (.clz 3 ⟨0, 0⟩) (one (withRegs []))) 0 3 = some 64 := by decide
theorem test_bswap : regOf (exec (.bswap 3 ⟨1, 0⟩) (one (withRegs [(1, 0x0102030405060708)]))) 0 3 = some 0x0807060504030201 := by decide
theorem test_sext : regOf (exec (.sext 3 ⟨1, 0⟩ ⟨2, 0⟩) (one (withRegs [(1, 0x180), (2, 7)]))) 0 3 = some 0xFFFFFFFFFFFFFF80 := by decide
/-- 05 Table 5.5: LIH sign-extends its immediate into bits 63 to 32. -/
theorem test_lih : regOf (exec (.lih 3 ⟨1, 0⟩ 0x8001) (one (withRegs [(1, 0x12345678)]))) 0 3 = some 0xFFFFFFFF80015678 := by decide
/-- 03 R54: ANDI behind one PFX word takes a zero-extended immediate of 32 bits. -/
theorem test_andi_pfx : regOf (exec (.andi 3 ⟨1, 0⟩ 0xFFFF) (one { withRegs [(1, 0xFFFFFFFFFFFFFFFF)] with pfx := [0x8000] })) 0 3 = some 0x8000FFFF := by decide
/-- 05 Table 5.5: the immediate of SLTUI is sign-extended and then compared unsigned. -/
theorem test_sltui : regOf (exec (.sltui 3 ⟨1, 0⟩ 0x3FFF) (one (withRegs [(1, 5)]))) 0 3 = some 1 := by decide
/-- 05 R115: 1 + 2 = 3 in FP32; 1 / 3 rounds to 0x3EAAAAAB and is inexact. -/
theorem test_fadd : regOf (exec (.fadd 3 ⟨1, 0⟩ ⟨2, 0⟩ 0) (one (withRegs [(1, 0x3F800000), (2, 0x40000000)]))) 0 3 = some 0x40400000 := by decide
theorem test_fdiv : after (exec (.fdiv 3 ⟨1, 0⟩ ⟨2, 0⟩ 0) (one (withRegs [(1, 0x3F800000), (2, 0x40400000)]))) (fun t => (t.proc 0).map (fun p => (p.reg 3, p.fflags != 0))) =
    some (some (0x3EAAAAAB, true)) := by decide
/-- 05 R117: 0 × ∞ + a quiet NaN is the canonical NaN and sets NV. -/
theorem test_fma_invalid : regOf (exec (.fma 4 ⟨1, 0⟩ ⟨2, 0⟩ ⟨3, 0⟩ 0) (one (withRegs [(1, 0), (2, 0x7F800000), (3, 0x7FC00001)]))) 0 4 = some 0x7FC00000 := by decide
/-- 05 Table 5.6: FMIN takes -0 as below +0. -/
theorem test_fmin_zero : regOf (exec (.fmin 3 ⟨1, 0⟩ ⟨2, 0⟩ 1) (one (withRegs [(1, 0), (2, 0x8000000000000000)]))) 0 3 = some 0x8000000000000000 := by decide

/-! ### Control flow, traps, special registers -/

/-- Hypotheses of ControlFlow, with a target at the last word of the ISTORE, one beyond it and a misaligned one. -/
theorem test_hyp_control : (one (withRegs [(1, 0xFFFC), (2, 0x10000), (3, 2)])).Runs 0 (withRegs [(1, 0xFFFC), (2, 0x10000), (3, 2)]) [srcField ⟨1, 0⟩ 0] [0xFFFC] [15] ∧
    (one (withRegs [(1, 0xFFFC), (2, 0x10000), (3, 2)])).Runs 0 (withRegs [(1, 0xFFFC), (2, 0x10000), (3, 2)]) [srcField ⟨2, 0⟩ 0] [0x10000] [] ∧
    (one (withRegs [(1, 0xFFFC), (2, 0x10000), (3, 2)])).Runs 0 (withRegs [(1, 0xFFFC), (2, 0x10000), (3, 2)]) [srcField ⟨1, 0⟩ 0, srcField ⟨2, 0⟩ 1] [0xFFFC, 0x10000] [] ∧
    (one (withRegs [(1, 0xFFFC), (2, 0x10000), (3, 2)])).Runs 0 (withRegs [(1, 0xFFFC), (2, 0x10000), (3, 2)]) [srcField ⟨3, 0⟩ 0] [2] [3] ∧
    (0xFFFC : Word).toNat % 4 = 0 ∧ (0xFFFC : Word).toNat < 2 ^ 16 ∧ 2 ^ 16 ≤ (0x10000 : Word).toNat ∧ (2 : Word).toNat % 4 ≠ 0 :=
  ⟨runsOf (by decide), runsOf (by decide), runsOf (by decide), runsOf (by decide), by and_intros <;> decide⟩

/-- Hypotheses of SystemAndTraps: a handler that is active, one that is not, and a snapshot that is pending, just over, and long over. -/
theorem test_hyp_system : (one { probeProc with utv := 2 }).Issues 0 { probeProc with utv := 2 } ∧ (2 : Word).getLsbD 1 = true ∧ (1 : Word).getLsbD 1 = false ∧
    (one probeProc).proc 0 = some probeProc ∧ (0x19 : Nat) < 256 ∧ ((one probeProc).pkg 0).snapAt = none ∧
    (({ one probeProc with pkgs := [(0, { snapAt := some 0 })] }).pkg 0).snapAt = some 0 ∧ (one probeProc).nanos ≤ 0 ∧
    0 < ({ one probeProc with cycle := 1600 } : State).nanos ∧ ({ one probeProc with cycle := 1600 } : State).nanos ≤ 0 + 1000 ∧ 0 + 1000 < ({ one probeProc with cycle := 1602 } : State).nanos ∧
    probeProc.st ≠ .trapped ∧
    ({ probeProc with st := .trapped } : Proc).st = .trapped :=
  ⟨issuesOf (by decide), by and_intros <;> decide⟩

/-- Hypotheses of ControlRegisters: a process at U and one at S, a register of each access, and values at the bounds of the excluded ones. -/
theorem test_hyp_csr : (one { withRegs [(1, 5)] with level := 0 }).Runs 0 { withRegs [(1, 5)] with level := 0 } [srcField ⟨1, 0⟩ 0] [5] [2] ∧
    (one { withRegs [(1, 1000)] with level := 1 }).Runs 0 { withRegs [(1, 1000)] with level := 1 } [srcField ⟨1, 0⟩ 0] [1000] [2] ∧
    (0x010 : BitVec 12).toNat = 0x010 ∧ (5 : Word).toNat % 8 ≤ 5 ∧ ¬ (6 : Word).toNat % 8 ≤ 5 ∧ 1000 ≤ (1000 : Word).toNat % 2 ^ 32 ∧ ¬ 1000 ≤ (999 : Word).toNat % 2 ^ 32 ∧
    ((one probeProc).invalsOf probeProc.name).length < 16 ∧ (∀ e ∈ csrTable (one probeProc) probeProc, e.1 ≠ (0x003 : BitVec 12).toNat) ∧
    (one (withRegs [(1, 0)])).Runs 0 (withRegs [(1, 0)]) [srcField ⟨1, 0⟩ 0] [0] [2] ∧
    ((⟨1, 0⟩ : Src).reg ≠ 0) ∧
    ((5 : Word) ≠ 0) :=
  ⟨runsOf (by decide), runsOf (by decide), by decide, by decide, by decide, by decide, by decide, ⟨by decide, by decide, runsOf (by decide), by decide, by decide⟩⟩

/-- A gang of two of which member 1 is elected for the first ONCE. -/
def gangOf (elected : Nat) : State :=
  { one { probeProc with gang := some 0 } with
    groups := [(0x40, { home := 0, launch := 0, live := [0x100], elected := [(1, elected)] })],
    mem := [(windowBase 0 + 0x120004, 0x00), (windowBase 0 + 0x120007, 0x04)] }

/-- Hypotheses of PrefixWords: a word that PFX and ONCE may precede, one that they may not, and a gang whose elected member is the process or another. -/
theorem test_hyp_once : (gangOf 0x100).Issues 0 { probeProc with gang := some 0 } ∧
    readLe (gangOf 0x100).mem (windowBase 0 + 0x120000 + (probeProc.wordPc + 4).toNat) 4 / 2 ^ 26 = 0x01 ∧
    (gangOf 0x100).group? 0x40 = some { home := 0, launch := 0, live := [0x100], elected := [(1, 0x100)] } ∧ (probeProc.onceCnt + 1) % 256 = 1 ∧
    (∀ e ∈ (gangOf 0x100).gangMembers 0x40, e.2.name ≠ 0x100 → (gangOf 0x100).postsHeld 0x40 e.2 < 4) ∧ probeProc.wordPc = probeProc.pc ∧
    (gangOf 0x200).group? 0x40 = some { home := 0, launch := 0, live := [0x100], elected := [(1, 0x200)] } ∧ (∀ x ∈ probeProc.posts, x.1 ≠ 1) ∧
    readLe (one probeProc).mem (windowBase 0 + 0x120000 + (probeProc.wordPc + 4).toNat) 4 / 2 ^ 26 = 0 ∧
    ({ probeProc with gang := some 0 } : Proc).Unbound ∧
    (probeProc.cell 2).out < 3 :=
  ⟨issuesOf (by decide), by decide, by decide, by decide, by decide, by decide, ⟨by decide, by decide, by decide, unboundOf (by decide), by decide⟩⟩

/-- 05 Table 5.7: a backward branch that is taken, at the start of the ISTORE. -/
theorem test_beq_taken : after (exec (.beq ⟨1, 0⟩ ⟨1, 0⟩ 0x7FF) (one (withRegs [(1, 5)]))) (fun t => (t.proc 0).map Proc.pc) = some (some 0xFFFC) := by decide
theorem test_bltu_unsigned : after (exec (.bltu ⟨1, 0⟩ ⟨2, 0⟩ 4) (one (withRegs [(1, 5), (2, 0xFFFFFFFFFFFFFFFF)]))) (fun t => (t.proc 0).map Proc.pc) = some (some 16) := by decide
/-- 05 R127: `jalr lr, lr` calls the old lr. -/
theorem test_jalr_same : after (exec (.jalr 15 ⟨15, 0⟩) (one (withRegs [(15, 0x40)]))) (fun t => (t.proc 0).map (fun p => (p.pc, p.reg 15))) = some (some (0x40, 4)) := by decide
/-- 05 R128: LOOP with 1 falls through. -/
theorem test_loop_ends : after (exec (.loop ⟨1, 0⟩ 0x1FFFF) (one (withRegs [(1, 1)]))) (fun t => (t.proc 0).map (fun p => (p.pc, p.reg 1))) = some (some (4, 0)) := by decide
/-- 05 Table 5.8: BRK stops the process at its own address, with cause 0x18 and the code. -/
theorem test_brk : after (exec (.brk 0x123) (one probeProc)) (fun t => (t.proc 0).map (fun p => (p.st, p.epc, p.ecause, p.eval))) = some (some (.trapped, 0, 0x18, 0x123)) := by decide
/-- 05 R133: TRAP with EN set goes to the handler. -/
theorem test_trap_handler : after (exec (.trap 7) (one { probeProc with utv := 0x101 })) (fun t => (t.proc 0).map (fun p => (p.st, p.pc, p.epc, p.utv, p.eval))) =
    some (some (.resident, 0x100, 4, 0x103, 7)) := by decide
/-- 05 R130: a write of RMODE with 6 is ILLEGAL; CSRS of FFLAGS gives the old flags. -/
theorem test_csr_excluded : after (exec (.csrw 2 ⟨1, 0⟩ 0x010) (one (withRegs [(1, 6)]))) (fun t => (t.proc 0).map (fun p => (p.ecause, p.rmode))) = some (some (1, 0)) := by decide
theorem test_csrs : after (exec (.csrs 2 ⟨1, 0⟩ 0x011) (one { withRegs [(1, 0x10)] with fflags := 1 })) (fun t => (t.proc 0).map (fun p => (p.reg 2, p.fflags))) = some (some (1, 0x11)) := by decide

/-! ### Memory -/

/-- The alias of a core's own scratchpad (04 R79). -/
def ownAlias : Word := 0xC0000000000000

/-- Hypotheses of LoadsAndTranslation: a load of the last word below the extension areas; a load of fold SRAM by its alias; a misaligned one; an unmapped address; a miss. -/
theorem test_hyp_load : (one (withRegs [(1, ownAlias + 0x5FFF8)])).Runs 0 (withRegs [(1, ownAlias + 0x5FFF8)]) [srcField ⟨1, 0⟩ 0] [ownAlias + 0x5FFF8] [2] ∧
    ((withRegs [(1, ownAlias + 0x5FFF8)]).cell 2).out < 3 ∧ addressOf (ownAlias + 0x5FFF8) (0 : BitVec 13).toInt (accessBytes 3) = 0xC0000000000000 + 0x5FFF8 ∧
    0x5FFF8 % accessBytes 3 = 0 ∧ 0x5FFF8 + accessBytes 3 ≤ scratchSize 0 - 2048 * ((one probeProc).core 0).extSize ∧ coreIdOk 0 = true ∧ pkgOf 0 ∈ (one probeProc).packages ∧
    ((one probeProc).fold (foldOf 0)).fenced = false ∧ (one probeProc).poisoned (windowBase 0 + 0x5FFF8) (accessBytes 3) = false ∧
    (∀ e ∈ ((one probeProc).core 0).sb, e.name ≠ probeProc.name) ∧ tget (one probeProc).bundles probeProc.name = none ∧
    (one probeProc).translate probeProc 0x40000000 true false = .miss ∧ (one probeProc).translate probeProc 0xFF00000000000000 true false = .fault ∧
    (ownAlias + 1).toNat % accessBytes 3 ≠ 0 ∧
    (one probeProc).NoAtomics probeProc.name :=
  ⟨runsOf (by decide), by decide, by decide, by decide, by decide, by decide, ⟨by decide, by decide, by decide, by decide, by decide, ⟨by decide, by decide, by decide, calmOf rfl⟩⟩⟩

/-- The fold SRAM by its alias has a translation, needs no window and has no fault. -/
theorem test_hyp_sram : (one probeProc).NoAtomics probeProc.name ∧ ∃ pa, (one probeProc).translate probeProc 0x80000000E00000 true false = .pa pa none ∧ (one probeProc).held probeProc pa = false ∧
    (one probeProc).accessFault probeProc pa 0x80000000E00000 8 true = none ∧ placeOf pa = .sram 0 0 ∧ probeProc.portOf 2 = none ∧ probeProc.onceOn = false :=
  ⟨calmOf rfl, sramBase 0, by and_intros <;> decide⟩

/-- A store of a process in the buffer of core 0, translated to its scratchpad. -/
def stored (va : Nat) (pa : Option Nat) : State :=
  { one probeProc with cores := [(0, { sb := [{ id := 1, name := probeProc.name, key := 0, va := va, size := 8, data := 0x0102030405060708, pc := 0, level := 1, gid := 0x40, asid := 0, root := 0, pa := pa }] })] }

/-- Hypotheses of StoresReachMemory: room in the buffer; the entry of a store by a paged address, by the alias, and translated. -/
theorem test_hyp_store : (one (withRegs [(1, ownAlias), (2, 9)])).Runs 0 (withRegs [(1, ownAlias), (2, 9)]) [plainField 1 0, ⟨2, false, true, 3⟩] [ownAlias, 9] [] ∧
    (one probeProc).sbRoom 0 probeProc.name ≠ 0 ∧ ((stored 0x40000000 none).sbEntry 0 1).isSome = true ∧ (stored 0x40000000 none).MemOk ∧ 0x40000000 < 2 ^ 55 ∧
    ((stored (0xC0000000000000 + 0x5FFF8) none).sbEntry 0 1).map SbEntry.va = some (0xC0000000000000 + 0x5FFF8) ∧ 0x5FFF8 + 8 ≤ scratchSize 0 ∧
    ((stored 0xC0000000000000 (some (windowBase 0))).sbEntry 0 1).bind SbEntry.pa = some (windowBase 0 + 0) ∧
    ((stored 0xC0000000000000 (some (windowBase 0))).sbEntry 0 1).map SbEntry.batch = some 0 ∧ tget (stored 0 none).bundles probeProc.name = none ∧
    (stored 0xC0000000000000 (some (windowBase 0))).NoAtomics probeProc.name ∧
    (∀ x ∈ ((stored 0xC0000000000000 (some (windowBase 0))).core 0).sb, x.name = probeProc.name → 1 ≤ x.id) :=
  ⟨runsOf (by decide), by decide, by decide, by unfold State.MemOk; decide, by decide, by decide, by decide, by decide, by decide, by decide, calmOf rfl, by decide⟩

/-- Hypotheses of ManyRegistersMove: LDM of two registers, STM of two. -/
theorem test_hyp_many : (one (withRegs [(1, ownAlias), (4, 7), (5, 8)])).Runs 0 (withRegs [(1, ownAlias), (4, 7), (5, 8)]) [srcField ⟨1, 0⟩ 0] [ownAlias]
      ((List.range ((5 : Reg).toNat + 1 - (4 : Reg).toNat)).map (fun i => BitVec.ofNat 4 ((4 : Reg).toNat + i))) ∧
    (one (withRegs [(1, ownAlias), (4, 7), (5, 8)])).Runs 0 (withRegs [(1, ownAlias), (4, 7), (5, 8)])
      (srcField ⟨1, 0⟩ 0 :: (List.range ((5 : Reg).toNat + 1 - (4 : Reg).toNat)).map (fun i => plainField (BitVec.ofNat 4 ((4 : Reg).toNat + i)) 3)) (ownAlias :: [7, 8]) [] ∧
    (withRegs [(1, ownAlias), (4, 7), (5, 8)]).Unbound ∧ (withRegs [(1, ownAlias), (4, 7), (5, 8)]).restart = 0 ∧ (one probeProc).poison = [] ∧
    addressOf ownAlias (0 : BitVec 11).toInt 8 = 0xC0000000000000 + 0 ∧ (5 : Reg).toNat + 1 - (4 : Reg).toNat ≤ (one probeProc).sbRoom 0 probeProc.name ∧
    (∀ r, ((withRegs [(1, ownAlias), (4, 7), (5, 8)]).cell r).out < 3) ∧
    (withRegs [(1, ownAlias), (4, 7), (5, 8)]).hold = none ∧
    (one probeProc).NoAtomics probeProc.name ∧
    (one probeProc).Translated (withRegs [(1, ownAlias), (4, 7), (5, 8)]) (0xC0000000000000 + 8 * 1) false true ∧
    ((one probeProc).core 0).tlb.length ≤ 32 :=
  ⟨runsOf (by decide), runsOf (by decide), unboundOf (by decide), by decide, by decide, by decide, by decide, by decide, by decide, calmOf rfl, by unfold State.Translated; decide, by decide⟩

/-- An access of process 0x100 to the start of fold SRAM 0. -/
def amoAccess : Access := { name := 0x100, core := 0, gid := 0x40, level := 1, data := 0, va := 0x80000000E00000, addr := sramBase 0, size := 8, kind := .amo 0 true 1 0 2 1 }

/-- Hypotheses of Atomics: the misaligned address, the one without a fault, and the arrival. -/
theorem test_hyp_atomic : (one (withRegs [(1, 0x80000000E00000), (2, 9)])).Runs 0 (withRegs [(1, 0x80000000E00000), (2, 9)])
      ([srcField ⟨1, 0⟩ 0, srcField ⟨2, 0⟩ 1] ++ (if 9 = 9 then [plainField 3 3] else [])) [0x80000000E00000, 9, 0] [3] ∧
    (0x80000000E00000 : Word).toNat % 8 = 0 ∧ (0xC0000001000004 : Word).toNat % 8 ≠ 0 ∧
    (one probeProc).translate probeProc 0x80000000E00000 true true = .pa (sramBase 0) none ∧ (one probeProc).held probeProc (sramBase 0) = false ∧
    (one probeProc).accessFault probeProc (sramBase 0) 0x80000000E00000 8 true = none ∧ placeOf amoAccess.addr = .sram 0 0 ∧ (one probeProc).MemOk ∧
    (one probeProc).NoAtomics probeProc.name ∧
    (∀ y ∈ ((one probeProc).core 0).sb, y.name ≠ probeProc.name) ∧
    (∃ y ∈ ((stored 0 none).core 0).sb, y.name = probeProc.name) :=
  ⟨runsOf (by decide), by decide, by decide, by decide, by decide, by decide, by decide, by unfold State.MemOk; decide, calmOf rfl, by decide, by decide⟩

/-- Hypotheses of FillsAndFences: a process by its name, without loads and stores under way, and with both. -/
theorem test_hyp_fill : (one probeProc).named 0x100 = some (0, probeProc) ∧ probeProc.Unbound ∧ probeProc.wait = .none ∧ (one probeProc).onceDue = [] ∧
    (one probeProc).Takes probeProc [2] ∧ probeProc.loads = [] ∧ (∃ e ∈ ((stored 0 none).core 0).sb, e.name = probeProc.name) ∧
    (∀ c ∈ (one probeProc).cores, ∀ v ∈ c.2.invals, v.poster ≠ probeProc.name) :=
  ⟨by decide, unboundOf (by decide), by decide, by decide, takesOf (by decide), by decide, by decide, by decide⟩

/-- 05 R118: a signed byte of the scratchpad. -/
theorem test_load_signed : regOf (exec (.ld 2 ⟨1, 0⟩ 0 1) { one (withRegs [(1, ownAlias)]) with mem := [(windowBase 0 + 1, 0x80)] }) 0 2 = some 0xFFFFFFFFFFFFFF80 := by decide
/-- 04 R91: a misaligned load traps with its address. -/
theorem test_load_misaligned : after (exec (.ld 2 ⟨1, 0⟩ 3 0) (one (withRegs [(1, ownAlias + 4)]))) (fun t => (t.proc 0).map (fun p => (p.ecause, p.eval))) =
    some (some (3, ownAlias + 4)) := by decide
/-- 04 R83: what a store leaves in memory when its target acknowledges it, lowest byte first. -/
theorem test_store_bytes : after (exec (.storeAck 0 1) (stored 0xC0000000000000 (some (windowBase 0)))) (fun t => (readByte t.mem (windowBase 0), readByte t.mem (windowBase 0 + 7))) =
    some (0x08, 0x01) := by decide
/-- 05 R125: AMO.ADD at its location. -/
theorem test_amo_add : after (exec (.amoAtHome amoAccess) { one probeProc with mem := [(sramBase 0, 0xFF)] }) (fun t => readLe t.mem (sramBase 0) 8) = some 0x100 := by decide

/-! ### Futures, mailboxes, borrowed slots and ports -/

/-- The first word of a scratchpad, a cell, with a full tag. -/
def celled (p : Proc) (w : Wait) : State :=
  { one { p with wait := w, hold := some { consume := 0 } } with ftags := [windowBase 0], folds := [(0, { cellWait := List.replicate 63 (0x300, 8) })] }

/-- Hypotheses of Futures. -/
theorem test_hyp_future : (one (withRegs [(1, ownAlias), (2, 9)])).Runs 0 (withRegs [(1, ownAlias), (2, 9)]) [srcField ⟨1, 0⟩ 0, srcField ⟨2, 0⟩ 1] [ownAlias, 9] [] ∧
    (one (withRegs [(1, ownAlias)])).Runs 0 (withRegs [(1, ownAlias)]) [srcField ⟨1, 0⟩ 0] [ownAlias] [3] ∧
    ownAlias.toNat % 8 = 0 ∧ isCell 0 (windowBase 0) = true ∧ (one probeProc).translate probeProc ownAlias.toNat true true = .pa (windowBase 0) none ∧
    (one probeProc).translate probeProc ownAlias.toNat false true = .pa (windowBase 0) none ∧ (one probeProc).passes 0 0x40 1 (windowBase 0) 8 true true = true ∧
    (one probeProc).poisoned (windowBase 0) 8 = false ∧
    ((celled probeProc .frd).named 0x100).map Prod.fst = some 0 ∧ windowBase 0 ∈ (celled probeProc .frd).ftags ∧ windowBase 0 + 8 ∉ (celled probeProc .frd).ftags ∧
    ((celled probeProc .frd).fold (foldOf 0)).cellWait.length < 64 ∧
    (one probeProc).NoAtomics probeProc.name :=
  ⟨runsOf (by decide), runsOf (by decide), by decide, by decide, by decide, by decide, by decide, ⟨by decide, by decide, by decide, by decide, by decide, calmOf rfl⟩⟩

/-- Two processes on core 0: one in slot 1 whose XWR is under way, and a resident of slot 0. -/
def mailed (target : Proc) (gid : Nat) : State :=
  { one target with
    procs := [(0, target), (1, { probeProc with name := 0x101, idx := 1, slot := 1, gid := gid, wait := .xwr, st := .parked, hold := some { consume := 0 } })],
    dir := [(0x100, 0), (0x101, 1)], slots := [(0, { occ := some 0 }), (1, { occ := some 1 })],
    xwrs := [{ sender := 0x101, core := 0, slot := 0, reg := 3, val := 7, target := 0x100 }] }

/-- Hypotheses of Mailboxes: a target of the group that is empty, one that is full, one of another group, and a slot without a process. -/
theorem test_hyp_mailbox : ((mailed (emptied [] 3) 0x40).named 0x101).map (fun x => (x.1, x.2.wait, x.2.hold.isSome, x.2.name)) = some (1, .xwr, true, 0x101) ∧
    (mailed (emptied [] 3) 0x40).resident 0 0 = some (0, emptied [] 3) ∧ (mailed (emptied [] 3) 0x40).resident 0 7 = none ∧ (emptied [] 3).full 3 = false ∧
    ((emptied [] 3).cell 3).pend = false ∧ probeProc.full 3 = true ∧ (0x41 : Nat) ≠ probeProc.gid ∧ (mailed (emptied [] 3) 0x40).xwrs.length = 1 ∧
    (one probeProc).xwrs = [] ∧
    (one (withRegs [(1, 63), (2, 9)])).Runs 0 (withRegs [(1, 63), (2, 9)]) [srcField ⟨1, 0⟩ 0, srcField ⟨2, 0⟩ 1] [63, 9] [] ∧ (62 : Word).toNat % 8 < 7 ∧
    (emptied [] 3).doneAt < 1 ∧
    ({ emptied [] 3 with doneAt := 5, emptied := 8 } : Proc).emptied.getLsbD (3 : Reg).toNat = true :=
  ⟨by decide, by decide, by decide, by decide, by decide, ⟨by decide, by decide, by decide, by decide, runsOf (by decide), by decide, by decide, by decide⟩⟩

/-- Hypotheses of SlotsAndPorts: a free slot, a borrowed one, a channel end of words, and a bound port. -/
theorem test_hyp_slots : (one probeProc).Issues 0 probeProc ∧ probeProc.borrow = none ∧ ((one probeProc).slot 7).occ = none ∧ ((one probeProc).slot 7).lent = none ∧
    ({ probeProc with borrow := some { slot := some 7, regs := Vector.replicate 16 0 } } : Proc).borrow.isSome = true ∧
    (({ one probeProc with eps := [(3, { owner := 0x100, handle := 5, recv := true, typ := 0, peer := ⟨0, 4, 0⟩ })] }).handle 0x100 5).isSome = true ∧
    (one probeProc).handle 0x100 63 = none ∧ typKind 0 = 0 ∧ ((probeProc.ports.toList.getD 0 {}).bound = false ∧ (probeProc.ports.toList.getD 3 {}).failed = false) ∧
    ((probeProc.putPort 3 { bound := true, kind := 0, num := 5 }).ports.toList.getD 3 {}).bound = true ∧
    (one probeProc).Takes probeProc [2] ∧
    (one (withRegs [(1, 5)])).Gives (withRegs [(1, 5)]) [srcField ⟨1, 0⟩ 0] [5] ∧
    probeProc.Unbound ∧
    probeProc.made = 0 ∧
    probeProc.onceOn = false ∧
    probeProc.vact = false :=
  ⟨issuesOf (by decide), by decide, by decide, by decide, by decide, by decide, ⟨by decide, by decide, by decide, by decide, takesOf (by decide), by unfold State.Gives; decide, unboundOf (by decide), by decide, by decide, by decide⟩⟩

/-- 05 R122: FWR fills a cell, and its tag. -/
theorem test_fwr : after (exec (.fwr ⟨1, 0⟩ ⟨2, 0⟩) (one (withRegs [(1, ownAlias), (2, 9)]))) (fun t => (t.ftags, readLe t.mem (windowBase 0) 8)) = some ([windowBase 0], 9) := by decide
/-- 05 R123: an empty cell with .T raises FUTURE_EMPTY with the address. -/
theorem test_frd_empty : after (exec (.frdAnswer { name := 0x100, core := 0, va := 8, addr := windowBase 0 + 8, t := true, c := false, reg := 2 }) (celled probeProc .frd))
    (fun t => (t.proc 0).map (fun p => (p.ecause, p.eval))) = some (some (8, 8)) := by decide
/-- 05 R107: an empty register of a process of the same group is written. -/
theorem test_xwr_lands : after (exec (.xwrWrite { sender := 0x101, core := 0, slot := 0, reg := 3, val := 7, target := 0x100 }) (mailed (emptied [] 3) 0x40))
    (fun t => (t.proc 0).map (fun p => (p.reg 3, p.full 3))) = some (some (7, true)) := by decide
/-- 05 R111: ISFULL of an empty register. -/
theorem test_isfull : regOf (exec (.isfull 2 3) (one (emptied [] 3))) 0 2 = some 0 := by decide

/-! ### Processes, groups and barriers -/

/-- Hypotheses of SimpleProcessInstructions: a light and a heavy process, the bounds of PRIO and SLEEP, and a sleeper whose time has come. -/
theorem test_hyp_simple : (one { withRegs [(1, 3)] with vcount := 0 }).Runs 0 { withRegs [(1, 3)] with vcount := 0 } [srcField ⟨1, 0⟩ 0] [3] [2] ∧
    ({ withRegs [(1, 3)] with vcount := 0 } : Proc).heavy = false ∧ probeProc.heavy = true ∧ probeProc.prio < 4 ∧ (3 : Word).toNat < 4 ∧ 4 ≤ (4 : Word).toNat ∧
    (0 : Word).toNat ≤ (one probeProc).cycle * 5 / 8 ∧ (one probeProc).cycle * 5 / 8 < (1 : Word).toNat ∧
    (one { probeProc with wait := .sleep, st := .sleeping }).named 0x100 = some (0, { probeProc with wait := .sleep, st := .sleeping }) :=
  ⟨runsOf (by decide), by and_intros <;> decide⟩

/-- A lookup for a name. -/
def look (op : LookOp) (target : Nat) : Look := { op := op, dest := ⟨0x100, 2, 1⟩, core := 0, gid := 0x40, level := 2, target := target, arg := 0 }

/-- Hypotheses of Lookups: levels below and at S, the highest name, a name of no process, and processes in the states that SUSP, RESM and MIGR meet. -/
theorem test_hyp_lookups : (one (withRegs [(1, 2 ^ 40 - 1), (2, 0)])).Runs 0 (withRegs [(1, 2 ^ 40 - 1), (2, 0)]) [srcField ⟨1, 0⟩ 0, srcField ⟨2, 0⟩ 1] [2 ^ 40 - 1, 0] [3] ∧
    (one { withRegs [(1, 2 ^ 40)] with level := 0 }).Runs 0 { withRegs [(1, 2 ^ 40)] with level := 0 } [srcField ⟨1, 0⟩ 0] [2 ^ 40] [3] ∧
    (one probeProc).reachesCore 0 (birthCore 0x100) = true ∧ coreIdOk (0 : Word).toNat = true ∧ coreIdOk (7 : Word).toNat = false ∧
    (one probeProc).named (look .pinfo 0x999).target = none ∧ (one probeProc).named (look .susp 0x100).target = some (0, probeProc) ∧
    probeProc.st ∈ [PState.ready, .resident, .parked, .blocked, .sleeping] ∧
    (one { probeProc with st := .trapped }).named (look .resm 0x100).target = some (0, { probeProc with st := .trapped }) ∧ (look .migr 0x100).op ≠ .chbind :=
  ⟨runsOf (by decide), runsOf (by decide), by and_intros <;> decide⟩

/-- A core with room for processes of the launch of `probeProc`. -/
def roomy (p : Proc) : State :=
  { one p with cores := (List.range 4).map (fun c => (c, { extSize := 8 })), launches := [(0, { probeLaunch with nodes := [0, 1, 2, 3] })],
               ltab := (List.range 4).map (fun c => (c * 16, { launch := 0, live := 1 })) }

/-- A spawn word for core 0: entry 0x100, priority 1. -/
def spawnHere : Word := 0x010000000020

/-- Hypotheses of ProcessesStart: SPAWN of a good and of a reserved word; GANG; START at a core with room. -/
theorem test_hyp_spawn : (roomy (withRegs [(5, spawnHere)])).Runs 0 (withRegs [(5, spawnHere)])
      ([srcField ⟨5, 0⟩ 0, srcField ⟨0, 0⟩ 1] ++ [1, 2, 3, 4].map (fun r => plainField (BitVec.ofNat 4 r) 3)) [spawnHere, 0, 0, 0, 0, 0] [6] ∧
    (roomy (withRegs [(5, spawnHere)])).Runs 0 (withRegs [(5, spawnHere)])
      ([srcField ⟨5, 0⟩ 0] ++ [1, 2, 3, 4].map (fun r => plainField (BitVec.ofNat 4 r) 3)) [spawnHere, 0, 0, 0, 0] [6] ∧
    ((roomy probeProc).launchOf probeProc).isSome = true ∧ ((roomy probeProc).group? 0x40).isSome = true ∧ (∀ z ∈ ((roomy probeProc).core 0).sb, z.name ≠ probeProc.name) ∧
    spawnHere.toNat < 2 ^ 48 ∧ spawnHere.toNat / 2 ^ 32 % 4 = 0 ∧ spawnHere.toNat / 4 % 8 ≤ 4 ∧ coreIdOk (spawnHere.toNat / 2 ^ 7 % 2 ^ 25) = true ∧
    2 ^ 48 ≤ (0x1000000000000 : Word).toNat ∧ spawnHere.toNat / 2 ^ 7 % 2 ^ 25 = 8 * 0 ∧ 11 % 256 % 12 = 11 ∧
    (∀ i < 4, 8 * 0 + i ∈ [0, 1, 2, 3] ∧ ((roomy probeProc).ltabIndex (8 * 0 + i) 0).isSome = true ∧
      (roomy probeProc).startCheck { probeLaunch with nodes := [0, 1, 2, 3] } (8 * 0 + i) (spawnHere.toNat / 4 % 8) = 0) ∧ (roomy probeProc).homes 0 < 32 ∧
    ((roomy probeProc).freeGid { probeLaunch with nodes := [0, 1, 2, 3] } 0).isSome = true ∧ (roomy probeProc).isQuiet 0 = false ∧
    ((roomy probeProc).freeRecord 0).isSome = true ∧ ((roomy probeProc).freeExtension 0).isSome = true ∧
    (roomy probeProc).NoAtomics probeProc.name ∧
    (roomy probeProc).supervises { probeProc with level := 0 } 0x41 = false ∧
    ({ roomy probeProc with groups := [(0x41, { home := 0, supervisor := 0x100 })] } : State).supervises probeProc 0x41 = true ∧
    (∃ c, (roomy probeProc).choosePlace { probeLaunch with nodes := [0, 1, 2, 3] } 0 0 0 = some c) ∧
    (roomy probeProc).choosePlace { probeLaunch with nodes := [] } 0 0 0 = none ∧
    (roomy probeProc).reachesCore 0 0 = true ∧
    (({ probeLaunch with words := List.replicate 17 1 } : Launch).words.getD (16 + 0) 0).getLsbD 0 = true ∧
    (({ probeLaunch with words := [] } : Launch).words.getD (16 + 0) 0).getLsbD 0 = false ∧
    0 % 256 % 12 ≠ 11 :=
  ⟨runsOf (by decide), runsOf (by decide), by decide, by decide, by decide, by decide, by decide, ⟨by decide, by decide, by decide, by decide, by decide, ⟨by decide, by decide, by decide, by decide, by decide, by decide, calmOf rfl, by decide, by decide, ⟨0, by decide⟩, by and_intros <;> decide⟩⟩⟩

/-- A group of two in its phase 3. -/
def phased : State :=
  { one (withRegs [(1, 2), (2, 5)]) with
    procs := [(0, withRegs [(1, 2), (2, 5)]), (1, { probeProc with name := 0x101, idx := 1 })], dir := [(0x100, 0), (0x101, 1)],
    groups := [(0x40, { home := 0, launch := 0, live := [0x100, 0x101], phase := 3, arrived := [0x101] })],
    eps := [(3, { owner := 0x100, handle := 2, recv := true, typ := 0, peer := ⟨0, 4, 0⟩ })] }

/-- Hypotheses of the barriers in GroupsEnd. -/
theorem test_hyp_barrier : phased.Runs 0 (withRegs [(1, 2), (2, 5)]) [srcField ⟨1, 0⟩ 0, srcField ⟨2, 0⟩ 1] [2, 5] [] ∧
    (phased.group? 0x40).map (fun g => (g.phase, g.arrived, g.pending)) = some (3, [0x101], 0) ∧ (phased.group? 0x40).map Group.expects = some [] ∧ (∀ z ∈ (phased.core 0).sb, z.name ≠ probeProc.name) ∧
    probeProc.arriving ≠ some 3 ∧ phased.Takes (withRegs [(1, 2), (2, 5)]) [3] ∧ (2 : Word).toNat < 3 ∧ 3 ≤ (3 : Word).toNat ∧ (phased.handle 0x100 2).isSome = true ∧
    phased.named 0x100 = some (0, withRegs [(1, 2), (2, 5)]) ∧ (∀ y ∈ [0x100, 0x101], y ∈ [0x101] ∨ y = 0x100) ∧
    phased.NoAtomics probeProc.name ∧
    (phased.handle 0x100 ((66 : Word).toNat % 64)).isSome = true ∧
    phased.Runs 0 (withRegs [(1, 2), (2, 5)]) [srcField ⟨1, 0⟩ 0, srcField ⟨3, 0⟩ 1] [2, 0] [] :=
  ⟨runsOf (by decide), by decide, by decide, by decide, by decide, takesOf (by decide), by decide, by decide, by decide, by decide, by decide, calmOf rfl, by decide, runsOf (by decide)⟩

/-- 06 R157: PRIO gives the old priority. -/
theorem test_prio : after (exec (.prio 2 ⟨1, 0⟩) (one (withRegs [(1, 3)]))) (fun t => (t.proc 0).map (fun p => (p.reg 2, p.prio))) = some (some (1, 3)) := by decide
/-- 06 R169: the last arrival completes the phase. -/
theorem test_barrier : after (exec (.barrierArrival 0x40 0x100) phased) (fun t => (t.group? 0x40).map (fun g => (g.phase, g.arrived))) = some (some (4, [])) := by decide
/-- 06 R154: a START makes a READY process at the entry. -/
theorem test_start : after (exec (.start { dest := ⟨0x100, 6, 1⟩, from0 := 0, core := 0, spawn := spawnHere, gid := 0x40, level := 0, args := [7, 0, 0, 0], launch := 0, member := none, newGroup := false }) (roomy probeProc)) (fun t => (t.proc 1).map (fun p => (p.st, p.pc, p.reg 1, p.level))) = some (some (.ready, 0x100, 7, 0)) := by decide


/-- Hypotheses of NothingStops: an issuing process, and an event. -/
theorem test_hyp_nothing_stops : (one probeProc).Issues 0 probeProc ∧ (Instr.powerCap 0).isWord = false ∧ ∀ w, Instr.powerCap 0 ≠ .notAnInstruction w :=
  ⟨issuesOf (by decide), by decide, by intro w h; cases h⟩

/-- Hypotheses of SystemAndProcessWordsComplete: nothing outstanding, registers of the process and of its core that its level accesses, and operands of each process instruction. -/
theorem test_hyp_words_complete : (let p := withRegs [(1, 0x101), (2, 0)]
      (one p).Issues 0 p ∧ p.st = .resident ∧ (one p).Takes p [3] ∧ p.HasTag 3 ∧ p.loads = [] ∧ (∀ e ∈ ((one p).core 0).sb, e.name ≠ p.name) ∧
      (∀ c ∈ (one p).cores, ∀ v ∈ c.2.invals, v.poster ≠ p.name) ∧ (∃ e ∈ csrTable (one p) p, e.1 = (0x010 : BitVec 12).toNat ∧ e.2.1 ≤ p.level) ∧
      (one p).Gives p [srcField ⟨1, 0⟩ 0] [0x101] ∧ (one p).Gives p [srcField ⟨1, 0⟩ 0, srcField ⟨2, 0⟩ 1] [0x101, 0] ∧ 1 ≤ p.level ∧
      (0x101 : Word).toNat < 2 ^ 40 ∧ (one p).reachesCore 0 (birthCore 0x101) = true ∧ coreIdOk (0 : Word).toNat = true ∧ (one p).Settled p) ∧
    (∃ e ∈ csrWrites probeProc 0, e.1 = (0x000 : BitVec 12).toNat ∧ e.2.1) ∧
    (one { withRegs [(1, 0)] with level := 2 }).Issues 0 { withRegs [(1, 0)] with level := 2 } ∧ dieOf (0 : Word).toNat = dieOf (8 : Word).toNat ∧
    (phased.group? 0x40).map (fun g => (g.phase, g.arrived.contains 0x100, g.expects.length)) = some (3, false, 0) ∧ probeProc.arriving ≠ some 3 ∧
    (phased.handle 0x100 ((2 : Word).toNat % 64)).isSome = true ∧ phased.Settled probeProc ∧
    ({ one probeProc with supq := [(0x100, [7])] } : State).supq.head? = some (0x100, 7 :: []) ∧
    (∀ c ∈ [0, 1, 2, 3], ((roomy probeProc).ltabIndex c 0).isSome = true) ∧ (roomy probeProc).Settled probeProc :=
  ⟨⟨issuesOf (by decide), by decide, takesOf (by decide), fun _ => by decide, by decide, by decide, by decide, by decide, by unfold State.Gives; decide, by unfold State.Gives; decide,
    by decide, by decide, by decide, by decide, settledOf rfl rfl⟩, ⟨_, List.mem_cons_self, rfl, trivial⟩, issuesOf (by decide), by decide, by decide, by decide, by decide, settledOf rfl rfl, by decide, by decide, settledOf rfl rfl⟩
/-! ### Ends, supervision, launches, pens -/

/-- Hypotheses of EXIT: at its issue, and while it drains with and without a store in the buffer. -/
theorem test_hyp_exit : (one (withRegs [(1, 5)])).Runs 0 (withRegs [(1, 5)]) [srcField ⟨1, 0⟩ 0] [5] [] ∧
    (one { probeProc with wait := .exitDrain, exiting := some 5, st := .blocked }).named 0x100 =
      some (0, { probeProc with wait := .exitDrain, exiting := some 5, st := .blocked }) ∧
    tget (one probeProc).ltab 0 = some { launch := 0, live := 1, sent := 1, taken := 1 } ∧ (∀ y ∈ ((one probeProc).core 0).sb, y.name ≠ probeProc.name) ∧
    (one { probeProc with wait := .exitDrain, exiting := some 5, st := .blocked }).engineBusy { probeProc with wait := .exitDrain, exiting := some 5, st := .blocked } = false ∧
    (∃ y ∈ ((stored 0 none).core 0).sb, y.name = probeProc.name) :=
  ⟨runsOf (by decide), by and_intros <;> decide⟩

/-- A group that its member supervises, or that is being killed. -/
def grouped (sup : Nat) (killed : Option (FillTo × Nat)) (live : List Nat) : State :=
  { one { withRegs [(1, 0x40)] with level := 1 } with groups := [(0x40, { home := 0, launch := 0, live := live, supervisor := sup, killed := killed })] }

/-- Hypotheses of KILLG and of the events of a kill. -/
theorem test_hyp_kill : (grouped 0x100 none [0x100]).Runs 0 { withRegs [(1, 0x40)] with level := 1 } [srcField ⟨1, 0⟩ 0] [0x40] [2] ∧
    ((grouped 0x100 none [0x100]).group? 0x40).map Group.killed = some none ∧ (grouped 0x999 none [0x100]).group? 0x41 = none ∧
    ((grouped 0x999 none [0x100]).group? 0x40).map Group.supervisor = some 0x999 ∧
    (one { withRegs [(1, 0x40)] with level := 0 }).Runs 0 { withRegs [(1, 0x40)] with level := 0 } [srcField ⟨1, 0⟩ 0] [0x40] [2] ∧
    ((grouped 0 (some (⟨0x100, 2, 1⟩, 0)) [0x100]).onCore 0).filter (fun e => e.2.gid == 0x40) = [(0, { withRegs [(1, 0x40)] with level := 1 })] ∧
    (grouped 0 (some (⟨0x100, 2, 1⟩, 0)) [0x100]).killWaits { withRegs [(1, 0x40)] with level := 1 } = false ∧
    ((grouped 0 (some (⟨0x100, 2, 1⟩, 3)) []).group? 0x40).map (fun g => (g.live, g.pending)) = some ([], 0) ∧
    (∀ j q, (grouped 0 none []).named 0 = some (j, q) → q.wait ≠ .trapw) :=
  ⟨runsOf (by decide), by decide, by decide, by decide, runsOf (by decide), by decide, by decide, by decide, by intro j q h; rw [show (grouped 0 none []).named 0 = none by decide] at h; cases h⟩

/-- A trapped process 0x101 whose group a process supervises. -/
def supervised (wait : Wait) (queue : List Word) : State :=
  let p : Proc := { probeProc with wait := wait, hold := some { consume := 0, dst := some 2 } }
  { one p with procs := [(0, p), (1, { probeProc with name := 0x101, idx := 1, gid := 0x41, st := .trapped, ecause := 4 })], dir := [(0x100, 0), (0x101, 1)], supq := [(0x100, queue)], groups := [(0x40, { home := 0, live := [0x100] }), (0x41, { home := 0, supervisor := 0x100, live := [0x101] })] }

/-- The notification of 0x101, held. -/
def noted (queue : List Word) (wait : Wait) : State :=
  { supervised wait queue with heldNotes := [(0x100, 0x0041040000000101)] }

/-- Hypotheses of Supervision: a queue with one, none and fifteen notifications, a supervisor that waits, and a rectangle of folds. -/
theorem test_hyp_supervision : (supervised .none [7]).cur = some 0 ∧ tgetD (supervised .none [7]).supq 0x100 [] = 7 :: [] ∧ tgetD (supervised .none []).supq 0x100 [] = [] ∧
    (∃ e ∈ (supervised .none []).groups, e.2.supervisor = 0x100 ∧ e.2.live ≠ []) ∧ (tgetD (supervised .none (List.replicate 15 0)).supq 0x100 []).length < 16 ∧
    (noted [] .trapw).heldNotes = [(0x100, 0x0041040000000101)] ∧ (0x0041040000000101 : Word).toNat % 2 ^ 40 = 0x101 ∧ ((noted [] .trapw).named 0x100).map (fun x => x.2.wait) = some .trapw ∧
    (one (withRegs [(1, 0), (2, 8)])).Runs 0 (withRegs [(1, 0), (2, 8)]) [srcField ⟨1, 0⟩ 0, srcField ⟨2, 0⟩ 1] [0, 8] [3] ∧ coreIdOk (8 : Word).toNat = true ∧
    dieOf (0 : Word).toNat = dieOf (8 : Word).toNat ∧ dieOf (0 : Word).toNat ≠ dieOf (2048 : Word).toNat ∧ ((one probeProc).procs.map Prod.fst).Nodup ∧
    ({ one { probeProc with st := .suspended } with quiet := [(0x100, [1], 0)], cycle := 64 }).stirs [1] = false ∧ 0 + 64 ≤ 64 ∧
    16 ≤ (tgetD (noted (List.replicate 16 0) .none).supq 0x100 []).length ∧
    ((noted [] .none).named 0x100).map (fun x => x.2.wait != .trapw) = some true ∧
    ((supervised .none []).proc 1).map (fun q => (q.quiesced, q.gid)) = some (none, 0x41) ∧
    (({ one probeProc with procs := [(0, probeProc), (1, { probeProc with name := 0x101, idx := 1, st := .suspended, prev := .ready, quiesced := some (rectangleId (rectangle (foldOf 0) (foldOf 8))) })] } : State).proc 1).map (fun q => (q.quiesced, q.st, q.prev)) = some (some (rectangleId (rectangle (foldOf 0) (foldOf 8))), .suspended, .ready) :=
  ⟨by decide, by decide, by decide, by decide, by decide, ⟨by decide, by decide, by decide, runsOf (by decide), by and_intros <;> decide⟩⟩

/-- A process in transit to core 1, which has room. -/
def moving : State :=
  { roomy { probeProc with st := .migrating, mprev := .ready, vcount := 0 } with eps := [(3, { owner := 0x100, handle := 5, recv := true, typ := 0, peer := ⟨0, 4, 0⟩ })] }

/-- A core without a free record. -/
def crowded : State := { moving with procs := (List.range 256).map (fun i => (256 + i, { probeProc with core := 1, idx := i })) }

/-- Hypotheses of Migrations. -/
theorem test_hyp_migration : moving.named 0x100 = some (0, { probeProc with st := .migrating, mprev := .ready, vcount := 0 }) ∧
    (moving.launchOf { probeProc with st := .migrating, mprev := .ready, vcount := 0 }).isSome = true ∧ (moving.ltabIndex 1 0).isSome = true ∧
    moving.freeRecord 1 = some 0 ∧ (moving.freeExtension 1).isSome = true ∧ moving.canAdopt { probeProc with st := .migrating, mprev := .ready, vcount := 0 } 1 = true ∧
    (moving.onCore 1).length + (moving.core 1).reserved < 256 ∧ (moving.fold (foldOf 1)).fenced = false ∧ (0 : Nat) ≠ 1 * 256 + 0 ∧
    (moving.endAt ⟨0, 3, 0⟩).map Prod.fst = some 3 ∧ locKey (moving.follow 64 ⟨0, 4, 0⟩) = locKey (moving.follow 64 ⟨0, 4, 1⟩) ∧
    (({ moving with eps := [(3, { owner := 0x100, handle := 5, recv := true, typ := 0, peer := ⟨0, 4, 0⟩, st := .forward, fwd := some ⟨1, 0, 1⟩ })] }).ep 3).map Ep.st = some .forward ∧
    ({ moving with eps := [] } : State).endsOf 0x100 = [] ∧
    moving.isQuiet 1 = false ∧
    ({ probeProc with st := .migrating, mprev := .ready, vcount := 0 } : Proc).hold = none ∧
    ({ moving with folds := [(0, { fenced := true })] } : State).fold (foldOf 1) = { fenced := true } ∧
    crowded.freeRecord 1 = none ∧
    (moving.onCore 1).length + (moving.core 1).reserved < (moving.core 1).extSize ∧
    moving.droversName 3 = false ∧
    3 / 512 % 8 ≠ 7 :=
  ⟨by decide, by decide, by decide, by decide, by decide, ⟨by decide, by decide, by decide, by decide, by decide, ⟨by decide, by decide, by decide, by decide, by decide, ⟨rfl, by rfl, by decide, by decide, by decide⟩⟩⟩⟩

/-- A package whose bothy takes launch records. -/
def booted : State := { one probeProc with pkgs := [(0, { started := true, booted := true })] }

/-- Hypotheses of Launches: a record that is refused; a launch of two cores, its header, and its done tree with a wave that may end. -/
theorem test_hyp_launch : (booted.pkg 0).booted = true ∧ (booted.pkg 0).power ≠ 2 ∧ booted.recordCode .host [] ≠ 0 ∧
    tget (roomy probeProc).launches 0 = some { probeLaunch with nodes := [0, 1, 2, 3] } ∧ [0, 1, 2, 3][1]? = some 1 ∧ [0, 1, 2, 3].Nodup ∧
    (List.range 16).find? (fun x => (tget (roomy probeProc).ltab (1 * 16 + x)).isNone) = some 1 ∧
    (roomy probeProc).ltabOf 0 0 = some { launch := 0, live := 1 } ∧ 4 * 1 + 1 ≥ [0, 1, 2, 3].length ∧
    ({ roomy probeProc with ltab := [(0, { launch := 0, live := 0 })] }).ltabOf 0 0 = some { launch := 0, live := 0 } ∧
    ({ roomy probeProc with ltab := [(0, { launch := 0, live := 0 })] } : State).writesLeft { probeLaunch with nodes := [0, 1, 2, 3] } 0 = false :=
  by and_intros <;> decide

/-- A READY process at the head of its pen, with every slot free. -/
def penned : State :=
  { one { probeProc with st := .ready, vcount := 0 } with slots := [], cores := [(0, { pens := (Vector.replicate 4 []).set! 1 [0] })] }

/-- Hypotheses of PensFillSlots. -/
theorem test_hyp_pens : penned.onCore 0 = [(0 * 256 + 0, { probeProc with st := .ready, vcount := 0 })] ∧ penWeight (penned.core 0).penw 1 ≠ 0 ∧
    (penned.core 0).pens = (Vector.replicate 4 []).set! 1 [0] ∧
    (∀ i < 8, (penned.slot (0 * 8 + i)).occ = none ∧ (penned.slot (0 * 8 + i)).lent = none ∧ (penned.slot (0 * 8 + i)).busy ≤ penned.cycle) ∧
    (one { probeProc with vcount := 0 }).resident 0 0 = some (0, { probeProc with vcount := 0 }) ∧ ((one probeProc).core 0).pens = Vector.replicate 4 [] ∧
    ({ one probeProc with cycle := 9 }).cycle % 8 ≠ 0 ∧
    (∀ q ∈ ({ probeProc with st := .ready, vcount := 0 } : Proc).ports.toList, q.held = []) ∧
    (∀ x ∈ penned.agenda, ∀ i, x.2 ≠ .quantumExpiry 0 i) :=
  ⟨by decide, by decide, by decide, by decide, by decide, ⟨by decide, by decide, by decide, by intro x hx; cases hx⟩⟩

/-- 06 R177: LIVE falls by one and the status is added. -/
theorem test_exit_folds : after (exec (.exitDrainComplete 0x100) (one { probeProc with wait := .exitDrain, exiting := some 5, st := .blocked }))
    (fun t => (tget t.ltab 0).map (fun y => (y.live, y.count))) = some (some (0, 5)) := by decide
/-- 06 R164: TRAPW gives the oldest notification. -/
theorem test_trapw : regOf (exec (.trapw 2 0) (supervised .none [7, 8])) 0 2 = some 7 := by decide

/-! ### Translation, store faults, windows -/

/-- A translation request of `probeProc`, which waits for it. -/
def asked : Xlat := { core := 0, name := 0x100, va := 0x40080000, asid := 0, root := 0x8000, level := 1, needR := true, needW := false, store := none }

/-- Hypotheses of page walks: a page the fold translator does not hold, table entries of each kind, and the end of a walk that a load waits for. -/
theorem test_hyp_walk : ((one probeProc).fold (foldOf asked.core)).lookup asked.asid asked.va = none ∧ ((one probeProc).fold (foldOf asked.core)).walks = [] ∧
    (one probeProc).backed (asked.root + asked.va / 2 ^ 43 % 2 ^ 12 * 8) 8 = true ∧
    ((0x10001 : Word).getLsbD 0 = true ∧ (0x10001 : Word).getLsbD 1 = false ∧ (∀ i ∈ [4, 6, 8, 9, 10, 11], (0x10001 : Word).getLsbD i = false) ∧
      (0x10001 : Word).toNat / 2 ^ 12 * 2 ^ 12 % 2 ^ 15 ≠ 1 ∧ (0x18001 : Word).toNat / 2 ^ 12 * 2 ^ 12 % 2 ^ 15 = 0) ∧
    ((0x8000F : Word).getLsbD 1 = true ∧ (∀ i ∈ [4, 6, 8, 9, 10, 11], (0x8000F : Word).getLsbD i = false) ∧ (0x8000F : Word).toNat / 2 ^ 12 * 2 ^ 12 % 2 ^ 19 = 0) ∧
    (0x11 : Word).getLsbD 4 = true ∧
    ({ one { probeProc with wait := .xlat, st := .parked } with folds := [(0, { walks := [asked] })] }).named 0x100 = some (0, { probeProc with wait := .xlat, st := .parked }) ∧
    tlbGrants ({ asid := 0, va := 0x40080000, size := 2 ^ 19, pa := 0x80000, r := true, w := true, u := true, g := false } : Tlb) 1 true false = true ∧
    tlbGrants ({ asid := 0, va := 0x40080000, size := 2 ^ 19, pa := 0x80000, r := false, w := true, u := true, g := false } : Tlb) 1 true false = false ∧
    (probeProc.restart = 0 ∧ probeProc.hold = none) ∧
    asked.store = none :=
  ⟨by decide, by decide, by decide, by decide, by decide, ⟨by decide, by decide, by decide, by decide, ⟨by decide, by decide⟩, rfl⟩⟩

/-- Hypotheses of store faults: the queue empty, seven and eight long; a process that has stopped. -/
theorem test_hyp_storefault : ((stored 0 none).sbEntry 0 1).map (fun e => (e.id, e.batch, e.name)) = some (1, 0, 0x100) ∧ ((stored 0 none).core 0).sfq.length < 8 ∧
    (stored 0 none).named 0x100 = some (0, probeProc) ∧ probeProc.stopped = false ∧ probeProc.st = .resident ∧
    8 ≤ (({ stored 0 none with cores := [(0, { sb := ((stored 0 none).core 0).sb, sfq := List.replicate 8 { name := 0x300, va := 0, data := 0, pc := 0, cause := 5, size := 8, time := 0 } })] }).core 0).sfq.length ∧
    (one { probeProc with stopped := true, st := .trapped, ecause := 5 }).named 0x100 = some (0, { probeProc with stopped := true, st := .trapped, ecause := 5 }) ∧
    (∀ y ∈ ((one probeProc).core 0).sb, y.name ≠ probeProc.name ∧ y.stuck = none) ∧
    (probeProc.hold = none ∧ probeProc.name = 0x100) :=
  ⟨by decide, by decide, by decide, by decide, by decide, ⟨by decide, by decide, by decide, ⟨by decide, by decide⟩⟩⟩

/-- A load of core 1's scratchpad by a process at U of core 0, and window registers that grant it, or do not. -/
def peeked (win : Word) : State :=
  { one { probeProc with level := 0, wait := .access, st := .parked, hold := some { consume := 0, dst := some 2, arg := 1 } } with
    cores := [(1, { wins := (Vector.replicate 4 0).set 0 win })] }
def peek : Access := { name := 0x100, core := 0, gid := 0x40, level := 0, data := 0, va := 0, addr := windowBase 1 + 0x3F8, size := 8, kind := .load 2 1 8 false }

/-- Hypotheses of Windows: within the bounds at their last block, beyond them, and without a register. -/
theorem test_hyp_window : ((peeked 0).named 0x100).map (fun x => (x.1, x.2.wait, x.2.hold.isSome)) = some (0, .access, true) ∧ placeOf peek.addr = .core 1 0x3F8 ∧
    (1 : Nat) ≠ peek.core ∧ peek.level = 0 ∧
    ((peeked 0).core 1).wins.toList.all (fun w => !winGrants w 0x3F8 8 0x40 true false (rowOf 0x3F8).guarded) = true ∧
    ((peeked (0x0040030000078000)).core 1).wins.toList.any (fun w => winGrants w 0x3F8 8 0x40 true false (rowOf 0x3F8).guarded) = true ∧
    (peeked 0x0040030000078000).accessFault { probeProc with level := 0, wait := .access, st := .parked, hold := some { consume := 0, dst := some 2, arg := 1 } } peek.addr peek.va 8 true = none ∧
    (one probeProc).resident 0 0 = some (0, probeProc) ∧ (one probeProc).resident 0 1 = none ∧
    (peeked 0).proc 0 = some ({ probeProc with level := 0, wait := .access, st := .parked, hold := some { consume := 0, dst := some 2, arg := 1 } }) ∧
    (({ consume := 0, dst := some 2, arg := 1 } : Hold).dst = some 2 ∧ ({ consume := 0, dst := some 2, arg := 1 } : Hold).arg = (1 : BitVec 2).toNat) ∧
    ({ probeProc with level := 0, wait := .access, st := .parked, hold := some { consume := 0, dst := some 2, arg := 1 } } : Proc).portOf 2 = none ∧
    (peeked 0).onceDue = [] ∧
    probeProc.doneAt < ({ one probeProc with cycle := 1 } : State).cycle ∧
    ({ one probeProc with cycle := 4 } : State).cycle ≤ ({ probeProc with doneAt := 5, wrote := 4 } : Proc).doneAt ∧
    ({ probeProc with doneAt := 5, wrote := 4 } : Proc).wrote.getLsbD (2 : Reg).toNat = true :=
  ⟨by decide, by decide, by decide, by decide, by decide, ⟨by decide, by decide, by decide, by decide, by decide, ⟨rfl, by decide⟩, by decide, rfl, by decide, by decide, by decide⟩⟩

/-- Hypotheses of invalidations: a writer with a launch, an invalidation that is outstanding with and without an access that uses what it drops. -/
theorem test_hyp_tinv : (one probeProc).named 0x100 = some (0, probeProc) ∧ ((one probeProc).invalsOf 0x100).length < 16 ∧
    tget (one probeProc).ltab (0 * 16 + 0) = some { launch := 0, live := 1, sent := 1, taken := 1 } ∧ tget (one probeProc).launches 0 = some probeLaunch ∧ probeLaunch.nodes.Nodup ∧
    (({ one probeProc with cores := [(0, { invals := [⟨1, 0x999, 0, 0, 0, 3, false⟩] })] }).core 0).invals.length = 1 ∧
    ({ one probeProc with cores := [(0, { invals := [⟨1, 0x999, 0, 0, 0, 3, false⟩] })] }).usesDropped 0 ⟨1, 0x999, 0, 0, 0, 3, false⟩ = false ∧
    (stored 0x40000000 (some 0)).usesDropped 0 ⟨1, 0x999, 0, 0, 0, 3, true⟩ = true ∧ (one probeProc).named 0x999 = none ∧ tinvOk 0 = true :=
  by and_intros <;> decide

/-- Hypotheses of LostLinks: a group that names package 3 as peer 1, and an access to it that was issued a millisecond ago. -/
theorem test_hyp_lost : ({ one { probeProc with wait := .access, hold := some { consume := 0, issuedAt := 0 } } with cycle := lostCycles, groups := [(0x40, { home := 0, live := [0x100], peers := [0, 0x8003000000000000] })] }).named 0x100 =
        some (0, { probeProc with wait := .access, hold := some { consume := 0, issuedAt := 0 } }) ∧
    [(0 : Word), 0x8003000000000000].findIdx? (fun w => peerNames w (pkgOfAddr (3 * 2 ^ 52))) = some 1 ∧ 0 + lostCycles = lostCycles ∧
    ((stored 0 none).sbEntry 0 1).map (fun e => (e.done, e.id)) = some (false, 1) :=
  ⟨by decide, by decide, by decide, by decide⟩

/-- 04 Table 4.3: the window register grants its last block, and not the next. -/
theorem test_window_bounds : winGrants 0x0040030000078000 0x3F8 8 0x40 true false false = true ∧ winGrants 0x0040030000078000 0x400 8 0x40 true false false = false := by decide
/-- 04 R80: an entry with a reserved bit faults. -/
theorem test_walk_reserved : after (exec (.pageWalkRead asked 3 0x80013) (one probeProc)) (fun t => t.agenda.map Prod.snd) = some [.pageWalkEnd asked none] := by decide


/-! ### Channels -/

theorem idleOf {s : State} {e : Ep} {k : Nat} {p : Proc} (h : s.named e.owner = some (k, p)) (g : p.wait = .none ∧ ∀ q ∈ p.ports.toList, q.held = []) : s.OwnerIdle e := by
  intro k' p' h'
  rw [h] at h'
  cases h'
  exact g

theorem uncountedOf {s : State} {ke : Nat} (h : ∀ g ∈ s.groups, ∀ x ∈ g.2.expects, x.2.1 ≠ ke) : s.Uncounted ke := h

/-- A send end with handle 5 and a receive end with handle 6, peers of each other, in entries 3 and 4 of core 0. -/
def sender (typ : Word) : Ep := { owner := 0x100, handle := 5, recv := false, typ := typ, peer := ⟨0, 4, 0⟩ }
def receiver (typ : Word) : Ep := { owner := 0x100, handle := 6, recv := true, typ := typ, peer := ⟨0, 3, 0⟩ }
def chan (p : Proc) (e f : Ep) : State := { one p with eps := [(3, e), (4, f)] }

/-- A message of the send end. -/
def msg (b : Body) : Msg := { src := ⟨0, 3, 0⟩, sender := 0x100, tid := none, tile := none, body := b, at0 := 0 }

/-- The types of a rendezvous and a buffered word channel, of signals, of blocks and of tiles, and of a handle channel. -/
def wordT : Word := 0
def wordQ : Word := 0x0001000000000000
def signalT : Word := 0x3000000000000000
def blockT : Word := 0x1000000000000000
def blockQ : Word := 0x1001000000000000
def tileT : Word := 0x2000000000000000
def handleT : Word := 0x4000000000000000

/-- The registers of these tests: both handles, a block of 16 bytes at 0x40, a number that is no handle. -/
def chanRegs : Proc := withRegs [(1, 5), (2, 0x000F000000000040), (3, 64), (4, 6)]

/-- Hypotheses of HandlesAreChecked: numbers 64 and 63, ends of each direction and kind, a dead one. -/
theorem test_hyp_handles : (one chanRegs).Runs 0 chanRegs [srcField ⟨3, 0⟩ 0, srcField ⟨1, 0⟩ 1] [64, 5] [] ∧ (one chanRegs).Takes chanRegs [2] ∧
    (one probeProc).handle 0x100 63 = none ∧ (∀ t : Word, (chan chanRegs (sender t) (receiver t)).handle 0x100 5 = some (3, sender t) ∧
      (chan chanRegs (sender t) (receiver t)).handle 0x100 6 = some (4, receiver t)) ∧ [wordT, blockT, tileT, signalT, handleT].map typKind = [0, 1, 2, 3, 4] ∧
    (chan chanRegs { sender wordT with st := .dead } (receiver wordT)).handle 0x100 5 = some (3, { sender wordT with st := .dead }) ∧
    (∀ n, (sender wordT).server ≠ some (.dispenser n)) ∧
    (one chanRegs).Gives chanRegs [srcField ⟨3, 0⟩ 0] [64] ∧
    (one chanRegs).Gives chanRegs [srcField ⟨1, 0⟩ 1] [5] ∧
    chanRegs.HasTag 2 ∧
    ({ sender wordT with server := some (.dispenser 3) } : Ep).server = some (.dispenser 3) :=
  ⟨runsOf (by decide), takesOf (by decide), by decide, fun t => ⟨rfl, rfl⟩, by decide, rfl, (by intro n h; cases h), (by unfold State.Gives; decide), (by unfold State.Gives; decide), fun _ => by decide, rfl⟩

/-- Hypotheses of SendsLeave, for each kind of end, with a credit and without. -/
theorem test_hyp_sends : (∀ (t : Word) (c : Nat), let e := { sender t with pend := c };
      let s := chan chanRegs e (receiver t)
      s.cur = some 0 ∧ s.proc 0 = some chanRegs ∧ s.handle 0x100 5 = some (3, e) ∧ s.ep 3 = some e ∧ 3 / 512 = chanRegs.core ∧ (s.core 0).sb = []) ∧
    (one chanRegs).Runs 0 chanRegs [srcField ⟨1, 0⟩ 0, srcField ⟨2, 0⟩ 1] [5, 0x000F000000000040] [] ∧ (0x000F000000000040 : Word).toNat / 2 ^ 24 % 2 ^ 24 = 0 ∧
    (0x000F000000000040 : Word).toNat % 2 ^ 24 + ((0x000F000000000040 : Word).toNat / 2 ^ 48 + 1) ≤ scratchSize 0 ∧ typMaxLen blockT = 16 ∧ typCap blockQ = 1 ∧ typCap wordQ = 1 ∧
    (0x40 : Nat) + typRows tileT * typRowBytes tileT ≤ scratchSize 0 ∧ (6 : Word).toNat < 64 ∧ (6 : Word) ≠ 5 ∧
    (∀ z ∈ (chan chanRegs (sender handleT) (receiver wordT)).endsOf 0x100, z.2.handle = (6 : Word).toNat → z.2.st ≠ .rebind) ∧
    (∀ e f, (chan chanRegs e f).Settled chanRegs) :=
  ⟨fun t c => ⟨rfl, rfl, rfl, rfl, rfl, rfl⟩, runsOf (by decide), by decide, by decide, by decide, by decide, by decide, ⟨by decide, by decide, by decide, by decide, fun _ _ => settledOf rfl rfl⟩⟩

/-- Hypotheses of ReceivesTake: an offer or message of each kind, none, a deadline that has passed and one that has not. -/
theorem test_hyp_receives : (∀ (t : Word) (n : Nat) (o q : List Msg), let x : Ep := { receiver t with offers := o, queue := q, pend := n }
      let s := chan chanRegs (sender t) x
      s.named 0x100 = some (0, chanRegs) ∧ s.handle 0x100 6 = some (4, x) ∧ s.ep 4 = some x ∧ x.rx = none ∧ x.dying = false ∧ x.server = none ∧ x.st = .opened ∧ x.waitK = 0) ∧
    (one chanRegs).Runs 0 chanRegs [srcField ⟨4, 0⟩ 0] [6] [7] ∧ (one chanRegs).Runs 0 chanRegs [srcField ⟨4, 0⟩ 0, srcField ⟨2, 0⟩ 1] [6, 0x000F000000000040] [7] ∧
    isBulk (.place 0 0 1 16 0) = true ∧ bodyLen (.place 0 0 1 16 0) = 16 ∧ bodyLen (.place 0 0 8 16 16) = typRows tileT * typRowBytes tileT ∧ isBulk (.place 0 0 8 16 16) = true ∧
    (0 : Word).toNat ≤ (one chanRegs).gtc ∧ (one chanRegs).gtc < (1 : Word).toNat ∧
    ((one chanRegs).fold (foldOf 0)).timers.length < 256 ∧
    (∀ e f, (chan chanRegs e f).Settled chanRegs) ∧
    chanRegs.HasTag 7 ∧
    (chan chanRegs (sender wordQ) { receiver wordQ with queue := [msg (.word 7)] }).hasPeer 4 { receiver wordQ with queue := [msg (.word 7)] } = true :=
  ⟨fun t n o q => ⟨rfl, rfl, rfl, rfl, rfl, ⟨rfl, rfl, rfl⟩⟩, runsOf (by decide), runsOf (by decide), by decide, by decide, by decide, by decide, by decide, ⟨by decide, by decide, fun _ _ => settledOf rfl rfl, fun _ => by decide, by decide⟩⟩

/-- Hypotheses of MessagesArrive at the receive end: none waits, one waits; 63 and 64 offers are held; a message for a queue with room. -/
theorem test_hyp_arrive : (∀ x ∈ [(receiver wordT), { receiver wordT with offers := List.replicate 63 (msg (.word 1)) }, { receiver wordT with offers := List.replicate 64 (msg (.word 1)) },
        { receiver wordT with rx := some { reg := 7, at0 := 0 } }, receiver wordQ],
      let s := { chan probeProc (sender x.typ) x with cycle := 1 }
      s.ep (locKey ⟨0, 4, 0⟩) = some x ∧ x.fwd = none ∧ s.fromPeer x (msg (.word 7)).src = true ∧ x.st ∈ [EpSt.opened, .wait] ∧ (s.endAt (msg (.word 7)).src).isSome = true ∧
        ((s.epsOf 0).map (fun y => y.2.offers.length)).sum = x.offers.length ∧ s.named x.owner = some (0, probeProc)) ∧
    (chan probeProc (sender wordT) (receiver wordT)).reachable (pkgOf 0) (pkgOf 0) = true ∧ (chan probeProc (sender wordT) (receiver wordT)).OwnerIdle (receiver wordT) ∧
    (chan probeProc (sender wordQ) (receiver wordQ)).Uncounted (locKey ⟨0, 4, 0⟩) ∧ (receiver wordQ).queue.length < typCap wordQ ∧ (0 : Nat) % 8 ≠ 7 ∧
    (∀ e ∈ [receiver wordT, receiver wordQ], e.dying = false ∧ e.server = none) ∧
    (one probeProc).olderDue (msg (.word 7)) = none ∧
    ({ one probeProc with agenda := [(9, .offerArrival ⟨0, 4, 0⟩ (msg (.word 3)))] } : State).olderDue { msg (.word 7) with at0 := 1 } = some 9 :=
  ⟨by decide, by decide, idleOf (k := 0) (p := probeProc) (by decide) (by decide), uncountedOf (by decide), by and_intros <;> decide⟩

/-- Hypotheses of MessagesArrive for what comes back, what is written, what expires and what is lost. -/
theorem test_hyp_back : (∀ e ∈ [sender wordT, { sender wordQ with queue := [msg (.word 7)] }, { sender blockT with ids := [(1, true)], infl := 1 }], ∀ w ∈ [Wait.none, .chan 5],
      let p := { probeProc with wait := w, hold := some { consume := 2, issuedAt := 0 } }
      let s := chan p e { receiver e.typ with rx := some { reg := 7, at0 := 0 } }
      s.endAt ⟨0, 3, 0⟩ = some (3, e) ∧ e.move = none ∧ s.named 0x100 = some (0, p) ∧ (s.endAt e.peer).any (fun x => x.2.rx.isSome) = true ∧ isBulk (.word 7) = false) ∧
    (∀ q ∈ probeProc.ports.toList, q.held = []) ∧ (chan probeProc (sender wordT) { receiver wordQ with queue := [msg (.word 7)] }).endAt ⟨0, 4, 0⟩ = some (4, { receiver wordQ with queue := [msg (.word 7)] }) ∧
    (one probeProc).MemOk ∧
    (let x : Ep := { receiver wordT with rx := some { reg := 7, at0 := 0, timed := some (0, false) } }
     let p : Proc := { probeProc with wait := .chan 6, hold := some { consume := 0, dst := some 7 }, st := .blocked }
     (chan p (sender wordT) x).named 0x100 = some (0, p) ∧ (chan p (sender wordT) x).handle 0x100 6 = some (4, x)) ∧
    ({ one probeProc with agenda := [(8, .offerArrival ⟨0, 4, 0⟩ (msg (.word 7)))] }).Due (.offerArrival ⟨0, 4, 0⟩ (msg (.word 7))) ∧
    typRetry wordT = false ∧ typRetry 0x0800000000000000 = true ∧ typQueued wordT = false ∧
    (chan probeProc (sender wordT) (receiver wordT)).OwnerIdle (sender wordT) ∧
    isDrover (sender wordT).server = false ∧
    (sender wordT).server = none ∧
    ({ one probeProc with cycle := 16 } : State).gtc = 10 ∧
    (∀ o ∈ (one probeProc).onceDue, o.1 ≠ 0x100) ∧
    probeProc.portOf 2 = none :=
  ⟨by decide, by decide, by decide, by unfold State.MemOk; decide, by decide, ⟨8, by decide⟩, by decide, by decide, by decide, idleOf (k := 0) (p := probeProc) (by decide) (by decide), by decide, rfl, by decide, (by intro o h; cases h), by decide⟩

/-- An end that moves to the core of its new owner. -/
def moveOf : EndMove := { key := 3, owner := 0x100, handle := 9, core := 0, why := .chbind ⟨0x100, 7, 1⟩ }
def rebound : Ep := { sender wordT with st := .rebind, move := some moveOf }

/-- Hypotheses of EndsMove. -/
theorem test_hyp_ends : (one chanRegs).Runs 0 chanRegs [srcField ⟨1, 0⟩ 0] [5] [7] ∧ typOk wordT false = true ∧ typOk 0x5000000000000000 false = false ∧ typQueued wordT = false ∧
    (one chanRegs).freeHandle 0x100 0 = some 0 ∧ (one chanRegs).freeHandle 0x100 (0 + 1) = some 1 ∧ (one chanRegs).freeEntry 0 0 = some 0 ∧ (one chanRegs).freeEntry 0 (0 + 1) = some 1 ∧
    ({ one chanRegs with eps := (List.range 64).map (fun i => (i, { sender wordT with handle := i })) }).freeHandle 0x100 0 = none ∧ (one chanRegs).handle 0x100 5 = none ∧
    (chan chanRegs { sender wordT with infl := 1 } (receiver wordT)).handle 0x100 5 = some (3, { sender wordT with infl := 1 }) ∧
    ((0x10009 : Word).toNat < 2 ^ 48 ∧ (0x10009 : Word).toNat / 64 % 4 = 0 ∧ (one chanRegs).named ((0x10009 : Word).toNat / 2 ^ 8) = some (0, chanRegs)) ∧
    (chan chanRegs { sender wordT with waitK := 1 } (receiver wordT)).handle 0x100 5 = some (3, { sender wordT with waitK := 1 }) ∧ (7 ≠ (0 : Reg) → (chanRegs.cell 7).out < 3) ∧
    (let s := chan probeProc rebound (receiver wordT); s.ep moveOf.key = some rebound ∧ s.named moveOf.owner = some (0, probeProc) ∧ needsRing rebound 0 0 = false ∧
      s.installCode moveOf rebound (some 9) = 0 ∧ s.freeEntry 0 0 = some 0) ∧
    (chan probeProc rebound { receiver wordT with handle := 9 }).installCode moveOf rebound (some 9) ≠ 0 ∧
    (chan chanRegs (sender wordT) (receiver wordT)).boundEnd 0x100 5 = some (3, sender wordT) ∧
    (chan chanRegs (sender wordT) (receiver wordT)).passedTo 3 = [] ∧
    (chan chanRegs (sender wordT) (receiver wordT)).hasPeer 3 (sender wordT) = true ∧
    (sender wordT).waitK ≠ 3 ∧
    (({ sender wordT with st := .dead } : Ep).waitK = 0 ∧ ({ sender wordT with st := .dead } : Ep).st ≠ .opened) ∧
    (chan probeProc rebound (receiver wordT)).hasLeft moveOf.key = false ∧
    chanRegs.HasTag 7 :=
  ⟨runsOf (by decide), by decide, by decide, by decide, by decide, by decide, ⟨by decide, by decide, by decide, by decide, by decide, ⟨by decide, by decide, by decide, by decide, by decide, ⟨by decide, by decide, by decide, by decide, ⟨by decide, by decide⟩, by decide, fun _ => by decide⟩⟩⟩⟩

/-- 07 Table 7.5: CHNEW gives the receive handle in bits 15 to 8 and the send handle in bits 7 to 0. -/
theorem test_chnew : regOf (exec (.chnew 7 ⟨0, 0⟩) (chan chanRegs { sender wordT with handle := 0 } (receiver wordT))) 0 7 = some 0x201 := by decide
/-- 07 R181: a SENDB on a receive end raises CHAN_RIGHTS with the handle. -/
theorem test_sendb_rights : after (exec (.sendb ⟨4, 0⟩ ⟨2, 0⟩) (chan chanRegs (sender blockT) (receiver blockT))) (fun t => (t.proc 0).map (fun p => (p.ecause, p.eval))) =
    some (some (0x0A, 6)) := by decide
/-- 07 R191: an end with something in flight keeps CHDEL waiting; CHDEL of no end raises CHAN_RIGHTS. -/
theorem test_chdel_waits : after (exec (.chdel ⟨1, 0⟩) (chan chanRegs { sender wordT with infl := 1 } (receiver wordT))) (fun t => ((t.proc 0).map Proc.wait, (t.ep 3).isSome)) =
    some (some (.chan 5), true) := by decide
theorem test_chpoll : regOf (exec (.chpoll 7 ⟨4, 0⟩) (chan chanRegs (sender wordQ) { receiver wordQ with queue := [msg (.word 7)] })) 0 7 = some 1 := by decide

/-! ### ALT, copies, streams, multicast, servers -/

/-- A guard table at 0x40 of core 0's scratchpad: guard words and values, as bytes that are not 0. -/
def guards (l : List (Nat × Byte)) : State := { one (withRegs [(1, 0x40), (2, 1), (3, 2)]) with mem := l.map (fun x => (windowBase 0 + x.1, x.2)) }

/-- Hypotheses of AltChooses: one guard and two, a word with a bit that is not defined, a guard that is off, a deadline that has come, and a receive guard. -/
theorem test_hyp_alt : (guards []).Runs 0 (withRegs [(1, 0x40), (2, 1), (3, 2)]) [srcField ⟨1, 0⟩ 0, srcField ⟨2, 0⟩ 1] [0x40, 1] [7] ∧
    (guards []).Runs 0 (withRegs [(1, 0x40), (2, 1), (3, 2)]) [srcField ⟨1, 0⟩ 0, srcField ⟨3, 0⟩ 1] [0x40, 2] [7] ∧
    2 ^ 17 ≤ readLe (guards [(0x42, 2)]).mem (windowBase 0 + 0x40) 8 ∧ readLe (guards []).mem (windowBase 0 + 0x40) 8 = 0 ∧
    readLe (guards [(0x51, 3), (0x52, 1)]).mem (windowBase 0 + 0x40 + 16) 8 = 2 ^ 16 + 3 * 2 ^ 8 ∧ readLe (guards [(0x51, 3), (0x52, 1)]).mem (windowBase 0 + 0x40 + 24) 8 = 0 ∧
    readLe (guards [(0x40, 6), (0x42, 1)]).mem (windowBase 0 + 0x40) 8 = 2 ^ 16 + 6 ∧ (2 ^ 16 + 6) % 64 = 6 ∧ (16 : Nat) ≤ 16 ∧
    (guards []).Settled (withRegs [(1, 0x40), (2, 1), (3, 2)]) :=
  ⟨runsOf (by decide), runsOf (by decide), by decide, by decide, by decide, by decide, by decide, ⟨by decide, by decide, settledOf rfl rfl⟩⟩

/-- A descriptor that copies eight elements of 8 bytes from 0x100 to 0x200 of the scratchpad, by the alias. -/
def copyWords : List Word := [0xC0000000000100, 0xC0000000000200, 0x0000000800080001, 0x0001000800010001, 0x0000000800000000, 0x0000000000000008, 0, 0]

/-- Hypotheses of CopiesComplete. -/
theorem test_hyp_copy : copyOk copyWords = true ∧ copySrcCounts copyWords = (8, 1, 1) ∧ copyDstCounts copyWords = (8, 1, 1) ∧ copyElem copyWords = 8 ∧ (copySrc copyWords).s0 = 8 ∧
    (copyDst copyWords).s0 = 8 ∧ (copySrc copyWords).base.toNat = 0xC0000000000000 + 0x100 ∧ (copyDst copyWords).base.toNat = 0xC0000000000000 + 0x200 ∧ 0x100 + 8 * 8 ≤ 0x200 ∧
    0x200 + 8 * 8 ≤ scratchSize 0 - 2048 * ((one probeProc).core 0).extSize ∧ copyOk [] = false ∧
    (let e : Ep := { sender wordT with ids := [(1, false)], issued := 1, infl := 1 }
     (chan probeProc e (receiver wordT)).ep 3 = some e ∧ e.fwd = none ∧ e.move = none ∧ (chan probeProc e (receiver wordT)).handle 0x100 5 = some (3, e)) ∧
    (chan probeProc (sender wordT) (receiver wordT)).OwnerIdle (sender wordT) ∧ (chan probeProc (sender wordT) (receiver wordT)).Uncounted 3 ∧ (one probeProc).MemOk ∧
    idAtOrBelow 1 1 = true ∧ idAtOrBelow 1 0 = false ∧ idAtOrBelow 0 1 = true ∧
    isDrover (sender wordT).server = false ∧
    probeProc.HasTag 7 ∧
    (chan probeProc (sender wordT) (receiver wordT)).Settled probeProc :=
  ⟨by decide, by decide, by decide, by decide, by decide, ⟨by decide, by decide, by decide, by decide, by decide, by decide, ⟨rfl, rfl, rfl, rfl⟩,
   idleOf (k := 0) (p := probeProc) rfl (by decide), uncountedOf (by decide), by unfold State.MemOk; decide, by decide, by decide, by decide, by decide, fun _ => by decide, settledOf rfl rfl⟩⟩

/-- A descriptor of a stream of 32 words from 0x100, 8 bytes apart, at 0x40, where core 0 holds it. -/
def streamed (p : Proc) : State :=
  { one p with mem := [(0x40, 0x00), (0x41, 0x01), (0x46, 0xC0), (0x48, 0x03), (0x4A, 0x01), (0x4C, 0x01), (0x4E, 0x20), (0x54, 0x08)].filterMap (fun x => if x.2 = 0 then none else some (windowBase 0 + x.1, x.2)) }
def aStream : Stream := { base := 0xC0000000000100, size := 8, write := false, c0 := 32, c1 := 1, c2 := 1, s0 := 8, s1 := 0, s2 := 0 }

/-- Hypotheses of StreamsRead: an aligned element, and one that is not. -/
theorem test_hyp_stream : (streamed (withRegs [(2, 0x40)])).Runs 0 (withRegs [(2, 0x40)]) [srcField ⟨2, 0⟩ 1] [0x40] [] ∧
    streamOf (leWords 4 (readBytes (streamed (withRegs [(2, 0x40)])).mem (windowBase 0 + 0x40) 32)) = some aStream ∧
    (let p := { probeProc with ports := probeProc.ports.set 1 { bound := true, stream := some aStream } }
     (one p).named 0x100 = some (0, p) ∧ (p.ports.toList.getD 1 {}).stream = some aStream) ∧ (streamAddr aStream 0).toNat = 0xC0000000000000 + 0x100 ∧
    (streamAddr { aStream with base := 0xC0000000000101 } 0).toNat = 0xC0000000000000 + 0x101 ∧ 0x101 % 8 ≠ 0 ∧
    (streamed (withRegs [(2, 0x40)])).Settled (withRegs [(2, 0x40)]) :=
  ⟨runsOf (by decide), by decide, ⟨rfl, rfl⟩, by decide, by decide, by decide, settledOf rfl rfl⟩

/-- Hypotheses of MulticastDelivers: a tag that is subscribed, one that is not, a full table; a block that is too long. -/
theorem test_hyp_multicast : (chan (withRegs [(1, 4095), (2, 6), (3, 0x000F000000000040)]) (sender blockQ) (receiver blockQ)).handle 0x100 6 = some (4, receiver blockQ) ∧
    (one (withRegs [(1, 4095), (2, 6), (3, 0x000F000000000040)])).Runs 0 (withRegs [(1, 4095), (2, 6), (3, 0x000F000000000040)]) [srcField ⟨1, 0⟩ 0, srcField ⟨2, 0⟩ 1] [4095, 6] [7] ∧
    (one (withRegs [(1, 4095), (2, 6), (3, 0x000F000000000040)])).Runs 0 (withRegs [(1, 4095), (2, 6), (3, 0x000F000000000040)]) [srcField ⟨1, 0⟩ 0, srcField ⟨3, 0⟩ 1] [4095, 0x000F000000000040] [] ∧
    typCap blockQ ≠ 0 ∧ (let s := { chan probeProc (sender blockQ) (receiver blockQ) with cores := [(0, { matchTab := [(4095, 4)] })] }
      (s.core 0).matchTab = [(4095, 4)] ∧ (0 * 512 + 4, receiver blockQ) ∈ s.eps ∧ (∀ c ∈ s.cores, dieOf c.1 = dieOf 0)) ∧
    typMaxLen blockQ < bodyLen (.bytes (List.replicate 17 0)) ∧ bodyLen (.bytes (List.replicate 16 0)) ≤ typMaxLen blockQ ∧
    (one probeProc).Settled probeProc ∧
    (one probeProc).olderMcast 4 (msg (.bytes [])) = none ∧
    ({ one probeProc with agenda := [(9, .mcastDelivery 4 (msg (.bytes [])))] } : State).olderMcast 4 { msg (.bytes []) with at0 := 1 } = some 9 :=
  ⟨rfl, runsOf (by decide), runsOf (by decide), by decide, ⟨rfl, by simp [chan], by decide⟩, by decide, by decide, settledOf rfl rfl, by decide, by decide⟩

/-- Hypotheses of ServersOpen: a timer, a dispenser that is free, and one that another launch holds; a designator that keeps R225 and one that does not. -/
theorem test_hyp_server : (one (withRegs [(1, 0x2000000000000000)])).Runs 0 (withRegs [(1, 0x2000000000000000)]) [srcField ⟨1, 0⟩ 0, srcField ⟨0, 0⟩ 1] [0x2000000000000000, 0] [7] ∧
    svOk 0x2000000000000000 = true ∧ svOk 0x6000000000000000 = false ∧ (one probeProc).svRefusal probeProc ⟨⟨0x100, 7, 1⟩, 0, 0x2000000000000000, []⟩ = 0 ∧
    (one probeProc).svRefusal probeProc ⟨⟨0x100, 7, 1⟩, 0, 0x1000000000000000, [1, 0, 0, 0]⟩ = 0 ∧ (one probeProc).svRefusal probeProc ⟨⟨0x100, 7, 1⟩, 0, 0x1000000000000000, []⟩ = 0x2A ∧
    ({ one probeProc with eps := (List.range 64).map (fun i => (i, { sender wordT with handle := i })) }).freeHandle probeProc.name 0 = none ∧
    (one probeProc).freeHandle probeProc.name 0 = some 0 ∧ (one probeProc).freeEntry probeProc.core 0 = some 0 :=
  ⟨runsOf (by decide), by and_intros <;> decide⟩

/-- A page of 2 GB at virtual address 0, mapped to 0x80000000 by the tables at 0x8000. -/
def mapped (p : Proc) : State := { one p with mem := [(0x8000, 0x01), (0x8002, 0x01), (0x10000, 0x2F), (0x10003, 0x80)] }

/-- A FILL of eight bytes at 0x1000, which lie in the slice of drover 2. -/
def fillReq : DrReq :=
  { key := 3, name := 0x100, core := 0, gid := 0x40, level := 1, asid := 0, root := 0x8000, words := [0x0400000700000000, 0x1000, 0x1122334455667788, 0], reply := 6, msg := msg (.bytes []) }

/-- Hypotheses of DroversServe: a request with a place and without, a slice whose access ends, and a reply that waits for its credit. -/
theorem test_hyp_drover : (mapped probeProc).drRefusal 2 fillReq = none ∧
    (mapped probeProc).slices (drAgent fillReq) (drAddr fillReq) (drBytes fillReq) (drBytes fillReq) = [(drAddr fillReq, 0x80001000, drBytes fillReq)] ∧ 0x80001000 / 2 ^ 11 % 64 = 2 % 64 ∧
    drOp fillReq.words = 4 ∧ ((mapped probeProc).drover 2).held = [] ∧
    64 ≤ (({ one probeProc with drovers := [(2, { held := List.replicate 64 ⟨0, fillReq, none, 0, 0, 0, false⟩ })] }).drover 2).held.length ∧
    (let s := { chan probeProc (sender blockQ) { receiver blockQ with hwCredits := 1 } with drovers := [(2, { held := [⟨7, fillReq, some 4, 1, 0, 0, true⟩] })] }
     (s.drover 2).held = [⟨7, fillReq, some 4, 1, 0, 0, true⟩] ∧ s.ep 4 = some { receiver blockQ with hwCredits := 1 } ∧ (s.drover 2).waiting = []) ∧
    (one probeProc).ep fillReq.key = none ∧ (({ one probeProc with drovers := [(2, { ready := [⟨7, fillReq, some 4, 0, 0, 0, true⟩] })] }).drover 2).ready = [⟨7, fillReq, some 4, 0, 0, 0, true⟩] ∧
    (mapped probeProc).reachable (pkgOf fillReq.core) (2 / 256) = true ∧
    (∀ y ∈ ((mapped probeProc).drover 2).flow, (mapped probeProc).cycle < y.1) ∧
    ((0 : Nat), 96, 97) ∈ ({ flow := [(0, 96, 97)] } : Drover).flow :=
  ⟨by decide, by decide, by decide, by decide, by decide, by decide, ⟨rfl, rfl, rfl⟩, rfl, rfl, by decide, (by intro y h; cases h), by exact List.mem_singleton.mpr rfl⟩

/-- A dispenser of 2 × 3 × 1 items. -/
def dispensing (p : Proc) (n : Nat) (x : Bool) : State :=
  { chan p { sender wordT with server := some (.dispenser 3) } (receiver wordT) with disps := [(3, { launch := 0, config := [0x0000040000600002, 0, 0, 0], n := n, exhausted := x })] }

/-- The same with queries that it has not served. -/
def asking (n : Nat) (q : List (Nat × Nat × DispAsk)) : State :=
  { dispensing probeProc n false with disps := [(3, { launch := 0, config := [0x0000040000600002, 0, 0, 0], n := n, queue := q })] }

/-- Hypotheses of DispensersHandOut: an end of a dispenser, the first item, the last, and none left. -/
theorem test_hyp_dispenser : (dispensing (withRegs [(1, 5), (2, 0x40)]) 0 false).handle 0x100 (5 : Word).toNat = some (3, { sender wordT with server := some (.dispenser 3) }) ∧
    (one (withRegs [(1, 5), (2, 0x40)])).Runs 0 (withRegs [(1, 5), (2, 0x40)]) [srcField ⟨1, 0⟩ 0, srcField ⟨2, 0⟩ 1] [5, 0x40] [7] ∧
    (one (withRegs [(1, 5), (2, 0x40)])).Runs 0 (withRegs [(1, 5), (2, 0x40)]) [srcField ⟨1, 0⟩ 0] [5] [] ∧
    (tget (asking 5 [(0, 0, .dqry ⟨0x100, 7, 1⟩ 0 3 0x40), (0, 1, .wfw 0x100 3)]).disps 3).map (fun x => (x.n, x.exhausted, x.queue.length)) = some (5, false, 2) ∧ (tget (dispensing probeProc 6 true).disps 3).map Disp.exhausted = some true ∧
    (let p := { probeProc with wait := .wfw 5, st := .blocked, hold := some { consume := 0 } }; (one p).named 0x100 = some (0, p)) ∧ (one probeProc).named 0x100 = some (0, probeProc) ∧
    (one probeProc).ep 3 = none ∧
    (tget (asking 5 [(0, 0, .wfw 0x999 3)]).disps 3).map Disp.queue = some [(0, 0, .wfw 0x999 3)] ∧
    (one probeProc).named 0x999 = none ∧
    DispAsk.dqry ⟨0x100, 7, 1⟩ 0 3 0x40 ≠ .serve ∧
    tget (one probeProc).disps 3 = none ∧
    (tget (dispensing probeProc 5 false).disps 3).map Disp.queue = some [] ∧
    probeProc.Unbound :=
  ⟨rfl, runsOf (by decide), runsOf (by decide), by decide, by decide, rfl, rfl, rfl, ⟨by decide, by decide, by decide, by decide, by decide, unboundOf (by decide)⟩⟩

/-- Hypotheses of TimersFire: an end of a timer, one of another kind, a deadline held, one that is not, one that waits behind 255 and behind 256. -/
theorem test_hyp_timer : (let p := withRegs [(1, 6), (2, 100)]; (one p).Runs 0 p [srcField ⟨1, 0⟩ 0, srcField ⟨2, 0⟩ 1] [6, 100] [7]) ∧
    (chan probeProc (sender signalT) { receiver signalT with server := some .timer }).handle 0x100 6 = some (4, { receiver signalT with server := some .timer }) ∧
    (chan probeProc (sender signalT) (receiver signalT)).handle 0x100 6 = some (4, receiver signalT) ∧ (one probeProc).cycle ≤ (one probeProc).gtcDue (100 : Word).toNat ∧
    (⟨.timerEnd 4, 100⟩ : Deadline) ∈ (({ one probeProc with folds := [(0, { timers := [⟨.timerEnd 4, 100⟩] })] }).fold 0).timers ∧
    (⟨.trecv 0x100, 100⟩ : Deadline) ∉ ((one probeProc).fold 0).timers ∧ (chan probeProc (sender signalT) { receiver signalT with server := some .timer }).OwnerIdle (receiver signalT) ∧
    (∀ n ∈ [255, 256], (({ one probeProc with folds := [(0, { timers := List.replicate n ⟨.timerEnd 4, 100⟩, timerWait := [⟨.timerEnd 9, 5⟩] })] }).fold 0).timerWait = [⟨.timerEnd 9, 5⟩] ∧
      (({ one probeProc with folds := [(0, { timers := List.replicate n ⟨.timerEnd 4, 100⟩, timerWait := [⟨.timerEnd 9, 5⟩] })] }).fold 0).timers.length = n) :=
  ⟨runsOf (by decide), rfl, rfl, by decide, by decide, by decide, idleOf (k := 0) (p := probeProc) rfl (by decide), by decide⟩

/-- 07 R208: an ALT whose guards are off gives all ones. -/
theorem test_alt_none : regOf (exec (.alt 7 ⟨1, 0⟩ ⟨2, 0⟩ 0) (guards [])) 0 7 = some 0xFFFFFFFFFFFFFFFF := by decide
/-- 07 R212: an identifier that was never issued. -/
theorem test_cwait_future : regOf (exec (.cwait 7 ⟨1, 0⟩ ⟨2, 0⟩) (chan (withRegs [(1, 5), (2, 1)]) (sender wordT) (receiver wordT))) 0 7 = some 0x4000000000000000 := by decide
/-- 08 R239: item 5 of 2 × 3 × 1 is (1, 2, 0), and the last. -/
theorem test_dispense : after (exec (.dispenserQuery 3 .serve) (asking 5 [(0, 0, .dqry ⟨0x100, 7, 1⟩ 0 3 0x40)]))
    (fun t => (t.agenda.map Prod.snd, (tget t.disps 3).map Disp.exhausted)) = some ([.dqryAnswer (.dqry ⟨0x100, 7, 1⟩ 0 3 0x40) 0x400001], some true) := by decide
/-- 08 R243: TIMER with 0 gives the deadline that was armed. -/
theorem test_timer_disarm : regOf (exec (.timer 7 ⟨1, 0⟩ ⟨0, 0⟩) (chan (withRegs [(1, 6)]) (sender signalT) { receiver signalT with server := some .timer, armed := some 100 })) 0 7 = some 100 := by decide

/-! ### Vectors and tiles -/

/-- `probeProc` at core 4, which has no vector and tile unit, and with an allotment of two registers. -/
def plainCore : Proc := { probeProc with core := 4 }
def narrow : Proc := { probeProc with vcount := 2 }

/-- The first two vector registers of core 0 with these bytes that are not 0. -/
def lanes (p : Proc) (l : List (Nat × Byte)) : State := { one p with mem := l.map (fun x => (windowBase 0 + 0x110000 + x.1, x.2)) }

/-- Hypotheses of VectorLanesRetire: the last register of the allotment, the one beyond it, no allotment and no unit. -/
theorem test_hyp_vector : (one probeProc).Issues 0 probeProc ∧ probeProc.HasVectors [31, 0, 1] ∧ (one probeProc).MemOk ∧ (one plainCore).Issues 0 plainCore ∧ hasVtu plainCore.core = false ∧
    (one narrow).Issues 0 narrow ∧ narrow.vcount ≤ (2 : BitVec 5).toNat ∧ ({ probeProc with vcount := 0 } : Proc).vcount = 0 :=
  ⟨issuesOf (by decide), by unfold Proc.HasVectors; decide, by unfold State.MemOk; decide, issuesOf (by decide), by decide, issuesOf (by decide), by decide, by decide⟩

/-- Hypotheses of VectorMasksAndScalars and VectorConversions: a mask that is not m0, register operands, and operands of conversions that are well formed. -/
theorem test_hyp_masks : (7 : BitVec 3) ≠ 0 ∧ (one (withRegs [(1, 5), (2, 63)])).Gives (withRegs [(1, 5), (2, 63)]) [plainField 1 0, plainField 2 1] [5, 63] ∧
    (one (withRegs [(1, 5), (2, 63)])).Takes (withRegs [(1, 5), (2, 63)]) [3] ∧ (withRegs [(1, 5), (2, 63)]).HasVectors [30, 31] ∧ probeProc.rmode < 5 ∧
    (Instr.vcvt 1 2 0 0 0 6).wf = true ∧ (Instr.vqnt 1 2 0 3 6).wf = true ∧ (Instr.vdqn 1 2 3 6).wf = true ∧ probeProc.HasVectors ([1, 2] ++ (if (4 : BitVec 3) = 4 then [2 + 1] else [])) :=
  ⟨by decide, by unfold State.Gives; decide, takesOf (by decide), by unfold Proc.HasVectors; decide, by decide, by decide, by decide, by decide, by unfold Proc.HasVectors; decide⟩

/-- Hypotheses of FramesCapture: the word behind VREP is of a vector major (0x28, 0x2B), or of another. -/
theorem test_hyp_frames : probeProc.HasVectors [] ∧ probeProc.pfx = [] ∧ probeProc.onceOn = false ∧ (one probeProc).poison = [] ∧
    (∀ x ∈ [((0xA0 : Byte), 0x28), (0xAC, 0x2B), (0x9C, 0x27), (0xB0, 0x2C)], readLe [(windowBase 0 + 0x120007, x.1)] (windowBase 0 + 0x120000 + (probeProc.pc + BitVec.ofNat 16 (4 * (0 + 1))).toNat) 4 / 2 ^ 26 = x.2) :=
  ⟨by unfold Proc.HasVectors; decide, by decide, by decide, by decide, by decide⟩

/-- Hypotheses of VectorMemory: aligned lanes by the alias up to the extension areas, misaligned ones, room for the lines of a store, and a load whose lanes have arrived. -/
theorem test_hyp_vectormem : (one (withRegs [(1, ownAlias + 0x5FFC0)])).Issues 0 (withRegs [(1, ownAlias + 0x5FFC0)]) ∧ (withRegs [(1, ownAlias + 0x5FFC0)]).hold = none ∧
    (one (withRegs [(1, ownAlias + 0x5FFC0)])).Gives (withRegs [(1, ownAlias + 0x5FFC0)]) [plainField 1 0] [ownAlias + 0x5FFC0] ∧
    (∀ i < 64, let a := (((ownAlias + 0x5FFC0).toNat + (0 : BitVec 5).toInt * 64 + (i * 1 : Nat)) % 2 ^ 64).toNat
      a % 1 = 0 ∧ 0xC0000000000000 ≤ a ∧ a + 1 ≤ 0xC0000000000000 + scratchSize 0 - 2048 * ((one probeProc).core 0).extSize) ∧
    ((ownAlias + 1).toNat + 0 * 8) % 8 ≠ 0 ∧ 1 ≤ (one probeProc).sbRoom 0 probeProc.name ∧
    (let p := { probeProc with wait := .access, st := .parked, hold := some { consume := 0, arg2 := 9, arg := 3 * 64 + 8, words := [0, 0x1000, 0x2000] } }
     (one p).named 0x100 = some (0, p) ∧ placeOf 0x2000 = .hbm 0 4 ∧ (one p).laneFault p 0x1000 8 0x2000 = none ∧ 0 < 64 / 8) ∧
    (one (withRegs [(1, ownAlias + 0x5FFC0)])).Settled (withRegs [(1, ownAlias + 0x5FFC0)]) :=
  ⟨issuesOf (by decide), by decide, by unfold State.Gives; decide, by decide, by decide, by decide, ⟨rfl, by decide, by decide, by decide⟩, settledOf rfl rfl⟩

/-- A tile layout of 8 × 8 FP32 elements, and of 8 × 8 E4M3 elements, whose rows are no multiple of 16 bytes. -/
def lay32 : Word := 0x001C000000000000
def badLay : Word := 0x001CC00000000000
/-- A layout of 16 × 8 FP32 elements. -/
def layB : Word := 0x201C000000000000

/-- A tile of `probeProc`. -/
def tileOf (base : Nat) : Tile := { owner := 0x100, layout := lay32, check := 9, base := base, st := .ready }

/-- Core 0 with three tiles, a bank of `probeProc`, and a tile instruction that runs there, if any. -/
def tiled (p : Proc) (r : Option TRun) : State :=
  { one p with tiles := [(0, tileOf 0), (1, tileOf 0x100), (2, tileOf 0x200)], cores := [(0, { run := r, banks := (Vector.replicate 2 {}).set! 0 { owner := 0x100 } })] }

/-- Hypotheses of TileEntries: good and bad layouts, the last base that fits and one beyond it. -/
theorem test_hyp_tdef : layoutOk lay32 = true ∧ layoutOk badLay = false ∧ (one (withRegs [(1, lay32), (2, 0x700)])).Runs 0 (withRegs [(1, lay32), (2, 0x700)]) [plainField 1 0, plainField 2 1] [lay32, 0x700] [] ∧
    ((tiled probeProc none).tileAt 0 5).st = .empty ∧ ((tiled probeProc none).tileAt 0 2).owner = probeProc.name ∧ layRows lay32 = 8 ∧ layStep lay32 = 32 ∧
    0x5FF00 + (layRows lay32 - 1) * layStep lay32 + layRowBytes lay32 ≤ scratchSize 0 ∧ scratchSize 0 < 0x5FF10 + (layRows lay32 - 1) * layStep lay32 + layRowBytes lay32 ∧
    (0x708 : Word).toNat % 2 ^ 24 % 16 ≠ 0 ∧ (0x40000000 : Word).toNat / 2 ^ 30 % 4 ≠ 0 ∧ layFormat lay32 ∉ [3, 4, 5, 6] ∧ (one plainCore).Takes plainCore [3] :=
  ⟨by decide, by decide, runsOf (by decide), by decide, by decide, by decide, by decide, by decide, ⟨by decide, by decide, by decide, by decide, takesOf (by decide)⟩⟩

/-- Hypotheses of TileInstructionsRun: a legal instruction, one on a tile of nobody, one on a tile with an error. -/
theorem test_hyp_tile : (tiled probeProc none).Issues 0 probeProc ∧ probeProc.seq = none ∧ (tiled probeProc none).tileLegal 0 probeProc (.tadd 0 1 2) = true ∧
    (tiled probeProc none).tileLegal 0 probeProc (.tadd 0 1 3) = false ∧ (tiled probeProc none).sideBusy 0 = false ∧ (tiled probeProc none).tileWaits 0 probeProc (.tadd 0 1 2) = false ∧
    (tiled probeProc none).tileFault 0 probeProc (.tadd 0 1 2) none = none ∧ ((tiled probeProc none).core 0).sb = [] ∧ (tiled probeProc none).tapeOf probeProc = none ∧
    (let s := { tiled probeProc none with tiles := [(0, tileOf 0), (1, { tileOf 0x100 with err := true, errc := 31 }), (2, tileOf 0x200)] }
     s.tileLegal 0 probeProc (.tadd 0 1 2) = true ∧ (s.namedTiles probeProc (.tadd 0 1 2)).find? (fun m => (s.tileAt 0 m).err) = some 1) ∧
    (let p := { probeProc with gang := some 0 }; let s := { tiled p none with tiles := [(1, tileOf 0x100), (2, { tileOf 0x200 with layout := layB })] }
      s.tileLegal 0 p (.gmma 0 1 2) = true ∧ s.tileLegal 0 p (.mma 0 1 2) = true) ∧
    (tiled probeProc none).tileHeld 0 probeProc (.tadd 0 1 2) = false ∧
    (tiled probeProc none).tileHeld 0 probeProc (.tadd 0 1 3) = false ∧
    ({ tiled probeProc none with tiles := [(0, { tileOf 0 with st := .filling }), (1, tileOf 0x100), (2, tileOf 0x200)] } : State).tileHeld 0 probeProc (.tadd 0 1 2) = true ∧
    (tiled probeProc none).Settled probeProc :=
  ⟨issuesOf (by decide), by decide, by decide, by decide, by decide, by decide, ⟨by decide, by decide, by decide, by decide, by decide, ⟨by decide, by decide, by decide, settledOf rfl rfl⟩⟩⟩

/-- An instruction that runs on core 0 and whose group ends now. -/
def running (op : TOp) (step : Nat) : TRun := { name := 0x100, op := op, began := 0, step := step, total := 2, due := 0 }
def inEngine : Proc := { probeProc with wait := .engine, st := .parked, hold := some { consume := 0 } }

/-- Hypotheses of TileGroupsEnd: the last group, and one before it. -/
theorem test_hyp_group : ((tiled inEngine (some (running (.azero 0) 1))).core 0).run = some (running (.azero 0) 1) ∧ (tiled inEngine (some (running (.azero 0) 1))).named 0x100 = some (0, inEngine) ∧
    (tiled probeProc none).MemOk ∧ (running (.tadd 0 1 2) 0).step + 1 < (running (.tadd 0 1 2) 0).total ∧ (running (.azero 0) 1).step + 1 = (running (.azero 0) 1).total ∧
    tfmtAcc (running (.mma 0 1 2) 0).tfmt = 0 ∧ layFormat ((tiled probeProc none).layAt 0 0) ≤ 2 ∧ layoutOk ((tiled probeProc none).layAt 0 0) = true :=
  ⟨by decide, rfl, by unfold State.MemOk; decide, by and_intros <;> decide⟩

/-- A gang of two, on cores 0 and 1, which have issued the first product of the gang; and one of which one has. -/
def member (i : Nat) : Proc := { inEngine with name := 0x100 + i, core := i, gang := some i, gmma := 1 }
def gangRun (i : Nat) : TRun := { running (.gmma 0 1 2) 0 with name := 0x100 + i, ordinal := some 1, started := false, a := { fmt := 1, cols := 16 }, b := { fmt := 1, cols := 16 } }
def ganged (both : Bool) : State :=
  { one (member 0) with
    procs := [(0, member 0), (256, member 1)], dir := [(0x100, 0), (0x101, 256)], groups := [(0x40, { home := 0, live := [0x100, 0x101], gangSize := 2 })],
    cores := [(0, { run := some (gangRun 0) }), (1, { run := if both then some (gangRun 1) else none })] }

/-- Hypotheses of GangProductsStart. -/
theorem test_hyp_gangproduct : (ganged true).gangRuns 0x40 1 = [(0, 0, member 0, gangRun 0), (1, 256, member 1, gangRun 1)] ∧ ((ganged true).group? 0x40).map Group.gangSize = some 2 ∧
    ((ganged false).gangRuns 0x40 1).length < 2 ∧ (gangRun 1).b.cols = (gangRun 0).a.cols ∧ (gangRun 0).a.fmt = (gangRun 0).b.fmt :=
  by and_intros <;> decide

/-- Hypotheses of TilesMove: a TLOAD of 8 rows that lie in the scratchpad, one whose pages cannot be read, the end of a transfer and of a drain. -/
theorem test_hyp_tilemove : (tiled (withRegs [(1, ownAlias + 0x1000)]) none).Runs 0 (withRegs [(1, ownAlias + 0x1000)]) [plainField 1 0, plainField 0 1] [ownAlias + 0x1000, 0] [] ∧
    (tiled probeProc none).tileLegal 0 probeProc (.tload 0) = true ∧ (tiled probeProc none).tileWaits 0 probeProc (.tload 0) = false ∧ (tiled probeProc none).tileLegal 0 probeProc (.tload 7) = false ∧
    ((tiled probeProc none).tileParts ((tiled probeProc none).agentOf probeProc) lay32 true (ownAlias + 0x1000) 32).toOption.isSome = true ∧
    ((tiled probeProc none).tileParts ((tiled probeProc none).agentOf probeProc) lay32 true 0x1000 32).toOption = none ∧
    (tiled probeProc none).tileLegal 0 probeProc (.adrain 0 0 false) = true ∧ (tiled probeProc none).tileWaits 0 probeProc (.adrain 0 0 false) = false ∧
    (let s := { tiled probeProc none with tiles := [(0, { tileOf 0 with st := .filling, job := some (false, [(windowBase 0 + 0x1000, 256)], 0, 0x40, 1) })] }
     (s.tileAt 0 0).due = s.cycle ∧ (s.tileAt 0 0).owner ≠ 0 ∧ (∀ x ∈ wordParts [(windowBase 0 + 0x1000, 256)], s.partFault 0 0x40 1 x.1 x.2 false = none)) ∧
    (let x : Drain := { name := 0x100, tile := 0, layout := lay32, ftz := false, rel := true, acc := 0, due := 0 }
     let s := { tiled probeProc none with cores := [(0, { banks := (Vector.replicate 2 ({} : Bank)).set! 0 { owner := 0x100, drain := some x } })] }
     (s.bankAt 0 0).drain = some x ∧ s.drainPoisoned 0 0 x = false ∧ x.layout = s.layAt 0 x.tile) ∧
    (tiled probeProc none).tileHeld 0 probeProc (.tload 7) = false ∧
    hasVtu probeProc.core = true ∧
    (tiled probeProc none).tilePoisoned 0 0 0 none = false ∧
    (tiled probeProc none).Settled probeProc ∧
    coreIdOk ((0x0000000500000010 : Word).toNat / 2 ^ 39) = true ∧
    ({ tiled probeProc none with tiles := [(0, { tileOf 0 with st := .filling })] } : State).tileHeld 0 probeProc (.tload 0) = true :=
  ⟨runsOf (by decide), by decide, by decide, by decide, by decide, by decide, ⟨by decide, by decide, by decide, by decide, by decide, ⟨by decide, by decide, settledOf rfl rfl, by decide, by decide⟩⟩⟩

/-- The command TADD of tiles 0, 1 and 2 (09 Table 9.16), and a capability for it by tile 0's check value. -/
def commandWord : Word := 0xC8011000
def commandMsg : TCommand := { sender := 0x100, core := 0, tc := 0, canW := true, canR := true, check := 9, word := 0xC8011000, va := 0, vb := 0 }

/-- Hypotheses of TileCommandsTravel: a command and a word that is none; a target that is busy and whose queue has room; a check value that is wrong; a sender that waits. -/
theorem test_hyp_command : commandOf commandWord.toNat = some (.tadd 0 1 2, false, false, 1, 2) ∧ commandOf 0 = none ∧
    (tiled (withRegs [(1, 0x300000009), (2, commandWord)]) none).Runs 0 (withRegs [(1, 0x300000009), (2, commandWord)]) [plainField 1 0, plainField 2 1] [0x300000009, commandWord] [] ∧
    coreIdOk ((0x300000009 : Word).toNat / 2 ^ 39) = true ∧ (tiled probeProc none).packages.contains (pkgOf 0) = true ∧ (tiled probeProc none).reachable (pkgOf 0) (pkgOf 0) = true ∧
    (tiled probeProc (some (running (.azero 0) 1))).commandOk commandMsg (.tadd 0 1 2) = true ∧ ((tiled probeProc none).tileAt 0 0).check ≠ 8 ∧
    (let p := { inEngine with hold := some { consume := 0, arg2 := commandMark } }; (one p).named 0x100 = some (0, p)) ∧
    coreIdOk (0x38100000009 / 2 ^ 39) = false ∧
    (tiled probeProc none).Settled probeProc :=
  ⟨by decide, by decide, runsOf (by decide), by decide, by decide, by decide, by decide, by decide, ⟨rfl, by decide, settledOf rfl rfl⟩⟩

/-- 09 Table 9.2: bytes add modulo 256. -/
theorem test_vadd : after (exec (.vadd 2 0 1 0 0) (lanes probeProc [(0, 0xFF), (64, 2)])) (fun t => readByte t.mem (windowBase 0 + 0x110000 + 128)) = some 1 := by decide
/-- 09 Table 9.3: MNOT of m0, which reads as all ones. -/
theorem test_mnot : after (exec (.mnot 1 0) (one probeProc)) (fun t => (t.proc 0).map (fun p => p.masks.toList)) = some (some [0, 0, 0, 0, 0, 0, 0, 0]) := by decide
/-- 09 R268: a lane of a vector load that is off keeps its old byte; with every lane on, the bytes of the scratchpad. -/
theorem test_vld : after (exec (.vld 1 1 0 0 0) { one (withRegs [(1, ownAlias)]) with mem := [(windowBase 0 + 3, 0x77)] }) (fun t => readByte t.mem (windowBase 0 + 0x110000 + 64 + 3)) =
    some 0x77 := by decide
/-- 09 R266: a vector instruction on a core without a vector unit is ILLEGAL. -/
theorem test_vector_absent : after (exec (.vadd 2 0 1 0 0) (one plainCore)) (fun t => (t.proc 0).map Proc.ecause) = some (some 1) := by decide
/-- 09 R274, R275: TDEF defines a tile, TSTAT reads it. -/
theorem test_tdef : after (exec (.tdef 5 1 2) (one (withRegs [(1, lay32), (2, 0x700)]))) (fun t => ((t.tileAt 0 5).st, (t.tileAt 0 5).base, (t.tileAt 0 5).gen)) = some (.ready, 0x700, 1) := by decide
theorem test_tstat : regOf (exec (.tstat 3 1) (tiled probeProc none)) 0 3 = some 0x8000000000000100 := by decide
/-- 09 R296: the group of a TADD that ends adds rows 0 to 7: 1 + 2 = 3 in the first element. -/
theorem test_tadd_group : after (exec (.tileOpComplete 0) (tiled inEngine (some { running (.tadd 0 1 2) 0 with total := 1, a := { fmt := 0, cols := 8, rows := [[0, 0, 0x80, 0x3F]] }, b := { fmt := 0, cols := 8, rows := [[0, 0, 0, 0x40]] } })))
    (fun t => readLe t.mem (windowBase 0) 4) = some 0x40400000 := by decide

/-! ### Tapes and the sum-product engine -/

/-- A descriptor of a tape of 64 · n bytes at 0x10000 of the fold memory, with a spill area of 64 · m bytes at 0x4000 (0 for none). -/
def tapeWords (n m : Nat) : List Word := [BitVec.ofNat 64 (0x10000 + n * 2 ^ 32), if m = 0 then 0 else 0x4000, BitVec.ofNat 64 m, 0, 0, 0, 0, 0]
def aTape (n m : Nat) : TapeS := { owner := 0x100, off := 0, desc := tapeWords n m }

/-- Core 0 with a tape of the process. -/
def taping (p : Proc) (t : TapeS) : State := { one p with folds := [(0, { tapes := [t] })] }

/-- Hypotheses of TapesOpenAndClose: no tape and one in each state; room for 64 bytes and for 63; the last mark; descriptors that fail and one that does not; the bounds of the operand. -/
theorem test_hyp_tape : (one (withRegs [(1, 5)])).tapeOf (withRegs [(1, 5)]) = none ∧ (one (withRegs [(1, 5)])).Runs 0 (withRegs [(1, 5)]) [srcField ⟨1, 0⟩ 0] [5] [2] ∧ hasVtu probeProc.core = true ∧
    (∀ st ∈ [TapeSt.recording, .paused, .reversing], (taping probeProc { aTape 2 0 with st := st }).tapeOf probeProc = some { aTape 2 0 with st := st }) ∧
    (aTape 1 0).room = 64 ∧ ({ aTape 1 0 with ended := 1 } : TapeS).room < 64 ∧ ({ aTape 1 0 with nextSeq := 2 ^ 32 - 1 } : TapeS).nextSeq = 2 ^ 32 - 1 ∧
    (one probeProc).taponFailure 0 (aTape 1 0) = none ∧ (one probeProc).taponFailure 0 (aTape 0 0) = some 0x31 ∧ (taping probeProc (aTape 1 0)).taponFailure 0 (aTape 1 0) = some 0x32 ∧
    ((one probeProc).core 0).sb = [] ∧ (0x17FFC0 : Word).toNat < 0x180000 ∧ (0x17FFC0 : Word).toNat % 64 = 0 ∧ (0x1FFFC1 : Word).toNat < 2 ^ 21 ∧
    (one probeProc).poisoned (sramBase (foldOf 0) + 0x17FFC0) 64 = false ∧
    (one probeProc).Settled probeProc ∧
    hasVtu plainCore.core = false :=
  ⟨rfl, runsOf (by decide), by decide, by decide, by decide, by decide, by decide, ⟨by decide, by decide, by decide, by decide, by decide, ⟨by decide, by decide, by decide, settledOf rfl rfl, by decide⟩⟩⟩

/-- Hypotheses of TapesSpill: a log that fits its spill area, one that does not; the last line of a spill, in the page at 0. -/
theorem test_hyp_spill : (taping probeProc { aTape 2 1 with ended := 64 }).tapeOf probeProc = some { aTape 2 1 with ended := 64 } ∧ (aTape 2 1).spillCap = 64 ∧ (aTape 2 1).spill = 0x4000 ∧ (aTape 2 0).spill = 0 ∧
    (one (withRegs [])).Runs 0 (withRegs []) [srcField ⟨0, 0⟩ 0] [0] [2] ∧
    (let p := { probeProc with wait := .engine, st := .parked, hold := some { consume := 0, arg2 := spillMark, arg := 0x100, dst := some 2, words := [64] } }
     let s := { mapped p with mem := [(0x0, 0x01), (0x2, 0x01), (0x10000, 0x2F), (0x10003, 0x80)], folds := [(0, { tapes := [{ aTape 2 1 with ended := 64 }], tapeUse := [0x100] })] }
     s.named 0x100 = some (0, p) ∧ s.tapeNamed (foldOf 0) 0x100 = some { aTape 2 1 with ended := 64 } ∧ s.spillLines (foldOf 0) 0x100 64 = [(0x4000, some 0x80004000)] ∧ inHbm 0x80004000 = true ∧
       s.partFault 0 p.gid p.level 0x80004000 64 true = none ∧ (∀ x ∈ wordParts [(0x80004000, 64)], s.partFault 0 p.gid p.level x.1 x.2 true = none)) ∧
    (taping probeProc { aTape 2 1 with ended := 64 }).Settled probeProc :=
  ⟨rfl, by decide, by decide, by decide, runsOf (by decide), ⟨rfl, rfl, by decide, by decide, by decide, by decide⟩, settledOf rfl rfl⟩

/-- A tape that goes back, from record 1, to target n. -/
def backTape (target cur : Nat) (under : Bool) : TapeS := { aTape 2 0 with st := .reversing, target := target, cur := cur, nextSeq := cur + 1, under := under, ended := 64, marks := [(1, 64)] }

/-- Hypotheses of TapesReverse: a mark and a number that is none; a walk that has reached its target, and one before a record that can be read. -/
theorem test_hyp_reverse : (taping (withRegs [(1, 1)]) { aTape 2 0 with marks := [(1, 64)], nextSeq := 2, ended := 64 }).Runs 0 (withRegs [(1, 1)]) [srcField ⟨1, 0⟩ 0] [1] [2] ∧
    (∃ m ∈ ({ aTape 2 0 with marks := [(1, 64)] } : TapeS).marks, m.1 = (1 : Word).toNat) ∧ (∀ m ∈ (aTape 2 0).marks, m.1 ≠ (1 : Word).toNat) ∧
    (let p := { probeProc with wait := .engine, st := .parked, hold := some { consume := 0, arg2 := walkMark, dst := some 2 } }
     let s := { one p with folds := [(0, { tapes := [backTape 1 1 false], tapeUse := [0x100] })] }
     s.named 0x100 = some (0, p) ∧ s.tapeOf p = some (backTape 1 1 false) ∧ (backTape 1 1 false).cur ≤ (backTape 1 1 false).target ∧ (backTape 1 1 false).due = s.cycle) ∧
    (backTape 0 1 true).cur = (backTape 0 1 true).target + 1 ∧
    (taping (withRegs [(1, 1)]) { aTape 2 0 with marks := [(1, 64)], nextSeq := 2, ended := 64 }).Settled (withRegs [(1, 1)]) :=
  ⟨runsOf (by decide), by decide, by decide, ⟨rfl, rfl, by decide, rfl⟩, by decide, settledOf rfl rfl⟩

/-- Hypotheses of EngineTakesInstructions: one entry and 512, a fenced fold, and each operand at its bounds. -/
theorem test_hyp_spe : (one (withRegs [(1, 0x1FF00000000), (2, 0x40)])).Runs 0 (withRegs [(1, 0x1FF00000000), (2, 0x40)]) [srcField ⟨1, 0⟩ 0, srcField ⟨2, 0⟩ 1] [0x1FF00000000, 0x40] [] ∧
    ((0x1FF00001E00 : Word).toNat / 2 ^ 41 = 0 ∧ (0x1FF00001E00 : Word).toNat / 2 ^ 13 % 2 ^ 19 = 0 ∧ (0x1FF00001E00 : Word).toNat % 2 ^ 13 + (0x1FF00001E00 : Word).toNat / 2 ^ 32 % 2 ^ 9 ≤ 8191) ∧
    ¬ ((0x1FF00001E01 : Word).toNat % 2 ^ 13 + (0x1FF00001E01 : Word).toNat / 2 ^ 32 % 2 ^ 9 ≤ 8191) ∧ ((one probeProc).fold (foldOf 0)).fenced = false ∧
    (({ one probeProc with folds := [(0, { fenced := true })] }).fold (foldOf 0)).fenced = true ∧ (0x5FFF8 : Word).toNat + 8 * ((0 : Word).toNat / 2 ^ 32 + 1) ≤ scratchSize 0 ∧
    scratchSize 0 < (0x5FFF8 : Word).toNat + 8 * ((0x100000000 : Word).toNat / 2 ^ 32 + 1) ∧ (0xFFF000 : Word).toNat % 64 = 0 ∧ (0x1FFFC0 : Word).toNat < 2 ^ 21 ∧ (0xFFFF : Word).toNat < 2 ^ 16 ∧
    (one (withRegs [(1, 0x1FF00000000), (2, 0x40)])).Settled (withRegs [(1, 0x1FF00000000), (2, 0x40)]) :=
  ⟨runsOf (by decide), by decide, by decide, by decide, by decide, by decide, ⟨by decide, by decide, by decide, by decide, settledOf rfl rfl⟩⟩

/-- An instruction in the engine of fold 0 that enters a tree, or that retires. -/
def job (fn phase : Nat) : SpeJob := { name := 0x100, core := 0, fn := fn, begin_ := 0, phase := phase, desc := List.replicate 8 0 }

/-- Hypotheses of EngineEvaluates. -/
theorem test_hyp_evaluate : (∀ fn ∈ [3, 4], let s := { one inEngine with folds := [(0, { spe := { jobs := [job fn 2] } })] }
      s.speJob 0 0x100 = some (job fn 2) ∧ (s.spe 0).jobs = [job fn 2] ∧ (s.spe 0).entered < 8) ∧
    (let s := { one inEngine with folds := [(0, { spe := { jobs := [job 3 2] } })] }; s.speFault 0 { job 3 2 with modes := (s.spe 0).modes } = none) ∧
    (let s := { one inEngine with folds := [(0, { spe := { jobs := [job 3 5] } })] }; s.speJob 0 0x100 = some (job 3 5) ∧ s.named 0x100 = some (0, inEngine)) :=
  ⟨by decide, by decide, ⟨rfl, rfl⟩⟩

/-- 10 R310: TAPOFF pauses a tape that records, and is ILLEGAL on one that is paused. -/
theorem test_tapoff : after (exec .tapoff (taping probeProc (aTape 2 0))) (fun t => (t.tapeOf probeProc).map TapeS.st) = some (some .paused) := by decide
theorem test_tapoff_paused : after (exec .tapoff (taping probeProc { aTape 2 0 with st := .paused })) (fun t => (t.proc 0).map Proc.ecause) = some (some 1) := by decide
/-- 10 R310: a mark takes 64 bytes and the next number. -/
theorem test_tmark : after (exec (.tmark 2) (taping probeProc (aTape 2 0))) (fun t => ((t.proc 0).map (fun p => p.reg 2), (t.tapeOf probeProc).map (fun x => (x.nextSeq, x.ended)))) =
    some (some 1, some (2, 64)) := by decide
/-- 11 R347: a scratchpad offset that is no multiple of 8. -/
theorem test_spld_misaligned : after (exec (.spld ⟨1, 0⟩ ⟨2, 0⟩) (one (withRegs [(1, 0), (2, 4)]))) (fun t => (t.proc 0).map (fun p => (p.ecause, p.eval))) = some (some (3, 4)) := by decide
/-- 11 R356: at its retirement an evaluation writes its result. -/
theorem test_spe_retires : after (exec (.speRetire 0 0x100) { one { inEngine with hold := some { consume := 0, dst := some 2 } } with folds := [(0, { spe := { jobs := [{ job 3 5 with result := 7 }] } })] })
    (fun t => (t.proc 0).map (fun p => (p.reg 2, p.wait))) = some (some (7, .none)) := by decide

/-- The state after a TADD of tiles 0, 1 and 2 whose tape records it, with the process in a REVERSE that has come to its record. -/
def recorded : State :=
  let s := (after (exec (.tadd 0 1 2 0 0) { tiled probeProc none with mem := [(windowBase 0 + 0x120001, 0x10), (windowBase 0 + 0x120002, 0x01), (windowBase 0 + 0x120003, 0xC8)], folds := [(0, { tapes := [aTape 4 0] })] }) (fun s => s)).getD State.reset
  { s with procs := [(0, walkP)], tiles := (tiled walkP none).tiles, folds := [(0, { tapes := [recTape], tapeUse := [0x100] })] }
where
  walkP : Proc := { probeProc with wait := .engine, st := .parked, hold := some { consume := 0, arg2 := walkMark, dst := some 2 } }
  recTape : TapeS := { aTape 4 0 with st := .reversing, cur := 1, nextSeq := 2, ended := 64, lastLen := 64, pos := 0, under := true }

/-- Hypotheses of TapesReverse for a record: it can be read, its checks pass, and its adjoint can be applied. -/
theorem test_hyp_record : (match recorded.readRecord (recorded.agentOf recorded.walkP) recorded.recTape 0 with
    | .ok r => decide (r.kind ≠ 1) && (match recorded.tryRecord recorded.walkP recorded.recTape r with
      | .ok w => (match w.op with | .tadd _ _ _ => true | _ => false) && (match recorded.applyRecord recorded.walkP recorded.recTape w with | .ok _ => true | .error _ => false)
      | .error _ => false)
    | .error _ => false) = true := by decide

/-! ### Bundles and regions -/

/-- The page of 2 GB at address 0 by tables at 0, which core 0's micro cache holds; a descriptor of bundle 5 at 0x1000 that names the line at 0x2000 in slot 0; and a bundle that is open, if any. -/
def bundled (p : Proc) (b : Option Bundle) : State :=
  { one p with mem := [(0x0, 0x01), (0x2, 0x01), (0x10000, 0x2F), (0x10003, 0x80), (0x80001003, 5), (0x80001008, 1), (0x80001041, 0x20)],
               cores := [(0, { tlb := [{ asid := 0, va := 0, size := 2 ^ 31, pa := 0x80000000, r := true, w := true, u := true, g := false }] })],
               bundles := match b with | some x => [(0x100, x)] | none => [] }

/-- Bundle 5, open for `probeProc`. -/
def bundle5 (phase left : Nat) : Bundle :=
  { id := 5, version := 0, desc := 0x80001000, mask := 1, lines := [(0, 0x80002000, 0xE0000800)], phase := phase, left := left, dest := some ⟨0x100, 7, 1⟩, core := 0, gid := 0x40 }
def bundleRegs : Proc := withRegs [(1, 5), (2, 0x1000), (3, 6), (4, 0x1020)]

/-- Hypotheses of BundlesOpenAndClose: the bounds of a number, a misaligned descriptor, one that fails, one that opens; nothing and something staged; a store on its way. -/
theorem test_hyp_bundle : (bundled bundleRegs none).Runs 0 bundleRegs [srcField ⟨1, 0⟩ 0, srcField ⟨2, 0⟩ 1] [5, 0x1000] [7] ∧ (0x1020 : Word).toNat % 64 ≠ 0 ∧ (0xFFFFFF : Word).toNat < 2 ^ 24 ∧
    (bundled bundleRegs (some (bundle5 0 0))).bundle 0x100 = some (bundle5 0 0) ∧
    (∃ y bs, (bundled bundleRegs none).translate bundleRegs 0x1000 true true = .pa 0x80001000 y ∧ (bundled bundleRegs none).descFault bundleRegs 0x80001000 0x1000 true = none ∧
      (bundled bundleRegs none).engineRead ((bundled bundleRegs none).agentOf bundleRegs) 0x1000 320 = some bs ∧
      (bundled bundleRegs none).openBundle bundleRegs 5 0x80001000 (leWords 40 bs) = .inr { bundle5 0 0 with dest := none } ∧
      (bundled bundleRegs none).openBundle bundleRegs 6 0x80001000 (leWords 40 bs) = .inl 0x51) ∧ inHbm 0x80001000 = true ∧ (bundled bundleRegs none).MemOk ∧
    (∃ e ∈ ((stored 0 none).core 0).sb, e.name = probeProc.name) ∧ (∀ e ∈ ((bundled bundleRegs none).core 0).sb, e.name ≠ probeProc.name) ∧
    ({ bundle5 0 0 with staged := [(0x80002000, 1)] } : Bundle).staged ≠ [] ∧
    (bundled bundleRegs none).Settled bundleRegs :=
  ⟨runsOf (by decide), by decide, by decide, rfl,
   ⟨_, _, rfl, by decide, rfl, by decide, by decide⟩, by decide, by unfold State.MemOk; decide, by decide, by decide, by decide, settledOf rfl rfl⟩

/-- Hypotheses of BundlesCommit: a line without and with a pending version, in phase 2; the last answer, and one before it. -/
theorem test_hyp_commit : (bundled bundleRegs (some (bundle5 1 1))).bundle 0x100 = some (bundle5 1 1) ∧ (bundle5 1 1).line 0 = some (0x80002000, 0xE0000800) ∧
    (bundled probeProc none).reachable (pkgOf 0) (pkgOfAddr 0x80002000) = true ∧ 0x80002000 + 64 ≤ 0xE0000800 ∧ shPend ((bundled probeProc none).memWord 0xE0000800) = false ∧
    shPend (({ bundled probeProc none with mem := [(0xE0000800, 0x40)] } : State).memWord 0xE0000800) = true ∧ (bundled probeProc none).retained (lineDrover 0x80002000) < 4096 ∧
    ({ bundled probeProc none with pendLines := [(0x80002000, List.replicate 64 1)] }.pendLines.find? (fun l => l.1 == 0x80002000)) = some (0x80002000, List.replicate 64 1) ∧
    1 < (bundle5 2 2).left ∧ (bundle5 2 1).left = 1 ∧ (bundle5 2 1).failed = false :=
  ⟨rfl, by decide, by decide, by decide, by decide, ⟨by decide, by decide, rfl, by decide, by decide, by decide⟩⟩

/-- A read of the line, by BLD or by BLD.R. -/
def readLine (view : Word) (r : Bool) : BldReq :=
  { dest := ⟨0x100, 7, 1⟩, core := 0, view := view, viewDest := if r then some ⟨0x100, 8, 1⟩ else none, pa := 0x80002038, line := 0x80002000, shadow := 0xE0000800 }

/-- The shadow entry of the line: bundle 5 at version 1, with a previous version, which is kept. -/
def committed (p : Proc) : State := { bundled p none with mem := [(0xE0000800, 0x80), (0xE0000803, 1), (0xE0000805, 5)], prevLines := [(0x80002000, List.replicate 64 7)] }

/-- Hypotheses of BundlesAreRead: a view and words that are none; a line of a page; the current version, the previous one, and another bundle's. -/
theorem test_hyp_read : (0x05000001 : Word).toNat / 2 ^ 48 = 0 ∧ (0x05000001 : Word).toNat / 2 ^ 24 ≠ 0 ∧ (0x05000001 : Word).toNat / 2 ^ 16 % 2 ^ 8 = 0 ∧ (0x05010001 : Word).toNat / 2 ^ 16 % 2 ^ 8 ≠ 0 ∧
    (let p := withRegs [(1, 0x2038), (2, 0x05000001)]; (bundled p none).Runs 0 p [srcField ⟨1, 0⟩ 0, srcField ⟨2, 1⟩ 1] [0x2038, 0x05000001] [7, 2]) ∧
    (∃ y, (bundled probeProc none).translate probeProc 0x2038 true false = .pa 0x80002038 y) ∧ (bundled probeProc none).bundleLine probeProc 0x2038 false = some (0x80002000, 0xE0000800) ∧
    (bundled probeProc none).accessFault probeProc 0x80002038 0x2038 8 true = none ∧ (bundled probeProc none).descFault probeProc 0x80001000 0x1000 false = none ∧
    (committed probeProc).bundle 0x100 = none ∧ (readLine 0 true).line ≤ (readLine 0 true).pa ∧ (readLine 0 true).pa + 8 ≤ (readLine 0 true).line + 64 ∧
    (let sh := (committed probeProc).memWord 0xE0000800; shId sh = 5 ∧ shCur sh = 1 ∧ shPrev sh = true ∧ bdId 0x05000001 = 5 ∧ bdId 0x06000001 = 6) ∧
    (let p := { probeProc with wait := .access, hold := some { consume := 0 } }; (committed p).named 0x100 = some (0, p)) ∧
    (bundled probeProc none).Settled probeProc ∧
    ((2 : Reg) ≠ 0 ∧ (7 : Reg) ≠ 2 ∧ (probeProc.cell 2).out < 3 ∧ (probeProc.cell 7).out < 3) :=
  ⟨by decide, by decide, by decide, by decide, runsOf (by decide), ⟨_, rfl⟩, by decide, by decide, by decide, rfl, by decide, ⟨by decide, by decide, rfl, settledOf rfl rfl, by decide⟩⟩

/-- A core at whose word an RGO stands, with a body of RDONE alone, or of a word that may not stand there. -/
def going (p : Proc) (body : List (Nat × Byte)) : State := { bundled p none with mem := body.map (fun x => (windowBase 0 + 0x120004 + x.1, x.2)) }
def rdoneBytes : List (Nat × Byte) := [(0, 0x20), (3, 0xE0)]

/-- A region that has set out, and the checkpoint of its issuer. -/
def aRegion : Region := { name := 0x100, core := 0, gid := 0x40, level := 1, asid := 0, root := 0, pa := 0x80002000, regs := List.replicate 16 0, word := 0, pc := 0, body := [0xE0000020], sent := 0 }
def ckpt (receipt : Bool) : RegionCkpt := { word := 0, pc := 0, sent := 0, target := 0x80002000, regs := List.replicate 16 0, receipt := receipt }
def away (receipt : Bool) : Proc := { probeProc with wait := .reg 0, st := .parked, region := some (ckpt receipt), regs := Vector.replicate 16 { val := 0, full := false, pend := true } }

/-- Hypotheses of RegionsSetOutAndReturn: a body that is refused and one that is sent; a return before and after 65,536 ns. -/
theorem test_hyp_region : (let p := withRegs [(1, 0x2000)]
      (going p rdoneBytes).Issues 0 p ∧ p.region = none ∧ (going p rdoneBytes).regionBody 0 p.pc 0 = .inr [0xE0000020] ∧ (going p [(0, 0x01), (3, 0xFC)]).regionBody 0 p.pc 9 = .inl 9 ∧
      (going p rdoneBytes).Gives p [srcField ⟨1, 0⟩ 0] [0x2000] ∧ (∀ r, p.full r = true) ∧ (∃ y, (going p rdoneBytes).translate p 0x2000 true false = .pa 0x80002000 y) ∧
      (going p rdoneBytes).backed 0x80002000 1 = true ∧ ((going p rdoneBytes).core 0).sb = []) ∧
    (∀ x ∈ [true, false], (one (away x)).named 0x100 = some (0, away x) ∧ (away x).region = some (ckpt x) ∧ (∀ r ≠ 0, ((away x).cell r).pend = true) ∧ (ckpt x).regs.length = 16) ∧
    (one probeProc).reachable (pkgOfAddr 0x80002000) (pkgOf 0) = true ∧
    (let p := withRegs [(1, 0x2000)]; (going p rdoneBytes).Settled p) ∧
    ({ one probeProc with cycle := 104855 } : State).since 0 < 65536 ∧
    65536 ≤ ({ one probeProc with cycle := 104858 } : State).since 0 :=
  ⟨⟨issuesOf (by decide), by decide, by decide, by decide, by unfold State.Gives; decide, by decide, ⟨_, rfl⟩, by decide, by decide⟩, by decide, by decide, settledOf rfl rfl, by decide, by decide⟩

/-- Hypotheses of RegionsLand: 3 and 4 slots taken, 7 and 8 waiting; attempts that have not run, have run, have met a fault, and are stale. -/
theorem test_hyp_land : (∀ n ∈ [3, 4], ∀ m ∈ [7, 8], let l : Landing := { slots := List.replicate n { region := aRegion }, queue := List.replicate m aRegion }
      (({ one probeProc with landings := [(128, l)] }).landing 128).slots.length = n ∧ (({ one probeProc with landings := [(128, l)] }).landing 128).queue.length = m) ∧
    (∀ x ∈ [({ region := aRegion } : LandSlot), { region := aRegion, ran := true, fault := some (0, 1) }, { region := aRegion, ran := true, stale := true, attempt := 4 },
        { region := aRegion, ran := true, stores := [(0x80002000, 8, 7)] }], (({ one probeProc with landings := [(128, { slots := [x] })] }).landing 128).slots = [x]) ∧
    (one probeProc).hasFeature (pkgOfAddr 0x80002000) featReg = true ∧ ({ one probeProc with pkgs := [(0, { feature := 0 })] }).hasFeature 0 featReg = false ∧ inHbm 0x80002000 = true ∧
    (one probeProc).reachable (pkgOf aRegion.core) (pkgOfAddr aRegion.pa) = true :=
  by and_intros <;> decide

/-- 12 R390: BSTAT without a bundle reads 0; with one that is open, bit 62, its number and version. -/
theorem test_bstat : regOf (exec (.bstat 7) (bundled bundleRegs (some (bundle5 0 0)))) 0 7 = some 0x4000000005000000 := by decide
/-- 12 R387: BCLOSE without a bundle is ILLEGAL. -/
theorem test_bclose_none : after (exec (.bclose 7) (bundled bundleRegs none)) (fun t => (t.proc 0).map Proc.ecause) = some (some 1) := by decide
/-- 12 R387: in phase 2 the line takes its pending bytes, and its shadow entry the next version. -/
theorem test_phase2 : after (exec (.bundlePhase2 0x100 0) { bundled bundleRegs (some (bundle5 2 1)) with pendLines := [(0x80002000, List.replicate 64 9)] })
    (fun t => (readByte t.mem 0x8000203F, shCur (t.memWord 0xE0000800))) = some (9, 1) := by decide
/-- 12 R380: a region that ends well gives its registers back. -/
theorem test_region_return : regOf (exec (.regionReturn 0x100 0 (.success 2 (List.replicate 16 5))) (one (away true))) 0 3 = some 5 := by decide

/-! ### Exchanges, links and keys -/

/-- Two packages with a link between them that is up; an exchange descriptor of 2^2 elements of 8 bytes at 0xC0000000000000 + 0x100, bit 1, dimension 0. -/
def linked (p : Proc) : State :=
  { one p with packages := [0, 1], links := [(0, { up := true, peer := 1, peerLink := farLink 0, hop := 100 }), (12 + farLink 0, { up := true, peer := 0, hop := 100 })] }
def pxWords : List Word := [0xC0000000000100, 0x1081000, 0, 0]
def permxOf (core : Nat) (partner : Option Nat) (left : Nat) : Permx :=
  { owner := 0x100 + core, core := core, key := 3, tid := 1, gid := 0x40, level := 1, asid := 0, root := 0, launch := 0, desc := pxWords, partner := partner, left := left }

/-- Hypotheses of ExchangesRun: a descriptor that keeps R382 and one that does not, a peer package that is there and one that is not; two operations that are paired, not paired, and at their last element. -/
theorem test_hyp_exchange : pxOk pxWords = true ∧ pxOk [1, 0x1081000, 0, 0] = false ∧ (linked (withRegs [(1, 5), (2, 0x40)])).Runs 0 (withRegs [(1, 5), (2, 0x40)]) [srcField ⟨1, 0⟩ 0, srcField ⟨2, 0⟩ 1] [5, 0x40] [7] ∧
    pxPeer 0 pxWords = 1 ∧ (linked probeProc).packages.contains 1 = true ∧ (one probeProc).packages.contains 1 = false ∧ (linked probeProc).reachable 0 1 = true ∧ (linked probeProc).hasFeature 1 featPerm = true ∧
    (0x47 : Word).toNat % 2 ^ 24 % 8 ≠ 0 ∧ (0x5FFE0 : Nat) + 32 ≤ scratchSize 0 ∧ scratchSize 0 < 0x5FFE8 + 32 ∧
    (let s := { linked probeProc with permxs := [(1, permxOf 0 none 0), (2, permxOf 8192 none 0)] }
     s.permx 1 = some (permxOf 0 none 0) ∧ s.permx 2 = some (permxOf 8192 none 0)) ∧ pxAgree pxWords pxWords = true ∧
    (let s := { linked probeProc with permxs := [(1, permxOf 0 (some 2) 2), (2, permxOf 8192 (some 1) 0)] }
     s.permx 1 = some (permxOf 0 (some 2) 2) ∧ (s.engineRead (permxOf 0 none 0).agent (pxAddr pxWords 0) (pxSize pxWords)).isSome = true ∧
       (s.engineWrite (permxOf 0 none 0).agent 0x100 (pxAddr pxWords 0) [1, 2, 3, 4, 5, 6, 7, 8]).isSome = true) ∧ (permxOf 0 (some 2) 1).left = 1 ∧
    (linked (withRegs [(1, 5), (2, 0x40)])).Settled (withRegs [(1, 5), (2, 0x40)]) :=
  ⟨by decide, by decide, runsOf (by decide), by decide, by decide, by decide, by decide, by decide, ⟨by decide, by decide, by decide, ⟨rfl, rfl⟩, by decide, ⟨rfl, by decide, by decide⟩, rfl, settledOf rfl rfl⟩⟩

/-- Two operations that pair: bit 1 of two bits is exchanged between packages 0 and 1, whose cores both belong to launch 0. -/
def pairing : State :=
  { linked probeProc with permxs := [(1, permxOf 0 none 0), (2, { permxOf 8192 none 0 with gid := 0x40 })] }

/-- A flit, and a link with keys. -/
def flit (used seq ack : Nat) (ackv : Bool) : Flit := { cnt := 1, seq := seq, ks := false, mark := false, plane := false, used := used, ack := ack, ackv := ackv, nak := false, payload := [], tag := [] }
def keyed (l : Link) : State := { linked probeProc with links := [(0, l)] }
def liveLink : Link := { up := true, peer := 1, peerLink := 1, hop := 100 }

/-- Hypotheses of LinksCarryFlits: a flit that is next and one that is not; no key, an old count; an acknowledgement; 16 microseconds and one cycle less; 24 hours; neighbours. -/
theorem test_hyp_flit : (keyed liveLink).link 0 0 = liveLink ∧ (flit 2 0 0 false).seq = liveLink.expected ∧ (flit 2 1 0 false).seq ≠ liveLink.expected ∧ liveLink.rx.toList.getD 0 none = none ∧
    (let x : KeySlot := { key := [], salt := [], last := some 1 }; ({ liveLink with rx := Vector.replicate 2 (some x) } : Link).rx.toList.getD 0 none = some x) ∧
    (let l := { liveLink with sent := [(flit 2 0 0 false, 0, [])] }; (keyed l).link 0 0 = l ∧ (flit 2 0 0 false).seq = (flit 0 0 0 true).ack) ∧
    ({ keyed { liveLink with sent := [(flit 2 0 0 false, 0, [])] } with cycle := 25600 }).cycle = 0 + 25600 ∧ (25599 : Nat) < 0 + 25600 ∧ (1 : Nat) = linkNeighbour 0 0 ∧
    (let s := { keyed { liveLink with up := false } with cycle := dayCycles }; (s.link 0 0).up = false ∧ (s.link 0 0).downAt + dayCycles = s.cycle ∧ s.packages.contains 1 = true ∧ (s.pkg 1).power ≠ 3) :=
  ⟨rfl, rfl, by decide, rfl, rfl, ⟨rfl, rfl⟩, by decide, by decide, by decide, by decide⟩

/-- A gateway packet, and a route on which packets 0 to 4 have been delivered. -/
def gpacket (n : Nat) : GPacket := { srcDie := 0, dstDie := 1, plane := false, seq := n, load := some amoAccess }
def sequenced (held : List GPacket) : State := { one probeProc with seqHeld := [(0, 1, false, 5, held)] }

/-- Hypotheses of PacketsArriveInOrder: a packet that is next, one that has been delivered, one ahead of its turn and one that is held. -/
theorem test_hyp_packets : (sequenced []).seqHeld.find? (fun e => e.1 == (gpacket 5).srcDie && e.2.1 == (gpacket 5).dstDie && e.2.2.1 == (gpacket 5).plane) = some (0, 1, false, 5, []) ∧
    (sequenced []).routeStalled 0 0 = false ∧ (gpacket 4).seq < 5 ∧ (gpacket 5).seq = 5 ∧ 5 < (gpacket 6).seq ∧ (gpacket 6) ∈ [gpacket 6] ∧ (gpacket 7) ∉ [gpacket 6] ∧ (∀ q ∈ [gpacket 6], q.seq ≠ 5) ∧
    (sequenced []).reachable 0 0 = true := by and_intros <;> decide

/-- Hypotheses of PeersAreKept: a supervisor, level M, another process; no group; entries for the package itself, one that is not there and a good one. -/
theorem test_hyp_peer : (linked (withRegs [(1, 0x200), (2, 0x8001000000000000)])).Runs 0 (withRegs [(1, 0x200), (2, 0x8001000000000000)]) [srcField ⟨1, 0⟩ 0, srcField ⟨2, 0⟩ 1] [0x200, 0x8001000000000000] [7] ∧
    (0x200 : Word).getLsbD 9 = true ∧ (0x8001000000000000 : Word).getLsbD 63 = true ∧ (0x8001000000000000 : Word).toNat / 2 ^ 48 % 2 ^ 12 = 1 ∧ (0x8001000000000000 : Word).toNat % 2 ^ 48 = 0 ∧
    (0x8001000000000000 : Word).toNat / 2 ^ 60 % 8 = 0 ∧ (0x20000000000003F : Word).toNat / 2 ^ 48 ≠ 0 ∧ (linked probeProc).group? 0x200 = none ∧ ((linked probeProc).group? probeProc.gid).isSome = true ∧
    ((linked probeProc).group? probeProc.gid).map Group.supervisor ≠ some probeProc.name ∧ ((grouped 0x100 none [0x100]).group? 0x40).map Group.supervisor = some 0x100 ∧ probeProc.level = 1 :=
  ⟨runsOf (by decide), by and_intros <;> decide⟩

/-- Hypotheses of LinkKeysAreLoaded: a store with a key and without; the slot in use and the other; a link never trained. -/
theorem test_hyp_lkey : (let p := { withRegs [(1, 0xA0), (2, 5)] with level := 2 }; (one p).Runs 0 p [srcField ⟨1, 0⟩ 0, srcField ⟨2, 0⟩ 1] [0xA0, 5] [7]) ∧ (0xA0 : Word).toNat = 2 ^ 7 + 2 ^ 5 + 0 * 2 ^ 4 + 0 ∧
    (0x9B : Word).toNat = 2 ^ 7 + 1 * 2 ^ 4 + 11 ∧ (0x50 : Word).toNat = 2 ^ 6 + 1 * 2 ^ 4 + 0 ∧ tget ((one probeProc).pkg 0).keys 5 = none ∧
    tget (({ one probeProc with pkgs := [(0, { keys := [(5, List.replicate 36 1)] })] }).pkg 0).keys 5 = some (List.replicate 36 1) ∧ (keyed liveLink).link 0 0 = liveLink ∧ liveLink.active = 0 ∧
    ((one probeProc).link 0 0).up = false ∧ ((one probeProc).link 0 0).downs = 0 ∧ (6 : Nat) < 7 ∧ (0x6001000000000000 : Word).toNat / 2 ^ 60 = 6 ∧ (0x6001000000000000 : Word).toNat / 2 ^ 4 % 2 ^ 44 = 0 :=
  ⟨runsOf (by decide), by decide, by decide, by decide, by decide, by decide, ⟨rfl, rfl, by and_intros <;> decide⟩⟩

/-- 12 R383: pairing a descriptor with itself. -/
theorem test_pairing : pairing.permxPartner (permxOf 0 none 0) = some (2, permxOf 8192 none 0) := by decide
/-- 12 R376: LSTAT 0 of a link that is up and was trained with 100 ns. -/
theorem test_lstat : regOf (exec (.lstat 7 ⟨0, 0⟩) (linked probeProc)) 0 7 = some (BitVec.ofNat 64 (2 ^ 63 + 1 * 2 ^ 36 + farLink 0 * 2 ^ 32 + (linked probeProc).hopTime 0 0 % 65536)) := by decide
/-- 12 R367: LKEY below level M traps. -/
theorem test_lkey_privilege : after (exec (.lkey 7 ⟨1, 0⟩ ⟨2, 0⟩) (one (withRegs [(1, 0xA0), (2, 5)]))) (fun t => (t.proc 0).map Proc.ecause) = some (some 2) := by decide
/-- 12 R363: a packet ahead of its turn is held. -/
theorem test_packet_held : after (exec (.gatewayPacketArrival (gpacket 6)) (sequenced [])) (fun t => t.seqHeld.map (fun e => (e.2.2.2.1, e.2.2.2.2))) = some [(5, [gpacket 6])] := by decide

/-! ### Deadlock reports, packages -/

/-- Processes 0x100 and 0x101, each BLOCKED to receive from the other. -/
def stuck (n : Nat) : Proc := { probeProc with name := 0x100 + n, idx := n, slot := n, st := .blocked, wait := .chan 6, episode := 1, hold := some { consume := 0, dst := some 7 } }
def deadlocked : State :=
  { one (stuck 0) with
    procs := [(0, stuck 0), (1, stuck 1)], dir := [(0x100, 0), (0x101, 1)], slots := [(0, { occ := some 0 }), (1, { occ := some 1 })],
    eps := [(3, { receiver wordT with peer := ⟨0, 5, 0⟩ }), (4, { receiver wordT with owner := 0x101, peer := ⟨0, 6, 0⟩ }), (5, { sender wordT with owner := 0x101, peer := ⟨0, 3, 0⟩ }), (6, { sender wordT with peer := ⟨0, 4, 0⟩ })] }
def deadPath : List Member := [⟨0x100, 1, 6, 1⟩, ⟨0x101, 1, 6, 1⟩]

/-- Hypotheses of DeadlocksAreReported: a probe at its start, under way, at its initiator and at a process that waits for nothing; a confirmation at each member; a queue of 7 and of 8 reports. -/
theorem test_hyp_deadlock : deadlocked.named 0x100 = some (0, stuck 0) ∧ deadlocked.isProbed (stuck 0) = true ∧ deadlocked.isProbed (stuck 1) = true ∧ (deadlocked.edges (stuck 0)).map Prod.snd = [0x101] ∧
    deadlocked.aidComing (stuck 1) = false ∧ deadlocked.memberStands deadPath 0 = true ∧ deadlocked.memberStands deadPath 1 = true ∧ deadlocked.memberStands [⟨0x100, 2, 6, 1⟩, ⟨0x101, 1, 6, 1⟩] 0 = false ∧
    (∀ x ∈ deadPath, 0x100 ≤ x.name) ∧ (∃ x ∈ deadPath, x.name < 0x101) ∧ (stuck 0).reported = none ∧ (one probeProc).isProbed probeProc = false ∧
    (∀ n ∈ [7, 8], let s := { grouped 0x100 none [0x100] with cores := [(0, { reports := List.replicate n (List.replicate 16 0) })] }
      s.supervisorOf 0x40 = 0x100 ∧ (s.core 0).reports.length = n ∧ (s.named 0x100).map Prod.fst = some 0) ∧
    (let p := { withRegs [(1, 0x40)] with level := 2 }; (one p).Runs 0 p [srcField ⟨1, 0⟩ 0] [0x40] [7] ∧ (one p).takesReport p [] = true) ∧ (one probeProc).takesReport probeProc [0x40000000000000] = false ∧
    (0x5FF80 : Word).toNat + 128 ≤ scratchSize 0 ∧ scratchSize 0 < (0x5FF88 : Word).toNat + 128 ∧
    (stuck 0).episode = 1 ∧
    ((deadlocked.fold 0).dlkOff = false ∧ (stuck 0).wait = .chan 6) ∧
    (stuck 0).probeFrom + gtcCycle (deadlocked.fold (foldOf 0)).dlkDelay ≤ ({ deadlocked with cycle := 200000000 } : State).cycle ∧
    deadlocked.cycle < (stuck 0).probeFrom + gtcCycle (deadlocked.fold (foldOf 0)).dlkDelay :=
  ⟨rfl, by decide, by decide, by decide, by decide, ⟨by decide, by decide, by decide, by decide, by decide, ⟨rfl, by decide, by decide, ⟨runsOf (by decide), by decide⟩, by decide, by decide, by decide, by decide, ⟨by decide, rfl⟩, by decide, by decide⟩⟩⟩

/-- A request of the host, of a process at S and of one at U. -/
def ask : BReq := { pkg := 0, from0 := .host, tag := 7 }
def askOf (name : Nat) : BReq := { ask with from0 := .process name 3 }
def package (b : Pkg) : State := { one probeProc with pkgs := [(0, b)] }

/-- Hypotheses of RequestsAreAnswered and RequestsAreChecked: the package before and after its boot, a fold that is quiet and one that is not, a launch, groups, and the sources of requests. -/
theorem test_hyp_request : ask.from0 = .host ∧ ((package {}).pkg 0).portDown = false ∧ ((package {}).pkg 0).asks = [] ∧ ((package { booted := true }).pkg 0).booted = true ∧ ((package {}).pkg 0).booted = false ∧
    (one probeProc).foldQuiet (mapFold 0 0) = false ∧ ({ one probeProc with procs := [], dir := [], slots := [] } : State).foldQuiet (mapFold 0 767) = true ∧ (∃ l ∈ (one probeProc).launches, l.2.pkg = 0) ∧
    (one probeProc).group? 0x41 = none ∧ ((one probeProc).group? 0x40).map Group.killed = some none ∧ tget (one probeProc).launches 0 = some probeLaunch ∧
    ((grouped 0 (some (⟨0x100, 2, 1⟩, 0)) [0x100]).group? 0x40).map (fun g => g.killed.isSome) = some true ∧
    ((package { imageKey := some [] }).pkg 0).imageKey = some [] ∧ ((package { counts := [5] }).pkg 0).counts = [5] ∧ ((package { session := some [] }).pkg 0).session = some [] ∧
    coreIdOk 0 = true ∧ (package {}).packages.contains (pkgOf 0) = true ∧ (package {}).MemOk ∧
    (one probeProc).mayAsk (askOf 0x100) true = false ∧ (one { probeProc with level := 0 }).mayAsk (askOf 0x100) false = false ∧ (one probeProc).mayAsk (askOf 0x100) false = true ∧
    ((package {}).pkg 0).replies = [] ∧
    ((package {}).pkg 0).snapAt = none :=
  ⟨rfl, rfl, rfl, rfl, rfl, ⟨by decide, by decide, by decide, by decide, by decide, ⟨rfl, by decide, rfl, rfl, rfl, ⟨by decide, by decide, by unfold State.MemOk; decide, by decide, by decide, by decide, rfl, rfl⟩⟩⟩⟩

/-- A frame of the host for the word of HBM at 0x2000. -/
def frameWords (type : Nat) : List Word := [BitVec.ofNat 64 (type * 2 ^ 56 + 9), 0x2000, 0x1122334455667788]

/-- Hypotheses of FramesOfTheHost: frames that are good and one that is not, an end of the host with and without a credit, 14 and 15 retries. -/
theorem test_hyp_frame : (∀ t ∈ [1, 2, 3], frameOk (frameWords t) t = true) ∧ frameOk (frameWords 2) 3 = false ∧ (0x2000 : Word).toNat % 8 = 0 ∧ inHbm 0x2000 = true ∧
    (one probeProc).partFault (bothyCore 0) 0 2 0x2000 8 true = none ∧ (one probeProc).partFault (bothyCore 0) 0 2 0x2000 8 false = none ∧ ((package {}).pkg 0).log.length ≤ 65536 ∧
    (frameOk [0x0100000100000009, 0x60000000100, 1, 2] 1 = true ∧ (0x60000000100 : Word).toNat < 2 ^ 46 ∧
      (∀ n ∈ [0, 1], let e : Ep := { receiver blockQ with server := some .host, hwCredits := n }
        (chan probeProc (sender blockQ) e).handle ((0x60000000100 : Word).toNat % 2 ^ 40) ((0x60000000100 : Word).toNat / 2 ^ 40) = some (4, e))) ∧
    ((package { retries := 14 }).pkg 0).retries < 15 ∧ 15 ≤ ((package { retries := 15 }).pkg 0).retries ∧ ((package {}).pkg 0).outbound = [] :=
  ⟨by decide, by decide, by decide, by decide, by decide, ⟨by decide, by decide, ⟨by decide, by decide, by decide⟩, by decide, by decide, rfl⟩⟩

/-- Hypotheses of PackagesStart and PackagesAreGuarded. -/
theorem test_hyp_power : ((package { started := true }).pkg 0).started = true ∧ ((package { started := true }).pkg 0).booted = false ∧ ((package {}).pkg 0).meas.length = 8 ∧
    (one probeProc).mayPower 0 1 = true ∧ (one probeProc).mayPower 0 2 = false ∧ ((package { power := 1 }).pkg 0).power ≠ 0 ∧ ((package {}).pkg 0).power = 0 ∧
    blockOf 0x2000 = some (0, dieSource 0 4 unitDrover, unitDrover, some 0) ∧ (one probeProc).recordAt (0x2000 / 8 * 8) = none ∧
    ((package {}).pkg 0).replies = [] :=
  ⟨rfl, rfl, by decide, by decide, by decide, ⟨by decide, rfl, by decide, by decide, rfl⟩⟩

/-- 08 R254: DLKQ without a report gives all ones. -/
theorem test_dlkq_none : regOf (exec (.dlkq 7 ⟨1, 0⟩) (one (withRegs [(1, 0x40)]))) 0 7 = some 0xFFFFFFFFFFFFFFFF := by decide
/-- 13 R392: a store frame of the host writes its payload. -/
theorem test_store_frame : after (exec (.tetherStoreFrame 0 (frameWords 2)) (one probeProc)) (fun t => readLe t.mem 0x2000 8) = some 0x1122334455667788 := by decide
/-- 13 R397: a masked feature is gone; after the boot FEATURE answers with status 1. -/
theorem test_feature : after (exec (.feature ask 0x3E00000000) (package {})) (fun t => (t.pkg 0).feature) = some 0 := by decide
/-- 13 R399: a cap throttles a package at full power. -/
theorem test_cap : after (exec (.powerCap 0) (package {})) (fun t => (t.pkg 0).power) = some 1 := by decide

/-! ### Decoding (03 R49 to R59)

Words written out from the encodings: the match of the row, and in every field a value that no other field of the word has where its width allows it. -/

theorem test_decode_arithmetic_1 : ∀ x ∈ ([
    (0x0565C800, .add 5 ⟨9, 1⟩ ⟨12, 2⟩), (0x0565C801, .sub 5 ⟨9, 1⟩ ⟨12, 2⟩), (0x0565C802, .and 5 ⟨9, 1⟩ ⟨12, 2⟩), (0x0565C803, .or 5 ⟨9, 1⟩ ⟨12, 2⟩),
    (0x0565C804, .xor 5 ⟨9, 1⟩ ⟨12, 2⟩), (0x0565C805, .andn 5 ⟨9, 1⟩ ⟨12, 2⟩), (0x0565C806, .shl 5 ⟨9, 1⟩ ⟨12, 2⟩), (0x0565C807, .shr 5 ⟨9, 1⟩ ⟨12, 2⟩),
    (0x0565C808, .sra 5 ⟨9, 1⟩ ⟨12, 2⟩), (0x0565C809, .rol 5 ⟨9, 1⟩ ⟨12, 2⟩), (0x0565C80A, .mul 5 ⟨9, 1⟩ ⟨12, 2⟩), (0x0565C80B, .mulh 5 ⟨9, 1⟩ ⟨12, 2⟩),
    (0x0565C80C, .mulhu 5 ⟨9, 1⟩ ⟨12, 2⟩), (0x0565C80D, .div 5 ⟨9, 1⟩ ⟨12, 2⟩), (0x0565C80E, .divu 5 ⟨9, 1⟩ ⟨12, 2⟩), (0x0565C80F, .rem 5 ⟨9, 1⟩ ⟨12, 2⟩),
    (0x0565C810, .remu 5 ⟨9, 1⟩ ⟨12, 2⟩), (0x0565C811, .min 5 ⟨9, 1⟩ ⟨12, 2⟩), (0x0565C812, .max 5 ⟨9, 1⟩ ⟨12, 2⟩), (0x0565C813, .minu 5 ⟨9, 1⟩ ⟨12, 2⟩),
    (0x0565C814, .maxu 5 ⟨9, 1⟩ ⟨12, 2⟩), (0x05650015, .clz 5 ⟨9, 1⟩), (0x05650016, .ctz 5 ⟨9, 1⟩), (0x05650017, .popc 5 ⟨9, 1⟩)] : List (IWord × Instr)), decode x.1 = some x.2 := by decide
theorem test_decode_arithmetic_2 : ∀ x ∈ ([
    (0x05650018, .bswap 5 ⟨9, 1⟩), (0x0565C819, .sext 5 ⟨9, 1⟩ ⟨12, 2⟩), (0x0565C81A, .zext 5 ⟨9, 1⟩ ⟨12, 2⟩), (0x0565C81B, .seq 5 ⟨9, 1⟩ ⟨12, 2⟩),
    (0x0565C81C, .sne 5 ⟨9, 1⟩ ⟨12, 2⟩), (0x0565C81D, .slt 5 ⟨9, 1⟩ ⟨12, 2⟩), (0x0565C81E, .sltu 5 ⟨9, 1⟩ ⟨12, 2⟩), (0x0565C81F, .sle 5 ⟨9, 1⟩ ⟨12, 2⟩),
    (0x0565C820, .sleu 5 ⟨9, 1⟩ ⟨12, 2⟩), (0x0965DE36, .addi 5 ⟨9, 1⟩ 0xde36), (0x0D65DE36, .andi 5 ⟨9, 1⟩ 0xde36), (0x1165DE36, .ori 5 ⟨9, 1⟩ 0xde36),
    (0x1565DE36, .xori 5 ⟨9, 1⟩ 0xde36), (0x1965002D, .shli 5 ⟨9, 1⟩ 45), (0x1965402D, .shri 5 ⟨9, 1⟩ 45), (0x1965802D, .srai 5 ⟨9, 1⟩ 45),
    (0x1965C02D, .roli 5 ⟨9, 1⟩ 45), (0x1D65DE36, .lih 5 ⟨9, 1⟩ 0xde36), (0x21653E36, .seqi 5 ⟨9, 1⟩ 0x3e36), (0x21657E36, .slti 5 ⟨9, 1⟩ 0x3e36),
    (0x2165BE36, .sltui 5 ⟨9, 1⟩ 0x3e36), (0x2565DE36, .muli 5 ⟨9, 1⟩ 0xde36), (0x2965C810, .fadd 5 ⟨9, 1⟩ ⟨12, 2⟩ 1), (0x2965C830, .fsub 5 ⟨9, 1⟩ ⟨12, 2⟩ 1)] : List (IWord × Instr)), decode x.1 = some x.2 := by decide
theorem test_decode_arithmetic_3 : ∀ x ∈ ([
    (0x2965C850, .fmul 5 ⟨9, 1⟩ ⟨12, 2⟩ 1), (0x2965C870, .fdiv 5 ⟨9, 1⟩ ⟨12, 2⟩ 1), (0x29650090, .fsqrt 5 ⟨9, 1⟩ 1), (0x2965C8B0, .fmin 5 ⟨9, 1⟩ ⟨12, 2⟩ 1),
    (0x2965C8D0, .fmax 5 ⟨9, 1⟩ ⟨12, 2⟩ 1), (0x296500F0, .fneg 5 ⟨9, 1⟩ 1), (0x29650110, .fabs 5 ⟨9, 1⟩ 1), (0x2965C930, .feq 5 ⟨9, 1⟩ ⟨12, 2⟩ 1),
    (0x2965C950, .flt 5 ⟨9, 1⟩ ⟨12, 2⟩ 1), (0x2965C970, .fle 5 ⟨9, 1⟩ ⟨12, 2⟩ 1), (0x29650190, .fclass 5 ⟨9, 1⟩ 1), (0x296501B0, .fcvt 5 ⟨9, 1⟩ 1),
    (0x296501D0, .ftoi 5 ⟨9, 1⟩ 1), (0x296501F0, .itof 5 ⟨9, 1⟩ 1), (0x2D65C8F8, .fma 5 ⟨9, 1⟩ ⟨12, 2⟩ ⟨3, 3⟩ 1), (0x2D65C8F9, .fms 5 ⟨9, 1⟩ ⟨12, 2⟩ ⟨3, 3⟩ 1),
    (0x2D65C8FA, .fnma 5 ⟨9, 1⟩ ⟨12, 2⟩ ⟨3, 3⟩ 1), (0x2D65C8FB, .fnms 5 ⟨9, 1⟩ ⟨12, 2⟩ ⟨3, 3⟩ 1)] : List (IWord × Instr)), decode x.1 = some x.2 := by decide
theorem test_decode_memory_1 : ∀ x ∈ ([
    (0x4165BE36, .ld 5 ⟨9, 1⟩ 5 0x1e36), (0x45655E36, .st 5 ⟨9, 1⟩ 2 0x1e36), (0x48E56636, .ldm 3 ⟨9, 1⟩ 6 0x636), (0x48D56E36, .stm 3 ⟨5, 1⟩ 6 0x636),
    (0x4D65C81C, .amoAdd 5 ⟨9, 1⟩ ⟨12, 2⟩ 1 1 1), (0x4D65C83C, .amoAnd 5 ⟨9, 1⟩ ⟨12, 2⟩ 1 1 1), (0x4D65C85C, .amoOr 5 ⟨9, 1⟩ ⟨12, 2⟩ 1 1 1), (0x4D65C87C, .amoXor 5 ⟨9, 1⟩ ⟨12, 2⟩ 1 1 1),
    (0x4D65C89C, .amoMin 5 ⟨9, 1⟩ ⟨12, 2⟩ 1 1 1), (0x4D65C8BC, .amoMax 5 ⟨9, 1⟩ ⟨12, 2⟩ 1 1 1), (0x4D65C8DC, .amoMinu 5 ⟨9, 1⟩ ⟨12, 2⟩ 1 1 1), (0x4D65C8FC, .amoMaxu 5 ⟨9, 1⟩ ⟨12, 2⟩ 1 1 1),
    (0x4D65C91C, .amoSwp 5 ⟨9, 1⟩ ⟨12, 2⟩ 1 1 1), (0x4D65C93C, .amoCas 5 ⟨9, 1⟩ ⟨12, 2⟩ 1 1 1), (0x4D65C95C, .amoFadd 5 ⟨9, 1⟩ ⟨12, 2⟩ 1 1 1), (0x51400016, .fence 5 5 2),
    (0x50000020, .drainS), (0x50000040, .isync), (0x55650018, .frd 5 ⟨9, 1⟩ 1 1), (0x54159820, .fwr ⟨5, 1⟩ ⟨9, 2⟩),
    (0x54150040, .fclr ⟨5, 1⟩), (0x5965C800, .xwr 5 ⟨9, 1⟩ ⟨12, 2⟩), (0x59400020, .slb 5), (0x58000040, .slr)] : List (IWord × Instr)), decode x.1 = some x.2 := by decide
theorem test_decode_memory_2 : ∀ x ∈ ([
    (0x59409060, .mxf 5 9), (0x59650080, .mxt 5 ⟨9, 1⟩), (0x5A4054A0, .bindq 9 ⟨5, 1⟩), (0x5A8000C0, .unbq 10),
    (0x594000E0, .empty 5), (0x59640100, .isfull 5 9)] : List (IWord × Instr)), decode x.1 = some x.2 := by decide
theorem test_decode_control_1 : ∀ x ∈ ([
    (0x6151DE36, .beqz ⟨5, 1⟩ 0x1de36), (0x6153DE36, .bnez ⟨5, 1⟩ 0x1de36), (0x6155DE36, .bltz ⟨5, 1⟩ 0x1de36), (0x6157DE36, .bgez ⟨5, 1⟩ 0x1de36),
    (0x6159DE36, .bgtz ⟨5, 1⟩ 0x1de36), (0x615BDE36, .blez ⟨5, 1⟩ 0x1de36), (0x65658636, .beq ⟨5, 1⟩ ⟨9, 2⟩ 0x636), (0x65658E36, .bne ⟨5, 1⟩ ⟨9, 2⟩ 0x636),
    (0x65659636, .blt ⟨5, 1⟩ ⟨9, 2⟩ 0x636), (0x65659E36, .bge ⟨5, 1⟩ ⟨9, 2⟩ 0x636), (0x6565A636, .bltu ⟨5, 1⟩ ⟨9, 2⟩ 0x636), (0x6565AE36, .bgeu ⟨5, 1⟩ ⟨9, 2⟩ 0x636),
    (0x6992DE36, .j 0x192de36), (0x6B92DE36, .jal 0x192de36), (0x6C150000, .jr ⟨5, 1⟩), (0x6D650020, .jalr 5 ⟨9, 1⟩),
    (0x7151DE36, .loop ⟨5, 1⟩ 0x1de36), (0x74000E36, .trap 0xe36), (0x74001E36, .sysc 0xe36), (0x74002000, .eret),
    (0x74003E36, .brk 0xe36), (0x74004000, .nop), (0x74005000, .snap), (0x79400E36, .csrr 5 0xe36)] : List (IWord × Instr)), decode x.1 = some x.2 := by decide
theorem test_decode_control_2 : ∀ x ∈ ([
    (0x79651E36, .csrw 5 ⟨9, 1⟩ 0xe36), (0x79652E36, .csrs 5 ⟨9, 1⟩ 0xe36), (0x79653E36, .csrc 5 ⟨9, 1⟩ 0xe36)] : List (IWord × Instr)), decode x.1 = some x.2 := by decide
theorem test_decode_shepherd : ∀ x ∈ ([
    (0x8165C81D, .spawn 5 ⟨9, 1⟩ ⟨12, 2⟩ 1 1 5), (0x81650030, .gang 5 ⟨9, 1⟩ 1), (0x80000040, .yield), (0x81650060, .prio 5 ⟨9, 1⟩),
    (0x80150080, .exit ⟨5, 1⟩), (0x816500A0, .killg 5 ⟨9, 1⟩), (0x816500C0, .susp 5 ⟨9, 1⟩), (0x816500E0, .resm 5 ⟨9, 1⟩),
    (0x8165C900, .migr 5 ⟨9, 1⟩ ⟨12, 2⟩), (0x81400120, .pself 5), (0x81650140, .pinfo 5 ⟨9, 1⟩), (0x80150160, .wfw ⟨5, 1⟩),
    (0x80150180, .sleep ⟨5, 1⟩), (0x814001B0, .trapw 5 1), (0x8165C9C0, .quiesce 5 ⟨9, 1⟩ ⟨12, 2⟩), (0x8165C9D0, .quiesceR 5 ⟨9, 1⟩ ⟨12, 2⟩),
    (0x85400000, .gbar 5), (0x85400020, .garr 5), (0x84150040, .gwait ⟨5, 1⟩), (0x84159860, .gexp ⟨5, 1⟩ ⟨9, 2⟩)] : List (IWord × Instr)), decode x.1 = some x.2 := by decide
theorem test_decode_channels_servers_1 : ∀ x ∈ ([
    (0x8D65C800, .svopen 5 ⟨9, 1⟩ ⟨12, 2⟩), (0x8D65C820, .timer 5 ⟨9, 1⟩ ⟨12, 2⟩), (0x8D65C840, .dqry 5 ⟨9, 1⟩ ⟨12, 2⟩), (0x8D650060, .dlkq 5 ⟨9, 1⟩),
    (0x91650000, .chnew 5 ⟨9, 1⟩), (0x90150020, .chdel ⟨5, 1⟩), (0x9165C840, .chbind 5 ⟨9, 1⟩ ⟨12, 2⟩), (0x91650060, .chqry 5 ⟨9, 1⟩),
    (0x91650080, .chpoll 5 ⟨9, 1⟩), (0x901598A0, .sendh ⟨5, 1⟩ ⟨9, 2⟩), (0x94159800, .send ⟨5, 1⟩ ⟨9, 2⟩), (0x95650020, .recv 5 ⟨9, 1⟩),
    (0x94159840, .sendb ⟨5, 1⟩ ⟨9, 2⟩), (0x9565C860, .recvb 5 ⟨9, 1⟩ ⟨12, 2⟩), (0x94159890, .sendt ⟨5, 1⟩ ⟨9, 2⟩ 1), (0x941598B0, .recvt ⟨5, 1⟩ ⟨9, 2⟩ 1),
    (0x9565C8C0, .senda 5 ⟨9, 1⟩ ⟨12, 2⟩), (0x9565C8F0, .trecv 5 ⟨9, 1⟩ ⟨12, 2⟩ 1), (0x9965C810, .alt 5 ⟨9, 1⟩ ⟨12, 2⟩ 1), (0x9D65C800, .copy 5 ⟨9, 1⟩ ⟨12, 2⟩),
    (0x9D65C820, .cwait 5 ⟨9, 1⟩ ⟨12, 2⟩), (0x9EC05440, .strm 11 ⟨5, 1⟩), (0x9D65C860, .subs 5 ⟨9, 1⟩ ⟨12, 2⟩), (0x9D650080, .unsub 5 ⟨9, 1⟩)] : List (IWord × Instr)), decode x.1 = some x.2 := by decide
theorem test_decode_channels_servers_2 : ∀ x ∈ ([
    (0x9C1598A0, .mcast ⟨5, 1⟩ ⟨9, 2⟩)] : List (IWord × Instr)), decode x.1 = some x.2 := by decide
theorem test_decode_vectors_1 : ∀ x ∈ ([
    (0xA2AA9D03, .vadd 21 10 19 5 3), (0xA2AA9D0B, .vsub 21 10 19 5 3), (0xA2AA9D13, .vmul 21 10 19 5 3), (0xA2AA9D1B, .vdiv 21 10 19 5 3),
    (0xA2AA9D23, .vmin 21 10 19 5 3), (0xA2AA9D2B, .vmax 21 10 19 5 3), (0xA2AA0533, .vabs 21 10 5 3), (0xA2AA053B, .vneg 21 10 5 3),
    (0xA2AA0545, .vsqrt 21 10 5 5), (0xA2AA054C, .vrsq 21 10 5), (0xA2AA0554, .vexp2 21 10 5), (0xA2AA055C, .vlog2 21 10 5),
    (0xA2AA9D64, .vcmul 21 10 19 5), (0xA2AA9D6B, .vand 21 10 19 5 3), (0xA2AA9D73, .vor 21 10 19 5 3), (0xA2AA9D7B, .vxor 21 10 19 5 3),
    (0xA2AA9D82, .vshl 21 10 19 5 2), (0xA2AA9D8B, .vshr 21 10 19 5 3), (0xA2AA9D91, .vsra 21 10 19 5 1), (0xA6AA9D03, .vfma 21 10 19 5 3),
    (0xA6AA9D0B, .vfms 21 10 19 5 3), (0xA9B55306, .vcmp 1 5 21 10 3 6), (0xAAAA9D0B, .vsel 21 10 19 5 3), (0xA8A50010, .mset 5 5)] : List (IWord × Instr)), decode x.1 = some x.2 := by decide
theorem test_decode_vectors_2 : ∀ x ∈ ([
    (0xA8A50810, .msetR 5 5), (0xA8A33018, .mand 5 3 6), (0xA8A33020, .mor 5 3 6), (0xA8A30028, .mnot 5 3),
    (0xAEAA8D04, .vcvt 21 10 1 1 5 4), (0xAEAA980E, .vqnt 21 10 1 3 6), (0xAEAA2016, .vdqn 21 10 4 6)] : List (IWord × Instr)), decode x.1 = some x.2 := by decide
theorem test_decode_vector_memory : ∀ x ∈ ([
    (0xB0B51503, .vred 5 21 2 5 3), (0xB2AA0D0B, .vscan 21 10 1 5 3), (0xB2AA9D13, .vperm 21 10 19 5 3), (0xB2A5051B, .vbcast 21 5 5 3),
    (0xB0B54825, .vmovg 5 21 9 5), (0xB2A5482D, .vmovv 21 5 9 5), (0xB6A55503, .vld 21 5 10 5 3), (0xB6A5550B, .vst 21 5 10 5 3),
    (0xB6A54D13, .vlds 21 5 9 5 3), (0xB6A54D1B, .vsts 21 5 9 5 3), (0xB6A55524, .vgath 21 5 10 5 4), (0xB6A5552A, .vscat 21 5 10 5 2),
    (0xB96DAAA6, .vrep 5 45 21 10 19)] : List (IWord × Instr)), decode x.1 = some x.2 := by decide
theorem test_decode_tiles : ∀ x ∈ ([
    (0xC2A54800, .tdef 21 5 9), (0xC0B50080, .tstat 5 21), (0xC2A54900, .tload 21 5 9), (0xC2A54980, .tstore 21 5 9),
    (0xC2AA0260, .tcvt 21 10 1 1), (0xC0054A80, .tcmd 5 9), (0xC4355060, .mma 1 21 10 1 1), (0xC43550F3, .mmag 1 21 10 1 1 19),
    (0xC4355160, .cmma 1 21 10 1 1), (0xC43551E0, .gmma 1 21 10 1 1), (0xC4200200, .azero 1), (0xC6A102C4, .adrain 21 1 1 1),
    (0xC6A12AC7, .adrainR 21 1 5 1 1 1), (0xCAAA9860, .tadd 21 10 19 1 1), (0xCAAA98E0, .tmul 21 10 19 1 1), (0xCAAA9961, .tact 21 10 19 1 1 1),
    (0xCAAA01E0, .tsum 21 10 1 1), (0xCAAA0200, .ttrn 21 10)] : List (IWord × Instr)), decode x.1 = some x.2 := by decide
theorem test_decode_tape : ∀ x ∈ ([
    (0xD1650000, .tapon 5 ⟨9, 1⟩), (0xD1400010, .taponR 5 ⟨0, 0⟩), (0xD0000020, .tapoff), (0xD0000030, .tapoffX),
    (0xD1400040, .tmark 5), (0xD1650060, .reverse 5 ⟨9, 1⟩), (0xD1650080, .tspill 5 ⟨9, 1⟩), (0xD16500A0, .tapst 5 ⟨9, 1⟩)] : List (IWord × Instr)), decode x.1 = some x.2 := by decide
theorem test_decode_spe : ∀ x ∈ ([
    (0xD8159800, .spld ⟨5, 1⟩ ⟨9, 2⟩), (0xD8150001, .spldZ ⟨5, 1⟩), (0xD8159880, .spst ⟨5, 1⟩ ⟨9, 2⟩), (0xD8159900, .spw ⟨5, 1⟩ ⟨9, 2⟩),
    (0xD96501E0, .spu 5 ⟨9, 1⟩ 1 1), (0xD9650260, .spd 5 ⟨9, 1⟩ 1 1), (0xD965CA80, .spmode 5 ⟨9, 1⟩ ⟨12, 2⟩), (0xD8159B60, .spcvt ⟨5, 1⟩ ⟨9, 2⟩ 1 1),
    (0xD9400381, .spstat 5 1)] : List (IWord × Instr)), decode x.1 = some x.2 := by decide
theorem test_decode_gateway : ∀ x ∈ ([
    (0xE1655407, .rgo 5 ⟨9, 1⟩ 0x2a7), (0xE0000020, .rdone), (0xE0000040, .rabort), (0xE165C860, .permx 5 ⟨9, 1⟩ ⟨12, 2⟩),
    (0xE165C880, .peer 5 ⟨9, 1⟩ ⟨12, 2⟩), (0xE165C8A0, .lkey 5 ⟨9, 1⟩ ⟨12, 2⟩), (0xE16500C0, .lstat 5 ⟨9, 1⟩), (0xE565C800, .bopen 5 ⟨9, 1⟩ ⟨12, 2⟩),
    (0xE5400020, .bclose 5), (0xE565C840, .bld 5 ⟨9, 1⟩ ⟨12, 2⟩), (0xE565C841, .bldR 5 ⟨9, 1⟩ ⟨12, 2⟩), (0xE5650060, .bview 5 ⟨9, 1⟩),
    (0xE5400080, .bstat 5)] : List (IWord × Instr)), decode x.1 = some x.2 := by decide
theorem test_decode_prefix : ∀ x ∈ ([
    (0xF4000000, .once), (0xF440DE36, .pfx 0xde36)] : List (IWord × Instr)), decode x.1 = some x.2 := by decide

/-- The words that the manual itself writes out (03 R65, 05 Table 5.17, and the tables of worked encodings of 06 to 12). -/
theorem test_decode_core_examples : ∀ x ∈ ([
    (0x04C62400, .add 3 ⟨1, 2⟩ ⟨2, 1⟩), (0x0954FFFF, .addi 5 ⟨5, 0⟩ 0xFFFF), (0x41184002, .ld 4 ⟨6, 0⟩ 2 2), (0x45496001, .st 5 ⟨2, 1⟩ 3 1), (0x65000FFD, .bne ⟨4, 0⟩ ⟨0, 0⟩ 0x7FD),
    (0x7141FFFD, .loop ⟨5, 0⟩ 0x1FFFD), (0x6A000014, .jal 20), (0x6C3C0000, .jr ⟨15, 0⟩), (0x51C0000D, .fence 7 3 1), (0x4C8C4138, .amoCas 2 ⟨3, 0⟩ ⟨4, 0⟩ 1 1 0), (0xF4401234, .pfx 0x1234),
    (0x08405678, .addi 1 ⟨0, 0⟩ 0x5678), (0xF4000000, .once), (0x594000E0, .empty 5), (0x59501000, .xwr 5 ⟨4, 0⟩ ⟨1, 0⟩), (0x05DC5400, .add 7 ⟨7, 0⟩ ⟨5, 1⟩),
    (0x060C600D, .div 8 ⟨3, 0⟩ ⟨6, 0⟩), (0x5A4050A0, .bindq 9 ⟨5, 0⟩), (0x58D40100, .isfull 3 5), (0x28D05010, .fadd 3 ⟨4, 0⟩ ⟨5, 0⟩ 1), (0x2CD05180, .fma 3 ⟨4, 0⟩ ⟨5, 0⟩ ⟨6, 0⟩ 0),
    (0x49087002, .ldm 4 ⟨2, 0⟩ 7 2), (0x54D80010, .frd 3 ⟨6, 0⟩ 1 0), (0x78800011, .csrr 2 0x011), (0x78141010, .csrw 0 ⟨5, 0⟩ 0x010), (0x74000007, .trap 7), (0x74002000, .eret)] : List (IWord × Instr)),
    decode x.1 = some x.2 := by decide
theorem test_decode_engine_examples : ∀ x ∈ ([
    (0x80D40010, .spawn 3 ⟨5, 0⟩ ⟨0, 0⟩ 1 0 0), (0x80000040, .yield), (0x80100080, .exit ⟨4, 0⟩), (0x821C00A0, .killg 8 ⟨7, 0⟩), (0x818001B0, .trapw 6 1), (0x841C5060, .gexp ⟨7, 0⟩ ⟨5, 0⟩),
    (0x91C06040, .chbind 7 ⟨0, 0⟩ ⟨6, 0⟩), (0x940C4000, .send ⟨3, 0⟩ ⟨4, 0⟩), (0x94185080, .sendt ⟨6, 0⟩ ⟨5, 0⟩ 0), (0x948C40F0, .trecv 2 ⟨3, 0⟩ ⟨4, 0⟩ 1), (0x99587010, .alt 5 ⟨6, 0⟩ ⟨7, 0⟩ 1),
    (0x8CD40000, .svopen 3 ⟨5, 0⟩ ⟨0, 0⟩), (0x8D940060, .dlkq 6 ⟨5, 0⟩), (0xA0611004, .vadd 3 1 2 0 4), (0xA4853204, .vfma 4 5 6 2 4), (0xA9221804, .vcmp 1 1 2 3 0 4), (0xAC48180C, .vqnt 2 8 0 3 4),
    (0xB0470004, .vred 2 7 0 0 4), (0xB5060804, .vld 8 6 1 0 4), (0xB8430842, .vrep 1 3 1 1 1), (0xC0653000, .tdef 3 5 6), (0xC4000889, .mmag 0 0 1 0 0 9), (0xC4400280, .adrain 2 0 0 0),
    (0xC8421901, .tact 2 2 3 0 0 1), (0xD0C80000, .tapon 3 ⟨2, 0⟩), (0xD0000010, .taponR 0 ⟨0, 0⟩), (0xD8D401C0, .spu 3 ⟨5, 0⟩ 1 0), (0xD8146320, .spcvt ⟨5, 0⟩ ⟨6, 0⟩ 0 1), (0xE1D40004, .rgo 7 ⟨5, 0⟩ 4),
    (0xE59C8040, .bld 6 ⟨7, 0⟩ ⟨8, 0⟩), (0xE59C8041, .bldR 6 ⟨7, 0⟩ ⟨8, 0⟩)] : List (IWord × Instr)), decode x.1 = some x.2 := by decide
/-- 03 R59: the all-zero word, a reserved mode bit pattern of no format, a major opcode that is reserved, and a set bit that must be 0 are no instructions. -/
theorem test_decode_none : decode 0x00000000 = none ∧ decode 0xFFFFFFFF = none ∧ decode 0x04C6242A = none ∧ decode 0x3C000000 = none ∧ decode 0x80000041 = none := by decide

/-- For each check of WellFormed, a term that it refuses. -/
theorem test_ill_formed : ∀ i ∈ ([.ld 1 ⟨2, 0⟩ 7 0, .st 1 ⟨2, 0⟩ 4 0, .ldm 5 ⟨1, 0⟩ 4 0, .ldm 3 ⟨5, 0⟩ 6 0, .stm 5 ⟨1, 0⟩ 4 0, .fence 1 6 0, .fence 1 0 3, .bindq 7 ⟨1, 0⟩, .unbq 12, .strm 7 ⟨1, 0⟩, .loop ⟨0, 0⟩ 1,
    .spawn 1 ⟨2, 0⟩ ⟨3, 0⟩ 0 0 1, .vsqrt 1 2 0 3, .vshl 1 2 3 0 4, .vshr 1 2 3 0 4, .vsra 1 2 3 0 5, .vcmp 0 0 1 2 0 0, .mset 0 1, .mand 0 1 2, .mor 0 1 2, .mnot 0 1, .vcvt 1 2 1 0 0 4, .vcvt 1 2 0 3 0 4,
    .vqnt 1 2 0 2 6, .vqnt 1 3 0 3 4, .vqnt 1 2 0 3 5, .vdqn 3 1 3 4, .vdqn 1 2 7 6, .vred 1 2 3 0 0, .vscan 1 2 3 0 0, .vgath 1 2 3 0 1, .vscat 1 2 3 0 6, .tact 1 2 0 0 0 5, .tact 1 2 3 0 0 0,
    .taponR 1 ⟨1, 0⟩] : List Instr), i.wf = false := by decide

/-! ### Steps -/

/-- Hypotheses of EncodedWordDecodes and DecodedWordIsEncoding. -/
theorem test_hyp_encode : (Instr.add 3 ⟨1, 2⟩ ⟨2, 1⟩).isWord = true ∧ (Instr.add 3 ⟨1, 2⟩ ⟨2, 1⟩).WellFormed ∧ decode 0x04C62400 = some (.add 3 ⟨1, 2⟩ ⟨2, 1⟩) := ⟨by decide, by decide, by decide⟩

/-- `probeProc` with `addi g3, g0, 7` at its program counter, resident in slot 0 of core 0. -/
def ready (w : Nat) : State := State.reset.install w

/-- Hypotheses of StepRunsDecodedWord: a word that goes on with a group, one that core 0 selects, a word that is none, and an event that is due. -/
theorem test_hyp_step : (ready 0x08C00007).group = none ∧ (ready 0x08C00007).dueEvent = none ∧ (ready 0x08C00007).turns = 0 :: [] ∧ (ready 0x08C00007).pick 0 = some (0, 0) ∧
    (let t := ({ ready 0x08C00007 with turns := [] }).openGroup 0
     t.proc 0 = some probeProc ∧ t.beforeIssue 0 probeProc = none ∧ decodeBytes (t.fetchBytes probeProc) = some (.addi 3 ⟨0, 0⟩ 7, []) ∧ probeProc.vact = false) ∧
    (let s := { ready 0x08C00007 with group := some 0 }; s.proc 0 = some probeProc ∧ s.beforeIssue 0 probeProc = none) ∧ decodeBytes ((ready 0).fetchBytes probeProc) = none ∧
    (let s := { ready 0 with agenda := [(0, .powerCap 0)] }; s.group = none ∧ s.agenda = (0, .powerCap 0) :: [] ∧ 0 ≤ s.cycle) ∧
    probeProc.channelPort = false ∧
    (let p := { probeProc with ports := probeProc.ports.set 1 { bound := true } }; p.channelPort = true ∧ (one p).Settled p) ∧
    (ready 0).heldBack (.powerCap 0) = false :=
  ⟨rfl, by decide, by decide, by decide, ⟨by decide, by decide, by decide, by decide⟩, ⟨by decide, by decide⟩, by decide, by decide, by decide, ⟨by decide, settledOf rfl rfl⟩, by decide⟩

/-- Hypotheses of SlotsTakeTurns: a core that selects and one that does not, a cycle whose cores have all selected, before an eighth cycle and before another. -/
theorem test_hyp_turns : (ready 0x08C00007).pick 0 = some (0, 0) ∧ (ready 0x08C00007).pick 1 = none ∧ ((ready 0x08C00007).slot (0 * 8 + 0)).occ = some 0 ∧ (ready 0x08C00007).proc (0 * 256 + 0) = some probeProc ∧
    (∀ f ∈ (ready 0x08C00007).folds, f.2.spe.jobs = [] ∧ f.2.spe.waits = []) ∧ ({ ready 0 with turns := [], cycle := 7 } : State).dueEvent = none ∧ (7 + 1) % 8 = 0 ∧ (6 + 1) % 8 ≠ 0 ∧
    (ready 0x08C00007).flying = [] ∧
    (∀ e ∈ (ready 0x08C00007).agenda, ∀ x, (ready 0x08C00007).crossing e.2 = some x → x.1 = x.2.1) ∧
    (ready 0x08C00007).groupFree probeProc = true ∧
    (probeProc.st = .resident ∧ probeProc.wait = .none) :=
  ⟨by decide, by decide, by decide, by decide, by decide, ⟨by decide, by decide, by decide, rfl, ((by intro e h; cases h)), by decide, ⟨by decide, by decide⟩⟩⟩

/-- Hypotheses of StepKeepsMemory and of RegisterInstructionsFrame: a step that answers a next state; three sources and a destination. -/
theorem test_hyp_frame_registers : (ready 0x08C00007).MemOk ∧ (after (step (ready 0x08C00007)) (fun _ => ())).isSome = true ∧ probeProc.onceOn = false ∧ probeProc.vact = false ∧ probeProc.Unbound ∧
    (one (withRegs [(1, 5), (2, 7), (3, 9)])).Runs 0 (withRegs [(1, 5), (2, 7), (3, 9)]) [srcField ⟨1, 0⟩ 0, srcField ⟨2, 1⟩ 1, srcField ⟨3, 2⟩ 2] [5, 7, 9] [4] :=
  ⟨by unfold State.MemOk; decide, by decide, by decide, by decide, unboundOf (by decide), runsOf (by decide)⟩

/-- 03 R49, 05 R112: a step runs the word at the program counter, `addi g3, g0, 7`. -/
theorem test_step : regOf (step (ready 0x08C00007)) 0 3 = some 7 := by decide
/-- 03 R59: a word that is no instruction stops its process with ILLEGAL and the word. -/
theorem test_step_illegal : after (step (ready 0x00000001)) (fun t => (t.proc 0).map (fun p => (p.ecause, p.eval))) = some (some (1, 1)) := by decide

end Sys2Proof.Tests
end

section
/-! PROOFS. Rounding into an IEEE format (02 R25, R35): the value of a magnitude code, rounding as rounding to a multiple of the quantum, and
that the nearest multiple of the quantum is a nearest value of the format. -/

namespace Sys2Proof.Machine

/-! ### The value of a magnitude code (02 R25) -/

/-- The integer that a finite magnitude code scales by its quantum. -/
def Fmt.significand (f : Fmt) (mag : Nat) : Nat := if mag < 2 ^ f.mb then mag else 2 ^ f.mb + mag % 2 ^ f.mb

/-- The exponent of the unit in the last place of a finite magnitude code. -/
def Fmt.quantum (f : Fmt) (mag : Nat) : Int := f.emin - f.mb + (mag / 2 ^ f.mb - 1 : Nat)

theorem Fmt.maxMag_succ {f : Fmt} (hk : f.kind = .ieee) (he : 0 < f.eb) : f.maxMag + 1 = f.infMag := by
  have hpos : 0 < (2 ^ f.eb - 1) * 2 ^ f.mb := by
    have := Nat.one_lt_two_pow he.ne'
    exact Nat.mul_pos (by omega) (by positivity)
  simp only [Fmt.maxMag, hk, Fmt.infMag]
  omega

theorem Fmt.infMag_lt_signBit (f : Fmt) : f.infMag < f.signBit := by
  rw [Fmt.infMag, Fmt.signBit, pow_add]
  exact Nat.mul_lt_mul_of_pos_right (Nat.sub_lt (by positivity) one_pos) (by positivity)

theorem Fmt.code_mod_signBit {f : Fmt} {mag : Nat} (h : mag < f.signBit) (neg : Bool) : f.code neg mag % f.signBit = mag := by
  cases neg <;> simp [Fmt.code, Nat.mod_eq_of_lt h]

theorem Fmt.code_div_signBit {f : Fmt} {mag : Nat} (h : mag < f.signBit) (neg : Bool) : f.code neg mag / f.signBit = neg.toNat := by
  have hpos : 0 < f.signBit := by omega
  cases neg <;> simp [Fmt.code, Nat.add_div_left, hpos, Nat.div_eq_of_lt h]

theorem Fmt.code_of_lt_two_pow_width {f : Fmt} {c : Nat} (h : c < 2 ^ f.width) :
    f.code (decide (c / f.signBit % 2 = 1)) (c % f.signBit) = c := by
  have hs : 0 < f.signBit := by unfold Fmt.signBit; positivity
  have hlt : c / f.signBit < 2 := by
    rw [Nat.div_lt_iff_lt_mul hs]
    calc c < 2 ^ f.width := h
      _ = 2 * f.signBit := by rw [Fmt.width, Fmt.signBit, add_assoc, pow_add, pow_one]
  have hc := Nat.div_add_mod c f.signBit
  obtain h0 | h1 := Nat.le_one_iff_eq_zero_or_eq_one.1 (Nat.lt_succ_iff.1 hlt)
  · rw [h0] at hc ⊢
    simpa [Fmt.code] using hc
  · rw [h1] at hc ⊢
    simpa [Fmt.code] using hc

/-- The exponent field of a code is all ones exactly when the code is above the largest finite one. -/
theorem Fmt.exponent_lt_iff {f : Fmt} (hk : f.kind = .ieee) (he : 0 < f.eb) (mag : Nat) :
    mag / 2 ^ f.mb < 2 ^ f.eb - 1 ↔ mag ≤ f.maxMag := by
  rw [Nat.div_lt_iff_lt_mul (by positivity), ← Nat.lt_succ_iff, Nat.succ_eq_add_one, Fmt.maxMag_succ hk he, Fmt.infMag]

theorem Fmt.decode_of_le_maxMag {f : Fmt} (hk : f.kind = .ieee) (he : 0 < f.eb) {c : Nat} (hc : c % f.signBit ≤ f.maxMag) :
    f.decode c = .fin (decide (c / f.signBit % 2 = 1)) (f.significand (c % f.signBit)) (f.quantum (c % f.signBit)) := by
  have hex : c % f.signBit / 2 ^ f.mb ≠ 2 ^ f.eb - 1 := ((Fmt.exponent_lt_iff hk he _).2 hc).ne
  by_cases hsub : c % f.signBit < 2 ^ f.mb
  · have h0 := Nat.div_eq_of_lt hsub
    simp [Fmt.decode, hk, h0, h0 ▸ hex, Fmt.significand, Fmt.quantum, hsub, Nat.mod_eq_of_lt hsub]
  · have h0 : c % f.signBit / 2 ^ f.mb ≠ 0 := by simpa [Nat.div_eq_zero_iff] using hsub
    simp only [Fmt.decode, hk, if_neg hex, if_neg h0, Fmt.significand, if_neg hsub, Fmt.quantum]

/-- Only codes of finite magnitude decode to finite numbers. -/
theorem Fmt.le_maxMag_of_decode_eq_fin {f : Fmt} (hk : f.kind = .ieee) (he : 0 < f.eb) {c : Nat} {neg : Bool} {m : Nat} {e : Int}
    (h : f.decode c = .fin neg m e) : c % f.signBit ≤ f.maxMag := by
  have hle : c % f.signBit / 2 ^ f.mb ≤ 2 ^ f.eb - 1 := by
    have hlt : c % f.signBit / 2 ^ f.mb < 2 ^ f.eb := by
      rw [Nat.div_lt_iff_lt_mul (by positivity), ← pow_add]
      exact Nat.mod_lt _ (by unfold Fmt.signBit; positivity)
    omega
  rw [← Fmt.exponent_lt_iff hk he]
  refine lt_of_le_of_ne hle fun hex => ?_
  simp only [Fmt.decode, hk, if_pos hex] at h
  split at h <;> simp at h

theorem Fmt.significand_lt (f : Fmt) (mag : Nat) : f.significand mag < 2 ^ (f.mb + 1) := by
  have := Nat.mod_lt mag (Nat.two_pow_pos f.mb)
  unfold Fmt.significand
  split <;> omega

theorem Fmt.emin_sub_mb_le_quantum (f : Fmt) (mag : Nat) : f.emin - f.mb ≤ f.quantum mag := by
  unfold Fmt.quantum; omega

/-- A code is subnormal, its quantum the least of all, or normal, its significand of mb + 1 bits. -/
theorem Fmt.subnormal_or_normal (f : Fmt) (mag : Nat) :
    (f.significand mag < 2 ^ f.mb ∧ f.quantum mag = f.emin - f.mb) ∨ 2 ^ f.mb ≤ f.significand mag := by
  by_cases h : mag < 2 ^ f.mb
  · left
    simp [Fmt.significand, Fmt.quantum, h, Nat.div_eq_of_lt h]
  · right
    simp [Fmt.significand, h]

/-- `Fmt.magOf` finds the code of each magnitude from its significand and its quantum. -/
theorem Fmt.magOf_significand (f : Fmt) (mag : Nat) : f.magOf (f.significand mag) (f.quantum mag) = mag := by
  by_cases h : mag < 2 ^ f.mb
  · simp [Fmt.magOf, Fmt.significand, h]
  · have hq : 1 ≤ mag / 2 ^ f.mb := Nat.div_pos (not_lt.1 h) (by positivity)
    have hs : (f.quantum mag - (f.emin - f.mb)).toNat = mag / 2 ^ f.mb - 1 := by unfold Fmt.quantum; omega
    have hdm := Nat.div_add_mod' mag (2 ^ f.mb)
    rw [Fmt.magOf, hs, Fmt.significand, if_neg h, if_neg (by omega), Nat.sub_mul]
    have := Nat.mul_le_mul_right (2 ^ f.mb) hq
    omega

/-- The code that `Fmt.magOf` gives for r multiples of 2^q stands for r * 2^q, also where r has been carried to mb + 2 bits. -/
theorem Fmt.value_magOf {f : Fmt} {r : Nat} {q : Int} (hr : r ≤ 2 ^ (f.mb + 1)) (hq : q = f.emin - f.mb ∨ f.emin - f.mb ≤ q ∧ 2 ^ f.mb ≤ r) :
    (f.significand (f.magOf r q) : ℚ) * 2 ^ f.quantum (f.magOf r q) = r * 2 ^ q := by
  have hpow : 2 ^ (f.mb + 1) = 2 * 2 ^ f.mb := pow_succ' 2 f.mb
  have hpos : 0 < 2 ^ f.mb := by positivity
  by_cases hsub : r < 2 ^ f.mb
  · obtain rfl : q = f.emin - f.mb := by omega
    simp [Fmt.magOf, Fmt.significand, Fmt.quantum, hsub, Nat.div_eq_of_lt hsub]
  · obtain ⟨d, rfl⟩ : ∃ d : Nat, q = f.emin - f.mb + d := ⟨(q - (f.emin - f.mb)).toNat, by omega⟩
    have hmag : f.magOf r (f.emin - f.mb + d) = d * 2 ^ f.mb + r := by simp [Fmt.magOf, hsub]
    have hge : ¬ d * 2 ^ f.mb + r < 2 ^ f.mb := by omega
    rw [hmag, Fmt.significand, if_neg hge, Fmt.quantum, Nat.add_comm (d * _), Nat.add_mul_mod_self_right, Nat.add_mul_div_right _ _ hpos]
    obtain hlt | rfl : r < 2 * 2 ^ f.mb ∨ r = 2 * 2 ^ f.mb := by omega
    · have h1 : r / 2 ^ f.mb = 1 := by
        rw [Nat.div_eq_iff hpos]; omega
      have hmod : 2 ^ f.mb + r % 2 ^ f.mb = r := by
        have := Nat.div_add_mod r (2 ^ f.mb)
        rw [h1] at this; omega
      rw [hmod, h1, Nat.add_sub_cancel_left]
    · rw [Nat.mul_mod_left, Nat.mul_div_cancel _ hpos, show 2 + d - 1 = d + 1 by omega]
      push_cast
      rw [← add_assoc, zpow_add_one₀ two_ne_zero]
      ring

/-! ### Rounding to a multiple of the quantum (02 R35) -/

/-- The exponent of the quantum that m * 2^e is rounded to: that of a normal with its leading bit, or that of the subnormals. -/
def Fmt.roundQuantum (f : Fmt) (m : Nat) (e : Int) : Int := max (e + m.log2 - f.mb) (f.emin - f.mb)

/-- The rounded multiple of the quantum, and whether it is inexact. -/
def Fmt.rounded (f : Fmt) (mode : Rnd) (neg : Bool) (m : Nat) (e : Int) : Nat × Bool :=
  roundAt mode neg (m * 2 ^ (f.mb + 4)) (e - (f.mb + 4 : Nat)) (f.roundQuantum m e) false

theorem log2_mul_two_pow {m : Nat} (hm : 0 < m) (k : Nat) : (m * 2 ^ k).log2 = m.log2 + k := by
  have hne : m * 2 ^ k ≠ 0 := by positivity
  rw [Nat.log2_eq_iff hne, Nat.add_right_comm, pow_add, pow_add 2 (m.log2 + 1)]
  exact ⟨Nat.mul_le_mul_right _ (Nat.log2_self_le hm.ne'), Nat.mul_lt_mul_of_pos_right Nat.lt_log2_self (by positivity)⟩

/-- Whether m * 2^e, rounded as if the exponent range were unbounded, is below the smallest normal (02 R39). -/
def Fmt.tiny (f : Fmt) (mode : Rnd) (neg : Bool) (m : Nat) (e : Int) : Bool :=
  decide (e + m.log2 < f.emin) && !(decide (e + m.log2 = f.emin - 1) &&
    decide ((roundAt mode neg (m * 2 ^ (f.mb + 4)) (e - (f.mb + 4 : Nat)) (e + m.log2 - f.mb) false).1 = 2 ^ (f.mb + 1)))

/-- What `Fmt.roundMag` gives in each mode without a seed: an overflow, or the code of the rounded multiple. -/
theorem Fmt.roundMag_eq (f : Fmt) {mode : Rnd} (hmode : ∀ seed, mode ≠ .sr seed) (neg : Bool) {m : Nat} (hm : 0 < m) (e : Int) :
    f.roundMag mode false false neg m e false =
      if f.maxMag < f.magOf (f.rounded mode neg m e).1 (f.roundQuantum m e) then (f.overflow mode neg false, flagOF ||| flagNX)
      else (f.code neg (f.magOf (f.rounded mode neg m e).1 (f.roundQuantum m e)),
        flagIf (f.rounded mode neg m e).2 flagNX ||| flagIf (f.tiny mode neg m e && (f.rounded mode neg m e).2) flagUF) := by
  have htop : (e - (f.mb + 4 : Nat) + (m * 2 ^ (f.mb + 4)).log2 : Int) = e + m.log2 := by
    rw [log2_mul_two_pow hm]; omega
  have hq : (if e + m.log2 - f.mb < f.emin - f.mb then f.emin - f.mb else e + m.log2 - f.mb) = f.roundQuantum m e := by
    unfold Fmt.roundQuantum; omega
  -- `hmode` picks the branch of `Fmt.roundMag` in which nothing is `beyond`
  simp only [Fmt.roundMag, htop, hq, Fmt.rounded, Fmt.tiny, Bool.false_and, Bool.false_eq_true, if_false]
  rfl

theorem roundAt_of_lt {e q : Int} (h : e < q) (mode : Rnd) (neg : Bool) (m : Nat) :
    ∃ up : Nat, up ≤ 1 ∧ (roundAt mode neg m e q false).1 = m / 2 ^ (q - e).toNat + up := by
  refine ⟨if roundUp mode neg (m / 2 ^ (q - e).toNat) (m % 2 ^ (q - e).toNat) (2 ^ (q - e).toNat) false then 1 else 0, ?_, ?_⟩
  · split <;> omega
  · rw [roundAt, if_neg (not_le.2 h)]

/-- Rounding up past half a unit, or at half a unit from an odd multiple, leaves no multiple nearer. -/
theorem roundUp_rne_nearest (neg : Bool) (m : Nat) {unit : Nat} (hu : 0 < unit) (n : ℤ) :
    |((m / unit + if roundUp .rne neg (m / unit) (m % unit) unit false then 1 else 0 : Nat) : ℤ) * unit - m| ≤ |n * unit - m| := by
  have hm : ((m / unit : Nat) : ℤ) * unit + (m % unit : Nat) = m := by exact_mod_cast Nat.div_add_mod' m unit
  have hrem : m % unit < unit := Nat.mod_lt m hu
  have hn : n * unit ≤ (m / unit : Nat) * unit ∨ ((m / unit : Nat) + 1 : ℤ) * unit ≤ n * unit := by
    obtain h | h := le_or_gt n (m / unit : Nat)
    · exact .inl (mul_le_mul_of_nonneg_right h (by positivity))
    · exact .inr (mul_le_mul_of_nonneg_right h (by positivity))
  rw [add_mul, one_mul] at hn
  have hup : (roundUp .rne neg (m / unit) (m % unit) unit false = true → unit ≤ 2 * (m % unit)) ∧
      (roundUp .rne neg (m / unit) (m % unit) unit false = false → 2 * (m % unit) ≤ unit) := by
    simp only [roundUp, Bool.or_eq_true, Bool.and_eq_true, Bool.or_eq_false_iff, decide_eq_true_eq, decide_eq_false_iff_not]
    omega
  cases hr : roundUp .rne neg (m / unit) (m % unit) unit false with
  | false =>
    have := hup.2 hr
    rw [if_neg Bool.false_ne_true, Nat.add_zero, abs_sub_comm, abs_of_nonneg (by omega), le_abs]
    omega
  | true =>
    have := hup.1 hr
    rw [if_pos rfl, Nat.cast_add, Nat.cast_one, add_mul, one_mul, abs_of_nonneg (by omega), le_abs]
    omega

theorem roundAt_rne_nearest {e q : Int} (h : e < q) (neg : Bool) (m : Nat) (n : ℤ) :
    |((roundAt .rne neg m e q false).1 : ℚ) * 2 ^ q - m * 2 ^ e| ≤ |(n : ℚ) * 2 ^ q - m * 2 ^ e| := by
  obtain ⟨k, rfl⟩ : ∃ k : Nat, q = e + k := ⟨(q - e).toNat, by omega⟩
  have hscale (i : ℤ) : |(i : ℚ) * 2 ^ (e + k) - m * 2 ^ e| = (|i * (2 ^ k : Nat) - m| : ℤ) * (2 : ℚ) ^ e := by
    rw [zpow_add₀ two_ne_zero, zpow_natCast, Int.cast_abs, ← abs_of_pos (zpow_pos two_pos e : (0 : ℚ) < 2 ^ e), ← abs_mul]
    push_cast
    rw [abs_of_pos (zpow_pos two_pos e : (0 : ℚ) < 2 ^ e)]
    ring_nf
  have hr := roundUp_rne_nearest neg m (Nat.two_pow_pos k) n
  rw [hscale, ← Int.cast_natCast (roundAt .rne neg m e (e + k) false).1, hscale, roundAt, if_neg (not_le.2 h), add_sub_cancel_left, Int.toNat_natCast]
  exact mul_le_mul_of_nonneg_right (by exact_mod_cast hr) (by positivity)

/-! ### The rounded significand -/

theorem Fmt.roundQuantum_gt (f : Fmt) (m : Nat) (e : Int) : e - (f.mb + 4 : Nat) < f.roundQuantum m e := by
  unfold Fmt.roundQuantum; omega

/-- The rounded multiple has at most mb + 1 bits or is the power of two above, and fills mb + 1 bits unless the quantum is the least. -/
theorem Fmt.rounded_bounds (f : Fmt) (mode : Rnd) (neg : Bool) {m : Nat} (hm : 0 < m) (e : Int) :
    (f.rounded mode neg m e).1 ≤ 2 ^ (f.mb + 1) ∧
    (f.roundQuantum m e = f.emin - f.mb ∨ f.emin - f.mb ≤ f.roundQuantum m e ∧ 2 ^ f.mb ≤ (f.rounded mode neg m e).1) := by
  obtain ⟨up, hup, hr⟩ := roundAt_of_lt (f.roundQuantum_gt m e) mode neg (m * 2 ^ (f.mb + 4))
  obtain ⟨k, hk⟩ : ∃ k : Nat, f.roundQuantum m e = e - (f.mb + 4 : Nat) + k :=
    ⟨(f.roundQuantum m e - (e - (f.mb + 4 : Nat))).toNat, by have := f.roundQuantum_gt m e; omega⟩
  have hlog := log2_mul_two_pow hm (f.mb + 4)
  have hpos : m * 2 ^ (f.mb + 4) ≠ 0 := by positivity
  rw [hk, add_sub_cancel_left, Int.toNat_natCast] at hr
  unfold Fmt.rounded
  rw [hk, hr]
  unfold Fmt.roundQuantum at hk
  constructor
  · have : m * 2 ^ (f.mb + 4) / 2 ^ k < 2 ^ (f.mb + 1) := by
      rw [Nat.div_lt_iff_lt_mul (by positivity), ← pow_add, ← Nat.log2_lt hpos]
      omega
    omega
  · refine or_iff_not_imp_left.2 fun hne => ⟨by omega, ?_⟩
    have : 2 ^ f.mb ≤ m * 2 ^ (f.mb + 4) / 2 ^ k := by
      rw [Nat.le_div_iff_mul_le (by positivity), ← pow_add, ← Nat.le_log2 hpos]
      omega
    omega

/-- No number of mb + 1 bits on a quantum of the format, of either sign, is nearer to m * 2^e than the rounded multiple is. -/
theorem Fmt.rounded_rne_nearest (f : Fmt) (neg : Bool) {m : Nat} (hm : 0 < m) (e : Int) {n q : ℤ} (hn : |n| < 2 ^ (f.mb + 1)) (hq : f.emin - f.mb ≤ q) :
    |((f.rounded .rne neg m e).1 : ℚ) * 2 ^ f.roundQuantum m e - m * 2 ^ e| ≤ |(n : ℚ) * 2 ^ q - m * 2 ^ e| := by
  have hnear (i : ℤ) : |((f.rounded .rne neg m e).1 : ℚ) * 2 ^ f.roundQuantum m e - m * 2 ^ e| ≤ |(i : ℚ) * 2 ^ f.roundQuantum m e - m * 2 ^ e| := by
    have hx : ((m * 2 ^ (f.mb + 4) : Nat) : ℚ) * 2 ^ (e - (f.mb + 4 : Nat)) = m * 2 ^ e := by
      rw [zpow_sub₀ two_ne_zero, zpow_natCast]
      push_cast
      field_simp
    rw [← hx]
    exact roundAt_rne_nearest (f.roundQuantum_gt m e) neg _ i
  obtain hle | hlt := le_or_gt (f.roundQuantum m e) q
  · obtain ⟨d, rfl⟩ : ∃ d : Nat, q = f.roundQuantum m e + d := ⟨(q - f.roundQuantum m e).toNat, by omega⟩
    have hmul : (n : ℚ) * 2 ^ (f.roundQuantum m e + d) = ((n * 2 ^ d : ℤ) : ℚ) * 2 ^ f.roundQuantum m e := by
      rw [zpow_add₀ two_ne_zero, zpow_natCast]
      push_cast
      ring
    rw [hmul]
    exact hnear _
  · have hnorm : f.roundQuantum m e = e + m.log2 - f.mb := by unfold Fmt.roundQuantum at hlt ⊢; omega
    have hleft : (n : ℚ) * 2 ^ q ≤ (2 ^ f.mb : ℤ) * 2 ^ f.roundQuantum m e := by
      calc (n : ℚ) * 2 ^ q ≤ 2 ^ (f.mb + 1) * 2 ^ q :=
            mul_le_mul_of_nonneg_right (by exact_mod_cast ((le_abs_self n).trans hn.le)) (by positivity)
        _ ≤ 2 ^ (f.mb + 1) * 2 ^ (f.roundQuantum m e - 1) :=
            mul_le_mul_of_nonneg_left (zpow_le_zpow_right₀ one_le_two (by omega)) (by positivity)
        _ = (2 ^ f.mb : ℤ) * 2 ^ f.roundQuantum m e := by
            rw [zpow_sub_one₀ two_ne_zero]
            push_cast
            ring
    have hright : ((2 ^ f.mb : ℤ) : ℚ) * 2 ^ f.roundQuantum m e ≤ m * 2 ^ e := by
      calc ((2 ^ f.mb : ℤ) : ℚ) * 2 ^ f.roundQuantum m e = 2 ^ m.log2 * 2 ^ e := by
            rw [hnorm, zpow_sub₀ two_ne_zero, zpow_add₀ two_ne_zero]
            push_cast
            rw [zpow_natCast, zpow_natCast]
            field_simp
        _ ≤ m * 2 ^ e := mul_le_mul_of_nonneg_right (by exact_mod_cast Nat.log2_self_le hm.ne') (by positivity)
    refine (hnear (2 ^ f.mb)).trans ?_
    rw [abs_of_nonpos (by linarith), le_abs]
    right
    linarith


/-! ### Nearest values -/

theorem abs_ratOf_fin_sub (neg neg' : Bool) (m m' : Nat) (e e' : Int) :
    |ratOf (.fin neg m e) - ratOf (.fin neg' m' e')| = |(((if neg = neg' then m else -m : ℤ)) : ℚ) * 2 ^ e - m' * 2 ^ e'| := by
  cases neg'
  case false => cases neg <;> simp [ratOf]
  case true =>
    rw [← abs_neg, neg_sub']
    cases neg <;> simp [ratOf]

/-- The formats of the statement are IEEE formats with an exponent field. -/
theorem ieee_of_mem {f : Fmt} (hf : f ∈ [fp64, fp32, fp16, bf16]) : f.kind = .ieee ∧ 0 < f.eb := by
  fin_cases hf <;> decide

/-- A finite result of rounding to nearest stands for the rounded multiple, with the sign of the exact number. -/
theorem Fmt.roundMag_rne_error {f : Fmt} (hk : f.kind = .ieee) (he : 0 < f.eb) (neg : Bool) {m : Nat} (hm : 0 < m) (e : Int)
    (hfin : (f.roundMag .rne false false neg m e false).1 % f.signBit ≤ f.maxMag) :
    |ratOf (f.decode (f.roundMag .rne false false neg m e false).1) - ratOf (.fin neg m e)| =
      |((f.rounded .rne neg m e).1 : ℚ) * 2 ^ f.roundQuantum m e - m * 2 ^ e| := by
  have hsucc := Fmt.maxMag_succ hk he
  have hinf := f.infMag_lt_signBit
  rw [f.roundMag_eq (by simp) neg hm e] at hfin ⊢
  split at hfin
  next =>
    have hover : f.overflow .rne neg false % f.signBit = f.infMag := by
      simp only [Fmt.overflow, hk, Fmt.code_mod_signBit hinf]
    exact absurd hfin (by rw [hover]; omega)
  next hle =>
    rw [if_neg hle]
    have hlt : f.magOf (f.rounded .rne neg m e).1 (f.roundQuantum m e) < f.signBit := by omega
    obtain ⟨hr, hq⟩ := f.rounded_bounds .rne neg hm e
    rw [Fmt.decode_of_le_maxMag hk he hfin, Fmt.code_mod_signBit hlt, Fmt.code_div_signBit hlt,
      show decide (neg.toNat % 2 = 1) = neg by cases neg <;> rfl, abs_ratOf_fin_sub, if_pos rfl, Int.cast_natCast, Fmt.value_magOf hr hq]

theorem roundingIsNearest : Claims.RoundingIsNearest := by
  intro f hf neg m e c hm hfin hc
  obtain ⟨hk, he⟩ := ieee_of_mem hf
  rw [Fmt.roundMag_rne_error hk he neg hm e hfin, Fmt.decode_of_le_maxMag hk he hc, abs_ratOf_fin_sub]
  refine f.rounded_rne_nearest neg hm e ?_ (f.emin_sub_mb_le_quantum _)
  have hsig : ((f.significand (c % f.signBit) : Nat) : ℤ) < 2 ^ (f.mb + 1) := by exact_mod_cast f.significand_lt _
  split
  · rwa [Nat.abs_cast]
  · rwa [abs_neg, Nat.abs_cast]

/-! ### Exact values -/

/-- With no remainder nothing is rounded up. -/
theorem roundUp_zero {mode : Rnd} (neg : Bool) (kept : Nat) {unit : Nat} (hu : 0 < unit) : roundUp mode neg kept 0 unit false = false := by
  cases mode <;> simp [roundUp, hu.ne']

/-- The value of a code is rounded at the code's own quantum. -/
theorem Fmt.roundQuantum_significand (f : Fmt) {mag : Nat} (h : 0 < f.significand mag) :
    f.roundQuantum (f.significand mag) (f.quantum mag) = f.quantum mag := by
  have hle := f.emin_sub_mb_le_quantum mag
  have hlog : (f.significand mag).log2 < f.mb + 1 := (Nat.log2_lt h.ne').2 (f.significand_lt mag)
  unfold Fmt.roundQuantum
  obtain ⟨-, hq⟩ | hnorm := f.subnormal_or_normal mag
  · omega
  · have := (Nat.le_log2 h.ne').2 hnorm
    omega

/-- A multiple of its quantum is kept, exactly. -/
theorem Fmt.rounded_of_roundQuantum_eq {f : Fmt} (mode : Rnd) (neg : Bool) {m : Nat} {e : Int} (h : f.roundQuantum m e = e) :
    f.rounded mode neg m e = (m, false) := by
  have hlt : ¬ e ≤ e - (f.mb + 4 : Nat) := by omega
  have hk : (e - (e - (f.mb + 4 : Nat))).toNat = f.mb + 4 := by omega
  have hpos : 0 < 2 ^ (f.mb + 4) := by positivity
  simp only [Fmt.rounded, h, roundAt, if_neg hlt, hk, Nat.mul_div_cancel _ hpos, Nat.mul_mod_left, roundUp_zero neg m hpos]
  rfl

theorem exactResultsStay : Claims.ExactResultsStay := by
  intro f hf mode hmode c neg m e hc hdec hm
  obtain ⟨hk, he⟩ := ieee_of_mem hf
  have hseed : ∀ seed, mode ≠ .sr seed := by rintro seed rfl; simp at hmode
  have hfin := Fmt.le_maxMag_of_decode_eq_fin hk he hdec
  rw [Fmt.decode_of_le_maxMag hk he hfin, FVal.fin.injEq] at hdec
  obtain ⟨rfl, rfl, rfl⟩ := hdec
  have hq := f.roundQuantum_significand hm
  rw [f.roundMag_eq hseed _ hm, Fmt.rounded_of_roundQuantum_eq mode _ hq, hq, Fmt.magOf_significand, if_neg (not_lt.2 hfin),
    Fmt.code_of_lt_two_pow_width hc]
  simp [flagIf]

/-- Settles O12: in units of the quantum, rounding to nearest is rounding to a nearest integer, and a value of the format off that grid lies
below the power of two that the exact number lies above; a value of the format is itself a multiple of the quantum it is rounded at. -/
theorem roundingIsCorrect : Obligations.RoundingIsCorrect := ⟨roundingIsNearest, exactResultsStay⟩

end Sys2Proof.Machine
end

section
/-! PROOFS. The decoder and the encoder are inverse (03 R49 to R59): each word that a row of the opcode map takes is the sum of the
fields that the row reads and of those that it fixes, so that nothing of it is dropped. -/

namespace Sys2Proof.Laws.RoundTrip

/-- The encoded word of every well-formed instruction decodes to it: the lemmas of the constructors, in their order. -/
theorem decodeNat_encodeNat (i : Instr) : Statement i :=
  Instr.casesOn (motive := Statement) i
    add sub and or xor andn shl shr sra rol mul mulh mulhu div divu rem remu min max minu maxu clz ctz popc bswap sext zext seq sne
    slt sltu sle sleu addi andi ori xori shli shri srai roli lih seqi slti sltui muli fadd fsub fmul fdiv fsqrt fmin fmax fneg fabs
    feq flt fle fclass fcvt ftoi itof fma fms fnma fnms ld st ldm stm amoAdd amoAnd amoOr amoXor amoMin amoMax amoMinu amoMaxu amoSwp
    amoCas amoFadd fence drainS isync frd fwr fclr xwr slb slr mxf mxt bindq unbq empty isfull beqz bnez bltz bgez bgtz blez beq bne
    blt bge bltu bgeu j jal jr jalr loop trap sysc eret brk nop snap csrr csrw csrs csrc spawn gang yield prio exit killg susp resm
    migr pself pinfo wfw sleep trapw quiesce quiesceR gbar garr gwait gexp svopen timer dqry dlkq chnew chdel chbind chqry chpoll
    sendh send recv sendb recvb sendt recvt senda trecv alt copy cwait strm subs unsub mcast vadd vsub vmul vdiv vmin vmax vabs vneg
    vsqrt vrsq vexp2 vlog2 vcmul vand vor vxor vshl vshr vsra vfma vfms vcmp vsel mset msetR mand mor mnot vcvt vqnt vdqn vred vscan
    vperm vbcast vmovg vmovv vld vst vlds vsts vgath vscat vrep tdef tstat tload tstore tcvt tcmd mma mmag cmma gmma azero adrain
    adrainR tadd tmul tact tsum ttrn tapon taponR tapoff tapoffX tmark reverse tspill tapst spld spldZ spst spw spu spd spmode spcvt
    spstat rgo rdone rabort permx peer lkey lstat bopen bclose bld bldR bview bstat once pfx rotationBoundary quantumExpiry
    budgetExhausted urgentWindowEnd fill xwrDelivery xwrWrite storeTranslate translatorLookupDone pageWalkRead pageWalkEnd storeAck
    storeNak sfqCopy remoteAccessArrival amoAtHome slotRegisterWrite tinvWrite csrWindowWrite invalidationArrival invalidationComplete
    frdAnswer launchRecord launchTakeEffect launchHeader start nameLookup nameLookupAnswer killArrival groupRelease migrationArrival
    migrationAnswer locationUpdate forwardExpiry quiesceStill barrierArrival exitDrainComplete notificationDelivery sleepExpiry
    detectionWave detectionAnswer offerArrival offerResend receiveAnnounce transferDataWritten sendAck messageEnqueue creditReturn
    wakeup peerDeleted chbindMove endpointInstall chbindAck trecvExpiry transferComplete streamElement joinRecorded mcastDelivery
    packetStomp ackTimeout serverAnswer droverRequest slicePass droverAccessEnd droverReplyRelease dispenserQuery dqryAnswer wfwServe
    deadlineArm deadlineFire probeStart probeArrival confirmationArrival reportArrival tetherMessageFrame tetherStoreFrame
    tetherLoadFrame tetherRefusedFrame tetherRetry tetherTraining attest health healthReplClear events counters snapshot keyput
    feature fenceFold image power killgroup imagekey powerOn bootComplete packageReset i3cPowerState powerCap throttleEnter
    throttleExit hardLimit patrolScrub snapshotLatch lifeCounterSave flitArrival linkAckTimeout gatewayPacketArrival linkLostTimeout
    regionArrival regionAttempt regionReceipt regionReturn regionReturnTimeout permxPair permxElement bundlePrepare bundlePhase2
    bundleAck bldAtHome tileTransferComplete drainComplete tileOpComplete kGroupDone gangProductStart tileCommandArrival
    tileCommandAnswer reverseRecord spillAck speTreeEntry speRetire notAnInstruction vectorLoadComplete startAnswer peerAnswer
    keyInstalled linkTraining linkDown24Hours powerFailure measurementRequest

theorem encodeNat_lt {i : Instr} (h : decodeNat (encodeNat i) = some i) : encodeNat i < 2 ^ 32 := by
  unfold decodeNat at h
  split at h
  · assumption
  · cases h

/-- The decoder of words is kept opaque here: the kernel would otherwise evaluate it on the sum of four unknown bytes. -/
theorem decodeBytes_cons_of_eq {f : Nat → Option Instr} (hf : decodeNat = f) (b0 b1 b2 b3 : Byte) (rest : List Byte) :
    decodeBytes (b0 :: b1 :: b2 :: b3 :: rest) =
      (f (b0.toNat + b1.toNat * 2 ^ 8 + b2.toNat * 2 ^ 16 + b3.toNat * 2 ^ 24)).map (fun i => (i, rest)) := by
  have unfolded := Eq.refl decodeBytes
  conv at unfolded => rhs; delta decodeBytes
  rw [hf] at unfolded
  rw [unfolded]
  dsimp only
  cases f _ <;> rfl

theorem sum_bytes {n : Nat} (lt : n < 2 ^ 32) :
    (BitVec.ofNat 8 n).toNat + (BitVec.ofNat 8 (n / 2 ^ 8)).toNat * 2 ^ 8 + (BitVec.ofNat 8 (n / 2 ^ 16)).toNat * 2 ^ 16 +
      (BitVec.ofNat 8 (n / 2 ^ 24)).toNat * 2 ^ 24 = n := by
  rw [BitVec.toNat_ofNat, BitVec.toNat_ofNat, BitVec.toNat_ofNat, BitVec.toNat_ofNat]
  omega

theorem decodeBytes_wordBytes {n : Nat} (lt : n < 2 ^ 32) (rest : List Byte) :
    decodeBytes (wordBytes n ++ rest) = (decodeNat n).map (fun i => (i, rest)) := by
  rw [wordBytes, List.cons_append, List.cons_append, List.cons_append, List.cons_append, List.nil_append,
    decodeBytes_cons_of_eq rfl, sum_bytes lt]

/-- Settles O2: the bytes of an encoded word make it, and every constructor's word decodes to it. -/
theorem encodedWordDecodes : Obligations.EncodedWordDecodes := by
  intro i rest hword hwf
  have h := decodeNat_encodeNat i hword hwf
  rw [decodeBytes_wordBytes (encodeNat_lt h), h]
  rfl

/-! ### A word is the sum of its fields -/

/-- The sum of fields of the given widths, from bit `lo` up, each at its place. -/
def tiles (n : Nat) : Nat → List Nat → Nat
  | _, [] => 0
  | lo, w :: ws => fld n lo w * 2 ^ lo + tiles n (lo + w) ws

theorem tiles_add_mod (n lo : Nat) (ws : List Nat) : tiles n lo ws + n % 2 ^ lo = n % 2 ^ (lo + ws.sum) := by
  induction ws generalizing lo with
  | nil => simp [tiles]
  | cons w ws ih =>
    rw [tiles, List.sum_cons, ← add_assoc, ← ih, pow_add, Nat.mod_mul, fld]
    ring

theorem word_eq {n : Nat} (lt : n < 2 ^ 32) (ws : List Nat) (h : ws.sum = 32) : n = tiles n 0 ws := by
  have := tiles_add_mod n 0 ws
  rw [zero_add, h, Nat.mod_eq_of_lt lt, pow_zero, Nat.mod_one] at this
  exact this.symm

theorem eq_of_fld_all {n k : Nat} (lt : n < 2 ^ 32) (h : fld n 0 32 = k) : n = k := by
  rwa [fld, pow_zero, Nat.div_one, Nat.mod_eq_of_lt lt] at h

theorem toNat_bits (n lo w : Nat) : (bits n lo w).toNat = fld n lo w := by simp [bits, fld]

theorem encFld_bits (n lo w l : Nat) : encFld (bits n lo w) l = fld n lo w * 2 ^ l := by rw [encFld_eq, toNat_bits]

theorem encSrc_bits (n lo lo' l m : Nat) :
    encSrc ⟨bits n lo 4, bits n lo' 2⟩ l m = fld n lo 4 * 2 ^ l + fld n lo' 2 * 2 ^ m := by
  rw [encSrc_eq, toNat_bits, toNat_bits]

/-- An 11-bit field read in two pieces is written in the same two. -/
theorem encSplit_pieces (n l1 l0 : Nat) :
    encSplit (BitVec.ofNat 11 (fld n 10 6 * 2 ^ 5 + fld n 0 5)) 5 l1 l0 = fld n 10 6 * 2 ^ l1 + fld n 0 5 * 2 ^ l0 := by
  have hi : fld n 10 6 < 2 ^ 6 := Nat.mod_lt _ (by decide)
  have lo : fld n 0 5 < 2 ^ 5 := Nat.mod_lt _ (by decide)
  rw [encSplit_eq, BitVec.toNat_ofNat, Nat.mod_eq_of_lt (by omega), Nat.mul_add_mod_self_right, Nat.mod_eq_of_lt lo,
    Nat.mul_comm _ (2 ^ 5), Nat.mul_add_div (Nat.two_pow_pos 5), Nat.div_eq_of_lt lo, add_zero]

theorem pack_nil_eq (c : Nat) : pack c [] = c := by rw [pack_nil]

theorem pack_cons_add (c x : Nat) (xs : List Nat) : pack c (x :: xs) = pack c xs + x := by
  induction xs generalizing c with
  | nil => simp [pack]
  | cons y ys ih => rw [pack_cons, pack_cons, ← pack_cons, pack_cons, add_right_comm, ← pack_cons, ih, pack_cons]

/-! ### Each row of the opcode map -/

/-- A row of the opcode map fits, or a later one decodes. -/
theorem row {c : Prop} [Decidable c] {x i : Instr} {r : Option Instr} (h : (if c then some x else r) = some i) :
    (c ∧ x = i) ∨ r = some i := by
  split at h
  · next hc => exact .inl ⟨hc, Option.some.inj h⟩
  · exact .inr h

/-- The majors of one row: a destination, a source and 16 bits of immediate (03 R57). -/
theorem pack_imm16 {n m : Nat} (lt : n < 2 ^ 32) (h : fld n 26 6 = m) :
    pack (m * 2 ^ 26) [encFld (bits n 22 4) 22, encSrc ⟨bits n 18 4, bits n 16 2⟩ 18 16, encFld (bits n 0 16) 0] = n := by
  have w := word_eq lt [16, 2, 4, 4, 6] rfl
  simp only [tiles, Nat.reduceAdd] at w
  simp only [pack_cons_add, pack_nil_eq, encFld_bits, encSrc_bits]
  omega

theorem encodeNat_of_major01 {n : Nat} {i : Instr} (lt : n < 2 ^ 32) (m : fld n 26 6 = 0x01) (h : decodeMajor01 n = some i) :
    encodeNat i = n := by
  have w1 := word_eq lt [10, 2, 4, 2, 4, 4, 6] rfl
  have w2 := word_eq lt [16, 2, 4, 4, 6] rfl
  simp only [tiles, Nat.reduceAdd] at w1 w2
  delta decodeMajor01 at h
  iterate 33
    obtain ⟨c, rfl⟩ | h := row h
    · change pack _ _ = n
      simp only [pack_cons_add, pack_nil_eq, encFld_bits, encSrc_bits]
      omega
  cases h

theorem encodeNat_of_major06 {n : Nat} {i : Instr} (lt : n < 2 ^ 32) (m : fld n 26 6 = 0x06) (h : decodeMajor06 n = some i) :
    encodeNat i = n := by
  have w := word_eq lt [6, 10, 2, 4, 4, 6] rfl
  simp only [tiles, Nat.reduceAdd] at w
  delta decodeMajor06 at h
  iterate 4
    obtain ⟨c, rfl⟩ | h := row h
    · change pack _ _ = n
      simp only [pack_cons_add, pack_nil_eq, encFld_bits, encSrc_bits]
      omega
  cases h

theorem encodeNat_of_major08 {n : Nat} {i : Instr} (lt : n < 2 ^ 32) (m : fld n 26 6 = 0x08) (h : decodeMajor08 n = some i) :
    encodeNat i = n := by
  have w := word_eq lt [14, 2, 2, 4, 4, 6] rfl
  simp only [tiles, Nat.reduceAdd] at w
  delta decodeMajor08 at h
  iterate 3
    obtain ⟨c, rfl⟩ | h := row h
    · change pack _ _ = n
      simp only [pack_cons_add, pack_nil_eq, encFld_bits, encSrc_bits]
      omega
  cases h

theorem encodeNat_of_major0A {n : Nat} {i : Instr} (lt : n < 2 ^ 32) (m : fld n 26 6 = 0x0A) (h : decodeMajor0A n = some i) :
    encodeNat i = n := by
  have w1 := word_eq lt [4, 1, 5, 2, 4, 2, 4, 4, 6] rfl
  have w2 := word_eq lt [4, 1, 11, 2, 4, 4, 6] rfl
  simp only [tiles, Nat.reduceAdd] at w1 w2
  delta decodeMajor0A at h
  iterate 16
    obtain ⟨c, rfl⟩ | h := row h
    · change pack _ _ = n
      simp only [pack_cons_add, pack_nil_eq, encFld_bits, encSrc_bits]
      omega
  cases h

theorem encodeNat_of_major0B {n : Nat} {i : Instr} (lt : n < 2 ^ 32) (m : fld n 26 6 = 0x0B) (h : decodeMajor0B n = some i) :
    encodeNat i = n := by
  have w := word_eq lt [3, 1, 2, 4, 2, 4, 2, 4, 4, 6] rfl
  simp only [tiles, Nat.reduceAdd] at w
  delta decodeMajor0B at h
  iterate 4
    obtain ⟨c, rfl⟩ | h := row h
    · change pack _ _ = n
      simp only [pack_cons_add, pack_nil_eq, encFld_bits, encSrc_bits]
      omega
  cases h

theorem encodeNat_of_major10 {n : Nat} {i : Instr} (lt : n < 2 ^ 32) (m : fld n 26 6 = 0x10) (h : decodeMajor10 n = some i) :
    encodeNat i = n := by
  have w := word_eq lt [13, 3, 2, 4, 4, 6] rfl
  simp only [tiles, Nat.reduceAdd] at w
  delta decodeMajor10 at h
  obtain rfl := Option.some.inj h
  change pack _ _ = n
  simp only [pack_cons_add, pack_nil_eq, encFld_bits, encSrc_bits]
  omega

theorem encodeNat_of_major11 {n : Nat} {i : Instr} (lt : n < 2 ^ 32) (m : fld n 26 6 = 0x11) (h : decodeMajor11 n = some i) :
    encodeNat i = n := by
  have w := word_eq lt [13, 3, 2, 4, 4, 6] rfl
  simp only [tiles, Nat.reduceAdd] at w
  delta decodeMajor11 at h
  obtain rfl := Option.some.inj h
  change pack _ _ = n
  simp only [pack_cons_add, pack_nil_eq, encFld_bits, encSrc_bits]
  omega

theorem encodeNat_of_major12 {n : Nat} {i : Instr} (lt : n < 2 ^ 32) (m : fld n 26 6 = 0x12) (h : decodeMajor12 n = some i) :
    encodeNat i = n := by
  have w := word_eq lt [11, 1, 4, 2, 4, 4, 6] rfl
  simp only [tiles, Nat.reduceAdd] at w
  delta decodeMajor12 at h
  iterate 2
    obtain ⟨c, rfl⟩ | h := row h
    · change pack _ _ = n
      simp only [pack_cons_add, pack_nil_eq, encFld_bits, encSrc_bits]
      omega
  cases h

theorem encodeNat_of_major13 {n : Nat} {i : Instr} (lt : n < 2 ^ 32) (m : fld n 26 6 = 0x13) (h : decodeMajor13 n = some i) :
    encodeNat i = n := by
  have w := word_eq lt [2, 1, 1, 1, 5, 2, 4, 2, 4, 4, 6] rfl
  simp only [tiles, Nat.reduceAdd] at w
  delta decodeMajor13 at h
  iterate 11
    obtain ⟨c, rfl⟩ | h := row h
    · change pack _ _ = n
      simp only [pack_cons_add, pack_nil_eq, encFld_bits, encSrc_bits]
      omega
  cases h

theorem encodeNat_of_major14 {n : Nat} {i : Instr} (lt : n < 2 ^ 32) (m : fld n 26 6 = 0x14) (h : decodeMajor14 n = some i) :
    encodeNat i = n := by
  have w := word_eq lt [2, 3, 17, 4, 6] rfl
  simp only [tiles, Nat.reduceAdd] at w
  delta decodeMajor14 at h
  obtain ⟨c, rfl⟩ | h := row h
  · change pack _ _ = n
    simp only [pack_cons_add, pack_nil_eq, encFld_bits]
    omega
  iterate 2
    obtain ⟨c, rfl⟩ | h := row h
    · exact (eq_of_fld_all lt c).symm
  cases h

theorem encodeNat_of_major15 {n : Nat} {i : Instr} (lt : n < 2 ^ 32) (m : fld n 26 6 = 0x15) (h : decodeMajor15 n = some i) :
    encodeNat i = n := by
  have w1 := word_eq lt [3, 1, 1, 11, 2, 4, 4, 6] rfl
  have w2 := word_eq lt [10, 2, 4, 2, 4, 10] rfl
  have w3 := word_eq lt [16, 2, 4, 10] rfl
  simp only [tiles, Nat.reduceAdd] at w1 w2 w3
  delta decodeMajor15 at h
  iterate 3
    obtain ⟨c, rfl⟩ | h := row h
    · change pack _ _ = n
      simp only [pack_cons_add, pack_nil_eq, encFld_bits, encSrc_bits]
      omega
  cases h

theorem encodeNat_of_major16 {n : Nat} {i : Instr} (lt : n < 2 ^ 32) (m : fld n 26 6 = 0x16) (h : decodeMajor16 n = some i) :
    encodeNat i = n := by
  have w1 := word_eq lt [10, 2, 4, 2, 4, 4, 6] rfl
  have w2 := word_eq lt [22, 4, 6] rfl
  have w3 := word_eq lt [12, 4, 6, 4, 6] rfl
  have w4 := word_eq lt [16, 2, 4, 4, 6] rfl
  have w5 := word_eq lt [10, 2, 4, 6, 4, 6] rfl
  have w6 := word_eq lt [18, 4, 4, 6] rfl
  simp only [tiles, Nat.reduceAdd] at w1 w2 w3 w4 w5 w6
  delta decodeMajor16 at h
  iterate 2
    obtain ⟨c, rfl⟩ | h := row h
    · change pack _ _ = n
      simp only [pack_cons_add, pack_nil_eq, encFld_bits, encSrc_bits]
      omega
  obtain ⟨c, rfl⟩ | h := row h
  · exact (eq_of_fld_all lt c).symm
  iterate 6
    obtain ⟨c, rfl⟩ | h := row h
    · change pack _ _ = n
      simp only [pack_cons_add, pack_nil_eq, encFld_bits, encSrc_bits]
      omega
  cases h

theorem encodeNat_of_major18 {n : Nat} {i : Instr} (lt : n < 2 ^ 32) (m : fld n 26 6 = 0x18) (h : decodeMajor18 n = some i) :
    encodeNat i = n := by
  have w := word_eq lt [17, 3, 2, 4, 6] rfl
  simp only [tiles, Nat.reduceAdd] at w
  delta decodeMajor18 at h
  iterate 6
    obtain ⟨c, rfl⟩ | h := row h
    · change pack _ _ = n
      simp only [pack_cons_add, pack_nil_eq, encFld_bits, encSrc_bits]
      omega
  cases h

theorem encodeNat_of_major19 {n : Nat} {i : Instr} (lt : n < 2 ^ 32) (m : fld n 26 6 = 0x19) (h : decodeMajor19 n = some i) :
    encodeNat i = n := by
  have w := word_eq lt [11, 3, 2, 2, 4, 4, 6] rfl
  simp only [tiles, Nat.reduceAdd] at w
  delta decodeMajor19 at h
  iterate 6
    obtain ⟨c, rfl⟩ | h := row h
    · change pack _ _ = n
      simp only [pack_cons_add, pack_nil_eq, encFld_bits, encSrc_bits]
      omega
  cases h

theorem encodeNat_of_major1A {n : Nat} {i : Instr} (lt : n < 2 ^ 32) (_m : fld n 26 6 = 0x1A) (h : decodeMajor1A n = some i) :
    encodeNat i = n := by
  have w := word_eq lt [25, 7] rfl
  simp only [tiles, Nat.reduceAdd] at w
  delta decodeMajor1A at h
  iterate 2
    obtain ⟨c, rfl⟩ | h := row h
    · change pack _ _ = n
      simp only [pack_cons_add, pack_nil_eq, encFld_bits]
      omega
  cases h

theorem encodeNat_of_major1B {n : Nat} {i : Instr} (lt : n < 2 ^ 32) (m : fld n 26 6 = 0x1B) (h : decodeMajor1B n = some i) :
    encodeNat i = n := by
  have w1 := word_eq lt [16, 2, 4, 10] rfl
  have w2 := word_eq lt [16, 2, 4, 4, 6] rfl
  simp only [tiles, Nat.reduceAdd] at w1 w2
  delta decodeMajor1B at h
  iterate 2
    obtain ⟨c, rfl⟩ | h := row h
    · change pack _ _ = n
      simp only [pack_cons_add, pack_nil_eq, encFld_bits, encSrc_bits]
      omega
  cases h

theorem encodeNat_of_major1C {n : Nat} {i : Instr} (lt : n < 2 ^ 32) (m : fld n 26 6 = 0x1C) (h : decodeMajor1C n = some i) :
    encodeNat i = n := by
  have w := word_eq lt [17, 3, 2, 4, 6] rfl
  simp only [tiles, Nat.reduceAdd] at w
  delta decodeMajor1C at h
  obtain ⟨c, rfl⟩ | h := row h
  · change pack _ _ = n
    simp only [pack_cons_add, pack_nil_eq, encFld_bits, encSrc_bits]
    omega
  cases h

theorem encodeNat_of_major1D {n : Nat} {i : Instr} (lt : n < 2 ^ 32) (_m : fld n 26 6 = 0x1D) (h : decodeMajor1D n = some i) :
    encodeNat i = n := by
  have w := word_eq lt [12, 20] rfl
  simp only [tiles, Nat.reduceAdd] at w
  delta decodeMajor1D at h
  iterate 2
    obtain ⟨c, rfl⟩ | h := row h
    · change pack _ _ = n
      simp only [pack_cons_add, pack_nil_eq, encFld_bits]
      omega
  obtain ⟨c, rfl⟩ | h := row h
  · exact (eq_of_fld_all lt c).symm
  obtain ⟨c, rfl⟩ | h := row h
  · change pack _ _ = n
    simp only [pack_cons_add, pack_nil_eq, encFld_bits]
    omega
  iterate 2
    obtain ⟨c, rfl⟩ | h := row h
    · exact (eq_of_fld_all lt c).symm
  cases h

theorem encodeNat_of_major1E {n : Nat} {i : Instr} (lt : n < 2 ^ 32) (m : fld n 26 6 = 0x1E) (h : decodeMajor1E n = some i) :
    encodeNat i = n := by
  have w1 := word_eq lt [12, 10, 4, 6] rfl
  have w2 := word_eq lt [12, 4, 2, 4, 4, 6] rfl
  simp only [tiles, Nat.reduceAdd] at w1 w2
  delta decodeMajor1E at h
  iterate 4
    obtain ⟨c, rfl⟩ | h := row h
    · change pack _ _ = n
      simp only [pack_cons_add, pack_nil_eq, encFld_bits, encSrc_bits]
      omega
  cases h

theorem encodeNat_of_major20 {n : Nat} {i : Instr} (lt : n < 2 ^ 32) (m : fld n 26 6 = 0x20) (h : decodeMajor20 n = some i) :
    encodeNat i = n := by
  have w1 := word_eq lt [3, 1, 1, 5, 2, 4, 2, 4, 4, 6] rfl
  have w2 := word_eq lt [4, 1, 11, 2, 4, 4, 6] rfl
  have w3 := word_eq lt [16, 2, 4, 4, 6] rfl
  have w4 := word_eq lt [16, 2, 4, 10] rfl
  have w5 := word_eq lt [10, 2, 4, 2, 4, 4, 6] rfl
  have w6 := word_eq lt [22, 4, 6] rfl
  have w7 := word_eq lt [4, 1, 17, 4, 6] rfl
  simp only [tiles, Nat.reduceAdd] at w1 w2 w3 w4 w5 w6 w7
  delta decodeMajor20 at h
  iterate 2
    obtain ⟨c, rfl⟩ | h := row h
    · change pack _ _ = n
      simp only [pack_cons_add, pack_nil_eq, encFld_bits, encSrc_bits]
      omega
  obtain ⟨c, rfl⟩ | h := row h
  · exact (eq_of_fld_all lt c).symm
  iterate 13
    obtain ⟨c, rfl⟩ | h := row h
    · change pack _ _ = n
      simp only [pack_cons_add, pack_nil_eq, encFld_bits, encSrc_bits]
      omega
  cases h

theorem encodeNat_of_major21 {n : Nat} {i : Instr} (lt : n < 2 ^ 32) (m : fld n 26 6 = 0x21) (h : decodeMajor21 n = some i) :
    encodeNat i = n := by
  have w1 := word_eq lt [22, 4, 6] rfl
  have w2 := word_eq lt [16, 2, 4, 10] rfl
  have w3 := word_eq lt [10, 2, 4, 2, 4, 10] rfl
  simp only [tiles, Nat.reduceAdd] at w1 w2 w3
  delta decodeMajor21 at h
  iterate 4
    obtain ⟨c, rfl⟩ | h := row h
    · change pack _ _ = n
      simp only [pack_cons_add, pack_nil_eq, encFld_bits, encSrc_bits]
      omega
  cases h

theorem encodeNat_of_major23 {n : Nat} {i : Instr} (lt : n < 2 ^ 32) (m : fld n 26 6 = 0x23) (h : decodeMajor23 n = some i) :
    encodeNat i = n := by
  have w1 := word_eq lt [10, 2, 4, 2, 4, 4, 6] rfl
  have w2 := word_eq lt [16, 2, 4, 4, 6] rfl
  simp only [tiles, Nat.reduceAdd] at w1 w2
  delta decodeMajor23 at h
  iterate 4
    obtain ⟨c, rfl⟩ | h := row h
    · change pack _ _ = n
      simp only [pack_cons_add, pack_nil_eq, encFld_bits, encSrc_bits]
      omega
  cases h

theorem encodeNat_of_major24 {n : Nat} {i : Instr} (lt : n < 2 ^ 32) (m : fld n 26 6 = 0x24) (h : decodeMajor24 n = some i) :
    encodeNat i = n := by
  have w1 := word_eq lt [16, 2, 4, 4, 6] rfl
  have w2 := word_eq lt [16, 2, 4, 10] rfl
  have w3 := word_eq lt [10, 2, 4, 2, 4, 4, 6] rfl
  have w4 := word_eq lt [10, 2, 4, 2, 4, 10] rfl
  simp only [tiles, Nat.reduceAdd] at w1 w2 w3 w4
  delta decodeMajor24 at h
  iterate 6
    obtain ⟨c, rfl⟩ | h := row h
    · change pack _ _ = n
      simp only [pack_cons_add, pack_nil_eq, encFld_bits, encSrc_bits]
      omega
  cases h

theorem encodeNat_of_major25 {n : Nat} {i : Instr} (lt : n < 2 ^ 32) (m : fld n 26 6 = 0x25) (h : decodeMajor25 n = some i) :
    encodeNat i = n := by
  have w1 := word_eq lt [10, 2, 4, 2, 4, 10] rfl
  have w2 := word_eq lt [16, 2, 4, 4, 6] rfl
  have w3 := word_eq lt [10, 2, 4, 2, 4, 4, 6] rfl
  have w4 := word_eq lt [4, 1, 5, 2, 4, 2, 4, 10] rfl
  have w5 := word_eq lt [4, 1, 5, 2, 4, 2, 4, 4, 6] rfl
  simp only [tiles, Nat.reduceAdd] at w1 w2 w3 w4 w5
  delta decodeMajor25 at h
  iterate 8
    obtain ⟨c, rfl⟩ | h := row h
    · change pack _ _ = n
      simp only [pack_cons_add, pack_nil_eq, encFld_bits, encSrc_bits]
      omega
  cases h

theorem encodeNat_of_major26 {n : Nat} {i : Instr} (lt : n < 2 ^ 32) (m : fld n 26 6 = 0x26) (h : decodeMajor26 n = some i) :
    encodeNat i = n := by
  have w := word_eq lt [4, 1, 5, 2, 4, 2, 4, 4, 6] rfl
  simp only [tiles, Nat.reduceAdd] at w
  delta decodeMajor26 at h
  obtain ⟨c, rfl⟩ | h := row h
  · change pack _ _ = n
    simp only [pack_cons_add, pack_nil_eq, encFld_bits, encSrc_bits]
    omega
  cases h

theorem encodeNat_of_major27 {n : Nat} {i : Instr} (lt : n < 2 ^ 32) (m : fld n 26 6 = 0x27) (h : decodeMajor27 n = some i) :
    encodeNat i = n := by
  have w1 := word_eq lt [10, 2, 4, 2, 4, 4, 6] rfl
  have w2 := word_eq lt [10, 2, 4, 6, 4, 6] rfl
  have w3 := word_eq lt [16, 2, 4, 4, 6] rfl
  have w4 := word_eq lt [10, 2, 4, 2, 4, 10] rfl
  simp only [tiles, Nat.reduceAdd] at w1 w2 w3 w4
  delta decodeMajor27 at h
  iterate 6
    obtain ⟨c, rfl⟩ | h := row h
    · change pack _ _ = n
      simp only [pack_cons_add, pack_nil_eq, encFld_bits, encSrc_bits]
      omega
  cases h

theorem encodeNat_of_major28 {n : Nat} {i : Instr} (lt : n < 2 ^ 32) (m : fld n 26 6 = 0x28) (h : decodeMajor28 n = some i) :
    encodeNat i = n := by
  have w1 := word_eq lt [3, 5, 3, 5, 5, 5, 6] rfl
  have w2 := word_eq lt [8, 3, 5, 5, 5, 6] rfl
  simp only [tiles, Nat.reduceAdd] at w1 w2
  delta decodeMajor28 at h
  iterate 19
    obtain ⟨c, rfl⟩ | h := row h
    · change pack _ _ = n
      simp only [pack_cons_add, pack_nil_eq, encFld_bits]
      omega
  cases h

theorem encodeNat_of_major29 {n : Nat} {i : Instr} (lt : n < 2 ^ 32) (m : fld n 26 6 = 0x29) (h : decodeMajor29 n = some i) :
    encodeNat i = n := by
  have w := word_eq lt [3, 5, 3, 5, 5, 5, 6] rfl
  simp only [tiles, Nat.reduceAdd] at w
  delta decodeMajor29 at h
  iterate 2
    obtain ⟨c, rfl⟩ | h := row h
    · change pack _ _ = n
      simp only [pack_cons_add, pack_nil_eq, encFld_bits]
      omega
  cases h

theorem encodeNat_of_major2A {n : Nat} {i : Instr} (lt : n < 2 ^ 32) (m : fld n 26 6 = 0x2A) (h : decodeMajor2A n = some i) :
    encodeNat i = n := by
  have w1 := word_eq lt [3, 5, 3, 5, 5, 3, 2, 6] rfl
  have w2 := word_eq lt [3, 5, 3, 5, 5, 5, 6] rfl
  have w3 := word_eq lt [16, 4, 1, 3, 8] rfl
  have w4 := word_eq lt [16, 3, 2, 4, 7] rfl
  have w5 := word_eq lt [11, 3, 2, 3, 2, 3, 8] rfl
  have w6 := word_eq lt [16, 3, 2, 3, 8] rfl
  simp only [tiles, Nat.reduceAdd] at w1 w2 w3 w4 w5 w6
  delta decodeMajor2A at h
  iterate 7
    obtain ⟨c, rfl⟩ | h := row h
    · change pack _ _ = n
      simp only [pack_cons_add, pack_nil_eq, encFld_bits]
      omega
  cases h

theorem encodeNat_of_major2B {n : Nat} {i : Instr} (lt : n < 2 ^ 32) (m : fld n 26 6 = 0x2B) (h : decodeMajor2B n = some i) :
    encodeNat i = n := by
  have w1 := word_eq lt [3, 5, 3, 4, 1, 5, 5, 6] rfl
  have w2 := word_eq lt [3, 8, 4, 1, 5, 5, 6] rfl
  simp only [tiles, Nat.reduceAdd] at w1 w2
  delta decodeMajor2B at h
  iterate 3
    obtain ⟨c, rfl⟩ | h := row h
    · change pack _ _ = n
      simp only [pack_cons_add, pack_nil_eq, encFld_bits]
      omega
  cases h

theorem encodeNat_of_major2C {n : Nat} {i : Instr} (lt : n < 2 ^ 32) (m : fld n 26 6 = 0x2C) (h : decodeMajor2C n = some i) :
    encodeNat i = n := by
  have w1 := word_eq lt [3, 5, 3, 2, 3, 5, 4, 7] rfl
  have w2 := word_eq lt [3, 5, 3, 2, 3, 5, 5, 6] rfl
  have w3 := word_eq lt [3, 5, 3, 5, 5, 5, 6] rfl
  have w4 := word_eq lt [3, 5, 3, 5, 4, 1, 5, 6] rfl
  have w5 := word_eq lt [3, 8, 4, 1, 5, 4, 7] rfl
  have w6 := word_eq lt [3, 8, 4, 1, 4, 1, 5, 6] rfl
  simp only [tiles, Nat.reduceAdd] at w1 w2 w3 w4 w5 w6
  delta decodeMajor2C at h
  iterate 6
    obtain ⟨c, rfl⟩ | h := row h
    · change pack _ _ = n
      simp only [pack_cons_add, pack_nil_eq, encFld_bits]
      omega
  cases h

theorem encodeNat_of_major2D {n : Nat} {i : Instr} (lt : n < 2 ^ 32) (m : fld n 26 6 = 0x2D) (h : decodeMajor2D n = some i) :
    encodeNat i = n := by
  have w1 := word_eq lt [3, 5, 3, 5, 4, 1, 5, 6] rfl
  have w2 := word_eq lt [3, 5, 3, 4, 1, 4, 1, 5, 6] rfl
  simp only [tiles, Nat.reduceAdd] at w1 w2
  delta decodeMajor2D at h
  iterate 6
    obtain ⟨c, rfl⟩ | h := row h
    · change pack _ _ = n
      simp only [pack_cons_add, pack_nil_eq, encFld_bits]
      omega
  cases h

theorem encodeNat_of_major2E {n : Nat} {i : Instr} (lt : n < 2 ^ 32) (m : fld n 26 6 = 0x2E) (h : decodeMajor2E n = some i) :
    encodeNat i = n := by
  have w := word_eq lt [1, 5, 5, 5, 6, 4, 6] rfl
  simp only [tiles, Nat.reduceAdd] at w
  delta decodeMajor2E at h
  obtain ⟨c, rfl⟩ | h := row h
  · change pack _ _ = n
    simp only [pack_cons_add, pack_nil_eq, encFld_bits]
    omega
  cases h

theorem encodeNat_of_major30 {n : Nat} {i : Instr} (lt : n < 2 ^ 32) (m : fld n 26 6 = 0x30) (h : decodeMajor30 n = some i) :
    encodeNat i = n := by
  have w1 := word_eq lt [11, 4, 1, 4, 1, 5, 6] rfl
  have w2 := word_eq lt [16, 5, 4, 7] rfl
  have w3 := word_eq lt [5, 1, 1, 9, 5, 5, 6] rfl
  have w4 := word_eq lt [11, 4, 1, 4, 12] rfl
  simp only [tiles, Nat.reduceAdd] at w1 w2 w3 w4
  delta decodeMajor30 at h
  iterate 6
    obtain ⟨c, rfl⟩ | h := row h
    · change pack _ _ = n
      simp only [pack_cons_add, pack_nil_eq, encFld_bits]
      omega
  cases h

theorem encodeNat_of_major31 {n : Nat} {i : Instr} (lt : n < 2 ^ 32) (m : fld n 26 6 = 0x31) (h : decodeMajor31 n = some i) :
    encodeNat i = n := by
  have w1 := word_eq lt [5, 1, 1, 4, 5, 5, 1, 10] rfl
  have w2 := word_eq lt [21, 1, 10] rfl
  have w3 := word_eq lt [2, 1, 3, 1, 9, 1, 4, 5, 6] rfl
  have w4 := word_eq lt [1, 1, 1, 3, 1, 4, 4, 1, 1, 4, 5, 6] rfl
  simp only [tiles, Nat.reduceAdd] at w1 w2 w3 w4
  delta decodeMajor31 at h
  iterate 7
    obtain ⟨c, rfl⟩ | h := row h
    · change pack _ _ = n
      simp only [pack_cons_add, pack_nil_eq, encFld_bits]
      omega
  cases h

theorem encodeNat_of_major32 {n : Nat} {i : Instr} (lt : n < 2 ^ 32) (m : fld n 26 6 = 0x32) (h : decodeMajor32 n = some i) :
    encodeNat i = n := by
  have w1 := word_eq lt [5, 1, 1, 4, 5, 5, 5, 6] rfl
  have w2 := word_eq lt [3, 2, 1, 1, 4, 5, 5, 5, 6] rfl
  have w3 := word_eq lt [5, 1, 1, 9, 5, 5, 6] rfl
  have w4 := word_eq lt [16, 5, 5, 6] rfl
  simp only [tiles, Nat.reduceAdd] at w1 w2 w3 w4
  delta decodeMajor32 at h
  iterate 5
    obtain ⟨c, rfl⟩ | h := row h
    · change pack _ _ = n
      simp only [pack_cons_add, pack_nil_eq, encFld_bits]
      omega
  cases h

theorem encodeNat_of_major34 {n : Nat} {i : Instr} (lt : n < 2 ^ 32) (m : fld n 26 6 = 0x34) (h : decodeMajor34 n = some i) :
    encodeNat i = n := by
  have w1 := word_eq lt [16, 2, 4, 4, 6] rfl
  have w2 := word_eq lt [22, 4, 6] rfl
  simp only [tiles, Nat.reduceAdd] at w1 w2
  delta decodeMajor34 at h
  iterate 2
    obtain ⟨c, rfl⟩ | h := row h
    · change pack _ _ = n
      simp only [pack_cons_add, pack_nil_eq, encFld_bits, encSrc_bits]
      omega
  iterate 2
    obtain ⟨c, rfl⟩ | h := row h
    · exact (eq_of_fld_all lt c).symm
  iterate 4
    obtain ⟨c, rfl⟩ | h := row h
    · change pack _ _ = n
      simp only [pack_cons_add, pack_nil_eq, encFld_bits, encSrc_bits]
      omega
  cases h

theorem encodeNat_of_major36 {n : Nat} {i : Instr} (lt : n < 2 ^ 32) (m : fld n 26 6 = 0x36) (h : decodeMajor36 n = some i) :
    encodeNat i = n := by
  have w1 := word_eq lt [10, 2, 4, 2, 4, 10] rfl
  have w2 := word_eq lt [16, 2, 4, 10] rfl
  have w3 := word_eq lt [5, 1, 1, 9, 2, 4, 4, 6] rfl
  have w4 := word_eq lt [10, 2, 4, 2, 4, 4, 6] rfl
  have w5 := word_eq lt [5, 1, 1, 3, 2, 4, 2, 4, 10] rfl
  have w6 := word_eq lt [1, 21, 4, 6] rfl
  simp only [tiles, Nat.reduceAdd] at w1 w2 w3 w4 w5 w6
  delta decodeMajor36 at h
  iterate 9
    obtain ⟨c, rfl⟩ | h := row h
    · change pack _ _ = n
      simp only [pack_cons_add, pack_nil_eq, encFld_bits, encSrc_bits]
      omega
  cases h

theorem encodeNat_of_major38 {n : Nat} {i : Instr} (lt : n < 2 ^ 32) (m : fld n 26 6 = 0x38) (h : decodeMajor38 n = some i) :
    encodeNat i = n := by
  have w1 := word_eq lt [5, 5, 6, 2, 4, 4, 6] rfl
  have w2 := word_eq lt [10, 2, 4, 2, 4, 4, 6] rfl
  have w3 := word_eq lt [16, 2, 4, 4, 6] rfl
  simp only [tiles, Nat.reduceAdd] at w1 w2 w3
  delta decodeMajor38 at h
  obtain ⟨c, rfl⟩ | h := row h
  · change pack _ _ = n
    simp only [pack_cons_add, pack_nil_eq, encFld_bits, encSrc_bits, encSplit_pieces]
    omega
  iterate 2
    obtain ⟨c, rfl⟩ | h := row h
    · exact (eq_of_fld_all lt c).symm
  iterate 4
    obtain ⟨c, rfl⟩ | h := row h
    · change pack _ _ = n
      simp only [pack_cons_add, pack_nil_eq, encFld_bits, encSrc_bits]
      omega
  cases h

theorem encodeNat_of_major39 {n : Nat} {i : Instr} (lt : n < 2 ^ 32) (m : fld n 26 6 = 0x39) (h : decodeMajor39 n = some i) :
    encodeNat i = n := by
  have w1 := word_eq lt [10, 2, 4, 2, 4, 4, 6] rfl
  have w2 := word_eq lt [22, 4, 6] rfl
  have w3 := word_eq lt [16, 2, 4, 4, 6] rfl
  simp only [tiles, Nat.reduceAdd] at w1 w2 w3
  delta decodeMajor39 at h
  iterate 6
    obtain ⟨c, rfl⟩ | h := row h
    · change pack _ _ = n
      simp only [pack_cons_add, pack_nil_eq, encFld_bits, encSrc_bits]
      omega
  cases h

theorem encodeNat_of_major3D {n : Nat} {i : Instr} (lt : n < 2 ^ 32) (_m : fld n 26 6 = 0x3D) (h : decodeMajor3D n = some i) :
    encodeNat i = n := by
  have w := word_eq lt [16, 16] rfl
  simp only [tiles, Nat.reduceAdd] at w
  delta decodeMajor3D at h
  obtain ⟨c, rfl⟩ | h := row h
  · exact (eq_of_fld_all lt c).symm
  obtain ⟨c, rfl⟩ | h := row h
  · change pack _ _ = n
    simp only [pack_cons_add, pack_nil_eq, encFld_bits]
    omega
  cases h

/-! ### Every word -/

theorem fld_major {n m : Nat} (lt : n < 2 ^ 32) (h : n / 2 ^ 26 = m) : fld n 26 6 = m := by
  unfold fld; omega

/-- A word is the encoding of the instruction whose fields are read from it. -/
theorem encodeNat_of_decodeRaw {n : Nat} {i : Instr} (lt : n < 2 ^ 32) (h : decodeRaw n = some i) : encodeNat i = n := by
  delta decodeRaw at h
  split at h
  · next hm => exact encodeNat_of_major01 lt (fld_major lt hm) h
  · next hm => obtain rfl := Option.some.inj h; exact pack_imm16 lt (fld_major lt hm)
  · next hm => obtain rfl := Option.some.inj h; exact pack_imm16 lt (fld_major lt hm)
  · next hm => obtain rfl := Option.some.inj h; exact pack_imm16 lt (fld_major lt hm)
  · next hm => obtain rfl := Option.some.inj h; exact pack_imm16 lt (fld_major lt hm)
  · next hm => exact encodeNat_of_major06 lt (fld_major lt hm) h
  · next hm => obtain rfl := Option.some.inj h; exact pack_imm16 lt (fld_major lt hm)
  · next hm => exact encodeNat_of_major08 lt (fld_major lt hm) h
  · next hm => obtain rfl := Option.some.inj h; exact pack_imm16 lt (fld_major lt hm)
  · next hm => exact encodeNat_of_major0A lt (fld_major lt hm) h
  · next hm => exact encodeNat_of_major0B lt (fld_major lt hm) h
  · next hm => exact encodeNat_of_major10 lt (fld_major lt hm) h
  · next hm => exact encodeNat_of_major11 lt (fld_major lt hm) h
  · next hm => exact encodeNat_of_major12 lt (fld_major lt hm) h
  · next hm => exact encodeNat_of_major13 lt (fld_major lt hm) h
  · next hm => exact encodeNat_of_major14 lt (fld_major lt hm) h
  · next hm => exact encodeNat_of_major15 lt (fld_major lt hm) h
  · next hm => exact encodeNat_of_major16 lt (fld_major lt hm) h
  · next hm => exact encodeNat_of_major18 lt (fld_major lt hm) h
  · next hm => exact encodeNat_of_major19 lt (fld_major lt hm) h
  · next hm => exact encodeNat_of_major1A lt (fld_major lt hm) h
  · next hm => exact encodeNat_of_major1B lt (fld_major lt hm) h
  · next hm => exact encodeNat_of_major1C lt (fld_major lt hm) h
  · next hm => exact encodeNat_of_major1D lt (fld_major lt hm) h
  · next hm => exact encodeNat_of_major1E lt (fld_major lt hm) h
  · next hm => exact encodeNat_of_major20 lt (fld_major lt hm) h
  · next hm => exact encodeNat_of_major21 lt (fld_major lt hm) h
  · next hm => exact encodeNat_of_major23 lt (fld_major lt hm) h
  · next hm => exact encodeNat_of_major24 lt (fld_major lt hm) h
  · next hm => exact encodeNat_of_major25 lt (fld_major lt hm) h
  · next hm => exact encodeNat_of_major26 lt (fld_major lt hm) h
  · next hm => exact encodeNat_of_major27 lt (fld_major lt hm) h
  · next hm => exact encodeNat_of_major28 lt (fld_major lt hm) h
  · next hm => exact encodeNat_of_major29 lt (fld_major lt hm) h
  · next hm => exact encodeNat_of_major2A lt (fld_major lt hm) h
  · next hm => exact encodeNat_of_major2B lt (fld_major lt hm) h
  · next hm => exact encodeNat_of_major2C lt (fld_major lt hm) h
  · next hm => exact encodeNat_of_major2D lt (fld_major lt hm) h
  · next hm => exact encodeNat_of_major2E lt (fld_major lt hm) h
  · next hm => exact encodeNat_of_major30 lt (fld_major lt hm) h
  · next hm => exact encodeNat_of_major31 lt (fld_major lt hm) h
  · next hm => exact encodeNat_of_major32 lt (fld_major lt hm) h
  · next hm => exact encodeNat_of_major34 lt (fld_major lt hm) h
  · next hm => exact encodeNat_of_major36 lt (fld_major lt hm) h
  · next hm => exact encodeNat_of_major38 lt (fld_major lt hm) h
  · next hm => exact encodeNat_of_major39 lt (fld_major lt hm) h
  · next hm => exact encodeNat_of_major3D lt (fld_major lt hm) h
  · cases h

theorem wf_of_decodeNat {n : Nat} {i : Instr} (h : decodeNat n = some i) : n < 2 ^ 32 ∧ decodeRaw n = some i ∧ i.WellFormed := by
  unfold decodeNat at h
  split at h
  · next lt =>
    split at h
    · next j hj =>
      split at h
      · next hwf => obtain rfl := Option.some.inj h; exact ⟨lt, hj, hwf⟩
      · cases h
    · cases h
  · cases h

/-- The word of zeros is no instruction (03 R59), so no instruction decodes to what is encoded as one. -/
theorem decodeRaw_zero : decodeRaw 0 = none := rfl

/-- Settles O3: a word is the sum of the fields that its row of the opcode map reads and of those it fixes. -/
theorem decodedWordIsEncoding : Obligations.DecodedWordIsEncoding := by
  intro w i h
  obtain ⟨lt, hraw, hwf⟩ := wf_of_decodeNat h
  have henc := encodeNat_of_decodeRaw lt hraw
  have hne : w.toNat ≠ 0 := fun h0 => by simp [h0, decodeRaw_zero] at hraw
  refine ⟨hwf, ?_⟩
  rw [encode, henc, if_neg hne, BitVec.ofNat_toNat, BitVec.setWidth_eq]

end Sys2Proof.Laws.RoundTrip
end

section
/-! PROOFS. Words of the tables, the reset state, retirement and empty sources (03 R50, R51, R57 to R60; 05 R103). -/

namespace Sys2Proof.Machine

/-- Settles O1, by evaluating the decoder on each word. -/
theorem wordsDecode : Obligations.WordsDecode := by
  unfold Obligations.WordsDecode
  decide

/-- Settles O7: reset lists no byte. -/
theorem resetInvariant : Obligations.ResetInvariant := rfl

/-! ### What retirement leaves (03 R51, 05 R103) -/

/-- A write that names no bound port changes the register file alone. -/
theorem setReg_rest (p : Proc) (r : Reg) (v : Word) : { p.setReg r v with regs := p.regs } = p := putCell_rest p r _

/-- The writes of a retirement: the last one of a register stands, and each register written is full. -/
theorem foldl_setReg (ws : List (Reg × Word)) (p : Proc) :
    (∀ r, (ws.foldl (fun q w => q.setReg w.1 w.2) p).reg r = if r = 0 then 0 else (ws.reverse.lookup r).getD (p.reg r)) ∧
    (∀ r, (ws.foldl (fun q w => q.setReg w.1 w.2) p).full r = ((ws.lookup r).isSome || p.full r)) ∧
    { ws.foldl (fun q w => q.setReg w.1 w.2) p with regs := p.regs } = p := by
  induction ws generalizing p with
  | nil =>
    refine ⟨fun r => ?_, fun r => by simp, rfl⟩
    by_cases h : r = 0
    · rw [if_pos h, List.foldl_nil, reg_eq, if_pos h]
    · rw [if_neg h]; rfl
  | cons w ws ih =>
    obtain ⟨x, v⟩ := w
    obtain ⟨hreg, hfull, hrest⟩ := ih (p.setReg x v)
    refine ⟨fun r => ?_, fun r => ?_, ?_⟩
    · rw [List.foldl_cons, hreg, reg_setReg, List.reverse_cons, List.lookup_append]
      by_cases hr : r = x
      · subst hr; cases ws.reverse.lookup r <;> simp +contextual
      · cases ws.reverse.lookup r <;> simp [hr, List.lookup, beq_false_of_ne hr]
    · rw [List.foldl_cons, hfull, full_setReg]
      by_cases hr : r = x
      · simp [hr, List.lookup]
      · simp [hr, List.lookup, beq_false_of_ne hr]
    · have := setReg_rest p x v
      rw [List.foldl_cons]
      generalize ws.foldl (fun q w => q.setReg w.1 w.2) (p.setReg x v) = q at *
      generalize p.setReg x v = p' at *
      rw [← this, ← hrest]


/-- A process after the consume marks and then the writes of a retirement, none of which names a bound port. -/
def Proc.written (p : Proc) (c : BitVec 16) (ws : List (Reg × Word)) : Proc :=
  ws.foldl (fun q w => q.setReg w.1 w.2) (p.consumeRegs c)

/-- Of a process with no bound port every write of a retirement names a register. -/
theorem retire_unbound {p : Proc} (h : p.Unbound) (c : BitVec 16) (ws : List (Reg × Word)) :
    p.retire c ws = (p.written c ws).advance.endGroup := by
  simp only [Proc.retire, Proc.written, portOf_none h, Option.isSome_none, Bool.false_eq_true, if_false]

theorem advance_of_not_vact {p : Proc} (h : p.vact = false) : p.advance = { p with pc := p.wordPc + 4 } := by
  simp [Proc.advance, h]

/-- Consume marks and writes change the register file alone. -/
theorem writes_rest {p : Proc} (h : p.Unbound) (c : BitVec 16) (ws : List (Reg × Word)) :
    { p.written c ws with regs := p.regs } = p := by
  obtain ⟨-, -, crest⟩ := consumeRegs_spec p h c
  obtain ⟨-, -, wrest⟩ := foldl_setReg ws (p.consumeRegs c)
  change { p.written c ws with regs := (p.consumeRegs c).regs } = p.consumeRegs c at wrest
  generalize p.written c ws = q at *
  rw [← wrest] at crest
  exact crest

theorem retire_of_not_vact {p : Proc} (hv : p.vact = false) (h : p.Unbound) (c : BitVec 16) (ws : List (Reg × Word)) :
    p.retire c ws = { p.written c ws with pc := p.wordPc + 4 }.endGroup := by
  have hrest := writes_rest h c ws
  rw [retire_unbound h]
  generalize p.written c ws = q at *
  have hqv : q.vact = false := (congrArg Proc.vact hrest).trans hv
  have hqpc : q.wordPc = p.wordPc := by rw [← hrest]; rfl
  rw [advance_of_not_vact hqv, hqpc]

/-- What retirement leaves of a process that no ONCE or VREP governs and that has no bound port (03 R51). -/
theorem retire_proc {p : Proc} (ho : p.onceOn = false) (hv : p.vact = false) (h : p.Unbound) (c : BitVec 16) (ws : List (Reg × Word)) :
    (p.retire c ws).pc = p.wordPc + 4 ∧
    (∀ r, (p.retire c ws).reg r = if r = 0 then 0 else (ws.reverse.lookup r).getD (p.reg r)) ∧
    (∀ r, (p.retire c ws).full r =
      ((ws.lookup r).isSome || (p.full r && (decide (r = 0) || !(c.getLsbD r.toNat && !p.made.getLsbD r.toNat))))) ∧
    { p.retire c ws with regs := p.regs, pc := p.pc, pfx := p.pfx, hold := p.hold, made := p.made } = p := by
  obtain ⟨creg, cfull, -⟩ := consumeRegs_spec p h c
  obtain ⟨wreg, wfull, -⟩ := foldl_setReg ws (p.consumeRegs c)
  have hrest := writes_rest h c ws
  rw [retire_of_not_vact hv h]
  unfold Proc.written at *
  generalize ws.foldl (fun q w => q.setReg w.1 w.2) (p.consumeRegs c) = q at *
  refine ⟨rfl, fun r => ?_, fun r => ?_, ?_⟩
  · rw [← creg r]; exact wreg r
  · rw [← cfull r]; exact wfull r
  · rw [← hrest] at ho ⊢
    simp only [Proc.endGroup, ← ho]

/-- Retirement of a process that no ONCE governs and that has no bound port changes its record and what is in flight. -/
theorem retire_proc_state {s : State} {k : Nat} {p : Proc} (hp : s.proc k = some p) (ho : p.onceOn = false) (h : p.Unbound)
    (c : BitVec 16) (ws : List (Reg × Word)) :
    (∀ j, (s.retire k c ws).proc j = if j = k then some (p.markRetired (p.retire c ws) s.cycle c ws) else s.proc j) ∧
    { s.retire k c ws with procs := s.procs, agenda := s.agenda } = s := by
  rw [retire_plain hp ho h]
  refine ⟨fun j => ?_, ?_⟩
  · rw [offerXwr_proc, proc_putProc]
  · have hx := offerXwr_rest (s.putProc k (p.markRetired (p.retire c ws) s.cycle c ws)) k
    exact congrArg (fun t : State => { t with procs := s.procs, agenda := s.agenda }) hx

/-! Raising flags commutes with what retirement does of a process (05 R116). -/

theorem putCell_raiseFlags (p : Proc) (fl : FlagSet) (r : Reg) (c : RegCell) :
    (p.raiseFlags fl).putCell r c = (p.putCell r c).raiseFlags fl := by
  unfold Proc.putCell; split <;> rfl

theorem setReg_raiseFlags (p : Proc) (fl : FlagSet) (r : Reg) (v : Word) : (p.raiseFlags fl).setReg r v = (p.setReg r v).raiseFlags fl :=
  putCell_raiseFlags ..

theorem consumeRegs_raiseFlags (p : Proc) (fl : FlagSet) (c : BitVec 16) :
    (p.raiseFlags fl).consumeRegs c = (p.consumeRegs c).raiseFlags fl := by
  refine (List.foldl_hom (fun q : Proc => q.raiseFlags fl) fun q n => ?_)
  rw [apply_ite (fun q : Proc => q.raiseFlags fl)]
  exact if_congr Iff.rfl (putCell_raiseFlags ..) rfl

theorem written_raiseFlags (p : Proc) (fl : FlagSet) (c : BitVec 16) (ws : List (Reg × Word)) :
    (p.raiseFlags fl).written c ws = (p.written c ws).raiseFlags fl := by
  rw [Proc.written, consumeRegs_raiseFlags]
  exact List.foldl_hom (fun q : Proc => q.raiseFlags fl) fun q w => setReg_raiseFlags q fl w.1 w.2

theorem retire_raiseFlags {p : Proc} (hv : p.vact = false) (h : p.Unbound) (fl : FlagSet) (c : BitVec 16) (ws : List (Reg × Word)) :
    (p.raiseFlags fl).retire c ws = (p.retire c ws).raiseFlags fl := by
  rw [retire_of_not_vact hv h, retire_of_not_vact (p := p.raiseFlags fl) hv h, written_raiseFlags]
  rfl

theorem retirementWrites : Claims.RetirementWrites := by
  intro s k p c ws hp ho hv h
  obtain ⟨hproc, hrest⟩ := retire_proc_state hp ho h c ws
  obtain ⟨hpc, hreg, hfull, hsame⟩ := retire_proc ho hv h c ws
  refine ⟨p.markRetired (p.retire c ws) s.cycle c ws, by simp [hproc], hpc, hreg, hfull, ?_, rfl, fun j hj => by simp [hproc, hj], hrest, fun fl => ?_,
    fun a => ?_⟩
  · exact congrArg (fun q : Proc => { q with doneAt := p.doneAt, wrote := p.wrote, emptied := p.emptied }) hsame
  · have hp' : (s.modProc k (fun p => p.raiseFlags fl)).proc k = some (p.raiseFlags fl) := by simp [proc_modProc hp]
    obtain ⟨hproc', hrest'⟩ := retire_proc_state (p := p.raiseFlags fl) hp' ho h c ws
    have hfl : (p.retire c ws).fflags = p.fflags := (congrArg Proc.fflags hsame :)
    refine ⟨?_, ?_⟩
    · rw [State.retireFlags, hproc', if_pos rfl, retire_raiseFlags hv h, ← hfl, modProc_eq hp]
      rfl
    · rw [State.retireFlags, modProc_eq hp] at *
      exact congrArg (fun t : State => { t with procs := s.procs }) hrest'
  · rw [State.retireTo, proc_modProc (hproc k ▸ if_pos rfl), if_pos rfl]

/-! ### Empty sources (03 R50, R60) -/

/-- Every instruction of major 0x01 with two sources computes one result from them. -/
theorem exec_intTwo {e : (Reg → Src → Src → Instr) × (Word → Word → Word)} (he : e ∈ intTwo) :
    ∃ f, ∀ (d : Reg) (a b : Src) (s : State), exec (e.1 d a b) s = onCur s (fun k p => s.compute2 k p d a b f) := by
  simp only [intTwo, List.mem_cons, List.not_mem_nil, or_false] at he
  repeat
    obtain rfl | he := he
    · exact ⟨_, fun _ _ _ _ => rfl⟩

/-- Without bound ports a source is empty exactly when its register is. -/
theorem source_beq_empty {s : State} {p : Proc} (h : p.Unbound) (r : Reg) : (s.source p r == .empty) = !p.full r := by
  rw [source_unbound h]
  cases p.full r <;> rfl

theorem no_illegal_port {s : State} {p : Proc} (h : p.Unbound) (fs : List Field) (dsts : List Reg) :
    ((dsts.map (s.sink p)) ++ ((fs.map (fun f => (f, s.source p f.reg))).map Prod.snd)).any (fun x => x == .illegal) = false := by
  rw [List.any_eq_false]
  intro x hx
  simp only [List.map_map, List.mem_append, List.mem_map, Function.comp, sink_unbound h, source_unbound h] at hx
  obtain ⟨d, -, rfl⟩ | ⟨f, -, rfl⟩ := hx
  · decide
  · split <;> exact Bool.false_ne_true

/-- Without bound ports, the first field with T = 1 whose register is empty raises EMPTY (03 R50, R60). -/
theorem readFields_empty {s : State} {p : Proc} (h : p.Unbound) {fs : List Field} (dsts : List Reg) {f : Field}
    (hf : fs.find? (fun f => f.t && !p.full f.reg) = some f) :
    s.readFields p fs dsts = .empty (BitVec.ofNat 64 (f.ix * 16 + f.reg.toNat)) := by
  simp only [State.readFields, no_illegal_port h, List.find?_map, Function.comp_def, source_beq_empty h, hf, Option.map_some,
    Bool.false_eq_true, if_false]

/-- Without one, the process waits for the first empty register. -/
theorem readFields_wait {s : State} {p : Proc} (h : p.Unbound) {fs : List Field} (dsts : List Reg) {f : Field}
    (hn : fs.find? (fun f => f.t && !p.full f.reg) = none) (hf : fs.find? (fun f => !p.full f.reg) = some f) :
    s.readFields p fs dsts = .wait f.reg := by
  simp only [State.readFields, no_illegal_port h, List.find?_map, Function.comp_def, source_beq_empty h, hn, hf, Option.map_some,
    Option.map_none, Bool.false_eq_true, if_false]

theorem emptySources : Claims.EmptySources := by
  intro e he s k p d a b hs h
  obtain ⟨f, hf⟩ := exec_intTwo he
  rw [hf, onCur_next hs, State.compute2]
  refine ⟨fun ta ea => ?_, fun fa tb eb => ?_, fun ta tb ea => ?_⟩
  · rw [issue_empty (readFields_empty h [d] (f := srcField a 0) (by simp only [List.find?, srcField, ta, ea]; rfl))]
    simp [srcField]
  · rw [issue_empty (readFields_empty h [d] (f := srcField b 1) (by simp only [List.find?, srcField, fa, tb, eb, Bool.not_true, Bool.and_false]; rfl))]
    simp [srcField]
  · rw [State.issue, readFields_wait h [d] (f := srcField a 0) (by simp only [List.find?, srcField, ta, tb, Bool.false_and])
      (by simp only [List.find?, srcField, ea]; rfl)]
    rfl

/-- Settles O13: consume marks and writes act on the register file alone, and an empty source is found before any port. -/
theorem retirementAndSources : Obligations.RetirementAndSources := ⟨retirementWrites, emptySources⟩

end Sys2Proof.Machine
end

section
/-! PROOFS. PFX and ONCE (03 R53 to R55): one lemma for each arrangement of the words. -/

namespace Sys2Proof.Machine

theorem tput_tput_self {α : Type} (t : Tab α) (i : Nat) (v w : α) : tput (tput t i v) i w = tput t i w := by
  induction t with
  | nil => simp [tput]
  | cons e t ih =>
    obtain ⟨k, x⟩ := e
    by_cases h : k < i
    · simp [tput, h, ih]
    · by_cases h' : k = i <;> simp [tput, h, h']

theorem putProc_putProc (s : State) (k : Nat) (p q : Proc) : (s.putProc k p).putProc k q = s.putProc k q := by
  simp [State.putProc, tput_tput_self]

theorem pfxAllows_iff (w : Nat) : pfxAllows w = true ↔ w / 2 ^ 26 ∈ [0x02, 0x03, 0x04, 0x05, 0x09] := by
  simp [pfxAllows, or_assoc]

theorem isPfx_iff (w : Nat) : isPfx w = true ↔ w / 2 ^ 16 = 0xF440 := by simp [isPfx]

theorem onceAllows_iff (w : Nat) : onceAllows w = true ↔ 0x01 ≤ w / 2 ^ 26 ∧ w / 2 ^ 26 ≤ 0x0B ∨ w / 2 ^ 26 ∈ [0x10, 0x13, 0x23] ∨
    w / 2 ^ 26 = 0x15 ∧ w / 2 ^ 5 % 32 = 0 ∨ w / 2 ^ 26 = 0x1E ∧ w / 2 ^ 12 % 16 = 0 := by
  simp [onceAllows, or_assoc]

/-- A word that PFX may precede: one that takes a long immediate, or a first PFX (03 R54). -/
def pfxTakes (p : Proc) (w : Nat) : Prop := w / 2 ^ 26 ∈ [0x02, 0x03, 0x04, 0x05, 0x09] ∨ w / 2 ^ 16 = 0xF440 ∧ p.pfx = []

theorem pfxTakes_iff (p : Proc) (w : Nat) : pfxTakes p w ↔ (pfxAllows w || (isPfx w && decide (p.pfx.length = 0))) = true := by
  rw [Bool.or_eq_true, Bool.and_eq_true, pfxAllows_iff, isPfx_iff, decide_eq_true_eq, List.length_eq_zero_iff, pfxTakes]

theorem execPfx_joins {s : State} {k : Nat} {p : Proc} (hs : s.Issues k p) (x : BitVec 16)
    (h : pfxTakes p (s.istoreWord p.core (p.wordPc + 4))) :
    exec (.pfx x) s = .next { s.putProc k { p with pfx := p.pfx ++ [x] } with group := some k } := by
  rw [pfxTakes_iff] at h
  exact (onCur_next hs _).trans (by simp only [h, if_true])

theorem execPfx_illegal {s : State} {k : Nat} {p : Proc} (hs : s.Issues k p) (x : BitVec 16)
    (h : ¬ pfxTakes p (s.istoreWord p.core (p.wordPc + 4))) :
    exec (.pfx x) s = .next (s.raiseAt k 0x01 (BitVec.ofNat 64 (s.istoreWord p.core (p.wordPc + 4))) p.pc) := by
  rw [pfxTakes_iff] at h
  exact (onCur_next hs _).trans (by simp only [if_neg h, raise_eq hs.2, causeIllegal])

/-- The words behind a ONCE that is not followed by PFX. -/
theorem onceTail_of_not_pfx {s : State} {core : Nat} {pc : BitVec 16} (h : isPfx (s.istoreWord core pc) = false) (fuel n : Nat) :
    s.onceTail core pc (fuel + 1) n = (n + 1, s.istoreWord core pc) := by
  simp [State.onceTail, h]

theorem elect_of_elected {s : State} {gid n j : Nat} {g : Group} (hg : s.group? gid = some g)
    (h : g.elected.find? (fun e => e.1 == n) = some (n, j)) : s.elect gid n = (j, s) := by
  simp [State.elect, hg, h]

/-- A new producer of a register changes the register file and the note of what the instruction has made empty. -/
theorem produce_rest (p : Proc) (r : Reg) : { p.produce r with regs := p.regs, made := p.made } = p := by
  have h := putCell_rest p r { p.cell r with full := false, pend := true, tag := (p.cell r).tag + 1, out := (p.cell r).out + 1 }
  exact (congrArg (fun q : Proc => { q with made := p.made }) h :)

/-- A member that passes a group over, with no post for it yet (03 R55). -/
theorem onceWaitFor_of_no_post {s : State} {k : Nat} {p : Proc} (hp : s.proc k = some p) (ho : p.onceOn = false) (h : p.Unbound)
    {n : Nat} (hn : ∀ x ∈ p.posts, x.1 ≠ n) (words : Nat) (d : Reg) :
    s.onceWaitFor k p n words d = s.putProc k { (p.produce d).endGroup with
      pc := p.pc + BitVec.ofNat 16 (4 * (words + 1)), onceCnt := n, onceWait := p.onceWait ++ [(n, d, p.nextTag d)] } := by
  have hfind : p.posts.find? (fun x => x.1 == n) = none := List.find?_eq_none.2 fun x hx => by simpa using hn x hx
  have hproc : (s.putProc k (p.produce d)).proc k = some (p.produce d) := by rw [proc_putProc, if_pos rfl]
  have hw : (p.produce d).onceWait = p.onceWait := (congrArg Proc.onceWait (produce_rest p d) :)
  unfold State.onceWaitFor
  rw [hfind, produce_plain hp (portOf_none h d) ho, modProc_eq hproc, putProc_putProc]
  simp only
  rw [modProc_eq (by rw [proc_putProc, if_pos rfl]), putProc_putProc, ← hw]
  rfl

/-- A word that ONCE may precede, or PFX (03 R53, R55). -/
def onceTakes (w : Nat) : Prop :=
  0x01 ≤ w / 2 ^ 26 ∧ w / 2 ^ 26 ≤ 0x0B ∨ w / 2 ^ 26 ∈ [0x10, 0x13, 0x23] ∨ w / 2 ^ 26 = 0x15 ∧ w / 2 ^ 5 % 32 = 0 ∨
    w / 2 ^ 26 = 0x1E ∧ w / 2 ^ 12 % 16 = 0 ∨ w / 2 ^ 16 = 0xF440

theorem onceTakes_iff (w : Nat) : onceTakes w ↔ (onceAllows w || isPfx w) = true := by
  rw [Bool.or_eq_true, onceAllows_iff, isPfx_iff, onceTakes]
  tauto

section
variable {s : State} {k : Nat} {p : Proc} (hs : s.Issues k p)
include hs

theorem execOnce_illegal (h : ¬ onceTakes (s.istoreWord p.core (p.wordPc + 4))) :
    exec .once s = .next (s.raiseAt k 0x01 (BitVec.ofNat 64 (s.istoreWord p.core (p.wordPc + 4))) p.pc) := by
  rw [onceTakes_iff, Bool.not_eq_true] at h
  refine (onCur_next hs _).trans ?_
  simp only [h, Bool.not_false, if_true, raise_eq hs.2, causeIllegal]

theorem execOnce_alone (h : onceTakes (s.istoreWord p.core (p.wordPc + 4))) (hg : p.gang = none) :
    exec .once s = .next { s.putProc k { p with onceOn := true } with group := some k } := by
  rw [onceTakes_iff] at h
  refine (onCur_next hs _).trans ?_
  simp only [h, hg, Bool.not_true, Bool.false_eq_true, if_false, Option.isNone_none, if_true]

variable {m n j : Nat} {g : Group} (hgang : p.gang = some m) (hgroup : s.group? p.gid = some g) (hn : (p.onceCnt + 1) % 256 = n)
  (helect : g.elected.find? (fun e => e.1 == n) = some (n, j))
include hgang hgroup hn helect

theorem execOnce_elected (h : onceTakes (s.istoreWord p.core (p.wordPc + 4))) (hj : j = p.name)
    (hposts : ∀ e ∈ s.gangMembers p.gid, e.2.name ≠ p.name → s.postsHeld p.gid e.2 < 4) :
    exec .once s = .next { s.putProc k { p with onceOn := true } with group := some k } := by
  rw [onceTakes_iff] at h
  have hroom : (s.gangMembers p.gid).any (fun e => e.2.name != p.name && decide (4 ≤ s.postsHeld p.gid e.2)) = false := by
    rw [List.any_eq_false]
    intro e he
    simpa using hposts e he
  refine (onCur_next hs _).trans ?_
  simp only [h, hgang, hn, elect_of_elected hgroup helect, hj, hroom, Bool.not_true, Bool.false_eq_true, if_false, Option.isNone_some, if_true]

theorem execOnce_passes (h : onceTakes (s.istoreWord p.core (p.wordPc + 4))) (hw : s.istoreWord p.core (p.wordPc + 4) / 2 ^ 26 ≤ 0x0B)
    (hpc : p.wordPc = p.pc) (hj : j ≠ p.name) (hout : wordDst (s.istoreWord p.core (p.wordPc + 4)) ≠ 0 →
      (p.cell (wordDst (s.istoreWord p.core (p.wordPc + 4)))).out < 3) :
    exec .once s = .next (s.onceWaitFor k p n 1 (wordDst (s.istoreWord p.core (p.wordPc + 4)))) := by
  rw [onceTakes_iff] at h
  rw [hpc] at h hw hout ⊢
  have hnot : isPfx (s.istoreWord p.core (p.pc + 4)) = false := by
    rw [Bool.eq_false_iff, ne_eq, isPfx_iff]
    omega
  have hmajor : s.istoreWord p.core (p.pc + 4) / 2 ^ 26 ≠ 0x3D := by omega
  have hfree : ¬ (wordDst (s.istoreWord p.core (p.pc + 4)) ≠ 0 ∧ 3 ≤ (p.cell (wordDst (s.istoreWord p.core (p.pc + 4)))).out) :=
    fun x => absurd (hout x.1) (by omega)
  refine (onCur_next hs _).trans ?_
  simp only [hpc, h, hgang, hn, elect_of_elected hgroup helect, onceTail_of_not_pfx hnot, if_neg hj, if_neg hmajor, if_neg hfree, Bool.not_true,
    Bool.false_eq_true, if_false, Option.isNone_some, zero_add]

end

/-- Settles O17: each arrangement of the words is one of the lemmas above. -/
theorem prefixWords : Obligations.PrefixWords := by
  intro s k p hs
  refine ⟨fun x => ?_, ?_⟩
  · by_cases h : pfxTakes p (s.istoreWord p.core (p.wordPc + 4))
    · exact (if_pos h).mpr (execPfx_joins hs x h)
    · exact (if_neg h).mpr (execPfx_illegal hs x h)
  intro w ok
  refine ⟨fun h hg => execOnce_alone hs h hg, fun h => execOnce_illegal hs h, ?_, ?_⟩
  · intro m n g h hgang hgroup hn helect hposts
    exact execOnce_elected hs hgang hgroup hn helect h rfl hposts
  · intro m n j g h hw hgang hgroup hn hpc helect hj hposts ho hports hout
    have e : exec .once s = .next (s.onceWaitFor k p n 1 (BitVec.ofNat 4 (w / 2 ^ 22))) :=
      execOnce_passes hs hgang hgroup hn helect h hw hpc hj hout
    rw [onceWaitFor_of_no_post hs.2 ho hports hposts] at e
    refine ⟨_, e, rfl, rfl, rfl, rfl, ?_⟩
    have hrest := produce_rest p (BitVec.ofNat 4 (w / 2 ^ 22))
    exact (congrArg (fun q : Proc => { q with
      pc := p.pc, onceCnt := p.onceCnt, onceWait := p.onceWait, pfx := p.pfx, onceOn := p.onceOn, hold := p.hold }) hrest :)

end Sys2Proof.Machine
end

section
/-! PROOFS. A step and the state in which an instruction issues (03 R49, 05 R100). -/

namespace Sys2Proof.Machine

/-- A process whose word nothing comes before executes the instruction of its word, or the row of a word that is none. -/
theorem issueWord_of_beforeIssue {s : State} {k : Nat} {p : Proc} (h : s.beforeIssue k p = none)
    (run : Instr → State → Host.Outcome State Fault Refusal) :
    s.issueWord k p run = run (s.fetch p) (s.issueFrom k (s.fetch p)) := by
  simp [State.issueWord, h]

/-- The decoder of bytes is kept opaque here: the kernel would otherwise evaluate it on the bytes that a process fetches. -/
theorem fetch_of_eq {f : List Byte → Option (Instr × List Byte)} (hf : decodeBytes = f) (s : State) (p : Proc) :
    (∀ i rest, f (s.fetchBytes p) = some (i, rest) → s.fetch p = i) ∧
    (f (s.fetchBytes p) = none → s.fetch p = .notAnInstruction (BitVec.ofNat 32 (s.fetchNat p))) := by
  have unfolded := Eq.refl State.fetch
  conv at unfolded => rhs; delta State.fetch
  rw [hf] at unfolded
  rw [unfolded]
  exact ⟨fun i rest h => by simp only [h], fun h => by simp only [h]⟩

theorem runWord_runs {s : State} {k : Nat} {p : Proc} (hp : s.proc k = some p) (h : s.beforeIssue k p = none) :
    (∀ i rest, decodeBytes (s.fetchBytes p) = some (i, rest) → runWord k s = exec i (s.issueFrom k i)) ∧
    (decodeBytes (s.fetchBytes p) = none → runWord k s = exec (.notAnInstruction (BitVec.ofNat 32 (s.fetchNat p)))
      (s.issueFrom k (.notAnInstruction (BitVec.ofNat 32 (s.fetchNat p))))) := by
  have hrun : runWord k s = exec (s.fetch p) (s.issueFrom k (s.fetch p)) := by
    simp [runWord, hp, issueWord_of_beforeIssue h]
  refine ⟨fun i rest hd => ?_, fun hd => ?_⟩
  · rw [hrun, (fetch_of_eq rfl s p).1 i rest hd]
  · rw [hrun, (fetch_of_eq rfl s p).2 hd]

theorem step_of_group {s : State} {k : Nat} (h : s.group = some k) : step s = runWord k s := by
  simp [step, h]

theorem step_of_pick {s : State} {c : Nat} {cs : List Nat} {slot k : Nat} (hg : s.group = none) (hd : s.dueEvent = none)
    (ht : s.turns = c :: cs) (hk : s.pick c = some (slot, k)) : step s = runWord k (({ s with turns := cs }).openGroup k) := by
  simp [step, hg, hd, ht, hk]

theorem step_of_due {s : State} {n : Nat} {e : Ev} {rest : List (Nat × Ev)} (hg : s.group = none) (ha : s.agenda = (n, e) :: rest)
    (hn : n ≤ s.cycle) (hb : s.heldBack e = false) : step s = exec e.toInstr { s with agenda := rest, cur := none } := by
  simp [step, hg, State.dueEvent, ha, hn, hb]

/-! ### The word that is fetched (03 R49) -/

theorem wordBytes_getD (w n : Nat) (h : n < 4) : ((wordBytes w).getD n 0).toNat = w / 2 ^ (8 * n) % 256 := by
  interval_cases n <;> simp [wordBytes]

theorem fetchNat_of_not_vact {s : State} {p : Proc} (h : p.vact = false) :
    s.fetchNat p = readLe s.mem (windowBase p.core + 0x120000 + p.wordPc.toNat) 4 := by
  simp [State.fetchNat, h, State.istoreWord]

theorem beforeIssue_eq_none_iff {s : State} {k : Nat} {p : Proc} (h : p.vact = false) :
    s.beforeIssue k p = none ↔ s.poisoned (windowBase p.core + 0x120000 + p.wordPc.toNat) 4 = false := by
  cases hp : s.poisoned (windowBase p.core + 0x120000 + p.wordPc.toNat) 4 <;>
    simp [State.beforeIssue, State.fetchPoisoned, Proc.strideOver, h, hp]

/-! ### The state in which an instruction executes (05 R100, R102) -/

/-- The unit of an instruction becomes busy: of the machine only cores change, and of its core no store. -/
theorem occupy_rest (s : State) (c : Nat) (i : Instr) : { s.occupy c i with cores := s.cores } = s := by
  unfold State.occupy
  split_ifs <;> rfl

theorem sb_occupy (s : State) (c : Nat) (i : Instr) : ((s.occupy c i).core c).sb = (s.core c).sb := by
  unfold State.occupy
  split_ifs <;> simp [State.modCore, State.putCore, State.core]

theorem isAmo_eq_false {name : Nat} {which : Access → Bool} {e : Ev} (h : ∀ x, e = .amoAtHome x → x.name ≠ name) :
    isAmo name which e = false := by
  unfold isAmo
  split
  · next x => simp [h x rfl]
  · rfl

/-- A release of a process that has nothing to release changes nothing (04 Table 4.7). -/
theorem releaseStores_of_settled {s : State} {k : Nat} {p : Proc} (hp : s.proc k = some p) (h : s.Settled p) : s.releaseStores k = s := by
  obtain ⟨hsb, hamo⟩ := h
  have hstores : (s.core p.core).sb.filter (fun e => e.name == p.name && !e.done && e.stuck.isNone) = [] := by
    rw [List.filter_eq_nil_iff]
    intro e he
    simp [hsb e he]
  have hno : ∀ e ∈ s.agenda, isAmo p.name (fun _ => true) e.2 = false := fun e he => isAmo_eq_false fun x hx =>
    hamo x ⟨e.1, hx ▸ he⟩
  have hpull : s.pullAmos p.name (fun _ => true) = s := by
    have h1 : s.agenda.filter (fun e => isAmo p.name (fun _ => true) e.2) = [] := by
      rw [List.filter_eq_nil_iff]
      intro e he
      simp [hno e he]
    have h2 : s.agenda.filter (fun e => !isAmo p.name (fun _ => true) e.2) = s.agenda :=
      List.filter_eq_self.2 fun e he => by simp [hno e he]
    simp [State.pullAmos, h1, h2]
  simp only [State.releaseStores, hp, hstores, List.foldl_nil, hpull]

/-- The state in which the slot of a process has started its interval and the unit of an instruction is busy. -/
def State.started (s : State) (p : Proc) (i : Instr) : State :=
  (s.modSlot p.slotKey (fun x => { x with next := s.cycle + reissue i })).occupy p.core i

theorem started_rest (s : State) (p : Proc) (i : Instr) : { s.started p i with cores := s.cores, slots := s.slots } = s :=
  (congrArg (fun t : State => { t with slots := s.slots }) (occupy_rest (s.modSlot p.slotKey _) p.core i) :)

theorem slot_started (s : State) (p : Proc) (i : Instr) : ((s.started p i).slot p.slotKey).next = s.cycle + reissue i := by
  have h := congrArg (fun t : State => (t.slot p.slotKey).next) (occupy_rest (s.modSlot p.slotKey (fun x => { x with next := s.cycle + reissue i })) p.core i)
  refine Eq.trans h ?_
  simp [State.modSlot, State.putSlot, State.slot]

theorem settled_started {s : State} {p : Proc} (h : s.Settled p) (i : Instr) : (s.started p i).Settled p := by
  obtain ⟨hsb, hamo⟩ := h
  have hagenda : (s.started p i).agenda = s.agenda := (congrArg State.agenda (started_rest s p i) :)
  refine ⟨fun y hy => hsb y ?_, fun x hx => hamo x ?_⟩
  · rwa [State.started, sb_occupy] at hy
  · rwa [State.Due, hagenda] at hx

/-- An urgent process uses a unit of its core's budget (06 R149). -/
def State.spend (s : State) (p : Proc) : State :=
  if p.urgent then
    let c := s.core p.core
    let v := s.putCore p.core { c with budget := c.budget - 1 }
    if c.budget = 1 then v.after 0 (.budgetExhausted p.core) else v
  else s

theorem spend_rest (s : State) (p : Proc) : { s.spend p with cores := s.cores, agenda := s.agenda } = s := by
  unfold State.spend
  simp only
  split_ifs <;> rfl

theorem issueFrom_of_settled {s : State} {k : Nat} {p : Proc} (hp : s.proc k = some p) (h : p.channelPort = true → s.Settled p) (i : Instr) :
    s.issueFrom k i = { (s.started p i).spend p with cur := some k, group := none } := by
  have hrel : (if p.channelPort then (s.started p i).releaseStores k else s.started p i) = s.started p i := by
    split
    · next hc =>
      have hproc : (s.started p i).proc k = some p := by
        rw [← hp]
        exact (congrArg (fun t : State => t.proc k) (started_rest s p i) :)
      exact releaseStores_of_settled hproc (settled_started (h hc) i)
    · rfl
  rw [State.started] at hrel
  simp only [State.issueFrom, hp, hrel]
  rfl

/-- What has changed when a settled process issues (05 R100, R102). -/
theorem issueFrom_spec {s : State} {k : Nat} {p : Proc} (hp : s.proc k = some p) (h : p.channelPort = true → s.Settled p) (i : Instr) :
    (s.issueFrom k i).Issues k p ∧
      { s.issueFrom k i with cur := s.cur, group := s.group, slots := s.slots, cores := s.cores, agenda := s.agenda } = s ∧
      ((s.issueFrom k i).slot p.slotKey).next = s.cycle + reissue i := by
  have hspend := spend_rest (s.started p i) p
  have hstart := started_rest s p i
  rw [issueFrom_of_settled hp h]
  refine ⟨⟨rfl, ?_⟩, ?_, ?_⟩
  · rw [← hp]
    exact (congrArg (fun t : State => t.proc k) hspend :).trans (congrArg (fun t : State => t.proc k) hstart :)
  · exact (congrArg (fun t : State => { t with
        cur := s.cur, group := s.group, slots := s.slots, cores := s.cores, agenda := s.agenda }) hspend :).trans
      (congrArg (fun t : State => { t with cur := s.cur, group := s.group, agenda := s.agenda }) hstart :)
  · exact (congrArg (fun t : State => (t.slot p.slotKey).next) hspend :).trans (slot_started s p i)

/-- Settles O4: a step is a word of the open group, of the core that selects, or the first event that is due. -/
theorem stepRunsDecodedWord : Obligations.StepRunsDecodedWord := by
  refine ⟨fun s k p hg hp h => ?_, fun s c cs slot k p hg hd ht hk => ?_, fun s k p i hp hv => ?_,
    fun s n e rest hg ha hn hb => step_of_due hg ha hn hb⟩
  · rw [step_of_group hg]
    exact runWord_runs hp h
  · intro t hp h
    rw [step_of_pick hg hd ht hk]
    exact runWord_runs hp h
  · refine ⟨fun n hn => ?_, beforeIssue_eq_none_iff hv, fun h => issueFrom_spec hp h i⟩
    rw [State.fetchBytes, wordBytes_getD _ n hn, fetchNat_of_not_vact hv]
    rfl

end Sys2Proof.Machine
end

section
/-! PROOFS. Every step keeps the memory in its canonical form (04 R69 to R74, log 1).

The memory changes in `State.writeMem`, `State.zeroBank` and `State.wipe` alone. What says so of a step goes up the calls of the model, one lemma
`<operation>_memOk` for each operation, in the order of the model's files: an `↔` for one that leaves the memory as it is, so that `simp` rewrites
through a chain of them, and an implication for one that may write. An operation that goes on with another one (`go`, `act`) takes what that keeps
as a hypothesis. -/

namespace Sys2Proof.Machine

variable {s : State}

/-! ### The form of the memory through records, choices and folds -/

@[simp] theorem wf_mem_iff : Memory.wf s.mem = true ↔ s.MemOk := Iff.rfl

@[simp] theorem memOk_mk_iff {cycle agenda turns cur group free mem ftags poison packages procs dir gens cores slots folds ltab launches
    nextLaunch groups supq heldNotes xwrs onceDue links frames quiet eps drovers disps tiles landings permxs nextPermx bundles pendLines
    prevLines shadows seqSent seqHeld flying pkgs} :
    (State.mk cycle agenda turns cur group free mem ftags poison packages procs dir gens cores slots folds ltab launches
      nextLaunch groups supq heldNotes xwrs onceDue links frames quiet eps drovers disps tiles landings permxs nextPermx bundles pendLines
      prevLines shadows seqSent seqHeld flying pkgs).MemOk ↔ Memory.wf mem = true := Iff.rfl

@[simp] theorem memOk_ite {c : Prop} [Decidable c] {t u : State} :
    (if c then t else u).MemOk ↔ if c then t.MemOk else u.MemOk := by split <;> rfl

@[simp] theorem memOk_foldl {α : Type*} {f : State → α → State} (h : s.MemOk) (hf : ∀ t x, t.MemOk → (f t x).MemOk) (l : List α) :
    (l.foldl f s).MemOk := by
  induction l generalizing s with
  | nil => exact h
  | cons x l ih => exact ih (hf s x h)

@[simp] theorem memOk_foldl_iff {α : Type*} {f : State → α → State} (hf : ∀ t x, (f t x).MemOk ↔ t.MemOk) (l : List α) :
    (l.foldl f s).MemOk ↔ s.MemOk := by
  induction l generalizing s with
  | nil => rfl
  | cons x l ih => rw [List.foldl_cons, ih, hf]

@[simp] theorem memOk_getD {o : Option State} (h : s.MemOk) (ho : ∀ t, o = some t → t.MemOk) : (o.getD s).MemOk := by
  cases o with
  | none => exact h
  | some t => exact ho t rfl

/-- The memory of a next state is in its canonical form. -/
def NextOk (o : Host.Outcome State Fault Refusal) : Prop := ∀ t, o = .next t → t.MemOk

@[simp] theorem nextOk_next : NextOk (.next s) ↔ s.MemOk := ⟨fun h => h s rfl, fun h t e => by cases e; exact h⟩

@[simp] theorem nextOk_onCur {f : Nat → Proc → State} :
    NextOk (onCur s f) ↔ ∀ k, s.cur = some k → ∀ p, s.proc k = some p → (f k p).MemOk := by
  unfold NextOk onCur
  cases hc : s.cur with
  | none => simp
  | some k => cases hp : s.proc k <;> simp [hp]

/-! ### Base -/

@[simp] theorem State.putProc_memOk (k : Nat) (p : Proc) : (s.putProc k p).MemOk ↔ s.MemOk := Iff.rfl

@[simp] theorem State.modProc_memOk (k : Nat) (f : Proc → Proc) : (s.modProc k f).MemOk ↔ s.MemOk := by
  unfold State.modProc
  split <;> simp

@[simp] theorem State.putCore_memOk (c : Nat) (x : CoreS) : (s.putCore c x).MemOk ↔ s.MemOk := Iff.rfl

@[simp] theorem State.modCore_memOk (c : Nat) (f : CoreS → CoreS) : (s.modCore c f).MemOk ↔ s.MemOk := Iff.rfl

@[simp] theorem State.putSlot_memOk (i : Nat) (x : SlotS) : (s.putSlot i x).MemOk ↔ s.MemOk := Iff.rfl

@[simp] theorem State.modSlot_memOk (i : Nat) (f : SlotS → SlotS) : (s.modSlot i f).MemOk ↔ s.MemOk := Iff.rfl

@[simp] theorem State.putFold_memOk (f : Nat) (x : FoldS) : (s.putFold f x).MemOk ↔ s.MemOk := Iff.rfl

@[simp] theorem State.modFold_memOk (f : Nat) (g : FoldS → FoldS) : (s.modFold f g).MemOk ↔ s.MemOk := Iff.rfl

@[simp] theorem State.putGroup_memOk (g : Nat) (x : Group) : (s.putGroup g x).MemOk ↔ s.MemOk := Iff.rfl

@[simp] theorem State.modGroup_memOk (g : Nat) (f : Group → Group) : (s.modGroup g f).MemOk ↔ s.MemOk := by
  unfold State.modGroup
  split <;> simp

@[simp] theorem State.modNamed_memOk (h : s.MemOk) (name : Nat) {f : Nat → Proc → State → State} (hf : ∀ x y t, t.MemOk → (f x y t).MemOk) :
    (s.modNamed name f).MemOk := by
  unfold State.modNamed
  split <;> simp [h, hf]

@[simp] theorem State.modNamed_memOk_iff (name : Nat) {f : Nat → Proc → State → State}
    (hf : ∀ k p t, (f k p t).MemOk ↔ t.MemOk) : (s.modNamed name f).MemOk ↔ s.MemOk := by
  unfold State.modNamed
  split
  · exact hf _ _ _
  · rfl

@[simp] theorem State.modLtab_memOk (p : Proc) (f : LaunchEntry → LaunchEntry) : (s.modLtab p f).MemOk ↔ s.MemOk := by
  unfold State.modLtab
  split <;> simp

@[simp] theorem State.after_memOk (n : Nat) (e : Ev) : (s.after n e).MemOk ↔ s.MemOk := Iff.rfl

@[simp] theorem State.atCycle_memOk (c : Nat) (e : Ev) : (s.atCycle c e).MemOk ↔ s.MemOk := Iff.rfl

@[simp] theorem State.useFree_memOk : (s.useFree).MemOk ↔ s.MemOk := Iff.rfl

@[simp] theorem State.modLink_memOk (pkg n : Nat) (f : Link → Link) : (s.modLink pkg n f).MemOk ↔ s.MemOk := Iff.rfl

@[simp] theorem State.putDrover_memOk (n : Nat) (x : Drover) : (s.putDrover n x).MemOk ↔ s.MemOk := Iff.rfl

@[simp] theorem State.enterDrover_memOk (n at_ size : Nat) : (s.enterDrover n at_ size).MemOk ↔ s.MemOk := Iff.rfl

@[simp] theorem State.bookAt_memOk (at_ pa size : Nat) : (s.bookAt at_ pa size).MemOk ↔ s.MemOk := by
  unfold State.bookAt
  split <;> simp

@[simp] theorem State.windowPort_memOk (pa : Nat) (e : Ev) : (s.windowPort pa e).1.MemOk ↔ s.MemOk := by
  unfold State.windowPort
  dsimp only
  (repeat' split) <;> simp

@[simp] theorem State.bookAfter_memOk (n core pa size : Nat) : (s.bookAfter n core pa size).MemOk ↔ s.MemOk := by simp [State.bookAfter]

@[simp] theorem State.book_memOk (core pa size : Nat) : (s.book core pa size).MemOk ↔ s.MemOk := by simp [State.book]

@[simp] theorem State.trips_memOk (h : s.MemOk) {α : Type} {f : State → α → State × Nat} (hf : ∀ t x, t.MemOk → (f t x).1.MemOk)
    (xs : List α) : (s.trips f xs).1.MemOk := by
  have go : ∀ (l : List α) (a : State × List Nat), a.1.MemOk →
      (l.foldl (fun acc x => ((f acc.1 x).1, acc.2 ++ [(f acc.1 x).2])) a).1.MemOk := by
    intro l
    induction l with
    | nil => exact fun a ha => ha
    | cons x l ih => exact fun a ha => ih _ (hf _ _ ha)
  exact go xs _ h

@[simp] theorem State.trips_memOk_iff {α : Type} {f : State → α → State × Nat} (hf : ∀ t x, (f t x).1.MemOk ↔ t.MemOk)
    (xs : List α) : (s.trips f xs).1.MemOk ↔ s.MemOk := by
  unfold State.trips
  have go : ∀ (l : List α) (a : State × List Nat),
      (l.foldl (fun acc x => ((f acc.1 x).1, acc.2 ++ [(f acc.1 x).2])) a).1.MemOk ↔ a.1.MemOk := by
    intro l
    induction l with
    | nil => exact fun a => Iff.rfl
    | cons x l ih => exact fun a => (ih _).trans (hf _ _)
  exact go xs _

@[simp] theorem State.writeMem_memOk (h : s.MemOk) (a : Nat) (bs : List Byte) : (s.writeMem a bs).MemOk := by simp [State.writeMem, h]

@[simp] theorem State.writeNum_memOk (h : s.MemOk) (a n v : Nat) : (s.writeNum a n v).MemOk := by simp [State.writeNum, h]

@[simp] theorem State.poisonAt_memOk (as : List Nat) : (s.poisonAt as).MemOk ↔ s.MemOk := Iff.rfl

@[simp] theorem State.toPen_memOk (p : Proc) : (s.toPen p).MemOk ↔ s.MemOk := Iff.rfl

@[simp] theorem State.outOfPens_memOk (p : Proc) : (s.outOfPens p).MemOk ↔ s.MemOk := Iff.rfl

@[simp] theorem State.awake_memOk (p : Proc) : (s.awake p).MemOk ↔ s.MemOk := Iff.rfl

@[simp] theorem State.ready_memOk (k : Nat) : (s.ready k).MemOk ↔ s.MemOk := by
  unfold State.ready
  (repeat' split) <;> simp

@[simp] theorem State.park_memOk (k : Nat) (w : Wait) : (s.park k w).MemOk ↔ s.MemOk := by simp [State.park]

@[simp] theorem State.setProbe_memOk (p : Proc) : (s.setProbe p).MemOk ↔ s.MemOk := by simp [State.setProbe]

@[simp] theorem State.armProbe_memOk (k : Nat) : (s.armProbe k).MemOk ↔ s.MemOk := by
  unfold State.armProbe
  split <;> simp

@[simp] theorem State.resetProbes_memOk (fold : Nat) : (s.resetProbes fold).MemOk ↔ s.MemOk := by simp [State.resetProbes]

@[simp] theorem State.enterBlocked_memOk (k : Nat) : (s.enterBlocked k).MemOk ↔ s.MemOk := by simp [State.enterBlocked]

@[simp] theorem State.block_memOk (k : Nat) (w : Wait) : (s.block k w).MemOk ↔ s.MemOk := by simp [State.block]

@[simp] theorem State.waitChan_memOk (k : Nat) (w : Wait) : (s.waitChan k w).MemOk ↔ s.MemOk := by
  unfold State.waitChan
  split <;> simp

@[simp] theorem State.waitReg_memOk (k : Nat) (r : Reg) : (s.waitReg k r).MemOk ↔ s.MemOk := by
  unfold State.waitReg
  split <;> simp

/-! ### Ends -/

@[simp] theorem State.putEp_memOk (k : Nat) (e : Ep) : (s.putEp k e).MemOk ↔ s.MemOk := Iff.rfl

@[simp] theorem State.modEp_memOk (k : Nat) (f : Ep → Ep) : (s.modEp k f).MemOk ↔ s.MemOk := by
  unfold State.modEp
  split <;> simp

theorem State.allotRing_memOk (h : s.MemOk) (fold : Nat) (t : Word) (key : Nat) : ∀ x, (s.allotRing fold t key) = some x → x.2.MemOk := by
  unfold State.allotRing
  dsimp only
  (repeat' split) <;> simp [h]

@[simp] theorem State.freeRing_memOk (fold q : Nat) : (s.freeRing fold q).MemOk ↔ s.MemOk := Iff.rfl

@[simp] theorem State.writeRing_memOk (h : s.MemOk) (fold q : Nat) (m : Msg) : (s.writeRing fold q m).MemOk := by
  unfold State.writeRing
  split <;> simp [h]

@[simp] theorem State.takeHead_memOk (h : s.MemOk) (k : Nat) (e : Ep) : (s.takeHead k e).MemOk := by
  unfold State.takeHead
  split <;> simp [h]

@[simp] theorem State.takeOffer_memOk (k : Nat) (e : Ep) (m : Msg) (matched : Nat) : (s.takeOffer k e m matched).MemOk ↔ s.MemOk := Iff.rfl

@[simp] theorem State.postStore_memOk (p : Proc) (va size : Nat) (data : Word) (batch : Nat) :
    (s.postStore p va size data batch).MemOk ↔ s.MemOk := Iff.rfl

/-! ### Ports -/

@[simp] theorem State.readAhead_memOk (k q lat : Nat) : (s.readAhead k q lat).MemOk ↔ s.MemOk := by
  unfold State.readAhead
  dsimp only
  (repeat' split) <;> simp

@[simp] theorem State.popPort_memOk (h : s.MemOk) (k q : Nat) : (s.popPort k q).MemOk := by
  unfold State.popPort
  dsimp only
  (repeat' split) <;> simp [h]

@[simp] theorem State.rawPush_memOk (k q : Nat) (v : Word) : (s.rawPush k q v).MemOk ↔ s.MemOk := by
  unfold State.rawPush
  dsimp only
  (repeat' split) <;> simp

@[simp] theorem State.pushPort_memOk (k q : Nat) (v : Word) : (s.pushPort k q v).MemOk ↔ s.MemOk := by
  unfold State.pushPort
  split <;> simp

/-! ### Ops -/

@[simp] theorem State.popAll_memOk (h : s.MemOk) (k : Nat) (p : Proc) (consume : BitVec 16) : (s.popAll k p consume).MemOk := by
  refine memOk_foldl h (fun t x ht => ?_) _
  simp [ht]

@[simp] theorem State.pushAll_memOk (k : Nat) (p : Proc) (ws : List (Reg × Word)) :
    (s.pushAll k p ws).MemOk ↔ s.MemOk := by simp [State.pushAll]

@[simp] theorem State.post_memOk (self : Proc) (n : Nat) (v : Word) : (s.post self n v).MemOk ↔ s.MemOk := by
  refine memOk_foldl_iff (fun t x => ?_) _
  (repeat' split) <;> simp

@[simp] theorem State.onceDone_memOk (k : Nat) (p : Proc) (ws : List (Reg × Word)) : (s.onceDone k p ws).MemOk ↔ s.MemOk := by
  unfold State.onceDone
  (repeat' split) <;> simp

@[simp] theorem State.offerXwr_memOk (k : Nat) : (s.offerXwr k).MemOk ↔ s.MemOk := by
  unfold State.offerXwr
  split <;> simp

@[simp] theorem State.retire_memOk (h : s.MemOk) (k : Nat) (consume : BitVec 16) (ws : List (Reg × Word)) :
    (s.retire k consume ws).MemOk := by
  unfold State.retire
  split <;> simp [h]

@[simp] theorem State.produceAs_memOk (k : Nat) (r : Reg) (tag : BitVec 2) : (s.produceAs k r tag).MemOk ↔ s.MemOk := by
  unfold State.produceAs
  split <;> simp

@[simp] theorem State.produce_memOk (k : Nat) (r : Reg) : (s.produce k r).MemOk ↔ s.MemOk := by
  unfold State.produce
  split <;> simp

@[simp] theorem State.queueNote_memOk (p : Proc) (way : Nat) : (s.queueNote p way).MemOk ↔ s.MemOk := Iff.rfl

@[simp] theorem State.deliverToSupervisor_memOk (k : Nat) (p : Proc) (cause : Nat) (eval : Word) (epc : BitVec 16) :
    (s.deliverToSupervisor k p cause eval epc).MemOk ↔ s.MemOk := Iff.rfl

@[simp] theorem State.raiseAt_memOk (k cause : Nat) (eval : Word) (epc : BitVec 16) : (s.raiseAt k cause eval epc).MemOk ↔ s.MemOk := by
  unfold State.raiseAt
  split <;> simp

@[simp] theorem State.raise_memOk (k cause : Nat) (eval : Word) : (s.raise k cause eval).MemOk ↔ s.MemOk := by
  unfold State.raise
  split <;> simp

@[simp] theorem State.raiseWord_memOk (k cause : Nat) : (s.raiseWord k cause).MemOk ↔ s.MemOk := by
  unfold State.raiseWord
  split <;> simp

@[simp] theorem State.illegal_memOk (k : Nat) : (s.illegal k).MemOk ↔ s.MemOk := by simp [State.illegal]

/-! ### Operands -/

@[simp] theorem State.issue_memOk (h : s.MemOk) (k : Nat) (p : Proc) (fs : List Field) (dsts : List Reg)
    {go : List Word → BitVec 16 → State} (hgo : ∀ x y, (go x y).MemOk) : (s.issue k p fs dsts go).MemOk := by
  unfold State.issue
  (repeat' split) <;> simp [h, hgo]

@[simp] theorem State.issueFill_memOk (h : s.MemOk) (k : Nat) (p : Proc) (fs : List Field) (d : Reg) {go : List Word → BitVec 16 → State}
    (hgo : ∀ x y, (go x y).MemOk) : (s.issueFill k p fs d go).MemOk := by simp [State.issueFill, h, hgo]

@[simp] theorem State.compute2_memOk (h : s.MemOk) (k : Nat) (p : Proc) (d : Reg) (a b : Src) (f : Word → Word → Word) :
    (s.compute2 k p d a b f).MemOk := by simp [State.compute2, h]

@[simp] theorem State.compute1_memOk (h : s.MemOk) (k : Nat) (p : Proc) (d : Reg) (a : Src) (f : Word → Word) :
    (s.compute1 k p d a f).MemOk := by simp [State.compute1, h]

@[simp] theorem State.retireTo_memOk (h : s.MemOk) (k : Nat) (consume : BitVec 16) (ws : List (Reg × Word)) (pc : BitVec 16) :
    (s.retireTo k consume ws pc).MemOk := by simp [State.retireTo, h]

@[simp] theorem State.jumpTo_memOk (h : s.MemOk) (k : Nat) (consume : BitVec 16) (ws : List (Reg × Word)) (t : Word) :
    (s.jumpTo k consume ws t).MemOk := by simp [State.jumpTo, h]

/-! ### Record -/

@[simp] theorem State.modPkg_memOk (n : Nat) (f : Pkg → Pkg) : (s.modPkg n f).MemOk ↔ s.MemOk := Iff.rfl

@[simp] theorem State.logEvent_memOk (pkg source kind detail : Nat) : (s.logEvent pkg source kind detail).MemOk ↔ s.MemOk := Iff.rfl

@[simp] theorem State.addLife_memOk (pkg ctr n : Nat) : (s.addLife pkg ctr n).MemOk ↔ s.MemOk := Iff.rfl

/-! ### Links -/

@[simp] theorem State.emitFlit_memOk (pkg n : Nat) (plane : Bool) (used : Nat) (payload : List Byte) :
    (s.emitFlit pkg n plane used payload).MemOk ↔ s.MemOk := by
  unfold State.emitFlit
  dsimp only
  (repeat' split) <;> simp

@[simp] theorem State.drainLink_memOk (pkg n fuel : Nat) : (s.drainLink pkg n fuel).MemOk ↔ s.MemOk := by
  induction fuel generalizing s with
  | zero => rfl
  | succ n ih =>
    unfold State.drainLink
    dsimp only
    (repeat' split) <;> simp [ih]

@[simp] theorem State.sendFlit_memOk (pkg n : Nat) (plane : Bool) (used : Nat) (payload : List Byte) :
    (s.sendFlit pkg n plane used payload).MemOk ↔ s.MemOk := by simp [State.sendFlit]

@[simp] theorem State.answerFlit_memOk (pkg n : Nat) (nak : Bool) : (s.answerFlit pkg n nak).MemOk ↔ s.MemOk := Iff.rfl

@[simp] theorem State.linkGoesDown_memOk (pkg n : Nat) : (s.linkGoesDown pkg n).MemOk ↔ s.MemOk := by simp [State.linkGoesDown]

@[simp] theorem State.applyAck_memOk (pkg n : Nat) (f : Flit) : (s.applyAck pkg n f).MemOk ↔ s.MemOk := by simp [State.applyAck]

@[simp] theorem flitArrival_memOk (link : Nat) (f : Flit) : (flitArrival link f s).MemOk ↔ s.MemOk := by
  unfold flitArrival
  dsimp only
  (repeat' split) <;> simp

@[simp] theorem linkAckTimeout_memOk (link : Nat) : (linkAckTimeout link s).MemOk ↔ s.MemOk := by simp [linkAckTimeout]

@[simp] theorem State.routeFlits_memOk (p q : Nat) (plane : Bool) : (s.routeFlits p q plane).MemOk ↔ s.MemOk := by simp [State.routeFlits]

@[simp] theorem State.nextPacket_memOk (a b : Nat) (plane : Bool) : (s.nextPacket a b plane).2.MemOk ↔ s.MemOk := Iff.rfl

@[simp] theorem State.sendAcross_memOk (x : Access) : (s.sendAcross x).MemOk ↔ s.MemOk := by simp [State.sendAcross]

@[simp] theorem State.deliverPacket_memOk (p : GPacket) : (s.deliverPacket p).MemOk ↔ s.MemOk := by
  unfold State.deliverPacket
  split <;> simp

@[simp] theorem State.sendPackets_memOk : (s.sendPackets).MemOk ↔ s.MemOk := by
  refine memOk_foldl_iff (fun t x => ?_) _
  split <;> simp

@[simp] theorem State.deliverHeld_memOk (a b : Nat) (plane : Bool) (next fuel : Nat) (held : List GPacket) :
    (s.deliverHeld a b plane next fuel held).MemOk ↔ s.MemOk := by
  induction fuel generalizing s next held with
  | zero => exact memOk_mk_iff
  | succ n ih =>
    unfold State.deliverHeld
    split
    · rw [ih]
      simp
    · exact memOk_mk_iff

@[simp] theorem gatewayPacketArrival_memOk (p : GPacket) : (gatewayPacketArrival p s).MemOk ↔ s.MemOk := by simp [gatewayPacketArrival]

/-! ### Csr -/

theorem State.coreCsrWrite_memOk (h : s.MemOk) (core n : Nat) (v : Word) : ∀ s', (s.coreCsrWrite core n v) = some s' → s'.MemOk := by
  unfold State.coreCsrWrite
  split <;> simp [h]

@[simp] theorem csrWindowWrite_memOk (h : s.MemOk) (core csr : Nat) (val : Word) : (csrWindowWrite core csr val s).MemOk := by
  unfold csrWindowWrite
  split
  · exact h
  · exact memOk_getD h (State.coreCsrWrite_memOk h _ _ _)

/-! ### Views -/

@[simp] theorem State.leaveRecord_memOk (h : s.MemOk) (p : Proc) : (s.leaveRecord p).MemOk := by
  refine memOk_foldl (memOk_foldl h (fun t i ht => memOk_writeNum ht _ _ _) _) (fun t i ht => ?_) _
  split
  · exact memOk_writeNum ht _ _ _
  · exact ht

@[simp] theorem slotRegisterWrite_memOk (core slot : Nat) (reg : Reg) (val : Word) :
    (slotRegisterWrite core slot reg val s).MemOk ↔ s.MemOk := by
  unfold slotRegisterWrite
  (repeat' split) <;> simp

theorem recordWrite_memOk (h : s.MemOk) (k i a : Nat) (w : Word) :
    (match s.proc k with
    | some p =>
      (match recordWrite p (s.inSlot p) i w with
       | some q => s.putProc k q
       | none => let t := (s.leaveRecord p).outOfPens p
                 { t with procs := tdel t.procs k }.writeNum a 8 w.toNat)
    | none => s).MemOk := by
  split
  · next p hp =>
    split
    · simpa using h
    · exact memOk_writeNum ((State.outOfPens_memOk p).2 (State.leaveRecord_memOk h p)) _ _ _
  · exact h
theorem epWrite_memOk (h : s.MemOk) (k i : Nat) (w : Word) :
    (match s.ep k with
    | some e =>
      (match epWrite e i w with
       | some x => s.putEp k x
       | none => { s with eps := tdel s.eps k })
    | none => s).MemOk := by
  (repeat' split) <;> simpa using h

@[simp] theorem State.putView_memOk (h : s.MemOk) (name c off : Nat) (w : Word) : (s.putView name c off w).MemOk := by
  unfold State.putView
  split
  · exact h
  · exact recordWrite_memOk h _ _ _ _
  · exact epWrite_memOk h _ _ _
  · simpa using h
  · extract_lets n
    clear_value n
    (repeat' split) <;> simpa using h
  · exact h

@[simp] theorem State.storePhys_memOk (h : s.MemOk) (_core name pa size v : Nat) : (s.storePhys _core name pa size v).MemOk := by
  unfold State.storePhys
  split <;> simp [h]

/-! ### Translate -/

@[simp] theorem State.lookup_memOk (k : Nat) (p : Proc) (va : Nat) (needR needW : Bool) :
    (s.lookup k p va needR needW).MemOk ↔ s.MemOk := by simp [State.lookup]

@[simp] theorem State.walkRead_memOk (x : Xlat) (lvl table : Nat) : (s.walkRead x lvl table).MemOk ↔ s.MemOk := by simp [State.walkRead]

/-! ### StorePath -/

@[simp] theorem State.modSb_memOk (core id : Nat) (f : SbEntry → SbEntry) : (s.modSb core id f).MemOk ↔ s.MemOk := Iff.rfl

@[simp] theorem State.dropSb_memOk (core id : Nat) : (s.dropSb core id).MemOk ↔ s.MemOk := Iff.rfl

@[simp] theorem State.atomic_memOk (h : s.MemOk) (x : Access) (op : Nat) (dbl : Bool) (b cmp : Word) :
    (s.atomic x op dbl b cmp).2.MemOk := by simp [State.atomic, h]

@[simp] theorem State.amoPerform_memOk (h : s.MemOk) (x : Access) (at_ : Nat) : (s.amoPerform x at_).MemOk := by
  unfold State.amoPerform
  split <;> simp [h]

@[simp] theorem State.pullAmos_memOk (h : s.MemOk) (name : Nat) (which : Access → Bool) : (s.pullAmos name which).MemOk := by
  unfold State.pullAmos
  refine memOk_foldl (by simpa using h) (fun t e ht => ?_) _
  split
  · exact State.amoPerform_memOk ht _ _
  · exact ht

@[simp] theorem State.settle_memOk (name : Nat) : (s.settle name).MemOk ↔ s.MemOk := by simp [State.settle]

@[simp] theorem State.storesChanged_memOk (name : Nat) : (s.storesChanged name).MemOk ↔ s.MemOk := by
  refine State.modNamed_memOk_iff _ fun k p t => ?_
  (repeat' split) <;> simp

@[simp] theorem State.stopStore_memOk (k : Nat) (p : Proc) (va : Nat) : (s.stopStore k p va).MemOk ↔ s.MemOk := by simp [State.stopStore]

@[simp] theorem State.endEngine_memOk (k : Nat) : (s.endEngine k).MemOk ↔ s.MemOk := by
  unfold State.endEngine
  split <;> simp

@[simp] theorem State.sfqWrite_memOk (core : Nat) (e : SbEntry) (cause : Nat) : (s.sfqWrite core e cause).MemOk ↔ s.MemOk := by
  unfold State.sfqWrite
  split <;> simp

@[simp] theorem State.settleBatch_memOk (core batch : Nat) : (s.settleBatch core batch).MemOk ↔ s.MemOk := by
  unfold State.settleBatch
  dsimp only
  (repeat' split) <;> simp

@[simp] theorem State.sfqRecord_memOk (core : Nat) (e : SbEntry) (cause : Nat) :
    (s.sfqRecord core e cause).MemOk ↔ s.MemOk := by simp [State.sfqRecord]

theorem State.stage_memOk (h : s.MemOk) (e : SbEntry) (pa : Nat) : ∀ s', (s.stage e pa) = some s' → s'.MemOk := by
  unfold State.stage
  (repeat' split) <;> simp [h]

@[simp] theorem State.performBytes_memOk (h : s.MemOk) (core : Nat) (e : SbEntry) (pa : Nat) : (s.performBytes core e pa).MemOk := by
  unfold State.performBytes
  rw [State.modSb_memOk]
  exact memOk_getD (State.storePhys_memOk h _ _ _ _ _) (State.stage_memOk h _ _)

@[simp] theorem State.performEarly_memOk (h : s.MemOk) (core : Nat) (e : SbEntry) : (s.performEarly core e).MemOk := by
  unfold State.performEarly
  split <;> simp [h]

@[simp] theorem State.performStore_memOk (h : s.MemOk) (core : Nat) (e : SbEntry) (pa : Nat) : (s.performStore core e pa).MemOk := by
  unfold State.performStore
  split
  · exact h
  · extract_lets older t u
    have ht : t.MemOk := State.pullAmos_memOk h _ _
    refine State.performBytes_memOk ?_ _ _ _
    unfold u
    split
    · exact memOk_foldl ht (fun v x hv => State.performEarly_memOk hv _ _) _
    · exact ht

@[simp] theorem State.peerFail_memOk (gid pkg : Nat) : (s.peerFail gid pkg).MemOk ↔ s.MemOk := by
  unfold State.peerFail
  (repeat' split) <;> simp

@[simp] theorem State.sendStore_memOk (h : s.MemOk) (core : Nat) (e : SbEntry) (pa : Nat) : (s.sendStore core e pa).MemOk := by
  unfold State.sendStore
  (repeat' split) <;> simp [h]

@[simp] theorem State.storeMapped_memOk (h : s.MemOk) (core : Nat) (e : SbEntry) (t : Tlb) :
    (s.storeMapped core e t).MemOk := by simp [State.storeMapped, h]

@[simp] theorem State.releaseStores_memOk (h : s.MemOk) (k : Nat) : (s.releaseStores k).MemOk := by
  unfold State.releaseStores
  split
  · exact h
  · exact memOk_foldl (State.pullAmos_memOk h _ _) (fun t e ht => State.performEarly_memOk ht _ _) _

@[simp] theorem storeTranslate_memOk (h : s.MemOk) (core id : Nat) : (storeTranslate core id s).MemOk := by
  unfold storeTranslate
  (repeat' split) <;> simp [h]

@[simp] theorem State.xlatFault_memOk (x : Xlat) : (s.xlatFault x).MemOk ↔ s.MemOk := by simp [State.xlatFault]

@[simp] theorem State.mapped_memOk (h : s.MemOk) (x : Xlat) (t : Tlb) : (s.mapped x t).MemOk := by
  unfold State.mapped
  (repeat' split) <;> simp [h]

@[simp] theorem translatorLookupDone_memOk (h : s.MemOk) (x : Xlat) : (translatorLookupDone x s).MemOk := by
  unfold translatorLookupDone
  dsimp only
  (repeat' split) <;> simp [h]

@[simp] theorem pageWalkRead_memOk (x : Xlat) (lvl : Nat) (entry : Word) : (pageWalkRead x lvl entry s).MemOk ↔ s.MemOk := by
  unfold pageWalkRead
  split <;> simp

@[simp] theorem pageWalkEnd_memOk (h : s.MemOk) (x : Xlat) (r : Option Tlb) : (pageWalkEnd x r s).MemOk := by
  unfold pageWalkEnd
  extract_lets f ws u
  have hu : u.MemOk := by simpa [u] using h
  split
  · exact memOk_foldl (by simpa using hu) (fun v w hv => State.mapped_memOk hv _ _) _
  · refine memOk_foldl hu (fun v w hv => ?_) _
    (repeat' split) <;> simp [hv]

@[simp] theorem storeAck_memOk (h : s.MemOk) (core id : Nat) : (storeAck core id s).MemOk := by
  unfold storeAck
  (repeat' split) <;> simp [h]

@[simp] theorem storeNak_memOk (core id cause : Nat) : (storeNak core id cause s).MemOk ↔ s.MemOk := by
  unfold storeNak
  split <;> simp

@[simp] theorem sfqCopy_memOk (name : Nat) : (sfqCopy name s).MemOk ↔ s.MemOk := by simp [sfqCopy]

/-! ### LoadStore -/

@[simp] theorem State.beforeRead_memOk (h : s.MemOk) (p : Proc) (pa size : Nat) :
    (s.beforeRead p pa size).MemOk := by simp [State.beforeRead, h]

@[simp] theorem State.complete_memOk (h : s.MemOk) (k : Nat) (ws : List (Reg × Word)) : (s.complete k ws).MemOk := by
  unfold State.complete
  (repeat' split) <;> simp [h]

@[simp] theorem State.sendLoad_memOk (k : Nat) (p : Proc) (d : Reg) (v : Word) (n : Nat) :
    (s.sendLoad k p d v n).MemOk ↔ s.MemOk := by simp [State.sendLoad]

@[simp] theorem State.awaitAnswer_memOk (k : Nat) (p : Proc) (d : Reg) (c : BitVec 16) :
    (s.awaitAnswer k p d c).MemOk ↔ s.MemOk := by simp [State.awaitAnswer]

@[simp] theorem State.flushPort_memOk (h : s.MemOk) (k q fuel : Nat) : (s.flushPort k q fuel).MemOk := by
  induction fuel generalizing s with
  | zero => exact h
  | succ n ih =>
    unfold State.flushPort
    dsimp only
    (repeat' split) <;> simp [h, ih]

@[simp] theorem State.fillReg_memOk (h : s.MemOk) (k : Nat) (p : Proc) (f : FillTo) (v : Word) : (s.fillReg k p f v).MemOk := by
  unfold State.fillReg
  dsimp only
  (repeat' split) <;> simp [h]

@[simp] theorem fill_memOk (h : s.MemOk) (f : FillTo) (v : Word) : (fill f v s).MemOk := by
  refine State.modNamed_memOk h _ fun k p t ht => ?_
  (repeat' split) <;> simp [ht]

@[simp] theorem State.completeFill_memOk (h : s.MemOk) (k : Nat) (v : Word) : (s.completeFill k v).MemOk := by
  unfold State.completeFill
  (repeat' split) <;> simp [h]

@[simp] theorem State.raiseAccess_memOk (k : Nat) (p : Proc) (pa : Nat) (f : Nat × Word) :
    (s.raiseAccess k p pa f).MemOk ↔ s.MemOk := by simp [State.raiseAccess]

@[simp] theorem State.sendHeld_memOk (p : Proc) (x : Access) : (s.sendHeld p x).MemOk ↔ s.MemOk := by simp [State.sendHeld]

@[simp] theorem State.loadAt_memOk (h : s.MemOk) (k : Nat) (p : Proc) (d : Reg) (c : BitVec 16) (pa va size : Nat) (signed : Bool) :
    (s.loadAt k p d c pa va size signed).MemOk := by
  unfold State.loadAt
  dsimp only
  (repeat' split) <;> simp [h]

@[simp] theorem State.withPage_memOk (h : s.MemOk) (k : Nat) (p : Proc) (va : Nat) (needR needW : Bool) {go : State → Nat → State}
    (hgo : ∀ t x, t.MemOk → (go t x).MemOk) : (s.withPage k p va needR needW go).MemOk := by
  unfold State.withPage
  (repeat' split) <;> simp [h, hgo]

@[simp] theorem execLd_memOk (h : s.MemOk) (d : Reg) (a : Src) (z : BitVec 3) (o : BitVec 13) : NextOk (execLd d a z o s) := by
  refine nextOk_onCur.2 fun k _ p _ => State.issueFill_memOk h _ _ _ _ fun vals c => ?_
  dsimp only
  split
  · simp [h]
  · exact State.withPage_memOk h _ _ _ _ _ fun t pa ht => State.loadAt_memOk ht _ _ _ _ _ _ _ _

@[simp] theorem execSt_memOk (h : s.MemOk) (d : Reg) (a : Src) (z : BitVec 3) (o : BitVec 13) :
    NextOk (execSt d a z o s) := by simp [execSt, h]

@[simp] theorem State.loadMany_memOk (h : s.MemOk) (k ea f i : Nat) (regs : List Nat) : (s.loadMany k ea f i regs).1.MemOk := by
  induction regs generalizing s i with
  | nil => exact h
  | cons n ns ih =>
    unfold State.loadMany
    dsimp only
    split
    · exact h
    · split
      · simpa using h
      · simpa using h
      · next p hp pa t ht =>
        cases t with
        | none => (repeat' split) <;> simp [h, ih]
        | some e => (repeat' split) <;> simp [h, ih]

@[simp] theorem State.storeMany_memOk (k ea f : Nat) (regs : List (Nat × Word)) : (s.storeMany k ea f regs).1.MemOk ↔ s.MemOk := by
  induction regs generalizing s with
  | nil => rfl
  | cons x ns ih =>
    unfold State.storeMany
    dsimp only
    (repeat' split) <;> simp [ih]

@[simp] theorem State.moveMany_memOk (h : s.MemOk) (k : Nat) (p : Proc) (a : Src) (o : BitVec 11) (all fs : List Field) (dsts : List Reg)
    {stop : Option State} (hstop : ∀ t, stop = some t → t.MemOk) {run : Nat → List Word → State × Bool} (hrun : ∀ x y, (run x y).1.MemOk) :
    (s.moveMany k p a o all fs dsts stop run).MemOk := by
  unfold State.moveMany
  split <;> simp [h, hstop, hrun]

@[simp] theorem execLdm_memOk (h : s.MemOk) (f : Reg) (a : Src) (l : Reg) (o : BitVec 11) :
    NextOk (execLdm f a l o s) := by simp [execLdm, h]

@[simp] theorem execStm_memOk (h : s.MemOk) (f : Reg) (a : Src) (l : Reg) (o : BitVec 11) :
    NextOk (execStm f a l o s) := by simp [execStm, h]

/-! ### Phases -/

@[simp] theorem State.releaseWaiters_memOk (h : s.MemOk) (gid phase : Nat) : (s.releaseWaiters gid phase).MemOk := by
  refine memOk_foldl h (fun t x ht => ?_) _
  (repeat' split) <;> simp [ht]

@[simp] theorem State.checkPhase_memOk (h : s.MemOk) (gid : Nat) : (s.checkPhase gid).MemOk := by
  unfold State.checkPhase
  split <;> simp [h]

@[simp] theorem State.countExpect_memOk (h : s.MemOk) (key : Nat) : (s.countExpect key).MemOk := by
  unfold State.countExpect
  (repeat' split) <;> simp [h]

/-! ### Channels -/

@[simp] theorem State.armDeadline_memOk (fold : Nat) (d : Deadline) : (s.armDeadline fold d).MemOk ↔ s.MemOk := by simp [State.armDeadline]

@[simp] theorem State.memOk_disarm (fold : Nat) (who : DlWho) : (s.disarm fold who).MemOk ↔ s.MemOk := by simp [State.disarm]

@[simp] theorem deadlineArm_memOk (fold : Nat) : (deadlineArm fold s).MemOk ↔ s.MemOk := by
  unfold deadlineArm
  split <;> simp

@[simp] theorem State.unwatch_memOk (p : Proc) (gs : List Guard) : (s.unwatch p gs).MemOk ↔ s.MemOk := by
  refine memOk_foldl_iff (fun t x => ?_) _
  split <;> simp

@[simp] theorem State.reserve_memOk (p : Proc) (g : Guard) : (s.reserve p g).MemOk ↔ s.MemOk := by
  unfold State.reserve
  dsimp only
  (repeat' split) <;> simp

@[simp] theorem State.altCheck_memOk (h : s.MemOk) (k : Nat) : (s.altCheck k).MemOk := by
  unfold State.altCheck
  (repeat' split) <;> simp [h]

@[simp] theorem State.wakeEnd_memOk (h : s.MemOk) (ke : Nat) : (s.wakeEnd ke).MemOk := by
  unfold State.wakeEnd
  split
  · exact h
  · refine State.modNamed_memOk h _ fun k p t ht => ?_
    dsimp only
    generalize hu : (List.range 4).foldl (fun u q => if (p.ports.toList.getD q {}).held.isEmpty then u else u.flushPort k q 4) t = u
    have flushed : u.MemOk := hu ▸ memOk_foldl ht (fun u q hu => by split <;> simp [hu]) _
    (repeat' split) <;> simp [flushed]

@[simp] theorem State.failWait_memOk (h : s.MemOk) (ke : Nat) : (s.failWait ke).MemOk := by
  unfold State.failWait
  split
  · exact h
  · refine State.modNamed_memOk h _ fun k p t ht => ?_
    (repeat' split) <;> simp [ht]

@[simp] theorem State.checkCwait_memOk (h : s.MemOk) (ke : Nat) : (s.checkCwait ke).MemOk := by
  unfold State.checkCwait
  split
  · exact h
  · refine State.modNamed_memOk h _ fun k p t ht => ?_
    (repeat' split) <;> simp [ht]

@[simp] theorem State.transferDone_memOk (h : s.MemOk) (ke id : Nat) (failed : Bool) : (s.transferDone ke id failed).MemOk := by
  unfold State.transferDone
  split
  · exact h
  split
  · exact h
  · extract_lets ids e1 t u
    have hu : u.MemOk := State.wakeEnd_memOk (State.checkCwait_memOk (State.countExpect_memOk (by simpa using h) _) _) _
    clear_value u
    (repeat' split) <;> simp [hu]

@[simp] theorem State.acked_memOk (h : s.MemOk) (ke : Nat) : (s.acked ke).MemOk := by
  unfold State.acked
  dsimp only
  (repeat' split) <;> simp [h]

@[simp] theorem State.endWait_memOk (ke : Nat) (e : Ep) : (s.endWait ke e).MemOk ↔ s.MemOk := by
  unfold State.endWait
  dsimp only
  (repeat' split) <;> simp

@[simp] theorem State.modTile_memOk (i : Nat) (f : Tile → Tile) : (s.modTile i f).MemOk ↔ s.MemOk := Iff.rfl

@[simp] theorem State.drainTile_memOk (m : Msg) : (s.drainTile m).MemOk ↔ s.MemOk := by
  unfold State.drainTile
  split <;> simp

@[simp] theorem State.take_memOk (ke owner : Nat) (x : Rx) (m : Msg) (at_ : Nat) (queued : Bool) :
    (s.take ke owner x m at_ queued).MemOk ↔ s.MemOk := by
  unfold State.take
  (repeat' split) <;> simp

@[simp] theorem State.refuseRx_memOk (ke : Nat) (e : Ep) (cause : Nat) : (s.refuseRx ke e cause).MemOk ↔ s.MemOk := by simp [State.refuseRx]

@[simp] theorem State.checkDying_memOk (h : s.MemOk) (ke : Nat) : (s.checkDying ke).MemOk := by
  unfold State.checkDying
  split <;> simp [h]

@[simp] theorem State.admitSignals_memOk (h : s.MemOk) (ke fuel : Nat) : (s.admitSignals ke fuel).MemOk := by
  induction fuel generalizing s with
  | zero => exact h
  | succ n ih =>
    unfold State.admitSignals
    (repeat' split) <;> simp [h, ih]

@[simp] theorem State.deliver_memOk (h : s.MemOk) (ke : Nat) : (s.deliver ke).MemOk := by
  unfold State.deliver
  dsimp only
  (repeat' split) <;> simp [h]

@[simp] theorem deadlineFire_memOk (h : s.MemOk) (fold : Nat) (d : Deadline) : (deadlineFire fold d s).MemOk := by
  unfold deadlineFire
  split
  · exact h
  · extract_lets t u
    have hu : u.MemOk := by
      unfold u
      split <;> simp [t, h]
    clear_value u
    split
    · simp [hu]
    · simp [hu]
    · exact State.modNamed_memOk hu _ fun k _ v hv => State.altCheck_memOk hv _

@[simp] theorem trecvExpiry_memOk (h : s.MemOk) (name : Nat) : (trecvExpiry name s).MemOk := by
  refine State.modNamed_memOk h _ fun k p t ht => ?_
  split
  · split
    · split
      · split
        · exact ht
        · extract_lets u v
          have hu : u.MemOk := by simpa [u] using ht
          have hv : v.MemOk := by simp [v, hu]
          clear_value v
          clear_value u
          split
          · simpa using hu
          split
          · split <;> simp [hv]
          · simp [hu]
      · exact ht
    · exact ht
  · exact ht

@[simp] theorem State.lostMessage_memOk (h : s.MemOk) (dst : EndLoc) (m : Msg) : (s.lostMessage dst m).MemOk := by
  unfold State.lostMessage
  (repeat' split) <;> simp [h]

@[simp] theorem State.inOrder_memOk {go : State} (h : s.MemOk) (hgo : go.MemOk) (m : Msg) (e : Ev) : (s.inOrder m e go).MemOk := by
  unfold State.inOrder
  split <;> simp [h, hgo]

@[simp] theorem offerArrival_memOk (h : s.MemOk) (dst : EndLoc) (m : Msg) : (offerArrival dst m s).MemOk := by
  unfold offerArrival
  split
  · exact h
  split
  · simp [h]
  split
  · exact h
  split
  · simp [h]
  · refine State.inOrder_memOk h ?_ _ _
    (repeat' split) <;> simp [h]

@[simp] theorem offerResend_memOk (dst : EndLoc) (m : Msg) : (offerResend dst m s).MemOk ↔ s.MemOk := by simp [offerResend]

@[simp] theorem receiveAnnounce_memOk (h : s.MemOk) (dst : EndLoc) : (receiveAnnounce dst s).MemOk := by
  unfold receiveAnnounce
  split <;> simp [h]

@[simp] theorem State.enqueueMsg_memOk (h : s.MemOk) (dst : EndLoc) (m : Msg) : (s.enqueueMsg dst m).MemOk := by
  unfold State.enqueueMsg
  split
  · exact h
  split
  · simp [h]
  split
  · exact h
  split
  · simp [h]
  · refine State.inOrder_memOk h ?_ _ _
    extract_lets ke w t
    have hw : w.MemOk := by
      unfold w
      split <;> simp [h]
    have ht : t.MemOk := by
      unfold t
      split <;> simp [hw]
    split <;> simp [hw, ht]

@[simp] theorem State.sendOut_memOk (e : Ep) (m : Msg) : (s.sendOut e m).MemOk ↔ s.MemOk := by
  unfold State.sendOut
  (repeat' split) <;> simp

@[simp] theorem State.sendQueued_memOk (ke : Nat) : (s.sendQueued ke).MemOk ↔ s.MemOk := by
  unfold State.sendQueued
  (repeat' split) <;> simp

@[simp] theorem State.sendIn_memOk (ke : Nat) (bs : List Byte) : (s.sendIn ke bs).MemOk ↔ s.MemOk := by
  unfold State.sendIn
  split <;> simp

@[simp] theorem creditReturn_memOk (h : s.MemOk) (dst : EndLoc) : (creditReturn dst s).MemOk := by
  unfold creditReturn
  (repeat' split) <;> simp [h]

@[simp] theorem wakeup_memOk (h : s.MemOk) (dst : EndLoc) : (wakeup dst s).MemOk := by
  unfold wakeup
  split <;> simp [h]

@[simp] theorem sendAck_memOk (h : s.MemOk) (m : Msg) (peer : EndLoc) : (sendAck m peer s).MemOk := by
  unfold sendAck
  extract_lets t t1
  have ht : t.MemOk := by
    unfold t
    split
    · dsimp only
      split
      · simp [h]
      · split <;> simp [h]
    · exact h
  have h1 : t1.MemOk := by
    unfold t1
    split <;> simp [ht]
  clear_value t1
  split
  · exact h1
  · refine State.modNamed_memOk h1 _ fun k p v hv => ?_
    split
    · split
      · refine State.complete_memOk ?_ _ _
        split <;> simp [hv]
      · exact hv
    · split <;> simp [hv]
    · exact hv

@[simp] theorem State.writeRows_memOk (h : s.MemOk) (a step rowBytes n : Nat) (bs : List Byte) :
    (s.writeRows a step rowBytes n bs).MemOk := by
  induction n generalizing s a bs with
  | zero => exact h
  | succ m ih => exact ih (memOk_writeMem h _ _) _ _

@[simp] theorem transferDataWritten_memOk (h : s.MemOk) (x : Xfer) : (transferDataWritten x s).MemOk := by
  unfold transferDataWritten
  extract_lets bs base t u tail
  have ht : t.MemOk := by
    refine (State.poisonAt_memOk _).2 ?_
    split <;> simp [h]
  have hu : u.MemOk := by
    unfold u
    split <;> simp [ht]
  refine State.modNamed_memOk hu _ fun _ p v hv => ?_
  split <;> simp [hv]

@[simp] theorem State.endReserve_memOk (ke : Nat) (e : Ep) : (s.endReserve ke e).MemOk ↔ s.MemOk := by
  unfold State.endReserve
  dsimp only
  (repeat' split) <;> simp

@[simp] theorem State.withEnd_memOk (h : s.MemOk) (k : Nat) (p : Proc) (h_ : Word) (recv : Bool) (kinds : List Nat)
    {go : State → Nat → Ep → State} (hgo : ∀ t x y, t.MemOk → (go t x y).MemOk) : (s.withEnd k p h_ recv kinds go).MemOk := by
  unfold State.withEnd
  (repeat' split) <;> simp [h, hgo]

@[simp] theorem State.holdOn_memOk (k ke : Nat) (e : Ep) (h_ : Hold) : (s.holdOn k ke e h_).MemOk ↔ s.MemOk := by simp [State.holdOn]

@[simp] theorem State.holdFill_memOk (k : Nat) (p : Proc) (ke : Nat) (e : Ep) (c : BitVec 16) (d : Reg) (arg arg2 : Nat) :
    (s.holdFill k p ke e c d arg arg2).MemOk ↔ s.MemOk := by simp [State.holdFill]

theorem State.sendBody_memOk (h : s.MemOk) (p : Proc) (ke : Nat) (e : Ep) (body : Body) (tid tile : Option Nat) (hurt : List Nat) :
    ∀ s', (s.sendBody p ke e body tid tile hurt) = some s' → s'.MemOk := by
  unfold State.sendBody
  split <;> simp [h]

@[simp] theorem State.sendWait_memOk (h : s.MemOk) (k : Nat) (p : Proc) (ke : Nat) (e : Ep) (c : BitVec 16) (body : Body) (tile : Option Nat)
    (hurt : List Nat) : (s.sendWait k p ke e c body tile hurt).MemOk := by
  unfold State.sendWait
  split
  · next t ht => simpa using State.sendBody_memOk (State.releaseStores_memOk h k) _ _ _ _ _ _ _ t ht
  · simp [h]

@[simp] theorem execSend_memOk (h : s.MemOk) (a b : Src) : NextOk (execSend a b s) := by
  refine nextOk_onCur.2 fun k _ p _ => State.issue_memOk h _ _ _ _ fun vals c => State.withEnd_memOk h _ _ _ _ _ fun t ke e ht => ?_
  simp [ht]

@[simp] theorem State.receive_memOk (h : s.MemOk) (k : Nat) (p : Proc) (ke : Nat) (e : Ep) (c : BitVec 16) (x : Rx) (fills : Bool) :
    (s.receive k p ke e c x fills).MemOk := by
  unfold State.receive
  dsimp only
  (repeat' split) <;> simp [h]

@[simp] theorem execRecv_memOk (h : s.MemOk) (d : Reg) (a : Src) : NextOk (execRecv d a s) := by
  refine nextOk_onCur.2 fun k _ p _ => State.issueFill_memOk h _ _ _ _ fun vals c => State.withEnd_memOk h _ _ _ _ _ fun t ke e ht => ?_
  simp [ht]

@[simp] theorem execTrecv_memOk (h : s.MemOk) (d : Reg) (a b : Src) (tb : BitVec 1) : NextOk (execTrecv d a b tb s) := by
  refine nextOk_onCur.2 fun k _ p _ => State.issueFill_memOk h _ _ _ _ fun vals c => State.withEnd_memOk h _ _ _ _ _ fun t ke e ht => ?_
  dsimp only
  (repeat' split) <;> simp [ht]

@[simp] theorem State.withBlock_memOk {go : State} (h : s.MemOk) (hgo : go.MemOk) (k : Nat) (p : Proc) (w : Word) :
    (s.withBlock k p w go).MemOk := by simp [State.withBlock, h, hgo]

@[simp] theorem State.withTileArea_memOk (h : s.MemOk) (k : Nat) (p : Proc) (e : Ep) (ent : Bool) (w : Word) {go : TileArea → State}
    (hgo : ∀ x, (go x).MemOk) : (s.withTileArea k p e ent w go).MemOk := by simp [State.withTileArea, h, hgo]

@[simp] theorem State.withSend_memOk (h : s.MemOk) (k : Nat) (p : Proc) (ke : Nat) (e : Ep) (w : Word) {go : State → Body → List Nat → State}
    (hgo : ∀ t x y, t.MemOk → (go t x y).MemOk) : (s.withSend k p ke e w go).MemOk := by simp [State.withSend, h, hgo]

@[simp] theorem execSendb_memOk (h : s.MemOk) (a b : Src) : NextOk (execSendb a b s) := by
  refine nextOk_onCur.2 fun k _ p _ => State.issue_memOk h _ _ _ _ fun vals c => State.withEnd_memOk h _ _ _ _ _ fun t ke e ht => ?_
  exact State.withSend_memOk ht _ _ _ _ _ fun u body hurt hu => State.sendWait_memOk hu _ _ _ _ _ _ _ _

@[simp] theorem execRecvb_memOk (h : s.MemOk) (d : Reg) (a b : Src) : NextOk (execRecvb d a b s) := by
  refine nextOk_onCur.2 fun k _ p _ => State.issueFill_memOk h _ _ _ _ fun vals c => State.withEnd_memOk h _ _ _ _ _ fun t ke e ht => ?_
  simp [ht]

@[simp] theorem execSendt_memOk (h : s.MemOk) (a b : Src) (ent : BitVec 1) : NextOk (execSendt a b ent s) := by
  refine nextOk_onCur.2 fun k _ p _ => State.issue_memOk h _ _ _ _ fun vals c => State.withEnd_memOk h _ _ _ _ _ fun t ke e ht => ?_
  exact State.withTileArea_memOk ht _ _ _ _ _ fun y => State.sendWait_memOk (State.releaseStores_memOk ht k) _ _ _ _ _ _ _ _

@[simp] theorem execRecvt_memOk (h : s.MemOk) (a b : Src) (ent : BitVec 1) : NextOk (execRecvt a b ent s) := by
  refine nextOk_onCur.2 fun k _ p _ => State.issue_memOk h _ _ _ _ fun vals c => State.withEnd_memOk h _ _ _ _ _ fun t ke e ht => ?_
  simp [ht]

@[simp] theorem execSenda_memOk (h : s.MemOk) (d : Reg) (a b : Src) : NextOk (execSenda d a b s) := by
  refine nextOk_onCur.2 fun k _ p _ => State.issue_memOk h _ _ _ _ fun vals c => State.withEnd_memOk h _ _ _ _ _ fun t ke e ht => ?_
  refine State.withSend_memOk ht _ _ _ _ _ fun u body hurt hu => ?_
  split
  · simp [hu]
  · extract_lets id e1 m v
    have hv : v.MemOk := by
      unfold v
      split
      · next v hv => exact State.sendBody_memOk hu _ _ _ _ _ _ _ v hv
      · simp [hu]
    simp [hv]

/-! ### Moves -/

@[simp] theorem execChnew_memOk (h : s.MemOk) (d : Reg) (a : Src) : NextOk (execChnew d a s) := by
  refine nextOk_onCur.2 fun k _ p _ => State.issue_memOk h _ _ _ _ fun vals c => ?_
  dsimp only
  split
  · simp [h]
  split
  · simp [h]
  split
  · simp [h]
  · simp [h]
  split
  · simp [h]
  split
  · simp [h]
  · next q u hq =>
    have hu : u.MemOk := by
      split at hq
      · exact State.allotRing_memOk h _ _ _ _ hq
      · cases hq
        exact h
    simp [hu]

@[simp] theorem State.closeServer_memOk (ke : Nat) (e : Ep) : (s.closeServer ke e).MemOk ↔ s.MemOk := by
  unfold State.closeServer
  split <;> simp

@[simp] theorem State.deleteEnd_memOk (ke fuel : Nat) : (s.deleteEnd ke fuel).MemOk ↔ s.MemOk := by
  induction fuel generalizing s ke with
  | zero => rfl
  | succ n ih =>
    unfold State.deleteEnd
    dsimp only
    split
    · rfl
    · refine (memOk_foldl_iff (fun u l => ?_) _).trans ?_
      · (repeat' split) <;> simp [ih]
      · (repeat' split) <;> simp

@[simp] theorem execChdel_memOk (h : s.MemOk) (a : Src) : NextOk (execChdel a s) := by
  refine nextOk_onCur.2 fun k _ p _ => State.issue_memOk h _ _ _ _ fun vals c => ?_
  dsimp only
  (repeat' split) <;> simp [h]

@[simp] theorem State.failSendas_memOk (h : s.MemOk) (ke : Nat) : (s.failSendas ke).MemOk := by
  unfold State.failSendas
  split
  · exact memOk_foldl (by simpa using h) (fun t i ht => State.transferDone_memOk ht _ _ _) _
  · exact h

@[simp] theorem State.loseSends_memOk (h : s.MemOk) (ke : Nat) : (s.loseSends ke).MemOk := by
  unfold State.loseSends
  split
  · exact h
  · extract_lets acks lost waiting t u
    have ht : t.MemOk := State.failSendas_memOk (by simpa using h) _
    have hu : u.MemOk := by
      refine memOk_foldl ht (fun v l hv => ?_) _
      (repeat' split) <;> simp [hv]
    split
    · exact hu
    · exact State.modNamed_memOk hu _ fun k p v hv => (State.putProc_memOk _ _).2 hv

@[simp] theorem State.killEnd_memOk (h : s.MemOk) (ke : Nat) : (s.killEnd ke).MemOk := by
  unfold State.killEnd
  dsimp only
  (repeat' split) <;> simp [h]

@[simp] theorem peerDeleted_memOk (h : s.MemOk) (dst : EndLoc) : (peerDeleted dst s).MemOk := by
  unfold peerDeleted
  split <;> simp [h]

@[simp] theorem chbindMove_memOk (v : EndMove) : (chbindMove v s).MemOk ↔ s.MemOk := by
  unfold chbindMove
  split <;> simp

@[simp] theorem State.moveExpects_memOk (a b : Nat) : (s.moveExpects a b).MemOk ↔ s.MemOk := Iff.rfl

@[simp] theorem State.moveSubs_memOk (a b : Nat) : (s.moveSubs a b).MemOk ↔ s.MemOk := by simp [State.moveSubs]

@[simp] theorem State.failQueuePorts_memOk (e : Ep) : (s.failQueuePorts e).MemOk ↔ s.MemOk := by
  unfold State.failQueuePorts
  dsimp only
  (repeat' split) <;> simp

@[simp] theorem State.placeEnd_memOk (h : s.MemOk) (a b owner : Nat) (handle : Nat) (q : Option Nat) : (s.placeEnd a b owner handle q).MemOk := by
  unfold State.placeEnd
  split
  · exact h
  · extract_lets loc dead e1 t f u t1 t2 t3 t4 t5
    have ht : t.MemOk := by simpa [t] using h
    have hu : u.MemOk := by
      unfold u
      split <;> simp [f, ht]
    have h1 : t1.MemOk := by
      unfold t1
      split
      · split
        · exact memOk_foldl hu (fun v m hv => State.writeRing_memOk hv _ _ _) _
        · exact hu
      · exact ht
    have h3 : t3.MemOk := by
      unfold t3
      split <;> simp [t2, h1]
    simpa [t5, t4] using h3

@[simp] theorem endpointInstall_memOk (h : s.MemOk) (v : EndMove) : (endpointInstall v s).MemOk := by
  unfold endpointInstall
  split
  · exact h
  split
  · exact h
  split
  · split
    · simpa using h
    · extract_lets hd code back
      split
      · simpa using h
      split
      · simpa using h
      · dsimp only
        split
        · simpa using h
        · next q t hq =>
          have ht : t.MemOk := by
            split at hq
            · obtain ⟨r, hr, e⟩ := Option.map_eq_some_iff.1 hq
              cases e
              exact State.allotRing_memOk h _ _ _ _ hr
            · cases hq
              exact h
          generalize hu : State.deliver _ _ = u
          have hu : u.MemOk := hu ▸ State.deliver_memOk ((State.after_memOk _ _).2 (State.placeEnd_memOk ht _ _ _ _ _)) _
          have admitted (w : State) (b : Nat) (hw : w.MemOk) : ((w.admitSignals b 64).checkDying b).MemOk :=
            State.checkDying_memOk (State.admitSignals_memOk hw _ _) _
          (repeat' split) <;> simp [hu, admitted]
  · simpa using h

@[simp] theorem State.reopenEnd_memOk (h : s.MemOk) (ke : Nat) : (s.reopenEnd ke).MemOk := by
  unfold State.reopenEnd
  split
  · exact h
  · dsimp only
    split
    · exact State.checkDying_memOk (State.deliver_memOk (State.admitSignals_memOk (by simpa using h) _ _) _) _
    · simp [h]

@[simp] theorem chbindAck_memOk (h : s.MemOk) (v : EndMove) (code : Nat) : (chbindAck v code s).MemOk := by
  unfold chbindAck
  (repeat' split) <;> simp [h]

@[simp] theorem State.droversLearn_memOk (loc : EndLoc) : (s.droversLearn loc).MemOk ↔ s.MemOk := Iff.rfl

@[simp] theorem locationUpdate_memOk (key : Nat) (loc : EndLoc) : (locationUpdate key loc s).MemOk ↔ s.MemOk := by
  unfold locationUpdate
  (repeat' split) <;> simp

@[simp] theorem forwardExpiry_memOk (key : Nat) : (forwardExpiry key s).MemOk ↔ s.MemOk := by
  unfold forwardExpiry
  split <;> simp

@[simp] theorem State.startMove_memOk (p : Proc) (ke : Nat) (e : Ep) (dest : FillTo) (owner : Nat) (handle : Nat) :
    (s.startMove p ke e dest owner handle).MemOk ↔ s.MemOk := by simp [State.startMove]

@[simp] theorem State.lookBind_memOk (q : Look) (p : Proc) : (s.lookBind q p).1.MemOk ↔ s.MemOk := by
  unfold State.lookBind
  (repeat' split) <;> simp

@[simp] theorem State.bindAnswer_memOk (q : Look) (_w : Word) : (s.bindAnswer q _w).MemOk ↔ s.MemOk := by
  unfold State.bindAnswer
  split <;> simp

@[simp] theorem execChbind_memOk (h : s.MemOk) (d : Reg) (a b : Src) : NextOk (execChbind d a b s) := by
  refine nextOk_onCur.2 fun k _ p _ => State.issueFill_memOk h _ _ _ _ fun vals c => ?_
  dsimp only
  (repeat' split) <;> simp [h]

@[simp] theorem execSendh_memOk (h : s.MemOk) (a b : Src) : NextOk (execSendh a b s) := by
  refine nextOk_onCur.2 fun k _ p _ => State.issue_memOk h _ _ _ _ fun vals c => ?_
  dsimp only
  split
  · simpa using h
  refine State.withEnd_memOk h _ _ _ _ _ fun t ke e ht => ?_
  split
  · simpa using ht
  split
  · simpa using ht
  · next kp y hy =>
    have hu := State.releaseStores_memOk ((State.endReserve_memOk kp y).2 ht) k
    rw [State.holdOn_memOk]
    exact memOk_getD (by simpa using hu) (State.sendBody_memOk (by simpa using hu) _ _ _ _ _ _ _)

@[simp] theorem State.endOwn_memOk (p : Proc) (h_ : Nat) : (s.endOwn p h_).MemOk ↔ s.MemOk := by
  unfold State.endOwn
  split <;> simp

@[simp] theorem execChqry_memOk (h : s.MemOk) (d : Reg) (a : Src) : NextOk (execChqry d a s) := by simp [execChqry, h]

@[simp] theorem execChpoll_memOk (h : s.MemOk) (d : Reg) (a : Src) : NextOk (execChpoll d a s) := by simp [execChpoll, h]

@[simp] theorem State.unreserve_memOk (e : Ep) : (s.unreserve e).MemOk ↔ s.MemOk := by
  unfold State.unreserve
  split <;> simp

@[simp] theorem State.withdrawWait_memOk (h : s.MemOk) (p : Proc) : (s.withdrawWait p).MemOk := by
  unfold State.withdrawWait
  extract_lets mine stop bodies left t
  have ht : t.MemOk := h
  split
  · extract_lets u u'
    have hu : u.MemOk := by
      unfold u
      split <;> simp [ht]
    have hu' : u'.MemOk := by
      refine memOk_foldl hu (fun v b hv => ?_) _
      (repeat' split) <;> simp [hv]
    simpa using hu'
  · split <;> simp [h]
  · exact h

@[simp] theorem State.rebindEnds_memOk (p : Proc) : (s.rebindEnds p).MemOk ↔ s.MemOk := by simp [State.rebindEnds]

@[simp] theorem State.reopenEnds_memOk (h : s.MemOk) (p : Proc) : (s.reopenEnds p).MemOk := by
  refine memOk_foldl h (fun t x ht => ?_) _
  simp [ht]

theorem State.moveEnds_memOk (h : s.MemOk) (p : Proc) (core : Nat) : ∀ s', (s.moveEnds p core) = some s' → s'.MemOk := by
  refine List.foldlRecOn (motive := fun o : Option State => ∀ s', o = some s' → s'.MemOk) _ _ ?_ fun o ho x _ => ?_
  · rintro _ ⟨⟩
    exact h
  · split
    · simp
    · next t =>
      have ht := ho t rfl
      split
      · simp
      · dsimp only
        split
        · simp
        · next q u hq =>
          have hu : u.MemOk := by
            split at hq
            · obtain ⟨r, hr, e⟩ := Option.map_eq_some_iff.1 hq
              cases e
              exact State.allotRing_memOk ht _ _ _ _ hr
            · cases hq
              exact ht
          rintro _ ⟨⟩
          rw [State.modEp_memOk]
          split <;> simp [hu]

@[simp] theorem State.deleteEnds_memOk (h : s.MemOk) (p : Proc) : (s.deleteEnds p).MemOk := by simp [State.deleteEnds, h]

/-! ### Alt -/

@[simp] theorem State.endReserves_memOk (p : Proc) (gs : List Guard) : (s.endReserves p gs).MemOk ↔ s.MemOk := by
  refine memOk_foldl_iff (fun t x => ?_) _
  (repeat' split) <;> simp

@[simp] theorem State.watch_memOk (p : Proc) (gs : List Guard) : (s.watch p gs).MemOk ↔ s.MemOk := by
  refine memOk_foldl_iff (fun t x => ?_) _
  (repeat' split) <;> simp

@[simp] theorem execAlt_memOk (h : s.MemOk) (d : Reg) (a b : Src) (f : BitVec 1) : NextOk (execAlt d a b f s) := by
  refine nextOk_onCur.2 fun k _ p _ => State.issue_memOk h _ _ _ _ fun vals c => ?_
  extract_lets x y count off t ws gs last u v
  have ht : t.MemOk := State.releaseStores_memOk h k
  have hu : u.MemOk := by simp [u, ht]
  have hv : v.MemOk := by simp [v, hu]
  (repeat' split) <;> simp [h, ht, hu, hv]

/-! ### Atomics -/

@[simp] theorem amoAtHome_memOk (h : s.MemOk) (x : Access) : (amoAtHome x s).MemOk := by simp [amoAtHome, h]

@[simp] theorem State.answerFault_memOk (x : Access) (f : Nat × Word) : (s.answerFault x f).MemOk ↔ s.MemOk := by simp [State.answerFault]

@[simp] theorem State.answerValue_memOk (h : s.MemOk) (x : Access) (reg : Reg) (tag : BitVec 2) (v : Word) :
    (s.answerValue x reg tag v).MemOk := by
  refine State.modNamed_memOk h _ fun k p t ht => ?_
  simp [ht]

@[simp] theorem remoteAccessArrival_memOk (h : s.MemOk) (x : Access) : (remoteAccessArrival x s).MemOk := by
  unfold remoteAccessArrival
  dsimp only
  (repeat' split) <;> simp [h]

@[simp] theorem linkLostTimeout_memOk (x : Access) : (linkLostTimeout x s).MemOk ↔ s.MemOk := by
  unfold linkLostTimeout
  (repeat' split) <;> simp

@[simp] theorem State.amo_memOk (h : s.MemOk) (k : Nat) (p : Proc) (op : Nat) (d : Reg) (a b : Src) (w acq rel : BitVec 1) :
    (s.amo k p op d a b w acq rel).MemOk := by
  refine State.issueFill_memOk h _ _ _ _ fun vals c => ?_
  dsimp only
  split
  · simpa using h
  split
  · simpa using h
  refine State.withPage_memOk h _ _ _ _ _ fun t pa ht => ?_
  (repeat' split) <;> simp [ht]

@[simp] theorem execAmoAdd_memOk (h : s.MemOk) (d : Reg) (a b : Src) (w x y : BitVec 1) :
    NextOk (execAmoAdd d a b w x y s) := by simp [execAmoAdd, h]

@[simp] theorem execAmoAnd_memOk (h : s.MemOk) (d : Reg) (a b : Src) (w x y : BitVec 1) :
    NextOk (execAmoAnd d a b w x y s) := by simp [execAmoAnd, h]

@[simp] theorem execAmoOr_memOk (h : s.MemOk) (d : Reg) (a b : Src) (w x y : BitVec 1) :
    NextOk (execAmoOr d a b w x y s) := by simp [execAmoOr, h]

@[simp] theorem execAmoXor_memOk (h : s.MemOk) (d : Reg) (a b : Src) (w x y : BitVec 1) :
    NextOk (execAmoXor d a b w x y s) := by simp [execAmoXor, h]

@[simp] theorem execAmoMin_memOk (h : s.MemOk) (d : Reg) (a b : Src) (w x y : BitVec 1) :
    NextOk (execAmoMin d a b w x y s) := by simp [execAmoMin, h]

@[simp] theorem execAmoMax_memOk (h : s.MemOk) (d : Reg) (a b : Src) (w x y : BitVec 1) :
    NextOk (execAmoMax d a b w x y s) := by simp [execAmoMax, h]

@[simp] theorem execAmoMinu_memOk (h : s.MemOk) (d : Reg) (a b : Src) (w x y : BitVec 1) :
    NextOk (execAmoMinu d a b w x y s) := by simp [execAmoMinu, h]

@[simp] theorem execAmoMaxu_memOk (h : s.MemOk) (d : Reg) (a b : Src) (w x y : BitVec 1) :
    NextOk (execAmoMaxu d a b w x y s) := by simp [execAmoMaxu, h]

@[simp] theorem execAmoSwp_memOk (h : s.MemOk) (d : Reg) (a b : Src) (w x y : BitVec 1) :
    NextOk (execAmoSwp d a b w x y s) := by simp [execAmoSwp, h]

@[simp] theorem execAmoCas_memOk (h : s.MemOk) (d : Reg) (a b : Src) (w x y : BitVec 1) :
    NextOk (execAmoCas d a b w x y s) := by simp [execAmoCas, h]

@[simp] theorem execAmoFadd_memOk (h : s.MemOk) (d : Reg) (a b : Src) (w x y : BitVec 1) :
    NextOk (execAmoFadd d a b w x y s) := by simp [execAmoFadd, h]

@[simp] theorem execFence_memOk (h : s.MemOk) (d : Reg) (sc : BitVec 3) (kd : BitVec 2) :
    NextOk (execFence d sc kd s) := by simp [execFence, h]

@[simp] theorem execDrainS_memOk (h : s.MemOk) : NextOk (execDrainS s) := by simp [execDrainS, h]

@[simp] theorem execIsync_memOk (h : s.MemOk) : NextOk (execIsync s) := by simp [execIsync, h]

/-! ### Branch -/

@[simp] theorem State.branch1_memOk (h : s.MemOk) (k : Nat) (p : Proc) (a : Src) (o : BitVec 17) (cond : Word → Bool) :
    (s.branch1 k p a o cond).MemOk := by simp [State.branch1, h]

@[simp] theorem State.branch2_memOk (h : s.MemOk) (k : Nat) (p : Proc) (a b : Src) (o : BitVec 11) (cond : Word → Word → Bool) :
    (s.branch2 k p a b o cond).MemOk := by simp [State.branch2, h]

@[simp] theorem execBeqz_memOk (h : s.MemOk) (a : Src) (o : BitVec 17) : NextOk (execBeqz a o s) := by simp [execBeqz, h]

@[simp] theorem execBnez_memOk (h : s.MemOk) (a : Src) (o : BitVec 17) : NextOk (execBnez a o s) := by simp [execBnez, h]

@[simp] theorem execBltz_memOk (h : s.MemOk) (a : Src) (o : BitVec 17) : NextOk (execBltz a o s) := by simp [execBltz, h]

@[simp] theorem execBgez_memOk (h : s.MemOk) (a : Src) (o : BitVec 17) : NextOk (execBgez a o s) := by simp [execBgez, h]

@[simp] theorem execBgtz_memOk (h : s.MemOk) (a : Src) (o : BitVec 17) : NextOk (execBgtz a o s) := by simp [execBgtz, h]

@[simp] theorem execBlez_memOk (h : s.MemOk) (a : Src) (o : BitVec 17) : NextOk (execBlez a o s) := by simp [execBlez, h]

@[simp] theorem execBeq_memOk (h : s.MemOk) (a b : Src) (o : BitVec 11) : NextOk (execBeq a b o s) := by simp [execBeq, h]

@[simp] theorem execBne_memOk (h : s.MemOk) (a b : Src) (o : BitVec 11) : NextOk (execBne a b o s) := by simp [execBne, h]

@[simp] theorem execBlt_memOk (h : s.MemOk) (a b : Src) (o : BitVec 11) : NextOk (execBlt a b o s) := by simp [execBlt, h]

@[simp] theorem execBge_memOk (h : s.MemOk) (a b : Src) (o : BitVec 11) : NextOk (execBge a b o s) := by simp [execBge, h]

@[simp] theorem execBltu_memOk (h : s.MemOk) (a b : Src) (o : BitVec 11) : NextOk (execBltu a b o s) := by simp [execBltu, h]

@[simp] theorem execBgeu_memOk (h : s.MemOk) (a b : Src) (o : BitVec 11) : NextOk (execBgeu a b o s) := by simp [execBgeu, h]

@[simp] theorem execJ_memOk (h : s.MemOk) (o : BitVec 25) : NextOk (execJ o s) := by simp [execJ, h]

@[simp] theorem execJal_memOk (h : s.MemOk) (o : BitVec 25) : NextOk (execJal o s) := by simp [execJal, h]

@[simp] theorem execJr_memOk (h : s.MemOk) (a : Src) : NextOk (execJr a s) := by simp [execJr, h]

@[simp] theorem execJalr_memOk (h : s.MemOk) (d : Reg) (a : Src) : NextOk (execJalr d a s) := by simp [execJalr, h]

@[simp] theorem execLoop_memOk (h : s.MemOk) (a : Src) (o : BitVec 17) : NextOk (execLoop a o s) := by simp [execLoop, h]

/-! ### Copies -/

theorem State.engineWrite_memOk (h : s.MemOk) (a : Agent) (name va : Nat) (bs : List Byte) :
    ∀ s', (s.engineWrite a name va bs) = some s' → s'.MemOk := by
  unfold State.engineWrite
  extract_lets ps
  split
  · rintro _ ⟨⟩
    refine memOk_foldl h (fun t x ht => ?_) _
    split <;> simp [ht]
  · simp

@[simp] theorem State.engineTaint_memOk (a : Agent) (va : Nat) (hurt : List Nat) : (s.engineTaint a va hurt).MemOk ↔ s.MemOk := Iff.rfl

theorem State.copyElement_memOk (h : s.MemOk) (a : Agent) (name : Nat) (ws : List Word) (n : Nat) :
    ∀ s', (s.copyElement a name ws n) = some s' → s'.MemOk := by
  unfold State.copyElement
  extract_lets src dst
  split
  · simp only [Option.map_eq_some_iff]
    rintro _ ⟨t, ht, rfl⟩
    simpa using State.engineWrite_memOk h _ _ _ _ t ht
  · simp

@[simp] theorem State.copyFrom_memOk (h : s.MemOk) (a : Agent) (name : Nat) (ws : List Word) (fuel n : Nat) :
    (s.copyFrom a name ws fuel n).1.MemOk := by
  induction fuel generalizing s n with
  | zero => exact h
  | succ m ih =>
    unfold State.copyFrom
    split
    · next t ht => exact ih (State.copyElement_memOk h _ _ _ _ t ht) _
    · exact h

@[simp] theorem State.brokenElement_memOk (h : s.MemOk) (a : Agent) (name : Nat) (ws : List Word) (any : Bool) (n : Nat) :
    (s.brokenElement a name ws any n).MemOk := by
  refine memOk_foldl h (fun t x ht => ?_) _
  split <;> simp [ht]

@[simp] theorem State.runCopy_memOk (h : s.MemOk) (a : Agent) (name : Nat) (ws : List Word) : (s.runCopy a name ws).1.MemOk := by
  unfold State.runCopy
  extract_lets total
  have ht := State.copyFrom_memOk h a name ws total 0
  split
  · next t ht' => rwa [ht'] at ht
  · exact memOk_foldl (State.copyFrom_memOk h _ _ _ _ _) (fun u i hu => State.brokenElement_memOk hu _ _ _ _ _) _

@[simp] theorem State.cancelCopy_memOk (h : s.MemOk) (a : Agent) (name : Nat) (ws : List Word) : (s.cancelCopy a name ws).MemOk := by
  refine memOk_foldl h (fun t x ht => ?_) _
  simp [ht]

@[simp] theorem State.bookStream_memOk (core : Nat) (a : Agent) (st : Stream) (size : Nat) : (s.bookStream core a st size).MemOk ↔ s.MemOk := by
  unfold State.bookStream
  dsimp only
  (repeat' split) <;> simp

@[simp] theorem State.bookCopy_memOk (core : Nat) (ws : List Word) (a : Agent) :
    (s.bookCopy core ws a).MemOk ↔ s.MemOk := by simp [State.bookCopy]

@[simp] theorem State.beginTransfer_memOk (p : Proc) (ke : Nat) (e : Ep) (job : Job) (n : Nat) :
    (s.beginTransfer p ke e job n).MemOk ↔ s.MemOk := Iff.rfl

@[simp] theorem State.withHeld_memOk (h : s.MemOk) (k : Nat) (p : Proc) (h_ : Word) {go : Nat → Ep → State} (hgo : ∀ x y, (go x y).MemOk) :
    (s.withHeld k p h_ go).MemOk := by
  unfold State.withHeld
  (repeat' split) <;> simp [h, hgo]

@[simp] theorem execCopy_memOk (h : s.MemOk) (d : Reg) (a b : Src) : NextOk (execCopy d a b s) := by
  refine nextOk_onCur.2 fun k _ p _ => State.issue_memOk h _ _ _ _ fun vals c => State.withHeld_memOk h _ _ _ fun ke e => ?_
  simp [h]

@[simp] theorem State.copyLost_memOk (h : s.MemOk) (a : Agent) (name : Nat) (ws : List Word) : (s.copyLost a name ws).MemOk := by
  unfold State.copyLost
  (repeat' split) <;> simp [h]

@[simp] theorem State.completeCopy_memOk (h : s.MemOk) (x : Transfer) (ws : List Word) (asid root level gid : Nat) :
    (s.completeCopy x ws asid root level gid).MemOk := by
  have hr := State.runCopy_memOk (State.copyLost_memOk h ⟨x.core, gid, level, asid, root⟩ x.owner ws)
    ⟨x.core, gid, level, asid, root⟩ x.owner ws
  unfold State.completeCopy
  generalize State.runCopy _ _ _ _ = r at *
  split
  · (repeat' split) <;> simp [hr]

@[simp] theorem execCwait_memOk (h : s.MemOk) (d : Reg) (a b : Src) : NextOk (execCwait d a b s) := by
  refine nextOk_onCur.2 fun k _ p _ => State.issueFill_memOk h _ _ _ _ fun vals c => ?_
  simp [h]

@[simp] theorem execGexp_memOk (h : s.MemOk) (a b : Src) : NextOk (execGexp a b s) := by
  refine nextOk_onCur.2 fun k _ p _ => State.issue_memOk h _ _ _ _ fun vals c => ?_
  dsimp only
  (repeat' split) <;> simp [h]

@[simp] theorem State.withPort_memOk (h : s.MemOk) (k : Nat) (p : Proc) (d : Reg) {go : Nat → State} (hgo : ∀ x, (go x).MemOk) :
    (s.withPort k p d go).MemOk := by simp [State.withPort, h, hgo]

@[simp] theorem execBindq_memOk (h : s.MemOk) (d : Reg) (b : Src) : NextOk (execBindq d b s) := by
  refine nextOk_onCur.2 fun k _ p _ => State.issue_memOk h _ _ _ _ fun vals c => ?_
  dsimp only
  (repeat' split) <;> simp [h]

@[simp] theorem execUnbq_memOk (h : s.MemOk) (d : Reg) : NextOk (execUnbq d s) := by simp [execUnbq, h]

@[simp] theorem execStrm_memOk (h : s.MemOk) (d : Reg) (b : Src) : NextOk (execStrm d b s) := by
  refine nextOk_onCur.2 fun k _ p _ => State.issue_memOk h _ _ _ _ fun vals c => State.withPort_memOk h _ _ _ fun q => ?_
  dsimp only
  (repeat' split) <;> simp [h]

@[simp] theorem streamElement_memOk (name port : Nat) : (streamElement name port s).MemOk ↔ s.MemOk := by
  refine State.modNamed_memOk_iff _ fun k p t => ?_
  extract_lets x
  split
  · extract_lets va el u
    have hu : u.MemOk ↔ t.MemOk := by simp [u]
    clear_value u
    split
    · split <;> simp [hu]
    · exact hu
  · rfl

@[simp] theorem State.restartStreams_memOk (k : Nat) : (s.restartStreams k).MemOk ↔ s.MemOk := by
  unfold State.restartStreams
  split
  · rfl
  · refine (memOk_foldl_iff (fun u q => ?_) _).trans (by simp)
    split
    · extract_lets x
      split
      · split <;> simp
      · rfl
    · rfl

@[simp] theorem execSubs_memOk (h : s.MemOk) (d : Reg) (a b : Src) : NextOk (execSubs d a b s) := by
  refine nextOk_onCur.2 fun k _ p _ => State.issueFill_memOk h _ _ _ _ fun vals c => ?_
  dsimp only
  (repeat' split) <;> simp [h]

@[simp] theorem execUnsub_memOk (h : s.MemOk) (d : Reg) (a : Src) : NextOk (execUnsub d a s) := by
  refine nextOk_onCur.2 fun k _ p _ => State.issueFill_memOk h _ _ _ _ fun vals c => ?_
  dsimp only
  (repeat' split) <;> simp [h]

@[simp] theorem joinRecorded_memOk (h : s.MemOk) (dest : FillTo) (core tag key : Nat) (join : Bool) :
    (joinRecorded dest core tag key join s).MemOk := by simp [joinRecorded, h]

@[simp] theorem execMcast_memOk (h : s.MemOk) (a b : Src) : NextOk (execMcast a b s) := by
  refine nextOk_onCur.2 fun k _ p _ => State.issue_memOk h _ _ _ _ fun vals c => ?_
  dsimp only
  split
  · simpa using h
  · refine State.withBlock_memOk h (State.retire_memOk (memOk_foldl (State.releaseStores_memOk h k) (fun u key hu => ?_) _) _ _ _) _ _ _
    simpa using hu

@[simp] theorem mcastDelivery_memOk (h : s.MemOk) (key : Nat) (m : Msg) : (mcastDelivery key m s).MemOk := by
  unfold mcastDelivery
  split
  · exact h
  · simp [h]
  · split
    · exact h
    split
    · simp [h]
    split
    · simp [h]
    · refine State.deliver_memOk (State.countExpect_memOk ((State.putEp_memOk _ _).2 ?_) _) _
      split <;> simp [h]

/-! ### Bundles -/

@[simp] theorem State.putWord_memOk (h : s.MemOk) (pa : Nat) (w : Word) : (s.putWord pa w).MemOk := by simp [State.putWord, h]

@[simp] theorem State.putBundle_memOk (name : Nat) (b : Bundle) : (s.putBundle name b).MemOk ↔ s.MemOk := Iff.rfl

@[simp] theorem State.dropBundle_memOk (name : Nat) : (s.dropBundle name).MemOk ↔ s.MemOk := Iff.rfl

@[simp] theorem execBopen_memOk (h : s.MemOk) (d : Reg) (a b : Src) : NextOk (execBopen d a b s) := by
  refine nextOk_onCur.2 fun k _ p _ => State.issueFill_memOk h _ _ _ _ fun vals c => ?_
  dsimp only
  split
  · simp [h]
  split
  · simp [h]
  split
  · split <;> simp [h]
  · refine State.withPage_memOk h _ _ _ _ _ fun t pa ht => ?_
    have hr := State.releaseStores_memOk ht k
    (repeat' split) <;> simp [ht, hr]

@[simp] theorem execBstat_memOk (h : s.MemOk) (d : Reg) : NextOk (execBstat d s) := by simp [execBstat, h]

@[simp] theorem execBview_memOk (h : s.MemOk) (d : Reg) (a : Src) : NextOk (execBview d a s) := by
  refine nextOk_onCur.2 fun k _ p _ => State.issueFill_memOk h _ _ _ _ fun vals c => ?_
  dsimp only
  split
  · simp [h]
  · refine State.withPage_memOk h _ _ _ _ _ fun t pa ht => ?_
    split <;> simp [ht]

@[simp] theorem execBclose_memOk (h : s.MemOk) (d : Reg) : NextOk (execBclose d s) := by
  refine nextOk_onCur.2 fun k _ p _ => State.issueFill_memOk h _ _ _ _ fun vals c => ?_
  split <;> simp [h]

@[simp] theorem State.answerHome_memOk (writer slot phase : Nat) (b : Bundle) (pa : Nat) (ok : Bool) :
    (s.answerHome writer slot phase b pa ok).MemOk ↔ s.MemOk := Iff.rfl

theorem State.evictLine_memOk (h : s.MemOk) (d : Nat) (shadowOf : Nat → Option Nat) : ∀ s', (s.evictLine d shadowOf) = some s' → s'.MemOk := by
  unfold State.evictLine
  (repeat' split) <;> simp [h]

@[simp] theorem bundlePrepare_memOk (h : s.MemOk) (writer slot : Nat) : (bundlePrepare writer slot s).MemOk := by
  unfold bundlePrepare
  split
  · exact h
  split
  · exact h
  split
  · simpa using h
  split
  · simpa using h
  split
  · simpa using h
  · next t ht =>
    have ht : t.MemOk := State.evictLine_memOk h _ _ t ht
    simp [ht]

@[simp] theorem State.abortLine_memOk (h : s.MemOk) (l : Nat × Nat) : (s.abortLine l).MemOk := by simp [State.abortLine, h]

@[simp] theorem bundlePhase2_memOk (h : s.MemOk) (writer slot : Nat) : (bundlePhase2 writer slot s).MemOk := by
  unfold bundlePhase2
  split
  · exact h
  split
  · exact h
  split
  · simpa using h
  split
  · simpa using h
  · refine (State.answerHome_memOk _ _ _ _ _ _).2 (memOk_mk_iff.2 ?_)
    exact State.putWord_memOk (State.putWord_memOk (State.writeMem_memOk h _ _) _ _) _ _

@[simp] theorem State.endBundle_memOk (writer : Nat) (b : Bundle) (w : Word) : (s.endBundle writer b w).MemOk ↔ s.MemOk := by
  unfold State.endBundle
  split <;> simp

@[simp] theorem State.phaseOver_memOk (h : s.MemOk) (writer : Nat) (b : Bundle) : (s.phaseOver writer b).MemOk := by
  unfold State.phaseOver
  extract_lets free t
  have freed (v : Nat) {t : State} (ht : t.MemOk) : (free v t).MemOk := by simp [free, ht]
  have ht : t.MemOk := by
    refine memOk_foldl h (fun u k hu => ?_) _
    split <;> simp [hu]
  clear_value free t
  split
  · split
    · simp [freed, ht]
    · exact memOk_foldl ((State.putBundle_memOk _ _).2 h) (fun u l hu => (State.after_memOk _ _).2 hu) _
  · split <;> simp [freed, h]

@[simp] theorem bundleAck_memOk (h : s.MemOk) (writer slot phase : Nat) (ok : Bool) : (bundleAck writer slot phase ok s).MemOk := by
  unfold bundleAck
  split <;> simp [h]

@[simp] theorem State.discardBundle_memOk (h : s.MemOk) (name : Nat) : (s.discardBundle name).MemOk := by
  unfold State.discardBundle
  split <;> simp [h]

@[simp] theorem State.bld_memOk (h : s.MemOk) (k : Nat) (p : Proc) (d : Reg) (a b : Src) (r : Bool) : (s.bld k p d a b r).MemOk := by
  refine State.issue_memOk h _ _ _ _ fun vals c => ?_
  dsimp only
  split
  · simp [h]
  split
  · simp [h]
  split
  · simp [h]
  split
  · simp [h]
  · refine State.withPage_memOk h _ _ _ _ _ fun t pa ht => ?_
    (repeat' split) <;> simp [ht]

@[simp] theorem execBld_memOk (h : s.MemOk) (d : Reg) (a b : Src) : NextOk (execBld d a b s) := by simp [execBld, h]

@[simp] theorem execBldR_memOk (h : s.MemOk) (d : Reg) (a b : Src) : NextOk (execBldR d a b s) := by simp [execBldR, h]

@[simp] theorem bldAtHome_memOk (h : s.MemOk) (r : BldReq) : (bldAtHome r s).MemOk := by
  unfold bldAtHome
  split
  · exact fill_memOk (fill_memOk h _ _) _ _
  · exact fill_memOk (fill_memOk h _ _) _ _
  · refine State.modNamed_memOk h _ fun k p t ht => ?_
    (repeat' split) <;> simp [ht]

/-! ### Mailbox -/

@[simp] theorem execXwr_memOk (h : s.MemOk) (d : Reg) (a b : Src) : NextOk (execXwr d a b s) := by simp [execXwr, h]

@[simp] theorem State.refuseXwr_memOk (x : Xwr) : (s.refuseXwr x).MemOk ↔ s.MemOk := by simp [State.refuseXwr]

@[simp] theorem State.landXwr_memOk (h : s.MemOk) (x : Xwr) (k : Nat) (p : Proc) : (s.landXwr x k p).MemOk := by
  unfold State.landXwr
  extract_lets t u
  have hu : u.MemOk := by
    unfold u
    split <;> simp [t, h]
  refine State.modNamed_memOk hu _ fun k q v hv => ?_
  split <;> simp [hv]

@[simp] theorem xwrDelivery_memOk (h : s.MemOk) (x : Xwr) : (xwrDelivery x s).MemOk := by
  unfold xwrDelivery
  split <;> simp [h]

@[simp] theorem xwrWrite_memOk (h : s.MemOk) (x : Xwr) : (xwrWrite x s).MemOk := by
  unfold xwrWrite
  (repeat' split) <;> simp [h]

@[simp] theorem State.refuseWaiting_memOk (core slot : Nat) : (s.refuseWaiting core slot).MemOk ↔ s.MemOk := by simp [State.refuseWaiting]

@[simp] theorem execSlb_memOk (h : s.MemOk) (d : Reg) : NextOk (execSlb d s) := by
  refine nextOk_onCur.2 fun k _ p _ => ?_
  split <;> simp [h]

@[simp] theorem State.returnSlot_memOk (k : Nat) : (s.returnSlot k).MemOk ↔ s.MemOk := by
  unfold State.returnSlot
  (repeat' split) <;> simp

@[simp] theorem execSlr_memOk (h : s.MemOk) : NextOk (execSlr s) := by simp [execSlr, h]

@[simp] theorem execMxf_memOk (h : s.MemOk) (d n : Reg) : NextOk (execMxf d n s) := by
  refine nextOk_onCur.2 fun k _ p _ => ?_
  split <;> simp [h]

@[simp] theorem execMxt_memOk (h : s.MemOk) (n : Reg) (a : Src) : NextOk (execMxt n a s) := by
  refine nextOk_onCur.2 fun k _ p _ => ?_
  split <;> simp [h]

@[simp] theorem execEmpty_memOk (h : s.MemOk) (d : Reg) : NextOk (execEmpty d s) := by simp [execEmpty, h]

@[simp] theorem execIsfull_memOk (h : s.MemOk) (d a : Reg) : NextOk (execIsfull d a s) := by simp [execIsfull, h]

/-! ### Permx -/

@[simp] theorem State.putPermx_memOk (id : Nat) (x : Permx) : (s.putPermx id x).MemOk ↔ s.MemOk := Iff.rfl

@[simp] theorem State.closePermx_memOk (id : Nat) : (s.closePermx id).MemOk ↔ s.MemOk := by
  unfold State.closePermx
  split <;> simp

@[simp] theorem State.failPermx_memOk (id : Nat) : (s.failPermx id).MemOk ↔ s.MemOk := by
  unfold State.failPermx
  split <;> simp

@[simp] theorem State.failBoth_memOk (id : Nat) : (s.failBoth id).MemOk ↔ s.MemOk := by
  unfold State.failBoth
  split <;> simp

@[simp] theorem State.sendElement_memOk (id rank : Nat) : (s.sendElement id rank).MemOk ↔ s.MemOk := by
  unfold State.sendElement
  dsimp only
  (repeat' split) <;> simp

@[simp] theorem execPermx_memOk (h : s.MemOk) (d : Reg) (a b : Src) : NextOk (execPermx d a b s) := by
  refine nextOk_onCur.2 fun k _ p _ => State.issue_memOk h _ _ _ _ fun vals c => State.withHeld_memOk h _ _ _ fun ke e => ?_
  extract_lets off t ws u e1 id q x y v placed w
  have ht : t.MemOk := State.releaseStores_memOk h k
  have hw : w.MemOk := by
    unfold w
    split <;> simp [v, y, u, ht]
  clear_value w
  (repeat' split) <;> simp [h, hw]

@[simp] theorem permxPair_memOk (id : Nat) : (permxPair id s).MemOk ↔ s.MemOk := by
  unfold permxPair
  (repeat' split) <;> simp

@[simp] theorem permxElement_memOk (h : s.MemOk) (id index : Nat) (val : List Byte) : (permxElement id index val s).MemOk := by
  unfold permxElement
  split
  · exact h
  split
  · exact h
  split
  · simpa using h
  split
  · simpa using h
  · next t ht =>
    extract_lets u
    have hu : u.MemOk := (State.putPermx_memOk _ _).2 (State.engineWrite_memOk h _ _ _ _ t ht)
    clear_value u
    (repeat' split) <;> simp [hu]

@[simp] theorem State.completePermx_memOk (h : s.MemOk) (x : Transfer) (id : Nat) : (s.completePermx x id).MemOk := by
  unfold State.completePermx
  dsimp only
  (repeat' split) <;> simp [h]

@[simp] theorem State.cancelPermx_memOk (name : Nat) : (s.cancelPermx name).MemOk ↔ s.MemOk := by simp [State.cancelPermx]

/-! ### Prefixes -/

@[simp] theorem execPfx_memOk (h : s.MemOk) (x : BitVec 16) : NextOk (execPfx x s) := by simp [execPfx, h]

@[simp] theorem State.elect_memOk (gid n : Nat) : (s.elect gid n).2.MemOk ↔ s.MemOk := by
  unfold State.elect
  (repeat' split) <;> simp

@[simp] theorem State.onceWaitFor_memOk (k : Nat) (p : Proc) (n words : Nat) (d : Reg) : (s.onceWaitFor k p n words d).MemOk ↔ s.MemOk := by
  unfold State.onceWaitFor
  split <;> simp

@[simp] theorem execOnce_memOk (h : s.MemOk) : NextOk (execOnce s) := by simp [execOnce, h]

/-! ### ScalarFloat -/

@[simp] theorem State.retireFlags_memOk (h : s.MemOk) (k : Nat) (c : BitVec 16) (ws : List (Reg × Word)) (fl : FlagSet) :
    (s.retireFlags k c ws fl).MemOk := by simp [State.retireFlags, h]

@[simp] theorem State.float2_memOk (h : s.MemOk) (k : Nat) (p : Proc) (d : Reg) (a b : Src) (z : BitVec 1)
    (f : Fmt → Rnd → Nat → Nat → Nat × FlagSet) : (s.float2 k p d a b z f).MemOk := by simp [State.float2, h]

@[simp] theorem State.float1_memOk (h : s.MemOk) (k : Nat) (p : Proc) (d : Reg) (a : Src) (f : Rnd → Word → Word × FlagSet) :
    (s.float1 k p d a f).MemOk := by simp [State.float1, h]

@[simp] theorem execFadd_memOk (h : s.MemOk) (d : Reg) (a b : Src) (z : BitVec 1) : NextOk (execFadd d a b z s) := by simp [execFadd, h]

@[simp] theorem execFsub_memOk (h : s.MemOk) (d : Reg) (a b : Src) (z : BitVec 1) : NextOk (execFsub d a b z s) := by simp [execFsub, h]

@[simp] theorem execFmul_memOk (h : s.MemOk) (d : Reg) (a b : Src) (z : BitVec 1) : NextOk (execFmul d a b z s) := by simp [execFmul, h]

@[simp] theorem execFdiv_memOk (h : s.MemOk) (d : Reg) (a b : Src) (z : BitVec 1) : NextOk (execFdiv d a b z s) := by simp [execFdiv, h]

@[simp] theorem execFsqrt_memOk (h : s.MemOk) (d : Reg) (a : Src) (z : BitVec 1) : NextOk (execFsqrt d a z s) := by simp [execFsqrt, h]

@[simp] theorem execFmin_memOk (h : s.MemOk) (d : Reg) (a b : Src) (z : BitVec 1) : NextOk (execFmin d a b z s) := by simp [execFmin, h]

@[simp] theorem execFmax_memOk (h : s.MemOk) (d : Reg) (a b : Src) (z : BitVec 1) : NextOk (execFmax d a b z s) := by simp [execFmax, h]

@[simp] theorem execFneg_memOk (h : s.MemOk) (d : Reg) (a : Src) (z : BitVec 1) : NextOk (execFneg d a z s) := by simp [execFneg, h]

@[simp] theorem execFabs_memOk (h : s.MemOk) (d : Reg) (a : Src) (z : BitVec 1) : NextOk (execFabs d a z s) := by simp [execFabs, h]

@[simp] theorem execFeq_memOk (h : s.MemOk) (d : Reg) (a b : Src) (z : BitVec 1) : NextOk (execFeq d a b z s) := by simp [execFeq, h]

@[simp] theorem execFlt_memOk (h : s.MemOk) (d : Reg) (a b : Src) (z : BitVec 1) : NextOk (execFlt d a b z s) := by simp [execFlt, h]

@[simp] theorem execFle_memOk (h : s.MemOk) (d : Reg) (a b : Src) (z : BitVec 1) : NextOk (execFle d a b z s) := by simp [execFle, h]

@[simp] theorem execFclass_memOk (h : s.MemOk) (d : Reg) (a : Src) (z : BitVec 1) : NextOk (execFclass d a z s) := by simp [execFclass, h]

@[simp] theorem execFcvt_memOk (h : s.MemOk) (d : Reg) (a : Src) (z : BitVec 1) : NextOk (execFcvt d a z s) := by simp [execFcvt, h]

@[simp] theorem execFtoi_memOk (h : s.MemOk) (d : Reg) (a : Src) (z : BitVec 1) : NextOk (execFtoi d a z s) := by simp [execFtoi, h]

@[simp] theorem execItof_memOk (h : s.MemOk) (d : Reg) (a : Src) (z : BitVec 1) : NextOk (execItof d a z s) := by simp [execItof, h]

@[simp] theorem State.fused_memOk (h : s.MemOk) (k : Nat) (p : Proc) (d : Reg) (a b c : Src) (z : BitVec 1) (negP negC : Bool) :
    (s.fused k p d a b c z negP negC).MemOk := by simp [State.fused, h]

@[simp] theorem execFma_memOk (h : s.MemOk) (d : Reg) (a b c : Src) (z : BitVec 1) : NextOk (execFma d a b c z s) := by simp [execFma, h]

@[simp] theorem execFms_memOk (h : s.MemOk) (d : Reg) (a b c : Src) (z : BitVec 1) : NextOk (execFms d a b c z s) := by simp [execFms, h]

@[simp] theorem execFnma_memOk (h : s.MemOk) (d : Reg) (a b c : Src) (z : BitVec 1) : NextOk (execFnma d a b c z s) := by simp [execFnma, h]

@[simp] theorem execFnms_memOk (h : s.MemOk) (d : Reg) (a b c : Src) (z : BitVec 1) : NextOk (execFnms d a b c z s) := by simp [execFnms, h]

/-! ### Vector -/

@[simp] theorem State.putLanes_memOk (h : s.MemOk) (p : Proc) (v w : Nat) (ls : List Nat) :
    (s.putLanes p v w ls).MemOk := by simp [State.putLanes, h]

@[simp] theorem State.vectorIssue_memOk (h : s.MemOk) (k : Nat) (p : Proc) (vs : List Nat) (fs : List Field) (dsts : List Reg)
    {go : List Word → BitVec 16 → State} (hgo : ∀ x y, (go x y).MemOk) :
    (s.vectorIssue k p vs fs dsts go).MemOk := by simp [State.vectorIssue, h, hgo]

@[simp] theorem State.vectorLanes_memOk (h : s.MemOk) (k : Nat) (p : Proc) (d : BitVec 5) (vs : List (BitVec 5)) (mk e : BitVec 3)
    (f : List (List Nat) → Nat → Nat → Nat × FlagSet) : (s.vectorLanes k p d vs mk e f).MemOk :=
  State.vectorIssue_memOk h _ _ _ _ _ fun _ _ => State.retireFlags_memOk (State.putLanes_memOk h _ _ _ _) _ _ _ _

@[simp] theorem State.vector2_memOk (h : s.MemOk) (k : Nat) (p : Proc) (d a b : BitVec 5) (mk e : BitVec 3) (g : Nat → Nat → Nat → Nat)
    (h_ : Fmt → Nat → Nat → Nat × FlagSet) : (s.vector2 k p d a b mk e g h_).MemOk := by simp [State.vector2, h]

@[simp] theorem State.vector1_memOk (h : s.MemOk) (k : Nat) (p : Proc) (d a : BitVec 5) (mk e : BitVec 3) (g : Nat → Nat → Nat)
    (h_ : Fmt → Nat → Nat × FlagSet) : (s.vector1 k p d a mk e g h_).MemOk := by simp [State.vector1, h]

@[simp] theorem execVadd_memOk (h : s.MemOk) (d a b : BitVec 5) (mk e : BitVec 3) : NextOk (execVadd d a b mk e s) := by simp [execVadd, h]

@[simp] theorem execVsub_memOk (h : s.MemOk) (d a b : BitVec 5) (mk e : BitVec 3) : NextOk (execVsub d a b mk e s) := by simp [execVsub, h]

@[simp] theorem execVmul_memOk (h : s.MemOk) (d a b : BitVec 5) (mk e : BitVec 3) : NextOk (execVmul d a b mk e s) := by simp [execVmul, h]

@[simp] theorem execVdiv_memOk (h : s.MemOk) (d a b : BitVec 5) (mk e : BitVec 3) : NextOk (execVdiv d a b mk e s) := by simp [execVdiv, h]

@[simp] theorem execVmin_memOk (h : s.MemOk) (d a b : BitVec 5) (mk e : BitVec 3) : NextOk (execVmin d a b mk e s) := by simp [execVmin, h]

@[simp] theorem execVmax_memOk (h : s.MemOk) (d a b : BitVec 5) (mk e : BitVec 3) : NextOk (execVmax d a b mk e s) := by simp [execVmax, h]

@[simp] theorem execVabs_memOk (h : s.MemOk) (d a : BitVec 5) (mk e : BitVec 3) : NextOk (execVabs d a mk e s) := by simp [execVabs, h]

@[simp] theorem execVneg_memOk (h : s.MemOk) (d a : BitVec 5) (mk e : BitVec 3) : NextOk (execVneg d a mk e s) := by simp [execVneg, h]

@[simp] theorem execVsqrt_memOk (h : s.MemOk) (d a : BitVec 5) (mk e : BitVec 3) : NextOk (execVsqrt d a mk e s) := by simp [execVsqrt, h]

@[simp] theorem execVrsq_memOk (h : s.MemOk) (d a : BitVec 5) (mk : BitVec 3) : NextOk (execVrsq d a mk s) := by simp [execVrsq, h]

@[simp] theorem execVexp2_memOk (h : s.MemOk) (d a : BitVec 5) (mk : BitVec 3) : NextOk (execVexp2 d a mk s) := by simp [execVexp2, h]

@[simp] theorem execVlog2_memOk (h : s.MemOk) (d a : BitVec 5) (mk : BitVec 3) : NextOk (execVlog2 d a mk s) := by simp [execVlog2, h]

@[simp] theorem execVcmul_memOk (h : s.MemOk) (d a b : BitVec 5) (mk : BitVec 3) : NextOk (execVcmul d a b mk s) := by
  refine nextOk_onCur.2 fun k _ p _ => State.vectorIssue_memOk h _ _ _ _ _ fun vals c => ?_
  simp [h]

@[simp] theorem State.vectorBits_memOk (h : s.MemOk) (k : Nat) (p : Proc) (d a b : BitVec 5) (mk e : BitVec 3) (g : Nat → Nat → Nat) :
    (s.vectorBits k p d a b mk e g).MemOk := by simp [State.vectorBits, h]

@[simp] theorem execVand_memOk (h : s.MemOk) (d a b : BitVec 5) (mk e : BitVec 3) : NextOk (execVand d a b mk e s) := by simp [execVand, h]

@[simp] theorem execVor_memOk (h : s.MemOk) (d a b : BitVec 5) (mk e : BitVec 3) : NextOk (execVor d a b mk e s) := by simp [execVor, h]

@[simp] theorem execVxor_memOk (h : s.MemOk) (d a b : BitVec 5) (mk e : BitVec 3) : NextOk (execVxor d a b mk e s) := by simp [execVxor, h]

@[simp] theorem execVshl_memOk (h : s.MemOk) (d a b : BitVec 5) (mk e : BitVec 3) : NextOk (execVshl d a b mk e s) := by simp [execVshl, h]

@[simp] theorem execVshr_memOk (h : s.MemOk) (d a b : BitVec 5) (mk e : BitVec 3) : NextOk (execVshr d a b mk e s) := by simp [execVshr, h]

@[simp] theorem execVsra_memOk (h : s.MemOk) (d a b : BitVec 5) (mk e : BitVec 3) : NextOk (execVsra d a b mk e s) := by simp [execVsra, h]

@[simp] theorem State.vectorFused_memOk (h : s.MemOk) (k : Nat) (p : Proc) (d a b : BitVec 5) (mk e : BitVec 3) (negC : Bool) :
    (s.vectorFused k p d a b mk e negC).MemOk := by simp [State.vectorFused, h]

@[simp] theorem execVfma_memOk (h : s.MemOk) (d a b : BitVec 5) (mk e : BitVec 3) : NextOk (execVfma d a b mk e s) := by simp [execVfma, h]

@[simp] theorem execVfms_memOk (h : s.MemOk) (d a b : BitVec 5) (mk e : BitVec 3) : NextOk (execVfms d a b mk e s) := by simp [execVfms, h]

@[simp] theorem execVcmp_memOk (h : s.MemOk) (cc : BitVec 2) (md : BitVec 3) (a b : BitVec 5) (mk e : BitVec 3) :
    NextOk (execVcmp cc md a b mk e s) := by simp [execVcmp, h]

@[simp] theorem execVsel_memOk (h : s.MemOk) (d a b : BitVec 5) (mk e : BitVec 3) : NextOk (execVsel d a b mk e s) := by simp [execVsel, h]

@[simp] theorem execMset_memOk (h : s.MemOk) (md : BitVec 3) (a : Reg) : NextOk (execMset md a s) := by simp [execMset, h]

@[simp] theorem execMsetR_memOk (h : s.MemOk) (d : Reg) (ma : BitVec 3) : NextOk (execMsetR d ma s) := by simp [execMsetR, h]

@[simp] theorem State.maskOp_memOk (h : s.MemOk) (k : Nat) (p : Proc) (md : BitVec 3) (v : Word) :
    (s.maskOp k p md v).MemOk := by simp [State.maskOp, h]

@[simp] theorem execMand_memOk (h : s.MemOk) (md a b : BitVec 3) : NextOk (execMand md a b s) := by simp [execMand, h]

@[simp] theorem execMor_memOk (h : s.MemOk) (md a b : BitVec 3) : NextOk (execMor md a b s) := by simp [execMor, h]

@[simp] theorem execMnot_memOk (h : s.MemOk) (md a : BitVec 3) : NextOk (execMnot md a s) := by simp [execMnot, h]

@[simp] theorem execVcvt_memOk (h : s.MemOk) (d a : BitVec 5) (h_ : BitVec 1) (f : BitVec 4) (mk e : BitVec 3) :
    NextOk (execVcvt d a h_ f mk e s) := by
  refine nextOk_onCur.2 fun k _ p _ => State.vectorIssue_memOk h _ _ _ _ _ fun vals c => ?_
  simp [h]

@[simp] theorem execVqnt_memOk (h : s.MemOk) (d a : BitVec 5) (nov : BitVec 1) (f : BitVec 4) (e : BitVec 3) :
    NextOk (execVqnt d a nov f e s) := by
  refine nextOk_onCur.2 fun k _ p _ => State.vectorIssue_memOk h _ _ _ _ _ fun vals c => ?_
  simp [h]

@[simp] theorem execVdqn_memOk (h : s.MemOk) (d a : BitVec 5) (f : BitVec 4) (e : BitVec 3) : NextOk (execVdqn d a f e s) := by
  refine nextOk_onCur.2 fun k _ p _ => State.vectorIssue_memOk h _ _ _ _ _ fun vals c => ?_
  exact State.retireFlags_memOk (memOk_foldl h (fun t v ht => State.putLanes_memOk ht _ _ _ _) _) _ _ _ _

@[simp] theorem execVred_memOk (h : s.MemOk) (d : Reg) (a : BitVec 5) (o : BitVec 2) (mk e : BitVec 3) :
    NextOk (execVred d a o mk e s) := by simp [execVred, h]

@[simp] theorem execVscan_memOk (h : s.MemOk) (d a : BitVec 5) (o : BitVec 2) (mk e : BitVec 3) : NextOk (execVscan d a o mk e s) := by
  refine nextOk_onCur.2 fun k _ p _ => State.vectorIssue_memOk h _ _ _ _ _ fun vals c => ?_
  simp [h]

@[simp] theorem execVperm_memOk (h : s.MemOk) (d a b : BitVec 5) (mk e : BitVec 3) :
    NextOk (execVperm d a b mk e s) := by simp [execVperm, h]

@[simp] theorem execVbcast_memOk (h : s.MemOk) (d : BitVec 5) (a : Reg) (mk e : BitVec 3) : NextOk (execVbcast d a mk e s) := by
  refine nextOk_onCur.2 fun k _ p _ => State.vectorIssue_memOk h _ _ _ _ _ fun vals c => ?_
  simp [h]

@[simp] theorem execVmovg_memOk (h : s.MemOk) (d : Reg) (a : BitVec 5) (b : Reg) (e : BitVec 3) :
    NextOk (execVmovg d a b e s) := by simp [execVmovg, h]

@[simp] theorem execVmovv_memOk (h : s.MemOk) (d : BitVec 5) (a b : Reg) (e : BitVec 3) : NextOk (execVmovv d a b e s) := by
  refine nextOk_onCur.2 fun k _ p _ => State.vectorIssue_memOk h _ _ _ _ _ fun vals c => ?_
  simp [h]

/-! ### Frame -/

@[simp] theorem execVrep_memOk (h : s.MemOk) (w : BitVec 4) (r : BitVec 6) (sd sa sb : BitVec 5) : NextOk (execVrep w r sd sa sb s) := by
  refine nextOk_onCur.2 fun k _ p _ => ?_
  dsimp only
  (repeat' split) <;> simp [h]

/-! ### TapeLog -/

@[simp] theorem State.modTape_memOk (fold name : Nat) (f : TapeS → TapeS) : (s.modTape fold name f).MemOk ↔ s.MemOk := Iff.rfl

@[simp] theorem State.logWrite_memOk (h : s.MemOk) (fold : Nat) (t : TapeS) (o : Nat) (bs : List Byte) :
    (s.logWrite fold t o bs).MemOk := by simp [State.logWrite, h]

theorem State.append_memOk (h : s.MemOk) (core : Nat) (t : TapeS) (r : TapeRec) :
    ∀ s' a b, (s.append core t r) = .done s' a b → s'.MemOk := by
  unfold State.append
  dsimp only
  (repeat' split) <;> simp [h]

theorem State.record_memOk (h : s.MemOk) (p : Proc) (r : TapeRec) : ∀ s' a b, (s.record p r) = .done s' a b → s'.MemOk := by
  unfold State.record
  split
  · split
    · exact State.append_memOk h _ _ _
    · simp
  · simp

@[simp] theorem State.unrecord_memOk (p : Proc) (len : Nat) : (s.unrecord p len).MemOk ↔ s.MemOk := by
  unfold State.unrecord
  split <;> simp

/-! ### Tile -/

@[simp] theorem State.modTileAt_memOk (core n : Nat) (f : Tile → Tile) : (s.modTileAt core n f).MemOk ↔ s.MemOk := Iff.rfl

@[simp] theorem State.modBank_memOk (core k : Nat) (f : Bank → Bank) : (s.modBank core k f).MemOk ↔ s.MemOk := Iff.rfl

@[simp] theorem execTdef_memOk (h : s.MemOk) (d : BitVec 5) (a b : Reg) : NextOk (execTdef d a b s) := by simp [execTdef, h]

@[simp] theorem execTstat_memOk (h : s.MemOk) (d : Reg) (a : BitVec 5) : NextOk (execTstat d a s) := by simp [execTstat, h]

/-! ### TileRun -/

@[simp] theorem State.putBank_memOk (h : s.MemOk) (core k acc i j : Nat) (xs : List Nat) :
    (s.putBank core k acc i j xs).MemOk := by simp [State.putBank, h]

@[simp] theorem State.productGroup_memOk (h : s.MemOk) (core k : Nat) (r : TRun) : (s.productGroup core k r).s.MemOk := by
  unfold State.productGroup
  extract_lets size acc as bs
  refine List.foldlRecOn (motive := fun g : GroupEnd => g.s.MemOk) _ _ h fun g hg i _ => ?_
  refine List.foldlRecOn (motive := fun g : GroupEnd => g.s.MemOk) _ _ hg fun g hg j _ => ?_
  exact State.putBank_memOk hg _ _ _ _ _ _

@[simp] theorem State.cmmaGroup_memOk (h : s.MemOk) (core k : Nat) (r : TRun) : (s.cmmaGroup core k r).s.MemOk := by
  unfold State.cmmaGroup
  extract_lets as bs
  refine List.foldlRecOn (motive := fun g : GroupEnd => g.s.MemOk) _ _ h fun g hg i _ => ?_
  refine List.foldlRecOn (motive := fun g : GroupEnd => g.s.MemOk) _ _ hg fun g hg j _ => ?_
  exact State.putBank_memOk hg _ _ _ _ _ _

@[simp] theorem State.putRow_memOk (h : s.MemOk) (core n row : Nat) (codes : List Nat) (scales : List Byte) :
    (s.putRow core n row codes scales).1.MemOk := by simp [State.putRow, h]

@[simp] theorem State.rowGroup_memOk (h : s.MemOk) (core d : Nat) (r : TRun) : (s.rowGroup core d r).s.MemOk := by
  unfold State.rowGroup
  refine List.foldlRecOn (motive := fun g : GroupEnd => g.s.MemOk) _ _ h fun g hg x _ => ?_
  exact State.modNamed_memOk (State.putRow_memOk hg _ _ _ _ _) _ fun k p t ht => (State.putProc_memOk _ _).2 ht

@[simp] theorem State.zeroBank_memOk (h : s.MemOk) (core k : Nat) : (s.zeroBank core k).MemOk := wf_filter h _

@[simp] theorem State.runGroup_memOk (h : s.MemOk) (core : Nat) (r : TRun) : (s.runGroup core r).s.MemOk := by
  unfold State.runGroup
  split <;> simp [h]

@[simp] theorem State.scheduleRun_memOk (core : Nat) (r : TRun) : (s.scheduleRun core r).MemOk ↔ s.MemOk := Iff.rfl

@[simp] theorem State.startRun_memOk (core : Nat) (p : Proc) (remote : Bool) (op : TOp) (ftz daz : Bool) (word delay taped : Nat)
    (resume : Option SeqState) : (s.startRun core p remote op ftz daz word delay taped resume).MemOk ↔ s.MemOk := by
  unfold State.startRun
  extract_lets l step l' gang r t u
  have ht : t.MemOk ↔ s.MemOk := by
    unfold t
    split <;> simp
  have hu : u.MemOk ↔ s.MemOk := by
    unfold u
    split <;> simp [ht]
  clear_value u
  split <;> simp [hu]

@[simp] theorem State.gangAbort_memOk (h : s.MemOk) (x : Nat × Nat × Proc × TRun) (reason : Nat) :
    (s.gangAbort x reason).MemOk := by simp [State.gangAbort, h]

@[simp] theorem State.gangLose_memOk (h : s.MemOk) (k : Nat) (p : Proc) (q : SeqState) :
    (s.gangLose k p q).MemOk := by simp [State.gangLose, h]

@[simp] theorem State.gangFail_memOk (h : s.MemOk) (gid ordinal reason : Nat) : (s.gangFail gid ordinal reason).MemOk := by
  refine memOk_foldl (memOk_foldl h (fun t x ht => State.gangAbort_memOk ht _ _) _) (fun t e ht => ?_) _
  (repeat' split) <;> simp [ht]

@[simp] theorem gangProductStart_memOk (h : s.MemOk) (gid ordinal : Nat) :
    (gangProductStart gid ordinal s).MemOk := by simp [gangProductStart, h]

@[simp] theorem State.gangJoin_memOk (p : Proc) (ordinal : Nat) : (s.gangJoin p ordinal).MemOk ↔ s.MemOk := by simp [State.gangJoin]

@[simp] theorem State.dropRecord_memOk (p : Proc) (resume : Option SeqState) : (s.dropRecord p resume).MemOk ↔ s.MemOk := by
  unfold State.dropRecord
  split <;> simp

@[simp] theorem State.runTile_memOk (h : s.MemOk) (k : Nat) (p : Proc) (op : TOp) (ftz daz : Bool) : (s.runTile k p op ftz daz).MemOk := by
  unfold State.runTile
  extract_lets word resume q s1 go
  have h1 : s1.MemOk := State.releaseStores_memOk h k
  have going {t : State} (delay taped : Nat) (ht : t.MemOk) : (go t delay taped).MemOk := by
    unfold go
    dsimp only
    (repeat' split) <;> simp [ht]
  clear_value go s1 resume
  split
  · exact h
  split
  · simp [h]
  split
  · dsimp only
    (repeat' split) <;> simp [h1]
  · split
    · exact going _ _ h1
    · split
      · exact going _ _ h1
      · next t n len ht => exact going _ _ (State.record_memOk h1 _ _ _ _ _ ht)
      · simp [h]

@[simp] theorem State.saveRun_memOk (core k : Nat) (p : Proc) (r : TRun) : (s.saveRun core k p r).MemOk ↔ s.MemOk := by
  unfold State.saveRun
  split <;> simp

@[simp] theorem State.trapNan_memOk (h : s.MemOk) (core k : Nat) (p : Proc) (r : TRun) (n : Nat × Nat × Nat) :
    (s.trapNan core k p r n).MemOk := by simp [State.trapNan, h]

@[simp] theorem State.finishRun_memOk (h : s.MemOk) (core : Nat) (r : TRun) : (s.finishRun core r).MemOk := by
  unfold State.finishRun
  extract_lets t
  have ht : t.MemOk := by
    unfold t
    rw [State.modCore_memOk]
    split <;> simp [h]
  refine State.modNamed_memOk ht _ fun k p u hu => ?_
  dsimp only
  split <;> simp [hu]

@[simp] theorem State.stepRun_memOk (h : s.MemOk) (core : Nat) (r : TRun) : (s.stepRun core r).1.MemOk := by
  unfold State.stepRun
  split <;> simp [h]

@[simp] theorem State.passGroup_memOk (h : s.MemOk) (core : Nat) : (s.passGroup core).MemOk := by
  unfold State.passGroup
  dsimp only
  (repeat' split) <;> simp [h]

@[simp] theorem State.endRun_memOk (h : s.MemOk) (core : Nat) : (s.endRun core).MemOk := by
  unfold State.endRun
  dsimp only
  (repeat' split) <;> simp [h]

@[simp] theorem execTcvt_memOk (h : s.MemOk) (d a : BitVec 5) (z y : BitVec 1) : NextOk (execTcvt d a z y s) := by simp [execTcvt, h]

@[simp] theorem execMma_memOk (h : s.MemOk) (b : BitVec 1) (x y : BitVec 5) (z w : BitVec 1) :
    NextOk (execMma b x y z w s) := by simp [execMma, h]

@[simp] theorem execMmag_memOk (h : s.MemOk) (b : BitVec 1) (x y : BitVec 5) (z w : BitVec 1) (t : BitVec 5) :
    NextOk (execMmag b x y z w t s) := by simp [execMmag, h]

@[simp] theorem execCmma_memOk (h : s.MemOk) (b : BitVec 1) (x y : BitVec 5) (z w : BitVec 1) :
    NextOk (execCmma b x y z w s) := by simp [execCmma, h]

@[simp] theorem execGmma_memOk (h : s.MemOk) (b : BitVec 1) (x y : BitVec 5) (z w : BitVec 1) :
    NextOk (execGmma b x y z w s) := by simp [execGmma, h]

@[simp] theorem execAzero_memOk (h : s.MemOk) (b : BitVec 1) : NextOk (execAzero b s) := by simp [execAzero, h]

@[simp] theorem execTadd_memOk (h : s.MemOk) (d a b : BitVec 5) (z y : BitVec 1) : NextOk (execTadd d a b z y s) := by simp [execTadd, h]

@[simp] theorem execTmul_memOk (h : s.MemOk) (d a b : BitVec 5) (z y : BitVec 1) : NextOk (execTmul d a b z y s) := by simp [execTmul, h]

@[simp] theorem execTact_memOk (h : s.MemOk) (d a x : BitVec 5) (z y : BitVec 1) (f : BitVec 3) :
    NextOk (execTact d a x z y f s) := by simp [execTact, h]

@[simp] theorem execTsum_memOk (h : s.MemOk) (d a : BitVec 5) (z y : BitVec 1) : NextOk (execTsum d a z y s) := by simp [execTsum, h]

@[simp] theorem execTtrn_memOk (h : s.MemOk) (d a : BitVec 5) : NextOk (execTtrn d a s) := by simp [execTtrn, h]

/-! ### TileMove -/

@[simp] theorem State.sliceTrips_memOk (core : Nat) (ps : List (Nat × Nat)) :
    (s.sliceTrips core ps).1.MemOk ↔ s.MemOk := by simp [State.sliceTrips]

@[simp] theorem State.bookSlices_memOk (core : Nat) (ps : List (Nat × Nat)) : (s.bookSlices core ps).MemOk ↔ s.MemOk := by simp [State.bookSlices]

@[simp] theorem State.putStream_memOk (h : s.MemOk) (core n : Nat) (bs : List Byte) : (s.putStream core n bs).MemOk := by
  unfold State.putStream
  extract_lets y rb t
  have ht : t.MemOk := memOk_foldl h (fun t r ht => memOk_writeMem ht _ _) _
  split <;> simp [ht]

@[simp] theorem State.putParts_memOk (h : s.MemOk) (core name gid level : Nat) (ps : List (Nat × Nat)) (bs : List Byte) :
    (s.putParts core name gid level ps bs).MemOk := by
  refine List.foldlRecOn (motive := fun acc : State × List Byte => acc.1.MemOk) ps _ h fun acc hacc x _ => ?_
  dsimp only
  split <;> simp [hacc]

@[simp] theorem State.breakTransfer_memOk (h : s.MemOk) (core n : Nat) : (s.breakTransfer core n).MemOk := by
  unfold State.breakTransfer
  dsimp only
  (repeat' split) <;> simp [h]

@[simp] theorem State.endTransfer_memOk (h : s.MemOk) (core n : Nat) : (s.endTransfer core n).MemOk := by
  unfold State.endTransfer
  dsimp only
  (repeat' split) <;> simp [h]

@[simp] theorem State.beginTileTransfer_memOk (core n : Nat) (a : Agent) (load : Bool) (ps : List (Nat × Nat)) :
    (s.beginTileTransfer core n a load ps).MemOk ↔ s.MemOk := by simp [State.beginTileTransfer]

@[simp] theorem State.moveTile_memOk (h : s.MemOk) (k : Nat) (p : Proc) (t : Nat) (ga gb : Reg) (load : Bool) :
    (s.moveTile k p t ga gb load).MemOk := by
  unfold State.moveTile
  extract_lets op
  split
  · simpa using h
  split
  · exact h
  refine State.issue_memOk h _ _ _ _ fun vals c => ?_
  split
  · simpa using h
  split
  · simpa using h
  extract_lets _
  split
  · simpa using h
  · extract_lets go
    have going {u : State} (hu : u.MemOk) : (go u).MemOk := by simp [go, hu]
    clear_value go
    split
    · exact going h
    · next u _ _ hu => exact going (State.record_memOk h _ _ _ _ _ hu)
    · simpa using h

@[simp] theorem execTload_memOk (h : s.MemOk) (d : BitVec 5) (a b : Reg) : NextOk (execTload d a b s) := by simp [execTload, h]

@[simp] theorem execTstore_memOk (h : s.MemOk) (d : BitVec 5) (a b : Reg) : NextOk (execTstore d a b s) := by simp [execTstore, h]

@[simp] theorem State.beginDrain_memOk (core : Nat) (p : Proc) (d k : Nat) (ftz rel : Bool) (remote : Option (Nat × Nat × Nat × Nat × Bool)) :
    (s.beginDrain core p d k ftz rel remote).MemOk ↔ s.MemOk := by simp [State.beginDrain]

@[simp] theorem State.endDrain_memOk (h : s.MemOk) (core k : Nat) : (s.endDrain core k).MemOk := by
  unfold State.endDrain
  split
  · exact h
  split
  · exact h
  · extract_lets hurt r t f u
    have ht : t.MemOk := State.modNamed_memOk (by simpa using h) _ fun kp p u hu => (State.putProc_memOk _ _).2 hu
    split
    · have hu : u.MemOk := (State.poisonAt_memOk _).2 (memOk_foldl ht (fun u i hu => State.putRow_memOk hu _ _ _ _ _) _)
      simpa using hu
    · simpa using ht

@[simp] theorem State.completeDrain_memOk (h : s.MemOk) (x : Transfer) (rows : List (List Byte)) (hurt : List Nat) (target off step : Nat)
    (wake : Bool) (gid level : Nat) : (s.completeDrain x rows hurt target off step wake gid level).MemOk := by
  unfold State.completeDrain
  dsimp only
  (repeat' split) <;> simp [h]

@[simp] theorem State.drainIssue_memOk {go : State} (h : s.MemOk) (hgo : go.MemOk) (k : Nat) (p : Proc) (op : TOp) (d : Nat) :
    (s.drainIssue k p op d go).MemOk := by
  unfold State.drainIssue
  (repeat' split) <;> simp [h, hgo]

@[simp] theorem execAdrain_memOk (h : s.MemOk) (d : BitVec 5) (b z x : BitVec 1) : NextOk (execAdrain d b z x s) := by
  refine nextOk_onCur.2 fun k _ p _ => State.drainIssue_memOk h ?_ _ _ _ _
  extract_lets go
  have going {u : State} (hu : u.MemOk) : (go u).MemOk := by simp [go, hu]
  clear_value go
  split
  · exact going h
  · next u _ _ hu => exact going (State.record_memOk h _ _ _ _ _ hu)
  · simp [h]

@[simp] theorem execAdrainR_memOk (h : s.MemOk) (d : BitVec 5) (b : BitVec 1) (g : Reg) (z x w : BitVec 1) :
    NextOk (execAdrainR d b g z x w s) := by
  refine nextOk_onCur.2 fun k _ p _ => ?_
  extract_lets op
  split
  · simpa using h
  split
  · exact h
  refine State.issue_memOk h _ _ _ _ fun vals c => ?_
  extract_lets v target hd off
  split
  · simpa using h
  refine State.drainIssue_memOk h ?_ _ _ _ _
  split
  · simpa using h
  split
  · simpa using h
  split
  · simpa using h
  split
  · simpa using h
  split
  · simpa using h
  split
  · exact h
  · extract_lets go
    have going {u : State} (hu : u.MemOk) : (go u).MemOk := by simp [go, hu]
    clear_value go
    split
    · exact going h
    · next u _ _ hu => exact going (State.record_memOk h _ _ _ _ _ hu)
    · simpa using h

@[simp] theorem execTcmd_memOk (h : s.MemOk) (a b : Reg) : NextOk (execTcmd a b s) := by
  refine nextOk_onCur.2 fun k _ p _ => ?_
  split
  · simpa using h
  refine State.issue_memOk h _ _ _ _ fun vals c => ?_
  extract_lets cap w
  split
  · simpa using h
  · refine State.issue_memOk h _ _ _ _ fun rs c' => ?_
    (repeat' split) <;> simp +zetaDelta [h]

@[simp] theorem State.refuseCommand_memOk (core name : Nat) (op : TOp) : (s.refuseCommand core name op).MemOk ↔ s.MemOk := by
  unfold State.refuseCommand
  split <;> simp

@[simp] theorem State.runCommands_memOk (core fuel : Nat) : (s.runCommands core fuel).MemOk ↔ s.MemOk := by
  induction fuel generalizing s with
  | zero => rfl
  | succ n ih =>
    unfold State.runCommands
    split
    · rfl
    split
    · rfl
    · extract_lets pop
      have popped (t : State) : (pop t).MemOk ↔ t.MemOk := by simp [pop]
      clear_value pop
      split
      · split
        · simp [ih, popped]
        split
        · rfl
        split
        · extract_lets load lay step
          split <;> simp [ih, popped]
        · extract_lets load lay step
          split <;> simp [ih, popped]
        · simp [ih, popped]
        · split <;> simp [ih, popped]
      · simp [ih, popped]

@[simp] theorem tileCommandArrival_memOk (m : TCommand) : (tileCommandArrival m s).MemOk ↔ s.MemOk := by
  unfold tileCommandArrival
  (repeat' split) <;> simp

@[simp] theorem tileCommandAnswer_memOk (h : s.MemOk) (m : TCommand) (accepted : Bool) : (tileCommandAnswer m accepted s).MemOk := by
  refine State.modNamed_memOk h _ fun k p t ht => ?_
  split <;> simp [ht]

@[simp] theorem tileTransferComplete_memOk (h : s.MemOk) (core tile : Nat) :
    (tileTransferComplete core tile s).MemOk := by simp [tileTransferComplete, h]

@[simp] theorem drainComplete_memOk (h : s.MemOk) (core bank : Nat) : (drainComplete core bank s).MemOk := by simp [drainComplete, h]

@[simp] theorem kGroupDone_memOk (h : s.MemOk) (core : Nat) : (kGroupDone core s).MemOk := by simp [kGroupDone, h]

@[simp] theorem tileOpComplete_memOk (h : s.MemOk) (core : Nat) : (tileOpComplete core s).MemOk := by simp [tileOpComplete, h]

/-! ### Servers -/

@[simp] theorem execSvopen_memOk (h : s.MemOk) (d : Reg) (a b : Src) : NextOk (execSvopen d a b s) := by
  refine nextOk_onCur.2 fun k _ p _ => State.issueFill_memOk h _ _ _ _ fun vals c => ?_
  simp [h]

theorem State.giveEnd_memOk (h : s.MemOk) (p : Proc) (h_ : Nat) (x : Srv × Bool × Word) (loc : EndLoc) :
    ∀ s', (s.giveEnd p h_ x loc) = .inr s' → s'.MemOk := by
  unfold State.giveEnd
  split
  · simp
  · extract_lets key queued
    split
    · simp
    · next q t hq =>
      have ht : t.MemOk := by
        split at hq
        · obtain ⟨r, hr, e⟩ := Option.map_eq_some_iff.1 hq
          cases e
          exact State.allotRing_memOk h _ _ _ _ hr
        · cases hq
          exact h
      rintro _ ⟨⟩
      simpa using ht

@[simp] theorem serverAnswer_memOk (h : s.MemOk) (r : SvReq) : (serverAnswer r s).MemOk := by
  refine State.modNamed_memOk h _ fun _ p t ht => ?_
  extract_lets bad code ends loc
  have refused (n : Nat) : (bad n).MemOk := by simp [bad, ht]
  clear_value bad ends
  split
  · exact refused _
  split
  · exact refused _
  split
  · split
    · exact refused _
    · next u hu =>
      have hu : u.MemOk := State.giveEnd_memOk ht _ _ _ _ _ hu
      refine fill_memOk ?_ _ _
      split <;> simp [hu]
  · split
    · exact refused _
    split
    · exact refused _
    · next u hu =>
      have hu : u.MemOk := State.giveEnd_memOk ht _ _ _ _ _ hu
      split
      · exact refused _
      · next v hv => exact fill_memOk (State.giveEnd_memOk hu _ _ _ _ _ hv) _ _
  · exact refused _

@[simp] theorem State.beginAccess_memOk (o : Nat) (x : Access) : (s.beginAccess o x).MemOk ↔ s.MemOk := Iff.rfl

@[simp] theorem slicePass_memOk (drover : Nat) (x : Access) : (slicePass drover x s).MemOk ↔ s.MemOk := Iff.rfl

@[simp] theorem State.modRec_memOk (n id : Nat) (f : DrRec → DrRec) : (s.modRec n id f).MemOk ↔ s.MemOk := Iff.rfl

@[simp] theorem State.sendReply_memOk (h : s.MemOk) (n : Nat) (r : DrRec) : (s.sendReply n r).MemOk := by
  unfold State.sendReply
  dsimp only
  (repeat' split) <;> simp [h]

@[simp] theorem State.beginRequest_memOk (h : s.MemOk) (n : Nat) (r : DrRec) : (s.beginRequest n r).MemOk := by
  unfold State.beginRequest
  split <;> simp [h]

@[simp] theorem State.beginReady_memOk (h : s.MemOk) (n : Nat) : (s.beginReady n).MemOk := by
  refine memOk_foldl h (fun t x ht => ?_) _
  simp [ht]

@[simp] theorem State.acceptRequest_memOk (h : s.MemOk) (n : Nat) (r : DrReq) :
    (s.acceptRequest n r).MemOk := by simp [State.acceptRequest, h]

@[simp] theorem State.answerLost_memOk (h : s.MemOk) (n : Nat) (r : DrReq) : (s.answerLost n r).MemOk := by simp [State.answerLost, h]

@[simp] theorem droverRequest_memOk (h : s.MemOk) (drover : Nat) (r : DrReq) : (droverRequest drover r s).MemOk := by simp [droverRequest, h]

@[simp] theorem State.takeRequests_memOk (h : s.MemOk) (n : Nat) (rs : List DrReq) : (s.takeRequests n rs).MemOk := by
  induction rs generalizing s with
  | nil => exact h
  | cons r rest ih =>
    unfold State.takeRequests
    extract_lets d
    split
    · exact ih (State.acceptRequest_memOk ((State.putDrover_memOk _ _).2 h) _ _)
    · exact h

@[simp] theorem State.nextRequest_memOk (h : s.MemOk) (n : Nat) : (s.nextRequest n).MemOk := by simp [State.nextRequest, h]

@[simp] theorem State.mixWrite_memOk (h : s.MemOk) (a : Agent) (name va : Nat) (bs : List Byte) : (s.mixWrite a name va bs).MemOk := by
  refine memOk_foldl h (fun t x ht => ?_) _
  split <;> simp [ht]

@[simp] theorem State.doSlice_memOk (h : s.MemOk) (r : DrRec) (x : Access) : (s.doSlice r x).1.MemOk := by
  unfold State.doSlice
  extract_lets q a arg bytes poison
  clear_value poison
  split
  · split
    · simp [h]
    · exact memOk_getD h (State.engineWrite_memOk h _ _ _ _)
  · split
    · exact State.writeMem_memOk h _ _
    · exact State.writeMem_memOk h _ _
  · split
    · exact h
    · exact State.atomic_memOk h _ _ _ _ _
  · exact State.writeMem_memOk h _ _

@[simp] theorem droverAccessEnd_memOk (h : s.MemOk) (drover : Nat) (x : Access) : (droverAccessEnd drover x s).MemOk := by
  unfold droverAccessEnd
  split
  · split
    · exact h
    · extract_lets z t
      have ht : t.MemOk := (State.modRec_memOk _ _ _).2 (State.doSlice_memOk h _ _)
      clear_value t
      split
      · split
        · exact State.nextRequest_memOk (State.beginReady_memOk (State.sendReply_memOk ht _ _) _) _
        · exact ht
      · exact ht
  · exact h

@[simp] theorem droverReplyRelease_memOk (h : s.MemOk) (drover : Nat) : (droverReplyRelease drover s).MemOk := by
  unfold droverReplyRelease
  split <;> simp [h]

theorem State.handOut_memOk (n : Nat) : (s.handOut n).2.2.2.MemOk ↔ s.MemOk := by
  unfold State.handOut
  (repeat' split) <;> simp

@[simp] theorem State.answerAsk_memOk (disp : Nat) (q : DispAsk) (item : Word) (ordinal : Nat) (arg : Word) :
    (s.answerAsk disp q item ordinal arg).MemOk ↔ s.MemOk := by
  unfold State.answerAsk
  split <;> simp

@[simp] theorem State.serveAsk_memOk (disp : Nat) (x : Disp) : (s.serveAsk disp x).MemOk ↔ s.MemOk := by
  unfold State.serveAsk
  split
  · rfl
  · extract_lets t r u
    have hu : u.MemOk ↔ s.MemOk := (State.answerAsk_memOk _ _ _ _ _).trans ((State.handOut_memOk _).trans memOk_mk_iff)
    split <;> simp [hu]

@[simp] theorem dispenserQuery_memOk (disp : Nat) (q : DispAsk) : (dispenserQuery disp q s).MemOk ↔ s.MemOk := by
  unfold dispenserQuery
  (repeat' split) <;> simp

@[simp] theorem execDqry_memOk (h : s.MemOk) (d : Reg) (a b : Src) : NextOk (execDqry d a b s) := by
  refine nextOk_onCur.2 fun k _ p _ => State.issueFill_memOk h _ _ _ _ fun vals c => ?_
  dsimp only
  (repeat' split) <;> simp [h]

@[simp] theorem dqryAnswer_memOk (h : s.MemOk) (q : DispAsk) (item : Word) : (dqryAnswer q item s).MemOk := by
  unfold dqryAnswer
  split
  · extract_lets t
    have ht : t.MemOk := by
      unfold t
      split <;> simp [h]
    split <;> simp [ht]
  · exact h

@[simp] theorem execWfw_memOk (h : s.MemOk) (a : Src) : NextOk (execWfw a s) := by
  refine nextOk_onCur.2 fun k _ p _ => State.issue_memOk h _ _ _ _ fun vals c => ?_
  dsimp only
  (repeat' split) <;> simp [h]

@[simp] theorem wfwServe_memOk (h : s.MemOk) (name : Nat) (item ordinal arg : Word) : (wfwServe name item ordinal arg s).MemOk := by
  refine State.modNamed_memOk h _ fun k p t ht => ?_
  split <;> simp [ht]

@[simp] theorem execTimer_memOk (h : s.MemOk) (d : Reg) (a b : Src) : NextOk (execTimer d a b s) := by
  refine nextOk_onCur.2 fun k _ p _ => State.issue_memOk h _ _ _ _ fun vals c => ?_
  dsimp only
  (repeat' split) <;> simp [h]

/-! ### Reports -/

@[simp] theorem State.putFrame_memOk (pkg : Nat) (ws : List Word) (credit : Option EndLoc) : (s.putFrame pkg ws credit).MemOk ↔ s.MemOk := by
  unfold State.putFrame
  (repeat' split) <;> simp

@[simp] theorem State.sendFrame_memOk (pkg type tag addr : Nat) (payload : List Word) :
    (s.sendFrame pkg type tag addr payload).MemOk ↔ s.MemOk := by simp [State.sendFrame]

@[simp] theorem State.flushFrames_memOk (pkg : Nat) : (s.flushFrames pkg).MemOk ↔ s.MemOk := by simp [State.flushFrames]

@[simp] theorem State.toProcess_memOk (src : Source) (bs : List Byte) : (s.toProcess src bs).MemOk ↔ s.MemOk := by
  unfold State.toProcess
  (repeat' split) <;> simp

@[simp] theorem State.toSource_memOk (pkg : Nat) (src : Source) (type tag : Nat) (ws : List Word) :
    (s.toSource pkg src type tag ws).MemOk ↔ s.MemOk := by
  unfold State.toSource
  split <;> simp

@[simp] theorem State.sendCompletion_memOk (l : Launch) (done : Word) :
    (s.sendCompletion l done).MemOk ↔ s.MemOk := by simp [State.sendCompletion]

@[simp] theorem State.faultReport_memOk (l : Launch) (kind : Nat) (note : Word) (body : List Word) :
    (s.faultReport l kind note body).MemOk ↔ s.MemOk := by simp [State.faultReport]

@[simp] theorem State.sendReplyTo_memOk (q : BReq) (op status : Nat) (ws : List Word) :
    (s.sendReplyTo q op status ws).MemOk ↔ s.MemOk := by simp [State.sendReplyTo]

@[simp] theorem State.bothyReply_memOk (q : BReq) (op status : Nat) (ws : List Word) :
    (s.bothyReply q op status ws).MemOk ↔ s.MemOk := by simp [State.bothyReply]

@[simp] theorem State.flushReplies_memOk (pkg fuel : Nat) : (s.flushReplies pkg fuel).MemOk ↔ s.MemOk := by
  induction fuel generalizing s with
  | zero => rfl
  | succ n ih =>
    unfold State.flushReplies
    split
    · rw [ih]
      simp
    · rfl

@[simp] theorem State.askKill_memOk (q : BReq) : (s.askKill q).MemOk ↔ s.MemOk := Iff.rfl

@[simp] theorem State.answerKill_memOk (q : BReq) (n : Nat) : (s.answerKill q n).MemOk ↔ s.MemOk := by simp [State.answerKill]

@[simp] theorem State.dropKills_memOk (pkg : Nat) : (s.dropKills pkg).MemOk ↔ s.MemOk := by simp [State.dropKills]

@[simp] theorem State.bindOne_memOk (h : s.MemOk) (l : Launch) (p : Proc) (w : Word) (nth : Nat) : (s.bindOne l p w nth).MemOk := by
  unfold State.bindOne
  extract_lets t srv ix queued
  split
  · exact h
  · split
    · exact h
    · next q u hu =>
      have hu : u.MemOk := by
        split at hu
        · obtain ⟨r, hr, e⟩ := Option.map_eq_some_iff.1 hu
          cases e
          exact State.allotRing_memOk h _ _ _ _ hr
        · cases hu
          exact h
      split <;> simp [h, hu]

@[simp] theorem State.bindInitial_memOk (h : s.MemOk) (l : Launch) (k : Nat) (chans : List Word) : (s.bindInitial l k chans).MemOk := by
  refine memOk_foldl h (fun t x ht => ?_) _
  split <;> simp [ht]

/-! ### Tape -/

@[simp] theorem State.walkAt_memOk (fold name n : Nat) : (s.walkAt fold name n).MemOk ↔ s.MemOk := Iff.rfl

@[simp] theorem State.beginSpill_memOk (fold name : Nat) : (s.beginSpill fold name).MemOk ↔ s.MemOk := by
  unfold State.beginSpill
  split
  · split
    · extract_lets upto ls r
      have hr : r.1.MemOk ↔ s.MemOk := State.trips_memOk_iff (fun u x => by split <;> simp) _
      clear_value r
      simpa using hr
    · rfl
  · rfl

@[simp] theorem State.serveTape_memOk (fold name : Nat) : (s.serveTape fold name).MemOk ↔ s.MemOk := by
  unfold State.serveTape
  split <;> simp

@[simp] theorem State.leaveTape_memOk (fold name : Nat) : (s.leaveTape fold name).MemOk ↔ s.MemOk := by
  unfold State.leaveTape
  dsimp only
  (repeat' split) <;> simp

@[simp] theorem State.enterTape_memOk (k : Nat) (p : Proc) (h_ : Hold) : (s.enterTape k p h_).MemOk ↔ s.MemOk := by simp [State.enterTape]

@[simp] theorem execTapon_memOk (h : s.MemOk) (d : Reg) (a : Src) : NextOk (execTapon d a s) := by
  refine nextOk_onCur.2 fun k _ p _ => ?_
  split
  · simpa using h
  refine State.issue_memOk h _ _ _ _ fun vals c => ?_
  extract_lets v at_ s1 t
  have h1 : s1.MemOk := State.releaseStores_memOk h k
  clear_value s1
  (repeat' split) <;> simp [h, h1]

@[simp] theorem execTaponR_memOk (h : s.MemOk) (d : Reg) (a : Src) : NextOk (execTaponR d a s) := by simp [execTaponR, h]

@[simp] theorem execTapoff_memOk (h : s.MemOk) : NextOk (execTapoff s) := by
  refine nextOk_onCur.2 fun k _ p _ => ?_
  split <;> simp [h]

@[simp] theorem State.closeTape_memOk (fold name : Nat) : (s.closeTape fold name).MemOk ↔ s.MemOk := by simp [State.closeTape]

@[simp] theorem execTapoffX_memOk (h : s.MemOk) : NextOk (execTapoffX s) := by simp [execTapoffX, h]

@[simp] theorem execTmark_memOk (h : s.MemOk) (d : Reg) : NextOk (execTmark d s) := by
  refine nextOk_onCur.2 fun k _ p _ => ?_
  split
  · split
    · simpa using h
    refine State.issue_memOk h _ _ _ _ fun _ c => ?_
    split
    · next t _ _ _ u _ _ hu => simp [State.append_memOk h _ _ _ _ _ _ hu]
    · simpa using h
    · exact h
  · simpa using h

@[simp] theorem execTapst_memOk (h : s.MemOk) (d : Reg) (a : Src) : NextOk (execTapst d a s) := by simp [execTapst, h]

@[simp] theorem State.spillTape_memOk (h : s.MemOk) (k : Nat) (p : Proc) (d : Reg) (c : BitVec 16) (owner : Nat) (t : TapeS) :
    (s.spillTape k p d c owner t).MemOk := by simp [State.spillTape, h]

@[simp] theorem execTspill_memOk (h : s.MemOk) (d : Reg) (a : Src) : NextOk (execTspill d a s) := by
  refine nextOk_onCur.2 fun k _ p _ => State.issue_memOk h _ _ _ _ fun vals c => ?_
  dsimp only
  (repeat' split) <;> simp [h]

@[simp] theorem State.endTapeUse_memOk (h : s.MemOk) (k : Nat) (p : Proc) (h_ : Hold) (v : Word) :
    (s.endTapeUse k p h_ v).MemOk := by simp [State.endTapeUse, h]

@[simp] theorem spillAck_memOk (h : s.MemOk) (name : Nat) (ok : Bool) : (spillAck name ok s).MemOk := by
  refine State.modNamed_memOk h _ fun k p t ht => ?_
  split
  · split
    · exact ht
    extract_lets fold upto ls old
    split
    · extract_lets bad bytes put hurt u0 u u1
      have written (new : List Byte) : (put new).MemOk := by
        refine memOk_foldl ht (fun u x hu => ?_) _
        split <;> simp [hu]
      have hu : u.MemOk := written _
      have hu1 : u1.MemOk := by
        refine memOk_foldl hu (fun v x hv => ?_) _
        (repeat' split) <;> simp [hv]
      clear_value u1 put bad
      split
      · simp [written]
      · simp [hu1]
    · simp [ht]
  · exact ht

/-! ### Reverse -/

theorem State.tapeWrite_memOk (h : s.MemOk) (a : Agent) (name va : Nat) (bs : List Byte) :
    ∀ s', (s.tapeWrite a name va bs) = some s' → s'.MemOk := by
  refine List.foldlRecOn (motive := fun o : Option State => ∀ s', o = some s' → s'.MemOk) _ _ ?_ fun o ho x _ => ?_
  · rintro _ ⟨⟩
    exact h
  · split
    · simp
    · next t =>
      (repeat' split) <;> simp [ho t rfl]

@[simp] theorem State.tapeLost_memOk (a : Agent) (va : Nat) : (s.tapeLost a va).MemOk ↔ s.MemOk := by
  unfold State.tapeLost
  split <;> simp

@[simp] theorem State.reverseLoad_memOk (h : s.MemOk) (p : Proc) (t : TapeS) (w : RevWork) : (s.reverseLoad p t w).s.MemOk := by
  unfold State.reverseLoad
  split
  · exact h
  · extract_lets a lay f es n r
    have hr : r.1.s.MemOk := by
      refine List.foldlRecOn (motive := fun acc : RevDone × Nat => acc.1.s.MemOk) _ _ h fun acc hacc e _ => ?_
      dsimp only
      split
      · exact hacc
      split
      · exact hacc
      split
      · next u hu => exact State.tapeWrite_memOk hacc _ _ _ _ _ hu
      · exact hacc
    split <;> exact hr

@[simp] theorem State.storeGrads_memOk (h : s.MemOk) (core : Nat) (g : Grads) : (s.storeGrads core g).MemOk := by
  refine memOk_foldl h (fun t n ht => ?_) _
  rw [State.modTileAt_memOk]
  exact memOk_foldl ht (fun u i hu => State.putRow_memOk hu _ _ _ _ _) _

@[simp] theorem State.fillBuffer_memOk (h : s.MemOk) (core : Nat) (t : TapeS) (o : RevOps) : (s.fillBuffer core t o).MemOk := by
  refine memOk_foldl h (fun t x ht => ?_) _
  split <;> simp [ht]

theorem State.applyRecord_memOk (h : s.MemOk) (p : Proc) (t : TapeS) (w : RevWork) : ∀ x, (s.applyRecord p t w) = .ok x → x.s.MemOk := by
  unfold State.applyRecord
  dsimp only
  (repeat' split) <;> simp [h]

@[simp] theorem State.pauseWalk_memOk (k : Nat) (p : Proc) : (s.pauseWalk k p).MemOk ↔ s.MemOk := by simp [State.pauseWalk]

@[simp] theorem State.trapWalk_memOk (k : Nat) (p : Proc) (cause : Nat) (eval : Word) (va : Option Nat) :
    (s.trapWalk k p cause eval va).MemOk ↔ s.MemOk := by
  unfold State.trapWalk
  split <;> simp

@[simp] theorem State.stopWalk_memOk (k : Nat) (p : Proc) (t : TapeS) (e : RevStop) : (s.stopWalk k p t e).MemOk ↔ s.MemOk := by
  unfold State.stopWalk
  split <;> simp

@[simp] theorem State.finishWalk_memOk (h : s.MemOk) (k : Nat) (p : Proc) (t : TapeS) : (s.finishWalk k p t).MemOk := by
  unfold State.finishWalk
  (repeat' split) <;> simp [h]

@[simp] theorem State.nextRecord_memOk (h : s.MemOk) (k : Nat) (p : Proc) (fuel : Nat) (t : TapeS) : (s.nextRecord k p fuel t).MemOk := by
  induction fuel generalizing s t with
  | zero => exact h
  | succ n ih =>
    unfold State.nextRecord
    extract_lets fold
    split
    · simp [h]
    split
    · simp [h]
    split
    · exact ih (by simpa using h) _
    split
    · simp [h]
    · split <;> simp [h]

@[simp] theorem State.walkOn_memOk (h : s.MemOk) (k : Nat) (p : Proc) (t : TapeS) : (s.walkOn k p t).MemOk := by simp [State.walkOn, h]

@[simp] theorem State.passRecord_memOk (fold name plen : Nat) (fl : FlagSet) : (s.passRecord fold name plen fl).MemOk ↔ s.MemOk := Iff.rfl

@[simp] theorem State.endRecord_memOk (h : s.MemOk) (k : Nat) (p : Proc) (t : TapeS) : (s.endRecord k p t).MemOk := by
  unfold State.endRecord
  extract_lets fold s0
  have h0 : s0.MemOk := by simpa [s0] using h
  split
  · simpa using h0
  split
  · simpa using h0
  split
  · simpa using h0
  · next d hd =>
    extract_lets u
    have hu : u.MemOk := by simpa [u] using State.applyRecord_memOk h _ _ _ _ hd
    clear_value u
    split
    · simpa using hu
    · split <;> simp [hu]

@[simp] theorem State.pollGang_memOk (h : s.MemOk) (k : Nat) (p : Proc) (t : TapeS) (ordinal : Nat) : (s.pollGang k p t ordinal).MemOk := by
  unfold State.pollGang
  (repeat' split) <;> simp [h]

@[simp] theorem State.endGang_memOk (h : s.MemOk) (p : Proc) (ordinal : Nat) : (s.endGang p ordinal).MemOk := by
  unfold State.endGang
  extract_lets ms size s1 gs out
  have h1 : s1.MemOk := memOk_foldl h (fun u m hu => State.fillBuffer_memOk hu _ _ _) _
  split
  · exact memOk_foldl h (fun u e hu => by simpa using hu) _
  · refine memOk_foldl h1 (fun u m hu => ?_) _
    extract_lets fold g
    simp [hu]

@[simp] theorem reverseRecord_memOk (h : s.MemOk) (name : Nat) : (reverseRecord name s).MemOk := by
  refine State.modNamed_memOk h _ fun k p t ht => ?_
  (repeat' split) <;> simp [ht]

@[simp] theorem execReverse_memOk (h : s.MemOk) (d : Reg) (a : Src) : NextOk (execReverse d a s) := by
  refine nextOk_onCur.2 fun k _ p _ => ?_
  split
  · simpa using h
  refine State.issue_memOk h _ _ _ _ fun vals c => ?_
  split
  · simpa using h
  · extract_lets v hd
    split
    · split <;> simp [h]
    · split <;> simp +zetaDelta [h]

/-! ### Spe -/

@[simp] theorem State.modSpe_memOk (fold : Nat) (f : SpeS → SpeS) : (s.modSpe fold f).MemOk ↔ s.MemOk := Iff.rfl

@[simp] theorem State.modJob_memOk (fold name : Nat) (f : SpeJob → SpeJob) : (s.modJob fold name f).MemOk ↔ s.MemOk := Iff.rfl

@[simp] theorem State.dropJob_memOk (fold name : Nat) : (s.dropJob fold name).MemOk ↔ s.MemOk := Iff.rfl

@[simp] theorem State.speFail_memOk (fold : Nat) (j : SpeJob) (eval : Word) :
    (s.speFail fold j eval).MemOk ↔ s.MemOk := by simp [State.speFail]

@[simp] theorem State.speDone_memOk (fold : Nat) (j : SpeJob) : (s.speDone fold j).MemOk ↔ s.MemOk := Iff.rfl

@[simp] theorem State.speWrite_memOk (h : s.MemOk) (fold : Nat) (j : SpeJob) (x : Nat × Word) :
    (s.speWrite fold j x).MemOk := by simp [State.speWrite, h]

@[simp] theorem State.speWrites_memOk (fold : Nat) {acc : State × Tab Nat} (hacc : acc.1.MemOk) (name : Nat) :
    (State.speWrites fold acc name).1.MemOk := by
  unfold State.speWrites
  dsimp only
  split
  · exact hacc
  split
  · exact hacc
  · dsimp only
    generalize hs : List.foldl _ _ _ = t
    have ht : t.MemOk := hs ▸ memOk_foldl (by simpa using hacc) (fun t x ht => State.speWrite_memOk ht _ _ _) _
    split
    · split <;> simp [ht]
    · exact ht

@[simp] theorem State.speConvert_memOk (fold : Nat) (j : SpeJob) : (s.speConvert fold j).MemOk ↔ s.MemOk := by
  unfold State.speConvert
  extract_lets src dst
  split <;> simp

@[simp] theorem State.speStore_memOk (fold : Nat) (j : SpeJob) : (s.speStore fold j).MemOk ↔ s.MemOk := by
  unfold State.speStore
  split <;> simp

@[simp] theorem State.speReads_memOk (fold : Nat) {acc : State × Tab Nat} (hacc : acc.1.MemOk) (name : Nat) :
    (State.speReads fold acc name).1.MemOk := by
  unfold State.speReads
  (repeat' split) <;> simp [hacc]

@[simp] theorem State.speBegin_memOk (fold name : Nat) : (s.speBegin fold name).MemOk ↔ s.MemOk := by
  unfold State.speBegin
  dsimp only
  (repeat' split) <;> simp

@[simp] theorem State.speScratch_memOk (h : s.MemOk) (fold name : Nat) : (s.speScratch fold name).MemOk := by
  unfold State.speScratch
  split
  · exact h
  split
  · exact h
  · extract_lets t b
    have ht : t.MemOk := memOk_foldl h (fun u x hu => memOk_writeNum hu _ _ _) _
    split <;> simp [ht]

@[simp] theorem State.speCycle_memOk (h : s.MemOk) (fold : Nat) : (s.speCycle fold).MemOk := by
  unfold State.speCycle
  extract_lets enter order modes s1 s2 w r g t
  have h1 : s1.MemOk := memOk_foldl h (fun t n ht => by simpa using ht) _
  have h2 : s2.MemOk := memOk_foldl h1 (fun t n ht => State.speScratch_memOk ht _ _) _
  have hw : w.1.MemOk := List.foldlRecOn (motive := fun acc : State × Tab Nat => acc.1.MemOk) order _ h2
    fun acc hacc n _ => State.speWrites_memOk _ hacc _
  have hr : r.1.MemOk := List.foldlRecOn (motive := fun acc : State × _ => acc.1.MemOk) order _ hw
    fun acc hacc n _ => State.speReads_memOk _ hacc _
  simpa [t] using hr

@[simp] theorem State.speCycles_memOk (h : s.MemOk) : (s.speCycles).MemOk := by
  refine memOk_foldl h (fun t x ht => ?_) _
  simp [ht]

@[simp] theorem speTreeEntry_memOk (fold name : Nat) : (speTreeEntry fold name s).MemOk ↔ s.MemOk := by
  unfold speTreeEntry
  dsimp only
  (repeat' split) <;> simp

@[simp] theorem speRetire_memOk (h : s.MemOk) (fold name : Nat) : (speRetire fold name s).MemOk := by
  unfold speRetire
  split
  · exact h
  split
  · exact h
  · refine State.modNamed_memOk (by simpa using h) _ fun k p t ht => ?_
    split <;> simp [ht]

@[simp] theorem State.handOver_memOk (h : s.MemOk) (k : Nat) (p : Proc) (c : BitVec 16) (dst : Option Reg) (j : SpeJob) :
    (s.handOver k p c dst j).MemOk := by simp [State.handOver, h]

@[simp] theorem State.speIssue_memOk (h : s.MemOk) (k : Nat) (p : Proc) (fs : List Field) (dst : List Reg)
    {go : List Word → BitVec 16 → State} (hgo : ∀ x y, (go x y).MemOk) :
    (s.speIssue k p fs dst go).MemOk := by simp [State.speIssue, h, hgo]

@[simp] theorem State.scratchCheck_memOk {go : State} (h : s.MemOk) (hgo : go.MemOk) (k : Nat) (p : Proc) (v : Word) (count : Nat) :
    (s.scratchCheck k p v count go).MemOk := by simp [State.scratchCheck, h, hgo]

@[simp] theorem State.speMove_memOk (h : s.MemOk) (k : Nat) (p : Proc) (fn : Nat) (a b : Src) : (s.speMove k p fn a b).MemOk := by
  refine State.speIssue_memOk h _ _ _ _ fun vals c => ?_
  dsimp only
  split <;> simp [h]

@[simp] theorem execSpld_memOk (h : s.MemOk) (a b : Src) : NextOk (execSpld a b s) := by simp [execSpld, h]

@[simp] theorem execSpst_memOk (h : s.MemOk) (a b : Src) : NextOk (execSpst a b s) := by simp [execSpst, h]

@[simp] theorem execSpw_memOk (h : s.MemOk) (a b : Src) : NextOk (execSpw a b s) := by simp [execSpw, h]

@[simp] theorem execSpldZ_memOk (h : s.MemOk) (a : Src) : NextOk (execSpldZ a s) := by simp [execSpldZ, h]

@[simp] theorem State.speEval_memOk (h : s.MemOk) (k : Nat) (p : Proc) (fn : Nat) (d : Reg) (a : Src) (ftz daz : Bool) :
    (s.speEval k p fn d a ftz daz).MemOk := by simp [State.speEval, h]

@[simp] theorem execSpu_memOk (h : s.MemOk) (d : Reg) (a : Src) (z y : BitVec 1) : NextOk (execSpu d a z y s) := by simp [execSpu, h]

@[simp] theorem execSpd_memOk (h : s.MemOk) (d : Reg) (a : Src) (z y : BitVec 1) : NextOk (execSpd d a z y s) := by simp [execSpd, h]

@[simp] theorem execSpmode_memOk (h : s.MemOk) (d : Reg) (a b : Src) : NextOk (execSpmode d a b s) := by simp [execSpmode, h]

@[simp] theorem execSpcvt_memOk (h : s.MemOk) (a b : Src) (z y : BitVec 1) : NextOk (execSpcvt a b z y s) := by simp [execSpcvt, h]

@[simp] theorem execSpstat_memOk (h : s.MemOk) (d : Reg) (c : BitVec 1) : NextOk (execSpstat d c s) := by simp [execSpstat, h]

/-! ### Release -/

@[simp] theorem State.cancelTransfers_memOk (h : s.MemOk) (p : Proc) : (s.cancelTransfers p).MemOk := by
  unfold State.cancelTransfers
  extract_lets mine t u
  have ht : t.MemOk := h
  have hu : u.MemOk := by
    refine memOk_foldl ht (fun v e hv => ?_) _
    (repeat' split) <;> simp [hv]
  simpa using hu

@[simp] theorem State.freeTiles_memOk (h : s.MemOk) (p : Proc) : (s.freeTiles p).MemOk := by
  refine memOk_foldl h (fun t n ht => ?_) _
  dsimp only
  split
  · rw [State.modTileAt_memOk]
    split <;> simp [ht]
  · exact ht

@[simp] theorem State.freeBanks_memOk (h : s.MemOk) (p : Proc) : (s.freeBanks p).MemOk := by
  refine memOk_foldl h (fun t k ht => ?_) _
  dsimp only
  rw [State.modBank_memOk]
  (repeat' split) <;> simp [ht]

@[simp] theorem State.freeRuns_memOk (h : s.MemOk) (p : Proc) : (s.freeRuns p).MemOk := by
  unfold State.freeRuns
  extract_lets stop t
  have ht : t.MemOk := h
  split
  · exact ht
  · exact memOk_foldl ht (fun u o hu => State.gangFail_memOk hu _ _ _) _

@[simp] theorem State.freeTape_memOk (h : s.MemOk) (k : Nat) (p : Proc) : (s.freeTape k p).MemOk := by
  unfold State.freeTape
  split <;> simp [h]

@[simp] theorem State.freeSpe_memOk (p : Proc) : (s.freeSpe p).MemOk ↔ s.MemOk := by
  unfold State.freeSpe
  split <;> simp

@[simp] theorem State.freeEngines_memOk (h : s.MemOk) (k : Nat) (p : Proc) : (s.freeEngines k p).MemOk := by
  unfold State.freeEngines
  extract_lets t u
  have ht : t.MemOk := by
    refine State.discardBundle_memOk ((State.freeSpe_memOk p).2 ?_) _
    exact State.freeTiles_memOk (State.freeBanks_memOk (State.freeRuns_memOk (State.cancelTransfers_memOk (State.freeTape_memOk h k p) p) p) p) p
  exact memOk_foldl (State.deleteEnds_memOk ht p) (fun v c hv => (State.runCommands_memOk _ _).2 hv) _

@[simp] theorem State.moveTiles_memOk (h : s.MemOk) (p : Proc) (core : Nat) : (s.moveTiles p core).MemOk := by
  refine State.freeBanks_memOk (memOk_foldl h (fun t n ht => ?_) _) _
  dsimp only
  split <;> simp [ht]

@[simp] theorem State.moveReports_memOk (p : Proc) (core : Nat) : (s.moveReports p core).MemOk ↔ s.MemOk := Iff.rfl

@[simp] theorem State.adopt_memOk (h : s.MemOk) (p : Proc) (core : Nat) : (s.adopt p core).MemOk := by
  unfold State.adopt
  rw [State.moveReports_memOk]
  exact State.moveTiles_memOk (memOk_getD h (State.moveEnds_memOk h _ _)) _ _

/-! ### Pens -/

@[simp] theorem State.swapOut_memOk (k : Nat) : (s.swapOut k).MemOk ↔ s.MemOk := by
  unfold State.swapOut
  (repeat' split) <;> simp

@[simp] theorem State.swapIn_memOk (k i : Nat) : (s.swapIn k i).MemOk ↔ s.MemOk := by
  unfold State.swapIn
  dsimp only
  (repeat' split) <;> simp

@[simp] theorem State.evict_memOk (e : Nat × Proc) : (s.evict e).MemOk ↔ s.MemOk := by simp [State.evict]

@[simp] theorem State.fillPen_memOk (core n fuel : Nat) : (s.fillPen core n fuel).MemOk ↔ s.MemOk := by
  induction fuel generalizing s with
  | zero => rfl
  | succ n ih =>
    unfold State.fillPen
    (repeat' split) <;> simp +zetaDelta [ih]

@[simp] theorem State.urgentFill_memOk (core fuel : Nat) : (s.urgentFill core fuel).MemOk ↔ s.MemOk := by
  induction fuel generalizing s with
  | zero => rfl
  | succ n ih =>
    unfold State.urgentFill
    (repeat' split) <;> simp +zetaDelta [ih]

@[simp] theorem State.fillSlots_memOk (core : Nat) : (s.fillSlots core).MemOk ↔ s.MemOk := by
  unfold State.fillSlots
  rw [State.urgentFill_memOk, memOk_foldl_iff fun u n => State.fillPen_memOk _ _ _]
  simp

@[simp] theorem State.withdrawWfw_memOk (p : Proc) : (s.withdrawWfw p).MemOk ↔ s.MemOk := Iff.rfl

@[simp] theorem State.takeSuspend_memOk (h : s.MemOk) (k : Nat) (p : Proc) : (s.takeSuspend k p).MemOk := by simp [State.takeSuspend, h]

@[simp] theorem State.dropRequests_memOk (k : Nat) (p : Proc) : (s.dropRequests k p).MemOk ↔ s.MemOk := by
  unfold State.dropRequests
  split <;> simp

@[simp] theorem State.takeMigrate_memOk (h : s.MemOk) (k : Nat) (p : Proc) (m : Mig) :
    (s.takeMigrate k p m).MemOk := by simp [State.takeMigrate, h]

@[simp] theorem State.boundaryStep_memOk (h : s.MemOk) (core : Nat) (e : Nat × Proc) : (s.boundaryStep core e).MemOk := by
  unfold State.boundaryStep
  split
  · exact h
  · next p hp =>
    extract_lets s0 s1
    have h0 : s0.MemOk := memOk_foldl h (fun t q ht => by split <;> simp [ht]) _
    have h1 : s1.MemOk := by
      unfold s1
      split <;> simp [h0]
    clear_value s1
    (repeat' split) <;> simp [h1]

@[simp] theorem rotationBoundary_memOk (h : s.MemOk) (core : Nat) : (rotationBoundary core s).MemOk := by
  unfold rotationBoundary
  extract_lets c s1 s2 now s3
  have h1 : s1.MemOk := by
    unfold s1
    split <;> simp [h]
  have h2 : s2.MemOk := memOk_foldl h1 (fun t e ht => State.boundaryStep_memOk ht _ _) _
  have h3 : s3.MemOk := by simpa [s3] using h2
  split <;> simp [h3]

@[simp] theorem quantumExpiry_memOk (core slot : Nat) : (quantumExpiry core slot s).MemOk ↔ s.MemOk := by
  unfold quantumExpiry
  split <;> simp

@[simp] theorem budgetExhausted_memOk (core : Nat) : (budgetExhausted core s).MemOk ↔ s.MemOk := Iff.rfl

@[simp] theorem urgentWindowEnd_memOk (core : Nat) : (urgentWindowEnd core s).MemOk ↔ s.MemOk := by simp [urgentWindowEnd]

/-! ### Groups -/

@[simp] theorem State.needS_memOk {go : State} (h : s.MemOk) (hgo : go.MemOk) (k : Nat) (p : Proc) :
    (s.needS k p go).MemOk := by simp [State.needS, h, hgo]

@[simp] theorem barrierArrival_memOk (h : s.MemOk) (gid name : Nat) : (barrierArrival gid name s).MemOk := by
  unfold barrierArrival
  split <;> simp [h]

@[simp] theorem State.arrive_memOk (h : s.MemOk) (k : Nat) (p : Proc) (g : Group) : (s.arrive k p g).MemOk := by simp [State.arrive, h]

@[simp] theorem execGarr_memOk (h : s.MemOk) (d : Reg) : NextOk (execGarr d s) := by
  refine nextOk_onCur.2 fun k _ p _ => State.issue_memOk h _ _ _ _ fun vals c => ?_
  split <;> simp [h]

@[simp] theorem execGwait_memOk (h : s.MemOk) (a : Src) : NextOk (execGwait a s) := by
  refine nextOk_onCur.2 fun k _ p _ => ?_
  split <;> simp [h]

@[simp] theorem execGbar_memOk (h : s.MemOk) (d : Reg) : NextOk (execGbar d s) := by
  refine nextOk_onCur.2 fun k _ p _ => ?_
  split <;> simp [h]

@[simp] theorem State.setErr_memOk (p : Proc) (bits : Word) : (s.setErr p bits).MemOk ↔ s.MemOk := by simp [State.setErr]

@[simp] theorem State.noteToSource_memOk (p : Proc) (note : Word) : (s.noteToSource p note).MemOk ↔ s.MemOk := by
  unfold State.noteToSource
  split <;> simp

@[simp] theorem State.nextNote_memOk (sup way : Nat) : (s.nextNote sup way).MemOk ↔ s.MemOk := by
  unfold State.nextNote
  split <;> simp

@[simp] theorem notificationDelivery_memOk (h : s.MemOk) (name : Nat) : (notificationDelivery name s).MemOk := by
  unfold notificationDelivery
  (repeat' split) <;> simp [h]

@[simp] theorem execTrapw_memOk (h : s.MemOk) (d : Reg) (w : BitVec 1) : NextOk (execTrapw d w s) := by
  refine nextOk_onCur.2 fun k _ p _ => State.needS_memOk h (State.issue_memOk h _ _ _ _ fun _ c => ?_) _ _
  (repeat' split) <;> simp [h]

@[simp] theorem State.checkTrapw_memOk (h : s.MemOk) (sup : Nat) : (s.checkTrapw sup).MemOk := by
  refine State.modNamed_memOk h _ fun k p t ht => ?_
  split <;> simp [ht]

@[simp] theorem State.leaveGroup_memOk (h : s.MemOk) (gid name : Nat) : (s.leaveGroup gid name).MemOk := by
  unfold State.leaveGroup
  dsimp only
  (repeat' split) <;> simp [h]

@[simp] theorem State.dropSupervisor_memOk (name : Nat) : (s.dropSupervisor name).MemOk ↔ s.MemOk := by simp [State.dropSupervisor]

@[simp] theorem State.dropNotes_memOk (name : Nat) : (s.dropNotes name).MemOk ↔ s.MemOk := by simp [State.dropNotes]

@[simp] theorem State.modLtabOf_memOk (core l : Nat) (f : LaunchEntry → LaunchEntry) : (s.modLtabOf core l f).MemOk ↔ s.MemOk := by
  unfold State.modLtabOf
  split <;> simp

@[simp] theorem State.checkWave_memOk (p : Proc) : (s.checkWave p).MemOk ↔ s.MemOk := by
  unfold State.checkWave
  split <;> simp

@[simp] theorem State.removeRecord_memOk (h : s.MemOk) (k : Nat) (p : Proc) : (s.removeRecord k p).MemOk := by simp [State.removeRecord, h]

@[simp] theorem State.freeProc_memOk (h : s.MemOk) (k : Nat) (p : Proc) (fold : LaunchEntry → LaunchEntry) : (s.freeProc k p fold).MemOk := by
  have hd : (s.dropRequests k p).MemOk := by simpa using h
  have hr := State.removeRecord_memOk (State.freeEngines_memOk hd k p) k p
  unfold State.freeProc
  generalize ((s.dropRequests k p).freeEngines k p).removeRecord k p = t at *
  refine (State.checkWave_memOk _).2 (State.leaveGroup_memOk ((State.dropSupervisor_memOk _).2 ((State.dropNotes_memOk _).2 ?_)) _ _)
  exact (State.modLtab_memOk _ _).2 hr

@[simp] theorem execExit_memOk (h : s.MemOk) (a : Src) : NextOk (execExit a s) := by simp [execExit, h]

@[simp] theorem exitDrainComplete_memOk (h : s.MemOk) (name : Nat) : (exitDrainComplete name s).MemOk := by
  refine State.modNamed_memOk h _ fun k p t ht => ?_
  split <;> simp [ht]

@[simp] theorem State.killProc_memOk (h : s.MemOk) (k : Nat) (p : Proc) : (s.killProc k p).MemOk := by simp [State.killProc, h]

@[simp] theorem State.checkKilled_memOk (gid core : Nat) : (s.checkKilled gid core).MemOk ↔ s.MemOk := by
  unfold State.checkKilled
  split <;> simp

@[simp] theorem killArrival_memOk (h : s.MemOk) (gid core : Nat) : (killArrival gid core s).MemOk := by
  unfold killArrival
  extract_lets t u
  have ht : t.MemOk := by
    refine memOk_foldl h (fun t e ht => ?_) _
    (repeat' split) <;> simp [ht]
  have hu : u.MemOk := by
    unfold u
    split <;> simp [ht]
  simpa using hu

@[simp] theorem groupRelease_memOk (h : s.MemOk) (gid : Nat) : (groupRelease gid s).MemOk := by
  unfold groupRelease
  (repeat' split) <;> simp [h]

@[simp] theorem State.startKill_memOk (gid : Nat) (g : Group) (first : Nat) (d : FillTo) (q : Option BReq) :
    (s.startKill gid g first d q).MemOk ↔ s.MemOk := by simp [State.startKill]

@[simp] theorem execKillg_memOk (h : s.MemOk) (d : Reg) (a : Src) : NextOk (execKillg d a s) := by
  refine nextOk_onCur.2 fun k _ p _ => State.needS_memOk h (State.issueFill_memOk h _ _ _ _ fun vals c => ?_) _ _
  dsimp only
  (repeat' split) <;> simp [h]

/-! ### Deadlock -/

@[simp] theorem State.sendProbes_memOk (p : Proc) (path : List Member) : (s.sendProbes p path).MemOk ↔ s.MemOk := by
  refine memOk_foldl_iff (fun t x => ?_) _
  split <;> simp

@[simp] theorem probeStart_memOk (name episode : Nat) : (probeStart name episode s).MemOk ↔ s.MemOk := by simp [probeStart]

@[simp] theorem State.sendConfirm_memOk (path : List Member) (core index : Nat) : (s.sendConfirm path core index).MemOk ↔ s.MemOk := by
  unfold State.sendConfirm
  (repeat' split) <;> simp

@[simp] theorem probeArrival_memOk (name : Nat) (path : List Member) : (probeArrival name path s).MemOk ↔ s.MemOk := by simp [probeArrival]

@[simp] theorem confirmationArrival_memOk (path : List Member) (index : Nat) : (confirmationArrival path index s).MemOk ↔ s.MemOk := by
  unfold confirmationArrival
  (repeat' split) <;> simp

@[simp] theorem reportArrival_memOk (gid : Nat) (report : List Word) : (reportArrival gid report s).MemOk ↔ s.MemOk := by
  unfold reportArrival
  split
  · extract_lets c r
    split
    · simp
    · exact (memOk_foldl_iff (fun t e => State.after_memOk _ _) _).trans (by simp)
  · refine State.modNamed_memOk_iff _ fun _ p t => ?_
    split <;> simp

@[simp] theorem execDlkq_memOk (h : s.MemOk) (d : Reg) (a : Src) : NextOk (execDlkq d a s) := by
  refine nextOk_onCur.2 fun k _ p _ => State.issue_memOk h _ _ _ _ fun vals c => ?_
  dsimp only
  (repeat' split) <;> simp [h]

/-! ### Processes -/

@[simp] theorem execYield_memOk (h : s.MemOk) : NextOk (execYield s) := by simp [execYield, h]

@[simp] theorem execPrio_memOk (h : s.MemOk) (d : Reg) (a : Src) : NextOk (execPrio d a s) := by simp [execPrio, h]

@[simp] theorem execSleep_memOk (h : s.MemOk) (a : Src) : NextOk (execSleep a s) := by simp [execSleep, h]

@[simp] theorem sleepExpiry_memOk (name : Nat) : (sleepExpiry name s).MemOk ↔ s.MemOk := by simp [sleepExpiry]

@[simp] theorem execPself_memOk (h : s.MemOk) (d : Reg) : NextOk (execPself d s) := by simp [execPself, h]

theorem State.resume_memOk (h : s.MemOk) (k : Nat) (p : Proc) : ∀ s', (s.resume k p) = some s' → s'.MemOk := by
  unfold State.resume
  (repeat' split) <;> simp [h]

@[simp] theorem State.lookAct_memOk (h : s.MemOk) (q : Look) (k : Nat) (p : Proc) : (s.lookAct q k p).1.MemOk := by
  unfold State.lookAct
  split
  · split <;> exact h
  · (repeat' split) <;> simp [h]
  · split
    · exact h
    · split
      · next t ht => exact State.resume_memOk h _ _ _ ht
      · exact h
  · (repeat' split) <;> simp [h]
  · simp [h]

@[simp] theorem nameLookup_memOk (h : s.MemOk) (q : Look) (atHolder : Bool) : (nameLookup q atHolder s).MemOk := by
  unfold nameLookup
  dsimp only
  split
  · simp [h]
  · next k p _ =>
    split
    · simp [h]
    · have ht := State.lookAct_memOk h q k p
      split <;> simp_all

@[simp] theorem nameLookupAnswer_memOk (h : s.MemOk) (q : Look) (result : Word) : (nameLookupAnswer q result s).MemOk := by
  unfold nameLookupAnswer
  split <;> simp [h]

@[simp] theorem State.lookOut_memOk (p : Proc) (q : Look) : (s.lookOut p q).MemOk ↔ s.MemOk := by simp [State.lookOut]

@[simp] theorem State.lookInsn_memOk (h : s.MemOk) (k : Nat) (p : Proc) (op : LookOp) (d : Reg) (name : Word) (arg : Nat) (c : BitVec 16) :
    (s.lookInsn k p op d name arg c).MemOk := by simp [State.lookInsn, h]

@[simp] theorem execPinfo_memOk (h : s.MemOk) (d : Reg) (a : Src) : NextOk (execPinfo d a s) := by simp [execPinfo, h]

@[simp] theorem execSusp_memOk (h : s.MemOk) (d : Reg) (a : Src) : NextOk (execSusp d a s) := by
  refine nextOk_onCur.2 fun k _ p _ => State.needS_memOk h ?_ _ _
  simp [h]

@[simp] theorem execResm_memOk (h : s.MemOk) (d : Reg) (a : Src) : NextOk (execResm d a s) := by
  refine nextOk_onCur.2 fun k _ p _ => State.needS_memOk h ?_ _ _
  simp [h]

@[simp] theorem execMigr_memOk (h : s.MemOk) (d : Reg) (a b : Src) : NextOk (execMigr d a b s) := by
  refine nextOk_onCur.2 fun k _ p _ => State.needS_memOk h ?_ _ _
  simp [h]

@[simp] theorem State.land_memOk (h : s.MemOk) (k : Nat) (p : Proc) (core rec ext vbase : Nat) : (s.land k p core rec ext vbase).MemOk := by
  unfold State.land
  extract_lets ix vec t x q u y v w
  have ht : t.MemOk := by
    unfold t
    split <;> simp [h]
  have hu : u.MemOk := State.removeRecord_memOk (State.adopt_memOk ht _ _) _ _
  have hw : w.MemOk := by simpa [w, v, y] using hu
  rw [State.checkWave_memOk, State.restartStreams_memOk]
  refine State.reopenEnds_memOk ?_ _
  split <;> simp [hw]

@[simp] theorem State.killLanded_memOk (h : s.MemOk) (name : Nat) : (s.killLanded name).MemOk := by
  refine State.modNamed_memOk h _ fun k p t ht => ?_
  split <;> simp [ht]

@[simp] theorem migrationArrival_memOk (h : s.MemOk) (m : Mig) : (migrationArrival m s).MemOk := by
  refine State.modNamed_memOk h _ fun k p t ht => ?_
  dsimp only
  (repeat' split) <;> simp [ht]

@[simp] theorem migrationAnswer_memOk (h : s.MemOk) (m : Mig) (code : Nat) : (migrationAnswer m code s).MemOk := by
  unfold migrationAnswer
  extract_lets way t
  have ht : t.MemOk := by simp [t, h]
  clear_value t
  split
  · exact ht
  · refine State.killLanded_memOk (State.modNamed_memOk ht _ fun k p u hu => ?_) _
    dsimp only
    (repeat' split) <;> simp [hu]

@[simp] theorem State.quiesceInsn_memOk (h : s.MemOk) (k : Nat) (p : Proc) (d : Reg) (vals : List Word) (c : BitVec 16)
    {act : State → List Nat → State} (hact : ∀ t x, t.MemOk → (act t x).MemOk) :
    (s.quiesceInsn k p d vals c act).MemOk := by simp [State.quiesceInsn, h, hact]

@[simp] theorem execQuiesce_memOk (h : s.MemOk) (d : Reg) (a b : Src) : NextOk (execQuiesce d a b s) := by
  refine nextOk_onCur.2 fun k _ p _ => State.needS_memOk h (State.issueFill_memOk h _ _ _ _ fun vals c =>
    State.quiesceInsn_memOk h _ _ _ _ _ fun t fs ht => ?_) _ _
  simp only [State.after_memOk, memOk_mk_iff, wf_mem_iff]
  refine memOk_foldl ht (fun v e hv => ?_) _
  split <;> simpa using hv

@[simp] theorem quiesceStill_memOk (h : s.MemOk) (dest : FillTo) : (quiesceStill dest s).MemOk := by
  unfold quiesceStill
  split <;> simp [h]

@[simp] theorem execQuiesceR_memOk (h : s.MemOk) (d : Reg) (a b : Src) : NextOk (execQuiesceR d a b s) := by
  refine nextOk_onCur.2 fun k _ p _ => State.needS_memOk h (State.issueFill_memOk h _ _ _ _ fun vals c =>
    State.quiesceInsn_memOk h _ _ _ _ _ fun t fs ht => ?_) _ _
  simp only [State.after_memOk, memOk_mk_iff, wf_mem_iff]
  refine memOk_foldl ht (fun v e hv => ?_) _
  (repeat' split) <;> simp [hv, memOk_getD hv (State.resume_memOk hv _ _)]

/-! ### Launch -/

@[simp] theorem State.sendStart_memOk (p : Proc) (l : Launch) (m : StartMsg) (wait : Nat) :
    (s.sendStart p l m wait).MemOk ↔ s.MemOk := by simp [State.sendStart]

@[simp] theorem State.create_memOk (m : StartMsg) : (s.create m).1.MemOk ↔ s.MemOk := by
  unfold State.create
  split <;> simp

@[simp] theorem State.answerStart_memOk (m : StartMsg) (w : Word) : (s.answerStart m w).MemOk ↔ s.MemOk := Iff.rfl

@[simp] theorem State.withdraw_memOk (h : s.MemOk) (m : StartMsg) : (s.withdraw m).MemOk := by
  unfold State.withdraw
  split <;> simp [h]

@[simp] theorem State.answerGang_memOk (m : StartMsg) (ok : Bool) : (s.answerGang m ok).MemOk ↔ s.MemOk := by
  unfold State.answerGang
  split <;> simp

@[simp] theorem start_memOk (h : s.MemOk) (m : StartMsg) : (start m s).MemOk := by
  unfold start
  dsimp only
  (repeat' split) <;> simp [h]

@[simp] theorem startAnswer_memOk (h : s.MemOk) (m : StartMsg) (result : Word) : (startAnswer m result s).MemOk := by simp [startAnswer, h]

@[simp] theorem execSpawn_memOk (h : s.MemOk) (d : Reg) (a b : Src) (n pl : BitVec 1) (v : BitVec 3) :
    NextOk (execSpawn d a b n pl v s) := by
  refine nextOk_onCur.2 fun k _ p _ => State.issueFill_memOk h _ _ _ _ fun vals c => ?_
  extract_lets w t gid deny u
  have ht : t.MemOk := by simpa [t] using h
  have hu : u.MemOk := by simp [u, ht]
  have denied (code : Nat) : (deny code).MemOk := by simp [deny, ht]
  clear_value gid deny u
  split
  · extract_lets lv
    split
    · simpa using h
    split
    · simpa using h
    split
    · simpa using h
    split
    · exact denied _
    split
    · exact denied _
    split
    · exact denied _
    split
    · exact denied _
    · dsimp only
      (repeat' split) <;> simp [hu]
  · simpa using h

@[simp] theorem execGang_memOk (h : s.MemOk) (d : Reg) (a : Src) (e8 : BitVec 1) : NextOk (execGang d a e8 s) := by
  refine nextOk_onCur.2 fun k _ p _ => State.issueFill_memOk h _ _ _ _ fun vals c => ?_
  dsimp only
  (repeat' split) <;> simp [h]

@[simp] theorem launchRecord_memOk (pkg : Nat) (src : Source) (words : List Word) :
    (launchRecord pkg src words s).MemOk ↔ s.MemOk := by simp [launchRecord]

@[simp] theorem launchTakeEffect_memOk (launch : Nat) : (launchTakeEffect launch s).MemOk ↔ s.MemOk := by
  unfold launchTakeEffect
  split <;> simp

@[simp] theorem launchHeader_memOk (h : s.MemOk) (launch core : Nat) : (launchHeader launch core s).MemOk := by
  unfold launchHeader
  dsimp only
  (repeat' split) <;> simp [h]

@[simp] theorem detectionWave_memOk (launch node : Nat) : (detectionWave launch node s).MemOk ↔ s.MemOk := by
  unfold detectionWave
  split <;> simp

@[simp] theorem State.endLaunch_memOk (launch : Nat) (l : Launch) (r : Sums) :
    (s.endLaunch launch l r).MemOk ↔ s.MemOk := by simp [State.endLaunch]

@[simp] theorem detectionAnswer_memOk (launch node : Nat) : (detectionAnswer launch node s).MemOk ↔ s.MemOk := by
  unfold detectionAnswer
  split <;> simp

/-! ### System -/

@[simp] theorem execTrap_memOk (h : s.MemOk) (c : BitVec 12) : NextOk (execTrap c s) := by simp [execTrap, h]

@[simp] theorem execSysc_memOk (h : s.MemOk) (c : BitVec 12) : NextOk (execSysc c s) := by simp [execSysc, h]

@[simp] theorem execEret_memOk (h : s.MemOk) : NextOk (execEret s) := by simp [execEret, h]

@[simp] theorem execBrk_memOk (h : s.MemOk) (c : BitVec 12) : NextOk (execBrk c s) := by simp [execBrk, h]

@[simp] theorem execNop_memOk (h : s.MemOk) : NextOk (execNop s) := by simp [execNop, h]

@[simp] theorem State.askSnapshot_memOk (pkg : Nat) : (s.askSnapshot pkg).MemOk ↔ s.MemOk := by
  unfold State.askSnapshot
  split <;> simp

@[simp] theorem execSnap_memOk (h : s.MemOk) : NextOk (execSnap s) := by simp [execSnap, h]

@[simp] theorem snapshotLatch_memOk (pkg : Nat) : (snapshotLatch pkg s).MemOk ↔ s.MemOk := Iff.rfl

@[simp] theorem execNotAnInstruction_memOk (h : s.MemOk) (w : IWord) :
    NextOk (execNotAnInstruction w s) := by simp [execNotAnInstruction, h]

@[simp] theorem tinvWrite_memOk (core name : Nat) (val : Word) : (tinvWrite core name val s).MemOk ↔ s.MemOk := by
  unfold tinvWrite
  (repeat' split) <;> simp

@[simp] theorem State.restartWalks_memOk (fold : Nat) (v : Inval) : (s.restartWalks fold v).MemOk ↔ s.MemOk := by simp [State.restartWalks]

@[simp] theorem invalidationArrival_memOk (core : Nat) (v : Inval) :
    (invalidationArrival core v s).MemOk ↔ s.MemOk := by simp [invalidationArrival]

@[simp] theorem invalidationComplete_memOk (core : Nat) (v : Inval) :
    (invalidationComplete core v s).MemOk ↔ s.MemOk := by simp [invalidationComplete]

@[simp] theorem State.csrGate_memOk {go : State} (h : s.MemOk) (hgo : go.MemOk) (k : Nat) (p : Proc) (n : Nat) (writes : Bool) :
    (s.csrGate k p n writes go).MemOk := by
  unfold State.csrGate
  (repeat' split) <;> simp [h, hgo]

theorem State.csrPut_memOk (h : s.MemOk) (k : Nat) (p : Proc) (n : Nat) (v : Word) : ∀ s', (s.csrPut k p n v) = some s' → s'.MemOk := by
  unfold State.csrPut
  split
  · simp only [Option.map_eq_some_iff]
    rintro _ ⟨q, -, rfl⟩
    simpa using h
  · exact State.coreCsrWrite_memOk h _ _ _

@[simp] theorem State.csrChange_memOk (h : s.MemOk) (k : Nat) (p : Proc) (d : Reg) (a : Src) (n : Nat) (bits : Bool) (f : Word → Word → Word) :
    (s.csrChange k p d a n bits f).MemOk := by
  refine State.csrGate_memOk h (State.issue_memOk h _ _ _ _ fun vals c => ?_) _ _ _ _
  dsimp only
  split
  · simp [h]
  · next t ht =>
    have ht : t.MemOk := by
      split at ht
      · cases ht
        exact h
      · exact State.csrPut_memOk h _ _ _ _ t ht
    (repeat' split) <;> simp [h, ht]

@[simp] theorem execCsrr_memOk (h : s.MemOk) (d : Reg) (n : BitVec 12) : NextOk (execCsrr d n s) := by
  refine nextOk_onCur.2 fun k _ p _ => State.csrGate_memOk h ?_ _ _ _ _
  simp [h]

@[simp] theorem execCsrw_memOk (h : s.MemOk) (d : Reg) (a : Src) (n : BitVec 12) : NextOk (execCsrw d a n s) := by simp [execCsrw, h]

@[simp] theorem execCsrs_memOk (h : s.MemOk) (d : Reg) (a : Src) (n : BitVec 12) : NextOk (execCsrs d a n s) := by
  refine nextOk_onCur.2 fun k _ p _ => ?_
  split
  · refine State.csrGate_memOk h ?_ _ _ _ _
    simp [h]
  · simp [h]

@[simp] theorem execCsrc_memOk (h : s.MemOk) (d : Reg) (a : Src) (n : BitVec 12) : NextOk (execCsrc d a n s) := by
  refine nextOk_onCur.2 fun k _ p _ => ?_
  split
  · refine State.csrGate_memOk h ?_ _ _ _ _
    simp [h]
  · simp [h]

/-! ### Bothy -/

@[simp] theorem State.countTime_memOk (pkg : Nat) : (s.countTime pkg).MemOk ↔ s.MemOk := by simp [State.countTime]

@[simp] theorem State.extendMeas_memOk (pkg reg : Nat) (item : List Byte) : (s.extendMeas pkg reg item).MemOk ↔ s.MemOk := Iff.rfl

@[simp] theorem State.returnCredit_memOk (dst : EndLoc) (m : Msg) : (s.returnCredit dst m).MemOk ↔ s.MemOk := Iff.rfl

@[simp] theorem State.outMessage_memOk (dst : EndLoc) (m : Msg) : (s.outMessage dst m).MemOk ↔ s.MemOk := by
  unfold State.outMessage
  dsimp only
  (repeat' split) <;> simp

@[simp] theorem State.joinRecord_memOk (pkg : Nat) (src : Source) (bs : List Byte) :
    (s.joinRecord pkg src bs).MemOk ↔ s.MemOk := by simp [State.joinRecord]

@[simp] theorem State.takeRequest_memOk (pkg : Nat) (src : Source) (bs : List Byte) : (s.takeRequest pkg src bs).MemOk ↔ s.MemOk := by
  unfold State.takeRequest
  dsimp only
  (repeat' split) <;> simp

@[simp] theorem State.takeAsks_memOk (pkg : Nat) : (s.takeAsks pkg).MemOk ↔ s.MemOk := by
  unfold State.takeAsks
  extract_lets asks
  refine List.foldlRecOn (motive := fun acc : State × List Source => acc.1.MemOk ↔ s.MemOk) asks _ (by simp) fun acc hacc x _ => ?_
  dsimp only
  split <;> simp [hacc]

@[simp] theorem messageEnqueue_memOk (h : s.MemOk) (dst : EndLoc) (m : Msg) : (messageEnqueue dst m s).MemOk := by simp [messageEnqueue, h]

@[simp] theorem transferComplete_memOk (h : s.MemOk) (t : Transfer) : (transferComplete t s).MemOk := by
  unfold transferComplete
  (repeat' split) <;> simp [h]

@[simp] theorem State.answering_memOk (h : s.MemOk) (q : BReq) (op : Nat) (hostOnly : Bool) {go : State → State}
    (hgo : ∀ t, t.MemOk → (go t).MemOk) : (s.answering q op hostOnly go).MemOk := by simp [State.answering, h, hgo]

@[simp] theorem State.answering_memOk_iff (q : BReq) (op : Nat) (hostOnly : Bool) {go : State → State}
    (hgo : ∀ t, (go t).MemOk ↔ t.MemOk) : (s.answering q op hostOnly go).MemOk ↔ s.MemOk := by
  simp [State.answering, hgo]

@[simp] theorem attest_memOk (q : BReq) (nonce : List Word) : (attest q nonce s).MemOk ↔ s.MemOk := by simp [attest]

@[simp] theorem health_memOk (q : BReq) : (health q s).MemOk ↔ s.MemOk := by simp [health]

@[simp] theorem healthReplClear_memOk (q : BReq) : (healthReplClear q s).MemOk ↔ s.MemOk := by simp [healthReplClear]

@[simp] theorem events_memOk (q : BReq) : (events q s).MemOk ↔ s.MemOk := by simp [events]

@[simp] theorem counters_memOk (q : BReq) : (counters q s).MemOk ↔ s.MemOk := by simp [counters]

@[simp] theorem snapshot_memOk (q : BReq) : (snapshot q s).MemOk ↔ s.MemOk := by simp [snapshot]

@[simp] theorem keyput_memOk (q : BReq) (index count : Nat) (sealed : List Byte) : (keyput q index count sealed s).MemOk ↔ s.MemOk := by
  refine State.answering_memOk_iff _ _ _ fun t => ?_
  extract_lets b n
  split <;> simp

@[simp] theorem feature_memOk (q : BReq) (mask : Word) : (feature q mask s).MemOk ↔ s.MemOk := by simp [feature]

@[simp] theorem State.fence_memOk (pkg fold : Nat) (on : Bool) : (s.fence pkg fold on).MemOk ↔ s.MemOk := by
  unfold State.fence
  extract_lets t u
  have hu : u.MemOk ↔ s.MemOk := by
    unfold u
    split <;> simp [t]
  split <;> simp [hu]

@[simp] theorem fenceFold_memOk (q : BReq) (fold : Nat) : (fenceFold q fold s).MemOk ↔ s.MemOk := by simp [fenceFold]

@[simp] theorem image_memOk (h : s.MemOk) (q : BReq) (cores : List Nat) (img signature : List Byte) :
    (image q cores img signature s).MemOk := by
  refine State.answering_memOk h _ _ _ fun t ht => ?_
  extract_lets good u
  have hu : u.MemOk := memOk_foldl ht (fun v c hv => by simp [hv]) _
  clear_value good
  split <;> simp [ht, hu]

@[simp] theorem killgroup_memOk (q : BReq) (gid : Nat) (launchId : Word) : (killgroup q gid launchId s).MemOk ↔ s.MemOk := by
  unfold killgroup
  (repeat' split) <;> simp

@[simp] theorem imagekey_memOk (q : BReq) (key signature : List Byte) : (imagekey q key signature s).MemOk ↔ s.MemOk := by simp [imagekey]

@[simp] theorem measurementRequest_memOk (pkg register : Nat) (item : List Byte) :
    (measurementRequest pkg register item s).MemOk ↔ s.MemOk := by simp [measurementRequest]

/-! ### Futures -/

@[simp] theorem State.withCell_memOk (h : s.MemOk) (k : Nat) (p : Proc) (a : Word) (needR needW : Bool) {go : State → Nat → State}
    (hgo : ∀ t x, t.MemOk → (go t x).MemOk) : (s.withCell k p a needR needW go).MemOk := by
  unfold State.withCell
  split
  · simp [h]
  · refine State.withPage_memOk h _ _ _ _ _ fun t pa ht => ?_
    dsimp only
    (repeat' split) <;> simp [ht, hgo]

@[simp] theorem execFrd_memOk (h : s.MemOk) (d : Reg) (a : Src) (tb cb : BitVec 1) : NextOk (execFrd d a tb cb s) := by simp [execFrd, h]

@[simp] theorem frdAnswer_memOk (h : s.MemOk) (f : FrdReq) : (frdAnswer f s).MemOk := by
  refine State.modNamed_memOk h _ fun k p t ht => ?_
  split
  · exact ht
  split
  · extract_lets v
    refine State.complete_memOk ?_ _ _
    split <;> simp [ht]
  split
  · simp [ht]
  · extract_lets fo u w u1
    have hu : u.MemOk := by simpa [u] using ht
    have hu1 : u1.MemOk := by
      unfold u1
      split <;> simp [hu]
    split <;> simp [hu1]

@[simp] theorem State.wakeCell_memOk (fo pa : Nat) : (s.wakeCell fo pa).MemOk ↔ s.MemOk := by simp [State.wakeCell]

@[simp] theorem execFwr_memOk (h : s.MemOk) (a b : Src) : NextOk (execFwr a b s) := by
  refine nextOk_onCur.2 fun k _ p _ => State.issue_memOk h _ _ _ _ fun vals c => State.withCell_memOk h _ _ _ _ _ fun t pa ht => ?_
  simp [ht]

@[simp] theorem execFclr_memOk (h : s.MemOk) (a : Src) : NextOk (execFclr a s) := by
  refine nextOk_onCur.2 fun k _ p _ => State.issue_memOk h _ _ _ _ fun vals c => State.withCell_memOk h _ _ _ _ _ fun t pa ht => ?_
  simp [ht]

/-! ### Gateways -/

@[simp] theorem State.peerAct_memOk (gid : Nat) (g : Group) (a b : Word) : (s.peerAct gid g a b).2.MemOk ↔ s.MemOk := Iff.rfl

@[simp] theorem execPeer_memOk (h : s.MemOk) (d : Reg) (a b : Src) : NextOk (execPeer d a b s) := by
  refine nextOk_onCur.2 fun k _ p _ => State.needS_memOk h (State.issueFill_memOk h _ _ _ _ fun vals c => ?_) _ _
  extract_lets x y gid pkg t fail
  have ht : t.MemOk := by simpa [t] using h
  have failed (n : Nat) : (fail n).MemOk := by simp [fail, ht]
  clear_value gid fail t
  split
  · simpa using h
  split
  · exact failed _
  split
  · exact failed _
  split
  · exact failed _
  · simp [ht]

@[simp] theorem peerAnswer_memOk (h : s.MemOk) (dest : FillTo) (val : Word) : (peerAnswer dest val s).MemOk := by simp [peerAnswer, h]

theorem State.keyAct_memOk (h : s.MemOk) (pkg n slot : Nat) (rx switch_ : Bool) (entry : Nat) (dest : FillTo) :
    ∀ x, (s.keyAct pkg n slot rx switch_ entry dest) = .inr x → x.1.MemOk := by
  unfold State.keyAct
  dsimp only
  (repeat' split) <;> simp [h]

@[simp] theorem execLkey_memOk (h : s.MemOk) (d : Reg) (a b : Src) : NextOk (execLkey d a b s) := by
  refine nextOk_onCur.2 fun k _ p _ => ?_
  split
  · simpa using h
  refine State.issueFill_memOk h _ _ _ _ fun vals c => ?_
  extract_lets x y n rx sw ld t way
  have ht : t.MemOk := by simpa [t] using h
  clear_value t way
  split
  · simpa using h
  split
  · simp [ht]
  · next u waits hu =>
    have hu : u.MemOk := State.keyAct_memOk ht _ _ _ _ _ _ _ _ hu
    split <;> simp [hu]

@[simp] theorem keyInstalled_memOk (h : s.MemOk) (dest : FillTo) (val : Word) : (keyInstalled dest val s).MemOk := by simp [keyInstalled, h]

@[simp] theorem execLstat_memOk (h : s.MemOk) (d : Reg) (a : Src) : NextOk (execLstat d a s) := by simp [execLstat, h]

@[simp] theorem State.linkUp_memOk (pkg n peer : Nat) (hop : Nat) : (s.linkUp pkg n peer hop).MemOk ↔ s.MemOk := Iff.rfl

@[simp] theorem linkTraining_memOk (link peer : Nat) (hop : Nat) : (linkTraining link peer hop s).MemOk ↔ s.MemOk := by simp [linkTraining]

@[simp] theorem linkDown24Hours_memOk (link : Nat) : (linkDown24Hours link s).MemOk ↔ s.MemOk := by simp [linkDown24Hours]

@[simp] theorem State.unmatch_memOk (x : Xfer) : (s.unmatch x).MemOk ↔ s.MemOk := by
  unfold State.unmatch
  extract_lets t u v
  have hu : u.MemOk ↔ s.MemOk := by
    unfold u
    split <;> simp [t]
  have hv : v.MemOk ↔ s.MemOk := by
    unfold v
    split <;> simp [hu]
  rw [State.modNamed_memOk_iff, hv]
  intro k p w
  split <;> simp

@[simp] theorem packetStomp_memOk (die : Nat) (dst : EndLoc) (m : Msg) : (packetStomp die dst m s).MemOk ↔ s.MemOk := by
  unfold packetStomp
  split
  · extract_lets t pkg u
    have ht : t.MemOk ↔ s.MemOk := by
      refine (memOk_foldl_iff (fun t e => ?_) _).trans memOk_mk_iff
      split <;> simp
    simpa [u] using ht
  · rfl

@[simp] theorem ackTimeout_memOk (h : s.MemOk) (dst : EndLoc) (m : Msg) : (ackTimeout dst m s).MemOk := by
  unfold ackTimeout
  (repeat' split) <;> simp [h]

/-! ### Power -/

@[simp] theorem State.dropPackage_memOk (pkg : Nat) : (s.dropPackage pkg).MemOk ↔ s.MemOk := by simp [State.dropPackage]

@[simp] theorem State.wipe_memOk (h : s.MemOk) (pkg : Nat) (all : Bool) : (s.wipe pkg all).MemOk := by simp [State.wipe, h]

@[simp] theorem powerOn_memOk (h : s.MemOk) (pkg : Nat) (firmware signature : List Byte) (failedFolds : List Nat) :
    (powerOn pkg firmware signature failedFolds s).MemOk := by simp [powerOn, h]

@[simp] theorem State.releaseWaits_memOk (pkg : Nat) : (s.releaseWaits pkg).MemOk ↔ s.MemOk := by simp [State.releaseWaits]

@[simp] theorem bootComplete_memOk (pkg : Nat) : (bootComplete pkg s).MemOk ↔ s.MemOk := by simp [bootComplete]

@[simp] theorem packageReset_memOk (h : s.MemOk) (pkg : Nat) : (packageReset pkg s).MemOk := by simp [packageReset, h]

@[simp] theorem State.setPower_memOk (h : s.MemOk) (pkg st : Nat) : (s.setPower pkg st).MemOk := by simp [State.setPower, h]

@[simp] theorem power_memOk (h : s.MemOk) (q : BReq) (state : BitVec 2) : (power q state s).MemOk := by
  refine State.answering_memOk h _ _ _ fun t ht => ?_
  split <;> simp [ht]

@[simp] theorem i3cPowerState_memOk (h : s.MemOk) (pkg : Nat) (state : BitVec 2) :
    (i3cPowerState pkg state s).MemOk := by simp [i3cPowerState, h]

@[simp] theorem powerCap_memOk (h : s.MemOk) (pkg : Nat) : (powerCap pkg s).MemOk := by simp [powerCap, h]

@[simp] theorem throttleEnter_memOk (die junction : Nat) : (throttleEnter die junction s).MemOk ↔ s.MemOk := by simp [throttleEnter]

@[simp] theorem throttleExit_memOk (die junction : Nat) : (throttleExit die junction s).MemOk ↔ s.MemOk := by simp [throttleExit]

@[simp] theorem hardLimit_memOk (h : s.MemOk) (die junction : Nat) : (hardLimit die junction s).MemOk := by simp [hardLimit, h]

@[simp] theorem powerFailure_memOk (h : s.MemOk) (pkg : Nat) : (powerFailure pkg s).MemOk := by simp [powerFailure, h]

@[simp] theorem lifeCounterSave_memOk (pkg : Nat) : (lifeCounterSave pkg s).MemOk ↔ s.MemOk := by simp [lifeCounterSave]

@[simp] theorem State.poisonKill_memOk (a : Nat) : (s.poisonKill a).MemOk ↔ s.MemOk := by
  unfold State.poisonKill
  (repeat' split) <;> simp

@[simp] theorem State.countStack_memOk (pkg stack : Nat) (bad : Bool) :
    (s.countStack pkg stack bad).MemOk ↔ s.MemOk := by simp [State.countStack]

@[simp] theorem patrolScrub_memOk (addr : Nat) (corrected uncorrected : Bool) :
    (patrolScrub addr corrected uncorrected s).MemOk ↔ s.MemOk := by
  unfold patrolScrub
  (repeat' split) <;> simp

@[simp] theorem tetherRefusedFrame_memOk (pkg : Nat) (words : List Word) : (tetherRefusedFrame pkg words s).MemOk ↔ s.MemOk := Iff.rfl

@[simp] theorem State.goodFrame_memOk (pkg : Nat) : (s.goodFrame pkg).MemOk ↔ s.MemOk := Iff.rfl

@[simp] theorem tetherMessageFrame_memOk (pkg : Nat) (words : List Word) : (tetherMessageFrame pkg words s).MemOk ↔ s.MemOk := by
  unfold tetherMessageFrame
  dsimp only
  (repeat' split) <;> simp

@[simp] theorem tetherStoreFrame_memOk (h : s.MemOk) (pkg : Nat) (words : List Word) :
    (tetherStoreFrame pkg words s).MemOk := by simp [tetherStoreFrame, h]

@[simp] theorem tetherLoadFrame_memOk (pkg : Nat) (words : List Word) :
    (tetherLoadFrame pkg words s).MemOk ↔ s.MemOk := by simp [tetherLoadFrame]

@[simp] theorem tetherRetry_memOk (pkg : Nat) : (tetherRetry pkg s).MemOk ↔ s.MemOk := Iff.rfl

@[simp] theorem tetherTraining_memOk (pkg : Nat) (seed : Word) (ciphertext : List Byte) :
    (tetherTraining pkg seed ciphertext s).MemOk ↔ s.MemOk := by simp [tetherTraining]

/-! ### Integer -/

@[simp] theorem execAdd_memOk (h : s.MemOk) (d : Reg) (a b : Src) : NextOk (execAdd d a b s) := by simp [execAdd, h]

@[simp] theorem execSub_memOk (h : s.MemOk) (d : Reg) (a b : Src) : NextOk (execSub d a b s) := by simp [execSub, h]

@[simp] theorem execAnd_memOk (h : s.MemOk) (d : Reg) (a b : Src) : NextOk (execAnd d a b s) := by simp [execAnd, h]

@[simp] theorem execOr_memOk (h : s.MemOk) (d : Reg) (a b : Src) : NextOk (execOr d a b s) := by simp [execOr, h]

@[simp] theorem execXor_memOk (h : s.MemOk) (d : Reg) (a b : Src) : NextOk (execXor d a b s) := by simp [execXor, h]

@[simp] theorem execAndn_memOk (h : s.MemOk) (d : Reg) (a b : Src) : NextOk (execAndn d a b s) := by simp [execAndn, h]

@[simp] theorem execShl_memOk (h : s.MemOk) (d : Reg) (a b : Src) : NextOk (execShl d a b s) := by simp [execShl, h]

@[simp] theorem execShr_memOk (h : s.MemOk) (d : Reg) (a b : Src) : NextOk (execShr d a b s) := by simp [execShr, h]

@[simp] theorem execSra_memOk (h : s.MemOk) (d : Reg) (a b : Src) : NextOk (execSra d a b s) := by simp [execSra, h]

@[simp] theorem execRol_memOk (h : s.MemOk) (d : Reg) (a b : Src) : NextOk (execRol d a b s) := by simp [execRol, h]

@[simp] theorem execMul_memOk (h : s.MemOk) (d : Reg) (a b : Src) : NextOk (execMul d a b s) := by simp [execMul, h]

@[simp] theorem execMulh_memOk (h : s.MemOk) (d : Reg) (a b : Src) : NextOk (execMulh d a b s) := by simp [execMulh, h]

@[simp] theorem execMulhu_memOk (h : s.MemOk) (d : Reg) (a b : Src) : NextOk (execMulhu d a b s) := by simp [execMulhu, h]

@[simp] theorem execDiv_memOk (h : s.MemOk) (d : Reg) (a b : Src) : NextOk (execDiv d a b s) := by simp [execDiv, h]

@[simp] theorem execDivu_memOk (h : s.MemOk) (d : Reg) (a b : Src) : NextOk (execDivu d a b s) := by simp [execDivu, h]

@[simp] theorem execRem_memOk (h : s.MemOk) (d : Reg) (a b : Src) : NextOk (execRem d a b s) := by simp [execRem, h]

@[simp] theorem execRemu_memOk (h : s.MemOk) (d : Reg) (a b : Src) : NextOk (execRemu d a b s) := by simp [execRemu, h]

@[simp] theorem execMin_memOk (h : s.MemOk) (d : Reg) (a b : Src) : NextOk (execMin d a b s) := by simp [execMin, h]

@[simp] theorem execMax_memOk (h : s.MemOk) (d : Reg) (a b : Src) : NextOk (execMax d a b s) := by simp [execMax, h]

@[simp] theorem execMinu_memOk (h : s.MemOk) (d : Reg) (a b : Src) : NextOk (execMinu d a b s) := by simp [execMinu, h]

@[simp] theorem execMaxu_memOk (h : s.MemOk) (d : Reg) (a b : Src) : NextOk (execMaxu d a b s) := by simp [execMaxu, h]

@[simp] theorem execClz_memOk (h : s.MemOk) (d : Reg) (a : Src) : NextOk (execClz d a s) := by simp [execClz, h]

@[simp] theorem execCtz_memOk (h : s.MemOk) (d : Reg) (a : Src) : NextOk (execCtz d a s) := by simp [execCtz, h]

@[simp] theorem execPopc_memOk (h : s.MemOk) (d : Reg) (a : Src) : NextOk (execPopc d a s) := by simp [execPopc, h]

@[simp] theorem execBswap_memOk (h : s.MemOk) (d : Reg) (a : Src) : NextOk (execBswap d a s) := by simp [execBswap, h]

@[simp] theorem execSext_memOk (h : s.MemOk) (d : Reg) (a b : Src) : NextOk (execSext d a b s) := by simp [execSext, h]

@[simp] theorem execZext_memOk (h : s.MemOk) (d : Reg) (a b : Src) : NextOk (execZext d a b s) := by simp [execZext, h]

@[simp] theorem execSeq_memOk (h : s.MemOk) (d : Reg) (a b : Src) : NextOk (execSeq d a b s) := by simp [execSeq, h]

@[simp] theorem execSne_memOk (h : s.MemOk) (d : Reg) (a b : Src) : NextOk (execSne d a b s) := by simp [execSne, h]

@[simp] theorem execSlt_memOk (h : s.MemOk) (d : Reg) (a b : Src) : NextOk (execSlt d a b s) := by simp [execSlt, h]

@[simp] theorem execSltu_memOk (h : s.MemOk) (d : Reg) (a b : Src) : NextOk (execSltu d a b s) := by simp [execSltu, h]

@[simp] theorem execSle_memOk (h : s.MemOk) (d : Reg) (a b : Src) : NextOk (execSle d a b s) := by simp [execSle, h]

@[simp] theorem execSleu_memOk (h : s.MemOk) (d : Reg) (a b : Src) : NextOk (execSleu d a b s) := by simp [execSleu, h]

@[simp] theorem execAddi_memOk (h : s.MemOk) (d : Reg) (a : Src) (i : BitVec 16) : NextOk (execAddi d a i s) := by simp [execAddi, h]

@[simp] theorem execAndi_memOk (h : s.MemOk) (d : Reg) (a : Src) (i : BitVec 16) : NextOk (execAndi d a i s) := by simp [execAndi, h]

@[simp] theorem execOri_memOk (h : s.MemOk) (d : Reg) (a : Src) (i : BitVec 16) : NextOk (execOri d a i s) := by simp [execOri, h]

@[simp] theorem execXori_memOk (h : s.MemOk) (d : Reg) (a : Src) (i : BitVec 16) : NextOk (execXori d a i s) := by simp [execXori, h]

@[simp] theorem execMuli_memOk (h : s.MemOk) (d : Reg) (a : Src) (i : BitVec 16) : NextOk (execMuli d a i s) := by simp [execMuli, h]

@[simp] theorem execShli_memOk (h : s.MemOk) (d : Reg) (a : Src) (n : BitVec 6) : NextOk (execShli d a n s) := by simp [execShli, h]

@[simp] theorem execShri_memOk (h : s.MemOk) (d : Reg) (a : Src) (n : BitVec 6) : NextOk (execShri d a n s) := by simp [execShri, h]

@[simp] theorem execSrai_memOk (h : s.MemOk) (d : Reg) (a : Src) (n : BitVec 6) : NextOk (execSrai d a n s) := by simp [execSrai, h]

@[simp] theorem execRoli_memOk (h : s.MemOk) (d : Reg) (a : Src) (n : BitVec 6) : NextOk (execRoli d a n s) := by simp [execRoli, h]

@[simp] theorem execLih_memOk (h : s.MemOk) (d : Reg) (a : Src) (i : BitVec 16) : NextOk (execLih d a i s) := by simp [execLih, h]

@[simp] theorem execSeqi_memOk (h : s.MemOk) (d : Reg) (a : Src) (i : BitVec 14) : NextOk (execSeqi d a i s) := by simp [execSeqi, h]

@[simp] theorem execSlti_memOk (h : s.MemOk) (d : Reg) (a : Src) (i : BitVec 14) : NextOk (execSlti d a i s) := by simp [execSlti, h]

@[simp] theorem execSltui_memOk (h : s.MemOk) (d : Reg) (a : Src) (i : BitVec 14) : NextOk (execSltui d a i s) := by simp [execSltui, h]

/-! ### Region -/

@[simp] theorem scratchState_memOk (regs : List Word) (pc : BitVec 16) : (scratchState regs pc).MemOk := rfl

@[simp] theorem State.putLanding_memOk (u : Nat) (x : Landing) : (s.putLanding u x).MemOk ↔ s.MemOk := Iff.rfl

@[simp] theorem State.installRegion_memOk (u : Nat) (r : Region) : (s.installRegion u r).MemOk ↔ s.MemOk := Iff.rfl

@[simp] theorem State.returnRegion_memOk (r : Region) (e : RegionEnd) : (s.returnRegion r e).MemOk ↔ s.MemOk := Iff.rfl

@[simp] theorem regionArrival_memOk (unit : Nat) (r : Region) : (regionArrival unit r s).MemOk ↔ s.MemOk := by simp [regionArrival]

@[simp] theorem State.endRegion_memOk (u : Nat) (r : Region) (e : RegionEnd) : (s.endRegion u r e).MemOk ↔ s.MemOk := by
  unfold State.endRegion
  dsimp only
  (repeat' split) <;> simp

@[simp] theorem State.markStale_memOk (lines : List Nat) : (s.markStale lines).MemOk ↔ s.MemOk := Iff.rfl

@[simp] theorem State.applyRegion_memOk (h : s.MemOk) (r : Region) (ws : List (Nat × Nat × Nat)) : (s.applyRegion r ws).MemOk := by
  refine memOk_foldl h (fun t x ht => ?_) _
  simp [ht]

@[simp] theorem State.beginAttempt_memOk (u : Nat) (x : LandSlot) (attempt : Nat) : (s.beginAttempt u x attempt).MemOk ↔ s.MemOk := Iff.rfl

@[simp] theorem regionAttempt_memOk (h : s.MemOk) (unit : Nat) (r : Region) (attempt : Nat) : (regionAttempt unit r attempt s).MemOk := by
  unfold regionAttempt
  (repeat' split) <;> simp [h]

@[simp] theorem execRgo_memOk (h : s.MemOk) (d : Reg) (a : Src) (o : BitVec 11) : NextOk (execRgo d a o s) := by
  refine nextOk_onCur.2 fun k _ p _ => ?_
  split
  · simpa using h
  split
  · simpa using h
  refine State.issue_memOk h _ _ _ _ fun vals c => ?_
  split
  · simpa using h
  refine State.withPage_memOk h _ _ _ _ _ fun t pa ht => ?_
  split
  · simpa using ht
  · extract_lets u regs w ck r v x
    have hu : u.MemOk := by simp [u, ht]
    have hx : x.MemOk := by
      unfold x
      split <;> simp [v, hu]
    simpa using hx

@[simp] theorem execRdone_memOk (h : s.MemOk) : NextOk (execRdone s) := by simp [execRdone, h]

@[simp] theorem execRabort_memOk (h : s.MemOk) : NextOk (execRabort s) := by simp [execRabort, h]

@[simp] theorem State.finishRegion_memOk (k : Nat) (p : Proc) (c : RegionCkpt) (e : RegionEnd) :
    (s.finishRegion k p c e).MemOk ↔ s.MemOk := by simp [State.finishRegion]

@[simp] theorem regionReceipt_memOk (name sent : Nat) : (regionReceipt name sent s).MemOk ↔ s.MemOk := by
  refine State.modNamed_memOk_iff _ fun k p t => ?_
  split
  · split
    · rfl
    · split <;> simp
  · rfl

@[simp] theorem regionReturn_memOk (name sent : Nat) (r : RegionEnd) : (regionReturn name sent r s).MemOk ↔ s.MemOk := by
  refine State.modNamed_memOk_iff _ fun k p t => ?_
  split
  · extract_lets lost
    split <;> simp
  · rfl

@[simp] theorem regionReturnTimeout_memOk (name sent : Nat) : (regionReturnTimeout name sent s).MemOk ↔ s.MemOk := by
  refine State.modNamed_memOk_iff _ fun k p t => ?_
  split
  · split
    · rfl
    · split <;> simp
  · rfl

/-! ### VectorMem -/

@[simp] theorem State.lanePages_memOk (k : Nat) (p : Proc) (vas : List Nat) (found : List Word) :
    (s.lanePages k p vas found).1.MemOk ↔ s.MemOk := by
  induction vas generalizing s found with
  | nil => rfl
  | cons va rest ih =>
    unfold State.lanePages
    split
    · rfl
    split
    · rw [ih]
      split <;> simp
    · rfl
    · simp

@[simp] theorem State.endVectorLoad_memOk (h : s.MemOk) (k : Nat) (p : Proc) (c : BitVec 16) (d size : Nat) (ls : List (Nat × Nat × Word)) :
    (s.endVectorLoad k p c d size ls).MemOk := by
  unfold State.endVectorLoad
  split
  · simpa using h
  · exact State.retire_memOk (State.putLanes_memOk (memOk_foldl h (fun t l ht => State.beforeRead_memOk ht _ _ _) _) _ _ _ _) _ _ _

@[simp] theorem State.vectorLoad_memOk (h : s.MemOk) (k : Nat) (p : Proc) (d : BitVec 5) (c : BitVec 16) (size : Nat) (ls : List (Nat × Nat)) :
    (s.vectorLoad k p d c size ls).MemOk := by
  unfold State.vectorLoad
  split
  · simp [h]
  · extract_lets found r
    have hr : r.1.MemOk := by simp [r, h]
    split
    · exact hr
    · extract_lets ts trips last
      split
      · simp [hr]
      · have htrips : trips.1.MemOk := State.trips_memOk hr (fun u a hu => by split <;> simp [hu]) _
        simp [htrips]

@[simp] theorem vectorLoadComplete_memOk (h : s.MemOk) (name : Nat) : (vectorLoadComplete name s).MemOk := by
  refine State.modNamed_memOk h _ fun k p t ht => ?_
  split <;> simp [ht]

@[simp] theorem State.postLines_memOk (p : Proc) (size batch : Nat) (es : List (Nat × Word)) (lines : List Nat) :
    (s.postLines p size batch es lines).MemOk ↔ s.MemOk := by simp [State.postLines]

@[simp] theorem State.postVector_memOk (h : s.MemOk) (k : Nat) (p : Proc) (c : BitVec 16) (size batch : Nat) (es : List (Nat × Word)) :
    (s.postVector k p c size batch es).MemOk := by simp [State.postVector, h]

@[simp] theorem State.vectorStore_memOk (h : s.MemOk) (k : Nat) (p : Proc) (c : BitVec 16) (size : Nat) (ls : List (Nat × Nat)) (data : List Nat) :
    (s.vectorStore k p c size ls data).MemOk := by
  unfold State.vectorStore
  (repeat' split) <;> simp [h]

@[simp] theorem execVld_memOk (h : s.MemOk) (d : BitVec 5) (a : Reg) (o : BitVec 5) (mk e : BitVec 3) :
    NextOk (execVld d a o mk e s) := by simp [execVld, h]

@[simp] theorem execVlds_memOk (h : s.MemOk) (d : BitVec 5) (a b : Reg) (mk e : BitVec 3) :
    NextOk (execVlds d a b mk e s) := by simp [execVlds, h]

@[simp] theorem execVgath_memOk (h : s.MemOk) (d : BitVec 5) (a : Reg) (b : BitVec 5) (mk e : BitVec 3) :
    NextOk (execVgath d a b mk e s) := by simp [execVgath, h]

@[simp] theorem execVst_memOk (h : s.MemOk) (d : BitVec 5) (a : Reg) (o : BitVec 5) (mk e : BitVec 3) :
    NextOk (execVst d a o mk e s) := by simp [execVst, h]

@[simp] theorem execVsts_memOk (h : s.MemOk) (d : BitVec 5) (a b : Reg) (mk e : BitVec 3) :
    NextOk (execVsts d a b mk e s) := by simp [execVsts, h]

@[simp] theorem execVscat_memOk (h : s.MemOk) (d : BitVec 5) (a : Reg) (b : BitVec 5) (mk e : BitVec 3) :
    NextOk (execVscat d a b mk e s) := by simp [execVscat, h]

/-! ### Events -/

@[simp] theorem execRotationBoundary_memOk (h : s.MemOk) (core : Nat) :
    NextOk (execRotationBoundary core s) := by simp [execRotationBoundary, h]

@[simp] theorem execQuantumExpiry_memOk (h : s.MemOk) (core slot : Nat) :
    NextOk (execQuantumExpiry core slot s) := by simp [execQuantumExpiry, h]

@[simp] theorem execBudgetExhausted_memOk (h : s.MemOk) (core : Nat) : NextOk (execBudgetExhausted core s) := by simp [execBudgetExhausted, h]

@[simp] theorem execUrgentWindowEnd_memOk (h : s.MemOk) (core : Nat) : NextOk (execUrgentWindowEnd core s) := by simp [execUrgentWindowEnd, h]

@[simp] theorem execFill_memOk (h : s.MemOk) (dest : FillTo) (val : Word) : NextOk (execFill dest val s) := by simp [execFill, h]

@[simp] theorem execXwrDelivery_memOk (h : s.MemOk) (x : Xwr) : NextOk (execXwrDelivery x s) := by simp [execXwrDelivery, h]

@[simp] theorem execXwrWrite_memOk (h : s.MemOk) (x : Xwr) : NextOk (execXwrWrite x s) := by simp [execXwrWrite, h]

@[simp] theorem execStoreTranslate_memOk (h : s.MemOk) (core id : Nat) :
    NextOk (execStoreTranslate core id s) := by simp [execStoreTranslate, h]

@[simp] theorem execTranslatorLookupDone_memOk (h : s.MemOk) (x : Xlat) :
    NextOk (execTranslatorLookupDone x s) := by simp [execTranslatorLookupDone, h]

@[simp] theorem execPageWalkRead_memOk (h : s.MemOk) (x : Xlat) (lvl : Nat) (entry : Word) :
    NextOk (execPageWalkRead x lvl entry s) := by simp [execPageWalkRead, h]

@[simp] theorem execPageWalkEnd_memOk (h : s.MemOk) (x : Xlat) (r : Option Tlb) :
    NextOk (execPageWalkEnd x r s) := by simp [execPageWalkEnd, h]

@[simp] theorem execStoreAck_memOk (h : s.MemOk) (core id : Nat) : NextOk (execStoreAck core id s) := by simp [execStoreAck, h]

@[simp] theorem execStoreNak_memOk (h : s.MemOk) (core id cause : Nat) : NextOk (execStoreNak core id cause s) := by simp [execStoreNak, h]

@[simp] theorem execSfqCopy_memOk (h : s.MemOk) (name : Nat) : NextOk (execSfqCopy name s) := by simp [execSfqCopy, h]

@[simp] theorem execRemoteAccessArrival_memOk (h : s.MemOk) (x : Access) :
    NextOk (execRemoteAccessArrival x s) := by simp [execRemoteAccessArrival, h]

@[simp] theorem execAmoAtHome_memOk (h : s.MemOk) (x : Access) : NextOk (execAmoAtHome x s) := by simp [execAmoAtHome, h]

@[simp] theorem execSlotRegisterWrite_memOk (h : s.MemOk) (core slot : Nat) (reg : Reg) (val : Word) :
    NextOk (execSlotRegisterWrite core slot reg val s) := by simp [execSlotRegisterWrite, h]

@[simp] theorem execTinvWrite_memOk (h : s.MemOk) (core name : Nat) (val : Word) :
    NextOk (execTinvWrite core name val s) := by simp [execTinvWrite, h]

@[simp] theorem execCsrWindowWrite_memOk (h : s.MemOk) (core csr : Nat) (val : Word) :
    NextOk (execCsrWindowWrite core csr val s) := by simp [execCsrWindowWrite, h]

@[simp] theorem execInvalidationArrival_memOk (h : s.MemOk) (core : Nat) (v : Inval) :
    NextOk (execInvalidationArrival core v s) := by simp [execInvalidationArrival, h]

@[simp] theorem execInvalidationComplete_memOk (h : s.MemOk) (core : Nat) (v : Inval) :
    NextOk (execInvalidationComplete core v s) := by simp [execInvalidationComplete, h]

@[simp] theorem execFrdAnswer_memOk (h : s.MemOk) (f : FrdReq) : NextOk (execFrdAnswer f s) := by simp [execFrdAnswer, h]

@[simp] theorem execLaunchRecord_memOk (h : s.MemOk) (pkg : Nat) (src : Source) (words : List Word) :
    NextOk (execLaunchRecord pkg src words s) := by simp [execLaunchRecord, h]

@[simp] theorem execLaunchTakeEffect_memOk (h : s.MemOk) (launch : Nat) :
    NextOk (execLaunchTakeEffect launch s) := by simp [execLaunchTakeEffect, h]

@[simp] theorem execLaunchHeader_memOk (h : s.MemOk) (launch core : Nat) :
    NextOk (execLaunchHeader launch core s) := by simp [execLaunchHeader, h]

@[simp] theorem execStart_memOk (h : s.MemOk) (m : StartMsg) : NextOk (execStart m s) := by simp [execStart, h]

@[simp] theorem execNameLookup_memOk (h : s.MemOk) (q : Look) (atHolder : Bool) :
    NextOk (execNameLookup q atHolder s) := by simp [execNameLookup, h]

@[simp] theorem execNameLookupAnswer_memOk (h : s.MemOk) (q : Look) (result : Word) :
    NextOk (execNameLookupAnswer q result s) := by simp [execNameLookupAnswer, h]

@[simp] theorem execKillArrival_memOk (h : s.MemOk) (gid core : Nat) : NextOk (execKillArrival gid core s) := by simp [execKillArrival, h]

@[simp] theorem execGroupRelease_memOk (h : s.MemOk) (gid : Nat) : NextOk (execGroupRelease gid s) := by simp [execGroupRelease, h]

@[simp] theorem execMigrationArrival_memOk (h : s.MemOk) (m : Mig) : NextOk (execMigrationArrival m s) := by simp [execMigrationArrival, h]

@[simp] theorem execMigrationAnswer_memOk (h : s.MemOk) (m : Mig) (code : Nat) :
    NextOk (execMigrationAnswer m code s) := by simp [execMigrationAnswer, h]

@[simp] theorem execLocationUpdate_memOk (h : s.MemOk) (key : Nat) (loc : EndLoc) :
    NextOk (execLocationUpdate key loc s) := by simp [execLocationUpdate, h]

@[simp] theorem execForwardExpiry_memOk (h : s.MemOk) (key : Nat) : NextOk (execForwardExpiry key s) := by simp [execForwardExpiry, h]

@[simp] theorem execQuiesceStill_memOk (h : s.MemOk) (dest : FillTo) : NextOk (execQuiesceStill dest s) := by simp [execQuiesceStill, h]

@[simp] theorem execBarrierArrival_memOk (h : s.MemOk) (gid name : Nat) :
    NextOk (execBarrierArrival gid name s) := by simp [execBarrierArrival, h]

@[simp] theorem execExitDrainComplete_memOk (h : s.MemOk) (name : Nat) :
    NextOk (execExitDrainComplete name s) := by simp [execExitDrainComplete, h]

@[simp] theorem execNotificationDelivery_memOk (h : s.MemOk) (name : Nat) :
    NextOk (execNotificationDelivery name s) := by simp [execNotificationDelivery, h]

@[simp] theorem execSleepExpiry_memOk (h : s.MemOk) (name : Nat) : NextOk (execSleepExpiry name s) := by simp [execSleepExpiry, h]

@[simp] theorem execDetectionWave_memOk (h : s.MemOk) (launch node : Nat) :
    NextOk (execDetectionWave launch node s) := by simp [execDetectionWave, h]

@[simp] theorem execDetectionAnswer_memOk (h : s.MemOk) (launch node : Nat) :
    NextOk (execDetectionAnswer launch node s) := by simp [execDetectionAnswer, h]

@[simp] theorem execOfferArrival_memOk (h : s.MemOk) (dst : EndLoc) (m : Msg) :
    NextOk (execOfferArrival dst m s) := by simp [execOfferArrival, h]

@[simp] theorem execOfferResend_memOk (h : s.MemOk) (dst : EndLoc) (m : Msg) :
    NextOk (execOfferResend dst m s) := by simp [execOfferResend, h]

@[simp] theorem execReceiveAnnounce_memOk (h : s.MemOk) (dst : EndLoc) :
    NextOk (execReceiveAnnounce dst s) := by simp [execReceiveAnnounce, h]

@[simp] theorem execTransferDataWritten_memOk (h : s.MemOk) (x : Xfer) :
    NextOk (execTransferDataWritten x s) := by simp [execTransferDataWritten, h]

@[simp] theorem execSendAck_memOk (h : s.MemOk) (m : Msg) (peer : EndLoc) : NextOk (execSendAck m peer s) := by simp [execSendAck, h]

@[simp] theorem execMessageEnqueue_memOk (h : s.MemOk) (dst : EndLoc) (m : Msg) :
    NextOk (execMessageEnqueue dst m s) := by simp [execMessageEnqueue, h]

@[simp] theorem execCreditReturn_memOk (h : s.MemOk) (dst : EndLoc) : NextOk (execCreditReturn dst s) := by simp [execCreditReturn, h]

@[simp] theorem execWakeup_memOk (h : s.MemOk) (dst : EndLoc) : NextOk (execWakeup dst s) := by simp [execWakeup, h]

@[simp] theorem execPeerDeleted_memOk (h : s.MemOk) (dst : EndLoc) : NextOk (execPeerDeleted dst s) := by simp [execPeerDeleted, h]

@[simp] theorem execChbindMove_memOk (h : s.MemOk) (v : EndMove) : NextOk (execChbindMove v s) := by simp [execChbindMove, h]

@[simp] theorem execEndpointInstall_memOk (h : s.MemOk) (v : EndMove) : NextOk (execEndpointInstall v s) := by simp [execEndpointInstall, h]

@[simp] theorem execChbindAck_memOk (h : s.MemOk) (v : EndMove) (code : Nat) : NextOk (execChbindAck v code s) := by simp [execChbindAck, h]

@[simp] theorem execTrecvExpiry_memOk (h : s.MemOk) (name : Nat) : NextOk (execTrecvExpiry name s) := by simp [execTrecvExpiry, h]

@[simp] theorem execTransferComplete_memOk (h : s.MemOk) (t : Transfer) :
    NextOk (execTransferComplete t s) := by simp [execTransferComplete, h]

@[simp] theorem execStreamElement_memOk (h : s.MemOk) (name port : Nat) :
    NextOk (execStreamElement name port s) := by simp [execStreamElement, h]

@[simp] theorem execJoinRecorded_memOk (h : s.MemOk) (dest : FillTo) (core tag key : Nat) (join : Bool) :
    NextOk (execJoinRecorded dest core tag key join s) := by simp [execJoinRecorded, h]

@[simp] theorem execMcastDelivery_memOk (h : s.MemOk) (key : Nat) (m : Msg) :
    NextOk (execMcastDelivery key m s) := by simp [execMcastDelivery, h]

@[simp] theorem execPacketStomp_memOk (h : s.MemOk) (die : Nat) (dst : EndLoc) (m : Msg) :
    NextOk (execPacketStomp die dst m s) := by simp [execPacketStomp, h]

@[simp] theorem execAckTimeout_memOk (h : s.MemOk) (dst : EndLoc) (m : Msg) : NextOk (execAckTimeout dst m s) := by simp [execAckTimeout, h]

@[simp] theorem execServerAnswer_memOk (h : s.MemOk) (r : SvReq) : NextOk (execServerAnswer r s) := by simp [execServerAnswer, h]

@[simp] theorem execDroverRequest_memOk (h : s.MemOk) (drover : Nat) (r : DrReq) :
    NextOk (execDroverRequest drover r s) := by simp [execDroverRequest, h]

@[simp] theorem execSlicePass_memOk (h : s.MemOk) (drover : Nat) (x : Access) :
    NextOk (execSlicePass drover x s) := by simp [execSlicePass, h]

@[simp] theorem execDroverAccessEnd_memOk (h : s.MemOk) (drover : Nat) (x : Access) :
    NextOk (execDroverAccessEnd drover x s) := by simp [execDroverAccessEnd, h]

@[simp] theorem execDroverReplyRelease_memOk (h : s.MemOk) (drover : Nat) :
    NextOk (execDroverReplyRelease drover s) := by simp [execDroverReplyRelease, h]

@[simp] theorem execDispenserQuery_memOk (h : s.MemOk) (disp : Nat) (q : DispAsk) :
    NextOk (execDispenserQuery disp q s) := by simp [execDispenserQuery, h]

@[simp] theorem execDqryAnswer_memOk (h : s.MemOk) (q : DispAsk) (item : Word) :
    NextOk (execDqryAnswer q item s) := by simp [execDqryAnswer, h]

@[simp] theorem execWfwServe_memOk (h : s.MemOk) (name : Nat) (item ordinal arg : Word) :
    NextOk (execWfwServe name item ordinal arg s) := by simp [execWfwServe, h]

@[simp] theorem execDeadlineArm_memOk (h : s.MemOk) (fold : Nat) : NextOk (execDeadlineArm fold s) := by simp [execDeadlineArm, h]

@[simp] theorem execDeadlineFire_memOk (h : s.MemOk) (fold : Nat) (d : Deadline) :
    NextOk (execDeadlineFire fold d s) := by simp [execDeadlineFire, h]

@[simp] theorem execProbeStart_memOk (h : s.MemOk) (name episode : Nat) :
    NextOk (execProbeStart name episode s) := by simp [execProbeStart, h]

@[simp] theorem execProbeArrival_memOk (h : s.MemOk) (name : Nat) (path : List Member) :
    NextOk (execProbeArrival name path s) := by simp [execProbeArrival, h]

@[simp] theorem execConfirmationArrival_memOk (h : s.MemOk) (path : List Member) (index : Nat) :
    NextOk (execConfirmationArrival path index s) := by simp [execConfirmationArrival, h]

@[simp] theorem execReportArrival_memOk (h : s.MemOk) (gid : Nat) (report : List Word) :
    NextOk (execReportArrival gid report s) := by simp [execReportArrival, h]

@[simp] theorem execTetherMessageFrame_memOk (h : s.MemOk) (pkg : Nat) (words : List Word) :
    NextOk (execTetherMessageFrame pkg words s) := by simp [execTetherMessageFrame, h]

@[simp] theorem execTetherStoreFrame_memOk (h : s.MemOk) (pkg : Nat) (words : List Word) :
    NextOk (execTetherStoreFrame pkg words s) := by simp [execTetherStoreFrame, h]

@[simp] theorem execTetherLoadFrame_memOk (h : s.MemOk) (pkg : Nat) (words : List Word) :
    NextOk (execTetherLoadFrame pkg words s) := by simp [execTetherLoadFrame, h]

@[simp] theorem execTetherRefusedFrame_memOk (h : s.MemOk) (pkg : Nat) (words : List Word) :
    NextOk (execTetherRefusedFrame pkg words s) := by simp [execTetherRefusedFrame, h]

@[simp] theorem execTetherRetry_memOk (h : s.MemOk) (pkg : Nat) : NextOk (execTetherRetry pkg s) := by simp [execTetherRetry, h]

@[simp] theorem execTetherTraining_memOk (h : s.MemOk) (pkg : Nat) (seed : Word) (ciphertext : List Byte) :
    NextOk (execTetherTraining pkg seed ciphertext s) := by simp [execTetherTraining, h]

@[simp] theorem execAttest_memOk (h : s.MemOk) (q : BReq) (nonce : List Word) : NextOk (execAttest q nonce s) := by simp [execAttest, h]

@[simp] theorem execHealth_memOk (h : s.MemOk) (q : BReq) : NextOk (execHealth q s) := by simp [execHealth, h]

@[simp] theorem execHealthReplClear_memOk (h : s.MemOk) (q : BReq) : NextOk (execHealthReplClear q s) := by simp [execHealthReplClear, h]

@[simp] theorem execEvents_memOk (h : s.MemOk) (q : BReq) : NextOk (execEvents q s) := by simp [execEvents, h]

@[simp] theorem execCounters_memOk (h : s.MemOk) (q : BReq) : NextOk (execCounters q s) := by simp [execCounters, h]

@[simp] theorem execSnapshot_memOk (h : s.MemOk) (q : BReq) : NextOk (execSnapshot q s) := by simp [execSnapshot, h]

@[simp] theorem execKeyput_memOk (h : s.MemOk) (q : BReq) (index count : Nat) (sealed : List Byte) :
    NextOk (execKeyput q index count sealed s) := by simp [execKeyput, h]

@[simp] theorem execFeature_memOk (h : s.MemOk) (q : BReq) (mask : Word) : NextOk (execFeature q mask s) := by simp [execFeature, h]

@[simp] theorem execFenceFold_memOk (h : s.MemOk) (q : BReq) (fold : Nat) : NextOk (execFenceFold q fold s) := by simp [execFenceFold, h]

@[simp] theorem execImage_memOk (h : s.MemOk) (q : BReq) (cores : List Nat) (img signature : List Byte) :
    NextOk (execImage q cores img signature s) := by simp [execImage, h]

@[simp] theorem execPower_memOk (h : s.MemOk) (q : BReq) (state : BitVec 2) : NextOk (execPower q state s) := by simp [execPower, h]

@[simp] theorem execKillgroup_memOk (h : s.MemOk) (q : BReq) (gid : Nat) (launchId : Word) :
    NextOk (execKillgroup q gid launchId s) := by simp [execKillgroup, h]

@[simp] theorem execImagekey_memOk (h : s.MemOk) (q : BReq) (key signature : List Byte) :
    NextOk (execImagekey q key signature s) := by simp [execImagekey, h]

@[simp] theorem execPowerOn_memOk (h : s.MemOk) (pkg : Nat) (firmware signature : List Byte) (failedFolds : List Nat) :
    NextOk (execPowerOn pkg firmware signature failedFolds s) := by simp [execPowerOn, h]

@[simp] theorem execBootComplete_memOk (h : s.MemOk) (pkg : Nat) : NextOk (execBootComplete pkg s) := by simp [execBootComplete, h]

@[simp] theorem execPackageReset_memOk (h : s.MemOk) (pkg : Nat) : NextOk (execPackageReset pkg s) := by simp [execPackageReset, h]

@[simp] theorem execI3cPowerState_memOk (h : s.MemOk) (pkg : Nat) (state : BitVec 2) :
    NextOk (execI3cPowerState pkg state s) := by simp [execI3cPowerState, h]

@[simp] theorem execPowerCap_memOk (h : s.MemOk) (pkg : Nat) : NextOk (execPowerCap pkg s) := by simp [execPowerCap, h]

@[simp] theorem execThrottleEnter_memOk (h : s.MemOk) (die junction : Nat) :
    NextOk (execThrottleEnter die junction s) := by simp [execThrottleEnter, h]

@[simp] theorem execThrottleExit_memOk (h : s.MemOk) (die junction : Nat) :
    NextOk (execThrottleExit die junction s) := by simp [execThrottleExit, h]

@[simp] theorem execHardLimit_memOk (h : s.MemOk) (die junction : Nat) : NextOk (execHardLimit die junction s) := by simp [execHardLimit, h]

@[simp] theorem execPatrolScrub_memOk (h : s.MemOk) (addr : Nat) (corrected uncorrected : Bool) :
    NextOk (execPatrolScrub addr corrected uncorrected s) := by simp [execPatrolScrub, h]

@[simp] theorem execSnapshotLatch_memOk (h : s.MemOk) (pkg : Nat) : NextOk (execSnapshotLatch pkg s) := by simp [execSnapshotLatch, h]

@[simp] theorem execLifeCounterSave_memOk (h : s.MemOk) (pkg : Nat) : NextOk (execLifeCounterSave pkg s) := by simp [execLifeCounterSave, h]

@[simp] theorem execFlitArrival_memOk (h : s.MemOk) (link : Nat) (f : Flit) :
    NextOk (execFlitArrival link f s) := by simp [execFlitArrival, h]

@[simp] theorem execLinkAckTimeout_memOk (h : s.MemOk) (link : Nat) : NextOk (execLinkAckTimeout link s) := by simp [execLinkAckTimeout, h]

@[simp] theorem execGatewayPacketArrival_memOk (h : s.MemOk) (p : GPacket) :
    NextOk (execGatewayPacketArrival p s) := by simp [execGatewayPacketArrival, h]

@[simp] theorem execLinkLostTimeout_memOk (h : s.MemOk) (x : Access) : NextOk (execLinkLostTimeout x s) := by simp [execLinkLostTimeout, h]

@[simp] theorem execRegionArrival_memOk (h : s.MemOk) (unit : Nat) (r : Region) :
    NextOk (execRegionArrival unit r s) := by simp [execRegionArrival, h]

@[simp] theorem execRegionAttempt_memOk (h : s.MemOk) (unit : Nat) (r : Region) (attempt : Nat) :
    NextOk (execRegionAttempt unit r attempt s) := by simp [execRegionAttempt, h]

@[simp] theorem execRegionReceipt_memOk (h : s.MemOk) (name sent : Nat) :
    NextOk (execRegionReceipt name sent s) := by simp [execRegionReceipt, h]

@[simp] theorem execRegionReturn_memOk (h : s.MemOk) (name sent : Nat) (r : RegionEnd) :
    NextOk (execRegionReturn name sent r s) := by simp [execRegionReturn, h]

@[simp] theorem execRegionReturnTimeout_memOk (h : s.MemOk) (name sent : Nat) :
    NextOk (execRegionReturnTimeout name sent s) := by simp [execRegionReturnTimeout, h]

@[simp] theorem execPermxPair_memOk (h : s.MemOk) (id : Nat) : NextOk (execPermxPair id s) := by simp [execPermxPair, h]

@[simp] theorem execPermxElement_memOk (h : s.MemOk) (id index : Nat) (val : List Byte) :
    NextOk (execPermxElement id index val s) := by simp [execPermxElement, h]

@[simp] theorem execBundlePrepare_memOk (h : s.MemOk) (writer slot : Nat) :
    NextOk (execBundlePrepare writer slot s) := by simp [execBundlePrepare, h]

@[simp] theorem execBundlePhase2_memOk (h : s.MemOk) (writer slot : Nat) :
    NextOk (execBundlePhase2 writer slot s) := by simp [execBundlePhase2, h]

@[simp] theorem execBundleAck_memOk (h : s.MemOk) (writer slot phase : Nat) (ok : Bool) :
    NextOk (execBundleAck writer slot phase ok s) := by simp [execBundleAck, h]

@[simp] theorem execBldAtHome_memOk (h : s.MemOk) (r : BldReq) : NextOk (execBldAtHome r s) := by simp [execBldAtHome, h]

@[simp] theorem execTileTransferComplete_memOk (h : s.MemOk) (core tile : Nat) :
    NextOk (execTileTransferComplete core tile s) := by simp [execTileTransferComplete, h]

@[simp] theorem execDrainComplete_memOk (h : s.MemOk) (core bank : Nat) :
    NextOk (execDrainComplete core bank s) := by simp [execDrainComplete, h]

@[simp] theorem execTileOpComplete_memOk (h : s.MemOk) (core : Nat) : NextOk (execTileOpComplete core s) := by simp [execTileOpComplete, h]

@[simp] theorem execKGroupDone_memOk (h : s.MemOk) (core : Nat) : NextOk (execKGroupDone core s) := by simp [execKGroupDone, h]

@[simp] theorem execGangProductStart_memOk (h : s.MemOk) (gid ordinal : Nat) :
    NextOk (execGangProductStart gid ordinal s) := by simp [execGangProductStart, h]

@[simp] theorem execTileCommandArrival_memOk (h : s.MemOk) (c : TCommand) :
    NextOk (execTileCommandArrival c s) := by simp [execTileCommandArrival, h]

@[simp] theorem execTileCommandAnswer_memOk (h : s.MemOk) (c : TCommand) (accepted : Bool) :
    NextOk (execTileCommandAnswer c accepted s) := by simp [execTileCommandAnswer, h]

@[simp] theorem execReverseRecord_memOk (h : s.MemOk) (name : Nat) : NextOk (execReverseRecord name s) := by simp [execReverseRecord, h]

@[simp] theorem execSpillAck_memOk (h : s.MemOk) (name : Nat) (ok : Bool) : NextOk (execSpillAck name ok s) := by simp [execSpillAck, h]

@[simp] theorem execSpeTreeEntry_memOk (h : s.MemOk) (fold name : Nat) :
    NextOk (execSpeTreeEntry fold name s) := by simp [execSpeTreeEntry, h]

@[simp] theorem execSpeRetire_memOk (h : s.MemOk) (fold name : Nat) : NextOk (execSpeRetire fold name s) := by simp [execSpeRetire, h]

@[simp] theorem execVectorLoadComplete_memOk (h : s.MemOk) (name : Nat) :
    NextOk (execVectorLoadComplete name s) := by simp [execVectorLoadComplete, h]

@[simp] theorem execStartAnswer_memOk (h : s.MemOk) (m : StartMsg) (result : Word) :
    NextOk (execStartAnswer m result s) := by simp [execStartAnswer, h]

@[simp] theorem execPeerAnswer_memOk (h : s.MemOk) (dest : FillTo) (val : Word) :
    NextOk (execPeerAnswer dest val s) := by simp [execPeerAnswer, h]

@[simp] theorem execKeyInstalled_memOk (h : s.MemOk) (dest : FillTo) (val : Word) :
    NextOk (execKeyInstalled dest val s) := by simp [execKeyInstalled, h]

@[simp] theorem execLinkTraining_memOk (h : s.MemOk) (link peer : Nat) (hop : Nat) :
    NextOk (execLinkTraining link peer hop s) := by simp [execLinkTraining, h]

@[simp] theorem execLinkDown24Hours_memOk (h : s.MemOk) (link : Nat) : NextOk (execLinkDown24Hours link s) := by simp [execLinkDown24Hours, h]

@[simp] theorem execPowerFailure_memOk (h : s.MemOk) (pkg : Nat) : NextOk (execPowerFailure pkg s) := by simp [execPowerFailure, h]

@[simp] theorem execMeasurementRequest_memOk (h : s.MemOk) (pkg register : Nat) (item : List Byte) :
    NextOk (execMeasurementRequest pkg register item s) := by simp [execMeasurementRequest, h]

/-! ### Install -/

theorem State.dueEvent_memOk (h : s.MemOk) : ∀ x, (s.dueEvent) = some x → x.2.MemOk := by
  unfold State.dueEvent
  dsimp only
  (repeat' split) <;> simp [h]

/-! ### Timing -/

@[simp] theorem State.occupy_memOk (core : Nat) (i : Instr) : (s.occupy core i).MemOk ↔ s.MemOk := by simp [State.occupy]

/-! ### Select -/

@[simp] theorem State.issueFrom_memOk (h : s.MemOk) (k : Nat) (i : Instr) : (s.issueFrom k i).MemOk := by
  unfold State.issueFrom
  split <;> simp [h]

@[simp] theorem State.openGroup_memOk (k : Nat) : (s.openGroup k).MemOk ↔ s.MemOk := by simp [State.openGroup]

theorem State.beforeIssue_memOk (h : s.MemOk) (k : Nat) (p : Proc) : ∀ s', (s.beforeIssue k p) = some s' → s'.MemOk := by
  unfold State.beforeIssue
  (repeat' split) <;> simp [h]

@[simp] theorem State.tick_memOk (h : s.MemOk) : (s.tick).MemOk := by simp [State.tick, h]

/-! ### A step -/

@[simp] theorem nextOk_fault {f : Fault} : NextOk (.fault f) := nofun

@[simp] theorem nextOk_refused {r : Refusal} : NextOk (.refused r) := nofun

/-- An arm of `exec` is the operation of its instruction, which keeps the form by its own lemma, or a refusal. -/
theorem exec_memOk (h : s.MemOk) (i : Instr) : NextOk (exec i s) := by
  cases i <;> simp [exec, h]

theorem runWord_memOk (h : s.MemOk) (k : Nat) : NextOk (runWord k s) := by
  unfold runWord
  split
  · exact nextOk_next.2 h
  · next p hp =>
    unfold State.issueWord
    split
    · next t ht => exact nextOk_next.2 (State.beforeIssue_memOk h k p t ht)
    · exact exec_memOk (State.issueFrom_memOk h k _) _

theorem step_memOk (h : s.MemOk) : NextOk (step s) := by
  unfold step
  split
  · exact runWord_memOk h _
  split
  · next e t he => exact exec_memOk (State.dueEvent_memOk h _ he) _
  split
  · split
    · exact runWord_memOk ((State.openGroup_memOk _).2 (memOk_mk_iff.2 h)) _
    · exact nextOk_next.2 h
  · exact nextOk_next.2 (State.tick_memOk h)

/-- Settles O8: every operation that a step is made of keeps the form. -/
theorem stepKeepsMemory : Obligations.StepKeepsMemory := fun _ t h e => step_memOk h t e

end Sys2Proof.Machine
end

section
/-! PROOFS. Page walks and stores that fault (04 R79 to R85, R408). -/

namespace Sys2Proof.Machine

/-! ### Lookups after a change -/

theorem core_modCore (s : State) (c j : Nat) (f : CoreS → CoreS) : (s.modCore c f).core j = if j = c then f (s.core c) else s.core j := by
  split
  · next h => rw [h, State.modCore_core_self]
  · next h => exact tgetD_tput_ne _ _ _ h

theorem fold_modFold (s : State) (n m : Nat) (g : FoldS → FoldS) : (s.modFold n g).fold m = if m = n then g (s.fold n) else s.fold m := by
  split
  · next h => rw [h, State.modFold_fold_self]
  · next h => exact tgetD_tput_ne _ _ _ h

@[simp] theorem modCore_named (s : State) (c : Nat) (f : CoreS → CoreS) (n : Nat) : (s.modCore c f).named n = s.named n := rfl
@[simp] theorem modFold_named (s : State) (m : Nat) (f : FoldS → FoldS) (n : Nat) : (s.modFold m f).named n = s.named n := rfl
@[simp] theorem after_named (s : State) (m : Nat) (e : Ev) (n : Nat) : (s.after m e).named n = s.named n := rfl
@[simp] theorem modFold_core (s : State) (m : Nat) (f : FoldS → FoldS) (c : Nat) : (s.modFold m f).core c = s.core c := rfl
@[simp] theorem modCore_fold (s : State) (c : Nat) (f : CoreS → CoreS) (m : Nat) : (s.modCore c f).fold m = s.fold m := rfl
@[simp] theorem after_core (s : State) (m : Nat) (e : Ev) (c : Nat) : (s.after m e).core c = s.core c := rfl
@[simp] theorem putProc_core (s : State) (k : Nat) (p : Proc) (c : Nat) : (s.putProc k p).core c = s.core c := rfl

theorem modNamed_of_named {s : State} {n k : Nat} {p : Proc} (h : s.named n = some (k, p)) (f : Nat → Proc → State → State) :
    s.modNamed n f = f k p s := by
  simp [State.modNamed, h]

theorem modNamed_of_none {s : State} {n : Nat} (h : s.named n = none) (f : Nat → Proc → State → State) : s.modNamed n f = s := by
  simp [State.modNamed, h]

theorem named_eq_some_iff {s : State} {n k : Nat} {p : Proc} : s.named n = some (k, p) ↔ s.keyOf n = some k ∧ s.proc k = some p := by
  unfold State.named
  cases s.keyOf n with
  | none => simp
  | some j =>
    simp only [Option.map_eq_some_iff, Prod.mk.injEq, Option.some.injEq]
    exact ⟨by rintro ⟨q, hq, rfl, rfl⟩; exact ⟨rfl, hq⟩, by rintro ⟨rfl, hq⟩; exact ⟨p, hq, rfl, rfl⟩⟩

theorem proc_of_named {s : State} {n k : Nat} {p : Proc} (h : s.named n = some (k, p)) : s.proc k = some p := (named_eq_some_iff.1 h).2

/-- The process of a name keeps it when its record is replaced. -/
theorem named_putProc {s : State} {n k : Nat} {p : Proc} (h : s.named n = some (k, p)) (q : Proc) : (s.putProc k q).named n = some (k, q) :=
  named_eq_some_iff.2 ⟨(named_eq_some_iff.1 h).1, State.putProc_proc_self s k q⟩

/-! ### Reads of a walk (04 R80, R81) -/

/-- What the rows of a core window show of a fold is its flags and its settings of the deadlock reporter (05 Table 5.16, 08 Table 8.10). -/
theorem coreCsr_modFold (s : State) (m : Nat) {g : FoldS → FoldS} (h1 : ∀ y, (g y).flagSticky = y.flagSticky) (h2 : ∀ y, (g y).flagNow = y.flagNow)
    (h3 : ∀ y, (g y).dlkOff = y.dlkOff) (h4 : ∀ y, (g y).dlkDelay = y.dlkDelay) (c n : Nat) : (s.modFold m g).coreCsr c n = s.coreCsr c n := by
  have hfold : ((s.modFold m g).fold (foldOf c)).flagSticky = (s.fold (foldOf c)).flagSticky ∧
      ((s.modFold m g).fold (foldOf c)).flagNow = (s.fold (foldOf c)).flagNow ∧
      ((s.modFold m g).fold (foldOf c)).dlkOff = (s.fold (foldOf c)).dlkOff ∧
      ((s.modFold m g).fold (foldOf c)).dlkDelay = (s.fold (foldOf c)).dlkDelay := by
    rw [fold_modFold]
    split
    · next h => rw [h]; exact ⟨h1 _, h2 _, h3 _, h4 _⟩
    · exact ⟨rfl, rfl, rfl, rfl⟩
  obtain ⟨e1, e2, e3, e4⟩ := hfold
  have hgtc : (s.modFold m g).gtc = s.gtc := rfl
  have hcore : (s.modFold m g).core c = s.core c := rfl
  unfold State.coreCsr
  simp only [e1, e2, e3, e4, hgtc, hcore]

/-- A fold with one more request for a walk. -/
def FoldS.withWalk (x : Xlat) (y : FoldS) : FoldS := { y with walks := y.walks ++ [x] }

theorem viewWord_withWalk (s : State) (m : Nat) (x : Xlat) (c off : Nat) :
    (s.modFold m (FoldS.withWalk x)).viewWord c off = s.viewWord c off := by
  have hcsr (n : Nat) : (s.modFold m (FoldS.withWalk x)).csrRow c n = s.csrRow c n := by
    unfold State.csrRow
    rw [coreCsr_modFold] <;> intros <;> rfl
  have hext : (s.modFold m (FoldS.withWalk x)).extAt c off = s.extAt c off := rfl
  have hslot (p : Proc) : (s.modFold m (FoldS.withWalk x)).inSlot p = s.inSlot p := rfl
  have hocc (i : Nat) : (s.modFold m (FoldS.withWalk x)).slot i = s.slot i := rfl
  have hep (i : Nat) : (s.modFold m (FoldS.withWalk x)).ep i = s.ep i := rfl
  have hword (e : Ep) (i : Nat) : (s.modFold m (FoldS.withWalk x)).epWord e i = s.epWord e i := rfl
  unfold State.viewWord
  simp only [hcsr, hext, hslot, hocc, hep, hword, State.modFold_tiles, State.modFold_proc]

theorem loadPhys_withWalk (s : State) (m : Nat) (x : Xlat) (a n : Nat) :
    (s.modFold m (FoldS.withWalk x)).loadPhys a n = s.loadPhys a n := by
  have hword (pa : Nat) : (s.modFold m (FoldS.withWalk x)).physWord pa = s.physWord pa := by
    unfold State.physWord
    simp only [viewWord_withWalk, State.modFold_mem]
  have hviewed (pa : Nat) : (s.modFold m (FoldS.withWalk x)).physViewed pa = s.physViewed pa := rfl
  simp only [State.loadPhys, hword, hviewed, State.modFold_mem]

theorem backed_withWalk (s : State) (m : Nat) (x : Xlat) (a n : Nat) :
    (s.modFold m (FoldS.withWalk x)).backed a n = s.backed a n := by
  have hfenced (f : Nat) : ((s.modFold m (FoldS.withWalk x)).fold f).fenced = (s.fold f).fenced := by
    rw [fold_modFold]
    split
    · next h => rw [h]; rfl
    · rfl
  simp only [State.backed, hfenced, State.modFold_packages]

theorem bookAt_rest (s : State) (n pa size : Nat) : { s.bookAt n pa size with drovers := s.drovers } = s := by
  unfold State.bookAt
  split <;> rfl

/-- A read of a walk books its drover and schedules an event. -/
theorem walkRead_rest (s : State) (x : Xlat) (lvl table : Nat) : { s.walkRead x lvl table with agenda := s.agenda, drovers := s.drovers } = s := by
  unfold State.walkRead
  dsimp only
  split
  · rfl
  · exact (congrArg (fun t : State => { t with agenda := s.agenda }) (bookAt_rest s _ _ _) :)

/-- The entry that a walk reads at a level, or the end of the walk where it cannot be read (04 R81, R408). -/
theorem walkRead_dueIn (s : State) (x : Xlat) (lvl table : Nat) {a : Nat} (ha : table + pteIndex x.va lvl * 8 = a) :
    if s.backed a 8 = true ∧ s.poisoned a 8 = false then
      (s.walkRead x lvl table).DueIn (s.walkTime (foldOf x.core) a) (.pageWalkRead x lvl (BitVec.ofNat 64 (s.loadPhys a 8)))
    else (s.walkRead x lvl table).DueIn 1 (.pageWalkEnd x none) := by
  unfold State.walkRead
  rw [ha]
  split
  · next h =>
    simp only [h, Bool.not_true, Bool.false_or, Bool.false_eq_true, if_false]
    exact dueIn_after ..
  · next h =>
    have hbad : (!s.backed a 8 || s.poisoned a 8) = true := by
      cases hb : s.backed a 8 <;> cases hq : s.poisoned a 8 <;> simp_all
    rw [if_pos hbad]
    exact dueIn_after ..

/-- A miss that no walk covers starts one at the table of the address space. -/
theorem translatorLookupDone_starts {s : State} {x : Xlat} (hl : (s.fold (foldOf x.core)).lookup x.asid x.va = none)
    (hw : ∀ y ∈ (s.fold (foldOf x.core)).walks, samePage x y = false) :
    translatorLookupDone x s = (s.modFold (foldOf x.core) (FoldS.withWalk x)).walkRead x 1 x.root := by
  have hany : (s.fold (foldOf x.core)).walks.any (samePage x) = false := List.any_eq_false.2 fun y hy => by simp [hw y hy]
  simp only [translatorLookupDone, hl, hany, Bool.false_eq_true, if_false]
  rfl

theorem walkStarts (s : State) (x : Xlat) (hl : (s.fold (foldOf x.core)).lookup x.asid x.va = none)
    (hw : ∀ y ∈ (s.fold (foldOf x.core)).walks, samePage x y = false) :
    ∃ t : State, exec (.translatorLookupDone x) s = .next t ∧ (t.fold (foldOf x.core)).walks = (s.fold (foldOf x.core)).walks ++ [x] ∧
      (let a := x.root + x.va / 2 ^ 43 % 2 ^ 12 * 8
       if s.backed a 8 = true ∧ s.poisoned a 8 = false then
         t.DueIn (s.walkTime (foldOf x.core) a) (.pageWalkRead x 1 (BitVec.ofNat 64 (s.loadPhys a 8)))
       else t.DueIn 1 (.pageWalkEnd x none)) ∧
      { t with folds := s.folds, agenda := s.agenda, drovers := s.drovers } = s := by
  let u := s.modFold (foldOf x.core) (FoldS.withWalk x)
  have hrest := walkRead_rest u x 1 x.root
  refine ⟨u.walkRead x 1 x.root, congrArg _ (translatorLookupDone_starts hl hw), ?_, ?_, ?_⟩
  · have hfold := congrArg (fun t : State => (t.fold (foldOf x.core)).walks) hrest
    refine Eq.trans hfold ?_
    simp only [u, State.modFold_fold_self]
    rfl
  · have hdue := walkRead_dueIn u x 1 x.root rfl
    simp only [u, backed_withWalk, loadPhys_withWalk] at hdue
    exact hdue
  · exact (congrArg (fun t : State => { t with folds := s.folds }) hrest :)

/-! ### Entries of a walk (04 R80, Table 4.4) -/

theorem walkStep_invalid {asid va lvl : Nat} {e : Word} (h : pteValid e = false) : walkStep asid va lvl e = .fault := by
  simp [walkStep, h]

theorem walkStep_reserved {asid va lvl : Nat} {e : Word} (h : pteReserved e = true) : walkStep asid va lvl e = .fault := by
  simp [walkStep, h]

theorem walkStep_table {asid va lvl : Nat} {e : Word} (hv : pteValid e = true) (hr : pteReserved e = false) (hl : pteLeaf e = false)
    (h32 : pteSz32 e = false) (h3 : lvl < 3) (ha : pteAddr e % 2 ^ 15 = 0) : walkStep asid va lvl e = .table (pteAddr e) := by
  simpa [walkStep, hv, hr, hl, h32, Nat.ne_of_lt h3] using ha

/-- The page of 512 KB that a leaf of level 3 maps. -/
theorem walkStep_page {asid va : Nat} {e : Word} (hv : pteValid e = true) (hr : pteReserved e = false) (hl : pteLeaf e = true)
    (h32 : pteSz32 e = false) (ha : pteAddr e % 2 ^ 19 = 0) :
    walkStep asid va 3 e = .page
      { asid := asid, va := va / 2 ^ 19 * 2 ^ 19, size := 2 ^ 19, pa := pteAddr e,
        r := e.getLsbD 2, w := e.getLsbD 3, u := e.getLsbD 5, g := e.getLsbD 7 } := by
  have hsize : leafSize 3 e = 2 ^ 19 := by simp [leafSize, h32]
  simpa [walkStep, hv, hr, hl, hsize] using ha

/-- The bits of an entry that are 0 in a table entry and in the leaf of a 512 KB page. -/
theorem reserved_of_zeros {e : Word} (h : ∀ i ∈ [4, 6, 8, 9, 10, 11], e.getLsbD i = false) : pteReserved e = false ∧ pteSz32 e = false := by
  simp only [List.forall_mem_cons] at h
  obtain ⟨h4, h6, h8, h9, h10, h11, -⟩ := h
  exact ⟨by simp only [pteReserved, h4, h6, h9, h10, h11, Bool.or_self], h8⟩

theorem reserved_of_mem {e : Word} (h : ∃ i ∈ [4, 6, 9, 10, 11], e.getLsbD i = true) : pteReserved e = true := by
  simp only [List.exists_mem_cons_iff, List.not_mem_nil, false_and, exists_false, or_false] at h
  simpa only [pteReserved, Bool.or_eq_true, or_assoc] using h

/-- What each kind of entry makes of a walk. -/
theorem walkReads (s : State) (x : Xlat) (e : Word) (lvl : Nat) :
    (e.getLsbD 0 = false → exec (.pageWalkRead x lvl e) s = .next (s.after 1 (.pageWalkEnd x none))) ∧
    (e.getLsbD 0 = true → e.getLsbD 1 = false → lvl < 3 → (∀ i ∈ [4, 6, 8, 9, 10, 11], e.getLsbD i = false) → e.toNat / 2 ^ 12 * 2 ^ 12 % 2 ^ 15 = 0 →
      exec (.pageWalkRead x lvl e) s = .next (s.walkRead x (lvl + 1) (e.toNat / 2 ^ 12 * 2 ^ 12))) ∧
    (e.getLsbD 0 = true → e.getLsbD 1 = true → lvl = 3 → (∀ i ∈ [4, 6, 8, 9, 10, 11], e.getLsbD i = false) → e.toNat / 2 ^ 12 * 2 ^ 12 % 2 ^ 19 = 0 →
      exec (.pageWalkRead x lvl e) s = .next (s.after 1 (.pageWalkEnd x (some
        { asid := x.asid, va := x.va / 2 ^ 19 * 2 ^ 19, size := 2 ^ 19, pa := e.toNat / 2 ^ 12 * 2 ^ 12,
          r := e.getLsbD 2, w := e.getLsbD 3, u := e.getLsbD 5, g := e.getLsbD 7 })))) ∧
    (e.getLsbD 0 = true → (∃ i ∈ [4, 6, 9, 10, 11], e.getLsbD i = true) → exec (.pageWalkRead x lvl e) s = .next (s.after 1 (.pageWalkEnd x none))) := by
  have hexec : exec (.pageWalkRead x lvl e) s = .next (pageWalkRead x lvl e s) := rfl
  simp only [hexec, pageWalkRead]
  refine ⟨fun hv => ?_, fun hv hl h3 hz ha => ?_, fun hv hl h3 hz ha => ?_, fun _ hr => ?_⟩
  · rw [walkStep_invalid hv]
  · obtain ⟨hr, h8⟩ := reserved_of_zeros hz
    rw [walkStep_table hv hr hl h8 h3 ha]
    rfl
  · obtain ⟨hr, h8⟩ := reserved_of_zeros hz
    rw [h3, walkStep_page hv hr hl h8 ha]
    rfl
  · rw [walkStep_reserved (reserved_of_mem hr)]

/-! ### The end of a walk (04 R80, R408) -/

/-- A load or atomic that waits for a translation that there is none of takes LOAD_FAULT. -/
theorem xlatFault_raises {s : State} {x : Xlat} {k : Nat} {p : Proc} (hn : s.named x.name = some (k, p)) (hw : p.wait = .xlat)
    (hr : p.restart = 0) (hh : p.hold = none) : s.xlatFault x = s.raise k causeLoadFault (BitVec.ofNat 64 x.va) := by
  simp [State.xlatFault, modNamed_of_named hn, hw, hr, hh]

/-- With the page found, a load or atomic that has the right to it is tried again. -/
theorem mapped_readies {s : State} {x : Xlat} {k : Nat} {p : Proc} {y : Tlb} (hs : x.store = none) (hn : s.named x.name = some (k, p))
    (hw : p.wait = .xlat) (hg : tlbGrants y x.level x.needR x.needW = true) : s.mapped x y = (s.modCore x.core (fun c => c.touch y)).ready k := by
  have hn' : (s.modCore x.core (fun c => c.touch y)).named x.name = some (k, p) := hn
  simp [State.mapped, hs, hg, modNamed_of_named hn', hw]

theorem mapped_faults {s : State} {x : Xlat} {y : Tlb} (hs : x.store = none) (hg : tlbGrants y x.level x.needR x.needW = false) :
    s.mapped x y = (s.modCore x.core (fun c => c.touch y)).xlatFault x := by
  simp [State.mapped, hs, hg]

/-- A fold without the requests for the page of one. -/
def FoldS.withoutWalks (x : Xlat) (y : FoldS) : FoldS := { y with walks := y.walks.filter (fun w => !samePage x w) }

theorem samePage_self (x : Xlat) : samePage x x = true := by simp [samePage]

/-- A walk that one request waits for ends for that request alone. -/
theorem pageWalkEnd_single {s : State} {x : Xlat} (hw : (s.fold (foldOf x.core)).walks = [x]) (hs : x.store = none) :
    (∀ y, pageWalkEnd x (some y) s =
      ((s.modFold (foldOf x.core) (FoldS.withoutWalks x)).modFold (foldOf x.core) (fun f => f.touch y)).mapped x y) ∧
    pageWalkEnd x none s = (s.modFold (foldOf x.core) (FoldS.withoutWalks x)).xlatFault x := by
  have hsame : (s.fold (foldOf x.core)).walks.filter (samePage x) = [x] := by simp [hw, samePage_self]
  refine ⟨fun y => ?_, ?_⟩
  · simp only [pageWalkEnd, hsame, List.foldl_cons, List.foldl_nil]
    rfl
  · simp only [pageWalkEnd, hsame, List.foldl_cons, List.foldl_nil, hs]
    rfl

theorem walks_withoutWalks {s : State} {x : Xlat} (hw : (s.fold (foldOf x.core)).walks = [x]) :
    ((s.modFold (foldOf x.core) (FoldS.withoutWalks x)).fold (foldOf x.core)).walks = [] := by
  rw [State.modFold_fold_self, FoldS.withoutWalks, hw]
  simp [samePage_self]

theorem walkEnds {s : State} {x : Xlat} {k : Nat} {p : Proc} (hw : (s.fold (foldOf x.core)).walks = [x]) (hs : x.store = none)
    (hn : s.named x.name = some (k, p)) (hx : p.wait = .xlat) (hp : p.st = .parked) :
    (∀ y : Tlb, tlbGrants y x.level x.needR x.needW = true → ∃ (t : State) (q : Proc), exec (.pageWalkEnd x (some y)) s = .next t ∧ t.proc k = some q ∧ q.st = .resident ∧ q.wait = .none ∧ q.pc = p.pc ∧
      (t.core x.core).tlb.head? = some y ∧ (t.fold (foldOf x.core)).walks = []) ∧
    (∀ y : Tlb, tlbGrants y x.level x.needR x.needW = false → p.restart = 0 → p.hold = none →
      ∃ u : State, exec (.pageWalkEnd x (some y)) s = .next (u.raise k 0x04 (BitVec.ofNat 64 x.va)) ∧ u.procs = s.procs) ∧
    (p.restart = 0 → p.hold = none → ∃ u : State, exec (.pageWalkEnd x none) s = .next (u.raise k 0x04 (BitVec.ofNat 64 x.va)) ∧
      (u.fold (foldOf x.core)).walks = [] ∧ u.procs = s.procs) := by
  obtain ⟨hpage, hnone⟩ := pageWalkEnd_single hw hs
  have hexec (r : Option Tlb) : exec (.pageWalkEnd x r) s = .next (pageWalkEnd x r s) := rfl
  simp only [hexec, hpage, hnone]
  refine ⟨fun y hg => ?_, fun y hg hr hh => ?_, fun hr hh => ?_⟩
  · let u := ((s.modFold (foldOf x.core) (FoldS.withoutWalks x)).modFold (foldOf x.core) (fun f => f.touch y)).modCore x.core (fun c => c.touch y)
    have hproc : u.proc k = some p := proc_of_named hn
    refine ⟨_, p.resumed s.cycle, congrArg _ (mapped_readies hs hn hx hg), ?_, rfl, rfl, rfl, ?_, ?_⟩
    · rw [ready_parked hproc hp, awake_proc, State.putProc_proc_self]
      rfl
    · rw [ready_parked hproc hp]
      refine Eq.trans (b := (u.core x.core).tlb.head?) rfl ?_
      simp [u, CoreS.touch, useEntry]
    · rw [ready_parked hproc hp]
      refine Eq.trans (b := (u.fold (foldOf x.core)).walks) rfl ?_
      have h0 := walks_withoutWalks hw
      simp only [u, modCore_fold, State.modFold_fold_self] at h0 ⊢
      exact h0
  · rw [mapped_faults hs hg]
    exact ⟨_, congrArg _ (xlatFault_raises hn hx hr hh), rfl⟩
  · exact ⟨_, congrArg _ (xlatFault_raises hn hx hr hh), walks_withoutWalks hw, rfl⟩

theorem pageWalks : Claims.PageWalks :=
  ⟨fun s x hl hw => walkStarts s x hl hw, fun s x e lvl _ _ => walkReads s x e lvl, fun _ _ _ _ hw hs hn hx hp => walkEnds hw hs hn hx hp⟩

/-! ### Store faults (04 R84, R85) -/

/-- The record that a faulting store writes (04 Table 4.6). -/
def State.faultRecord (s : State) (e : SbEntry) (cause : Nat) : SfqRec :=
  { name := e.name, va := e.va, data := e.data, pc := e.pc, cause := cause, size := e.size, time := s.gtc }

/-- The state in which a store has left the buffer for the queue of its core. -/
def State.toSfq (s : State) (core : Nat) (e : SbEntry) (cause : Nat) : State :=
  (s.dropSb core e.id).modCore core (fun c => { c with sfq := c.sfq ++ [s.faultRecord e cause] })

theorem toSfq_core (s : State) (core : Nat) (e : SbEntry) (cause : Nat) :
    (s.toSfq core e cause).core core =
      { s.core core with sb := (s.core core).sb.filter (fun y => y.id != e.id), sfq := (s.core core).sfq ++ [s.faultRecord e cause] } := by
  simp [State.toSfq, State.dropSb]

/-- A process that stops for a store fault (04 R85). -/
def Proc.stoppedAt (p : Proc) (va : Nat) : Proc :=
  { p.dropHold.endGroup with
    wait := .none, pc := p.trapPc, exiting := none, st := .trapped, stopped := true, ecause := 0x05, eval := BitVec.ofNat 64 va, epc := p.trapPc,
    deadline := 0, vcheck := p.vact }

theorem stopStore_resident (s : State) (k : Nat) {p : Proc} (hst : p.st = .resident) (hw : p.wait = .none) (va : Nat) :
    s.stopStore k p va = s.putProc k (p.stoppedAt va) := by
  simp [State.stopStore, hst, hw, Proc.stoppedAt]

theorem sfqWrite_full {s : State} {core k : Nat} {e : SbEntry} {p : Proc} (hn : s.named e.name = some (k, p)) (h : 8 ≤ (s.core core).sfq.length)
    (cause : Nat) : s.sfqWrite core e cause = s.modSb core e.id (fun x => { x with stuck := some cause }) := by
  simp only [State.sfqWrite, hn, h, if_true]

/-- The first fault of a process since its records were copied stops it. -/
theorem sfqWrite_first {s : State} {core k : Nat} {e : SbEntry} {p : Proc} (hn : s.named e.name = some (k, p)) (h : (s.core core).sfq.length < 8)
    (hr : ∀ r ∈ (s.core core).sfq, r.name ≠ e.name) (hs : p.stopped = false) (cause : Nat) :
    s.sfqWrite core e cause = ((s.toSfq core e cause).stopStore k p e.va).settle e.name := by
  have hany : (s.core core).sfq.any (fun x => x.name == e.name) = false := List.any_eq_false.2 fun r hr' => by simp [hr r hr']
  simp only [State.sfqWrite, hn, Nat.not_le.2 h, if_false, hany, hs, Bool.not_false, Bool.and_self, if_true]
  rfl

theorem settle_rest (s : State) (name : Nat) : { s.settle name with agenda := s.agenda } = s := by
  unfold State.settle State.modNamed
  split
  · dsimp only
    split <;> rfl
  · rfl

/-- A process that does not wait is not concerned by the end of a store. -/
theorem storesChanged_of_idle {s : State} {name k : Nat} {p : Proc} (hn : s.named name = some (k, p)) (hw : p.wait = .none) :
    s.storesChanged name = s := by
  simp [State.storesChanged, modNamed_of_named hn, hw]

theorem storeNak_eq {s : State} {core id : Nat} {e : SbEntry} (h : s.sbEntry core id = some e) (hb : e.batch = 0) (cause : Nat) :
    storeNak core id cause s = (s.sfqWrite core e cause).storesChanged e.name := by
  simp [storeNak, h, State.sfqRecord, hb]

theorem storeNak_first {s : State} {core id k : Nat} {e : SbEntry} {p : Proc} (he : s.sbEntry core id = some e) (hb : e.batch = 0)
    (hn : s.named e.name = some (k, p)) (hl : (s.core core).sfq.length < 8) (hr : ∀ r ∈ (s.core core).sfq, r.name ≠ e.name)
    (hs : p.stopped = false) (hw : p.wait = .none) (hst : p.st = .resident) (cause : Nat) :
    storeNak core id cause s = ((s.toSfq core e cause).putProc k (p.stoppedAt e.va)).settle e.name := by
  have hn' : (((s.toSfq core e cause).putProc k (p.stoppedAt e.va)).settle e.name).named e.name = some (k, p.stoppedAt e.va) :=
    (congrArg (fun t : State => t.named e.name) (settle_rest ((s.toSfq core e cause).putProc k (p.stoppedAt e.va)) e.name) :).trans
      (named_putProc (s := s.toSfq core e cause) hn _)
  rw [storeNak_eq he hb, sfqWrite_first hn hl hr hs, stopStore_resident _ _ hst hw]
  exact storesChanged_of_idle hn' rfl

/-- The state in which the records of a process have moved to its extension (04 R85). -/
def State.sfqCopied (s : State) (k : Nat) (p : Proc) : State :=
  (s.putProc k { p with sfq := p.sfq ++ (s.core p.core).sfq.filter (fun r => r.name == p.name), stopped := false }).modCore p.core
    (fun c => { c with sfq := c.sfq.filter (fun r => r.name != p.name) })

theorem sfqCopied_core (s : State) (k : Nat) (p : Proc) :
    (s.sfqCopied k p).core p.core = { s.core p.core with sfq := (s.core p.core).sfq.filter (fun r => r.name != p.name) } := by
  simp [State.sfqCopied]

/-- With no store of its own in the buffer, and none there that waits for room, a stopped process has its records copied and notified. -/
theorem sfqCopy_settled {s : State} {k : Nat} {p : Proc} (hn : s.named p.name = some (k, p)) (hs : p.stopped = true) (hw : p.wait = .none)
    (hc : p.ecause = 0x05) (hsb : ∀ y ∈ (s.core p.core).sb, y.name ≠ p.name ∧ y.stuck = none) :
    sfqCopy p.name s = (s.sfqCopied k p).queueNote p 0 := by
  have hstores : s.hasStores p = false := List.any_eq_false.2 fun y hy => by simp [(hsb y hy).1]
  have hstuck : (((s.sfqCopied k p).queueNote p 0).core p.core).sb.filter (fun e => e.stuck.isSome) = [] := by
    have hcore : ((s.sfqCopied k p).queueNote p 0).core p.core = (s.sfqCopied k p).core p.core := rfl
    rw [hcore, sfqCopied_core, List.filter_eq_nil_iff]
    intro y hy
    simp [(hsb y hy).2]
  unfold sfqCopy
  rw [modNamed_of_named hn, if_neg (by simp [hs, hstores]), if_neg (by simp [hw])]
  dsimp only
  rw [if_pos hc]
  change ((((s.sfqCopied k p).queueNote p 0).core p.core).sb.filter (fun e => e.stuck.isSome)).foldl _ ((s.sfqCopied k p).queueNote p 0) = _
  rw [hstuck, List.foldl_nil]

theorem storeFaults : Claims.StoreFaults := by
  refine ⟨fun s core id k cause e p he hid hb hn hpc hl hr hs hw hh hst => ?_, fun s core id k cause e p he hb hn hw hl => ?_,
    fun s name k p hn hname hs hw hec hsb => ?_⟩
  · let u := (s.toSfq core e cause).putProc k (p.stoppedAt e.va)
    have hrest := settle_rest u e.name
    have hcore : ((u.settle e.name).core core) = (s.toSfq core e cause).core core := (congrArg (fun t : State => t.core core) hrest :)
    rw [toSfq_core] at hcore
    refine ⟨u.settle e.name, p.stoppedAt e.va, congrArg _ (storeNak_first he hb hn hl hr hs hw hst cause), ?_, rfl, rfl, rfl, rfl, ?_, ?_, ?_, ?_⟩
    · exact (congrArg (fun t : State => t.proc k) hrest :).trans (State.putProc_proc_self _ _ _)
    · simp [Proc.stoppedAt, Proc.endGroup, Proc.dropHold, hh]
    · rw [hcore]
      intro y hy
      simpa [hid] using (List.mem_filter.1 hy).2
    · rw [hcore]
      rfl
    · exact (congrArg State.mem hrest :)
  · have hexec : exec (.storeNak core id cause) s = .next (storeNak core id cause s) := rfl
    rw [hexec, storeNak_eq he hb, sfqWrite_full hn hl]
    exact congrArg _ (storesChanged_of_idle (p := p) (k := k) hn hw)
  · subst hname
    have hcore : ((s.sfqCopied k p).queueNote p 0).core p.core = (s.sfqCopied k p).core p.core := rfl
    refine ⟨(s.sfqCopied k p).queueNote p 0, _, congrArg _ (sfqCopy_settled hn hs hw hec hsb), State.putProc_proc_self _ _ _, rfl, rfl, ?_,
      dueIn_after ..⟩
    rw [hcore, sfqCopied_core]
    intro r hr
    simpa using (List.mem_filter.1 hr).2

/-- Settles O33: the walk that starts, each entry read and the end of a walk; the fault of a store, the full queue and the copy of the records. -/
theorem pagesAndStoreFaults : Obligations.PagesAndStoreFaults := ⟨pageWalks, storeFaults⟩

end Sys2Proof.Machine
end

section
/-! PROOFS. Windows and invalidations (04 R75 to R78, R82). -/

namespace Sys2Proof.Machine

/-! ### Accesses at a core window (04 R77, R78) -/

section
variable {s : State} {x : Access} {k : Nat} {p : Proc}

/-- A load that is refused takes WINDOW_NAK with the physical address. -/
theorem load_refused {r : Reg} {tag : BitVec 2} {sz : Nat} {sg : Bool} (hn : s.named x.name = some (k, p)) (hk : x.kind = .load r tag sz sg)
    (hpass : s.passes x.core x.gid x.level x.addr x.size true false = false) (hw : p.wait = .access) :
    remoteAccessArrival x s = (s.putProc k { p.dropHold with st := .resident, wait := .none }).raise k causeWindowNak (BitVec.ofNat 64 x.addr) := by
  have hpeer : causeWindowNak ≠ causePeerFail := by decide
  simp only [remoteAccessArrival, hk, hpass, State.answerFault, modNamed_of_named hn, hw, State.raiseAccess, hpeer, Bool.not_false, if_true,
    if_false]

/-- A store that is refused gets a negative answer. -/
theorem store_refused {id : Nat} {e : SbEntry} (hk : x.kind = .store id) (he : s.sbEntry x.core id = some e)
    (hpass : s.passes x.core x.gid x.level x.addr x.size false true = false) :
    remoteAccessArrival x s = s.after (s.wayTo x.core x.addr + 2) (.storeNak x.core id causeWindowNak) := by
  simp only [remoteAccessArrival, hk, he, hpass, Bool.not_false, if_true]

end

section
variable {s : State} {x : Access} {c off k : Nat} {p : Proc} (hplace : placeOf x.addr = .core c off)
include hplace

/-- The windows of another core decide on an access from U. -/
theorem passes_from_user (hc : c ≠ x.core) (hl : x.level = 0) (rd wr : Bool) :
    s.passes x.core x.gid x.level x.addr x.size rd wr =
      (s.core c).wins.toList.any (fun w => winGrants w off x.size x.gid rd wr (rowOf off).guarded) := by
  simp [State.passes, windowChecked, State.windowAccepts, hplace, hl, hc]

theorem windowPort_of_core (e : Ev) : s.windowPort x.addr e = (s, true) := by simp [State.windowPort, hplace]

theorem speWindow_of_core (core : Nat) : speWindow core x.addr = false := by simp [speWindow, hplace]

/-- A load that is granted and backed takes its value as a fill. -/
theorem load_granted {r : Reg} {tag : BitVec 2} {sz : Nat} {sg : Bool} (hn : s.named x.name = some (k, p)) (hk : x.kind = .load r tag sz sg)
    (hpass : s.passes x.core x.gid x.level x.addr x.size true false = true) (hw : p.wait = .access)
    (hf : s.accessFault p x.addr x.va x.size true = none) :
    remoteAccessArrival x s = fill ⟨x.name, r, tag⟩ (extend sz sg (s.readThrough p x.va x.addr sz)) s := by
  simp only [remoteAccessArrival, hk, hpass, hn, hf, windowPort_of_core hplace, State.answerValue, modNamed_of_named hn,
    speWindow_of_core hplace, hw, Bool.not_true, Bool.false_eq_true, if_false, if_true]

theorem store_granted {id : Nat} {e : SbEntry} (hk : x.kind = .store id) (he : s.sbEntry x.core id = some e)
    (hpass : s.passes x.core x.gid x.level x.addr x.size false true = true) (hb : s.backed x.addr x.size = true) (hr : wordRow x.addr = false) :
    remoteAccessArrival x s = (s.performStore x.core e x.addr).after (s.wayTo x.core x.addr + 2) (.storeAck x.core id) := by
  simp only [remoteAccessArrival, hk, he, hpass, hb, hr, windowPort_of_core hplace, Bool.not_true, Bool.false_and, Bool.or_self, Bool.false_eq_true,
    if_false, if_true]

end

theorem filled_consume (h : Hold) (r : Reg) (tag : BitVec 2) (v : Word) : (h.filled r tag v).consume = h.consume := by
  unfold Hold.filled
  split
  · split <;> rfl
  · rfl

theorem setReg_hold (p : Proc) (r : Reg) (v : Word) : (p.setReg r v).hold = p.hold := by
  unfold Proc.setReg Proc.putCell
  split <;> rfl

theorem fill_hold (p : Proc) (r : Reg) (tag : BitVec 2) (v : Word) : (p.fill r tag v).hold = p.hold.map (fun h => h.filled r tag v) := by
  unfold Proc.fill
  dsimp only
  split
  · rw [setReg_hold]
  · rfl

/-- The value for which a load waits at its instruction fills the destination, and the load retires (05 R104). -/
theorem fill_access {s : State} {f : FillTo} {k : Nat} {p : Proc} {h : Hold} (hn : s.named f.name = some (k, p)) (hw : p.wait = .access)
    (hh : p.hold = some h) (hd : h.dst = some f.reg) (ha : h.arg = f.tag.toNat) (hr : p.portOf f.reg = none) (ho : s.onceDue = []) (v : Word) :
    fill f v s = ((s.putProc k { p.fill f.reg f.tag v with loads := p.loads.erase (f.reg, f.tag) }).retire k h.consume []).ready k := by
  have hawaits : p.awaits f = false := by simp [Proc.awaits, hw]
  have hfill : s.fillReg k p f v = s.putProc k { p.fill f.reg f.tag v with loads := p.loads.erase (f.reg, f.tag) } := by
    simp only [State.fillReg, ho, List.find?_nil, hr]
  have hcond : (h.dst == some f.reg && decide (h.arg = f.tag.toNat)) = true := by simp [hd, ha]
  have hdone : fill f v s = (s.fillReg k p f v).complete k [] := by
    simp only [fill, modNamed_of_named hn, hawaits, hw, hh, hcond, Bool.false_and, Bool.false_eq_true, if_false, if_true]
  rw [hdone, hfill]
  simp only [State.complete, State.putProc_proc_self, fill_hold, hh, Option.map_some, filled_consume]

theorem windowsCheck : Claims.WindowsCheck := by
  intro s x k c off p hn hplace hc hl
  have hexec : exec (.remoteAccessArrival x) s = .next (remoteAccessArrival x s) := rfl
  have hpass := passes_from_user (s := s) hplace hc hl
  have hnone {g : Word → Bool} (hall : (s.core c).wins.toList.all (fun w => !g w) = true) : (s.core c).wins.toList.any g = false := by
    simpa only [List.all_eq_true, Bool.not_eq_true', List.any_eq_false, Bool.not_eq_true] using hall
  refine ⟨fun r tag sz sg h hk hw hh => ⟨fun hall => ?_, fun hany hf => ?_, fun hd ha hr ho v => ?_⟩,
    fun id e hk he => ⟨fun hall => ⟨s.wayTo x.core x.addr + 2, ?_⟩, fun hany hb hrow => ⟨s.wayTo x.core x.addr + 2, ?_⟩⟩⟩
  · exact congrArg _ (load_refused hn hk ((hpass true false).trans (hnone hall)) hw)
  · exact congrArg _ (load_granted hplace hn hk ((hpass true false).trans hany) hw hf)
  · exact congrArg _ (fill_access (f := ⟨x.name, r, tag⟩) hn hw hh hd ha hr ho v)
  · exact congrArg _ (store_refused hk he ((hpass false true).trans (hnone hall)))
  · exact congrArg _ (store_granted hplace hk he ((hpass false true).trans hany) hb hrow)

/-! ### Window registers (04 Table 4.3) -/

theorem windowRegisterGrants : Claims.WindowRegisterGrants := by
  intro w off size gid rd wr guarded
  have hw := w.isLt
  have hlo : (w.extractLsb' 0 15).toNat = w.toNat % 2 ^ 15 := by simp [BitVec.extractLsb'_toNat]
  have hhi : (w.extractLsb' 15 15).toNat = w.toNat / 2 ^ 15 % 2 ^ 15 := by simp [BitVec.extractLsb'_toNat, Nat.shiftRight_eq_div_pow]
  have hgid : (w.extractLsb' 48 16).toNat = w.toNat / 2 ^ 48 := by
    rw [BitVec.extractLsb'_toNat, Nat.shiftRight_eq_div_pow, Nat.mod_eq_of_lt (by omega)]
  have himp (a b : Bool) : (!a || b) = true ↔ (a = true → b = true) := by cases a <;> simp
  simp only [winGrants, Bool.and_eq_true, Bool.or_eq_true, himp, decide_eq_true_eq, hlo, hhi, hgid, and_assoc]

/-! ### Rows of a core window (04 R76) -/

theorem resident_eq_some {s : State} {c i k : Nat} {p : Proc} (h : s.resident c i = some (k, p)) :
    ∃ j, (s.slot (c * 8 + i)).occ = some j ∧ c * 256 + j = k := by
  unfold State.resident at h
  split at h
  · next j hocc =>
    obtain ⟨_, _, he⟩ := Option.map_eq_some_iff.1 h
    exact ⟨j, hocc, (Prod.mk.inj he).1⟩
  · cases h

theorem slotRegisterWrite_resident {s : State} {c i k : Nat} {p : Proc} (h : s.resident c i = some (k, p)) (hp : s.proc k = some p) (r : Reg)
    (v : Word) :
    slotRegisterWrite c i r v s =
      if r = 0 || (decide (s.cycle ≤ p.doneAt) && p.wrote.getLsbD r.toNat) then s
      else if p.wait = .reg r.toNat then (s.putProc k (p.setReg r v)).ready k else s.putProc k (p.setReg r v) := by
  obtain ⟨j, hocc, rfl⟩ := resident_eq_some h
  simp only [slotRegisterWrite, hocc, hp]

theorem slotRegisterWrite_none {s : State} {c i : Nat} (h : s.resident c i = none) (r : Reg) (v : Word) : slotRegisterWrite c i r v s = s := by
  unfold State.resident at h
  unfold slotRegisterWrite
  cases hocc : (s.slot (c * 8 + i)).occ with
  | none => rfl
  | some j =>
    have hproc : s.proc (c * 256 + j) = none := by simpa only [hocc, Option.map_eq_none_iff] using h
    simp only [hproc]

theorem rowsOfTheWindow : Claims.RowsOfTheWindow := by
  refine ⟨fun s c i k p r v hres hp hr hw hlate => ?_, fun s c i k p r v hres hp hnow hwrote => ?_,
    fun s c i v hres r => congrArg _ (slotRegisterWrite_none hres r v), fun s c v => ⟨fun n hn => ?_, ?_, rfl⟩⟩
  · have hcond : (decide (r = 0) || (decide (s.cycle ≤ p.doneAt) && p.wrote.getLsbD r.toNat)) = false := by
      rcases hlate with h | h
      · simp only [hr, Nat.not_le.2 h, decide_false, Bool.false_and, Bool.or_self]
      · simp only [hr, h, decide_false, Bool.and_false, Bool.or_self]
    have hwrite : slotRegisterWrite c i r v s = s.putProc k (p.setReg r v) := by
      simp only [slotRegisterWrite_resident hres hp, hcond, hw, Bool.false_eq_true, if_false, reduceCtorEq]
    refine ⟨_, p.setReg r v, congrArg Host.Outcome.next hwrite, State.putProc_proc_self .., ?_, ?_, ?_, fun n hn => ?_, setReg_rest p r v,
      fun j hj => tget_tput_ne _ _ hj⟩
    · rw [reg_setReg, if_pos ⟨rfl, hr⟩]
    · simp [full_setReg]
    · rw [cell_setReg, if_pos ⟨rfl, hr⟩]
    · simp [cell_setReg, hn]
  · refine congrArg _ ((slotRegisterWrite_resident hres hp r v).trans (if_pos ?_))
    simp only [hnow, hwrote, decide_true, Bool.and_self, Bool.or_true]
  · refine congrArg _ (if_pos ?_)
    simpa [csrOfProcess] using hn
  · have hset (u : Vector Word 4) (w : Word) : u.set! 0 w = u.set 0 w := by simp [Vector.set!, Vector.set, Array.setIfInBounds]
    simp only [← hset]
    rfl

/-! ### Invalidations (04 R82) -/

/-- An invalidation that a core has been told of and that is on its way there. -/
def Posted (v : Inval) (n : Nat) (t : State) : Prop := t.Due (.invalidationArrival n v) ∧ v ∈ (t.core n).invals

/-- One core of a launch's tree is told of an invalidation. -/
def postInval (v : Inval) (n delay : Nat) (t : State) : State :=
  (t.modCore n (fun x => { x with invals := x.invals ++ [v] })).after delay (.invalidationArrival n v)

theorem posted_postInval (v : Inval) (n delay : Nat) (t : State) : Posted v n (postInval v n delay t) := by
  refine ⟨(due_after_iff ..).2 (.inl rfl), ?_⟩
  simp [postInval]

theorem Posted.postInval {v : Inval} {m : Nat} {t : State} (h : Posted v m t) (n delay : Nat) : Posted v m (postInval v n delay t) := by
  refine ⟨(due_after_iff ..).2 (.inr h.1), ?_⟩
  simp only [Machine.postInval, after_core, core_modCore]
  split
  · next hmn => simp [← hmn, h.2]
  · exact h.2

theorem posted_foldl (v : Inval) (node delay : Nat → Nat) (l : List Nat) (t : State) (i : Nat) (h : i ∈ l ∨ Posted v (node i) t) :
    Posted v (node i) (l.foldl (fun t i => postInval v (node i) (delay i) t) t) := by
  induction l generalizing t with
  | nil => exact h.resolve_left (List.not_mem_nil)
  | cons j l ih =>
    refine ih _ ?_
    rcases h with h | h
    · rcases List.mem_cons.1 h with rfl | h
      · exact .inr (posted_postInval ..)
      · exact .inl h
    · exact .inr (h.postInval _ _)

theorem tinvWrite_posts {s : State} {name k : Nat} {p : Proc} {e : LaunchEntry} {l : Launch} (c : Nat) (v : Word) (hn : s.named name = some (k, p))
    (hlen : (s.invalsOf name).length < 16) (he : tget s.ltab (p.core * 16 + p.launch) = some e) (hl : tget s.launches e.launch = some l) :
    tinvWrite c name v s =
      (List.range l.nodes.length).foldl (fun t i => postInval (tinvOf s.invalId name e.launch v) (l.nodes.getD i 0)
        (s.oneway c (l.nodes.getD 0 c) + s.treeTime l.nodes 64 i) t) s := by
  simp only [tinvWrite, hn, he, hl, Nat.not_le.2 hlen, if_false, Option.map_some, Option.getD_some, postInval]

theorem foldl_walkRead_rest (l : List Xlat) (t : State) :
    { l.foldl (fun t x => t.walkRead x 1 x.root) t with agenda := t.agenda, drovers := t.drovers } = t := by
  induction l generalizing t with
  | nil => rfl
  | cons x l ih =>
    exact (congrArg (fun u : State => { u with agenda := t.agenda, drovers := t.drovers }) (ih (t.walkRead x 1 x.root)) :).trans
      (walkRead_rest t x 1 x.root)

/-- Walks that start anew change nothing but events and drovers. -/
theorem restartWalks_rest (s : State) (f : Nat) (v : Inval) : { s.restartWalks f v with agenda := s.agenda, drovers := s.drovers } = s :=
  (congrArg (fun t : State => { t with agenda := s.agenda }) (foldl_walkRead_rest _ _) :)

theorem invalidationArrives (s : State) (c : Nat) (i : Inval) : ∃ t : State, exec (.invalidationArrival c i) s = .next t ∧
    (∀ y, y ∈ (t.core c).tlb ↔ y ∈ (s.core c).tlb ∧ invalHits i y = false) ∧
    (∀ z ∈ (t.fold (foldOf c)).trans, ∀ y ∈ z.2, invalHits i y = false) ∧ t.DueIn 0 (.invalidationComplete c i) ∧ t.mem = s.mem ∧
    t.procs = s.procs := by
  let u := (s.modCore c (fun x => { x with tlb := x.tlb.filter (fun y => !invalHits i y) })).modFold (foldOf c)
    (fun f => { f with trans := f.trans.map (fun e => (e.1, e.2.filter (fun x => !invalHits i x))) })
  have hrest := restartWalks_rest u (foldOf c) i
  have hcore : (u.restartWalks (foldOf c) i).core c = u.core c := (congrArg (fun t : State => t.core c) hrest :)
  have hfold : (u.restartWalks (foldOf c) i).fold (foldOf c) = u.fold (foldOf c) := (congrArg (fun t : State => t.fold (foldOf c)) hrest :)
  refine ⟨(u.restartWalks (foldOf c) i).after 0 (.invalidationComplete c i), rfl, fun y => ?_, fun z hz y hy => ?_, dueIn_after ..,
    (congrArg State.mem hrest :), (congrArg State.procs hrest :)⟩
  · simp [hcore, u]
  · rw [show ((u.restartWalks (foldOf c) i).after 0 (.invalidationComplete c i)).fold (foldOf c) = u.fold (foldOf c) from hfold,
      State.modFold_fold_self] at hz
    obtain ⟨w, _, rfl⟩ := List.mem_map.1 hz
    simpa using (List.mem_filter.1 hy).2

theorem invalidationCompletes (s : State) (c : Nat) (i : Inval) (hi : i ∈ (s.core c).invals) :
    (s.usesDropped c i = true → exec (.invalidationComplete c i) s = .next (s.after 1 (.invalidationComplete c i))) ∧
    (s.usesDropped c i = false → s.named i.poster = none → ∃ t : State, exec (.invalidationComplete c i) s = .next t ∧ i ∉ (t.core c).invals ∧
      { t with cores := s.cores } = s) := by
  have hcontains : (s.core c).invals.contains i = true := List.contains_iff_mem.2 hi
  refine ⟨fun hu => congrArg Host.Outcome.next ?_, fun hu hn => ⟨s.modCore c (fun x => { x with invals := x.invals.filter (fun y => y != i) }), congrArg Host.Outcome.next ?_, ?_, rfl⟩⟩
  · simp only [invalidationComplete, hcontains, hu, Bool.not_true, Bool.false_eq_true, if_false, if_true]
  · have hsame := modNamed_of_none (s := s.modCore c (fun x => { x with invals := x.invals.filter (fun y => y != i) })) hn
    simp only [invalidationComplete, hcontains, hu, Bool.not_true, Bool.false_eq_true, if_false, State.storesChanged, hsame, ite_self]
  · simp

theorem csrw_tinv {s : State} {k : Nat} {p : Proc} {d : Reg} {a : Src} {x : Word} (hrun : s.Runs k p [srcField a 0] [x] [d])
    (hlevel : 1 ≤ p.level) (hok : tinvOk x = true) (hlen : (s.invalsOf p.name).length < 16) :
    exec (.csrw d a 0x7C8) s = exec (.tinvWrite p.core p.name x) (s.retire k (consumeMask p [srcField a 0]) [(d, 0)]) := by
  obtain ⟨hissues, hgives, htakes⟩ := hrun
  have hlv : ¬ p.level < 1 := by omega
  have hread : s.csrRead p 0x7C8 = 0 := rfl
  have hput : s.csrPut k p 0x7C8 x = some s := (if_pos hok :)
  refine (onCur_next hissues _).trans (congrArg _ ?_)
  change s.csrChange k p d a 0x7C8 false (fun _ y => y) = _
  simp only [State.csrChange, State.csrGate, csrLevels, hlv, if_false, if_true, issue_ok hgives htakes, Bool.false_and, Bool.false_eq_true,
    List.getD_cons_zero, hput, Nat.not_le.2 hlen, hread]

theorem invalidations : Claims.Invalidations := by
  refine ⟨fun s c name k p v e l hn hlen he hl _ => ?_, invalidationArrives, invalidationCompletes,
    fun s k p d a x hrun hlevel hok hlen => csrw_tinv hrun hlevel hok hlen⟩
  have hasid : bitsOf v 48 16 = v.toNat / 2 ^ 48 := Nat.mod_eq_of_lt (by have := v.isLt; omega)
  refine ⟨_, tinvOf s.invalId name e.launch v, congrArg Host.Outcome.next (tinvWrite_posts c v hn hlen he hl), rfl, hasid, rfl, rfl, rfl, fun n hmem => ?_⟩
  obtain ⟨i, hi, rfl⟩ := List.getElem_of_mem hmem
  have hget : l.nodes.getD i 0 = l.nodes[i] := by simp [hi]
  exact hget ▸ posted_foldl _ (fun i => l.nodes.getD i 0) _ _ s i (.inl (List.mem_range.2 hi))

/-- Settles O34: the checks of windows, their registers, their rows, and invalidations, each by its own lemma. -/
theorem windows : Obligations.Windows := ⟨windowsCheck, windowRegisterGrants, rowsOfTheWindow, invalidations⟩

end Sys2Proof.Machine
end

section
/-! PROOFS. Fences, CSR instructions and process instructions complete (04 R86, R89, R96; 05 R130; 06 R153 to R170; 08 R240). -/

namespace Sys2Proof.Machine

/-! ### How an instruction completes -/

/-- A state still has process k with the program counter and the state of p. -/
def Kept (u : State) (k : Nat) (p : Proc) : Prop := ∃ q, u.proc k = some q ∧ q.pc = p.pc ∧ q.st = p.st

theorem Kept.self {s : State} {k : Nat} {p : Proc} (h : s.proc k = some p) : Kept s k p := ⟨p, h, rfl, rfl⟩

theorem Kept.of_procs {t u : State} {k : Nat} {p : Proc} (h : Kept t k p) (hu : u.procs = t.procs) : Kept u k p := by
  have hproc : u.proc k = t.proc k := by unfold State.proc; rw [hu]
  unfold Kept
  rwa [hproc]

theorem Kept.after {t : State} {k : Nat} {p : Proc} (h : Kept t k p) (n : Nat) (e : Ev) : Kept (t.after n e) k p := h.of_procs rfl

theorem Kept.putGroup {t : State} {k : Nat} {p : Proc} (h : Kept t k p) (g : Nat) (x : Group) : Kept (t.putGroup g x) k p := h.of_procs rfl

theorem Kept.modCore {t : State} {k : Nat} {p : Proc} (h : Kept t k p) (c : Nat) (f : CoreS → CoreS) : Kept (t.modCore c f) k p := h.of_procs rfl

theorem Kept.setQuiet {t : State} {k : Nat} {p : Proc} (h : Kept t k p) (x : List (Nat × List Nat × Nat)) : Kept { t with quiet := x } k p :=
  h.of_procs rfl

theorem Kept.putProc {t : State} {k j : Nat} {p q r : Proc} (h : Kept t k p) (hq : t.proc j = some q) (hpc : r.pc = q.pc) (hst : r.st = q.st) :
    Kept (t.putProc j r) k p := by
  by_cases hj : k = j
  · subst hj
    obtain ⟨q', hq', hpc', hst'⟩ := h
    cases hq.symm.trans hq'
    exact ⟨r, State.putProc_proc_self .., hpc.trans hpc', hst.trans hst'⟩
  · obtain ⟨q', hq', hkept⟩ := h
    exact ⟨q', (tget_tput_ne _ _ hj).trans hq', hkept⟩

theorem Kept.foldl {α : Type} {f : State → α → State} {t : State} {k : Nat} {p : Proc} (hf : ∀ u x, Kept u k p → Kept (f u x) k p) (l : List α)
    (h : Kept t k p) : Kept (l.foldl f t) k p := by
  induction l generalizing t with
  | nil => exact h
  | cons x l ih => exact ih (hf t x h)

theorem Kept.modProc {t : State} {k : Nat} {p : Proc} (h : Kept t k p) (j : Nat) {f : Proc → Proc} (hpc : ∀ q, (f q).pc = q.pc)
    (hst : ∀ q, (f q).st = q.st) : Kept (t.modProc j f) k p := by
  unfold State.modProc
  split
  · next q hq => exact h.putProc hq (hpc q) (hst q)
  · exact h

/-- A step that retires the instruction of process k with some writes, before which the process is where it was. -/
def EndsBy (r : State) (k : Nat) (p : Proc) (c : BitVec 16) (ws : List (Reg × Word)) : Prop :=
  ∃ u : State, r = u.retire k c ws ∧ Kept u k p

theorem EndsBy.intro {u : State} {k : Nat} {p : Proc} (h : Kept u k p) (c : BitVec 16) (ws : List (Reg × Word)) :
    EndsBy (u.retire k c ws) k p c ws := ⟨u, rfl, h⟩

/-- An instruction retires with some writes. -/
def Completes (s : State) (k : Nat) (p : Proc) (i : Instr) (fs : List Field) (ws : List (Reg × Word)) : Prop :=
  ∃ u : State, exec i s = .next (u.retire k (consumeMask p fs) ws) ∧ (u.proc k).map Proc.pc = some p.pc

theorem completes_of_endsBy {s : State} {k : Nat} {p : Proc} {i : Instr} {fs : List Field} {ws : List (Reg × Word)} {f : Nat → Proc → State}
    (hs : s.Issues k p) (hi : exec i s = onCur s f) (h : EndsBy (f k p) k p (consumeMask p fs) ws) : Completes s k p i fs ws := by
  obtain ⟨u, hu, q, hq, hpc, _⟩ := h
  exact ⟨u, hi.trans ((onCur_next hs f).trans (congrArg _ hu)), by rw [hq, Option.map_some, hpc]⟩

/-- A state in which process k has left its slot for a wait. -/
def BlockedFor (t : State) (k : Nat) (p : Proc) (w : Wait) : Prop :=
  ∃ q, t.proc k = some q ∧ q.st = .blocked ∧ q.wait = w ∧ q.pc = p.pc

theorem BlockedFor.of_procs {t u : State} {k : Nat} {p : Proc} {w : Wait} (h : BlockedFor t k p w) (hu : u.procs = t.procs) :
    BlockedFor u k p w := by
  have hproc : u.proc k = t.proc k := by unfold State.proc; rw [hu]
  unfold BlockedFor
  rwa [hproc]

theorem BlockedFor.after {t : State} {k : Nat} {p : Proc} {w : Wait} (h : BlockedFor t k p w) (n : Nat) (e : Ev) :
    BlockedFor (t.after n e) k p w := h.of_procs rfl

theorem BlockedFor.modProc {t : State} {k : Nat} {p : Proc} {w : Wait} (h : BlockedFor t k p w) {f : Proc → Proc}
    (hf : ∀ q, (f q).st = q.st ∧ (f q).wait = q.wait ∧ (f q).pc = q.pc) : BlockedFor (t.modProc k f) k p w := by
  obtain ⟨q, hq, hst, hwait, hpc⟩ := h
  obtain ⟨hst', hwait', hpc'⟩ := hf q
  exact ⟨f q, State.modProc_proc_self hq f, hst'.trans hst, hwait'.trans hwait, hpc'.trans hpc⟩

/-- An instruction has set out and waits. -/
def Awaits (s : State) (k : Nat) (p : Proc) (i : Instr) (w : Wait) : Prop :=
  ∃ (t : State) (q : Proc), exec i s = .next t ∧ t.proc k = some q ∧ q.st = .blocked ∧ q.wait = w ∧ q.pc = p.pc

theorem awaits_of_blockedFor {s : State} {k : Nat} {p : Proc} {i : Instr} {w : Wait} {f : Nat → Proc → State} (hs : s.Issues k p)
    (hi : exec i s = onCur s f) (h : BlockedFor (f k p) k p w) : Awaits s k p i w := by
  obtain ⟨q, hq, hb⟩ := h
  exact ⟨f k p, q, hi.trans (onCur_next hs f), hq, hb⟩

theorem setProbe_procs (s : State) (p : Proc) : (s.setProbe p).procs = s.procs := by
  unfold State.setProbe
  split <;> rfl

/-- What a wait outside the slot leaves of a process. -/
theorem block_blockedFor {s : State} {k : Nat} {p q : Proc} (h : s.proc k = some q) (hpc : q.pc = p.pc) (w : Wait) :
    BlockedFor (s.block k w) k p w := by
  have hblock : s.block k w = ((s.modProc k (fun p => { p with wait := w })).modProc k
      (fun p => { p with st := .blocked, blockedAt := (s.modProc k (fun p => { p with wait := w })).cycle, episode := (p.episode + 1) % 65536 })).armProbe k := rfl
  have hwait := State.modProc_proc_self h (fun p => { p with wait := w })
  rw [hblock]
  unfold State.armProbe
  rw [State.modProc_proc_self hwait]
  refine BlockedFor.of_procs ?_ (setProbe_procs _ _)
  exact ⟨_, State.putProc_proc_self .., rfl, rfl, hpc⟩

/-- A process that leaves its slot leaves the others as they are. -/
theorem enterBlocked_proc_ne (s : State) {j k : Nat} (h : k ≠ j) : (s.enterBlocked j).proc k = s.proc k := by
  have hmod (f : Proc → Proc) : (s.modProc j f).proc k = s.proc k := by
    unfold State.modProc
    split
    · exact tget_tput_ne _ _ h
    · rfl
  unfold State.enterBlocked State.armProbe
  split
  · exact (congrArg (tget · k) (setProbe_procs _ _) :).trans ((tget_tput_ne _ _ h).trans (hmod _))
  · exact hmod _

/-! ### Steps that leave the processes as they are -/

theorem foldl_procs {α : Type} {f : State → α → State} (hf : ∀ t x, (f t x).procs = t.procs) (l : List α) (s : State) :
    (l.foldl f s).procs = s.procs := by
  induction l generalizing s with
  | nil => rfl
  | cons x l ih => exact (ih _).trans (hf s x)

theorem modGroup_procs (s : State) (g : Nat) (f : Group → Group) : (s.modGroup g f).procs = s.procs := by
  unfold State.modGroup
  split <;> rfl

theorem modLtab_procs (s : State) (p : Proc) (f : LaunchEntry → LaunchEntry) : (s.modLtab p f).procs = s.procs := by
  unfold State.modLtab
  split <;> rfl

theorem lookOut_procs (s : State) (p : Proc) (q : Look) : (s.lookOut p q).procs = s.procs := by
  unfold State.lookOut
  split <;> rfl

theorem sendStart_procs (s : State) (p : Proc) (l : Launch) (m : StartMsg) (wait : Nat) : (s.sendStart p l m wait).procs = s.procs := by
  unfold State.sendStart
  split
  · exact modLtab_procs ..
  · rfl

theorem startKill_procs (s : State) (gid : Nat) (g : Group) (first : Nat) (d : FillTo) (q : Option BReq) :
    (s.startKill gid g first d q).procs = s.procs := by
  unfold State.startKill
  dsimp only
  split
  · split <;> rfl
  · refine foldl_procs (fun t x => ?_) _ _
    rfl

theorem nextNote_procs (s : State) (sup way : Nat) : (s.nextNote sup way).procs = s.procs := by
  unfold State.nextNote
  split
  · rfl
  · split <;> rfl

/-! ### Producers -/

/-- What a new producer leaves of the state. -/
theorem stateProduce_rest (s : State) (k : Nat) (r : Reg) : { s.produce k r with procs := s.procs, onceDue := s.onceDue } = s := by
  unfold State.produce
  split
  · unfold State.produceAs
    split
    · dsimp only
      split <;> rfl
    · rfl
  · rfl

/-- A process with one more producer of a register: a port to be pushed keeps the place of the value to come (05 R110). -/
def Proc.withProducer (p : Proc) (r : Reg) (tag : BitVec 2) : Proc :=
  match p.portOf r with
  | some q => (p.putPort (r.toNat - 8) { q with held := q.held ++ [(tag, none)] }).produce r
  | none => p.produce r

theorem withProducer_rest (p : Proc) (r : Reg) (tag : BitVec 2) :
    { p.withProducer r tag with regs := p.regs, made := p.made, ports := p.ports } = p := by
  unfold Proc.withProducer
  split
  · exact (congrArg (fun q : Proc => { q with ports := p.ports }) (produce_rest (p.putPort (r.toNat - 8) _) r) :)
  · exact (congrArg (fun q : Proc => { q with ports := p.ports }) (produce_rest p r) :)

/-- What a new producer leaves of its process. -/
theorem produce_proc {s : State} {k : Nat} {p : Proc} (h : s.proc k = some p) (r : Reg) :
    ∃ q, (s.produce k r).proc k = some q ∧ { q with regs := p.regs, made := p.made, ports := p.ports } = p := by
  refine ⟨p.withProducer r (p.nextTag r), ?_, withProducer_rest p r _⟩
  unfold State.produce State.produceAs
  simp only [h]
  split
  · exact State.putProc_proc_self ..
  · exact State.putProc_proc_self ..

theorem Kept.produce {s : State} {k : Nat} {p : Proc} (h : s.proc k = some p) (r : Reg) : Kept (s.produce k r) k p := by
  obtain ⟨q, hq, hrest⟩ := produce_proc h r
  exact ⟨q, hq, (congrArg Proc.pc hrest :), (congrArg Proc.st hrest :)⟩

/-- A producer does not unsettle its process. -/
theorem releaseStores_produce {s : State} {k : Nat} {p : Proc} (h : s.proc k = some p) (hs : s.Settled p) (r : Reg) :
    (s.produce k r).releaseStores k = s.produce k r := by
  obtain ⟨q, hq, hrest⟩ := produce_proc h r
  have hname : q.name = p.name := (congrArg Proc.name hrest :)
  have hcore : q.core = p.core := (congrArg Proc.core hrest :)
  have hsame := stateProduce_rest s k r
  refine releaseStores_of_settled hq ?_
  have hset : ({ s.produce k r with procs := s.procs, onceDue := s.onceDue } : State).Settled p := hsame.symm ▸ hs
  unfold State.Settled
  rw [hname, hcore]
  exact hset

/-! ### Fences and drains (04 R86, R89, R96) -/

theorem hasStores_eq_false {s : State} {p : Proc} (h : ∀ e ∈ (s.core p.core).sb, e.name ≠ p.name) : s.hasStores p = false :=
  List.any_eq_false.2 fun e he => by simp [h e he]

theorem codePending_eq_false {s : State} {p : Proc} (h : ∀ e ∈ (s.core p.core).sb, e.name ≠ p.name) : s.codePending p = false :=
  List.any_eq_false.2 fun e he => by simp [h e he]

theorem invalPending_eq_false {s : State} {name : Nat} (h : ∀ c ∈ s.cores, ∀ v ∈ c.2.invals, v.poster ≠ name) : s.invalPending name = false :=
  List.any_eq_false.2 fun c hc => by simpa using h c hc

theorem gives_nil (s : State) (p : Proc) : s.Gives p [] [] := rfl

theorem takes_nil (s : State) (p : Proc) : s.Takes p [] := fun _ h => absurd h List.not_mem_nil

section
variable {s : State} {k : Nat} {p : Proc} {d : Reg}

theorem needS_ok (h : 1 ≤ p.level) (go : State) : s.needS k p go = go := if_neg (Nat.one_le_iff_ne_zero.1 h)

/-! ### CSRs as listed (05 Tables 5.9 to 5.13) -/

theorem gives_zero (s : State) (p : Proc) (f : Field) (h : f.reg = 0) : s.Gives p [f] [0] := by
  simp only [State.Gives, List.map_cons, List.map_nil, h]
  rfl

/-- A CSR that is listed reads as listed, at the level listed (05 Table 5.9). -/
theorem csrTable_read (s : State) (p : Proc) :
    ∀ e ∈ csrTable s p, csrLevels e.1 = some (e.2.1, e.2.2.1) ∧ s.csrRead p e.1 = e.2.2.2 := by
  have hgtc : BitVec.ofNat 64 s.gtc = BitVec.ofNat 64 (s.cycle * 5 / 8) := by
    apply BitVec.eq_of_toNat_eq
    simp only [BitVec.toNat_ofNat, State.gtc, State.nanos, Nat.mod_mod]
  have hext {w : Nat} (x : BitVec w) : x.zeroExtend 64 = BitVec.ofNat 64 x.toNat := (BitVec.ofNat_toNat ..).symm
  have hflag (b : Bool) : bitOf b * 2 ^ 32 = if b then 2 ^ 32 else 0 := by cases b <;> rfl
  have hdlk := hflag (s.fold (foldOf p.core)).dlkOff
  have hwin (i : Nat) (hi : i < 4) : (s.core p.core).wins.toList.getD i 0 = (s.core p.core).wins[i] := by
    simp [hi]
  simp only [csrTable, List.forall_mem_cons]
  refine ⟨⟨rfl, rfl⟩, ⟨rfl, rfl⟩, ⟨rfl, rfl⟩, ⟨rfl, hext p.epc⟩, ⟨rfl, hext p.ecause⟩, ⟨rfl, rfl⟩, ⟨rfl, rfl⟩, ⟨rfl, rfl⟩,
    ⟨rfl, hext p.fflags⟩, ⟨rfl, hext p.srseed⟩, ⟨rfl, rfl⟩, ⟨rfl, rfl⟩, ⟨rfl, rfl⟩, ⟨rfl, rfl⟩, ⟨rfl, rfl⟩, ⟨rfl, hgtc⟩,
    ⟨rfl, rfl⟩, ⟨rfl, rfl⟩, ⟨rfl, hwin 0 (by decide)⟩, ⟨rfl, hwin 1 (by decide)⟩, ⟨rfl, hwin 2 (by decide)⟩, ⟨rfl, hwin 3 (by decide)⟩, ⟨rfl, rfl⟩,
    ⟨rfl, rfl⟩, ⟨rfl, rfl⟩, ⟨rfl, hdlk ▸ rfl⟩, fun _ h => absurd h List.not_mem_nil⟩

theorem csrGate_read {n : Nat} {l : Nat} {w : Option Nat} (hn : csrLevels n = some (l, w)) (hl : l ≤ p.level) (go : State) :
    s.csrGate k p n false go = go := by
  simp only [State.csrGate, hn, Nat.not_lt.2 hl, Bool.false_eq_true, if_false]

/-- A value that no field excludes is written to a CSR of the process, whose own level is enough for it (05 Tables 5.9 to 5.13). -/
theorem csrWrites_write (p : Proc) (v : Word) :
    ∀ e ∈ csrWrites p v, csrOfProcess e.1 = true ∧ (csrLevels e.1 = some (0, none) ∨ csrLevels e.1 = some (0, some 0)) ∧
      (e.2.1 → (p.csrWrite e.1 v).isSome = true) := by
  simp only [csrWrites, List.forall_mem_cons]
  have hfmt (h : v.toNat % 16 ≤ 11 ∧ v.toNat / 16 % 16 ≤ 11 ∧ v.toNat / 256 % 16 ∈ [0, 8, 9]) : tfmtOk v = true := by
    simpa [tfmtOk, and_assoc, or_assoc] using h
  have htaped (h : v.toNat / 2 ^ 34 % 4 ≠ 3 ∧ v.toNat / 2 ^ 36 % 4 ≠ 3 ∧ v.toNat / 2 ^ 38 % 4 ≠ 3) : tapedOk v = true := by
    simpa [tapedOk, and_assoc] using h
  have hsome {c : Prop} [Decidable c] {q : Proc} (h : c) : (if c then some q else none).isSome = true := by rw [if_pos h]; rfl
  refine ⟨⟨rfl, .inl rfl, fun _ => rfl⟩, ⟨rfl, .inl rfl, fun _ => rfl⟩, ⟨rfl, .inl rfl, fun _ => rfl⟩, ⟨rfl, .inr rfl, fun _ => rfl⟩,
    ⟨rfl, .inr rfl, fun _ => rfl⟩, ⟨rfl, .inr rfl, fun _ => rfl⟩, ⟨rfl, .inr rfl, fun _ => rfl⟩, ⟨rfl, .inr rfl, fun h => hsome h⟩,
    ⟨rfl, .inr rfl, fun _ => rfl⟩, ⟨rfl, .inr rfl, fun _ => rfl⟩, ⟨rfl, .inr rfl, fun h => hsome (hfmt h)⟩, ⟨rfl, .inr rfl, fun _ => rfl⟩,
    ⟨rfl, .inr rfl, fun _ => rfl⟩, ⟨rfl, .inr rfl, fun h => hsome h⟩, ⟨rfl, .inr rfl, fun h => hsome (htaped h)⟩, fun _ h => absurd h List.not_mem_nil⟩

/-- A write of a CSR leaves the program counter and the state of its process. -/
theorem csrWrite_keeps {n : Nat} {v : Word} {q : Proc} (h : p.csrWrite n v = some q) : q.pc = p.pc ∧ q.st = p.st := by
  unfold Proc.csrWrite at h
  split at h <;> grind

/-! ### What group, START and RESM steps keep (06 R153 to R163) -/

theorem Kept.sendStart {t : State} (h : Kept t k p) (q : Proc) (l : Launch) (m : StartMsg) (wait : Nat) : Kept (t.sendStart q l m wait) k p :=
  h.of_procs (sendStart_procs ..)

theorem Kept.modGroup {t : State} (h : Kept t k p) (g : Nat) (f : Group → Group) : Kept (t.modGroup g f) k p := h.of_procs (modGroup_procs ..)

/-- A process that is suspended and resumes is not one that is resident. -/
theorem Kept.resume {t u : State} {j : Nat} {q : Proc} (h : Kept t k p) (hst : p.st = .resident) (hq : t.proc j = some q)
    (hsusp : q.st = .suspended) (hu : t.resume j q = some u) : Kept u k p := by
  have hne : k ≠ j := by
    rintro rfl
    obtain ⟨r, hr, _, hrst⟩ := h
    cases hr.symm.trans hq
    cases hsusp.symm.trans (hrst.trans hst)
  have hother {v : State} (hv : v.proc k = t.proc k) : Kept v k p := by
    unfold Kept
    rwa [hv]
  have hput (r : Proc) : (t.putProc j r).proc k = t.proc k := tget_tput_ne _ _ hne
  simp only [State.resume, hsusp] at hu
  split at hu
  · cases hu
    exact hother ((enterBlocked_proc_ne _ hne).trans (hput _))
  · split at hu
    · cases hu
      exact hother (hput _)
    · cases hu
      exact hother (hput _)

/-! ### The spawn word (06 R153, R156) -/

theorem spawnOk_of {w : Word} (h48 : w.toNat < 2 ^ 48) (hentry : w.toNat / 2 ^ 32 % 4 = 0) (hvec : w.toNat / 4 % 8 ≤ 4) : spawnOk w = true := by
  have he : spawnEntry w % 4 = 0 := by
    simp only [spawnEntry, BitVec.extractLsb'_toNat, Nat.shiftRight_eq_div_pow]
    omega
  have hv : spawnVec w ≤ 4 := by
    simp only [spawnVec, BitVec.extractLsb'_toNat, Nat.shiftRight_eq_div_pow]
    omega
  simp only [spawnOk, h48, he, hv, decide_true, Bool.and_self]

theorem spawnTarget_eq (w : Word) : spawnTarget w = w.toNat / 2 ^ 7 % 2 ^ 25 := by
  simp only [spawnTarget, BitVec.extractLsb'_toNat, Nat.shiftRight_eq_div_pow]

theorem levelWord_valid {ws : List Word} {n : Nat} (h : (ws.getD (16 + n) 0).getLsbD 0 = true) : levelValid (levelWord ws n) = true := by
  have hoff : (0x80 + 8 * n) / 8 = 16 + n := by omega
  unfold levelValid levelWord recWord
  rwa [hoff]

/-! ### Fences, CSR instructions and barriers of the process that issues -/

section
variable (hs : s.Issues k p)
include hs

theorem fencesComplete (ht : s.Takes p [d]) (hloads : p.loads = []) (hsb : ∀ e ∈ (s.core p.core).sb, e.name ≠ p.name)
    (hinv : ∀ c ∈ s.cores, ∀ v ∈ c.2.invals, v.poster ≠ p.name) :
    (∀ sc kd, ∃ v, Completes s k p (.fence d sc kd) [] [(d, v)]) ∧ Completes s k p .drainS [] [] ∧ Completes s k p .isync [] [] := by
  have hkept := Kept.self hs.2
  have hstores := hasStores_eq_false hsb
  refine ⟨fun sc kd => ⟨((s.group? p.gid).map Group.failBits).getD 0, completes_of_endsBy hs rfl ?_⟩, completes_of_endsBy hs rfl ?_,
    completes_of_endsBy hs rfl ?_⟩
  · rw [issue_ok (gives_nil s p) ht]
    simp only [hloads, hstores, invalPending_eq_false hinv, List.isEmpty_nil, Bool.not_true, Bool.and_false, Bool.false_eq_true, if_false]
    exact .intro hkept _ _
  · rw [hstores]
    exact .intro hkept _ _
  · rw [codePending_eq_false hsb]
    exact .intro hkept _ _

/-! ### CSR instructions (05 R130) -/

theorem csrReadsComplete (ht : s.Takes p [d]) (n : BitVec 12) (m : BitVec 2) (e : Nat × Nat × Option Nat × Word) (he : e ∈ csrTable s p)
    (hn : e.1 = n.toNat) (hl : e.2.1 ≤ p.level) :
    Completes s k p (.csrr d n) [] [(d, e.2.2.2)] ∧ Completes s k p (.csrs d ⟨0, m⟩ n) [srcField ⟨0, m⟩ 0] [(d, e.2.2.2)] ∧
      Completes s k p (.csrc d ⟨0, m⟩ n) [srcField ⟨0, m⟩ 0] [(d, e.2.2.2)] := by
  obtain ⟨hlev, hval⟩ := csrTable_read s p e he
  rw [hn] at hlev hval
  have hkept := Kept.self hs.2
  have hread {fs : List Field} {vals : List Word} (hg : s.Gives p fs vals) :
      EndsBy (s.csrGate k p n.toNat false (s.issue k p fs [d] (fun _ c => s.retire k c [(d, s.csrRead p n.toNat)]))) k p (consumeMask p fs)
        [(d, e.2.2.2)] := by
    rw [csrGate_read hlev hl, issue_ok hg ht, hval]
    exact .intro hkept _ _
  have hzero : s.Gives p [srcField ⟨0, m⟩ 0] [0] := gives_zero s p _ rfl
  exact ⟨completes_of_endsBy hs rfl (hread (gives_nil s p)), completes_of_endsBy hs rfl (hread hzero), completes_of_endsBy hs rfl (hread hzero)⟩

theorem csrWriteCompletes (ht : s.Takes p [d]) {a : Src} {x : Word} (hg : s.Gives p [srcField a 0] [x]) {n : Nat} (bits : Bool)
    (f : Word → Word → Word) (e : Nat × Prop × Proc) (he : e ∈ csrWrites p (f (s.csrRead p n) x)) (hn : e.1 = n) (hok : e.2.1) :
    EndsBy (s.csrChange k p d a n bits f) k p (consumeMask p [srcField a 0]) [(d, s.csrRead p n)] := by
  obtain ⟨hproc, hlev, hsome⟩ := csrWrites_write p _ e he
  rw [hn] at hproc hlev hsome
  obtain ⟨q, hq⟩ := Option.isSome_iff_exists.1 (hsome hok)
  have htinv : n ≠ 0x7C8 := by
    rintro rfl
    cases hproc
  have hgate (go : State) : s.csrGate k p n true go = go := by
    rcases hlev with h | h <;> simp only [State.csrGate, h, Nat.not_lt_zero, if_false, if_true]
  have hkept := Kept.self hs.2
  obtain ⟨hpc, hst⟩ := csrWrite_keeps hq
  have hput : s.csrPut k p n (f (s.csrRead p n) x) = some (s.putProc k q) := by simp only [State.csrPut, hproc, if_true, hq, Option.map_some]
  unfold State.csrChange
  rw [hgate, issue_ok hg ht]
  simp only [List.getD_cons_zero, hput, htinv, if_false]
  by_cases hz : (bits && decide (x = 0)) = true
  · simp only [hz, if_true]
    exact .intro hkept _ _
  · simp only [hz]
    exact .intro (hkept.putProc hs.2 hpc hst) _ _

theorem csrWritesComplete (ht : s.Takes p [d]) (a : Src) (x : Word) (n : BitVec 12) (hg : s.Gives p [srcField a 0] [x]) :
    (∀ e ∈ csrWrites p x, e.1 = n.toNat → e.2.1 → Completes s k p (.csrw d a n) [srcField a 0] [(d, s.csrRead p n.toNat)]) ∧
    (a.reg ≠ 0 →
      (∀ e ∈ csrWrites p (s.csrRead p n.toNat ||| x), e.1 = n.toNat → e.2.1 →
        Completes s k p (.csrs d a n) [srcField a 0] [(d, s.csrRead p n.toNat)]) ∧
      (∀ e ∈ csrWrites p (s.csrRead p n.toNat &&& ~~~x), e.1 = n.toNat → e.2.1 →
        Completes s k p (.csrc d a n) [srcField a 0] [(d, s.csrRead p n.toNat)])) := by
  refine ⟨fun e he hn hok => completes_of_endsBy hs rfl (csrWriteCompletes hs ht hg false (fun _ x => x) e he hn hok), fun ha =>
    ⟨fun e he hn hok => completes_of_endsBy hs rfl ?_, fun e he hn hok => completes_of_endsBy hs rfl ?_⟩⟩
  · rw [if_neg ha]
    exact csrWriteCompletes hs ht hg true (fun old x => old ||| x) e he hn hok
  · rw [if_neg ha]
    exact csrWriteCompletes hs ht hg true (fun old x => old &&& ~~~x) e he hn hok


/-! ### Process instructions (06 R153 to R170) -/

theorem exitWaits {a : Src} {x : Word} (hg : s.Gives p [srcField a 0] [x]) : Awaits s k p (.exit a) .exitDrain := by
  refine awaits_of_blockedFor hs rfl ?_
  rw [issue_ok hg (takes_nil s p)]
  refine .after (.modProc (block_blockedFor hs.2 rfl _) ?_) _ _
  exact fun _ => ⟨rfl, rfl, rfl⟩

theorem wfwWaits {a : Src} {x : Word} (hg : s.Gives p [srcField a 0] [x]) (hx : x.toNat < 64) {ke n : Nat} {e : Ep}
    (hh : s.handle p.name x.toNat = some (ke, e)) (he : e.server = some (.dispenser n)) : Awaits s k p (.wfw a) (.wfw x.toNat) := by
  have hdisp : s.dispenserOf p.name x.toNat = some (ke, e, n) := by simp only [State.dispenserOf, hh, he]
  refine awaits_of_blockedFor hs rfl ?_
  rw [issue_ok hg (takes_nil s p)]
  simp only [List.getD_cons_zero, Nat.not_le.2 hx, if_false, hdisp]
  refine .after (.modProc (block_blockedFor hs.2 rfl _) ?_) _ _
  exact fun _ => ⟨rfl, rfl, rfl⟩

theorem gwaitCompletes {a : Src} {x : Word} (hg : s.Gives p [srcField a 0] [x]) {g : Group} (hgroup : s.group? p.gid = some g)
    (hx : x.toNat < g.phase) : Completes s k p (.gwait a) [srcField a 0] [] := by
  refine completes_of_endsBy hs rfl ?_
  rw [issue_ok hg (takes_nil s p)]
  simp only [hgroup, List.getD_cons_zero, hx, if_true]
  exact .intro (.self hs.2) _ _

theorem gexpCompletes {a b : Src} {x y : Word} (hg : s.Gives p [srcField a 0, srcField b 1] [x, y]) {g : Group} {ke : Nat} {z : Ep}
    (hgroup : s.group? p.gid = some g) (hh : s.handle p.name (x.toNat % 64) = some (ke, z)) (hlen : g.expects.length < 16) :
    Completes s k p (.gexp a b) [srcField a 0, srcField b 1] [] := by
  have hkept := Kept.self hs.2
  refine completes_of_endsBy hs rfl ?_
  rw [issue_ok hg (takes_nil s p)]
  simp only [List.getD_cons_zero, List.getD_cons_succ, hh, hgroup, Nat.not_le.2 hlen, if_false]
  by_cases hy : y = 0
  · rw [if_pos hy]
    exact .intro hkept _ _
  · rw [if_neg hy]
    exact .intro (hkept.putGroup _ _) _ _

/-- Barriers of a member that has not arrived in the phase and has nothing to release (06 R169). -/
theorem barriersComplete (ht : s.Takes p [d]) {g : Group} (hgroup : s.group? p.gid = some g) (hname : p.name ∉ g.arrived)
    (harr : p.arriving ≠ some g.phase) (hset : s.Settled p) :
    Completes s k p (.garr d) [] [(d, BitVec.ofNat 64 g.phase)] ∧ Awaits s k p (.gbar d) (.barrier g.phase) := by
  have hnot : hasArrived g p = false := by simp [hasArrived, hname, harr]
  have hrelease := releaseStores_of_settled hs.2 hset
  have hproc : (s.arrive k p g).proc k = some { p with arriving := some g.phase } := by
    unfold State.arrive
    rw [hrelease]
    exact State.modProc_proc_self hs.2 _
  refine ⟨completes_of_endsBy hs rfl ?_, awaits_of_blockedFor hs rfl ?_⟩
  · rw [issue_ok (gives_nil s p) ht]
    simp only [hgroup, hnot, Bool.false_eq_true, if_false]
    exact .intro ⟨_, hproc, rfl, rfl⟩ _ _
  · rw [issue_ok (gives_nil s p) ht]
    simp only [hgroup, hnot, Bool.false_eq_true, if_false]
    exact (block_blockedFor hproc rfl _).modProc fun _ => ⟨rfl, rfl, rfl⟩

theorem trapwCompletes (ht : s.Takes p [d]) (hlevel : 1 ≤ p.level) {n : Word} {rest : List Word} (hq : tgetD s.supq p.name [] = n :: rest)
    (w : BitVec 1) : Completes s k p (.trapw d w) [] [(d, n)] := by
  refine completes_of_endsBy hs rfl ?_
  rw [needS_ok hlevel, issue_ok (gives_nil s p) ht]
  simp only [hq]
  have hkept : Kept { s with supq := tput s.supq p.name rest } k p := (Kept.self hs.2).of_procs rfl
  exact .intro (hkept.of_procs (nextNote_procs ..)) _ _

theorem lookInsn_endsBy {x : Word} (hx : x.toNat < 2 ^ 40) (op : LookOp) (arg : Nat) (c : BitVec 16) :
    EndsBy (s.lookInsn k p op d x arg c) k p c [] := by
  unfold State.lookInsn
  rw [if_neg (Nat.not_le.2 hx)]
  exact .intro ((Kept.produce hs.2 d).of_procs (lookOut_procs _ _ _)) _ _

/-- The corners of a rectangle on one die, at level M: what QUIESCE and QUIESCE.R do there. -/
theorem quiesceInsn_endsBy {x y : Word} (hlevel : p.level = 2) (hx : coreIdOk x.toNat = true) (hy : coreIdOk y.toNat = true)
    (hdie : dieOf x.toNat = dieOf y.toNat) {act : State → List Nat → State} (hact : ∀ t fs, Kept t k p → Kept (act t fs) k p) (c : BitVec 16) :
    EndsBy (s.quiesceInsn k p d [x, y] c act) k p c [] := by
  simp only [State.quiesceInsn, List.getD_cons_zero, List.getD_cons_succ, hx, hy, hdie, hlevel, ne_eq, not_true_eq_false, decide_false,
    Bool.not_true, Bool.false_and, Bool.false_eq_true, if_false]
  exact .intro (hact _ _ (.produce hs.2 d)) _ _

section
variable (ht : s.Takes p [d]) (htag : p.HasTag d)
include ht htag

theorem killgCompletes {a : Src} {x : Word} (hg : s.Gives p [srcField a 0] [x]) (hlevel : 1 ≤ p.level) :
    Completes s k p (.killg d a) [srcField a 0] [] := by
  have hkept := Kept.produce hs.2 d
  refine completes_of_endsBy hs rfl ?_
  rw [needS_ok hlevel, issueFill_ok hg ht htag]
  refine .intro (hkept.of_procs ?_) _ _
  dsimp only
  split
  · rfl
  · split
    · rfl
    · split
      · rfl
      · exact startKill_procs ..

theorem lookupsComplete {a : Src} {x : Word} (hg : s.Gives p [srcField a 0] [x]) (hx : x.toNat < 2 ^ 40) :
    Completes s k p (.pinfo d a) [srcField a 0] [] ∧
      (1 ≤ p.level → Completes s k p (.susp d a) [srcField a 0] [] ∧ Completes s k p (.resm d a) [srcField a 0] []) := by
  have hlook (op : LookOp) : EndsBy (s.issueFill k p [srcField a 0] d (fun vals c => s.lookInsn k p op d (vals.getD 0 0) 0 c)) k p
      (consumeMask p [srcField a 0]) [] := by
    rw [issueFill_ok hg ht htag]
    exact lookInsn_endsBy hs hx op 0 _
  refine ⟨completes_of_endsBy hs rfl (hlook .pinfo), fun hlevel => ⟨completes_of_endsBy hs rfl ?_, completes_of_endsBy hs rfl ?_⟩⟩
  · rw [needS_ok hlevel]
    exact hlook .susp
  · rw [needS_ok hlevel]
    exact hlook .resm

theorem migrCompletes {a b : Src} {x y : Word} (hg : s.Gives p [srcField a 0, srcField b 1] [x, y]) (hlevel : 1 ≤ p.level)
    (hx : x.toNat < 2 ^ 40) (hy : coreIdOk y.toNat = true) : Completes s k p (.migr d a b) [srcField a 0, srcField b 1] [] := by
  refine completes_of_endsBy hs rfl ?_
  rw [needS_ok hlevel, issueFill_ok hg ht htag]
  simp only [List.getD_cons_zero, List.getD_cons_succ, Nat.not_le.2 hx, hy, Bool.not_true, Bool.false_eq_true, if_false]
  exact lookInsn_endsBy hs hx _ _ _

/-! ### QUIESCE and its end (06 R165) -/


theorem quiesceComplete {a b : Src} {x y : Word} (hg : s.Gives p [srcField a 0, srcField b 1] [x, y]) (hlevel : p.level = 2)
    (hx : coreIdOk x.toNat = true) (hy : coreIdOk y.toNat = true) (hdie : dieOf x.toNat = dieOf y.toNat) :
    Completes s k p (.quiesce d a b) [srcField a 0, srcField b 1] [] := by
  refine completes_of_endsBy hs rfl ?_
  rw [needS_ok (by omega), issueFill_ok hg ht htag]
  refine quiesceInsn_endsBy hs hlevel hx hy hdie (fun t fs hkept => ?_) _
  refine .after (.setQuiet (.foldl (fun u e hu => ?_) _ hkept) _) _ _
  split
  · exact hu
  · exact hu.modProc _ (fun _ => rfl) fun _ => rfl

theorem quiesceRCompletes {a b : Src} {x y : Word} (hst : p.st = .resident) (hg : s.Gives p [srcField a 0, srcField b 1] [x, y]) (hlevel : p.level = 2)
    (hx : coreIdOk x.toNat = true) (hy : coreIdOk y.toNat = true) (hdie : dieOf x.toNat = dieOf y.toNat) :
    Completes s k p (.quiesceR d a b) [srcField a 0, srcField b 1] [] := by
  refine completes_of_endsBy hs rfl ?_
  rw [needS_ok (by omega), issueFill_ok hg ht htag]
  refine quiesceInsn_endsBy hs hlevel hx hy hdie (fun t fs hkept => ?_) _
  refine .after (.setQuiet (.foldl (fun u e hu => ?_) _ hkept) _) _ _
  split
  · next q hq =>
    split
    · exact hu
    · split
      · next hsusp =>
        cases hres : u.resume e.1 q with
        | none => exact hu
        | some v => exact hu.resume hst hq (by simpa using hsusp) hres
      · exact hu.putProc hq rfl rfl
  · exact hu

/-! ### SPAWN and GANG (06 R153 to R156) -/

theorem spawnCompletes {a b : Src} {n pl : BitVec 1} {v : BitVec 3} {w y a1 a2 a3 a4 : Word} {l : Launch} {e : LaunchEntry}
    (hl : s.launchOf p = some l) (he : tget s.ltab (p.core * 16 + p.launch) = some e) (hset : s.Settled p) (hok : spawnOk w = true)
    (htarget : pl = 0 → coreIdOk (spawnTarget w) = true) (hlv : pl = 1 → levelValid (levelWord l.words v.toNat) = true)
    (hg : s.Gives p ([srcField a 0, srcField b 1] ++ [1, 2, 3, 4].map (fun r => plainField (BitVec.ofNat 4 r) 3)) [w, y, a1, a2, a3, a4]) :
    Completes s k p (.spawn d a b n pl v) ([srcField a 0, srcField b 1] ++ [1, 2, 3, 4].map (fun r => plainField (BitVec.ofNat 4 r) 3)) [] := by
  have hkept := Kept.produce hs.2 d
  have hlv' : (decide (pl = 1) && !levelValid (levelWord l.words v.toNat)) = false := by
    by_cases h : pl = 1
    · simp only [hlv h, Bool.not_true, Bool.and_false]
    · simp only [h, decide_false, Bool.false_and]
  have htarget' : (decide (pl = 0) && !coreIdOk (spawnTarget w)) = false := by
    by_cases h : pl = 0
    · simp only [htarget h, Bool.not_true, Bool.and_false]
    · simp only [h, decide_false, Bool.false_and]
  refine completes_of_endsBy hs rfl ?_
  rw [issueFill_ok hg ht htag]
  simp only [List.getD_cons_zero, hl, he, hok, hlv', htarget', Bool.not_true, Bool.false_eq_true, if_false, releaseStores_produce hs.2 hset]
  generalize (if n = 1 ∨ [w, y, a1, a2, a3, a4].getD 1 0 = 0 then p.gid else ([w, y, a1, a2, a3, a4].getD 1 0).toNat) = gid
  split
  · exact .intro (hkept.after _ _) _ _
  · split
    · exact .intro (hkept.after _ _) _ _
    · split
      · exact .intro (hkept.after _ _) _ _
      · split
        · exact .intro (hkept.after _ _) _ _
        · split
          · split
            · exact .intro ((hkept.putGroup _ _).sendStart _ _ _ _) _ _
            · exact .intro (hkept.sendStart _ _ _ _) _ _
          · exact .intro ((hkept.modGroup _ _).sendStart _ _ _ _) _ _

theorem gangCompletes {a : Src} {e8 : BitVec 1} {w a1 a2 a3 a4 : Word} {l : Launch} {e : LaunchEntry}
    (hl : s.launchOf p = some l) (he : tget s.ltab (p.core * 16 + p.launch) = some e) (hset : s.Settled p) (hok : spawnOk w = true)
    (htarget : coreIdOk (spawnTarget w) = true) (hnodes : ∀ c ∈ l.nodes, (s.ltabIndex c e.launch).isSome)
    (hg : s.Gives p ([srcField a 0] ++ [1, 2, 3, 4].map (fun r => plainField (BitVec.ofNat 4 r) 3)) [w, a1, a2, a3, a4]) :
    Completes s k p (.gang d a e8) ([srcField a 0] ++ [1, 2, 3, 4].map (fun r => plainField (BitVec.ofNat 4 r) 3)) [] := by
  have hkept := Kept.produce hs.2 d
  have hhere (cores : List Nat) : cores.any (fun x => l.nodes.contains x && (s.ltabIndex x e.launch).isNone) = false :=
    List.any_eq_false.2 fun x _ => by
      by_cases hx : x ∈ l.nodes
      · have := hnodes x hx
        simp [hx, Option.isSome_iff_ne_none.1 this]
      · simp [hx]
  refine completes_of_endsBy hs rfl ?_
  rw [issueFill_ok hg ht htag]
  simp only [List.getD_cons_zero, hl, he, hok, htarget, hhere, Bool.not_true, Bool.false_eq_true, if_false, releaseStores_produce hs.2 hset]
  split
  · exact .intro (hkept.after _ _) _ _
  · split
    · exact .intro (hkept.after _ _) _ _
    · next cores _ =>
      generalize (if s.startCheck l (cores.headD 0) (spawnVec w) = 0 ∧ (32 ≤ s.homes (cores.headD 0) ∨ (s.freeGid l e.node).isNone = true) then 5
        else s.startCheck l (cores.headD 0) (spawnVec w)) = first
      split
      · exact .intro (hkept.after _ _) _ _
      · split
        · exact .intro (hkept.after _ _) _ _
        · split
          · exact .intro (hkept.after _ _) _ _
          · exact .intro (.foldl (fun u x hu => (hu.modCore _ _).sendStart _ _ _ _) _ (hkept.putGroup _ _)) _ _

end
end
end

/-- Settles O59: each clause by the lemma of its instructions. -/
theorem systemAndProcessWordsComplete : Obligations.SystemAndProcessWordsComplete := by
  intro s k p d hs hst ht htag
  refine ⟨fencesComplete hs ht, fun n m e he hn hl => csrReadsComplete hs ht n m e he hn hl, fun a x n hg => csrWritesComplete hs ht a x n hg,
    fun a x hg => ⟨exitWaits hs hg, killgCompletes hs ht htag hg, fun hx _ => lookupsComplete hs ht htag hg hx,
      fun g hgroup hx => gwaitCompletes hs hg hgroup hx, fun ke e n hx hh he => wfwWaits hs hg hx hh he⟩,
    fun a b x y hg => ⟨fun hlevel hx hy _ => migrCompletes hs ht htag hg hlevel hx hy,
      fun hlevel hx hy hdie => ⟨quiesceComplete hs ht htag hg hlevel hx hy hdie, quiesceRCompletes hs ht htag hst hg hlevel hx hy hdie⟩,
      fun g ke z hgroup hh hlen => gexpCompletes hs hg hgroup hh hlen⟩,
    fun g hgroup hname harr hset => barriersComplete hs ht hgroup hname harr hset,
    fun w n rest hlevel hq => trapwCompletes hs ht hlevel hq w,
    fun a b n pl v w y a1 a2 a3 a4 l e hl he hset h48 hentry hvec htarget => ?_⟩
  have hok := spawnOk_of h48 hentry hvec
  refine ⟨fun hg hlv => ?_, fun f e8 hg htgt hcore hnodes => ?_⟩
  · exact spawnCompletes hs ht htag hl he hset hok (fun h => spawnTarget_eq w ▸ htarget h) (fun h => levelWord_valid (hlv h)) hg
  · exact gangCompletes hs ht htag hl he hset hok (by rwa [spawnTarget_eq, htgt]) hnodes hg

end Sys2Proof.Machine
end

section
/-! PROOFS. Integer instructions give the results of Tables 5.4 and 5.5 (05 R112 to R114; 03 R54). -/

namespace Sys2Proof.Machine

/-! ### Counting bits (05 Table 5.4) -/

/-- Leading zeros are counted from the highest bit that is set. -/
theorem leadZeros_eq (a : Word) (n : Nat) :
    leadZeros a n = (((List.range n).filter (fun i => a.getLsbD i)).getLast?.map (fun i => n - 1 - i)).getD n := by
  induction n with
  | zero => rfl
  | succ n ih =>
    rw [leadZeros, List.range_succ, List.filter_append]
    by_cases h : a.getLsbD n = true
    · simp [h]
    · simp only [h, List.filter_cons_of_neg, List.filter_nil, List.append_nil, if_false, not_false_eq_true, Bool.false_eq_true]
      rw [ih]
      cases hl : ((List.range n).filter (fun i => a.getLsbD i)).getLast? with
      | none => rfl
      | some i =>
        have hi : i < n := List.mem_range.1 (List.mem_of_mem_filter (List.mem_of_getLast? hl))
        simp only [Option.map_some, Option.getD_some]
        omega

/-- Trailing zeros are counted up to the lowest bit that is set. -/
theorem trailZeros_eq (a : Word) (i n : Nat) :
    trailZeros a i n = (((List.range' i n).filter (fun j => a.getLsbD j)).head?.map (fun j => j - i)).getD n := by
  induction n generalizing i with
  | zero => rfl
  | succ n ih =>
    rw [trailZeros, List.range'_succ]
    by_cases h : a.getLsbD i = true
    · simp [h]
    · rw [if_neg h, ih, List.filter_cons_of_neg h]
      cases hl : ((List.range' (i + 1) n).filter (fun j => a.getLsbD j)).head? with
      | none => rfl
      | some j =>
        have hj : i + 1 ≤ j := (List.mem_range'_1.1 (List.mem_of_mem_filter (List.mem_of_head? hl))).1
        simp only [Option.map_some, Option.getD_some]
        omega

theorem onesBelow_eq (a : Word) (n : Nat) : onesBelow a n = ((List.range n).filter (fun i => a.getLsbD i)).length := by
  induction n with
  | zero => rfl
  | succ n ih =>
    rw [onesBelow, ih, List.range_succ, List.filter_append, List.length_append]
    by_cases h : a.getLsbD n = true <;> simp [h]

/-- A word is 0 when none of its bits is set. -/
theorem bitNumbers_eq_nil_iff (a : Word) : bitNumbers (fun i => a.getLsbD i) = [] ↔ a.toNat = 0 := by
  rw [bitNumbers, List.filter_eq_nil_iff]
  constructor
  · intro h
    have hz : a = 0 := BitVec.eq_of_getLsbD_eq fun i hi => by
      simpa using h i (List.mem_range.2 hi)
    rw [hz]
    rfl
  · intro h i _
    have hz : a = 0 := BitVec.eq_of_toNat_eq (by simpa using h)
    simp [hz]

theorem leadZeros_word (a : Word) :
    leadZeros a 64 = 63 - (bitNumbers (fun i => a.getLsbD i)).getLast?.getD 0 + (if a.toNat = 0 then 1 else 0) := by
  have hnil := bitNumbers_eq_nil_iff a
  rw [leadZeros_eq]
  change (((bitNumbers (fun i => a.getLsbD i)).getLast?).map _).getD 64 = _
  cases hl : (bitNumbers (fun i => a.getLsbD i)).getLast? with
  | none => rw [if_pos (hnil.1 (List.getLast?_eq_none_iff.1 hl))]; rfl
  | some i =>
    have hne : a.toNat ≠ 0 := fun h => by rw [hnil.2 h] at hl; cases hl
    rw [if_neg hne]
    rfl

theorem trailZeros_word (a : Word) : trailZeros a 0 64 = (bitNumbers (fun i => a.getLsbD i)).head?.getD 64 := by
  rw [trailZeros_eq, ← List.range_eq_range']
  change (((bitNumbers (fun i => a.getLsbD i)).head?).map (fun j => j)).getD 64 = _
  rw [Option.map_id']

/-! ### Words as numbers -/

theorem toNat_append_eq {m n : Nat} (x : BitVec m) (y : BitVec n) : (x ++ y).toNat = x.toNat * 2 ^ n + y.toNat := by
  rw [BitVec.toNat_append, ← Nat.shiftLeft_add_eq_or_of_lt y.isLt, Nat.shiftLeft_eq]

theorem byteSwap_as_bytes (a : Word) : byteSwap a = BitVec.ofNat 64 (leNat (leBytes 8 a.toNat).reverse) := by
  apply BitVec.eq_of_toNat_eq
  have h := a.isLt
  simp only [byteSwap, toNat_append_eq, BitVec.extractLsb'_toNat, Nat.shiftRight_eq_div_pow, leBytes, List.reverse_cons, List.reverse_nil,
    List.nil_append, List.cons_append, leNat, BitVec.toNat_ofNat, Nat.div_div_eq_div_mul, Nat.reducePow, Nat.reduceMul, Nat.div_one]
  omega

theorem zeroFrom_as_remainder (x y : Word) : zeroFrom x y = BitVec.ofNat 64 (x.toNat % 2 ^ (y.toNat % 64 + 1)) := rfl

theorem eq_ofNat_of_toNat {x : Word} {n : Nat} (h : x.toNat = n) : x = BitVec.ofNat 64 n := by
  rw [← h, BitVec.ofNat_toNat, BitVec.setWidth_eq]

section
variable (x y : Word)

theorem add_as_sum : x + y = BitVec.ofNat 64 (x.toNat + y.toNat) := by
  apply BitVec.eq_of_toNat_eq; simp

theorem mul_as_product : x * y = BitVec.ofNat 64 (x.toNat * y.toNat) := by
  apply BitVec.eq_of_toNat_eq; simp

theorem and_as_land : x &&& y = BitVec.ofNat 64 (x.toNat &&& y.toNat) := eq_ofNat_of_toNat (BitVec.toNat_and x y)

theorem or_as_lor : x ||| y = BitVec.ofNat 64 (x.toNat ||| y.toNat) := eq_ofNat_of_toNat (BitVec.toNat_or x y)

theorem xor_as_lxor : x ^^^ y = BitVec.ofNat 64 (x.toNat ^^^ y.toNat) := eq_ofNat_of_toNat (BitVec.toNat_xor x y)

end

/-- A word of at most 64 bits, sign-extended, is its value as a signed number. -/
theorem sext_eq_ofInt {n : Nat} (v : BitVec n) : sext v = BitVec.ofInt 64 v.toInt := rfl

/-- The signed value of a word from its unsigned one. -/
theorem toInt_eq_ite {n : Nat} (v : BitVec (n + 1)) :
    v.toInt = if 2 ^ n ≤ v.toNat then (v.toNat : Int) - 2 ^ (n + 1) else v.toNat := by
  have hp : ((2 ^ n : Nat) : Int) = 2 ^ n := by push_cast; rfl
  rw [BitVec.toInt_eq_toNat_cond, pow_succ, pow_succ]
  push_cast
  split <;> split <;> omega

/-! ### What two or one sources give (05 R112) -/

theorem execCompute2 {s : State} {k : Nat} {p : Proc} {a b : Src} {d : Reg} {x y : Word}
    (h : s.Runs k p [srcField a 0, srcField b 1] [x, y] [d]) (f : Word → Word → Word) :
    onCur s (fun k p => s.compute2 k p d a b f) = .next (s.retire k (consumeMask p [srcField a 0, srcField b 1]) [(d, f x y)]) := by
  obtain ⟨hissues, hgives, htakes⟩ := h
  rw [onCur_next hissues, State.compute2, issue_ok hgives htakes]
  rfl

theorem execCompute1 {s : State} {k : Nat} {p : Proc} {a : Src} {d : Reg} {x : Word} (h : s.Runs k p [srcField a 0] [x] [d])
    (f : Proc → Word → Word) :
    onCur s (fun k p => s.compute1 k p d a (f p)) = .next (s.retire k (consumeMask p [srcField a 0]) [(d, f p x)]) := by
  obtain ⟨hissues, hgives, htakes⟩ := h
  rw [onCur_next hissues, State.compute1, issue_ok hgives htakes]
  rfl

/-- An instruction with two sources computes a function of them. -/
def Computes2 (i : Reg → Src → Src → Instr) (g : Word → Word → Word) : Prop :=
  ∃ f, (∀ x y, f x y = g x y) ∧ ∀ d a b s, exec (i d a b) s = onCur s (fun k p => s.compute2 k p d a b f)

/-- An instruction with one source computes a function of it and of its process. -/
def Computes1 (i : Reg → Src → Instr) (g : Proc → Word → Word) : Prop :=
  ∃ f : Proc → Word → Word, (∀ p x, f p x = g p x) ∧ ∀ d a s, exec (i d a) s = onCur s (fun k p => s.compute1 k p d a (f p))

theorem Computes2.exec_eq {i : Reg → Src → Src → Instr} {g : Word → Word → Word} (hi : Computes2 i g) {s : State} {k : Nat} {p : Proc}
    {a b : Src} {d : Reg} {x y : Word} (h : s.Runs k p [srcField a 0, srcField b 1] [x, y] [d]) :
    exec (i d a b) s = .next (s.retire k (consumeMask p [srcField a 0, srcField b 1]) [(d, g x y)]) := by
  obtain ⟨f, hf, hexec⟩ := hi
  rw [hexec, execCompute2 h, hf]

theorem Computes1.exec_eq {i : Reg → Src → Instr} {g : Proc → Word → Word} (hi : Computes1 i g) {s : State} {k : Nat} {p : Proc} {a : Src}
    {d : Reg} {x : Word} (h : s.Runs k p [srcField a 0] [x] [d]) :
    exec (i d a) s = .next (s.retire k (consumeMask p [srcField a 0]) [(d, g p x)]) := by
  obtain ⟨f, hf, hexec⟩ := hi
  rw [hexec, execCompute1 h, hf]

/-- Table 5.4, the instructions with two sources, each by the law of its operation. -/
theorem intTwo_computes : ∀ e ∈ intTwo, Computes2 e.1 e.2 := by
  simp only [intTwo, List.forall_mem_cons]
  exact ⟨⟨_, add_as_sum, fun _ _ _ _ => rfl⟩, ⟨_, sub_as_int, fun _ _ _ _ => rfl⟩, ⟨_, and_as_land, fun _ _ _ _ => rfl⟩,
    ⟨_, or_as_lor, fun _ _ _ _ => rfl⟩, ⟨_, xor_as_lxor, fun _ _ _ _ => rfl⟩, ⟨_, andn_as_difference, fun _ _ _ _ => rfl⟩,
    ⟨_, shiftLeft_as_product, fun _ _ _ _ => rfl⟩, ⟨_, shiftRight_as_quotient, fun _ _ _ _ => rfl⟩,
    ⟨_, sshiftRight_as_quotient, fun _ _ _ _ => rfl⟩, ⟨_, rotateLeft_as_sum, fun _ _ _ _ => rfl⟩,
    ⟨_, mul_as_product, fun _ _ _ _ => rfl⟩, ⟨_, mulHigh_as_quotient, fun _ _ _ _ => rfl⟩, ⟨_, mulHighU_as_quotient, fun _ _ _ _ => rfl⟩,
    ⟨_, divSigned_as_cases, fun _ _ _ _ => rfl⟩, ⟨_, divUnsigned_as_quotient, fun _ _ _ _ => rfl⟩,
    ⟨_, remSigned_as_cases, fun _ _ _ _ => rfl⟩, ⟨_, remUnsigned_as_difference, fun _ _ _ _ => rfl⟩,
    ⟨_, minSigned_as_min, fun _ _ _ _ => rfl⟩, ⟨_, maxSigned_as_max, fun _ _ _ _ => rfl⟩,
    ⟨_, minUnsigned_as_min, fun _ _ _ _ => rfl⟩, ⟨_, maxUnsigned_as_max, fun _ _ _ _ => rfl⟩,
    ⟨_, signFrom_as_cases, fun _ _ _ _ => rfl⟩, ⟨_, zeroFrom_as_remainder, fun _ _ _ _ => rfl⟩,
    ⟨_, truth_eq, fun _ _ _ _ => rfl⟩, ⟨_, truth_ne, fun _ _ _ _ => rfl⟩, ⟨_, truth_slt, fun _ _ _ _ => rfl⟩,
    ⟨_, truth_ult, fun _ _ _ _ => rfl⟩, ⟨_, truth_sle, fun _ _ _ _ => rfl⟩, ⟨_, truth_ule, fun _ _ _ _ => rfl⟩,
    fun _ h => absurd h List.not_mem_nil⟩

/-- Table 5.4, the instructions with one source. -/
theorem intOne_computes : ∀ e ∈ intOne, Computes1 e.1 (fun _ => e.2) := by
  simp only [intOne, List.forall_mem_cons]
  exact ⟨⟨fun _ x => BitVec.ofNat 64 (leadZeros x 64), fun _ x => congrArg _ (leadZeros_word x), fun _ _ _ => rfl⟩,
    ⟨fun _ x => BitVec.ofNat 64 (trailZeros x 0 64), fun _ x => congrArg _ (trailZeros_word x), fun _ _ _ => rfl⟩,
    ⟨fun _ x => BitVec.ofNat 64 (onesBelow x 64), fun _ x => congrArg _ (onesBelow_eq x 64), fun _ _ _ => rfl⟩,
    ⟨fun _ => byteSwap, fun _ => byteSwap_as_bytes, fun _ _ _ => rfl⟩, fun _ h => absurd h List.not_mem_nil⟩

theorem integerInstructionsRetire : Claims.IntegerInstructionsRetire :=
  ⟨fun e he _ _ _ _ _ _ _ _ h => (intTwo_computes e he).exec_eq h, fun e he _ _ _ _ _ _ h => (intOne_computes e he).exec_eq h⟩

/-! ### Immediates (03 R54, 05 Table 5.5) -/

theorem zext_eq_ofNat {n : Nat} (v : BitVec n) : zext v = BitVec.ofNat 64 v.toNat := (BitVec.ofNat_toNat 64 v).symm

/-- The assembled immediate as one word, of the width that its payloads give. -/
theorem immediates_eq (pfx : List (BitVec 16)) (i : BitVec 16) :
    unsignedImm pfx i = BitVec.ofNat 64 (prefixedImm pfx i).1 ∧ signedImm pfx i = BitVec.ofInt 64 (prefixedImm pfx i).2 := by
  match pfx with
  | [] => exact ⟨zext_eq_ofNat i, congrArg (BitVec.ofInt 64) (toInt_eq_ite (n := 15) i)⟩
  | [x] =>
    have h : (x ++ i).toNat = x.toNat * 2 ^ 16 + i.toNat := toNat_append_eq x i
    have hsigned := toInt_eq_ite (n := 31) (x ++ i)
    rw [h] at hsigned
    exact ⟨(zext_eq_ofNat (x ++ i)).trans (congrArg (BitVec.ofNat 64) h), congrArg (BitVec.ofInt 64) hsigned⟩
  | x :: y :: _ =>
    have h : (x ++ y ++ i).toNat = x.toNat * 2 ^ 32 + y.toNat * 2 ^ 16 + i.toNat := by
      rw [toNat_append_eq, toNat_append_eq]; omega
    have hsigned := toInt_eq_ite (n := 47) (x ++ y ++ i)
    rw [h] at hsigned
    exact ⟨(zext_eq_ofNat (x ++ y ++ i)).trans (congrArg (BitVec.ofNat 64) h), congrArg (BitVec.ofInt 64) hsigned⟩

/-- The sum and the product of a word and a signed number. -/
theorem add_ofInt (x : Word) (i : Int) : x + BitVec.ofInt 64 i = BitVec.ofInt 64 (x.toInt + i) := by
  rw [BitVec.ofInt_add, BitVec.ofInt_toInt]

theorem mul_ofInt (x : Word) (i : Int) : x * BitVec.ofInt 64 i = BitVec.ofInt 64 (x.toInt * i) := by
  rw [BitVec.ofInt_mul, BitVec.ofInt_toInt]

/-- The assembled unsigned immediate is a number of 48 bits. -/
theorem prefixedImm_lt (pfx : List (BitVec 16)) (i : BitVec 16) : (prefixedImm pfx i).1 < 2 ^ 64 := by
  match pfx with
  | [] => exact lt_trans i.isLt (by decide)
  | [x] => have := x.isLt; have := i.isLt; simp only [prefixedImm, assembledImm]; omega
  | x :: y :: _ => have := x.isLt; have := y.isLt; have := i.isLt; simp only [prefixedImm, assembledImm]; omega

theorem unsignedImm_toNat (pfx : List (BitVec 16)) (i : BitVec 16) : (unsignedImm pfx i).toNat = (prefixedImm pfx i).1 := by
  rw [(immediates_eq pfx i).1, BitVec.toNat_ofNat, Nat.mod_eq_of_lt (prefixedImm_lt pfx i)]

theorem intPrefixed_computes : ∀ e ∈ intPrefixed, ∀ i, Computes1 (fun d a => e.1 d a i) (fun p x => e.2 x (prefixedImm p.pfx i)) := by
  simp only [intPrefixed, List.forall_mem_cons]
  refine ⟨fun i => ⟨fun p x => x + signedImm p.pfx i, fun p x => ?_, fun _ _ _ => rfl⟩,
    fun i => ⟨fun p x => x &&& unsignedImm p.pfx i, fun p x => ?_, fun _ _ _ => rfl⟩,
    fun i => ⟨fun p x => x ||| unsignedImm p.pfx i, fun p x => ?_, fun _ _ _ => rfl⟩,
    fun i => ⟨fun p x => x ^^^ unsignedImm p.pfx i, fun p x => ?_, fun _ _ _ => rfl⟩,
    fun i => ⟨fun p x => x * signedImm p.pfx i, fun p x => ?_, fun _ _ _ => rfl⟩, fun _ h => absurd h List.not_mem_nil⟩
  · exact (congrArg (x + ·) (immediates_eq p.pfx i).2).trans (add_ofInt x _)
  · simp only [and_as_land, unsignedImm_toNat]
  · simp only [or_as_lor, unsignedImm_toNat]
  · simp only [xor_as_lxor, unsignedImm_toNat]
  · exact (congrArg (x * ·) (immediates_eq p.pfx i).2).trans (mul_ofInt x _)

/-- A shift by an immediate is the shift by a word that holds it. -/
theorem amount_ofNat (n : BitVec 6) : amount (BitVec.ofNat 64 n.toNat) = n.toNat := by
  have := n.isLt
  simp only [amount, BitVec.toNat_ofNat]
  omega

theorem amount_ofNat_toNat (n : BitVec 6) : (BitVec.ofNat 64 n.toNat).toNat % 64 = n.toNat := amount_ofNat n

theorem intShift_computes : ∀ e ∈ intShift, ∀ n : BitVec 6, Computes1 (fun d a => e.1 d a n) (fun _ x => e.2 x n.toNat) := by
  simp only [intShift, List.forall_mem_cons]
  refine ⟨fun n => ⟨fun _ x => x <<< n.toNat, fun _ x => ?_, fun _ _ _ => rfl⟩, fun n => ⟨fun _ x => x >>> n.toNat, fun _ x => ?_, fun _ _ _ => rfl⟩,
    fun n => ⟨fun _ x => x.sshiftRight n.toNat, fun _ x => ?_, fun _ _ _ => rfl⟩,
    fun n => ⟨fun _ x => x.rotateLeft n.toNat, fun _ x => ?_, fun _ _ _ => rfl⟩, fun _ h => absurd h List.not_mem_nil⟩
  · simpa only [amount_ofNat, amount_ofNat_toNat] using shiftLeft_as_product x (BitVec.ofNat 64 n.toNat)
  · simpa only [amount_ofNat, amount_ofNat_toNat] using shiftRight_as_quotient x (BitVec.ofNat 64 n.toNat)
  · simpa only [amount_ofNat, amount_ofNat_toNat] using sshiftRight_as_quotient x (BitVec.ofNat 64 n.toNat)
  · simpa only [amount_ofNat, amount_ofNat_toNat] using rotateLeft_as_sum x (BitVec.ofNat 64 n.toNat)

theorem sext_toInt {n : Nat} (h : n ≤ 64) (v : BitVec n) : (sext v).toInt = v.toInt := BitVec.toInt_signExtend_of_le h

theorem truth_decide (c : Prop) [Decidable c] : truth (decide c) = if decide c = true then 1 else 0 := rfl

theorem intCompare_computes :
    ∀ e ∈ intCompare, ∀ i : BitVec 14, Computes1 (fun d a => e.1 d a i) (fun _ x => if e.2 x i.toInt then 1 else 0) := by
  simp only [intCompare, List.forall_mem_cons]
  have hsext (i : BitVec 14) : (sext i).toInt = i.toInt := sext_toInt (by decide) i
  refine ⟨fun i => ⟨fun _ x => truth (x == sext i), fun _ x => ?_, fun _ _ _ => rfl⟩,
    fun i => ⟨fun _ x => truth (x.slt (sext i)), fun _ x => ?_, fun _ _ _ => rfl⟩,
    fun i => ⟨fun _ x => truth (x.ult (sext i)), fun _ x => ?_, fun _ _ _ => rfl⟩, fun _ h => absurd h List.not_mem_nil⟩
  · simp only [truth_eq, BitVec.toNat_inj, ← BitVec.toInt_inj, hsext, decide_eq_true_eq]
  · simp only [truth_slt, hsext, decide_eq_true_eq]
  · have hmod : ((sext i).toNat : Int) = i.toInt % 2 ^ 64 := by
      rw [sext_eq_ofInt, BitVec.toNat_ofInt, Int.toNat_of_nonneg (Int.emod_nonneg _ (by decide))]
      rfl
    simp only [truth_ult, ← hmod, decide_eq_true_eq, Nat.cast_lt]

/-- LIH keeps the low half-word and puts the immediate, with its sign, above it. -/
theorem loadHigh_as_sum (x : Word) (i : BitVec 16) : loadHigh x i = BitVec.ofInt 64 (i.toInt * 2 ^ 16 + x.toNat % 2 ^ 16) := by
  have hlow : (x.extractLsb' 0 16).toNat = x.toNat % 2 ^ 16 := by simp [BitVec.extractLsb'_toNat]
  have h := toInt_eq_ite (n := 31) (i ++ x.extractLsb' 0 16)
  rw [toNat_append_eq, hlow] at h
  have hi := toInt_eq_ite (n := 15) i
  refine congrArg (BitVec.ofInt 64) (h.trans ?_)
  rw [hi]
  have := i.isLt
  split <;> split <;> push_cast <;> omega

theorem immediateInstructionsRetire : Claims.ImmediateInstructionsRetire := by
  intro s k p d a x h
  refine ⟨fun e he i => (intPrefixed_computes e he i).exec_eq h, fun e he n => (intShift_computes e he n).exec_eq h,
    fun e he i => (intCompare_computes e he i).exec_eq h, fun i => ?_⟩
  have hlih : Computes1 (fun d a => .lih d a i) (fun _ x => BitVec.ofInt 64 (i.toInt * 2 ^ 16 + x.toNat % 2 ^ 16)) :=
    ⟨fun _ x => loadHigh x i, fun _ x => loadHigh_as_sum x i, fun _ _ _ => rfl⟩
  exact hlih.exec_eq h

/-- Settles O10: every entry of the tables computes what its law says. -/
theorem integerResults : Obligations.IntegerResults := ⟨integerInstructionsRetire, immediateInstructionsRetire⟩

end Sys2Proof.Machine
end

section
/-! PROOFS. Scalar floating-point instructions retire with result and flags (05 R115 to R117); branches, jumps and LOOP go to their targets
(05 R126 to R128; 03 R49). -/

namespace Sys2Proof.Machine

/-! ### Scalar floating point -/

/-- An instruction with two sources gives one floating-point result. -/
def Floats2 (i : Reg → Src → Src → BitVec 1 → Instr) (g : Fmt → Rnd → Nat → Nat → Nat × FlagSet) : Prop :=
  ∃ f, (∀ z m x y, f z m x y = g z m x y) ∧ ∀ d a b z s, exec (i d a b z) s = onCur s (fun k p => s.float2 k p d a b z f)

/-- An instruction with one source gives one floating-point result. -/
def Floats1 (i : Reg → Src → BitVec 1 → Instr) (g : BitVec 1 → Rnd → Word → Word × FlagSet) : Prop :=
  ∃ f : BitVec 1 → Rnd → Word → Word × FlagSet, (∀ z m x, f z m x = g z m x) ∧
    ∀ d a z s, exec (i d a z) s = onCur s (fun k p => s.float1 k p d a (f z))

/-- An instruction with three sources gives a fused result, with the product and the addend negated or not. -/
def Fuses (i : Reg → Src → Src → Src → BitVec 1 → Instr) (neg : Bool × Bool) : Prop :=
  ∀ d a b c z s, exec (i d a b c z) s = onCur s (fun k p => s.fused k p d a b c z neg.1 neg.2)

theorem boolRes_eq (r : Bool × FlagSet) : boolRes r = (r.1.toNat, r.2) := by
  obtain ⟨b, fl⟩ := r
  cases b <;> rfl

theorem floatTwo_floats : ∀ e ∈ floatTwo, Floats2 e.1 e.2 := by
  simp only [floatTwo, List.forall_mem_cons]
  exact ⟨⟨_, fun _ _ _ _ => rfl, fun _ _ _ _ _ => rfl⟩, ⟨_, fun _ _ _ _ => rfl, fun _ _ _ _ _ => rfl⟩,
    ⟨_, fun _ _ _ _ => rfl, fun _ _ _ _ _ => rfl⟩, ⟨_, fun _ _ _ _ => rfl, fun _ _ _ _ _ => rfl⟩,
    ⟨_, fun _ _ _ _ => rfl, fun _ _ _ _ _ => rfl⟩, ⟨_, fun _ _ _ _ => rfl, fun _ _ _ _ _ => rfl⟩,
    ⟨fun f _ x y => boolRes (f.feq x y), fun _ _ _ _ => boolRes_eq _, fun _ _ _ _ _ => rfl⟩,
    ⟨fun f _ x y => boolRes (f.flt false x y), fun _ _ _ _ => boolRes_eq _, fun _ _ _ _ _ => rfl⟩,
    ⟨fun f _ x y => boolRes (f.flt true x y), fun _ _ _ _ => boolRes_eq _, fun _ _ _ _ _ => rfl⟩, fun _ h => absurd h List.not_mem_nil⟩

/-- FNEG inverts the sign bit, of which the number above it is 0 in an operand. -/
theorem fneg_eq (z : BitVec 1) (x : Word) : BitVec.ofNat 64 (operand z x) ^^^ BitVec.ofNat 64 (precision z).signBit =
    if z = 0 then BitVec.ofNat 64 (x.toNat % 2 ^ 32 ^^^ 2 ^ 31) else BitVec.ofNat 64 (x.toNat ^^^ 2 ^ 63) := by
  rw [← BitVec.ofNat_xor]
  unfold operand precision
  split <;> rfl

theorem fabs_eq (z : BitVec 1) (x : Word) : BitVec.ofNat 64 (operand z x % (precision z).signBit) =
    if z = 0 then BitVec.ofNat 64 (x.toNat % 2 ^ 31) else BitVec.ofNat 64 (x.toNat % 2 ^ 63) := by
  unfold operand precision
  split
  · exact congrArg (BitVec.ofNat 64) (Nat.mod_mod_of_dvd x.toNat (by decide))
  · rfl

theorem floatOne_floats : ∀ e ∈ floatOne, Floats1 e.1 e.2 := by
  simp only [floatOne, List.forall_mem_cons]
  refine ⟨⟨_, fun _ _ _ => rfl, fun _ _ _ _ => rfl⟩, ⟨fun z _ x => (_, 0), fun z _ x => congrArg (·, 0) (fneg_eq z x), fun _ _ _ _ => rfl⟩,
    ⟨fun z _ x => (_, 0), fun z _ x => congrArg (·, 0) (fabs_eq z x), fun _ _ _ _ => rfl⟩, ⟨_, fun _ _ _ => rfl, fun _ _ _ _ => rfl⟩,
    ⟨_, fun z _ _ => ?_, fun _ _ _ _ => rfl⟩, ⟨_, fun _ _ _ => rfl, fun _ _ _ _ => rfl⟩, ⟨_, fun _ _ _ => rfl, fun _ _ _ _ => rfl⟩,
    fun _ h => absurd h List.not_mem_nil⟩
  by_cases h : z = 0
  · simp only [h, if_true]
  · simp only [h, if_false]
    rfl

theorem floatFused_fuses : ∀ e ∈ floatFused, Fuses e.1 e.2 := by
  simp only [floatFused, List.forall_mem_cons]
  exact ⟨fun _ _ _ _ _ _ => rfl, fun _ _ _ _ _ _ => rfl, fun _ _ _ _ _ _ => rfl, fun _ _ _ _ _ _ => rfl, fun _ h => absurd h List.not_mem_nil⟩

/-- Settles O11: the operands issue, and the result retires with its flags. -/
theorem floatInstructionsRetire : Obligations.FloatInstructionsRetire := by
  refine fun s k p d z => ⟨fun e he a b x y h => ?_, fun e he a x h => ?_, fun e he a b c x y w h => ?_⟩
  all_goals obtain ⟨hissues, hgives, htakes⟩ := h
  · obtain ⟨f, hf, hexec⟩ := floatTwo_floats e he
    rw [hexec, onCur_next hissues, State.float2, issue_ok hgives htakes]
    simp only [hf]
    rfl
  · obtain ⟨f, hf, hexec⟩ := floatOne_floats e he
    rw [hexec, onCur_next hissues, State.float1, issue_ok hgives htakes]
    simp only [hf]
    rfl
  · rw [floatFused_fuses e he, onCur_next hissues, State.fused, issue_ok hgives htakes]
    rfl

/-! ### Branches, jumps and LOOP -/

/-- A branch target is a number of words from the branch word, modulo the ISTORE. -/
theorem target_eq_wordsFrom {n : Nat} (pc : BitVec 16) (o : BitVec n) : target pc o = wordsFrom pc o.toInt := by
  have hshift : o.signExtend 16 <<< 2 = BitVec.ofInt 16 (4 * o.toInt) := by
    rw [show o.signExtend 16 = BitVec.ofInt 16 o.toInt from rfl]
    rw [BitVec.shiftLeft_eq_mul_twoPow, mul_comm (4 : Int), BitVec.ofInt_mul]
    rfl
  rw [target, wordsFrom, hshift, BitVec.ofInt_add, BitVec.ofInt_natCast, BitVec.ofNat_toNat, BitVec.setWidth_eq]

theorem linkOf_eq (pc : BitVec 16) : linkOf pc = BitVec.ofNat 64 ((pc.toNat + 4) % 2 ^ 16) := by
  rw [linkOf, zext_eq_ofNat, BitVec.toNat_add]
  rfl

/-- An instruction branches on one register. -/
def Branches1 (i : Src → BitVec 17 → Instr) (taken : Int → Bool) : Prop :=
  ∃ f : Word → Bool, (∀ x, f x = taken x.toInt) ∧ ∀ a o s, exec (i a o) s = onCur s (fun k p => s.branch1 k p a o f)

/-- An instruction branches on two registers. -/
def Branches2 (i : Src → Src → BitVec 11 → Instr) (taken : Word → Word → Bool) : Prop :=
  ∃ f : Word → Word → Bool, (∀ x y, f x y = taken x y) ∧ ∀ a b o s, exec (i a b o) s = onCur s (fun k p => s.branch2 k p a b o f)

theorem beq_eq_decide_toNat (x y : Word) : (x == y) = decide (x.toNat = y.toNat) := by
  simp only [BitVec.toNat_inj]
  rfl

theorem beq_zero_eq_decide_toInt (x : Word) : (x == 0) = decide (x.toInt = 0) := by
  simp only [show (0 : Int) = (0 : Word).toInt from rfl, BitVec.toInt_inj]
  rfl

theorem branchOne_branches : ∀ e ∈ branchOne, Branches1 e.1 e.2 := by
  simp only [branchOne, List.forall_mem_cons]
  refine ⟨⟨_, beq_zero_eq_decide_toInt, fun _ _ _ => rfl⟩, ⟨_, fun x => ?_, fun _ _ _ => rfl⟩, ⟨_, fun _ => rfl, fun _ _ _ => rfl⟩,
    ⟨_, fun x => ?_, fun _ _ _ => rfl⟩, ⟨_, fun _ => rfl, fun _ _ _ => rfl⟩, ⟨_, fun x => ?_, fun _ _ _ => rfl⟩,
    fun _ h => absurd h List.not_mem_nil⟩
  · simp only [bne, beq_zero_eq_decide_toInt, ne_eq, decide_not]
  · exact (decide_not (p := x.toInt < 0)).symm.trans (by simp only [not_lt])
  · exact (decide_not (p := 0 < x.toInt)).symm.trans (by simp only [not_lt])

theorem branchTwo_branches : ∀ e ∈ branchTwo, Branches2 e.1 e.2 := by
  simp only [branchTwo, List.forall_mem_cons]
  refine ⟨⟨_, beq_eq_decide_toNat, fun _ _ _ _ => rfl⟩, ⟨_, fun x y => ?_, fun _ _ _ _ => rfl⟩, ⟨_, fun _ _ => rfl, fun _ _ _ _ => rfl⟩,
    ⟨_, fun x y => ?_, fun _ _ _ _ => rfl⟩, ⟨_, fun _ _ => rfl, fun _ _ _ _ => rfl⟩, ⟨_, fun x y => ?_, fun _ _ _ _ => rfl⟩,
    fun _ h => absurd h List.not_mem_nil⟩
  · simp only [bne, beq_eq_decide_toNat, ne_eq, decide_not]
  · exact (decide_not (p := x.toInt < y.toInt)).symm.trans (by simp only [not_lt])
  · exact (decide_not (p := x.toNat < y.toNat)).symm.trans (by simp only [not_lt])

/-- LOOP counts down to 0 from 1. -/
theorem loop_count (x : Word) : x - 1 = BitVec.ofInt 64 (x.toNat - 1) ∧ (x - 1 ≠ 0 ↔ x.toNat ≠ 1) := by
  constructor
  · rw [sub_eq_add_neg, sub_eq_add_neg, BitVec.ofInt_add, BitVec.ofInt_natCast, BitVec.ofNat_toNat, BitVec.setWidth_eq]
    rfl
  · rw [ne_eq, sub_eq_zero, ← BitVec.toNat_inj]
    rfl

/-- A word of LOOP that names g0 is no instruction. -/
theorem decode_loop_g0 (m : BitVec 2) (o : BitVec 17) : decode (BitVec.ofNat 32 (0x1C * 2 ^ 26 + m.toNat * 2 ^ 20 + o.toNat)) = none := by
  have hm := m.isLt
  have ho := o.isLt
  generalize hw : BitVec.ofNat 32 (0x1C * 2 ^ 26 + m.toNat * 2 ^ 20 + o.toNat) = w
  have hn : w.toNat = 0x1C * 2 ^ 26 + m.toNat * 2 ^ 20 + o.toNat := by
    rw [← hw, BitVec.toNat_ofNat, Nat.mod_eq_of_lt (by omega)]
  rw [decode]
  generalize w.toNat = n at hn
  have hraw : decodeRaw n = decodeMajor1C n := Laws.RoundTrip.raw1C (by omega)
  have hfld : fld n 17 3 = 0 := by simp only [fld]; omega
  have hreg : bits n 22 4 = 0 := by
    have : fld n 22 4 = 0 := by simp only [fld]; omega
    rw [bits, this]
    rfl
  rw [decodeNat, if_pos (by omega), hraw, decodeMajor1C, if_pos hfld, hreg]
  rfl

section
variable {s : State} {k : Nat} {p : Proc} {a : Src} {x : Word}

theorem jr_exec (h : s.Runs k p [srcField a 0] [x] []) : exec (.jr a) s = .next (s.jumpTo k (consumeMask p [srcField a 0]) [] x) := by
  obtain ⟨hissues, hgives, htakes⟩ := h
  exact (onCur_next hissues _).trans (congrArg _ (issue_ok hgives htakes _))

theorem jalr_exec {d : Reg} (h : s.Runs k p [srcField a 0] [x] [d]) :
    exec (.jalr d a) s = .next (s.jumpTo k (consumeMask p [srcField a 0]) [(d, BitVec.ofNat 64 ((p.pc.toNat + 4) % 2 ^ 16))] x) := by
  obtain ⟨hissues, hgives, htakes⟩ := h
  rw [← linkOf_eq]
  exact (onCur_next hissues _).trans (congrArg _ (issue_ok hgives htakes _))

theorem loop_exec {o : BitVec 17} (h : s.Runs k p [srcField a 0] [x] [a.reg]) : exec (.loop a o) s = .next (
      let t := s.retire k (consumeMask p [srcField a 0]) [(a.reg, BitVec.ofInt 64 (x.toNat - 1))]
      if x.toNat = 1 then t else t.modProc k (fun q => { q with pc := wordsFrom p.pc o.toInt })) := by
  obtain ⟨hissues, hgives, htakes⟩ := h
  obtain ⟨hcount, hzero⟩ := loop_count x
  refine (onCur_next hissues _).trans (congrArg _ ((issue_ok hgives htakes _).trans ?_))
  simp only [List.getD_cons_zero, hzero, ← hcount, ne_eq, ite_not, target_eq_wordsFrom, State.retireTo]

variable {c : BitVec 16} {ws : List (Reg × Word)}

theorem jumpTo_misaligned (h : x.toNat % 4 ≠ 0) : s.jumpTo k c ws x = s.raise k 0x03 x := if_pos h

theorem jumpTo_beyond (h : x.toNat % 4 = 0) (hlt : 2 ^ 16 ≤ x.toNat) : s.jumpTo k c ws x = s.raise k 0x04 x :=
  (if_neg (not_not.2 h)).trans (if_pos hlt)

theorem jumpTo_within (h : x.toNat % 4 = 0) (hlt : x.toNat < 2 ^ 16) :
    s.jumpTo k c ws x = (s.retire k c ws).modProc k (fun q => { q with pc := BitVec.ofNat 16 x.toNat }) :=
  (if_neg (not_not.2 h)).trans (if_neg (not_le.2 hlt))

end

theorem branchesAndJumpsRetire : Claims.BranchesAndJumpsRetire := by
  refine ⟨fun e he s k p a x o h => ?_, fun e he s k p a b x y o h => ?_, fun s k p o h => ⟨?_, ?_⟩,
    fun s k p d a x hal hlt => ⟨fun h => ?_, fun h => ?_⟩, fun s k p a x o h => loop_exec h, decode_loop_g0⟩
  · obtain ⟨hissues, hgives, htakes⟩ := h
    obtain ⟨f, hf, hexec⟩ := branchOne_branches e he
    rw [hexec, onCur_next hissues, State.branch1, issue_ok hgives htakes]
    simp only [List.getD_cons_zero, hf, target_eq_wordsFrom, State.retireTo]
  · obtain ⟨hissues, hgives, htakes⟩ := h
    obtain ⟨f, hf, hexec⟩ := branchTwo_branches e he
    rw [hexec, onCur_next hissues, State.branch2, issue_ok hgives htakes]
    simp only [List.getD_cons_zero, List.getD_cons_succ, hf, target_eq_wordsFrom, State.retireTo]
  · rw [← target_eq_wordsFrom]
    exact onCur_next h _
  · rw [← target_eq_wordsFrom, ← linkOf_eq]
    exact onCur_next h _
  · rw [jr_exec h, jumpTo_within hal hlt]
  · rw [jalr_exec h, jumpTo_within hal hlt]

theorem indirectTargetsTrap : Claims.IndirectTargetsTrap := by
  refine fun s k p d a x => ⟨fun h hal => ?_, fun h hal hle => ?_, fun h hal => ?_, fun h hal hle => ?_⟩
  · rw [jr_exec h, jumpTo_misaligned hal]
  · rw [jr_exec h, jumpTo_beyond hal hle]
  · rw [jalr_exec h, jumpTo_misaligned hal]
  · rw [jalr_exec h, jumpTo_beyond hal hle]

/-- Settles O14: a target is a number of words from the branch word, or the register's value where that is an address of the ISTORE. -/
theorem controlFlow : Obligations.ControlFlow := ⟨branchesAndJumpsRetire, indirectTargetsTrap⟩

end Sys2Proof.Machine
end

section
/-! PROOFS. No word and no event stops the machine (05 R100; 95_what_each_step_holds). -/

namespace Sys2Proof.Machine

/-- A word's encoding holds at least its fixed bits. -/
theorem pack_ne_zero {c : Nat} (h : 0 < c) (xs : List Nat) : pack c xs ≠ 0 := by
  have hmono : ∀ (xs : List Nat) (c : Nat), c ≤ pack c xs := fun xs => by
    induction xs with
    | nil => exact fun c => le_refl c
    | cons x xs ih => exact fun c => (Nat.le_add_right c x).trans (ih (c + x))
  exact (h.trans_le (hmono xs c)).ne'

/-- An event answers a next state: its encoding is no word's, which would hold its major. -/
theorem exec_event {i : Instr} (h : encodeNat i = 0) (hi : ∀ w, i ≠ .notAnInstruction w) (s : State) : ∃ t, exec i s = .next t := by
  cases i <;> simp only [encodeNat, pack_ne_zero, Nat.zero_lt_succ, OfNat.ofNat_ne_zero] at h
  case notAnInstruction w => exact absurd rfl (hi w)
  all_goals exact ⟨_, rfl⟩

/-- A word is executed by the process that issues it. -/
theorem exec_word {i : Instr} (h : encodeNat i ≠ 0) {s : State} {k : Nat} {p : Proc} (hs : s.Issues k p) : ∃ t, exec i s = .next t := by
  cases i <;> simp only [encodeNat, ne_eq, not_true_eq_false] at h
  all_goals exact ⟨_, onCur_next hs _⟩

/-- Settles O58: a word acts for its process, an event for nobody. -/
theorem nothingStops : Obligations.NothingStops := by
  refine ⟨fun i s k p hs => ?_, fun i s hi hn => exec_event (by simpa [Instr.isWord] using hi) hn s⟩
  by_cases hw : encodeNat i = 0
  · by_cases hn : ∃ w, i = .notAnInstruction w
    · obtain ⟨w, rfl⟩ := hn
      exact ⟨_, onCur_next hs _⟩
    · exact exec_event hw (fun w h => hn ⟨w, h⟩) s
  · exact exec_word hw hs

end Sys2Proof.Machine
end

section
/-! PROOFS. The frame of the instructions whose results are in registers (05 R103, R112 to R117). -/

namespace Sys2Proof.Machine

theorem regBit_getLsbD (r r' : Reg) : (regBit r).getLsbD r'.toNat = decide (r = r') := by
  revert r r'
  decide

/-- Without bound ports, the consume mark of a register is that of a field that consumes it. -/
theorem consumeMask_getLsbD {p : Proc} (h : p.Unbound) (fs : List Field) (r : Reg) :
    (consumeMask p fs).getLsbD r.toNat = fs.any (fun f => f.k && decide (f.reg = r)) := by
  have hfold : ∀ (fs : List Field) (m : BitVec 16),
      (fs.foldl (fun m f => if f.k || (p.portOf f.reg).isSome then m ||| regBit f.reg else m) m).getLsbD r.toNat =
        (m.getLsbD r.toNat || fs.any (fun f => f.k && decide (f.reg = r))) := fun fs => by
    induction fs with
    | nil => simp
    | cons f fs ih =>
      intro m
      rw [List.foldl_cons, ih, portOf_none h]
      cases hk : f.k <;> simp [hk, regBit_getLsbD, Bool.or_assoc]
  exact (hfold fs 0).trans (by simp)

section
variable {s : State} {k : Nat} {p : Proc} (hp : s.proc k = some p) (ho : p.onceOn = false) (hv : p.vact = false) (hu : p.Unbound)

/-- What retirement leaves of registers and of the rest, with flags or without, is what the frame allows. -/
theorem keepsAllBut_of_retired (hu : p.Unbound) {t : State} {q : Proc} {fs : List Field} {d : Reg} {v : Word} {flags : Bool} (hproc : t.proc k = some q)
    (hreg : ∀ r, q.reg r = if r = 0 then 0 else ([(d, v)].reverse.lookup r).getD (p.reg r))
    (hfull : ∀ r, q.full r = (([(d, v)].lookup r).isSome ||
      (p.full r && (decide (r = 0) || !((consumeMask p fs).getLsbD r.toNat && !p.made.getLsbD r.toNat)))))
    (hfl : flags = false → q.fflags = p.fflags)
    (hsame : { q with regs := p.regs, pc := p.pc, pfx := p.pfx, hold := p.hold, made := p.made, doneAt := p.doneAt, wrote := p.wrote,
                      emptied := p.emptied, fflags := p.fflags } = p)
    (hother : ∀ j, j ≠ k → t.proc j = s.proc j) (hrest : { t with procs := s.procs, agenda := s.agenda } = s) :
    s.KeepsAllBut t k p [d] fs flags := by
  refine ⟨q, hproc, fun r hr => ?_, fun r hr hfs => ?_, hfl, ?_, hother,
    congrArg (fun t : State => { t with slots := s.slots, heldNotes := s.heldNotes }) hrest⟩
  · have hne : r ≠ d := by simpa using hr
    rw [hreg]
    by_cases h0 : r = 0
    · rw [if_pos h0, Proc.reg, if_pos h0]
    · rw [if_neg h0]
      simp [List.lookup, beq_false_of_ne hne]
  · have hne : r ≠ d := by simpa using hr
    have hmask : (consumeMask p fs).getLsbD r.toNat = false := by
      rw [consumeMask_getLsbD hu, List.any_eq_false]
      intro f hf
      by_cases h : f.reg = r
      · simp [hfs f hf h]
      · simp [h]
    simp [hfull, hmask, List.lookup, beq_false_of_ne hne]
  · exact congrArg (fun q : Proc => { q with st := p.st, wait := p.wait, ecause := p.ecause, epc := p.epc, eval := p.eval, utv := p.utv,
                                             deadline := p.deadline, vcheck := p.vcheck, blockedAt := p.blockedAt, episode := p.episode, probeFrom := p.probeFrom }) hsame

include hp ho hu

theorem retireFlags_proc_ne (c : BitVec 16) (ws : List (Reg × Word)) (fl : FlagSet) {j : Nat} (hj : j ≠ k) :
    (s.retireFlags k c ws fl).proc j = s.proc j := by
  have hp' : (s.putProc k (p.raiseFlags fl)).proc k = some (p.raiseFlags fl) := by simp
  rw [State.retireFlags, modProc_eq hp, (retire_proc_state hp' ho hu c ws).1, if_neg hj, proc_putProc, if_neg hj]

include hv

/-- Retirement without flags keeps to the frame. -/
theorem keepsAllBut_retire (fs : List Field) (d : Reg) (v : Word) :
    s.KeepsAllBut (s.retire k (consumeMask p fs) [(d, v)]) k p [d] fs false := by
  obtain ⟨q, hproc, -, hreg, hfull, hsame, -, hother, hrest, -, -⟩ := retirementWrites s k p (consumeMask p fs) [(d, v)] hp ho hv hu
  exact keepsAllBut_of_retired hu hproc hreg hfull (fun _ => (congrArg Proc.fflags hsame :))
    (congrArg (fun q : Proc => { q with fflags := p.fflags }) hsame) hother hrest

/-- Retirement with flags keeps to the frame. -/
theorem keepsAllBut_retireFlags (fs : List Field) (d : Reg) (v : Word) (fl : FlagSet) :
    s.KeepsAllBut (s.retireFlags k (consumeMask p fs) [(d, v)] fl) k p [d] fs true := by
  obtain ⟨q, -, -, hreg, hfull, hsame, -, -, -, hflags, -⟩ := retirementWrites s k p (consumeMask p fs) [(d, v)] hp ho hv hu
  obtain ⟨hproc, hrest⟩ := hflags fl
  exact keepsAllBut_of_retired hu hproc hreg hfull nofun (congrArg (fun q : Proc => { q with fflags := p.fflags }) hsame)
    (fun j hj => retireFlags_proc_ne hp ho hu _ _ fl hj) hrest

end

/-- Settles O9: each of these instructions retires with one result. -/
theorem registerInstructionsFrame : Obligations.RegisterInstructionsFrame := by
  intro s k p d ho hv hu
  have hret (hp : s.proc k = some p) (fs : List Field) (v : Word) := keepsAllBut_retire hp ho hv hu fs d v
  have hfl (hp : s.proc k = some p) (fs : List Field) (v : Word) (fl : FlagSet) := keepsAllBut_retireFlags hp ho hv hu fs d v fl
  refine ⟨fun a b x y h => ⟨fun e he => ⟨_, (intTwo_computes e he).exec_eq h, hret h.1.2 _ _⟩,
      fun e he z => ⟨_, (floatInstructionsRetire s k p d z).1 e he a b x y h, hfl h.1.2 _ _ _⟩⟩, fun a x h => ?_,
    fun a b c x y w h e he z => ⟨_, (floatInstructionsRetire s k p d z).2.2 e he a b c x y w h, hfl h.1.2 _ _ _⟩⟩
  obtain ⟨hpfx, hshift, hcompare, hlih⟩ := immediateInstructionsRetire s k p d a x h
  exact ⟨fun e he => ⟨_, (intOne_computes e he).exec_eq h, hret h.1.2 _ _⟩, fun e he i => ⟨_, hpfx e he i, hret h.1.2 _ _⟩,
    fun e he n => ⟨_, hshift e he n, hret h.1.2 _ _⟩, fun e he i => ⟨_, hcompare e he i, hret h.1.2 _ _⟩,
    fun i => ⟨_, hlih i, hret h.1.2 _ _⟩, fun e he z => ⟨_, (floatInstructionsRetire s k p d z).2.1 e he a x h, hfl h.1.2 _ _ _⟩⟩

end Sys2Proof.Machine
end

section
/-! PROOFS. System instructions, exceptions, ERET and snapshots (05 R129, R133, R134; 13 R403). -/

namespace Sys2Proof.Machine

/-! ### System instructions -/

/-- The program counter without its two low bits. -/
theorem and_fffc (x : BitVec 16) : x &&& 0xFFFC = BitVec.ofNat 16 (x.toNat / 4 * 4) := by
  have hmask : ∀ i < 16, (0xFFFC : BitVec 16).getLsbD i = decide (2 ≤ i) := by decide
  apply BitVec.eq_of_getLsbD_eq
  intro i hi
  rw [BitVec.getLsbD_and, hmask i hi, BitVec.getLsbD_ofNat, decide_eq_true hi, Bool.true_and,
    show x.toNat / 4 * 4 = x.toNat >>> 2 <<< 2 by rw [Nat.shiftLeft_eq, Nat.shiftRight_eq_div_pow], Nat.testBit_shiftLeft, Nat.testBit_shiftRight,
    Bool.and_comm]
  by_cases h : 2 ≤ i
  · rw [show 2 + (i - 2) = i by omega]
    rfl
  · simp [h]

/-- Bit 1 of UTV, HANDLER ACTIVE, is the one of the mask 2. -/
theorem two_getLsbD (n : Nat) : (2 : Word).getLsbD n = decide (n = 1) := by
  by_cases h : n < 64
  · revert n
    decide
  · rw [BitVec.getLsbD_of_ge _ _ (by omega), decide_eq_false (by omega)]

theorem utv_or_two (u : Word) (n : Nat) : (u ||| 2).getLsbD n = (u.getLsbD n || decide (n = 1)) := by
  rw [BitVec.getLsbD_or, two_getLsbD]

theorem utv_andn_two (u : Word) (n : Nat) : (u &&& ~~~(2 : Word)).getLsbD n = (u.getLsbD n && decide (n ≠ 1)) := by
  rw [BitVec.getLsbD_and, BitVec.getLsbD_not, two_getLsbD]
  by_cases h : n < 64
  · simp [h]
  · rw [BitVec.getLsbD_of_ge u _ (by omega), Bool.false_and, Bool.false_and]

theorem utvHandler_eq (u : Word) : utvHandler u = BitVec.ofNat 16 (u.toNat % 2 ^ 16 / 4 * 4) := by
  rw [utvHandler, and_fffc, BitVec.extractLsb'_toNat]
  rfl

theorem systemInstructions : Claims.SystemInstructions := by
  intro s k p h
  have hraise (cause : Nat) (v : Word) : s.raise k cause v = s.raiseAt k cause v p.pc := raise_eq h.2 cause v
  refine ⟨fun c => ⟨?_, ?_, ?_⟩, fun w => ?_, fun hact => ⟨p.eret, ?_, ?_, utv_andn_two p.utv, rfl⟩, fun hact => ?_, onCur_next h _⟩
  · rw [← zext_eq_ofNat]
    exact onCur_next h _
  · rw [← zext_eq_ofNat]
    exact onCur_next h _
  · rw [← zext_eq_ofNat, ← hraise]
    exact onCur_next h _
  · rw [← hraise]
    exact onCur_next h _
  · exact (onCur_next h _).trans (congrArg _ (if_pos hact))
  · exact and_fffc p.epc
  · exact (onCur_next h _).trans (congrArg _ (if_neg (by rw [utvAct, hact]; exact Bool.false_ne_true)))

/-! ### Taking an exception -/

theorem putBack_rest (p : Proc) (r : Reg) (c : RegCell) : { p.putBack r c with regs := p.regs, ports := p.ports } = p := by
  have hpush : { p.dropPush r with ports := p.ports } = p := by
    unfold Proc.dropPush
    split <;> rfl
  generalize hq : p.dropPush r = q at hpush
  rw [Proc.putBack, hq]
  exact (congrArg (fun x : Proc => { x with regs := p.regs, ports := p.ports }) (putCell_rest q r _) :).trans
    (congrArg (fun x : Proc => { x with regs := p.regs }) hpush)

/-- Giving up an instruction leaves all but the register it was to fill, the push it held, and its hold. -/
theorem dropHold_rest (p : Proc) : { p.dropHold with regs := p.regs, ports := p.ports, hold := p.hold, made := p.made } = p := by
  unfold Proc.dropHold
  split
  · split
    · exact congrArg (fun x : Proc => { x with hold := p.hold, made := p.made }) (putBack_rest p _ _)
    · rfl
  · rfl

/-- When the handler takes a cause: it is one of the user's, and the handler is enabled and not active. -/
theorem handlerTakes_iff (p : Proc) (cause : Nat) : (userCause p cause && utvEn p.utv && !utvAct p.utv) = true ↔
    (cause = 0x07 ∨ cause = 0x08 ∨ cause = 0x16 ∨ cause = 0x0D ∧ p.utv.getLsbD 16 = true) ∧ p.utv.getLsbD 0 = true ∧ p.utv.getLsbD 1 = false := by
  simp only [userCause, utvEn, utvAct, utvNanu, causeEmpty, causeFutureEmpty, causeTrapInsn, causeTileNan, Bool.and_eq_true, Bool.or_eq_true,
    beq_iff_eq, Bool.not_eq_true', or_assoc, and_assoc]

theorem trapEntry : Claims.TrapEntry := by
  intro s k p cause v pc hp hcause
  refine ⟨fun ht => ?_, fun ht => ?_⟩
  · have hrest := dropHold_rest p
    refine ⟨{ p.dropHold.endGroup with wait := .none, pc := pc, epc := pc }, ?_, (congrArg Proc.st hrest :).trans ht, (congrArg Proc.ecause hrest :),
      (congrArg Proc.eval hrest :), rfl, rfl⟩
    simp [State.raiseAt, hp, ht]
  · have hmod : cause % 2 ^ 8 = cause := Nat.mod_eq_of_lt hcause
    by_cases hc : (userCause p cause && utvEn p.utv && !utvAct p.utv) = true
    · have htakes := (handlerTakes_iff p cause).1 hc
      simp only [Bool.and_eq_true, Bool.not_eq_true'] at hc
      obtain ⟨⟨huser, hen⟩, hact⟩ := hc
      rw [raiseAt_handler hp ht v pc huser hen hact]
      refine ⟨_, (awake_proc _ _ _).trans (State.putProc_proc_self ..), rfl, hmod, rfl, fun j hj => ?_, ⟨rfl, rfl⟩, ?_⟩
      · rw [awake_proc, proc_putProc, if_neg hj]
      · rw [if_pos htakes]
        exact ⟨rfl, utvHandler_eq p.utv, utv_or_two p.utv, rfl⟩
    · rw [raiseAt_supervisor hp ht v pc (Bool.eq_false_iff.2 hc)]
      have hproc := deliverToSupervisor_proc s k p cause v pc
      refine ⟨_, (hproc k).trans (if_pos rfl), rfl, hmod, rfl, fun j hj => (hproc j).trans (if_neg hj), ⟨rfl, rfl⟩, ?_⟩
      rw [if_neg (fun h => hc ((handlerTakes_iff p cause).2 h))]
      refine ⟨rfl, rfl, ⟨_, (mem_agenda_after _ _ _ _).2 (.inl rfl)⟩, ?_, rfl⟩
      show s.heldNotes ++ [(s.supervisorOf p.gid, BitVec.ofNat 64 (p.gid * 2 ^ 48 + cause % 2 ^ 8 * 2 ^ 40 + p.name))] = _
      rw [hmod]

/-! ### Snapshots -/

theorem pkg_modPkg_self (s : State) (n : Nat) (f : Pkg → Pkg) : (s.modPkg n f).pkg n = f (s.pkg n) := tgetD_tput_self ..

@[simp] theorem pkg_atCycle (s : State) (c : Nat) (e : Ev) (n : Nat) : (s.atCycle c e).pkg n = s.pkg n := rfl

/-- An event that is put in flight for a cycle is in flight. -/
theorem due_atCycle (s : State) (c : Nat) (e : Ev) : (s.atCycle c e).Due e := ⟨_, (mem_enqueue _ _ _ _).2 (.inl rfl)⟩

/-- A request with no trigger pending, nor one within the microsecond before, takes a time. -/
theorem askSnapshot_taken {s : State} {n : Nat} (h : (s.pkg n).snapAt = none ∨ ∃ t, (s.pkg n).snapAt = some t ∧ t + 1000 < s.nanos) :
    s.askSnapshot n = (s.modPkg n (fun b => { b with snapAt := some (s.nanos + 256) })).atCycle (gtcCycle (s.nanos + 256)) (.snapshotLatch n) := by
  obtain h | ⟨t, h, hlt⟩ := h
  · simp only [State.askSnapshot, h]
  · simp only [State.askSnapshot, h, if_neg (show ¬ s.nanos ≤ t by omega), if_neg (show ¬ s.nanos ≤ t + 1000 by omega)]

theorem askSnapshot_joined {s : State} {n t : Nat} (h : (s.pkg n).snapAt = some t) (hle : s.nanos ≤ t) : s.askSnapshot n = s := by
  simp only [State.askSnapshot, h, if_pos hle]

theorem askSnapshot_ignored {s : State} {n t : Nat} (h : (s.pkg n).snapAt = some t) (hlt : t < s.nanos) (hle : s.nanos ≤ t + 1000) :
    s.askSnapshot n = s.modPkg n (fun b => { b with ignored := b.ignored + 1 }) := by
  simp only [State.askSnapshot, h, if_neg (not_le.2 hlt), if_pos hle]

theorem snapshotsAreTaken : Claims.SnapshotsAreTaken := by
  refine ⟨fun s k p h => ?_, fun s n => ⟨_, rfl, ?_, ?_, rfl⟩⟩
  · have hexec : exec .snap s = .next ((s.askSnapshot (pkgOf p.core)).retire k 0 []) := onCur_next h _
    refine ⟨fun hask => ?_, fun t ht hle => ?_, fun t ht hlt hle => ?_⟩
    · rw [askSnapshot_taken hask] at hexec
      exact ⟨_, hexec, by rw [pkg_atCycle, pkg_modPkg_self], due_atCycle .., rfl⟩
    · rwa [askSnapshot_joined ht hle] at hexec
    · rw [askSnapshot_ignored ht hlt hle] at hexec
      exact ⟨_, hexec, congrArg Pkg.ignored (pkg_modPkg_self ..), (congrArg Pkg.snapAt (pkg_modPkg_self ..)).trans ht, rfl⟩
  · exact congrArg Pkg.latched (pkg_modPkg_self ..)
  · exact congrArg Pkg.latchAt (pkg_modPkg_self ..)

/-- Settles O15: the words trap or return, a trap enters the handler or the supervisor's queue, and a snapshot is asked for and latched. -/
theorem systemAndTraps : Obligations.SystemAndTraps := ⟨systemInstructions, trapEntry, snapshotsAreTaken⟩

end Sys2Proof.Machine
end

section
/-! PROOFS. Reads and writes of the control and status registers (05 R130, R131). -/

namespace Sys2Proof.Machine

/-! ### Masks as remainders -/

theorem and_ones_toNat (x n : Nat) : x &&& (2 ^ n - 1) = x % 2 ^ n := Nat.and_two_pow_sub_one_eq_mod x n

/-- A mask of the low bits leaves the remainder. -/
theorem and_ones {v m : Word} (n : Nat) (h : m.toNat = 2 ^ n - 1) : v &&& m = BitVec.ofNat 64 (v.toNat % 2 ^ n) := by
  rw [and_as_land, h, and_ones_toNat]

/-- A mask of a field leaves the field in its place. -/
theorem and_field (x lo n : Nat) : x &&& (2 ^ n - 1) <<< lo = x / 2 ^ lo % 2 ^ n * 2 ^ lo := by
  rw [← Nat.shiftLeft_eq, ← Nat.shiftRight_eq_div_pow, ← and_ones_toNat, Nat.shiftLeft_and_distrib]
  apply Nat.eq_of_testBit_eq
  intro i
  simp only [Nat.testBit_and, Nat.testBit_shiftLeft, Nat.testBit_shiftRight]
  by_cases h : lo ≤ i
  · simp [h]
  · simp [h]

/-- Numbers with bits in different places are joined by their sum. -/
theorem or_as_sum {x y : Nat} (n : Nat) (h : x < 2 ^ n) : x ||| y * 2 ^ n = x + y * 2 ^ n := by
  rw [Nat.lor_comm, mul_comm, ← Nat.two_pow_add_eq_or_of_lt h, Nat.add_comm]

theorem tfmt_mask (v : Word) : v &&& 0x13FFF = BitVec.ofNat 64 (v.toNat % 2 ^ 14 + v.toNat / 2 ^ 16 % 2 * 2 ^ 16) := by
  have hmask : (0x13FFF : Word).toNat = (2 ^ 14 - 1) ||| (2 ^ 1 - 1) <<< 16 := by decide
  rw [and_as_land, hmask, Nat.and_or_distrib_left, and_ones_toNat, and_field, or_as_sum 16 (by omega), pow_one]

theorem taped_mask (t v : Word) :
    (t &&& 0x1FFFFFFFF) ||| (v &&& 0xFC00000000) = BitVec.ofNat 64 (t.toNat % 2 ^ 33 + v.toNat / 2 ^ 34 % 2 ^ 6 * 2 ^ 34) := by
  have hlow : t &&& 0x1FFFFFFFF = BitVec.ofNat 64 (t.toNat % 2 ^ 33) := and_ones 33 (by decide)
  have hmask : (0xFC00000000 : Word).toNat = (2 ^ 6 - 1) <<< 34 := by decide
  rw [hlow, and_as_land v, hmask, and_field, ← BitVec.ofNat_or, or_as_sum 34 (by omega)]

theorem epc_mask (v : Word) : v.truncate 16 &&& 0xFFFC = BitVec.ofNat 16 (v.toNat / 4 * 4) := by
  rw [and_fffc]
  apply BitVec.eq_of_toNat_eq
  simp only [BitVec.truncate_eq_setWidth, BitVec.toNat_setWidth, BitVec.toNat_ofNat]
  omega

theorem truncate_eq_ofNat (v : Word) (n : Nat) : v.truncate n = BitVec.ofNat n v.toNat := (BitVec.ofNat_toNat n v).symm

theorem tfmtOk_iff (v : Word) : tfmtOk v = true ↔ v.toNat % 16 ≤ 11 ∧ v.toNat / 16 % 16 ≤ 11 ∧ v.toNat / 256 % 16 ∈ [0, 8, 9] := by
  simp [tfmtOk, and_assoc, or_assoc]

theorem tapedOk_iff (v : Word) :
    tapedOk v = true ↔ v.toNat / 2 ^ 34 % 4 ≠ 3 ∧ v.toNat / 2 ^ 36 % 4 ≠ 3 ∧ v.toNat / 2 ^ 38 % 4 ≠ 3 := by
  simp [tapedOk, and_assoc]

theorem penwOk_iff (v : Word) : penwOk v = true ↔ ∀ i < 5, v.toNat / 2 ^ (8 * i) % 256 ≠ 0 := by
  simp [penwOk]

theorem tinvOk_iff (v : Word) : tinvOk v = true ↔ v.toNat % 256 = 0 ∧
    (v.toNat / 2 ^ 9 % 4 = 1 → v.toNat / 2 ^ 11 % 2 ^ 37 % 64 = 0) ∧ (v.toNat / 2 ^ 9 % 4 = 2 → v.toNat / 2 ^ 11 % 2 ^ 37 % 4096 = 0) := by
  rw [tinvOk, Bool.and_eq_true, decide_eq_true_iff]
  refine and_congr_right fun _ => ?_
  generalize v.toNat / 2 ^ 9 % 4 = size
  split
  · simp
  · simp
  · next h1 h2 => exact iff_of_true rfl ⟨fun h => (h1 h).elim, fun h => (h2 h).elim⟩

/-! ### What a write makes of a register -/

/-- A CSR takes a value that no field excludes, and no other. -/
def Puts (s : State) (k : Nat) (p : Proc) (n : Nat) (v : Word) (ok : Prop) (t : State) : Prop :=
  (ok → s.csrPut k p n v = some t) ∧ (¬ ok → s.csrPut k p n v = none)

section
variable {s : State} {k : Nat} {p : Proc}

theorem puts_process {n : Nat} {v : Word} {ok : Prop} {q : Proc} [Decidable ok] (hn : csrOfProcess n = true)
    (h : p.csrWrite n v = if ok then some q else none) : Puts s k p n v ok (s.putProc k q) := by
  rw [Puts, State.csrPut, if_pos hn, h]
  exact ⟨fun hok => by rw [if_pos hok]; rfl, fun hok => by rw [if_neg hok]; rfl⟩

theorem puts_core {n : Nat} {v : Word} {ok : Prop} {t : State} [Decidable ok] (hn : csrOfProcess n = false)
    (h : s.coreCsrWrite p.core n v = if ok then some t else none) : Puts s k p n v ok t := by
  rw [Puts, State.csrPut, if_neg (by rw [hn]; exact Bool.false_ne_true), h]
  exact ⟨fun hok => if_pos hok, fun hok => if_neg hok⟩

/-- The writable fields of a process's CSRs (05 Tables 5.9 to 5.13). -/
theorem csrWrites_puts (v : Word) : ∀ e ∈ csrWrites p v, Puts s k p e.1 v e.2.1 (s.putProc k e.2.2) := by
  simp only [csrWrites, List.forall_mem_cons]
  have hfree {n : Nat} {q : Proc} (hn : csrOfProcess n = true) (h : p.csrWrite n v = some q) : Puts s k p n v True (s.putProc k q) :=
    puts_process hn (h.trans (if_pos trivial).symm)
  refine ⟨hfree rfl rfl, hfree rfl rfl, hfree rfl rfl, hfree rfl ?_, hfree rfl ?_, hfree rfl rfl, hfree rfl ?_, puts_process rfl rfl, hfree rfl ?_,
    hfree rfl ?_, puts_process rfl ?_, hfree rfl ?_, hfree rfl ?_, puts_process rfl ?_, puts_process rfl ?_, fun _ h => absurd h List.not_mem_nil⟩
  · rw [← epc_mask]; rfl
  · rw [← truncate_eq_ofNat]; rfl
  · rw [← and_ones (m := 0x1FFFF) 17 (by decide)]; rfl
  · rw [← truncate_eq_ofNat]; rfl
  · rw [← truncate_eq_ofNat]; rfl
  · rw [← tfmt_mask]; exact if_congr (tfmtOk_iff v) rfl rfl
  · rw [← and_ones (m := 0x1FFFFFF) 25 (by decide)]; rfl
  · rw [← and_ones (m := 0x1FFFFFF) 25 (by decide)]; rfl
  · rw [← and_ones (m := 0xFFFFFF) 24 (by decide)]; rfl
  · rw [← taped_mask]; exact if_congr (tapedOk_iff v) rfl rfl

theorem set!_eq_set (x : Vector Word 4) (i : Fin 4) (v : Word) : x.set! i.val v = x.set i v := by
  apply Vector.ext
  intro j hj
  rw [Vector.set!_eq_setIfInBounds, Vector.getElem_setIfInBounds hj, Vector.getElem_set]

/-- The writable fields of the CSRs of a core and its fold (06 Tables 6.5 and 6.6, 04 Table 4.3, 05 Table 5.16, 08 Table 8.10). -/
theorem csrWritesOfCore_puts (v : Word) : ∀ e ∈ csrWritesOfCore s p v, Puts s k p e.1 v e.2.1 e.2.2 := by
  have hfree {n : Nat} {t : State} (hn : csrOfProcess n = false) (h : s.coreCsrWrite p.core n v = some t) : Puts s k p n v True t :=
    puts_core hn (h.trans (if_pos trivial).symm)
  refine List.forall_mem_append.2 ⟨?_, List.forall_mem_map.2 fun i _ => ?_⟩
  · simp only [List.forall_mem_cons]
    refine ⟨hfree rfl rfl, hfree rfl rfl, puts_core rfl ?_, puts_core rfl ?_, hfree rfl ?_, puts_core rfl rfl, fun _ h => absurd h List.not_mem_nil⟩
    · rw [← and_ones (m := 0xFFFFFFFFFF) 40 (by decide)]; exact if_congr (penwOk_iff v) rfl rfl
    · rw [← and_ones (m := 0xFFFFFFFF) 32 (by decide)]; rfl
    · have hclear : (v >>> 8).truncate 5 = BitVec.ofNat 5 (v.toNat / 2 ^ 8) := by
        rw [truncate_eq_ofNat, BitVec.toNat_ushiftRight, Nat.shiftRight_eq_div_pow]
      rw [← hclear]; rfl
  · have hwin : s.coreCsrWrite p.core (0x7C0 + i.val) v =
        some (s.modCore p.core (fun c => { c with wins := c.wins.set! i.val (v &&& 0xFFFF8F003FFFFFFF) })) := by
      fin_cases i <;> rfl
    refine hfree (decide_eq_false (by omega)) (hwin.trans ?_)
    simp only [set!_eq_set]

/-! ### The change of a register by an instruction -/

theorem csrw_exec (h : s.Issues k p) (d : Reg) (a : Src) (n : BitVec 12) :
    exec (.csrw d a n) s = .next (s.csrChange k p d a n.toNat false (fun _ x => x)) := onCur_next h _

theorem csrs_exec (h : s.Issues k p) (d : Reg) {a : Src} (ha : a.reg ≠ 0) (n : BitVec 12) :
    exec (.csrs d a n) s = .next (s.csrChange k p d a n.toNat true (fun old x => old ||| x)) :=
  (onCur_next h _).trans (congrArg _ (if_neg ha))

theorem csrc_exec (h : s.Issues k p) (d : Reg) {a : Src} (ha : a.reg ≠ 0) (n : BitVec 12) :
    exec (.csrc d a n) s = .next (s.csrChange k p d a n.toNat true (fun old x => old &&& ~~~x)) :=
  (onCur_next h _).trans (congrArg _ (if_neg ha))

/-- The gate of a write is open. -/
def Opens (s : State) (k : Nat) (p : Proc) (n : Nat) : Prop := ∀ go, s.csrGate k p n true go = go

theorem opens_of_levels {n rd : Nat} {wr : Option Nat} (hn : csrLevels n = some (rd, wr)) (hrd : rd ≤ p.level) (hwr : ∀ l, wr = some l → l ≤ p.level) :
    Opens s k p n := by
  intro go
  simp only [State.csrGate, hn, Nat.not_lt.2 hrd, if_false, if_true]
  cases wr with
  | none => rfl
  | some l => exact if_neg (Nat.not_lt.2 (hwr l rfl))

theorem csrWrites_opens (v : Word) : ∀ e ∈ csrWrites p v, Opens s k p e.1 := by
  intro e he
  obtain ⟨-, hlevels | hlevels, -⟩ := csrWrites_write p v e he
  · exact opens_of_levels hlevels (Nat.zero_le _) nofun
  · exact opens_of_levels hlevels (Nat.zero_le _) (fun l hl => by cases hl; exact Nat.zero_le _)

theorem csrWrites_ne_tinv (v : Word) : ∀ e ∈ csrWrites p v, e.1 ≠ 0x7C8 := by
  simp [csrWrites]

theorem csrWritesOfCore_opens (hlevel : 1 ≤ p.level) (v : Word) : ∀ e ∈ csrWritesOfCore s p v, Opens s k p e.1 := by
  have hopens {n rd : Nat} {wr : Option Nat} (hn : csrLevels n = some (rd, wr)) (hrd : rd ≤ 1) (hwr : ∀ l, wr = some l → l ≤ 1) : Opens s k p n :=
    opens_of_levels hn (hrd.trans hlevel) (fun l hl => (hwr l hl).trans hlevel)
  have hs : ∀ l, some 1 = some l → l ≤ 1 := fun l hl => by cases hl; exact le_refl 1
  refine List.forall_mem_append.2 ⟨?_, List.forall_mem_map.2 fun i _ => ?_⟩
  · simp only [List.forall_mem_cons]
    exact ⟨hopens (n := 0x100) rfl (Nat.zero_le _) nofun, hopens (n := 0x7D0) rfl (Nat.zero_le _) nofun, hopens (n := 0x7A0) rfl (Nat.zero_le _) hs,
      hopens (n := 0x7A1) rfl (Nat.zero_le _) hs, hopens (n := 0x7E0) rfl (le_refl _) hs, hopens (n := 0x7E1) rfl (Nat.zero_le _) hs,
      fun _ h => absurd h List.not_mem_nil⟩
  · refine hopens (rd := 1) (wr := some 1) ?_ (le_refl _) hs
    fin_cases i <;> rfl

theorem csrWritesOfCore_ne_tinv (v : Word) : ∀ e ∈ csrWritesOfCore s p v, e.1 ≠ 0x7C8 := by
  refine List.forall_mem_append.2 ⟨by simp, List.forall_mem_map.2 fun i _ => ?_⟩
  show 0x7C0 + i.val ≠ 0x7C8
  omega

section
variable {d : Reg} {a : Src} {x : Word} {n : Nat} (hrun : s.Runs k p [srcField a 0] [x] [d]) (hopen : Opens s k p n)
include hrun hopen

/-- An instruction that changes a CSR behind an open gate retires with the old value. -/
theorem csrChange_retires (hn : n ≠ 0x7C8) {bits : Bool} (hbits : bits = true → x ≠ 0) {f : Word → Word → Word} {t : State}
    (hput : s.csrPut k p n (f (s.csrRead p n) x) = some t) :
    s.csrChange k p d a n bits f = t.retire k (consumeMask p [srcField a 0]) [(d, s.csrRead p n)] := by
  obtain ⟨-, hgives, htakes⟩ := hrun
  have hzero : ¬ (bits && decide (x = 0)) = true := by simpa using hbits
  unfold State.csrChange
  rw [hopen, issue_ok hgives htakes]
  simp only [List.getD_cons_zero, if_neg hzero, hput, hn, if_false]

/-- Of an excluded value it raises ILLEGAL. -/
theorem csrChange_illegal {bits : Bool} (hbits : bits = true → x ≠ 0) {f : Word → Word → Word} (hput : s.csrPut k p n (f (s.csrRead p n) x) = none) :
    s.csrChange k p d a n bits f = s.raiseWord k 0x01 := by
  obtain ⟨-, hgives, htakes⟩ := hrun
  have hzero : ¬ (bits && decide (x = 0)) = true := by simpa using hbits
  unfold State.csrChange
  rw [hopen, issue_ok hgives htakes]
  simp only [List.getD_cons_zero, if_neg hzero, hput]
  rfl

/-- The two cases together. -/
theorem csrChange_of_puts (hn : n ≠ 0x7C8) {bits : Bool} (hbits : bits = true → x ≠ 0) {f : Word → Word → Word} {ok : Prop} {t : State}
    (hputs : Puts s k p n (f (s.csrRead p n) x) ok t) :
    (ok → s.csrChange k p d a n bits f = t.retire k (consumeMask p [srcField a 0]) [(d, s.csrRead p n)]) ∧
    (¬ ok → s.csrChange k p d a n bits f = s.raiseWord k 0x01) :=
  ⟨fun hok => csrChange_retires hrun hopen hn hbits (hputs.1 hok), fun hok => csrChange_illegal hrun hopen hbits (hputs.2 hok)⟩

/-- CSRS and CSRC of the value 0 only read. -/
theorem csrChange_zero (hn : n ≠ 0x7C8) (hx : x = 0) (f : Word → Word → Word) :
    s.csrChange k p d a n true f = s.retire k (consumeMask p [srcField a 0]) [(d, s.csrRead p n)] := by
  obtain ⟨-, hgives, htakes⟩ := hrun
  subst hx
  unfold State.csrChange
  rw [hopen, issue_ok hgives htakes]
  simp only [List.getD_cons_zero, decide_true, Bool.and_self, if_true, hn, if_false]

end

/-- What CSRW, CSRS and CSRC make of a CSR whose writes are known. -/
theorem csrChanges {d : Reg} {a : Src} {x : Word} {n : BitVec 12} (hrun : s.Runs k p [srcField a 0] [x] [d]) {m : Nat} (hm : m = n.toNat)
    (hopen : Opens s k p m) (hn : m ≠ 0x7C8) {v : Word} {ok : Prop} {t : State} (hputs : Puts s k p m v ok t) :
    let done := (t.retire k (consumeMask p [srcField a 0]) [(d, s.csrRead p m)])
    (v = x → (ok → exec (.csrw d a n) s = .next done) ∧ (¬ ok → exec (.csrw d a n) s = .next (s.raiseWord k 0x01))) ∧
    (v = s.csrRead p n.toNat ||| x → a.reg ≠ 0 → x ≠ 0 →
      (ok → exec (.csrs d a n) s = .next done) ∧ (¬ ok → exec (.csrs d a n) s = .next (s.raiseWord k 0x01))) ∧
    (v = s.csrRead p n.toNat &&& ~~~x → a.reg ≠ 0 → x ≠ 0 →
      (ok → exec (.csrc d a n) s = .next done) ∧ (¬ ok → exec (.csrc d a n) s = .next (s.raiseWord k 0x01))) := by
  subst hm
  refine ⟨fun hv => ?_, fun hv ha hx => ?_, fun hv ha hx => ?_⟩
  · rw [csrw_exec hrun.1]
    obtain ⟨hok, hno⟩ := csrChange_of_puts hrun hopen hn (bits := false) nofun (f := fun _ x => x) (hv ▸ hputs)
    exact ⟨fun h => congrArg _ (hok h), fun h => congrArg _ (hno h)⟩
  · rw [csrs_exec hrun.1 d ha]
    obtain ⟨hok, hno⟩ := csrChange_of_puts hrun hopen hn (bits := true) (fun _ => hx) (f := fun old x => old ||| x) (hv ▸ hputs)
    exact ⟨fun h => congrArg _ (hok h), fun h => congrArg _ (hno h)⟩
  · rw [csrc_exec hrun.1 d ha]
    obtain ⟨hok, hno⟩ := csrChange_of_puts hrun hopen hn (bits := true) (fun _ => hx) (f := fun old x => old &&& ~~~x) (hv ▸ hputs)
    exact ⟨fun h => congrArg _ (hok h), fun h => congrArg _ (hno h)⟩

theorem csrChanges_zero {d : Reg} {a : Src} {x : Word} {n : BitVec 12} (hrun : s.Runs k p [srcField a 0] [x] [d]) (ha : a.reg ≠ 0) (hx : x = 0)
    {m : Nat} (hm : m = n.toNat) (hopen : Opens s k p m) (hn : m ≠ 0x7C8) :
    exec (.csrs d a n) s = .next (s.retire k (consumeMask p [srcField a 0]) [(d, s.csrRead p m)]) ∧
    exec (.csrc d a n) s = .next (s.retire k (consumeMask p [srcField a 0]) [(d, s.csrRead p m)]) := by
  subst hm
  rw [csrs_exec hrun.1 d ha, csrc_exec hrun.1 d ha, csrChange_zero hrun hopen hn hx, csrChange_zero hrun hopen hn hx]
  exact ⟨rfl, rfl⟩

end

theorem csrWritesOfTheProcess : Claims.CsrWritesOfTheProcess := by
  intro s k p d a x n hrun
  have hchanges (v : Word) (e : Nat × Prop × Proc) (he : e ∈ csrWrites p v) (hn : e.1 = n.toNat) :=
    csrChanges hrun hn (csrWrites_opens v e he) (csrWrites_ne_tinv v e he) (csrWrites_puts v e he)
  exact ⟨fun e he hn => (hchanges _ e he hn).1 rfl,
    fun ha hx e he hn => csrChanges_zero hrun ha hx hn (csrWrites_opens x e he) (csrWrites_ne_tinv x e he),
    fun ha hx e he hn => (hchanges _ e he hn).2.1 rfl ha hx, fun ha hx e he hn => (hchanges _ e he hn).2.2 rfl ha hx⟩

/-! ### Levels and numbers -/

section
variable {s : State} {k : Nat} {p : Proc}

/-- The assigned numbers are those of the table. -/
theorem csrLevels_eq_none {n : Nat} (h : ∀ e ∈ csrTable s p, e.1 ≠ n) : csrLevels n = none := by
  have hnums : ∀ m ∈ (csrTable s p).map Prod.fst, n ≠ m := List.forall_mem_map.2 fun e he => (h e he).symm
  simp only [csrTable, List.map_cons, List.map_nil, List.forall_mem_cons] at hnums
  simp only [csrLevels, hnums, imp_self]

theorem csrGate_unassigned {n : Nat} (hn : csrLevels n = none) (writes : Bool) (go : State) : s.csrGate k p n writes go = s.raiseWord k 0x01 := by
  simp only [State.csrGate, hn]
  rfl

theorem csrGate_read_priv {n rd : Nat} {wr : Option Nat} (hn : csrLevels n = some (rd, wr)) (hl : p.level < rd) (writes : Bool) (go : State) :
    s.csrGate k p n writes go = s.raiseWord k 0x02 := by
  simp only [State.csrGate, hn, hl, if_true]
  rfl

theorem csrGate_write_priv {n rd l : Nat} (hn : csrLevels n = some (rd, some l)) (hl : p.level < l) (go : State) :
    s.csrGate k p n true go = s.raiseWord k 0x02 := by
  simp only [State.csrGate, hn, hl, if_true]
  split <;> rfl

/-- CSRR, and CSRS and CSRC with g0, read behind the gate of a read. -/
theorem csr_reads (h : s.Issues k p) (d : Reg) (m : BitVec 2) (n : BitVec 12) :
    exec (.csrr d n) s = .next (s.csrGate k p n.toNat false (s.issue k p [] [d] (fun _ c => s.retire k c [(d, s.csrRead p n.toNat)]))) ∧
    ∀ i ∈ [Instr.csrs d ⟨0, m⟩ n, .csrc d ⟨0, m⟩ n], exec i s = .next (s.csrGate k p n.toNat false
      (s.issue k p [srcField ⟨0, m⟩ 0] [d] (fun _ c => s.retire k c [(d, s.csrRead p n.toNat)]))) := by
  refine ⟨onCur_next h _, ?_⟩
  simp only [List.forall_mem_cons]
  exact ⟨onCur_next h _, onCur_next h _, fun _ h => absurd h List.not_mem_nil⟩

/-- An instruction that writes is behind the gate of a write. -/
theorem csr_writes (h : s.Issues k p) (d : Reg) {a : Src} (n : BitVec 12) {cause : Nat}
    (hgate : ∀ go, s.csrGate k p n.toNat true go = s.raiseWord k cause) : exec (.csrw d a n) s = .next (s.raiseWord k cause) ∧
    (a.reg ≠ 0 → exec (.csrs d a n) s = .next (s.raiseWord k cause) ∧ exec (.csrc d a n) s = .next (s.raiseWord k cause)) := by
  refine ⟨?_, fun ha => ⟨?_, ?_⟩⟩
  · rw [csrw_exec h, State.csrChange, hgate]
  · rw [csrs_exec h d ha, State.csrChange, hgate]
  · rw [csrc_exec h d ha, State.csrChange, hgate]

/-- A register field that names g0 is known by its mode. -/
theorem src_of_reg_zero {a : Src} (h : a.reg = 0) : a = ⟨0, a.mode⟩ := by
  obtain ⟨r, m⟩ := a
  exact congrArg (Src.mk · m) h

end

theorem csrReads : Claims.CsrReads := by
  intro s k p d n m h
  refine ⟨fun e he hn hl htakes => ?_, fun e he hn hl => ?_, fun hn => ?_⟩
  · obtain ⟨hlevels, hvalue⟩ := csrTable_read s p e he
    rw [hn] at hlevels hvalue
    obtain ⟨hcsrr, hbits⟩ := csr_reads h d m n
    have hgives : s.Gives p [srcField ⟨0, m⟩ 0] [0] := gives_zero s p _ rfl
    have hvalues (c : BitVec 16) : s.retire k c [(d, s.csrRead p n.toNat)] = s.retire k c [(d, e.2.2.2)] := by rw [hvalue]
    simp only [csrGate_read hlevels hl, issue_ok hgives htakes, issue_ok (gives_nil s p) htakes, hvalues] at hcsrr hbits
    exact ⟨hcsrr, hbits _ (by simp), hbits _ (by simp)⟩
  · obtain ⟨hlevels, -⟩ := csrTable_read s p e he
    rw [hn] at hlevels
    obtain ⟨hcsrr, hbits⟩ := csr_reads h d m n
    simp only [csrGate_read_priv hlevels hl] at hcsrr hbits
    exact ⟨hcsrr, hbits _ (by simp), hbits _ (by simp)⟩
  · have hnone := csrLevels_eq_none hn
    have hread (m : BitVec 2) := csr_reads h d m n
    simp only [csrGate_unassigned hnone] at hread
    have hwrite (a : Src) := csr_writes h d (a := a) n (csrGate_unassigned hnone true)
    refine ⟨(hread m).1, (hread m).2 _ (by simp), (hread m).2 _ (by simp), fun a => ⟨(hwrite a).1, ?_⟩⟩
    by_cases ha : a.reg = 0
    · rw [src_of_reg_zero ha]
      exact ⟨(hread a.mode).2 _ (by simp), (hread a.mode).2 _ (by simp)⟩
    · exact (hwrite a).2 ha

section
variable {s : State} {k : Nat} {p : Proc} {d : Reg} {a : Src} {x : Word}

/-- TINV takes a value in order, and no other; what it posts is apart (04 R82). -/
theorem tinv_puts (s : State) (k : Nat) (p : Proc) (x : Word) : Puts s k p 0x7C8 x (tinvOk x = true) s := puts_core rfl rfl

theorem tinv_opens (hlevel : 1 ≤ p.level) : Opens s k p 0x7C8 :=
  opens_of_levels (rd := 1) (wr := some 1) rfl hlevel (fun l hl => by cases hl; exact hlevel)

/-- TINV reads as 0, so CSRS writes the source. -/
theorem tinv_old_or (s : State) (p : Proc) (x : Word) : s.csrRead p 0x7C8 ||| x = x := BitVec.zero_or

theorem csrs_tinv (hrun : s.Runs k p [srcField a 0] [x] [d]) (hlevel : 1 ≤ p.level) (ha : a.reg ≠ 0) (hok : tinvOk x = true)
    (hlen : (s.invalsOf p.name).length < 16) :
    exec (.csrs d a 0x7C8) s = .next (tinvWrite p.core p.name x (s.retire k (consumeMask p [srcField a 0]) [(d, 0)])) := by
  obtain ⟨hissues, hgives, htakes⟩ := hrun
  have hput : s.csrPut k p 0x7C8 x = some s := (tinv_puts s k p x).1 hok
  rw [csrs_exec hissues d ha]
  refine congrArg _ ?_
  change s.csrChange k p d a 0x7C8 true (fun old y => old ||| y) = _
  unfold State.csrChange
  rw [tinv_opens hlevel, issue_ok hgives htakes]
  simp only [List.getD_cons_zero, tinv_old_or, hput, ite_self, Nat.not_le.2 hlen, if_true, if_false]
  rfl

theorem tinv_illegal (hrun : s.Runs k p [srcField a 0] [x] [d]) (hlevel : 1 ≤ p.level) (hok : ¬ tinvOk x = true) :
    exec (.csrw d a 0x7C8) s = .next (s.raiseWord k 0x01) ∧ (a.reg ≠ 0 → exec (.csrs d a 0x7C8) s = .next (s.raiseWord k 0x01)) := by
  have hput : s.csrPut k p 0x7C8 x = none := (tinv_puts s k p x).2 hok
  have hx : x ≠ 0 := by
    rintro rfl
    exact hok rfl
  refine ⟨?_, fun ha => ?_⟩
  · rw [csrw_exec hrun.1]
    exact congrArg _ (csrChange_illegal hrun (tinv_opens hlevel) (bits := false) nofun (f := fun _ y => y) hput)
  · rw [csrs_exec hrun.1 d ha]
    exact congrArg _ (csrChange_illegal hrun (tinv_opens hlevel) (fun _ => hx) (f := fun old y => old ||| y) ((tinv_old_or s p x).symm ▸ hput))

end

theorem csrWritesOfTheCore : Claims.CsrWritesOfTheCore := by
  intro s k p d a x n h
  refine ⟨fun e he hn l hl hlt => ?_, fun hrun hlevel => ?_⟩
  · obtain ⟨hlevels, -⟩ := csrTable_read s p e he
    rw [hn, hl] at hlevels
    exact csr_writes h d n (csrGate_write_priv hlevels hlt)
  have hchanges (v : Word) (e : Nat × Prop × State) (he : e ∈ csrWritesOfCore s p v) (hn : e.1 = n.toNat) :=
    hn ▸ csrChanges hrun hn (csrWritesOfCore_opens hlevel v e he) (csrWritesOfCore_ne_tinv v e he) (csrWritesOfCore_puts (k := k) v e he)
  refine ⟨fun e he hn => (hchanges _ e he hn).1 rfl,
    fun ha hx e he hn => hn ▸ csrChanges_zero hrun ha hx hn (csrWritesOfCore_opens hlevel x e he) (csrWritesOfCore_ne_tinv x e he),
    fun ha hx e he hn => (hchanges _ e he hn).2.1 rfl ha hx, fun ha hx e he hn => (hchanges _ e he hn).2.2 rfl ha hx,
    fun hok hlen => ?_, fun hok => ?_⟩
  · have hok' := (tinvOk_iff x).2 hok
    exact ⟨csrw_tinv hrun hlevel hok' hlen, fun ha => csrs_tinv hrun hlevel ha hok' hlen⟩
  · exact tinv_illegal hrun hlevel (fun h => hok ((tinvOk_iff x).1 h))

/-- Settles O16: the gate of Table 5.9, then what each register makes of a value. -/
theorem controlRegisters : Obligations.ControlRegisters := ⟨csrReads, csrWritesOfTheProcess, csrWritesOfTheCore⟩

end Sys2Proof.Machine
end

section
/-! PROOFS. Fills are accepted by tag, and fences wait (05 R104; 06 R139; 04 R86, R89, R96). -/

namespace Sys2Proof.Machine

/-! ### Fills -/

/-- The registers after a fill: its own has one producer less, and the value if it awaits the fill's tag; no other changes (05 R104). -/
theorem fill_cell (p : Proc) {r : Reg} (hr : r ≠ 0) (tag : BitVec 2) (v : Word) (r' : Reg) :
    (p.fill r tag v).cell r' = if r' = r then
      (if p.accepts r tag then { p.cell r with val := v, full := true, pend := false, out := (p.cell r).out - 1 }
        else { p.cell r with out := (p.cell r).out - 1 })
      else p.cell r' := by
  have hput (c : RegCell) (h : Option Hold) (x : Reg) : ({ p.putCell r c with hold := h } : Proc).cell x = if x = r then c else p.cell x := by
    refine (cell_putCell p r x c).trans ?_
    simp only [hr, ne_eq, not_false_eq_true, and_true]
  unfold Proc.fill
  dsimp only
  split
  · rw [cell_setReg, hput, hput, if_pos rfl]
    simp only [hr, ne_eq, not_false_eq_true, and_true]
    split <;> rfl
  · rw [hput]

theorem awaits_of_wait_none {p : Proc} (h : p.wait = .none) (f : FillTo) : p.awaits f = false := by
  simp only [Proc.awaits, h]

theorem fillsByTag : Claims.FillsByTag := by
  intro s k p f v hn hu hw ho hr
  have hreg (q : Proc) : q.reg f.reg = (q.cell f.reg).val := (reg_eq q f.reg).trans (if_neg hr)
  have hfull (q : Proc) : q.full f.reg = (q.cell f.reg).full := by
    rw [full_eq, decide_eq_false hr, Bool.false_or]
  have hcell (r : Reg) : ({ p.fill f.reg f.tag v with loads := p.loads.erase (f.reg, f.tag) } : Proc).cell r = (p.fill f.reg f.tag v).cell r := rfl
  refine ⟨_, { p.fill f.reg f.tag v with loads := p.loads.erase (f.reg, f.tag) },
    congrArg Host.Outcome.next (fill_plain hn (awaits_of_wait_none hw f) hw (portOf_none hu _) ho v), State.putProc_proc_self .., ?_, ?_, fun r hne => ?_, fun j hj => ?_, rfl⟩
  · rw [hcell, fill_cell p hr, if_pos rfl]
    split <;> rfl
  · rw [hreg, hfull, hreg, hfull, hcell, fill_cell p hr, if_pos rfl]
    by_cases hacc : (p.cell f.reg).pend = true ∧ (p.cell f.reg).tag = f.tag
    · rw [if_pos hacc, if_pos (show p.accepts f.reg f.tag = true by simp [Proc.accepts, hacc])]
      exact ⟨rfl, rfl, rfl⟩
    · rw [if_neg hacc, if_neg (show ¬ p.accepts f.reg f.tag = true by simpa [Proc.accepts] using hacc)]
      exact ⟨rfl, rfl, rfl⟩
  · rw [hcell, fill_cell p hr, if_neg hne]
  · rw [proc_putProc, if_neg hj]

/-! ### Fences -/

theorem hasStores_eq_true {s : State} {p : Proc} (h : ∃ e ∈ (s.core p.core).sb, e.name = p.name) : s.hasStores p = true := by
  obtain ⟨e, he, hname⟩ := h
  exact List.any_eq_true.2 ⟨e, he, beq_iff_eq.2 hname⟩

theorem fencesWait : Claims.FencesWait := by
  intro s k p h
  refine ⟨fun d sc kd htakes => ?_, fun hstores => ?_, fun hstores => ⟨?_, ?_⟩⟩
  · have hexec := onCur_next h (fun k p => s.issue k p [] [d] (fun _ c =>
      if (kd = 0 || kd = 2) && !p.loads.isEmpty then s.park k .loads
      else if (kd = 1 || kd = 2) && s.hasStores p then s.park k .stores
      else if sc = 5 && decide (p.level ≠ 0) && s.invalPending p.name then s.park k .stores
      else s.retire k c [(d, ((s.group? p.gid).map Group.failBits).getD 0)]))
    rw [issue_ok (gives_nil s p) htakes] at hexec
    refine ⟨fun ⟨hkd, hloads⟩ => ?_, fun ⟨hkd, hstores⟩ => ?_, fun hloads hstores hinvals => ?_⟩
    · have hwait : ((decide (kd = 0) || decide (kd = 2)) && !p.loads.isEmpty) = true := by simpa [hloads] using hkd
      rw [if_pos hwait] at hexec
      exact hexec
    · have hnoload : ¬ ((decide (kd = 0) || decide (kd = 2)) && !p.loads.isEmpty) = true := by
        obtain rfl | ⟨rfl, hempty⟩ := hkd
        · simp
        · simp [hempty]
      have hwait : ((decide (kd = 1) || decide (kd = 2)) && s.hasStores p) = true := by
        rw [hasStores_eq_true hstores]
        obtain rfl | ⟨rfl, -⟩ := hkd <;> rfl
      rw [if_neg hnoload, if_pos hwait] at hexec
      exact hexec
    · have hnoload : ¬ ((decide (kd = 0) || decide (kd = 2)) && !p.loads.isEmpty) = true := by
        simpa using hloads
      have hnostore : ¬ ((decide (kd = 1) || decide (kd = 2)) && s.hasStores p) = true := by
        rw [Bool.and_eq_true, Bool.or_eq_true, decide_eq_true_iff, decide_eq_true_iff]
        rintro ⟨hkd, hhas⟩
        rw [hasStores_eq_false (hstores hkd)] at hhas
        cases hhas
      have hnoinval : ¬ (decide (sc = 5) && decide (p.level ≠ 0) && s.invalPending p.name) = true := by
        rw [Bool.and_eq_true, Bool.and_eq_true, decide_eq_true_iff, decide_eq_true_iff]
        rintro ⟨⟨hsc, hlevel⟩, hpending⟩
        rw [invalPending_eq_false (hinvals hsc hlevel)] at hpending
        cases hpending
      rw [if_neg hnoload, if_neg hnostore, if_neg hnoinval] at hexec
      exact hexec
  · exact (onCur_next h _).trans (congrArg _ (if_pos (hasStores_eq_true hstores)))
  · exact (onCur_next h _).trans (congrArg _ (if_neg (by rw [hasStores_eq_false hstores]; exact Bool.false_ne_true)))
  · exact (onCur_next h _).trans (congrArg _ (if_neg (by rw [codePending_eq_false hstores]; exact Bool.false_ne_true)))

/-- Settles O21: the tag decides a fill, and each fence looks at the loads, the stores and the invalidations in turn. -/
theorem fillsAndFences : Obligations.FillsAndFences := ⟨fillsByTag, fencesWait⟩

end Sys2Proof.Machine
end

section
/-! PROOFS. Mailbox writes set out, are refused, wait or land (05 R106, R107). -/

namespace Sys2Proof.Machine

/-! ### A process goes on -/

section
variable {s : State} {k : Nat} {p : Proc}

theorem putProc_other (s : State) (q : Proc) {j : Nat} (hj : j ≠ k) : (s.putProc k q).proc j = s.proc j := by
  rw [proc_putProc, if_neg hj]

/-- A process that goes on keeps its registers and its program counter. -/
theorem ready_procs (h : s.proc k = some p) : ∃ q, (s.ready k).procs = tput s.procs k q ∧ q.regs = p.regs ∧ q.pc = p.pc ∧ q.name = p.name := by
  unfold State.ready
  simp only [h]
  repeat' split
  all_goals exact ⟨_, rfl, rfl, rfl, rfl⟩

theorem ready_proc (h : s.proc k = some p) :
    (∃ q, (s.ready k).proc k = some q ∧ q.regs = p.regs ∧ q.pc = p.pc ∧ q.name = p.name) ∧ ∀ j, j ≠ k → (s.ready k).proc j = s.proc j := by
  obtain ⟨q, hprocs, hsame⟩ := ready_procs h
  have hproc (j : Nat) : (s.ready k).proc j = tget (tput s.procs k q) j := by rw [← hprocs]; rfl
  exact ⟨⟨q, (hproc k).trans (tget_tput_self ..), hsame⟩, fun j hj => (hproc j).trans (tget_tput_ne _ _ hj)⟩

/-- That it goes on changes no more than processes, slots and pens. -/
theorem ready_rest (s : State) (k : Nat) : { s.ready k with procs := s.procs, slots := s.slots, cores := s.cores } = s := by
  unfold State.ready
  split
  · rfl
  · dsimp only
    repeat' split
    all_goals rfl

/-- An instruction that waits completes: it retires, and its process goes on. -/
theorem complete_eq {h : Hold} (hp : s.proc k = some p) (hh : p.hold = some h) (ws : List (Reg × Word)) :
    s.complete k ws = (s.retire k h.consume ws).ready k := by
  simp only [State.complete, hp, hh]

end

/-! ### Setting out -/

/-- A process that waits at an XWR under way. -/
def Proc.sentXwr (p : Proc) (c : BitVec 16) (now : Nat) : Proc :=
  { p with st := .parked, wait := .xwr, blockedAt := now, hold := some { consume := c, issuedAt := now } }

theorem mailboxWritesSetOut : Claims.MailboxWritesSetOut := by
  intro s k p n a b x v h
  obtain ⟨hissues, hgives, htakes⟩ := h
  refine ⟨fun hbad => ?_, fun hlt hmod => ?_⟩
  · refine (onCur_next hissues _).trans (congrArg _ ((issue_ok hgives htakes _).trans (if_pos ?_)))
    change 64 ≤ x.toNat ∨ x.toNat % 8 = 7
    exact hbad
  · have hgo : ¬ (64 ≤ x.toNat ∨ x.toNat % 8 = 7) := by omega
    have hexec : exec (.xwr n a b) s = .next ((s.putProc k (p.sentXwr (consumeMask p [srcField a 0, srcField b 1]) s.cycle)).after 3
        (.xwrDelivery { sender := p.name, core := p.core / 8 * 8 + x.toNat % 8, slot := x.toNat / 8, reg := n, val := v, target := 0 })) :=
      (onCur_next hissues _).trans (congrArg _ ((issue_ok hgives htakes _).trans ((if_neg hgo).trans
        (congrArg (fun t : State => t.after 3 _) (modProc_eq hissues.2 _)))))
    exact ⟨_, _, _, hexec, State.putProc_proc_self .., rfl, rfl, rfl, rfl, dueIn_after .., rfl, rfl, rfl, rfl, rfl, rfl⟩

/-! ### Arriving -/

section
variable {s : State} {x : Xwr} {ks : Nat} {q : Proc} (hn : s.named x.sender = some (ks, q)) (hw : q.wait = .xwr)
include hn hw

/-- A refused XWR raises WINDOW_NAK at its sender. -/
theorem refuseXwr_eq : s.refuseXwr x = (s.putProc ks { q with st := .resident, wait := .none, hold := none }).raise ks 0x06
    (BitVec.ofNat 64 (windowBase x.core + 0x170000 + x.slot * 128 + x.reg.toNat * 8)) := by
  simp only [State.refuseXwr, modNamed_of_named hn, hw, if_true]
  rfl

/-- An XWR that lands writes the register, and its sender's instruction retires. -/
theorem landXwr_eq {h : Hold} (hh : q.hold = some h) {k : Nat} {p : Proc} (hk : k ≠ ks) (hr : x.reg ≠ 0) :
    ∃ (u : State) (r : Proc), s.landXwr x k p = (u.retire ks h.consume []).ready ks ∧ u.proc k = some r ∧
      r.reg x.reg = x.val ∧ r.full x.reg = true ∧ (∀ n, n ≠ x.reg → r.cell n = p.cell n) ∧ (∀ j, j ≠ k → u.proc j = s.proc j) ∧
      u.xwrs = s.xwrs := by
  have hwritten := State.putProc_proc_self s k (p.setReg x.reg x.val)
  have hland : ∀ u : State, u.dir = s.dir → (∀ j, j ≠ k → u.proc j = s.proc j) →
      u.modNamed x.sender (fun k' q v => if q.wait = .xwr then v.complete k' [] else v) = (u.retire ks h.consume []).ready ks := by
    intro u hdir hother
    obtain ⟨hkey, hproc⟩ := named_eq_some_iff.1 hn
    have hproc' : u.proc ks = some q := (hother ks hk.symm).trans hproc
    have hkey' : u.keyOf x.sender = some ks := by unfold State.keyOf at *; rw [hdir]; exact hkey
    rw [modNamed_of_named (named_eq_some_iff.2 ⟨hkey', hproc'⟩), if_pos hw, complete_eq hproc' hh]
  have hregs {r : Proc} (hsame : r.regs = (p.setReg x.reg x.val).regs) :
      r.reg x.reg = x.val ∧ r.full x.reg = true ∧ ∀ n, n ≠ x.reg → r.cell n = p.cell n := by
    have hcell (n : Reg) : r.cell n = (p.setReg x.reg x.val).cell n := by unfold Proc.cell; rw [hsame]
    have hown : r.cell x.reg = { p.cell x.reg with val := x.val, full := true, pend := false } := by
      rw [hcell, cell_setReg, if_pos ⟨rfl, hr⟩]
    refine ⟨?_, ?_, fun n hne => ?_⟩
    · rw [reg_eq, if_neg hr, hown]
    · rw [full_eq, hown, Bool.or_true]
    · rw [hcell, cell_setReg, if_neg (fun hc => hne hc.1)]
  unfold State.landXwr
  dsimp only
  split
  · obtain ⟨⟨r, hr', hsame, -, -⟩, hother⟩ := ready_proc hwritten
    have hrest := ready_rest (s.putProc k (p.setReg x.reg x.val)) k
    obtain ⟨hreg, hfull, hcells⟩ := hregs hsame
    have hothers (j : Nat) (hj : j ≠ k) := (hother j hj).trans (putProc_other s (p.setReg x.reg x.val) hj)
    exact ⟨_, r, hland _ (congrArg State.dir hrest :) hothers, hr', hreg, hfull, hcells, hothers, (congrArg State.xwrs hrest :)⟩
  · obtain ⟨hreg, hfull, hcells⟩ := hregs (r := p.setReg x.reg x.val) rfl
    have hothers (j : Nat) (hj : j ≠ k) := putProc_other s (p.setReg x.reg x.val) hj
    exact ⟨_, _, hland _ rfl hothers, hwritten, hreg, hfull, hcells, hothers, rfl⟩

end

theorem mailboxWritesArrive : Claims.MailboxWritesArrive := by
  intro s x ks q h hn hw hh _
  have hsender := (named_eq_some_iff.1 hn).2
  refine ⟨fun hres => ?_, fun k p hres hk hp => ⟨fun hgid => ?_, fun hgid hr => ?_, fun hgid hr hfull hpend hxs hdone => ?_,
    fun hgid hr hfull hpend hxs hdone hemptied => ?_, fun hgid hr hbusy => ?_, fun hmem hname hr hfull hpend => ?_, fun hmem hname => ?_⟩⟩
  · rw [← refuseXwr_eq hn hw]
    refine congrArg Host.Outcome.next ?_
    simp only [xwrDelivery, hres]
  · rw [← refuseXwr_eq hn hw]
    refine congrArg Host.Outcome.next ?_
    simp only [xwrDelivery, hres, hn, hw, hgid, ne_eq, not_true_eq_false, not_false_eq_true, if_true, if_false]
  · rw [← complete_eq hsender hh]
    refine congrArg Host.Outcome.next ?_
    simp only [xwrDelivery, hres, hn, hw, hgid, hr, ne_eq, not_true_eq_false, if_true, if_false]
  · obtain ⟨u, r, hland, hu, hreg, hfull', hcells, hothers, -⟩ := landXwr_eq hn hw hh (p := p) hk hr
    refine ⟨u, r, congrArg Host.Outcome.next (Eq.trans ?_ hland), hu, hreg, hfull', hcells, hothers⟩
    have hnow : (decide (s.cycle ≤ p.doneAt) && p.emptied.getLsbD x.reg.toNat) = false := by
      obtain hlt | hbit := hdone
      · rw [decide_eq_false (by omega), Bool.false_and]
      · rw [hbit, Bool.and_false]
    simp only [xwrDelivery, hres, hn, hw, hgid, hr, hfull, hpend, hxs, hnow, ne_eq, not_true_eq_false, if_true, if_false, List.any_nil, Bool.not_false,
      Bool.and_self, Bool.false_eq_true]
  · have hnow : (decide (s.cycle ≤ p.doneAt) && p.emptied.getLsbD x.reg.toNat) = true := by rw [decide_eq_true hdone, hemptied, Bool.and_self]
    refine ⟨({ s with xwrs := [{ x with target := p.name }] } : State).atCycle (p.doneAt + 1) (.xwrWrite { x with target := p.name }),
      congrArg Host.Outcome.next ?_, rfl, (mem_enqueue _ _ _ _).2 (.inl ?_), rfl⟩
    · simp only [xwrDelivery, hres, hn, hw, hgid, hr, hfull, hpend, hxs, hnow, ne_eq, not_true_eq_false, if_true, if_false, List.any_nil,
        Bool.not_false, Bool.and_self, List.nil_append]
    · rw [if_neg (show ¬ p.doneAt + 1 < s.cycle by omega)]
  · have hbusy' : (!p.full x.reg && !(p.cell x.reg).pend) = false := by
      obtain hb | hb := hbusy
      · rw [hb, Bool.not_true, Bool.false_and]
      · rw [hb, Bool.not_true, Bool.and_false]
    refine congrArg Host.Outcome.next ?_
    simp only [xwrDelivery, hres, hn, hw, hgid, hr, hbusy', ne_eq, not_true_eq_false, if_false, Bool.false_and, Bool.false_eq_true]
  · obtain ⟨u, r, hland, hu, hreg, hfull', -, -, hxwrs⟩ := landXwr_eq (s := { s with xwrs := s.xwrs.erase x }) hn hw hh (p := p) hk hr
    refine ⟨u, r, congrArg Host.Outcome.next (Eq.trans ?_ hland), hu, hreg, hfull', hxwrs⟩
    simp [xwrWrite, hmem, hn, hw, hres, hname, hfull, hpend]
  · refine ⟨({ s with xwrs := s.xwrs.erase x } : State).putProc ks { q with st := .resident, wait := .none, hold := none },
      congrArg Host.Outcome.next ?_, rfl, (putProc_other _ _ hk).trans hp⟩
    rw [← refuseXwr_eq (s := { s with xwrs := s.xwrs.erase x }) hn hw]
    simp [xwrWrite, hmem, hn, hw, hres, hname]

/-- Settles O23: what sets out, and each answer of the slot it reaches. -/
theorem mailboxes : Obligations.Mailboxes := ⟨mailboxWritesSetOut, mailboxWritesArrive⟩

end Sys2Proof.Machine
end

section
/-! PROOFS. Borrowed slots, full bits and bound ports (05 R108 to R111). -/

namespace Sys2Proof.Machine

/-! ### Borrowed slots -/

section
variable {s : State} {k : Nat} {p : Proc}

/-- A process that has borrowed a slot, every register of which is 0. -/
def Proc.lent (p : Proc) (i : Nat) : Proc := { p with borrow := some { slot := some i, regs := Vector.replicate 16 0 } }

theorem freeSlot_eq_some {c i : Nat} (h : s.freeSlot c = some i) : i < 8 ∧ (s.slot (c * 8 + i)).occ = none ∧ (s.slot (c * 8 + i)).lent = none := by
  have hfree := List.find?_some h
  rw [Bool.and_eq_true, Option.isNone_iff_eq_none, Option.isNone_iff_eq_none] at hfree
  exact ⟨List.mem_range.1 (List.mem_of_find?_eq_some h), hfree⟩

theorem freeSlot_eq_none_iff {c : Nat} : s.freeSlot c = none ↔ ∀ i < 8, (s.slot (c * 8 + i)).occ ≠ none ∨ (s.slot (c * 8 + i)).lent ≠ none := by
  simp only [State.freeSlot, List.find?_eq_none, List.mem_range, Bool.and_eq_true, Option.isNone_iff_eq_none, not_and_or, ne_eq]

theorem slb_lends (h : s.Issues k p) {d : Reg} (htakes : s.Takes p [d]) (hb : p.borrow = none) {i : Nat} (hi : s.freeSlot p.core = some i) :
    exec (.slb d) s = .next (((s.modSlot (p.core * 8 + i) (fun x => { x with lent := some p.idx })).putProc k (p.lent i)).retire k 0
      [(d, BitVec.ofNat 64 i)]) := by
  have hp : (s.modSlot (p.core * 8 + i) (fun x => { x with lent := some p.idx })).proc k = some p := h.2
  refine (onCur_next h _).trans (congrArg _ ((issue_ok (gives_nil s p) htakes _).trans ?_))
  simp only [hb, hi]
  rw [modProc_eq hp]
  rfl

theorem slb_refuses (h : s.Issues k p) {d : Reg} (htakes : s.Takes p [d]) (hno : p.borrow ≠ none ∨ s.freeSlot p.core = none) :
    exec (.slb d) s = .next (s.retire k 0 [(d, BitVec.allOnes 64)]) := by
  refine (onCur_next h _).trans (congrArg _ ((issue_ok (gives_nil s p) htakes _).trans ?_))
  split
  · next i hb hi =>
    obtain hno | hno := hno
    · exact absurd hb hno
    · cases hi.symm.trans hno
  · rfl

theorem returnSlot_none (hp : s.proc k = some p) (hb : p.borrow = none) : s.returnSlot k = s := by
  simp only [State.returnSlot, hp, hb]

theorem returnSlot_some (hp : s.proc k = some p) {b : Borrow} (hb : p.borrow = some b) {i : Nat} (hi : b.slot = some i) :
    s.returnSlot k = (s.modSlot (p.core * 8 + i) (fun x => { x with lent := none })).putProc k { p with borrow := none } := by
  simp only [State.returnSlot, hp, hb, hi]
  exact modProc_eq (s := s.modSlot (p.core * 8 + i) _) hp _

theorem slot_putProc (s : State) (k : Nat) (q : Proc) (i : Nat) : (s.putProc k q).slot i = s.slot i := rfl

end

theorem borrowedSlots : Claims.BorrowedSlots := by
  intro s k p h
  refine ⟨fun d htakes => ⟨fun hb ⟨j, hj, hocc, hlent⟩ => ?_, fun hno => ?_⟩, fun hb => ⟨?_, fun d n htakes => ?_, fun n a x hgives => ?_⟩,
    fun b hb => ⟨fun d n htakes => ?_, fun n a x hgives hn => ?_, fun i hi => ?_⟩⟩
  · cases hfree : s.freeSlot p.core with
    | none =>
      obtain hbad | hbad := freeSlot_eq_none_iff.1 hfree j hj
      · exact absurd hocc hbad
      · exact absurd hlent hbad
    | some i =>
      obtain ⟨hi, hocc', hlent'⟩ := freeSlot_eq_some hfree
      refine ⟨i, _, p.lent i, slb_lends h htakes hb hfree, hi, hocc', hlent', ?_, State.putProc_proc_self .., fun n => ?_, ?_, rfl⟩
      · rw [slot_putProc, State.modSlot_slot_self]
      · simp [Proc.lent, Vector.get]
      · simp [Proc.heavy, Proc.lent]
  · exact slb_refuses h htakes (hno.imp_right freeSlot_eq_none_iff.2)
  · exact (onCur_next h _).trans (by rw [returnSlot_none h.2 hb])
  · refine (onCur_next h _).trans (congrArg _ ((issue_ok (gives_nil s p) htakes _).trans ?_))
    simp only [hb]
    rfl
  · refine (onCur_next h _).trans (congrArg _ ((issue_ok hgives (takes_nil s p) _).trans ?_))
    simp only [hb]
    rfl
  · refine (onCur_next h _).trans (congrArg _ ((issue_ok (gives_nil s p) htakes _).trans ?_))
    simp only [hb]
    rfl
  · refine (onCur_next h _).trans (congrArg _ ((issue_ok hgives (takes_nil s p) _).trans ?_))
    simp only [hb, if_neg hn]
    rw [modProc_eq h.2]
    rfl
  · refine ⟨s.returnSlot k, { p with borrow := none }, onCur_next h _, ?_, ?_, rfl, rfl⟩
    · rw [returnSlot_some h.2 hb hi, slot_putProc, State.modSlot_slot_self]
    · rw [returnSlot_some h.2 hb hi, State.putProc_proc_self]

/-! ### Full bits -/

/-- Emptying some of the registers. -/
theorem foldl_emptyReg_cell (m : Nat → Bool) (l : List Nat) (hl : ∀ n ∈ l, n < 16) (p : Proc) (r : Reg) :
    (l.foldl (fun q n => if m n then q.emptyReg (BitVec.ofNat 4 n) else q) p).cell r =
      if r.toNat ∈ l ∧ m r.toNat = true ∧ r ≠ 0 then { p.cell r with full := false, pend := false } else p.cell r := by
  induction l generalizing p with
  | nil => simp
  | cons n l ih =>
    have hn : n < 16 := hl n (List.mem_cons_self ..)
    have hreg : r = BitVec.ofNat 4 n ↔ r.toNat = n := by
      rw [← BitVec.toNat_inj, BitVec.toNat_ofNat, Nat.mod_eq_of_lt (by omega)]
    have hstep : (if m n then p.emptyReg (BitVec.ofNat 4 n) else p).cell r =
        if r.toNat = n ∧ m n = true ∧ r ≠ 0 then { p.cell r with full := false, pend := false } else p.cell r := by
      by_cases hm : m n = true
      · rw [if_pos hm, cell_emptyReg]
        by_cases hr : r = BitVec.ofNat 4 n
        · simp [hr.symm, hm, hreg.1 hr]
        · simp [hr, mt hreg.2 hr]
      · simp [hm]
    rw [List.foldl_cons, ih (fun j hj => hl j (List.mem_cons_of_mem n hj)), hstep]
    by_cases hr : r.toNat = n
    · subst hr
      by_cases hm : m r.toNat = true ∧ r ≠ 0
      · rw [if_pos (c := r.toNat = r.toNat ∧ m r.toNat = true ∧ r ≠ 0) ⟨rfl, hm⟩, if_pos (c := r.toNat ∈ r.toNat :: l ∧ m r.toNat = true ∧ r ≠ 0)
          ⟨List.mem_cons_self .., hm⟩]
        exact ite_self _
      · rw [if_neg (fun h => hm h.2), if_neg (fun h => hm h.2), if_neg (fun h => hm h.2)]
    · simp [hr]

/-- A register after the consume marks: emptied, its fill no more awaited, or as it was. -/
theorem consumeRegs_cell {p : Proc} (h : p.Unbound) (m : BitVec 16) (r : Reg) : (p.consumeRegs m).cell r =
    if m.getLsbD r.toNat = true ∧ p.made.getLsbD r.toNat = false ∧ r ≠ 0 then { p.cell r with full := false, pend := false } else p.cell r := by
  unfold Proc.consumeRegs
  simp only [ports_getD h, Bool.and_false, Bool.not_false, Bool.and_true]
  rw [foldl_emptyReg_cell (fun n => m.getLsbD n && !p.made.getLsbD n) _ (fun n hn => List.mem_range.1 hn)]
  simp only [List.mem_range, r.isLt, true_and, Bool.and_eq_true, Bool.not_eq_true', and_assoc]

/-- EMPTY of a register leaves it empty, with no fill awaited, and the others as they were (05 R111). -/
theorem retire_regBit {s : State} {k : Nat} {p : Proc} (hp : s.proc k = some p) (hu : p.Unbound) (hmade : p.made = 0) (ho : p.onceOn = false)
    (hv : p.vact = false) (d : Reg) :
    ∃ q, (s.retire k (BitVec.ofNat 16 (2 ^ d.toNat)) []).proc k = some q ∧ (d ≠ 0 → q.full d = false ∧ (q.cell d).pend = false) ∧
      (∀ r, q.reg r = p.reg r) ∧ (∀ r, r ≠ d → q.cell r = p.cell r) := by
  have hcell (r : Reg) : (p.markRetired (p.retire (regBit d) []) s.cycle (regBit d) []).cell r =
      if d = r ∧ r ≠ 0 then { p.cell r with full := false, pend := false } else p.cell r := by
    rw [retire_of_not_vact hv hu]
    refine (consumeRegs_cell hu (regBit d) r).trans ?_
    have hmade' : p.made.getLsbD r.toNat = false := by rw [hmade]; exact BitVec.getLsbD_zero
    simp only [regBit_getLsbD, hmade', decide_eq_true_eq, true_and]
  refine ⟨_, ((retire_proc_state hp ho hu _ _).1 k).trans (if_pos rfl), fun hd => ?_, fun r => ?_, fun r hr => ?_⟩
  · have hown := (hcell d).trans (if_pos ⟨rfl, hd⟩)
    refine ⟨?_, congrArg RegCell.pend hown⟩
    rw [full_eq, decide_eq_false hd, Bool.false_or]
    exact congrArg RegCell.full hown
  · rw [reg_eq, reg_eq]
    refine if_congr Iff.rfl rfl ((congrArg RegCell.val (hcell r)).trans ?_)
    split <;> rfl
  · exact (hcell r).trans (if_neg fun h => hr h.1.symm)

/-! ### Ports -/

section
variable {s : State} {k : Nat} {p : Proc} {d : Reg}

theorem withPort_ok (hlo : 8 ≤ d.toNat) (hhi : d.toNat ≤ 11) (hf : (p.ports.toList.getD (d.toNat - 8) {}).failed = false) (go : Nat → State) :
    s.withPort k p d go = go (d.toNat - 8) := by
  have hport : ¬ (d.toNat < 8 || 11 < d.toNat) = true := by simp; omega
  unfold State.withPort
  rw [if_neg hport]
  simp only [hf, Bool.false_eq_true, if_false]

theorem withPort_illegal (h : d.toNat < 8 ∨ 11 < d.toNat) (go : Nat → State) : s.withPort k p d go = s.raiseWord k 0x01 := if_pos (by simpa using h)

/-- The port of a register after it is replaced. -/
theorem ports_set (hlo : 8 ≤ d.toNat) (hhi : d.toNat ≤ 11) (x : Port) : (p.ports.set! (d.toNat - 8) x).toList.getD (d.toNat - 8) {} = x := by
  have hlt : d.toNat - 8 < 4 := by omega
  simp [hlt]

theorem port_register (hlo : 8 ≤ d.toNat) : BitVec.ofNat 4 (8 + (d.toNat - 8)) = d := by
  rw [Nat.add_sub_cancel' hlo, BitVec.ofNat_toNat, BitVec.setWidth_eq]

/-- An unbound port leaves its register full, 0, and awaiting nothing. -/
theorem unbind_cell (hlo : 8 ≤ d.toNat) : (p.unbind (d.toNat - 8)).cell d = { p.cell d with val := 0, full := true, pend := false } := by
  have hd : d ≠ 0 := by rintro rfl; simp at hlo
  unfold Proc.unbind
  dsimp only
  rw [port_register hlo, cell_putCell, if_pos ⟨rfl, hd⟩]
  rfl

theorem unbind_ports (hlo : 8 ≤ d.toNat) (hhi : d.toNat ≤ 11) : (p.unbind (d.toNat - 8)).ports.toList.getD (d.toNat - 8) {} = {} := by
  unfold Proc.unbind
  dsimp only
  rw [ports_putCell]
  exact ports_set hlo hhi {}

end

theorem portsAndBits : Claims.PortsAndBits := by
  intro s k p h
  refine ⟨fun d hport => ⟨?_, fun hu hmade ho hv => retire_regBit h.2 hu hmade ho hv d⟩, fun d x hport => ?_, fun d a htakes hport => ?_,
    fun d b x hlo hhi hfail => ⟨fun hgives hx e he hword hdisp => ?_, fun hgives hbad => ?_, fun hbound => ?_, fun hbound => ?_⟩, fun d hd => ?_⟩
  · exact (onCur_next h _).trans (congrArg _ (if_neg (by rw [hport]; exact Bool.false_ne_true)))
  · exact (onCur_next h _).trans (congrArg _ (if_pos (by rw [hport]; rfl)))
  · refine (onCur_next h _).trans (congrArg _ ((issue_ok (gives_nil s p) htakes _).trans ?_))
    simp only [State.source, hport]
    cases p.full a <;> rfl
  · have hkind : x.toNat / 2 ^ 62 = 0 := by omega
    have hrest : x.toNat / 64 % 2 ^ 56 = 0 := by omega
    have hnum : x.toNat % 64 = x.toNat := Nat.mod_eq_of_lt hx
    refine ⟨p.bindPort (d.toNat - 8) { bound := true, kind := 0, num := x.toNat }, ?_, ports_set hlo hhi _, ?_, ?_⟩
    · refine (onCur_next h _).trans (congrArg _ ((issue_ok hgives (takes_nil s p) _).trans ((withPort_ok hlo hhi hfail _).trans ?_)))
      simp only [List.getD_cons_zero, hkind, hrest, hnum, he, hword, hdisp, modProc_eq h.2]
      rfl
    · have hreg : (p.bindPort (d.toNat - 8) { bound := true, kind := 0, num := x.toNat }).cell d = _ := unbind_cell hlo
      rw [reg_eq, hreg, ite_self]
    · exact congrArg RegCell.pend (unbind_cell hlo)
  · refine (onCur_next h _).trans (congrArg _ ((issue_ok hgives (takes_nil s p) _).trans ((withPort_ok hlo hhi hfail _).trans ?_)))
    simp only [List.getD_cons_zero]
    by_cases hform : (decide (2 ≤ x.toNat / 2 ^ 62) || decide (x.toNat / 64 % 2 ^ 56 ≠ 0)) = true
    · rw [if_pos hform]
      rfl
    · rw [if_neg hform]
      simp only [Bool.or_eq_true, decide_eq_true_eq, not_or] at hform
      obtain hhigh | hmid | ⟨hx, hnone⟩ := hbad
      · omega
      · omega
      · have hkind : x.toNat / 2 ^ 62 = 0 := by omega
        simp only [hkind, Nat.mod_eq_of_lt hx, hnone, if_true]
        rfl
  · have hreg : (p.unbind (d.toNat - 8)).cell d = _ := unbind_cell hlo
    refine ⟨p.unbind (d.toNat - 8), ?_, unbind_ports hlo hhi, ?_, ?_⟩
    · refine (onCur_next h _).trans (congrArg _ ((withPort_ok hlo hhi hfail _).trans ((if_pos hbound).trans ?_)))
      rw [modProc_eq h.2]
    · rw [reg_eq, hreg, ite_self]
    · rw [full_eq, hreg, Bool.or_true]
  · exact (onCur_next h _).trans (congrArg _ ((withPort_ok hlo hhi hfail _).trans (if_neg (by rw [hbound]; exact Bool.false_ne_true))))
  · exact (onCur_next h _).trans (congrArg _ (withPort_illegal hd _))

/-- Settles O24: each instruction by what it makes of the slot, of the register's cell and of its port. -/
theorem slotsAndPorts : Obligations.SlotsAndPorts := ⟨borrowedSlots, portsAndBits⟩

end Sys2Proof.Machine
end

section
/-! PROOFS. Numbers in memory (00 R3), and accesses that no store or atomic of their process precedes (04 R83, R94 to R98). -/

namespace Sys2Proof.Machine

/-! ### Numbers in memory -/

theorem length_leBytes (n v : Nat) : (leBytes n v).length = n := by
  induction n generalizing v with
  | zero => rfl
  | succ n ih => exact congrArg (· + 1) (ih (v / 256))

theorem leNat_leBytes (n v : Nat) : leNat (leBytes n v) = v % 2 ^ (8 * n) := by
  induction n generalizing v with
  | zero => exact (Nat.mod_one v).symm
  | succ n ih =>
    rw [leBytes, leNat, ih, BitVec.toNat_ofNat, show 8 * (n + 1) = 8 + 8 * n by omega, pow_add, Nat.mod_mul]
    rfl

theorem leBytes_getD (n v i : Nat) (h : i < n) : (leBytes n v).getD i 0 = BitVec.ofNat 8 (v / 2 ^ (8 * i)) := by
  induction n generalizing v i with
  | zero => omega
  | succ n ih =>
    cases i with
    | zero => simp [leBytes]
    | succ i =>
      rw [leBytes, List.getD_cons_succ, ih _ _ (by omega), Nat.div_div_eq_div_mul, show 8 * (i + 1) = 8 + 8 * i by omega, pow_add]
      rfl

theorem readBytes_eq_map (m : List Host.Cell) (a n : Nat) : readBytes m a n = (List.range n).map (fun i => readByte m (a + i)) := by
  induction n generalizing a with
  | zero => rfl
  | succ n ih =>
    rw [readBytes, ih, List.range_succ_eq_map, List.map_cons, List.map_map]
    simp only [Function.comp_def, Nat.add_zero, Nat.succ_eq_add_one, Nat.add_comm 1, Nat.add_assoc]

/-- A number of n bytes is below 2^(8n). -/
theorem leNat_lt (bs : List Byte) : leNat bs < 2 ^ (8 * bs.length) := by
  induction bs with
  | nil => exact Nat.one_pos
  | cons b bs ih =>
    have hb := b.isLt
    rw [leNat, List.length_cons, show 8 * (bs.length + 1) = 8 + 8 * bs.length by omega, pow_add]
    omega

theorem length_readBytes (m : List Host.Cell) (a n : Nat) : (readBytes m a n).length = n := by
  rw [readBytes_eq_map, List.length_map, List.length_range]

theorem readLe_lt (m : List Host.Cell) (a n : Nat) : readLe m a n < 2 ^ (8 * n) := by
  have h := leNat_lt (readBytes m a n)
  rwa [length_readBytes] at h

section
variable {s : State} (h : s.MemOk)
include h

/-- A byte after a number is written. -/
theorem readByte_writeNum (a n v j : Nat) : readByte (s.writeNum a n v).mem j =
    if a ≤ j ∧ j < a + n then BitVec.ofNat 8 (v / 2 ^ (8 * (j - a))) else readByte s.mem j := by
  rw [State.writeNum, readByte_writeMem h, length_leBytes]
  by_cases hj : a ≤ j ∧ j < a + n
  · rw [if_pos hj, if_pos hj, leBytes_getD n v _ (by omega)]
  · rw [if_neg hj, if_neg hj]

theorem readByte_writeNum_other {a n j : Nat} (v : Nat) (hj : j < a ∨ a + n ≤ j) : readByte (s.writeNum a n v).mem j = readByte s.mem j := by
  rw [readByte_writeNum h, if_neg (by omega)]

/-- A number that is written is read back. -/
theorem readLe_writeNum (a n v : Nat) : readLe (s.writeNum a n v).mem a n = v % 2 ^ (8 * n) := by
  have hbytes : readBytes (s.writeNum a n v).mem a n = leBytes n v := by
    refine List.ext_getElem (by rw [length_readBytes, length_leBytes]) fun i hi hi' => ?_
    rw [length_readBytes] at hi
    have hlow : readByte (s.writeNum a n v).mem (a + i) = BitVec.ofNat 8 (v / 2 ^ (8 * i)) := by
      rw [readByte_writeNum h, if_pos (by omega), Nat.add_sub_cancel_left]
    rw [← leBytes_getD n v i hi, List.getD_eq_getElem (hn := hi')] at hlow
    simpa only [readBytes_eq_map, List.getElem_map, List.getElem_range] using hlow
  rw [readLe, hbytes, leNat_leBytes]

end

/-! ### A list of addresses -/

theorem mem_insertAddr (a c : Nat) (l : List Nat) : c ∈ insertAddr a l ↔ c = a ∨ c ∈ l := by
  induction l with
  | nil => simp [insertAddr]
  | cons b l ih =>
    rw [insertAddr]
    split
    · simp
    · split
      · next hab => simp [hab]
      · simp only [List.mem_cons, ih]
        tauto

/-! ### Nothing of a process precedes an access -/

section
variable {s : State} {p : Proc}

/-- With no atomic of a process on its way none is performed early. -/
theorem pullAmos_of_noAtomics {name : Nat} (h : s.NoAtomics name) (which : Access → Bool) : s.pullAmos name which = s := by
  have hno (e : Nat × Ev) (he : e ∈ s.agenda) : isAmo name which e.2 = false :=
    isAmo_eq_false fun x hx => h x ⟨e.1, hx ▸ he⟩
  have hnone : s.agenda.filter (fun e => isAmo name which e.2) = [] :=
    List.filter_eq_nil_iff.2 fun e he => by simp [hno e he]
  have hall : s.agenda.filter (fun e => !isAmo name which e.2) = s.agenda :=
    List.filter_eq_self.2 fun e he => by simp [hno e he]
  rw [State.pullAmos, hnone, hall]
  rfl

theorem beforeRead_of_noAtomics (h : s.NoAtomics p.name) (pa size : Nat) : s.beforeRead p pa size = s := pullAmos_of_noAtomics h _

/-- With no store of the process in its core's buffer none overlaps. -/
theorem overlapping_eq_false (h : ∀ e ∈ (s.core p.core).sb, e.name ≠ p.name) (va pa size : Nat) : s.overlapping p va pa size = false :=
  List.any_eq_false.2 fun e he => by simp [h e he]

/-- The state in which an access goes on: its core's micro cache has used the translation, if it took one. -/
theorem withPage_pa {k va pa : Nat} {needR needW : Bool} {y : Option Tlb} (h : s.translate p va needR needW = .pa pa y) (go : State → Nat → State) :
    s.withPage k p va needR needW go = go (y.elim s (fun e => s.modCore p.core (fun c => c.touch e))) pa := by
  rw [State.withPage, h]
  cases y <;> rfl

/-- Using a translation leaves the store buffer of every core. -/
theorem touched_sb (y : Option Tlb) (c j : Nat) :
    ((y.elim s (fun e => s.modCore c (fun x => x.touch e))).core j).sb = (s.core j).sb := by
  cases y with
  | none => rfl
  | some e =>
    change ((s.modCore c (fun x => x.touch e)).core j).sb = _
    rw [core_modCore]
    split
    · next hj => rw [hj]; rfl
    · rfl

theorem touched_rest (y : Option Tlb) (c : Nat) : { y.elim s (fun e => s.modCore c (fun x => x.touch e)) with cores := s.cores } = s := by
  cases y <;> rfl

end

end Sys2Proof.Machine
end

section
/-! PROOFS. Future cells: FRD, FWR, FCLR and the answer of the fold (05 R122, R123). -/

namespace Sys2Proof.Machine

/-! ### The wake of a cell's waiters -/

/-- The process of a name does not wait for a cell. -/
def State.IsAwake (s : State) (pa name : Nat) : Prop := ∀ j r, s.named name = some (j, r) → r.wait ≠ .cell pa

/-- A process that goes on waits for nothing. -/
theorem ready_wait {s : State} {k : Nat} {p q : Proc} (hp : s.proc k = some p) (hq : (s.ready k).proc k = some q) : q.wait = .none := by
  have hput (t : State) (r : Proc) (ht : t.procs = tput s.procs k r) (hr : r.wait = .none) (hq : t.proc k = some q) : q.wait = .none := by
    have h : t.proc k = some r := by rw [State.proc, ht, tget_tput_self]
    exact (Option.some.inj (h.symm.trans hq)) ▸ hr
  unfold State.ready at hq
  simp only [hp] at hq
  repeat' split at hq
  all_goals exact hput _ _ rfl rfl hq

/-- One waiter of a cell tries again. -/
def State.wakeOne (s : State) (pa name : Nat) : State :=
  s.modNamed name (fun k p u => if p.wait = .cell pa then u.ready k else u)

section
variable {s : State} {pa : Nat}

theorem wakeOne_eq (s : State) (pa name : Nat) :
    s.wakeOne pa name = s ∨ ∃ k p, s.named name = some (k, p) ∧ p.wait = .cell pa ∧ s.wakeOne pa name = s.ready k := by
  unfold State.wakeOne
  cases hn : s.named name with
  | none => exact .inl (modNamed_of_none hn _)
  | some e =>
    rw [modNamed_of_named hn]
    by_cases hw : e.2.wait = .cell pa
    · exact .inr ⟨e.1, e.2, rfl, hw, if_pos hw⟩
    · exact .inl (if_neg hw)

theorem wakeOne_rest (s : State) (pa name : Nat) :
    { s.wakeOne pa name with procs := s.procs, slots := s.slots, cores := s.cores } = s := by
  obtain h | ⟨k, p, -, -, h⟩ := wakeOne_eq s pa name
  · rw [h]
  · rw [h, ready_rest]

/-- After its own turn a waiter is awake, and no turn puts another to waiting. -/
theorem wakeOne_awake (name other : Nat) (h : other = name ∨ s.IsAwake pa other) : (s.wakeOne pa name).IsAwake pa other := by
  intro j r hr
  obtain heq | ⟨k, p, hn, hw, heq⟩ := wakeOne_eq s pa name
  · rw [heq] at hr
    obtain rfl | h := h
    · intro hwait
      have hready : s.wakeOne pa other = s.ready j := by rw [State.wakeOne, modNamed_of_named hr, if_pos hwait]
      have hp := (named_eq_some_iff.1 hr).2
      have hp' : (s.ready j).proc j = some r := by rw [← hready, heq]; exact hp
      rw [ready_wait hp hp'] at hwait
      cases hwait
    · exact h j r hr
  · obtain ⟨hkey, hp⟩ := named_eq_some_iff.1 hn
    rw [heq] at hr
    obtain ⟨hkey', hr⟩ := named_eq_some_iff.1 hr
    by_cases hj : j = k
    · subst hj
      rw [ready_wait hp hr]
      exact nofun
    · have hkeys : (s.ready k).keyOf other = s.keyOf other := congrArg (tget · other) (congrArg State.dir (ready_rest s k) :)
      obtain rfl | h := h
      · exact absurd (Option.some.inj ((hkey'.symm.trans hkeys).trans hkey)) hj
      · exact h j r (named_eq_some_iff.2 ⟨hkeys.symm.trans hkey', ((ready_proc hp).2 j hj).symm.trans hr⟩)

theorem foldl_wakeOne_awake (l : List (Nat × Nat)) (s : State) (name : Nat) (h : name ∈ l.map Prod.fst ∨ s.IsAwake pa name) :
    (l.foldl (fun t w => t.wakeOne pa w.1) s).IsAwake pa name := by
  induction l generalizing s with
  | nil => simpa using h
  | cons w l ih =>
    refine ih (s.wakeOne pa w.1) ?_
    rw [List.map_cons, List.mem_cons] at h
    obtain (rfl | h) | h := h
    · exact .inr (wakeOne_awake _ _ (.inl rfl))
    · exact .inl h
    · exact .inr (wakeOne_awake _ _ (.inr h))

theorem foldl_wakeOne_rest (l : List (Nat × Nat)) (s : State) :
    { l.foldl (fun t w => t.wakeOne pa w.1) s with procs := s.procs, slots := s.slots, cores := s.cores } = s := by
  induction l generalizing s with
  | nil => rfl
  | cons w l ih =>
    exact (congrArg (fun t : State => { t with procs := s.procs, slots := s.slots, cores := s.cores }) (ih (s.wakeOne pa w.1)) :).trans
      (wakeOne_rest s pa w.1)

/-- The wake of a cell changes processes, their slots and pens, and the fold's table. -/
theorem wakeCell_rest (s : State) (fo pa : Nat) :
    { s.wakeCell fo pa with procs := s.procs, slots := s.slots, cores := s.cores, folds := s.folds } = s :=
  congrArg (fun t : State => { t with folds := s.folds }) (foldl_wakeOne_rest _ (s.modFold fo _))

theorem wakeCell_awake {fo : Nat} {w : Nat × Nat} (hw : w ∈ (s.fold fo).cellWait) (hpa : w.2 = pa) : (s.wakeCell fo pa).IsAwake pa w.1 :=
  foldl_wakeOne_awake _ _ _ (.inl (List.mem_map_of_mem (List.mem_filter.2 ⟨hw, beq_iff_eq.2 hpa⟩)))

end

/-! ### Cells -/

section
variable {s : State} {k : Nat} {p : Proc} {x : Word} {pa : Nat} {y : Option Tlb}

/-- A cell that nothing of its process is on its way to, and that its process may reach. -/
theorem withCell_ok {needR needW : Bool} {t : State} (ht : t = y.elim s (fun e => s.modCore p.core (fun c => c.touch e))) (hal : x.toNat % 8 = 0)
    (hsb : ∀ e ∈ (s.core p.core).sb, e.name ≠ p.name) (hcell : isCell p.core pa = true) (hamo : s.NoAtomics p.name)
    (hx : s.translate p x.toNat needR needW = .pa pa y) (hpass : t.passes p.core p.gid p.level pa 8 needR needW = true)
    (hpoison : (needR && t.poisoned pa 8) = false) (go : State → Nat → State) : s.withCell k p x needR needW go = go t pa := by
  have hsb' : ∀ e ∈ (t.core p.core).sb, e.name ≠ p.name := by
    rw [ht, touched_sb]
    exact hsb
  have hamo' : t.NoAtomics p.name := by
    have hagenda : t.agenda = s.agenda := by rw [ht]; exact (congrArg State.agenda (touched_rest y p.core) :)
    intro z ⟨c, hc⟩
    exact hamo z ⟨c, hagenda ▸ hc⟩
  rw [State.withCell, if_neg (not_not.2 hal), withPage_pa hx, ← ht]
  simp only [overlapping_eq_false hsb', beforeRead_of_noAtomics hamo', hcell, hpass, hpoison, Bool.not_true, Bool.false_eq_true, if_false]

end

/-- A process that waits for the answer to an FRD. -/
def Proc.awaitsCell (p : Proc) (c : BitVec 16) (now : Nat) : Proc :=
  { p with st := .parked, wait := .frd, blockedAt := now, hold := some { consume := c, issuedAt := now } }

theorem futureCells : Claims.FutureCells := by
  intro s t k p a b x v pa y ht hal hsb hcell hok hamo
  have hrest : { t with cores := s.cores } = s := by rw [ht]; exact touched_rest y p.core
  have hmem : t.MemOk := memOk_of_mem hok (congrArg State.mem hrest :)
  have hp' (hp : s.proc k = some p) : t.proc k = some p := by
    rw [← hp, ← hrest]
    rfl
  refine ⟨fun d tb cb hrun hx hpass hpoison => ?_, fun hrun hx hpass => ?_, fun hrun hx hpass => ?_⟩
  · obtain ⟨hissues, hgives, htakes⟩ := hrun
    refine ⟨_, p.awaitsCell (consumeMask p [srcField a 0]) s.cycle, (onCur_next hissues _).trans (congrArg _ ((issue_ok hgives htakes _).trans
      ((withCell_ok ht hal hsb hcell hamo hx hpass (by rw [hpoison, Bool.and_false]) _).trans
        (congrArg (fun u : State => u.after (2 * t.wayTo p.core pa + 2) _) (modProc_eq (hp' hissues.2) _))))),
      State.putProc_proc_self .., rfl, rfl, rfl, rfl, dueIn_after .., ?_⟩
    exact (congrArg (fun u : State => { u with procs := s.procs, agenda := s.agenda }) hrest :)
  · obtain ⟨hissues, hgives, htakes⟩ := hrun
    have hwake := wakeCell_rest { t.writeNum pa 8 v.toNat with ftags := insertAddr pa t.ftags } (foldOf p.core) pa
    have hmem' := congrArg State.mem hwake
    have htags' := congrArg State.ftags hwake
    have hmems : t.mem = s.mem := (congrArg State.mem hrest :)
    have htags : t.ftags = s.ftags := (congrArg State.ftags hrest :)
    dsimp only at hmem' htags'
    refine ⟨_, (onCur_next hissues _).trans (congrArg _ ((issue_ok hgives htakes _).trans
      (withCell_ok ht hal hsb hcell hamo hx hpass rfl _))), ?_, fun c hc => ?_, fun c => ?_, fun w hw hpa => ?_⟩
    · refine (congrArg (readLe · pa 8) hmem').trans ?_
      exact (readLe_writeNum hmem pa 8 v.toNat).trans (Nat.mod_eq_of_lt v.isLt)
    · refine (congrArg (readByte · c) hmem').trans ?_
      exact (readByte_writeNum_other hmem v.toNat hc).trans (congrArg (readByte · c) hmems)
    · refine (iff_of_eq (congrArg (c ∈ ·) htags')).trans ?_
      exact (mem_insertAddr pa c t.ftags).trans (by rw [htags])
    · have hfold : (t.fold (foldOf p.core)).cellWait = (s.fold (foldOf p.core)).cellWait := by
        rw [← hrest]
        rfl
      exact wakeCell_awake (s := { t.writeNum pa 8 v.toNat with ftags := insertAddr pa t.ftags }) (hfold.symm ▸ hw) hpa
  · obtain ⟨hissues, hgives, htakes⟩ := hrun
    refine ⟨_, (onCur_next hissues _).trans (congrArg _ ((issue_ok hgives htakes _).trans
      (withCell_ok ht hal hsb hcell hamo hx hpass rfl _))), fun c => ?_, ?_⟩
    · have htags : t.ftags = s.ftags := (congrArg State.ftags hrest :)
      rw [← htags]
      simp [List.mem_filter]
    · exact (congrArg (fun u : State => { u with ftags := s.ftags }) hrest :)

/-! ### The answer of the fold -/

/-- A process that waits outside its slot, in a new episode of its record. -/
def Proc.blockedFor (p : Proc) (w : Wait) (now : Nat) : Proc :=
  { p with wait := w, st := .blocked, blockedAt := now, episode := (p.episode + 1) % 65536, probeFrom := now }

theorem block_eq {s : State} {k : Nat} {p : Proc} (hp : s.proc k = some p) (w : Wait) :
    s.block k w = (s.putProc k (p.blockedFor w s.cycle)).setProbe (p.blockedFor w s.cycle) := by
  unfold State.block State.enterBlocked State.armProbe
  rw [modProc_eq hp, modProc_eq (State.putProc_proc_self ..), putProc_putProc]
  simp only [State.putProc_proc_self, putProc_putProc]
  rfl

theorem setProbe_rest (s : State) (p : Proc) : { s.setProbe p with agenda := s.agenda } = s := by
  unfold State.setProbe
  split <;> rfl

/-- Beside the process that waits, only a probe may set out. -/
theorem block_rest {s : State} {k : Nat} {p : Proc} (hp : s.proc k = some p) (w : Wait) :
    { s.block k w with procs := s.procs, agenda := s.agenda } = s := by
  rw [block_eq hp]
  exact (congrArg (fun u : State => { u with procs := s.procs }) (setProbe_rest (s.putProc k (p.blockedFor w s.cycle)) _) :)

theorem block_proc {s : State} {k : Nat} {p : Proc} (hp : s.proc k = some p) (w : Wait) :
    (s.block k w).proc k = some (p.blockedFor w s.cycle) := by
  have hrest := setProbe_rest (s.putProc k (p.blockedFor w s.cycle)) (p.blockedFor w s.cycle)
  rw [block_eq hp]
  exact (congrArg (tget · k) (congrArg State.procs hrest :)).trans (State.putProc_proc_self s k _)

/-- A process is registered with its fold as a waiter for a cell, and gives its instruction up. -/
def State.registered (s : State) (k : Nat) (p : Proc) (addr : Nat) : State :=
  (s.putProc k { p with hold := none }).modFold (foldOf p.core) (fun y => { y with cellWait := y.cellWait ++ [(p.name, addr)] })

theorem futureAnswers : Claims.FutureAnswers := by
  intro s k p h f hn hw hh
  obtain ⟨-, hp⟩ := named_eq_some_iff.1 hn
  refine ⟨fun hfull => ?_, fun hempty ht => ?_, fun hempty ht hroom => ?_⟩
  · have hcontains : s.ftags.contains f.addr = true := by simpa using hfull
    have hfrd (u : State) (hu : (if f.c then { s with ftags := s.ftags.filter (fun a => a != f.addr) } else s) = u) (hproc : u.proc k = some p) :
        exec (.frdAnswer f) s = .next ((u.retire k h.consume [(f.reg, BitVec.ofNat 64 (s.loadPhys f.addr 8))]).ready k) := by
      rw [← complete_eq hproc hh, ← hu]
      refine congrArg Host.Outcome.next ?_
      simp only [frdAnswer, modNamed_of_named hn, hw, hcontains, ne_eq, not_true_eq_false, if_true, if_false]
    by_cases hc : f.c = true
    · refine ⟨{ s with ftags := s.ftags.filter (fun a => a != f.addr) }, hfrd _ (if_pos hc) hp, fun c => ?_, rfl⟩
      simp [hc]
    · refine ⟨s, hfrd _ (if_neg hc) hp, fun c => ?_, rfl⟩
      simp [hc]
  · have hcontains : s.ftags.contains f.addr = false := by simpa using hempty
    refine congrArg Host.Outcome.next ?_
    simp only [frdAnswer, modNamed_of_named hn, hw, hcontains, ht, ne_eq, not_true_eq_false, if_true, if_false, Bool.false_eq_true]
    rfl
  · have hcontains : s.ftags.contains f.addr = false := by simpa using hempty
    have hfrd : exec (.frdAnswer f) s = .next (if p.heavy then (s.registered k p f.addr).park k (.cell f.addr) else (s.registered k p f.addr).block k (.cell f.addr)) := by
      refine congrArg Host.Outcome.next ?_
      simp only [frdAnswer, modNamed_of_named hn, if_neg (not_not.2 hw), hcontains, ht, hroom, if_true, if_false, Bool.false_eq_true]
      rfl
    have hu : (s.registered k p f.addr).proc k = some { p with hold := none } := State.putProc_proc_self ..
    have hwaits : ((s.registered k p f.addr).fold (foldOf p.core)).cellWait = (s.fold (foldOf p.core)).cellWait ++ [(p.name, f.addr)] :=
      congrArg FoldS.cellWait (tgetD_tput_self ..)
    by_cases hheavy : p.heavy = true
    · rw [if_pos hheavy] at hfrd
      have hrest := park_rest hu (.cell f.addr)
      refine ⟨_, { p with hold := none, st := .parked, wait := .cell f.addr, blockedAt := s.cycle }, hfrd, (park_proc hu _ k).trans (if_pos rfl), rfl,
        (if_pos hheavy).symm, rfl, rfl, ?_, ?_, ?_⟩
      · exact (congrArg (fun v : State => (v.fold (foldOf p.core)).cellWait) hrest :).trans hwaits
      · exact (congrArg State.ftags hrest :)
      · exact (congrArg State.mem hrest :)
    · rw [if_neg hheavy] at hfrd
      have hrest := block_rest hu (.cell f.addr)
      refine ⟨_, ({ p with hold := none } : Proc).blockedFor (.cell f.addr) s.cycle, hfrd, block_proc hu _, rfl,
        (if_neg hheavy).symm, rfl, rfl, ?_, ?_, ?_⟩
      · exact (congrArg (fun v : State => (v.fold (foldOf p.core)).cellWait) hrest :).trans hwaits
      · exact (congrArg State.ftags hrest :)
      · exact (congrArg State.mem hrest :)

/-- Settles O22: what each instruction finds at its cell, and what the fold answers. -/
theorem futures : Obligations.Futures := ⟨futureCells, futureAnswers⟩

end Sys2Proof.Machine
end

section
/-! PROOFS. Atomics (05 R125, 04 R97). -/

namespace Sys2Proof.Machine

/-! ### At the location -/

/-- The new value of a location is that of the table. -/
theorem amoNew_of_mem {e : Nat × (Reg → Src → Src → BitVec 1 → BitVec 1 → BitVec 1 → Instr) × (Nat → Nat → Nat → Nat → Nat)} (he : e ∈ amoTable)
    (dbl : Bool) (old b cmp : Nat) : amoNew (BitVec.ofNat 4 e.1).toNat dbl old b cmp = e.2.2 (8 * amoSize dbl) old b cmp := by
  have hwidth : (if dbl then 64 else 32) = 8 * amoSize dbl := by cases dbl <;> rfl
  simp only [amoTable, List.mem_cons, List.not_mem_nil, or_false] at he
  obtain rfl | rfl | rfl | rfl | rfl | rfl | rfl | rfl | rfl | rfl | rfl := he
  · exact congrArg (fun n => (old + b) % 2 ^ n) hwidth
  · rfl
  · rfl
  · rfl
  · rw [← hwidth]
    simp only [amoNew, asSigned, BitVec.toNat_ofNat, ← not_lt, ite_not]
  · rw [← hwidth]
    simp only [amoNew, asSigned, BitVec.toNat_ofNat, ← not_lt, ite_not]
  · simp only [amoNew, BitVec.toNat_ofNat, Nat.min_def, ← not_lt, ite_not]
  · refine Eq.trans ?_ (Nat.max_comm b old)
    simp only [amoNew, BitVec.toNat_ofNat, Nat.max_def, ← not_lt, ite_not]
  · rfl
  · rfl
  · cases dbl <;> rfl

section
variable {s : State} {pa : Nat}

/-- HBM and fold SRAM hold their bytes in memory, and wait for no port. -/
structure State.IsPlain (s : State) (pa : Nat) : Prop where
  load : ∀ n, s.loadPhys pa n = readLe s.mem pa n
  store : ∀ core name n v, s.storePhys core name pa n v = s.writeNum pa n v
  port : ∀ e, s.windowPort pa e = (s, true)

theorem isPlain_of_place {f n : Nat} (h : placeOf pa = .sram f n ∨ placeOf pa = .hbm f n) : s.IsPlain pa := by
  obtain h | h := h
  · exact ⟨fun n => by simp [State.loadPhys, State.physViewed, h], fun _ _ _ _ => by simp [State.storePhys, h], fun _ => by simp [State.windowPort, h]⟩
  · exact ⟨fun n => by simp [State.loadPhys, State.physViewed, h], fun _ _ _ _ => by simp [State.storePhys, h], fun _ => by simp [State.windowPort, h]⟩

end

theorem atomicsAtHome : Claims.AtomicsAtHome := by
  intro e he s x w b c r g f n z hk _ hplace hok
  have hplain : s.IsPlain x.addr := isPlain_of_place hplace
  have hz : amoSize (w = 1) = z := by simp [amoSize, z]
  have hnew := amoNew_of_mem he (w = 1) (readLe s.mem x.addr z) (b.toNat % 2 ^ (8 * z)) (c.toNat % 2 ^ (8 * z))
  have hexec : exec (.amoAtHome x) s = .next ((s.writeNum x.addr z (e.2.2 (8 * z) (readLe s.mem x.addr z) (b.toNat % 2 ^ (8 * z)) (c.toNat % 2 ^ (8 * z)))).atCycle
      (s.cycle + s.wayTo x.core x.addr + 1) (.fill ⟨x.name, r, g⟩ (BitVec.ofNat 64 (readLe s.mem x.addr z)))) := by
    refine congrArg Host.Outcome.next ?_
    rw [hz] at hnew
    simp only [amoAtHome, hplain.port, if_true, State.amoPerform, hk, State.atomic, hplain.load, hplain.store, hz, hnew]
  exact ⟨_, hexec, due_atCycle .., readLe_writeNum hok .., fun y hy => readByte_writeNum_other hok _ hy, rfl⟩

/-! ### Setting out -/

theorem exec_amo {e : Nat × (Reg → Src → Src → BitVec 1 → BitVec 1 → BitVec 1 → Instr) × (Nat → Nat → Nat → Nat → Nat)} (he : e ∈ amoTable)
    (d : Reg) (a b : Src) (w acq rel : BitVec 1) (s : State) :
    exec (e.2.1 d a b w acq rel) s = onCur s (fun k p => s.amo k p e.1 d a b w acq rel) := by
  simp only [amoTable, List.mem_cons, List.not_mem_nil, or_false] at he
  obtain rfl | rfl | rfl | rfl | rfl | rfl | rfl | rfl | rfl | rfl | rfl := he <;> rfl

section
variable {s t : State} {k : Nat} {p : Proc} {d : Reg}

/-- A process stays at its instruction for the value of its destination. -/
theorem awaitAnswer_plain (hp : s.proc k = some p) (hport : p.portOf d = none) (honce : p.onceOn = false) (c : BitVec 16) :
    s.awaitAnswer k p d c = s.putProc k { p.produce d with
      st := .parked, wait := .access, blockedAt := s.cycle,
      hold := some { consume := c, dst := some d, issuedAt := s.cycle, arg := (p.nextTag d).toNat, old := some (p.cell d) } } := by
  rw [State.awaitAnswer, produce_plain hp hport honce, modProc_eq (State.putProc_proc_self ..), putProc_putProc]

/-- A register awaits the value of a load or atomic that has set out. -/
theorem produce_loads (hp : s.proc k = some p) (hport : p.portOf d = none) (honce : p.onceOn = false) (x : Reg × BitVec 2) :
    (s.produce k d).modProc k (fun q => { q with loads := q.loads ++ [x] }) =
      s.putProc k { p.produce d with loads := (p.produce d).loads ++ [x] } := by
  rw [produce_plain hp hport honce, modProc_eq (State.putProc_proc_self ..), putProc_putProc]

theorem book_rest (s : State) (core pa n : Nat) : { s.book core pa n with drovers := s.drovers } = s := bookAt_rest ..

end

theorem atomicsSetOut : Claims.AtomicsSetOut := by
  intro e he s t k p d a b w acq rel vals pa y fs n va ⟨hissues, hgives, htakes⟩ htag hport honce
  have hn : amoSize (w = 1) = n := by simp [amoSize, n]
  have hexec := (exec_amo he d a b w acq rel s).trans (onCur_next hissues _)
  rw [State.amo, issueFill_ok hgives htakes htag, hn] at hexec
  refine ⟨fun hmis => ?_, fun hal hrel hstores => ?_, fun hal hsb hamo hx ht hheld hfault => ?_⟩
  · rw [hexec, if_pos hmis]
    rfl
  · have hdrain : (rel = 1 && s.hasStores p) = true := by rw [hrel, hasStores_eq_true hstores]; rfl
    rw [hexec, if_neg (not_not.2 hal), if_pos hdrain]
  · have hdrain : ¬ (rel = 1 && s.hasStores p) = true := by rw [hasStores_eq_false hsb, Bool.and_false]; exact nofun
    have hrest : { t with cores := s.cores } = s := by rw [ht]; exact touched_rest y p.core
    have hp : t.proc k = some p := by rw [← hissues.2, ← hrest]; rfl
    have hagenda : t.agenda = s.agenda := (congrArg State.agenda hrest :)
    have hsb' : ∀ z ∈ (t.core p.core).sb, z.name ≠ p.name := by rw [ht, touched_sb]; exact hsb
    have hamo' : t.NoAtomics p.name := fun z ⟨c, hc⟩ => hamo z ⟨c, hagenda ▸ hc⟩
    have hcross : t.crosses p pa = false := (Bool.or_eq_false_iff.1 hheld).1
    have hbook := book_rest t p.core pa n
    have hdrovers : t.drovers = s.drovers := (congrArg State.drovers hrest :)
    have hall : { t.book p.core pa n with cores := s.cores, drovers := s.drovers } = s := by
      rw [← hdrovers]
      exact (congrArg (fun u : State => { u with cores := s.cores }) hbook :).trans hrest
    have hp' : (t.book p.core pa n).proc k = some p := (congrArg (fun u : State => u.proc k) hbook :).trans hp
    rw [if_neg (not_not.2 hal), if_neg hdrain, withPage_pa hx, ← ht] at hexec
    change t.accessFault p pa (vals.getD 0 0).toNat n true = none at hfault
    simp only [overlapping_eq_false hsb', hheld, hfault, hcross, pullAmos_of_noAtomics hamo', Bool.and_false, Bool.false_and, Bool.false_eq_true,
      if_false, produce_loads hp' hport honce, awaitAnswer_plain hp' hport honce] at hexec
    by_cases hacq : acq = 1
    · rw [if_pos hacq] at hexec
      refine ⟨_, _, _, hexec.trans (congrArg Host.Outcome.next (if_pos hacq).symm), State.putProc_proc_self .., fun _ => ⟨rfl, rfl, (congrArg Proc.pc (produce_rest p d) :), rfl⟩, rfl, rfl, rfl, rfl, rfl,
        due_of_dueIn (dueIn_after ..), rfl, ?_⟩
      exact (congrArg (fun u : State => { u with procs := s.procs, agenda := s.agenda }) hall :)
    · rw [if_neg hacq] at hexec
      refine ⟨_, _, _, hexec.trans (congrArg Host.Outcome.next (if_neg hacq).symm), State.putProc_proc_self .., fun h => absurd h hacq, rfl, rfl, rfl, rfl, rfl,
        due_of_dueIn (dueIn_after ..), rfl, ?_⟩
      exact (congrArg (fun u : State => { u with procs := s.procs, agenda := s.agenda }) hall :)

/-- Settles O20: an atomic sets out past every check, and at its location reads, computes and writes in one step. -/
theorem atomics : Obligations.Atomics := ⟨atomicsSetOut, atomicsAtHome⟩

end Sys2Proof.Machine
end

section
/-! PROOFS. Addresses of loads and stores (05 R118), and the window of a core (04 R71). -/

namespace Sys2Proof.Machine

/-! ### Effective addresses -/

theorem effective_toNat {n : Nat} (base : Word) (o : BitVec n) (size : Nat) : (effective base o size).toNat = addressOf base o.toInt size := by
  have heff : effective base o size = BitVec.ofInt 64 (base.toNat + o.toInt * size) := by
    rw [effective, sext_eq_ofInt, BitVec.ofInt_add, BitVec.ofInt_mul, BitVec.ofInt_natCast, BitVec.ofInt_natCast, BitVec.ofNat_toNat,
      BitVec.setWidth_eq]
  rw [heff, addressOf, BitVec.toNat_ofInt]
  rfl

theorem effective_eq {n : Nat} (base : Word) (o : BitVec n) (size : Nat) : effective base o size = BitVec.ofNat 64 (addressOf base o.toInt size) :=
  eq_ofNat_of_toNat (effective_toNat base o size)

theorem addressOf_lt (base : Word) (offset : Int) (size : Nat) : addressOf base offset size < 2 ^ 64 := by
  unfold addressOf
  omega

/-! ### The window of a core -/

section
variable {core off : Nat} (hc : coreIdOk core)
include hc

theorem windowBase_parts (ho : off < 0x200000) : windowBase core + off < 2 ^ 64 ∧ (windowBase core + off) / 2 ^ 50 = core / 2048 ∧
    (windowBase core + off) % 2 ^ 50 = 0x2000000000000 + core / 8 % 256 * 0x1000000 + core % 8 * 0x200000 + off := by
  simp only [coreIdOk, Bool.and_eq_true, decide_eq_true_eq] at hc
  obtain ⟨⟨hcores, hfold⟩, hcore⟩ := hc
  have hcores' : core < 33554432 := hcores
  unfold windowBase dieOf
  omega

theorem placeOf_window (ho : off < 0x200000) : placeOf (windowBase core + off) = .core core off := by
  obtain ⟨hlt, hdie, hmod⟩ := windowBase_parts hc ho
  simp only [coreIdOk, Bool.and_eq_true, decide_eq_true_eq] at hc
  obtain ⟨⟨-, hfold⟩, hcore⟩ := hc
  have hin : 0x2000000000000 ≤ (windowBase core + off) % 2 ^ 50 ∧ (windowBase core + off) % 2 ^ 50 < 0x2000000000000 + 192 * 0x1000000 := by
    rw [hmod]
    omega
  have hcore' : ((windowBase core + off) % 2 ^ 50 - 0x2000000000000) % 0x1000000 < 0xE00000 := by
    rw [hmod]
    omega
  simp only [placeOf, if_neg (Nat.not_le.2 hlt), if_neg (show ¬ (windowBase core + off) % 2 ^ 50 < 0x1800000000 by omega), if_pos hin, if_pos hcore',
    hdie, Place.core.injEq]
  rw [hmod]
  omega

theorem pkgOfAddr_window (ho : off < 0x200000) : pkgOfAddr (windowBase core + off) = pkgOf core := by
  obtain ⟨-, hdie, -⟩ := windowBase_parts hc ho
  unfold pkgOfAddr pkgOf
  omega

end

theorem aliasPa_own {off : Nat} (core : Nat) (ho : off < 0x200000) : aliasPa core (0xC0000000000000 + off) = some (windowBase core + off) := by
  rw [aliasPa, if_pos (by omega), Nat.add_sub_cancel_left]

/-- A package reaches itself over no link. -/
theorem reachable_self (s : State) (p : Nat) : s.reachable p p = true := by
  have hway (a : Nat) (h : a < 16) : ringWay a a = (0, true) := by
    rw [ringWay, Nat.add_sub_cancel_left]
    rfl
  have hcoord (pkg dim : Nat) : coord pkg dim < 16 := Nat.mod_lt _ (by decide)
  have h0 : p - coord p 0 + coord p 0 = p := by
    unfold coord
    omega
  have h1 : p - coord p 1 * 16 + coord p 1 * 16 = p := by
    unfold coord
    omega
  have hroute : routeOf p p = [] := by
    simp only [routeOf, h0, h1, hway _ (hcoord _ _), routeDim, List.append_nil]
  rw [State.reachable, State.routeLinks, hroute]
  rfl

end Sys2Proof.Machine
end

section
/-! PROOFS. Loads and their translation (05 R118, 04 R79, R81, R91). -/

namespace Sys2Proof.Machine

/-! ### The own scratchpad -/

theorem scratchSize_le (core : Nat) : scratchSize core ≤ 0x60000 := by
  unfold scratchSize
  split <;> omega

theorem rowOf_scratch {off : Nat} (h : off < 0x60000) : rowOf off = .scratch := if_pos h

section
variable {s : State} {p : Proc} {core off size : Nat}

theorem translate_own (va : Nat) (hva : va = 0xC0000000000000 + off) (ho : off < 0x200000) (needR needW : Bool) :
    s.translate p va needR needW = .pa (windowBase p.core + off) none := by
  have hpaged : ¬ isPaged va = true := by
    simp only [isPaged, decide_eq_true_eq]
    omega
  rw [State.translate, if_neg hpaged, hva, aliasPa_own p.core ho]

theorem held_own (hc : coreIdOk p.core) (ho : off < 0x60000) : s.held p (windowBase p.core + off) = false := by
  have hcross : s.crosses p (windowBase p.core + off) = false := by
    rw [State.crosses, pkgOfAddr_window hc (by omega), bne_self_eq_false, Bool.false_and, Bool.false_and]
  have hwin : windowChecked p.core p.level (windowBase p.core + off) = false := by
    rw [windowChecked, placeOf_window hc (by omega)]
    simp only [rowOf_scratch ho, Row.guarded, ne_eq, not_true_eq_false, decide_false, Bool.or_false, Bool.and_false]
  rw [State.held, hcross, hwin]
  rfl

theorem backed_scratch (hc : coreIdOk core) (hsize : 0 < size) (ho : off + size ≤ scratchSize core) (hpkg : pkgOf core ∈ s.packages)
    (hfence : (s.fold (foldOf core)).fenced = false) : s.backed (windowBase core + off) size = true := by
  have hle := scratchSize_le core
  have hend : windowBase core + off + size - 1 = windowBase core + (off + size - 1) := by omega
  have hrow (j : Nat) (hj : j < scratchSize core) : rowBacked core j = true := by
    rw [rowBacked, rowOf_scratch (by omega)]
    exact decide_eq_true hj
  rw [State.backed, pkgOfAddr_window hc (by omega), hend, placeOf_window hc (by omega), placeOf_window hc (by omega), List.contains_iff_mem.2 hpkg]
  simp only [hrow off (by omega), hrow (off + size - 1) (by omega), rowOf_scratch (show off < 0x60000 by omega),
    rowOf_scratch (show off + size - 1 < 0x60000 by omega), hfence, beq_self_eq_true, Bool.and_self, Bool.not_false]

theorem accessFault_scratch (hc : coreIdOk core) (hcore : p.core = core) (hsize : 0 < size) (ho : off + size ≤ scratchSize core)
    (hpkg : pkgOf core ∈ s.packages) (hfence : (s.fold (foldOf core)).fenced = false) (hpoison : s.poisoned (windowBase core + off) size = false)
    (va : Nat) (reads : Bool) : s.accessFault p (windowBase core + off) va size reads = none := by
  have hle := scratchSize_le core
  have hword : wordRow (windowBase core + off) = false := by
    rw [wordRow, placeOf_window hc (by omega)]
    simp only [rowOf_scratch (show off < 0x60000 by omega)]
    rfl
  have hreach : s.reachable (pkgOf p.core) (pkgOf core) = true := by rw [hcore]; exact reachable_self s _
  rw [State.accessFault, pkgOfAddr_window hc (by omega), List.contains_iff_mem.2 hpkg, hreach, backed_scratch hc hsize ho hpkg hfence, hword, hpoison]
  simp only [Bool.not_true, Bool.and_false, Bool.false_and, Bool.false_eq_true, if_false]

/-- Outside the extension areas the scratchpad shows its bytes (06 R142). -/
theorem loadPhys_scratch (hc : coreIdOk core) (hsize : 0 < size) (ho : off + size ≤ scratchSize core - 2048 * (s.core core).extSize) :
    s.loadPhys (windowBase core + off) size = readLe s.mem (windowBase core + off) size := by
  have hle := scratchSize_le core
  have hext : s.extAt core off = none := if_neg (by omega)
  have hview : s.physViewed (windowBase core + off) = false := by
    rw [State.physViewed, placeOf_window hc (by omega)]
    simp only [State.viewed, rowOf_scratch (show off < 0x60000 by omega), hext, Option.isSome_none]
  rw [State.loadPhys, if_neg (by rw [hview]; exact nofun)]

/-- With no store of its process in the buffer or staged, a load takes memory's bytes. -/
theorem readThrough_settled (hsb : ∀ e ∈ (s.core p.core).sb, e.name ≠ p.name) (hb : tget s.bundles p.name = none) (va pa : Nat) :
    s.readThrough p va pa size = s.loadPhys pa size % 2 ^ (8 * size) := by
  have hforward (va pa : Nat) (b : Byte) : s.forwarded p va pa b = b := by
    have hfold (l : List SbEntry) (hl : ∀ e ∈ l, e.name ≠ p.name) (b : Byte) :
        l.foldl (fun x e => if e.name != p.name || e.done then x
          else if e.va ≤ va && decide (va < e.va + e.size) then storeByte e (va - e.va)
          else
            match s.sbPa p.core e with
            | some a => if a ≤ pa && decide (pa < a + e.size) then storeByte e (pa - a) else x
            | none => x) b = b := by
      induction l with
      | nil => rfl
      | cons e l ih =>
        have he : (e.name != p.name || e.done) = true := by simp [hl e (List.mem_cons_self ..)]
        rw [List.foldl_cons, if_pos he]
        exact ih fun e he => hl e (List.mem_cons_of_mem _ he)
    exact hfold _ hsb b
  have hstaged (pa : Nat) (b : Byte) : s.stagedByte p.name pa b = b := by rw [State.stagedByte, hb]
  have hid (l : List Byte) : l.mapIdx (fun _ b => b) = l := List.mapIdx_eq_iff.2 fun i => by simp
  simp only [State.readThrough, hforward, hstaged, hid, leNat_leBytes]

end

/-! ### The instruction -/

theorem sizeOf_eq (z : BitVec 3) : sizeOf z = accessBytes z := rfl

theorem accessBytes_pos (z : BitVec 3) : 0 < accessBytes z := Nat.two_pow_pos _

/-- A load extends the bytes that it takes as its size code says. -/
theorem extend_eq_loadedValue (z : BitVec 3) (bs : List Byte) (v : Nat) (hlen : bs.length = accessBytes z)
    (hv : v % 2 ^ (8 * accessBytes z) = leNat bs) : extend (accessBytes z) (signedLoad z) v = loadedValue z bs := by
  simp only [extend, loadedValue, signedLoad, hlen, hv, Bool.and_eq_true, decide_eq_true_eq]

section
variable {s : State} {k : Nat} {p : Proc} {d : Reg} {a : Src} {z : BitVec 3} {o : BitVec 13} {x : Word}
  (h : s.Runs k p [srcField a 0] [x] [d]) (htag : d ≠ 0 → (p.cell d).out < 3)
include h htag

theorem exec_ld_misaligned (hal : addressOf x o.toInt (accessBytes z) % accessBytes z ≠ 0) :
    exec (.ld d a z o) s = .next (s.raise k causeMisalign (BitVec.ofNat 64 (addressOf x o.toInt (accessBytes z)))) := by
  obtain ⟨hissues, hgives, htakes⟩ := h
  refine (onCur_next hissues _).trans (congrArg _ ((issueFill_ok hgives htakes htag _).trans ?_))
  rw [← effective_eq]
  exact if_pos (by rwa [← effective_toNat] at hal)

theorem exec_ld_aligned (hal : addressOf x o.toInt (accessBytes z) % accessBytes z = 0) :
    exec (.ld d a z o) s = .next (s.withPage k p (addressOf x o.toInt (accessBytes z)) true false (fun t pa =>
      t.loadAt k p d (consumeMask p [srcField a 0]) pa (addressOf x o.toInt (accessBytes z)) (accessBytes z) (signedLoad z))) := by
  obtain ⟨hissues, hgives, htakes⟩ := h
  refine (onCur_next hissues _).trans (congrArg _ ((issueFill_ok hgives htakes htag _).trans ?_))
  rw [← effective_toNat]
  exact if_neg (not_not.2 (by rwa [← effective_toNat] at hal))

end

/-! ### A load that needs no window and has no fault -/

section
variable {s : State} {k : Nat} {p : Proc} {d : Reg} {c : BitVec 16} {pa va size : Nat} {sg : Bool} (hheld : s.held p pa = false)
  (hamo : s.NoAtomics p.name) (hfault : s.accessFault p pa va size true = none)
include hheld hamo hfault

theorem loadAt_own {off : Nat} (hplace : placeOf pa = .core p.core off) (hrow : rowOf off = .scratch) :
    s.loadAt k p d c pa va size sg = s.retire k c [(d, extend size sg (s.readThrough p va pa size))] := by
  simp only [State.loadAt, hheld, beforeRead_of_noAtomics hamo, hfault, hplace, hrow, Bool.false_eq_true, if_false, and_self, if_true]

theorem loadAt_other (hplace : ∀ off, placeOf pa = .core p.core off → rowOf off ≠ .scratch) :
    s.loadAt k p d c pa va size sg =
      if speWindow p.core pa && !s.overlapping p va pa size then
        (((s.produce k d).modProc k (fun q => { q with loads := q.loads ++ [(d, p.nextTag d)] })).after (s.wayTo p.core pa)
          (.remoteAccessArrival (accessOf p (.load d (p.nextTag d) size sg) pa va size 0))).retire k c []
      else ((s.book p.core pa size).sendLoad k p d (extend size sg (s.readThrough p va pa size)) (s.accessTime p.core pa size)).retire k c [] := by
  simp only [State.loadAt, hheld, beforeRead_of_noAtomics hamo, hfault, Bool.false_eq_true, if_false]
  split
  · next cr off hcore =>
    have hne : ¬ (cr = p.core ∧ rowOf off = .scratch) := fun ⟨hcr, hrow⟩ => hplace off (hcr ▸ hcore) hrow
    have hbook : s.book p.core pa size = s := by simp only [State.book, State.bookAfter, State.bookAt, hcore]
    have hspe : speWindow p.core pa = false := by simp only [speWindow, hcore]
    rw [if_neg hne, hspe, Bool.false_and, if_neg nofun, hbook]
  · rfl

end

theorem scratchpadLoadRetires : Claims.ScratchpadLoadRetires := by
  intro s k p d a z o x off hruns htag haddr hal hoff hc hpkg hfence hpoison hsb hb hamo
  have hpos := accessBytes_pos z
  have hle := scratchSize_le p.core
  have hoff' : off < 0x60000 := by omega
  have hal' : addressOf x o.toInt (accessBytes z) % accessBytes z = 0 := by
    have hdvd : accessBytes z ∣ 0xC0000000000000 :=
      (Nat.pow_dvd_pow 2 (by omega : z.toNat % 4 ≤ 3)).trans (by decide)
    rw [haddr]
    exact Nat.mod_eq_zero_of_dvd (hdvd.add (Nat.dvd_of_mod_eq_zero hal))
  have hvalue : extend (accessBytes z) (signedLoad z) (s.readThrough p (addressOf x o.toInt (accessBytes z)) (windowBase p.core + off) (accessBytes z)) =
      loadedValue z (readBytes s.mem (windowBase p.core + off) (accessBytes z)) := by
    refine extend_eq_loadedValue z _ _ (length_readBytes ..) ?_
    rw [readThrough_settled hsb hb, Nat.mod_mod, loadPhys_scratch hc hpos hoff]
    exact Nat.mod_eq_of_lt (readLe_lt ..)
  rw [exec_ld_aligned hruns htag hal', withPage_pa (translate_own _ haddr (by omega) _ _)]
  refine congrArg Host.Outcome.next ?_
  change s.loadAt k p d (consumeMask p [srcField a 0]) (windowBase p.core + off) _ (accessBytes z) (signedLoad z) = _
  rw [loadAt_own (held_own hc hoff') hamo (accessFault_scratch hc rfl hpos (by omega) hpkg hfence hpoison _ _) (placeOf_window hc (by omega))
    (rowOf_scratch hoff'), hvalue]

theorem otherLoadsRetire : Claims.OtherLoadsRetire := by
  intro s t k p d a z o x pa y va hruns htag hal hx ht hheld hfault hplace hport honce hamo
  have hrest : { t with cores := s.cores } = s := by rw [ht]; exact touched_rest y p.core
  have hp : t.proc k = some p := by rw [← hruns.1.2, ← hrest]; rfl
  have hagenda : t.agenda = s.agenda := (congrArg State.agenda hrest :)
  have hdrovers : t.drovers = s.drovers := (congrArg State.drovers hrest :)
  have hamo' : t.NoAtomics p.name := fun z ⟨c, hc⟩ => hamo z ⟨c, hagenda ▸ hc⟩
  have hvalue := extend_eq_loadedValue z (leBytes (accessBytes z) (t.readThrough p va pa (accessBytes z)))
    (t.readThrough p va pa (accessBytes z)) (length_leBytes ..) (leNat_leBytes ..).symm
  have hexec : exec (.ld d a z o) s = .next (t.loadAt k p d (consumeMask p [srcField a 0]) pa va (accessBytes z) (signedLoad z)) := by
    rw [exec_ld_aligned hruns htag hal, withPage_pa hx, ht]
  rw [loadAt_other hheld hamo' hfault hplace, hvalue] at hexec
  have hloads : (p.produce d).loads = p.loads := (congrArg Proc.loads (produce_rest p d) :)
  by_cases hspe : (speWindow p.core pa && !t.overlapping p va pa (accessBytes z)) = true
  · rw [if_pos hspe, produce_loads hp hport honce, hloads] at hexec
    refine ⟨_, _, hexec, State.putProc_proc_self .., rfl, rfl, ?_, ?_⟩
    · rw [if_pos hspe]
      exact ⟨_, dueIn_after .., rfl, rfl, rfl, rfl⟩
    · exact (congrArg (fun u : State => { u with procs := s.procs, agenda := s.agenda, drovers := s.drovers }) hrest :)
  · have hbook := book_rest t p.core pa (accessBytes z)
    have hp' : (t.book p.core pa (accessBytes z)).proc k = some p := (congrArg (fun u : State => u.proc k) hbook :).trans hp
    have hall : { t.book p.core pa (accessBytes z) with cores := s.cores, drovers := s.drovers } = s := by
      rw [← hdrovers]
      exact (congrArg (fun u : State => { u with cores := s.cores }) hbook :).trans hrest
    have hcycle : (t.book p.core pa (accessBytes z)).cycle = t.cycle := (congrArg State.cycle hbook :)
    rw [if_neg hspe, State.sendLoad, produce_loads hp' hport honce, hloads] at hexec
    refine ⟨_, _, hexec, State.putProc_proc_self .., rfl, rfl, ?_, ?_⟩
    · rw [if_neg hspe]
      exact dueIn_after ..
    · exact (congrArg (fun u : State => { u with procs := s.procs, agenda := s.agenda }) hall :)

theorem loadsTranslate : Claims.LoadsTranslate := by
  intro s k p d a z o x hruns htag
  refine ⟨exec_ld_misaligned hruns htag, fun hal => ⟨fun hfault => ?_, fun hmiss => ?_⟩⟩
  · rw [exec_ld_aligned hruns htag hal, State.withPage, hfault]
    rfl
  · rw [exec_ld_aligned hruns htag hal, State.withPage, hmiss]
    obtain ⟨w, hva, hcore, hstore, hlookup⟩ : ∃ w : Xlat, w.va = addressOf x o.toInt (accessBytes z) ∧ w.core = p.core ∧ w.store = none ∧
        s.lookup k p (addressOf x o.toInt (accessBytes z)) true false = (s.after 4 (.translatorLookupDone w)).park k .xlat :=
      ⟨_, rfl, rfl, rfl, rfl⟩
    have hp : (s.after 4 (.translatorLookupDone w)).proc k = some p := hruns.1.2
    have hdue : ((s.after 4 (.translatorLookupDone w)).park k .xlat).DueIn 4 (.translatorLookupDone w) := by
      have hrest := park_rest hp .xlat
      rw [State.DueIn, (congrArg State.agenda hrest :), (congrArg State.cycle hrest :)]
      exact dueIn_after ..
    exact ⟨_, _, congrArg Host.Outcome.next hlookup, (park_proc hp _ k).trans (if_pos rfl), rfl, rfl, rfl, rfl, w, hva, hcore, hstore, hdue⟩

/-- Settles O18: what a load makes of its address, and of its translation. -/
theorem loadsAndTranslation : Obligations.LoadsAndTranslation := ⟨scratchpadLoadRetires, otherLoadsRetire, loadsTranslate⟩

end Sys2Proof.Machine
end

section
/-! PROOFS. A store from its post to memory (05 R119, 04 R79, R83, R408). -/

namespace Sys2Proof.Machine

/-! ### Posting -/

section
variable {s : State} {k : Nat} {p : Proc}

/-- The entry that a store of a process makes in its core's buffer. -/
def State.entryOf (s : State) (p : Proc) (va size : Nat) (data : Word) : SbEntry :=
  { id := (s.core p.core).sbNext, name := p.name, key := p.core * 256 + p.idx, va := va, size := size, data := data, pc := p.pc,
    level := p.level, gid := p.gid, asid := s.asidOf p, root := s.rootOf p }

theorem postStore_sb (s : State) (p : Proc) (va size : Nat) (data : Word) :
    ((s.postStore p va size data 0).core p.core).sb = (s.core p.core).sb ++ [s.entryOf p va size data] :=
  congrArg CoreS.sb (tgetD_tput_self ..)

theorem postStore_tlb (s : State) (p : Proc) (va size : Nat) (data : Word) :
    ((s.postStore p va size data 0).core p.core).tlb = (s.core p.core).tlb :=
  (congrArg CoreS.tlb (tgetD_tput_self s.cores p.core _ {}) :)

theorem postStore_due (s : State) (p : Proc) (va size : Nat) (data : Word) :
    (s.postStore p va size data 0).Due (.storeTranslate p.core (s.entryOf p va size data).id) :=
  due_of_dueIn (dueIn_after ..)

theorem due_postStore {x : Ev} (h : s.Due x) (p : Proc) (va size : Nat) (data : Word) : (s.postStore p va size data 0).Due x :=
  (due_after_iff ..).2 (.inr h)

end

theorem storePosts : Claims.StorePosts := by
  intro s k p d a z o x v ⟨hissues, hgives, htakes⟩
  have hdata : (BitVec.ofNat 64 (v.toNat % 2 ^ (8 * accessBytes z))).toNat = v.toNat % 2 ^ (8 * accessBytes z) := by
    rw [BitVec.toNat_ofNat]
    exact Nat.mod_eq_of_lt ((Nat.mod_le _ _).trans_lt v.isLt)
  refine ⟨fun hmis => (onCur_next hissues _).trans (congrArg _ ((issue_ok hgives htakes _).trans ?_)), fun hal hroom => ?_⟩
  · rw [← effective_eq]
    exact if_pos (by rwa [← effective_toNat] at hmis)
  · refine ⟨_, _, (onCur_next hissues _).trans (congrArg _ ((issue_ok hgives htakes _).trans
        ((if_neg (not_not.2 (by rwa [← effective_toNat] at hal))).trans (if_neg hroom)))),
      postStore_sb .., rfl, effective_toNat .., rfl, hdata, rfl, rfl, postStore_due .., rfl, fun _ => rfl⟩

/-! ### The path to the target -/

/-- The store of a number after all stores of its number have changed. -/
theorem find?_map_id (l : List SbEntry) (id : Nat) (f : SbEntry → SbEntry) (hf : ∀ e, (f e).id = e.id) :
    (l.map (fun e => if e.id = id then f e else e)).find? (fun e => e.id == id) = (l.find? (fun e => e.id == id)).map f := by
  induction l with
  | nil => rfl
  | cons e l ih =>
    by_cases he : e.id = id
    · rw [List.map_cons, if_pos he, List.find?_cons_of_pos (by simp [hf, he]), List.find?_cons_of_pos (by simp [he])]
      rfl
    · rw [List.map_cons, if_neg he, List.find?_cons_of_neg (by simp [he]), List.find?_cons_of_neg (by simp [he]), ih]

section
variable {s : State}

theorem sbEntry_modSb (core id : Nat) (f : SbEntry → SbEntry) (hf : ∀ e, (f e).id = e.id) :
    (s.modSb core id f).sbEntry core id = (s.sbEntry core id).map f := by
  rw [State.sbEntry, State.modSb, core_modCore, if_pos rfl]
  exact find?_map_id _ _ _ hf

theorem stage_of_no_bundle {e : SbEntry} (h : tget s.bundles e.name = none) (pa : Nat) : s.stage e pa = none := by
  rw [State.stage, h]

/-- A store for its own core's window sets out for it (04 R83). -/
theorem sendStore_window {core off : Nat} {e : SbEntry} (hc : coreIdOk core) (ho : off < 0x200000) (hb : tget s.bundles e.name = none) :
    s.sendStore core e (windowBase core + off) =
      (s.modSb core e.id (fun x => { x with pa := some (windowBase core + off) })).after (s.wayTo core (windowBase core + off))
        (.remoteAccessArrival { kind := .store e.id, addr := windowBase core + off, va := e.va, size := e.size, data := e.data, core := core,
                                name := e.name, gid := e.gid, level := e.level }) := by
  have hpkg := pkgOfAddr_window hc ho
  have hplace := placeOf_window hc ho
  generalize windowBase core + off = pa at hpkg hplace ⊢
  simp only [State.sendStore, hpkg, reachable_self, stage_of_no_bundle hb, hplace, ne_eq, not_true_eq_false, decide_false, Bool.not_true,
    Bool.false_and, Bool.false_eq_true, Option.isSome_none, if_false]

theorem wayTo_scratch {core off : Nat} (hc : coreIdOk core) (ho : off < 0x60000) : s.wayTo core (windowBase core + off) = 0 := by
  rw [State.wayTo, placeOf_window hc (by omega)]
  simp only [rowOf_scratch ho, if_true, beq_self_eq_true]

/-! ### The acknowledgement -/

theorem toPen_sb (p : Proc) (j : Nat) : ((s.toPen p).core j).sb = (s.core j).sb := by
  rw [State.toPen, core_modCore]
  split
  · next hj => rw [hj]
  · rfl

/-- A process that goes on enters a pen at most. -/
theorem ready_cores (s : State) (k : Nat) : (s.ready k).cores = s.cores ∨ ∃ t p, s.ready k = State.toPen t p ∧ t.cores = s.cores := by
  cases hp : s.proc k with
  | none => exact .inl (by rw [State.ready, hp])
  | some p =>
    have hstay (t u : State) (c : Prop) [Decidable c] (ht : t.cores = s.cores) (hu : u.cores = s.cores) : (if c then t else u).cores = s.cores := by
      split
      · exact ht
      · exact hu
    simp only [State.ready, hp]
    split
    · exact .inl rfl
    · split
      · exact .inl rfl
      · exact .inr ⟨_, _, rfl, rfl⟩
    · split
      · exact .inl rfl
      · exact .inr ⟨_, _, rfl, rfl⟩
    · exact .inl (by apply hstay <;> rfl)
    · exact .inl (by apply hstay <;> rfl)
    · exact .inl rfl

theorem ready_sb (s : State) (k j : Nat) : ((s.ready k).core j).sb = (s.core j).sb := by
  obtain h | ⟨t, p, h, ht⟩ := ready_cores s k
  · rw [State.core, h]
    rfl
  · rw [h, toPen_sb, State.core, ht]
    rfl

/-- After a store its process may go on, or exit. -/
theorem storesChanged_cases (s : State) (name : Nat) :
    s.storesChanged name = s ∨ (∃ k, s.storesChanged name = s.ready k) ∨ ∃ e, s.storesChanged name = s.after 0 e := by
  unfold State.storesChanged
  cases hn : s.named name with
  | none => exact .inl (modNamed_of_none hn _)
  | some x =>
    rw [modNamed_of_named hn]
    split
    · exact .inr (.inl ⟨_, rfl⟩)
    · split
      · exact .inl rfl
      · exact .inr (.inr ⟨_, rfl⟩)
    · exact .inl rfl

theorem storesChanged_mem (s : State) (name : Nat) : (s.storesChanged name).mem = s.mem := by
  obtain h | ⟨k, h⟩ | ⟨e, h⟩ := storesChanged_cases s name
  · rw [h]
  · rw [h]
    exact (congrArg State.mem (ready_rest s k) :)
  · rw [h]
    rfl

theorem storesChanged_sb (s : State) (name j : Nat) : ((s.storesChanged name).core j).sb = (s.core j).sb := by
  obtain h | ⟨k, h⟩ | ⟨e, h⟩ := storesChanged_cases s name
  · rw [h]
  · rw [h, ready_sb]
  · rw [h]
    rfl

theorem mem_dropSb {core id : Nat} {y : SbEntry} (h : y ∈ ((s.dropSb core id).core core).sb) : y.id ≠ id := by
  rw [State.dropSb, core_modCore, if_pos rfl] at h
  simpa using (List.mem_filter.1 h).2

/-- A store of its own core's scratchpad, outside the extension areas, writes its bytes. -/
theorem storePhys_scratch {core off size : Nat} (hc : coreIdOk core) (hsize : 0 < size)
    (ho : off + size ≤ scratchSize core - 2048 * (s.core core).extSize) (c name v : Nat) :
    s.storePhys c name (windowBase core + off) size v = s.writeNum (windowBase core + off) size v := by
  have hle := scratchSize_le core
  have hext : s.extAt core (off / 8 * 8) = none := if_neg (by omega)
  have hview : s.viewWord core (off / 8 * 8) = none := by
    rw [State.viewWord, rowOf_scratch (by omega)]
    simp only [hext]
  rw [State.storePhys, placeOf_window hc (by omega)]
  simp only [hview, Option.isSome_none, Bool.false_eq_true, if_false]

/-- A store that no older one of its process and no atomic precedes is performed by itself. -/
theorem performStore_oldest {core : Nat} {e : SbEntry} (hdone : e.done = false) (hamo : s.NoAtomics e.name)
    (hold : ∀ x ∈ (s.core core).sb, x.name = e.name → e.id ≤ x.id) (pa : Nat) : s.performStore core e pa = s.performBytes core e pa := by
  have hnone : (s.core core).sb.filter (fun x => x.name == e.name && !x.done && x.stuck.isNone && decide (x.id < e.id)) = [] := by
    refine List.filter_eq_nil_iff.2 fun x hx => ?_
    by_cases hname : x.name = e.name
    · simp [Nat.not_lt.2 (hold x hx hname)]
    · simp [hname]
  simp only [State.performStore, hdone, hnone, pullAmos_of_noAtomics hamo, List.any_nil, Bool.false_eq_true, if_false]

/-- The acknowledgement of a store outside a vector store. -/
theorem storeAck_eq {core id pa : Nat} {e : SbEntry} (he : s.sbEntry core id = some e) (hpa : e.pa = some pa) (hb : e.batch = 0) :
    storeAck core id s = (((s.performStore core e pa).dropSb core id).settle e.name).storesChanged e.name := by
  have hbatch (t : State) : t.settleBatch core 0 = t := rfl
  simp only [storeAck, he, hpa, hb, hbatch]

end

theorem storeBytes : Claims.StoreBytes := by
  intro s core id e he hid hdone hok hc
  refine ⟨fun hva => ?_, fun off hva hoff hsize hpkg hb => ?_, fun off hpa hoff hsize hsize' hbatch hb hamo hold => ?_⟩
  · have hpaged : isPaged e.va = true := decide_eq_true hva
    obtain ⟨w, hw, hstore, htranslate⟩ : ∃ w : Xlat, w.va = e.va ∧ w.store = some id ∧
        storeTranslate core id s = s.after 4 (.translatorLookupDone w) := by
      simp only [storeTranslate, he, hpaged, if_true]
      exact ⟨_, rfl, rfl, rfl⟩
    exact ⟨w, _, congrArg Host.Outcome.next htranslate, hw, hstore, dueIn_after .., rfl⟩
  · have hle := scratchSize_le core
    have hpaged : ¬ isPaged e.va = true := by
      simp only [isPaged, decide_eq_true_eq]
      omega
    have htranslate : storeTranslate core id s = s.sendStore core e (windowBase core + off) := by
      have halias := aliasPa_own core (show off < 0x200000 by omega)
      rw [← hva] at halias
      simp only [storeTranslate, he, hpaged, Bool.false_eq_true, if_false, halias]
    rw [sendStore_window hc (by omega) hb, wayTo_scratch hc (by omega)] at htranslate
    refine ⟨_, _, congrArg Host.Outcome.next htranslate, rfl, rfl, congrArg AccKind.store hid, dueIn_after .., rfl, ?_⟩
    have hentry := sbEntry_modSb (s := s) core e.id (fun x => { x with pa := some (windowBase core + off) }) fun _ => rfl
    rw [hid, he] at hentry
    rw [hid]
    exact (congrArg (fun x : Option SbEntry => x.bind SbEntry.pa) hentry :)
  · have hwrite : s.performBytes core e (windowBase core + off) =
        (s.writeNum (windowBase core + off) e.size e.data.toNat).modSb core e.id (fun x => { x with done := true }) := by
      rw [State.performBytes, stage_of_no_bundle hb, Option.getD_none, storePhys_scratch hc hsize hoff]
    have hack := storeAck_eq he hpa hbatch
    rw [performStore_oldest hdone hamo (fun x hx hname => hid.trans_le (hold x hx hname)), hwrite] at hack
    refine ⟨_, congrArg Host.Outcome.next hack, fun b => ?_, fun y hy => ?_⟩
    · rw [storesChanged_mem]
      refine (congrArg (fun m => readByte m b) (congrArg State.mem (settle_rest _ e.name) :)).trans ?_
      exact readByte_writeNum hok _ _ _ b
    · rw [storesChanged_sb] at hy
      have hcores := (congrArg (fun t : State => (t.core core).sb) (settle_rest ((s.performBytes core e (windowBase core + off)).dropSb core id) e.name) :)
      rw [hwrite] at hcores
      exact mem_dropSb (hcores ▸ hy)

end Sys2Proof.Machine
end

section
/-! PROOFS. LDM and STM move consecutive words (05 R120, R121). -/

namespace Sys2Proof.Machine

theorem length_regRange (f l : Nat) : (regRange f l).length = l + 1 - f := by
  rw [regRange, List.length_map, List.length_range]

theorem mem_regRange {f l n : Nat} : n ∈ regRange f l ↔ f ≤ n ∧ n ≤ l := by
  simp only [regRange, List.mem_map, List.mem_range]
  constructor
  · rintro ⟨i, hi, rfl⟩
    omega
  · intro h
    exact ⟨n - f, by omega, by omega⟩

/-! ### Issue -/

/-- An LDM or STM that finds its sources, and that nothing stops, runs from its first register on. -/
theorem moveMany_ok {s : State} {k : Nat} {p : Proc} {a : Src} {o : BitVec 11} {all fs : List Field} {dsts : List Reg} {x : Word} {vs : List Word}
    {run : Nat → List Word → State × Bool} {t : State} (hg : s.Gives p (srcField a 0 :: fs) (x :: vs)) (ht : s.Takes p dsts) (hhold : p.hold = none)
    (hal : addressOf x o.toInt 8 % 8 = 0) (hrun : run (addressOf x o.toInt 8) vs = (t, true)) :
    s.moveMany k p a o all fs dsts none run =
      (t.modProc k (fun q => { q with restart := 0, hold := none })).retire k (consumeMask p (srcField a 0 :: all)) [] := by
  rw [← effective_toNat] at hal hrun
  simp only [State.moveMany, hhold, Option.bind_none, Option.isSome_none, Bool.false_eq_true, if_false, issue_ok hg ht, Option.getD_none,
    List.getD_cons_zero, List.drop_one, List.tail_cons, hal, ne_eq, not_true_eq_false, hrun, if_true]

/-! ### LDM -/

/-- A process with registers loaded from consecutive words of memory, the first at an address. -/
def Proc.loadRegs (p : Proc) (m : List Host.Cell) (base f : Nat) (ns : List Nat) : Proc :=
  (ns.map (fun n => (BitVec.ofNat 4 n, BitVec.ofNat 64 (readLe m (base + 8 * (n - f)) 8)))).foldl (fun q w => q.setReg w.1 w.2) p

/-- What a load of a word of the own scratchpad needs of a state and a process (04 R75 to R79). -/
structure State.LoadsOwn (s : State) (p : Proc) (off n : Nat) : Prop where
  core : coreIdOk p.core
  inside : off + n ≤ scratchSize p.core - 2048 * (s.core p.core).extSize
  package : pkgOf p.core ∈ s.packages
  fold : (s.fold (foldOf p.core)).fenced = false
  poison : s.poison = []
  stores : ∀ e ∈ (s.core p.core).sb, e.name ≠ p.name
  bundle : tget s.bundles p.name = none
  atomics : s.NoAtomics p.name
  ports : p.Unbound

section
variable {s : State} {k : Nat} {p : Proc}

/-- One word of an LDM from the own scratchpad. -/
theorem loadMany_cons {ea f i n off : Nat} {ns : List Nat} (h : s.LoadsOwn p off 8) (hp : s.proc k = some p)
    (hva : ea + (n - f) * 8 = 0xC0000000000000 + off) :
    s.loadMany k ea f i (n :: ns) =
      (s.putProc k (p.setReg (BitVec.ofNat 4 n) (BitVec.ofNat 64 (readLe s.mem (windowBase p.core + off) 8)))).loadMany k ea f (i + 1) ns := by
  obtain ⟨hc, hin, hpkg, hfold, hpoison, hsb, hb, hamo, hports⟩ := h
  have hle := scratchSize_le p.core
  have hplace : placeOf (windowBase p.core + off) = .core p.core off := placeOf_window hc (by omega)
  have hrow : rowOf off = .scratch := rowOf_scratch (by omega)
  have hpass : s.passes p.core p.gid p.level (windowBase p.core + off) 8 true false = true := by
    have hwin := held_own (s := s) (p := p) hc (show off < 0x60000 by omega)
    rw [State.held, pkgOfAddr_window hc (by omega)] at hwin
    simp only [decide_true, Bool.and_true, Bool.or_eq_false_iff] at hwin
    rw [State.passes, hwin.2]
    rfl
  have hfault (va : Nat) : s.accessFault p (windowBase p.core + off) va 8 true = none :=
    accessFault_scratch hc rfl (by omega) (by omega) hpkg hfold (by rw [State.poisoned, hpoison]; rfl) _ _
  have hvalue (va : Nat) : extend 8 false (s.readThrough p va (windowBase p.core + off) 8) =
      BitVec.ofNat 64 (readLe s.mem (windowBase p.core + off) 8) := by
    have hlt := readLe_lt s.mem (windowBase p.core + off) 8
    rw [readThrough_settled hsb hb, loadPhys_scratch hc (by omega) hin, extend, Nat.mod_mod, Nat.mod_eq_of_lt hlt]
    rfl
  have hport : p.portOf (BitVec.ofNat 4 n) = none := portOf_none hports _
  have htrans := translate_own (s := s) (p := p) _ hva (by omega) true false
  generalize windowBase p.core + off = pa at hplace hpass hfault hvalue htrans ⊢
  rw [State.loadMany]
  simp only [hp, htrans, hpass, beforeRead_of_noAtomics hamo, hfault, hplace, hrow, hvalue, hport, Bool.not_true, Bool.false_eq_true, if_false,
    decide_true, beq_self_eq_true, Bool.and_self, if_true, Option.isSome_none, modProc_eq hp]

/-- The words of an LDM from the own scratchpad. -/
theorem loadMany_own {ea f off : Nat} (hea : ea = 0xC0000000000000 + off) (ns : List Nat) (i : Nat)
    (h : ∀ n ∈ ns, f ≤ n ∧ s.LoadsOwn p (off + 8 * (n - f)) 8) (hp : s.proc k = some p) :
    ∃ t, s.loadMany k ea f i ns = (t, true) ∧ t.proc k = some (p.loadRegs s.mem (windowBase p.core + off) f ns) ∧ { t with procs := s.procs } = s := by
  induction ns generalizing s p i with
  | nil => exact ⟨s, rfl, hp, rfl⟩
  | cons n ns ih =>
    obtain ⟨hn, hload⟩ := h n (List.mem_cons_self ..)
    have hrest := setReg_rest p (BitVec.ofNat 4 n) (BitVec.ofNat 64 (readLe s.mem (windowBase p.core + (off + 8 * (n - f))) 8))
    rw [loadMany_cons hload hp (by omega)]
    generalize hq : p.setReg (BitVec.ofNat 4 n) (BitVec.ofNat 64 (readLe s.mem (windowBase p.core + (off + 8 * (n - f))) 8)) = q at hrest ⊢
    have hcore : q.core = p.core := (congrArg Proc.core hrest :)
    have hname : q.name = p.name := (congrArg Proc.name hrest :)
    have hports : q.ports = p.ports := (congrArg Proc.ports hrest :)
    have hnext : ∀ m ∈ ns, f ≤ m ∧ (s.putProc k q).LoadsOwn q (off + 8 * (m - f)) 8 := by
      intro m hm
      obtain ⟨hm, hc, hin, hpkg, hfold, hpoison, hsb, hb, hamo, hunbound⟩ := h m (List.mem_cons_of_mem _ hm)
      refine ⟨hm, ?_⟩
      rw [← hcore] at hc hin hpkg hfold hsb
      rw [← hname] at hsb hb hamo
      exact ⟨hc, hin, hpkg, hfold, hpoison, hsb, hb, hamo, fun x hx => hunbound x (hports ▸ hx)⟩
    obtain ⟨t, hrun, htp, htrest⟩ := ih (i + 1) hnext (State.putProc_proc_self ..)
    refine ⟨t, hrun, htp.trans (congrArg some ?_), (congrArg (fun u : State => { u with procs := s.procs }) htrest :)⟩
    rw [hcore, ← hq, ← Nat.add_assoc]
    rfl

end

/-- The last write of a register among writes to different ones. -/
theorem lookup_regs {β : Type} (g : Nat → β) (ns : List Nat) (hns : ∀ n ∈ ns, n < 16) (r : Reg) :
    (ns.map (fun n => (BitVec.ofNat 4 n, g n))).lookup r = if r.toNat ∈ ns then some (g r.toNat) else none := by
  induction ns with
  | nil => rfl
  | cons n ns ih =>
    have hn : (BitVec.ofNat 4 n).toNat = n := by
      rw [BitVec.toNat_ofNat]
      exact Nat.mod_eq_of_lt (hns n (List.mem_cons_self ..))
    rw [List.map_cons, List.lookup_cons, ih fun m hm => hns m (List.mem_cons_of_mem _ hm)]
    by_cases hr : r = BitVec.ofNat 4 n
    · simp [hr, hn]
    · have hne : r.toNat ≠ n := fun h => hr (BitVec.eq_of_toNat_eq (h.trans hn.symm))
      rw [beq_false_of_ne hr]
      simp [hne]

/-- The registers of a process after an LDM. -/
theorem loadRegs_regs (p : Proc) (m : List Host.Cell) (base : Nat) {f l : Nat} (hl : l < 16) :
    (∀ r : Reg, (p.loadRegs m base f (regRange f l)).reg r =
      if f ≤ r.toNat ∧ r.toNat ≤ l ∧ r ≠ 0 then BitVec.ofNat 64 (readLe m (base + 8 * (r.toNat - f)) 8) else p.reg r) ∧
    (∀ r : Reg, (p.loadRegs m base f (regRange f l)).full r = (decide (f ≤ r.toNat ∧ r.toNat ≤ l) || p.full r)) := by
  obtain ⟨hreg, hfull, -⟩ := foldl_setReg
    ((regRange f l).map (fun n => (BitVec.ofNat 4 n, BitVec.ofNat 64 (readLe m (base + 8 * (n - f)) 8)))) p
  have hbound : ∀ n ∈ regRange f l, n < 16 := fun n hn => (mem_regRange.1 hn).2.trans_lt hl
  have hlookup (r : Reg) := lookup_regs (fun n => BitVec.ofNat 64 (readLe m (base + 8 * (n - f)) 8)) (regRange f l) hbound r
  have hreverse (r : Reg) := lookup_regs (fun n => BitVec.ofNat 64 (readLe m (base + 8 * (n - f)) 8)) (regRange f l).reverse
    (fun n hn => hbound n (List.mem_reverse.1 hn)) r
  simp only [mem_regRange, List.mem_reverse] at hlookup hreverse
  refine ⟨fun r => ?_, fun r => ?_⟩
  · rw [Proc.loadRegs, hreg, ← List.map_reverse, hreverse]
    by_cases h0 : r = 0
    · rw [if_pos h0, if_neg (fun h => h.2.2 h0), h0]
      rfl
    · rw [if_neg h0]
      by_cases hr : f ≤ r.toNat ∧ r.toNat ≤ l
      · rw [if_pos hr, if_pos ⟨hr.1, hr.2, h0⟩]
        rfl
      · rw [if_neg hr, if_neg fun h => hr ⟨h.1, h.2.1⟩]
        rfl
  · rw [Proc.loadRegs, hfull, hlookup]
    by_cases hr : f ≤ r.toNat ∧ r.toNat ≤ l
    · simp [hr]
    · simp [hr]

theorem ldmMoves (s : State) (k : Nat) (p : Proc) (f l : Reg) (a : Src) (o : BitVec 11) (x : Word) (off : Nat)
    (hruns : s.Runs k p [srcField a 0] [x] ((List.range (l.toNat + 1 - f.toNat)).map (fun i => BitVec.ofNat 4 (f.toNat + i))))
    (hunbound : p.Unbound) (hrestart : p.restart = 0) (hhold : p.hold = none) (hamo : s.NoAtomics p.name) (hfl : f.toNat ≤ l.toNat)
    (hout : ∀ r, (p.cell r).out < 3) (haddr : addressOf x o.toInt 8 = 0xC0000000000000 + off) (hal : off % 8 = 0)
    (hin : off + 8 * (l.toNat + 1 - f.toNat) ≤ scratchSize p.core - 2048 * (s.core p.core).extSize) (hc : coreIdOk p.core)
    (hpkg : pkgOf p.core ∈ s.packages) (hfold : (s.fold (foldOf p.core)).fenced = false) (hpoison : s.poison = [])
    (hsb : ∀ e ∈ (s.core p.core).sb, e.name ≠ p.name) (hb : tget s.bundles p.name = none) :
    ∃ (u : State) (q : Proc), exec (.ldm f a l o) s = .next (u.retire k (consumeMask p [srcField a 0]) []) ∧ u.proc k = some q ∧
      (∀ r : Reg, q.reg r = if f.toNat ≤ r.toNat ∧ r.toNat ≤ l.toNat ∧ r ≠ 0 then
        BitVec.ofNat 64 (readLe s.mem (windowBase p.core + off + 8 * (r.toNat - f.toNat)) 8) else p.reg r) ∧
      (∀ r : Reg, q.full r = (decide (f.toNat ≤ r.toNat ∧ r.toNat ≤ l.toNat) || p.full r)) ∧
      { u with procs := s.procs } = s := by
  obtain ⟨hissues, hgives, htakes⟩ := hruns
  have htakes' : s.Takes p ((regRange f.toNat l.toNat).map (BitVec.ofNat 4)) := by
    rw [regRange, List.map_map]
    exact htakes
  have hwords : ∀ n ∈ regRange f.toNat l.toNat, f.toNat ≤ n ∧ s.LoadsOwn p (off + 8 * (n - f.toNat)) 8 := by
    intro n hn
    obtain ⟨hf, hl⟩ := mem_regRange.1 hn
    exact ⟨hf, hc, by omega, hpkg, hfold, hpoison, hsb, hb, hamo, hunbound⟩
  obtain ⟨t, hrun, htp, htrest⟩ := loadMany_own haddr _ 0 hwords hissues.2
  have hstop : (regRange f.toNat l.toNat).find? (fun n => decide (n ≠ 0) && decide (3 ≤ (p.cell (BitVec.ofNat 4 n)).out)) = none :=
    List.find?_eq_none.2 fun n _ => by simp [hout]
  have hexec : exec (.ldm f a l o) s = .next ((t.modProc k (fun q => { q with restart := 0, hold := none })).retire k
      (consumeMask p [srcField a 0]) []) := by
    refine (onCur_next hissues _).trans (congrArg _ ?_)
    simp only [Proc.manyFrom, hrestart, if_true, hstop, Option.map_none]
    exact moveMany_ok hgives htakes' hhold (by omega) hrun
  rw [modProc_eq htp] at hexec
  obtain ⟨hreg, hfull⟩ := loadRegs_regs p s.mem (windowBase p.core + off) (f := f.toNat) l.isLt
  exact ⟨_, _, hexec, State.putProc_proc_self .., hreg, hfull, (congrArg (fun u : State => { u with procs := s.procs }) htrest :)⟩

/-! ### STM -/

section
variable {s : State} {k : Nat} {p : Proc}

/-- An entry of a cache that is used is put before the others. -/
theorem mem_useEntry {e : Tlb} {n : Nat} {l : List Tlb} (he : e ∈ l) (hl : l.length ≤ n) :
    (∀ x, x ∈ useEntry e n l ↔ x ∈ l) ∧ (useEntry e n l).length ≤ n := by
  have hlt : (l.filter (fun x => x != e)).length < l.length :=
    List.length_filter_lt_length_iff_exists.2 ⟨e, he, by simp⟩
  have htake : useEntry e n l = e :: l.filter (fun x => x != e) := List.take_of_length_le (by rw [List.length_cons]; omega)
  rw [htake]
  refine ⟨fun x => ?_, by rw [List.length_cons]; omega⟩
  by_cases hx : x = e
  · simp [hx, he]
  · simp [hx]

/-- An address with its translation, by an alias or an entry of the micro cache. -/
theorem translate_of_translated {va : Nat} {needR needW : Bool} (h : s.Translated p va needR needW) :
    ∃ pa y, s.translate p va needR needW = .pa pa y ∧ ∀ e, y = some e → e ∈ (s.core p.core).tlb := by
  unfold State.Translated at h
  unfold State.translate
  by_cases hva : va < 2 ^ 55
  · rw [if_pos hva] at h
    rw [if_pos (show isPaged va = true from decide_eq_true hva)]
    obtain ⟨⟨e, he, hcovers⟩, hgrants⟩ := h
    obtain ⟨c, hc⟩ := Option.isSome_iff_exists.1 (List.find?_isSome (p := fun t => tlbCovers t (s.asidOf p) va).2 ⟨e, he, hcovers⟩)
    have hmem := List.mem_of_find?_eq_some hc
    have hcov := List.find?_some hc
    rw [hc]
    exact ⟨_, some c, if_pos (hgrants c hmem hcov), fun x hx => Option.some.inj hx ▸ hmem⟩
  · rw [if_neg hva] at h
    rw [if_neg (by simpa [isPaged] using hva)]
    obtain ⟨a, ha⟩ := Option.isSome_iff_exists.1 h
    rw [ha]
    exact ⟨a, none, rfl, nofun⟩

/-- The state in which a store of a word of an STM is posted, which has used its translation. -/
def State.posted (s : State) (p : Proc) (y : Option Tlb) (va : Nat) (v : Word) : State :=
  (y.elim s (fun e => s.modCore p.core (fun c => c.touch e))).postStore p va 8 v 0

theorem posted_sb (s : State) (p : Proc) (y : Option Tlb) (va : Nat) (v : Word) :
    ∃ e : SbEntry, ((s.posted p y va v).core p.core).sb = (s.core p.core).sb ++ [e] ∧ (e.name, e.va, e.size, e.data) = (p.name, va, 8, v) ∧
      (s.posted p y va v).Due (.storeTranslate p.core e.id) := by
  refine ⟨_, (postStore_sb ..).trans (congrArg (· ++ _) (touched_sb y p.core p.core)), rfl, postStore_due ..⟩

theorem posted_rest (s : State) (p : Proc) (y : Option Tlb) (va : Nat) (v : Word) :
    { s.posted p y va v with cores := s.cores, agenda := s.agenda } = s := by
  cases y <;> rfl

theorem due_posted {x : Ev} (h : s.Due x) (y : Option Tlb) (va : Nat) (v : Word) : (s.posted p y va v).Due x := by
  refine due_postStore ?_ ..
  cases y <;> exact h

/-- A word that is posted leaves the micro cache its translations. -/
theorem posted_tlb {y : Option Tlb} (hy : ∀ e, y = some e → e ∈ (s.core p.core).tlb) (hl : (s.core p.core).tlb.length ≤ 32) (va : Nat) (v : Word) :
    (∀ x, x ∈ ((s.posted p y va v).core p.core).tlb ↔ x ∈ (s.core p.core).tlb) ∧ ((s.posted p y va v).core p.core).tlb.length ≤ 32 := by
  rw [State.posted, postStore_tlb]
  cases y with
  | none => exact ⟨fun _ => Iff.rfl, hl⟩
  | some e =>
    change (∀ x, x ∈ ((s.modCore p.core (fun c => c.touch e)).core p.core).tlb ↔ _) ∧ _
    rw [Option.elim_some, core_modCore, if_pos rfl]
    exact mem_useEntry (hy e rfl) hl

theorem translated_posted {y : Option Tlb} (hy : ∀ e, y = some e → e ∈ (s.core p.core).tlb) (hl : (s.core p.core).tlb.length ≤ 32) (va : Nat)
    (v : Word) {va' : Nat} {needR needW : Bool} (h : s.Translated p va' needR needW) : (s.posted p y va v).Translated p va' needR needW := by
  have hasid : (s.posted p y va v).asidOf p = s.asidOf p := by cases y <;> rfl
  obtain ⟨htlb, -⟩ := posted_tlb hy hl va v
  unfold State.Translated at h ⊢
  simpa only [hasid, htlb] using h

/-- The words of an STM are posted one behind the other. -/
theorem storeMany_posts {ea f : Nat} (ws : List (Nat × Word)) (hp : s.proc k = some p) (hl : (s.core p.core).tlb.length ≤ 32)
    (h : ∀ w ∈ ws, s.Translated p (ea + (w.1 - f) * 8) false true) :
    ∃ (t : State) (es : List SbEntry), s.storeMany k ea f ws = (t, true) ∧ (t.core p.core).sb = (s.core p.core).sb ++ es ∧
      es.map (fun e => (e.name, e.va, e.size, e.data)) = ws.map (fun w => (p.name, ea + (w.1 - f) * 8, 8, w.2)) ∧
      (∀ e ∈ es, t.Due (.storeTranslate p.core e.id)) ∧ (∀ x, s.Due x → t.Due x) ∧ t.mem = s.mem ∧ t.proc k = some p := by
  induction ws generalizing s with
  | nil => exact ⟨s, [], rfl, (List.append_nil _).symm, rfl, nofun, fun _ hx => hx, rfl, hp⟩
  | cons w ws ih =>
    obtain ⟨pa, y, htrans, hy⟩ := translate_of_translated (h w (List.mem_cons_self ..))
    have hstep : s.storeMany k ea f (w :: ws) = (s.posted p y (ea + (w.1 - f) * 8) w.2).storeMany k ea f ws := by
      rw [State.storeMany]
      simp only [hp, htrans]
      cases y <;> rfl
    have hrest := posted_rest s p y (ea + (w.1 - f) * 8) w.2
    obtain ⟨e, hsb, hentry, hdue⟩ := posted_sb s p y (ea + (w.1 - f) * 8) w.2
    obtain ⟨t, es, hrun, htsb, hes, hdues, hkeeps, hmem, htp⟩ := ih (s := s.posted p y (ea + (w.1 - f) * 8) w.2)
      ((congrArg (fun u : State => u.proc k) hrest :).trans hp) (posted_tlb hy hl _ _).2
      fun v hv => translated_posted hy hl _ _ (h v (List.mem_cons_of_mem _ hv))
    refine ⟨t, e :: es, hstep.trans hrun, ?_, ?_, ?_, fun x hx => hkeeps x (due_posted hx ..), hmem.trans (congrArg State.mem hrest :), htp⟩
    · rw [htsb, hsb, List.append_assoc, List.singleton_append]
    · rw [List.map_cons, List.map_cons, hes, hentry]
    · intro x hx
      obtain rfl | hx := List.mem_cons.1 hx
      · exact hkeeps _ hdue
      · exact hdues x hx

end

theorem stmMoves (s : State) (k : Nat) (p : Proc) (f l : Reg) (a : Src) (o : BitVec 11) (x : Word) (vs : List Word) (fs : List Field)
    (hfs : fs = (List.range (l.toNat + 1 - f.toNat)).map (fun i => plainField (BitVec.ofNat 4 (f.toNat + i)) 3))
    (hruns : s.Runs k p (srcField a 0 :: fs) (x :: vs) []) (hrestart : p.restart = 0) (hhold : p.hold = none)
    (hal : addressOf x o.toInt 8 % 8 = 0) (htrans : ∀ i < l.toNat + 1 - f.toNat, s.Translated p (addressOf x o.toInt 8 + 8 * i) false true)
    (htlb : (s.core p.core).tlb.length ≤ 32) (hroom : l.toNat + 1 - f.toNat ≤ s.sbRoom p.core p.name) :
    ∃ (u : State) (es : List SbEntry), exec (.stm f a l o) s = .next (u.retire k (consumeMask p (srcField a 0 :: fs)) []) ∧
      (u.core p.core).sb = (s.core p.core).sb ++ es ∧
      es.map (fun e => (e.name, e.va, e.size, e.data)) =
        (List.range (l.toNat + 1 - f.toNat)).map (fun i => (p.name, addressOf x o.toInt 8 + 8 * i, 8, vs.getD i 0)) ∧
      (∀ e ∈ es, u.Due (.storeTranslate p.core e.id)) ∧ u.mem = s.mem := by
  obtain ⟨hissues, hgives, htakes⟩ := hruns
  have hfields : (regRange f.toNat l.toNat).map (fun n => plainField (BitVec.ofNat 4 n) 3) = fs := by
    rw [hfs, regRange, List.map_map]
    rfl
  have hlen : vs.length = l.toNat + 1 - f.toNat := by
    have hlen := congrArg List.length hgives
    simp only [List.length_map, List.length_cons, hfs, List.length_range] at hlen
    omega
  have hzip : (regRange f.toNat l.toNat).zip vs = (List.range (l.toNat + 1 - f.toNat)).map (fun i => (f.toNat + i, vs.getD i 0)) := by
    refine List.ext_getElem (by simp [length_regRange, hlen]) fun i hi hi' => ?_
    simp only [List.length_zip, length_regRange, hlen, Nat.min_self] at hi
    simp [regRange, List.getElem?_eq_getElem (show i < vs.length by omega)]
  have hwords : ∀ w ∈ (regRange f.toNat l.toNat).zip vs, s.Translated p (addressOf x o.toInt 8 + (w.1 - f.toNat) * 8) false true := by
    rw [hzip]
    intro w hw
    obtain ⟨i, hi, rfl⟩ := List.mem_map.1 hw
    rw [Nat.add_sub_cancel_left, Nat.mul_comm]
    exact htrans i (List.mem_range.1 hi)
  obtain ⟨t, es, hrun, hsb, hes, hdues, -, hmem, htp⟩ := storeMany_posts _ hissues.2 htlb hwords
  have hexec : exec (.stm f a l o) s = .next ((t.modProc k (fun q => { q with restart := 0, hold := none })).retire k
      (consumeMask p (srcField a 0 :: fs)) []) := by
    refine (onCur_next hissues _).trans (congrArg _ ?_)
    simp only [Proc.manyFrom, hrestart, if_true, length_regRange, if_neg (Nat.not_lt.2 hroom), hfields]
    exact moveMany_ok hgives htakes hhold hal hrun
  rw [modProc_eq htp] at hexec
  refine ⟨_, es, hexec, hsb, hes.trans ?_, hdues, hmem⟩
  rw [hzip, List.map_map]
  refine List.map_congr_left fun i _ => ?_
  simp only [Function.comp_apply, Nat.add_sub_cancel_left, Nat.mul_comm]

theorem manyRegistersMove : Claims.ManyRegistersMove :=
  ⟨fun s k p f l a o x off hruns hunbound hrestart hhold hamo hfl _ => ldmMoves s k p f l a o x off hruns hunbound hrestart hhold hamo hfl,
    fun s k p f l a o x vs hruns hrestart hhold _ => stmMoves s k p f l a o x vs _ rfl hruns hrestart hhold⟩

/-- Settles O19: a store posts, finds its way, and writes its bytes; LDM and STM go word by word. -/
theorem storesReachMemory : Obligations.StoresReachMemory := ⟨storePosts, storeBytes, manyRegistersMove⟩

end Sys2Proof.Machine
end

section
/-! PROOFS. The turns of slots, and the passing of a cycle (05 R100 to R102, 00 R2). -/

namespace Sys2Proof.Machine

/-! ### Selection -/

section
variable {s : State} {c i k : Nat}

theorem eligible_iff {p : Proc} {r : Nat} (hocc : (s.slot (c * 8 + i)).occ = some r) (hp : s.proc (c * 256 + r) = some p) :
    s.eligible c i = some k ↔ k = c * 256 + r ∧ p.st = .resident ∧ p.wait = .none ∧ (s.slot (c * 8 + i)).next ≤ s.cycle ∧
      s.groupFree { p with pfx := [], onceOn := false } = true := by
  simp only [State.eligible, hocc, hp, Option.ite_none_right_eq_some, Option.some.injEq, Bool.and_eq_true, beq_iff_eq, decide_eq_true_eq]
  tauto

/-- The slot that issues is the first eligible one from the pointer on. -/
theorem pick_eq_some (h : s.pick c = some (i, k)) :
    ∃ j < 8, i = (s.cycle + j) % 8 ∧ s.eligible c i = some k ∧ ∀ m < j, s.eligible c ((s.cycle + m) % 8) = none := by
  obtain ⟨before, j, behind, hsplit, hj, hnone⟩ := List.findSome?_eq_some_iff.1 h
  obtain ⟨k', hk, heq⟩ := Option.map_eq_some_iff.1 hj
  obtain ⟨rfl, rfl⟩ := Prod.mk.inj heq
  have hlen : before.length = j := by
    have hget := congrArg (fun l : List Nat => l[before.length]?) hsplit
    have hlt : before.length < 8 := by
      have hlength := congrArg List.length hsplit
      simp only [List.length_range, List.length_append, List.length_cons] at hlength
      omega
    simpa [List.getElem?_range hlt] using hget
  have hmem : j ∈ List.range 8 := hsplit ▸ List.mem_append_right _ (List.mem_cons_self ..)
  refine ⟨j, List.mem_range.1 hmem, rfl, hk, fun m hm => ?_⟩
  have hbefore : m ∈ before := by
    have hget := congrArg (fun l : List Nat => l[m]?) hsplit
    have hj8 := List.mem_range.1 hmem
    simp only [List.getElem?_range (show m < 8 by omega), List.getElem?_append_left (hlen ▸ hm)] at hget
    exact List.mem_of_getElem? hget.symm
  exact Option.map_eq_none_iff.1 (hnone m hbefore)

theorem eligible_of_pick_none (h : s.pick c = none) (hi : i < 8) : s.eligible c i = none := by
  have hnone := List.findSome?_eq_none_iff.1 h ((i + 8 - s.cycle % 8) % 8) (List.mem_range.2 (Nat.mod_lt _ (by decide)))
  have hslot : (s.cycle + (i + 8 - s.cycle % 8) % 8) % 8 = i := by omega
  rw [hslot] at hnone
  exact Option.map_eq_none_iff.1 hnone

end

/-- No instruction issues again from its slot before four cycles (05 Table 5.1). -/
theorem four_le_reissue (i : Instr) : 4 ≤ reissue i := by
  unfold reissue
  split
  all_goals repeat' split
  all_goals omega

/-! ### The next cycle -/

section
variable {s : State}

/-- With no packet on its way to another package, and none that was, no link takes flits. -/
theorem sendPackets_of_still (hfly : s.flying = []) (hcross : ∀ e ∈ s.agenda, ∀ x, s.crossing e.2 = some x → x.1 = x.2.1) : s.sendPackets = s := by
  rw [State.sendPackets, hfly]
  rw [List.filter_eq_nil_iff.2]
  · exact (congrArg (fun l : List Ev => { s with flying := l }) hfly.symm :)
  · intro e he
    obtain ⟨x, hx, rfl⟩ := List.mem_map.1 he
    split
    · exact nofun
    · split
      · next p q plane hc => simp [show p = q from hcross x hx _ hc]
      · exact nofun

theorem speCycles_of_idle (h : ∀ f ∈ s.folds, f.2.spe.jobs = [] ∧ f.2.spe.waits = []) : s.speCycles = s := by
  have hnone : s.folds.filter (fun e => !(e.2.spe.jobs.isEmpty && e.2.spe.waits.isEmpty)) = [] :=
    List.filter_eq_nil_iff.2 fun e he => by simp [h e he]
  rw [State.speCycles, hnone]
  rfl

/-- Each shepherd with a process comes to its rotation boundary. -/
theorem foldl_boundary (l : List Nat) (s : State) :
    (∀ c, c ∈ l ∨ s.DueIn 0 (.rotationBoundary c) → (l.foldl (fun v c => v.after 0 (.rotationBoundary c)) s).DueIn 0 (.rotationBoundary c)) ∧
    { l.foldl (fun v c => v.after 0 (.rotationBoundary c)) s with agenda := s.agenda } = s := by
  induction l generalizing s with
  | nil => exact ⟨fun c hc => hc.resolve_left List.not_mem_nil, rfl⟩
  | cons b l ih =>
    obtain ⟨hdue, hrest⟩ := ih (s.after 0 (.rotationBoundary b))
    refine ⟨fun c hc => hdue c ?_, (congrArg (fun t : State => { t with agenda := s.agenda }) hrest :)⟩
    obtain hc | hc := hc
    · obtain rfl | hc := List.mem_cons.1 hc
      · exact .inr (dueIn_after ..)
      · exact .inl hc
    · exact .inr (dueIn_after_of hc ..)

/-- The next cycle of a machine with no packet on its way to another package and no engine at work. -/
theorem tick_of_still (hspe : ∀ f ∈ s.folds, f.2.spe.jobs = [] ∧ f.2.spe.waits = []) (hfly : s.flying = [])
    (hcross : ∀ e ∈ s.agenda, ∀ x, s.crossing e.2 = some x → x.1 = x.2.1) :
    s.tick.cycle = s.cycle + 1 ∧ s.tick.gtc = (s.cycle + 1) * 5 / 8 % 2 ^ 64 ∧
      { s.tick with cycle := s.cycle, cur := s.cur, turns := s.turns, agenda := s.agenda } = s ∧
      ((s.cycle + 1) % 8 = 0 → ∀ e ∈ s.procs, s.tick.DueIn 0 (.rotationBoundary (e.1 / 256))) ∧
      ((s.cycle + 1) % 8 ≠ 0 → s.tick.agenda = s.agenda) := by
  obtain ⟨u, hu, hprocs, hcycle, hagenda, hrest⟩ : ∃ u : State,
      s.tick = (if (s.cycle + 1) % 8 = 0 then u.busyCores.foldl (fun v c => v.after 0 (.rotationBoundary c)) u else u) ∧ u.procs = s.procs ∧
      u.cycle = s.cycle + 1 ∧ u.agenda = s.agenda ∧ { u with cycle := s.cycle, cur := s.cur, turns := s.turns } = s := by
    have hidle : ({ s with cycle := s.cycle + 1, cur := none } : State).speCycles = { s with cycle := s.cycle + 1, cur := none } :=
      speCycles_of_idle hspe
    refine ⟨{ s with cycle := s.cycle + 1, cur := none, turns := ({ s with cycle := s.cycle + 1, cur := none } : State).issuers }, ?_,
      rfl, rfl, rfl, rfl⟩
    simp only [State.tick, sendPackets_of_still hfly hcross, hidle]
  have hgtc (t : State) (ht : t.cycle = s.cycle + 1) : t.gtc = (s.cycle + 1) * 5 / 8 % 2 ^ 64 := by rw [State.gtc, State.nanos, ht]
  by_cases h8 : (s.cycle + 1) % 8 = 0
  · obtain ⟨hdue, hfold⟩ := foldl_boundary u.busyCores u
    rw [if_pos h8] at hu
    rw [hu]
    have hcycle' := (congrArg State.cycle hfold :).trans hcycle
    refine ⟨hcycle', hgtc _ hcycle', ?_, fun _ e he => hdue _ (.inl ?_), fun h => absurd h8 h⟩
    · exact (congrArg (fun t : State => { t with cycle := s.cycle, cur := s.cur, turns := s.turns, agenda := s.agenda }) hfold :).trans
        (congrArg (fun t : State => { t with agenda := s.agenda }) hrest :)
    · rw [State.busyCores, List.mem_dedup, hprocs]
      exact List.mem_map_of_mem he
  · rw [if_neg h8] at hu
    rw [hu]
    exact ⟨hcycle, hgtc u hcycle, (congrArg (fun t : State => { t with agenda := s.agenda }) hrest :), fun h => absurd h h8, fun _ => hagenda⟩

end

/-- Settles O5: the turns of a core's slots, and of the cycles. -/
theorem slotsTakeTurns : Obligations.SlotsTakeTurns := by
  refine ⟨fun s c i k => pick_eq_some, fun s c h i => eligible_of_pick_none h, fun s c i k p r => eligible_iff, four_le_reissue,
    fun s hg hd => ⟨fun c cs ht hp => ?_, fun ht hspe hfly hcross => ⟨s.tick, ?_, tick_of_still hspe hfly hcross⟩⟩⟩
  · simp only [step, hg, hd, ht, hp]
  · simp only [step, hg, hd, ht]

end Sys2Proof.Machine
end

section
/-! PROOFS. YIELD, PRIO, SLEEP and PSELF, and what a retirement may change (06 R146, R157; 05 R110). -/

namespace Sys2Proof.Machine

/-! ### What a retirement may change -/

/-- From s to t no process has come or gone, and of the rest of the machine only what a bound port reaches has changed: the endpoint
entries, the store buffers and ring queues, memory and the events in flight (05 R110). -/
def State.AtPorts (s t : State) : Prop :=
  (∀ j, (t.proc j).isSome = (s.proc j).isSome) ∧
  { t with procs := s.procs, eps := s.eps, cores := s.cores, folds := s.folds, mem := s.mem, poison := s.poison, agenda := s.agenda } = s

namespace State.AtPorts

variable {s t u : State}

theorem refl (s : State) : s.AtPorts s := ⟨fun _ => rfl, rfl⟩

theorem trans (h : s.AtPorts t) (g : t.AtPorts u) : s.AtPorts u := by
  refine ⟨fun j => (g.1 j).trans (h.1 j), ?_⟩
  have := congrArg (fun x : State => { x with
    procs := s.procs, eps := s.eps, cores := s.cores, folds := s.folds, mem := s.mem, poison := s.poison, agenda := s.agenda }) g.2
  exact this.trans h.2

/-- A change that keeps the processes' table. -/
theorem of_rest (hp : t.procs = s.procs) (h : { t with
    procs := s.procs, eps := s.eps, cores := s.cores, folds := s.folds, mem := s.mem, poison := s.poison, agenda := s.agenda } = s) : s.AtPorts t :=
  ⟨fun j => by unfold State.proc; rw [hp], h⟩

/-- A change of a process that is there. -/
theorem putProc {k : Nat} {p : Proc} (h : t.proc k = some p) (q : Proc) : t.AtPorts (t.putProc k q) := by
  refine ⟨fun j => ?_, rfl⟩
  rw [proc_putProc]
  split
  · next e => simp [e, h]
  · rfl

theorem modProc (t : State) (k : Nat) (f : Proc → Proc) : t.AtPorts (t.modProc k f) := by
  unfold State.modProc
  split
  · next p h => exact putProc h _
  · exact refl t

theorem after (t : State) (n : Nat) (e : Ev) : t.AtPorts (t.after n e) := of_rest rfl rfl
theorem atCycle (t : State) (n : Nat) (e : Ev) : t.AtPorts (t.atCycle n e) := of_rest rfl rfl
theorem putEp (t : State) (k : Nat) (e : Ep) : t.AtPorts (t.putEp k e) := of_rest rfl rfl

theorem foldl {α : Type} {f : State → α → State} (h : ∀ (t : State) (x : α), t.AtPorts (f t x)) (l : List α) (t : State) : t.AtPorts (l.foldl f t) := by
  induction l generalizing t with
  | nil => exact refl t
  | cons x l ih => exact (h t x).trans (ih _)

theorem takeHead (t : State) (ke : Nat) (e : Ep) : t.AtPorts (t.takeHead ke e) := by
  have hw : ∀ f q m, t.AtPorts (t.writeRing f q m) := by
    intro f q m
    unfold State.writeRing
    split <;> exact of_rest rfl rfl
  unfold State.takeHead
  dsimp only
  split
  · split
    · exact (hw _ _ _).trans (putEp ..)
    · exact ((hw _ _ _).trans (putEp ..)).trans (after ..)
  · split
    · exact putEp ..
    · exact (putEp ..).trans (after ..)

theorem readAhead (t : State) (k q lat : Nat) : t.AtPorts (t.readAhead k q lat) := by
  unfold State.readAhead
  split
  · exact refl t
  · next p hp =>
    dsimp only
    split
    · split
      · exact refl t
      · exact (putProc hp _).trans (foldl (fun t _ => after t _ _) _ _)
    · exact refl t

theorem popPort (t : State) (k q : Nat) : t.AtPorts (t.popPort k q) := by
  unfold State.popPort
  split
  · exact refl t
  · next p hp =>
    dsimp only
    split
    · split
      · exact putProc hp _
      · exact (putProc hp _).trans (readAhead ..)
    · split
      · exact refl t
      · split
        · exact takeHead ..
        · split
          · exact (putEp ..).trans (atCycle ..)
          · exact refl t

theorem popAll (t : State) (k : Nat) (p : Proc) (c : BitVec 16) : t.AtPorts (t.popAll k p c) := by
  refine foldl (fun t q => ?_) _ t
  split
  · exact popPort ..
  · exact refl t

theorem rawPush (t : State) (k q : Nat) (v : Word) : t.AtPorts (t.rawPush k q v) := by
  unfold State.rawPush
  split
  · exact refl t
  · next p hp =>
    dsimp only
    split
    · have hs : ∀ va size data f r, t.AtPorts (((t.postStore p va size data 0).modCore p.core f).putProc k r) :=
        fun _ _ _ _ r => ⟨(putProc hp r).1, rfl⟩
      split <;> exact hs ..
    · split
      · split
        · exact putProc hp _
        · split
          · exact (putEp ..).trans (after ..)
          · exact ((putEp ..).trans (modProc ..)).trans (after ..)
      · exact putProc hp _

theorem pushPort (t : State) (k q : Nat) (v : Word) : t.AtPorts (t.pushPort k q v) := by
  unfold State.pushPort
  split
  · exact refl t
  · next p hp =>
    dsimp only
    split
    · exact rawPush ..
    · exact putProc hp _

theorem pushAll (t : State) (k : Nat) (p : Proc) (ws : List (Reg × Word)) : t.AtPorts (t.pushAll k p ws) := by
  refine foldl (fun t w => ?_) _ t
  split
  · exact pushPort ..
  · exact refl t

theorem post (t : State) (p : Proc) (n : Nat) (v : Word) : t.AtPorts (t.post p n v) := by
  refine foldl (fun t e => ?_) _ t
  split
  · exact refl t
  · split
    · exact (modProc ..).trans (after ..)
    · exact modProc ..

theorem onceDone (t : State) (k : Nat) (p : Proc) (ws : List (Reg × Word)) : t.AtPorts (t.onceDone k p ws) := by
  unfold State.onceDone
  split
  · dsimp only
    split
    · exact (modProc ..).trans (post ..)
    · exact modProc ..
  · exact refl t

theorem offerXwr (t : State) (k : Nat) : t.AtPorts (t.offerXwr k) := by
  unfold State.offerXwr
  split
  · exact foldl (fun t x => atCycle t _ _) _ _
  · exact refl t

/-- A retirement changes its process, other members' ONCE records, and what its bound ports reach. -/
theorem retire (t : State) (k : Nat) (c : BitVec 16) (ws : List (Reg × Word)) : t.AtPorts (t.retire k c ws) := by
  unfold State.retire
  split
  · next p hp => exact ((((putProc hp _).trans (onceDone ..)).trans (popAll ..)).trans (pushAll ..)).trans (offerXwr ..)
  · exact refl t

theorem cycle (h : s.AtPorts t) : t.cycle = s.cycle := (congrArg State.cycle h.2 : _)

end State.AtPorts


/-- ONCE bookkeeping leaves the cores as they are. -/
theorem onceDone_nil_cores (s : State) (k : Nat) (p : Proc) : (s.onceDone k p []).cores = s.cores := by
  unfold State.onceDone
  split
  · dsimp only
    unfold State.modProc
    split <;> rfl
  · rfl

/-- A retirement that empties nothing and writes nothing leaves the cores as they are: it pops and pushes no port. -/
theorem retire_none_cores (s : State) (k : Nat) : (s.retire k 0 []).cores = s.cores := by
  have hpop : ∀ (t : State) (p : Proc), t.popAll k p 0 = t := by intro t p; simp [State.popAll, List.range, List.range.loop]
  have hoffer : ∀ t : State, (t.offerXwr k).cores = t.cores := fun t => (congrArg State.cores (offerXwr_rest t k) : _)
  unfold State.retire
  split
  · rw [hoffer, hpop]
    exact onceDone_nil_cores ..
  · rfl


/-! ### YIELD, PRIO, SLEEP and PSELF -/

/-- An element put at the tail of a pen. -/
theorem pens_append {α : Type} (v : Vector (List α) 4) {i : Nat} (h : i < 4) (x : α) :
    (v.set! i (v.toList.getD i [] ++ [x]))[i]! = v[i]! ++ [x] := by
  simp [getElem!_pos, h]

/-- A light process yields: it is READY, behind those that wait in its pen. -/
theorem yield_light {s : State} {k : Nat} {p : Proc} (h : s.Issues k p) (hpr : p.prio < 4) (hh : p.heavy = false) :
    ∃ (t : State) (q : Proc), exec .yield s = .next t ∧ t.proc k = some q ∧ q.st = .ready ∧
      (t.core p.core).pens[p.prio]! = (s.core p.core).pens[p.prio]! ++ [p.idx] := by
  have hsome : ((s.retire k 0 []).proc k).isSome := by rw [(State.AtPorts.retire s k 0 []).1, h.2]; rfl
  obtain ⟨q, hq⟩ := Option.isSome_iff_exists.1 hsome
  have hcore : ∀ r, ((s.retire k 0 []).putProc k r).core p.core = s.core p.core := by
    intro r; unfold State.core; rw [State.putProc_cores, retire_none_cores]
  refine ⟨_, { q with st := .ready }, onCur_next h _, ?_, rfl, ?_⟩
  · simp only [hh, Bool.false_eq_true, if_false, modProc_eq hq]
    exact (proc_putProc ..).trans (if_pos rfl)
  · simp only [hh, Bool.false_eq_true, if_false, modProc_eq hq, State.toPen, core_modCore, hcore, if_true]
    exact pens_append _ hpr _

/-- A heavy process that yields issues again at the next rotation boundary. -/
theorem yield_heavy {s : State} {k : Nat} {p : Proc} (h : s.Issues k p) (hh : p.heavy = true) :
    ∃ t : State, exec .yield s = .next t ∧ (t.slot p.slotKey).next = (s.cycle / 8 + 1) * 8 ∧
      t.procs = (s.retire k 0 []).procs ∧ t.cores = s.cores := by
  refine ⟨_, onCur_next h _, ?_, ?_, ?_⟩ <;> simp only [hh, if_true]
  · simp [State.modSlot, State.putSlot, State.slot, State.nextBoundary]
  · rfl
  · exact retire_none_cores s k

/-- SLEEP's event falls due at the first rotation boundary at which the counter has reached a time that it has not reached yet. -/
theorem sleepBoundary {n T : Nat} (h : n * 5 / 8 < T) :
    let c := (gtcCycle T + 7) / 8 * 8
    n ≤ c ∧ c % 8 = 0 ∧ T ≤ c * 5 / 8 ∧ ∀ b, b % 8 = 0 → T ≤ b * 5 / 8 → c ≤ b := by
  unfold gtcCycle
  refine ⟨by omega, by omega, by omega, fun b hb ht => by omega⟩

/-- A process sleeps until the counter has reached the operand. -/
theorem sleep_waits {s : State} {k : Nat} {p : Proc} {a : Src} {x : Word} (h : s.Runs k p [srcField a 0] [x] [])
    (hx : s.cycle * 5 / 8 % 2 ^ 64 < x.toNat) :
    ∃ (t : State) (q : Proc) (c : Nat), exec (.sleep a) s = .next t ∧ t.proc k = some q ∧ q.st = .sleeping ∧
        q.wait = .sleep ∧ q.deadline = x.toNat ∧ (c, Ev.sleepExpiry p.name) ∈ t.agenda ∧ c % 8 = 0 ∧
        s.cycle * 5 / 8 / 2 ^ 64 * 2 ^ 64 + x.toNat ≤ c * 5 / 8 ∧
        ∀ b, b % 8 = 0 → s.cycle * 5 / 8 / 2 ^ 64 * 2 ^ 64 + x.toNat ≤ b * 5 / 8 → c ≤ b := by
  obtain ⟨hi, hg, ht⟩ := h
  have hret := State.AtPorts.retire s k (consumeMask p [srcField a 0]) []
  have hsome : ((s.retire k (consumeMask p [srcField a 0]) []).proc k).isSome := by rw [hret.1, hi.2]; rfl
  obtain ⟨q, hq⟩ := Option.isSome_iff_exists.1 hsome
  obtain ⟨hle, h8, hT, hmin⟩ := sleepBoundary (n := s.cycle) (T := s.cycle * 5 / 8 / 2 ^ 64 * 2 ^ 64 + x.toNat) (by omega)
  have hexec : exec (.sleep a) s = .next (((s.retire k (consumeMask p [srcField a 0]) []).putProc k
      { q with st := .sleeping, wait := .sleep, deadline := x.toNat }).atCycle ((s.gtcDue x.toNat + 7) / 8 * 8) (.sleepExpiry p.name)) := by
    have hdue : ¬ x.toNat ≤ s.gtc := Nat.not_le.2 hx
    refine (onCur_next hi _).trans ?_
    simp only [issue_ok hg ht, List.getD_cons_zero, hdue, if_false, modProc_eq hq]
  refine ⟨_, _, (s.gtcDue x.toNat + 7) / 8 * 8, hexec, (proc_putProc ..).trans (if_pos rfl), rfl, rfl, rfl, ?_, h8, hT, hmin⟩
  refine (mem_enqueue ..).2 (.inl ?_)
  rw [if_neg]
  rw [State.putProc_cycle, hret.cycle]
  exact Nat.not_lt.2 hle

/-- Settles O25: each instruction unfolds on the process that issues; that a process sleeps until the first rotation boundary at which GTC has
reached its operand is arithmetic over the two clocks. -/
theorem simpleProcessInstructions : Obligations.SimpleProcessInstructions := by
  intro s k p h hpr
  refine ⟨yield_light h hpr, yield_heavy h, ?prio, ?sleep, ?pself, ?expiry⟩
  case prio =>
    rintro d a x ⟨-, hg, ht⟩
    constructor <;> intro hx <;> refine (onCur_next h _).trans ?_ <;> simp only [issue_ok hg ht, List.getD_cons_zero]
    · simp only [Nat.not_le.2 hx, if_false, modProc_eq h.2]
    · simp only [hx, if_true]
      rfl
  case sleep =>
    intro a x hr
    refine ⟨fun hx => ?_, sleep_waits hr⟩
    refine (onCur_next h _).trans ?_
    simp only [issue_ok hr.2.1 hr.2.2, List.getD_cons_zero, State.gtc, State.nanos, hx, if_true]
  case pself =>
    intro d ht
    refine (onCur_next h _).trans ?_
    rw [issue_ok (gives_nil s p) ht]
    cases hg : p.gang <;> simp [consumeMask, selfWord, bitOf, hg]
  case expiry =>
    intro n j q hn hw hd
    show Host.Outcome.next (sleepExpiry n s) = _
    simp only [sleepExpiry, State.modNamed, hn, hw, State.gtc, State.nanos, hd, and_self, if_true]
end Sys2Proof.Machine
end

section
/-! PROOFS. Lookups by name: what PINFO, SUSP, RESM and MIGR send, and what a lookup does at its process (06 R158, R161, R163, R166). -/

namespace Sys2Proof.Machine

/-! ### Lookups set out (06 R158, R161, R163, R166) -/

section
variable {s : State} {k : Nat} {p : Proc} {d : Reg}

/-- The lookup that an instruction of a process sends for a name. -/
def Proc.looks (p : Proc) (op : LookOp) (d : Reg) (name arg : Nat) : Look :=
  { op := op, dest := p.dest d, core := p.core, gid := p.gid, level := p.level, target := name, arg := arg }

/-- The state in which an instruction that looks a name up retires: its destination is empty, and the lookup is on its way. -/
def State.lookedUp (s : State) (k : Nat) (p : Proc) (op : LookOp) (d : Reg) (name arg : Nat) : State :=
  (s.putProc k (p.produce d)).after (s.oneway p.core (birthCore name)) (.nameLookup (p.looks op d name arg) false)

theorem lookInsn_illegal (op : LookOp) {x : Word} (hx : 2 ^ 40 ≤ x.toNat) (arg : Nat) (c : BitVec 16) :
    s.lookInsn k p op d x arg c = s.raiseWord k 0x01 := if_pos hx

/-- A lookup for a name whose birth core can be reached sets out for it. -/
theorem lookInsn_sends (h : s.proc k = some p) (hport : p.portOf d = none) (honce : p.onceOn = false) (op : LookOp) {x : Word}
    (hx : x.toNat < 2 ^ 40) (hreach : s.reachesCore p.core (birthCore x.toNat) = true) (arg : Nat) (c : BitVec 16) :
    s.lookInsn k p op d x arg c = (s.lookedUp k p op d x.toNat arg).retire k c [] := by
  have hreach' : (s.putProc k (p.produce d)).reachesCore p.core (birthCore x.toNat) = true := hreach
  unfold State.lookInsn State.lookOut
  simp only [Nat.not_le.2 hx, if_false, produce_plain h hport honce, hreach', if_true]
  rfl

theorem lookedUp_sent (op : LookOp) (name arg : Nat) :
    (s.lookedUp k p op d name arg).proc k = some (p.produce d) ∧
      (s.lookedUp k p op d name arg).DueIn (s.oneway p.core (birthCore name)) (.nameLookup (p.looks op d name arg) false) ∧
      { s.lookedUp k p op d name arg with procs := s.procs, agenda := s.agenda } = s :=
  ⟨State.putProc_proc_self .., dueIn_after .., rfl⟩

/-- An instruction that looks a name up at a level that its process has reached, or not. -/
theorem needS_priv (h : p.level < 1) (go : State) : s.needS k p go = s.raiseWord k 0x02 := if_pos (by omega)

theorem needS_lookup {a : Src} {x : Word} (op : LookOp) (hr : s.Runs k p [srcField a 0] [x] [d]) (hout : d ≠ 0 → (p.cell d).out < 3)
    {i : Instr} (hi : exec i s = .next (s.needS k p (s.issueFill k p [srcField a 0] d (fun vals c => s.lookInsn k p op d (vals.getD 0 0) 0 c)))) :
    (p.level < 1 → exec i s = .next (s.raiseWord k 0x02)) ∧
      (1 ≤ p.level → exec i s = .next (s.lookInsn k p op d x 0 (consumeMask p [srcField a 0]))) := by
  refine ⟨fun hl => ?_, fun hl => ?_⟩ <;> rw [hi]
  · rw [needS_priv hl]
  · rw [needS_ok hl, issueFill_ok hr.2.1 hr.2.2 hout]
    rfl

theorem lookupsSetOut : Claims.LookupsSetOut := by
  intro s k p d a x hr hout hport honce
  obtain ⟨hi, hg, ht⟩ := hr
  refine ⟨?one, ?migr⟩
  case one =>
    have key : ∀ (i : Instr) (op : LookOp) (lev : Nat), (p.level < lev → exec i s = .next (s.raiseWord k 0x02)) →
        (lev ≤ p.level → exec i s = .next (s.lookInsn k p op d x 0 (consumeMask p [srcField a 0]))) →
        (p.level < lev → exec i s = .next (s.raiseWord k 0x02)) ∧
        (lev ≤ p.level → 2 ^ 40 ≤ x.toNat → exec i s = .next (s.raiseWord k 0x01)) ∧
        (lev ≤ p.level → x.toNat < 2 ^ 40 → s.reachesCore p.core (birthCore x.toNat) = true →
          ∃ (u : State) (q : Proc), exec i s = .next (u.retire k (consumeMask p [srcField a 0]) []) ∧ u.proc k = some q ∧
            q.regs = (p.produce d).regs ∧ u.DueIn (s.oneway p.core (birthCore x.toNat)) (.nameLookup (p.looks op d x.toNat 0) false) ∧
            { u with procs := s.procs, agenda := s.agenda } = s) := by
      intro i op lev hpriv hgo
      refine ⟨hpriv, fun hl hx => ?_, fun hl hx hreach => ?_⟩
      · rw [hgo hl, lookInsn_illegal op hx]
      · obtain ⟨hproc, hdue, hrest⟩ := lookedUp_sent (s := s) (k := k) (p := p) (d := d) op x.toNat 0
        exact ⟨_, _, by rw [hgo hl, lookInsn_sends hi.2 hport honce op hx hreach], hproc, rfl, hdue, hrest⟩
    intro e he
    simp only [List.mem_cons, List.not_mem_nil, or_false] at he
    obtain rfl | rfl | rfl := he
    · refine key _ _ 0 (fun h => absurd h (Nat.not_lt_zero _)) (fun _ => (onCur_next hi _).trans ?_)
      rw [issueFill_ok hg ht hout]
      rfl
    · obtain ⟨hpriv, hgo⟩ := needS_lookup .susp ⟨hi, hg, ht⟩ hout (i := .susp d a) (onCur_next hi _)
      exact key _ _ 1 hpriv hgo
    · obtain ⟨hpriv, hgo⟩ := needS_lookup .resm ⟨hi, hg, ht⟩ hout (i := .resm d a) (onCur_next hi _)
      exact key _ _ 1 hpriv hgo
  case migr =>
    intro b y hr2 hl hx
    have hexec : exec (.migr d a b) s = .next (if !coreIdOk y.toNat then s.raise k causeLoadFault y
        else s.lookInsn k p .migr d x y.toNat (consumeMask p [srcField a 0, srcField b 1])) := by
      refine (onCur_next hi _).trans ?_
      rw [needS_ok hl, issueFill_ok hr2.2.1 ht hout]
      simp only [List.getD_cons_zero, List.getD_cons_succ, Nat.not_le.2 hx, if_false]
    refine ⟨fun hy => ?_, fun hy hreach => ?_⟩
    · rw [hexec, hy]
      rfl
    · refine ⟨_, ?_, (lookedUp_sent (s := s) (k := k) (p := p) (d := d) .migr x.toNat y.toNat).2.1⟩
      rw [hexec, hy, lookInsn_sends hi.2 hport honce .migr hx hreach]
      rfl
end

/-! ### Lookups act -/

section
variable {s : State} {k : Nat} {p : Proc} {q : Look}

/-- A lookup that is answered where the process is. -/
theorem nameLookup_answered {t : State} {w : Word} (h : s.named q.target = some (k, p)) (ha : s.lookAct q k p = (t, some w)) :
    exec (.nameLookup q true) s = .next (t.after (s.oneway p.core q.core) (.nameLookupAnswer q w)) := by
  show Host.Outcome.next (nameLookup q true s) = _
  simp only [nameLookup, h, ha, Bool.not_true, Bool.false_and, Bool.false_eq_true, if_false]

/-- A lookup that leaves a request at the process. -/
theorem nameLookup_requested {t : State} (h : s.named q.target = some (k, p)) (ha : s.lookAct q k p = (t, none)) :
    exec (.nameLookup q true) s = .next t := by
  show Host.Outcome.next (nameLookup q true s) = _
  simp only [nameLookup, h, ha, Bool.not_true, Bool.false_and, Bool.false_eq_true, if_false]

/-- A lookup for a name of no live process is answered so. -/
theorem nameLookup_missing (h : s.named q.target = none) :
    exec (.nameLookup q false) s = .next (s.after (s.oneway (birthCore q.target) q.core) (.nameLookupAnswer q (lookMissing q.op))) := by
  show Host.Outcome.next (nameLookup q false s) = _
  simp only [nameLookup, h]

theorem lookMissing_eq (op : LookOp) : lookMissing op = if op = .pinfo then BitVec.allOnes 64 else BitVec.ofNat 64 (2 ^ 63 + 8) := by
  cases op <;> rfl

theorem infoWord_eq (p : Proc) : infoWord p = BitVec.ofNat 64 (p.st.code * 2 ^ 60 + p.prio * 2 ^ 58 +
    (if p.heavy then 2 ^ 57 else 0) + p.core * 2 ^ 32 + p.ecause.toNat * 2 ^ 24 + p.idx * 2 ^ 16 + p.pc.toNat / 4 * 4) := by
  cases hh : p.heavy <;> cases hst : p.st <;> simp [infoWord, PState.code, bitOf, hh, hst]

theorem mayActOn_M (h : q.level = 2) : s.mayActOn q p = true := by simp [State.mayActOn, h]

theorem lookAct_pinfo (h : q.op = .pinfo) (hl : q.level = 2) : s.lookAct q k p = (s, some (infoWord p)) := by
  simp [State.lookAct, h, hl]

theorem lookAct_susp (h : q.op = .susp) (hl : q.level = 2) (hst : p.st ∈ [.ready, .resident, .parked, .blocked, .sleeping]) :
    s.lookAct q k p = (s.putProc k { p with suspend := p.suspend ++ [q.dest] }, none) := by
  simp only [State.lookAct, h, mayActOn_M hl]
  rw [if_neg (by decide), if_neg]
  simp only [List.mem_cons, List.not_mem_nil, or_false] at hst
  obtain h | h | h | h | h := hst <;> rw [h] <;> decide

theorem lookAct_resm (h : q.op = .resm) (hl : q.level = 2) (hst : p.st = .trapped) :
    s.lookAct q k p = ((s.putProc k { p with st := .ready, pc := p.epc, wait := .none, sfq := [] }).toPen p, some 0) := by
  simp [State.lookAct, h, mayActOn_M hl, State.resume, hst, State.toPen]

theorem lookAct_migr (h : q.op = .migr) (hl : q.level = 2) (hst : p.st ∈ [.trapped, .migrating]) :
    s.lookAct q k p = (s, some (failWord 8)) := by
  simp only [State.lookAct, h, mayActOn_M hl]
  rw [if_neg (by decide), if_pos]
  simp only [List.mem_cons, List.not_mem_nil, or_false] at hst
  obtain h | h := hst <;> simp [h]

theorem toPen_pen (t : State) (r : Proc) (h : r.prio < 4) :
    ((t.toPen r).core r.core).pens[r.prio]! = (t.core r.core).pens[r.prio]! ++ [r.idx] := by
  unfold State.toPen
  rw [core_modCore, if_pos rfl]
  exact pens_append _ h _

end

theorem lookupsAct : Claims.LookupsAct := by
  intro s q
  refine ⟨fun hn => ?missing, fun k p hn hl => ⟨?pinfo, ?susp, ?resm, ?migr⟩, ?answer⟩
  case missing =>
    refine ⟨_, nameLookup_missing hn, ?_, rfl⟩
    rw [lookMissing_eq]
    exact due_of_dueIn (dueIn_after ..)
  case pinfo =>
    intro ho
    refine ⟨_, nameLookup_answered hn (lookAct_pinfo ho hl), rfl, ?_⟩
    rw [← infoWord_eq]
    exact dueIn_after ..
  case susp => exact fun ho hst => nameLookup_requested hn (lookAct_susp ho hl hst)
  case resm =>
    intro ho hst hpr
    exact ⟨_, _, nameLookup_answered hn (lookAct_resm ho hl hst), State.putProc_proc_self .., rfl, rfl, rfl, dueIn_after ..,
      toPen_pen _ { p with st := .ready, pc := p.epc, wait := .none, sfq := [] } hpr⟩
  case migr =>
    exact fun ho hst => ⟨_, nameLookup_answered hn (lookAct_migr ho hl hst), rfl, due_of_dueIn (dueIn_after ..)⟩
  case answer =>
    intro w ho
    show Host.Outcome.next (nameLookupAnswer q w s) = .next (fill q.dest w s)
    unfold nameLookupAnswer
    split
    · next h => exact absurd h ho
    · rfl

/-- Settles O26: an instruction that looks a name up sends the lookup, and what the lookup does at the process is read off its operation. -/
theorem lookups : Obligations.Lookups := ⟨lookupsSetOut, lookupsAct⟩

end Sys2Proof.Machine
end

section
/-! PROOFS. Rotation boundaries fill slots from the pens; expiries and the urgent window (06 R147, R149). -/

namespace Sys2Proof.Machine

/-! ### Pens (06 R147, R149) -/

section
variable {s : State} {c n : Nat}

theorem penHead_of_empty (h : (s.core c).pens.toList.getD n [] = []) : s.penHead c n = none := by
  unfold State.penHead
  rw [h]

/-- An empty pen fills no slot. -/
theorem fillPen_of_empty (h : (s.core c).pens.toList.getD n [] = []) (fuel : Nat) : s.fillPen c n fuel = s := by
  cases fuel with
  | zero => rfl
  | succ f => unfold State.fillPen; rw [penHead_of_empty h]

theorem urgentFill_of_empty (h : (s.core c).pens.toList.getD 0 [] = []) (fuel : Nat) : s.urgentFill c fuel = s := by
  cases fuel with
  | zero => rfl
  | succ f => unfold State.urgentFill; rw [penHead_of_empty h]

/-- One pen of four holds a record, and no other holds any. -/
theorem pens_single {i j : Nat} (hi : i < 4) (m : Nat) :
    ((Vector.replicate 4 ([] : List Nat)).set! i [j]).toList.getD m [] = if m = i then [j] else [] := by
  by_cases hm : m < 4
  · interval_cases i <;> interval_cases m <;> rfl
  · rw [if_neg (by omega)]
    exact List.getD_eq_default _ _ (by simp; omega)

theorem pens_none (m : Nat) : (Vector.replicate 4 ([] : List Nat)).toList.getD m [] = [] := by
  by_cases hm : m < 4
  · interval_cases m <;> rfl
  · exact List.getD_eq_default _ _ (by simp; omega)

/-- With empty pens the slots stay as they are: the credits alone are new. -/
theorem fillSlots_of_empty (h : (s.core c).pens = Vector.replicate 4 []) : s.fillSlots c = s.modCore c (fun x => { x with credits := newCredits x }) := by
  have hpen : ∀ m, (((s.modCore c (fun x => { x with credits := newCredits x })).core c).pens.toList.getD m []) = [] := by
    intro m
    rw [core_modCore, if_pos rfl, h]
    exact pens_none m
  unfold State.fillSlots
  dsimp only
  rw [List.foldl_fixed' (fun m => fillPen_of_empty (hpen m) 8), urgentFill_of_empty (hpen 0)]

/-- The only pen that waits has credit if it has weight. -/
theorem newCredits_single {x : CoreS} {i j : Nat} (hi : i < 4) (hp : x.pens = (Vector.replicate 4 []).set! i [j]) (hw : penWeight x.penw i ≠ 0) :
    (newCredits x).toList.getD i 0 ≠ 0 := by
  have hwaits : (List.range 4).filter (fun m => !(x.pens.toList.getD m []).isEmpty) = [i] := by
    have : ∀ m, (!(x.pens.toList.getD m []).isEmpty) = decide (m = i) := by
      intro m
      rw [hp, pens_single hi]
      split <;> simp_all
    simp only [this]
    interval_cases i <;> rfl
  have hfresh : (8 * penWeight x.penw i + penWeight x.penw i - 1) / penWeight x.penw i ≠ 0 := by
    rw [Nat.div_ne_zero_iff]
    omega
  have hget : ∀ v : Vector Nat 4, v.toList.getD i 0 = v[i] := by
    intro v
    rw [List.getD_eq_getElem _ _ (by simpa using hi)]
    exact Vector.getElem_toList _
  rw [hget]
  simp only [newCredits, hwaits, Vector.getElem_ofFn, List.all_cons, List.all_nil, Bool.and_true, decide_eq_true_eq, List.map_cons, List.map_nil,
    List.foldl_cons, List.foldl_nil, Nat.zero_add, List.contains_cons, List.contains_nil, beq_self_eq_true, Bool.true_or, if_true]
  split
  · exact hfresh
  · next h => rwa [hget] at h

/-- Operations that all leave a state as it is. -/
theorem foldl_stays {α β : Type} {f : α → β → α} {t : α} : ∀ l : List β, (∀ x ∈ l, f t x = t) → l.foldl f t = t
  | [], _ => rfl
  | x :: l, h => by
    rw [List.foldl_cons, h x List.mem_cons_self]
    exact foldl_stays l fun y hy => h y (List.mem_cons_of_mem _ hy)

/-- Operations that all leave a state but for one, which makes of it a state that none changes, make that state of it. -/
theorem foldl_once {α β : Type} {f : α → β → α} {t u : α} {b : β} (ht : ∀ x, x ≠ b → f t x = t) (hb : f t b = u) (hu : ∀ x, f u x = u) :
    ∀ l : List β, b ∈ l → l.foldl f t = u := by
  intro l
  induction l with
  | nil => intro h; exact absurd h List.not_mem_nil
  | cons x l ih =>
    intro h
    by_cases hx : x = b
    · rw [List.foldl_cons, hx, hb]
      exact List.foldl_fixed' hu l
    · rw [List.foldl_cons, ht x hx]
      exact ih ((List.mem_cons.1 h).resolve_left (Ne.symm hx))
end

/-! ### A core whose eight slots are free and that holds one process, which waits in its pen -/

/-- Core c holds one process, of record p: it is READY at the head of its pen, light or without a vector run to wait for, and all eight slots are free. -/
structure State.OneWaits (s : State) (c : Nat) (p : Proc) : Prop where
  proc : s.proc (c * 256 + p.idx) = some p
  core : p.core = c
  prio : p.prio < 4
  noRun : p.vcount = 0
  noBorrow : p.borrow = none
  weight : penWeight (s.core c).penw p.prio ≠ 0
  pens : (s.core c).pens = (Vector.replicate 4 []).set! p.prio [p.idx]
  free : ∀ i < 8, (s.slot (c * 8 + i)).occ = none ∧ (s.slot (c * 8 + i)).lent = none ∧ (s.slot (c * 8 + i)).busy ≤ s.cycle
  slot : p.slot < 8

section
variable {s : State} {c : Nat} {p : Proc}

theorem State.OneWaits.fits (h : s.OneWaits c p) : s.fits c p = true := by
  have hin : s.inSlot p = false := by simp [State.inSlot, Proc.slotKey, h.core, (h.free p.slot h.slot).1]
  simp [State.fits, hin, h.noRun, h.noBorrow]

/-- The lowest slot is free (06 R147; log 48). -/
theorem State.OneWaits.slotFor (h : s.OneWaits c p) : s.slotFor c p = some 0 := by
  have hall : ∀ i ∈ List.range 8, ((s.slot (c * 8 + i)).occ.isNone && (s.slot (c * 8 + i)).lent.isNone) = true := by
    intro i hi
    obtain ⟨hocc, hlent, -⟩ := h.free i (List.mem_range.1 hi)
    simp [hocc, hlent]
  rw [State.slotFor, List.filter_eq_self.2 hall, h.noBorrow]
  rfl

/-- What the process that waits takes. -/
theorem State.OneWaits.swapIn (h : s.OneWaits c p) : ∃ q : Proc, (s.swapIn (c * 256 + p.idx) 0).proc (c * 256 + p.idx) = some q ∧ q.st = .resident ∧
    q.slot = 0 ∧ q.regs = p.regs ∧ q.pc = p.pc ∧ ((s.swapIn (c * 256 + p.idx) 0).slot (c * 8)).occ = some p.idx ∧
    ((s.swapIn (c * 256 + p.idx) 0).slot (c * 8)).next = s.cycle + 6 ∧
    (∀ m, ((s.swapIn (c * 256 + p.idx) 0).core c).pens.toList.getD m [] = []) ∧ (s.swapIn (c * 256 + p.idx) 0).mem = s.mem := by
  obtain ⟨hproc, hcore, hpr, hrun, hborrow, -, hpens, hfree, -⟩ := h
  obtain ⟨-, -, hbusy⟩ := hfree 0 (by omega)
  have hstart : (if ((s.outOfPens p).slot (c * 8)).busy < s.cycle then s.cycle else ((s.outOfPens p).slot (c * 8)).busy) = s.cycle := by
    have : (s.slot (c * 8)).busy ≤ s.cycle := hbusy
    show (if (s.slot (c * 8)).busy < s.cycle then s.cycle else (s.slot (c * 8)).busy) = s.cycle
    split <;> omega
  simp only [State.swapIn, hproc, hborrow, hcore, Nat.add_zero, hstart]
  have hout : ∀ t : State, t.cores = (s.outOfPens p).cores → ∀ m, (t.core c).pens.toList.getD m [] = [] := by
    intro t ht m
    have : t.core c = (s.outOfPens p).core c := by unfold State.core; rw [ht]
    rw [this, State.outOfPens, hcore, core_modCore, if_pos rfl, hpens]
    by_cases hm : m < 4
    · interval_cases hn : p.prio <;> interval_cases m <;> simp
    · exact List.getD_eq_default _ _ (by simp; omega)
  refine ⟨_, State.putProc_proc_self .., rfl, rfl, rfl, rfl, ?_, ?_, hout _ rfl, rfl⟩ <;> simp [State.slot, State.putSlot]

/-- The slots of the core are filled: the process takes slot 0. -/
theorem State.OneWaits.fillSlots (h : s.OneWaits c p) : ∃ q : Proc, (s.fillSlots c).proc (c * 256 + p.idx) = some q ∧ q.st = .resident ∧
    q.slot = 0 ∧ q.regs = p.regs ∧ q.pc = p.pc ∧ ((s.fillSlots c).slot (c * 8)).occ = some p.idx ∧ ((s.fillSlots c).slot (c * 8)).next = s.cycle + 6 ∧
    ((s.fillSlots c).core c).pens[p.prio]! = [] ∧ (s.fillSlots c).mem = s.mem := by
  have hmod : ∀ (t : State) f, t.OneWaits c p → ((f (t.core c)).pens = (t.core c).pens) → ((f (t.core c)).penw = (t.core c).penw) →
      (t.modCore c f).OneWaits c p := by
    intro t f ht h1 h2
    exact ⟨ht.proc, ht.core, ht.prio, ht.noRun, ht.noBorrow, by rw [core_modCore, if_pos rfl, h2]; exact ht.weight,
      by rw [core_modCore, if_pos rfl, h1]; exact ht.pens, ht.free, ht.slot⟩
  let t := s.modCore c (fun x => { x with credits := newCredits x })
  have ht : t.OneWaits c p := hmod s _ h rfl rfl
  have hcore : t.core c = { s.core c with credits := newCredits (s.core c) } := by rw [core_modCore, if_pos rfl]
  let t1 := t.modCore c (fun x => { x with credits := x.credits.set! p.prio (x.credits.toList.getD p.prio 0 - 1) })
  have ht1 : t1.OneWaits c p := hmod t _ ht rfl rfl
  obtain ⟨q, hq, hst, hslot, hregs, hpc, hocc, hnext, hpen, hmem⟩ := ht1.swapIn
  have hpens : ∀ m, (t.core c).pens.toList.getD m [] = if m = p.prio then [p.idx] else [] := by
    intro m
    rw [ht.pens]
    exact pens_single h.prio m
  have hhead : t.penHead c p.prio = some (c * 256 + p.idx, p) := by
    unfold State.penHead
    rw [hpens, if_pos rfl]
    simp only [ht.proc, Option.map_some]
  have hfill : t.fillPen c p.prio 8 = t1.swapIn (c * 256 + p.idx) 0 := by
    have hcredit : (t.core c).credits.toList.getD p.prio 0 ≠ 0 := by rw [hcore]; exact newCredits_single h.prio h.pens h.weight
    unfold State.fillPen
    rw [hhead]
    simp only [hcredit, decide_false, ht.fits, Bool.not_true, Bool.or_false, Bool.false_eq_true, if_false, ht.slotFor]
    exact fillPen_of_empty (hpen _) 7
  have hdone : s.fillSlots c = t1.swapIn (c * 256 + p.idx) 0 := by
    unfold State.fillSlots
    dsimp only
    rw [foldl_once (fun m hm => fillPen_of_empty ((hpens m).trans (if_neg hm)) 8) hfill (fun m => fillPen_of_empty (hpen m) 8) _
      (List.mem_range.2 h.prio)]
    exact urgentFill_of_empty (hpen 0) 8
  rw [hdone]
  refine ⟨q, hq, hst, hslot, hregs, hpc, hocc, hnext, ?_, hmem⟩
  have := hpen p.prio
  simpa [getElem!_pos, h.prio] using this

/-- Nothing of the process asks for its boundary: it stays as it is. -/
theorem boundaryStep_waits {k : Nat} (hp : s.proc k = some p) (hst : p.st = .ready) (hw : p.wait = .none) (hsu : p.suspend = []) (hmi : p.migrate = none)
    (hheld : ∀ q ∈ p.ports.toList, q.held = []) (hin : s.inSlot p = false) (c : Nat) : s.boundaryStep c (k, p) = s := by
  have hport : ∀ q ∈ List.range 4, (p.ports.toList.getD q {}).held.isEmpty = true := by
    intro q hq
    have hlen : q < p.ports.toList.length := by simpa using hq
    rw [List.getD_eq_getElem _ _ hlen, hheld _ (List.getElem_mem hlen)]
    rfl
  have hflush : (List.range 4).foldl (fun t q => if (p.ports.toList.getD q {}).held.isEmpty then t else t.flushPort k q 4) s = s :=
    foldl_stays _ fun q hq => if_pos (hport q hq)
  unfold State.boundaryStep
  simp only [hp, hflush]
  simp [hp, hw, hst, hsu, hmi, hin]

/-- A rotation boundary sets the end of the core's first urgent window (06 R149). -/
def State.withWindow (s : State) (c : Nat) : State :=
  if (s.core c).windowOn then s
  else (s.putCore c { s.core c with windowOn := true }).atCycle ((s.cycle / urgWindow (s.core c).urgb + 1) * urgWindow (s.core c).urgb) (.urgentWindowEnd c)

/-- The union of the flags of a fold's processes is taken at a rotation boundary (05 R137). -/
def State.withFlags (s : State) (c : Nat) : State :=
  s.modFold (foldOf c) (fun f => { f with flagNow := s.flagUnion (foldOf c), flagSticky := f.flagSticky ||| s.flagUnion (foldOf c) })

theorem rotationBoundary_eq (s : State) (c : Nat) : rotationBoundary c s =
    let t := (((s.withWindow c).onCore c).foldl (fun t e => t.boundaryStep c e) (s.withWindow c)).withFlags c
    if t.expiryDue c then t else t.fillSlots c := rfl

theorem withWindow_waits (h : s.OneWaits c p) : (s.withWindow c).OneWaits c p := by
  unfold State.withWindow
  split
  · exact h
  · have hcore : ∀ e n, (State.atCycle (s.putCore c { s.core c with windowOn := true }) n e).core c = { s.core c with windowOn := true } := by
      intro e n
      simp [State.core, State.atCycle, State.putCore]
    exact ⟨h.proc, h.core, h.prio, h.noRun, h.noBorrow, by rw [hcore]; exact h.weight, by rw [hcore]; exact h.pens, h.free, h.slot⟩

theorem withWindow_rest (s : State) (c : Nat) : { s.withWindow c with cores := s.cores, agenda := s.agenda } = s := by
  unfold State.withWindow
  split <;> rfl

theorem withWindow_agenda {x : Nat × Ev} (hx : x ∈ (s.withWindow c).agenda) : x ∈ s.agenda ∨ x.2 = .urgentWindowEnd c := by
  unfold State.withWindow at hx
  split at hx
  · exact .inl hx
  · obtain rfl | hx := (mem_enqueue ..).1 hx
    · exact .inr rfl
    · exact .inl hx

/-- ROTATION_BOUNDARY fills the slots of a core, where no expiry is to come. -/
theorem rotationBoundary_fills (h : s.OneWaits c p) (honly : s.onCore c = [(c * 256 + p.idx, p)]) (hst : p.st = .ready) (hw : p.wait = .none)
    (hsu : p.suspend = []) (hmi : p.migrate = none) (hheld : ∀ q ∈ p.ports.toList, q.held = [])
    (hexp : ∀ x ∈ s.agenda, ∀ i, x.2 ≠ .quantumExpiry c i) :
    ∃ u : State, exec (.rotationBoundary c) s = .next (u.fillSlots c) ∧ u.OneWaits c p ∧ u.cycle = s.cycle ∧ u.mem = s.mem := by
  have hone := withWindow_waits h
  have hrest := withWindow_rest s c
  have hon : (s.withWindow c).onCore c = [(c * 256 + p.idx, p)] := by
    rw [State.onCore, show (s.withWindow c).procs = s.procs from (congrArg State.procs hrest :)]
    exact honly
  have hin : (s.withWindow c).inSlot p = false := by simp [State.inSlot, Proc.slotKey, h.core, (hone.free p.slot h.slot).1]
  have hstep : ((s.withWindow c).onCore c).foldl (fun t e => t.boundaryStep c e) (s.withWindow c) = s.withWindow c := by
    rw [hon]
    exact boundaryStep_waits hone.proc hst hw hsu hmi hheld hin c
  have hdue : ((s.withWindow c).withFlags c).expiryDue c = false := by
    refine List.any_eq_false.2 fun x hx => ?_
    obtain hx | hx := withWindow_agenda hx
    · have := hexp x hx
      split <;> simp_all
    · simp [hx]
  refine ⟨(s.withWindow c).withFlags c, ?_, ⟨hone.proc, hone.core, hone.prio, hone.noRun, hone.noBorrow, hone.weight, hone.pens, hone.free, hone.slot⟩,
    (congrArg State.cycle hrest :), (congrArg State.mem hrest :)⟩
  show Host.Outcome.next (rotationBoundary c s) = _
  rw [rotationBoundary_eq, hstep]
  simp only [hdue, Bool.false_eq_true, if_false]
end

/-! ### Expiries and the urgent window -/

/-- The expiry of a quantum, where no pen waits: a light resident counts as expired. -/
theorem quantumExpiry_procs {s : State} {c i k : Nat} {p : Proc} (hr : s.resident c i = some (k, p)) (hpens : (s.core c).pens = Vector.replicate 4 []) :
    ∃ t : State, exec (.quantumExpiry c i) s = .next t ∧
      t.procs = (if p.heavy then s else s.putProc k { p with expired := true }).procs := by
  refine ⟨_, rfl, ?_⟩
  unfold quantumExpiry
  simp only [hr]
  have hfill : ∀ t : State, (t.core c).pens = Vector.replicate 4 [] → (if t.expiryDue c then t else t.fillSlots c).procs = t.procs := by
    intro t ht
    rw [fillSlots_of_empty ht]
    split <;> rfl
  refine hfill _ ?_
  split
  · exact hpens
  · exact hpens

/-- Clearing the urgent mark of some processes. -/
theorem clearUrgent (l : List (Nat × Proc)) (t : State) :
    (∀ j, (j ∈ l.map Prod.fst ∨ ∀ q, t.proc j = some q → q.urgent = false) →
      ∀ q, (l.foldl (fun v e => v.modProc e.1 (fun p => { p with urgent := false })) t).proc j = some q → q.urgent = false) ∧
    { l.foldl (fun v e => v.modProc e.1 (fun p => { p with urgent := false })) t with procs := t.procs } = t := by
  induction l generalizing t with
  | nil => exact ⟨fun j h => h.resolve_left List.not_mem_nil, rfl⟩
  | cons e l ih =>
    obtain ⟨hproc, hrest⟩ := ih (t.modProc e.1 (fun p => { p with urgent := false }))
    have hmod : { t.modProc e.1 (fun p => { p with urgent := false }) with procs := t.procs } = t := by
      unfold State.modProc
      split <;> rfl
    refine ⟨fun j hj => hproc j ?_, ((congrArg (fun v : State => { v with procs := t.procs }) hrest :).trans hmod :)⟩
    by_cases he : j = e.1
    · refine .inr fun q hq => ?_
      unfold State.modProc at hq
      split at hq
      · rw [he, State.putProc_proc_self] at hq
        cases hq
        rfl
      · next hn => rw [he, hn] at hq; cases hq
    · obtain hj | hj := hj
      · exact .inl ((List.mem_cons.1 hj).resolve_left he)
      · refine .inr fun q hq => hj q ?_
        unfold State.modProc at hq
        split at hq
        · rw [proc_putProc, if_neg he] at hq
          exact hq
        · exact hq

/-- URGENT_WINDOW_END loads the budget, clears the marks, and sets the next end. -/
theorem urgentWindowEnd_effect (s : State) (c : Nat) :
    ∃ t : State, exec (.urgentWindowEnd c) s = .next t ∧ (t.core c).budget = (s.core c).urgb.toNat % 2 ^ 16 ∧
      t.DueIn ((s.core c).urgb.toNat / 2 ^ 16 % 2 ^ 16 * 64) (.urgentWindowEnd c) ∧
      ∀ e ∈ s.procs, e.1 / 256 = c → ∀ q, t.proc e.1 = some q → q.urgent = false := by
  let t := s.putCore c { s.core c with budget := urgBudget (s.core c).urgb }
  obtain ⟨hproc, hrest⟩ := clearUrgent (t.onCore c) t
  have hwin : urgWindow (s.core c).urgb = (s.core c).urgb.toNat / 2 ^ 16 % 2 ^ 16 * 64 := by
    simp [urgWindow, Nat.shiftRight_eq_div_pow]
  refine ⟨_, rfl, ?_, ?_, fun e he hc q hq => hproc e.1 (.inl ?_) q hq⟩
  · have hcores := (congrArg State.cores hrest :)
    show (tgetD (State.cores (List.foldl _ t _)) c {}).budget = _
    rw [show State.cores (List.foldl _ t _) = t.cores from hcores]
    simp [t, State.putCore, urgBudget]
  · rw [← hwin]
    exact dueIn_after ..
  · exact List.mem_map.2 ⟨e, List.mem_filter.2 ⟨he, by simp [hc]⟩, rfl⟩

/-- Settles O32: at a boundary the one pen that waits has credit, and its head takes the lowest slot; expiry and the urgent window touch the marks
of their core alone. -/
theorem pensFillSlots : Obligations.PensFillSlots := by
  refine ⟨?boundary, ?expiry, fun s c => ⟨?budget, urgentWindowEnd_effect s c⟩⟩
  case boundary =>
    intro s c p honly hp hc hpr hsl hst hw hsu hmi hv hb hpw hheld hexp hpens hslots
    obtain ⟨u, hexec, hu, hcy, hmem⟩ := rotationBoundary_fills ⟨hp, hc, hpr, hv, hb, hpw, hpens, hslots, hsl⟩ honly hst hw hsu hmi hheld hexp
    obtain ⟨q, hq, hres, hslot, hregs, hpc, hocc, hnext, hpen, hm⟩ := hu.fillSlots
    exact ⟨_, q, hexec, hq, hres, hslot, hregs, hpc, hocc, hnext.trans (by rw [hcy]), hpen, hm.trans hmem⟩
  case expiry =>
    intro s c i k p hr hp hpens
    obtain ⟨t, ht, hprocs⟩ := quantumExpiry_procs hr hpens
    refine ⟨fun hh => ⟨t, ht, ?_⟩, fun hh => ⟨t, { p with expired := true }, ht, ?_, rfl, rfl⟩⟩
    · rw [hprocs, hh]
      rfl
    · rw [State.proc, hprocs, hh]
      exact State.putProc_proc_self ..
  case budget =>
    exact ⟨_, rfl, by simp [budgetExhausted], rfl⟩

end Sys2Proof.Machine
end

section
/-! PROOFS. Launch tables and the creation of processes; launches take effect, and the done tree completes them (06 R154, R171 to R177; 01 R20 to R22). -/

namespace Sys2Proof.Machine

/-! ### The launch table of a core (06 R174) -/

section
variable {s : State} {c n i : Nat}

theorem ltabIndex_some (h : s.ltabIndex c n = some i) : i < 16 ∧ ∃ e, tget s.ltab (c * 16 + i) = some e ∧ e.launch = n := by
  have hmem := List.mem_of_find?_eq_some h
  have htrue := List.find?_some h
  refine ⟨List.mem_range.1 hmem, ?_⟩
  cases he : tget s.ltab (c * 16 + i) with
  | none => rw [he] at htrue; simp at htrue
  | some e => exact ⟨e, rfl, by rw [he] at htrue; simpa using htrue⟩

/-- A core's entry for a launch is the one at its index. -/
theorem ltabOf_eq_bind (s : State) (c n : Nat) : s.ltabOf c n = (s.ltabIndex c n).bind (fun i => tget s.ltab (c * 16 + i)) := by
  unfold State.ltabOf State.ltabIndex
  rw [List.find?_filterMap]
  congr 2
  funext j
  cases tget s.ltab (c * 16 + j) <;> rfl

theorem ltabOf_of_index {e : LaunchEntry} (h : s.ltabIndex c n = some i) (he : tget s.ltab (c * 16 + i) = some e) : s.ltabOf c n = some e := by
  rw [ltabOf_eq_bind, h]
  exact he

theorem modLtabOf_of_index {e : LaunchEntry} (h : s.ltabIndex c n = some i) (he : tget s.ltab (c * 16 + i) = some e)
    (f : LaunchEntry → LaunchEntry) : s.modLtabOf c n f = { s with ltab := tput s.ltab (c * 16 + i) (f e) } := by
  unfold State.modLtabOf
  rw [h, ltabOf_of_index h he]

/-- A change of a core's entry that keeps its launch keeps the index. -/
theorem ltabIndex_modLtabOf (s : State) (c n : Nat) {f : LaunchEntry → LaunchEntry} (hf : ∀ e, (f e).launch = e.launch) (d m : Nat) :
    (s.modLtabOf c n f).ltabIndex d m = s.ltabIndex d m := by
  cases hi : s.ltabIndex c n with
  | none => unfold State.modLtabOf; rw [hi]
  | some i =>
    obtain ⟨-, e, he, -⟩ := ltabIndex_some hi
    rw [modLtabOf_of_index hi he]
    unfold State.ltabIndex
    congr 1
    funext j
    simp only [tget_tput]
    split
    · next hj => rw [hj, he]; simp [hf]
    · rfl

/-- The index of a launch that enters a core's table in a free place. -/
theorem ltabIndex_entered {e : LaunchEntry} (hfree : s.ltabIndex c n = none) (hi : i < 16) (he : e.launch = n) :
    ({ s with ltab := tput s.ltab (c * 16 + i) e } : State).ltabIndex c n = some i := by
  unfold State.ltabIndex at hfree ⊢
  rw [List.find?_eq_none] at hfree
  have hpred : ∀ j ∈ List.range 16, (((tget (tput s.ltab (c * 16 + i) e) (c * 16 + j)).map LaunchEntry.launch) == some n) = decide (j = i) := by
    intro j hj
    rw [tget_tput]
    by_cases hji : j = i
    · simp [hji, he]
    · have := hfree j hj
      simp only [hji, Nat.add_left_cancel_iff, if_false]
      simpa using this
  have hfind : (List.range 16).find? (fun j => decide (j = i)) = some i := by
    interval_cases i <;> rfl
  rw [← hfind]
  exact List.find?_congr hpred

/-- What a change of a core's entry leaves of the state. -/
theorem modLtabOf_rest (s : State) (c n : Nat) (f : LaunchEntry → LaunchEntry) : { s.modLtabOf c n f with ltab := s.ltab } = s := by
  unfold State.modLtabOf
  split <;> rfl

theorem modLtab_rest (s : State) (p : Proc) (f : LaunchEntry → LaunchEntry) : { s.modLtab p f with ltab := s.ltab } = s := by
  unfold State.modLtab
  split <;> rfl

theorem modGroup_rest (s : State) (g : Nat) (f : Group → Group) : { s.modGroup g f with groups := s.groups } = s := by
  unfold State.modGroup
  split <;> rfl

theorem modGroup_group? (s : State) (g j : Nat) (f : Group → Group) :
    (s.modGroup g f).group? j = if j = g then (s.group? g).map f else s.group? j := by
  unfold State.modGroup
  cases h : s.group? g with
  | none => split <;> simp_all
  | some x => exact tget_tput ..
end

/-! ### A process is created (06 R154, Table 6.4) -/

/-- What START makes at a core with a free record, a free extension and an entry for its launch. -/
theorem create_made {s : State} {m : StartMsg} {r x ix : Nat} (hr : s.freeRecord m.core = some r) (hx : s.freeExtension m.core = some x)
    (hi : s.ltabIndex m.core m.launch = some ix) :
    ∃ (t : State) (q : Proc), s.create m = (t, BitVec.ofNat 64 (m.gid * 2 ^ 48 + q.name)) ∧
      q = startProc m r ((tgetD s.gens (m.core * 256 + r) 0 + 1) % 128) x ix ∧ t.proc (m.core * 256 + r) = some q ∧
      (t.core m.core).pens[q.prio]! = (s.core m.core).pens[q.prio]! ++ [r] ∧
      t.group? m.gid = (s.group? m.gid).map (fun g => { g with live := g.live ++ [q.name] }) ∧
      { t with procs := s.procs, gens := s.gens, dir := s.dir, cores := s.cores, ltab := s.ltab, groups := s.groups } = s := by
  let q := startProc m r ((tgetD s.gens (m.core * 256 + r) 0 + 1) % 128) x ix
  let t0 : State := { s.putProc (m.core * 256 + r) q with
    gens := tput s.gens (m.core * 256 + r) ((tgetD s.gens (m.core * 256 + r) 0 + 1) % 128), dir := tput s.dir q.name (m.core * 256 + r) }
  let t1 := (t0.toPen q).modLtab q (fun e => { e with live := e.live + 1 })
  let t2 := t1.modGroup m.gid (fun g => { g with live := g.live ++ [q.name] })
  have h1 := modLtab_rest (t0.toPen q) q (fun e => { e with live := e.live + 1 })
  have h2 := modGroup_rest t1 m.gid (fun g => { g with live := g.live ++ [q.name] })
  have hprio : q.prio < 4 := by
    show (m.spawn.extractLsb' 5 2).toNat < 4
    exact (m.spawn.extractLsb' 5 2).isLt
  refine ⟨t2, q, ?_, rfl, ?_, ?_, ?_, ?_⟩
  · unfold State.create
    rw [hr, hx, hi]
  · unfold State.proc
    rw [show t2.procs = t1.procs from (congrArg State.procs h2 :), show t1.procs = _ from (congrArg State.procs h1 :)]
    exact State.putProc_proc_self ..
  · have hc : t2.core m.core = (t0.toPen q).core m.core := by
      unfold State.core
      rw [show t2.cores = t1.cores from (congrArg State.cores h2 :), show t1.cores = _ from (congrArg State.cores h1 :)]
    rw [hc]
    exact toPen_pen t0 q hprio
  · rw [modGroup_group?, if_pos rfl, show t1.group? m.gid = s.group? m.gid from congrArg (fun g => tget g m.gid) (congrArg State.groups h1 :)]
  · have e2 := congrArg (fun v : State => { v with procs := s.procs, gens := s.gens, dir := s.dir, cores := s.cores, ltab := s.ltab, groups := s.groups }) h2
    have e1 := congrArg (fun v : State => { v with procs := s.procs, gens := s.gens, dir := s.dir, cores := s.cores, ltab := s.ltab, groups := s.groups }) h1
    exact e2.trans e1

/-- The registers of a process that START makes: its arguments in g1 to g4, every other 0, and all full. -/
theorem startProc_reg (m : StartMsg) (rec gen ext ix : Nat) (n : Reg) :
    (startProc m rec gen ext ix).full n = true ∧
      (startProc m rec gen ext ix).reg n = if 1 ≤ n.toNat ∧ n.toNat ≤ 4 then m.args.getD (n.toNat - 1) 0 else 0 := by
  have hget : (startProc m rec gen ext ix).regs.get (rix n) =
      if 1 ≤ n.toNat ∧ n.toNat ≤ 4 then { val := m.args.getD (n.toNat - 1) 0 } else {} := by
    show (Vector.ofFn _).get (rix n) = _
    simp only [Vector.get_ofFn]
    rfl
  unfold Proc.full Proc.reg
  rw [hget]
  constructor
  · split <;> simp
  · by_cases h0 : n = 0
    · simp [h0]
    · rw [if_neg h0]
      split <;> rfl

/-! ### Events sent one after the other -/

/-- Events scheduled for the elements of a list: each is in flight, with those that were, and nothing else changes. -/
theorem foldl_after {α : Type} (n : α → Nat) (e : α → Ev) (l : List α) (t : State) :
    (∀ x ∈ l, (l.foldl (fun v x => v.after (n x) (e x)) t).DueIn (n x) (e x)) ∧
    (∀ m y, t.DueIn m y → (l.foldl (fun v x => v.after (n x) (e x)) t).DueIn m y) ∧
    { l.foldl (fun v x => v.after (n x) (e x)) t with agenda := t.agenda } = t := by
  induction l generalizing t with
  | nil => exact ⟨fun x h => absurd h List.not_mem_nil, fun _ _ h => h, rfl⟩
  | cons x l ih =>
    obtain ⟨hin, hkeep, hrest⟩ := ih (t.after (n x) (e x))
    refine ⟨fun y hy => ?_, fun m y h => hkeep m y (dueIn_after_of h ..), (congrArg (fun v : State => { v with agenda := t.agenda }) hrest :)⟩
    obtain rfl | hy := List.mem_cons.1 hy
    · exact hkeep _ _ (dueIn_after ..)
    · exact hin y hy

/-! ### Launches take effect (06 R171 to R174, 01 R20 to R22) -/

section
variable {s : State}

/-- A record that reaches a package that is up. -/
theorem launchRecord_checked {pkg : Nat} (hb : (s.pkg pkg).booted = true) (hp : (s.pkg pkg).power ≠ 2) (src : Source) (ws : List Word) :
    (s.recordCode src ws ≠ 0 → exec (.launchRecord pkg src ws) s =
      .next (s.toSource pkg src 6 0 [ws.getD 1 0, BitVec.ofNat 64 (2 ^ 62) ||| BitVec.ofNat 64 (s.recordCode src ws)])) ∧
    (s.recordCode src ws = 0 → ∃ (t : State) (l : Launch), exec (.launchRecord pkg src ws) s = .next t ∧ tget t.launches s.nextLaunch = some l ∧
      l.nodes = recNodes ws ∧ l.asid = (ws.getD 2 0).toNat % 2 ^ 16 ∧ l.root = (ws.getD 3 0).toNat ∧ l.launchId = ws.getD 1 0 ∧
      t.Due (.launchTakeEffect s.nextLaunch) ∧ t.procs = s.procs ∧ t.mem = s.mem) := by
  have hup : (!(s.pkg pkg).booted || decide ((s.pkg pkg).power = 2)) = false := by simp [hb, hp]
  refine ⟨fun hc => ?_, fun hc => ?_⟩
  · show Host.Outcome.next (launchRecord pkg src ws s) = _
    unfold launchRecord
    simp only [hup, Bool.false_eq_true, if_false, hc, ne_eq, not_false_eq_true, if_true]
    rfl
  · obtain ⟨l, hl⟩ : ∃ l : Launch, tget (launchRecord pkg src ws s).launches s.nextLaunch = some l ∧
        l.nodes = recNodes ws ∧ l.asid = (ws.getD 2 0).toNat % 2 ^ 16 ∧ l.root = (ws.getD 3 0).toNat ∧ l.launchId = ws.getD 1 0 ∧
        (launchRecord pkg src ws s).Due (.launchTakeEffect s.nextLaunch) ∧ (launchRecord pkg src ws s).procs = s.procs ∧
        (launchRecord pkg src ws s).mem = s.mem := by
      unfold launchRecord
      simp only [hup, Bool.false_eq_true, if_false, hc, ne_eq, not_true_eq_false]
      refine ⟨_, tget_tput_self .., rfl, ?_, rfl, rfl, due_of_dueIn (dueIn_after ..), rfl, rfl⟩
      show (ws.getD 2 0).toNat / 2 ^ 0 % 2 ^ 16 = _
      rw [pow_zero, Nat.div_one]
    exact ⟨_, l, rfl, hl⟩

/-- A launch of the host takes effect: its header sets out for every placed core. -/
theorem launchTakeEffect_host {n : Nat} {l : Launch} (hl : tget s.launches n = some l) (hsrc : l.src = .host) :
    ∃ t : State, exec (.launchTakeEffect n) s = .next t ∧ (tget t.launches n).map Launch.started = some true ∧
      (∀ c ∈ l.nodes, t.DueIn (s.headerTime l.pkg c) (.launchHeader n c)) ∧ t.procs = s.procs ∧ t.mem = s.mem := by
  obtain ⟨u, hexec, hlaunch, hcycle, hprocs, hmem⟩ : ∃ u : State, exec (.launchTakeEffect n) s =
        .next (l.nodes.foldl (fun v c => v.after (s.headerTime l.pkg c) (.launchHeader n c)) u) ∧
      (tget u.launches n).map Launch.started = some true ∧ u.cycle = s.cycle ∧ u.procs = s.procs ∧ u.mem = s.mem := by
    let t := { s with launches := tput s.launches n { l with src := .host, started := true } }
    have ht : (tget t.launches n).map Launch.started = some true := by simp [t]
    by_cases hm : s.measured l.pkg l.words = true
    · refine ⟨t, ?_, ht, rfl, rfl, rfl⟩
      show Host.Outcome.next (launchTakeEffect n s) = _
      simp only [launchTakeEffect, hl, hsrc, hm, Bool.false_eq_true, if_false, if_true]
      rfl
    · refine ⟨t.modPkg l.pkg (fun b => { b with unmeasured := b.unmeasured + 1 }), ?_, ht, rfl, rfl, rfl⟩
      show Host.Outcome.next (launchTakeEffect n s) = _
      simp only [launchTakeEffect, hl, hsrc, hm, Bool.false_eq_true, if_false]
      rfl
  obtain ⟨hdue, -, hrest⟩ := foldl_after (fun c => s.headerTime l.pkg c) (fun c => .launchHeader n c) l.nodes u
  have hlaunches := (congrArg State.launches hrest :)
  have hprocs' := (congrArg State.procs hrest :)
  have hmem' := (congrArg State.mem hrest :)
  have hcyc := (congrArg State.cycle hrest :)
  refine ⟨_, hexec, ?_, fun c hc => ?_, hprocs'.trans hprocs, hmem'.trans hmem⟩
  · exact (congrArg (fun x => (tget x n).map Launch.started) hlaunches).trans hlaunch
  · exact hdue c hc

/-- The node index that a header gives a placed core. -/
theorem headerNode {nodes : List Nat} {j c : Nat} (hj : nodes[j]? = some c) (hn : nodes.Nodup) :
    (nodes.findIdx? (fun x => x == c)).getD 0 = j := by
  obtain ⟨hlt, hget⟩ := List.getElem?_eq_some_iff.1 hj
  have : nodes.findIdx? (fun x => x == c) = some j := by
    rw [List.findIdx?_eq_some_iff_getElem]
    refine ⟨hlt, by simp [hget], fun i hi => ?_⟩
    have hne : nodes[i] ≠ nodes[j] := fun h => absurd ((List.Nodup.getElem_inj_iff hn).1 h) (by omega)
    simpa [hget] using hne
  rw [this]
  rfl

/-- The state of a core that has entered a launch. -/
def State.entered (s : State) (n c i j : Nat) (l : Launch) : State :=
  ({ s with ltab := tput s.ltab (c * 16 + i) { launch := n, node := j } } : State).modCore c (fun x => { x with
    extSize := max x.extSize (recExts l.words c), wins := x.wins.set! 0 (recWord l.words 0x58) })

/-- A core that has entered a launch as the root's: the root's group is there, and the root is counted once as sent and taken. -/
def State.rootEntered (s : State) (n c i : Nat) (l : Launch) : State :=
  let u := (s.entered n c i 0 l).modCore c (fun x => { x with reserved := x.reserved - 1 })
  (u.putGroup l.gbase { home := c, launch := n, pending := 0, peers := (peerWords l.words).map u.peerEntry }).modLtabOf c n
    (fun e => { e with sent := 1, taken := 1 })

variable {n c i j : Nat} {l : Launch}

theorem launchHeader_enters (hl : tget s.launches n = some l) (hj : l.nodes[j]? = some c) (hn : l.nodes.Nodup)
    (hi : (List.range 16).find? (fun x => (tget s.ltab (c * 16 + x)).isNone) = some i) (hj0 : j ≠ 0) :
    launchHeader n c s = s.entered n c i j l := by
  unfold launchHeader
  simp only [hl, hi, headerNode hj hn, hj0, ne_eq, not_false_eq_true, if_true]
  rfl

/-- The header of the root's core makes the root; with no initial channels nothing is bound. -/
theorem launchHeader_root (hl : tget s.launches n = some l) (hj : l.nodes[0]? = some c) (hn : l.nodes.Nodup)
    (hi : (List.range 16).find? (fun x => (tget s.ltab (c * 16 + x)).isNone) = some i)
    (hlen : l.words.length = 24 + recPlace l.words + recImages l.words) :
    launchHeader n c s = ((s.rootEntered n c i l).create (rootStart l n c)).1.after 1 (.detectionWave n 0) := by
  have hchans : chanWords l.words = [] := by
    unfold chanWords
    rw [List.drop_eq_nil_of_le (by omega), List.take_nil]
  unfold launchHeader
  simp only [hl, hi, headerNode hj hn, hchans, ne_eq, not_true_eq_false, if_false]
  generalize hr : (State.modLtabOf _ c n _).create (rootStart l n c) = r
  rw [show (s.rootEntered n c i l).create (rootStart l n c) = r from hr]
  congr 1
  split <;> rfl

theorem rootEntered_free (s : State) (n c i : Nat) (l : Launch) :
    (s.rootEntered n c i l).freeRecord c = s.freeRecord c ∧
    (s.rootEntered n c i l).freeExtension c =
      leastFree ((s.onCore c).map (fun e => e.2.extix)) 0 (max (s.core c).extSize (recExts l.words c)) ∧
    (i < 16 → s.ltabIndex c n = none → (s.rootEntered n c i l).ltabIndex c n = some i) := by
  let v := ((s.entered n c i 0 l).modCore c (fun x => { x with reserved := x.reserved - 1 })).putGroup l.gbase
    { home := c, launch := n, pending := 0, peers := (peerWords l.words).map ((s.entered n c i 0 l).modCore c
      (fun x => { x with reserved := x.reserved - 1 })).peerEntry }
  have hrest : { s.rootEntered n c i l with ltab := v.ltab } = v := modLtabOf_rest v c n _
  have hprocs : (s.rootEntered n c i l).procs = s.procs := (congrArg State.procs hrest :)
  have hcores : (s.rootEntered n c i l).cores = v.cores := (congrArg State.cores hrest :)
  have hext : ((s.rootEntered n c i l).core c).extSize = max (s.core c).extSize (recExts l.words c) := by
    unfold State.core
    rw [hcores]
    simp [v, State.putGroup, State.entered, State.modCore, State.putCore, State.core]
  refine ⟨?_, ?_, fun hi16 hnone => ?_⟩
  · unfold State.freeRecord State.onCore
    rw [hprocs]
  · unfold State.freeExtension State.onCore
    rw [hprocs, hext]
  · exact (ltabIndex_modLtabOf v c n (f := fun e => { e with sent := 1, taken := 1 }) (fun _ => rfl) c n).trans (ltabIndex_entered hnone hi16 rfl)

/-- LAUNCH_HEADER at the root's core. -/
theorem launchHeader_makesRoot (hl : tget s.launches n = some l) (hj : l.nodes[0]? = some c) (hn : l.nodes.Nodup)
    (hi : (List.range 16).find? (fun x => (tget s.ltab (c * 16 + x)).isNone) = some i) {r x : Nat} (hnone : s.ltabIndex c n = none)
    (hr : s.freeRecord c = some r) (hx : leastFree ((s.onCore c).map (fun e => e.2.extix)) 0 (max (s.core c).extSize (recExts l.words c)) = some x)
    (hlen : l.words.length = 24 + recPlace l.words + recImages l.words) :
    ∃ (t : State) (q : Proc), exec (.launchHeader n c) s = .next t ∧ t.proc (c * 256 + r) = some q ∧ q.st = .ready ∧ q.level = 1 ∧ q.gid = l.gbase ∧
        q.reg 1 = l.words.getD 5 0 ∧ q.reg 2 = l.words.getD 6 0 ∧ q.reg 3 = l.words.getD 7 0 ∧ q.reg 4 = l.words.getD 8 0 ∧
        q.pc = BitVec.ofNat 16 ((l.words.getD 4 0).toNat / 2 ^ 32 % 2 ^ 16) ∧ t.DueIn 1 (.detectionWave n 0) := by
  obtain ⟨hrec, hext, hix⟩ := rootEntered_free s n c i l
  have hi16 : i < 16 := List.mem_range.1 (List.mem_of_find?_eq_some hi)
  obtain ⟨t, q, hcreate, hq, hproc, -, -, hrest⟩ := create_made (s := s.rootEntered n c i l) (m := rootStart l n c) (hrec.trans hr)
    (hext.trans hx) (hix hi16 hnone)
  have hreg := fun g => (startProc_reg (rootStart l n c) r ((tgetD (s.rootEntered n c i l).gens (c * 256 + r) 0 + 1) % 128) x i g).2
  refine ⟨t.after 1 (.detectionWave n 0), q, ?_, hproc, ?_⟩
  · show Host.Outcome.next (launchHeader n c s) = _
    rw [launchHeader_root hl hj hn hi hlen, hcreate]
  · subst hq
    refine ⟨rfl, rfl, rfl, hreg 1, hreg 2, hreg 3, hreg 4, ?_, dueIn_after ..⟩
    show BitVec.ofNat 16 (spawnEntry (recWord l.words 0x20)) = _
    simp [spawnEntry, recWord, Nat.shiftRight_eq_div_pow]
end

theorem launchesTakeEffect : Claims.LaunchesTakeEffect := by
  refine ⟨fun s pkg src ws hb hp => launchRecord_checked hb hp src ws, fun s n l hl hsrc => launchTakeEffect_host hl hsrc, ?_⟩
  intro s n c i j l hl hj hn hi
  refine ⟨fun hj0 => ?_, fun hj0 r x hnone hr hx hlen => ?_⟩
  · refine ⟨s.entered n c i j l, congrArg Host.Outcome.next (launchHeader_enters hl hj hn hi hj0), tget_tput_self .., ?_, rfl⟩
    simp [State.entered, recWord]
  · subst hj0
    exact launchHeader_makesRoot hl hj hn hi hnone hr hx hlen

/-! ### The done tree (06 R176, R177) -/

section
variable {s : State} {n i : Nat} {l : Launch} {e : LaunchEntry}

theorem mem_childNodes {m c : Nat} : c ∈ childNodes m i ↔ 4 * i + 1 ≤ c ∧ c ≤ 4 * i + 4 ∧ c < m := by
  simp only [childNodes, List.mem_filter, List.mem_map, List.mem_range, decide_eq_true_eq]
  constructor
  · rintro ⟨⟨j, hj, rfl⟩, hc⟩
    omega
  · rintro ⟨h1, h2, h3⟩
    exact ⟨⟨c - (4 * i + 1), by omega, by omega⟩, h3⟩

theorem childNodes_leaf (h : 4 * i + 1 ≥ l.nodes.length) : childNodes l.nodes.length i = [] :=
  List.eq_nil_iff_forall_not_mem.2 fun c hc => by
    have := mem_childNodes.1 hc
    omega

/-- The wave goes on from a node to its children. -/
theorem detectionWave_goesOn (hl : tget s.launches n = some l) (he : s.ltabOf (l.nodes.getD i 0) n = some e) :
    ∃ t : State, exec (.detectionWave n i) s = .next t ∧ (tget t.launches n).map Launch.reached = some (i :: l.reached) ∧
      ∀ c, 4 * i + 1 ≤ c → c ≤ 4 * i + 4 → c < l.nodes.length →
        t.DueIn (s.oneway (l.nodes.getD i 0) (l.nodes.getD c 0)) (.detectionWave n c) := by
  let t : State := { s with launches := tput s.launches n { l with reached := i :: l.reached } }
  let u := (childNodes l.nodes.length i).foldl (fun v c => v.after (s.oneway (l.nodes.getD i 0) (l.nodes.getD c 0)) (.detectionWave n c)) t
  obtain ⟨hdue, -, hrest⟩ := foldl_after (fun c => s.oneway (l.nodes.getD i 0) (l.nodes.getD c 0)) (fun c => .detectionWave n c)
    (childNodes l.nodes.length i) t
  have hreached : (tget u.launches n).map Launch.reached = some (i :: l.reached) := by
    rw [show u.launches = t.launches from (congrArg State.launches hrest :)]
    simp [t]
  have hsent : ∀ c, 4 * i + 1 ≤ c → c ≤ 4 * i + 4 → c < l.nodes.length →
      u.DueIn (s.oneway (l.nodes.getD i 0) (l.nodes.getD c 0)) (.detectionWave n c) :=
    fun c h1 h2 h3 => hdue c (mem_childNodes.2 ⟨h1, h2, h3⟩)
  have hexec : exec (.detectionWave n i) s = .next (if u.waveReady n i then u.after 1 (.detectionAnswer n i) else u) := by
    show Host.Outcome.next (detectionWave n i s) = _
    simp only [detectionWave, hl, he, Option.isNone_some, Bool.false_eq_true, if_false]
    rfl
  refine ⟨_, hexec, ?_⟩
  split
  · exact ⟨hreached, fun c h1 h2 h3 => dueIn_after_of (hsent c h1 h2 h3) ..⟩
  · exact ⟨hreached, hsent⟩

/-- The sums that a node with no children sends. -/
def LaunchEntry.sums (e : LaunchEntry) : Sums := { sent := e.sent, taken := e.taken, count := e.count, err := e.err }

/-- A node without children that the wave has reached, with no live process and no write outstanding, answers with its own sums. -/
theorem detectionAnswer_leaf (hl : tget s.launches n = some l) (he : s.ltabOf (l.nodes.getD i 0) n = some e)
    (hleaf : 4 * i + 1 ≥ l.nodes.length) (hwr : s.writesLeft l (l.nodes.getD i 0) = false) (hr : i ∈ l.reached)
    (ha : ∀ a ∈ l.answered, a.1 ≠ i) (hlive : e.live = 0) :
    exec (.detectionAnswer n i) s = .next (if i = 0 then
        if l.last = some e.sums ∧ e.sums.sent = e.sums.taken then s.endLaunch n l e.sums
        else ({ s with launches := tput s.launches n { l with reached := [], answered := [], last := some e.sums } }).after 1 (.detectionWave n 0)
      else ({ s with launches := tput s.launches n { l with answered := (i, e.sums) :: l.answered } }).after
        (s.oneway (l.nodes.getD i 0) (l.nodes.getD (parentNode i) 0)) (.detectionAnswer n (parentNode i))) := by
  have hready : s.waveReady n i = true := by
    have hno : l.answered.any (fun a => a.1 == i) = false := List.any_eq_false.2 fun a h => by simpa using ha a h
    unfold State.waveReady
    simp only [hl, childNodes_leaf hleaf, he, hno]
    simp [hr, hlive]
  have hnone : (l.answered.filter (fun a => (childNodes l.nodes.length i).contains a.1)) = [] := by
    rw [childNodes_leaf hleaf]
    exact List.filter_eq_nil_iff.2 fun a _ => by simp
  show Host.Outcome.next (detectionAnswer n i s) = _
  unfold detectionAnswer
  simp only [hl, hready, hwr, he, hnone, Bool.not_true, Bool.false_eq_true, if_false, List.foldl_nil]
  rfl

end

theorem doneTree : Claims.DoneTree := by
  intro s n i l e hl he
  refine ⟨detectionWave_goesOn hl he, fun hleaf hwr hr ha hlive => ?_⟩
  have hans := detectionAnswer_leaf hl he hleaf hwr hr ha hlive
  refine ⟨fun hi => ?up, fun hi hlast hsum => ?complete, fun hi hlast => ?again⟩
  case up =>
    rw [if_neg hi] at hans
    exact ⟨_, hans, by simp [LaunchEntry.sums], dueIn_after ..⟩
  case complete =>
    have hsame : l.last = some e.sums ∧ e.sums.sent = e.sums.taken := ⟨hlast, hsum⟩
    rw [hans, if_pos hi, if_pos hsame]
    rfl
  case again =>
    have hdiffer : ¬ (l.last = some e.sums ∧ e.sums.sent = e.sums.taken) := hlast
    rw [if_pos hi, if_neg hdiffer] at hans
    exact ⟨_, hans, by simp [LaunchEntry.sums], dueIn_after ..⟩

/-- Settles O31: the record, the launch's taking effect, its headers and the two events of the done tree, each read off its definition on the
entries of the launch tables. -/
theorem launches : Obligations.Launches := ⟨launchesTakeEffect, doneTree⟩

end Sys2Proof.Machine
end

section
/-! PROOFS. SPAWN, START and GANG (06 R153 to R156). -/

namespace Sys2Proof.Machine

/-! ### The fields of a spawn word (06 R153) -/

section
variable (w : Word)

theorem spawnEntry_eq : spawnEntry w = w.toNat / 2 ^ 32 % 2 ^ 16 := by simp [spawnEntry, Nat.shiftRight_eq_div_pow]
theorem spawnPrio_eq : spawnPrio w = w.toNat / 2 ^ 5 % 4 := by simp [spawnPrio, Nat.shiftRight_eq_div_pow]
theorem spawnVec_eq : spawnVec w = w.toNat / 4 % 8 := by simp [spawnVec, Nat.shiftRight_eq_div_pow]
theorem spawnSup_eq : spawnSup w = decide (w.toNat % 2 = 1) := by simp [spawnSup, BitVec.getLsbD, Nat.testBit_zero]

theorem bitOf_spawnSup : bitOf (spawnSup w) = w.toNat % 2 := by
  rw [spawnSup_eq, bitOf]
  have := Nat.mod_two_eq_zero_or_one w.toNat
  split <;> simp_all

theorem spawnOk_iff : spawnOk w = true ↔ w.toNat < 2 ^ 48 ∧ w.toNat / 2 ^ 32 % 4 = 0 ∧ w.toNat / 4 % 8 ≤ 4 := by
  have hmod : w.toNat / 2 ^ 32 % 2 ^ 16 % 4 = w.toNat / 2 ^ 32 % 4 := Nat.mod_mod_of_dvd _ (by decide)
  simp only [spawnOk, spawnEntry_eq, spawnVec_eq, hmod, Bool.and_eq_true, decide_eq_true_eq, and_assoc]
end

theorem levelWord_eq (ws : List Word) (v : Nat) : levelWord ws v = ws.getD (16 + v) 0 := by
  unfold levelWord recWord
  congr 1
  omega

theorem levelDomain_eq (x : Word) : levelDomain x = x.toNat / 2 % 8 := rfl

/-! ### A START sets out -/

theorem sendStart_rest (s : State) (p : Proc) (l : Launch) (m : StartMsg) (n : Nat) :
    { s.sendStart p l m n with ltab := s.ltab, agenda := s.agenda } = s := by
  unfold State.sendStart
  split
  · exact (congrArg (fun v : State => { v with agenda := s.agenda }) (modLtab_rest s p (fun e => { e with sent := e.sent + 1 })) :)
  · rfl

theorem sendStart_dueIn (s : State) (p : Proc) (l : Launch) (m : StartMsg) (n : Nat) : (s.sendStart p l m n).DueIn n (.start m) := by
  unfold State.sendStart
  exact dueIn_after ..

theorem sendStart_dueIn_of {s : State} {i : Nat} {e : Ev} (h : s.DueIn i e) (p : Proc) (l : Launch) (m : StartMsg) (n : Nat) :
    (s.sendStart p l m n).DueIn i e := by
  have hrest := sendStart_rest s p l m n
  unfold State.sendStart at hrest ⊢
  refine dueIn_after_of ?_ ..
  unfold State.DueIn at h ⊢
  split
  · have hlt := modLtab_rest s p (fun e => { e with sent := e.sent + 1 })
    rw [show State.cycle (s.modLtab p _) = s.cycle from (congrArg State.cycle hlt :),
      show State.agenda (s.modLtab p _) = s.agenda from (congrArg State.agenda hlt :)]
    exact h
  · exact h

theorem sendStart_group? (s : State) (p : Proc) (l : Launch) (m : StartMsg) (n g : Nat) : (s.sendStart p l m n).group? g = s.group? g :=
  congrArg (fun x => tget x g) (congrArg State.groups (sendStart_rest s p l m n) :)

theorem produce_group? (s : State) (k : Nat) (r : Reg) (g : Nat) : (s.produce k r).group? g = s.group? g :=
  congrArg (fun x => tget x g) (congrArg State.groups (stateProduce_rest s k r) :)

theorem produce_cycle (s : State) (k : Nat) (r : Reg) : (s.produce k r).cycle = s.cycle := (congrArg State.cycle (stateProduce_rest s k r) :)

/-! ### SPAWN (06 R153, R154, R156) -/

/-- The fields that SPAWN reads: a, b and g1 to g4. -/
def spawnFields (a b : Src) : List Field := [srcField a 0, srcField b 1] ++ [1, 2, 3, 4].map (fun r => plainField (BitVec.ofNat 4 r) 3)

/-- The group that SPAWN names. -/
def spawnGid (p : Proc) (n : BitVec 1) (y : Word) : Nat := if n = 1 ∨ y = 0 then p.gid else y.toNat

/-- Code of a SPAWN or GANG that is refused: d is filled with it, and the instruction retires. -/
def State.denied (s : State) (k : Nat) (p : Proc) (d : Reg) (c : BitVec 16) (code : Nat) : State :=
  ((s.produce k d).after 1 (.fill (p.dest d) (failWord code))).retire k c []

/-- The START that SPAWN sends. -/
def spawnMsg (p : Proc) (d : Reg) (n : BitVec 1) (core gid launch : Nat) (w : Word) (args : List Word) : StartMsg :=
  { dest := p.dest d, from0 := p.core, core := core, spawn := w, gid := gid, level := bitOf (spawnSup w),
    args := args, launch := launch, member := none, newGroup := n = 1 }

/-- Process k issues SPAWN with its sources there, in a launch of its core's table. -/
structure State.Spawns (s : State) (k : Nat) (p : Proc) (d : Reg) (a b : Src) (w y a1 a2 a3 a4 : Word) (l : Launch) (e : LaunchEntry) : Prop where
  runs : s.Runs k p (spawnFields a b) [w, y, a1, a2, a3, a4] [d]
  room : d ≠ 0 → (p.cell d).out < 3
  launch : s.launchOf p = some l
  entry : tget s.ltab (p.core * 16 + p.launch) = some e

section
variable {s : State} {k : Nat} {p : Proc} {d : Reg} {a b : Src} {n pl : BitVec 1} {v : BitVec 3} {w y a1 a2 a3 a4 : Word} {l : Launch} {e : LaunchEntry}

/-- SPAWN goes on with what it has read. -/
theorem State.Spawns.issued (h : s.Spawns k p d a b w y a1 a2 a3 a4 l e) (go : Nat → Proc → List Word → BitVec 16 → State) :
    onCur s (fun k p => s.issueFill k p (spawnFields a b) d (go k p)) =
      .next (go k p [w, y, a1, a2, a3, a4] (consumeMask p (spawnFields a b))) := by
  rw [onCur_next h.runs.1, issueFill_ok h.runs.2.1 h.runs.2.2 h.room]

theorem spawn_illegal (h : s.Spawns k p d a b w y a1 a2 a3 a4 l e) (hw : spawnOk w = false) :
    exec (.spawn d a b n pl v) s = .next (s.raiseWord k 0x01) := by
  refine (h.issued _).trans ?_
  simp only [h.launch, h.entry, List.getD_cons_zero, hw, Bool.not_false, if_true]
  rfl

theorem spawn_noLevel (h : s.Spawns k p d a b w y a1 a2 a3 a4 l e) (hw : spawnOk w = true) (hpl : pl = 1)
    (hlv : levelValid (levelWord l.words v.toNat) = false) : exec (.spawn d a b n pl v) s = .next (s.raiseWord k 0x01) := by
  refine (h.issued _).trans ?_
  simp only [h.launch, h.entry, List.getD_cons_zero, hw, Bool.not_true, Bool.false_eq_true, if_false]
  rw [if_pos (by simp [hpl, hlv])]
  rfl

/-- A well-formed SPAWN whose target, or whose level, is one. -/
structure SpawnSound (l : Launch) (pl : BitVec 1) (v : BitVec 3) (w : Word) : Prop where
  ok : spawnOk w = true
  level : (decide (pl = 1) && !levelValid (levelWord l.words v.toNat)) = false
  core : (decide (pl = 0) && !coreIdOk (spawnTarget w)) = false

/-- SPAWN asks for no level that its process does not have. -/
def SpawnAllowed (p : Proc) (w : Word) : Prop := (spawnSup w && decide (p.level = 0)) = false

/-- SPAWN's process may spawn into the group that it names. -/
def State.SpawnJoins (s : State) (p : Proc) (n : BitVec 1) (y : Word) : Prop :=
  (decide (n = 0) && decide (spawnGid p n y ≠ p.gid) && !s.supervises p (spawnGid p n y)) = false

/-- The core that SPAWN goes to: its target, or with .PLACE what the level's domain gives. -/
def State.spawnCore (s : State) (p : Proc) (pl : BitVec 1) (v : BitVec 3) (w : Word) (l : Launch) : Option Nat :=
  if pl = 1 then s.choosePlace l p.core (levelDomain (levelWord l.words v.toNat)) (spawnVec w) else some (spawnTarget w)

theorem spawn_supDenied (h : s.Spawns k p d a b w y a1 a2 a3 a4 l e) (hs : SpawnSound l pl v w) (hsup : (spawnSup w && decide (p.level = 0)) = true) :
    exec (.spawn d a b n pl v) s = .next (s.denied k p d (consumeMask p (spawnFields a b)) 7) := by
  refine (h.issued _).trans ?_
  simp only [h.launch, h.entry, List.getD_cons_zero, hs.ok, hs.level, hs.core, hsup, Bool.not_true, Bool.false_eq_true, if_false, if_true]
  rfl

theorem spawn_groupDenied (h : s.Spawns k p d a b w y a1 a2 a3 a4 l e) (hs : SpawnSound l pl v w) (hsup : SpawnAllowed p w)
    (hg : (decide (n = 0) && decide (spawnGid p n y ≠ p.gid) && !s.supervises p (spawnGid p n y)) = true) :
    exec (.spawn d a b n pl v) s = .next (s.denied k p d (consumeMask p (spawnFields a b)) 7) := by
  refine (h.issued _).trans ?_
  unfold SpawnAllowed at hsup
  unfold spawnGid at hg
  simp only [h.launch, h.entry, List.getD_cons_zero, List.getD_cons_succ, hs.ok, hs.level, hs.core, hsup, hg, Bool.not_true, Bool.false_eq_true, if_false,
    if_true]
  rfl

theorem spawn_placeDenied (h : s.Spawns k p d a b w y a1 a2 a3 a4 l e) (hs : SpawnSound l pl v w) (hsup : SpawnAllowed p w)
    (hg : s.SpawnJoins p n y) (hc : s.spawnCore p pl v w l = none) :
    exec (.spawn d a b n pl v) s = .next (s.denied k p d (consumeMask p (spawnFields a b)) 4) := by
  refine (h.issued _).trans ?_
  unfold SpawnAllowed at hsup
  unfold State.SpawnJoins spawnGid at hg
  unfold State.spawnCore at hc
  simp only [h.launch, h.entry, List.getD_cons_zero, List.getD_cons_succ, hs.ok, hs.level, hs.core, hsup, hg, hc, Bool.not_true, Bool.false_eq_true,
    if_false]
  rfl

theorem spawn_unreached (h : s.Spawns k p d a b w y a1 a2 a3 a4 l e) (hs : SpawnSound l pl v w) (hsup : SpawnAllowed p w)
    (hg : s.SpawnJoins p n y) {core : Nat} (hc : s.spawnCore p pl v w l = some core) (hr : s.reachesCore p.core core = false) :
    exec (.spawn d a b n pl v) s = .next (s.denied k p d (consumeMask p (spawnFields a b)) 4) := by
  refine (h.issued _).trans ?_
  unfold SpawnAllowed at hsup
  unfold State.SpawnJoins spawnGid at hg
  unfold State.spawnCore at hc
  simp only [h.launch, h.entry, List.getD_cons_zero, List.getD_cons_succ, hs.ok, hs.level, hs.core, hsup, hg, hc, hr, Bool.not_true, Bool.not_false,
    Bool.false_eq_true, if_false, if_true]
  rfl

/-- The state in which SPAWN retires when its START is on its way. -/
def State.spawnSent (s : State) (k : Nat) (p : Proc) (d : Reg) (n : BitVec 1) (core : Nat) (w y : Word) (args : List Word) (l : Launch)
    (e : LaunchEntry) : State :=
  if n = 1 then
    match s.freeGid l e.node with
    | some g => ((s.produce k d).putGroup g (s.newGroup p core e.launch 1 0)).sendStart p l (spawnMsg p d n core g e.launch w args) (s.oneway p.core core)
    | none => (s.produce k d).sendStart p l (spawnMsg p d n core 0 e.launch w args) (s.oneway p.core core)
  else ((s.produce k d).modGroup (spawnGid p n y) (fun g => { g with pending := g.pending + 1 })).sendStart p l
    (spawnMsg p d n core (spawnGid p n y) e.launch w args) (s.oneway p.core core)

theorem spawn_sends (h : s.Spawns k p d a b w y a1 a2 a3 a4 l e) (hs : SpawnSound l pl v w) (hsup : SpawnAllowed p w)
    (hg : s.SpawnJoins p n y) {core : Nat} (hc : s.spawnCore p pl v w l = some core) (hr : s.reachesCore p.core core = true) (hset : s.Settled p) :
    exec (.spawn d a b n pl v) s = .next ((s.spawnSent k p d n core w y [a1, a2, a3, a4] l e).retire k (consumeMask p (spawnFields a b)) []) := by
  have hrel := releaseStores_produce h.runs.1.2 hset d
  refine (h.issued _).trans ?_
  unfold SpawnAllowed at hsup
  unfold State.SpawnJoins spawnGid at hg
  unfold State.spawnCore at hc
  simp only [h.launch, h.entry, List.getD_cons_zero, List.getD_cons_succ, hs.ok, hs.level, hs.core, hsup, hg, hc, hr, hrel, Bool.not_true,
    Bool.false_eq_true, if_false]
  unfold State.spawnSent
  split
  · cases s.freeGid l e.node <;> rfl
  · rfl

/-- What SPAWN sends, and what becomes of the group. -/
theorem spawnSent_effect (s : State) (k : Nat) (p : Proc) (d : Reg) (n : BitVec 1) (core : Nat) (w y : Word) (args : List Word) (l : Launch)
    (e : LaunchEntry) : ∃ gid, (s.spawnSent k p d n core w y args l e).DueIn (s.oneway p.core core) (.start (spawnMsg p d n core gid e.launch w args)) ∧
      (n ≠ 1 → gid = spawnGid p n y ∧ ∀ g, s.group? gid = some g →
        ((s.spawnSent k p d n core w y args l e).group? gid).map Group.pending = some (g.pending + 1)) ∧
      (n = 1 → ∀ g, s.freeGid l e.node = some g → gid = g ∧
        ((s.spawnSent k p d n core w y args l e).group? g).map (fun x => (x.home, x.pending, x.supervisor)) = some (core, 1, s.supervisorFor p)) := by
  unfold State.spawnSent
  by_cases hn : n = 1
  · simp only [hn, if_true, ne_eq, not_true_eq_false, false_implies, true_and, true_implies]
    cases hf : s.freeGid l e.node with
    | none => exact ⟨0, sendStart_dueIn .., fun g hg => absurd hg (by simp)⟩
    | some g =>
      refine ⟨g, sendStart_dueIn .., fun g' hg' => ?_⟩
      obtain rfl := Option.some.inj hg'
      refine ⟨rfl, ?_⟩
      rw [sendStart_group?, State.group?, State.putGroup, tget_tput_self]
      rfl
  · simp only [hn, if_false, ne_eq, not_false_eq_true, true_implies, false_implies, and_true]
    refine ⟨_, sendStart_dueIn .., rfl, fun g hg => ?_⟩
    rw [sendStart_group?, modGroup_group?, if_pos rfl, produce_group?, hg]
    rfl
end

theorem spawnSendsStart : Claims.SpawnSendsStart := by
  intro s k p d a b n pl v w y a1 a2 a3 a4 l e fs level gid denied hr hout hl he
  have h : s.Spawns k p d a b w y a1 a2 a3 a4 l e := ⟨hr, hout, hl, he⟩
  have hlevel : levelWord l.words v.toNat = level := levelWord_eq ..
  refine ⟨fun hbad => spawn_illegal h ?_, fun h48 h4 hv => ⟨fun hpl hlv => ?_, fun hlv hcore => ?_⟩⟩
  · rw [Bool.eq_false_iff, ne_eq, spawnOk_iff]
    omega
  · exact spawn_noLevel h ((spawnOk_iff w).2 ⟨h48, h4, hv⟩) hpl (hlevel ▸ hlv)
  have hs : SpawnSound l pl v w := by
    refine ⟨(spawnOk_iff w).2 ⟨h48, h4, hv⟩, ?_, ?_⟩
    · rw [hlevel]
      by_cases hpl : pl = 1
      · rw [show levelValid level = true from hlv hpl]
        exact Bool.and_false _
      · rw [decide_eq_false hpl, Bool.false_and]
    · rw [spawnTarget_eq]
      by_cases hpl : pl = 0
      · rw [hcore hpl]
        exact Bool.and_false _
      · rw [decide_eq_false hpl, Bool.false_and]
  have hallow : (w.toNat % 2 = 1 → 1 ≤ p.level) → SpawnAllowed p w := by
    intro hsup
    rw [SpawnAllowed, spawnSup_eq, Bool.and_eq_false_iff, decide_eq_false_iff_not, decide_eq_false_iff_not]
    omega
  refine ⟨fun hsup => ?_, fun hsup hn hgid hno => ?_, fun hsup hjoin => ?_⟩
  · refine spawn_supDenied h hs ?_
    rw [spawnSup_eq, hsup.1, hsup.2]
    rfl
  · refine spawn_groupDenied h hs (hallow hsup) ?_
    rw [show spawnGid p n y = gid from rfl, hno, decide_eq_true hn, decide_eq_true hgid]
    rfl
  have hj : s.SpawnJoins p n y := by
    rw [State.SpawnJoins, show spawnGid p n y = gid from rfl]
    by_cases hn : n = 0
    · by_cases hgid : gid = p.gid
      · rw [decide_eq_false (not_not.2 hgid), Bool.and_false, Bool.false_and]
      · rw [hjoin hn hgid]
        exact Bool.and_false _
    · rw [decide_eq_false hn, Bool.false_and, Bool.false_and]
  have hplace : ∀ c, (pl = 1 → s.choosePlace l p.core (level.toNat / 2 % 8) (w.toNat / 4 % 8) = c) → (pl = 0 → c = some (w.toNat / 2 ^ 7 % 2 ^ 25)) →
      s.spawnCore p pl v w l = c := by
    intro c h1 h0
    unfold State.spawnCore
    rw [hlevel, levelDomain_eq, spawnVec_eq, spawnTarget_eq]
    split
    · next hpl => exact h1 hpl
    · next hpl => exact (h0 (by bv_omega)).symm
  refine ⟨fun hpl hnone => ?_, fun core h0 h1 => ?_⟩
  · exact spawn_placeDenied h hs (hallow hsup) hj (hplace none (fun _ => hnone) (fun h0 => absurd (hpl.symm.trans h0) (by decide)))
  have hc := hplace (some core) h1 (fun hpl => congrArg some (h0 hpl))
  refine ⟨fun hreach => spawn_unreached h hs (hallow hsup) hj hc hreach, fun hreach hsb hamo => ?_⟩
  obtain ⟨g, hdue, hold, hnew⟩ := spawnSent_effect s k p d n core w y [a1, a2, a3, a4] l e
  exact ⟨_, _, spawn_sends h hs (hallow hsup) hj hc hreach ⟨hsb, hamo⟩, rfl, rfl, bitOf_spawnSup w, rfl, rfl, rfl, rfl, rfl, hdue,
    fun hn => by obtain ⟨rfl, hpend⟩ := hold (by rw [hn]; decide); exact ⟨rfl, hpend⟩, hnew⟩


/-! ### START (06 R154, R155, Table 6.4) -/

section
variable {s : State} {m : StartMsg} {l : Launch} {g : Group} {e : LaunchEntry} {i : Nat}

/-- The state in which START makes its process: it has been counted as taken, and its place in the group is no longer reserved. -/
def State.startTaken (s : State) (m : StartMsg) : State :=
  (s.modLtabOf m.core m.launch (fun e => { e with taken := e.taken + 1 })).modGroup m.gid (fun y => { y with pending := y.pending - 1 })

theorem startTaken_rest (s : State) (m : StartMsg) : { s.startTaken m with ltab := s.ltab, groups := s.groups } = s := by
  have h1 := modLtabOf_rest s m.core m.launch (fun e => { e with taken := e.taken + 1 })
  have h2 := modGroup_rest (s.modLtabOf m.core m.launch (fun e => { e with taken := e.taken + 1 })) m.gid (fun y => { y with pending := y.pending - 1 })
  exact ((congrArg (fun v : State => { v with ltab := s.ltab, groups := s.groups }) h2 :).trans
    (congrArg (fun v : State => { v with groups := s.groups }) h1 :) :)

theorem startTaken_group (hg : s.group? m.gid = some g) : (s.startTaken m).group? m.gid = some { g with pending := g.pending - 1 } := by
  have h1 := modLtabOf_rest s m.core m.launch (fun e => { e with taken := e.taken + 1 })
  unfold State.startTaken
  rw [modGroup_group?, if_pos rfl, show State.group? (s.modLtabOf m.core m.launch _) m.gid = s.group? m.gid from
    congrArg (fun x => tget x m.gid) (congrArg State.groups h1 :), hg]
  rfl

theorem startTaken_ltabIndex (s : State) (m : StartMsg) (d n : Nat) : (s.startTaken m).ltabIndex d n = s.ltabIndex d n := by
  have h2 := modGroup_rest (s.modLtabOf m.core m.launch (fun e => { e with taken := e.taken + 1 })) m.gid (fun y => { y with pending := y.pending - 1 })
  unfold State.startTaken State.ltabIndex
  rw [show State.ltab (State.modGroup _ m.gid _) = _ from (congrArg State.ltab h2 :)]
  exact ltabIndex_modLtabOf s m.core m.launch (f := fun e => { e with taken := e.taken + 1 }) (fun _ => rfl) d n

/-- START at a core that has its launch, in a group that lives, with no check failing. -/
theorem start_creates (hl : tget s.launches m.launch = some l) (hn : m.core ∈ l.nodes) (hi : s.ltabIndex m.core m.launch = some i)
    (hq : s.isQuiet m.core = false) (hg : s.group? m.gid = some g) (hk : g.killed = none) (hm : m.member = none) (hnew : m.newGroup = false)
    (hcheck : s.startCheck l m.core (spawnVec m.spawn) = 0) :
    start m s = ((s.startTaken m).create m).1.answerStart m ((s.startTaken m).create m).2 := by
  obtain ⟨-, e, he, -⟩ := ltabIndex_some hi
  have ht := modLtabOf_of_index hi he (fun e => { e with taken := e.taken + 1 })
  have hg' : (s.modLtabOf m.core m.launch (fun e => { e with taken := e.taken + 1 })).group? m.gid = some g := by rw [ht]; exact hg
  have hl' : tget (s.modLtabOf m.core m.launch (fun e => { e with taken := e.taken + 1 })).launches m.launch = some l := by rw [ht]; exact hl
  have hc' : (s.modLtabOf m.core m.launch (fun e => { e with taken := e.taken + 1 })).startCheck l m.core (spawnVec m.spawn) = 0 := by
    rw [ht]; exact hcheck
  unfold start
  simp only [hl, hn, hi, hq, hg', hl', hc', hk, hm, hnew, Option.map_some, Option.getD_some, List.contains_eq_mem, decide_true, Option.isNone_some,
    Option.isSome_none, Bool.and_false, Bool.false_eq_true, if_false, false_and, and_false, ne_eq, not_true_eq_false]
  rfl
end

theorem startCreates : Claims.StartCreates := by
  intro s m l g e i r x hl hn hi he hq hg hk hm hnew hcheck hr hx
  have hrest := startTaken_rest s m
  have hprocs : (s.startTaken m).procs = s.procs := (congrArg State.procs hrest :)
  have hcores : (s.startTaken m).cores = s.cores := (congrArg State.cores hrest :)
  have hgens : (s.startTaken m).gens = s.gens := (congrArg State.gens hrest :)
  have hr' : (s.startTaken m).freeRecord m.core = some r := by
    unfold State.freeRecord State.onCore at hr ⊢
    rw [hprocs, hr]
  have hx' : (s.startTaken m).freeExtension m.core = some x := by
    unfold State.freeExtension State.onCore State.core at hx ⊢
    rw [hprocs, hcores, hx]
  obtain ⟨t, q, hcreate, hq', hproc, hpens, hgroup, hkeep⟩ := create_made hr' hx' ((startTaken_ltabIndex s m _ _).trans hi)
  have hway : t.oneway m.core m.from0 = s.oneway m.core m.from0 :=
    (congrArg (fun v : State => v.oneway m.core m.from0) hkeep :).trans (congrArg (fun v : State => v.oneway m.core m.from0) hrest :)
  refine ⟨t.answerStart m (BitVec.ofNat 64 (m.gid * 2 ^ 48 + q.name)), q, ?_, hproc, ?_⟩
  · show Host.Outcome.next (start m s) = _
    rw [start_creates hl hn hi hq hg hk hm hnew hcheck, hcreate]
  rw [hgens] at hq'
  refine ⟨?_, ?_, ?_, ?_, ?_, ?_, ?_, ?_, ?_, ?_, fun w => rfl⟩
  · rw [hq']; rfl
  · rw [hq', ← spawnEntry_eq]; rfl
  · rw [hq', ← spawnPrio_eq]; rfl
  · rw [hq']; rfl
  · rw [hq']; rfl
  · rw [hq']; exact startProc_reg m r _ x i
  · rw [hq']; rfl
  · have : (s.startTaken m).core m.core = s.core m.core := by unfold State.core; rw [hcores]
    rw [← this]
    exact hpens
  · show (t.group? m.gid).map Group.live = _
    rw [hgroup, startTaken_group hg]
    rfl
  · rw [← hway]
    exact dueIn_after ..

/-! ### GANG (06 R155) -/

/-- The fields that GANG reads: a and g1 to g4. -/
def gangFields (a : Src) : List Field := [srcField a 0] ++ [1, 2, 3, 4].map (fun r => plainField (BitVec.ofNat 4 r) 3)

/-- The cores of a gang of four or eight that begins in fold f, by number. -/
def gangCore (f i : Nat) : Nat := 8 * (f + i / 4) + i % 4

theorem gangCores_edge {w : Word} {f : Nat} (hw : spawnTarget w = 8 * f) (hx : f % 256 % 12 = 11) : gangCores (spawnTarget w) true = none := by
  have hf : foldX (foldOf (8 * f)) = 11 := by rw [foldOf, Nat.mul_div_cancel_left _ (by omega)]; exact hx
  unfold gangCores
  rw [hw]
  simp [hf]

theorem gangCores_eq {w : Word} {f : Nat} (hw : spawnTarget w = 8 * f) (e8 : BitVec 1) (hx : e8 = 1 → f % 256 % 12 ≠ 11) :
    gangCores (spawnTarget w) (e8 = 1) = some ((List.range (if e8 = 1 then 8 else 4)).map (gangCore f)) := by
  have hf : foldOf (8 * f) = f := by rw [foldOf, Nat.mul_div_cancel_left _ (by omega)]
  unfold gangCores
  rw [hw, hf]
  rw [if_neg (by omega)]
  by_cases h8 : e8 = 1
  · rw [decide_eq_true h8, if_pos h8, if_neg (by decide), if_neg (show ¬ foldX f = 11 from hx h8)]
    rfl
  · rw [decide_eq_false h8, if_neg h8, if_pos (by decide)]
    rfl

/-- The START of a gang's member. -/
def gangMsg (p : Proc) (d : Reg) (w : Word) (args : List Word) (launch gid : Nat) (cm : Nat × Nat) : StartMsg :=
  { dest := p.dest d, from0 := p.core, core := cm.1, spawn := w, gid := gid, level := bitOf (spawnSup w),
    args := args, launch := launch, member := some cm.2, newGroup := true }

/-- The members' STARTs set out, each with a record kept at its core. -/
theorem gangSent_due (t : State) (p : Proc) (l : Launch) (msg : Nat × Nat → StartMsg) (n : Nat × Nat → Nat) (cms : List (Nat × Nat)) :
    let u := cms.foldl (fun y cm => (y.modCore cm.1 (fun q => { q with reserved := q.reserved + 1 })).sendStart p l (msg cm) (n cm)) t
    (∀ cm ∈ cms, u.DueIn (n cm) (.start (msg cm))) ∧ (∀ i e, t.DueIn i e → u.DueIn i e) ∧ ∀ g, u.group? g = t.group? g := by
  induction cms generalizing t with
  | nil => exact ⟨fun cm h => absurd h List.not_mem_nil, fun _ _ h => h, fun _ => rfl⟩
  | cons x cms ih =>
    obtain ⟨hin, hkeep, hgroup⟩ := ih ((t.modCore x.1 (fun q => { q with reserved := q.reserved + 1 })).sendStart p l (msg x) (n x))
    refine ⟨fun cm hcm => ?_, fun i e h => hkeep i e (sendStart_dueIn_of (s := t.modCore x.1 _) h ..), fun g => (hgroup g).trans (sendStart_group? ..)⟩
    obtain rfl | hcm := List.mem_cons.1 hcm
    · exact hkeep _ _ (sendStart_dueIn ..)
    · exact hin cm hcm

/-- The state in which GANG retires when its members' STARTs are on their way. -/
def State.gangSent (s : State) (k : Nat) (p : Proc) (d : Reg) (w : Word) (args : List Word) (l : Launch) (e : LaunchEntry) (g : Nat)
    (cores : List Nat) : State :=
  cores.zipIdx.foldl (fun y cm => (y.modCore cm.1 (fun q => { q with reserved := q.reserved + 1 })).sendStart p l (gangMsg p d w args e.launch g cm)
      (2 * (cores.map (fun x => s.oneway p.core x)).foldl max 1 + s.oneway p.core cm.1))
    ((s.produce k d).putGroup g (s.newGroup p (cores.headD 0) e.launch cores.length cores.length))

/-- Process k issues GANG with its sources there, in a launch of its core's table, with a spawn word that is sound and allowed. -/
structure State.Gangs (s : State) (k : Nat) (p : Proc) (d : Reg) (a : Src) (w a1 a2 a3 a4 : Word) (l : Launch) (e : LaunchEntry) : Prop where
  runs : s.Runs k p (gangFields a) [w, a1, a2, a3, a4] [d]
  room : d ≠ 0 → (p.cell d).out < 3
  launch : s.launchOf p = some l
  entry : tget s.ltab (p.core * 16 + p.launch) = some e
  ok : spawnOk w = true
  core : coreIdOk (spawnTarget w) = true
  allowed : SpawnAllowed p w

section
variable {s : State} {k : Nat} {p : Proc} {d : Reg} {a : Src} {e8 : BitVec 1} {w a1 a2 a3 a4 : Word} {l : Launch} {e : LaunchEntry}

/-- GANG goes on with what it has read. -/
theorem State.Gangs.issued (h : s.Gangs k p d a w a1 a2 a3 a4 l e) (go : Nat → Proc → List Word → BitVec 16 → State) :
    onCur s (fun k p => s.issueFill k p (gangFields a) d (go k p)) = .next (go k p [w, a1, a2, a3, a4] (consumeMask p (gangFields a))) := by
  rw [onCur_next h.runs.1, issueFill_ok h.runs.2.1 h.runs.2.2 h.room]

theorem gang_edge (h : s.Gangs k p d a w a1 a2 a3 a4 l e) (hc : gangCores (spawnTarget w) (e8 = 1) = none) :
    exec (.gang d a e8) s = .next (s.denied k p d (consumeMask p (gangFields a)) 6) := by
  refine (h.issued _).trans ?_
  have hsup := h.allowed
  unfold SpawnAllowed at hsup
  simp only [h.launch, h.entry, List.getD_cons_zero, h.ok, h.core, hsup, hc, Bool.not_true, Bool.false_eq_true, if_false]
  rfl

/-- A gang whose cores can all take a member: its STARTs set out. -/
theorem gang_sends (h : s.Gangs k p d a w a1 a2 a3 a4 l e) {cores : List Nat} (hc : gangCores (spawnTarget w) (e8 = 1) = some cores)
    (hne : cores ≠ []) (hr : s.reachesCore p.core (cores.headD 0) = true)
    (hfit : ∀ x ∈ cores, (s.ltabIndex x e.launch).isSome ∧ s.startCheck l x (spawnVec w) = 0) (hhomes : s.homes (cores.headD 0) < 32) {g : Nat}
    (hg : s.freeGid l e.node = some g) (hset : s.Settled p) :
    exec (.gang d a e8) s = .next ((s.gangSent k p d w [a1, a2, a3, a4] l e g cores).retire k (consumeMask p (gangFields a)) []) := by
  have hrel := releaseStores_produce h.runs.1.2 hset d
  have hsup := h.allowed
  unfold SpawnAllowed at hsup
  have hhead : cores.headD 0 ∈ cores := by
    cases cores with
    | nil => exact absurd rfl hne
    | cons x xs => exact List.mem_cons_self
  have hno : cores.any (fun x => l.nodes.contains x && (s.ltabIndex x e.launch).isNone) = false :=
    List.any_eq_false.2 fun x hx => by
      obtain ⟨i, hi⟩ := Option.isSome_iff_exists.1 (hfit x hx).1
      simp [hi]
  have hall : cores.any (fun x => s.startCheck l x (spawnVec w) != 0) = false := List.any_eq_false.2 fun x hx => by simp [(hfit x hx).2]
  have hroom : ¬ 32 ≤ s.homes (cores.headD 0) := Nat.not_le.2 hhomes
  refine (h.issued _).trans ?_
  simp only [h.launch, h.entry, List.getD_cons_zero, h.ok, h.core, hsup, hc, hr, hno, hall, hroom, (hfit _ hhead).2, hrel, hg, Option.getD_some,
    Option.isNone_some, or_false, and_false, ne_eq, not_true_eq_false, Bool.not_true, Bool.false_eq_true, if_false]
  rfl
end

theorem gangStartsMembers : Claims.GangStartsMembers := by
  intro s k p d a e8 w a1 a2 a3 a4 l e f fs size core hr hout hl he h48 h4 hv htgt hid hsup hsb hamo
  have hw : spawnTarget w = 8 * f := (spawnTarget_eq w).trans htgt
  have hallow : SpawnAllowed p w := by
    rw [SpawnAllowed, spawnSup_eq, Bool.and_eq_false_iff, decide_eq_false_iff_not, decide_eq_false_iff_not]
    omega
  have h : s.Gangs k p d a w a1 a2 a3 a4 l e := ⟨hr, hout, hl, he, spawnOk_of h48 h4 hv, by rw [hw]; exact hid, hallow⟩
  refine ⟨fun hx => gang_edge h (gangCores_edge hw hx), fun g hx hreach hfit hhomes hg => ?_⟩
  let cores := (List.range size).map (gangCore f)
  have hsize : 0 < size := by show 0 < if e8 = 1 then 8 else 4; split <;> omega
  have hlen : cores.length = size := by simp [cores]
  have hhead : cores.headD 0 = 8 * f := by
    obtain ⟨n, hn⟩ := Nat.exists_eq_succ_of_ne_zero hsize.ne'
    simp [cores, hn, List.range_succ_eq_map, gangCore]
  have hget : ∀ i < size, (core i, i) ∈ cores.zipIdx := by
    intro i hi
    rw [List.mem_zipIdx_iff_getElem?]
    simp [cores, hi, core, gangCore]
  have hfit' : ∀ x ∈ cores, (s.ltabIndex x e.launch).isSome ∧ s.startCheck l x (spawnVec w) = 0 := by
    intro x hx
    obtain ⟨i, hi, rfl⟩ := List.mem_map.1 hx
    rw [spawnVec_eq]
    exact (hfit i (List.mem_range.1 hi)).2
  have hsends := gang_sends h (gangCores_eq hw e8 hx) (List.ne_nil_of_length_pos (by rw [hlen]; exact hsize)) (by rw [hhead]; exact hreach) hfit'
    (by rw [hhead]; exact hhomes) hg ⟨hsb, hamo⟩
  obtain ⟨hdue, -, hgroup⟩ := gangSent_due ((s.produce k d).putGroup g (s.newGroup p (cores.headD 0) e.launch cores.length cores.length)) p l
    (gangMsg p d w [a1, a2, a3, a4] e.launch g) (fun cm => 2 * (cores.map (fun x => s.oneway p.core x)).foldl max 1 + s.oneway p.core cm.1) cores.zipIdx
  refine ⟨_, s.newGroup p (cores.headD 0) e.launch cores.length cores.length, 2 * (cores.map (fun x => s.oneway p.core x)).foldl max 1, hsends,
    (hgroup g).trans (tget_tput_self ..), hlen, hhead, hlen, fun i hi => ?_⟩
  exact ⟨gangMsg p d w [a1, a2, a3, a4] e.launch g (core i, i), rfl, rfl, rfl, rfl, rfl, hdue _ (hget i hi)⟩

/-- Settles O27: SPAWN and GANG by the checks they make, in order, and by what START finds at the core. -/
theorem processesStart : Obligations.ProcessesStart := ⟨spawnSendsStart, startCreates, gangStartsMembers⟩

end Sys2Proof.Machine
end

section
/-! PROOFS. Notifications, TRAPW and QUIESCE (06 R164, R165). -/

namespace Sys2Proof.Machine

/-! ### TRAPW and the notifications of a supervisor (06 R164) -/

section
variable {s : State} {k : Nat} {p : Proc} {d : Reg} {w : BitVec 1}

/-- With no notification held none follows. -/
theorem nextNote_of_nil (h : s.heldNotes = []) (sup way : Nat) : s.nextNote sup way = s := by
  unfold State.nextNote
  rw [h]
  rfl

theorem nextNote_rest (s : State) (sup way : Nat) : { s.nextNote sup way with agenda := s.agenda } = s := by
  unfold State.nextNote
  split
  · rfl
  · split <;> rfl

theorem supervisesLive_false {name : Nat} (h : ∀ e ∈ s.groups, e.2.supervisor = name → e.2.live = [] ∧ e.2.pending = 0) :
    s.supervisesLive name = false :=
  List.any_eq_false.2 fun e he => by
    by_cases hs : e.2.supervisor = name
    · obtain ⟨hl, hp⟩ := h e he hs
      simp [hl, hp]
    · simp [hs]

theorem supervisesLive_true {name : Nat} (h : ∃ e ∈ s.groups, e.2.supervisor = name ∧ e.2.live ≠ []) : s.supervisesLive name = true := by
  obtain ⟨e, he, hs, hl⟩ := h
  exact List.any_eq_true.2 ⟨e, he, by simp [hs, hl]⟩

/-- The state in which TRAPW retires with the oldest notification: the next one that is held follows into the freed place. -/
def State.noteTaken (s : State) (p : Proc) (rest : List Word) : State :=
  ({ s with supq := tput s.supq p.name rest } : State).nextNote p.name
    (match (s.heldNotes.find? (fun h => h.1 == p.name)).bind (fun h => s.named (noteName h.2)) with
      | some (_, q) => s.oneway q.core p.core
      | none => 1)

theorem trapw_takes (h : s.Issues k p) (ht : s.Takes p [d]) (hl : 1 ≤ p.level) {n : Word} {rest : List Word} (hq : tgetD s.supq p.name [] = n :: rest) :
    exec (.trapw d w) s = .next ((s.noteTaken p rest).retire k 0 [(d, n)]) := by
  refine (onCur_next h _).trans ?_
  rw [needS_ok hl, issue_ok (gives_nil s p) ht]
  simp only [hq]
  rfl

theorem trapw_none (h : s.Issues k p) (ht : s.Takes p [d]) (hl : 1 ≤ p.level) (hq : tgetD s.supq p.name [] = [])
    (hno : w = 1 ∨ s.supervisesLive p.name = false) : exec (.trapw d w) s = .next (s.retire k 0 [(d, BitVec.allOnes 64)]) := by
  refine (onCur_next h _).trans ?_
  rw [needS_ok hl, issue_ok (gives_nil s p) ht]
  simp only [hq]
  rw [if_pos]
  · rfl
  · obtain h1 | h0 := hno
    · rw [h1]; rfl
    · rw [h0]; exact Bool.or_true _

theorem trapw_waits (h : s.Issues k p) (ht : s.Takes p [d]) (hl : 1 ≤ p.level) (hq : tgetD s.supq p.name [] = [])
    (hw : w = 0) (hlive : s.supervisesLive p.name = true) :
    ∃ (t : State) (q : Proc), exec (.trapw d w) s = .next t ∧ t.proc k = some q ∧ q.st = .blocked ∧ q.wait = .trapw ∧ q.pc = p.pc := by
  have hexec : exec (.trapw d w) s = .next ((s.block k .trapw).modProc k (fun q => { q with
      hold := some { consume := consumeMask p [], dst := some d, issuedAt := s.cycle } })) := by
    refine (onCur_next h _).trans ?_
    rw [needS_ok hl, issue_ok (gives_nil s p) ht]
    simp only [hq, hlive, hw]
    rfl
  refine ⟨_, { p.blockedFor .trapw s.cycle with hold := some { consume := consumeMask p [], dst := some d, issuedAt := s.cycle } }, hexec, ?_, rfl, rfl, rfl⟩
  rw [proc_modProc (block_proc h.2 _), if_pos rfl]
end

section
variable {s : State} {name sup ks : Nat} {q : Proc} {note : Word}

/-- The only notification under way is delivered to a supervisor that does not wait for one. -/
theorem notificationDelivery_queues (hh : s.heldNotes = [(sup, note)]) (hn : note.toNat % 2 ^ 40 = name) (hs : s.named sup = some (ks, q))
    (hw : q.wait ≠ .trapw) : notificationDelivery name s = if (tgetD s.supq sup []).length < 16 then
      { s with heldNotes := [], supq := tput s.supq sup (tgetD s.supq sup [] ++ [note]) } else s := by
  have hname : (noteName note == name) = true := beq_iff_eq.2 hn
  have herase : s.heldNotes.erase (sup, note) = [] := by rw [hh, List.erase_cons_head]
  unfold notificationDelivery
  simp only [hh, List.find?_cons, hname, hs, beq_self_eq_true, bne_self_eq_false, Bool.false_eq_true, if_false]
  rw [hh] at herase
  simp only [herase]
  split
  · next hq _ => exact absurd hq hw
  · split
    · exact nextNote_of_nil rfl ..
    · rfl

/-- The only notification under way ends the TRAPW of a supervisor that waits for it. -/
theorem notificationDelivery_completes (hh : s.heldNotes = [(sup, note)]) (hn : note.toNat % 2 ^ 40 = name) (hs : s.named sup = some (ks, q))
    (hw : q.wait = .trapw) {h : Hold} {d : Reg} (hhold : q.hold = some h) (hd : h.dst = some d) :
    notificationDelivery name s = (({ s with heldNotes := [] } : State).retire ks h.consume [(d, note)]).ready ks := by
  have hname : (noteName note == name) = true := beq_iff_eq.2 hn
  have hproc : ({ s with heldNotes := [] } : State).proc ks = some q := proc_of_named hs
  have hnil : ((({ s with heldNotes := [] } : State).retire ks h.consume [(d, note)]).ready ks).heldNotes = [] := by
    have hready := ready_rest (({ s with heldNotes := [] } : State).retire ks h.consume [(d, note)]) ks
    have hret := (State.AtPorts.retire { s with heldNotes := [] } ks h.consume [(d, note)]).2
    exact (congrArg State.heldNotes hready :).trans (congrArg State.heldNotes hret :)
  unfold notificationDelivery
  simp only [hh, List.find?_cons, hname, hs, beq_self_eq_true, bne_self_eq_false, Bool.false_eq_true, if_false, List.erase_cons_head, hw, hhold, hd]
  rw [complete_eq hproc hhold]
  exact nextNote_of_nil hnil ..
end

theorem notifications : Claims.Notifications := by
  refine ⟨fun s k p d w h ht => ⟨?priv, ?takes, ?none, ?waits⟩, fun s name sup ks q note hh hn hs => ⟨?queues, ?full, ?ends⟩⟩
  case priv =>
    intro hl
    refine (onCur_next h _).trans ?_
    rw [needS_priv (by omega)]
  case takes =>
    intro n rest hl hq
    refine ⟨_, trapw_takes h ht hl hq, ?_, ?_⟩
    · exact (congrArg (fun x => tgetD x p.name []) (congrArg State.supq (nextNote_rest { s with supq := tput s.supq p.name rest } _ _) :)).trans
        (tgetD_tput_self ..)
    · exact (congrArg State.procs (nextNote_rest { s with supq := tput s.supq p.name rest } _ _) :)
  case none => exact fun hl hq hno => trapw_none h ht hl hq (hno.imp id supervisesLive_false)
  case waits => exact fun hl hq hw hlive => trapw_waits h ht hl hq hw (supervisesLive_true hlive)
  case queues =>
    intro hw hlen
    refine ⟨_, congrArg Host.Outcome.next ((notificationDelivery_queues hh hn hs hw).trans (if_pos hlen)), tgetD_tput_self .., rfl, rfl⟩
  case full =>
    exact fun hw hlen => congrArg Host.Outcome.next ((notificationDelivery_queues hh hn hs hw).trans (if_neg (Nat.not_lt.2 hlen)))
  case ends =>
    exact fun h d hw hhold hd => ⟨_, congrArg Host.Outcome.next (notificationDelivery_completes hh hn hs hw hhold hd), rfl, rfl⟩

/-! ### Changes of the processes one by one -/

/-- The entries of a key after a change at another. -/
theorem filter_tput_ne {α : Type} (t : Tab α) {i j : Nat} (v : α) (h : j ≠ i) :
    (tput t i v).filter (fun e => e.1 == j) = t.filter (fun e => e.1 == j) := by
  have hij : (i == j) = false := by simpa using Ne.symm h
  induction t with
  | nil => simp [tput, hij]
  | cons e t ih =>
    obtain ⟨k, w⟩ := e
    unfold tput
    by_cases h1 : k < i
    · rw [if_pos h1, List.filter_cons, List.filter_cons, ih]
    · rw [if_neg h1]
      by_cases h2 : k = i
      · subst h2
        simp [hij]
      · rw [if_neg h2, List.filter_cons, hij]
        rfl

/-- The only entry of a key. -/
theorem filter_key {α : Type} (t : Tab α) (hn : (t.map Prod.fst).Nodup) {j : Nat} {v : α} (h : tget t j = some v) :
    t.filter (fun e => e.1 == j) = [(j, v)] := by
  induction t with
  | nil => simp [tget] at h
  | cons e t ih =>
    obtain ⟨k, w⟩ := e
    simp only [List.map_cons, List.nodup_cons] at hn
    unfold tget at h
    by_cases hk : k = j
    · rw [if_pos hk] at h
      obtain rfl := Option.some.inj h
      subst hk
      have hnone : t.filter (fun e => e.1 == k) = [] :=
        List.filter_eq_nil_iff.2 fun e he hek => hn.1 (List.mem_map.2 ⟨e, he, by simpa using hek⟩)
      simp [hnone]
    · rw [if_neg hk] at h
      simp [hk, ih hn.2 h]

/-- Of changes that each concern one process, a process sees its own only. -/
theorem foldl_own {f : State → Nat × Proc → State} {j : Nat} (hne : ∀ v e, e.1 ≠ j → (f v e).proc j = v.proc j) :
    ∀ (l : List (Nat × Proc)) (t : State), l.filter (fun e => e.1 == j) = [] → (l.foldl f t).proc j = t.proc j := by
  intro l
  induction l with
  | nil => intro t _; rfl
  | cons e l ih =>
    intro t h
    rw [List.filter_cons] at h
    split at h
    · exact absurd h (List.cons_ne_nil _ _)
    · next he => rw [List.foldl_cons, ih _ h, hne _ _ (by simpa using he)]

theorem foldl_once_own {f : State → Nat × Proc → State} {j : Nat} {x : Nat × Proc} (hne : ∀ v e, e.1 ≠ j → (f v e).proc j = v.proc j) :
    ∀ (l : List (Nat × Proc)) (t : State), l.filter (fun e => e.1 == j) = [x] →
      ∃ v : State, v.proc j = t.proc j ∧ (l.foldl f t).proc j = (f v x).proc j := by
  intro l
  induction l with
  | nil => intro t h; exact absurd h (by simp)
  | cons e l ih =>
    intro t h
    rw [List.filter_cons] at h
    split at h
    · obtain ⟨rfl, hl⟩ := List.cons.inj h
      exact ⟨t, rfl, by rw [List.foldl_cons, foldl_own hne _ _ hl]⟩
    · next he =>
      obtain ⟨v, hv, hf⟩ := ih (f t e) h
      exact ⟨v, hv.trans (hne _ _ (by simpa using he)), by rw [List.foldl_cons, hf]⟩

/-- A new producer changes its own process. -/
theorem produce_procs {s : State} {k : Nat} {p : Proc} (h : s.proc k = some p) (r : Reg) :
    (s.produce k r).procs = tput s.procs k (p.withProducer r (p.nextTag r)) := by
  unfold State.produce State.produceAs
  simp only [h]
  split <;> rfl

/-! ### QUIESCE and QUIESCE.R (06 R165) -/

/-- What QUIESCE makes of one process of the region: one that is not at rest, and that no QUIESCE asks to stop yet, is asked. -/
def State.askStop (fs : List Nat) (v : State) (e : Nat × Proc) : State :=
  if e.2.st == .trapped || e.2.st == .suspended || e.2.st == .migrating || e.2.quiesced.isSome then v
  else v.modProc e.1 (fun q => { q with suspend := q.suspend ++ [noFill], quiesced := some (rectangleId fs) })

/-- What QUIESCE.R makes of one process of the region: one that its QUIESCE has asked goes on. -/
def State.letGo (fs : List Nat) (v : State) (e : Nat × Proc) : State :=
  match v.proc e.1 with
  | some q =>
    if q.quiesced != some (rectangleId fs) then v
    else if q.st == .suspended then (v.resume e.1 q).getD v
    else v.putProc e.1 { q with quiesced := none, suspend := q.suspend.erase noFill }
  | none => v

theorem modProc_proc_ne (v : State) {i j : Nat} (f : Proc → Proc) (h : i ≠ j) : (v.modProc i f).proc j = v.proc j := by
  unfold State.modProc
  split
  · rw [proc_putProc, if_neg (Ne.symm h)]
  · rfl

theorem modProc_rest (v : State) (i : Nat) (f : Proc → Proc) : { v.modProc i f with procs := v.procs } = v := by
  unfold State.modProc
  split <;> rfl

theorem askStop_proc_ne (fs : List Nat) (v : State) (e : Nat × Proc) {j : Nat} (h : e.1 ≠ j) : (v.askStop fs e).proc j = v.proc j := by
  unfold State.askStop
  split
  · rfl
  · exact modProc_proc_ne v _ h

theorem askStop_rest (fs : List Nat) (v : State) (e : Nat × Proc) : { v.askStop fs e with procs := v.procs } = v := by
  unfold State.askStop
  split
  · rfl
  · exact modProc_rest ..

theorem askStop_proc {fs : List Nat} {v : State} {j : Nat} {q : Proc} (h : v.proc j = some q)
    (hst : q.st ∈ [.ready, .resident, .parked, .blocked, .sleeping]) (hq : q.quiesced = none) :
    (v.askStop fs (j, q)).proc j = some { q with suspend := q.suspend ++ [noFill], quiesced := some (rectangleId fs) } := by
  have hno : (q.st == .trapped || q.st == .suspended || q.st == .migrating || q.quiesced.isSome) = false := by
    simp only [List.mem_cons, List.not_mem_nil, or_false] at hst
    obtain h | h | h | h | h := hst <;> rw [h, hq] <;> rfl
  rw [State.askStop, hno]
  exact (proc_modProc h _ j).trans (if_pos rfl)

/-- What RESM leaves as it is: the other processes, and of the machine all but the events in flight and the pens. -/
theorem resume_rest {v t : State} {i : Nat} {q : Proc} (h : v.resume i q = some t) :
    (∀ j, i ≠ j → t.proc j = v.proc j) ∧ { t with procs := v.procs, agenda := v.agenda, cores := v.cores } = v := by
  have hput : ∀ r j, i ≠ j → (v.putProc i r).proc j = v.proc j := fun r j hj => by rw [proc_putProc, if_neg (Ne.symm hj)]
  have hblocked : ∀ r, (∀ j, i ≠ j → ((v.putProc i r).enterBlocked i).proc j = v.proc j) ∧
      { (v.putProc i r).enterBlocked i with procs := v.procs, agenda := v.agenda, cores := v.cores } = v := by
    refine fun r => ⟨fun j hj => (enterBlocked_proc_ne _ (Ne.symm hj)).trans (hput r j hj), ?_⟩
    unfold State.enterBlocked State.armProbe
    rw [modProc_eq (State.putProc_proc_self v i r)]
    simp only [State.putProc_proc_self]
    exact (congrArg (fun u : State => { u with procs := v.procs, cores := v.cores }) (setProbe_rest _ _) :)
  unfold State.resume at h
  split at h
  · dsimp only at h
    split at h
    · obtain rfl := Option.some.inj h
      exact hblocked _
    · split at h
      · obtain rfl := Option.some.inj h
        exact ⟨hput _, rfl⟩
      · obtain rfl := Option.some.inj h
        exact ⟨hput _, rfl⟩
  · obtain rfl := Option.some.inj h
    exact ⟨hput _, rfl⟩
  · exact absurd h (by simp)

theorem letGo_rest (fs : List Nat) (v : State) (e : Nat × Proc) :
    (∀ j, e.1 ≠ j → (v.letGo fs e).proc j = v.proc j) ∧ { v.letGo fs e with procs := v.procs, agenda := v.agenda, cores := v.cores } = v := by
  unfold State.letGo
  split
  · next q hq =>
    split
    · exact ⟨fun _ _ => rfl, rfl⟩
    · split
      · cases hr : v.resume e.1 q with
        | none => exact ⟨fun _ _ => rfl, rfl⟩
        | some t => exact resume_rest hr
      · exact ⟨fun j hj => by rw [proc_putProc, if_neg (Ne.symm hj)], rfl⟩
  · exact ⟨fun _ _ => rfl, rfl⟩

/-- A process that was READY when it was suspended is READY again, and its instruction is tried again. -/
def Proc.goesOn (q : Proc) : Proc := { ({ q with latch := false, quiesced := none } : Proc).dropHold with st := .ready, wait := .none }

theorem resume_ready (v : State) (j : Nat) {q : Proc} (hst : q.st = .suspended) (hprev : q.prev = .ready) :
    v.resume j q = some ((v.putProc j q.goesOn).toPen q) := by
  unfold State.resume
  split
  · dsimp only
    rw [if_neg (by simp [hprev]), if_neg (by simp [hprev])]
    rfl
  · next h => rw [hst] at h; cases h
  · next h _ => exact absurd hst h

/-- A process that was READY when its QUIESCE stopped it is READY again. -/
theorem letGo_proc {fs : List Nat} {v : State} {j : Nat} {q : Proc} (h : v.proc j = some q) (hq : q.quiesced = some (rectangleId fs))
    (hst : q.st = .suspended) (hprev : q.prev = .ready) (x : Proc) : ∃ r, (v.letGo fs (j, x)).proc j = some r ∧ r.st = .ready ∧ r.quiesced = none := by
  have hdrop := dropHold_rest { q with latch := false, quiesced := none }
  refine ⟨q.goesOn, ?_, rfl, (congrArg Proc.quiesced hdrop :)⟩
  have hgo : v.letGo fs (j, x) = (v.putProc j q.goesOn).toPen q := by
    simp only [State.letGo, h]
    rw [hq, bne_self_eq_false, if_neg (by decide), if_pos (by rw [hst]; rfl), resume_ready v j hst hprev]
    rfl
  rw [hgo]
  exact State.putProc_proc_self ..

theorem askStop_quiet (fs : List Nat) (v : State) (e : Nat × Proc) : (v.askStop fs e).quiet = v.quiet := (congrArg State.quiet (askStop_rest fs v e) :)
theorem letGo_quiet (fs : List Nat) (v : State) (e : Nat × Proc) : (v.letGo fs e).quiet = v.quiet := (congrArg State.quiet (letGo_rest fs v e).2 :)

/-- Changes of the region's processes leave what each of them leaves. -/
theorem foldl_quiet {f : State → Nat × Proc → State} (hf : ∀ v e, (f v e).quiet = v.quiet) (l : List (Nat × Proc)) (t : State) :
    (l.foldl f t).quiet = t.quiet := by
  induction l generalizing t with
  | nil => rfl
  | cons e l ih => rw [List.foldl_cons, ih, hf]

section
variable {s : State} {k : Nat} {p : Proc} {d : Reg} {a b : Src} {x y : Word}

/-- The only entry of a process that QUIESCE sees in its region, but for that of its issuer. -/
theorem inFolds_key (hk : s.proc k = some p) (hn : (s.procs.map Prod.fst).Nodup) (fs : List Nat) {j : Nat} {q : Proc} (hj : j ≠ k)
    (hq : s.proc j = some q) (hf : foldOf (j / 256) ∈ fs) : ((s.produce k d).inFolds fs).filter (fun e => e.1 == j) = [(j, q)] := by
  unfold State.inFolds
  rw [List.filter_comm, produce_procs hk, filter_tput_ne _ _ hj, filter_key _ hn hq]
  simp [hf]

/-- Changes of the region's processes, of which another process than the issuer's sees its own. -/
theorem inFolds_foldl {f : State → Nat × Proc → State} (hne : ∀ v e j, e.1 ≠ j → (f v e).proc j = v.proc j) (hk : s.proc k = some p)
    (hn : (s.procs.map Prod.fst).Nodup) (fs : List Nat) {j : Nat} {q : Proc} (hj : j ≠ k) (hq : s.proc j = some q) (hf : foldOf (j / 256) ∈ fs) :
    ∃ v : State, v.proc j = some q ∧ (((s.produce k d).inFolds fs).foldl f (s.produce k d)).proc j = (f v (j, q)).proc j := by
  obtain ⟨v, hv, hfold⟩ := foldl_once_own (fun v e he => hne v e j he) _ (s.produce k d) (inFolds_key (d := d) hk hn fs hj hq hf)
  refine ⟨v, hv.trans ?_, hfold⟩
  unfold State.proc
  rw [produce_procs hk, tget_tput_ne _ _ hj]
  exact hq

theorem quiesceInsn_dies (hx : coreIdOk x.toNat = true) (hy : coreIdOk y.toNat = true) (hd : dieOf x.toNat ≠ dieOf y.toNat) (c : BitVec 16)
    (act : State → List Nat → State) : s.quiesceInsn k p d [x, y] c act = s.denied k p d c 10 := by
  unfold State.quiesceInsn
  simp only [List.getD_cons_zero, List.getD_cons_succ, hx, hy, hd, Bool.not_true, Bool.false_eq_true, if_false, ne_eq, not_false_eq_true, if_true]
  rfl

theorem quiesceInsn_acts (hx : coreIdOk x.toNat = true) (hy : coreIdOk y.toNat = true) (hd : dieOf x.toNat = dieOf y.toNat) (hl : p.level = 2)
    (c : BitVec 16) (act : State → List Nat → State) :
    s.quiesceInsn k p d [x, y] c act = (act (s.produce k d) (rectangle (foldOf x.toNat) (foldOf y.toNat))).retire k c [] := by
  unfold State.quiesceInsn
  simp only [List.getD_cons_zero, List.getD_cons_succ, hx, hy, hd, hl, Bool.not_true, Bool.false_eq_true, if_false, ne_eq, not_true_eq_false, decide_false,
    Bool.false_and]

/-- The state in which QUIESCE retires. -/
def State.quiesced (s : State) (k : Nat) (p : Proc) (d : Reg) (fs : List Nat) : State :=
  let u := ((s.produce k d).inFolds fs).foldl (State.askStop fs) (s.produce k d)
  ({ u with quiet := u.quiet ++ [(p.name, fs, s.cycle)] } : State).after 64 (.quiesceStill (p.dest d))

/-- The state in which QUIESCE.R retires. -/
def State.unquiesced (s : State) (k : Nat) (p : Proc) (d : Reg) (fs : List Nat) : State :=
  let u := ((s.produce k d).inFolds fs).foldl (State.letGo fs) (s.produce k d)
  ({ u with quiet := u.quiet.filter (fun x => x.2.1 != fs) } : State).after 1 (.fill (p.dest d) 0)

theorem exec_quiesce (h : s.Runs k p [srcField a 0, srcField b 1] [x, y] [d]) (hout : d ≠ 0 → (p.cell d).out < 3) (hl : 1 ≤ p.level) :
    exec (.quiesce d a b) s = .next (s.quiesceInsn k p d [x, y] (consumeMask p [srcField a 0, srcField b 1]) (fun t fs =>
      let u := (t.inFolds fs).foldl (State.askStop fs) t
      ({ u with quiet := u.quiet ++ [(p.name, fs, s.cycle)] } : State).after 64 (.quiesceStill (p.dest d)))) := by
  refine (onCur_next h.1 _).trans ?_
  rw [needS_ok hl, issueFill_ok h.2.1 h.2.2 hout]
  rfl

theorem exec_quiesceR (h : s.Runs k p [srcField a 0, srcField b 1] [x, y] [d]) (hout : d ≠ 0 → (p.cell d).out < 3) (hl : 1 ≤ p.level) :
    exec (.quiesceR d a b) s = .next (s.quiesceInsn k p d [x, y] (consumeMask p [srcField a 0, srcField b 1]) (fun t fs =>
      let u := (t.inFolds fs).foldl (State.letGo fs) t
      ({ u with quiet := u.quiet.filter (fun x => x.2.1 != fs) } : State).after 1 (.fill (p.dest d) 0))) := by
  refine (onCur_next h.1 _).trans ?_
  rw [needS_ok hl, issueFill_ok h.2.1 h.2.2 hout]
  rfl

theorem produce_quiet (s : State) (k : Nat) (d : Reg) : (s.produce k d).quiet = s.quiet := (congrArg State.quiet (stateProduce_rest s k d) :)
end

/-- QUIESCE_STILL where only the issuer's region is watched. -/
theorem quiesceStill_one {s : State} {d : FillTo} {fs : List Nat} {c : Nat} (hq : s.quiet = [(d.name, fs, c)]) :
    (s.stirs fs = false → c + 64 ≤ s.cycle → quiesceStill d s = fill d 0 s) ∧
    (s.stirs fs = true → quiesceStill d s = ({ s with quiet := [(d.name, fs, s.cycle)] } : State).after 1 (.quiesceStill d)) := by
  unfold quiesceStill
  refine ⟨fun hst hc => ?_, fun hst => ?_⟩
  · simp only [hq, hst, List.find?_cons, beq_self_eq_true, List.map_cons, List.map_nil, Bool.and_false, Bool.false_eq_true, if_false, List.all_cons,
      List.all_nil, bne_self_eq_false, Bool.false_or, Bool.and_true, hc, decide_true, if_true]
    rw [← hq]
  · have hlate : ¬ s.cycle + 64 ≤ s.cycle := by omega
    simp only [hq, hst, List.find?_cons, beq_self_eq_true, List.map_cons, List.map_nil, Bool.and_true, if_true, List.all_cons,
      List.all_nil, bne_self_eq_false, Bool.false_or, hlate, decide_false, Bool.false_eq_true, if_false]

theorem quiescence : Claims.Quiescence := by
  refine ⟨fun s k p d a b x y h hout hl hx hy hn => ⟨fun hd i hi => ?dies, fun hd hm => ⟨?stops, ?goesOn⟩⟩, fun s d fs c hq => ⟨?still, ?stirs⟩⟩
  case dies =>
    simp only [List.mem_cons, List.not_mem_nil, or_false] at hi
    obtain rfl | rfl := hi
    · rw [exec_quiesce h hout hl, quiesceInsn_dies hx hy hd]
      rfl
    · rw [exec_quiesceR h hout hl, quiesceInsn_dies hx hy hd]
      rfl
  case stops =>
    let fs := rectangle (foldOf x.toNat) (foldOf y.toNat)
    refine ⟨s.quiesced k p d fs, ?_, dueIn_after .., ?_, fun j q hj hq hf hst hno => ?_⟩
    · rw [exec_quiesce h hout hl, quiesceInsn_acts hx hy hd hm]
      rfl
    · show State.quiet _ ++ _ = _
      rw [foldl_quiet (askStop_quiet fs), produce_quiet]
    · obtain ⟨v, hv, hfold⟩ := inFolds_foldl (d := d) (fun v e _ he => askStop_proc_ne fs v e he) h.1.2 hn fs hj hq hf
      exact ⟨_, hfold.trans (askStop_proc hv hst hno), rfl, rfl⟩
  case goesOn =>
    let fs := rectangle (foldOf x.toNat) (foldOf y.toNat)
    refine ⟨s.unquiesced k p d fs, ?_, dueIn_after .., fun z => ?_, fun j q hj hq hf hid hst hprev => ?_⟩
    · rw [exec_quiesceR h hout hl, quiesceInsn_acts hx hy hd hm]
      rfl
    · show z ∈ List.filter _ (State.quiet _) ↔ _
      rw [foldl_quiet (letGo_quiet fs), produce_quiet, List.mem_filter]
      simp [fs]
    · obtain ⟨v, hv, hfold⟩ := inFolds_foldl (d := d) (fun v e j he => (letGo_rest fs v e).1 j he) h.1.2 hn fs hj hq hf
      obtain ⟨r, hr, hready, hnone⟩ := letGo_proc hv hid hst hprev q
      exact ⟨r, hfold.trans hr, hready, hnone⟩
  case still => exact fun hst hc => congrArg Host.Outcome.next ((quiesceStill_one hq).1 hst hc)
  case stirs => exact fun hst => ⟨_, congrArg Host.Outcome.next ((quiesceStill_one hq).2 hst), dueIn_after .., rfl⟩

/-- Settles O29: a notification is delivered by what its supervisor waits for, and QUIESCE changes each process of its region once. -/
theorem supervision : Obligations.Supervision := ⟨notifications, quiescence⟩

end Sys2Proof.Machine
end

section
/-! PROOFS. A process in transit lands or is refused; forwarding entries (06 R166, R167). -/

namespace Sys2Proof.Machine

/-! ### What leaves the tables of ends, groups, names and launches as they are -/

/-- From s to t the endpoint tables, the groups, the directory of names and the launch tables have stayed. -/
def State.KeepsTables (s t : State) : Prop := t.eps = s.eps ∧ t.groups = s.groups ∧ t.dir = s.dir ∧ t.ltab = s.ltab

namespace State.KeepsTables

variable {s t u : State}

theorem refl (s : State) : s.KeepsTables s := ⟨rfl, rfl, rfl, rfl⟩
theorem trans (h : s.KeepsTables t) (g : t.KeepsTables u) : s.KeepsTables u :=
  ⟨g.1.trans h.1, g.2.1.trans h.2.1, g.2.2.1.trans h.2.2.1, g.2.2.2.trans h.2.2.2⟩

theorem foldl {α : Type} {f : State → α → State} (h : ∀ (t : State) (x : α), t.KeepsTables (f t x)) (l : List α) (t : State) : t.KeepsTables (l.foldl f t) := by
  induction l generalizing t with
  | nil => exact refl t
  | cons x l ih => exact (h t x).trans (ih _)

theorem ite {c : Prop} [Decidable c] (h : s.KeepsTables t) (g : s.KeepsTables u) : s.KeepsTables (if c then t else u) := by
  split
  · exact h
  · exact g

theorem modNamed (t : State) (name : Nat) {f : Nat → Proc → State → State} (h : ∀ k p, t.KeepsTables (f k p t)) : t.KeepsTables (t.modNamed name f) := by
  unfold State.modNamed
  split
  · exact h _ _
  · exact refl t

theorem modProc (t : State) (k : Nat) (f : Proc → Proc) : t.KeepsTables (t.modProc k f) := by
  unfold State.modProc
  split <;> exact ⟨rfl, rfl, rfl, rfl⟩

theorem raise (t : State) (k cause : Nat) (v : Word) : t.KeepsTables (t.raise k cause v) :=
  ⟨(congrArg State.eps (raise_rest t k cause v) :), (congrArg State.groups (raise_rest t k cause v) :), (congrArg State.dir (raise_rest t k cause v) :),
    (congrArg State.ltab (raise_rest t k cause v) :)⟩

/-! The record that leaves a core -/

theorem leaveRecord (t : State) (p : Proc) : t.KeepsTables (t.leaveRecord p) := by
  unfold State.leaveRecord
  refine (foldl (fun u i => ?_) _ t).trans (foldl (fun u i => ?_) _ _)
  · exact ⟨rfl, rfl, rfl, rfl⟩
  · split
    · exact ⟨rfl, rfl, rfl, rfl⟩
    · exact refl u

theorem outOfPens (t : State) (p : Proc) : t.KeepsTables (t.outOfPens p) := ⟨rfl, rfl, rfl, rfl⟩

theorem returnSlot (t : State) (k : Nat) : t.KeepsTables (t.returnSlot k) := by
  unfold State.returnSlot
  split
  · split
    · split
      · exact KeepsTables.trans ⟨rfl, rfl, rfl, rfl⟩ (modProc ..)
      · exact modProc ..
    · exact refl t
  · exact refl t

theorem refuseWaiting (t : State) (c i : Nat) : t.KeepsTables (t.refuseWaiting c i) := by
  unfold State.refuseWaiting
  refine KeepsTables.trans (t := { t with xwrs := _ }) ⟨rfl, rfl, rfl, rfl⟩ (foldl (fun u x => ?_) _ _)
  refine modNamed u _ fun k p => ?_
  exact ite (KeepsTables.trans ⟨rfl, rfl, rfl, rfl⟩ (raise ..)) (refl u)

theorem stopStore (t : State) (k : Nat) (p : Proc) (va : Nat) : t.KeepsTables (t.stopStore k p va) := by
  unfold State.stopStore
  dsimp only
  split
  · exact ⟨rfl, rfl, rfl, rfl⟩
  · split <;> exact ⟨rfl, rfl, rfl, rfl⟩

theorem settle (t : State) (name : Nat) : t.KeepsTables (t.settle name) :=
  modNamed t _ fun _ _ => ite ⟨rfl, rfl, rfl, rfl⟩ (refl t)

theorem sfqWrite (t : State) (c : Nat) (e : SbEntry) (cause : Nat) : t.KeepsTables (t.sfqWrite c e cause) := by
  unfold State.sfqWrite
  split
  · exact ⟨rfl, rfl, rfl, rfl⟩
  · dsimp only
    refine ite ⟨rfl, rfl, rfl, rfl⟩ ?_
    refine KeepsTables.trans (ite ?_ ?_) (settle ..)
    · exact KeepsTables.trans ⟨rfl, rfl, rfl, rfl⟩ (stopStore ..)
    · exact ⟨rfl, rfl, rfl, rfl⟩

theorem sfqRecord (t : State) (c : Nat) (e : SbEntry) (cause : Nat) : t.KeepsTables (t.sfqRecord c e cause) := by
  unfold State.sfqRecord
  refine ite (sfqWrite ..) (KeepsTables.trans (t := t.modSb c e.id (fun x => { x with stuck := some cause })) ⟨rfl, rfl, rfl, rfl⟩ ?_)
  unfold State.settleBatch
  dsimp only
  split
  · have hdrop : ∀ (v : State) (l : List SbEntry), v.KeepsTables (l.foldl (fun u x => u.dropSb c x.id) v) := by
      refine fun v l => foldl (fun u x => ?_) l v
      exact ⟨rfl, rfl, rfl, rfl⟩
    exact ite ((hdrop ..).trans (sfqWrite ..)) (hdrop ..)
  · exact refl _

theorem removeRecord (t : State) (k : Nat) (p : Proc) : t.KeepsTables (t.removeRecord k p) := by
  unfold State.removeRecord
  dsimp only
  have hrecord : ∀ (v : State) (l : List SbEntry),
      v.KeepsTables (l.foldl (fun w e => w.sfqRecord p.core { e with stuck := none } (e.stuck.getD causeStoreFault)) v) := by
    refine fun v l => foldl (fun w e => ?_) l v
    exact sfqRecord ..
  have hput : ∀ (v : State) f g fold ps due, v.KeepsTables { (v.modCore p.core f).modFold fold g with procs := ps, onceDue := due } :=
    fun v f g fold ps due => ⟨rfl, rfl, rfl, rfl⟩
  have hslot : ∀ v : State, v.KeepsTables ((v.modSlot p.slotKey (fun x => { x with occ := none })).refuseWaiting p.core p.slot) := fun v =>
    KeepsTables.trans (t := v.modSlot p.slotKey (fun x => { x with occ := none })) ⟨rfl, rfl, rfl, rfl⟩ (refuseWaiting ..)
  have hleave : t.KeepsTables (((t.leaveRecord p).outOfPens p).returnSlot k) :=
    KeepsTables.trans (KeepsTables.trans (leaveRecord t p) (outOfPens ..)) (returnSlot ..)
  exact ((hleave.trans (ite (hslot _) (refl _))).trans (hput ..)).trans (hrecord ..)

/-! What a process leaves behind at its core when it moves -/

theorem putStream (t : State) (c n : Nat) (bs : List Byte) : t.KeepsTables (t.putStream c n bs) := by
  unfold State.putStream
  have hrows : ∀ (l : List Nat) (a : Nat → Nat) (b : Nat → List Byte), t.KeepsTables (l.foldl (fun u r => u.writeMem (a r) (b r)) t) := by
    refine fun l a b => foldl (fun u r => ?_) l t
    exact ⟨rfl, rfl, rfl, rfl⟩
  have hscale : ∀ (v : State) a b, v.KeepsTables (v.writeMem a b) := fun v a b => ⟨rfl, rfl, rfl, rfl⟩
  exact ite (hrows ..) ((hrows ..).trans (hscale ..))

theorem freeBanks (t : State) (p : Proc) : t.KeepsTables (t.freeBanks p) := by
  refine foldl (fun u k => ?_) _ t
  have hdrain : ∀ (v : State), u.KeepsTables v → ∀ f, u.KeepsTables (v.modBank p.core k f) := fun v hv f => hv.trans ⟨rfl, rfl, rfl, rfl⟩
  refine hdrain _ ?_ _
  split
  · exact ite (KeepsTables.trans (putStream ..) ⟨rfl, rfl, rfl, rfl⟩) (refl u)
  · exact refl u

theorem moveTiles (t : State) (p : Proc) (c : Nat) : t.KeepsTables (t.moveTiles p c) := by
  refine KeepsTables.trans (foldl (fun u n => ?_) _ t) (freeBanks ..)
  dsimp only
  exact ite ⟨rfl, rfl, rfl, rfl⟩ (refl u)

theorem moveReports (t : State) (p : Proc) (c : Nat) : t.KeepsTables (t.moveReports p c) := by
  unfold State.moveReports
  exact ⟨rfl, rfl, rfl, rfl⟩

theorem endsOf (h : s.KeepsTables t) (name : Nat) : t.endsOf name = s.endsOf name := by
  unfold State.endsOf
  rw [h.1]

theorem group? (h : s.KeepsTables t) (g : Nat) : t.group? g = s.group? g := by
  unfold State.group?
  rw [h.2.1]

end State.KeepsTables

/-! ### A process without ends moves (06 R166) -/

section
variable {s : State} {p : Proc}

theorem moveEnds_none (h : s.endsOf p.name = []) (c : Nat) : s.moveEnds p c = some s := by
  unfold State.moveEnds
  rw [h]
  rfl

theorem endsDrain_none (h : s.endsOf p.name = []) : s.endsDrain p = false := by
  unfold State.endsDrain
  rw [h]
  rfl

theorem reopenEnds_none (h : s.endsOf p.name = []) : s.reopenEnds p = s := by
  unfold State.reopenEnds
  rw [h]
  rfl

theorem adopt_keeps (h : s.endsOf p.name = []) (c : Nat) : s.KeepsTables (s.adopt p c) := by
  unfold State.adopt
  rw [moveEnds_none h]
  exact (State.KeepsTables.moveTiles s p c).trans (.moveReports ..)

/-- What the end of its move leaves of a process whose instruction does not wait. -/
theorem settled_rest (h : p.hold = none) :
    { settled p with wait := p.wait, made := p.made, st := p.st, prev := p.prev, latch := p.latch } = p := by
  have hdrop : p.dropHold = { p with made := 0 } := by
    unfold Proc.dropHold
    rw [h]
  unfold settled
  rw [hdrop]
  dsimp only
  repeat' split
  all_goals rfl

theorem settled_keeps (h : p.hold = none) :
    (settled p).regs = p.regs ∧ (settled p).pc = p.pc ∧ (settled p).name = p.name ∧ (settled p).core = p.core ∧ (settled p).gid = p.gid :=
  have hrest := settled_rest h
  ⟨(congrArg Proc.regs hrest :), (congrArg Proc.pc hrest :), (congrArg Proc.name hrest :), (congrArg Proc.core hrest :), (congrArg Proc.gid hrest :)⟩

/-- A process whose group is not killed stays when it has landed. -/
theorem killLanded_of_alive {name k : Nat} (hn : s.named name = some (k, p)) (hg : ∀ g, s.group? p.gid = some g → g.killed = none) :
    s.killLanded name = s := by
  rw [State.killLanded, modNamed_of_named hn]
  split
  · next g h => rw [hg g h]; rfl
  · rfl

/-! ### Streams that are read again -/

/-- From s to t process k has kept its registers, its place and its name, and the tables have stayed. -/
def State.SameButPorts (s t : State) (k : Nat) : Prop :=
  s.KeepsTables t ∧ ∀ p, s.proc k = some p → ∃ q, t.proc k = some q ∧ { q with ports := p.ports } = p

theorem State.SameButPorts.refl (s : State) (k : Nat) : s.SameButPorts s k := ⟨.refl s, fun p h => ⟨p, h, rfl⟩⟩

theorem State.SameButPorts.trans {s t u : State} {k : Nat} (h : s.SameButPorts t k) (g : t.SameButPorts u k) : s.SameButPorts u k := by
  refine ⟨h.1.trans g.1, fun p hp => ?_⟩
  obtain ⟨q, hq, hqp⟩ := h.2 p hp
  obtain ⟨r, hr, hrq⟩ := g.2 q hq
  exact ⟨r, hr, (congrArg (fun x : Proc => { x with ports := p.ports }) hrq :).trans hqp⟩

theorem State.SameButPorts.putPort {s : State} {k : Nat} {p : Proc} (h : s.proc k = some p) (n : Nat) (x : Port) :
    s.SameButPorts (s.putProc k (p.putPort n x)) k := by
  refine ⟨⟨rfl, rfl, rfl, rfl⟩, fun p' hp' => ⟨_, State.putProc_proc_self .., ?_⟩⟩
  obtain rfl := Option.some.inj (h.symm.trans hp')
  rfl

theorem State.SameButPorts.foldl {α : Type} {f : State → α → State} {k : Nat} (h : ∀ (t : State) (x : α), t.SameButPorts (f t x) k) (l : List α) (t : State) :
    t.SameButPorts (l.foldl f t) k := by
  induction l generalizing t with
  | nil => exact .refl t k
  | cons x l ih => exact (h t x).trans (ih _)

theorem State.SameButPorts.after (t : State) (n : Nat) (e : Ev) (k : Nat) : t.SameButPorts (t.after n e) k :=
  ⟨⟨rfl, rfl, rfl, rfl⟩, fun p h => ⟨p, h, rfl⟩⟩

theorem State.SameButPorts.readAhead (t : State) (k n lat : Nat) : t.SameButPorts (t.readAhead k n lat) k := by
  unfold State.readAhead
  split
  · exact .refl t k
  · next p hp =>
    dsimp only
    split
    · split
      · exact .refl t k
      · exact (State.SameButPorts.putPort hp ..).trans (.foldl (fun u _ => .after u ..) _ _)
    · exact .refl t k

theorem State.SameButPorts.restartStreams (t : State) (k : Nat) : t.SameButPorts (t.restartStreams k) k := by
  unfold State.restartStreams
  split
  · exact .refl t k
  · have hag : ∀ a, t.SameButPorts { t with agenda := a } k := fun a => ⟨⟨rfl, rfl, rfl, rfl⟩, fun p h => ⟨p, h, rfl⟩⟩
    refine (hag _).trans (.foldl (fun u n => ?_) _ _)
    split
    · next r hr =>
      dsimp only
      split
      · split
        · exact .refl u k
        · exact (State.SameButPorts.putPort hr ..).trans (.readAhead ..)
      · exact .refl u k
    · exact .refl u k

theorem checkWave_rest (s : State) (p : Proc) : { s.checkWave p with agenda := s.agenda } = s := by
  unfold State.checkWave
  split
  · split <;> rfl
  · rfl

/-! ### Landing -/

/-- The place of a process's launch in the table of its new core. -/
def State.landIndex (s : State) (p : Proc) (core : Nat) : Nat :=
  match tget s.ltab (p.core * 16 + p.launch) with
  | some e => (s.ltabIndex core e.launch).getD 0
  | none => 0

/-- The record of a process at its new core. -/
def Proc.landed (p : Proc) (core rec launch ext : Nat) : Proc :=
  { settled p with core := core, idx := rec, launch := launch, extix := ext, episode := (p.episode + 1) % 65536, vbase := if p.vheld then 0 else p.vbase }

/-- A process without ends has landed: its record is at the target, under its name. -/
theorem land_lands {k core rec ext : Nat} (hends : s.endsOf p.name = []) (hh : p.hold = none) :
    ∃ q, (s.land k p core rec ext 0).proc (core * 256 + rec) = some q ∧ (s.land k p core rec ext 0).keyOf p.name = some (core * 256 + rec) ∧
      q.name = p.name ∧ q.core = core ∧ q.idx = rec ∧ q.regs = p.regs ∧ q.pc = p.pc ∧ q.gid = p.gid ∧
      (s.land k p core rec ext 0).groups = s.groups := by
  obtain ⟨hregs, hpc, hname, -, hgid⟩ := settled_keeps hh
  unfold State.land
  dsimp only
  generalize ht : (if p.vheld = true then s.writeMem _ _ else s) = t
  have hkeep : s.KeepsTables ((t.adopt p core).removeRecord k p) := by
    have h1 : s.KeepsTables t := by
      rw [← ht]
      exact .ite ⟨rfl, rfl, rfl, rfl⟩ (.refl s)
    exact (h1.trans (adopt_keeps ((h1.endsOf _).trans hends) core)).trans (.removeRecord ..)
  generalize (t.adopt p core).removeRecord k p = u at hkeep ⊢
  let q := p.landed core rec (s.landIndex p core) ext
  let v : State := { u.putProc (core * 256 + rec) q with dir := tput u.dir p.name (core * 256 + rec) }
  let w := (v.modLtab p (fun e => { e with live := e.live - 1 })).modLtab q (fun e => { e with live := e.live + 1, taken := e.taken + 1 })
  have hw : { w with ltab := v.ltab } = v := by
    have h1 := modLtab_rest v p (fun e => { e with live := e.live - 1 })
    have h2 := modLtab_rest (v.modLtab p (fun e => { e with live := e.live - 1 })) q (fun e => { e with live := e.live + 1, taken := e.taken + 1 })
    exact (congrArg (fun x : State => { x with ltab := v.ltab }) h2 :).trans h1
  let y := if q.st == .ready then w.toPen q else w
  have hy : { y with ltab := v.ltab, cores := v.cores } = v := by
    have : { y with ltab := w.ltab, cores := w.cores } = w := by
      show ({ (if q.st == .ready then w.toPen q else w) with ltab := w.ltab, cores := w.cores } : State) = w
      split <;> rfl
    exact (congrArg (fun x : State => { x with ltab := v.ltab, cores := v.cores }) this :).trans
      (congrArg (fun x : State => { x with cores := v.cores }) hw :)
  have hyproc : y.proc (core * 256 + rec) = some q := by
    unfold State.proc
    rw [show y.procs = v.procs from (congrArg State.procs hy :)]
    exact State.putProc_proc_self ..
  have hyends : y.endsOf q.name = [] := by
    unfold State.endsOf
    rw [show y.eps = u.eps from (congrArg State.eps hy :), show q.name = p.name from hname]
    exact (hkeep.endsOf _).trans hends
  obtain ⟨htables, hports⟩ := State.SameButPorts.restartStreams y (core * 256 + rec)
  obtain ⟨r, hr, hrq⟩ := hports q hyproc
  have hwave := checkWave_rest (y.restartStreams (core * 256 + rec)) p
  have hdone : (y.reopenEnds q).restartStreams (core * 256 + rec) = y.restartStreams (core * 256 + rec) := by rw [reopenEnds_none hyends]
  refine ⟨r, ?_, ?_, (congrArg Proc.name hrq :).trans hname, (congrArg Proc.core hrq :), (congrArg Proc.idx hrq :), (congrArg Proc.regs hrq :).trans hregs,
    (congrArg Proc.pc hrq :).trans hpc, (congrArg Proc.gid hrq :).trans hgid, ?_⟩
  · show (((y.reopenEnds q).restartStreams (core * 256 + rec)).checkWave p).proc (core * 256 + rec) = some r
    rw [hdone]
    exact (congrArg (fun x => tget x (core * 256 + rec)) (congrArg State.procs hwave :)).trans hr
  · show (((y.reopenEnds q).restartStreams (core * 256 + rec)).checkWave p).keyOf p.name = some (core * 256 + rec)
    rw [hdone]
    have hdir : y.dir = tput u.dir p.name (core * 256 + rec) := (congrArg State.dir hy :)
    refine (congrArg (fun x => tget x p.name) ((congrArg State.dir hwave :).trans (htables.2.2.1.trans hdir))).trans ?_
    exact tget_tput_self ..
  · show (((y.reopenEnds q).restartStreams (core * 256 + rec)).checkWave p).groups = s.groups
    rw [hdone]
    have hgroups : y.groups = u.groups := (congrArg State.groups hy :)
    exact (congrArg State.groups hwave :).trans (htables.2.1.trans (hgroups.trans hkeep.2.1))
end

/-! ### A process in transit arrives (06 R166) -/

section
variable {s : State} {m : Mig} {k : Nat} {p : Proc} {l : Launch} {e : LaunchEntry}

/-- The target refuses: the process is counted as taken, and the answer sets out. -/
def State.refuseMove (s : State) (m : Mig) (e : LaunchEntry) (code : Nat) : State :=
  (s.modLtabOf m.target e.launch (fun y => { y with taken := y.taken + 1 })).after (s.oneway m.target m.from0) (.migrationAnswer m code)

/-- A process in transit, without ends, that reaches a core which has its launch and is not quiet. -/
structure State.Arrives (s : State) (m : Mig) (k : Nat) (p : Proc) (l : Launch) (e : LaunchEntry) : Prop where
  named : s.named m.name = some (k, p)
  launch : s.launchOf p = some l
  entry : tget s.ltab (p.core * 16 + p.launch) = some e
  there : (s.ltabIndex m.target e.launch).isSome
  name : p.name = m.name
  ends : s.endsOf p.name = []
  awake : s.isQuiet m.target = false
  hold : p.hold = none

theorem State.Arrives.held (h : s.Arrives m k p l e) : (s.endsDrain p || (s.ltabIndex m.target e.launch).isNone) = false := by
  rw [endsDrain_none h.ends, Bool.false_or]
  simpa using h.there

theorem migrationArrival_noRecord (h : s.Arrives m k p l e) (hr : s.freeRecord m.target = none) (hf : (s.fold (foldOf m.target)).fenced = false) :
    migrationArrival m s = s.refuseMove m e 9 := by
  rw [migrationArrival, modNamed_of_named h.named]
  simp only [h.launch, h.entry, h.held, h.awake, hr, hf, Bool.false_eq_true, if_false]
  rfl

theorem migrationArrival_fenced (h : s.Arrives m k p l e) (hf : (s.fold (foldOf m.target)).fenced = true) : migrationArrival m s = s.refuseMove m e 4 := by
  rw [migrationArrival, modNamed_of_named h.named]
  simp only [h.launch, h.entry, h.held, h.awake, hf, Bool.false_eq_true, if_false, if_true]
  split <;> rfl

theorem refuseMove_answers (s : State) (m : Mig) (e : LaunchEntry) (code : Nat) :
    (s.refuseMove m e code).procs = s.procs ∧ (s.refuseMove m e code).DueIn (s.oneway m.target m.from0) (.migrationAnswer m code) :=
  ⟨(congrArg State.procs (modLtabOf_rest s m.target e.launch (fun y => { y with taken := y.taken + 1 })) :), dueIn_after ..⟩

/-- A target with room takes the process. -/
theorem migrationArrival_lands (h : s.Arrives m k p l e) {r x : Nat} (hr : s.freeRecord m.target = some r) (hx : s.freeExtension m.target = some x)
    (hv : p.vcount = 0) (ha : s.canAdopt p m.target = true) (hrec : (s.onCore m.target).length + (s.core m.target).reserved < 256)
    (hext : (s.onCore m.target).length + (s.core m.target).reserved < (s.core m.target).extSize) (hf : (s.fold (foldOf m.target)).fenced = false) :
    migrationArrival m s = ((s.land k p m.target r x 0).after (s.oneway m.target m.from0) (.migrationAnswer m 0)).killLanded m.name := by
  have hfull : (decide (256 ≤ (s.onCore m.target).length + (s.core m.target).reserved) ||
      decide ((s.core m.target).extSize ≤ (s.onCore m.target).length + (s.core m.target).reserved)) = false := by
    rw [decide_eq_false (by omega), decide_eq_false (by omega)]
    rfl
  rw [migrationArrival, modNamed_of_named h.named]
  simp only [h.launch, h.entry, h.held, h.awake, hr, hx, hf, hv, ha, hfull, ne_eq, not_true_eq_false, decide_false, Bool.and_false, Bool.false_and,
    Bool.not_true, Bool.or_false, Bool.false_eq_true, if_false]

theorem arrival_lands (h : s.Arrives m k p l e) {r x : Nat} (hr : s.freeRecord m.target = some r) (hx : s.freeExtension m.target = some x)
    (hv : p.vcount = 0) (ha : s.canAdopt p m.target = true) (hrec : (s.onCore m.target).length + (s.core m.target).reserved < 256)
    (hext : (s.onCore m.target).length + (s.core m.target).reserved < (s.core m.target).extSize) (hf : (s.fold (foldOf m.target)).fenced = false)
    (hg : ∀ g, s.group? p.gid = some g → g.killed = none) :
    ∃ (t : State) (q : Proc), exec (.migrationArrival m) s = .next t ∧ t.proc (m.target * 256 + r) = some q ∧ t.keyOf m.name = some (m.target * 256 + r) ∧
        q.name = p.name ∧ q.core = m.target ∧ q.idx = r ∧ q.regs = p.regs ∧ q.pc = p.pc ∧ t.Due (.migrationAnswer m 0) := by
  obtain ⟨q, hproc, hkey, hname, hcore, hidx, hregs, hpc, hgid, hgroups⟩ := land_lands (k := k) (core := m.target) (rec := r) (ext := x) h.ends h.hold
  rw [h.name] at hkey
  have hexec := migrationArrival_lands h hr hx hv ha hrec hext hf
  generalize s.land k p m.target r x 0 = t at hexec hproc hkey hgroups
  have halive : (t.after (s.oneway m.target m.from0) (.migrationAnswer m 0)).killLanded m.name =
      t.after (s.oneway m.target m.from0) (.migrationAnswer m 0) := by
    refine killLanded_of_alive (p := q) (named_eq_some_iff.2 ⟨hkey, hproc⟩) fun g hg' => hg g ?_
    rw [← hg', hgid, State.group?, State.group?, ← hgroups]
    rfl
  exact ⟨_, q, congrArg Host.Outcome.next (hexec.trans halive), hproc, hkey, hname, hcore, hidx, hregs, hpc, due_of_dueIn (dueIn_after ..)⟩

/-! ### The answer -/

/-- The way of MIGR's answer. -/
def State.answerWay (s : State) (m : Mig) : Nat :=
  match s.named m.dest.name with
  | some (_, q) => s.oneway m.from0 q.core
  | none => 1

/-- On a refusal a process that was READY is READY again. -/
theorem migrationAnswer_refused {code : Nat} (hc : code ≠ 0) (hn : s.named m.name = some (k, p)) (hst : p.st = .migrating) (hprev : p.mprev = .ready)
    (hh : p.hold = none) (he : s.endsOf p.name = []) (hg : ∀ g, s.group? p.gid = some g → g.killed = none) :
    migrationAnswer m code s =
      (((s.after (s.answerWay m) (.fill m.dest (failWord code))).putProc k (settled p)).toPen p) := by
  obtain ⟨-, -, hname, -, hgid⟩ := settled_keeps hh
  have hready : (settled p).st = .ready := by simp [settled, hprev]
  have hends : (((s.after (s.answerWay m) (.fill m.dest (failWord code))).putProc k (settled p)).toPen p).endsOf (settled p).name = [] := by
    rw [hname]
    exact he
  have hnamed : (((s.after (s.answerWay m) (.fill m.dest (failWord code))).putProc k (settled p)).toPen p).named m.name = some (k, settled p) :=
    named_putProc (s := s.after (s.answerWay m) (.fill m.dest (failWord code))) hn (settled p)
  have hmod : ((s.after (s.answerWay m) (.fill m.dest (failWord code))).modNamed m.name (fun k p u =>
      if p.st ≠ .migrating then u
      else
        let q := settled p
        let v := u.putProc k q
        (if q.st == .ready then v.toPen p else v).reopenEnds q)) =
      ((s.after (s.answerWay m) (.fill m.dest (failWord code))).putProc k (settled p)).toPen p := by
    rw [modNamed_of_named (s := s.after _ _) hn, if_neg (not_not.2 hst)]
    dsimp only
    rw [hready, if_pos (by decide)]
    exact reopenEnds_none hends
  unfold migrationAnswer
  simp only [hc, if_false]
  refine (congrArg (State.killLanded · m.name) hmod).trans ?_
  exact killLanded_of_alive hnamed fun g hg' => hg g (by rw [← hgid]; exact hg')
end

/-- Settles O30: a process without ends moves with its record alone, and the tables that would end it stay as they are. -/
theorem migrations : Obligations.Migrations := by
  refine ⟨fun s m k p l e hn hl he hi hname hends hq hh => ?arrival, fun s m => ?accepted, fun s m k p code hc hn hst hprev hh he hg => ?refused,
    fun s key ke loc e hk he hloc => ?location, fun s key e he hfwd hst hno hpeer => ?expiry⟩
  case arrival =>
    have h : s.Arrives m k p l e := ⟨hn, hl, he, hi, hname, hends, hq, hh⟩
    refine ⟨fun hr hf => ⟨_, congrArg Host.Outcome.next (migrationArrival_noRecord h hr hf), refuseMove_answers ..⟩,
      fun hf => ⟨_, congrArg Host.Outcome.next (migrationArrival_fenced h hf), refuseMove_answers ..⟩,
      fun r x hr hx hv ha hrec hext hf hg _ => arrival_lands h hr hx hv ha hrec hext hf hg⟩
  case accepted => exact ⟨_, rfl, due_of_dueIn (dueIn_after ..), rfl⟩
  case refused =>
    obtain ⟨hregs, hpc, -, hcore, -⟩ := settled_keeps hh
    refine ⟨_, settled p, congrArg Host.Outcome.next (migrationAnswer_refused hc hn hst hprev hh he hg), ?_, State.putProc_proc_self .., ?_, hregs, hpc, hcore⟩
    · exact due_of_dueIn (dueIn_after s (s.answerWay m) (.fill m.dest (failWord code)))
    · simp [settled, hprev]
  case location =>
    refine ⟨s.putEp ke { e with peer := s.follow 64 loc }, congrArg Host.Outcome.next ?_, ?_, rfl⟩
    · unfold locationUpdate
      rw [if_neg hk]
      simp only [he, hloc, if_true]
    · simp [State.ep, State.putEp]
  case expiry =>
    refine ⟨{ s with eps := tdel s.eps key }, congrArg Host.Outcome.next ?_, tget_tdel_self .., rfl⟩
    have hpeers : s.eps.any (fun x => locKey x.2.peer = key && x.2.fwd.isNone && x.2.server.isNone) = false :=
      List.any_eq_false.2 fun x hx => by simp [hpeer x hx]
    have hnone : e.fwd.isNone = false := by simpa using hfwd
    simp only [forwardExpiry, he, hnone, hst, hpeers, hno, Bool.false_eq_true, if_false]
    rfl

end Sys2Proof.Machine
end

section
/-! PROOFS. What the end of a process keeps of the directory, the launch tables and the killed groups (06 R160, R162). -/


namespace Sys2Proof.Machine

variable {s : State}

/-! What the end of a process does to engines, channels, groups and notes leaves alone who is in the directory, what the cores' launch tables count and
which groups are killed. As of the memory above, it is said of each operation of the model that freeing a process calls, in the order of the files. -/

/-! ### The rolls -/

/-- The rolls that the ends of processes are entered in: the directory of names, the counts of the launch tables (06 R177), and what KILLG awaits of its
groups (06 R162). -/
def rollsOf (dir : Tab Nat) (ltab : Tab LaunchEntry) (groups : Tab Group) :
    Tab Nat × (Nat → Option (Nat × Nat × Nat)) × (Nat → Option (FillTo × Nat)) :=
  (dir, fun i => (tget ltab i).map (fun e => (e.launch, e.live, e.count)), fun g => (tget groups g).bind Group.killed)

/-- The rolls of a state. -/
def State.rolls (s : State) : Tab Nat × (Nat → Option (Nat × Nat × Nat)) × (Nat → Option (FillTo × Nat)) :=
  rollsOf s.dir s.ltab s.groups

@[simp] theorem rollsOf_fields : rollsOf s.dir s.ltab s.groups = s.rolls := (rfl)

@[simp] theorem rolls_mk {cycle agenda turns cur group free mem ftags poison packages procs dir gens cores slots folds ltab launches
    nextLaunch groups supq heldNotes xwrs onceDue links frames quiet eps drovers disps tiles landings permxs nextPermx bundles pendLines
    prevLines shadows seqSent seqHeld flying pkgs} :
    (State.mk cycle agenda turns cur group free mem ftags poison packages procs dir gens cores slots folds ltab launches
      nextLaunch groups supq heldNotes xwrs onceDue links frames quiet eps drovers disps tiles landings permxs nextPermx bundles pendLines
      prevLines shadows seqSent seqHeld flying pkgs).rolls = rollsOf dir ltab groups := (rfl)

@[simp] theorem rolls_ite {c : Prop} [Decidable c] {t u : State} :
    (if c then t else u).rolls = if c then t.rolls else u.rolls := by split <;> rfl

@[simp] theorem rolls_foldl {α : Type*} {f : State → α → State} (hf : ∀ t x, (f t x).rolls = t.rolls) (l : List α) :
    (l.foldl f s).rolls = s.rolls := by
  induction l generalizing s with
  | nil => rfl
  | cons x l ih => rw [List.foldl_cons, ih, hf]

/-! ### Parts of the state -/

@[simp] theorem State.putProc_rolls (k : Nat) (p : Proc) : (s.putProc k p).rolls = s.rolls := (rfl)

@[simp] theorem State.modProc_rolls (k : Nat) (f : Proc → Proc) : (s.modProc k f).rolls = s.rolls := by
  unfold State.modProc
  split <;> simp

@[simp] theorem State.putCore_rolls (c : Nat) (x : CoreS) : (s.putCore c x).rolls = s.rolls := (rfl)

@[simp] theorem State.modCore_rolls (c : Nat) (f : CoreS → CoreS) : (s.modCore c f).rolls = s.rolls := (rfl)

@[simp] theorem State.putSlot_rolls (i : Nat) (x : SlotS) : (s.putSlot i x).rolls = s.rolls := (rfl)

@[simp] theorem State.modSlot_rolls (i : Nat) (f : SlotS → SlotS) : (s.modSlot i f).rolls = s.rolls := (rfl)

@[simp] theorem State.putFold_rolls (f : Nat) (x : FoldS) : (s.putFold f x).rolls = s.rolls := (rfl)

@[simp] theorem State.modFold_rolls (f : Nat) (g : FoldS → FoldS) : (s.modFold f g).rolls = s.rolls := (rfl)

/-- A group may change in all but what KILLG awaits of it. -/
@[simp] theorem State.putGroup_rolls {gid : Nat} {g : Group} (h : (s.group? gid).bind Group.killed = g.killed) :
    (s.putGroup gid g).rolls = s.rolls := by
  have kept : ∀ i, (tget (tput s.groups gid g) i).bind Group.killed = (tget s.groups i).bind Group.killed := fun i => by
    by_cases hi : i = gid
    · rw [hi, tget_tput_self]
      exact h.symm
    · rw [tget_tput_ne _ _ hi]
  simp [State.rolls, State.putGroup, rollsOf, kept]

@[simp] theorem State.modNamed_rolls (name : Nat) {f : Nat → Proc → State → State}
    (hf : ∀ k p t, (f k p t).rolls = t.rolls) : (s.modNamed name f).rolls = s.rolls := by
  unfold State.modNamed
  split
  · exact hf _ _ _
  · rfl

theorem State.delGroup_rolls {gid : Nat} (h : (s.group? gid).bind Group.killed = none) :
    State.rolls { s with groups := tdel s.groups gid } = s.rolls := by
  have kept : ∀ i, (tget (tdel s.groups gid) i).bind Group.killed = (tget s.groups i).bind Group.killed := fun i => by
    by_cases hi : i = gid
    · rw [hi, tget_tdel_self]
      exact h.symm
    · rw [tget_tdel_ne _ hi]
  simp [State.rolls, rollsOf, kept]

/-- An entry of a launch may change in all but its counts. -/
@[simp] theorem State.modLtab_rolls (p : Proc) {f : LaunchEntry → LaunchEntry}
    (hf : ∀ e, (f e).launch = e.launch ∧ (f e).live = e.live ∧ (f e).count = e.count) :
    (s.modLtab p f).rolls = s.rolls := by
  unfold State.modLtab
  split
  · next e he =>
    have kept : ∀ i, (tget (tput s.ltab (p.core * 16 + p.launch) (f e)) i).map (fun e => (e.launch, e.live, e.count)) =
        (tget s.ltab i).map (fun e => (e.launch, e.live, e.count)) := fun i => by
      by_cases hi : i = p.core * 16 + p.launch
      · rw [hi, tget_tput_self, he]
        simp [hf]
      · rw [tget_tput_ne _ _ hi]
    simp [State.rolls, rollsOf, kept]
  · rfl

@[simp] theorem State.after_rolls (n : Nat) (e : Ev) : (s.after n e).rolls = s.rolls := (rfl)

@[simp] theorem State.atCycle_rolls (c : Nat) (e : Ev) : (s.atCycle c e).rolls = s.rolls := (rfl)

@[simp] theorem State.putDrover_rolls (n : Nat) (x : Drover) : (s.putDrover n x).rolls = s.rolls := (rfl)

@[simp] theorem State.enterDrover_rolls (n at_ size : Nat) : (s.enterDrover n at_ size).rolls = s.rolls := (rfl)

@[simp] theorem State.bookAt_rolls (at_ pa size : Nat) : (s.bookAt at_ pa size).rolls = s.rolls := by
  unfold State.bookAt
  split <;> simp

@[simp] theorem State.bookAfter_rolls (n core pa size : Nat) : (s.bookAfter n core pa size).rolls = s.rolls := by simp [State.bookAfter]

@[simp] theorem State.trips_rolls {α : Type} {f : State → α → State × Nat} (hf : ∀ t x, (f t x).1.rolls = t.rolls)
    (xs : List α) : (s.trips f xs).1.rolls = s.rolls :=
  List.foldlRecOn (motive := fun a : State × List Nat => a.1.rolls = s.rolls) xs _ rfl fun _ ha _ _ => (hf _ _).trans ha

@[simp] theorem State.writeMem_rolls (a : Nat) (bs : List Byte) : (s.writeMem a bs).rolls = s.rolls := by simp [State.writeMem]

@[simp] theorem State.writeNum_rolls (a n v : Nat) : (s.writeNum a n v).rolls = s.rolls := by simp [State.writeNum]

@[simp] theorem State.poisonAt_rolls (as : List Nat) : (s.poisonAt as).rolls = s.rolls := (rfl)

@[simp] theorem State.toPen_rolls (p : Proc) : (s.toPen p).rolls = s.rolls := (rfl)

@[simp] theorem State.outOfPens_rolls (p : Proc) : (s.outOfPens p).rolls = s.rolls := (rfl)

@[simp] theorem State.awake_rolls (p : Proc) : (s.awake p).rolls = s.rolls := (rfl)

@[simp] theorem State.ready_rolls (k : Nat) : (s.ready k).rolls = s.rolls := by
  unfold State.ready
  (repeat' split) <;> simp

@[simp] theorem State.park_rolls (k : Nat) (w : Wait) : (s.park k w).rolls = s.rolls := by simp [State.park]

/-! ### Ends and ports -/

@[simp] theorem State.putEp_rolls (k : Nat) (e : Ep) : (s.putEp k e).rolls = s.rolls := (rfl)

@[simp] theorem State.modEp_rolls (k : Nat) (f : Ep → Ep) : (s.modEp k f).rolls = s.rolls := by
  unfold State.modEp
  split <;> simp

@[simp] theorem State.freeRing_rolls (fold q : Nat) : (s.freeRing fold q).rolls = s.rolls := (rfl)

@[simp] theorem State.writeRing_rolls (fold q : Nat) (m : Msg) : (s.writeRing fold q m).rolls = s.rolls := by
  unfold State.writeRing
  split <;> simp

@[simp] theorem State.takeHead_rolls (k : Nat) (e : Ep) : (s.takeHead k e).rolls = s.rolls := by
  unfold State.takeHead
  split <;> simp

@[simp] theorem State.takeOffer_rolls (k : Nat) (e : Ep) (m : Msg) (matched : Nat) : (s.takeOffer k e m matched).rolls = s.rolls := (rfl)

@[simp] theorem State.postStore_rolls (p : Proc) (va size : Nat) (data : Word) (batch : Nat) :
    (s.postStore p va size data batch).rolls = s.rolls := (rfl)

@[simp] theorem State.readAhead_rolls (k q lat : Nat) : (s.readAhead k q lat).rolls = s.rolls := by
  unfold State.readAhead
  dsimp only
  (repeat' split) <;> simp

@[simp] theorem State.popPort_rolls (k q : Nat) : (s.popPort k q).rolls = s.rolls := by
  unfold State.popPort
  dsimp only
  (repeat' split) <;> simp

@[simp] theorem State.rawPush_rolls (k q : Nat) (v : Word) : (s.rawPush k q v).rolls = s.rolls := by
  unfold State.rawPush
  dsimp only
  (repeat' split) <;> simp

@[simp] theorem State.pushPort_rolls (k q : Nat) (v : Word) : (s.pushPort k q v).rolls = s.rolls := by
  unfold State.pushPort
  split <;> simp

/-! ### Retirement and traps -/

@[simp] theorem State.popAll_rolls (k : Nat) (p : Proc) (consume : BitVec 16) : (s.popAll k p consume).rolls = s.rolls := by
  refine rolls_foldl (fun t x => ?_) _
  simp

@[simp] theorem State.pushAll_rolls (k : Nat) (p : Proc) (ws : List (Reg × Word)) :
    (s.pushAll k p ws).rolls = s.rolls := by simp [State.pushAll]

@[simp] theorem State.post_rolls (self : Proc) (n : Nat) (v : Word) : (s.post self n v).rolls = s.rolls := by
  refine rolls_foldl (fun t x => ?_) _
  (repeat' split) <;> simp

@[simp] theorem State.onceDone_rolls (k : Nat) (p : Proc) (ws : List (Reg × Word)) : (s.onceDone k p ws).rolls = s.rolls := by
  unfold State.onceDone
  (repeat' split) <;> simp

@[simp] theorem State.offerXwr_rolls (k : Nat) : (s.offerXwr k).rolls = s.rolls := by
  unfold State.offerXwr
  split <;> simp

@[simp] theorem State.retire_rolls (k : Nat) (consume : BitVec 16) (ws : List (Reg × Word)) :
    (s.retire k consume ws).rolls = s.rolls := by
  unfold State.retire
  split <;> simp

@[simp] theorem State.queueNote_rolls (p : Proc) (way : Nat) : (s.queueNote p way).rolls = s.rolls := (rfl)

@[simp] theorem State.deliverToSupervisor_rolls (k : Nat) (p : Proc) (cause : Nat) (eval : Word) (epc : BitVec 16) :
    (s.deliverToSupervisor k p cause eval epc).rolls = s.rolls := (rfl)

@[simp] theorem State.raiseAt_rolls (k cause : Nat) (eval : Word) (epc : BitVec 16) : (s.raiseAt k cause eval epc).rolls = s.rolls := by
  unfold State.raiseAt
  split <;> simp

@[simp] theorem State.raise_rolls (k cause : Nat) (eval : Word) : (s.raise k cause eval).rolls = s.rolls := by
  unfold State.raise
  split <;> simp

/-! ### Windows and stores -/

@[simp] theorem State.modPkg_rolls (n : Nat) (f : Pkg → Pkg) : (s.modPkg n f).rolls = s.rolls := (rfl)

@[simp] theorem State.addLife_rolls (pkg ctr n : Nat) : (s.addLife pkg ctr n).rolls = s.rolls := (rfl)

@[simp] theorem State.leaveRecord_rolls (p : Proc) : (s.leaveRecord p).rolls = s.rolls := by
  refine (rolls_foldl (fun t i => ?_) _).trans (rolls_foldl (fun t i => State.writeNum_rolls _ _ _) _)
  split <;> simp

theorem pen_rolls (k i a : Nat) (w : Word) :
    (match s.proc k with
    | some p =>
      (match recordWrite p (s.inSlot p) i w with
       | some q => s.putProc k q
       | none => let t := (s.leaveRecord p).outOfPens p
                 { t with procs := tdel t.procs k }.writeNum a 8 w.toNat)
    | none => s).rolls = s.rolls := by
  (repeat' split)
  · simp
  · refine (State.writeNum_rolls _ _ _).trans ?_
    simp
  · rfl

theorem ep_rolls (k i : Nat) (w : Word) :
    (match s.ep k with
    | some e =>
      (match epWrite e i w with
       | some x => s.putEp k x
       | none => { s with eps := tdel s.eps k })
    | none => s).rolls = s.rolls := by
  (repeat' split) <;> rfl

@[simp] theorem State.putView_rolls (name c off : Nat) (w : Word) : (s.putView name c off w).rolls = s.rolls := by
  unfold State.putView
  split
  · rfl
  · exact pen_rolls _ _ _ _
  · exact ep_rolls _ _ _
  · rfl
  · extract_lets n
    clear_value n
    (repeat' split) <;> simp
  · rfl

@[simp] theorem State.storePhys_rolls (_core name pa size v : Nat) : (s.storePhys _core name pa size v).rolls = s.rolls := by
  unfold State.storePhys
  split <;> simp

@[simp] theorem State.modSb_rolls (core id : Nat) (f : SbEntry → SbEntry) : (s.modSb core id f).rolls = s.rolls := (rfl)

@[simp] theorem State.dropSb_rolls (core id : Nat) : (s.dropSb core id).rolls = s.rolls := (rfl)

@[simp] theorem State.atomic_rolls (x : Access) (op : Nat) (dbl : Bool) (b cmp : Word) :
    (s.atomic x op dbl b cmp).2.rolls = s.rolls := by simp [State.atomic]

@[simp] theorem State.amoPerform_rolls (x : Access) (at_ : Nat) : (s.amoPerform x at_).rolls = s.rolls := by
  unfold State.amoPerform
  split <;> simp

@[simp] theorem State.pullAmos_rolls (name : Nat) (which : Access → Bool) : (s.pullAmos name which).rolls = s.rolls := by
  unfold State.pullAmos
  refine (rolls_foldl (fun t e => ?_) _).trans (by simp)
  split <;> simp

@[simp] theorem State.settle_rolls (name : Nat) : (s.settle name).rolls = s.rolls := by simp [State.settle]

@[simp] theorem State.stopStore_rolls (k : Nat) (p : Proc) (va : Nat) : (s.stopStore k p va).rolls = s.rolls := by simp [State.stopStore]

@[simp] theorem State.endEngine_rolls (k : Nat) : (s.endEngine k).rolls = s.rolls := by
  unfold State.endEngine
  split <;> simp

@[simp] theorem State.sfqWrite_rolls (core : Nat) (e : SbEntry) (cause : Nat) : (s.sfqWrite core e cause).rolls = s.rolls := by
  unfold State.sfqWrite
  split <;> simp

@[simp] theorem State.settleBatch_rolls (core batch : Nat) : (s.settleBatch core batch).rolls = s.rolls := by
  unfold State.settleBatch
  dsimp only
  (repeat' split) <;> simp

@[simp] theorem State.sfqRecord_rolls (core : Nat) (e : SbEntry) (cause : Nat) :
    (s.sfqRecord core e cause).rolls = s.rolls := by simp [State.sfqRecord]

theorem State.stage_rolls (e : SbEntry) (pa : Nat) : ∀ s', (s.stage e pa) = some s' → s'.rolls = s.rolls := by
  unfold State.stage
  (repeat' split) <;> simp

@[simp] theorem State.performBytes_rolls (core : Nat) (e : SbEntry) (pa : Nat) : (s.performBytes core e pa).rolls = s.rolls := by
  unfold State.performBytes
  rw [State.modSb_rolls]
  cases hs : s.stage e pa with
  | none => simp
  | some t => simpa using State.stage_rolls e pa t hs

@[simp] theorem State.performEarly_rolls (core : Nat) (e : SbEntry) : (s.performEarly core e).rolls = s.rolls := by
  unfold State.performEarly
  split <;> simp

/-! ### Groups, and the waits of processes -/

@[simp] theorem State.peerFail_rolls (gid pkg : Nat) : (s.peerFail gid pkg).rolls = s.rolls := by
  unfold State.peerFail
  cases hg : s.group? gid with
  | none => rfl
  | some g =>
    dsimp only
    (repeat' split) <;> simp [hg]

@[simp] theorem State.releaseStores_rolls (k : Nat) : (s.releaseStores k).rolls = s.rolls := by
  unfold State.releaseStores
  split <;> simp

@[simp] theorem State.complete_rolls (k : Nat) (ws : List (Reg × Word)) : (s.complete k ws).rolls = s.rolls := by
  unfold State.complete
  (repeat' split) <;> simp

@[simp] theorem State.flushPort_rolls (k q fuel : Nat) : (s.flushPort k q fuel).rolls = s.rolls := by
  induction fuel generalizing s with
  | zero => rfl
  | succ n ih =>
    unfold State.flushPort
    dsimp only
    (repeat' split) <;> simp [ih]

@[simp] theorem State.releaseWaiters_rolls (gid phase : Nat) : (s.releaseWaiters gid phase).rolls = s.rolls := by
  refine rolls_foldl (fun t x => ?_) _
  (repeat' split) <;> simp

@[simp] theorem State.checkPhase_rolls (gid : Nat) : (s.checkPhase gid).rolls = s.rolls := by
  unfold State.checkPhase
  cases hg : s.group? gid with
  | none => rfl
  | some g =>
    dsimp only
    split <;> simp [hg]

@[simp] theorem State.countExpect_rolls (key : Nat) : (s.countExpect key).rolls = s.rolls := by
  unfold State.countExpect
  (repeat' split) <;> simp [*]

@[simp] theorem State.disarm_rolls (fold : Nat) (who : DlWho) : (s.disarm fold who).rolls = s.rolls := by simp [State.disarm]

@[simp] theorem State.unwatch_rolls (p : Proc) (gs : List Guard) : (s.unwatch p gs).rolls = s.rolls := by
  refine rolls_foldl (fun t x => ?_) _
  split <;> simp

@[simp] theorem State.reserve_rolls (p : Proc) (g : Guard) : (s.reserve p g).rolls = s.rolls := by
  unfold State.reserve
  dsimp only
  (repeat' split) <;> simp

@[simp] theorem State.altCheck_rolls (k : Nat) : (s.altCheck k).rolls = s.rolls := by
  unfold State.altCheck
  (repeat' split) <;> simp

@[simp] theorem State.wakeEnd_rolls (ke : Nat) : (s.wakeEnd ke).rolls = s.rolls := by
  unfold State.wakeEnd
  split
  · rfl
  · refine State.modNamed_rolls _ fun k p t => ?_
    dsimp only
    generalize hu : (List.range 4).foldl (fun u q => if (p.ports.toList.getD q {}).held.isEmpty then u else u.flushPort k q 4) t = u
    have flushed : u.rolls = t.rolls := hu ▸ rolls_foldl (fun u q => by split <;> simp) _
    (repeat' split) <;> simp [flushed]

@[simp] theorem State.failWait_rolls (ke : Nat) : (s.failWait ke).rolls = s.rolls := by
  unfold State.failWait
  split
  · rfl
  · refine State.modNamed_rolls _ fun k p t => ?_
    (repeat' split) <;> simp

@[simp] theorem State.endWait_rolls (ke : Nat) (e : Ep) : (s.endWait ke e).rolls = s.rolls := by
  unfold State.endWait
  dsimp only
  (repeat' split) <;> simp

/-! ### Channels -/

@[simp] theorem State.modTile_rolls (i : Nat) (f : Tile → Tile) : (s.modTile i f).rolls = s.rolls := (rfl)

@[simp] theorem State.drainTile_rolls (m : Msg) : (s.drainTile m).rolls = s.rolls := by
  unfold State.drainTile
  split <;> simp

@[simp] theorem State.take_rolls (ke owner : Nat) (x : Rx) (m : Msg) (at_ : Nat) (queued : Bool) :
    (s.take ke owner x m at_ queued).rolls = s.rolls := by
  unfold State.take
  (repeat' split) <;> simp

@[simp] theorem State.refuseRx_rolls (ke : Nat) (e : Ep) (cause : Nat) : (s.refuseRx ke e cause).rolls = s.rolls := by simp [State.refuseRx]

@[simp] theorem State.checkDying_rolls (ke : Nat) : (s.checkDying ke).rolls = s.rolls := by
  unfold State.checkDying
  split <;> simp

@[simp] theorem State.admitSignals_rolls (ke fuel : Nat) : (s.admitSignals ke fuel).rolls = s.rolls := by
  induction fuel generalizing s with
  | zero => rfl
  | succ n ih =>
    unfold State.admitSignals
    (repeat' split) <;> simp [ih]

@[simp] theorem State.deliver_rolls (ke : Nat) : (s.deliver ke).rolls = s.rolls := by
  unfold State.deliver
  dsimp only
  (repeat' split) <;> simp

@[simp] theorem State.sendOut_rolls (e : Ep) (m : Msg) : (s.sendOut e m).rolls = s.rolls := by
  unfold State.sendOut
  (repeat' split) <;> simp

@[simp] theorem State.sendQueued_rolls (ke : Nat) : (s.sendQueued ke).rolls = s.rolls := by
  unfold State.sendQueued
  (repeat' split) <;> simp

@[simp] theorem State.sendIn_rolls (ke : Nat) (bs : List Byte) : (s.sendIn ke bs).rolls = s.rolls := by
  unfold State.sendIn
  split <;> simp

@[simp] theorem State.endReserve_rolls (ke : Nat) (e : Ep) : (s.endReserve ke e).rolls = s.rolls := by
  unfold State.endReserve
  dsimp only
  (repeat' split) <;> simp

@[simp] theorem State.closeServer_rolls (ke : Nat) (e : Ep) : (s.closeServer ke e).rolls = s.rolls := by
  unfold State.closeServer
  split <;> simp

@[simp] theorem State.deleteEnd_rolls (ke fuel : Nat) : (s.deleteEnd ke fuel).rolls = s.rolls := by
  induction fuel generalizing s ke with
  | zero => rfl
  | succ n ih =>
    unfold State.deleteEnd
    dsimp only
    split
    · rfl
    · refine (rolls_foldl (fun u l => ?_) _).trans ?_
      · (repeat' split) <;> simp [ih]
      · (repeat' split) <;> simp

@[simp] theorem State.reopenEnd_rolls (ke : Nat) : (s.reopenEnd ke).rolls = s.rolls := by
  unfold State.reopenEnd
  split <;> simp

@[simp] theorem State.unreserve_rolls (e : Ep) : (s.unreserve e).rolls = s.rolls := by
  unfold State.unreserve
  split <;> simp

@[simp] theorem State.withdrawWait_rolls (p : Proc) : (s.withdrawWait p).rolls = s.rolls := by
  unfold State.withdrawWait
  extract_lets mine stop bodies left t
  have ht : t.rolls = s.rolls := rfl
  split
  · extract_lets u u'
    have hu : u.rolls = t.rolls := by
      unfold u
      split <;> simp
    have hu' : u'.rolls = u.rolls := by
      refine rolls_foldl (fun v b => ?_) _
      (repeat' split) <;> simp
    simp [hu', hu, ht]
  · split <;> simp
  · rfl

@[simp] theorem State.deleteEnds_rolls (p : Proc) : (s.deleteEnds p).rolls = s.rolls := by simp [State.deleteEnds]

/-! ### Engines -/

@[simp] theorem State.brokenElement_rolls (a : Agent) (name : Nat) (ws : List Word) (any : Bool) (n : Nat) :
    (s.brokenElement a name ws any n).rolls = s.rolls := by
  refine rolls_foldl (fun t x => ?_) _
  split <;> simp

@[simp] theorem State.cancelCopy_rolls (a : Agent) (name : Nat) (ws : List Word) : (s.cancelCopy a name ws).rolls = s.rolls := by
  refine rolls_foldl (fun t x => ?_) _
  simp

@[simp] theorem State.dropBundle_rolls (name : Nat) : (s.dropBundle name).rolls = s.rolls := (rfl)

@[simp] theorem State.discardBundle_rolls (name : Nat) : (s.discardBundle name).rolls = s.rolls := by
  unfold State.discardBundle
  split <;> simp

@[simp] theorem State.refuseXwr_rolls (x : Xwr) : (s.refuseXwr x).rolls = s.rolls := by simp [State.refuseXwr]

@[simp] theorem State.refuseWaiting_rolls (core slot : Nat) : (s.refuseWaiting core slot).rolls = s.rolls := by simp [State.refuseWaiting]

@[simp] theorem State.returnSlot_rolls (k : Nat) : (s.returnSlot k).rolls = s.rolls := by
  unfold State.returnSlot
  (repeat' split) <;> simp

@[simp] theorem State.putPermx_rolls (id : Nat) (x : Permx) : (s.putPermx id x).rolls = s.rolls := (rfl)

@[simp] theorem State.closePermx_rolls (id : Nat) : (s.closePermx id).rolls = s.rolls := by
  unfold State.closePermx
  split <;> simp

@[simp] theorem State.failPermx_rolls (id : Nat) : (s.failPermx id).rolls = s.rolls := by
  unfold State.failPermx
  split <;> simp

@[simp] theorem State.failBoth_rolls (id : Nat) : (s.failBoth id).rolls = s.rolls := by
  unfold State.failBoth
  split <;> simp

@[simp] theorem State.cancelPermx_rolls (name : Nat) : (s.cancelPermx name).rolls = s.rolls := by simp [State.cancelPermx]

@[simp] theorem State.modTape_rolls (fold name : Nat) (f : TapeS → TapeS) : (s.modTape fold name f).rolls = s.rolls := (rfl)

@[simp] theorem State.unrecord_rolls (p : Proc) (len : Nat) : (s.unrecord p len).rolls = s.rolls := by
  unfold State.unrecord
  split <;> simp

@[simp] theorem State.modTileAt_rolls (core n : Nat) (f : Tile → Tile) : (s.modTileAt core n f).rolls = s.rolls := (rfl)

@[simp] theorem State.modBank_rolls (core k : Nat) (f : Bank → Bank) : (s.modBank core k f).rolls = s.rolls := (rfl)

@[simp] theorem State.putRow_rolls (core n row : Nat) (codes : List Nat) (scales : List Byte) :
    (s.putRow core n row codes scales).1.rolls = s.rolls := by simp [State.putRow]

@[simp] theorem State.scheduleRun_rolls (core : Nat) (r : TRun) : (s.scheduleRun core r).rolls = s.rolls := (rfl)

@[simp] theorem State.startRun_rolls (core : Nat) (p : Proc) (remote : Bool) (op : TOp) (ftz daz : Bool) (word delay taped : Nat)
    (resume : Option SeqState) : (s.startRun core p remote op ftz daz word delay taped resume).rolls = s.rolls := by
  unfold State.startRun
  extract_lets l step l' gang r t u
  have ht : t.rolls = s.rolls := by
    unfold t
    split <;> simp
  have hu : u.rolls = t.rolls := by
    unfold u
    split <;> simp
  clear_value u
  split <;> simp [hu, ht]

@[simp] theorem State.gangAbort_rolls (x : Nat × Nat × Proc × TRun) (reason : Nat) :
    (s.gangAbort x reason).rolls = s.rolls := by simp [State.gangAbort]

@[simp] theorem State.gangLose_rolls (k : Nat) (p : Proc) (q : SeqState) :
    (s.gangLose k p q).rolls = s.rolls := by simp [State.gangLose]

@[simp] theorem State.gangFail_rolls (gid ordinal reason : Nat) : (s.gangFail gid ordinal reason).rolls = s.rolls := by
  refine (rolls_foldl (fun t e => ?_) _).trans (rolls_foldl (fun t x => State.gangAbort_rolls _ _) _)
  (repeat' split) <;> simp

@[simp] theorem State.sliceTrips_rolls (core : Nat) (ps : List (Nat × Nat)) :
    (s.sliceTrips core ps).1.rolls = s.rolls := by simp [State.sliceTrips]

@[simp] theorem State.bookSlices_rolls (core : Nat) (ps : List (Nat × Nat)) : (s.bookSlices core ps).rolls = s.rolls := by simp [State.bookSlices]

@[simp] theorem State.putStream_rolls (core n : Nat) (bs : List Byte) : (s.putStream core n bs).rolls = s.rolls := by
  unfold State.putStream
  extract_lets y rb t
  have ht : t.rolls = s.rolls := rolls_foldl (fun t r => State.writeMem_rolls _ _) _
  split <;> simp [ht]

@[simp] theorem State.putParts_rolls (core name gid level : Nat) (ps : List (Nat × Nat)) (bs : List Byte) :
    (s.putParts core name gid level ps bs).rolls = s.rolls := by
  refine List.foldlRecOn (motive := fun acc : State × List Byte => acc.1.rolls = s.rolls) ps _ rfl fun acc hacc x _ => ?_
  dsimp only
  split <;> simp [hacc]

@[simp] theorem State.breakTransfer_rolls (core n : Nat) : (s.breakTransfer core n).rolls = s.rolls := by
  unfold State.breakTransfer
  dsimp only
  (repeat' split) <;> simp

@[simp] theorem State.beginTileTransfer_rolls (core n : Nat) (a : Agent) (load : Bool) (ps : List (Nat × Nat)) :
    (s.beginTileTransfer core n a load ps).rolls = s.rolls := by simp [State.beginTileTransfer]

@[simp] theorem State.beginDrain_rolls (core : Nat) (p : Proc) (d k : Nat) (ftz rel : Bool) (remote : Option (Nat × Nat × Nat × Nat × Bool)) :
    (s.beginDrain core p d k ftz rel remote).rolls = s.rolls := by simp [State.beginDrain]

@[simp] theorem State.refuseCommand_rolls (core name : Nat) (op : TOp) : (s.refuseCommand core name op).rolls = s.rolls := by
  unfold State.refuseCommand
  split <;> simp

@[simp] theorem State.runCommands_rolls (core fuel : Nat) : (s.runCommands core fuel).rolls = s.rolls := by
  induction fuel generalizing s with
  | zero => rfl
  | succ n ih =>
    unfold State.runCommands
    split
    · rfl
    split
    · rfl
    · extract_lets pop
      have popped (t : State) : (pop t).rolls = t.rolls := by simp [pop]
      clear_value pop
      split
      · split
        · simp [ih, popped]
        split
        · rfl
        split
        · extract_lets load lay step
          split <;> simp [ih, popped]
        · extract_lets load lay step
          split <;> simp [ih, popped]
        · simp [ih, popped]
        · split <;> simp [ih, popped]
      · simp [ih, popped]

/-! ### Frames to the host -/

@[simp] theorem State.putFrame_rolls (pkg : Nat) (ws : List Word) (credit : Option EndLoc) : (s.putFrame pkg ws credit).rolls = s.rolls := by
  unfold State.putFrame
  (repeat' split) <;> simp

@[simp] theorem State.sendFrame_rolls (pkg type tag addr : Nat) (payload : List Word) :
    (s.sendFrame pkg type tag addr payload).rolls = s.rolls := by simp [State.sendFrame]

@[simp] theorem State.toProcess_rolls (src : Source) (bs : List Byte) : (s.toProcess src bs).rolls = s.rolls := by
  unfold State.toProcess
  (repeat' split) <;> simp

@[simp] theorem State.toSource_rolls (pkg : Nat) (src : Source) (type tag : Nat) (ws : List Word) :
    (s.toSource pkg src type tag ws).rolls = s.rolls := by
  unfold State.toSource
  split <;> simp

@[simp] theorem State.faultReport_rolls (l : Launch) (kind : Nat) (note : Word) (body : List Word) :
    (s.faultReport l kind note body).rolls = s.rolls := by simp [State.faultReport]

/-! ### Tapes -/

@[simp] theorem State.walkAt_rolls (fold name n : Nat) : (s.walkAt fold name n).rolls = s.rolls := (rfl)

@[simp] theorem State.beginSpill_rolls (fold name : Nat) : (s.beginSpill fold name).rolls = s.rolls := by
  unfold State.beginSpill
  split
  · split
    · extract_lets upto ls r
      have hr : r.1.rolls = s.rolls := State.trips_rolls (fun u x => by split <;> simp) _
      clear_value r
      simpa using hr
    · rfl
  · rfl

@[simp] theorem State.serveTape_rolls (fold name : Nat) : (s.serveTape fold name).rolls = s.rolls := by
  unfold State.serveTape
  split <;> simp

@[simp] theorem State.leaveTape_rolls (fold name : Nat) : (s.leaveTape fold name).rolls = s.rolls := by
  unfold State.leaveTape
  dsimp only
  (repeat' split) <;> simp

@[simp] theorem State.closeTape_rolls (fold name : Nat) : (s.closeTape fold name).rolls = s.rolls := by simp [State.closeTape]

@[simp] theorem State.endTapeUse_rolls (k : Nat) (p : Proc) (h_ : Hold) (v : Word) :
    (s.endTapeUse k p h_ v).rolls = s.rolls := by simp [State.endTapeUse]

theorem State.tapeWrite_rolls (a : Agent) (name va : Nat) (bs : List Byte) :
    ∀ s', (s.tapeWrite a name va bs) = some s' → s'.rolls = s.rolls := by
  refine List.foldlRecOn (motive := fun o : Option State => ∀ s', o = some s' → s'.rolls = s.rolls) _ _ ?_ fun o ho x _ => ?_
  · rintro _ ⟨⟩
    rfl
  · split
    · simp
    · next t =>
      (repeat' split) <;> simp [ho t rfl]

@[simp] theorem State.tapeLost_rolls (a : Agent) (va : Nat) : (s.tapeLost a va).rolls = s.rolls := by
  unfold State.tapeLost
  split <;> simp

@[simp] theorem State.storeGrads_rolls (core : Nat) (g : Grads) : (s.storeGrads core g).rolls = s.rolls := by
  refine rolls_foldl (fun t n => ?_) _
  simp

@[simp] theorem State.reverseLoad_rolls (p : Proc) (t : TapeS) (w : RevWork) : (s.reverseLoad p t w).s.rolls = s.rolls := by
  unfold State.reverseLoad
  split
  · rfl
  · extract_lets a lay f es n r
    have hr : r.1.s.rolls = s.rolls := by
      refine List.foldlRecOn (motive := fun acc : RevDone × Nat => acc.1.s.rolls = s.rolls) _ _ rfl fun acc hacc e _ => ?_
      dsimp only
      split
      · exact hacc
      split
      · exact hacc
      split
      · next u hu => exact (State.tapeWrite_rolls _ _ _ _ _ hu).trans hacc
      · exact hacc
    split <;> exact hr

@[simp] theorem State.fillBuffer_rolls (core : Nat) (t : TapeS) (o : RevOps) : (s.fillBuffer core t o).rolls = s.rolls := by
  refine rolls_foldl (fun t x => ?_) _
  split <;> simp

theorem State.applyRecord_rolls (p : Proc) (t : TapeS) (w : RevWork) : ∀ x, s.applyRecord p t w = .ok x → x.s.rolls = s.rolls := by
  unfold State.applyRecord
  dsimp only
  (repeat' split) <;> rintro _ ⟨⟩ <;> simp

@[simp] theorem State.pauseWalk_rolls (k : Nat) (p : Proc) : (s.pauseWalk k p).rolls = s.rolls := by simp [State.pauseWalk]

@[simp] theorem State.trapWalk_rolls (k : Nat) (p : Proc) (cause : Nat) (eval : Word) (va : Option Nat) :
    (s.trapWalk k p cause eval va).rolls = s.rolls := by
  unfold State.trapWalk
  split <;> simp

@[simp] theorem State.stopWalk_rolls (k : Nat) (p : Proc) (t : TapeS) (e : RevStop) : (s.stopWalk k p t e).rolls = s.rolls := by
  unfold State.stopWalk
  split <;> simp

@[simp] theorem State.finishWalk_rolls (k : Nat) (p : Proc) (t : TapeS) : (s.finishWalk k p t).rolls = s.rolls := by
  unfold State.finishWalk
  (repeat' split) <;> simp

@[simp] theorem State.nextRecord_rolls (k : Nat) (p : Proc) (fuel : Nat) (t : TapeS) : (s.nextRecord k p fuel t).rolls = s.rolls := by
  induction fuel generalizing s t with
  | zero => rfl
  | succ n ih =>
    unfold State.nextRecord
    extract_lets fold
    (repeat' split) <;> simp [ih]

@[simp] theorem State.walkOn_rolls (k : Nat) (p : Proc) (t : TapeS) : (s.walkOn k p t).rolls = s.rolls := by simp [State.walkOn]

@[simp] theorem State.passRecord_rolls (fold name plen : Nat) (fl : FlagSet) : (s.passRecord fold name plen fl).rolls = s.rolls := (rfl)

@[simp] theorem State.endRecord_rolls (k : Nat) (p : Proc) (t : TapeS) : (s.endRecord k p t).rolls = s.rolls := by
  unfold State.endRecord
  extract_lets fold s0
  have h0 : s0.rolls = s.rolls := by simp [s0]
  split
  · simpa using h0
  split
  · simpa using h0
  split
  · simpa using h0
  · next d hd =>
    extract_lets u
    have hu : u.rolls = s.rolls := by simpa [u, h0] using State.applyRecord_rolls _ _ _ _ hd
    clear_value u
    split
    · simpa using hu
    · split <;> simp [hu]

/-! ### What a process holds -/

@[simp] theorem State.modSpe_rolls (fold : Nat) (f : SpeS → SpeS) : (s.modSpe fold f).rolls = s.rolls := (rfl)

@[simp] theorem State.dropJob_rolls (fold name : Nat) : (s.dropJob fold name).rolls = s.rolls := (rfl)

@[simp] theorem State.cancelTransfers_rolls (p : Proc) : (s.cancelTransfers p).rolls = s.rolls := by
  unfold State.cancelTransfers
  extract_lets mine t u
  have hu : u.rolls = t.rolls := by
    refine rolls_foldl (fun v e => ?_) _
    (repeat' split) <;> simp
  exact (State.cancelPermx_rolls _).trans hu

@[simp] theorem State.freeTiles_rolls (p : Proc) : (s.freeTiles p).rolls = s.rolls := by
  refine rolls_foldl (fun t n => ?_) _
  dsimp only
  split
  · rw [State.modTileAt_rolls]
    split <;> simp
  · rfl

@[simp] theorem State.freeBanks_rolls (p : Proc) : (s.freeBanks p).rolls = s.rolls := by
  refine rolls_foldl (fun t k => ?_) _
  dsimp only
  rw [State.modBank_rolls]
  (repeat' split) <;> simp

@[simp] theorem State.freeRuns_rolls (p : Proc) : (s.freeRuns p).rolls = s.rolls := by
  unfold State.freeRuns
  extract_lets stop t
  have ht : t.rolls = s.rolls := rfl
  split
  · exact ht
  · exact (rolls_foldl (fun u o => State.gangFail_rolls _ _ _) _).trans ht

@[simp] theorem State.freeTape_rolls (k : Nat) (p : Proc) : (s.freeTape k p).rolls = s.rolls := by
  unfold State.freeTape
  split <;> simp

@[simp] theorem State.freeSpe_rolls (p : Proc) : (s.freeSpe p).rolls = s.rolls := by
  unfold State.freeSpe
  split <;> simp

@[simp] theorem State.freeEngines_rolls (k : Nat) (p : Proc) : (s.freeEngines k p).rolls = s.rolls := by
  unfold State.freeEngines
  simp

@[simp] theorem State.dropRequests_rolls (k : Nat) (p : Proc) : (s.dropRequests k p).rolls = s.rolls := by
  unfold State.dropRequests
  split <;> simp

/-! ### Notes, groups and launches -/

@[simp] theorem State.setErr_rolls (p : Proc) (bits : Word) : (s.setErr p bits).rolls = s.rolls := by simp [State.setErr]

@[simp] theorem State.noteToSource_rolls (p : Proc) (note : Word) : (s.noteToSource p note).rolls = s.rolls := by
  unfold State.noteToSource
  split <;> simp

@[simp] theorem State.nextNote_rolls (sup way : Nat) : (s.nextNote sup way).rolls = s.rolls := by
  unfold State.nextNote
  split <;> simp

@[simp] theorem State.checkTrapw_rolls (sup : Nat) : (s.checkTrapw sup).rolls = s.rolls := by
  refine State.modNamed_rolls _ fun k p t => ?_
  split <;> simp

@[simp] theorem State.leaveGroup_rolls (gid name : Nat) : (s.leaveGroup gid name).rolls = s.rolls := by
  unfold State.leaveGroup
  cases hg : s.group? gid with
  | none => rfl
  | some g =>
    dsimp only
    have left : (s.putGroup gid { g with live := g.live.erase name, arrived := g.arrived.erase name }).rolls = s.rolls :=
      State.putGroup_rolls (by simp [hg])
    (repeat' split)
    · next hk _ =>
      exact (State.checkTrapw_rolls _).trans ((State.delGroup_rolls (by simpa [State.group?, State.putGroup] using hk)).trans left)
    all_goals simp [left]

@[simp] theorem State.dropSupervisor_rolls (name : Nat) : (s.dropSupervisor name).rolls = s.rolls := by simp [State.dropSupervisor]

@[simp] theorem State.dropNotes_rolls (name : Nat) : (s.dropNotes name).rolls = s.rolls := by simp [State.dropNotes]

@[simp] theorem State.checkWave_rolls (p : Proc) : (s.checkWave p).rolls = s.rolls := by
  unfold State.checkWave
  split <;> simp

@[simp] theorem State.removeRecord_rolls (k : Nat) (p : Proc) : (s.removeRecord k p).rolls = s.rolls := by simp [State.removeRecord]

end Sys2Proof.Machine
end

section
/-! PROOFS. Barriers, EXIT and KILLG (06 R160 to R162, R169, R170, R177). -/


namespace Sys2Proof.Machine

section
variable {s : State} {k : Nat} {p : Proc} {g : Group}

/-! ### Barriers -/

theorem block_dueIn {n : Nat} {e : Ev} (h : s.DueIn n e) (hp : s.proc k = some p) (w : Wait) : (s.block k w).DueIn n e := by
  rw [block_eq hp]
  have hsets (t : State) (q : Proc) (ht : t.DueIn n e) : (t.setProbe q).DueIn n e := by
    unfold State.setProbe
    split
    · exact (mem_enqueue _ _ _ _).2 (.inr ht)
    · exact ht
  exact hsets _ _ h

theorem modProc_dueIn {n : Nat} {e : Ev} (h : s.DueIn n e) (i : Nat) (f : Proc → Proc) : (s.modProc i f).DueIn n e := by
  unfold State.DueIn
  rwa [State.modProc_agenda, (congrArg State.cycle (modProc_rest s i f) :)]

/-- A member that has nothing to release, and whose arrival in the current phase has set out. -/
theorem arrive_settled (hp : s.proc k = some p) (hs : s.Settled p) :
    s.arrive k p g = (s.putProc k { p with arriving := some g.phase }).after (s.oneway p.core g.home) (.barrierArrival p.gid p.name) := by
  unfold State.arrive
  rw [releaseStores_of_settled hp hs, modProc_eq hp]

theorem hasArrived_false (h : p.name ∉ g.arrived) (ha : p.arriving ≠ some g.phase) : hasArrived g p = false := by
  simp [hasArrived, h, ha]

theorem exec_garr (hi : s.Issues k p) (hg : s.group? p.gid = some g) (hn : hasArrived g p = false) {d : Reg} (ht : s.Takes p [d]) :
    exec (.garr d) s = .next ((s.arrive k p g).retire k 0 [(d, BitVec.ofNat 64 g.phase)]) := by
  refine (onCur_next hi _).trans ?_
  rw [issue_ok (gives_nil s p) ht]
  simp only [hg, hn]
  rfl

theorem exec_gbar (hi : s.Issues k p) (hg : s.group? p.gid = some g) (hn : hasArrived g p = false) {d : Reg} (ht : s.Takes p [d]) :
    exec (.gbar d) s = .next (((s.arrive k p g).block k (.barrier g.phase)).modProc k (fun q => { q with
      hold := some { consume := 0, dst := some d, issuedAt := s.cycle } })) := by
  refine (onCur_next hi _).trans ?_
  rw [issue_ok (gives_nil s p) ht]
  simp only [hg, hn]
  rfl

theorem exec_gwait {a : Src} {x : Word} (h : s.Runs k p [srcField a 0] [x] []) (hg : s.group? p.gid = some g) :
    exec (.gwait a) s = .next (if x.toNat < g.phase then s.retire k (consumeMask p [srcField a 0]) [] else s.block k (.barrier x.toNat)) := by
  obtain ⟨hi, hgives, htakes⟩ := h
  refine (onCur_next hi _).trans ?_
  rw [issue_ok hgives htakes]
  simp only [hg]
  rfl

theorem gexp_none {a b : Src} {x : Word} (h : s.Runs k p [srcField a 0, srcField b 1] [x, 0] []) :
    exec (.gexp a b) s = .next (s.retire k (consumeMask p [srcField a 0, srcField b 1]) []) := by
  obtain ⟨hi, hgives, htakes⟩ := h
  refine (onCur_next hi _).trans ?_
  rw [issue_ok hgives htakes]
  exact congrArg _ (if_pos rfl)

theorem gexp_adds {a b : Src} {x y : Word} {ke : Nat} {z : Ep} (h : s.Runs k p [srcField a 0, srcField b 1] [x, y] []) (hy : y ≠ 0)
    (hz : s.handle p.name (x.toNat % 64) = some (ke, z)) (hg : s.group? p.gid = some g) (hl : g.expects.length < 16) :
    exec (.gexp a b) s = .next ((s.putGroup p.gid { g with expects := g.expects ++ [(p.name, ke, y.toNat)] }).retire k
      (consumeMask p [srcField a 0, srcField b 1]) []) := by
  obtain ⟨hi, hgives, htakes⟩ := h
  refine (onCur_next hi _).trans ?_
  rw [issue_ok hgives htakes]
  refine congrArg _ ((if_neg hy).trans ?_)
  change (match s.handle p.name (x.toNat % 64), s.group? p.gid with
    | none, _ => _ | some _, none => _ | some (_, _), some _ => _) = _
  rw [hz, hg]
  exact if_neg (by omega)

/-! The home -/

theorem complete_groups (t : State) (i : Nat) (ws : List (Reg × Word)) : (t.complete i ws).groups = t.groups := by
  have hready (u : State) (j : Nat) : (u.ready j).groups = u.groups := (congrArg State.groups (ready_rest u j) :)
  unfold State.complete
  cases t.proc i with
  | none => rfl
  | some q =>
    cases hq : q.hold with
    | none => simp only [hq]
    | some h =>
      simp only [hq]
      exact (hready ..).trans (congrArg State.groups (State.AtPorts.retire t i _ ws).2 :)

theorem releaseWaiters_groups (t : State) (gid phase : Nat) : (t.releaseWaiters gid phase).groups = t.groups := by
  refine List.foldlRecOn (motive := fun u : State => u.groups = t.groups) _ _ rfl fun u hu e _ => Eq.trans ?_ hu
  repeat' split
  · exact complete_groups ..
  · exact complete_groups ..
  · exact (congrArg State.groups (ready_rest u e.1) :)
  all_goals rfl

theorem checkPhase_done {gid : Nat} (hg : s.group? gid = some g) (hd : phaseDone g = true) :
    ((s.checkPhase gid).group? gid).map (fun y => (y.phase, y.arrived)) = some (g.phase + 1, []) := by
  have hstep : s.checkPhase gid =
      (s.putGroup gid { g with phase := g.phase + 1, arrived := [], expects := [] }).releaseWaiters gid (g.phase + 1) := by
    unfold State.checkPhase
    simp only [hg, hd, if_true]
  have hgroups := (congrArg State.groups hstep).trans (releaseWaiters_groups ..)
  unfold State.group?
  rw [hgroups, State.putGroup, tget_tput_self]
  rfl

theorem checkPhase_open {gid : Nat} (hg : s.group? gid = some g) (hd : phaseDone g = false) : s.checkPhase gid = s := by
  unfold State.checkPhase
  simp [hg, hd]

/-- The home enters an arrival, and then looks at the phase. -/
theorem barrierArrival_enters {j n : Nat} {r : Proc} (hn : s.named n = some (j, r)) {gid : Nat} (hg : s.group? gid = some g) (hl : n ∈ g.live)
    (ha : n ∉ g.arrived) :
    exec (.barrierArrival gid n) s =
      .next (((s.putGroup gid { g with arrived := g.arrived ++ [n] }).putProc j { r with arriving := none }).checkPhase gid) := by
  have hnamed : (s.putGroup gid { g with arrived := g.arrived ++ [n] }).named n = some (j, r) := hn
  show Host.Outcome.next (barrierArrival gid n s) = _
  unfold barrierArrival
  simp only [hg, modNamed_of_named hnamed]
  rw [if_pos (by simp [hl, ha])]

theorem barrierPhases : Claims.BarrierPhases := by
  intro s k p g hi hg hsb hamo
  have hset : s.Settled p := ⟨hsb, hamo⟩
  refine ⟨fun d ht hin ha => ?_, fun a x h => ?_, fun a b x h => gexp_none h, fun a b x y ke z h hy hz hl => gexp_adds h hy hz hg hl,
    fun j r n hn hgid hl ha hpend => ?_⟩
  · have hnot := hasArrived_false hin ha
    have harrive := arrive_settled (g := g) hi.2 hset
    have hproc : (s.arrive k p g).proc k = some { p with arriving := some g.phase } := by
      rw [harrive]
      exact State.putProc_proc_self ..
    have hdue : (s.arrive k p g).DueIn (s.oneway p.core g.home) (.barrierArrival p.gid p.name) := by
      rw [harrive]
      exact dueIn_after ..
    have hwaits := block_proc hproc (.barrier g.phase)
    exact ⟨⟨_, _, exec_garr hi hg hnot ht, hdue, hproc, rfl⟩,
      ⟨_, _, exec_gbar hi hg hnot ht, modProc_dueIn (block_dueIn hdue hproc _) _ _, (proc_modProc hwaits _ k).trans (if_pos rfl), rfl, rfl, rfl, rfl⟩⟩
  · have hexec := exec_gwait h hg
    exact ⟨fun hlt => hexec.trans (congrArg _ (if_pos hlt)), fun hle => hexec.trans (congrArg _ (if_neg (by omega)))⟩
  · have hentered : ((s.putGroup p.gid { g with arrived := g.arrived ++ [n] }).putProc j { r with arriving := none }).group? p.gid =
        some { g with arrived := g.arrived ++ [n] } := tget_tput_self ..
    refine ⟨_, barrierArrival_enters hn hg hl ha, fun hexp hall => ?_, fun hmiss => ?_⟩
    · refine checkPhase_done (g := { g with arrived := g.arrived ++ [n] }) hentered ?_
      have hne : g.live ≠ [] := List.ne_nil_of_mem hl
      simpa [phaseDone, hpend, hexp, hne] using hall
    · rw [checkPhase_open hentered]
      · rw [hentered]
        rfl
      · obtain ⟨y, hy, hya, hyn⟩ := hmiss
        have hall : g.live.all (fun m => (g.arrived ++ [n]).contains m) = false := by
          rw [List.all_eq_false]
          exact ⟨y, hy, by simp [hya, hyn]⟩
        simp only [phaseDone, hall, Bool.and_false, Bool.false_and]

/-! ### EXIT -/

theorem exec_exit {a : Src} {x : Word} (h : s.Runs k p [srcField a 0] [x] []) :
    exec (.exit a) s = .next (((s.block k .exitDrain).modProc k (fun q => { q with
      exiting := some x, hold := some { consume := consumeMask p [srcField a 0], issuedAt := s.cycle } })).after 1 (.exitDrainComplete p.name)) := by
  obtain ⟨hi, hgives, htakes⟩ := h
  refine (onCur_next hi _).trans ?_
  rw [issue_ok hgives htakes]
  rfl

/-- EXIT_DRAIN_COMPLETE of a process that waits at its EXIT. -/
theorem exec_exitDrainComplete {x : Word} (hn : s.named p.name = some (k, p)) (hw : p.wait = .exitDrain) (hx : p.exiting = some x) :
    exec (.exitDrainComplete p.name) s = .next (if s.hasStores p then s
      else if s.engineBusy p then s.after 1 (.exitDrainComplete p.name)
      else if p.st == .suspended || p.st == .migrating then s.ready k
      else s.freeProc k p (foldStatus x)) := by
  show Host.Outcome.next (exitDrainComplete p.name s) = _
  unfold exitDrainComplete
  simp only [modNamed_of_named hn, hw, hx]

section
variable {t u : State}

theorem dir_of_rolls (h : u.rolls = t.rolls) : u.dir = t.dir := congrArg Prod.fst h

theorem entry_of_rolls (h : u.rolls = t.rolls) (i : Nat) :
    (tget u.ltab i).map (fun e => (e.launch, e.live, e.count)) = (tget t.ltab i).map (fun e => (e.launch, e.live, e.count)) :=
  congrFun (congrArg (fun r => r.2.1) h) i

theorem killed_of_rolls (h : u.rolls = t.rolls) (gid : Nat) : (u.group? gid).bind Group.killed = (t.group? gid).bind Group.killed :=
  congrFun (congrArg (fun r => r.2.2) h) gid

/-- A process leaves its launch and the directory. -/
def State.strike (t : State) (p : Proc) (f : LaunchEntry → LaunchEntry) : State :=
  { t.modLtab p (fun e => { f e with live := e.live - 1 }) with dir := tdel (t.modLtab p (fun e => { f e with live := e.live - 1 })).dir p.name }

theorem strike_keyOf (t : State) (p : Proc) (f : LaunchEntry → LaunchEntry) : (t.strike p f).keyOf p.name = none := tget_tdel_self ..

theorem strike_groups (t : State) (p : Proc) (f : LaunchEntry → LaunchEntry) : (t.strike p f).groups = t.groups :=
  (congrArg State.groups (modLtab_rest t p _) :)

theorem strike_entry {p : Proc} {e : LaunchEntry} (h : tget t.ltab (p.core * 16 + p.launch) = some e) (f : LaunchEntry → LaunchEntry) :
    tget (t.strike p f).ltab (p.core * 16 + p.launch) = some { f e with live := e.live - 1 } := by
  unfold State.strike State.modLtab
  simp only [h]
  exact tget_tput_self ..
end

/-- The end of a process strikes it out; all else that it does leaves directory, launch table and kill counts as they are. -/
theorem freeProc_rolls (s : State) (k : Nat) (p : Proc) (f : LaunchEntry → LaunchEntry) :
    ∃ t : State, t.rolls = s.rolls ∧ (s.freeProc k p f).rolls = (t.strike p f).rolls := by
  refine ⟨((s.dropRequests k p).freeEngines k p).removeRecord k p, ?_, ?_⟩
  · rw [State.removeRecord_rolls, State.freeEngines_rolls, State.dropRequests_rolls]
  · unfold State.freeProc
    generalize ((s.dropRequests k p).freeEngines k p).removeRecord k p = t
    dsimp only
    rw [State.checkWave_rolls, State.leaveGroup_rolls, State.dropSupervisor_rolls, State.dropNotes_rolls]
    rfl

theorem freeProc_keyOf (s : State) (k : Nat) (p : Proc) (f : LaunchEntry → LaunchEntry) : (s.freeProc k p f).keyOf p.name = none := by
  obtain ⟨t, _, ht⟩ := freeProc_rolls s k p f
  unfold State.keyOf
  rw [dir_of_rolls ht]
  exact strike_keyOf t p f

theorem freeProc_killed (s : State) (k : Nat) (p : Proc) (f : LaunchEntry → LaunchEntry) (gid : Nat) :
    ((s.freeProc k p f).group? gid).bind Group.killed = (s.group? gid).bind Group.killed := by
  obtain ⟨t, hkept, ht⟩ := freeProc_rolls s k p f
  rw [killed_of_rolls ht, ← killed_of_rolls hkept]
  unfold State.group?
  rw [strike_groups]

/-- LIVE of the entry of its launch falls by one, and its status is folded into the accumulators. -/
theorem freeProc_entry (k : Nat) (x : Word) {e : LaunchEntry} (he : tget s.ltab (p.core * 16 + p.launch) = some e) :
    (tget (s.freeProc k p (foldStatus x)).ltab (p.core * 16 + p.launch)).map (fun y => (y.launch, y.live, y.count)) =
      some (e.launch, e.live - 1, satCount (e.count + x.toNat % 2 ^ 48)) := by
  obtain ⟨t, hkept, ht⟩ := freeProc_rolls s k p (foldStatus x)
  have hentry := entry_of_rolls hkept (p.core * 16 + p.launch)
  rw [he] at hentry
  obtain ⟨y, hy, hsame⟩ := Option.map_eq_some_iff.1 hentry
  simp only [Prod.mk.injEq] at hsame
  obtain ⟨hlaunch, hlive, hcount⟩ := hsame
  rw [entry_of_rolls ht, strike_entry hy, Option.map_some, foldStatus, hlaunch, hlive, hcount]

theorem satCount_eq (n : Nat) : satCount n = min n (2 ^ 48 - 1) := by
  unfold satCount
  split <;> omega

theorem exitEnds : Claims.ExitEnds := by
  intro s k p
  refine ⟨fun a x h => ?_, fun x e hn hw hx he => ?_⟩
  · have hproc := h.1.2
    have hwaits := proc_modProc (block_proc hproc .exitDrain) (fun q => { q with
      exiting := some x, hold := some { consume := consumeMask p [srcField a 0], issuedAt := s.cycle } }) k
    have hmem : (s.block k .exitDrain).mem = s.mem := (congrArg State.mem (block_rest hproc Wait.exitDrain) :)
    exact ⟨_, _, exec_exit h, hwaits.trans (if_pos rfl), rfl, rfl, rfl, rfl, rfl, dueIn_after .., (State.modProc_mem ..).trans hmem⟩
  · have hexec := exec_exitDrainComplete hn hw hx
    refine ⟨fun hsb => ?_, fun hsb hbusy => ?_, fun hsb hbusy hst => ?_⟩
    · obtain ⟨y, hy, hname⟩ := hsb
      have hstores : s.hasStores p = true := List.any_eq_true.2 ⟨y, hy, by simpa using hname⟩
      exact hexec.trans (congrArg _ (if_pos hstores))
    · rw [hexec, hasStores_eq_false hsb, hbusy]
      rfl
    · have hends : exec (.exitDrainComplete p.name) s = .next (s.freeProc k p (foldStatus x)) := by
        rw [hexec, hasStores_eq_false hsb, hbusy, hst, if_neg Bool.false_ne_true, if_neg Bool.false_ne_true, if_neg (by decide)]
      refine ⟨_, hends, freeProc_keyOf s k p _, ?_⟩
      rw [← satCount_eq]
      exact freeProc_entry k x he

/-! ### KILLG -/

/-- An entry of a table is still there when another key is put, or it is the one that a lookup of the key finds. -/
theorem mem_tput_or {α : Type} {t : Tab α} {i : Nat} {v w : α} (h : tget t i = some v) {e : Nat × α} (he : e ∈ t) :
    e ∈ tput t i w ∨ e = (i, v) ∧ (i, w) ∈ tput t i w := by
  induction t with
  | nil => exact absurd he List.not_mem_nil
  | cons x t ih =>
    obtain ⟨j, y⟩ := x
    unfold tput
    split
    · next hlt =>
      rw [tget, if_neg (by omega)] at h
      obtain rfl | he := List.mem_cons.1 he
      · exact .inl List.mem_cons_self
      · exact (ih h he).imp (List.mem_cons_of_mem _) (And.imp_right (List.mem_cons_of_mem _))
    · split
      · next hj =>
        rw [tget, if_pos hj] at h
        obtain rfl | he := List.mem_cons.1 he
        · rw [hj, Option.some.inj h]
          exact .inr ⟨rfl, List.mem_cons_self⟩
        · exact .inl (List.mem_cons_of_mem _ he)
      · exact .inl (List.mem_cons_of_mem _ he)

/-- A member of a group is one still, with its core, when a process has a new producer. -/
theorem produce_members (hp : s.proc k = some p) (r : Reg) {gid : Nat} {e : Nat × Proc} (he : e ∈ s.procs) (hgid : e.2.gid = gid) :
    ∃ y ∈ (s.produce k r).members gid, y.2.core = e.2.core := by
  have hrest := withProducer_rest p r (p.nextTag r)
  have hmember {y : Nat × Proc} (hy : y ∈ (s.produce k r).procs) (hg : y.2.gid = gid) : y ∈ (s.produce k r).members gid :=
    List.mem_filter.2 ⟨hy, beq_iff_eq.2 hg⟩
  rw [produce_procs hp] at hmember
  obtain hin | ⟨rfl, hin⟩ := mem_tput_or (w := p.withProducer r (p.nextTag r)) hp he
  · exact ⟨e, hmember hin hgid, rfl⟩
  · exact ⟨_, hmember hin ((congrArg Proc.gid hrest :).trans hgid), (congrArg Proc.core hrest :)⟩

/-- The cycles from KILLG to the kill's arrival (log 4). -/
def State.killTime (s : State) (gid home first : Nat) : Nat :=
  first + 2 + ((((s.members gid).map (fun e => e.2.core)).dedup).map (fun c => s.oneway home c)).foldl max 1

theorem startKill_group? (s : State) (gid : Nat) (g : Group) (first : Nat) (d : FillTo) (q : Option BReq) :
    (s.startKill gid g first d q).group? gid = some { g with killed := some (d, 0), hostKill := q } := by
  have hput : (s.putGroup gid { g with killed := some (d, 0), hostKill := q }).group? gid =
      some { g with killed := some (d, 0), hostKill := q } := tget_tput_self ..
  unfold State.startKill
  dsimp only
  split
  · split <;> exact hput
  · exact (congrArg (fun u : State => u.group? gid) (foldl_after _ _ _ _).2.2 :).trans hput

/-- The kill sets out for the core of each member. -/
theorem startKill_dueIn (gid : Nat) (g : Group) (first : Nat) (d : FillTo) (q : Option BReq) {y : Nat × Proc} (hy : y ∈ s.members gid) :
    (s.startKill gid g first d q).DueIn (s.killTime gid g.home first) (.killArrival gid y.2.core) := by
  have hcore : y.2.core ∈ ((s.members gid).map (fun e => e.2.core)).dedup := List.mem_dedup.2 (List.mem_map_of_mem hy)
  unfold State.startKill
  dsimp only
  rw [if_neg (by simpa using List.ne_nil_of_mem hcore)]
  exact (foldl_after _ _ _ _).1 _ hcore

theorem exec_killg {d : Reg} {a : Src} {x : Word} (h : s.Runs k p [srcField a 0] [x] [d]) (hout : d ≠ 0 → (p.cell d).out < 3) (hl : 1 ≤ p.level) :
    exec (.killg d a) s = .next ((match s.group? x.toNat with
      | none => (s.produce k d).after (2 * s.oneway p.core p.core) (.fill (p.dest d) (failWord 8))
      | some g =>
        if g.killed.isSome then (s.produce k d).after (2 * s.oneway p.core g.home) (.fill (p.dest d) (failWord 8))
        else if p.level ≠ 2 && g.supervisor ≠ p.name then (s.produce k d).after (2 * s.oneway p.core g.home) (.fill (p.dest d) (failWord 7))
        else (s.produce k d).startKill x.toNat g (s.oneway p.core g.home) (p.dest d) none).retire k (consumeMask p [srcField a 0]) []) := by
  obtain ⟨hi, hgives, htakes⟩ := h
  refine (onCur_next hi _).trans ?_
  rw [needS_ok hl, issueFill_ok hgives htakes hout]
  cases hg : s.group? x.toNat <;> simp only [List.getD_cons_zero, hg]

theorem killg_priv {d : Reg} {a : Src} {x : Word} (h : s.Runs k p [srcField a 0] [x] [d]) (hl : p.level = 0) :
    exec (.killg d a) s = .next (s.raiseWord k 0x02) :=
  (onCur_next h.1 _).trans (congrArg _ (needS_priv (by omega) _))

theorem killg_cases {d : Reg} {a : Src} {x : Word} (h : s.Runs k p [srcField a 0] [x] [d]) (hout : d ≠ 0 → (p.cell d).out < 3) (hl : 1 ≤ p.level) :
    (s.group? x.toNat = none → exec (.killg d a) s = .next (((s.produce k d).after 2 (.fill (p.dest d) (failWord 8))).retire k
      (consumeMask p [srcField a 0]) [])) ∧
    (∀ g, s.group? x.toNat = some g → g.killed = none →
      (p.level ≠ 2 → g.supervisor ≠ p.name → exec (.killg d a) s = .next (((s.produce k d).after (2 * s.oneway p.core g.home)
        (.fill (p.dest d) (failWord 7))).retire k (consumeMask p [srcField a 0]) [])) ∧
      (p.level = 2 ∨ g.supervisor = p.name → exec (.killg d a) s =
        .next (((s.produce k d).startKill x.toNat g (s.oneway p.core g.home) (p.dest d) none).retire k (consumeMask p [srcField a 0]) []))) := by
  have hexec := exec_killg h hout hl
  have hself : s.oneway p.core p.core = 1 := if_pos rfl
  refine ⟨fun hg => ?_, fun g hg hk => ⟨fun h2 hsup => ?_, fun hmay => ?_⟩⟩
  · rw [hexec, hg, hself]
  · simp only [hexec, hg, hk]
    rw [if_neg (by simp), if_pos (by simp [h2, hsup])]
  · simp only [hexec, hg, hk]
    rw [if_neg (by simp), if_neg (by simpa [or_iff_not_imp_left] using hmay)]

/-- A kill that does not wait for an engine ends the process and counts it. -/
theorem killProc_ends (hm : p.st ≠ .migrating) (hw : s.killWaits p = false) {g : Group} {d : FillTo} {n : Nat} (hg : s.group? p.gid = some g)
    (hk : g.killed = some (d, n)) :
    (s.killProc k p).keyOf p.name = none ∧ ((s.killProc k p).group? p.gid).map Group.killed = some (some (d, n + 1)) := by
  have hfree := freeProc_killed s k p (fun e => { e with err := e.err ||| bitKilled }) p.gid
  have hkey := freeProc_keyOf s k p (fun e => { e with err := e.err ||| bitKilled })
  unfold State.killProc
  rw [if_neg (by simpa using hm), hw, if_neg Bool.false_ne_true]
  generalize s.freeProc k p (fun e => { e with err := e.err ||| bitKilled }) = t at *
  rw [hg] at hfree
  obtain ⟨y, hy, hyk⟩ := Option.bind_eq_some_iff.1 (hfree.trans hk)
  refine ⟨Eq.trans (congrArg (tget · p.name) (congrArg State.dir (modGroup_rest t p.gid _) :)) hkey, ?_⟩
  rw [modGroup_group?, if_pos rfl, hy, Option.map_some, Option.map_some, hyk]
  rfl

/-- What the kill's arrival makes of one process of its core. -/
def State.killAt (t : State) (e : Nat × Proc) : State :=
  match t.proc e.1 with
  | some p => t.killProc e.1 p
  | none => t

/-- What the kill's arrival leaves to do: it comes again for members that must wait, and the last core releases the group. -/
def State.afterKill (t : State) (gid core : Nat) : State :=
  (if (t.onCore core).any (fun e => e.2.gid == gid && e.2.st != .migrating) then t.after 1 (.killArrival gid core) else t).checkKilled gid core

theorem afterKill_rest (t : State) (gid core : Nat) : { t.afterKill gid core with agenda := t.agenda } = t := by
  have hcheck (u : State) : { u.checkKilled gid core with agenda := u.agenda } = u := by
    unfold State.checkKilled
    split
    · split <;> rfl
    · rfl
  unfold State.afterKill
  split
  · exact (congrArg (fun v : State => { v with agenda := t.agenda }) (hcheck _) :)
  · exact hcheck t

theorem exec_killArrival (s : State) (gid core : Nat) :
    exec (.killArrival gid core) s = .next (((s.onCore core).foldl (fun t e => if e.2.gid = gid then t.killAt e else t) s).afterKill gid core) := rfl

/-- A core that holds one member of the group kills it. -/
theorem killArrival_one {gid core : Nat} (hone : (s.onCore core).filter (fun e => e.2.gid == gid) = [(k, p)]) (hp : s.proc k = some p) :
    exec (.killArrival gid core) s = .next ((s.killProc k p).afterKill gid core) := by
  have hfilter := List.foldl_filter (p := fun e : Nat × Proc => e.2.gid == gid) (f := State.killAt) (l := s.onCore core) (init := s)
  simp only [beq_iff_eq] at hfilter
  rw [exec_killArrival, ← hfilter, hone, List.foldl_cons, List.foldl_nil, State.killAt, hp]

theorem checkTrapw_quiet {t : State} {sup : Nat} (h : ∀ j q, t.named sup = some (j, q) → q.wait ≠ .trapw) : t.checkTrapw sup = t := by
  unfold State.checkTrapw
  cases hn : t.named sup with
  | none => exact modNamed_of_none hn _
  | some e =>
    refine (modNamed_of_named (k := e.1) (p := e.2) hn _).trans ?_
    split
    · next hw _ => exact absurd hw (h e.1 e.2 hn)
    · rfl

/-- GROUP_RELEASE of a group whose members are all gone, to a supervisor that does not wait in TRAPW. -/
theorem exec_groupRelease {gid : Nat} {g : Group} {d : FillTo} {n : Nat} (hg : s.group? gid = some g) (hk : g.killed = some (d, n)) (hl : g.live = [])
    (hpend : g.pending = 0) (hh : g.hostKill = none) (hsup : ∀ j q, s.named g.supervisor = some (j, q) → q.wait ≠ .trapw) :
    exec (.groupRelease gid) s = .next (({ s with groups := tdel s.groups gid } : State).after
      (match s.named d.name with | some (_, q) => s.oneway g.home q.core | none => 1) (.fill d (BitVec.ofNat 64 n))) := by
  have hquiet : ({ s with groups := tdel s.groups gid } : State).checkTrapw g.supervisor = { s with groups := tdel s.groups gid } :=
    checkTrapw_quiet hsup
  show Host.Outcome.next (groupRelease gid s) = _
  unfold groupRelease
  simp only [hg, hquiet, hk, hl, hpend, hh]
  rfl

theorem killsGroups : Claims.KillsGroups := by
  refine ⟨fun s k p d a x h hout => ⟨killg_priv h, fun hl => (killg_cases h hout hl).1, fun g hl hg hk => ?_⟩,
    fun s gid core k p g d n hone hp hm hw hg hk => ?_, fun s gid g d n hg hk hl hpend hh hsup => ?_⟩
  · obtain ⟨hdenied, hkills⟩ := (killg_cases h hout hl).2 g hg hk
    refine ⟨hdenied, fun hmay => ⟨_, (s.produce k d).killTime x.toNat g.home (s.oneway p.core g.home), hkills hmay, ?_, fun e he hgid => ?_⟩⟩
    · rw [startKill_group?]
      rfl
    · obtain ⟨y, hy, hcore⟩ := produce_members h.1.2 d he hgid
      rw [← hcore]
      exact startKill_dueIn x.toNat g _ _ none hy
  · have hgid : p.gid = gid := by
      have hin : (k, p) ∈ (s.onCore core).filter (fun e => e.2.gid == gid) := hone ▸ List.mem_cons_self
      simpa using (List.mem_filter.1 hin).2
    subst hgid
    obtain ⟨hkey, hkilled⟩ := killProc_ends (k := k) hm hw hg hk
    have hrest := afterKill_rest (s.killProc k p) p.gid core
    refine ⟨_, killArrival_one hone hp, ?_, ?_⟩
    · rw [State.keyOf, (congrArg State.dir hrest :)]
      exact hkey
    · rw [State.group?, (congrArg State.groups hrest :)]
      exact hkilled
  · exact ⟨_, exec_groupRelease hg hk hl hpend hh hsup, tget_tdel_self .., due_of_dueIn (dueIn_after ..), rfl⟩

end

/-- Settles O28: the end of a process changes the directory, the launch tables' counts and the kill counts of groups only where its own name, launch and
group are entered (`freeProc_rolls`). -/
theorem groupsEnd : Obligations.GroupsEnd := ⟨barrierPhases, exitEnds, killsGroups⟩

end Sys2Proof.Machine
end

section
/-! PROOFS. What the operations on channels leave of the machine (07 R198 to R206). -/

namespace Sys2Proof.Machine

/-! ### What channel operations leave as it is -/

/-- From s to t only processes, endpoint entries, timers, tiles and the posts of ONCE have changed, and no event in flight is lost: what the
operations on channels leave of the machine. -/
structure State.Extends (s t : State) : Prop where
  rest : { t with procs := s.procs, eps := s.eps, folds := s.folds, tiles := s.tiles, onceDue := s.onceDue, agenda := s.agenda } = s
  events : ∀ x ∈ s.agenda, x ∈ t.agenda

namespace State.Extends

variable {s t u : State}

theorem refl (s : State) : s.Extends s := ⟨rfl, fun _ h => h⟩

theorem trans (h : s.Extends t) (g : t.Extends u) : s.Extends u where
  rest := (congrArg (fun x : State => { x with
    procs := s.procs, eps := s.eps, folds := s.folds, tiles := s.tiles, onceDue := s.onceDue, agenda := s.agenda }) g.rest :).trans h.rest
  events x hx := g.events x (h.events x hx)

theorem cycle (h : s.Extends t) : t.cycle = s.cycle := (congrArg State.cycle h.rest :)
theorem mem (h : s.Extends t) : t.mem = s.mem := (congrArg State.mem h.rest :)
theorem links (h : s.Extends t) : t.links = s.links := (congrArg State.links h.rest :)
theorem dir (h : s.Extends t) : t.dir = s.dir := (congrArg State.dir h.rest :)
theorem groups (h : s.Extends t) : t.groups = s.groups := (congrArg State.groups h.rest :)
theorem cores (h : s.Extends t) : t.cores = s.cores := (congrArg State.cores h.rest :)

theorem dueIn (h : s.Extends t) {n : Nat} {e : Ev} (hd : s.DueIn n e) : t.DueIn n e := by
  unfold State.DueIn
  rw [h.cycle]
  exact h.events _ hd

theorem of_same (h : { t with procs := s.procs, eps := s.eps, folds := s.folds, tiles := s.tiles, onceDue := s.onceDue } = s) : s.Extends t :=
  ⟨(congrArg (fun x : State => { x with agenda := s.agenda }) h :), fun _ hx => (congrArg State.agenda h :).symm ▸ hx⟩

theorem after (s : State) (n : Nat) (e : Ev) : s.Extends (s.after n e) := ⟨rfl, fun _ h => (mem_agenda_after ..).2 (.inr h)⟩
theorem atCycle (s : State) (n : Nat) (e : Ev) : s.Extends (s.atCycle n e) := ⟨rfl, fun _ h => (mem_enqueue ..).2 (.inr h)⟩
theorem putEp (s : State) (k : Nat) (e : Ep) : s.Extends (s.putEp k e) := of_same rfl
theorem putProc (s : State) (k : Nat) (p : Proc) : s.Extends (s.putProc k p) := of_same rfl

theorem setProbe (s : State) (p : Proc) : s.Extends (s.setProbe p) := by
  unfold State.setProbe
  split
  · exact atCycle ..
  · exact refl s

theorem disarm (s : State) (fold : Nat) (who : DlWho) : s.Extends (s.disarm fold who) := by
  unfold State.disarm
  dsimp only
  split
  · exact of_same rfl
  · exact (of_same (t := s.putFold fold _) rfl).trans (after ..)

theorem produceAs (s : State) (k : Nat) (r : Reg) (tag : BitVec 2) : s.Extends (s.produceAs k r tag) := by
  unfold State.produceAs
  split
  · dsimp only
    split
    · exact of_same rfl
    · exact of_same rfl
  · exact refl s

theorem armDeadline (s : State) (fold : Nat) (d : Deadline) : s.Extends (s.armDeadline fold d) := by
  unfold State.armDeadline
  dsimp only
  split
  · exact (of_same (t := s.putFold fold _) rfl).trans (atCycle ..)
  · exact of_same rfl

theorem drainTile (s : State) (m : Msg) : s.Extends (s.drainTile m) := by
  unfold State.drainTile
  split
  · exact of_same rfl
  · exact refl s

end State.Extends

/-- The way between two cores depends on the links alone. -/
theorem oneway_of_links {s t : State} (h : t.links = s.links) (a b : Nat) : t.oneway a b = s.oneway a b := by
  have hput (l : Tab Link) : ({ t with links := l } : State).oneway a b = ({ s with links := l } : State).oneway a b := rfl
  have := hput s.links
  rw [← h] at this
  exact this.trans (by rw [h])

end Sys2Proof.Machine
end

section
/-! PROOFS. Endpoint entries, and waits in channel instructions (07 R179, R198, R205). -/

namespace Sys2Proof.Machine

/-! ### Entries of the endpoint table -/

theorem ep_putEp (s : State) (k j : Nat) (e : Ep) : (s.putEp k e).ep j = if j = k then some e else s.ep j := tget_tput ..

@[simp] theorem ep_putEp_self (s : State) (k : Nat) (e : Ep) : (s.putEp k e).ep k = some e := tget_tput_self ..

theorem ep_putEp_ne (s : State) {k j : Nat} (e : Ep) (h : j ≠ k) : (s.putEp k e).ep j = s.ep j := tget_tput_ne _ _ h

theorem putEp_putEp (s : State) (k : Nat) (e x : Ep) : (s.putEp k e).putEp k x = s.putEp k x := by
  unfold State.putEp
  exact congrArg (fun t => { s with eps := t }) (tput_tput_self ..)

theorem modEp_eq {s : State} {k : Nat} {e : Ep} (h : s.ep k = some e) (f : Ep → Ep) : s.modEp k f = s.putEp k (f e) := by
  rw [State.modEp, h]

theorem mem_of_tget {α : Type} {t : Tab α} {i : Nat} {v : α} (h : tget t i = some v) : (i, v) ∈ t := by
  induction t with
  | nil => cases h
  | cons x t ih =>
    obtain ⟨j, w⟩ := x
    rw [tget] at h
    split at h
    · next hj => rw [hj, Option.some.inj h]; exact List.mem_cons_self ..
    · exact List.mem_cons_of_mem _ (ih h)

theorem handle_eq_some {s : State} {name h ke : Nat} {e : Ep} (hh : s.handle name h = some (ke, e)) :
    e.owner = name ∧ e.handle = h ∧ epHeld e = true ∧ (ke, e) ∈ s.eps := by
  have hmem := List.mem_of_find?_eq_some hh
  have hpred := List.find?_some hh
  simp only [Bool.and_eq_true, beq_iff_eq] at hpred
  exact ⟨hpred.1.1, hpred.1.2, hpred.2, hmem⟩

/-- An entry put in the place of the first that a test takes, or before it, is the first that the test takes, if it takes it. -/
theorem find?_tput {α : Type} {t : Tab α} {f : Nat × α → Bool} {i : Nat} {v w : α} (h : t.find? f = some (i, v)) (hw : f (i, w) = true) :
    (tput t i w).find? f = some (i, w) := by
  induction t with
  | nil => cases h
  | cons x t ih =>
    obtain ⟨j, z⟩ := x
    rw [List.find?_cons] at h
    rw [tput]
    split_ifs with hlt heq
    · split at h
      · simp only [Option.some.injEq, Prod.mk.injEq] at h
        omega
      · next hf => rw [List.find?_cons, hf]; exact ih h
    · rw [List.find?_cons, hw]
    · rw [List.find?_cons, hw]

/-- A handle names its end still after a change of the end that keeps its owner, its handle and that it is held. -/
theorem handle_putEp {s : State} {name h ke : Nat} {e x : Ep} (hh : s.handle name h = some (ke, e)) (ho : x.owner = e.owner)
    (hn : x.handle = e.handle) (hx : epHeld x = true) : (s.putEp ke x).handle name h = some (ke, x) := by
  obtain ⟨howner, hhandle, -, -⟩ := handle_eq_some hh
  exact find?_tput hh (by simp [ho, hn, hx, howner, hhandle])

theorem endReserve_of_unreserved {s : State} {e : Ep} (ke : Nat) (h : e.waitK ≠ 3) : s.endReserve ke e = s := if_pos h

@[simp] theorem ep_after (s : State) (n : Nat) (e : Ev) (k : Nat) : (s.after n e).ep k = s.ep k := rfl
@[simp] theorem ep_atCycle (s : State) (n : Nat) (e : Ev) (k : Nat) : (s.atCycle n e).ep k = s.ep k := rfl
@[simp] theorem ep_putProc (s : State) (k : Nat) (p : Proc) (j : Nat) : (s.putProc k p).ep j = s.ep j := rfl
@[simp] theorem handle_putProc (s : State) (k : Nat) (p : Proc) (n h : Nat) : (s.putProc k p).handle n h = s.handle n h := rfl
@[simp] theorem named_putEp (s : State) (k : Nat) (e : Ep) (n : Nat) : (s.putEp k e).named n = s.named n := rfl
@[simp] theorem named_atCycle (s : State) (c : Nat) (e : Ev) (n : Nat) : (s.atCycle c e).named n = s.named n := rfl

/-! ### Waiting in a channel instruction (07 R198, R205) -/

/-- A process that waits in a channel instruction or ALT: BLOCKED if it is heavy, and PARKED if it is light (06 Table 6.4). -/
def Proc.waiting (p : Proc) (w : Wait) (now : Nat) : Proc :=
  if p.heavy then p.blockedFor w now else { p with st := .parked, wait := w, blockedAt := now }

theorem waiting_same (p : Proc) (w : Wait) (now : Nat) :
    (p.waiting w now).wait = w ∧ (p.waiting w now).pc = p.pc ∧ (p.waiting w now).regs = p.regs ∧
      (p.waiting w now).st = if p.heavy then .blocked else .parked := by
  unfold Proc.waiting
  split <;> exact ⟨rfl, rfl, rfl, rfl⟩

theorem waiting_rest (p : Proc) (w : Wait) (now : Nat) : { p.waiting w now with
    st := p.st, wait := p.wait, blockedAt := p.blockedAt, episode := p.episode, probeFrom := p.probeFrom } = p := by
  unfold Proc.waiting
  split <;> rfl

theorem waitChan_eq {s : State} {k : Nat} {p : Proc} (hp : s.proc k = some p) (w : Wait) :
    s.waitChan k w = (s.putProc k (p.waiting w s.cycle)).setProbe (p.waiting w s.cycle) := by
  unfold State.waitChan Proc.waiting
  simp only [hp]
  split
  · exact block_eq hp w
  · have hwatched : ({ p with st := .parked, wait := w, blockedAt := s.cycle } : Proc).watched = false := rfl
    rw [State.park, modProc_eq hp, State.setProbe, hwatched, if_neg nofun]

@[simp] theorem proc_setProbe (s : State) (p : Proc) (j : Nat) : (s.setProbe p).proc j = s.proc j := by
  unfold State.proc
  rw [setProbe_procs]

theorem waitChan_proc {s : State} {k : Nat} {p : Proc} (hp : s.proc k = some p) (w : Wait) :
    (s.waitChan k w).proc k = some (p.waiting w s.cycle) := by
  rw [waitChan_eq hp, proc_setProbe, State.putProc_proc_self]

theorem State.Extends.waitChan {s : State} {k : Nat} {p : Proc} (hp : s.proc k = some p) (w : Wait) : s.Extends (s.waitChan k w) := by
  rw [waitChan_eq hp]
  exact (putProc ..).trans (setProbe ..)

theorem waitChan_eps {s : State} {k : Nat} {p : Proc} (hp : s.proc k = some p) (w : Wait) : (s.waitChan k w).eps = s.eps := by
  rw [waitChan_eq hp]
  exact (congrArg State.eps (setProbe_rest _ _) :)

/-- An end on which an instruction waits (07 Table 7.2). -/
def Ep.waitedOn (e : Ep) : Ep := { e with waitK := 1, st := if e.st = .opened then .wait else e.st }

/-- A process whose channel instruction is held. -/
def Proc.holding (p : Proc) (h : Hold) : Proc := { p with hold := some h }

theorem holdOn_eq {s : State} {k ke : Nat} {p : Proc} {x : Ep} (hp : s.proc k = some p) (hx : s.ep ke = some x) (e : Ep) (h : Hold) :
    s.holdOn k ke e h = ((s.putEp ke x.waitedOn).putProc k (p.holding { h with issuedAt := s.cycle })).waitChan k (.chan e.handle) := by
  rw [State.holdOn, modEp_eq hx, modProc_eq (show (s.putEp ke _).proc k = some p from hp)]
  rfl

end Sys2Proof.Machine
end

section
/-! PROOFS. Waits on a handle (07 R198, R205). -/

namespace Sys2Proof.Machine

variable {s t : State} {k ke : Nat} {p q : Proc} {e : Ep}

/-! ### Waits on a handle -/

/-- A process waits on a handle when its record has changed, beside its wait, in no more than what a hold and its producers change. -/
theorem waitsOn_of_waiting {h now : Nat} (ht : t.proc k = some (q.waiting (.chan h) now)) (hpc : q.pc = p.pc) (hregs : q.regs = p.regs)
    (hheavy : q.heavy = p.heavy) : t.WaitsOn k p h := by
  obtain ⟨hw, hpc', hregs', hst⟩ := waiting_same q (.chan h) now
  exact ⟨_, ht, hw, hpc'.trans hpc, hregs'.trans hregs, hst.trans (by rw [hheavy])⟩

theorem waitChan_waitsOn (hq : s.proc k = some q) (h : Nat) (hpc : q.pc = p.pc) (hregs : q.regs = p.regs) (hheavy : q.heavy = p.heavy) :
    (s.waitChan k (.chan h)).WaitsOn k p h := waitsOn_of_waiting (waitChan_proc hq _) hpc hregs hheavy

@[simp] theorem waitChan_ep (s : State) (k : Nat) (w : Wait) (j : Nat) : (s.waitChan k w).ep j = s.ep j := by
  unfold State.ep
  cases hp : s.proc k with
  | none => rw [State.waitChan, hp]
  | some p => rw [waitChan_eps hp]

section HoldOn

variable {x : Ep} (hp : s.proc k = some p) (hx : s.ep ke = some x) (h : Hold)
include hp hx

theorem holdOn_proc : (s.holdOn k ke e h).proc k = some ((p.holding { h with issuedAt := s.cycle }).waiting (.chan e.handle) s.cycle) := by
  rw [holdOn_eq hp hx, waitChan_proc (State.putProc_proc_self ..)]
  rfl

theorem holdOn_waitsOn : (s.holdOn k ke e h).WaitsOn k p e.handle := waitsOn_of_waiting (holdOn_proc hp hx h) rfl rfl rfl

theorem holdOn_extends : s.Extends (s.holdOn k ke e h) := by
  rw [holdOn_eq hp hx]
  exact ((State.Extends.putEp ..).trans (.putProc ..)).trans (.waitChan (State.putProc_proc_self ..) _)

theorem holdOn_ep (j : Nat) : (s.holdOn k ke e h).ep j = if j = ke then some x.waitedOn else s.ep j := by
  rw [holdOn_eq hp hx, waitChan_ep, ep_putProc, ep_putEp]

end HoldOn

end Sys2Proof.Machine
end

section
/-! PROOFS. The checks that channel instructions make on their handles (07 R180, R181, R188, R198). -/

namespace Sys2Proof.Machine

/-! ### The checks of an instruction on its handle (07 R180, R181, R188, R198) -/

/-- An instruction that makes the checks of R180, R181, R188 and R198 on its handle answers by the first that fails. -/
theorem refused_of_withEnd {i : Instr} {s : State} {k : Nat} {p : Proc} {x : Word} {recv : Bool} {kinds : List Nat} {go : State → Nat → Ep → State}
    (hi : exec i s = .next (s.withEnd k p x recv kinds go)) :
    (64 ≤ x.toNat → exec i s = .next (s.raiseWord k 0x01)) ∧
    (x.toNat < 64 → s.handle p.name x.toNat = none → exec i s = .next (s.waitChan k (.chan x.toNat))) ∧
    (∀ ke e n, x.toNat < 64 → s.handle p.name x.toNat = some (ke, e) → e.server = some (.dispenser n) → exec i s = .next (s.raise k 0x09 x)) ∧
    (∀ ke e, x.toNat < 64 → s.handle p.name x.toNat = some (ke, e) → (∀ n, e.server ≠ some (.dispenser n)) →
      (e.recv ≠ recv → exec i s = .next (s.raise k 0x0A x)) ∧
      (e.recv = recv → typKind e.typ ∉ kinds → exec i s = .next (s.raise k 0x09 x)) ∧
      (e.recv = recv → typKind e.typ ∈ kinds → e.st = .dead → exec i s = .next (s.raise k 0x0B x))) := by
  rw [hi]
  unfold State.withEnd
  refine ⟨fun h => ?_, fun h hn => ?_, fun ke e n h hn hs => ?_, fun ke e h hn hs => ?_⟩
  · rw [if_pos h]; rfl
  · rw [if_neg (Nat.not_le.2 h), hn]
  · simp only [if_neg (Nat.not_le.2 h), hn, hs, if_true, causeChanType]
  · have hdisp : (match e.server with | some (.dispenser _) => true | _ => false) = false := by
      split
      · next n heq => exact absurd heq (hs n)
      · rfl
    simp only [if_neg (Nat.not_le.2 h), hn, Bool.false_eq_true, if_false]
    refine ⟨fun hr => ?_, fun hr hk => ?_, fun hr hk hd => ?_⟩
    · rw [if_pos hr]; rfl
    · rw [if_neg (not_not.2 hr), if_pos (by simpa using hk)]; rfl
    · rw [if_neg (not_not.2 hr), if_neg (by simpa using hk), if_pos hd]; rfl

theorem gives_pair {s : State} {p : Proc} {f g : Field} {x y : Word} (hf : s.Gives p [f] [x]) (hg : s.Gives p [g] [y]) : s.Gives p [f, g] [x, y] := by
  simp only [State.Gives, List.map_cons, List.map_nil, List.cons.injEq, and_true] at hf hg ⊢
  exact ⟨hf, hg⟩

/-- The checks let an instruction of its direction and kind go on at a live end that no dispenser serves. -/
theorem withEnd_go {s : State} {k : Nat} {p : Proc} {x : Word} {recv : Bool} {kinds : List Nat} {ke : Nat} {e : Ep} (go : State → Nat → Ep → State)
    (hx : x.toNat < 64) (hh : s.handle p.name x.toNat = some (ke, e)) (hserver : e.server = none) (hrecv : e.recv = recv)
    (hkind : typKind e.typ ∈ kinds) (hst : e.st ≠ .dead) : s.withEnd k p x recv kinds go = go s ke e := by
  unfold State.withEnd
  simp [Nat.not_le.2 hx, hh, hserver, hrecv, hkind, hst]

section

variable {s : State} {k : Nat} {p : Proc} {d : Reg} {a b : Src} {x v : Word}

section
variable (hi : s.Issues k p) (ha : s.Gives p [srcField a 0] [x])
include hi ha

theorem recv_checks (hd : s.Takes p [d]) (htag : p.HasTag d) : ∃ go, exec (.recv d a) s = .next (s.withEnd k p x true [0, 3, 4] go) := by
  exact ⟨_, (onCur_next hi _).trans (congrArg _ (issueFill_ok ha hd htag _))⟩

variable (hb : s.Gives p [srcField b 1] [v])
include hb

theorem send_checks : ∃ go, exec (.send a b) s = .next (s.withEnd k p x false [0, 3] go) := by
  exact ⟨_, (onCur_next hi _).trans (congrArg _ (issue_ok (gives_pair ha hb) (takes_nil s p) _))⟩

theorem sendb_checks : ∃ go, exec (.sendb a b) s = .next (s.withEnd k p x false [1] go) := by
  exact ⟨_, (onCur_next hi _).trans (congrArg _ (issue_ok (gives_pair ha hb) (takes_nil s p) _))⟩

theorem sendt_checks (n : BitVec 1) : ∃ go, exec (.sendt a b n) s = .next (s.withEnd k p x false [2] go) := by
  exact ⟨_, (onCur_next hi _).trans (congrArg _ (issue_ok (gives_pair ha hb) (takes_nil s p) _))⟩

theorem senda_checks (hd : s.Takes p [d]) : ∃ go, exec (.senda d a b) s = .next (s.withEnd k p x false [1] go) := by
  exact ⟨_, (onCur_next hi _).trans (congrArg _ (issue_ok (gives_pair ha hb) hd _))⟩

theorem recvb_checks (hd : s.Takes p [d]) (htag : p.HasTag d) : ∃ go, exec (.recvb d a b) s = .next (s.withEnd k p x true [1] go) := by
  exact ⟨_, (onCur_next hi _).trans (congrArg _ (issueFill_ok (gives_pair ha hb) hd htag _))⟩

theorem recvt_checks (n : BitVec 1) : ∃ go, exec (.recvt a b n) s = .next (s.withEnd k p x true [2] go) := by
  exact ⟨_, (onCur_next hi _).trans (congrArg _ (issue_ok (gives_pair ha hb) (takes_nil s p) _))⟩

theorem trecv_checks (hd : s.Takes p [d]) (htag : p.HasTag d) (n : BitVec 1) :
    ∃ go, exec (.trecv d a b n) s = .next (s.withEnd k p x true [0, 3, 4] go) := by
  exact ⟨_, (onCur_next hi _).trans (congrArg _ (issueFill_ok (gives_pair ha hb) hd htag _))⟩

theorem sendh_checks (hv : v.toNat < 64) : ∃ go, exec (.sendh a b) s = .next (s.withEnd k p x false [4] go) := by
  exact ⟨_, (onCur_next hi _).trans (congrArg _ ((issue_ok (gives_pair ha hb) (takes_nil s p) _).trans (if_neg (Nat.not_le.2 hv))))⟩

end

end

theorem handlesAreChecked : Claims.HandlesAreChecked := by
  intro s k p d a b x v hi ha htag i hmem hv hd hb
  simp only [List.mem_cons, List.not_mem_nil, or_false] at hmem
  obtain rfl | rfl | rfl | rfl | rfl | rfl | rfl | rfl | rfl | rfl | rfl | rfl := hmem
  · exact refused_of_withEnd (recv_checks hi ha hd htag).choose_spec
  · exact refused_of_withEnd (send_checks hi ha (hb rfl)).choose_spec
  · exact refused_of_withEnd (sendb_checks hi ha (hb rfl)).choose_spec
  · exact refused_of_withEnd (sendt_checks hi ha (hb rfl) 0).choose_spec
  · exact refused_of_withEnd (sendt_checks hi ha (hb rfl) 1).choose_spec
  · exact refused_of_withEnd (senda_checks hi ha (hb rfl) hd).choose_spec
  · exact refused_of_withEnd (recvb_checks hi ha (hb rfl) hd htag).choose_spec
  · exact refused_of_withEnd (recvt_checks hi ha (hb rfl) 0).choose_spec
  · exact refused_of_withEnd (recvt_checks hi ha (hb rfl) 1).choose_spec
  · exact refused_of_withEnd (trecv_checks hi ha (hb rfl) hd htag 0).choose_spec
  · exact refused_of_withEnd (trecv_checks hi ha (hb rfl) hd htag 1).choose_spec
  · exact refused_of_withEnd (sendh_checks hi ha (hb rfl) hv).choose_spec

end Sys2Proof.Machine
end

section
/-! PROOFS. Sending on a channel (07 R194, R197 to R204). -/

namespace Sys2Proof.Machine

/-! ### A message leaves its end (07 R202 to R204) -/

@[simp] theorem oneway_putEp (s : State) (k : Nat) (e : Ep) (a b : Nat) : (s.putEp k e).oneway a b = s.oneway a b := oneway_of_links rfl a b

@[simp] theorem dataTime_putEp (s : State) (k : Nat) (e : Ep) (a b n : Nat) : (s.putEp k e).dataTime a b n = s.dataTime a b n := by
  unfold State.dataTime
  rw [oneway_putEp]

/-- The message that an instruction of a process sends from an end. -/
def State.sentMsg (s : State) (p : Proc) (ke : Nat) (e : Ep) (body : Body) (tid : Option Nat) (hurt : List Nat) : Msg :=
  { src := locOf ke e, sender := p.name, tid := tid, tile := none, body := body, at0 := s.cycle, hurt := hurt }

section

variable {s : State} {k : Nat} {p : Proc} {ke : Nat} {e : Ep} (body : Body) (tid : Option Nat) (hurt : List Nat)
variable (hserver : e.server = none)

section
include hserver

theorem sendBody_offer (hq : typQueued e.typ = false) : s.sendBody p ke e body tid none hurt =
    some ((s.putEp ke { e with infl := e.infl + 1 }).after (s.oneway p.core e.peer.core) (.offerArrival e.peer (s.sentMsg p ke e body tid hurt))) := by
  unfold State.sendBody
  simp only [hserver, hq, Option.isSome_none, Bool.or_self, Bool.false_eq_true, if_false]
  rfl

theorem sendOut_message (m : Msg) : s.sendOut e m =
    s.after (s.oneway m.src.core e.peer.core + (if isBulk m.body then s.dataTime m.src.core e.peer.core (bodyLen m.body) else 0))
      (.messageEnqueue e.peer m) := by
  unfold State.sendOut
  rw [hserver]

theorem sendBody_credit (hq : typQueued e.typ = true) (hpend : e.pend ≠ 0) (hqueue : e.queue = []) : s.sendBody p ke e body tid none hurt =
    some ((s.putEp ke { e with pend := e.pend - 1, infl := e.infl + 1 }).after
      (s.oneway (ke / 512) e.peer.core + (if isBulk body then s.dataTime (ke / 512) e.peer.core (bodyLen body) else 0))
      (.messageEnqueue e.peer (s.sentMsg p ke e body tid hurt))) := by
  unfold State.sendBody
  simp only [hserver, hq, hqueue, hpend, sendOut_message, oneway_putEp, dataTime_putEp, Option.isSome_none, Bool.or_true, if_true, if_false,
    List.isEmpty_nil, Bool.not_true, Bool.or_false, Bool.false_eq_true, decide_false]
  rfl

theorem sendBody_no_credit (hq : typQueued e.typ = true) (hpend : e.pend = 0) : s.sendBody p ke e body tid none hurt = none := by
  unfold State.sendBody
  simp only [hserver, hq, hpend, Option.isSome_none, Bool.or_true, Bool.true_or, if_true, decide_true]

end

section

variable (hp : s.proc k = some p) (hset : s.Settled p) (c : BitVec 16)
include hp hset

/-- A send whose message has left its end waits for it to pass (07 R198). -/
theorem sendWait_of_sent {t : State} {x : Ep} {n : Nat} {ev : Ev} (hsent : s.sendBody p ke e body none none hurt = some t) (ht : t.proc k = some p)
    (hx : t.ep ke = some x) (hdue : t.DueIn n ev) : (s.sendWait k p ke e c body none hurt).WaitsOn k p e.handle ∧
    (s.sendWait k p ke e c body none hurt).DueIn n ev ∧ (s.sendWait k p ke e c body none hurt).ep ke = some x.waitedOn := by
  unfold State.sendWait
  rw [releaseStores_of_settled hp hset, hsent]
  exact ⟨holdOn_waitsOn ht hx _, (holdOn_extends ht hx _).dueIn hdue, (holdOn_ep ht hx _ ke).trans (if_pos rfl)⟩

include hserver

/-- A send on a rendezvous end offers its message, and its process waits (07 R203, R204). -/
theorem sendWait_offers (hq : typQueued e.typ = false) : (s.sendWait k p ke e c body none hurt).WaitsOn k p e.handle ∧
    (s.sendWait k p ke e c body none hurt).DueIn (s.oneway p.core e.peer.core) (.offerArrival e.peer (s.sentMsg p ke e body none hurt)) ∧
    ((s.sendWait k p ke e c body none hurt).ep ke).map Ep.infl = some (e.infl + 1) := by
  obtain ⟨hwaits, hdue, hend⟩ := sendWait_of_sent body hurt hp hset c (sendBody_offer body none hurt hserver hq) ((after_proc ..).trans hp)
    ((ep_after ..).trans (ep_putEp_self ..)) (dueIn_after ..)
  exact ⟨hwaits, hdue, by rw [hend]; rfl⟩

/-- A send on a buffered end with a credit sends the message itself (07 R202). -/
theorem sendWait_sends (hq : typQueued e.typ = true) (hpend : e.pend ≠ 0) (hqueue : e.queue = []) :
    (s.sendWait k p ke e c body none hurt).WaitsOn k p e.handle ∧
    (s.sendWait k p ke e c body none hurt).DueIn
      (s.oneway (ke / 512) e.peer.core + (if isBulk body then s.dataTime (ke / 512) e.peer.core (bodyLen body) else 0))
      (.messageEnqueue e.peer (s.sentMsg p ke e body none hurt)) ∧
    ((s.sendWait k p ke e c body none hurt).ep ke).map Ep.pend = some (e.pend - 1) := by
  obtain ⟨hwaits, hdue, hend⟩ := sendWait_of_sent body hurt hp hset c (sendBody_credit body none hurt hserver hq hpend hqueue)
    ((after_proc ..).trans hp) ((ep_after ..).trans (ep_putEp_self ..)) (dueIn_after ..)
  exact ⟨hwaits, hdue, by rw [hend]; rfl⟩

/-- Without a credit the process waits for one (07 R202). -/
theorem sendWait_waits (hep : s.ep ke = some e) (hq : typQueued e.typ = true) (hpend : e.pend = 0) :
    (s.sendWait k p ke e c body none hurt).WaitsOn k p e.handle ∧
    ((s.sendWait k p ke e c body none hurt).ep ke).map Ep.pend = some e.pend := by
  unfold State.sendWait
  rw [releaseStores_of_settled hp hset, sendBody_no_credit body none hurt hserver hq hpend, modEp_eq hep]
  refine ⟨waitChan_waitsOn (by exact hp) e.handle rfl rfl rfl, ?_⟩
  rw [waitChan_ep, ep_putEp_self]
  rfl

end

/-! ### Blocks and tiles of a send (07 R197) -/

/-- A block that its channel and the scratchpad hold is offered by its place on a rendezvous end, and its bytes are read for a buffered one. -/
theorem withSend_block (hserver : e.server = none) (hp : s.proc k = some p) (hset : s.Settled p) {v : Word} (hres : v.toNat / 2 ^ 24 % 2 ^ 24 = 0)
    (harea : blockOff v + blockLen v ≤ scratchSize p.core) (hlen : blockLen v ≤ typMaxLen e.typ) (go : State → Body → List Nat → State) :
    s.withSend k p ke e v go =
      if typQueued e.typ then
        go s (.bytes (readBytes s.mem (windowBase p.core + blockOff v) (blockLen v))) (s.hurtIn (windowBase p.core + blockOff v) (blockLen v))
      else go s (.place (ke / 512) (blockOff v) 1 (blockLen v) 0) [] := by
  unfold State.withSend State.withBlock
  rw [releaseStores_of_settled hp hset, if_neg (not_not.2 hres)]
  simp [hserver, Nat.not_lt.2 harea, Nat.not_lt.2 hlen, isDrover, isExternal]

end

/-- A tile word that the scratchpad holds names its rows without a gap. -/
theorem withTileArea_word {s : State} {k : Nat} {p : Proc} {e : Ep} {w : Word} (hw : w.toNat < 2 ^ 24) (halign : w.toNat % 16 = 0)
    (harea : w.toNat + typRows e.typ * typRowBytes e.typ ≤ scratchSize p.core) (go : TileArea → State) :
    s.withTileArea k p e false w go = go ⟨w.toNat, typRows e.typ, typRowBytes e.typ, typRowBytes e.typ, none⟩ := by
  have hoff : w.toNat % 2 ^ 24 = w.toNat := Nat.mod_eq_of_lt hw
  have hrest : w.toNat / 2 ^ 48 = 0 ∧ w.toNat / 2 ^ 24 % 256 = 0 ∧ w.toNat / 2 ^ 32 % 2 ^ 16 = 0 := by omega
  obtain ⟨htop, hmid, hstep⟩ := hrest
  have hrows : (typRows e.typ - 1) * typRowBytes e.typ + typRowBytes e.typ = typRows e.typ * typRowBytes e.typ := by
    have hpos : 1 ≤ typRows e.typ := by unfold typRows; omega
    rw [← Nat.succ_mul, Nat.succ_eq_add_one, Nat.sub_add_cancel hpos]
  have hin : ¬ scratchSize p.core < w.toNat + (typRows e.typ - 1) * typRowBytes e.typ + typRowBytes e.typ := by omega
  unfold State.withTileArea
  simp only [hoff, htop, hmid, hstep, halign, hin, Bool.false_eq_true, if_false, if_true, ne_eq, not_true_eq_false, decide_false,
    Bool.false_and, Bool.or_self]

/-! ### The sending instructions -/

section

variable {s : State} {k : Nat} {p : Proc} {a b : Src} {x v : Word} {ke : Nat} {e : Ep} (hrun : s.Runs k p [srcField a 0, srcField b 1] [x, v] [])
  (hx : x.toNat < 64) (hh : s.handle p.name x.toNat = some (ke, e)) (hrecv : e.recv = false) (hserver : e.server = none) (hst : e.st = .opened)
include hrun hx hh hrecv hserver hst

theorem exec_send_word (hk : typKind e.typ = 0) :
    exec (.send a b) s = .next (s.sendWait k p ke e (consumeMask p [srcField a 0, srcField b 1]) (.word v) none) := by
  obtain ⟨hi, hg, ht⟩ := hrun
  refine (onCur_next hi _).trans ?_
  rw [issue_ok hg ht]
  refine congrArg _ ((withEnd_go _ hx hh hserver hrecv (by simp [hk]) (by simp [hst])).trans ?_)
  rw [hk]
  rfl

theorem exec_send_signal (hk : typKind e.typ = 3) : exec (.send a b) s = .next
    (if b.reg ≠ 0 then s.raiseWord k 0x01 else s.sendWait k p ke e (consumeMask p [srcField a 0, srcField b 1]) .signal none) := by
  obtain ⟨hi, hg, ht⟩ := hrun
  refine (onCur_next hi _).trans ?_
  rw [issue_ok hg ht]
  refine congrArg _ ((withEnd_go _ hx hh hserver hrecv (by simp [hk]) (by simp [hst])).trans ?_)
  rw [hk]
  rfl

theorem exec_sendb (hk : typKind e.typ = 1) : exec (.sendb a b) s = .next
    (s.withSend k p ke e v (fun u body hurt => u.sendWait k p ke e (consumeMask p [srcField a 0, srcField b 1]) body none hurt)) := by
  obtain ⟨hi, hg, ht⟩ := hrun
  refine (onCur_next hi _).trans ?_
  rw [issue_ok hg ht]
  exact congrArg _ (withEnd_go _ hx hh hserver hrecv (by simp [hk]) (by simp [hst]))

/-- A SENDT of a tile word on a rendezvous channel offers the tile's place (07 R197, R204). -/
theorem exec_sendt (hk : typKind e.typ = 2) (hq : typQueued e.typ = false) (hset : s.Settled p) (hw : v.toNat < 2 ^ 24) (halign : v.toNat % 16 = 0)
    (harea : v.toNat + typRows e.typ * typRowBytes e.typ ≤ scratchSize p.core) : exec (.sendt a b 0) s = .next
    (s.sendWait k p ke e (consumeMask p [srcField a 0, srcField b 1])
      (.place p.core v.toNat (typRows e.typ) (typRowBytes e.typ) (typRowBytes e.typ)) none) := by
  obtain ⟨hi, hg, ht⟩ := hrun
  refine (onCur_next hi _).trans ?_
  rw [issue_ok hg ht]
  refine congrArg _ ((withEnd_go _ hx hh hserver hrecv (by simp [hk]) (by simp [hst])).trans ((withTileArea_word hw halign harea _).trans ?_))
  simp only [releaseStores_of_settled hi.2 hset, hq, Bool.false_eq_true, if_false, Option.map_none]

/-- A SENDA that is not the 17th under way on a rendezvous channel offers its block and retires (07 R200). -/
theorem exec_senda (hk : typKind e.typ = 1) (hq : typQueued e.typ = false) (hset : s.Settled p) (hwait : e.waitK = 0)
    (hres : v.toNat / 2 ^ 24 % 2 ^ 24 = 0) (harea : blockOff v + blockLen v ≤ scratchSize p.core) (hlen : blockLen v ≤ typMaxLen e.typ)
    {d : Reg} (hd : s.Takes p [d]) (hout : (e.ids.filter Prod.snd).length < 16) :
    let id := (e.issued + 1) % 2 ^ 24
    exec (.senda d a b) s = .next (((s.putEp ke { e with issued := id, ids := e.ids ++ [(id, true)], waitK := 0, infl := e.infl + 1 }).after
      (s.oneway p.core e.peer.core) (.offerArrival e.peer (s.sentMsg p ke e (.place (ke / 512) (blockOff v) 1 (blockLen v) 0) (some id) []))).retire k
        (consumeMask p [srcField a 0, srcField b 1]) [(d, BitVec.ofNat 64 id)]) := by
  intro id
  obtain ⟨hi, hg, -⟩ := hrun
  refine (onCur_next hi _).trans ?_
  rw [issue_ok hg hd]
  refine congrArg _ ((withEnd_go _ hx hh hserver hrecv (by simp [hk]) (by simp [hst])).trans
    ((withSend_block hserver hi.2 hset hres harea hlen _).trans ?_))
  have hsent := sendBody_offer (s := s) (p := p) (ke := ke) (e := { e with issued := id, ids := e.ids ++ [(id, true)], waitK := 0 })
    (.place (ke / 512) (blockOff v) 1 (blockLen v) 0) (some id) [] hserver hq
  simp only [hq, Bool.false_eq_true, if_false, if_neg (Nat.not_le.2 hout), hwait, show ¬ (0 = 3) by decide]
  rw [hsent]
  rfl

/-- An end that a SENDH passes on (07 R194). -/
def Ep.passing (y : Ep) : Ep := { y with st := .rebind, dying := y.dying || y.st = .dead, waitK := 0 }

/-- A SENDH of an end that its process holds offers the end's location, and the end is REBIND (07 R194). -/
theorem exec_sendh (hk : typKind e.typ = 4) (hset : s.Settled p) (hv : v.toNat < 64) (hne : v ≠ x) {kp : Nat} {y : Ep}
    (hy : s.handle p.name v.toNat = some (kp, y)) (hyep : s.ep kp = some y) (hyw : y.waitK = 0)
    (hstill : ∀ z ∈ s.endsOf p.name, z.2.handle = v.toNat → z.2.st ≠ .rebind) (hq : typQueued e.typ = false) :
    ∃ t : State, exec (.sendh a b) s = .next (t.holdOn k ke e { consume := consumeMask p [srcField a 0, srcField b 1] }) ∧ t.proc k = some p ∧
      t.ep ke = some { e with infl := e.infl + 1 } ∧ (kp ≠ ke → (t.ep kp).map Ep.st = some .rebind) ∧
      t.DueIn (s.oneway p.core e.peer.core) (.offerArrival e.peer (s.sentMsg p ke e (.handle (locOf kp y)) none [])) := by
  obtain ⟨hi, hg, ht⟩ := hrun
  have hmoving : (s.endsOf p.name).any (fun z => z.2.handle == v.toNat && z.2.st == .rebind) = false := by
    rw [List.any_eq_false]
    intro z hz
    simpa using hstill z hz
  have hsent := sendBody_offer (s := s.putEp kp y.passing) (p := p) (ke := ke)
    (.handle (locOf kp y)) none [] hserver hq
  refine ⟨((s.putEp kp y.passing).putEp ke { e with infl := e.infl + 1 }).after (s.oneway p.core e.peer.core)
      (.offerArrival e.peer (s.sentMsg p ke e (.handle (locOf kp y)) none [])), ?_, (after_proc ..).trans hi.2,
    (ep_after ..).trans (ep_putEp_self ..), fun hkp => ?_, dueIn_after ..⟩
  · refine (onCur_next hi _).trans (congrArg _ ((issue_ok hg ht _).trans ((if_neg (Nat.not_le.2 hv)).trans
      ((withEnd_go _ hx hh hserver hrecv (by simp [hk]) (by simp [hst])).trans ?_))))
    simp only [List.getD_cons_succ, List.getD_cons_zero, hmoving, hne, hy, decide_false, Bool.or_self, Bool.false_eq_true, if_false,
      endReserve_of_unreserved kp (show y.waitK ≠ 3 by omega), releaseStores_of_settled hi.2 hset, hyep, Option.getD_some]
    rw [← Ep.passing, hsent, oneway_putEp]
    rfl
  · rw [ep_after, ep_putEp_ne _ _ hkp, ep_putEp_self]
    rfl

end

theorem typQueued_of_cap {t : Word} (h : typCap t = 0) : typQueued t = false := by simp [typQueued, h]

theorem typQueued_of_kind {t : Word} (h : typCap t ≠ 0) (hk : typKind t ≠ 3) : typQueued t = true := by simp [typQueued, h, hk]

theorem sendsLeave : Claims.SendsLeave := by
  intro s k p a b x v ke e hrun hx hh hep hcore hrecv hserver hst hwait hqueue hset m len off way
  have hp : s.proc k = some p := hrun.1.2
  obtain ⟨-, hhandle, -, -⟩ := handle_eq_some hh
  have hoff (hw : v.toNat < 2 ^ 24) : off = v.toNat := Nat.mod_eq_of_lt hw
  refine ⟨fun hk hcap => ?_, fun hk => ⟨fun hb => ?_, fun hb => ?_⟩, fun hk hcap => ⟨fun hpend => ?_, fun hpend => ?_⟩,
    fun hk hres harea hlen => ⟨fun hcap => ⟨?_, ?_⟩, ?_⟩, ?_, ?_⟩
  · have hsent := sendWait_offers (ke := ke) (.word v) [] hserver hp hset (consumeMask p [srcField a 0, srcField b 1]) (typQueued_of_cap hcap)
    rw [hhandle] at hsent
    exact ⟨_, exec_send_word hrun hx hh hrecv hserver hst hk, hsent⟩
  · have hsent := sendWait_offers (ke := ke) .signal [] hserver hp hset (consumeMask p [srcField a 0, srcField b 1]) (by simp [typQueued, hk])
    rw [hhandle] at hsent
    obtain ⟨hwaits, hdue, -⟩ := hsent
    exact ⟨_, (exec_send_signal hrun hx hh hrecv hserver hst hk).trans (congrArg _ (if_neg (not_not.2 hb))), hwaits, hdue⟩
  · exact (exec_send_signal hrun hx hh hrecv hserver hst hk).trans (congrArg _ (if_pos hb))
  · have hsent := sendWait_sends (ke := ke) (.word v) [] hserver hp hset (consumeMask p [srcField a 0, srcField b 1])
      (typQueued_of_kind hcap (by omega)) hpend hqueue
    rw [hhandle, hcore] at hsent
    exact ⟨_, exec_send_word hrun hx hh hrecv hserver hst hk, hsent⟩
  · have hsent := sendWait_waits (ke := ke) (.word v) [] hserver hp hset (consumeMask p [srcField a 0, srcField b 1]) hep
      (typQueued_of_kind hcap (by omega)) hpend
    rw [hhandle, hpend] at hsent
    exact ⟨_, exec_send_word hrun hx hh hrecv hserver hst hk, hsent⟩
  · have hq := typQueued_of_cap hcap
    have hsent := sendWait_offers (ke := ke) (.place p.core off 1 len 0) [] hserver hp hset (consumeMask p [srcField a 0, srcField b 1]) hq
    rw [hhandle] at hsent
    obtain ⟨hwaits, hdue, -⟩ := hsent
    refine ⟨_, (exec_sendb hrun hx hh hrecv hserver hst hk).trans (congrArg _ ?_), hwaits, hdue⟩
    rw [withSend_block hserver hp hset hres harea hlen, hq, hcore]
    rfl
  · intro d hd hout
    refine ⟨_, exec_senda hrun hx hh hrecv hserver hst hk (typQueued_of_cap hcap) hset hwait hres harea hlen hd hout, ?_, ?_⟩
    · rw [hcore]
      exact dueIn_after ..
    · rw [ep_after, ep_putEp_self]
      rfl
  · intro hcap hpend
    have hq := typQueued_of_kind hcap (by omega)
    have hsent := sendWait_sends (ke := ke) (.bytes (readBytes s.mem (windowBase p.core + off) len)) (s.hurtIn (windowBase p.core + off) len)
      hserver hp hset (consumeMask p [srcField a 0, srcField b 1]) hq hpend hqueue
    rw [hhandle, hcore] at hsent
    obtain ⟨hwaits, hdue, -⟩ := hsent
    simp only [isBulk, bodyLen, length_readBytes, if_true] at hdue
    refine ⟨_, (exec_sendb hrun hx hh hrecv hserver hst hk).trans (congrArg _ ?_), hwaits, hdue⟩
    rw [withSend_block hserver hp hset hres harea hlen, hq]
    rfl
  · intro hk hcap hw halign harea
    rw [hoff hw] at halign harea ⊢
    have hq := typQueued_of_cap hcap
    have hsent := sendWait_offers (ke := ke) (.place p.core v.toNat (typRows e.typ) (typRowBytes e.typ) (typRowBytes e.typ)) [] hserver hp hset
      (consumeMask p [srcField a 0, srcField b 1]) hq
    rw [hhandle] at hsent
    obtain ⟨hwaits, hdue, -⟩ := hsent
    exact ⟨_, exec_sendt hrun hx hh hrecv hserver hst hk hq hset hw halign harea, hwaits, hdue⟩
  · intro kp y hk hcap hv hne hy hyep hkp hyw hstill
    obtain ⟨t, hexec, htp, hend, hpassed, hdue⟩ := exec_sendh hrun hx hh hrecv hserver hst hk hset hv hne hy hyep hyw hstill (typQueued_of_cap hcap)
    rw [← hhandle]
    refine ⟨_, hexec, holdOn_waitsOn htp hend _, (holdOn_extends htp hend _).dueIn hdue, ?_⟩
    rw [holdOn_ep htp hend, if_neg hkp]
    exact hpassed hkp

/-- Settles O36: every sending and receiving instruction makes one chain of checks on its handle, and each way to send is one of
three ends of `sendBody`: an offer, a message with a credit, or a wait. -/
theorem sendsSetOut : Obligations.SendsSetOut := ⟨handlesAreChecked, sendsLeave⟩

end Sys2Proof.Machine
end

section
/-! PROOFS. ALT and its guards (07 R207 to R209). -/

namespace Sys2Proof.Machine

/-! ### Words read from memory -/

theorem readBytes_add (m : List Host.Cell) (a i j : Nat) : readBytes m a (i + j) = readBytes m a i ++ readBytes m (a + i) j := by
  simp only [readBytes_eq_map, List.range_add, List.map_append, List.map_map, Function.comp_def, Nat.add_assoc]

/-- The words of a range of memory are the numbers at their places. -/
theorem leWords_readBytes_getD (m : List Host.Cell) (a : Nat) {n i : Nat} (h : i < n) :
    (leWords n (readBytes m a (8 * n))).getD i 0 = BitVec.ofNat 64 (readLe m (a + 8 * i) 8) := by
  induction n generalizing a i with
  | zero => omega
  | succ n ih =>
    have hsplit : readBytes m a (8 * (n + 1)) = readBytes m a 8 ++ readBytes m (a + 8) (8 * n) := by
      rw [show 8 * (n + 1) = 8 + 8 * n by omega, readBytes_add]
    rw [leWords, hsplit, List.take_left' (length_readBytes ..), List.drop_left' (length_readBytes ..)]
    cases i with
    | zero => rfl
    | succ i => rw [List.getD_cons_succ, ih _ (by omega), show a + 8 + 8 * i = a + 8 * (i + 1) by omega]

theorem leWords_readBytes_toNat (m : List Host.Cell) (a : Nat) {n i : Nat} (h : i < n) :
    ((leWords n (readBytes m a (8 * n))).getD i 0).toNat = readLe m (a + 8 * i) 8 := by
  rw [leWords_readBytes_getD m a h, BitVec.toNat_ofNat, Nat.mod_eq_of_lt (readLe_lt ..)]

/-! ### The choice of a guard (07 R208) -/

theorem leastBy_mem {α : Type} {f : α → Nat} {l : List α} {x : α} (h : leastBy f l = some x) : x ∈ l := by
  induction l generalizing x with
  | nil => cases h
  | cons z l ih =>
    rw [leastBy] at h
    split at h
    · exact Option.some.inj h ▸ List.mem_cons_self ..
    · next y hy =>
      split_ifs at h
      · exact Option.some.inj h ▸ List.mem_cons_of_mem _ (ih hy)
      · exact Option.some.inj h ▸ List.mem_cons_self ..

/-- The one element of strictly least measure is chosen. -/
theorem leastBy_eq_some {α : Type} {f : α → Nat} {l : List α} {x : α} (hx : x ∈ l) (hmin : ∀ y ∈ l, y = x ∨ f x < f y) :
    leastBy f l = some x := by
  induction l with
  | nil => cases hx
  | cons z l ih =>
    rw [leastBy]
    have hz := hmin z (List.mem_cons_self ..)
    by_cases hl : x ∈ l
    · rw [ih hl fun y hy => hmin y (List.mem_cons_of_mem _ hy)]
      obtain rfl | hlt := hz
      · simp
      · simp [hlt]
    · obtain rfl : x = z := (List.mem_cons.1 hx).resolve_right hl
      split
      · rfl
      · next y hy =>
        have hyl := leastBy_mem hy
        obtain rfl | hlt := hmin y (List.mem_cons_of_mem _ hyl)
        · exact absurd hyl hl
        · rw [if_neg (Nat.lt_asymm hlt)]

/-- Two places of a list of n are equally far behind a third only if they are one. -/
theorem eq_of_turn_eq {n r i j : Nat} (hr : r ≤ n) (hi : i < n) (hj : j < n) (h : (i + n - r) % n = (j + n - r) % n) : i = j := by
  rw [Nat.add_sub_assoc hr, Nat.add_sub_assoc hr] at h
  exact (Nat.ModEq.add_right_cancel' _ h).eq_of_lt_of_lt hi hj

/-! ### Guards (07 Table 7.8) -/

theorem mem_enabledGuards {ws : List Word} {n : Nat} {g : Guard} : g ∈ enabledGuards ws n ↔ ∃ i < n, (ws.getD (2 * i) 0).getLsbD 16 = true ∧
    { ix := i, kind := (ws.getD (2 * i) 0).toNat / 256 % 4, handle := (ws.getD (2 * i) 0).toNat % 64, time := (ws.getD (2 * i + 1) 0).toNat } = g := by
  simp only [enabledGuards, List.mem_filterMap, List.mem_range, Option.ite_none_right_eq_some, Option.some.injEq]

/-- The guard at a place of a list that is always ready. -/
def skipGuard (i : Nat) : Guard := ⟨i, 3, 0, 0⟩

/-- A guard that is always ready, enabled, and one that is not enabled, by their words. -/
def isSkip (ws : List Word) (i : Nat) : Prop := (ws.getD (2 * i) 0).toNat = 2 ^ 16 + 3 * 2 ^ 8 ∧ (ws.getD (2 * i + 1) 0).toNat = 0
def isOff (ws : List Word) (i : Nat) : Prop := (ws.getD (2 * i) 0).toNat = 0 ∧ (ws.getD (2 * i + 1) 0).toNat = 0

variable {ws : List Word} {i n : Nat}

theorem guardOk_of_isSkip (h : isSkip ws i) : guardOk (ws.getD (2 * i) 0) (ws.getD (2 * i + 1) 0) = true := by
  obtain ⟨hw, hv⟩ := h
  have hv0 : ws.getD (2 * i + 1) 0 = 0 := BitVec.eq_of_toNat_eq hv
  simp only [guardOk, hw, hv0]
  decide

theorem guardOk_of_isOff (h : isOff ws i) : guardOk (ws.getD (2 * i) 0) (ws.getD (2 * i + 1) 0) = true := by
  obtain ⟨hw, hv⟩ := h
  have hv0 : ws.getD (2 * i + 1) 0 = 0 := BitVec.eq_of_toNat_eq hv
  simp only [guardOk, hw, hv0]
  decide

theorem guardOk_lt {w v : Word} (h : guardOk w v = true) : w.toNat < 2 ^ 17 := by
  simp only [guardOk, Bool.and_eq_true, decide_eq_true_eq] at h
  exact h.1.1.1.1

/-- Where every guard is always ready or not enabled, the enabled ones are those that are always ready. -/
theorem mem_enabledGuards_of_skips (hall : ∀ j < n, isSkip ws j ∨ isOff ws j) {g : Guard} :
    g ∈ enabledGuards ws n ↔ ∃ i < n, isSkip ws i ∧ skipGuard i = g := by
  rw [mem_enabledGuards]
  refine exists_congr fun i => and_congr_right fun hi => ?_
  obtain hskip | hoff := hall i hi
  · obtain ⟨hw, hv⟩ := hskip
    have hbit : (ws.getD (2 * i) 0).getLsbD 16 = true := by rw [← BitVec.testBit_toNat, hw]; decide
    rw [hbit, hw, hv]
    exact ⟨fun h => ⟨⟨hw, hv⟩, h.2⟩, fun h => ⟨rfl, h.2⟩⟩
  · obtain ⟨hw, -⟩ := hoff
    have hbit : (ws.getD (2 * i) 0).getLsbD 16 = false := by rw [← BitVec.testBit_toNat, hw]; decide
    rw [hbit]
    refine ⟨fun h => absurd h.1 (by decide), fun h => absurd h.1.1 ?_⟩
    omega

theorem enabledGuards_of_offs (hall : ∀ j < n, isOff ws j) : enabledGuards ws n = [] := by
  refine List.eq_nil_iff_forall_not_mem.2 fun g hg => ?_
  obtain ⟨i, hi, ⟨hskip, -⟩, -⟩ := (mem_enabledGuards_of_skips fun j hj => .inr (hall j hj)).1 hg
  obtain ⟨hoff, -⟩ := hall i hi
  omega

section

variable (hall : ∀ j < n, isSkip ws j ∨ isOff ws j)
include hall

theorem kind_of_skips {g : Guard} (hg : g ∈ enabledGuards ws n) : g.kind = 3 := by
  obtain ⟨j, -, -, rfl⟩ := (mem_enabledGuards_of_skips hall).1 hg
  rfl

variable (hi : i < n) (hs : isSkip ws i)
include hi hs

theorem skipGuard_mem : skipGuard i ∈ enabledGuards ws n := (mem_enabledGuards_of_skips hall).2 ⟨i, hi, hs, rfl⟩

/-- Without .F the lowest guard is chosen of those that are ready. -/
theorem chooseGuard_lowest (hbelow : ∀ j < i, isOff ws j) : chooseGuard (enabledGuards ws n) n none = some (skipGuard i) := by
  refine leastBy_eq_some (skipGuard_mem hall hi hs) fun g hg => ?_
  obtain ⟨j, hj, ⟨hskip, -⟩, rfl⟩ := (mem_enabledGuards_of_skips hall).1 hg
  obtain rfl | hji := eq_or_ne j i
  · exact .inl rfl
  · refine .inr (Nat.lt_of_le_of_ne (Nat.le_of_not_lt fun hlt => ?_) (Ne.symm hji))
    obtain ⟨hoff, -⟩ := hbelow j hlt
    omega

/-- With .F it is the first behind the one chosen last. -/
theorem chooseGuard_fair {last : Nat} (hfirst : ∀ j < n, isSkip ws j → (i + n - (last + 1) % n) % n ≤ (j + n - (last + 1) % n) % n) :
    chooseGuard (enabledGuards ws n) n (some last) = some (skipGuard i) := by
  have hn1 : 1 ≤ n := Nat.one_le_of_lt hi
  refine leastBy_eq_some (skipGuard_mem hall hi hs) fun g hg => ?_
  obtain ⟨j, hj, hskip, rfl⟩ := (mem_enabledGuards_of_skips hall).1 hg
  rw [Nat.max_eq_left hn1]
  obtain rfl | hji := eq_or_ne j i
  · exact .inl rfl
  · refine .inr (Nat.lt_of_le_of_ne (hfirst j hj hskip) fun heq => hji ?_)
    exact (eq_of_turn_eq (Nat.mod_lt _ hn1).le hi hj heq).symm

end

/-- A list of one guard, of a receive end. -/
theorem guards_of_recv {w : Nat} (hw : (ws.getD 0 0).toNat = w) (hv : (ws.getD 1 0).toNat = 0) (hlow : 2 ^ 16 ≤ w) (hbig : w < 2 ^ 16 + 64) :
    enabledGuards ws 1 = [⟨0, 0, w % 64, 0⟩] ∧ guardOk (ws.getD 0 0) (ws.getD 1 0) = true := by
  have hbit : (ws.getD 0 0).getLsbD 16 = true := by
    rw [← BitVec.testBit_toNat, hw, Nat.testBit_eq_decide_div_mod_eq, decide_eq_true_eq]
    omega
  have hkind : w / 256 % 4 = 0 := by omega
  have hvz : ws.getD 1 0 = 0 := BitVec.eq_of_toNat_eq hv
  have hparts : w < 2 ^ 17 ∧ w / 64 % 4 = 0 ∧ w / 1024 % 64 = 0 ∧ w / 256 % 4 < 2 := by omega
  constructor
  · simp only [enabledGuards, List.range_one, List.filterMap_cons, List.filterMap_nil, Nat.mul_zero, Nat.zero_add, hbit, if_true]
    rw [hw, hv, hkind]
  · simp only [guardOk, hw, hvz, hparts, decide_true, Bool.and_self, Bool.true_or, BEq.rfl, Bool.or_true]

end Sys2Proof.Machine
end

section
/-! PROOFS. The instruction ALT (07 R207 to R209). -/

namespace Sys2Proof.Machine

/-- ALT once it has read its guards. -/
def State.altFrom (s : State) (k : Nat) (p : Proc) (d : Reg) (c : BitVec 16) (gs : List Guard) (count : Nat) (last : Option Nat) : State :=
  match gs.find? (s.badGuard p) with
  | some g => s.raise k causeChanRights (BitVec.ofNat 64 g.handle)
  | none =>
    if gs.isEmpty then s.retire k c [(d, BitVec.allOnes 64)]
    else
      match chooseGuard (gs.filter ((s.endReserves p gs).guardReady p)) count last with
      | some g => ((s.endReserves p gs).reserve p g).retire k c [(d, BitVec.ofNat 64 g.ix)]
      | none =>
        (gs.filter (fun g => g.kind == 2)).foldl (fun w g => w.armDeadline (foldOf p.core) ⟨.alt p.name, g.time⟩)
          ((((s.endReserves p gs).watch p gs).modProc k (fun q => { q with
            deadline := ((gs.filter (fun g => g.kind == 2)).map Guard.time).min?.getD 0
            alt := some { guards := gs, count := count, last := last }
            hold := some { consume := c, dst := some d, issuedAt := s.cycle } })).waitChan k .alt)

section

variable {s : State} {k : Nat} {p : Proc} {d : Reg} {a b : Src} {f : BitVec 1} {x y : Word} {n : Nat}
  (hrun : s.Runs k p [srcField a 0, srcField b 1] [x, y] [d]) (hset : s.Settled p) (hal : x.toNat % 16 = 0) (hn1 : 1 ≤ n) (hn16 : n ≤ 16)
  (hy : y.toNat < 2 ^ 12) (hcount : y.toNat % 2 ^ 8 = n) (harea : x.toNat + 16 * n ≤ scratchSize p.core)
include hrun hset hal hn1 hn16 hy hcount harea

theorem exec_alt : exec (.alt d a b f) s = .next
    (let ws := leWords (2 * n) (readBytes s.mem (windowBase p.core + x.toNat) (16 * n))
    if (List.range n).any (fun i => !guardOk (ws.getD (2 * i) 0) (ws.getD (2 * i + 1) 0)) then s.raiseWord k 0x01
    else s.altFrom k p d (consumeMask p [srcField a 0, srcField b 1]) (enabledGuards ws n) n (if f = 1 then some (y.toNat / 2 ^ 8) else none)) := by
  obtain ⟨hi, hg, ht⟩ := hrun
  have hsize := scratchSize_le p.core
  have hfields : y.toNat % 32 = n ∧ y.toNat / 32 % 8 = 0 ∧ y.toNat / 256 % 16 = y.toNat / 2 ^ 8 := by omega
  obtain ⟨hlow, hres, hlast⟩ := hfields
  refine (onCur_next hi _).trans (congrArg _ ((issue_ok hg ht _).trans ?_))
  have hbounds : ¬ 2 ^ 24 ≤ x.toNat ∧ ¬ 4096 ≤ y.toNat ∧ n ≠ 0 ∧ ¬ 16 < n ∧ ¬ scratchSize p.core < x.toNat + 16 * n := by omega
  obtain ⟨hx24, hy12, hn0, hn17, hin⟩ := hbounds
  simp only [List.getD_cons_succ, List.getD_cons_zero, hlow, hres, hlast, hx24, hy12, hn0, hn17, hin, hal, releaseStores_of_settled hi.2 hset,
    decide_false, ne_eq, not_true_eq_false, Bool.or_self, Bool.false_eq_true, if_false]
  rfl

/-- ALT goes on with its enabled guards where each keeps Table 7.8. -/
theorem exec_alt_guards {ws : List Word} (hws : ws = leWords (2 * n) (readBytes s.mem (windowBase p.core + x.toNat) (16 * n)))
    (hok : ∀ i < n, guardOk (ws.getD (2 * i) 0) (ws.getD (2 * i + 1) 0) = true) : exec (.alt d a b f) s = .next
    (s.altFrom k p d (consumeMask p [srcField a 0, srcField b 1]) (enabledGuards ws n) n (if f = 1 then some (y.toNat / 2 ^ 8) else none)) := by
  subst hws
  refine (exec_alt hrun hset hal hn1 hn16 hy hcount harea).trans (congrArg _ (if_neg ?_))
  rw [List.any_eq_true]
  rintro ⟨i, hi, hbad⟩
  rw [hok i (List.mem_range.1 hi)] at hbad
  cases hbad

end

section

variable (s : State) (k : Nat) (p : Proc) (d : Reg) (c : BitVec 16) (n : Nat) (last : Option Nat)

theorem altFrom_nil : s.altFrom k p d c [] n last = s.retire k c [(d, BitVec.allOnes 64)] := rfl

theorem endReserves_of_skips {gs : List Guard} (h : ∀ g ∈ gs, g.kind = 3) : s.endReserves p gs = s := by
  unfold State.endReserves
  induction gs with
  | nil => rfl
  | cons g gs ih =>
    rw [List.foldl_cons, if_pos (by rw [h g (List.mem_cons_self ..)]; omega)]
    exact ih fun g' hg' => h g' (List.mem_cons_of_mem _ hg')

/-- Of guards that are always ready, ALT retires with the one that the rule of R208 chooses. -/
theorem altFrom_skips {gs : List Guard} {g : Guard} (hskip : ∀ x ∈ gs, x.kind = 3) (hchosen : chooseGuard gs n last = some g) (hg : g ∈ gs) :
    s.altFrom k p d c gs n last = s.retire k c [(d, BitVec.ofNat 64 g.ix)] := by
  have hgood : gs.find? (s.badGuard p) = none := by
    rw [List.find?_eq_none]
    intro x hx
    simp [State.badGuard, hskip x hx]
  have hready : gs.filter (s.guardReady p) = gs := List.filter_eq_self.2 fun x hx => by simp [State.guardReady, hskip x hx]
  unfold State.altFrom
  rw [hgood]
  dsimp only
  rw [if_neg (by simpa using List.ne_nil_of_mem hg), endReserves_of_skips s p hskip, hready, hchosen]
  dsimp only
  rw [State.reserve, if_pos (by rw [hskip g hg]; omega)]

end

/-! ### One guard of a receive end -/

/-- A process whose ALT is about to wait, with no guard of time. -/
def Proc.watching (p : Proc) (c : BitVec 16) (d : Reg) (a : AltState) (now : Nat) : Proc :=
  { p with deadline := 0, alt := some a, hold := some { consume := c, dst := some d, issuedAt := now } }

section

variable {s : State} {k : Nat} {p : Proc} (d : Reg) (c : BitVec 16) (n : Nat) (last : Option Nat) {g : Guard} {ke : Nat} {e : Ep} (hkind : g.kind = 0)
  (hh : s.handle p.name g.handle = some (ke, e)) (hrecv : e.recv = true) (hwait : e.waitK = 0)
include hkind hh hrecv hwait

theorem recv_guard : [g].find? (s.badGuard p) = none ∧ s.endReserves p [g] = s ∧ s.guardReady p g = s.endReady e := by
  refine ⟨by simp [State.badGuard, hkind, hh, hrecv], ?_, by simp [State.guardReady, hkind, hh, hrecv]⟩
  simp [State.endReserves, hkind, hh, endReserve_of_unreserved ke (show e.waitK ≠ 3 by omega)]

theorem altFrom_recv_ready (hready : s.endReady e = true) :
    s.altFrom k p d c [g] n last = (s.putEp ke { e with waitK := 3 }).retire k c [(d, BitVec.ofNat 64 g.ix)] := by
  obtain ⟨hgood, hres, hends⟩ := recv_guard hkind hh hrecv hwait
  have hchosen : chooseGuard [g] n last = some g := by cases last <;> rfl
  have hreserve : s.reserve p g = s.putEp ke { e with waitK := 3 } := by simp [State.reserve, hkind, hh, hrecv]
  unfold State.altFrom
  rw [hgood, hres]
  dsimp only
  rw [if_neg nofun, List.filter_cons_of_pos (by rw [hends, hready]), List.filter_nil, hchosen]
  dsimp only
  rw [hreserve]

theorem altFrom_recv_waits (hp : s.proc k = some p) (hst : e.st = .opened) (hready : s.endReady e = false) :
    s.altFrom k p d c [g] n last =
      ((s.putEp ke { e with waitK := 2, st := .wait }).putProc k (p.watching c d ⟨[g], n, last⟩ s.cycle)).waitChan k .alt := by
  obtain ⟨hgood, hres, hends⟩ := recv_guard hkind hh hrecv hwait
  have hnone : chooseGuard [] n last = none := by cases last <;> rfl
  have hwatch : s.watch p [g] = s.putEp ke { e with waitK := 2, st := .wait } := by simp [State.watch, hkind, hh, hst]
  have huntimed : [g].filter (fun g => g.kind == 2) = [] := by simp [hkind]
  have hp' : (s.putEp ke { e with waitK := 2, st := .wait }).proc k = some p := hp
  unfold State.altFrom
  rw [hgood, hres]
  dsimp only
  rw [if_neg nofun, List.filter_cons_of_neg (by rw [hends, hready]; decide), List.filter_nil, hnone, huntimed, hwatch, modProc_eq hp']
  rfl

end

theorem endReady_of_queue {s : State} {e : Ep} (hrecv : e.recv = true) (hq : e.queue ≠ []) : s.endReady e = true := by
  simp [State.endReady, hrecv, hq]

theorem endReady_of_nothing {s : State} {e : Ep} (hrecv : e.recv = true) (hst : e.st = .opened) (hq : e.queue = []) (ho : e.offers = [])
    (hpend : e.pend = 0) : s.endReady e = false := by
  simp [State.endReady, hrecv, hst, hq, ho, hpend]

/-- Settles O39: ALT's list is read into guards; of those that are always ready it retires with the one of least measure, and one guard of a
receive end is ready by what the end holds. -/
theorem altChooses : Obligations.AltChooses := by
  intro s k p d a b f x y n hrun hset hal hn1 hn16 hy hcount harea w v on off c
  obtain ⟨ws, hws⟩ : ∃ ws, ws = leWords (2 * n) (readBytes s.mem (windowBase p.core + x.toNat) (16 * n)) := ⟨_, rfl⟩
  have hword {j : Nat} (hj : j < 2 * n) : (ws.getD j 0).toNat = readLe s.mem (windowBase p.core + x.toNat + 8 * j) 8 := by
    rw [hws, show 16 * n = 8 * (2 * n) by omega, leWords_readBytes_toNat _ _ hj]
  have hw {i : Nat} (hi : i < n) : (ws.getD (2 * i) 0).toNat = w i := by
    rw [hword (by omega), show 8 * (2 * i) = 16 * i by omega]
  have hv {i : Nat} (hi : i < n) : (ws.getD (2 * i + 1) 0).toNat = v i := by
    rw [hword (by omega), show 8 * (2 * i + 1) = 16 * i + 8 by omega, ← Nat.add_assoc]
  clear_value w v
  have hoff {i : Nat} (hi : i < n) (h : off i) : isOff ws i := ⟨(hw hi).trans h.1, (hv hi).trans h.2⟩
  have hskip {i : Nat} (hi : i < n) : isSkip ws i ↔ w i = 2 ^ 16 + 3 * 2 ^ 8 ∧ v i = 0 := by rw [isSkip, hw hi, hv hi]
  have hgo (f : BitVec 1) (hok : ∀ i < n, guardOk (ws.getD (2 * i) 0) (ws.getD (2 * i + 1) 0) = true) :=
    exec_alt_guards (f := f) hrun hset hal hn1 hn16 hy hcount harea hws hok
  refine ⟨fun ⟨i, hi, hbig⟩ => ?_, fun hall => ?_, fun i hall hon => ?_, fun ke e hone hbig hlow hv0 hh hrecv hwait => ?_⟩
  · refine (exec_alt hrun hset hal hn1 hn16 hy hcount harea).trans (congrArg _ (if_pos (List.any_eq_true.2 ⟨i, List.mem_range.2 hi, ?_⟩)))
    rw [← hws, Bool.not_eq_true', Bool.eq_false_iff]
    intro hok
    have hlt := guardOk_lt hok
    rw [hw hi] at hlt
    omega
  · rw [hgo f fun i hi => guardOk_of_isOff (hoff hi (hall i hi)), enabledGuards_of_offs fun j hj => hoff hj (hall j hj), altFrom_nil]
  · have hcases (j : Nat) (hj : j < n) : isSkip ws j ∨ isOff ws j := (hall j hj).imp (fun h => (hskip hj).2 ⟨h.1.2, h.2⟩) (hoff hj)
    have hs : isSkip ws i := (hcases i hon.1).resolve_right fun h => by
      have hzero := (hw hon.1).symm.trans h.1
      have hword := hon.2
      omega
    have hrest (f : BitVec 1) := hgo f fun j hj => (hcases j hj).elim guardOk_of_isSkip guardOk_of_isOff
    have hmem := skipGuard_mem hcases hon.1 hs
    refine ⟨fun hf hbelow => ?_, fun hf hlast hfirst => ?_⟩
    · have hchosen := chooseGuard_lowest hcases hon.1 hs fun j hj => hoff (hj.trans hon.1) (hbelow j hj)
      rw [hrest f, hf, if_neg (by decide), altFrom_skips s k p d _ n none (fun _ => kind_of_skips hcases) hchosen hmem]
      rfl
    · have hchosen := chooseGuard_fair hcases hon.1 hs fun j hj h => hfirst j ⟨hj, ((hskip hj).1 h).1⟩
      rw [hrest f, hf, if_pos rfl, altFrom_skips s k p d _ n _ (fun _ => kind_of_skips hcases) hchosen hmem]
      rfl
  · subst hone
    obtain ⟨hlist, hok⟩ := guards_of_recv (hw (i := 0) (by omega)) ((hv (i := 0) (by omega)).trans hv0) hlow hbig
    have hexec := hgo 0 fun i hi => by rwa [show i = 0 by omega]
    rw [hlist, if_neg (by decide)] at hexec
    refine ⟨fun hq => ?_, fun hq ho hpend hst => ?_⟩
    · exact hexec.trans (congrArg _ (altFrom_recv_ready (g := ⟨0, 0, w 0 % 64, 0⟩) d c 1 none rfl hh hrecv hwait (endReady_of_queue hrecv hq)))
    · have hwaits := altFrom_recv_waits (g := ⟨0, 0, w 0 % 64, 0⟩) d c 1 none rfl hh hrecv hwait hrun.1.2 hst
        (endReady_of_nothing hrecv hst hq ho hpend)
      obtain ⟨hwt, hpc, hregs, -⟩ := waiting_same (p.watching c d ⟨[⟨0, 0, w 0 % 64, 0⟩], 1, none⟩ s.cycle) .alt s.cycle
      refine ⟨_, _, hexec.trans (congrArg _ hwaits), waitChan_proc (State.putProc_proc_self ..) _, hwt, hpc, hregs, ?_⟩
      rw [waitChan_ep, ep_putProc, ep_putEp_self]
      rfl

end Sys2Proof.Machine
end

section
/-! PROOFS. Where an end is, and events at ends for which nothing waits (07 R167, R204, R208, R213). -/

namespace Sys2Proof.Machine

/-! ### Where an end is (06 R167) -/

/-- The end of a location that has not moved on is there. -/
theorem endAt_of_ep {s : State} {l : EndLoc} {e : Ep} (h : s.ep (locKey l) = some e) (hf : e.fwd = none) : s.endAt l = some (locKey l, e) := by
  have hl : s.follow 64 l = l := by rw [State.follow, h, Option.bind_some, hf]
  rw [State.endAt, hl, h, Option.map_some]

theorem ep_of_endAt {s : State} {l : EndLoc} {ke : Nat} {e : Ep} (h : s.endAt l = some (ke, e)) : s.ep ke = some e := by
  obtain ⟨y, hy, heq⟩ := Option.map_eq_some_iff.1 h
  obtain ⟨rfl, rfl⟩ := Prod.mk.inj heq
  exact hy

/-- The entry of a number, by its location. -/
theorem locKey_entry (key : Nat) : locKey ⟨key / 512, key % 512, 0⟩ = key := by
  show key / 512 * 512 + key % 512 = key
  omega

/-! ### Nothing waits -/

theorem ports_getD_held {p : Proc} (h : ∀ q ∈ p.ports.toList, q.held = []) (n : Nat) : (p.ports.toList.getD n {}).held = [] := by
  rw [List.getD_eq_getElem?_getD]
  cases hx : p.ports.toList[n]? with
  | none => rfl
  | some x => exact h x (List.mem_of_getElem? hx)

/-- An owner is idle by its record alone. -/
theorem ownerIdle_of_same {s t : State} {e x : Ep} (h : s.OwnerIdle e) (hdir : t.dir = s.dir) (hprocs : t.procs = s.procs) (ho : x.owner = e.owner) :
    t.OwnerIdle x := by
  intro k p hn
  have hkey : t.keyOf x.owner = s.keyOf e.owner := by unfold State.keyOf; rw [hdir, ho]
  have hproc : t.proc k = s.proc k := by unfold State.proc; rw [hprocs]
  rw [named_eq_some_iff, hkey, hproc, ← named_eq_some_iff] at hn
  exact h k p hn

section

variable {s : State} {ke : Nat} {e : Ep} (he : s.ep ke = some e)
include he

/-- A change of an end is nothing to an owner that waits for nothing. -/
theorem wakeEnd_of_idle (h : s.OwnerIdle e) : s.wakeEnd ke = s := by
  unfold State.wakeEnd
  rw [he]
  cases hn : s.named e.owner with
  | none => exact modNamed_of_none hn _
  | some x =>
    obtain ⟨k, p⟩ := x
    obtain ⟨hwait, hports⟩ := h k p hn
    dsimp only
    rw [modNamed_of_named hn]
    simp only [ports_getD_held hports, List.isEmpty_nil, if_true, hwait]
    exact List.foldl_fixed' (fun _ => rfl) _

theorem failWait_of_idle (h : s.OwnerIdle e) : s.failWait ke = s := by
  have hwake := wakeEnd_of_idle he h
  unfold State.failWait
  rw [he]
  cases hn : s.named e.owner with
  | none => exact modNamed_of_none hn _
  | some x =>
    obtain ⟨k, p⟩ := x
    dsimp only
    rw [modNamed_of_named hn]
    simp only [(h k p hn).1, hwake]

theorem checkCwait_of_idle (h : s.OwnerIdle e) : s.checkCwait ke = s := by
  unfold State.checkCwait
  rw [he]
  cases hn : s.named e.owner with
  | none => exact modNamed_of_none hn _
  | some x =>
    obtain ⟨k, p⟩ := x
    dsimp only
    rw [modNamed_of_named hn]
    simp only [(h k p hn).1]

/-- An end with no receive waiting delivers nothing to an owner that waits for nothing. -/
theorem deliver_of_idle (hrx : e.rx = none) (h : s.OwnerIdle e) : s.deliver ke = s := by
  unfold State.deliver
  simp only [he, hrx, wakeEnd_of_idle he h, ite_self]

end

/-- Nothing is counted at an end for which no expectation stands (07 R213). -/
theorem countExpect_of_uncounted {s : State} {ke : Nat} (h : s.Uncounted ke) : s.countExpect ke = s := by
  unfold State.countExpect
  split
  · rfl
  · split
    · rfl
    · split
      · rfl
      · next g hg =>
        have hnone : g.expects.any (fun x => x.2.1 == ke) = false := by
          rw [List.any_eq_false]
          intro x hx
          simpa using h _ (mem_of_tget hg) x hx
        rw [hnone, if_neg nofun]

theorem uncounted_of_groups {s t : State} {ke : Nat} (h : s.Uncounted ke) (hg : t.groups = s.groups) : t.Uncounted ke := by
  unfold State.Uncounted
  rwa [hg]

/-! ### Messages written to a ring queue -/

/-- A message written to a ring queue changes memory and its fold's queues. -/
theorem writeRing_rest (s : State) (fold q : Nat) (m : Msg) :
    { s.writeRing fold q m with mem := s.mem, poison := s.poison, folds := s.folds } = s := by
  unfold State.writeRing
  split <;> rfl

theorem writeRing_same (s : State) (fold q : Nat) (m : Msg) : (s.writeRing fold q m).dir = s.dir ∧ (s.writeRing fold q m).procs = s.procs ∧
    (s.writeRing fold q m).groups = s.groups ∧ (s.writeRing fold q m).eps = s.eps ∧ (s.writeRing fold q m).agenda = s.agenda := by
  have h := writeRing_rest s fold q m
  exact ⟨(congrArg State.dir h :), (congrArg State.procs h :), (congrArg State.groups h :), (congrArg State.eps h :), (congrArg State.agenda h :)⟩

/-- A buffered message at an end whose owner waits for nothing stands in the queue, and no more (07 R202). -/
theorem enqueued_ep {s : State} {ke : Nat} {e : Ep} (hrx : e.rx = none) (hidle : s.OwnerIdle e) (hcount : s.Uncounted ke) (m : Msg) :
    ((s.putEp ke { e with queue := e.queue ++ [m], pend := min 255 (e.pend + 1) }).countExpect ke).deliver ke =
      s.putEp ke { e with queue := e.queue ++ [m], pend := min 255 (e.pend + 1) } := by
  have hcount' : (s.putEp ke { e with queue := e.queue ++ [m], pend := min 255 (e.pend + 1) }).Uncounted ke := hcount
  rw [countExpect_of_uncounted hcount']
  exact deliver_of_idle (ep_putEp_self ..) hrx (ownerIdle_of_same hidle rfl rfl rfl)

end Sys2Proof.Machine
end

section
/-! PROOFS. Multicast (07 R216, R217). -/

namespace Sys2Proof.Machine

theorem State.Extends.produce (s : State) (k : Nat) (r : Reg) : s.Extends (s.produce k r) := by
  unfold State.produce
  split
  · exact produceAs ..
  · exact refl s

theorem State.Extends.endReserve (s : State) (ke : Nat) (e : Ep) : s.Extends (s.endReserve ke e) := by
  unfold State.endReserve
  split
  · exact refl s
  · dsimp only
    split
    · split
      · split
        · exact ((putEp ..).trans (putEp ..)).trans (after ..)
        · exact (putEp ..).trans (putEp ..)
      · exact putEp ..
    · exact putEp ..

@[simp] theorem core_after (s : State) (n : Nat) (e : Ev) (c : Nat) : (s.after n e).core c = s.core c := rfl

theorem State.Extends.core {s t : State} (h : s.Extends t) (c : Nat) : t.core c = s.core c := by
  unfold State.core
  rw [h.cores]

section

variable {s : State} {k : Nat} {p : Proc} {d : Reg} {a b : Src} {x y w : Word} {ke : Nat} {e : Ep}

theorem exec_subs (hrun : s.Runs k p [srcField a 0, srcField b 1] [x, y] [d]) (hout : d ≠ 0 → (p.cell d).out < 3) (hx : x.toNat < 4096)
    (hy : y.toNat < 64) (hh : s.handle p.name y.toNat = some (ke, e)) (hrecv : e.recv = true) (hk : typKind e.typ = 1) (hcap : typCap e.typ ≠ 0) :
    exec (.subs d a b) s = .next
      (if 16 ≤ (s.core p.core).matchTab.length ∨ (x.toNat, ke % 512) ∈ (s.core p.core).matchTab then
        (((s.endReserve ke e).produce k d).after 1 (.fill (p.dest d) (BitVec.ofNat 64 (2 ^ 63 + 0x27)))).retire k
          (consumeMask p [srcField a 0, srcField b 1]) []
      else
        ((((s.endReserve ke e).produce k d).modCore p.core (fun z => { z with matchTab := z.matchTab ++ [(x.toNat, ke % 512)] })).after
          (s.joinTime p.core) (.joinRecorded (p.dest d) p.core x.toNat ke true)).retire k (consumeMask p [srcField a 0, srcField b 1]) []) := by
  obtain ⟨hi, hg, ht⟩ := hrun
  refine (onCur_next hi _).trans (congrArg _ ((issueFill_ok hg ht hout _).trans ?_))
  simp only [List.getD_cons_succ, List.getD_cons_zero, Nat.not_le.2 hx, Nat.not_le.2 hy, decide_false, Bool.or_self, Bool.false_eq_true, if_false, hh,
    hrecv, Bool.not_true, hk, typQueued_of_kind hcap (show typKind e.typ ≠ 3 by omega), ne_eq, not_true_eq_false, Bool.or_eq_true, decide_eq_true_eq,
    List.contains_iff_mem]
  rfl

theorem exec_unsub (hrun : s.Runs k p [srcField a 0] [x] [d]) (hout : d ≠ 0 → (p.cell d).out < 3) (hx : x.toNat < 4096) :
    exec (.unsub d a) s = .next (
      match (s.core p.core).matchTab.find? (fun z => z.1 == x.toNat && (s.endsOf p.name).any (fun e => e.1 == epKey p.core z.2)) with
      | none => ((s.produce k d).after 1 (.fill (p.dest d) (BitVec.ofNat 64 (2 ^ 63 + 0x27)))).retire k (consumeMask p [srcField a 0]) []
      | some z => ((s.produce k d).after (s.joinTime p.core) (.joinRecorded (p.dest d) p.core x.toNat (epKey p.core z.2) false)).retire k
          (consumeMask p [srcField a 0]) []) := by
  obtain ⟨hi, hg, ht⟩ := hrun
  refine (onCur_next hi _).trans (congrArg _ ((issueFill_ok hg ht hout _).trans ?_))
  simp only [List.getD_cons_zero, Nat.not_le.2 hx, if_false]
  rfl

/-- The entries of a core that subscribe are subscribers of its die. -/
theorem mem_subscribers {c : Nat × CoreS} (hc : c ∈ s.cores) {z : Nat × Nat} (hz : z ∈ c.2.matchTab) :
    c.1 * 512 + z.2 ∈ s.subscribers (dieOf c.1) z.1 := by
  refine List.mem_flatMap.2 ⟨c, hc, ?_⟩
  rw [if_pos rfl]
  exact List.mem_map.2 ⟨z, List.mem_filter.2 ⟨hz, beq_self_eq_true _⟩, rfl⟩

/-- The message of a multicast. -/
def State.mcastMsg (s : State) (p : Proc) (tag : Nat) (w : Word) : Msg :=
  { src := ⟨p.core, 512 + tag, 0⟩, sender := p.name, tid := none, tile := none,
    body := .bytes (readBytes s.mem (windowBase p.core + blockOff w) (blockLen w)), at0 := s.cycle,
    hurt := s.hurtIn (windowBase p.core + blockOff w) (blockLen w) }

theorem exec_mcast (hrun : s.Runs k p [srcField a 0, srcField b 1] [x, w] []) (hx : x.toNat < 4096) (hlen : blockLen w ≤ 4096)
    (hres : w.toNat / 2 ^ 24 % 2 ^ 24 = 0) (harea : blockOff w + blockLen w ≤ scratchSize p.core) (hset : s.Settled p) :
    exec (.mcast a b) s = .next (((s.subscribers (dieOf p.core) x.toNat).foldl (fun u key =>
      u.after (s.oneway p.core (key / 512) + lenP (blockLen w) + lenB (blockLen w)) (.mcastDelivery key (s.mcastMsg p x.toNat w))) s).retire k
        (consumeMask p [srcField a 0, srcField b 1]) []) := by
  obtain ⟨hi, hg, ht⟩ := hrun
  refine (onCur_next hi _).trans (congrArg _ ((issue_ok hg ht _).trans ?_))
  simp only [List.getD_cons_succ, List.getD_cons_zero, Nat.not_le.2 hx, Nat.not_lt.2 hlen, decide_false, Bool.or_self, Bool.false_eq_true, if_false,
    State.withBlock, hres, ne_eq, not_true_eq_false, Nat.not_lt.2 harea, releaseStores_of_settled hi.2 hset, length_readBytes]
  rfl

end

section

variable {s : State} {key : Nat} {m : Msg} {e : Ep} (he : s.ep key = some e) (hf : e.fwd = none)
include he hf

/-- A multicast that reaches a subscriber before an older one of its issuer waits for that one (07 R217). -/
theorem mcastDelivery_older {due : Nat} (h : s.olderMcast key m = some due) : mcastDelivery key m s = s.atCycle due (.mcastDelivery key m) := by
  rw [← locKey_entry key] at he
  unfold mcastDelivery
  rw [endAt_of_ep he hf, h]

theorem mcastDelivery_eq (h : s.olderMcast key m = none) (hrecv : e.recv = true) (hk : typKind e.typ = 1) (hst : e.st = .opened) :
    mcastDelivery key m s =
      if typMaxLen e.typ < bodyLen m.body then s.putEp key { e with fail := true }
      else if typCap e.typ ≤ e.queue.length then s.putEp key { e with offers := e.offers ++ [m] }
      else
        (((match e.rq with | some q => s.writeRing (foldOf (key / 512)) q m | none => s).putEp key
          { e with queue := e.queue ++ [m], pend := min 255 (e.pend + 1) }).countExpect key).deliver key := by
  have hend := endAt_of_ep (by rw [locKey_entry]; exact he) hf (l := ⟨key / 512, key % 512, 0⟩)
  rw [locKey_entry] at hend
  unfold mcastDelivery
  rw [hend, h]
  exact if_neg (by simp [hrecv, hk, hst])

end

theorem multicastDelivers : Claims.MulticastDelivers := by
  refine ⟨?_, ?_, ?_, ?_, ?_⟩
  · intro s k p d a b x y ke e hrun hout hx hy hh hrecv hk hcap c tab
    have hexec := exec_subs hrun hout hx hy hh hrecv hk hcap
    refine ⟨fun h => hexec.trans (congrArg _ (if_pos h)), fun hlen hnew => ⟨_, _, hexec.trans (congrArg _ (if_neg ?_)), ?_, dueIn_after ..⟩⟩
    · exact not_or.2 ⟨Nat.not_le.2 hlen, hnew⟩
    · have hcore := ((State.Extends.endReserve s ke e).trans (.produce _ k d)).core p.core
      rw [core_after, State.modCore_core_self, hcore]
  · intro s k p d a x hrun hout hx
    have hexec := exec_unsub hrun hout hx
    refine ⟨fun hnone => ?_, fun ix e htab hmem howner hst => ?_⟩
    · have hfind : (s.core p.core).matchTab.find? (fun z => z.1 == x.toNat && (s.endsOf p.name).any (fun e => e.1 == epKey p.core z.2)) = none := by
        rw [List.find?_eq_none]
        intro z hz
        simp [hnone z hz]
      rw [hexec, hfind]
    · have hend : (s.endsOf p.name).any (fun e => e.1 == epKey p.core ix) = true :=
        List.any_eq_true.2 ⟨_, List.mem_filter.2 ⟨hmem, by simp [howner, hst]⟩, beq_self_eq_true _⟩
      rw [hexec, htab, List.find?_cons_of_pos (by simp [hend])]
      exact ⟨_, _, rfl, dueIn_after ..⟩
  · exact fun s d core tag key => ⟨rfl, rfl⟩
  · intro s k p a b x w hrun hx hlen hres harea hset
    refine ⟨_, s.mcastMsg p x.toNat w, exec_mcast hrun hx (by unfold blockLen; omega) hres harea hset, rfl, fun c hc hdie z hz htag => ?_⟩
    obtain ⟨hall, -, -⟩ := foldl_after (fun key => s.oneway p.core (key / 512) + lenP (blockLen w) + lenB (blockLen w))
      (fun key => .mcastDelivery key (s.mcastMsg p x.toNat w)) (s.subscribers (dieOf p.core) x.toNat) s
    have hsub := mem_subscribers hc hz
    rw [hdie, htag] at hsub
    exact due_of_dueIn (hall _ hsub)
  · intro s key m e hkey he hf hrecv hk hst hrx hidle hcount
    refine ⟨fun due h => congrArg _ (mcastDelivery_older he hf h), fun h => ?_⟩
    have heq := mcastDelivery_eq he hf h hrecv hk hst
    refine ⟨fun hlong => congrArg _ (heq.trans (if_pos hlong)), fun hfit hfull => ?_, fun hfit hroom => ?_⟩
    · exact congrArg _ (heq.trans ((if_neg (Nat.not_lt.2 hfit)).trans (if_pos hfull)))
    · rw [if_neg (Nat.not_lt.2 hfit), if_neg (Nat.not_le.2 hroom)] at heq
      refine ⟨_, congrArg Host.Outcome.next heq, ?_⟩
      split
      · next q hq =>
        obtain ⟨hdir, hprocs, hgroups, -, -⟩ := writeRing_same s (foldOf (key / 512)) q m
        rw [enqueued_ep hrx (ownerIdle_of_same hidle hdir hprocs rfl) (uncounted_of_groups hcount hgroups), ep_putEp_self]
        rfl
      · rw [enqueued_ep hrx hidle hcount, ep_putEp_self]
        rfl

end Sys2Proof.Machine
end

section
/-! PROOFS. Servers are opened (08 R224 to R226, R236). -/

namespace Sys2Proof.Machine

section

variable {s : State} {k : Nat} {p : Proc} {d : Reg} {a b : Src} {w y : Word} (hrun : s.Runs k p [srcField a 0, srcField b 1] [w, y] [d])
  (hout : d ≠ 0 → (p.cell d).out < 3)
include hrun hout

theorem exec_svopen_illegal (hw : svOk w = false) : exec (.svopen d a b) s = .next (s.raiseWord k 0x01) := by
  obtain ⟨hi, hg, ht⟩ := hrun
  refine (onCur_next hi _).trans (congrArg _ ((issueFill_ok hg ht hout _).trans (if_pos ?_)))
  simp [hw]

/-- The time from the request to the answer of a server that no configuration goes to (08 R225). -/
def State.svTime (s : State) (p : Proc) (w : Word) : Nat :=
  match svKind w with
  | 2 => 10
  | 5 => 4
  | 3 => 2 * s.oneway p.core (serverCore (bothyFold (dieOf p.core))) + 16
  | 4 => 2 * s.oneway p.core (serverCore (bothyFold (dieOf p.core))) + 16
  | _ => 2 * (if s.packages.contains (svPkg w) then s.oneway p.core (serverCore (svFold w p.core)) else 1) + 4

theorem exec_svopen (hw : svOk w = true) (hy : y = 0) : exec (.svopen d a b) s = .next (((s.produce k d).after (s.svTime p w)
    (.serverAnswer { dest := p.dest d, core := p.core, desig := w, config := [] })).retire k (consumeMask p [srcField a 0, srcField b 1]) []) := by
  obtain ⟨hi, hg, ht⟩ := hrun
  subst hy
  have hroom : ¬ scratchSize p.core < 32 := by unfold scratchSize; split <;> omega
  refine (onCur_next hi _).trans (congrArg _ ((issueFill_ok hg ht hout _).trans ?_))
  rw [if_neg (by simp [hw]), if_neg (by simp), if_neg (by simpa using hroom)]
  rfl

end

section

variable {s : State} {r : SvReq} {k : Nat} {p : Proc} (hn : s.named r.dest.name = some (k, p))
include hn

theorem serverAnswer_refused (h : s.svRefusal p r ≠ 0) : serverAnswer r s = fill r.dest (BitVec.ofNat 64 (2 ^ 63 + s.svRefusal p r)) s := by
  unfold serverAnswer
  rw [modNamed_of_named hn]
  exact if_pos h

theorem serverAnswer_no_handle (h : s.svRefusal p r = 0) (hfree : s.freeHandle p.name 0 = none) :
    serverAnswer r s = fill r.dest (BitVec.ofNat 64 (2 ^ 63 + 0x21)) s := by
  unfold serverAnswer
  rw [modNamed_of_named hn]
  simp only [h, hfree, ne_eq, not_true_eq_false, if_false]
  rfl

/-- The end that a server without a queue gives to a process. -/
def State.givenEnd (s : State) (p : Proc) (h : Nat) (x : Srv × Bool × Word) (loc : EndLoc) : Ep :=
  { owner := p.name, handle := h, launch := s.launchNo p, recv := x.2.1, server := some x.1, typ := x.2.2, peer := loc,
    pair := if isExternal (some x.1) then s.cycle * 2 ^ 40 + p.name else 0 }

/-- A server of one end without a queue gives it under the lowest free handle in the lowest free entry, and a dispenser is configured (08 R224,
R226, R236). -/
theorem serverAnswer_one {h ix : Nat} {x : Srv × Bool × Word} (hok : s.svRefusal p r = 0) (hends : svEnds r.desig = [x]) (hq : typQueued x.2.2 = false)
    (hfree : s.freeHandle p.name 0 = some h) (hix : s.freeEntry p.core 0 = some ix) :
    let u := s.putEp (p.core * 512 + ix) (s.givenEnd p h x (svLoc r.desig p.core))
    serverAnswer r s = fill r.dest (BitVec.ofNat 64 h) (if r.config.isEmpty then u
      else { u with disps := tput u.disps (svNumber r.desig) (configured (tget u.disps (svNumber r.desig)) (s.launchNo p) r.config) }) := by
  intro u
  have hgive : s.giveEnd p h x (svLoc r.desig p.core) = .inr u := by
    unfold State.giveEnd
    simp only [hix, hq, Bool.and_false, Bool.false_eq_true, if_false, Bool.not_false, Bool.or_true, if_true]
    rfl
  unfold serverAnswer
  rw [modNamed_of_named hn]
  simp only [hok, hfree, hends, hgive, ne_eq, not_true_eq_false, if_false]

end

theorem svEnds_timer {w : Word} (h : svKind w = 2) : svEnds w = [(.timer, true, BitVec.ofNat 64 (3 * 2 ^ 60 + 255 * 2 ^ 48))] := by
  simp only [svEnds, h]

theorem svEnds_dispenser {w : Word} (h : svKind w = 1) : svEnds w = [(.dispenser (svNumber w), false, 0)] := by simp only [svEnds, h]

theorem serversOpen : Claims.ServersOpen := by
  refine ⟨fun s k p d a b w y hrun hout => ⟨exec_svopen_illegal hrun hout, fun hw hy => ?_⟩, fun s r k p hn hname => ⟨?_, ?_, ?_, ?_⟩⟩
  · refine ⟨_, _, exec_svopen hrun hout hw hy, dueIn_after .., fun h => ?_, fun h => ?_, ?_⟩
    · simp only [State.svTime, svKind, h]
    · simp only [State.svTime, svKind, h]
    · exact (congrArg (fun t : State => { t with agenda := s.agenda }) (stateProduce_rest s k d) :)
  · exact fun h => congrArg _ (serverAnswer_refused hn h)
  · exact fun h hfree => congrArg _ (serverAnswer_no_handle hn h hfree)
  · intro h ix hok hk hfree hix
    refine ⟨_, s.givenEnd p h (.timer, true, BitVec.ofNat 64 (3 * 2 ^ 60 + 255 * 2 ^ 48)) (svLoc r.desig p.core),
      congrArg Host.Outcome.next (serverAnswer_one hn hok (svEnds_timer hk) (by decide) hfree hix), ?_, rfl, rfl, rfl, rfl, ?_, ?_⟩
    · split <;> exact ep_putEp_self ..
    · show typKind (BitVec.ofNat 64 (3 * 2 ^ 60 + 255 * 2 ^ 48)) = 3
      decide
    · show typCap (BitVec.ofNat 64 (3 * 2 ^ 60 + 255 * 2 ^ 48)) = 255
      decide
  · intro h ix hok hk hconf hfree hix
    have hopen := serverAnswer_one hn hok (svEnds_dispenser hk) (show typQueued 0 = false by decide) hfree hix
    simp only [List.isEmpty_eq_false_iff.2 hconf, Bool.false_eq_true, if_false] at hopen
    refine ⟨_, congrArg Host.Outcome.next hopen, ?_, ?_⟩
    · exact congrArg (fun o : Option Ep => o.bind Ep.server) (ep_putEp_self s (p.core * 512 + ix)
        (s.givenEnd p h (.dispenser (svNumber r.desig), false, 0) (svLoc r.desig p.core)))
    · rw [tget_tput_self]
      rfl

/-- Settles O41: what reaches an end whose owner waits for nothing changes that end alone, and a server's answer gives its ends by the
lowest free handle and entry. -/
theorem multicastAndServers : Obligations.MulticastAndServers := ⟨multicastDelivers, serversOpen⟩

end Sys2Proof.Machine
end

section
/-! PROOFS. Engines at the scratchpad of their core (07 R211; 04 R75 to R79). -/

namespace Sys2Proof.Machine

/-! ### Bytes -/

theorem leBytes_leNat (bs : List Byte) : leBytes bs.length (leNat bs) = bs := by
  induction bs with
  | nil => rfl
  | cons b bs ih =>
    have hb := b.isLt
    rw [List.length_cons, leNat, leBytes, show (b.toNat + 256 * leNat bs) / 256 = leNat bs by omega, ih]
    refine congrArg (· :: bs) (BitVec.eq_of_toNat_eq ?_)
    rw [BitVec.toNat_ofNat]
    omega

theorem leBytes_readLe (m : List Host.Cell) (a n : Nat) : leBytes n (readLe m a n) = readBytes m a n := by
  have h := leBytes_leNat (readBytes m a n)
  rwa [length_readBytes] at h

theorem readBytes_getD (m : List Host.Cell) (a : Nat) {n i : Nat} (h : i < n) : (readBytes m a n).getD i 0 = readByte m (a + i) := by
  rw [readBytes_eq_map]
  simp [h]

/-! ### One place of the scratchpad -/

/-- A range within an aligned word is one piece. -/
theorem pieces_one {va n : Nat} (h0 : 0 < n) (h : n ≤ 8 - va % 8) : pieces va n n = [(va, n)] := by
  obtain ⟨m, rfl⟩ := Nat.exists_eq_succ_of_ne_zero h0.ne'
  rw [pieces, if_neg (Nat.succ_ne_zero m)]
  dsimp only
  rw [Nat.min_eq_left h, Nat.sub_self]
  cases m <;> rfl

theorem engineWrite_one {s : State} {a : Agent} {va n pa : Nat} {bs : List Byte} (h0 : 0 < n) (hal : n ≤ 8 - va % 8) (hbs : bs.length = n)
    (hreach : s.engineReach a va n true = some pa) (name : Nat) :
    s.engineWrite a name va bs = some (s.storePhys a.core name pa n (leNat bs)) := by
  unfold State.engineWrite
  rw [hbs, pieces_one h0 hal]
  simp only [List.all_cons, List.all_nil, hreach, Option.isSome_some, Bool.and_self, if_true, List.foldl_cons, List.foldl_nil, Nat.sub_self,
    List.drop_zero, List.take_of_length_le hbs.le]

section

variable {s : State} {a : Agent} {off n : Nat} (hc : coreIdOk a.core) (h0 : 0 < n) (hpkg : pkgOf a.core ∈ s.packages)
  (hfence : (s.fold (foldOf a.core)).fenced = false)
include hc h0 hpkg hfence

/-- An engine reaches its core's scratchpad by its addresses there (04 R75, R77, R79). -/
theorem engineReach_own (hoff : off + n ≤ scratchSize a.core) {wr any : Bool} (hany : (wr || any || !s.poisoned (windowBase a.core + off) n) = true) :
    s.engineReach a (0xC0000000000000 + off) n wr any = some (windowBase a.core + off) := by
  have hle := scratchSize_le a.core
  have htrans : s.translateNow a.core a.asid a.root a.level (0xC0000000000000 + off) (!wr) wr = some (windowBase a.core + off) := by
    rw [State.translateNow, if_neg (by simp only [isPaged, decide_eq_true_eq]; omega), aliasPa_own a.core (by omega)]
  have hplace := placeOf_window hc (show off < 0x200000 by omega)
  have hrow := rowOf_scratch (show off < 0x60000 by omega)
  have hpass : s.passes a.core a.gid a.level (windowBase a.core + off) n (!wr) wr = true := by
    rw [State.passes, windowChecked, hplace]
    simp only [hrow, Row.guarded, ne_eq, not_true_eq_false, decide_false, Bool.or_false, Bool.and_false, Bool.not_false, Bool.true_or]
  have hword : wordRow (windowBase a.core + off) = false := by
    rw [wordRow, hplace]
    simp only [hrow]
    rfl
  unfold State.engineReach
  rw [htrans]
  simp only [backed_scratch hc h0 hoff hpkg hfence, hpass, pkgOfAddr_window hc (show off < 0x200000 by omega), reachable_self, hword, hany,
    Bool.not_false, Bool.true_or, Bool.and_self, if_true]

variable (hoff : off + n ≤ scratchSize a.core - 2048 * (s.core a.core).extSize) (hal : n ≤ 8 - off % 8) {va : Nat} (hva : va = 0xC0000000000000 + off)
include hoff hal hva

theorem engineRead_own {any : Bool} (hany : (any || !s.poisoned (windowBase a.core + off) n) = true) :
    s.engineRead a va n any = some (readBytes s.mem (windowBase a.core + off) n) := by
  have hreach : s.engineReach a va n false any = some (windowBase a.core + off) := by
    rw [hva]
    exact engineReach_own hc h0 hpkg hfence (by omega) hany
  unfold State.engineRead
  rw [pieces_one h0 (by omega), List.foldl_cons, List.foldl_nil]
  dsimp only
  rw [hreach]
  dsimp only
  rw [loadPhys_scratch hc h0 hoff, leBytes_readLe, List.nil_append]

theorem engineWrite_own (name : Nat) {bs : List Byte} (hbs : bs.length = n) :
    s.engineWrite a name va bs = some (s.writeMem (windowBase a.core + off) bs) := by
  have hreach : s.engineReach a va n true = some (windowBase a.core + off) := by
    rw [hva]
    exact engineReach_own hc h0 hpkg hfence (by omega) (by simp only [Bool.true_or])
  rw [engineWrite_one h0 (by omega) hbs hreach, storePhys_scratch hc h0 hoff, State.writeNum, ← hbs, leBytes_leNat]

end

end Sys2Proof.Machine
end

section
/-! PROOFS. COPY (07 R210 to R212). -/

namespace Sys2Proof.Machine

/-! ### The elements of a copy within a scratchpad -/

/-- The places of a pattern of adjacent words. -/
theorem streamAddr_words {st : Stream} {n i off : Nat} (h0 : st.c0 = n) (h1 : st.c1 = 1) (hs : st.s0 = 8)
    (hbase : st.base.toNat = 0xC0000000000000 + off) (hi : i < n) (hoff : off + 8 * n ≤ 0x60000) :
    (streamAddr st i).toNat = 0xC0000000000000 + (off + 8 * i) := by
  have hplace : (st.base + BitVec.ofNat 64 i * 8).toNat = 0xC0000000000000 + (off + 8 * i) := by
    rw [BitVec.toNat_add, BitVec.toNat_mul, BitVec.toNat_ofNat, hbase]
    show (0xC0000000000000 + off + i % 2 ^ 64 * 8 % 2 ^ 64) % 2 ^ 64 = _
    omega
  unfold streamAddr
  rw [h0, h1, hs, Nat.mod_eq_of_lt hi, Nat.mod_one, Nat.mul_one, Nat.div_eq_of_lt hi]
  simpa using hplace

section

variable {a : Agent} (hc : coreIdOk a.core) {ws : List Word} {n src dst : Nat}

/-- What the copy of words from one place of a scratchpad to another needs of a state. -/
structure State.CanCopy (s : State) (a : Agent) : Prop where
  pkg : pkgOf a.core ∈ s.packages
  fence : (s.fold (foldOf a.core)).fenced = false
  poison : s.poison = []
  mem : s.MemOk

theorem hurtIn_of_no_poison {s : State} (h : s.poison = []) (x m : Nat) : s.hurtIn x m = [] := by
  unfold State.hurtIn
  rw [h]
  rfl

/-- A word written with no poison about changes memory alone. -/
theorem State.CanCopy.writeMem {s : State} (h : s.CanCopy a) (x : Nat) (bs : List Byte) :
    (s.writeMem x bs).CanCopy a ∧ { s.writeMem x bs with mem := s.mem } = s := by
  have hpoison : (s.writeMem x bs).poison = s.poison := by
    show unpoison s.poison x bs.length = s.poison
    rw [h.poison]
    rfl
  refine ⟨⟨h.pkg, h.fence, hpoison.trans h.poison, memOk_writeMem h.mem ..⟩, ?_⟩
  calc { s.writeMem x bs with mem := s.mem } = { s with poison := (s.writeMem x bs).poison } := rfl
    _ = s := by rw [hpoison]

variable (helem : copyElem ws = 8) (hsrc8 : src % 8 = 0) (hdst8 : dst % 8 = 0)
include hc helem hsrc8 hdst8

/-- One word of a copy (07 R211). -/
theorem copyElement_own {s : State} (h : s.CanCopy a) (name i : Nat) {so d : Nat}
    (hsrc : (streamAddr (copySrc ws) i).toNat = 0xC0000000000000 + (src + so))
    (hdst : (streamAddr (copyDst ws) i).toNat = 0xC0000000000000 + (dst + d)) (hso : so % 8 = 0) (hd : d % 8 = 0)
    (hsize : src + so + 8 ≤ scratchSize a.core - 2048 * (s.core a.core).extSize)
    (hdize : dst + d + 8 ≤ scratchSize a.core - 2048 * (s.core a.core).extSize) :
    s.copyElement a name ws i = some (s.writeMem (windowBase a.core + (dst + d)) (readBytes s.mem (windowBase a.core + (src + so)) 8)) := by
  have hread := engineRead_own hc (by decide) h.pkg h.fence hsize (by omega) hsrc (any := true) rfl
  have hwrite := engineWrite_own hc (by decide) h.pkg h.fence hdize (by omega) hdst name (length_readBytes s.mem (windowBase a.core + (src + so)) 8)
  have hclean : s.engineHurt a (streamAddr (copySrc ws) i).toNat 8 = [] := by
    unfold State.engineHurt
    rw [pieces_one (by decide) (by omega)]
    simp only [List.flatMap_cons, List.flatMap_nil, List.append_nil, hurtIn_of_no_poison h.poison, List.map_nil]
    split <;> rfl
  unfold State.copyElement
  simp only [helem, hread, hwrite, Option.map_some, hclean]
  rfl

/-- The words of a copy whose places do not overlap: each place of the destination comes to hold what the source held (07 R211). -/
theorem copyFrom_own (name : Nat) (hsrc : ∀ i < n, (streamAddr (copySrc ws) i).toNat = 0xC0000000000000 + (src + 8 * i))
    (hdst : ∀ i < n, (streamAddr (copyDst ws) i).toNat = 0xC0000000000000 + (dst + 8 * i))
    (hapart : src + 8 * n ≤ dst ∨ dst + 8 * n ≤ src) (f i : Nat)
    (hf : i + f = n) {s : State} (h : s.CanCopy a) (hsize : src + 8 * n ≤ scratchSize a.core - 2048 * (s.core a.core).extSize)
    (hdize : dst + 8 * n ≤ scratchSize a.core - 2048 * (s.core a.core).extSize) :
    ∃ t : State, s.copyFrom a name ws f i = (t, none) ∧ { t with mem := s.mem } = s ∧ ∀ b, readByte t.mem b =
      if windowBase a.core + dst + 8 * i ≤ b ∧ b < windowBase a.core + dst + 8 * n then readByte s.mem (b - dst + src) else readByte s.mem b := by
  induction f generalizing i s with
  | zero => exact ⟨s, rfl, rfl, fun b => (if_neg (by omega)).symm⟩
  | succ f ih =>
    have hone := copyElement_own hc helem hsrc8 hdst8 h name i (hsrc i (by omega)) (hdst i (by omega)) (by omega) (by omega) (by omega) (by omega)
    obtain ⟨hcan, hrest⟩ := h.writeMem (windowBase a.core + (dst + 8 * i)) (readBytes s.mem (windowBase a.core + (src + 8 * i)) 8)
    obtain ⟨t, hcopy, hsame, hbytes⟩ := ih (i + 1) (by omega) hcan hsize hdize
    refine ⟨t, ?_, (congrArg (fun x : State => { x with mem := s.mem }) hsame :).trans hrest, fun b => ?_⟩
    · rw [State.copyFrom, hone]
      exact hcopy
    · have hwritten (j : Nat) := readByte_writeMem h.mem (windowBase a.core + (dst + 8 * i)) j (readBytes s.mem (windowBase a.core + (src + 8 * i)) 8)
      rw [length_readBytes] at hwritten
      rw [hbytes b, hwritten, hwritten]
      by_cases hlater : windowBase a.core + dst + 8 * (i + 1) ≤ b ∧ b < windowBase a.core + dst + 8 * n
      · rw [if_pos hlater, if_neg (by omega), if_pos (by omega)]
      · rw [if_neg hlater]
        by_cases hhere : windowBase a.core + (dst + 8 * i) ≤ b ∧ b < windowBase a.core + (dst + 8 * i) + 8
        · rw [if_pos hhere, if_pos (by omega), readBytes_getD _ _ (by omega)]
          congr 1
          omega
        · rw [if_neg hhere, if_neg (by omega)]

end

/-- A copy that none of its elements stops is made as a whole. -/
theorem runCopy_of_copyFrom {s t : State} {a : Agent} {ws : List Word} {n name : Nat} (hn : copyTotal (copySrcCounts ws) = n)
    (h : s.copyFrom a name ws n 0 = (t, none)) :
    s.runCopy a name ws = (t, false) ∧ s.copyLost a name ws = s := by
  unfold State.runCopy State.copyLost
  simp only [hn, h, and_self]

/-! ### The end of a transfer (07 R212) -/

/-- An end of an owner that waits for nothing, at which no expectation counts, changes alone. -/
theorem settled_putEp {s : State} {ke : Nat} {e x : Ep} (ho : x.owner = e.owner) (hidle : s.OwnerIdle e) (hcount : s.Uncounted ke) :
    (((s.putEp ke x).countExpect ke).checkCwait ke).wakeEnd ke = s.putEp ke x := by
  have hend := ep_putEp_self s ke x
  have hidle' : (s.putEp ke x).OwnerIdle x := ownerIdle_of_same hidle rfl rfl ho
  rw [countExpect_of_uncounted (uncounted_of_groups (t := s.putEp ke x) hcount rfl), checkCwait_of_idle hend hidle', wakeEnd_of_idle hend hidle']

/-- The last transfer under way at an end of an owner that waits for nothing: DONE is the newest identifier. -/
theorem transferDone_last {s : State} {ke id : Nat} {e : Ep} (he : s.ep ke = some e) (hids : e.ids = [(id, false)]) (hmove : e.move = none)
    (hserver : isDrover e.server = false) (hidle : s.OwnerIdle e) (hcount : s.Uncounted ke) (failed : Bool) :
    s.transferDone ke id failed = s.putEp ke { e with ids := [], done := e.issued, infl := e.infl - 1, fail := e.fail || failed } := by
  have hlive : e.ids.any (fun i => i.1 == id) = true := by simp [hids]
  have hleft : e.ids.filter (fun i => i.1 != id) = [] := by simp [hids]
  unfold State.transferDone
  simp only [he, hlive, hleft, hserver, nextDone, Bool.not_true, Bool.false_eq_true, if_false]
  rw [hmove]
  exact settled_putEp (e := e) rfl hidle hcount

end Sys2Proof.Machine
end

section
/-! PROOFS. Instructions that wait with their destination empty (07 R188, R205; 05 R104), and the ends of reservations (07 R209). -/

namespace Sys2Proof.Machine

section

variable {s : State} {k : Nat} {p : Proc} (hp : s.proc k = some p) (r : Reg) (tag : BitVec 2)

theorem produceAs_proc (hp : s.proc k = some p) (r : Reg) (tag : BitVec 2) : (s.produceAs k r tag).proc k = some (p.withProducer r tag) := by
  unfold State.produceAs
  rw [hp]
  dsimp only
  split <;> exact State.putProc_proc_self ..

theorem produceAs_eps (s : State) (k : Nat) (r : Reg) (tag : BitVec 2) : (s.produceAs k r tag).eps = s.eps := by
  unfold State.produceAs
  split
  · dsimp only
    split <;> rfl
  · rfl

end

theorem withProducer_regs (p : Proc) (r : Reg) (tag : BitVec 2) : (p.withProducer r tag).regs = (p.produce r).regs := by
  unfold Proc.withProducer
  split
  · unfold Proc.produce Proc.putCell
    split <;> rfl
  · rfl

/-- A process that waits in an instruction whose destination is a fill (07 R188). -/
def Proc.holdsFill (p : Proc) (c : BitVec 16) (d : Reg) (arg arg2 now : Nat) : Proc :=
  (p.withProducer d (p.mark d)).holding { consume := c, dst := some d, arg := arg, arg2 := arg2, old := some (p.cell d), issuedAt := now }

theorem holdsFill_same (p : Proc) (c : BitVec 16) (d : Reg) (arg arg2 now : Nat) : (p.holdsFill c d arg arg2 now).pc = p.pc ∧
    (p.holdsFill c d arg arg2 now).regs = (p.produce d).regs ∧ (p.holdsFill c d arg arg2 now).heavy = p.heavy ∧
    (p.holdsFill c d arg arg2 now).name = p.name ∧ (p.holdsFill c d arg arg2 now).core = p.core := by
  have h := withProducer_rest p d (p.mark d)
  exact ⟨(congrArg Proc.pc h :), withProducer_regs p d (p.mark d), (congrArg Proc.heavy h :), (congrArg Proc.name h :), (congrArg Proc.core h :)⟩

section

variable {s : State} {k ke : Nat} {p : Proc} {x : Ep} (hp : s.proc k = some p) (hx : s.ep ke = some x) (e : Ep) (c : BitVec 16) (d : Reg) (arg arg2 : Nat)
include hp hx

theorem holdFill_proc : (s.holdFill k p ke e c d arg arg2).proc k = some ((p.holdsFill c d arg arg2 s.cycle).waiting (.chan e.handle) s.cycle) := by
  have hx' : (s.produceAs k d (p.mark d)).ep ke = some x := by unfold State.ep at hx ⊢; rwa [produceAs_eps]
  rw [State.holdFill, holdOn_proc (produceAs_proc hp d (p.mark d)) hx', (State.Extends.produceAs ..).cycle]
  rfl

theorem holdFill_extends : s.Extends (s.holdFill k p ke e c d arg arg2) := by
  have hx' : (s.produceAs k d (p.mark d)).ep ke = some x := by unfold State.ep at hx ⊢; rwa [produceAs_eps]
  exact (State.Extends.produceAs ..).trans (holdOn_extends (produceAs_proc hp d (p.mark d)) hx' _)

theorem holdFill_ep (j : Nat) : (s.holdFill k p ke e c d arg arg2).ep j = if j = ke then some x.waitedOn else s.ep j := by
  have hx' : (s.produceAs k d (p.mark d)).ep ke = some x := by unfold State.ep at hx ⊢; rwa [produceAs_eps]
  rw [State.holdFill, holdOn_ep (produceAs_proc hp d (p.mark d)) hx']
  unfold State.ep
  rw [produceAs_eps]

theorem holdFill_awaitsOn : (s.holdFill k p ke e c d arg arg2).AwaitsOn k p e.handle d := by
  obtain ⟨hpc, hregs, hheavy, -, -⟩ := holdsFill_same p c d arg arg2 s.cycle
  obtain ⟨hw, hpc', hregs', hst⟩ := waiting_same (p.holdsFill c d arg arg2 s.cycle) (.chan e.handle) s.cycle
  exact ⟨_, holdFill_proc hp hx e c d arg arg2, hw, hpc'.trans hpc, hregs'.trans hregs, hst.trans (by rw [hheavy])⟩

end

/-! ### Reservations -/

@[simp] theorem endReserve_procs (s : State) (ke : Nat) (e : Ep) : (s.endReserve ke e).procs = s.procs := by
  unfold State.endReserve
  split
  · rfl
  · dsimp only
    split
    · split
      · split <;> rfl
      · rfl
    · rfl

theorem endReserve_proc (s : State) (ke : Nat) (e : Ep) (k : Nat) : (s.endReserve ke e).proc k = s.proc k := by
  unfold State.proc
  rw [endReserve_procs]

/-- A reservation's end leaves the end there. -/
theorem endReserve_ep {s : State} {ke : Nat} {e : Ep} (h : s.ep ke = some e) : ∃ x, (s.endReserve ke e).ep ke = some x := by
  have hput (t : State) (j : Nat) (y : Ep) (ht : ∃ x, t.ep ke = some x) : ∃ x, (t.putEp j y).ep ke = some x := by
    rw [ep_putEp]
    split
    · exact ⟨y, rfl⟩
    · exact ht
  unfold State.endReserve
  split
  · exact ⟨e, h⟩
  · dsimp only
    split
    · split
      · split
        · exact hput _ _ _ (hput _ _ _ ⟨e, h⟩)
        · exact hput _ _ _ (hput _ _ _ ⟨e, h⟩)
      · exact hput _ _ _ ⟨e, h⟩
    · exact hput _ _ _ ⟨e, h⟩

end Sys2Proof.Machine
end

section
/-! PROOFS. The instructions COPY and CWAIT, and the end of a copy (07 R210 to R212). -/

namespace Sys2Proof.Machine

/-! ### COPY sets out -/

theorem foldl_drovers {α : Type} {f : State → α → State} (hf : ∀ t x, { f t x with drovers := t.drovers } = t) (l : List α) (t : State) :
    { l.foldl f t with drovers := t.drovers } = t := by
  induction l generalizing t with
  | nil => rfl
  | cons x l ih => exact (congrArg (fun u : State => { u with drovers := t.drovers }) (ih (f t x)) :).trans (hf t x)

theorem bookStream_rest (s : State) (core : Nat) (a : Agent) (st : Stream) (size : Nat) :
    { s.bookStream core a st size with drovers := s.drovers } = s := by
  have hbooked : s.bookStream core a st size = s ∨ ∃ l : List (Nat × Nat × Nat), s.bookStream core a st size =
      l.foldl (fun u x => u.bookAfter x.1 core (x.2.1 * 2048) (min 2048 x.2.2)) s := by
    unfold State.bookStream
    dsimp only
    split
    · exact .inr ⟨_, rfl⟩
    · exact .inl rfl
  obtain h | ⟨l, h⟩ := hbooked
  · rw [h]
  · rw [h]
    exact foldl_drovers (fun t x => bookAt_rest ..) l s

theorem bookCopy_rest (s : State) (core : Nat) (ws : List Word) (a : Agent) : { s.bookCopy core ws a with drovers := s.drovers } = s :=
  (congrArg (fun t : State => { t with drovers := s.drovers }) (bookStream_rest (s.bookStream core a (copySrc ws) (copyElem ws)) ..) :).trans
    (bookStream_rest ..)

theorem copySignal_of_zero {ws : List Word} (h : ws.getD 7 0 = 0) : copySignal ws = false := by
  unfold copySignal
  rw [h]
  rfl

section

variable {s : State} {k : Nat} {p : Proc} {d : Reg} {a b : Src} {x y : Word} {ke : Nat} {e : Ep}
  (hrun : s.Runs k p [srcField a 0, srcField b 1] [x, y] [d]) (hx : x.toNat < 64) (hh : s.handle p.name x.toNat = some (ke, e)) (hep : s.ep ke = some e)
include hrun hx hh hep

/-- COPY once its descriptor is read. -/
theorem exec_copy (hserver : e.server = none) (hal : y.toNat % 8 = 0) (harea : y.toNat + 64 ≤ scratchSize p.core) (hy : y.toNat < 2 ^ 24)
    (hset : s.Settled p) (hwait : e.waitK = 0) (hinfl : e.infl < 65535) {ws : List Word}
    (hws : ws = leWords 8 (readBytes s.mem (windowBase p.core + y.toNat) 64)) : exec (.copy d a b) s = .next
      (if !copyOk ws || (copySignal ws && (e.recv || typKind e.typ ≠ 3)) then s.raiseWord k 0x01
      else ((s.bookCopy p.core ws (s.agentOf p)).beginTransfer p ke e (.copy ws (s.asidOf p) (s.rootOf p) p.level p.gid)
        (s.copyTime p.core ws (s.agentOf p))).retire k (consumeMask p [srcField a 0, srcField b 1]) [(d, BitVec.ofNat 64 (nextId e))]) := by
  obtain ⟨hi, hg, ht⟩ := hrun
  have hdisp : isDispenser e = false := by unfold isDispenser; rw [hserver]
  refine (onCur_next hi _).trans (congrArg _ ((issue_ok hg ht _).trans ?_))
  simp only [List.getD_cons_succ, List.getD_cons_zero, State.withHeld, Nat.not_le.2 hx, if_false, hh, hdisp, Bool.false_eq_true, Nat.mod_eq_of_lt hy,
    hal, ne_eq, not_true_eq_false, Nat.not_lt.2 harea, releaseStores_of_settled hi.2 hset, Nat.not_le.2 hinfl,
    endReserve_of_unreserved ke (show e.waitK ≠ 3 by omega), hep, Option.getD_some, ← hws]
  rfl

omit hep in
theorem exec_cwait (hy : y.toNat < 2 ^ 24) (htag : p.HasTag d) : exec (.cwait d a b) s = .next
    (if !idAtOrBelow y.toNat e.issued then (s.endReserve ke e).retire k (consumeMask p [srcField a 0, srcField b 1])
        [(d, BitVec.ofNat 64 ((if e.fail then 2 ^ 63 else 0) + 2 ^ 62 + e.done))]
    else if idAtOrBelow y.toNat e.done then ((s.endReserve ke e).modEp ke (fun z => { z with fail := false })).retire k
        (consumeMask p [srcField a 0, srcField b 1]) [(d, BitVec.ofNat 64 ((if e.fail then 2 ^ 63 else 0) + e.done))]
    else (s.endReserve ke e).holdFill k p ke e (consumeMask p [srcField a 0, srcField b 1]) d y.toNat 2) := by
  obtain ⟨hi, hg, ht⟩ := hrun
  have hbit : bitOf e.fail * 2 ^ 63 = if e.fail then 2 ^ 63 else 0 := by cases e.fail <;> rfl
  refine (onCur_next hi _).trans (congrArg _ ((issueFill_ok hg ht htag _).trans ?_))
  simp only [List.getD_cons_succ, List.getD_cons_zero, State.withHeld, Nat.not_le.2 hx, Nat.not_le.2 hy, if_false, hh, hbit, Nat.one_mul, Nat.zero_mul,
    Nat.add_zero]

end

section

variable {s : State} {k : Nat} {p : Proc} {d : Reg} {a b : Src} {x y : Word} {ke : Nat} {e : Ep}
  (hrun : s.Runs k p [srcField a 0, srcField b 1] [x, y] [d]) (hx : x.toNat < 64) (hh : s.handle p.name x.toNat = some (ke, e)) (hep : s.ep ke = some e)
include hrun hx hh hep

theorem copySetsOut (hserver : e.server = none) (hal : y.toNat % 8 = 0) (harea : y.toNat + 64 ≤ scratchSize p.core) (hy : y.toNat < 2 ^ 24)
    (hset : s.Settled p) (hwait : e.waitK = 0) (hinfl : e.infl < 65535) :
    let c := consumeMask p [srcField a 0, srcField b 1]
    let ws := leWords 8 (readBytes s.mem (windowBase p.core + y.toNat) 64)
    let id := (e.issued + 1) % 2 ^ 24
    (copyOk ws = false → exec (.copy d a b) s = .next (s.raiseWord k 0x01)) ∧
    (copyOk ws = true → (ws.getD 7 0) = 0 → ∃ (u : State) (n : Nat), exec (.copy d a b) s = .next (u.retire k c [(d, BitVec.ofNat 64 id)]) ∧
      u.DueIn n (.transferComplete { owner := p.name, core := p.core, key := ke, tid := id, job := .copy ws (s.asidOf p) (s.rootOf p) p.level p.gid }) ∧
      (u.ep ke).map (fun z => (z.issued, z.infl, z.ids)) = some (id, e.infl + 1, e.ids ++ [(id, false)]) ∧ u.mem = s.mem) := by
  intro c ws id
  have hexec := exec_copy hrun hx hh hep hserver hal harea hy hset hwait hinfl (ws := ws) rfl
  refine ⟨fun hbad => ?_, fun hok hzero => ?_⟩
  · rw [hexec, hbad]
    rfl
  · rw [hok, copySignal_of_zero hzero] at hexec
    have hbook := bookCopy_rest s p.core ws (s.agentOf p)
    refine ⟨_, _, hexec, dueIn_after .., ?_, (congrArg State.mem hbook :)⟩
    rw [State.beginTransfer, ep_after, ep_putEp_self]
    rfl

theorem cwaitReports (hy : y.toNat < 2 ^ 24) (htag : p.HasTag d) :
    let c := consumeMask p [srcField a 0, srcField b 1]
    (idAtOrBelow y.toNat e.issued = false → exec (.cwait d a b) s = .next ((s.endReserve ke e).retire k c
      [(d, BitVec.ofNat 64 ((if e.fail then 2 ^ 63 else 0) + 2 ^ 62 + e.done))])) ∧
    (idAtOrBelow y.toNat e.issued = true → idAtOrBelow y.toNat e.done = true → exec (.cwait d a b) s =
      .next (((s.endReserve ke e).modEp ke (fun z => { z with fail := false })).retire k c
        [(d, BitVec.ofNat 64 ((if e.fail then 2 ^ 63 else 0) + e.done))])) ∧
    (idAtOrBelow y.toNat e.issued = true → idAtOrBelow y.toNat e.done = false → ∃ t : State, exec (.cwait d a b) s = .next t ∧
      t.AwaitsOn k p x.toNat d) := by
  intro c
  have hexec := exec_cwait hrun hx hh hy htag
  obtain ⟨-, hhandle, -, -⟩ := handle_eq_some hh
  refine ⟨fun h => ?_, fun h h' => ?_, fun h h' => ?_⟩
  · rwa [h] at hexec
  · rwa [h, h'] at hexec
  · rw [h, h'] at hexec
    obtain ⟨z, hz⟩ := endReserve_ep hep
    rw [← hhandle]
    exact ⟨_, hexec, holdFill_awaitsOn ((endReserve_proc ..).trans hrun.1.2) hz e c d y.toNat 2⟩

end

/-! ### A copy completes -/

section

variable {s : State} {core ke id n src dst : Nat} {ws : List Word} {e : Ep} (x : Transfer) (asid root level gid : Nat)

/-- A copy that runs to its end completes at an end that has not moved (07 R211, R212). -/
theorem completeCopy_ok {t : State} (hn : copyTotal (copySrcCounts ws) = n)
    (hcopy : s.copyFrom ⟨x.core, gid, level, asid, root⟩ x.owner ws n 0 = (t, none)) (hend : t.ep x.key = some e) (hf : e.fwd = none)
    (hsignal : copySignal ws = false) : s.completeCopy x ws asid root level gid = t.transferDone x.key x.tid false := by
  obtain ⟨hrun, hlost⟩ := runCopy_of_copyFrom hn hcopy
  have hat := endAt_of_ep (l := ⟨x.key / 512, x.key % 512, 0⟩) (by rw [locKey_entry]; exact hend) hf
  rw [locKey_entry] at hat
  unfold State.completeCopy
  rw [hlost, hrun]
  simp only [hat, hsignal, Bool.false_eq_true, if_false]

end

theorem copiesComplete : Claims.CopiesComplete := by
  constructor
  · intro s k p d a b x y ke e hrun hx hh hep c ws id
    refine ⟨fun hserver hal harea hy hset hwait hinfl => ?_, fun hy htag => ?_⟩
    · exact copySetsOut hrun hx hh hep hserver hal harea hy hset hwait hinfl
    · exact cwaitReports hrun hx hh hep hy htag
  · intro s ws owner core ke id asid root level gid n src dst e hok hzero hsrcn hdstn helem hs hd hke hsbase hdbase hs8 hd8 hsize hdize hcore hpkg hfence
      hpoison hmem hapart hep hf hmove hserver hidle hcount hids
    have hle := scratchSize_le core
    have hsrc (i : Nat) (hi : i < n) : (streamAddr (copySrc ws) i).toNat = 0xC0000000000000 + (src + 8 * i) :=
      streamAddr_words (congrArg Prod.fst hsrcn) (congrArg (fun c => c.2.1) hsrcn) hs hsbase hi (by omega)
    have hdst (i : Nat) (hi : i < n) : (streamAddr (copyDst ws) i).toNat = 0xC0000000000000 + (dst + 8 * i) :=
      streamAddr_words (congrArg Prod.fst hdstn) (congrArg (fun c => c.2.1) hdstn) hd hdbase hi (by omega)
    obtain ⟨t, hcopy, hsame, hbytes⟩ := copyFrom_own (a := ⟨core, gid, level, asid, root⟩) hcore helem hs8 hd8 owner hsrc hdst hapart n 0
      (Nat.zero_add n) ⟨hpkg, hfence, hpoison, hmem⟩ hsize hdize
    have heps : t.eps = s.eps := (congrArg State.eps hsame :)
    have hend : t.ep ke = some e := by unfold State.ep at hep ⊢; rwa [heps]
    have htotal : copyTotal (copySrcCounts ws) = n := by rw [hsrcn]; simp [copyTotal]
    have hdone := (completeCopy_ok { owner := owner, core := core, key := ke, tid := id, job := .copy ws asid root level gid } asid root level gid htotal
      hcopy hend hf (copySignal_of_zero hzero)).trans (transferDone_last hend hids hmove hserver
        (ownerIdle_of_same hidle (congrArg State.dir hsame :) (congrArg State.procs hsame :) rfl)
        (uncounted_of_groups hcount (congrArg State.groups hsame :)) false)
    refine ⟨_, congrArg Host.Outcome.next hdone, fun b => ?_, ?_⟩
    · rw [State.putEp_mem]
      exact (hbytes b).trans (if_congr (by rw [Nat.mul_zero, Nat.add_zero]) rfl rfl)
    rw [ep_putEp_self, Bool.or_false]
    rfl

end Sys2Proof.Machine
end

section
/-! PROOFS. Streams at ports (07 R214, R215). -/

namespace Sys2Proof.Machine

/-! ### STRM -/

/-- A pattern that keeps R214 has elements, none of which has been asked for. -/
theorem streamOf_start {ws : List Word} {st : Stream} (h : streamOf ws = some st) : st.taken = 0 ∧ st.issued = 0 ∧ 0 < streamTotal st := by
  unfold streamOf at h
  dsimp only at h
  split at h
  · cases h
  · next hbad =>
    obtain rfl := Option.some.inj h
    simp only [Bool.or_eq_true, decide_eq_true_eq, not_or] at hbad
    obtain ⟨⟨⟨⟨⟨h0, h1⟩, h2⟩, -⟩, -⟩, -⟩ := hbad
    exact ⟨rfl, rfl, Nat.mul_pos (Nat.mul_pos (Nat.pos_of_ne_zero h0) (Nat.pos_of_ne_zero h1)) (Nat.pos_of_ne_zero h2)⟩

section

variable {p : Proc} {d : Reg} (hlo : 8 ≤ d.toNat)
include hlo

theorem bindPort_port (hhi : d.toNat ≤ 11) (x : Port) : (p.bindPort (d.toNat - 8) x).ports.toList.getD (d.toNat - 8) {} = x := ports_set hlo hhi x

theorem bindPort_reg (x : Port) : (p.bindPort (d.toNat - 8) x).reg d = 0 := by
  have hcell := congrArg RegCell.val (unbind_cell (p := p) hlo)
  unfold Proc.reg
  split
  · rfl
  · exact hcell

end

/-- The elements that a stream's port asks for at first: 16 or all (07 R215). -/
theorem readAhead_start {s : State} {k : Nat} {p : Proc} {q : Nat} {st : Stream} (hp : s.proc k = some p)
    (hport : (p.ports.toList.getD q {}).stream = some st)
    (htaken : st.taken = 0) (hissued : st.issued = 0) (htotal : 0 < streamTotal st) (hread : st.write = false) (lat : Nat) :
    ∃ u : State, s.readAhead k q lat = u ∧ u.proc k = some (p.putPort q { p.ports.toList.getD q {} with
        stream := some { st with issued := min 16 (streamTotal st) } }) ∧
      ∀ i < min 16 (streamTotal st), u.DueIn (lat + i) (.streamElement p.name q) := by
  have hupto : min (st.taken + 16) (streamTotal st) = min 16 (streamTotal st) := by rw [htaken, Nat.zero_add]
  have hcount : min 16 (streamTotal st) - st.issued = min 16 (streamTotal st) := by rw [hissued, Nat.sub_zero]
  have hmore : ¬ (st.write || decide (min 16 (streamTotal st) ≤ st.issued)) = true := by
    rw [hread, Bool.false_or, decide_eq_true_eq]
    omega
  unfold State.readAhead
  rw [hp]
  dsimp only
  rw [hport]
  dsimp only
  rw [hupto, hcount, if_neg hmore]
  obtain ⟨hin, -, hrest⟩ := foldl_after (fun i => lat + i) (fun _ => .streamElement p.name q) (List.range (min 16 (streamTotal st)))
    (s.putProc k (p.putPort q { p.ports.toList.getD q {} with stream := some { st with issued := min 16 (streamTotal st) } }))
  refine ⟨_, rfl, ?_, fun i hi => hin i (List.mem_range.2 hi)⟩
  exact (congrArg (fun t : State => t.proc k) hrest :).trans (State.putProc_proc_self ..)

theorem bindPort_name (p : Proc) (q : Nat) (x : Port) : (p.bindPort q x).name = p.name := by
  unfold Proc.bindPort Proc.unbind Proc.putCell
  dsimp only
  split <;> rfl

theorem getD_putPort (p : Proc) {n : Nat} (h : n < 4) (x : Port) : (p.putPort n x).ports.toList.getD n {} = x := by
  simp [Proc.putPort, h]

/-- A state without the elements that an earlier stream of a port has asked for. -/
def State.dropElements (s : State) (name q : Nat) : State :=
  { s with agenda := s.agenda.filter (fun e => match e.2 with | .streamElement n m => !(n == name && m == q) | _ => true) }

/-- STRM binds its port to the pattern that its descriptor names, and asks for the first elements (07 R214, R215). -/
theorem exec_strm {s : State} {k : Nat} {p : Proc} {d : Reg} {b : Src} {x : Word} {st : Stream} (hrun : s.Runs k p [srcField b 1] [x] [])
    (hlo : 8 ≤ d.toNat) (hhi : d.toNat ≤ 11) (hfailed : (p.ports.toList.getD (d.toNat - 8) {}).failed = false) (hal : x.toNat % 8 = 0)
    (hx : x.toNat < 2 ^ 24) (harea : x.toNat + 32 ≤ scratchSize p.core) (hset : s.Settled p)
    (hst : streamOf (leWords 4 (readBytes s.mem (windowBase p.core + x.toNat) 32)) = some st) :
    exec (.strm d b) s = .next (
      (((s.dropElements p.name (d.toNat - 8)).putProc k (p.bindPort (d.toNat - 8) { bound := true, stream := some st })).readAhead
      k (d.toNat - 8) 8).retire k (consumeMask p [srcField b 1]) []) := by
  obtain ⟨hi, hg, ht⟩ := hrun
  refine (onCur_next hi _).trans (congrArg _ ((issue_ok hg ht _).trans ((withPort_ok hlo hhi hfailed _).trans ?_)))
  simp only [List.getD_cons_zero, Nat.mod_eq_of_lt hx, hal, ne_eq, not_true_eq_false, if_false, Nat.not_lt.2 harea, releaseStores_of_settled hi.2 hset,
    hst]
  exact congrArg (fun t : State => (t.readAhead k (d.toNat - 8) 8).retire k (consumeMask p [srcField b 1]) [])
    (modProc_eq (s := s.dropElements p.name (d.toNat - 8)) hi.2 (fun r => r.bindPort (d.toNat - 8) { bound := true, stream := some st }))

/-! ### STREAM_ELEMENT -/

/-- The element of a read stream that comes next to its port. -/
def State.nextElement (s : State) (p : Proc) (st : Stream) : StreamEl :=
  if (streamAddr st (st.taken + st.buffer.length)).toNat % st.size ≠ 0 then .bad causeMisalign (streamAddr st (st.taken + st.buffer.length))
  else
    match s.engineRead (s.agentOf p) (streamAddr st (st.taken + st.buffer.length)).toNat st.size with
    | some bs => .val (BitVec.ofNat 64 (leNat bs))
    | none => .bad causeLoadFault (streamAddr st (st.taken + st.buffer.length))

section

variable {s : State} {name k port off : Nat} {p : Proc} {st : Stream}

/-- An element that is read stands behind those at its port (07 R215). -/
theorem streamElement_stands (hn : s.named name = some (k, p)) (hport : port < 4) (hw : p.wait = .none)
    (hst : (p.ports.toList.getD port {}).stream = some st) :
    ∃ (t : State) (q : Proc), exec (.streamElement name port) s = .next t ∧ t.proc k = some q ∧
      (q.ports.toList.getD port {}).stream = some { st with buffer := st.buffer ++ [s.nextElement p st] } ∧ q.regs = p.regs := by
  refine ⟨s.putProc k (p.putPort port { p.ports.toList.getD port {} with stream := some { st with buffer := st.buffer ++ [s.nextElement p st] } }), _,
    congrArg Host.Outcome.next ?_, State.putProc_proc_self .., ?_, rfl⟩
  · unfold streamElement
    rw [modNamed_of_named hn]
    dsimp only
    rw [hst]
    dsimp only
    rw [hw]
    rfl
  · rw [getD_putPort p hport]

variable (haddr : (streamAddr st (st.taken + st.buffer.length)).toNat = 0xC0000000000000 + off) (hsize : st.size ∈ [1, 2, 4, 8])
include haddr hsize

theorem nextElement_aligned (hoff : off + st.size ≤ scratchSize p.core - 2048 * (s.core p.core).extSize) (hcore : coreIdOk p.core = true)
    (hpkg : pkgOf p.core ∈ s.packages) (hfence : (s.fold (foldOf p.core)).fenced = false) (hpoison : s.poison = []) (hal : off % st.size = 0) :
    s.nextElement p st = .val (BitVec.ofNat 64 (readLe s.mem (windowBase p.core + off) st.size)) := by
  have hclean : s.poisoned (windowBase (s.agentOf p).core + off) st.size = false := by unfold State.poisoned; rw [hpoison]; rfl
  have hparts : 0 < st.size ∧ st.size ≤ 8 - off % 8 ∧ (0xC0000000000000 + off) % st.size = 0 := by
    simp only [List.mem_cons, List.not_mem_nil, or_false] at hsize
    obtain h | h | h | h := hsize <;> rw [h] at hal ⊢ <;> omega
  obtain ⟨hpos, hword, hmod⟩ := hparts
  have hread := engineRead_own (a := s.agentOf p) hcore hpos hpkg hfence hoff hword haddr (any := false) (by rw [hclean]; rfl)
  unfold State.nextElement
  rw [if_neg (by rw [haddr, hmod]; exact not_not.2 rfl), hread]
  rfl

theorem nextElement_misaligned (hal : off % st.size ≠ 0) : s.nextElement p st = .bad 0x03 (BitVec.ofNat 64 (0xC0000000000000 + off)) := by
  have hmod : (0xC0000000000000 + off) % st.size ≠ 0 := by
    simp only [List.mem_cons, List.not_mem_nil, or_false] at hsize
    obtain h | h | h | h := hsize <;> rw [h] at hal ⊢ <;> omega
  unfold State.nextElement
  rw [if_pos (by rwa [haddr]), ← haddr, BitVec.ofNat_toNat, BitVec.setWidth_eq]
  rfl

end

theorem streamsRead : Claims.StreamsRead := by
  constructor
  · intro s k p d b x st hrun hlo hhi hfailed hal hx harea hset hst hread
    have hexec := exec_strm hrun hlo hhi hfailed hal hx harea hset hst
    obtain ⟨htaken, hissued, htotal⟩ := streamOf_start hst
    have hport := bindPort_port (p := p) hlo hhi { bound := true, stream := some st }
    obtain ⟨t, hahead, hproc, hdue⟩ := readAhead_start
      (s := (s.dropElements p.name (d.toNat - 8)).putProc k (p.bindPort (d.toNat - 8) { bound := true, stream := some st }))
      (State.putProc_proc_self ..) (congrArg Port.stream hport) htaken hissued htotal hread 8
    rw [hport] at hproc
    rw [hahead] at hexec
    rw [bindPort_name] at hdue
    exact ⟨t, _, hexec, hproc, getD_putPort _ (by omega) _, bindPort_reg (p := p) hlo { bound := true, stream := some st }, hdue⟩
  · intro s name k port off p st hn hport hw hst hsize haddr hoff hcore hpkg hfence hpoison
    obtain ⟨t, q, hexec, hproc, hstream, hregs⟩ := streamElement_stands hn hport hw hst
    refine ⟨fun hal => ⟨t, q, hexec, hproc, ?_, hregs⟩, fun hal => ⟨t, q, hexec, hproc, ?_⟩⟩
    · rw [hstream, nextElement_aligned haddr hsize hoff hcore hpkg hfence hpoison hal]
    · rw [hstream, nextElement_misaligned haddr hsize hal]

/-- Settles O40: a copy is an induction over its elements, each one word that engines reach at the scratchpad; the element of a stream is one such read. -/
theorem copiesAndStreams : Obligations.CopiesAndStreams := ⟨copiesComplete, streamsRead⟩

end Sys2Proof.Machine
end

section
/-! PROOFS. The wait of a receive begins and ends (07 R198, R202 to R206). -/

namespace Sys2Proof.Machine

/-! ### Ways between ends -/

/-- No end has moved, and none has another peer. -/
def State.SameWays (s t : State) : Prop := ∀ j, (t.ep j).map (fun x => (x.fwd, x.peer)) = (s.ep j).map (fun x => (x.fwd, x.peer))

theorem State.SameWays.trans {s t u : State} (h : s.SameWays t) (g : t.SameWays u) : s.SameWays u := fun j => (g j).trans (h j)

theorem sameWays_putEp {s : State} {k : Nat} {e x : Ep} (h : s.ep k = some e) (hf : x.fwd = e.fwd) (hp : x.peer = e.peer) : s.SameWays (s.putEp k x) := by
  intro j
  rw [ep_putEp]
  split
  · next hj => rw [hj, h, Option.map_some, Option.map_some, hf, hp]
  · rfl

theorem follow_of_sameWays {s t : State} (h : s.SameWays t) (n : Nat) (l : EndLoc) : t.follow n l = s.follow n l := by
  induction n generalizing l with
  | zero => rfl
  | succ n ih =>
    have hf (u : State) : (u.ep (locKey l)).bind Ep.fwd = ((u.ep (locKey l)).map (fun x => (x.fwd, x.peer))).bind Prod.fst := by
      cases u.ep (locKey l) <;> rfl
    rw [State.follow, State.follow, hf t, h, ← hf s]
    split
    · exact ih _
    · rfl

/-- Whether an end has its peer depends on the ways alone. -/
theorem hasPeer_of_sameWays {s t : State} (h : s.SameWays t) (k : Nat) {e x : Ep} (hp : x.peer = e.peer) : t.hasPeer k x = s.hasPeer k e := by
  have hloc (n : Nat) : locKey (s.follow n (locOf k x)) = locKey (s.follow n (locOf k e)) := by
    cases n with
    | zero => rfl
    | succ n =>
      rw [State.follow, State.follow, show locKey (locOf k x) = locKey (locOf k e) from rfl]
      split <;> rfl
  have hkey := h (locKey (s.follow 64 e.peer))
  unfold State.hasPeer State.endAt
  simp only [hp, follow_of_sameWays h, hloc]
  cases hs : s.ep (locKey (s.follow 64 e.peer)) with
  | none =>
    rw [hs, Option.map_none, Option.map_eq_none_iff] at hkey
    rw [hkey]
  | some y =>
    rw [hs, Option.map_some, Option.map_eq_some_iff] at hkey
    obtain ⟨z, hz, heq⟩ := hkey
    rw [hz]
    simp only [Option.map_some, (Prod.mk.inj heq).2]

/-! ### The end of a wait -/

/-- An end on which no receive waits any more (07 Table 7.2). -/
def Ep.rested (e : Ep) : Ep :=
  { e with rx := none, reserved := false, waitK := 0, st := if e.st = .wait then .opened else e.st, deadline := false }

/-- The peer of an end forgets the announcement of its receive. -/
def State.deafen (s : State) (l : EndLoc) : State :=
  match s.endAt l with
  | some (kp, x) => s.putEp kp { x with announced := false }
  | none => s

/-- The instruction of an end's owner counts as matched. -/
def State.matched (s : State) (e : Ep) : State :=
  s.modNamed e.owner (fun k p v =>
    let w := match e.rx.bind Rx.timed with
      | some _ => v.disarm (foldOf p.core) (.trecv p.name)
      | none => v
    w.putProc k { p with hold := p.hold.map (fun h => { h with arg2 := 1 }) })

theorem endWait_eq (s : State) (ke : Nat) (e : Ep) : s.endWait ke e = ((s.putEp ke e.rested).matched e).deafen e.peer := rfl

theorem deafen_ep (s : State) (l : EndLoc) (j : Nat) :
    (s.deafen l).ep j = s.ep j ∨ ∃ y, s.ep j = some y ∧ (s.deafen l).ep j = some { y with announced := false } := by
  unfold State.deafen
  split
  · next kp x hx =>
    rw [ep_putEp]
    split
    · next hj => exact .inr ⟨x, hj ▸ ep_of_endAt hx, rfl⟩
    · exact .inl rfl
  · exact .inl rfl

theorem deafen_extends (s : State) (l : EndLoc) : s.Extends (s.deafen l) := by
  unfold State.deafen
  split
  · exact .putEp ..
  · exact .refl s

@[simp] theorem deafen_proc (s : State) (l : EndLoc) (k : Nat) : (s.deafen l).proc k = s.proc k := by
  unfold State.deafen
  split <;> rfl

theorem sameWays_deafen (s : State) (l : EndLoc) : s.SameWays (s.deafen l) := by
  intro j
  obtain h | ⟨y, hy, h⟩ := deafen_ep s l j
  · rw [h]
  · rw [h, hy]
    rfl

theorem disarm_eps (s : State) (fold : Nat) (who : DlWho) : (s.disarm fold who).eps = s.eps := by
  unfold State.disarm
  dsimp only
  split <;> rfl

theorem disarm_procs (s : State) (fold : Nat) (who : DlWho) : (s.disarm fold who).procs = s.procs := by
  unfold State.disarm
  dsimp only
  split <;> rfl

theorem matched_eps (s : State) (e : Ep) : (s.matched e).eps = s.eps := by
  unfold State.matched State.modNamed
  split
  · dsimp only
    split
    · exact disarm_eps ..
    · rfl
  · rfl

theorem matched_extends (s : State) (e : Ep) : s.Extends (s.matched e) := by
  unfold State.matched State.modNamed
  split
  · dsimp only
    split
    · exact (State.Extends.disarm ..).trans (.putProc ..)
    · exact .putProc ..
  · exact .refl s

/-- A process whose channel instruction has been matched. -/
def Proc.matched (p : Proc) : Proc := { p with hold := p.hold.map (fun h => { h with arg2 := 1 }) }

theorem matched_proc {s : State} {e : Ep} {k : Nat} {p : Proc} (h : s.named e.owner = some (k, p)) : (s.matched e).proc k = some p.matched := by
  unfold State.matched
  rw [modNamed_of_named h]
  exact State.putProc_proc_self ..

section

variable (s : State) (ke : Nat) (e : Ep)

theorem endWait_extends : s.Extends (s.endWait ke e) :=
  ((State.Extends.putEp s ke e.rested).trans (matched_extends ..)).trans (deafen_extends ..)

/-- The end itself after a wait: it rests, and where it is its own peer it has not been announced to. -/
theorem endWait_ep : ∃ z, (s.endWait ke e).ep ke = some z ∧ { z with announced := e.announced } = e.rested := by
  have hput : ((s.putEp ke e.rested).matched e).ep ke = some e.rested := by
    unfold State.ep
    rw [matched_eps]
    exact ep_putEp_self ..
  rw [endWait_eq]
  obtain h | ⟨y, hy, h⟩ := deafen_ep ((s.putEp ke e.rested).matched e) e.peer ke
  · exact ⟨_, h.trans hput, rfl⟩
  · obtain rfl := Option.some.inj (hput.symm.trans hy)
    exact ⟨_, h, rfl⟩

theorem endWait_ep_ne {j : Nat} (hj : j ≠ ke) :
    (s.endWait ke e).ep j = s.ep j ∨ ∃ y, s.ep j = some y ∧ (s.endWait ke e).ep j = some { y with announced := false } := by
  have hother : ((s.putEp ke e.rested).matched e).ep j = s.ep j := by
    unfold State.ep
    rw [matched_eps]
    exact ep_putEp_ne _ _ hj
  rw [endWait_eq, ← hother]
  exact deafen_ep ..

variable {s ke e}

theorem endWait_sameWays (h : s.ep ke = some e) : s.SameWays (s.endWait ke e) := by
  have hput : s.SameWays ((s.putEp ke e.rested).matched e) := by
    intro j
    have hsame := sameWays_putEp (x := e.rested) h rfl rfl j
    unfold State.ep at hsame ⊢
    rwa [matched_eps]
  exact hput.trans (sameWays_deafen _ _)

theorem endWait_proc {k : Nat} {p : Proc} (h : s.named e.owner = some (k, p)) : (s.endWait ke e).proc k = some p.matched := by
  rw [endWait_eq, deafen_proc]
  exact matched_proc h

end

/-! ### What a receive takes -/

theorem admitSignals_of_no_offers {s : State} {ke : Nat} {e : Ep} (he : s.ep ke = some e) (ho : e.offers = []) (n : Nat) : s.admitSignals ke n = s := by
  cases n with
  | zero => rfl
  | succ n =>
    rw [State.admitSignals]
    simp only [he, ho]

theorem checkDying_of_alive {s : State} {ke : Nat} {e : Ep} (he : s.ep ke = some e) (hd : e.dying = false) : s.checkDying ke = s := by
  unfold State.checkDying
  simp only [he, hd, Bool.false_and, Bool.false_eq_true, if_false]

section

variable {s : State} {ke : Nat} {e : Ep} {x : Rx} (he : s.ep ke = some e) (hheld : epHeld e = true) (hrx : e.rx = some x)
include he hheld hrx

/-- A receive that finds an offer takes it (07 R203, R204). -/
theorem deliver_offer {m : Msg} {rest : List Msg} (hk : typKind e.typ ≠ 3) (hq : typQueued e.typ = false) (ho : e.offers = m :: rest) :
    s.deliver ke = match s.rxRefusal e x m with
      | some cause => s.refuseRx ke e cause
      | none =>
        match (s.endWait ke e).ep ke with
        | some e1 => ((s.endWait ke e).takeOffer ke e1 m (max s.cycle (x.at0 + 1))).take ke e.owner x m (max s.cycle (x.at0 + 1)) false
        | none => s.endWait ke e := by
  unfold State.deliver
  simp only [he, hheld, hrx, hk, hq, ho, Bool.not_true, Bool.false_eq_true, if_false] <;> rfl

/-- A receive that finds a buffered message takes it (07 R202). -/
theorem deliver_head {m : Msg} {rest : List Msg} (hk : typKind e.typ ≠ 3) (hq : typQueued e.typ = true) (hqueue : e.queue = m :: rest) :
    s.deliver ke = match s.rxRefusal e x m with
      | some cause => s.refuseRx ke e cause
      | none =>
        match (s.endWait ke e).ep ke with
        | some e1 => (((s.endWait ke e).takeHead ke e1).take ke e.owner x m s.cycle true).checkDying ke
        | none => s.endWait ke e := by
  unfold State.deliver
  simp only [he, hheld, hrx, hk, hq, hqueue, Bool.not_true, Bool.false_eq_true, if_false, if_true] <;> rfl

/-- A receive at a signal end that has a signal takes one (07 R203). -/
theorem deliver_signal (hk : typKind e.typ = 3) (hpend : e.pend ≠ 0) : s.deliver ke =
    ((((s.endWait ke e).modEp ke (fun y => { y with pend := y.pend - 1 })).after 2
      (.fill ⟨e.owner, x.reg, x.tag⟩ 1)).admitSignals ke 256).checkDying ke := by
  unfold State.deliver
  simp only [he, hheld, hrx, hk, hpend, Bool.not_true, Bool.false_eq_true, if_false, if_true, ne_eq, not_false_eq_true]

/-- A receive that finds nothing goes on waiting. -/
theorem deliver_nothing (hk : typKind e.typ ≠ 3) (ho : e.offers = []) (hqueue : e.queue = []) : s.deliver ke = s := by
  unfold State.deliver
  simp only [he, hheld, hrx, hk, ho, hqueue, Bool.not_true, Bool.false_eq_true, if_false, ite_self]

end

theorem rxRefusal_word (s : State) (e : Ep) (x : Rx) {m : Msg} {v : Word} (h : m.body = .word v) : s.rxRefusal e x m = none := by
  unfold State.rxRefusal
  rw [h]
  rfl

theorem rxRefusal_bulk (s : State) (e : Ep) (x : Rx) {m : Msg} (h : isBulk m.body = true) :
    s.rxRefusal e x m = if bodyLen m.body ≤ x.room then none else some causeChanType := by
  unfold State.rxRefusal rxFits
  split
  · next hb => rw [hb] at h; cases h
  · rw [h]
    split_ifs <;> simp_all

section

variable {s : State} {ke owner : Nat} {x : Rx} {m : Msg}

/-- A word reaches the register of its receiver (07 R198). -/
theorem take_word {v : Word} (h : m.body = .word v) (at0 : Nat) (queued : Bool) : s.take ke owner x m at0 queued =
    s.atCycle (at0 + (if queued then 2 else 1)) (.fill ⟨owner, x.reg, x.tag⟩ v) := by
  unfold State.take
  simp only [h]

/-- The block or tile of a message on its way to its receiver. -/
def transferOf (ke owner : Nat) (x : Rx) (m : Msg) : Xfer :=
  { msg := m, dst := { core := ke / 512, ix := ke % 512, gen := 0 }, receiver := owner, core := ke / 512, off := x.off, step := x.step,
    rowBytes := x.rowBytes, reg := some x.reg, tile := x.tile }

/-- The block or tile of an offer sets out to the receiver's scratchpad (07 R206). -/
theorem take_bulk (h : isBulk m.body = true) (ht : x.tile = none) (at0 : Nat) : s.take ke owner x m at0 false =
    (s.drainTile m).atCycle (at0 + s.dataTime m.src.core (ke / 512) (bodyLen m.body)) (.transferDataWritten (transferOf ke owner x m)) := by
  unfold State.take
  cases hb : m.body with
  | bytes bs => simp only [ht, transferOf, Bool.false_eq_true, if_false]
  | place c o r w t => simp only [ht, transferOf, Bool.false_eq_true, if_false]
  | _ => rw [hb] at h; cases h

end

end Sys2Proof.Machine
end

section
/-! PROOFS. What a receive does with the message it finds (07 R198, R202 to R206). -/

namespace Sys2Proof.Machine

/-! ### A receive has begun -/

/-- From s to t process k has begun to wait in a receive x of end ke. -/
structure State.Awaiting (s t : State) (k ke : Nat) (e : Ep) (x : Rx) (q : Proc) : Prop where
  ext : s.Extends t
  proc : t.proc k = some q
  eps : t.eps = (s.putEp ke (Ep.waitedOn { e with rx := some x })).eps
  folds : t.folds = s.folds

theorem State.Awaiting.ep_eq {s t : State} {k ke : Nat} {e : Ep} {x : Rx} {q : Proc} (h : s.Awaiting t k ke e x q) (j : Nat) :
    t.ep j = if j = ke then some (Ep.waitedOn { e with rx := some x }) else s.ep j := by
  rw [← ep_putEp]
  unfold State.ep
  rw [h.eps]

theorem State.Awaiting.ep {s t : State} {k ke : Nat} {e : Ep} {x : Rx} {q : Proc} (h : s.Awaiting t k ke e x q) :
    t.ep ke = some (Ep.waitedOn { e with rx := some x }) := (h.ep_eq ke).trans (if_pos rfl)

section

variable {s : State} {k ke : Nat} {p : Proc} {x : Ep} (hp : s.proc k = some p) (hx : s.ep ke = some x)
include hp hx

theorem holdOn_eps (e : Ep) (h : Hold) : (s.holdOn k ke e h).eps = (s.putEp ke x.waitedOn).eps := by
  rw [holdOn_eq hp hx, waitChan_eps (State.putProc_proc_self ..)]
  rfl

theorem holdOn_folds (e : Ep) (h : Hold) : (s.holdOn k ke e h).folds = s.folds := by
  rw [holdOn_eq hp hx, waitChan_eq (State.putProc_proc_self ..)]
  exact (congrArg State.folds (setProbe_rest _ _) :)

variable (e : Ep) (c : BitVec 16) (d : Reg) (arg arg2 : Nat)

theorem holdFill_eps : (s.holdFill k p ke e c d arg arg2).eps = (s.putEp ke x.waitedOn).eps := by
  have hx' : (s.produceAs k d (p.mark d)).ep ke = some x := by unfold State.ep at hx ⊢; rwa [produceAs_eps]
  rw [State.holdFill, holdOn_eps (produceAs_proc hp d (p.mark d)) hx']
  unfold State.putEp
  rw [produceAs_eps]

theorem holdFill_folds : (s.holdFill k p ke e c d arg arg2).folds = s.folds := by
  have hx' : (s.produceAs k d (p.mark d)).ep ke = some x := by unfold State.ep at hx ⊢; rwa [produceAs_eps]
  rw [State.holdFill, holdOn_folds (produceAs_proc hp d (p.mark d)) hx']
  unfold State.produceAs
  rw [hp]
  dsimp only
  split <;> rfl

end

/-- What a receive does before it looks for a message. -/
def State.beginReceive (s : State) (k : Nat) (p : Proc) (ke : Nat) (e : Ep) (c : BitVec 16) (x : Rx) (fills : Bool) : State :=
  if fills then (s.putEp ke { e with rx := some x }).holdFill k p ke e c x.reg x.tag.toNat 0
  else (s.putEp ke { e with rx := some x }).holdOn k ke e { consume := c, dst := some x.reg, arg := x.tag.toNat }

/-- A receive that still waits at an end without a queue sends its announcement to the peer. -/
def State.announceRest (s : State) (core ke : Nat) (e : Ep) : State :=
  match s.ep ke with
  | some y =>
    if y.rx.isSome && !typQueued e.typ && typKind e.typ ≠ 3 || (typKind e.typ = 3 && typCap e.typ = 0 && y.rx.isSome) then
      s.after (s.oneway core e.peer.core) (.receiveAnnounce e.peer)
    else s
  | none => s

theorem named_of_extends {s t : State} (h : s.Extends t) {n k : Nat} {p q : Proc} (hn : s.named n = some (k, p)) (hq : t.proc k = some q) :
    t.named n = some (k, q) := by
  have hkey : t.keyOf n = s.keyOf n := by unfold State.keyOf; rw [h.dir]
  exact named_eq_some_iff.2 ⟨hkey.trans (named_eq_some_iff.1 hn).1, hq⟩

theorem awaitsOn_matched {t u : State} {k n : Nat} {p q : Proc} {d : Reg} (h : t.AwaitsOn k p n d) (ht : t.proc k = some q)
    (hu : u.proc k = some q.matched) : u.AwaitsOn k p n d := by
  obtain ⟨q', hq', hrest⟩ := h
  obtain rfl := Option.some.inj (ht.symm.trans hq')
  exact ⟨_, hu, hrest⟩

theorem waitsOn_matched {t u : State} {k n : Nat} {p q : Proc} (h : t.WaitsOn k p n) (ht : t.proc k = some q)
    (hu : u.proc k = some q.matched) : u.WaitsOn k p n := by
  obtain ⟨q', hq', hrest⟩ := h
  obtain rfl := Option.some.inj (ht.symm.trans hq')
  exact ⟨_, hu, hrest⟩

@[simp] theorem ep_drainTile (s : State) (m : Msg) (j : Nat) : (s.drainTile m).ep j = s.ep j := by
  unfold State.drainTile
  split <;> rfl

@[simp] theorem proc_drainTile (s : State) (m : Msg) (j : Nat) : (s.drainTile m).proc j = s.proc j := by
  unfold State.drainTile
  split <;> rfl

theorem dueIn_atCycle {s : State} {c n : Nat} {ev : Ev} (h : c = s.cycle + n) : (s.atCycle c ev).DueIn n ev := by
  refine (mem_enqueue ..).2 (.inl ?_)
  rw [if_neg (by omega), h]
  rfl

theorem dataTime_of_links {s t : State} (h : t.links = s.links) (a b n : Nat) : t.dataTime a b n = s.dataTime a b n := by
  unfold State.dataTime
  rw [oneway_of_links h]

theorem ackTime_of_links {s t : State} (h : t.links = s.links) (a b : Nat) (m : Body) : t.ackTime a b m = s.ackTime a b m := by
  unfold State.ackTime State.txTime
  rw [oneway_of_links h]

section

variable {s : State} {k ke : Nat} {p : Proc} {e : Ep} {x : Rx} {c : BitVec 16}

section
variable (hp : s.proc k = some p)
include hp

/-- A receive whose destination is a fill has begun. -/
theorem beginReceive_fill : s.Awaiting (s.beginReceive k p ke e c x true) k ke e x
    ((p.holdsFill c x.reg x.tag.toNat 0 s.cycle).waiting (.chan e.handle) s.cycle) where
  ext := (State.Extends.putEp ..).trans (holdFill_extends (by exact hp) (ep_putEp_self ..) ..)
  proc := holdFill_proc (s := s.putEp ke _) (by exact hp) (ep_putEp_self ..) ..
  eps := (holdFill_eps (s := s.putEp ke _) (by exact hp) (ep_putEp_self ..) ..).trans (congrArg State.eps (putEp_putEp ..))
  folds := holdFill_folds (s := s.putEp ke _) (by exact hp) (ep_putEp_self ..) ..

theorem beginReceive_awaitsOn : (s.beginReceive k p ke e c x true).AwaitsOn k p e.handle x.reg :=
  holdFill_awaitsOn (s := s.putEp ke _) (by exact hp) (ep_putEp_self ..) ..

/-- A RECVT has begun. -/
theorem beginReceive_tile : s.Awaiting (s.beginReceive k p ke e c x false) k ke e x
    ((p.holding { consume := c, dst := some x.reg, arg := x.tag.toNat, issuedAt := s.cycle }).waiting (.chan e.handle) s.cycle) where
  ext := (State.Extends.putEp ..).trans (holdOn_extends (by exact hp) (ep_putEp_self ..) _)
  proc := holdOn_proc (s := s.putEp ke _) (by exact hp) (ep_putEp_self ..) _
  eps := (holdOn_eps (s := s.putEp ke _) (by exact hp) (ep_putEp_self ..) ..).trans (congrArg State.eps (putEp_putEp ..))
  folds := holdOn_folds (s := s.putEp ke _) (by exact hp) (ep_putEp_self ..) ..

theorem beginReceive_waitsOn : (s.beginReceive k p ke e c x false).WaitsOn k p e.handle :=
  holdOn_waitsOn (s := s.putEp ke _) (by exact hp) (ep_putEp_self ..) _

variable (hset : s.Settled p) (hk : typKind e.typ ≠ 4)
include hset hk

/-- After it has looked for a message, a receive that still waits announces itself (07 R203). -/
theorem receive_eq (fills : Bool) : s.receive k p ke e c x fills = ((s.beginReceive k p ke e c x fills).deliver ke).announceRest p.core ke e := by
  unfold State.receive
  rw [releaseStores_of_settled hp hset]
  simp only [hk, decide_false, Bool.false_and, Bool.false_eq_true, if_false]
  rfl

/-- A receive that has its message announces nothing. -/
theorem receive_of_done {fills : Bool} {u : State} {z : Ep} (hu : (s.beginReceive k p ke e c x fills).deliver ke = u) (hz : u.ep ke = some z)
    (hrx : z.rx = none) : s.receive k p ke e c x fills = u := by
  rw [receive_eq hp hset hk, hu, State.announceRest, hz]
  simp only [hrx, Option.isSome_none, Bool.false_and, Bool.and_false, Bool.or_self, Bool.false_eq_true, if_false]

/-- A receive that goes on waiting announces itself at a rendezvous end (07 R203). -/
theorem receive_of_waiting {fills : Bool} {u : State} {z : Ep} (hu : (s.beginReceive k p ke e c x fills).deliver ke = u) (hz : u.ep ke = some z)
    (hrx : z.rx = some x) (hk3 : typKind e.typ ≠ 3) : s.receive k p ke e c x fills =
      if typQueued e.typ then u else u.after (u.oneway p.core e.peer.core) (.receiveAnnounce e.peer) := by
  rw [receive_eq hp hset hk, hu, State.announceRest, hz]
  cases hq : typQueued e.typ <;> simp [hrx, hk3]

end

end

/-! ### The message that a receive finds -/

section

variable {s t : State} {k ke : Nat} {e : Ep} {x : Rx} {q : Proc} {m : Msg} {rest : List Msg}

/-- An end on which the wait of a receive has ended is as it was, but for its state and its announcement. -/
structure Ep.Freed (e z : Ep) : Prop where
  rx : z.rx = none
  offers : z.offers = e.offers
  queue : z.queue = e.queue
  pend : z.pend = e.pend
  gen : z.gen = e.gen
  peer : z.peer = e.peer
  server : z.server = e.server
  rq : z.rq = e.rq
  dying : z.dying = e.dying
  typ : z.typ = e.typ

theorem epHeld_waitedOn (hst : e.st = .opened) (x : Rx) : epHeld (Ep.waitedOn { e with rx := some x }) = true := by
  unfold Ep.waitedOn epHeld
  simp only [hst, if_true]

namespace State.Awaiting

variable (h : s.Awaiting t k ke e x q) (hn : t.named e.owner = some (k, q))
include h hn

/-- The wait of a receive that has its message ends. -/
theorem endWait : ∃ u z, t.endWait ke (Ep.waitedOn { e with rx := some x }) = u ∧ s.Extends u ∧ t.SameWays u ∧ u.proc k = some q.matched ∧
    u.ep ke = some z ∧ e.Freed z := by
  obtain ⟨z, hz, heq⟩ := endWait_ep t ke (Ep.waitedOn { e with rx := some x })
  refine ⟨_, z, rfl, h.ext.trans (endWait_extends ..), endWait_sameWays h.ep, endWait_proc hn, hz, ?_⟩
  exact ⟨(congrArg Ep.rx heq :), (congrArg Ep.offers heq :), (congrArg Ep.queue heq :), (congrArg Ep.pend heq :), (congrArg Ep.gen heq :),
    (congrArg Ep.peer heq :), (congrArg Ep.server heq :), (congrArg Ep.rq heq :), (congrArg Ep.dying heq :), (congrArg Ep.typ heq :)⟩

variable (hst : e.st = .opened) (hk3 : typKind e.typ ≠ 3)
include hst hk3

/-- A receive takes the first offer that it can hold, and the acknowledgement sets out (07 R203, R204). -/
theorem takes_offer (hq : typQueued e.typ = false) (ho : e.offers = m :: rest) (hx : x.at0 = s.cycle)
    (hfits : t.rxRefusal (Ep.waitedOn { e with rx := some x }) x m = none) :
    ∃ (u : State) (z : Ep), t.deliver ke = u.take ke e.owner x m (s.cycle + 1) false ∧ s.Extends u ∧ u.proc k = some q.matched ∧
      u.ep ke = some z ∧ z.rx = none ∧ z.offers = rest ∧ u.DueIn (1 + s.ackTime m.src.core (ke / 512) m.body) (.sendAck m (locOf ke e)) := by
  obtain ⟨u, z, hu, hext, -, hproc, hz, hfreed⟩ := h.endWait hn
  have hmatch : max t.cycle (x.at0 + 1) = s.cycle + 1 := by rw [h.ext.cycle, hx]; exact max_eq_right (Nat.le_succ _)
  have hdel := deliver_offer h.ep (epHeld_waitedOn hst x) rfl (m := m) (rest := rest) hk3 hq ho
  rw [hfits, hu, hmatch] at hdel
  simp only [hz] at hdel
  refine ⟨_, { z with offers := z.offers.drop 1 }, hdel, hext.trans ((State.Extends.putEp ..).trans (.atCycle ..)), hproc, ep_putEp_self ..,
    hfreed.rx, ?_, ?_⟩
  · show z.offers.drop 1 = rest
    rw [hfreed.offers, ho]
    rfl
  · rw [State.takeOffer, ackTime_of_links hext.links, show locOf ke z = locOf ke e by unfold locOf; rw [hfreed.gen]]
    refine dueIn_atCycle ?_
    rw [show (u.putEp ke _).cycle = u.cycle from rfl, hext.cycle, Nat.add_assoc]

end State.Awaiting

end

end Sys2Proof.Machine
end

section
/-! PROOFS. Words, blocks and tiles received (07 R198, R201 to R206). -/

namespace Sys2Proof.Machine

section

variable {s t : State} {k ke : Nat} {p q : Proc} {e : Ep} {x : Rx} {m : Msg} {rest : List Msg}

namespace State.Awaiting

variable (h : s.Awaiting t k ke e x q) (hn : t.named e.owner = some (k, q)) (hst : e.st = .opened)
include h hn hst

section
variable (hk3 : typKind e.typ ≠ 3)
include hk3

section
variable (hq : typQueued e.typ = false) (ho : e.offers = m :: rest)
include hq ho

/-- A block that a receive cannot hold stays at its end, and the receive traps (07 R201). -/
theorem refuses_bulk (hm : isBulk m.body = true) (hroom : x.room < bodyLen m.body) (hqst : q.st = .blocked ∨ q.st = .parked) :
    ∃ (u : State) (z : Ep), t.deliver ke = u.raise k 0x09 (BitVec.ofNat 64 e.handle) ∧ s.Extends u ∧ u.ep ke = some z ∧ z.rx = none ∧
      z.offers = e.offers := by
  obtain ⟨u, z, hu, hext, -, hproc, hz, hfreed⟩ := h.endWait hn
  have hdel := deliver_offer h.ep (epHeld_waitedOn hst x) rfl (m := m) (rest := rest) hk3 hq ho
  have hnamed := named_of_extends (endWait_extends t ke (Ep.waitedOn { e with rx := some x })) hn (endWait_proc hn)
  have hrun : (q.matched.st == .suspended || q.matched.st == .migrating) = false := by
    obtain hs | hs := hqst <;> rw [show q.matched.st = q.st from rfl, hs] <;> rfl
  rw [rxRefusal_bulk _ _ _ hm, if_neg (Nat.not_le.2 hroom)] at hdel
  refine ⟨u.putProc k q.matched.dropHold, z, ?_, hext.trans (.putProc ..), hz, hfreed.rx, hfreed.offers⟩
  rw [hdel]
  dsimp only
  unfold State.refuseRx
  rw [modNamed_of_named (show (t.endWait ke (Ep.waitedOn { e with rx := some x })).named (Ep.waitedOn { e with rx := some x }).owner = _ from hnamed),
    hrun, hu]
  rfl

variable (hx : x.at0 = s.cycle)
include hx

/-- A word offered to a receive is on its way to the register, and the acknowledgement to the sender (07 R198, R203). -/
theorem takes_word {v : Word} (hm : m.body = .word v) :
    ∃ (u : State) (z : Ep), t.deliver ke = u ∧ s.Extends u ∧ u.proc k = some q.matched ∧ u.ep ke = some z ∧ z.rx = none ∧ z.offers = rest ∧
      u.DueIn 2 (.fill ⟨e.owner, x.reg, x.tag⟩ v) ∧ u.DueIn (1 + s.oneway m.src.core (ke / 512)) (.sendAck m (locOf ke e)) := by
  obtain ⟨u, z, hdel, hext, hproc, hz, hzrx, hoffers, hack⟩ := h.takes_offer hn hst hk3 hq ho hx (rxRefusal_word _ _ _ hm)
  rw [take_word hm, if_neg nofun] at hdel
  rw [hm] at hack
  refine ⟨_, z, hdel, hext.trans (.atCycle ..), hproc, hz, hzrx, hoffers, dueIn_atCycle ?_, (State.Extends.atCycle ..).dueIn hack⟩
  rw [hext.cycle]

/-- A block or tile offered to a receive that holds it sets out (07 R204, R206). -/
theorem takes_bulk (hm : isBulk m.body = true) (hroom : bodyLen m.body ≤ x.room) (htile : x.tile = none) :
    ∃ (u : State) (z : Ep), t.deliver ke = u ∧ u.proc k = some q.matched ∧ u.ep ke = some z ∧ z.rx = none ∧
      u.DueIn (1 + s.dataTime m.src.core (ke / 512) (bodyLen m.body)) (.transferDataWritten (transferOf ke e.owner x m)) := by
  obtain ⟨u, z, hdel, hext, hproc, hz, hzrx, -, -⟩ := h.takes_offer hn hst hk3 hq ho hx ((rxRefusal_bulk _ _ _ hm).trans (if_pos hroom))
  rw [take_bulk hm htile, dataTime_of_links hext.links] at hdel
  refine ⟨_, z, hdel, (proc_drainTile ..).trans hproc, (ep_drainTile ..).trans hz, hzrx, dueIn_atCycle ?_⟩
  rw [(hext.trans (.drainTile ..)).cycle, Nat.add_assoc]

end

omit hn in
/-- A receive at an end that holds no message waits. -/
theorem takes_nothing (ho : e.offers = []) (hqueue : e.queue = []) : t.deliver ke = t :=
  deliver_nothing h.ep (epHeld_waitedOn hst x) rfl hk3 ho hqueue

/-- A receive takes the oldest buffered message, and its credit sets out (07 R202). -/
theorem takes_head (hq : typQueued e.typ = true) (hqueue : e.queue = m :: rest) (ho : e.offers = []) (hserver : e.server = none)
    (hdying : e.dying = false) (hsrc : m.src.ix < 512) (hep : s.ep ke = some e) (hpeer : s.hasPeer ke e = true) {v : Word} (hm : m.body = .word v) :
    ∃ (u : State) (z : Ep), t.deliver ke = u ∧ u.proc k = some q.matched ∧ u.ep ke = some z ∧ z.rx = none ∧ z.queue = rest ∧
      u.DueIn 2 (.fill ⟨e.owner, x.reg, x.tag⟩ v) ∧ u.DueIn (s.oneway (ke / 512) e.peer.core) (.creditReturn e.peer) := by
  obtain ⟨u, z, hu, hext, hways, hproc, hz, hfreed⟩ := h.endWait hn
  have hbegun : s.SameWays t := by
    intro j
    rw [h.ep_eq]
    split
    · next hj =>
      rw [hj, hep]
      rfl
    · rfl
  have hpeer' : u.hasPeer ke z = true := (hasPeer_of_sameWays (hbegun.trans hways) ke hfreed.peer).trans hpeer
  have hhead : u.takeHead ke z =
      (u.putEp ke { z with queue := rest, offers := [], pend := z.pend - 1 }).after (s.oneway (ke / 512) e.peer.core) (.creditReturn e.peer) := by
    unfold State.takeHead
    simp only [hfreed.offers, ho, hfreed.queue, hqueue, hfreed.server, hserver, hpeer', hfreed.peer, List.take_succ_cons, List.take_zero,
      List.take_nil, List.any_cons, List.any_nil, Nat.not_le.2 hsrc, decide_false, Option.isSome_none, Bool.false_or, Bool.or_false, Bool.not_true,
      Bool.false_eq_true, if_false, List.drop_succ_cons, List.drop_zero, List.drop_nil, List.append_nil, List.length_nil, Nat.add_zero]
    rw [oneway_of_links hext.links]
  have hdel := deliver_head h.ep (epHeld_waitedOn hst x) rfl (m := m) (rest := rest) hk3 hq hqueue
  rw [rxRefusal_word _ _ _ hm, hu] at hdel
  simp only [hz] at hdel
  rw [hhead, take_word hm, if_pos rfl] at hdel
  refine ⟨_, { z with queue := rest, offers := [], pend := z.pend - 1 }, hdel.trans (checkDying_of_alive ((ep_atCycle ..).trans
    ((ep_after ..).trans (ep_putEp_self ..))) (hfreed.dying.trans hdying)), hproc, ep_putEp_self .., hfreed.rx, rfl, dueIn_atCycle ?_,
    (State.Extends.atCycle ..).dueIn (dueIn_after ..)⟩
  exact congrArg (· + 2) (h.ext.cycle.trans hext.cycle.symm)

end

/-- A receive at a signal end with a signal takes it (07 R203). -/
theorem takes_signal (hk3 : typKind e.typ = 3) (hpend : e.pend ≠ 0) (ho : e.offers = []) (hdying : e.dying = false) :
    ∃ (u : State) (z : Ep), t.deliver ke = u ∧ u.proc k = some q.matched ∧ u.ep ke = some z ∧ z.rx = none ∧ z.pend = e.pend - 1 ∧
      u.DueIn 2 (.fill ⟨e.owner, x.reg, x.tag⟩ 1) := by
  obtain ⟨u, z, hu, hext, -, hproc, hz, hfreed⟩ := h.endWait hn
  have hdel := deliver_signal h.ep (epHeld_waitedOn hst x) rfl hk3 hpend
  rw [hu, modEp_eq hz] at hdel
  have hend : ((u.putEp ke { z with pend := z.pend - 1 }).after 2 (.fill ⟨e.owner, x.reg, x.tag⟩ 1)).ep ke = some { z with pend := z.pend - 1 } :=
    (ep_after ..).trans (ep_putEp_self ..)
  have hadmit := admitSignals_of_no_offers hend (hfreed.offers.trans ho) 256
  exact ⟨_, { z with pend := z.pend - 1 }, hdel.trans ((congrArg (State.checkDying · ke) hadmit).trans
    (checkDying_of_alive hend (hfreed.dying.trans hdying))), hproc, hend, hfreed.rx, congrArg (· - 1) hfreed.pend, dueIn_after ..⟩

end State.Awaiting

end

end Sys2Proof.Machine
end

section
/-! PROOFS. The receiving instructions, and the deadline of a TRECV (07 R188, R198, R205, R206). -/

namespace Sys2Proof.Machine

/-! ### Deadlines -/

/-- An end whose receive has given up (07 R206). -/
def Ep.expired (e : Ep) : Ep := { e with rx := none, waitK := 0, st := if e.st = .wait then .opened else e.st, deadline := false }

/-- A TRECV whose time has come gives up (07 R206). -/
theorem trecvExpiry_due {s : State} {name k h ke due : Nat} {p : Proc} {hd : Hold} {e : Ep} {x : Rx} (hn : s.named name = some (k, p))
    (hwait : p.wait = .chan h) (hhold : p.hold = some hd) (hargs : hd.arg2 = 0) (hh : s.handle name h = some (ke, e)) (hrx : e.rx = some x)
    (htimed : x.timed = some (due, false)) (hres : e.reserved = false) (hdue : due ≤ s.gtc) (hst : p.st = .blocked ∨ p.st = .parked) :
    trecvExpiry name s = (s.putEp ke e.expired).completeFill k (BitVec.allOnes 64) := by
  have hrun : (p.st == .suspended || p.st == .migrating) = false := by
    obtain hs | hs := hst <;> rw [hs] <;> rfl
  unfold trecvExpiry
  rw [modNamed_of_named hn]
  simp only [hwait, hhold, hh, hrx, Option.bind_some, htimed, hargs, hres, show ¬ (0 = 1) by decide, Nat.not_lt.2 hdue, decide_false, Bool.or_self,
    Bool.false_eq_true, if_false, hrun, Ep.expired, allOnes]

/-- A time that GTC has not reached falls due later (00 R2). -/
theorem gtcDue_later {s : State} {t : Nat} (h : s.gtc < t) : s.cycle < s.gtcDue t := by
  unfold State.gtcDue gtcCycle
  unfold State.gtc at h
  generalize hn : s.nanos = n at h ⊢
  have hc : n = s.cycle * 5 / 8 := hn.symm
  omega

theorem armDeadline_agenda {s : State} {fold : Nat} {d : Deadline} (hroom : (s.fold fold).timers.length < 256) (hlater : s.gtc < d.time) :
    (s.gtcDue d.time, Ev.deadlineFire fold d) ∈ (s.armDeadline fold d).agenda := by
  unfold State.armDeadline
  rw [if_pos hroom]
  refine (mem_enqueue ..).2 (.inl ?_)
  exact Prod.ext (if_neg (Nat.not_lt.2 (gtcDue_later hlater).le)).symm rfl

theorem armDeadline_procs (s : State) (fold : Nat) (d : Deadline) : (s.armDeadline fold d).procs = s.procs := by
  unfold State.armDeadline
  dsimp only
  split <;> rfl

/-- A TRECV that still waits waits until its deadline (07 R206). -/
def State.waitUntil (s : State) (k : Nat) (p : Proc) (ke due : Nat) : State :=
  match s.ep ke with
  | some y =>
    if y.rx.isSome then
      ((s.putEp ke { y with deadline := true }).modProc k (fun q => { q with deadline := due })).armDeadline (foldOf p.core) ⟨.trecv p.name, due⟩
    else s
  | none => s

theorem waitUntil_of_waiting {s : State} {k ke : Nat} {p q : Proc} {y : Ep} (hy : s.ep ke = some y) (hrx : y.rx.isSome = true)
    (hq : s.proc k = some q) (due : Nat) : s.waitUntil k p ke due =
      ((s.putEp ke { y with deadline := true }).putProc k { q with deadline := due }).armDeadline (foldOf p.core) ⟨.trecv p.name, due⟩ := by
  unfold State.waitUntil
  simp only [hy, hrx, if_true]
  rw [modProc_eq (show (s.putEp ke _).proc k = some q from hq)]

theorem withProducer_made (p : Proc) (r : Reg) (tag : BitVec 2) : (p.withProducer r tag).made = p.made ||| regBit r := by
  unfold Proc.withProducer
  split <;> rfl

/-! ### The receiving instructions -/

section

variable {s : State} {k : Nat} {p : Proc} {d : Reg} {a b : Src} {x w : Word} {ke : Nat} {e : Ep}

/-- A receive of no more than a register. -/
def State.wordRx (s : State) (p : Proc) (d : Reg) (timed : Option (Nat × Bool)) : Rx :=
  { reg := d, tag := p.mark d, at0 := s.cycle, room := 65536, timed := timed }

/-- The receive of a block of the scratchpad. -/
def State.blockRx (s : State) (p : Proc) (d : Reg) (w : Word) : Rx :=
  { reg := d, tag := p.mark d, at0 := s.cycle, off := blockOff w, room := blockLen w }

/-- The receive of a tile of the scratchpad. -/
def State.tileRx (s : State) (p : Proc) (e : Ep) (w : Word) : Rx :=
  { reg := 0, tag := p.mark 0, at0 := s.cycle, off := w.toNat, room := typRows e.typ * typRowBytes e.typ, step := typRowBytes e.typ,
    rowBytes := typRowBytes e.typ }

variable (hx : x.toNat < 64) (hh : s.handle p.name x.toNat = some (ke, e)) (hrecv : e.recv = true) (hserver : e.server = none) (hst : e.st = .opened)
  (htag : p.HasTag d)
include hx hh hrecv hserver hst

include htag in
theorem exec_recv (hrun : s.Runs k p [srcField a 0] [x] [d]) (hk : typKind e.typ = 0 ∨ typKind e.typ = 3) :
    exec (.recv d a) s = .next (s.receive k p ke e (consumeMask p [srcField a 0]) (s.wordRx p d none) true) := by
  obtain ⟨hi, hg, ht⟩ := hrun
  refine (onCur_next hi _).trans (congrArg _ ((issueFill_ok hg ht htag _).trans ?_))
  exact withEnd_go _ hx hh hserver hrecv (by simpa using hk.imp_right .inl) (by simp [hst])

variable (hrun : s.Runs k p [srcField a 0, srcField b 1] [x, w] [d])
include hrun

include htag in
theorem exec_recvb (hk : typKind e.typ = 1) (hres : w.toNat / 2 ^ 24 % 2 ^ 24 = 0) (harea : blockOff w + blockLen w ≤ scratchSize p.core) :
    exec (.recvb d a b) s = .next (s.receive k p ke e (consumeMask p [srcField a 0, srcField b 1]) (s.blockRx p d w) true) := by
  obtain ⟨hi, hg, ht⟩ := hrun
  refine (onCur_next hi _).trans (congrArg _ ((issueFill_ok hg ht htag _).trans ?_))
  refine (withEnd_go _ hx hh hserver hrecv (by simp [hk]) (by simp [hst])).trans ?_
  exact (if_neg (not_not.2 hres)).trans (if_neg (Nat.not_lt.2 harea))

theorem exec_recvt (hk : typKind e.typ = 2) (hw : w.toNat < 2 ^ 24) (halign : w.toNat % 16 = 0)
    (harea : w.toNat + typRows e.typ * typRowBytes e.typ ≤ scratchSize p.core) :
    exec (.recvt a b 0) s = .next (s.receive k p ke e (consumeMask p [srcField a 0, srcField b 1]) (s.tileRx p e w) false) := by
  obtain ⟨hi, hg, -⟩ := hrun
  refine (onCur_next hi _).trans (congrArg _ ((issue_ok hg (takes_nil s p) _).trans ?_))
  exact (withEnd_go _ hx hh hserver hrecv (by simp [hk]) (by simp [hst])).trans (withTileArea_word hw halign harea _)

include htag in
theorem exec_trecv (hk : typKind e.typ = 0) (hset : s.Settled p) : exec (.trecv d a b 0) s = .next
    (if w.toNat ≤ s.gtc then
      trecvExpiry p.name (s.beginReceive k p ke e (consumeMask p [srcField a 0, srcField b 1]) (s.wordRx p d (some (w.toNat, false))) true)
    else
      (s.receive k p ke e (consumeMask p [srcField a 0, srcField b 1]) (s.wordRx p d (some (w.toNat, false))) true).waitUntil k p ke w.toNat) := by
  obtain ⟨hi, hg, ht⟩ := hrun
  refine (onCur_next hi _).trans (congrArg _ ((issueFill_ok hg ht htag _).trans ?_))
  refine (withEnd_go _ hx hh hserver hrecv (by simp [hk]) (by simp [hst])).trans ?_
  simp only [List.getD_cons_succ, List.getD_cons_zero, releaseStores_of_settled hi.2 hset]
  rfl

end

end Sys2Proof.Machine
end

section
/-! PROOFS. Receives take messages or wait (07 R198, R201 to R206). -/

namespace Sys2Proof.Machine

theorem waiting_hold (p : Proc) (w : Wait) (now : Nat) : (p.waiting w now).hold = p.hold := (congrArg Proc.hold (waiting_rest p w now) :)

theorem waiting_blocked_or_parked (p : Proc) (w : Wait) (now : Nat) : (p.waiting w now).st = .blocked ∨ (p.waiting w now).st = .parked := by
  obtain ⟨-, -, -, hst⟩ := waiting_same p w now
  rw [hst]
  split
  · exact .inl rfl
  · exact .inr rfl

/-- A process that waits in a receive whose destination is a fill. -/
def Proc.receiving (p : Proc) (e : Ep) (c : BitVec 16) (x : Rx) (now : Nat) : Proc :=
  (p.holdsFill c x.reg x.tag.toNat 0 now).waiting (.chan e.handle) now

theorem receiving_hold (p : Proc) (e : Ep) (c : BitVec 16) (x : Rx) (now : Nat) : (p.receiving e c x now).hold =
    some { consume := c, dst := some x.reg, arg := x.tag.toNat, issuedAt := now, old := some (p.cell x.reg) } := waiting_hold ..

theorem receiving_matched_hold (p : Proc) (e : Ep) (c : BitVec 16) (x : Rx) (now : Nat) : (p.receiving e c x now).matched.hold =
    some { consume := c, dst := some x.reg, arg := x.tag.toNat, arg2 := 1, issuedAt := now, old := some (p.cell x.reg) } := by
  unfold Proc.matched
  rw [receiving_hold]
  rfl

/-- A receive that is matched awaits the value of its register (07 R198). -/
theorem receiving_awaits (p : Proc) (e : Ep) (c : BitVec 16) (x : Rx) (now name : Nat) :
    (p.receiving e c x now).matched.awaits ⟨name, x.reg, x.tag⟩ = true := by
  have hw : (p.receiving e c x now).matched.wait = .chan e.handle := (waiting_same (p.holdsFill c x.reg x.tag.toNat 0 now) (.chan e.handle) now).1
  unfold Proc.awaits
  rw [hw, receiving_matched_hold]
  simp

section

variable {s : State} {k : Nat} {p : Proc} {ke : Nat} {e : Ep} {c : BitVec 16} {d : Reg} {m : Msg} {rest : List Msg}
variable (hn : s.named e.owner = some (k, p)) (hst : e.st = .opened) (hset : s.Settled p)
include hn hst hset

/-- A RECV or TRECV on a rendezvous end takes the first offer (07 R198, R203). -/
theorem receive_offered (hk : typKind e.typ = 0) (hcap : typCap e.typ = 0) (ho : e.offers = m :: rest) {v : Word} (hm : m.body = .word v) :
    ∃ (t : State) (q : Proc) (h : Hold), s.receive k p ke e c (s.wordRx p d none) true = t ∧ t.AwaitsOn k p e.handle d ∧
      t.DueIn 2 (.fill ⟨e.owner, d, p.mark d⟩ v) ∧ t.DueIn (1 + s.oneway m.src.core (ke / 512)) (.sendAck m (locOf ke e)) ∧
      (t.ep ke).map Ep.offers = some rest ∧ t.proc k = some q ∧ q.hold = some h ∧ h.consume = c ∧ q.awaits ⟨e.owner, d, p.mark d⟩ = true := by
  have hp := proc_of_named hn
  have haw := beginReceive_fill (ke := ke) (e := e) (x := s.wordRx p d none) (c := c) hp
  obtain ⟨u, z, hdel, -, hproc, hz, hzrx, hoffers, hfill, hack⟩ :=
    haw.takes_word (named_of_extends haw.ext hn haw.proc) hst (by omega) (typQueued_of_cap hcap) ho rfl hm
  refine ⟨u, _, _, receive_of_done hp hset (by omega) hdel hz hzrx, awaitsOn_matched (beginReceive_awaitsOn hp) haw.proc hproc, hfill, hack, ?_, hproc,
    receiving_matched_hold p e c (s.wordRx p d none) s.cycle, rfl, receiving_awaits p e c (s.wordRx p d none) s.cycle e.owner⟩
  rw [hz, ← hoffers]
  rfl

/-- A receive on a buffered end takes the oldest message (07 R202). -/
theorem receive_queued (hk : typKind e.typ = 0) (hcap : typCap e.typ ≠ 0) (hqueue : e.queue = m :: rest) (ho : e.offers = []) (hserver : e.server = none)
    (hdying : e.dying = false) (hsrc : m.src.ix < 512) (hep : s.ep ke = some e) (hpeer : s.hasPeer ke e = true) {v : Word} (hm : m.body = .word v) :
    ∃ t : State, s.receive k p ke e c (s.wordRx p d none) true = t ∧ t.AwaitsOn k p e.handle d ∧
      t.DueIn 2 (.fill ⟨e.owner, d, p.mark d⟩ v) ∧ t.DueIn (s.oneway (ke / 512) e.peer.core) (.creditReturn e.peer) ∧
      (t.ep ke).map Ep.queue = some rest := by
  have hp := proc_of_named hn
  have haw := beginReceive_fill (ke := ke) (e := e) (x := s.wordRx p d none) (c := c) hp
  obtain ⟨u, z, hdel, hproc, hz, hzrx, hrest, hfill, hcredit⟩ := haw.takes_head (named_of_extends haw.ext hn haw.proc) hst (by omega)
    (typQueued_of_kind hcap (by omega)) hqueue ho hserver hdying hsrc hep hpeer hm
  refine ⟨u, receive_of_done hp hset (by omega) hdel hz hzrx, awaitsOn_matched (beginReceive_awaitsOn hp) haw.proc hproc, hfill, hcredit, ?_⟩
  rw [hz, ← hrest]
  rfl

/-- A receive on a signal end takes a signal (07 R203). -/
theorem receive_signal (hk : typKind e.typ = 3) (hpend : e.pend ≠ 0) (ho : e.offers = []) (hdying : e.dying = false) :
    ∃ t : State, s.receive k p ke e c (s.wordRx p d none) true = t ∧ t.AwaitsOn k p e.handle d ∧
      t.DueIn 2 (.fill ⟨e.owner, d, p.mark d⟩ 1) ∧ (t.ep ke).map Ep.pend = some (e.pend - 1) := by
  have hp := proc_of_named hn
  have haw := beginReceive_fill (ke := ke) (e := e) (x := s.wordRx p d none) (c := c) hp
  obtain ⟨u, z, hdel, hproc, hz, hzrx, hpend', hfill⟩ := haw.takes_signal (named_of_extends haw.ext hn haw.proc) hst hk hpend ho hdying
  refine ⟨u, receive_of_done hp hset (by omega) hdel hz hzrx, awaitsOn_matched (beginReceive_awaitsOn hp) haw.proc hproc, hfill, ?_⟩
  rw [hz, ← hpend']
  rfl

/-- A receive that finds nothing waits, and announces itself on a rendezvous end (07 R203, R205). -/
theorem receive_nothing (hk : typKind e.typ = 0) (ho : e.offers = []) (hqueue : e.queue = []) (timed : Option (Nat × Bool)) :
    ∃ t : State, s.receive k p ke e c (s.wordRx p d timed) true = t ∧ t.AwaitsOn k p e.handle d ∧ s.Extends t ∧ t.folds = s.folds ∧
      t.ep ke = some (Ep.waitedOn { e with rx := some (s.wordRx p d timed) }) ∧
      (typCap e.typ = 0 → t.DueIn (s.oneway p.core e.peer.core) (.receiveAnnounce e.peer)) := by
  have hp := proc_of_named hn
  have haw := beginReceive_fill (ke := ke) (e := e) (x := s.wordRx p d timed) (c := c) hp
  have hwait := receive_of_waiting hp hset (show typKind e.typ ≠ 4 by omega) (haw.takes_nothing hst (by omega) ho hqueue) haw.ep rfl (by omega)
  refine ⟨_, hwait, ?_⟩
  cases hq : typQueued e.typ with
  | true =>
    rw [if_pos rfl]
    refine ⟨beginReceive_awaitsOn hp, haw.ext, haw.folds, haw.ep, fun hcap => ?_⟩
    rw [typQueued_of_cap hcap] at hq
    cases hq
  | false =>
    rw [if_neg nofun, oneway_of_links haw.ext.links]
    exact ⟨beginReceive_awaitsOn hp, haw.ext.trans (.after ..), haw.folds, haw.ep, fun _ => dueIn_after ..⟩

/-- A RECVB on a rendezvous end takes a block that it can hold (07 R201, R204). -/
theorem receive_block {w : Word} (hk : typKind e.typ = 1) (hcap : typCap e.typ = 0) (ho : e.offers = m :: rest) (hm : isBulk m.body = true)
    (hroom : bodyLen m.body ≤ blockLen w) : ∃ t : State, s.receive k p ke e c (s.blockRx p d w) true = t ∧ t.AwaitsOn k p e.handle d ∧
      t.DueIn (1 + s.dataTime m.src.core (ke / 512) (bodyLen m.body)) (.transferDataWritten (transferOf ke e.owner (s.blockRx p d w) m)) := by
  have hp := proc_of_named hn
  have haw := beginReceive_fill (ke := ke) (e := e) (x := s.blockRx p d w) (c := c) hp
  obtain ⟨u, z, hdel, hproc, hz, hzrx, hdue⟩ :=
    haw.takes_bulk (named_of_extends haw.ext hn haw.proc) hst (by omega) (typQueued_of_cap hcap) ho rfl hm hroom rfl
  exact ⟨u, receive_of_done hp hset (by omega) hdel hz hzrx, awaitsOn_matched (beginReceive_awaitsOn hp) haw.proc hproc, hdue⟩

/-- A RECVB traps at a block that it cannot hold, which stays (07 R201). -/
theorem receive_block_too_long {w : Word} (hk : typKind e.typ = 1) (hcap : typCap e.typ = 0) (ho : e.offers = m :: rest) (hm : isBulk m.body = true)
    (hroom : blockLen w < bodyLen m.body) : ∃ u : State, s.receive k p ke e c (s.blockRx p d w) true = u.raise k 0x09 (BitVec.ofNat 64 e.handle) ∧
      (u.ep ke).map Ep.offers = some e.offers ∧ u.mem = s.mem := by
  have hp := proc_of_named hn
  have haw := beginReceive_fill (ke := ke) (e := e) (x := s.blockRx p d w) (c := c) hp
  obtain ⟨u, z, hdel, hext, hz, hzrx, hoffers⟩ := haw.refuses_bulk (named_of_extends haw.ext hn haw.proc) hst (by omega) (typQueued_of_cap hcap) ho hm
    hroom (waiting_blocked_or_parked ..)
  have hraise (j : Nat) : (u.raise k 0x09 (BitVec.ofNat 64 e.handle)).ep j = u.ep j := by
    unfold State.ep
    rw [show (u.raise k 0x09 (BitVec.ofNat 64 e.handle)).eps = u.eps from (congrArg State.eps (raise_rest ..) :)]
  refine ⟨u, receive_of_done hp hset (by omega) hdel ((hraise ke).trans hz) hzrx, ?_, hext.mem⟩
  rw [hz, ← hoffers]
  rfl

/-- A RECVT on a rendezvous end takes a tile of its shape (07 R204). -/
theorem receive_tile {w : Word} (hk : typKind e.typ = 2) (hcap : typCap e.typ = 0) (ho : e.offers = m :: rest) (hm : isBulk m.body = true)
    (hroom : bodyLen m.body = typRows e.typ * typRowBytes e.typ) : ∃ t : State, s.receive k p ke e c (s.tileRx p e w) false = t ∧
      t.WaitsOn k p e.handle ∧
      t.DueIn (1 + s.dataTime m.src.core (ke / 512) (bodyLen m.body)) (.transferDataWritten (transferOf ke e.owner (s.tileRx p e w) m)) := by
  have hp := proc_of_named hn
  have haw := beginReceive_tile (ke := ke) (e := e) (x := s.tileRx p e w) (c := c) hp
  obtain ⟨u, z, hdel, hproc, hz, hzrx, hdue⟩ :=
    haw.takes_bulk (named_of_extends haw.ext hn haw.proc) hst (by omega) (typQueued_of_cap hcap) ho rfl hm hroom.le rfl
  exact ⟨u, receive_of_done hp hset (by omega) hdel hz hzrx, waitsOn_matched (beginReceive_waitsOn hp) haw.proc hproc, hdue⟩

end

/-- A receive that has begun when its time has come gives up (07 R206). -/
theorem beginReceive_expires {s : State} {k h ke due : Nat} {p : Proc} {e : Ep} {c : BitVec 16} {x : Rx} (hn : s.named p.name = some (k, p))
    (hh : s.handle p.name h = some (ke, e)) (hst : e.st = .opened) (hres : e.reserved = false) (htimed : x.timed = some (due, false))
    (hdue : due ≤ s.gtc) : trecvExpiry p.name (s.beginReceive k p ke e c x true) =
      ((s.beginReceive k p ke e c x true).putEp ke (Ep.waitedOn { e with rx := some x }).expired).completeFill k (BitVec.allOnes 64) := by
  obtain ⟨-, hhandle, -, -⟩ := handle_eq_some hh
  have haw := beginReceive_fill (ke := ke) (e := e) (x := x) (c := c) (proc_of_named hn)
  have hfound : (s.beginReceive k p ke e c x true).handle p.name h = some (ke, Ep.waitedOn { e with rx := some x }) := by
    unfold State.handle
    rw [haw.eps]
    exact handle_putEp hh rfl rfl (epHeld_waitedOn hst x)
  obtain ⟨hw, -, -, -⟩ := waiting_same (p.holdsFill c x.reg x.tag.toNat 0 s.cycle) (.chan e.handle) s.cycle
  have hdue' : due ≤ (s.beginReceive k p ke e c x true).gtc := by
    unfold State.gtc State.nanos at hdue ⊢
    rwa [haw.ext.cycle]
  exact trecvExpiry_due (named_of_extends haw.ext hn haw.proc) (hw.trans (by rw [hhandle])) (receiving_hold p e c x s.cycle) rfl hfound rfl htimed hres
    hdue' (waiting_blocked_or_parked ..)

section

variable {s : State} {k : Nat} {p : Proc} {d : Reg} {a b : Src} {x w : Word} {ke : Nat} {e : Ep}
variable (hn : s.named p.name = some (k, p)) (hx : x.toNat < 64) (hh : s.handle p.name x.toNat = some (ke, e)) (hrecv : e.recv = true)
  (hserver : e.server = none) (hst : e.st = .opened) (hset : s.Settled p) (htag : p.HasTag d)
  (hrun : s.Runs k p [srcField a 0, srcField b 1] [x, w] [d]) (hk : typKind e.typ = 0)
include hn hx hh hrecv hserver hst hset htag hrun hk

/-- A TRECV whose deadline has passed receives all ones (07 R206). -/
theorem trecvGivesUp (hres : e.reserved = false) (hdue : w.toNat ≤ s.gtc) :
    ∃ u : State, exec (.trecv d a b 0) s = .next (u.completeFill k (BitVec.allOnes 64)) ∧ (u.ep ke).map Ep.rx = some none ∧
      ∃ q, u.proc k = some q ∧ q.pc = p.pc ∧ q.regs = (p.produce d).regs ∧ q.made = p.made ||| regBit d ∧
        q.hold = some { consume := consumeMask p [srcField a 0, srcField b 1], dst := some d, arg := (p.mark d).toNat, issuedAt := s.cycle,
                        old := some (p.cell d) } := by
  have haw := beginReceive_fill (ke := ke) (e := e) (x := s.wordRx p d (some (w.toNat, false))) (c := consumeMask p [srcField a 0, srcField b 1])
    (proc_of_named hn)
  have hexp := beginReceive_expires (c := consumeMask p [srcField a 0, srcField b 1]) (x := s.wordRx p d (some (w.toNat, false))) hn hh hst hres rfl hdue
  obtain ⟨-, hpc, hregs, -⟩ := waiting_same (p.holdsFill (consumeMask p [srcField a 0, srcField b 1]) d (p.mark d).toNat 0 s.cycle) (.chan e.handle)
    s.cycle
  obtain ⟨hpc', hregs', -, -, -⟩ := holdsFill_same p (consumeMask p [srcField a 0, srcField b 1]) d (p.mark d).toNat 0 s.cycle
  refine ⟨_, (exec_trecv hx hh hrecv hserver hst htag hrun hk hset).trans (congrArg _ ((if_pos hdue).trans hexp)), ?_, _, haw.proc, hpc.trans hpc',
    hregs.trans hregs', ?_, receiving_hold p e _ (s.wordRx p d (some (w.toNat, false))) s.cycle⟩
  · rw [ep_putEp_self]
    rfl
  · exact (congrArg Proc.made (waiting_rest (p.holdsFill _ d (p.mark d).toNat 0 s.cycle) _ _) :).trans (withProducer_made p d (p.mark d))

/-- A TRECV with time left waits for its deadline too (07 R206). -/
theorem trecvWaits (ho : e.offers = []) (hqueue : e.queue = []) (hlater : s.gtc < w.toNat) (hroom : (s.fold (foldOf p.core)).timers.length < 256) :
    ∃ t : State, exec (.trecv d a b 0) s = .next t ∧ t.AwaitsOn k p x.toNat d ∧
      (s.gtcDue w.toNat, Ev.deadlineFire (foldOf p.core) ⟨.trecv p.name, w.toNat⟩) ∈ t.agenda := by
  obtain ⟨howner, hhandle, -, -⟩ := handle_eq_some hh
  obtain ⟨u, hu, hwaits, hext, hfolds, hend, -⟩ := receive_nothing (s := s) (ke := ke) (c := consumeMask p [srcField a 0, srcField b 1]) (d := d)
    (by rwa [howner]) hst hset hk ho hqueue (some (w.toNat, false))
  obtain ⟨q, hq, hwait, hpc, hregs, hqst⟩ := hwaits
  refine ⟨_, (exec_trecv hx hh hrecv hserver hst htag hrun hk hset).trans (congrArg _ (if_neg (Nat.not_le.2 hlater))), ?_⟩
  rw [hu, waitUntil_of_waiting hend rfl hq]
  refine ⟨⟨{ q with deadline := w.toNat }, ?_, hwait.trans (by rw [hhandle]), hpc, hregs, hqst⟩, ?_⟩
  · unfold State.proc
    rw [armDeadline_procs]
    exact State.putProc_proc_self ..
  · have hcycle : u.cycle = s.cycle := hext.cycle
    have hdue : s.gtcDue w.toNat = u.gtcDue w.toNat := by unfold State.gtcDue State.nanos; rw [hcycle]
    rw [hdue]
    refine armDeadline_agenda (d := ⟨.trecv p.name, w.toNat⟩) ?_ ?_
    · show (tgetD u.folds (foldOf p.core) {}).timers.length < 256
      rw [hfolds]
      exact hroom
    · show u.cycle * 5 / 8 % 2 ^ 64 < w.toNat
      rw [hcycle]
      exact hlater

end

/-- Settles O37: a receive waits first and then takes the message it finds, so each way to receive is one case of what `deliver` does at an end
on which a receive has begun. -/
theorem receivesTake : Obligations.ReceivesTake := by
  intro s k p d x ke e hn hx hh hep hcore hrecv hserver hst _ _ hdying hset htag
  obtain ⟨howner, hhandle, -, -⟩ := handle_eq_some hh
  have hn' : s.named e.owner = some (k, p) := by rwa [howner]
  refine ⟨fun a c hrun hc => ⟨fun m rest v hk hcap ho hm => ?_, fun m rest v hk hcap hqueue ho hm hsrc hpeer => ?_, fun hk hpend ho => ?_,
    fun hk ho hqueue => ?_⟩, fun a b w m rest hrun hcap ho => ⟨fun hk hres harea => ⟨fun hm hroom => ?_, fun hm hroom => ?_⟩,
    fun hk hw halign harea hm hroom => ?_⟩, fun a b w hrun hk ho hqueue hres => ⟨fun hdue => ?_, fun hlater hroom => ?_⟩⟩
  · have htaken := receive_offered (ke := ke) (c := c) (d := d) hn' hst hset hk hcap ho hm
    rw [howner, hhandle, hcore] at htaken
    obtain ⟨t, q, h, ht, hrest⟩ := htaken
    rw [hc] at ht
    exact ⟨t, q, h, (exec_recv hx hh hrecv hserver hst htag hrun (.inl hk)).trans (congrArg _ ht), hrest⟩
  · have htaken := receive_queued (c := c) (d := d) hn' hst hset hk hcap hqueue ho hserver hdying hsrc hep hpeer hm
    rw [howner, hhandle, hcore] at htaken
    obtain ⟨t, ht, hrest⟩ := htaken
    rw [hc] at ht
    exact ⟨t, (exec_recv hx hh hrecv hserver hst htag hrun (.inl hk)).trans (congrArg _ ht), hrest⟩
  · have htaken := receive_signal (ke := ke) (c := c) (d := d) hn' hst hset hk hpend ho hdying
    rw [howner, hhandle] at htaken
    obtain ⟨t, ht, hrest⟩ := htaken
    rw [hc] at ht
    exact ⟨t, (exec_recv hx hh hrecv hserver hst htag hrun (.inr hk)).trans (congrArg _ ht), hrest⟩
  · have hwaits := receive_nothing (ke := ke) (c := c) (d := d) hn' hst hset hk ho hqueue none
    rw [hhandle] at hwaits
    obtain ⟨t, ht, hawaits, -, -, hend, hannounce⟩ := hwaits
    rw [hc] at ht
    refine ⟨t, (exec_recv hx hh hrecv hserver hst htag hrun (.inl hk)).trans (congrArg _ ht), hawaits, ?_, hannounce⟩
    rw [hend]
    rfl
  · have htaken := receive_block (ke := ke) (c := consumeMask p [srcField a 0, srcField b 1]) (d := d) (w := w) hn' hst hset hk hcap ho hm hroom
    rw [hhandle, hcore] at htaken
    obtain ⟨t, ht, hawaits, hdue⟩ := htaken
    exact ⟨t, _, (exec_recvb hx hh hrecv hserver hst htag hrun hk hres harea).trans (congrArg _ ht), hawaits, rfl, hcore, rfl, howner, rfl, rfl, hdue⟩
  · have htaken := receive_block_too_long (ke := ke) (c := consumeMask p [srcField a 0, srcField b 1]) (d := d) (w := w) hn' hst hset hk hcap ho hm hroom
    rw [hhandle] at htaken
    obtain ⟨u, hu, hrest⟩ := htaken
    exact ⟨u, (exec_recvb hx hh hrecv hserver hst htag hrun hk hres harea).trans (congrArg _ hu), hrest⟩
  · have htaken := receive_tile (ke := ke) (c := consumeMask p [srcField a 0, srcField b 1]) (w := w) hn' hst hset hk hcap ho hm hroom
    rw [hhandle, hcore] at htaken
    obtain ⟨t, ht, hwaits, hdue⟩ := htaken
    exact ⟨t, _, (exec_recvt hx hh hrecv hserver hst hrun hk hw halign harea).trans (congrArg _ ht), hwaits, rfl, hcore, rfl, rfl, rfl, hdue⟩
  · exact trecvGivesUp hn hx hh hrecv hserver hst hset htag hrun hk hres hdue
  · exact trecvWaits hn hx hh hrecv hserver hst hset htag hrun hk ho hqueue hlater hroom

end Sys2Proof.Machine
end

section
/-! PROOFS. Messages reach their ends (07 R198, R202 to R204). -/

namespace Sys2Proof.Machine

/-! ### Values for instructions that wait on a channel (07 R198) -/

section

variable {s : State} {f : FillTo} {k h : Nat} {p : Proc} {hd : Hold} (hn : s.named f.name = some (k, p)) (hwait : p.wait = .chan h)
  (hhold : p.hold = some hd) (hdst : hd.dst = some f.reg) (harg : hd.arg = f.tag.toNat) (hmatched : hd.arg2 = 1)
include hn hwait hhold hdst harg hmatched

/-- The value that a matched instruction awaits ends its wait (07 R198). -/
theorem fill_matched (hwords : hd.words = []) (v : Word) : fill f v s = (s.fillReg k p f v).complete k [] := by
  have hawaits : p.awaits f = true := by simp [Proc.awaits, hwait, hhold, hdst, harg, hmatched]
  have hwhole : (p.hold.map Hold.words == some [1]) = false := by simp [hhold, hwords]
  unfold fill
  rw [modNamed_of_named hn]
  simp only [hwhole, hawaits, Bool.and_false, Bool.false_eq_true, if_false, if_true]

end

/-- A value for a register that names no port and for which no post of ONCE is due (05 R104). -/
theorem fillReg_plain {s : State} {f : FillTo} {p : Proc} (hport : p.portOf f.reg = none) (honce : ∀ o ∈ s.onceDue, o.1 ≠ f.name) (k : Nat)
    (v : Word) : s.fillReg k p f v = s.putProc k { p.fill f.reg f.tag v with loads := p.loads.erase (f.reg, f.tag) } := by
  have hnone : s.onceDue.find? (fun o => o.1 == f.name && o.2.1 == f.reg && o.2.2.1 == f.tag) = none := by
    rw [List.find?_eq_none]
    intro o ho
    simp [honce o ho]
  simp only [State.fillReg, hnone, hport]

section

variable {s : State} {f : FillTo} {k : Nat} {p : Proc} {hd : Hold} (hport : p.portOf f.reg = none) (honce : ∀ o ∈ s.onceDue, o.1 ≠ f.name)
include hport honce

/-- A held instruction whose register has its value retires with its own consume marks (07 R198). -/
theorem fillReg_complete (hhold : p.hold = some hd) (v : Word) : (s.fillReg k p f v).complete k [] =
    ((s.putProc k { p.fill f.reg f.tag v with loads := p.loads.erase (f.reg, f.tag) }).retire k hd.consume []).ready k := by
  have hfilled : ({ p.fill f.reg f.tag v with loads := p.loads.erase (f.reg, f.tag) } : Proc).hold = some (hd.filled f.reg f.tag v) :=
    (fill_hold ..).trans (by rw [hhold]; rfl)
  rw [fillReg_plain hport honce, complete_eq (State.putProc_proc_self ..) hfilled, filled_consume]

end

/-! ### Offers (07 R203, R204) -/

section

variable {s : State} {dst : EndLoc} {m : Msg} {e : Ep} (he : s.ep (locKey dst) = some e) (hf : e.fwd = none) (hfrom : s.fromPeer e m.src = true)
  (hst : e.st = .opened ∨ e.st = .wait) (hdying : e.dying = false) (hsrc : (s.endAt m.src).isSome = true)
  (hreach : s.reachable (pkgOf m.src.core) (pkgOf dst.core) = true)

section
include he hf hfrom hst hdying hsrc hreach

/-- An offer from the peer of a live end is dealt with in its order (07 R199). -/
theorem offerArrival_eq : offerArrival dst m s = s.inOrder m (.offerArrival dst m) (
    if e.rx.isNone && !(typKind e.typ == 3 && signalRoom e) &&
        decide (64 ≤ ((s.epsOf dst.core).map (fun x => x.2.offers.length)).foldl (fun a b => a + b) 0) then
      s.after 64 (.offerResend dst m)
    else
      let t := s.putEp (locKey dst) { e with offers := e.offers ++ [m] }
      if !epHeld e then t
      else if typKind e.typ = 3 && decide (typCap e.typ ≠ 0) then (t.admitSignals (locKey dst) 256).deliver (locKey dst)
      else t.deliver (locKey dst)) := by
  have hlive : (!s.fromPeer e m.src || e.st = .dead || e.dying || (s.endAt m.src).isNone) = false := by
    obtain ⟨x, hx⟩ := Option.isSome_iff_exists.1 hsrc
    obtain h | h := hst <;> simp [hfrom, h, hdying, hx]
  unfold offerArrival
  simp only [he, hf, hlive, hreach, Bool.not_true, Bool.false_eq_true, if_false]

/-- An offer that an older message of its sender has not overtaken waits for that message (07 R199). -/
theorem offerArrival_older {due : Nat} (h : s.olderDue m = some due) : offerArrival dst m s = s.atCycle due (.offerArrival dst m) := by
  rw [offerArrival_eq he hf hfrom hst hdying hsrc hreach, State.inOrder, h]

variable (hfirst : s.olderDue m = none) (hk3 : typKind e.typ ≠ 3)
include hfirst hk3

/-- An offer at an end where it finds room is held and delivered (07 R204). -/
theorem offerArrival_held (hroom : e.rx.isSome = true ∨ ((s.epsOf dst.core).map (fun x => x.2.offers.length)).sum < 64) :
    offerArrival dst m s = (s.putEp (locKey dst) { e with offers := e.offers ++ [m] }).deliver (locKey dst) := by
  have hheld : epHeld e = true := by obtain h | h := hst <;> rw [epHeld, h]
  have hfull : (e.rx.isNone && !(typKind e.typ == 3 && signalRoom e) &&
      decide (64 ≤ ((s.epsOf dst.core).map (fun x => x.2.offers.length)).foldl (fun a b => a + b) 0)) = false := by
    rw [← List.sum_eq_foldl]
    obtain h | h := hroom
    · obtain ⟨x, hx⟩ := Option.isSome_iff_exists.1 h
      simp [hx]
    · simp [h]
  rw [offerArrival_eq he hf hfrom hst hdying hsrc hreach, State.inOrder, hfirst]
  simp only [hfull, hheld, hk3, Bool.not_true, decide_false, Bool.false_and, Bool.false_eq_true, if_false]

/-- An offer that finds 64 held is sent again later (07 R204). -/
theorem offerArrival_full (hrx : e.rx = none) (hfull : 64 ≤ ((s.epsOf dst.core).map (fun x => x.2.offers.length)).sum) :
    offerArrival dst m s = s.after 64 (.offerResend dst m) := by
  rw [List.sum_eq_foldl] at hfull
  rw [offerArrival_eq he hf hfrom hst hdying hsrc hreach, State.inOrder, hfirst]
  simp [hrx, hk3, hfull]

end

include he hf hsrc in
theorem offerResend_eq : offerResend dst m s = s.after (s.oneway m.src.core dst.core) (.offerArrival dst m) := by
  obtain ⟨x, hx⟩ := Option.isSome_iff_exists.1 hsrc
  unfold offerResend
  rw [endAt_of_ep he hf, hx]
  rfl

end

/-- An offered word meets the receive that waits for it (07 R198, R203). -/
theorem deliver_waiting_word {s : State} {ke : Nat} {e : Ep} {x : Rx} {m : Msg} {rest : List Msg} {v : Word} (he : s.ep ke = some e)
    (hheld : epHeld e = true) (hrx : e.rx = some x) (hk3 : typKind e.typ ≠ 3) (hq : typQueued e.typ = false) (ho : e.offers = m :: rest)
    (hm : m.body = .word v) (hat : x.at0 < s.cycle) : ∃ t : State, s.deliver ke = t ∧ t.DueIn 1 (.fill ⟨e.owner, x.reg, x.tag⟩ v) ∧
      t.DueIn (s.oneway m.src.core (ke / 512)) (.sendAck m (locOf ke e)) := by
  obtain ⟨z, hz, heq⟩ := endWait_ep s ke e
  have hext := endWait_extends s ke e
  have hloc : locOf ke z = locOf ke e := by unfold locOf; rw [show z.gen = e.gen from (congrArg Ep.gen heq :)]
  have hack : s.ackTime m.src.core (ke / 512) m.body = s.oneway m.src.core (ke / 512) := by rw [hm]; rfl
  have hdel := deliver_offer he hheld hrx (m := m) (rest := rest) hk3 hq ho
  rw [rxRefusal_word _ _ _ hm, hz] at hdel
  simp only [max_eq_left (show x.at0 + 1 ≤ s.cycle from hat)] at hdel
  rw [take_word hm, if_neg nofun, State.takeOffer, ackTime_of_links hext.links, hack, hloc] at hdel
  refine ⟨_, hdel, dueIn_atCycle ?_, (State.Extends.atCycle ..).dueIn (dueIn_atCycle ?_)⟩
  · exact congrArg (· + 1) hext.cycle.symm
  · exact congrArg (· + _) hext.cycle.symm

/-! ### Buffered messages (07 R202) -/

/-- A buffered message that is let into its queue has its acknowledgement sent (07 R202). -/
def State.letIn (s : State) (dst : EndLoc) (m : Msg) (gen : Nat) : State :=
  (s.drainTile m).after (s.ackBack m dst.core) (.sendAck m { dst with gen := gen })

theorem letIn_extends (s : State) (dst : EndLoc) (m : Msg) (gen : Nat) : s.Extends (s.letIn dst m gen) :=
  (State.Extends.drainTile ..).trans (.after ..)

theorem letIn_procs (s : State) (dst : EndLoc) (m : Msg) (gen : Nat) : (s.letIn dst m gen).procs = s.procs := by
  unfold State.letIn State.drainTile
  split <;> rfl

section

variable {s : State} {dst : EndLoc} {m : Msg} {e : Ep} (he : s.ep (locKey dst) = some e) (hf : e.fwd = none) (hfrom : s.fromPeer e m.src = true)
  (hst : e.st = .opened) (hdying : e.dying = false) (hfirst : s.olderDue m = none) (hreach : s.reachable (pkgOf m.src.core) (pkgOf dst.core) = true)
  (hserver : e.server = none) (hroom : e.queue.length < typCap e.typ)
include he hf hfrom hst hdying hfirst hreach hserver hroom

/-- A buffered message in its order joins the queue of its end (07 R199, R202). -/
theorem enqueueMsg_eq : s.enqueueMsg dst m =
    ((State.putEp (match e.rq with | some q => (s.letIn dst m e.gen).writeRing (foldOf dst.core) q m | none => s.letIn dst m e.gen) (locKey dst)
      { e with queue := e.queue ++ [m], pend := min 255 (e.pend + 1) }).countExpect (locKey dst)).deliver (locKey dst) := by
  unfold State.enqueueMsg State.inOrder
  simp only [he, hf, hfrom, hst, hdying, hserver, hreach, hfirst, Nat.not_le.2 hroom, reduceCtorEq, decide_false, Option.isNone_none, Option.isSome_none,
    Bool.not_true, Bool.and_false, Bool.or_self, Bool.false_eq_true, if_false]
  rfl

/-- A buffered message stands in the queue of an end whose owner waits for nothing, and its acknowledgement sets out (07 R202). -/
theorem enqueueMsg_joins (hrx : e.rx = none) (hidle : s.OwnerIdle e) (hcount : s.Uncounted (locKey dst)) : ∃ t : State, s.enqueueMsg dst m = t ∧
    t.ep (locKey dst) = some { e with queue := e.queue ++ [m], pend := min 255 (e.pend + 1) } ∧
    t.DueIn (s.ackBack m dst.core) (.sendAck m { dst with gen := e.gen }) := by
  have hext := letIn_extends s dst m e.gen
  have hprocs := letIn_procs s dst m e.gen
  have hdue : (s.letIn dst m e.gen).DueIn (s.ackBack m dst.core) (.sendAck m { dst with gen := e.gen }) := dueIn_after ..
  rw [enqueueMsg_eq he hf hfrom hst hdying hfirst hreach hserver hroom]
  split
  · next q hq =>
    obtain ⟨hdir, hprocs', hgroups, -, hagenda⟩ := writeRing_same (s.letIn dst m e.gen) (foldOf dst.core) q m
    have hcycle := (congrArg State.cycle (writeRing_rest (s.letIn dst m e.gen) (foldOf dst.core) q m) :)
    rw [enqueued_ep hrx (ownerIdle_of_same hidle (hdir.trans hext.dir) (hprocs'.trans hprocs) rfl)
      (uncounted_of_groups hcount (hgroups.trans hext.groups))]
    refine ⟨_, rfl, ep_putEp_self .., ?_⟩
    unfold State.DueIn at hdue ⊢
    show (((s.letIn dst m e.gen).writeRing (foldOf dst.core) q m).cycle + _, _) ∈ ((s.letIn dst m e.gen).writeRing (foldOf dst.core) q m).agenda
    rwa [hcycle, hagenda]
  · rw [enqueued_ep hrx (ownerIdle_of_same hidle hext.dir hprocs rfl) (uncounted_of_groups hcount hext.groups)]
    exact ⟨_, rfl, ep_putEp_self .., hdue⟩

end

end Sys2Proof.Machine
end

section
/-! PROOFS. Credits, announcements, acknowledgements and data (07 R198 to R206, R212; 12 R369). -/

namespace Sys2Proof.Machine

/-! ### What changes an end (07 R202 to R204) -/

/-- An end that holds no message sends none. -/
theorem sendQueued_empty {s : State} {ke : Nat} {e : Ep} (he : s.ep ke = some e) (hqueue : e.queue = []) : s.sendQueued ke = s := by
  unfold State.sendQueued
  simp only [he, hqueue, ite_self]

/-- An end with a credit sends its oldest message (07 R202). -/
theorem sendQueued_next {s : State} {ke : Nat} {e : Ep} {m : Msg} {rest : List Msg} (he : s.ep ke = some e) (hrecv : e.recv = false) (hpend : e.pend ≠ 0)
    (hserver : e.server = none) (hqueue : e.queue = m :: rest) (hm : isBulk m.body = false) : s.sendQueued ke =
      (s.putEp ke { e with queue := rest, pend := e.pend - 1 }).after (s.oneway m.src.core e.peer.core) (.messageEnqueue e.peer m) := by
  unfold State.sendQueued
  rw [he]
  dsimp only
  rw [if_neg (by simp [hrecv, hpend]), hqueue]
  dsimp only
  rw [sendOut_message hserver, hm, oneway_putEp, if_neg nofun, Nat.add_zero]

section

variable {s : State} {dst : EndLoc} {ke : Nat} {e : Ep} (hend : s.endAt dst = some (ke, e)) (hidle : s.OwnerIdle e)
include hidle

/-- A change of an end is nothing to an owner that waits for nothing. -/
theorem wakeEnd_putEp (x : Ep) (ho : x.owner = e.owner) : (s.putEp ke x).wakeEnd ke = s.putEp ke x :=
  wakeEnd_of_idle (ep_putEp_self ..) (ownerIdle_of_same hidle rfl rfl ho)

include hend

theorem receiveAnnounce_eq (hrecv : e.recv = false) (hst : e.st = .opened) (hrx : (s.endAt e.peer).any (fun x => x.2.rx.isSome) = true) :
    receiveAnnounce dst s = s.putEp ke { e with announced := true } := by
  have hwaits : ((s.endAt e.peer).map (fun x => x.2.rx.isSome)).getD false = true := by
    cases h : s.endAt e.peer with
    | none => rw [h] at hrx; cases hrx
    | some x => rwa [h] at hrx
  unfold receiveAnnounce
  simp only [hend, hrecv, hst, hwaits, reduceCtorEq, decide_false, Bool.or_self, Bool.false_eq_true, if_false, if_true]
  exact wakeEnd_putEp hidle _ rfl

/-- A credit at an end that holds no message is kept (07 R202). -/
theorem creditReturn_kept (hrecv : e.recv = false) (hqueue : e.queue = []) : creditReturn dst s = s.putEp ke { e with pend := e.pend + 1 } := by
  unfold creditReturn
  rw [hend]
  dsimp only
  rw [if_neg (Bool.eq_false_iff.1 hrecv), sendQueued_empty (e := { e with pend := e.pend + 1 }) (ep_putEp_self ..) hqueue]
  exact wakeEnd_putEp hidle _ rfl

/-- A credit at an end that holds a message sends it (07 R202). -/
theorem creditReturn_sends {m : Msg} {rest : List Msg} (hrecv : e.recv = false) (hserver : e.server = none) (hpend : e.pend = 0)
    (hqueue : e.queue = m :: rest) (hm : isBulk m.body = false) : creditReturn dst s =
      (s.putEp ke { e with queue := rest, pend := 0 }).after (s.oneway m.src.core e.peer.core) (.messageEnqueue e.peer m) := by
  have hsend := sendQueued_next (s := s.putEp ke { e with pend := e.pend + 1 }) (ep_putEp_self ..) hrecv (Nat.succ_ne_zero _) hserver hqueue hm
  simp only [putEp_putEp, oneway_putEp, Nat.add_sub_cancel, hpend] at hsend
  unfold creditReturn
  rw [hend]
  dsimp only
  rw [if_neg (Bool.eq_false_iff.1 hrecv), hpend, hsend]
  exact wakeEnd_of_idle ((ep_after ..).trans (ep_putEp_self ..)) (ownerIdle_of_same hidle rfl rfl rfl)

theorem wakeup_eq (hrx : e.rx = none) (hcount : s.Uncounted ke) : wakeup dst s = s.putEp ke { e with pend := min 255 (e.pend + 1) } := by
  unfold wakeup
  simp only [hend]
  rw [countExpect_of_uncounted (uncounted_of_groups (t := s.putEp ke _) hcount rfl)]
  exact deliver_of_idle (ep_putEp_self ..) hrx (ownerIdle_of_same hidle rfl rfl rfl)

end

/-! ### Acknowledgements (07 R198, R200) -/

/-- A change of an end is nothing to an owner whose instruction is held on a channel. -/
theorem wakeEnd_of_held {s : State} {ke k h : Nat} {e : Ep} {p : Proc} {hd : Hold} (he : s.ep ke = some e) (hn : s.named e.owner = some (k, p))
    (hwait : p.wait = .chan h) (hhold : p.hold = some hd) (hports : ∀ q ∈ p.ports.toList, q.held = []) : s.wakeEnd ke = s := by
  unfold State.wakeEnd
  rw [he]
  dsimp only
  rw [modNamed_of_named hn]
  simp only [ports_getD_held hports, List.isEmpty_nil, if_true, hwait, hhold, Option.isNone_some, Bool.and_false, Bool.false_eq_true, if_false]
  exact List.foldl_fixed' (fun _ => rfl) _

/-- An end one of whose messages has been received. -/
def Ep.landed (e : Ep) : Ep := { e with infl := e.infl - 1 }

/-- A message received while the instruction of its owner is held on a channel counts no longer (07 R198). -/
theorem acked_of_held {s : State} {ke k h : Nat} {e : Ep} {p : Proc} {hd : Hold} (he : s.ep ke = some e) (hmove : e.move = none)
    (hn : s.named e.owner = some (k, p)) (hwait : p.wait = .chan h) (hhold : p.hold = some hd) (hports : ∀ q ∈ p.ports.toList, q.held = []) :
    s.acked ke = s.putEp ke e.landed := by
  have hwake := wakeEnd_of_held (s := s.putEp ke e.landed) (e := e.landed) (ep_putEp_self ..) hn hwait hhold hports
  unfold State.acked
  rw [he]
  dsimp only
  split
  · next v hv => rw [hmove] at hv; cases hv
  · exact hwake

/-- A transfer that is done at an end of an owner that waits for nothing (07 R212). -/
theorem transferDone_idle {s : State} {ke id : Nat} {b : Bool} {e : Ep} (he : s.ep ke = some e) (hids : (id, b) ∈ e.ids) (hmove : e.move = none)
    (hserver : isDrover e.server = false) (hidle : s.OwnerIdle e) (hcount : s.Uncounted ke) (failed : Bool) : s.transferDone ke id failed =
      s.putEp ke { e with ids := e.ids.filter (fun i => i.1 != id), done := nextDone e.issued (e.ids.filter (fun i => i.1 != id)), infl := e.infl - 1,
                          fail := e.fail || failed } := by
  have hlive : e.ids.any (fun i => i.1 == id) = true := List.any_eq_true.2 ⟨_, hids, beq_self_eq_true id⟩
  unfold State.transferDone
  simp only [he, hlive, hserver, hmove, Bool.not_true, Bool.false_eq_true, if_false]
  exact settled_putEp (e := e) rfl hidle hcount

/-- An end whose peer is where an acknowledgement says. -/
def Ep.withPeer (e : Ep) (l : EndLoc) : Ep :=
  { e with peer := if e.peer.core = l.core && e.peer.ix = l.ix && l.gen ≤ e.peer.gen then e.peer else l }

section

variable {s : State} {m : Msg} {ke : Nat} {e : Ep} (peer : EndLoc) (hend : s.endAt m.src = some (ke, e)) (hmove : e.move = none) (htile : m.tile = none)
  (hserver : isDrover e.server = false)
include hend hmove htile hserver

/-- The acknowledgement of a SENDA's message completes its transfer (07 R200, R212). -/
theorem sendAck_transfer {id : Nat} (hid : m.tid = some id) (hids : (id, true) ∈ e.ids) (hidle : s.OwnerIdle e) (hcount : s.Uncounted ke) :
    sendAck m peer s = s.putEp ke { e.withPeer peer with
      ids := e.ids.filter (fun i => i.1 != id), done := nextDone e.issued (e.ids.filter (fun i => i.1 != id)), infl := e.infl - 1,
      fail := e.fail || false } := by
  unfold sendAck
  simp only [hend, hid, htile]
  rw [← Ep.withPeer, transferDone_idle (e := e.withPeer peer) (ep_putEp_self ..) hids hmove hserver (ownerIdle_of_same hidle rfl rfl rfl)
    (uncounted_of_groups (t := s.putEp ke _) hcount rfl), putEp_putEp]
  rfl

/-- The end to which an acknowledgement goes rests. -/
def State.restEnd (s : State) (l : EndLoc) : State :=
  match s.endAt l with
  | some (ke, e) => s.putEp ke { e with waitK := 0, st := if e.st = EpSt.wait then EpSt.opened else e.st }
  | none => s

omit hend hmove htile hserver in
theorem restEnd_infl (s : State) (l : EndLoc) (j : Nat) : ((s.restEnd l).ep j).map Ep.infl = (s.ep j).map Ep.infl := by
  unfold State.restEnd
  split
  · next kx x hx =>
    rw [ep_putEp]
    split
    · next hj => rw [hj, ep_of_endAt hx]; rfl
    · rfl
  · rfl

omit hend hmove htile hserver in
theorem restEnd_procs (s : State) (l : EndLoc) : (s.restEnd l).procs = s.procs := by
  unfold State.restEnd
  split <;> rfl

/-- The acknowledgement of a message lets the instruction that sent it retire (07 R198). -/
theorem sendAck_retires {k h : Nat} {p : Proc} {hd : Hold} (hid : m.tid = none) (hn : s.named m.sender = some (k, p)) (howner : e.owner = m.sender)
    (hports : ∀ q ∈ p.ports.toList, q.held = []) (hwait : p.wait = .chan h) (hhold : p.hold = some hd) (hat : hd.issuedAt = m.at0) :
    sendAck m peer s = (((s.putEp ke (e.withPeer peer).landed).restEnd m.src).retire k hd.consume []).ready k := by
  have hacked : (s.putEp ke (e.withPeer peer)).acked ke = s.putEp ke (e.withPeer peer).landed := by
    rw [acked_of_held (e := e.withPeer peer) (ep_putEp_self ..) hmove (show s.named e.owner = _ by rwa [howner]) hwait hhold hports, putEp_putEp]
  have hproc : ((s.putEp ke (e.withPeer peer).landed).restEnd m.src).proc k = some p := by
    unfold State.proc
    rw [restEnd_procs]
    exact proc_of_named hn
  unfold sendAck
  simp only [hend, hid, htile, hserver, Bool.false_eq_true, if_false]
  rw [← Ep.withPeer, hacked, modNamed_of_named (show (s.putEp ke _).named m.sender = some (k, p) from hn)]
  simp only [hwait, hhold, hat, if_true]
  exact complete_eq hproc hhold []

end

/-! ### Data (07 R206) -/

/-- The bytes of a block stand at the receiver, and the length is on its way to the register (07 R206). -/
theorem transferDataWritten_bytes {s : State} {x : Xfer} {bs : List Byte} {k : Nat} {p : Proc} {h : Hold} {r : Reg} (hbody : x.msg.body = .bytes bs)
    (hrow : x.rowBytes = 0) (htile : x.tile = none) (hn : s.named x.receiver = some (k, p)) (hhold : p.hold = some h) (hreg : x.reg = some r) :
    transferDataWritten x s = ((s.writeMem (windowBase x.core + x.off) bs).poisonAt
      ((s.bodyHurt x.msg).map (fun i => windowBase x.core + x.off + i))).after 2
        (.fill ⟨x.receiver, r, BitVec.ofNat 2 h.arg⟩ (BitVec.ofNat 64 bs.length)) := by
  have hread : s.bodyRead x.msg.body = bs := by rw [hbody]; rfl
  have hn' : ((s.writeMem (windowBase x.core + x.off) bs).poisonAt ((s.bodyHurt x.msg).map (fun i => windowBase x.core + x.off + i))).named
      x.receiver = some (k, p) := hn
  unfold transferDataWritten
  simp only [hread, hrow, htile, if_true]
  rw [modNamed_of_named hn']
  simp only [hhold, hreg, hbody]

end Sys2Proof.Machine
end

section
/-! PROOFS. Stomped packets, and ends that go (07 R189, R199; 12 R369). -/

namespace Sys2Proof.Machine

/-! ### A stomped packet (12 R369) -/

theorem logEvent_agenda (s : State) (pkg source kind detail : Nat) : (s.logEvent pkg source kind detail).agenda = s.agenda := rfl

theorem addLife_agenda (s : State) (pkg ctr n : Nat) : (s.addLife pkg ctr n).agenda = s.agenda := rfl

/-- A transfer that comes to nothing takes no more than its acknowledgements out of flight. -/
theorem unmatch_agenda (s : State) (x : Xfer) : ∀ y ∈ (s.unmatch x).agenda, y ∈ s.agenda := by
  have hnamed (t : State) (f : Nat → Proc → State → State) (hf : ∀ k p u, (f k p u).agenda = u.agenda) :
      (t.modNamed x.receiver f).agenda = t.agenda := by
    unfold State.modNamed
    split
    · exact hf ..
    · rfl
  have hep (t : State) (k : Nat) (f : Ep → Ep) : (t.modEp k f).agenda = t.agenda := by
    unfold State.modEp
    split <;> rfl
  have hall : (s.unmatch x).agenda = s.agenda.filter (fun e => match e.2 with | .sendAck m _ => m != x.msg | _ => true) := by
    unfold State.unmatch
    dsimp only
    rw [hnamed]
    · split <;> split <;> rfl
    · intro k p u
      split
      · exact hep ..
      · rfl
  intro y hy
  rw [hall] at hy
  exact (List.mem_filter.1 hy).1

/-- The matches of the transfers in a list come to nothing. -/
def State.unmatchAll (s : State) (l : List (Nat × Ev)) : State :=
  l.foldl (fun t e => match e.2 with | .transferDataWritten x => t.unmatch x | _ => t) s

theorem unmatchAll_agenda (s : State) (l : List (Nat × Ev)) : ∀ y ∈ (s.unmatchAll l).agenda, y ∈ s.agenda := by
  induction l generalizing s with
  | nil => exact fun _ h => h
  | cons e l ih =>
    intro y hy
    have hy' := ih _ y hy
    dsimp only at hy'
    split at hy'
    · exact unmatch_agenda _ _ y hy'
    · exact hy'

theorem packetStomp_gone {s : State} {dst : EndLoc} {m : Msg} (h : s.Due (.offerArrival dst m)) (die : Nat) :
    ¬ (packetStomp die dst m s).Due (.offerArrival dst m) ∧
      (packetStomp die dst m s).DueIn (s.ackWait (pkgOf m.src.core) (pkgOf dst.core)) (.ackTimeout dst m) := by
  have hcarried : carries dst m (.offerArrival dst m) = true := by simp [carries]
  have hany : s.agenda.any (fun e => carries dst m e.2) = true := by
    obtain ⟨c, hc⟩ := h
    exact List.any_eq_true.2 ⟨_, hc, hcarried⟩
  have hleft := unmatchAll_agenda { s with agenda := s.agenda.filter (fun e => !carries dst m e.2) } (s.agenda.filter (fun e => carries dst m e.2))
  unfold packetStomp
  rw [if_pos hany]
  refine ⟨fun hdue => ?_, dueIn_after ..⟩
  obtain hdue | ⟨c, hc⟩ := (due_after_iff ..).1 hdue
  · cases hdue
  · rw [addLife_agenda, logEvent_agenda] at hc
    have hmem := (List.mem_filter.1 (hleft _ hc)).2
    rw [hcarried] at hmem
    cases hmem

/-! ### Ends that stay while others go -/

/-- Two entries of one end: its state, its owner and its direction are the same. -/
structure Ep.Alike (e y : Ep) : Prop where
  st : y.st = e.st
  owner : y.owner = e.owner
  recv : y.recv = e.recv

theorem Ep.Alike.refl (e : Ep) : e.Alike e := ⟨rfl, rfl, rfl⟩

/-- From s to t the processes are the same, and end ke is still there. -/
structure State.KeepsEnd (s t : State) (ke : Nat) : Prop where
  procs : t.procs = s.procs
  dir : t.dir = s.dir
  ep : ∀ e, s.ep ke = some e → ∃ y, t.ep ke = some y ∧ e.Alike y

namespace State.KeepsEnd

variable {s t u : State} {ke : Nat}

theorem refl (s : State) (ke : Nat) : s.KeepsEnd s ke := ⟨rfl, rfl, fun e h => ⟨e, h, .refl e⟩⟩

theorem trans (h : s.KeepsEnd t ke) (g : t.KeepsEnd u ke) : s.KeepsEnd u ke where
  procs := g.procs.trans h.procs
  dir := g.dir.trans h.dir
  ep e he := by
    obtain ⟨y, hy, halike⟩ := h.ep e he
    obtain ⟨z, hz, halike'⟩ := g.ep y hy
    exact ⟨z, hz, halike'.st.trans halike.st, halike'.owner.trans halike.owner, halike'.recv.trans halike.recv⟩

theorem of_same (hprocs : t.procs = s.procs) (hdir : t.dir = s.dir) (heps : t.eps = s.eps) : s.KeepsEnd t ke :=
  ⟨hprocs, hdir, fun e h => ⟨e, by unfold State.ep at h ⊢; rwa [heps], .refl e⟩⟩

theorem putEp {j : Nat} {x y : Ep} (hx : s.ep j = some x) (hxy : x.Alike y) : s.KeepsEnd (s.putEp j y) ke where
  procs := rfl
  dir := rfl
  ep e he := by
    rw [ep_putEp]
    split
    · next h =>
      rw [h, hx, Option.some.injEq] at he
      exact ⟨y, rfl, he ▸ hxy⟩
    · exact ⟨e, he, .refl e⟩

theorem endReserve {j : Nat} {x : Ep} (hx : s.ep j = some x) : s.KeepsEnd (s.endReserve j x) ke := by
  unfold State.endReserve
  split
  · exact refl ..
  · have hfirst : s.KeepsEnd (s.putEp j { x with waitK := 0 }) ke := putEp hx ⟨rfl, rfl, rfl⟩
    dsimp only
    split
    · next kp y hy =>
      split
      · have hsecond := hfirst.trans (putEp (ke := ke) (ep_of_endAt hy) (y := { y with reserved := false }) ⟨rfl, rfl, rfl⟩)
        split
        · exact hsecond.trans (of_same rfl rfl rfl)
        · exact hsecond
      · exact hfirst
    · exact hfirst

theorem foldl {α : Type} {f : State → α → State} (hf : ∀ (t : State) (x : α), t.KeepsEnd (f t x) ke) (l : List α) (s : State) :
    s.KeepsEnd (l.foldl f s) ke := by
  induction l generalizing s with
  | nil => exact refl ..
  | cons x l ih => exact (hf s x).trans (ih _)

theorem closeServer (s : State) (j : Nat) (x : Ep) (ke : Nat) : s.KeepsEnd (s.closeServer j x) ke := by
  unfold State.closeServer
  split
  · split
    · exact refl ..
    · exact of_same rfl rfl rfl
  · refine foldl (fun t d => ?_) _ s
    exact foldl (fun u _ => of_same (t := u.after 0 (.droverReplyRelease d.1)) rfl rfl rfl) _ t
  · exact of_same (disarm_procs ..) (State.Extends.disarm ..).dir (disarm_eps ..)
  · exact refl ..

/-- An end that is not on its way to another owner is there still, and so it is while others are deleted. -/
theorem live {e : Ep} (h : s.KeepsEnd t ke) (he : s.ep ke = some e) (hst : e.st ≠ .rebind) : ∃ y, t.ep ke = some y ∧ y.st ≠ .rebind := by
  obtain ⟨y, hy, halike⟩ := h.ep e he
  exact ⟨y, hy, by rwa [halike.st]⟩

end State.KeepsEnd

/-- The end that a message carried goes with the message. -/
def State.dropPassed (del : State → Nat → State) (s : State) (l : EndLoc) : State :=
  match s.endAt l with
  | some (kp, x) => if x.st = .rebind && x.move.isNone then del s kp else s
  | none => s

section

variable {ke : Nat} {del : State → Nat → State}
  (hdel : ∀ (s : State) (kp : Nat) (e : Ep), s.ep ke = some e → e.st ≠ .rebind → kp ≠ ke → s.KeepsEnd (del s kp) ke)
include hdel

theorem dropPassed_keeps {s : State} {e : Ep} (he : s.ep ke = some e) (hst : e.st ≠ .rebind) (l : EndLoc) : s.KeepsEnd (s.dropPassed del l) ke := by
  unfold State.dropPassed
  split
  · next kp x hx =>
    split
    · next hmoving =>
      refine hdel s kp e he hst fun h => ?_
      have hsame := he.symm.trans (h ▸ ep_of_endAt hx)
      rw [Option.some.inj hsame] at hst
      simp [hst] at hmoving
    · exact .refl ..
  · exact .refl ..

theorem foldl_dropPassed_keeps (ls : List EndLoc) {s : State} {e : Ep} (he : s.ep ke = some e) (hst : e.st ≠ .rebind) :
    s.KeepsEnd (ls.foldl (State.dropPassed del) s) ke := by
  induction ls generalizing s e with
  | nil => exact .refl ..
  | cons l ls ih =>
    have hfirst := dropPassed_keeps hdel he hst l
    obtain ⟨y, hy, hyst⟩ := hfirst.live he hst
    exact hfirst.trans (ih hy hyst)

end

/-- An entry that passed on to an end that is deleted passes on to none. -/
def Ep.forget (e : Ep) (ke : Nat) : Ep := if (e.fwd.map locKey) == some ke then { e with fwd := some nowhereLoc } else e

theorem forget_alike (e : Ep) (ke : Nat) : e.Alike (e.forget ke) := by
  unfold Ep.forget
  split
  · exact ⟨rfl, rfl, rfl⟩
  · exact .refl e

/-- The table of ends without the one that is deleted. -/
def forgetEnd (eps : Tab Ep) (ke : Nat) : Tab Ep := (tdel eps ke).map (fun x => (x.1, x.2.forget ke))

theorem tget_map_values {α : Type} (t : Tab α) (f : α → α) (i : Nat) : tget (t.map (fun x => (x.1, f x.2))) i = (tget t i).map f := by
  induction t with
  | nil => rfl
  | cons x t ih =>
    obtain ⟨j, v⟩ := x
    rw [List.map_cons, tget, tget]
    split
    · rfl
    · exact ih

/-- An end other than the one deleted keeps its state, its owner and its direction. -/
theorem forgetEnd_keeps {s t : State} {kp ke : Nat} (hne : ke ≠ kp) (hprocs : t.procs = s.procs) (hdir : t.dir = s.dir)
    (heps : t.eps = forgetEnd s.eps kp) : s.KeepsEnd t ke := by
  refine ⟨hprocs, hdir, fun e he => ?_⟩
  have hget : t.ep ke = (s.ep ke).map (fun x => x.forget kp) := by
    unfold State.ep
    rw [heps, forgetEnd, tget_map_values (tdel s.eps kp) (fun x : Ep => x.forget kp), tget_tdel_ne _ hne]
  rw [hget, he, Option.map_some]
  exact ⟨_, rfl, forget_alike ..⟩

/-- What deleting an end does before it deletes those that the end's messages carried. -/
def State.removeEnd (s : State) (ke : Nat) (e : Ep) : State :=
  let t := s.endReserve ke e
  let t1 := { t with agenda := t.agenda.filter (fun x => !s.goesWith ke x.2), eps := forgetEnd t.eps ke }
  let t2 := match e.rq with
    | some q => t1.freeRing (foldOf (ke / 512)) q
    | none => t1
  let t3 := (t2.modCore (ke / 512) (fun c => { c with matchTab := c.matchTab.filter (fun x => x.2 != ke % 512) })).closeServer ke e
  if e.server.isSome || !s.hasPeer ke e then t3 else t3.after (s.oneway (ke / 512) e.peer.core) (.peerDeleted e.peer)

theorem deleteEnd_succ {s : State} {ke : Nat} {e : Ep} (he : s.ep ke = some e) (fuel : Nat) : s.deleteEnd ke (fuel + 1) =
    (passedEnds e ++ s.passedTo ke).foldl (State.dropPassed (fun u kp => u.deleteEnd kp fuel)) (s.removeEnd ke e) := by
  rw [State.deleteEnd, he]
  rfl

theorem removeEnd_keeps {s : State} {kp ke : Nat} {x : Ep} (hx : s.ep kp = some x) (hne : ke ≠ kp) : s.KeepsEnd (s.removeEnd kp x) ke := by
  have hforget : s.KeepsEnd { s.endReserve kp x with
      agenda := (s.endReserve kp x).agenda.filter (fun x => !s.goesWith kp x.2), eps := forgetEnd (s.endReserve kp x).eps kp } ke :=
    (State.KeepsEnd.endReserve hx).trans (forgetEnd_keeps hne rfl rfl rfl)
  have hring (q : Option Nat) (t : State) : t.KeepsEnd (match q with | some q => t.freeRing (foldOf (kp / 512)) q | none => t) ke := by
    split
    · exact .of_same rfl rfl rfl
    · exact .refl ..
  have hclosed := ((hforget.trans (hring x.rq _)).trans (.of_same (t := State.modCore _ (kp / 512) (fun c => { c with
    matchTab := c.matchTab.filter (fun x => x.2 != kp % 512) })) rfl rfl rfl)).trans (.closeServer _ kp x ke)
  unfold State.removeEnd
  dsimp only
  split
  · exact hclosed
  · exact hclosed.trans (.of_same rfl rfl rfl)

/-- An end that is not on its way to another owner is there still when another end is deleted (07 R189). -/
theorem deleteEnd_keeps {ke : Nat} (fuel : Nat) : ∀ (s : State) (kp : Nat) (e : Ep), s.ep ke = some e → e.st ≠ .rebind → kp ≠ ke →
    s.KeepsEnd (s.deleteEnd kp fuel) ke := by
  induction fuel with
  | zero => exact fun s _ _ _ _ _ => .refl s ke
  | succ fuel ih =>
    intro s kp e he hst hne
    cases hx : s.ep kp with
    | none =>
      rw [State.deleteEnd, hx]
      exact .refl ..
    | some x =>
      have hremoved := removeEnd_keeps hx hne.symm
      obtain ⟨y, hy, hyst⟩ := hremoved.live he hst
      rw [deleteEnd_succ hx]
      exact hremoved.trans (foldl_dropPassed_keeps ih _ hy hyst)

end Sys2Proof.Machine
end

section
/-! PROOFS. Dead ends (07 R189, R199). -/

namespace Sys2Proof.Machine

/-! ### What a send end loses -/

/-- A process that waits for nothing, at no port of which an element is held. -/
def Proc.Idle (p : Proc) : Prop := p.wait = .none ∧ ∀ q ∈ p.ports.toList, q.held = []

theorem ports_putPort (p : Proc) (n : Nat) (x : Port) : (p.putPort n x).ports.toList = p.ports.toList.set n x := by
  simp [Proc.putPort]

theorem idle_putPort {p : Proc} (h : p.Idle) (n : Nat) {x : Port} (hx : x.held = []) : (p.putPort n x).Idle := by
  refine ⟨h.1, fun q hq => ?_⟩
  rw [ports_putPort] at hq
  obtain hold | rfl := List.mem_or_eq_of_mem_set hq
  · exact h.2 q hold
  · exact hx

/-- A port of a process, bound to an end that has lost its messages, fails. -/
def State.failPort (s : State) (ke : Nat) (p q : Proc) (i : Nat) : Proc :=
  let x := q.ports.toList.getD i {}
  if x.bound && x.stream.isNone && (s.portEnd p x true).map Prod.fst == some ke then q.putPort i { x with failed := true } else q

/-- The ports of a process on an end that has lost its messages have failed. -/
def State.failPorts (s : State) (ke : Nat) (p : Proc) : Proc := (List.range 4).foldl (s.failPort ke p) p

theorem idle_failPort {q : Proc} (h : q.Idle) (s : State) (ke : Nat) (p : Proc) (i : Nat) : (s.failPort ke p q i).Idle := by
  unfold State.failPort
  dsimp only
  split
  · exact idle_putPort h i (ports_getD_held h.2 i)
  · exact h

theorem idle_failPorts {p : Proc} (h : p.Idle) (s : State) (ke : Nat) : (s.failPorts ke p).Idle := by
  have hall (l : List Nat) (q : Proc) (hq : q.Idle) : (l.foldl (s.failPort ke p) q).Idle := by
    induction l generalizing q with
    | nil => exact hq
    | cons i l ih => exact ih _ (idle_failPort hq s ke p i)
  exact hall _ p h

section

variable {s : State} {ke : Nat} {e : Ep} (he : s.ep ke = some e) (hids : e.ids = [])
include he hids

/-- A send end without SENDAs under way loses its messages: the ends that they carried go, and ports on it may fail. -/
theorem loseSends_eq : ∃ u : State, (s.loseSends ke = u ∨ s.loseSends ke = u.modNamed e.owner (fun k p v => v.putProc k (s.failPorts ke p))) ∧
    ∀ j x, s.ep j = some x → x.st ≠ .rebind → s.KeepsEnd u j := by
  have hfail (n : Nat) : (s.putEp ke { e with infl := n }).failSendas ke =
      s.putEp ke { e with infl := n, queue := if e.recv then e.queue else [] } := by
    unfold State.failSendas
    rw [ep_putEp_self]
    simp only [hids, List.filter_nil, List.foldl_nil, putEp_putEp]
  refine ⟨(passedEnds { e with offers := [] }).foldl (State.dropPassed (fun u kp => u.deleteEnd kp 64))
    ((s.putEp ke { e with infl := e.infl - (e.infl - s.acksComing ke - e.ids.length) }).failSendas ke), ?_, fun j x hx hst => ?_⟩
  · unfold State.loseSends
    rw [he]
    exact ite_eq_or_eq ..
  · rw [hfail]
    have hput : s.KeepsEnd (s.putEp ke _) j := .putEp he (y := { e with
      infl := e.infl - (e.infl - s.acksComing ke - e.ids.length), queue := if e.recv then e.queue else [] }) ⟨rfl, rfl, rfl⟩
    obtain ⟨y, hy, hyst⟩ := hput.live hx hst
    exact hput.trans (foldl_dropPassed_keeps (deleteEnd_keeps 64) _ hy hyst)

/-- Live ends are there still after a send end has lost its messages. -/
theorem loseSends_ep {j : Nat} {x : Ep} (hx : s.ep j = some x) (hst : x.st ≠ .rebind) : ∃ y, (s.loseSends ke).ep j = some y ∧ x.Alike y := by
  obtain ⟨u, hu, hkeeps⟩ := loseSends_eq he hids
  obtain ⟨y, hy, halike⟩ := (hkeeps j x hx hst).ep x hx
  have hmod : (u.modNamed e.owner (fun k p v => v.putProc k (s.failPorts ke p))).ep j = u.ep j := by
    unfold State.modNamed
    split <;> rfl
  obtain h | h := hu <;> rw [h]
  · exact ⟨y, hy, halike⟩
  · exact ⟨y, hmod.trans hy, halike⟩

/-- The owner of a send end that has lost its messages waits for no more than before. -/
theorem loseSends_idle (hst : e.st ≠ .rebind) (hidle : s.OwnerIdle e) : (s.loseSends ke).OwnerIdle e := by
  obtain ⟨u, hu, hkeeps⟩ := loseSends_eq he hids
  have hkeep := hkeeps ke e he hst
  have hidle' : u.OwnerIdle e := ownerIdle_of_same hidle hkeep.dir hkeep.procs rfl
  obtain h | h := hu <;> rw [h]
  · exact hidle'
  · cases hn : u.named e.owner with
    | none => rwa [modNamed_of_none hn]
    | some x =>
      obtain ⟨k, p⟩ := x
      rw [modNamed_of_named hn]
      intro k' p' hn'
      obtain ⟨hkey, hp'⟩ := named_eq_some_iff.1 hn'
      obtain rfl := Option.some.inj ((named_eq_some_iff.1 hn).1.symm.trans hkey)
      rw [State.putProc_proc_self] at hp'
      rw [← Option.some.inj hp']
      exact idle_failPorts (hidle' k p hn) s ke

end

/-! ### An end dies -/

/-- A dead end (07 Table 7.2). -/
def Ep.killed (e : Ep) : Ep := { e with st := .dead, rx := none, announced := false, waitK := 0 }

/-- A live send end without SENDAs under way dies with its channel (07 R189). -/
theorem killEnd_send {s : State} {ke : Nat} {e : Ep} (he : s.ep ke = some e) (hst : e.st = .opened) (hrecv : e.recv = false) (hids : e.ids = [])
    (hidle : s.OwnerIdle e) : ∃ y : Ep, s.killEnd ke = (s.loseSends ke).putEp ke y.killed := by
  have hlive : e.st ≠ .rebind := by rw [hst]; nofun
  obtain ⟨y, hy, halike⟩ := loseSends_ep he hids he hlive
  have hidle' : (s.loseSends ke).OwnerIdle y := ownerIdle_of_same (loseSends_idle he hids hlive hidle) rfl rfl halike.owner
  refine ⟨y, ?_⟩
  unfold State.killEnd
  rw [he]
  dsimp only
  rw [if_neg (by rw [hst]; nofun), if_neg (Bool.eq_false_iff.1 hrecv), hy]
  dsimp only
  rw [if_neg (by rw [halike.st, hst]; nofun), if_neg (by simp [halike.recv, hrecv])]
  exact failWait_of_idle (ep_putEp_self ..) (ownerIdle_of_same hidle' rfl rfl rfl)

/-- A live receive end that holds messages is dead once they are taken (07 R189). -/
theorem killEnd_receive {s : State} {ke : Nat} {e : Ep} (he : s.ep ke = some e) (hst : e.st = .opened) (hrecv : e.recv = true) (hqueue : e.queue ≠ []) :
    s.killEnd ke = s.putEp ke { e with dying := true, offers := [] } := by
  unfold State.killEnd
  rw [he]
  dsimp only
  rw [if_neg (by rw [hst]; nofun), if_pos hrecv, ep_putEp_self]
  dsimp only
  rw [if_neg (by rw [hst]; nofun), if_pos (by simp [hrecv, hqueue]), putEp_putEp]

/-- A live receive end that holds nothing dies with its channel (07 R189). -/
theorem killEnd_receive_empty {s : State} {ke : Nat} {e : Ep} (he : s.ep ke = some e) (hst : e.st = .opened) (hrecv : e.recv = true)
    (hqueue : e.queue = []) (hpend : e.pend = 0) (hidle : s.OwnerIdle e) : s.killEnd ke = s.putEp ke ({ e with offers := [] } : Ep).killed := by
  unfold State.killEnd
  rw [he]
  dsimp only
  rw [if_neg (by rw [hst]; nofun), if_pos hrecv, ep_putEp_self]
  dsimp only
  rw [if_neg (by rw [hst]; nofun), if_neg (by simp [hqueue, hpend]), putEp_putEp]
  exact failWait_of_idle (ep_putEp_self ..) (ownerIdle_of_same hidle rfl rfl rfl)

/-! ### A packet of which nothing is heard (07 R199) -/

section

variable {s : State} {dst : EndLoc} {m : Msg} {ke : Nat} {e : Ep} (hend : s.endAt m.src = some (ke, e)) (hst : e.st = .opened)
include hend hst

/-- Without an acknowledgement a channel with RETRY sends the packet again (07 R199). -/
theorem ackTimeout_retry (hserver : e.server = none) (hq : typQueued e.typ = false) (hm : isBulk m.body = false) (hretry : typRetry e.typ = true) :
    ackTimeout dst m s = s.after (s.oneway m.src.core dst.core) (.offerArrival dst m) := by
  unfold ackTimeout
  rw [hend]
  simp [hst, hretry, hserver, hq, hm]

/-- Without an acknowledgement a channel that does not retry dies (07 R199). -/
theorem ackTimeout_kills (hretry : typRetry e.typ = false) {kd : Nat} {y : Ep} (hdst : s.endAt dst = some (kd, y)) (hne : kd ≠ ke)
    (hyst : y.st = .opened) (hyqueue : y.queue = []) (hypend : y.pend = 0) (hyrecv : y.recv = true) (hrecv : e.recv = false) (hids : e.ids = [])
    (hidle : s.OwnerIdle e) (hyidle : s.OwnerIdle y) :
    ((ackTimeout dst m s).ep ke).map Ep.st = some .dead ∧ ((ackTimeout dst m s).ep kd).map Ep.st = some .dead := by
  have hep : (s.putEp kd ({ y with offers := [] } : Ep).killed).ep ke = some e := (ep_putEp_ne _ _ hne.symm).trans (ep_of_endAt hend)
  have heq : ackTimeout dst m s = (s.putEp kd ({ y with offers := [] } : Ep).killed).killEnd ke := by
    unfold ackTimeout
    rw [hend]
    dsimp only
    rw [if_neg (by rw [hst]; nofun), if_neg (by simp [hretry]), if_neg (by simp [hretry]), hdst]
    dsimp only
    rw [killEnd_receive_empty (ep_of_endAt hdst) hyst hyrecv hyqueue hypend hyidle]
  obtain ⟨z, hz⟩ := killEnd_send hep hst hrecv hids (ownerIdle_of_same hidle rfl rfl rfl)
  obtain ⟨w, hw, halike⟩ := loseSends_ep hep hids (ep_putEp_self ..) (show EpSt.dead ≠ .rebind by nofun)
  rw [heq, hz]
  refine ⟨by rw [ep_putEp_self]; rfl, ?_⟩
  rw [ep_putEp_ne _ _ hne, hw, Option.map_some, halike.st]
  rfl

end

end Sys2Proof.Machine
end

section
/-! PROOFS. Messages arrive (07 R198 to R206, R209, R212, R221; 12 R369). -/

namespace Sys2Proof.Machine

theorem messagesArrive : Claims.MessagesArrive := by
  refine ⟨fun s f v k p h hd hn hwait hhold hdst harg hmatched hwords => ?_, fun s dst m e he hf hfrom hst hdying hsrc hreach hk3 => ?_,
    fun s dst m e he hcore hf hfrom hst hdying hfirst hreach hserver hroom hrx hidle hcount => ?_, fun s dst ke e hend hidle => ?_,
    fun s m peer ke k h e p hd hend hmove htile hserver hn howner hports => ?_,
    fun s x bs k p h r hbody hrow htile hok hn hhold hreg => ?_,
    fun s name k h ke due p hd e x d hn hwait hhold hname hargs _ hh hrx htimed hres hdue hst => ?_,
    fun s die dst m hdue => ⟨_, rfl, packetStomp_gone hdue die⟩, fun s dst m ke kd e y hend hst hserver hq hm => ?_⟩
  · have hfill := fill_matched hn hwait hhold hdst harg hmatched hwords v
    exact ⟨congrArg Host.Outcome.next hfill, fun hport honce => congrArg Host.Outcome.next (hfill.trans (fillReg_complete hport honce hhold v))⟩
  · have hst' : e.st = .opened ∨ e.st = .wait := by simpa using hst
    refine ⟨fun due hold => congrArg Host.Outcome.next (offerArrival_older he hf hfrom hst' hdying hsrc hreach hold), fun hfirst => ?_⟩
    intro held
    refine ⟨fun hrx hroom hidle => ?_, fun hrx hfull => ⟨?_, ?_⟩, fun x v hrx ho hm hk hcap hat => ?_⟩
    · refine congrArg Host.Outcome.next ((offerArrival_held he hf hfrom hst' hdying hsrc hreach hfirst hk3 (.inr hroom)).trans ?_)
      exact deliver_of_idle (ep_putEp_self ..) hrx (ownerIdle_of_same hidle rfl rfl rfl)
    · exact congrArg Host.Outcome.next (offerArrival_full he hf hfrom hst' hdying hsrc hreach hfirst hk3 hrx hfull)
    · exact congrArg Host.Outcome.next (offerResend_eq he hf hsrc)
    · have harrive := offerArrival_held he hf hfrom hst' hdying hsrc hreach hfirst hk3 (.inl (by rw [hrx]; rfl))
      have hheld : epHeld e = true := by obtain h | h := hst' <;> rw [epHeld, h]
      obtain ⟨t, ht, hfill, hack⟩ := deliver_waiting_word (s := s.putEp (locKey dst) { e with offers := e.offers ++ [m] }) (ep_putEp_self ..) hheld hrx
        hk3 (typQueued_of_cap hcap) (by rw [ho]; rfl) hm hat
      rw [oneway_putEp] at hack
      exact ⟨t, congrArg Host.Outcome.next (harrive.trans ht), hfill, hack⟩
  · obtain ⟨t, ht, hep, hdue⟩ := enqueueMsg_joins he hf hfrom hst hdying hfirst hreach hserver hroom hrx hidle hcount
    refine ⟨t, congrArg Host.Outcome.next ((if_pos hcore).trans ht), ?_, hdue⟩
    rw [hep]
    rfl
  · refine ⟨fun hrecv hst hrx => congrArg Host.Outcome.next (receiveAnnounce_eq hend hidle hrecv hst hrx),
      fun hrecv hqueue => congrArg Host.Outcome.next (creditReturn_kept hend hidle hrecv hqueue), fun m rest hrecv _ hserver hpend hqueue hm =>
        ⟨_, congrArg Host.Outcome.next (creditReturn_sends hend hidle hrecv hserver hpend hqueue hm), dueIn_after .., ?_⟩,
      fun _ hrx hcount => congrArg Host.Outcome.next (wakeup_eq hend hidle hrx hcount), fun hrecv hst hids => ⟨s.killEnd ke, ?_, ?_⟩,
      fun hrecv hst hqueue => ?_⟩
    · rw [ep_after, ep_putEp_self]
      rfl
    · exact congrArg Host.Outcome.next (show peerDeleted dst s = s.killEnd ke by rw [peerDeleted, hend])
    · obtain ⟨y, hy⟩ := killEnd_send (ep_of_endAt hend) hst hrecv hids hidle
      rw [hy, ep_putEp_self]
      rfl
    · refine congrArg Host.Outcome.next (Eq.trans ?_ (killEnd_receive (ep_of_endAt hend) hst hrecv hqueue))
      rw [peerDeleted, hend]
  · refine ⟨fun hid hwait hhold hat =>
        ⟨_, congrArg Host.Outcome.next (sendAck_retires peer hend hmove htile hserver hid hn howner hports hwait hhold hat), ?_, ?_⟩,
      fun id hid hids hwait hcount =>
        ⟨_, congrArg Host.Outcome.next (sendAck_transfer peer hend hmove htile hserver hid hids ?_ hcount), ?_, rfl⟩⟩
    · rw [restEnd_infl, ep_putEp_self]
      rfl
    · exact restEnd_procs ..
    · intro k' p' hn'
      rw [howner, hn, Option.some.injEq, Prod.mk.injEq] at hn'
      exact hn'.2 ▸ ⟨hwait, hports⟩
    · rw [ep_putEp_self, Bool.or_false]
      rfl
  · exact ⟨_, congrArg Host.Outcome.next (transferDataWritten_bytes hbody hrow htile hn hhold hreg), dueIn_after .., rfl,
      fun n => readByte_writeMem hok _ n bs⟩
  · have hst' : p.st = .blocked ∨ p.st = .parked := by simpa [or_comm] using hst
    refine ⟨_, congrArg Host.Outcome.next (trecvExpiry_due hn hwait hhold hargs hh hrx htimed hres hdue hst'), ?_, rfl⟩
    rw [ep_putEp_self]
    rfl
  · refine ⟨fun hretry => congrArg Host.Outcome.next (ackTimeout_retry hend hst hserver hq hm hretry),
      fun hretry hdst hne hyst hyqueue hypend hyrecv hrecv hids _ hidle hyidle => ⟨_, rfl, ?_⟩⟩
    exact ackTimeout_kills hend hst hretry hdst hne hyst hyqueue hypend hyrecv hrecv hids hidle hyidle

end Sys2Proof.Machine
end

section
/-! PROOFS. Ends are made, told about and deleted (07 R182 to R189, R195). -/

namespace Sys2Proof.Machine

theorem leastFree_lt {used : List Nat} {lo n r : Nat} (h : leastFree used lo n = some r) : r < lo + n := by
  induction n generalizing lo with
  | zero => simp [leastFree] at h
  | succ n ih =>
    unfold leastFree at h
    split at h
    · have := ih h
      omega
    · have := Option.some.inj h
      omega

/-- A free entry lies in its core's table, and is the number of no entry there. -/
theorem freeEntry_spec {s : State} {core lo ix : Nat} (h : s.freeEntry core lo = some ix) (hlo : lo ≤ 512) :
    lo ≤ ix ∧ ix < 512 ∧ s.ep (epKey core ix) = none := by
  obtain ⟨hfree, hle⟩ := leastFree_not_mem h
  have hlt := leastFree_lt h
  refine ⟨hle, by omega, ?_⟩
  cases he : s.ep (epKey core ix) with
  | none => rfl
  | some e =>
    have hix : ix < 512 := by omega
    have hkey : epKey core ix / 512 = core ∧ epKey core ix % 512 = ix := by unfold epKey; omega
    obtain ⟨hcore, hmod⟩ := hkey
    exact absurd (List.mem_map.2 ⟨_, List.mem_filter.2 ⟨mem_of_tget he, by simp [hcore]⟩, hmod⟩) hfree

section

variable {s : State} {k : Nat} {p : Proc} {d : Reg} {a : Src} {x : Word}

section
variable (hrun : s.Runs k p [srcField a 0] [x] [d])
include hrun

/-! ### CHNEW (07 R182, R186) -/

theorem exec_chnew_illegal (h : typOk x false = false) : exec (.chnew d a) s = .next (s.raiseWord k 0x01) := by
  obtain ⟨hi, hg, ht⟩ := hrun
  refine (onCur_next hi _).trans (congrArg _ ((issue_ok hg ht _).trans ?_))
  simp only [List.getD_cons_zero, h, Bool.not_false, if_true]
  rfl

section
variable (hok : typOk x false = true)
include hok

theorem exec_chnew_full (h : s.freeHandle p.name 0 = none) :
    exec (.chnew d a) s = .next (s.retire k (consumeMask p [srcField a 0]) [(d, BitVec.ofNat 64 (2 ^ 63 + 0x21))]) := by
  obtain ⟨hi, hg, ht⟩ := hrun
  refine (onCur_next hi _).trans (congrArg _ ((issue_ok hg ht _).trans ?_))
  simp only [List.getD_cons_zero, hok, h, Bool.not_true, Bool.false_eq_true, if_false]
  rfl

/-- The send end of a new channel without a queue. -/
def State.newSend (s : State) (p : Proc) (t : Word) (h ix : Nat) : Ep :=
  { owner := p.name, handle := h, launch := s.launchNo p, recv := false, typ := t, peer := ⟨p.core, ix, 0⟩, pend := 0 }

/-- The receive end of a new channel without a queue. -/
def State.newReceive (s : State) (p : Proc) (t : Word) (h ix : Nat) : Ep :=
  { owner := p.name, handle := h, launch := s.launchNo p, recv := true, typ := t, peer := ⟨p.core, ix, 0⟩, rq := none }

theorem exec_chnew {i j m n : Nat} (hq : typQueued x = false) (hi0 : s.freeHandle p.name 0 = some i) (hj : s.freeHandle p.name (i + 1) = some j)
    (hm : s.freeEntry p.core 0 = some m) (hn : s.freeEntry p.core (m + 1) = some n) : exec (.chnew d a) s =
      .next (((s.putEp (p.core * 512 + m) (s.newSend p x i n)).putEp (p.core * 512 + n) (s.newReceive p x j m)).retire k
        (consumeMask p [srcField a 0]) [(d, BitVec.ofNat 64 (j * 2 ^ 8 + i))]) := by
  obtain ⟨hi, hg, ht⟩ := hrun
  refine (onCur_next hi _).trans (congrArg _ ((issue_ok hg ht _).trans ?_))
  simp only [List.getD_cons_zero, hok, hi0, hj, hm, hn, hq, Bool.not_true, Bool.false_eq_true, if_false]
  rfl

end

/-! ### CHQRY and CHPOLL (07 R195) -/

theorem exec_chqry (hx : x.toNat < 64) : exec (.chqry d a) s = .next ((s.endOwn p x.toNat).retire k (consumeMask p [srcField a 0])
    [(d, match s.handle p.name x.toNat with | some (_, e) => endWord e | none => BitVec.ofNat 64 (2 ^ 63))]) := by
  obtain ⟨hi, hg, ht⟩ := hrun
  exact (onCur_next hi _).trans (congrArg _ ((issue_ok hg ht _).trans (if_neg (Nat.not_le.2 hx))))

theorem exec_chpoll (hx : x.toNat < 64) : exec (.chpoll d a) s = .next ((s.endOwn p x.toNat).retire k (consumeMask p [srcField a 0])
    [(d, match s.handle p.name x.toNat with | some (_, e) => (if s.endReady e then 1 else 0) | none => allOnes)]) := by
  obtain ⟨hi, hg, ht⟩ := hrun
  exact (onCur_next hi _).trans (congrArg _ ((issue_ok hg ht _).trans (if_neg (Nat.not_le.2 hx))))

end

theorem bitOf_mul (b : Bool) (n : Nat) : bitOf b * n = if b then n else 0 := by
  cases b <;> simp [bitOf]

/-- The information word of an end, field by field (07 R195). -/
theorem endWord_eq (e : Ep) : endWord e = BitVec.ofNat 64
    ((match e.st with | .opened => 1 | .wait => 2 | .rebind => 3 | .forward => 4 | .dead => 5) * 2 ^ 60 + typKind e.typ * 2 ^ 56 +
      (if e.recv then 2 ^ 55 else 0) + typCap e.typ * 2 ^ 47 + min e.pend 255 * 2 ^ 39 + e.rq.getD 0 * 2 ^ 33 +
      (if e.rq.isSome then 2 ^ 32 else 0) + e.done * 2 ^ 8) := by
  rw [endWord, bitOf_mul, bitOf_mul]
  cases e.st <;> rfl

/-- A live receive end of words, blocks, tiles or handles is ready when it holds a message (07 R195). -/
theorem endReady_receive {e : Ep} (hrecv : e.recv = true) (hst : e.st ≠ .dead) (hk : typKind e.typ ≠ 3) :
    s.endReady e = !decide (e.queue = [] ∧ e.offers = []) := by
  unfold State.endReady
  rw [if_neg hst, if_pos hrecv]
  cases hq : e.queue <;> cases ho : e.offers <;> simp [hk]

/-! ### CHDEL (07 R189) -/

section
variable (hrun : s.Runs k p [srcField a 0] [x] []) (hx : x.toNat < 64)
include hrun hx

theorem exec_chdel : exec (.chdel a) s = .next (match s.handle p.name x.toNat with
    | none => s.raise k 0x0A x
    | some (ke, e) => if e.infl ≠ 0 then s.waitChan k (.chan x.toNat) else (s.deleteEnd ke 64).retire k (consumeMask p [srcField a 0]) []) := by
  obtain ⟨hi, hg, ht⟩ := hrun
  exact (onCur_next hi _).trans (congrArg _ ((issue_ok hg ht _).trans (if_neg (Nat.not_le.2 hx))))

end

theorem closeServer_of_none (s : State) (ke : Nat) {e : Ep} (h : e.server = none) : s.closeServer ke e = s := by
  unfold State.closeServer
  rw [h]

theorem forgetEnd_self (eps : Tab Ep) (ke : Nat) : tget (forgetEnd eps ke) ke = none := by
  rw [forgetEnd, tget_map_values (tdel eps ke) (fun y : Ep => y.forget ke), tget_tdel_self]
  rfl

/-- An end at which nothing waits is gone when it is deleted, and its peer is told (07 R189). -/
theorem removeEnd_gone {ke : Nat} {e : Ep} (hserver : e.server = none) (hwait : e.waitK = 0) (hpeer : s.hasPeer ke e = true) :
    (s.removeEnd ke e).ep ke = none ∧ (s.removeEnd ke e).DueIn (s.oneway (ke / 512) e.peer.core) (.peerDeleted e.peer) ∧
      (s.removeEnd ke e).procs = s.procs := by
  unfold State.removeEnd
  simp only [endReserve_of_unreserved ke (show e.waitK ≠ 3 by omega), closeServer_of_none _ ke hserver, hserver, hpeer, Option.isSome_none,
    Bool.not_true, Bool.or_self, Bool.false_eq_true, if_false]
  refine ⟨?_, dueIn_after .., ?_⟩
  · split <;> exact forgetEnd_self ..
  · split <;> rfl

/-- An end of which nothing is in flight or held goes alone (07 R189). -/
theorem deleteEnd_alone {ke : Nat} {e : Ep} (he : s.ep ke = some e) (hqueue : e.queue = []) (ho : e.offers = []) (hpassed : s.passedTo ke = [])
    (fuel : Nat) : s.deleteEnd ke (fuel + 1) = s.removeEnd ke e := by
  rw [deleteEnd_succ he, hpassed, passedEnds, hqueue, ho]
  rfl

end

end Sys2Proof.Machine
end

section
/-! PROOFS. Ends move (07 R190 to R193). -/

namespace Sys2Proof.Machine

/-! ### CHBIND (07 R192) -/

/-- A new producer leaves every process on its core. -/
theorem produce_named_core {s : State} {k kn n : Nat} {p q : Proc} (hp : s.proc k = some p) (hn : s.named n = some (kn, q)) (d : Reg) :
    ∃ y, (s.produce k d).named n = some (kn, y) ∧ y.core = q.core := by
  obtain ⟨hkey, hq⟩ := named_eq_some_iff.1 hn
  have hkey' : (s.produce k d).keyOf n = some kn := by
    unfold State.keyOf
    rw [(State.Extends.produce s k d).dir]
    exact hkey
  have hproc : (s.produce k d).proc kn = if kn = k then some (p.withProducer d (p.nextTag d)) else s.proc kn := by
    unfold State.proc
    rw [produce_procs hp, tget_tput]
  by_cases h : kn = k
  · rw [if_pos h] at hproc
    obtain rfl := Option.some.inj (hp.symm.trans (h ▸ hq))
    exact ⟨_, named_eq_some_iff.2 ⟨hkey', hproc⟩, (congrArg Proc.core (withProducer_rest p d (p.nextTag d)) :)⟩
  · rw [if_neg h] at hproc
    exact ⟨q, named_eq_some_iff.2 ⟨hkey', hproc.trans hq⟩, rfl⟩

section

variable {s : State} {k : Nat} {p : Proc} {d : Reg} {a b : Src} {x y : Word} {ke : Nat} {e : Ep}
variable (hrun : s.Runs k p [srcField a 0, srcField b 1] [x, y] [d]) (htag : p.HasTag d) (hx : x.toNat < 64) (hy : y.toNat < 2 ^ 48)
  (hres : y.toNat / 64 % 4 = 0) (hend : s.boundEnd p.name x.toNat = some (ke, e)) (hep : s.ep ke = some e) (hwait : e.waitK ≠ 3)
include hrun htag hx hy hres hend hep hwait

/-- CHBIND of an end that its process holds and has not reserved (07 R192). -/
theorem exec_chbind : exec (.chbind d a b) s = .next (
    if endBusy e then
      ((s.produce k d).after 1 (.fill (p.dest d) (BitVec.ofNat 64 (2 ^ 63 + 0x25)))).retire k (consumeMask p [srcField a 0, srcField b 1]) []
    else ((s.produce k d).startMove p ke e (p.dest d) (y.toNat / 256) (y.toNat % 64)).retire k (consumeMask p [srcField a 0, srcField b 1]) []) := by
  obtain ⟨hi, hg, ht⟩ := hrun
  refine (onCur_next hi _).trans (congrArg _ ((issueFill_ok hg ht htag _).trans ?_))
  have hown : x.toNat / 256 = 0 := Nat.div_eq_of_lt (by omega)
  have hxres : x.toNat / 64 % 4 = 0 := by rw [Nat.div_eq_of_lt hx]
  have hxhigh : ¬ 2 ^ 48 ≤ x.toNat := by omega
  have hxlow : x.toNat % 64 = x.toNat := Nat.mod_eq_of_lt hx
  simp only [List.getD_cons_succ, List.getD_cons_zero, hown, hxres, hres, hxhigh, Nat.not_le.2 hy, hxlow, hend, endReserve_of_unreserved ke hwait, hep,
    Option.getD_some, ne_eq, not_true_eq_false, decide_false, Bool.false_and, Bool.or_self, Bool.false_eq_true, if_false]
  rfl

end

/-- The move of an end: it is REBIND, and its entry leaves in the next cycle (07 R192). -/
theorem startMove_spec (s : State) (p : Proc) (ke : Nat) (e : Ep) (dest : FillTo) {owner kn : Nat} (handle : Nat) {n : Proc}
    (hn : s.named owner = some (kn, n)) :
    (s.startMove p ke e dest owner handle).DueIn 1 (.chbindMove { key := ke, owner := owner, handle := handle, core := n.core, why := .chbind dest }) ∧
      ((s.startMove p ke e dest owner handle).ep ke).map (fun z => (z.st, z.move)) =
        some (.rebind, some { key := ke, owner := owner, handle := handle, core := n.core, why := .chbind dest }) := by
  unfold State.startMove
  simp only [hn, Option.map_some, Option.getD_some]
  refine ⟨dueIn_after .., ?_⟩
  rw [ep_after]
  split <;> rw [ep_after, ep_putEp_self] <;> rfl

/-! ### The entry leaves and is written again (07 R191 to R193) -/

section

variable {s : State} {v : EndMove} {e : Ep} {k : Nat} {p : Proc} {d : FillTo} (he : s.ep v.key = some e) (hst : e.st = .rebind)
  (hmove : e.move = some v) (hwhy : v.why = .chbind d)
include he hst hmove hwhy

theorem chbindAck_zero : chbindAck v 0 s = fill d 0 (s.putEp v.key { e with st := .forward, move := none }) := by
  unfold chbindAck
  rw [he]
  dsimp only
  rw [if_neg (by simp [hst, hmove]), if_pos rfl, hwhy]

variable (hn : s.named v.owner = some (k, p)) (hcore : p.core = v.core)
include hn hcore

/-- The entry of an end of which nothing is in flight sets out for the new owner's core (07 R192). -/
theorem chbindMove_leaves (hring : needsRing e (v.key / 512) v.core = false) (hinfl : e.infl = 0) (hleft : s.hasLeft v.key = false) : chbindMove v s =
    (s.putEp v.key { e with move := some v }).after (s.oneway (v.key / 512) v.core + 4) (.endpointInstall v) := by
  have hmigr : (v.why == .migr) = false := by rw [hwhy]; rfl
  have hsame : ({ v with core := v.core } : EndMove) = v := rfl
  unfold chbindMove
  rw [he]
  dsimp only
  rw [if_neg (by simp [hst, hmove, hinfl, hmigr, hleft]), if_neg (by simp [hn]), hn]
  simp only [Option.map_some, Option.getD_some, hcore, hring, Bool.false_eq_true, if_false, Nat.add_zero]

/-- Where the new owner cannot take the end, its old core learns the code (07 R192). -/
theorem endpointInstall_refused (hcode : s.installCode v e (some v.handle) ≠ 0) : endpointInstall v s =
    s.after (s.oneway v.core (v.key / 512)) (.chbindAck v (s.installCode v e (some v.handle))) := by
  unfold endpointInstall
  rw [he]
  dsimp only
  rw [if_neg (by simp [hst, hmove]), hn]
  simp only [Option.map_some, hcore, ne_eq, not_true_eq_false, if_false, hwhy, hcode, not_false_eq_true, if_true]

/-- The entry of a moved send end that holds no message (07 R193). -/
def Ep.installed (e : Ep) (owner handle : Nat) : Ep :=
  { e with owner := owner, handle := handle, gen := (e.gen + 1) % 256, st := .opened, waitK := 0, rx := none, reserved := false, announced := false,
           move := none, fwd := none, deadline := false, armed := none, dying := false }

/-- The entry that such an end has left (07 R193). -/
def Ep.left (e : Ep) (l : EndLoc) : Ep :=
  { e with fwd := some l, queue := [], offers := [], rx := none, rq := none, ids := [], armed := none, dying := false }

end

/-- A queue that stays in its fold, or none, moves with its entry. -/
theorem placeEnd_eps {s : State} {a b owner handle : Nat} {e : Ep} (he : s.ep a = some e) (hring : needsRing e (a / 512) (b / 512) = false)
    (harmed : e.armed = none) (hdying : e.dying = false) (hst : e.st ≠ .dead) (hwait : e.waitK = 0) :
    (s.placeEnd a b owner handle e.rq).eps = ((s.putEp a (e.left ⟨b / 512, b % 512, (e.gen + 1) % 256⟩)).putEp b (e.installed owner handle)).eps ∧
      (s.placeEnd a b owner handle e.rq).procs = s.procs ∧ (s.placeEnd a b owner handle e.rq).dir = s.dir := by
  have hsubs (t : State) : (t.moveSubs a b).eps = t.eps ∧ (t.moveSubs a b).procs = t.procs ∧ (t.moveSubs a b).dir = t.dir := by
    unfold State.moveSubs
    dsimp only
    split <;> exact ⟨rfl, rfl, rfl⟩
  unfold State.placeEnd
  simp only [he, hring, harmed, hdying, hst, endReserve_of_unreserved a (show e.waitK ≠ 3 by omega), Bool.false_and, decide_false, Bool.or_self,
    Bool.false_eq_true, if_false]
  exact hsubs (((s.putEp a (e.left ⟨b / 512, b % 512, (e.gen + 1) % 256⟩)).putEp b (e.installed owner handle)).moveExpects a b)

end Sys2Proof.Machine
end

section
/-! PROOFS. An end stands at its new owner, and the events of channels (07 R189 to R195, R198 to R206). -/

namespace Sys2Proof.Machine

/-- The entry of an end that moves to a process is written anew, and the old core learns of it (07 R193). -/
def State.installAt (s : State) (v : EndMove) (b : Nat) (q : Option Nat) : State :=
  (s.placeEnd v.key b v.owner v.handle q).after (s.oneway v.core (v.key / 512)) (.chbindAck v 0)

section

variable {s : State} {v : EndMove} {e : Ep} {k ix : Nat} {p : Proc} {d : FillTo} (he : s.ep v.key = some e) (hst : e.st = .rebind)
  (hn : s.named v.owner = some (k, p)) (hring : needsRing e (v.key / 512) v.core = false) (hix : s.freeEntry v.core 0 = some ix)
include he hst hring hix

/-- The new entry of a moved end that holds nothing, and the old one. -/
theorem installAt_ep (harmed : e.armed = none) (hdying : e.dying = false) (hwait : e.waitK = 0) :
    (s.installAt v (epKey v.core ix) e.rq).ep (epKey v.core ix) = some (e.installed v.owner v.handle) ∧
      (s.installAt v (epKey v.core ix) e.rq).ep v.key = some (e.left ⟨v.core, ix, (e.gen + 1) % 256⟩) ∧
      (s.installAt v (epKey v.core ix) e.rq).procs = s.procs ∧ (s.installAt v (epKey v.core ix) e.rq).dir = s.dir := by
  obtain ⟨-, hlt, hfree⟩ := freeEntry_spec hix (Nat.zero_le _)
  have hkey : epKey v.core ix / 512 = v.core ∧ epKey v.core ix % 512 = ix := by unfold epKey; omega
  obtain ⟨hkcore, hkix⟩ := hkey
  have hne : v.key ≠ epKey v.core ix := by
    intro h
    rw [h, hfree] at he
    cases he
  obtain ⟨heps, hprocs, hdir⟩ := placeEnd_eps (b := epKey v.core ix) (owner := v.owner) (handle := v.handle) he (by rwa [hkcore]) harmed hdying
    (by rw [hst]; nofun) hwait
  rw [hkcore, hkix] at heps
  have hep (j : Nat) : (s.installAt v (epKey v.core ix) e.rq).ep j =
      ((s.putEp v.key (e.left ⟨v.core, ix, (e.gen + 1) % 256⟩)).putEp (epKey v.core ix) (e.installed v.owner v.handle)).ep j := by
    unfold State.ep
    rw [← heps]
    rfl
  exact ⟨(hep _).trans (ep_putEp_self ..), (hep _).trans ((ep_putEp_ne _ _ hne).trans (ep_putEp_self ..)), hprocs, hdir⟩

variable (hmove : e.move = some v) (hwhy : v.why = .chbind d) (hcore : p.core = v.core) (hcode : s.installCode v e (some v.handle) = 0)
  (hrecv : e.recv = false)
include hn hmove hwhy hcore hcode hrecv

/-- The entry of a send end is written at a free place of its new owner's core (07 R193). -/
theorem endpointInstall_eq : endpointInstall v s =
    (((s.installAt v (epKey v.core ix) e.rq).deliver (epKey v.core ix)).sendQueued (epKey v.core ix)).wakeEnd (epKey v.core ix) := by
  unfold endpointInstall
  rw [he]
  dsimp only
  rw [if_neg (by simp [hst, hmove]), hn]
  simp only [Option.map_some, hcore, ne_eq, not_true_eq_false, if_false, hwhy, hcode, hix, hring, hrecv, Bool.false_eq_true, Option.getD_some]
  rfl

/-- The entry of a moved send end stands at its new owner's core, and the old one passes on to it (07 R193). -/
theorem endpointInstall_stands (hqueue : e.queue = []) (harmed : e.armed = none) (hdying : e.dying = false) (hwait : e.waitK = 0)
    (hpwait : p.wait = .none) (hports : ∀ q ∈ p.ports.toList, q.held = []) :
    (endpointInstall v s).DueIn (s.oneway v.core (v.key / 512)) (.chbindAck v 0) ∧
      (endpointInstall v s).ep (v.core * 512 + ix) = some (e.installed v.owner v.handle) ∧
      (endpointInstall v s).ep v.key = some (e.left ⟨v.core, ix, (e.gen + 1) % 256⟩) := by
  obtain ⟨hnew, hold, hprocs, hdir⟩ := installAt_ep he hst hring hix harmed hdying hwait
  have hidle : s.OwnerIdle (e.installed v.owner v.handle) := by
    intro k' p' hn'
    rw [show (e.installed v.owner v.handle).owner = v.owner from rfl, hn, Option.some.injEq, Prod.mk.injEq] at hn'
    exact hn'.2 ▸ ⟨hpwait, hports⟩
  have hidle' : (s.installAt v (epKey v.core ix) e.rq).OwnerIdle (e.installed v.owner v.handle) := ownerIdle_of_same hidle hdir hprocs rfl
  rw [endpointInstall_eq he hst hn hring hix hmove hwhy hcore hcode hrecv, deliver_of_idle hnew rfl hidle', sendQueued_empty hnew hqueue,
    wakeEnd_of_idle hnew hidle']
  exact ⟨dueIn_after .., hnew, hold⟩

end

theorem endsMove : Claims.EndsMove := by
  refine ⟨fun s k p d a x hrun => ?_, fun s k p a x hrun hx => ⟨fun hnone => ?_, fun ke e hh hep => ⟨fun hinfl => ?_, ?_⟩⟩,
    fun s k p d a b x y ke kn e n hrun htag hx hy hres hend hep hn => ⟨fun hst hwait hk3 => ?_, fun hbusy => ?_⟩,
    fun s v e k ix p d he hst hmove hwhy hn hcore hring => ⟨fun hinfl hleft => ?_, ?_, ?_, fun hcode => ?_⟩⟩
  · intro c
    refine ⟨exec_chnew_illegal hrun, exec_chnew_full hrun, fun i j m n hok hq hi hj hm hn => ?_, fun hnone hx => ⟨?_, ?_⟩,
      fun ke e hh hx => ⟨?_, endReserve_of_unreserved ke, fun hrecv hst hk3 => ?_⟩⟩
    · obtain ⟨hnm, -, -⟩ := freeEntry_spec hn (by have := leastFree_lt hm; omega)
      refine ⟨_, s.newSend p x i n, s.newReceive p x j m, exec_chnew hrun hok hq hi hj hm hn, ?_, ep_putEp_self .., rfl, rfl, rfl, rfl, rfl, rfl, rfl,
        rfl, rfl, rfl, rfl⟩
      exact (ep_putEp_ne _ _ (by omega)).trans (ep_putEp_self ..)
    · rw [exec_chqry hrun hx, State.endOwn, hnone]
    · rw [exec_chpoll hrun hx, State.endOwn, hnone]
      rfl
    · rw [exec_chqry hrun hx, State.endOwn, hh]
      exact congrArg (fun w => Host.Outcome.next ((s.endReserve ke e).retire k c [(d, w)])) (endWord_eq e)
    · rw [exec_chpoll hrun hx, State.endOwn, hh]
      dsimp only
      rw [endReady_receive hrecv hst hk3]
      by_cases h : e.queue = [] ∧ e.offers = [] <;> simp [h, c]
  · rw [exec_chdel hrun hx, hnone]
  · rw [exec_chdel hrun hx, hh]
    exact congrArg _ (if_pos hinfl)
  · intro hinfl hserver hwait hqueue ho hpassed hpeer
    refine ⟨s.removeEnd ke e, ?_, removeEnd_gone hserver hwait hpeer⟩
    rw [exec_chdel hrun hx, hh, ← deleteEnd_alone hep hqueue ho hpassed 63]
    exact congrArg _ (if_neg (not_not.2 hinfl))
  · have hfree : endBusy e = false := by simp [endBusy, hst, hwait, hk3]
    obtain ⟨n', hn', hncore⟩ := produce_named_core hrun.1.2 hn d
    obtain ⟨hdue, hmoved⟩ := startMove_spec (s.produce k d) p ke e (p.dest d) (y.toNat % 64) hn'
    rw [hncore] at hdue hmoved
    refine ⟨_, _, (exec_chbind hrun htag hx hy hres hend hep (by omega)).trans (congrArg _ (if_neg (Bool.eq_false_iff.1 hfree))), hdue, rfl, hmoved⟩
  · have hbusy' : endBusy e = true := by
      obtain ⟨h, -⟩ | ⟨-, h⟩ := hbusy <;> simp [endBusy, h]
    exact (exec_chbind hrun htag hx hy hres hend hep (by omega)).trans (congrArg _ (if_pos hbusy'))
  · refine ⟨_, congrArg Host.Outcome.next (chbindMove_leaves he hst hmove hwhy hn hcore hring hinfl hleft), dueIn_after .., ?_⟩
    rw [ep_after, ep_putEp_self]
    rfl
  · intro hcode hix hrecv hqueue _ harmed hdying hwait hpwait hports
    obtain ⟨hdue, hnew, hold⟩ := endpointInstall_stands he hst hn hring hix hmove hwhy hcore hcode hrecv hqueue harmed hdying hwait
      hpwait hports
    refine ⟨_, rfl, hdue, ?_, ?_⟩
    · rw [hnew]
      rfl
    · rw [hold]
      rfl
  · exact congrArg Host.Outcome.next (chbindAck_zero he hst hmove hwhy)
  · exact congrArg Host.Outcome.next (endpointInstall_refused he hst hmove hwhy hn hcore hcode)

/-- Settles O38: what arrives at an end changes that end and, unless its owner waits there, nothing else, so each event is one equation about
the entry; an end moves in three such steps, and goes by one. -/
theorem channelEvents : Obligations.ChannelEvents := ⟨messagesArrive, endsMove⟩

end Sys2Proof.Machine
end
